-- ==== Sys2Proof/Word.lean ====
section
/-! DEFINITION. The word types of the S384 model and their plainest arithmetic (R9, R11): registers are 64-bit
vectors, a cache line is 64 bytes held as one 512-bit vector with byte 0 in bits 7:0. -/

namespace Sys2Proof

/-- A 64-bit register or memory doubleword (R11). -/
abbrev Word := BitVec 64

/-- One byte. -/
abbrev Byte := BitVec 8

/-- The 64 bytes of a line, byte `i` in bits `8i+7:8i` (R9, R26). -/
abbrev LineData := BitVec 512

/-- Byte `i` of a line. -/
def lineByte (l : LineData) (i : Nat) : Byte := l.extractLsb' (8 * i) 8

/-- The line whose byte `i` is `f i`. -/
def lineOfBytes (f : Nat → Byte) : LineData :=
  (List.range 64).foldr (fun i acc => (acc <<< 8) ||| (f i).zeroExtend 512) 0

/-- The 512-bit mask that has eight ones for each set bit of a 64-bit byte mask (R179). -/
def spreadMask (m : Word) : LineData :=
  (List.range 64).foldr (fun i acc => (acc <<< 8) ||| (if m.getLsbD i then 0xFF else 0)) 0

/-- `new` in the bytes that the mask selects, `old` elsewhere (R214, R216). -/
def mergeLine (m : Word) (new old : LineData) : LineData :=
  (new &&& spreadMask m) ||| (old &&& ~~~ spreadMask m)

end Sys2Proof
end

