-- ==== Sys2Proof/Syntax.lean ====
section
/-! DEFINITION. The commands of the Jiura S384 package: one constructor of `Instr` for each row of
spec/opcode_table.json, with the row's operands. The package is modelled as a block (no program counter of its own):
each command is a step the table lists, and its operands are what arrives from outside that step (a written value,
a message, a host completion, a sensor reading). `who` names the agent that makes a register access. -/

namespace Sys2Proof

/-- A direction of a die link (R22): up to the IOD, down to the compute die. -/
inductive Dir | up | dn
  deriving DecidableEq, Repr

/-- Who makes a register access: a core, the Archivist, or the board-management port (R17, R111, R473). -/
inductive Agent
  | core (c : Fin 384)
  | archivist
  | bmc
  deriving DecidableEq, Repr

/-- A PCI Express function: a VF by pool index, or the PF of a port (R318, R323). -/
inductive FnId
  | vf (v : Fin 4096)
  | pf (p : Fin 8)
  deriving DecidableEq, Repr

/-- A host port, as a class D requester; a compute die; the call-slip engine; the Archivist DMA (R96, R398). -/
inductive Src
  | die (d : Fin 16)
  | hp (p : Fin 8)
  | csq
  | arc (secure : Bool)
  deriving DecidableEq, Repr

/-- Where a REGISTER_WRITE goes (R14): a control-space address, a BAR 0 offset of a function with the access size in
bytes (R322), a CSR of a core by the CSR instruction with that encoding, or vtype and vl of a core by the vsetvli, vsetivli or
vsetvl with that encoding, which takes its values from the encoding and the registers it names. -/
inductive RegTarget
  | ctrl (addr : Nat)
  | bar (f : FnId) (off : Nat) (bytes : Nat)
  | csr (c : Fin 384) (insn : BitVec 32)
  | vset (c : Fin 384) (insn : BitVec 32)
  deriving DecidableEq, Repr

/-- A parcel as a receiver sees it (R26, R28, R29): 128 bytes, eight CRC-16 fields (group g in bits 16g+15:16g), the
sequence byte, and the status byte that the status lanes carried beside it (R22, R30). -/
structure Parcel where
  bits : BitVec 1024
  crc  : BitVec 128
  seq  : BitVec 8
  stat : BitVec 8
  deriving DecidableEq, Repr

/-- What a compute die sends in the capability exchange of R43. -/
structure DieOffer where
  rev      : BitVec 8
  coreGood : BitVec 24
  feat     : BitVec 32
  deriving DecidableEq, Repr

/-- The message opcodes of R217. -/
inductive Opc
  | rdShared | rdOwn | upgrade | claim | rdOnce | wrFull | wrPartial | cboClean | cboFlush
  | wbData | wbKeep | evictClean | discard
  | snpShared | snpInv | snpBinv
  | cmp | snpRspI | snpRspS | wbAck | wbAckStale | cmpPartial
  | dataS | dataE | dataM | dataNc | snpDataI | snpDataS
  | mgmt
  deriving DecidableEq, Repr

/-- A fabric message: the header of R215 (or of R216 for WR_PARTIAL) and its line. `line` is the line number
(physical address div 64), `src` the unit that sent it, `die` the compute die it is addressed to where there is one. -/
structure Msg where
  op         : Opc
  hand       : Nat
  gen        : BitVec 2
  agent      : Nat
  firstChunk : BitVec 2
  poison     : Bool
  txn        : Nat
  line       : Nat
  data       : LineData
  mask       : Word
  src        : Src
  die        : Nat
  deriving DecidableEq, Repr

/-- An element of a vector load or store (R121, R179): the register that starts its group, its index, its byte offset from the
base address, whether it is the last that the instruction performs, and the instruction's encoding. -/
structure VElem where
  reg  : Fin 32
  idx  : Nat
  off  : Word
  last : Bool
  insn : BitVec 32
  deriving DecidableEq, Repr

/-- A destination or source of a load or store: an integer or floating-point register, or a vector element. -/
inductive DataReg
  | x (r : Fin 32)
  | f (r : Fin 32)
  | v (e : VElem)
  deriving DecidableEq, Repr

/-- A scalar load (CORE_LOAD): address x[base] + imm, `bytes` of 1, 2, 4 or 8, sign extension, and whether the
encoding is a compressed one. -/
structure LoadOp where
  rd     : DataReg
  base   : Fin 32
  imm    : BitVec 12
  bytes  : Nat
  signed : Bool
  rvc    : Bool
  deriving DecidableEq, Repr

/-- A scalar store (CORE_STORE). -/
structure StoreOp where
  rs2   : DataReg
  base  : Fin 32
  imm   : BitVec 12
  bytes : Nat
  rvc   : Bool
  deriving DecidableEq, Repr

/-- The operations of the A extension. -/
inductive AmoFn | swap | add | and | or | xor | min | max | minu | maxu
  deriving DecidableEq, Repr

/-- An AMO, LR or SC: registers, width (4 or 8 bytes) and ordering bits. -/
structure AmoOp where
  fn    : AmoFn
  rd    : Fin 32
  rs1   : Fin 32
  rs2   : Fin 32
  bytes : Nat
  aq    : Bool
  rl    : Bool
  deriving DecidableEq, Repr

/-- The kind of a memory access, for permissions and fault causes. -/
inductive Acc | fetch | load | store
  deriving DecidableEq, Repr

/-- Why a walk is made (R158): for an access that the hart retires, for one on a speculative path, or by the prefetchers. -/
inductive WalkWhy | retired | speculative | prefetch
  deriving DecidableEq, Repr

/-- Which timer compare reached its time (R124, R152). -/
inductive Timer | machine | supervisor | virtualSupervisor
  deriving DecidableEq, Repr

/-- The credit classes of R219. -/
inductive CreditClass | req | wb | snp
  deriving DecidableEq, Repr

/-- A DIMM as its serial presence data and training give it (R264, MC_DIMM, MC_TIMING). -/
structure DimmInfo where
  height  : BitVec 3
  pranks  : BitVec 1
  density : BitVec 1
  width   : BitVec 1
  deriving DecidableEq, Repr

/-- What boot phase 4 finds on one channel (R264): the DIMMs of slots 0 and 1, whether training at the channel's data
rate succeeded, and the timings. -/
structure ChanTrain where
  chan   : Fin 16
  slot0  : Option DimmInfo
  slot1  : Option DimmInfo
  ok     : Bool
  cl     : BitVec 8
  trcd   : BitVec 8
  trp    : BitVec 8
  trfcsb : BitVec 12
  tras   : Nat
  deriving DecidableEq, Repr

/-- The status of a completion (R329, R330); `ep` is a success with EP set, `crs` Configuration Request Retry Status (R336). -/
inductive CplStatus | ok | ur | ca | ep | crs
  deriving DecidableEq, Repr

/-- A read completion: the tag, its status, whether it is the last one of its read, and its bytes in address order. -/
structure Cpl where
  tag    : Nat
  status : CplStatus
  last   : Bool
  bytes  : List Byte
  deriving DecidableEq, Repr

/-- The errors of a port's link that are fatal (R340). -/
inductive LinkError | malformed | flowControl | overflow | dataLink
  deriving DecidableEq, Repr

/-- The kinds of inbound request (R331). `cfgRead` and `cfgWrite` name the function by `fn`; memory requests give the
address; `other` is a kind the port does not support (R315). What arrives may instead show an error of the link (R340): a fatal
one, or damage that a replay repairs. -/
inductive TlpKind | cfgRead | cfgWrite | memRead | memWrite | other (posted : Bool) | fatal (e : LinkError) | damaged
  deriving DecidableEq, Repr

/-- An inbound request. `fn` is the function number on the port (0 the PF, v the v-th VF), `addr` a bus address or a
configuration offset, `bytes` the payload of a write, `len` the length of a read, `enables` the byte enables of a write, byte by
byte; none listed enables every byte. -/
structure Tlp where
  kind  : TlpKind
  fn    : Nat
  addr  : Nat
  len   : Nat
  bytes : List Byte
  ep    : Bool
  enables : List Bool
  deriving DecidableEq, Repr

/-- The causes of a package-wide thermal trip (R420). -/
inductive TripCause | iodSensor | inlet
  deriving DecidableEq, Repr

/-- A unit that a trip forced down (R420). -/
inductive TripUnit | die (d : Fin 16) | iod | inlet
  deriving DecidableEq, Repr

/-- A telemetry record of a compute die (R409): hottest sensor in 0.1 °C, rail current in 0.01 A, rail voltage in mV. -/
structure Telem where
  tj      : BitVec 16
  current : BitVec 16
  volt    : BitVec 16
  deriving DecidableEq, Repr

/-- The readings of a POWER_LIMIT_CHECK (R421, R428): 1 ms average package power in W, the power of each suit in W and
of each die (for the choice of the die of highest power), and the energy drawn in the last 10 µs, in mJ. -/
structure PowerSample where
  watts    : Nat
  suits    : List Nat
  dies     : List Nat
  energyMj : Nat
  deriving DecidableEq, Repr

/-- The measured part of a sample record (R458) that the model does not compute: encoding, kind, source, flags,
addresses and latency parts. -/
structure SampleInfo where
  insn  : BitVec 32
  kind  : BitVec 8
  src   : BitVec 8
  flags : BitVec 3
  vaddr : Word
  paddr : Word
  parts : List (BitVec 16)
  total : BitVec 32
  deriving DecidableEq, Repr

/-- The units that hold counters (R451): a core, or block unit b. -/
inductive CtrUnit | core (c : Fin 384) | block (b : Fin 57)
  deriving DecidableEq, Repr

/-- The kinds of fabric points (R89): the up and down directions of a die's link, home slices, memory channels. -/
inductive PointKind | up | down | slice | channel
  deriving DecidableEq, Repr

/-- Operands of CBO.FLUSH and CBO.INVAL: the base register, and which of the two it is. -/
structure FlushOp where
  rs1 : Fin 32
  inval : Bool
  deriving DecidableEq, Repr

/-- A step of a die's wake ladder, ramp or voltage, and whether the governor delayed it (R425). -/
structure GovStep where
  d : Fin 16
  delayed : Bool
  deriving DecidableEq, Repr

/-- Operands of a load of TIC_CLAIM: its destination and its virtual address. -/
structure ClaimOp where
  rd : Fin 32
  va : Word
  deriving DecidableEq, Repr

/-- Operands of a CSR write: the instruction and the value that it writes. -/
structure CsrOp where
  insn : BitVec 32
  v : Word
  deriving DecidableEq, Repr

/-- The commands of the package, one per row of the opcode table, in the table's order. -/
inductive Instr
  | registerWrite (who : Agent) (t : RegTarget) (v : Word)
  -- die links (R30 to R41)
  | parcelReceive (d : Fin 16) (dir : Dir) (fill : Nat) (p : Parcel)
  | statusByteReceive (d : Fin 16) (dir : Dir) (b : Byte)
  | statusTimeout (d : Fin 16) (dir : Dir) (seq : BitVec 5)
  | replayFail (d : Fin 16) (dir : Dir)
  | hbLost (d : Fin 16)
  | clkLost (d : Fin 16)
  | laneRemapStart (d : Fin 16) (dir : Dir) (group : Fin 8) (lane : BitVec 6)
  | remapComplete (d : Fin 16) (dir : Dir)
  | dlRepairCmdGo (who : Agent) (d : Fin 16) (v : Word)
  | linkTraining (d : Fin 16) (offer : DieOffer) (faults : List (Dir × Fin 8 × BitVec 6))
  | trainingStepTimeout (d : Fin 16) (step : Fin 6)
  | dlInjectLaneFlip (who : Agent) (d : Fin 16) (v : Word)
  | dlInjectFifo (who : Agent) (d : Fin 16) (v : Word)
  | dlInjectHb (who : Agent) (d : Fin 16) (v : Word)
  | dlInjectStatus (who : Agent) (d : Fin 16) (v : Word)
  | dlInjectCrcDn (who : Agent) (d : Fin 16) (v : Word)
  | dlInjectCrcUp (who : Agent) (d : Fin 16) (v : Word)
  -- reset and boot (R468, R74 to R78)
  | packageReset
  | packageResetRelease (straps : BitVec 4)
  | mainPwrokLoss
  | refclkLost
  | stbyPwrokLoss
  | bootFirmwareCheck
  | bootFolioVerify
  | bootTrain (offers : List (Fin 16 × DieOffer × List (Dir × Fin 8 × BitVec 6)))
  | bootRevsetCheck
  | bootDimmTraining (chans : List ChanTrain)
  | bootApply
  | bootMeminit
  | bootHouseImage
  | bootRun
  | addendumGo (who : Agent) (v : Word)
  | addendumCopyDone
  -- fabric (R89 to R116)
  | arbitrateTrick (k : PointKind) (n : Fin 16) (sc : Fin 2)
  | fallbackGrantExpire (p : Fin 64)
  | classDCutoff (p : Fin 64)
  | classDTransferEnter (s : Fin 16) (q : Fin 10)
  | fabCommit (who : Agent) (v : Word)
  | commitArriveUp (d : Fin 16)
  | pointSwitch (p : Fin 64)
  | fabDealWrite (who : Agent) (p : Fin 64) (k : Fin 128) (v : Word)
  | fabBurstWrite (who : Agent) (p : Fin 64) (v : Word)
  | fabPrioWrite (who : Agent) (p : Fin 64) (q : Fin 128) (v : Word)
  | fabCutoffClear (who : Agent) (p : Fin 64) (k : Fin 2) (v : Word)
  | clearLost (who : Agent) (h : Fin 64) (v : Word)
  -- cores (R126 to R152)
  | coreCtlStart (who : Agent) (c : Fin 384) (v : Word)
  | coreCtlStop (who : Agent) (c : Fin 384) (v : Word)
  | coreRunBegin (c : Fin 384)
  | coreStopComplete (c : Fin 384)
  | coreLoad (c : Fin 384) (op : LoadOp)
  | coreStore (c : Fin 384) (op : StoreOp)
  | mbIdleDrain (c : Fin 384) (line : Nat)
  | mbEntryDrained (c : Fin 384) (line : Nat)
  | amo (c : Fin 384) (op : AmoOp)
  | loadReserved (c : Fin 384) (op : AmoOp)
  | storeConditional (c : Fin 384) (op : AmoOp)
  | atomicDeferralEnd (c : Fin 384)
  | fence (c : Fin 384) (pred succ : BitVec 4)
  | fenceI (c : Fin 384)
  | sfenceVma (c : Fin 384) (rs1 rs2 : Fin 32)
  | sinvalVma (c : Fin 384) (rs1 rs2 : Fin 32)
  | hfenceVvma (c : Fin 384) (rs1 rs2 : Fin 32) (inval : Bool)
  | hfenceGvma (c : Fin 384) (rs1 rs2 : Fin 32) (inval : Bool)
  | sfenceWInval (c : Fin 384)
  | sfenceInvalIr (c : Fin 384)
  | cboZero (c : Fin 384) (rs1 : Fin 32)
  | cboCleanInsn (c : Fin 384) (rs1 : Fin 32)
  | cboFlushInsn (c : Fin 384) (o : FlushOp)
  | wfi (c : Fin 384)
  | wrsNto (c : Fin 384)
  | wrsSto (c : Fin 384)
  | ecall (c : Fin 384)
  | spkLd (c : Fin 384) (w : BitVec 32)
  | spkSt (c : Fin 384) (w : BitVec 32)
  | smacVv (c : Fin 384) (w : BitVec 32)
  | saccClr (c : Fin 384) (w : BitVec 32)
  | saccRdv (c : Fin 384) (w : BitVec 32)
  | saccWrv (c : Fin 384) (w : BitVec 32)
  | saccSum (c : Fin 384) (w : BitVec 32)
  | jlYield (c : Fin 384) (w : BitVec 32)
  | jlSkip (c : Fin 384) (w : BitVec 32)
  | jlNext (c : Fin 384) (w : BitVec 32)
  | pageWalk (c : Fin 384) (va : Word) (acc : Acc) (why : WalkWhy)
  | hwPrefetch (c : Fin 384) (va : Word)
  | mtimecmpExpire (c : Fin 384) (t : Timer)
  | coreMsipWrite (who : Agent) (c : Fin 384) (v : Word)
  | coreMtimecmpWrite (who : Agent) (c : Fin 384) (v : Word)
  | opChangeStart (o : GovStep) (target : BitVec 2)
  | opRampStep (o : GovStep)
  | voltageSettled (d : Fin 16)
  | cdPgTimeout (d : Fin 16)
  -- caches and the Shelver (R177 to R203)
  | l3AllocationRetry (d : Fin 16) (line : Nat)
  | shvClean (who : Agent) (d : Fin 16) (v : Word)
  | shvInvalidate (who : Agent) (d : Fin 16) (v : Word)
  | shvCleanInv (who : Agent) (d : Fin 16) (v : Word)
  | shvVisit (d : Fin 16)
  | shvComplete (d : Fin 16)
  | shvLockSizeWrite (who : Agent) (d : Fin 16) (k : Fin 16) (v : Word)
  -- coherence (R204 to R238)
  | rdShared (m : Msg)
  | rdOwn (m : Msg)
  | upgrade (m : Msg)
  | claim (m : Msg)
  | rdOnce (m : Msg)
  | wrFull (m : Msg)
  | wrPartial (m : Msg)
  | cboClean (m : Msg)
  | cboFlush (m : Msg)
  | wbData (m : Msg)
  | wbKeep (m : Msg)
  | evictClean (m : Msg)
  | discard (m : Msg)
  | snpShared (d : Fin 16) (m : Msg)
  | snpInv (d : Fin 16) (m : Msg)
  | snpBinv (d : Fin 16) (m : Msg)
  | snpRspI (m : Msg)
  | snpRspS (m : Msg)
  | snpDataI (m : Msg)
  | snpDataS (m : Msg)
  | cmp (m : Msg)
  | cmpPartial (m : Msg)
  | wbAck (d : Fin 16) (line : Nat)
  | wbAckStale (d : Fin 16) (line : Nat)
  | dataS (m : Msg)
  | dataE (m : Msg)
  | dataM (m : Msg)
  | dataNc (m : Msg)
  | creditReturn (d s : Fin 16) (cls : CreditClass) (hand : Fin 64)
  | lineWaitAdmit (s : Fin 16) (line : Nat)
  | setWaitAdmit (s : Fin 16) (set : Nat)
  | stagingEntryFree (s : Fin 16) (line : Nat)
  | dieStopDeclare (d : Fin 16) (cause : Fin 6)
  | sliceSuspensionEnd (s : Fin 16)
  | directoryScrubVisit (s : Fin 16)
  | directoryScrubEnd (d : Fin 16)
  | homeProbe (who : Agent) (v : Word)
  | homeProbeDone
  | homeInjectBacking (who : Agent) (s : Fin 16) (v : Word)
  | homeInjectArm (who : Agent) (s : Fin 16) (v : Word)
  -- ledger mode (R239 to R263)
  | quantumEndCount (c : Fin 384)
  | ledgerRunEnd (h : Fin 64)
  | ledgerTokenArrive (c : Fin 384)
  | ledgerPublishEnd (h : Fin 64)
  | epochBoundary (h : Fin 64)
  | ledgerEpoch0Start (h : Fin 64)
  | intakeStagingDone (h : Fin 64) (id : Nat) (ok : Bool)
  -- memory channels (R264 to R292)
  | mcReadData (n : Fin 16) (line : Nat)
  | refsbDue (n : Fin 16) (sc : Fin 2) (rank : Fin 8)
  | dimmThermalPoll (n : Fin 16) (hot : Bool)
  | neighbourRefreshQueue (n : Fin 16) (key : Nat)
  | actTableClear (n : Fin 16)
  | ceHourWindow
  | rankRetireStart (n : Fin 16) (rank : Fin 8)
  | switchoverEnd (n : Fin 16)
  | alertN (n : Fin 16) (slot : Fin 2)
  | cmdRetryEnd (n : Fin 16) (slot : Fin 2)
  | mcRankCmdTest (who : Agent) (n : Fin 16) (v : Word)
  | mcRankCmdReturn (who : Agent) (n : Fin 16) (v : Word)
  | rankTestEnd (n : Fin 16) (pass : Bool)
  | mcInjectCaParity (who : Agent) (n : Fin 16) (v : Word)
  | mcInjectBacking (who : Agent) (n : Fin 16) (v : Word)
  | mcInjectArm (who : Agent) (n : Fin 16) (v : Word)
  -- host ports (R315 to R341)
  | hpPerst (p : Fin 8) (asserted : Bool)
  | pcieLinkUp (p : Fin 8) (speed width : Nat) (flit : Bool)
  | pcieLinkDown (p : Fin 8)
  | pcieRetrain (p : Fin 8) (rate : Option (Nat × Bool)) (width : Nat)
  | portL1Entry (p : Fin 8)
  | portL1Exit (p : Fin 8)
  | inboundTlp (p : Fin 8) (t : Tlp)
  | readCompletion (p : Fin 8) (c : Cpl)
  | readTimeout (p : Fin 8) (tag : Nat)
  | busMasterDisable (f : FnId)
  | busMasterEnable (f : FnId)
  | functionLevelReset (f : FnId)
  | flrComplete (f : FnId)
  | vfEnableClear (p : Fin 8)
  | d3hotToD0 (f : FnId)
  | ltrSend (p : Fin 8)
  | hpWinCommitGo (who : Agent) (p : Fin 8) (v : Word)
  | windowSetSwitch (p : Fin 8)
  | hpInjectLinkDown (who : Agent) (p : Fin 8) (v : Word)
  | hpInjectPoison (who : Agent) (p : Fin 8) (v : Word)
  | hpInjectTimeout (who : Agent) (p : Fin 8) (v : Word)
  | hpInjectLcrc (who : Agent) (p : Fin 8) (v : Word)
  -- call slips (R342 to R372)
  | sqTailDoorbell (f : FnId) (q : Fin 16) (v : BitVec 32)
  | cqHeadDoorbell (f : FnId) (q : Fin 16) (v : BitVec 32)
  | slipFetchDone (f : FnId) (q : Fin 16) (slips : List LineData)
  | nop (f : FnId) (q : Fin 16)
  | copyIn (f : FnId) (q : Fin 16)
  | copyOut (f : FnId) (q : Fin 16)
  | post (f : FnId) (q : Fin 16)
  | fenceSlip (f : FnId) (q : Fin 16)
  | abort (f : FnId) (q : Fin 16)
  | readLog (f : FnId) (q : Fin 16)
  | setState (f : FnId) (q : Fin 16)
  | queryBound (f : FnId) (q : Fin 16)
  | setStateMailboxLoad (p : Fin 8) (payload : List Byte)
  | csqSsDoneWrite (who : Agent) (p : Fin 8) (v : Word)
  | csqSsBufWrite (who : Agent) (p : Fin 8) (v : Word)
  | returnSlipPost (f : FnId) (q : Fin 16)
  | deferredError (f : FnId) (q : Fin 16) (tag : BitVec 16) (poisoned : Bool) (line : Nat)
  | queueEnable (f : FnId) (q : Fin 16) (v : BitVec 32)
  | queueDisable (f : FnId) (q : Fin 16) (v : BitVec 32)
  | queueRestart (f : FnId) (q : Fin 16) (v : BitVec 32)
  | queueIdleState1 (f : FnId) (q : Fin 16)
  | queueIdleState2 (f : FnId) (q : Fin 16)
  | queueIdleExit (f : FnId) (q : Fin 16)
  | csqInjectPoison (who : Agent) (v : Word)
  | csqInjectLost (who : Agent) (v : Word)
  -- the tally controller (R373 to R387)
  | ticEnSetWrite (who : Agent) (k : Fin 128) (v : Word)
  | ticEnClrWrite (who : Agent) (k : Fin 128) (v : Word)
  | ticPendSetWrite (who : Agent) (k : Fin 128) (v : Word)
  | ticPendClrWrite (who : Agent) (k : Fin 128) (v : Word)
  | ticClaim (who : Fin 384) (c : Fin 384) (o : ClaimOp)
  | ticEoi (who : Agent) (c : Fin 384) (v : Word)
  | ticRouteWrite (who : Agent) (src : Fin 8192) (v : Word)
  | tallyLineDeliver (c : Fin 384)
  -- the Archivist (R388 to R408)
  | arcCtlCall (who : Agent) (k : Fin 64) (v : Word)
  | arcCtlRelease (who : Agent) (k : Fin 64) (v : Word)
  | carrelTake
  | info (k : Fin 64)
  | entropy (k : Fin 64)
  | measure (k : Fin 64)
  | attest (k : Fin 64)
  | vaultPut (k : Fin 64)
  | vaultGet (k : Fin 64)
  | floorRaise (k : Fin 64)
  | watermark (k : Fin 64)
  | watermarkSwitch
  | slotWrite (k : Fin 64)
  | carrelReturn (k : Fin 64)
  | carrelScrubEnd (k : Fin 64)
  | arcOwnerWrite (who : Agent) (k : Fin 64) (v : Word)
  | secureHoldSet (b : Fin 35)
  | secureHoldClear (b : Fin 35)
  | securePreemptExpire
  | tamper
  | vaultZeroEnd
  | arcInjectTamper (who : Agent) (v : Word)
  | arcInjectVault (who : Agent) (v : Word)
  -- power, heat and energy (R409 to R430)
  | telemetryRecord (d : Fin 16) (t : Telem)
  | telemetryLost (d : Fin 16)
  | pwrPkgWrite (p : Fin 8) (v : Word)
  | pwrDieWrite (p : Fin 8) (v : Word)
  | diePassReached (d : Fin 16)
  | dieFoldReached (d : Fin 16)
  | wakeStepEnd (o : GovStep)
  | iodBlockPlay (b : Fin 33)
  | thermalThrottle (d : Fin 16)
  | dieTrip (d : Fin 16)
  | iodTrip (cause : TripCause)
  | tripRelease (u : TripUnit)
  | thermtrip
  | powerLimitCheck (m : PowerSample)
  | opRiseCheck (d : Fin 16)
  | heatAccount (inlet outlet : BitVec 16)
  | opReqWrite (who : Agent) (d : Fin 16) (v : Word)
  | issueLevelGrant (c : Fin 384)
  | issueLevelReset (c : Fin 384)
  | sckInjectInlet (who : Agent) (v : Word)
  | sckInjectIodTrip (who : Agent) (v : Word)
  | sckInjectTrip (who : Agent) (v : Word)
  | sckInjectTelem (who : Agent) (v : Word)
  -- faults and containment (R431 to R450)
  | fltHeadWrite (who : Agent) (v : Word)
  | fltDieCmdStop (who : Agent) (v : Word)
  | fltDieCmdRejoin (who : Agent) (v : Word)
  | autoRejoin (d : Fin 16)
  | rejoinRailHoldEnd (d : Fin 16)
  | rejoinFolioReapply (d : Fin 16)
  | dieEnterService (d : Fin 16)
  | houseRestart
  | fltInjectArm (who : Agent) (v : Word)
  | dealWordReload (p : Fin 64) (k : Fin 384)
  -- counters and sampling (R451 to R459)
  | counterWrap (u : CtrUnit) (event : BitVec 16)
  | mjsctlEnable (c : Fin 384) (o : CsrOp)
  | sampleRecord (c : Fin 384) (m : SampleInfo)
  -- management port, images and boundary scan (R472 to R478)
  | i3cPrivateWrite (bytes : List Byte)
  | i3cPrivateRead (n : Nat)
  | setdasa (addr : BitVec 7)
  | entdaa (addr : BitVec 7)
  | arcImgBegin (v : Word)
  | arcImgWrite (v : Word)
  | arcImgFinish (v : Word)
  | imageOpComplete
  | tapReset
  | extest
  | idcode
  | samplePreload (capture preload : List Bool)
  | clamp
  | highz
  | bypass
  | dieLinkUp (d : Fin 16)
  | d0ToD3hot (f : FnId)
  deriving DecidableEq, Repr

end Sys2Proof
end

