-- ==== Sys2Proof/Decode.lean ====
section
/-! DEFINITION. Commands from table words. spec/opcode_table.json gives no row any bits (its rows are steps of the
block, with a name and a rule only), so no word spells a command. -/

namespace Sys2Proof

/-- The command that a word of `nbits` bits spells by the table's bits: none, for no row of the table has bits. -/
def decodeTableWord (_nbits _w : Nat) : Option Instr := none

end Sys2Proof
end

