-- ==== Sys2Proof/Config.lean ====
section
/-! DEFINITION. The free values: what the spec names but leaves open, as constants without a body. Nothing in Lean can
evaluate them, so a claim holds whatever they are. -/

namespace Sys2Proof.Config

/-- SHA-384 of a byte string (R49, R72, R399): a standard outside the spec, left uninterpreted. -/
opaque sha384 : List Byte → BitVec 384

/-- ECDSA P-384 verification (R72, R390): public key X then Y (96 bytes), digest, r and s (48 bytes each). -/
opaque ecdsaVerify : List Byte → BitVec 384 → List Byte → List Byte → Bool

/-- ECDSA P-384 signing with ATTEST_KEY (R399, ATTEST): digest to (r, s). -/
opaque ecdsaSign : BitVec 384 → BitVec 384 × BitVec 384

/-- The attestation public key X and Y (R399, INFO), which belongs to the ATTEST_KEY fuses of the part. -/
opaque attestPublic : BitVec 384 × BitVec 384

/-- A value the spec leaves open, fresh for each number: a pseudo-LRU victim choice (R188, R229), a random word (R399,
ENTROPY), a RESULT the spec does not state. -/
opaque freeWord : Nat → Word

/-- What an element that a ledger hand's SPK.LD leaves out becomes where vtype makes it agnostic (R138, R260): the instruction, vtype,
vl, vstart, the element's index and its value before; true for all ones. -/
opaque agnosticOnes : BitVec 32 → Word → Nat → Nat → Nat → BitVec 16 → Bool

/-- vl above the half of AVL that a vset instruction takes where AVL lies between VLMAX and twice it (R120; the V extension lets the
implementation choose): AVL and VLMAX. -/
opaque vlChoice : Nat → Nat → Nat

/-- A dword of configuration space inside a capability whose contents the spec leaves to the PCI Express base and SR-IOV
specifications (R319), by its offset. -/
opaque cfgWord : Nat → BitVec 32

end Sys2Proof.Config
end

