-- ==== Sys2Proof/Machine/FolioTypes.lean ====
section
/-! DEFINITION. The folio as typed leaves (R49 to R72). Every record carries `off`, the offset of its first byte in the
image it was read from, and `bad`, the offsets within the record of reserved fields that are not zero (R74, R484).
`add` says that the record came from an addendum. -/

namespace Sys2Proof.Machine

/-- A DIES record (R53). -/
structure DieRec where
  off    : Nat
  die    : Nat
  enable : Bool
  coreEn : Nat
  bad    : List Nat
  deriving DecidableEq, Repr

/-- A HANDS record (R54). -/
structure HandRec where
  off   : Nat
  add   : Bool
  hand  : Nat
  mode  : Nat
  ways  : Nat
  cores : Nat
  entry : Nat
  bad   : List Nat
  deriving DecidableEq, Repr

/-- A DEALS record (R56). -/
structure DealRec where
  off    : Nat
  add    : Bool
  point  : Nat
  length : Nat
  burst  : Nat
  tricks : List Nat
  bad    : List Nat
  deriving DecidableEq, Repr

/-- A MAP window record (R58). -/
structure WinRec where
  off  : Nat
  base : Nat
  size : Nat
  mask : Nat
  kind : Nat
  bad  : List Nat
  deriving DecidableEq, Repr

/-- The MAP leaf (R58). -/
structure MapLeaf where
  off       : Nat
  watermark : Nat
  lock      : Bool
  count     : Nat
  ctrl      : List Nat
  windows   : List WinRec
  bad       : List Nat
  deriving DecidableEq, Repr

/-- The HOME leaf (R60). -/
structure HomeLeaf where
  off   : Nat
  masks : List Nat
  opens : Nat
  bad   : List Nat
  deriving DecidableEq, Repr

/-- A CHANNELS record (R61). -/
structure ChanRec where
  off    : Nat
  sc     : Nat
  bg     : List Nat
  ba     : List Nat
  act    : Nat
  spare  : Nat
  enable : Bool
  lat    : List Nat
  bad    : List Nat
  deriving DecidableEq, Repr

/-- The CHANNELS leaf (R61). -/
structure ChanLeaf where
  off   : Nat
  bits  : Nat
  masks : List Nat
  recs  : List ChanRec
  bad   : List Nat
  deriving DecidableEq, Repr

/-- A PORTS port record (R63). -/
structure PortRec where
  off     : Nat
  enable  : Bool
  width   : Nat
  vfCount : Nat
  pfBar   : Nat
  vfBar   : Nat
  pfTags  : Nat
  bad     : List Nat
  deriving DecidableEq, Repr

/-- A PORTS VF record (R63). -/
structure VfRec where
  off    : Nat
  vf     : Nat
  port   : Nat
  qpairs : Nat
  tags   : Nat
  hand   : Nat
  window : Nat
  bad    : List Nat
  deriving DecidableEq, Repr

/-- A QUEUES record (R65). -/
structure QueueRec where
  off        : Nat
  add        : Bool
  vf         : Nat
  port       : Nat
  mode       : Nat
  depth      : Nat
  slips      : Nat
  burstSlips : Nat
  bytes      : Nat
  burstBytes : Nat
  bad        : List Nat
  deriving DecidableEq, Repr

/-- A TALLY record (R67) with its source number. -/
structure TallyRec where
  off    : Nat
  add    : Bool
  src    : Nat
  target : Nat
  prio   : Nat
  enable : Bool
  bad    : List Nat
  deriving DecidableEq, Repr

/-- The POWER leaf (R68). -/
structure PowerLeaf where
  off     : Nat
  auth    : Nat
  dieSlew : Nat
  pkgSlew : Nat
  limit   : Nat
  outlet  : Nat
  op      : List Nat
  wake    : List Nat
  bad     : List Nat
  deriving DecidableEq, Repr

/-- A LEDGER intake entry (R69). -/
structure IntakeRec where
  off    : Nat
  first  : Nat
  period : Nat
  length : Nat
  source : Nat
  port   : Nat
  vf     : Nat
  dest   : Nat
  bad    : List Nat
  deriving DecidableEq, Repr

/-- A LEDGER record (R69). -/
structure LedgerRec where
  off     : Nat
  hand    : Nat
  count   : Nat
  q       : Nat
  num     : Nat
  den     : Nat
  intakes : List IntakeRec
  bad     : List Nat
  deriving DecidableEq, Repr

/-- One POLICY entry of the FAULTS leaf (R70). -/
structure PolicyRec where
  action : Nat
  source : Nat
  deriving DecidableEq, Repr

/-- The FAULTS leaf (R70). -/
structure FaultsLeaf where
  off      : Nat
  rejoin   : Nat
  manual   : Bool
  ceLimit  : Nat
  thresh   : Nat
  windowUs : Nat
  policy   : List PolicyRec
  bad      : List Nat
  deriving DecidableEq, Repr

/-- A COUNTERS record (R71). -/
structure CounterRec where
  off   : Nat
  unit  : Nat
  slot  : Nat
  event : Nat
  bad   : List Nat
  deriving DecidableEq, Repr

/-- The COUNTERS leaf (R71). -/
structure CountersLeaf where
  off   : Nat
  hands : Nat
  count : Nat
  recs  : List CounterRec
  bad   : List Nat
  deriving DecidableEq, Repr

/-- A folio: its header figures and its leaves. A leaf that is absent is none or empty; `present` holds the kinds. -/
structure Folio where
  serial   : Nat
  cdMin    : Nat
  cdMax    : Nat
  iodMin   : Nat
  iodMax   : Nat
  present  : List Nat
  dies     : List DieRec
  hands    : List HandRec
  deals    : List DealRec
  map      : MapLeaf
  home     : HomeLeaf
  chans    : ChanLeaf
  ports    : List PortRec
  vfs      : List VfRec
  queues   : List QueueRec
  tally    : List TallyRec
  power    : PowerLeaf
  ledgers  : List LedgerRec
  faults   : FaultsLeaf
  counters : Option CountersLeaf
  /-- Offset of each leaf in the image, by kind, for conditions that need the whole leaf (R484). -/
  leafOff  : List (Nat × Nat)
  deriving DecidableEq, Repr

/-- The folio with no leaf: what is in force before boot phase 5. -/
def Folio.empty : Folio where
  serial := 0
  cdMin := 0
  cdMax := 0
  iodMin := 0
  iodMax := 0
  present := []
  dies := []
  hands := []
  deals := []
  map := ⟨0, 0, false, 0, [], [], []⟩
  home := ⟨0, [], 6, []⟩
  chans := ⟨0, 0, [], [], []⟩
  ports := []
  vfs := []
  queues := []
  tally := []
  power := ⟨0, 0, 0, 0, 0, 0, [], [], []⟩
  ledgers := []
  faults := ⟨0, 0, false, 0, 0, 0, [], []⟩
  counters := none
  leafOff := []

namespace Folio

/-- The HANDS record of hand `h`, if the hand exists (R89). -/
def hand? (f : Folio) (h : Nat) : Option HandRec := f.hands.find? (fun r => r.hand == h)

/-- Mode of hand `h`: 0 none, 1 open, 2 ledger (R54). -/
def mode (f : Folio) (h : Nat) : Nat :=
  match f.hand? h with
  | some r => r.mode
  | none => 0

/-- Whether hand `h` is in ledger mode. -/
def isLedger (f : Folio) (h : Nat) : Bool := f.mode h == 2

/-- The LEDGER record of hand `h` (R69). -/
def ledger? (f : Folio) (h : Nat) : Option LedgerRec := f.ledgers.find? (fun r => r.hand == h)

/-- The POLICY entry of fault class `k` (R70); record only where no FAULTS leaf is in force. -/
def policy (f : Folio) (k : Nat) : PolicyRec := f.faults.policy.getD k ⟨0, 0⟩

/-- Whether compute die `d` is enabled (R53). -/
def dieEnabled (f : Folio) (d : Nat) : Bool :=
  match f.dies.find? (fun r => r.die == d) with
  | some r => r.enable
  | none => false

/-- Local cores of die `d` that are enabled (R53). -/
def coreEn (f : Folio) (d : Nat) : Nat :=
  match f.dies.find? (fun r => r.die == d) with
  | some r => if r.enable then r.coreEn else 0
  | none => 0

/-- The window record with index `w` (R58). -/
def window? (f : Folio) (w : Nat) : Option WinRec := f.map.windows[w]?

/-- The VF record of pool index `v` (R63). -/
def vf? (f : Folio) (v : Nat) : Option VfRec := f.vfs.find? (fun r => r.vf == v)

/-- The port record of port `p` (R63). -/
def port? (f : Folio) (p : Nat) : Option PortRec := f.ports[p]?

/-- Whether host port `p` is enabled (R63). -/
def portEnabled (f : Folio) (p : Nat) : Bool :=
  match f.port? p with
  | some r => r.enable
  | none => false

/-- The QUEUES record of a function: VF `v` by pool index, or the PF of port `p` (R65). -/
def queue? (f : Folio) : FnId → Option QueueRec
  | .vf v => f.queues.find? (fun r => r.vf == v.val)
  | .pf p => f.queues.find? (fun r => r.vf == 0xFFFF && r.port == p.val)

/-- The CHANNELS record of channel `n` (R61). -/
def chan? (f : Folio) (n : Nat) : Option ChanRec := f.chans.recs[n]?

/-- Whether memory channel `n` is enabled (R61). -/
def chanEnabled (f : Folio) (n : Nat) : Bool :=
  match f.chan? n with
  | some r => r.enable
  | none => false

/-- Bytes of the vault: `[0, WATERMARK × 2^30)` (R58). -/
def vaultEnd (f : Folio) : Nat := f.map.watermark * 2 ^ 30

/-- Whether hand `h` may reach control-space block bit `b` (R17, R58). -/
def ctrlAccess (f : Folio) (h b : Nat) : Bool := h == 0 || (f.map.ctrl.getD h 0).testBit b

/-- Offset of the leaf of kind `k` in its image. -/
def offOf (f : Folio) (k : Nat) : Nat := (f.leafOff.find? (fun p => p.1 == k)).elim 0 (·.2)

end Folio

end Sys2Proof.Machine
end

