-- ==== Sys2Proof/Machine/Regs.lean ====
section
/-! DEFINITION. The register map (R13, R16): every register of the control space, of BAR 0 (R371, the power page of
R411) and of the management space (R474), and the CSRs, by name and index; its key (a control-space register's key is its
address; the other spaces have keys above the 52-bit physical space); its fields with their access codes and reset
values, as the register tables give them (R14). Field positions stand under `F`. -/

namespace Sys2Proof.Machine

/-- The access codes of R14. -/
inductive Access | rw | ro | wo | w1s | w1c | rwf | rws
  deriving DecidableEq, Repr

/-- A bit range `hi:lo` (R9). -/
structure Fld where
  hi : Nat
  lo : Nat
  deriving DecidableEq, Repr

/-- A field of a register table: its bits, access code and reset value. -/
structure FldRow where
  bits   : Fld
  access : Access
  reset  : Nat
  deriving DecidableEq, Repr

/-- The registers, in the spec's spelling. A name ending in `_ACT` is the active copy of an RW-S register (R15). -/
inductive Reg
  | DL_CAP_DIE (d : Nat)
  | DL_FEAT_DIE (d : Nat)
  | DL_FEAT_IOD (d : Nat)
  | DL_FEAT_EFF (d : Nat)
  | DL_STATUS (d : Nat)
  | DL_ERR (d : Nat)
  | DL_REPLAYS (d : Nat)
  | DL_REPAIR_UP (d : Nat)
  | DL_REPAIR_DN (d : Nat)
  | DL_REPAIR_CFG (d : Nat)
  | DL_REPAIR_CMD (d : Nat)
  | DL_INJECT (d : Nat)
  | DL_LANE_ERR_UP (d : Nat) (k : Nat)
  | DL_LANE_ERR_DN (d : Nat) (k : Nat)
  | FOL_STATE
  | FOL_STATUS
  | FOL_SERIAL
  | FOL_DIGEST (k : Nat)
  | FOL_DIGEST_ADD (k : Nat)
  | FOL_ADD_SEQ
  | FOL_ADD_ADDR
  | FOL_ADD_LEN
  | FOL_ADD_CMD
  | FOL_ADD_STATE
  | FOL_ERR
  | FOL_LEAVES
  | FAB_DEAL (p : Nat) (k : Nat)
  | FAB_BURST (p : Nat)
  | FAB_PRIO (p : Nat) (q : Nat)
  | FAB_DEAL_ACT (p : Nat) (k : Nat)
  | FAB_BURST_ACT (p : Nat)
  | FAB_PRIO_ACT (p : Nat) (q : Nat)
  | FAB_COMMIT
  | FAB_COMMIT_PEND
  | FAB_COMMIT_REFUSED
  | FAB_BAD_WRITE
  | FAB_ROUND
  | FAB_CUTOFF (p : Nat) (k : Nat)
  | FAB_PREEMPTS (p : Nat)
  | FAB_DEAD (p : Nat)
  | FAB_PT_ROUND (p : Nat)
  | FAB_HAND (h : Nat)
  | FAB_HAND_CORES (h : Nat) (k : Nat)
  | CORE_CTL (c : Nat)
  | CORE_STATE (c : Nat)
  | CORE_MTIMECMP (c : Nat)
  | CORE_MSIP (c : Nat)
  | CORE_DIE_OP (d : Nat)
  | CORE_MTIME (d : Nat)
  | SHV_CMD (d : Nat)
  | SHV_BASE (d : Nat)
  | SHV_SIZE (d : Nat)
  | SHV_STATUS (d : Nat)
  | SHV_SKIPPED (d : Nat)
  | SHV_WRITTEN (d : Nat)
  | SHV_PROGRESS (d : Nat)
  | SHV_LOCK_LOST (d : Nat)
  | SHV_WAYMAP (d : Nat) (k : Nat)
  | SHV_QUOTA (d : Nat) (k : Nat)
  | SHV_LOCK_BASE (d : Nat) (k : Nat)
  | SHV_LOCK_SIZE (d : Nat) (k : Nat)
  | HOME_SLICE_MASK (k : Nat)
  | HOME_CFG
  | HOME_DIE_MASK
  | HOME_SCRUB
  | HOME_PROBE_ADDR
  | HOME_PROBE_W0
  | HOME_PROBE_W1
  | HOME_ERR (s : Nat)
  | HOME_OCC (s : Nat)
  | HOME_STALE (s : Nat)
  | HOME_BINV (s : Nat)
  | HOME_POISONED (s : Nat)
  | HOME_INJECT (s : Nat)
  | MC_CFG (n : Nat)
  | MC_CH_MASK (n : Nat) (k : Nat)
  | MC_MASK (n : Nat) (k : Nat)
  | MC_TIMING (n : Nat)
  | MC_DIMM (n : Nat) (k : Nat)
  | MC_LAT_TARGET (n : Nat) (k : Nat)
  | MC_ACT (n : Nat)
  | MC_REFRESH (n : Nat)
  | MC_RANK (n : Nat) (r : Nat)
  | MC_RANK_CMD (n : Nat)
  | MC_MIGRATE (n : Nat)
  | MC_ERR (n : Nat)
  | MC_ERR_ADDR (n : Nat)
  | MC_INJECT (n : Nat)
  | HP_WIN_APT (p : Nat) (w : Nat)
  | HP_WIN_SIZE (p : Nat) (w : Nat)
  | HP_WIN_TARGET (p : Nat) (w : Nat)
  | HP_WIN_ATTR (p : Nat) (w : Nat)
  | HP_WIN_APT_ACT (p : Nat) (w : Nat)
  | HP_WIN_SIZE_ACT (p : Nat) (w : Nat)
  | HP_WIN_TARGET_ACT (p : Nat) (w : Nat)
  | HP_WIN_ATTR_ACT (p : Nat) (w : Nat)
  | HP_CFG (p : Nat)
  | HP_LINK (p : Nat)
  | HP_TAGS (p : Nat)
  | HP_WIN_COMMIT (p : Nat)
  | HP_ERR (p : Nat)
  | HP_LTR (p : Nat)
  | HP_INJECT (p : Nat)
  | HP_FN_STATE (f : Nat)
  | HP_FN_ERR (f : Nat)
  | CSQ_SS_BUF (p : Nat)
  | CSQ_SS_STATE (p : Nat)
  | CSQ_SS_DONE (p : Nat)
  | CSQ_SS_SLIP (p : Nat) (k : Nat)
  | CSQ_FN_STAT (f : Nat)
  | CSQ_INJECT
  | CSQ_LDG_EPOCH (h : Nat)
  | CSQ_LDG_PHASE (h : Nat)
  | CSQ_LDG_INTAKES (h : Nat)
  | CSQ_LDG_LASTFAIL (h : Nat)
  | CSQ_LDG_WAITS (h : Nat)
  | CSQ_LDG_ERR (h : Nat)
  | TIC_ROUTE (i : Nat)
  | TIC_ROUTE_ACT (i : Nat)
  | TIC_EN_SET (k : Nat)
  | TIC_EN_CLR (k : Nat)
  | TIC_PEND_SET (k : Nat)
  | TIC_PEND_CLR (k : Nat)
  | TIC_SAT (k : Nat)
  | TIC_TALLY (k : Nat)
  | TIC_CLAIM (c : Nat)
  | TIC_EOI (c : Nat)
  | TIC_CORE_CFG (c : Nat)
  | TIC_CORE_STATE (c : Nat)
  | TIC_STACK (c : Nat) (k : Nat)
  | TIC_ERR
  | ARC_CTL (k : Nat)
  | ARC_RESULT (k : Nat)
  | ARC_DATA (k : Nat) (w : Nat)
  | ARC_OWNER (k : Nat)
  | ARC_STATUS
  | ARC_BOOT
  | ARC_VAULT
  | ARC_HOLD
  | ARC_HOLD_ACK
  | ARC_PREEMPT
  | ARC_ERR
  | ARC_DENIED
  | ARC_INJECT
  | SCK_PKG
  | SCK_LIMIT
  | SCK_COOLANT
  | SCK_ENERGY
  | SCK_HEAT
  | SCK_IOD_STATE
  | SCK_ERR
  | SCK_INJECT
  | SCK_SUIT (k : Nat)
  | SCK_VOTE (p : Nat)
  | SCK_DIE (d : Nat)
  | SCK_DIE_TEL (d : Nat)
  | FLT_STATUS
  | FLT_HEAD
  | FLT_TAIL
  | FLT_CLASS_CNT (k : Nat)
  | FLT_DIE (d : Nat)
  | FLT_DIE_CMD
  | FLT_INJECT
  | FLT_INJECT_ADDR
  | FLT_REC (i : Nat) (j : Nat)
  | FLT_LANE (d : Nat) (r : Nat) (g : Nat) (k : Nat)
  | CTR_CORE (c : Nat) (i : Nat)
  | CTR_CORE_OVF (c : Nat)
  | CTR_CORE_SEL (c : Nat) (k : Nat)
  | CTR_BLK (b : Nat) (i : Nat)
  | CTR_BLK_SEL (b : Nat)
  | CTR_BLK_OVF (b : Nat)
  | QP_SQ_BASE (f : Nat) (q : Nat)
  | QP_CQ_BASE (f : Nat) (q : Nat)
  | QP_SQ_TAIL (f : Nat) (q : Nat)
  | QP_CQ_HEAD (f : Nat) (q : Nat)
  | QP_CTL (f : Nat) (q : Nat)
  | QP_STATE (f : Nat) (q : Nat)
  | QP_LOG (f : Nat) (q : Nat) (k : Nat)
  | PWR_PKG (p : Nat)
  | PWR_DIE (p : Nat)
  | PWR_STATUS (p : Nat)
  | ARC_STRAPS
  | ARC_IMG_CMD
  | ARC_IMG_BUF (k : Nat)
  | CSR (c : Nat) (num : Nat)
  deriving DecidableEq, Repr

/-- The key of a register: its address (R16 and the offset tables of the chapters). -/
def Reg.key : Reg → Nat
  | .DL_CAP_DIE d => 0xF00010000000 + d * 0x1000000
  | .DL_FEAT_DIE d => 0xF00010000000 + d * 0x1000000 + 0x08
  | .DL_FEAT_IOD d => 0xF00010000000 + d * 0x1000000 + 0x10
  | .DL_FEAT_EFF d => 0xF00010000000 + d * 0x1000000 + 0x18
  | .DL_STATUS d => 0xF00010000000 + d * 0x1000000 + 0x20
  | .DL_ERR d => 0xF00010000000 + d * 0x1000000 + 0x28
  | .DL_REPLAYS d => 0xF00010000000 + d * 0x1000000 + 0x30
  | .DL_REPAIR_UP d => 0xF00010000000 + d * 0x1000000 + 0x38
  | .DL_REPAIR_DN d => 0xF00010000000 + d * 0x1000000 + 0x40
  | .DL_REPAIR_CFG d => 0xF00010000000 + d * 0x1000000 + 0x48
  | .DL_REPAIR_CMD d => 0xF00010000000 + d * 0x1000000 + 0x50
  | .DL_INJECT d => 0xF00010000000 + d * 0x1000000 + 0x58
  | .DL_LANE_ERR_UP d k => 0xF00010000000 + d * 0x1000000 + 0x100 + k * 8
  | .DL_LANE_ERR_DN d k => 0xF00010000000 + d * 0x1000000 + 0x100100 + k * 8
  | .FOL_STATE => 0xF00000000000
  | .FOL_STATUS => 0xF00000000000 + 0x08
  | .FOL_SERIAL => 0xF00000000000 + 0x10
  | .FOL_DIGEST k => 0xF00000000000 + 0x18 + k * 8
  | .FOL_DIGEST_ADD k => 0xF00000000000 + 0x48 + k * 8
  | .FOL_ADD_SEQ => 0xF00000000000 + 0x78
  | .FOL_ADD_ADDR => 0xF00000000000 + 0x80
  | .FOL_ADD_LEN => 0xF00000000000 + 0x88
  | .FOL_ADD_CMD => 0xF00000000000 + 0x90
  | .FOL_ADD_STATE => 0xF00000000000 + 0x98
  | .FOL_ERR => 0xF00000000000 + 0xA0
  | .FOL_LEAVES => 0xF00000000000 + 0xA8
  | .FAB_DEAL p k => 0xF00001000000 + p * 0x2000 + k * 8
  | .FAB_BURST p => 0xF00001000000 + p * 0x2000 + 0x400
  | .FAB_PRIO p q => 0xF00001000000 + p * 0x2000 + 0x800 + q * 8
  | .FAB_DEAL_ACT p k => 0xF00001000000 + 0x80000 + p * 0x2000 + k * 8
  | .FAB_BURST_ACT p => 0xF00001000000 + 0x80000 + p * 0x2000 + 0x400
  | .FAB_PRIO_ACT p q => 0xF00001000000 + 0x80000 + p * 0x2000 + 0x800 + q * 8
  | .FAB_COMMIT => 0xF00001000000 + 0x100000
  | .FAB_COMMIT_PEND => 0xF00001000000 + 0x100008
  | .FAB_COMMIT_REFUSED => 0xF00001000000 + 0x100010
  | .FAB_BAD_WRITE => 0xF00001000000 + 0x100018
  | .FAB_ROUND => 0xF00001000000 + 0x100020
  | .FAB_CUTOFF p k => 0xF00001000000 + 0x101000 + p * 0x40 + k * 8
  | .FAB_PREEMPTS p => 0xF00001000000 + 0x101010 + p * 0x40
  | .FAB_DEAD p => 0xF00001000000 + 0x101018 + p * 0x40
  | .FAB_PT_ROUND p => 0xF00001000000 + 0x101020 + p * 0x40
  | .FAB_HAND h => 0xF00001000000 + 0x110000 + h * 0x40
  | .FAB_HAND_CORES h k => 0xF00001000000 + 0x110008 + h * 0x40 + k * 8
  | .CORE_CTL c => 0xF00010000000 + (c / 24) * 0x1000000 + 0x200000 + (c % 24) * 0x40
  | .CORE_STATE c => 0xF00010000000 + (c / 24) * 0x1000000 + 0x200000 + (c % 24) * 0x40 + 0x08
  | .CORE_MTIMECMP c => 0xF00010000000 + (c / 24) * 0x1000000 + 0x200000 + (c % 24) * 0x40 + 0x10
  | .CORE_MSIP c => 0xF00010000000 + (c / 24) * 0x1000000 + 0x200000 + (c % 24) * 0x40 + 0x18
  | .CORE_DIE_OP d => 0xF00010000000 + d * 0x1000000 + 0x200800
  | .CORE_MTIME d => 0xF00010000000 + d * 0x1000000 + 0x200808
  | .SHV_CMD d => 0xF00010000000 + d * 0x1000000 + 0x300000
  | .SHV_BASE d => 0xF00010000000 + d * 0x1000000 + 0x300000 + 0x08
  | .SHV_SIZE d => 0xF00010000000 + d * 0x1000000 + 0x300000 + 0x10
  | .SHV_STATUS d => 0xF00010000000 + d * 0x1000000 + 0x300000 + 0x18
  | .SHV_SKIPPED d => 0xF00010000000 + d * 0x1000000 + 0x300000 + 0x20
  | .SHV_WRITTEN d => 0xF00010000000 + d * 0x1000000 + 0x300000 + 0x28
  | .SHV_PROGRESS d => 0xF00010000000 + d * 0x1000000 + 0x300000 + 0x30
  | .SHV_LOCK_LOST d => 0xF00010000000 + d * 0x1000000 + 0x300000 + 0x38
  | .SHV_WAYMAP d k => 0xF00010000000 + d * 0x1000000 + 0x300000 + 0x40 + k * 8
  | .SHV_QUOTA d k => 0xF00010000000 + d * 0x1000000 + 0x300000 + 0x100 + k * 8
  | .SHV_LOCK_BASE d k => 0xF00010000000 + d * 0x1000000 + 0x300000 + 0x200 + k * 0x10
  | .SHV_LOCK_SIZE d k => 0xF00010000000 + d * 0x1000000 + 0x300000 + 0x208 + k * 0x10
  | .HOME_SLICE_MASK k => 0xF00002000000 + k * 8
  | .HOME_CFG => 0xF00002000000 + 0x20
  | .HOME_DIE_MASK => 0xF00002000000 + 0x28
  | .HOME_SCRUB => 0xF00002000000 + 0x30
  | .HOME_PROBE_ADDR => 0xF00002000000 + 0x40
  | .HOME_PROBE_W0 => 0xF00002000000 + 0x48
  | .HOME_PROBE_W1 => 0xF00002000000 + 0x50
  | .HOME_ERR s => 0xF00002000000 + 0x10000 + s * 0x100 + 0
  | .HOME_OCC s => 0xF00002000000 + 0x10000 + s * 0x100 + 8
  | .HOME_STALE s => 0xF00002000000 + 0x10000 + s * 0x100 + 16
  | .HOME_BINV s => 0xF00002000000 + 0x10000 + s * 0x100 + 24
  | .HOME_POISONED s => 0xF00002000000 + 0x10000 + s * 0x100 + 32
  | .HOME_INJECT s => 0xF00002000000 + 0x10000 + s * 0x100 + 40
  | .MC_CFG n => 0xF00003000000 + n * 0x100000
  | .MC_CH_MASK n k => 0xF00003000000 + n * 0x100000 + 0x08 + k * 8
  | .MC_MASK n k => 0xF00003000000 + n * 0x100000 + 0x28 + k * 8
  | .MC_TIMING n => 0xF00003000000 + n * 0x100000 + 0x58
  | .MC_DIMM n k => 0xF00003000000 + n * 0x100000 + 0x60 + k * 8
  | .MC_LAT_TARGET n k => 0xF00003000000 + n * 0x100000 + 0x70 + k * 8
  | .MC_ACT n => 0xF00003000000 + n * 0x100000 + 0xB0
  | .MC_REFRESH n => 0xF00003000000 + n * 0x100000 + 0xB8
  | .MC_RANK n r => 0xF00003000000 + n * 0x100000 + 0x100 + r * 8
  | .MC_RANK_CMD n => 0xF00003000000 + n * 0x100000 + 0x140
  | .MC_MIGRATE n => 0xF00003000000 + n * 0x100000 + 0x148
  | .MC_ERR n => 0xF00003000000 + n * 0x100000 + 0x150
  | .MC_ERR_ADDR n => 0xF00003000000 + n * 0x100000 + 0x158
  | .MC_INJECT n => 0xF00003000000 + n * 0x100000 + 0x160
  | .HP_WIN_APT p w => 0xF00004000000 + p * 0x1000 + w * 0x20 + 0
  | .HP_WIN_SIZE p w => 0xF00004000000 + p * 0x1000 + w * 0x20 + 8
  | .HP_WIN_TARGET p w => 0xF00004000000 + p * 0x1000 + w * 0x20 + 16
  | .HP_WIN_ATTR p w => 0xF00004000000 + p * 0x1000 + w * 0x20 + 24
  | .HP_WIN_APT_ACT p w => 0xF00004000000 + 0x80000 + p * 0x1000 + w * 0x20 + 0
  | .HP_WIN_SIZE_ACT p w => 0xF00004000000 + 0x80000 + p * 0x1000 + w * 0x20 + 8
  | .HP_WIN_TARGET_ACT p w => 0xF00004000000 + 0x80000 + p * 0x1000 + w * 0x20 + 16
  | .HP_WIN_ATTR_ACT p w => 0xF00004000000 + 0x80000 + p * 0x1000 + w * 0x20 + 24
  | .HP_CFG p => 0xF00004000000 + 0x100000 + p * 0x1000 + 0
  | .HP_LINK p => 0xF00004000000 + 0x100000 + p * 0x1000 + 8
  | .HP_TAGS p => 0xF00004000000 + 0x100000 + p * 0x1000 + 16
  | .HP_WIN_COMMIT p => 0xF00004000000 + 0x100000 + p * 0x1000 + 24
  | .HP_ERR p => 0xF00004000000 + 0x100000 + p * 0x1000 + 32
  | .HP_LTR p => 0xF00004000000 + 0x100000 + p * 0x1000 + 40
  | .HP_INJECT p => 0xF00004000000 + 0x100000 + p * 0x1000 + 48
  | .HP_FN_STATE f => 0xF00004000000 + 0x200000 + f * 0x10
  | .HP_FN_ERR f => 0xF00004000000 + 0x200000 + f * 0x10 + 0x08
  | .CSQ_SS_BUF p => 0xF00005000000 + p * 0x100
  | .CSQ_SS_STATE p => 0xF00005000000 + p * 0x100 + 0x08
  | .CSQ_SS_DONE p => 0xF00005000000 + p * 0x100 + 0x10
  | .CSQ_SS_SLIP p k => 0xF00005000000 + p * 0x100 + 0x40 + k * 8
  | .CSQ_FN_STAT f => 0xF00005000000 + 0x10000 + f * 8
  | .CSQ_INJECT => 0xF00005000000 + 0x20000
  | .CSQ_LDG_EPOCH h => 0xF00005000000 + 0xF00000 + h * 0x40 + 0
  | .CSQ_LDG_PHASE h => 0xF00005000000 + 0xF00000 + h * 0x40 + 8
  | .CSQ_LDG_INTAKES h => 0xF00005000000 + 0xF00000 + h * 0x40 + 16
  | .CSQ_LDG_LASTFAIL h => 0xF00005000000 + 0xF00000 + h * 0x40 + 24
  | .CSQ_LDG_WAITS h => 0xF00005000000 + 0xF00000 + h * 0x40 + 32
  | .CSQ_LDG_ERR h => 0xF00005000000 + 0xF00000 + h * 0x40 + 40
  | .TIC_ROUTE i => 0xF00006000000 + i * 8
  | .TIC_ROUTE_ACT i => 0xF00006000000 + 0x80000 + i * 8
  | .TIC_EN_SET k => 0xF00006000000 + 0x100000 + k * 8
  | .TIC_EN_CLR k => 0xF00006000000 + 0x100400 + k * 8
  | .TIC_PEND_SET k => 0xF00006000000 + 0x100800 + k * 8
  | .TIC_PEND_CLR k => 0xF00006000000 + 0x100C00 + k * 8
  | .TIC_SAT k => 0xF00006000000 + 0x101000 + k * 8
  | .TIC_TALLY k => 0xF00006000000 + 0x110000 + k * 8
  | .TIC_CLAIM c => 0xF00006000000 + 0x200000 + c * 0x100
  | .TIC_EOI c => 0xF00006000000 + 0x200008 + c * 0x100
  | .TIC_CORE_CFG c => 0xF00006000000 + 0x200010 + c * 0x100
  | .TIC_CORE_STATE c => 0xF00006000000 + 0x200018 + c * 0x100
  | .TIC_STACK c k => 0xF00006000000 + 0x200040 + c * 0x100 + k * 8
  | .TIC_ERR => 0xF00006000000 + 0x300000
  | .ARC_CTL k => 0xF00007000000 + k * 0x100
  | .ARC_RESULT k => 0xF00007000000 + k * 0x100 + 0x08
  | .ARC_DATA k w => 0xF00007000000 + k * 0x100 + w * 8
  | .ARC_OWNER k => 0xF00007000000 + 0x4000 + k * 8
  | .ARC_STATUS => 0xF00007000000 + 0x5000 + 0
  | .ARC_BOOT => 0xF00007000000 + 0x5000 + 8
  | .ARC_VAULT => 0xF00007000000 + 0x5000 + 16
  | .ARC_HOLD => 0xF00007000000 + 0x5000 + 24
  | .ARC_HOLD_ACK => 0xF00007000000 + 0x5000 + 32
  | .ARC_PREEMPT => 0xF00007000000 + 0x5000 + 40
  | .ARC_ERR => 0xF00007000000 + 0x5000 + 48
  | .ARC_DENIED => 0xF00007000000 + 0x5000 + 56
  | .ARC_INJECT => 0xF00007000000 + 0x5000 + 64
  | .SCK_PKG => 0xF00008000000 + 0
  | .SCK_LIMIT => 0xF00008000000 + 8
  | .SCK_COOLANT => 0xF00008000000 + 16
  | .SCK_ENERGY => 0xF00008000000 + 24
  | .SCK_HEAT => 0xF00008000000 + 32
  | .SCK_IOD_STATE => 0xF00008000000 + 40
  | .SCK_ERR => 0xF00008000000 + 48
  | .SCK_INJECT => 0xF00008000000 + 56
  | .SCK_SUIT k => 0xF00008000000 + 0x40 + k * 8
  | .SCK_VOTE p => 0xF00008000000 + 0x100 + p * 8
  | .SCK_DIE d => 0xF00008000000 + 0x200 + d * 0x10
  | .SCK_DIE_TEL d => 0xF00008000000 + 0x208 + d * 0x10
  | .FLT_STATUS => 0xF00009000000
  | .FLT_HEAD => 0xF00009000000 + 0x08
  | .FLT_TAIL => 0xF00009000000 + 0x10
  | .FLT_CLASS_CNT k => 0xF00009000000 + 0x100 + k * 8
  | .FLT_DIE d => 0xF00009000000 + 0x400 + d * 8
  | .FLT_DIE_CMD => 0xF00009000000 + 0x480
  | .FLT_INJECT => 0xF00009000000 + 0x500
  | .FLT_INJECT_ADDR => 0xF00009000000 + 0x508
  | .FLT_REC i j => 0xF00009000000 + 0x10000 + i * 0x20 + j * 8
  | .FLT_LANE d r g k => 0xF00009000000 + 0x20000 + d * 0x800 + r * 0x400 + (g - 1) * 0x40 + k * 8
  | .CTR_CORE c i => 0xF0000A000000 + c * 0x100 + i * 8
  | .CTR_CORE_OVF c => 0xF0000A000000 + 0x20000 + c * 8
  | .CTR_CORE_SEL c k => 0xF0000A000000 + 0x30000 + c * 0x20 + k * 8
  | .CTR_BLK b i => 0xF0000A000000 + 0x100000 + b * 0x100 + i * 8
  | .CTR_BLK_SEL b => 0xF0000A000000 + 0x100000 + b * 0x100 + 0x40
  | .CTR_BLK_OVF b => 0xF0000A000000 + 0x100000 + b * 0x100 + 0x48
  | .QP_SQ_BASE f q => 0x100000000000000 + f * 0x10000 + q * 0x200 + 0
  | .QP_CQ_BASE f q => 0x100000000000000 + f * 0x10000 + q * 0x200 + 8
  | .QP_SQ_TAIL f q => 0x100000000000000 + f * 0x10000 + q * 0x200 + 16
  | .QP_CQ_HEAD f q => 0x100000000000000 + f * 0x10000 + q * 0x200 + 20
  | .QP_CTL f q => 0x100000000000000 + f * 0x10000 + q * 0x200 + 24
  | .QP_STATE f q => 0x100000000000000 + f * 0x10000 + q * 0x200 + 32
  | .QP_LOG f q k => 0x100000000000000 + f * 0x10000 + q * 0x200 + 0x100 + k * 8
  | .PWR_PKG p => 0x200000000000000 + p * 0x100
  | .PWR_DIE p => 0x200000000000000 + p * 0x100 + 0x08
  | .PWR_STATUS p => 0x200000000000000 + p * 0x100 + 0x10
  | .ARC_STRAPS => 0x300000000000000 + 0x50
  | .ARC_IMG_CMD => 0x300000000000000 + 0x58
  | .ARC_IMG_BUF k => 0x300000000000000 + 0x200 + k * 8
  | .CSR c num => 0x400000000000000 + c * 0x1000 + num

/-- The requester class of requester `q` at point `p` (R96): `some true` is class A, `some false` class D. -/
def requesterClassA (p q : Nat) : Option Bool :=
  if p < 0x10 then (if q ≤ 26 then some true else none)
  else if p < 0x20 then (if q ≤ 18 then some true else none)
  else if p < 0x30 then (if q < 16 then some true else if q ≤ 25 then some false else none)
  else (if q < 32 then some true else none)

/-- Reset priority of requester `q` at point `p` (R116): 8 for class A, 4 for class D, 0 without a requester. -/
def prioReset (p q : Nat) : Nat :=
  match requesterClassA p q with
  | some true => 8
  | some false => 4
  | none => 0

/-- Reset event selection of core slot `s` (R452). -/
def coreSelReset (s : Nat) : Nat := if 3 ≤ s ∧ s ≤ 15 then s else 0

/-- The fields of a register, from the register tables. -/
def Reg.fields : Reg → List FldRow
  | .DL_CAP_DIE _ => [⟨⟨39, 16⟩, .ro, 0⟩, ⟨⟨7, 0⟩, .ro, 0⟩]
  | .DL_FEAT_DIE _ => [⟨⟨31, 0⟩, .ro, 0⟩]
  | .DL_FEAT_IOD _ => [⟨⟨39, 32⟩, .ro, 0⟩, ⟨⟨31, 0⟩, .ro, 0⟩]
  | .DL_FEAT_EFF _ => [⟨⟨63, 63⟩, .ro, 0⟩, ⟨⟨31, 0⟩, .ro, 0⟩]
  | .DL_STATUS _ => [⟨⟨12, 12⟩, .ro, 0⟩, ⟨⟨11, 8⟩, .ro, 0⟩, ⟨⟨7, 4⟩, .ro, 0⟩, ⟨⟨2, 0⟩, .ro, 0⟩]
  | .DL_ERR _ => [⟨⟨10, 10⟩, .w1c, 0⟩, ⟨⟨9, 9⟩, .w1c, 0⟩, ⟨⟨8, 8⟩, .w1c, 0⟩, ⟨⟨7, 7⟩, .w1c, 0⟩, ⟨⟨6, 6⟩, .w1c, 0⟩, ⟨⟨5, 5⟩, .w1c, 0⟩, ⟨⟨4, 4⟩, .w1c, 0⟩, ⟨⟨3, 3⟩, .w1c, 0⟩, ⟨⟨2, 2⟩, .w1c, 0⟩, ⟨⟨1, 1⟩, .w1c, 0⟩, ⟨⟨0, 0⟩, .w1c, 0⟩]
  | .DL_REPLAYS _ => [⟨⟨63, 32⟩, .ro, 0⟩, ⟨⟨31, 0⟩, .ro, 0⟩]
  | .DL_REPAIR_UP _ => (List.range 8).map (fun g => ⟨⟨6 * g + 5, 6 * g⟩, .ro, 0⟩)
  | .DL_REPAIR_DN _ => (List.range 8).map (fun g => ⟨⟨6 * g + 5, 6 * g⟩, .ro, 0⟩)
  | .DL_REPAIR_CFG _ => [⟨⟨32, 32⟩, .rwf, 1⟩, ⟨⟨31, 16⟩, .rwf, 1000⟩, ⟨⟨15, 0⟩, .rwf, 16⟩]
  | .DL_REPAIR_CMD _ => [⟨⟨63, 63⟩, .wo, 0⟩, ⟨⟨9, 4⟩, .wo, 0⟩, ⟨⟨3, 1⟩, .wo, 0⟩, ⟨⟨0, 0⟩, .wo, 0⟩]
  | .DL_INJECT _ => [⟨⟨31, 24⟩, .rw, 0⟩, ⟨⟨19, 19⟩, .rw, 0⟩, ⟨⟨18, 16⟩, .rw, 0⟩, ⟨⟨13, 8⟩, .rw, 0⟩, ⟨⟨5, 5⟩, .rw, 0⟩, ⟨⟨4, 4⟩, .rw, 0⟩, ⟨⟨3, 3⟩, .rw, 0⟩, ⟨⟨2, 2⟩, .rw, 0⟩, ⟨⟨1, 1⟩, .rw, 0⟩, ⟨⟨0, 0⟩, .rw, 0⟩]
  | .DL_LANE_ERR_UP _ _ => (List.range 8).map (fun m => ⟨⟨8 * m + 7, 8 * m⟩, .ro, 0⟩)
  | .DL_LANE_ERR_DN _ _ => (List.range 8).map (fun m => ⟨⟨8 * m + 7, 8 * m⟩, .ro, 0⟩)
  | .FOL_STATE => [⟨⟨31, 16⟩, .ro, 0⟩, ⟨⟨4, 4⟩, .ro, 0⟩, ⟨⟨2, 0⟩, .ro, 0⟩]
  | .FOL_STATUS => [⟨⟨55, 24⟩, .ro, 0⟩, ⟨⟨23, 16⟩, .ro, 0⟩, ⟨⟨15, 0⟩, .ro, 0⟩]
  | .FOL_SERIAL => [⟨⟨63, 0⟩, .ro, 0⟩]
  | .FOL_DIGEST _ => [⟨⟨63, 0⟩, .ro, 0⟩]
  | .FOL_DIGEST_ADD _ => [⟨⟨63, 0⟩, .ro, 0⟩]
  | .FOL_ADD_SEQ => [⟨⟨63, 0⟩, .ro, 0⟩]
  | .FOL_ADD_ADDR => [⟨⟨51, 0⟩, .rw, 0⟩]
  | .FOL_ADD_LEN => [⟨⟨51, 0⟩, .rw, 0⟩]
  | .FOL_ADD_CMD => [⟨⟨0, 0⟩, .wo, 0⟩]
  | .FOL_ADD_STATE => [⟨⟨39, 32⟩, .ro, 0⟩, ⟨⟨31, 16⟩, .ro, 0⟩, ⟨⟨1, 0⟩, .ro, 0⟩]
  | .FOL_ERR => [⟨⟨2, 2⟩, .w1c, 0⟩, ⟨⟨1, 1⟩, .w1c, 0⟩, ⟨⟨0, 0⟩, .w1c, 0⟩]
  | .FOL_LEAVES => [⟨⟨13, 1⟩, .ro, 0⟩]
  | .FAB_DEAL _ _ => (List.range 8).map (fun j => ⟨⟨8 * j + 7, 8 * j⟩, .rws, 0xFF⟩)
  | .FAB_BURST _ => [⟨⟨10, 0⟩, .rws, 64⟩]
  | .FAB_PRIO p q => [⟨⟨3, 0⟩, .rws, prioReset p q⟩]
  | .FAB_DEAL_ACT _ _ => (List.range 8).map (fun j => ⟨⟨8 * j + 7, 8 * j⟩, .ro, 0xFF⟩)
  | .FAB_BURST_ACT _ => [⟨⟨10, 0⟩, .ro, 64⟩]
  | .FAB_PRIO_ACT p q => [⟨⟨3, 0⟩, .ro, prioReset p q⟩]
  | .FAB_COMMIT => [⟨⟨63, 0⟩, .wo, 0⟩]
  | .FAB_COMMIT_PEND => [⟨⟨63, 0⟩, .ro, 0⟩]
  | .FAB_COMMIT_REFUSED => [⟨⟨63, 0⟩, .w1c, 0⟩]
  | .FAB_BAD_WRITE => [⟨⟨63, 0⟩, .w1c, 0⟩]
  | .FAB_ROUND => [⟨⟨63, 10⟩, .ro, 0⟩, ⟨⟨9, 0⟩, .ro, 0⟩]
  | .FAB_CUTOFF _ _ => [⟨⟨63, 0⟩, .w1c, 0⟩]
  | .FAB_PREEMPTS _ => [⟨⟨63, 32⟩, .ro, 0⟩, ⟨⟨31, 0⟩, .ro, 0⟩]
  | .FAB_DEAD _ => [⟨⟨31, 0⟩, .ro, 0⟩]
  | .FAB_PT_ROUND _ => [⟨⟨41, 10⟩, .ro, 0⟩, ⟨⟨9, 0⟩, .ro, 0⟩]
  | .FAB_HAND _ => [⟨⟨63, 63⟩, .wo, 0⟩, ⟨⟨24, 16⟩, .ro, 0⟩, ⟨⟨9, 8⟩, .ro, 0⟩, ⟨⟨2, 0⟩, .ro, 0⟩]
  | .FAB_HAND_CORES _ _ => [⟨⟨63, 0⟩, .ro, 0⟩]
  | .CORE_CTL _ => [⟨⟨1, 1⟩, .wo, 0⟩, ⟨⟨0, 0⟩, .wo, 0⟩]
  | .CORE_STATE _ => [⟨⟨20, 20⟩, .ro, 0⟩, ⟨⟨17, 16⟩, .ro, 0⟩, ⟨⟨13, 8⟩, .ro, 0⟩, ⟨⟨2, 0⟩, .ro, 0⟩]
  | .CORE_MTIMECMP _ => [⟨⟨63, 0⟩, .rw, 0xFFFFFFFFFFFFFFFF⟩]
  | .CORE_MSIP _ => [⟨⟨0, 0⟩, .rw, 0⟩]
  | .CORE_DIE_OP _ => [⟨⟨13, 13⟩, .ro, 0⟩, ⟨⟨12, 8⟩, .ro, 0⟩, ⟨⟨5, 4⟩, .ro, 0⟩, ⟨⟨1, 0⟩, .ro, 0⟩]
  | .CORE_MTIME _ => [⟨⟨63, 0⟩, .ro, 0⟩]
  | .SHV_CMD _ => [⟨⟨13, 8⟩, .wo, 0⟩, ⟨⟨4, 4⟩, .wo, 0⟩, ⟨⟨3, 3⟩, .wo, 0⟩, ⟨⟨2, 1⟩, .wo, 0⟩, ⟨⟨0, 0⟩, .wo, 0⟩]
  | .SHV_BASE _ => [⟨⟨51, 6⟩, .rw, 0⟩]
  | .SHV_SIZE _ => [⟨⟨51, 6⟩, .rw, 0⟩]
  | .SHV_STATUS _ => [⟨⟨63, 63⟩, .ro, 0⟩, ⟨⟨62, 62⟩, .w1c, 0⟩, ⟨⟨61, 61⟩, .w1c, 0⟩, ⟨⟨60, 60⟩, .w1c, 0⟩, ⟨⟨55, 48⟩, .ro, 0⟩, ⟨⟨41, 36⟩, .ro, 0⟩, ⟨⟨35, 35⟩, .ro, 0⟩, ⟨⟨34, 34⟩, .ro, 0⟩, ⟨⟨33, 33⟩, .ro, 0⟩, ⟨⟨32, 31⟩, .ro, 0⟩]
  | .SHV_SKIPPED _ => [⟨⟨31, 0⟩, .ro, 0⟩]
  | .SHV_WRITTEN _ => [⟨⟨31, 0⟩, .ro, 0⟩]
  | .SHV_PROGRESS _ => [⟨⟨63, 32⟩, .ro, 0⟩, ⟨⟨31, 0⟩, .ro, 0⟩]
  | .SHV_LOCK_LOST _ => [⟨⟨31, 0⟩, .ro, 0⟩]
  | .SHV_WAYMAP _ _ => (List.range 8).map (fun j => ⟨⟨8 * j + 7, 8 * j⟩, .ro, 0xFF⟩)
  | .SHV_QUOTA _ _ => (List.range 8).map (fun j => ⟨⟨8 * j + 4, 8 * j⟩, .rw, 16⟩)
  | .SHV_LOCK_BASE _ _ => [⟨⟨51, 6⟩, .rw, 0⟩]
  | .SHV_LOCK_SIZE _ _ => [⟨⟨63, 63⟩, .rw, 0⟩, ⟨⟨61, 56⟩, .rw, 0⟩, ⟨⟨51, 6⟩, .rw, 0⟩]
  | .HOME_SLICE_MASK _ => [⟨⟨51, 6⟩, .rwf, 0⟩]
  | .HOME_CFG => [⟨⟨2, 0⟩, .rwf, 6⟩]
  | .HOME_DIE_MASK => [⟨⟨15, 0⟩, .ro, 0⟩]
  | .HOME_SCRUB => [⟨⟨63, 63⟩, .ro, 0⟩, ⟨⟨19, 16⟩, .ro, 0⟩, ⟨⟨15, 0⟩, .ro, 0⟩]
  | .HOME_PROBE_ADDR => [⟨⟨63, 63⟩, .ro, 0⟩, ⟨⟨51, 6⟩, .rw, 0⟩]
  | .HOME_PROBE_W0 => [⟨⟨63, 0⟩, .ro, 0⟩]
  | .HOME_PROBE_W1 => [⟨⟨63, 63⟩, .ro, 0⟩, ⟨⟨62, 62⟩, .ro, 0⟩, ⟨⟨54, 0⟩, .ro, 0⟩]
  | .HOME_ERR _ => [⟨⟨4, 4⟩, .w1c, 0⟩, ⟨⟨3, 3⟩, .w1c, 0⟩, ⟨⟨2, 2⟩, .w1c, 0⟩, ⟨⟨1, 1⟩, .w1c, 0⟩, ⟨⟨0, 0⟩, .w1c, 0⟩]
  | .HOME_OCC _ => [⟨⟨43, 40⟩, .ro, 0⟩, ⟨⟨31, 16⟩, .ro, 0⟩, ⟨⟨15, 0⟩, .ro, 0⟩]
  | .HOME_STALE _ => [⟨⟨63, 32⟩, .ro, 0⟩, ⟨⟨31, 0⟩, .ro, 0⟩]
  | .HOME_BINV _ => [⟨⟨31, 0⟩, .ro, 0⟩]
  | .HOME_POISONED _ => [⟨⟨31, 0⟩, .ro, 0⟩]
  | .HOME_INJECT _ => [⟨⟨19, 19⟩, .rw, 0⟩, ⟨⟨18, 18⟩, .rw, 0⟩, ⟨⟨17, 17⟩, .rw, 0⟩, ⟨⟨16, 16⟩, .rw, 0⟩, ⟨⟨15, 8⟩, .rw, 0⟩]
  | .MC_CFG _ => [⟨⟨23, 20⟩, .ro, 0⟩, ⟨⟨19, 16⟩, .rwf, 0⟩, ⟨⟨15, 12⟩, .ro, 0⟩, ⟨⟨11, 8⟩, .rwf, 0xF⟩, ⟨⟨7, 4⟩, .ro, 0⟩, ⟨⟨3, 3⟩, .ro, 0⟩, ⟨⟨2, 1⟩, .ro, 0⟩, ⟨⟨0, 0⟩, .rwf, 0⟩]
  | .MC_CH_MASK _ _ => [⟨⟨51, 6⟩, .rwf, 0⟩]
  | .MC_MASK _ _ => [⟨⟨51, 6⟩, .rwf, 0⟩]
  | .MC_TIMING _ => [⟨⟨47, 36⟩, .ro, 0⟩, ⟨⟨35, 24⟩, .ro, 0⟩, ⟨⟨23, 16⟩, .ro, 0⟩, ⟨⟨15, 8⟩, .ro, 0⟩, ⟨⟨7, 0⟩, .ro, 0⟩]
  | .MC_DIMM _ _ => [⟨⟨11, 9⟩, .ro, 0⟩, ⟨⟨8, 8⟩, .ro, 0⟩, ⟨⟨5, 5⟩, .ro, 0⟩, ⟨⟨4, 4⟩, .ro, 0⟩, ⟨⟨0, 0⟩, .ro, 0⟩]
  | .MC_LAT_TARGET _ _ => (List.range 4).map (fun j => ⟨⟨16 * j + 15, 16 * j⟩, .rwf, 0⟩)
  | .MC_ACT _ => [⟨⟨63, 48⟩, .ro, 0⟩, ⟨⟨39, 32⟩, .ro, 0⟩, ⟨⟨31, 16⟩, .rwf, 0⟩, ⟨⟨12, 0⟩, .ro, 0⟩]
  | .MC_REFRESH _ => [⟨⟨63, 63⟩, .ro, 0⟩, ⟨⟨62, 32⟩, .ro, 0⟩, ⟨⟨31, 0⟩, .ro, 0⟩]
  | .MC_RANK _ _ => [⟨⟨63, 48⟩, .ro, 0⟩, ⟨⟨47, 32⟩, .ro, 0⟩, ⟨⟨31, 16⟩, .ro, 0⟩, ⟨⟨12, 12⟩, .ro, 0⟩, ⟨⟨11, 11⟩, .ro, 0⟩, ⟨⟨7, 4⟩, .ro, 0xF⟩, ⟨⟨2, 0⟩, .ro, 0⟩]
  | .MC_RANK_CMD _ => [⟨⟨17, 16⟩, .ro, 0⟩, ⟨⟨6, 4⟩, .wo, 0⟩, ⟨⟨1, 0⟩, .wo, 0⟩]
  | .MC_MIGRATE _ => [⟨⟨63, 63⟩, .ro, 0⟩, ⟨⟨62, 62⟩, .ro, 0⟩, ⟨⟨61, 58⟩, .ro, 0xF⟩, ⟨⟨39, 0⟩, .ro, 0⟩]
  | .MC_ERR _ => [⟨⟨8, 8⟩, .w1c, 0⟩, ⟨⟨7, 7⟩, .w1c, 0⟩, ⟨⟨6, 6⟩, .w1c, 0⟩, ⟨⟨5, 5⟩, .w1c, 0⟩, ⟨⟨4, 4⟩, .w1c, 0⟩, ⟨⟨3, 3⟩, .w1c, 0⟩, ⟨⟨2, 2⟩, .w1c, 0⟩, ⟨⟨1, 1⟩, .w1c, 0⟩, ⟨⟨0, 0⟩, .w1c, 0⟩]
  | .MC_ERR_ADDR _ => [⟨⟨63, 56⟩, .ro, 0⟩, ⟨⟨55, 53⟩, .ro, 0⟩, ⟨⟨51, 6⟩, .ro, 0⟩]
  | .MC_INJECT _ => [⟨⟨21, 21⟩, .rw, 0⟩, ⟨⟨20, 20⟩, .rw, 0⟩, ⟨⟨19, 19⟩, .rw, 0⟩, ⟨⟨18, 18⟩, .rw, 0⟩, ⟨⟨17, 15⟩, .rw, 0⟩, ⟨⟨14, 8⟩, .rw, 0⟩]
  | .HP_WIN_APT _ _ => [⟨⟨51, 12⟩, .rws, 0⟩]
  | .HP_WIN_SIZE _ _ => [⟨⟨51, 12⟩, .rws, 0⟩]
  | .HP_WIN_TARGET _ _ => [⟨⟨51, 12⟩, .rws, 0⟩]
  | .HP_WIN_ATTR _ _ => [⟨⟨2, 2⟩, .rws, 0⟩, ⟨⟨1, 1⟩, .rws, 0⟩, ⟨⟨0, 0⟩, .rws, 0⟩]
  | .HP_WIN_APT_ACT _ _ => [⟨⟨51, 12⟩, .ro, 0⟩]
  | .HP_WIN_SIZE_ACT _ _ => [⟨⟨51, 12⟩, .ro, 0⟩]
  | .HP_WIN_TARGET_ACT _ _ => [⟨⟨51, 12⟩, .ro, 0⟩]
  | .HP_WIN_ATTR_ACT _ _ => [⟨⟨2, 2⟩, .ro, 0⟩, ⟨⟨1, 1⟩, .ro, 0⟩, ⟨⟨0, 0⟩, .ro, 0⟩]
  | .HP_CFG _ => [⟨⟨39, 32⟩, .rwf, 0⟩, ⟨⟨31, 24⟩, .rwf, 0⟩, ⟨⟨20, 8⟩, .rwf, 0⟩, ⟨⟨5, 1⟩, .rwf, 0⟩, ⟨⟨0, 0⟩, .rwf, 0⟩]
  | .HP_LINK _ => [⟨⟨63, 32⟩, .ro, 0⟩, ⟨⟨15, 15⟩, .ro, 0⟩, ⟨⟨14, 14⟩, .ro, 0⟩, ⟨⟨13, 13⟩, .ro, 0⟩, ⟨⟨12, 8⟩, .ro, 0⟩, ⟨⟨7, 4⟩, .ro, 0⟩, ⟨⟨2, 0⟩, .ro, 0⟩]
  | .HP_TAGS _ => [⟨⟨42, 32⟩, .ro, 0⟩, ⟨⟨26, 16⟩, .ro, 0⟩, ⟨⟨10, 0⟩, .ro, 0⟩]
  | .HP_WIN_COMMIT _ => [⟨⟨2, 2⟩, .w1c, 0⟩, ⟨⟨1, 1⟩, .ro, 0⟩, ⟨⟨0, 0⟩, .wo, 0⟩]
  | .HP_ERR _ => [⟨⟨5, 5⟩, .w1c, 0⟩, ⟨⟨4, 4⟩, .w1c, 0⟩, ⟨⟨3, 3⟩, .w1c, 0⟩, ⟨⟨2, 2⟩, .w1c, 0⟩, ⟨⟨1, 1⟩, .w1c, 0⟩, ⟨⟨0, 0⟩, .w1c, 0⟩]
  | .HP_LTR _ => [⟨⟨63, 32⟩, .ro, 0⟩, ⟨⟨31, 0⟩, .ro, 0⟩]
  | .HP_INJECT _ => [⟨⟨3, 3⟩, .rw, 0⟩, ⟨⟨2, 2⟩, .rw, 0⟩, ⟨⟨1, 1⟩, .rw, 0⟩, ⟨⟨0, 0⟩, .rw, 0⟩]
  | .HP_FN_STATE _ => [⟨⟨52, 42⟩, .ro, 0⟩, ⟨⟨41, 31⟩, .ro, 0⟩, ⟨⟨22, 22⟩, .ro, 0⟩, ⟨⟨21, 21⟩, .ro, 0⟩, ⟨⟨20, 20⟩, .ro, 0⟩, ⟨⟨19, 19⟩, .ro, 0⟩, ⟨⟨18, 18⟩, .ro, 0⟩, ⟨⟨17, 17⟩, .ro, 0⟩, ⟨⟨16, 14⟩, .ro, 0⟩, ⟨⟨10, 0⟩, .ro, 0⟩]
  | .HP_FN_ERR _ => [⟨⟨5, 5⟩, .w1c, 0⟩, ⟨⟨4, 4⟩, .w1c, 0⟩, ⟨⟨3, 3⟩, .w1c, 0⟩, ⟨⟨2, 2⟩, .w1c, 0⟩, ⟨⟨1, 1⟩, .w1c, 0⟩, ⟨⟨0, 0⟩, .w1c, 0⟩]
  | .CSQ_SS_BUF _ => [⟨⟨63, 63⟩, .ro, 0⟩, ⟨⟨51, 6⟩, .rw, 0⟩]
  | .CSQ_SS_STATE _ => [⟨⟨63, 63⟩, .ro, 0⟩, ⟨⟨62, 62⟩, .ro, 0⟩, ⟨⟨27, 16⟩, .ro, 0⟩, ⟨⟨3, 0⟩, .ro, 0⟩]
  | .CSQ_SS_DONE _ => [⟨⟨63, 32⟩, .wo, 0⟩, ⟨⟨15, 0⟩, .wo, 0⟩]
  | .CSQ_SS_SLIP _ _ => [⟨⟨63, 0⟩, .ro, 0⟩]
  | .CSQ_FN_STAT _ => [⟨⟨63, 32⟩, .ro, 0⟩, ⟨⟨31, 0⟩, .ro, 0⟩]
  | .CSQ_INJECT => [⟨⟨28, 16⟩, .rw, 0⟩, ⟨⟨1, 1⟩, .rw, 0⟩, ⟨⟨0, 0⟩, .rw, 0⟩]
  | .CSQ_LDG_EPOCH _ => [⟨⟨63, 0⟩, .ro, 0⟩]
  | .CSQ_LDG_PHASE _ => [⟨⟨40, 32⟩, .ro, 0⟩, ⟨⟨24, 16⟩, .ro, 0⟩, ⟨⟨2, 0⟩, .ro, 0⟩]
  | .CSQ_LDG_INTAKES _ => [⟨⟨63, 32⟩, .ro, 0⟩, ⟨⟨31, 0⟩, .ro, 0⟩]
  | .CSQ_LDG_LASTFAIL _ => [⟨⟨32, 32⟩, .ro, 0⟩, ⟨⟨31, 0⟩, .ro, 0⟩]
  | .CSQ_LDG_WAITS _ => [⟨⟨63, 32⟩, .ro, 0⟩, ⟨⟨31, 0⟩, .ro, 0⟩]
  | .CSQ_LDG_ERR _ => [⟨⟨5, 5⟩, .w1c, 0⟩, ⟨⟨4, 4⟩, .w1c, 0⟩, ⟨⟨3, 3⟩, .w1c, 0⟩, ⟨⟨2, 2⟩, .w1c, 0⟩, ⟨⟨1, 1⟩, .w1c, 0⟩, ⟨⟨0, 0⟩, .w1c, 0⟩]
  | .TIC_ROUTE _ => [⟨⟨19, 16⟩, .rws, 0⟩, ⟨⟨15, 0⟩, .rws, 0xFFFF⟩]
  | .TIC_ROUTE_ACT _ => [⟨⟨19, 16⟩, .ro, 0⟩, ⟨⟨15, 0⟩, .ro, 0xFFFF⟩]
  | .TIC_EN_SET _ => [⟨⟨63, 0⟩, .w1s, 0⟩]
  | .TIC_EN_CLR _ => [⟨⟨63, 0⟩, .w1c, 0⟩]
  | .TIC_PEND_SET _ => [⟨⟨63, 0⟩, .w1s, 0⟩]
  | .TIC_PEND_CLR _ => [⟨⟨63, 0⟩, .w1c, 0⟩]
  | .TIC_SAT _ => [⟨⟨63, 0⟩, .w1c, 0⟩]
  | .TIC_TALLY _ => (List.range 8).map (fun j => ⟨⟨8 * j + 7, 8 * j⟩, .ro, 0⟩)
  | .TIC_CLAIM _ => [⟨⟨31, 24⟩, .ro, 0⟩, ⟨⟨19, 16⟩, .ro, 0⟩, ⟨⟨12, 0⟩, .ro, 0⟩]
  | .TIC_EOI _ => [⟨⟨12, 0⟩, .wo, 0⟩]
  | .TIC_CORE_CFG _ => [⟨⟨0, 0⟩, .rw, 0⟩]
  | .TIC_CORE_STATE _ => [⟨⟨63, 63⟩, .ro, 0⟩, ⟨⟨62, 62⟩, .ro, 0⟩, ⟨⟨28, 16⟩, .ro, 0⟩, ⟨⟨15, 12⟩, .ro, 0⟩, ⟨⟨8, 4⟩, .ro, 0⟩, ⟨⟨3, 0⟩, .ro, 0⟩]
  | .TIC_STACK _ _ => (List.range 2).map (fun j => ⟨⟨32 * j + 31, 32 * j + 31⟩, .ro, 0⟩) ++ (List.range 2).map (fun j => ⟨⟨32 * j + 19, 32 * j + 16⟩, .ro, 0⟩) ++ (List.range 2).map (fun j => ⟨⟨32 * j + 12, 32 * j⟩, .ro, 0⟩)
  | .TIC_ERR => [⟨⟨24, 16⟩, .ro, 0⟩, ⟨⟨2, 2⟩, .w1c, 0⟩, ⟨⟨1, 1⟩, .w1c, 0⟩, ⟨⟨0, 0⟩, .w1c, 0⟩]
  | .ARC_CTL _ => [⟨⟨31, 16⟩, .rw, 0⟩, ⟨⟨6, 6⟩, .w1c, 0⟩, ⟨⟨5, 4⟩, .ro, 0⟩, ⟨⟨1, 1⟩, .wo, 0⟩, ⟨⟨0, 0⟩, .wo, 0⟩]
  | .ARC_RESULT _ => [⟨⟨61, 32⟩, .ro, 0⟩, ⟨⟨15, 0⟩, .ro, 0⟩]
  | .ARC_DATA _ _ => [⟨⟨63, 0⟩, .rw, 0⟩]
  | .ARC_OWNER k => [⟨⟨6, 6⟩, .ro, if k = 63 then 1 else 0⟩, ⟨⟨5, 0⟩, .rw, 0⟩]
  | .ARC_STATUS => [⟨⟨63, 32⟩, .ro, 0⟩, ⟨⟨12, 12⟩, .ro, 0⟩, ⟨⟨11, 11⟩, .ro, 1⟩, ⟨⟨10, 10⟩, .ro, 0⟩, ⟨⟨9, 9⟩, .ro, 0⟩, ⟨⟨8, 8⟩, .ro, 0⟩, ⟨⟨7, 4⟩, .ro, 0⟩, ⟨⟨1, 0⟩, .ro, 0⟩]
  | .ARC_BOOT => [⟨⟨47, 32⟩, .ro, 0⟩, ⟨⟨31, 16⟩, .ro, 0⟩, ⟨⟨15, 0⟩, .ro, 0⟩]
  | .ARC_VAULT => [⟨⟨63, 48⟩, .ro, 0⟩, ⟨⟨16, 16⟩, .ro, 0⟩, ⟨⟨15, 0⟩, .ro, 0⟩]
  | .ARC_HOLD => [⟨⟨63, 40⟩, .ro, 0⟩, ⟨⟨34, 34⟩, .ro, 0⟩, ⟨⟨33, 33⟩, .ro, 0⟩, ⟨⟨32, 32⟩, .ro, 0⟩, ⟨⟨31, 16⟩, .ro, 0⟩, ⟨⟨15, 0⟩, .ro, 0⟩]
  | .ARC_HOLD_ACK => [⟨⟨63, 40⟩, .ro, 0⟩, ⟨⟨34, 34⟩, .ro, 0⟩, ⟨⟨33, 33⟩, .ro, 0⟩, ⟨⟨32, 32⟩, .ro, 0⟩, ⟨⟨31, 16⟩, .ro, 0⟩, ⟨⟨15, 0⟩, .ro, 0⟩]
  | .ARC_PREEMPT => [⟨⟨63, 40⟩, .ro, 0⟩, ⟨⟨34, 34⟩, .ro, 0⟩, ⟨⟨33, 33⟩, .ro, 0⟩, ⟨⟨32, 32⟩, .ro, 0⟩, ⟨⟨31, 16⟩, .ro, 0⟩, ⟨⟨15, 0⟩, .ro, 0⟩]
  | .ARC_ERR => [⟨⟨4, 4⟩, .w1c, 0⟩, ⟨⟨3, 3⟩, .w1c, 0⟩, ⟨⟨2, 2⟩, .w1c, 0⟩, ⟨⟨1, 1⟩, .w1c, 0⟩, ⟨⟨0, 0⟩, .w1c, 0⟩]
  | .ARC_DENIED => [⟨⟨61, 61⟩, .ro, 0⟩, ⟨⟨60, 56⟩, .ro, 0⟩, ⟨⟨55, 52⟩, .ro, 0⟩, ⟨⟨51, 6⟩, .ro, 0⟩]
  | .ARC_INJECT => [⟨⟨1, 1⟩, .rw, 0⟩, ⟨⟨0, 0⟩, .rw, 0⟩]
  | .SCK_PKG => [⟨⟨23, 16⟩, .ro, 0⟩, ⟨⟨13, 13⟩, .ro, 0⟩, ⟨⟨12, 12⟩, .ro, 0⟩, ⟨⟨11, 11⟩, .ro, 0⟩, ⟨⟨10, 8⟩, .rwf, 0⟩, ⟨⟨7, 6⟩, .ro, 3⟩, ⟨⟨5, 4⟩, .ro, 0⟩, ⟨⟨3, 2⟩, .ro, 0⟩, ⟨⟨1, 0⟩, .ro, 0⟩]
  | .SCK_LIMIT => [⟨⟨34, 34⟩, .ro, 0⟩, ⟨⟨33, 33⟩, .ro, 0⟩, ⟨⟨32, 32⟩, .ro, 0⟩, ⟨⟨31, 16⟩, .ro, 0⟩, ⟨⟨15, 0⟩, .ro, 0⟩]
  | .SCK_COOLANT => [⟨⟨63, 48⟩, .rw, 4186⟩, ⟨⟨47, 32⟩, .rw, 0⟩, ⟨⟨31, 16⟩, .ro, 0⟩, ⟨⟨15, 0⟩, .ro, 0⟩]
  | .SCK_ENERGY => [⟨⟨63, 0⟩, .ro, 0⟩]
  | .SCK_HEAT => [⟨⟨63, 0⟩, .ro, 0⟩]
  | .SCK_IOD_STATE => (List.range 16).map (fun n => ⟨⟨32 + 2 * n + 1, 32 + 2 * n⟩, .ro, 3⟩) ++ (List.range 16).map (fun s => ⟨⟨2 * s + 1, 2 * s⟩, .ro, 3⟩)
  | .SCK_ERR => [⟨⟨10, 10⟩, .w1c, 0⟩, ⟨⟨9, 9⟩, .w1c, 0⟩, ⟨⟨8, 8⟩, .w1c, 0⟩, ⟨⟨7, 7⟩, .w1c, 0⟩, ⟨⟨6, 6⟩, .w1c, 0⟩, ⟨⟨5, 5⟩, .w1c, 0⟩, ⟨⟨4, 4⟩, .w1c, 0⟩, ⟨⟨3, 3⟩, .w1c, 0⟩, ⟨⟨2, 2⟩, .w1c, 0⟩, ⟨⟨1, 1⟩, .w1c, 0⟩, ⟨⟨0, 0⟩, .ro, 0⟩]
  | .SCK_INJECT => [⟨⟨11, 8⟩, .rw, 0⟩, ⟨⟨3, 3⟩, .rw, 0⟩, ⟨⟨2, 2⟩, .rw, 0⟩, ⟨⟨1, 1⟩, .rw, 0⟩, ⟨⟨0, 0⟩, .rw, 0⟩]
  | .SCK_SUIT _ => [⟨⟨31, 16⟩, .ro, 0⟩, ⟨⟨15, 0⟩, .ro, 0⟩]
  | .SCK_VOTE _ => [⟨⟨63, 32⟩, .ro, 0⟩, ⟨⟨9, 9⟩, .ro, 0⟩, ⟨⟨8, 8⟩, .ro, 0⟩, ⟨⟨1, 0⟩, .ro, 0⟩]
  | .SCK_DIE _ => [⟨⟨23, 20⟩, .ro, 0⟩, ⟨⟨19, 19⟩, .ro, 0⟩, ⟨⟨18, 18⟩, .ro, 0⟩, ⟨⟨17, 17⟩, .ro, 0⟩, ⟨⟨16, 16⟩, .ro, 0⟩, ⟨⟨11, 10⟩, .ro, 3⟩, ⟨⟨9, 8⟩, .rw, 0⟩, ⟨⟨5, 4⟩, .ro, 0⟩, ⟨⟨3, 2⟩, .ro, 0⟩, ⟨⟨1, 0⟩, .ro, 3⟩]
  | .SCK_DIE_TEL _ => [⟨⟨63, 48⟩, .ro, 0⟩, ⟨⟨47, 32⟩, .ro, 0⟩, ⟨⟨31, 16⟩, .ro, 0⟩, ⟨⟨15, 0⟩, .ro, 0⟩]
  | .FLT_STATUS => [⟨⟨49, 49⟩, .w1c, 0⟩, ⟨⟨48, 48⟩, .w1c, 0⟩, ⟨⟨40, 32⟩, .ro, 0⟩, ⟨⟨31, 0⟩, .ro, 0⟩]
  | .FLT_HEAD => [⟨⟨7, 0⟩, .rw, 0⟩]
  | .FLT_TAIL => [⟨⟨7, 0⟩, .ro, 0⟩]
  | .FLT_CLASS_CNT _ => [⟨⟨31, 0⟩, .ro, 0⟩]
  | .FLT_DIE _ => [⟨⟨63, 48⟩, .ro, 0⟩, ⟨⟨35, 32⟩, .ro, 0⟩, ⟨⟨4, 4⟩, .ro, 0⟩, ⟨⟨2, 0⟩, .ro, 0⟩]
  | .FLT_DIE_CMD => [⟨⟨7, 4⟩, .wo, 0⟩, ⟨⟨1, 0⟩, .wo, 0⟩]
  | .FLT_INJECT => [⟨⟨63, 48⟩, .rw, 0⟩, ⟨⟨31, 24⟩, .rw, 0⟩, ⟨⟨16, 16⟩, .rw, 0⟩, ⟨⟨11, 8⟩, .rw, 0⟩, ⟨⟨0, 0⟩, .rw, 0⟩]
  | .FLT_INJECT_ADDR => [⟨⟨51, 0⟩, .rw, 0⟩]
  | .FLT_REC _ _ => [⟨⟨63, 0⟩, .ro, 0⟩]
  | .FLT_LANE _ _ _ _ => (List.range 8).map (fun m => ⟨⟨8 * m + 7, 8 * m⟩, .ro, 0⟩)
  | .CTR_CORE _ _ => [⟨⟨63, 0⟩, .ro, 0⟩]
  | .CTR_CORE_OVF _ => [⟨⟨31, 3⟩, .w1c, 0⟩]
  | .CTR_CORE_SEL _ k => (List.range 8).map (fun j => ⟨⟨8 * j + 7, 8 * j⟩, .rwf, coreSelReset (8 * k + j)⟩)
  | .CTR_BLK _ _ => [⟨⟨47, 0⟩, .rw, 0⟩]
  | .CTR_BLK_SEL _ => (List.range 8).map (fun s => ⟨⟨8 * s + 7, 8 * s⟩, .rwf, s + 1⟩)
  | .CTR_BLK_OVF _ => [⟨⟨7, 0⟩, .w1c, 0⟩]
  | .QP_SQ_BASE _ _ => [⟨⟨63, 6⟩, .rw, 0⟩]
  | .QP_CQ_BASE _ _ => [⟨⟨63, 4⟩, .rw, 0⟩]
  | .QP_SQ_TAIL _ _ => [⟨⟨11, 0⟩, .rw, 0⟩]
  | .QP_CQ_HEAD _ _ => [⟨⟨11, 0⟩, .rw, 0⟩]
  | .QP_CTL _ _ => [⟨⟨5, 4⟩, .rw, 2⟩, ⟨⟨3, 3⟩, .rw, 0⟩, ⟨⟨2, 2⟩, .wo, 0⟩, ⟨⟨1, 1⟩, .wo, 0⟩, ⟨⟨0, 0⟩, .rw, 0⟩]
  | .QP_STATE _ _ => [⟨⟨47, 44⟩, .ro, 0⟩, ⟨⟨43, 32⟩, .ro, 0⟩, ⟨⟨27, 16⟩, .ro, 0⟩, ⟨⟨6, 6⟩, .ro, 0⟩, ⟨⟨5, 4⟩, .ro, 0⟩, ⟨⟨1, 0⟩, .ro, 0⟩]
  | .QP_LOG _ _ _ => [⟨⟨63, 0⟩, .ro, 0⟩]
  | .PWR_PKG _ => [⟨⟨1, 0⟩, .rw, 0⟩]
  | .PWR_DIE _ => (List.range 16).map (fun d => ⟨⟨2 * d + 1, 2 * d⟩, .rw, 0⟩)
  | .PWR_STATUS _ => [⟨⟨63, 32⟩, .ro, 0⟩, ⟨⟨7, 7⟩, .ro, 0⟩, ⟨⟨6, 6⟩, .ro, 0⟩, ⟨⟨5, 5⟩, .ro, 0⟩, ⟨⟨4, 4⟩, .ro, 0⟩, ⟨⟨3, 2⟩, .ro, 0⟩, ⟨⟨1, 0⟩, .ro, 0⟩]
  | .ARC_STRAPS => [⟨⟨3, 3⟩, .ro, 0⟩, ⟨⟨2, 2⟩, .ro, 0⟩, ⟨⟨1, 0⟩, .ro, 0⟩]
  | .ARC_IMG_CMD => [⟨⟨63, 48⟩, .ro, 0⟩, ⟨⟨47, 24⟩, .rw, 0⟩, ⟨⟨8, 8⟩, .ro, 0⟩, ⟨⟨7, 4⟩, .rw, 0⟩, ⟨⟨2, 0⟩, .wo, 0⟩]
  | .ARC_IMG_BUF _ => [⟨⟨63, 0⟩, .wo, 0⟩]
  | .CSR _ _ => [⟨⟨63, 0⟩, .rw, 0⟩]

namespace F
@[reducible] def DL_CAP_DIE_CORE_GOOD : Fld := ⟨39, 16⟩
@[reducible] def DL_CAP_DIE_REV : Fld := ⟨7, 0⟩
@[reducible] def DL_FEAT_DIE_FEAT : Fld := ⟨31, 0⟩
@[reducible] def DL_FEAT_IOD_IOD_REV : Fld := ⟨39, 32⟩
@[reducible] def DL_FEAT_IOD_FEAT : Fld := ⟨31, 0⟩
@[reducible] def DL_FEAT_EFF_VALID : Fld := ⟨63, 63⟩
@[reducible] def DL_FEAT_EFF_FEAT : Fld := ⟨31, 0⟩
@[reducible] def DL_STATUS_HB_OK : Fld := ⟨12, 12⟩
@[reducible] def DL_STATUS_FILL_DN : Fld := ⟨11, 8⟩
@[reducible] def DL_STATUS_FILL_UP : Fld := ⟨7, 4⟩
@[reducible] def DL_STATUS_STATE : Fld := ⟨2, 0⟩
@[reducible] def DL_ERR_CAP_CHANGED : Fld := ⟨10, 10⟩
@[reducible] def DL_ERR_REV_REFUSED : Fld := ⟨9, 9⟩
@[reducible] def DL_ERR_CLK_LOST : Fld := ⟨8, 8⟩
@[reducible] def DL_ERR_HB_LOST : Fld := ⟨7, 7⟩
@[reducible] def DL_ERR_SPARE_EXHAUSTED : Fld := ⟨6, 6⟩
@[reducible] def DL_ERR_SPARE_USED : Fld := ⟨5, 5⟩
@[reducible] def DL_ERR_REPLAY_FAIL : Fld := ⟨4, 4⟩
@[reducible] def DL_ERR_STATUS_TIMEOUT : Fld := ⟨3, 3⟩
@[reducible] def DL_ERR_FIFO_RECENTRE : Fld := ⟨2, 2⟩
@[reducible] def DL_ERR_CRC_DN : Fld := ⟨1, 1⟩
@[reducible] def DL_ERR_CRC_UP : Fld := ⟨0, 0⟩
@[reducible] def DL_REPLAYS_REPLAY_DN : Fld := ⟨63, 32⟩
@[reducible] def DL_REPLAYS_REPLAY_UP : Fld := ⟨31, 0⟩
@[reducible] def DL_REPAIR_UP_SPARE (g : Nat) : Fld := ⟨6 * g + 5, 6 * g⟩
@[reducible] def DL_REPAIR_DN_SPARE (g : Nat) : Fld := ⟨6 * g + 5, 6 * g⟩
@[reducible] def DL_REPAIR_CFG_AUTO : Fld := ⟨32, 32⟩
@[reducible] def DL_REPAIR_CFG_WINDOW_US : Fld := ⟨31, 16⟩
@[reducible] def DL_REPAIR_CFG_THRESH : Fld := ⟨15, 0⟩
@[reducible] def DL_REPAIR_CMD_GO : Fld := ⟨63, 63⟩
@[reducible] def DL_REPAIR_CMD_LANE : Fld := ⟨9, 4⟩
@[reducible] def DL_REPAIR_CMD_GROUP : Fld := ⟨3, 1⟩
@[reducible] def DL_REPAIR_CMD_DIR : Fld := ⟨0, 0⟩
@[reducible] def DL_INJECT_COUNT : Fld := ⟨31, 24⟩
@[reducible] def DL_INJECT_DIR : Fld := ⟨19, 19⟩
@[reducible] def DL_INJECT_GROUP : Fld := ⟨18, 16⟩
@[reducible] def DL_INJECT_LANE : Fld := ⟨13, 8⟩
@[reducible] def DL_INJECT_LANE_FLIP : Fld := ⟨5, 5⟩
@[reducible] def DL_INJECT_FIFO : Fld := ⟨4, 4⟩
@[reducible] def DL_INJECT_HB : Fld := ⟨3, 3⟩
@[reducible] def DL_INJECT_STATUS : Fld := ⟨2, 2⟩
@[reducible] def DL_INJECT_CRC_DN : Fld := ⟨1, 1⟩
@[reducible] def DL_INJECT_CRC_UP : Fld := ⟨0, 0⟩
@[reducible] def DL_LANE_ERR_UP_CNT (m : Nat) : Fld := ⟨8 * m + 7, 8 * m⟩
@[reducible] def DL_LANE_ERR_DN_CNT (m : Nat) : Fld := ⟨8 * m + 7, 8 * m⟩
@[reducible] def FOL_STATE_ALT_CODE : Fld := ⟨31, 16⟩
@[reducible] def FOL_STATE_SLOT : Fld := ⟨4, 4⟩
@[reducible] def FOL_STATE_STATE : Fld := ⟨2, 0⟩
@[reducible] def FOL_STATUS_OFFSET : Fld := ⟨55, 24⟩
@[reducible] def FOL_STATUS_LEAF : Fld := ⟨23, 16⟩
@[reducible] def FOL_STATUS_CODE : Fld := ⟨15, 0⟩
@[reducible] def FOL_SERIAL_VALUE : Fld := ⟨63, 0⟩
@[reducible] def FOL_DIGEST_VALUE : Fld := ⟨63, 0⟩
@[reducible] def FOL_DIGEST_ADD_VALUE : Fld := ⟨63, 0⟩
@[reducible] def FOL_ADD_SEQ_VALUE : Fld := ⟨63, 0⟩
@[reducible] def FOL_ADD_ADDR_VALUE : Fld := ⟨51, 0⟩
@[reducible] def FOL_ADD_LEN_VALUE : Fld := ⟨51, 0⟩
@[reducible] def FOL_ADD_CMD_GO : Fld := ⟨0, 0⟩
@[reducible] def FOL_ADD_STATE_POINTS : Fld := ⟨39, 32⟩
@[reducible] def FOL_ADD_STATE_CODE : Fld := ⟨31, 16⟩
@[reducible] def FOL_ADD_STATE_STATE : Fld := ⟨1, 0⟩
@[reducible] def FOL_ERR_SHADOW_DENIED : Fld := ⟨2, 2⟩
@[reducible] def FOL_ERR_ADD_REFUSED : Fld := ⟨1, 1⟩
@[reducible] def FOL_ERR_ADD_DONE : Fld := ⟨0, 0⟩
@[reducible] def FOL_LEAVES_PRESENT : Fld := ⟨13, 1⟩
@[reducible] def FAB_DEAL_TRICK (j : Nat) : Fld := ⟨8 * j + 7, 8 * j⟩
@[reducible] def FAB_BURST_BURST_LIMIT : Fld := ⟨10, 0⟩
@[reducible] def FAB_PRIO_PRIO : Fld := ⟨3, 0⟩
@[reducible] def FAB_COMMIT_POINT : Fld := ⟨63, 0⟩
@[reducible] def FAB_COMMIT_PEND_POINT : Fld := ⟨63, 0⟩
@[reducible] def FAB_COMMIT_REFUSED_POINT : Fld := ⟨63, 0⟩
@[reducible] def FAB_BAD_WRITE_POINT : Fld := ⟨63, 0⟩
@[reducible] def FAB_ROUND_ROUND : Fld := ⟨63, 10⟩
@[reducible] def FAB_ROUND_TRICK : Fld := ⟨9, 0⟩
@[reducible] def FAB_CUTOFF_CUT : Fld := ⟨63, 0⟩
@[reducible] def FAB_PREEMPTS_BOUNDARY : Fld := ⟨63, 32⟩
@[reducible] def FAB_PREEMPTS_TRUMP : Fld := ⟨31, 0⟩
@[reducible] def FAB_DEAD_DEAD : Fld := ⟨31, 0⟩
@[reducible] def FAB_PT_ROUND_ROUND : Fld := ⟨41, 10⟩
@[reducible] def FAB_PT_ROUND_TRICK : Fld := ⟨9, 0⟩
@[reducible] def FAB_HAND_CLEAR_LOST : Fld := ⟨63, 63⟩
@[reducible] def FAB_HAND_CORES : Fld := ⟨24, 16⟩
@[reducible] def FAB_HAND_MODE : Fld := ⟨9, 8⟩
@[reducible] def FAB_HAND_STATE : Fld := ⟨2, 0⟩
@[reducible] def FAB_HAND_CORES_CORES : Fld := ⟨63, 0⟩
@[reducible] def CORE_CTL_STOP : Fld := ⟨1, 1⟩
@[reducible] def CORE_CTL_START : Fld := ⟨0, 0⟩
@[reducible] def CORE_STATE_WFI : Fld := ⟨20, 20⟩
@[reducible] def CORE_STATE_MODE : Fld := ⟨17, 16⟩
@[reducible] def CORE_STATE_HAND : Fld := ⟨13, 8⟩
@[reducible] def CORE_STATE_STATE : Fld := ⟨2, 0⟩
@[reducible] def CORE_MTIMECMP_CMP : Fld := ⟨63, 0⟩
@[reducible] def CORE_MSIP_MSIP : Fld := ⟨0, 0⟩
@[reducible] def CORE_DIE_OP_PINNED : Fld := ⟨13, 13⟩
@[reducible] def CORE_DIE_OP_STEP : Fld := ⟨12, 8⟩
@[reducible] def CORE_DIE_OP_TARGET : Fld := ⟨5, 4⟩
@[reducible] def CORE_DIE_OP_CUR : Fld := ⟨1, 0⟩
@[reducible] def CORE_MTIME_MTIME : Fld := ⟨63, 0⟩
@[reducible] def SHV_CMD_HAND : Fld := ⟨13, 8⟩
@[reducible] def SHV_CMD_FORCE_LOCKED : Fld := ⟨4, 4⟩
@[reducible] def SHV_CMD_SCOPE : Fld := ⟨3, 3⟩
@[reducible] def SHV_CMD_OP : Fld := ⟨2, 1⟩
@[reducible] def SHV_CMD_GO : Fld := ⟨0, 0⟩
@[reducible] def SHV_BASE_VALUE : Fld := ⟨51, 6⟩
@[reducible] def SHV_SIZE_VALUE : Fld := ⟨51, 6⟩
@[reducible] def SHV_STATUS_BUSY : Fld := ⟨63, 63⟩
@[reducible] def SHV_STATUS_DONE : Fld := ⟨62, 62⟩
@[reducible] def SHV_STATUS_REFUSED : Fld := ⟨61, 61⟩
@[reducible] def SHV_STATUS_LOCK_REFUSED : Fld := ⟨60, 60⟩
@[reducible] def SHV_STATUS_CODE : Fld := ⟨55, 48⟩
@[reducible] def SHV_STATUS_HAND : Fld := ⟨41, 36⟩
@[reducible] def SHV_STATUS_INDEX_MODE : Fld := ⟨35, 35⟩
@[reducible] def SHV_STATUS_FORCE_LOCKED : Fld := ⟨34, 34⟩
@[reducible] def SHV_STATUS_SCOPE : Fld := ⟨33, 33⟩
@[reducible] def SHV_STATUS_OP : Fld := ⟨32, 31⟩
@[reducible] def SHV_SKIPPED_COUNT : Fld := ⟨31, 0⟩
@[reducible] def SHV_WRITTEN_COUNT : Fld := ⟨31, 0⟩
@[reducible] def SHV_PROGRESS_TOTAL : Fld := ⟨63, 32⟩
@[reducible] def SHV_PROGRESS_DONE_COUNT : Fld := ⟨31, 0⟩
@[reducible] def SHV_LOCK_LOST_COUNT : Fld := ⟨31, 0⟩
@[reducible] def SHV_WAYMAP_OWNER (j : Nat) : Fld := ⟨8 * j + 7, 8 * j⟩
@[reducible] def SHV_QUOTA_QUOTA (j : Nat) : Fld := ⟨8 * j + 4, 8 * j⟩
@[reducible] def SHV_LOCK_BASE_BASE : Fld := ⟨51, 6⟩
@[reducible] def SHV_LOCK_SIZE_VALID : Fld := ⟨63, 63⟩
@[reducible] def SHV_LOCK_SIZE_HAND : Fld := ⟨61, 56⟩
@[reducible] def SHV_LOCK_SIZE_SIZE : Fld := ⟨51, 6⟩
@[reducible] def HOME_SLICE_MASK_MASK : Fld := ⟨51, 6⟩
@[reducible] def HOME_CFG_OPEN_PER_SET : Fld := ⟨2, 0⟩
@[reducible] def HOME_DIE_MASK_MASKED : Fld := ⟨15, 0⟩
@[reducible] def HOME_SCRUB_BUSY : Fld := ⟨63, 63⟩
@[reducible] def HOME_SCRUB_DIE : Fld := ⟨19, 16⟩
@[reducible] def HOME_SCRUB_DONE : Fld := ⟨15, 0⟩
@[reducible] def HOME_PROBE_ADDR_DONE : Fld := ⟨63, 63⟩
@[reducible] def HOME_PROBE_ADDR_LINE : Fld := ⟨51, 6⟩
@[reducible] def HOME_PROBE_W0_WORD0 : Fld := ⟨63, 0⟩
@[reducible] def HOME_PROBE_W1_HIT : Fld := ⟨63, 63⟩
@[reducible] def HOME_PROBE_W1_STAGED : Fld := ⟨62, 62⟩
@[reducible] def HOME_PROBE_W1_WORD1 : Fld := ⟨54, 0⟩
@[reducible] def HOME_ERR_POISON_WRITTEN : Fld := ⟨4, 4⟩
@[reducible] def HOME_ERR_BACKING_UE : Fld := ⟨3, 3⟩
@[reducible] def HOME_ERR_DIR_TAG_LOST : Fld := ⟨2, 2⟩
@[reducible] def HOME_ERR_DIR_UE : Fld := ⟨1, 1⟩
@[reducible] def HOME_ERR_DIR_CE : Fld := ⟨0, 0⟩
@[reducible] def HOME_OCC_STAGING : Fld := ⟨43, 40⟩
@[reducible] def HOME_OCC_WAITING : Fld := ⟨31, 16⟩
@[reducible] def HOME_OCC_PINNED : Fld := ⟨15, 0⟩
@[reducible] def HOME_STALE_STALE_NOTICE : Fld := ⟨63, 32⟩
@[reducible] def HOME_STALE_STALE_WB : Fld := ⟨31, 0⟩
@[reducible] def HOME_BINV_COUNT : Fld := ⟨31, 0⟩
@[reducible] def HOME_POISONED_COUNT : Fld := ⟨31, 0⟩
@[reducible] def HOME_INJECT_BACKING : Fld := ⟨19, 19⟩
@[reducible] def HOME_INJECT_ARM : Fld := ⟨18, 18⟩
@[reducible] def HOME_INJECT_DOUBLE : Fld := ⟨17, 17⟩
@[reducible] def HOME_INJECT_WORD : Fld := ⟨16, 16⟩
@[reducible] def HOME_INJECT_BIT : Fld := ⟨15, 8⟩
@[reducible] def MC_CFG_CH_INDEX : Fld := ⟨23, 20⟩
@[reducible] def MC_CFG_CH_BITS : Fld := ⟨19, 16⟩
@[reducible] def MC_CFG_ROW_BITS : Fld := ⟨15, 12⟩
@[reducible] def MC_CFG_SPARE : Fld := ⟨11, 8⟩
@[reducible] def MC_CFG_RANKS : Fld := ⟨7, 4⟩
@[reducible] def MC_CFG_SPEED : Fld := ⟨3, 3⟩
@[reducible] def MC_CFG_DPC : Fld := ⟨2, 1⟩
@[reducible] def MC_CFG_ENABLE : Fld := ⟨0, 0⟩
@[reducible] def MC_CH_MASK_MASK : Fld := ⟨51, 6⟩
@[reducible] def MC_MASK_MASK : Fld := ⟨51, 6⟩
@[reducible] def MC_TIMING_TREFI : Fld := ⟨47, 36⟩
@[reducible] def MC_TIMING_TRFCSB : Fld := ⟨35, 24⟩
@[reducible] def MC_TIMING_CL : Fld := ⟨23, 16⟩
@[reducible] def MC_TIMING_TRCD : Fld := ⟨15, 8⟩
@[reducible] def MC_TIMING_TRP : Fld := ⟨7, 0⟩
@[reducible] def MC_DIMM_HEIGHT : Fld := ⟨11, 9⟩
@[reducible] def MC_DIMM_PRANKS : Fld := ⟨8, 8⟩
@[reducible] def MC_DIMM_DENSITY : Fld := ⟨5, 5⟩
@[reducible] def MC_DIMM_WIDTH : Fld := ⟨4, 4⟩
@[reducible] def MC_DIMM_PRESENT : Fld := ⟨0, 0⟩
@[reducible] def MC_LAT_TARGET_TARGET (j : Nat) : Fld := ⟨16 * j + 15, 16 * j⟩
@[reducible] def MC_ACT_OVERFLOWS : Fld := ⟨63, 48⟩
@[reducible] def MC_ACT_QUEUED : Fld := ⟨39, 32⟩
@[reducible] def MC_ACT_THRESH : Fld := ⟨31, 16⟩
@[reducible] def MC_ACT_USED : Fld := ⟨12, 0⟩
@[reducible] def MC_REFRESH_HOT : Fld := ⟨63, 63⟩
@[reducible] def MC_REFRESH_NEIGHBOUR : Fld := ⟨62, 32⟩
@[reducible] def MC_REFRESH_REFSB : Fld := ⟨31, 0⟩
@[reducible] def MC_RANK_DROPPED : Fld := ⟨63, 48⟩
@[reducible] def MC_RANK_UE : Fld := ⟨47, 32⟩
@[reducible] def MC_RANK_CE_HOUR : Fld := ⟨31, 16⟩
@[reducible] def MC_RANK_PASS : Fld := ⟨12, 12⟩
@[reducible] def MC_RANK_TESTED : Fld := ⟨11, 11⟩
@[reducible] def MC_RANK_INDEX : Fld := ⟨7, 4⟩
@[reducible] def MC_RANK_STATE : Fld := ⟨2, 0⟩
@[reducible] def MC_RANK_CMD_RESULT : Fld := ⟨17, 16⟩
@[reducible] def MC_RANK_CMD_RANK : Fld := ⟨6, 4⟩
@[reducible] def MC_RANK_CMD_OP : Fld := ⟨1, 0⟩
@[reducible] def MC_MIGRATE_ACTIVE : Fld := ⟨63, 63⟩
@[reducible] def MC_MIGRATE_DIR : Fld := ⟨62, 62⟩
@[reducible] def MC_MIGRATE_SOURCE : Fld := ⟨61, 58⟩
@[reducible] def MC_MIGRATE_POINTER : Fld := ⟨39, 0⟩
@[reducible] def MC_ERR_TEST_FAIL : Fld := ⟨8, 8⟩
@[reducible] def MC_ERR_RANK_FAILED : Fld := ⟨7, 7⟩
@[reducible] def MC_ERR_RANK_RETIRED : Fld := ⟨6, 6⟩
@[reducible] def MC_ERR_ACT_OVERFLOW : Fld := ⟨5, 5⟩
@[reducible] def MC_ERR_CMD_UE : Fld := ⟨4, 4⟩
@[reducible] def MC_ERR_CMD_CE : Fld := ⟨3, 3⟩
@[reducible] def MC_ERR_BACKING_UE : Fld := ⟨2, 2⟩
@[reducible] def MC_ERR_UE : Fld := ⟨1, 1⟩
@[reducible] def MC_ERR_CE : Fld := ⟨0, 0⟩
@[reducible] def MC_ERR_ADDR_SYNDROME : Fld := ⟨63, 56⟩
@[reducible] def MC_ERR_ADDR_WORD : Fld := ⟨55, 53⟩
@[reducible] def MC_ERR_ADDR_LINE : Fld := ⟨51, 6⟩
@[reducible] def MC_INJECT_CA_PARITY : Fld := ⟨21, 21⟩
@[reducible] def MC_INJECT_BACKING : Fld := ⟨20, 20⟩
@[reducible] def MC_INJECT_ARM : Fld := ⟨19, 19⟩
@[reducible] def MC_INJECT_DOUBLE : Fld := ⟨18, 18⟩
@[reducible] def MC_INJECT_WORD : Fld := ⟨17, 15⟩
@[reducible] def MC_INJECT_BIT : Fld := ⟨14, 8⟩
@[reducible] def HP_WIN_APT_VALUE : Fld := ⟨51, 12⟩
@[reducible] def HP_WIN_SIZE_VALUE : Fld := ⟨51, 12⟩
@[reducible] def HP_WIN_TARGET_VALUE : Fld := ⟨51, 12⟩
@[reducible] def HP_WIN_ATTR_W : Fld := ⟨2, 2⟩
@[reducible] def HP_WIN_ATTR_R : Fld := ⟨1, 1⟩
@[reducible] def HP_WIN_ATTR_VALID : Fld := ⟨0, 0⟩
@[reducible] def HP_CFG_VF_BAR_LOG2 : Fld := ⟨39, 32⟩
@[reducible] def HP_CFG_PF_BAR_LOG2 : Fld := ⟨31, 24⟩
@[reducible] def HP_CFG_VF_COUNT : Fld := ⟨20, 8⟩
@[reducible] def HP_CFG_MAX_WIDTH : Fld := ⟨5, 1⟩
@[reducible] def HP_CFG_ENABLE : Fld := ⟨0, 0⟩
@[reducible] def HP_LINK_DOWNS : Fld := ⟨63, 32⟩
@[reducible] def HP_LINK_PERST : Fld := ⟨15, 15⟩
@[reducible] def HP_LINK_L1 : Fld := ⟨14, 14⟩
@[reducible] def HP_LINK_FLIT : Fld := ⟨13, 13⟩
@[reducible] def HP_LINK_WIDTH : Fld := ⟨12, 8⟩
@[reducible] def HP_LINK_SPEED : Fld := ⟨7, 4⟩
@[reducible] def HP_LINK_STATE : Fld := ⟨2, 0⟩
@[reducible] def HP_TAGS_REMAINDER : Fld := ⟨42, 32⟩
@[reducible] def HP_TAGS_FREE : Fld := ⟨26, 16⟩
@[reducible] def HP_TAGS_IN_USE : Fld := ⟨10, 0⟩
@[reducible] def HP_WIN_COMMIT_WIN_REFUSED : Fld := ⟨2, 2⟩
@[reducible] def HP_WIN_COMMIT_WIN_PEND : Fld := ⟨1, 1⟩
@[reducible] def HP_WIN_COMMIT_GO : Fld := ⟨0, 0⟩
@[reducible] def HP_ERR_WIN_REFUSED : Fld := ⟨5, 5⟩
@[reducible] def HP_ERR_LINK_DOWN : Fld := ⟨4, 4⟩
@[reducible] def HP_ERR_FATAL : Fld := ⟨3, 3⟩
@[reducible] def HP_ERR_CORRECTED : Fld := ⟨2, 2⟩
@[reducible] def HP_ERR_NARROW : Fld := ⟨1, 1⟩
@[reducible] def HP_ERR_PEER_UR : Fld := ⟨0, 0⟩
@[reducible] def HP_LTR_SENT : Fld := ⟨63, 32⟩
@[reducible] def HP_LTR_LAST_NS : Fld := ⟨31, 0⟩
@[reducible] def HP_INJECT_LINK_DOWN : Fld := ⟨3, 3⟩
@[reducible] def HP_INJECT_POISON : Fld := ⟨2, 2⟩
@[reducible] def HP_INJECT_TIMEOUT : Fld := ⟨1, 1⟩
@[reducible] def HP_INJECT_LCRC : Fld := ⟨0, 0⟩
@[reducible] def HP_FN_STATE_TAGS_HELD : Fld := ⟨52, 42⟩
@[reducible] def HP_FN_STATE_QUOTA : Fld := ⟨41, 31⟩
@[reducible] def HP_FN_STATE_FLR_BUSY : Fld := ⟨22, 22⟩
@[reducible] def HP_FN_STATE_D3 : Fld := ⟨21, 21⟩
@[reducible] def HP_FN_STATE_INTX : Fld := ⟨20, 20⟩
@[reducible] def HP_FN_STATE_MSIX : Fld := ⟨19, 19⟩
@[reducible] def HP_FN_STATE_BME : Fld := ⟨18, 18⟩
@[reducible] def HP_FN_STATE_EXISTS : Fld := ⟨17, 17⟩
@[reducible] def HP_FN_STATE_PORT : Fld := ⟨16, 14⟩
@[reducible] def HP_FN_STATE_VF_NUM : Fld := ⟨10, 0⟩
@[reducible] def HP_FN_ERR_FLR : Fld := ⟨5, 5⟩
@[reducible] def HP_FN_ERR_UNEXPECTED : Fld := ⟨4, 4⟩
@[reducible] def HP_FN_ERR_TIMEOUT : Fld := ⟨3, 3⟩
@[reducible] def HP_FN_ERR_POISON : Fld := ⟨2, 2⟩
@[reducible] def HP_FN_ERR_CA : Fld := ⟨1, 1⟩
@[reducible] def HP_FN_ERR_UR : Fld := ⟨0, 0⟩
@[reducible] def CSQ_SS_BUF_VALID : Fld := ⟨63, 63⟩
@[reducible] def CSQ_SS_BUF_BASE : Fld := ⟨51, 6⟩
@[reducible] def CSQ_SS_STATE_BUSY : Fld := ⟨63, 63⟩
@[reducible] def CSQ_SS_STATE_ORPHAN : Fld := ⟨62, 62⟩
@[reducible] def CSQ_SS_STATE_VF : Fld := ⟨27, 16⟩
@[reducible] def CSQ_SS_STATE_QUEUE : Fld := ⟨3, 0⟩
@[reducible] def CSQ_SS_DONE_RESULT : Fld := ⟨63, 32⟩
@[reducible] def CSQ_SS_DONE_STATUS : Fld := ⟨15, 0⟩
@[reducible] def CSQ_SS_SLIP_BYTES : Fld := ⟨63, 0⟩
@[reducible] def CSQ_FN_STAT_OVER_BUDGET : Fld := ⟨63, 32⟩
@[reducible] def CSQ_FN_STAT_ACCEPTED : Fld := ⟨31, 0⟩
@[reducible] def CSQ_INJECT_FN : Fld := ⟨28, 16⟩
@[reducible] def CSQ_INJECT_POISON : Fld := ⟨1, 1⟩
@[reducible] def CSQ_INJECT_LOST : Fld := ⟨0, 0⟩
@[reducible] def CSQ_LDG_EPOCH_EPOCH : Fld := ⟨63, 0⟩
@[reducible] def CSQ_LDG_PHASE_ENDED : Fld := ⟨40, 32⟩
@[reducible] def CSQ_LDG_PHASE_TOKEN : Fld := ⟨24, 16⟩
@[reducible] def CSQ_LDG_PHASE_PHASE : Fld := ⟨2, 0⟩
@[reducible] def CSQ_LDG_INTAKES_FAILED : Fld := ⟨63, 32⟩
@[reducible] def CSQ_LDG_INTAKES_SEQ : Fld := ⟨31, 0⟩
@[reducible] def CSQ_LDG_LASTFAIL_KIND : Fld := ⟨32, 32⟩
@[reducible] def CSQ_LDG_LASTFAIL_SEQ : Fld := ⟨31, 0⟩
@[reducible] def CSQ_LDG_WAITS_COUNT : Fld := ⟨63, 32⟩
@[reducible] def CSQ_LDG_WAITS_LONGEST : Fld := ⟨31, 0⟩
@[reducible] def CSQ_LDG_ERR_VOID_LOSS : Fld := ⟨5, 5⟩
@[reducible] def CSQ_LDG_ERR_VOID_ERR : Fld := ⟨4, 4⟩
@[reducible] def CSQ_LDG_ERR_VOID_INT : Fld := ⟨3, 3⟩
@[reducible] def CSQ_LDG_ERR_ACCESS : Fld := ⟨2, 2⟩
@[reducible] def CSQ_LDG_ERR_STAGE_WAIT : Fld := ⟨1, 1⟩
@[reducible] def CSQ_LDG_ERR_INTAKE_FAIL : Fld := ⟨0, 0⟩
@[reducible] def TIC_ROUTE_PRIORITY : Fld := ⟨19, 16⟩
@[reducible] def TIC_ROUTE_TARGET : Fld := ⟨15, 0⟩
@[reducible] def TIC_EN_SET_EN : Fld := ⟨63, 0⟩
@[reducible] def TIC_EN_CLR_EN : Fld := ⟨63, 0⟩
@[reducible] def TIC_PEND_SET_PEND : Fld := ⟨63, 0⟩
@[reducible] def TIC_PEND_CLR_PEND : Fld := ⟨63, 0⟩
@[reducible] def TIC_SAT_SAT : Fld := ⟨63, 0⟩
@[reducible] def TIC_TALLY_TALLY (j : Nat) : Fld := ⟨8 * j + 7, 8 * j⟩
@[reducible] def TIC_CLAIM_TALLY : Fld := ⟨31, 24⟩
@[reducible] def TIC_CLAIM_PRIORITY : Fld := ⟨19, 16⟩
@[reducible] def TIC_CLAIM_SOURCE : Fld := ⟨12, 0⟩
@[reducible] def TIC_EOI_SOURCE : Fld := ⟨12, 0⟩
@[reducible] def TIC_CORE_CFG_LEVEL : Fld := ⟨0, 0⟩
@[reducible] def TIC_CORE_STATE_LINE : Fld := ⟨63, 63⟩
@[reducible] def TIC_CORE_STATE_WAKE : Fld := ⟨62, 62⟩
@[reducible] def TIC_CORE_STATE_BEST : Fld := ⟨28, 16⟩
@[reducible] def TIC_CORE_STATE_BEST_PRIO : Fld := ⟨15, 12⟩
@[reducible] def TIC_CORE_STATE_DEPTH : Fld := ⟨8, 4⟩
@[reducible] def TIC_CORE_STATE_RUNNING : Fld := ⟨3, 0⟩
@[reducible] def TIC_STACK_VALID (j : Nat) : Fld := ⟨32 * j + 31, 32 * j + 31⟩
@[reducible] def TIC_STACK_SAVED (j : Nat) : Fld := ⟨32 * j + 19, 32 * j + 16⟩
@[reducible] def TIC_STACK_SOURCE (j : Nat) : Fld := ⟨32 * j + 12, 32 * j⟩
@[reducible] def TIC_ERR_CORE : Fld := ⟨24, 16⟩
@[reducible] def TIC_ERR_ROUTE_DENIED : Fld := ⟨2, 2⟩
@[reducible] def TIC_ERR_EOI_MISMATCH : Fld := ⟨1, 1⟩
@[reducible] def TIC_ERR_EOI_EMPTY : Fld := ⟨0, 0⟩
@[reducible] def ARC_CTL_SERVICE : Fld := ⟨31, 16⟩
@[reducible] def ARC_CTL_WRITE_IGNORED : Fld := ⟨6, 6⟩
@[reducible] def ARC_CTL_STATE : Fld := ⟨5, 4⟩
@[reducible] def ARC_CTL_RELEASE : Fld := ⟨1, 1⟩
@[reducible] def ARC_CTL_CALL : Fld := ⟨0, 0⟩
@[reducible] def ARC_RESULT_KEEP : Fld := ⟨61, 32⟩
@[reducible] def ARC_RESULT_STATUS : Fld := ⟨15, 0⟩
@[reducible] def ARC_DATA_DATA : Fld := ⟨63, 0⟩
@[reducible] def ARC_OWNER_BMC : Fld := ⟨6, 6⟩
@[reducible] def ARC_OWNER_HAND : Fld := ⟨5, 0⟩
@[reducible] def ARC_STATUS_FW_VERSION : Fld := ⟨63, 32⟩
@[reducible] def ARC_STATUS_VAULT_ZEROED : Fld := ⟨12, 12⟩
@[reducible] def ARC_STATUS_DEBUG_OFF : Fld := ⟨11, 11⟩
@[reducible] def ARC_STATUS_VPP : Fld := ⟨10, 10⟩
@[reducible] def ARC_STATUS_TAMPER : Fld := ⟨9, 9⟩
@[reducible] def ARC_STATUS_FW_SLOT : Fld := ⟨8, 8⟩
@[reducible] def ARC_STATUS_ROOT_REVOKED : Fld := ⟨7, 4⟩
@[reducible] def ARC_STATUS_STAGE : Fld := ⟨1, 0⟩
@[reducible] def ARC_BOOT_HS_CODE : Fld := ⟨47, 32⟩
@[reducible] def ARC_BOOT_FW_B_CODE : Fld := ⟨31, 16⟩
@[reducible] def ARC_BOOT_FW_A_CODE : Fld := ⟨15, 0⟩
@[reducible] def ARC_VAULT_CHANNELS : Fld := ⟨63, 48⟩
@[reducible] def ARC_VAULT_LOCK : Fld := ⟨16, 16⟩
@[reducible] def ARC_VAULT_WATERMARK : Fld := ⟨15, 0⟩
@[reducible] def ARC_HOLD_GRACE : Fld := ⟨63, 40⟩
@[reducible] def ARC_HOLD_I3C : Fld := ⟨34, 34⟩
@[reducible] def ARC_HOLD_FLASH : Fld := ⟨33, 33⟩
@[reducible] def ARC_HOLD_FABRIC : Fld := ⟨32, 32⟩
@[reducible] def ARC_HOLD_SLICE : Fld := ⟨31, 16⟩
@[reducible] def ARC_HOLD_CHANNEL : Fld := ⟨15, 0⟩
@[reducible] def ARC_HOLD_ACK_GRACE : Fld := ⟨63, 40⟩
@[reducible] def ARC_HOLD_ACK_I3C : Fld := ⟨34, 34⟩
@[reducible] def ARC_HOLD_ACK_FLASH : Fld := ⟨33, 33⟩
@[reducible] def ARC_HOLD_ACK_FABRIC : Fld := ⟨32, 32⟩
@[reducible] def ARC_HOLD_ACK_SLICE : Fld := ⟨31, 16⟩
@[reducible] def ARC_HOLD_ACK_CHANNEL : Fld := ⟨15, 0⟩
@[reducible] def ARC_PREEMPT_GRACE : Fld := ⟨63, 40⟩
@[reducible] def ARC_PREEMPT_I3C : Fld := ⟨34, 34⟩
@[reducible] def ARC_PREEMPT_FLASH : Fld := ⟨33, 33⟩
@[reducible] def ARC_PREEMPT_FABRIC : Fld := ⟨32, 32⟩
@[reducible] def ARC_PREEMPT_SLICE : Fld := ⟨31, 16⟩
@[reducible] def ARC_PREEMPT_CHANNEL : Fld := ⟨15, 0⟩
@[reducible] def ARC_ERR_TAMPER : Fld := ⟨4, 4⟩
@[reducible] def ARC_ERR_VAULT_DENIED : Fld := ⟨3, 3⟩
@[reducible] def ARC_ERR_OWNER_BUSY : Fld := ⟨2, 2⟩
@[reducible] def ARC_ERR_PREEMPTED : Fld := ⟨1, 1⟩
@[reducible] def ARC_ERR_HELD : Fld := ⟨0, 0⟩
@[reducible] def ARC_DENIED_WRITE : Fld := ⟨61, 61⟩
@[reducible] def ARC_DENIED_REQ : Fld := ⟨60, 56⟩
@[reducible] def ARC_DENIED_SLICE : Fld := ⟨55, 52⟩
@[reducible] def ARC_DENIED_LINE : Fld := ⟨51, 6⟩
@[reducible] def ARC_INJECT_TAMPER : Fld := ⟨1, 1⟩
@[reducible] def ARC_INJECT_VAULT : Fld := ⟨0, 0⟩
@[reducible] def SCK_PKG_COUNTING : Fld := ⟨23, 16⟩
@[reducible] def SCK_PKG_FORCED : Fld := ⟨13, 13⟩
@[reducible] def SCK_PKG_HELD : Fld := ⟨12, 12⟩
@[reducible] def SCK_PKG_AUTH_UP : Fld := ⟨11, 11⟩
@[reducible] def SCK_PKG_AUTH_PORT : Fld := ⟨10, 8⟩
@[reducible] def SCK_PKG_VOTE_MIN : Fld := ⟨7, 6⟩
@[reducible] def SCK_PKG_COMMAND : Fld := ⟨5, 4⟩
@[reducible] def SCK_PKG_TARGET : Fld := ⟨3, 2⟩
@[reducible] def SCK_PKG_STATE : Fld := ⟨1, 0⟩
@[reducible] def SCK_LIMIT_OUTLET_CAP : Fld := ⟨34, 34⟩
@[reducible] def SCK_LIMIT_DERATED : Fld := ⟨33, 33⟩
@[reducible] def SCK_LIMIT_OVER_LIMIT : Fld := ⟨32, 32⟩
@[reducible] def SCK_LIMIT_POWER_W : Fld := ⟨31, 16⟩
@[reducible] def SCK_LIMIT_LIMIT_W : Fld := ⟨15, 0⟩
@[reducible] def SCK_COOLANT_HEAT_CAP : Fld := ⟨63, 48⟩
@[reducible] def SCK_COOLANT_FLOW : Fld := ⟨47, 32⟩
@[reducible] def SCK_COOLANT_OUTLET : Fld := ⟨31, 16⟩
@[reducible] def SCK_COOLANT_INLET : Fld := ⟨15, 0⟩
@[reducible] def SCK_ENERGY_COUNT : Fld := ⟨63, 0⟩
@[reducible] def SCK_HEAT_COUNT : Fld := ⟨63, 0⟩
@[reducible] def SCK_IOD_STATE_CHANNEL (n : Nat) : Fld := ⟨32 + 2 * n + 1, 32 + 2 * n⟩
@[reducible] def SCK_IOD_STATE_SLICE (s : Nat) : Fld := ⟨2 * s + 1, 2 * s⟩
@[reducible] def SCK_ERR_WAKE_STALL : Fld := ⟨10, 10⟩
@[reducible] def SCK_ERR_NO_FLOW : Fld := ⟨9, 9⟩
@[reducible] def SCK_ERR_REFUSED : Fld := ⟨8, 8⟩
@[reducible] def SCK_ERR_TELEM_LOST : Fld := ⟨7, 7⟩
@[reducible] def SCK_ERR_OUTLET_HIGH : Fld := ⟨6, 6⟩
@[reducible] def SCK_ERR_INLET_HIGH : Fld := ⟨5, 5⟩
@[reducible] def SCK_ERR_OVER_LIMIT : Fld := ⟨4, 4⟩
@[reducible] def SCK_ERR_THROTTLE : Fld := ⟨3, 3⟩
@[reducible] def SCK_ERR_TRIP : Fld := ⟨2, 2⟩
@[reducible] def SCK_ERR_HELD : Fld := ⟨1, 1⟩
@[reducible] def SCK_ERR_THERMTRIP : Fld := ⟨0, 0⟩
@[reducible] def SCK_INJECT_DIE : Fld := ⟨11, 8⟩
@[reducible] def SCK_INJECT_INLET : Fld := ⟨3, 3⟩
@[reducible] def SCK_INJECT_IOD_TRIP : Fld := ⟨2, 2⟩
@[reducible] def SCK_INJECT_TRIP : Fld := ⟨1, 1⟩
@[reducible] def SCK_INJECT_TELEM : Fld := ⟨0, 0⟩
@[reducible] def SCK_SUIT_TJ_MAX : Fld := ⟨31, 16⟩
@[reducible] def SCK_SUIT_POWER_W : Fld := ⟨15, 0⟩
@[reducible] def SCK_VOTE_DIE : Fld := ⟨63, 32⟩
@[reducible] def SCK_VOTE_AUTH : Fld := ⟨9, 9⟩
@[reducible] def SCK_VOTE_COUNTS : Fld := ⟨8, 8⟩
@[reducible] def SCK_VOTE_PKG : Fld := ⟨1, 0⟩
@[reducible] def SCK_DIE_LADDER : Fld := ⟨23, 20⟩
@[reducible] def SCK_DIE_THROTTLE : Fld := ⟨19, 19⟩
@[reducible] def SCK_DIE_TRIP : Fld := ⟨18, 18⟩
@[reducible] def SCK_DIE_REFUSED : Fld := ⟨17, 17⟩
@[reducible] def SCK_DIE_PINNED : Fld := ⟨16, 16⟩
@[reducible] def SCK_DIE_OP_CAP : Fld := ⟨11, 10⟩
@[reducible] def SCK_DIE_OP_REQ : Fld := ⟨9, 8⟩
@[reducible] def SCK_DIE_CMD : Fld := ⟨5, 4⟩
@[reducible] def SCK_DIE_TARGET : Fld := ⟨3, 2⟩
@[reducible] def SCK_DIE_STATE : Fld := ⟨1, 0⟩
@[reducible] def SCK_DIE_TEL_AGE : Fld := ⟨63, 48⟩
@[reducible] def SCK_DIE_TEL_VOLT : Fld := ⟨47, 32⟩
@[reducible] def SCK_DIE_TEL_CURRENT : Fld := ⟨31, 16⟩
@[reducible] def SCK_DIE_TEL_TJ : Fld := ⟨15, 0⟩
@[reducible] def FLT_STATUS_HOUSE_RESTART : Fld := ⟨49, 49⟩
@[reducible] def FLT_STATUS_OVERFLOW : Fld := ⟨48, 48⟩
@[reducible] def FLT_STATUS_WAITING : Fld := ⟨40, 32⟩
@[reducible] def FLT_STATUS_DROPPED : Fld := ⟨31, 0⟩
@[reducible] def FLT_HEAD_INDEX : Fld := ⟨7, 0⟩
@[reducible] def FLT_TAIL_INDEX : Fld := ⟨7, 0⟩
@[reducible] def FLT_CLASS_CNT_COUNT : Fld := ⟨31, 0⟩
@[reducible] def FLT_DIE_STOPS : Fld := ⟨63, 48⟩
@[reducible] def FLT_DIE_CAUSE : Fld := ⟨35, 32⟩
@[reducible] def FLT_DIE_AUTO_HELD : Fld := ⟨4, 4⟩
@[reducible] def FLT_DIE_STATE : Fld := ⟨2, 0⟩
@[reducible] def FLT_DIE_CMD_DIE : Fld := ⟨7, 4⟩
@[reducible] def FLT_DIE_CMD_OP : Fld := ⟨1, 0⟩
@[reducible] def FLT_INJECT_UNIT : Fld := ⟨63, 48⟩
@[reducible] def FLT_INJECT_BIT : Fld := ⟨31, 24⟩
@[reducible] def FLT_INJECT_DOUBLE : Fld := ⟨16, 16⟩
@[reducible] def FLT_INJECT_STRUCT : Fld := ⟨11, 8⟩
@[reducible] def FLT_INJECT_ARM : Fld := ⟨0, 0⟩
@[reducible] def FLT_INJECT_ADDR_ADDR : Fld := ⟨51, 0⟩
@[reducible] def FLT_REC_WORD : Fld := ⟨63, 0⟩
@[reducible] def FLT_LANE_CNT (m : Nat) : Fld := ⟨8 * m + 7, 8 * m⟩
@[reducible] def CTR_CORE_COUNT : Fld := ⟨63, 0⟩
@[reducible] def CTR_CORE_OVF_OVF : Fld := ⟨31, 3⟩
@[reducible] def CTR_CORE_SEL_SEL (j : Nat) : Fld := ⟨8 * j + 7, 8 * j⟩
@[reducible] def CTR_BLK_COUNT : Fld := ⟨47, 0⟩
@[reducible] def CTR_BLK_SEL_SEL (s : Nat) : Fld := ⟨8 * s + 7, 8 * s⟩
@[reducible] def CTR_BLK_OVF_OVF : Fld := ⟨7, 0⟩
@[reducible] def QP_SQ_BASE_BASE : Fld := ⟨63, 6⟩
@[reducible] def QP_CQ_BASE_BASE : Fld := ⟨63, 4⟩
@[reducible] def QP_SQ_TAIL_INDEX : Fld := ⟨11, 0⟩
@[reducible] def QP_CQ_HEAD_INDEX : Fld := ⟨11, 0⟩
@[reducible] def QP_CTL_IDLE_MAX : Fld := ⟨5, 4⟩
@[reducible] def QP_CTL_INT_OFF : Fld := ⟨3, 3⟩
@[reducible] def QP_CTL_RING_RESET : Fld := ⟨2, 2⟩
@[reducible] def QP_CTL_RESTART : Fld := ⟨1, 1⟩
@[reducible] def QP_CTL_ENABLE : Fld := ⟨0, 0⟩
@[reducible] def QP_STATE_DEF_PEND : Fld := ⟨47, 44⟩
@[reducible] def QP_STATE_CQ_TAIL : Fld := ⟨43, 32⟩
@[reducible] def QP_STATE_SQ_HEAD : Fld := ⟨27, 16⟩
@[reducible] def QP_STATE_BUSY : Fld := ⟨6, 6⟩
@[reducible] def QP_STATE_IDLE : Fld := ⟨5, 4⟩
@[reducible] def QP_STATE_STATE : Fld := ⟨1, 0⟩
@[reducible] def PWR_PKG_TARGET : Fld := ⟨1, 0⟩
@[reducible] def PWR_DIE_DIE (d : Nat) : Fld := ⟨2 * d + 1, 2 * d⟩
@[reducible] def PWR_STATUS_DIE_STATE : Fld := ⟨63, 32⟩
@[reducible] def PWR_STATUS_REFUSED : Fld := ⟨7, 7⟩
@[reducible] def PWR_STATUS_FORCED : Fld := ⟨6, 6⟩
@[reducible] def PWR_STATUS_HELD : Fld := ⟨5, 5⟩
@[reducible] def PWR_STATUS_AUTH : Fld := ⟨4, 4⟩
@[reducible] def PWR_STATUS_PKG_TARGET : Fld := ⟨3, 2⟩
@[reducible] def PWR_STATUS_PKG_STATE : Fld := ⟨1, 0⟩
@[reducible] def ARC_STRAPS_SSC : Fld := ⟨3, 3⟩
@[reducible] def ARC_STRAPS_AF_MODE : Fld := ⟨2, 2⟩
@[reducible] def ARC_STRAPS_MG_ADDR : Fld := ⟨1, 0⟩
@[reducible] def ARC_IMG_CMD_STATUS : Fld := ⟨63, 48⟩
@[reducible] def ARC_IMG_CMD_OFFSET : Fld := ⟨47, 24⟩
@[reducible] def ARC_IMG_CMD_BUSY : Fld := ⟨8, 8⟩
@[reducible] def ARC_IMG_CMD_SLOT : Fld := ⟨7, 4⟩
@[reducible] def ARC_IMG_CMD_OP : Fld := ⟨2, 0⟩
end F

/-- An index `i` with `i < n` such that `a = base + i * stride`, if there is one. -/
def idxOf (a base stride n : Nat) : Option Nat :=
  if base ≤ a ∧ (a - base) % stride = 0 ∧ (a - base) / stride < n then some ((a - base) / stride) else none

/-- Two nested indices: `a = base + i * s1 + j * s2` with `i < n1`, `j < n2`. -/
def idxOf2 (a base s1 n1 s2 n2 : Nat) : Option (Nat × Nat) :=
  if base ≤ a ∧ (a - base) / s1 < n1 ∧ (a - base) % s1 % s2 = 0 ∧ (a - base) % s1 / s2 < n2 then
    some ((a - base) / s1, (a - base) % s1 / s2)
  else none

/-- `FLT_LANE[d][r][g][k]` at an address (R450), with groups 1 to 7. -/
def fltLaneOf (a : Nat) : Option Reg :=
  match idxOf2 a 0xF00009020000 0x800 16 8 256 with
  | some (d, x) =>
    let r := x / 128; let g := x % 128 / 8; let k := x % 8
    if g < 7 ∧ k < 5 then some (.FLT_LANE d r (g + 1) k) else none
  | none => none

/-- The first answer of a list of decoders. -/
def firstSome {α : Type} : List (Option α) → Option α
  | [] => none
  | some x :: _ => some x
  | none :: t => firstSome t

/-- A register without index at address `b`. -/
def at0 (a b : Nat) (r : Reg) : Option Reg := if a = b then some r else none

/-- A register of one index. -/
def at1 (a base stride n : Nat) (f : Nat → Reg) : Option Reg :=
  match idxOf a base stride n with
  | some i => some (f i)
  | none => none

/-- A register of two indices. -/
def at2 (a base s1 n1 s2 n2 : Nat) (f : Nat → Nat → Reg) : Option Reg :=
  match idxOf2 a base s1 n1 s2 n2 with
  | some x => some (f x.1 x.2)
  | none => none

/-- The registers of the folio block at 0xF00000000000 (R16). -/
def folioRegAt (a : Nat) : Option Reg :=
  firstSome [
    at0 a 0xF00000000000 .FOL_STATE,
    at0 a 0xF00000000008 .FOL_STATUS,
    at0 a 0xF00000000010 .FOL_SERIAL,
    at1 a 0xF00000000018 0x8 6 .FOL_DIGEST,
    at1 a 0xF00000000048 0x8 6 .FOL_DIGEST_ADD,
    at0 a 0xF00000000078 .FOL_ADD_SEQ,
    at0 a 0xF00000000080 .FOL_ADD_ADDR,
    at0 a 0xF00000000088 .FOL_ADD_LEN,
    at0 a 0xF00000000090 .FOL_ADD_CMD,
    at0 a 0xF00000000098 .FOL_ADD_STATE,
    at0 a 0xF000000000A0 .FOL_ERR,
    at0 a 0xF000000000A8 .FOL_LEAVES]

/-- The registers of the fabric block at 0xF00001000000 (R16). -/
def fabricRegAt (a : Nat) : Option Reg :=
  firstSome [
    at2 a 0xF00001000000 0x2000 64 0x8 128 .FAB_DEAL,
    at1 a 0xF00001000400 0x2000 64 .FAB_BURST,
    at2 a 0xF00001000800 0x2000 64 0x8 128 .FAB_PRIO,
    at2 a 0xF00001080000 0x2000 64 0x8 128 .FAB_DEAL_ACT,
    at1 a 0xF00001080400 0x2000 64 .FAB_BURST_ACT,
    at2 a 0xF00001080800 0x2000 64 0x8 128 .FAB_PRIO_ACT,
    at0 a 0xF00001100000 .FAB_COMMIT,
    at0 a 0xF00001100008 .FAB_COMMIT_PEND,
    at0 a 0xF00001100010 .FAB_COMMIT_REFUSED,
    at0 a 0xF00001100018 .FAB_BAD_WRITE,
    at0 a 0xF00001100020 .FAB_ROUND,
    at2 a 0xF00001101000 0x40 64 0x8 2 .FAB_CUTOFF,
    at1 a 0xF00001101010 0x40 64 .FAB_PREEMPTS,
    at1 a 0xF00001101018 0x40 64 .FAB_DEAD,
    at1 a 0xF00001101020 0x40 64 .FAB_PT_ROUND,
    at1 a 0xF00001110000 0x40 64 .FAB_HAND,
    at2 a 0xF00001110008 0x40 64 0x8 6 .FAB_HAND_CORES]

/-- The registers of the home block at 0xF00002000000 (R16). -/
def homeRegAt (a : Nat) : Option Reg :=
  firstSome [
    at1 a 0xF00002000000 0x8 4 .HOME_SLICE_MASK,
    at0 a 0xF00002000020 .HOME_CFG,
    at0 a 0xF00002000028 .HOME_DIE_MASK,
    at0 a 0xF00002000030 .HOME_SCRUB,
    at0 a 0xF00002000040 .HOME_PROBE_ADDR,
    at0 a 0xF00002000048 .HOME_PROBE_W0,
    at0 a 0xF00002000050 .HOME_PROBE_W1,
    at1 a 0xF00002010000 0x100 16 .HOME_ERR,
    at1 a 0xF00002010008 0x100 16 .HOME_OCC,
    at1 a 0xF00002010010 0x100 16 .HOME_STALE,
    at1 a 0xF00002010018 0x100 16 .HOME_BINV,
    at1 a 0xF00002010020 0x100 16 .HOME_POISONED,
    at1 a 0xF00002010028 0x100 16 .HOME_INJECT]

/-- The registers of the channel block at 0xF00003000000 (R16). -/
def channelRegAt (a : Nat) : Option Reg :=
  firstSome [
    at1 a 0xF00003000000 0x100000 16 .MC_CFG,
    at2 a 0xF00003000008 0x100000 16 0x8 4 .MC_CH_MASK,
    at2 a 0xF00003000028 0x100000 16 0x8 6 .MC_MASK,
    at1 a 0xF00003000058 0x100000 16 .MC_TIMING,
    at2 a 0xF00003000060 0x100000 16 0x8 2 .MC_DIMM,
    at2 a 0xF00003000070 0x100000 16 0x8 8 .MC_LAT_TARGET,
    at1 a 0xF000030000B0 0x100000 16 .MC_ACT,
    at1 a 0xF000030000B8 0x100000 16 .MC_REFRESH,
    at2 a 0xF00003000100 0x100000 16 0x8 8 .MC_RANK,
    at1 a 0xF00003000140 0x100000 16 .MC_RANK_CMD,
    at1 a 0xF00003000148 0x100000 16 .MC_MIGRATE,
    at1 a 0xF00003000150 0x100000 16 .MC_ERR,
    at1 a 0xF00003000158 0x100000 16 .MC_ERR_ADDR,
    at1 a 0xF00003000160 0x100000 16 .MC_INJECT]

/-- The registers of the port block at 0xF00004000000 (R16). -/
def portRegAt (a : Nat) : Option Reg :=
  firstSome [
    at2 a 0xF00004000000 0x1000 8 0x20 16 .HP_WIN_APT,
    at2 a 0xF00004000008 0x1000 8 0x20 16 .HP_WIN_SIZE,
    at2 a 0xF00004000010 0x1000 8 0x20 16 .HP_WIN_TARGET,
    at2 a 0xF00004000018 0x1000 8 0x20 16 .HP_WIN_ATTR,
    at2 a 0xF00004080000 0x1000 8 0x20 16 .HP_WIN_APT_ACT,
    at2 a 0xF00004080008 0x1000 8 0x20 16 .HP_WIN_SIZE_ACT,
    at2 a 0xF00004080010 0x1000 8 0x20 16 .HP_WIN_TARGET_ACT,
    at2 a 0xF00004080018 0x1000 8 0x20 16 .HP_WIN_ATTR_ACT,
    at1 a 0xF00004100000 0x1000 8 .HP_CFG,
    at1 a 0xF00004100008 0x1000 8 .HP_LINK,
    at1 a 0xF00004100010 0x1000 8 .HP_TAGS,
    at1 a 0xF00004100018 0x1000 8 .HP_WIN_COMMIT,
    at1 a 0xF00004100020 0x1000 8 .HP_ERR,
    at1 a 0xF00004100028 0x1000 8 .HP_LTR,
    at1 a 0xF00004100030 0x1000 8 .HP_INJECT,
    at1 a 0xF00004200000 0x10 4104 .HP_FN_STATE,
    at1 a 0xF00004200008 0x10 4104 .HP_FN_ERR]

/-- The registers of the slip block at 0xF00005000000 (R16). -/
def slipRegAt (a : Nat) : Option Reg :=
  firstSome [
    at1 a 0xF00005000000 0x100 8 .CSQ_SS_BUF,
    at1 a 0xF00005000008 0x100 8 .CSQ_SS_STATE,
    at1 a 0xF00005000010 0x100 8 .CSQ_SS_DONE,
    at2 a 0xF00005000040 0x100 8 0x8 8 .CSQ_SS_SLIP,
    at1 a 0xF00005010000 0x8 4104 .CSQ_FN_STAT,
    at0 a 0xF00005020000 .CSQ_INJECT,
    at1 a 0xF00005F00000 0x40 64 .CSQ_LDG_EPOCH,
    at1 a 0xF00005F00008 0x40 64 .CSQ_LDG_PHASE,
    at1 a 0xF00005F00010 0x40 64 .CSQ_LDG_INTAKES,
    at1 a 0xF00005F00018 0x40 64 .CSQ_LDG_LASTFAIL,
    at1 a 0xF00005F00020 0x40 64 .CSQ_LDG_WAITS,
    at1 a 0xF00005F00028 0x40 64 .CSQ_LDG_ERR]

/-- The registers of the tally block at 0xF00006000000 (R16). -/
def tallyRegAt (a : Nat) : Option Reg :=
  firstSome [
    at1 a 0xF00006000000 0x8 8192 .TIC_ROUTE,
    at1 a 0xF00006080000 0x8 8192 .TIC_ROUTE_ACT,
    at1 a 0xF00006100000 0x8 128 .TIC_EN_SET,
    at1 a 0xF00006100400 0x8 128 .TIC_EN_CLR,
    at1 a 0xF00006100800 0x8 128 .TIC_PEND_SET,
    at1 a 0xF00006100C00 0x8 128 .TIC_PEND_CLR,
    at1 a 0xF00006101000 0x8 128 .TIC_SAT,
    at1 a 0xF00006110000 0x8 1024 .TIC_TALLY,
    at1 a 0xF00006200000 0x100 384 .TIC_CLAIM,
    at1 a 0xF00006200008 0x100 384 .TIC_EOI,
    at1 a 0xF00006200010 0x100 384 .TIC_CORE_CFG,
    at1 a 0xF00006200018 0x100 384 .TIC_CORE_STATE,
    at2 a 0xF00006200040 0x100 384 0x8 8 .TIC_STACK,
    at0 a 0xF00006300000 .TIC_ERR]

/-- The registers of the archivist block at 0xF00007000000 (R16). -/
def archivistRegAt (a : Nat) : Option Reg :=
  firstSome [
    at1 a 0xF00007000000 0x100 64 .ARC_CTL,
    at1 a 0xF00007000008 0x100 64 .ARC_RESULT,
    at2 a 0xF00007000000 0x100 64 0x8 32 .ARC_DATA,
    at1 a 0xF00007004000 0x8 64 .ARC_OWNER,
    at0 a 0xF00007005000 .ARC_STATUS,
    at0 a 0xF00007005008 .ARC_BOOT,
    at0 a 0xF00007005010 .ARC_VAULT,
    at0 a 0xF00007005018 .ARC_HOLD,
    at0 a 0xF00007005020 .ARC_HOLD_ACK,
    at0 a 0xF00007005028 .ARC_PREEMPT,
    at0 a 0xF00007005030 .ARC_ERR,
    at0 a 0xF00007005038 .ARC_DENIED,
    at0 a 0xF00007005040 .ARC_INJECT]

/-- The registers of the power block at 0xF00008000000 (R16). -/
def powerRegAt (a : Nat) : Option Reg :=
  firstSome [
    at0 a 0xF00008000000 .SCK_PKG,
    at0 a 0xF00008000008 .SCK_LIMIT,
    at0 a 0xF00008000010 .SCK_COOLANT,
    at0 a 0xF00008000018 .SCK_ENERGY,
    at0 a 0xF00008000020 .SCK_HEAT,
    at0 a 0xF00008000028 .SCK_IOD_STATE,
    at0 a 0xF00008000030 .SCK_ERR,
    at0 a 0xF00008000038 .SCK_INJECT,
    at1 a 0xF00008000040 0x8 4 .SCK_SUIT,
    at1 a 0xF00008000100 0x8 8 .SCK_VOTE,
    at1 a 0xF00008000200 0x10 16 .SCK_DIE,
    at1 a 0xF00008000208 0x10 16 .SCK_DIE_TEL]

/-- The registers of the fault block at 0xF00009000000 (R16). -/
def faultRegAt (a : Nat) : Option Reg :=
  firstSome [
    at0 a 0xF00009000000 .FLT_STATUS,
    at0 a 0xF00009000008 .FLT_HEAD,
    at0 a 0xF00009000010 .FLT_TAIL,
    at1 a 0xF00009000100 0x8 32 .FLT_CLASS_CNT,
    at1 a 0xF00009000400 0x8 16 .FLT_DIE,
    at0 a 0xF00009000480 .FLT_DIE_CMD,
    at0 a 0xF00009000500 .FLT_INJECT,
    at0 a 0xF00009000508 .FLT_INJECT_ADDR,
    at2 a 0xF00009010000 0x20 256 0x8 4 .FLT_REC,
    fltLaneOf a]

/-- The registers of the counter block at 0xF0000A000000 (R16). -/
def counterRegAt (a : Nat) : Option Reg :=
  firstSome [
    at2 a 0xF0000A000000 0x100 384 0x8 32 .CTR_CORE,
    at1 a 0xF0000A020000 0x8 384 .CTR_CORE_OVF,
    at2 a 0xF0000A030000 0x20 384 0x8 4 .CTR_CORE_SEL,
    at2 a 0xF0000A100000 0x100 57 0x8 8 .CTR_BLK,
    at1 a 0xF0000A100040 0x100 57 .CTR_BLK_SEL,
    at1 a 0xF0000A100048 0x100 57 .CTR_BLK_OVF]

/-- The registers of the die block at 0xF00010000000 (R16). -/
def dieRegAt (a : Nat) : Option Reg :=
  firstSome [
    at1 a 0xF00010000000 0x1000000 16 .DL_CAP_DIE,
    at1 a 0xF00010000008 0x1000000 16 .DL_FEAT_DIE,
    at1 a 0xF00010000010 0x1000000 16 .DL_FEAT_IOD,
    at1 a 0xF00010000018 0x1000000 16 .DL_FEAT_EFF,
    at1 a 0xF00010000020 0x1000000 16 .DL_STATUS,
    at1 a 0xF00010000028 0x1000000 16 .DL_ERR,
    at1 a 0xF00010000030 0x1000000 16 .DL_REPLAYS,
    at1 a 0xF00010000038 0x1000000 16 .DL_REPAIR_UP,
    at1 a 0xF00010000040 0x1000000 16 .DL_REPAIR_DN,
    at1 a 0xF00010000048 0x1000000 16 .DL_REPAIR_CFG,
    at1 a 0xF00010000050 0x1000000 16 .DL_REPAIR_CMD,
    at1 a 0xF00010000058 0x1000000 16 .DL_INJECT,
    at2 a 0xF00010000100 0x1000000 16 0x8 5 .DL_LANE_ERR_UP,
    at2 a 0xF00010100100 0x1000000 16 0x8 5 .DL_LANE_ERR_DN,
    at2 a 0xF00010200000 0x1000000 16 0x40 24 (fun d i => .CORE_CTL (d * 24 + i)),
    at2 a 0xF00010200008 0x1000000 16 0x40 24 (fun d i => .CORE_STATE (d * 24 + i)),
    at2 a 0xF00010200010 0x1000000 16 0x40 24 (fun d i => .CORE_MTIMECMP (d * 24 + i)),
    at2 a 0xF00010200018 0x1000000 16 0x40 24 (fun d i => .CORE_MSIP (d * 24 + i)),
    at1 a 0xF00010200800 0x1000000 16 .CORE_DIE_OP,
    at1 a 0xF00010200808 0x1000000 16 .CORE_MTIME,
    at1 a 0xF00010300000 0x1000000 16 .SHV_CMD,
    at1 a 0xF00010300008 0x1000000 16 .SHV_BASE,
    at1 a 0xF00010300010 0x1000000 16 .SHV_SIZE,
    at1 a 0xF00010300018 0x1000000 16 .SHV_STATUS,
    at1 a 0xF00010300020 0x1000000 16 .SHV_SKIPPED,
    at1 a 0xF00010300028 0x1000000 16 .SHV_WRITTEN,
    at1 a 0xF00010300030 0x1000000 16 .SHV_PROGRESS,
    at1 a 0xF00010300038 0x1000000 16 .SHV_LOCK_LOST,
    at2 a 0xF00010300040 0x1000000 16 0x8 2 .SHV_WAYMAP,
    at2 a 0xF00010300100 0x1000000 16 0x8 8 .SHV_QUOTA,
    at2 a 0xF00010300200 0x1000000 16 0x10 16 .SHV_LOCK_BASE,
    at2 a 0xF00010300208 0x1000000 16 0x10 16 .SHV_LOCK_SIZE]

/-- The control-space register at an address, or none where the offset is reserved (R12, R16). -/
def Reg.ofAddr (a : Nat) : Option Reg :=
  if a < 0xF00000000000 ∨ 0xF00020000000 ≤ a then none
  else if a < 0xF00001000000 then folioRegAt a
  else if a < 0xF00002000000 then fabricRegAt a
  else if a < 0xF00003000000 then homeRegAt a
  else if a < 0xF00004000000 then channelRegAt a
  else if a < 0xF00005000000 then portRegAt a
  else if a < 0xF00006000000 then slipRegAt a
  else if a < 0xF00007000000 then tallyRegAt a
  else if a < 0xF00008000000 then archivistRegAt a
  else if a < 0xF00009000000 then powerRegAt a
  else if a < 0xF0000A000000 then faultRegAt a
  else if a < 0xF0000B000000 then counterRegAt a
  else dieRegAt a

end Sys2Proof.Machine
end

