-- ==== Sys2Proof/Machine/State.lean ====
section
/-! DEFINITION. The state of the package as plain data: the registers under their control-space addresses, and behind
them every buffer, queue, table and engine the spec gives the block. Registers are the home of what a register shows;
a structure holds only what no register holds. -/

namespace Sys2Proof.Machine

/-- A sparse table by number, sorted by key without repeats. -/
abbrev NMap (α : Type) := List (Nat × α)

namespace NMap

/-- The value at a key. -/
def get? {α : Type} : NMap α → Nat → Option α
  | [], _ => none
  | (k, v) :: t, n => if n = k then some v else get? t n

/-- The value at a key, or a default. -/
def getD {α : Type} (m : NMap α) (n : Nat) (d : α) : α :=
  match m.get? n with
  | some v => v
  | none => d

/-- The table with a value put at a key. -/
def set {α : Type} : NMap α → Nat → α → NMap α
  | [], n, v => [(n, v)]
  | (k, w) :: t, n, v =>
    if n < k then (n, v) :: (k, w) :: t else if n = k then (n, v) :: t else (k, w) :: set t n v

/-- The table without a key. -/
def erase {α : Type} (m : NMap α) (n : Nat) : NMap α := m.filter (fun e => e.1 != n)

end NMap

/-! ### Die links (R22 to R41) -/

/-- A fabric management message of R482: the shadow words it carries, by register key; none of them for COMMIT. -/
abbrev MgmtMsg := List (Nat × Word)

/-- A parcel held in a replay buffer with its sequence number (R30), or in a receiver's FIFO (R24). The spec gives fabric
management messages no encoding, so they stand beside the bits, where their slots read empty (DESIGN CHOICE, log entry 84). -/
structure SentParcel where
  seq  : Nat
  bits : BitVec 1024
  mgmt : List MgmtMsg
  deriving DecidableEq, Repr

/-- An idle parcel (R23). -/
def SentParcel.idle : SentParcel := ⟨0, 0, []⟩

/-- One direction of a die link: its sender and its receiver. -/
structure Link where
  nextSeq : Nat                  -- next sequence number to launch (R29)
  replay  : List SentParcel      -- parcels without GOOD, oldest first, at most 16 (R30)
  resend  : List Nat             -- sequence numbers still to be resent, in order (R31)
  sent    : Option (BitVec 8 × BitVec 1024) -- sequence byte and bits of the parcel launched last (R23, R29)
  expSeq  : Nat                  -- next sequence number the receiver expects (R32)
  rejects : Nat                  -- consecutive rejections of the expected parcel (R33)
  kept    : Option Parcel        -- bits of the rejected parcel (R36)
  status  : List Byte            -- status bytes on their way back (R30)
  fifo    : List SentParcel      -- the receiver's FIFO, oldest first, at most 8 (R24, R25)
  freg    : List SentParcel      -- what the last reception released into the receiver's fabric register (R34)
  remap   : Option (Nat × Nat)   -- remap running: group and lane code (R38)
  rises   : List (Nat × Nat × Nat) -- rises of lane counts within the counting window: group, position, cycle (R37)
  deriving DecidableEq, Repr

/-! ### Fabric (R89 to R116) -/

/-- A message ready at an arbitration point: its requester, and the cycle in which it arrived there (R99, R285). -/
structure Ready where
  q   : Nat
  msg : Msg
  at_ : Nat
  deriving DecidableEq, Repr

/-- An arbitration point. The points of the IOD clock, 0x10 to 0x2F, take their trick and round from State.cycle (R95). -/
structure Point where
  trick   : Nat                       -- next trick to decide, at up directions and channels
  round   : Nat                       -- the rounds of an up direction or a channel (FAB_PT_ROUND)
  next    : Nat                       -- at a point of the IOD clock: the cycle after that of the trick decided last
  ready   : List Ready                -- messages ready, in order of arrival
  holder  : Option Nat                -- requester with a fallback grant (R99)
  burst   : Nat                       -- tricks sent under the grant (R103)
  last    : Option Nat                -- requester of the last fallback grant (R101)
  owners  : NMap (Option Nat)         -- owner of each class D transfer in progress, by requester: hand of its last message, or open (R113)
  winner  : Option Ready              -- message of the trick decided last
  commit  : Option (Nat × Nat)        -- round and trick in which COMMIT arrived (R108)
  mgmt    : List MgmtMsg              -- management messages still to send (R482), at up points
  rcvd    : NMap Word                 -- shadow words the compute die has received (R482), at up points
  commitIn : Bool                     -- the COMMIT message is in the die's receiver (R482), at up points
  staging : NMap (List Msg)           -- unfinished class D transfers by requester (R97), at home slices
  lostWord : List Nat                 -- active deal words lost (R447): their tricks are open
  reload  : Nat                       -- round at whose boundary a reloaded word switches (R447)
  deriving DecidableEq, Repr

/-! ### Coherence (R204 to R238) -/

/-- A directory entry (R207). `e0` and `e1` are the inverted bits of its two stored words (R237). -/
structure DirEnt where
  line : Nat
  st   : Nat              -- 0 I, 1 S, 2 E, 3 M
  pres : Nat              -- PRESENCE, bit d
  own  : Nat
  gen  : Nat
  e0   : List Nat
  e1   : List Nat
  deriving DecidableEq, Repr

/-- An eviction staging entry and the dies whose answers it awaits (R229). -/
structure StageEnt where
  ent   : DirEnt
  await : List Nat
  data  : Option (LineData × Bool)
  hand  : Nat
  deriving DecidableEq, Repr

/-- An open transaction of a home slice (R214). -/
structure Txn where
  req    : Msg
  secure : Bool
  pres   : Nat                        -- dies that keep the line after the snoops
  await  : List Nat                   -- dies whose snoop answers are due
  data   : Option (LineData × Bool)   -- snoop data and its poison
  shared : Bool                       -- the owner answered that it keeps the line in S
  lost   : Bool                       -- the owner was lost: the line is poisoned (R234)
  reading : Bool                      -- a memory read is out
  snooped : Bool                      -- the owner of E or M was snooped
  old     : Bool                      -- it was open at the declaration for which the slice suspends (R233)
  deriving DecidableEq, Repr

/-- A home slice. -/
structure Slice where
  dir      : NMap DirEnt              -- by set × 12 + way (R205)
  staged   : List StageEnt            -- at most 8 (R229)
  txns     : List Txn
  lineWait : List Msg                 -- R226
  setWait  : List Msg                 -- R228
  wbWait   : List Msg                 -- WB-class messages waiting (R221)
  suspend  : Bool                     -- pipeline entry suspended (R233)
  held     : List Msg                 -- arrivals that wait out the suspension (R233)
  scrub    : Nat                      -- next scrub visit (R236)
  recover  : List (Nat × Nat × List Nat) -- lines re-snooped after a directory error, the hand that touched each, and the
                                         -- dies whose answers are due (R237)
  deriving DecidableEq, Repr

/-! ### Caches of a compute die (R177 to R203, R211 to R227) -/

/-- An L3 line and its tag (R212, R187). -/
structure L3Line where
  line   : Nat
  way    : Nat
  st     : Nat              -- 0 I, 1 S, 2 E, 3 M
  valid  : Nat              -- core-valid bits
  gen    : Nat
  hand   : Nat
  data   : LineData
  poison : Bool
  deriving DecidableEq, Repr

/-- A write-back buffer entry (R220). -/
structure WbEnt where
  msg      : Msg
  answered : Bool
  deriving DecidableEq, Repr

/-- A miss-table entry of a die: the request sent, the cores that wait and what each needs (R219). -/
structure Miss where
  line   : Nat
  op     : Opc
  core   : Nat
  hand   : Nat
  cancel : Bool             -- covered by a Shelver start (R198)
  sent   : Bool             -- the request has left (it waits while the write-back buffer holds the line, R220)
  chunk  : Nat              -- critical chunk of the access that missed (R183)
  snoops : List Msg         -- snoops that wait for the fill (R224)
  deriving DecidableEq, Repr

/-- The Shelver operation that runs (R193). -/
structure ShvOp where
  op     : Nat              -- 1 CLEAN, 2 INVALIDATE, 3 CLEAN_INV
  byHand : Bool
  hand   : Nat
  force  : Bool
  base   : Nat
  size   : Nat
  own    : Bool             -- the command was written by a core of the operation's hand (R196)
  waits  : List Nat         -- lines whose acknowledgement is due (R200)
  deriving DecidableEq, Repr

/-- A compute die: its L3, buffers and Shelver, and its power details. -/
structure Die where
  l3      : List L3Line
  wb      : List WbEnt
  misses  : List Miss
  remaps  : List (Dir × Nat × Nat) -- lane remaps of the die's link that wait for the one that runs: group and lane code (R39)
  retry   : List Msg        -- fills whose allocation waits (R188)
  partials : List Msg       -- WR_PARTIAL outstanding (R216)
  ops     : List Msg        -- CBO and NC requests outstanding
  snoopWait : List Msg      -- snoops that a deferral holds back (R231)
  shv     : Option ShvOp
  credits : NMap Nat        -- messages out against a credit, by slice, class and hand (R219)
  vsel    : Nat             -- voltage code on CD_VSEL (R470)
  settling : Bool           -- the rail has not reported CD_PG since it was switched on or changed (R470)
  wake    : Option Nat      -- wake-ladder step in progress: 0 to 4, 5 to 8 the core groups, 9 the ramp, 10 the report (R418)
  telAt   : Nat             -- mtime of the last telemetry record (R409)
  telLost : Bool            -- that record is too old (R410)
  riseAt  : Nat             -- mtime of the last rise by a point, plus one; zero before the first (R422)
  capOld  : Option (Word × Word)  -- DL_FEAT_EFF and CORE_GOOD before a stop (R47)
  rejoin  : Nat             -- step of R441 under way, 0 none
  auto    : Bool            -- the rejoin under way is automatic (R441)
  since   : Nat             -- mtime of the last entry into service after an automatic rejoin
  deriving DecidableEq, Repr

/-! ### Cores (R117 to R176) -/

/-- A TLB entry (R154 to R156). `size` is 12, 16, 21 or 30; `perm` has R, W, X, U in bits 0 to 3. -/
structure TlbEnt where
  regime : Nat              -- 0 S, 1 VS, 2 G only
  vmid   : Nat
  asid   : Nat
  glob   : Bool
  size   : Nat
  vpn    : Nat              -- virtual address div 2^size
  ppn    : Nat              -- physical address div 2^size
  perm   : Nat
  pbmt   : Nat
  dirty  : Bool
  deriving DecidableEq, Repr

/-- A walk-cache entry: the next-level table of a virtual-address prefix (R153). Regime 3 is the G stage. -/
structure WalkEnt where
  regime : Nat
  vmid   : Nat
  asid   : Nat
  glob   : Bool
  shift  : Nat
  tag    : Nat
  table  : Nat
  deriving DecidableEq, Repr

/-- A merging-buffer or ledger-buffer entry (R179, R242). -/
structure MbEnt where
  line     : Nat
  data     : LineData
  mask     : Word
  nc       : Bool
  draining : Bool
  poison   : Bool
  deriving DecidableEq, Repr

/-- An L2 line (R211). -/
structure L2Line where
  line   : Nat
  st     : Nat              -- 1 S, 2 E, 3 M
  data   : LineData
  poison : Bool
  deriving DecidableEq, Repr

/-- What a core does when the line that it waits for arrives. `pieces` are the physical addresses and lengths of a load,
one for each page it touches; `len` is the length of the instruction; `nc` is none for a cacheable load, otherwise the
value and the bytes gathered so far. `cell` is a cell of SPK.LD. -/
inductive Waiter
  | load (rd : DataReg) (va : Word) (pieces : List (Nat × Nat)) (signed : Bool) (len : Nat) (nc : Option (Nat × Nat))
  | store
  | amo (op : AmoOp) (va : Word) (pa : Nat)
  | lr (op : AmoOp) (va : Word) (pa : Nat)
  | sc (op : AmoOp) (va : Word) (pa : Nat)
  | zero
  | cbo
  | prefetch
  | cell (nc : Bool)
  deriving DecidableEq, Repr

/-- A wait with the line it waits for. -/
structure WaitEnt where
  line : Nat
  who  : Waiter
  deriving DecidableEq, Repr

/-- An intake mailbox entry (R147). -/
structure MailEnt where
  seq    : Nat
  dest   : Nat
  len    : Nat
  status : Nat
  deriving DecidableEq, Repr

/-- An instruction that ended the quantum and is performed at the core's publication point or the boundary. -/
inductive LedgerOp
  | amo (op : AmoOp) (va : Word) (pa : Nat)
  | lr (op : AmoOp) (va : Word) (pa : Nat)
  | sc (op : AmoOp) (va : Word) (pa : Nat)
  deriving DecidableEq, Repr

/-- A core and its hart. CSRs stand in the registers under `Reg.CSR`. -/
structure Core where
  pc      : Word
  priv    : BitVec 2                  -- 3 M, 1 S, 0 U
  virt    : Bool
  x       : NMap Word
  f       : NMap Word
  v       : NMap LineData             -- VLEN 512 (R120)
  sacc    : NMap Word                 -- 64 lanes (R140)
  itlb    : List TlbEnt
  dtlb    : List TlbEnt
  l2tlb   : List TlbEnt
  walks   : List WalkEnt
  gwalks  : List WalkEnt
  l1i     : List Nat                  -- lines present
  l1d     : NMap LineData
  l2      : List L2Line
  mb      : List MbEnt                -- merging buffer, oldest first, at most 16
  waits   : List WaitEnt              -- misses of this core
  stores  : List MbEnt                -- stores that wait for a merging-buffer entry (R179)
  resv    : Option (Nat × Nat)        -- reservation: address and bytes (R231)
  defer   : Option Nat                -- line whose snoops the L2 defers (R231)
  asleep  : Bool                      -- waiting in WFI
  sinval  : Bool                      -- SINVAL-class instructions since the last SFENCE.INVAL.IR (R167)
  level   : Nat                       -- issue level granted (R425)
  ncCell  : Option (Nat × LineData × Bool) -- a line that an NC cell asked for: line number, data, poison
  seip    : Bool                      -- mip.SEIP as software wrote it
  -- ledger mode
  count   : Nat                       -- instructions retired in this quantum
  ended   : Bool                      -- the quantum has ended
  endCode : Nat                       -- END (R144)
  lbuf    : List MbEnt                -- ledger buffer, at most 512 lines (R242)
  held    : List MbEnt                -- stores that wait for the next quantum (R242, R245)
  mail    : List MailEnt              -- intake mailbox, at most 64 (R147)
  skip    : Option Nat                -- epoch a JL.SKIP waits for (R146)
  later   : Option LedgerOp           -- instruction performed at the publication point
  lateErr : Option (Word × Nat)       -- poisoned atomic of the publication point: its address and line (R247)
  rank    : Nat                       -- position in the token order (R240)
  published : Bool
  deriving DecidableEq, Repr

/-! ### Memory channels (R264 to R292) -/

/-- A queued read (R270). `raw` is the line as it stood when its burst was issued: data, checks, backing word. -/
structure MemRd where
  q     : Nat
  hand  : Nat
  line  : Nat
  seq   : Nat
  at_   : Nat                 -- IOD fabric cycle of its entry into the queue (R285)
  own   : Bool                -- it holds an entry reserved to its hand, not a shared one (R270)
  raw   : Option (BitVec 640)
  rank  : Nat                 -- logical rank it was issued to
  again : Bool                -- it is to be reissued after ALERT_N (R287)
  deriving DecidableEq, Repr

/-- A queued write (R270). -/
structure MemWr where
  q       : Nat
  hand    : Nat
  line    : Nat
  seq     : Nat
  at_     : Nat
  own     : Bool              -- it holds an entry reserved to its hand
  data    : LineData
  backing : Nat               -- POISON, CAUSE, HAND and NOHAND of the backing word (R210)
  fix     : Bool              -- a correction write (R277)
  flip    : Bool              -- bits 0 and 1 of the backing word inverted by HOME_INJECT (R238)
  deriving DecidableEq, Repr

/-- A request that waits at its home slice for an entry of the channel's queue (R270). -/
inductive MemReq
  | read (q hand line : Nat)
  | write (w : MemWr)
  deriving DecidableEq, Repr

/-- What a command to a DIMM does: the read of a request, a write with the line key and what it stores, a same-bank refresh,
or an activation alone (of neighbour refresh, or a read of copy or test). -/
inductive MemOp
  | read (seq : Nat)
  | write (key : Nat) (raw : BitVec 640)
  | refresh (bank : Nat)
  | activate
  deriving DecidableEq, Repr

/-- A command issued to a DIMM in one of the last 64 tricks (R287): DIMM slot, subchannel, rank, the row that it activates
and whether that counts as a request's activation, and the line it is for. -/
structure MemCmd where
  slot : Nat
  sc   : Nat
  rank : Nat
  row  : Nat
  req  : Bool
  line : Nat
  op   : MemOp
  deriving DecidableEq, Repr

/-- A DIMM whose ALERT_N has been signalled (R287): the commands still to re-issue, the one re-issued last, and the one on
which ALERT_N recurred. -/
structure MemRetry where
  redo  : List MemCmd
  last  : Option MemCmd
  recur : Option MemCmd
  deriving DecidableEq, Repr

/-- A rank test (R290): the rank, its steps so far, its state before, whether a line read back other than written. -/
structure RankTest where
  rank  : Nat
  step  : Nat
  prior : Nat
  bad   : Bool
  deriving DecidableEq, Repr

/-- A memory channel. -/
structure Chan where
  reads   : List MemRd
  writes  : List MemWr
  seq     : Nat
  act     : List (Nat × Nat)          -- activation table: row key and count, in entry order (R283)
  neigh   : List (Nat × List Nat)     -- neighbour-refresh queue: row key and rows still to activate (R284)
  waitQ   : List MemReq               -- requests without an entry, in the order sent (R270)
  claims  : List Nat                  -- bank claims: requests in order of claim (R303)
  busy    : NMap Nat                  -- banks activated or refreshed: clock at which each is free again (R271, R282)
  due     : List (Nat × Nat × Nat)    -- REFsb due: subchannel, rank, bank index (R282)
  nextRef : NMap Nat                  -- bank index of the next REFsb, by 2 × rank + subchannel (R282)
  lastRef : NMap Nat                  -- clock of the last REFsb, by 4 × (2 × rank + subchannel) + bank index (R304)
  hist    : List MemCmd               -- last commands, newest first
  switch_ : Option (Nat × Bool)       -- switch-over: rank, and whether it is a return (R288, R290)
  retry   : NMap MemRetry             -- DIMMs whose issue is held, by slot (R287)
  test    : Option RankTest           -- rank under test (R290)
  blank   : List Nat                  -- ranks whose unwritten lines are poisoned zeros after a test (R290)
  retire  : List Nat                  -- ranks to retire (R286)
  tras    : Nat                       -- tRAS of the trained DIMMs, in ps (R304)
  deriving DecidableEq, Repr

/-! ### Host ports and call slips (R315 to R372) -/

/-- Something the package sends outward: a posted write, a completion, a message, an interrupt or an in-band notice. -/
inductive Outward
  | write (p : Fin 8) (fn : FnId) (addr : Nat) (bytes : List Byte) (ep : Bool)
  | read (p : Fin 8) (fn : FnId) (tag addr len : Nat)
  | completion (p : Fin 8) (fn : Nat) (st : CplStatus) (bytes : List Byte)
  | msix (p : Fin 8) (fn : FnId) (vector : Nat)
  | ltr (p : Fin 8) (snoop noSnoop : BitVec 16)    -- latency fields of an LTR message (R325)
  | intx (p : Fin 8) (level : Bool)
  | error (p : Fin 8) (fn sev : Nat)    -- ERR_COR, ERR_NONFATAL or ERR_FATAL of a function number (R340)
  | ibi (byte : Nat)
  | i3c (bytes : List Byte)
  | nack
  | tdo (w : List Bool)
  | flash (octal : Bool) (mhz : Nat)    -- the boot-flash port begins reading in this mode (R472)
  deriving DecidableEq, Repr

/-- What an outstanding DMA read is for: the slips of a queue, the bytes of a COPY_IN from an offset on, or those of an
intake. -/
inductive ReadFor
  | slips (q : Nat)
  | copyIn (q : Nat) (seq : Nat) (off : Nat)
  | intake (h : Nat) (id : Nat) (off : Nat)
  | dropped
  deriving DecidableEq, Repr

/-- An outstanding DMA read of a port (R327); `got` counts the bytes that have arrived. -/
structure OutRead where
  tag  : Nat
  fn   : FnId
  addr : Nat
  len  : Nat
  got  : List Byte
  use  : ReadFor
  at_  : Nat             -- mtime of its issue
  deriving DecidableEq, Repr

/-- A line of a slip in its engine: its bytes, which of them have arrived, and poison. -/
structure SlipLine where
  data   : LineData
  mask   : Word
  poison : Bool
  deriving DecidableEq, Repr

/-- A slip that was accepted and has not ended (R350). `asked` counts the bytes whose host reads or package reads have been
issued, or, for a COPY_OUT, those whose host writes have left; `sent` and `entered` are the line numbers that left for
their slices, and that entered them. -/
structure Slip where
  seq     : Nat
  bits    : LineData
  started : Bool
  asked   : Nat
  lines   : NMap SlipLine
  sent    : List Nat
  entered : List Nat
  status  : Nat                  -- HOST_POISON once found; zero before
  waits   : List (Nat × Nat)     -- slips a FENCE waits for: queue and number (R355)
  index   : Nat                  -- ring index
  deriving DecidableEq, Repr

/-- A slip that has ended and whose return slip is due (R347). -/
structure RetSlip where
  bits   : LineData
  index  : Nat
  status : Nat
  result : Nat
  flags  : Nat
  seq    : Option Nat            -- its slip's number, where it was accepted
  after  : List (Nat × Nat)      -- slips that a FENCE waited for: their return slips go first (R355)
  deriving DecidableEq, Repr

/-- A queue pair (R343). STATE, IDLE, SQ_HEAD and CQ_TAIL stand in its QP_STATE. -/
structure Queue where
  fetched  : List LineData    -- slips fetched and not admitted
  fetching : Nat              -- slips asked for and not arrived
  running  : List Slip        -- accepted slips in order
  ended    : List RetSlip     -- return slips to post
  deferred : List (Nat × Nat) -- deferred reports, at most 8: TAG and status (R360)
  defLost  : Bool
  phase    : Bool
  seq      : Nat              -- slips accepted so far
  past     : NMap (LineData × Nat) -- COPY_IN slips that ended OK, by TAG, with their ring index (R361)
  froze    : Bool             -- disabled while FROZEN: DRAINING until BUSY clears (R367)
  deriving DecidableEq, Repr

/-- A PCI Express function. -/
structure Fn where
  cfg    : NMap Word          -- configuration-space dwords written so far (R319)
  msix   : NMap Word          -- MSI-X table dwords
  pba    : Nat                -- MSI-X pending bits
  slipLv : Nat                -- bucket levels, in parts of 2 × 10^9 (R351)
  byteLv : Nat
  lastAt : Nat                -- cycle of the last refill
  flr    : Bool               -- a reset of the function is under way (R336)
  oldCfg : NMap Word          -- the dwords by which the bus addressed the function when that reset began
  deriving DecidableEq, Repr

/-- A peer request in flight (R333). `due` are the lines whose entry (writes) or data (reads) is awaited. -/
structure Peer where
  id    : Nat
  write : Bool
  fn    : Nat
  addr  : Nat
  len   : Nat
  due   : List Nat
  lines : NMap (LineData × Bool)
  deriving DecidableEq, Repr

/-- A host port. -/
structure Port where
  reads    : List OutRead
  timedOut : List (Nat × FnId)   -- tags of reads that timed out, not used since, and their functions (R329)
  ltr      : Option Nat          -- tolerance in the LTR message sent last, ns (R325)
  ltrAt    : Nat                 -- cycle of that message
  l1       : Bool
  peers    : List Peer           -- peer requests in flight, oldest first (R333)
  nextPeer : Nat
  mailbox  : Option (FnId × Nat × Nat) -- function, queue and number of the SET_STATE slip in the mailbox (R365)
  txq      : List Outward        -- TLPs that wait for the exit from L1 or Recovery (R326, R339)
  winPend  : List Word           -- window set that a commit checked and that has not switched (R334)
  deriving DecidableEq, Repr

/-! ### Ledger hands (R239 to R263) -/

/-- An intake (R253 to R257). -/
structure Intake where
  id     : Nat                -- scheduled entries by position in the leaf, then POSTs in order of acceptance
  epoch  : Nat
  length : Nat
  dest   : Nat
  source : Nat
  port   : Nat
  fn     : Nat                -- 0xFFFF the PF of the port, otherwise the VF
  period : Option Nat         -- PERIOD of a scheduled entry, none for a POST
  posted : Option (FnId × Nat × Nat × Nat) -- function, queue, slip number and TAG of a POST
  state  : Nat                -- 0 waiting for its staging, 1 staging, 2 staged, 3 failed
  status : Nat                -- status of a failed POST
  asked  : Nat
  data   : NMap Byte          -- bytes arrived, by offset
  sent   : List Nat           -- lines of the block whose transfer has left for the slices (R328)
  due    : Bool               -- due at the epoch that the Deliver phase precedes (R254)
  seq    : Nat                -- SEQ taken
  deriving DecidableEq, Repr

/-- The ledger machinery of one hand. Phase and epoch stand in CSQ_LDG_ registers. -/
structure Ledger where
  token   : Nat               -- rank that holds the token
  seq     : Nat               -- last SEQ given since epoch 0 (R254)
  intakes : List Intake
  nextId  : Nat
  stop    : Bool              -- a STOP waits for the phase to end (R129)
  held    : Option Nat        -- cycle since which the Deliver phase is held for staging (R254)
  waits   : List Nat          -- lines of deliveries whose completion is awaited
  placed  : Bool              -- the deliveries of this phase have been sent
  next    : Nat               -- next_open of R256 while a stopped hand's cores are STOPPING
  deriving DecidableEq, Repr

/-! ### The Archivist, pins and test access -/

/-- A vault record (R399). -/
structure VaultRec where
  owner : Nat
  slot  : Nat
  data  : List Byte
  deriving DecidableEq, Repr

/-- What a service leaves in its carrel: STATUS, KEEP and its data words (R402). -/
structure SrvResult where
  status : Nat
  keep   : Nat
  words  : NMap Word
  deriving DecidableEq, Repr

/-- A call in SERVING: the lines it has read and those whose answer is due, whether its transfers have been sent, and its
result (R402, R403). `returned` says that RETURN has been written and the scrub runs. -/
structure Serving where
  lines    : NMap (LineData × Bool)
  due      : List Nat
  asked    : Bool
  refused  : Bool
  result   : Option SrvResult
  returned : Bool
  deriving DecidableEq, Repr

/-- The Archivist: fuses (R391), flash (R389) and what its firmware keeps (R388 to R408). -/
structure Arc where
  rootHash   : List (BitVec 384)     -- ROOT_HASH[0..3]
  rootRevoke : Nat
  fwHash     : List (BitVec 384)     -- FW_HASH[0..1]
  fwRevoke   : Nat
  floors     : List Nat              -- VALID entries of FLOOR, at most 8
  fwFloors   : List Nat              -- VALID entries of FW_FLOOR
  flash      : NMap (List Byte)      -- image slots: 0 and 1 firmware A and B, 2 and 3 folio A and B, 4 house supervisor
  vault      : List VaultRec
  version    : Word                  -- VERSION of the running firmware
  digest1    : BitVec 384            -- first digest of the selected folio slot (R74 step 6)
  bytes      : List Byte             -- folio in force
  addBytes   : List Byte             -- copied addendum image
  addFolio   : Option Folio          -- the folio before the addendum that is PENDING (R84)
  phase      : Nat                   -- step of boot that comes next: 1 firmware, 2 folio, 3 dies, 4 check, 5 DIMMs, 6 apply, 7 fill,
                                     -- 8 house image, 9 run; 10 after boot (R76)
  points     : Nat                   -- points of the addendum not yet switched
  affected   : Nat                   -- points that the addendum affects (R85)
  members    : List (Nat × Nat × Nat) -- core, new hand and its old hand, waiting for their switch point; 64 is none
  queuesPend : List QueueRec
  wmPend     : Option Nat            -- watermark waiting for its zeroing and its switch (R396)
  serving    : NMap Serving          -- by carrel, at most 4 (R403)
  zeroLeft   : Nat                   -- answers due of the zeroing of R396
  tamperLeft : Nat                   -- answers due of the zeroing of R406
  tampering  : Bool                  -- that zeroing runs
  trained    : Nat                   -- dies whose link was UP at the end of boot phase 2 (R74 step 4)
  imgBuf     : NMap Byte             -- ARC_IMG_BUF
  imgOp      : Option (Nat × Nat × Nat) -- image operation that runs: OP, SLOT, OFFSET
  deriving DecidableEq, Repr

/-- The boot-flash port (R472): not in use, reading 1S-1S-1S at 25 MHz, reading 8D-8D-8D at 200 MHz. -/
inductive FlashMode | idle | single | octal
  deriving DecidableEq, Repr

/-- Pins, the boot-flash port and the management port (R460 to R474). -/
structure Mgmt where
  straps  : BitVec 4
  addr    : Option (BitVec 7)      -- dynamic I3C address
  ptr     : Nat                    -- register pointer
  inReset : Bool                   -- the package is in package reset (R468)
  low     : Bool                   -- PKG_RESET_L has been low for 1 µs since that reset was entered
  main    : Bool                   -- MAIN_PWROK asserted
  clock   : Bool                   -- PKG_REFCLK running
  stby    : Bool                   -- STBY_PWROK asserted
  perst   : Nat                    -- HP_PERST_L asserted, by port
  since   : Nat                    -- cycle of the release of PKG_RESET_L
  afReset : Bool                   -- AF_RESET_L is low (R472)
  afMode  : FlashMode              -- how the boot-flash port reads
  deriving DecidableEq, Repr

/-- What the Scorekeeper holds beside its registers (R409 to R430, R404, R405). -/
structure Power where
  fabric    : Nat           -- state of the IOD fabric
  iodTrip   : Bool          -- an IOD sensor forces the package down (R420)
  inletTrip : Bool          -- the coolant inlet does
  lowerAt   : Nat           -- mtime of the last lowering by R421, plus one
  inletTo   : Nat           -- mtime until which SCK_INJECT.INLET acts
  telemDrop : Nat           -- telemetry records still to discard (SCK_INJECT.TELEM)
  preempt   : Option Nat    -- mtime of the last SECURE_PREEMPT (R405)
  deriving DecidableEq, Repr

/-- The test-access port (R476 to R478). -/
structure Tap where
  ir       : BitVec 8
  boundary : List Bool          -- the update cells, in shift order from TDI; a missing one is false
  deriving DecidableEq, Repr

/-! ### Memory contents -/

/-- DRAM cells: 80 cells a line (R275), listed only where they differ from the filled line. -/
abbrev Dram := List Host.Cell

/-- The package. -/
structure State where
  cycle   : Nat               -- IOD fabric cycles (0.5 ns) since the release of the package reset
  free    : Nat               -- MODEL's own: number of free values used so far
  regs    : NMap Word
  folio   : Folio             -- the folio in force
  links   : NMap Link         -- by 2 × die + (0 up, 1 down)
  points  : NMap Point
  slices  : NMap Slice
  dies    : NMap Die
  cores   : NMap Core
  chans   : NMap Chan
  ports   : NMap Port
  fns     : NMap Fn           -- by function key: VF v, or 0x1000 + p
  queues  : NMap Queue        -- by function key × 16 + queue
  ledgers : NMap Ledger
  dram    : Dram
  iod     : List Msg          -- answers on their way to IOD agents
  outbox  : NMap (List (Nat × List Msg)) -- class D transfers that wait, by requester 16 to 25: home slice and messages
  flips   : NMap (List Nat)   -- SRAM errors planted by FLT_INJECT: structure × 2^64 + unit × 2^52 + index, bits
  arc     : Arc
  mgmt    : Mgmt
  tap     : Tap
  power   : Power
  heat    : Nat               -- exported heat not yet a whole joule, in parts of 6 × 10^8 (R428)
  events  : NMap Nat          -- events counted, by unit (a core id, or 0x1000 + b) × 2^16 + event (R451, R454)
  out     : List Outward      -- what the package has sent outward, newest last
  pending : List Instr        -- the commands that wait, first in first out
  deriving DecidableEq, Repr

/-- Why the machine stops. No rule of the spec stops the package: the type is kept for the interface. -/
inductive Fault
  /-- Raised by nothing; safe. -/
  | unused
  deriving DecidableEq, Repr

/-- Why a command has no meaning. -/
inductive Refusal
  /-- Raised by an arm of `exec` that has no meaning yet; safe. -/
  | notModelled (mnemonic : String)
  deriving DecidableEq, Repr

/-! ### Reset values -/

/-- A link direction after reset or training (R40, R41). -/
def Link.init : Link := ⟨0, [], [], none, 0, 0, none, [], [], [], none, []⟩

/-- A link direction at the end of training: the FIFO filled with 4 idle parcels (R25, R41). -/
def Link.trained : Link := { Link.init with fifo := List.replicate 4 SentParcel.idle }

/-- The highest-numbered requester of a point (R96, R101). -/
def lastRequester (p : Nat) : Nat :=
  if p < 0x10 then 26 else if p < 0x20 then 18 else if p < 0x30 then 25 else 31

/-- A point after reset: trick 0, and the pointer at the highest-numbered requester (R101). -/
def Point.init (p : Nat) : Point :=
  ⟨0, 0, 0, [], none, 0, some (lastRequester p), [], none, none, [], [], false, [], [], 0⟩

/-- A home slice after reset: an empty directory. -/
def Slice.init : Slice := ⟨[], [], [], [], [], [], false, [], 0, []⟩

/-- A compute die after reset: empty caches, in Out (R76). -/
def Die.init : Die := ⟨[], [], [], [], [], [], [], [], none, [], 0, false, none, 0, false, 0, none, 0, false, 0⟩

/-- A core as R125 defines it at its start; a core that has not started has the same values (DESIGN CHOICE). -/
def Core.init : Core where
  pc := 0
  priv := 3
  virt := false
  x := []
  f := []
  v := []
  sacc := []
  itlb := []
  dtlb := []
  l2tlb := []
  walks := []
  gwalks := []
  l1i := []
  l1d := []
  l2 := []
  mb := []
  waits := []
  stores := []
  resv := none
  defer := none
  asleep := false
  sinval := false
  level := 0
  ncCell := none
  seip := false
  count := 0
  ended := false
  endCode := 0
  lbuf := []
  held := []
  mail := []
  skip := none
  later := none
  lateErr := none
  rank := 0
  published := false

/-- A memory channel after reset: empty queues and tables. -/
def Chan.init : Chan := ⟨[], [], 0, [], [], [], [], [], [], [], [], [], none, [], none, [], [], 0⟩

/-- A host port after reset. -/
def Port.init : Port := ⟨[], [], none, 0, false, [], 0, none, [], []⟩

/-- A function after reset. -/
def Fn.init : Fn := ⟨[], [], 0, 0, 0, 0, false, []⟩

/-- A queue pair after reset; the first PHASE is 1 (R347). -/
def Queue.init : Queue := ⟨[], 0, [], [], [], false, true, 0, [], false⟩

/-- The ledger machinery of a hand before its start. -/
def Ledger.init : Ledger := ⟨0, 0, [], 0, false, none, [], false, 0⟩

/-- The Archivist at its first power-up: nothing fused, the flash empty (DESIGN CHOICE). -/
def Arc.init : Arc where
  rootHash := []
  rootRevoke := 0
  fwHash := []
  fwRevoke := 0
  floors := []
  fwFloors := []
  flash := []
  vault := []
  version := 0
  digest1 := 0
  bytes := []
  addBytes := []
  addFolio := none
  phase := 0
  points := 0
  affected := 0
  members := []
  queuesPend := []
  wmPend := none
  serving := []
  zeroLeft := 0
  tamperLeft := 0
  tampering := false
  trained := 0
  imgBuf := []
  imgOp := none

/-- The management port and the pins: in package reset, PKG_RESET_L low for 1 µs, both supplies good and the clock running
(DESIGN CHOICE), so that the release of PKG_RESET_L comes next. -/
def Mgmt.init : Mgmt := ⟨0, none, 0, true, true, true, true, true, 0, 0, true, .idle⟩

/-- The Scorekeeper after reset: the IOD fabric is Out. -/
def Power.init : Power := ⟨3, false, false, 0, 0, 0, none⟩

/-- The test-access port in Test-Logic-Reset (R476). -/
def Tap.init : Tap := ⟨1, []⟩

/-- The package right after reset: every register at the reset value of its table, every buffer empty, no command. -/
def State.reset : State where
  cycle := 0
  free := 0
  regs := []
  folio := Folio.empty
  links := []
  points := []
  slices := []
  dies := []
  cores := []
  chans := []
  ports := []
  fns := []
  queues := []
  ledgers := []
  dram := []
  iod := []
  outbox := []
  flips := []
  arc := Arc.init
  mgmt := Mgmt.init
  tap := Tap.init
  power := Power.init
  heat := 0
  events := []
  out := []
  pending := []

end Sys2Proof.Machine
end

