-- ==== Sys2Proof/Machine/Ops.lean ====
section
/-! DEFINITION. The shared operations: registers (R11 to R15), the units of the state, messages between them, faults and
their records (R431 to R437), interrupt arrivals (R375), the loss of a hand (R438). -/

namespace Sys2Proof

/-- The key of a function: VF `v`, or 0x1000 + port for a PF. -/
def FnId.key : FnId → Nat
  | .vf v => v.val
  | .pf p => 0x1000 + p.val

/-- The unit code of a function in a record (R437). -/
def FnId.unit : FnId → Nat
  | .vf v => 0x1000 + v.val
  | .pf p => 0x2000 + p.val

end Sys2Proof

namespace Sys2Proof.Machine

/-! ### Fields and registers -/

/-- A bit field of a word as a number (R9). -/
def Fld.get (f : Fld) (w : Word) : Nat := (w.toNat >>> f.lo) % 2 ^ (f.hi - f.lo + 1)

/-- The bits of a field. -/
def Fld.mask (f : Fld) : Word := BitVec.ofNat 64 ((2 ^ (f.hi - f.lo + 1) - 1) <<< f.lo)

/-- A word with a field replaced; the value is cut to the field's width. -/
def Fld.put (f : Fld) (w : Word) (n : Nat) : Word :=
  (w &&& ~~~ f.mask) ||| (BitVec.ofNat 64 (n <<< f.lo) &&& f.mask)

/-- The largest value of a field. -/
def Fld.top (f : Fld) : Nat := 2 ^ (f.hi - f.lo + 1) - 1

/-- The reset value of a register: its fields at the values of its table; reserved bits zero (R12). -/
def Reg.reset (r : Reg) : Word := r.fields.foldl (fun w f => f.bits.put w f.reset) 0

namespace State

/-- The stored value of a register. -/
def rd (s : State) (r : Reg) : Word :=
  match s.regs.get? r.key with
  | some w => w
  | none => r.reset

/-- A register stored. -/
def wr (s : State) (r : Reg) (w : Word) : State := { s with regs := s.regs.set r.key w }

/-- A register back at its reset value. -/
def clr (s : State) (r : Reg) : State := { s with regs := s.regs.erase r.key }

/-- A field of a register. -/
def get (s : State) (r : Reg) (f : Fld) : Nat := f.get (s.rd r)

/-- A one-bit field of a register. -/
def bit (s : State) (r : Reg) (f : Fld) : Bool := s.get r f != 0

/-- A field of a register set by the hardware. -/
def put (s : State) (r : Reg) (f : Fld) (n : Nat) : State := s.wr r (f.put (s.rd r) n)

/-- A counting field raised by `n`, saturating at its largest value. -/
def addSat (s : State) (r : Reg) (f : Fld) (n : Nat) : State := s.put r f (min (s.get r f + n) f.top)

/-- A saturating count of one more. -/
def inc (s : State) (r : Reg) (f : Fld) : State := s.addSat r f 1

/-- The next free value: a value the spec leaves open. -/
def fresh (s : State) : Word × State := (Config.freeWord s.free, { s with free := s.free + 1 })

end State

/-- What a write by an agent that may write the register leaves in it, field by field (R14). RW-F fields are ignored;
the shadow of an RW-S field takes the value; a WO field stays zero. -/
def Reg.written (r : Reg) (old v : Word) : Word :=
  r.fields.foldl (fun w f =>
    match f.access with
    | .rw | .rws => f.bits.put w (f.bits.get v)
    | .w1s => f.bits.put w (f.bits.get (old ||| v))
    | .w1c => f.bits.put w (f.bits.get (old &&& ~~~ v))
    | .ro | .wo | .rwf => w) old

/-- The fields of a register that a read shows: everything but WO fields (R14). -/
def Reg.shown (r : Reg) (w : Word) : Word :=
  r.fields.foldl (fun acc f => if f.access == .wo then acc else f.bits.put acc (f.bits.get w)) 0

/-! ### The units of the state -/

/-- The key of one direction of a die link. -/
def linkKey (d : Nat) : Dir → Nat
  | .up => 2 * d
  | .dn => 2 * d + 1

namespace State

/-- The count of an event of a counter unit: a core id, or 0x1000 + b for block b (R451). -/
def eventCount (s : State) (u ev : Nat) : Nat := s.events.getD (u * 2 ^ 16 + ev) 0

/-- `n` more of an event of a unit counted (R451, R454). -/
def countEv (s : State) (u ev n : Nat) : State :=
  { s with events := if n = 0 then s.events else s.events.set (u * 2 ^ 16 + ev) (s.eventCount u ev + n) }

/-- `n` more of an event of a block unit counted. -/
def countBlk (s : State) (b ev n : Nat) : State := s.countEv (0x1000 + b) ev n

def link (s : State) (d : Nat) (r : Dir) : Link := s.links.getD (linkKey d r) Link.init
def setLink (s : State) (d : Nat) (r : Dir) (l : Link) : State := { s with links := s.links.set (linkKey d r) l }
def point (s : State) (p : Nat) : Point := s.points.getD p (Point.init p)
def setPoint (s : State) (p : Nat) (x : Point) : State := { s with points := s.points.set p x }
def slice (s : State) (n : Nat) : Slice := s.slices.getD n Slice.init
def setSlice (s : State) (n : Nat) (x : Slice) : State := { s with slices := s.slices.set n x }
def die (s : State) (d : Nat) : Die := s.dies.getD d Die.init
def setDie (s : State) (d : Nat) (x : Die) : State := { s with dies := s.dies.set d x }
def core (s : State) (c : Nat) : Core := s.cores.getD c Core.init
def setCore (s : State) (c : Nat) (x : Core) : State := { s with cores := s.cores.set c x }
def chan (s : State) (n : Nat) : Chan := s.chans.getD n Chan.init
def setChan (s : State) (n : Nat) (x : Chan) : State := { s with chans := s.chans.set n x }
def port (s : State) (p : Nat) : Port := s.ports.getD p Port.init
def setPort (s : State) (p : Nat) (x : Port) : State := { s with ports := s.ports.set p x }
def fn (s : State) (f : FnId) : Fn := s.fns.getD f.key Fn.init
def setFn (s : State) (f : FnId) (x : Fn) : State := { s with fns := s.fns.set f.key x }
def queue (s : State) (f : FnId) (q : Nat) : Queue := s.queues.getD (f.key * 16 + q) Queue.init
def setQueue (s : State) (f : FnId) (q : Nat) (x : Queue) : State :=
  { s with queues := s.queues.set (f.key * 16 + q) x }
def ledger (s : State) (h : Nat) : Ledger := s.ledgers.getD h Ledger.init
def setLedger (s : State) (h : Nat) (x : Ledger) : State := { s with ledgers := s.ledgers.set h x }
def emit (s : State) (o : Outward) : State := { s with out := s.out ++ [o] }

/-- The package timer: 10 ns ticks (R124). -/
def mtime (s : State) : Nat := s.cycle / 20

end State

/-! ### SRAM errors (R433, R445) -/

/-- The key of an SRAM word: structure, unit and index. -/
def flipKey (st unit idx : Nat) : Nat := st * 2 ^ 72 + unit * 2 ^ 56 + idx

/-- A write to an SRAM structure: FLT_INJECT that names it inverts one or two bits and disarms (R433). -/
def sramWrite (s : State) (st unit idx : Nat) : State :=
  if s.bit .FLT_INJECT F.FLT_INJECT_ARM ∧ s.get .FLT_INJECT F.FLT_INJECT_STRUCT = st
      ∧ s.get .FLT_INJECT F.FLT_INJECT_UNIT = unit ∧ s.get .FLT_INJECT_ADDR F.FLT_INJECT_ADDR_ADDR = idx then
    let b := s.get .FLT_INJECT F.FLT_INJECT_BIT
    let fl := if s.bit .FLT_INJECT F.FLT_INJECT_DOUBLE then [b, b + 1] else [b]
    let s := s.put .FLT_INJECT F.FLT_INJECT_ARM 0
    { s with flips := s.flips.set (flipKey st unit idx) fl }
  else { s with flips := s.flips.erase (flipKey st unit idx) }

/-- Wrong bits of an SRAM word: none, one (correctable) or more. -/
def sramBits (s : State) (st unit idx : Nat) : Nat := ((s.flips.get? (flipKey st unit idx)).getD []).length

/-- The word is rewritten or invalidated: its errors are gone. -/
def sramClear (s : State) (st unit idx : Nat) : State := { s with flips := s.flips.erase (flipKey st unit idx) }

/-- Repeats an update over a list of unit numbers, in order. -/
def overAll {α : Type} (l : List α) (f : State → α → State) (s : State) : State := l.foldl f s

/-! ### Hands and cores -/

namespace State

/-- Whether core `c` belongs to hand `h` (FAB_HAND_CORES holds the membership, R83, R116). -/
def inHand (s : State) (h c : Nat) : Bool := (s.rd (.FAB_HAND_CORES h (c / 64))).getLsbD (c % 64)

/-- The hand of a core, if it is in one. -/
def handOf (s : State) (c : Nat) : Option Nat := (List.range 64).find? (fun h => s.inHand h c)

/-- The cores of a hand, ascending. -/
def coresOf (s : State) (h : Nat) : List Nat := (List.range 384).filter (fun c => s.inHand h c)

/-- The state of a core (R126): 0 OFF, 1 STOPPED, 2 STARTING, 3 RUNNING, 4 STOPPING, 5 LOST. -/
def coreState (s : State) (c : Nat) : Nat := s.get (.CORE_STATE c) F.CORE_STATE_STATE

/-- A core put into a state. -/
def setCoreState (s : State) (c n : Nat) : State := s.put (.CORE_STATE c) F.CORE_STATE_STATE n

/-- Whether hand `h` is LOST (R91). -/
def handLost (s : State) (h : Nat) : Bool := s.get (.FAB_HAND h) F.FAB_HAND_STATE == 3

/-- The state of a hand (R91): 0 ABSENT, 1 STOPPED, 2 RUNNING, 3 LOST, 4 STARTING. -/
def handState (s : State) (h : Nat) : Nat :=
  if (s.folio.hand? h).isNone then 0
  else if s.handLost h then 3
  else if (s.coresOf h).any (fun c => s.coreState c == 3 || s.coreState c == 4) then 2
  else if (s.coresOf h).any (fun c => s.coreState c == 2) then 4
  else 1

/-- Whether compute die `d` reads IN_SERVICE and is in Play or Pass (R126). -/
def dieInService (s : State) (d : Nat) : Bool :=
  s.get (.FLT_DIE d) F.FLT_DIE_STATE == 1 && decide (s.get (.SCK_DIE d) F.SCK_DIE_STATE ≤ 1)

/-- The hand of an agent that writes or reads a register: the hand of a core; H[0] for the Archivist and BMC (R90). -/
def agentHand (s : State) : Agent → Option Nat
  | .core c => s.handOf c.val
  | .archivist => some 0
  | .bmc => none

/-- Whether the agent is a core of H[0]. -/
def isHouse (s : State) : Agent → Bool
  | .core c => s.handOf c.val == some 0
  | _ => false

/-- Whether the agent is a core of a hand that reaches control block `b` (R17, R58); a ledger hand reaches the registers of R249
alone, which have their own rules. -/
def reaches (s : State) (b : Nat) : Agent → Bool
  | .core c =>
    match s.handOf c.val with
    | some h => s.folio.ctrlAccess h b && !s.folio.isLedger h
    | none => false
  | _ => false

end State

/-! ### Interrupt arrivals (R373 to R378) -/

/-- Whether a source may ever arrive (R373). -/
def sourceExists (n : Nat) : Bool :=
  decide (n < 8192) &&
  !(n == 0 || (4 ≤ n && n ≤ 15) || (40 ≤ n && n ≤ 63) || (192 ≤ n && n ≤ 255) || (640 ≤ n && n ≤ 1023))

namespace State

/-- The tally of a source (R375). -/
def tally (s : State) (n : Nat) : Nat := s.get (.TIC_TALLY (n / 8)) (F.TIC_TALLY_TALLY (n % 8))

/-- A tally set; its word is written (R433 structure 12). -/
def setTally (s : State) (n v : Nat) : State :=
  sramWrite (s.put (.TIC_TALLY (n / 8)) (F.TIC_TALLY_TALLY (n % 8)) v) 12 0x2600 (n / 8)

/-- One arrival of a source: its tally rises by one, or its TIC_SAT bit is set at 255 (R375). Sources that R373 marks
reserved never arrive. -/
def arrive (s : State) (n : Nat) : State :=
  if !sourceExists n then s
  else if s.tally n < 255 then s.setTally n (s.tally n + 1)
  else s.wr (.TIC_SAT (n / 64)) (s.rd (.TIC_SAT (n / 64)) ||| BitVec.ofNat 64 (2 ^ (n % 64)))

/-- Whether a source is enabled; TIC_EN_SET holds the bits (R376). -/
def srcEnabled (s : State) (n : Nat) : Bool := (s.rd (.TIC_EN_SET (n / 64))).getLsbD (n % 64)

/-- Target and priority in force of a source (R374). -/
def srcTarget (s : State) (n : Nat) : Nat := s.get (.TIC_ROUTE_ACT n) F.TIC_ROUTE_TARGET
def srcPrio (s : State) (n : Nat) : Nat := s.get (.TIC_ROUTE_ACT n) F.TIC_ROUTE_PRIORITY

/-- Words of eight tallies that some source has touched: only these can hold a pending source. -/
def tallyWords (s : State) : List Nat :=
  s.regs.filterMap (fun e =>
    if 0xF00006110000 ≤ e.1 ∧ e.1 < 0xF00006112000 ∧ e.2 ≠ 0 then some ((e.1 - 0xF00006110000) / 8) else none)

/-- The enabled pending sources whose active TARGET is core `c`, ascending (R378, R382). -/
def pendingOf (s : State) (c : Nat) : List Nat :=
  (s.tallyWords.flatMap (fun k => (List.range 8).map (fun j => 8 * k + j))).filter (fun n =>
    s.tally n != 0 && s.srcEnabled n && s.srcTarget n == c)

/-- The best source of a core: highest PRIORITY, then lowest number (R378). -/
def best (s : State) (c : Nat) : Option Nat :=
  (s.pendingOf c).foldl (fun b n =>
    match b with
    | none => some n
    | some m => if s.srcPrio m < s.srcPrio n then some n else b) none

/-- The running priority of a core's context (R377). -/
def runningPrio (s : State) (c : Nat) : Nat := s.get (.TIC_CORE_STATE c) F.TIC_CORE_STATE_RUNNING

/-- Whether a core's line and wake signal may be asserted: not while it is STOPPED, STOPPING or LOST (R381). -/
def ticLive (s : State) (c : Nat) : Bool := s.coreState c == 2 || s.coreState c == 3

/-- The external-interrupt line of a core (R378). -/
def line (s : State) (c : Nat) : Bool :=
  s.ticLive c &&
  match s.best c with
  | some n => decide (s.runningPrio c < s.srcPrio n)
  | none => false

/-- The wake signal of a core (R382). -/
def wake (s : State) (c : Nat) : Bool := s.ticLive c && !(s.pendingOf c).isEmpty

end State

/-! ### Fault classes, records and the loss of a hand (R434 to R438) -/

/-- A fault event as its detector reports it. -/
structure FaultEv where
  cls    : Nat
  unit   : Nat
  hand   : Option Nat
  detail : Nat
  sev    : Nat
  addr   : Nat
  synd   : Nat
  deriving DecidableEq, Repr

/-- Word 0 of a record (R437). -/
def FaultEv.word0 (e : FaultEv) (sev : Nat) : Word :=
  BitVec.ofNat 64 (2 ^ 63 + (e.unit % 2 ^ 16) * 2 ^ 32 + (e.hand.getD 0 % 64) * 2 ^ 26
    + (if e.hand.isSome then 2 ^ 25 else 0) + (e.detail % 256) * 2 ^ 8 + sev * 2 ^ 5 + e.cls)

namespace State

/-- Records written since reset; the SEQ word of the newest record holds it. -/
def recSeq (s : State) : Nat :=
  let i := (s.get .FLT_TAIL F.FLT_HEAD_INDEX + 255) % 256
  (s.rd (.FLT_REC i 3)).toNat

/-- One event of class 29, which writes no record: its ACTION only decides whether its source arrives (R435). -/
def overflowClass (s : State) : State :=
  let s := s.inc (.FLT_CLASS_CNT 29) F.FLT_CLASS_CNT_COUNT
  if (s.folio.policy 29).action = 0 then s else s.arrive (s.folio.policy 29).source

/-- The record of an event written at FLT_TAIL, or dropped where 256 records wait (R437). -/
def writeRecord (s : State) (e : FaultEv) (sev : Nat) : State :=
  if s.get .FLT_STATUS F.FLT_STATUS_WAITING = 256 then
    let s := s.inc .FLT_STATUS F.FLT_STATUS_DROPPED
    (s.put .FLT_STATUS F.FLT_STATUS_OVERFLOW 1).overflowClass
  else
    let i := s.get .FLT_TAIL F.FLT_HEAD_INDEX
    let n := s.recSeq
    let s := s.wr (.FLT_REC i 0) (e.word0 sev)
    let s := s.wr (.FLT_REC i 1) (BitVec.ofNat 64 ((e.synd % 256) * 2 ^ 56 + e.addr % 2 ^ 52))
    let s := s.wr (.FLT_REC i 2) (BitVec.ofNat 64 s.mtime)
    let s := s.wr (.FLT_REC i 3) (BitVec.ofNat 64 ((n + 1) % 2 ^ 32))
    let s := s.put .FLT_TAIL F.FLT_HEAD_INDEX ((i + 1) % 256)
    s.put .FLT_STATUS F.FLT_STATUS_WAITING (s.get .FLT_STATUS F.FLT_STATUS_WAITING + 1)

/-- A fault event without its HAND_LOSS: the class is counted, its record written and its source raised (R435). -/
def noteFault (s : State) (e : FaultEv) (sev : Nat) : State :=
  let s := s.inc (.FLT_CLASS_CNT e.cls) F.FLT_CLASS_CNT_COUNT
  let s := s.writeRecord e sev
  if (s.folio.policy e.cls).action = 0 then s else s.arrive (s.folio.policy e.cls).source

/-- Opcode and TAG of a slip (R345). -/
def slipOpcode (b : LineData) : Nat := (b.extractLsb' 0 8).toNat
def slipTag (b : LineData) : Nat := (b.extractLsb' 16 16).toNat

/-- A slip's status is fixed: it has ended, and its return slip is due (R348, R354). A queue that was disabled while FROZEN
becomes DISABLED when the last of its slips ends (R367). -/
def endSlip (s : State) (f : FnId) (q seq status result flags : Nat) : State :=
  let x := s.queue f q
  match x.running.find? (fun e => e.seq == seq) with
  | none => s
  | some e =>
    let left := x.running.filter (fun y => y.seq != seq)
    let y := { x with running := left, ended := x.ended ++ [⟨e.bits, e.index, status, result, flags, some seq, e.waits⟩] }
    if x.froze && left.isEmpty && s.get (.QP_STATE f.key q) F.QP_STATE_STATE == 3 then
      (s.setQueue f q { y with deferred := [], defLost := false }).put (.QP_STATE f.key q) F.QP_STATE_STATE 0
    else s.setQueue f q y

/-- Work of a ledger hand in a class D message's `txn`: staging (kind 2) and delivery (kind 3) of hand `h`. -/
def ledgerTxn (h txn : Nat) : Bool := (txn % 8 == 2 || txn % 8 == 3) && txn / 8 % 64 == h

/-- Intakes of a hand aborted by HAND_LOSS or a stop: pending POSTs end ABORTED with the SEQ that they took, staged data is
discarded (R256, R347). -/
def abortIntakes (s : State) (h : Nat) : State :=
  let l := s.ledger h
  let s := overAll l.intakes (fun s i =>
    match i.posted with
    | some (f, q, seq, _) => s.endSlip f q seq 0x10 i.seq 0
    | none => s) s
  let s := { s with outbox := s.outbox.set 24 ((s.outbox.getD 24 []).filter (fun e => !e.2.any (fun m => ledgerTxn h m.txn))) }
  s.setLedger h { l with intakes := [], held := none, waits := [], placed := false }

/-- A core enters STOPPING: it begins to drain its merging buffer (R128, R180 item 4). -/
def enterStopping (s : State) (c : Nat) : State :=
  let k := s.core c
  (s.setCore c { k with mb := k.mb.map (fun e => { e with draining := true }) }).setCoreState c 4

/-- HAND_LOSS raised for hand `h` (R438): LOST, source 128 + h, VOID_LOSS for a ledger hand, and its STARTING and
RUNNING cores on a die in service enter STOPPING. A hand already LOST is left alone (R435). -/
def handLoss (s : State) (h : Nat) : State :=
  if s.handLost h then s
  else
    let s := s.put (.FAB_HAND h) F.FAB_HAND_STATE 3
    let s := s.arrive (128 + h)
    let s :=
      if s.folio.isLedger h then
        let s := s.put (.CSQ_LDG_ERR h) F.CSQ_LDG_ERR_VOID_LOSS 1
        let s := s.noteFault ⟨22, 0x2900, some h, 5, 4, 0, 0⟩ 4
        let s := (s.abortIntakes h).wr (.CSQ_LDG_PHASE h) 0
        overAll (s.coresOf h) (fun s c => s.setCore c { s.core c with lbuf := [], held := [], mb := [], stores := [] }) s
      else s
    overAll (s.coresOf h) (fun s c =>
      if (s.coreState c = 2 ∨ s.coreState c = 3) ∧ s.get (.FLT_DIE (c / 24)) F.FLT_DIE_STATE = 1 then
        s.enterStopping c
      else s) s

/-- A fault event of a class (R435): record, source and, under ACTION 2, HAND_LOSS for the hand concerned. -/
def fault (s : State) (e : FaultEv) : State :=
  match e.hand with
  | some h =>
    if (s.folio.policy e.cls).action = 2 ∧ ¬ s.handLost h then (s.noteFault e 4).handLoss h
    else s.noteFault e e.sev
  | none => s.noteFault e e.sev

/-- A status bit set by its event, with the class of R434 that it belongs to. The class acts at every event, whether the
bit was set before or not (R375, R434). -/
def raise (s : State) (r : Reg) (b cls unit : Nat) (hand : Option Nat) (sev addr : Nat) : State :=
  (s.wr r (s.rd r ||| BitVec.ofNat 64 (2 ^ b))).fault ⟨cls, unit, hand, b, sev, addr, 0⟩

/-- A read of an IOD SRAM word: a correctable error is corrected with a class 30 record, an uncorrectable one leaves a
class 31 record and is reported to the caller (R447). -/
def iodSram (s : State) (st unit idx : Nat) : Bool × State :=
  match sramBits s st unit idx with
  | 0 => (false, s)
  | 1 => (false, (sramClear s st unit idx).fault ⟨30, unit, none, st, 0, idx, 0⟩)
  | _ => (true, (sramClear s st unit idx).fault ⟨31, unit, none, st, 2, idx, 0⟩)

/-- Puts a message among those ready at a point, behind the earlier ones (R100). -/
def send (s : State) (p q : Nat) (m : Msg) : State :=
  let x := s.point p
  s.setPoint p { x with ready := x.ready ++ [⟨q, m, s.cycle⟩] }

/-- A CSR of a core, as stored. -/
def csr (s : State) (c n : Nat) : Word := s.rd (.CSR c n)

/-- A CSR stored. -/
def setCsr (s : State) (c n : Nat) (w : Word) : State := s.wr (.CSR c n) w

/-- An integer register: x0 reads zero. -/
def xreg (s : State) (c : Nat) (r : Nat) : Word := if r = 0 then 0 else (s.core c).x.getD r 0

/-- An integer register written: a write of x0 is discarded. -/
def setX (s : State) (c : Nat) (r : Nat) (w : Word) : State :=
  if r = 0 then s else let k := s.core c; s.setCore c { k with x := k.x.set r w }

/-- Whether a core executes instructions: it is RUNNING on a die in Play that is not asked to leave Play (R415), does not
wait in WFI, and has not ended a ledger quantum. -/
def runs (s : State) (c : Nat) : Bool :=
  s.coreState c == 3 && !(s.core c).ended && !(s.core c).asleep && s.get (.SCK_DIE (c / 24)) F.SCK_DIE_STATE == 0 &&
  s.get (.SCK_DIE (c / 24)) F.SCK_DIE_TARGET == 0

/-- Whether a core may execute its next instruction: it runs, and no load, atomic or waiting store holds it. -/
def ready (s : State) (c : Nat) : Bool :=
  s.runs c && (s.core c).stores.isEmpty &&
  (s.core c).waits.all (fun w => match w.who with | .store | .prefetch => true | _ => false)

/-- Whether the hand of a core is in ledger mode. -/
def ledgerCore (s : State) (c : Nat) : Bool :=
  match s.handOf c with
  | some h => s.folio.isLedger h
  | none => false

/-- The quantum of a ledger core ends for a reason of R144 (R241). -/
def endQuantum (s : State) (c code : Nat) : State :=
  let k := s.core c
  if k.ended ∨ ¬ s.ledgerCore c then s
  else
    let s := (s.setCore c { k with ended := true, endCode := code }).countEv c 0x000C 1
    let s := if code = 1 then s.countEv c 0x000D 1 else s
    let r := Reg.CSQ_LDG_PHASE ((s.handOf c).getD 0)
    s.put r F.CSQ_LDG_PHASE_ENDED (s.get r F.CSQ_LDG_PHASE_ENDED + 1)

/-- Q of the hand of a core (R69). -/
def quantumOf (s : State) (c : Nat) : Nat := ((s.handOf c).bind s.folio.ledger?).elim 0 (·.q)

/-- An instruction of `len` bytes retires: the pc moves on, minstret and the quantum's count rise; the Q-th one ends the
quantum with END 0 (R241). -/
def retire (s : State) (c len : Nat) : State :=
  let k := s.core c
  let s := s.setCore c { k with pc := k.pc + BitVec.ofNat 64 len, count := k.count + 1 }
  let s := if (s.csr c 0x320).getLsbD 2 then s else s.setCsr c 0xB02 (s.csr c 0xB02 + 1)
  if s.ledgerCore c ∧ s.quantumOf c ≤ k.count + 1 then s.endQuantum c 0 else s

end State

/-- Outcome of a meaning: these meanings are total. -/
abbrev Out := Host.Outcome State Fault Refusal

end Sys2Proof.Machine
end

