-- ==== Sys2Proof/Machine/Message.lean ====
section
/-! DEFINITION. Fabric messages: opcodes and classes (R98, R217), headers and parcels (R26 to R29, R215, R216), the
home slice of a line (R205). -/

namespace Sys2Proof.Machine

/-- The opcode of a message (R217); management messages have none. -/
def opCode : Opc → Nat
  | .rdShared => 0x01 | .rdOwn => 0x02 | .upgrade => 0x03 | .claim => 0x04 | .rdOnce => 0x05 | .wrFull => 0x06
  | .wrPartial => 0x07 | .cboClean => 0x08 | .cboFlush => 0x09
  | .wbData => 0x10 | .wbKeep => 0x11 | .evictClean => 0x12 | .discard => 0x13
  | .snpShared => 0x20 | .snpInv => 0x21 | .snpBinv => 0x22
  | .cmp => 0x30 | .snpRspI => 0x31 | .snpRspS => 0x32 | .wbAck => 0x33 | .wbAckStale => 0x34 | .cmpPartial => 0x35
  | .dataS => 0x40 | .dataE => 0x41 | .dataM => 0x42 | .dataNc => 0x43 | .snpDataI => 0x44 | .snpDataS => 0x45
  | .mgmt => 0x00

/-- The opcodes a die sends upward (R217). -/
def upOps : List Opc :=
  [.rdShared, .rdOwn, .upgrade, .claim, .rdOnce, .wrFull, .wrPartial, .cboClean, .cboFlush, .wbData, .wbKeep,
    .evictClean, .discard, .snpRspI, .snpRspS, .snpDataI, .snpDataS]

/-- The opcodes the home sends downward (R217). -/
def downOps : List Opc :=
  [.snpShared, .snpInv, .snpBinv, .cmp, .wbAck, .wbAckStale, .cmpPartial, .dataS, .dataE, .dataM, .dataNc]

/-- The opcode of a code in one direction. -/
def opOf (dir : Dir) (n : Nat) : Option Opc :=
  (match dir with | .up => upOps | .dn => downOps).find? (fun o => opCode o == n)

/-- The class of a message: 0 REQ, 1 WB, 2 SNP, 3 RSP, 4 DAT (R217, bits 7:4). -/
def opClass (o : Opc) : Nat := opCode o / 16

/-- Whether the message carries a line (R217). -/
def opData : Opc → Bool
  | .wrFull | .wrPartial | .wbData | .wbKeep | .dataS | .dataE | .dataM | .dataNc | .snpDataI | .snpDataS => true
  | _ => false

/-- Trump traffic by its kind: SNP and RSP, and DAT that answers a snoop (R98). -/
def opTrump (o : Opc) : Bool := opClass o == 2 || opClass o == 3 || o == .snpDataI || o == .snpDataS

/-- Order within a hand's trick: RSP, DAT, SNP, then all others (R100). -/
def opRank (o : Opc) : Nat :=
  match opClass o with
  | 3 => 0
  | 4 => 1
  | 2 => 2
  | _ => 3

/-- A message with its opcode, hand and line, everything else zero. -/
def msg0 (op : Opc) (hand line : Nat) : Msg :=
  { op := op, hand := hand, gen := 0, agent := 0, firstChunk := 0, poison := false, txn := 0, line := line,
    data := 0, mask := 0, src := .csq, die := 0 }

/-- A message of the tally, the Scorekeeper, die management or a control-space response, presented at a point of a link with hand
H[0] (R90, R96). The spec gives these messages no opcode and no header, so they hold a place among the requests and in a parcel
and carry no bits; what they convey has its effect with the command that sends them (DESIGN CHOICE, log entry 84). -/
def mgmtSend (s : State) (p q : Nat) : State := s.send p q (msg0 .mgmt 0 0)

/-- The 16-byte header of a message (R215, R216). -/
def msgHeader (m : Msg) : BitVec 128 :=
  if m.op = .wrPartial then
    BitVec.ofNat 128 (opCode m.op + (m.hand % 64) * 2 ^ 8 + (m.line % 2 ^ 46) * 2 ^ 14
      + (if m.poison then 2 ^ 60 else 0) + m.mask.toNat * 2 ^ 64)
  else
    BitVec.ofNat 128 (opCode m.op + (m.hand % 64) * 2 ^ 8 + m.gen.toNat * 2 ^ 14 + (m.agent % 32) * 2 ^ 16
      + m.firstChunk.toNat * 2 ^ 21 + (if m.poison then 2 ^ 23 else 0) + (m.txn % 2 ^ 12) * 2 ^ 28
      + (m.line % 2 ^ 46) * 2 ^ 40)

/-- The line as it travels: chunks from `first` on, ascending modulo 4 (R27). -/
def rotateChunks (first : Nat) (l : LineData) : LineData :=
  (List.range 4).foldr (fun k acc => (acc <<< 128) ||| (l.extractLsb' (128 * ((first + k) % 4)) 128).zeroExtend 512) 0

/-- The line back in ascending order. -/
def unrotateChunks (first : Nat) (l : LineData) : LineData :=
  (List.range 4).foldr (fun k acc => (acc <<< 128) ||| (l.extractLsb' (128 * ((k + 4 - first) % 4)) 128).zeroExtend 512) 0

/-- The message that a header and line bytes hold, from die `d` in direction `dir`; none where the opcode is not one of
that direction (R217). -/
def msgOf (d : Nat) (dir : Dir) (h : BitVec 128) (line : LineData) : Option Msg :=
  match opOf dir (h.extractLsb' 0 8).toNat with
  | none => none
  | some o =>
    if o = .wrPartial then
      some { op := o, hand := (h.extractLsb' 8 6).toNat, gen := 0, agent := 0, firstChunk := 0,
             poison := h.getLsbD 60, txn := 0, line := (h.extractLsb' 14 46).toNat, data := line,
             mask := h.extractLsb' 64 64, src := .die (Fin.ofNat 16 d), die := d }
    else
      some { op := o, hand := (h.extractLsb' 8 6).toNat, gen := h.extractLsb' 14 2,
             agent := (h.extractLsb' 16 5).toNat, firstChunk := h.extractLsb' 21 2, poison := h.getLsbD 23,
             txn := (h.extractLsb' 28 12).toNat, line := (h.extractLsb' 40 46).toNat,
             data := if opData o then unrotateChunks (h.extractLsb' 21 2).toNat line else 0,
             mask := if o = .wrFull then BitVec.allOnes 64 else 0, src := .die (Fin.ofNat 16 d), die := d }

/-- The slots of a parcel: data header, line, three control headers (R26). -/
def parcelHeader (b : BitVec 1024) (slot : Nat) : BitVec 128 :=
  if slot = 0 then b.extractLsb' 0 128 else b.extractLsb' (640 + 128 * (slot - 1)) 128

/-- The messages of a parcel in slot order; none where a slot holds a reserved opcode (R217). -/
def parcelMsgs (d : Nat) (dir : Dir) (b : BitVec 1024) : Option (List Msg) :=
  (List.range 4).foldr (fun i acc =>
    match acc with
    | none => none
    | some l =>
      let h := parcelHeader b i
      if h.extractLsb' 0 8 = 0 then some l
      else
        match msgOf d dir h (b.extractLsb' 128 512) with
        | none => none
        | some m => some (m :: l)) (some [])

/-- A parcel from its data message and its control messages (R26). -/
def parcelOf (dat : Option Msg) (ctl : List (BitVec 128)) : BitVec 1024 :=
  let base : BitVec 1024 :=
    match dat with
    | some m => (msgHeader m).zeroExtend 1024 ||| ((rotateChunks m.firstChunk.toNat m.data).zeroExtend 1024 <<< 128)
    | none => 0
  (ctl.zipIdx).foldl (fun (b : BitVec 1024) (e : BitVec 128 × Nat) => b ||| ((e.1.zeroExtend 1024) <<< (640 + 128 * e.2))) base

/-- One bit into a CRC-16 of polynomial 0x1021 (R29). -/
def crcStep (c : BitVec 16) (b : Bool) : BitVec 16 :=
  if c.getLsbD 15 != b then (c <<< 1) ^^^ 0x1021 else c <<< 1

/-- The CRC of group `g` of a parcel; that of group 0 goes on over the sequence byte (R29) where the link uses CRCSEQ
(R42, R43). -/
def groupCrc (cover : Bool) (b : BitVec 1024) (seq : BitVec 8) (g : Nat) : BitVec 16 :=
  let c := (List.range 128).foldl (fun c n => crcStep c (b.getLsbD (128 * g + n))) 0xFFFF
  if cover ∧ g = 0 then (List.range 8).foldl (fun c n => crcStep c (seq.getLsbD n)) c else c

/-- Whether all eight CRCs of a received parcel check (R29). -/
def parcelGood (cover : Bool) (p : Parcel) : Bool :=
  (List.range 8).all (fun g => groupCrc cover p.bits p.seq g == p.crc.extractLsb' (16 * g) 16)

/-- Parity of the bits of a number (R205, R272). -/
def parity (n : Nat) : Nat := (List.range 64).foldl (fun p i => if n.testBit i then 1 - p else p) 0

/-- The home slice of a line (R205). -/
def sliceOf (s : State) (line : Nat) : Nat :=
  (List.range 4).foldl (fun n k =>
    n + 2 ^ k * parity ((line * 64) &&& (s.rd (.HOME_SLICE_MASK k)).toNat)) 0

/-- The directory set of a line (R205). -/
def dirSet (line : Nat) : Nat := line % 10922

end Sys2Proof.Machine
end

