-- ==== Sys2Proof/Machine/Trap.lean ====
section
/-! DEFINITION. Taking a trap on a core (PRESUMED: the RISC-V privileged architecture, which R117 names, is not part of
the spec): which registers save the pc and the status, what the status and the mode become, where the pc goes. The
causes of R151 and their delegation are the spec's. -/

namespace Sys2Proof.Machine

/-- A status word with one bit set to a value. -/
def setBit (w : Word) (i : Nat) (b : Bool) : Word :=
  if b then w ||| BitVec.ofNat 64 (2 ^ i) else w &&& ~~~ BitVec.ofNat 64 (2 ^ i)

/-- Where a trap goes: the vector's base, plus four times the cause for an interrupt in vectored mode. -/
def trapPc (tvec : Word) (isInt : Bool) (cause : Nat) : Word :=
  let base := tvec &&& ~~~ (3 : Word)
  if isInt && tvec.getLsbD 0 then base + BitVec.ofNat 64 (4 * cause) else base

/-- The cause register's value. -/
def causeWord (isInt : Bool) (cause : Nat) : Word := BitVec.ofNat 64 ((if isInt then 2 ^ 63 else 0) + cause)

/-- What a trap leaves of a core's waits: a load or atomic that it interrupts is given up. -/
def stillWaits (k : Core) : List WaitEnt :=
  k.waits.filter (fun w => match w.who with | .store | .prefetch => true | _ => false)

/-- A trap into M-mode. -/
def trapM (s : State) (c : Nat) (isInt : Bool) (cause : Nat) (tval : Word) : State :=
  let k := s.core c
  let st := s.csr c 0x300
  let st1 := setBit st 7 (st.getLsbD 3)
  let st2 := setBit st1 3 false
  let st3 := (Fld.put ⟨12, 11⟩ st2 k.priv.toNat)
  let st4 := setBit st3 39 k.virt
  let st5 := setBit st4 38 (k.virt && !isInt && tval != 0)
  let s := s.setCsr c 0x300 st5
  let s := s.setCsr c 0x341 k.pc
  let s := s.setCsr c 0x342 (causeWord isInt cause)
  let s := s.setCsr c 0x343 tval
  let s := s.setCsr c 0x34B 0
  s.setCore c { k with priv := 3, virt := false, pc := trapPc (s.csr c 0x305) isInt cause, asleep := false, waits := stillWaits k, ncCell := none }

/-- A trap into HS-mode. -/
def trapS (s : State) (c : Nat) (isInt : Bool) (cause : Nat) (tval : Word) : State :=
  let k := s.core c
  let st := s.csr c 0x300
  let st1 := setBit st 5 (st.getLsbD 1)
  let st2 := setBit st1 1 false
  let st3 := setBit st2 8 (k.priv == 1)
  let s := s.setCsr c 0x300 st3
  let hs := s.csr c 0x600
  let hs1 := setBit hs 7 k.virt
  let hs2 := if k.virt then setBit hs1 8 (k.priv == 1) else hs1
  let hs3 := setBit hs2 6 (k.virt && !isInt && tval != 0)
  let s := s.setCsr c 0x600 hs3
  let s := s.setCsr c 0x141 k.pc
  let s := s.setCsr c 0x142 (causeWord isInt cause)
  let s := s.setCsr c 0x143 tval
  let s := s.setCsr c 0x643 0
  s.setCore c { k with priv := 1, virt := false, pc := trapPc (s.csr c 0x105) isInt cause, asleep := false, waits := stillWaits k, ncCell := none }

/-- A trap into VS-mode. -/
def trapVs (s : State) (c : Nat) (isInt : Bool) (cause : Nat) (tval : Word) : State :=
  let k := s.core c
  let st := s.csr c 0x200
  let st1 := setBit st 5 (st.getLsbD 1)
  let st2 := setBit st1 1 false
  let st3 := setBit st2 8 (k.priv == 1)
  let s := s.setCsr c 0x200 st3
  let s := s.setCsr c 0x241 k.pc
  let s := s.setCsr c 0x242 (causeWord isInt cause)
  let s := s.setCsr c 0x243 tval
  s.setCore c { k with priv := 1, virt := true, pc := trapPc (s.csr c 0x205) isInt cause, asleep := false, waits := stillWaits k, ncCell := none }

/-- An exception of core `c` with its delegation: to HS-mode by medeleg from below M-mode, on to VS-mode by hedeleg. -/
def trap (s : State) (c cause : Nat) (tval : Word) : State :=
  let s := if cause = 19 then s.countEv c 0x000B 1 else s
  let k := s.core c
  if k.priv ≠ 3 ∧ (s.csr c 0x302).getLsbD cause then
    if k.virt ∧ (s.csr c 0x602).getLsbD cause then trapVs s c false cause tval
    else trapS s c false cause tval
  else trapM s c false cause tval

/-- The illegal-instruction exception (R118). -/
def illegal (s : State) (c : Nat) (w : Word) : State := trap s c 2 w

/-- The interrupts pending and enabled in mip and mie, highest priority first: MEI, MSI, MTI, SEI, SSI, STI,
the VS-level ones, and the counter-overflow interrupt. -/
def pendingInts (s : State) (c : Nat) : List Nat :=
  [11, 3, 7, 9, 1, 5, 10, 2, 6, 13].filter (fun i => (s.csr c 0x344 &&& s.csr c 0x304).getLsbD i)

/-- mideleg in force: the VS-level interrupts are always delegated. -/
def midelegOf (s : State) (c : Nat) : Word := s.csr c 0x303 ||| 0x1444

/-- The interrupt that a core would take now: the mode it goes to (3 M, 1 HS, 0 VS) and its number. -/
def chosenInt (s : State) (c : Nat) : Option (Nat × Nat) :=
  let k := s.core c
  let st := s.csr c 0x300
  let toM := (pendingInts s c).filter (fun i => !(midelegOf s c).getLsbD i)
  let toS := (pendingInts s c).filter (fun i => (midelegOf s c).getLsbD i && !(s.csr c 0x603).getLsbD i)
  let toVs := (pendingInts s c).filter (fun i => (midelegOf s c).getLsbD i && (s.csr c 0x603).getLsbD i)
  let mOk : Bool := k.priv != 3 || st.getLsbD 3
  let sOk : Bool := k.priv == 0 || k.virt || (k.priv == 1 && st.getLsbD 1)
  let vOk : Bool := k.virt && (k.priv == 0 || (s.csr c 0x200).getLsbD 1)
  match (if mOk then toM.head? else none), (if k.priv != 3 && sOk then toS.head? else none), (if vOk then toVs.head? else none) with
  | some i, _, _ => some (3, i)
  | none, some i, _ => some (1, i)
  | none, none, some i => some (0, i)
  | none, none, none => none

/-- The interrupt taken, where one is pending, enabled and deliverable to the mode the core is in. -/
def takeInterrupt (s : State) (c : Nat) : State :=
  match chosenInt s c with
  | none => s
  | some (m, i) => if m = 3 then trapM s c true i 0 else if m = 1 then trapS s c true i 0 else trapVs s c true (i - 1) 0

/-- A pending bit of mip set or cleared. -/
def setMip (s : State) (c i : Nat) (b : Bool) : State := s.setCsr c 0x344 (setBit (s.csr c 0x344) i b)

/-! ### Ledger mode (R249) -/

/-- Raises LEDGER_ACCESS on a core (cause 25, R249, R261). -/
def ledgerAccess (s : State) (c : Nat) (va : Word) : State :=
  let h := (s.handOf c).getD 0
  trap (s.raise (.CSQ_LDG_ERR h) 2 22 0x2900 (some h) 1 va.toNat) c 25 va

/-- Whether R249 lets a core of a ledger hand access a register of the control space at all. -/
def ledgerMay (s : State) (c : Fin 384) (r : Reg) : Bool :=
  match r with
  | .TIC_CLAIM d | .TIC_EOI d => d == c.val
  | .CORE_MSIP d | .CORE_MTIMECMP d => s.handOf d == s.handOf c.val
  | _ => false

/-- A control-space write: one by a core of a ledger hand to a register that R249 forbids raises LEDGER_ACCESS and has no effect.
tval holds the register's physical address, since the command names no virtual one (DESIGN CHOICE, log entry 107). -/
def barred (s : State) (who : Agent) (r : Reg) (act : Out) : Out :=
  match who with
  | .core c => if s.ledgerCore c && !ledgerMay s c r then .next (ledgerAccess s c (BitVec.ofNat 64 r.key)) else act
  | _ => act

/-! ### Floating-point and vector state -/

/-- FS or VS made Dirty (R135). -/
def dirtyField (s : State) (c : Nat) (f : Fld) : State :=
  let s := s.setCsr c 0x300 (f.put (s.csr c 0x300) 3)
  if (s.core c).virt then s.setCsr c 0x200 (f.put (s.csr c 0x200) 3) else s
def dirtyFs (s : State) (c : Nat) : State := dirtyField s c ⟨14, 13⟩
def dirtyVs (s : State) (c : Nat) : State := dirtyField s c ⟨10, 9⟩

/-- A vector register. -/
def vreg (s : State) (c r : Nat) : LineData := (s.core c).v.getD r 0
/-- A vector register written: vector state is Dirty (R135). -/
def setVreg (s : State) (c r : Nat) (v : LineData) : State :=
  let k := s.core c
  dirtyVs (s.setCore c { k with v := k.v.set r v }) c
end Sys2Proof.Machine
end

