-- ==== Sys2Proof/Machine/Tally.lean ====
section
/-! DEFINITION. The tally controller (R373 to R387). -/

namespace Sys2Proof.Machine

/-- The bits of a set or clear register that a write by `who` may change (R376). `soft` admits software sources
whatever their target. -/
def ticBits (s : State) (who : Agent) (k : Nat) (soft : Bool) : Word :=
  (List.range 64).foldl (fun w m =>
    let n := 64 * k + m
    let ok := sourceExists n &&
      match who with
      | .archivist => true
      | .bmc => false
      | .core c =>
        match s.handOf c.val with
        | none => false
        | some h => h == 0 || (s.folio.ctrlAccess h 6 &&
            ((soft && decide (1024 ≤ n)) || s.handOf (s.srcTarget n) == some h && decide (s.srcTarget n < 384)))
    if ok then w ||| BitVec.ofNat 64 (2 ^ m) else w) 0

/-- TIC_EN_SET: each 1 bit that the writer may change sets the source's enable bit (R376). -/
def execTicEnSetWrite (who : Agent) (k : Fin 128) (v : Word) (s : State) : Out :=
  barred s who (.TIC_EN_SET k) (.next (s.wr (.TIC_EN_SET k) (s.rd (.TIC_EN_SET k) ||| (v &&& ticBits s who k false))))

/-- TIC_EN_CLR: each 1 bit that the writer may change clears the source's enable bit (R376). -/
def execTicEnClrWrite (who : Agent) (k : Fin 128) (v : Word) (s : State) : Out :=
  barred s who (.TIC_EN_CLR k) (.next (s.wr (.TIC_EN_SET k) (s.rd (.TIC_EN_SET k) &&& ~~~ (v &&& ticBits s who k false))))

/-- TIC_PEND_SET: each 1 bit that the writer may change is one arrival (R376). -/
def execTicPendSetWrite (who : Agent) (k : Fin 128) (v : Word) (s : State) : Out :=
  let w := v &&& ticBits s who k true
  barred s who (.TIC_PEND_SET k) (.next (overAll (List.range 64) (fun s m => if w.getLsbD m then s.arrive (64 * k.val + m) else s) s))

/-- TIC_PEND_CLR: each 1 bit that the writer may change sets the source's tally to zero (R376). -/
def execTicPendClrWrite (who : Agent) (k : Fin 128) (v : Word) (s : State) : Out :=
  let w := v &&& ticBits s who k false
  barred s who (.TIC_PEND_CLR k) (.next (overAll (List.range 64) (fun s m => if w.getLsbD m then s.setTally (64 * k.val + m) 0 else s) s))

/-- Stack entry `e` of a core's context: register and position. -/
def ticPush (s : State) (c e saved src : Nat) : State :=
  let r := Reg.TIC_STACK c (e / 2)
  let s := s.put r (F.TIC_STACK_VALID (e % 2)) 1
  let s := s.put r (F.TIC_STACK_SAVED (e % 2)) saved
  s.put r (F.TIC_STACK_SOURCE (e % 2)) src

/-- A stack entry freed. -/
def ticPop (s : State) (c e : Nat) : State :=
  let r := Reg.TIC_STACK c (e / 2)
  let s := s.put r (F.TIC_STACK_VALID (e % 2)) 0
  let s := s.put r (F.TIC_STACK_SAVED (e % 2)) 0
  s.put r (F.TIC_STACK_SOURCE (e % 2)) 0

/-- The tally word of source `n` is read: where it is lost, each of its sources has tally 1 and its TIC_SAT bit set
(R447). -/
def tallyCheck (s : State) (n : Nat) : State :=
  let k := n / 8
  let e := s.iodSram 12 0x2600 k
  if e.1 then
    overAll (List.range 8) (fun s j =>
      let m := 8 * k + j
      if sourceExists m then
        (s.setTally m 1).wr (.TIC_SAT (m / 64)) (s.rd (.TIC_SAT (m / 64)) ||| BitVec.ofNat 64 (2 ^ (m % 64)))
      else s) e.2
  else e.2

/-- The claim of core `c` (R379): what the load returns, and the state after it. -/
def claim (s : State) (c : Nat) : Word × State :=
  let s := match s.best c with
    | some n => tallyCheck s n
    | none => s
  match s.best c with
  | none => (0, s)
  | some n =>
    if s.runningPrio c < s.srcPrio n then
      let d := s.get (.TIC_CORE_STATE c) F.TIC_CORE_STATE_DEPTH
      let p := s.srcPrio n
      let t := s.tally n - 1
      let s1 := ticPush s c d (s.runningPrio c) n
      let s2 := s1.put (.TIC_CORE_STATE c) F.TIC_CORE_STATE_DEPTH (d + 1)
      let s3 := s2.put (.TIC_CORE_STATE c) F.TIC_CORE_STATE_RUNNING p
      let s4 := s3.setTally n t
      (BitVec.ofNat 64 (t * 2 ^ 24 + p * 2 ^ 16 + n), s4)
    else (0, s)

/-- VOID_INT of a ledger hand, with its class (R261, R386, R434). -/
def voidInt (s : State) (c : Nat) : State :=
  match s.handOf c with
  | some h => if s.folio.isLedger h then s.raise (.CSQ_LDG_ERR h) 3 22 0x2900 (some h) 1 0 else s
  | none => s

/-- A load of TIC_CLAIM[c] by core `who`, with its destination and virtual address: a claim by core c itself; zero for any other (R379,
R387). In ledger mode it sets VOID_INT (R386), and a load of another core's register raises LEDGER_ACCESS instead (R249).
The response comes down the core's link, requester 17 (R96). -/
def execTicClaim (who c : Fin 384) (o : ClaimOp) (s : State) : Out :=
  if !s.runs who then .next s
  else if who = c then
    let s0 := voidInt s who
    .next (mgmtSend ((claim s0 c).2.setX who o.rd (claim s0 c).1) (0x10 + who / 24) 17)
  else if s.ledgerCore who then .next (ledgerAccess s who o.va)
  else .next (mgmtSend (s.setX who o.rd 0) (0x10 + who / 24) 17)

/-- TIC_EOI[c] written by core c: the top of its stack is popped where it holds the source, and otherwise the write is
ignored and TIC_ERR says why (R380). Any other writer is ignored (R387). -/
def execTicEoi (who : Agent) (c : Fin 384) (v : Word) (s : State) : Out :=
  barred s who (.TIC_EOI c) <|
  if who ≠ .core c then .next s
  else
    let d := s.get (.TIC_CORE_STATE c) F.TIC_CORE_STATE_DEPTH
    if d = 0 then
      .next ((s.put .TIC_ERR F.TIC_ERR_CORE c.val).raise .TIC_ERR 0 21 0x2600 none 1 0)
    else
      let r := Reg.TIC_STACK c ((d - 1) / 2)
      if s.get r (F.TIC_STACK_SOURCE ((d - 1) % 2)) = F.TIC_EOI_SOURCE.get v then
        let saved := s.get r (F.TIC_STACK_SAVED ((d - 1) % 2))
        let s1 := ticPop s c (d - 1)
        let s2 := s1.put (.TIC_CORE_STATE c) F.TIC_CORE_STATE_DEPTH (d - 1)
        .next (s2.put (.TIC_CORE_STATE c) F.TIC_CORE_STATE_RUNNING saved)
      else
        .next ((s.put .TIC_ERR F.TIC_ERR_CORE c.val).raise .TIC_ERR 1 21 0x2600 none 1 0)

/-- The points an addendum that is PENDING affects, those that have switched among them (R85). -/
def addendumPoint (s : State) (p : Nat) : Bool :=
  s.get .FOL_ADD_STATE F.FOL_ADD_STATE_STATE == 3 && s.arc.affected.testBit p

/-- SHADOW_DENIED with its source (R85, R373: source 3). -/
def shadowDenied (s : State) : State := (s.put .FOL_ERR F.FOL_ERR_SHADOW_DENIED 1).arrive 3

/-- TIC_ROUTE[s]: the Archivist writes the shadow copy; a write by any other agent is ignored and sets ROUTE_DENIED (R374), and
SHADOW_DENIED too while a PENDING addendum affects home slice 0, whose shadow content the routes are (R85). -/
def execTicRouteWrite (who : Agent) (src : Fin 8192) (v : Word) (s : State) : Out :=
  barred s who (.TIC_ROUTE src) <|
  if who = .archivist then
    .next (s.wr (.TIC_ROUTE src) ((Reg.TIC_ROUTE src).written (s.rd (.TIC_ROUTE src)) v))
  else
    let s := if addendumPoint s 0x20 then shadowDenied s else s
    .next (s.raise .TIC_ERR 2 21 0x2600 none 1 0)

/-- The line and wake signal of core c reach it (R377, R382, R385): the line drives mip.MEIP or mip.SEIP, and a core in
WFI resumes on the wake signal. The change goes down the core's link as a message of the tally controller, requester 16 (R96).
A core of a ledger hand samples its line at epoch boundaries only (R386). -/
def execTallyLineDeliver (c : Fin 384) (s : State) : Out :=
  if s.ledgerCore c then .next s
  else
    let lvl := s.get (.TIC_CORE_CFG c) F.TIC_CORE_CFG_LEVEL
    let s1 := setMip s c 11 (lvl == 0 && s.line c)
    let s2 := setMip s1 c 9 ((lvl == 1 && s.line c) || (s.core c).seip)
    let k := s2.core c
    let s3 :=
      if s.wake c ∧ k.asleep then
        (s2.setCore c { k with asleep := false })
      else s2
    let s4 := mgmtSend s3 (0x10 + c / 24) 16
    .next (if s4.runs c then takeInterrupt s4 c else s4)

end Sys2Proof.Machine
end

