-- ==== Sys2Proof/Machine/Fabric.lean ====
section
/-! DEFINITION. Arbitration points, deals, COMMIT and switching (R89 to R116). -/

namespace Sys2Proof.Machine

/-! ### Deciding a trick (R99 to R107) -/

/-- A candidate at a trick: requester, hand, rank of R100, whether it is trump traffic in any trick, urgency, and its
index in the order of arrival. -/
structure Cand where
  q     : Nat
  hand  : Nat
  rank  : Nat
  trump : Bool
  urg   : Nat
  idx   : Nat
  deriving DecidableEq, Repr

/-- What a trick carries. -/
inductive Pick
  | dealt (c : Cand)         -- a message of the dealt owner
  | trumped (c : Cand)       -- trump traffic in an open trick
  | granted (c : Cand)       -- the holder's message under its fallback grant
  | refresh                  -- a refresh-reserve trick used for refresh
  | neighbour                -- an open trick of a channel taken for neighbour refresh (R281)
  | dead                     -- R105
  | idle
  deriving DecidableEq, Repr

/-- Whether a point is a memory channel. -/
def isChanPoint (p : Nat) : Bool := decide (0x30 ≤ p)

/-- Whether a requester of a point is of class D (R96). -/
def classD (p q : Nat) : Bool := requesterClassA p q == some false

/-- The first candidate of lowest rank (R100). -/
def selectInHand (l : List Cand) : Option Cand :=
  l.foldl (fun b c =>
    match b with
    | none => some c
    | some d => if c.rank < d.rank then some c else b) none

/-- Distance of requester `q` behind the pointer `last` among `n` requesters (R101). -/
def ptrDist (n last q : Nat) : Nat := (q + n - (last + 1) % n) % n

/-- fallback_pick (R101): highest urgency, then highest PRIO, then first behind the pointer; of the requester chosen, its
first candidate. -/
def fallbackPick (n : Nat) (last : Nat) (prio : Nat → Nat) (cut : Nat → Bool) (l : List Cand) : Option Cand :=
  (l.filter (fun c => !cut c.q)).foldl (fun b c =>
    match b with
    | none => some c
    | some d =>
      if c.q = d.q then b
      else if d.urg < c.urg then some c
      else if c.urg < d.urg then b
      else if prio d.q < prio c.q then some c
      else if prio c.q < prio d.q then b
      else if ptrDist n last c.q < ptrDist n last d.q then some c
      else b) none

/-- The decision of R99. `owner` is the trick's byte, `refresh` whether the channel needs the slot, `neigh` whether
neighbour refresh goes ahead of fallback_pick in open tricks (R281, R284). A holder at a link whose messages all lack a credit
is not among the candidates, so it counts as one that has dropped its request (R105; DESIGN CHOICE, log entry 85). -/
def decideTrick (chan : Bool) (owner : Nat) (refresh neigh : Bool) (holder : Option Nat) (n last : Nat)
    (prio : Nat → Nat) (cut : Nat → Bool) (l : List Cand) : Pick :=
  let fall : Pick :=
    if neigh ∧ owner = 0xFF then .neighbour
    else
      match fallbackPick n last prio cut l with
      | some c => .granted c
      | none => .idle
  match (if owner ≤ 0x3F then selectInHand (l.filter (fun c => c.hand == owner)) else none) with
  | some c => .dealt c
  | none =>
    if owner = 0xFE ∧ refresh then .refresh
    else
      match selectInHand (l.filter (fun c => c.trump)) with
      | some c => .trumped c
      | none =>
        match holder with
        | some q =>
          match l.find? (fun c => c.q == q) with
          | some c => .granted c
          | none => if chan then fall else .dead
        | none => fall

/-- Owner byte of trick `t` of the active deal; open where its word is lost (R447). -/
def trickOwner (s : State) (p t : Nat) : Nat :=
  if (s.point p).lostWord.contains (t / 8) then 0xFF
  else s.get (.FAB_DEAL_ACT p (t / 8)) (F.FAB_DEAL_TRICK (t % 8))

/-- Number of a priority word in structure 10 and among the lost words of a point: its offset in the point's window, in
words (R116; log entry 126). -/
def prioWord (q : Nat) : Nat := 0x100 + q

/-- Priority in force of a requester; its reset value where its word is lost (R447). -/
def activePrio (s : State) (p q : Nat) : Nat :=
  if (s.point p).lostWord.contains (prioWord q) then F.FAB_PRIO_PRIO.get (Reg.FAB_PRIO_ACT p q).reset
  else s.get (.FAB_PRIO_ACT p q) F.FAB_PRIO_PRIO

/-- Whether a requester is cut off at a point (R106). -/
def isCut (s : State) (p q : Nat) : Bool := (s.rd (.FAB_CUTOFF p (q / 64))).getLsbD (q % 64)

/-- Number of tricks of a point's deal (R56). -/
def dealLen (p : Nat) : Nat := if isChanPoint p then 256 else 1024

/-- Points whose tricks follow the IOD fabric clock: down directions and home slices (R94). -/
def iodPoint (p : Nat) : Bool := decide (0x10 ≤ p) && decide (p < 0x30)

/-- The trick of a point: down directions and home slices begin their rounds in the same IOD fabric cycle (R95). -/
def trickOf (s : State) (p : Nat) : Nat := if iodPoint p then s.cycle % 1024 else (s.point p).trick

/-- The round of a point; those of the IOD are counted by FAB_ROUND (R95). -/
def roundOf (s : State) (p : Nat) : Nat := if iodPoint p then s.cycle / 1024 else (s.point p).round

/-- A class D transfer restarts: its staged lines are discarded and the requester sends the whole transfer again, so its
messages arrive anew, behind those that wait (R97, R100; DEDUCED, log entry 86). -/
def restartTransfer (now : Nat) (x : Point) (q : Nat) : Point :=
  let own := x.staging.getD q [] ++ (x.ready.filter (fun r => r.q == q)).map (·.msg)
  { x with
    staging := x.staging.erase q
    owners := x.owners.erase q
    ready := x.ready.filter (fun r => r.q != q) ++ own.map (fun m => ⟨q, m, now⟩) }

/-- Whether a holder has the rest of its class D transfer still to send: an engine starts no transfer while an earlier one of
its own is unfinished (R97). -/
def unfinished (x : Point) (q : Nat) : Bool := x.ready.any (fun r => r.q == q)

/-- The point with the unfinished class D transfer of a requester restarted. -/
def restartOpen (s : State) (p q : Nat) : Point :=
  let x := s.point p
  if classD p q && unfinished x q then restartTransfer s.cycle x q else x

/-- A holder that trump traffic preempts: its grant ends and a class D transfer restarts (R104). -/
def preempt (s : State) (p q : Nat) : State :=
  (s.setPoint p { restartOpen s p q with holder := none, burst := 0 }).inc (.FAB_PREEMPTS p) F.FAB_PREEMPTS_TRUMP

/-- The end of a grant whose burst is used up (R103): at once for class A, with the transfer's last message for
class D. -/
def expireGrant (s : State) (p : Nat) : State :=
  let x := s.point p
  match x.holder with
  | none => s
  | some q =>
    if s.get (.FAB_BURST_ACT p) F.FAB_BURST_BURST_LIMIT ≤ x.burst ∧ ¬ (classD p q ∧ unfinished x q) then
      s.setPoint p { x with holder := none, burst := 0 }
    else s

/-- A class D holder still sending at BURST_LIMIT + 64 is cut off (R106). -/
def cutOff (s : State) (p : Nat) : State :=
  let x := s.point p
  match x.holder with
  | none => s
  | some q =>
    if classD p q ∧ unfinished x q ∧ s.get (.FAB_BURST_ACT p) F.FAB_BURST_BURST_LIMIT + 64 ≤ x.burst then
      let s := s.setPoint p { restartTransfer s.cycle x q with holder := none, burst := 0 }
      let s := s.wr (.FAB_CUTOFF p (q / 64)) (s.rd (.FAB_CUTOFF p (q / 64)) ||| BitVec.ofNat 64 (2 ^ (q % 64)))
      s.fault ⟨20, 0x2500 + p, none, q % 64, 1, 0, 0⟩
    else s

/-- What a decision of a home slice adds to its counts of entries in dealt tricks and under fallback grants. -/
def countPick (s : State) (p : Nat) (pk : Pick) : State :=
  if p < 0x20 ∨ 0x30 ≤ p then s
  else match pk with
    | .dealt _ => s.countBlk (p - 0x10) 0x0202 1
    | .granted _ => s.countBlk (p - 0x10) 0x0203 1
    | _ => s

/-- What a decision does to the grant, before its message goes out (R99, R103 to R105). -/
def applyPick (s : State) (p : Nat) (pk : Pick) : State :=
  let s := countPick s p pk
  let x := s.point p
  match pk with
  | .dealt c =>
    match x.holder with
    | some q => if x.holder != some c.q && s.folio.isLedger c.hand then preempt s p q else s
    | none => s
  | .trumped _ =>
    match x.holder with
    | some q => preempt s p q
    | none => s
  | .granted c =>
    if x.holder = some c.q then s.setPoint p { x with burst := x.burst + 1 }
    else s.setPoint p { x with holder := some c.q, burst := 1, last := some c.q }
  | .dead =>
    let s := (s.setPoint p { x with holder := none, burst := 0 }).inc (.FAB_DEAD p) F.FAB_DEAD_DEAD
    if 0x20 ≤ p then s.countBlk (p - 0x10) 0x0208 1 else s
  | .refresh => s
  | .neighbour | .idle => s.setPoint p { x with holder := if isChanPoint p then none else x.holder }

/-- The trick of a point has been decided or has passed; at an up direction or a channel a new round begins after the last
one. -/
def nextTrick (s : State) (p : Nat) : State :=
  let x := s.point p
  if iodPoint p then s.setPoint p { x with next := s.cycle + 1 }
  else if x.trick + 1 < dealLen p then s.setPoint p { x with trick := x.trick + 1 }
  else s.setPoint p { x with trick := 0, round := x.round + 1 }

/-- The start of a trick: at a point of the IOD clock that has decided the trick of this cycle, the next cycle begins
(DESIGN CHOICE, log entry 1). -/
def startTrick (s : State) (p : Nat) : State :=
  if iodPoint p ∧ s.cycle < (s.point p).next then { s with cycle := (s.point p).next } else s

/-- A word of an active copy is read: where it is lost, it stays so until the Archivist's reload at the second round boundary
(R447). -/
def wordCheck (p : Nat) (s : State) (k : Nat) : State :=
  let r := s.iodSram 10 (0x2500 + p) k
  if r.1 then
    let x := r.2.point p
    r.2.setPoint p { x with lostWord := k :: x.lostWord, reload := roundOf s p + 2 }
  else r.2

/-- The deal word of the trick is read: where it is lost, its tricks are open (R447). -/
def dealCheck (s : State) (p : Nat) : State := wordCheck p s (trickOf s p / 8)

/-- Whether a decision made a new grant: it has read the priorities. -/
def newGrant (holder : Option Nat) : Pick → Bool
  | .granted c => holder != some c.q
  | _ => false

/-- A trick decided from the words of the active copies: the deal word is read first, and the candidates' priority words where
the trick goes to a fallback pick (R101, R447). Answers the state after those checks, and the decision. -/
def decideChecked (s : State) (p : Nat) (l : List Cand) (decide : State → Pick) : State × Pick :=
  let s := dealCheck s p
  if newGrant (s.point p).holder (decide s) then
    let s := overAll (l.map (fun c => prioWord c.q)) (wordCheck p) s
    (s, decide s)
  else (s, decide s)

/-! ### Credits (R219) -/

/-- The key of a credit count at a die: slice, class and hand. -/
def creditKey (n cls hand : Nat) : Nat := (n * 4 + cls) * 64 + hand

/-- Whether a hand has reserved credits at a slice for a die: it holds a trick at the slice and has cores on the die. -/
def hasReserve (s : State) (d n hand : Nat) : Bool :=
  (s.coresOf hand).any (fun c => c / 24 == d) &&
  (List.range 128).any (fun k => (List.range 8).any (fun j =>
    s.get (.FAB_DEAL_ACT (0x20 + n) k) (F.FAB_DEAL_TRICK j) == hand))

/-- Credits of a class taken beyond the reserves: the shared ones in use. -/
def sharedUse (s : State) (d n cls : Nat) : Nat :=
  ((List.range 64).map (fun h =>
    (s.die d).credits.getD (creditKey n cls h) 0 - (if hasReserve s d n h then 4 else 0))).sum

/-- Whether a message at a link point of die `d` has a credit of the receiving buffer: REQ and WB from their hand's
reserve of 4 or the 16 shared ones, SNP from the 16 of its slice; RSP, DAT and management messages need none (R219). -/
def hasCredit (s : State) (d : Nat) (m : Msg) (q : Nat) : Bool :=
  if m.op = .mgmt then true
  else
  match opClass m.op with
  | 0 | 1 =>
    let n := sliceOf s m.line
    let used := (s.die d).credits.getD (creditKey n (opClass m.op) m.hand) 0
    (hasReserve s d n m.hand && decide (used < 4)) || decide (sharedUse s d n (opClass m.op) < 16)
  | 2 => decide ((s.die d).credits.getD (creditKey q 2 0) 0 < 16)
  | _ => true

/-- A message that leaves takes its credit. -/
def takeCredit (s : State) (d : Nat) (m : Msg) (q : Nat) : State :=
  let k := if m.op = .mgmt then none else match opClass m.op with
    | 0 | 1 => some (creditKey (sliceOf s m.line) (opClass m.op) m.hand)
    | 2 => some (creditKey q 2 0)
    | _ => none
  match k with
  | some k => let x := s.die d; s.setDie d { x with credits := x.credits.set k (x.credits.getD k 0 + 1) }
  | none => s

/-- The messages that a point's arbiter sees as candidates: at a link, only those with a credit are ready (R219). -/
def candsOf (s : State) (p : Nat) (l : List Ready) : List Cand :=
  (l.zipIdx.filter (fun e => decide (0x20 ≤ p) || hasCredit s (p % 16) e.1.msg e.1.q)).map
    (fun e => ⟨e.1.q, e.1.msg.hand, opRank e.1.msg.op, opTrump e.1.msg.op, 0, e.2⟩)

/-- The candidate a pick sends. -/
def Pick.sent : Pick → Option Cand
  | .dealt c | .trumped c | .granted c => some c
  | _ => none

/-! ### Parcels (R23, R102) -/

/-- Takes the message of one index out of a list. -/
def dropAt {α : Type} (l : List α) (i : Nat) : List α := l.take i ++ l.drop (i + 1)

/-- Fills one control slot by R102: RSP of any hand, then SNP with a credit, oldest first. -/
def fillSlot (s : State) (d : Nat) (l : List Ready) : Option (Ready × List Ready) :=
  match (l.zipIdx).find? (fun e => opClass e.1.msg.op == 3) with
  | some e => some (e.1, dropAt l e.2)
  | none =>
    match (l.zipIdx).find? (fun e => opClass e.1.msg.op == 2 && hasCredit s d e.1.msg e.1.q) with
    | some e => some (e.1, dropAt l e.2)
    | none => none

/-- Control slots filled up to a count: the messages, the state with their credits taken, the messages left. -/
def fillSlots (d : Nat) : Nat → State → List Ready → List Msg × State × List Ready
  | 0, s, l => ([], s, l)
  | n + 1, s, l =>
    match fillSlot s d l with
    | none => ([], s, l)
    | some (r, l') =>
      let t := fillSlots d n (takeCredit s d r.msg r.q) l'
      (r.msg :: t.1, t.2.1, t.2.2)

/-- The shadow words that management messages carry reach the die; the COMMIT message carries none. -/
def receiveWords (rcvd : NMap Word) (l : List MgmtMsg) : NMap Word :=
  l.flatten.foldl (fun m e => m.set e.1 e.2) rcvd

/-- The three control slots of a parcel from headers with their slot numbers; a slot without one is empty (R26, R27). -/
def slots (l : List (Nat × BitVec 128)) : List (BitVec 128) :=
  (List.range 3).map (fun k => match l.find? (fun e => e.1 == k) with | some e => e.2 | none => 0)

/-- The parcel of one trick of a link direction is launched: a winner that is a control message in control slot 0; management
messages in slot 2 and then in what is left (R482); then RSP and SNP in the slots still empty (R102). It takes the next
sequence number and a place in the replay buffer (R29, R30). -/
def launch (s : State) (d : Nat) (dir : Dir) (wr : Option Ready) : State :=
  let p := match dir with | .up => d | .dn => 0x10 + d
  let win := wr.map (·.msg)
  let s := match wr with | some r => takeCredit s d r.msg r.q | none => s
  let x := s.point p
  let isCtl := match win with | some m => !opData m.op | none => false
  let free := if isCtl then [2, 1] else [2, 0, 1]
  let upP := s.point d
  let mg := match dir with | .up => [] | .dn => upP.mgmt.take free.length
  let s := match dir with
    | .up => s
    | .dn => s.setPoint d { upP with mgmt := upP.mgmt.drop mg.length }
  let rest := (List.range 3).filter (fun k => (free.drop mg.length).contains k)
  let f := fillSlots d rest.length s x.ready
  let ctl := (if isCtl then win.toList.map (fun m => (0, msgHeader m)) else []) ++ rest.zip (f.1.map msgHeader)
  let bits := parcelOf (if isCtl then none else win) (slots ctl)
  let s := f.2.1
  let s := s.setPoint p { s.point p with ready := f.2.2 }
  let s := match dir with
    | .up => (s.countBlk d 0x0106 (if win.isSome || !f.1.isEmpty then 1 else 0)).countBlk d 0x0105
        (if win.any (fun (m : Msg) => opClass m.op == 1) then 1 else 0)
    | .dn => s
  let l := s.link d dir
  s.setLink d dir { l with
    nextSeq := (l.nextSeq + 1) % 32
    replay := l.replay ++ [⟨l.nextSeq, bits, mg⟩]
    sent := some (BitVec.ofNat 8 l.nextSeq, bits) }

/-- Link states of DL_STATUS. -/
def linkState (s : State) (d : Nat) : Nat := s.get (.DL_STATUS d) F.DL_STATUS_STATE
def setLinkState (s : State) (d n : Nat) : State := s.put (.DL_STATUS d) F.DL_STATUS_STATE n

/-- Whether a link carries traffic: UP, or REMAP, in which only the direction that is remapped stalls (R38). -/
def linkUp (s : State) (d : Nat) : Bool := linkState s d == 2 || linkState s d == 3

/-- Die and direction of a link point. -/
def linkOf (p : Nat) : Nat × Dir := if p < 0x10 then (p, .up) else (p - 0x10, .dn)

/-- Whether a link direction launches new traffic: no remap and no replay runs, and the replay buffer has a place (R30, R31,
R38). -/
def launching (s : State) (d : Nat) (dir : Dir) : Bool :=
  let l := s.link d dir
  l.resend.isEmpty && l.remap.isNone && decide (l.replay.length < 16)

/-- A parcel time in which a sender takes no new message: the next parcel of a replay goes out again with the replay flag set,
from the replay buffer and in order (R31); in a remap the training pattern does (R38). The trick passes, trump traffic waits
too (DEDUCED, log entry 87). -/
def resendParcel (s : State) (d : Nat) (dir : Dir) : State :=
  let l := s.link d dir
  match l.remap, l.resend with
  | none, q :: t =>
    let e := (l.replay.find? (fun x => x.seq == q)).getD SentParcel.idle
    s.setLink d dir { l with resend := t, sent := some (BitVec.ofNat 8 (32 + q), e.bits) }
  | _, _ => s

/-- A message that a point has picked at a home slice joins the staging buffer of its class D requester, under the owner that
its trick gives the transfer (R97, R113). -/
def stageMsg (s : State) (p : Nat) (pk : Pick) (r : Ready) : State :=
  let x := s.point p
  let own := match pk with | .dealt c => some c.hand | _ => none
  sramWrite (s.setPoint p { x with
      staging := x.staging.set r.q (x.staging.getD r.q [] ++ [r.msg])
      owners := x.owners.set r.q own })
    13 (0x2200 + (p - 0x20)) (r.msg.line * 64)

/-- The decision of one trick of a point other than a memory channel (R99). -/
def decidePoint (p : Nat) (s : State) : Pick :=
  let x := s.point p
  decideTrick false (trickOwner s p (trickOf s p)) false false x.holder (lastRequester p + 1)
    (x.last.getD (lastRequester p)) (activePrio s p) (isCut s p) (candsOf s p x.ready)

/-- The decision of one trick of a point other than a memory channel, carried out (R99): its effect on the grant, the winner
sent. At a die link the winner leaves in a parcel; at a home slice a class D message enters its staging buffer (R97) and any
other enters the slice pipeline. A grant whose burst is used up ends with the trick (R103, R106). -/
def playTrick (s : State) (p : Nat) : State :=
  let e := decideChecked s p (candsOf s p (s.point p).ready) (decidePoint p)
  let s := e.1
  let pk := e.2
  let x := s.point p
  let w := pk.sent.bind (fun c => x.ready[c.idx]?)
  let s := s.setPoint p { x with
    ready := match pk.sent with | some c => dropAt x.ready c.idx | none => x.ready
    winner := w }
  let s := applyPick s p pk
  let s :=
    if p < 0x20 then launch s (linkOf p).1 (linkOf p).2 w
    else
      match w with
      | some r => if classD p r.q then stageMsg s p pk r else s
      | none => s
  cutOff (expireGrant s p) p

/-- One trick of a point other than a memory channel. The points of a link that is not up arbitrate nothing (R115). -/
def fabricTrick (s : State) (p : Nat) : State :=
  let s := startTrick s p
  if 0x20 ≤ p then nextTrick (playTrick s p) p
  else if ¬ linkUp s (linkOf p).1 then s
  else if launching s (linkOf p).1 (linkOf p).2 then nextTrick (playTrick s p) p
  else nextTrick (resendParcel s (linkOf p).1 (linkOf p).2) p

/-- FALLBACK_GRANT_EXPIRE: the grant of a point whose burst is used up ends (R103). -/
def execFallbackGrantExpire (p : Fin 64) (s : State) : Out := .next (expireGrant s p)

/-- CLASS_D_CUTOFF: the class D holder of a point is cut off at BURST_LIMIT + 64 (R106). -/
def execClassDCutoff (p : Fin 64) (s : State) : Out := .next (cutOff s p)

/-! ### Deals, COMMIT and the switch (R108 to R116) -/

/-- The shadow registers of a point with the registers of their active copies (R15): deal words, BURST_LIMIT,
priorities; at home slice 0 also TIC_ROUTE (R374). The active copy of a priority whose q has no requester, which R116 has
ignored, does not follow its shadow (DESIGN CHOICE, log entry 89). -/
def shadowPairs (s : State) (p : Nat) : List (Reg × Reg) :=
  (List.range (dealLen p / 8)).map (fun k => (.FAB_DEAL p k, .FAB_DEAL_ACT p k))
  ++ [(.FAB_BURST p, .FAB_BURST_ACT p)]
  ++ (List.range (lastRequester p + 1)).map (fun q => (.FAB_PRIO p q, .FAB_PRIO_ACT p q))
  ++ (if p = 0x20 then
        s.regs.filterMap (fun e =>
          if 0xF00006000000 ≤ e.1 ∧ e.1 < 0xF00006010000 then
            some (Reg.TIC_ROUTE ((e.1 - 0xF00006000000) / 8), Reg.TIC_ROUTE_ACT ((e.1 - 0xF00006000000) / 8))
          else none)
      else [])

/-- The owner bytes of a point's shadow deal. -/
def shadowDeal (s : State) (p : Nat) : List Nat :=
  (List.range (dealLen p)).map (fun t => s.get (.FAB_DEAL p (t / 8)) (F.FAB_DEAL_TRICK (t % 8)))

/-- Whether a hand in ledger mode must hold a trick at a point (R57). -/
def needsTrick (s : State) (h p : Nat) : Bool :=
  s.folio.isLedger h &&
  (if p < 0x20 then (s.coresOf h).any (fun c => c / 24 == p % 16)
   else if p < 0x30 then true
   else s.folio.chanEnabled (p - 0x30))

/-- The check of R110 on a point's shadow deal. -/
def dealPasses (s : State) (p : Nat) : Bool :=
  let d := shadowDeal s p
  (List.range 64).all (fun h => !needsTrick s h p || d.contains h)
  && (!isChanPoint p || decide (16 ≤ d.count 0xFE))

/-- The management messages of one COMMIT of an up-direction point, in order (R482). -/
def commitMsgs (s : State) (p : Nat) : List MgmtMsg :=
  (List.range 128).map (fun k => [((Reg.FAB_DEAL p k).key, s.rd (.FAB_DEAL p k))])
  ++ [[((Reg.FAB_BURST p).key, s.rd (.FAB_BURST p))]]
  ++ [(List.range 14).map (fun q => ((Reg.FAB_PRIO p q).key, s.rd (.FAB_PRIO p q))),
      (List.range 13).map (fun q => ((Reg.FAB_PRIO p (q + 14)).key, s.rd (.FAB_PRIO p (q + 14))))]
  ++ [[]]

/-- COMMIT of one point (R108 to R110): refused where its shadow deal fails, otherwise pending. At home slices, down
directions and channels COMMIT has arrived with the write; an up direction is sent its shadow content first. A COMMIT for a
point of a fenced link is ignored: FAB_COMMIT_PEND and FAB_COMMIT_REFUSED stay (DESIGN CHOICE, log entry 88; R115 says only
that such points stop arbitrating). -/
def commitPoint (s : State) (p : Nat) : State :=
  let bit := BitVec.ofNat 64 (2 ^ p)
  if (s.rd .FAB_COMMIT_PEND).getLsbD p then s
  else if p < 0x20 ∧ s.get (.DL_STATUS (p % 16)) F.DL_STATUS_STATE = 4 then s
  else if !dealPasses s p then
    (s.wr .FAB_COMMIT_REFUSED (s.rd .FAB_COMMIT_REFUSED ||| bit)).fault ⟨19, 0x2500 + p, none, p, 1, 0, 0⟩
  else
    let s := s.wr .FAB_COMMIT_PEND (s.rd .FAB_COMMIT_PEND ||| bit)
    let x := s.point p
    if p < 0x10 then s.setPoint p { x with mgmt := x.mgmt ++ commitMsgs s p, commit := none, commitIn := false }
    else s.setPoint p { x with commit := some (roundOf s p, trickOf s p) }

/-- Whether an agent may write FAB_COMMIT and FAB_PRIO (R111). -/
def fabWriter (s : State) (who : Agent) : Bool := who == .archivist || s.reaches 1 who

/-- FAB_COMMIT (R108 to R111): each bit commits its point; while an addendum is PENDING, a bit of another agent for a
point that it affects is ignored and sets SHADOW_DENIED (R85). -/
def execFabCommit (who : Agent) (v : Word) (s : State) : Out :=
  barred s who .FAB_COMMIT <|
  if !fabWriter s who then .next s
  else
    .next (overAll (List.range 64) (fun s p =>
      if !v.getLsbD p then s
      else if who ≠ .archivist ∧ addendumPoint s p then shadowDenied s
      else commitPoint s p) s)

/-- COMMIT_ARRIVE_UP: the COMMIT message of R482 is in the die's receiver fabric register, so COMMIT has arrived at the
up direction. It has no effect before, or with no COMMIT pending. -/
def execCommitArriveUp (d : Fin 16) (s : State) : Out :=
  let x := s.point d.val
  if (s.rd .FAB_COMMIT_PEND).getLsbD d.val ∧ x.commit = none ∧ x.commitIn then
    .next (s.setPoint d.val { x with commit := some (x.round, x.trick), commitIn := false })
  else .next s

/-- One register of a point copied into its active copy; at an up direction what the die has received counts. -/
def switchReg (rcvd : NMap Word) (up : Bool) (s : State) (e : Reg × Reg) : State :=
  let s := match e.2 with
    | .FAB_DEAL_ACT p k => sramWrite s 10 (0x2500 + p) k
    | _ => s
  if up then
    match rcvd.get? e.1.key with
    | some w => s.wr e.2 w
    | none => s
  else s.wr e.2 (s.rd e.1)

/-- The transfers in progress at the boundary of a switch: each is preempted unless its owner is TRICK[0] of the new deal, and
a grant it had ends (R113). -/
def boundaryPreempt (s : State) (p : Nat) (changed : Bool) : State :=
  let new := s.get (.FAB_DEAL_ACT p 0) (F.FAB_DEAL_TRICK 0)
  overAll (s.point p).owners (fun s e =>
    let x := s.point p
    let cont : Bool := match e.2 with | some h => new == h | none => new == 0xFF
    if changed && !cont && unfinished x e.1 then
      let y := restartTransfer s.cycle x e.1
      let y := if x.holder = some e.1 then { y with holder := none, burst := 0 } else y
      (s.setPoint p y).inc (.FAB_PREEMPTS p) F.FAB_PREEMPTS_BOUNDARY
    else s) s

/-- The switch of a point at its round boundary (R108, R113): every shadow register is copied into its active copy, the
transfer in progress is judged, FAB_COMMIT_PEND clears. -/
def switchPoint (s : State) (p : Nat) : State :=
  let x := s.point p
  let pairs := shadowPairs s p
  let changed := (List.range (dealLen p / 8)).any (fun k =>
    decide (s.rd (.FAB_DEAL p k) ≠ s.rd (.FAB_DEAL_ACT p k)))
  let s := overAll pairs (switchReg x.rcvd (decide (p < 0x10))) s
  let s := s.setPoint p { s.point p with commit := none, commitIn := false, rcvd := [], lostWord := [] }
  let s := boundaryPreempt s p changed
  s.wr .FAB_COMMIT_PEND (s.rd .FAB_COMMIT_PEND &&& ~~~ BitVec.ofNat 64 (2 ^ p))

/-- Whether a point is at the round boundary at which it switches: trick 0, in a round that began strictly after the
trick in which COMMIT arrived (R108). -/
def atSwitch (s : State) (p : Nat) : Bool :=
  let x := s.point p
  match x.commit with
  | some (r, _) => trickOf s p == 0 && decide (r < roundOf s p) && (s.rd .FAB_COMMIT_PEND).getLsbD p
  | none => false

/-- A write of a shadow register of an up direction after its FAB_COMMIT goes to the die as a further message (R482). -/
def lateShadow (s : State) (p : Nat) (r : Reg) : State :=
  if p < 0x10 ∧ (s.rd .FAB_COMMIT_PEND).getLsbD p then
    let x := s.point p
    s.setPoint p { x with mgmt := x.mgmt ++ [[(r.key, s.rd r)]] }
  else s

/-- The whole shadow content of an up direction whose COMMIT is pending goes to the die again, behind what waits: the Archivist
has rewritten it (R82, R482). -/
def resendShadow (s : State) (p : Nat) : State :=
  if p < 0x10 ∧ (s.rd .FAB_COMMIT_PEND).getLsbD p then
    let x := s.point p
    s.setPoint p { x with mgmt := x.mgmt ++ (commitMsgs s p).dropLast }
  else s

/-- A deal or burst write that is ignored: the point's FAB_BAD_WRITE bit with class 19 (R111, R112), and SHADOW_DENIED where
another agent than the Archivist writes a point that a PENDING addendum affects (R85). -/
def badWrite (s : State) (who : Agent) (p : Nat) : State :=
  let s := if who ≠ .archivist ∧ addendumPoint s p then shadowDenied s else s
  (s.wr .FAB_BAD_WRITE (s.rd .FAB_BAD_WRITE ||| BitVec.ofNat 64 (2 ^ p))).fault ⟨19, 0x2500 + p, none, p, 1, 0, 0⟩

/-- FAB_DEAL: the Archivist only; a value with a reserved code, an absent hand, or 0xFE off a channel is ignored in
whole (R111, R112). -/
def execFabDealWrite (who : Agent) (p : Fin 64) (k : Fin 128) (v : Word) (s : State) : Out :=
  barred s who (.FAB_DEAL p k) <|
  let ok := (List.range 8).all (fun j =>
    let o := (F.FAB_DEAL_TRICK j).get v
    if o ≤ 0x3F then (s.folio.hand? o).isSome else o == 0xFF || (o == 0xFE && isChanPoint p.val))
  if who = .archivist ∧ ok ∧ (isChanPoint p.val → k.val < 32) then
    .next (lateShadow (s.wr (.FAB_DEAL p k) v) p (.FAB_DEAL p k))
  else if isChanPoint p.val ∧ 32 ≤ k.val then .next s
  else .next (badWrite s who p)

/-- FAB_BURST: the Archivist only, 1 to 1,024 (R111, R112). -/
def execFabBurstWrite (who : Agent) (p : Fin 64) (v : Word) (s : State) : Out :=
  barred s who (.FAB_BURST p) <|
  if who = .archivist ∧ 1 ≤ v.toNat ∧ v.toNat ≤ 1024 then
    .next (lateShadow (s.put (.FAB_BURST p) F.FAB_BURST_BURST_LIMIT v.toNat) p (.FAB_BURST p))
  else .next (badWrite s who p)

/-- FAB_PRIO: H[0], hands that reach the fabric block and the Archivist; denied at a point that a PENDING addendum
affects (R85, R111). -/
def execFabPrioWrite (who : Agent) (p : Fin 64) (q : Fin 128) (v : Word) (s : State) : Out :=
  barred s who (.FAB_PRIO p q) <|
  if !fabWriter s who then .next s
  else if who ≠ .archivist ∧ addendumPoint s p then .next (shadowDenied s)
  else .next (lateShadow (s.put (.FAB_PRIO p q) F.FAB_PRIO_PRIO (F.FAB_PRIO_PRIO.get v)) p (.FAB_PRIO p q))

/-- FAB_CUTOFF: a W1C write gives the requesters their fallback grants back (R106). -/
def execFabCutoffClear (who : Agent) (p : Fin 64) (k : Fin 2) (v : Word) (s : State) : Out :=
  barred s who (.FAB_CUTOFF p k) <|
  if !fabWriter s who then .next s
  else .next (s.wr (.FAB_CUTOFF p k) (s.rd (.FAB_CUTOFF p k) &&& ~~~ v))

/-- CLEAR_LOST in FAB_HAND[h], from H[0] only, while no core of the hand is STARTING, RUNNING or STOPPING: the hand
becomes STOPPED, and its LOST cores on a die that does not rejoin go to STOPPED (R91, R130). -/
def execClearLost (who : Agent) (h : Fin 64) (v : Word) (s : State) : Out :=
  if s.isHouse who ∧ v.getLsbD 63 ∧ s.handLost h
      ∧ ¬ (s.coresOf h).any (fun c => s.coreState c == 2 || s.coreState c == 3 || s.coreState c == 4) then
    .next (overAll (s.coresOf h) (fun s c =>
      if s.coreState c = 5 ∧ s.get (.FLT_DIE (c / 24)) F.FLT_DIE_STATE ≠ 3 then s.setCoreState c 1 else s)
      (s.put (.FAB_HAND h) F.FAB_HAND_STATE 1))
  else .next s

end Sys2Proof.Machine
end

