-- ==== Sys2Proof/Machine/Memory.lean ====
section
/-! DEFINITION. DRAM: check bits and backing words (R210, R275, R276, R485), address mapping (R266, R267, R272 to R274),
the cells of the ranks. -/

namespace Sys2Proof.Machine

/-! ### Check bits (R276) -/

/-- The positions from 3 up that are not powers of two, for the data bits in ascending order. -/
def dataPositions : List Nat := (List.range 72).filter (fun p => decide (3 ≤ p) && decide (p &&& (p - 1) ≠ 0))

/-- Check bits over `n` data bits with `k` position checks: bits k-1:0, and the overall parity in bit k (R276). -/
def hamming (k n data : Nat) : Nat :=
  let pos := (dataPositions.take n).zipIdx.filter (fun e => data.testBit e.2)
  let x := pos.foldl (fun acc e => acc ^^^ e.1) 0 % 2 ^ k
  x + (if (parity data + parity x) % 2 = 1 then 2 ^ k else 0)

/-- What a check of a protected word finds. -/
inductive Ecc
  | good (data : Nat)
  | corrected (data synd : Nat)
  | bad (synd : Nat)
  deriving DecidableEq, Repr

/-- A word of `n` data bits and its check bits as stored (R277): one wrong bit is corrected, more are uncorrectable. -/
def eccCheck (k n data check : Nat) : Ecc :=
  let synd := (hamming k n data % 2 ^ k) ^^^ (check % 2 ^ k)
  let odd := (parity data + parity check) % 2 = 1
  if synd = 0 then (if odd then .corrected data (2 ^ k) else .good data)
  else if odd then
    if synd &&& (synd - 1) = 0 then .corrected data synd
    else
      match (dataPositions.take n).zipIdx.find? (fun e => e.1 == synd) with
      | some e => .corrected (data ^^^ 2 ^ e.2) synd
      | none => .bad synd
  else .bad synd

/-! ### The stored line (R275) -/

/-- The low bits of a backing word: POISON, CAUSE, HAND, NOHAND (R210). -/
def backing (poison : Bool) (cause hand : Nat) (nohand : Bool) : Nat :=
  (if poison then 1 else 0) + cause % 8 * 2 + hand % 64 * 16 + (if nohand then 1024 else 0)

/-- The whole backing word: checks 0 to 5 in bits 61:56, overall parity in bit 62, bit 63 zero (R276, R485). -/
def backingWord (b : Nat) : Nat := b % 2 ^ 56 + hamming 6 56 (b % 2 ^ 56) * 2 ^ 56

/-- A line as stored: 64 data bytes, 8 check bytes, 8 backing bytes. -/
def rawLine (data : LineData) (b : Nat) : BitVec 640 :=
  let checks := (List.range 8).foldl (fun acc w =>
    acc + hamming 7 64 ((data.extractLsb' (64 * w) 64).toNat) * 2 ^ (8 * w)) 0
  data.zeroExtend 640 ||| (BitVec.ofNat 640 checks <<< 512) ||| (BitVec.ofNat 640 (backingWord b) <<< 576)

/-- What a checked read of a stored line finds (R277). -/
structure LineRead where
  data   : LineData
  poison : Bool
  cause  : Nat
  hand   : Nat
  nohand : Bool
  fixed  : Nat          -- words corrected
  ue     : Nat          -- data words uncorrectable
  backUe : Bool
  word   : Nat          -- word of the last error (R292, MC_ERR_ADDR)
  synd   : Nat
  deriving DecidableEq, Repr

/-- A read with its checks: single-bit errors corrected, an uncorrectable word or backing word poisons the line (R277). -/
def checkLine (raw : BitVec 640) : LineRead :=
  let bk := (raw.extractLsb' 576 64).toNat
  let e := eccCheck 6 56 (bk % 2 ^ 56) (bk / 2 ^ 56 % 2 ^ 7)
  let b := match e with | .good d => d | .corrected d _ => d | .bad _ => backing true 2 0 true
  let r0 : LineRead := ⟨0, b % 2 == 1, b / 2 % 8, b / 16 % 64, b / 1024 % 2 == 1,
    (match e with | .corrected _ _ => 1 | _ => 0), 0, (match e with | .bad _ => true | _ => false), 0,
    (match e with | .good _ => 0 | .corrected _ y => y | .bad y => y)⟩
  let r := (List.range 8).foldl (fun r w =>
    let d := (raw.extractLsb' (64 * w) 64).toNat
    let put (n : Nat) : LineData := r.data ||| (BitVec.ofNat 512 n <<< (64 * w))
    match eccCheck 7 64 d ((raw.extractLsb' (512 + 8 * w) 8).toNat) with
    | .good n => { r with data := put n }
    | .corrected n y => { r with data := put n, fixed := r.fixed + 1, word := w, synd := y }
    | .bad y => { r with data := put d, ue := r.ue + 1, word := w, synd := y }) r0
  if r.ue > 0 then { r with poison := true, cause := if r.poison then r.cause else 2 } else r

/-! ### Cells -/

/-- The line of boot phase 6: zero data, valid checks, backing word without a hand (R76, R210). -/
def fillRaw : BitVec 640 := BitVec.ofNat 640 (backingWord (backing false 0 0 true) * 2 ^ 576)

/-- The line of a FAILED rank that passed its test: zero data, POISON 1, CAUSE 2, no hand (R210, R290). -/
def failRaw : BitVec 640 := BitVec.ofNat 640 (backingWord (backing true 2 0 true) * 2 ^ 576)

/-- The unlisted line at a line key: failed-and-tested ranks have keys from 2^37 up. -/
def blankRaw (key : Nat) : BitVec 640 := if key < 2 ^ 37 then fillRaw else failRaw

/-- What an unlisted cell reads as. -/
def cellDefault (a : Nat) : Byte := (blankRaw (a / 80)).extractLsb' (8 * (a % 80)) 8

/-- The stored line at a line key. -/
def rawAt (m : Dram) (key : Nat) : BitVec 640 :=
  (m.filter (fun c => decide (80 * key ≤ c.1) && decide (c.1 < 80 * key + 80))).foldl (fun (r : BitVec 640) (c : Host.Cell) =>
    let sh := 8 * (c.1 - 80 * key)
    (r &&& ~~~ (BitVec.ofNat 640 0xFF <<< sh)) ||| ((c.2.zeroExtend 640) <<< sh)) (blankRaw key)

/-- The cells of one line that differ from what an unlisted cell reads as, ascending. -/
def runOf (key : Nat) (raw : BitVec 640) : Dram :=
  ((List.range 80).map (fun i => (80 * key + i, (raw.extractLsb' (8 * i) 8 : Byte)))).filter
    (fun c => c.2 != cellDefault c.1)

/-- A line stored at a line key. -/
def setRaw (m : Dram) (key : Nat) (raw : BitVec 640) : Dram :=
  m.filter (fun c => decide (c.1 < 80 * key)) ++ runOf key raw ++ m.filter (fun c => decide (80 * key + 80 ≤ c.1))

/-- The canonical form: addresses strictly rising, no cell equal to what an unlisted one reads as. -/
def Memory.wf : Dram → Bool
  | [] => true
  | [c] => c.2 != cellDefault c.1
  | c :: d :: t => c.2 != cellDefault c.1 && decide (c.1 < d.1) && Memory.wf (d :: t)

/-! ### Address mapping (R266, R267, R272 to R274) -/

/-- The enabled channels, ascending: their places are the channel indices (R272). -/
def enabledChans (s : State) : List Nat :=
  (List.range 16).filter (fun n => s.bit (.MC_CFG n) F.MC_CFG_ENABLE)

/-- The channel whose figures stand for all of them (R265, R267). -/
def chan0 (s : State) : Nat := (enabledChans s).headD 0

/-- ROW_BITS of the fitted devices (R266), 16 to 18. It is taken from MC_DIMM: MC_CFG.ROW_BITS has four bits and shows
only the low ones (DESIGN CHOICE). -/
def dimmRowBits (density width : Nat) : Nat := 16 + density + (1 - width)

def rowBits (s : State) : Nat :=
  dimmRowBits (s.get (.MC_DIMM (chan0 s) 0) F.MC_DIMM_DENSITY) (s.get (.MC_DIMM (chan0 s) 0) F.MC_DIMM_WIDTH)

def chBits (s : State) : Nat := s.get (.MC_CFG (chan0 s)) F.MC_CFG_CH_BITS

/-- Usable ranks of a channel (R267). -/
def usable (s : State) : Nat :=
  let r := s.get (.MC_CFG (chan0 s)) F.MC_CFG_RANKS
  if s.get (.MC_CFG (chan0 s)) F.MC_CFG_SPARE = 0xF then r else r - 1

/-- Installed DRAM in bytes (R267). -/
def installed (s : State) : Nat :=
  if enabledChans s = [] then 0 else 2 ^ chBits s * usable s * 2 ^ (18 + rowBits s)

/-- The masks in the order of R274: channel masks, MASK_SC, MASK_BG, MASK_BA. -/
def maskRows (s : State) (n : Nat) : List Nat :=
  (List.range (chBits s)).map (fun k => (s.rd (.MC_CH_MASK n k)).toNat)
  ++ (List.range 6).map (fun k => (s.rd (.MC_MASK n k)).toNat)

/-- One column of the pivot search: row `r` takes column `j`, and it is cleared from every other row (R274). -/
def pivotStep (j : Nat) (st : List (Nat × Bool) × List Nat) : List (Nat × Bool) × List Nat :=
  match st.1.find? (fun e => !e.2 && e.1.testBit j) with
  | none => st
  | some r =>
    let idx := st.1.findIdx (fun e => !e.2 && e.1.testBit j)
    (st.1.zipIdx.map (fun e =>
      if e.2 = idx then (r.1, true) else if e.1.1.testBit j then (e.1.1 ^^^ r.1, e.1.2) else e.1), j :: st.2)

/-- The pivot bits of a list of masks, found from bit 51 down to bit 6 (R274). -/
def pivots (rows : List Nat) : List Nat :=
  ((List.range 46).foldl (fun st k => pivotStep (51 - k) st) (rows.map (fun r => (r, false)), [])).2

/-- The bits of A[51:6] that are no pivots, packed in ascending order: N of R274. -/
def packBits (a : Nat) (ps : List Nat) : Nat :=
  ((List.range 46).foldl (fun st k =>
    if ps.contains (6 + k) then st
    else (st.1 + (if a.testBit (6 + k) then 2 ^ st.2 else 0), st.2 + 1)) (0, 0)).1

/-- The place of a line: channel, subchannel, bank group, bank, row, column and usable rank index. -/
structure Place where
  chan : Nat
  sc   : Nat
  bg   : Nat
  ba   : Nat
  row  : Nat
  col  : Nat
  u    : Nat
  deriving DecidableEq, Repr

/-- The place of a line (R272, R274). -/
def placeOf (s : State) (line : Nat) : Place :=
  let a := line * 64
  let bitsOf (ms : List Nat) : Nat := (ms.zipIdx).foldl (fun n e => n + 2 ^ e.2 * parity (a &&& e.1)) 0
  let n0 := chan0 s
  let ci := bitsOf ((List.range (chBits s)).map (fun k => (s.rd (.MC_CH_MASK n0 k)).toNat))
  let n := (enabledChans s).getD ci n0
  let rows := maskRows s n
  let nn := packBits a (pivots rows)
  let rb := rowBits s
  { chan := n
    sc := bitsOf [(s.rd (.MC_MASK n 0)).toNat]
    bg := bitsOf ((List.range 3).map (fun k => (s.rd (.MC_MASK n (k + 1))).toNat))
    ba := bitsOf ((List.range 2).map (fun k => (s.rd (.MC_MASK n (k + 4))).toNat))
    row := nn / 64 % 2 ^ rb
    col := nn % 64
    u := nn / 2 ^ (6 + rb) }

/-- The local line number within a rank: column, subchannel, bank group, bank and row from its lowest bit up (DEDUCED from
R266). -/
def Place.local_ (p : Place) : Nat := p.row * 2 ^ 12 + p.ba * 2 ^ 10 + p.bg * 2 ^ 7 + p.sc * 2 ^ 6 + p.col

/-- Subchannel of a local line. -/
def localSc (loc : Nat) : Nat := loc / 2 ^ 6 % 2

/-- Bits of a number spread over the positions of A[51:6] that are no pivots, ascending: the inverse of `packBits`. -/
def spreadBits (v : Nat) (ps : List Nat) : Nat :=
  ((List.range 46).foldl (fun st k =>
    if ps.contains (6 + k) then st
    else (st.1 + (if v.testBit st.2 then 2 ^ (6 + k) else 0), st.2 + 1)) (0, 0)).1

/-- The line that has a local line number in the rank of usable index `u` of channel `n` (R272, R274). Each mask carries the
hash bit it must give in bit 60 through the pivot search; the highest bit of a reduced mask below 52 is its pivot. -/
def lineOf (s : State) (n u loc : Nat) : Nat :=
  let ci := (enabledChans s).findIdx (fun x => x == n)
  let h := ci % 2 ^ chBits s + (loc / 2 ^ 6 % 2 ^ 6) * 2 ^ chBits s
  let rows := (maskRows s n).zipIdx.map (fun e => (e.1 + (if h.testBit e.2 then 2 ^ 60 else 0), false))
  let st := (List.range 46).foldl (fun st k => pivotStep (51 - k) st) (rows, [])
  let a := spreadBits (loc % 2 ^ 6 + loc / 2 ^ 12 * 2 ^ 6 + u * 2 ^ (6 + rowBits s)) st.2
  (st.1.foldl (fun x r =>
    let m := r.1 % 2 ^ 52
    if (parity (a &&& m) + r.1 / 2 ^ 60) % 2 = 1 then x + 2 ^ Nat.log2 m else x) a) / 64

/-- The state of a logical rank (MC_RANK). -/
def rankState (s : State) (n r : Nat) : Nat := s.get (.MC_RANK n r) F.MC_RANK_STATE
def setRankState (s : State) (n r v : Nat) : State := s.put (.MC_RANK n r) F.MC_RANK_STATE v

/-- The spare rank of a channel, 0xF for none. -/
def spareRank (s : State) (n : Nat) : Nat := s.get (.MC_CFG n) F.MC_CFG_SPARE

/-- The logical rank that serves a usable index at a local line: while a migration or copy-back runs, by its pointer
(R288, R290). -/
def rankFor (s : State) (n u loc : Nat) : Nat :=
  let r := ((List.range 8).find? (fun r => s.get (.MC_RANK n r) F.MC_RANK_INDEX == u)).getD 0
  let m := Reg.MC_MIGRATE n
  let src := s.get m F.MC_MIGRATE_SOURCE
  if s.bit m F.MC_MIGRATE_ACTIVE ∧ (s.chan n).switch_ = none then
    if s.get m F.MC_MIGRATE_DIR = 0 ∧ src = r then
      (if loc < s.get m F.MC_MIGRATE_POINTER then spareRank s n else src)
    else if s.get m F.MC_MIGRATE_DIR = 1 ∧ spareRank s n = r then
      (if loc < s.get m F.MC_MIGRATE_POINTER then src else r)
    else r
  else r

/-- The key of a line in a rank: ranks that hold tested blanks have keys from 2^37 up. -/
def lineKey (s : State) (n r loc : Nat) : Nat :=
  (if (s.chan n).blank.contains r then 2 ^ 37 else 0) + (n * 8 + r) * 2 ^ 30 + loc

/-- The rank and key of a line now. -/
def whereIs (s : State) (line : Nat) : Place × Nat × Nat :=
  let p := placeOf s line
  let r := rankFor s p.chan p.u p.local_
  (p, r, lineKey s p.chan r p.local_)

/-- Whether a rank is FAILED, also while it is under TEST, when it carries no traffic either (R289, R290). -/
def rankFailed (s : State) (n r : Nat) : Bool :=
  rankState s n r == 5 || (rankState s n r == 6 && ((s.chan n).test.map (·.prior)) == some 5)

/-- A line as its rank stores it; a FAILED rank returns it poisoned with CAUSE 2 (R289). -/
def storedRaw (s : State) (line : Nat) : BitVec 640 :=
  let w := whereIs s line
  let raw := rawAt s.dram w.2.2
  if rankFailed s w.1.chan w.2.1 then rawLine (raw.extractLsb' 0 512) (backing true 2 0 true) else raw

/-- Flips of MC_INJECT on the next line written by a channel (R292). -/
def injectRaw (s : State) (n : Nat) (raw : BitVec 640) : BitVec 640 × State :=
  let r := Reg.MC_INJECT n
  let at_ (w b : Nat) : Nat := if b < 64 then 64 * w + b else 512 + 8 * w + (b - 64)
  let w := s.get r F.MC_INJECT_WORD
  let b := s.get r F.MC_INJECT_BIT
  let one : BitVec 640 := 1
  let raw1 := if s.bit r F.MC_INJECT_ARM then
      let x := if b < 72 then raw ^^^ (one <<< at_ w b) else raw
      if s.bit r F.MC_INJECT_DOUBLE ∧ b + 1 < 72 then x ^^^ (one <<< at_ w (b + 1)) else x
    else raw
  let raw2 := if s.bit r F.MC_INJECT_BACKING then raw1 ^^^ (3 <<< 576) else raw1
  (raw2, (s.put r F.MC_INJECT_ARM 0).put r F.MC_INJECT_BACKING 0)

/-- A line written to its rank; a FAILED rank discards it and counts it (R289). -/
def storeRaw (s : State) (line : Nat) (data : LineData) (b : Nat) (flip : Bool) : State :=
  let w := whereIs s line
  if rankFailed s w.1.chan w.2.1 then s.inc (.MC_RANK w.1.chan w.2.1) F.MC_RANK_DROPPED
  else
    let i := injectRaw s w.1.chan (if flip then rawLine data b ^^^ (3 <<< 576) else rawLine data b)
    { i.2 with dram := setRaw i.2.dram w.2.2 i.1 }

/-- The newest contents of a line: a write that waits or is queued where there is one, otherwise DRAM, checked and
corrected. -/
def memNow (s : State) (line : Nat) : LineRead :=
  let c := s.chan (placeOf s line).chan
  let sent := c.waitQ.filterMap (fun r => match r with | .write w => some w | .read _ _ _ => none)
  match ((c.writes ++ sent).reverse).find? (fun w => w.line == line) with
  | some w => { checkLine (rawLine w.data w.backing) with data := w.data }
  | none => checkLine (storedRaw s line)

end Sys2Proof.Machine
end

