-- ==== Sys2Proof/Machine/MemQueue.lean ====
section
/-! DEFINITION. The read and write queues of the memory channels as their users see them (R206, R270, R278 to R280). -/

namespace Sys2Proof.Machine

/-- Whether a hand holds a trick in a point's active deal. -/
def holdsTrick (s : State) (p h : Nat) : Bool := (List.range (dealLen p)).any (fun t => trickOwner s p t == h)

/-- Line of a waiting request. -/
def MemReq.line : MemReq → Nat
  | .read _ _ l => l
  | .write w => w.line

/-- The entries in use of a queue of channel `n`, each with its hand and whether it is one reserved to it. A correction write,
which no home slice sends, uses none (DESIGN CHOICE, log entry 97). -/
def entriesOf (c : Chan) (rd : Bool) : List (Nat × Bool) :=
  if rd then c.reads.map (fun r => (r.hand, r.own)) else (c.writes.filter (fun w => !w.fix)).map (fun w => (w.hand, w.own))

/-- A free entry for a hand (R270): one of the two reserved to it (`some true`), otherwise a shared one (`some false`). 128
shared entries are left whatever the deal, so the holders are counted only beyond them. -/
def entryFor (s : State) (n : Nat) (rd : Bool) (hand : Nat) : Option Bool :=
  let l := entriesOf (s.chan n) rd
  let p := 0x30 + n
  let shared := (l.filter (fun e => !e.2)).length
  if 256 ≤ l.length then none
  else if (l.filter (fun e => e.1 == hand && e.2)).length < 2 && holdsTrick s p hand then some true
  else if shared < 128 || decide (shared < 256 - 2 * ((List.range 64).filter (holdsTrick s p)).length) then some false
  else none

/-- Whether the queued write at the end of a line's requests may be replaced in place: no request of the line entered the
queues after it (R280). -/
def replaceable (c : Chan) (line : Nat) : Option MemWr :=
  match (c.writes.reverse).find? (fun w => w.line == line) with
  | some w => if c.reads.any (fun r => r.line == line && decide (w.seq < r.seq)) then none else some w
  | none => none

/-- A request enters its queue; a write replaces an earlier one in place where R280 allows. -/
def enter (s : State) (n : Nat) (r : MemReq) (own : Bool) : State :=
  match r with
  | .read q hand line =>
    let c := s.chan n
    (s.countBlk (32 + n) 0x0306 (if c.writes.any (fun w => w.line == line) then 1 else 0)).setChan n { c with reads := c.reads ++ [⟨q, hand, line, c.seq, s.cycle, own, none, 0, false⟩], seq := c.seq + 1 }
  | .write w =>
    let s := sramWrite s 14 (0x2300 + n) (w.line * 64)
    let c := s.chan n
    let new := s.setChan n { c with
      writes := c.writes ++ [{ w with seq := c.seq, at_ := s.cycle, own := own }], seq := c.seq + 1 }
    match replaceable c w.line with
    | some o =>
      if o.fix then new
      else
        s.setChan n { c with writes := c.writes.map (fun x =>
          if x.seq = o.seq then { x with data := w.data, backing := w.backing, fix := w.fix, flip := w.flip } else x) }
    | none => new

/-- A waiting request enters its queue where an entry is free for its hand and no earlier request of its line waits. -/
def admitOne (n : Nat) (st : State × List MemReq) (r : MemReq) : State × List MemReq :=
  let e := match r with
    | .read _ hand _ => entryFor st.1 n true hand
    | .write w => entryFor st.1 n false w.hand
  match e with
  | some own => if st.2.any (fun x => x.line == r.line) then (st.1, st.2 ++ [r]) else (enter st.1 n r own, st.2)
  | none => (st.1, st.2 ++ [r])

/-- The waiting requests of a channel that an entry is free for enter their queues (R270). A home slice sends the requests of
one line in their order (DEDUCED, log entry 97). -/
def admitWaiting (s : State) (n : Nat) : State :=
  let t := (s.chan n).waitQ.foldl (admitOne n) (s.setChan n { s.chan n with waitQ := [] }, [])
  t.1.setChan n { t.1.chan n with waitQ := t.2 }

/-- A request sent to the channel of a line. -/
def sendReq (s : State) (r : MemReq) : State :=
  let n := (placeOf s r.line).chan
  admitWaiting (s.setChan n { s.chan n with waitQ := (s.chan n).waitQ ++ [r] }) n

/-- A read of a line by home slice `n`, sent to the line's channel (R206, R269). -/
def sendRead (s : State) (n line hand : Nat) : State := sendReq s (.read (2 * n) hand line)

/-- A memory write by home slice `n` (R210): HOME_INJECT.BACKING inverts two bits of its backing word (R238). -/
def homeWrite (s : State) (n line hand : Nat) (data : LineData) (b : Nat) : State :=
  let r := Reg.HOME_INJECT n
  let f := s.bit r F.HOME_INJECT_BACKING
  sendReq (s.put r F.HOME_INJECT_BACKING 0) (.write ⟨2 * n + 1, hand, line, 0, 0, false, data, b, false, f⟩)

/-- A memory write of data that a hand's message carried (R210): CAUSE 3 where the data is poisoned. -/
def homeData (s : State) (n line hand : Nat) (data : LineData) (poison : Bool) : State :=
  homeWrite s n line hand data (backing poison (if poison then 3 else 0) hand false)

end Sys2Proof.Machine
end

