-- ==== Sys2Proof/Machine/Home.lean ====
section
/-! DEFINITION. The home slices: directory, transactions, snoops, write-backs, admission and eviction, directory errors, the
scrub and the probe (R204 to R238), and the vault check (R394, R395). -/

namespace Sys2Proof.Machine

/-! ### The directory -/

/-- Whether a die's presence is masked in every lookup (R233). -/
def dieMasked (s : State) (d : Nat) : Bool := (s.rd .HOME_DIE_MASK).getLsbD d

/-- The entry of a line: its place in the directory and the entry. -/
def findEnt (s : State) (n line : Nat) : Option (Nat × DirEnt) :=
  (List.range 12).findSome? (fun w =>
    match (s.slice n).dir.get? (dirSet line * 12 + w) with
    | some e => if e.line = line then some (dirSet line * 12 + w, e) else none
    | none => none)

/-- The presence bits that a lookup sees (R233). -/
def presOf (s : State) (e : DirEnt) : List Nat :=
  (List.range 16).filter (fun d => e.pres.testBit d && !dieMasked s d)

/-- A set of dies as presence bits. -/
def bitsOf (l : List Nat) : Nat := l.foldl (fun n d => n ||| 2 ^ d) 0

/-- An entry written: masked bits are cleared (R233), and HOME_INJECT.ARM inverts bits of one word (R238). -/
def writeEnt (s : State) (n key : Nat) (e : DirEnt) : State :=
  let r := Reg.HOME_INJECT n
  let b := s.get r F.HOME_INJECT_BIT
  let fl := (if s.bit r F.HOME_INJECT_ARM then
      (if s.bit r F.HOME_INJECT_DOUBLE then [b, b + 1] else [b]) else []).filter (fun i => decide (i < 72))
  let w0 := s.get r F.HOME_INJECT_WORD == 0
  let e := { e with pres := bitsOf (presOf s e), e0 := if w0 then fl else [], e1 := if w0 then [] else fl }
  let s := s.put r F.HOME_INJECT_ARM 0
  let x := s.slice n
  s.setSlice n { x with dir := x.dir.set key e }

/-- An entry made invalid: its way is free. That is a directory write too, so an armed HOME_INJECT inverts bits of the invalid
entry (R238). -/
def dropEnt (s : State) (n key : Nat) : State :=
  let x := s.slice n
  match x.dir.get? key with
  | some e =>
    if s.bit (.HOME_INJECT n) F.HOME_INJECT_ARM then writeEnt s n key { e with st := 0, pres := 0 }
    else s.setSlice n { x with dir := x.dir.erase key }
  | none => s

/-- Open transactions on a line: PIN (R207). -/
def pins (s : State) (n line : Nat) : Nat := ((s.slice n).txns.filter (fun t => t.req.line == line)).length

/-- Whether a line lies in a staging entry or in the recovery of R237. -/
def inStaging (s : State) (n line : Nat) : Bool :=
  (s.slice n).staged.any (fun e => e.ent.line == line) || (s.slice n).recover.any (fun e => e.1 == line)

/-- Whether a way of the directory is free: it holds no entry, or one in state I that nothing pins (R229). -/
def wayFree (s : State) (n key : Nat) : Bool :=
  match (s.slice n).dir.get? key with
  | some e => e.st == 0 && pins s n e.line == 0
  | none => true

/-- Whether an entry is lost-held: E or M of a masked owner (R234). -/
def lostHeld (s : State) (e : DirEnt) : Bool := decide (2 ≤ e.st) && dieMasked s e.own

/-- LOST_HELD_POISON: the line is written poisoned with CAUSE 1, its backing word without a hand, and counted (R234, R210). The
write is a message of the hand of the transaction that touched the line, H[0] for the scrub (R90, R236). -/
def poisonLine (s : State) (n line hand : Nat) : State :=
  let s := homeWrite s n line hand (memNow s line).data (backing true 1 0 true)
  let s := s.inc (.HOME_POISONED n) F.HOME_POISONED_COUNT
  s.raise (.HOME_ERR n) 4 10 (0x2200 + n) none 2 (line * 64)

/-! ### Messages out -/

/-- Queue number of a requester at a slice: a die, a port's engine, the call-slip engine, the Archivist (R96). -/
def srcNum : Src → Nat
  | .die d => d.val
  | .hp p => 16 + p.val
  | .csq => 24
  | .arc _ => 25

/-- Messages WB_ACK_STALE in one message of an opcode. -/
def stale (op : Opc) : Nat := match op with | .wbAckStale => 1 | _ => 0

/-- An answer of slice `n` to the requester of `m`: to a die through its down direction, discarded where the die is masked
(R233); to an IOD agent directly. A WB_ACK_STALE that is sent counts. -/
def answer (s : State) (n : Nat) (m : Msg) (op : Opc) (gen : BitVec 2) (data : LineData) (poison : Bool) : State :=
  let a : Msg := { m with op := op, gen := gen, data := data, poison := poison }
  match m.src with
  | .die d => if dieMasked s d then s else (s.countBlk (16 + n) 0x0206 (stale op)).send (0x10 + d.val) n { a with die := d.val }
  | _ => { s.countBlk (16 + n) 0x0206 (stale op) with iod := s.iod ++ [a] }

/-- A snoop of slice `n` to a die for a line (R214). -/
def snoop (s : State) (n : Nat) (op : Opc) (hand line d : Nat) : State :=
  (s.countBlk (16 + n) 0x0204 1).send (0x10 + d) n { msg0 op hand line with die := d, txn := n }

/-! ### Directory errors (R237) -/

/-- The transactions open on a line whose entry is lost or must be recovered start over: their requests wait at the front of the
line-wait queue (DEDUCED, log entry 103). The answer holds the dies whose snoop answers are still due. -/
def reopen (s : State) (n line : Nat) : List Nat × State :=
  let x := s.slice n
  let ts := x.txns.filter (fun t => t.req.line == line)
  (ts.flatMap (·.await), s.setSlice n { x with
    txns := x.txns.filter (fun t => t.req.line != line)
    lineWait := ts.map (·.req) ++ x.lineWait })

/-- A directory word error found where an entry is read (R237): corrected, recovered from the other word, or the tag lost. It
answers whether the entry may be used. -/
def checkEnt (s : State) (n key hand : Nat) (e : DirEnt) : Bool × State :=
  if e.e0 = [] ∧ e.e1 = [] then (true, s)
  else
    let bad0 := decide (2 ≤ e.e0.length)
    let bad1 := decide (2 ≤ e.e1.length)
    if !bad0 && !bad1 then
      let s := writeEnt s n key { e with e0 := [], e1 := [] }
      (true, s.raise (.HOME_ERR n) 0 7 (0x2200 + n) none 0 (e.line * 64))
    else if bad0 && bad1 then
      let s := (reopen (dropEnt s n key) n e.line).2
      let s := s.wr (.HOME_ERR n) (s.rd (.HOME_ERR n) ||| 4)
      let s := s.noteFault ⟨9, 0x2200 + n, none, 2, 2, key, 0⟩ (if (s.folio.policy 9).action = 2 then 4 else 2)
      (false, if (s.folio.policy 9).action = 2 then
          overAll ((List.range 64).filter (fun h => h != 0 && (s.folio.hand? h).isSome)) State.handLoss s
        else s)
    else
      let dies := (List.range 16).filter (fun d => s.get (.FLT_DIE d) F.FLT_DIE_STATE == 1 && !dieMasked s d)
      let r := reopen (dropEnt s n key) n e.line
      let due := dies ++ r.1
      let x := r.2.slice n
      let s := r.2.setSlice n { x with recover := if due = [] then x.recover else x.recover ++ [(e.line, hand, due)] }
      let s := overAll dies (fun s d => snoop s n .snpInv hand e.line d) s
      (false, s.raise (.HOME_ERR n) 1 8 (0x2200 + n) none 1 (e.line * 64))

/-! ### Transactions (R214) -/

/-- A request's place in the table of R214. -/
inductive Col | i | s | em (o : Nat)
  deriving DecidableEq, Repr

/-- The die that requests, if a die does. -/
def reqDie (m : Msg) : Option Nat :=
  match m.src with
  | .die d => some d.val
  | _ => none

/-- Whether the request is of the kind that treats the requester's own presence as out of date (R214). -/
def ownKind (o : Opc) : Bool := o == .rdShared || o == .rdOwn || o == .upgrade || o == .claim

/-- The column of R214 in which a request finds its entry. -/
def column (s : State) (m : Msg) (e : DirEnt) : Col :=
  let p := presOf s e
  if e.st = 0 then .i
  else if e.st = 1 then
    if ownKind m.op then
      let p' := p.filter (fun d => some d != reqDie m)
      if p' = [] ∧ ¬ (m.op = .upgrade ∧ (reqDie m).any (fun d => p.contains d)) then .i else .s
    else if p = [] then .i else .s
  else if ownKind m.op ∧ reqDie m = some e.own then .i
  else .em e.own

/-- The snoop of a request in a column: its opcode and the dies that receive it. -/
def snoopSet (s : State) (m : Msg) (e : DirEnt) (c : Col) : Opc × List Nat :=
  let p := presOf s e
  let p' := p.filter (fun d => some d != reqDie m)
  match c with
  | .i => (.snpInv, [])
  | .s =>
    match m.op with
    | .rdOwn | .upgrade | .claim => (.snpInv, p')
    | .wrFull | .wrPartial | .cboFlush => (.snpInv, p)
    | _ => (.snpShared, [])
  | .em o =>
    match m.op with
    | .rdShared | .rdOnce | .cboClean => (.snpShared, [o])
    | _ => (.snpInv, [o])

/-- Whether a request reads memory once its snoops have answered: `data` says that snoop data came. -/
def needsRead (s : State) (m : Msg) (e : DirEnt) (data : Bool) : Bool :=
  match m.op with
  | .rdShared | .rdOwn | .rdOnce | .wrPartial => !data
  | .upgrade => !data && !(e.st == 1 && (reqDie m).any (fun d => (presOf s e).contains d))
  | _ => false

/-- The entry of a line after a grant to die `d`: GEN advances (R209). -/
def granted (e : DirEnt) (st d : Nat) (extra : List Nat) : DirEnt :=
  { e with st := st, own := d, pres := bitsOf (d :: extra), gen := (e.gen + 1) % 4 }

/-- The end of a transaction (R214): memory write, answer and directory update. `mem` is the line read from memory and its
poison, where memory was read. The entry is read once more, with its check (R237). -/
def finishTxn (s : State) (n : Nat) (t : Txn) (mem : Option (LineData × Bool)) : State :=
  let m := t.req
  let ck := match findEnt s n m.line with
    | some (key, e) => checkEnt s n key m.hand e
    | none => (true, s)
  let x := ck.2.slice n
  let s := if ck.1 then ck.2.setSlice n { x with txns := x.txns.filter (fun u => u != t) } else ck.2
  match (if ck.1 then findEnt s n m.line else none) with
  | none => s
  | some (key, e) =>
    let fin (s : State) (e : DirEnt) : State :=
      if e.st = 0 then (if pins s n m.line = 0 then dropEnt s n key else writeEnt s n key e) else writeEnt s n key e
    let line := (t.data.orElse (fun _ => mem)).getD (0, false)
    let keep (s : State) (e : DirEnt) : State :=
      fin s (if t.snooped then
          (if t.shared && !dieMasked s e.own then { e with st := 1, pres := bitsOf [e.own] }
           else { e with st := 0, pres := 0 })
        else e)
    let wrSnoop (s : State) : State :=
      match t.data with
      | some (d, p) => homeData s n m.line m.hand d p
      | none => s
    let d := (reqDie m).getD 0
    match m.op with
    | .rdShared =>
      let s := wrSnoop s
      let sharedGrant := (t.snooped && t.shared) || (!t.snooped && e.st == 1 && t.pres != 0)
      if sharedGrant then
        let others := if t.snooped then [e.own] else presOf s e
        let e' := granted e 1 d others
        fin (answer s n m .dataS (BitVec.ofNat 2 e'.gen) line.1 line.2) e'
      else
        let e' := granted e 2 d []
        fin (answer s n m .dataE (BitVec.ofNat 2 e'.gen) line.1 line.2) e'
    | .rdOwn =>
      let e' := granted e 3 d []
      fin (answer s n m .dataM (BitVec.ofNat 2 e'.gen) line.1 line.2) e'
    | .upgrade =>
      let e' := granted e 3 d []
      if t.data.isNone ∧ mem.isNone then fin (answer s n m .cmp (BitVec.ofNat 2 e'.gen) 0 false) e'
      else fin (answer s n m .dataM (BitVec.ofNat 2 e'.gen) line.1 line.2) e'
    | .claim =>
      let e' := granted e 3 d []
      fin (answer s n m .cmp (BitVec.ofNat 2 e'.gen) 0 false) e'
    | .rdOnce => keep (answer (wrSnoop s) n m .dataNc 0 line.1 line.2) e
    | .wrFull =>
      fin (answer (homeData s n m.line m.hand m.data m.poison) n m .cmp 0 0 false) { e with st := 0, pres := 0 }
    | .wrPartial =>
      let s := homeData s n m.line m.hand (mergeLine m.mask m.data line.1) (line.2 || m.poison)
      fin (answer s n m .cmpPartial 0 0 false) { e with st := 0, pres := 0 }
    | .cboClean => keep (answer (wrSnoop s) n m .cmp 0 0 false) e
    | .cboFlush => fin (answer (wrSnoop s) n m .cmp 0 0 false) { e with st := 0, pres := 0 }
    | _ => s

/-- A transaction whose snoops have all answered goes on: it reads memory, or it ends. -/
def advanceTxn (s : State) (n : Nat) (t : Txn) : State :=
  if t.await ≠ [] ∨ t.reading then s
  else
    match findEnt s n t.req.line with
    | none => s
    | some (_, e) =>
      if needsRead s t.req e t.data.isSome then
        let x := s.slice n
        let s := s.setSlice n { x with txns := x.txns.map (fun u => if u = t then { u with reading := true } else u) }
        sendRead s n t.req.line t.req.hand
      else finishTxn s n t none

/-- A request with its entry in place opens its transaction (R214): lost-held lines are poisoned first (R234), then the
snoops go out. -/
def openTxn (s : State) (n : Nat) (m : Msg) (key : Nat) (e : DirEnt) : State :=
  let lost := lostHeld s e
  let s := if lost then poisonLine s n m.line m.hand else s
  let e := if lost then { e with st := 0, pres := 0 } else e
  let s := writeEnt s n key e
  let c := column s m e
  let sn := snoopSet s m e c
  let snooped := match c with | .em _ => true | _ => false
  let t : Txn := { req := m, secure := false, pres := (match c with | .s => 1 | _ => 0), await := sn.2, data := none,
                   shared := false, lost := lost, reading := false, snooped := snooped, old := false }
  let x := s.slice n
  let s := s.setSlice n { x with txns := x.txns ++ [t] }
  let s := overAll sn.2 (fun s d => snoop s n sn.1 m.hand m.line d) s
  advanceTxn s n t

/-! ### Admission and eviction (R226, R228, R229) -/

/-- Whether a request may join the transactions open on its line: none is open, or all of them and it are reads served from
memory in state S, fewer than 7 (R226). A RD_SHARED whose line R214 handles as I is no read in state S. -/
def mayShare (s : State) (n : Nat) (m : Msg) : Bool :=
  let ts := (s.slice n).txns.filter (fun t => t.req.line == m.line)
  ts.isEmpty ||
  (ts.all (fun t => t.req.op == .rdOnce || (t.req.op == .rdShared && t.pres == 1)) && decide (ts.length < 7) &&
    match findEnt s n m.line with
    | some (_, e) => e.st == 1 && (m.op == .rdOnce || (m.op == .rdShared && column s m e == .s))
    | none => false)

/-- Pinned entries of a set. -/
def pinnedInSet (s : State) (n set : Nat) : Nat :=
  ((s.slice n).dir.filter (fun e => e.1 / 12 == set && pins s n e.2.line != 0)).length

/-- DIRECTORY_EVICTION: a victim moves to a staging entry, which snoops every die in its PRESENCE (R229, R230); a lost-held
victim is poisoned first (R234). The snoops carry the hand of the request that needs the way (R90). -/
def evictEnt (s : State) (n key hand : Nat) (e : DirEnt) : State :=
  let lost := lostHeld s e
  let s := if lost then poisonLine s n e.line hand else s
  let dies := if lost then [] else presOf s e
  let s := dropEnt s n key
  let x := s.slice n
  let s := (s.setSlice n { x with staged := x.staged ++ [⟨e, dies, none, hand⟩] }).countBlk (16 + n) 0x0207 1
  let s := if dies = [] then s else s.inc (.HOME_BINV n) F.HOME_BINV_COUNT
  overAll dies (fun s d => snoop s n .snpBinv hand e.line d) s

/-- A victim chosen: its entry is read with its check (R237), which may free the way by itself. -/
def evict (s : State) (n key hand : Nat) (e : DirEnt) : State :=
  match checkEnt s n key hand e with
  | (false, s) => s
  | (true, s) =>
    match (s.slice n).dir.get? key with
    | some e => evictEnt s n key hand e
    | none => s

/-- A way for a line without entry (R228, R229): none where the set or the staging entries are full. The pseudo-LRU choice
is open and is a free value. -/
def findWay (s : State) (n line hand : Nat) : Option (Nat × State) :=
  let set := dirSet line
  if s.get .HOME_CFG F.HOME_CFG_OPEN_PER_SET ≤ pinnedInSet s n set then none
  else
    match (List.range 12).find? (fun w => wayFree s n (set * 12 + w)) with
    | some w => some (set * 12 + w, s)
    | none =>
      if 8 ≤ (s.slice n).staged.length then none
      else
        let cand := (List.range 12).filter (fun w =>
          match (s.slice n).dir.get? (set * 12 + w) with
          | some e => pins s n e.line == 0
          | none => false)
        let f := s.fresh
        match cand[f.1.toNat % max cand.length 1]? with
        | none => none
        | some w =>
          match (s.slice n).dir.get? (set * 12 + w) with
          | none => none
          | some e => some (set * 12 + w, evict f.2 n (set * 12 + w) hand e)

/-- A request that is in the pipeline: it opens, or it waits in the line-wait or the set-wait queue, behind those that wait
for its line or its set already (R226, R228, R229). -/
def admitReq (s : State) (n : Nat) (m : Msg) : State :=
  let x := s.slice n
  let toLine (s : State) : State := let x := s.slice n; s.setSlice n { x with lineWait := x.lineWait ++ [m] }
  let toSet (s : State) : State := let x := s.slice n; s.setSlice n { x with setWait := x.setWait ++ [m] }
  if inStaging s n m.line then toLine s
  else if x.setWait.any (fun w => w.line == m.line) then toSet s
  else
    match findEnt s n m.line with
    | some (key, e) =>
      match checkEnt s n key m.hand e with
      | (false, s) => toLine s
      | (true, s) =>
        if x.lineWait.any (fun w => w.line == m.line) ∨ ¬ mayShare s n m then toLine s
        else
          match findEnt s n m.line with
          | some (key, e) => openTxn s n m key e
          | none => s
    | none =>
      if x.lineWait.any (fun w => w.line == m.line) then toLine s
      else if x.setWait.any (fun w => dirSet w.line == dirSet m.line) then toSet s
      else
        match findWay s n m.line m.hand with
        | some (key, s) => openTxn s n m key ⟨m.line, 0, 0, 0, 0, [], []⟩
        | none => toSet s

/-! ### The vault check (R394, R395) -/

/-- Whether a request carries the secure attribute: an Archivist DMA channel that has it. -/
def isSecure (m : Msg) : Bool :=
  match m.src with
  | .arc b => b
  | _ => false

/-- Whether a line lies in the vault. -/
def inVault (s : State) (line : Nat) : Bool := decide (line * 64 < s.get .ARC_VAULT F.ARC_VAULT_WATERMARK * 2 ^ 30)

/-- VAULT_DENIED sets and ARC_DENIED records a request at slice `n` (R395). -/
def reportDenied (s : State) (n : Nat) (m : Msg) : State :=
  let wr := opClass m.op == 1 || m.op == .wrFull || m.op == .wrPartial
  let s := s.put .ARC_DENIED F.ARC_DENIED_WRITE (if wr then 1 else 0)
  let s := s.put .ARC_DENIED F.ARC_DENIED_REQ (srcNum m.src)
  let s := s.put .ARC_DENIED F.ARC_DENIED_SLICE n
  let s := s.put .ARC_DENIED F.ARC_DENIED_LINE m.line
  s.raise .ARC_ERR F.ARC_ERR_VAULT_DENIED.lo 24 0x2700 (some m.hand) 1 (m.line * 64)

/-- ARC_INJECT.VAULT reports the next request without the secure attribute as denied; the request itself proceeds (R432).
A request for a vault line is reported once, by its own denial. -/
def injectDenied (s : State) (n : Nat) (m : Msg) : State :=
  if s.bit .ARC_INJECT F.ARC_INJECT_VAULT ∧ ¬ isSecure m then
    let s := s.put .ARC_INJECT F.ARC_INJECT_VAULT 0
    if inVault s m.line then s else reportDenied s n m
  else s

/-- A WB-class message answered WB_ACK_STALE, and counted (R221, R238). -/
def staleWb (s : State) (n : Nat) (m : Msg) : State :=
  let f := if m.op = .wbData ∨ m.op = .wbKeep then F.HOME_STALE_STALE_WB else F.HOME_STALE_STALE_NOTICE
  answer (s.inc (.HOME_STALE n) f) n m .wbAckStale 0 0 false

/-- VAULT_DENY: a request without the secure attribute for a vault line opens nothing and is answered empty or poisoned;
VAULT_DENIED sets and ARC_DENIED records it (R395). -/
def vaultDeny (s : State) (n : Nat) (m : Msg) : State :=
  let s := match m.op with
    | .wrFull | .cboClean | .cboFlush => answer s n m .cmp 0 0 false
    | .wrPartial => answer s n m .cmpPartial 0 0 false
    | .wbData | .wbKeep | .evictClean | .discard => staleWb s n m
    | _ => answer s n m .dataNc 0 0 true
  reportDenied s n m

/-! ### Write-backs (R221) -/

/-- A WB-class message that its line's transaction or staging entry holds back (R221). -/
def holdWb (s : State) (n : Nat) (m : Msg) : State :=
  let x := s.slice n
  s.setSlice n { x with wbWait := x.wbWait ++ [m] }

/-- The action of the home on a WB-class message that meets an entry (R221); one of a stopped die is handled like any other
(R233). A notice of a die without EVGEN carries no generation to compare (R42). -/
def wbAction (s : State) (n : Nat) (m : Msg) (key : Nat) (e : DirEnt) : State :=
  let d := (reqDie m).getD 0
  let owned := decide (2 ≤ e.st) && e.own == d
  match m.op with
  | .wbData =>
    if owned then answer (dropEnt (homeData s n m.line m.hand m.data m.poison) n key) n m .wbAck 0 0 false
    else staleWb s n m
  | .wbKeep =>
    if owned then
      answer (writeEnt (homeData s n m.line m.hand m.data m.poison) n key { e with st := 2 }) n m .wbAck 0 0 false
    else staleWb s n m
  | .evictClean =>
    if (m.gen.toNat = e.gen ∨ ¬ (s.rd (.DL_FEAT_EFF d)).getLsbD 5) ∧ e.pres.testBit d then
      let p := (presOf s e).filter (fun x => x != d)
      let s := if p = [] then dropEnt s n key else writeEnt s n key { e with pres := bitsOf p }
      answer s n m .wbAck 0 0 false
    else staleWb s n m
  | .discard => if owned then answer (dropEnt s n key) n m .wbAck 0 0 false else staleWb s n m
  | _ => s

/-- A WB-class message handled: its line's entry is read with its check (R237); where that starts a recovery, the message waits
for it. -/
def handleWb (s : State) (n : Nat) (m : Msg) : State :=
  match findEnt s n m.line with
  | none => staleWb s n m
  | some (key, e) =>
    match checkEnt s n key m.hand e with
    | (false, s) => if inStaging s n m.line then holdWb s n m else staleWb s n m
    | (true, s) =>
      match findEnt s n m.line with
      | some (key, e) => wbAction s n m key e
      | none => staleWb s n m

/-- A WB-class message in the pipeline: it waits while its line has an open transaction or a staging entry (R221). -/
def takeWb (s : State) (n : Nat) (m : Msg) : State :=
  if pins s n m.line ≠ 0 ∨ inStaging s n m.line then holdWb s n m else handleWb s n m

/-- Whether a home slice is in Fold: nothing enters its pipeline (R410). -/
def sliceFolded (s : State) (n : Nat) : Bool := s.get .SCK_IOD_STATE (F.SCK_IOD_STATE_SLICE n) == 2

/-- A message enters the pipeline of its home slice (R206): held back while entry is suspended (R233) or the slice is in
Fold, denied for a vault line (R395), otherwise taken by its class. -/
def enterSlice (s : State) (m : Msg) : State :=
  let n := sliceOf s m.line
  let x := s.slice n
  if x.suspend || sliceFolded s n then s.setSlice n { x with held := x.held ++ [m] }
  else
    let s := injectDenied s n m
    if inVault s m.line ∧ ¬ isSecure m then vaultDeny s n m
    else if opClass m.op = 1 then takeWb s n m
    else admitReq s n m

/-! ### Snoop answers -/

/-- WB-class messages that waited for a line are handled once it has neither transaction nor staging entry (R221). -/
def releaseWb (s : State) (n line : Nat) : State :=
  if pins s n line ≠ 0 ∨ inStaging s n line then s
  else
    let x := s.slice n
    let go := x.wbWait.filter (fun m => m.line == line)
    let s := s.setSlice n { x with wbWait := x.wbWait.filter (fun m => m.line != line) }
    overAll go (fun s m => handleWb s n m) s

/-- A snoop answer of die `d` for a line (R213, R214, R229, R237). Data is used only where the owner of a line in E or M was
snooped: in state S, memory holds the line (R214). -/
def snoopAnswer (s : State) (n d line : Nat) (keeps : Bool) (data : Option (LineData × Bool)) : State :=
  let x := s.slice n
  match x.recover.find? (fun e => e.1 == line && e.2.2.contains d) with
  | some r =>
    let s := s.setSlice n { x with recover := (x.recover.map (fun e =>
      if e = r then (e.1, e.2.1, e.2.2.erase d) else e)).filter (fun e => !e.2.2.isEmpty) }
    let s := match data with
      | some (l, p) => homeWrite s n line r.2.1 l (backing p (if p then 3 else 0) 0 true)
      | none => s
    releaseWb s n line
  | none =>
    match x.txns.find? (fun t => t.req.line == line && t.await.contains d) with
    | some t =>
      let t' := { t with await := t.await.filter (fun y => y != d)
                         shared := t.shared || keeps
                         data := if !t.snooped ∨ t.req.op = .claim ∨ t.req.op = .wrFull then none else
                           match data with | some v => some v | none => t.data }
      let s := s.setSlice n { x with txns := x.txns.map (fun u => if u = t then t' else u) }
      releaseWb (advanceTxn s n t') n line
    | none =>
      s.setSlice n { x with staged := x.staged.map (fun e =>
        if e.ent.line = line ∧ e.await.contains d then
          { e with await := e.await.filter (fun y => y != d)
                   data := match data with | some v => some v | none => e.data }
        else e) }

/-! ### The commands of the slice -/

/-- RD_SHARED enters its home slice (R214). -/
def execRdShared (m : Msg) (s : State) : Out := .next (enterSlice s { m with op := .rdShared })
/-- RD_OWN enters its home slice (R214). -/
def execRdOwn (m : Msg) (s : State) : Out := .next (enterSlice s { m with op := .rdOwn })
/-- UPGRADE enters its home slice (R214). -/
def execUpgrade (m : Msg) (s : State) : Out := .next (enterSlice s { m with op := .upgrade })
/-- CLAIM enters its home slice (R214). -/
def execClaim (m : Msg) (s : State) : Out := .next (enterSlice s { m with op := .claim })
/-- RD_ONCE enters its home slice (R214). -/
def execRdOnce (m : Msg) (s : State) : Out := .next (enterSlice s { m with op := .rdOnce })
/-- WR_FULL enters its home slice (R214). -/
def execWrFull (m : Msg) (s : State) : Out := .next (enterSlice s { m with op := .wrFull })
/-- WR_PARTIAL enters its home slice (R214, R216). -/
def execWrPartial (m : Msg) (s : State) : Out := .next (enterSlice s { m with op := .wrPartial })
/-- CBO_CLEAN enters its home slice (R214). -/
def execCboClean (m : Msg) (s : State) : Out := .next (enterSlice s { m with op := .cboClean })
/-- CBO_FLUSH enters its home slice (R214). -/
def execCboFlush (m : Msg) (s : State) : Out := .next (enterSlice s { m with op := .cboFlush })
/-- WB_DATA enters its home slice (R221). -/
def execWbData (m : Msg) (s : State) : Out := .next (enterSlice s { m with op := .wbData })
/-- WB_KEEP enters its home slice (R221). -/
def execWbKeep (m : Msg) (s : State) : Out := .next (enterSlice s { m with op := .wbKeep })
/-- EVICT_CLEAN enters its home slice (R221). -/
def execEvictClean (m : Msg) (s : State) : Out := .next (enterSlice s { m with op := .evictClean })
/-- DISCARD enters its home slice (R221). -/
def execDiscard (m : Msg) (s : State) : Out := .next (enterSlice s { m with op := .discard })

/-- SNP_RSP_I: the die holds nothing of the line. -/
def execSnpRspI (m : Msg) (s : State) : Out :=
  .next (snoopAnswer s (sliceOf s m.line) ((reqDie m).getD 16) m.line false none)
/-- SNP_RSP_S: the die keeps the line in S. -/
def execSnpRspS (m : Msg) (s : State) : Out :=
  .next (snoopAnswer s (sliceOf s m.line) ((reqDie m).getD 16) m.line true none)
/-- SNP_DATA_I: the die gives the line up with its data. -/
def execSnpDataI (m : Msg) (s : State) : Out :=
  .next (snoopAnswer s (sliceOf s m.line) ((reqDie m).getD 16) m.line false (some (m.data, m.poison)))
/-- SNP_DATA_S: the die keeps the line in S and sends its data. -/
def execSnpDataS (m : Msg) (s : State) : Out :=
  .next (snoopAnswer s (sliceOf s m.line) ((reqDie m).getD 16) m.line true (some (m.data, m.poison)))

/-- CREDIT_RETURN: one credit of a class comes back to a die from a slice (R219). -/
def execCreditReturn (d n : Fin 16) (cls : CreditClass) (hand : Fin 64) (s : State) : Out :=
  let k := match cls with
    | .req => creditKey n 0 hand
    | .wb => creditKey n 1 hand
    | .snp => creditKey n 2 0
  let x := s.die d
  .next (s.setDie d { x with credits := x.credits.set k (x.credits.getD k 0 - 1) })

/-- LINE_WAIT_ADMIT: the oldest request waiting for a line is admitted once it may open (R226). -/
def execLineWaitAdmit (n : Fin 16) (line : Nat) (s : State) : Out :=
  let x := s.slice n
  match x.lineWait.find? (fun m => m.line == line) with
  | none => .next s
  | some m =>
    if inStaging s n line ∨ ¬ mayShare s n m then .next s
    else
      let i := x.lineWait.findIdx (fun m => m.line == line)
      let rest := dropAt x.lineWait i
      let s1 := s.setSlice n { x with lineWait := rest.filter (fun w => w.line != line) }
      let s2 := admitReq s1 n m
      let y := s2.slice n
      .next (s2.setSlice n { y with lineWait := y.lineWait ++ rest.filter (fun w => w.line == line) })

/-- SET_WAIT_ADMIT: the oldest request waiting for a set is admitted once a way can be had (R228). -/
def execSetWaitAdmit (n : Fin 16) (set : Nat) (s : State) : Out :=
  let x := s.slice n
  match x.setWait.find? (fun m => dirSet m.line == set) with
  | none => .next s
  | some m =>
    let i := x.setWait.findIdx (fun m => dirSet m.line == set)
    let rest := dropAt x.setWait i
    let others := rest.filter (fun w => dirSet w.line != set)
    let s1 := admitReq (s.setSlice n { x with setWait := others }) n m
    let y := s1.slice n
    if y.setWait.length ≠ others.length then .next s
    else .next ((s1.countBlk (16 + n) 0x0205 1).setSlice n { y with setWait := others ++ rest.filter (fun w => dirSet w.line == set) })

/-- STAGING_ENTRY_FREE: a staging entry with all its answers writes returned data to memory and frees itself (R229). -/
def execStagingEntryFree (n : Fin 16) (line : Nat) (s : State) : Out :=
  let x := s.slice n
  match x.staged.find? (fun e => e.ent.line == line && e.await.isEmpty) with
  | none => .next s
  | some e =>
    let s := s.setSlice n { x with staged := x.staged.filter (fun y => y != e) }
    let s := match e.data with
      | some (d, p) => homeData s n line e.hand d p
      | none => s
    .next (releaseWb s n line)

/-- The last message of a class D transfer has arrived, so all its messages enter the pipeline together (R97). It waits
while messages of the transfer are still to arrive. The answer holds the messages that entered. A staged line lost to an SRAM
error restarts the transfer (R447). -/
def enterTransfer (s : State) (n q : Nat) : List Msg × State :=
  let p := 0x20 + n
  let x := s.point p
  let ms := x.staging.getD q []
  if ms = [] ∨ unfinished x q then ([], s)
  else
    let b := ms.foldl (fun (r : Bool × State) m =>
      let e := r.2.iodSram 13 (0x2200 + n) (m.line * 64)
      (r.1 || e.1, e.2)) (false, s)
    let s := b.2
    if b.1 then ([], s.setPoint p (restartTransfer s.cycle (s.point p) q))
    else
    let s := s.setPoint p { s.point p with staging := x.staging.erase q, owners := x.owners.erase q }
    (ms, expireGrant (overAll ms enterSlice s) p)

/-! ### Suspension, scrub and probe -/

/-- SLICE_SUSPENSION_END: every transaction open at the declaration has ended, so the messages held back enter (R233). -/
def execSliceSuspensionEnd (n : Fin 16) (s : State) : Out :=
  let x := s.slice n
  if x.suspend ∧ ¬ sliceFolded s n ∧ ¬ x.txns.any (·.old) then
    .next (overAll x.held enterSlice (s.setSlice n { x with suspend := false, held := [] }))
  else .next s

/-- An entry scrubbed for die `d`: a lost-held line is poisoned by a message of H[0], and the die's bit is cleared (R234, R236).
An entry that a transaction pins stays, in state I where no die is left. -/
def scrubBit (s : State) (n d key : Nat) (e : DirEnt) : State :=
  let lost := decide (2 ≤ e.st) && e.own == d
  let s := if lost then poisonLine s n e.line 0 else s
  let p := e.pres &&& (2 ^ 16 - 1 - 2 ^ d)
  let gone := lost || p == 0
  if gone ∧ pins s n e.line = 0 then dropEnt s n key
  else writeEnt s n key (if gone then { e with st := 0, pres := 0 } else { e with pres := p })

/-- One directory entry visited by the scrub, with its check (R236, R237). -/
def scrubEnt (s : State) (n d key : Nat) : State :=
  match (s.slice n).dir.get? key with
  | none => s
  | some e =>
    match checkEnt s n key 0 e with
    | (false, s) => s
    | (true, s) =>
      match (s.slice n).dir.get? key with
      | some e => if e.st = 0 then s else scrubBit s n d key e
      | none => s

/-- DIRECTORY_SCRUB_VISIT: one set or staging entry of a slice is visited; after 10,930 visits the slice is done (R236). -/
def execDirectoryScrubVisit (n : Fin 16) (s : State) : Out :=
  if s.get .HOME_SCRUB F.HOME_SCRUB_BUSY = 0 ∨ (s.get .HOME_SCRUB F.HOME_SCRUB_DONE).testBit n.val then .next s
  else
    let d := s.get .HOME_SCRUB F.HOME_SCRUB_DIE
    let v := (s.slice n).scrub
    let s :=
      if v < 10922 then overAll (List.range 12) (fun s w => scrubEnt s n d (v * 12 + w)) s
      else
        let x := s.slice n
        s.setSlice n { x with staged := (x.staged.zipIdx).map (fun e =>
          if e.2 = v - 10922 then { e.1 with ent := { e.1.ent with pres := e.1.ent.pres &&& (2 ^ 16 - 1 - 2 ^ d) } }
          else e.1) }
    let x := s.slice n
    if v + 1 < 10930 then .next (s.setSlice n { x with scrub := v + 1 })
    else
      .next ((s.setSlice n { x with scrub := 0 }).put .HOME_SCRUB F.HOME_SCRUB_DONE
        (s.get .HOME_SCRUB F.HOME_SCRUB_DONE ||| 2 ^ n.val))

/-- The scrub of a die's bit begins in every slice (R236, R441 step 5). -/
def startScrub (s : State) (d : Nat) : State :=
  let s := s.setDie d { s.die d with rejoin := 5 }
  let s := overAll (List.range 16) (fun s n => s.setSlice n { s.slice n with scrub := 0 }) s
  ((s.put .HOME_SCRUB F.HOME_SCRUB_BUSY 1).put .HOME_SCRUB F.HOME_SCRUB_DIE d).put .HOME_SCRUB F.HOME_SCRUB_DONE 0

/-- No scrub is under way: that of a die which waits for one begins, the lowest number first (R441 step 5; the choice among
several is a DESIGN CHOICE, log entry 119). -/
def nextScrub (s : State) : State :=
  match (List.range 16).find? (fun d => (s.die d).rejoin == 4) with
  | some d => startScrub s d
  | none => s

/-- DIRECTORY_SCRUB_END: all 16 slices have finished, so the die's mask bit clears (R236), and a die that waits is scrubbed
(R441). -/
def execDirectoryScrubEnd (d : Fin 16) (s : State) : Out :=
  if s.get .HOME_SCRUB F.HOME_SCRUB_BUSY = 1 ∧ s.get .HOME_SCRUB F.HOME_SCRUB_DIE = d.val
      ∧ s.get .HOME_SCRUB F.HOME_SCRUB_DONE = 0xFFFF then
    .next (nextScrub ((s.put .HOME_SCRUB F.HOME_SCRUB_BUSY 0).wr .HOME_DIE_MASK
      (s.rd .HOME_DIE_MASK &&& ~~~ BitVec.ofNat 64 (2 ^ d.val))))
  else .next s

/-- HOME_PROBE_ADDR written by H[0]: LINE is stored and DONE cleared (R238). -/
def execHomeProbe (who : Agent) (v : Word) (s : State) : Out :=
  if s.isHouse who then
    .next ((s.put .HOME_PROBE_ADDR F.HOME_PROBE_ADDR_LINE (F.HOME_PROBE_ADDR_LINE.get v)).put .HOME_PROBE_ADDR
      F.HOME_PROBE_ADDR_DONE 0)
  else .next s

/-- The two words of an entry (R207), with PIN. -/
def entWord0 (e : DirEnt) : Nat := e.line % 2 ^ 46 + e.st * 2 ^ 46 + e.pres * 2 ^ 48
def entWord1 (e : DirEnt) (pin : Nat) : Nat := e.line % 2 ^ 46 + e.own * 2 ^ 46 + e.gen * 2 ^ 50 + (pin % 8) * 2 ^ 52

/-- HOME_PROBE_DONE: the lookup's result stands in HOME_PROBE_W0 and W1 (R238). -/
def execHomeProbeDone (s : State) : Out :=
  if s.bit .HOME_PROBE_ADDR F.HOME_PROBE_ADDR_DONE then .next s
  else
    let line := s.get .HOME_PROBE_ADDR F.HOME_PROBE_ADDR_LINE
    let n := sliceOf s line
    let r : Word × Word :=
      match findEnt s n line with
      | some (_, e) => (BitVec.ofNat 64 (entWord0 e), BitVec.ofNat 64 (2 ^ 63 + entWord1 e (pins s n line)))
      | none =>
        match (s.slice n).staged.find? (fun e => e.ent.line == line) with
        | some e => (BitVec.ofNat 64 (entWord0 e.ent), BitVec.ofNat 64 (2 ^ 63 + 2 ^ 62 + entWord1 e.ent 0))
        | none => (0, 0)
    let s := (s.wr .HOME_PROBE_W0 r.1).wr .HOME_PROBE_W1 r.2
    .next (s.put .HOME_PROBE_ADDR F.HOME_PROBE_ADDR_DONE 1)

/-- HOME_INJECT.BACKING written by H[0]: the next backing word of the slice has two bits inverted (R238, R432). -/
def execHomeInjectBacking (who : Agent) (n : Fin 16) (v : Word) (s : State) : Out :=
  if s.isHouse who then .next (s.wr (.HOME_INJECT n) ((Reg.HOME_INJECT n).written (s.rd (.HOME_INJECT n)) v)) else .next s
/-- HOME_INJECT.ARM written by H[0]: the next directory word of the slice has bits inverted (R238, R432). -/
def execHomeInjectArm (who : Agent) (n : Fin 16) (v : Word) (s : State) : Out :=
  if s.isHouse who then .next (s.wr (.HOME_INJECT n) ((Reg.HOME_INJECT n).written (s.rd (.HOME_INJECT n)) v)) else .next s

end Sys2Proof.Machine
end

