-- ==== Sys2Proof/Machine/Channels.lean ====
section
/-! DEFINITION. The memory channels: the tricks of a subchannel, refresh, activation counting, retirement, the spare and
rank tests (R268 to R292). -/

namespace Sys2Proof.Machine

/-! ### Records of errors -/

/-- A bit of MC_ERR with its class (R434). -/
def mcErr (s : State) (n b cls sev : Nat) (hand : Option Nat) (line : Nat) : State :=
  s.raise (.MC_ERR n) b cls (0x2300 + n) hand sev (line * 64)

/-- Activation keys (R283): logical rank, subchannel, bank group, bank, row. -/
def rowKey (r : Nat) (p : Place) : Nat := (((r * 2 + p.sc) * 8 + p.bg) * 4 + p.ba) * 2 ^ 18 + p.row

/-- Row, bank, bank index, subchannel and rank of an activation key. -/
def keyRow (k : Nat) : Nat := k % 2 ^ 18
def keyBank (k : Nat) : Nat := k / 2 ^ 18
def keySc (k : Nat) : Nat := k / 2 ^ 23 % 2
def keyRank (k : Nat) : Nat := k / 2 ^ 24

/-- The activation key of a local line of a rank. -/
def localKey (r loc : Nat) : Nat :=
  (((r * 2 + localSc loc) * 8 + loc / 2 ^ 7 % 8) * 4 + loc / 2 ^ 10 % 4) * 2 ^ 18 + loc / 2 ^ 12

/-- Counts one activation in a table of at most 4,096 entries: a row in it rises, otherwise it takes a free entry, otherwise
it replaces the entry of smallest count (R283). -/
def countAct (t : List (Nat × Nat)) (k : Nat) : List (Nat × Nat) :=
  if t.any (fun e => e.1 == k) then t.map (fun e => if e.1 = k then (k, min (e.2 + 1) 0xFFFF) else e)
  else if t.length < 4096 then t ++ [(k, 1)]
  else
    let m := t.foldl (fun m e => min m e.2) 0xFFFF
    let i := t.findIdx (fun e => e.2 == m)
    t.set i (k, min (m + 1) 0xFFFF)

/-- DIMM slot of a logical rank (R266). -/
def slotOf (s : State) (n r : Nat) : Nat :=
  r / max (s.get (.MC_CFG n) F.MC_CFG_RANKS / max (s.get (.MC_CFG n) F.MC_CFG_DPC) 1) 1

/-! ### Banks (R271, R282, R303, R304) -/

/-- Time of a subchannel, in clocks of half the data rate: a trick lasts eight of them, and subchannel 1 runs half a trick
behind (R94, R268). -/
def chanTime (s : State) (n sc : Nat) : Nat :=
  8 * (256 * (s.point (0x30 + n)).round + (s.point (0x30 + n)).trick) + 4 * sc

/-- Clocks of half the data rate in a number of ps, rounded up. -/
def clocksIn (s : State) (n ps : Nat) : Nat :=
  (ps * (if s.bit (.MC_CFG n) F.MC_CFG_SPEED then 14 else 16) + 4999) / 5000

/-- Clocks for which an activation keeps its bank busy: tRC = tRAS + tRP (R304). -/
def rowClocks (s : State) (n : Nat) : Nat := clocksIn s n (s.chan n).tras + s.get (.MC_TIMING n) F.MC_TIMING_TRP

/-- Whether a bank is free of activation and refresh at a time. -/
def bankFree (s : State) (n b now : Nat) : Bool := decide ((s.chan n).busy.getD b 0 ≤ now)

/-- The bank of a line where it lies now. -/
def bankOf (s : State) (line : Nat) : Nat := keyBank (rowKey (whereIs s line).2.1 (whereIs s line).1)

/-- The line of a queued request that has not been issued. -/
def reqLine (c : Chan) (seq : Nat) : Option Nat :=
  match c.reads.find? (fun r => r.seq == seq && r.raw.isNone) with
  | some r => some r.line
  | none => (c.writes.find? (fun w => w.seq == seq)).map (·.line)

/-- The claim queue of a bank, in order of entry (R303 item 2). -/
def claimsOf (s : State) (n b : Nat) : List Nat :=
  (s.chan n).claims.filter (fun q => (reqLine (s.chan n) q).map (bankOf s) == some b)

/-- Whether the upkeep of a rank may activate a bank now: its DIMM is not held (R287), the bank is free and no claim stands
(R303 item 4). -/
def bankOpen (s : State) (n r b now : Nat) : Bool :=
  (s.chan n).retry.get? (slotOf s n r) == none && bankFree s n b now && (claimsOf s n b).isEmpty

/-- A bank is kept busy until a time. -/
def keepBusy (s : State) (n b till : Nat) : State := s.setChan n { s.chan n with busy := (s.chan n).busy.set b till }

/-- A command issued to a DIMM: its bank is busy (R271), an activation of a request is counted (R283), the command is kept for
64 tricks of that DIMM (R287), and an injected parity error is used up (R292). -/
def issued (s : State) (n : Nat) (m : MemCmd) : State :=
  let s := match m.op with
    | .refresh b => overAll (List.range 8) (fun s g => keepBusy s n (((m.rank * 2 + m.sc) * 8 + g) * 4 + b)
        (chanTime s n m.sc + clocksIn s n (1000 * s.get (.MC_TIMING n) F.MC_TIMING_TRFCSB))) s
    | _ => keepBusy s n (keyBank m.row) (chanTime s n m.sc + rowClocks s n)
  let s := if m.req then
      let t := countAct (s.chan n).act m.row
      (s.setChan n { s.chan n with act := t }).put (.MC_ACT n) F.MC_ACT_USED t.length
    else s
  let c := s.chan n
  let same := (c.hist.filter (fun h => h.slot == m.slot)).take 63
  let s := s.setChan n { c with hist := m :: (same ++ c.hist.filter (fun h => h.slot != m.slot)) }
  s.put (.MC_INJECT n) F.MC_INJECT_CA_PARITY 0

/-- The command that activates the row of a local line of a rank. -/
def rowCmd (s : State) (n r loc : Nat) (op : MemOp) : MemCmd :=
  ⟨slotOf s n r, localSc loc, r, localKey r loc, false, 0, op⟩

/-- The command of a request for a line. -/
def reqCmd (s : State) (n line : Nat) (op : MemOp) : MemCmd :=
  let w := whereIs s line
  ⟨slotOf s n w.2.1, w.1.sc, w.2.1, rowKey w.2.1 w.1, true, line, op⟩

/-! ### Retirement (R286 to R289) -/

/-- A rank becomes FAILED (R289). An error in the spare leaves the source rank RETIRED. -/
def failRank (s : State) (n r : Nat) : State :=
  let m := Reg.MC_MIGRATE n
  let sp := spareRank s n
  let src := s.get m F.MC_MIGRATE_SOURCE
  let s :=
    if r = sp ∧ src ≠ 0xF ∧ s.bit m F.MC_MIGRATE_ACTIVE then
      let u := if s.get m F.MC_MIGRATE_DIR = 0 then s.get (.MC_RANK n src) F.MC_RANK_INDEX
        else s.get (.MC_RANK n sp) F.MC_RANK_INDEX
      let s := (setRankState s n src 4).put (.MC_RANK n src) F.MC_RANK_INDEX 0xF
      (s.put (.MC_RANK n sp) F.MC_RANK_INDEX u).put m F.MC_MIGRATE_ACTIVE 0
    else if r = src ∧ s.bit m F.MC_MIGRATE_ACTIVE ∧ s.get m F.MC_MIGRATE_DIR = 1 then
      let u := s.get (.MC_RANK n sp) F.MC_RANK_INDEX
      let s := ((setRankState s n sp 2).put (.MC_RANK n sp) F.MC_RANK_INDEX 0xF).put (.MC_RANK n r) F.MC_RANK_INDEX u
      (s.put m F.MC_MIGRATE_ACTIVE 0).put m F.MC_MIGRATE_SOURCE 0xF
    else s
  let s := s.setChan n { s.chan n with switch_ := none }
  let s := (setRankState s n r 5).put (.MC_RANK n r) F.MC_RANK_TESTED 0
  mcErr s n 7 13 3 none 0

/-- Whether the spare of a channel is free to take a rank's contents. -/
def spareFree (s : State) (n : Nat) : Bool :=
  spareRank s n != 0xF && rankState s n (spareRank s n) == 2 && s.get (.MC_MIGRATE n) F.MC_MIGRATE_SOURCE == 0xF

/-- A rank that must be retired: FAILED at once where the spare cannot take it (R289), otherwise due for RANK_RETIRE_START.
A rank that already leaves service, or has left it, is left alone. -/
def mustRetire (s : State) (n r : Nat) : State :=
  let st := rankState s n r
  if (st = 1 ∨ st = 7 ∨ (st = 2 ∧ s.bit (.MC_MIGRATE n) F.MC_MIGRATE_ACTIVE)) then
    if st = 1 ∧ r ≠ spareRank s n ∧ spareFree s n then
      let c := s.chan n
      s.setChan n { c with retire := if c.retire.contains r then c.retire else c.retire ++ [r] }
    else failRank s n r
  else s

/-- What a read of a stored line records of its errors (R277, R286, R292): counts, MC_ERR, MC_ERR_ADDR, retirement. An
uncorrectable backing word counts as an uncorrectable word of its rank, and retires nothing. -/
def noteRead (s : State) (n r line : Nat) (x : LineRead) : State :=
  if x.fixed = 0 ∧ x.ue = 0 ∧ ¬ x.backUe then s
  else
    let a := Reg.MC_ERR_ADDR n
    let s := ((s.put a F.MC_ERR_ADDR_SYNDROME x.synd).put a F.MC_ERR_ADDR_WORD x.word).put a F.MC_ERR_ADDR_LINE line
    let hand := if x.nohand ∨ x.backUe then none else some x.hand
    let s := if x.fixed = 0 then s
      else mcErr (s.addSat (.MC_RANK n r) F.MC_RANK_CE_HOUR x.fixed) n 0 11 0 none line
    let s := if x.backUe then mcErr (s.addSat (.MC_RANK n r) F.MC_RANK_UE 1) n 2 12 2 none line else s
    let s := if x.ue = 0 then s
      else mustRetire (mcErr (s.addSat (.MC_RANK n r) F.MC_RANK_UE x.ue) n 1 12 2 hand line) n r
    let s := s.countBlk (32 + n) 0x0307 x.fixed
    let lim := s.folio.faults.ceLimit
    if lim ≠ 0 ∧ x.fixed ≠ 0 ∧ lim ≤ s.get (.MC_RANK n r) F.MC_RANK_CE_HOUR then mustRetire s n r else s

/-! ### Issue -/

/-- A read issued: its row is activated and its burst carries the line as it stands (R271, R278). -/
def issueRead (s : State) (n : Nat) (q : MemRd) : State :=
  let m := reqCmd s n q.line (.read q.seq)
  let s := (sramWrite (issued s n m) 14 (0x2300 + n) (q.line * 64)).countBlk (32 + n) 0x0302 1
  let c := s.chan n
  s.setChan n { c with
    reads := c.reads.map (fun x => if x.seq = q.seq then { x with raw := some (storedRaw s q.line), rank := m.rank } else x)
    claims := c.claims.filter (fun x => x != q.seq) }

/-- A write issued: its row is activated and its burst sent, so it has drained and its entry is free (R270). -/
def issueWrite (s : State) (n : Nat) (q : MemWr) : State :=
  let s := s.countBlk (32 + n) 0x0303 1
  let c := s.chan n
  let s := s.setChan n { c with
    writes := c.writes.filter (fun x => x.seq != q.seq)
    claims := c.claims.filter (fun x => x != q.seq) }
  let e := s.iodSram 14 (0x2300 + n) (q.line * 64)
  let s := storeRaw e.2 q.line q.data (if e.1 then q.backing ||| 1 else q.backing) q.flip
  let k := (whereIs s q.line).2.2
  admitWaiting (issued s n (reqCmd s n q.line (.write k (rawAt s.dram k)))) n

/-- The sequence number of the first request of a line that has not been issued (R278). -/
def firstOf (c : Chan) (line : Nat) : Nat :=
  let rs := (c.reads.filter (fun r => r.line == line && r.raw.isNone)).map (·.seq)
  let ws := (c.writes.filter (fun w => w.line == line)).map (·.seq)
  (rs ++ ws).foldl min c.seq

/-- The writes queued for a rank that no earlier read of their line holds back, in order: what a switch-over drains
(R288). -/
def drainRank (s : State) (n r : Nat) : State :=
  overAll (s.chan n).writes (fun s w =>
    if (whereIs s w.line).2.1 = r ∧ firstOf (s.chan n) w.line = w.seq then issueWrite s n w else s) s

/-- A retirement with the spare free begins (R288 step 1). -/
def beginRetire (s : State) (n r : Nat) : State :=
  let m := Reg.MC_MIGRATE n
  let s := drainRank s n r
  let s := (setRankState s n r 3).put (.MC_RANK n r) F.MC_RANK_TESTED 0
  let s := (((s.put m F.MC_MIGRATE_ACTIVE 1).put m F.MC_MIGRATE_DIR 0).put m F.MC_MIGRATE_SOURCE r).put m F.MC_MIGRATE_POINTER 0
  let s := s.setChan n { s.chan n with switch_ := some (r, false) }
  mcErr s n 6 13 1 none 0

/-! ### Candidates (R270, R278, R279, R285) -/

/-- Urgency of a port (R285): age of its oldest queued request in half nanoseconds against LAT_TARGET. -/
def urgency (s : State) (n q : Nat) : Nat :=
  let t := s.get (.MC_LAT_TARGET n (q / 4)) (F.MC_LAT_TARGET_TARGET (q % 4))
  let c := s.chan n
  let ats := (c.reads.filter (fun r => r.q == q && r.raw.isNone)).map (·.at_)
    ++ (c.writes.filter (fun w => w.q == q && !w.fix)).map (·.at_)
  match ats with
  | [] => 0
  | a :: l =>
    let age := s.cycle - l.foldl min a
    if t = 0 ∨ age < t then 0 else if 2 * age < 3 * t then 1 else if age < 2 * t then 2 else 3

/-- Whether requests for a line wait: their DIMM is held (R287) or their rank switches over (R288, R290). -/
def lineHeld (s : State) (n line : Nat) : Bool :=
  let c := s.chan n
  let r := (whereIs s line).2.1
  (c.retry.get? (slotOf s n r)).isSome ||
  match c.switch_ with
  | some (x, ret) => r == (if ret then spareRank s n else x)
  | none => false

/-- The requests of a subchannel that only their bank can hold back, in order of entry, `idx` their sequence number. A read
that waits on a write of another hand or on a correction write stands for that write (R279). -/
def chanReqs (s : State) (n sc : Nat) : List (Cand × Nat) :=
  let c := s.chan n
  let ok (line : Nat) : Bool := (placeOf s line).sc == sc && !lineHeld s n line
  let rs := c.reads.filter (fun r => r.raw.isNone && ok r.line &&
    (firstOf c r.line == r.seq ||
      c.writes.any (fun w => w.seq == firstOf c r.line && (w.hand != r.hand || w.fix))))
  let ws := c.writes.filter (fun w => !w.fix && ok w.line && firstOf c w.line == w.seq)
  let all := rs.map (fun r => ((⟨r.q, r.hand, 3, false, urgency s n r.q, r.seq⟩ : Cand), bankOf s r.line))
    ++ ws.map (fun w => ((⟨w.q, w.hand, 3, false, urgency s n w.q, w.seq⟩ : Cand), bankOf s w.line))
  all.foldl (fun l e =>
    let lo := l.takeWhile (fun x => decide (x.1.idx < e.1.idx))
    lo ++ e :: l.drop lo.length) []

/-- Whether a request can be issued: its bank is free of activation and refresh and not claimed for another request (R99,
R303 item 3). -/
def bankReady (s : State) (n sc : Nat) (e : Cand × Nat) : Bool :=
  let q := claimsOf s n e.2
  bankFree s n e.2 (chanTime s n sc) && (q.isEmpty || q.head? == some e.1.idx)

/-- The candidates of a subchannel (R99). -/
def chanCands (s : State) (n sc : Nat) : List Cand := ((chanReqs s n sc).filter (bankReady s n sc)).map (·.1)

/-- Bank claims of a trick dealt to hand `h` (R303 items 1 and 2): of the hand's requests ahead of the first that can be issued,
each whose bank is busy joins that bank's claim queue, unless a request of the hand is in it. -/
def claimBanks (s : State) (n sc h : Nat) : State :=
  let l := ((chanReqs s n sc).filter (fun e => e.1.hand == h)).takeWhile (fun e => !bankReady s n sc e)
  overAll l (fun s e =>
    let c := s.chan n
    let mine := (claimsOf s n e.2).any (fun q =>
      c.reads.any (fun r => r.seq == q && r.hand == h) || c.writes.any (fun w => w.seq == q && w.hand == h))
    if bankFree s n e.2 (chanTime s n sc) || mine then s else (s.setChan n { c with claims := c.claims ++ [e.1.idx] }).countBlk (32 + n) 0x0308 1) s

/-- The request of a candidate is served: the read, or the write that it waits on (R279), or the write itself. -/
def serve (s : State) (n seq : Nat) : State :=
  let c := s.chan n
  match c.reads.find? (fun r => r.seq == seq) with
  | some r =>
    match c.writes.find? (fun w => w.seq == firstOf c r.line && w.line == r.line) with
    | some w => issueWrite s n w
    | none => issueRead s n r
  | none =>
    match c.writes.find? (fun w => w.seq == seq) with
    | some w => issueWrite s n w
    | none => s

/-! ### What reserve and idle tricks do (R281 to R290) -/

/-- Local lines of a logical rank (R266). -/
def rankLines (s : State) : Nat := 2 ^ (12 + rowBits s)

/-- Source and destination of the copy that MC_MIGRATE names: the retiring rank and the spare, or back. -/
def copyRanks (s : State) (n : Nat) : Nat × Nat :=
  let m := Reg.MC_MIGRATE n
  let src := s.get m F.MC_MIGRATE_SOURCE
  if s.get m F.MC_MIGRATE_DIR = 1 then (spareRank s n, src) else (src, spareRank s n)

/-- The end of a migration or a copy-back: the spare takes the usable index of the source, or gives it back and is SPARE again
(R288, R290). -/
def endCopy (s : State) (n : Nat) : State :=
  let m := Reg.MC_MIGRATE n
  let src := s.get m F.MC_MIGRATE_SOURCE
  let sp := spareRank s n
  if s.get m F.MC_MIGRATE_DIR = 1 then
    let u := s.get (.MC_RANK n sp) F.MC_RANK_INDEX
    let s := (setRankState s n src 1).put (.MC_RANK n src) F.MC_RANK_INDEX u
    let s := (setRankState s n sp 2).put (.MC_RANK n sp) F.MC_RANK_INDEX 0xF
    (s.put m F.MC_MIGRATE_ACTIVE 0).put m F.MC_MIGRATE_SOURCE 0xF
  else
    let u := s.get (.MC_RANK n src) F.MC_RANK_INDEX
    let s := (setRankState s n src 4).put (.MC_RANK n src) F.MC_RANK_INDEX 0xF
    ((setRankState s n sp 1).put (.MC_RANK n sp) F.MC_RANK_INDEX u).put m F.MC_MIGRATE_ACTIVE 0

/-- MIGRATION_STEP and COPY_BACK_STEP: one line is read, written to the same place of the other rank, and the pointer advances;
past the last line the copy ends (R288, R290). -/
def copyStep (s : State) (n : Nat) : State :=
  let m := Reg.MC_MIGRATE n
  let loc := s.get m F.MC_MIGRATE_POINTER
  let src := (copyRanks s n).1
  let dst := (copyRanks s n).2
  let x := checkLine (rawAt s.dram (lineKey s n src loc))
  let lost : Bool := x.ue != 0 || x.backUe || rankState s n src == 5
  let b := if lost then backing true 2 x.hand x.nohand else backing x.poison x.cause x.hand x.nohand
  let s := issued s n (rowCmd s n src loc .activate)
  let s := noteRead s n src (lineOf s n (s.get (.MC_RANK n src) F.MC_RANK_INDEX) loc) x
  if !s.bit m F.MC_MIGRATE_ACTIVE then s
  else
    let i := injectRaw s n (rawLine x.data b)
    let k := lineKey i.2 n dst loc
    let s := issued { i.2 with dram := setRaw i.2.dram k i.1 } n (rowCmd s n dst loc (.write k i.1))
    let s := s.put m F.MC_MIGRATE_POINTER (loc + 1)
    if loc + 1 < rankLines s then s else endCopy s n

/-- Whether a copy runs whose next line lies on a subchannel, with both its banks open. -/
def copyWaits (s : State) (n sc : Nat) : Bool :=
  let loc := s.get (.MC_MIGRATE n) F.MC_MIGRATE_POINTER
  let r := copyRanks s n
  s.bit (.MC_MIGRATE n) F.MC_MIGRATE_ACTIVE && (s.chan n).switch_.isNone && localSc loc == sc &&
  bankOpen s n r.1 (keyBank (localKey r.1 loc)) (chanTime s n sc) &&
  bankOpen s n r.2 (keyBank (localKey r.2 loc)) (chanTime s n sc)

/-- Whether a row of the neighbour-refresh queue waits on a subchannel with its bank open. -/
def neighbourReady (s : State) (n sc : Nat) (e : Nat × List Nat) : Bool :=
  keySc e.1 == sc && bankOpen s n (keyRank e.1) (keyBank e.1) (chanTime s n sc)

/-- NEIGHBOUR_REFRESH_ISSUE: one neighbour row of the first queued row that may go is activated (R284). -/
def neighbourStep (s : State) (n sc : Nat) : State :=
  let c := s.chan n
  match c.neigh.find? (neighbourReady s n sc) with
  | none => s
  | some e =>
    let rest := e.2.drop 1
    let i := c.neigh.findIdx (neighbourReady s n sc)
    let l := if rest = [] then dropAt c.neigh i else c.neigh.set i (e.1, rest)
    let row := keyBank e.1 * 2 ^ 18 + e.2.headD 0
    let s := (s.setChan n { c with neigh := l }).put (.MC_ACT n) F.MC_ACT_QUEUED l.length
    let s := issued s n ⟨slotOf s n (keyRank e.1), sc, keyRank e.1, row, false, 0, .activate⟩
    if rest = [] then (s.inc (.MC_REFRESH n) F.MC_REFRESH_NEIGHBOUR).countBlk (32 + n) 0x0305 1 else s

/-- Whether a neighbour refresh waits on a subchannel. -/
def neighbourWaits (s : State) (n sc : Nat) : Bool := (s.chan n).neigh.any (neighbourReady s n sc)

/-- Data of a rank test's pattern at a local line (R290): all zeros, all ones, alternating 0x55 and 0xAA, the byte address
within the rank in every word (DESIGN CHOICE for its form and order, log entry 98). -/
def testData (pat loc : Nat) : LineData :=
  match pat with
  | 0 => 0
  | 1 => BitVec.allOnes 512
  | 2 => BitVec.ofNat 512 ((List.range 32).foldl (fun x k => x + 0xAA55 * 2 ^ (16 * k)) 0)
  | _ => BitVec.ofNat 512 ((List.range 8).foldl (fun x w => x + (64 * loc + 8 * w) * 2 ^ (64 * w)) 0)

/-- The steps of a rank test: each of the four patterns written to every line, then read from every line. -/
def testSteps (s : State) : Nat := 8 * rankLines s

/-- RANK_TEST_STEP: the test writes one line with its pattern, or reads one and compares it (R290). -/
def testStep (s : State) (n : Nat) (t : RankTest) : State :=
  let lines := rankLines s
  let loc := t.step % lines
  let pat := t.step / lines / 2
  let k := lineKey s n t.rank loc
  let want := rawLine (testData pat loc) (backing false 0 0 true)
  if t.step / lines % 2 = 0 then
    let i := injectRaw s n want
    let s := issued { i.2 with dram := setRaw i.2.dram k i.1 } n (rowCmd s n t.rank loc (.write k i.1))
    s.setChan n { s.chan n with test := some { t with step := t.step + 1 } }
  else
    let s := issued s n (rowCmd s n t.rank loc .activate)
    s.setChan n { s.chan n with test := some { t with step := t.step + 1, bad := t.bad || rawAt s.dram k != want } }

/-- Whether a test has a step for a subchannel, with its bank open. -/
def testWaits (s : State) (n sc : Nat) (t : RankTest) : Bool :=
  let loc := t.step % rankLines s
  decide (t.step < testSteps s) && localSc loc == sc &&
  bankOpen s n t.rank (keyBank (localKey t.rank loc)) (chanTime s n sc)

/-- The first correction write of a subchannel that no earlier request of its line and no claim holds back. -/
def correction (s : State) (n sc : Nat) : Option MemWr :=
  let c := s.chan n
  c.writes.find? (fun w => w.fix && (placeOf s w.line).sc == sc && !lineHeld s n w.line && firstOf c w.line == w.seq
    && bankFree s n (bankOf s w.line) (chanTime s n sc) && (claimsOf s n (bankOf s w.line)).isEmpty)

/-- Items 2 to 4 of R281: a correction write, a neighbour refresh, a copy or test step; `none` where nothing waits. -/
def upkeep (s : State) (n sc : Nat) : Option State :=
  match correction s n sc with
  | some w => some (issueWrite s n w)
  | none =>
    if neighbourWaits s n sc then some (neighbourStep s n sc)
    else if copyWaits s n sc then some (copyStep s n)
    else
      match (s.chan n).test with
      | some t => if testWaits s n sc t then some (testStep s n t) else none
      | none => none

/-- Key of the REFsb spacing of a bank index of a rank on a subchannel. -/
def refKey (r sc b : Nat) : Nat := 4 * (2 * r + sc) + b

/-- Whether a refresh that is due may be issued: its DIMM is not held, its banks are free, and tREFI / 2 has passed since the
last REFsb of the same bank (R282, R304). A claim does not hold it back (R303 item 4). -/
def refreshReady (s : State) (n sc : Nat) (e : Nat × Nat × Nat) : Bool :=
  let now := chanTime s n sc
  e.1 == sc && (s.chan n).retry.get? (slotOf s n e.2.1) == none &&
  (List.range 8).all (fun g => bankFree s n (((e.2.1 * 2 + sc) * 8 + g) * 4 + e.2.2) now) &&
  (match (s.chan n).lastRef.get? (refKey e.2.1 sc e.2.2) with
   | some t => decide (clocksIn s n (500 * s.get (.MC_TIMING n) F.MC_TIMING_TREFI) ≤ now - t)
   | none => true)

/-- Item 1 of R281: a refresh command that is due, then items 2 to 4. -/
def reserveUse (s : State) (n sc : Nat) : Option State :=
  let c := s.chan n
  match c.due.find? (refreshReady s n sc) with
  | some e =>
    let i := c.due.findIdx (refreshReady s n sc)
    let s := s.setChan n { c with
      due := dropAt c.due i
      lastRef := c.lastRef.set (refKey e.2.1 sc e.2.2) (chanTime s n sc) }
    let s := issued s n ⟨slotOf s n e.2.1, sc, e.2.1, 0, false, 0, .refresh e.2.2⟩
    some ((s.inc (.MC_REFRESH n) F.MC_REFRESH_REFSB).countBlk (32 + n) 0x0304 1)
  | none => upkeep s n sc

/-- The next command that a held DIMM re-issues on a subchannel (R287), with the DIMM's slot. -/
def redoNext (s : State) (n sc : Nat) : Option (Nat × MemRetry × MemCmd) :=
  (s.chan n).retry.findSome? (fun e =>
    match e.2.redo with
    | m :: _ => if m.sc = sc ∧ e.2.recur = none then some (e.1, e.2, m) else none
    | [] => none)

/-- One command re-issued: a write stores again what it stored, a read that is to be reissued will return its burst, a refresh
refreshes again (R287). -/
def redoStep (s : State) (n slot : Nat) (y : MemRetry) (m : MemCmd) : State :=
  let c := s.chan n
  let s := s.setChan n { c with retry := c.retry.set slot { y with redo := y.redo.drop 1, last := some m } }
  let s := issued s n m
  match m.op with
  | .write k raw => { s with dram := setRaw s.dram k raw }
  | .read q =>
    let c := s.chan n
    s.setChan n { c with reads := c.reads.map (fun x => if x.seq = q then { x with again := false } else x) }
  | .refresh b =>
    let c := s.chan n
    ((s.setChan n { c with lastRef := c.lastRef.set (refKey m.rank m.sc b) (chanTime s n m.sc) }).inc (.MC_REFRESH n)
      F.MC_REFRESH_REFSB).countBlk (32 + n) 0x0304 1
  | .activate => s

/-- The decision of one trick of a subchannel (R99, R281). -/
def decideChan (n sc : Nat) (s : State) : Pick :=
  let p := 0x30 + n
  let x := s.point p
  let many := decide (16 < (s.chan n).neigh.length) && neighbourWaits s n sc
  decideTrick true (trickOwner s p x.trick) (reserveUse s n sc).isSome many x.holder 32
    (x.last.getD (lastRequester p)) (activePrio s p) (isCut s p) (chanCands s n sc)

/-- The decision of one trick of a subchannel, carried out (R99, R281, R303). -/
def playChan (s : State) (n sc : Nat) : State :=
  let p := 0x30 + n
  let own := trickOwner s p (s.point p).trick
  let s := if own ≤ 0x3F then claimBanks s n sc own else s
  let e := decideChecked s p (chanCands s n sc) (decideChan n sc)
  let s := e.1
  let pk := e.2
  let s := applyPick (s.setPoint p { s.point p with winner := none }) p pk
  let s :=
    match pk with
    | .refresh => (reserveUse s n sc).getD s
    | .neighbour => neighbourStep s n sc
    | .idle => (upkeep s n sc).getD s
    | .dead => s
    | .dealt c | .trumped c | .granted c => serve s n c.idx
  expireGrant s p

/-- One trick of a subchannel (R99, R268, R281). A trick in which a held DIMM re-issues a command carries nothing else
(DEDUCED, log entry 99). The trick counter moves on after subchannel 1. -/
def channelTrick (s : State) (n sc : Nat) : State :=
  let p := 0x30 + n
  let s := dealCheck s p
  let s := match redoNext s n sc with
    | some e => redoStep s n e.1 e.2.1 e.2.2
    | none => playChan s n sc
  if sc = 1 then (nextTrick s p).countBlk (32 + n) 0x0301 1 else s

/-- Whether the unit of a point is in Fold: it decides nothing (R410). -/
def pointFolded (s : State) (p : Nat) : Bool :=
  s.power.fabric == 2 || (decide (0x20 ≤ p ∧ p < 0x30) && sliceFolded s (p - 0x20)) ||
  (decide (0x30 ≤ p) && s.get .SCK_IOD_STATE (F.SCK_IOD_STATE_CHANNEL (p - 0x30)) == 2)

/-- The number of a point (R89). -/
def pointNo (k : PointKind) (n : Fin 16) : Fin 64 :=
  match k with
  | .up => ⟨n, by omega⟩
  | .down => ⟨0x10 + n, by omega⟩
  | .slice => ⟨0x20 + n, by omega⟩
  | .channel => ⟨0x30 + n, by omega⟩

/-- ARBITRATE_TRICK: one trick of a point (R99). At a memory channel it is the trick of one subchannel. -/
def execArbitrateTrick (k : PointKind) (n : Fin 16) (sc : Fin 2) (s : State) : Out :=
  let p := pointNo k n
  if pointFolded s p then .next s
  else if k = .channel then .next (channelTrick s n sc.val) else .next (fabricTrick s p.val)

/-! ### The commands of a channel -/

/-- MC_READ_DATA: the burst of an issued read returns: checked and corrected (R277), the errors recorded, the correction
write queued, and the line passed to its home slice (R299). -/
def execMcReadData (n : Fin 16) (line : Nat) (s : State) : Out :=
  let c := s.chan n
  let folded := s.get .SCK_IOD_STATE (F.SCK_IOD_STATE_CHANNEL n) == 2
  match c.reads.find? (fun r => r.line == line && r.raw.isSome && !r.again && !folded) with
  | none => .next s
  | some q =>
    let e := s.iodSram 14 (0x2300 + n) (line * 64)
    let s := e.2
    let x := checkLine (q.raw.getD 0)
    let x := if e.1 then { x with poison := true } else x
    let c := s.chan n
    let s := admitWaiting (s.setChan n { c with reads := c.reads.filter (fun y => y.seq != q.seq) }) n
    let s := noteRead s n q.rank line x
    let s := if x.backUe then s.raise (.HOME_ERR (q.q / 2)) 3 10 (0x2200 + q.q / 2) none 2 (line * 64) else s
    let s := if x.fixed ≠ 0 ∧ x.ue = 0 ∧ ¬ x.backUe then
        let c := s.chan n
        s.setChan n { c with
          writes := c.writes ++ [⟨q.q + 1, q.hand, line, c.seq, s.cycle, false, x.data,
            backing x.poison x.cause x.hand x.nohand, true, false⟩]
          seq := c.seq + 1 }
      else s
    match (s.slice (q.q / 2)).txns.find? (fun t => t.req.line == line && t.reading) with
    | some t => .next (releaseWb (finishTxn s (q.q / 2) t (some (x.data, x.poison))) (q.q / 2) line)
    | none => .next s

/-- REFSB_DUE: a refresh command of a rank falls due on a subchannel, for its bank indices in turn (R282; the turn is
DEDUCED, log entry 100). -/
def execRefsbDue (n : Fin 16) (sc : Fin 2) (rank : Fin 8) (s : State) : Out :=
  if s.bit (.MC_CFG n) F.MC_CFG_ENABLE ∧ rank.val < s.get (.MC_CFG n) F.MC_CFG_RANKS then
    let c := s.chan n
    let k := 2 * rank.val + sc.val
    let b := c.nextRef.getD k 0
    .next (s.setChan n { c with due := c.due ++ [(sc.val, rank.val, b)], nextRef := c.nextRef.set k ((b + 1) % 4) })
  else .next s

/-- DIMM_THERMAL_POLL: tREFI is 1,950 ns while a DIMM reports above 85 °C, otherwise 3,900 ns (R282). -/
def execDimmThermalPoll (n : Fin 16) (hot : Bool) (s : State) : Out :=
  .next ((s.put (.MC_REFRESH n) F.MC_REFRESH_HOT (if hot then 1 else 0)).put (.MC_TIMING n) F.MC_TIMING_TREFI
    (if hot then 1950 else 3900))

/-- NEIGHBOUR_REFRESH_QUEUE: a row whose count has reached ACT_THRESH is queued and its count returns to zero; with the
queue full it is not, and ACT_OVERFLOW sets (R284). -/
def execNeighbourRefreshQueue (n : Fin 16) (key : Nat) (s : State) : Out :=
  let c := s.chan n
  match c.act.find? (fun e => e.1 == key) with
  | none => .next s
  | some e =>
    if e.2 < s.get (.MC_ACT n) F.MC_ACT_THRESH then .next s
    else if 32 ≤ c.neigh.length then
      .next (mcErr (s.inc (.MC_ACT n) F.MC_ACT_OVERFLOWS) n 5 14 1 none 0)
    else
      let row := keyRow key
      let rows := (if row = 0 then [] else [row - 1])
        ++ (if row + 1 < 2 ^ rowBits s then [row + 1] else [])
      .next ((s.setChan n { c with
        neigh := c.neigh ++ [(key, rows)]
        act := c.act.map (fun e => if e.1 = key then (key, 0) else e) }).put (.MC_ACT n) F.MC_ACT_QUEUED
          (c.neigh.length + 1))

/-- ACT_TABLE_CLEAR: every entry is cleared at the start of a 32 ms refresh window (R283). -/
def execActTableClear (n : Fin 16) (s : State) : Out :=
  .next ((s.setChan n { s.chan n with act := [] }).put (.MC_ACT n) F.MC_ACT_USED 0)

/-- CE_HOUR_WINDOW: an hour window begins, so every rank's CE_HOUR returns to zero (R286). -/
def execCeHourWindow (s : State) : Out :=
  .next (overAll (List.range 16) (fun s n =>
    overAll (List.range 8) (fun s r => s.put (.MC_RANK n r) F.MC_RANK_CE_HOUR 0) s) s)

/-- RANK_RETIRE_START: the retirement of a rank that must be retired begins (R288). -/
def execRankRetireStart (n : Fin 16) (rank : Fin 8) (s : State) : Out :=
  let c := s.chan n
  if c.retire.contains rank.val then
    let s := s.setChan n { c with retire := c.retire.filter (fun r => r != rank.val) }
    if rankState s n rank = 1 ∧ rank.val ≠ spareRank s n ∧ spareFree s n then .next (beginRetire s n rank)
    else if rankState s n rank = 1 then .next (failRank s n rank)
    else .next s
  else .next s

/-- SWITCHOVER_END: requests for the rank are served again, under the pointer rule (R288, R290). -/
def execSwitchoverEnd (n : Fin 16) (s : State) : Out :=
  .next (s.setChan n { s.chan n with switch_ := none })

/-- ALERT_N: issue on the DIMM is held, the commands of its last 64 tricks are to be re-issued in their first order, then every
read of it whose data has not returned and that is not among them. While the DIMM is held already, ALERT_N has recurred on the
command re-issued last (R287). -/
def execAlertN (n : Fin 16) (slot : Fin 2) (s : State) : Out :=
  let c := s.chan n
  match c.retry.get? slot.val with
  | some y => .next (s.setChan n { c with retry := c.retry.set slot.val { y with recur := y.last.or y.redo.head? } })
  | none =>
    let mine (r : MemRd) : Bool := r.raw.isSome && slotOf s n r.rank == slot.val
    let cmds := (c.hist.filter (fun h => h.slot == slot.val)).reverse
    let more := (c.reads.filter (fun r => mine r && !cmds.any (fun m => m.op == .read r.seq))).map (fun r =>
      { reqCmd s n r.line (.read r.seq) with slot := slot.val, rank := r.rank })
    .next (s.setChan n { c with
      retry := c.retry.set slot.val ⟨cmds ++ more, none, none⟩
      hist := c.hist.filter (fun h => h.slot != slot.val)
      reads := c.reads.map (fun r => if mine r then { r with again := true } else r) })

/-- CMD_RETRY_END: every command has been re-issued, so the error is cured; or ALERT_N recurred on one, and its rank is retired:
the reads not yet reissued are then issued anew (R287). Before either, the retry goes on. -/
def execCmdRetryEnd (n : Fin 16) (slot : Fin 2) (s : State) : Out :=
  let c := s.chan n
  match c.retry.get? slot.val with
  | none => .next s
  | some y =>
    match y.recur with
    | some m =>
      let s := s.setChan n { c with
        retry := c.retry.erase slot.val
        reads := c.reads.map (fun q => if q.again ∧ slotOf s n q.rank = slot.val then { q with raw := none, again := false } else q) }
      let x := checkLine (storedRaw s m.line)
      let hand := if !m.req ∨ x.nohand ∨ x.backUe then none else some x.hand
      .next (mustRetire (mcErr s n 4 12 3 hand m.line) n m.rank)
    | none =>
      if y.redo = [] then .next (mcErr (s.setChan n { c with retry := c.retry.erase slot.val }) n 3 11 0 none 0) else .next s

/-- RESULT of MC_RANK_CMD (R291). -/
def rankResult (s : State) (n op r : Nat) : Nat :=
  let st := rankState s n r
  if st ≠ 4 ∧ st ≠ 5 then 1
  else if op = 2 ∧ ¬ (s.bit (.MC_RANK n r) F.MC_RANK_TESTED ∧ s.bit (.MC_RANK n r) F.MC_RANK_PASS) then 2
  else if s.bit (.MC_MIGRATE n) F.MC_MIGRATE_ACTIVE ∨ (s.chan n).test.isSome then 3
  else 0

/-- MC_RANK_CMD with OP TEST, from H[0]: the rank enters TESTING (R290, R291). -/
def execMcRankCmdTest (who : Agent) (n : Fin 16) (v : Word) (s : State) : Out :=
  if !s.isHouse who ∨ F.MC_RANK_CMD_OP.get v ≠ 1 then .next s
  else
    let r := F.MC_RANK_CMD_RANK.get v
    let c := rankResult s n 1 r
    let s := s.put (.MC_RANK_CMD n) F.MC_RANK_CMD_RESULT c
    if c ≠ 0 then .next s
    else
      let st := rankState s n r
      .next (setRankState (s.setChan n { s.chan n with test := some ⟨r, 0, st, false⟩ }) n r 6)

/-- MC_RANK_CMD with OP RETURN, from H[0]: a copy-back begins with its switch-over, or a tested FAILED rank becomes ACTIVE
at once (R290, R291). -/
def execMcRankCmdReturn (who : Agent) (n : Fin 16) (v : Word) (s : State) : Out :=
  if !s.isHouse who ∨ F.MC_RANK_CMD_OP.get v ≠ 2 then .next s
  else
    let r := F.MC_RANK_CMD_RANK.get v
    let m := Reg.MC_MIGRATE n
    let c := rankResult s n 2 r
    let s := s.put (.MC_RANK_CMD n) F.MC_RANK_CMD_RESULT c
    if c ≠ 0 then .next s
    else if s.get m F.MC_MIGRATE_SOURCE = r then
      let s := drainRank s n (spareRank s n)
      let s := (setRankState s n r 7).setChan n { s.chan n with switch_ := some (r, true) }
      .next (((s.put m F.MC_MIGRATE_ACTIVE 1).put m F.MC_MIGRATE_DIR 1).put m F.MC_MIGRATE_POINTER 0)
    else .next (setRankState s n r 1)

/-- A FAILED rank that passed its test has every line written as poisoned zeros (R290). -/
def blankRank (s : State) (n r : Nat) : State :=
  let base := 80 * ((n * 8 + r) * 2 ^ 30)
  let hi := 80 * 2 ^ 37
  let s := s.setChan n { s.chan n with blank := r :: (s.chan n).blank.filter (fun x => x != r) }
  { s with dram := s.dram.filter (fun a =>
    !((decide (base ≤ a.1) && decide (a.1 < base + 80 * 2 ^ 30))
      || (decide (hi + base ≤ a.1) && decide (a.1 < hi + base + 80 * 2 ^ 30)))) }

/-- RANK_TEST_END: once every step is done, TESTED with PASS, or FAIL where a line read back other than written or the DIMM
found a fault of its own (`pass` false); a FAILED rank that passes has every line written as poisoned zeros (R290). -/
def execRankTestEnd (n : Fin 16) (pass : Bool) (s : State) : Out :=
  let c := s.chan n
  match c.test with
  | none => .next s
  | some t =>
    if t.step < testSteps s then .next s
    else
      let ok := pass && !t.bad
      let s := s.setChan n { c with test := none }
      let s := (setRankState s n t.rank t.prior).put (.MC_RANK n t.rank) F.MC_RANK_TESTED 1
      let s := s.put (.MC_RANK n t.rank) F.MC_RANK_PASS (if ok then 1 else 0)
      if !ok then .next (mcErr s n 8 13 3 none 0)
      else if t.prior = 5 then .next (blankRank s n t.rank)
      else .next s

/-- A write of MC_INJECT by H[0] (R292, R432). -/
def mcInject (who : Agent) (n : Nat) (v : Word) (s : State) : State :=
  if s.isHouse who then s.wr (.MC_INJECT n) ((Reg.MC_INJECT n).written (s.rd (.MC_INJECT n)) v) else s

/-- MC_INJECT.CA_PARITY: the next command is sent with inverted parity (R292). -/
def execMcInjectCaParity (who : Agent) (n : Fin 16) (v : Word) (s : State) : Out := .next (mcInject who n v s)
/-- MC_INJECT.BACKING: bits 0 and 1 of the next backing word written are inverted (R292). -/
def execMcInjectBacking (who : Agent) (n : Fin 16) (v : Word) (s : State) : Out := .next (mcInject who n v s)
/-- MC_INJECT.ARM: bits of the next line written are inverted (R292). -/
def execMcInjectArm (who : Agent) (n : Fin 16) (v : Word) (s : State) : Out := .next (mcInject who n v s)

end Sys2Proof.Machine
end

