-- ==== Sys2Proof/Machine/Amend.lean ====
section
/-! DEFINITION. Membership, way assignment and the switch points of an addendum (R82, R83, R86, R186, R187). -/

namespace Sys2Proof.Machine

/-! ### Hand membership and L3 ways -/

/-- The owner of each L3 way of a die, way 0 first; 0xFF is shared (R186). -/
def wayOwners (s : State) (d : Nat) : List Nat :=
  let own := ((s.folio.hands.filter (fun r => (s.coresOf r.hand).any (fun c => c / 24 == d))).flatMap
    (fun r => List.replicate r.ways r.hand)).take 16
  List.replicate (16 - own.length) 0xFF ++ own.reverse

/-- SHV_WAYMAP of a die from the assignment of R186. -/
def setWaymap (s : State) (d : Nat) : State :=
  overAll ((wayOwners s d).zipIdx) (fun s e =>
    s.put (.SHV_WAYMAP d (e.2 / 8)) (F.SHV_WAYMAP_OWNER (e.2 % 8)) e.1) s

/-- The count of a hand's cores in FAB_HAND (R116). -/
def setHandCount (s : State) (h : Nat) : State := s.put (.FAB_HAND h) F.FAB_HAND_CORES (s.coresOf h).length

/-- One bit of FAB_HAND_CORES. -/
def setMember (s : State) (h c : Nat) (b : Bool) : State :=
  let r := Reg.FAB_HAND_CORES h (c / 64)
  let m := BitVec.ofNat 64 (2 ^ (c % 64))
  setHandCount (s.wr r (if b then s.rd r ||| m else s.rd r &&& ~~~ m)) h

/-- A core moved from one hand to another; 64 is no hand. -/
def moveCore (s : State) (c new old : Nat) : State :=
  let s := if old < 64 then setMember s old c false else s
  if new < 64 then setMember s new c true else s

/-! ### Budgets (R351, R352) -/

/-- The QUEUES record of a function. -/
def queueRec (s : State) (f : FnId) : QueueRec := (s.folio.queue? f).getD ⟨0, false, 0, 0, 0, 0, 0, 0, 0, 0, []⟩
/-- The function of a QUEUES record. -/
def recFn (r : QueueRec) : FnId := if r.vf = 0xFFFF then .pf (Fin.ofNat 8 r.port) else .vf (Fin.ofNat 4096 r.vf)

/-- Parts into which a bucket counts one slip or byte: a rate per second adds that many parts in a cycle of 0.5 ns. -/
def bucketUnit : Nat := 2000000000

/-- The buckets of a function refilled up to a cycle, that one included, and cut to their depths. -/
def refillTo (s : State) (f : FnId) (c : Nat) : State :=
  let r := queueRec s f
  let x := s.fn f
  let n := c - x.lastAt
  s.setFn f { x with
    slipLv := min (x.slipLv + r.slips * n) (r.burstSlips * bucketUnit)
    byteLv := min (x.byteLv + r.bytes * n) (r.burstBytes * bucketUnit)
    lastAt := max x.lastAt c }

/-- The buckets of a function at this cycle. -/
def refill (s : State) (f : FnId) : State := refillTo s f s.cycle

/-- New budgets in force: until the switch cycle the buckets refill at the old rates, from it on at the new ones, and a level
above a new depth is cut (R352). -/
def switchBudgets (s : State) (recs : List QueueRec) : State :=
  let upTo (s : State) := overAll recs (fun s r => refillTo s (recFn r) (s.cycle - 1)) s
  let s := upTo s
  upTo { s with folio := { s.folio with queues := recs }, arc := { s.arc with queuesPend := [] } }

/-! ### Switching -/

/-- Number of set bits below 64. -/
def count64 (n : Nat) : Nat := ((List.range 64).filter (fun i => n.testBit i)).length

/-- ADDENDUM_SWITCHED: with the last affected point switched, FOL_ADD_STATE returns to IDLE and ADD_DONE sets (R82). -/
def finishAddendum (s : State) : State :=
  let s := s.put .FOL_ADD_STATE F.FOL_ADD_STATE_POINTS (count64 s.arc.points)
  if s.get .FOL_ADD_STATE F.FOL_ADD_STATE_STATE = 3 ∧ s.arc.points = 0 then
    ((s.put .FOL_ADD_STATE F.FOL_ADD_STATE_STATE 0).put .FOL_ERR F.FOL_ERR_ADD_DONE 1).arrive 1
  else s

/-- Points that no longer have to switch (R83, R86). -/
def dropPoints (s : State) (ps : List Nat) : State :=
  finishAddendum { s with arc := { s.arc with points := ps.foldl (fun n p => if n.testBit p then n - 2 ^ p else n) s.arc.points } }

/-- What an addendum switches at a point besides its shadow content: membership of the die's cores with the L3 ways at an
up direction, budgets at home slice 0 (R83, R187, R352). -/
def amendAt (s : State) (p : Nat) : State :=
  if p < 0x10 then
    let ms := s.arc.members.filter (fun m => m.1 / 24 == p)
    if ms = [] then s
    else
      let s := { s with arc := { s.arc with members := s.arc.members.filter (fun m => m.1 / 24 != p) } }
      setWaymap (overAll ms (fun s m => moveCore s m.1 m.2.1 m.2.2) s) p
  else if p = 0x20 ∧ s.arc.queuesPend ≠ [] then
    switchBudgets s s.arc.queuesPend
  else s

/-- POINT_SWITCH: a point switches at its round boundary (R108, R113, R114), and with it the addendum's content at the
point (R83). -/
def execPointSwitch (p : Fin 64) (s : State) : Out :=
  if atSwitch s p then
    let add := addendumPoint s p
    let s := switchPoint s p
    if add then .next (dropPoints (amendAt s p) [p.val]) else .next s
  else .next s

end Sys2Proof.Machine
end

