-- ==== Sys2Proof/Machine/Links.lean ====
section
/-! DEFINITION. The die links: parcels, status and replay (R23 to R33), heartbeat (R35), spare-lane repair (R36 to R40),
training and negotiation (R41 to R47), injection (R48). -/

namespace Sys2Proof.Machine

/-- The FIFO fill of a direction's receiver, as DL_STATUS shows it. -/
def setFill (s : State) (d : Nat) (dir : Dir) (n : Nat) : State :=
  match dir with
  | .up => s.put (.DL_STATUS d) F.DL_STATUS_FILL_UP n
  | .dn => s.put (.DL_STATUS d) F.DL_STATUS_FILL_DN n

/-- A DL_ERR bit with its class: 0 LINK_RECENTRE, 1 LINK_REPAIR, 2 LINK_SPARE_OUT, 3 DIE_STOP, 4 DIE_REFUSED (R434). -/
def linkErr (s : State) (d b cls sev : Nat) : State := s.raise (.DL_ERR d) b cls (0x2100 + d) none sev 0

/-! ### Injected errors of the sender (R48) -/

/-- A byte with the bits of one of two lanes inverted; its bits go to the lanes alternately (R28; for the status lanes
DEDUCED, log entry 90). -/
def flipByte (k : Nat) (b : BitVec 8) : BitVec 8 :=
  (List.range 4).foldl (fun b u => b ^^^ ((1 : BitVec 8) <<< (2 * u + k))) b

/-- A parcel with one lane of a group inverted: codes 1 to 32 data, 33 to 36 check, 37 and 38 sequence, 39 and 40 status
(R22, R28). -/
def flipLane (g code : Nat) (p : Parcel) : Parcel :=
  if 1 ≤ code ∧ code ≤ 32 then
    { p with bits := (List.range 4).foldl (fun b u =>
        b ^^^ ((1 : BitVec 1024) <<< (128 * g + 32 * u + (code - 1)))) p.bits }
  else if 33 ≤ code ∧ code ≤ 36 then
    { p with crc := (List.range 4).foldl (fun b u => b ^^^ ((1 : BitVec 128) <<< (16 * g + 4 * u + (code - 33)))) p.crc }
  else if (code = 37 ∨ code = 38) ∧ g = 0 then
    { p with seq := flipByte (code - 37) p.seq }
  else if (code = 39 ∨ code = 40) ∧ g = 0 then { p with stat := flipByte (code - 39) p.stat }
  else p

/-- The other direction of a link. -/
def otherDir : Dir → Dir
  | .up => .dn
  | .dn => .up

/-- A status lane of a direction carries status bytes for the other one: inverted, it inverts the byte that is under way
there (R22, R30). -/
def flipStatus (s : State) (d : Nat) (dir : Dir) (g code : Nat) : State :=
  let l := s.link d (otherDir dir)
  if (code = 39 ∨ code = 40) ∧ g = 0 then
    s.setLink d (otherDir dir) { l with status := (l.status.take 1).map (flipByte (code - 39)) ++ l.status.drop 1 }
  else s

/-- What DL_INJECT does to the next parcel of a direction, and the register after it (R48). COUNT counts down as parcels are
inverted, so that it reads 0 when LANE_FLIP clears (DESIGN CHOICE, log entry 91: R48 says only that LANE_FLIP is cleared when
done). -/
def injectParcel (s : State) (d : Nat) (dir : Dir) (p : Parcel) : Parcel × State :=
  let r := Reg.DL_INJECT d
  let crcF := match dir with | .up => F.DL_INJECT_CRC_UP | .dn => F.DL_INJECT_CRC_DN
  let hit := s.bit r F.DL_INJECT_LANE_FLIP && s.get r F.DL_INJECT_DIR == (match dir with | .up => 0 | .dn => 1)
  let p1 := if s.bit r crcF then { p with crc := p.crc ^^^ 1 } else p
  let s1 := if s.bit r crcF then s.put r crcF 0 else s
  if hit then
    let n := s1.get r F.DL_INJECT_COUNT - 1
    let s2 := s1.put r F.DL_INJECT_COUNT n
    let g := s.get r F.DL_INJECT_GROUP
    let code := s.get r F.DL_INJECT_LANE
    (flipLane g code p1, flipStatus (if n = 0 then s2.put r F.DL_INJECT_LANE_FLIP 0 else s2) d dir g code)
  else (p1, s1)

/-! ### Parcels, status bytes and replay -/

/-- The status byte for a parcel (R30): odd parity over all eight bits. -/
def statusByte (seq : Nat) (good : Bool) : Byte :=
  let b : Byte := BitVec.ofNat 8 (seq % 32 + (if good then 0x20 else 0x40))
  if parity b.toNat = 0 then b ||| 0x80 else b

/-- The register that holds the error count of a lane by position (R36, R450): group 0 in DL_LANE_ERR, groups 1 to 7 in
FLT_LANE. -/
def laneReg (d : Nat) (dir : Dir) (g pos : Nat) : Reg :=
  if g = 0 then (match dir with | .up => .DL_LANE_ERR_UP d (pos / 8) | .dn => .DL_LANE_ERR_DN d (pos / 8))
  else .FLT_LANE d (match dir with | .up => 0 | .dn => 1) g (pos / 8)

/-- IOD cycles of the counting window of a link (R37). -/
def laneWindow (s : State) (d : Nat) : Nat := s.get (.DL_REPAIR_CFG d) F.DL_REPAIR_CFG_WINDOW_US * 2000

/-- Adds one to the error count of a lane; a count that rises is noted with its cycle for as long as the window of R37
lasts. -/
def countLane (s : State) (d : Nat) (dir : Dir) (g pos : Nat) : State :=
  let r := laneReg d dir g pos
  let l := s.link d dir
  let s := if s.get r (F.DL_LANE_ERR_UP_CNT (pos % 8)) < 255 then
      s.setLink d dir { l with
        rises := l.rises.filter (fun e => decide (s.cycle < e.2.2 + laneWindow s d)) ++ [(g, pos, s.cycle)] }
    else s
  s.inc r (F.DL_LANE_ERR_UP_CNT (pos % 8))

/-- Whether a lane's count has risen by THRESH or more within WINDOW_US (R37). -/
def laneDue (s : State) (d : Nat) (dir : Dir) (g pos : Nat) : Bool :=
  let n := ((s.link d dir).rises.filter (fun e =>
    e.1 == g && e.2.1 == pos && decide (s.cycle < e.2.2 + laneWindow s d))).length
  decide (1 ≤ n) && decide (s.get (.DL_REPAIR_CFG d) F.DL_REPAIR_CFG_THRESH ≤ n)

/-- Whether a link covers the sequence byte with the CRC of group 0: the CRCSEQ feature (R42, R43). -/
def crcSeq (s : State) (d : Nat) : Bool := (s.rd (.DL_FEAT_EFF d)).getLsbD 7

/-- The positions of group `g` whose bits differ between a rejected parcel and its good replay, the status lanes among them
(R36). The replay flag and the CRC bits it changes are no errors. -/
def badLanes (cover : Bool) (g : Nat) (old new : Parcel) : List Nat :=
  let data := (List.range 32).filter (fun l =>
    (List.range 4).any (fun u => old.bits.getLsbD (128 * g + 32 * u + l) != new.bits.getLsbD (128 * g + 32 * u + l)))
  let seq0 : BitVec 8 := (new.seq &&& 0x1F) ||| (old.seq &&& 0x20)
  let crc := groupCrc cover new.bits seq0 g
  let check := (List.range 4).filter (fun l =>
    (List.range 4).any (fun u => old.crc.getLsbD (16 * g + 4 * u + l) != crc.getLsbD (4 * u + l)))
  let seq := if g = 0 then (List.range 2).filter (fun l =>
    (List.range 4).any (fun u => old.seq.getLsbD (2 * u + l) != seq0.getLsbD (2 * u + l))) else []
  let stat := if g = 0 then (List.range 2).filter (fun l =>
    (List.range 4).any (fun u => old.stat.getLsbD (2 * u + l) != new.stat.getLsbD (2 * u + l))) else []
  data ++ check.map (32 + ·) ++ seq.map (36 + ·) ++ stat.map (38 + ·)

/-- LANE_ERROR_COUNT: the lanes of every failed group of the rejected parcel (R36). -/
def countLanes (s : State) (d : Nat) (dir : Dir) (old new : Parcel) : State :=
  overAll (List.range 8) (fun s g =>
    if groupCrc (crcSeq s d) old.bits old.seq g == old.crc.extractLsb' (16 * g) 16 then s
    else overAll (badLanes (crcSeq s d) g old new) (fun s pos => countLane s d dir g pos) s) s

/-- A status byte returned to the sender; DL_INJECT.STATUS inverts the parity of one sent to the compute die (R48). -/
def returnStatus (s : State) (d : Nat) (dir : Dir) (seq : Nat) (good : Bool) : State :=
  let b := statusByte seq good
  let inj := (match dir with | .up => true | .dn => false) && s.bit (.DL_INJECT d) F.DL_INJECT_STATUS
  let s := if inj then s.put (.DL_INJECT d) F.DL_INJECT_STATUS 0 else s
  let l := s.link d dir
  s.setLink d dir { l with status := l.status ++ [if inj then b ^^^ 0x80 else b] }

/-- A parcel leaves the FIFO for the receiver's fabric register (R34): messages that came up go to their home slices; those
that went down are in the die's fabric, and the management messages among them hold shadow words or COMMIT (R32, R482). -/
def deliver (s : State) (d : Nat) (dir : Dir) (e : SentParcel) : State :=
  let l := s.link d dir
  let s := s.setLink d dir { l with freg := l.freg ++ [e] }
  match dir with
  | .up => overAll ((parcelMsgs d dir e.bits).getD []) (fun s m => s.send (0x20 + sliceOf s m.line) d m) s
  | .dn =>
    let x := s.point d
    if e.mgmt.isEmpty then s
    else s.setPoint d { x with rcvd := receiveWords x.rcvd e.mgmt, commitIn := x.commitIn || e.mgmt.contains [] }

/-- A parcel enters the receiver's FIFO; the oldest ones leave it until it holds `fill`, and where it holds fewer it is padded
with idle parcels (R24, R25). -/
def throughFifo (s : State) (d : Nat) (dir : Dir) (fill : Nat) (e : SentParcel) : State :=
  let l := s.link d dir
  let q := l.fifo ++ [e]
  let n := q.length - fill
  let s := s.setLink d dir { l with
    fifo := List.replicate (fill - q.length) SentParcel.idle ++ q.drop n
    freg := [] }
  overAll (q.take n) (fun s x => deliver s d dir x) s

/-- PARCEL_RECEIVE (R24, R25, R29 to R32, R36): a parcel at the deskew output, and the fill of the FIFO after it. `p` is the
parcel as launched; the injections of DL_INJECT act on it first. A parcel that is not accepted leaves an idle place in the FIFO.
A parcel whose CRCs fail is taken for the expected one while no rejection is outstanding, since its sequence bits may be wrong
(DEDUCED, log entry 92). CRC_UP and CRC_DN set for a parcel whose CRCs fail in the place of the expected one, not for one that a
recentre rejects or that is out of sequence (DESIGN CHOICE, log entry 93: the register table says 'parcel rejected'). -/
def execParcelReceive (d : Fin 16) (dir : Dir) (fill : Nat) (p : Parcel) (s : State) : Out :=
  if ¬ linkUp s d ∨ (s.link d dir).remap ≠ none then .next s
  else
    let (p, s) := injectParcel s d dir p
    let l := s.link d dir
    let forced := (match dir with | .up => true | .dn => false) && s.bit (.DL_INJECT d) F.DL_INJECT_FIFO
    let recentre := decide (fill ≤ 1) || decide (7 ≤ fill) || forced
    let fill := if recentre then 4 else fill
    let s := setFill s d dir fill
    let s := if recentre then
        linkErr (if forced then s.put (.DL_INJECT d) F.DL_INJECT_FIFO 0 else s) d 2 0 1
      else s
    let seq := (p.seq &&& 0x1F).toNat
    let good := parcelGood (crcSeq s d) p && (parcelMsgs d dir p.bits).isSome
    if (seq = l.expSeq ∧ (recentre ∨ ¬ good)) ∨ (¬ good ∧ l.kept.isNone) then
      let s := if good then s else
        s.wr (.DL_ERR d) (s.rd (.DL_ERR d) ||| (match dir with | .up => 1 | .dn => 2))
      let s := s.setLink d dir { l with
        rejects := if p.seq.getLsbD 5 then l.rejects + 1 else 0
        kept := some p }
      .next (returnStatus (throughFifo s d dir fill SentParcel.idle) d dir l.expSeq false)
    else if seq ≠ l.expSeq then
      .next (returnStatus (throughFifo s d dir fill SentParcel.idle) d dir seq false)
    else
      let s := match l.kept with
        | some old => countLanes s d dir old p
        | none => s
      let l := s.link d dir
      let mg := ((l.replay.find? (fun x => x.seq == seq)).getD SentParcel.idle).mgmt
      let s := s.setLink d dir { l with expSeq := (l.expSeq + 1) % 32, rejects := 0, kept := none }
      .next (returnStatus (throughFifo s d dir fill ⟨seq, p.bits, mg⟩) d dir seq true)

/-- A replay begins: it is counted, the sender stops new traffic and resends the parcels from `seq` on, in order (R31). -/
def startReplay (s : State) (d : Nat) (dir : Dir) (seq : Nat) : State :=
  let l := s.link d dir
  let s := s.setLink d dir { l with resend := (l.replay.map (·.seq)).dropWhile (fun q => q != seq) }
  match dir with
  | .up => s.inc (.DL_REPLAYS d) F.DL_REPLAYS_REPLAY_UP
  | .dn => s.inc (.DL_REPLAYS d) F.DL_REPLAYS_REPLAY_DN

/-- Whether a status byte counts: odd parity, and exactly one of GOOD and BAD (R30, R31). -/
def statusValid (b : Byte) : Bool := parity b.toNat == 1 && (b.getLsbD 5 != b.getLsbD 6)

/-- STATUS_BYTE_RECEIVE (R31): GOOD frees the parcel, BAD starts a replay from it; an invalid byte is as absent. A BAD
for a later parcel of a replay under way belongs to that replay. -/
def execStatusByteReceive (d : Fin 16) (dir : Dir) (b : Byte) (s : State) : Out :=
  let l := s.link d dir
  let s := s.setLink d dir { l with status := l.status.tail }
  let l := s.link d dir
  let seq := (b &&& 0x1F).toNat
  if !statusValid b then .next s
  else if b.getLsbD 5 then
    .next (s.setLink d dir { l with
      replay := l.replay.filter (fun x => x.seq != seq)
      resend := l.resend.filter (fun q => q != seq) })
  else if l.replay.any (fun x => x.seq == seq) ∧ (l.resend = [] ∨ (l.replay.head?.map (·.seq)) = some seq) then
    .next (startReplay s d dir seq)
  else .next s

/-- STATUS_TIMEOUT (R31): no valid GOOD for a buffered parcel 14 parcel times after its launch. -/
def execStatusTimeout (d : Fin 16) (dir : Dir) (seq : BitVec 5) (s : State) : Out :=
  if (s.link d dir).replay.any (fun x => x.seq == seq.toNat) then
    .next (startReplay (s.wr (.DL_ERR d) (s.rd (.DL_ERR d) ||| 8)) d dir seq.toNat)
  else .next s

/-! ### Heartbeat and clock (R35) -/

/-- Whether R35 applies to a die: not while the Scorekeeper takes it to Fold or Out (R417). -/
def watched (s : State) (d : Nat) : Bool :=
  linkUp s d && decide (s.get (.SCK_DIE d) F.SCK_DIE_TARGET < 2)

/-- HB_LOST: no good parcel and no training pattern for 2,000 parcel times. The stop of the die that follows is one class
3 event together with this bit (R440). -/
def execHbLost (d : Fin 16) (s : State) : Out :=
  if watched s d then
    .next ((s.put (.DL_STATUS d) F.DL_STATUS_HB_OK 0).put (.DL_ERR d) F.DL_ERR_HB_LOST 1)
  else .next s

/-- CLK_LOST: the clock-activity monitor of a link finds a forwarded clock stopped. -/
def execClkLost (d : Fin 16) (s : State) : Out :=
  if watched s d then .next (s.put (.DL_ERR d) F.DL_ERR_CLK_LOST 1) else .next s

/-! ### Spare-lane repair (R37 to R40) -/

/-- The repair register of a direction. -/
def repairReg (d : Nat) : Dir → Reg
  | .up => .DL_REPAIR_UP d
  | .dn => .DL_REPAIR_DN d

/-- The lane that the spare of a group replaces; 0 where the spare is free. -/
def spareOf (s : State) (d : Nat) (dir : Dir) (g : Nat) : Nat := s.get (repairReg d dir) (F.DL_REPAIR_UP_SPARE g)

/-- Whether a lane code names a lane of a group (DL_REPAIR_UP). -/
def laneCode (g code : Nat) : Bool := decide (1 ≤ code) && (decide (code ≤ 36) || (g == 0 && decide (code ≤ 40)))

/-- Whether spare-lane repair is in effect on a link: the DLSPARE feature (R42, R43). -/
def dlSpare (s : State) (d : Nat) : Bool := (s.rd (.DL_FEAT_EFF d)).getLsbD 6

/-- A remap begins: the direction stalls and the link reads REMAP (R38). -/
def beginRemap (s : State) (d : Nat) (dir : Dir) (g code : Nat) : State :=
  let l := s.link d dir
  setLinkState (s.setLink d dir { l with remap := some (g, code) }) d 3

/-- Whether a remap runs in either direction of a link (R39). -/
def remapping (s : State) (d : Nat) : Bool := (s.link d .up).remap.isSome || (s.link d .dn).remap.isSome

/-- A lane at its threshold: SPARE_EXHAUSTED where the group's spare is in use, a place in the link's queue while a remap runs
in either direction, otherwise the remap begins (R37, R39). -/
def remapLane (s : State) (d : Nat) (dir : Dir) (g code : Nat) : State :=
  if spareOf s d dir g ≠ 0 then linkErr s d 6 2 1
  else if remapping s d then s.setDie d { s.die d with remaps := (s.die d).remaps ++ [(dir, g, code)] }
  else beginRemap s d dir g code

/-- LANE_REMAP_START: with AUTO set, a lane's count rose by THRESH within WINDOW_US (R37). The rises that led to it count no
further (DESIGN CHOICE, log entry 94). -/
def execLaneRemapStart (d : Fin 16) (dir : Dir) (group : Fin 8) (lane : BitVec 6) (s : State) : Out :=
  let pos := lane.toNat - 1
  if linkUp s d ∧ s.bit (.DL_REPAIR_CFG d) F.DL_REPAIR_CFG_AUTO ∧ dlSpare s d
      ∧ laneCode group lane.toNat ∧ laneDue s d dir group pos then
    let l := s.link d dir
    let s := s.setLink d dir { l with rises := l.rises.filter (fun e => !(e.1 == group.val && e.2.1 == pos)) }
    .next (remapLane s d dir group lane.toNat)
  else .next s

/-- REMAP_COMPLETE (R38): the spare carries the lane, SPARE_USED sets, the FIFO stands at 4 and the sender replays from the
oldest parcel without GOOD. That replay is no count of DL_REPLAYS, whose causes do not name a remap (DESIGN CHOICE, log entry
95). A queued remap then follows (R39). -/
def execRemapComplete (d : Fin 16) (dir : Dir) (s : State) : Out :=
  let l := s.link d dir
  match l.remap with
  | none => .next s
  | some (g, code) =>
    let s := s.put (repairReg d dir) (F.DL_REPAIR_UP_SPARE g) code
    let s := setFill s d dir 4
    let n := l.fifo.length - 4
    let s := s.setLink d dir { l with
      remap := none
      resend := l.replay.map (·.seq)
      fifo := List.replicate (4 - l.fifo.length) SentParcel.idle ++ l.fifo.drop n
      freg := [] }
    let s := overAll (l.fifo.take n) (fun s x => deliver s d dir x) s
    let s := linkErr (setLinkState s d (if remapping s d then 3 else 2)) d 5 1 1
    match (s.die d).remaps with
    | [] => .next s
    | (dir2, g2, c2) :: t => .next (remapLane (s.setDie d { s.die d with remaps := t }) d dir2 g2 c2)

/-- DL_REPAIR_CMD.GO (R39, R48, R450): H[0] only; ignored while a remap runs or the group's spare is in use. -/
def execDlRepairCmdGo (who : Agent) (d : Fin 16) (v : Word) (s : State) : Out :=
  let g := F.DL_REPAIR_CMD_GROUP.get v
  let code := F.DL_REPAIR_CMD_LANE.get v
  let dir : Dir := if F.DL_REPAIR_CMD_DIR.get v = 0 then .up else .dn
  if s.isHouse who ∧ F.DL_REPAIR_CMD_GO.get v = 1 ∧ linkState s d = 2 ∧ (s.link d dir).remap = none
      ∧ spareOf s d dir g = 0 ∧ laneCode g code ∧ dlSpare s d then
    .next (beginRemap s d dir g code)
  else .next s

/-! ### Training and negotiation (R40 to R47) -/

/-- What the IOD offers: revision ID-A1, features 0 to 7 (R42, R48). -/
def iodRev : Nat := 0x11
def iodFeat : Nat := 0xFF

/-- Both directions as training starts: fresh buffers and counters, all spares free and all lane counts zero (R40). -/
def freshLink (s : State) (d : Nat) : State :=
  let s := (s.setLink d .up Link.trained).setLink d .dn Link.trained
  let s := s.setDie d { s.die d with remaps := [] }
  let s := (s.clr (.DL_REPAIR_UP d)).clr (.DL_REPAIR_DN d)
  let s := overAll (List.range 5) (fun s k => (s.clr (.DL_LANE_ERR_UP d k)).clr (.DL_LANE_ERR_DN d k)) s
  overAll (List.range 2) (fun s r => overAll (List.range 7) (fun s g =>
    overAll (List.range 5) (fun s k => s.clr (.FLT_LANE d r (g + 1) k)) s) s) s

/-- A die that cannot come back, in a rejoin or from Out: Out, FLT_DIE REFUSED (R441, R47, R418). -/
def refuseDie (s : State) (d : Nat) : State :=
  if s.get (.FLT_DIE d) F.FLT_DIE_STATE = 3 ∨ (s.die d).capOld.isSome then
    let s := if s.get (.SCK_DIE d) F.SCK_DIE_STATE = 3 then s else (s.put (.SCK_DIE d) F.SCK_DIE_STATE 3).arrive (80 + d)
    let s := s.setDie d { s.die d with wake := none, rejoin := 0 }
    (s.put (.FLT_DIE d) F.FLT_DIE_STATE 4).put (.SCK_DIE d) F.SCK_DIE_LADDER 0
  else s

/-- Lane faults of training step 2 mapped to spares; false where a group has no spare left. -/
def mapFaults (s : State) (d : Nat) : List (Dir × Fin 8 × BitVec 6) → Bool × State
  | [] => (true, s)
  | (dir, g, code) :: t =>
    if spareOf s d dir g ≠ 0 then (false, s)
    else mapFaults (s.put (repairReg d dir) (F.DL_REPAIR_UP_SPARE g) code.toNat) d t

/-- CAPABILITY_EXCHANGE (R43): the IOD records what the die sent and what it offers, and sets DL_FEAT_EFF. -/
def exchange (s : State) (d : Nat) (o : DieOffer) : State :=
  let s := s.wr (.DL_CAP_DIE d) (BitVec.ofNat 64 (o.coreGood.toNat * 2 ^ 16 + o.rev.toNat))
  let s := s.wr (.DL_FEAT_DIE d) (BitVec.ofNat 64 o.feat.toNat)
  let s := s.wr (.DL_FEAT_IOD d) (BitVec.ofNat 64 (iodRev * 2 ^ 32 + iodFeat))
  s.wr (.DL_FEAT_EFF d) (BitVec.ofNat 64 (2 ^ 63 + (o.feat &&& BitVec.ofNat 32 iodFeat).toNat))

/-- One link trained from reset or Out (R41): deskew with lane faults, capability exchange (R43, R44, R47), FIFO at 4,
sequence numbers 0, HB_OK. After CAP_CHANGED the link is DOWN (DESIGN CHOICE, log entry 96: R47 says only that the die stays out
of service). -/
def trainLink (s : State) (d : Nat) (offer : DieOffer) (faults : List (Dir × Fin 8 × BitVec 6)) : State :=
  let s := setLinkState ((freshLink s d).put (.DL_STATUS d) F.DL_STATUS_HB_OK 0) d 1
  match mapFaults s d faults with
  | (false, s) => refuseDie (linkErr (setLinkState s d 0) d 6 2 1) d
  | (true, s) =>
    let s := exchange s d offer
    if offer.rev.toNat / 16 < 2 then refuseDie (linkErr (setLinkState s d 5) d 9 4 3) d
    else
      let changed :=
        match (s.die d).capOld with
        | some (eff, good) => eff != s.rd (.DL_FEAT_EFF d) || good.toNat != s.get (.DL_CAP_DIE d) F.DL_CAP_DIE_CORE_GOOD
        | none => false
      if changed then refuseDie (linkErr (setLinkState s d 0) d 10 4 3) d
      else
        let s := setFill (setFill s d .up 4) d .dn 4
        setLinkState (s.put (.DL_STATUS d) F.DL_STATUS_HB_OK 1) d 2

/-- Whether a link is in training with its die on the way up from Out: its ladder has begun step 3, which only an enabled die's
does (R41, R53, R418). -/
def trainsFromOut (s : State) (d : Nat) : Bool :=
  linkState s d == 1 && s.get (.SCK_DIE d) F.SCK_DIE_STATE == 3

/-- LINK_TRAINING (R41). -/
def execLinkTraining (d : Fin 16) (offer : DieOffer) (faults : List (Dir × Fin 8 × BitVec 6)) (s : State) : Out :=
  if trainsFromOut s d then .next (trainLink s d offer faults) else .next s

/-- TRAINING_STEP_TIMEOUT (R41): the link goes DOWN with the error bit of the step, and a rejoining die is refused with a
class 4 record (R441). From Fold only steps 1, 4 and 5 run (R418). -/
def execTrainingStepTimeout (d : Fin 16) (step : Fin 6) (s : State) : Out :=
  if linkState s d ≠ 1 ∨ step = 0 ∨ (s.get (.SCK_DIE d) F.SCK_DIE_STATE = 2 ∧ (step = 2 ∨ step = 3)) then .next s
  else
    let rejoining := s.get (.FLT_DIE d) F.FLT_DIE_STATE = 3
    let s := setLinkState s d 0
    let s :=
      match step.val with
      | 1 => linkErr s d 8 3 3
      | 2 => linkErr s d 6 2 1
      | 3 => linkErr s d 9 4 3
      | 4 => linkErr s d 2 0 1
      | _ => linkErr s d 7 3 3
    if rejoining ∧ step.val ≠ 3 then
      .next (refuseDie (s.fault ⟨4, 0x2100 + d.val, none, 0, 3, 0, 0⟩) d)
    else .next (refuseDie s d)

/-! ### DL_INJECT (R48, R450) -/

/-- A write of DL_INJECT by H[0]: the fields are stored; HB acts in the cycle of the write and clears itself; LANE_FLIP
with COUNT 0 is done at once. -/
def dlInject (who : Agent) (d : Fin 16) (v : Word) (s : State) : State :=
  if !s.isHouse who then s
  else
    let r := Reg.DL_INJECT d
    let s := s.wr r (r.written (s.rd r) v)
    let s := if s.get r F.DL_INJECT_COUNT = 0 then s.put r F.DL_INJECT_LANE_FLIP 0 else s
    if s.bit r F.DL_INJECT_HB then
      ((s.put r F.DL_INJECT_HB 0).put (.DL_STATUS d) F.DL_STATUS_HB_OK 0).put (.DL_ERR d) F.DL_ERR_HB_LOST 1
    else s

/-- DL_INJECT.LANE_FLIP: the next COUNT parcels of a direction have one lane inverted at the sender. -/
def execDlInjectLaneFlip (who : Agent) (d : Fin 16) (v : Word) (s : State) : Out := .next (dlInject who d v s)
/-- DL_INJECT.FIFO: the next up-direction parcel meets a forced recentre. -/
def execDlInjectFifo (who : Agent) (d : Fin 16) (v : Word) (s : State) : Out := .next (dlInject who d v s)
/-- DL_INJECT.HB: the heartbeat detector reports loss in the cycle of the write (R35). -/
def execDlInjectHb (who : Agent) (d : Fin 16) (v : Word) (s : State) : Out := .next (dlInject who d v s)
/-- DL_INJECT.STATUS: the next status byte sent to the compute die has wrong parity. -/
def execDlInjectStatus (who : Agent) (d : Fin 16) (v : Word) (s : State) : Out := .next (dlInject who d v s)
/-- DL_INJECT.CRC_DN: the next down-direction parcel has CRC bit 0 of group 0 inverted. -/
def execDlInjectCrcDn (who : Agent) (d : Fin 16) (v : Word) (s : State) : Out := .next (dlInject who d v s)
/-- DL_INJECT.CRC_UP: the next up-direction parcel has CRC bit 0 of group 0 inverted. -/
def execDlInjectCrcUp (who : Agent) (d : Fin 16) (v : Word) (s : State) : Out := .next (dlInject who d v s)

end Sys2Proof.Machine
end

