-- ==== Sys2Proof/Machine/Contain.lean ====
section
/-! DEFINITION. Stop and rejoin of a compute die, injection into SRAM, the record ring, lost deal words (R233, R432 to
R450). -/

namespace Sys2Proof.Machine

/-! ### Die power states -/

/-- The power state of a die; source 80 + d arrives when it changes (R429). -/
def setDiePower (s : State) (d n : Nat) : State :=
  if s.get (.SCK_DIE d) F.SCK_DIE_STATE = n then s
  else (s.put (.SCK_DIE d) F.SCK_DIE_STATE n).arrive (80 + d)

/-- State of a die in FLT_DIE: 0 DISABLED, 1 IN_SERVICE, 2 STOPPED, 3 REJOINING, 4 REFUSED. -/
def dieState (s : State) (d : Nat) : Nat := s.get (.FLT_DIE d) F.FLT_DIE_STATE
def setDieState (s : State) (d n : Nat) : State := s.put (.FLT_DIE d) F.FLT_DIE_STATE n

/-! ### Stop (R233, R440, R442) -/

/-- Cores of a die. -/
def coresOnDie (d : Nat) : List Nat := (List.range 24).map (fun i => 24 * d + i)

/-- Hands with cores on a die. -/
def handsOnDie (s : State) (d : Nat) : List Nat :=
  (List.range 64).filter (fun h => (coresOnDie d).any (fun c => s.inHand h c))

/-- Both points of a fenced link stop: what waits there is discarded and a pending COMMIT clears (R115, R233). -/
def fencePoint (s : State) (p : Nat) : State :=
  let x := s.point p
  let s := s.setPoint p { x with
    ready := [], holder := none, burst := 0, owners := [], winner := none, commit := none, commitIn := false, mgmt := [], rcvd := [] }
  s.wr .FAB_COMMIT_PEND (s.rd .FAB_COMMIT_PEND &&& ~~~ BitVec.ofNat 64 (2 ^ p))

/-- Steps 1 and 2 of R233: the link is fenced in both directions, the die's bit is set in HOME_DIE_MASK. -/
def fenceDie (s : State) (d : Nat) : State :=
  let s := setLinkState s d 4
  let s := (s.setLink d .up Link.init).setLink d .dn Link.init
  let s := fencePoint (fencePoint s d) (0x10 + d)
  s.wr .HOME_DIE_MASK (s.rd .HOME_DIE_MASK ||| BitVec.ofNat 64 (2 ^ d))

/-- Step 3 of R233 in one slice: every snoop the die has not answered is answered SNP_RSP_I; where the die owned the line,
it is poisoned (R234). -/
def answerFor (s : State) (n d : Nat) : State :=
  let x := s.slice n
  let owned (line : Nat) : Bool :=
    (match findEnt s n line with
      | some (_, e) => decide (2 ≤ e.st) && e.own == d
      | none => false)
  let s := overAll (x.txns.filter (fun t => t.await.contains d)) (fun s t =>
    let s := if t.snooped && owned t.req.line then poisonLine s n t.req.line t.req.hand else s
    snoopAnswer s n d t.req.line false none) s
  let s := overAll (x.staged.filter (fun e => e.await.contains d)) (fun s e =>
    let s := if decide (2 ≤ e.ent.st) && e.ent.own == d then poisonLine s n e.ent.line e.hand else s
    snoopAnswer s n d e.ent.line false none) s
  overAll (x.recover.filter (fun e => e.2.2.contains d)) (fun s e => snoopAnswer s n d e.1 false none) s

/-- Step 4 of R233 in one slice: the die's REQ messages that have not entered are dropped, and entry is suspended until the
transactions open at the declaration have ended. -/
def dropReqs (s : State) (n d : Nat) : State :=
  let isReq (m : Msg) : Bool := reqDie m == some d && opClass m.op == 0
  let x := s.point (0x20 + n)
  let s := s.setPoint (0x20 + n) { x with ready := x.ready.filter (fun r => !isReq r.msg) }
  let y := s.slice n
  s.setSlice n { y with
    held := y.held.filter (fun m => !isReq m)
    suspend := true }

/-- What a compute die loses when it stops: caches, buffers, cores. The values recorded for R47 are kept. -/
def loseDie (s : State) (d : Nat) : State :=
  let k := s.die d
  let cap := match k.capOld with
    | some c => some c
    | none => some (s.rd (.DL_FEAT_EFF d), BitVec.ofNat 64 (s.get (.DL_CAP_DIE d) F.DL_CAP_DIE_CORE_GOOD))
  let s := s.setDie d { Die.init with capOld := cap, vsel := k.vsel, since := k.since }
  overAll (coresOnDie d) (fun s c =>
    if s.coreState c = 0 then s else (s.setCore c Core.init).setCoreState c 5) s

/-- The scrub of a die whose rejoin is abandoned ends, with the die's mask bit still set (R442). -/
def abandonScrub (s : State) (d : Nat) : State :=
  if s.get .HOME_SCRUB F.HOME_SCRUB_BUSY = 1 ∧ s.get .HOME_SCRUB F.HOME_SCRUB_DIE = d then
    nextScrub (s.put .HOME_SCRUB F.HOME_SCRUB_BUSY 0)
  else s

/-- The declaration of a stopped die for a cause of R440. A die that rejoins is abandoned (R442); a die in no service is
left alone. -/
def dieStop (s : State) (d cause : Nat) : State :=
  let st := dieState s d
  if st ≠ 1 ∧ st ≠ 3 then s
  else
    let k := s.die d
    let s := fenceDie s d
    let s := overAll (List.range 16) (fun s n =>
      s.setSlice n { s.slice n with txns := (s.slice n).txns.map (fun t => { t with old := true }) }) s
    let s := overAll (List.range 16) (fun s n => answerFor s n d) s
    let s := overAll (List.range 16) (fun s n => dropReqs s n d) s
    let s := setDieState s d 2
    let s := (s.inc (.FLT_DIE d) F.FLT_DIE_STOPS).put (.FLT_DIE d) F.FLT_DIE_CAUSE cause
    let s := if st = 1 ∧ k.since ≠ 0 ∧ s.mtime < k.since - 1 + 100000000 then
        s.put (.FLT_DIE d) F.FLT_DIE_AUTO_HELD 1 else s
    let s := loseDie s d
    let s := dropPoints { s with arc := { s.arc with members := s.arc.members.filter (fun m => m.1 / 24 != d) } }
      [d, 0x10 + d]
    let s := s.fault ⟨3, 0x2100 + d, none, cause, 3, 0, 0⟩
    if st = 3 then setDiePower (abandonScrub s d) d 3
    else overAll (handsOnDie s d) State.handLoss s

/-- REPLAY_FAIL: a parcel rejected on 8 consecutive replays fails the link, and the die stops (R33, R440). -/
def execReplayFail (d : Fin 16) (dir : Dir) (s : State) : Out :=
  if 8 ≤ (s.link d dir).rejects ∧ linkUp s d then
    .next (dieStop (s.put (.DL_ERR d) F.DL_ERR_REPLAY_FAIL 1) d 1)
  else .next s

/-- DIE_STOP_DECLARE: the IOD declares a die stopped, after the DL_ERR bit of cause 1 to 3, or for TAG_LOST (R233, R440,
R446). -/
def execDieStopDeclare (d : Fin 16) (cause : Fin 6) (s : State) : Out :=
  let ok : Bool :=
    match cause.val with
    | 1 => s.bit (.DL_ERR d) F.DL_ERR_REPLAY_FAIL
    | 2 => s.bit (.DL_ERR d) F.DL_ERR_HB_LOST
    | 3 => s.bit (.DL_ERR d) F.DL_ERR_CLK_LOST
    | 4 => true
    | _ => false
  if ok then .next (dieStop s d cause) else .next s

/-- FLT_DIE_CMD with OP STOP, from H[0] (R440 cause 5). -/
def execFltDieCmdStop (who : Agent) (v : Word) (s : State) : Out :=
  if s.isHouse who ∧ F.FLT_DIE_CMD_OP.get v = 1 then .next (dieStop s (F.FLT_DIE_CMD_DIE.get v) 5) else .next s

/-! ### Rejoin (R441) -/

/-- A rejoin begins: STATE reads REJOINING and the Scorekeeper removes the die's rail (R441 step 1). -/
def beginRejoin (s : State) (d : Nat) (auto : Bool) : State :=
  let k := s.die d
  let s := s.setDie d { k with rejoin := 1, auto := auto, wake := none }
  setDiePower (setDieState s d 3) d 3

/-- FLT_DIE_CMD with OP REJOIN, from H[0], for a die that is STOPPED or REFUSED; it clears AUTO_HELD (R441, R442). -/
def execFltDieCmdRejoin (who : Agent) (v : Word) (s : State) : Out :=
  let d := F.FLT_DIE_CMD_DIE.get v
  if s.isHouse who ∧ F.FLT_DIE_CMD_OP.get v = 2 ∧ (dieState s d = 2 ∨ dieState s d = 4) then
    .next (beginRejoin (s.put (.FLT_DIE d) F.FLT_DIE_AUTO_HELD 0) d false)
  else .next s

/-- Whether H[0] has no core on a die in service (R439). -/
def houseless (s : State) : Bool := !(s.coresOf 0).any (fun c => s.dieInService (c / 24))

/-- AUTO_REJOIN: at the end of the 12 µs of R235, a stopped die rejoins where REJOIN is 1 or H[0] has no core in service,
and AUTO_HELD is clear (R439, R441). -/
def execAutoRejoin (d : Fin 16) (s : State) : Out :=
  if dieState s d = 2 ∧ s.get (.FLT_DIE d) F.FLT_DIE_AUTO_HELD = 0 ∧ (s.folio.faults.rejoin = 1 ∨ houseless s) then
    .next (beginRejoin s d true)
  else .next s

/-- REJOIN_RAIL_HOLD_END: after 1 ms the die rises from Out by the wake ladder (R441 step 2). -/
def execRejoinRailHoldEnd (d : Fin 16) (s : State) : Out :=
  let k := s.die d
  if dieState s d = 3 ∧ k.rejoin = 1 then
    .next ((s.setDie d { k with rejoin := 2, settling := true, wake := some 0 }).put (.SCK_DIE d) F.SCK_DIE_LADDER 1)
  else .next s

/-- The features that the folio asks of a die (R73): always EVGEN, CRCSEQ, XJSAMPLE, and by the hands with cores on it. -/
def featuresAsked (f : Folio) (d : Nat) : List Nat :=
  let hs := f.hands.filter (fun r => (List.range 24).any (fun i => r.cores.testBit (24 * d + i)))
  (if f.dieEnabled d then [5, 7] else [])
  ++ (if f.coreEn d ≠ 0 then [0] else [])
  ++ (if hs.any (fun r => r.mode == 2) then [1] else [])
  ++ (if hs.any (fun r => match f.ledger? r.hand with | some l => decide (16384 < l.q) | none => false) then [2] else [])
  ++ (if hs.any (fun r => decide (4 < r.ways)) then [3] else [])

/-- Feature level of a die (R45). -/
def featLevel (s : State) (d : Nat) : Nat := (s.rd (.DL_FEAT_EFF d)).toNat % 2 ^ 32

/-- Step 4 of R74 for one enabled die: link UP, revision in range, cores good, features present (R46). -/
def dieFits (s : State) (f : Folio) (d : Nat) : Bool :=
  let rev := s.get (.DL_CAP_DIE d) F.DL_CAP_DIE_REV
  let good := s.get (.DL_CAP_DIE d) F.DL_CAP_DIE_CORE_GOOD
  linkState s d == 2 && decide (f.cdMin ≤ rev) && decide (rev ≤ f.cdMax) &&
  f.coreEn d &&& good == f.coreEn d &&
  (featuresAsked f d).all (fun b => (featLevel s d).testBit b)

/-- Feature levels are equal over the dies of every hand with cores on a die (R46, third bullet). -/
def levelsMatch (s : State) (f : Folio) (d : Nat) : Bool :=
  f.hands.all (fun r =>
    let ds := (List.range 16).filter (fun e => (List.range 24).any (fun i => r.cores.testBit (24 * e + i)))
    !ds.contains d || ds.all (fun e => featLevel s e == featLevel s d))

/-- The deal record of a point in a folio, or its default deal (R56): tricks and burst limit. -/
def dealOf (f : Folio) (p : Nat) : List Nat × Nat :=
  match f.deals.find? (fun r => r.point == p) with
  | some r => (r.tricks, r.burst)
  | none =>
    (if isChanPoint p then (List.range 256).map (fun t => if t % 16 = 0 then 0xFE else 0xFF)
      else List.replicate 1024 0xFF, 64)

/-- A deal word of a folio: eight owner bytes. -/
def dealWord (f : Folio) (p k : Nat) : Word :=
  let t := ((dealOf f p).1.drop (8 * k)).take 8
  BitVec.ofNat 64 ((t.zipIdx).foldl (fun n e => n + e.1 % 256 * 2 ^ (8 * e.2)) 0)

/-- A point's shadow and active deal and burst limit loaded from a folio (R56, R76). -/
def loadDeal (s : State) (f : Folio) (p : Nat) : State :=
  let s := overAll (List.range (dealLen p / 8)) (fun s k =>
    (s.wr (.FAB_DEAL p k) (dealWord f p k)).wr (.FAB_DEAL_ACT p k) (dealWord f p k)) s
  let b := BitVec.ofNat 64 (dealOf f p).2
  (s.wr (.FAB_BURST p) b).wr (.FAB_BURST_ACT p) b

/-- The operating point the POWER leaf asks of a die: the OP of the hands with cores on it, otherwise 0 (R424). -/
def opOfDie (f : Folio) (d : Nat) : Nat :=
  match f.hands.find? (fun r => (List.range 24).any (fun i => r.cores.testBit (24 * d + i))) with
  | some r => f.power.op.getD r.hand 0
  | none => 0

/-- Whether a die holds cores of a ledger hand (R131). -/
def pinnedDie (f : Folio) (d : Nat) : Bool :=
  f.hands.any (fun r => r.mode == 2 && (List.range 24).any (fun i => r.cores.testBit (24 * d + i)))

/-- The leaf content of one die applied: membership of its cores, L3 ways, operating point, DL_REPAIR_CFG (R70, R76, R86,
R441). -/
def applyDie (s : State) (f : Folio) (d : Nat) : State :=
  let s := overAll (coresOnDie d) (fun s c =>
    overAll (List.range 64) (fun s h =>
      let b := match f.hand? h with | some r => r.cores.testBit c | none => false
      if s.inHand h c = b then s else setMember s h c b) s) s
  let s := setWaymap s d
  let pin := if pinnedDie f d then 1 else 0
  let s := (s.put (.SCK_DIE d) F.SCK_DIE_OP_REQ (opOfDie f d)).put (.SCK_DIE d) F.SCK_DIE_PINNED pin
  let s := s.put (.CORE_DIE_OP d) F.CORE_DIE_OP_PINNED pin
  let th := if f.faults.thresh = 0 then 16 else f.faults.thresh
  let win := if f.faults.windowUs = 0 then 1000 else f.faults.windowUs
  let s := (s.put (.DL_REPAIR_CFG d) F.DL_REPAIR_CFG_THRESH th).put (.DL_REPAIR_CFG d) F.DL_REPAIR_CFG_WINDOW_US win
  s.put (.DL_REPAIR_CFG d) F.DL_REPAIR_CFG_AUTO (if f.faults.manual then 0 else 1)

/-- The Shelver registers of a die back at their reset values (R201). -/
def clearShelver (s : State) (d : Nat) : State :=
  let s := overAll [Reg.SHV_CMD d, .SHV_BASE d, .SHV_SIZE d, .SHV_STATUS d, .SHV_SKIPPED d, .SHV_WRITTEN d,
    .SHV_PROGRESS d, .SHV_LOCK_LOST d] State.clr s
  let s := overAll (List.range 8) (fun s k => s.clr (.SHV_QUOTA d k)) s
  overAll (List.range 16) (fun s k => (s.clr (.SHV_LOCK_BASE d k)).clr (.SHV_LOCK_SIZE d k)) s

/-- REJOIN_FOLIO_REAPPLY: with the die in Play and no addendum PENDING, the die is checked against the folio in force and
its leaf content applied (R441 steps 3 and 4); then its scrub begins, or waits while another die is scrubbed (step 5). A die
that fails is REFUSED in Out with a class 4 record. -/
def execRejoinFolioReapply (d : Fin 16) (s : State) : Out :=
  let k := s.die d
  if dieState s d ≠ 3 ∨ k.rejoin ≠ 3 ∨ s.get .FOL_ADD_STATE F.FOL_ADD_STATE_STATE ≠ 0 then .next s
  else if !(dieFits s s.folio d && levelsMatch s s.folio d) then
    let s := s.fault ⟨4, 0x2100 + d.val, none, 0, 3, 0, 0⟩
    .next (setDiePower (setDieState (s.setDie d { k with rejoin := 0, wake := none }) d 4) d 3)
  else
    let s := clearShelver s d
    let s := applyDie s s.folio d
    let s := loadDeal (loadDeal s s.folio d) s.folio (0x10 + d.val)
    let s := (s.setPoint d (Point.init d)).setPoint (0x10 + d.val) (Point.init (0x10 + d.val))
    let s := s.setDie d { s.die d with rejoin := 4, capOld := none }
    .next (if s.get .HOME_SCRUB F.HOME_SCRUB_BUSY = 0 then startScrub s d else s)

/-- DIE_ENTER_SERVICE: the scrub is done, so the die's cores go from LOST to STOPPED and STATE reads IN_SERVICE (R441
step 6, R130). -/
def execDieEnterService (d : Fin 16) (s : State) : Out :=
  let k := s.die d
  if dieState s d = 3 ∧ k.rejoin = 5 ∧ ¬ dieMasked s d then
    let s := s.setDie d { k with rejoin := 0, since := if k.auto then s.mtime + 1 else 0, auto := false }
    let s := overAll (coresOnDie d) (fun s c => if s.coreState c = 5 then s.setCoreState c 1 else s) s
    .next (setDieState s d 1)
  else .next s

/-! ### Records, injection, lost deal words -/

/-- FLT_HEAD written by H[0]: the value of FLT_TAIL consumes every waiting record, another value the records before it
where that many wait (R437). -/
def execFltHeadWrite (who : Agent) (v : Word) (s : State) : Out :=
  if !s.isHouse who then .next s
  else
    let i := F.FLT_HEAD_INDEX.get v
    let w := s.get .FLT_STATUS F.FLT_STATUS_WAITING
    let n := (i + 256 - s.get .FLT_HEAD F.FLT_HEAD_INDEX) % 256
    if i = s.get .FLT_TAIL F.FLT_HEAD_INDEX then
      .next ((s.put .FLT_HEAD F.FLT_HEAD_INDEX i).put .FLT_STATUS F.FLT_STATUS_WAITING 0)
    else if n < w then
      .next ((s.put .FLT_HEAD F.FLT_HEAD_INDEX i).put .FLT_STATUS F.FLT_STATUS_WAITING (w - n))
    else .next s

/-- FLT_INJECT written by H[0] (R433, R450). -/
def execFltInjectArm (who : Agent) (v : Word) (s : State) : Out :=
  if s.isHouse who then .next (s.wr .FLT_INJECT (Reg.FLT_INJECT.written (s.rd .FLT_INJECT) v)) else .next s

/-- DEAL_WORD_RELOAD: a lost word of an active copy, reloaded by the Archivist from the folio in force, switches at the
point's second round boundary after the detection (R447). The folio holds no priorities: a lost priority word is reloaded with
its reset value (DESIGN CHOICE, log entry 126). -/
def execDealWordReload (p : Fin 64) (k : Fin 384) (s : State) : Out :=
  let x := s.point p
  if x.lostWord.contains k.val ∧ x.reload ≤ roundOf s p ∧ trickOf s p = 0 then
    let w := dealWord s.folio p k
    let s := s.setPoint p { x with lostWord := x.lostWord.filter (fun j => j != k.val) }
    if 0x100 ≤ k.val then
      let r := Reg.FAB_PRIO_ACT p (k - 0x100)
      .next (s.wr r r.reset)
    else .next ((s.wr (.FAB_DEAL p k) w).wr (.FAB_DEAL_ACT p k) w)
  else .next s

end Sys2Proof.Machine
end

