-- ==== Sys2Proof/Machine/Caches.lean ====
section
/-! DEFINITION. The caches of a compute die: L1, merging buffer, L2, L3, write-back buffer, miss tables; fills, snoops and
acknowledgements (R177 to R192, R211 to R227, R443 to R445). -/

namespace Sys2Proof.Machine

/-! ### Lookups -/

/-- The hand of a core, 0 where it has none. -/
def handOr0 (s : State) (c : Nat) : Nat := (s.handOf c).getD 0

/-- The L3 line of a die. -/
def l3Find (s : State) (d line : Nat) : Option L3Line := (s.die d).l3.find? (fun e => e.line == line)
/-- The L3 line replaced, or put in. -/
def putL3 (s : State) (d : Nat) (e : L3Line) : State :=
  let k := s.die d
  s.setDie d { k with l3 := e :: k.l3.filter (fun x => x.line != e.line) }
/-- The L3 line removed. -/
def dropL3 (s : State) (d line : Nat) : State :=
  let k := s.die d
  s.setDie d { k with l3 := k.l3.filter (fun x => x.line != line) }
/-- Slice and set of a line in the L3, as one number (R177). -/
def l3Set (line : Nat) : Nat := line / 2048 % 24 * 2048 + line % 2048

/-- The L2 line of a core. -/
def l2Find (s : State) (c line : Nat) : Option L2Line := (s.core c).l2.find? (fun e => e.line == line)
/-- The L2 line replaced, or put in; the SRAM word is written (R433). -/
def putL2 (s : State) (c : Nat) (e : L2Line) : State :=
  let k := s.core c
  sramWrite (s.setCore c { k with l2 := e :: k.l2.filter (fun x => x.line != e.line) }) 2 c (e.line * 64)

/-- A line leaves a core's L2: it leaves both L1s in the same cycle (R178), and an open-mode reservation on it is lost
(R231). -/
def dropL2 (s : State) (c line : Nat) : State :=
  let k := s.core c
  let lost : Bool := !s.ledgerCore c && (match k.resv with | some r => r.1 / 64 == line | none => false)
  s.setCore c { k with
    l2 := k.l2.filter (fun x => x.line != line)
    l1i := k.l1i.filter (fun x => x != line)
    l1d := k.l1d.erase line
    resv := if lost then none else k.resv }

/-- A line takes its place in a core's L1D: 64 sets of 16 ways; the victim is a free choice. -/
def fillL1 (s : State) (c line : Nat) (data : LineData) : State :=
  let s := sramWrite s 1 c (line * 64)
  let k := s.core c
  let same := k.l1d.filter (fun e => e.1 % 64 == line % 64 && e.1 != line)
  if same.length < 16 then s.setCore c { k with l1d := k.l1d.set line data }
  else
    let f := s.fresh
    let v := (same[f.1.toNat % same.length]?).elim line (·.1)
    f.2.setCore c { k with l1d := (k.l1d.erase v).set line data }

/-- One element of a list, chosen by a free value. -/
def choose {α : Type} (s : State) (l : List α) : Option α × State :=
  let f := s.fresh
  (l[f.1.toNat % max l.length 1]?, f.2)

/-! ### Messages of a die -/

/-- A message of a die on line `line`, to be sent by requester `q` (R96). -/
def dieMsg (d : Nat) (op : Opc) (hand line q : Nat) : Msg :=
  { msg0 op hand line with agent := q, src := .die (Fin.ofNat 16 d), die := d }

/-- What the check of a buffered word finds: corrected, or lost, so that its data goes on poisoned (R445). -/
def bufSram (s : State) (st unit line : Nat) (hand : Option Nat) : Bool × State :=
  match sramBits s st unit (line * 64) with
  | 0 => (false, s)
  | 1 => (false, (sramClear s st unit (line * 64)).fault ⟨5, unit, none, st, 0, line * 64, 0⟩)
  | _ => (true, (sramClear s st unit (line * 64)).fault ⟨6, unit, hand, st, 2, line * 64, 0⟩)

/-- A WB-class message: it enters the write-back buffer and is sent (R220). -/
def sendWb (s : State) (d q : Nat) (m : Msg) : State :=
  let k := s.die d
  let r := bufSram (sramWrite s 9 (0x2100 + d) (m.line * 64)) 9 (0x2100 + d) m.line (some m.hand)
  let m := if r.1 then { m with poison := true } else m
  (r.2.setDie d { k with wb := k.wb ++ [⟨m, false⟩] }).send d q m

/-- A line that leaves the die: WB_DATA where it is dirty, otherwise the clean notice with its generation (R192, R195). -/
def leaveMsg (evgen : Bool) (d q : Nat) (e : L3Line) (dirty poison : Bool) : Msg :=
  if dirty then { dieMsg d .wbData e.hand e.line q with data := e.data, poison := poison }
  else { dieMsg d .evictClean e.hand e.line q with gen := if evgen then BitVec.ofNat 2 e.gen else 0 }

/-- Whether a die's clean notices carry GEN: the EVGEN feature (R42, R43). -/
def evGen (s : State) (d : Nat) : Bool := (s.rd (.DL_FEAT_EFF d)).getLsbD 5

/-- Whether the write-back buffer of a die holds no more than its 32 entries (R220). -/
def wbFits (s : State) (d : Nat) : Bool := decide ((s.die d).wb.length ≤ 32)

/-- What a cache access answers, where the victims it sends out have room in the write-back buffer; otherwise nothing is done
and the access waits (R220). -/
def ifRoom {α : Type} (s0 : State) (d : Nat) (wait : α) (r : α × State) : α × State :=
  if wbFits r.2 d then r else (wait, s0)

/-- Whether the write-back buffer holds an entry for a line. -/
def wbHolds (s : State) (d line : Nat) : Bool := (s.die d).wb.any (fun w => w.msg.line == line)

/-- A request for a line on behalf of a core: one miss-table entry a line; it leaves at once unless the write-back buffer
holds the line (R219, R220). While the miss table is full none is made, and the access stays (R219). -/
def request (s : State) (d line core : Nat) (op : Opc) (chunk : Nat) : State :=
  let k := s.die d
  if k.misses.any (fun x => x.line == line) ∨ 512 ≤ k.misses.length then s
  else
    let q := core % 24
    let h := handOr0 s core
    let wait := wbHolds s d line
    let s := s.setDie d { k with misses := k.misses ++ [⟨line, op, core, h, false, !wait, chunk, []⟩] }
    if wait then s else s.send d q { dieMsg d op h line q with firstChunk := BitVec.ofNat 2 chunk }

/-! ### Core copies -/

/-- A core's copy of an L3 line is snooped inside the die: dirty data returns into the L3; the copy becomes S or goes
(R212, R213), and an open-mode reservation of that core on the line is lost (R231). Dirty data that its SRAM has lost goes on
poisoned (R445). -/
def backSnoop (s : State) (e : L3Line) (c : Nat) (keep : Bool) : L3Line × State :=
  match l2Find s c e.line with
  | none => ({ e with valid := e.valid &&& (2 ^ 24 - 1 - 2 ^ (c % 24)) }, s)
  | some l =>
    let b := if l.st = 3 then bufSram s 2 c e.line (some e.hand) else (false, s)
    let s := b.2
    let l := { l with poison := l.poison || b.1 }
    let e := if l.st = 3 then { e with data := l.data, poison := l.poison, st := 3 } else e
    if keep then
      let k := s.core c
      let lost : Bool := !s.ledgerCore c && (match k.resv with | some r => r.1 / 64 == e.line | none => false)
      (e, putL2 (if lost then s.setCore c { k with resv := none } else s) c { l with st := 1 })
    else ({ e with valid := e.valid &&& (2 ^ 24 - 1 - 2 ^ (c % 24)) }, dropL2 s c e.line)

/-- Every core copy of a line snooped, but that of `skip`. -/
def backSnoopAll (s : State) (d : Nat) (e : L3Line) (keep : Bool) (skip : Option Nat) : L3Line × State :=
  ((coresOnDie d).filter (fun c => e.valid.testBit (c % 24) && some c != skip)).foldl
    (fun (r : L3Line × State) c => backSnoop r.2 r.1 c keep) (e, s)

/-- Whether some core holds a line in M. -/
def coreDirty (s : State) (d line : Nat) : Bool :=
  (coresOnDie d).any (fun c => match l2Find s c line with | some l => l.st == 3 | none => false)

/-- Whether a core defers snoops of a line (R231). -/
def deferred (s : State) (d line : Nat) : Bool := (coresOnDie d).any (fun c => (s.core c).defer == some line)

/-- Whether another core of the die than `c` defers snoops of a line (R231). -/
def deferredFor (s : State) (c line : Nat) : Bool :=
  (coresOnDie (c / 24)).any (fun k => k != c && (s.core k).defer == some line)

/-- Every core copy of a line snooped for data that leaves the L3 or the die; dirty L3 data that its SRAM has lost goes on
poisoned (R445). -/
def takeLine (s : State) (d : Nat) (e : L3Line) (keep : Bool) : L3Line × State :=
  let own := coreDirty s d e.line
  let r := backSnoopAll s d e keep none
  if own || r.1.st != 3 then r
  else
    let b := bufSram r.2 3 (0x2100 + d) e.line (some e.hand)
    ({ r.1 with poison := r.1.poison || b.1 }, b.2)

/-- A line removed from the die with its message (R188, R192). -/
def evictL3 (s : State) (d q : Nat) (e : L3Line) : State :=
  let r := takeLine s d e false
  sendWb (dropL3 r.2 d e.line) d q (leaveMsg (evGen s d) d q r.1 (r.1.st == 3) r.1.poison)

/-! ### L3 allocation (R186 to R188) -/

/-- Owner of a way of a die's L3 (R186); 0xFF is shared. -/
def wayOwner (s : State) (d w : Nat) : Nat := s.get (.SHV_WAYMAP d (w / 8)) (F.SHV_WAYMAP_OWNER (w % 8))

/-- Whether a line is locked: it lies in a way reserved to the hand in its tag (R187). -/
def locked (s : State) (d : Nat) (e : L3Line) : Bool := wayOwner s d e.way == e.hand

/-- Whether an address lies in a valid lock range of a hand on a die (R188). -/
def inLockRange (s : State) (d hand line : Nat) : Bool :=
  (List.range 16).any (fun k =>
    let z := Reg.SHV_LOCK_SIZE d k
    let base := s.get (.SHV_LOCK_BASE d k) F.SHV_LOCK_BASE_BASE
    s.bit z F.SHV_LOCK_SIZE_VALID && s.get z F.SHV_LOCK_SIZE_HAND == hand &&
    decide (base ≤ line) && decide (line < base + s.get z F.SHV_LOCK_SIZE_SIZE))

/-- QUOTA of a hand on a die. -/
def quotaOf (s : State) (d h : Nat) : Nat := s.get (.SHV_QUOTA d (h / 8)) (F.SHV_QUOTA_QUOTA (h % 8))

/-- Lines of a set of the L3. -/
def setLines (s : State) (d line : Nat) : List L3Line := (s.die d).l3.filter (fun e => l3Set e.line == l3Set line)

/-- The retained lines of a hand in the shared ways of a set (R188, R192). -/
def retainedOf (s : State) (d line h : Nat) : List L3Line :=
  (setLines s d line).filter (fun e => e.valid == 0 && e.hand == h && wayOwner s d e.way == 0xFF)

/-- The way that an allocation takes, and the victim to remove: the victim order of R188. Of several invalid ways it takes the
lowest-numbered (DESIGN CHOICE, log entry 102: R188 names none). -/
def victim (s : State) (d line h : Nat) : Option (Nat × Option L3Line) × State :=
  let mine := (List.range 16).filter (fun w => wayOwner s d w == h)
  let res : Bool := inLockRange s d h line && !mine.isEmpty
  let ws := if res then mine else (List.range 16).filter (fun w => wayOwner s d w == 0xFF)
  let ls := setLines s d line
  match ws.find? (fun w => !ls.any (fun e => e.way == w)) with
  | some w => (some (w, none), s)
  | none =>
    let el := ls.filter (fun e => ws.contains e.way && !deferred s d e.line)
    let strays := el.filter (fun e => e.hand != h)
    let retained := el.filter (fun e => e.valid == 0)
    let own := retained.filter (fun e => e.hand == h)
    let from_ :=
      if res ∧ strays ≠ [] then strays
      else if ¬ res ∧ quotaOf s d h ≤ own.length ∧ own ≠ [] then own
      else if retained ≠ [] then retained
      else el
    let c := choose s from_
    (c.1.map (fun e => (e.way, some e)), c.2)

/-- An L3 way for a line of a hand: none where no line is eligible, or the write-back buffer has no room for the victim
(R188, R220). -/
def allocate (s : State) (d line h : Nat) : Option Nat × State :=
  match victim s d line h with
  | (none, s) => (none, s)
  | (some (w, none), s) => (some w, s)
  | (some (w, some e), s) => if 32 ≤ (s.die d).wb.length then (none, s) else (some w, evictL3 s d 24 e)

/-! ### The Shelver's view of a line (R193, R195) -/

/-- Whether the operation that runs covers a line with a hand in its tag. -/
def shvCovers (o : ShvOp) (line hand : Nat) : Bool :=
  if o.byHand then hand == o.hand else decide (o.base ≤ line) && decide (line < o.base + o.size)

/-- Whether a running INVALIDATE or CLEAN_INV covers a line and would not skip it (R192). -/
def shvTakes (s : State) (d : Nat) (e : L3Line) : Bool :=
  match (s.die d).shv with
  | some o => decide (2 ≤ o.op) && shvCovers o e.line e.hand && (!locked s d e || o.force)
  | none => false

/-! ### L2 installation and victim offers (R192) -/

/-- A line that leaves an L2 is offered to the L3 (R192). -/
def offer (s : State) (c : Nat) (l : L2Line) : State :=
  let d := c / 24
  let s := dropL2 s c l.line
  match l3Find s d l.line with
  | none => s
  | some e =>
    let e := { e with valid := e.valid &&& (2 ^ 24 - 1 - 2 ^ (c % 24)) }
    let b := if l.st = 3 then bufSram s 2 c l.line (some e.hand) else (false, s)
    let s := b.2
    let e := if l.st = 3 then { e with data := l.data, poison := l.poison || b.1, st := 3 } else e
    if e.valid ≠ 0 then putL3 s d e
    else
      let dirty := e.st == 3
      let away (s : State) : State := evictL3 s d 24 e
      let kept := (retainedOf s d e.line e.hand).filter (fun x => x.line != e.line)
      if shvTakes s d e then away (if dirty then s else s.countBlk d 0x0104 1)
      else if wayOwner s d e.way = 0xFF ∧ quotaOf s d e.hand ≤ kept.length then
        if !dirty then away (s.countBlk d 0x0104 1)
        else
          let s := putL3 s d e
          match choose s kept with
          | (some v, s) => evictL3 s d 24 v
          | (none, s) => s
      else putL3 s d e

/-- Way of a line in the L3 list that is installed nowhere: it serves the accesses that wait for it and goes within the same
step (R184, R198, R395). -/
def passWay : Nat := 16

/-- Whether a line of a die only passes through it. -/
def passes (s : State) (d line : Nat) : Bool :=
  match l3Find s d line with
  | some e => e.way == passWay
  | none => false

/-- A line installed in a core's L2 (8 ways a set); the victim is a free choice among the lines no deferral holds. A line that
only passes through takes no other's place (R198). -/
def installL2 (s : State) (c : Nat) (l : L2Line) : State :=
  let d := c / 24
  let same := (s.core c).l2.filter (fun x => x.line % 2048 == l.line % 2048 && x.line != l.line)
  let s :=
    if same.length < 8 ∨ passes s d l.line then s
    else
      match choose s (same.filter (fun x => (s.core c).defer != some x.line)) with
      | (some v, s) => offer s c v
      | (none, s) => s
  let s := putL2 s c l
  match l3Find s d l.line with
  | some e => putL3 s d { e with valid := e.valid ||| 2 ^ (c % 24) }
  | none => s

/-! ### SRAM errors of L2 and L3 (R445) -/

/-- A read of an L2 or L3 data word by a core: corrected; or lost, where a clean line goes with its notice and a dirty one is
written back poisoned. The answer says whether a dirty line was lost. -/
def cacheSram (s : State) (st unit d line : Nat) : Bool × State :=
  match sramBits s st unit (line * 64) with
  | 0 => (false, s)
  | 1 => (false, (sramClear s st unit (line * 64)).fault ⟨5, unit, none, st, 0, line * 64, 0⟩)
  | _ =>
    let s := sramClear s st unit (line * 64)
    match l3Find s d line with
    | none => (false, s)
    | some e =>
      let dirty : Bool := e.st == 3 || coreDirty s d line
      let r := backSnoopAll s d e false none
      let s := sendWb (dropL3 r.2 d line) d 24 (leaveMsg (evGen s d) d 24 r.1 dirty dirty)
      if dirty then (true, s.fault ⟨6, unit, some e.hand, st, 2, line * 64, 0⟩)
      else (false, s.fault ⟨5, unit, none, st, 1, line * 64, 0⟩)

/-- A read of the die's tag of a line: one copy wrong is corrected or rewritten, both wrong stop the die (R445, R446). -/
def tagSram (s : State) (d line : Nat) : State :=
  let u := 0x2100 + d
  let s :=
    match sramBits s 4 u (line * 64) with
    | 0 => s
    | n => (sramClear s 4 u (line * 64)).fault ⟨5, u, none, 4, if n = 1 then 0 else 1, line * 64, 0⟩
  match sramBits s 5 u (line * 64) with
  | 0 => s
  | 1 => (sramClear s 5 u (line * 64)).fault ⟨5, u, none, 5, 0, line * 64, 0⟩
  | _ => dieStop (sramClear s 5 u (line * 64)) d 4

/-! ### Core requests at the L3 (R212) -/

/-- Data of a line for a core's read: from its L2 or the L3; otherwise the miss is issued (R212). A line that another core of
the die defers is not to be had yet (R231); one that only passes through enters no L2 by a read (R184, R198). -/
def coreRead (s : State) (c line chunk : Nat) : Option (LineData × Bool) × State :=
  let d := c / 24
  ifRoom s d none <|
  match l2Find s c line with
  | some l => (some (l.data, l.poison), s)
  | none =>
    match l3Find s d line with
    | none => (none, request s d line c .rdShared chunk)
    | some e =>
      if e.way = passWay ∧ e.valid = 0 then (some (e.data, e.poison), s)
      else if e.st = 1 then
        (some (e.data, e.poison), installL2 s c ⟨line, 1, e.data, e.poison⟩)
      else if deferredFor s c line then (none, s)
      else
        let others := e.valid &&& (2 ^ 24 - 1 - 2 ^ (c % 24)) != 0
        let r := backSnoopAll s d e true none
        let s := putL3 r.2 d r.1
        (some (r.1.data, r.1.poison), installL2 s c ⟨line, if others then 1 else 2, r.1.data, r.1.poison⟩)

/-- The SRAM words of a line checked for a store, an atomic or a publication, in the L2 or, where the L2 lacks the line, in
the L3 (R445). -/
def checkOwn (s : State) (c line : Nat) : State :=
  let d := c / 24
  let s := if (l2Find s c line).isSome then (cacheSram s 2 c d line).2 else s
  if (l2Find s c line).isNone ∧ (l3Find s d line).isSome then (cacheSram s 3 (0x2100 + d) d line).2 else s

/-- Ownership of a line for a core: it holds the line in M afterwards, or the miss is issued with the critical chunk of its
access (R183, R211, R212), or another core of the die still defers the line (R231). -/
def coreOwn (s : State) (c line chunk : Nat) : Option L2Line × State :=
  let d := c / 24
  ifRoom s d none <|
  let s := checkOwn s c line
  match l2Find s c line with
  | some l =>
    if 2 ≤ l.st then (some { l with st := 3 }, putL2 s c { l with st := 3 })
    else
      match l3Find s d line with
      | some e =>
        if 2 ≤ e.st then
          let r := backSnoopAll s d e false (some c)
          let s := putL3 r.2 d r.1
          (some ⟨line, 3, r.1.data, r.1.poison⟩, putL2 s c ⟨line, 3, r.1.data, r.1.poison⟩)
        else (none, request s d line c .upgrade chunk)
      | none => (none, request s d line c .rdOwn chunk)
  | none =>
    match l3Find s d line with
    | none => (none, request s d line c .rdOwn chunk)
    | some e =>
      if deferredFor s c line then (none, s)
      else if 2 ≤ e.st then
        let r := backSnoopAll s d e false none
        let s := putL3 r.2 d r.1
        (some ⟨line, 3, r.1.data, r.1.poison⟩, installL2 s c ⟨line, 3, r.1.data, r.1.poison⟩)
      else (none, request s d line c .upgrade chunk)

/-! ### The hardware-error exception (R150, R151) -/

/-- Cause 19 on a core: mjerr holds the record, class 28 acts, VOID_ERR sets for a ledger hand, the trap is taken. -/
def hwError (s : State) (c : Nat) (va : Word) (kind line : Nat) : State :=
  let s := s.setCsr c 0x7C1 (BitVec.ofNat 64 (2 ^ 63 + line % 2 ^ 46 * 64 + kind))
  let h := s.handOf c
  let s := match h with
    | some n => if s.folio.isLedger n then s.raise (.CSQ_LDG_ERR n) 4 22 0x2900 h 2 0 else s
    | none => s
  trap (s.fault ⟨28, c, h, kind, 2, line * 64, 0⟩) c 19 va

/-! ### The merging buffer (R179 to R182) -/

/-- Marks entries of a core's merging buffer as draining. -/
def startDrain (s : State) (c : Nat) (sel : MbEnt → Bool) : State :=
  let k := s.core c
  s.setCore c { k with mb := k.mb.map (fun e => if sel e then { e with draining := true } else e) }

/-- The wait of a core for a line on behalf of something, once. -/
def addWait (s : State) (c line : Nat) (w : Waiter) : State :=
  let k := s.core c
  if k.waits.contains ⟨line, w⟩ then s else s.setCore c { k with waits := k.waits ++ [⟨line, w⟩] }

/-- Bytes stored merged into a list of buffer entries at the entry of their line; `cap` is the size of the buffer. -/
def bufStore (l : List MbEnt) (cap : Nat) (e : MbEnt) : Option (List MbEnt) :=
  if l.any (fun x => x.line == e.line && !x.draining && x.nc == e.nc) then
    some (l.map (fun x =>
      if x.line = e.line ∧ x.draining = false ∧ x.nc = e.nc then
        { x with data := mergeLine e.mask e.data x.data, mask := x.mask ||| e.mask, poison := x.poison || e.poison }
      else x))
  else if l.length < cap then some (l ++ [e]) else none

/-- With twelve entries or more occupied the oldest that does not drain begins to (R180 item 1). -/
def drainOldest (s : State) (c : Nat) : State :=
  let k := s.core c
  if k.mb.length < 12 then s
  else
    match k.mb.find? (fun x => !x.draining) with
    | some x => startDrain s c (fun y => y == x)
    | none => s

/-- Stores that waited take the free entries, in order (R179, R180). -/
def admitStores (s : State) (c : Nat) : State :=
  let k := s.core c
  match k.stores with
  | [] => s
  | e :: t =>
    match bufStore k.mb 16 e with
    | none => s
    | some l =>
      let k := { k with mb := l, stores := t }
      match t with
      | [] => drainOldest (s.setCore c k) c
      | e2 :: t2 =>
        match bufStore l 16 e2 with
        | none => drainOldest (s.setCore c k) c
        | some l2 => drainOldest (s.setCore c { k with mb := l2, stores := t2 }) c

/-- The draining entry of a line leaves the merging buffer. -/
def dropMb (s : State) (c line : Nat) : State :=
  let k := s.core c
  let i := k.mb.findIdx (fun e => e.line == line && e.draining)
  admitStores (s.setCore c { k with mb := dropAt k.mb i
                                    waits := k.waits.filter (fun w => w != ⟨line, .store⟩) }) c

/-- The masked bytes of an entry over a line: a full mask clears poison, poison of either stays otherwise (R444). -/
def overlay (e : MbEnt) (data : LineData) (poison : Bool) : LineData × Bool :=
  (mergeLine e.mask e.data data, e.poison || (poison && e.mask != BitVec.allOnes 64))

/-- The bytes of a merging-buffer entry join the ledger buffer (R243). -/
def toLedger (s : State) (c : Nat) (e : MbEnt) : State :=
  let k := s.core c
  match bufStore k.lbuf 512 { e with draining := false, nc := false } with
  | some l => sramWrite (s.setCore c { k with lbuf := l }) 8 c (e.line * 64)
  | none => s

/-- An NC entry drains to its home slice: WR_FULL for a full mask, otherwise one WR_PARTIAL a line at a time (R182, R216). -/
def drainNc (s : State) (c : Nat) (e : MbEnt) : State :=
  let d := c / 24
  let k := s.die d
  let full := e.mask == BitVec.allOnes 64
  let m : Msg := { dieMsg d (if full then .wrFull else .wrPartial) (handOr0 s c) e.line (c % 24) with
    data := e.data, mask := e.mask, poison := e.poison, txn := c }
  if wbHolds s d e.line ∨ k.partials.any (fun x => x.line == e.line) ∨ k.ops.any (fun x => x.line == e.line && x.op == .wrFull) then s
  else if full then (s.setDie d { k with ops := k.ops ++ [m] }).send d (c % 24) m
  else (s.setDie d { k with partials := k.partials ++ [m] }).send d (c % 24) m

/-- A written line of a core's L2: its L1D copy follows, or goes where the line is poisoned. -/
def storeL2 (s : State) (c : Nat) (l : L2Line) : State :=
  let s := putL2 s c l
  let k := s.core c
  if (k.l1d.get? l.line).isNone then s
  else sramWrite (s.setCore c { k with l1d := if l.poison then k.l1d.erase l.line else k.l1d.set l.line l.data }) 1 c (l.line * 64)

/-- The 16-byte chunk of the lowest of some bytes of a line (R183). -/
def firstChunk (need : Word) : Nat :=
  ((List.range 4).find? (fun k => (need >>> (16 * k)) &&& 0xFFFF != 0)).getD 0

/-- The draining entry of a line drains where it can: into the ledger buffer, to the home slice, or into the L2 with write
permission; otherwise the request for the line is out (R180). -/
def tryDrain (s : State) (c line : Nat) : State :=
  match (s.core c).mb.find? (fun e => e.line == line && e.draining) with
  | none => s
  | some e =>
    let b := bufSram s 7 c line (s.handOf c)
    let s := b.2
    let k := s.core c
    let s := if b.1 then
      s.setCore c { k with mb := k.mb.map (fun x => if x = e then { x with poison := true } else x) } else s
    let e := if b.1 then { e with poison := true } else e
    if s.ledgerCore c then dropMb (toLedger s c e) c line
    else if e.nc then drainNc s c e
    else
      match coreOwn s c line (firstChunk e.mask) with
      | (some l, s) =>
        let o := overlay e l.data l.poison
        dropMb (storeL2 s c { l with data := o.1, poison := o.2 }) c line
      | (none, s) => addWait s c line .store

/-- Entries begin to drain, and drain where they can. -/
def drain (s : State) (c : Nat) (sel : MbEnt → Bool) : State :=
  let s := startDrain s c sel
  overAll ((s.core c).mb.filter (fun e => e.draining)) (fun s e => tryDrain s c e.line) s

/-! ### Loads (R181, R184) -/

/-- The bytes of one piece of a load within one line, as a mask. -/
def needMask (off n : Nat) : Word := BitVec.ofNat 64 ((2 ^ n - 1) * 2 ^ off)

/-- Bytes of a line. -/
def lineGet (l : LineData) (off n : Nat) : Nat := (l.extractLsb' (8 * off) (8 * n)).toNat
/-- Bytes of a line replaced. -/
def linePut (l : LineData) (off n v : Nat) : LineData :=
  mergeLine (needMask off n) (BitVec.ofNat 512 (v % 2 ^ (8 * n)) <<< (8 * off)) l

/-- What buffer entries hold of a line, later entries over earlier ones. -/
def bufLine (l : List MbEnt) (line : Nat) : LineData × Word :=
  (l.filter (fun e => e.line == line)).foldl (fun r e => (mergeLine e.mask e.data r.1, r.2 ||| e.mask)) (0, 0)

/-- Whether a needed byte stands in a poisoned entry. -/
def bufBad (l : List MbEnt) (line : Nat) (need : Word) : Bool :=
  l.any (fun e => e.line == line && e.poison && need &&& e.mask != 0)

/-- What a load finds of one line. -/
inductive Got
  | bytes (data : LineData) (poison lost : Bool)
  | wait
  deriving DecidableEq, Repr

/-- Data of a line for a load or a walk, after the SRAM checks of the L2, the L3 and the tag (R445). -/
def checkedRead (s : State) (c line chunk : Nat) : Got × State :=
  let d := c / 24
  ifRoom s d .wait <|
  let e2 := if (l2Find s c line).isSome then cacheSram s 2 c d line else (false, s)
  let e3 := if (l2Find e2.2 c line).isNone ∧ (l3Find e2.2 d line).isSome ∧ ¬ passes e2.2 d line
    then cacheSram e2.2 3 (0x2100 + d) d line else (false, e2.2)
  if e2.1 || e3.1 then (.bytes 0 false true, e3.2)
  else
    match coreRead (tagSram e3.2 d line) c line chunk with
    | (none, s) => (.wait, s)
    | (some (data, p), s) => (.bytes data p false, s)

/-- The L1D checked for a line: a wrong word is invalidated and refilled (R445). -/
def checkL1 (s : State) (c line : Nat) : State :=
  match sramBits s 1 c (line * 64) with
  | 0 => s
  | n =>
    let k := s.core c
    let s := (sramClear s 1 c (line * 64)).setCore c { k with l1d := k.l1d.erase line }
    s.fault ⟨5, c, none, 1, if n = 1 then 0 else 1, line * 64, 0⟩

/-- One line of a load by core `c`: all bytes from its merging buffer, or none of them; otherwise the entry drains first
(R181). In ledger mode the buffers lie over memory as of the boundary (R244). -/
def loadLine (s : State) (c line : Nat) (need : Word) : Got × State :=
  let k := s.core c
  if s.ledgerCore c then
    let l := k.lbuf ++ k.mb ++ k.stores
    let o := bufLine l line
    if need &&& ~~~ o.2 = 0 then (.bytes o.1 (bufBad l line need) false, s)
    else
      match checkedRead s c line (firstChunk need) with
      | (.bytes data p lost, s) => (.bytes (mergeLine o.2 o.1 data) (p || bufBad l line need) lost, s)
      | r => r
  else
    let o := bufLine k.mb line
    if need &&& ~~~ o.2 = 0 then (.bytes o.1 (bufBad k.mb line need) false, s)
    else
      let s := if need &&& o.2 = 0 then s else drain s c (fun e => e.line == line)
      if (s.core c).mb.any (fun e => e.line == line && (need &&& e.mask != 0)) then (.wait, s)
      else
        let s := checkL1 s c line
        match (s.core c).l1d.get? line with
        | some data => (.bytes data false false, s)
        | none =>
          match checkedRead s c line (firstChunk need) with
          | (.bytes data p lost, s) => (.bytes data p lost, if p || lost || passes s (c / 24) line then s else fillL1 s c line data)
          | r => r

/-- Bytes of a load taken from the merging-buffer entries that hold all of them, value and poison (R181). -/
def fromBuffer (l : List MbEnt) : List (Nat × Nat × Nat) → Nat → Nat → Nat × Option Nat
  | [], acc, _ => (acc, none)
  | (line, off, n) :: t, acc, w =>
    if bufBad l line (needMask off n) then (0, some line)
    else fromBuffer l t (acc + ((bufLine l line).1.extractLsb' (8 * off) (8 * n)).toNat * 2 ^ (8 * w)) (w + n)

/-- Whether an entry holds some byte that a load needs. -/
def neededBy (ps : List (Nat × Nat × Nat)) (e : MbEnt) : Bool :=
  ps.any (fun q => q.1 == e.line && needMask q.2.1 q.2.2 &&& e.mask != 0)

/-- The line parts of the pieces of a load or store: line, offset and length, in address order. -/
def parts (pieces : List (Nat × Nat)) : List (Nat × Nat × Nat) :=
  pieces.flatMap (fun p =>
    let n1 := min p.2 (64 - p.1 % 64)
    [(p.1 / 64, p.1 % 64, n1)] ++ (if n1 < p.2 then [(p.1 / 64 + 1, 0, p.2 - n1)] else []))

/-- The bytes of a load gathered over its parts: value and width so far, poison, loss with its line, or the line to wait
for. -/
def gather (c : Nat) : List (Nat × Nat × Nat) → State → Nat → Nat → Sum Nat (Nat × Option (Nat × Nat)) × State
  | [], s, acc, _ => (.inr (acc, none), s)
  | (line, off, n) :: t, s, acc, w =>
    match loadLine s c line (needMask off n) with
    | (.wait, s) => (.inl line, s)
    | (.bytes data p lost, s) =>
      if lost then (.inr (0, some (2, line)), s)
      else if p then (.inr (0, some (1, line)), s)
      else gather c t s (acc + (data.extractLsb' (8 * off) (8 * n)).toNat * 2 ^ (8 * w)) (w + n)

/-- A loaded value of `n` bytes in its place: extended to 64 bits, NaN-boxed in a floating-point register, or in an element of a
vector register group; mstatus.FS or VS becomes Dirty, in a virtual mode that of vsstatus too. -/
def writeLoaded (s : State) (c : Nat) (rd : DataReg) (n v : Nat) (signed : Bool) : State :=
  match rd with
  | .x r =>
    let w := BitVec.ofNat 64 v
    let w := if signed ∧ n < 8 ∧ v.testBit (8 * n - 1) then w ||| BitVec.ofNat 64 (2 ^ 64 - 2 ^ (8 * n)) else w
    s.setX c r w
  | .f r =>
    let w := BitVec.ofNat 64 (if n < 8 then 2 ^ 64 - 2 ^ (8 * n) + v else v)
    let k := s.core c
    dirtyFs (s.setCore c { k with f := k.f.set r.val w }) c
  | .v e =>
    let q := (e.reg.val + e.idx * n / 64) % 32
    setVreg s c q (linePut (vreg s c q) (e.idx * n % 64) n v)

/-- The end of an access of a load or store instruction: it retires; an element of a vector one that is not the last leaves vstart
at the next, and the last leaves it zero. -/
def endAccess (s : State) (c : Nat) (r : DataReg) (len : Nat) : State :=
  match r with
  | .v e => if e.last then (s.setCsr c 0x008 0).retire c len else s.setCsr c 0x008 (BitVec.ofNat 64 (e.idx + 1))
  | _ => s.retire c len

/-- A cacheable load: it completes, takes cause 19 on poisoned or lost data, or waits for a line (R184, R443, R445). In open mode it
takes all its bytes from the merging buffer or none: every entry that holds some of them drains first (R180 item 6, R181). -/
def tryLoad (s : State) (c : Nat) (rd : DataReg) (va : Word) (pieces : List (Nat × Nat)) (signed : Bool) (len : Nat) :
    State :=
  let ps := parts pieces
  let total := (pieces.map (·.2)).sum
  let mb := (s.core c).mb
  let wait (s : State) (line : Nat) : State := addWait s c line (.load rd va pieces signed len none)
  if ¬ s.ledgerCore c ∧ ps.all (fun q => needMask q.2.1 q.2.2 &&& ~~~ (bufLine mb q.1).2 == 0) then
    match fromBuffer mb ps 0 0 with
    | (v, none) => endAccess (writeLoaded s c rd total v signed) c rd len
    | (_, some line) => hwError s c va 1 line
  else
    let s := if s.ledgerCore c ∨ ¬ mb.any (neededBy ps) then s else drain s c (neededBy ps)
    match (s.core c).mb.find? (neededBy ps) with
    | some e => if s.ledgerCore c then finish s else wait s e.line
    | none => finish s
where
  /-- The bytes gathered from the caches, or the line to wait for. -/
  finish (s : State) : State :=
    match gather c (parts pieces) s 0 0 with
    | (.inl line, s) => addWait s c line (.load rd va pieces signed len none)
    | (.inr (v, none), s) => endAccess (writeLoaded s c rd (pieces.map (·.2)).sum v signed) c rd len
    | (.inr (_, some (kind, line)), s) => hwError s c va kind line

/-! ### Snoops (R213, R220 to R227) -/

/-- A die's answer to a snoop leaves by requester 24. -/
def snoopReply (s : State) (d : Nat) (m : Msg) (op : Opc) (data : LineData) (poison : Bool) : State :=
  s.send d 24 { dieMsg d op m.hand m.line 24 with data := data, poison := poison, txn := m.txn }

/-- What a snoop does to the caches of the die, and what it finds: 0 nothing, 1 clean, 2 dirty, with the data. Reservations
on the line are lost (R231), and a locked line lost to an invalidating snoop is counted (R189; log entry 101). -/
def snoopCaches (s : State) (d : Nat) (line : Nat) (inv : Bool) : Nat × LineData × Bool × State :=
  match l3Find s d line with
  | none => (0, 0, false, s)
  | some e =>
    let s := overAll (coresOnDie d) (fun s c =>
      let k := s.core c
      if !s.ledgerCore c && (match k.resv with | some r => r.1 / 64 == line | none => false)
      then s.setCore c { k with resv := none } else s) s
    let r := takeLine s d e (!inv)
    let e' := r.1
    let dirty := e'.st == 3
    let s := if inv then dropL3 r.2 d line else putL3 r.2 d { e' with st := 1 }
    let s := if inv ∧ locked s d e' then s.inc (.SHV_LOCK_LOST d) F.SHV_LOCK_LOST_COUNT else s
    (if dirty then 2 else 1, e'.data, e'.poison, s)

/-- The write-back buffer entry that answers a snoop of a line: the newest with data, else the newest (R213). -/
def wbHit (s : State) (d line : Nat) : Option WbEnt :=
  let ws := ((s.die d).wb.filter (fun w => w.msg.line == line)).reverse
  match ws.find? (fun w => w.msg.op != .evictClean) with
  | some w => some w
  | none => ws.head?

/-- A snoop answered (R213): the write-back buffer first, then the caches. -/
def answerSnoop (s : State) (d : Nat) (m : Msg) : State :=
  let inv := m.op != .snpShared
  let k := s.die d
  match wbHit s d m.line with
  | some w =>
    let s := s.setDie d { k with wb := k.wb.map (fun x => if x.msg.line = m.line then { x with answered := true } else x) }
    match w.msg.op with
    | .evictClean => snoopReply s d m .snpRspI 0 false
    | .wbKeep =>
      let r := snoopCaches s d m.line inv
      snoopReply r.2.2.2 d m (if r.1 = 0 ∨ inv then .snpDataI else .snpDataS) w.msg.data w.msg.poison
    | _ => snoopReply s d m .snpDataI w.msg.data w.msg.poison
  | none =>
    match snoopCaches s d m.line inv with
    | (0, _, _, s) => snoopReply s d m .snpRspI 0 false
    | (1, _, _, s) => snoopReply s d m (if inv then .snpRspI else .snpRspS) 0 false
    | (_, data, p, s) => snoopReply s d m (if inv then .snpDataI else .snpDataS) data p

/-- A snoop at a die (R213, R224, R225, R231): it waits for a fill in flight or a deferral, otherwise it is answered. -/
def dieSnoop (s : State) (d : Nat) (m : Msg) : State :=
  let k := s.die d
  let holds := (l3Find s d m.line).isSome
  if deferred s d m.line then s.setDie d { k with snoopWait := k.snoopWait ++ [m] }
  else if !holds && !wbHolds s d m.line && k.misses.any (fun x => x.line == m.line && x.sent) then
    s.setDie d { k with misses := k.misses.map (fun x => if x.line = m.line then { x with snoops := x.snoops ++ [m] } else x) }
  else answerSnoop s d m

/-- SNP_SHARED reaches a die (R213). -/
def execSnpShared (d : Fin 16) (m : Msg) (s : State) : Out := .next (dieSnoop (s.countBlk d 0x0107 1) d { m with op := .snpShared })
/-- SNP_INV reaches a die (R213). -/
def execSnpInv (d : Fin 16) (m : Msg) (s : State) : Out := .next (dieSnoop (s.countBlk d 0x0107 1) d { m with op := .snpInv })
/-- SNP_BINV reaches a die (R213, R230). -/
def execSnpBinv (d : Fin 16) (m : Msg) (s : State) : Out := .next (dieSnoop (s.countBlk d 0x0107 1) d { m with op := .snpBinv })

/-- The end of a core's deferral: the snoops that waited are answered (R231). -/
def releaseDefer (s : State) (c : Nat) : State :=
  let k := s.core c
  match k.defer with
  | none => s
  | some line =>
    let d := c / 24
    let s := s.setCore c { k with defer := none }
    let x := s.die d
    let go := x.snoopWait.filter (fun m => m.line == line)
    let s := s.setDie d { x with snoopWait := x.snoopWait.filter (fun m => m.line != line) }
    overAll go (fun s m => dieSnoop s d m) s

/-! ### Atomics (R231, R232) -/

/-- The operation of an AMO on `n` bytes (A extension). -/
def amoResult (fn : AmoFn) (n a b : Nat) : Nat :=
  let w := 8 * n
  let m : Nat := 2 ^ w
  let sg (x : Nat) : Int := if x.testBit (w - 1) then (x : Int) - m else x
  match fn with
  | .swap => b
  | .add => (a + b) % m
  | .and => a &&& b
  | .or => a ||| b
  | .xor => a ^^^ b
  | .min => if sg a ≤ sg b then a else b
  | .max => if sg a ≤ sg b then b else a
  | .minu => min a b
  | .maxu => max a b

/-- rd of an atomic: the value read, sign-extended from a word. -/
def amoRd (s : State) (c : Nat) (op : AmoOp) (v : Nat) : State := writeLoaded s c (.x op.rd) op.bytes v true

/-- An AMO with its line in M (R231); a poisoned line is not touched (R443). -/
def doAmo (s : State) (c : Nat) (op : AmoOp) (va : Word) (pa : Nat) (l : L2Line) : State :=
  if l.poison then hwError s c va 1 l.line
  else
    let a := lineGet l.data (pa % 64) op.bytes
    let b := (s.xreg c op.rs2).toNat % 2 ^ (8 * op.bytes)
    let s := storeL2 s c { l with data := linePut l.data (pa % 64) op.bytes (amoResult op.fn op.bytes a b) }
    (amoRd s c op a).retire c 4

/-- An LR with its line in M: it registers the reservation, and the L2 defers snoops of the line (R231); a deferral of another
line ends. -/
def doLr (s : State) (c : Nat) (op : AmoOp) (va : Word) (pa : Nat) (l : L2Line) : State :=
  if l.poison then hwError s c va 1 l.line
  else
    let s := amoRd s c op (lineGet l.data (pa % 64) op.bytes)
    let k := s.core c
    let s := if k.defer = some l.line then s else releaseDefer s c
    let k := s.core c
    (s.setCore c { k with resv := some (pa, op.bytes), defer := some l.line }).retire c 4

/-- An SC with its line in M: it writes where the reservation is held for its address (R231). -/
def doSc (s : State) (c : Nat) (op : AmoOp) (pa : Nat) (l : L2Line) : State :=
  let k := s.core c
  let ok := k.resv == some (pa, op.bytes)
  let b := (s.xreg c op.rs2).toNat % 2 ^ (8 * op.bytes)
  let s := if ok then storeL2 s c { l with data := linePut l.data (pa % 64) op.bytes b } else s
  let k := s.core c
  let s := ((s.setCore c { k with resv := none }).setX c op.rd (if ok then 0 else 1)).retire c 4
  releaseDefer s c

/-- CBO.ZERO with its line in M: zero data without poison (R212, R444). -/
def doZero (s : State) (c line : Nat) : State := (storeL2 s c ⟨line, 3, 0, false⟩).retire c 4

/-- A line for CBO.ZERO: in M at once where the die holds it in E or M, otherwise CLAIM goes to the home (R212). -/
def claimLine (s : State) (c line : Nat) : Bool × State :=
  let d := c / 24
  ifRoom s d false <|
  match l3Find s d line with
  | some e =>
    if deferredFor s c line then (false, s)
    else if 2 ≤ e.st then
      let r := backSnoopAll s d e false none
      (true, installL2 (putL3 r.2 d { r.1 with st := 3, poison := false, data := 0 }) c ⟨line, 3, 0, false⟩)
    else (false, request s d line c .claim 0)
  | none => (false, request s d line c .claim 0)

/-! ### Restarting what waits -/

/-- An NC load asks the home for one line (R156, R214). -/
def ncRead (s : State) (c line : Nat) : State :=
  let d := c / 24
  let m : Msg := { dieMsg d .rdOnce (handOr0 s c) line (c % 24) with txn := c }
  let k := s.die d
  (s.setDie d { k with ops := k.ops ++ [m] }).send d (c % 24) m

/-- The request of an NC load for a line of its own, where none is out and no write-back of the line is (R220). -/
def ncAsk (s : State) (c line : Nat) : State :=
  let k := s.die (c / 24)
  if wbHolds s (c / 24) line ∨ k.ops.any (fun o => o.op == .rdOnce && o.line == line && o.txn == c) then s
  else ncRead s c line

/-- One wait of a core is tried again when its line has arrived. -/
def retryWait (s : State) (c : Nat) (w : WaitEnt) : State :=
  let k := s.core c
  if !k.waits.contains w then s
  else
    let s := s.setCore c { k with waits := k.waits.filter (fun x => x != w) }
    match w.who with
    | .load rd va pieces signed len none => tryLoad s c rd va pieces signed len
    | .load _ _ _ _ _ (some _) => ncAsk (addWait s c w.line w.who) c w.line
    | .store => tryDrain s c w.line
    | .amo op va pa =>
      match coreOwn s c w.line (pa % 64 / 16) with
      | (some l, s) => doAmo s c op va pa l
      | (none, s) => addWait s c w.line w.who
    | .lr op va pa =>
      match coreOwn s c w.line (pa % 64 / 16) with
      | (some l, s) => doLr s c op va pa l
      | (none, s) => addWait s c w.line w.who
    | .sc op _ pa =>
      match coreOwn s c w.line (pa % 64 / 16) with
      | (some l, s) => doSc s c op pa l
      | (none, s) => addWait s c w.line w.who
    | .zero =>
      match claimLine s c w.line with
      | (true, s) => doZero s c w.line
      | (false, s) => addWait s c w.line .zero
    | .cbo => addWait s c w.line .cbo
    | .prefetch =>
      match coreRead s c w.line 0 with
      | (some _, s) => s
      | (none, s) => addWait s c w.line .prefetch
    | .cell nc => if nc then addWait s c w.line w.who else s

/-- The waits of a die for a line, those of core `first` first. -/
def wakeLine (s : State) (d line first : Nat) : State :=
  overAll (first :: (coresOnDie d).filter (fun c => c != first)) (fun s c =>
    overAll ((s.core c).waits.filter (fun w => w.line == line)) (fun s w => retryWait s c w) s) s

/-- Every wait of a die for a line without a miss-table entry tried again: the write-back buffer or the miss table has room
again (R219, R220). -/
def wakeIdle (s : State) (d : Nat) : State :=
  overAll (coresOnDie d) (fun s c =>
    overAll ((s.core c).waits.filter (fun w => !(s.die d).misses.any (fun x => x.line == w.line)))
      (fun s w => retryWait s c w) s) s

/-- The loads that wait for a line take its data (R184). -/
def serveLoads (s : State) (d line : Nat) : State :=
  overAll (coresOnDie d) (fun s c =>
    overAll ((s.core c).waits.filter (fun w => w.line == line && (match w.who with | .load _ _ _ _ _ none => true | _ => false)))
      (fun s w => retryWait s c w) s) s

/-! ### Fills (R184, R188, R198, R225) -/

/-- The waits of a die for a line whose deferral by core `c` has ended since `s0` (R231). -/
def wakeFreed (s0 s : State) (c : Nat) : State :=
  match (s0.core c).defer with
  | some l => if (s.core c).defer = some l then s else wakeLine s (c / 24) l c
  | none => s

/-- The end of a miss: its entry goes, the accesses that wait restart, the snoops that waited are answered (R224), but where
an atomic now defers them (R231). Where the table was full, the accesses that found it so restart too (R219). -/
def endMiss (s : State) (d : Nat) (x : Miss) : State :=
  let k := s.die d
  let full : Bool := decide (512 ≤ k.misses.length)
  let s0 := s.setDie d { k with misses := k.misses.filter (fun y => y.line != x.line) }
  let s := wakeLine s0 d x.line x.core
  let s := overAll (coresOnDie d) (fun s c => wakeFreed s0 s c) s
  let s := overAll x.snoops (fun s m =>
    if deferred s d m.line then s.setDie d { s.die d with snoopWait := (s.die d).snoopWait ++ [m] } else answerSnoop s d m) s
  if full then wakeIdle s d else s

/-- The L3 line that a fill brings, in die state `st`; an older copy of the line gives way to it. -/
def placeFill (s : State) (d : Nat) (x : Miss) (m : Msg) (st way : Nat) : State :=
  let r := match l3Find s d m.line with
    | some e => backSnoopAll s d e false (some x.core)
    | none => (⟨m.line, way, st, 0, m.gen.toNat, x.hand, m.data, m.poison⟩, s)
  sramWrite (putL3 r.2 d { r.1 with st := st, gen := m.gen.toNat, data := m.data, poison := m.poison })
    3 (0x2100 + d) (m.line * 64)

/-- A fill that is installed: L3 and the L2 of the core that asked; where its L2 victim finds no room in the write-back
buffer, the line stays in the L3 alone (R212, R220). -/
def keepFill (s : State) (d : Nat) (x : Miss) (m : Msg) (st way : Nat) : State :=
  let s := placeFill s d x m st way
  let t := installL2 s x.core ⟨m.line, st, m.data, m.poison⟩
  endMiss (if wbFits t d then t else s) d x

/-- A line that passed through is gone; its data, where dirty or `notice`d, goes home (R192, R198). -/
def endPass (s : State) (d line : Nat) (notice : Bool) : State :=
  match l3Find s d line with
  | none => s
  | some e =>
    let r := takeLine s d e false
    let s := dropL3 r.2 d line
    if r.1.st = 3 ∨ notice then sendWb s d 24 (leaveMsg (evGen s d) d 24 r.1 (r.1.st == 3) r.1.poison) else s

/-- A fill that a Shelver start cancelled: its accesses are served, the line is installed nowhere, and what they stored is
written back at once (R198). A line granted in S serves the loads; what needs ownership asks again. -/
def cancelFill (s : State) (d : Nat) (x : Miss) (m : Msg) (st : Nat) : State :=
  let s := placeFill s d x m st passWay
  if 2 ≤ st then endPass (endMiss s d x) d m.line true
  else endMiss (endPass (serveLoads s d m.line) d m.line true) d x

/-- A fill without a way: the loads that wait take its data; the fill itself waits (R184, R188). -/
def stallFill (s : State) (d : Nat) (m : Msg) (hand : Nat) : State :=
  let s := putL3 s d ⟨m.line, passWay, 1, 0, m.gen.toNat, hand, m.data, m.poison⟩
  let s := dropL3 (serveLoads s d m.line) d m.line
  s.setDie d { s.die d with retry := (s.die d).retry ++ [m] }

/-- A granted line arrives: installed, or passed through where a Shelver start cancelled it; it waits where no way is
eligible, or where the line it sends away again finds the write-back buffer full (R184, R188, R198, R212, R220). -/
def installFill (s : State) (d : Nat) (x : Miss) (m : Msg) (st : Nat) : State :=
  if x.cancel then
    if 32 ≤ (s.die d).wb.length then s.setDie d { s.die d with retry := (s.die d).retry ++ [m] } else cancelFill s d x m st
  else if (l3Find s d m.line).isSome then keepFill s d x m st 0
  else
    match allocate s d m.line x.hand with
    | (some w, s) => keepFill s d x m st w
    | (none, s) => stallFill s d m x.hand

/-- A fill arrives at its die for a request in the miss table. -/
def fill (s : State) (m : Msg) (st : Nat) : State :=
  let d := m.die
  match (s.die d).misses.find? (fun x => x.line == m.line && x.sent) with
  | none => s
  | some x => installFill (tagSram s d m.line) d x m st

/-- DATA_S (R184, R212). -/
def execDataS (m : Msg) (s : State) : Out := .next (fill s { m with op := .dataS } 1)
/-- DATA_E (R184, R212). -/
def execDataE (m : Msg) (s : State) : Out := .next (fill s { m with op := .dataE } 2)
/-- DATA_M (R184, R212, R225). -/
def execDataM (m : Msg) (s : State) : Out := .next (fill s { m with op := .dataM } 3)

/-- DATA_NC for a request of the miss table, which the vault check denied: the accesses that wait get the data, the line is
installed nowhere, and a store performed on it is written back at once (R395); it waits while the write-back buffer is full (R220). -/
def deniedFill (s : State) (d : Nat) (x : Miss) (m : Msg) : State :=
  if 32 ≤ (s.die d).wb.length then s.setDie d { s.die d with retry := (s.die d).retry ++ [{ m with op := .dataNc }] }
  else
    endPass (endMiss (putL3 s d ⟨m.line, passWay, 2, 0, 0, x.hand, m.data, m.poison⟩) d x) d m.line false

/-- L3_ALLOCATION_RETRY: a fill whose allocation waited chooses again (R188). -/
def execL3AllocationRetry (d : Fin 16) (line : Nat) (s : State) : Out :=
  let k := s.die d
  match k.retry.find? (fun m => m.line == line) with
  | none => .next s
  | some m =>
    let s := s.setDie d { k with retry := k.retry.filter (fun y => y.line != line) }
    match (s.die d).misses.find? (fun x => x.line == line) with
    | none => .next s
    | some x =>
      match m.op with
      | .dataNc => .next (deniedFill s d x m)
      | .dataS => .next (installFill s d x m 1)
      | .dataE => .next (installFill s d x m 2)
      | _ => .next (installFill s d x m 3)

/-- An NC load takes the part of its bytes that a line holds, and asks for its next line or retires; poisoned data is a
hardware error (R443). In ledger mode its own stores lie over the line (R244). -/
def ncTake (s : State) (c : Nat) (rd : DataReg) (va : Word) (pieces : List (Nat × Nat)) (signed : Bool) (len acc w : Nat)
    (m : Msg) : State :=
  if m.poison then hwError s c va 1 m.line
  else
    let total := (pieces.map (·.2)).sum
    let done (i : Nat) : Nat := (((parts pieces).take i).map (·.2.2)).sum
    let i := ((List.range 5).find? (fun i => done i == w)).getD 0
    match (parts pieces).drop i with
    | [] => s
    | (_, off, n) :: t =>
      let k := s.core c
      let o := bufLine (k.lbuf ++ k.mb ++ k.stores) m.line
      let data := if s.ledgerCore c then mergeLine o.2 o.1 m.data else m.data
      let acc := acc + lineGet data off n * 2 ^ (8 * w)
      match t with
      | [] => endAccess (writeLoaded s c rd total acc signed) c rd len
      | (line, _, _) :: _ => ncAsk (addWait s c line (.load rd va pieces signed len (some (acc, w + n)))) c line

/-- DATA_NC at a die: the NC load or cell that asked gets its data (R156, R214). -/
def dieDataNc (s : State) (d : Nat) (m : Msg) : State :=
  let k := s.die d
  match k.ops.find? (fun o => o.op == .rdOnce && o.line == m.line) with
  | none =>
    match k.misses.find? (fun x => x.line == m.line && x.sent) with
    | some x => deniedFill s d x m
    | none => s
  | some o =>
    let c := o.txn
    let s := s.setDie d { k with ops := dropAt k.ops (k.ops.findIdx (fun y => y == o)) }
    match (s.core c).waits.find? (fun w => w.line == m.line && match w.who with | .load _ _ _ _ _ (some _) | .cell true => true | _ => false) with
    | none => s
    | some w =>
      let t := s.core c
      let s := s.setCore c { t with waits := t.waits.filter (fun y => y != w) }
      match w.who with
      | .load rd va pieces signed len (some g) => ncTake s c rd va pieces signed len g.1 g.2 m
      | .cell _ => s.setCore c { s.core c with ncCell := some (m.line, m.data, m.poison) }
      | _ => s

/-- The answered CBO or NC store of a die goes; a CBO instruction that waited retires (R212). -/
def endOp (s : State) (d : Nat) (o : Msg) : State :=
  let k := s.die d
  let s := s.setDie d { k with ops := k.ops.filter (fun y => y != o) }
  let c := o.txn
  if o.op = .wrFull then dropMb s c o.line
  else
    let t := s.core c
    if t.waits.contains ⟨o.line, .cbo⟩ then
      (s.setCore c { t with waits := t.waits.filter (fun w => w != ⟨o.line, .cbo⟩) }).retire c 4
    else s

/-- CMP at a die ends an UPGRADE, a CLAIM, a CBO or an NC store of a whole line (R212, R214). Where the die has evicted the
line of the UPGRADE meanwhile, the accesses that wait ask for it again. -/
def dieCmp (s : State) (d : Nat) (m : Msg) : State :=
  let k := s.die d
  match k.misses.find? (fun x => x.line == m.line && x.sent && (x.op == .upgrade || x.op == .claim)) with
  | some x =>
    if x.op = .claim then installFill s d x { m with op := .dataM, data := 0, poison := false, die := d } 3
    else
      match l3Find s d m.line with
      | some e => installFill s d x { m with op := .dataM, data := e.data, poison := e.poison, die := d } 3
      | none => endMiss s d x
  | none =>
    match k.ops.find? (fun o => o.line == m.line && o.op != .rdOnce) with
    | some o => endOp s d o
    | none => s

/-- `txn` of an IO store, which holds no merging-buffer entry (R182), is this base plus the core. -/
def ioTxn : Nat := 1024

/-- CMP_PARTIAL at a die ends a WR_PARTIAL and frees its merging-buffer entry (R216). -/
def dieCmpPartial (s : State) (d : Nat) (m : Msg) : State :=
  let k := s.die d
  match k.partials.find? (fun x => x.line == m.line) with
  | none => s
  | some x =>
    let s := s.setDie d { k with partials := k.partials.filter (fun y => y.line != m.line) }
    if x.txn < ioTxn then dropMb s x.txn m.line else s

/-- The request of a line that waited for its write-back leaves, with its critical chunk (R183, R220). -/
def sendHeld (s : State) (d line : Nat) : State :=
  let k := s.die d
  match k.misses.find? (fun x => x.line == line && !x.sent) with
  | none => s
  | some x =>
    let s := s.setDie d { k with misses := k.misses.map (fun y => if y.line = line then { y with sent := true } else y) }
    let q := x.core % 24
    s.send d q { dieMsg d x.op x.hand line q with firstChunk := BitVec.ofNat 2 x.chunk }

/-- The NC loads that wait for a line ask for it (R220). -/
def askHeld (s : State) (d line : Nat) : State :=
  overAll (coresOnDie d) (fun s c =>
    if (s.core c).waits.any (fun w => w.line == line && (match w.who with | .load _ _ _ _ _ (some _) => true | _ => false))
    then ncAsk s c line else s) s

/-- An acknowledgement frees the write-back buffer entry of a line; a request that waited for it leaves, the Shelver's
wait for it ends, and the accesses that found the buffer full restart (R200, R220). -/
def ackWb (s : State) (d line : Nat) : State :=
  let k := s.die d
  let i := k.wb.findIdx (fun w => w.msg.line == line)
  let full : Bool := decide (32 ≤ k.wb.length)
  let k := { k with wb := dropAt k.wb i
                    shv := k.shv.map (fun o => { o with waits := o.waits.erase line }) }
  let s := s.setDie d k
  let s := if wbHolds s d line then s else askHeld (sendHeld s d line) d line
  if full then wakeIdle s d else s

/-- WB_ACK (R220, R221). -/
def execWbAck (d : Fin 16) (line : Nat) (s : State) : Out := .next (ackWb s d line)
/-- WB_ACK_STALE (R220, R222, R223). -/
def execWbAckStale (d : Fin 16) (line : Nat) (s : State) : Out := .next (ackWb s d line)

/-! ### Merging-buffer rows, prefetch, end of a deferral -/

/-- MB_IDLE_DRAIN: the entry of a line has received no store for 256 core cycles and begins to drain (R180). -/
def execMbIdleDrain (c : Fin 384) (line : Nat) (s : State) : Out :=
  .next (startDrain s c (fun e => e.line == line))

/-- MB_ENTRY_DRAINED: a draining entry drains into the L2 line in M, the ledger buffer or the home slice (R180, R182,
R204, R243). -/
def execMbEntryDrained (c : Fin 384) (line : Nat) (s : State) : Out := .next (tryDrain s c line)

/-- ATOMIC_DEFERRAL_END: 32 or 128 core cycles have passed, or the SC has ended the deferral; the snoops that waited are
answered, and what waits on the die for the line goes on (R231). -/
def execAtomicDeferralEnd (c : Fin 384) (s : State) : Out := .next (wakeFreed s (releaseDefer s c) c)

end Sys2Proof.Machine
end

