-- ==== Sys2Proof/Machine/Shelver.lean ====
section
/-! DEFINITION. The Shelver of each compute die (R193 to R203). -/

namespace Sys2Proof.Machine

/-! ### Windows (R58, R123) -/

/-- Whether bytes `[base, base + size)` lie wholly within windows whose HAND_MASK includes a hand; windows do not overlap. -/
def covered (s : State) (h base size : Nat) : Bool :=
  ((s.folio.map.windows.filter (fun w => w.mask.testBit h)).map (fun w =>
    min (base + size) (w.base + w.size) - max base w.base)).sum == size

/-- The window of a byte address. -/
def windowAt (s : State) (a : Nat) : Option WinRec :=
  s.folio.map.windows.find? (fun w => decide (w.base ≤ a) && decide (a < w.base + w.size))

/-- Whether a line lies wholly in a private window of a hand. -/
def inPrivate (s : State) (h line : Nat) : Bool :=
  match windowAt s (line * 64) with
  | some w => w.kind == 0 && w.mask.testBit h
  | none => false

/-! ### Commands (R197, R198, R202) -/

/-- Whether an agent may write the command registers of a die's Shelver: H[0], or a hand that reaches compute-die blocks;
nobody while the die is not in service (R202). -/
def shvWriter (s : State) (who : Agent) (d : Nat) : Bool :=
  s.dieInService d && (s.isHouse who || s.reaches 11 who)

/-- The refusal code of a command in table order, 0 for none (R197). -/
def shvCode (s : State) (who : Agent) (d : Nat) (v : Word) : Nat :=
  let hand := F.SHV_CMD_HAND.get v
  let byHand := F.SHV_CMD_SCOPE.get v = 1
  let base := s.get (.SHV_BASE d) F.SHV_BASE_VALUE
  let size := s.get (.SHV_SIZE d) F.SHV_BASE_VALUE
  if s.bit (.SHV_STATUS d) F.SHV_STATUS_BUSY then 1
  else if F.SHV_CMD_OP.get v = 0 then 2
  else if ¬ byHand ∧ (size = 0 ∨ 2 ^ 46 < base + size) then 3
  else if (s.folio.hand? hand).isNone ∨ (s.agentHand who ≠ some hand ∧ ¬ s.isHouse who) then 4
  else if byHand ∧ ¬ (featLevel s d).testBit 4 then 5
  else if ¬ byHand ∧ ¬ covered s hand (base * 64) (size * 64) then 6
  else 0

/-- A command of kind `op`: refused with its code, or started (R193, R197, R198). -/
def shvStart (who : Agent) (d : Nat) (v : Word) (op : Nat) (s : State) : State :=
  if !shvWriter s who d || F.SHV_CMD_GO.get v == 0 || F.SHV_CMD_OP.get v != op then s
  else
    let c := shvCode s who d v
    let r := Reg.SHV_STATUS d
    if c ≠ 0 then (((s.put r F.SHV_STATUS_REFUSED 1).put r F.SHV_STATUS_CODE c).arrive (16 + d))
    else
      let hand := F.SHV_CMD_HAND.get v
      let byHand := F.SHV_CMD_SCOPE.get v == 1
      let base := s.get (.SHV_BASE d) F.SHV_BASE_VALUE
      let size := s.get (.SHV_SIZE d) F.SHV_BASE_VALUE
      let index := byHand || decide (4096 < size)
      let o : ShvOp := ⟨op, byHand, hand, F.SHV_CMD_FORCE_LOCKED.get v == 1, base, size,
        s.agentHand who == some hand, []⟩
      let s := ((s.put r F.SHV_STATUS_BUSY 1).put r F.SHV_STATUS_HAND hand).put r F.SHV_STATUS_INDEX_MODE (if index then 1 else 0)
      let s := (s.put r F.SHV_STATUS_FORCE_LOCKED (F.SHV_CMD_FORCE_LOCKED.get v)).put r F.SHV_STATUS_SCOPE (F.SHV_CMD_SCOPE.get v)
      let s := (s.put r F.SHV_STATUS_OP op).wr (.SHV_SKIPPED d) 0
      let s := (s.wr (.SHV_WRITTEN d) 0).wr (.SHV_PROGRESS d) (BitVec.ofNat 64 ((if index then 49152 else size) * 2 ^ 32))
      let k := s.die d
      s.setDie d { k with
        shv := some o
        misses := if op = 1 then k.misses else
          k.misses.map (fun x => if shvCovers o x.line x.hand then { x with cancel := true } else x) }

/-- SHV_CMD with OP CLEAN (R195). -/
def execShvClean (who : Agent) (d : Fin 16) (v : Word) (s : State) : Out := barred s who (.SHV_CMD d) (.next (shvStart who d v 1 s))
/-- SHV_CMD with OP INVALIDATE (R195, R196). -/
def execShvInvalidate (who : Agent) (d : Fin 16) (v : Word) (s : State) : Out := barred s who (.SHV_CMD d) (.next (shvStart who d v 2 s))
/-- SHV_CMD with OP CLEAN_INV (R195). -/
def execShvCleanInv (who : Agent) (d : Fin 16) (v : Word) (s : State) : Out := barred s who (.SHV_CMD d) (.next (shvStart who d v 3 s))

/-! ### The walk (R193 to R196) -/

/-- A WB-class message of the operation's hand by requester 25; the operation awaits the acknowledgement of a write-back
(R194, R200). -/
def shvSend (s : State) (d : Nat) (o : ShvOp) (m : Msg) : State :=
  let s := sendWb s d 25 { m with hand := o.hand, agent := 25 }
  if m.op = .wbData ∨ m.op = .wbKeep then
    let k := s.die d
    s.setDie d { k with shv := k.shv.map (fun x => { x with waits := m.line :: x.waits }) }
  else s

/-- A line invalidated by the Shelver: with WB_DATA, DISCARD or the clean notice (R195, R196). -/
def shvInvalidateLine (s : State) (d : Nat) (o : ShvOp) (e : L3Line) (dirty discard : Bool) : State :=
  let r := takeLine s d e false
  let s := dropL3 r.2 d e.line
  if dirty ∧ discard then shvSend s d o { dieMsg d .discard o.hand e.line 25 with data := r.1.data, poison := r.1.poison }
  else
    let s := shvSend s d o (leaveMsg (evGen s d) d 25 r.1 dirty r.1.poison)
    if dirty then s.inc (.SHV_WRITTEN d) F.SHV_WRITTEN_COUNT else s

/-- A dirty line written back that stays valid and clean: WB_KEEP (R195). -/
def shvKeepLine (s : State) (d : Nat) (o : ShvOp) (e : L3Line) : State :=
  let r := (coresOnDie d).foldl (fun (r : L3Line × State) c =>
    match l2Find r.2 c e.line with
    | some l =>
      if l.st = 3 then
        let b := bufSram r.2 2 c e.line (some e.hand)
        ({ r.1 with data := l.data, poison := l.poison || b.1 }, putL2 b.2 c { l with st := 2, poison := l.poison || b.1 })
      else r
    | none => r) (e, s)
  let r :=
    if coreDirty s d e.line then r
    else
      let b := bufSram r.2 3 (0x2100 + d) e.line (some e.hand)
      ({ r.1 with poison := r.1.poison || b.1 }, b.2)
  let s := putL3 r.2 d { r.1 with st := 2 }
  let s := shvSend s d o { dieMsg d .wbKeep o.hand e.line 25 with data := r.1.data, poison := r.1.poison }
  s.inc (.SHV_WRITTEN d) F.SHV_WRITTEN_COUNT

/-- One line found by the Shelver (R195, R196). -/
def shvLine (s : State) (d : Nat) (o : ShvOp) (e : L3Line) : State :=
  let dirty := e.st == 3 || coreDirty s d e.line
  let lock := locked s d e && !o.force
  let skip (s : State) : State := s.inc (.SHV_SKIPPED d) F.SHV_SKIPPED_COUNT
  match o.op, lock, dirty with
  | 1, _, false => s
  | 1, _, true => shvKeepLine s d o e
  | 2, true, _ => skip s
  | 2, false, dirty =>
    shvInvalidateLine s d o e dirty (o.own && s.folio.mode o.hand == 1 && inPrivate s o.hand e.line)
  | _, true, false => skip s
  | _, true, true => skip (shvKeepLine s d o e)
  | _, false, dirty => shvInvalidateLine s d o e dirty false

/-- SHV_VISIT: one line in address mode, or one set in index mode: set 0 of slices 0 to 23, then set 1, and so on (R193).
It waits while the write-back buffer has no room for what it sends (R220), and while an L2 defers the back-invalidation of a line it would remove (R231). -/
def execShvVisit (d : Fin 16) (s : State) : Out :=
  match (s.die d).shv with
  | none => .next s
  | some o =>
    let i := s.get (.SHV_PROGRESS d) F.SHV_PROGRESS_DONE_COUNT
    if s.get (.SHV_PROGRESS d) F.SHV_PROGRESS_TOTAL ≤ i then .next s
    else
      let index := s.bit (.SHV_STATUS d) F.SHV_STATUS_INDEX_MODE
      let found := (s.die d).l3.filter (fun e =>
        if index then l3Set e.line == i % 24 * 2048 + i / 24 && shvCovers o e.line e.hand
        else e.line == o.base + i)
      if o.op ≠ 1 ∧ found.any (fun e => deferred s d e.line) then .next s
      else
        let t := (overAll found (fun s e => shvLine s d o e) s).countBlk d 0x0108 found.length
        .next (if wbFits t d then t.put (.SHV_PROGRESS d) F.SHV_PROGRESS_DONE_COUNT (i + 1) else s)

/-- SHV_COMPLETE: the walk is over and the last write-back acknowledged: BUSY clears, DONE sets, source 16 + d arrives
(R200). -/
def execShvComplete (d : Fin 16) (s : State) : Out :=
  match (s.die d).shv with
  | none => .next s
  | some o =>
    if s.get (.SHV_PROGRESS d) F.SHV_PROGRESS_DONE_COUNT = s.get (.SHV_PROGRESS d) F.SHV_PROGRESS_TOTAL ∧ o.waits = [] then
      let s := s.setDie d { s.die d with shv := none }
      .next (((s.put (.SHV_STATUS d) F.SHV_STATUS_BUSY 0).put (.SHV_STATUS d) F.SHV_STATUS_DONE 1).arrive (16 + d.val))
    else .next s

/-! ### Lock ranges (R202, R203) -/

/-- Whether an agent may write a lock range: H[0], or a hand that reaches compute-die blocks and that the entry names. -/
def lockWriter (s : State) (who : Agent) (d k : Nat) : Bool :=
  s.dieInService d && (s.isHouse who ||
    (s.reaches 11 who && s.agentHand who == some (s.get (.SHV_LOCK_SIZE d k) F.SHV_LOCK_SIZE_HAND)))

/-- SHV_LOCK_SIZE[k]: refused where it would leave VALID set on an empty range or one outside the hand's windows (R203);
only H[0] changes HAND (R202). -/
def execShvLockSizeWrite (who : Agent) (d k : Fin 16) (v : Word) (s : State) : Out :=
  barred s who (.SHV_LOCK_SIZE d k) <|
  if !lockWriter s who d k then .next s
  else
    let r := Reg.SHV_LOCK_SIZE d k
    let w := r.written (s.rd r) v
    let w := if s.isHouse who then w else F.SHV_LOCK_SIZE_HAND.put w (s.get r F.SHV_LOCK_SIZE_HAND)
    let size := F.SHV_LOCK_SIZE_SIZE.get w * 64
    let base := s.get (.SHV_LOCK_BASE d k) F.SHV_LOCK_BASE_BASE * 64
    if F.SHV_LOCK_SIZE_VALID.get w = 1 ∧ (size = 0 ∨ ¬ covered s (F.SHV_LOCK_SIZE_HAND.get w) base size) then
      .next ((s.put (.SHV_STATUS d) F.SHV_STATUS_LOCK_REFUSED 1).arrive (16 + d.val))
    else .next (s.wr r w)

end Sys2Proof.Machine
end

