-- ==== Sys2Proof/Machine/Translate.lean ====
section
/-! DEFINITION. Address translation: TLBs, walk caches, walks, their checks, fences (R153 to R174); PMP with Smepmp and
pointer masking as RISC-V defines them (PRESUMED, named by R117 and R122); the access checks of R11, R123 and R249. -/

namespace Sys2Proof.Machine

/-! ### PMP (R122, R157) -/

/-- Configuration byte of PMP entry `i`. -/
def pmpCfg (s : State) (c i : Nat) : Nat := ((s.csr c (0x3A0 + 2 * (i / 8))).toNat / 2 ^ (8 * (i % 8))) % 256

/-- First byte and end of the range of a PMP entry, with the 4 KiB granularity of R122. -/
def pmpRange (s : State) (c i : Nat) : Nat × Nat :=
  let a := (s.csr c (0x3B0 + i)).toNat % 2 ^ 54
  match pmpCfg s c i / 8 % 4 with
  | 1 =>
    let lo := if i = 0 then 0 else (s.csr c (0x3B0 + i - 1)).toNat % 2 ^ 54
    (lo / 1024 * 4096, a / 1024 * 4096)
  | 3 =>
    let a := a ||| 0x1FF
    let ones := ((List.range 54).takeWhile (fun k => a.testBit k)).length
    let size := 2 ^ (ones + 3)
    (a * 4 / size * size, a * 4 / size * size + size)
  | _ => (0, 0)

/-- Whether a PMP configuration allows an access in M-mode or below (Smepmp: MML in mseccfg). -/
def pmpAllows (mml m : Bool) (cfg : Nat) (acc : Acc) : Bool :=
  let r := cfg.testBit 0
  let w := cfg.testBit 1
  let x := cfg.testBit 2
  let l := cfg.testBit 7
  let plain : Bool := match acc with | .fetch => x | .load => r | .store => w
  if !mml then (m && !l) || plain
  else
    match l, r, w, x with
    | false, false, true, x => (match acc with | .fetch => false | .load => true | .store => m || x)
    | true, false, true, x => (match acc with | .fetch => true | .load => m && x | .store => false)
    | true, true, true, true => acc == .load
    | l, _, _, _ => l == m && plain

/-- The PMP check of an access of `n` bytes by a mode: the lowest-numbered matching entry decides (R122, R157). -/
def pmpOk (s : State) (c priv pa n : Nat) (acc : Acc) : Bool :=
  let m := priv == 3
  let sec := s.csr c 0x747
  match (List.range 16).find? (fun i =>
      let g := pmpRange s c i
      decide (g.1 < pa + n) && decide (pa < g.2)) with
  | some i =>
    let g := pmpRange s c i
    decide (g.1 ≤ pa) && decide (pa + n ≤ g.2) && pmpAllows (sec.getLsbD 0) m (pmpCfg s c i) acc
  | none => m && !sec.getLsbD 1 && !(sec.getLsbD 0 && acc == .fetch)

/-! ### Access checks after translation (R11, R123, R248, R249) -/

/-- What an access reaches. -/
inductive Reach
  | dram                     -- installed DRAM that the hand may reach
  | control                  -- the control space
  | fault                    -- the window check or R248 fails
  | ledger                   -- forbidden by R249
  deriving DecidableEq, Repr

/-- Kinds of access that R249 tells apart; `reserve` is LR, which reads only, `atomic` AMO and SC. -/
inductive Kind | fetch | load | store | atomic | reserve
  deriving DecidableEq, Repr

/-- Base and half size of a hand's intake window. -/
def intakeWin (s : State) (h : Nat) : Option (Nat × Nat) :=
  (s.folio.map.windows.find? (fun w => w.kind == 1 && w.mask.testBit h)).map (fun w => (w.base, w.size / 2))

/-- Whether a ledger hand is STARTING or RUNNING. -/
def ledgerLive (s : State) (h : Nat) : Bool :=
  s.folio.isLedger h && (s.handState h == 2 || s.handState h == 4)

/-- Whether writes by others to a window are refused (R248): a live ledger hand's private, intake or shared read-only
window. -/
def frozenFor (s : State) (w : WinRec) (self : Option Nat) : Bool :=
  w.kind != 3 && (List.range 64).any (fun h => w.mask.testBit h && ledgerLive s h && self != some h)

/-- Bit of CTRL_ACCESS for a control-space address (R16, R58); none in the reserved range and outside the space. -/
def ctrlBlock (pa : Nat) : Option Nat :=
  if pa < 0xF00000000000 then none
  else
    let b := (pa - 0xF00000000000) / 0x1000000
    if b < 11 then some b else if 16 ≤ b ∧ b < 32 then some 11 else none

/-- Whether a hand reaches a control-space address (R17, R58); TIC_CLAIM and TIC_EOI are the exception of R387. -/
def ctrlOk (s : State) (h pa : Nat) : Bool :=
  match ctrlBlock pa with
  | none => false
  | some b => s.folio.ctrlAccess h b ||
      match Reg.ofAddr pa with
      | some (.TIC_CLAIM _) | some (.TIC_EOI _) => true
      | _ => false

/-- The check of one access of `n` bytes at `pa` by core `c` (R11, R123, R248, R249). -/
def reach (s : State) (c pa n : Nat) (k : Kind) : Reach :=
  let h := handOr0 s c
  let inCtl := decide (0xF00000000000 ≤ pa) && decide (pa < 0xF10000000000)
  if s.handOf c = none then .fault
  else if inCtl then (if k = .fetch ∨ ¬ ctrlOk s h pa then .fault else .control)
  else
    match windowAt s pa with
    | none => .fault
    | some w =>
      if pa + n ≤ w.base + w.size ∧ w.mask.testBit h ∧ pa + n ≤ installed s then
        let write := k == .store || k == .atomic
        if write && w.kind == 2 then .fault
        else if s.folio.isLedger h then
          let ok : Bool := match w.kind with
            | 0 => true
            | 1 => k == .load && decide (pa + n ≤ w.base + w.size / 2)
            | 2 => k == .fetch || k == .load
            | _ => k == .store
          if ok then .dram else .ledger
        else if write && frozenFor s w none then .fault
        else .dram
      else .fault

/-- The access-fault cause of an access. -/
def accessCause : Acc → Nat
  | .fetch => 1
  | .load => 5
  | .store => 7

/-! ### Modes and regimes (R154) -/

/-- The privilege and virtualisation in force for an access: mstatus.MPRV redirects loads and stores of M-mode. -/
def accMode (s : State) (c : Nat) (acc : Acc) : Nat × Bool :=
  let k := s.core c
  let st := s.csr c 0x300
  if acc ≠ .fetch ∧ k.priv = 3 ∧ st.getLsbD 17 then
    let mpp := Fld.get ⟨12, 11⟩ st
    (mpp, mpp != 3 && st.getLsbD 39)
  else (k.priv.toNat, k.virt)

/-- MODE of an address-translation CSR as a number of levels: 0 is Bare. -/
def levelsOf (w : Word) : Nat :=
  let m := Fld.get ⟨63, 60⟩ w
  if m = 8 then 3 else if m = 9 then 4 else if m = 10 then 5 else 0

/-- The regime of a mode: 0 S, 1 VS, 2 G only; none where no translation applies. -/
def regimeOf (s : State) (c : Nat) (m : Nat × Bool) : Option Nat :=
  if m.1 = 3 then none
  else if m.2 then
    if levelsOf (s.csr c 0x280) ≠ 0 then some 1
    else if levelsOf (s.csr c 0x680) ≠ 0 then some 2 else none
  else if levelsOf (s.csr c 0x180) ≠ 0 then some 0 else none

/-- ASID and VMID in force. -/
def asidOf (s : State) (c : Nat) (virt : Bool) : Nat := Fld.get ⟨59, 44⟩ (s.csr c (if virt then 0x280 else 0x180))
def vmidOf (s : State) (c : Nat) : Nat := Fld.get ⟨57, 44⟩ (s.csr c 0x680)

/-- Whether a virtual address is canonical for a number of levels. -/
def canonical (va : Word) (levels : Nat) : Bool :=
  let b := 11 + 9 * levels
  let top := va.toNat / 2 ^ b
  top == 0 || top == 2 ^ (64 - b) - 1

/-- Number of ignored upper bits of a load's or store's address (R122: PMLEN 7 or 16). -/
def maskBits (s : State) (c : Nat) (m : Nat × Bool) : Nat :=
  let n := if m.1 = 3 then 0x747 else if m.1 = 0 then 0x10A else if m.2 then 0x60A else 0x30A
  let pmm := Fld.get ⟨33, 32⟩ (s.csr c n)
  if pmm = 2 then 7 else if pmm = 3 then 16 else 0

/-- An address with its upper `n` bits zero, or equal to the bit below them. -/
def cutVa (va : Word) (n : Nat) (zero : Bool) : Word :=
  if zero then (va <<< n) >>> n else (va <<< n).sshiftRight n

/-- The masked address of a load or store (R122). -/
def maskVa (s : State) (c : Nat) (acc : Acc) (va : Word) : Word :=
  if acc = .fetch then va
  else
    let m := accMode s c acc
    cutVa va (maskBits s c m) (regimeOf s c m).isNone

/-! ### Permissions -/

/-- Whether an entry's permission bits allow an access of a mode (U, SUM, MXR). `st` is the status word in force. -/
def permOk (st : Word) (mxr2 : Bool) (priv : Nat) (acc : Acc) (perm : Nat) : Bool :=
  let mxr := st.getLsbD 19 || mxr2
  let u := perm.testBit 3
  let mode := if priv = 0 then u else !u || (acc != .fetch && st.getLsbD 18)
  mode && match acc with
    | .fetch => perm.testBit 2
    | .load => perm.testBit 0 || (mxr && perm.testBit 2)
    | .store => perm.testBit 1

/-- Whether an entry serves an access: permission, and D for a store (R159, R160). -/
def entryOk (s : State) (c : Nat) (m : Nat × Bool) (acc : Acc) (e : TlbEnt) : Bool :=
  let ms := s.csr c 0x300
  let ok : Bool :=
    if e.regime = 2 then
      (match acc with
        | .fetch => e.perm.testBit 2
        | .load => e.perm.testBit 0 || (ms.getLsbD 19 && e.perm.testBit 2)
        | .store => e.perm.testBit 1)
    else permOk (if m.2 then s.csr c 0x200 else ms) (m.2 && ms.getLsbD 19) m.1 acc e.perm
  ok && (acc != .store || e.dirty)

/-! ### Entries (R154 to R156) -/

/-- Whether an entry matches a lookup. -/
def entryHit (regime asid vmid va : Nat) (e : TlbEnt) : Bool :=
  e.regime == regime && (regime == 0 || e.vmid == vmid) && (regime == 2 || e.glob || e.asid == asid)
    && e.vpn == va / 2 ^ e.size

/-- The entry of an address in the TLBs of a core. -/
def tlbFind (s : State) (c : Nat) (acc : Acc) (regime asid vmid va : Nat) : Option TlbEnt :=
  let k := s.core c
  let l1 := match acc with | .fetch => k.itlb | _ => k.dtlb
  (l1 ++ k.l2tlb).find? (entryHit regime asid vmid va)

/-- Puts an element into a fully associative structure of `n` entries; the victim is a free choice. -/
def putFull {α : Type} (s : State) (l : List α) (n : Nat) (e : α) : List α × State :=
  if l.length < n then (e :: l, s)
  else
    let f := s.fresh
    (e :: dropAt l (f.1.toNat % n), f.2)

/-- An entry installed in the L1 TLB of its kind and in the L2 TLB (256 sets of 12 ways, R156). Another entry of the same
tags and page is replaced. -/
def tlbInstall (s : State) (c : Nat) (acc : Acc) (e : TlbEnt) : State :=
  let same (x : TlbEnt) : Bool := x.regime == e.regime && x.asid == e.asid && x.vmid == e.vmid && x.size == e.size && x.vpn == e.vpn
  let k := s.core c
  let k := { k with itlb := k.itlb.filter (fun x => !same x)
                    dtlb := k.dtlb.filter (fun x => !same x)
                    l2tlb := k.l2tlb.filter (fun x => !same x) }
  let r1 := putFull s (match acc with | .fetch => k.itlb | _ => k.dtlb) 64 e
  let set (x : TlbEnt) : Nat := x.vpn % 256
  let r2 := putFull r1.2 (k.l2tlb.filter (fun x => set x == set e)) 12 e
  let k := match acc with | .fetch => { k with itlb := r1.1 } | _ => { k with dtlb := r1.1 }
  sramWrite (r2.2.setCore c { k with l2tlb := r2.1 ++ k.l2tlb.filter (fun x => set x != set e) }) 6 c (e.vpn * 2 ^ e.size)

/-- The entries of an address removed (R160). -/
def tlbRemove (s : State) (c regime asid vmid va : Nat) : State :=
  let k := s.core c
  let f (l : List TlbEnt) : List TlbEnt := l.filter (fun e => !entryHit regime asid vmid va e)
  s.setCore c { k with itlb := f k.itlb, dtlb := f k.dtlb, l2tlb := f k.l2tlb }

/-- A TLB entry checked as it is used: a wrong one is invalidated, and the access walks again (R445). -/
def checkTlb (s : State) (c regime asid vmid va : Nat) (e : TlbEnt) : Bool × State :=
  match sramBits s 6 c (e.vpn * 2 ^ e.size) with
  | 0 => (true, s)
  | n =>
    let s := tlbRemove (sramClear s 6 c (e.vpn * 2 ^ e.size)) c regime asid vmid va
    (false, s.fault ⟨5, c, none, 6, if n = 1 then 0 else 1, e.vpn * 2 ^ e.size, 0⟩)

/-! ### Walks (R158 to R164, R174) -/

/-- How a walk ends without a leaf; `aClear` is a leaf that only its clear A bit denies (R159). -/
inductive WalkFail
  | page (aClear : Bool)      -- page fault of the access type
  | guest (gpa : Nat) (aClear : Bool) -- guest-page fault
  | cause (n : Nat)           -- an access fault or WALK_NONMEM
  | hw (kind line : Nat)      -- cause 19
  | ledger                    -- LEDGER_ACCESS
  | wait (line : Nat)         -- the PTE's line is on its way
  deriving DecidableEq, Repr

/-- One walk read of 8 bytes at a physical address, with the checks of R162 in order. In ledger mode it sees memory as a
load of the core would (R174); otherwise the core's L2, without its merging buffer (R158). -/
def walkRead (s : State) (c : Nat) (acc : Acc) (pa : Nat) : Except WalkFail Word × State :=
  if installed s ≤ pa then (.error (.cause 24), s)
  else if !pmpOk s c 1 pa 8 .load then (.error (.cause (accessCause acc)), s)
  else
    match reach s c pa 8 .load with
    | .fault | .control => (.error (.cause (accessCause acc)), s)
    | .ledger => (.error .ledger, s)
    | .dram =>
      let line := pa / 64
      let word (l : LineData) : Word := l.extractLsb' (8 * (pa % 64)) 64
      if s.ledgerCore c then
        match loadLine s c line (needMask (pa % 64) 8) with
        | (.wait, s) => (.error (.wait line), addWait s c line .prefetch)
        | (.bytes data p lost, s) =>
          if lost then (.error (.hw 4 line), s) else if p then (.error (.hw 3 line), s) else (.ok (word data), s)
      else
        match checkedRead s c line (pa % 64 / 16) with
        | (.wait, s) => (.error (.wait line), addWait s c line .prefetch)
        | (.bytes data p lost, s) =>
          if lost then (.error (.hw 4 line), s) else if p then (.error (.hw 3 line), s) else (.ok (word data), s)

/-- PPN of a PTE. -/
def ptePpn (p : Word) : Nat := Fld.get ⟨53, 10⟩ p
/-- Whether a PTE is a leaf. -/
def pteLeaf (p : Word) : Bool := p.getLsbD 1 || p.getLsbD 3

/-- Whether PTEs of a stage may use PBMT: menvcfg.PBMTE, and henvcfg.PBMTE for the VS stage (Svpbmt, PRESUMED). -/
def pbmtOn (s : State) (c : Nat) (vs : Bool) : Bool :=
  (s.csr c 0x30A).getLsbD 62 && (!vs || (s.csr c 0x60A).getLsbD 62)

/-- Whether a PTE at a level raises a page fault whatever the access: invalid, reserved (PBMT too, where `pbmt` is false),
misaligned, a bad N group, or a leaf with A clear (R159, R161). -/
def pteBad (pbmt : Bool) (p : Word) (lvl : Nat) : Bool :=
  !p.getLsbD 0 || (p.getLsbD 2 && !p.getLsbD 1) || Fld.get ⟨60, 54⟩ p != 0 || Fld.get ⟨62, 61⟩ p == 3 ||
  (!pbmt && Fld.get ⟨62, 61⟩ p != 0) ||
  (if pteLeaf p then
    !p.getLsbD 6 || ptePpn p % 2 ^ (9 * lvl) != 0 || (p.getLsbD 63 && (lvl != 0 || ptePpn p % 16 != 8))
  else p.getLsbD 63 || Fld.get ⟨62, 61⟩ p != 0 || p.getLsbD 4 || p.getLsbD 6 || p.getLsbD 7 || lvl == 0)

/-- Whether a PTE would be a leaf to use, were its A bit not clear (R159). -/
def pteAClear (pbmt : Bool) (p : Word) (lvl : Nat) : Bool :=
  pteLeaf p && !p.getLsbD 6 && !pteBad pbmt (p ||| 0x40) lvl

/-- A leaf found by a walk: the PTE and its level. -/
structure Leaf where
  pte : Word
  lvl : Nat
  deriving DecidableEq, Repr

/-- The physical (or guest physical) address of an address under a leaf; a 64 KiB group takes bits 15:12 from the address. -/
def Leaf.addr (l : Leaf) (va : Nat) : Nat :=
  let n := if l.pte.getLsbD 63 then 16 else 12 + 9 * l.lvl
  ptePpn l.pte * 4096 / 2 ^ n * 2 ^ n + va % 2 ^ n

/-- Log of the size of a leaf's entry (R155): 512 GiB and 256 TiB leaves are held as 1 GiB pieces. -/
def Leaf.size (l : Leaf) : Nat := if l.pte.getLsbD 63 then 16 else min 30 (12 + 9 * l.lvl)

/-- R, W, X, U of a leaf. -/
def Leaf.perm (l : Leaf) : Nat := Fld.get ⟨4, 1⟩ l.pte

/-- The levels of a walk from one table downward: `rd` reads a PTE, `note` records a non-leaf PTE in a walk cache; `pbmt` says
whether the stage may use PBMT. -/
def walkDown (pbmt : Bool) (rd : State → Nat → Except WalkFail Word × State) (note : State → Nat → Word → State) (va top : Nat) :
    Nat → State → Nat → Except WalkFail Leaf × State
  | lvl, s, base =>
    let idx := va / 2 ^ (12 + 9 * lvl) % (if lvl = top then 2 ^ 11 else 2 ^ 9)
    match rd s (base + 8 * idx) with
    | (.error e, s) => (.error e, s)
    | (.ok p, s) =>
      if pteBad pbmt p lvl then (.error (.page (pteAClear pbmt p lvl)), s)
      else if pteLeaf p then (.ok ⟨p, lvl⟩, s)
      else
        match lvl with
        | 0 => (.error (.page false), s)
        | n + 1 => walkDown pbmt rd note va top n (note s (n + 1) p) (ptePpn p * 4096)

/-- The deepest walk-cache entry of an address: the level its table serves and the table. -/
def walkHit (l : List WalkEnt) (regime asid vmid va : Nat) : Option (Nat × Nat) :=
  ((List.range 4).findSome? (fun j =>
    l.find? (fun e => e.shift == 21 + 9 * j && e.regime == regime && (regime == 0 || e.vmid == vmid)
      && (regime == 3 || e.glob || e.asid == asid) && e.tag == va / 2 ^ e.shift))).map
    (fun e => ((e.shift - 21) / 9, e.table))

/-- The G-stage walk of a guest physical address (R163, R164); the leaf must allow user access. -/
def walkG (s : State) (c : Nat) (acc : Acc) (gpa : Nat) : Except WalkFail Leaf × State :=
  let h := s.csr c 0x680
  let n := levelsOf h
  let vmid := vmidOf s c
  if n = 0 then (.ok ⟨BitVec.ofNat 64 (gpa / 4096 * 1024 + 0xFF), 0⟩, s)
  else if gpa ≥ 2 ^ (14 + 9 * n) then (.error (.guest gpa false), s)
  else
    let note (s : State) (lvl : Nat) (p : Word) : State :=
      let sh := 12 + 9 * lvl
      let r := putFull s ((s.core c).gwalks.filter (fun e => !(e.shift == sh && e.vmid == vmid && e.tag == gpa / 2 ^ sh)))
        32 ⟨3, vmid, 0, true, sh, gpa / 2 ^ sh, ptePpn p * 4096⟩
      r.2.setCore c { r.2.core c with gwalks := r.1 }
    let start := (walkHit (s.core c).gwalks 3 0 vmid gpa).getD (n - 1, ptePpn (h <<< 10) * 4096)
    match walkDown (pbmtOn s c false) (fun s pa => walkRead s c acc pa) note gpa (n - 1) start.1 s start.2 with
    | (.ok l, s) => if l.pte.getLsbD 4 then (.ok l, s) else (.error (.guest gpa false), s)
    | (.error (.page a), s) => (.error (.guest gpa a), s)
    | r => r

/-- Whether a G-stage leaf allows an access. -/
def gOk (s : State) (c : Nat) (acc : Acc) (l : Leaf) : Bool :=
  match acc with
  | .fetch => l.pte.getLsbD 3
  | .load => l.pte.getLsbD 1 || ((s.csr c 0x300).getLsbD 19 && l.pte.getLsbD 3)
  | .store => l.pte.getLsbD 2 && l.pte.getLsbD 7

/-- The first-stage walk of an address in the S or VS regime. A VS-stage PTE is read through the G stage. -/
def walkS (s : State) (c : Nat) (acc : Acc) (regime va : Nat) : Except WalkFail Leaf × State :=
  let virt := regime == 1
  let at_ := s.csr c (if virt then 0x280 else 0x180)
  let n := levelsOf at_
  let vmid := if virt then vmidOf s c else 0
  let asid := asidOf s c virt
  let low := va % 2 ^ (12 + 9 * n)
  let note (s : State) (lvl : Nat) (p : Word) : State :=
    let sh := 12 + 9 * lvl
    let r := putFull s ((s.core c).walks.filter (fun e =>
        !(e.shift == sh && e.regime == regime && e.vmid == vmid && e.asid == asid && e.tag == va / 2 ^ sh)))
      64 ⟨regime, vmid, asid, p.getLsbD 5, sh, va / 2 ^ sh, ptePpn p * 4096⟩
    r.2.setCore c { r.2.core c with walks := r.1 }
  let rd (s : State) (pa : Nat) : Except WalkFail Word × State :=
    if virt then
      match walkG s c acc pa with
      | (.ok l, s) => if gOk s c .load l then walkRead s c acc (l.addr pa) else (.error (.guest pa false), s)
      | (.error e, s) => (.error e, s)
    else walkRead s c acc pa
  let start := (walkHit (s.core c).walks regime asid vmid va).getD (n - 1, ptePpn (at_ <<< 10) * 4096)
  walkDown (pbmtOn s c virt) rd note low n start.1 s start.2

/-- The result of a translation. -/
inductive Tr
  | ok (pa pbmt : Nat)
  | fault (cause gpa : Nat)
  | hw (kind line : Nat)
  | ledger
  | wait (line : Nat)
  deriving DecidableEq, Repr

/-- Page-fault and guest-page-fault causes of an access. -/
def pageCause : Acc → Nat
  | .fetch => 12
  | .load => 13
  | .store => 15
def guestCause : Acc → Nat
  | .fetch => 20
  | .load => 21
  | .store => 23

/-- A failed walk as a result of translation. -/
def WalkFail.tr (acc : Acc) : WalkFail → Tr
  | .page _ => .fault (pageCause acc) 0
  | .guest g _ => .fault (guestCause acc) g
  | .cause n => .fault n 0
  | .hw k l => .hw k l
  | .ledger => .ledger
  | .wait l => .wait l

/-- The entry that a first-stage leaf and a G-stage leaf make (R155, R156). -/
def mkEntry (regime vmid asid va : Nat) (l : Leaf) (g : Option Leaf) : TlbEnt :=
  let pa1 := l.addr va
  let pa := match g with | some x => x.addr pa1 | none => pa1
  let size := match g with | some x => min l.size x.size | none => l.size
  let gp := match g with | some x => x.perm ||| 8 | none => 15
  let pb := Fld.get ⟨62, 61⟩ l.pte
  { regime := regime, vmid := vmid, asid := asid, glob := l.pte.getLsbD 5, size := size, vpn := va / 2 ^ size,
    ppn := pa / 2 ^ size, perm := l.perm &&& gp,
    pbmt := if pb ≠ 0 then pb else (match g with | some x => Fld.get ⟨62, 61⟩ x.pte | none => 0),
    dirty := l.pte.getLsbD 7 && (match g with | some x => x.pte.getLsbD 7 | none => true) }

/-- Whether a walk ended at a leaf with A clear, which installs nothing (R159). -/
def WalkFail.aClear : WalkFail → Bool
  | .page a => a
  | .guest _ a => a
  | _ => false

/-- The failure of a store through a leaf with D clear: a guest-page fault where only the G stage's is clear (R159; which stage
reports it is PRESUMED, the privileged architecture). -/
def dFault (l : Leaf) (gpa : Option Nat) : WalkFail :=
  match gpa with
  | some g => if l.pte.getLsbD 7 then .guest g false else .page false
  | none => .page false

/-- The leaves of an address in a regime, as an entry with the failure of a store that finds D clear (R155, R159, R160). With
hgatp Bare the VS stage's leaf alone gives the entry. -/
def walkLeaves (s : State) (c : Nat) (m : Nat × Bool) (acc : Acc) (regime va : Nat) :
    Except WalkFail (TlbEnt × WalkFail) × State :=
  let vmid := if regime = 0 then 0 else vmidOf s c
  let asid := if regime = 2 then 0 else asidOf s c (regime == 1)
  let allows (s : State) (g : Leaf) : Bool := gOk s c acc g || (acc == .store && g.pte.getLsbD 2)
  if regime = 2 then
    match walkG s c acc va with
    | (.error e, s) => (.error e, s)
    | (.ok g, s) =>
      if allows s g then (.ok (mkEntry 2 vmid 0 va g none, .guest va false), s) else (.error (.guest va false), s)
  else
    match walkS s c acc regime va with
    | (.error e, s) => (.error e, s)
    | (.ok l, s) =>
      let e := mkEntry regime vmid asid va l none
      if !entryOk s c m acc { e with dirty := true } then (.error (.page false), s)
      else if regime = 0 ∨ levelsOf (s.csr c 0x680) = 0 then (.ok (e, dFault l none), s)
      else
        match walkG s c acc (l.addr va) with
        | (.error x, s) => (.error x, s)
        | (.ok g, s) =>
          if allows s g then (.ok (mkEntry 1 vmid asid va l (some g), dFault l (some (l.addr va))), s)
          else (.error (.guest (l.addr va) false), s)

/-- A walk for an address: the entry with the failure of a store that finds D clear, or the failure; one that ends at a leaf
with A clear leaves the walk caches as they were (R159, R160). -/
def walk (s : State) (c : Nat) (m : Nat × Bool) (acc : Acc) (regime va : Nat) : Except WalkFail (TlbEnt × WalkFail) × State :=
  match walkLeaves s c m acc regime va with
  | (.error e, t) =>
    if e.aClear then (.error e, t.setCore c { t.core c with walks := (s.core c).walks, gwalks := (s.core c).gwalks })
    else (.error e, t)
  | r => r

/-- Translation of an access (R153 to R164). A leaf with D clear is installed; a store through it faults (R159). -/
def translate (s : State) (c : Nat) (va : Word) (acc : Acc) : Tr × State :=
  let m := accMode s c acc
  match regimeOf s c m with
  | none => if va.toNat < 2 ^ 52 then (.ok va.toNat 0, s) else (.fault (accessCause acc) 0, s)
  | some r =>
    let n := levelsOf (s.csr c (match r with | 0 => 0x180 | 1 => 0x280 | _ => 0x680))
    if r ≠ 2 ∧ ¬ canonical va n then (.fault (pageCause acc) 0, s)
    else
      let a := va.toNat
      let asid := asidOf s c (r == 1)
      let vmid := vmidOf s c
      let go (e : TlbEnt) : Tr := .ok (e.ppn * 2 ^ e.size + a % 2 ^ e.size) e.pbmt
      match tlbFind s c acc r asid vmid a with
      | some e =>
        let h := checkTlb s c r asid vmid a e
        let s := h.2
        if h.1 ∧ entryOk s c m acc e then (go e, tlbInstall s c acc e)
        else
          let s := tlbRemove s c r asid vmid a
          match walk s c m acc r a with
          | (.error x, s) => (x.tr acc, s)
          | (.ok (e, x), s) =>
            let s := tlbInstall s c acc e
            if acc = .store ∧ ¬ e.dirty then (x.tr acc, s) else (go e, s)
      | none =>
        match walk s c m acc r a with
        | (.error x, s) => (x.tr acc, s)
        | (.ok (e, x), s) =>
          let s := tlbInstall s c acc e
          if acc = .store ∧ ¬ e.dirty then (x.tr acc, s) else (go e, s)

/-- A trap with the guest physical address of a guest-page fault in mtval2 or htval; both hold zero otherwise (R163). -/
def trapGpa (s : State) (c cause : Nat) (va : Word) (gpa : Nat) : State :=
  let s := trap s c cause va
  if gpa = 0 then s
  else if (s.core c).priv = 3 then s.setCsr c 0x34B (BitVec.ofNat 64 (gpa / 4))
  else if !(s.core c).virt then s.setCsr c 0x643 (BitVec.ofNat 64 (gpa / 4))
  else s

/-- The traps of a failed translation of a retired access (R162, R163). -/
def trapTr (s : State) (c : Nat) (va : Word) : Tr → State
  | .ok _ _ => s
  | .fault n g => trapGpa s c n va g
  | .hw k l => hwError s c va k l
  | .ledger => ledgerAccess s c va
  | .wait _ => s

/-- PAGE_WALK: a walk for an access that will retire, or a speculative or prefetch one, whose failures leave no trace; a prefetch
makes one only while mjctl.PFDIS is clear (R158, R162, R171). -/
def execPageWalk (c : Fin 384) (va : Word) (acc : Acc) (why : WalkWhy) (s : State) : Out :=
  if !s.runs c ∨ (why = .prefetch ∧ (s.csr c 0x7C0).getLsbD 0) then .next s
  else
    match translate s c va acc with
    | (t, s) => .next (if why = .retired then trapTr s c va t else s)

/-! ### Fences (R165 to R167) -/

/-- Entries kept by an invalidation of a regime: address and ASID select, zero registers mean all. -/
def keepEnt (regime : Nat) (vmid : Option Nat) (va asid : Option Nat) (e : TlbEnt) : Bool :=
  !(e.regime == regime && (match vmid with | some v => e.vmid == v | none => true)
    && (match va with | some a => e.vpn == a / 2 ^ e.size | none => true)
    && (match asid with | some x => e.asid == x && !e.glob | none => true))

/-- Walk-cache entries kept. -/
def keepWalk (regime : Nat) (vmid : Option Nat) (va asid : Option Nat) (e : WalkEnt) : Bool :=
  !(e.regime == regime && (match vmid with | some v => e.vmid == v | none => true)
    && (match va with | some a => e.tag == a / 2 ^ e.shift | none => true)
    && (match asid with | some x => e.asid == x && !e.glob | none => true))

/-- An invalidation of S or VS entries (R165). -/
def fenceVma (s : State) (c regime : Nat) (vmid va asid : Option Nat) : State :=
  let k := s.core c
  let f := List.filter (keepEnt regime vmid va asid)
  s.setCore c { k with
    itlb := f k.itlb, dtlb := f k.dtlb, l2tlb := f k.l2tlb
    walks := k.walks.filter (keepWalk regime vmid va asid) }

/-- HFENCE.GVMA: every combined entry and VS walk-cache entry of a VMID, and the G-stage walk-cache entries of the guest
physical address (R165). -/
def fenceGvma (s : State) (c : Nat) (vmid gpa : Option Nat) : State :=
  let k := s.core c
  let f := List.filter (fun e => keepEnt 1 vmid none none e && keepEnt 2 vmid none none e)
  s.setCore c { k with
    itlb := f k.itlb, dtlb := f k.dtlb, l2tlb := f k.l2tlb
    walks := k.walks.filter (keepWalk 1 vmid none none)
    gwalks := k.gwalks.filter (keepWalk 3 vmid gpa none) }

/-- The operand of a fence: none for x0. -/
def fenceOp (s : State) (c : Nat) (r : Fin 32) : Option Nat := if r = 0 then none else some (s.xreg c r).toNat

/-- The ASID and the VMID operand of a fence: the low ASIDLEN = 16 and VMIDLEN = 14 bits (R122, R165). -/
def fenceAsid (s : State) (c : Nat) (r : Fin 32) : Option Nat := (fenceOp s c r).map (· % 2 ^ 16)
def fenceVmid (s : State) (c : Nat) (r : Fin 32) : Option Nat := (fenceOp s c r).map (· % 2 ^ 14)

/-- The current VMID, for fences of the VS regime. -/
def curVmid (s : State) (c : Nat) : Option Nat := some (vmidOf s c)

end Sys2Proof.Machine
end

