-- ==== Sys2Proof/Machine/Cores.lean ====
section
/-! DEFINITION. Cores: starting and stopping (R125 to R129), timers and software interrupts (R152, R250), fences
(R165 to R167, R180), cache-block instructions (R212), waits, environment calls, and the quantum of a ledger core
(R144 to R146, R241). An instruction whose drain or line is still on its way leaves its requests out and is offered
again (DESIGN CHOICE). -/

namespace Sys2Proof.Machine

/-! ### Starting and stopping -/

/-- A core's tally context emptied: RUNNING, DEPTH and its stack (R381). -/
def clearContext (s : State) (c : Nat) : State :=
  overAll (List.range 8) (fun s k => s.clr (.TIC_STACK c k)) (s.clr (.TIC_CORE_STATE c))

/-- The scheduled deliveries of a ledger hand at their first due epochs, as intakes to stage, numbered from `n` on (R253). -/
def firstIntakes (f : Folio) (h n : Nat) : List Intake :=
  match f.ledger? h with
  | none => []
  | some r => (r.intakes.zip (List.range r.intakes.length)).map (fun e =>
      ⟨n + e.2, e.1.first, e.1.length, e.1.dest, e.1.source, e.1.port, e.1.vf, some e.1.period, none, 1, 0, 0, [], [], false, 0⟩)

/-- Due intakes with the SEQs after `n`, in their order (R254). -/
def numberDue : Nat → List Intake → List Intake
  | _, [] => []
  | n, i :: t => if i.due then { i with seq := n + 1 } :: numberDue (n + 1) t else i :: numberDue n t

/-- The intake cutoff of epoch `e`: the intakes due there are fixed and take their SEQs (R254, R256). -/
def cutoff (l : Ledger) (e : Nat) : Ledger :=
  let is := l.intakes.map (fun i => { i with due := i.epoch == e })
  { l with
    intakes := numberDue l.seq is
    seq := l.seq + (is.filter (fun i => i.due)).length
    waits := [], placed := false, held := none }

/-- The last core of a ledger hand has entered STARTING: phase 1, epoch 0, the cutoff of epoch 0; the staging of its
scheduled intakes begins, and the POSTs accepted before stay behind them (R253, R254, R257). -/
def ledgerStarting (s : State) (h : Nat) : State :=
  let s := s.wr (.CSQ_LDG_EPOCH h) 0
  let s := s.wr (.CSQ_LDG_INTAKES h) 0
  let s := s.wr (.CSQ_LDG_PHASE h) 1
  let old := s.ledger h
  let l := firstIntakes s.folio h old.nextId ++ old.intakes
  s.setLedger h (cutoff { Ledger.init with intakes := l, nextId := old.nextId + l.length } 0)

/-- START of core `c` (R126): a STOPPED core on a die in service and not on its way to Fold or Out, in a hand that is not LOST,
enters STARTING with an empty tally context (R381). In INERT no core runs (R77). -/
def startCore (s : State) (c : Nat) : State :=
  match s.handOf c with
  | none => s
  | some h =>
    let hs := s.handState h
    if s.get .FOL_STATE F.FOL_STATE_STATE ≠ 6 ∧ s.coreState c = 1 ∧ s.dieInService (c / 24) ∧ s.get (.SCK_DIE (c / 24)) F.SCK_DIE_TARGET ≤ 1 ∧ (hs = 1 ∨ hs = 2 ∨ hs = 4) then
      let s := clearContext (s.setCoreState c 2) c
      if s.folio.isLedger h ∧ (s.coresOf h).all (fun x => s.coreState x == 2) then ledgerStarting s h else s
    else s

/-- Every STARTING and RUNNING core of a hand enters STOPPING. -/
def stopHand (s : State) (h : Nat) : State :=
  overAll (s.coresOf h) (fun s c => if s.coreState c = 2 ∨ s.coreState c = 3 then s.enterStopping c else s) s

/-- A ledger hand stops: its pending intakes are aborted, its phase is inactive; `next` is next_open from then on (R256, R258). -/
def stopLedger (s : State) (h next : Nat) : State :=
  let s := (stopHand s h).abortIntakes h
  let s := s.setLedger h { s.ledger h with stop := false, token := 0, next := next }
  s.wr (.CSQ_LDG_PHASE h) 0

/-- STOP of core `c` (R126, R129): one core of an open hand; the whole of a ledger hand, at once before epoch 0 and
otherwise at the end of the phase, and not at all while a core of it is STOPPING (R258). -/
def stopCore (s : State) (c : Nat) : State :=
  if s.coreState c ≠ 2 ∧ s.coreState c ≠ 3 then s
  else
    match s.handOf c with
    | none => s.enterStopping c
    | some h =>
      if ¬ s.folio.isLedger h then s.enterStopping c
      else if (s.coresOf h).any (fun x => s.coreState x == 4) then s
      else if s.get (.CSQ_LDG_PHASE h) F.CSQ_LDG_PHASE_PHASE ≤ 1 then
        stopLedger s h (if s.get (.CSQ_LDG_PHASE h) F.CSQ_LDG_PHASE_PHASE = 1 then 1 else 0)
      else s.setLedger h { s.ledger h with stop := true }

/-- A write to CORE_CTL (R126): from a core of H[0], with one of START and STOP set. -/
def coreCtl (s : State) (who : Agent) (c : Nat) (v : Word) : State :=
  if !s.isHouse who then s
  else
    match v.getLsbD 0, v.getLsbD 1 with
    | true, false => startCore s c
    | false, true => stopCore s c
    | _, _ => s

/-- CORE_CTL_STOP (R126, R129). -/
def execCoreCtlStop (who : Agent) (c : Fin 384) (v : Word) (s : State) : Out := .next (coreCtl s who c v)

/-- The CSRs of a core back at their reset values. -/
def clearCsrs (s : State) (c : Nat) : State :=
  let lo := (Reg.CSR c 0).key
  { s with regs := s.regs.filter (fun e => decide (e.1 < lo) || decide (lo + 0x1000 ≤ e.1)) }

/-- Logical or package time as core `c` reads it (R124, R148). -/
def timeOf (s : State) (c : Nat) : Nat :=
  match s.handOf c with
  | some h =>
    if s.folio.isLedger h then
      match s.folio.ledger? h with
      | some r => (s.rd (.CSQ_LDG_EPOCH h)).toNat * r.q * r.num / max r.den 1
      | none => 0
    else s.mtime
  | none => s.mtime

/-- Whether a timer compare of core `c` has been reached: CORE_MTIMECMP, stimecmp and vstimecmp (R124, R152; Sstc's
enables and htimedelta are PRESUMED). -/
def timerDue (s : State) (c : Nat) : Timer → Bool
  | .machine => decide ((s.rd (.CORE_MTIMECMP c)).toNat ≤ timeOf s c)
  | .supervisor => (s.csr c 0x30A).getLsbD 63 && decide ((s.csr c 0x14D).toNat ≤ timeOf s c)
  | .virtualSupervisor => (s.csr c 0x30A).getLsbD 63 && (s.csr c 0x60A).getLsbD 63 &&
      decide ((s.csr c 0x24D).toNat ≤ (timeOf s c + (s.csr c 0x605).toNat) % 2 ^ 64)

/-- Bit of mip that a timer drives. -/
def timerBit : Timer → Nat
  | .machine => 7
  | .supervisor => 5
  | .virtualSupervisor => 6

/-- The pending bits that the hardware drives: software interrupt, timers and external lines of core `c`. -/
def refreshMip (s : State) (c : Nat) : State :=
  let s := setMip s c 3 (s.bit (.CORE_MSIP c) F.CORE_MSIP_MSIP)
  let s := setMip s c 7 (timerDue s c .machine)
  let s := if (s.csr c 0x30A).getLsbD 63 then setMip s c 5 (timerDue s c .supervisor) else s
  let s := setMip s c 6 (timerDue s c .virtualSupervisor || (s.csr c 0x645).getLsbD 6)
  let lvl := s.get (.TIC_CORE_CFG c) F.TIC_CORE_CFG_LEVEL
  setMip (setMip s c 11 (lvl == 0 && s.line c)) c 9 ((lvl == 1 && s.line c) || (s.core c).seip)

/-- A core in WFI resumes where an enabled interrupt is pending, or the wake signal is up (R382). -/
def resume (s : State) (c : Nat) : State :=
  let k := s.core c
  if k.asleep ∧ (s.wake c ∨ pendingInts s c ≠ []) then
    (s.setCore c { k with asleep := false })
  else s

/-- What a change of a pending bit does to a RUNNING core of an open hand: it resumes from WFI and takes the interrupt where
enabled. A ledger core evaluates interrupts at boundaries only (R251). -/
def notify (s : State) (c : Nat) : State :=
  if s.coreState c ≠ 3 ∨ s.ledgerCore c then s
  else
    let s := resume s c
    if s.runs c then takeInterrupt s c else s

/-- The registers with which a core starts (R125). -/
def beginCore (s : State) (c h : Nat) : State :=
  let s := clearCsrs s c
  let entry := (s.folio.hand? h).elim 0 (·.entry)
  let s := s.setCore c { Core.init with
    pc := BitVec.ofNat 64 entry, x := [(10, BitVec.ofNat 64 c), (11, BitVec.ofNat 64 h)]
    rank := ((s.coresOf h).takeWhile (fun x => x != c)).length }
  refreshMip ((s.setCoreState c 3)) c

/-- CORE_RUN_BEGIN: a STARTING core of an open hand starts at its hand's ENTRY (R125, R127). -/
def execCoreRunBegin (c : Fin 384) (s : State) : Out :=
  match s.handOf c with
  | none => .next s
  | some h =>
    if s.coreState c = 2 ∧ ¬ s.folio.isLedger h ∧ s.dieInService (c.val / 24) then .next (beginCore s c h) else .next s

/-- CORE_STOP_COMPLETE: a STOPPING core drains its store path, cleans and invalidates its L1 and L2, discards its
translations and architectural state, and enters STOPPED (R128); an L2 line waits while the write-back buffer has no room for
what it sends out (R220). What a lost or stopped ledger core still holds is
discarded (R259). -/
def execCoreStopComplete (c : Fin 384) (s : State) : Out :=
  if s.coreState c ≠ 4 then .next s
  else
    let k := s.core c
    let s := if s.ledgerCore c then s.setCore c { k with mb := [], stores := [], lbuf := [], held := [] }
      else drain (s.setCore c { k with waits := k.waits.filter (fun w => w.who == .store) }) c (fun _ => true)
    let k := s.core c
    if k.mb ≠ [] ∨ k.stores ≠ [] then .next s
    else
      let s := wakeFreed s (releaseDefer s c) c
      let s := overAll (s.core c).l2 (fun s l => let t := offer s c l; if wbFits t (c.val / 24) then t else s) s
      if (s.core c).l2 ≠ [] then .next s
      else
      let s := clearCsrs (s.setCore c Core.init) c
      .next ((s.setCoreState c 1))

/-! ### Timers and software interrupts -/

/-- MTIMECMP_EXPIRE: the pending bit of a timer follows its compare (R124, R152); a ledger core takes timer interrupts at
boundaries only (R148, R251). -/
def execMtimecmpExpire (c : Fin 384) (t : Timer) (s : State) : Out :=
  if s.coreState c ≠ 3 ∨ s.ledgerCore c ∨ ¬ timerDue s c t then .next s
  else .next (notify (setMip s c (timerBit t) true) c)

/-- Whether `who` may write CORE_MSIP or CORE_MTIMECMP of core `c` (R152, R250). -/
def coreRegWriter (s : State) (who : Agent) (c : Nat) : Bool :=
  match who with
  | .core w =>
    match s.handOf c with
    | some h => if ledgerLive s h then false else s.isHouse who || (s.handOf w.val == some h && s.folio.ctrlAccess h 11)
    | none => s.isHouse who
  | _ => false

/-- A register of R152 written, and its effect on the core. -/
def setCoreReg (s : State) (r : Reg) (c : Nat) (v : Word) : State :=
  let s := s.wr r (r.written (s.rd r) v)
  if s.coreState c = 3 then notify (if s.ledgerCore c then s else refreshMip s c) c else s

/-- Whether `who` is a RUNNING core of the ledger hand of core `c` with access to its block (R123), whose stores to CORE_MSIP and CORE_MTIMECMP are held
until publication (R249, R250). -/
def holder (s : State) (who : Agent) (c : Nat) : Option Nat :=
  match who with
  | .core w =>
    match s.handOf c with
    | some h => if s.folio.isLedger h ∧ s.handOf w.val = some h ∧ s.folio.ctrlAccess h 11 ∧ s.runs w.val then some w.val else none
    | none => none
  | _ => none

/-- A control-space store held until the publication point (R249): a 17th ends the quantum and is not performed. -/
def holdStore (s : State) (w : Nat) (r : Reg) (v : Word) : Bool × State :=
  let k := s.core w
  if 16 ≤ k.held.length then (false, s.endQuantum w 1)
  else
    let a := r.key
    let e : MbEnt := ⟨a / 64, linePut 0 (a % 64) 8 v.toNat, needMask (a % 64) 8, false, false, false⟩
    (true, s.setCore w { k with held := k.held ++ [e] })

/-- A write to CORE_MSIP or CORE_MTIMECMP of core `c` by `who` (R152, R249, R250). -/
def coreRegWrite (s : State) (who : Agent) (r : Reg) (c : Nat) (v : Word) : State :=
  match holder s who c with
  | some w => (holdStore s w r v).2
  | none => if coreRegWriter s who c then setCoreReg s r c v else s

/-- CORE_MSIP_WRITE (R152, R250). -/
def execCoreMsipWrite (who : Agent) (c : Fin 384) (v : Word) (s : State) : Out :=
  .next (coreRegWrite s who (.CORE_MSIP c) c v)
/-- CORE_MTIMECMP_WRITE (R152, R250). -/
def execCoreMtimecmpWrite (who : Agent) (c : Fin 384) (v : Word) (s : State) : Out :=
  .next (coreRegWrite s who (.CORE_MTIMECMP c) c v)

/-! ### Drains and fences -/

/-- Whether a core has drained its store path. -/
def drained (s : State) (c : Nat) : Bool := (s.core c).mb.isEmpty && (s.core c).stores.isEmpty

/-- Every merging-buffer entry drains, those of waiting stores too where their turn comes. -/
def drainAll (s : State) (c : Nat) : State := drain (drain s c (fun _ => true)) c (fun _ => true)

/-- Whether an IO store of a core is still on its way (R182). -/
def ioOut (s : State) (c : Nat) : Bool := (s.die (c / 24)).partials.any (fun m => m.txn == ioTxn + c)

/-- An instruction that drains the store path first: `act` is performed when it has drained; until then the instruction
stays and its requests are out. -/
def afterDrain (s : State) (c : Nat) (act : State → State) : State :=
  let s := drainAll s c
  if drained s c then act s else s

/-- The instruction ends the quantum of a ledger core and retires (R241); in open mode it only retires. -/
def endAndRetire (s : State) (c code len : Nat) : State := (s.endQuantum c code).retire c len

/-- FENCE (R144, R180, R182). -/
def execFence (c : Fin 384) (pred succ : BitVec 4) (s : State) : Out :=
  let _ := succ
  if !s.ready c then .next s
  else if s.ledgerCore c then .next (endAndRetire (drainAll s c) c 3 4)
  else if pred.getLsbD 2 && ioOut s c then .next s
  else if pred.getLsbD 0 then .next (afterDrain s c (fun s => s.retire c 4))
  else .next (s.retire c 4)

/-- FENCE.I (R144, R180): the L1I follows every later fetch, so nothing else is left to do. -/
def execFenceI (c : Fin 384) (s : State) : Out :=
  if !s.ready c then .next s
  else
    let go (s : State) : State :=
      let k := s.core c
      endAndRetire (s.setCore c { k with l1i := [] }) c 3 4
    if s.ledgerCore c then .next (go (drainAll s c)) else .next (afterDrain s c go)

/-- Who may execute a translation fence: none, or the cause of its trap (PRESUMED: the privileged architecture). `h` is
true for the HFENCE class, `tvm` where mstatus.TVM or hstatus.VTVM traps it. -/
def fenceTrap (s : State) (c : Nat) (h tvm : Bool) : Option Nat :=
  let k := s.core c
  if k.virt then
    if h || k.priv == 0 || (tvm && (s.csr c 0x600).getLsbD 20) then some 22 else none
  else if k.priv = 0 then some 2
  else if k.priv = 1 ∧ tvm ∧ (s.csr c 0x300).getLsbD 20 then some 2
  else none

/-- The encoding of a SYSTEM instruction with function 0, for tval (Sstvala, PRESUMED). -/
def sysWord (fn7 : Nat) (rs1 rs2 : Fin 32) : Word := BitVec.ofNat 64 (fn7 * 2 ^ 25 + rs2.val * 2 ^ 20 + rs1.val * 2 ^ 15 + 0x73)

/-- A fence of R165, of encoding `w`, with its privilege check: the invalidation after the drain where one is asked for, the quantum ended
with END 3 in ledger mode (R166, R174). -/
def fenceInsn (s : State) (c : Nat) (w : Word) (trapTo : Option Nat) (drains : Bool) (act : State → State) : State :=
  if !s.ready c then s
  else
    match trapTo with
    | some n => trap s c n w
    | none =>
      let go (s : State) : State := endAndRetire (act s) c 3 4
      if s.ledgerCore c then go (drainAll s c) else if drains then afterDrain s c go else go s

/-- SFENCE.VMA and SINVAL.VMA: S entries, or VS entries of the current VMID in a virtual mode (R165). -/
def vmaAct (c : Nat) (rs1 rs2 : Fin 32) (s : State) : State :=
  if (s.core c).virt then fenceVma s c 1 (curVmid s c) (fenceOp s c rs1) (fenceAsid s c rs2)
  else fenceVma s c 0 none (fenceOp s c rs1) (fenceAsid s c rs2)

/-- A SINVAL-class instruction is noted until the SFENCE.INVAL.IR that completes it (R167). -/
def noteSinval (s : State) (c : Nat) (b : Bool) : State := s.setCore c { s.core c with sinval := b }

/-- SFENCE.VMA (R165, R166). -/
def execSfenceVma (c : Fin 384) (rs1 rs2 : Fin 32) (s : State) : Out :=
  .next (fenceInsn s c (sysWord 0x09 rs1 rs2) (fenceTrap s c false true) true (vmaAct c rs1 rs2))
/-- SINVAL.VMA (R165, R166). -/
def execSinvalVma (c : Fin 384) (rs1 rs2 : Fin 32) (s : State) : Out :=
  .next (fenceInsn s c (sysWord 0x0B rs1 rs2) (fenceTrap s c false true) false (fun s => noteSinval (vmaAct c rs1 rs2 s) c true))
/-- HFENCE.VVMA and HINVAL.VVMA (R165, R166). -/
def execHfenceVvma (c : Fin 384) (rs1 rs2 : Fin 32) (inval : Bool) (s : State) : Out :=
  .next (fenceInsn s c (sysWord (if inval then 0x13 else 0x11) rs1 rs2) (fenceTrap s c true false) (!inval) (fun s =>
    let t := fenceVma s c 1 (curVmid s c) (fenceOp s c rs1) (fenceAsid s c rs2)
    if inval then noteSinval t c true else t))
/-- HFENCE.GVMA and HINVAL.GVMA: rs1 holds a guest physical address divided by 4, rs2 a VMID (R165, R166). -/
def execHfenceGvma (c : Fin 384) (rs1 rs2 : Fin 32) (inval : Bool) (s : State) : Out :=
  .next (fenceInsn s c (sysWord (if inval then 0x33 else 0x31) rs1 rs2) (fenceTrap s c true true) (!inval) (fun s =>
    let t := fenceGvma s c (fenceVmid s c rs2) ((fenceOp s c rs1).map (fun a => a * 4))
    if inval then noteSinval t c true else t))
/-- SFENCE.W.INVAL (R166). -/
def execSfenceWInval (c : Fin 384) (s : State) : Out :=
  .next (fenceInsn s c (sysWord 0x0C 0 0) (fenceTrap s c false false) true (fun s => s))
/-- SFENCE.INVAL.IR (R167). -/
def execSfenceInvalIr (c : Fin 384) (s : State) : Out :=
  .next (fenceInsn s c (sysWord 0x0C 0 1) (fenceTrap s c false false) false (fun s => noteSinval s c false))

/-! ### Waits and environment calls -/

/-- The trap of WFI in a mode that may not wait, where mstatus.TW or hstatus.VTW says so (PRESUMED). -/
def wfiTrap (s : State) (c : Nat) : Option Nat :=
  let k := s.core c
  if k.priv ≠ 3 ∧ (s.csr c 0x300).getLsbD 21 then some 2
  else if k.virt ∧ (k.priv = 0 ∨ (s.csr c 0x600).getLsbD 21) then some 22
  else none

/-- WFI: the merging buffer drains; the core waits unless a wake signal or an enabled interrupt is there; a ledger core ends
its quantum and retires (R146, R180, R382). -/
def execWfi (c : Fin 384) (s : State) : Out :=
  if !s.ready c then .next s
  else
    match wfiTrap s c with
    | some n => .next (trap s c n (sysWord 0x08 0 5))
    | none =>
      if s.ledgerCore c then .next (endAndRetire (drainAll s c) c 5 4)
      else .next (afterDrain s c (fun s =>
        let s := s.retire c 4
        if s.wake c ∨ pendingInts s c ≠ [] then s
        else (s.setCore c { s.core c with asleep := true })))

/-- WRS.NTO and WRS.STO drain the merging buffer and retire (their wait may end at once, DESIGN CHOICE); a ledger core
ends its quantum (R146, R180). -/
def wrs (s : State) (c : Nat) : State :=
  if !s.ready c then s
  else if s.ledgerCore c then endAndRetire (drainAll s c) c 5 4
  else afterDrain s c (fun s => s.retire c 4)

/-- WRS.NTO (R146, R180). -/
def execWrsNto (c : Fin 384) (s : State) : Out := .next (wrs s c)
/-- WRS.STO (R146, R180). -/
def execWrsSto (c : Fin 384) (s : State) : Out := .next (wrs s c)

/-- Cause of an ECALL by the mode it comes from. -/
def ecallCause (s : State) (c : Nat) : Nat :=
  let k := s.core c
  if k.priv = 3 then 11 else if k.priv = 0 then 8 else if k.virt then 10 else 9

/-- ECALL traps; in ledger mode it ends the quantum with END 4 and its trap is entered at the boundary (R144, R241). -/
def execEcall (c : Fin 384) (s : State) : Out :=
  if !s.ready c then .next s
  else if s.ledgerCore c then .next ((drainAll s c).endQuantum c 4)
  else .next (trap s c (ecallCause s c) 0)

/-! ### Xjledger (R145 to R147) -/

/-- An Xjledger encoding: custom-1, bits 31:25 zero, the function, and whether rs1 is a field (R145). -/
def jlForm (w : BitVec 32) (fn : Nat) (rs1 : Bool) : Bool :=
  let n := w.toNat
  n % 128 == 0x2B && n / 128 % 32 == 0 && n / 4096 % 8 == fn && (rs1 || n / 32768 % 32 == 0) && n / 2 ^ 20 == 0

/-- Epoch of a core's hand. -/
def epochOf (s : State) (c : Nat) : Nat := (s.rd (.CSQ_LDG_EPOCH (handOr0 s c))).toNat

/-- An Xjledger instruction: illegal in open mode or where a field is not as R145 shows it. -/
def jlInsn (s : State) (c : Nat) (w : BitVec 32) (fn : Nat) (rs1 : Bool) (act : State → State) : State :=
  if !s.ready c then s
  else if s.ledgerCore c ∧ jlForm w fn rs1 then act s
  else illegal s c (w.zeroExtend 64)

/-- JL.YIELD (R145). -/
def execJlYield (c : Fin 384) (w : BitVec 32) (s : State) : Out :=
  .next (jlInsn s c w 0 false (fun s => endAndRetire (drainAll s c) c 5 4))

/-- JL.SKIP: with x[rs1] ≤ jepoch it ends the quantum once; otherwise it waits for that epoch and retires then (R146,
R241). -/
def execJlSkip (c : Fin 384) (w : BitVec 32) (s : State) : Out :=
  .next (jlInsn s c w 1 true (fun s =>
    let target := (s.xreg c (w.toNat / 32768 % 32)).toNat
    let s := drainAll s c
    if target ≤ epochOf s c then endAndRetire s c 6 4
    else
      let s := s.setCore c { s.core c with skip := some target }
      (s.endQuantum c 6)))

/-- JL.NEXT removes the head entry of the core's mailbox (R145, R146). -/
def execJlNext (c : Fin 384) (w : BitVec 32) (s : State) : Out :=
  .next (jlInsn s c w 2 false (fun s =>
    let k := s.core c
    (s.setCore c { k with mail := k.mail.drop 1 }).retire c 4))

/-- QUANTUM_END_COUNT: Q instructions of the quantum have retired (R241, END 0); the instructions that the opcode table does
not list are counted by this row. -/
def execQuantumEndCount (c : Fin 384) (s : State) : Out :=
  if s.runs c ∧ s.ledgerCore c then
    let s := s.setCore c { s.core c with count := s.quantumOf c }
    .next (drainAll (s.endQuantum c 0) c)
  else .next s

/-! ### Prefetch and cache-block instructions -/

/-- HW_PREFETCH: the prefetchers translate the address as a load does, with a walk where they enter a new page, and fill L2 and
L3 with its line; they do so while mjctl.PFDIS is clear, and what fails leaves no trace (R149, R157, R158, R162, R185). A page of
PBMT NC or IO is not cached (R156). -/
def execHwPrefetch (c : Fin 384) (va : Word) (s : State) : Out :=
  if !s.runs c ∨ (s.csr c 0x7C0).getLsbD 0 then .next s
  else
    match translate s c va .load with
    | (.ok pa pb, s) =>
      let line := pa / 64
      if pb = 0 ∧ pmpOk s c (accMode s c .load).1 (64 * line) 64 .load ∧ reach s c (64 * line) 64 .load = .dram then
        .next (coreRead s c line 0).2
      else .next s
    | (_, s) => .next s

/-- Enable of the CBO instructions below M-mode in menvcfg, henvcfg and senvcfg (PRESUMED: Zicbom, Zicboz): CBIE, CBCFE or CBZE.
The trap of a mode that may not execute one. -/
def cboTrap (s : State) (c : Nat) (f : Fld) : Option Nat :=
  let k := s.core c
  let off (n : Nat) : Bool := f.get (s.csr c n) == 0
  if k.priv ≠ 3 ∧ off 0x30A then some 2
  else if k.virt ∧ off 0x60A then some 22
  else if k.priv = 0 ∧ off 0x10A then some (if k.virt then 22 else 2)
  else none

/-- The encoding of a CBO instruction: 0 INVAL, 1 CLEAN, 2 FLUSH, 4 ZERO (Zicbom, Zicboz, PRESUMED). -/
def cboWord (fn : Nat) (rs1 : Fin 32) : Word := BitVec.ofNat 64 (fn * 2 ^ 20 + rs1.val * 2 ^ 15 + 2 * 2 ^ 12 + 0x0F)

/-- What an access to one piece of memory finds: its physical address and PBMT; or its trap was taken; or nothing yet, since
a walk waits for its line. -/
inductive Place1
  | at_ (pa pbmt : Nat) (r : Reach)
  | trapped
  | waits
  deriving DecidableEq, Repr

/-- Load causes turned into store/AMO causes. -/
def storeCause (n : Nat) : Nat := if n = 13 then 15 else if n = 5 then 7 else if n = 21 then 23 else n

/-- Translation, PMP, window and ledger checks of one piece of an access, its traps taken (R11, R123, R153, R249). `trs`
translates as a load while faults are those of a store. -/
def locate (s : State) (c : Nat) (va : Word) (n : Nat) (acc : Acc) (k : Kind) (trs : Bool) : Place1 × State :=
  match translate s c va acc with
  | (.ok pa pb, s) =>
    let cause := if trs then storeCause (accessCause acc) else accessCause acc
    if ¬ pmpOk s c (accMode s c acc).1 pa n acc then (.trapped, trap s c cause va)
    else
      match reach s c pa n k with
      | .fault => (.trapped, trap s c cause va)
      | .ledger => (.trapped, ledgerAccess s c va)
      | r => (.at_ pa pb r, s)
  | (.fault m g, s) => (.trapped, trapTr s c va (.fault (if trs then storeCause m else m) g))
  | (.wait _, s) => (.waits, s)
  | (t, s) => (.trapped, trapTr s c va t)

/-- Lines in use in the ledger buffer of a core: the distinct lines stored in the quantum (R242). -/
def ledgerLines (s : State) (c : Nat) : List Nat :=
  let k := s.core c
  ((k.lbuf ++ k.mb ++ k.stores).map (·.line)).eraseDups

/-- Whether stores to some lines fit in the ledger buffer (R242). -/
def ledgerFits (s : State) (c : Nat) (ls : List Nat) : Bool :=
  decide ((ledgerLines s c ++ ls).eraseDups.length ≤ 512)

/-- Store data put into the merging buffer, or waiting for an entry (R179); with twelve entries or more the oldest that
does not drain begins to (R180). In ledger mode ownership of the line is asked for in the background (R245). -/
def putStore (s : State) (c : Nat) (e : MbEnt) : State :=
  let k := s.core c
  let new : Bool := !(k.lbuf ++ k.mb ++ k.stores).any (fun x => x.line == e.line)
  let s :=
    if k.stores ≠ [] then s.setCore c { k with stores := k.stores ++ [e] }
    else
      match bufStore k.mb 16 e with
      | some l => sramWrite (s.setCore c { k with mb := l }) 7 c (e.line * 64)
      | none => s.setCore c { k with stores := [e] }
  let s := if s.ledgerCore c ∧ new then (coreOwn s c e.line (firstChunk e.mask)).2 else s
  drainOldest s c

/-- A store that hits L1D updates the L1D line too (R178). -/
def storeL1 (s : State) (c : Nat) (e : MbEnt) : State :=
  let k := s.core c
  match k.l1d.get? e.line with
  | none => s
  | some d => if s.ledgerCore c ∨ e.nc then s else s.setCore c { k with l1d := k.l1d.set e.line (mergeLine e.mask e.data d) }

/-- An IO store: it bypasses the merging buffer and goes to its home slice as a WR_PARTIAL (R182, R216). -/
def ioStore (s : State) (c : Nat) (e : MbEnt) : State :=
  let d := c / 24
  let k := s.die d
  let m : Msg := { dieMsg d .wrPartial (handOr0 s c) e.line (c % 24) with data := e.data, mask := e.mask, txn := ioTxn + c }
  (s.setDie d { k with partials := k.partials ++ [m] }).send d (c % 24) m

/-- The store parts of a value: an entry for each line, with its PBMT; `done` bytes went before. -/
def storeParts (v : Nat) : List ((Nat × Nat × Nat) × Nat) → Nat → List (MbEnt × Nat)
  | [], _ => []
  | ((line, off, n), pb) :: t, done =>
    (⟨line, linePut 0 off n (v / 2 ^ (8 * done)), needMask off n, pb == 1, false, false⟩, pb) :: storeParts v t (done + n)

/-- One part of a store to DRAM performed. In ledger mode a PBMT has no say (R243). -/
def storePart (c : Nat) (s : State) (p : MbEnt × Nat) : State :=
  if s.ledgerCore c then putStore s c { p.1 with nc := false }
  else if p.2 = 2 then ioStore s c p.1
  else putStore (storeL1 s c p.1) c p.1

/-- Whether an IO part must wait: a WR_PARTIAL of its line is out (R216), or a write-back of it is (R220). -/
def partBusy (s : State) (c : Nat) (p : MbEnt × Nat) : Bool :=
  !s.ledgerCore c && p.2 == 2 &&
    ((s.die (c / 24)).partials.any (fun m => m.line == p.1.line) || wbHolds s (c / 24) p.1.line)

/-- The parts of a store performed: none where a WR_PARTIAL or write-back of a line is out or, in ledger mode, where a new line does not fit
and the quantum ends with END 1 (R216, R242). The answer says whether it was performed. -/
def doStore (s : State) (c : Nat) (ps : List (MbEnt × Nat)) : Bool × State :=
  if ps.any (partBusy s c) then (false, s)
  else if s.ledgerCore c ∧ ¬ ledgerFits s c (ps.map (·.1.line)) then (false, drainAll (s.endQuantum c 1) c)
  else (true, ps.foldl (storePart c) s)

/-- CBO.ZERO: its line in M and zero, POISON clear (R212, R444); in ledger mode, and on NC or IO pages, 64 zero bytes are
stored (R182, R242). -/
def execCboZero (c : Fin 384) (rs1 : Fin 32) (s : State) : Out :=
  if !s.ready c then .next s
  else
    match cboTrap s c ⟨7, 7⟩ with
    | some n => .next (trap s c n (cboWord 4 rs1))
    | none =>
      let va := maskVa s c .store (s.xreg c rs1) &&& ~~~ (63 : Word)
      match locate s c va 64 .store .store false with
      | (.trapped, s) => .next s
      | (.waits, s) => .next s
      | (.at_ pa pb r, s) =>
        let line := pa / 64
        if r = .control then .next (if s.ledgerCore c then ledgerAccess s c va else trap s c 7 va)
        else if s.ledgerCore c ∨ pb ≠ 0 then
          match doStore s c [(⟨line, 0, BitVec.allOnes 64, pb == 1, false, false⟩, pb)] with
          | (true, s) => .next (s.retire c 4)
          | (false, s) => .next s
        else
          let s := drain s c (fun x => x.line == line)
          if (s.core c).mb.any (fun x => x.line == line) then .next s
          else
            match claimLine s c line with
            | (true, s) => .next (doZero s c line)
            | (false, s) => .next (addWait s c line .zero)

/-- CBO.CLEAN, CBO.FLUSH and CBO.INVAL, by function `fn`: the request goes to the home once the line's merging-buffer entry has
drained, and the instruction waits for CMP (R212). In ledger mode they have no effect (R249). -/
def cboInsn (s : State) (c : Nat) (rs1 : Fin 32) (fn : Nat) (op : Opc) : State :=
  if !s.ready c then s
  else
    match cboTrap s c (if fn = 0 then ⟨5, 4⟩ else ⟨6, 6⟩) with
    | some n => trap s c n (cboWord fn rs1)
    | none =>
      if s.ledgerCore c then s.retire c 4
      else
        let va := maskVa s c .load (s.xreg c rs1) &&& ~~~ (63 : Word)
        match locate s c va 64 .load .load true with
        | (.trapped, s) => s
        | (.waits, s) => s
        | (.at_ pa _ r, s) =>
          let line := pa / 64
          if r = .control then trap s c 7 va
          else
            let s := drain s c (fun x => x.line == line)
            if (s.core c).mb.any (fun x => x.line == line) ∨ wbHolds s (c / 24) line then s
            else
              let d := c / 24
              let m : Msg := { dieMsg d op (handOr0 s c) line (c % 24) with txn := c }
              let k := s.die d
              addWait ((s.setDie d { k with ops := k.ops ++ [m] }).send d (c % 24) m) c line .cbo

/-- CBO.CLEAN (R212, R249). -/
def execCboCleanInsn (c : Fin 384) (rs1 : Fin 32) (s : State) : Out := .next (cboInsn s c rs1 1 .cboClean)
/-- CBO.FLUSH and CBO.INVAL, which is performed as a flush (R212, R249). -/
def execCboFlushInsn (c : Fin 384) (o : FlushOp) (s : State) : Out :=
  .next (cboInsn s c o.rs1 (if o.inval then 0 else 2) .cboFlush)

end Sys2Proof.Machine
end

