-- ==== Sys2Proof/Machine/Engine.lean ====
section
/-! DEFINITION. What host ports, the call-slip engine and the Archivist share: functions and their configuration bits, class
D transfers and their order (R97, R328), DMA reads and their tags (R327), outgoing TLPs (R326), interrupts of functions
(R324), error bits of functions (R340, R341). -/

namespace Sys2Proof.Machine

/-! ### Functions (R318 to R320) -/

/-- Port of a function. -/
def fnPort (s : State) : FnId → Nat
  | .vf v => (s.folio.vf? v).elim 0 (·.port)
  | .pf p => p.val

/-- Port of a function as an index. -/
def fnPort8 (s : State) (f : FnId) : Fin 8 := Fin.ofNat 8 (fnPort s f)

/-- Serving hand of a function: H[0] for a PF, otherwise the hand of its PORTS record (R318). -/
def fnHand (s : State) : FnId → Nat
  | .vf v => (s.folio.vf? v).elim 0 (·.hand)
  | .pf _ => 0

/-- Queue pairs of a function (R342). -/
def fnQueues (s : State) : FnId → Nat
  | .vf v => (s.folio.vf? v).elim 0 (·.qpairs)
  | .pf p => if s.folio.portEnabled p then 16 else 0

/-- The VFs of a port in ascending pool index: number v is the v-th (R318). -/
def portVfs (s : State) (p : Nat) : List Nat :=
  (List.range 4096).filter (fun v => match s.folio.vf? v with | some r => r.port == p | none => false)

/-- VF number of a function, 0 for a PF. -/
def fnNum (s : State) : FnId → Nat
  | .vf v => (portVfs s (fnPort s (.vf v))).findIdx (fun x => x == v.val) + 1
  | .pf _ => 0

/-- Every function of a port, the PF first. -/
def portFns (s : State) (p : Fin 8) : List FnId := .pf p :: (portVfs s p).map (fun v => .vf (Fin.ofNat 4096 v))

/-- Reset value of a configuration dword that software may write (PRESUMED: the PCI Express base specification and SR-IOV): Device
Control's Max Read Request Size of 512 bytes, Target Link Speed, AER masks and severity, System Page Size. -/
def cfgReset (off : Nat) : Word :=
  match off with
  | 0x78 => 0x2000
  | 0xA0 => 6
  | 0x108 => 0x400000
  | 0x10C => 0x462030
  | 0x114 => 0xE000
  | 0x178 => 1
  | _ => 0

/-- A configuration dword as last written. -/
def cfg (s : State) (f : FnId) (off : Nat) : Word := (s.fn f).cfg.getD off (cfgReset off)

/-- A configuration dword stored. -/
def setCfg (s : State) (f : FnId) (off : Nat) (w : Word) : State :=
  let x := s.fn f
  s.setFn f { x with cfg := x.cfg.set off w }

/-- Bus Master Enable and Interrupt Disable of a function's Command register. -/
def bme (s : State) (f : FnId) : Bool := (cfg s f 0x04).getLsbD 2
def intDisable (s : State) (f : FnId) : Bool := (cfg s f 0x04).getLsbD 10

/-- Whether a function is in D3hot: PowerState of a PF's Power Management capability; a VF has none, and D3HOT_TO_D0 and
D0_TO_D3HOT keep its state in bit 0 of the same offset (DESIGN CHOICE). -/
def inD3 (s : State) (f : FnId) : Bool := Fld.get ⟨1, 0⟩ (cfg s f 0x44) == 3

/-- VF Enable and NumVFs of a port's SR-IOV capability. -/
def vfEnable (s : State) (p : Fin 8) : Bool := (cfg s (.pf p) 0x160).getLsbD 0
def numVfs (s : State) (p : Fin 8) : Nat := Fld.get ⟨15, 0⟩ (cfg s (.pf p) 0x168)

/-- Whether a function exists for the host (R318). -/
def fnExists (s : State) (f : FnId) : Bool :=
  s.folio.portEnabled (fnPort s f) &&
  match f with
  | .pf _ => true
  | .vf v => (s.folio.vf? v).isSome && vfEnable s (fnPort8 s f) && decide (fnNum s f ≤ numVfs s (fnPort8 s f))

/-- Whether a function may issue requests: D0, Bus Master Enable, no reset under way (R335 to R337). -/
def fnMayIssue (s : State) (f : FnId) : Bool := bme s f && !inD3 s f && !(s.fn f).flr

/-- Whether a port's link is up. -/
def linkIsUp (s : State) (p : Nat) : Bool := s.get (.HP_LINK p) F.HP_LINK_STATE == 3

/-- Whether a port can send a request now: its link is up and not in L1 (R326, R339). -/
def portReady (s : State) (p : Nat) : Bool := linkIsUp s p && !(s.port p).l1

/-- Max Read Request Size and Max Payload Size in bytes; the payload is at most 512 (R320, R328). -/
def maxRead (s : State) (f : FnId) : Nat := 128 * 2 ^ min 5 (Fld.get ⟨14, 12⟩ (cfg s f 0x78))
def maxPayload (s : State) (f : FnId) : Nat := min 512 (128 * 2 ^ Fld.get ⟨7, 5⟩ (cfg s f 0x78))

/-! ### Errors of functions and ports (R340, R341) -/

/-- The bit of the AER Uncorrectable Error Status register for a bit of HP_FN_ERR (PRESUMED: the PCI Express base
specification): Unsupported Request, Completer Abort, Poisoned TLP, Completion Timeout, Unexpected Completion. -/
def aerBit : Nat → Option Nat
  | 0 => some 20
  | 1 => some 15
  | 2 => some 12
  | 3 => some 14
  | 4 => some 16
  | _ => none

/-- A TLP leaves a port, and is counted. -/
def outTlp (p : Nat) (s : State) (o : Outward) : State := (s.countBlk (48 + p) 0x0402 1).emit o

/-- A TLP leaves a port, or waits for the exit from L1 or Recovery; none leaves a link that is down (R326, R338, R339). -/
def sendTlp (s : State) (p : Nat) (o : Outward) : State :=
  let x := s.port p
  let st := s.get (.HP_LINK p) F.HP_LINK_STATE
  if st ≠ 3 ∧ st ≠ 4 then s
  else if x.l1 ∨ st = 4 then s.setPort p { x with txq := x.txq ++ [o] } else outTlp p s o

/-- How an error is reported: correctable, non-fatal, fatal; an advisory non-fatal error is reported as a correctable one. -/
inductive ErrKind | correctable | advisory | nonFatal | fatal
  deriving DecidableEq, Repr

/-- Bits of a configuration dword set. -/
def orCfg (s : State) (f : FnId) (off : Nat) (m : Word) : State := setCfg s f off (cfg s f off ||| m)

/-- Bit `k` of an error logged in a function's AER and Device Status, and its message sent where masks and enables of the PF let it
(R340; PRESUMED: the PCI Express base specification, role-based error reporting). A severity bit that software changed decides
between non-fatal and fatal. The answer's flag says whether the error was fatal. -/
def aerLog (s : State) (f : FnId) (kind : ErrKind) (k : Nat) : Bool × State :=
  let p := fnPort8 s f
  let pf := FnId.pf p
  let on (b serr : Nat) : Bool := (cfg s pf 0x78).getLsbD b || (cfg s pf 0x04).getLsbD serr
  let bit (n : Nat) : Word := BitVec.ofNat 64 (2 ^ n)
  let say (s : State) (masked enabled : Bool) (sev : Nat) : State :=
    if !masked && enabled then sendTlp s p.val (.error p (fnNum s f) sev) else s
  if kind = .correctable then
    let s := orCfg (orCfg s f 0x110 (bit k)) f 0x78 0x10000
    (false, say s ((cfg s pf 0x114).getLsbD k) ((cfg s pf 0x78).getLsbD 0) 0)
  else
    let fatal := (cfg s pf 0x10C).getLsbD k
    let masked := (cfg s pf 0x108).getLsbD k
    let s := orCfg s f 0x104 (bit k)
    if fatal then (true, say (orCfg s f 0x78 0x40000) masked (on 2 8) 2)
    else if kind = .advisory then
      let s := orCfg (orCfg s f 0x110 0x2000) f 0x78 0x10000
      (false, say s (masked || (cfg s pf 0x114).getLsbD 13) ((cfg s pf 0x78).getLsbD 0) 0)
    else (false, say (orCfg s f 0x78 0x20000) masked (on 1 8) 1)

/-- A bit of HP_FN_ERR set, with its AER bit and its fault class (R340, R434): Unsupported Request, Completer Abort and a poisoned TLP
are advisory. -/
def fnErr (s : State) (f : FnId) (b : Nat) : State :=
  let s := match aerBit b with
    | some k =>
      let s := if b = 0 then orCfg s f 0x78 0x80000 else s
      (aerLog s f (if b < 3 then .advisory else .nonFatal) k).2
    | none => s
  s.raise (.HP_FN_ERR f.key) b 18 f.unit (some (fnHand s f)) 1 0

/-- A bit of HP_ERR set, with its fault class (R434). -/
def portErr (s : State) (p b sev : Nat) : State :=
  let cls := if b = 3 then 16 else if b = 0 ∨ b = 5 then 17 else 15
  s.raise (.HP_ERR p) b cls (0x2400 + p) none sev 0

/-- The AER bit of a fatal error of the link (PRESUMED: the PCI Express base specification). -/
def linkErrorBit : LinkError → Nat
  | .dataLink => 4
  | .flowControl => 13
  | .overflow => 17
  | .malformed => 18

/-- An error of the link that is fatal by default: logged in the PF and, where it is fatal, in HP_ERR (R340). -/
def linkFatal (s : State) (p : Fin 8) (e : LinkError) : State :=
  let r := aerLog s (.pf p) .nonFatal (linkErrorBit e)
  if r.1 then portErr r.2 p 3 1 else r.2

/-- A replay or receiver error of the link: correctable, Bad TLP in the PF (R340). -/
def linkCorrected (s : State) (p : Fin 8) : State := portErr (aerLog s (.pf p) .correctable 6).2 p 2 0

/-! ### Interrupts (R324, R326) -/

/-- MSI-X Enable and Function Mask of a function. -/
def msixOn (s : State) (f : FnId) : Bool := (cfg s f 0x50).getLsbD 31
def msixMasked (s : State) (f : FnId) : Bool := (cfg s f 0x50).getLsbD 30

/-- Whether a vector is masked by itself; a vector is masked after reset. -/
def vecMasked (s : State) (f : FnId) (v : Nat) : Bool := ((s.fn f).msix.getD (4 * v + 3) 1).getLsbD 0

/-- Whether INTA is asserted (R324). -/
def intx (s : State) (p : Fin 8) : Bool := !msixOn s (.pf p) && !intDisable s (.pf p) && (s.fn (.pf p)).pba != 0

/-- INTA follows its condition after a change. -/
def withIntx (s : State) (p : Fin 8) (act : State → State) : State :=
  let t := act s
  if intx t p = intx s p then t else sendTlp t p (.intx p (intx t p))

/-- A vector's condition arises: the interrupt leaves where the vector is enabled and unmasked and the port can send, otherwise it is
pending. -/
def signal (s : State) (f : FnId) (v : Nat) : State :=
  let p := fnPort8 s f
  if msixOn s f ∧ ¬ msixMasked s f ∧ ¬ vecMasked s f v ∧ fnMayIssue s f ∧ portReady s p then sendTlp s p (.msix p f v)
  else withIntx s p (fun s => let x := s.fn f; s.setFn f { x with pba := x.pba ||| 2 ^ v })

/-- A pending vector leaves once it is enabled and unmasked. -/
def sendPending (s : State) (f : FnId) : State :=
  let p := fnPort8 s f
  if msixOn s f ∧ ¬ msixMasked s f ∧ fnMayIssue s f ∧ portReady s p then
    overAll ((List.range (fnQueues s f + 1)).filter (fun v => (s.fn f).pba.testBit v && !vecMasked s f v)) (fun s v =>
      let x := s.fn f
      sendTlp (s.setFn f { x with pba := x.pba ^^^ 2 ^ v }) p (.msix p f v)) s
  else s

/-- A vector's condition ends without its interrupt: the queue's entries are consumed. -/
def unsignal (s : State) (f : FnId) (v : Nat) : State :=
  withIntx s (fnPort8 s f) (fun s =>
    let x := s.fn f
    if x.pba.testBit v then s.setFn f { x with pba := x.pba ^^^ 2 ^ v } else s)

/-- The error vector of a function (R324). -/
def signalError (s : State) (f : FnId) : State := signal s f (fnQueues s f)

/-! ### Tags (R64, R327) -/

/-- Tag quota of a function. -/
def quota (s : State) : FnId → Nat
  | .vf v => (s.folio.vf? v).elim 0 (·.tags)
  | .pf p => (s.folio.port? p).elim 0 (·.pfTags)

/-- Tags that a function holds. -/
def tagsOf (s : State) (f : FnId) : Nat :=
  ((s.port (fnPort s f)).reads.filter (fun r => r.fn == f)).length

/-- Tags of a port's remainder: claimed by no quota. -/
def remainder (s : State) (p : Fin 8) : Nat := 1024 - ((portFns s p).map (quota s)).sum

/-- Free tags of the remainder. -/
def remainderFree (s : State) (p : Fin 8) : Nat :=
  remainder s p - ((portFns s p).map (fun f => tagsOf s f - quota s f)).sum

/-- A free tag for a function: its quota first, then the remainder. -/
def freeTag (s : State) (f : FnId) : Option Nat :=
  let p := fnPort8 s f
  let x := s.port p
  if tagsOf s f < quota s f ∨ 0 < remainderFree s p then
    (List.range 1024).find? (fun t => !x.reads.any (fun r => r.tag == t))
  else none

/-- One DMA read of at most `len` bytes at a host address: at most the Max Read Request Size, and within 4 KiB (R328).
The answer is the number of bytes asked for; 0 where no tag is free or the function may not issue. -/
def issueRead1 (s : State) (f : FnId) (addr len : Nat) (use : ReadFor) : Nat × State :=
  let p := fnPort8 s f
  let n := min len (min (maxRead s f) (4096 - addr % 4096))
  if ¬ fnMayIssue s f ∨ ¬ portReady s p ∨ n = 0 then (0, s)
  else
    match freeTag s f with
    | none => (0, s)
    | some t =>
      let x := s.port p
      let s := s.setPort p { x with
        reads := x.reads ++ [⟨t, f, addr, n, [], use, s.mtime⟩], timedOut := x.timedOut.filter (fun r => r.1 != t) }
      (n, sendTlp s p (.read p f t addr n))

/-- Reads from an offset on until the range is asked for or no tag is free; `mk` names the use of each. -/
def issueReads (f : FnId) (base len : Nat) (mk : Nat → ReadFor) : Nat → State → Nat → Nat × State
  | 0, s, off => (off, s)
  | n + 1, s, off =>
    match issueRead1 s f (base + off) (len - off) (mk off) with
    | (0, s) => (off, s)
    | (k, s) => issueReads f base len mk n s (off + k)

/-! ### Class D transfers (R97, R328) -/

/-- Kinds of work that a class D message belongs to, in `txn`: kind + 8 × the number of the work. -/
def txnOf (kind id : Nat) : Nat := kind + 8 * id
def txnKind (m : Msg) : Nat := m.txn % 8
def txnId (m : Msg) : Nat := m.txn / 8

/-- The requester number of an engine at the home slices (R96). -/
def engineSrc (q : Nat) : Src :=
  if q < 24 then .hp (Fin.ofNat 8 (q - 16)) else if q = 24 then .csq else .arc false

/-- A class D message. -/
def engMsg (q : Nat) (op : Opc) (hand line txn : Nat) : Msg :=
  { msg0 op hand line with agent := q, src := engineSrc q, txn := txn }

/-- Whether an engine has a transfer in flight at a slice (R97). -/
def inFlight (s : State) (q n : Nat) : Bool :=
  let x := s.point (0x20 + n)
  x.ready.any (fun r => r.q == q) || (x.staging.get? q).isSome

/-- The first waiting transfer of each slice starts where the engine has none in flight there. -/
def pumpEngine (s : State) (q : Nat) : State :=
  overAll (List.range 16) (fun s n =>
    let l := s.outbox.getD q []
    let i := l.findIdx (fun e => e.1 == n)
    match l[i]? with
    | none => s
    | some e =>
      if inFlight s q n then s
      else
        let s := { s with outbox := s.outbox.set q (dropAt l i) }
        overAll e.2 (fun s m => s.send (0x20 + n) q m) s) s

/-- Transfers put behind those that wait, at most 64 lines each, by home slice in ascending line order (R328). -/
def putTransfers (s : State) (q : Nat) (ms : List Msg) : State :=
  let groups := (List.range 16).flatMap (fun n =>
    let l := ms.filter (fun m => sliceOf s m.line == n)
    (List.range ((l.length + 63) / 64)).map (fun i => (n, (l.drop (64 * i)).take 64)))
  pumpEngine { s with outbox := s.outbox.set q (s.outbox.getD q [] ++ groups) } q

/-- Transfers of some work that have not entered their slices are discarded (R97, R330). Their lines have all been staged by the
engine; where a rule lets whole transfers drain (R335, R336, R338) they are left alone. -/
def dropTransfers (s : State) (q : Nat) (sel : Msg → Bool) : State :=
  let s := { s with outbox := s.outbox.set q ((s.outbox.getD q []).filter (fun e => !e.2.any sel)) }
  overAll (List.range 16) (fun s n =>
    let p := 0x20 + n
    let x := s.point p
    let st := (x.staging.getD q []).filter (fun m => !sel m)
    s.setPoint p { x with
      ready := x.ready.filter (fun r => !(r.q == q && sel r.msg))
      staging := if st.isEmpty then x.staging.erase q else x.staging.set q st }) s

/-- Messages of some work that wait or are in flight. -/
def outMsgs (s : State) (q : Nat) (sel : Msg → Bool) : List Msg :=
  ((s.outbox.getD q []).flatMap (·.2)).filter sel ++
  (List.range 16).flatMap (fun n =>
    let x := s.point (0x20 + n)
    ((x.ready.filter (fun r => r.q == q)).map (·.msg) ++ x.staging.getD q []).filter sel)

/-! ### Bytes and lines -/

/-- Bytes of a line from an offset on. -/
def bytesOf (l : LineData) (off n : Nat) : List Byte := (List.range n).map (fun i => lineByte l (off + i))

/-- Bytes placed in a line from an offset on, and their mask. -/
def lineFrom (off : Nat) (bs : List Byte) : LineData × Word :=
  ((bs.zip (List.range bs.length)).foldl (fun (l : LineData) (e : Byte × Nat) =>
    let v : LineData := e.1.setWidth 512
    l ||| v <<< (8 * (off + e.2))) 0,
   needMask off bs.length)

/-- A byte range cut into lines: line number, offset in the line, length. -/
def lineParts (addr len : Nat) : List (Nat × Nat × Nat) :=
  if len = 0 then []
  else
    (List.range ((addr + len - 1) / 64 - addr / 64 + 1)).map (fun i =>
      let l := addr / 64 + i
      let lo := max addr (64 * l)
      let hi := min (addr + len) (64 * l + 64)
      (l, lo - 64 * l, hi - lo))

/-- A little-endian number as bytes. -/
def leBytes (n v : Nat) : List Byte := (List.range n).map (fun i => BitVec.ofNat 8 (v / 256 ^ i))

/-- Bytes as a little-endian number. -/
def ofBytes (bs : List Byte) : Nat := bs.foldr (fun b n => b.toNat + 256 * n) 0

/-- A line message that writes: WR_FULL for a whole line, WR_PARTIAL otherwise (R353). -/
def wrMsg (q hand line txn : Nat) (data : LineData) (mask : Word) (poison : Bool) : Msg :=
  let full := mask == BitVec.allOnes 64
  { engMsg q (if full then .wrFull else .wrPartial) hand line txn with data := data, mask := mask, poison := poison }

/-- The messages that write bytes at an address. -/
def wrBytes (q hand txn addr : Nat) (bs : List Byte) : List Msg :=
  (lineParts addr bs.length).map (fun e =>
    let off := 64 * e.1 + e.2.1 - addr
    let d := lineFrom e.2.1 ((bs.drop off).take e.2.2)
    wrMsg q hand e.1 txn d.1 d.2 false)

/-- The bytes of a line from an offset on that byte enables select, as a mask. -/
def enabledMask (off : Nat) (en : List Bool) : Word :=
  en.zipIdx.foldl (fun (m : Word) e => if e.1 then m ||| BitVec.ofNat 64 (2 ^ (off + e.2)) else m) 0

/-- The messages that write the enabled bytes at an address; a line of which no byte is enabled is not written (R322, R333). -/
def wrEnabled (q hand txn addr : Nat) (bs : List Byte) (en : List Bool) : List Msg :=
  if en.isEmpty then wrBytes q hand txn addr bs
  else
    (lineParts addr bs.length).filterMap (fun e =>
      let off := 64 * e.1 + e.2.1 - addr
      let d := lineFrom e.2.1 ((bs.drop off).take e.2.2)
      let m := d.2 &&& enabledMask e.2.1 ((en.drop off).take e.2.2)
      if m = 0 then none else some (wrMsg q hand e.1 txn d.1 m false))

/-- Whether a byte range lies wholly in windows that a hand may reach, in installed DRAM (R332, R350). -/
def inWindows (s : State) (h addr len : Nat) : Bool :=
  decide (addr + len ≤ installed s) &&
  (lineParts addr len).all (fun e => match windowAt s (64 * e.1) with | some w => w.mask.testBit h | none => false)

end Sys2Proof.Machine
end

