-- ==== Sys2Proof/Machine/Bounds.lean ====
section
/-! DEFINITION. The bounds that QUERY_BOUND evaluates (R293 to R314, R364). Times are whole numbers of `tick`, 1/48,048,000
ns, which divides a trick of either data rate, a clock of either data rate and a cycle of every operating point exactly;
the result is rounded up to a whole ns (R313). A time that does not exist is none. -/

namespace Sys2Proof.Machine.Bounds

/-- Ticks of one ns. -/
def tick : Nat := 48048000

/-- The sum of bounds: none where one does not exist. -/
def add (l : List (Option Nat)) : Option Nat := l.foldl (fun a b => a.bind (fun x => b.map (x + ·))) (some 0)

/-- The largest of some bounds. -/
def top (l : List (Option Nat)) : Option Nat := l.foldl (fun a b => a.bind (fun x => b.map (max x))) (some 0)

/-- The folios in force: the amended one too while an addendum is PENDING (R84, R313). -/
def folios (s : State) : List Folio :=
  match s.arc.addFolio with
  | some g => if s.get .FOL_ADD_STATE F.FOL_ADD_STATE_STATE = 3 then [s.folio, g] else [s.folio]
  | none => [s.folio]

/-- G of hand `h` in a deal: one plus the longest cyclic run of tricks not dealt to it (R293). -/
def gapOf (deal : List Nat) (h : Nat) : Option Nat :=
  if !deal.contains h then none
  else
    let r := (deal ++ deal).foldl (fun (r : Nat × Nat) t => if t = h then (0, r.2) else (r.1 + 1, max r.2 (r.1 + 1))) (0, 0)
    some (r.2 + 1)

/-- G of hand `h` at a point, the larger over the folios in force (R84). -/
def gap (s : State) (p h : Nat) : Option Nat := top ((folios s).map (fun f => gapOf (dealOf f p).1 h))

/-- Whether a channel runs at 5600 MT/s: it holds two DIMMs. -/
def slow (s : State) (n : Nat) : Bool := s.bit (.MC_DIMM n 1) F.MC_DIMM_PRESENT

/-- Duration of a trick of a point (R94). -/
def trick (s : State) (p : Nat) : Nat :=
  if p < 0x30 then tick / 2 else if slow s (p - 0x30) then tick * 20 / 7 else tick * 5 / 2

/-- W of hand `h` at a point (R293). -/
def wait (s : State) (p h : Nat) : Option Nat := (gap s p h).map (· * trick s p)

/-- Hands that hold tricks at a point under some folio in force (R84). -/
def dealt (s : State) (p : Nat) : List Nat :=
  (List.range 64).filter (fun h => (folios s).any (fun f => (f.hand? h).isSome && (dealOf f p).1.contains h))

/-- The larger of the G that a hand has at a point under the folios in force; a deal that leaves it out gives none (R84, R295). -/
def widest (s : State) (p h : Nat) : Nat := ((folios s).filterMap (fun f => gapOf (dealOf f p).1 h)).foldl max 0

/-- Largest W over the hands that hold tricks at some points (R295). -/
def waitMax (s : State) (ps : List Nat) : Option Nat :=
  some ((ps.flatMap (fun p => (dealt s p).map (fun h => widest s p h * trick s p))).foldl max 0)

/-- Points of the home slices and of the enabled channels. -/
def slices : List Nat := (List.range 16).map (0x20 + ·)
def channels (s : State) : List Nat := ((List.range 16).filter s.folio.chanEnabled).map (0x30 + ·)
/-- Enabled compute dies. -/
def dies (s : State) : List Nat := (List.range 16).filter s.folio.dieEnabled

/-- Dies on which a hand has cores in the folio. -/
def diesOf (s : State) (h : Nat) : List Nat :=
  match s.folio.hand? h with
  | some r => (List.range 16).filter (fun d => r.cores / 2 ^ (24 * d) % 2 ^ 24 != 0)
  | none => []

/-- Whether the folio is fully dealt (R296). -/
def fullyDealt (s : State) : Bool :=
  s.folio.hands.all (fun r =>
    (slices ++ channels s ++ (diesOf s r.hand).flatMap (fun d => [d, 0x10 + d])).all (fun p =>
      (dealOf s.folio p).1.contains r.hand))

/-- Ticks of `n` core cycles at an operating point (R131). -/
def cycles (n op : Nat) : Nat :=
  n * (match op with | 0 => tick * 5 / 8 | 1 => tick * 5 / 11 | 2 => tick * 5 / 13 | _ => tick / 3)

/-! ### Terms of a channel (R298, R304, R305) -/

/-- Clocks of half the data rate of a channel. -/
def clocks (s : State) (n k : Nat) : Nat := k * (if slow s n then tick * 5 / 14 else tick * 5 / 16)

/-- Largest of a figure over the enabled channels. -/
def overChans (s : State) (f : Nat → Nat) : Nat := ((channels s).map (fun p => f (p - 0x30))).foldl max 0

/-- t_dram (R298). -/
def tDram (s : State) : Nat :=
  overChans s (fun n => clocks s n (s.get (.MC_TIMING n) F.MC_TIMING_TRP + s.get (.MC_TIMING n) F.MC_TIMING_TRCD
    + s.get (.MC_TIMING n) F.MC_TIMING_CL + 4))

/-- tRC (R304). -/
def tRc (s : State) : Nat :=
  overChans s (fun n => (s.chan n).tras * (tick / 1000) + clocks s n (s.get (.MC_TIMING n) F.MC_TIMING_TRP))

/-- Cost of one bank claim: tRC + tRFCsb + G_mc,max × t_trick (R304). -/
def claimCost (s : State) : Option Nat :=
  add [some (tRc s), some (overChans s (fun n => s.get (.MC_TIMING n) F.MC_TIMING_TRFCSB * tick)), waitMax s (channels s)]

/-- B_mc (R304). -/
def bMc (s : State) : Option Nat :=
  let n := ((channels s).map (fun p => (dealt s p).length)).foldl max 0
  (claimCost s).map (n * ·)

/-- Whether the validity condition of R304 holds. -/
def claimValid (s : State) : Bool :=
  (channels s).all (fun p => match claimCost s with
    | some c => decide (2 * c < s.get (.MC_TIMING (p - 0x30)) F.MC_TIMING_TREFI * tick)
    | none => true)

/-- W_home and W_mc of a hand (R295). -/
def wHome (s : State) (h : Nat) : Option Nat := top (slices.map (fun p => wait s p h))
def wMc (s : State) (h : Nat) : Option Nat := top ((channels s).map (fun p => wait s p h))

/-! ### Snoops and transactions (R301, R302, R306) -/

/-- Hands that can reach a window. -/
def handsIn (s : State) (w : WinRec) : List Nat := (s.folio.hands.map (·.hand)).filter (fun h => w.mask.testBit h)

/-- Lowest operating point a die can run at: its folio point where it is pinned (R131, R301). -/
def lowOp (s : State) (d : Nat) : Nat := if pinnedDie s.folio d then opOfDie s.folio d else 0

/-- T_snp of a hand for lines of a window held by die `o` (R301), its core cycles at the folio operating point (R295). -/
def tSnp (s : State) (h o : Nat) (w : WinRec) : Option Nat :=
  let hs := handsIn s w
  let open_ := hs.any (fun x => !s.folio.isLedger x && diesOf s x != [])
  let w := ((hs.filter (fun x => (dealt s (0x10 + o)).contains x)).map (fun x => widest s (0x10 + o) x * trick s (0x10 + o))).foldl max 0
  let fw := some (w + 11 * tick)
  add [wait s (0x10 + o) h, some (6 * tick), some (24 * tick),
    some (if open_ then cycles 128 (opOfDie s.folio o) else 0), fw, wait s o h, some (6 * tick)]

/-- T_snp,max (R301). -/
def tSnpMax (s : State) : Option Nat :=
  let dn := waitMax s ((dies s).map (0x10 + ·))
  let up := waitMax s (dies s)
  let open_ := s.folio.hands.any (fun r => r.mode == 1 && diesOf s r.hand != [])
  let defer_ := if open_ then ((dies s).map (fun d => cycles 128 (lowOp s d))).foldl max 0 else 0
  add [dn, some (6 * tick), some (24 * tick), some defer_, dn, some (11 * tick), up, some (6 * tick)]

/-- T_open (R302). -/
def tOpen (s : State) : Option Nat :=
  let w := waitMax s (channels s)
  add [some (7 * tick), tSnpMax s, w, bMc s, w, some (tRc s), some (12 * tick), some (tDram s)]

/-- D_dir (R306). -/
def dDir (s : State) : Option Nat :=
  let a := 512 * (dies s).length + 640
  let o := max s.folio.home.opens 1
  let stage := add [some (7 * tick), tSnpMax s, waitMax s (channels s), bMc s]
  add [(tOpen s).map ((a + o - 1) / o * ·), stage.map ((a + 7) / 8 * ·)]

/-- Whether an active peer window of a port targets a line. -/
def peerTargets (s : State) (p line : Nat) : Bool :=
  (List.range 16).any (fun w =>
    s.bit (.HP_WIN_ATTR_ACT p w) F.HP_WIN_ATTR_VALID &&
    let t := (s.rd (.HP_WIN_TARGET_ACT p w)).toNat
    decide (t ≤ 64 * line) && decide (64 * line < t + (s.rd (.HP_WIN_SIZE_ACT p w)).toNat))

/-- Agents that can hold a transaction open on a line of window number `i`, but for a die or a port that asks (R302). -/
def agents (s : State) (i : Nat) (w : WinRec) (line : Nat) (die port : Option Nat) : Nat :=
  let hs := handsIn s w
  let ds := (dies s).filter (fun d => some d != die && hs.any (fun h => (diesOf s h).contains d))
  let ps := (List.range 8).filter (fun p => some p != port && s.folio.portEnabled p &&
    (w.mask.testBit 0 || peerTargets s p line || s.folio.vfs.any (fun v => v.port == p && v.window == i)))
  let arc := w.mask.testBit 0 || hs.any (fun h => h != 0 && (s.folio.map.ctrl.getD h 0).testBit 7)
  ds.length + ps.length + (if w.kind = 1 then 1 else 0) + (if arc then 1 else 0)

/-- m over a window: its first line and the targets of peer windows inside it decide the largest count (R302). -/
def mOf (s : State) (i : Nat) (w : WinRec) (die port : Option Nat) : Nat :=
  let starts := (w.base / 64) :: (List.range 8).flatMap (fun p => (List.range 16).filterMap (fun k =>
    let t := (s.rd (.HP_WIN_TARGET_ACT p k)).toNat
    if s.bit (.HP_WIN_ATTR_ACT p k) F.HP_WIN_ATTR_VALID ∧ w.base ≤ t ∧ t < w.base + w.size then some (t / 64) else none))
  (starts.map (fun l => agents s i w l die port)).foldl max 0

/-- The windows with their numbers. -/
def windows (s : State) : List (Nat × WinRec) := s.folio.map.windows.zipIdx.map (fun e => (e.2, e.1))

/-! ### The values (R297, R300, R308, R311, R313) -/

/-- T_load of a hand (R297). -/
def tLoad (s : State) (h : Nat) : Option Nat :=
  let up := top ((diesOf s h).map (fun d => wait s d h))
  let dn := top ((diesOf s h).map (fun d => wait s (0x10 + d) h))
  add [some (9 * tick), up, some (6 * tick), wHome s h, some (7 * tick), wMc s h, some (12 * tick), some (tDram s), dn,
    some (6 * tick), some (5 * tick)]

/-- The dies that ask: those of the hand. -/
def askers (s : State) (h : Nat) : List (Option Nat) :=
  match diesOf s h with
  | [] => [none]
  | l => l.map some

/-- The snoop leg and m at their largest over a hand's windows (R313). -/
def snoopLeg (s : State) (h : Nat) : Option Nat :=
  top ((windows s).flatMap (fun e =>
    if e.2.mask.testBit h then
      (askers s h).flatMap (fun r =>
        ((dies s).filter (fun o => some o != r && (handsIn s e.2).any (fun x => (diesOf s x).contains o))).map (fun o =>
          tSnp s h o e.2))
    else []))

/-- m at its largest over a hand's windows. -/
def mHand (s : State) (h : Nat) : Nat :=
  ((windows s).flatMap (fun e => if e.2.mask.testBit h then (askers s h).map (fun r => mOf s e.1 e.2 r none) else [])).foldl max 0

/-- T_req with k = 0 and no translation term (R300, R313). -/
def tReq (s : State) (h : Nat) : Option Nat :=
  add [tLoad s h, snoopLeg s h, (tOpen s).map (mHand s h * ·), dDir s, bMc s, wMc s h, some (tRc s)]

/-- T_pub with L = 512, a = 1 and s = 16 on every core (R308). -/
def tPub (s : State) (h : Nat) : Option Nat :=
  let cs := s.coresOf h
  let c := ((cs.zip (cs.drop 1)).filter (fun e => e.1 / 24 != e.2 / 24)).length
  let up := top ((diesOf s h).map (fun d => wait s d h))
  let dn := top ((diesOf s h).map (fun d => wait s (0x10 + d) h))
  let cross := add [some (16 * tick), up, dn]
  let core (x : Nat) : Option Nat :=
    (tReq s h).map (fun t => 513 * (cycles 2 (opOfDie s.folio (x / 24)) + t) + 640 * tick)
  add (cross.map ((c + 1) * ·) :: some ((cs.length - 1 - c) * 4 * tick) :: cs.map core)

/-- Whether the host has enabled ASPM L1 on a port: bit 1 of ASPM Control in the PF's Link Control (R311, R326). -/
def aspmL1 (s : State) (p : Nat) : Bool := (cfg s (.pf (Fin.ofNat 8 p)) 0x80).getLsbD 1

/-- T_slip with T_host = 0, as a fraction of ticks: numerator and denominator (R311, R313). -/
def tSlip (s : State) (f : FnId) : Option (Nat × Nat) :=
  let h := fnHand s f
  let p := fnPort s f
  let q := (s.folio.queue? f).getD ⟨0, false, 0, 0, 0, 0, 1, 0, 1, 0, []⟩
  let link := if aspmL1 s p then 4000 else 0
  let ws : List (Nat × WinRec) := match f with
    | .vf v => (windows s).filter (fun e => some e.1 == (s.folio.vf? v).map (·.window))
    | .pf _ => (windows s).filter (fun e => e.2.mask.testBit 0)
  let m := (ws.map (fun e => mOf s e.1 e.2 none (some p))).foldl max 0
  let fixed := add [some ((2000 + link + 400) * tick), (wHome s h).map (64 * ·), dDir s, (tOpen s).map ((m + 1) * ·)]
  let ps := max q.slips 1
  let pb := max q.bytes 1
  let backlog := if q.burstBytes * ps ≤ q.burstSlips * pb then (q.burstSlips, ps) else (q.burstBytes, pb)
  fixed.map (fun x => (x * backlog.2 + backlog.1 * 1000000000 * tick, backlog.2))

/-- A bound in whole ns, all ones where there is none or it does not fit (R313). -/
def inNs : Option (Nat × Nat) → Nat
  | none => 0xFFFFFFFF
  | some (n, d) => min 0xFFFFFFFF ((n + d * tick - 1) / (d * tick))

/-- Whether R310 fails for a function: dealt byte rates of its hand, and the rate of its port. -/
def shareFails (s : State) (f : FnId) : Bool :=
  let h := fnHand s f
  let rate (g : FnId) : Nat := (s.folio.queue? g).elim 0 (·.bytes)
  let fns := s.folio.queues.map (fun r => if r.vf = 0xFFFF then FnId.pf (Fin.ofNat 8 r.port) else FnId.vf (Fin.ofNat 4096 r.vf))
  let asked := ((fns.filter (fun g => fnHand s g == h)).map rate).sum
  let held (p : Nat) : Nat := ((dealOf s.folio p).1.filter (· == h)).length
  let sliceOk := slices.all (fun p => decide (asked * 512 ≤ 64 * held p * 1000000000))
  let chanOk := (channels s).all (fun p => decide (asked * (256 * trick s p) ≤ 128 * held p * 1000000000 * tick))
  let p := fnPort s f
  let credited := match s.get (.HP_LINK p) F.HP_LINK_WIDTH with
    | 16 => 100000000000
    | 8 => 50000000000
    | 4 => 25000000000
    | _ => 0
  let portSum := ((fns.filter (fun g => fnPort s g == p)).map rate).sum
  !(sliceOk && chanOk && decide (portSum ≤ credited))

/-- The dies that serve the requests of a hand: its own, and those that a snoop of a line in its windows can reach (R301, R314). -/
def servers (s : State) (h : Nat) : List Nat :=
  (dies s).filter (fun d => (diesOf s h).contains d || (windows s).any (fun e =>
    e.2.mask.testBit h && (handsIn s e.2).any (fun x => (diesOf s x).contains d)))

/-- Whether a single fault of R314 is under way: a replay or a remap of a link, a command retry, a switch-over or a return of a
rank with its copied lines, a stopped die, the loss of a deal word. -/
def faulty (s : State) : Bool :=
  (dies s).any (fun d => !s.dieInService d || [Dir.up, .dn].any (fun x => !(s.link d x).resend.isEmpty || (s.link d x).remap.isSome))
  || (channels s).any (fun p => !(s.chan (p - 0x30)).retry.isEmpty || (s.chan (p - 0x30)).switch_.isSome)
  || (List.range 64).any (fun p => !(s.point p).lostWord.isEmpty)

/-- Whether a point has switched and another has not, of those that an addendum affects (R84). -/
def switching (s : State) : Bool :=
  s.get .FOL_ADD_STATE F.FOL_ADD_STATE_STATE == 3 && s.arc.points != s.arc.affected

/-- Whether a condition of R314 holds at evaluation: any row of its table that the function's bounds can meet; the last rows are
of work to which these bounds do not apply (DEDUCED, log entry 112). -/
def voided (s : State) (f : FnId) : Bool :=
  let h := fnHand s f
  let p := fnPort s f
  let dieOff := (servers s h).any (fun d =>
    s.get (.SCK_DIE d) F.SCK_DIE_STATE != 0 || s.get (.CORE_DIE_OP d) F.CORE_DIE_OP_CUR != opOfDie s.folio d ||
    decide (1050 < s.get (.SCK_DIE_TEL d) F.SCK_DIE_TEL_TJ))
  let narrow := !linkIsUp s p || s.get (.HP_LINK p) F.HP_LINK_SPEED != 6 ||
    s.get (.HP_LINK p) F.HP_LINK_WIDTH != s.get (.HP_CFG p) F.HP_CFG_MAX_WIDTH
  dieOff || s.handLost h || faulty s || !fullyDealt s || switching s || !claimValid s || shareFails s f || narrow
    || (s.ledger h).held.isSome

/-- QUERY_BOUND: RESULT and FLAGS (R313, R364). -/
def query (s : State) (f : FnId) (sel : Nat) : Nat × Nat :=
  let h := fnHand s f
  let dealtAll := fullyDealt s
  let one (v : Option Nat) : Nat := if dealtAll then inNs (v.map (·, 1)) else 0xFFFFFFFF
  let value := match sel with
    | 0 => if dealtAll then inNs (tSlip s f) else 0xFFFFFFFF
    | 1 => one (tReq s h)
    | _ => if s.folio.isLedger h then one (tPub s h) else 0
  let pend := s.get .FOL_ADD_STATE F.FOL_ADD_STATE_STATE = 3
  (value, (if dealtAll then 0x10 else 0) + (if pend then 0x20 else 0) + (if voided s f then 0x40 else 0))

end Sys2Proof.Machine.Bounds
end

