-- ==== Sys2Proof/Machine/Slips.lean ====
section
/-! DEFINITION. The call-slip engine: queue pairs, fetching, admission, the slips themselves, return slips, errors, the
mailbox of SET_STATE, and the staging of intakes (R253 to R256, R342 to R372, R483). -/

namespace Sys2Proof.Machine

open State (slipOpcode slipTag)

/-! ### Slip fields (R345) -/

/-- Little-endian field of a slip: byte offset and size. -/
def slipFld (b : LineData) (off n : Nat) : Nat := (b.extractLsb' (8 * off) (8 * n)).toNat
def slipHost (b : LineData) : Nat := slipFld b 8 8
def slipPkg (b : LineData) : Nat := slipFld b 0x10 8
def slipLen (b : LineData) : Nat := slipFld b 0x18 4
def slipArg (b : LineData) : Nat := slipFld b 0x1C 4
def slipEpoch (b : LineData) : Nat := slipFld b 0x20 8

/-- The register index of a function. -/
def fnIx (f : FnId) : Nat := f.key

/-- STATE of a queue: 0 DISABLED, 1 RUNNING, 2 FROZEN, 3 DRAINING (R367). -/
def qState (s : State) (f : FnId) (q : Nat) : Nat := s.get (.QP_STATE f.key q) F.QP_STATE_STATE
def setQState (s : State) (f : FnId) (q n : Nat) : State := s.put (.QP_STATE f.key q) F.QP_STATE_STATE n
/-- Indices and depth of a queue's rings. -/
def sqHead (s : State) (f : FnId) (q : Nat) : Nat := s.get (.QP_STATE f.key q) F.QP_STATE_SQ_HEAD
def cqTail (s : State) (f : FnId) (q : Nat) : Nat := s.get (.QP_STATE f.key q) F.QP_STATE_CQ_TAIL
def sqTail (s : State) (f : FnId) (q : Nat) : Nat := s.get (.QP_SQ_TAIL f.key q) F.QP_SQ_TAIL_INDEX
def cqHead (s : State) (f : FnId) (q : Nat) : Nat := s.get (.QP_CQ_HEAD f.key q) F.QP_CQ_HEAD_INDEX
def depthOf (s : State) (f : FnId) : Nat := 2 ^ (queueRec s f).depth
/-- Whether a function's queues run in extended mode. -/
def extended (s : State) (f : FnId) : Bool := (queueRec s f).mode == 1

/-- SQ_HEAD moved by slips fetched, or back over slips discarded. -/
def moveHead (s : State) (f : FnId) (q n : Nat) (back : Bool) : State :=
  let d := depthOf s f
  let h := sqHead s f q
  sramWrite (s.put (.QP_STATE f.key q) F.QP_STATE_SQ_HEAD (if back then (h + d - n % d) % d else (h + n) % d)) 11 f.unit q

/-- Slips fetched and not admitted are discarded; SQ_HEAD returns to the first of them. A fetch under way is forgotten. -/
def discardFetched (s : State) (f : FnId) (q : Nat) : State :=
  let x := s.queue f q
  let s := moveHead s f q x.fetched.length true
  let s := s.setQueue f q { x with fetched := [], fetching := 0 }
  let p := fnPort s f
  let y := s.port p
  s.setPort p { y with reads := y.reads.map (fun r =>
    if r.fn = f ∧ r.use = .slips q then { r with use := .dropped } else r) }

/-! ### Budgets (R351) -/

/-- Full buckets: after the folio is applied and after a reset of the function. -/
def fillBuckets (s : State) (f : FnId) : State :=
  let r := queueRec s f
  let x := s.fn f
  s.setFn f { x with slipLv := r.burstSlips * bucketUnit, byteLv := r.burstBytes * bucketUnit, lastAt := s.cycle }

/-! ### Errors and freezing (R358 to R362) -/

/-- The error log of a queue as one number, and COUNT. -/
def logCount (s : State) (f : FnId) (q : Nat) : Nat := (s.rd (.QP_LOG f.key q 5)).toNat % 2 ^ 32

/-- COUNT back to zero, when the queue is enabled or restarted. -/
def clearCount (s : State) (f : FnId) (q : Nat) : State := s.wr (.QP_LOG f.key q 5) 0

/-- An error in the log of a queue: in compact mode the first since the last restart stays, in extended mode the last one
(R359, R360). COUNT rises. -/
def logError (s : State) (f : FnId) (q status kind : Nat) (bits : LineData) (index pkg done : Nat) : State :=
  let n := logCount s f q
  let s :=
    if n = 0 ∨ extended s f then
      let w0 := status + slipTag bits * 2 ^ 16 + slipOpcode bits * 2 ^ 32 + kind * 2 ^ 40 + index * 2 ^ 48
      let s := s.wr (.QP_LOG f.key q 0) (BitVec.ofNat 64 w0)
      let s := s.wr (.QP_LOG f.key q 1) (BitVec.ofNat 64 (slipHost bits))
      let s := s.wr (.QP_LOG f.key q 2) (BitVec.ofNat 64 pkg)
      let s := s.wr (.QP_LOG f.key q 3) (BitVec.ofNat 64 (slipLen bits + done * 2 ^ 32))
      s.wr (.QP_LOG f.key q 4) (BitVec.ofNat 64 s.mtime)
    else s
  sramWrite (s.wr (.QP_LOG f.key q 5) (BitVec.ofNat 64 (min (n + 1) 0xFFFFFFFF))) 11 f.unit q

/-- A queue freezes: its unadmitted slips are discarded (R359). -/
def freeze (s : State) (f : FnId) (q : Nat) : State := setQState (discardFetched s f q) f q 2

/-- The freezing of a RUNNING queue in compact mode (R359); the error vector is signalled, in DRAINING too. The answer says
whether the queue froze. -/
def compactFreeze (s : State) (f : FnId) (q : Nat) : Bool × State :=
  if extended s f then (false, s)
  else
    let frz := qState s f q = 1
    (frz, signalError (if frz then freeze s f q else s) f)

/-- Number of a slip as the work of class D messages. -/
def slipKey (f : FnId) (q seq : Nat) : Nat := (f.key * 16 + q) * 2 ^ 32 + seq
/-- The function of a key. -/
def fnOfKey (k : Nat) : FnId := if k < 0x1000 then .vf (Fin.ofNat 4096 k) else .pf (Fin.ofNat 8 (k - 0x1000))
/-- The slip of a key. -/
def slipOfKey (k : Nat) : FnId × Nat × Nat := (fnOfKey (k / 2 ^ 36), k / 2 ^ 32 % 16, k % 2 ^ 32)

/-- Package address of a slip's range: an offset in the VF's WINDOW, or an address for a PF (R345). -/
def slipBase (s : State) (f : FnId) (b : LineData) : Nat :=
  match f with
  | .vf v => (((s.folio.vf? v).bind (fun r => s.folio.window? r.window)).elim 0 (·.base)) + slipPkg b
  | .pf _ => slipPkg b

/-- The line parts of a slip. -/
def slipParts (s : State) (f : FnId) (e : Slip) : List (Nat × Nat × Nat) := lineParts (slipBase s f e.bits) (slipLen e.bits)

/-- Bytes done (R347): for a COPY_IN those of the transfers that entered, for a COPY_OUT those written to the host. -/
def bytesDone (s : State) (f : FnId) (e : Slip) : Nat :=
  if slipOpcode e.bits = 1 then (((slipParts s f e).filter (fun x => e.entered.contains x.1)).map (·.2.2)).sum
  else if slipOpcode e.bits = 2 then e.asked else 0

/-- What is left of a slip's work is discarded: the data of its reads and, unless whole transfers drain, the transfers that have not
entered (R330, R335, R356). -/
def dropWork (s : State) (f : FnId) (q seq : Nat) (drain : Bool) : State :=
  let p := fnPort s f
  let s := if drain then s else dropTransfers s (16 + p) (fun m => m.txn == txnOf 0 (slipKey f q seq))
  let y := s.port p
  s.setPort p { y with reads := y.reads.map (fun r =>
    match r.use with
    | .copyIn q2 seq2 _ => if r.fn = f ∧ q2 = q ∧ seq2 = seq then { r with use := .dropped } else r
    | _ => r) }

/-- A slip ends with a status of kind Error: the log, the freezing of compact mode, the FROZEN flag (R358, R359). With
MASTER_DISABLED its whole transfers drain (R335). -/
def endError (s : State) (f : FnId) (q : Nat) (e : Slip) (status result : Nat) : State :=
  let s := dropWork s f q e.seq (status == 0x21)
  let s := logError s f q status 0 e.bits e.index (slipPkg e.bits) result
  let r := compactFreeze s f q
  r.2.endSlip f q e.seq status result (if r.1 then 8 else 0)

/-! ### Fetching (R344, R483) -/

/-- Entries of the completion ring that are neither free nor promised. -/
def cqUsed (s : State) (f : FnId) (q : Nat) : Nat :=
  let x := s.queue f q
  let d := depthOf s f
  x.fetched.length + x.running.length + x.ended.length + (cqTail s f q + d - cqHead s f q) % d

/-- A fetch is issued where R344 allows one: at most 8 slips, within 4 KiB, up to the end of the ring. -/
def startFetch (s : State) (f : FnId) (q : Nat) : State :=
  let x := s.queue f q
  let d := depthOf s f
  if qState s f q ≠ 1 ∨ x.fetching ≠ 0 ∨ x.fetched ≠ [] then s
  else
    let waiting := (sqTail s f q + d - sqHead s f q) % d
    let n := min (min 8 waiting) (min (d - 1 - cqUsed s f q) (d - sqHead s f q))
    let addr := s.get (.QP_SQ_BASE f.key q) F.QP_SQ_BASE_BASE * 64 + 64 * sqHead s f q
    match issueRead1 s f addr (64 * n) (.slips q) with
    | (0, s) => s
    | (k, s) => s.setQueue f q { s.queue f q with fetching := k / 64 }

/-- Slips arrive: they wait for admission in ring order, one per IOD fabric cycle. -/
def slipsArrive (s : State) (f : FnId) (q : Nat) (slips : List LineData) : State :=
  let x := s.queue f q
  if x.fetching = 0 ∨ slips.length ≠ x.fetching ∨ qState s f q ≠ 1 then s
  else moveHead (s.setQueue f q { x with fetched := x.fetched ++ slips, fetching := 0 }) f q slips.length false

/-- SLIP_FETCH_FAIL (R483): the queue freezes in both modes, none of the slips is admitted, KIND 4 is logged. -/
def fetchFail (s : State) (f : FnId) (q status : Nat) : State :=
  if qState s f q ≠ 1 then s
  else
    let head := sqHead s f q
    let s := s.setQueue f q { s.queue f q with fetching := 0 }
    signalError (freeze (logError s f q status 4 0 head 0 0) f q) f

/-! ### Windows that R248 protects -/

/-- Whether some line of a range lies in a window that a live ledger hand protects. -/
def protectedRange (s : State) (addr len : Nat) : Bool :=
  (lineParts addr len).any (fun e => match windowAt s (64 * e.1) with | some w => frozenFor s w none | none => false)

/-! ### COPY_IN and COPY_OUT (R328, R353) -/

/-- The class D transfers of a slip: for each home slice its line parts in ascending order, 64 at a time (R328). -/
def slipTransfers (s : State) (f : FnId) (e : Slip) : List (List (Nat × Nat × Nat)) :=
  (List.range 16).flatMap (fun n =>
    let l := (slipParts s f e).filter (fun x => sliceOf s x.1 == n)
    (List.range ((l.length + 63) / 64)).map (fun i => (l.drop (64 * i)).take 64))

/-- A slip of a queue. -/
def findSlip (s : State) (f : FnId) (q seq : Nat) : Option Slip := (s.queue f q).running.find? (fun e => e.seq == seq)
/-- A slip replaced. -/
def setSlip (s : State) (f : FnId) (q : Nat) (e : Slip) : State :=
  let x := s.queue f q
  s.setQueue f q { x with running := x.running.map (fun y => if y.seq = e.seq then e else y) }

/-- Whether all bytes of a part have arrived. -/
def partReady (e : Slip) (x : Nat × Nat × Nat) : Bool :=
  match e.lines.get? x.1 with
  | some l => needMask x.2.1 x.2.2 &&& ~~~ l.mask == 0
  | none => false

/-- The transfers of a COPY_IN whose lines are all there leave for their slices; a line that R248 protects ends the slip
(R330, R366). -/
def sendReady (s : State) (f : FnId) (q seq : Nat) : State :=
  match findSlip s f q seq with
  | none => s
  | some e0 =>
    overAll (slipTransfers s f e0) (fun s t =>
      match findSlip s f q seq with
      | none => s
      | some e =>
        if t.any (fun x => e.sent.contains x.1) ∨ ¬ t.all (partReady e) then s
        else if t.any (fun x => match windowAt s (64 * x.1) with | some w => frozenFor s w none | none => true) then
          endError s f q e 0x20 (bytesDone s f e)
        else
          let poison := t.any (fun x => match e.lines.get? x.1 with | some l => l.poison | none => false)
          let ms := t.map (fun x =>
            let l := (e.lines.get? x.1).getD ⟨0, 0, false⟩
            wrMsg (16 + fnPort s f) (fnHand s f) x.1 (txnOf 0 (slipKey f q seq)) l.data (needMask x.2.1 x.2.2) poison)
          let s := setSlip s f q { e with sent := e.sent ++ t.map (·.1), status := if poison then 0x23 else e.status }
          putTransfers s (16 + fnPort s f) ms) s

/-- Bytes of a COPY_IN arrive at an offset of the slip; an error poisons its lines (R330); a line whose last byte is there is
staged, and counts (R328). -/
def copyInBytes (s : State) (f : FnId) (q seq off : Nat) (bs : List Byte) (ep : Bool) : State :=
  match findSlip s f q seq with
  | none => s
  | some e =>
    let base := slipBase s f e.bits + off
    let lines := (lineParts base bs.length).foldl (fun (l : NMap SlipLine) x =>
      let o := l.getD x.1 ⟨0, 0, false⟩
      let d := lineFrom x.2.1 ((bs.drop (64 * x.1 + x.2.1 - base)).take x.2.2)
      l.set x.1 ⟨mergeLine d.2 d.1 o.data, o.mask ||| d.2, o.poison || ep⟩) e.lines
    let e' := { e with lines := lines, status := if ep then 0x23 else e.status }
    let new := (slipParts s f e).filter (fun x => partReady e' x && !partReady e x)
    sendReady ((setSlip s f q e').countBlk (48 + fnPort s f) 0x0403 new.length) f q seq

/-- Bytes done of a slip whose whole transfers drain: those of a COPY_IN that have left for their slices (R335, R347). -/
def bytesKept (s : State) (f : FnId) (e : Slip) : Nat :=
  if slipOpcode e.bits = 1 then (((slipParts s f e).filter (fun x => e.sent.contains x.1)).map (·.2.2)).sum
  else bytesDone s f e

/-- Lines of a COPY_OUT whose last byte is among its first `n`. -/
def linesOut (base len n : Nat) : Nat := (if n = len then (base + len + 63) / 64 else (base + n) / 64) - base / 64

/-- The next host write of a COPY_OUT: at most the Max Payload Size, within 4 KiB, where its package lines are there. It leaves only
while the function may issue and the port can send, so the slip takes effect as its last write leaves (R353). A line counts when
its last byte leaves. -/
def outWrite (s : State) (f : FnId) (q seq : Nat) : State :=
  match findSlip s f q seq with
  | none => s
  | some e =>
    let len := slipLen e.bits
    let host := slipHost e.bits + e.asked
    let n := min (len - e.asked) (min (maxPayload s f) (4096 - host % 4096))
    let ps := lineParts (slipBase s f e.bits + e.asked) n
    if n = 0 ∨ ¬ fnMayIssue s f ∨ ¬ portReady s (fnPort s f) ∨ ¬ ps.all (fun x => (e.lines.get? x.1).isSome) then s
    else
      let ls := ps.map (fun x => (x, (e.lines.get? x.1).getD ⟨0, 0, false⟩))
      let bs := ls.flatMap (fun y => bytesOf y.2.data y.1.2.1 y.1.2.2)
      let poison := ls.any (fun y => y.2.poison)
      let st := if poison then 0x23 else e.status
      let s := sendTlp s (fnPort s f) (.write (fnPort8 s f) f host bs poison)
      let s := if poison then fnErr s f 2 else s
      let e := { e with asked := e.asked + n, status := st }
      let out := linesOut (slipBase s f e.bits) len
      let s := s.countBlk (48 + fnPort s f) 0x0404 (out e.asked - out (e.asked - n))
      let s := setSlip s f q e
      if e.asked < len then s
      else if st = 0 then s.endSlip f q seq 0 len 0 else endError s f q e st len

/-- The host writes of a COPY_OUT that can leave do, in order. -/
def pushOut (s : State) (f : FnId) (q seq : Nat) : State :=
  match findSlip s f q seq with
  | none => s
  | some e =>
    if slipOpcode e.bits = 2 then overAll (List.range (slipLen e.bits / 64 + 2)) (fun s _ => outWrite s f q seq) s else s

/-- A package line of a COPY_OUT has been read: the host writes that it allows leave in order (R353). -/
def copyOutLine (s : State) (f : FnId) (q seq line : Nat) (data : LineData) (poison : Bool) : State :=
  match findSlip s f q seq with
  | none => s
  | some e =>
    let s := setSlip s f q { e with lines := e.lines.set line ⟨data, BitVec.allOnes 64, poison⟩ }
    pushOut s f q seq

/-- Lines of a slip's transfer have entered their home slice: a COPY_IN that has all of them there has taken effect and
ends (R353). -/
def copyInEntered (s : State) (f : FnId) (q seq : Nat) (lines : List Nat) : State :=
  match findSlip s f q seq with
  | none => s
  | some e =>
    let e := { e with entered := e.entered ++ lines }
    let s := setSlip s f q e
    if ¬ (slipParts s f e).all (fun x => e.entered.contains x.1) then s
    else if e.status = 0 then s.endSlip f q seq 0 (slipLen e.bits) 0
    else endError s f q e e.status (slipLen e.bits)

/-! ### Starting slips (R354, R355, R370) -/

/-- Whether two slips of a queue overlap (R354). -/
def overlaps (s : State) (f : FnId) (a b : Slip) : Bool :=
  let op (e : Slip) := slipOpcode e.bits
  let copy (e : Slip) := op e == 1 || op e == 2
  let lo (e : Slip) := slipBase s f e.bits
  copy a && copy b && (op a == 1 || op b == 1) &&
    decide (lo a < lo b + slipLen b.bits) && decide (lo b < lo a + slipLen a.bits)

/-- Whether a slip may start: its engine is out of its idle state, no earlier FENCE of its queue and no earlier overlapping
slip is unended, and its function may issue requests; a READ_LOG, which writes at once, waits for a port that can send. -/
def mayStart (s : State) (f : FnId) (q : Nat) (e : Slip) : Bool :=
  s.get (.QP_STATE f.key q) F.QP_STATE_IDLE == 0 && fnMayIssue s f && (slipOpcode e.bits != 6 || portReady s (fnPort s f)) &&
  (s.queue f q).running.all (fun y => decide (e.seq ≤ y.seq) || (slipOpcode y.bits != 4 && !overlaps s f y e))

/-- The rest of a COPY_IN's host reads are issued as far as tags allow (R328). -/
def moreReads (s : State) (f : FnId) (q seq : Nat) : State :=
  match findSlip s f q seq with
  | none => s
  | some e =>
    if slipOpcode e.bits ≠ 1 ∨ ¬ e.started then s
    else
      let r := issueReads f (slipHost e.bits) (slipLen e.bits) (fun off => .copyIn q seq off) 1024 s e.asked
      match findSlip r.2 f q seq with
      | some e => setSlip r.2 f q { e with asked := r.1 }
      | none => r.2

/-- READ_LOG writes the log records of the queues that QMASK names, 64 bytes each, in ascending order (R363). -/
def readLogWrites (s : State) (f : FnId) (b : LineData) : Nat × State :=
  let qs := (List.range 16).filter (fun k => (slipArg b).testBit k)
  (qs.length, overAll qs.zipIdx (fun s e =>
    let bs := (List.range 8).flatMap (fun k => leBytes 8 (s.rd (.QP_LOG f.key e.1 k)).toNat)
    sendTlp s (fnPort s f) (.write (fnPort8 s f) f (slipHost b + 64 * e.2) bs false)) s)

/-- A slip that may start does (R353, R363, R364). A FENCE, an ABORT that waits, a POST and a SET_STATE have no start. -/
def startSlip (s : State) (f : FnId) (q seq : Nat) : State :=
  match findSlip s f q seq with
  | none => s
  | some e =>
    if e.started ∨ ¬ mayStart s f q e then s
    else
      let go := setSlip s f q { e with started := true }
      match slipOpcode e.bits with
      | 0 => s.endSlip f q seq 0 0 0
      | 1 => moreReads go f q seq
      | 2 => putTransfers go (16 + fnPort s f) ((slipParts s f e).map (fun x =>
          engMsg (16 + fnPort s f) .rdOnce (fnHand s f) x.1 (txnOf 0 (slipKey f q seq))))
      | 6 => let r := readLogWrites s f e.bits; r.2.endSlip f q seq 0 r.1 0
      | 8 => let r := Bounds.query s f (slipArg e.bits % 4); s.endSlip f q seq 0 r.1 r.2
      | _ => s

/-- A FENCE, or an ABORT behind its target, ends when the slips that it waits for have ended (R355, R357). -/
def endWaits (s : State) (f : FnId) (q seq : Nat) : State :=
  match findSlip s f q seq with
  | none => s
  | some e =>
    let done := e.waits.all (fun w => (findSlip s f w.1 w.2).isNone)
    if slipOpcode e.bits = 4 ∧ done then s.endSlip f q seq 0 0 0
    else if slipOpcode e.bits = 5 ∧ done then s.endSlip f q seq 0x12 0 0
    else s

/-- One pass over a function's accepted slips: what may end ends, what may start starts. -/
def settlePass (s : State) (f : FnId) : State :=
  overAll (List.range (fnQueues s f)) (fun s q =>
    overAll ((s.queue f q).running.map (·.seq)) (fun s n => startSlip (endWaits s f q n) f q n) s) s

/-- Passes until nothing more can start: each ends one slip at least. -/
def settle (s : State) (f : FnId) : State :=
  let n := ((List.range (fnQueues s f)).map (fun q => (s.queue f q).running.length)).sum
  overAll (List.range (n + 1)) (fun s _ => settlePass s f) s

/-! ### Intakes (R253 to R256) -/

/-- The function that carries an intake. -/
def intakeFn (i : Intake) : FnId := if i.fn = 0xFFFF then .pf (Fin.ofNat 8 i.port) else .vf (Fin.ofNat 4096 i.fn)

/-- An intake of a hand. -/
def findIntake (s : State) (h id : Nat) : Option Intake := (s.ledger h).intakes.find? (fun i => i.id == id)
/-- An intake replaced. -/
def setIntake (s : State) (h : Nat) (i : Intake) : State :=
  let l := s.ledger h
  s.setLedger h { l with intakes := l.intakes.map (fun y => if y.id = i.id then i else y) }

/-- Work number of an intake. -/
def intakeKey (h id : Nat) : Nat := h + 64 * id

/-- The host reads of an intake's staging, as far as tags allow (R253). -/
def stageReads (s : State) (h id : Nat) : State :=
  match findIntake s h id with
  | none => s
  | some i =>
    if i.state ≠ 1 then s
    else
      let r := issueReads (intakeFn i) i.source i.length (fun off => .intake h id off) 1024 s i.asked
      setIntake r.2 h { i with asked := r.1 }

/-- Base and half size S of a hand's intake window (R252). -/
def intakeHalf (s : State) (h : Nat) : Nat × Nat := (intakeWin s h).getD (0, 0)

/-- The class D transfers of an intake's block: for each home slice its lines in ascending order, 64 at a time, by number in the
block (R328). -/
def intakeTransfers (s : State) (h : Nat) (i : Intake) : List (List Nat) :=
  let w := intakeHalf s h
  let first := (w.1 + w.2 + i.dest) / 64
  (List.range 16).flatMap (fun n =>
    let l := (List.range (i.length / 64)).filter (fun k => sliceOf s (first + k) == n)
    (List.range ((l.length + 63) / 64)).map (fun j => (l.drop (64 * j)).take 64))

/-- The transfers of an intake whose lines have all arrived leave for the staging half, as requester 24 (R253, R328). -/
def stageSend (s : State) (h id : Nat) : State :=
  match findIntake s h id with
  | none => s
  | some i0 =>
    overAll (intakeTransfers s h i0) (fun s t =>
      match findIntake s h id with
      | none => s
      | some i =>
        let there (k : Nat) : Bool := (List.range 64).all (fun j => (i.data.get? (64 * k + j)).isSome)
        if t.any i.sent.contains ∨ ¬ t.all there then s
        else
          let w := intakeHalf s h
          let ms := t.flatMap (fun k => wrBytes 24 (fnHand s (intakeFn i)) (txnOf 2 (intakeKey h id)) (w.1 + w.2 + i.dest + 64 * k)
            ((List.range 64).map (fun j => i.data.getD (64 * k + j) 0)))
          putTransfers (setIntake s h { i with sent := i.sent ++ t }) 24 ms) s

/-- Bytes of an intake arrive (R253); a line whose bytes are all there is staged, and counts. -/
def intakeBytes (s : State) (h id off : Nat) (bs : List Byte) : State :=
  match findIntake s h id with
  | none => s
  | some i =>
    if i.state ≠ 1 then s
    else
      let data := bs.zipIdx.foldl (fun (m : NMap Byte) e => m.set (off + e.2) e.1) i.data
      let there (m : NMap Byte) (k : Nat) : Bool := (List.range 64).all (fun j => (m.get? (64 * k + j)).isSome)
      let new := (List.range (i.length / 64)).filter (fun k => there data k && !there i.data k)
      stageSend ((setIntake s h { i with data := data }).countBlk (48 + fnPort s (intakeFn i)) 0x0403 new.length) h id

/-- The staging of an intake fails: its data and reads are discarded; it is still delivered, as failed (R255). -/
def failIntake (s : State) (h id status : Nat) : State :=
  match findIntake s h id with
  | none => s
  | some i =>
    if 2 ≤ i.state then s
    else
      let s := dropTransfers s 24 (fun m => m.txn == txnOf 2 (intakeKey h id))
      let p := fnPort s (intakeFn i)
      let y := s.port p
      let s := s.setPort p { y with reads := y.reads.map (fun r =>
        match r.use with
        | .intake h2 id2 _ => if h2 = h ∧ id2 = id then { r with use := .dropped } else r
        | _ => r) }
      setIntake s h { i with state := 3, status := status, data := [] }

/-- Every staging of a function fails (R255). -/
def failIntakes (s : State) (f : FnId) (status : Nat) : State :=
  overAll (List.range 64) (fun s h =>
    overAll ((s.ledger h).intakes.filter (fun i => intakeFn i == f && i.state == 1)) (fun s i => failIntake s h i.id status) s) s

/-- A function that freed tags, or may issue again, goes on: fetches, the reads and host writes of its slips, the staging of its
intakes. -/
def kick (s : State) (f : FnId) : State :=
  let s := overAll (List.range (fnQueues s f)) (fun s q =>
    let s := overAll ((s.queue f q).running.map (·.seq)) (fun s n => moreReads (pushOut s f q n) f q n) s
    startFetch s f q) s
  overAll (List.range 64) (fun s h =>
    overAll ((s.ledger h).intakes.filter (fun i => intakeFn i == f && i.state == 1)) (fun s i => stageReads s h i.id) s) s

/-- Every function of a port goes on. -/
def kickPort (s : State) (p : Fin 8) : State := overAll (portFns s p) kick s

/-! ### Admission (R350, R366) -/

/-- Byte cost of a slip (R346). -/
def slipCost (b : LineData) : Nat :=
  match slipOpcode b with
  | 1 | 2 | 3 | 7 => slipLen b
  | 6 => 64 * ((List.range 16).filter (fun k => (slipArg b).testBit k)).length
  | _ => 0

/-- Whether QMASK names only queues of the function. -/
def qmaskOk (s : State) (f : FnId) (b : LineData) : Bool := decide (slipArg b < 2 ^ fnQueues s f)

/-- Whether the range of a COPY_IN or COPY_OUT is one that the function may name (R350 step 2). -/
def copyRangeOk (s : State) (f : FnId) (b : LineData) : Bool :=
  let n := slipLen b
  decide (1 ≤ n) && decide (n ≤ 2 ^ 24) &&
  match f with
  | .vf v =>
    match (s.folio.vf? v).bind (fun r => s.folio.window? r.window) with
    | some w => decide (slipPkg b + n ≤ w.size)
    | none => false
  | .pf _ => decide (s.folio.vaultEnd ≤ slipPkg b) && inWindows s 0 (slipPkg b) n

/-- Whether the fields of a slip are within R346 (R350 step 2). -/
def fieldsOk (s : State) (f : FnId) (b : LineData) : Bool :=
  let host := slipHost b == 0
  let pkg := slipPkg b == 0
  let len := slipLen b == 0
  let arg := slipArg b == 0
  let epoch := slipEpoch b == 0
  slipFld b 1 1 == 0 && slipFld b 4 4 == 0 && slipFld b 0x28 24 == 0 &&
  (match slipOpcode b with
  | 0 => host && pkg && len && arg && epoch
  | 1 | 2 => arg && epoch && copyRangeOk s f b
  | 3 => arg
  | 4 => host && pkg && len && epoch && qmaskOk s f b
  | 5 => host && pkg && len && epoch && decide (slipArg b < 2 ^ 16)
  | 6 => pkg && len && epoch && qmaskOk s f b
  | 7 => pkg && epoch && decide (slipLen b ≤ 2 ^ 20) && decide (slipArg b < 2 ^ 16)
  | _ => host && pkg && len && epoch && decide (slipArg b ≤ 2)) &&
  decide (slipCost b ≤ (queueRec s f).burstBytes)

/-- The first epoch for which a POST may still be accepted (R256): 0 in STARTING before the cutoff of epoch 0; what it was at the stop
while the cores of a stopped hand are STOPPING. -/
def nextOpen (s : State) (h : Nat) : Nat :=
  let e := (s.rd (.CSQ_LDG_EPOCH h)).toNat
  match s.get (.CSQ_LDG_PHASE h) F.CSQ_LDG_PHASE_PHASE with
  | 0 => if s.handState h = 2 then (s.ledger h).next else 0
  | 1 => e + 1
  | 4 => e + 2
  | _ => e + 1

/-- Whether two byte ranges share a byte. -/
def meets (a n b m : Nat) : Bool := decide (a < b + m) && decide (b < a + n)

/-- The checks of a POST in their order (R256): the status of the first that fails. -/
def postCheck (s : State) (f : FnId) (b : LineData) : Option Nat :=
  let h := fnHand s f
  let dest := slipPkg b
  let n := slipLen b
  let half := (intakeHalf s h).2
  if ¬ ledgerLive s h then some 5
  else if dest % 64 ≠ 0 ∨ n % 64 ≠ 0 ∨ n = 0 ∨ 2 ^ 24 < n ∨ half < dest + n then some 3
  else if slipEpoch b < nextOpen s h then some 6
  else if ((s.folio.ledger? h).elim [] (·.intakes)).any (fun r => meets dest n r.dest r.length) ∨
      (s.ledger h).intakes.any (fun i => i.posted.isSome && meets dest n i.dest i.length) then some 7
  else none

/-- The admission check of a slip: none where it is accepted, otherwise the status of its refusal (R350). -/
def admission (s : State) (f : FnId) (q : Nat) (b : LineData) : Option Nat :=
  let op := slipOpcode b
  let pf : Bool := match f with | .pf _ => true | _ => false
  let x := s.fn f
  if 8 < op ∨ (op = 7 ∧ ¬ pf) then some 2
  else if ¬ fieldsOk s f b then some 3
  else if (s.queue f q).running.any (fun e => slipTag e.bits == slipTag b) then some 4
  else if x.slipLv < bucketUnit ∨ x.byteLv < slipCost b * bucketUnit then some 1
  else
    match op with
    | 3 => postCheck s f b
    | 1 => if protectedRange s (slipBase s f b) (slipLen b) then some 5 else none
    | 7 => if s.bit (.CSQ_SS_BUF (fnPort s f)) F.CSQ_SS_BUF_VALID then none else some 5
    | _ => none

/-- The intake of an accepted POST; its staging begins (R253). -/
def postIntake (s : State) (f : FnId) (q seq : Nat) (b : LineData) : State :=
  let h := fnHand s f
  let l := s.ledger h
  let fnum := match f with | .vf v => v.val | .pf _ => 0xFFFF
  let i : Intake := ⟨l.nextId, slipEpoch b, slipLen b, slipPkg b, slipHost b, fnPort s f, fnum, none,
    some (f, q, seq, slipTag b), 1, 0, 0, [], [], false, 0⟩
  stageReads (s.setLedger h { l with intakes := l.intakes ++ [i], nextId := l.nextId + 1 }) h l.nextId

/-- Whether an ABORT can still catch a slip: its commit point has not passed (R356). -/
def catchable (s : State) (f : FnId) (e : Slip) : Bool :=
  match slipOpcode e.bits with
  | 1 | 2 | 4 => true
  | 3 => ((s.ledger (fnHand s f)).intakes.any (fun i =>
      (match i.posted with | some (g, _, n, t) => g == f && n == e.seq && t == slipTag e.bits | none => false) && !i.due))
  | _ => false

/-- An accepted ABORT decides at its admission (R356, R357). -/
def abortSlip (s : State) (f : FnId) (q seq : Nat) (target : Nat) : State :=
  match (s.queue f q).running.find? (fun e => slipTag e.bits == target && decide (e.seq < seq)) with
  | none => s.endSlip f q seq 0x12 0 0
  | some e =>
    if catchable s f e then
      let n := bytesDone s f e
      let s := dropWork s f q e.seq false
      let h := fnHand s f
      let l := s.ledger h
      let mine (i : Intake) : Bool := match i.posted with | some (g, k, m, _) => g == f && k == q && m == e.seq | none => false
      let s := overAll (l.intakes.filter mine) (fun s i => failIntake s h i.id 0) s
      let s := s.setLedger h { s.ledger h with intakes := l.intakes.filter (fun i => !mine i) }
      (s.endSlip f q e.seq 0x10 n 0).endSlip f q seq 0x11 0 0
    else
      match findSlip s f q seq with
      | some a => setSlip s f q { a with waits := [(q, e.seq)] }
      | none => s

/-- The slips that a FENCE waits for: those accepted before it in its queue and in the queues of QMASK (R355). -/
def fenceWaits (s : State) (f : FnId) (q : Nat) (b : LineData) : List (Nat × Nat) :=
  ((List.range (fnQueues s f)).filter (fun k => k == q || (slipArg b).testBit k)).flatMap (fun k =>
    (s.queue f k).running.map (fun e => (k, e.seq)))

/-- A return slip of a refused slip (R350). -/
def refuseSlip (s : State) (f : FnId) (q : Nat) (b : LineData) (index status : Nat) : State :=
  let x := s.queue f q
  let s := s.setQueue f q { x with ended := x.ended ++ [⟨b, index, status, 0, 0, none, []⟩] }
  if status = 1 then (s.inc (.CSQ_FN_STAT f.key) F.CSQ_FN_STAT_OVER_BUDGET).countBlk 56 0x0502 1 else s

/-- The admission cycle of the first fetched slip of a queue, where it has one of the opcodes given; a reserved opcode is
refused by any of the nine rows (R350, R353). -/
def admitSlip (s : State) (f : FnId) (q op : Nat) : State :=
  let x := s.queue f q
  match x.fetched with
  | [] => s
  | b :: t =>
    if qState s f q ≠ 1 ∨ ¬ (slipOpcode b = op ∨ 8 < slipOpcode b) then s
    else
      let s := refill s f
      let index := (sqHead s f q + depthOf s f - x.fetched.length) % depthOf s f
      let s := s.setQueue f q { x with fetched := t }
      match admission s f q b with
      | some n => startFetch (refuseSlip s f q b index n) f q
      | none =>
        let y := s.fn f
        let s := s.setFn f { y with slipLv := y.slipLv - bucketUnit, byteLv := y.byteLv - slipCost b * bucketUnit }
        let s := (s.inc (.CSQ_FN_STAT f.key) F.CSQ_FN_STAT_ACCEPTED).countBlk 56 0x0501 1
        let x := s.queue f q
        let seq := x.seq
        let waits := if op = 4 then fenceWaits s f q b else []
        let s := s.setQueue f q { x with running := x.running ++ [⟨seq, b, false, 0, [], [], [], 0, waits, index⟩], seq := seq + 1 }
        let s := match op with
          | 3 => postIntake s f q seq b
          | 5 => abortSlip s f q seq (slipArg b)
          | _ => s
        startFetch (settle s f) f q

/-- NOP (R346). -/
def execNop (f : FnId) (q : Fin 16) (s : State) : Out := .next (admitSlip s f q 0)
/-- COPY_IN (R353, R354). -/
def execCopyIn (f : FnId) (q : Fin 16) (s : State) : Out := .next (admitSlip s f q 1)
/-- COPY_OUT (R353, R354). -/
def execCopyOut (f : FnId) (q : Fin 16) (s : State) : Out := .next (admitSlip s f q 2)
/-- POST (R256). -/
def execPost (f : FnId) (q : Fin 16) (s : State) : Out := .next (admitSlip s f q 3)
/-- FENCE (R355). -/
def execFenceSlip (f : FnId) (q : Fin 16) (s : State) : Out := .next (admitSlip s f q 4)
/-- ABORT (R356, R357). -/
def execAbort (f : FnId) (q : Fin 16) (s : State) : Out := .next (admitSlip s f q 5)
/-- READ_LOG (R363). -/
def execReadLog (f : FnId) (q : Fin 16) (s : State) : Out := .next (admitSlip s f q 6)
/-- SET_STATE (R365). -/
def execSetState (f : FnId) (q : Fin 16) (s : State) : Out := .next (admitSlip s f q 7)
/-- QUERY_BOUND (R364). -/
def execQueryBound (f : FnId) (q : Fin 16) (s : State) : Out := .next (admitSlip s f q 8)

/-- SLIP_FETCH_DONE: a fetch returns and its slips wait for admission (R344); its tag frees (R327). -/
def execSlipFetchDone (f : FnId) (q : Fin 16) (slips : List LineData) (s : State) : Out :=
  let x := s.queue f q
  if x.fetching = 0 ∨ slips.length ≠ x.fetching then .next s
  else
    let p := fnPort s f
    let y := s.port p
    let s := s.setPort p { y with reads := y.reads.filter (fun r => !(r.fn == f && r.use == .slips q)) }
    .next (kick (slipsArrive s f q slips) f)

/-! ### Doorbells and queue control (R367 to R370) -/

/-- A queue that a function has. -/
def hasQueue (s : State) (f : FnId) (q : Nat) : Bool := decide (q < fnQueues s f) && (s.folio.queue? f).isSome

/-- An invalid doorbell: the queue freezes with BAD_DOORBELL in both modes (R360, R369). -/
def badDoorbell (s : State) (f : FnId) (q v : Nat) : State :=
  let s := logError s f q 0x27 3 0 (v % 2 ^ 16) 0 0
  signalError (if qState s f q = 1 then freeze s f q else s) f

/-- SQ_TAIL_DOORBELL (R369). -/
def execSqTailDoorbell (f : FnId) (q : Fin 16) (v : BitVec 32) (s : State) : Out :=
  let st := qState s f q
  let d := depthOf s f
  let old := sqTail s f q
  let n := v.toNat
  if ¬ hasQueue s f q ∨ st = 0 ∨ st = 3 then .next s
  else if d ≤ n ∨ d - 1 < (old + d - sqHead s f q) % d + (n + d - old) % d then .next (badDoorbell s f q n)
  else .next (startFetch (s.put (.QP_SQ_TAIL f.key q) F.QP_SQ_TAIL_INDEX n) f q)

/-- CQ_HEAD_DOORBELL (R369): an index within the entries posted frees them. -/
def execCqHeadDoorbell (f : FnId) (q : Fin 16) (v : BitVec 32) (s : State) : Out :=
  let st := qState s f q
  let d := depthOf s f
  let old := cqHead s f q
  let n := v.toNat
  if ¬ hasQueue s f q ∨ st = 0 ∨ st = 3 then .next s
  else if d ≤ n ∨ (cqTail s f q + d - old) % d < (n + d - old) % d then .next (badDoorbell s f q n)
  else
    let s := s.put (.QP_CQ_HEAD f.key q) F.QP_CQ_HEAD_INDEX n
    let s := if n = cqTail s f q then unsignal s f q else s
    .next (startFetch s f q)

/-- A queue's indices and PHASE back to their start (R367, R368). -/
def ringReset (s : State) (f : FnId) (q : Nat) : State :=
  let s := s.put (.QP_STATE f.key q) F.QP_STATE_SQ_HEAD 0
  let s := s.put (.QP_STATE f.key q) F.QP_STATE_CQ_TAIL 0
  let s := s.put (.QP_SQ_TAIL f.key q) F.QP_SQ_TAIL_INDEX 0
  let s := s.put (.QP_CQ_HEAD f.key q) F.QP_CQ_HEAD_INDEX 0
  s.setQueue f q { s.queue f q with phase := true }

/-- Whether a queue has nothing left to post. -/
def spent (s : State) (f : FnId) (q : Nat) : Bool := (s.queue f q).running.isEmpty && (s.queue f q).ended.isEmpty

/-- Whether a queue has accepted slips that have not ended: BUSY (R371). -/
def queueBusy (s : State) (f : FnId) (q : Nat) : Bool := !(s.queue f q).running.isEmpty

/-- The DISABLED state: waiting deferred reports are discarded (R361, R367). -/
def disableQueue (s : State) (f : FnId) (q : Nat) : State :=
  let x := s.queue f q
  setQState (s.setQueue f q { x with deferred := [], defLost := false }) f q 0

/-- A write to QP_CTL (R367, R368, R371). -/
def qpCtl (s : State) (f : FnId) (q : Nat) (v : BitVec 32) : State :=
  if ¬ hasQueue s f q then s
  else
    let r := Reg.QP_CTL f.key q
    let was := s.bit r F.QP_CTL_ENABLE
    let st := qState s f q
    let s := s.wr r (r.written (s.rd r) (v.zeroExtend 64))
    let en := v.getLsbD 0
    if en ∧ st = 0 then
      let s := ringReset s f q
      let s := s.setQueue f q { Queue.init with seq := (s.queue f q).seq, past := (s.queue f q).past, ended := (s.queue f q).ended }
      startFetch (setQState (clearCount s f q) f q 1) f q
    else if ¬ en ∧ was ∧ st = 1 then
      let s := discardFetched s f q
      if spent s f q then disableQueue s f q else setQState s f q 3
    else if ¬ en ∧ was ∧ st = 2 then
      if queueBusy s f q then setQState (s.setQueue f q { s.queue f q with froze := true }) f q 3
      else disableQueue s f q
    else if v.getLsbD 1 ∧ st = 2 ∧ ¬ queueBusy s f q then
      let s := if v.getLsbD 2 then ringReset s f q else s
      startFetch (setQState (clearCount s f q) f q 1) f q
    else s

/-- QUEUE_ENABLE (R367). -/
def execQueueEnable (f : FnId) (q : Fin 16) (v : BitVec 32) (s : State) : Out := .next (qpCtl s f q v)
/-- QUEUE_DISABLE (R367). -/
def execQueueDisable (f : FnId) (q : Fin 16) (v : BitVec 32) (s : State) : Out := .next (qpCtl s f q v)
/-- QUEUE_RESTART (R368). -/
def execQueueRestart (f : FnId) (q : Fin 16) (v : BitVec 32) (s : State) : Out := .next (qpCtl s f q v)

/-- IDLE of a queue. -/
def setIdle (s : State) (f : FnId) (q n : Nat) : State := s.put (.QP_STATE f.key q) F.QP_STATE_IDLE n

/-- Whether a queue may enter idle state `n` (R370). -/
def mayIdle (s : State) (f : FnId) (q n : Nat) : Bool :=
  (s.queue f q).running.isEmpty && s.get (.QP_STATE f.key q) F.QP_STATE_IDLE + 1 == n &&
  decide (n ≤ s.get (.QP_CTL f.key q) F.QP_CTL_IDLE_MAX)

/-- QUEUE_IDLE_STATE_1 (R370). -/
def execQueueIdleState1 (f : FnId) (q : Fin 16) (s : State) : Out :=
  .next (if mayIdle s f q 1 then setIdle s f q 1 else s)
/-- QUEUE_IDLE_STATE_2 (R370). -/
def execQueueIdleState2 (f : FnId) (q : Fin 16) (s : State) : Out :=
  .next (if mayIdle s f q 2 then setIdle s f q 2 else s)
/-- QUEUE_IDLE_EXIT: the engine has left its idle state and carries out accepted slips (R370). -/
def execQueueIdleExit (f : FnId) (q : Fin 16) (s : State) : Out :=
  if (s.queue f q).running.isEmpty then .next s else .next (settle (setIdle s f q 0) f)

/-! ### Return slips and deferred errors (R347, R348, R359 to R361) -/

/-- A deferred error of a COPY_IN that has ended OK (R359 to R362). -/
def deferredError (s : State) (f : FnId) (q tag : Nat) (poisoned : Bool) (line : Nat) : State :=
  if qState s f q = 0 then s
  else
    match (s.queue f q).past.get? tag with
    | none => s
    | some e =>
      let st := if poisoned then 0x31 else 0x30
      let s := logError s f q st 1 e.1 e.2 (64 * line) (slipLen e.1)
      if extended s f then
        let x := s.queue f q
        if x.deferred.length < 8 then s.setQueue f q { x with deferred := x.deferred ++ [(tag, st)] }
        else signalError (s.setQueue f q { x with defLost := true }) f
      else (compactFreeze s f q).2

/-- DEFERRED_ERROR: WRITE_LOST or WRITE_POISONED found for a line of a COPY_IN after its return slip (R361). -/
def execDeferredError (f : FnId) (q : Fin 16) (tag : BitVec 16) (poisoned : Bool) (line : Nat) (s : State) : Out :=
  .next (deferredError s f q tag.toNat poisoned line)

/-- The bytes of a return slip (R347). -/
def retBytes (r : RetSlip) (head : Nat) (phase : Bool) (def_ : Option (Nat × Nat)) (defLost : Bool) : List Byte :=
  let flags := (if phase then 1 else 0) + (if def_.isSome then 2 else 0) + (if defLost then 4 else 0) + r.flags
  leBytes 4 (r.result % 2 ^ 32) ++ leBytes 2 (def_.elim 0 (·.1)) ++ leBytes 2 (def_.elim 0 (·.2)) ++ leBytes 2 head ++
    leBytes 2 (slipTag r.bits) ++ leBytes 2 r.status ++ leBytes 1 flags ++ leBytes 1 (slipOpcode r.bits)

/-- CSQ_INJECT reports its error for the function's next COPY_IN after its return slip (R372, R432). -/
def injectDeferred (s : State) (f : FnId) (q : Nat) (r : RetSlip) : State :=
  if slipOpcode r.bits ≠ 1 ∨ r.status ≠ 0 ∨ s.get .CSQ_INJECT F.CSQ_INJECT_FN ≠ f.key then s
  else
    let line := slipBase s f r.bits / 64
    let s :=
      if s.bit .CSQ_INJECT F.CSQ_INJECT_POISON then
        deferredError (s.put .CSQ_INJECT F.CSQ_INJECT_POISON 0) f q (slipTag r.bits) true line
      else s
    if s.bit .CSQ_INJECT F.CSQ_INJECT_LOST then
      deferredError (s.put .CSQ_INJECT F.CSQ_INJECT_LOST 0) f q (slipTag r.bits) false line
    else s

/-- Whether a return slip is due and may leave: the function may issue requests, the port can send, and the return slips of the
slips that a FENCE waited for have left (R335, R355). -/
def mayPost (s : State) (f : FnId) (q : Nat) : Bool :=
  match (s.queue f q).ended with
  | [] => false
  | r :: _ => fnMayIssue s f && portReady s (fnPort s f) &&
    r.after.all (fun w => (s.queue f w.1).ended.all (fun x => x.seq != some w.2))

/-- The oldest return slip leaves as one posted write with PHASE and, in extended mode, the oldest
deferred report; the queue's vector is signalled unless INT_OFF is set (R347, R348, R360). It is held while the
function may not issue requests or the port cannot send (R335), and while it must follow another (R355). -/
def postOne (f : FnId) (q : Nat) (s : State) : State :=
  let x := s.queue f q
  match x.ended with
  | [] => s
  | r :: t =>
    if ¬ mayPost s f q then s
    else
      let d := depthOf s f
      let tail := cqTail s f q
      let rep := x.deferred.head?
      let lost := rep.isSome && x.defLost
      let bs := retBytes r (sqHead s f q) x.phase rep lost
      let addr := s.get (.QP_CQ_BASE f.key q) F.QP_CQ_BASE_BASE * 16 + 16 * tail
      let past := if slipOpcode r.bits = 1 ∧ r.status = 0 then x.past.set (slipTag r.bits) (r.bits, r.index) else x.past
      let s := s.setQueue f q { x with
        ended := t, deferred := x.deferred.drop 1, defLost := x.defLost && !lost
        phase := if tail + 1 = d then !x.phase else x.phase, past := past }
      let s := (s.put (.QP_STATE f.key q) F.QP_STATE_CQ_TAIL ((tail + 1) % d)).countBlk 56 0x0503 1
      let s := sendTlp s (fnPort s f) (.write (fnPort8 s f) f addr bs false)
      let s := if s.bit (.QP_CTL f.key q) F.QP_CTL_INT_OFF then s else signal s f q
      let s := injectDeferred s f q r
      if qState s f q = 3 ∧ spent s f q then disableQueue s f q else s

/-- Return slips are posted in the order in which their slips ended; the queue then fetches on (R344, R354). -/
def postReturn (f : FnId) (q : Nat) (s : State) : State :=
  let s := settle s f
  if mayPost s f q then startFetch (postOne f q s) f q else s

/-- A function that can send again: the return slips that waited and their interrupts leave before any other request, then it goes
on (R335). -/
def wakeFn (s : State) (f : FnId) : State :=
  let queues := List.range (fnQueues s f)
  let s := overAll queues (fun s _ => overAll queues (fun s q =>
    overAll (List.range (s.queue f q).ended.length) (fun s _ => postOne f q s) s) s) s
  settle (kick (sendPending s f) f) f

/-- RETURN_SLIP_POST. -/
def execReturnSlipPost (f : FnId) (q : Fin 16) (s : State) : Out := .next (postReturn f q s)

/-! ### The mailbox of SET_STATE (R365, R372) -/

/-- The payload stands in the buffer: the slip is copied to CSQ_SS_SLIP, BUSY sets and source 32 + p arrives (R365). -/
def mailboxLoaded (s : State) (p q : Nat) (b : LineData) : State :=
  let s := overAll (List.range 8) (fun s k => s.wr (.CSQ_SS_SLIP p k) (BitVec.ofNat 64 (slipFld b (8 * k) 8))) s
  let s := s.wr (.CSQ_SS_STATE p) 0
  let s := s.put (.CSQ_SS_STATE p) F.CSQ_SS_STATE_BUSY 1
  let s := s.put (.CSQ_SS_STATE p) F.CSQ_SS_STATE_VF 0xFFF
  (s.put (.CSQ_SS_STATE p) F.CSQ_SS_STATE_QUEUE q).arrive (32 + p)

/-- Lines of the payload of port `p` have entered their slices: the mailbox is loaded with the last of them. -/
def payloadEntered (s : State) (p : Nat) : State :=
  match (s.port p).mailbox with
  | none => s
  | some (f, q, seq) =>
    if s.bit (.CSQ_SS_STATE p) F.CSQ_SS_STATE_BUSY ∨ ¬ (outMsgs s 24 (fun m => m.txn == txnOf 4 p)).isEmpty then s
    else
      match findSlip s f q seq with
      | some e => mailboxLoaded s p q e.bits
      | none => s

/-- SET_STATE_MAILBOX_LOAD: the mailbox of a port is free, so it takes the oldest waiting slip, and the payload is copied to the
buffer as requester 24; with no payload the slip is there at once (R365). -/
def execSetStateMailboxLoad (p : Fin 8) (payload : List Byte) (s : State) : Out :=
  let f : FnId := .pf p
  let cands := (List.range 16).flatMap (fun q => ((s.queue f q).running.filter (fun e =>
    slipOpcode e.bits == 7 && !e.started && mayStart s f q e)).map (fun e => (q, e)))
  match cands.find? (fun c => slipLen c.2.bits == payload.length) with
  | none => .next s
  | some (q, e) =>
    if s.bit (.CSQ_SS_STATE p) F.CSQ_SS_STATE_BUSY ∨ (s.port p).mailbox.isSome then .next s
    else
      let s := setSlip s f q { e with started := true }
      let s := s.setPort p { s.port p with mailbox := some (f, q, e.seq) }
      if payload.isEmpty then .next (mailboxLoaded s p q e.bits)
      else
        let base := s.get (.CSQ_SS_BUF p) F.CSQ_SS_BUF_BASE * 64
        .next (putTransfers s 24 (wrBytes 24 0 (txnOf 4 p) base payload))

/-- CSQ_SS_DONE_WRITE: the house supervisor ends the SET_STATE slip with its STATUS and RESULT, and BUSY clears (R365). -/
def execCsqSsDoneWrite (who : Agent) (p : Fin 8) (v : Word) (s : State) : Out :=
  if ¬ s.isHouse who ∨ ¬ s.bit (.CSQ_SS_STATE p) F.CSQ_SS_STATE_BUSY then .next s
  else
    let st := F.CSQ_SS_DONE_STATUS.get v
    let st := if st = 0 ∨ st = 3 ∨ st = 5 ∨ st = 0x13 then st else 0x13
    let s := (s.put (.CSQ_SS_STATE p) F.CSQ_SS_STATE_BUSY 0).put (.CSQ_SS_STATE p) F.CSQ_SS_STATE_ORPHAN 0
    match (s.port p).mailbox with
    | none => .next s
    | some (f, q, seq) =>
      let s := s.setPort p { s.port p with mailbox := none }
      .next (settle (s.endSlip f q seq st (F.CSQ_SS_DONE_RESULT.get v) 0) f)

/-- CSQ_SS_BUF_WRITE: BASE is stored; VALID where the 1 MiB buffer lies in an H[0] private window (R372). -/
def execCsqSsBufWrite (who : Agent) (p : Fin 8) (v : Word) (s : State) : Out :=
  if ¬ s.isHouse who then .next s
  else
    let base := F.CSQ_SS_BUF_BASE.get v
    let ok := match windowAt s (64 * base) with
      | some w => w.kind == 0 && w.mask.testBit 0 && decide (64 * base + 2 ^ 20 ≤ w.base + w.size)
      | none => false
    let s := s.put (.CSQ_SS_BUF p) F.CSQ_SS_BUF_BASE base
    .next (s.put (.CSQ_SS_BUF p) F.CSQ_SS_BUF_VALID (if ok then 1 else 0))

/-- A write to CSQ_INJECT by the house supervisor. -/
def csqInject (s : State) (who : Agent) (v : Word) : State :=
  if s.isHouse who then s.wr .CSQ_INJECT (Reg.CSQ_INJECT.written (s.rd .CSQ_INJECT) v) else s

/-- CSQ_INJECT_POISON (R372, R432). -/
def execCsqInjectPoison (who : Agent) (v : Word) (s : State) : Out := .next (csqInject s who v)
/-- CSQ_INJECT_LOST (R372, R432). -/
def execCsqInjectLost (who : Agent) (v : Word) (s : State) : Out := .next (csqInject s who v)

end Sys2Proof.Machine
end

