-- ==== Sys2Proof/Machine/Power.lean ====
section
/-! DEFINITION. The Scorekeeper: telemetry, authority and votes, power states, the wake ladder, thermal trips, the power
limit, operating points, issue levels, heat and energy (R131, R132, R409 to R430, R470), and the secure holds on IOD
blocks (R404, R405). -/

namespace Sys2Proof.Machine

/-! ### Votes and targets (R412 to R414) -/

/-- Whether the value of a port counts: its link is UP or in RECOVERY (R412). -/
def counts (s : State) (p : Nat) : Bool :=
  let st := s.get (.HP_LINK p) F.HP_LINK_STATE
  st == 3 || st == 4

/-- The authority port. -/
def authPort (s : State) : Nat := s.get .SCK_PKG F.SCK_PKG_AUTH_PORT

/-- V: the most awake vote among the counting ports other than the authority, 3 if there is none (R413). -/
def voteMin (s : State) : Nat :=
  ((List.range 8).filter (fun p => p != authPort s && counts s p)).foldl (fun v p =>
    min v (s.get (.PWR_PKG p) F.PWR_PKG_TARGET)) 3

/-- C: the package command. -/
def pkgCommand (s : State) : Nat := s.get (.PWR_PKG (authPort s)) F.PWR_PKG_TARGET

/-- max(C, D[d]): the command for a die. -/
def dieCommand (s : State) (d : Nat) : Nat := max (pkgCommand s) (s.get (.PWR_DIE (authPort s)) (F.PWR_DIE_DIE d))

/-- T_pkg (R413). -/
def pkgTarget (s : State) : Nat := if counts s (authPort s) then min (pkgCommand s) (voteMin s) else 0

/-- Whether a die holds a core in STARTING, RUNNING or STOPPING. -/
def dieBusy (s : State) (d : Nat) : Bool := (coresOnDie d).any (fun c => s.coreState c == 2 || s.coreState c == 3 || s.coreState c == 4)

/-- T[d] before the adjustments of R413. -/
def dieWish (s : State) (d : Nat) : Nat := if counts s (authPort s) then min (dieCommand s d) (voteMin s) else 0

/-- Whether a die is refused Out: its T[d] is 3 while T_pkg is below 3 and some of its cores run. -/
def dieRefused (s : State) (d : Nat) : Bool :=
  s.folio.dieEnabled d && dieWish s d == 3 && decide (pkgTarget s < 3) && dieBusy s d

/-- Whether a trip of the IOD sensors or of the inlet is in force (R420). -/
def iodForced (s : State) : Bool := s.power.iodTrip || s.power.inletTrip

/-- The target of a die with the adjustments of R413 and the forced state of R420. -/
def dieTarget (s : State) (d : Nat) : Nat :=
  if ¬ s.folio.dieEnabled d ∨ pkgTarget s = 3 then 3
  else
    let t := if dieRefused s d then 2 else dieWish s d
    if s.bit (.SCK_DIE d) F.SCK_DIE_TRIP ∨ iodForced s then max t 1 else t

/-! ### IOD blocks (R404, R405, R414) -/

/-- State of an IOD block: 0 to 15 channels, 16 to 31 home slices, 32 the fabric. -/
def blockState (s : State) (b : Nat) : Nat :=
  if b < 16 then s.get .SCK_IOD_STATE (F.SCK_IOD_STATE_CHANNEL b)
  else if b < 32 then s.get .SCK_IOD_STATE (F.SCK_IOD_STATE_SLICE (b - 16))
  else s.power.fabric

/-- An IOD block put into a state; in Out its contents are lost. -/
def setBlockState (s : State) (b n : Nat) : State :=
  if b < 16 then
    let s := if n = 3 ∧ blockState s b ≠ 3 then s.setChan b Chan.init else s
    s.put .SCK_IOD_STATE (F.SCK_IOD_STATE_CHANNEL b) n
  else if b < 32 then
    let s := if n = 3 ∧ blockState s b ≠ 3 then s.setSlice (b - 16) Slice.init else s
    s.put .SCK_IOD_STATE (F.SCK_IOD_STATE_SLICE (b - 16)) n
  else { s with power := { s.power with fabric := n } }

/-- Whether a channel holds vault contents (R397). -/
def vaultChan (s : State) (b : Nat) : Bool := decide (b < 16) && (s.get .ARC_VAULT F.ARC_VAULT_CHANNELS).testBit b

/-- Whether a block is under a secure hold. -/
def isHeld (s : State) (b : Nat) : Bool := (s.rd .ARC_HOLD).getLsbD b

/-- Whether SECURE_PREEMPT names a block. -/
def isPreempted (s : State) (b : Nat) : Bool := (s.rd .ARC_PREEMPT).getLsbD b

/-- Target of an IOD block: T_pkg as SCK_PKG shows it, deepened by a trip; a disabled channel stays Out, a channel with vault
contents goes no lower than Fold (R405, R414). -/
def blockTarget (s : State) (b : Nat) : Nat :=
  let t := s.get .SCK_PKG F.SCK_PKG_TARGET
  let t := if t ≤ 1 then 0 else t
  let t := if iodForced s then max t 2 else t
  if b < 16 ∧ ¬ s.folio.chanEnabled b then 3 else if vaultChan s b then min t 2 else t

/-- Whether a request for a block returns HELD: a hold, or an Out that vault contents turn into Fold. -/
def returnsHeld (s : State) (b : Nat) : Bool :=
  (isHeld s b && decide (blockState s b < blockTarget s b)) || (vaultChan s b && s.get .SCK_PKG F.SCK_PKG_TARGET == 3)

/-- A bit of SCK_ERR sets with its class: 26 for the thermal bits, 27 for the others; a condition that goes on is one
event (R434). -/
def sckErr (s : State) (b sev : Nat) : State :=
  if (s.rd .SCK_ERR).getLsbD b then s
  else s.raise .SCK_ERR b (if b = 0 ∨ b = 2 ∨ b = 3 then 26 else 27) 0x2800 none sev 0

/-- The IOD blocks go down: each that is not held, once every die has reached T_pkg or is deeper, or at once under a trip
(DESIGN CHOICE: the write-backs of R416 need them). -/
def lowerBlocks (s : State) : State :=
  let t := s.get .SCK_PKG F.SCK_PKG_TARGET
  let deep := (List.range 16).all (fun d => decide (t ≤ s.get (.SCK_DIE d) F.SCK_DIE_STATE) || !s.folio.dieEnabled d)
  overAll (List.range 33) (fun s b =>
    if blockTarget s b ≤ blockState s b ∨ isHeld s b then s
    else if deep then setBlockState s b (blockTarget s b)
    else if iodForced s then setBlockState s b (max (blockState s b) 2)
    else s) s

/-- SCK_PKG.STATE and HELD (R413): STATE reads T_pkg once every unit that no hold keeps up has reached its target. -/
def updatePkg (s : State) : State :=
  let t := s.get .SCK_PKG F.SCK_PKG_TARGET
  let held := (List.range 33).any (returnsHeld s)
  let s := s.put .SCK_PKG F.SCK_PKG_HELD (if held then 1 else 0)
  let done := (List.range 16).all (fun d => decide (t ≤ s.get (.SCK_DIE d) F.SCK_DIE_STATE)) &&
    (List.range 33).all (fun b => decide (blockTarget s b ≤ blockState s b) || isHeld s b)
  if done ∧ s.get .SCK_PKG F.SCK_PKG_STATE ≠ t then (s.put .SCK_PKG F.SCK_PKG_STATE t).arrive 64 else s

/-! ### The wake ladder (R418, R419, R470) -/

/-- The point a die runs at: the lower of OP_REQ and the cap; a pinned die keeps its point (R424). -/
def pointOf (s : State) (d : Nat) : Nat :=
  let r := Reg.SCK_DIE d
  if s.bit r F.SCK_DIE_PINNED then s.get r F.SCK_DIE_OP_REQ
  else min (s.get r F.SCK_DIE_OP_REQ) (s.get r F.SCK_DIE_OP_CAP)

/-- The ladder step of R418 that a step of the model belongs to. -/
def ladderStep (k : Nat) : Nat := if k ≤ 4 then k else if k ≤ 8 then 5 else k - 3

/-- A ladder step begins (R418, R470). -/
def beginStep (s : State) (d k : Nat) : State :=
  let x := s.die d
  let s := s.setDie d { x with wake := some k }
  let s := s.put (.SCK_DIE d) F.SCK_DIE_LADDER (ladderStep k + 1)
  let x := s.die d
  if k = 0 then s.setDie d { x with settling := true }
  else if k = 2 then
    let v := pointOf s d
    s.setDie d { x with settling := decide (x.vsel ≠ v), vsel := v }
  else if k = 3 then setLinkState s d 1
  else if 5 ≤ k ∧ k ≤ 8 then
    overAll ((coresOnDie d).filter (fun c => c % 24 / 6 == k - 5)) (fun s c => s.setCore c { s.core c with level := 0 }) s
  else if k = 9 then
    let s := s.put (.CORE_DIE_OP d) F.CORE_DIE_OP_CUR 0
    (s.put (.CORE_DIE_OP d) F.CORE_DIE_OP_TARGET x.vsel).put (.CORE_DIE_OP d) F.CORE_DIE_OP_STEP 1
  else s

/-- The ladder of a die ends. -/
def endLadder (s : State) (d : Nat) : State :=
  (s.setDie d { s.die d with wake := none }).put (.SCK_DIE d) F.SCK_DIE_LADDER 0

/-- A die in service moves towards its target: a rise enters the ladder; a die in Out whose target is Fold stays there
(DESIGN CHOICE). A descent waits for DIE_PASS_REACHED and DIE_FOLD_REACHED. -/
def steerDie (s : State) (d : Nat) : State :=
  let st := s.get (.SCK_DIE d) F.SCK_DIE_STATE
  let t := s.get (.SCK_DIE d) F.SCK_DIE_TARGET
  if dieState s d ≠ 1 ∨ (s.die d).wake.isSome ∨ st ≤ t then s
  else if st = 1 then beginStep s d 5
  else if st = 2 then beginStep s d 2
  else if t ≤ 1 then beginStep s d 0
  else s

/-! ### Recomputing the targets (R413, R429) -/

/-- SCK_VOTE of a port; source 96 + p arrives when the value that counts changes. -/
def setVote (s : State) (p : Nat) : State :=
  let r := Reg.SCK_VOTE p
  let auth := decide (p = authPort s)
  let c := counts s p
  let pkg := s.get (.PWR_PKG p) F.PWR_PKG_TARGET
  let die := if auth then (s.rd (.PWR_DIE p)).toNat % 2 ^ 32 else 0
  let was := if s.bit r F.SCK_VOTE_COUNTS then some (s.get r F.SCK_VOTE_PKG, s.get r F.SCK_VOTE_DIE) else none
  let s := s.put r F.SCK_VOTE_DIE die
  let s := ((s.put r F.SCK_VOTE_AUTH (if auth then 1 else 0)).put r F.SCK_VOTE_COUNTS (if c then 1 else 0)).put r F.SCK_VOTE_PKG pkg
  if was = (if c then some (pkg, die) else none) then s else s.arrive (96 + p)

/-- The targets recomputed after a change of a command, a vote, a trip or a folio leaf, and the units set moving. Package Out
is left only through a package reset (R414). -/
def retarget (s : State) : State :=
  let s := overAll (List.range 8) setVote s
  if s.get .SCK_PKG F.SCK_PKG_STATE = 3 then s
  else
    let t := pkgTarget s
    let old := (List.range 33).map (blockTarget s)
    let s := if s.get .SCK_PKG F.SCK_PKG_TARGET = t then s else (s.put .SCK_PKG F.SCK_PKG_TARGET t).arrive 65
    let n := (List.range 8).foldl (fun n p => if counts s p then n + 2 ^ p else n) 0
    let s := (s.put .SCK_PKG F.SCK_PKG_COUNTING n).put .SCK_PKG F.SCK_PKG_VOTE_MIN (voteMin s)
    let up := counts s (authPort s)
    let s := (s.put .SCK_PKG F.SCK_PKG_AUTH_UP (if up then 1 else 0)).put .SCK_PKG F.SCK_PKG_COMMAND
      (if up then pkgCommand s else 0)
    let forced := iodForced s || (List.range 16).any (fun d => s.bit (.SCK_DIE d) F.SCK_DIE_TRIP)
    let s := s.put .SCK_PKG F.SCK_PKG_FORCED (if forced then 1 else 0)
    let s := overAll (List.range 16) (fun s d =>
      let ref := dieRefused s d
      let s := if ref ∧ ¬ s.bit (.SCK_DIE d) F.SCK_DIE_REFUSED then s.raise .SCK_ERR 8 27 0x2800 none 1 0 else s
      let s := s.put (.SCK_DIE d) F.SCK_DIE_REFUSED (if ref then 1 else 0)
      let s := s.put (.SCK_DIE d) F.SCK_DIE_CMD (if up then dieCommand s d else 0)
      let s := s.put (.SCK_DIE d) F.SCK_DIE_TARGET (dieTarget s d)
      steerDie s d) s
    let s := overAll (List.range 33) (fun s b =>
      if returnsHeld s b ∧ old.getD b 0 ≠ blockTarget s b ∧ ¬ iodForced s then
        (sckErr s 1 0).raise .ARC_ERR 0 24 0x2700 none 0 0
      else s) s
    updatePkg (lowerBlocks s)

/-! ### The page of a port (R412, R413) -/

/-- PWR_PKG_WRITE: the host of a port writes its command or vote. -/
def execPwrPkgWrite (p : Fin 8) (v : Word) (s : State) : Out :=
  if s.folio.portEnabled p then .next (retarget (s.put (.PWR_PKG p) F.PWR_PKG_TARGET (F.PWR_PKG_TARGET.get v))) else .next s

/-- PWR_DIE_WRITE: on the authority port only; other ports' writes are ignored. -/
def execPwrDieWrite (p : Fin 8) (v : Word) (s : State) : Out :=
  if s.folio.portEnabled p ∧ p.val = authPort s then
    .next (retarget (s.wr (.PWR_DIE p) (v &&& 0xFFFFFFFF)))
  else .next s

/-! ### Going down (R415, R416) -/

/-- DIE_PASS_REACHED: no miss of the die is outstanding, so its clocks are gated (R415). -/
def execDiePassReached (d : Fin 16) (s : State) : Out :=
  if s.get (.SCK_DIE d) F.SCK_DIE_STATE = 0 ∧ 1 ≤ s.get (.SCK_DIE d) F.SCK_DIE_TARGET ∧ (s.die d).misses = [] ∧
      dieState s d = 1 then
    .next (updatePkg (lowerBlocks (setDiePower s d 1)))
  else .next s

/-- The write-backs of a descent as far as the buffers allow: merging buffers drain, lines leave (R416). -/
def foldWork (s : State) (d : Nat) : State :=
  let s := overAll (coresOnDie d) drainAll s
  overAll (s.die d).l3 (fun s e =>
    match l3Find s d e.line with
    | some x => if (s.die d).wb.length < 32 ∧ ¬ (s.die d).misses.any (fun m => m.line == e.line) then evictL3 s d 24 x else s
    | none => s) s

/-- Whether a descent has nothing left to write back, and every acknowledgement has arrived. -/
def foldDone (s : State) (d : Nat) : Bool :=
  let k := s.die d
  k.l3.isEmpty && k.wb.isEmpty && k.misses.isEmpty && k.retry.isEmpty && k.partials.isEmpty && k.ops.isEmpty &&
  (coresOnDie d).all (drained s)

/-- What a core keeps in Fold: architectural state, ledger buffer, mailbox, SACC (R410). -/
def foldCore (k : Core) : Core :=
  { k with itlb := [], dtlb := [], l2tlb := [], walks := [], gwalks := [], l1i := [], l1d := [], l2 := [], waits := []
           resv := none, defer := none, level := 0 }

/-- A die in Fold whose target is Out loses its rail and its state (R416); the values of R47 are recorded. -/
def enterOut (s : State) (d : Nat) : State :=
  if s.get (.SCK_DIE d) F.SCK_DIE_TARGET ≠ 3 then s
  else
    let cap := (s.rd (.DL_FEAT_EFF d), BitVec.ofNat 64 (s.get (.DL_CAP_DIE d) F.DL_CAP_DIE_CORE_GOOD))
    let s := s.setDie d { Die.init with capOld := some cap, since := (s.die d).since }
    let s := overAll (coresOnDie d) (fun s c => s.setCore c Core.init) s
    let s := (s.put (.CORE_DIE_OP d) F.CORE_DIE_OP_CUR 0).put (.CORE_DIE_OP d) F.CORE_DIE_OP_TARGET 0
    setDiePower s d 3

/-- DIE_FOLD_REACHED: the Shelver is not busy and no addendum is PENDING, so the die writes back; when the last
acknowledgement has arrived it retains its state and stops its link, and goes on to Out where its target is Out (R416). -/
def execDieFoldReached (d : Fin 16) (s : State) : Out :=
  let st := s.get (.SCK_DIE d) F.SCK_DIE_STATE
  if s.get (.SCK_DIE d) F.SCK_DIE_TARGET < 2 ∨ dieState s d ≠ 1 ∨ (s.die d).wake.isSome then .next s
  else if st = 2 then .next (updatePkg (lowerBlocks (enterOut s d)))
  else if st ≠ 1 ∨ (s.die d).shv.isSome ∨ s.get .FOL_ADD_STATE F.FOL_ADD_STATE_STATE = 3 then .next s
  else
    let s := foldWork s d
    if ¬ foldDone s d then .next s
    else
      let s := overAll (coresOnDie d) (fun s c => s.setCore c (foldCore (s.core c))) s
      let s := (s.setLink d .up Link.init).setLink d .dn Link.init
      let s := (setLinkState s d 0).put (.DL_STATUS d) F.DL_STATUS_HB_OK 0
      .next (updatePkg (lowerBlocks (enterOut (setDiePower s d 2) d)))

/-! ### Coming up -/

/-- The condition of a ladder step (R418, R470). -/
def stepReady (s : State) (d k : Nat) : Bool :=
  if k = 0 ∨ k = 2 then !(s.die d).settling
  else if k = 4 then linkState s d == 2
  else if k = 9 then s.get (.CORE_DIE_OP d) F.CORE_DIE_OP_STEP == 0
  else true

/-- A target lowered while a die is on the ladder takes effect at the end of a step (R419): before the link is up the die
falls back, after it the die is in Pass. -/
def fallBack (s : State) (d k : Nat) : State :=
  let s := endLadder s d
  if k < 4 then
    let s := if k = 3 then setLinkState s d 0 else s
    let x := s.die d
    s.setDie d { x with settling := false, vsel := if s.get (.SCK_DIE d) F.SCK_DIE_STATE = 3 then 0 else x.vsel }
  else setDiePower s d 1

/-- Whether the target of a die has been lowered below what the step before it serves. -/
def lowered (s : State) (d k : Nat) : Bool :=
  let t := s.get (.SCK_DIE d) F.SCK_DIE_TARGET
  (s.die d).rejoin == 0 && (if k < 4 then decide (2 ≤ t) else decide (1 ≤ t))

/-- The step after another: the ramp is skipped from Pass and for code 0. -/
def nextStep (s : State) (d k : Nat) : Nat :=
  if k = 8 ∧ (s.get (.SCK_DIE d) F.SCK_DIE_STATE = 1 ∨ (s.die d).vsel = 0) then 10 else k + 1

/-- A step that the governor delayed: WAKE_STALL sets (R425; log entry 55). -/
def governed (s : State) (delayed : Bool) : State := if delayed then sckErr s 10 0 else s

/-- WAKE_STEP_END: a step has lasted its time and its condition holds, so the next begins (R418). The IOD blocks reach Play
before step 3 of any die (R419). After step 7 the die is in Play. -/
def execWakeStepEnd (o : GovStep) (s : State) : Out :=
  let d := o.d
  match (s.die d).wake with
  | none => .next s
  | some k =>
    if ¬ stepReady s d k then .next s else
    let s := governed s o.delayed
    if lowered s d k then .next (updatePkg (lowerBlocks (fallBack s d k)))
    else if k = 2 ∧ (List.range 33).any (fun b => blockTarget s b == 0 && blockState s b != 0) then .next s
    else if k = 10 then
      let s := setDiePower (endLadder s d) d 0
      let x := s.die d
      .next (updatePkg (s.setDie d { x with
        rejoin := if x.rejoin = 2 then 3 else x.rejoin, capOld := if x.rejoin = 0 then none else x.capOld }))
    else .next (beginStep s d (nextStep s d k))

/-- IOD_BLOCK_PLAY: a block rising from Fold reaches Play, because it is its target or because a hold was set on it while it left
Play and no trip forces it (R404, R420); the hold is acknowledged then (R404, R419). Messages that a
slice held back enter. -/
def execIodBlockPlay (b : Fin 33) (s : State) : Out :=
  if blockState s b = 2 ∧ (blockTarget s b = 0 ∨ (isHeld s b ∧ ¬ iodForced s)) then
    let s := setBlockState s b 0
    let s := if isHeld s b then s.wr .ARC_HOLD_ACK (s.rd .ARC_HOLD_ACK ||| BitVec.ofNat 64 (2 ^ b.val)) else s
    let s :=
      if 16 ≤ b.val ∧ b.val < 32 then
        let x := s.slice (b.val - 16)
        if x.suspend then s else overAll x.held enterSlice (s.setSlice (b.val - 16) { x with held := [] })
      else s
    .next (updatePkg s)
  else .next s

/-- VOLTAGE_SETTLED: CD_PG is high, so the rail is in tolerance; a raise of the point goes on to its ramp (R423, R470). -/
def execVoltageSettled (d : Fin 16) (s : State) : Out :=
  let x := s.die d
  if ¬ x.settling then .next s
  else
    let s := s.setDie d { x with settling := false }
    let r := Reg.CORE_DIE_OP d
    if x.wake = none ∧ s.get r F.CORE_DIE_OP_STEP = 0 ∧ s.get r F.CORE_DIE_OP_CUR < s.get r F.CORE_DIE_OP_TARGET then
      .next (s.put r F.CORE_DIE_OP_STEP 1)
    else .next s

/-- CD_PG_TIMEOUT: CD_PG stays low for 1 ms, so the die stays in Out and its link fails training step 1 with CLK_LOST
(R470, R41). -/
def execCdPgTimeout (d : Fin 16) (s : State) : Out :=
  let x := s.die d
  if x.wake = some 0 ∧ x.settling then
    let s := endLadder (s.setDie d { x with settling := false }) d
    .next (refuseDie (linkErr (setLinkState s d 0) d 8 3 3) d)
  else .next s

/-- DIE_LINK_UP: training step 5 ends for the link of a die that leaves Fold: sequence numbers at 0, FIFO at 4, HB_OK, UP
(R41); the repair state and DL_FEAT_EFF are kept (R40, R418). From Out the whole training, step 5 with it, is LINK_TRAINING. -/
def execDieLinkUp (d : Fin 16) (s : State) : Out :=
  if linkState s d ≠ 1 ∨ s.get (.SCK_DIE d) F.SCK_DIE_STATE ≠ 2 then .next s
  else
    let keep (dir : Dir) : Link := { Link.trained with rises := (s.link d dir).rises }
    let s := (s.setLink d .up (keep .up)).setLink d .dn (keep .dn)
    let s := setFill (setFill s d .up 4) d .dn 4
    .next (setLinkState (s.put (.DL_STATUS d) F.DL_STATUS_HB_OK 1) d 2)

/-! ### Operating points (R131, R132, R422 to R424) -/

/-- OP_CHANGE_START: the point of a die in Play or Pass is not the one it should run at, so the change begins: the voltage
first when it rises, the ramp first when it falls (R423). A pinned die never changes (R131). The change is a message of the
Scorekeeper down the die's link, requester 18 (R96). -/
def execOpChangeStart (o : GovStep) (target : BitVec 2) (s : State) : Out :=
  let d := o.d
  let r := Reg.CORE_DIE_OP d
  let cur := s.get r F.CORE_DIE_OP_CUR
  let x := s.die d
  let t := target.toNat
  if s.bit r F.CORE_DIE_OP_PINNED ∨ t ≠ pointOf s d ∨ t = cur ∨ s.get r F.CORE_DIE_OP_TARGET ≠ cur ∨ x.wake.isSome ∨
      1 < s.get (.SCK_DIE d) F.SCK_DIE_STATE then .next s
  else
    let s := mgmtSend ((governed s o.delayed).put r F.CORE_DIE_OP_TARGET t) (0x10 + d) 18
    if cur < t then .next (s.setDie d { x with vsel := t, settling := true })
    else .next (s.put r F.CORE_DIE_OP_STEP 1)

/-- OP_RAMP_STEP: one of the 16 ramp steps ends; after the last the point is reached, and a fall sets its voltage (R132,
R423). -/
def execOpRampStep (o : GovStep) (s : State) : Out :=
  let d := o.d
  let r := Reg.CORE_DIE_OP d
  let n := s.get r F.CORE_DIE_OP_STEP
  if n = 0 then .next s else
  let s := governed s o.delayed
  if n < 16 then .next (s.put r F.CORE_DIE_OP_STEP (n + 1))
  else
    let t := s.get r F.CORE_DIE_OP_TARGET
    let down := decide (t < s.get r F.CORE_DIE_OP_CUR)
    let s := (s.put r F.CORE_DIE_OP_STEP 0).put r F.CORE_DIE_OP_CUR t
    if down then .next (s.setDie d { s.die d with vsel := t, settling := true }) else .next s

/-- OP_REQ_WRITE: H[0] rewrites OP_REQ of an open die (R424). -/
def execOpReqWrite (who : Agent) (d : Fin 16) (v : Word) (s : State) : Out :=
  if s.isHouse who ∧ ¬ s.bit (.SCK_DIE d) F.SCK_DIE_PINNED then
    .next (s.put (.SCK_DIE d) F.SCK_DIE_OP_REQ (F.SCK_DIE_OP_REQ.get v))
  else .next s

/-- ISSUE_LEVEL_GRANT: a running core rises by one of the eight levels (R425). -/
def execIssueLevelGrant (c : Fin 384) (s : State) : Out :=
  let k := s.core c
  if s.runs c ∧ k.level < 7 then .next (s.setCore c { k with level := k.level + 1 }) else .next s

/-- ISSUE_LEVEL_RESET: a core that issued nothing for 1 µs returns to level 0 (R425). -/
def execIssueLevelReset (c : Fin 384) (s : State) : Out := .next (s.setCore c { s.core c with level := 0 })

/-! ### Telemetry and trips (R409, R410, R420) -/

/-- Temperature at which a die is handled: 100.0 °C while its telemetry is lost (R410). -/
def dieTemp (s : State) (d : Nat) : Nat :=
  if (s.die d).telLost then 1000 else s.get (.SCK_DIE_TEL d) F.SCK_DIE_TEL_TJ

/-- The suit's hottest sensor. -/
def suitTemp (s : State) (k : Nat) : Nat :=
  (List.range 4).foldl (fun m i => max m (s.get (.SCK_DIE_TEL (4 * k + i)) F.SCK_DIE_TEL_TJ)) 0

/-- TELEMETRY_RECORD: the record of a die in Play or Pass replaces the latest one (R409). SCK_INJECT discards it, or reads it
as 105.0 °C (R432). The record leaves the die as a message of die management, requester 26 (R96). -/
def execTelemetryRecord (d : Fin 16) (t : Telem) (s : State) : Out :=
  let named := s.get .SCK_INJECT F.SCK_INJECT_DIE = d.val
  if 1 < s.get (.SCK_DIE d) F.SCK_DIE_STATE then .next s
  else
  let s := mgmtSend s d 26
  if s.bit .SCK_INJECT F.SCK_INJECT_TELEM ∧ named then
    let n := s.power.telemDrop - 1
    let s := { s with power := { s.power with telemDrop := n } }
    .next (if n = 0 then s.put .SCK_INJECT F.SCK_INJECT_TELEM 0 else s)
  else
    let trip := s.bit .SCK_INJECT F.SCK_INJECT_TRIP && decide named
    let s := if trip then s.put .SCK_INJECT F.SCK_INJECT_TRIP 0 else s
    let tj := if trip then 1050 else t.tj.toNat
    let r := Reg.SCK_DIE_TEL d
    let s := ((s.put r F.SCK_DIE_TEL_VOLT t.volt.toNat).put r F.SCK_DIE_TEL_CURRENT t.current.toNat).put r F.SCK_DIE_TEL_TJ tj
    let s := s.setDie d { s.die d with telAt := s.mtime, telLost := false }
    .next (s.put (.SCK_SUIT (d.val / 4)) F.SCK_SUIT_TJ_MAX (suitTemp s (d.val / 4)))

/-- TELEMETRY_LOST: the record of a die in Play or Pass is more than 30 µs old (R410). -/
def execTelemetryLost (d : Fin 16) (s : State) : Out :=
  if (s.die d).telAt + 3000 < s.mtime ∧ s.get (.SCK_DIE d) F.SCK_DIE_STATE ≤ 1 ∧ ¬ (s.die d).telLost then
    .next ((s.setDie d { s.die d with telLost := true }).raise .SCK_ERR 7 27 0x2800 none 1 0)
  else .next s

/-- Whether a die is open: not PINNED. -/
def openDie (s : State) (d : Nat) : Bool := !s.bit (.CORE_DIE_OP d) F.CORE_DIE_OP_PINNED

/-- An open die above code 0 is lowered by one point: its cap falls, and source 66 arrives (R420, R421, R429). -/
def lowerDie (s : State) (d : Nat) : State := (s.put (.SCK_DIE d) F.SCK_DIE_OP_CAP (pointOf s d - 1)).arrive 66

/-- THERMAL_THROTTLE: an open die at 100.0 °C or above is lowered, down to code 0 (R420). -/
def execThermalThrottle (d : Fin 16) (s : State) : Out :=
  if openDie s d ∧ 1000 ≤ dieTemp s d ∧ s.get (.SCK_DIE d) F.SCK_DIE_STATE ≤ 1 then
    let s := s.put (.SCK_DIE d) F.SCK_DIE_THROTTLE 1
    let s := s.raise .SCK_ERR 3 26 0x2800 none 1 0
    .next (if 0 < pointOf s d then lowerDie s d else s)
  else .next s

/-- A die in Play forced to Pass: the force takes effect at once and leaves its caches in place (R420). -/
def forcePass (s : State) (d : Nat) : State :=
  if s.get (.SCK_DIE d) F.SCK_DIE_STATE = 0 then setDiePower s d 1 else s

/-- DIE_TRIP: a die at 105.0 °C or above is forced to Pass, and TRIP is set (R420). -/
def execDieTrip (d : Fin 16) (s : State) : Out :=
  if 1050 ≤ s.get (.SCK_DIE_TEL d) F.SCK_DIE_TEL_TJ ∧ ¬ s.bit (.SCK_DIE d) F.SCK_DIE_TRIP then
    let s := s.put (.SCK_DIE d) F.SCK_DIE_TRIP 1
    let s := s.raise .SCK_ERR 2 26 0x2800 none 1 0
    .next (retarget (forcePass s d))
  else .next s

/-- A trip of the IOD: every die to Pass, slices, fabric and channels to Fold; held blocks receive SECURE_PREEMPT and their
grace (R405, R420). -/
def iodTrip (s : State) (cause : TripCause) : State :=
  let p := s.power
  let s := { s with power := (match cause with
    | .iodSensor => { p with iodTrip := true }
    | .inlet => { p with inletTrip := true }) }
  let s := s.raise .SCK_ERR 2 26 0x2800 none 1 0
  let held := (List.range 33).filter (fun b => isHeld s b && blockState s b == 0)
  let s :=
    if held = [] then s
    else
      let m := held.foldl (fun n b => n + 2 ^ b) 0
      let s := s.wr .ARC_PREEMPT (s.rd .ARC_PREEMPT ||| BitVec.ofNat 64 m)
      { s with power := { s.power with preempt := some s.mtime } }
  retarget (overAll (List.range 16) forcePass s)

/-- IOD_TRIP (R420): the inlet trips at 80.0 °C; that an IOD sensor reads 105.0 °C is the sender's word. -/
def execIodTrip (cause : TripCause) (s : State) : Out :=
  if cause = .inlet ∧ s.get .SCK_COOLANT F.SCK_COOLANT_INLET < 800 then .next s else .next (iodTrip s cause)

/-- TRIP_RELEASE: a unit has stayed at or below its release temperature for 1 ms and returns to its target (R420). -/
def execTripRelease (u : TripUnit) (s : State) : Out :=
  match u with
  | .die d =>
    if s.bit (.SCK_DIE d) F.SCK_DIE_TRIP ∧ s.get (.SCK_DIE_TEL d) F.SCK_DIE_TEL_TJ ≤ 950 then
      .next (retarget (s.put (.SCK_DIE d) F.SCK_DIE_TRIP 0))
    else .next s
  | .iod => .next (retarget { s with power := { s.power with iodTrip := false } })
  | .inlet =>
    if s.get .SCK_COOLANT F.SCK_COOLANT_INLET ≤ 750 then
      .next (retarget { s with power := { s.power with inletTrip := false } })
    else .next s

/-- THERMTRIP: a sensor at 115.0 °C or above latches THERMTRIP_L, and the management port raises its in-band interrupt
(R420, R473). -/
def execThermtrip (s : State) : Out :=
  if s.bit .SCK_ERR F.SCK_ERR_THERMTRIP then .next s
  else .next ((s.raise .SCK_ERR 0 26 0x2800 none 3 0).emit (.ibi 3))

/-! ### The power limit and heat (R421, R422, R428) -/

/-- The effective limit of R421. -/
def effLimit (s : State) : Nat := s.folio.power.limit - 25 * ((s.get .SCK_COOLANT F.SCK_COOLANT_INLET - 650) / 10)

/-- The inlet temperature read: INLET_HIGH, DERATED and the effective limit follow it (R421). -/
def setInlet (s : State) (t : Nat) : State :=
  let was := s.get .SCK_LIMIT F.SCK_LIMIT_LIMIT_W
  let s := s.put .SCK_COOLANT F.SCK_COOLANT_INLET t
  let s := s.put .SCK_LIMIT F.SCK_LIMIT_DERATED (if 650 < t then 1 else 0)
  let s := if 650 < t then sckErr s 5 0 else s
  let s := s.put .SCK_LIMIT F.SCK_LIMIT_LIMIT_W (effLimit s)
  if s.get .SCK_LIMIT F.SCK_LIMIT_LIMIT_W = was then s else s.arrive 66

/-- The open die of highest power above code 0; the lower number on equal power (R421). -/
def lowerable (s : State) (dies : List Nat) : Option Nat :=
  ((List.range 16).filter (fun d =>
    openDie s d && decide (0 < pointOf s d) && decide (s.get (.SCK_DIE d) F.SCK_DIE_STATE ≤ 1))).foldl (fun b d =>
    match b with
    | none => some d
    | some e => if dies.getD e 0 < dies.getD d 0 then some d else some e) none

/-- Lowers a die, at most one every 100 µs. -/
def lowerOne (s : State) (d : Nat) : State :=
  if s.mtime + 1 < s.power.lowerAt + 10000 then s
  else lowerDie { s with power := { s.power with lowerAt := s.mtime + 1 } } d

/-- POWER_LIMIT_CHECK: the 1 ms average is compared with the effective limit, and the outlet with its target (R421); the
energy drawn is added to SCK_ENERGY (R428). -/
def execPowerLimitCheck (m : PowerSample) (s : State) : Out :=
  let s := s.wr .SCK_ENERGY (s.rd .SCK_ENERGY + BitVec.ofNat 64 m.energyMj)
  let s := s.put .SCK_LIMIT F.SCK_LIMIT_POWER_W (min m.watts 0xFFFF)
  let s := overAll (List.range 4) (fun s k => s.put (.SCK_SUIT k) F.SCK_SUIT_POWER_W (min (m.suits.getD k 0) 0xFFFF)) s
  let s := setInlet s (s.get .SCK_COOLANT F.SCK_COOLANT_INLET)
  let above := decide (effLimit s < m.watts)
  let hot := decide (s.folio.power.outlet ≠ 0) && decide (s.folio.power.outlet < s.get .SCK_COOLANT F.SCK_COOLANT_OUTLET)
  let v := lowerable s m.dies
  let s := s.put .SCK_LIMIT F.SCK_LIMIT_OVER_LIMIT (if above ∧ v = none then 1 else 0)
  let s := if above ∧ v = none then sckErr s 4 0 else s
  let s := if hot ∧ v = none then sckErr s 6 0 else s
  match v with
  | some d =>
    if above ∨ hot then
      let s := if hot then s.put .SCK_LIMIT F.SCK_LIMIT_OUTLET_CAP 1 else s
      .next (lowerOne s d)
    else .next s
  | none => .next s

/-- OP_RISE_CHECK: a lowered die rises by one point, at most every 10 ms, while the package is 5% below its limit, the outlet
at or below its target, and the die at or below 98.0 °C (R422). At OP_REQ its cap is released. -/
def execOpRiseCheck (d : Fin 16) (s : State) : Out :=
  let r := Reg.SCK_DIE d
  let cap := s.get r F.SCK_DIE_OP_CAP
  let req := s.get r F.SCK_DIE_OP_REQ
  let cool := s.folio.power.outlet = 0 ∨ s.get .SCK_COOLANT F.SCK_COOLANT_OUTLET ≤ s.folio.power.outlet
  if cap < req ∧ s.get .SCK_LIMIT F.SCK_LIMIT_POWER_W * 100 ≤ effLimit s * 95 ∧ cool ∧ dieTemp s d ≤ 980 ∧
      ¬ (s.mtime + 1 < (s.die d).riseAt + 1000000) then
    let s := s.setDie d { s.die d with riseAt := s.mtime + 1 }
    let n := cap + 1
    if req ≤ n then
      let s := (s.put r F.SCK_DIE_OP_CAP 3).put r F.SCK_DIE_THROTTLE 0
      let any := (List.range 16).any (fun e => decide (s.get (.SCK_DIE e) F.SCK_DIE_OP_CAP < 3))
      let s := if any then s else s.put .SCK_LIMIT F.SCK_LIMIT_OUTLET_CAP 0
      .next (s.arrive 66)
    else .next ((s.put r F.SCK_DIE_OP_CAP n).arrive 66)
  else .next s

/-- Whether any unit is in Play. -/
def anyPlay (s : State) : Bool :=
  (List.range 16).any (fun d => s.get (.SCK_DIE d) F.SCK_DIE_STATE == 0) || (List.range 33).any (fun b => blockState s b == 0)

/-- Joules carried in parts of 6 × 10^8: FLOW / 60,000 × HEAT_CAP × (outlet - inlet) in 0.1 °C × 0.001 s (R428). -/
def heatUnit : Int := 600000000

/-- HEAT_ACCOUNT: the coolant sensors are read and the heat exported is added to SCK_HEAT, or NO_FLOW is set (R428).
SCK_INJECT.INLET reads the inlet as 66.0 °C for 10 ms (R432). -/
def execHeatAccount (inlet outlet : BitVec 16) (s : State) : Out :=
  let inj := s.bit .SCK_INJECT F.SCK_INJECT_INLET && decide (s.mtime < s.power.inletTo)
  let s := if inj then s else s.put .SCK_INJECT F.SCK_INJECT_INLET 0
  let s := setInlet s (if inj then 660 else inlet.toNat)
  let s := s.put .SCK_COOLANT F.SCK_COOLANT_OUTLET outlet.toNat
  let flow := s.get .SCK_COOLANT F.SCK_COOLANT_FLOW
  if flow = 0 then .next (if anyPlay s then sckErr s 9 0 else s)
  else
    let n : Int := s.heat + flow * s.get .SCK_COOLANT F.SCK_COOLANT_HEAT_CAP *
      (((s.get .SCK_COOLANT F.SCK_COOLANT_OUTLET : Nat) : Int) - ((s.get .SCK_COOLANT F.SCK_COOLANT_INLET : Nat) : Int))
    let s := s.wr .SCK_HEAT (s.rd .SCK_HEAT + BitVec.ofInt 64 (n.fdiv heatUnit))
    .next { s with heat := (n.fmod heatUnit).toNat }

/-! ### SCK_INJECT (R430, R432) -/

/-- A write to SCK_INJECT by H[0]: INLET acts for 10 ms and IOD_TRIP for one reading, TRIP and TELEM on the named die's next
records. -/
def sckInject (s : State) (who : Agent) (v : Word) : State :=
  if ¬ s.isHouse who then s
  else
    let was := s.rd .SCK_INJECT
    let s := s.wr .SCK_INJECT (Reg.SCK_INJECT.written was v)
    let s := if F.SCK_INJECT_TELEM.get v = 1 then { s with power := { s.power with telemDrop := 4 } } else s
    let s :=
      if F.SCK_INJECT_INLET.get v = 1 then setInlet { s with power := { s.power with inletTo := s.mtime + 1000000 } } 660
      else s
    if F.SCK_INJECT_IOD_TRIP.get v = 1 then iodTrip (s.put .SCK_INJECT F.SCK_INJECT_IOD_TRIP 0) .iodSensor else s

/-- SCK_INJECT_INLET. -/
def execSckInjectInlet (who : Agent) (v : Word) (s : State) : Out := .next (sckInject s who v)
/-- SCK_INJECT_IOD_TRIP. -/
def execSckInjectIodTrip (who : Agent) (v : Word) (s : State) : Out := .next (sckInject s who v)
/-- SCK_INJECT_TRIP. -/
def execSckInjectTrip (who : Agent) (v : Word) (s : State) : Out := .next (sckInject s who v)
/-- SCK_INJECT_TELEM. -/
def execSckInjectTelem (who : Agent) (v : Word) (s : State) : Out := .next (sckInject s who v)

/-! ### Secure holds (R404, R405) -/

/-- SECURE_HOLD_SET: the Archivist sets a hold; it is acknowledged at once where the block is in Play. The flash controller
and the management port have no power states. -/
def execSecureHoldSet (b : Fin 35) (s : State) : Out :=
  let m := BitVec.ofNat 64 (2 ^ b.val)
  let s := s.wr .ARC_HOLD (s.rd .ARC_HOLD ||| m)
  if 33 ≤ b.val ∨ blockState s b = 0 then .next (updatePkg (s.wr .ARC_HOLD_ACK (s.rd .ARC_HOLD_ACK ||| m)))
  else .next (updatePkg s)

/-- A hold clears; the block's pending target is carried out (R404), a preempted block leaves Play. -/
def execSecureHoldClear (b : Fin 35) (s : State) : Out :=
  let m := ~~~ BitVec.ofNat 64 (2 ^ b.val)
  let s := (s.wr .ARC_HOLD (s.rd .ARC_HOLD &&& m)).wr .ARC_HOLD_ACK (s.rd .ARC_HOLD_ACK &&& m)
  let s := s.wr .ARC_PREEMPT (s.rd .ARC_PREEMPT &&& m)
  .next (updatePkg (lowerBlocks s))

/-- SECURE_PREEMPT_EXPIRE: the grace is over, so the blocks that SECURE_PREEMPT named leave Play; calls that still need them
end PREEMPTED (R405). -/
def execSecurePreemptExpire (s : State) : Out :=
  let named := (List.range 33).filter (isPreempted s)
  match s.power.preempt with
  | none => .next s
  | some t =>
    if s.mtime < t + 5000 ∨ named = [] then .next s
    else
      let s := overAll named (fun s b => setBlockState s b (max (blockState s b) (blockTarget s b))) s
      let m := ~~~ BitVec.ofNat 64 (named.foldl (fun n b => n + 2 ^ b) 0)
      let s := s.wr .ARC_HOLD_ACK (s.rd .ARC_HOLD_ACK &&& m)
      let s := s.wr .ARC_PREEMPT (s.rd .ARC_PREEMPT &&& m)
      let sv := s.arc.serving.map (fun e =>
        (e.1, if e.2.result.isNone then { e.2 with result := some ⟨5, 0, []⟩ } else e.2))
      let s := { s with arc := { s.arc with serving := sv }, power := { s.power with preempt := none } }
      .next (updatePkg (s.raise .ARC_ERR 1 24 0x2700 none 1 0))

end Sys2Proof.Machine
end

