-- ==== Sys2Proof/Machine/CfgSpace.lean ====
section
/-! DEFINITION. The configuration space of the functions (R318 to R323): what each dword reads as and which of its bits
software writes. Offsets inside capabilities that the spec does not give are PRESUMED from the PCI Express 6.0 base
specification and the SR-IOV specification; where a capability's dword is not modelled it reads as a free value. -/

namespace Sys2Proof.Machine

/-- Whether a function is a PF. -/
def isPf : FnId → Bool
  | .pf _ => true
  | .vf _ => false

/-- VF_COUNT and the BAR sizes of the port of a function. -/
def vfCount (s : State) (f : FnId) : Nat := (s.folio.port? (fnPort s f)).elim 0 (·.vfCount)
def pfBarLog (s : State) (p : Nat) : Nat := (s.folio.port? p).elim 0 (·.pfBar)
def vfBarLog (s : State) (p : Nat) : Nat := (s.folio.port? p).elim 0 (·.vfBar)

/-- Whether a function has the SR-IOV capability: a PF with VFs (R318). -/
def hasSriov (s : State) (f : FnId) : Bool := isPf f && decide (0 < vfCount s f)

/-- The two dwords of a 64-bit non-prefetchable BAR of 2^k bytes: bits that software writes. -/
def barMask (k : Nat) (upper : Bool) : BitVec 32 :=
  let m := 2 ^ 64 - 2 ^ k
  BitVec.ofNat 32 (if upper then m / 2 ^ 32 else m % 2 ^ 32)

/-- Capabilities of a function: offset, size, capability identifier (R319). -/
def capList (s : State) (f : FnId) : List (Nat × Nat × Nat) :=
  if isPf f then
    [(0x100, 0x48, 0x0001), (0x148, 0x08, 0x000E)] ++ (if hasSriov s f then [(0x158, 0x40, 0x0010)] else []) ++
    [(0x198, 0x08, 0x0018), (0x1A0, 0x08, 0x000D), (0x1B0, 0x2C, 0x0019), (0x1E0, 0x30, 0x0026), (0x210, 0x30, 0x002A),
      (0x240, 0x20, 0x0031), (0x300, 0x20, 0x0023)]
  else [(0x100, 0x48, 0x0001), (0x148, 0x08, 0x000E), (0x300, 0x20, 0x0023)]

/-- Header of an extended capability: identifier, version, offset of the next one (R319). -/
def extHeader (s : State) (f : FnId) (off : Nat) : Option (BitVec 32) :=
  let l := capList s f
  match l.findIdx? (fun c => c.1 == off) with
  | none => none
  | some i =>
    let next := (l[i + 1]?).elim 0 (·.1)
    let ver := if off = 0x100 then 2 else 1
    some (BitVec.ofNat 32 ((l[i]?).elim 0 (·.2.2) + ver * 2 ^ 16 + next * 2 ^ 20))

/-- Whether an offset lies in a capability of a function. -/
def inCap (s : State) (f : FnId) (off : Nat) : Bool :=
  (capList s f).any (fun c => decide (c.1 ≤ off) && decide (off < c.1 + c.2.1)) ||
  (isPf f && decide (0x40 ≤ off) && decide (off < 0x48)) || (decide (0x50 ≤ off) && decide (off < 0x5C)) ||
  (decide (0x70 ≤ off) && decide (off < 0xAC))

/-- The bits of a dword that software writes. -/
def cfgMask (s : State) (f : FnId) (off : Nat) : BitVec 32 :=
  let p := fnPort s f
  let pf := isPf f
  let iov := hasSriov s f
  match off with
  | 0x04 => if pf then 0x546 else 0x4
  | 0x0C => if pf then 0xFF else 0
  | 0x10 => if pf then barMask (pfBarLog s p) false else 0
  | 0x14 => if pf then barMask (pfBarLog s p) true else 0
  | 0x3C => if pf then 0xFF else 0
  | 0x44 => if pf then 0x3 else 0
  | 0x50 => 0xC0000000
  | 0x78 => 0x7FFF
  | 0x80 => if pf then 0x1CB else 0
  | 0x98 => if pf then 0x140F else 0xF
  | 0xA0 => if pf then 0x3F else 0
  | 0x108 | 0x10C => if pf then 0x7FF030 else 0
  | 0x114 => if pf then 0xF1C1 else 0
  | 0x160 => if iov then 0x19 else 0
  | 0x168 => if iov && !vfEnable s (fnPort8 s f) then 0xFFFF else 0
  | 0x178 => if iov then 0xFFFFFFFF else 0
  | 0x17C => if iov then barMask (vfBarLog s p) false else 0
  | 0x180 => if iov then barMask (vfBarLog s p) true else 0
  | 0x19C => if pf then 0xFFFFFFFF else 0
  | 0x1A4 => if pf then 0xD0000 else 0
  | _ => 0

/-- The bits of a dword that a write of 1 clears. -/
def cfgW1c (off : Nat) : BitVec 32 :=
  match off with
  | 0x78 => 0xF0000
  | 0x104 | 0x110 => 0xFFFFFFFF
  | _ => 0

/-- Bits of a dword that hold what was stored. -/
def cfgStored (s : State) (f : FnId) (off : Nat) : BitVec 32 :=
  (cfg s f off).setWidth 32 &&& (cfgMask s f off ||| cfgW1c off ||| (if off = 0x168 ∧ hasSriov s f then 0xFFFF else 0))

/-- MAX_WIDTH of a port and the speed and width it has trained to. -/
structure HostPortWidth where
  max   : Nat
  speed : Nat
  width : Nat
  deriving DecidableEq, Repr

/-- The read-only bits of a dword (R318 to R320, R323). What a dword of a capability is not given by the spec is that of the base
specifications (PRESUMED, log entry 19): Role-Based Error Reporting, ASPM Optionality Compliance, transactions pending, the supported
page sizes and the link speeds. R320 puts the 14-bit tag bits in Device Capabilities 2, where the base specification has none: they
are bits 14 and 15 here (DESIGN CHOICE, log entry 113). -/
def cfgFixed (s : State) (f : FnId) (off : Nat) : BitVec 32 :=
  let p := fnPort s f
  let pf := isPf f
  let iov := hasSriov s f
  let r : HostPortWidth := ⟨(s.folio.port? p).elim 0 (·.width), s.get (.HP_LINK p) F.HP_LINK_SPEED, s.get (.HP_LINK p) F.HP_LINK_WIDTH⟩
  match extHeader s f off with
  | some h => h
  | none =>
    match off with
    | 0x00 => if pf then 0x03841FD3 else 0xFFFFFFFF
    | 0x04 => if pf && intx s (fnPort8 s f) then 0x180000 else 0x100000
    | 0x08 => 0x12000011
    | 0x10 => if pf then 0x4 else 0
    | 0x2C => if pf then 0x03841FD3 else 0x03851FD3
    | 0x34 => if pf then 0x40 else 0x50
    | 0x3C => if pf then 0x100 else 0
    | 0x40 => if pf then 0x00035001 else 0
    | 0x50 => BitVec.ofNat 32 (0x11 + 0x70 * 2 ^ 8 + fnQueues s f * 2 ^ 16)
    | 0x54 => if pf then 0x10000 else 0x2000
    | 0x58 => if pf then 0x18000 else 0x3000
    | 0x70 => 0x80020010
    | 0x74 => 0x10008022
    | 0x78 => if (s.port p).reads.any (fun x => x.fn == f) then 0x200000 else 0
    | 0x7C => BitVec.ofNat 32 (6 + r.max * 2 ^ 4 + 2 * 2 ^ 10 + 2 * 2 ^ 15 + 2 ^ 22)
    | 0x80 => if pf then BitVec.ofNat 32 (r.speed * 2 ^ 16 + r.width * 2 ^ 20) else 0
    | 0x84 | 0x88 | 0x8C | 0x90 | 0xA4 | 0xA8 => 0
    | 0x94 => 0x3C802
    | 0x9C => 0x7E
    | 0x14C => 0
    | 0x164 => if iov then BitVec.ofNat 32 (vfCount s f * (2 ^ 16 + 1)) else 0
    | 0x168 => 0
    | 0x16C => if iov then 0x00010001 else 0
    | 0x170 => if iov then 0x03850000 else 0
    | 0x174 => if iov then 0x553 else 0
    | 0x17C => if iov then 0x4 else 0
    | 0x184 | 0x188 | 0x18C | 0x190 | 0x194 => 0
    | 0x1A4 => if pf then 0xD else 0
    | 0x304 => 0x02001FD3
    | 0x308 => BitVec.ofNat 32 (1 + (match f with | .vf v => v.val | .pf _ => 0xFFFF) * 2 ^ 16)
    | 0x30C => BitVec.ofNat 32 (fnQueues s f + (queueRec s f).depth * 2 ^ 8 + (queueRec s f).mode * 2 ^ 16 + fnHand s f * 2 ^ 24)
    | 0x310 => 200
    | 0x314 => 2000
    | 0x318 => 4000
    | 0x31C => 0
    | _ => if inCap s f off ∧ cfgMask s f off = 0 ∧ cfgW1c off = 0 then Config.cfgWord off else 0

/-- A configuration dword as a read shows it. Outside every capability it reads zero. -/
def cfgRead (s : State) (f : FnId) (off : Nat) : BitVec 32 :=
  (cfgFixed s f off &&& ~~~ (cfgMask s f off ||| cfgW1c off)) ||| cfgStored s f off

/-- A dword after a write of some of its bytes. -/
def cfgMerge (s : State) (f : FnId) (off : Nat) (v : BitVec 32) (bytes : BitVec 32) : Word :=
  let old := (cfg s f off).setWidth 32
  let m := cfgMask s f off &&& bytes
  let kept := old &&& ~~~ (cfgW1c off &&& bytes &&& v)
  ((kept &&& ~~~ m) ||| (v &&& m)).setWidth 64

end Sys2Proof.Machine
end

