-- ==== Sys2Proof/Machine/Ports.lean ====
section
/-! DEFINITION. The host ports: link state, inbound requests, peer windows, completions and timeouts, Bus Master Enable,
function reset, link down, latency tolerance, injection (R315 to R341). -/

namespace Sys2Proof.Machine

open State (slipOpcode slipTag)

/-! ### Link training and L1 (R316, R317, R326, R339) -/

/-- The state of a port's link in HP_LINK. -/
def setPortLink (s : State) (p n : Nat) : State := s.put (.HP_LINK p) F.HP_LINK_STATE n

/-- Whether a port may train: enabled, FOL_STATE RUNNING, HP_PERST_L deasserted (R317). -/
def mayTrain (s : State) (p : Nat) : Bool :=
  s.folio.portEnabled p && s.get .FOL_STATE F.FOL_STATE_STATE == 5 && !s.mgmt.perst.testBit p

/-- A port that is not up trains where its conditions stand; otherwise it waits, or stays down after a link down (R317, R339). -/
def trainPort (s : State) (p : Nat) : State :=
  if ¬ s.folio.portEnabled p then setPortLink s p 0
  else if counts s p then s
  else if mayTrain s p then setPortLink s p 2
  else if s.get (.HP_LINK p) F.HP_LINK_STATE = 5 then s
  else setPortLink s p 1

/-- NARROW where a port trained below 64.0 GT/s or below its MAX_WIDTH (R316). -/
def noteNarrow (s : State) (p speed width : Nat) : State :=
  if speed < 6 ∨ width < (s.folio.port? p).elim 0 (·.width) then portErr s p 1 1 else s

/-- A rate and a width that a port can train to (R315, R316). -/
def ratesOk (s : State) (p speed width : Nat) : Bool :=
  decide (1 ≤ speed) && decide (speed ≤ 6) && (width == 4 || width == 8 || width == 16)
    && decide (width ≤ (s.folio.port? p).elim 0 (·.width))

/-- Speed, width and mode in HP_LINK: Flit Mode has every rate above 32.0 GT/s (R315). -/
def setRates (s : State) (p speed width : Nat) (flit : Bool) : State :=
  let r := Reg.HP_LINK p
  ((s.put r F.HP_LINK_SPEED speed).put r F.HP_LINK_WIDTH width).put r F.HP_LINK_FLIT (if flit ∨ speed = 6 then 1 else 0)

/-- PCIE_LINK_UP: the port has trained; its votes count from now (R316, R412). -/
def execPcieLinkUp (p : Fin 8) (speed width : Nat) (flit : Bool) (s : State) : Out :=
  if ¬ mayTrain s p ∨ counts s p ∨ ¬ ratesOk s p speed width then .next s
  else .next (retarget (noteNarrow (setPortLink (setRates s p speed width flit) p 3) p speed width))

/-- What waited in a port leaves in order, and its functions go on (R326, R335, R339). -/
def wakePort (s : State) (p : Fin 8) : State :=
  let q := (s.port p).txq
  let s := overAll q (outTlp p) (s.setPort p { s.port p with txq := [] })
  overAll (portFns s p) wakeFn s

/-- PCIE_RETRAIN: the link enters Recovery and traffic waits; it leaves Recovery with a speed, a width and a mode, and traffic
resumes; nothing is reset (R316, R339). -/
def execPcieRetrain (p : Fin 8) (rate : Option (Nat × Bool)) (width : Nat) (s : State) : Out :=
  match rate with
  | none => if linkIsUp s p ∧ ¬ (s.port p).l1 then .next (setPortLink s p 4) else .next s
  | some (speed, flit) =>
    if ¬ counts s p ∨ (s.port p).l1 ∨ ¬ ratesOk s p speed width then .next s
    else .next (wakePort (noteNarrow (setPortLink (setRates s p speed width flit) p 3) p speed width) p)

/-- PORT_L1_ENTRY: ASPM L1 is set, nothing waits to be sent and no read is outstanding (R326). -/
def execPortL1Entry (p : Fin 8) (s : State) : Out :=
  let x := s.port p
  if linkIsUp s p ∧ (cfg s (.pf p) 0x80).getLsbD 1 ∧ x.reads = [] ∧ x.txq = [] ∧ ¬ x.l1 then
    .next (((s.setPort p { x with l1 := true }).put (.HP_LINK p) F.HP_LINK_L1 1).countBlk (48 + p) 0x0406 1)
  else .next s

/-- PORT_L1_EXIT: the link leaves L1 and what waited is sent in order (R326). -/
def execPortL1Exit (p : Fin 8) (s : State) : Out :=
  if ¬ (s.port p).l1 then .next s
  else .next (wakePort ((s.setPort p { s.port p with l1 := false }).put (.HP_LINK p) F.HP_LINK_L1 0) p)

/-! ### Slips that end without the host (R335, R336, R338) -/

/-- The reads of a function whose data is to be discarded; their tags stay held until their completions arrive (R335,
R336). -/
def dropReads (s : State) (f : FnId) : State :=
  let p := fnPort s f
  let y := s.port p
  s.setPort p { y with reads := y.reads.map (fun r => if r.fn = f then { r with use := .dropped } else r) }

/-- Whether a slip has DMA outstanding or has not started (R335): a FENCE and a waiting ABORT have no DMA and no start. -/
def needsMaster (s : State) (f : FnId) (q : Nat) (e : Slip) : Bool :=
  match slipOpcode e.bits with
  | 1 => !e.started || decide (e.asked < slipLen e.bits) || (s.port (fnPort s f)).reads.any (fun r =>
      match r.use with | .copyIn k n _ => r.fn == f && k == q && n == e.seq | _ => false)
  | 3 | 4 | 5 => false
  | _ => !e.started || slipOpcode e.bits == 2

/-- The mailbox of SET_STATE loses its slip: BUSY stays until the supervisor writes CSQ_SS_DONE (R365); a payload that is still
on its way drains, and leaves the mailbox free. -/
def orphan (s : State) (f : FnId) : State :=
  let p := fnPort s f
  match (s.port p).mailbox with
  | some (g, _, _) =>
    if g = f then
      let s := s.setPort p { s.port p with mailbox := none }
      if s.bit (.CSQ_SS_STATE p) F.CSQ_SS_STATE_BUSY then s.put (.CSQ_SS_STATE p) F.CSQ_SS_STATE_ORPHAN 1
      else s
    else s
  | none => s

/-! ### Bus Master Enable (R335) -/

/-- A function may no longer issue requests: its slips that need DMA end MASTER_DISABLED, what was fetched is discarded, and
the stagings of its intakes fail (R255, R335). -/
def masterOff (s : State) (f : FnId) : State :=
  let s := overAll (List.range (fnQueues s f)) (fun s q =>
    let s := discardFetched s f q
    overAll ((s.queue f q).running.filter (needsMaster s f q)) (fun s e =>
      endError s f q e 0x21 (bytesKept s f e)) s) s
  settle (failIntakes s f 0x21) f

/-- Bus Master Enable of a function's Command register. -/
def setBme (s : State) (f : FnId) (b : Bool) : State :=
  let w := cfg s f 0x04
  setCfg s f 0x04 (if b then w ||| 4 else w &&& ~~~ 4)

/-- BUS_MASTER_DISABLE (R335). -/
def busMasterOff (s : State) (f : FnId) : State := if bme s f then masterOff (setBme s f false) f else s

/-- BUS_MASTER_ENABLE (R335). -/
def busMasterOn (s : State) (f : FnId) : State :=
  if bme s f then s
  else
    let s := setBme s f true
    if fnMayIssue s f then wakeFn s f else s

/-- BUS_MASTER_DISABLE. -/
def execBusMasterDisable (f : FnId) (s : State) : Out := .next (busMasterOff s f)
/-- BUS_MASTER_ENABLE. -/
def execBusMasterEnable (f : FnId) (s : State) : Out := .next (busMasterOn s f)

/-! ### Function reset (R336, R337) -/

/-- The configuration space, MSI-X table and pending bits of a function at their reset values; INTA is deasserted. -/
def clearCfg (s : State) (f : FnId) : State :=
  withIntx s (fnPort8 s f) (fun s => let x := s.fn f; s.setFn f { x with cfg := [], msix := [], pba := 0 })

/-- The registers of a queue pair at their reset values. -/
def clearQueueRegs (s : State) (f : FnId) (q : Nat) : State :=
  let k := f.key
  let s := overAll [Reg.QP_SQ_BASE k q, .QP_CQ_BASE k q, .QP_SQ_TAIL k q, .QP_CQ_HEAD k q, .QP_CTL k q, .QP_STATE k q] State.clr s
  overAll (List.range 8) (fun s i => s.clr (.QP_LOG k q i)) s

/-- The power page of a PF at its reset value (R412). -/
def clearPower (s : State) (p : Nat) : State := retarget ((s.clr (.PWR_PKG p)).clr (.PWR_DIE p))

/-- A function reset by R336: its slips end without return slips, transfers whose last line is staged drain, the others are
squashed, tags of its reads stay held, and its state returns to reset values; what the bus addresses it by until the reset is over
is kept aside. HP_FN_ERR.FLR records it. -/
def resetFn (s : State) (f : FnId) : State :=
  let p := fnPort s f
  let x := s.fn f
  let was := if x.flr then x.oldCfg else x.cfg
  let s := failIntakes s f 0x25
  let s := orphan (dropReads s f) f
  let s := overAll (List.range (fnQueues s f)) (fun s q =>
    clearQueueRegs (s.setQueue f q { Queue.init with seq := (s.queue f q).seq }) f q) s
  let s := clearCfg s f
  let s := fillBuckets (s.setFn f { s.fn f with flr := true, oldCfg := was }) f
  let s := if isPf f then clearPower s p else s
  fnErr s f 5

/-- A reset of a function; that of a PF resets every VF of the port too (R337). -/
def resetWithVfs (s : State) (f : FnId) : State :=
  match f with
  | .vf _ => resetFn s f
  | .pf p => resetFn (overAll (portVfs s p) (fun s v => resetFn s (.vf (Fin.ofNat 4096 v))) s) f

/-- FUNCTION_LEVEL_RESET (R336). -/
def startFlr (s : State) (f : FnId) : State := if fnExists s f ∧ ¬ (s.fn f).flr then resetWithVfs s f else s

/-- FUNCTION_LEVEL_RESET. -/
def execFunctionLevelReset (f : FnId) (s : State) : Out := .next (startFlr s f)

/-- FLR_COMPLETE: the function accepts requests again (R336). -/
def execFlrComplete (f : FnId) (s : State) : Out := .next (s.setFn f { s.fn f with flr := false, oldCfg := [] })

/-- VF Enable clears: every VF of the port is reset (R337). -/
def vfEnableOff (s : State) (p : Fin 8) : State :=
  if ¬ vfEnable s p then s
  else
    let s := setCfg s (.pf p) 0x160 (cfg s (.pf p) 0x160 &&& ~~~ 1)
    overAll (portVfs s p) (fun s v => resetFn s (.vf (Fin.ofNat 4096 v))) s

/-- VF_ENABLE_CLEAR. -/
def execVfEnableClear (p : Fin 8) (s : State) : Out := .next (vfEnableOff s p)

/-- D3HOT_TO_D0: the function is reset by R336 (R337). -/
def toD0 (s : State) (f : FnId) : State := if inD3 s f then resetWithVfs s f else s

/-- D0_TO_D3HOT: the function accepts only configuration requests and is handled as though Bus Master Enable were clear
(R337). -/
def toD3 (s : State) (f : FnId) : State :=
  if inD3 s f then s
  else
    let s := setCfg s f 0x44 (cfg s f 0x44 ||| 3)
    if bme s f then masterOff s f else s

/-- D3HOT_TO_D0. -/
def execD3hotToD0 (f : FnId) (s : State) : Out := .next (toD0 s f)
/-- D0_TO_D3HOT. -/
def execD0ToD3hot (f : FnId) (s : State) : Out := .next (toD3 s f)

/-! ### Link down (R338) -/

/-- The queues of a function at a link down: slips in progress are logged with PORT_DOWN and end without return slips; every
queue freezes; its context is kept. -/
def downQueues (s : State) (f : FnId) : State :=
  overAll (List.range (fnQueues s f)) (fun s q =>
    let s := overAll (s.queue f q).running (fun s e =>
      logError s f q 0x26 2 e.bits e.index (slipPkg e.bits) (bytesDone s f e)) s
    let s := discardFetched s f q
    let x := s.queue f q
    let s := s.setQueue f q { x with running := [], ended := [] }
    setQState s f q 2) s

/-- A function at a link down. -/
def downFn (s : State) (f : FnId) : State :=
  let s := downQueues (failIntakes s f 0x25) f
  let s := clearCfg (orphan s f) f
  s.setFn f { s.fn f with flr := false, oldCfg := [] }

/-- The link of a port goes down: tags are released, what has not left is discarded, every function's queues freeze, its
configuration is reset, and the port's votes are withdrawn (R338); it trains again where R317 lets it (R339). -/
def linkDown (s : State) (p : Fin 8) : State :=
  if ¬ counts s p then s
  else
    let s := setPortLink s p 5
    let s := overAll (portFns s p) downFn s
    let s := s.setPort p { s.port p with reads := [], timedOut := [], txq := [], peers := [], l1 := false, ltr := none }
    let r := Reg.HP_LINK p
    let s := (((s.put r F.HP_LINK_L1 0).put r F.HP_LINK_SPEED 0).put r F.HP_LINK_WIDTH 0).put r F.HP_LINK_FLIT 0
    let s := s.inc r F.HP_LINK_DOWNS
    trainPort (clearPower (portErr s p 4 3) p) p

/-- PCIE_LINK_DOWN. -/
def execPcieLinkDown (p : Fin 8) (s : State) : Out := .next (linkDown s p)

/-- HP_PERST (R317, R480): asserted with the link up it is a link down; deasserted it lets the port train. -/
def execHpPerst (p : Fin 8) (asserted : Bool) (s : State) : Out :=
  let m := s.mgmt.perst
  let m := if asserted then (if m.testBit p then m else m + 2 ^ p.val) else (if m.testBit p then m - 2 ^ p.val else m)
  let s := { s with mgmt := { s.mgmt with perst := m } }
  let s := s.put (.HP_LINK p) F.HP_LINK_PERST (if asserted then 1 else 0)
  .next (trainPort (if asserted then linkDown s p else s) p)

/-! ### Latency tolerance (R325) -/

/-- The latency tolerance of a function in ns. -/
def tolerance (s : State) (f : FnId) : Nat :=
  let busy := (List.range (fnQueues s f)).any (fun q => !(s.queue f q).running.isEmpty) ||
    (s.port (fnPort s f)).reads.any (fun r => match r.use with | .intake _ _ _ => r.fn == f | _ => false)
  if busy then 1024 else 1048576

/-- The latency field of an LTR message: value 1 with scale 2 or 4, and the Requirement bit (R325). -/
def ltrField (ns : Nat) : BitVec 16 := if ns = 1024 then 0x8801 else 0x9001

/-- LTR_SEND: the least tolerance over the functions has changed and 10 µs have passed since the last message (R325). -/
def execLtrSend (p : Fin 8) (s : State) : Out :=
  let t := (portFns s p).foldl (fun m f => min m (tolerance s f)) 1048576
  let x := s.port p
  if ¬ linkIsUp s p ∨ ¬ (cfg s (.pf p) 0x98).getLsbD 10 ∨ x.ltr = some t ∨ (x.ltr.isSome ∧ s.cycle < x.ltrAt + 20000) then
    .next s
  else
    let s := s.setPort p { x with ltr := some t, ltrAt := s.cycle }
    let s := (s.inc (.HP_LTR p) F.HP_LTR_SENT).put (.HP_LTR p) F.HP_LTR_LAST_NS t
    .next (sendTlp s p (.ltr p (ltrField t) (ltrField t)))

/-! ### Completions and timeouts (R327 to R330) -/

/-- A failed read acts on what it was for: a COPY_IN ends, a fetch freezes its queue, a staging fails (R255, R330, R483). -/
def readFailed (s : State) (f : FnId) (use : ReadFor) (status : Nat) : State :=
  match use with
  | .slips q => fetchFail s f q status
  | .copyIn q seq _ =>
    match findSlip s f q seq with
    | some e => settle (endError s f q e status (bytesDone s f e)) f
    | none => s
  | .intake h id _ => failIntake s h id 0x25
  | .dropped => s

/-- Slips of 64 bytes each. -/
def slipsOf (bs : List Byte) : List LineData :=
  (List.range (bs.length / 64)).map (fun i => (lineFrom 0 ((bs.drop (64 * i)).take 64)).1)

/-- The data of a completion goes where its read was for. -/
def readData (s : State) (r : OutRead) (bs : List Byte) (ep last : Bool) : State :=
  let off := r.got.length
  match r.use with
  | .slips q => if ep then fetchFail s r.fn q 0x23 else if last then slipsArrive s r.fn q (slipsOf (r.got ++ bs)) else s
  | .copyIn q seq o => settle (copyInBytes s r.fn q seq (o + off) bs ep) r.fn
  | .intake h id o => if ep then failIntake s h id 0x25 else intakeBytes s h id (o + off) bs
  | .dropped => s

/-- A replay on the link of a port: a correctable error, which is counted (R340). -/
def replayed (s : State) (p : Fin 8) : State := linkCorrected (s.countBlk (48 + p) 0x0407 1) p

/-- A correctable link error that HP_INJECT.LCRC causes: the TLP is replayed, so it arrives all the same (R340, R432). -/
def lcrcReplay (s : State) (p : Fin 8) : State :=
  if s.bit (.HP_INJECT p) F.HP_INJECT_LCRC then replayed (s.put (.HP_INJECT p) F.HP_INJECT_LCRC 0) p else s

/-- A TLP has come in, and is counted. -/
def tookTlp (s : State) (p : Fin 8) : State := s.countBlk (48 + p) 0x0401 1

/-- A completion for a tag not in use, or whose read has timed out: discarded and logged (R329). -/
def unexpectedCpl (s : State) (p : Fin 8) (tag : Nat) : State :=
  match (s.port p).timedOut.find? (fun t => t.1 == tag) with
  | some t => fnErr s t.2 4
  | none => fnErr s (.pf p) 4

/-- READ_COMPLETION: a completion arrives; the tag frees on the last one of its read (R327, R330). -/
def execReadCompletion (p : Fin 8) (c : Cpl) (s : State) : Out :=
  let s := tookTlp (lcrcReplay s p) p
  match (s.port p).reads.find? (fun r => r.tag == c.tag) with
  | none => .next (unexpectedCpl s p c.tag)
  | some r =>
    let inj := s.bit (.HP_INJECT p) F.HP_INJECT_POISON
    let s := if inj then s.put (.HP_INJECT p) F.HP_INJECT_POISON 0 else s
    let x := s.port p
    let more (y : OutRead) : OutRead := if y.tag = c.tag then { y with got := y.got ++ c.bytes } else y
    let rs := if c.last then x.reads.filter (fun y => y.tag != c.tag) else x.reads.map more
    let s := s.setPort p { x with reads := rs }
    let s :=
      match c.status with
      | .ok => readData (if inj then fnErr s r.fn 2 else s) r c.bytes inj c.last
      | .ep => readData (fnErr s r.fn 2) r c.bytes true c.last
      | .ca => readFailed (fnErr s r.fn 1) r.fn r.use 0x22
      | .ur | .crs => readFailed (fnErr s r.fn 0) r.fn r.use 0x22
    .next (if c.last then kickPort s p else s)

/-- A read times out: its tag frees, and its slip, fetch or staging fails (R329, R330). -/
def timeOut (s : State) (p : Fin 8) (r : OutRead) : State :=
  let x := s.port p
  let s := s.setPort p { x with
    reads := x.reads.filter (fun y => y.tag != r.tag)
    timedOut := x.timedOut ++ [(r.tag, r.fn)] }
  kickPort (readFailed (fnErr (s.countBlk (48 + p) 0x0408 1) r.fn 3) r.fn r.use 0x24) p

/-- READ_TIMEOUT: 50 ms after its issue, or at once under HP_INJECT.TIMEOUT, a read times out (R329, R432). -/
def execReadTimeout (p : Fin 8) (tag : Nat) (s : State) : Out :=
  match (s.port p).reads.find? (fun r => r.tag == tag) with
  | none => .next s
  | some r =>
    if s.bit (.HP_INJECT p) F.HP_INJECT_TIMEOUT then .next (timeOut (s.put (.HP_INJECT p) F.HP_INJECT_TIMEOUT 0) p r)
    else if r.at_ + 5000000 ≤ s.mtime then .next (timeOut s p r)
    else .next s

/-! ### Registers in BAR 0 (R321, R322, R371, R411) -/

/-- A register of a function's BAR 0 and its size in bytes. -/
def barReg (s : State) (f : FnId) (off : Nat) : Option (Reg × Nat) :=
  let q := off / 0x200
  let o := off % 0x200
  let k := f.key
  if q < fnQueues s f then
    if o = 0 then some (.QP_SQ_BASE k q, 8)
    else if o = 0x08 then some (.QP_CQ_BASE k q, 8)
    else if o = 0x10 then some (.QP_SQ_TAIL k q, 4)
    else if o = 0x14 then some (.QP_CQ_HEAD k q, 4)
    else if o = 0x18 then some (.QP_CTL k q, 4)
    else if o = 0x20 then some (.QP_STATE k q, 8)
    else if 0x100 ≤ o ∧ o < 0x140 ∧ o % 8 = 0 then some (.QP_LOG k q ((o - 0x100) / 8), 8)
    else none
  else
    match f with
    | .pf p =>
      if off = 0x20000 then some (.PWR_PKG p, 8)
      else if off = 0x20008 then some (.PWR_DIE p, 8)
      else if off = 0x20010 then some (.PWR_STATUS p, 8)
      else none
    | .vf _ => none

/-- PWR_STATUS of a port (R411). -/
def pwrStatus (s : State) (p : Nat) : Word :=
  let dies := (List.range 16).foldl (fun n d => n + s.get (.SCK_DIE d) F.SCK_DIE_STATE * 2 ^ (2 * d)) 0
  let ref := (List.range 16).any (fun d => s.bit (.SCK_DIE d) F.SCK_DIE_REFUSED)
  BitVec.ofNat 64 (dies * 2 ^ 32 + (if ref then 0x80 else 0) + s.get .SCK_PKG F.SCK_PKG_FORCED * 0x40 +
    s.get .SCK_PKG F.SCK_PKG_HELD * 0x20 + (if p = authPort s then 0x10 else 0) +
    s.get .SCK_PKG F.SCK_PKG_TARGET * 4 + s.get .SCK_PKG F.SCK_PKG_STATE)

/-- A BAR 0 register as a read shows it: BUSY and DEF_PEND are computed, PWR_DIE reads zero off the authority. -/
def barView (s : State) (f : FnId) (r : Reg) : Word :=
  match r with
  | .QP_STATE _ q =>
    F.QP_STATE_DEF_PEND.put (F.QP_STATE_BUSY.put (s.rd r) (if queueBusy s f q then 1 else 0)) (s.queue f q).deferred.length
  | .PWR_DIE p => if p = authPort s then s.rd r else 0
  | .PWR_STATUS p => pwrStatus s p
  | _ => r.shown (s.rd r)

/-- A queue context read by the engine: one that is lost resets its function by steps 2 to 5 of R336, with Uncorrectable Internal
Error in its AER (R447). -/
def queueSram (s : State) (f : FnId) (q : Nat) : Bool × State :=
  let e := s.iodSram 11 f.unit q
  if !e.1 then (false, e.2)
  else
    let s := resetWithVfs e.2 f
    (true, (aerLog s f .nonFatal 22).2)

/-- A write of a register of a queue pair, whose context is read first and written. -/
def queueWrite (s : State) (f : FnId) (q : Nat) (act : State → State) : State :=
  match queueSram s f q with
  | (true, s) => s
  | (false, s) => sramWrite (act s) 11 f.unit q

/-- A write of a BAR 0 register by the host. Base registers accept writes only while the queue is DISABLED, or FROZEN with
BUSY clear (R367). -/
def barWrite (s : State) (f : FnId) (r : Reg) (v : Word) : State :=
  let out (o : Out) : State := match o with | .next t => t | _ => s
  match r with
  | .QP_SQ_TAIL _ q => queueWrite s f q (fun s => out (execSqTailDoorbell f (Fin.ofNat 16 q) (v.setWidth 32) s))
  | .QP_CQ_HEAD _ q => queueWrite s f q (fun s => out (execCqHeadDoorbell f (Fin.ofNat 16 q) (v.setWidth 32) s))
  | .QP_CTL _ q => queueWrite s f q (fun s => qpCtl s f q (v.setWidth 32))
  | .QP_SQ_BASE _ q | .QP_CQ_BASE _ q => queueWrite s f q (fun s =>
    if qState s f q = 0 ∨ (qState s f q = 2 ∧ ¬ queueBusy s f q) then s.wr r (r.written (s.rd r) v) else s)
  | .PWR_PKG p => out (execPwrPkgWrite (Fin.ofNat 8 p) v s)
  | .PWR_DIE p => out (execPwrDieWrite (Fin.ofNat 8 p) v s)
  | _ => s

/-- Offset of the MSI-X table and of the PBA in BAR 0 (R321). -/
def tableOff (f : FnId) : Nat := if isPf f then 0x10000 else 0x2000
def pbaOff (f : FnId) : Nat := if isPf f then 0x18000 else 0x3000

/-- Bytes of the MSI-X table. -/
def tableSize (s : State) (f : FnId) : Nat := 16 * (fnQueues s f + 1)

/-- Whether an access has a natural size of 4 or 8 bytes. -/
def natural (off n : Nat) : Bool := (n == 4 || n == 8) && off % n == 0

/-- A dword of the MSI-X table; Vector Control is masked after reset. -/
def tableWord (s : State) (f : FnId) (i : Nat) : Nat := ((s.fn f).msix.getD i (if i % 4 = 3 then 1 else 0)).toNat % 2 ^ 32

/-- A dword of the PBA. -/
def pbaWord (s : State) (f : FnId) (i : Nat) : Nat := (s.fn f).pba / 2 ^ (32 * i) % 2 ^ 32

/-- Whether a byte of BAR 0 belongs to a register, the MSI-X table or the PBA. -/
def barUsed (s : State) (f : FnId) (off : Nat) : Bool :=
  (barReg s f (off / 4 * 4)).isSome || (match barReg s f (off / 8 * 8) with | some (_, k) => k == 8 | none => false) ||
  (decide (tableOff f ≤ off) && decide (off < tableOff f + tableSize s f)) || (decide (pbaOff f ≤ off) && decide (off < pbaOff f + 8))

/-- Whether an access touches nothing: it reads zero and writes nothing (R321). -/
def barHole (s : State) (f : FnId) (off n : Nat) : Bool := !(List.range n).any (fun i => barUsed s f (off + i))

/-- The bytes a read of BAR 0 returns, none for an access that a register does not accept (R322). -/
def barBytes (s : State) (f : FnId) (off n : Nat) : Option (List Byte) :=
  if barHole s f off n then some (leBytes n 0)
  else if ¬ natural off n then none
  else if tableOff f ≤ off ∧ off + n ≤ tableOff f + tableSize s f then
    some ((List.range (n / 4)).flatMap (fun i => leBytes 4 (tableWord s f ((off - tableOff f) / 4 + i))))
  else if pbaOff f ≤ off ∧ off < pbaOff f + 8 then
    some ((List.range (n / 4)).flatMap (fun i => leBytes 4 (pbaWord s f ((off - pbaOff f) / 4 + i))))
  else
    match barReg s f off with
    | some (r, k) => if n = k then some (leBytes n (barView s f r).toNat) else none
    | none => none

/-- Dwords written into the MSI-X table: an unmasked vector that is pending leaves (R324). -/
def tableWrite (s : State) (f : FnId) (off : Nat) (bs : List Byte) : State :=
  let i := (off - tableOff f) / 4
  let x := s.fn f
  let s := s.setFn f { x with msix := (List.range (bs.length / 4)).foldl (fun (m : NMap Word) j =>
    let v := ofBytes ((bs.drop (4 * j)).take 4)
    let v := if (i + j) % 4 = 0 then v / 4 * 4 else if (i + j) % 4 = 3 then v % 2 else v
    m.set (i + j) (BitVec.ofNat 64 v)) x.msix }
  sendPending s f

/-- A host write into BAR 0 (R322): an access that a register does not accept, or that leaves out some of its bytes, is discarded and
logged. -/
def barStore (s : State) (f : FnId) (off : Nat) (bs : List Byte) (en : List Bool) : State :=
  let n := bs.length
  if barHole s f off n then s
  else if ¬ natural off n ∨ en.contains false then fnErr s f 0
  else if tableOff f ≤ off ∧ off + n ≤ tableOff f + tableSize s f then tableWrite s f off bs
  else if pbaOff f ≤ off ∧ off < pbaOff f + 8 then s
  else
    match barReg s f off with
    | some (r, k) => if n = k then barWrite s f r (BitVec.ofNat 64 (ofBytes bs)) else fnErr s f 0
    | none => fnErr s f 0

/-! ### Inbound requests (R331, R333) -/

/-- A completion leaves. -/
def complete (s : State) (p : Fin 8) (fn : Nat) (st : CplStatus) (bs : List Byte) : State :=
  sendTlp s p (.completion p fn st bs)

/-- Step 4 of R331: Unsupported Request, logged in the PF. -/
def unsupported (s : State) (p : Fin 8) (posted : Bool) : State :=
  let s := fnErr s (.pf p) 0
  if posted then s else complete s p 0 .ur []

/-- The function a Routing ID names (R318). -/
def fnByNum (s : State) (p : Fin 8) (n : Nat) : Option FnId :=
  if n = 0 then (if s.folio.portEnabled p then some (.pf p) else none)
  else
    match (portVfs s p)[n - 1]? with
    | some v => let f : FnId := .vf (Fin.ofNat 4096 v); if fnExists s f then some f else none
    | none => none

/-- What a write of a configuration dword causes (R324, R335 to R337). -/
def cfgWriteEffect (s : State) (f : FnId) (off : Nat) (v : BitVec 32) (m : BitVec 32) : State :=
  let p := fnPort8 s f
  let hit (b : Nat) : Bool := m.getLsbD b
  let store (s : State) : State := setCfg s f off (cfgMerge s f off v m)
  match off with
  | 0x04 =>
    let on := if hit 2 then v.getLsbD 2 else bme s f
    let keep (s : State) : State := setCfg s f off ((cfgMerge s f off v m &&& ~~~ 4) ||| (cfg s f off &&& 4))
    let s := withIntx s p keep
    if on then busMasterOn s f else busMasterOff s f
  | 0x44 =>
    if hit 0 ∧ isPf f then
      if v.extractLsb' 0 2 = 3 then toD3 s f
      else if v.extractLsb' 0 2 = 0 then toD0 s f
      else s
    else s
  | 0x50 => sendPending (withIntx s p store) f
  | 0x78 =>
    let s := store s
    if hit 15 ∧ v.getLsbD 15 then startFlr s f else s
  | 0x160 =>
    if isPf f ∧ hit 0 ∧ ¬ v.getLsbD 0 then store (vfEnableOff s p) else store s
  | _ => store s

/-- The mask of the enabled bytes of a write of `n` bytes at an offset within a dword. -/
def dwMask (off n : Nat) (en : List Bool) : BitVec 32 :=
  let on (i : Nat) : Nat := if en.getD i true then 0xFF * 2 ^ (8 * i) else 0
  BitVec.ofNat 32 (((List.range n).map on).sum * 2 ^ (8 * (off % 4)))

/-- A configuration request (R331 step 1, R336). -/
def cfgRequest (s : State) (p : Fin 8) (t : Tlp) (write : Bool) : State :=
  match fnByNum s p t.fn with
  | none => complete (fnErr s (.pf p) 0) p t.fn .ur []
  | some f =>
    if (s.fn f).flr then complete s p t.fn .crs []
    else
      let off := t.addr / 4 * 4
      if write then
        if t.ep then complete (fnErr s f 2) p t.fn .ok []
        else
          let v := BitVec.ofNat 32 (ofBytes t.bytes * 2 ^ (8 * (t.addr % 4)))
          complete (cfgWriteEffect s f off v (dwMask t.addr t.bytes.length t.enables)) p t.fn .ok []
      else complete s p t.fn .ok (leBytes 4 (cfgRead s f off).toNat)

/-- A dword of the PF by which the bus addresses the port's functions: while the PF is being reset, as it was before (R336). -/
def busCfg (s : State) (p : Fin 8) (off : Nat) : Nat :=
  let x := s.fn (.pf p)
  ((if x.flr then x.oldCfg else x.cfg).getD off (cfgReset off)).toNat

/-- The function whose BAR 0 holds a range, with the offset (R331 step 2). -/
def barOf (s : State) (p : Fin 8) (addr n : Nat) : Option (FnId × Nat) :=
  let base := busCfg s p 0x10 / 16 * 16 + busCfg s p 0x14 * 2 ^ 32
  let vbase := busCfg s p 0x17C / 16 * 16 + busCfg s p 0x180 * 2 ^ 32
  let size := 2 ^ pfBarLog s p
  let vsize := 2 ^ vfBarLog s p
  if s.folio.portEnabled p ∧ (busCfg s p 0x04).testBit 1 ∧ base ≤ addr ∧ addr + n ≤ base + size then some (.pf p, addr - base)
  else if (busCfg s p 0x160).testBit 0 ∧ (busCfg s p 0x160).testBit 3 ∧ vbase ≤ addr ∧
      (addr - vbase) / vsize < busCfg s p 0x168 % 2 ^ 16 then
    match (portVfs s p)[(addr - vbase) / vsize]? with
    | some v => if (addr - vbase) % vsize + n ≤ vsize then some (.vf (Fin.ofNat 4096 v), (addr - vbase) % vsize) else none
    | none => none
  else none

/-- The active peer window that holds a range of the aperture: its number (R331 step 3). -/
def peerWindow (s : State) (p off n : Nat) : Option Nat :=
  (List.range 16).find? (fun w =>
    let a := (s.rd (.HP_WIN_APT_ACT p w)).toNat
    s.bit (.HP_WIN_ATTR_ACT p w) F.HP_WIN_ATTR_VALID && decide (a ≤ off) &&
      decide (off + n ≤ a + (s.rd (.HP_WIN_SIZE_ACT p w)).toNat))

/-- Whether R248 refuses a write to some line of a range. -/
def peerRefused (s : State) (addr n : Nat) : Bool := protectedRange s addr n

/-- The reads at the head of a port's peer requests that have all their data and no posted write before them complete; data
from a poisoned line is returned with EP set. -/
def finishPeers (p : Fin 8) : Nat → State → State
  | 0, s => s
  | n + 1, s =>
    let x := s.port p
    match x.peers with
    | [] => s
    | e :: t =>
      if e.due ≠ [] then s
      else
        let s := s.setPort p { x with peers := t }
        if e.write then finishPeers p n s
        else
          let ls := (lineParts e.addr e.len).map (fun l => (l, (e.lines.get? l.1).getD (0, false)))
          let bs := ls.flatMap (fun y => bytesOf y.2.1 y.1.2.1 y.1.2.2)
          let poison := ls.any (fun y => y.2.2)
          let s := if poison then fnErr s (.pf p) 2 else s
          finishPeers p n (complete s p e.fn (if poison then .ep else .ok) bs)

/-- A peer request in its window (R322, R333); one of no byte at all waits only for the posted writes before it. -/
def peerRequest (s : State) (p : Fin 8) (t : Tlp) (w addr n : Nat) (write : Bool) : State :=
  let attr := Reg.HP_WIN_ATTR_ACT p w
  if ¬ (if write then s.bit attr F.HP_WIN_ATTR_W else s.bit attr F.HP_WIN_ATTR_R) then
    unsupported s p write
  else if write ∧ peerRefused s addr n then fnErr s (.pf p) 1
  else
    let x := s.port p
    let id := x.nextPeer
    let q := 16 + p.val
    let ms := if write then (wrEnabled q 0 (txnOf 1 id) addr t.bytes t.enables).map (fun m => { m with poison := t.ep })
      else (lineParts addr n).map (fun e => engMsg q .rdOnce 0 e.1 (txnOf 1 id))
    let pr : Peer := ⟨id, write, 0, addr, n, ms.map (·.line), []⟩
    let s := if t.ep then fnErr s (.pf p) 2 else s
    let s := putTransfers (s.setPort p { s.port p with peers := x.peers ++ [pr], nextPeer := id + 1 }) q ms
    finishPeers p (x.peers.length + 1) s

/-- A memory request (R331 steps 2 to 4, R336). -/
def memRequest (s : State) (p : Fin 8) (t : Tlp) (write : Bool) : State :=
  let n := if write then t.bytes.length else t.len
  match barOf s p t.addr n with
  | none => unsupported s p write
  | some (f, off) =>
    if (s.fn f).flr then (if write then s else complete (fnErr s f 0) p (fnNum s f) .ur [])
    else if inD3 s f then (let s := fnErr s f 0; if write then s else complete s p (fnNum s f) .ur [])
    else if isPf f ∧ 0x100000 ≤ off then
      match peerWindow s p off n with
      | none => portErr (unsupported s p write) p 0 1
      | some w =>
        let a := (s.rd (.HP_WIN_TARGET_ACT p w)).toNat + off - (s.rd (.HP_WIN_APT_ACT p w)).toNat
        peerRequest s p t w a n write
    else if write then (if t.ep then fnErr s f 2 else barStore s f off t.bytes t.enables)
    else
      match barBytes s f off n with
      | some bs => complete s p (fnNum s f) .ok bs
      | none => complete (fnErr s f 1) p (fnNum s f) .ca []

/-- INBOUND_TLP: a request is decoded once, when it arrives (R331). A kind the port does not support is answered with
Unsupported Request (R315); an error of the link is logged (R340). -/
def execInboundTlp (p : Fin 8) (t : Tlp) (s : State) : Out :=
  if ¬ linkIsUp s p then .next s
  else
    let r := lcrcReplay s p
    let s := tookTlp r p
    match t.kind with
    | .cfgRead => .next (cfgRequest s p t false)
    | .cfgWrite => .next (cfgRequest s p t true)
    | .memRead => .next (memRequest s p t false)
    | .memWrite => .next (memRequest s p t true)
    | .other posted => .next (unsupported s p posted)
    | .fatal e => .next (linkFatal s p e)
    | .damaged => .next (replayed r p)

/-! ### Peer requests that end (R333) -/

/-- A line of a peer request has entered its slice, or its data has come. -/
def peerLine (s : State) (p : Fin 8) (id line : Nat) (data : Option (LineData × Bool)) : State :=
  let x := s.port p
  let s := s.setPort p { x with peers := x.peers.map (fun e =>
    if e.id = id then
      { e with due := e.due.filter (fun l => l != line)
               lines := match data with | some d => e.lines.set line d | none => e.lines }
    else e) }
  finishPeers p x.peers.length s

/-! ### Peer windows (R332, R334) -/

/-- The shadow registers of a window, and their active copies. -/
def winRegs (p w : Nat) : List (Reg × Reg) :=
  [(.HP_WIN_APT p w, .HP_WIN_APT_ACT p w), (.HP_WIN_SIZE p w, .HP_WIN_SIZE_ACT p w),
   (.HP_WIN_TARGET p w, .HP_WIN_TARGET_ACT p w), (.HP_WIN_ATTR p w, .HP_WIN_ATTR_ACT p w)]

/-- The valid windows of a port's shadow set: aperture, size, target. -/
def shadowWins (s : State) (p : Nat) : List (Nat × Nat × Nat) :=
  ((List.range 16).filter (fun w => s.bit (.HP_WIN_ATTR p w) F.HP_WIN_ATTR_VALID)).map (fun w =>
    ((s.rd (.HP_WIN_APT p w)).toNat, (s.rd (.HP_WIN_SIZE p w)).toNat, (s.rd (.HP_WIN_TARGET p w)).toNat))

/-- The conditions of R332 on a window set. -/
def winsOk (s : State) (p : Nat) (ws : List (Nat × Nat × Nat)) : Bool :=
  ws.all (fun w => decide (w.2.1 ≠ 0) && decide (0x100000 ≤ w.1) && decide (w.1 + w.2.1 ≤ 2 ^ pfBarLog s p) &&
    covered s 0 w.2.2 w.2.1) &&
  (ws.zipIdx).all (fun a => (ws.zipIdx).all (fun b => a.2 == b.2 || !meets a.1.1 a.1.2.1 b.1.1 b.1.2.1))

/-- HP_WIN_COMMIT_GO: the shadow set is checked; it is refused with WIN_REFUSED, or it waits for its switch (R332, R334). A
1 written to WIN_REFUSED clears it, and its mirror. -/
def execHpWinCommitGo (who : Agent) (p : Fin 8) (v : Word) (s : State) : Out :=
  if ¬ s.isHouse who then .next s
  else
    let r := Reg.HP_WIN_COMMIT p
    let s := if F.HP_WIN_COMMIT_WIN_REFUSED.get v = 1 then
        (s.put r F.HP_WIN_COMMIT_WIN_REFUSED 0).put (.HP_ERR p) F.HP_ERR_WIN_REFUSED 0 else s
    if F.HP_WIN_COMMIT_GO.get v = 0 then .next s
    else if winsOk s p (shadowWins s p) then
      let ws := (List.range 16).flatMap (fun w => (winRegs p w).map (fun e => s.rd e.1))
      .next ((s.setPort p { s.port p with winPend := ws }).put r F.HP_WIN_COMMIT_WIN_PEND 1)
    else .next (portErr (s.put r F.HP_WIN_COMMIT_WIN_REFUSED 1) p 5 0)

/-- WINDOW_SET_SWITCH: the whole set switches between two inbound TLPs (R334). -/
def execWindowSetSwitch (p : Fin 8) (s : State) : Out :=
  if ¬ s.bit (.HP_WIN_COMMIT p) F.HP_WIN_COMMIT_WIN_PEND then .next s
  else
    let rs := (List.range 16).flatMap (fun w => (winRegs p w).map (·.2))
    let s := overAll (rs.zip (s.port p).winPend) (fun s e => s.wr e.1 e.2) s
    .next ((s.setPort p { s.port p with winPend := [] }).put (.HP_WIN_COMMIT p) F.HP_WIN_COMMIT_WIN_PEND 0)

/-! ### HP_INJECT (R341, R432) -/

/-- A write to HP_INJECT by H[0]: TIMEOUT acts on the oldest outstanding read, LINK_DOWN at once; the others wait. -/
def hpInject (s : State) (who : Agent) (p : Fin 8) (v : Word) : State :=
  if ¬ s.isHouse who then s
  else
    let r := Reg.HP_INJECT p
    let s := s.wr r (r.written (s.rd r) v)
    let s := if s.bit r F.HP_INJECT_TIMEOUT then
        match (s.port p).reads with
        | x :: _ => timeOut (s.put r F.HP_INJECT_TIMEOUT 0) p x
        | [] => s
      else s
    if s.bit r F.HP_INJECT_LINK_DOWN then linkDown (s.put r F.HP_INJECT_LINK_DOWN 0) p else s

/-- HP_INJECT_LINK_DOWN. -/
def execHpInjectLinkDown (who : Agent) (p : Fin 8) (v : Word) (s : State) : Out := .next (hpInject s who p v)
/-- HP_INJECT_POISON. -/
def execHpInjectPoison (who : Agent) (p : Fin 8) (v : Word) (s : State) : Out := .next (hpInject s who p v)
/-- HP_INJECT_TIMEOUT. -/
def execHpInjectTimeout (who : Agent) (p : Fin 8) (v : Word) (s : State) : Out := .next (hpInject s who p v)
/-- HP_INJECT_LCRC. -/
def execHpInjectLcrc (who : Agent) (p : Fin 8) (v : Word) (s : State) : Out := .next (hpInject s who p v)

end Sys2Proof.Machine
end

