-- ==== Sys2Proof/Machine/Answers.lean ====
section
/-! DEFINITION. Answers of the home slices to dies and to the agents of the IOD, and the entry of class D transfers (R97,
R212, R214, R216, R328). -/

namespace Sys2Proof.Machine

/-- A line that a secure call asked for has come, or a write of it has been answered (R398, R399). -/
def arcAnswer (s : State) (id line : Nat) (data : Option (LineData × Bool)) : State :=
  if id = 64 then { s with arc := { s.arc with zeroLeft := s.arc.zeroLeft - 1 } }
  else if id = 65 then { s with arc := { s.arc with tamperLeft := s.arc.tamperLeft - 1 } }
  else
    match s.arc.serving.get? id with
    | none => s
    | some v =>
      let v := { v with
        due := v.due.filter (fun l => l != line)
        lines := match data with | some d => v.lines.set line d | none => v.lines }
      { s with arc := { s.arc with serving := s.arc.serving.set id v } }

/-- A line of a delivery: its staged copy has been read and is written to the visible half, poison with it, or that write
has been answered (R252, R254). A delivery that HAND_LOSS or a stop has ended awaits none (R259). -/
def deliveryLine (s : State) (h : Nat) (m : Msg) (data : Option (LineData × Bool)) : State :=
  let l := s.ledger h
  let rest := l.waits.filter (fun x => x != m.line)
  if !l.waits.contains m.line then s
  else
  match data with
  | none => s.setLedger h { l with waits := rest }
  | some d =>
    let line := m.line - (intakeHalf s h).2 / 64
    putTransfers (s.setLedger h { l with waits := rest ++ [line] }) 24
      [wrMsg 24 m.hand line m.txn d.1 (BitVec.allOnes 64) d.2]

/-- An answer to an agent of the IOD, by the work its request belongs to. -/
def iodAnswer (s : State) (m : Msg) : State :=
  let id := txnId m
  let data : Option (LineData × Bool) := if m.op = .dataNc then some (m.data, m.poison) else none
  match txnKind m with
  | 0 =>
    let x := slipOfKey id
    match data with
    | some d => settle (copyOutLine s x.1 x.2.1 x.2.2 m.line d.1 d.2) x.1
    | none => s
  | 1 =>
    match data with
    | some _ => peerLine s (Fin.ofNat 8 (m.agent - 16)) id m.line data
    | none => s
  | 3 =>
    deliveryLine s (id % 64) m data
  | 5 => arcAnswer s id m.line data
  | _ => s

/-- An answer that a home slice has sent to an agent of the IOD is received; `other` receives one for a die. -/
def receive (s : State) (m : Msg) (other : Nat → State) : State :=
  match m.src with
  | .die d => other d.val
  | _ => if s.iod.contains m then iodAnswer { s with iod := s.iod.erase m } m else s

/-- CMP: it ends an UPGRADE, a CLAIM, a write or a CBO (R212, R214). -/
def execCmp (m : Msg) (s : State) : Out := let m := { m with op := .cmp }; .next (receive s m (fun d => dieCmp s d m))
/-- CMP_PARTIAL: matched by line to the outstanding WR_PARTIAL (R216). -/
def execCmpPartial (m : Msg) (s : State) : Out :=
  let m := { m with op := .cmpPartial }
  .next (receive s m (fun d => dieCmpPartial s d m))
/-- DATA_NC: the data of a non-cacheable read; nothing is installed (R214). -/
def execDataNc (m : Msg) (s : State) : Out := let m := { m with op := .dataNc }; .next (receive s m (fun d => dieDataNc s d m))

/-- What the entry of some lines of one piece of work causes: a COPY_IN takes effect by them, a peer write is accepted, the payload of
a SET_STATE stands in its buffer (R333, R353, R365). -/
def workEntered (s : State) (txn : Nat) (q : Nat) (lines : List Nat) : State :=
  match txn % 8 with
  | 0 =>
    let x := slipOfKey (txn / 8)
    settle (copyInEntered s x.1 x.2.1 x.2.2 lines) x.1
  | 1 => overAll lines (fun s l => peerLine s (Fin.ofNat 8 (q - 16)) (txn / 8) l none) s
  | 4 => payloadEntered s (txn / 8)
  | _ => s

/-- CLASS_D_TRANSFER_ENTER: the last message of a transfer has arrived at its slice, so all enter the pipeline together
(R97); the engine's next transfer for the slice starts (R328). -/
def execClassDTransferEnter (n : Fin 16) (q : Fin 10) (s : State) : Out :=
  let r := enterTransfer s n (16 + q.val)
  let writes := r.1.filter (fun m => m.op == .wrFull || m.op == .wrPartial)
  let works := (writes.map (·.txn)).eraseDups
  let s := overAll works (fun s t =>
    workEntered s t (16 + q.val) ((writes.filter (fun m => m.txn == t)).map (·.line))) r.2
  .next (pumpEngine s (16 + q.val))

end Sys2Proof.Machine
end

