-- ==== Sys2Proof/Machine/Ledger.lean ====
section
/-! DEFINITION. Ledger mode: the phases of an epoch, publication, deliveries of intakes, the epoch boundary (R239 to R260).
A row whose lines or deliveries are still on their way leaves its requests out and is offered again. -/

namespace Sys2Proof.Machine

/-- PHASE of a ledger hand (R263): 0 inactive, 1 starting, 2 Run, 3 Publish, 4 Deliver. -/
def phaseOf (s : State) (h : Nat) : Nat := s.get (.CSQ_LDG_PHASE h) F.CSQ_LDG_PHASE_PHASE

/-- A phase entered, with the count of ended quanta and rank 0 at the token. -/
def setPhase (s : State) (h n ended : Nat) : State :=
  let s := s.put (.CSQ_LDG_PHASE h) F.CSQ_LDG_PHASE_PHASE n
  let s := s.put (.CSQ_LDG_PHASE h) F.CSQ_LDG_PHASE_ENDED ended
  s.put (.CSQ_LDG_PHASE h) F.CSQ_LDG_PHASE_TOKEN 0

/-- Host reads for every intake of a hand that is being staged (R253). -/
def stageAll (s : State) (h : Nat) : State :=
  overAll ((s.ledger h).intakes.filter (fun i => i.state == 1)) (fun s i => stageReads s h i.id) s

/-- What follows a step that may have raised HAND_LOSS: nothing more of the phase in progress (R259). -/
def unlessLost (s : State) (h : Nat) (f : State → State) : State := if s.handLost h then s else f s

/-! ### Run (R239, R241) -/

/-- LEDGER_RUN_END: every core's quantum has ended; the merging buffers drain into the ledger buffers and Publish begins at
rank 0 (R239). -/
def execLedgerRunEnd (h : Fin 64) (s : State) : Out :=
  let cs := s.coresOf h
  if phaseOf s h ≠ 2 ∨ ¬ cs.all (fun c => (s.core c).ended) then .next s
  else
    let s := overAll cs drainAll s
    if ¬ cs.all (drained s) ∨ s.handLost h then .next s
    else
      let s := s.setLedger h { s.ledger h with token := 0 }
      .next (s.put (.CSQ_LDG_PHASE h) F.CSQ_LDG_PHASE_PHASE 3)

/-! ### Publication (R246, R247) -/

/-- A line of a ledger hand is written: the reservations of its cores on it end (R247). -/
def loseReservations (s : State) (h line : Nat) : State :=
  overAll (s.coresOf h) (fun s c =>
    let k := s.core c
    match k.resv with
    | some r => if r.1 / 64 = line then s.setCore c { k with resv := none } else s
    | none => s) s

/-- Lines published in turn, each merged into the core's copy in M and taken out of its ledger buffer; the first that the
core does not own yet stops them (R246 step 1), and so does HAND_LOSS (R259). -/
def publishLines (h c : Nat) : List MbEnt → State → State
  | [], s => s
  | e :: t, s =>
    match coreOwn s c e.line (firstChunk e.mask) with
    | (none, s) => s
    | (some l, s) =>
      let b := bufSram s 8 c e.line (some h)
      let s := b.2
      if s.handLost h then s
      else
      let o := overlay (if b.1 then { e with poison := true } else e) l.data l.poison
      let s := storeL2 s c { l with data := o.1, poison := o.2 }
      let k := s.core c
      publishLines h c t (loseReservations (s.setCore c { k with lbuf := k.lbuf.filter (fun x => x.line != e.line) }) h e.line)

/-- A list of entries with one more, in ascending order of lines. -/
def insertLine (e : MbEnt) : List MbEnt → List MbEnt
  | [] => [e]
  | x :: t => if e.line ≤ x.line then e :: x :: t else x :: insertLine e t

/-- Ledger-buffer entries in ascending order of lines. -/
def byLine (l : List MbEnt) : List MbEnt := l.foldr insertLine []

/-- A poisoned AMO or LR of the publication point: its hardware error waits for the boundary; an LR ends the reservation that the
core held before (R247). -/
def lateError (s : State) (c : Nat) (va : Word) (line : Nat) : State :=
  s.setCore c { s.core c with later := none, lateErr := some (va, line) }

/-- The atomic that ended the quantum is done. -/
def lateDone (s : State) (c : Nat) : State := s.setCore c { s.core c with later := none }

/-- The atomic that ended the quantum performed at the publication point (R246 step 2, R247); it waits while the core does
not own its line. -/
def performLater (s : State) (h c : Nat) : State :=
  match (s.core c).later with
  | none => s
  | some (.amo op va pa) =>
    match coreOwn s c (pa / 64) (pa % 64 / 16) with
    | (none, s) => s
    | (some l, s) =>
      if l.poison then lateError s c va l.line
      else lateDone (loseReservations (doAmo s c op va pa l) h l.line) c
  | some (.lr op va pa) =>
    match coreOwn s c (pa / 64) (pa % 64 / 16) with
    | (none, s) => s
    | (some l, s) =>
      if l.poison then lateError (s.setCore c { s.core c with resv := none }) c va l.line
      else
        let s := amoRd s c op (lineGet l.data (pa % 64) op.bytes)
        let k := s.core c
        lateDone ((s.setCore c { k with resv := some (pa, op.bytes) }).retire c 4) c
  | some (.sc op _ pa) =>
    match coreOwn s c (pa / 64) (pa % 64 / 16) with
    | (none, s) => s
    | (some l, s) =>
      let ok := (s.core c).resv == some (pa, op.bytes)
      let s := doSc s c op pa l
      lateDone (if ok then loseReservations s h l.line else s) c

/-- A held control-space store performed (R246 step 3, R249, R250). -/
def performHeld (s : State) (e : MbEnt) : State :=
  let off := ((List.range 8).find? (fun i => e.mask.getLsbD (8 * i))).getD 0
  let v : Word := BitVec.ofNat 64 (lineGet e.data (8 * off) 8)
  match Reg.ofAddr (64 * e.line + 8 * off) with
  | some (.CORE_MSIP c) => setCoreReg s (.CORE_MSIP c) c v
  | some (.CORE_MTIMECMP c) => setCoreReg s (.CORE_MTIMECMP c) c v
  | _ => s

/-- What a core does when it holds the token: steps 1 to 4 of R246. -/
def publish (s : State) (h c : Nat) : State :=
  let s := publishLines h c (byLine (s.core c).lbuf) s
  if (s.core c).lbuf ≠ [] ∨ s.handLost h then s
  else
    let s := performLater s h c
    if (s.core c).later ≠ none ∨ s.handLost h then s
    else
      let s := overAll (s.core c).held performHeld s
      let s := s.setCore c { s.core c with held := [], published := true }
      let l := s.ledger h
      let n := l.token + 1
      let s := s.setLedger h { l with token := n }
      if n < (s.coresOf h).length then s.put (.CSQ_LDG_PHASE h) F.CSQ_LDG_PHASE_TOKEN n else s

/-- LEDGER_TOKEN_ARRIVE (R246). -/
def execLedgerTokenArrive (c : Fin 384) (s : State) : Out :=
  match s.handOf c with
  | none => .next s
  | some h =>
    if s.folio.isLedger h ∧ phaseOf s h = 3 ∧ (s.ledger h).token = (s.core c).rank then .next (publish s h c) else .next s

/-! ### Deliveries (R254, R255) -/

/-- SEQ, FAILED and LASTFAIL for an intake that is handled with the SEQ it took at the cutoff (R254, R255). -/
def noteIntake (s : State) (h : Nat) (i : Intake) : State :=
  let s := (s.put (.CSQ_LDG_INTAKES h) F.CSQ_LDG_INTAKES_SEQ i.seq).countBlk 56 0x0504 1
  if i.state = 3 then
    let s := s.inc (.CSQ_LDG_INTAKES h) F.CSQ_LDG_INTAKES_FAILED
    let s := s.put (.CSQ_LDG_LASTFAIL h) F.CSQ_LDG_LASTFAIL_KIND (if i.posted.isSome then 1 else 0)
    let s := s.put (.CSQ_LDG_LASTFAIL h) F.CSQ_LDG_LASTFAIL_SEQ i.seq
    s.raise (.CSQ_LDG_ERR h) 0 23 0x2900 (some h) 1 0
  else s

/-- The copy of a staged intake, or the zeros of a failed one: requests of requester 24 with the hand of the function that
carried it (R252, R254). -/
def sendDelivery (s : State) (h : Nat) (i : Intake) : State :=
  let w := intakeHalf s h
  let hand := fnHand s (intakeFn i)
  let txn := txnOf 3 (intakeKey h i.id)
  let vis := (lineParts (w.1 + i.dest) i.length).map (·.1)
  let ms : List Msg :=
    if i.state = 3 then vis.map (fun l => wrMsg 24 hand l txn 0 (BitVec.allOnes 64) false)
    else vis.map (fun l => engMsg 24 .rdOnce hand (l + w.2 / 64) txn)
  let l := s.ledger h
  putTransfers (s.setLedger h { l with waits := l.waits ++ ms.map (·.line) }) 24 ms

/-- Intakes due at the epoch that the Deliver phase precedes, in their order. -/
def dueIntakes (s : State) (h : Nat) : List Intake := (s.ledger h).intakes.filter (fun i => i.due)

/-- The end of a hold for staging: its length in ns is noted (R254, R263). -/
def endHold (s : State) (h : Nat) : State :=
  match (s.ledger h).held with
  | none => s
  | some t =>
    let r := Reg.CSQ_LDG_WAITS h
    let n := min ((s.cycle - t) / 2) 0xFFFFFFFF
    let s := s.setLedger h { s.ledger h with held := none }
    s.put r F.CSQ_LDG_WAITS_LONGEST (max n (s.get r F.CSQ_LDG_WAITS_LONGEST))

/-- Every due intake is handled once the staging of each has completed or failed (R254). -/
def deliverDue (s : State) (h : Nat) : State :=
  if (s.ledger h).placed ∨ ¬ (dueIntakes s h).all (fun i => decide (2 ≤ i.state)) then s
  else
    let s := endHold s h
    let s := overAll (dueIntakes s h) (fun s i =>
      unlessLost s h (fun s => unlessLost (noteIntake s h i) h (fun s => sendDelivery s h i))) s
    unlessLost s h (fun s => s.setLedger h { s.ledger h with placed := true })

/-- A Deliver phase that must wait for staging is held: STAGE_WAIT and COUNT (R254). -/
def holdDeliver (s : State) (h : Nat) : State :=
  if (s.ledger h).placed ∨ s.handLost h then s
  else
    let s := s.setLedger h { s.ledger h with held := some s.cycle }
    let s := s.inc (.CSQ_LDG_WAITS h) F.CSQ_LDG_WAITS_COUNT
    s.raise (.CSQ_LDG_ERR h) 1 23 0x2900 (some h) 1 0

/-- CORE_CTL_START (R126). Where the last core of a ledger hand enters STARTING, the staging of its intakes begins and those due
at epoch 0 are delivered once they are staged (R253, R254, R257). -/
def execCoreCtlStart (who : Agent) (c : Fin 384) (v : Word) (s : State) : Out :=
  let t := coreCtl s who c v
  match s.handOf c with
  | some h => .next (if phaseOf t h = 1 ∧ phaseOf s h ≠ 1 then holdDeliver (deliverDue (stageAll t h) h) h else t)
  | none => .next t

/-- Whether intakes are being delivered: in Deliver, or before epoch 0 (R254, R257). -/
def delivering (s : State) (h : Nat) : Bool := phaseOf s h == 1 || phaseOf s h == 4

/-- LEDGER_PUBLISH_END: the token has reached the IOD. A STOP takes effect; otherwise the cutoff falls and the Deliver
phase begins (R239, R254, R258). -/
def execLedgerPublishEnd (h : Fin 64) (s : State) : Out :=
  let l := s.ledger h
  if phaseOf s h ≠ 3 ∨ l.token < (s.coresOf h).length then .next s
  else if l.stop then .next (stopLedger s h ((s.rd (.CSQ_LDG_EPOCH h)).toNat + 1))
  else
    let e := (s.rd (.CSQ_LDG_EPOCH h)).toNat + 1
    let s := s.setLedger h (cutoff l e)
    let s := s.put (.CSQ_LDG_PHASE h) F.CSQ_LDG_PHASE_PHASE 4
    let s := s.put (.CSQ_LDG_PHASE h) F.CSQ_LDG_PHASE_TOKEN 0
    .next (holdDeliver (deliverDue s h) h)

/-- INTAKE_STAGING_DONE: the whole block is in the staging half, or its staging has failed; a Deliver phase held for it goes
on (R253 to R255). -/
def execIntakeStagingDone (h : Fin 64) (id : Nat) (ok : Bool) (s : State) : Out :=
  match findIntake s h id with
  | none => .next s
  | some i =>
    let s :=
      if i.state ≠ 1 then s
      else if ¬ ok then failIntake s h id 0x25
      else if i.data.length = i.length ∧ (outMsgs s 24 (fun m => m.txn == txnOf 2 (intakeKey h id))).isEmpty then
        setIntake s h { i with state := 2 }
      else s
    .next (if delivering s h then deliverDue s h else s)

/-! ### The boundary (R239, R247, R251, R253, R254) -/

/-- The return slip of a POST is due: OK, or the status of its failure, with the SEQ it took (R254, R255, R347). -/
def endPost (s : State) (i : Intake) : State :=
  match i.posted with
  | none => s
  | some (f, q, seq, _) =>
    if i.state ≠ 3 then s.endSlip f q seq 0 i.seq 0
    else
      match findSlip s f q seq with
      | none => s
      | some e =>
        let s := logError s f q i.status 0 e.bits e.index (slipPkg e.bits) 0
        let r := compactFreeze s f q
        r.2.endSlip f q seq i.status i.seq (if r.1 then 8 else 0)

/-- The return slips of the POSTs that a Deliver phase handled. -/
def endPosts (s : State) (h : Nat) : State :=
  let ds := dueIntakes s h
  let s := overAll ds endPost s
  overAll ((ds.filterMap (fun i => i.posted.map (·.1))).eraseDups) settle s

/-- The mailbox entries of the intakes delivered, appended for every core in SEQ order; the oldest of more than 64 go
(R147). -/
def appendMail (s : State) (h : Nat) : State :=
  let es := (dueIntakes s h).map (fun i => (⟨i.seq, i.dest, i.length, if i.state = 3 then 1 else 0⟩ : MailEnt))
  overAll (s.coresOf h) (fun s c =>
    let k := s.core c
    let m := k.mail ++ es
    s.setCore c { k with mail := m.drop (m.length - 64) }) s

/-- The delivered intakes go; a scheduled one with a PERIOD begins its next staging (R253). -/
def nextIntakes (s : State) (h : Nat) : State :=
  let l := s.ledger h
  let next (i : Intake) : Option Intake :=
    if !i.due then some i
    else
      match i.period with
      | some (p + 1) => some { i with epoch := i.epoch + p + 1, state := 1, status := 0, asked := 0, data := [], sent := [], due := false, seq := 0 }
      | _ => none
  stageAll (s.setLedger h { l with intakes := l.intakes.filterMap next, waits := [], placed := false, held := none, token := 0 }) h

/-- An interrupt taken at the boundary; an external one sets VOID_INT. It abandons a wait in JL.SKIP (R146, R251, R261). -/
def boundaryInt (s : State) (c : Nat) : State :=
  match chosenInt s c with
  | none => s
  | some (_, i) =>
    let s := if i = 11 ∨ i = 9 then voidInt s c else s
    let s := takeInterrupt s c
    s.setCore c { s.core c with skip := none }

/-- The boundary into an epoch on one core: the trap of an ECALL or of a poisoned atomic first, then a JL.SKIP whose epoch
has come retires, then interrupts, then the new quantum, empty while the core still waits in JL.SKIP (R241, R247, R251). -/
def boundaryCore (s : State) (c : Nat) : State :=
  let k := s.core c
  let s := if k.endCode = 4 ∧ k.skip = none then trap s c (ecallCause s c) 0 else s
  let s := match k.lateErr with
    | some (va, line) => hwError (s.setCore c { s.core c with lateErr := none }) c va 1 line
    | none => s
  let s := match (s.core c).skip with
    | some t => if t ≤ epochOf s c then (s.setCore c { s.core c with skip := none }).retire c 4 else s
    | none => s
  let s := boundaryInt (refreshMip s c) c
  let k := s.core c
  s.setCore c { k with count := 0, ended := k.skip.isSome, published := false }

/-- The boundary into the next epoch, or the end of a Deliver phase in which a STOP came (R239, R258); HAND_LOSS ends it where it
stands (R259). -/
def boundary (s : State) (h : Nat) : State :=
  let s := endPosts s h
  if s.handLost h then s
  else if (s.ledger h).stop then
    stopLedger (s.setLedger h { s.ledger h with intakes := (s.ledger h).intakes.filter (fun i => !i.due) }) h
      ((s.rd (.CSQ_LDG_EPOCH h)).toNat + 2)
  else
    let e := s.rd (.CSQ_LDG_EPOCH h) + 1
    let s := appendMail (s.wr (.CSQ_LDG_EPOCH h) e) h
    let s := overAll (s.coresOf h) (fun s c => unlessLost s h (fun s => boundaryCore s c)) s
    unlessLost s h fun s =>
    let n := ((s.coresOf h).filter (fun c => (s.core c).ended)).length
    nextIntakes (setPhase s h 2 n) h

/-- EPOCH_BOUNDARY: the Deliver phase ends when every due intake is delivered or has failed (R239, R254). -/
def execEpochBoundary (h : Fin 64) (s : State) : Out :=
  if phaseOf s h ≠ 4 then .next s
  else
    let s := deliverDue s h
    if (s.ledger h).placed ∧ (s.ledger h).waits = [] then .next (boundary s h) else .next s

/-- LEDGER_EPOCH0_START: the intakes due at epoch 0 are delivered, and every core of the hand enters RUNNING at the boundary
into epoch 0 (R127, R257). -/
def execLedgerEpoch0Start (h : Fin 64) (s : State) : Out :=
  if phaseOf s h ≠ 1 ∨ ¬ (s.coresOf h).all (fun c => s.coreState c == 2) then .next s
  else
    let s := deliverDue (stageAll s h) h
    if (s.ledger h).placed ∧ (s.ledger h).waits = [] then
      let s := endPosts s h
      let s := overAll (s.coresOf h) (fun s c => beginCore s c h) s
      let s := appendMail s h
      .next (nextIntakes (setPhase s h 2 0) h)
    else .next s

end Sys2Proof.Machine
end

