-- ==== Sys2Proof/Machine/Image.lean ====
section
/-! DEFINITION. Images as bytes: their fields, CRC-32, the directory, and the leaves read into typed records (R49 to R72,
R390). -/

namespace Sys2Proof.Machine

/-! ### Bytes of an image -/

/-- A byte of an image; a byte of flash that nothing has programmed reads 0xFF (DESIGN CHOICE: an erased flash). -/
def imByte (im : List Byte) (i : Nat) : Byte := im.getD i 0xFF

/-- Bytes of an image. -/
def imBytes (im : List Byte) (off n : Nat) : List Byte :=
  let l := (im.drop off).take n
  l ++ List.replicate (n - l.length) 0xFF

/-- A little-endian field of an image. -/
def imLe (im : List Byte) (off n : Nat) : Nat := ofBytes (imBytes im off n)

/-- A byte string of an image as a digest, first byte most significant (R49). -/
def imDigest (im : List Byte) (off : Nat) : BitVec 384 :=
  (imBytes im off 48).foldl (fun (d : BitVec 384) b => (d <<< 8) ||| b.setWidth 384) 0

/-- One bit of the reflected CRC-32 of IEEE 802.3 (R50). -/
def crc32Bit (c : BitVec 32) : BitVec 32 := if c.getLsbD 0 then (c >>> 1) ^^^ 0xEDB88320 else c >>> 1

/-- CRC-32 of a byte string (R50). -/
def crc32 (bs : List Byte) : BitVec 32 :=
  ~~~ bs.foldl (fun (c : BitVec 32) b =>
    let x := c ^^^ b.setWidth 32
    crc32Bit (crc32Bit (crc32Bit (crc32Bit (crc32Bit (crc32Bit (crc32Bit (crc32Bit x)))))))) 0xFFFFFFFF

/-- A failed check: code of R74, leaf kind, and byte offset of the failing field (R74, R484). -/
structure Bad where
  code : Nat
  leaf : Nat
  off  : Nat
  deriving DecidableEq, Repr

/-- The first check that fails. -/
def firstBad (l : List (Option Bad)) : Option Bad := l.findSome? id

/-- A check at an offset of a leaf. -/
def badIf (b : Bool) (code leaf off : Nat) : Option Bad := if b then some ⟨code, leaf, off⟩ else none

/-- Offsets of reserved fields that are not zero. -/
def nonZero (l : List (Nat × Nat)) : List Nat := (l.filter (fun e => e.2 != 0)).map (·.1)

/-! ### Header and directory (R49 to R51) -/

/-- A directory entry with its own offset (R50). -/
structure DirEntry where
  at_     : Nat
  leaf    : Nat
  version : Nat
  res     : Nat
  off     : Nat
  len     : Nat
  crc     : Nat
  deriving DecidableEq, Repr

/-- The directory of an image. -/
def directory (im : List Byte) : List DirEntry :=
  (List.range (imLe im 0x0C 2)).map (fun i =>
    let o := 0x80 + 16 * i
    ⟨o, imLe im o 1, imLe im (o + 1) 1, imLe im (o + 2) 2, imLe im (o + 4) 4, imLe im (o + 8) 4, imLe im (o + 12) 4⟩)

/-- The entry of a leaf kind. -/
def entryOf (im : List Byte) (kind : Nat) : Option DirEntry := (directory im).find? (fun e => e.leaf == kind)

/-! ### Leaves (R53 to R71) -/

/-- Offset and length of a leaf, zero where it is absent. -/
def leafAt (im : List Byte) (kind : Nat) : Nat × Nat :=
  match entryOf im kind with
  | some e => (e.off, e.len)
  | none => (0, 0)

/-- The DIES leaf (R53). -/
def readDies (im : List Byte) (b len : Nat) : List DieRec :=
  (List.range (min 16 (len / 8))).map (fun i =>
    let o := b + 8 * i
    let fl := imLe im (o + 1) 1
    let en := imLe im (o + 4) 4
    ⟨o, imLe im o 1, fl % 2 == 1, en % 2 ^ 24, nonZero [(1, fl / 2), (2, imLe im (o + 2) 2), (4, en / 2 ^ 24)]⟩)

/-- The HANDS leaf (R54); `add` for an addendum. -/
def readHands (im : List Byte) (b len : Nat) (add : Bool) : List HandRec :=
  (List.range (len / 64)).map (fun i =>
    let o := b + 64 * i
    ⟨o, add, imLe im o 1, imLe im (o + 1) 1, imLe im (o + 2) 1, imLe im (o + 8) 48, imLe im (o + 0x38) 8,
      nonZero [(3, imLe im (o + 3) 5)]⟩)

/-- The DEALS leaf (R56): records of varying length up to the end of the leaf; a LENGTH that runs past it counts among the bad
fields. -/
def readDeals (im : List Byte) (add : Bool) (stop : Nat) : Nat → Nat → List DealRec
  | 0, _ => []
  | n + 1, o =>
    if stop < o + 8 then []
    else
      let len := imLe im (o + 2) 2
      ⟨o, add, imLe im o 1, len, imLe im (o + 4) 2, (imBytes im (o + 8) len).map (·.toNat),
        nonZero [(1, imLe im (o + 1) 1), (2, o + 8 + len - stop), (6, imLe im (o + 6) 2)]⟩ :: readDeals im add stop n (o + 8 + len)

/-- The MAP leaf (R58). Bits 31:12 of every CTRL_ACCESS entry are reserved. A WINDOW_COUNT that the leaf's length does not
match counts among the bad fields. -/
def readMap (im : List Byte) (b len : Nat) : MapLeaf :=
  let fl := imLe im (b + 2) 2
  let n := imLe im (b + 4) 2
  let ctrl := (List.range 64).map (fun h => imLe im (b + 0x10 + 4 * h) 4)
  ⟨b, imLe im b 2, fl % 2 == 1, n, ctrl.map (fun w => w % 2 ^ 12),
    (List.range (min (min n 1024) ((len - 0x110) / 32))).map (fun i =>
      let o := b + 0x110 + 32 * i
      ⟨o, imLe im o 8, imLe im (o + 8) 8, imLe im (o + 0x10) 8, imLe im (o + 0x18) 1, nonZero [(0x19, imLe im (o + 0x19) 7)]⟩),
    nonZero ([(2, fl / 2), (4, if len = 0x110 + 32 * n then 0 else 1), (6, imLe im (b + 6) 10)] ++ ctrl.zipIdx.map (fun e => (0x10 + 4 * e.2, e.1 / 2 ^ 12)))⟩

/-- The HOME leaf (R60). -/
def readHome (im : List Byte) (b : Nat) : HomeLeaf :=
  ⟨b, (List.range 4).map (fun k => imLe im (b + 8 * k) 8), imLe im (b + 0x20) 1, nonZero [(0x21, imLe im (b + 0x21) 7)]⟩

/-- The CHANNELS leaf (R61). -/
def readChans (im : List Byte) (b : Nat) : ChanLeaf :=
  ⟨b, imLe im b 1, (List.range 4).map (fun k => imLe im (b + 8 + 8 * k) 8),
    (List.range 16).map (fun n =>
      let o := b + 0x40 + 0x80 * n
      let fl := imLe im (o + 0x33) 1
      ⟨o, imLe im o 8, (List.range 3).map (fun k => imLe im (o + 8 + 8 * k) 8),
        (List.range 2).map (fun k => imLe im (o + 0x20 + 8 * k) 8), imLe im (o + 0x30) 2, imLe im (o + 0x32) 1,
        fl % 2 == 1, (List.range 32).map (fun p => imLe im (o + 0x40 + 2 * p) 2),
        nonZero [(0x33, fl / 2), (0x34, imLe im (o + 0x34) 12)]⟩),
    nonZero [(1, imLe im (b + 1) 7), (0x28, imLe im (b + 0x28) 24)]⟩

/-- The port records of the PORTS leaf (R63). -/
def readPorts (im : List Byte) (b : Nat) : List PortRec :=
  (List.range 8).map (fun p =>
    let o := b + 16 * p
    let fl := imLe im o 1
    ⟨o, fl % 2 == 1, imLe im (o + 1) 1, imLe im (o + 2) 2, imLe im (o + 4) 1, imLe im (o + 5) 1, imLe im (o + 6) 2,
      nonZero [(0, fl / 2), (8, imLe im (o + 8) 8)]⟩)

/-- The VF records of the PORTS leaf (R63). -/
def readVfs (im : List Byte) (b len : Nat) : List VfRec :=
  (List.range ((len - 128) / 16)).map (fun i =>
    let o := b + 128 + 16 * i
    ⟨o, imLe im o 2, imLe im (o + 2) 1, imLe im (o + 3) 1, imLe im (o + 4) 2, imLe im (o + 6) 1, imLe im (o + 8) 2,
      nonZero [(7, imLe im (o + 7) 1), (0xA, imLe im (o + 0xA) 6)]⟩)

/-- The QUEUES leaf (R65). -/
def readQueues (im : List Byte) (b len : Nat) (add : Bool) : List QueueRec :=
  (List.range (len / 32)).map (fun i =>
    let o := b + 32 * i
    ⟨o, add, imLe im o 2, imLe im (o + 2) 1, imLe im (o + 3) 1, imLe im (o + 4) 1, imLe im (o + 8) 4, imLe im (o + 0xC) 2,
      imLe im (o + 0x10) 8, imLe im (o + 0x18) 4,
      nonZero [(5, imLe im (o + 5) 3), (0xE, imLe im (o + 0xE) 2), (0x1C, imLe im (o + 0x1C) 4)]⟩)

/-- One TALLY entry of four bytes at an offset (R67); `sh` is the place of the entry within its record. -/
def tallyEntry (im : List Byte) (o sh src : Nat) (add : Bool) (more : List (Nat × Nat)) : TallyRec :=
  let pr := imLe im (o + sh + 2) 1
  let fl := imLe im (o + sh + 3) 1
  ⟨o, add, src, imLe im (o + sh) 2, pr % 16, fl % 2 == 1, nonZero ([(sh + 2, pr / 16), (sh + 3, fl / 2)] ++ more)⟩

/-- The TALLY leaf of a folio (R67), or the sparse one of an addendum (R79). -/
def readTally (im : List Byte) (b len : Nat) (add : Bool) : List TallyRec :=
  if add then
    (List.range (len / 8)).map (fun i =>
      let o := b + 8 * i
      tallyEntry im o 2 (imLe im o 2) true [(6, imLe im (o + 6) 2)])
  else (List.range (min 8192 (len / 4))).map (fun i => tallyEntry im (b + 4 * i) 0 i false [])

/-- The POWER leaf (R68). -/
def readPower (im : List Byte) (b : Nat) : PowerLeaf :=
  ⟨b, imLe im b 1, imLe im (b + 2) 2, imLe im (b + 4) 2, imLe im (b + 6) 2, imLe im (b + 8) 2,
    (List.range 64).map (fun h => imLe im (b + 0x10 + h) 1), (List.range 8).map (fun k => imLe im (b + 0x50 + 4 * k) 4),
    nonZero [(1, imLe im (b + 1) 1), (0xA, imLe im (b + 0xA) 6)]⟩

/-- The intake entries of a LEDGER record (R69). -/
def readIntakes (im : List Byte) (b n : Nat) : List IntakeRec :=
  (List.range n).map (fun i =>
    let o := b + 32 * i
    ⟨o, imLe im o 8, imLe im (o + 8) 4, imLe im (o + 0xC) 4, imLe im (o + 0x10) 8, imLe im (o + 0x18) 1, imLe im (o + 0x1A) 2,
      imLe im (o + 0x1C) 4, nonZero [(0x19, imLe im (o + 0x19) 1)]⟩)

/-- The LEDGER leaf (R69): records of varying length; an INTAKE_COUNT that runs past the leaf counts among the bad fields. -/
def readLedgers (im : List Byte) (stop : Nat) : Nat → Nat → List LedgerRec
  | 0, _ => []
  | n + 1, o =>
    if stop < o + 32 then []
    else
      let k := imLe im (o + 2) 2
      ⟨o, imLe im o 1, k, imLe im (o + 4) 4, imLe im (o + 8) 4, imLe im (o + 0xC) 4, readIntakes im (o + 32) (min (min k 256) ((stop - (o + 32)) / 32)),
        nonZero [(1, imLe im (o + 1) 1), (2, o + 32 + 32 * k - stop), (0x10, imLe im (o + 0x10) 16)]⟩ :: readLedgers im stop n (o + 32 + 32 * k)

/-- The FAULTS leaf (R70). -/
def readFaults (im : List Byte) (b : Nat) : FaultsLeaf :=
  let rep := imLe im (b + 1) 1
  ⟨b, imLe im b 1, rep % 2 == 1, imLe im (b + 2) 2, imLe im (b + 4) 2, imLe im (b + 6) 2,
    (List.range 32).map (fun k => ⟨imLe im (b + 8 + 4 * k) 1, imLe im (b + 10 + 4 * k) 2⟩),
    nonZero ((1, rep / 2) :: (List.range 32).map (fun k => (9 + 4 * k, imLe im (b + 9 + 4 * k) 1)))⟩

/-- The COUNTERS leaf (R71). A COUNT that the leaf's length does not match counts among the bad fields. -/
def readCounters (im : List Byte) (b len : Nat) : CountersLeaf :=
  ⟨b, imLe im b 8, imLe im (b + 8) 2,
    (List.range (min (imLe im (b + 8) 2) ((len - 16) / 8))).map (fun i =>
      let o := b + 16 + 8 * i
      ⟨o, imLe im o 2, imLe im (o + 2) 1, imLe im (o + 4) 2, nonZero [(3, imLe im (o + 3) 1), (6, imLe im (o + 6) 2)]⟩),
    nonZero [(8, if len = 16 + 8 * imLe im (b + 8) 2 then 0 else 1), (0xA, imLe im (b + 0xA) 6)]⟩

/-- An image read into a folio: every leaf that its directory holds. -/
def readFolio (im : List Byte) (add : Bool) : Folio :=
  let a := leafAt im
  let has (k : Nat) : Bool := (entryOf im k).isSome
  { serial := imLe im 0x18 8
    cdMin := imLe im 0x10 1
    cdMax := imLe im 0x11 1
    iodMin := imLe im 0x12 1
    iodMax := imLe im 0x13 1
    present := ((directory im).map (·.leaf))
    dies := readDies im (a 1).1 (a 1).2
    hands := readHands im (a 2).1 (a 2).2 add
    deals := readDeals im add ((a 3).1 + (a 3).2) 65 (a 3).1
    map := if has 4 then readMap im (a 4).1 (a 4).2 else Folio.empty.map
    home := if has 5 then readHome im (a 5).1 else Folio.empty.home
    chans := if has 6 then readChans im (a 6).1 else Folio.empty.chans
    ports := if has 7 then readPorts im (a 7).1 else []
    vfs := readVfs im (a 7).1 (a 7).2
    queues := readQueues im (a 8).1 (a 8).2 add
    tally := readTally im (a 9).1 (a 9).2 add
    power := if has 10 then readPower im (a 10).1 else Folio.empty.power
    ledgers := readLedgers im ((a 11).1 + (a 11).2) 64 (a 11).1
    faults := if has 12 then readFaults im (a 12).1 else Folio.empty.faults
    counters := if has 13 then some (readCounters im (a 13).1 (a 13).2) else none
    leafOff := (directory im).map (fun e => (e.leaf, e.off)) }

end Sys2Proof.Machine
end

