-- ==== Sys2Proof/Machine/Verify.lean ====
section
/-! DEFINITION. The checks of a folio or addendum in the order of R74 and R484, each as a function that answers the first
failure with its code, leaf and offset (R51 to R72, R80, R481). -/

namespace Sys2Proof.Machine

/-! ### Steps 1 and 2: header, directory, CRC (R49 to R52) -/

/-- Largest TOTAL_LEN of a folio or an addendum (R49). -/
def imageLimit (add : Bool) : Nat := if add then 0x100000 else 0x400000

/-- Step 1 of R74; `limit` is the size of the slot or buffer. -/
def headerBad (im : List Byte) (add : Bool) (limit : Nat) : Option Bad :=
  let total := imLe im 8 4
  firstBad [
    badIf (imLe im 0 4 ≠ 0x464F4C49) 0x101 0 0,
    badIf (imLe im 4 2 ≠ 1) 0x102 0 4,
    badIf (imLe im 6 2 ≠ if add then 1 else 0) 0x102 0 6,
    badIf (imLe im 0xE 2 ≠ 0) 0x102 0 0xE,
    badIf (imLe im 0x14 4 ≠ 0) 0x102 0 0x14,
    badIf (!add && imLe im 0x20 48 != 0) 0x102 0 0x20,
    badIf (!add && imLe im 0x50 4 != 0) 0x102 0 0x50,
    badIf (imLe im 0x54 44 ≠ 0) 0x102 0 0x54,
    badIf (total < 0x90 ∨ imageLimit add < total ∨ limit < total) 0x103 0 8]

/-- A leaf kind of R50. -/
def leafKind (k : Nat) : Bool := (decide (1 ≤ k) && decide (k ≤ 13)) || k == 0x7F

/-- Visits records in ascending offset, each with those before it, newest first (R484). -/
def eachRec {α : Type} (f : List α → α → Option Bad) : List α → List α → Option Bad
  | _, [] => none
  | prev, r :: t =>
    match f prev r with
    | some b => some b
    | none => eachRec f (r :: prev) t

/-- The first byte that lies between two leaves and is not zero (R51). -/
def gapBad (im : List Byte) (es : List DirEntry) : Option Bad :=
  let first := es.foldl (fun n e => min n e.off) (imLe im 8 4)
  let at_ := (List.range (imLe im 8 4 - first)).find? (fun i =>
    imByte im (first + i) != 0 && !es.any (fun e => decide (e.off ≤ first + i) && decide (first + i < e.off + e.len)))
  at_.map (fun i => ⟨0x104, 0, first + i⟩)

/-- The directory (R51): order, reserved bytes, places, and the seal at the end. -/
def directoryBad (im : List Byte) : Option Bad :=
  let n := imLe im 0xC 2
  let total := imLe im 8 4
  let es := directory im
  firstBad [
    badIf (n = 0 ∨ 14 < n ∨ total < 0x80 + 16 * n) 0x104 0 0xC,
    eachRec (fun prev e => firstBad [
      badIf (!leafKind e.leaf || prev.any (fun p => decide (e.leaf ≤ p.leaf))) 0x104 0 e.at_,
      badIf (e.res ≠ 0) 0x104 0 (e.at_ + 2),
      badIf (e.off % 64 ≠ 0 ∨ e.off < 0x80 + 16 * n) 0x104 0 (e.at_ + 4),
      badIf (total < e.off + e.len ∨ (e.leaf = 0x7F ∧ (e.len ≠ 200 ∨ e.off + 200 ≠ total))) 0x104 0 (e.at_ + 8),
      badIf (prev.any (fun p => decide (e.off < p.off + p.len) && decide (p.off < e.off + e.len))) 0x104 0 (e.at_ + 4)])
      [] es,
    badIf ((es.getLast?.map (·.leaf)) ≠ some 0x7F) 0x104 0 (0x80 + 16 * (n - 1)),
    gapBad im es]

/-- Leaf CRCs and versions (R50). -/
def leavesBad (im : List Byte) : Option Bad :=
  firstBad [
    (directory im).findSome? (fun e => badIf ((crc32 (imBytes im e.off e.len)).toNat ≠ e.crc) 0x105 e.leaf e.off),
    (directory im).findSome? (fun e => badIf (e.version ≠ 1) 0x106 0 (e.at_ + 1))]

/-- Whether some HANDS record of an image has MODE 2 (R52). -/
def hasLedgerHand (im : List Byte) : Bool := (readHands im (leafAt im 2).1 (leafAt im 2).2 false).any (fun r => r.mode == 2)

/-- Leaves that are missing: R52 for a folio, at least one amendable leaf for an addendum unless it holds another leaf,
which R481 refuses later. -/
def missingBad (im : List Byte) (add : Bool) : Option Bad :=
  let has (k : Nat) : Bool := (entryOf im k).isSome
  if add then badIf (!(directory im).any (fun e => e.leaf != 0x7F)) 0x107 2 0
  else
    ([1, 2, 3, 4, 5, 6, 7, 8, 9, 10] ++ (if hasLedgerHand im then [11] else []) ++ [12]).findSome? (fun k =>
      badIf (!has k) 0x107 k 0)

/-! ### Step 3: the seal (R72, R391) -/

/-- The image bytes that the seal signs: through PUBKEY, with the CRC field of the SEAL entry zero (R50, R72). -/
def sealedBytes (im : List Byte) : List Byte :=
  match entryOf im 0x7F with
  | none => im
  | some e =>
    let b := imBytes im 0 (e.off + 0x68)
    b.take (e.at_ + 12) ++ [0, 0, 0, 0] ++ b.drop (e.at_ + 16)

/-- Whether the key of a seal is fused and not revoked: slots, hashes and revocation bits given (R72, R391). An absent
hash is a slot that is not fused. -/
def keyGood (hashes : List (BitVec 384)) (revoke slot : Nat) (pub : List Byte) : Bool :=
  match hashes[slot]? with
  | some h => h != 0 && !revoke.testBit slot && Config.sha384 pub == h
  | none => false

/-- The key checks of a seal at an offset (R72). -/
def sealKeyBad (im : List Byte) (o : Nat) (hashes : List (BitVec 384)) (revoke : Nat) : Option Bad :=
  let slot := imLe im o 1
  firstBad [
    badIf (hashes.length ≤ slot ∨ (hashes.getD slot 0) = 0 ∨ revoke.testBit slot) 0x201 0x7F o,
    badIf (imLe im (o + 1) 7 ≠ 0) 0x201 0x7F (o + 1),
    badIf (!keyGood hashes revoke slot (imBytes im (o + 8) 96)) 0x201 0x7F (o + 8)]

/-- Step 3 of R74. -/
def sealBad (s : State) (im : List Byte) : Option Bad :=
  let o := (leafAt im 0x7F).1
  firstBad [
    sealKeyBad im o s.arc.rootHash s.arc.rootRevoke,
    badIf (!Config.ecdsaVerify (imBytes im (o + 8) 96) (Config.sha384 (sealedBytes im)) (imBytes im (o + 0x68) 48)
      (imBytes im (o + 0x98) 48)) 0x202 0x7F (o + 0x68),
    badIf (s.arc.floors.any (fun n => decide (imLe im 0x18 8 < n))) 0x203 0 0x18]

/-- Steps 1 to 3 of R74. -/
def imageBad (s : State) (im : List Byte) (add : Bool) (limit : Nat) : Option Bad :=
  firstBad [headerBad im add limit, directoryBad im, leavesBad im, missingBad im add, sealBad s im]

/-! ### Step 4: what the folio asks of the dies (R44 to R46, R73) -/

/-- The enabled dies of a folio. -/
def enabledDies (f : Folio) : List Nat := (List.range 16).filter f.dieEnabled

/-- Offset of the DIES record of a die, and of the HANDS record that places a core there. -/
def dieOff (f : Folio) (d : Nat) : Nat := (f.dies.find? (fun r => r.die == d)).elim 0 (·.off)

/-- Revision of the IOD (R43): A1. -/
def revBad (s : State) (f : Folio) : Option Bad :=
  firstBad [
    (enabledDies f).findSome? (fun d =>
      let rev := s.get (.DL_CAP_DIE d) F.DL_CAP_DIE_REV
      if linkState s d = 5 then some ⟨0x301, 1, dieOff f d⟩
      else if rev < f.cdMin then some ⟨0x301, 0, 0x10⟩
      else badIf (f.cdMax < rev) 0x301 0 0x11),
    badIf (iodRev < f.iodMin) 0x301 0 0x12,
    badIf (f.iodMax < iodRev) 0x301 0 0x13]

/-- The dies that hold cores of a hand. -/
def diesOf (r : HandRec) : List Nat :=
  (List.range 16).filter (fun d => (List.range 24).any (fun i => r.cores.testBit (24 * d + i)))

/-- The HANDS record that a missing feature of a die is laid to: MODE for XJLEDGER and LQ64K, L3_WAYS for L3LOCK8. -/
def featureOff (f : Folio) (d b : Nat) : Bad :=
  let here (p : HandRec → Bool) : Nat := (f.hands.find? (fun r => (diesOf r).contains d && p r)).elim 0 (·.off)
  if b = 1 then ⟨0x303, 2, here (fun r => r.mode == 2) + 1⟩
  else if b = 3 then ⟨0x303, 2, here (fun r => decide (4 < r.ways)) + 2⟩
  else if b = 2 then
    let on (l : LedgerRec) : Bool := decide (16384 < l.q) && f.hands.any (fun r => r.hand == l.hand && (diesOf r).contains d)
    ⟨0x303, 11, (f.ledgers.find? on).elim 0 (·.off) + 4⟩
  else ⟨0x303, 1, dieOff f d⟩

/-- Step 4 of R74. The links are those at the end of boot phase 2, for an addendum as well; revisions, cores and features are
those of DL_CAP_DIE and DL_FEAT_EFF, which a stopped die keeps. -/
def diesBad (s : State) (f : Folio) : Option Bad :=
  firstBad [
    (enabledDies f).findSome? (fun d => badIf (!s.arc.trained.testBit d && linkState s d != 5) 0x305 1 (dieOff f d)),
    revBad s f,
    (enabledDies f).findSome? (fun d =>
      let good := s.get (.DL_CAP_DIE d) F.DL_CAP_DIE_CORE_GOOD
      badIf (f.coreEn d &&& good ≠ f.coreEn d) 0x302 1 (dieOff f d + 4)),
    (enabledDies f).findSome? (fun d =>
      ((featuresAsked f d).find? (fun b => !(featLevel s d).testBit b)).map (featureOff f d)),
    f.hands.findSome? (fun r =>
      badIf ((diesOf r).any (fun d => featLevel s d != featLevel s ((diesOf r).headD 0))) 0x304 2 (r.off + 8))]

/-! ### Step 5: the leaves (R53 to R71, R484) -/

/-- A condition of a record: its field's offset in the record, its code, and whether it fails. -/
abbrev Cond := Nat × Nat × Bool

/-- The entry with the lowest offset; the earlier one among equals. -/
def lowestOff (l : List (Nat × Nat)) : Option (Nat × Nat) :=
  l.foldl (fun b e =>
    match b with
    | none => some e
    | some x => if e.1 < x.1 then some e else b) none

/-- A record's own conditions in ascending offset, its reserved fields among them (R484). -/
def ownBad (leaf base code : Nat) (reserved : List Nat) (conds : List Cond) : Option Bad :=
  (lowestOff ((conds.filter (fun c => c.2.2)).map (fun c => (c.1, c.2.1)) ++ reserved.map (fun o => (o, code)))).map
    (fun e => ⟨e.2, leaf, base + e.1⟩)

/-- Conditions that a record shares with earlier ones, in the order given. -/
def sharedBad (leaf base : Nat) (conds : List Cond) : Option Bad :=
  (conds.find? (fun c => c.2.2)).map (fun c => ⟨c.2.1, leaf, base + c.1⟩)

/-- DIES (R53). -/
def diesLeafBad (f : Folio) : Option Bad :=
  eachRec (fun prev r =>
    ownBad 1 r.off 0x401 r.bad [(0, 0x401, r.die != prev.length), (4, 0x401, !r.enable && r.coreEn != 0)]) [] f.dies

/-- The cores that DIES enables, as a mask over core ids. -/
def enabledCores (f : Folio) : Nat := (List.range 16).foldl (fun n d => n + f.coreEn d * 2 ^ (24 * d)) 0

/-- Whether an address lies in a private window of a hand (R54). -/
def inPrivateOf (f : Folio) (h a : Nat) : Bool :=
  f.map.windows.any (fun w => w.kind == 0 && w.mask.testBit h && decide (w.base ≤ a) && decide (a < w.base + w.size))

/-- A HANDS record's own fields (R54, R55). -/
def handOwnBad (f : Folio) (r : HandRec) : Option Bad :=
  ownBad 2 r.off 0x401 r.bad [
    (0, 0x401, decide (63 < r.hand)),
    (1, 0x401, !(r.mode == 1 || (r.mode == 2 && r.hand != 0))),
    (2, 0x402, decide (8 < r.ways)),
    (8, 0x401, r.cores == 0 || r.cores &&& enabledCores f != r.cores),
    (0x38, 0x401, !inPrivateOf f r.hand r.entry)]

/-- HANDS (R54, R55). -/
def handsLeafBad (f : Folio) : Option Bad :=
  firstBad [
    eachRec (fun prev r => firstBad [
      handOwnBad f r,
      sharedBad 2 r.off [
        (0, 0x401, match prev with | [] => r.hand != 0 | p :: _ => decide (r.hand ≤ p.hand)),
        (2, 0x402, (diesOf r).any (fun d =>
          decide (12 < ((r :: prev).filter (fun p => (diesOf p).contains d)).foldl (fun n p => n + p.ways) 0))),
        (8, 0x401, prev.any (fun p => p.cores &&& r.cores != 0))]]) [] f.hands,
    badIf f.hands.isEmpty 0x401 2 (f.offOf 2)]

/-- A trick byte that R56 and R57 do not allow at a point. -/
def trickBad (f : Folio) (p t : Nat) : Bool :=
  !(t == 0xFF || (t == 0xFE && isChanPoint p) || (decide (t < 64) && (f.hand? t).isSome))

/-- Whether a hand is dealt a trick at a point by a folio (R57). -/
def dealt (f : Folio) (h p : Nat) : Bool := (dealOf f p).1.contains h

/-- The points where a ledger hand must hold a trick (R57). -/
def ledgerPoints (f : Folio) (r : HandRec) : List Nat :=
  (diesOf r) ++ (diesOf r).map (fun d => 0x10 + d) ++ (List.range 16).map (fun n => 0x20 + n)
  ++ ((List.range 16).filter f.chanEnabled).map (fun n => 0x30 + n)

/-- Whether the tricks of a deal record leave out a ledger hand that needs one at its point (R57). -/
def undealt (f : Folio) (r : DealRec) : Bool :=
  f.hands.any (fun h => h.mode == 2 && (ledgerPoints f h).contains r.point && !r.tricks.contains h.hand)

/-- A DEALS record's own fields (R56, R57). -/
def dealOwnBad (f : Folio) (r : DealRec) : Option Bad :=
  ownBad 3 r.off 0x403 r.bad ([
    (0, 0x403, decide (0x3F < r.point)),
    (2, 0x403, r.length != dealLen r.point),
    (4, 0x403, r.burst == 0 || decide (1024 < r.burst))]
    ++ r.tricks.zipIdx.map (fun e => (8 + e.2, 0x403, trickBad f r.point e.1)))

/-- DEALS (R56, R57). The tricks of a record as a whole are laid to the record; a point without a record deals a ledger hand no
trick, which needs the whole leaf. -/
def dealsLeafBad (f : Folio) : Option Bad :=
  firstBad [
    eachRec (fun prev r => firstBad [
      dealOwnBad f r,
      sharedBad 3 r.off [
        (0, 0x403, match prev with | [] => false | p :: _ => decide (r.point ≤ p.point)),
        (0, 0x404, undealt f r),
        (0, 0x405, isChanPoint r.point && decide ((r.tricks.filter (fun t => t == 0xFE)).length < 16))]]) [] f.deals,
    f.hands.findSome? (fun r =>
      badIf (r.mode == 2 && (ledgerPoints f r).any (fun p => !dealt f r.hand p)) 0x404 3 (f.offOf 3))]

/-- Logical ranks of a channel: DIMMs × package ranks × stack height (R266). -/
def ranksOf (s : State) (n : Nat) : Nat :=
  (List.range 2).foldl (fun t k =>
    let r := Reg.MC_DIMM n k
    if s.bit r F.MC_DIMM_PRESENT then t + (s.get r F.MC_DIMM_PRANKS + 1) * 2 ^ s.get r F.MC_DIMM_HEIGHT else t) 0

/-- The lowest enabled channel of a folio. -/
def firstChan (f : Folio) : Nat := ((List.range 16).find? f.chanEnabled).getD 0

/-- ROW_BITS of the DIMMs that a folio's channels hold (R266). -/
def rowBitsOf (s : State) (f : Folio) : Nat :=
  let r := Reg.MC_DIMM (firstChan f) 0
  dimmRowBits (s.get r F.MC_DIMM_DENSITY) (s.get r F.MC_DIMM_WIDTH)

/-- Installed DRAM under a folio (R267). -/
def installedOf (s : State) (f : Folio) : Nat :=
  let n := firstChan f
  let r := ranksOf s n
  let u := match f.chan? n with | some c => if c.spare = 0xFF then r else r - 1 | none => 0
  if f.chanEnabled n then 2 ^ f.chans.bits * u * 2 ^ (18 + rowBitsOf s f) else 0

/-- Whether every enabled channel holds trained DIMMs. Where one does not, the installed DRAM is not defined and MAP is not held
against it, so that CHANNELS reports the channel (DEDUCED from R264, log entry 108). -/
def allTrained (s : State) (f : Folio) : Bool :=
  (List.range 16).all (fun n => !f.chanEnabled n || s.bit (.MC_DIMM n 0) F.MC_DIMM_PRESENT)

/-- Hands named by a mask that have no record. -/
def strangeHands (f : Folio) (m : Nat) : Bool := (List.range 64).any (fun h => m.testBit h && (f.hand? h).isNone)

/-- Number of intake windows of a hand. -/
def intakeCount (f : Folio) (h : Nat) : Nat := (f.map.windows.filter (fun w => w.kind == 1 && w.mask == 2 ^ h)).length

/-- A window's own conditions and its overlaps (R58, R59). -/
def windowBad (s : State) (f : Folio) (prev : List WinRec) (w : WinRec) : Option Bad :=
  let m2 := 0x200000
  let one := count64 w.mask == 1
  let lone := (List.range 64).find? (fun h => w.mask.testBit h)
  let past (n : Nat) : Bool := allTrained s f && decide (installedOf s f < n)
  firstBad [
    ownBad 4 w.off 0x407 w.bad [
      (0, 0x407, w.base % m2 != 0 || past (w.base + 1)),
      (8, 0x407, w.size == 0 || w.size % m2 != 0 || past (w.base + w.size)),
      (0x10, 0x407, w.mask == 0 || strangeHands f w.mask || (decide (w.kind ≤ 1) && !one)
        || (w.kind == 1 && !(match lone with | some h => f.isLedger h | none => false))),
      (0x18, 0x407, decide (3 < w.kind))],
    sharedBad 4 w.off [
      (0, 0x406, decide (w.base < f.vaultEnd)
        || prev.any (fun p => decide (w.base < p.base + p.size) && decide (p.base < w.base + w.size))),
      (0x18, 0x407, w.kind == 1 && prev.any (fun p => p.kind == 1 && p.mask == w.mask))]]

/-- MAP (R58, R59). -/
def mapLeafBad (s : State) (f : Folio) : Option Bad :=
  let m := f.map
  firstBad [
    ownBad 4 m.off 0x407 m.bad [(4, 0x407, m.count == 0 || decide (1024 < m.count))],
    eachRec (windowBad s f) [] m.windows,
    f.hands.findSome? (fun r =>
      badIf (!m.windows.any (fun w => w.kind == 0 && w.mask.testBit r.hand)
        || (r.mode == 2 && intakeCount f r.hand != 1)) 0x407 4 (f.offOf 4))]

/-- Whether an address mask sets bits that R60 and R62 keep clear. -/
def maskBad (m : Nat) : Bool := m % 64 != 0 || decide (2 ^ 52 ≤ m)

/-- Whether masks are linearly independent over GF(2): each has a pivot. -/
def independent (ms : List Nat) : Bool := (pivots ms).length == ms.length

/-- HOME (R60). -/
def homeLeafBad (f : Folio) : Option Bad :=
  let h := f.home
  ownBad 5 h.off 0x408 h.bad
    ((List.range 4).map (fun k => (8 * k, 0x408, maskBad (h.masks.getD k 0) || !independent (h.masks.take (k + 1))))
      ++ [(0x20, 0x408, h.opens == 0 || decide (6 < h.opens))])

/-- Whether the DIMMs of a channel break R264 or R265 for the channel alone. -/
def dimmsBad (s : State) (n : Nat) : Bool :=
  let a := s.rd (.MC_DIMM n 0)
  let b := s.rd (.MC_DIMM n 1)
  let two := s.bit (.MC_DIMM n 1) F.MC_DIMM_PRESENT
  !s.bit (.MC_DIMM n 0) F.MC_DIMM_PRESENT || (two && a != b) || decide (8 < ranksOf s n)

/-- A CHANNELS record (R61, R62, R264, R265, R273). -/
def chanRecBad (s : State) (f : Folio) (prev : List ChanRec) (r : ChanRec) : Option Bad :=
  let n := prev.length
  let c := f.chans
  let top := 2 ^ (18 + c.bits + rowBitsOf s f)
  let six := r.sc :: (r.bg ++ r.ba)
  let bad (k : Nat) : Bool :=
    maskBad (six.getD k 0)
    || (r.enable && (decide (top ≤ six.getD k 0) || !independent (c.masks.take c.bits ++ six.take (k + 1))))
  firstBad [
    ownBad 6 r.off 0x409 r.bad
      ((List.range 6).map (fun k => (8 * k, 0x409, bad k)) ++ [
        (0x30, 0x409, r.enable && (decide (r.act < 256) || decide (32768 < r.act))),
        (0x32, 0x409, r.enable && r.spare != 0xFF && decide (ranksOf s n ≤ r.spare)),
        (0x33, 0x409, r.enable && dimmsBad s n)]),
    sharedBad 6 r.off [
      (0x32, 0x409, r.enable && prev.any (fun p => p.enable && ((p.spare == 0xFF) != (r.spare == 0xFF)))),
      (0x33, 0x409, r.enable && f.chanEnabled (firstChan f)
        && (s.rd (.MC_DIMM n 0) != s.rd (.MC_DIMM (firstChan f) 0) || s.rd (.MC_DIMM n 1) != s.rd (.MC_DIMM (firstChan f) 1)))]]

/-- CHANNELS (R61, R62). -/
def chansLeafBad (s : State) (f : Folio) : Option Bad :=
  let c := f.chans
  let top := 2 ^ (18 + c.bits + rowBitsOf s f)
  let bad (k : Nat) : Bool :=
    let m := c.masks.getD k 0
    maskBad m || (if c.bits ≤ k then m != 0 else decide (top ≤ m) || !independent (c.masks.take (k + 1)))
  firstBad [
    ownBad 6 c.off 0x409 c.bad ((0, 0x409, decide (4 < c.bits)) :: (List.range 4).map (fun k => (8 + 8 * k, 0x409, bad k))),
    eachRec (chanRecBad s f) [] c.recs,
    badIf ((c.recs.filter (fun r => r.enable)).length ≠ 2 ^ c.bits) 0x409 6 (f.offOf 6)]

/-- PORTS (R63, R64, R342). A port that is not enabled has no PF and no tags: its PF_TAGS is not used. -/
def portsLeafBad (f : Folio) : Option Bad :=
  let pfs := 16 * (f.ports.filter (fun p => p.enable)).length
  firstBad [
    eachRec (fun _ r => ownBad 7 r.off 0x40A r.bad [
      (1, 0x40A, r.enable && !(r.width == 16 || r.width == 8 || r.width == 4)),
      (2, 0x40A, if r.enable then decide (1024 < r.vfCount) else r.vfCount != 0),
      (4, 0x40A, r.enable && (decide (r.pfBar < 20) || decide (40 < r.pfBar))),
      (5, 0x40A, r.enable && (decide (r.vfBar < 14) || decide (32 < r.vfBar))),
      (6, 0x40A, r.enable && (decide (r.pfTags < 16) || decide (1024 < r.pfTags)))]) [] f.ports,
    eachRec (fun prev r => firstBad [
      ownBad 7 r.off 0x40A r.bad [
        (0, 0x40A, decide (4095 < r.vf)),
        (2, 0x40A, decide (7 < r.port)),
        (3, 0x40A, r.qpairs == 0 || decide (16 < r.qpairs)),
        (4, 0x40A, r.tags == 0 || decide (1024 < r.tags)),
        (6, 0x40A, (f.hand? r.hand).isNone),
        (8, 0x40A, match f.window? r.window with | some w => !w.mask.testBit r.hand | none => true)],
      sharedBad 7 r.off [
        (0, 0x40A, match prev with | [] => false | p :: _ => decide (r.vf ≤ p.vf)),
        (3, 0x40A, decide (65536 < pfs + (r :: prev).foldl (fun n p => n + p.qpairs) 0)),
        (4, 0x40A, decide (1024 < (f.port? r.port).elim 0 (fun p => if p.enable then p.pfTags else 0)
          + ((r :: prev).filter (fun p => p.port == r.port)).foldl (fun n p => n + p.tags) 0))]]) [] f.vfs,
    badIf (f.ports.zipIdx.any (fun e => (f.vfs.filter (fun r => r.port == e.2)).length != e.1.vfCount)) 0x40A 7 (f.offOf 7)]

/-- A QUEUES record's own fields (R65): VF names a VF of PORTS or a PF; PORT is that function's, an enabled one. -/
def queueOwnBad (f : Folio) (r : QueueRec) : Option Bad :=
  let pf := r.vf == 0xFFFF
  ownBad 8 r.off 0x40B r.bad [
    (0, 0x40B, !pf && (f.vf? r.vf).isNone),
    (2, 0x40B, decide (7 < r.port)
      || (if pf then !f.portEnabled r.port else (f.vf? r.vf).any (fun v => v.port != r.port))),
    (3, 0x40B, decide (1 < r.mode)),
    (4, 0x40B, decide (r.depth < 4) || decide (12 < r.depth)),
    (8, 0x40B, r.slips == 0),
    (0xC, 0x40B, r.burstSlips == 0 || decide (4096 < r.burstSlips)),
    (0x10, 0x40B, r.bytes == 0),
    (0x18, 0x40B, decide (r.burstBytes < 64) || decide (0x4000000 < r.burstBytes))]

/-- QUEUES (R65, R66). -/
def queuesLeafBad (f : Folio) : Option Bad :=
  let cap := 40000000000 * ((List.range 16).filter f.chanEnabled).length
  firstBad [
    eachRec (fun prev r => firstBad [
      queueOwnBad f r,
      sharedBad 8 r.off [
        (0, 0x40B, prev.any (fun p => p.vf == r.vf && p.port == r.port)),
        (0x10, 0x40C, decide (cap < (r :: prev).foldl (fun n p => n + p.bytes) 0))]]) [] f.queues,
    badIf ((List.range 8).any (fun p => f.portEnabled p && !f.queues.any (fun r => r.vf == 0xFFFF && r.port == p))
      || f.vfs.any (fun v => !f.queues.any (fun r => r.vf == v.vf && r.port == v.port))) 0x40B 8 (f.offOf 8)]

/-- A TALLY record's own fields (R67, R79, R373): source 0 is unrouted, and every routed source targets a core of a hand. -/
def tallyOwnBad (f : Folio) (r : TallyRec) : Option Bad :=
  let o := if r.add then 2 else 0
  ownBad 9 r.off 0x40D r.bad [
    (0, 0x40D, r.add && decide (8191 < r.src)),
    (o, 0x40D, r.target != 0xFFFF && (r.src == 0 || !f.hands.any (fun h => h.cores.testBit r.target)))]

/-- TALLY (R67). -/
def tallyLeafBad (f : Folio) : Option Bad := f.tally.findSome? (tallyOwnBad f)

/-- The minimum of each WAKE_STEP, in ns (R418). -/
def wakeMinima : List Nat := [100000, 20000, 5000, 1000, 2000, 2000, 1000, 500]

/-- POWER (R68, R418). -/
def powerLeafBad (f : Folio) : Option Bad :=
  let p := f.power
  let op (h : Nat) : Nat := p.op.getD h 0
  firstBad [
    ownBad 10 p.off 0x40E p.bad ([
      (0, 0x40E, !f.portEnabled p.auth),
      (2, 0x40E, p.dieSlew == 0 || decide (25 < p.dieSlew)),
      (4, 0x40E, p.pkgSlew == 0 || decide (200 < p.pkgSlew)),
      (6, 0x40E, decide (p.limit < 100) || decide (700 < p.limit))]
      ++ (List.range 64).map (fun h => (0x10 + h, 0x40E, decide (3 < op h)))
      ++ (List.range 8).map (fun k => (0x50 + 4 * k, 0x40E, decide (p.wake.getD k 0 < wakeMinima.getD k 0)))),
    eachRec (fun prev r =>
      badIf (prev.any (fun q => op q.hand != op r.hand && (diesOf q).any (fun d => (diesOf r).contains d))) 0x40E 10
        (p.off + 0x10 + r.hand)) [] f.hands]

/-- An intake entry of a LEDGER record (R69, R252). -/
def intakeBad (f : Folio) (h half : Nat) (prev : List IntakeRec) (r : IntakeRec) : Option Bad :=
  let vfOk := r.vf == 0xFFFF || match f.vf? r.vf with | some v => v.port == r.port && v.hand == h | none => false
  firstBad [
    ownBad 11 r.off 0x40F r.bad [
      (0xC, 0x40F, decide (r.length < 64) || decide (0x1000000 < r.length) || r.length % 64 != 0),
      (0x18, 0x40F, !f.portEnabled r.port),
      (0x1A, 0x40F, !vfOk),
      (0x1C, 0x40F, r.dest % 64 != 0 || decide (half < r.dest + r.length))],
    sharedBad 11 r.off [
      (0x1C, 0x40F, prev.any (fun p => decide (r.dest < p.dest + p.length) && decide (p.dest < r.dest + r.length)))]]

/-- LEDGER (R69, R252). -/
def ledgerLeafBad (f : Folio) : Option Bad :=
  firstBad [
    eachRec (fun prev r =>
      let half := (f.map.windows.find? (fun w => w.kind == 1 && w.mask == 2 ^ r.hand)).elim 0 (·.size / 2)
      firstBad [
        ownBad 11 r.off 0x40F r.bad [
          (0, 0x40F, !f.isLedger r.hand),
          (2, 0x40F, decide (256 < r.count)),
          (4, 0x40F, !((List.range 9).any (fun k => r.q == 256 * 2 ^ k))),
          (8, 0x40F, r.num == 0),
          (0xC, 0x40F, r.den == 0)],
        sharedBad 11 r.off [(0, 0x40F, match prev with | [] => false | p :: _ => decide (r.hand ≤ p.hand))],
        eachRec (intakeBad f r.hand half) [] r.intakes]) [] f.ledgers,
    badIf (f.hands.any (fun h => h.mode == 2 && (f.ledger? h.hand).isNone)) 0x40F 11 (f.offOf 11)]

/-- Whether a class permits an ACTION (R434). -/
def actionOk (k a : Nat) : Bool :=
  if k = 25 then a == 1
  else if k = 9 then a == 1 || a == 2
  else if [6, 12, 18, 22, 23, 28].contains k then decide (a ≤ 2)
  else decide (a ≤ 1)

/-- FAULTS (R70, R373, R434). -/
def faultsLeafBad (f : Folio) : Option Bad :=
  let t := f.faults
  ownBad 12 t.off 0x410 t.bad ((0, 0x410, decide (1 < t.rejoin)) :: t.policy.zipIdx.flatMap (fun e => [
    (8 + 4 * e.2, 0x410, !actionOk e.2 e.1.action),
    (10 + 4 * e.2, 0x410, e.1.action != 0 && (decide (e.1.source < 256) || decide (511 < e.1.source)))]))

/-- The kind of a block unit's events: its number in bits 15:8 (R451, R453). -/
def unitKind (u : Nat) : Nat :=
  let b := u - 0x1000
  if u < 0x1000 then 0 else if b < 16 then 1 else if b < 32 then 2 else if b < 48 then 3 else if b < 56 then 4 else 5

/-- Events whose counts the steps of the model determine; the count of any other depends on time, on prediction or on what
the event table does not say, and is a free value when it is read (log entry 127). -/
def counted (u : CtrUnit) (ev : Nat) : Bool :=
  match u with
  | .core _ => [0x000B, 0x000C, 0x000D, 0x000F].contains ev
  | .block _ => [(0x0104, 0x0108), (0x0202, 0x0208), (0x0301, 0x0308), (0x0401, 0x0404), (0x0406, 0x0408), (0x0501, 0x0504)].any
      (fun r => decide (r.1 ≤ ev) && decide (ev ≤ r.2))

/-- The largest number of events that a counter shows, plus one (R451). -/
def wrapAt : CtrUnit → Nat
  | .core _ => 2 ^ 64
  | .block _ => 2 ^ 48

/-- Number of a counter unit in a COUNTERS record (R451). -/
def unitNo : CtrUnit → Nat
  | .core c => c
  | .block b => 0x1000 + b

/-- Software sets the count that a slot shows; wraps that have not been taken stay (R453, R459). -/
def setCount (s : State) (u : CtrUnit) (ev v : Nat) : State :=
  if counted u ev then
    let n := s.eventCount (unitNo u) ev
    { s with events := s.events.set (unitNo u * 2 ^ 16 + ev) (n / wrapAt u * wrapAt u + v % wrapAt u) }
  else s

/-- Whether an event may be shown by a unit: event 0, which shows nothing, is allowed in every one (R452). -/
def eventOk (u e : Nat) : Bool :=
  e == 0 || (if unitKind u = 0 then decide (3 ≤ e) && decide (e ≤ 15)
    else e / 256 == unitKind u && decide (1 ≤ e % 256) && decide (e % 256 ≤ 8))

/-- Whether a unit and a slot exist (R451). -/
def slotOk (u k : Nat) : Bool :=
  if u < 0x1000 then decide (u < 384) && decide (3 ≤ k) && decide (k < 32) else decide (u < 0x1000 + 57) && decide (k < 8)

/-- COUNTERS (R71, R452). -/
def countersLeafBad (f : Folio) : Option Bad :=
  match f.counters with
  | none => none
  | some c => firstBad [
      ownBad 13 c.off 0x410 c.bad [
        (0, 0x410, (List.range 64).any (fun h => c.hands.testBit h && f.mode h != 1))],
      eachRec (fun prev r => firstBad [
        ownBad 13 r.off 0x410 r.bad [
          (0, 0x410, !(decide (r.unit < 384) || (decide (0x1000 ≤ r.unit) && decide (r.unit < 0x1000 + 57)))),
          (2, 0x410, !slotOk r.unit r.slot),
          (4, 0x410, !eventOk r.unit r.event)],
        sharedBad 13 r.off [(0, 0x410, prev.any (fun p => p.unit == r.unit && p.slot == r.slot))]]) [] c.recs]

/-- The code of a leaf's own fields (R74). -/
def leafCode (k : Nat) : Nat := if k ≤ 2 then 0x401 else if k = 3 then 0x403 else if k ≤ 8 then 0x403 + k
  else if k = 9 then 0x40D else if k ≤ 12 then 0x404 + k else 0x410

/-- Whether a leaf has the length its layout gives it (R53 to R71): its records fill it. `g` was read from the image. -/
def leafLenOk (im : List Byte) (g : Folio) (add : Bool) (k len : Nat) : Bool :=
  if k = 1 then len == 128
  else if k = 2 then len % 64 == 0
  else if k = 3 then len == g.deals.foldl (fun n r => n + 8 + r.length) 0
  else if k = 4 then len == 0x110 + 32 * g.map.count
  else if k = 5 then len == 40
  else if k = 6 then len == 0x840
  else if k = 7 then decide (128 ≤ len) && (len - 128) % 16 == 0
  else if k = 8 then len % 32 == 0
  else if k = 9 then (if add then len % 8 == 0 else len == 32768)
  else if k = 10 then len == 112
  else if k = 11 then len == g.ledgers.foldl (fun n r => n + 32 + 32 * r.count) 0
  else if k = 12 then len == 136
  else if k = 13 then len == 16 + 8 * imLe im ((leafAt im 13).1 + 8) 2
  else true

/-- A leaf that its records do not fill: its own code at the leaf (DESIGN CHOICE; checked after its records). -/
def leafLenBad (im : List Byte) (g : Folio) (add : Bool) (k : Nat) : Option Bad :=
  match entryOf im k with
  | none => none
  | some e => badIf (!leafLenOk im g add k e.len) (leafCode k) k e.off

/-- Step 5 of R74 for one leaf kind. -/
def leafBad (s : State) (f : Folio) (k : Nat) : Option Bad :=
  if k = 1 then diesLeafBad f
  else if k = 2 then handsLeafBad f
  else if k = 3 then dealsLeafBad f
  else if k = 4 then mapLeafBad s f
  else if k = 5 then homeLeafBad f
  else if k = 6 then chansLeafBad s f
  else if k = 7 then portsLeafBad f
  else if k = 8 then queuesLeafBad f
  else if k = 9 then tallyLeafBad f
  else if k = 10 then powerLeafBad f
  else if k = 11 then ledgerLeafBad f
  else if k = 12 then faultsLeafBad f
  else countersLeafBad f

/-- What is added to the offsets of an addendum's records while they are checked among those of the folio in force. -/
def addBias : Nat := 2 ^ 32

/-- The failure of a leaf and one found in the addendum's own records (R484): a record of the addendum that stands before the
latter comes first. -/
def sooner (more leaf : Option Bad) : Option Bad :=
  match more, leaf with
  | some w, some b => if addBias ≤ b.off ∧ b.off < w.off then some b else some w
  | some w, none => some w
  | none, b => b

/-- Step 5 of R74: the leaves in ascending kind order. `raw` is the folio read from the image, `f` the one that would result;
`more` is what an addendum's records show by themselves. -/
def foliosBad (s : State) (f : Folio) (im : List Byte) (raw : Folio) (add : Bool) (more : Nat → Option Bad) : Option Bad :=
  (List.range 13).findSome? (fun i => firstBad [sooner (more (i + 1)) (leafBad s f (i + 1)), leafLenBad im raw add (i + 1)])

/-! ### Addenda (R79, R80, R481) -/

/-- The first leaf or field of an addendum that R79 does not allow; a reserved field that is not zero differs from the folio in
force and is one (R79). -/
def notAmendable (s : State) (im : List Byte) (a : Folio) : Option Bad :=
  let f := s.folio
  firstBad [
    (directory im).findSome? (fun e => badIf (!([2, 3, 8, 9, 0x7F].contains e.leaf)) 0x503 e.leaf 0),
    a.hands.findSome? (fun r =>
      match f.hand? r.hand with
      | none => some ⟨0x503, 2, r.off⟩
      | some b => ownBad 2 r.off 0x503 r.bad
          [(1, 0x503, b.mode != 1 || r.mode != b.mode), (2, 0x503, r.ways != b.ways), (0x38, 0x503, r.entry != b.entry)]),
    a.queues.findSome? (fun r =>
      match f.queues.find? (fun b => b.vf == r.vf && b.port == r.port) with
      | none => some ⟨0x503, 8, r.off⟩
      | some b => ownBad 8 r.off 0x503 r.bad [(3, 0x503, r.mode != b.mode), (4, 0x503, r.depth != b.depth)])]

/-- Records of an addendum out of their ascending order, or twice (R54, R56, R65, R79), with the own failures of the records
before, in ascending offset (R484); none where the order stands. `g` is the folio that would result. -/
def disorderBad (g a : Folio) (k : Nat) : Option Bad :=
  if k = 2 then walk 0x401 2 (fun r => r.off) (handOwnBad g) (fun p r => decide (r.hand ≤ p.hand)) a.hands
  else if k = 3 then walk 0x403 3 (fun r => r.off) (dealOwnBad g) (fun p r => decide (r.point ≤ p.point)) a.deals
  else if k = 8 then walk 0x40B 8 (fun r => r.off) (queueOwnBad g) (fun p r => p.vf == r.vf && p.port == r.port) a.queues
  else if k = 9 then walk 0x40D 9 (fun r => r.off) (tallyOwnBad g) (fun p r => decide (r.src ≤ p.src)) a.tally
  else none
where
  /-- The first failure among records of which some are out of order. -/
  walk {α : Type} (code leaf : Nat) (off : α → Nat) (own : α → Option Bad) (out : α → α → Bool) (l : List α) : Option Bad :=
    let wrong (prev : List α) (r : α) : Option Bad := badIf (prev.any (fun p => out p r)) code leaf (off r)
    if (eachRec wrong [] l).isNone then none else eachRec (fun prev r => firstBad [own r, wrong prev r]) [] l

/-- An addendum's records with their offsets marked as the addendum's. -/
def Folio.marked (a : Folio) : Folio :=
  { a with
    hands := a.hands.map (fun r => { r with off := r.off + addBias })
    deals := a.deals.map (fun r => { r with off := r.off + addBias })
    queues := a.queues.map (fun r => { r with off := r.off + addBias })
    tally := a.tally.map (fun r => { r with off := r.off + addBias }) }

/-- A deal record put in its place (R79). -/
def putDeal (r : DealRec) : List DealRec → List DealRec
  | [] => [r]
  | d :: t => if r.point < d.point then r :: d :: t else if r.point = d.point then r :: t else d :: putDeal r t

/-- The folio that would result from an addendum: its records in place of those they name (R79, R80). -/
def amended (f a : Folio) : Folio :=
  { f with
    hands := f.hands.map (fun b => (a.hands.find? (fun r => r.hand == b.hand)).getD b)
    deals := a.deals.foldl (fun l r => putDeal r l) f.deals
    queues := f.queues.map (fun b => (a.queues.find? (fun r => r.vf == b.vf && r.port == b.port)).getD b)
    tally := f.tally.map (fun b => (a.tally.find? (fun r => r.src == b.src)).getD b)
      ++ a.tally.filter (fun r => decide (8191 < r.src)) }

/-- SHA-384 of the whole image, TOTAL_LEN bytes (R49, R88). -/
def imageDigest (im : List Byte) : BitVec 384 := Config.sha384 (imBytes im 0 (imLe im 8 4))

/-- Bytes 8k to 8k + 7 of a digest as FOL_DIGEST[k] shows them (R88): a little-endian register. -/
def digestWord (d : BitVec 384) (k : Nat) : Word :=
  BitVec.ofNat 64 (ofBytes ((List.range 8).map (fun j => d.extractLsb' (8 * (47 - (8 * k + j))) 8)))

/-- A digest as 48 bytes in the order SHA-384 produces them (R49). -/
def digestBytes (d : BitVec 384) : List Byte := (List.range 48).map (fun j => d.extractLsb' (8 * (47 - j)) 8)

/-- The digest that FOL_DIGEST shows: that of the folio in force from flash (R80). -/
def folioDigest (s : State) : List Byte :=
  (List.range 6).flatMap (fun k => (List.range 8).map (fun j => (s.rd (.FOL_DIGEST k)).extractLsb' (8 * j) 8))

/-- Step 4 of R481: base, sequence, and what may be amended. -/
def addendumBad (s : State) (im : List Byte) (a : Folio) : Option Bad :=
  firstBad [
    badIf (imBytes im 0x20 48 ≠ folioDigest s) 0x501 0 0x20,
    badIf (imLe im 0x50 4 ≠ (s.rd .FOL_ADD_SEQ).toNat + 1) 0x502 0 0x50,
    notAmendable s im a]

/-- Cores whose hand an addendum changes, with the new and the old hand; 64 is none (R83). -/
def membersMoved (f g : Folio) : List (Nat × Nat × Nat) :=
  let owner (x : Folio) (c : Nat) : Nat := (x.hands.find? (fun r => r.cores.testBit c)).elim 64 (·.hand)
  (List.range 384).filterMap (fun c => if owner f c = owner g c then none else some (c, owner g c, owner f c))

/-- Step 6 of R481: INVALID_IN_STATE. -/
def stateBad (s : State) (g : Folio) : Option Bad :=
  firstBad [
    badIf ((enabledDies s.folio).any (fun d => !s.dieInService d)) 0x505 0 0,
    badIf ((membersMoved s.folio g).any (fun m => s.coreState m.1 != 1)) 0x505 2 (f2 s g)]
where
  /-- The HANDS record whose CORE_MASK moves a core that is not stopped. -/
  f2 (s : State) (g : Folio) : Nat :=
    match (membersMoved s.folio g).find? (fun m => s.coreState m.1 != 1) with
    | some m => (g.hands.find? (fun r => r.hand == (if m.2.1 = 64 then m.2.2 else m.2.1))).elim 0 (fun r => r.off + 8)
    | none => 0

end Sys2Proof.Machine
end

