-- ==== Sys2Proof/Machine/Boot.lean ====
section
/-! DEFINITION. Boot from the release of the package reset to RUNNING (R74 to R78, R392, R393), addenda (R79 to R87, R481)
and the restart of the house supervisor (R439). -/

namespace Sys2Proof.Machine

/-! ### What every phase shares -/

/-- FOL_STATE.STATE changes; the management port raises its in-band interrupt with 0x01 (R473). -/
def setFolState (s : State) (n : Nat) : State :=
  if s.get .FOL_STATE F.FOL_STATE_STATE = n then s else (s.put .FOL_STATE F.FOL_STATE_STATE n).emit (.ibi 1)

/-- FOL_STATUS: code, leaf and offset (R74, R484). The mark of an addendum's record is no part of its offset. -/
def setFolStatus (s : State) (b : Bad) : State :=
  s.wr .FOL_STATUS (BitVec.ofNat 64 (b.off % 2 ^ 32 * 2 ^ 24 + b.leaf % 256 * 2 ^ 16 + b.code % 2 ^ 16))

/-- FOL_STATUS where nothing was refused: code 0, accepted. -/
def accepted : Bad := ⟨0, 0, 0⟩

/-- Boot goes on with its next step. -/
def bootNext (s : State) (n : Nat) : State := { s with arc := { s.arc with phase := n } }

/-- The package enters INERT (R75, R77). FOL_STATE.ALT_CODE keeps the code that the slot not selected had, also where slot B was
selected and fails later (DESIGN CHOICE, log entry 110: R88 has no word for slot A's code then). -/
def inert (s : State) (b : Bad) : State := bootNext (setFolState (setFolStatus s b) 6) 0

/-- An image slot of the flash: 0 and 1 firmware, 2 and 3 folio, 4 house supervisor (R389). -/
def flashSlot (s : State) (k : Nat) : List Byte := s.arc.flash.getD k []

/-- The folio in the slot that FOL_STATE.SLOT names. -/
def slotFolio (s : State) : List Byte := flashSlot s (2 + s.get .FOL_STATE F.FOL_STATE_SLOT)

/-- PACKAGE_RESET_RELEASE: with both supplies good, the clock running and the reset held for 1 µs, the straps are sampled
and boot starts at phase 1 (R468, R471). -/
def execPackageResetRelease (straps : BitVec 4) (s : State) : Out :=
  let m := s.mgmt
  if m.inReset ∧ m.low ∧ m.main ∧ m.clock ∧ m.stby then
    let s := { s with cycle := 0, mgmt := { m with inReset := false, low := false, straps := straps, since := 0 } }
    let s := s.wr .ARC_STRAPS (straps.setWidth 64)
    .next (bootNext (setFolState s 1) 1)
  else .next s

/-! ### Firmware and house-supervisor images (R390 to R393) -/

/-- The checks of a firmware or house-supervisor image: header, length, key, signature (R390, R392, R393). -/
def codeImageBad (im : List Byte) (kind max : Nat) (hashes : List (BitVec 384)) (revoke : Nat) : Option Bad :=
  let len := imLe im 8 4
  let o := (0x40 + len + 63) / 64 * 64
  firstBad [
    badIf (imLe im 0 4 ≠ 0x41524657) 0x101 0 0,
    badIf (imLe im 4 2 ≠ kind) 0x102 0 4,
    badIf (imLe im 6 2 ≠ 0) 0x102 0 6,
    badIf (imLe im 0xC 4 ≠ 0) 0x102 0 0xC,
    badIf (imLe im 0x18 40 ≠ 0) 0x102 0 0x18,
    badIf (max < len) 0x103 0 8,
    sealKeyBad im o hashes revoke,
    badIf (!Config.ecdsaVerify (imBytes im (o + 8) 96) (Config.sha384 (imBytes im 0 (o + 0x68))) (imBytes im (o + 0x68) 48)
      (imBytes im (o + 0x98) 48)) 0x202 0 (o + 0x68)]

/-- VERSION of an image. -/
def imVersion (im : List Byte) : Nat := imLe im 0x10 8

/-- The check of firmware slot `k`: the image and its VERSION against the firmware floor (R392). -/
def firmwareBad (s : State) (im : List Byte) : Option Bad :=
  firstBad [
    codeImageBad im 0 0xFFEC0 s.arc.fwHash s.arc.fwRevoke,
    badIf (s.arc.fwFloors.any (fun n => decide (imVersion im < n))) 0x203 0 0x10]

/-- The code of a check: 0 where it passed. -/
def codeOf (b : Option Bad) : Nat := b.elim 0 (·.code)

/-- The ROM's first flash access (R472): AF_RESET_L has been released 1 ms before; with ST_AF_MODE 0 the ROM reads in 1S-1S-1S
at 25 MHz and moves the flash to 8D-8D-8D at 200 MHz, with 1 it reads so from the start. -/
def openFlash (s : State) : State :=
  let s := { s with mgmt := { s.mgmt with afReset := false } }
  let s := if s.mgmt.straps.getLsbD 2 then s
    else { s with mgmt := { s.mgmt with afMode := .single } }.emit (.flash false 25)
  { s with mgmt := { s.mgmt with afMode := .octal } }.emit (.flash true 200)

/-- BOOT_FIRMWARE_CHECK (R392): both slots are checked; the passing one with the higher VERSION runs, slot A where they are
equal; with neither, ROM_RECOVERY. -/
def execBootFirmwareCheck (s : State) : Out :=
  if s.arc.phase ≠ 1 then .next s
  else
    let s := openFlash s
    let a := flashSlot s 0
    let b := flashSlot s 1
    let ca := codeOf (firmwareBad s a)
    let cb := codeOf (firmwareBad s b)
    let s := (s.put .ARC_BOOT F.ARC_BOOT_FW_A_CODE ca).put .ARC_BOOT F.ARC_BOOT_FW_B_CODE cb
    let s := s.put .ARC_STATUS F.ARC_STATUS_ROOT_REVOKED s.arc.rootRevoke
    if ca ≠ 0 ∧ cb ≠ 0 then .next (bootNext (s.put .ARC_STATUS F.ARC_STATUS_STAGE 1) 0)
    else
      let useB := decide (ca ≠ 0) || (decide (cb = 0) && decide (imVersion a < imVersion b))
      let v := imVersion (if useB then b else a)
      let s := (s.put .ARC_STATUS F.ARC_STATUS_STAGE 2).put .ARC_STATUS F.ARC_STATUS_FW_SLOT (if useB then 1 else 0)
      let s := s.put .ARC_STATUS F.ARC_STATUS_FW_VERSION (v % 2 ^ 32)
      .next { s with arc := { s.arc with version := BitVec.ofNat 64 v, phase := 2 } }

/-! ### Phases 1 to 4 (R75, R76, R264) -/

/-- BOOT_FOLIO_VERIFY: steps 1 to 3 of R74 on both slots; the passing one with the higher SERIAL is selected, slot A where
they are equal; with neither, INERT (R75). -/
def execBootFolioVerify (s : State) : Out :=
  if s.arc.phase ≠ 2 then .next s
  else
    let a := flashSlot s 2
    let b := flashSlot s 3
    let ba := imageBad s a false 0x400000
    let bb := imageBad s b false 0x400000
    match ba, bb with
    | some x, some y => .next (inert (s.put .FOL_STATE F.FOL_STATE_ALT_CODE y.code) x)
    | _, _ =>
      let useB := ba.isSome || (bb.isNone && decide (imLe a 0x18 8 < imLe b 0x18 8))
      let s := s.put .FOL_STATE F.FOL_STATE_SLOT (if useB then 1 else 0)
      let s := s.put .FOL_STATE F.FOL_STATE_ALT_CODE (codeOf (if useB then ba else bb))
      let s := setFolState (setFolStatus s accepted) 2
      .next { s with arc := { s.arc with digest1 := imageDigest (if useB then b else a), phase := 3 } }

/-- One enabled die brought from Out to Play at operating point 0, its link trained with the lane faults that step 2 finds
(R41, R76); a die that does not answer leaves its link in TRAINING, for the timeout of its step. -/
def bootDie (offers : List (Fin 16 × DieOffer × List (Dir × Fin 8 × BitVec 6))) (s : State) (d : Nat) : State :=
  let s := setDiePower s d 0
  let s := s.setDie d { s.die d with vsel := 0, settling := false, wake := none }
  match offers.find? (fun e => e.1.val == d) with
  | some e => trainLink s d e.2.1 e.2.2
  | none => setLinkState s d 1

/-- BOOT_TRAIN: boot phase 2. The home slices and the fabric of the IOD reach Play with it (DESIGN CHOICE). -/
def execBootTrain (offers : List (Fin 16 × DieOffer × List (Dir × Fin 8 × BitVec 6))) (s : State) : Out :=
  if s.arc.phase ≠ 3 then .next s
  else
    let f := readFolio (slotFolio s) false
    let s := overAll (List.range 17) (fun s b => setBlockState s (16 + b) 0) s
    .next (bootNext (overAll (enabledDies f) (bootDie offers) s) 4)

/-- The dies whose link is UP now, a bit set. -/
def upDies (s : State) : Nat :=
  (List.range 16).foldl (fun n d => if linkState s d = 2 ∨ linkState s d = 3 then n + 2 ^ d else n) 0

/-- BOOT_REVSET_CHECK: boot phase 2 has ended; step 4 of R74 on the trained dies (R76 phase 3). -/
def execBootRevsetCheck (s : State) : Out :=
  if s.arc.phase ≠ 4 then .next s
  else
    let s := { s with arc := { s.arc with trained := upDies s } }
    match diesBad s (readFolio (slotFolio s) false) with
    | some b => .next (inert s b)
    | none => .next (bootNext s 5)

/-- Whether a DIMM is one of the options of R264. -/
def dimmOption (m : DimmInfo) : Bool := decide (m.height.toNat ≤ 2)

/-- MC_DIMM of a trained DIMM. -/
def dimmWord (m : DimmInfo) : Word :=
  BitVec.ofNat 64 (1 + m.width.toNat * 2 ^ 4 + m.density.toNat * 2 ^ 5 + m.pranks.toNat * 2 ^ 8 + m.height.toNat * 2 ^ 9)

/-- What training found on one channel, recorded in MC_DIMM, MC_TIMING and MC_CFG; a channel that does not train holds no
DIMM (R264, R266). -/
def trainChan (s : State) (t : ChanTrain) : State :=
  let n := t.chan.val
  let fits (m : Option DimmInfo) : Bool := match m with | some x => dimmOption x | none => true
  if t.ok ∧ fits t.slot0 ∧ fits t.slot1 then
    let s := s.wr (.MC_DIMM n 0) (t.slot0.elim 0 dimmWord)
    let s := s.wr (.MC_DIMM n 1) (t.slot1.elim 0 dimmWord)
    let s := s.wr (.MC_TIMING n) (BitVec.ofNat 64 (3900 * 2 ^ 36 + t.trfcsb.toNat * 2 ^ 24 + t.cl.toNat * 2 ^ 16
      + t.trcd.toNat * 2 ^ 8 + t.trp.toNat))
    let two := t.slot0.isSome && t.slot1.isSome
    let s := s.put (.MC_CFG n) F.MC_CFG_RANKS (ranksOf s n)
    let rb := dimmRowBits (s.get (.MC_DIMM n 0) F.MC_DIMM_DENSITY) (s.get (.MC_DIMM n 0) F.MC_DIMM_WIDTH)
    let s := s.put (.MC_CFG n) F.MC_CFG_ROW_BITS rb
    let s := (s.put (.MC_CFG n) F.MC_CFG_SPEED (if two then 1 else 0)).put (.MC_CFG n) F.MC_CFG_DPC (if two then 2 else 1)
    setBlockState (s.setChan n { s.chan n with tras := t.tras }) n 0
  else s

/-- BOOT_DIMM_TRAINING: the enabled channels read and train their DIMMs (R76 phase 4, R264). -/
def execBootDimmTraining (chans : List ChanTrain) (s : State) : Out :=
  if s.arc.phase ≠ 5 then .next s
  else
    let f := readFolio (slotFolio s) false
    let s := overAll (chans.filter (fun t => f.chanEnabled t.chan.val)) trainChan s
    .next (bootNext (setFolState s 3) 6)

/-! ### Phase 5: the folio applied (R76) -/

/-- Which channels hold vault contents under a watermark (R397): those whose index some line of the vault has. A bit set of
channel numbers. -/
def vaultChannels (s : State) (wm : Nat) : Nat :=
  let masks := (List.range (chBits s)).map (fun k => (s.rd (.MC_CH_MASK (chan0 s) k)).toNat)
  let index (a : Nat) : Nat := masks.zipIdx.foldl (fun n e => n + 2 ^ e.2 * parity (a &&& e.1)) 0
  let span := (List.range 24).foldl (fun (l : List Nat) b => (l ++ l.map (fun x => x ^^^ index (2 ^ (6 + b)))).dedup) [0]
  let all := ((List.range wm).flatMap (fun g => span.map (fun x => x ^^^ index (g * 2 ^ 30)))).dedup
  all.foldl (fun n x => match (enabledChans s)[x]? with | some c => n ||| 2 ^ c | none => n) 0

/-- ARC_VAULT under a watermark (R394, R397). -/
def setWatermark (s : State) (wm : Nat) : State :=
  let s := s.put .ARC_VAULT F.ARC_VAULT_WATERMARK wm
  s.put .ARC_VAULT F.ARC_VAULT_CHANNELS (vaultChannels s wm)

/-- The HOME leaf loaded (R60). -/
def applyHome (s : State) (h : HomeLeaf) : State :=
  let s := overAll (List.range 4) (fun s k => s.wr (.HOME_SLICE_MASK k) (BitVec.ofNat 64 (h.masks.getD k 0))) s
  s.put .HOME_CFG F.HOME_CFG_OPEN_PER_SET h.opens

/-- The ranks of an enabled channel: all but the spare are ACTIVE, with usable indices in ascending order (R267, R288). -/
def applyRanks (s : State) (n spare : Nat) : State :=
  overAll (List.range (ranksOf s n)) (fun s r =>
    if r = spare then s.put (.MC_RANK n r) F.MC_RANK_STATE 2
    else (s.put (.MC_RANK n r) F.MC_RANK_STATE 1).put (.MC_RANK n r) F.MC_RANK_INDEX (if spare < r then r - 1 else r)) s

/-- One channel of the CHANNELS leaf loaded (R61, R272, R283); every channel's block holds the same MC_CH_MASK (R292). -/
def applyChan (l : ChanLeaf) (s : State) (e : ChanRec × Nat) : State :=
  let r := e.1
  let n := e.2
  let s := overAll (List.range 4) (fun s k => s.wr (.MC_CH_MASK n k) (BitVec.ofNat 64 (l.masks.getD k 0))) s
  if !r.enable then s
  else
    let s := overAll (r.sc :: (r.bg ++ r.ba)).zipIdx (fun s m => s.wr (.MC_MASK n m.2) (BitVec.ofNat 64 m.1)) s
    let s := overAll r.lat.zipIdx (fun s m => s.put (.MC_LAT_TARGET n (m.2 / 4)) (F.MC_LAT_TARGET_TARGET (m.2 % 4)) m.1) s
    let s := s.put (.MC_ACT n) F.MC_ACT_THRESH r.act
    let idx := ((l.recs.take n).filter (fun x => x.enable)).length
    let s := (s.put (.MC_CFG n) F.MC_CFG_CH_INDEX idx).put (.MC_CFG n) F.MC_CFG_CH_BITS l.bits
    let spare := if r.spare = 0xFF then 0xF else r.spare
    let s := (s.put (.MC_CFG n) F.MC_CFG_SPARE spare).put (.MC_CFG n) F.MC_CFG_ENABLE 1
    applyRanks s n spare

/-- One port of the PORTS leaf loaded (R63). -/
def applyPort (s : State) (e : PortRec × Nat) : State :=
  let r := e.1
  if !r.enable then s
  else
    s.wr (.HP_CFG e.2) (BitVec.ofNat 64 (r.vfBar * 2 ^ 32 + r.pfBar * 2 ^ 24 + r.vfCount * 2 ^ 8 + r.width * 2 + 1))

/-- One source of the TALLY leaf loaded, with its enable bit (R67, R374). -/
def applySource (s : State) (r : TallyRec) : State :=
  let w := BitVec.ofNat 64 (r.prio * 2 ^ 16 + r.target)
  let s := (s.wr (.TIC_ROUTE r.src) w).wr (.TIC_ROUTE_ACT r.src) w
  if r.enable ∧ sourceExists r.src then
    s.wr (.TIC_EN_SET (r.src / 64)) (s.rd (.TIC_EN_SET (r.src / 64)) ||| BitVec.ofNat 64 (2 ^ (r.src % 64)))
  else s

/-- One record of the COUNTERS leaf loaded (R71, R452). -/
def applyCounter (s : State) (r : CounterRec) : State :=
  if r.unit < 0x1000 then
    s.put (.CTR_CORE_SEL r.unit (r.slot / 8)) (F.CTR_CORE_SEL_SEL (r.slot % 8)) r.event
  else s.put (.CTR_BLK_SEL (r.unit - 0x1000)) (F.CTR_BLK_SEL_SEL r.slot) r.event

/-- An enabled die at the point that the POWER leaf asks of it, in service, its enabled cores STOPPED (R76, R126, R423). -/
def placeDie (f : Folio) (s : State) (d : Nat) : State :=
  let s := applyDie s f d
  let s := setDieState s d 1
  let op := opOfDie f d
  let s := (s.put (.CORE_DIE_OP d) F.CORE_DIE_OP_CUR op).put (.CORE_DIE_OP d) F.CORE_DIE_OP_TARGET op
  let s := s.setDie d { s.die d with vsel := op }
  overAll (coresOnDie d) (fun s c => if (f.coreEn d).testBit (c % 24) then s.setCoreState c 1 else s) s

/-- The folio loaded: RW-F fields, active and shadow deals, routing, budgets, and the figures of the folio block (R76
phase 5, R88). -/
def applyFolio (s : State) (f : Folio) (im : List Byte) : State :=
  let s := { s with folio := f, arc := { s.arc with bytes := im } }
  let s := overAll (List.range 64) (fun s h => s.put (.FAB_HAND h) F.FAB_HAND_MODE (f.mode h)) s
  let s := overAll (List.range 64) (fun s p => loadDeal s f p) s
  let s := applyHome s f.home
  let s := overAll (f.chans.recs.zipIdx) (applyChan f.chans) s
  let s := setWatermark (s.put .ARC_VAULT F.ARC_VAULT_LOCK (if f.map.lock then 1 else 0)) f.map.watermark
  let s := overAll (f.ports.zipIdx) applyPort s
  let s := overAll f.tally applySource s
  let s := overAll (f.counters.elim [] (·.recs)) applyCounter s
  let s := s.put .SCK_PKG F.SCK_PKG_AUTH_PORT f.power.auth
  let s := overAll (enabledDies f) (placeDie f) s
  let s := overAll f.queues (fun s r => fillBuckets s (recFn r)) s
  let s := s.put .SCK_LIMIT F.SCK_LIMIT_LIMIT_W f.power.limit
  let s := s.wr .FOL_SERIAL (BitVec.ofNat 64 f.serial)
  let s := overAll (List.range 6) (fun s k => s.wr (.FOL_DIGEST k) (digestWord (imageDigest im) k)) s
  let leaves := f.present.foldl (fun n k => if k ≤ 13 then n ||| 2 ^ k else n) 0
  retarget (s.wr .FOL_LEAVES (BitVec.ofNat 64 leaves))

/-- BOOT_APPLY: the slot is read again; step 5 leaf by leaf, then step 6. A failure leaves every field at its reset value
and enters INERT (R76 phase 5). -/
def execBootApply (s : State) : Out :=
  if s.arc.phase ≠ 6 then .next s
  else
    let im := slotFolio s
    let f := readFolio im false
    let bad := firstBad [
      foliosBad s f im f false (fun _ => none),
      badIf (imageDigest im ≠ s.arc.digest1) 0x411 0 0]
    match bad with
    | some b => .next (inert s b)
    | none => .next (bootNext (setFolState (applyFolio s f (imBytes im 0 (imLe im 8 4))) 4) 7)

/-- BOOT_MEMINIT: every line of every enabled channel reads zero with valid check bits and backing state I, as the fill line
of the memory does (R76 phase 6, R210). -/
def execBootMeminit (s : State) : Out :=
  if s.arc.phase ≠ 7 then .next s
  else
    let s := overAll (enabledChans s) (fun s n => s.setChan n { s.chan n with blank := [] }) s
    .next (bootNext { s with dram := [] } 8)

/-! ### The house-supervisor image (R393) -/

/-- The newest contents of a line: a modified copy in a core or an L3, otherwise memory. -/
def newestLine (s : State) (line : Nat) : LineData :=
  let l2 := (List.range 384).findSome? (fun c => (l2Find s c line).bind (fun e => if e.st = 3 then some e.data else none))
  let l3 := (List.range 16).findSome? (fun d => (l3Find s d line).bind (fun e => if e.st = 3 then some e.data else none))
  match l2, l3 with
  | some x, _ => x
  | none, some y => y
  | none, none => (memNow s line).data

/-- Every cached copy, directory entry and queued write of a line dropped. -/
def purgeLine (s : State) (line : Nat) : State :=
  let s := overAll (List.range 16) (fun s d =>
    if (l3Find s d line).isNone then s
    else overAll (coresOnDie d) (fun s c => dropL2 s c line) (dropL3 s d line)) s
  let n := sliceOf s line
  let s := match findEnt s n line with | some e => dropEnt s n e.1 | none => s
  let c := (placeOf s line).chan
  s.setChan c { s.chan c with
    writes := (s.chan c).writes.filter (fun w => w.line != line)
    waitQ := (s.chan c).waitQ.filter (fun r => match r with | .write w => w.line != line | .read _ _ _ => true) }

/-- Bytes written to memory by the Archivist as a write of H[0] that snoops every copy (R90, R393; the writes of one copy are
done together, DESIGN CHOICE). -/
def placeBytes (s : State) (addr : Nat) (bs : List Byte) : State :=
  overAll (lineParts addr bs.length) (fun s e =>
    let d := lineFrom e.2.1 ((bs.drop (64 * e.1 + e.2.1 - addr)).take e.2.2)
    let new := mergeLine d.2 d.1 (newestLine s e.1)
    storeRaw (purgeLine s e.1) e.1 new (backing false 0 0 false) false) s

/-- Bytes as read back from memory. -/
def readBack (s : State) (addr n : Nat) : List Byte :=
  (lineParts addr n).flatMap (fun e =>
    let d := (memNow s e.1).data
    (List.range e.2.2).map (fun j => lineByte d (e.2.1 + j)))

/-- ENTRY of H[0]. -/
def houseEntry (s : State) : Nat := (s.folio.hand? 0).elim 0 (·.entry)

/-- The house-supervisor image checked and its body copied to H[0]'s ENTRY (R393): the failure, if any, and the state. -/
def houseImage (s : State) : Option Bad × State :=
  let im := flashSlot s 4
  match codeImageBad im 1 0x7FFEC0 s.arc.rootHash s.arc.rootRevoke with
  | some b => (some { b with leaf := 0x80 }, s)
  | none =>
    let body := imBytes im 0x40 (imLe im 8 4)
    let s := placeBytes s (houseEntry s) body
    if Config.sha384 (readBack s (houseEntry s) body.length) = Config.sha384 body then (none, s)
    else (some ⟨0x202, 0x80, 0x40⟩, s)

/-- BOOT_HOUSE_IMAGE: boot phase 7; a failure enters INERT (R393). -/
def execBootHouseImage (s : State) : Out :=
  if s.arc.phase ≠ 8 then .next s
  else
    match houseImage s with
    | (some b, s) => .next (inert (s.put .ARC_BOOT F.ARC_BOOT_HS_CODE b.code) b)
    | (none, s) => .next (bootNext (s.put .ARC_BOOT F.ARC_BOOT_HS_CODE 0) 9)

/-- The lowest-numbered core of H[0] whose die is in service. -/
def houseCore (s : State) : Option Nat := (s.coresOf 0).find? (fun c => s.dieInService (c / 24))

/-- BOOT_RUN: boot phase 8. FOL_STATE reads RUNNING, PKG_READY with it (R469); the lowest-numbered core of H[0] starts, and
the enabled host ports train (R317). -/
def execBootRun (s : State) : Out :=
  if s.arc.phase ≠ 9 then .next s
  else
    let s := bootNext (setFolState s 5) 10
    let s := match (s.coresOf 0).head? with | some c => startCore s c | none => s
    .next (overAll (List.range 8) trainPort s)

/-- HOUSE_RESTART: H[0] is LOST and its cores are stopped. It becomes STOPPED, the image is copied again, and its lowest core
on a die in service starts (R439). With no core on a die in service the restart waits; in INERT no core runs (R77). -/
def execHouseRestart (s : State) : Out :=
  if s.get .FOL_STATE F.FOL_STATE_STATE ≠ 6 ∧ s.handLost 0 ∧ (s.coresOf 0).all (fun c => s.coreState c == 1 || s.coreState c == 5 || s.coreState c == 0) then
    match houseCore s with
    | none => .next s
    | some c =>
      let s := s.put (.FAB_HAND 0) F.FAB_HAND_STATE 1
      match houseImage s with
      | (some b, s) => .next (s.put .ARC_BOOT F.ARC_BOOT_HS_CODE b.code)
      | (none, s) =>
        let s := s.put .ARC_BOOT F.ARC_BOOT_HS_CODE 0
        .next (startCore (s.put .FLT_STATUS F.FLT_STATUS_HOUSE_RESTART 1) c)
  else .next s

/-! ### Addenda (R79 to R87, R481) -/

/-- An addendum is refused: the code in FOL_ADD_STATE and FOL_STATUS, ADD_REFUSED with its source 2 (R373, R481). -/
def refuseAddendum (s : State) (b : Bad) : State :=
  let s := setFolStatus (s.put .FOL_ADD_STATE F.FOL_ADD_STATE_CODE b.code) b
  (s.put .FOL_ERR F.FOL_ERR_ADD_REFUSED 1).arrive 2

/-- Whether a range lies wholly in one private window of H[0] (R81). -/
def inHousePrivate (s : State) (addr len : Nat) : Bool :=
  s.folio.map.windows.any (fun w => w.kind == 0 && w.mask.testBit 0 && decide (w.base ≤ addr)
    && decide (addr + len ≤ w.base + w.size))

/-- The number under which the Archivist's copy of an addendum stands among its transfers. -/
def copyId : Nat := 66

/-- ADDENDUM_GO: a write of GO by a core of H[0] (R81, R481 step 1); the copy reads every line of the buffer through the
home slices. A refusal here has no field of an image: FOL_STATUS shows LEAF 0 and OFFSET 0 with it, as it does for FLASH_CHANGED
(DESIGN CHOICE, log entry 111: R88 and R484 name none). -/
def execAddendumGo (who : Agent) (v : Word) (s : State) : Out :=
  let addr := (s.rd .FOL_ADD_ADDR).toNat
  let len := (s.rd .FOL_ADD_LEN).toNat
  if !s.isHouse who || !v.getLsbD 0 then .next s
  else if s.get .FOL_ADD_STATE F.FOL_ADD_STATE_STATE ≠ 0 then .next (refuseAddendum s ⟨0x504, 0, 0⟩)
  else if len < 0x90 ∨ 0x100000 < len then .next (refuseAddendum s ⟨0x103, 0, 0⟩)
  else if !inHousePrivate s addr len then .next (refuseAddendum s ⟨0x506, 0, 0⟩)
  else
    let s := s.put .FOL_ADD_STATE F.FOL_ADD_STATE_STATE 1
    let lines := (lineParts addr len).map (·.1)
    let s := { s with arc := { s.arc with serving := s.arc.serving.set copyId ⟨[], lines, true, false, none, false⟩ } }
    .next (putTransfers s 25 (lines.map (fun l => engMsg 25 .rdOnce 0 l (txnOf 5 copyId))))

/-- The bytes of a range from lines that have been read. -/
def readBytes (lines : NMap (LineData × Bool)) (addr len : Nat) : List Byte :=
  (lineParts addr len).flatMap (fun e =>
    let d := (lines.getD e.1 (0, false)).1
    (List.range e.2.2).map (fun j => lineByte d (e.2.1 + j)))

/-- The points whose content an addendum changes: its deals, home slice 0 for routing and budgets, the up directions of the
dies whose cores move (R83). Points of a disabled die or channel do not switch. -/
def affectedPoints (f a : Folio) (moved : List (Nat × Nat × Nat)) : List Nat :=
  let on (p : Nat) : Bool := if p < 0x20 then f.dieEnabled (p % 16) else if p < 0x30 then true else f.chanEnabled (p - 0x30)
  let slice0 := !a.tally.isEmpty || !a.queues.isEmpty
  (List.range 64).filter (fun p => on p &&
    (a.deals.any (fun r => r.point == p) || (p == 0x20 && slice0) || (decide (p < 0x10) && moved.any (fun m => m.1 / 24 == p))))

/-- An accepted addendum put in force (R82): shadows of the affected points discarded and written, every COMMIT in one
cycle. FOL_ADD_STATE.CODE, the result of the last GO, becomes 0 with the acceptance, also over an ADD_BUSY that a GO during COPY
left, and keeps the earlier code until then (DESIGN CHOICE, log entry 109: R88 does not say which GO counts). -/
def pendAddendum (s : State) (im : List Byte) (a g : Folio) : State :=
  let f := s.folio
  let moved := membersMoved f g
  let ps := affectedPoints f a moved
  let s := overAll ps (fun s p => overAll (shadowPairs s p) (fun s e => s.wr e.1 (s.rd e.2)) s) s
  let s := overAll a.deals (fun s r =>
    let s := overAll (List.range (dealLen r.point / 8)) (fun s k => s.wr (.FAB_DEAL r.point k) (dealWord g r.point k)) s
    s.wr (.FAB_BURST r.point) (BitVec.ofNat 64 r.burst)) s
  let s := overAll a.tally (fun s r => s.wr (.TIC_ROUTE r.src) (BitVec.ofNat 64 (r.prio * 2 ^ 16 + r.target))) s
  let s := overAll ps resendShadow s
  let s := (s.put .FOL_ADD_STATE F.FOL_ADD_STATE_STATE 3).put .FOL_ADD_STATE F.FOL_ADD_STATE_CODE 0
  let s := s.wr .FOL_ADD_SEQ (BitVec.ofNat 64 (imLe im 0x50 4))
  let s := overAll (List.range 6) (fun s k => s.wr (.FOL_DIGEST_ADD k) (digestWord (imageDigest im) k)) s
  let s := { s with
    folio := { g with queues := f.queues }
    arc := { s.arc with
      addBytes := im, addFolio := some f, members := moved, queuesPend := if a.queues.isEmpty then [] else g.queues
      points := ps.foldl (fun n p => n ||| 2 ^ p) 0, affected := ps.foldl (fun n p => n ||| 2 ^ p) 0 } }
  let s := overAll ps commitPoint s
  finishAddendum s

/-- ADDENDUM_COPY_DONE: the copy is whole; VERIFY makes the checks of R481 steps 3 to 6 (R80), and an accepted addendum
becomes PENDING. -/
def execAddendumCopyDone (s : State) : Out :=
  match s.arc.serving.get? copyId with
  | none => .next s
  | some v =>
    if s.get .FOL_ADD_STATE F.FOL_ADD_STATE_STATE ≠ 1 ∨ v.due ≠ [] then .next s
    else
      let addr := (s.rd .FOL_ADD_ADDR).toNat
      let len := (s.rd .FOL_ADD_LEN).toNat
      let buf := readBytes v.lines addr len
      let s := { s with arc := { s.arc with serving := s.arc.serving.erase copyId } }
      let a := readFolio buf true
      let g := amended s.folio a
      let m := amended s.folio a.marked
      let bad := firstBad [
        imageBad s buf true len,
        addendumBad s buf a,
        diesBad s m,
        foliosBad s m buf a true (disorderBad m a.marked),
        stateBad s g]
      match bad with
      | some b => .next (refuseAddendum (s.put .FOL_ADD_STATE F.FOL_ADD_STATE_STATE 0) b)
      | none => .next (pendAddendum (setFolStatus s accepted) (imBytes buf 0 (imLe buf 8 4)) a g)

end Sys2Proof.Machine
end

