-- ==== Sys2Proof/Machine/Archivist.lean ====
section
/-! DEFINITION. The Archivist's carrels and services, the watermark, tamper (R394 to R408). A service reads and writes memory
through the home slices; it is offered again until its lines have come. -/

namespace Sys2Proof.Machine

/-! ### Carrels (R400, R401) -/

/-- STATE of a carrel: 0 IDLE, 1 CALLED, 2 SERVING, 3 RETURNED. -/
def carrelState (s : State) (k : Nat) : Nat := s.get (.ARC_CTL k) F.ARC_CTL_STATE

/-- Whether an agent is the owner of a carrel (R400): a core of its hand, which is H[0] or has bit 7 of CTRL_ACCESS and is no
ledger hand; the management port for carrel 63. -/
def carrelOwner (s : State) (who : Agent) (k : Nat) : Bool :=
  match who with
  | .bmc => k == 63
  | .archivist => false
  | .core c =>
    match s.handOf c.val with
    | none => false
    | some h => k != 63 && !s.folio.isLedger h && h == s.get (.ARC_OWNER k) F.ARC_OWNER_HAND && s.folio.ctrlAccess h 7

/-- A write to the carrel is ignored, and WRITE_IGNORED is set (R401). -/
def carrelIgnored (s : State) (k : Nat) : State := s.put (.ARC_CTL k) F.ARC_CTL_WRITE_IGNORED 1

/-- RELEASE of a RETURNED carrel: words 1 to 31 and SERVICE are zeroed (R401). -/
def releaseCarrel (s : State) (k : Nat) : State :=
  let s := overAll (List.range 30) (fun s i => s.wr (.ARC_DATA k (i + 2)) 0) (s.wr (.ARC_RESULT k) 0)
  (s.put (.ARC_CTL k) F.ARC_CTL_SERVICE 0).put (.ARC_CTL k) F.ARC_CTL_STATE 0

/-- WRITE_IGNORED cleared by a write with its bit set (R14). -/
def clearIgnored (s : State) (k : Nat) (v : Word) : State :=
  if v.getLsbD 6 then s.put (.ARC_CTL k) F.ARC_CTL_WRITE_IGNORED 0 else s

/-- A write to ARC_CTL (R401). -/
def arcCtl (s : State) (who : Agent) (k : Nat) (v : Word) : State :=
  let call := v.getLsbD 0
  let rel := v.getLsbD 1
  let st := carrelState s k
  if !carrelOwner s who k then s
  else if call && rel then carrelIgnored s k
  else if st = 0 then
    let s := (clearIgnored s k v).put (.ARC_CTL k) F.ARC_CTL_SERVICE (F.ARC_CTL_SERVICE.get v)
    if call then s.put (.ARC_CTL k) F.ARC_CTL_STATE 1 else s
  else if st = 3 ∧ rel then releaseCarrel (clearIgnored s k v) k
  else carrelIgnored s k

/-- ARC_CTL_CALL (R401). -/
def execArcCtlCall (who : Agent) (k : Fin 64) (v : Word) (s : State) : Out := barred s who (.ARC_CTL k) (.next (arcCtl s who k v))
/-- ARC_CTL_RELEASE (R401). -/
def execArcCtlRelease (who : Agent) (k : Fin 64) (v : Word) (s : State) : Out := barred s who (.ARC_CTL k) (.next (arcCtl s who k v))

/-- A write to a data word of a carrel: accepted from the owner in IDLE (R401). -/
def carrelData (s : State) (who : Agent) (k w : Nat) (v : Word) : State :=
  if !carrelOwner s who k then s
  else if carrelState s k = 0 then s.wr (.ARC_DATA k w) v
  else carrelIgnored s k

/-- ARC_OWNER_WRITE: a core of H[0] sets the owner of an IDLE carrel; otherwise OWNER_BUSY (R408). -/
def execArcOwnerWrite (who : Agent) (k : Fin 64) (v : Word) (s : State) : Out :=
  if !s.isHouse who then .next s
  else if carrelState s k = 0 then .next (s.put (.ARC_OWNER k) F.ARC_OWNER_HAND (F.ARC_OWNER_HAND.get v))
  else .next (s.raise .ARC_ERR 2 24 0x2700 none 0 0)

/-! ### Calls (R402, R403) -/

/-- A call's entry among those being served. -/
def serving (s : State) (k : Nat) : Option Serving := s.arc.serving.get? k

/-- A call's entry stored. -/
def setServing (s : State) (k : Nat) (v : Serving) : State := { s with arc := { s.arc with serving := s.arc.serving.set k v } }

/-- A call taken, with its result where it has one at once. -/
def beginServing (s : State) (k : Nat) (r : Option SrvResult) : State :=
  sramWrite (setServing (s.put (.ARC_CTL k) F.ARC_CTL_STATE 2) k ⟨[], [], false, false, r, false⟩) 15 0x2700 k

/-- A call has its result. -/
def finishCall (s : State) (k status keep : Nat) (words : List (Nat × Word)) : State :=
  match serving s k with
  | none => s
  | some v =>
    setServing s k { v with
      lines := [], due := [], result := some ⟨status, keep, words.foldl (fun m e => m.set e.1 e.2) []⟩ }

/-- A call ends with a status and nothing kept. -/
def endCall (s : State) (k status : Nat) : State := finishCall s k status 0 []

/-- The services of R399. -/
def services : List Nat := [1, 2, 3, 4, 0x10, 0x11, 0x20, 0x21, 0x22]

/-- Whether the tamper latch is set (R406). -/
def tampered (s : State) : Bool := s.bit .ARC_STATUS F.ARC_STATUS_TAMPER

/-- CARREL_TAKE: the lowest CALLED carrel, while fewer than four are served and the firmware runs (R403). After tamper the
call is refused with TAMPERED, and an undefined SERVICE with BAD_SERVICE. -/
def execCarrelTake (s : State) : Out :=
  let busy := (s.arc.serving.filter (fun e => decide (e.1 < 64))).length
  if 4 ≤ busy ∨ s.get .ARC_STATUS F.ARC_STATUS_STAGE < 2 then .next s
  else
    match (List.range 64).find? (fun k => carrelState s k == 1) with
    | none => .next s
    | some k =>
      let r : Option SrvResult :=
        if tampered s then some ⟨6, 0, []⟩
        else if services.contains (s.get (.ARC_CTL k) F.ARC_CTL_SERVICE) then none
        else some ⟨1, 0, []⟩
      .next (beginServing s k r)

/-- A call that is being served for the service named, without a result yet. -/
def active (s : State) (k svc : Nat) : Option Serving :=
  match serving s k with
  | some v => if v.result.isNone ∧ carrelState s k = 2 ∧ s.get (.ARC_CTL k) F.ARC_CTL_SERVICE = svc then some v else none
  | none => none

/-- The caller's hand; the management port has none. -/
def caller (s : State) (k : Nat) : Option Nat := if k = 63 then none else some (s.get (.ARC_OWNER k) F.ARC_OWNER_HAND)

/-- An argument word. -/
def arg (s : State) (k w : Nat) : Nat := (s.rd (.ARC_DATA k w)).toNat

/-- Whether a range lies in windows of the caller's hand that permit the access (R399). -/
def callerRange (s : State) (k addr len : Nat) (write : Bool) : Bool :=
  match caller s k with
  | none => false
  | some h => inWindows s h addr len &&
      (!write || (lineParts addr len).all (fun e =>
        match windowAt s (64 * e.1) with | some w => w.kind == 0 || w.kind == 3 | none => false))

/-- The lines of a range asked for by a call (R398: a channel without the secure attribute). -/
def askLines (s : State) (k : Nat) (v : Serving) (addr len : Nat) : State :=
  let ls := (lineParts addr len).map (·.1)
  putTransfers (setServing s k { v with asked := true, due := ls }) 25 (ls.map (fun l => engMsg 25 .rdOnce 0 l (txnOf 5 k)))

/-- A range read by a call: asked for first, then handed on once every line is there; a poisoned line fails the call. -/
def withRange (s : State) (k : Nat) (v : Serving) (addr len : Nat) (f : State → List Byte → State) : State :=
  if !v.asked then askLines s k v addr len
  else if v.due ≠ [] then s
  else if v.lines.any (fun e => e.2.2) then endCall s k 7
  else f s (readBytes v.lines addr len)

/-- KEEP for words `a` to `b`. -/
def keepRange (a b : Nat) : Nat := 2 ^ (b - 1) - 2 ^ (a - 2)

/-! ### The services (R399) -/

/-- The largest of some floors; zero where none is valid (R391). -/
def floorOf (l : List Nat) : Nat := l.foldl max 0

/-- INFO. -/
def execInfo (k : Fin 64) (s : State) : Out :=
  match active s k 1 with
  | none => .next s
  | some _ =>
    let a := s.arc
    let key := Config.attestPublic
    .next (finishCall s k 0 (keepRange 2 17) (
      [(2, a.version), (3, BitVec.ofNat 64 (a.rootRevoke % 16 + a.fwRevoke % 4 * 2 ^ 8)),
        (4, BitVec.ofNat 64 (floorOf a.floors)), (5, BitVec.ofNat 64 (floorOf a.fwFloors))]
      ++ (List.range 6).map (fun i => (6 + i, digestWord key.1 i)) ++ (List.range 6).map (fun i => (12 + i, digestWord key.2 i))))

/-- Random words for words 3 on. -/
def randomWords : Nat → Nat → State → List (Nat × Word) × State
  | 0, _, s => ([], s)
  | n + 1, w, s =>
    let r := s.fresh
    let t := randomWords n (w + 1) r.2
    ((w, r.1) :: t.1, t.2)

/-- ENTROPY: words from the entropy source, which the spec leaves free. -/
def execEntropy (k : Fin 64) (s : State) : Out :=
  match active s k 2 with
  | none => .next s
  | some _ =>
    let n := arg s k 2
    if n = 0 ∨ 29 < n then .next (endCall s k 3)
    else
      let r := randomWords n 3 s
      .next (finishCall r.2 k 0 (keepRange 2 (2 + n)) ((2, BitVec.ofNat 64 n) :: r.1))

/-- MEASURE: SHA-384 of a range in the caller's windows. -/
def execMeasure (k : Fin 64) (s : State) : Out :=
  match active s k 3 with
  | none => .next s
  | some v =>
    let b := arg s k 2
    let n := arg s k 3
    if b % 64 ≠ 0 ∨ n % 64 ≠ 0 ∨ 0x1000000 < n ∨ ¬ callerRange s k b n false then .next (endCall s k 3)
    else
      .next (withRange s k v b n (fun s bs =>
        finishCall s k 0 (keepRange 2 7) ((List.range 6).map (fun i => (2 + i, digestWord (Config.sha384 bs) i)))))

/-- Words 2 to 15 of ATTEST: nonce, FOL_DIGEST, FOL_ADD_SEQ with the caller's hand, VERSION. -/
def attestWords (s : State) (k : Nat) : List (Nat × Word) :=
  (List.range 6).map (fun i => (2 + i, s.rd (.ARC_DATA k (2 + i))))
  ++ (List.range 6).map (fun i => (8 + i, s.rd (.FOL_DIGEST i)))
  ++ [(14, BitVec.ofNat 64 ((s.rd .FOL_ADD_SEQ).toNat % 2 ^ 32 + s.get (.ARC_OWNER k) F.ARC_OWNER_HAND * 2 ^ 32)), (15, s.arc.version)]

/-- ATTEST: the words signed with ATTEST_KEY. -/
def execAttest (k : Fin 64) (s : State) : Out :=
  match active s k 4 with
  | none => .next s
  | some _ =>
    let ws := attestWords s k
    let sig := Config.ecdsaSign (Config.sha384 (ws.flatMap (fun e => leBytes 8 e.2.toNat)))
    .next (finishCall s k 0 (keepRange 2 27) (ws ++ (List.range 6).map (fun i => (16 + i, digestWord sig.1 i))
      ++ (List.range 6).map (fun i => (22 + i, digestWord sig.2 i))))

/-- The vault record of a hand. -/
def vaultRec (s : State) (h id : Nat) : Option VaultRec := s.arc.vault.find? (fun r => r.owner == h && r.slot == id)

/-- VAULT_PUT: a record stored for the caller's hand, replacing an earlier one. -/
def execVaultPut (k : Fin 64) (s : State) : Out :=
  match active s k 0x10 with
  | none => .next s
  | some v =>
    let src := arg s k 3
    let n := arg s k 4
    let h := (caller s k).getD 0
    if n < 64 ∨ 0x10000 < n ∨ n % 64 ≠ 0 ∨ ¬ callerRange s k src n false then .next (endCall s k 3)
    else
      .next (withRange s k v src n (fun s bs =>
        let rest := s.arc.vault.filter (fun r => !(r.owner == h && r.slot == arg s k 2))
        let s := { s with arc := { s.arc with vault := rest ++ [⟨h, arg s k 2, bs⟩] } }
        endCall s k 0))

/-- VAULT_GET: a stored record copied to the caller's destination. -/
def execVaultGet (k : Fin 64) (s : State) : Out :=
  match active s k 0x11 with
  | none => .next s
  | some v =>
    let dst := arg s k 3
    match (caller s k).bind (fun h => vaultRec s h (arg s k 2)) with
    | none => .next (endCall s k 3)
    | some r =>
      let n := r.data.length
      if arg s k 4 < n ∨ ¬ callerRange s k dst n true then .next (endCall s k 3)
      else if !v.asked then
        if protectedRange s dst n then .next (endCall s k 2)
        else
          let ms := wrBytes 25 0 (txnOf 5 k) dst r.data
          .next (putTransfers (setServing s k { v with asked := true, due := ms.map (·.line) }) 25 ms)
      else if v.due ≠ [] then .next s
      else .next (finishCall s k 0 (keepRange 2 2) [(2, BitVec.ofNat 64 n)])

/-- Whether the caller is H[0]. -/
def houseCall (s : State) (k : Nat) : Bool := caller s k == some 0

/-- FLOOR_RAISE: the next free FLOOR entry programmed. -/
def execFloorRaise (k : Fin 64) (s : State) : Out :=
  match active s k 0x20 with
  | none => .next s
  | some _ =>
    let n := arg s k 2
    if !houseCall s k then .next (endCall s k 2)
    else if n ≤ floorOf s.arc.floors ∨ (s.rd .FOL_SERIAL).toNat < n then .next (endCall s k 3)
    else if ¬ s.bit .ARC_STATUS F.ARC_STATUS_VPP then .next (endCall s k 4)
    else if 8 ≤ s.arc.floors.length then .next (endCall s k 7)
    else .next (endCall { s with arc := { s.arc with floors := s.arc.floors ++ [n] } } k 0)

/-- The lines of a range of GiB zeroed by secure DMA under a work number (R396, R398, R406). -/
def zeroGiB (s : State) (a b id : Nat) : State :=
  let ls := (List.range ((b - a) * 2 ^ 24)).map (fun i => a * 2 ^ 24 + i)
  putTransfers s 25 (ls.map (fun l => { wrMsg 25 0 l (txnOf 5 id) 0 (BitVec.allOnes 64) false with src := .arc true }))

/-- Watermark in force. -/
def watermarkNow (s : State) : Nat := s.get .ARC_VAULT F.ARC_VAULT_WATERMARK

/-- Whether the new watermark is in range: installed DRAM, and no MAP window in what it adds (R396). -/
def watermarkOk (s : State) (w : Nat) : Bool :=
  decide (w * 2 ^ 30 ≤ installed s) && decide (w < 2 ^ 16) && s.folio.map.windows.all (fun r => decide (w * 2 ^ 30 ≤ r.base))

/-- WATERMARK (R396): the range between the old and the new watermark is zeroed; the call returns when the new value takes
effect. -/
def execWatermark (k : Fin 64) (s : State) : Out :=
  match active s k 0x21 with
  | none => .next s
  | some v =>
    let w := arg s k 2
    let a := watermarkNow s
    if v.asked then .next s
    else if !houseCall s k || s.bit .ARC_VAULT F.ARC_VAULT_LOCK then .next (endCall s k 2)
    else if !watermarkOk s w then .next (endCall s k 3)
    else if s.arc.wmPend.isSome then .next (endCall s k 4)
    else
      let s := setServing s k { v with asked := true }
      let lo := min a w
      let hi := max a w
      let s := { s with arc := { s.arc with wmPend := some w, zeroLeft := (hi - lo) * 2 ^ 24 } }
      .next (zeroGiB s lo hi 64)

/-- WATERMARK_SWITCH: at an IOD round boundary after the zeroing has ended, the new watermark takes effect (R396, R397). -/
def execWatermarkSwitch (s : State) : Out :=
  match s.arc.wmPend with
  | none => .next s
  | some w =>
    if s.arc.zeroLeft ≠ 0 ∨ trickOf s 0x20 ≠ 0 then .next s
    else
      let s := setWatermark s w
      let s := { s with
        folio := { s.folio with map := { s.folio.map with watermark := w } }, arc := { s.arc with wmPend := none } }
      .next (overAll (List.range 64) (fun s k =>
        match active s k 0x21 with
        | some v => if v.asked then endCall s k 0 else s
        | none => s) s)

/-- SLOT_WRITE: a folio that passes steps 1 to 3 of R74 is written to the slot not in force. -/
def execSlotWrite (k : Fin 64) (s : State) : Out :=
  match active s k 0x22 with
  | none => .next s
  | some v =>
    let src := arg s k 2
    let n := arg s k 3
    if !houseCall s k then .next (endCall s k 2)
    else if ¬ callerRange s k src n false then .next (endCall s k 3)
    else
      .next (withRange s k v src n (fun s bs =>
        let code := codeOf (imageBad s bs false n)
        let slot := 3 - s.get .FOL_STATE F.FOL_STATE_SLOT
        let s := if code = 0 then { s with arc := { s.arc with flash := s.arc.flash.set slot bs } } else s
        finishCall s k 0 (keepRange 2 2) [(2, BitVec.ofNat 64 code)]))

/-! ### Return (R402) -/

/-- The Archivist's SRAM checked as a call's result is read: lost state ends every call in progress FAILED (R447). -/
def servingCheck (s : State) (k : Nat) : State :=
  let e := s.iodSram 15 0x2700 k
  if !e.1 then e.2
  else overAll (List.range 64) (fun s j =>
    match serving s j with
    | some v => if v.returned then s else endCall s j 7
    | none => s) e.2

/-- CARREL_RETURN: the result words, STATUS and KEEP are written, then RETURN; the scrub starts. -/
def execCarrelReturn (k : Fin 64) (s : State) : Out :=
  let s := servingCheck s k
  match serving s k with
  | none => .next s
  | some v =>
    match v.result with
    | none => .next s
    | some r =>
      if carrelState s k ≠ 2 ∨ v.returned then .next s
      else
        let s := overAll r.words (fun s e => s.wr (.ARC_DATA k e.1) e.2) s
        let s := (s.put (.ARC_RESULT k) F.ARC_RESULT_STATUS r.status).put (.ARC_RESULT k) F.ARC_RESULT_KEEP r.keep
        .next (setServing s k { v with returned := true })

/-- CARREL_SCRUB_END: every data word whose KEEP bit is clear reads zero, the carrel enters RETURNED and source 512 + k
arrives; carrel 63 raises the in-band interrupt 0x02 (R402, R473). -/
def execCarrelScrubEnd (k : Fin 64) (s : State) : Out :=
  match serving s k with
  | none => .next s
  | some v =>
    if !v.returned then .next s
    else
      let keep := s.get (.ARC_RESULT k) F.ARC_RESULT_KEEP
      let s := overAll (List.range 30) (fun s i => if keep.testBit i then s else s.wr (.ARC_DATA k (i + 2)) 0) s
      let s := (s.put (.ARC_CTL k) F.ARC_CTL_STATE 3).arrive (512 + k.val)
      let s := { s with arc := { s.arc with serving := s.arc.serving.erase k.val } }
      .next (if k.val = 63 then s.emit (.ibi 2) else s)

/-! ### Tamper (R406) -/

/-- The tamper event: latched until package reset; every call in CALLED or SERVING ends TAMPERED, and the vault is zeroed. -/
def tamperEvent (s : State) : State :=
  if tampered s then s
  else
    let s := overAll (List.range 64) (fun s k =>
      if carrelState s k = 1 then beginServing s k (some ⟨6, 0, []⟩)
      else if (active s k (s.get (.ARC_CTL k) F.ARC_CTL_SERVICE)).isSome then endCall s k 6
      else
        match serving s k with
        | some v => if v.returned then s else endCall s k 6
        | none => s) s
    let s := (s.put .ARC_STATUS F.ARC_STATUS_TAMPER 1).put .ARC_STATUS F.ARC_STATUS_STAGE 3
    let s := s.raise .ARC_ERR 4 25 0x2700 none 2 0
    let w := watermarkNow s
    zeroGiB { s with arc := { s.arc with tampering := true, tamperLeft := w * 2 ^ 24 } } 0 w 65

/-- TAMPER: TAMPER_L low for 1 µs (R406). -/
def execTamper (s : State) : Out := .next (tamperEvent s)

/-- VAULT_ZERO_END: every line of the vault has been written (R406). -/
def execVaultZeroEnd (s : State) : Out :=
  if s.arc.tampering ∧ s.arc.tamperLeft = 0 then
    .next ({ s with arc := { s.arc with tampering := false } }.put .ARC_STATUS F.ARC_STATUS_VAULT_ZEROED 1)
  else .next s

/-- A write of ARC_INJECT by a core of H[0] (R406, R408, R432): VAULT is armed, TAMPER acts and clears itself. -/
def arcInject (s : State) (who : Agent) (v : Word) : State :=
  if !s.isHouse who then s
  else
    let s := s.put .ARC_INJECT F.ARC_INJECT_VAULT (F.ARC_INJECT_VAULT.get v)
    if F.ARC_INJECT_TAMPER.get v = 1 then tamperEvent s else s

/-- ARC_INJECT_TAMPER (R406). -/
def execArcInjectTamper (who : Agent) (v : Word) (s : State) : Out := .next (arcInject s who v)
/-- ARC_INJECT_VAULT (R432). -/
def execArcInjectVault (who : Agent) (v : Word) (s : State) : Out := .next (arcInject s who v)

end Sys2Proof.Machine
end

