-- ==== Sys2Proof/Machine/Counters.lean ====
section
/-! DEFINITION. Counters and precise sampling (R451 to R459). -/

namespace Sys2Proof.Machine

/-- The slots of a core or block unit that show an event. -/
def slotsShowing (s : State) (u : CtrUnit) (event : Nat) : List Nat :=
  match u with
  | .core c => (List.range 32).filter (fun k =>
      decide (3 ≤ k) && s.get (.CTR_CORE_SEL c (k / 8)) (F.CTR_CORE_SEL_SEL (k % 8)) == event)
  | .block b =>
    if unitKind (0x1000 + b) = event / 256 then
      (List.range 8).filter (fun k => s.get (.CTR_BLK_SEL b) (F.CTR_BLK_SEL_SEL k) == event % 256)
    else []

/-- Whether a counter passes its largest value: where the model counts the event, its count says so (R454). -/
def wraps (s : State) (u : CtrUnit) (ev : Nat) : Bool :=
  !counted u ev || decide (wrapAt u ≤ s.eventCount (unitNo u) ev)

/-- COUNTER_WRAP (R454, R455): a shown counter that passes its largest value returns to zero and its overflow bit sets. In a
core the local counter-overflow interrupt becomes pending when OF changes from 0 to 1, but not in a ledger hand; a block's
source 576 + b arrives. -/
def execCounterWrap (u : CtrUnit) (event : BitVec 16) (s : State) : Out :=
  let e := event.toNat
  let ks := if e = 0 then [] else slotsShowing s u e
  if ks = [] ∨ ¬ wraps s u e then .next s
  else
    let s := if counted u e then
        { s with events := s.events.set (unitNo u * 2 ^ 16 + e) (s.eventCount (unitNo u) e - wrapAt u) } else s
    let bits := BitVec.ofNat 64 (ks.foldl (fun n k => n + 2 ^ k) 0)
    match u with
    | .core c =>
      let old := s.rd (.CTR_CORE_OVF c)
      let s := overAll ks (fun s k => s.wr (.CTR_CORE c k) 0) s
      let s := s.wr (.CTR_CORE_OVF c) (old ||| bits)
      if old ||| bits = old ∨ s.ledgerCore c then .next s
      else .next (notify (setMip s c 13 true) c)
    | .block b =>
      let s := overAll ks (fun s k => s.wr (.CTR_BLK b k) 0) s
      .next ((s.wr (.CTR_BLK_OVF b) (s.rd (.CTR_BLK_OVF b) ||| bits)).arrive (576 + b.val))

/-- Whether a core's hand may use precise sampling (R71, R456). -/
def maySample (s : State) (c : Nat) : Bool :=
  match s.folio.counters, s.handOf c with
  | some l, some h => l.hands.testBit h
  | _, _ => false

/-- The sampling CSRs (R456). -/
def jsctl : Nat := 0x7C8
def jsbase : Nat := 0x7C9
def jssize : Nat := 0x7CA
def jshead : Nat := 0x7CB

/-- Bits of mjsbase, mjssize and mjshead that hold a value. -/
def jsMask (n : Nat) : Word := if n = jsbase then 0x000FFFFFFFFFF000 else if n = jssize then 0xFFFFF000 else 0xFFFFFFC0

/-- Whether EN may be set: a valid EVENT, a PERIOD, and a buffer in one private window of the hand (R457). -/
def jsValid (s : State) (c : Nat) (v : Word) : Bool :=
  let e := Fld.get ⟨23, 16⟩ v
  let base := (s.csr c jsbase).toNat
  let size := (s.csr c jssize).toNat
  [1, 4, 6, 7].contains e && Fld.get ⟨63, 32⟩ v != 0 &&
  s.folio.map.windows.any (fun w =>
    w.kind == 0 && w.mask.testBit ((s.handOf c).getD 64) && decide (w.base ≤ base) && decide (base + size ≤ w.base + w.size))

/-- A write of mjsctl (R456, R457): an EN that is refused stays clear and sets BADBUF. -/
def writeJsctl (s : State) (c : Nat) (v : Word) : State :=
  let w := v &&& 0xFFFFFFFF00FF0006
  if !v.getLsbD 0 then s.setCsr c jsctl w
  else if jsValid s c v then s.setCsr c jsctl (w ||| 1)
  else s.setCsr c jsctl (w ||| 4)

/-- A write of a sampling CSR; without the right to sample it is ignored, and mjsbase and mjssize are fixed while EN is set
(R456, R457). -/
def writeSampling (s : State) (c n : Nat) (v : Word) : State :=
  if !maySample s c then s
  else if n = jsctl then writeJsctl s c v
  else if (n = jsbase ∨ n = jssize) ∧ (s.csr c jsctl).getLsbD 0 then s
  else s.setCsr c n (v &&& jsMask n)

/-- MJSCTL_ENABLE: a CSR instruction of the core writes mjsctl in M-mode; it is illegal in a lower mode (R149, R457). -/
def execMjsctlEnable (c : Fin 384) (o : CsrOp) (s : State) : Out :=
  if !s.ready c then .next s
  else if (s.core c).priv ≠ 3 then .next (illegal s c (o.insn.zeroExtend 64))
  else .next ((writeSampling s c jsctl o.v).retire c 4)

/-- The sampled record (R458): the instruction that retired last. -/
def sampleBytes (s : State) (c : Nat) (m : SampleInfo) : List Byte :=
  let k := s.core c
  let len : Word := if m.insn.toNat % 4 = 3 then 4 else 2
  let mode := k.priv.toNat + (if k.virt then 4 else 0)
  leBytes 8 (k.pc - len).toNat ++ leBytes 4 m.insn.toNat ++ [m.kind, m.src, BitVec.ofNat 8 mode, m.flags.setWidth 8]
  ++ leBytes 8 m.vaddr.toNat ++ leBytes 8 m.paddr.toNat ++ leBytes 8 s.mtime
  ++ (List.range 8).flatMap (fun i => leBytes 2 ((m.parts.getD i 0).toNat)) ++ leBytes 4 m.total.toNat ++ leBytes 2 c ++ [0, 0]

/-- SAMPLE_RECORD (R458): the record is a store of the hand at mjsbase + mjshead; with less than 64 bytes left it is dropped,
EN clears, FULL sets and the counter-overflow interrupt becomes pending. -/
def execSampleRecord (c : Fin 384) (m : SampleInfo) (s : State) : Out :=
  let ctl := s.csr c jsctl
  if ¬ (s.runs c ∧ maySample s c ∧ ctl.getLsbD 0) then .next s
  else
    let head := (s.csr c jshead).toNat
    if (s.csr c jssize).toNat < head + 64 then
      .next (notify (setMip (s.setCsr c jsctl ((ctl &&& ~~~ 1) ||| 2)) c 13 true) c)
    else
      let line := ((s.csr c jsbase).toNat + head) / 64
      let d := lineFrom 0 (sampleBytes s c m)
      let s := putStore s c ⟨line, d.1, d.2, false, false, false⟩
      .next (s.setCsr c jshead (BitVec.ofNat 64 (head + 64) &&& jsMask jshead))

end Sys2Proof.Machine
end

