-- ==== Sys2Proof/Machine/Csr.lean ====
section
/-! DEFINITION. The CSRs of a hart (R117 to R119, R122, R143, R148 to R150, R453, R456): which exist, who may write one, what
a write leaves and what a read shows. The CSRs, widths and legal values of the RISC-V privileged architecture are PRESUMED:
the spec names the profile and not its registers. -/

namespace Sys2Proof.Machine

/-! ### Which CSRs exist (R118) -/

/-- Lists of CSR numbers `a` to `b`. -/
def numRange (a b : Nat) : List Nat := (List.range (b + 1 - a)).map (· + a)

/-- Floating-point and vector CSRs. -/
def fpCsrs : List Nat := [0x001, 0x002, 0x003]
def vecCsrs : List Nat := [0x008, 0x009, 0x00A, 0x00F, 0xC20, 0xC21, 0xC22]

/-- Supervisor CSRs that VS-mode sees under other numbers. -/
def bankedCsrs : List Nat := [0x100, 0x104, 0x105, 0x140, 0x141, 0x142, 0x143, 0x144, 0x14D, 0x180]

/-- Whether a CSR exists. -/
def csrExists (n : Nat) : Bool :=
  fpCsrs.contains n || vecCsrs.contains n || bankedCsrs.contains n ||
  [0x106, 0x10A, 0x10C, 0x10D, 0x10E, 0x10F, 0xDA0].contains n ||
  [0x200, 0x204, 0x205, 0x240, 0x241, 0x242, 0x243, 0x244, 0x24D, 0x280].contains n ||
  [0x600, 0x602, 0x603, 0x604, 0x605, 0x606, 0x607, 0x60A, 0x60C, 0x60D, 0x60E, 0x60F, 0x643, 0x644, 0x645, 0x64A, 0x680,
    0xE12].contains n ||
  [0x300, 0x301, 0x302, 0x303, 0x304, 0x305, 0x306, 0x30A, 0x30C, 0x30D, 0x30E, 0x30F, 0x320, 0x340, 0x341, 0x342, 0x343,
    0x344, 0x34A, 0x34B, 0x747].contains n ||
  (numRange 0x323 0x33F).contains n || (decide (0x3A0 ≤ n) && decide (n ≤ 0x3AF) && n % 2 == 0) ||
  (decide (0x3B0 ≤ n) && decide (n ≤ 0x3EF)) || (decide (0xB00 ≤ n) && decide (n ≤ 0xB1F) && n != 0xB01) ||
  (decide (0xC00 ≤ n) && decide (n ≤ 0xC1F)) || (decide (0xF11 ≤ n) && decide (n ≤ 0xF15)) ||
  (decide (0xCC0 ≤ n) && decide (n ≤ 0xCC6)) || [0x7C0, 0x7C1, 0x7C8, 0x7C9, 0x7CA, 0x7CB, 0xFC0, 0xFC1].contains n

/-- The CSR that a number names in the mode of a core: VS-mode sees the vs- CSRs under the s- numbers. -/
def csrTarget (s : State) (c n : Nat) : Nat :=
  if (s.core c).virt && bankedCsrs.contains n then n + 0x100 else n

/-- Whether FS or VS is Off for a core (R135: in a virtual mode, that of vsstatus too). -/
def fsOff (s : State) (c : Nat) : Bool :=
  Fld.get ⟨14, 13⟩ (s.csr c 0x300) == 0 || ((s.core c).virt && Fld.get ⟨14, 13⟩ (s.csr c 0x200) == 0)
def vsOff (s : State) (c : Nat) : Bool :=
  Fld.get ⟨10, 9⟩ (s.csr c 0x300) == 0 || ((s.core c).virt && Fld.get ⟨10, 9⟩ (s.csr c 0x200) == 0)

/-- The trap of an access to a CSR by a core's mode: none where the access is permitted (R118, R143, R149). -/
def csrTrap (s : State) (c n : Nat) (write : Bool) : Option Nat :=
  let k := s.core c
  let low := n / 0x100 % 4
  let mode := if k.virt then 0 else k.priv.toNat
  let hs : Nat := if k.virt then 22 else 2
  if ¬ csrExists n then some 2
  else if write ∧ 0xC00 ≤ n then some 2
  else if fpCsrs.contains n ∧ fsOff s c then some 2
  else if vecCsrs.contains n ∧ vsOff s c then some 2
  else if k.priv = 3 then none
  else if low = 3 then some 2
  else if low = 2 then (if k.virt then some 22 else if k.priv = 1 then none else some 2)
  else if low = 1 ∧ k.priv = 0 then some hs
  else if n = 0x180 ∧ mode = 1 ∧ (s.csr c 0x300).getLsbD 20 then some 2
  else if n = 0x180 ∧ k.virt ∧ (s.csr c 0x600).getLsbD 20 then some 22
  else if n = 0x14D ∧ ¬ ((s.csr c 0x30A).getLsbD 63 ∧ (s.csr c 0x306).getLsbD 1) then some 2
  else if n = 0x14D ∧ k.virt ∧ ¬ ((s.csr c 0x60A).getLsbD 63 ∧ (s.csr c 0x606).getLsbD 1) then some 22
  else if n = 0x10A ∧ ¬ (s.csr c 0x30C).getLsbD 62 then some 2
  else if n = 0x10A ∧ k.virt ∧ ¬ (s.csr c 0x60C).getLsbD 62 then some 22
  else if 0x10C ≤ n ∧ n ≤ 0x10F ∧ ¬ (s.csr c (n + 0x200)).getLsbD 63 then some 2
  else if 0x10C ≤ n ∧ n ≤ 0x10F ∧ k.virt ∧ ¬ (s.csr c (n + 0x500)).getLsbD 63 then some 22
  else if 0xC00 ≤ n ∧ n < 0xC20 then
    let b := n - 0xC00
    if ¬ (s.csr c 0x306).getLsbD b then some 2
    else if k.virt ∧ ¬ (s.csr c 0x606).getLsbD b then some 22
    else if k.priv = 0 ∧ ¬ (s.csr c 0x106).getLsbD b then some hs
    else none
  else none

/-! ### Writes -/

/-- The writable bits of a CSR that keeps what is written to them. -/
def csrMask (n : Nat) : Word :=
  if n = 0x300 then 0x000000C0007E7FAA
  else if n = 0x200 then 0xC6722
  else if n = 0x302 then 0x03F8B7FF
  else if n = 0x602 then 0x0300B1FF
  else if n = 0x303 then 0x2222
  else if n = 0x603 then 0x444
  else if n = 0x304 then 0x3EEE
  else if n = 0x105 ∨ n = 0x205 ∨ n = 0x305 then 0xFFFFFFFFFFFFFFFD
  else if n = 0x141 ∨ n = 0x241 ∨ n = 0x341 then 0xFFFFFFFFFFFFFFFE
  else if n = 0x106 ∨ n = 0x306 ∨ n = 0x606 then 0xFFFFFFFF
  else if n = 0x30A ∨ n = 0x60A then 0xC0000003000000F1
  else if n = 0x10A then 0x3000000F1
  else if n = 0x30C ∨ n = 0x60C then 0xC000000000000001
  else if n = 0x10C then 1
  else if (0x30D ≤ n ∧ n ≤ 0x30F) ∨ (0x60D ≤ n ∧ n ≤ 0x60F) then 0x8000000000000000
  else if 0x10D ≤ n ∧ n ≤ 0x10F then 0
  else if n = 0x600 then 0x00030000007003C0
  else if n = 0x680 then 0xFFFFFFFFFFFFFFFC
  else if n = 0x607 ∨ n = 0x301 ∨ n = 0x320 then 0
  else if n = 0x7C0 then 1
  else if n = 0x7C1 then 0x800FFFFFFFFFFFCF
  else if n = 0x008 then 0x1FF
  else if 0x3B0 ≤ n ∧ n < 0x3C0 then 0x003FFFFFFFFFFFFF
  else if (0x3A4 ≤ n ∧ n ≤ 0x3AF) ∨ (0x3C0 ≤ n ∧ n ≤ 0x3EF) then 0
  else 0xFFFFFFFFFFFFFFFF

/-- A value put into the masked bits of a CSR. -/
def putMasked (s : State) (c n : Nat) (m v : Word) : State := s.setCsr c n ((s.csr c n &&& ~~~ m) ||| (v &&& m))

/-- A write of mstatus: MPP holds a legal mode only. -/
def writeMstatus (s : State) (c : Nat) (m v : Word) : State :=
  let old := s.csr c 0x300
  let v := if Fld.get ⟨12, 11⟩ v = 2 then Fld.put ⟨12, 11⟩ v (Fld.get ⟨12, 11⟩ old) else v
  putMasked s c 0x300 m v

/-- The bits of sstatus. -/
def sstatusMask : Word := 0xC6722

/-- A write of satp, vsatp or hgatp; one with a mode that is not supported is ignored (R122). -/
def writeAtp (s : State) (c n : Nat) (v : Word) : State :=
  let v := if n = 0x680 then v &&& 0xF3FFFFFFFFFFFFFC else v
  if [0, 8, 9, 10].contains (Fld.get ⟨63, 60⟩ v) then s.setCsr c n v else s

/-- Whether a PMP configuration under MML gives M-mode execution: an M-mode-only executable or a locked shared-code entry (Smepmp). -/
def lockedExec (b : Nat) : Bool :=
  b.testBit 7 && ((b.testBit 2 && !(b.testBit 0 && b.testBit 1)) || (b.testBit 1 && !b.testBit 0))

/-- The bytes of a PMP configuration register after a write: a locked entry keeps its byte, and with MML set no entry that M-mode
executes is added, unless RLB is set (Smepmp); NA4 is not selectable with a granularity of 4 KiB. -/
def writePmpCfg (s : State) (c n : Nat) (v : Word) : State :=
  let rlb := (s.csr c 0x747).getLsbD 2
  let mml := (s.csr c 0x747).getLsbD 0
  let old := s.csr c n
  s.setCsr c n ((List.range 8).foldl (fun w i =>
    let f : Fld := ⟨8 * i + 7, 8 * i⟩
    let b := f.get v % 32 + f.get v / 128 * 128
    let b := if b / 8 % 4 = 2 then b - 16 + f.get old / 8 % 4 * 8 else b
    if ((f.get old).testBit 7 || (mml && lockedExec b)) && !rlb then w else f.put w b) old)

/-- A write of a PMP address: a locked entry, and the base of a locked TOR entry, keep it unless RLB is set. -/
def writePmpAddr (s : State) (c n : Nat) (v : Word) : State :=
  let i := n - 0x3B0
  let rlb := (s.csr c 0x747).getLsbD 2
  let lock (j : Nat) : Bool := decide (j < 16) && (pmpCfg s c j).testBit 7
  let tor (j : Nat) : Bool := lock j && pmpCfg s c j / 8 % 4 == 1
  if (lock i || tor (i + 1)) && !rlb then s else putMasked s c n (csrMask n) v

/-- A write of mseccfg (Smepmp): MML and MMWP are sticky; RLB cannot be set while an entry is locked. -/
def writeMseccfg (s : State) (c : Nat) (v : Word) : State :=
  let old := s.csr c 0x747
  let locked := (List.range 16).any (fun i => (pmpCfg s c i).testBit 7)
  let low := ((v ||| old) &&& 3) ||| (if v.getLsbD 2 && (old.getLsbD 2 || !locked) then 4 else 0)
  s.setCsr c 0x747 (low ||| (v &&& 0x300000000))

/-- A write of mip's software-writable bits; SEIP as written is kept beside the line. -/
def writeMip (s : State) (c : Nat) (m v : Word) : State :=
  let stce := (s.csr c 0x30A).getLsbD 63
  let m := m &&& (if stce then 0x2206 else 0x2226)
  let s := if m.getLsbD 9 then s.setCore c { s.core c with seip := v.getLsbD 9 } else s
  let s := if m.getLsbD 2 then s.setCsr c 0x645 (setBit (s.csr c 0x645) 2 (v.getLsbD 2)) else s
  putMasked s c 0x344 m v

/-- VS-level bits as S-level bits and back. -/
def vsDown (w : Word) : Word := (w >>> 1) &&& 0x222
def vsUp (w : Word) : Word := (w &&& 0x222) <<< 1

/-- A write of hvip: VSSIP, VSTIP and VSEIP. -/
def writeHvip (s : State) (c : Nat) (v : Word) : State :=
  let s := s.setCsr c 0x645 (v &&& 0x444)
  let s := setMip s c 2 (v.getLsbD 2)
  let s := setMip s c 6 (v.getLsbD 6 || timerDue s c .virtualSupervisor)
  setMip s c 10 (v.getLsbD 10)

/-- OF of a slot, which mhpmevent and CTR_CORE_OVF share (R454). -/
def writeOf (s : State) (c k : Nat) (b : Bool) : State :=
  let r := Reg.CTR_CORE_OVF c
  let m := BitVec.ofNat 64 (2 ^ k)
  s.wr r (if b then s.rd r ||| m else s.rd r &&& ~~~ m)

/-- Event number of a core's slot. -/
def coreEvent (s : State) (c k : Nat) : Nat := s.get (.CTR_CORE_SEL c (k / 8)) (F.CTR_CORE_SEL_SEL (k % 8))

/-- What a write of a CSR leaves, by its number as the core's mode sees it. The write itself; interrupts follow it. -/
def putCsr (s : State) (c n : Nat) (v : Word) : State :=
  let deleg := midelegOf s c
  if n = 0x001 then dirtyFs (putMasked s c 0x003 0x1F v) c
  else if n = 0x002 then dirtyFs (putMasked s c 0x003 0xE0 (v <<< 5)) c
  else if n = 0x003 then dirtyFs (putMasked s c 0x003 0xFF v) c
  else if n = 0x008 then dirtyVs (putMasked s c 0x008 0x1FF v) c
  else if n = 0x009 then dirtyVs (putMasked s c 0x009 1 v) c
  else if n = 0x00A then dirtyVs (putMasked s c 0x00A 3 v) c
  else if n = 0x00F then dirtyVs (putMasked (putMasked s c 0x009 1 v) c 0x00A 3 (v >>> 1)) c
  else if n = 0x100 then writeMstatus s c sstatusMask v
  else if n = 0x300 then writeMstatus s c (csrMask 0x300) v
  else if n = 0x104 then putMasked s c 0x304 (deleg &&& 0x2222) v
  else if n = 0x204 then putMasked s c 0x304 (s.csr c 0x603 &&& 0x444) (vsUp v)
  else if n = 0x604 then putMasked s c 0x304 0x1444 v
  else if n = 0x144 then writeMip s c (deleg &&& 0x2002) v
  else if n = 0x244 then
    if (s.csr c 0x603).getLsbD 2 then writeHvip s c ((s.csr c 0x645 &&& 0x440) ||| (vsUp v &&& 4)) else s
  else if n = 0x344 then writeMip s c 0x2226 v
  else if n = 0x644 then writeHvip s c ((s.csr c 0x645 &&& 0x440) ||| (v &&& 4))
  else if n = 0x645 then writeHvip s c v
  else if n = 0x180 ∨ n = 0x280 ∨ n = 0x680 then writeAtp s c n v
  else if n = 0x3A0 ∨ n = 0x3A2 then writePmpCfg s c n v
  else if 0x3B0 ≤ n ∧ n < 0x3C0 then writePmpAddr s c n v
  else if n = 0x747 then writeMseccfg s c v
  else if 0x323 ≤ n ∧ n ≤ 0x33F then (if s.ledgerCore c then s else writeOf s c (n - 0x320) (v.getLsbD 63))
  else if 0xB03 ≤ n ∧ n ≤ 0xB1F ∧ s.ledgerCore c then s
  else if 0xB03 ≤ n ∧ n ≤ 0xB1F then setCount (putMasked s c n (csrMask n) v) (.core (Fin.ofNat 384 c)) (coreEvent s c (n - 0xB00)) v.toNat
  else if 0x7C8 ≤ n ∧ n ≤ 0x7CB then writeSampling s c n v
  else putMasked s c n (csrMask n) v

/-- A write of a CSR by the instruction of encoding `w` of core `c`: the trap of a forbidden one, with the encoding in tval
(Sstvala, PRESUMED); otherwise the write, with the interrupts that it makes pending or enables taken in open mode (R118, R149). -/
def writeCsr (s : State) (c : Nat) (w : BitVec 32) (v : Word) : State :=
  let n := w.toNat / 2 ^ 20
  match csrTrap s c n true with
  | some e => trap s c e (w.zeroExtend 64)
  | none =>
    let s := putCsr (s.retire c 4) c (csrTarget s c n) v
    if s.ledgerCore c then s else notify (refreshMip s c) c

/-! ### vtype and vl (R120; the V extension, PRESUMED) -/

/-- Bits `hi` to `lo` of an encoding. -/
def wbits (w : BitVec 32) (hi lo : Nat) : Nat := w.toNat / 2 ^ lo % 2 ^ (hi - lo + 1)

/-- VLMAX of a vtype with VLEN = 512, zero where it is not supported with ELEN = 64: reserved bits, SEW above 64, LMUL reserved, or
a fraction of LMUL too small for SEW (R120). -/
def vlmaxOf (vt : Nat) : Nat :=
  let sew := 8 * 2 ^ (vt / 8 % 8)
  let m := vt % 8
  if 2 ^ 8 ≤ vt ∨ 4 ≤ vt / 8 % 8 ∨ m = 4 then 0
  else if m < 4 then 512 / sew * 2 ^ m
  else if 64 / 2 ^ (8 - m) < sew then 0
  else 512 / 2 ^ (8 - m) / sew

/-- vl for an application vector length: all of it up to VLMAX, VLMAX from twice VLMAX on, and between them a choice of the
implementation from half of it on. -/
def vlFor (avl vlmax : Nat) : Nat :=
  if avl ≤ vlmax then avl
  else if 2 * vlmax ≤ avl then vlmax
  else
    let lo := (avl + 1) / 2
    lo + Config.vlChoice avl vlmax % (vlmax - lo + 1)

/-- vsetvli, vsetivli or vsetvl of encoding `w` (R120): vtype, vl and x[rd]; an unsupported vtype, or a kept vl with another VLMAX,
sets vill and vl 0. -/
def vsetInsn (s : State) (c : Nat) (w : BitVec 32) : State :=
  if vsOff s c then illegal s c (w.zeroExtend 64)
  else
    let imm := !w.getLsbD 31 || w.getLsbD 30
    let vt : Nat :=
      if !w.getLsbD 31 then wbits w 30 20 else if w.getLsbD 30 then wbits w 29 20 else (s.xreg c (wbits w 24 20)).toNat
    let rs1 := wbits w 19 15
    let rd := wbits w 11 7
    let ivl := w.getLsbD 31 && imm
    let vlmax := vlmaxOf vt
    let keep : Bool := !ivl && rs1 == 0 && rd == 0
    let old := s.csr c 0xC21
    let kept : Bool := !old.getLsbD 63 && vlmaxOf old.toNat == vlmax
    let bad : Bool := vlmax == 0 || (keep && !kept)
    let vl : Nat :=
      if bad then 0
      else if keep then (s.csr c 0xC20).toNat
      else if ivl then vlFor rs1 vlmax
      else if rs1 = 0 then vlmax
      else vlFor (s.xreg c rs1).toNat vlmax
    let s := s.setCsr c 0xC21 (if bad then 0x8000000000000000 else BitVec.ofNat 64 vt)
    let s := (s.setCsr c 0xC20 (BitVec.ofNat 64 vl)).setCsr c 0x008 0
    ((dirtyVs s c).setX c rd (BitVec.ofNat 64 vl)).retire c 4

/-! ### Reads -/

/-- The free count of a counter, or zero where the slot shows nothing (R452, R453). -/
def countOf (s : State) (shown : Bool) : Word × State := if shown then s.fresh else (0, s)

/-- What a core counter shows in open mode: cycles, instret, or the slot's event. -/
def counterView (s : State) (c k : Nat) : Word × State :=
  if k = 2 then (s.csr c 0xB02, s)
  else if k = 0 then s.fresh
  else if 3 ≤ k ∧ counted (.core (Fin.ofNat 384 c)) (coreEvent s c k) then
    (BitVec.ofNat 64 (s.eventCount c (coreEvent s c k)), s)
  else countOf s (decide (3 ≤ k) && coreEvent s c k != 0)

/-- The head of a core's intake mailbox. -/
def mailHead (s : State) (c : Nat) : Option MailEnt := (s.core c).mail.head?

/-- The Xjledger CSRs (R143): zero in open mode. -/
def jledgerView (s : State) (c n : Nat) : Word :=
  if ¬ s.ledgerCore c then 0
  else
    let k := s.core c
    let h := handOr0 s c
    if n = 0xCC0 then s.rd (.CSQ_LDG_EPOCH h)
    else if n = 0xCC1 then BitVec.ofNat 64 (s.quantumOf c)
    else if n = 0xCC2 then
      BitVec.ofNat 64 (1 + k.endCode * 2 ^ 4 + k.rank * 2 ^ 16 + (s.coresOf h).length * 2 ^ 32)
    else if n = 0xCC3 then BitVec.ofNat 64 (ledgerLines s c).length
    else
      match mailHead s c with
      | none => 0
      | some e =>
        if n = 0xCC4 then BitVec.ofNat 64 (2 ^ 63 + e.seq % 2 ^ 32)
        else if n = 0xCC5 then BitVec.ofNat 64 e.dest
        else BitVec.ofNat 64 (e.len + e.status * 2 ^ 32)

/-- mstatus with its fixed widths and SD. -/
def mstatusView (w : Word) : Word :=
  let sd := Fld.get ⟨14, 13⟩ w == 3 || Fld.get ⟨10, 9⟩ w == 3
  (w ||| 0xA00000000) ||| (if sd then 0x8000000000000000 else 0)

/-- What a PMP address register reads with a granularity of 4 KiB (R122): bits 9:0 zero where its entry is off or TOR, bits 8:0
ones where it is NAPOT. -/
def pmpAddrView (s : State) (c n : Nat) : Word :=
  if 2 ≤ pmpCfg s c (n - 0x3B0) / 8 % 4 then s.csr c n ||| 0x1FF else s.csr c n &&& ~~~ (0x3FF : Word)

/-- What a read of a CSR shows (R119, R143, R148, R149, R453, R456); `n` is its number as the core's mode sees it. -/
def csrView (s : State) (c n : Nat) : Word × State :=
  let led := s.ledgerCore c
  let deleg := midelegOf s c
  if n = 0x301 then (0x8000000000B411AF, s)
  else if n = 0xF11 ∨ n = 0xF15 then (0, s)
  else if n = 0xF12 then (0x8000000000000384, s)
  else if n = 0xF13 then (BitVec.ofNat 64 (s.get (.DL_CAP_DIE (c / 24)) F.DL_CAP_DIE_REV), s)
  else if n = 0xF14 then (BitVec.ofNat 64 c, s)
  else if n = 0xFC0 then (BitVec.ofNat 64 (handOr0 s c + (if led then 2 else 1) * 2 ^ 8), s)
  else if n = 0xFC1 then (s.rd (.DL_FEAT_EFF (c / 24)) &&& 0xFFFFFFFF, s)
  else if n = 0xC22 then (64, s)
  else if 0xCC0 ≤ n ∧ n ≤ 0xCC6 then (jledgerView s c n, s)
  else if n = 0xC01 then
    let t := timeOf s c
    (BitVec.ofNat 64 (if (s.core c).virt then t + (s.csr c 0x605).toNat else t), s)
  else if n = 0xC00 ∨ n = 0xB00 then (if led then (s.csr c 0xB02, s) else counterView s c 0)
  else if n = 0xC02 ∨ n = 0xB02 then (s.csr c 0xB02, s)
  else if (0xC03 ≤ n ∧ n ≤ 0xC1F) ∨ (0xB03 ≤ n ∧ n ≤ 0xB1F) then (if led then (0, s) else counterView s c (n % 32))
  else if 0x323 ≤ n ∧ n ≤ 0x33F then
    let k := n - 0x320
    if led then (0, s)
    else (BitVec.ofNat 64 (coreEvent s c k + (if (s.rd (.CTR_CORE_OVF c)).getLsbD k then 2 ^ 63 else 0)), s)
  else if n = 0xDA0 then (if led then 0 else s.rd (.CTR_CORE_OVF c), s)
  else if 0x7C8 ≤ n ∧ n ≤ 0x7CB then (if maySample s c then s.csr c n else 0, s)
  else if 0x3B0 ≤ n ∧ n < 0x3C0 then (pmpAddrView s c n, s)
  else if n = 0x001 then (s.csr c 0x003 &&& 0x1F, s)
  else if n = 0x002 then ((s.csr c 0x003 >>> 5) &&& 7, s)
  else if n = 0x00F then ((s.csr c 0x00A <<< 1) ||| s.csr c 0x009, s)
  else if n = 0x100 then (mstatusView (s.csr c 0x300) &&& 0x80000003000C6722, s)
  else if n = 0x200 then (mstatusView (s.csr c 0x200) &&& 0x80000003000C6722, s)
  else if n = 0x300 then (mstatusView (s.csr c 0x300), s)
  else if n = 0x303 then (deleg, s)
  else if n = 0x104 then (s.csr c 0x304 &&& deleg &&& 0x2222, s)
  else if n = 0x144 then (s.csr c 0x344 &&& deleg &&& 0x2222, s)
  else if n = 0x204 then (vsDown (s.csr c 0x304 &&& s.csr c 0x603), s)
  else if n = 0x244 then (vsDown (s.csr c 0x344 &&& s.csr c 0x603), s)
  else if n = 0x604 then (s.csr c 0x304 &&& 0x1444, s)
  else if n = 0x644 then (s.csr c 0x344 &&& 0x444, s)
  else (s.csr c n, s)

end Sys2Proof.Machine
end

