-- ==== Sys2Proof/Machine/RegRead.lean ====
section
/-! DEFINITION. What a read of a register shows (R11, R12, R14): the stored value, or what the block computes where a register
shows something that lives elsewhere. Reads of the management space and of BAR 0 use the same views. -/

namespace Sys2Proof.Machine

/-- Queue pair and function of a register of BAR 0, and the port's power page, read through the function (R371, R411). -/
def fnOf (f : Nat) : FnId := fnOfKey f

/-! ### Views of the control space -/

/-- CORE_STATE (R152): WFI, and the hand and mode of the core. -/
def coreStateView (s : State) (c : Nat) : Word :=
  let k := s.core c
  let w := F.CORE_STATE_STATE.put 0 (s.coreState c)
  let w := F.CORE_STATE_WFI.put w (if k.asleep || k.skip.isSome then 1 else 0)
  match s.handOf c with
  | none => w
  | some h => F.CORE_STATE_HAND.put (F.CORE_STATE_MODE.put w (if s.folio.isLedger h then 2 else 1)) h

/-- TIC_CORE_STATE (R387): the line, the wake signal and the best source beside the stored depth and running priority. -/
def ticStateView (s : State) (c : Nat) : Word :=
  let w := s.rd (.TIC_CORE_STATE c)
  let w := F.TIC_CORE_STATE_LINE.put w (if s.line c then 1 else 0)
  let w := F.TIC_CORE_STATE_WAKE.put w (if s.wake c then 1 else 0)
  match s.best c with
  | none => w
  | some n => F.TIC_CORE_STATE_BEST_PRIO.put (F.TIC_CORE_STATE_BEST.put w n) (s.srcPrio n)

/-- TIC_PEND_SET and TIC_PEND_CLR (R376): bit m is set while the tally of source 64k + m is not zero. -/
def pendView (s : State) (k : Nat) : Word :=
  (List.range 64).foldl (fun w m => if s.tally (64 * k + m) ≠ 0 then w ||| BitVec.ofNat 64 (2 ^ m) else w) 0

/-- HOME_OCC (R238). -/
def occView (s : State) (n : Nat) : Word :=
  let x := s.slice n
  let w := F.HOME_OCC_STAGING.put 0 x.staged.length
  let w := F.HOME_OCC_WAITING.put w (x.lineWait.length + x.setWait.length)
  F.HOME_OCC_PINNED.put w (x.dir.filter (fun e => pins s n e.2.line != 0)).length

/-- HP_TAGS (R327, R341). -/
def tagsView (s : State) (p : Nat) : Word :=
  let q : Fin 8 := Fin.ofNat 8 p
  let w := F.HP_TAGS_REMAINDER.put 0 (remainder s q)
  let w := F.HP_TAGS_FREE.put w (remainderFree s q)
  F.HP_TAGS_IN_USE.put w (s.port p).reads.length

/-- HP_FN_STATE (R341). -/
def fnStateView (s : State) (f : FnId) : Word :=
  let b (x : Bool) : Nat := if x then 1 else 0
  let w := F.HP_FN_STATE_TAGS_HELD.put 0 (tagsOf s f)
  let w := F.HP_FN_STATE_QUOTA.put w (quota s f)
  let w := F.HP_FN_STATE_FLR_BUSY.put w (b (s.fn f).flr)
  let w := F.HP_FN_STATE_D3.put w (b (inD3 s f))
  let w := F.HP_FN_STATE_INTX.put w (b (isPf f && intx s (fnPort8 s f)))
  let w := F.HP_FN_STATE_MSIX.put w (b (msixOn s f))
  let w := F.HP_FN_STATE_BME.put w (b (bme s f))
  let w := F.HP_FN_STATE_EXISTS.put w (b (fnExists s f))
  let w := F.HP_FN_STATE_PORT.put w (fnPort s f)
  F.HP_FN_STATE_VF_NUM.put w (if (match f with | .vf v => (s.folio.vf? v).isSome | .pf _ => true) then fnNum s f else 0)

/-- GRACE of ARC_PREEMPT: 10 ns ticks left of the 50 µs of R405. -/
def preemptView (s : State) : Word :=
  let left := match s.power.preempt with
    | some t => 5000 - (s.mtime - t)
    | none => 0
  F.ARC_PREEMPT_GRACE.put (s.rd .ARC_PREEMPT) left

/-- SCK_DIE_TEL: AGE counts µs since the record arrived (R430). -/
def telView (s : State) (d : Nat) : Word :=
  F.SCK_DIE_TEL_AGE.put (s.rd (.SCK_DIE_TEL d)) (min ((s.mtime - (s.die d).telAt) / 100) 0xFFFF)

/-- Whether a register belongs to a compute die, which answers only while it is in service (R48, R202). -/
def dieServed : Reg → Option Nat
  | .DL_LANE_ERR_DN d _ | .SHV_CMD d | .SHV_BASE d | .SHV_SIZE d | .SHV_STATUS d | .SHV_SKIPPED d | .SHV_WRITTEN d
  | .SHV_PROGRESS d | .SHV_LOCK_LOST d | .SHV_WAYMAP d _ | .SHV_QUOTA d _ | .SHV_LOCK_BASE d _ | .SHV_LOCK_SIZE d _ => some d
  | _ => none

/-- The hand of a ledger register, which reads zero for a hand that is not in ledger mode (R263). -/
def ledgerRegHand : Reg → Option Nat
  | .CSQ_LDG_EPOCH h | .CSQ_LDG_PHASE h | .CSQ_LDG_INTAKES h | .CSQ_LDG_LASTFAIL h | .CSQ_LDG_WAITS h | .CSQ_LDG_ERR h => some h
  | _ => none

/-- Whether a register exists for the hardware in place: FAB_DEAL and its active copy end at word 31 on channel points
(R116). -/
def regHere : Reg → Bool
  | .FAB_DEAL p k | .FAB_DEAL_ACT p k => decide (p < 0x30) || decide (k < 32)
  | _ => true

/-- What a read of a register shows to any reader that reaches it. -/
def view (s : State) (r : Reg) : Word :=
  if (match dieServed r with | some d => !s.dieInService d | none => false) then 0
  else if (match ledgerRegHand r with | some h => !s.folio.isLedger h | none => false) then 0
  else if !regHere r then 0
  else
    match r with
    | .FAB_ROUND => BitVec.ofNat 64 s.cycle
    | .FAB_PT_ROUND p => F.FAB_PT_ROUND_ROUND.put (F.FAB_PT_ROUND_TRICK.put 0 (trickOf s p)) (roundOf s p)
    | .FAB_HAND h => F.FAB_HAND_STATE.put (r.shown (s.rd r)) (s.handState h)
    | .CORE_STATE c => coreStateView s c
    | .CORE_MTIME _ => BitVec.ofNat 64 s.mtime
    | .HOME_OCC n => occView s n
    | .HP_TAGS p => tagsView s p
    | .HP_FN_STATE f => fnStateView s (fnOf f)
    | .TIC_EN_SET k | .TIC_EN_CLR k => s.rd (.TIC_EN_SET k)
    | .TIC_PEND_SET k | .TIC_PEND_CLR k => pendView s k
    | .TIC_CLAIM _ => 0
    | .TIC_CORE_STATE c => ticStateView s c
    | .ARC_OWNER k => F.ARC_OWNER_BMC.put (r.shown (s.rd r)) (if k = 63 then 1 else 0)
    | .ARC_PREEMPT => preemptView s
    | .SCK_DIE_TEL d => telView s d
    | .QP_STATE f _ => barView s (fnOf f) r
    | .PWR_DIE p | .PWR_STATUS p => barView s (.pf (Fin.ofNat 8 p)) r
    | _ => r.shown (s.rd r)

/-! ### Reads with an effect or an open value -/

/-- Event that a block's slot shows; reserved events count nothing (R452). -/
def blockEvent (s : State) (b k : Nat) : Nat := s.get (.CTR_BLK_SEL b) (F.CTR_BLK_SEL_SEL k)

/-- The event that a block's slot counts (R451). -/
def blockFull (s : State) (b k : Nat) : Nat := unitKind (0x1000 + b) * 256 + blockEvent s b k

/-- The count of a block's slot: zero where nothing is selected (R452), the count of an event that the steps of the model
determine, modulo 2^48 (R454), free for any other; the engine's reserved events count nothing, so their slots show what was
written. -/
def blockCount (s : State) (b k : Nat) : Word × State :=
  let e := blockEvent s b k
  if e = 0 then (0, s)
  else if b = 56 ∧ 5 ≤ e then (s.rd (.CTR_BLK b k), s)
  else if counted (.block (Fin.ofNat 57 b)) (blockFull s b k) then
    (BitVec.ofNat 64 (s.eventCount (0x1000 + b) (blockFull s b k) % 2 ^ 48), s)
  else
    let r := s.fresh
    (r.1 &&& 0xFFFFFFFFFFFF, r.2)

/-- A carrel word as its reader sees it: zero to everyone but the owner, and zero data words while the call is under way (R400,
R401). -/
def carrelView (s : State) (who : Agent) (r : Reg) (k : Nat) (data : Bool) : Word :=
  if ¬ carrelOwner s who k then 0
  else if data ∧ (carrelState s k = 1 ∨ carrelState s k = 2) then 0
  else r.shown (s.rd r)

/-- A read of a register by an agent (R379, R387, R400, R401, R452, R459): its value, and the state after it. -/
def readReg (s : State) (who : Agent) (r : Reg) : Word × State :=
  match r with
  | .TIC_CLAIM c =>
    if who = .core (Fin.ofNat 384 c) ∧ c < 384 then claim (voidInt s c) c
    else
      match who with
      | .core w => (0, voidInt s w)
      | _ => (0, s)
  | .ARC_CTL k => (carrelView s who r k false, s)
  | .ARC_RESULT k => (carrelView s who r k false, s)
  | .ARC_DATA k _ => (carrelView s who r k true, s)
  | .CTR_CORE c k => counterView s c k
  | .CTR_BLK b k => blockCount s b k
  | .CSR c n => csrView s c n
  | _ => (view s r, s)

/-- A read of a control-space address: a reserved offset reads zero (R12). -/
def readCtrl (s : State) (who : Agent) (addr : Nat) : Word × State :=
  match Reg.ofAddr addr with
  | some r => readReg s who r
  | none => (0, s)

end Sys2Proof.Machine
end

