-- ==== Sys2Proof/Machine/RegWrite.lean ====
section
/-! DEFINITION. Writes of registers (R14): which agent may write which register, and what the write does. A register whose write
has a command of its own goes to that command's meaning, so a core's store and the command agree. -/

namespace Sys2Proof.Machine

/-- The state of an outcome; these meanings always answer a next state. -/
def outState (s : State) (o : Out) : State := match o with | .next t => t | _ => s

/-- Whether the Archivist is in boot before the folio is applied, when it loads RW-F fields (R14, R76). -/
def inBoot (s : State) : Bool := decide (1 ≤ s.arc.phase) && decide (s.arc.phase < 7)

/-- What a write of RW-F fields by the Archivist during boot leaves. -/
def bootWritten (r : Reg) (old v : Word) : Word :=
  r.fields.foldl (fun w f => if f.access = .rwf then f.bits.put w (f.bits.get v) else w) old

/-- A write by access code alone (R14). -/
def plainWrite (s : State) (r : Reg) (v : Word) : State := s.wr r (r.written (s.rd r) v)

/-- W1C of the bit that HP_ERR and HP_WIN_COMMIT mirror (R341). -/
def clearPortErr (s : State) (p : Nat) (v : Word) : State :=
  let s := plainWrite s (.HP_ERR p) v
  if F.HP_ERR_WIN_REFUSED.get v = 1 then s.put (.HP_WIN_COMMIT p) F.HP_WIN_COMMIT_WIN_REFUSED 0 else s

/-- FOL_ADD_ADDR and FOL_ADD_LEN: ignored while FOL_ADD_STATE is not IDLE; bits 5:0 of the address are stored as zero (R88). -/
def addendumBuffer (s : State) (r : Reg) (v : Word) : State :=
  if s.get .FOL_ADD_STATE F.FOL_ADD_STATE_STATE ≠ 0 then s
  else if r = .FOL_ADD_ADDR then s.wr r (v &&& 0x000FFFFFFFFFFFC0)
  else s.wr r (v &&& 0x000FFFFFFFFFFFFF)

/-- FLT_DIE_CMD: STOP or REJOIN. -/
def dieCommandWrite (s : State) (who : Agent) (v : Word) : State :=
  if F.FLT_DIE_CMD_OP.get v = 1 then outState s (execFltDieCmdStop who v s)
  else outState s (execFltDieCmdRejoin who v s)

/-- A core writes the LEVEL of a core's tally context (R377, R387): H[0], or the core's hand where it reaches the block. -/
def ticConfig (s : State) (who : Agent) (c : Nat) (v : Word) : State :=
  let own := match who with
    | .core w => s.handOf w.val == s.handOf c && s.reaches 6 who
    | _ => false
  if s.isHouse who || own then plainWrite s (.TIC_CORE_CFG c) v else s

/-- Quotas as SHV_QUOTA stores them: a value above 16 is stored as 16 (R202). -/
def quotaWord (w : Word) : Word :=
  (List.range 8).foldl (fun w j => (F.SHV_QUOTA_QUOTA j).put w (min 16 ((F.SHV_QUOTA_QUOTA j).get w))) w

/-- Shelver registers without a row of their own (R202). -/
def shelverWrite (s : State) (who : Agent) (r : Reg) (d : Nat) (v : Word) : State :=
  if ¬ s.dieInService d then s
  else
    match r with
    | .SHV_BASE _ | .SHV_SIZE _ =>
      if shvWriter s who d ∧ ¬ s.bit (.SHV_STATUS d) F.SHV_STATUS_BUSY then plainWrite s r v else s
    | .SHV_LOCK_BASE _ k => if lockWriter s who d k then plainWrite s r v else s
    | .SHV_QUOTA _ _ => if s.isHouse who then s.wr r (quotaWord (r.written (s.rd r) v)) else s
    | _ => if s.isHouse who then plainWrite s r v else s

/-- A write of CTR_BLK sets the count that its slot shows (R459). -/
def blockWrite (s : State) (who : Agent) (b k : Nat) (v : Word) : State :=
  if ¬ s.isHouse who then s
  else
    let t := plainWrite s (.CTR_BLK b k) v
    if blockEvent s b k = 0 then t else setCount t (.block (Fin.ofNat 57 b)) (blockFull s b k) v.toNat

/-- A write of a register of the control space by an agent that reaches it. -/
def writeReg (s : State) (who : Agent) (r : Reg) (v : Word) : State :=
  match r with
  | .DL_REPAIR_CMD d => outState s (execDlRepairCmdGo who (Fin.ofNat 16 d) v s)
  | .DL_INJECT d => dlInject who (Fin.ofNat 16 d) v s
  | .FOL_ADD_ADDR | .FOL_ADD_LEN => if s.isHouse who then addendumBuffer s r v else s
  | .FOL_ADD_CMD => outState s (execAddendumGo who v s)
  | .FOL_ERR => if s.reaches 0 who then plainWrite s r v else s
  | .FAB_DEAL p k => outState s (execFabDealWrite who (Fin.ofNat 64 p) (Fin.ofNat 128 k) v s)
  | .FAB_BURST p => outState s (execFabBurstWrite who (Fin.ofNat 64 p) v s)
  | .FAB_PRIO p q => outState s (execFabPrioWrite who (Fin.ofNat 64 p) (Fin.ofNat 128 q) v s)
  | .FAB_COMMIT => outState s (execFabCommit who v s)
  | .FAB_COMMIT_REFUSED | .FAB_BAD_WRITE => if fabWriter s who then plainWrite s r v else s
  | .FAB_CUTOFF p k => outState s (execFabCutoffClear who (Fin.ofNat 64 p) (Fin.ofNat 2 k) v s)
  | .FAB_HAND h => outState s (execClearLost who (Fin.ofNat 64 h) v s)
  | .CORE_CTL c => outState s (execCoreCtlStart who (Fin.ofNat 384 c) v s)
  | .CORE_MTIMECMP c => coreRegWrite s who r c v
  | .CORE_MSIP c => coreRegWrite s who r c v
  | .SHV_CMD d => shvStart who d v (F.SHV_CMD_OP.get v) s
  | .SHV_LOCK_SIZE d k => outState s (execShvLockSizeWrite who (Fin.ofNat 16 d) (Fin.ofNat 16 k) v s)
  | .SHV_BASE d | .SHV_SIZE d | .SHV_STATUS d | .SHV_QUOTA d _ | .SHV_LOCK_BASE d _ => shelverWrite s who r d v
  | .HOME_PROBE_ADDR => outState s (execHomeProbe who v s)
  | .HOME_INJECT n => outState s (execHomeInjectArm who (Fin.ofNat 16 n) v s)
  | .MC_RANK_CMD n =>
    if F.MC_RANK_CMD_OP.get v = 2 then outState s (execMcRankCmdReturn who (Fin.ofNat 16 n) v s)
    else outState s (execMcRankCmdTest who (Fin.ofNat 16 n) v s)
  | .MC_INJECT n => mcInject who n v s
  | .HP_WIN_COMMIT p => outState s (execHpWinCommitGo who (Fin.ofNat 8 p) v s)
  | .HP_ERR p => if s.isHouse who then clearPortErr s p v else s
  | .HP_INJECT p => hpInject s who (Fin.ofNat 8 p) v
  | .CSQ_SS_BUF p => outState s (execCsqSsBufWrite who (Fin.ofNat 8 p) v s)
  | .CSQ_SS_DONE p => outState s (execCsqSsDoneWrite who (Fin.ofNat 8 p) v s)
  | .CSQ_INJECT => csqInject s who v
  | .CSQ_LDG_ERR h => if s.isHouse who ∧ s.folio.isLedger h then plainWrite s r v else s
  | .TIC_ROUTE i => outState s (execTicRouteWrite who (Fin.ofNat 8192 i) v s)
  | .TIC_EN_SET k => outState s (execTicEnSetWrite who (Fin.ofNat 128 k) v s)
  | .TIC_EN_CLR k => outState s (execTicEnClrWrite who (Fin.ofNat 128 k) v s)
  | .TIC_PEND_SET k => outState s (execTicPendSetWrite who (Fin.ofNat 128 k) v s)
  | .TIC_PEND_CLR k => outState s (execTicPendClrWrite who (Fin.ofNat 128 k) v s)
  | .TIC_EOI c => outState s (execTicEoi who (Fin.ofNat 384 c) v s)
  | .TIC_CORE_CFG c => ticConfig s who c v
  | .ARC_CTL k => arcCtl s who k v
  | .ARC_RESULT k => if carrelOwner s who k ∧ carrelState s k ≠ 0 then carrelIgnored s k else s
  | .ARC_DATA k w => carrelData s who k w v
  | .ARC_OWNER k => outState s (execArcOwnerWrite who (Fin.ofNat 64 k) v s)
  | .ARC_INJECT => arcInject s who v
  | .SCK_INJECT => sckInject s who v
  | .SCK_DIE d => outState s (execOpReqWrite who (Fin.ofNat 16 d) v s)
  | .SCK_COOLANT => if s.isHouse who ∨ who = .bmc then plainWrite s r v else s
  | .FLT_HEAD => outState s (execFltHeadWrite who v s)
  | .FLT_DIE_CMD => dieCommandWrite s who v
  | .FLT_INJECT => outState s (execFltInjectArm who v s)
  | .CSR _ _ => s
  | .CTR_BLK b k => blockWrite s who b k v
  | _ =>
    if who = .archivist ∧ inBoot s then s.wr r (bootWritten r (s.rd r) v)
    else if s.isHouse who then plainWrite s r v
    else s

/-- A write of an address of the control space by an agent (R11, R12, R17): naturally aligned, and by a core whose hand reaches it;
a reserved offset ignores it; a ledger core is held to R249. -/
def writeCtrl (s : State) (who : Agent) (addr : Nat) (v : Word) : State :=
  let ok := addr % 8 == 0 && (match who with
    | .core c => (match s.handOf c.val with | some h => ctrlOk s h addr | none => false)
    | _ => true)
  if !ok then s
  else
    match Reg.ofAddr addr with
    | some r => outState s (barred s who r (.next (writeReg s who r v)))
    | none => s

/-- REGISTER_WRITE (R14): a write to a control-space address, to BAR 0 of a function by its host, or to a CSR, or to vtype and vl,
by an instruction of their core. -/
def execRegisterWrite (who : Agent) (t : RegTarget) (v : Word) (s : State) : Out :=
  match t with
  | .ctrl a => .next (writeCtrl s who a v)
  | .bar f off n =>
    if fnExists s f ∧ ¬ (s.fn f).flr ∧ ¬ inD3 s f then .next (barStore s f off (leBytes n v.toNat) []) else .next s
  | .csr c w => if who = .core c ∧ s.ready c then .next (writeCsr s c w v) else .next s
  | .vset c w => if who = .core c ∧ s.ready c then .next (vsetInsn s c w) else .next s

end Sys2Proof.Machine
end

