-- ==== Sys2Proof/Machine/Pins.lean ====
section
/-! DEFINITION. Package reset and its pins (R466 to R471, R480), the management port (R473 to R475), the test-access port (R476 to
R478) and the states of the lands (R469, R479). -/

namespace Sys2Proof.Machine

/-! ### Package reset (R466 to R468) -/

/-- The Archivist after a package reset: fuses and flash are unchanged, the record store of the vault included (R389, R468). -/
def resetArc (a : Arc) : Arc :=
  { Arc.init with
    rootHash := a.rootHash, rootRevoke := a.rootRevoke, fwHash := a.fwHash, fwRevoke := a.fwRevoke
    floors := a.floors, fwFloors := a.fwFloors, flash := a.flash, vault := a.vault }

/-- PERST of HP_LINK from the pins. -/
def showPerst (s : State) : State :=
  overAll (List.range 8) (fun s p => if s.mgmt.perst.testBit p then s.put (.HP_LINK p) F.HP_LINK_PERST 1 else s) s

/-- Every unit in its reset state; mtime, tallies and latches clear; DRAM has lost its contents (R468). The test-access port is
in the standby domain and goes on (R476). -/
def resetUnits (s : State) : State :=
  showPerst { State.reset with
    arc := resetArc s.arc, tap := s.tap, free := s.free, out := s.out, pending := s.pending
    mgmt := { Mgmt.init with low := false, main := s.mgmt.main, clock := s.mgmt.clock, stby := s.mgmt.stby, perst := s.mgmt.perst } }

/-- PACKAGE_RESET: PKG_RESET_L has been low for 1 µs (R468). The supplies are good and the clock runs while it is held, as the
board's sequence of R467 has them (DESIGN CHOICE: no row asserts them again). Standby power that was lost has come back, and with
it the test-access port. -/
def execPackageReset (s : State) : Out :=
  let t := resetUnits s
  let t := if s.mgmt.stby then t else { t with tap := Tap.init }
  .next { t with mgmt := { t.mgmt with low := true, main := true, clock := true, stby := true } }

/-- MAIN_PWROK_LOSS: with PKG_RESET_L high the package enters package reset (R468). -/
def execMainPwrokLoss (s : State) : Out :=
  let t := if s.mgmt.inReset then s else resetUnits s
  .next { t with mgmt := { t.mgmt with main := false, low := false } }

/-- REFCLK_LOST: as for MAIN_PWROK deasserted (R466). -/
def execRefclkLost (s : State) : Out :=
  let t := if s.mgmt.inReset then s else resetUnits s
  .next { t with mgmt := { t.mgmt with clock := false, low := false } }

/-- STBY_PWROK_LOSS: every land floats (R427, R480). -/
def execStbyPwrokLoss (s : State) : Out := .next { s with mgmt := { s.mgmt with stby := false } }

/-! ### The management port (R473, R474) -/

/-- Whether the port answers: from 1 ms after the release of PKG_RESET_L on. -/
def i3cReady (s : State) : Bool := !s.mgmt.inReset && s.mgmt.stby && decide (s.mgmt.since + 2000000 ≤ s.cycle)

/-- Whether the Archivist is in ROM_RECOVERY (R392). -/
def romRecovery (s : State) : Bool := s.get .ARC_STATUS F.ARC_STATUS_STAGE == 1

/-- The register of a management address, a multiple of 8 (R474). -/
def mgmtReg (a : Nat) : Option Reg :=
  if a = 0x00 then some .FOL_STATE
  else if a = 0x08 then some .FOL_STATUS
  else if a = 0x10 then some .ARC_STATUS
  else if a = 0x18 then some .ARC_BOOT
  else if a = 0x20 then some .SCK_PKG
  else if a = 0x28 then some .SCK_COOLANT
  else if 0x30 ≤ a ∧ a < 0x50 then some (.SCK_SUIT ((a - 0x30) / 8))
  else if a = 0x50 then some .ARC_STRAPS
  else if a = 0x58 then some .ARC_IMG_CMD
  else if a = 0x100 then some (.ARC_CTL 63)
  else if a = 0x108 then some (.ARC_RESULT 63)
  else if 0x110 ≤ a ∧ a < 0x200 then some (.ARC_DATA 63 ((a - 0x100) / 8))
  else if 0x200 ≤ a ∧ a < 0x300 then some (.ARC_IMG_BUF ((a - 0x200) / 8))
  else none

/-- Whether an address is served: in ROM_RECOVERY only some are. -/
def mgmtServed (s : State) (a : Nat) : Bool :=
  !romRecovery s || decide (a < 0x20) || a == 0x50 || a == 0x58 || (decide (0x200 ≤ a) && decide (a < 0x300))

/-- A byte that a private read returns. -/
def mgmtByte (s : State) (a : Nat) : Byte :=
  let w := a / 8 * 8
  match mgmtReg w with
  | some r => if mgmtServed s w then ((readReg s .bmc r).1).extractLsb' (8 * (a % 8)) 8 else 0
  | none => 0

/-! ### Image operations (R475) -/

/-- STATUS of ARC_IMG_CMD. -/
def imgStatus (s : State) (n : Nat) : State := s.put .ARC_IMG_CMD F.ARC_IMG_CMD_STATUS n

/-- Size of an image slot (R389). -/
def imgSize (slot : Nat) : Nat := if slot < 2 then 0x100000 else 0x400000

/-- Whether an operation on a slot is allowed: a folio slot in INERT, a firmware slot in ROM_RECOVERY. -/
def imgAllowed (s : State) (slot : Nat) : Bool :=
  ((slot == 2 || slot == 3) && s.get .FOL_STATE F.FOL_STATE_STATE == 6) || ((slot == 0 || slot == 1) && romRecovery s)

/-- A write of ARC_IMG_CMD: an operation is refused, or runs until IMAGE_OP_COMPLETE. -/
def imgCommand (s : State) (v : Word) : State :=
  if s.bit .ARC_IMG_CMD F.ARC_IMG_CMD_BUSY then (if F.ARC_IMG_CMD_OP.get v = 0 then s else imgStatus s 1)
  else
    let s := s.wr .ARC_IMG_CMD (Reg.ARC_IMG_CMD.written (s.rd .ARC_IMG_CMD) v)
    let op := F.ARC_IMG_CMD_OP.get v
    let slot := F.ARC_IMG_CMD_SLOT.get v
    let off := F.ARC_IMG_CMD_OFFSET.get v
    if op = 0 ∨ 3 < op then s
    else if ¬ imgAllowed s slot then imgStatus s 2
    else if op = 2 ∧ (off % 256 ≠ 0 ∨ imgSize slot < off + 256) then imgStatus s 3
    else
      let s := { s with arc := { s.arc with imgOp := some (op, slot, off) } }
      s.put .ARC_IMG_CMD F.ARC_IMG_CMD_BUSY 1

/-- A command of the management port with one OP. -/
def imgRow (s : State) (op : Nat) (v : Word) : State :=
  if i3cReady s ∧ F.ARC_IMG_CMD_OP.get v = op then imgCommand s v else s

/-- ARC_IMG_BEGIN (R475). -/
def execArcImgBegin (v : Word) (s : State) : Out := .next (imgRow s 1 v)
/-- ARC_IMG_WRITE (R475). -/
def execArcImgWrite (v : Word) (s : State) : Out := .next (imgRow s 2 v)
/-- ARC_IMG_FINISH (R475). -/
def execArcImgFinish (v : Word) (s : State) : Out := .next (imgRow s 3 v)

/-- The bytes of ARC_IMG_BUF. -/
def imgBytes (s : State) : List Byte := (List.range 256).map (fun i => s.arc.imgBuf.getD i 0)

/-- A flash slot with bytes put at an offset; what was erased reads 0xFF. -/
def programSlot (old bs : List Byte) (off : Nat) : List Byte :=
  let pad := old ++ List.replicate (off - old.length) (0xFF : Byte)
  pad.take off ++ bs ++ pad.drop (off + bs.length)

/-- IMAGE_OP_COMPLETE: the operation that runs ends; BUSY clears with its STATUS (R475). -/
def execImageOpComplete (s : State) : Out :=
  match s.arc.imgOp with
  | none => .next s
  | some (op, slot, off) =>
    let im := flashSlot s slot
    let r : Nat × List Byte :=
      if op = 1 then (0, [])
      else if op = 2 then (0, programSlot im (imgBytes s) off)
      else if slot < 2 then (codeOf (firmwareBad s im), im)
      else (codeOf (imageBad s im false 0x400000), im)
    let s := { s with arc := { s.arc with flash := s.arc.flash.set slot r.2, imgOp := none } }
    .next (imgStatus (s.put .ARC_IMG_CMD F.ARC_IMG_CMD_BUSY 0) r.1)

/-! ### Private transfers (R473) -/

/-- A whole 64-bit register of the management space written. -/
def mgmtWrite (s : State) (a : Nat) (v : Word) : State :=
  if ¬ mgmtServed s a then s
  else
    match mgmtReg a with
    | some (.ARC_IMG_CMD) => imgCommand s v
    | some (.ARC_IMG_BUF k) =>
      let b := (List.range 8).foldl (fun (m : NMap Byte) i => m.set (8 * k + i) (v.extractLsb' (8 * i) 8)) s.arc.imgBuf
      { s with arc := { s.arc with imgBuf := b } }
    | some (.SCK_COOLANT) => writeReg s .bmc .SCK_COOLANT v
    | some (.ARC_CTL k) => writeReg s .bmc (.ARC_CTL k) v
    | some (.ARC_RESULT k) => writeReg s .bmc (.ARC_RESULT k) v
    | some (.ARC_DATA k w) => writeReg s .bmc (.ARC_DATA k w) v
    | _ => s

/-- Registers that a write of bytes from address `a` on covers whole, with their values. -/
def wholeWords (a : Nat) (bs : List Byte) : List (Nat × Word) :=
  let first := (a + 7) / 8 * 8
  (List.range ((a + bs.length - first) / 8)).map (fun i =>
    let w := first + 8 * i
    (w, BitVec.ofNat 64 (ofBytes ((bs.drop (w - a)).take 8))))

/-- I3C_PRIVATE_WRITE: a 2-byte little-endian address, then data; only whole 64-bit registers take it, and the address moves on by
one a byte. Before the port answers it NACKs. -/
def execI3cPrivateWrite (bytes : List Byte) (s : State) : Out :=
  if ¬ i3cReady s then .next (if s.mgmt.stby then s.emit .nack else s)
  else
    match bytes with
    | lo :: hi :: bs =>
      let a := lo.toNat + 256 * hi.toNat
      let s := { s with mgmt := { s.mgmt with ptr := (a + bs.length) % 2 ^ 16 } }
      .next (overAll (wholeWords a bs) (fun s e => mgmtWrite s e.1 e.2) s)
    | _ => .next s

/-- I3C_PRIVATE_READ: `n` bytes from the last address on; the address moves on by one a byte. -/
def execI3cPrivateRead (n : Nat) (s : State) : Out :=
  if ¬ i3cReady s then .next (if s.mgmt.stby then s.emit .nack else s)
  else
    let a := s.mgmt.ptr
    let bs := (List.range n).map (fun i => mgmtByte s ((a + i) % 2 ^ 16))
    .next ({ s with mgmt := { s.mgmt with ptr := (a + n) % 2 ^ 16 } }.emit (.i3c bs))

/-- The static address of the port (R471). -/
def staticAddr (s : State) : BitVec 7 := 0x58 + (s.mgmt.straps.setWidth 7 &&& 3)

/-- SETDASA: the port at its static address takes a dynamic one. -/
def execSetdasa (addr : BitVec 7) (s : State) : Out :=
  if i3cReady s then .next { s with mgmt := { s.mgmt with addr := some addr } }
  else .next (if s.mgmt.stby then s.emit .nack else s)

/-- ENTDAA: the port takes part while it has no dynamic address (PRESUMED: MIPI I3C). -/
def execEntdaa (addr : BitVec 7) (s : State) : Out :=
  if ¬ i3cReady s then .next (if s.mgmt.stby then s.emit .nack else s)
  else if s.mgmt.addr.isSome then .next s
  else .next { s with mgmt := { s.mgmt with addr := some addr } }

/-! ### The test-access port (R476 to R478) -/

/-- An instruction code loaded; without standby power the port does not work. -/
def loadIr (s : State) (code : BitVec 8) : State := if s.mgmt.stby then { s with tap := { s.tap with ir := code } } else s

/-- Whether EXTEST, CLAMP and HIGHZ take effect (R478). -/
def scanAllowed (s : State) : Bool := s.mgmt.inReset && s.mgmt.main

/-- The instruction in effect: EXTEST, CLAMP and HIGHZ act as BYPASS where R478 does not allow them, and so does every code that
is not listed. -/
def tapEffect (s : State) : BitVec 8 :=
  let c := s.tap.ir
  if c = 0 ∨ c = 4 ∨ c = 5 then (if scanAllowed s then c else 0xFF)
  else if c = 1 ∨ c = 2 then c else 0xFF

/-- The identification register, least significant bit first. -/
def idBits : List Bool := (List.range 32).map (fun i => (0x10384DEB : BitVec 32).getLsbD i)

/-- TAP_RESET selects IDCODE (R476). -/
def execTapReset (s : State) : Out := .next (loadIr s 1)
/-- EXTEST (R478). -/
def execExtest (s : State) : Out := .next (loadIr s 0)
/-- IDCODE: the identification register is selected and shifted out (R476). -/
def execIdcode (s : State) : Out := .next (if s.mgmt.stby then (loadIr s 1).emit (.tdo idBits) else s)
/-- CLAMP (R478). -/
def execClamp (s : State) : Out := .next (loadIr s 4)
/-- HIGHZ (R478). -/
def execHighz (s : State) : Out := .next (loadIr s 5)
/-- BYPASS (R476). -/
def execBypass (s : State) : Out := .next (loadIr s 0xFF)

/-- Directions of a boundary land: output and input (R460, R477). -/
def landDirs (i : Nat) : Bool × Bool :=
  if i < 2704 then
    let j := i % 169
    if j < 120 ∨ j = 168 then (true, true) else if j = 166 then (false, true) else (true, false)
  else if i < 2736 then (true, false)
  else if i < 2745 then (false, true)
  else if i = 2745 then (true, true)
  else if i < 2764 then (true, false)
  else if i < 2780 then (false, true)
  else if i < 2812 then (true, false)
  else (false, true)

/-- Whether a cell belongs to a direction that its land has: control and output cells, and input cells. -/
def cellLives (n : Nat) : Bool :=
  let d := landDirs (n / 3)
  if n % 3 = 2 then d.2 else d.1

/-- Cells of the boundary register; those of a missing direction hold false (R477). -/
def cells (l : List Bool) : List Bool := (List.range 8448).map (fun n => cellLives n && l.getD n false)

/-- SAMPLE/PRELOAD: the captured cells are shifted out and the preloaded ones taken (R476, R477). -/
def execSamplePreload (capture preload : List Bool) (s : State) : Out :=
  if ¬ s.mgmt.stby then .next s
  else
    let s := loadIr s 2
    .next ({ s with tap := { s.tap with boundary := cells preload } }.emit (.tdo (cells capture)))

/-! ### Lands (R469, R479) -/

/-- The level of a land: low, high, floating (high impedance), driven with signals, held as self-refresh requires with the
clocks stopped, or in electrical idle (R479). -/
inductive Level | low | high | float | driven | held | idle
  deriving DecidableEq, Repr

def Level.of (b : Bool) : Level := if b then .high else .low

/-- PKG_READY (R469). -/
def pkgReady (s : State) : Bool := !s.mgmt.inReset && s.get .FOL_STATE F.FOL_STATE_STATE == 5

/-- Number of a boundary land: DIMM_PWR_EN[n], DIMM_RESET_L[n], PKG_READY, THERMTRIP_L, CD_PWR_EN[d]. -/
def landDimmPwr (n : Nat) : Nat := 2704 + n
def landDimmReset (n : Nat) : Nat := 2720 + n
def landReady : Nat := 2746
def landTherm : Nat := 2747
def landCdPwr (d : Nat) : Nat := 2748 + d
def landCdVsel (d : Nat) (b : Nat) : Nat := 2780 + 2 * d + b

/-- The level of a MEM_* land of a channel (R479). -/
def memLevel (s : State) (n : Nat) : Level :=
  if s.mgmt.inReset ∨ ¬ s.mgmt.main then .float
  else match blockState s n with
    | 3 => .float
    | 2 => .held
    | _ => .driven

/-- Whether the rail of a die is switched on: the die is not in Out, or rises from it (R418, R479). -/
def railOn (s : State) (d : Nat) : Bool := s.get (.SCK_DIE d) F.SCK_DIE_STATE != 3 || (s.die d).wake.isSome

/-- The level that the S384 itself gives an output land (R460, R479). The 169 lands of a channel stand together, the last
three of them no MEM_* lands (log entry 69). -/
def ownLevel (s : State) (i : Nat) : Level :=
  if i < 2704 then (if i % 169 < 166 then memLevel s (i / 169) else .float)
  else if i < 2736 then Level.of (!s.mgmt.inReset && blockState s ((i - 2704) % 16) != 3)
  else if i = 2746 then Level.of (pkgReady s)
  else if i = 2747 then (if s.bit .SCK_ERR F.SCK_ERR_THERMTRIP then .low else .float)
  else if 2748 ≤ i ∧ i < 2764 then Level.of (!s.mgmt.inReset && railOn s (i - 2748))
  else if 2780 ≤ i ∧ i < 2812 then
    Level.of (!s.mgmt.inReset && ((s.die ((i - 2780) / 2)).vsel).testBit (i % 2))
  else .float

/-- The control lands of the boot-flash port. -/
inductive FlashLand | cs | reset | other
  deriving DecidableEq, Repr

/-- The level of a land of the boot-flash port, in the standby domain (R472, R479): floating without standby power; in package
reset AF_CS_L is high, AF_RESET_L low and the others in high impedance; afterwards AF_RESET_L is low until the ROM releases it,
and the Archivist drives the others as its reads need, `driven`. -/
def flashLevel (s : State) (driven : Level) : FlashLand → Level
  | .reset => if ¬ s.mgmt.stby then .float else Level.of (!s.mgmt.inReset && !s.mgmt.afReset)
  | .cs => if ¬ s.mgmt.stby then .float else if s.mgmt.inReset then .high else driven
  | .other => if ¬ s.mgmt.stby ∨ s.mgmt.inReset then .float else driven

/-- The level of a boundary land: floating without standby power, otherwise as boundary scan or the S384 drives it. -/
def landLevel (s : State) (i : Nat) : Level :=
  if ¬ s.mgmt.stby then .float
  else
    let e := tapEffect s
    if e = 5 then .float
    else if e = 0 ∨ e = 4 then
      if s.tap.boundary.getD (3 * i) false then Level.of (s.tap.boundary.getD (3 * i + 1) false) else .float
    else ownLevel s i

/-- The level of the HP_TX lands of a port: electrical idle until its link is up or in Recovery, and floating where the folio
leaves it Out (R317, R411, R479). -/
def txLevel (s : State) (p : Nat) : Level :=
  if ¬ s.mgmt.stby then .float
  else if s.mgmt.inReset then .idle
  else if ¬ s.folio.portEnabled p then .float
  else if counts s p ∧ ¬ (s.port p).l1 then .driven
  else .idle

/-- The level of MG_SDA (R479). -/
def sdaLevel (s : State) : Level := if ¬ s.mgmt.stby ∨ s.mgmt.inReset then .float else .driven

/-- The level of TDO, driven in Shift-DR and Shift-IR only (R479). -/
def tdoLevel (s : State) (shifting : Bool) : Level := if ¬ s.mgmt.stby ∨ ¬ shifting then .float else .driven

end Sys2Proof.Machine
end

