-- ==== Sys2Proof/Machine/Operands.lean ====
section
/-! DEFINITION. Operand forms of the instructions of the table: widths, addresses and pieces of a scalar access, encodings and
vector operands of Xjsample (R121, R122, R133 to R140, R153, R170). -/

namespace Sys2Proof.Machine

/-! ### Addresses (R121, R122, R153) -/

/-- vtype, vl and vstart of a core. -/
def vtypeOf (s : State) (c : Nat) : Word := s.csr c 0xC21
def vlOf (s : State) (c : Nat) : Nat := (s.csr c 0xC20).toNat
def vstartOf (s : State) (c : Nat) : Nat := (s.csr c 0x008).toNat
/-- A register of a load or store as stored data; of a vector register group, its element of `n` bytes. -/
def dataReg (s : State) (c : Nat) (n : Nat) : DataReg → Word
  | .x r => s.xreg c r
  | .f r => (s.core c).f.getD r 0
  | .v e => BitVec.ofNat 64 (lineGet (vreg s c ((e.reg.val + e.idx * n / 64) % 32)) (e.idx * n % 64) n)

/-- Whether an access width exists for a register: 1, 2, 4 or 8 bytes, and 2, 4 or 8 of a floating-point register in a mode where
FS is on; of a vector element in a mode where VS is on, with a legal vtype. -/
def widthOk (s : State) (c : Nat) (r : DataReg) (n : Nat) : Bool :=
  match r with
  | .x _ => n == 1 || n == 2 || n == 4 || n == 8
  | .f _ => (n == 2 || n == 4 || n == 8) && !fsOff s c
  | .v _ => (n == 1 || n == 2 || n == 4 || n == 8) && !vsOff s c && !(vtypeOf s c).getLsbD 63

/-- The virtual address of a load or store: x[base] plus the immediate, or plus the offset of a vector element. -/
def accessVa (s : State) (c : Nat) (acc : Acc) (r : DataReg) (base : Fin 32) (imm : BitVec 12) : Word :=
  maskVa s c acc (s.xreg c base + (match r with | .v e => e.off | _ => imm.signExtend 64))

/-- vstart at the element that is accessed, for the trap that it may take. -/
def atElement (s : State) (c : Nat) (r : DataReg) : State :=
  match r with
  | .v e => s.setCsr c 0x008 (BitVec.ofNat 64 e.idx)
  | _ => s

/-- Bits of an immediate put at a place of an encoding: bits `hi` to `lo` of `n` from bit `p` on. -/
def immBits (n hi lo p : Nat) : Nat := n / 2 ^ lo % 2 ^ (hi - lo + 1) * 2 ^ p

/-- The encoding of a scalar floating-point load or store, or of the instruction of a vector element, for the tval of an
illegal-instruction trap (Sstvala, PRESUMED; encodings of F, D, Zfh and C). -/
def accessWord (store : Bool) (r : DataReg) (base : Fin 32) (imm : BitVec 12) (n : Nat) (rvc : Bool) : Word :=
  match r with
  | .v e => e.insn.zeroExtend 64
  | .x _ => 0
  | .f q =>
    let i := imm.toNat
    let w : Nat :=
      match rvc, store, decide (base = 2) with
      | false, false, _ => i * 2 ^ 20 + base.val * 2 ^ 15 + (Nat.log2 n) * 2 ^ 12 + q.val * 2 ^ 7 + 0x07
      | false, true, _ => immBits i 11 5 25 + q.val * 2 ^ 20 + base.val * 2 ^ 15 + (Nat.log2 n) * 2 ^ 12 + immBits i 4 0 7 + 0x27
      | true, false, true => 0x2002 + immBits i 5 5 12 + q.val * 2 ^ 7 + immBits i 4 3 5 + immBits i 8 6 2
      | true, true, true => 0xA002 + immBits i 5 3 10 + immBits i 8 6 7 + q.val * 4
      | true, _, false =>
        (if store then 0xA000 else 0x2000) + immBits i 5 3 10 + base.val % 8 * 2 ^ 7 + immBits i 7 6 5 + q.val % 8 * 4
    BitVec.ofNat 64 w

/-- Length of an encoding. -/
def insnLen (rvc : Bool) : Nat := if rvc then 2 else 4

/-- An access cut at its page boundary: virtual addresses and lengths (R121, R170). -/
def pageCut (va : Word) (n : Nat) : List (Word × Nat) :=
  let n1 := min n (4096 - va.toNat % 4096)
  [(va, n1)] ++ (if n1 < n then [(va + BitVec.ofNat 64 n1, n - n1)] else [])

/-- A translated piece: physical address, length, PBMT, and whether it lies in the control space. -/
structure Piece where
  pa   : Nat
  n    : Nat
  pbmt : Nat
  ctl  : Bool
  deriving DecidableEq, Repr

/-- Every piece of an access located, in order; none where one trapped or waits (R121: nothing is done then). -/
def locateAll (c : Nat) (acc : Acc) (k : Kind) : List (Word × Nat) → State → Option (List Piece) × State
  | [], s => (some [], s)
  | (va, n) :: t, s =>
    match locate s c va n acc k false with
    | (.at_ pa pb r, s) =>
      match locateAll c acc k t s with
      | (some l, s) => (some (⟨pa, n, pb, r == .control⟩ :: l), s)
      | (none, s) => (none, s)
    | (_, s) => (none, s)

/-- The one piece of a control-space access of R11: eight bytes, naturally aligned. -/
def ctlPiece (l : List Piece) : Option Nat :=
  match l with
  | [p] => if p.ctl ∧ p.n = 8 ∧ p.pa % 8 = 0 then some p.pa else none
  | _ => none

/-- Line parts of located pieces, each with its PBMT. -/
def pieceParts (l : List Piece) : List ((Nat × Nat × Nat) × Nat) :=
  l.flatMap (fun p => (parts [(p.pa, p.n)]).map (fun q => (q, p.pbmt)))

/-! ### Xjsample operands (R135, R136, R138, R140) -/

/-- Whether an encoding is one of R136: custom-0 with a function, bits 31:26, and the fields that must be as shown (`vm` is none
where either value is allowed). -/
def xjForm (w : BitVec 32) (fn top6 : Nat) (vm : Option Nat) (f2420 f1915 f117 : Bool) : Bool :=
  wbits w 6 0 == 0x0B && wbits w 14 12 == fn && wbits w 31 26 == top6 && (match vm with | some b => wbits w 25 25 == b | none => true)
    && (f2420 || wbits w 24 20 == 0) && (f1915 || wbits w 19 15 == 0) && (f117 || wbits w 11 7 == 0)

/-- Whether SEW is 16 (R135). -/
def sew16 (s : State) (c : Nat) : Bool := Fld.get ⟨5, 3⟩ (vtypeOf s c) == 1
/-- Registers of a group at LMUL. -/
def groupSize (s : State) (c : Nat) : Nat :=
  match Fld.get ⟨2, 0⟩ (vtypeOf s c) with
  | 1 => 2
  | 2 => 4
  | 3 => 8
  | _ => 1
/-- Whether a register starts a group at LMUL (R137; for SMAC.VV the V extension's rule, PRESUMED). -/
def groupOk (s : State) (c r : Nat) : Bool := r % groupSize s c == 0

/-- 16-bit element `i` of a register group. -/
def velem (s : State) (c r i : Nat) : BitVec 16 := (vreg s c ((r + i / 32) % 32)).extractLsb' (16 * (i % 32)) 16
/-- 16-bit element `i` of a register group written. -/
def setVelem (s : State) (c r i : Nat) (v : BitVec 16) : State :=
  let q := (r + i / 32) % 32
  setVreg s c q (linePut (vreg s c q) (2 * (i % 32)) 2 v.toNat)
/-- Whether element `i` is active (R138). -/
def vactive (s : State) (c : Nat) (w : BitVec 32) (i : Nat) : Bool := wbits w 25 25 == 1 || (vreg s c 0).getLsbD i

/-- A lane of SACC (R140). -/
def lane (s : State) (c j : Nat) : Word := (s.core c).sacc.getD j 0
/-- A lane of SACC written: vector state is Dirty (R135). -/
def setLane (s : State) (c j : Nat) (v : Word) : State :=
  let k := s.core c
  dirtyVs (s.setCore c { k with sacc := k.sacc.set j v }) c

end Sys2Proof.Machine
end

