-- ==== Sys2Proof/Machine/Flags.lean ====
section
/-! DEFINITION. What Xjsample computes beside its data: the packing of samples with saturation, which sets vxsat (R133, R134,
R139). Vector state becomes Dirty where a vector register, a lane or vxsat is written (R135). -/

namespace Sys2Proof.Machine

/-- Sample `k` of a cell, sign-extended to 16 bits (R133, R134). -/
def sample (cell k : Nat) : BitVec 16 := (BitVec.ofNat 14 (cell / 2 ^ (14 * k))).signExtend 16

/-- A 16-bit element saturated to the s14 range, and whether it was out of it (R139). -/
def toS14 (e : BitVec 16) : Nat × Bool :=
  let x := e.toInt
  if 8191 < x then (0x1FFF, true) else if x < -8192 then (0x2000, true) else (e.toNat % 2 ^ 14, false)

/-- Cell `j` of a register group as SPK.ST writes it, and whether an element saturated (R134, R139). -/
def packCell (s : State) (c vs3 j : Nat) : Nat × Bool :=
  (List.range 9).foldl (fun (r : Nat × Bool) k =>
    let e := toS14 (velem s c vs3 (9 * j + k))
    (r.1 + e.1 * 2 ^ (14 * k), r.2 || e.2)) (0, false)

/-- vxsat after a cell whose samples saturated: set, with vector state Dirty; otherwise as it was (R135, R139). -/
def noteSat (s : State) (c : Nat) (sat : Bool) : State := if sat then dirtyVs (s.setCsr c 0x009 1) c else s

end Sys2Proof.Machine
end

