-- ==== Sys2Proof/Machine/LoadStore.lean ====
section
/-! DEFINITION. Scalar loads and stores, the atomics, and Xjsample (R121, R123, R133 to R142, R178 to R182, R231, R232, R242 to
R250). An instruction whose line, walk or drain is still on its way leaves its requests out and is offered again. -/

namespace Sys2Proof.Machine

/-! ### Control space (R11, R152, R249, R250, R387) -/

/-- A load of a control-space register: in ledger mode only from the core's own claim and end-of-interrupt registers, which voids
R4 (R249, R261). The response comes down the core's link from requester 17 (R96). -/
def ctlLoad (s : State) (c : Fin 384) (rd : DataReg) (va : Word) (pa : Nat) (signed : Bool) (len : Nat) : State :=
  let done (r : Word × State) : State :=
    mgmtSend (endAccess (writeLoaded r.2 c rd 8 r.1.toNat signed) c rd len) (0x10 + c / 24) 17
  if ¬ s.ledgerCore c then done (readCtrl s (.core c) pa)
  else
    match Reg.ofAddr pa with
    | some (.TIC_CLAIM d) => if d = c then done (readCtrl s (.core c) pa) else ledgerAccess s c va
    | some (.TIC_EOI d) => if d = c then done (readCtrl (voidInt s c) (.core c) pa) else ledgerAccess s c va
    | _ => ledgerAccess s c va

/-- A control-space store of a ledger core that is held until publication; a 17th ends the quantum and is not performed
(R249). -/
def heldStore (s : State) (c : Nat) (src : DataReg) (r : Reg) (v : Word) (len : Nat) : State :=
  match holdStore s c r v with
  | (true, s) => endAccess s c src len
  | (false, s) => drainAll s c

/-- A store to a control-space register (R249, R250). -/
def ctlStore (s : State) (c : Fin 384) (src : DataReg) (va : Word) (pa : Nat) (v : Word) (len : Nat) : State :=
  if ¬ s.ledgerCore c then writeCtrl (endAccess s c src len) (.core c) pa v
  else
    match Reg.ofAddr pa with
    | some (.TIC_CLAIM d) | some (.TIC_EOI d) =>
      if d = c then writeCtrl (endAccess s c src len) (.core c) pa v else ledgerAccess s c va
    | some (.CORE_MSIP d) => if s.handOf d = s.handOf c then heldStore s c src (.CORE_MSIP d) v len else ledgerAccess s c va
    | some (.CORE_MTIMECMP d) =>
      if s.handOf d = s.handOf c then heldStore s c src (.CORE_MTIMECMP d) v len else ledgerAccess s c va
    | _ => ledgerAccess s c va

/-! ### Loads (R181, R182, R244) -/

/-- Whether an IO store of a core's die to a line is out, which a later access to the line follows. -/
def partialOut (s : State) (c line : Nat) : Bool := (s.die (c / 24)).partials.any (fun m => m.line == line && m.txn ≥ ioTxn)

/-- A load from pages accessed as NC or IO: from the core's own buffers where they hold all its bytes, otherwise from the home
slice, one line at a time, after the entries that hold some of them have drained and no write-back of a line is on its way (R181, R182,
R220). -/
def ncLoad (s : State) (c : Nat) (rd : DataReg) (va : Word) (l : List Piece) (signed : Bool) (len : Nat) : State :=
  let ps : List (Nat × Nat) := l.map (fun p => (p.pa, p.n))
  let qs := parts ps
  let k := s.core c
  let buf := k.lbuf ++ k.mb ++ k.stores
  let held (q : Nat × Nat × Nat) : Bool := needMask q.2.1 q.2.2 &&& ~~~ (bufLine buf q.1).2 == 0
  let meets (q : Nat × Nat × Nat) : Bool := needMask q.2.1 q.2.2 &&& (bufLine buf q.1).2 != 0
  if qs.all held then tryLoad s c rd va ps signed len
  else
    let s := if s.ledgerCore c then s else drain s c (fun e => qs.any (fun q => q.1 == e.line && meets q))
    let k := s.core c
    if ¬ s.ledgerCore c ∧ (k.mb.any (fun e => qs.any (fun q => q.1 == e.line && (needMask q.2.1 q.2.2 &&& e.mask != 0))) ∨
        qs.any (fun q => partialOut s c q.1)) then s
    else if qs.any (fun q => wbHolds s (c / 24) q.1) then s
    else
      match qs with
      | [] => s
      | (line, _, _) :: _ => ncRead (addWait s c line (.load rd va ps signed len (some (0, 0)))) c line

/-- CORE_LOAD (R121, R123, R153, R181, R244, R249). -/
def execCoreLoad (c : Fin 384) (op : LoadOp) (s : State) : Out :=
  if !s.ready c then .next s
  else if !widthOk s c op.rd op.bytes then .next (trap s c 2 (accessWord false op.rd op.base op.imm op.bytes op.rvc))
  else
    let s := atElement s c op.rd
    let va := accessVa s c .load op.rd op.base op.imm
    let len := insnLen op.rvc
    match locateAll c .load .load (pageCut va op.bytes) s with
    | (none, s) => .next s
    | (some l, s) =>
      if l.any (·.ctl) then
        match ctlPiece l with
        | some pa => .next (ctlLoad s c op.rd va pa op.signed len)
        | none => .next (trap s c 5 va)
      else if l.any (fun p => p.pbmt != 0) then .next (ncLoad s c op.rd va l op.signed len)
      else .next (tryLoad s c op.rd va (l.map (fun p => (p.pa, p.n))) op.signed len)

/-! ### Stores (R178, R179, R182, R242, R243) -/

/-- CORE_STORE (R121, R123, R153, R179, R182, R242, R249). -/
def execCoreStore (c : Fin 384) (op : StoreOp) (s : State) : Out :=
  if !s.ready c then .next s
  else if !widthOk s c op.rs2 op.bytes then .next (trap s c 2 (accessWord true op.rs2 op.base op.imm op.bytes op.rvc))
  else
    let s := atElement s c op.rs2
    let va := accessVa s c .store op.rs2 op.base op.imm
    let len := insnLen op.rvc
    let v := dataReg s c op.bytes op.rs2
    match locateAll c .store .store (pageCut va op.bytes) s with
    | (none, s) => .next s
    | (some l, s) =>
      if l.any (·.ctl) then
        match ctlPiece l with
        | some pa => .next (ctlStore s c op.rs2 va pa v len)
        | none => .next (trap s c 7 va)
      else
        match doStore s c (storeParts v.toNat (pieceParts l) 0) with
        | (true, s) => .next (endAccess s c op.rs2 len)
        | (false, s) => .next s

/-! ### Atomics (R121, R231, R232, R247, R249) -/

/-- The atomics before their own effect: width and alignment, translation and checks, NC and IO pages, the drain of R180 item 5.
In ledger mode the quantum ends with END 2 and the atomic waits for the publication point. `cm` and `ca` are the causes of a
misaligned and of a refused one. -/
def atomicInsn (s : State) (c : Nat) (op : AmoOp) (cm ca : Nat) (later : Word → Nat → LedgerOp)
    (act : State → Word → Nat → State) : State :=
  if !s.ready c then s
  else if op.bytes ≠ 4 ∧ op.bytes ≠ 8 then trap s c 2 0
  else
    let acc : Acc := if ca = 5 then .load else .store
    let va := maskVa s c acc (s.xreg c op.rs1)
    if va.toNat % op.bytes ≠ 0 then trap s c cm va
    else
      match locate s c va op.bytes acc (if ca = 5 then .reserve else .atomic) false with
      | (.trapped, s) | (.waits, s) => s
      | (.at_ pa pb r, s) =>
        if r = .control then (if s.ledgerCore c then ledgerAccess s c va else trap s c ca va)
        else if pb ≠ 0 then trap s c ca va
        else if s.ledgerCore c then
          let s := drainAll s c
          (s.setCore c { s.core c with later := some (later va pa) }).endQuantum c 2
        else
          let s := if op.rl then drainAll s c else drain s c (fun e => e.line == pa / 64)
          let k := s.core c
          if (op.rl && !k.mb.isEmpty) || k.mb.any (fun e => e.line == pa / 64) then s
          else act s va pa

/-- AMO (R231, R247). -/
def execAmo (c : Fin 384) (op : AmoOp) (s : State) : Out :=
  .next (atomicInsn s c op 6 7 (fun va pa => .amo op va pa) (fun s va pa =>
    match coreOwn s c (pa / 64) (pa % 64 / 16) with
    | (some l, s) => doAmo s c op va pa l
    | (none, s) => addWait s c (pa / 64) (.amo op va pa)))

/-- LOAD_RESERVED (R231, R247). -/
def execLoadReserved (c : Fin 384) (op : AmoOp) (s : State) : Out :=
  .next (atomicInsn s c op 4 5 (fun va pa => .lr op va pa) (fun s va pa =>
    match coreOwn s c (pa / 64) (pa % 64 / 16) with
    | (some l, s) => wakeFreed s (doLr s c op va pa l) c
    | (none, s) => addWait s c (pa / 64) (.lr op va pa)))

/-- STORE_CONDITIONAL (R231, R247). -/
def execStoreConditional (c : Fin 384) (op : AmoOp) (s : State) : Out :=
  .next (atomicInsn s c op 6 7 (fun va pa => .sc op va pa) (fun s va pa =>
    match coreOwn s c (pa / 64) (pa % 64 / 16) with
    | (some l, s) => wakeFreed s (doSc s c op pa l) c
    | (none, s) => addWait s c (pa / 64) (.sc op va pa)))

/-! ### Xjsample (R133 to R142) -/

/-- An Xjsample instruction: illegal in the cases of R135 and R136. -/
def xjInsn (s : State) (c : Nat) (w : BitVec 32) (ok : Bool) (act : State → State) : State :=
  if !s.ready c then s
  else if ok && !vsOff s c && !(vtypeOf s c).getLsbD 63 then act s
  else illegal s c (w.zeroExtend 64)

/-- vstart set. -/
def setVstart (s : State) (c n : Nat) : State := s.setCsr c 0x008 (BitVec.ofNat 64 n)
/-- The end of an Xjsample instruction: vstart is zero and it retires. -/
def xjEnd (s : State) (c : Nat) : State := (setVstart s c 0).retire c 4

/-- What a cell access finds. -/
inductive Cell
  | got (v : Nat)
  | trapped
  | waits
  deriving DecidableEq, Repr

/-- A cell read from a page accessed as NC or IO (R137, R156, R181). -/
def ncCellRead (s : State) (c : Nat) (va : Word) (line off : Nat) : Cell × State :=
  let k := s.core c
  let buf := k.lbuf ++ k.mb ++ k.stores
  let o := bufLine buf line
  let need := needMask off 16
  match k.ncCell with
  | some (l, data, poison) =>
    let s := s.setCore c { k with ncCell := none }
    if l ≠ line then (.waits, s)
    else if poison then (.trapped, hwError s c va 1 line)
    else (.got (lineGet (if s.ledgerCore c then mergeLine o.2 o.1 data else data) off 16), s)
  | none =>
    if need &&& ~~~ o.2 = 0 then (.got (lineGet o.1 off 16), s)
    else
      let s := if s.ledgerCore c ∨ need &&& o.2 = 0 then s else drain s c (fun e => e.line == line)
      if ¬ s.ledgerCore c ∧ ((s.core c).mb.any (fun e => e.line == line && need &&& e.mask != 0) ∨ partialOut s c line) then (.waits, s)
      else if wbHolds s (c / 24) line then (.waits, s)
      else (.waits, ncRead (addWait s c line (.cell true)) c line)

/-- A cell read: one 16-byte access (R137). -/
def loadCell (s : State) (c : Nat) (va : Word) : Cell × State :=
  match locate s c va 16 .load .load false with
  | (.trapped, s) => (.trapped, s)
  | (.waits, s) => (.waits, s)
  | (.at_ pa pb r, s) =>
    let line := pa / 64
    let off := pa % 64
    if r = .control then (.trapped, trap s c 5 va)
    else if pb ≠ 0 then ncCellRead s c va line off
    else
      match loadLine s c line (needMask off 16) with
      | (.wait, s) => (.waits, addWait s c line (.cell false))
      | (.bytes data p lost, s) =>
        if lost then (.trapped, hwError s c va 2 line)
        else if p then (.trapped, hwError s c va 1 line)
        else (.got (lineGet data off 16), s)

/-- Inactive and tail elements that vtype makes agnostic: each keeps its value or becomes all ones (R138; the V extension allows
either). Which is a free choice in open mode; in ledger mode a fixed function of what R260 lets a result depend on. `n` is vl and
`v0` vstart at the start. -/
def agnostic (s : State) (c : Nat) (w : BitVec 32) (v0 n : Nat) (is : List Nat) : State :=
  let vd := wbits w 11 7
  overAll is (fun s i =>
    if s.ledgerCore c then
      if Config.agnosticOnes w (vtypeOf s c) n v0 i (velem s c vd i) then setVelem s c vd i 0xFFFF else s
    else if s.fresh.1.getLsbD 0 then setVelem s.fresh.2 c vd i 0xFFFF else s.fresh.2) s

/-- The elements `lo` to `hi` − 1 of a destination that a mask leaves out, by vtype.vma. -/
def maskedOut (s : State) (c : Nat) (w : BitVec 32) (v0 n lo hi : Nat) : State :=
  if (vtypeOf s c).getLsbD 7 then
    agnostic s c w v0 n (((List.range (hi - lo)).map (· + lo)).filter (fun i => !vactive s c w i))
  else s

/-- The tail of a destination group from element `n` on, by vtype.vta; `v0` is vstart, and no tail changes where it is past the end. -/
def tailOut (s : State) (c : Nat) (w : BitVec 32) (v0 n : Nat) : State :=
  if (vtypeOf s c).getLsbD 6 ∧ v0 < n then
    agnostic s c w v0 n ((List.range (32 * groupSize s c - n)).map (· + n))
  else s

/-- The cells of SPK.LD (R138): `v0` is vstart and `n` vl at the start. A trap leaves vstart at the first element of its cell; a cell
that waits leaves it at the next element. -/
def spkLdCells (c : Nat) (w : BitVec 32) (base : Word) (v0 n : Nat) : List Nat → State → State
  | [], s => xjEnd (tailOut s c w v0 n) c
  | j :: t, s =>
    let lo := max v0 (9 * j)
    let hi := min n (9 * j + 9)
    let act := ((List.range 9).map (· + 9 * j)).filter (fun i => decide (lo ≤ i) && decide (i < hi) && vactive s c w i)
    if act.isEmpty then spkLdCells c w base v0 n t (maskedOut s c w v0 n lo hi)
    else
      match loadCell (setVstart s c (9 * j)) c (base + BitVec.ofNat 64 (16 * j)) with
      | (.trapped, s) => s
      | (.waits, s) => setVstart s c lo
      | (.got cell, s) =>
        let s := overAll act (fun s i => setVelem s c (wbits w 11 7) i (sample cell (i - 9 * j))) s
        spkLdCells c w base v0 n t (maskedOut s c w v0 n lo hi)

/-- The cells from vstart up to an end. -/
def cellsFrom (v0 e : Nat) : List Nat := (List.range (e - v0 / 9)).map (· + v0 / 9)

/-- SPK_LD (R135 to R138). A masked one with vd = v0 is illegal, as the V extension has it for its own loads (PRESUMED, log entry
106: R137 does not say). -/
def execSpkLd (c : Fin 384) (w : BitVec 32) (s : State) : Out :=
  let vd := wbits w 11 7
  let ok := xjForm w 0 0 none false true true && sew16 s c && groupOk s c vd && (wbits w 25 25 == 1 || vd != 0)
  .next (xjInsn s c w ok (fun s =>
    let base := maskVa s c .load (s.xreg c (wbits w 19 15))
    if base.toNat % 16 ≠ 0 then trap s c 4 base
    else spkLdCells c w base (vstartOf s c) (vlOf s c) (cellsFrom (vstartOf s c) ((vlOf s c + 8) / 9)) s))

/-- The cells of SPK.ST (R139): each is packed, which sets vxsat, and then stored; a cell that traps, waits for a merging-buffer
entry or does not fit in the ledger buffer leaves vstart at its first element (R242). -/
def spkStCells (c : Nat) (w : BitVec 32) (base : Word) : List Nat → State → State
  | [], s => xjEnd s c
  | j :: t, s =>
    let s := setVstart s c (9 * j)
    if (s.core c).stores ≠ [] then s
    else
      let va := base + BitVec.ofNat 64 (16 * j)
      let cell := packCell s c (wbits w 11 7) j
      match locate (noteSat s c cell.2) c va 16 .store .store false with
      | (.trapped, s) | (.waits, s) => s
      | (.at_ pa pb r, s) =>
        if r = .control then trap s c 7 va
        else
          match doStore s c (storeParts cell.1 [((pa / 64, pa % 64, 16), pb)] 0) with
          | (false, s) => s
          | (true, s) => spkStCells c w base t s

/-- SPK_ST (R135 to R137, R139, R242). -/
def execSpkSt (c : Fin 384) (w : BitVec 32) (s : State) : Out :=
  let n := vlOf s c
  let ok := xjForm w 1 0 (some 1) false true true && sew16 s c && groupOk s c (wbits w 11 7) && n % 9 == 0
  .next (xjInsn s c w ok (fun s =>
    let base := maskVa s c .store (s.xreg c (wbits w 19 15))
    if n = 0 then xjEnd s c
    else if base.toNat % 16 ≠ 0 then trap s c 6 base
    else spkStCells c w base (cellsFrom (vstartOf s c) (n / 9)) s))

/-- SMAC_VV (R135, R136, R140). -/
def execSmacVv (c : Fin 384) (w : BitVec 32) (s : State) : Out :=
  let vs2 := wbits w 24 20
  let vs1 := wbits w 19 15
  let ok := xjForm w 2 0 none true true false && sew16 s c && groupOk s c vs1 && groupOk s c vs2
  .next (xjInsn s c w ok (fun s =>
    let is := ((List.range (vlOf s c - vstartOf s c)).map (· + vstartOf s c)).filter (vactive s c w)
    let s := s.countEv c 0x000F is.length
    xjEnd (overAll is (fun s i =>
      setLane s c (i % 64) (lane s c (i % 64) + (velem s c vs2 i).signExtend 64 * (velem s c vs1 i).signExtend 64)) s) c))

/-- SACC_CLR (R136, R142). -/
def execSaccClr (c : Fin 384) (w : BitVec 32) (s : State) : Out :=
  .next (xjInsn s c w (xjForm w 3 0 (some 1) false false false) (fun s =>
    let k := s.core c
    xjEnd (dirtyVs (s.setCore c { k with sacc := [] }) c) c))

/-- k of SACC.RDV and SACC.WRV; bits 24:23 are zero (R136). -/
def laneBase (w : BitVec 32) : Nat := 8 * wbits w 22 20

/-- SACC_RDV (R136, R142). -/
def execSaccRdv (c : Fin 384) (w : BitVec 32) (s : State) : Out :=
  .next (xjInsn s c w (xjForm w 3 1 (some 1) true false true && wbits w 24 23 == 0) (fun s =>
    let v : LineData := (List.range 8).foldl (fun l j => linePut l (8 * j) 8 (lane s c (laneBase w + j)).toNat) 0
    xjEnd (setVreg s c (wbits w 11 7) v) c))

/-- SACC_WRV (R136, R142). -/
def execSaccWrv (c : Fin 384) (w : BitVec 32) (s : State) : Out :=
  .next (xjInsn s c w (xjForm w 3 2 (some 1) true true false && wbits w 24 23 == 0) (fun s =>
    let v := vreg s c (wbits w 19 15)
    xjEnd (overAll (List.range 8) (fun s j => setLane s c (laneBase w + j) (BitVec.ofNat 64 (lineGet v (8 * j) 8))) s) c))

/-- SACC_SUM (R136, R142). -/
def execSaccSum (c : Fin 384) (w : BitVec 32) (s : State) : Out :=
  .next (xjInsn s c w (xjForm w 3 3 (some 1) false false true) (fun s =>
    xjEnd (s.setX c (wbits w 11 7) ((List.range 64).foldl (fun a j => a + lane s c j) 0)) c))

end Sys2Proof.Machine
end

