-- ==== Sys2Proof/Machine/Dispatch.lean ====
section
/-! DEFINITION. Every command of the opcode table, one arm each: a direct call of its meaning. -/

namespace Sys2Proof.Machine

def exec (i : Instr) (s : State) : Host.Outcome State Fault Refusal :=
  match i with
  | .registerWrite who t v => Sys2Proof.Machine.execRegisterWrite who t v s
  | .parcelReceive d dir fill p => Sys2Proof.Machine.execParcelReceive d dir fill p s
  | .statusByteReceive d dir b => Sys2Proof.Machine.execStatusByteReceive d dir b s
  | .statusTimeout d dir seq => Sys2Proof.Machine.execStatusTimeout d dir seq s
  | .replayFail d dir => Sys2Proof.Machine.execReplayFail d dir s
  | .hbLost d => Sys2Proof.Machine.execHbLost d s
  | .clkLost d => Sys2Proof.Machine.execClkLost d s
  | .laneRemapStart d dir group lane => Sys2Proof.Machine.execLaneRemapStart d dir group lane s
  | .remapComplete d dir => Sys2Proof.Machine.execRemapComplete d dir s
  | .dlRepairCmdGo who d v => Sys2Proof.Machine.execDlRepairCmdGo who d v s
  | .linkTraining d offer faults => Sys2Proof.Machine.execLinkTraining d offer faults s
  | .trainingStepTimeout d step => Sys2Proof.Machine.execTrainingStepTimeout d step s
  | .dlInjectLaneFlip who d v => Sys2Proof.Machine.execDlInjectLaneFlip who d v s
  | .dlInjectFifo who d v => Sys2Proof.Machine.execDlInjectFifo who d v s
  | .dlInjectHb who d v => Sys2Proof.Machine.execDlInjectHb who d v s
  | .dlInjectStatus who d v => Sys2Proof.Machine.execDlInjectStatus who d v s
  | .dlInjectCrcDn who d v => Sys2Proof.Machine.execDlInjectCrcDn who d v s
  | .dlInjectCrcUp who d v => Sys2Proof.Machine.execDlInjectCrcUp who d v s
  | .packageReset => Sys2Proof.Machine.execPackageReset s
  | .packageResetRelease straps => Sys2Proof.Machine.execPackageResetRelease straps s
  | .mainPwrokLoss => Sys2Proof.Machine.execMainPwrokLoss s
  | .refclkLost => Sys2Proof.Machine.execRefclkLost s
  | .stbyPwrokLoss => Sys2Proof.Machine.execStbyPwrokLoss s
  | .bootFirmwareCheck => Sys2Proof.Machine.execBootFirmwareCheck s
  | .bootFolioVerify => Sys2Proof.Machine.execBootFolioVerify s
  | .bootTrain offers => Sys2Proof.Machine.execBootTrain offers s
  | .bootRevsetCheck => Sys2Proof.Machine.execBootRevsetCheck s
  | .bootDimmTraining chans => Sys2Proof.Machine.execBootDimmTraining chans s
  | .bootApply => Sys2Proof.Machine.execBootApply s
  | .bootMeminit => Sys2Proof.Machine.execBootMeminit s
  | .bootHouseImage => Sys2Proof.Machine.execBootHouseImage s
  | .bootRun => Sys2Proof.Machine.execBootRun s
  | .addendumGo who v => Sys2Proof.Machine.execAddendumGo who v s
  | .addendumCopyDone => Sys2Proof.Machine.execAddendumCopyDone s
  | .arbitrateTrick k n sc => Sys2Proof.Machine.execArbitrateTrick k n sc s
  | .fallbackGrantExpire p => Sys2Proof.Machine.execFallbackGrantExpire p s
  | .classDCutoff p => Sys2Proof.Machine.execClassDCutoff p s
  | .classDTransferEnter sl q => Sys2Proof.Machine.execClassDTransferEnter sl q s
  | .fabCommit who v => Sys2Proof.Machine.execFabCommit who v s
  | .commitArriveUp d => Sys2Proof.Machine.execCommitArriveUp d s
  | .pointSwitch p => Sys2Proof.Machine.execPointSwitch p s
  | .fabDealWrite who p k v => Sys2Proof.Machine.execFabDealWrite who p k v s
  | .fabBurstWrite who p v => Sys2Proof.Machine.execFabBurstWrite who p v s
  | .fabPrioWrite who p q v => Sys2Proof.Machine.execFabPrioWrite who p q v s
  | .fabCutoffClear who p k v => Sys2Proof.Machine.execFabCutoffClear who p k v s
  | .clearLost who h v => Sys2Proof.Machine.execClearLost who h v s
  | .coreCtlStart who c v => Sys2Proof.Machine.execCoreCtlStart who c v s
  | .coreCtlStop who c v => Sys2Proof.Machine.execCoreCtlStop who c v s
  | .coreRunBegin c => Sys2Proof.Machine.execCoreRunBegin c s
  | .coreStopComplete c => Sys2Proof.Machine.execCoreStopComplete c s
  | .coreLoad c op => Sys2Proof.Machine.execCoreLoad c op s
  | .coreStore c op => Sys2Proof.Machine.execCoreStore c op s
  | .mbIdleDrain c line => Sys2Proof.Machine.execMbIdleDrain c line s
  | .mbEntryDrained c line => Sys2Proof.Machine.execMbEntryDrained c line s
  | .amo c op => Sys2Proof.Machine.execAmo c op s
  | .loadReserved c op => Sys2Proof.Machine.execLoadReserved c op s
  | .storeConditional c op => Sys2Proof.Machine.execStoreConditional c op s
  | .atomicDeferralEnd c => Sys2Proof.Machine.execAtomicDeferralEnd c s
  | .fence c pred succ => Sys2Proof.Machine.execFence c pred succ s
  | .fenceI c => Sys2Proof.Machine.execFenceI c s
  | .sfenceVma c rs1 rs2 => Sys2Proof.Machine.execSfenceVma c rs1 rs2 s
  | .sinvalVma c rs1 rs2 => Sys2Proof.Machine.execSinvalVma c rs1 rs2 s
  | .hfenceVvma c rs1 rs2 inval => Sys2Proof.Machine.execHfenceVvma c rs1 rs2 inval s
  | .hfenceGvma c rs1 rs2 inval => Sys2Proof.Machine.execHfenceGvma c rs1 rs2 inval s
  | .sfenceWInval c => Sys2Proof.Machine.execSfenceWInval c s
  | .sfenceInvalIr c => Sys2Proof.Machine.execSfenceInvalIr c s
  | .cboZero c rs1 => Sys2Proof.Machine.execCboZero c rs1 s
  | .cboCleanInsn c rs1 => Sys2Proof.Machine.execCboCleanInsn c rs1 s
  | .cboFlushInsn c o => Sys2Proof.Machine.execCboFlushInsn c o s
  | .wfi c => Sys2Proof.Machine.execWfi c s
  | .wrsNto c => Sys2Proof.Machine.execWrsNto c s
  | .wrsSto c => Sys2Proof.Machine.execWrsSto c s
  | .ecall c => Sys2Proof.Machine.execEcall c s
  | .spkLd c w => Sys2Proof.Machine.execSpkLd c w s
  | .spkSt c w => Sys2Proof.Machine.execSpkSt c w s
  | .smacVv c w => Sys2Proof.Machine.execSmacVv c w s
  | .saccClr c w => Sys2Proof.Machine.execSaccClr c w s
  | .saccRdv c w => Sys2Proof.Machine.execSaccRdv c w s
  | .saccWrv c w => Sys2Proof.Machine.execSaccWrv c w s
  | .saccSum c w => Sys2Proof.Machine.execSaccSum c w s
  | .jlYield c w => Sys2Proof.Machine.execJlYield c w s
  | .jlSkip c w => Sys2Proof.Machine.execJlSkip c w s
  | .jlNext c w => Sys2Proof.Machine.execJlNext c w s
  | .pageWalk c va acc why => Sys2Proof.Machine.execPageWalk c va acc why s
  | .hwPrefetch c va => Sys2Proof.Machine.execHwPrefetch c va s
  | .mtimecmpExpire c t => Sys2Proof.Machine.execMtimecmpExpire c t s
  | .coreMsipWrite who c v => Sys2Proof.Machine.execCoreMsipWrite who c v s
  | .coreMtimecmpWrite who c v => Sys2Proof.Machine.execCoreMtimecmpWrite who c v s
  | .opChangeStart o target => Sys2Proof.Machine.execOpChangeStart o target s
  | .opRampStep o => Sys2Proof.Machine.execOpRampStep o s
  | .voltageSettled d => Sys2Proof.Machine.execVoltageSettled d s
  | .cdPgTimeout d => Sys2Proof.Machine.execCdPgTimeout d s
  | .l3AllocationRetry d line => Sys2Proof.Machine.execL3AllocationRetry d line s
  | .shvClean who d v => Sys2Proof.Machine.execShvClean who d v s
  | .shvInvalidate who d v => Sys2Proof.Machine.execShvInvalidate who d v s
  | .shvCleanInv who d v => Sys2Proof.Machine.execShvCleanInv who d v s
  | .shvVisit d => Sys2Proof.Machine.execShvVisit d s
  | .shvComplete d => Sys2Proof.Machine.execShvComplete d s
  | .shvLockSizeWrite who d k v => Sys2Proof.Machine.execShvLockSizeWrite who d k v s
  | .rdShared m => Sys2Proof.Machine.execRdShared m s
  | .rdOwn m => Sys2Proof.Machine.execRdOwn m s
  | .upgrade m => Sys2Proof.Machine.execUpgrade m s
  | .claim m => Sys2Proof.Machine.execClaim m s
  | .rdOnce m => Sys2Proof.Machine.execRdOnce m s
  | .wrFull m => Sys2Proof.Machine.execWrFull m s
  | .wrPartial m => Sys2Proof.Machine.execWrPartial m s
  | .cboClean m => Sys2Proof.Machine.execCboClean m s
  | .cboFlush m => Sys2Proof.Machine.execCboFlush m s
  | .wbData m => Sys2Proof.Machine.execWbData m s
  | .wbKeep m => Sys2Proof.Machine.execWbKeep m s
  | .evictClean m => Sys2Proof.Machine.execEvictClean m s
  | .discard m => Sys2Proof.Machine.execDiscard m s
  | .snpShared d m => Sys2Proof.Machine.execSnpShared d m s
  | .snpInv d m => Sys2Proof.Machine.execSnpInv d m s
  | .snpBinv d m => Sys2Proof.Machine.execSnpBinv d m s
  | .snpRspI m => Sys2Proof.Machine.execSnpRspI m s
  | .snpRspS m => Sys2Proof.Machine.execSnpRspS m s
  | .snpDataI m => Sys2Proof.Machine.execSnpDataI m s
  | .snpDataS m => Sys2Proof.Machine.execSnpDataS m s
  | .cmp m => Sys2Proof.Machine.execCmp m s
  | .cmpPartial m => Sys2Proof.Machine.execCmpPartial m s
  | .wbAck d line => Sys2Proof.Machine.execWbAck d line s
  | .wbAckStale d line => Sys2Proof.Machine.execWbAckStale d line s
  | .dataS m => Sys2Proof.Machine.execDataS m s
  | .dataE m => Sys2Proof.Machine.execDataE m s
  | .dataM m => Sys2Proof.Machine.execDataM m s
  | .dataNc m => Sys2Proof.Machine.execDataNc m s
  | .creditReturn d sl cls hand => Sys2Proof.Machine.execCreditReturn d sl cls hand s
  | .lineWaitAdmit sl line => Sys2Proof.Machine.execLineWaitAdmit sl line s
  | .setWaitAdmit sl set => Sys2Proof.Machine.execSetWaitAdmit sl set s
  | .stagingEntryFree sl line => Sys2Proof.Machine.execStagingEntryFree sl line s
  | .dieStopDeclare d cause => Sys2Proof.Machine.execDieStopDeclare d cause s
  | .sliceSuspensionEnd sl => Sys2Proof.Machine.execSliceSuspensionEnd sl s
  | .directoryScrubVisit sl => Sys2Proof.Machine.execDirectoryScrubVisit sl s
  | .directoryScrubEnd d => Sys2Proof.Machine.execDirectoryScrubEnd d s
  | .homeProbe who v => Sys2Proof.Machine.execHomeProbe who v s
  | .homeProbeDone => Sys2Proof.Machine.execHomeProbeDone s
  | .homeInjectBacking who sl v => Sys2Proof.Machine.execHomeInjectBacking who sl v s
  | .homeInjectArm who sl v => Sys2Proof.Machine.execHomeInjectArm who sl v s
  | .quantumEndCount c => Sys2Proof.Machine.execQuantumEndCount c s
  | .ledgerRunEnd h => Sys2Proof.Machine.execLedgerRunEnd h s
  | .ledgerTokenArrive c => Sys2Proof.Machine.execLedgerTokenArrive c s
  | .ledgerPublishEnd h => Sys2Proof.Machine.execLedgerPublishEnd h s
  | .epochBoundary h => Sys2Proof.Machine.execEpochBoundary h s
  | .ledgerEpoch0Start h => Sys2Proof.Machine.execLedgerEpoch0Start h s
  | .intakeStagingDone h id ok => Sys2Proof.Machine.execIntakeStagingDone h id ok s
  | .mcReadData n line => Sys2Proof.Machine.execMcReadData n line s
  | .refsbDue n sc rank => Sys2Proof.Machine.execRefsbDue n sc rank s
  | .dimmThermalPoll n hot => Sys2Proof.Machine.execDimmThermalPoll n hot s
  | .neighbourRefreshQueue n key => Sys2Proof.Machine.execNeighbourRefreshQueue n key s
  | .actTableClear n => Sys2Proof.Machine.execActTableClear n s
  | .ceHourWindow => Sys2Proof.Machine.execCeHourWindow s
  | .rankRetireStart n rank => Sys2Proof.Machine.execRankRetireStart n rank s
  | .switchoverEnd n => Sys2Proof.Machine.execSwitchoverEnd n s
  | .alertN n slot => Sys2Proof.Machine.execAlertN n slot s
  | .cmdRetryEnd n slot => Sys2Proof.Machine.execCmdRetryEnd n slot s
  | .mcRankCmdTest who n v => Sys2Proof.Machine.execMcRankCmdTest who n v s
  | .mcRankCmdReturn who n v => Sys2Proof.Machine.execMcRankCmdReturn who n v s
  | .rankTestEnd n pass => Sys2Proof.Machine.execRankTestEnd n pass s
  | .mcInjectCaParity who n v => Sys2Proof.Machine.execMcInjectCaParity who n v s
  | .mcInjectBacking who n v => Sys2Proof.Machine.execMcInjectBacking who n v s
  | .mcInjectArm who n v => Sys2Proof.Machine.execMcInjectArm who n v s
  | .hpPerst p asserted => Sys2Proof.Machine.execHpPerst p asserted s
  | .pcieLinkUp p speed width flit => Sys2Proof.Machine.execPcieLinkUp p speed width flit s
  | .pcieLinkDown p => Sys2Proof.Machine.execPcieLinkDown p s
  | .pcieRetrain p rate width => Sys2Proof.Machine.execPcieRetrain p rate width s
  | .portL1Entry p => Sys2Proof.Machine.execPortL1Entry p s
  | .portL1Exit p => Sys2Proof.Machine.execPortL1Exit p s
  | .inboundTlp p t => Sys2Proof.Machine.execInboundTlp p t s
  | .readCompletion p c => Sys2Proof.Machine.execReadCompletion p c s
  | .readTimeout p tag => Sys2Proof.Machine.execReadTimeout p tag s
  | .busMasterDisable f => Sys2Proof.Machine.execBusMasterDisable f s
  | .busMasterEnable f => Sys2Proof.Machine.execBusMasterEnable f s
  | .functionLevelReset f => Sys2Proof.Machine.execFunctionLevelReset f s
  | .flrComplete f => Sys2Proof.Machine.execFlrComplete f s
  | .vfEnableClear p => Sys2Proof.Machine.execVfEnableClear p s
  | .d3hotToD0 f => Sys2Proof.Machine.execD3hotToD0 f s
  | .ltrSend p => Sys2Proof.Machine.execLtrSend p s
  | .hpWinCommitGo who p v => Sys2Proof.Machine.execHpWinCommitGo who p v s
  | .windowSetSwitch p => Sys2Proof.Machine.execWindowSetSwitch p s
  | .hpInjectLinkDown who p v => Sys2Proof.Machine.execHpInjectLinkDown who p v s
  | .hpInjectPoison who p v => Sys2Proof.Machine.execHpInjectPoison who p v s
  | .hpInjectTimeout who p v => Sys2Proof.Machine.execHpInjectTimeout who p v s
  | .hpInjectLcrc who p v => Sys2Proof.Machine.execHpInjectLcrc who p v s
  | .sqTailDoorbell f q v => Sys2Proof.Machine.execSqTailDoorbell f q v s
  | .cqHeadDoorbell f q v => Sys2Proof.Machine.execCqHeadDoorbell f q v s
  | .slipFetchDone f q slips => Sys2Proof.Machine.execSlipFetchDone f q slips s
  | .nop f q => Sys2Proof.Machine.execNop f q s
  | .copyIn f q => Sys2Proof.Machine.execCopyIn f q s
  | .copyOut f q => Sys2Proof.Machine.execCopyOut f q s
  | .post f q => Sys2Proof.Machine.execPost f q s
  | .fenceSlip f q => Sys2Proof.Machine.execFenceSlip f q s
  | .abort f q => Sys2Proof.Machine.execAbort f q s
  | .readLog f q => Sys2Proof.Machine.execReadLog f q s
  | .setState f q => Sys2Proof.Machine.execSetState f q s
  | .queryBound f q => Sys2Proof.Machine.execQueryBound f q s
  | .setStateMailboxLoad p payload => Sys2Proof.Machine.execSetStateMailboxLoad p payload s
  | .csqSsDoneWrite who p v => Sys2Proof.Machine.execCsqSsDoneWrite who p v s
  | .csqSsBufWrite who p v => Sys2Proof.Machine.execCsqSsBufWrite who p v s
  | .returnSlipPost f q => Sys2Proof.Machine.execReturnSlipPost f q s
  | .deferredError f q tag poisoned line => Sys2Proof.Machine.execDeferredError f q tag poisoned line s
  | .queueEnable f q v => Sys2Proof.Machine.execQueueEnable f q v s
  | .queueDisable f q v => Sys2Proof.Machine.execQueueDisable f q v s
  | .queueRestart f q v => Sys2Proof.Machine.execQueueRestart f q v s
  | .queueIdleState1 f q => Sys2Proof.Machine.execQueueIdleState1 f q s
  | .queueIdleState2 f q => Sys2Proof.Machine.execQueueIdleState2 f q s
  | .queueIdleExit f q => Sys2Proof.Machine.execQueueIdleExit f q s
  | .csqInjectPoison who v => Sys2Proof.Machine.execCsqInjectPoison who v s
  | .csqInjectLost who v => Sys2Proof.Machine.execCsqInjectLost who v s
  | .ticEnSetWrite who k v => Sys2Proof.Machine.execTicEnSetWrite who k v s
  | .ticEnClrWrite who k v => Sys2Proof.Machine.execTicEnClrWrite who k v s
  | .ticPendSetWrite who k v => Sys2Proof.Machine.execTicPendSetWrite who k v s
  | .ticPendClrWrite who k v => Sys2Proof.Machine.execTicPendClrWrite who k v s
  | .ticClaim who c o => Sys2Proof.Machine.execTicClaim who c o s
  | .ticEoi who c v => Sys2Proof.Machine.execTicEoi who c v s
  | .ticRouteWrite who src v => Sys2Proof.Machine.execTicRouteWrite who src v s
  | .tallyLineDeliver c => Sys2Proof.Machine.execTallyLineDeliver c s
  | .arcCtlCall who k v => Sys2Proof.Machine.execArcCtlCall who k v s
  | .arcCtlRelease who k v => Sys2Proof.Machine.execArcCtlRelease who k v s
  | .carrelTake => Sys2Proof.Machine.execCarrelTake s
  | .info k => Sys2Proof.Machine.execInfo k s
  | .entropy k => Sys2Proof.Machine.execEntropy k s
  | .measure k => Sys2Proof.Machine.execMeasure k s
  | .attest k => Sys2Proof.Machine.execAttest k s
  | .vaultPut k => Sys2Proof.Machine.execVaultPut k s
  | .vaultGet k => Sys2Proof.Machine.execVaultGet k s
  | .floorRaise k => Sys2Proof.Machine.execFloorRaise k s
  | .watermark k => Sys2Proof.Machine.execWatermark k s
  | .watermarkSwitch => Sys2Proof.Machine.execWatermarkSwitch s
  | .slotWrite k => Sys2Proof.Machine.execSlotWrite k s
  | .carrelReturn k => Sys2Proof.Machine.execCarrelReturn k s
  | .carrelScrubEnd k => Sys2Proof.Machine.execCarrelScrubEnd k s
  | .arcOwnerWrite who k v => Sys2Proof.Machine.execArcOwnerWrite who k v s
  | .secureHoldSet b => Sys2Proof.Machine.execSecureHoldSet b s
  | .secureHoldClear b => Sys2Proof.Machine.execSecureHoldClear b s
  | .securePreemptExpire => Sys2Proof.Machine.execSecurePreemptExpire s
  | .tamper => Sys2Proof.Machine.execTamper s
  | .vaultZeroEnd => Sys2Proof.Machine.execVaultZeroEnd s
  | .arcInjectTamper who v => Sys2Proof.Machine.execArcInjectTamper who v s
  | .arcInjectVault who v => Sys2Proof.Machine.execArcInjectVault who v s
  | .telemetryRecord d t => Sys2Proof.Machine.execTelemetryRecord d t s
  | .telemetryLost d => Sys2Proof.Machine.execTelemetryLost d s
  | .pwrPkgWrite p v => Sys2Proof.Machine.execPwrPkgWrite p v s
  | .pwrDieWrite p v => Sys2Proof.Machine.execPwrDieWrite p v s
  | .diePassReached d => Sys2Proof.Machine.execDiePassReached d s
  | .dieFoldReached d => Sys2Proof.Machine.execDieFoldReached d s
  | .wakeStepEnd o => Sys2Proof.Machine.execWakeStepEnd o s
  | .iodBlockPlay b => Sys2Proof.Machine.execIodBlockPlay b s
  | .thermalThrottle d => Sys2Proof.Machine.execThermalThrottle d s
  | .dieTrip d => Sys2Proof.Machine.execDieTrip d s
  | .iodTrip cause => Sys2Proof.Machine.execIodTrip cause s
  | .tripRelease u => Sys2Proof.Machine.execTripRelease u s
  | .thermtrip => Sys2Proof.Machine.execThermtrip s
  | .powerLimitCheck m => Sys2Proof.Machine.execPowerLimitCheck m s
  | .opRiseCheck d => Sys2Proof.Machine.execOpRiseCheck d s
  | .heatAccount inlet outlet => Sys2Proof.Machine.execHeatAccount inlet outlet s
  | .opReqWrite who d v => Sys2Proof.Machine.execOpReqWrite who d v s
  | .issueLevelGrant c => Sys2Proof.Machine.execIssueLevelGrant c s
  | .issueLevelReset c => Sys2Proof.Machine.execIssueLevelReset c s
  | .sckInjectInlet who v => Sys2Proof.Machine.execSckInjectInlet who v s
  | .sckInjectIodTrip who v => Sys2Proof.Machine.execSckInjectIodTrip who v s
  | .sckInjectTrip who v => Sys2Proof.Machine.execSckInjectTrip who v s
  | .sckInjectTelem who v => Sys2Proof.Machine.execSckInjectTelem who v s
  | .fltHeadWrite who v => Sys2Proof.Machine.execFltHeadWrite who v s
  | .fltDieCmdStop who v => Sys2Proof.Machine.execFltDieCmdStop who v s
  | .fltDieCmdRejoin who v => Sys2Proof.Machine.execFltDieCmdRejoin who v s
  | .autoRejoin d => Sys2Proof.Machine.execAutoRejoin d s
  | .rejoinRailHoldEnd d => Sys2Proof.Machine.execRejoinRailHoldEnd d s
  | .rejoinFolioReapply d => Sys2Proof.Machine.execRejoinFolioReapply d s
  | .dieEnterService d => Sys2Proof.Machine.execDieEnterService d s
  | .houseRestart => Sys2Proof.Machine.execHouseRestart s
  | .fltInjectArm who v => Sys2Proof.Machine.execFltInjectArm who v s
  | .dealWordReload p k => Sys2Proof.Machine.execDealWordReload p k s
  | .counterWrap u event => Sys2Proof.Machine.execCounterWrap u event s
  | .mjsctlEnable c o => Sys2Proof.Machine.execMjsctlEnable c o s
  | .sampleRecord c m => Sys2Proof.Machine.execSampleRecord c m s
  | .i3cPrivateWrite bytes => Sys2Proof.Machine.execI3cPrivateWrite bytes s
  | .i3cPrivateRead n => Sys2Proof.Machine.execI3cPrivateRead n s
  | .setdasa addr => Sys2Proof.Machine.execSetdasa addr s
  | .entdaa addr => Sys2Proof.Machine.execEntdaa addr s
  | .arcImgBegin v => Sys2Proof.Machine.execArcImgBegin v s
  | .arcImgWrite v => Sys2Proof.Machine.execArcImgWrite v s
  | .arcImgFinish v => Sys2Proof.Machine.execArcImgFinish v s
  | .imageOpComplete => Sys2Proof.Machine.execImageOpComplete s
  | .tapReset => Sys2Proof.Machine.execTapReset s
  | .extest => Sys2Proof.Machine.execExtest s
  | .idcode => Sys2Proof.Machine.execIdcode s
  | .samplePreload capture preload => Sys2Proof.Machine.execSamplePreload capture preload s
  | .clamp => Sys2Proof.Machine.execClamp s
  | .highz => Sys2Proof.Machine.execHighz s
  | .bypass => Sys2Proof.Machine.execBypass s
  | .dieLinkUp d => Sys2Proof.Machine.execDieLinkUp d s
  | .d0ToD3hot f => Sys2Proof.Machine.execD0ToD3hot f s

end Sys2Proof.Machine
end

