-- ==== Sys2Proof/Machine/Step.lean ====
section
/-! DEFINITION. One step of the package: the command at the front of the queue, or one IOD fabric cycle of idling. -/

namespace Sys2Proof.Machine

/-- The command at the front of the queue runs with the rest of the queue; on an empty queue one IOD fabric cycle
passes, but for the package reset, in which the timer stands at zero (R124; DESIGN CHOICE, log entry 1). -/
def step (s : State) : Host.Outcome State Fault Refusal :=
  match s.pending with
  | [] => .next (if s.mgmt.inReset then s else { s with cycle := s.cycle + 1 })
  | c :: rest => exec c { s with pending := rest }

/-- The state with the command that a table word spells put at the front of its queue; unchanged where the word spells
none. -/
def State.withFetchWord (s : State) (nbits w : Nat) : State :=
  match decodeTableWord nbits w with
  | some c => { s with pending := c :: s.pending }
  | none => s

end Sys2Proof.Machine
end

