-- ==== Sys2Proof/Safety.lean ====
section
/-! DEFINITION. What counts as a safe run: every command is answered with a next state, and the state keeps its form. The frames in
which statements say what a command leaves alone. -/

namespace Sys2Proof

open Sys2Proof.Machine

/-- A step that goes on: neither a fault nor a refusal. -/
def goesOn (o : Host.Outcome State Fault Refusal) : Prop := ∃ t, o = .next t

/-- The form that every state keeps: the memory is canonical. -/
def Inv (s : State) : Prop := Memory.wf s.dram = true

namespace Machine

/-- Every register reads as before, but those listed. -/
def regsBut (s t : State) (l : List Reg) : Prop := ∀ r : Reg, (∀ q ∈ l, r.key ≠ q.key) → t.rd r = s.rd r

/-- Every direction of a die link is as before, but those listed. -/
def linksBut (s t : State) (l : List (Nat × Dir)) : Prop :=
  ∀ d dir, (∀ e ∈ l, linkKey d dir ≠ linkKey e.1 e.2) → t.link d dir = s.link d dir

/-- Every arbitration point is as before, but those listed. -/
def pointsBut (s t : State) (l : List Nat) : Prop := ∀ p, p ∉ l → t.point p = s.point p

/-- Every home slice is as before, but those listed. -/
def slicesBut (s t : State) (l : List Nat) : Prop := ∀ n, n ∉ l → t.slice n = s.slice n

/-- Every compute die is as before, but those listed. -/
def diesBut (s t : State) (l : List Nat) : Prop := ∀ d, d ∉ l → t.die d = s.die d

/-- Every core is as before, but those listed. -/
def coresBut (s t : State) (l : List Nat) : Prop := ∀ c, c ∉ l → t.core c = s.core c

/-- Every memory channel is as before, but those listed. -/
def chansBut (s t : State) (l : List Nat) : Prop := ∀ n, n ∉ l → t.chan n = s.chan n

/-- Every host port is as before, but those listed. -/
def portsBut (s t : State) (l : List Nat) : Prop := ∀ p, p ∉ l → t.port p = s.port p

/-- Every function is as before, but those listed. -/
def fnsBut (s t : State) (l : List FnId) : Prop := ∀ f, (∀ g ∈ l, f.key ≠ g.key) → t.fn f = s.fn f

/-- Every queue pair is as before, but those of the functions listed. -/
def queuesBut (s t : State) (l : List (FnId × Nat)) : Prop :=
  ∀ f q, (∀ g ∈ l, f.key * 16 + q ≠ g.1.key * 16 + g.2) → t.queue f q = s.queue f q

/-- The ledger machinery of every hand is as before, but those listed. -/
def ledgersBut (s t : State) (l : List Nat) : Prop := ∀ h, h ∉ l → t.ledger h = s.ledger h

/-- Every event count is as before, but those listed by unit and event. -/
def eventsBut (s t : State) (l : List (Nat × Nat)) : Prop :=
  ∀ u e, (∀ k ∈ l, u * 2 ^ 16 + e ≠ k.1 * 2 ^ 16 + k.2) → t.eventCount u e = s.eventCount u e

/-- An instruction of `len` bytes of a core in an open hand has retired: the core is `k` with the pc moved on and one more
instruction counted, minstret has counted it unless mcountinhibit says otherwise, and the registers listed may have changed. -/
def retiredBut (s t : State) (c len : Nat) (k : Core) (l : List Reg) : Prop :=
  t.core c = { k with pc := k.pc + BitVec.ofNat 64 len, count := k.count + 1 } ∧
  t.csr c 0xB02 = (if (s.csr c 0x320).getLsbD 2 then s.csr c 0xB02 else s.csr c 0xB02 + 1) ∧
  coresBut s t [c] ∧ regsBut s t (.CSR c 0xB02 :: l)

/-- An instruction has retired and has changed nothing but its core. -/
def retired (s t : State) (c len : Nat) (k : Core) : Prop :=
  retiredBut s t c len k [] ∧ t = { s with regs := t.regs, cores := t.cores }

/-- The sender of a command is no core of a ledger hand, so R249 bars it from no register. -/
abbrev notLedger (s : State) (who : Agent) : Prop := ∀ c, who = .core c → s.ledgerCore c = false

/-- Core `c` belongs to a ledger hand that R249 bars from register `r`. -/
abbrev bars (s : State) (c : Fin 384) (r : Reg) : Prop := s.ledgerCore c = true ∧ ledgerMay s c r = false

/-- A write of `r` by core `c` that R249 bars: LEDGER_ACCESS, with the register's physical address. -/
abbrev barredWrite (s : State) (c : Fin 384) (r : Reg) : Host.Outcome State Fault Refusal :=
  .next (ledgerAccess s c (BitVec.ofNat 64 r.key))

/-- The lines of an L3 that the next visit of the Shelver's walk finds: those of a set in index mode, one line otherwise (R193). -/
def shvFound (s : State) (d : Nat) (o : ShvOp) : List L3Line :=
  let i := s.get (.SHV_PROGRESS d) F.SHV_PROGRESS_DONE_COUNT
  (s.die d).l3.filter (fun e =>
    if s.bit (.SHV_STATUS d) F.SHV_STATUS_INDEX_MODE then l3Set e.line == i % 24 * 2048 + i / 24 && shvCovers o e.line e.hand
    else e.line == o.base + i)

/-- Whether R203 lets a lock range stand: it is not empty, and it lies wholly in windows of its hand. -/
def lockFits (s : State) (d k : Nat) (w : Word) : Bool :=
  F.SHV_LOCK_SIZE_SIZE.get w != 0 && covered s (F.SHV_LOCK_SIZE_HAND.get w)
    (s.get (.SHV_LOCK_BASE d k) F.SHV_LOCK_BASE_BASE * 64) (F.SHV_LOCK_SIZE_SIZE.get w * 64)

/-- Nothing keeps a message out of the pipeline of its home slice `n`: entry is neither suspended nor folded, no denial is injected, and
its line is no vault line for it (R206, R233, R395, R410, R432). -/
def entersSlice (s : State) (m : Msg) (n : Nat) : Prop :=
  sliceOf s m.line = n ∧ (s.slice n).suspend = false ∧ sliceFolded s n = false ∧
  s.bit .ARC_INJECT F.ARC_INJECT_VAULT = false ∧ (inVault s m.line = false ∨ isSecure m = true)

/-- The one fetched slip `b` of a running queue, of opcode `op`, passes its admission check, no other slip of its function is in progress,
and it may start at once (R350, R354, R370). -/
def admits (s : State) (f : FnId) (q op : Nat) (b : LineData) : Prop :=
  qState s f q = 1 ∧ (s.queue f q).fetched = [b] ∧ State.slipOpcode b = op ∧ q < fnQueues s f ∧ fnQueues s f ≤ 16 ∧
  (∀ k, k < 16 → (s.queue f k).running = []) ∧ s.get (.QP_STATE f.key q) F.QP_STATE_IDLE = 0 ∧ fnMayIssue s f = true ∧
  admission ((refill s f).setQueue f q { s.queue f q with fetched := [] }) f q b = none

/-- The ring index of the first fetched slip of a queue. -/
def headIndex (s : State) (f : FnId) (q : Nat) : Nat :=
  (sqHead s f q + depthOf s f - (s.queue f q).fetched.length) % depthOf s f

end Machine

end Sys2Proof
end

