-- ==== Sys2Proof/Certificates/Slice0/Obligations.lean ====
section
/-! DEFINITION. The statements about the package: what each command does on a state that meets its conditions, what it leaves alone, and what
every step keeps. A statement of several parts is the conjunction of its parts, each a `Claim`. -/

open Sys2Proof Sys2Proof.Machine

/-- PARCEL_RECEIVE (R24, R25, R29, R30, R32): with no injection armed and a FIFO fill between 2 and 6, a good parcel with the expected
sequence number is accepted: the receiver expects the next number, the parcel enters the FIFO, and GOOD goes back. A parcel whose CRCs
fail in the place of the expected one is rejected: the receiver keeps its bits, and BAD goes back. A good parcel with any other sequence
number is discarded with BAD. A parcel that is not accepted is an idle place in the FIFO. The oldest parcels leave the FIFO until it holds
the fill: they are in the receiver's fabric, the messages among them that came up stand at their home slices, and shadow words and COMMIT
that went down are at the die. Nothing else changes. -/
def Obligations.LinkParcelReceive : Prop :=
  (∀ (d : Fin 16) (dir : Dir) (fill : Nat) (p : Parcel) (s : State) (q out : List SentParcel),
    linkUp s d = true → (s.link d dir).remap = none → s.rd (.DL_INJECT d) = 0 → 2 ≤ fill → fill ≤ 6 →
    (p.seq &&& 0x1F).toNat = (s.link d dir).expSeq → parcelGood (crcSeq s d) p = true → (parcelMsgs d dir p.bits).isSome = true →
    (s.link d dir).kept = none →
    q = (s.link d dir).fifo ++ [⟨(s.link d dir).expSeq, p.bits,
      (((s.link d dir).replay.find? (fun x => x.seq == (s.link d dir).expSeq)).getD SentParcel.idle).mgmt⟩] →
    out = q.take (q.length - fill) →
    ∃ t, exec (.parcelReceive d dir fill p) s = .next t ∧
      t.link d dir = { s.link d dir with
        expSeq := ((s.link d dir).expSeq + 1) % 32, rejects := 0, kept := none,
        fifo := List.replicate (fill - q.length) SentParcel.idle ++ q.drop (q.length - fill), freg := out,
        status := (s.link d dir).status ++ [statusByte (s.link d dir).expSeq true] } ∧
      (dir = .up → t.points = ((out.flatMap (fun x => (parcelMsgs d dir x.bits).getD [])).foldl
        (fun (u : State) m => u.send (0x20 + sliceOf s m.line) d m) s).points) ∧
      (dir = .dn → (∀ k, k ≠ d.val → t.point k = s.point k) ∧ t.point d = { s.point d with
        rcvd := receiveWords (s.point d).rcvd (out.flatMap (·.mgmt)),
        commitIn := (s.point d).commitIn || (out.flatMap (·.mgmt)).contains [] }) ∧
      linksBut s t [(d, dir)] ∧ regsBut s t [.DL_STATUS d] ∧
      t = { s with regs := t.regs, links := t.links, points := t.points }) ∧
  (∀ (d : Fin 16) (dir : Dir) (fill : Nat) (p : Parcel) (s : State),
    linkUp s d = true → (s.link d dir).remap = none → s.rd (.DL_INJECT d) = 0 → 2 ≤ fill → fill ≤ 6 →
    ((p.seq &&& 0x1F).toNat = (s.link d dir).expSeq ∨ (s.link d dir).kept = none) → parcelGood (crcSeq s d) p = false →
    ∃ t, exec (.parcelReceive d dir fill p) s = .next t ∧
      t.link d dir = { s.link d dir with
        rejects := if p.seq.getLsbD 5 then (s.link d dir).rejects + 1 else 0, kept := some p,
        fifo := ((throughFifo s d dir fill SentParcel.idle).link d dir).fifo,
        freg := ((throughFifo s d dir fill SentParcel.idle).link d dir).freg,
        status := (s.link d dir).status ++ [statusByte (s.link d dir).expSeq false] } ∧
      t.points = (throughFifo s d dir fill SentParcel.idle).points ∧
      t.rd (.DL_ERR d) = s.rd (.DL_ERR d) ||| (match dir with | .up => 1 | .dn => 2) ∧
      linksBut s t [(d, dir)] ∧ regsBut s t [.DL_STATUS d, .DL_ERR d] ∧
      t = { s with regs := t.regs, links := t.links, points := t.points }) ∧
  (∀ (d : Fin 16) (dir : Dir) (fill : Nat) (p : Parcel) (s : State),
    linkUp s d = true → (s.link d dir).remap = none → s.rd (.DL_INJECT d) = 0 → 2 ≤ fill → fill ≤ 6 →
    (p.seq &&& 0x1F).toNat ≠ (s.link d dir).expSeq →
    (parcelGood (crcSeq s d) p = true ∧ (parcelMsgs d dir p.bits).isSome = true) ∨ (s.link d dir).kept ≠ none →
    ∃ t, exec (.parcelReceive d dir fill p) s = .next t ∧
      t.link d dir = { s.link d dir with
        fifo := ((throughFifo s d dir fill SentParcel.idle).link d dir).fifo,
        freg := ((throughFifo s d dir fill SentParcel.idle).link d dir).freg,
        status := (s.link d dir).status ++ [statusByte (p.seq &&& 0x1F).toNat false] } ∧
      t.points = (throughFifo s d dir fill SentParcel.idle).points ∧
      linksBut s t [(d, dir)] ∧ regsBut s t [.DL_STATUS d] ∧
      t = { s with regs := t.regs, links := t.links, points := t.points })

/-- STATUS_BYTE_RECEIVE and STATUS_TIMEOUT (R30, R31): GOOD frees its parcel; BAD for a buffered parcel, or 14 parcel times without GOOD,
starts a replay, counted in DL_REPLAYS: that parcel and every later one goes out again in order; a byte with wrong parity, or GOOD equal to BAD,
is as absent. The frame's sequence number and the other direction stay. -/
def Claim.LinkStatus : Prop :=
  (∀ (d : Fin 16) (dir : Dir) (b : Byte) (s : State), statusValid b = true → b.getLsbD 5 = true →
    ∃ t, exec (.statusByteReceive d dir b) s = .next t ∧
      t.link d dir = { s.link d dir with
        replay := (s.link d dir).replay.filter (fun x => x.seq != (b &&& 0x1F).toNat),
        resend := (s.link d dir).resend.filter (fun q => q != (b &&& 0x1F).toNat),
        status := (s.link d dir).status.tail } ∧
      linksBut s t [(d, dir)] ∧ t = { s with links := t.links }) ∧
  (∀ (d : Fin 16) (dir : Dir) (b : Byte) (s : State), statusValid b = true → b.getLsbD 5 = false →
    (s.link d dir).replay.any (fun x => x.seq == (b &&& 0x1F).toNat) = true → (s.link d dir).resend = [] →
    ∃ t, exec (.statusByteReceive d dir b) s = .next t ∧
      t.link d dir = { s.link d dir with
        resend := ((s.link d dir).replay.map (·.seq)).dropWhile (fun q => q != (b &&& 0x1F).toNat),
        status := (s.link d dir).status.tail } ∧
      (match dir with
        | .up => t.rd (.DL_REPLAYS d) = (s.inc (.DL_REPLAYS d) F.DL_REPLAYS_REPLAY_UP).rd (.DL_REPLAYS d)
        | .dn => t.rd (.DL_REPLAYS d) = (s.inc (.DL_REPLAYS d) F.DL_REPLAYS_REPLAY_DN).rd (.DL_REPLAYS d)) ∧
      linksBut s t [(d, dir)] ∧ regsBut s t [.DL_REPLAYS d] ∧ t = { s with regs := t.regs, links := t.links }) ∧
  (∀ (d : Fin 16) (dir : Dir) (b : Byte) (s : State), statusValid b = false →
    ∃ t, exec (.statusByteReceive d dir b) s = .next t ∧
      t.link d dir = { s.link d dir with status := (s.link d dir).status.tail } ∧
      linksBut s t [(d, dir)] ∧ t = { s with links := t.links }) ∧
  (∀ (d : Fin 16) (dir : Dir) (q : BitVec 5) (s : State),
    (s.link d dir).replay.any (fun x => x.seq == q.toNat) = true →
    ∃ t, exec (.statusTimeout d dir q) s = .next t ∧
      t.link d dir = { s.link d dir with
        resend := ((s.link d dir).replay.map (·.seq)).dropWhile (fun k => k != q.toNat) } ∧
      t.rd (.DL_ERR d) = s.rd (.DL_ERR d) ||| 8 ∧
      linksBut s t [(d, dir)] ∧ regsBut s t [.DL_ERR d, .DL_REPLAYS d] ∧
      t = { s with regs := t.regs, links := t.links })

/-- LINK_TRAINING, DIE_LINK_UP and TRAINING_STEP_TIMEOUT (R40 to R44, R418): a link in training whose die leaves Out trains without lane
faults: it is UP with HB_OK set, FIFOs at 4, sequence numbers 0 and buffers empty; DL_CAP_DIE and DL_FEAT_DIE hold what the die sent, and
DL_FEAT_EFF is the AND of the feature words with VALID. Other links train nothing. A step that does not end in time puts the link
DOWN with its row's error bit; a die that leaves Fold has no step 2 or 3, and its DIE_LINK_UP leaves the repair registers. Outside: a rejoin,
with recorded values of R47. -/
def Claim.LinkTraining : Prop :=
  (∀ (d : Fin 16) (o : DieOffer) (s : State), trainsFromOut s d = true → 2 ≤ o.rev.toNat / 16 → (s.die d).capOld = none →
    ∃ t, exec (.linkTraining d o []) s = .next t ∧
      t.get (.DL_STATUS d) F.DL_STATUS_STATE = 2 ∧ t.get (.DL_STATUS d) F.DL_STATUS_HB_OK = 1 ∧
      t.get (.DL_STATUS d) F.DL_STATUS_FILL_UP = 4 ∧ t.get (.DL_STATUS d) F.DL_STATUS_FILL_DN = 4 ∧
      t.link d .up = Link.trained ∧ t.link d .dn = Link.trained ∧ t.die d = { s.die d with remaps := [] } ∧
      t.rd (.DL_CAP_DIE d) = BitVec.ofNat 64 (o.coreGood.toNat * 2 ^ 16 + o.rev.toNat) ∧
      t.rd (.DL_FEAT_DIE d) = BitVec.ofNat 64 o.feat.toNat ∧
      t.rd (.DL_FEAT_EFF d) = BitVec.ofNat 64 (2 ^ 63 + (o.feat &&& 0xFF).toNat) ∧
      linksBut s t [(d, .up), (d, .dn)] ∧ diesBut s t [d.val] ∧
      t = { s with regs := t.regs, links := t.links, dies := t.dies }) ∧
  (∀ (d : Fin 16) (step : Fin 6) (s : State), linkState s d = 1 → step ≠ 0 →
    s.get (.SCK_DIE d) F.SCK_DIE_STATE ≠ 2 ∨ (step ≠ 2 ∧ step ≠ 3) →
    s.get (.FLT_DIE d) F.FLT_DIE_STATE ≠ 3 → (s.die d).capOld = none →
    exec (.trainingStepTimeout d step) s = .next
      ((setLinkState s d 0).raise (.DL_ERR d)
        ([0, 8, 6, 9, 2, 7].getD step.val 0) ([0, 3, 2, 4, 0, 3].getD step.val 0) (0x2100 + d.val) none
        ([0, 3, 1, 3, 1, 3].getD step.val 0) 0)) ∧
  (∀ (d : Fin 16) (step : Fin 6) (s : State), linkState s d ≠ 1 ∨ (s.get (.SCK_DIE d) F.SCK_DIE_STATE = 2 ∧ (step = 2 ∨ step = 3)) →
    exec (.trainingStepTimeout d step) s = .next s) ∧
  (∀ (d : Fin 16) (o : DieOffer) (s : State), trainsFromOut s d = false → exec (.linkTraining d o []) s = .next s) ∧
  (∀ (d : Fin 16) (s : State), linkState s d = 1 → s.get (.SCK_DIE d) F.SCK_DIE_STATE = 2 →
    ∃ t, exec (.dieLinkUp d) s = .next t ∧ t.get (.DL_STATUS d) F.DL_STATUS_STATE = 2 ∧
      t.get (.DL_STATUS d) F.DL_STATUS_HB_OK = 1 ∧ t.get (.DL_STATUS d) F.DL_STATUS_FILL_UP = 4 ∧
      t.get (.DL_STATUS d) F.DL_STATUS_FILL_DN = 4 ∧ t.link d .up = { Link.trained with rises := (s.link d .up).rises } ∧
      t.link d .dn = { Link.trained with rises := (s.link d .dn).rises } ∧
      linksBut s t [(d, .up), (d, .dn)] ∧ regsBut s t [.DL_STATUS d] ∧ t = { s with regs := t.regs, links := t.links }) ∧
  (∀ (d : Fin 16) (s : State), linkState s d ≠ 1 ∨ s.get (.SCK_DIE d) F.SCK_DIE_STATE ≠ 2 → exec (.dieLinkUp d) s = .next s)

/-- HB_LOST, CLK_LOST and REPLAY_FAIL (R33, R35, R440): a lost heartbeat clears HB_OK and sets HB_LOST, a stopped clock sets CLK_LOST, of a link
that R35 watches; a parcel rejected on eight consecutive replays sets REPLAY_FAIL, and the die is stopped with cause 1. DL_INJECT.HB does
what the loss does at its write, and reads zero. -/
def Claim.LinkLoss : Prop :=
  (∀ (d : Fin 16) (s : State), watched s d = true →
    ∃ t, exec (.hbLost d) s = .next t ∧ t.get (.DL_STATUS d) F.DL_STATUS_HB_OK = 0 ∧
      t.get (.DL_STATUS d) F.DL_STATUS_STATE = s.get (.DL_STATUS d) F.DL_STATUS_STATE ∧
      t.rd (.DL_ERR d) = s.rd (.DL_ERR d) ||| 0x80 ∧
      regsBut s t [.DL_STATUS d, .DL_ERR d] ∧ t = { s with regs := t.regs }) ∧
  (∀ (d : Fin 16) (s : State), watched s d = true →
    ∃ t, exec (.clkLost d) s = .next t ∧ t.rd (.DL_ERR d) = s.rd (.DL_ERR d) ||| 0x100 ∧
      regsBut s t [.DL_ERR d] ∧ t = { s with regs := t.regs }) ∧
  (∀ (d : Fin 16) (dir : Dir) (s : State), 8 ≤ (s.link d dir).rejects → linkUp s d = true →
    exec (.replayFail d dir) s = .next (dieStop (s.put (.DL_ERR d) F.DL_ERR_REPLAY_FAIL 1) d 1)) ∧
  (∀ (who : Agent) (d : Fin 16) (s : State), s.isHouse who = true →
    ∃ t, exec (.dlInjectHb who d 8) s = .next t ∧ t.get (.DL_STATUS d) F.DL_STATUS_HB_OK = 0 ∧
      t.rd (.DL_ERR d) = s.rd (.DL_ERR d) ||| 0x80 ∧ t.bit (.DL_INJECT d) F.DL_INJECT_HB = false ∧
      regsBut s t [.DL_INJECT d, .DL_STATUS d, .DL_ERR d] ∧ t = { s with regs := t.regs })

/-- LANE_REMAP_START, REMAP_COMPLETE and DL_REPAIR_CMD (R37 to R39): with AUTO set, a lane whose count rose by THRESH within WINDOW_US and
whose group's spare is free stalls its direction and the link reads REMAP; with the spare in use SPARE_EXHAUSTED sets and nothing is remapped;
a lane whose turn comes during a remap waits, one below its threshold does nothing; the end of a remap puts the lane's code at the spare,
the FIFO at 4, sets SPARE_USED and replays from the oldest parcel. GO from the house supervisor remaps at once; anyone else's write, or one
during a remap, changes nothing. -/
def Claim.LinkRepair : Prop :=
  (∀ (d : Fin 16) (dir : Dir) (g : Fin 8) (lane : BitVec 6) (s : State),
    linkUp s d = true → s.bit (.DL_REPAIR_CFG d) F.DL_REPAIR_CFG_AUTO = true → dlSpare s d = true →
    laneCode g lane.toNat = true → laneDue s d dir g (lane.toNat - 1) = true → spareOf s d dir g = 0 → remapping s d = false →
    ∃ t, exec (.laneRemapStart d dir g lane) s = .next t ∧
      t.link d dir = { s.link d dir with
        rises := (s.link d dir).rises.filter (fun e => !(e.1 == g.val && e.2.1 == lane.toNat - 1)),
        remap := some (g.val, lane.toNat) } ∧
      t.get (.DL_STATUS d) F.DL_STATUS_STATE = 3 ∧ linksBut s t [(d, dir)] ∧ regsBut s t [.DL_STATUS d] ∧
      t = { s with regs := t.regs, links := t.links }) ∧
  (∀ (d : Fin 16) (dir : Dir) (g : Fin 8) (lane : BitVec 6) (s : State),
    linkUp s d = true → s.bit (.DL_REPAIR_CFG d) F.DL_REPAIR_CFG_AUTO = true → dlSpare s d = true →
    laneCode g lane.toNat = true → laneDue s d dir g (lane.toNat - 1) = true → spareOf s d dir g = 0 → remapping s d = true →
    ∃ t, exec (.laneRemapStart d dir g lane) s = .next t ∧
      t.die d = { s.die d with remaps := (s.die d).remaps ++ [(dir, g.val, lane.toNat)] } ∧
      (t.link d dir).remap = (s.link d dir).remap ∧
      diesBut s t [d.val] ∧ linksBut s t [(d, dir)] ∧ t = { s with links := t.links, dies := t.dies }) ∧
  (∀ (d : Fin 16) (dir : Dir) (g : Fin 8) (lane : BitVec 6) (s : State),
    linkUp s d = true → s.bit (.DL_REPAIR_CFG d) F.DL_REPAIR_CFG_AUTO = true → dlSpare s d = true →
    laneCode g lane.toNat = true → laneDue s d dir g (lane.toNat - 1) = true → spareOf s d dir g ≠ 0 →
    exec (.laneRemapStart d dir g lane) s =
      .next ((s.setLink d dir { s.link d dir with
        rises := (s.link d dir).rises.filter (fun e => !(e.1 == g.val && e.2.1 == lane.toNat - 1)) }).raise
          (.DL_ERR d) 6 2 (0x2100 + d.val) none 1 0)) ∧
  (∀ (d : Fin 16) (dir : Dir) (g : Fin 8) (lane : BitVec 6) (s : State),
    s.bit (.DL_REPAIR_CFG d) F.DL_REPAIR_CFG_AUTO = false ∨ laneDue s d dir g (lane.toNat - 1) = false →
    exec (.laneRemapStart d dir g lane) s = .next s) ∧
  (∀ (d : Fin 16) (dir : Dir) (s : State) (g code : Nat), (s.link d dir).remap = some (g, code) →
    (s.die d).remaps = [] → (s.link d (otherDir dir)).remap = none → (s.link d dir).fifo.length ≤ 4 →
    exec (.remapComplete d dir) s = .next
      ((setLinkState ((setFill (s.put (repairReg d dir) (F.DL_REPAIR_UP_SPARE g) code) d dir 4).setLink d dir
        { s.link d dir with
          remap := none, resend := (s.link d dir).replay.map (·.seq), freg := [],
          fifo := List.replicate (4 - (s.link d dir).fifo.length) SentParcel.idle ++ (s.link d dir).fifo }) d 2).raise
          (.DL_ERR d) 5 1 (0x2100 + d.val) none 1 0)) ∧
  (∀ (who : Agent) (d : Fin 16) (v : Word) (s : State) (dir : Dir), s.isHouse who = true →
    F.DL_REPAIR_CMD_GO.get v = 1 → dir = (if F.DL_REPAIR_CMD_DIR.get v = 0 then .up else .dn) →
    linkState s d = 2 → (s.link d dir).remap = none → spareOf s d dir (F.DL_REPAIR_CMD_GROUP.get v) = 0 →
    laneCode (F.DL_REPAIR_CMD_GROUP.get v) (F.DL_REPAIR_CMD_LANE.get v) = true → dlSpare s d = true →
    ∃ t, exec (.dlRepairCmdGo who d v) s = .next t ∧
      (t.link d dir).remap = some (F.DL_REPAIR_CMD_GROUP.get v, F.DL_REPAIR_CMD_LANE.get v) ∧
      t.get (.DL_STATUS d) F.DL_STATUS_STATE = 3 ∧ linksBut s t [(d, dir)] ∧ regsBut s t [.DL_STATUS d] ∧
      t = { s with regs := t.regs, links := t.links }) ∧
  (∀ (who : Agent) (d : Fin 16) (v : Word) (s : State), s.isHouse who = false ∨ linkState s d = 3 →
    exec (.dlRepairCmdGo who d v) s = .next s)

/-- DL_INJECT (R48): a write by the house supervisor that leaves HB clear stores every field, LANE_FLIP clear where COUNT is zero; a write by
another agent changes nothing. Each of the five commands is such a write. -/
def Claim.LinkInject : Prop :=
  ∀ (who : Agent) (d : Fin 16) (v : Word) (s : State),
    (s.isHouse who = false →
      exec (.dlInjectLaneFlip who d v) s = .next s ∧ exec (.dlInjectFifo who d v) s = .next s ∧
      exec (.dlInjectStatus who d v) s = .next s ∧ exec (.dlInjectCrcDn who d v) s = .next s ∧
      exec (.dlInjectCrcUp who d v) s = .next s ∧ exec (.dlInjectHb who d v) s = .next s) ∧
    (s.isHouse who = true → v.getLsbD 3 = false → v &&& 0xFF000000 ≠ 0 →
      exec (.dlInjectLaneFlip who d v) s = .next (s.wr (.DL_INJECT d) ((Reg.DL_INJECT d).written (s.rd (.DL_INJECT d)) v)) ∧
      exec (.dlInjectFifo who d v) s = .next (s.wr (.DL_INJECT d) ((Reg.DL_INJECT d).written (s.rd (.DL_INJECT d)) v)) ∧
      exec (.dlInjectStatus who d v) s = .next (s.wr (.DL_INJECT d) ((Reg.DL_INJECT d).written (s.rd (.DL_INJECT d)) v)) ∧
      exec (.dlInjectCrcDn who d v) s = .next (s.wr (.DL_INJECT d) ((Reg.DL_INJECT d).written (s.rd (.DL_INJECT d)) v)) ∧
      exec (.dlInjectCrcUp who d v) s = .next (s.wr (.DL_INJECT d) ((Reg.DL_INJECT d).written (s.rd (.DL_INJECT d)) v)))

/-- Die links: status bytes, training, loss, spare-lane repair and injection. -/
def Obligations.LinkControl : Prop :=
  Claim.LinkStatus ∧ Claim.LinkTraining ∧ Claim.LinkLoss ∧ Claim.LinkRepair ∧ Claim.LinkInject

/-- PACKAGE_RESET, MAIN_PWROK_LOSS and REFCLK_LOST (R466, R468): every register reads its reset value (but PERST of HP_LINK, which
shows a pin), mtime and every tally are zero, and no unit holds anything of what it held; fuses, flash and the vault's records stay.
STBY_PWROK_LOSS only takes the standby supply away. The supplies read good after PACKAGE_RESET by the model's choice (log entry 14). -/
def Claim.ResetPackage : Prop :=
  (∀ s : State, ∃ t, exec .packageReset s = .next t ∧ regsBut State.reset t ((List.range 8).map Reg.HP_LINK) ∧
    t.mtime = 0 ∧ (∀ n : Fin 8192, t.tally n = 0) ∧ t.arc = resetArc s.arc ∧ t.arc.flash = s.arc.flash ∧ t.arc.floors = s.arc.floors ∧
    t.arc.rootHash = s.arc.rootHash ∧ t.arc.vault = s.arc.vault ∧ t.mgmt.inReset = true ∧ t.mgmt.low = true ∧
    t = { State.reset with
      regs := t.regs, arc := t.arc, mgmt := t.mgmt, tap := t.tap, free := s.free, out := s.out, pending := s.pending }) ∧
  (∀ s : State, s.mgmt.inReset = false → ∃ t, exec .mainPwrokLoss s = .next t ∧
    t = { resetUnits s with mgmt := { (resetUnits s).mgmt with main := false, low := false } } ∧
    t.mgmt.inReset = true ∧ (∀ n : Fin 8192, t.tally n = 0) ∧ t.mtime = 0) ∧
  (∀ s : State, s.mgmt.inReset = false → ∃ t, exec .refclkLost s = .next t ∧
    t = { resetUnits s with mgmt := { (resetUnits s).mgmt with clock := false, low := false } } ∧
    t.mgmt.inReset = true ∧ (∀ n : Fin 8192, t.tally n = 0) ∧ t.mtime = 0) ∧
  (∀ s : State, exec .stbyPwrokLoss s = .next { s with mgmt := { s.mgmt with stby := false } })

/-- PACKAGE_RESET_RELEASE (R468, R471): after a reset that the pins have held for 1 µs, with both supplies good and the clock running,
the straps are sampled and boot starts at phase 1, which FOL_STATE shows and the management port reports. Otherwise nothing. -/
def Claim.ResetRelease : Prop :=
  (∀ (straps : BitVec 4) (s : State), s.mgmt.inReset = true → s.mgmt.low = true → s.mgmt.main = true → s.mgmt.clock = true →
    s.mgmt.stby = true → s.get .FOL_STATE F.FOL_STATE_STATE = 0 →
    ∃ t, exec (.packageResetRelease straps) s = .next t ∧ t.get .FOL_STATE F.FOL_STATE_STATE = 1 ∧
      t.rd .ARC_STRAPS = straps.setWidth 64 ∧ regsBut s t [.FOL_STATE, .ARC_STRAPS] ∧
      t = { s with
        cycle := 0, regs := t.regs, arc := { s.arc with phase := 1 }, out := s.out ++ [.ibi 1]
        mgmt := { s.mgmt with inReset := false, low := false, straps := straps, since := 0 } }) ∧
  (∀ (straps : BitVec 4) (s : State), s.mgmt.inReset = false ∨ s.mgmt.low = false ∨ s.mgmt.main = false ∨ s.mgmt.clock = false ∨
    s.mgmt.stby = false → exec (.packageResetRelease straps) s = .next s)

/-- Package reset and its release. -/
def Obligations.PackageReset : Prop :=
  Claim.ResetPackage ∧ Claim.ResetRelease

/-- BOOT_FIRMWARE_CHECK (R392, R472): the flash is out of its reset and read in 8D-8D-8D at 200 MHz, after 1S-1S-1S at 25 MHz where
ST_AF_MODE is 0; both slots are checked and their codes recorded; of two that pass the higher VERSION runs, slot A
where they are equal; one that passes alone runs; with neither, the Archivist enters ROM_RECOVERY and boot ends. -/
def Claim.BootFirmware : Prop :=
  ∀ s : State, s.arc.phase = 1 →
    let a := firmwareBad s (flashSlot s 0)
    let b := firmwareBad s (flashSlot s 1)
    let words := F.ARC_BOOT_FW_B_CODE.put (F.ARC_BOOT_FW_A_CODE.put (s.rd .ARC_BOOT) (codeOf a)) (codeOf b)
    let second := codeOf b = 0 ∧ (codeOf a ≠ 0 ∨ imVersion (flashSlot s 0) < imVersion (flashSlot s 1))
    let v := imVersion (flashSlot s (if second then 1 else 0))
    ∃ t, exec .bootFirmwareCheck s = .next t ∧ t.rd .ARC_BOOT = words ∧ regsBut s t [.ARC_BOOT, .ARC_STATUS] ∧
      t.mgmt = { s.mgmt with afReset := false, afMode := .octal } ∧
      t.out = s.out ++ (if s.mgmt.straps.getLsbD 2 then [.flash true 200] else [.flash false 25, .flash true 200]) ∧
      (if codeOf a ≠ 0 ∧ codeOf b ≠ 0 then
        t.get .ARC_STATUS F.ARC_STATUS_STAGE = 1 ∧ t = { s with regs := t.regs, mgmt := t.mgmt, out := t.out, arc := { s.arc with phase := 0 } }
      else
        t.get .ARC_STATUS F.ARC_STATUS_STAGE = 2 ∧ t.get .ARC_STATUS F.ARC_STATUS_FW_SLOT = (if second then 1 else 0) ∧
        t.get .ARC_STATUS F.ARC_STATUS_FW_VERSION = v % 2 ^ 32 ∧
        t = { s with
          regs := t.regs, mgmt := t.mgmt, out := t.out, arc := { s.arc with version := BitVec.ofNat 64 v, phase := 2 } })

/-- BOOT_FOLIO_VERIFY (R74, R75, R76 phase 1): both folio slots are checked; of two that pass the higher SERIAL is selected, slot A
where they are equal; FOL_STATE reads SELECT and names the slot, and the code of the other slot is recorded. With neither the package
is INERT, and FOL_STATUS holds the code, the leaf and the offset of the failure of slot A. -/
def Claim.BootFolio : Prop :=
  ∀ s : State, s.arc.phase = 2 →
    let ba := imageBad s (flashSlot s 2) false 0x400000
    let bb := imageBad s (flashSlot s 3) false 0x400000
    let second := bb = none ∧ (ba ≠ none ∨ imLe (flashSlot s 2) 0x18 8 < imLe (flashSlot s 3) 0x18 8)
    ∃ t, exec .bootFolioVerify s = .next t ∧ regsBut s t [.FOL_STATE, .FOL_STATUS] ∧
      t = { s with regs := t.regs, arc := t.arc, out := t.out } ∧
      (if ba ≠ none ∧ bb ≠ none then
        t.get .FOL_STATE F.FOL_STATE_STATE = 6 ∧ t.get .FOL_STATE F.FOL_STATE_ALT_CODE = codeOf bb % 2 ^ 16 ∧
        t.get .FOL_STATUS F.FOL_STATUS_CODE = codeOf ba % 2 ^ 16 ∧ t.get .FOL_STATUS F.FOL_STATUS_LEAF = ba.elim 0 (·.leaf) % 2 ^ 8 ∧
        t.get .FOL_STATUS F.FOL_STATUS_OFFSET = ba.elim 0 (·.off) % 2 ^ 32 ∧ t.arc = { s.arc with phase := 0 }
      else
        t.get .FOL_STATE F.FOL_STATE_STATE = 2 ∧ t.get .FOL_STATE F.FOL_STATE_SLOT = (if second then 1 else 0) ∧
        t.get .FOL_STATE F.FOL_STATE_ALT_CODE = codeOf (if second then ba else bb) % 2 ^ 16 ∧ t.rd .FOL_STATUS = 0 ∧
        t.arc = { s.arc with digest1 := imageDigest (flashSlot s (if second then 3 else 2)), phase := 3 })

/-- Boot: the firmware image and the folio image. -/
def Obligations.BootStart : Prop :=
  Claim.BootFirmware ∧ Claim.BootFolio

/-- The later steps of boot (R76 phases 2 to 8, R264, R393): each acts at its own place in the order and makes the next one due. A
failed check enters INERT with its code in FOL_STATUS; a channel that reports DIMMs holds its records; the fill leaves no listed cell
of DRAM; after the last step FOL_STATE reads RUNNING. H[0], LOST with its cores stopped, starts again from its image, but in INERT it
does not (R77, R439). -/
def Claim.BootSteps : Prop :=
  (∀ (offers : List (Fin 16 × DieOffer × List (Dir × Fin 8 × BitVec 6))) (s : State), s.arc.phase = 3 → ∃ t, exec (.bootTrain offers) s = .next t ∧
    t = bootNext (overAll (enabledDies (readFolio (slotFolio s) false)) (bootDie offers)
      (overAll (List.range 17) (fun s b => setBlockState s (16 + b) 0) s)) 4) ∧
  (∀ s : State, s.arc.phase = 4 →
    let u := { s with arc := { s.arc with trained := upDies s } }
    match diesBad u (readFolio (slotFolio s) false) with
    | none => exec .bootRevsetCheck s = .next { u with arc := { u.arc with phase := 5 } }
    | some b => exec .bootRevsetCheck s = .next (inert u b)) ∧
  (∀ (chans : List ChanTrain) (s : State), s.arc.phase = 5 → ∃ t, exec (.bootDimmTraining chans) s = .next t ∧
    t.arc.phase = 6 ∧ t.get .FOL_STATE F.FOL_STATE_STATE = 3 ∧
    (chans.filter (fun t => (readFolio (slotFolio s) false).chanEnabled t.chan.val) = [] →
      regsBut s t [.FOL_STATE] ∧ t = { s with regs := t.regs, arc := t.arc, out := t.out })) ∧
  (∀ s : State, s.arc.phase = 6 →
    match firstBad [foliosBad s (readFolio (slotFolio s) false) (slotFolio s) (readFolio (slotFolio s) false) false (fun _ => none),
      badIf (imageDigest (slotFolio s) ≠ s.arc.digest1) 0x411 0 0] with
    | none => ∃ t, exec .bootApply s = .next t ∧ t.arc.phase = 7 ∧ t.get .FOL_STATE F.FOL_STATE_STATE = 4 ∧
        t.folio = readFolio (slotFolio s) false
    | some b => exec .bootApply s = .next (inert s b)) ∧
  (∀ s : State, s.arc.phase = 7 → ∃ t, exec .bootMeminit s = .next t ∧ t.dram = [] ∧ t.arc.phase = 8 ∧
    t = { s with dram := [], arc := { s.arc with phase := 8 }, chans := t.chans }) ∧
  (∀ s : State, s.arc.phase = 8 →
    match houseImage s with
    | (none, u) => exec .bootHouseImage s = .next (bootNext (u.put .ARC_BOOT F.ARC_BOOT_HS_CODE 0) 9)
    | (some b, u) => exec .bootHouseImage s = .next (inert (u.put .ARC_BOOT F.ARC_BOOT_HS_CODE b.code) b)) ∧
  (∀ (s : State) (c : Nat), s.arc.phase = 9 → (s.coresOf 0).head? = some c →
    exec .bootRun s = .next (overAll (List.range 8) trainPort (startCore (bootNext (setFolState s 5) 10) c))) ∧
  (∀ (s : State), s.get .FOL_STATE F.FOL_STATE_STATE = 6 → exec .houseRestart s = .next s) ∧
  (∀ (s : State) (c : Nat), s.get .FOL_STATE F.FOL_STATE_STATE ≠ 6 → s.handLost 0 = true →
    (s.coresOf 0).all (fun c => s.coreState c == 1 || s.coreState c == 5 || s.coreState c == 0) = true → houseCore s = some c →
    match houseImage (s.put (.FAB_HAND 0) F.FAB_HAND_STATE 1) with
    | (none, u) => exec .houseRestart s = .next
        (startCore ((u.put .ARC_BOOT F.ARC_BOOT_HS_CODE 0).put .FLT_STATUS F.FLT_STATUS_HOUSE_RESTART 1) c)
    | (some b, u) => exec .houseRestart s = .next (u.put .ARC_BOOT F.ARC_BOOT_HS_CODE b.code))

/-- A channel that trains with one DIMM (R264, R266): MC_DIMM holds its geometry, the empty slot reads zero, and the channel runs at the
speed of one DIMM. -/
def Claim.BootDimm : Prop :=
  ∀ (c : ChanTrain) (m : DimmInfo) (s : State), s.arc.phase = 5 →
    (readFolio (slotFolio s) false).chanEnabled c.chan.val = true → c.ok = true → c.slot0 = some m → c.slot1 = none →
    m.height.toNat ≤ 2 →
    ∃ t, exec (.bootDimmTraining [c]) s = .next t ∧ t.rd (.MC_DIMM c.chan 0) = dimmWord m ∧ t.rd (.MC_DIMM c.chan 1) = 0 ∧
      t.get (.MC_CFG c.chan) F.MC_CFG_SPEED = 0 ∧ t.get (.MC_CFG c.chan) F.MC_CFG_DPC = 1 ∧
      t.get (.MC_CFG c.chan) F.MC_CFG_ENABLE = s.get (.MC_CFG c.chan) F.MC_CFG_ENABLE ∧ chansBut s t [c.chan.val] ∧
      t.dram = s.dram ∧ t.folio = s.folio ∧ t.links = s.links ∧ t.cores = s.cores

/-- ADDENDUM_GO and ADDENDUM_COPY_DONE (R80 to R82, R481): a write of GO by H[0] while nothing is pending, with a length that R80 allows
and a buffer in a private window of H[0], starts the copy; a failed check ends it with its code in FOL_ADD_STATE and FOL_STATUS,
ADD_REFUSED set and one arrival of source 2; the bytes of a whole copy that passes are put in force as `pendAddendum` says. A write by
another agent changes nothing. -/
def Claim.Addendum : Prop :=
  (∀ (who : Agent) (v : Word) (s : State), s.isHouse who = false → exec (.addendumGo who v) s = .next s) ∧
  (∀ (who : Agent) (v : Word) (s : State), s.isHouse who = true → v.getLsbD 0 = true →
    s.get .FOL_ADD_STATE F.FOL_ADD_STATE_STATE = 0 → 0x90 ≤ (s.rd .FOL_ADD_LEN).toNat → (s.rd .FOL_ADD_LEN).toNat ≤ 0x100000 →
    inHousePrivate s (s.rd .FOL_ADD_ADDR).toNat (s.rd .FOL_ADD_LEN).toNat = true →
    ∃ t, exec (.addendumGo who v) s = .next t ∧ t.get .FOL_ADD_STATE F.FOL_ADD_STATE_STATE = 1 ∧
      t.arc.serving.get? 66 = some ⟨[], (lineParts (s.rd .FOL_ADD_ADDR).toNat (s.rd .FOL_ADD_LEN).toNat).map (·.1), true, false,
        none, false⟩ ∧
      regsBut s t [.FOL_ADD_STATE] ∧
      t = { s with regs := t.regs, arc := { s.arc with serving := t.arc.serving }, outbox := t.outbox, points := t.points }) ∧
  (∀ (who : Agent) (v : Word) (s : State), s.isHouse who = true → v.getLsbD 0 = true →
    s.get .FOL_ADD_STATE F.FOL_ADD_STATE_STATE ≠ 0 → s.tally 2 < 255 →
    ∃ t, exec (.addendumGo who v) s = .next t ∧ t.get .FOL_ADD_STATE F.FOL_ADD_STATE_CODE = 0x504 ∧
      t.get .FOL_ADD_STATE F.FOL_ADD_STATE_STATE = s.get .FOL_ADD_STATE F.FOL_ADD_STATE_STATE ∧
      t.rd .FOL_STATUS = 0x504 ∧ t.get .FOL_ERR F.FOL_ERR_ADD_REFUSED = 1 ∧ t.tally 2 = s.tally 2 + 1 ∧
      regsBut s t [.FOL_ADD_STATE, .FOL_STATUS, .FOL_ERR, .TIC_TALLY 0, .FLT_INJECT] ∧
      t = { s with regs := t.regs, flips := t.flips }) ∧
  (∀ (s : State) (v : Serving), s.arc.serving.get? 66 = some v → v.due = [] → s.get .FOL_ADD_STATE F.FOL_ADD_STATE_STATE = 1 →
    let buf := readBytes v.lines (s.rd .FOL_ADD_ADDR).toNat (s.rd .FOL_ADD_LEN).toNat
    let u := { s with arc := { s.arc with serving := s.arc.serving.erase 66 } }
    let a := readFolio buf true
    let g := amended s.folio a
    let m := amended s.folio a.marked
    match firstBad [imageBad u buf true (s.rd .FOL_ADD_LEN).toNat, addendumBad u buf a, diesBad u m,
      foliosBad u m buf a true (disorderBad m a.marked), stateBad u g] with
    | some b => exec .addendumCopyDone s = .next (refuseAddendum (u.put .FOL_ADD_STATE F.FOL_ADD_STATE_STATE 0) b)
    | none => exec .addendumCopyDone s = .next (pendAddendum (setFolStatus u accepted) (imBytes buf 0 (imLe buf 8 4)) a g))

/-- Boot from training to RUNNING, and addenda. -/
def Obligations.BootRun : Prop :=
  Claim.BootSteps ∧ Claim.BootDimm ∧ Claim.Addendum

/-- ARBITRATE_TRICK at a home slice, a die's message alone in the queue (R95, R99, R101, R103), in a cycle whose trick is not decided yet:
in a trick dealt to its hand it goes out as dealt traffic and takes no grant; in an open trick it goes out under a fallback grant, whose
burst begins at 1. The trick of the cycle is then decided; asked again, the point decides that of the cycle after (the model's own way
of starting a cycle, log entry 1). A folded unit decides nothing. -/
def Claim.FabricTrickOne : Prop :=
  (∀ (n : Fin 16) (p : Fin 64) (sc : Fin 2) (s : State) (r : Ready), p.val = 0x20 + n.val → pointFolded s p = false →
    (s.point p).next ≤ s.cycle → (s.point p).holder = none → (s.point p).ready = [r] → classD p r.q = false →
    sramBits s 10 (0x2500 + p.val) (trickOf s p / 8) = 0 → r.msg.hand ≤ 0x3F → trickOwner s p (trickOf s p) = r.msg.hand →
    ∃ t, exec (.arbitrateTrick .slice n sc) s = .next t ∧
      t.point p = { s.point p with ready := [], winner := some r, next := s.cycle + 1 } ∧
      t.eventCount (0x1010 + n.val) 0x0202 = s.eventCount (0x1010 + n.val) 0x0202 + 1 ∧
      eventsBut s t [(0x1010 + n.val, 0x0202)] ∧
      pointsBut s t [p.val] ∧ t = { s with points := t.points, events := t.events }) ∧
  (∀ (n : Fin 16) (p : Fin 64) (sc : Fin 2) (s : State) (r : Ready), p.val = 0x20 + n.val → pointFolded s p = false →
    (s.point p).next ≤ s.cycle → (s.point p).holder = none → (s.point p).ready = [r] → classD p r.q = false →
    opTrump r.msg.op = false → sramBits s 10 (0x2500 + p.val) (trickOf s p / 8) = 0 → trickOwner s p (trickOf s p) = 0xFF →
    sramBits s 10 (0x2500 + p.val) (0x100 + r.q) = 0 →
    isCut s p r.q = false → 1 < s.get (.FAB_BURST_ACT p) F.FAB_BURST_BURST_LIMIT →
    ∃ t, exec (.arbitrateTrick .slice n sc) s = .next t ∧
      t.point p = { s.point p with
        ready := [], winner := some r, holder := some r.q, burst := 1, last := some r.q, next := s.cycle + 1 } ∧
      t.eventCount (0x1010 + n.val) 0x0203 = s.eventCount (0x1010 + n.val) 0x0203 + 1 ∧
      eventsBut s t [(0x1010 + n.val, 0x0203)] ∧
      pointsBut s t [p.val] ∧ t = { s with points := t.points, events := t.events }) ∧
  (∀ (n : Fin 16) (p : Fin 64) (sc : Fin 2) (s : State), p.val = 0x20 + n.val → pointFolded s p = false → s.cycle < (s.point p).next →
    exec (.arbitrateTrick .slice n sc) s = exec (.arbitrateTrick .slice n sc) { s with cycle := (s.point p).next }) ∧
  (∀ (k : PointKind) (n : Fin 16) (sc : Fin 2) (s : State), pointFolded s (pointNo k n) = true →
    exec (.arbitrateTrick k n sc) s = .next s)

/-- R99's promise to a hand: with no fallback grant in force, a trick of a home slice dealt to a hand that has a message ready carries a
message of that hand, whatever else is ready; a class D transfer that it belongs to has that hand as its owner (R113). -/
def Claim.FabricDealt : Prop :=
  ∀ (n : Fin 16) (p : Fin 64) (sc : Fin 2) (s : State) (h : Nat), p.val = 0x20 + n.val → pointFolded s p = false →
    (s.point p).next ≤ s.cycle → (s.point p).holder = none → sramBits s 10 (0x2500 + p.val) (trickOf s p / 8) = 0 → h ≤ 0x3F →
    trickOwner s p (trickOf s p) = h → (∃ r ∈ (s.point p).ready, r.msg.hand = h) →
    ∃ t r, exec (.arbitrateTrick .slice n sc) s = .next t ∧ r ∈ (s.point p).ready ∧ r.msg.hand = h ∧
      (t.point p).winner = some r ∧ (classD p r.q = true → (t.point p).owners.get? r.q = some (some h)) ∧ (t.point p).holder = none ∧
      (t.point p).ready.length + 1 = (s.point p).ready.length

/-- FALLBACK_GRANT_EXPIRE and CLASS_D_CUTOFF (R103, R106): a grant whose burst is used up ends, with its transfer where it has one; a
class D holder still sending 64 tricks later is cut off: its transfer restarts, its FAB_CUTOFF bit is set and class 20 is reported. -/
def Claim.FabricGrant : Prop :=
  (∀ (p : Fin 64) (s : State) (q : Nat), (s.point p).holder = some q →
    s.get (.FAB_BURST_ACT p) F.FAB_BURST_BURST_LIMIT ≤ (s.point p).burst → classD p q = false ∨ unfinished (s.point p) q = false →
    exec (.fallbackGrantExpire p) s = .next (s.setPoint p { s.point p with holder := none, burst := 0 })) ∧
  (∀ (p : Fin 64) (s : State) (q : Nat), (s.point p).holder = some q →
    (s.point p).burst < s.get (.FAB_BURST_ACT p) F.FAB_BURST_BURST_LIMIT ∨ (classD p q = true ∧ unfinished (s.point p) q = true) →
    exec (.fallbackGrantExpire p) s = .next s) ∧
  (∀ (p : Fin 64) (s : State) (q : Nat), (s.point p).holder = some q → q < 64 → classD p q = true →
    unfinished (s.point p) q = true → s.get (.FAB_BURST_ACT p) F.FAB_BURST_BURST_LIMIT + 64 ≤ (s.point p).burst →
    ∃ t, exec (.classDCutoff p) s = .next t ∧ (t.rd (.FAB_CUTOFF p 0)).getLsbD q = true ∧
      t.point p = { restartTransfer s.cycle (s.point p) q with holder := none, burst := 0 } ∧ pointsBut s t [p.val] ∧
      t.get (.FLT_CLASS_CNT 20) F.FLT_CLASS_CNT_COUNT = min (s.get (.FLT_CLASS_CNT 20) F.FLT_CLASS_CNT_COUNT + 1)
        F.FLT_CLASS_CNT_COUNT.top ∧
      t = { s with regs := t.regs, points := t.points, flips := t.flips }) ∧
  (∀ (p : Fin 64) (s : State), (s.point p).holder = none → exec (.classDCutoff p) s = .next s)

/-- Who is served in a trick of a fabric point, and fallback grants. -/
def Obligations.FabricTricks : Prop :=
  Claim.FabricTrickOne ∧ Claim.FabricDealt ∧ Claim.FabricGrant

/-- FAB_DEAL, FAB_BURST, FAB_PRIO and FAB_CUTOFF (R85, R106, R111, R112): the Archivist writes a deal or a burst limit with legal values
into the shadow, and the active copy stays; any other such write is ignored, sets the point's FAB_BAD_WRITE bit and reports class 19, and
by another agent at a point that a PENDING addendum affects sets SHADOW_DENIED first. H[0], a hand that reaches the block and the
Archivist write priorities and clear cut-offs; a write by anyone else changes nothing. A core of a ledger hand reaches none of these
registers: its write raises LEDGER_ACCESS (R249; its tval is the model's own, log entry 107). -/
def Claim.FabricWrites : Prop :=
  (∀ (p : Fin 64) (k : Fin 128) (v : Word) (s : State), (isChanPoint p.val = true → k.val < 32) →
    (∀ j < 8, (F.FAB_DEAL_TRICK j).get v = 0xFF ∨
      ((F.FAB_DEAL_TRICK j).get v ≤ 0x3F ∧ (s.folio.hand? ((F.FAB_DEAL_TRICK j).get v)).isSome = true) ∨
      ((F.FAB_DEAL_TRICK j).get v = 0xFE ∧ isChanPoint p.val = true)) →
    ∃ t, exec (.fabDealWrite .archivist p k v) s = .next t ∧ t.rd (.FAB_DEAL p k) = v ∧ regsBut s t [.FAB_DEAL p k] ∧
      (0x10 ≤ p.val → t.points = s.points) ∧ t = { s with regs := t.regs, points := t.points }) ∧
  (∀ (who : Agent) (p : Fin 64) (k : Fin 128) (v : Word) (s : State), who ≠ .archivist → notLedger s who →
    (isChanPoint p.val = true → k.val < 32) → addendumPoint s p = false →
    exec (.fabDealWrite who p k v) s = .next
      ((s.wr .FAB_BAD_WRITE (s.rd .FAB_BAD_WRITE ||| BitVec.ofNat 64 (2 ^ p.val))).fault
        ⟨19, 0x2500 + p.val, none, p.val, 1, 0, 0⟩)) ∧
  (∀ (p : Fin 64) (v : Word) (s : State), 1 ≤ v.toNat → v.toNat ≤ 1024 →
    ∃ t, exec (.fabBurstWrite .archivist p v) s = .next t ∧ t.get (.FAB_BURST p) F.FAB_BURST_BURST_LIMIT = v.toNat ∧
      regsBut s t [.FAB_BURST p] ∧ (0x10 ≤ p.val → t.points = s.points) ∧ t = { s with regs := t.regs, points := t.points }) ∧
  (∀ (who : Agent) (p : Fin 64) (k : Fin 128) (v : Word) (s : State), who ≠ .archivist → notLedger s who →
    (isChanPoint p.val = true → k.val < 32) → addendumPoint s p = true →
    exec (.fabDealWrite who p k v) s = .next (((shadowDenied s).wr .FAB_BAD_WRITE
      ((shadowDenied s).rd .FAB_BAD_WRITE ||| BitVec.ofNat 64 (2 ^ p.val))).fault ⟨19, 0x2500 + p.val, none, p.val, 1, 0, 0⟩)) ∧
  (∀ (who : Agent) (p : Fin 64) (v : Word) (s : State), notLedger s who → addendumPoint s p = false →
    who ≠ .archivist ∨ v = 0 ∨ 1024 < v.toNat →
    exec (.fabBurstWrite who p v) s = .next
      ((s.wr .FAB_BAD_WRITE (s.rd .FAB_BAD_WRITE ||| BitVec.ofNat 64 (2 ^ p.val))).fault
        ⟨19, 0x2500 + p.val, none, p.val, 1, 0, 0⟩)) ∧
  (∀ (who : Agent) (p : Fin 64) (q : Fin 128) (v : Word) (s : State), fabWriter s who = true →
    who = .archivist ∨ addendumPoint s p = false →
    ∃ t, exec (.fabPrioWrite who p q v) s = .next t ∧ t.get (.FAB_PRIO p q) F.FAB_PRIO_PRIO = F.FAB_PRIO_PRIO.get v ∧
      regsBut s t [.FAB_PRIO p q] ∧ (0x10 ≤ p.val → t.points = s.points) ∧ t = { s with regs := t.regs, points := t.points }) ∧
  (∀ (who : Agent) (p : Fin 64) (k : Fin 2) (v : Word) (s : State), fabWriter s who = true →
    exec (.fabCutoffClear who p k v) s = .next (s.wr (.FAB_CUTOFF p k) (s.rd (.FAB_CUTOFF p k) &&& ~~~ v))) ∧
  (∀ (who : Agent) (p : Fin 64) (q : Fin 128) (k : Fin 2) (v : Word) (s : State), fabWriter s who = false →
    notLedger s who →
    exec (.fabPrioWrite who p q v) s = .next s ∧ exec (.fabCutoffClear who p k v) s = .next s) ∧
  (∀ (c : Fin 384) (p : Fin 64) (k q : Fin 128) (h : Fin 2) (v : Word) (s : State), s.ledgerCore c = true →
    exec (.fabDealWrite (.core c) p k v) s = .next (ledgerAccess s c (BitVec.ofNat 64 (Reg.FAB_DEAL p k).key)) ∧
    exec (.fabBurstWrite (.core c) p v) s = .next (ledgerAccess s c (BitVec.ofNat 64 (Reg.FAB_BURST p).key)) ∧
    exec (.fabPrioWrite (.core c) p q v) s = .next (ledgerAccess s c (BitVec.ofNat 64 (Reg.FAB_PRIO p q).key)) ∧
    exec (.fabCutoffClear (.core c) p h v) s = .next (ledgerAccess s c (BitVec.ofNat 64 (Reg.FAB_CUTOFF p h).key)) ∧
    exec (.fabCommit (.core c) v) s = .next (ledgerAccess s c (BitVec.ofNat 64 Reg.FAB_COMMIT.key)))

/-- FAB_COMMIT, COMMIT_ARRIVE_UP and CLEAR_LOST (R91, R108 to R111, R482): a commit of one point whose shadow deal fails R110 sets the
point's FAB_COMMIT_REFUSED bit and reports class 19; otherwise its FAB_COMMIT_PEND bit is set and COMMIT is at the point, or, for an up
direction, its shadow content is on its way ahead of COMMIT. COMMIT arrives at an up direction when its message is in the die's receiver. A LOST
hand none of whose cores is active becomes STOPPED when H[0] asks. -/
def Claim.FabricCommit : Prop :=
  (∀ (who : Agent) (p : Fin 64) (s : State), fabWriter s who = true → who = .archivist ∨ addendumPoint s p = false →
    (s.rd .FAB_COMMIT_PEND).getLsbD p = false → 0x20 ≤ p.val → dealPasses s p = true →
    ∃ t, exec (.fabCommit who (BitVec.ofNat 64 (2 ^ p.val))) s = .next t ∧
      t.rd .FAB_COMMIT_PEND = s.rd .FAB_COMMIT_PEND ||| BitVec.ofNat 64 (2 ^ p.val) ∧
      t.point p = { s.point p with commit := some (roundOf s p, trickOf s p) } ∧
      pointsBut s t [p.val] ∧ regsBut s t [.FAB_COMMIT_PEND] ∧ t = { s with regs := t.regs, points := t.points }) ∧
  (∀ (who : Agent) (p : Fin 64) (s : State), fabWriter s who = true → who = .archivist ∨ addendumPoint s p = false →
    (s.rd .FAB_COMMIT_PEND).getLsbD p = false → p.val < 0x10 → s.get (.DL_STATUS p) F.DL_STATUS_STATE ≠ 4 →
    dealPasses s p = true →
    ∃ t, exec (.fabCommit who (BitVec.ofNat 64 (2 ^ p.val))) s = .next t ∧
      t.rd .FAB_COMMIT_PEND = s.rd .FAB_COMMIT_PEND ||| BitVec.ofNat 64 (2 ^ p.val) ∧
      t.point p = { s.point p with mgmt := (s.point p).mgmt ++ commitMsgs s p, commit := none, commitIn := false } ∧
      pointsBut s t [p.val] ∧ regsBut s t [.FAB_COMMIT_PEND] ∧ t = { s with regs := t.regs, points := t.points }) ∧
  (∀ (who : Agent) (p : Fin 64) (s : State), fabWriter s who = true → who = .archivist ∨ addendumPoint s p = false →
    (s.rd .FAB_COMMIT_PEND).getLsbD p = false → 0x20 ≤ p.val → dealPasses s p = false →
    exec (.fabCommit who (BitVec.ofNat 64 (2 ^ p.val))) s = .next
      ((s.wr .FAB_COMMIT_REFUSED (s.rd .FAB_COMMIT_REFUSED ||| BitVec.ofNat 64 (2 ^ p.val))).fault
        ⟨19, 0x2500 + p.val, none, p.val, 1, 0, 0⟩)) ∧
  (∀ (who : Agent) (v : Word) (s : State), fabWriter s who = false → notLedger s who →
    exec (.fabCommit who v) s = .next s) ∧
  (∀ (d : Fin 16) (s : State), (s.rd .FAB_COMMIT_PEND).getLsbD d = true → (s.point d).commit = none →
    (s.point d).commitIn = true →
    exec (.commitArriveUp d) s = .next
      (s.setPoint d { s.point d with commit := some ((s.point d).round, (s.point d).trick), commitIn := false })) ∧
  (∀ (d : Fin 16) (s : State), (s.point d).commitIn = false → exec (.commitArriveUp d) s = .next s) ∧
  (∀ (who : Agent) (h : Fin 64) (v : Word) (s : State), s.isHouse who = true → v.getLsbD 63 = true → s.handLost h = true →
    (∀ c ∈ s.coresOf h, s.coreState c = 5 ∨ s.coreState c ≤ 1) →
    ∃ t, exec (.clearLost who h v) s = .next t ∧ t.get (.FAB_HAND h) F.FAB_HAND_STATE = 1 ∧
      (∀ c ∈ s.coresOf h, s.coreState c = 5 → s.get (.FLT_DIE (c / 24)) F.FLT_DIE_STATE ≠ 3 → t.coreState c = 1) ∧
      regsBut s t (.FAB_HAND h :: (s.coresOf h).map Reg.CORE_STATE) ∧ t = { s with regs := t.regs }) ∧
  (∀ (who : Agent) (h : Fin 64) (v : Word) (s : State), s.isHouse who = false ∨ v.getLsbD 63 = false ∨ s.handLost h = false →
    exec (.clearLost who h v) s = .next s)

/-- Writes of the deal registers and their commit. -/
def Obligations.FabricControl : Prop :=
  Claim.FabricWrites ∧ Claim.FabricCommit

/-- POINT_SWITCH (R108, R113, R114): at trick 0 of a round that began after COMMIT arrived, every shadow register of a point whose
COMMIT is with it is copied into its active copy, together, and the point's FAB_COMMIT_PEND bit clears; at any other time nothing
happens. DEAL_WORD_RELOAD (R447): a lost word of the active deal comes back from the folio at the second round boundary; a
priority whose word is lost stands at its reset value, and stays there after the reload (the model's choice, log entry 126). -/
def Obligations.FabricSwitch : Prop :=
  (∀ (p : Fin 64) (s : State), 0x10 ≤ p.val → atSwitch s p = true → addendumPoint s p = false →
    ∃ t, exec (.pointSwitch p) s = .next t ∧
      (∀ k, k < dealLen p / 8 → t.rd (.FAB_DEAL_ACT p k) = s.rd (.FAB_DEAL p k)) ∧
      t.rd (.FAB_BURST_ACT p) = s.rd (.FAB_BURST p) ∧
      (∀ q, q ≤ lastRequester p → t.rd (.FAB_PRIO_ACT p q) = s.rd (.FAB_PRIO p q)) ∧
      t.rd .FAB_COMMIT_PEND = s.rd .FAB_COMMIT_PEND &&& ~~~ BitVec.ofNat 64 (2 ^ p.val) ∧
      (t.point p).commit = none ∧ (t.point p).trick = (s.point p).trick ∧ pointsBut s t [p.val] ∧
      t = { s with regs := t.regs, points := t.points, flips := t.flips }) ∧
  (∀ (p : Fin 64) (s : State), (s.point p).commit = none ∨ trickOf s p ≠ 0 → exec (.pointSwitch p) s = .next s) ∧
  (∀ (p : Fin 64) (k : Fin 384) (s : State), k.val < 128 → k.val ∈ (s.point p).lostWord → (s.point p).reload ≤ roundOf s p → trickOf s p = 0 →
    ∃ t, exec (.dealWordReload p k) s = .next t ∧ t.rd (.FAB_DEAL_ACT p k) = dealWord s.folio p k ∧
      t.rd (.FAB_DEAL p k) = dealWord s.folio p k ∧
      t.point p = { s.point p with lostWord := (s.point p).lostWord.filter (fun j => j != k.val) } ∧
      pointsBut s t [p.val] ∧ regsBut s t [.FAB_DEAL p k, .FAB_DEAL_ACT p k] ∧ t = { s with regs := t.regs, points := t.points }) ∧
  (∀ (p : Fin 64) (q : Fin 128) (k : Fin 384) (s : State), k.val = 0x100 + q.val → k.val ∈ (s.point p).lostWord →
    (s.point p).reload ≤ roundOf s p → trickOf s p = 0 → activePrio s p q = prioReset p q ∧
    ∃ t, exec (.dealWordReload p k) s = .next t ∧ activePrio t p q = prioReset p q ∧
      t.point p = { s.point p with lostWord := (s.point p).lostWord.filter (fun j => j != k.val) } ∧
      pointsBut s t [p.val] ∧ regsBut s t [.FAB_PRIO_ACT p q] ∧ t = { s with regs := t.regs, points := t.points })

/-- CORE_CTL and the start of a core (R77, R125 to R127, R381): START by H[0] takes a STOPPED core of a hand that is not LOST, on a die in service
that is not on its way to Fold or Out, to STARTING with an empty tally context, but in INERT it does nothing; the core of an open hand
then begins at its hand's ENTRY in M-mode with its number in x10, its hand in x11, every other integer register and every CSR at its
start value, and reads RUNNING. A write by another agent, or with START and STOP both set or both clear, changes nothing. -/
def Claim.CoreStart : Prop :=
  (∀ (who : Agent) (c : Fin 384) (v : Word) (s : State) (h : Nat), s.isHouse who = true → v.getLsbD 0 = true → v.getLsbD 1 = false →
    s.handOf c = some h → s.coreState c = 1 → s.dieInService (c.val / 24) = true →
    s.get (.SCK_DIE (c.val / 24)) F.SCK_DIE_TARGET ≤ 1 → s.get .FOL_STATE F.FOL_STATE_STATE ≠ 6 →
    s.handState h = 1 ∨ s.handState h = 2 ∨ s.handState h = 4 →
    ∃ t, exec (.coreCtlStart who c v) s = .next t ∧ t.coreState c = 2 ∧ t.get (.TIC_CORE_STATE c) F.TIC_CORE_STATE_RUNNING = 0 ∧
      (∀ k, k < 8 → t.rd (.TIC_STACK c k) = 0) ∧
      (s.folio.isLedger h = false →
        regsBut s t ([.CORE_STATE c, .TIC_CORE_STATE c] ++ (List.range 8).map (Reg.TIC_STACK c)) ∧ t = { s with regs := t.regs }) ∧
      t = { s with regs := t.regs, ledgers := t.ledgers }) ∧
  (∀ (who : Agent) (c : Fin 384) (v : Word) (s : State), s.isHouse who = false ∨ v.getLsbD 0 = v.getLsbD 1 →
    exec (.coreCtlStart who c v) s = .next s ∧ exec (.coreCtlStop who c v) s = .next s) ∧
  (∀ (who : Agent) (c : Fin 384) (v : Word) (s : State), v.getLsbD 1 = false →
    s.coreState c ≠ 1 ∨ s.get .FOL_STATE F.FOL_STATE_STATE = 6 ∨ 1 < s.get (.SCK_DIE (c.val / 24)) F.SCK_DIE_TARGET →
    exec (.coreCtlStart who c v) s = .next s) ∧
  (∀ (c : Fin 384) (s : State) (h : Nat), s.handOf c = some h → s.folio.isLedger h = false → s.coreState c = 2 →
    s.dieInService (c.val / 24) = true →
    ∃ t, exec (.coreRunBegin c) s = .next t ∧ t.coreState c = 3 ∧
      (t.core c).pc = BitVec.ofNat 64 ((s.folio.hand? h).elim 0 (·.entry)) ∧ (t.core c).priv = 3 ∧ (t.core c).virt = false ∧
      (∀ r, t.xreg c r = if r = 10 then BitVec.ofNat 64 c else if r = 11 then BitVec.ofNat 64 h else 0) ∧
      (t.core c).mb = [] ∧ (t.core c).resv = none ∧ (t.core c).l2 = [] ∧
      (∀ n : Fin 4096, n ≠ 0x344 → t.csr c n = (Reg.CSR c n).reset) ∧ coresBut s t [c.val] ∧
      regsBut s t (.CORE_STATE c :: (List.range 4096).map (Reg.CSR c)) ∧ t = { s with regs := t.regs, cores := t.cores })

/-- The stop of a core (R126, R128, R129, R180): STOP by H[0] takes a STARTING or RUNNING core of an open hand to STOPPING, which begins
to drain its merging buffer; a STOPPING core whose store path
and L2 are empty becomes STOPPED with nothing left of its state; STOP of one core of a ledger hand that publishes waits for the end of
the phase. -/
def Claim.CoreStop : Prop :=
  (∀ (who : Agent) (c : Fin 384) (v : Word) (s : State) (h : Nat), s.isHouse who = true → v.getLsbD 0 = false → v.getLsbD 1 = true →
    s.handOf c = some h → s.folio.isLedger h = false → s.coreState c = 2 ∨ s.coreState c = 3 →
    ∃ t, exec (.coreCtlStop who c v) s = .next t ∧ t.coreState c = 4 ∧
      t.core c = { s.core c with mb := (s.core c).mb.map (fun e => { e with draining := true }) } ∧
      coresBut s t [c.val] ∧ regsBut s t [.CORE_STATE c] ∧ t = { s with regs := t.regs, cores := t.cores }) ∧
  (∀ (who : Agent) (c : Fin 384) (v : Word) (s : State) (h : Nat), s.isHouse who = true → v.getLsbD 0 = false → v.getLsbD 1 = true →
    s.handOf c = some h → s.folio.isLedger h = true → s.coreState c = 3 → (∀ x ∈ s.coresOf h, s.coreState x ≠ 4) →
    1 < s.get (.CSQ_LDG_PHASE h) F.CSQ_LDG_PHASE_PHASE →
    exec (.coreCtlStop who c v) s = .next (s.setLedger h { s.ledger h with stop := true })) ∧
  (∀ (c : Fin 384) (s : State), s.ledgerCore c = false → s.coreState c = 4 → (s.core c).mb = [] → (s.core c).stores = [] →
    (s.core c).l2 = [] → (s.core c).defer = none →
    ∃ t, exec (.coreStopComplete c) s = .next t ∧ t.coreState c = 1 ∧ t.core c = Core.init ∧
      (∀ n : Fin 4096, t.csr c n = (Reg.CSR c n).reset) ∧ coresBut s t [c.val] ∧
      regsBut s t (.CORE_STATE c :: (List.range 4096).map (Reg.CSR c)) ∧ t = { s with regs := t.regs, cores := t.cores }) ∧
  (∀ (c : Fin 384) (s : State), s.coreState c ≠ 4 → exec (.coreStopComplete c) s = .next s)

/-- Cores start and stop at the words of CORE_CTL. -/
def Obligations.CoreLife : Prop :=
  Claim.CoreStart ∧ Claim.CoreStop

/-- CORE_MSIP, CORE_MTIMECMP and the expiry of a timer (R124, R152, R250): a write that R152 allows takes the value, and mip shows a
software interrupt or a reached compare of a RUNNING core; with no interrupt enabled nothing else happens. A write by an agent that may
not write changes nothing. -/
def Claim.CoreInterrupts : Prop :=
  (∀ (who : Agent) (c : Fin 384) (v : Word) (s : State) (h : Nat), s.isHouse who = true → s.handOf c = some h →
    s.folio.isLedger h = false → s.coreState c = 3 → s.csr c 0x304 = 0 → (s.core c).asleep = false →
    ∃ t, exec (.coreMsipWrite who c v) s = .next t ∧ t.bit (.CORE_MSIP c) F.CORE_MSIP_MSIP = v.getLsbD 0 ∧
      (t.csr c 0x344).getLsbD 3 = v.getLsbD 0 ∧ regsBut s t [.CORE_MSIP c, .CSR c 0x344] ∧ t = { s with regs := t.regs }) ∧
  (∀ (who : Agent) (c : Fin 384) (v : Word) (s : State) (h : Nat), s.isHouse who = true → s.handOf c = some h →
    s.folio.isLedger h = false → s.coreState c = 3 → s.csr c 0x304 = 0 → (s.core c).asleep = false →
    ∃ t, exec (.coreMtimecmpWrite who c v) s = .next t ∧ t.rd (.CORE_MTIMECMP c) = v ∧
      (t.csr c 0x344).getLsbD 7 = decide (v.toNat ≤ s.mtime) ∧ regsBut s t [.CORE_MTIMECMP c, .CSR c 0x344] ∧
      t = { s with regs := t.regs }) ∧
  (∀ (c : Fin 384) (s : State), s.coreState c = 3 → s.ledgerCore c = false → timerDue s c .machine = true → s.csr c 0x304 = 0 →
    (s.core c).asleep = false →
    ∃ t, exec (.mtimecmpExpire c .machine) s = .next t ∧ (t.csr c 0x344).getLsbD 7 = true ∧ regsBut s t [.CSR c 0x344] ∧
      t = { s with regs := t.regs }) ∧
  (∀ (c : Fin 384) (tm : Timer) (s : State), s.coreState c ≠ 3 ∨ s.ledgerCore c = true ∨ timerDue s c tm = false →
    exec (.mtimecmpExpire c tm) s = .next s) ∧
  (∀ (c : Fin 384) (tm : Timer) (s : State), s.coreState c = 3 → s.ledgerCore c = false → timerDue s c tm = true →
    exec (.mtimecmpExpire c tm) s = .next (notify (setMip s c (timerBit tm) true) c)) ∧
  (∀ (who : Agent) (c : Fin 384) (v : Word) (s : State), coreRegWriter s who c = true → holder s who c = none →
    exec (.coreMsipWrite who c v) s = .next (setCoreReg s (.CORE_MSIP c) c v) ∧
    exec (.coreMtimecmpWrite who c v) s = .next (setCoreReg s (.CORE_MTIMECMP c) c v)) ∧
  (∀ (who : Agent) (c : Fin 384) (v : Word) (s : State), coreRegWriter s who c = false → holder s who c = none →
    exec (.coreMsipWrite who c v) s = .next s ∧ exec (.coreMtimecmpWrite who c v) s = .next s)

/-- WFI, WRS and ECALL of a hart that waits for nothing (R144, R146, R180, R382; the entry of the trap and who may wait are the RISC-V
privileged architecture's, log entry 20). In an open hand WFI retires, once the merging buffer has drained, and the core sleeps unless an
interrupt that is enabled is pending or the wake signal is up; WRS retires; ECALL traps with the cause of its mode, from M-mode with
cause 11, its pc saved and interrupts disabled. In ledger mode WFI and WRS end the quantum with END 5 and retire. WFI traps in a mode
that may not wait. -/
def Claim.CoreWaits : Prop :=
  (∀ (c : Fin 384) (s u : State), s.ready c = true → s.ledgerCore c = false → u = drainAll s c → drained u c = true →
    (wfiTrap s c = none → pendingInts u c = [] → u.wake c = false →
      ∃ t, exec (.wfi c) s = .next t ∧ retired u t c 4 { u.core c with asleep := true }) ∧
    (wfiTrap s c = none → pendingInts u c ≠ [] ∨ u.wake c = true → ∃ t, exec (.wfi c) s = .next t ∧ retired u t c 4 (u.core c)) ∧
    (∃ t, exec (.wrsNto c) s = .next t ∧ retired u t c 4 (u.core c)) ∧
    (∃ t, exec (.wrsSto c) s = .next t ∧ retired u t c 4 (u.core c))) ∧
  (∀ (c : Fin 384) (s u : State), s.ready c = true → s.ledgerCore c = true → u = drainAll s c →
    (wfiTrap s c = none → exec (.wfi c) s = .next ((u.endQuantum c 5).retire c 4)) ∧
    exec (.wrsNto c) s = .next ((u.endQuantum c 5).retire c 4) ∧ exec (.wrsSto c) s = .next ((u.endQuantum c 5).retire c 4)) ∧
  (∀ (c : Fin 384) (s : State) (n : Nat), s.ready c = true → wfiTrap s c = some n →
    exec (.wfi c) s = .next (trap s c n (sysWord 0x08 0 5))) ∧
  (∀ (c : Fin 384) (s : State), s.ready c = true → s.ledgerCore c = false →
    exec (.ecall c) s = .next (trap s c
      (if (s.core c).priv = 3 then 11 else if (s.core c).priv = 0 then 8 else if (s.core c).virt then 10 else 9) 0)) ∧
  (∀ (c : Fin 384) (s : State), s.ready c = true → s.ledgerCore c = false → (s.core c).priv = 3 → (s.core c).virt = false →
    (∃ t, exec (.ecall c) s = .next t ∧ t.csr c 0x341 = (s.core c).pc ∧ t.csr c 0x342 = 11 ∧ t.csr c 0x343 = 0 ∧
      (t.csr c 0x300).getLsbD 7 = (s.csr c 0x300).getLsbD 3 ∧ (t.csr c 0x300).getLsbD 3 = false ∧
      Fld.get ⟨12, 11⟩ (t.csr c 0x300) = 3 ∧ (t.core c).pc = s.csr c 0x305 &&& ~~~ (3 : Word) ∧ (t.core c).priv = 3 ∧
      (t.core c).virt = false ∧ (t.core c).x = (s.core c).x ∧ coresBut s t [c.val] ∧
      regsBut s t [.CSR c 0x300, .CSR c 0x341, .CSR c 0x342, .CSR c 0x343, .CSR c 0x34B] ∧
      t = { s with regs := t.regs, cores := t.cores }))

/-- Timer and software interrupts, and the instructions that wait. -/
def Obligations.CoreEvents : Prop :=
  Claim.CoreInterrupts ∧ Claim.CoreWaits

/-- The fences (R144, R165 to R167, R180), of a hart that waits for nothing. In an open hand, in a mode that may execute it, each retires once
what it drains has drained, and does to the core what its rule says and no more: FENCE.I empties the L1I; the translation fences drop the
entries that their operands select, x0 selecting all, in the S regime or, from a virtual mode, in the VS regime of the current VMID;
SINVAL-class ones drain nothing and are noted until SFENCE.INVAL.IR. FENCE with an IO predecessor waits for IO stores, and one without a
W predecessor drains nothing. In ledger mode each ends the quantum with END 3 and retires. In a mode that may not execute it, it traps
(the privileged architecture, log entry 20). -/
def Claim.CoreFences : Prop :=
  (∀ (c : Fin 384) (p q : BitVec 4) (s : State), s.ready c = true → s.ledgerCore c = false → p.getLsbD 2 = false ∨ ioOut s c = false →
    (p.getLsbD 0 = false → ∃ t, exec (.fence c p q) s = .next t ∧ retired s t c 4 (s.core c)) ∧
    (drained (drainAll s c) c = true →
      ∃ t, exec (.fence c p q) s = .next t ∧ (p.getLsbD 0 = true → retired (drainAll s c) t c 4 ((drainAll s c).core c)))) ∧
  (∀ (c : Fin 384) (p q : BitVec 4) (s : State), s.ready c = true → s.ledgerCore c = false → p.getLsbD 2 = true → ioOut s c = true →
    exec (.fence c p q) s = .next s) ∧
  (∀ (c : Fin 384) (rs1 rs2 : Fin 32) (s u : State), s.ready c = true → s.ledgerCore c = false → u = drainAll s c →
    drained u c = true →
    (∃ t, exec (.fenceI c) s = .next t ∧ retired u t c 4 { u.core c with l1i := [] }) ∧
    (fenceTrap s c false true = none → (s.core c).virt = false → ∃ t, exec (.sfenceVma c rs1 rs2) s = .next t ∧
      retired u t c 4 ((fenceVma u c 0 none (fenceOp u c rs1) (fenceAsid u c rs2)).core c)) ∧
    (fenceTrap s c false true = none → (s.core c).virt = true → ∃ t, exec (.sfenceVma c rs1 rs2) s = .next t ∧
      retired u t c 4 ((fenceVma u c 1 (curVmid u c) (fenceOp u c rs1) (fenceAsid u c rs2)).core c)) ∧
    (fenceTrap s c true false = none → ∃ t, exec (.hfenceVvma c rs1 rs2 false) s = .next t ∧
      retired u t c 4 ((fenceVma u c 1 (curVmid u c) (fenceOp u c rs1) (fenceAsid u c rs2)).core c)) ∧
    (fenceTrap s c true true = none → ∃ t, exec (.hfenceGvma c rs1 rs2 false) s = .next t ∧
      retired u t c 4 ((fenceGvma u c (fenceVmid u c rs2) ((fenceOp u c rs1).map (fun a => a * 4))).core c)) ∧
    (fenceTrap s c false false = none → ∃ t, exec (.sfenceWInval c) s = .next t ∧ retired u t c 4 (u.core c))) ∧
  (∀ (c : Fin 384) (rs1 rs2 : Fin 32) (s : State), s.ready c = true → s.ledgerCore c = false →
    (fenceTrap s c false true = none → (s.core c).virt = false → ∃ t, exec (.sinvalVma c rs1 rs2) s = .next t ∧
      retired s t c 4 { (fenceVma s c 0 none (fenceOp s c rs1) (fenceAsid s c rs2)).core c with sinval := true }) ∧
    (fenceTrap s c false true = none → (s.core c).virt = true → ∃ t, exec (.sinvalVma c rs1 rs2) s = .next t ∧
      retired s t c 4 { (fenceVma s c 1 (curVmid s c) (fenceOp s c rs1) (fenceAsid s c rs2)).core c with sinval := true }) ∧
    (fenceTrap s c true false = none → ∃ t, exec (.hfenceVvma c rs1 rs2 true) s = .next t ∧
      retired s t c 4 { (fenceVma s c 1 (curVmid s c) (fenceOp s c rs1) (fenceAsid s c rs2)).core c with sinval := true }) ∧
    (fenceTrap s c true true = none → ∃ t, exec (.hfenceGvma c rs1 rs2 true) s = .next t ∧
      retired s t c 4 { (fenceGvma s c (fenceVmid s c rs2) ((fenceOp s c rs1).map (fun a => a * 4))).core c with sinval := true }) ∧
    (fenceTrap s c false false = none →
      ∃ t, exec (.sfenceInvalIr c) s = .next t ∧ retired s t c 4 { s.core c with sinval := false })) ∧
  (∀ (c : Fin 384) (p q : BitVec 4) (rs1 rs2 : Fin 32) (s u : State), s.ready c = true → s.ledgerCore c = true → u = drainAll s c →
    exec (.fence c p q) s = .next ((u.endQuantum c 3).retire c 4) ∧
    exec (.fenceI c) s = .next (((u.setCore c { u.core c with l1i := [] }).endQuantum c 3).retire c 4) ∧
    (fenceTrap s c false true = none →
      exec (.sfenceVma c rs1 rs2) s = .next (((vmaAct c rs1 rs2 u).endQuantum c 3).retire c 4) ∧
      exec (.sinvalVma c rs1 rs2) s = .next (((noteSinval (vmaAct c rs1 rs2 u) c true).endQuantum c 3).retire c 4)) ∧
    (fenceTrap s c false false = none →
      exec (.sfenceWInval c) s = .next ((u.endQuantum c 3).retire c 4) ∧
      exec (.sfenceInvalIr c) s = .next (((noteSinval u c false).endQuantum c 3).retire c 4))) ∧
  (∀ (c : Fin 384) (rs1 rs2 : Fin 32) (inval : Bool) (s : State) (n : Nat), s.ready c = true →
    (fenceTrap s c false true = some n →
      exec (.sfenceVma c rs1 rs2) s = .next (trap s c n (sysWord 0x09 rs1 rs2)) ∧
      exec (.sinvalVma c rs1 rs2) s = .next (trap s c n (sysWord 0x0B rs1 rs2))) ∧
    (fenceTrap s c true false = some n →
      exec (.hfenceVvma c rs1 rs2 inval) s = .next (trap s c n (sysWord (if inval then 0x13 else 0x11) rs1 rs2))) ∧
    (fenceTrap s c true true = some n →
      exec (.hfenceGvma c rs1 rs2 inval) s = .next (trap s c n (sysWord (if inval then 0x33 else 0x31) rs1 rs2))) ∧
    (fenceTrap s c false false = some n →
      exec (.sfenceWInval c) s = .next (trap s c n (sysWord 0x0C 0 0)) ∧
      exec (.sfenceInvalIr c) s = .next (trap s c n (sysWord 0x0C 0 1))))

/-- What SFENCE.VMA of a non-virtual mode leaves (R165): no entry of the S regime that the operands select is in any TLB or walk cache of
the core; entries of other regimes, and global ones where an ASID is given, stay. An ASID operand counts with its low 16 bits. -/
def Claim.FenceSelects : Prop :=
  ∀ (c : Fin 384) (rs1 rs2 : Fin 32) (s t : State), s.ready c = true → s.ledgerCore c = false → (s.core c).mb = [] →
    fenceTrap s c false true = none → (s.core c).virt = false → exec (.sfenceVma c rs1 rs2) s = .next t →
    (∀ e : TlbEnt, e ∈ (t.core c).dtlb ↔ e ∈ (s.core c).dtlb ∧
      (e.regime ≠ 0 ∨ (rs1 ≠ 0 ∧ e.vpn ≠ (s.xreg c rs1).toNat / 2 ^ e.size) ∨
        (rs2 ≠ 0 ∧ (e.asid ≠ (s.xreg c rs2).toNat % 2 ^ 16 ∨ e.glob = true)))) ∧
    (rs1 = 0 → rs2 = 0 → ∀ e ∈ (t.core c).itlb ++ (t.core c).dtlb ++ (t.core c).l2tlb, e.regime ≠ 0)

/-- Fences and invalidations of translation structures. -/
def Obligations.CoreFences : Prop :=
  Claim.CoreFences ∧ Claim.FenceSelects

/-- The quantum of a ledger core (R144 to R147, R241, R249): JL.YIELD and JL.SKIP end it with END 5 and 6, JL.NEXT removes the head of
the mailbox, ECALL ends it with END 4 without retiring, QUANTUM_END_COUNT with END 0; each end counts once in CSQ_LDG_PHASE.ENDED. In an
open hand the Xjledger encodings are illegal. -/
def Obligations.LedgerQuantum : Prop :=
  (∀ (c : Fin 384) (w : BitVec 32) (s : State) (h : Nat), s.ready c = true → s.handOf c = some h → s.folio.isLedger h = true →
    (s.core c).mb = [] → (s.core c).count + 1 < s.quantumOf c →
    (jlForm w 0 false = true → ∃ t, exec (.jlYield c w) s = .next t ∧
      retiredBut s t c 4 { s.core c with ended := true, endCode := 5 } [.CSQ_LDG_PHASE h] ∧
      t.rd (.CSQ_LDG_PHASE h) = (s.put (.CSQ_LDG_PHASE h) F.CSQ_LDG_PHASE_ENDED
        (s.get (.CSQ_LDG_PHASE h) F.CSQ_LDG_PHASE_ENDED + 1)).rd (.CSQ_LDG_PHASE h) ∧
      t.eventCount c 0x000C = s.eventCount c 0x000C + 1 ∧
      eventsBut s t [(c.val, 0x000C)] ∧
      t = { s with regs := t.regs, cores := t.cores, events := t.events }) ∧
    (jlForm w 1 true = true → (s.xreg c (w.toNat / 32768 % 32)).toNat ≤ epochOf s c → ∃ t, exec (.jlSkip c w) s = .next t ∧
      retiredBut s t c 4 { s.core c with ended := true, endCode := 6 } [.CSQ_LDG_PHASE h] ∧
      t.eventCount c 0x000C = s.eventCount c 0x000C + 1 ∧
      eventsBut s t [(c.val, 0x000C)] ∧
      t = { s with regs := t.regs, cores := t.cores, events := t.events }) ∧
    (jlForm w 1 true = true → epochOf s c < (s.xreg c (w.toNat / 32768 % 32)).toNat → ∃ t, exec (.jlSkip c w) s = .next t ∧
      t.core c = { s.core c with
        skip := some (s.xreg c (w.toNat / 32768 % 32)).toNat, ended := true, endCode := 6 } ∧
      coresBut s t [c.val] ∧ regsBut s t [.CSQ_LDG_PHASE h] ∧
      t.eventCount c 0x000C = s.eventCount c 0x000C + 1 ∧
      eventsBut s t [(c.val, 0x000C)] ∧
      t = { s with regs := t.regs, cores := t.cores, events := t.events }) ∧
    (jlForm w 2 false = true → ∃ t, exec (.jlNext c w) s = .next t ∧
      retired s t c 4 { s.core c with mail := (s.core c).mail.drop 1 }) ∧
    (∃ t, exec (.ecall c) s = .next t ∧ t.core c = { s.core c with ended := true, endCode := 4 } ∧
      coresBut s t [c.val] ∧ regsBut s t [.CSQ_LDG_PHASE h] ∧
      t.eventCount c 0x000C = s.eventCount c 0x000C + 1 ∧
      eventsBut s t [(c.val, 0x000C)] ∧
      t = { s with regs := t.regs, cores := t.cores, events := t.events }) ∧
    (∃ t, exec (.quantumEndCount c) s = .next t ∧
      t.core c = { s.core c with count := s.quantumOf c, ended := true, endCode := 0 } ∧
      coresBut s t [c.val] ∧ regsBut s t [.CSQ_LDG_PHASE h] ∧
      t.eventCount c 0x000C = s.eventCount c 0x000C + 1 ∧
      eventsBut s t [(c.val, 0x000C)] ∧
      t = { s with regs := t.regs, cores := t.cores, events := t.events })) ∧
  (∀ (c : Fin 384) (w : BitVec 32) (s : State), s.ready c = true → s.ledgerCore c = false →
    exec (.jlYield c w) s = .next (illegal s c (w.zeroExtend 64)) ∧ exec (.jlSkip c w) s = .next (illegal s c (w.zeroExtend 64)) ∧
    exec (.jlNext c w) s = .next (illegal s c (w.zeroExtend 64)))

/-- CORE_LOAD (R121, R181): in an open hand, an access of one line whose bytes stand in no buffer and whose line is in the L1D returns
the addressed bytes, sign- or zero-extended; x0 stays zero; the instruction retires and nothing else changes but what the translation
left (the state `u`). A floating-point destination takes the bytes NaN-boxed, an element of a vector group takes them in its place: any
load of one line that the core's caches or buffers hold completes with the value that `gather` finds there. -/
def Claim.CoreLoadHit : Prop :=
  (∀ (c : Fin 384) (op : LoadOp) (s s0 u u1 : State) (pa v : Nat), s.ready c = true → widthOk s c op.rd op.bytes = true →
    s0 = atElement s c op.rd → (accessVa s0 c .load op.rd op.base op.imm).toNat % 4096 + op.bytes ≤ 4096 →
    locate s0 c (accessVa s0 c .load op.rd op.base op.imm) op.bytes .load .load false = (.at_ pa 0 .dram, u) →
    u.ledgerCore c = false → (u.core c).mb = [] → gather c (parts [(pa, op.bytes)]) u 0 0 = (.inr (v, none), u1) →
    exec (.coreLoad c op) s = .next (endAccess (writeLoaded u1 c op.rd op.bytes v op.signed) c op.rd (if op.rvc then 2 else 4))) ∧
  (∀ (s : State) (c : Fin 384) (r : Fin 32) (n v : Nat) (signed : Bool), n = 2 ∨ n = 4 ∨ n = 8 → v < 2 ^ (8 * n) →
    ((writeLoaded s c (.f r) n v signed).core c).f.getD r 0 = BitVec.ofNat 64 (2 ^ 64 - 2 ^ (8 * n) + v) ∧
    ((writeLoaded s c (.f r) n v signed).csr c 0x300).extractLsb' 13 2 = 3#2) ∧
  (∀ (c : Fin 384) (op : LoadOp) (r : Fin 32) (s u : State) (pa : Nat) (data : LineData), s.ready c = true → op.rd = .x r →
    op.bytes = 1 ∨ op.bytes = 2 ∨ op.bytes = 4 ∨ op.bytes = 8 →
    (let va := maskVa s c .load (s.xreg c op.base + op.imm.signExtend 64)
     va.toNat % 4096 + op.bytes ≤ 4096 → translate s c va .load = (.ok pa 0, u) → pa % 64 + op.bytes ≤ 64 →
     pmpOk u c (accMode u c .load).1 pa op.bytes .load = true → reach u c pa op.bytes .load = .dram →
     u.ledgerCore c = false → (u.core c).mb = [] → sramBits u 1 c (pa / 64 * 64) = 0 → (u.core c).l1d.get? (pa / 64) = some data →
     ∃ t, exec (.coreLoad c op) s = .next t ∧
       t.xreg c r = (if r = 0 then 0 else if op.signed then (data.extractLsb' (8 * (pa % 64)) (8 * op.bytes)).signExtend 64
         else (data.extractLsb' (8 * (pa % 64)) (8 * op.bytes)).setWidth 64) ∧
       (∀ q : Fin 32, q ≠ r → t.xreg c q = u.xreg c q) ∧
       retired u t c (if op.rvc then 2 else 4) { u.core c with x := (t.core c).x }))

/-- CORE_STORE (R121, R178, R179, R182): in an open hand, a store to one line that the merging buffer does not hold takes a new entry of
the buffer with the stored bytes and their mask; with eleven entries or fewer after it none begins to drain; the L1D copy of the line
takes the bytes too, the L2 does not; the instruction retires. Bytes outside the mask are no part of the entry. Any store of one page,
from whichever kind of register, completes once its parts have been performed. -/
def Claim.CoreStoreEntry : Prop :=
  (∀ (c : Fin 384) (op : StoreOp) (s s0 u u1 : State) (pa pb : Nat), s.ready c = true → widthOk s c op.rs2 op.bytes = true →
    s0 = atElement s c op.rs2 → (accessVa s0 c .store op.rs2 op.base op.imm).toNat % 4096 + op.bytes ≤ 4096 →
    locate s0 c (accessVa s0 c .store op.rs2 op.base op.imm) op.bytes .store .store false = (.at_ pa pb .dram, u) →
    doStore u c (storeParts (dataReg s0 c op.bytes op.rs2).toNat (pieceParts [⟨pa, op.bytes, pb, false⟩]) 0) = (true, u1) →
    exec (.coreStore c op) s = .next (endAccess u1 c op.rs2 (if op.rvc then 2 else 4))) ∧
  (∀ (c : Fin 384) (op : StoreOp) (r : Fin 32) (s u : State) (pa : Nat), s.ready c = true → op.rs2 = .x r →
    op.bytes = 1 ∨ op.bytes = 2 ∨ op.bytes = 4 ∨ op.bytes = 8 →
    (let va := maskVa s c .store (s.xreg c op.base + op.imm.signExtend 64)
     va.toNat % 4096 + op.bytes ≤ 4096 → translate s c va .store = (.ok pa 0, u) → pa % 64 + op.bytes ≤ 64 →
     pmpOk u c (accMode u c .store).1 pa op.bytes .store = true → reach u c pa op.bytes .store = .dram →
     u.ledgerCore c = false → (u.core c).mb.length < 11 → (u.core c).stores = [] →
     (u.core c).mb.any (fun e => e.line == pa / 64) = false →
     u.bit .FLT_INJECT F.FLT_INJECT_ARM = false →
     ∃ t e, exec (.coreStore c op) s = .next t ∧
       e = (⟨pa / 64, linePut 0 (pa % 64) op.bytes (s.xreg c r).toNat, needMask (pa % 64) op.bytes, false, false, false⟩ : MbEnt) ∧
       retiredBut u t c (if op.rvc then 2 else 4) { u.core c with
         mb := (u.core c).mb ++ [e]
         l1d := match (u.core c).l1d.get? (pa / 64) with
           | some d => (u.core c).l1d.set (pa / 64) (mergeLine e.mask e.data d)
           | none => (u.core c).l1d } [] ∧
       t = { u with regs := t.regs, cores := t.cores, flips := t.flips }))

/-- MB_IDLE_DRAIN, MB_ENTRY_DRAINED, ATOMIC_DEFERRAL_END (R180, R231): an idle entry begins to drain; a draining entry whose line the
L2 holds in M writes its masked bytes there and leaves the buffer; the end of a deferral answers the snoops of the line that waited. -/
def Claim.MergingBuffer : Prop :=
  (∀ (c : Fin 384) (line : Nat) (s : State), ∃ t, exec (.mbIdleDrain c line) s = .next t ∧
    t.core c = { s.core c with
      mb := (s.core c).mb.map (fun e => if e.line = line then { e with draining := true } else e) } ∧
    coresBut s t [c.val] ∧ t = { s with cores := t.cores }) ∧
  (∀ (c : Fin 384) (line : Nat) (s : State) (e : MbEnt) (l : L2Line), s.ledgerCore c = false → (s.core c).mb = [e] →
    (s.core c).stores = [] → e.line = line → e.draining = true → e.nc = false → sramBits s 7 c (line * 64) = 0 →
    sramBits s 2 c (line * 64) = 0 →
    l2Find s c line = some l → l.st = 3 → (s.core c).l1d.get? line = none →
    ∃ t, exec (.mbEntryDrained c line) s = .next t ∧ (t.core c).mb = [] ∧
      l2Find t c line = some { l with
        data := mergeLine e.mask e.data l.data, poison := e.poison || (l.poison && e.mask != BitVec.allOnes 64) } ∧
      (t.core c).x = (s.core c).x ∧ (t.core c).pc = (s.core c).pc ∧ coresBut s t [c.val] ∧
      regsBut s t [.FLT_INJECT] ∧ t = { s with regs := t.regs, cores := t.cores, flips := t.flips }) ∧
  (∀ (c : Fin 384) (line : Nat) (s : State), (s.core c).defer = some line →
    (s.die (c.val / 24)).snoopWait.filter (fun m => m.line == line) = [] →
    (∀ k ∈ coresOnDie (c.val / 24), (s.core k).waits = []) →
    ∃ t, exec (.atomicDeferralEnd c) s = .next t ∧ t.core c = { s.core c with defer := none } ∧ coresBut s t [c.val] ∧
      t.die (c.val / 24) = s.die (c.val / 24) ∧ diesBut s t [c.val / 24] ∧ t = { s with cores := t.cores, dies := t.dies }) ∧
  (∀ (c : Fin 384) (s : State), (s.core c).defer = none → exec (.atomicDeferralEnd c) s = .next s)

/-- PAGE_WALK and HW_PREFETCH (R149, R157, R158, R162, R183, R185): a walk leaves what the translation cached; its failure traps where the
access retires and leaves no trace where it was speculative or a prefetch. A prefetch translates its address as a load and asks for a
line that no cache of the die holds by RD_SHARED, where PMP and the windows allow it and its page is cached. Neither a prefetch nor its
walk is made while mjctl.PFDIS is set. -/
def Claim.WalkPrefetch : Prop :=
  (∀ (c : Fin 384) (va : Word) (acc : Acc) (why : WalkWhy) (s u : State) (pa pb : Nat), s.runs c = true →
    why ≠ .prefetch ∨ (s.csr c 0x7C0).getLsbD 0 = false →
    translate s c va acc = (.ok pa pb, u) → exec (.pageWalk c va acc why) s = .next u) ∧
  (∀ (c : Fin 384) (va : Word) (acc : Acc) (s u : State) (n g : Nat), s.runs c = true → translate s c va acc = (.fault n g, u) →
    exec (.pageWalk c va acc .retired) s = .next (trapGpa u c n va g) ∧ exec (.pageWalk c va acc .speculative) s = .next u ∧
    ((s.csr c 0x7C0).getLsbD 0 = false → exec (.pageWalk c va acc .prefetch) s = .next u)) ∧
  (∀ (c : Fin 384) (va : Word) (acc : Acc) (s : State), s.runs c = false → ∀ why, exec (.pageWalk c va acc why) s = .next s) ∧
  (∀ (c : Fin 384) (va : Word) (s u : State) (pa : Nat), s.runs c = true → (s.csr c 0x7C0).getLsbD 0 = false →
    translate s c va .load = (.ok pa 0, u) → pmpOk u c (accMode u c .load).1 (64 * (pa / 64)) 64 .load = true →
    reach u c (64 * (pa / 64)) 64 .load = .dram → l2Find u c (pa / 64) = none → l3Find u (c.val / 24) (pa / 64) = none →
    (u.die (c.val / 24)).misses.any (fun x => x.line == pa / 64) = false → (u.die (c.val / 24)).misses.length < 512 →
    wbHolds u (c.val / 24) (pa / 64) = false → wbFits u (c.val / 24) = true →
    ∃ t, exec (.hwPrefetch c va) s = .next t ∧
      t.die (c.val / 24) = { u.die (c.val / 24) with
        misses := (u.die (c.val / 24)).misses ++ [⟨pa / 64, .rdShared, c, handOr0 u c, false, true, 0, []⟩] } ∧
      t.point (c.val / 24) = { u.point (c.val / 24) with
        ready := (u.point (c.val / 24)).ready ++
          [⟨c.val % 24, dieMsg (c.val / 24) .rdShared (handOr0 u c) (pa / 64) (c.val % 24), u.cycle⟩] } ∧
      diesBut u t [c.val / 24] ∧ pointsBut u t [c.val / 24] ∧ t = { u with dies := t.dies, points := t.points }) ∧
  (∀ (c : Fin 384) (va : Word) (s u : State) (pa pb : Nat), s.runs c = true → translate s c va .load = (.ok pa pb, u) →
    (s.csr c 0x7C0).getLsbD 0 = false → pb ≠ 0 ∨ pmpOk u c (accMode u c .load).1 (64 * (pa / 64)) 64 .load = false →
    exec (.hwPrefetch c va) s = .next u) ∧
  (∀ (c : Fin 384) (va : Word) (acc : Acc) (s : State), (s.csr c 0x7C0).getLsbD 0 = true →
    exec (.hwPrefetch c va) s = .next s ∧ exec (.pageWalk c va acc .prefetch) s = .next s)

/-- Loads that hit, stores into the merging buffer, its drains, walks and prefetches. -/
def Obligations.CoreMemory : Prop :=
  Claim.CoreLoadHit ∧ Claim.CoreStoreEntry ∧ Claim.MergingBuffer ∧ Claim.WalkPrefetch

/-- AMO, LOAD_RESERVED and STORE_CONDITIONAL (R231), naturally aligned on a line that the L2 holds in M, in an open hand with an empty
store path: the AMO writes the result of its operation and returns the old value; the LR returns the value, holds the reservation and
defers the line's snoops; an SC whose reservation is for its bytes writes them and returns 0, any other writes nothing and returns 1,
and either ends the reservation. -/
def Claim.CoreAtomics : Prop :=
  ∀ (c : Fin 384) (op : AmoOp) (s u : State) (pa : Nat) (l : L2Line), s.ready c = true → op.bytes = 4 ∨ op.bytes = 8 →
    (s.core c).mb = [] → u.ledgerCore c = false → (u.core c).mb = [] → (u.core c).stores = [] → l2Find u c (pa / 64) = some l →
    l.st = 3 → l.poison = false → (u.core c).defer = none → sramBits u 2 c (pa / 64 * 64) = 0 → pa % 64 + op.bytes ≤ 64 →
    (let val := writeLoaded u c (.x op.rd) op.bytes (lineGet l.data (pa % 64) op.bytes) true
     let new (n : Nat) : L2Line := { l with data := linePut l.data (pa % 64) op.bytes n }
     (let va := maskVa s c .store (s.xreg c op.rs1)
      va.toNat % op.bytes = 0 → locate s c va op.bytes .store .atomic false = (.at_ pa 0 .dram, u) →
      (∃ t, exec (.amo c op) s = .next t ∧
        l2Find t c (pa / 64) = some (new (amoResult op.fn op.bytes (lineGet l.data (pa % 64) op.bytes)
          ((u.xreg c op.rs2).toNat % 2 ^ (8 * op.bytes)))) ∧
        t.xreg c op.rd = val.xreg c op.rd ∧ (∀ q : Fin 32, q ≠ op.rd → t.xreg c q = u.xreg c q) ∧
        (t.core c).pc = (u.core c).pc + 4 ∧ (t.core c).mb = [] ∧ coresBut u t [c.val] ∧
        t = { u with regs := t.regs, cores := t.cores, flips := t.flips }) ∧
      ((u.core c).resv = some (pa, op.bytes) → ∃ t, exec (.storeConditional c op) s = .next t ∧
        l2Find t c (pa / 64) = some (new ((u.xreg c op.rs2).toNat % 2 ^ (8 * op.bytes))) ∧ t.xreg c op.rd = 0 ∧
        (t.core c).resv = none ∧ (t.core c).pc = (u.core c).pc + 4 ∧ coresBut u t [c.val] ∧
        t = { u with regs := t.regs, cores := t.cores, flips := t.flips }) ∧
      ((u.core c).resv ≠ some (pa, op.bytes) → ∃ t, exec (.storeConditional c op) s = .next t ∧
        l2Find t c (pa / 64) = some l ∧ t.xreg c op.rd = (if op.rd = 0 then 0 else 1) ∧
        (t.core c).resv = none ∧ (t.core c).pc = (u.core c).pc + 4 ∧ coresBut u t [c.val] ∧
        t = { u with regs := t.regs, cores := t.cores, flips := t.flips })) ∧
     (let va := maskVa s c .load (s.xreg c op.rs1)
      va.toNat % op.bytes = 0 → locate s c va op.bytes .load .reserve false = (.at_ pa 0 .dram, u) →
      ∃ t, exec (.loadReserved c op) s = .next t ∧ l2Find t c (pa / 64) = some l ∧
        t.xreg c op.rd = val.xreg c op.rd ∧ (t.core c).resv = some (pa, op.bytes) ∧
        (t.core c).defer = some (pa / 64) ∧ (t.core c).pc = (u.core c).pc + 4 ∧ coresBut u t [c.val] ∧
        t = { u with regs := t.regs, cores := t.cores, flips := t.flips }))

/-- The cache-block instructions in a mode that may execute them (R182, R212, R249; the enables of the modes are Zicbom's and Zicboz's, log
entry 20). In an open hand with the line's merging-buffer entry drained, CBO.CLEAN, CBO.FLUSH and CBO.INVAL, which is performed as a
flush, send their request to the line's home and wait for CMP; CBO.ZERO of a line that the die holds in E or M with no core copy leaves
the core's copy in M, zero and without poison, and on an NC or IO page, or in ledger mode, stores 64 zero bytes. In ledger mode the other
three retire without effect. In a mode that may not execute them they trap. -/
def Claim.CoreCacheBlock : Prop :=
  (∀ (c : Fin 384) (rs1 : Fin 32) (inval : Bool) (s u : State) (pa pb : Nat), s.ready c = true → s.ledgerCore c = false →
    locate s c (maskVa s c .load (s.xreg c rs1) &&& ~~~ (63 : Word)) 64 .load .load true = (.at_ pa pb .dram, u) →
    (u.core c).mb = [] → (u.core c).waits = [] → wbHolds u (c.val / 24) (pa / 64) = false →
    (cboTrap s c ⟨6, 6⟩ = none → ∃ t, exec (.cboCleanInsn c rs1) s = .next t ∧ (t.core c).waits = [⟨pa / 64, .cbo⟩] ∧
      (t.core c).pc = (u.core c).pc ∧ t.die (c.val / 24) = { u.die (c.val / 24) with ops := (u.die (c.val / 24)).ops ++
        [{ dieMsg (c.val / 24) .cboClean (handOr0 u c) (pa / 64) (c.val % 24) with txn := c }] } ∧
      t.point (c.val / 24) = { u.point (c.val / 24) with ready := (u.point (c.val / 24)).ready ++ [⟨c.val % 24,
        { dieMsg (c.val / 24) .cboClean (handOr0 u c) (pa / 64) (c.val % 24) with txn := c }, u.cycle⟩] } ∧
      coresBut u t [c.val] ∧ diesBut u t [c.val / 24] ∧ pointsBut u t [c.val / 24] ∧
      t = { u with cores := t.cores, dies := t.dies, points := t.points }) ∧
    (cboTrap s c (if inval then ⟨5, 4⟩ else ⟨6, 6⟩) = none →
      ∃ t, exec (.cboFlushInsn c ⟨rs1, inval⟩) s = .next t ∧ (t.core c).waits = [⟨pa / 64, .cbo⟩] ∧
      t.die (c.val / 24) = { u.die (c.val / 24) with ops := (u.die (c.val / 24)).ops ++
        [{ dieMsg (c.val / 24) .cboFlush (handOr0 u c) (pa / 64) (c.val % 24) with txn := c }] } ∧
      t.point (c.val / 24) = { u.point (c.val / 24) with ready := (u.point (c.val / 24)).ready ++ [⟨c.val % 24,
        { dieMsg (c.val / 24) .cboFlush (handOr0 u c) (pa / 64) (c.val % 24) with txn := c }, u.cycle⟩] } ∧
      coresBut u t [c.val] ∧ diesBut u t [c.val / 24] ∧ pointsBut u t [c.val / 24] ∧
      t = { u with cores := t.cores, dies := t.dies, points := t.points })) ∧
  (∀ (c : Fin 384) (rs1 : Fin 32) (s u : State) (pa : Nat) (e : L3Line), s.ready c = true → cboTrap s c ⟨7, 7⟩ = none →
    s.ledgerCore c = false →
    locate s c (maskVa s c .store (s.xreg c rs1) &&& ~~~ (63 : Word)) 64 .store .store false = (.at_ pa 0 .dram, u) →
    u.ledgerCore c = false → (u.core c).mb = [] → (u.core c).l2 = [] → (u.core c).l1d = [] →
    l3Find u (c.val / 24) (pa / 64) = some e → 2 ≤ e.st → e.valid = 0 → deferredFor u c (pa / 64) = false →
    wbFits u (c.val / 24) = true →
    ∃ t, exec (.cboZero c rs1) s = .next t ∧ l2Find t c (pa / 64) = some ⟨pa / 64, 3, 0, false⟩ ∧
      (t.core c).pc = (u.core c).pc + 4 ∧ (t.core c).l1d = [] ∧ coresBut u t [c.val] ∧ diesBut u t [c.val / 24] ∧
      t = { u with regs := t.regs, cores := t.cores, dies := t.dies, flips := t.flips }) ∧
  (∀ (c : Fin 384) (rs1 : Fin 32) (s u u1 : State) (pa pb : Nat), s.ready c = true → cboTrap s c ⟨7, 7⟩ = none →
    locate s c (maskVa s c .store (s.xreg c rs1) &&& ~~~ (63 : Word)) 64 .store .store false = (.at_ pa pb .dram, u) →
    u.ledgerCore c = true ∨ pb ≠ 0 →
    doStore u c [(⟨pa / 64, 0, BitVec.allOnes 64, pb == 1, false, false⟩, pb)] = (true, u1) →
    exec (.cboZero c rs1) s = .next (u1.retire c 4)) ∧
  (∀ (c : Fin 384) (rs1 : Fin 32) (inval : Bool) (s : State), s.ready c = true → s.ledgerCore c = true →
    (cboTrap s c ⟨6, 6⟩ = none → exec (.cboCleanInsn c rs1) s = .next (s.retire c 4)) ∧
    (cboTrap s c (if inval then ⟨5, 4⟩ else ⟨6, 6⟩) = none → exec (.cboFlushInsn c ⟨rs1, inval⟩) s = .next (s.retire c 4)) ∧
    ((s.core c).count + 1 < s.quantumOf c → cboTrap s c ⟨6, 6⟩ = none →
      ∃ t, exec (.cboCleanInsn c rs1) s = .next t ∧ retired s t c 4 (s.core c))) ∧
  (∀ (c : Fin 384) (rs1 : Fin 32) (s : State) (n : Nat), s.ready c = true →
    (cboTrap s c ⟨6, 6⟩ = some n → exec (.cboCleanInsn c rs1) s = .next (trap s c n (cboWord 1 rs1)) ∧
      exec (.cboFlushInsn c ⟨rs1, false⟩) s = .next (trap s c n (cboWord 2 rs1))) ∧
    (cboTrap s c ⟨5, 4⟩ = some n → exec (.cboFlushInsn c ⟨rs1, true⟩) s = .next (trap s c n (cboWord 0 rs1))) ∧
    (cboTrap s c ⟨7, 7⟩ = some n → exec (.cboZero c rs1) s = .next (trap s c n (cboWord 4 rs1))))

/-- Atomics, reservations and cache-block operations of a core. -/
def Obligations.CoreAtomicsCbo : Prop :=
  Claim.CoreAtomics ∧ Claim.CoreCacheBlock

/-- SACC.CLR, SACC.RDV, SACC.WRV and SACC.SUM (R135, R136, R142), of a hart whose vector state is on and legal, in an open hand: the
lanes are cleared; eight lanes are read into or written from a vector register; the wrapping sum of the 64 lanes goes to x[rd]. vstart is
zero afterwards, and an instruction that the rules call illegal takes cause 2. -/
def Claim.SaccMoves : Prop :=
  (∀ (c : Fin 384) (w : BitVec 32) (s : State), s.ready c = true → vsOff s c = false → (vtypeOf s c).getLsbD 63 = false →
    s.ledgerCore c = false →
    (xjForm w 3 0 (some 1) false false false = true → ∃ t, exec (.saccClr c w) s = .next t ∧
      retiredBut s t c 4 { s.core c with sacc := [] } [.CSR c 0x300, .CSR c 0x200, .CSR c 0x008] ∧
      (∀ j, lane t c j = 0) ∧ vstartOf t c = 0 ∧ t = { s with regs := t.regs, cores := t.cores }) ∧
    (xjForm w 3 1 (some 1) true false true = true → wbits w 24 23 = 0 → ∃ t, exec (.saccRdv c w) s = .next t ∧
      (∀ j < 8, lineGet (vreg t c (wbits w 11 7)) (8 * j) 8 = (lane s c (8 * wbits w 22 20 + j)).toNat) ∧
      (∀ r, r ≠ wbits w 11 7 → vreg t c r = vreg s c r) ∧ (t.core c).sacc = (s.core c).sacc ∧ vstartOf t c = 0 ∧
      retiredBut s t c 4 { s.core c with v := (t.core c).v } [.CSR c 0x300, .CSR c 0x200, .CSR c 0x008]) ∧
    (xjForm w 3 2 (some 1) true true false = true → wbits w 24 23 = 0 → ∃ t, exec (.saccWrv c w) s = .next t ∧
      (∀ j < 8, lane t c (8 * wbits w 22 20 + j) = BitVec.ofNat 64 (lineGet (vreg s c (wbits w 19 15)) (8 * j) 8)) ∧
      (∀ j, j < 8 * wbits w 22 20 ∨ 8 * wbits w 22 20 + 8 ≤ j → lane t c j = lane s c j) ∧ (t.core c).v = (s.core c).v ∧
      retiredBut s t c 4 { s.core c with sacc := (t.core c).sacc } [.CSR c 0x300, .CSR c 0x200, .CSR c 0x008]) ∧
    (xjForm w 3 3 (some 1) false false true = true → ∃ t, exec (.saccSum c w) s = .next t ∧
      t.xreg c (wbits w 11 7) = (if wbits w 11 7 = 0 then 0 else ((List.range 64).map (lane s c)).sum) ∧
      (t.core c).sacc = (s.core c).sacc ∧ vstartOf t c = 0 ∧
      retiredBut s t c 4 { s.core c with x := (t.core c).x } [.CSR c 0x008])) ∧
  (∀ (c : Fin 384) (w : BitVec 32) (s : State), s.ready c = true → vsOff s c = true →
    exec (.saccClr c w) s = .next (illegal s c (w.zeroExtend 64)) ∧ exec (.saccSum c w) s = .next (illegal s c (w.zeroExtend 64)) ∧
    exec (.smacVv c w) s = .next (illegal s c (w.zeroExtend 64)) ∧ exec (.spkLd c w) s = .next (illegal s c (w.zeroExtend 64)) ∧
    exec (.spkSt c w) s = .next (illegal s c (w.zeroExtend 64)))

/-- SMAC.VV (R140): unmasked, from element 0, each of the first 64 elements adds its signed product to the lane of its number,
wrapping; the lanes of no element keep their values, and neither source changes. -/
def Claim.SaccMultiply : Prop :=
  ∀ (c : Fin 384) (w : BitVec 32) (s : State), s.ready c = true → vsOff s c = false → (vtypeOf s c).getLsbD 63 = false →
    s.ledgerCore c = false → xjForm w 2 0 (some 1) true true false = true → sew16 s c = true → groupOk s c (wbits w 19 15) = true →
    groupOk s c (wbits w 24 20) = true → vlOf s c ≤ 64 → vstartOf s c = 0 →
    ∃ t, exec (.smacVv c w) s = .next t ∧
      (∀ i, i < vlOf s c → lane t c i = lane s c i +
        (velem s c (wbits w 24 20) i).signExtend 64 * (velem s c (wbits w 19 15) i).signExtend 64) ∧
      (∀ i, vlOf s c ≤ i → lane t c i = lane s c i) ∧ vstartOf t c = 0 ∧
      t.eventCount c 0x000F = s.eventCount c 0x000F + vlOf s c ∧ eventsBut s t [(c.val, 0x000F)] ∧
      retiredBut s t c 4 { s.core c with sacc := (t.core c).sacc } [.CSR c 0x300, .CSR c 0x200, .CSR c 0x008]

/-- The s14 accumulators: moves, reads, writes and multiply-accumulate. -/
def Obligations.SaccUnit : Prop :=
  Claim.SaccMoves ∧ Claim.SaccMultiply

/-- SPK.LD and SPK.ST of one cell (R133, R134, R138, R139): nine elements, unmasked, from element 0. The load leaves in element k the
sign-extended 14 bits of sample k of the 16 bytes at the base, and a tail element keeps its value or, where vtype.vta is set, may become
all ones; the store puts the cell of the nine saturated elements, its top two bits
zero, into the merging buffer, and a saturation sets vxsat, also where the store of the cell then traps. A base that is not a multiple of
16 takes the misaligned exception. -/
def Obligations.SampleCells : Prop :=
  (∀ (c : Fin 384) (w : BitVec 32) (s u : State) (pa : Nat) (data : LineData), s.ready c = true → vsOff s c = false →
    (vtypeOf s c).getLsbD 63 = false → xjForm w 0 0 (some 1) false true true = true → sew16 s c = true →
    groupOk s c (wbits w 11 7) = true → vlOf s c = 9 → vstartOf s c = 0 →
    (let base := maskVa s c .load (s.xreg c (wbits w 19 15))
     base.toNat % 16 = 0 → locate (setVstart s c 0) c base 16 .load .load false = (.at_ pa 0 .dram, u) → pa % 16 = 0 →
     u.ledgerCore c = false → (u.core c).mb = [] → sramBits u 1 c (pa / 64 * 64) = 0 → (u.core c).l1d.get? (pa / 64) = some data →
     ∃ t, exec (.spkLd c w) s = .next t ∧
       (∀ k < 9, velem t c (wbits w 11 7) k = (data.extractLsb' (8 * (pa % 64) + 14 * k) 14).signExtend 16) ∧
       (∀ i, 9 ≤ i → i < 32 * groupSize s c → velem t c (wbits w 11 7) i = velem u c (wbits w 11 7) i ∨
         (vtypeOf s c).getLsbD 6 = true ∧ velem t c (wbits w 11 7) i = 0xFFFF) ∧
       (∀ r, r < wbits w 11 7 ∨ wbits w 11 7 + groupSize s c ≤ r → vreg t c r = vreg u c r) ∧
       vstartOf t c = 0 ∧ (t.core c).pc = (u.core c).pc + 4 ∧
       coresBut u t [c.val] ∧ t = { u with regs := t.regs, cores := t.cores, free := t.free })) ∧
  (∀ (c : Fin 384) (w : BitVec 32) (s u : State) (pa : Nat), s.ready c = true → vsOff s c = false →
    (vtypeOf s c).getLsbD 63 = false → xjForm w 1 0 (some 1) false true true = true → sew16 s c = true →
    groupOk s c (wbits w 11 7) = true → vlOf s c = 9 → vstartOf s c = 0 →
    (let base := maskVa s c .store (s.xreg c (wbits w 19 15))
     let cell := packCell s c (wbits w 11 7) 0
     base.toNat % 16 = 0 → locate (noteSat (setVstart s c 0) c cell.2) c base 16 .store .store false = (.at_ pa 0 .dram, u) → pa % 16 = 0 →
     (u.core c).stores = [] → u.ledgerCore c = false → (u.core c).mb = [] →
     (u.core c).l1d = [] →
     ∃ t, exec (.spkSt c w) s = .next t ∧
       (t.core c).mb = [⟨pa / 64, linePut 0 (pa % 64) 16 cell.1, needMask (pa % 64) 16, false, false, false⟩] ∧
       (t.csr c 0x009 = if cell.2 then 1 else s.csr c 0x009) ∧
       vstartOf t c = 0 ∧ (t.core c).pc = (u.core c).pc + 4 ∧ coresBut u t [c.val] ∧
       t = { u with regs := t.regs, cores := t.cores, flips := t.flips })) ∧
  (∀ (c : Fin 384) (w : BitVec 32) (s u : State), s.ready c = true → vsOff s c = false →
    (vtypeOf s c).getLsbD 63 = false → xjForm w 1 0 (some 1) false true true = true → sew16 s c = true →
    groupOk s c (wbits w 11 7) = true → vlOf s c = 9 → vstartOf s c = 0 → (s.core c).stores = [] →
    (let base := maskVa s c .store (s.xreg c (wbits w 19 15))
     let cell := packCell s c (wbits w 11 7) 0
     base.toNat % 16 = 0 → locate (noteSat (setVstart s c 0) c cell.2) c base 16 .store .store false = (.trapped, u) →
     exec (.spkSt c w) s = .next u ∧ (cell.2 = true → u.csr c 0x009 = 1))) ∧
  (∀ (c : Fin 384) (w : BitVec 32) (s : State), s.ready c = true → vsOff s c = false → (vtypeOf s c).getLsbD 63 = false →
    xjForm w 0 0 (some 1) false true true = true → sew16 s c = true → groupOk s c (wbits w 11 7) = true →
    (maskVa s c .load (s.xreg c (wbits w 19 15))).toNat % 16 ≠ 0 →
    exec (.spkLd c w) s = .next (trap s c 4 (maskVa s c .load (s.xreg c (wbits w 19 15)))))

/-- A message enters the pipeline of its home slice (R206): each of the nine requests is admitted, and each of the four WB-class messages
is taken, at the slice of its line; while entry is suspended it is held back instead, in order of arrival, and nothing else changes. -/
def Obligations.HomeEnter : Prop :=
  ∀ (m : Msg) (n : Nat) (s : State),
    (entersSlice s m n →
      exec (.rdShared m) s = .next (admitReq s n { m with op := .rdShared }) ∧
      exec (.rdOwn m) s = .next (admitReq s n { m with op := .rdOwn }) ∧
      exec (.upgrade m) s = .next (admitReq s n { m with op := .upgrade }) ∧
      exec (.claim m) s = .next (admitReq s n { m with op := .claim }) ∧
      exec (.rdOnce m) s = .next (admitReq s n { m with op := .rdOnce }) ∧
      exec (.wrFull m) s = .next (admitReq s n { m with op := .wrFull }) ∧
      exec (.wrPartial m) s = .next (admitReq s n { m with op := .wrPartial }) ∧
      exec (.cboClean m) s = .next (admitReq s n { m with op := .cboClean }) ∧
      exec (.cboFlush m) s = .next (admitReq s n { m with op := .cboFlush }) ∧
      exec (.wbData m) s = .next (takeWb s n { m with op := .wbData }) ∧
      exec (.wbKeep m) s = .next (takeWb s n { m with op := .wbKeep }) ∧
      exec (.evictClean m) s = .next (takeWb s n { m with op := .evictClean }) ∧
      exec (.discard m) s = .next (takeWb s n { m with op := .discard })) ∧
    (sliceOf s m.line = n → (s.slice n).suspend = true →
      exec (.rdShared m) s = .next (s.setSlice n { s.slice n with held := (s.slice n).held ++ [{ m with op := .rdShared }] }) ∧
      exec (.wbData m) s = .next (s.setSlice n { s.slice n with held := (s.slice n).held ++ [{ m with op := .wbData }] }))

/-- A read of a line that no directory entry holds and that finds a free way (R207, R214, R226, R228): the line has an entry in state I
there, its transaction awaits no die and reads memory, and no message leaves the slice. Where no request waits for an entry of the line's
channel, the read stands at the end of the read queue if an entry is free for its hand, and waits for one otherwise (R270). -/
def Claim.HomeReadMiss : Prop :=
  ∀ (m : Msg) (n key : Nat) (s : State), n < 16 → entersSlice s m n → inStaging s n m.line = false → findEnt s n m.line = none →
    findWay s n m.line m.hand = some (key, s) → (s.slice n).lineWait = [] → (s.slice n).setWait = [] →
    s.bit (.HOME_INJECT n) F.HOME_INJECT_ARM = false →
    ∀ i ∈ [Instr.rdShared m, Instr.rdOwn m], ∃ t, exec i s = .next t ∧
      (t.slice n).dir.get? key = some ⟨m.line, 0, 0, 0, 0, [], []⟩ ∧
      (∃ x ∈ (t.slice n).txns, x.req.line = m.line ∧ x.req.src = m.src ∧ x.await = [] ∧ x.reading = true) ∧
      (t.slice n).lineWait = (s.slice n).lineWait ∧
      (let ch := (placeOf s m.line).chan;
       chansBut s t [ch] ∧ ((s.chan ch).waitQ = [] → t.chan ch =
         match entryFor s ch true m.hand with
         | some own => { s.chan ch with
             reads := (s.chan ch).reads ++ [⟨2 * n, m.hand, m.line, (s.chan ch).seq, s.cycle, own, none, 0, false⟩],
             seq := (s.chan ch).seq + 1 }
         | none => { s.chan ch with waitQ := [.read (2 * n) m.hand m.line] })) ∧
      slicesBut s t [n] ∧ regsBut s t [.HOME_INJECT n] ∧
      eventsBut s t [(0x1020 + (placeOf s m.line).chan, 0x0306)] ∧
      t = { s with regs := t.regs, slices := t.slices, chans := t.chans, events := t.events }

/-- A read of a line that another die owns (R213, R214): the owner alone is snooped, with SNP_SHARED for RD_SHARED and SNP_INV for
RD_OWN; the transaction awaits its answer, and memory is not read. -/
def Claim.HomeSnoopOwner : Prop :=
  ∀ (m : Msg) (n key : Nat) (d o : Fin 16) (e : DirEnt) (s : State), n < 16 → entersSlice s m n → m.src = .die d → d ≠ o →
    inStaging s n m.line = false → findEnt s n m.line = some (key, e) → e.line = m.line → e.e0 = [] → e.e1 = [] →
    e.st = 2 ∨ e.st = 3 → e.own = o.val → dieMasked s o = false → (s.slice n).lineWait = [] → (s.slice n).setWait = [] →
    (s.slice n).txns = [] →
    s.bit (.HOME_INJECT n) F.HOME_INJECT_ARM = false →
    (∀ i ∈ [(Instr.rdShared m, Opc.snpShared), (Instr.rdOwn m, Opc.snpInv)], ∃ t x, exec i.1 s = .next t ∧
      (t.slice n).txns = [x] ∧ x.req.line = m.line ∧ x.await = [o.val] ∧ x.reading = false ∧ x.snooped = true ∧
      t.point (0x10 + o.val) = { s.point (0x10 + o.val) with
        ready := (s.point (0x10 + o.val)).ready ++ [⟨n, { msg0 i.2 m.hand m.line with die := o, txn := n }, s.cycle⟩] } ∧
      pointsBut s t [0x10 + o.val] ∧ t.chans = s.chans ∧ slicesBut s t [n] ∧ regsBut s t [.HOME_INJECT n] ∧
      t.eventCount (0x1010 + n) 0x0204 = s.eventCount (0x1010 + n) 0x0204 + 1 ∧
      eventsBut s t [(0x1010 + n, 0x0204)] ∧
      t = { s with regs := t.regs, slices := t.slices, points := t.points, events := t.events })

/-- WR_FULL on a line that no entry holds (R210, R214): the line is written to memory through the write queue of its channel, where no
request waits for an entry and one is free (R270), CMP goes to the die that asked, and the directory holds no entry of the line
afterwards. -/
def Claim.HomeWriteFull : Prop :=
  ∀ (m : Msg) (n key : Nat) (d : Fin 16) (s : State), n < 16 → entersSlice s m n → m.src = .die d → dieMasked s d = false →
    inStaging s n m.line = false → findEnt s n m.line = none → findWay s n m.line m.hand = some (key, s) →
    (s.slice n).lineWait = [] → (s.slice n).setWait = [] → (s.slice n).txns = [] →
    s.bit (.HOME_INJECT n) F.HOME_INJECT_ARM = false →
    (s.chan (placeOf s m.line).chan).writes.any (fun w => w.line == m.line) = false →
    (s.chan (placeOf s m.line).chan).waitQ = [] → (entryFor s (placeOf s m.line).chan false m.hand).isSome = true →
    ∃ t w, exec (.wrFull m) s = .next t ∧ findEnt t n m.line = none ∧ (t.slice n).txns = [] ∧
      (let ch := (placeOf s m.line).chan;
       t.chan ch = { s.chan ch with writes := (s.chan ch).writes ++ [w], seq := (s.chan ch).seq + 1 } ∧ chansBut s t [ch]) ∧
      w.line = m.line ∧ w.data = m.data ∧ w.hand = m.hand ∧ w.fix = false ∧ w.flip = s.bit (.HOME_INJECT n) F.HOME_INJECT_BACKING ∧
      w.backing = backing m.poison (if m.poison then 3 else 0) m.hand false ∧
      t.point (0x10 + d.val) = { s.point (0x10 + d.val) with
        ready := (s.point (0x10 + d.val)).ready ++
          [⟨n, { m with op := .cmp, gen := 0, data := 0, poison := false, die := d }, s.cycle⟩] } ∧
      pointsBut s t [0x10 + d.val] ∧ slicesBut s t [n] ∧ t.dram = s.dram ∧ t.cores = s.cores ∧ t.dies = s.dies

/-- Home transactions: reads of unowned and owned lines and full writes. -/
def Obligations.HomeTransactions : Prop :=
  Claim.HomeReadMiss ∧ Claim.HomeSnoopOwner ∧ Claim.HomeWriteFull

/-- WB-class messages (R209, R221 to R223): from the owner of the line, WB_DATA writes memory and frees the entry, WB_KEEP writes memory
and leaves the entry in E, DISCARD frees the entry and writes nothing; an EVICT_CLEAN of the entry's generation clears the sender's
presence bit; each is answered WB_ACK. One that finds no entry, or another owner or (on a link with EVGEN) generation, is counted in HOME_STALE and answered
WB_ACK_STALE, and the directory is as before. -/
def Claim.HomeWriteback : Prop :=
  (∀ (m : Msg) (n key : Nat) (d : Fin 16) (e : DirEnt) (s : State), entersSlice s m n → m.src = .die d → pins s n m.line = 0 →
    inStaging s n m.line = false → findEnt s n m.line = some (key, e) → e.e0 = [] → e.e1 = [] → dieMasked s d = false →
    (e.st = 2 ∨ e.st = 3 → e.own = d.val →
      exec (.wbData m) s = .next (answer (dropEnt (homeData s n m.line m.hand m.data m.poison) n key) n { m with op := .wbData }
        .wbAck 0 0 false) ∧
      exec (.wbKeep m) s = .next (answer (writeEnt (homeData s n m.line m.hand m.data m.poison) n key { e with st := 2 }) n
        { m with op := .wbKeep } .wbAck 0 0 false) ∧
      exec (.discard m) s = .next (answer (dropEnt s n key) n { m with op := .discard } .wbAck 0 0 false)) ∧
    (m.gen.toNat = e.gen → presOf s e = [d.val] →
      exec (.evictClean m) s = .next (answer (dropEnt s n key) n { m with op := .evictClean } .wbAck 0 0 false)) ∧
    (m.gen.toNat ≠ e.gen → (s.rd (.DL_FEAT_EFF d)).getLsbD 5 = true → exec (.evictClean m) s =
      .next (answer (s.inc (.HOME_STALE n) F.HOME_STALE_STALE_NOTICE) n { m with op := .evictClean } .wbAckStale 0 0 false)) ∧
    (e.own ≠ d.val → exec (.wbData m) s =
      .next (answer (s.inc (.HOME_STALE n) F.HOME_STALE_STALE_WB) n { m with op := .wbData } .wbAckStale 0 0 false))) ∧
  (∀ (m : Msg) (n : Nat) (s : State), entersSlice s m n → pins s n m.line = 0 → inStaging s n m.line = false →
    findEnt s n m.line = none →
    exec (.wbKeep m) s =
      .next (answer (s.inc (.HOME_STALE n) F.HOME_STALE_STALE_WB) n { m with op := .wbKeep } .wbAckStale 0 0 false) ∧
    exec (.discard m) s =
      .next (answer (s.inc (.HOME_STALE n) F.HOME_STALE_STALE_NOTICE) n { m with op := .discard } .wbAckStale 0 0 false))

/-- The vault check (R395): a request for a vault line without the secure attribute opens nothing; a read is answered DATA_NC, poisoned
and empty, a full write CMP, a WB-class message WB_ACK_STALE; VAULT_DENIED sets, and the directory, the queues of the slice and memory
are as before. -/
def Claim.HomeVault : Prop :=
  ∀ (m : Msg) (n : Nat) (d : Fin 16) (s : State), n < 16 → sliceOf s m.line = n → (s.slice n).suspend = false →
    sliceFolded s n = false → s.bit .ARC_INJECT F.ARC_INJECT_VAULT = false → inVault s m.line = true → m.src = .die d →
    dieMasked s d = false →
    ∀ i ∈ [(Instr.rdShared m, Opc.dataNc, true), (Instr.rdOwn m, Opc.dataNc, true), (Instr.rdOnce m, Opc.dataNc, true),
        (Instr.wrFull m, Opc.cmp, false), (Instr.wbData m, Opc.wbAckStale, false)],
      ∃ t a, exec i.1 s = .next t ∧ a.op = i.2.1 ∧ a.data = 0 ∧ a.poison = i.2.2 ∧ a.line = m.line ∧
        t.point (0x10 + d.val) = { s.point (0x10 + d.val) with
          ready := (s.point (0x10 + d.val)).ready ++ [⟨n, a, s.cycle⟩] } ∧ pointsBut s t [0x10 + d.val] ∧
        t.bit .ARC_ERR F.ARC_ERR_VAULT_DENIED = true ∧ t.get .ARC_DENIED F.ARC_DENIED_SLICE = n ∧
        eventsBut s t [(0x1010 + n, 0x0206)] ∧
        t = { s with regs := t.regs, points := t.points, flips := t.flips, events := t.events }

/-- Write-backs at the home slice and requests of vault lines. -/
def Obligations.HomeWritebackVault : Prop :=
  Claim.HomeWriteback ∧ Claim.HomeVault

/-- Snoop answers (R213, R214, R229): an answer of die `d` for a line in a staging entry takes the die off the answers due and leaves its
data, if it brought some, in the entry; the entry with all its answers writes returned data to memory and frees itself. -/
def Claim.HomeSnoopAnswer : Prop :=
  (∀ (m : Msg) (n : Nat) (d : Fin 16) (e : StageEnt) (s : State), sliceOf s m.line = n → m.src = .die d →
    (s.slice n).recover = [] → (s.slice n).txns = [] → (s.slice n).staged = [e] → e.ent.line = m.line → d.val ∈ e.await →
    (let left := e.await.filter (fun y => y != d.val)
     exec (.snpRspI m) s = .next (s.setSlice n { s.slice n with staged := [{ e with await := left }] }) ∧
     exec (.snpRspS m) s = .next (s.setSlice n { s.slice n with staged := [{ e with await := left }] }) ∧
     exec (.snpDataI m) s =
       .next (s.setSlice n { s.slice n with staged := [{ e with await := left, data := some (m.data, m.poison) }] }) ∧
     exec (.snpDataS m) s =
       .next (s.setSlice n { s.slice n with staged := [{ e with await := left, data := some (m.data, m.poison) }] }))) ∧
  (∀ (n : Fin 16) (e : StageEnt) (data : LineData) (p : Bool) (s : State), (s.slice n).staged = [e] → e.await = [] →
    e.data = some (data, p) → (s.slice n).wbWait = [] →
    ∃ t, exec (.stagingEntryFree n e.ent.line) s = .next t ∧ (t.slice n).staged = [] ∧
      t.chans = (homeData (s.setSlice n { s.slice n with staged := [] }) n e.ent.line e.hand data p).chans ∧
      slicesBut s t [n.val] ∧ t.points = s.points) ∧
  (∀ (n : Fin 16) (line : Nat) (s : State), (s.slice n).staged = [] → exec (.stagingEntryFree n line) s = .next s)

/-- The queues of a slice and the credits of a die (R219, R226, R228, R233): the oldest request waiting for a line or a set is admitted
when it may open; the messages held back during a suspension enter, in order, when every transaction open at the declaration has ended;
a returned credit lowers the count of its class by one. -/
def Claim.HomeQueues : Prop :=
  (∀ (n : Fin 16) (m : Msg) (s : State), (s.slice n).lineWait = [m] → inStaging s n m.line = false → mayShare s n m = true →
    (∃ t, exec (.lineWaitAdmit n m.line) s = .next t ∧
      t = (admitReq (s.setSlice n { s.slice n with lineWait := [] }) n m).setSlice n
        ((admitReq (s.setSlice n { s.slice n with lineWait := [] }) n m).slice n))) ∧
  (∀ (n : Fin 16) (m : Msg) (s : State), m ∈ (s.slice n).lineWait → (∀ w ∈ (s.slice n).lineWait, w.line = m.line → w = m) →
    inStaging s n m.line = true → exec (.lineWaitAdmit n m.line) s = .next s) ∧
  (∀ (n : Fin 16) (m : Msg) (s : State), (s.slice n).setWait = [m] →
    ((admitReq (s.setSlice n { s.slice n with setWait := [] }) n m).slice n).setWait = [] →
    (∃ t, exec (.setWaitAdmit n (dirSet m.line)) s = .next t ∧
      t = ((admitReq (s.setSlice n { s.slice n with setWait := [] }) n m).countBlk (16 + n.val) 0x0205 1).setSlice n
        ((admitReq (s.setSlice n { s.slice n with setWait := [] }) n m).slice n))) ∧
  (∀ (n : Fin 16) (line set : Nat) (s : State),
    ((∀ m ∈ (s.slice n).lineWait, m.line ≠ line) → exec (.lineWaitAdmit n line) s = .next s) ∧
    ((∀ m ∈ (s.slice n).setWait, dirSet m.line ≠ set) → exec (.setWaitAdmit n set) s = .next s) ∧
    ((s.slice n).suspend = false ∨ (s.slice n).txns.any (·.old) = true → exec (.sliceSuspensionEnd n) s = .next s)) ∧
  (∀ (n : Fin 16) (s : State), (s.slice n).suspend = true → sliceFolded s n = false → (s.slice n).txns.any (·.old) = false →
    exec (.sliceSuspensionEnd n) s = .next
      (overAll (s.slice n).held enterSlice (s.setSlice n { s.slice n with suspend := false, held := [] }))) ∧
  (∀ (d n : Fin 16) (hand : Fin 64) (s : State),
    (∃ t, exec (.creditReturn d n .req hand) s = .next t ∧ diesBut s t [d.val] ∧ t = { s with dies := t.dies } ∧
      (t.die d).credits.getD (creditKey n 0 hand) 0 = (s.die d).credits.getD (creditKey n 0 hand) 0 - 1) ∧
    (∃ t, exec (.creditReturn d n .wb hand) s = .next t ∧ diesBut s t [d.val] ∧ t = { s with dies := t.dies } ∧
      (t.die d).credits.getD (creditKey n 1 hand) 0 = (s.die d).credits.getD (creditKey n 1 hand) 0 - 1) ∧
    (∃ t, exec (.creditReturn d n .snp hand) s = .next t ∧ diesBut s t [d.val] ∧ t = { s with dies := t.dies } ∧
      (t.die d).credits.getD (creditKey n 2 0) 0 = (s.die d).credits.getD (creditKey n 2 0) 0 - 1))

/-- CLASS_D_TRANSFER_ENTER (R97, R328): when the last message of a staged transfer has arrived, all of its messages enter the pipeline of their
slice together, the staging buffer and the grant are free, and the engine's next transfer for a slice starts. While no transfer is staged and
none waits, nothing happens; a transfer of which messages are still to arrive stays where it is. -/
def Claim.ClassD : Prop :=
  (∀ (n : Fin 16) (q : Fin 10) (ms : List Msg) (s : State), (s.point (0x20 + n.val)).staging.getD (16 + q.val) [] = ms → ms ≠ [] →
    unfinished (s.point (0x20 + n.val)) (16 + q.val) = false → s.flips = [] →
    (∀ m ∈ ms, m.op = .rdOnce) →
    let x := s.point (0x20 + n.val);
    exec (.classDTransferEnter n q) s = .next (pumpEngine (expireGrant (overAll ms enterSlice (s.setPoint (0x20 + n.val)
      { x with staging := x.staging.erase (16 + q.val), owners := x.owners.erase (16 + q.val) })) (0x20 + n.val))
      (16 + q.val))) ∧
  (∀ (n : Fin 16) (q : Fin 10) (s : State), (s.point (0x20 + n.val)).staging.getD (16 + q.val) [] = [] ∨
      unfinished (s.point (0x20 + n.val)) (16 + q.val) = true → s.outbox.getD (16 + q.val) [] = [] →
    exec (.classDTransferEnter n q) s = .next s)

/-- Snoop answers, the queues of a home slice and class D transfers. -/
def Obligations.HomeAnswers : Prop :=
  Claim.HomeSnoopAnswer ∧ Claim.HomeQueues ∧ Claim.ClassD

/-- The scrub, the probe and injection at the home slices (R236, R238): the last visit of a slice sets its DONE bit; the end of the scrub
clears the die's mask bit and BUSY; a probe stores its line with DONE clear and finishes with the two words of the entry, VALID with them;
H[0]'s writes of HOME_INJECT store every field; anyone else's change nothing. -/
def Obligations.HomeScrubProbe : Prop :=
  (∀ (n : Fin 16) (s : State), s.get .HOME_SCRUB F.HOME_SCRUB_BUSY = 1 →
    (s.get .HOME_SCRUB F.HOME_SCRUB_DONE).testBit n = false → (s.slice n).scrub = 10929 → (s.slice n).staged = [] →
    ∃ t, exec (.directoryScrubVisit n) s = .next t ∧ (t.slice n).scrub = 0 ∧
      t.get .HOME_SCRUB F.HOME_SCRUB_DONE = s.get .HOME_SCRUB F.HOME_SCRUB_DONE ||| 2 ^ n.val ∧ slicesBut s t [n.val] ∧
      regsBut s t [.HOME_SCRUB] ∧ t = { s with regs := t.regs, slices := t.slices }) ∧
  (∀ (d : Fin 16) (s : State), s.get .HOME_SCRUB F.HOME_SCRUB_BUSY = 1 → s.get .HOME_SCRUB F.HOME_SCRUB_DIE = d.val →
    s.get .HOME_SCRUB F.HOME_SCRUB_DONE = 0xFFFF → (∀ e < 16, (s.die e).rejoin ≠ 4) →
    ∃ t, exec (.directoryScrubEnd d) s = .next t ∧ t.get .HOME_SCRUB F.HOME_SCRUB_BUSY = 0 ∧ dieMasked t d = false ∧
      (∀ e : Fin 16, e ≠ d → dieMasked t e = dieMasked s e) ∧ regsBut s t [.HOME_SCRUB, .HOME_DIE_MASK] ∧
      t = { s with regs := t.regs }) ∧
  (∀ (d x : Fin 16) (s : State), s.get .HOME_SCRUB F.HOME_SCRUB_BUSY = 1 → s.get .HOME_SCRUB F.HOME_SCRUB_DIE = d.val →
    s.get .HOME_SCRUB F.HOME_SCRUB_DONE = 0xFFFF → (s.die x).rejoin = 4 → (∀ e < x.val, (s.die e).rejoin ≠ 4) →
    ∃ t, exec (.directoryScrubEnd d) s = .next t ∧ t.get .HOME_SCRUB F.HOME_SCRUB_BUSY = 1 ∧
      t.get .HOME_SCRUB F.HOME_SCRUB_DIE = x.val ∧ t.get .HOME_SCRUB F.HOME_SCRUB_DONE = 0 ∧ dieMasked t d = false ∧
      t.die x = { s.die x with rejoin := 5 } ∧ (∀ n < 16, (t.slice n).scrub = 0) ∧ diesBut s t [x.val] ∧
      regsBut s t [.HOME_SCRUB, .HOME_DIE_MASK] ∧ t = { s with regs := t.regs, dies := t.dies, slices := t.slices }) ∧
  (∀ (who : Agent) (v : Word) (s : State), s.isHouse who = true → ∃ t, exec (.homeProbe who v) s = .next t ∧
    t.get .HOME_PROBE_ADDR F.HOME_PROBE_ADDR_LINE = F.HOME_PROBE_ADDR_LINE.get v ∧
    t.bit .HOME_PROBE_ADDR F.HOME_PROBE_ADDR_DONE = false ∧ regsBut s t [.HOME_PROBE_ADDR] ∧ t = { s with regs := t.regs }) ∧
  (∀ (s : State) (e : DirEnt) (n key line : Nat), s.bit .HOME_PROBE_ADDR F.HOME_PROBE_ADDR_DONE = false →
    s.get .HOME_PROBE_ADDR F.HOME_PROBE_ADDR_LINE = line → sliceOf s line = n → findEnt s n line = some (key, e) →
    ∃ t, exec .homeProbeDone s = .next t ∧ t.rd .HOME_PROBE_W0 = BitVec.ofNat 64 (entWord0 e) ∧
      t.rd .HOME_PROBE_W1 = BitVec.ofNat 64 (2 ^ 63 + entWord1 e (pins s n line)) ∧
      t.bit .HOME_PROBE_ADDR F.HOME_PROBE_ADDR_DONE = true ∧
      regsBut s t [.HOME_PROBE_W0, .HOME_PROBE_W1, .HOME_PROBE_ADDR] ∧ t = { s with regs := t.regs }) ∧
  (∀ (who : Agent) (n : Fin 16) (v : Word) (s : State), s.isHouse who = true →
    exec (.homeInjectBacking who n v) s = .next (s.wr (.HOME_INJECT n) ((Reg.HOME_INJECT n).written (s.rd (.HOME_INJECT n)) v)) ∧
    exec (.homeInjectArm who n v) s = .next (s.wr (.HOME_INJECT n) ((Reg.HOME_INJECT n).written (s.rd (.HOME_INJECT n)) v))) ∧
  (∀ (who : Agent) (n : Fin 16) (v : Word) (s : State), s.isHouse who = false →
    exec (.homeInjectBacking who n v) s = .next s ∧ exec (.homeInjectArm who n v) s = .next s ∧ exec (.homeProbe who v) s = .next s)

/-- A snoop at a die that holds nothing of the line, waits for no fill of it and defers none is answered SNP_RSP_I; nothing but the
answer changes (R213, R224). -/
def Claim.DieSnoopMiss : Prop :=
  ∀ (d : Fin 16) (m : Msg) (s : State), deferred s d m.line = false → l3Find s d m.line = none → wbHolds s d m.line = false →
    (s.die d).misses.any (fun x => x.line == m.line) = false →
    ∀ i ∈ [Instr.snpShared d m, Instr.snpInv d m, Instr.snpBinv d m], ∃ t, exec i s = .next t ∧
      t.point d = { s.point d with ready := (s.point d).ready ++
        [⟨24, { dieMsg d .snpRspI m.hand m.line 24 with txn := m.txn }, s.cycle⟩] } ∧
      pointsBut s t [d.val] ∧ t = { s.countBlk d 0x0107 1 with points := t.points }

/-- A snoop at a die whose L3 holds the line dirty and no core a copy (R213): SNP_SHARED leaves the line in S, any other snoop leaves no
line; the answer brings the data. A snoop of a deferred line waits, and nothing is answered (R231). -/
def Claim.DieSnoopHit : Prop :=
  (∀ (d : Fin 16) (m : Msg) (s : State) (e : L3Line), (∀ c ∈ coresOnDie d, (s.core c).defer = none ∧ (s.core c).resv = none) →
    l3Find s d m.line = some e → e.line = m.line → e.valid = 0 → e.st = 3 → (s.die d).wb = [] →
    locked s d e = false → sramBits s 3 (0x2100 + d.val) (m.line * 64) = 0 →
    (∃ t, exec (.snpShared d m) s = .next t ∧ l3Find t d m.line = some { e with st := 1 } ∧
      t.point d = { s.point d with ready := (s.point d).ready ++
        [⟨24, { dieMsg d .snpDataS m.hand m.line 24 with data := e.data, poison := e.poison, txn := m.txn }, s.cycle⟩] } ∧
      diesBut s t [d.val] ∧ pointsBut s t [d.val] ∧ t = { s.countBlk d 0x0107 1 with dies := t.dies, points := t.points }) ∧
    (∃ t, exec (.snpInv d m) s = .next t ∧ l3Find t d m.line = none ∧
      t.point d = { s.point d with ready := (s.point d).ready ++
        [⟨24, { dieMsg d .snpDataI m.hand m.line 24 with data := e.data, poison := e.poison, txn := m.txn }, s.cycle⟩] } ∧
      diesBut s t [d.val] ∧ pointsBut s t [d.val] ∧ t = { s.countBlk d 0x0107 1 with dies := t.dies, points := t.points })) ∧
  (∀ (d : Fin 16) (m : Msg) (s : State), deferred s d m.line = true →
    exec (.snpInv d m) s = .next ((s.countBlk d 0x0107 1).setDie d { s.die d with snoopWait := (s.die d).snoopWait ++ [{ m with op := .snpInv }] }))

/-- What a compute die answers to a snoop. -/
def Obligations.DieSnoops : Prop :=
  Claim.DieSnoopMiss ∧ Claim.DieSnoopHit

/-- A fill (R184, R188, R212) for the one miss of an empty die: the L3 holds the line in the state of the grant, with the data, the
generation, the hand of the miss and the valid bit of the core that asked; that core's L2 holds it in the same state; the miss is over. -/
def Claim.DieFill : Prop :=
  ∀ (m : Msg) (s : State) (x : Miss), m.die < 16 → (s.die m.die).misses = [x] → x.line = m.line → x.sent = true → x.cancel = false →
    x.snoops = [] → x.core / 24 = m.die → (s.die m.die).l3 = [] → (∀ c ∈ coresOnDie m.die, (s.core c).waits = []) →
    (s.core x.core).l2 = [] → inLockRange s m.die x.hand m.line = false → wayOwner s m.die 0 = 0xFF →
    sramBits s 4 (0x2100 + m.die) (m.line * 64) = 0 → sramBits s 5 (0x2100 + m.die) (m.line * 64) = 0 →
    ∀ i ∈ [(Instr.dataS m, 1), (Instr.dataE m, 2), (Instr.dataM m, 3)], ∃ t, exec i.1 s = .next t ∧
      l3Find t m.die m.line = some ⟨m.line, 0, i.2, 2 ^ (x.core % 24), m.gen.toNat, x.hand, m.data, m.poison⟩ ∧
      l2Find t x.core m.line = some ⟨m.line, i.2, m.data, m.poison⟩ ∧ (t.die m.die).misses = [] ∧
      coresBut s t [x.core] ∧ diesBut s t [m.die] ∧ t.points = s.points ∧ t.chans = s.chans ∧ t.dram = s.dram

/-- A fill that waits for a victim chooses again (R188): with a free way it is installed as a fill is. Without such a fill nothing
happens. -/
def Claim.DieRetry : Prop :=
  (∀ (d : Fin 16) (m : Msg) (s : State) (x : Miss), (s.die d).retry = [m] → (s.die d).misses = [x] → x.line = m.line →
    exec (.l3AllocationRetry d m.line) s = .next (installFill (s.setDie d { s.die d with retry := [] }) d x m
      (match m.op with | .dataS => 1 | .dataE => 2 | _ => 3))) ∧
  (∀ (d : Fin 16) (line : Nat) (s : State), (s.die d).retry = [] → exec (.l3AllocationRetry d line) s = .next s)

/-- Acknowledgements and answers at a die (R212, R216, R220): WB_ACK and WB_ACK_STALE free the write-back buffer entry of their line;
CMP_PARTIAL ends the WR_PARTIAL of its line and frees the merging-buffer entry it drained, if one; CMP ends a CBO, whose instruction retires; DATA_NC gives a load in an open hand its bytes. -/
def Claim.DieAnswers : Prop :=
  (∀ (d : Fin 16) (e : WbEnt) (s : State), (s.die d).wb = [e] → (s.die d).misses = [] → (s.die d).shv = none →
    (∀ c ∈ coresOnDie d, (s.core c).waits = []) →
    exec (.wbAck d e.msg.line) s = .next (s.setDie d { s.die d with wb := [] }) ∧
    exec (.wbAckStale d e.msg.line) s = .next (s.setDie d { s.die d with wb := [] })) ∧
  (∀ (d : Fin 16) (m x : Msg) (s : State), m.src = .die d → (s.die d).partials = [x] → x.line = m.line →
    (let t := s.setDie d { s.die d with partials := [] }
     exec (.cmpPartial m) s = .next (if x.txn < ioTxn then dropMb t x.txn m.line else t))) ∧
  (∀ (d : Fin 16) (m o : Msg) (s : State), m.src = .die d → (s.die d).misses = [] → (s.die d).ops = [o] → o.op = .cboFlush →
    o.line = m.line → s.ledgerCore o.txn = false → (s.core o.txn).waits = [⟨o.line, .cbo⟩] →
    ∃ t, exec (.cmp m) s = .next t ∧ (t.die d).ops = [] ∧
      retiredBut s t o.txn 4 { s.core o.txn with waits := [] } [] ∧ diesBut s t [d.val] ∧
      t = { s with regs := t.regs, cores := t.cores, dies := t.dies }) ∧
  (∀ (d : Fin 16) (m o : Msg) (s : State) (r : Fin 32) (va : Word) (pa n len : Nat), m.src = .die d → (s.die d).ops = [o] →
    o.op = .rdOnce → o.line = m.line → s.ledgerCore o.txn = false → m.poison = false → pa / 64 = m.line → 0 < n → pa % 64 + n ≤ 64 →
    n ≤ 8 → r ≠ 0 →
    (s.core o.txn).waits = [⟨m.line, .load (.x r) va [(pa, n)] false len (some (0, 0))⟩] →
    ∃ t, exec (.dataNc m) s = .next t ∧ t.xreg o.txn r = BitVec.ofNat 64 (lineGet m.data (pa % 64) n) ∧ (t.die d).ops = [] ∧
      retiredBut s t o.txn len { s.core o.txn with waits := [], x := (t.core o.txn).x } [] ∧ diesBut s t [d.val] ∧
      t = { s with regs := t.regs, cores := t.cores, dies := t.dies })

/-- Fills, retries and the other answers that a compute die receives. -/
def Obligations.DieFills : Prop :=
  Claim.DieFill ∧ Claim.DieRetry ∧ Claim.DieAnswers

/-- The Shelver's commands (R193, R197, R198, R202): a command that no row of R197 refuses is accepted: BUSY, OP, HAND, SCOPE and
FORCE_LOCKED read as written, SKIPPED and WRITTEN are zero, and the walk is at its start over the sets or the lines of the range; one that
is refused sets REFUSED with its CODE, and source 16 + d arrives; a write by an agent that may not write, one without GO, or one whose
OP names no such command changes nothing; one by a core that R249 bars raises LEDGER_ACCESS. -/
def Claim.ShelverStart : Prop :=
  (∀ (who : Agent) (d : Fin 16) (v : Word) (s : State), notLedger s who → ∀ e ∈ [(1, Instr.shvClean who d v),
      (2, Instr.shvInvalidate who d v), (3, Instr.shvCleanInv who d v)],
    (shvWriter s who d = true → F.SHV_CMD_GO.get v = 1 → F.SHV_CMD_OP.get v = e.1 → shvCode s who d v = 0 →
      ∃ t o, exec e.2 s = .next t ∧ (t.die d).shv = some o ∧ o.op = e.1 ∧ o.hand = F.SHV_CMD_HAND.get v ∧
        o.base = s.get (.SHV_BASE d) F.SHV_BASE_VALUE ∧ o.size = s.get (.SHV_SIZE d) F.SHV_BASE_VALUE ∧ o.waits = [] ∧
        t.bit (.SHV_STATUS d) F.SHV_STATUS_BUSY = true ∧ t.get (.SHV_STATUS d) F.SHV_STATUS_OP = e.1 ∧
        t.get (.SHV_STATUS d) F.SHV_STATUS_HAND = F.SHV_CMD_HAND.get v ∧ t.rd (.SHV_SKIPPED d) = 0 ∧ t.rd (.SHV_WRITTEN d) = 0 ∧
        t.get (.SHV_PROGRESS d) F.SHV_PROGRESS_DONE_COUNT = 0 ∧ diesBut s t [d.val] ∧
        regsBut s t [.SHV_STATUS d, .SHV_SKIPPED d, .SHV_WRITTEN d, .SHV_PROGRESS d] ∧
        t = { s with regs := t.regs, dies := t.dies }) ∧
    (shvWriter s who d = true → F.SHV_CMD_GO.get v = 1 → F.SHV_CMD_OP.get v = e.1 → shvCode s who d v ≠ 0 →
      ∃ t, exec e.2 s = .next t ∧ t.bit (.SHV_STATUS d) F.SHV_STATUS_REFUSED = true ∧
        t.get (.SHV_STATUS d) F.SHV_STATUS_CODE = shvCode s who d v ∧ t.dies = s.dies ∧
        (s.tally (16 + d.val) < 255 → t.tally (16 + d.val) = s.tally (16 + d.val) + 1)) ∧
    (shvWriter s who d = false ∨ F.SHV_CMD_GO.get v = 0 ∨ F.SHV_CMD_OP.get v ≠ e.1 → exec e.2 s = .next s)) ∧
  (∀ (c : Fin 384) (d : Fin 16) (v : Word) (s : State), bars s c (.SHV_CMD d) →
    ∀ i ∈ [Instr.shvClean (.core c) d v, .shvInvalidate (.core c) d v, .shvCleanInv (.core c) d v],
      exec i s = barredWrite s c (.SHV_CMD d))

/-- The Shelver's walk and its end, and its lock ranges (R193, R200, R202, R203): a visit acts on each line it finds and counts one, and
waits where the write-back buffer has no room for what it sends (R220) or where it would remove a line of a deferral (R231); the walk is over
when every visit is done and every write-back acknowledged: BUSY clears, DONE sets, source 16 + d arrives. A lock range that R203 allows
is stored, with HAND as it was unless H[0] writes; a valid one that is empty, or not wholly in windows of the hand, sets LOCK_REFUSED,
source 16 + d arrives, and no range changes; one by an agent that may not write it changes nothing. -/
def Claim.ShelverWalk : Prop :=
  (∀ (d : Fin 16) (o : ShvOp) (found : List L3Line) (s : State), (s.die d).shv = some o →
    s.get (.SHV_PROGRESS d) F.SHV_PROGRESS_DONE_COUNT < s.get (.SHV_PROGRESS d) F.SHV_PROGRESS_TOTAL →
    found = shvFound s d o →
    (o.op = 1 ∨ found.any (fun e => deferred s d e.line) = false →
      let t := (overAll found (fun s e => shvLine s d o e) s).countBlk d 0x0108 found.length;
      exec (.shvVisit d) s = .next (if wbFits t d then
        t.put (.SHV_PROGRESS d) F.SHV_PROGRESS_DONE_COUNT (s.get (.SHV_PROGRESS d) F.SHV_PROGRESS_DONE_COUNT + 1) else s)) ∧
    (o.op ≠ 1 → found.any (fun e => deferred s d e.line) = true → exec (.shvVisit d) s = .next s)) ∧
  (∀ (d : Fin 16) (o : ShvOp) (s : State), (s.die d).shv = some o → o.waits = [] →
    s.get (.SHV_PROGRESS d) F.SHV_PROGRESS_DONE_COUNT = s.get (.SHV_PROGRESS d) F.SHV_PROGRESS_TOTAL →
    ∃ t, exec (.shvComplete d) s = .next t ∧ (t.die d) = { s.die d with shv := none } ∧
      t.bit (.SHV_STATUS d) F.SHV_STATUS_BUSY = false ∧ t.bit (.SHV_STATUS d) F.SHV_STATUS_DONE = true ∧
      (s.tally (16 + d.val) < 255 → t.tally (16 + d.val) = s.tally (16 + d.val) + 1) ∧ diesBut s t [d.val] ∧
      t = { s with regs := t.regs, dies := t.dies, flips := t.flips }) ∧
  (∀ (d : Fin 16) (s : State), (s.die d).shv = none → exec (.shvVisit d) s = .next s ∧ exec (.shvComplete d) s = .next s) ∧
  (∀ (c : Fin 384) (d k : Fin 16) (v : Word) (s : State), bars s c (.SHV_LOCK_SIZE d k) →
    exec (.shvLockSizeWrite (.core c) d k v) s = barredWrite s c (.SHV_LOCK_SIZE d k)) ∧
  (∀ (who : Agent) (d k : Fin 16) (v : Word) (s : State), notLedger s who → lockWriter s who d k = false →
    exec (.shvLockSizeWrite who d k v) s = .next s) ∧
  (∀ (who : Agent) (d k : Fin 16) (v : Word) (s : State), notLedger s who → lockWriter s who d k = true →
    (let r := (Reg.SHV_LOCK_SIZE d k).written (s.rd (.SHV_LOCK_SIZE d k)) v
     let w := if s.isHouse who then r else F.SHV_LOCK_SIZE_HAND.put r (s.get (.SHV_LOCK_SIZE d k) F.SHV_LOCK_SIZE_HAND)
     (F.SHV_LOCK_SIZE_VALID.get w = 0 ∨ lockFits s d k w = true → exec (.shvLockSizeWrite who d k v) s = .next (s.wr (.SHV_LOCK_SIZE d k) w)) ∧
     (F.SHV_LOCK_SIZE_VALID.get w = 1 → lockFits s d k w = false →
       ∃ t, exec (.shvLockSizeWrite who d k v) s = .next t ∧ t.bit (.SHV_STATUS d) F.SHV_STATUS_LOCK_REFUSED = true ∧
         t.rd (.SHV_LOCK_SIZE d k) = s.rd (.SHV_LOCK_SIZE d k) ∧ t.dies = s.dies ∧
         (s.tally (16 + d.val) < 255 → t.tally (16 + d.val) = s.tally (16 + d.val) + 1))))

/-- The Shelver: commands, walks and cancellation. -/
def Obligations.Shelver : Prop :=
  Claim.ShelverStart ∧ Claim.ShelverWalk

/-- The stop of a compute die (R233, R440, R442): declared for a cause while the die is in service, no slice has an open transaction and no
addendum is pending, the die reads STOPPED with that cause, its link is fenced, its presence is masked, and each of its cores that is not
OFF reads LOST. A die that is neither in service nor rejoining is left alone. -/
def Claim.FaultStop : Prop :=
  (∀ (d : Fin 16) (s : State), dieState s d = 1 → s.get .FOL_ADD_STATE F.FOL_ADD_STATE_STATE = 0 →
    (∀ n, (s.slice n).txns = [] ∧ (s.slice n).staged = [] ∧ (s.slice n).recover = []) →
    (∀ e ∈ [((1 : Fin 6), s.bit (.DL_ERR d) F.DL_ERR_REPLAY_FAIL), (2, s.bit (.DL_ERR d) F.DL_ERR_HB_LOST),
        (3, s.bit (.DL_ERR d) F.DL_ERR_CLK_LOST), (4, true)], e.2 = true →
      ∃ t, exec (.dieStopDeclare d e.1) s = .next t ∧ dieState t d = 2 ∧ t.get (.FLT_DIE d) F.FLT_DIE_CAUSE = e.1.val ∧ linkState t d = 4 ∧
      dieMasked t d = true ∧ (∀ c ∈ coresOnDie d, t.coreState c = if s.coreState c = 0 then 0 else 5)) ∧
    (∀ (who : Agent) (v : Word), s.isHouse who = true → F.FLT_DIE_CMD_OP.get v = 1 → F.FLT_DIE_CMD_DIE.get v = d.val →
      ∃ t, exec (.fltDieCmdStop who v) s = .next t ∧ dieState t d = 2 ∧ t.get (.FLT_DIE d) F.FLT_DIE_CAUSE = 5 ∧ linkState t d = 4 ∧
        dieMasked t d = true)) ∧
  (∀ (d : Fin 16) (cause : Fin 6) (s : State), dieState s d ≠ 1 → dieState s d ≠ 3 → exec (.dieStopDeclare d cause) s = .next s) ∧
  (∀ (d : Fin 16) (s : State),
    (s.bit (.DL_ERR d) F.DL_ERR_REPLAY_FAIL = false → exec (.dieStopDeclare d 1) s = .next s) ∧
    (s.bit (.DL_ERR d) F.DL_ERR_HB_LOST = false → exec (.dieStopDeclare d 2) s = .next s) ∧
    (s.bit (.DL_ERR d) F.DL_ERR_CLK_LOST = false → exec (.dieStopDeclare d 3) s = .next s)) ∧
  (∀ (who : Agent) (v : Word) (s : State), s.isHouse who = false ∨ F.FLT_DIE_CMD_OP.get v ≠ 1 →
    exec (.fltDieCmdStop who v) s = .next s)

/-- Rejoin (R439, R441, R442): H[0]'s REJOIN of a STOPPED or REFUSED die, or the automatic one, makes it REJOINING with its rail removed; after the
hold it rises by the wake ladder; in Play a die that does not fit the folio in force is REFUSED in Out; one that fits gets its folio
content and a scrub, which waits while another die's runs; when the scrub has cleared its mask it is IN_SERVICE with its LOST cores STOPPED. -/
def Claim.FaultRejoin : Prop :=
  (∀ (who : Agent) (v : Word) (d : Fin 16) (s : State), s.isHouse who = true → F.FLT_DIE_CMD_OP.get v = 2 →
    F.FLT_DIE_CMD_DIE.get v = d.val → dieState s d = 2 ∨ dieState s d = 4 →
    ∃ t, exec (.fltDieCmdRejoin who v) s = .next t ∧ dieState t d = 3 ∧ t.get (.SCK_DIE d) F.SCK_DIE_STATE = 3 ∧
      t.get (.FLT_DIE d) F.FLT_DIE_AUTO_HELD = 0 ∧ (t.die d) = { s.die d with rejoin := 1, auto := false, wake := none } ∧
      diesBut s t [d.val] ∧ t = { s with regs := t.regs, dies := t.dies, flips := t.flips }) ∧
  (∀ (d : Fin 16) (s : State), dieState s d = 2 → s.get (.FLT_DIE d) F.FLT_DIE_AUTO_HELD = 0 →
    s.folio.faults.rejoin = 1 ∨ houseless s = true →
    ∃ t, exec (.autoRejoin d) s = .next t ∧ dieState t d = 3 ∧ t.get (.SCK_DIE d) F.SCK_DIE_STATE = 3 ∧
      (t.die d) = { s.die d with rejoin := 1, auto := true, wake := none } ∧ diesBut s t [d.val]) ∧
  (∀ (d : Fin 16) (s : State), s.get (.FLT_DIE d) F.FLT_DIE_AUTO_HELD = 1 → exec (.autoRejoin d) s = .next s) ∧
  (∀ (d : Fin 16) (s : State), dieState s d = 3 → (s.die d).rejoin = 1 →
    ∃ t, exec (.rejoinRailHoldEnd d) s = .next t ∧
      (t.die d) = { s.die d with rejoin := 2, settling := true, wake := some 0 } ∧ diesBut s t [d.val] ∧
      regsBut s t [.SCK_DIE d] ∧ t = { s with regs := t.regs, dies := t.dies }) ∧
  (∀ (d : Fin 16) (s : State), dieState s d = 3 → (s.die d).rejoin = 3 → s.get .FOL_ADD_STATE F.FOL_ADD_STATE_STATE = 0 →
    (dieFits s s.folio d && levelsMatch s s.folio d) = false →
    ∃ t, exec (.rejoinFolioReapply d) s = .next t ∧ dieState t d = 4 ∧ t.get (.SCK_DIE d) F.SCK_DIE_STATE = 3 ∧
      (t.die d).rejoin = 0 ∧ diesBut s t [d.val]) ∧
  (∀ (d : Fin 16) (s : State), dieState s d = 3 → (s.die d).rejoin = 3 → s.get .FOL_ADD_STATE F.FOL_ADD_STATE_STATE = 0 →
    dieFits s s.folio d = true → levelsMatch s s.folio d = true → s.get .HOME_SCRUB F.HOME_SCRUB_BUSY = 0 →
    ∃ t, exec (.rejoinFolioReapply d) s = .next t ∧ (t.die d).rejoin = 5 ∧ (t.die d).capOld = none ∧
      t.point d = Point.init d ∧ t.get .HOME_SCRUB F.HOME_SCRUB_BUSY = 1 ∧ t.get .HOME_SCRUB F.HOME_SCRUB_DIE = d.val ∧
      t.get .HOME_SCRUB F.HOME_SCRUB_DONE = 0 ∧ diesBut s t [d.val]) ∧
  (∀ (d : Fin 16) (s : State), dieState s d = 3 → (s.die d).rejoin = 3 → s.get .FOL_ADD_STATE F.FOL_ADD_STATE_STATE = 0 →
    dieFits s s.folio d = true → levelsMatch s s.folio d = true → s.get .HOME_SCRUB F.HOME_SCRUB_BUSY = 1 →
    ∃ t, exec (.rejoinFolioReapply d) s = .next t ∧ (t.die d).rejoin = 4 ∧ (t.die d).capOld = none ∧
      t.point d = Point.init d ∧ t.rd .HOME_SCRUB = s.rd .HOME_SCRUB ∧ diesBut s t [d.val]) ∧
  (∀ (d : Fin 16) (s : State), dieState s d = 3 → (s.die d).rejoin = 5 → dieMasked s d = false →
    ∃ t, exec (.dieEnterService d) s = .next t ∧ dieState t d = 1 ∧ (t.die d).rejoin = 0 ∧
      (∀ c ∈ coresOnDie d, t.coreState c = if s.coreState c = 5 then 1 else s.coreState c) ∧ diesBut s t [d.val] ∧
      regsBut s t (.FLT_DIE d :: (coresOnDie d).map Reg.CORE_STATE) ∧ t = { s with regs := t.regs, dies := t.dies })

/-- Dies are stopped, contained and rejoin. -/
def Obligations.FaultDies : Prop :=
  Claim.FaultStop ∧ Claim.FaultRejoin

/-- The record ring (R437): while fewer than 256 records wait, an event is written at FLT_TAIL with its word 0, its address and syndrome,
mtime and the next sequence number; FLT_TAIL and WAITING advance by one and every other record stays. With 256 waiting it is dropped: it is
counted, OVERFLOW sets, and every record stays. -/
def Claim.FaultRecord : Prop :=
  (∀ (s : State) (e : FaultEv) (sev : Nat), s.get .FLT_STATUS F.FLT_STATUS_WAITING < 256 →
    (let i := s.get .FLT_TAIL F.FLT_HEAD_INDEX
     let t := s.writeRecord e sev
     t.rd (.FLT_REC i 0) = e.word0 sev ∧
     t.rd (.FLT_REC i 1) = BitVec.ofNat 64 ((e.synd % 256) * 2 ^ 56 + e.addr % 2 ^ 52) ∧
     t.rd (.FLT_REC i 2) = BitVec.ofNat 64 s.mtime ∧ t.rd (.FLT_REC i 3) = BitVec.ofNat 64 ((s.recSeq + 1) % 2 ^ 32) ∧
     t.recSeq = (s.recSeq + 1) % 2 ^ 32 ∧
     t.get .FLT_TAIL F.FLT_HEAD_INDEX = (i + 1) % 256 ∧
     t.get .FLT_STATUS F.FLT_STATUS_WAITING = s.get .FLT_STATUS F.FLT_STATUS_WAITING + 1 ∧
     (∀ j k, j < 256 → k < 4 → j ≠ i → t.rd (.FLT_REC j k) = s.rd (.FLT_REC j k)) ∧ t = { s with regs := t.regs })) ∧
  (∀ (s : State) (e : FaultEv) (sev : Nat), s.get .FLT_STATUS F.FLT_STATUS_WAITING = 256 →
    (let t := s.writeRecord e sev
     t.bit .FLT_STATUS F.FLT_STATUS_OVERFLOW = true ∧
     t.get .FLT_STATUS F.FLT_STATUS_DROPPED = min (s.get .FLT_STATUS F.FLT_STATUS_DROPPED + 1) F.FLT_STATUS_DROPPED.top ∧
     t.get .FLT_STATUS F.FLT_STATUS_WAITING = 256 ∧
     (∀ j k, j < 256 → k < 4 → t.rd (.FLT_REC j k) = s.rd (.FLT_REC j k))))

/-- HAND_LOSS (R91, R129, R438): the hand reads LOST, source 128 + h arrives once, and each of its RUNNING or STARTING cores on a die in
service enters STOPPING, where its merging buffer begins to drain (R180); a hand already LOST is left alone. (The hand is in open mode; a ledger hand's VOID_LOSS is another rule.) -/
def Claim.FaultHandLoss : Prop :=
  (∀ (h : Fin 64) (s : State), s.handLost h = false → s.folio.isLedger h = false →
    (let t := s.handLoss h
     t.handLost h = true ∧ (s.tally (128 + h.val) < 255 → t.tally (128 + h.val) = s.tally (128 + h.val) + 1) ∧
     (∀ c ∈ s.coresOf h, t.coreState c =
       if (s.coreState c = 2 ∨ s.coreState c = 3) ∧ s.get (.FLT_DIE (c / 24)) F.FLT_DIE_STATE = 1 then 4 else s.coreState c) ∧
     coresBut s t (s.coresOf h) ∧ t = { s with regs := t.regs, flips := t.flips, cores := t.cores })) ∧
  (∀ (h : Nat) (s : State), s.handLost h = true → s.handLoss h = s)

/-- The fault log, its classes, and the loss of a hand. -/
def Obligations.FaultRecords : Prop :=
  Claim.FaultRecord ∧ Claim.FaultHandLoss

/-- FLT_HEAD and FLT_INJECT (R433, R437, R450): H[0] consumes every waiting record by writing the value of FLT_TAIL, and arms an injection
with every field of FLT_INJECT; the next write of the SRAM word that it names inverts the bit, or the two bits, and disarms it. A write by
anyone else changes nothing. -/
def Obligations.FaultRegisters : Prop :=
  (∀ (who : Agent) (v : Word) (s : State), s.isHouse who = true → F.FLT_HEAD_INDEX.get v = s.get .FLT_TAIL F.FLT_HEAD_INDEX →
    ∃ t, exec (.fltHeadWrite who v) s = .next t ∧ t.get .FLT_HEAD F.FLT_HEAD_INDEX = F.FLT_HEAD_INDEX.get v ∧
      t.get .FLT_STATUS F.FLT_STATUS_WAITING = 0 ∧
      t.get .FLT_STATUS F.FLT_STATUS_DROPPED = s.get .FLT_STATUS F.FLT_STATUS_DROPPED ∧
      regsBut s t [.FLT_HEAD, .FLT_STATUS] ∧ t = { s with regs := t.regs }) ∧
  (∀ (who : Agent) (v : Word) (s : State), s.isHouse who = true →
    exec (.fltInjectArm who v) s = .next (s.wr .FLT_INJECT (Reg.FLT_INJECT.written (s.rd .FLT_INJECT) v))) ∧
  (∀ (who : Agent) (v : Word) (s : State), s.isHouse who = false →
    exec (.fltInjectArm who v) s = .next s ∧ exec (.fltHeadWrite who v) s = .next s) ∧
  (∀ (s : State), s.bit .FLT_INJECT F.FLT_INJECT_ARM = true →
    (let st := s.get .FLT_INJECT F.FLT_INJECT_STRUCT
     let unit := s.get .FLT_INJECT F.FLT_INJECT_UNIT
     let idx := s.get .FLT_INJECT_ADDR F.FLT_INJECT_ADDR_ADDR
     let t := sramWrite s st unit idx
     t.bit .FLT_INJECT F.FLT_INJECT_ARM = false ∧
     sramBits t st unit idx = (if s.bit .FLT_INJECT F.FLT_INJECT_DOUBLE then 2 else 1) ∧
     (∀ st' unit' idx', unit' < 2 ^ 16 → idx' < 2 ^ 56 → unit < 2 ^ 16 → idx < 2 ^ 56 → (st', unit', idx') ≠ (st, unit, idx) →
       sramBits t st' unit' idx' = sramBits s st' unit' idx')))

/-- The phases of an epoch (R239, R246, R254, R258): when every quantum has ended and nothing waits to drain, Publish begins at rank 0; a
core that holds the token and has nothing to publish passes it on; when the token is back, a STOP ends the hand's run, and otherwise
Deliver begins, with nothing to deliver at once. (A hand that is LOST goes no further.) In another phase none of these happens. -/
def Claim.LedgerPhases : Prop :=
  (∀ (h : Fin 64) (s : State), phaseOf s h = 2 → s.handLost h = false →
    (∀ c ∈ s.coresOf h, (s.core c).ended = true ∧ (s.core c).mb = [] ∧ (s.core c).stores = []) →
    ∃ t, exec (.ledgerRunEnd h) s = .next t ∧ phaseOf t h = 3 ∧ (t.ledger h) = { s.ledger h with token := 0 } ∧
      (∀ c, t.core c = s.core c) ∧ ledgersBut s t [h.val] ∧ regsBut s t [.CSQ_LDG_PHASE h] ∧
      t = { s with regs := t.regs, cores := t.cores, ledgers := t.ledgers }) ∧
  (∀ (c : Fin 384) (h : Nat) (s : State), h < 64 → s.handOf c = some h → s.folio.isLedger h = true → phaseOf s h = 3 →
    s.handLost h = false → (s.ledger h).token = (s.core c).rank → (s.core c).lbuf = [] → (s.core c).later = none → (s.core c).held = [] →
    ∃ t, exec (.ledgerTokenArrive c) s = .next t ∧ t.core c = { s.core c with held := [], published := true } ∧
      (t.ledger h) = { s.ledger h with token := (s.ledger h).token + 1 } ∧ coresBut s t [c.val] ∧ ledgersBut s t [h] ∧
      regsBut s t [.CSQ_LDG_PHASE h] ∧ t = { s with regs := t.regs, cores := t.cores, ledgers := t.ledgers }) ∧
  (∀ (h : Fin 64) (s : State), phaseOf s h = 3 → (s.coresOf h).length ≤ (s.ledger h).token → (s.ledger h).stop = true →
    exec (.ledgerPublishEnd h) s = .next (stopLedger s h ((s.rd (.CSQ_LDG_EPOCH h)).toNat + 1))) ∧
  (∀ (h : Fin 64) (s : State), phaseOf s h = 3 → (s.coresOf h).length ≤ (s.ledger h).token → (s.ledger h).stop = false →
    s.handLost h = false → (s.ledger h).intakes = [] →
    ∃ t, exec (.ledgerPublishEnd h) s = .next t ∧ phaseOf t h = 4 ∧ (t.ledger h).placed = true ∧ (t.ledger h).waits = [] ∧
      (t.ledger h).held = none ∧ ledgersBut s t [h.val] ∧ regsBut s t [.CSQ_LDG_PHASE h] ∧
      t = { s with regs := t.regs, ledgers := t.ledgers }) ∧
  (∀ (h : Fin 64) (s : State), phaseOf s h = 0 → exec (.ledgerRunEnd h) s = .next s ∧ exec (.ledgerPublishEnd h) s = .next s ∧
    exec (.epochBoundary h) s = .next s ∧ exec (.ledgerEpoch0Start h) s = .next s)

/-- INTAKE_STAGING_DONE (R253 to R255): a staging whose whole block stands in the staging half is staged; one that failed is failed with
status 0x25; a Deliver phase held for it then goes on, and an intake that is not known changes nothing. -/
def Claim.LedgerIntake : Prop :=
  (∀ (h : Fin 64) (id : Nat) (i : Intake) (s : State), findIntake s h id = some i → i.state = 1 → i.data.length = i.length →
    outMsgs s 24 (fun m => m.txn == txnOf 2 (intakeKey h id)) = [] →
    let t := setIntake s h { i with state := 2 };
    exec (.intakeStagingDone h id true) s = .next (if delivering t h then deliverDue t h else t)) ∧
  (∀ (h : Fin 64) (id : Nat) (i : Intake) (s : State), findIntake s h id = some i → i.state = 1 →
    let t := failIntake s h id 0x25;
    exec (.intakeStagingDone h id false) s = .next (if delivering t h then deliverDue t h else t)) ∧
  (∀ (h : Fin 64) (id : Nat) (ok : Bool) (s : State), findIntake s h id = none → exec (.intakeStagingDone h id ok) s = .next s)

/-- The phases of an epoch, and intake staging. -/
def Obligations.LedgerPhases : Prop :=
  Claim.LedgerPhases ∧ Claim.LedgerIntake

/-- Publication of one line (R246, R247): the line of the core's ledger buffer that its L2 holds in M takes the stored bytes and no
others; it leaves the ledger buffer; no core of the hand keeps a reservation on it, and other reservations stay. -/
def Claim.LedgerPublish : Prop :=
  ∀ (c : Fin 384) (h : Nat) (e : MbEnt) (l : L2Line) (s : State), h < 64 → s.handOf c = some h → s.folio.isLedger h = true →
    phaseOf s h = 3 → s.handLost h = false → (s.ledger h).token = (s.core c).rank → (s.core c).lbuf = [e] → (s.core c).later = none →
    (s.core c).held = [] → l2Find s c e.line = some l → l.st = 3 → (s.core c).l1d.get? e.line = none →
    wbFits s (c.val / 24) = true → sramBits s 8 c (e.line * 64) = 0 → sramBits s 2 c (e.line * 64) = 0 →
    ∃ t, exec (.ledgerTokenArrive c) s = .next t ∧ (t.core c).lbuf = [] ∧ (t.core c).published = true ∧
      l2Find t c e.line = some { l with
        data := mergeLine e.mask e.data l.data, poison := e.poison || (l.poison && e.mask != BitVec.allOnes 64) } ∧
      (∀ x ∈ s.coresOf h, ∀ r, (t.core x).resv = some r ↔ (s.core x).resv = some r ∧ r.1 / 64 ≠ e.line) ∧
      (∀ x, x ∉ s.coresOf h → x ≠ c.val → t.core x = s.core x) ∧ t.dies = s.dies ∧ t.points = s.points

/-- The boundaries (R127, R239, R241, R251): after a Deliver phase with nothing left to wait for, the epoch rises by one, every core of the
hand begins an empty quantum, and the hand runs; the start of epoch 0 takes every STARTING core to RUNNING at the hand's ENTRY. -/
def Claim.LedgerBoundary : Prop :=
  (∀ (h : Fin 64) (s : State), phaseOf s h = 4 → (s.ledger h).placed = true → (s.ledger h).waits = [] → (s.ledger h).intakes = [] →
    (s.ledger h).stop = false → s.folio.isLedger h = true → s.handLost h = false →
    (∀ c ∈ s.coresOf h, s.handOf c = some h.val ∧ (s.core c).endCode ≠ 4 ∧ (s.core c).lateErr = none ∧ (s.core c).skip = none ∧
      s.csr c 0x304 = 0 ∧ (s.core c).mail.length ≤ 64) →
    ∃ t, exec (.epochBoundary h) s = .next t ∧ phaseOf t h = 2 ∧ t.rd (.CSQ_LDG_EPOCH h) = s.rd (.CSQ_LDG_EPOCH h) + 1 ∧
      t.get (.CSQ_LDG_PHASE h) F.CSQ_LDG_PHASE_ENDED = 0 ∧
      (∀ c ∈ s.coresOf h, t.core c = { s.core c with count := 0, ended := false, published := false }) ∧
      coresBut s t (s.coresOf h) ∧ (t.ledger h).placed = false ∧ (t.ledger h).intakes = [] ∧ ledgersBut s t [h.val] ∧
      t.dies = s.dies ∧ t.points = s.points ∧ t.dram = s.dram) ∧
  (∀ (h : Fin 64) (s : State), phaseOf s h = 1 → (s.ledger h).placed = false → (s.ledger h).waits = [] → (s.ledger h).intakes = [] →
    (s.ledger h).held = none → s.handLost h = false → (∀ c ∈ s.coresOf h, s.coreState c = 2) →
    ∃ t, exec (.ledgerEpoch0Start h) s = .next t ∧ phaseOf t h = 2 ∧
      (∀ c ∈ s.coresOf h, t.coreState c = 3 ∧ (t.core c).pc = BitVec.ofNat 64 ((s.folio.hand? h).elim 0 (·.entry)) ∧
        (t.core c).count = 0 ∧ (t.core c).mail = []) ∧
      coresBut s t (s.coresOf h) ∧ t.dies = s.dies ∧ t.points = s.points)

/-- Publication of a line, and the epoch boundary. -/
def Obligations.LedgerEpochs : Prop :=
  Claim.LedgerPublish ∧ Claim.LedgerBoundary

/-- Commands and votes (R412, R413): a write of PWR_PKG on a port the folio enables, or of PWR_DIE on the authority port, is stored; then,
unless the package is in Out, SCK_PKG.TARGET is T_pkg and every die's TARGET is its T[d], of the pages as they then stand. Any other write
is ignored. -/
def Claim.PowerCommands : Prop :=
  (∀ (p : Fin 8) (v : Word) (s : State), s.folio.portEnabled p = true → s.get .SCK_PKG F.SCK_PKG_STATE ≠ 3 →
    ∃ t, exec (.pwrPkgWrite p v) s = .next t ∧ t.get (.PWR_PKG p) F.PWR_PKG_TARGET = F.PWR_PKG_TARGET.get v ∧
      t.get .SCK_PKG F.SCK_PKG_TARGET = pkgTarget t ∧ t.get .SCK_PKG F.SCK_PKG_VOTE_MIN = voteMin t ∧
      (∀ q : Fin 8, q ≠ p → t.rd (.PWR_PKG q) = s.rd (.PWR_PKG q)) ∧ (∀ q : Fin 8, t.rd (.PWR_DIE q) = s.rd (.PWR_DIE q)) ∧
      t.dram = s.dram) ∧
  (∀ (p : Fin 8) (v : Word) (s : State), s.folio.portEnabled p = true → p.val = authPort s → s.get .SCK_PKG F.SCK_PKG_STATE ≠ 3 →
    ∃ t, exec (.pwrDieWrite p v) s = .next t ∧ t.rd (.PWR_DIE p) = v &&& 0xFFFFFFFF ∧
      t.get .SCK_PKG F.SCK_PKG_TARGET = pkgTarget t ∧ (∀ q : Fin 8, t.rd (.PWR_PKG q) = s.rd (.PWR_PKG q)) ∧ t.dram = s.dram) ∧
  (∀ (p : Fin 8) (v : Word) (s : State), s.folio.portEnabled p = false ∨ p.val ≠ authPort s → exec (.pwrDieWrite p v) s = .next s) ∧
  (∀ (p : Fin 8) (v : Word) (s : State), s.folio.portEnabled p = false → exec (.pwrPkgWrite p v) s = .next s)

/-- The recomputation of the targets (R413), with the package not in Out: SCK_PKG.TARGET becomes T_pkg, and the TARGET of each die its T[d],
refused dies at Fold and tripped ones no higher than Pass; a die that is not enabled, and every die under a T_pkg of Out, has Out. -/
def Claim.PowerTargets : Prop :=
  ∀ (s : State), s.get .SCK_PKG F.SCK_PKG_STATE ≠ 3 →
    (retarget s).get .SCK_PKG F.SCK_PKG_TARGET = pkgTarget s ∧
    (∀ d : Fin 16, (retarget s).get (.SCK_DIE d) F.SCK_DIE_TARGET = dieTarget s d ∧
      ((retarget s).bit (.SCK_DIE d) F.SCK_DIE_REFUSED = dieRefused s d)) ∧
    (∀ d : Fin 16, dieRefused s d = true → dieTarget s d = 2) ∧
    (∀ d : Fin 16, s.folio.dieEnabled d = false → dieTarget s d = 3)

/-- Power votes, suits and limits, and the states that they ask for. -/
def Obligations.PowerTargets : Prop :=
  Claim.PowerCommands ∧ Claim.PowerTargets

/-- Going down (R410, R415, R416): a die in Play whose target is deeper and that has no miss outstanding reaches Pass and keeps its state; a
die in Pass that is to fold, with nothing left to write back, reaches Fold: each core keeps what Fold retains, and the link is DOWN; a die
in Fold that is to go Out loses its state. Source 80 + d arrives. -/
def Claim.PowerDown : Prop :=
  (∀ (d : Fin 16) (s : State), dieState s d = 1 → s.get (.SCK_DIE d) F.SCK_DIE_STATE = 0 → 1 ≤ s.get (.SCK_DIE d) F.SCK_DIE_TARGET →
    (s.die d).misses = [] →
    ∃ t, exec (.diePassReached d) s = .next t ∧ t.get (.SCK_DIE d) F.SCK_DIE_STATE = 1 ∧
      (s.tally (80 + d.val) < 255 → t.tally (80 + d.val) = s.tally (80 + d.val) + 1) ∧
      t = { s with regs := t.regs, chans := t.chans, slices := t.slices, power := t.power, flips := t.flips }) ∧
  (∀ (d : Fin 16) (s : State), dieState s d = 1 → (s.die d).wake = none → s.get (.SCK_DIE d) F.SCK_DIE_STATE = 1 →
    s.get (.SCK_DIE d) F.SCK_DIE_TARGET = 2 → (s.die d).shv = none → s.get .FOL_ADD_STATE F.FOL_ADD_STATE_STATE = 0 →
    foldDone s d = true → (∀ c ∈ coresOnDie d, (s.core c).defer = none) →
    ∃ t, exec (.dieFoldReached d) s = .next t ∧ t.get (.SCK_DIE d) F.SCK_DIE_STATE = 2 ∧ linkState t d = 0 ∧
      (∀ c ∈ coresOnDie d, t.core c = foldCore (s.core c)) ∧ t.link d .up = Link.init ∧ t.link d .dn = Link.init ∧
      coresBut s t (coresOnDie d) ∧ linksBut s t [(d.val, .up), (d.val, .dn)] ∧ t.dram = s.dram) ∧
  (∀ (d : Fin 16) (s : State), dieState s d = 1 → (s.die d).wake = none → s.get (.SCK_DIE d) F.SCK_DIE_STATE = 2 →
    s.get (.SCK_DIE d) F.SCK_DIE_TARGET = 3 →
    ∃ t, exec (.dieFoldReached d) s = .next t ∧ t.get (.SCK_DIE d) F.SCK_DIE_STATE = 3 ∧
      t.die d = { Die.init with
        capOld := some (s.rd (.DL_FEAT_EFF d), BitVec.ofNat 64 (s.get (.DL_CAP_DIE d) F.DL_CAP_DIE_CORE_GOOD)), since := (s.die d).since } ∧
      (∀ c ∈ coresOnDie d, t.core c = Core.init) ∧ coresBut s t (coresOnDie d) ∧ diesBut s t [d.val] ∧ t.dram = s.dram)

/-- Coming up (R418, R419): the end of a step whose condition holds begins the next one; after the last the die is in Play and its ladder
reads 0; a step that the governor delayed sets WAKE_STALL as well (R425; at its end, log entry 55). A die whose target was lowered before the link is up keeps its state and leaves the ladder; after that it is in Pass. A block
of the IOD that is to rise from Fold, or is held and not forced down, is in Play, and a hold on it is acknowledged. -/
def Claim.PowerWake : Prop :=
  (∀ (d : Fin 16) (k : Nat) (s : State), (s.die d).wake = some k → stepReady s d k = true → lowered s d k = false → k ≠ 2 → k < 10 →
    exec (.wakeStepEnd ⟨d, false⟩) s = .next (beginStep s d (nextStep s d k))) ∧
  (∀ (d : Fin 16) (s : State), (s.die d).wake = some 10 → s.get (.SCK_DIE d) F.SCK_DIE_TARGET = 0 →
    ∃ t, exec (.wakeStepEnd ⟨d, false⟩) s = .next t ∧ t.get (.SCK_DIE d) F.SCK_DIE_STATE = 0 ∧ t.get (.SCK_DIE d) F.SCK_DIE_LADDER = 0 ∧
      (t.die d).wake = none ∧ diesBut s t [d.val] ∧ t.cores = s.cores) ∧
  (∀ (d : Fin 16) (k : Nat) (s : State), (s.die d).wake = some k → stepReady s d k = true → (s.die d).rejoin = 0 → k < 4 →
    2 ≤ s.get (.SCK_DIE d) F.SCK_DIE_TARGET →
    ∃ t, exec (.wakeStepEnd ⟨d, false⟩) s = .next t ∧ t.get (.SCK_DIE d) F.SCK_DIE_STATE = s.get (.SCK_DIE d) F.SCK_DIE_STATE ∧
      t.get (.SCK_DIE d) F.SCK_DIE_LADDER = 0 ∧ (t.die d).wake = none ∧ diesBut s t [d.val] ∧ t.cores = s.cores) ∧
  (∀ (d : Fin 16) (k : Nat) (s : State), (s.die d).wake = some k → stepReady s d k = true → (s.die d).rejoin = 0 → 4 ≤ k →
    1 ≤ s.get (.SCK_DIE d) F.SCK_DIE_TARGET →
    ∃ t, exec (.wakeStepEnd ⟨d, false⟩) s = .next t ∧ t.get (.SCK_DIE d) F.SCK_DIE_STATE = 1 ∧ t.get (.SCK_DIE d) F.SCK_DIE_LADDER = 0 ∧
      (t.die d).wake = none ∧ diesBut s t [d.val] ∧ t.cores = s.cores) ∧
  (∀ (d : Fin 16) (k : Nat) (s : State), (s.die d).wake = some k → stepReady s d k = true →
    exec (.wakeStepEnd ⟨d, true⟩) s = exec (.wakeStepEnd ⟨d, false⟩) (sckErr s 10 0)) ∧
  (∀ (b : Fin 33) (s : State), blockState s b = 2 → blockTarget s b = 0 ∨ (isHeld s b = true ∧ iodForced s = false) → (∀ n, b.val = 16 + n → n < 16 → (s.slice n).held = []) →
    ∃ t, exec (.iodBlockPlay b) s = .next t ∧ blockState t b = 0 ∧ (isHeld s b = true → (t.rd .ARC_HOLD_ACK).getLsbD b = true) ∧
      (∀ a : Fin 33, a ≠ b → blockState t a = blockState s a))

/-- Secure holds (R404, R405): setting one sets its bit, and acknowledges it at once where the block is in Play or has no power states;
clearing one clears its bit, its acknowledgement and its preemption; when the grace is over the blocks that SECURE_PREEMPT named lose
their acknowledgement and their preemption. -/
def Claim.PowerHolds : Prop :=
  (∀ (b : Fin 35) (s : State), ∃ t, exec (.secureHoldSet b) s = .next t ∧
    (∀ j : Fin 64, (t.rd .ARC_HOLD).getLsbD j = ((s.rd .ARC_HOLD).getLsbD j || decide (j.val = b.val)) ∧
      (t.rd .ARC_HOLD_ACK).getLsbD j = ((s.rd .ARC_HOLD_ACK).getLsbD j ||
        (decide (j.val = b.val) && (decide (33 ≤ b.val) || blockState s b == 0)))) ∧ t.dram = s.dram) ∧
  (∀ (b : Fin 35) (s : State), ∃ t, exec (.secureHoldClear b) s = .next t ∧
    (∀ j : Fin 64, (t.rd .ARC_HOLD).getLsbD j = ((s.rd .ARC_HOLD).getLsbD j && decide (j.val ≠ b.val)) ∧
      (t.rd .ARC_HOLD_ACK).getLsbD j = ((s.rd .ARC_HOLD_ACK).getLsbD j && decide (j.val ≠ b.val)) ∧
      (t.rd .ARC_PREEMPT).getLsbD j = ((s.rd .ARC_PREEMPT).getLsbD j && decide (j.val ≠ b.val))) ∧ t.dram = s.dram) ∧
  (∀ (s : State) (at_ : Nat), s.power.preempt = some at_ → at_ + 5000 ≤ s.mtime → (∃ b : Fin 33, isPreempted s b = true) →
    ∃ t, exec .securePreemptExpire s = .next t ∧ t.power.preempt = none ∧
      (∀ b : Fin 33, (t.rd .ARC_PREEMPT).getLsbD b = false ∧
        (t.rd .ARC_HOLD_ACK).getLsbD b = ((s.rd .ARC_HOLD_ACK).getLsbD b && !isPreempted s b) ∧
        blockState t b = if isPreempted s b then max (blockState s b) (blockTarget s b) else blockState s b) ∧ t.dram = s.dram)

/-- Dies fold, go out and wake. -/
def Obligations.PowerStates : Prop :=
  Claim.PowerDown ∧ Claim.PowerWake ∧ Claim.PowerHolds

/-- Operating points and issue levels (R131, R132, R422 to R425, R470): a change to a higher point raises the voltage first, one to a lower
point ramps first, a step that the governor delayed sets WAKE_STALL as well (log entry 55), and the change goes down the die's link as a message of requester 18 (R96; its form is the model's own, log 84); sixteen ramp steps reach the point; H[0] rewrites OP_REQ of an open die; a lowered die that R422 lets rise gains one
point of cap; a running core gains one issue level, and loses all of them. A rail that never settles leaves the die in Out. -/
def Obligations.OperatingPoints : Prop :=
  (∀ (d : Fin 16) (g : BitVec 2) (s : State), s.bit (.CORE_DIE_OP d) F.CORE_DIE_OP_PINNED = false → g.toNat = pointOf s d →
    s.get (.CORE_DIE_OP d) F.CORE_DIE_OP_TARGET = s.get (.CORE_DIE_OP d) F.CORE_DIE_OP_CUR → (s.die d).wake = none →
    s.get (.SCK_DIE d) F.SCK_DIE_STATE ≤ 1 →
    (s.get (.CORE_DIE_OP d) F.CORE_DIE_OP_CUR < g.toNat → ∃ t, exec (.opChangeStart ⟨d, false⟩ g) s = .next t ∧
      t.get (.CORE_DIE_OP d) F.CORE_DIE_OP_TARGET = g.toNat ∧ t.die d = { s.die d with vsel := g.toNat, settling := true } ∧
      t.get (.CORE_DIE_OP d) F.CORE_DIE_OP_STEP = s.get (.CORE_DIE_OP d) F.CORE_DIE_OP_STEP ∧
      regsBut s t [.CORE_DIE_OP d] ∧ diesBut s t [d.val] ∧ t.points = (mgmtSend s (0x10 + d) 18).points ∧
      t = { s with regs := t.regs, dies := t.dies, points := t.points }) ∧
    (g.toNat < s.get (.CORE_DIE_OP d) F.CORE_DIE_OP_CUR → ∃ t, exec (.opChangeStart ⟨d, false⟩ g) s = .next t ∧
      t.get (.CORE_DIE_OP d) F.CORE_DIE_OP_TARGET = g.toNat ∧ t.get (.CORE_DIE_OP d) F.CORE_DIE_OP_STEP = 1 ∧
      regsBut s t [.CORE_DIE_OP d] ∧ t.points = (mgmtSend s (0x10 + d) 18).points ∧
      t = { s with regs := t.regs, points := t.points })) ∧
  (∀ (d : Fin 16) (g : BitVec 2) (s : State), s.bit (.CORE_DIE_OP d) F.CORE_DIE_OP_PINNED = true →
    ∀ b, exec (.opChangeStart ⟨d, b⟩ g) s = .next s) ∧
  (∀ (d : Fin 16) (g : BitVec 2) (s : State), s.bit (.CORE_DIE_OP d) F.CORE_DIE_OP_PINNED = false → g.toNat = pointOf s d →
    g.toNat ≠ s.get (.CORE_DIE_OP d) F.CORE_DIE_OP_CUR →
    s.get (.CORE_DIE_OP d) F.CORE_DIE_OP_TARGET = s.get (.CORE_DIE_OP d) F.CORE_DIE_OP_CUR → (s.die d).wake = none →
    s.get (.SCK_DIE d) F.SCK_DIE_STATE ≤ 1 →
    exec (.opChangeStart ⟨d, true⟩ g) s = exec (.opChangeStart ⟨d, false⟩ g) (sckErr s 10 0)) ∧
  (∀ (d : Fin 16) (s : State), 1 ≤ s.get (.CORE_DIE_OP d) F.CORE_DIE_OP_STEP →
    exec (.opRampStep ⟨d, true⟩) s = exec (.opRampStep ⟨d, false⟩) (sckErr s 10 0)) ∧
  (∀ (d : Fin 16) (s : State),
    ((s.die d).settling = false → exec (.voltageSettled d) s = .next s) ∧
    ((s.die d).settling = false ∨ (s.die d).wake ≠ some 0 → exec (.cdPgTimeout d) s = .next s) ∧
    (s.get (.CORE_DIE_OP d) F.CORE_DIE_OP_STEP = 0 → ∀ b, exec (.opRampStep ⟨d, b⟩) s = .next s)) ∧
  (∀ (d : Fin 16) (s : State), (s.die d).settling = true → (s.die d).wake = none → s.get (.CORE_DIE_OP d) F.CORE_DIE_OP_STEP = 0 →
    s.get (.CORE_DIE_OP d) F.CORE_DIE_OP_CUR < s.get (.CORE_DIE_OP d) F.CORE_DIE_OP_TARGET →
    ∃ t, exec (.voltageSettled d) s = .next t ∧ t.die d = { s.die d with settling := false } ∧
      t.get (.CORE_DIE_OP d) F.CORE_DIE_OP_STEP = 1 ∧ regsBut s t [.CORE_DIE_OP d] ∧ diesBut s t [d.val] ∧
      t = { s with regs := t.regs, dies := t.dies }) ∧
  (∀ (d : Fin 16) (s : State), 1 ≤ s.get (.CORE_DIE_OP d) F.CORE_DIE_OP_STEP → s.get (.CORE_DIE_OP d) F.CORE_DIE_OP_STEP < 16 →
    exec (.opRampStep ⟨d, false⟩) s = .next (s.put (.CORE_DIE_OP d) F.CORE_DIE_OP_STEP (s.get (.CORE_DIE_OP d) F.CORE_DIE_OP_STEP + 1))) ∧
  (∀ (d : Fin 16) (s : State), s.get (.CORE_DIE_OP d) F.CORE_DIE_OP_STEP = 16 →
    ∃ t, exec (.opRampStep ⟨d, false⟩) s = .next t ∧ t.get (.CORE_DIE_OP d) F.CORE_DIE_OP_STEP = 0 ∧
      t.get (.CORE_DIE_OP d) F.CORE_DIE_OP_CUR = s.get (.CORE_DIE_OP d) F.CORE_DIE_OP_TARGET ∧
      regsBut s t [.CORE_DIE_OP d] ∧ diesBut s t [d.val] ∧ t = { s with regs := t.regs, dies := t.dies }) ∧
  (∀ (who : Agent) (d : Fin 16) (v : Word) (s : State), s.isHouse who = true → s.bit (.SCK_DIE d) F.SCK_DIE_PINNED = false →
    exec (.opReqWrite who d v) s = .next (s.put (.SCK_DIE d) F.SCK_DIE_OP_REQ (F.SCK_DIE_OP_REQ.get v))) ∧
  (∀ (who : Agent) (d : Fin 16) (v : Word) (s : State), s.isHouse who = false ∨ s.bit (.SCK_DIE d) F.SCK_DIE_PINNED = true →
    exec (.opReqWrite who d v) s = .next s) ∧
  (∀ (d : Fin 16) (s : State), s.get (.SCK_DIE d) F.SCK_DIE_OP_CAP + 1 < s.get (.SCK_DIE d) F.SCK_DIE_OP_REQ →
    s.get .SCK_LIMIT F.SCK_LIMIT_POWER_W * 100 ≤ effLimit s * 95 → s.folio.power.outlet = 0 → dieTemp s d ≤ 980 →
    (s.die d).riseAt + 1000000 ≤ s.mtime + 1 →
    ∃ t, exec (.opRiseCheck d) s = .next t ∧ t.get (.SCK_DIE d) F.SCK_DIE_OP_CAP = s.get (.SCK_DIE d) F.SCK_DIE_OP_CAP + 1 ∧
      t.get (.SCK_DIE d) F.SCK_DIE_OP_REQ = s.get (.SCK_DIE d) F.SCK_DIE_OP_REQ ∧
      t.die d = { s.die d with riseAt := s.mtime + 1 } ∧ diesBut s t [d.val] ∧
      t = { s with regs := t.regs, dies := t.dies, flips := t.flips }) ∧
  (∀ (c : Fin 384) (s : State), s.runs c = true → (s.core c).level < 7 →
    exec (.issueLevelGrant c) s = .next (s.setCore c { s.core c with level := (s.core c).level + 1 })) ∧
  (∀ (c : Fin 384) (s : State), exec (.issueLevelReset c) s = .next (s.setCore c { s.core c with level := 0 })) ∧
  (∀ (d : Fin 16) (s : State), (s.die d).wake = some 0 → (s.die d).settling = true → (s.die d).capOld = none →
    s.get (.FLT_DIE d) F.FLT_DIE_STATE ≠ 3 →
    ∃ t, exec (.cdPgTimeout d) s = .next t ∧ t.die d = { s.die d with settling := false, wake := none } ∧ linkState t d = 0 ∧
      (t.rd (.DL_ERR d)).getLsbD 8 = true ∧ t.get (.SCK_DIE d) F.SCK_DIE_LADDER = 0 ∧
      t.get (.SCK_DIE d) F.SCK_DIE_STATE = s.get (.SCK_DIE d) F.SCK_DIE_STATE ∧ diesBut s t [d.val])

/-- Telemetry and trips (R409, R410, R420, R432): the record of a die in Play or Pass goes up the die's link (R96; its form there is the
model's own, log 84) and replaces the latest one, read as 105.0 °C or discarded where SCK_INJECT says so; one more than 30 µs old sets
TELEM_LOST; an open die at 100.0 °C is throttled by a point; one at 105.0 °C is forced to Pass and tripped, until it has cooled to 95.0 °C;
an IOD trip puts every die in Play into Pass, until it is released; THERMTRIP latches its error. -/
def Claim.ThermalTrips : Prop :=
  (∀ (d : Fin 16) (r : Telem) (s : State), 1 < s.get (.SCK_DIE d) F.SCK_DIE_STATE → exec (.telemetryRecord d r) s = .next s) ∧
  (∀ (d : Fin 16) (r : Telem) (s : State), s.get (.SCK_DIE d) F.SCK_DIE_STATE ≤ 1 → s.bit .SCK_INJECT F.SCK_INJECT_TELEM = true →
    s.get .SCK_INJECT F.SCK_INJECT_DIE = d.val →
    ∃ t, exec (.telemetryRecord d r) s = .next t ∧ t.power = { s.power with telemDrop := s.power.telemDrop - 1 } ∧
      t.points = (mgmtSend s d 26).points ∧ regsBut s t [.SCK_INJECT] ∧
      t = { s with regs := t.regs, power := t.power, points := t.points }) ∧
  (∀ (d : Fin 16) (r : Telem) (s : State), s.get (.SCK_DIE d) F.SCK_DIE_STATE ≤ 1 →
    s.bit .SCK_INJECT F.SCK_INJECT_TELEM = false ∨ s.get .SCK_INJECT F.SCK_INJECT_DIE ≠ d.val →
    ∃ t, exec (.telemetryRecord d r) s = .next t ∧
      t.get (.SCK_DIE_TEL d) F.SCK_DIE_TEL_TJ = (if s.bit .SCK_INJECT F.SCK_INJECT_TRIP && s.get .SCK_INJECT F.SCK_INJECT_DIE == d.val
        then 1050 else r.tj.toNat) ∧
      t.get (.SCK_DIE_TEL d) F.SCK_DIE_TEL_CURRENT = r.current.toNat ∧ t.get (.SCK_DIE_TEL d) F.SCK_DIE_TEL_VOLT = r.volt.toNat ∧
      t.die d = { s.die d with telAt := s.mtime, telLost := false } ∧ diesBut s t [d.val] ∧
      regsBut s t [.SCK_DIE_TEL d, .SCK_SUIT (d.val / 4), .SCK_INJECT] ∧ t.points = (mgmtSend s d 26).points ∧
      t = { s with regs := t.regs, dies := t.dies, points := t.points }) ∧
  (∀ (d : Fin 16) (s : State), (s.die d).telAt + 3000 < s.mtime → s.get (.SCK_DIE d) F.SCK_DIE_STATE ≤ 1 → (s.die d).telLost = false →
    ∃ t, exec (.telemetryLost d) s = .next t ∧ t.die d = { s.die d with telLost := true } ∧ dieTemp t d = 1000 ∧
      (t.rd .SCK_ERR).getLsbD 7 = true ∧ diesBut s t [d.val] ∧ t = { s with regs := t.regs, dies := t.dies, flips := t.flips }) ∧
  (∀ (d : Fin 16) (s : State), openDie s d = true → 1000 ≤ dieTemp s d → s.get (.SCK_DIE d) F.SCK_DIE_STATE ≤ 1 →
    ∃ t, exec (.thermalThrottle d) s = .next t ∧ t.bit (.SCK_DIE d) F.SCK_DIE_THROTTLE = true ∧ (t.rd .SCK_ERR).getLsbD 3 = true ∧
      t.get (.SCK_DIE d) F.SCK_DIE_OP_CAP = (if 0 < pointOf s d then pointOf s d - 1 else s.get (.SCK_DIE d) F.SCK_DIE_OP_CAP) ∧
      t = { s with regs := t.regs, flips := t.flips }) ∧
  (∀ (d : Fin 16) (s : State), 1050 ≤ s.get (.SCK_DIE_TEL d) F.SCK_DIE_TEL_TJ → s.bit (.SCK_DIE d) F.SCK_DIE_TRIP = false →
    s.get .SCK_PKG F.SCK_PKG_STATE ≠ 3 →
    ∃ t, exec (.dieTrip d) s = .next t ∧ t.bit (.SCK_DIE d) F.SCK_DIE_TRIP = true ∧ (t.rd .SCK_ERR).getLsbD 2 = true ∧
      t.get (.SCK_DIE d) F.SCK_DIE_STATE = max 1 (s.get (.SCK_DIE d) F.SCK_DIE_STATE) ∧
      1 ≤ t.get (.SCK_DIE d) F.SCK_DIE_TARGET) ∧
  (∀ (d : Fin 16) (s : State), s.bit (.SCK_DIE d) F.SCK_DIE_TRIP = true → s.get (.SCK_DIE_TEL d) F.SCK_DIE_TEL_TJ ≤ 950 →
    ∃ t, exec (.tripRelease (.die d)) s = .next t ∧ t.bit (.SCK_DIE d) F.SCK_DIE_TRIP = false) ∧
  (∀ (d : Fin 16) (s : State), s.bit (.SCK_DIE d) F.SCK_DIE_TRIP = false ∨ 950 < s.get (.SCK_DIE_TEL d) F.SCK_DIE_TEL_TJ →
    exec (.tripRelease (.die d)) s = .next s) ∧
  (∀ (s : State), (∃ t, exec (.tripRelease .iod) s = .next t ∧ t.power.iodTrip = false ∧ t.power.inletTrip = s.power.inletTrip) ∧
    (s.get .SCK_COOLANT F.SCK_COOLANT_INLET ≤ 750 →
      ∃ t, exec (.tripRelease .inlet) s = .next t ∧ t.power.inletTrip = false ∧ t.power.iodTrip = s.power.iodTrip) ∧
    (750 < s.get .SCK_COOLANT F.SCK_COOLANT_INLET → exec (.tripRelease .inlet) s = .next s) ∧
    (s.bit .SCK_ERR F.SCK_ERR_THERMTRIP = true → exec .thermtrip s = .next s)) ∧
  (∀ (s : State), s.get .SCK_COOLANT F.SCK_COOLANT_INLET < 800 → exec (.iodTrip .inlet) s = .next s) ∧
  (∀ (cause : TripCause) (s : State), s.get .SCK_PKG F.SCK_PKG_STATE ≠ 3 →
    (cause = .inlet → 800 ≤ s.get .SCK_COOLANT F.SCK_COOLANT_INLET) →
    ∃ t, exec (.iodTrip cause) s = .next t ∧ iodForced t = true ∧ (t.rd .SCK_ERR).getLsbD 2 = true ∧
      (∀ d : Fin 16, 1 ≤ t.get (.SCK_DIE d) F.SCK_DIE_STATE ∧ 1 ≤ t.get (.SCK_DIE d) F.SCK_DIE_TARGET)) ∧
  (∀ (s : State), s.bit .SCK_ERR F.SCK_ERR_THERMTRIP = false →
    ∃ t, exec .thermtrip s = .next t ∧ t.bit .SCK_ERR F.SCK_ERR_THERMTRIP = true ∧ t.out = s.out ++ [.ibi 3] ∧
      t = { s with regs := t.regs, flips := t.flips, out := t.out })

/-- The power limit and heat (R421, R428, R432): a check adds the energy, stores the powers, and with the average at or below the effective
limit lowers no die; above it with no die to lower, OVER_LIMIT sets. HEAT_ACCOUNT stores the coolant readings and adds the heat exported,
keeping the rest in 6 × 10^8 parts; no flow with a unit in Play sets NO_FLOW. SCK_INJECT takes the house supervisor's writes only. -/
def Claim.PowerHeat : Prop :=
  (∀ (m : PowerSample) (s : State), m.watts ≤ effLimit s → m.watts < 2 ^ 16 → s.folio.power.outlet = 0 →
    ∃ t, exec (.powerLimitCheck m) s = .next t ∧ t.rd .SCK_ENERGY = s.rd .SCK_ENERGY + BitVec.ofNat 64 m.energyMj ∧
      t.get .SCK_LIMIT F.SCK_LIMIT_POWER_W = m.watts ∧ t.get .SCK_LIMIT F.SCK_LIMIT_OVER_LIMIT = 0 ∧
      (∀ d : Fin 16, t.rd (.SCK_DIE d) = s.rd (.SCK_DIE d)) ∧ t = { s with regs := t.regs, flips := t.flips }) ∧
  (∀ (m : PowerSample) (s : State), effLimit s < m.watts → lowerable s m.dies = none →
    ∃ t, exec (.powerLimitCheck m) s = .next t ∧ t.get .SCK_LIMIT F.SCK_LIMIT_OVER_LIMIT = 1 ∧ (t.rd .SCK_ERR).getLsbD 4 = true ∧
      t = { s with regs := t.regs, flips := t.flips }) ∧
  (∀ (m : PowerSample) (d : Nat) (s : State), effLimit s < m.watts → lowerable s m.dies = some d →
    s.power.lowerAt + 10000 ≤ s.mtime + 1 → s.folio.power.outlet = 0 →
    ∃ t, exec (.powerLimitCheck m) s = .next t ∧ t.get (.SCK_DIE d) F.SCK_DIE_OP_CAP = pointOf s d - 1 ∧
      (∀ e : Fin 16, e.val ≠ d → t.rd (.SCK_DIE e) = s.rd (.SCK_DIE e))) ∧
  (∀ (i o : BitVec 16) (s : State), s.rd .SCK_INJECT = 0 → s.get .SCK_COOLANT F.SCK_COOLANT_FLOW ≠ 0 →
    ∃ t, exec (.heatAccount i o) s = .next t ∧ t.get .SCK_COOLANT F.SCK_COOLANT_INLET = i.toNat ∧
      t.get .SCK_COOLANT F.SCK_COOLANT_OUTLET = o.toNat ∧ t.heat < 600000000 ∧
      (∃ w : Int, t.rd .SCK_HEAT = s.rd .SCK_HEAT + BitVec.ofInt 64 w ∧
        600000000 * w + t.heat = s.heat + s.get .SCK_COOLANT F.SCK_COOLANT_FLOW * s.get .SCK_COOLANT F.SCK_COOLANT_HEAT_CAP *
          ((o.toNat : Int) - i.toNat)) ∧
      t = { s with regs := t.regs, heat := t.heat, flips := t.flips }) ∧
  (∀ (i o : BitVec 16) (s : State), s.get .SCK_COOLANT F.SCK_COOLANT_FLOW = 0 → anyPlay s = true →
    ∃ t, exec (.heatAccount i o) s = .next t ∧ (t.rd .SCK_ERR).getLsbD 9 = true ∧ t.rd .SCK_HEAT = s.rd .SCK_HEAT ∧ t.heat = s.heat) ∧
  (∀ (who : Agent) (v : Word) (s : State), s.isHouse who = false →
    exec (.sckInjectInlet who v) s = .next s ∧ exec (.sckInjectIodTrip who v) s = .next s ∧
    exec (.sckInjectTrip who v) s = .next s ∧ exec (.sckInjectTelem who v) s = .next s) ∧
  (∀ (who : Agent) (v : Word) (s : State), s.isHouse who = true →
    (v &&& 0xF = 2 → exec (.sckInjectTrip who v) s = .next (s.wr .SCK_INJECT (Reg.SCK_INJECT.written (s.rd .SCK_INJECT) v))) ∧
    (v &&& 0xF = 1 → ∃ t, exec (.sckInjectTelem who v) s = .next t ∧ t.power = { s.power with telemDrop := 4 } ∧
      t.rd .SCK_INJECT = Reg.SCK_INJECT.written (s.rd .SCK_INJECT) v ∧ regsBut s t [.SCK_INJECT] ∧
      t = { s with regs := t.regs, power := t.power }) ∧
    (v &&& 0xF = 8 → ∃ t, exec (.sckInjectInlet who v) s = .next t ∧ t.get .SCK_COOLANT F.SCK_COOLANT_INLET = 660 ∧
      t.power = { s.power with inletTo := s.mtime + 1000000 } ∧ t.bit .SCK_INJECT F.SCK_INJECT_INLET = true) ∧
    (v &&& 0xF = 4 → s.get .SCK_PKG F.SCK_PKG_STATE ≠ 3 → ∃ t, exec (.sckInjectIodTrip who v) s = .next t ∧ t.power.iodTrip = true ∧
      t.bit .SCK_INJECT F.SCK_INJECT_IOD_TRIP = false ∧ (∀ d : Fin 16, 1 ≤ t.get (.SCK_DIE d) F.SCK_DIE_STATE)))

/-- Thermal trips, telemetry, energy and heat. -/
def Obligations.Thermal : Prop :=
  Claim.ThermalTrips ∧ Claim.PowerHeat

/-- The stored lines: a line reads back as it was stored, and every other line reads as before. -/
def Claim.MemoryReadBack : Prop :=
  ∀ (m : Dram) (key : Nat) (raw : BitVec 640),
    rawAt (setRaw m key raw) key = raw ∧ (∀ k, k ≠ key → rawAt (setRaw m key raw) k = rawAt m k)

/-- The check bits of a line (R275 to R277): a line reads back with its data and its backing word and with nothing corrected; one wrong bit of a
data word or of its check byte is corrected; two wrong bits in one of these words are uncorrectable, and the line is poisoned. -/
def Claim.MemoryEcc : Prop :=
  ∀ (data : LineData) (poison nohand : Bool) (cause : Fin 8) (hand : Fin 64),
    (let raw := rawLine data (backing poison cause hand nohand)
     let x := checkLine raw
     (x.data = data ∧ x.poison = poison ∧ x.cause = cause ∧ x.hand = hand ∧ x.nohand = nohand ∧ x.fixed = 0 ∧ x.ue = 0 ∧
       x.backUe = false) ∧
     (∀ (w : Fin 8) (i : Fin 72),
       let at_ := fun j : Nat => if j < 64 then 64 * w.val + j else 512 + 8 * w.val + (j - 64)
       (let y := checkLine (raw ^^^ ((1 : BitVec 640) <<< at_ i))
        y.data = data ∧ y.poison = poison ∧ y.fixed = 1 ∧ y.ue = 0 ∧ y.word = w) ∧
       (∀ j : Fin 72, j ≠ i →
         let y := checkLine (raw ^^^ ((1 : BitVec 640) <<< at_ i) ^^^ ((1 : BitVec 640) <<< at_ j))
         y.poison = true ∧ y.fixed = 0 ∧ y.ue = 1 ∧ y.word = w)))

/-- Memory reads back as written; check bits correct one bit and find two. -/
def Obligations.StoredLines : Prop :=
  Claim.MemoryReadBack ∧ Claim.MemoryEcc

/-- The activation table (R283): a row in it rises by one; another takes a free entry with count 1; with 4,096 entries it takes the place of the
first entry of smallest count, with that count plus one. So a row's count is never below its activations since the table was empty, as long
as no count has reached its largest value. The steps of neighbour refresh, migration, copy-back and test count nothing, and ACT_TABLE_CLEAR
clears every entry. -/
def Obligations.ActivationTable : Prop :=
  (∀ (t : List (Nat × Nat)) (k m : Nat), (k, m) ∈ t → m < 0xFFFF → (k, m + 1) ∈ countAct t k ∧ (countAct t k).length = t.length) ∧
  (∀ (t : List (Nat × Nat)) (k : Nat), (∀ e ∈ t, e.1 ≠ k) → t.length < 4096 → countAct t k = t ++ [(k, 1)]) ∧
  (∀ (t : List (Nat × Nat)) (k i j m : Nat), (∀ e ∈ t, e.1 ≠ k) → 4096 ≤ t.length → t[i]? = some (j, m) → m < 0xFFFF →
    (∀ e ∈ t, m ≤ e.2) → (∀ a e, a < i → t[a]? = some e → m < e.2) → countAct t k = t.set i (k, m + 1)) ∧
  (∀ (l : List Nat) (k m : Nat), (∀ e ∈ l.foldl countAct [], e.2 < 0xFFFF) → (k, m) ∈ l.foldl countAct [] → l.count k ≤ m) ∧
  (∀ (n : Fin 16) (sc : Nat) (s : State), ((neighbourStep s n sc).chan n).act = (s.chan n).act ∧
    ((copyStep s n).chan n).act = (s.chan n).act ∧ (∀ x, ((testStep s n x).chan n).act = (s.chan n).act)) ∧
  (∀ (n : Fin 16) (s : State), ∃ t, exec (.actTableClear n) s = .next t ∧ (t.chan n).act = [])

/-- Data of a read (R270, R277, R299): the burst of an issued read that stands in no error gives its home transaction the data and the poison
of the stored line; its queue entry is free, and a request that waited for one enters. Without an issued read of the line, while its
read is to be reissued, and in Fold, nothing happens. -/
def Claim.ChannelReadData : Prop :=
  (∀ (n : Fin 16) (q : MemRd) (data : LineData) (poison : Bool) (u : Txn) (s : State), (s.chan n).reads = [q] →
    q.raw = some (rawLine data (backing poison 0 0 true)) → q.again = false → sramBits s 14 (0x2300 + n.val) (q.line * 64) = 0 →
    s.get .SCK_IOD_STATE (F.SCK_IOD_STATE_CHANNEL n) ≠ 2 → (s.slice (q.q / 2)).txns = [u] → u.req.line = q.line → u.reading = true →
    exec (.mcReadData n q.line) s = .next (releaseWb (finishTxn (admitWaiting (s.setChan n { s.chan n with reads := [] }) n) (q.q / 2) u
      (some (data, poison))) (q.q / 2) q.line)) ∧
  (∀ (n : Fin 16) (line : Nat) (s : State), (∀ q ∈ (s.chan n).reads, q.line = line → q.raw = none ∨ q.again = true) ∨
      s.get .SCK_IOD_STATE (F.SCK_IOD_STATE_CHANNEL n) = 2 →
    exec (.mcReadData n line) s = .next s)

/-- Refresh and activation counting (R282 to R286): a refresh of a rank of an enabled channel falls due, for the rank's bank indices in turn
(the turn is the model's reading, log 100); a poll sets HOT and tREFI; a row that
has reached ACT_THRESH queues its neighbours within the device and counts from zero, or sets ACT_OVERFLOW where 32 rows wait; a refresh
window clears the table, an hour window every CE_HOUR. -/
def Claim.ChannelRefresh : Prop :=
  (∀ (n : Fin 16) (sc : Fin 2) (r : Fin 8) (s : State), s.bit (.MC_CFG n) F.MC_CFG_ENABLE = true →
    r.val < s.get (.MC_CFG n) F.MC_CFG_RANKS →
    let c := s.chan n;
    let k := 2 * r.val + sc.val;
    exec (.refsbDue n sc r) s = .next (s.setChan n { c with
      due := c.due ++ [(sc.val, r.val, c.nextRef.getD k 0)], nextRef := c.nextRef.set k ((c.nextRef.getD k 0 + 1) % 4) })) ∧
  (∀ (n : Fin 16) (sc : Fin 2) (r : Fin 8) (s : State), s.bit (.MC_CFG n) F.MC_CFG_ENABLE = false ∨
      s.get (.MC_CFG n) F.MC_CFG_RANKS ≤ r.val →
    exec (.refsbDue n sc r) s = .next s) ∧
  (∀ (n : Fin 16) (hot : Bool) (s : State), ∃ t, exec (.dimmThermalPoll n hot) s = .next t ∧
    t.bit (.MC_REFRESH n) F.MC_REFRESH_HOT = hot ∧ t.get (.MC_TIMING n) F.MC_TIMING_TREFI = (if hot then 1950 else 3900) ∧
    regsBut s t [.MC_REFRESH n, .MC_TIMING n] ∧ t = { s with regs := t.regs }) ∧
  (∀ (n : Fin 16) (k m : Nat) (s : State), (s.chan n).act = [(k, m)] → s.get (.MC_ACT n) F.MC_ACT_THRESH ≤ m →
    (s.chan n).neigh.length < 32 →
    ∃ t, exec (.neighbourRefreshQueue n k) s = .next t ∧
      t.chan n = { s.chan n with
        neigh := (s.chan n).neigh ++ [(k, (if keyRow k = 0 then [] else [keyRow k - 1]) ++
          (if keyRow k + 1 < 2 ^ rowBits s then [keyRow k + 1] else []))]
        act := [(k, 0)] } ∧
      t.get (.MC_ACT n) F.MC_ACT_QUEUED = (s.chan n).neigh.length + 1 ∧ chansBut s t [n.val] ∧ regsBut s t [.MC_ACT n] ∧
      t = { s with regs := t.regs, chans := t.chans }) ∧
  (∀ (n : Fin 16) (k m : Nat) (s : State), (s.chan n).act = [(k, m)] → s.get (.MC_ACT n) F.MC_ACT_THRESH ≤ m →
    32 ≤ (s.chan n).neigh.length →
    ∃ t, exec (.neighbourRefreshQueue n k) s = .next t ∧ (t.rd (.MC_ERR n)).getLsbD 5 = true ∧ t.chans = s.chans ∧ t.dram = s.dram) ∧
  (∀ (n : Fin 16) (k : Nat) (s : State), (∀ e ∈ (s.chan n).act, e.1 = k → e.2 < s.get (.MC_ACT n) F.MC_ACT_THRESH) →
    exec (.neighbourRefreshQueue n k) s = .next s) ∧
  (∀ (n : Fin 16) (s : State), ∃ t, exec (.actTableClear n) s = .next t ∧ t.chan n = { s.chan n with act := [] } ∧
    t.get (.MC_ACT n) F.MC_ACT_USED = 0 ∧ chansBut s t [n.val] ∧ regsBut s t [.MC_ACT n] ∧
    t = { s with regs := t.regs, chans := t.chans }) ∧
  (∀ (s : State), ∃ t, exec .ceHourWindow s = .next t ∧
    (∀ (n : Fin 16) (r : Fin 8), t.get (.MC_RANK n r) F.MC_RANK_CE_HOUR = 0 ∧ rankState t n r = rankState s n r ∧
      t.get (.MC_RANK n r) F.MC_RANK_INDEX = s.get (.MC_RANK n r) F.MC_RANK_INDEX) ∧ t = { s with regs := t.regs })

/-- Data of a channel read, refresh and neighbour refresh. -/
def Obligations.ChannelService : Prop :=
  Claim.ChannelReadData ∧ Claim.ChannelRefresh

/-- Retirement (R286, R288, R289): a due retirement with the spare free begins: the rank migrates from line 0, the writes that are queued for
it drain, and its requests wait for the switch-over; without a free spare the rank is FAILED. A retirement that is not due does nothing. -/
def Claim.RankRetirement : Prop :=
  (∀ (n : Fin 16) (r : Fin 8) (s : State), (s.chan n).retire.contains r.val = true → rankState s n r = 1 → r.val ≠ spareRank s n →
    spareFree s n = true →
    let u := drainRank (s.setChan n { s.chan n with retire := (s.chan n).retire.filter (fun x => x != r.val) }) n r;
    ∃ t, exec (.rankRetireStart n r) s = .next t ∧ rankState t n r = 3 ∧ t.bit (.MC_MIGRATE n) F.MC_MIGRATE_ACTIVE = true ∧
      t.get (.MC_MIGRATE n) F.MC_MIGRATE_DIR = 0 ∧ t.get (.MC_MIGRATE n) F.MC_MIGRATE_SOURCE = r.val ∧
      t.get (.MC_MIGRATE n) F.MC_MIGRATE_POINTER = 0 ∧
      t.chan n = { u.chan n with switch_ := some (r.val, false) } ∧ (t.rd (.MC_ERR n)).getLsbD 6 = true ∧
      chansBut s t [n.val] ∧ t.dram = u.dram) ∧
  (∀ (n : Fin 16) (r : Fin 8) (s : State), (s.chan n).retire.contains r.val = true → rankState s n r = 1 → spareFree s n = false →
    s.bit (.MC_MIGRATE n) F.MC_MIGRATE_ACTIVE = false →
    ∃ t, exec (.rankRetireStart n r) s = .next t ∧ rankState t n r = 5 ∧ (t.rd (.MC_ERR n)).getLsbD 7 = true ∧
      t.chan n = { s.chan n with retire := (s.chan n).retire.filter (fun x => x != r.val), switch_ := none } ∧
      chansBut s t [n.val] ∧ t.dram = s.dram) ∧
  (∀ (n : Fin 16) (r : Fin 8) (s : State), (s.chan n).retire.contains r.val = false → exec (.rankRetireStart n r) s = .next s) ∧
  (∀ (n : Fin 16) (s : State), exec (.switchoverEnd n) s = .next (s.setChan n { s.chan n with switch_ := none }))

/-- Command errors (R287): ALERT_N holds its DIMM: the commands of its last 64 tricks are to be re-issued in their order, and every read of
it whose data has not returned; an ALERT_N of a held DIMM recurs on the command re-issued last. With nothing left to re-issue the retry
ends and CMD_ERR is corrected; where ALERT_N recurred, the rank of that command is retired, and the reads not reissued are issued anew.
Until then the retry goes on. -/
def Claim.CommandRetry : Prop :=
  (∀ (n : Fin 16) (slot : Fin 2) (s : State), (s.chan n).retry.get? slot.val = none →
    let c := s.chan n;
    let mine := fun r : MemRd => r.raw.isSome && slotOf s n r.rank == slot.val;
    ∃ t, exec (.alertN n slot) s = .next t ∧
      (∃ more, (t.chan n).retry.get? slot.val = some ⟨(c.hist.filter (fun h => h.slot == slot.val)).reverse ++ more, none, none⟩ ∧
        (∀ r ∈ c.reads, mine r = true → ∃ m ∈ (c.hist.filter (fun h => h.slot == slot.val)).reverse ++ more, m.op = .read r.seq)) ∧
      t.chan n = { c with
        retry := (t.chan n).retry, hist := c.hist.filter (fun h => h.slot != slot.val),
        reads := c.reads.map (fun r => if mine r then { r with again := true } else r) } ∧
      (∀ k, k ≠ slot.val → (t.chan n).retry.get? k = c.retry.get? k) ∧ chansBut s t [n.val] ∧ t = { s with chans := t.chans }) ∧
  (∀ (n : Fin 16) (slot : Fin 2) (y : MemRetry) (s : State), (s.chan n).retry.get? slot.val = some y →
    exec (.alertN n slot) s = .next (s.setChan n { s.chan n with
      retry := (s.chan n).retry.set slot.val { y with recur := y.last.or y.redo.head? } })) ∧
  (∀ (n : Fin 16) (slot : Fin 2) (y : MemRetry) (s : State), (s.chan n).retry.get? slot.val = some y →
    (y.recur = none → y.redo = [] →
      ∃ t, exec (.cmdRetryEnd n slot) s = .next t ∧ t.chan n = { s.chan n with retry := (s.chan n).retry.erase slot.val } ∧
        (t.rd (.MC_ERR n)).getLsbD 3 = true ∧ chansBut s t [n.val] ∧ t.dram = s.dram) ∧
    (y.recur = none → y.redo ≠ [] → exec (.cmdRetryEnd n slot) s = .next s) ∧
    (∀ m, y.recur = some m → m.rank < 8 → rankState s n m.rank = 1 → spareFree s n = false →
      s.bit (.MC_MIGRATE n) F.MC_MIGRATE_ACTIVE = false →
      ∃ t, exec (.cmdRetryEnd n slot) s = .next t ∧ (t.chan n).retry = (s.chan n).retry.erase slot.val ∧
        rankState t n m.rank = 5 ∧ (t.rd (.MC_ERR n)).getLsbD 4 = true ∧
        (t.chan n).reads = (s.chan n).reads.map (fun q => if q.again ∧ slotOf s n q.rank = slot.val
          then { q with raw := none, again := false } else q) ∧ t.dram = s.dram)) ∧
  (∀ (n : Fin 16) (slot : Fin 2) (s : State), (s.chan n).retry.get? slot.val = none → exec (.cmdRetryEnd n slot) s = .next s)

/-- MC_RANK_CMD, the rank test and MC_INJECT (R290 to R292): TEST of a RETIRED or FAILED rank puts it into TESTING; once every step is done,
the test's end puts it back with TESTED and PASS or FAIL, every line of a FAILED rank that passes reading as poisoned zeros; RETURN of the
rank that migrated begins the copy-back, of any other tested one makes it ACTIVE; a command that R291 refuses only says why, and a write
without its OP does nothing. H[0] alone may command. -/
def Claim.RankCommands : Prop :=
  (∀ (who : Agent) (n : Fin 16) (v : Word) (s : State), s.isHouse who = false →
    exec (.mcRankCmdTest who n v) s = .next s ∧ exec (.mcRankCmdReturn who n v) s = .next s ∧
    exec (.mcInjectCaParity who n v) s = .next s ∧ exec (.mcInjectBacking who n v) s = .next s ∧
    exec (.mcInjectArm who n v) s = .next s) ∧
  (∀ (who : Agent) (n : Fin 16) (v : Word) (s : State),
    (F.MC_RANK_CMD_OP.get v ≠ 1 → exec (.mcRankCmdTest who n v) s = .next s) ∧
    (F.MC_RANK_CMD_OP.get v ≠ 2 → exec (.mcRankCmdReturn who n v) s = .next s)) ∧
  (∀ (who : Agent) (n : Fin 16) (v : Word) (r : Fin 8) (s : State), s.isHouse who = true → F.MC_RANK_CMD_OP.get v = 1 →
    F.MC_RANK_CMD_RANK.get v = r.val →
    (rankResult s n 1 r = 0 →
      ∃ t, exec (.mcRankCmdTest who n v) s = .next t ∧ t.get (.MC_RANK_CMD n) F.MC_RANK_CMD_RESULT = 0 ∧ rankState t n r = 6 ∧
        t.chan n = { s.chan n with test := some ⟨r.val, 0, rankState s n r, false⟩ } ∧ chansBut s t [n.val] ∧
        regsBut s t [.MC_RANK_CMD n, .MC_RANK n r] ∧ t = { s with regs := t.regs, chans := t.chans }) ∧
    (rankResult s n 1 r ≠ 0 →
      exec (.mcRankCmdTest who n v) s = .next (s.put (.MC_RANK_CMD n) F.MC_RANK_CMD_RESULT (rankResult s n 1 r)))) ∧
  (∀ (n : Fin 16) (op r : Nat) (s : State),
    (rankState s n r ≠ 4 → rankState s n r ≠ 5 → rankResult s n op r = 1) ∧
    (rankState s n r = 4 ∨ rankState s n r = 5 →
      (op = 2 → s.bit (.MC_RANK n r) F.MC_RANK_TESTED = false ∨ s.bit (.MC_RANK n r) F.MC_RANK_PASS = false → rankResult s n op r = 2) ∧
      (op ≠ 2 ∨ s.bit (.MC_RANK n r) F.MC_RANK_TESTED = true ∧ s.bit (.MC_RANK n r) F.MC_RANK_PASS = true →
        rankResult s n op r = if s.bit (.MC_MIGRATE n) F.MC_MIGRATE_ACTIVE || (s.chan n).test.isSome then 3 else 0))) ∧
  (∀ (who : Agent) (n : Fin 16) (v : Word) (r : Fin 8) (s : State), s.isHouse who = true → F.MC_RANK_CMD_OP.get v = 2 →
    F.MC_RANK_CMD_RANK.get v = r.val →
    (rankResult s n 2 r ≠ 0 →
      exec (.mcRankCmdReturn who n v) s = .next (s.put (.MC_RANK_CMD n) F.MC_RANK_CMD_RESULT (rankResult s n 2 r))) ∧
    (rankResult s n 2 r = 0 → s.get (.MC_MIGRATE n) F.MC_MIGRATE_SOURCE = r.val →
      let u := drainRank (s.put (.MC_RANK_CMD n) F.MC_RANK_CMD_RESULT 0) n (spareRank s n);
      ∃ t, exec (.mcRankCmdReturn who n v) s = .next t ∧ rankState t n r = 7 ∧ t.bit (.MC_MIGRATE n) F.MC_MIGRATE_ACTIVE = true ∧
        t.get (.MC_MIGRATE n) F.MC_MIGRATE_DIR = 1 ∧ t.get (.MC_MIGRATE n) F.MC_MIGRATE_POINTER = 0 ∧
        t.chan n = { u.chan n with switch_ := some (r.val, true) } ∧ chansBut s t [n.val] ∧ t.dram = u.dram ∧
        regsBut u t [.MC_RANK n r, .MC_MIGRATE n] ∧ t = { u with regs := t.regs, chans := t.chans }) ∧
    (rankResult s n 2 r = 0 → s.get (.MC_MIGRATE n) F.MC_MIGRATE_SOURCE ≠ r.val →
      ∃ t, exec (.mcRankCmdReturn who n v) s = .next t ∧ rankState t n r = 1 ∧
        regsBut s t [.MC_RANK_CMD n, .MC_RANK n r] ∧ t = { s with regs := t.regs })) ∧
  (∀ (n : Fin 16) (pass : Bool) (r : Fin 8) (x : RankTest) (s : State), (s.chan n).test = some x → x.rank = r.val →
    x.prior = 4 ∨ x.prior = 5 → testSteps s ≤ x.step →
    ∃ t, exec (.rankTestEnd n pass) s = .next t ∧ rankState t n r = x.prior ∧ t.bit (.MC_RANK n r) F.MC_RANK_TESTED = true ∧
      t.bit (.MC_RANK n r) F.MC_RANK_PASS = (pass && !x.bad) ∧ (t.chan n).test = none ∧
      ((pass && !x.bad) = true → x.prior = 5 → ∀ loc, loc < 2 ^ 30 → rawAt t.dram (lineKey t n r loc) = failRaw) ∧
      ((pass && !x.bad) = false ∨ x.prior = 4 → t.dram = s.dram) ∧ chansBut s t [n.val]) ∧
  (∀ (n : Fin 16) (pass : Bool) (s : State), (s.chan n).test = none ∨ (∃ x, (s.chan n).test = some x ∧ x.step < testSteps s) →
    exec (.rankTestEnd n pass) s = .next s) ∧
  (∀ (who : Agent) (n : Fin 16) (v : Word) (s : State), s.isHouse who = true →
    exec (.mcInjectCaParity who n v) s = .next (s.wr (.MC_INJECT n) ((Reg.MC_INJECT n).written (s.rd (.MC_INJECT n)) v)) ∧
    exec (.mcInjectBacking who n v) s = .next (s.wr (.MC_INJECT n) ((Reg.MC_INJECT n).written (s.rd (.MC_INJECT n)) v)) ∧
    exec (.mcInjectArm who n v) s = .next (s.wr (.MC_INJECT n) ((Reg.MC_INJECT n).written (s.rd (.MC_INJECT n)) v)))

/-- Ranks are retired, tested and returned; command retries. -/
def Obligations.Ranks : Prop :=
  Claim.RankRetirement ∧ Claim.CommandRetry ∧ Claim.RankCommands

/-- The links of the host ports (R316, R317, R325, R326, R338 to R340): HP_PERST_L takes a port that is up DOWN, holds one that is not up in its wait, or DOWN, and lets
it train once deasserted; a port that may train comes up with the speed and width it has trained to, and its vote counts; in a retraining
the link is in RECOVERY until it has new rates; a link that goes down releases every tag, discards what waits, freezes the queues of the
port's functions, withdraws its votes and trains again where it may; after L1 or RECOVERY the TLPs that waited leave in order. LTR names
the least tolerance. -/
def Obligations.PortLinks : Prop :=
  (∀ (p : Fin 8) (s : State), s.folio.portEnabled p = true → counts s p = false →
    (∃ t, exec (.hpPerst p true) s = .next t ∧ t.mgmt.perst.testBit p = true ∧ t.get (.HP_LINK p) F.HP_LINK_PERST = 1 ∧
      t.get (.HP_LINK p) F.HP_LINK_STATE = (if s.get (.HP_LINK p) F.HP_LINK_STATE = 5 then 5 else 1) ∧ regsBut s t [.HP_LINK p] ∧
      t = { s with regs := t.regs, mgmt := { s.mgmt with perst := t.mgmt.perst } }) ∧
    (∃ t, exec (.hpPerst p false) s = .next t ∧ t.mgmt.perst.testBit p = false ∧ t.get (.HP_LINK p) F.HP_LINK_PERST = 0 ∧
      t.get (.HP_LINK p) F.HP_LINK_STATE = (if s.get .FOL_STATE F.FOL_STATE_STATE = 5 then 2
        else if s.get (.HP_LINK p) F.HP_LINK_STATE = 5 then 5 else 1) ∧ regsBut s t [.HP_LINK p] ∧
      t = { s with regs := t.regs, mgmt := { s.mgmt with perst := t.mgmt.perst } })) ∧
  (∀ (p : Fin 8) (s : State), s.folio.portEnabled p = true → counts s p = true →
    (∃ t, exec (.hpPerst p true) s = .next t ∧ t.mgmt.perst.testBit p = true ∧ t.get (.HP_LINK p) F.HP_LINK_PERST = 1 ∧
      t.get (.HP_LINK p) F.HP_LINK_STATE = 5 ∧ (t.port p).reads = [] ∧ (t.port p).txq = [] ∧ (t.rd (.HP_ERR p)).getLsbD 4 = true) ∧
    (∃ t, exec (.hpPerst p false) s = .next t ∧ t.mgmt.perst.testBit p = false ∧ t.get (.HP_LINK p) F.HP_LINK_PERST = 0 ∧
      t.get (.HP_LINK p) F.HP_LINK_STATE = s.get (.HP_LINK p) F.HP_LINK_STATE ∧ regsBut s t [.HP_LINK p] ∧
      t = { s with regs := t.regs, mgmt := { s.mgmt with perst := t.mgmt.perst } })) ∧
  (∀ (p : Fin 8) (speed width : Nat) (flit : Bool) (s : State), mayTrain s p = true → counts s p = false →
    ratesOk s p speed width = true →
    ∃ t, exec (.pcieLinkUp p speed width flit) s = .next t ∧ t.get (.HP_LINK p) F.HP_LINK_STATE = 3 ∧
      t.get (.HP_LINK p) F.HP_LINK_SPEED = speed ∧ t.get (.HP_LINK p) F.HP_LINK_WIDTH = width ∧
      t.get (.HP_LINK p) F.HP_LINK_FLIT = (if flit = true ∨ speed = 6 then 1 else 0) ∧ counts t p = true ∧ t.ports = s.ports ∧
      (speed < 6 ∨ width < (s.folio.port? p).elim 0 (·.width) → (t.rd (.HP_ERR p)).getLsbD 1 = true)) ∧
  (∀ (p : Fin 8) (speed width : Nat) (flit : Bool) (s : State), mayTrain s p = false ∨ counts s p = true ∨
      ratesOk s p speed width = false → exec (.pcieLinkUp p speed width flit) s = .next s) ∧
  (∀ (p : Fin 8) (speed width : Nat) (s : State), (ratesOk s p speed width = true ↔
    (1 ≤ speed ∧ speed ≤ 6 ∧ (width = 4 ∨ width = 8 ∨ width = 16) ∧ width ≤ (s.folio.port? p).elim 0 (·.width)))) ∧
  (∀ (p : Fin 8) (width : Nat) (s : State), linkIsUp s p = true → (s.port p).l1 = false →
    exec (.pcieRetrain p none width) s = .next (s.put (.HP_LINK p) F.HP_LINK_STATE 4)) ∧
  (∀ (p : Fin 8) (speed width : Nat) (flit : Bool) (s : State), counts s p = true → (s.port p).l1 = false →
    ratesOk s p speed width = true →
    ∃ t, exec (.pcieRetrain p (some (speed, flit)) width) s = .next (wakePort t p) ∧ t.get (.HP_LINK p) F.HP_LINK_STATE = 3 ∧
      t.get (.HP_LINK p) F.HP_LINK_SPEED = speed ∧ t.get (.HP_LINK p) F.HP_LINK_WIDTH = width ∧
      t.get (.HP_LINK p) F.HP_LINK_FLIT = (if flit = true ∨ speed = 6 then 1 else 0) ∧
      (speed < 6 ∨ width < (s.folio.port? p).elim 0 (·.width) → (t.rd (.HP_ERR p)).getLsbD 1 = true) ∧
      t = { s with regs := t.regs, flips := t.flips }) ∧
  (∀ (p : Fin 8) (s : State), ∃ v, wakePort s p = overAll (portFns s p) wakeFn v ∧ v.out = s.out ++ (s.port p).txq ∧
    v.port p = { s.port p with txq := [] } ∧ portsBut s v [p.val] ∧ eventsBut s v [(0x1030 + p.val, 0x0402)] ∧
    v = { s with ports := v.ports, out := v.out, events := v.events }) ∧
  (∀ (p : Fin 8) (s : State), counts s p = true → s.folio.portEnabled p = true →
    ∃ t, exec (.pcieLinkDown p) s = .next t ∧
      t.get (.HP_LINK p) F.HP_LINK_STATE = (if mayTrain s p then 2 else 5) ∧ counts t p = false ∧
      t.get (.HP_LINK p) F.HP_LINK_SPEED = 0 ∧ t.get (.HP_LINK p) F.HP_LINK_WIDTH = 0 ∧
      (t.port p).reads = [] ∧ (t.port p).txq = [] ∧ (t.port p).peers = [] ∧ (t.port p).l1 = false ∧
      (t.rd (.HP_ERR p)).getLsbD 4 = true ∧ t.rd (.PWR_PKG p) = (Reg.PWR_PKG p).reset ∧ t.rd (.PWR_DIE p) = (Reg.PWR_DIE p).reset ∧
      ((∀ v, fnQueues s (.vf v) ≤ 16) → ∀ q : Fin 16, q.val < fnQueues s (.pf p) → qState t (.pf p) q = 2) ∧ t.dram = s.dram) ∧
  (∀ (p : Fin 8) (s : State), counts s p = false → exec (.pcieLinkDown p) s = .next s) ∧
  (∀ (p : Fin 8) (s : State), linkIsUp s p = true → (cfg s (.pf p) 0x80).getLsbD 1 = true → (s.port p).reads = [] →
    (s.port p).txq = [] → (s.port p).l1 = false →
    ∃ t, exec (.portL1Entry p) s = .next t ∧ t.port p = { s.port p with l1 := true } ∧ t.get (.HP_LINK p) F.HP_LINK_L1 = 1 ∧
      portsBut s t [p.val] ∧ regsBut s t [.HP_LINK p] ∧
      t.eventCount (0x1030 + p.val) 0x0406 = s.eventCount (0x1030 + p.val) 0x0406 + 1 ∧
      eventsBut s t [(0x1030 + p.val, 0x0406)] ∧
      t = { s with regs := t.regs, ports := t.ports, events := t.events }) ∧
  (∀ (p : Fin 8) (s : State), (s.port p).l1 = true →
    ∃ t, exec (.portL1Exit p) s = .next (wakePort t p) ∧ t.port p = { s.port p with l1 := false } ∧
      t.get (.HP_LINK p) F.HP_LINK_L1 = 0 ∧ portsBut s t [p.val] ∧ regsBut s t [.HP_LINK p] ∧
      t = { s with regs := t.regs, ports := t.ports }) ∧
  (∀ (p : Fin 8) (n : Nat) (s : State), linkIsUp s p = true → (cfg s (.pf p) 0x98).getLsbD 10 = true → (s.port p).l1 = false →
    n = (portFns s p).foldl (fun m f => min m (tolerance s f)) 1048576 →
    (s.port p).ltr = none ∨ ((s.port p).ltr ≠ some n ∧ (s.port p).ltrAt + 20000 ≤ s.cycle) →
    ∃ t, exec (.ltrSend p) s = .next t ∧ t.out = s.out ++ [.ltr p (ltrField n) (ltrField n)] ∧
      t.get (.HP_LTR p) F.HP_LTR_LAST_NS = n ∧ t.port p = { s.port p with ltr := some n, ltrAt := s.cycle } ∧
      portsBut s t [p.val] ∧ regsBut s t [.HP_LTR p] ∧
      t.eventCount (0x1030 + p.val) 0x0402 = s.eventCount (0x1030 + p.val) 0x0402 + 1 ∧ eventsBut s t [(0x1030 + p.val, 0x0402)] ∧
      t = { s with regs := t.regs, ports := t.ports, out := t.out, events := t.events }) ∧
  (∀ (who : Agent) (p : Fin 8) (v : Word) (s : State),
    (s.isHouse who = false → exec (.hpInjectLinkDown who p v) s = .next s ∧ exec (.hpInjectPoison who p v) s = .next s ∧
      exec (.hpInjectTimeout who p v) s = .next s ∧ exec (.hpInjectLcrc who p v) s = .next s) ∧
    (s.isHouse who = true → v &&& 0xA = 0 →
      exec (.hpInjectPoison who p v) s = .next (s.wr (.HP_INJECT p) ((Reg.HP_INJECT p).written (s.rd (.HP_INJECT p)) v)) ∧
      exec (.hpInjectLcrc who p v) s = .next (s.wr (.HP_INJECT p) ((Reg.HP_INJECT p).written (s.rd (.HP_INJECT p)) v))) ∧
    (s.isHouse who = true → v &&& 0xA = 2 → (s.port p).reads = [] →
      exec (.hpInjectTimeout who p v) s = .next (s.wr (.HP_INJECT p) ((Reg.HP_INJECT p).written (s.rd (.HP_INJECT p)) v))) ∧
    (s.isHouse who = true → v &&& 0xA = 8 → counts s p = true →
      ∃ t, exec (.hpInjectLinkDown who p v) s = .next t ∧
        (s.folio.portEnabled p = true → t.get (.HP_LINK p) F.HP_LINK_STATE = (if mayTrain s p then 2 else 5)) ∧ (t.port p).reads = []))

/-- Requests that come in (R322, R331 to R333, R336, R337, R340): a request of a kind that the port does not support is answered with
Unsupported Request and logged; a configuration request acts on the function it names, or is answered CRS while that function is being
reset; a read or a write that falls in the BAR of a function that serves it acts on it, and one in the peer aperture is a request of its
window; errors of the link are logged; an injected LCRC error replays the TLP; a port whose link is not up takes nothing. -/
def Claim.PortRequests : Prop :=
  (∀ (p : Fin 8) (m : Tlp) (s : State), linkIsUp s p = false → exec (.inboundTlp p m) s = .next s) ∧
  (∀ (p : Fin 8) (m : Tlp) (s : State), linkIsUp s p = true → s.bit (.HP_INJECT p) F.HP_INJECT_LCRC = true →
    exec (.inboundTlp p m) s = exec (.inboundTlp p m) (replayed (s.put (.HP_INJECT p) F.HP_INJECT_LCRC 0) p)) ∧
  (∀ (p : Fin 8) (m : Tlp) (posted : Bool) (s : State), linkIsUp s p = true → s.bit (.HP_INJECT p) F.HP_INJECT_LCRC = false →
    m.kind = .other posted →
    ∃ t, exec (.inboundTlp p m) s = .next (if posted then t else complete t p 0 .ur []) ∧
      t.eventCount (0x1030 + p.val) 0x0401 = s.eventCount (0x1030 + p.val) 0x0401 + 1 ∧
      eventsBut s t [(0x1030 + p.val, 0x0401), (0x1030 + p.val, 0x0402)] ∧
      (t.rd (.HP_FN_ERR (0x1000 + p.val))).getLsbD 0 = true ∧ (cfg t (.pf p) 0x104).getLsbD 20 = true ∧
      (portReady s p = true → t.ports = s.ports) ∧ t.dram = s.dram) ∧
  (∀ (p : Fin 8) (m : Tlp) (f : FnId) (s : State), linkIsUp s p = true → s.bit (.HP_INJECT p) F.HP_INJECT_LCRC = false →
    fnByNum s p m.fn = some f →
    let u := tookTlp s p;
    (m.kind = .cfgRead → exec (.inboundTlp p m) s = .next (if (u.fn f).flr then complete u p m.fn .crs []
      else complete u p m.fn .ok (leBytes 4 (cfgRead u f (m.addr / 4 * 4)).toNat))) ∧
    (m.kind = .cfgWrite → exec (.inboundTlp p m) s = .next (if (u.fn f).flr then complete u p m.fn .crs []
      else if m.ep then complete (fnErr u f 2) p m.fn .ok []
      else complete (cfgWriteEffect u f (m.addr / 4 * 4) (BitVec.ofNat 32 (ofBytes m.bytes * 2 ^ (8 * (m.addr % 4))))
        (dwMask m.addr m.bytes.length m.enables)) p m.fn .ok []))) ∧
  (∀ (p : Fin 8) (m : Tlp) (f : FnId) (off : Nat) (s : State), linkIsUp s p = true → s.bit (.HP_INJECT p) F.HP_INJECT_LCRC = false →
    m.kind = .memRead → barOf s p m.addr m.len = some (f, off) → (s.fn f).flr = false → inD3 s f = false → off < 0x100000 →
    let u := tookTlp s p;
    exec (.inboundTlp p m) s = .next (match barBytes u f off m.len with
      | some bs => complete u p (fnNum u f) .ok bs
      | none => complete (fnErr u f 1) p (fnNum u f) .ca [])) ∧
  (∀ (p : Fin 8) (m : Tlp) (f : FnId) (off : Nat) (s : State), linkIsUp s p = true → s.bit (.HP_INJECT p) F.HP_INJECT_LCRC = false →
    m.kind = .memWrite → barOf s p m.addr m.bytes.length = some (f, off) → (s.fn f).flr = false → inD3 s f = false → off < 0x100000 →
    let u := tookTlp s p;
    exec (.inboundTlp p m) s = .next (if m.ep then fnErr u f 2 else barStore u f off m.bytes m.enables)) ∧
  (∀ (p : Fin 8) (m : Tlp) (off : Nat) (s : State), linkIsUp s p = true → s.bit (.HP_INJECT p) F.HP_INJECT_LCRC = false →
    m.kind = .memRead → barOf s p m.addr m.len = some (.pf p, off) → (s.fn (.pf p)).flr = false → inD3 s (.pf p) = false →
    0x100000 ≤ off →
    let u := tookTlp s p;
    exec (.inboundTlp p m) s = .next (match peerWindow u p off m.len with
      | none => portErr (unsupported u p false) p 0 1
      | some w => peerRequest u p m w ((u.rd (.HP_WIN_TARGET_ACT p w)).toNat + off - (u.rd (.HP_WIN_APT_ACT p w)).toNat) m.len false)) ∧
  (∀ (p : Fin 8) (m : Tlp) (e : LinkError) (s : State), linkIsUp s p = true → s.bit (.HP_INJECT p) F.HP_INJECT_LCRC = false →
    (m.kind = .fatal e → exec (.inboundTlp p m) s = .next (linkFatal (tookTlp s p) p e)) ∧
    (m.kind = .damaged → exec (.inboundTlp p m) s = .next (replayed s p)))

/-- Completions and timeouts (R327 to R330): the last completion of a read frees its tag, and its data goes where the read was for; an earlier
one adds its data; one that aborts the read, or that is poisoned, makes what the read was for fail; one for a tag not in use is discarded
and logged, in the function whose read timed out where one did; a read that has waited 50 ms fails with HOST_TIMEOUT, and an earlier one is
left alone, unless HP_INJECT times it out. -/
def Claim.PortCompletions : Prop :=
  (∀ (p : Fin 8) (c : Cpl) (r : OutRead) (s : State), s.bit (.HP_INJECT p) F.HP_INJECT_LCRC = false →
    s.bit (.HP_INJECT p) F.HP_INJECT_POISON = false → (s.port p).reads = [r] → r.tag = c.tag →
    let u := (tookTlp s p).setPort p { s.port p with reads := [] };
    (c.last = true →
      (c.status = .ok → exec (.readCompletion p c) s = .next (kickPort (readData u r c.bytes false true) p)) ∧
      (c.status = .ep → exec (.readCompletion p c) s = .next (kickPort (readData (fnErr u r.fn 2) r c.bytes true true) p)) ∧
      (c.status = .ca → exec (.readCompletion p c) s = .next (kickPort (readFailed (fnErr u r.fn 1) r.fn r.use 0x22) p)) ∧
      (c.status = .ur → exec (.readCompletion p c) s = .next (kickPort (readFailed (fnErr u r.fn 0) r.fn r.use 0x22) p))) ∧
    (c.last = false → c.status = .ok → exec (.readCompletion p c) s = .next
      (readData ((tookTlp s p).setPort p { s.port p with reads := [{ r with got := r.got ++ c.bytes }] }) r c.bytes false false))) ∧
  (∀ (p : Fin 8) (c : Cpl) (s : State), s.bit (.HP_INJECT p) F.HP_INJECT_LCRC = false → (∀ r ∈ (s.port p).reads, r.tag ≠ c.tag) →
    ((s.port p).timedOut = [] → exec (.readCompletion p c) s = .next (fnErr (tookTlp s p) (.pf p) 4)) ∧
    (∀ f, (s.port p).timedOut = [(c.tag, f)] → exec (.readCompletion p c) s = .next (fnErr (tookTlp s p) f 4)) ∧
    (∀ f, ((fnErr s f 4).rd (.HP_FN_ERR f.key)).getLsbD 4 = true ∧ (portReady s (fnPort8 s f) = true → (fnErr s f 4).ports = s.ports) ∧ (fnErr s f 4).dram = s.dram)) ∧
  (∀ (p : Fin 8) (r : OutRead) (s : State), (s.port p).reads = [r] →
    (s.bit (.HP_INJECT p) F.HP_INJECT_TIMEOUT = true →
      exec (.readTimeout p r.tag) s = .next (timeOut (s.put (.HP_INJECT p) F.HP_INJECT_TIMEOUT 0) p r)) ∧
    (s.bit (.HP_INJECT p) F.HP_INJECT_TIMEOUT = false → r.at_ + 5000000 ≤ s.mtime →
      exec (.readTimeout p r.tag) s = .next (timeOut s p r)) ∧
    (s.bit (.HP_INJECT p) F.HP_INJECT_TIMEOUT = false → s.mtime < r.at_ + 5000000 → exec (.readTimeout p r.tag) s = .next s)) ∧
  (∀ (p : Fin 8) (tag : Nat) (s : State), (∀ r ∈ (s.port p).reads, r.tag ≠ tag) → exec (.readTimeout p tag) s = .next s)

/-- Inbound requests of a host port and completions of its reads. -/
def Obligations.PortTraffic : Prop :=
  Claim.PortRequests ∧ Claim.PortCompletions

/-- Functions (R335 to R337): Bus Master Enable follows its command, and its clearing or setting takes the function's work down or on; a reset
of a function leaves its configuration space, its queues and its registers at their reset values, and FLR_COMPLETE ends it; clearing VF Enable
resets the port's VFs; a function in D3hot that returns to D0 is reset, and one that enters D3hot is handled as though Bus Master Enable were clear. -/
def Claim.PortFunctions : Prop :=
  (∀ (f : FnId) (s : State),
    (bme s f = true → exec (.busMasterDisable f) s = .next (masterOff (setBme s f false) f)) ∧
    (bme s f = false → exec (.busMasterDisable f) s = .next s) ∧
    (bme s f = true → exec (.busMasterEnable f) s = .next s) ∧
    (bme s f = false → exec (.busMasterEnable f) s = .next (if fnMayIssue (setBme s f true) f then wakeFn (setBme s f true) f
      else setBme s f true)) ∧
    (∀ b, bme (setBme s f b) f = b ∧ (∀ o, o ≠ 4 → cfg (setBme s f b) f o = cfg s f o))) ∧
  (∀ (f : FnId) (s : State), fnExists s f = true → (s.fn f).flr = false → (∀ g, fnQueues s g ≤ 16 ∧ fnHand s g < 64) →
    ∃ t, exec (.functionLevelReset f) s = .next t ∧ (t.fn f).flr = true ∧ (t.fn f).cfg = [] ∧
      (t.fn f).msix = [] ∧ (t.fn f).pba = 0 ∧
      (∀ q : Fin 16, q.val < fnQueues s f → t.queue f q = { Queue.init with seq := (s.queue f q).seq } ∧
        qState t f q = 0 ∧ t.rd (.QP_SQ_BASE f.key q) = 0 ∧ t.rd (.QP_CQ_BASE f.key q) = 0) ∧
      (t.rd (.HP_FN_ERR f.key)).getLsbD 5 = true ∧ t.dram = s.dram) ∧
  (∀ (f : FnId) (s : State), fnExists s f = false ∨ (s.fn f).flr = true → exec (.functionLevelReset f) s = .next s) ∧
  (∀ (f : FnId) (s : State), exec (.flrComplete f) s = .next (s.setFn f { s.fn f with flr := false, oldCfg := [] })) ∧
  (∀ (p : Fin 8) (s : State), vfEnable s p = true →
    ∃ t, exec (.vfEnableClear p) s = .next t ∧ vfEnable t p = false ∧
      (∀ v : Fin 4096, v.val ∈ portVfs s p → (t.fn (.vf v)).flr = true ∧ (t.fn (.vf v)).cfg = [])) ∧
  (∀ (p : Fin 8) (s : State), vfEnable s p = false → exec (.vfEnableClear p) s = .next s) ∧
  (∀ (f : FnId) (s : State), inD3 s f = false → exec (.d3hotToD0 f) s = .next s) ∧
  (∀ (f : FnId) (s : State), inD3 s f = true →
    ∃ t, exec (.d3hotToD0 f) s = .next t ∧ inD3 t f = false ∧ (t.fn f).flr = true) ∧
  (∀ (f : FnId) (s : State), inD3 s f = true → exec (.d0ToD3hot f) s = .next s) ∧
  (∀ (f : FnId) (s : State), inD3 s f = false →
    ∃ t, exec (.d0ToD3hot f) s = .next (if bme s f then masterOff t f else t) ∧ inD3 t f = true ∧
      (∀ o, o ≠ 0x44 → cfg t f o = cfg s f o) ∧ fnsBut s t [f] ∧ t = { s with fns := t.fns })

/-- Peer windows (R332, R334): a commit by the house supervisor of a set that R332 refuses sets WIN_REFUSED, and one that it allows pends; a 1 written to WIN_REFUSED clears it and its mirror first; at
the switch the active copy of every window takes what its shadow registers held at the commit. -/
def Claim.PortWindows : Prop :=
  (∀ (who : Agent) (p : Fin 8) (v : Word) (s : State), s.isHouse who = true → F.HP_WIN_COMMIT_GO.get v = 1 →
    F.HP_WIN_COMMIT_WIN_REFUSED.get v = 0 →
    (winsOk s p (shadowWins s p) = true → ∃ t, exec (.hpWinCommitGo who p v) s = .next t ∧
      t.bit (.HP_WIN_COMMIT p) F.HP_WIN_COMMIT_WIN_PEND = true ∧
      (t.port p).winPend = (List.range 16).flatMap (fun w => (winRegs p w).map (fun e => s.rd e.1)) ∧
      (∀ w : Fin 16, ∀ e ∈ winRegs p w, t.rd e.2 = s.rd e.2) ∧ portsBut s t [p.val] ∧ regsBut s t [.HP_WIN_COMMIT p] ∧
      t = { s with regs := t.regs, ports := t.ports }) ∧
    (winsOk s p (shadowWins s p) = false → ∃ t, exec (.hpWinCommitGo who p v) s = .next t ∧
      t.bit (.HP_WIN_COMMIT p) F.HP_WIN_COMMIT_WIN_REFUSED = true ∧ (t.rd (.HP_ERR p)).getLsbD 5 = true ∧ t.ports = s.ports ∧
      (∀ w : Fin 16, ∀ e ∈ winRegs p w, t.rd e.2 = s.rd e.2))) ∧
  (∀ (who : Agent) (p : Fin 8) (v : Word) (s : State), s.isHouse who = true →
    let u := (s.put (.HP_WIN_COMMIT p) F.HP_WIN_COMMIT_WIN_REFUSED 0).put (.HP_ERR p) F.HP_ERR_WIN_REFUSED 0;
    (F.HP_WIN_COMMIT_WIN_REFUSED.get v = 1 → F.HP_WIN_COMMIT_GO.get v = 1 →
      exec (.hpWinCommitGo who p v) s = exec (.hpWinCommitGo who p 1) u) ∧
    (F.HP_WIN_COMMIT_GO.get v = 0 → exec (.hpWinCommitGo who p v) s =
      .next (if F.HP_WIN_COMMIT_WIN_REFUSED.get v = 1 then u else s))) ∧
  (∀ (who : Agent) (p : Fin 8) (v : Word) (s : State), s.isHouse who = false → exec (.hpWinCommitGo who p v) s = .next s) ∧
  (∀ (p : Fin 8) (s u : State), s.bit (.HP_WIN_COMMIT p) F.HP_WIN_COMMIT_WIN_PEND = true →
    (s.port p).winPend = (List.range 16).flatMap (fun w => (winRegs p w).map (fun e => u.rd e.1)) →
    ∃ t, exec (.windowSetSwitch p) s = .next t ∧ (∀ w : Fin 16, ∀ e ∈ winRegs p w, t.rd e.2 = u.rd e.1 ∧ t.rd e.1 = s.rd e.1) ∧
      t.bit (.HP_WIN_COMMIT p) F.HP_WIN_COMMIT_WIN_PEND = false ∧ (t.port p).winPend = [] ∧ portsBut s t [p.val] ∧
      t = { s with regs := t.regs, ports := t.ports }) ∧
  (∀ (p : Fin 8) (s : State), s.bit (.HP_WIN_COMMIT p) F.HP_WIN_COMMIT_WIN_PEND = false →
    exec (.windowSetSwitch p) s = .next s)

/-- Functions are reset, enabled and confined; window commits. -/
def Obligations.PortFunctions : Prop :=
  Claim.PortFunctions ∧ Claim.PortWindows

/-- Admission (R346, R350): the first fetched slip of a running queue that its check refuses has a return slip with the status of the
refusal, one with a reserved opcode too, and nothing of it runs; over budget is counted. A queue without a fetched slip, or one that is not
running, admits nothing. -/
def Claim.SlipRefusal : Prop :=
  ∀ (f : FnId) (q : Fin 16) (b : LineData) (s : State), ∀ e ∈ [(0, Instr.nop f q), (1, Instr.copyIn f q), (2, Instr.copyOut f q),
      (3, Instr.post f q), (4, Instr.fenceSlip f q), (5, Instr.abort f q), (6, Instr.readLog f q), (7, Instr.setState f q),
      (8, Instr.queryBound f q)],
    (∀ n, qState s f q = 1 → (s.queue f q).fetched = [b] → State.slipOpcode b = e.1 ∨ 8 < State.slipOpcode b →
      admission ((refill s f).setQueue f q { s.queue f q with fetched := [] }) f q b = some n →
      ∃ t, exec e.2 s = .next t ∧ (t.queue f q).ended = (s.queue f q).ended ++ [⟨b, headIndex s f q, n, 0, 0, none, []⟩] ∧
        (t.queue f q).running = (s.queue f q).running ∧ (t.queue f q).fetched = [] ∧
        t.get (.CSQ_FN_STAT f.key) F.CSQ_FN_STAT_OVER_BUDGET = (if n = 1 then
          min (s.get (.CSQ_FN_STAT f.key) F.CSQ_FN_STAT_OVER_BUDGET + 1) F.CSQ_FN_STAT_OVER_BUDGET.top
          else s.get (.CSQ_FN_STAT f.key) F.CSQ_FN_STAT_OVER_BUDGET) ∧ t.dram = s.dram) ∧
    ((s.queue f q).fetched = [] ∨ qState s f q ≠ 1 → exec e.2 s = .next s)

/-- The slips (R346, R353 to R357, R363, R364): an accepted NOP, FENCE that waits for nothing, READ_LOG (on a port that can send) and QUERY_BOUND end OK at once, the
READ_LOG with the number of records that it wrote, the QUERY_BOUND of T_pub with zero for a hand that is not in ledger mode; an ABORT
whose target is not in progress ends with status 0x12; an accepted COPY_IN, COPY_OUT, POST or SET_STATE is in progress, and its queue has
taken one slip more. Each is counted in ACCEPTED. -/
def Claim.SlipAccepted : Prop :=
  (∀ (f : FnId) (q : Fin 16) (b : LineData) (s : State), ∀ e ∈ [(1, Instr.copyIn f q), (2, Instr.copyOut f q), (3, Instr.post f q),
      (7, Instr.setState f q)], admits s f q e.1 b →
    ∃ t x, exec e.2 s = .next t ∧ (t.queue f q).running = [x] ∧ x.bits = b ∧ x.seq = (s.queue f q).seq ∧
      x.index = headIndex s f q ∧ (t.queue f q).seq = (s.queue f q).seq + 1 ∧ (t.queue f q).ended = (s.queue f q).ended ∧
      t.get (.CSQ_FN_STAT f.key) F.CSQ_FN_STAT_ACCEPTED =
        min (s.get (.CSQ_FN_STAT f.key) F.CSQ_FN_STAT_ACCEPTED + 1) F.CSQ_FN_STAT_ACCEPTED.top ∧ t.dram = s.dram) ∧
  (∀ (f : FnId) (q : Fin 16) (b : LineData) (s : State),
    (∀ e ∈ [(0, 0, 0, Instr.nop f q), (4, 0, 0, Instr.fenceSlip f q), (5, 0x12, 0, Instr.abort f q),
        (6, 0, ((List.range 16).filter (fun k => (slipArg b).testBit k)).length, Instr.readLog f q)], admits s f q e.1 b →
      (e.1 = 6 → portReady s (fnPort s f) = true) →
      ∃ t, exec e.2.2.2 s = .next t ∧ (t.queue f q).running = [] ∧
        (t.queue f q).ended = (s.queue f q).ended ++ [⟨b, headIndex s f q, e.2.1, e.2.2.1, 0, some (s.queue f q).seq, []⟩] ∧
        t.get (.CSQ_FN_STAT f.key) F.CSQ_FN_STAT_ACCEPTED =
          min (s.get (.CSQ_FN_STAT f.key) F.CSQ_FN_STAT_ACCEPTED + 1) F.CSQ_FN_STAT_ACCEPTED.top ∧ t.dram = s.dram) ∧
    (admits s f q 8 b → ∃ t r fl, exec (.queryBound f q) s = .next t ∧ (t.queue f q).running = [] ∧
      (t.queue f q).ended = (s.queue f q).ended ++ [⟨b, headIndex s f q, 0, r, fl, some (s.queue f q).seq, []⟩] ∧
      (slipArg b = 2 → s.folio.isLedger (fnHand s f) = false → r = 0) ∧ t.dram = s.dram))

/-- A call slip is refused with its status or accepted. -/
def Obligations.SlipAdmission : Prop :=
  Claim.SlipRefusal ∧ Claim.SlipAccepted

/-- Return slips, deferred errors and fetches (R344, R347, R348, R359 to R361): the oldest ended slip of a queue whose function may issue leaves as one
write of 16 bytes at the queue's completion index, which moves on, and the return slip of a FENCE only after those of the slips that it
waited for (R355); a deferred error of a COPY_IN that ended OK is logged, freezes a running
queue in compact mode and waits for the next return slip in extended mode; fetched slips wait for admission in ring order. -/
def Obligations.SlipReturns : Prop :=
  (∀ (f : FnId) (q : Fin 16) (r : RetSlip) (l : List RetSlip) (s : State), (s.queue f q).ended = r :: l → fnMayIssue s f = true →
    (∀ w ∈ r.after, ∀ x ∈ (s.queue f w.1).ended, x.seq ≠ some w.2) → linkIsUp s (fnPort s f) = true → (s.port (fnPort s f)).l1 = false → fnPort s f < 8 → fnQueues s f ≤ 16 →
    (∀ k, k < 16 → (s.queue f k).running = []) → s.bit (.QP_CTL f.key q) F.QP_CTL_INT_OFF = true → s.rd .CSQ_INJECT = 0 →
    (s.queue f q).deferred = [] → (s.queue f q).defLost = false → qState s f q = 2 →
    ∃ t, exec (.returnSlipPost f q) s = .next t ∧ (t.queue f q).ended = l ∧
      t.out = s.out ++ [.write (fnPort8 s f) f (s.get (.QP_CQ_BASE f.key q) F.QP_CQ_BASE_BASE * 16 + 16 * cqTail s f q)
        (retBytes r (sqHead s f q) (s.queue f q).phase none false) false] ∧
      cqTail t f q = (cqTail s f q + 1) % depthOf s f % 2 ^ 12 ∧
      (t.queue f q).phase = (if cqTail s f q + 1 = depthOf s f then !(s.queue f q).phase else (s.queue f q).phase) ∧
      queuesBut s t [(f, q)] ∧ regsBut s t [.QP_STATE f.key q] ∧
      t.eventCount 0x1038 0x0503 = s.eventCount 0x1038 0x0503 + 1 ∧
      eventsBut s t [(0x1038, 0x0503), (0x1030 + fnPort s f, 0x0402)] ∧
      t = { s with regs := t.regs, queues := t.queues, out := t.out, events := t.events }) ∧
  (∀ (f : FnId) (q : Fin 16) (s : State), (s.queue f q).ended = [] → (s.queue f q).running = [] → fnQueues s f ≤ 16 →
    (∀ k, k < 16 → (s.queue f k).running = []) → exec (.returnSlipPost f q) s = .next s) ∧
  (∀ (f : FnId) (q : Fin 16) (r x : RetSlip) (l : List RetSlip) (w : Nat × Nat) (s : State), (s.queue f q).ended = r :: l → w ∈ r.after →
    x ∈ (s.queue f w.1).ended → x.seq = some w.2 → fnQueues s f ≤ 16 → (∀ k, k < 16 → (s.queue f k).running = []) →
    exec (.returnSlipPost f q) s = .next s) ∧
  (∀ (f : FnId) (q : Fin 16) (tag : BitVec 16) (poisoned : Bool) (line : Nat) (e : LineData × Nat) (s : State),
    (s.queue f q).past.get? tag.toNat = some e → qState s f q = 1 →
    (extended s f = false → ∃ t, exec (.deferredError f q tag poisoned line) s = .next t ∧ qState t f q = 2 ∧
      (t.queue f q).fetched = [] ∧ logCount t f q = min (logCount s f q + 1) 0xFFFFFFFF ∧
      (logCount s f q = 0 → (t.rd (.QP_LOG f.key q 0)).toNat % 2 ^ 16 = (if poisoned then 0x31 else 0x30)) ∧ t.dram = s.dram) ∧
    (extended s f = true → (s.queue f q).deferred.length < 8 → ∃ t, exec (.deferredError f q tag poisoned line) s = .next t ∧
      t.queue f q = { s.queue f q with
        deferred := (s.queue f q).deferred ++ [(tag.toNat, if poisoned then 0x31 else 0x30)] } ∧
      logCount t f q = min (logCount s f q + 1) 0xFFFFFFFF ∧ qState t f q = 1 ∧ queuesBut s t [(f, q)] ∧ t.dram = s.dram)) ∧
  (∀ (f : FnId) (q : Fin 16) (tag : BitVec 16) (poisoned : Bool) (line : Nat) (s : State), (s.queue f q).past.get? tag.toNat = none →
    exec (.deferredError f q tag poisoned line) s = .next s) ∧
  (∀ (f : FnId) (q : Fin 16) (l : List LineData) (s : State), (s.queue f q).fetching = l.length → l ≠ [] → qState s f q = 1 →
    (s.queue f q).fetched = [] → (s.port (fnPort s f)).reads = [] →
    ∃ u, exec (.slipFetchDone f q l) s = .next (kick u f) ∧ (u.queue f q).fetched = l ∧ (u.queue f q).fetching = 0 ∧
      sqHead u f q = (sqHead s f q + l.length) % depthOf s f % 2 ^ 12 ∧ queuesBut s u [(f, q)])

/-- Queue control (R367 to R370): enabling a DISABLED queue makes it RUNNING with its indices and its error count at zero; disabling one
with nothing left makes it DISABLED, and one with slips in progress DRAINING, a FROZEN one too, whose return slips stay due; a restart makes a FROZEN queue RUNNING; a doorbell outside
its range freezes a RUNNING queue with BAD_DOORBELL, and one within it is stored; an idle queue goes to its idle states and back. -/
def Obligations.QueueControl : Prop :=
  (∀ (f : FnId) (q : Fin 16) (v : BitVec 32) (s : State), hasQueue s f q = true →
    (v.getLsbD 0 = true → qState s f q = 0 → ∃ t, exec (.queueEnable f q v) s = .next t ∧ qState t f q = 1 ∧ sqHead t f q = 0 ∧
      cqTail t f q = 0 ∧ sqTail t f q = 0 ∧ cqHead t f q = 0 ∧ logCount t f q = 0 ∧
      t.queue f q = { Queue.init with seq := (s.queue f q).seq, past := (s.queue f q).past, ended := (s.queue f q).ended } ∧ queuesBut s t [(f, q)] ∧
      t = { s with regs := t.regs, queues := t.queues }) ∧
    (v.getLsbD 0 = false → s.bit (.QP_CTL f.key q) F.QP_CTL_ENABLE = true → qState s f q = 1 → (s.queue f q).ended = [] →
      ∃ t, exec (.queueDisable f q v) s = .next t ∧ (t.queue f q).fetched = [] ∧
        qState t f q = (if (s.queue f q).running = [] then 0 else 3) ∧ (t.queue f q).running = (s.queue f q).running ∧ t.out = s.out ∧
        queuesBut s t [(f, q)]) ∧
    (v.getLsbD 0 = false → s.bit (.QP_CTL f.key q) F.QP_CTL_ENABLE = true → qState s f q = 2 →
      ∃ t, exec (.queueDisable f q v) s = .next t ∧ qState t f q = (if (s.queue f q).running = [] then 0 else 3) ∧
        (t.queue f q).running = (s.queue f q).running ∧ (t.queue f q).ended = (s.queue f q).ended ∧ queuesBut s t [(f, q)] ∧
        t = { s with regs := t.regs, queues := t.queues }) ∧
    (v.getLsbD 1 = true → v.getLsbD 0 = true → s.bit (.QP_CTL f.key q) F.QP_CTL_ENABLE = true → qState s f q = 2 →
      (s.queue f q).running = [] → ∃ t, exec (.queueRestart f q v) s = .next t ∧ qState t f q = 1 ∧ logCount t f q = 0 ∧
        (v.getLsbD 2 = true → sqHead t f q = 0 ∧ cqTail t f q = 0) ∧ (t.queue f q).running = [])) ∧
  (∀ (f : FnId) (q : Fin 16) (v : BitVec 32) (s : State), hasQueue s f q = false →
    exec (.queueEnable f q v) s = .next s ∧ exec (.queueDisable f q v) s = .next s ∧ exec (.queueRestart f q v) s = .next s ∧
    exec (.sqTailDoorbell f q v) s = .next s ∧ exec (.cqHeadDoorbell f q v) s = .next s) ∧
  (∀ (f : FnId) (q : Fin 16) (v : BitVec 32) (s : State), hasQueue s f q = true → qState s f q = 1 → depthOf s f ≤ 2 ^ 12 →
    (v.toNat < depthOf s f → (sqTail s f q + depthOf s f - sqHead s f q) % depthOf s f +
        (v.toNat + depthOf s f - sqTail s f q) % depthOf s f ≤ depthOf s f - 1 →
      exec (.sqTailDoorbell f q v) s = .next (startFetch (s.put (.QP_SQ_TAIL f.key q) F.QP_SQ_TAIL_INDEX v.toNat) f q)) ∧
    (v.toNat < depthOf s f → (v.toNat + depthOf s f - cqHead s f q) % depthOf s f ≤
        (cqTail s f q + depthOf s f - cqHead s f q) % depthOf s f → v.toNat ≠ cqTail s f q →
      exec (.cqHeadDoorbell f q v) s = .next (startFetch (s.put (.QP_CQ_HEAD f.key q) F.QP_CQ_HEAD_INDEX v.toNat) f q)) ∧
    (depthOf s f ≤ v.toNat → ∀ i ∈ [Instr.sqTailDoorbell f q v, Instr.cqHeadDoorbell f q v], ∃ t, exec i s = .next t ∧
      qState t f q = 2 ∧ (t.queue f q).fetched = [] ∧ logCount t f q = min (logCount s f q + 1) 0xFFFFFFFF ∧
      sqTail t f q = sqTail s f q ∧ cqHead t f q = cqHead s f q ∧
      (logCount s f q = 0 → (t.rd (.QP_LOG f.key q 0)).toNat % 2 ^ 16 = 0x27))) ∧
  (∀ (f : FnId) (q : Fin 16) (s : State),
    (mayIdle s f q 1 = true → exec (.queueIdleState1 f q) s = .next (s.put (.QP_STATE f.key q) F.QP_STATE_IDLE 1)) ∧
    (mayIdle s f q 2 = true → exec (.queueIdleState2 f q) s = .next (s.put (.QP_STATE f.key q) F.QP_STATE_IDLE 2)) ∧
    (mayIdle s f q 1 = false → exec (.queueIdleState1 f q) s = .next s) ∧
    (mayIdle s f q 2 = false → exec (.queueIdleState2 f q) s = .next s) ∧
    ((s.queue f q).running ≠ [] →
      exec (.queueIdleExit f q) s = .next (settle (s.put (.QP_STATE f.key q) F.QP_STATE_IDLE 0) f)) ∧
    ((s.queue f q).running = [] → exec (.queueIdleExit f q) s = .next s))

/-- The mailbox of SET_STATE and CSQ_INJECT (R365, R372, R432): the slip enters the free mailbox of its port; with the
last line of its payload in its slice, or at once without one, BUSY sets and source 32 + p arrives; the house supervisor's
CSQ_SS_DONE frees the mailbox, and the slip ends with the status written; CSQ_SS_BUF is valid where its 1 MiB lies in a
private window of H[0]; H[0] alone writes these registers. -/
def Obligations.SetStateMailbox : Prop :=
  (∀ (p : Fin 8) (bs : List Byte) (x : Slip) (s : State), bs ≠ [] → (s.queue (.pf p) 0).running = [x] →
    (∀ k, 1 ≤ k → k < 16 → (s.queue (.pf p) k).running = []) → State.slipOpcode x.bits = 7 → x.started = false →
    mayStart s (.pf p) 0 x = true → slipLen x.bits = bs.length → s.bit (.CSQ_SS_STATE p) F.CSQ_SS_STATE_BUSY = false →
    (s.port p).mailbox = none →
    ∃ t, exec (.setStateMailboxLoad p bs) s = .next t ∧ (t.port p).mailbox = some (.pf p, 0, x.seq) ∧
      t.bit (.CSQ_SS_STATE p) F.CSQ_SS_STATE_BUSY = false ∧ (t.queue (.pf p) 0).running = [{ x with started := true }] ∧
      portsBut s t [p.val] ∧ t.dram = s.dram) ∧
  (∀ (p : Fin 8) (bs : List Byte) (x : Slip) (s : State), bs = [] → (s.queue (.pf p) 0).running = [x] →
    (∀ k, 1 ≤ k → k < 16 → (s.queue (.pf p) k).running = []) → State.slipOpcode x.bits = 7 → x.started = false →
    mayStart s (.pf p) 0 x = true → slipLen x.bits = bs.length → s.bit (.CSQ_SS_STATE p) F.CSQ_SS_STATE_BUSY = false →
    (s.port p).mailbox = none →
    ∃ t, exec (.setStateMailboxLoad p bs) s = .next t ∧ t.bit (.CSQ_SS_STATE p) F.CSQ_SS_STATE_BUSY = true ∧
      t.get (.CSQ_SS_STATE p) F.CSQ_SS_STATE_QUEUE = 0 ∧
      (∀ k : Fin 8, t.rd (.CSQ_SS_SLIP p k) = BitVec.ofNat 64 (slipFld x.bits (8 * k) 8)) ∧
      (s.tally (32 + p.val) < 255 → t.tally (32 + p.val) = s.tally (32 + p.val) + 1) ∧ (t.port p).mailbox = some (.pf p, 0, x.seq) ∧
      portsBut s t [p.val] ∧ t.dram = s.dram) ∧
  (∀ (p : Fin 8) (q : Nat) (x : Slip) (s : State), q < 16 → (s.port p).mailbox = some (.pf p, q, x.seq) →
    s.bit (.CSQ_SS_STATE p) F.CSQ_SS_STATE_BUSY = false → outMsgs s 24 (fun m => m.txn == txnOf 4 p) = [] →
    findSlip s (.pf p) q x.seq = some x →
    let t := payloadEntered s p
    t.bit (.CSQ_SS_STATE p) F.CSQ_SS_STATE_BUSY = true ∧
      t.get (.CSQ_SS_STATE p) F.CSQ_SS_STATE_QUEUE = q ∧
      (∀ k : Fin 8, t.rd (.CSQ_SS_SLIP p k) = BitVec.ofNat 64 (slipFld x.bits (8 * k) 8)) ∧
      (s.tally (32 + p.val) < 255 → t.tally (32 + p.val) = s.tally (32 + p.val) + 1) ∧ t = { s with regs := t.regs, flips := t.flips }) ∧
  (∀ (p : Fin 8) (bs : List Byte) (s : State), s.bit (.CSQ_SS_STATE p) F.CSQ_SS_STATE_BUSY = true →
    exec (.setStateMailboxLoad p bs) s = .next s) ∧
  (∀ (who : Agent) (p : Fin 8) (v : Word) (s : State), s.isHouse who = true → s.bit (.CSQ_SS_STATE p) F.CSQ_SS_STATE_BUSY = true →
    (s.port p).mailbox = none →
    ∃ t, exec (.csqSsDoneWrite who p v) s = .next t ∧ t.bit (.CSQ_SS_STATE p) F.CSQ_SS_STATE_BUSY = false ∧
      t.bit (.CSQ_SS_STATE p) F.CSQ_SS_STATE_ORPHAN = false ∧ regsBut s t [.CSQ_SS_STATE p] ∧ t = { s with regs := t.regs }) ∧
  (∀ (who : Agent) (p : Fin 8) (v : Word) (x : Slip) (s : State), s.isHouse who = true →
    s.bit (.CSQ_SS_STATE p) F.CSQ_SS_STATE_BUSY = true → (s.port p).mailbox = some (.pf p, 0, x.seq) →
    (s.queue (.pf p) 0).running = [x] → (∀ k, 1 ≤ k → k < 16 → (s.queue (.pf p) k).running = []) →
    F.CSQ_SS_DONE_STATUS.get v = 0 →
    ∃ t, exec (.csqSsDoneWrite who p v) s = .next t ∧ t.bit (.CSQ_SS_STATE p) F.CSQ_SS_STATE_BUSY = false ∧
      (t.port p).mailbox = none ∧ (t.queue (.pf p) 0).running = [] ∧
      (t.queue (.pf p) 0).ended = (s.queue (.pf p) 0).ended ++ [⟨x.bits, x.index, 0, F.CSQ_SS_DONE_RESULT.get v, 0, some x.seq, x.waits⟩] ∧ t.dram = s.dram) ∧
  (∀ (who : Agent) (p : Fin 8) (v : Word) (s : State), s.isHouse who = true →
    ∃ t, exec (.csqSsBufWrite who p v) s = .next t ∧ t.get (.CSQ_SS_BUF p) F.CSQ_SS_BUF_BASE = F.CSQ_SS_BUF_BASE.get v ∧
      (t.bit (.CSQ_SS_BUF p) F.CSQ_SS_BUF_VALID = true ↔ ∃ w, windowAt s (64 * F.CSQ_SS_BUF_BASE.get v) = some w ∧ w.kind = 0 ∧
        w.mask.testBit 0 = true ∧ 64 * F.CSQ_SS_BUF_BASE.get v + 2 ^ 20 ≤ w.base + w.size) ∧
      regsBut s t [.CSQ_SS_BUF p] ∧ t = { s with regs := t.regs }) ∧
  (∀ (who : Agent) (p : Fin 8) (v : Word) (s : State), s.isHouse who = false →
    exec (.csqSsBufWrite who p v) s = .next s ∧ exec (.csqSsDoneWrite who p v) s = .next s ∧
    exec (.csqInjectPoison who v) s = .next s ∧ exec (.csqInjectLost who v) s = .next s) ∧
  (∀ (who : Agent) (v : Word) (s : State), s.isHouse who = true →
    exec (.csqInjectPoison who v) s = .next (s.wr .CSQ_INJECT (Reg.CSQ_INJECT.written (s.rd .CSQ_INJECT) v)) ∧
    exec (.csqInjectLost who v) s = .next (s.wr .CSQ_INJECT (Reg.CSQ_INJECT.written (s.rd .CSQ_INJECT) v)))

/-- The registers of the controller (R374, R376): a set or clear write changes the bits that its writer may change and no others; each such bit of
TIC_PEND_SET is one arrival, and of TIC_PEND_CLR a tally of zero; the route's shadow copy takes the Archivist's writes, any other writer
sets ROUTE_DENIED, and SHADOW_DENIED too while a PENDING addendum affects home slice 0 (R85). H[0] and the Archivist may change the bits of
every source that exists, the management port none; a write by a core that R249 bars raises LEDGER_ACCESS. -/
def Obligations.TallyRegisters : Prop :=
  (∀ (who : Agent) (k : Fin 128) (v : Word) (s : State), notLedger s who →
    (∃ t, exec (.ticEnSetWrite who k v) s = .next t ∧ t.rd (.TIC_EN_SET k) = s.rd (.TIC_EN_SET k) ||| (v &&& ticBits s who k false) ∧
      regsBut s t [.TIC_EN_SET k] ∧ t = { s with regs := t.regs }) ∧
    (∃ t, exec (.ticEnClrWrite who k v) s = .next t ∧
      t.rd (.TIC_EN_SET k) = s.rd (.TIC_EN_SET k) &&& ~~~ (v &&& ticBits s who k false) ∧
      regsBut s t [.TIC_EN_SET k] ∧ t = { s with regs := t.regs }) ∧
    (∃ t, exec (.ticPendSetWrite who k v) s = .next t ∧
      (∀ m : Fin 64, t.tally (64 * k.val + m) = (if (v &&& ticBits s who k true).getLsbD m then
        min (s.tally (64 * k.val + m) + 1) 255 else s.tally (64 * k.val + m))) ∧
      t = { s with regs := t.regs, flips := t.flips }) ∧
    (∃ t, exec (.ticPendClrWrite who k v) s = .next t ∧
      (∀ m : Fin 64, t.tally (64 * k.val + m) = (if (v &&& ticBits s who k false).getLsbD m then 0
        else s.tally (64 * k.val + m))) ∧
      t = { s with regs := t.regs, flips := t.flips })) ∧
  (∀ (c : Fin 384) (k : Fin 128) (n : Fin 8192) (v : Word) (s : State), s.ledgerCore c = true →
    exec (.ticEnSetWrite (.core c) k v) s = barredWrite s c (.TIC_EN_SET k) ∧
    exec (.ticEnClrWrite (.core c) k v) s = barredWrite s c (.TIC_EN_CLR k) ∧
    exec (.ticPendSetWrite (.core c) k v) s = barredWrite s c (.TIC_PEND_SET k) ∧
    exec (.ticPendClrWrite (.core c) k v) s = barredWrite s c (.TIC_PEND_CLR k) ∧
    exec (.ticRouteWrite (.core c) n v) s = barredWrite s c (.TIC_ROUTE n)) ∧
  (∀ (k : Fin 128) (soft : Bool) (m : Fin 64) (s : State),
    (ticBits s .archivist k soft).getLsbD m = sourceExists (64 * k.val + m) ∧ (ticBits s .bmc k soft).getLsbD m = false ∧
    (∀ c : Fin 384, s.isHouse (.core c) = true → (ticBits s (.core c) k soft).getLsbD m = sourceExists (64 * k.val + m))) ∧
  (∀ (who : Agent) (n : Fin 8192) (v : Word) (s : State),
    (who = .archivist → exec (.ticRouteWrite who n v) s =
      .next (s.wr (.TIC_ROUTE n) ((Reg.TIC_ROUTE n).written (s.rd (.TIC_ROUTE n)) v))) ∧
    (who ≠ .archivist → notLedger s who → ∃ t, exec (.ticRouteWrite who n v) s = .next t ∧ t.bit .TIC_ERR F.TIC_ERR_ROUTE_DENIED = true ∧
      t.rd (.TIC_ROUTE n) = s.rd (.TIC_ROUTE n) ∧
      t.rd .FOL_ERR = (if addendumPoint s 0x20 then F.FOL_ERR_SHADOW_DENIED.put (s.rd .FOL_ERR) 1 else s.rd .FOL_ERR) ∧
      t = { s with regs := t.regs, flips := t.flips }))

/-- Arrivals and claims (R375, R377, R379, R382, R385 to R387): an arrival raises the tally by one, or at 255 sets the source's TIC_SAT bit; a
claim of a source above the running priority returns it with its priority and the tally left, which has fallen by one, pushes the
running priority and runs at the source's; without such a source, or of another core's context, the load returns zero and nothing else
changes. In ledger mode a claim sets VOID_INT first, and one of another core's context raises LEDGER_ACCESS. The line reaches mip and
wakes a core in WFI, which then takes the interrupt where it may; not that of a core of a ledger hand. -/
def Obligations.TallyClaims : Prop :=
  (∀ (n : Nat) (s : State), sourceExists n = true →
    (s.tally n < 255 → (s.arrive n).tally n = s.tally n + 1) ∧
    (s.tally n = 255 → (s.arrive n).tally n = 255 ∧ ((s.arrive n).rd (.TIC_SAT (n / 64))).getLsbD (n % 64) = true) ∧
    (∀ m, m < 8192 → m ≠ n → (s.arrive n).tally m = s.tally m)) ∧
  (∀ (c : Fin 384) (rd : Fin 32) (va : Word) (s : State) (n : Nat), s.runs c = true → s.ledgerCore c = false → s.best c = some n →
    n < 8192 → sramBits s 12 0x2600 (n / 8) = 0 → s.runningPrio c < s.srcPrio n →
    s.get (.TIC_CORE_STATE c) F.TIC_CORE_STATE_DEPTH < 16 →
    ∃ t, exec (.ticClaim c c ⟨rd, va⟩) s = .next t ∧
      t.xreg c rd = (if rd = 0 then 0 else BitVec.ofNat 64 ((s.tally n - 1) * 2 ^ 24 + s.srcPrio n * 2 ^ 16 + n)) ∧ t.tally n = s.tally n - 1 ∧
      t.runningPrio c = s.srcPrio n ∧
      t.get (.TIC_CORE_STATE c) F.TIC_CORE_STATE_DEPTH = s.get (.TIC_CORE_STATE c) F.TIC_CORE_STATE_DEPTH + 1 ∧
      (let d := s.get (.TIC_CORE_STATE c) F.TIC_CORE_STATE_DEPTH
       t.get (.TIC_STACK c (d / 2)) (F.TIC_STACK_SOURCE (d % 2)) = n ∧
       t.get (.TIC_STACK c (d / 2)) (F.TIC_STACK_SAVED (d % 2)) = s.runningPrio c) ∧
      (t.core c).pc = (s.core c).pc ∧ coresBut s t [c.val] ∧ t.points = (mgmtSend s (0x10 + c / 24) 17).points ∧
      t = { s with regs := t.regs, cores := t.cores, flips := t.flips, points := t.points }) ∧
  (∀ (c : Fin 384) (rd : Fin 32) (va : Word) (s : State), s.runs c = true →
    let u := (claim (voidInt s c) c).2.setX c rd (claim (voidInt s c) c).1;
    (s.ledgerCore c = true → exec (.ticClaim c c ⟨rd, va⟩) s = .next (mgmtSend u (0x10 + c / 24) 17)) ∧
    (s.ledgerCore c = false → (∀ n, s.best c = some n → sramBits s 12 0x2600 (n / 8) = 0 ∧ s.srcPrio n ≤ s.runningPrio c) →
      exec (.ticClaim c c ⟨rd, va⟩) s = .next (mgmtSend (s.setX c rd 0) (0x10 + c / 24) 17))) ∧
  (∀ (who c : Fin 384) (rd : Fin 32) (va : Word) (s : State), who ≠ c →
    (s.runs who = true → s.ledgerCore who = false →
      exec (.ticClaim who c ⟨rd, va⟩) s = .next (mgmtSend (s.setX who rd 0) (0x10 + who / 24) 17)) ∧
    (s.runs who = true → s.ledgerCore who = true → exec (.ticClaim who c ⟨rd, va⟩) s = .next (ledgerAccess s who va)) ∧
    (s.runs who = false → exec (.ticClaim who c ⟨rd, va⟩) s = .next s)) ∧
  (∀ (c : Fin 384) (s : State), s.ledgerCore c = false →
    ∃ t, exec (.tallyLineDeliver c) s = .next (if t.runs c then takeInterrupt t c else t) ∧
      (t.csr c 0x344).getLsbD 11 = (s.get (.TIC_CORE_CFG c) F.TIC_CORE_CFG_LEVEL == 0 && s.line c) ∧
      (t.csr c 0x344).getLsbD 9 = ((s.get (.TIC_CORE_CFG c) F.TIC_CORE_CFG_LEVEL == 1 && s.line c) || (s.core c).seip) ∧
      t.core c = { s.core c with asleep := (s.core c).asleep && !s.wake c } ∧ coresBut s t [c.val] ∧
      t.points = (mgmtSend s (0x10 + c / 24) 16).points ∧ regsBut s t [.CSR c 0x344] ∧
      t = { s with regs := t.regs, cores := t.cores, points := t.points }) ∧
  (∀ (c : Fin 384) (s : State), s.ledgerCore c = true → exec (.tallyLineDeliver c) s = .next s)

/-- The end of a claim (R380): a write of the source on top of the core's stack pops it, and the running priority returns to the saved one; on
an empty stack it is ignored and EOI_EMPTY sets, and with another source on top it is ignored and EOI_MISMATCH sets, CORE naming the core
in both. Any other agent's write changes nothing (R387), or raises LEDGER_ACCESS where R249 bars it. -/
def Obligations.TallyEnd : Prop :=
  (∀ (c : Fin 384) (v : Word) (s : State), s.get (.TIC_CORE_STATE c) F.TIC_CORE_STATE_DEPTH ≠ 0 →
    (let d := s.get (.TIC_CORE_STATE c) F.TIC_CORE_STATE_DEPTH - 1
     d < 16 → s.get (.TIC_STACK c (d / 2)) (F.TIC_STACK_SOURCE (d % 2)) = F.TIC_EOI_SOURCE.get v →
      ∃ t, exec (.ticEoi (.core c) c v) s = .next t ∧ t.get (.TIC_CORE_STATE c) F.TIC_CORE_STATE_DEPTH = d ∧
        t.runningPrio c = s.get (.TIC_STACK c (d / 2)) (F.TIC_STACK_SAVED (d % 2)) ∧
        t.get (.TIC_STACK c (d / 2)) (F.TIC_STACK_VALID (d % 2)) = 0 ∧
        regsBut s t [.TIC_STACK c (d / 2), .TIC_CORE_STATE c] ∧ t = { s with regs := t.regs }) ∧
    (let d := s.get (.TIC_CORE_STATE c) F.TIC_CORE_STATE_DEPTH - 1
     s.get (.TIC_STACK c (d / 2)) (F.TIC_STACK_SOURCE (d % 2)) ≠ F.TIC_EOI_SOURCE.get v →
      ∃ t, exec (.ticEoi (.core c) c v) s = .next t ∧ t.bit .TIC_ERR F.TIC_ERR_EOI_MISMATCH = true ∧
        t.get .TIC_ERR F.TIC_ERR_CORE = c.val ∧ (∀ k, t.rd (.TIC_STACK c k) = s.rd (.TIC_STACK c k)) ∧
        t.rd (.TIC_CORE_STATE c) = s.rd (.TIC_CORE_STATE c))) ∧
  (∀ (c : Fin 384) (v : Word) (s : State), s.get (.TIC_CORE_STATE c) F.TIC_CORE_STATE_DEPTH = 0 →
    ∃ t, exec (.ticEoi (.core c) c v) s = .next t ∧ t.bit .TIC_ERR F.TIC_ERR_EOI_EMPTY = true ∧
      t.get .TIC_ERR F.TIC_ERR_CORE = c.val ∧ (∀ k, t.rd (.TIC_STACK c k) = s.rd (.TIC_STACK c k)) ∧
      t.rd (.TIC_CORE_STATE c) = s.rd (.TIC_CORE_STATE c)) ∧
  (∀ (who : Agent) (c : Fin 384) (v : Word) (s : State), who ≠ .core c → notLedger s who → exec (.ticEoi who c v) s = .next s) ∧
  (∀ (w c : Fin 384) (v : Word) (s : State), bars s w (.TIC_EOI c) → exec (.ticEoi (.core w) c v) s = barredWrite s w (.TIC_EOI c))

/-- Carrels (R400 to R403, R408): the owner's CALL of an IDLE carrel stores SERVICE and makes it CALLED, RELEASE of a RETURNED one makes it IDLE with
its words zero; a write by anyone else changes nothing, and an owner's write that the state does not allow sets WRITE_IGNORED; one by a core
of a ledger hand raises LEDGER_ACCESS (R249). The lowest
CALLED carrel is taken; its return writes the result; after the scrub every word that KEEP does not name is zero, the carrel is
RETURNED, and source 512 + k arrives. H[0] sets the owner of an IDLE carrel. -/
def Obligations.CarrelCalls : Prop :=
  (∀ (who : Agent) (k : Fin 64) (v : Word) (s : State), carrelOwner s who k = true →
    (carrelState s k = 0 → v.getLsbD 0 = true → v.getLsbD 1 = false → ∃ t, exec (.arcCtlCall who k v) s = .next t ∧
      carrelState t k = 1 ∧ t.get (.ARC_CTL k) F.ARC_CTL_SERVICE = F.ARC_CTL_SERVICE.get v ∧ regsBut s t [.ARC_CTL k] ∧
      t = { s with regs := t.regs }) ∧
    (carrelState s k = 3 → v.getLsbD 0 = false → v.getLsbD 1 = true → ∃ t, exec (.arcCtlRelease who k v) s = .next t ∧
      carrelState t k = 0 ∧ t.get (.ARC_CTL k) F.ARC_CTL_SERVICE = 0 ∧ t.rd (.ARC_RESULT k) = 0 ∧
      (∀ w, 2 ≤ w → w < 32 → t.rd (.ARC_DATA k w) = 0) ∧
      regsBut s t (.ARC_CTL k :: .ARC_RESULT k :: (List.range 30).map (fun i => Reg.ARC_DATA k (i + 2))) ∧
      t = { s with regs := t.regs }) ∧
    (carrelState s k = 1 ∨ carrelState s k = 2 → ∀ i ∈ [Instr.arcCtlCall who k v, Instr.arcCtlRelease who k v],
      exec i s = .next (s.put (.ARC_CTL k) F.ARC_CTL_WRITE_IGNORED 1))) ∧
  (∀ (who : Agent) (k : Fin 64) (v : Word) (s : State), carrelOwner s who k = false → notLedger s who →
    exec (.arcCtlCall who k v) s = .next s ∧ exec (.arcCtlRelease who k v) s = .next s) ∧
  (∀ (c : Fin 384) (k : Fin 64) (v : Word) (s : State), s.ledgerCore c = true →
    exec (.arcCtlCall (.core c) k v) s = barredWrite s c (.ARC_CTL k) ∧
    exec (.arcCtlRelease (.core c) k v) s = barredWrite s c (.ARC_CTL k)) ∧
  (∀ (k : Fin 64) (s : State), s.arc.serving = [] → 2 ≤ s.get .ARC_STATUS F.ARC_STATUS_STAGE → carrelState s k = 1 →
    (∀ j : Fin 64, j < k → carrelState s j ≠ 1) →
    ∃ t, exec .carrelTake s = .next t ∧ carrelState t k = 2 ∧
      serving t k = some ⟨[], [], false, false,
        (if tampered s then some ⟨6, 0, []⟩
         else if services.contains (s.get (.ARC_CTL k) F.ARC_CTL_SERVICE) then none else some ⟨1, 0, []⟩), false⟩ ∧
      regsBut s t [.ARC_CTL k, .FLT_INJECT] ∧ t = { s with regs := t.regs, arc := t.arc, flips := t.flips }) ∧
  (∀ (s : State), (∀ k : Fin 64, carrelState s k ≠ 1) → exec .carrelTake s = .next s) ∧
  (∀ (k : Fin 64) (v : Serving) (status keep : Nat) (x : Word) (s : State), serving s k = some v →
    v.result = some ⟨status, keep, [(2, x)]⟩ → v.returned = false → carrelState s k = 2 → sramBits s 15 0x2700 k = 0 →
    ∃ t, exec (.carrelReturn k) s = .next t ∧ t.get (.ARC_RESULT k) F.ARC_RESULT_STATUS = status % 2 ^ 16 ∧
      t.get (.ARC_RESULT k) F.ARC_RESULT_KEEP = keep % 2 ^ 30 ∧ t.rd (.ARC_DATA k 2) = x ∧
      serving t k = some { v with returned := true } ∧ carrelState t k = 2 ∧ regsBut s t [.ARC_RESULT k, .ARC_DATA k 2] ∧
      t = { s with regs := t.regs, arc := t.arc }) ∧
  (∀ (k : Fin 64) (v : Serving) (s : State), serving s k = some v → v.returned = true →
    ∃ t, exec (.carrelScrubEnd k) s = .next t ∧ carrelState t k = 3 ∧ serving t k = none ∧
      (∀ i : Fin 30, t.rd (.ARC_DATA k (i.val + 2)) =
        if (s.get (.ARC_RESULT k) F.ARC_RESULT_KEEP).testBit i then s.rd (.ARC_DATA k (i.val + 2)) else 0) ∧
      (s.tally (512 + k.val) < 255 → t.tally (512 + k.val) = s.tally (512 + k.val) + 1) ∧
      t.out = (if k.val = 63 then s.out ++ [.ibi 2] else s.out) ∧
      t = { s with regs := t.regs, arc := t.arc, flips := t.flips, out := t.out }) ∧
  (∀ (who : Agent) (k : Fin 64) (v : Word) (s : State), s.isHouse who = true →
    (carrelState s k = 0 →
      exec (.arcOwnerWrite who k v) s = .next (s.put (.ARC_OWNER k) F.ARC_OWNER_HAND (F.ARC_OWNER_HAND.get v))) ∧
    (carrelState s k ≠ 0 → ∃ t, exec (.arcOwnerWrite who k v) s = .next t ∧ (t.rd .ARC_ERR).getLsbD 2 = true ∧
      t.rd (.ARC_OWNER k) = s.rd (.ARC_OWNER k))) ∧
  (∀ (who : Agent) (k : Fin 64) (v : Word) (s : State), s.isHouse who = false → exec (.arcOwnerWrite who k v) s = .next s)

/-- The services that answer at once (R399): INFO gives the floors; ENTROPY as many words as asked for, from the source that the spec leaves
free, or BAD_ARG; ATTEST the caller's nonce, the digest of the folio and the signature; FLOOR_RAISE programs the next floor entry for H[0]
and is DENIED to anyone else; SLOT_WRITE and MEASURE and VAULT_PUT act on the bytes that have come; VAULT_GET of no record is BAD_ARG, and
one that has been written returns its length; a watermark not allowed is DENIED. A call without an active service is left alone. -/
def Obligations.CarrelServices : Prop :=
  (∀ (k : Fin 64) (v : Serving) (s : State), active s k 1 = some v →
    ∃ t r, exec (.info k) s = .next t ∧ serving t k = some { v with lines := [], due := [], result := some r } ∧ r.status = 0 ∧
      r.keep = keepRange 2 17 ∧ r.words.get? 2 = some s.arc.version ∧ r.words.get? 4 = some (BitVec.ofNat 64 (floorOf s.arc.floors)) ∧
      r.words.get? 5 = some (BitVec.ofNat 64 (floorOf s.arc.fwFloors)) ∧
      (∀ i, i < 6 → r.words.get? (6 + i) = some (digestWord Config.attestPublic.1 i) ∧
        r.words.get? (12 + i) = some (digestWord Config.attestPublic.2 i)) ∧ t = { s with arc := t.arc }) ∧
  (∀ (k : Fin 64) (v : Serving) (s : State), active s k 2 = some v →
    (1 ≤ arg s k 2 → arg s k 2 ≤ 29 → ∃ t r, exec (.entropy k) s = .next t ∧
      serving t k = some { v with lines := [], due := [], result := some r } ∧ r.status = 0 ∧
      (∀ i, i < arg s k 2 → r.words.get? (3 + i) = some (Config.freeWord (s.free + i))) ∧ t.free = s.free + arg s k 2 ∧
      t = { s with arc := t.arc, free := t.free }) ∧
    (arg s k 2 = 0 ∨ 29 < arg s k 2 → exec (.entropy k) s = .next (endCall s k 3))) ∧
  (∀ (k : Fin 64) (v : Serving) (s : State), active s k 3 = some v → arg s k 2 % 64 = 0 → arg s k 3 % 64 = 0 →
    arg s k 3 ≤ 0x1000000 → callerRange s k (arg s k 2) (arg s k 3) false = true →
    (v.asked = true → v.due = [] → v.lines.any (fun e => e.2.2) = false → ∃ t r, exec (.measure k) s = .next t ∧
      serving t k = some { v with lines := [], due := [], result := some r } ∧ r.status = 0 ∧
      (∀ i, i < 6 → r.words.get? (2 + i) = some (digestWord (Config.sha384 (readBytes v.lines (arg s k 2) (arg s k 3))) i)) ∧
      t = { s with arc := t.arc }) ∧
    (v.asked = false → ∃ t, exec (.measure k) s = .next t ∧
      serving t k = some { v with asked := true, due := (lineParts (arg s k 2) (arg s k 3)).map (·.1) } ∧ t.regs = s.regs ∧
      t.dram = s.dram)) ∧
  (∀ (k : Fin 64) (v : Serving) (s : State), active s k 4 = some v →
    ∃ t r, exec (.attest k) s = .next t ∧ serving t k = some { v with lines := [], due := [], result := some r } ∧ r.status = 0 ∧
      (∀ i, i < 6 → r.words.get? (2 + i) = some (s.rd (.ARC_DATA k (2 + i))) ∧ r.words.get? (8 + i) = some (s.rd (.FOL_DIGEST i))) ∧
      r.words.get? 15 = some s.arc.version ∧ t = { s with arc := t.arc }) ∧
  (∀ (k : Fin 64) (v : Serving) (s : State), active s k 0x10 = some v → 64 ≤ arg s k 4 → arg s k 4 ≤ 0x10000 →
    arg s k 4 % 64 = 0 → callerRange s k (arg s k 3) (arg s k 4) false = true → v.asked = true → v.due = [] →
    v.lines.any (fun e => e.2.2) = false →
    ∃ t, exec (.vaultPut k) s = .next t ∧
      serving t k = some { v with lines := [], due := [], result := some ⟨0, 0, []⟩ } ∧
      vaultRec t ((caller s k).getD 0) (arg s k 2) =
        some ⟨(caller s k).getD 0, arg s k 2, readBytes v.lines (arg s k 3) (arg s k 4)⟩ ∧
      (∀ h id, (h, id) ≠ ((caller s k).getD 0, arg s k 2) → vaultRec t h id = vaultRec s h id) ∧ t = { s with arc := t.arc }) ∧
  (∀ (k : Fin 64) (v : Serving) (s : State), active s k 0x11 = some v →
    (∀ r, (caller s k).bind (fun h => vaultRec s h (arg s k 2)) = some r → r.data.length ≤ arg s k 4 →
      callerRange s k (arg s k 3) r.data.length true = true → v.asked = true → v.due = [] →
      ∃ t, exec (.vaultGet k) s = .next t ∧ serving t k = some { v with
        lines := [], due := [], result := some ⟨0, 1, [(2, BitVec.ofNat 64 r.data.length)]⟩ } ∧ t = { s with arc := t.arc }) ∧
    ((caller s k).bind (fun h => vaultRec s h (arg s k 2)) = none → exec (.vaultGet k) s = .next (endCall s k 3))) ∧
  (∀ (k : Fin 64) (v : Serving) (s : State), active s k 0x20 = some v →
    (houseCall s k = true → floorOf s.arc.floors < arg s k 2 → arg s k 2 ≤ (s.rd .FOL_SERIAL).toNat →
      s.bit .ARC_STATUS F.ARC_STATUS_VPP = true → s.arc.floors.length < 8 →
      ∃ t, exec (.floorRaise k) s = .next t ∧ t.arc.floors = s.arc.floors ++ [arg s k 2] ∧
        serving t k = some { v with lines := [], due := [], result := some ⟨0, 0, []⟩ } ∧ t = { s with arc := t.arc }) ∧
    (houseCall s k = false → exec (.floorRaise k) s = .next (endCall s k 2))) ∧
  (∀ (k : Fin 64) (v : Serving) (s : State), active s k 0x22 = some v → houseCall s k = true →
    callerRange s k (arg s k 2) (arg s k 3) false = true → v.asked = true → v.due = [] → v.lines.any (fun e => e.2.2) = false →
    ∃ t, exec (.slotWrite k) s = .next t ∧
      (let bs := readBytes v.lines (arg s k 2) (arg s k 3)
       let code := codeOf (imageBad s bs false (arg s k 3))
       serving t k = some { v with lines := [], due := [], result := some ⟨0, 1, [(2, BitVec.ofNat 64 code)]⟩ } ∧
       t.arc.flash = (if code = 0 then s.arc.flash.set (3 - s.get .FOL_STATE F.FOL_STATE_SLOT) bs else s.arc.flash)) ∧
      t = { s with arc := t.arc }) ∧
  (∀ (k : Fin 64) (v : Serving) (s : State), active s k 0x21 = some v → v.asked = false →
    houseCall s k = false ∨ s.bit .ARC_VAULT F.ARC_VAULT_LOCK = true → exec (.watermark k) s = .next (endCall s k 2)) ∧
  (∀ (k : Fin 64) (s : State), serving s k = none → ∀ i ∈ [Instr.info k, .entropy k, .measure k, .attest k, .vaultPut k, .vaultGet k,
    .floorRaise k, .watermark k, .slotWrite k], exec i s = .next s)

/-- The watermark and tamper (R395 to R397, R406, R432): a watermark that R396 allows pends with every line between the two to be zeroed, and
takes effect at a round boundary when they have been, its call ending OK; tamper latches TAMPER and the stage, ends every CALLED carrel TAMPERED
and zeroes the vault, once; when its lines are written VAULT_ZEROED sets. H[0] alone may inject. -/
def Obligations.VaultTamper : Prop :=
  (∀ (k : Fin 64) (v : Serving) (s : State), active s k 0x21 = some v → v.asked = false → houseCall s k = true →
    s.bit .ARC_VAULT F.ARC_VAULT_LOCK = false → watermarkOk s (arg s k 2) = true → s.arc.wmPend = none →
    ∃ t, exec (.watermark k) s = .next t ∧ t.arc.wmPend = some (arg s k 2) ∧
      t.arc.zeroLeft = (max (watermarkNow s) (arg s k 2) - min (watermarkNow s) (arg s k 2)) * 2 ^ 24 ∧
      serving t k = some { v with asked := true } ∧ watermarkNow t = watermarkNow s ∧ t.regs = s.regs ∧ t.dram = s.dram) ∧
  (∀ (k : Fin 64) (v : Serving) (w : Nat) (s : State), s.arc.wmPend = some w → w < 2 ^ 16 → s.arc.zeroLeft = 0 →
    trickOf s 0x20 = 0 → active s k 0x21 = some v → v.asked = true →
    ∃ t, exec .watermarkSwitch s = .next t ∧ watermarkNow t = w ∧ t.folio.map.watermark = w ∧ t.arc.wmPend = none ∧
      serving t k = some { v with lines := [], due := [], result := some ⟨0, 0, []⟩ } ∧ regsBut s t [.ARC_VAULT] ∧
      t.dram = s.dram) ∧
  (∀ (s : State), s.arc.wmPend = none → exec .watermarkSwitch s = .next s) ∧
  (∀ (s : State), tampered s = false → ∃ t, exec .tamper s = .next t ∧ tampered t = true ∧
    t.get .ARC_STATUS F.ARC_STATUS_STAGE = 3 ∧ (t.rd .ARC_ERR).getLsbD 4 = true ∧ t.arc.tampering = true ∧
    t.arc.tamperLeft = watermarkNow s * 2 ^ 24 ∧
    (∀ k : Fin 64, carrelState s k = 1 → carrelState t k = 2 ∧
      serving t k = some ⟨[], [], false, false, some ⟨6, 0, []⟩, false⟩) ∧ t.dram = s.dram) ∧
  (∀ (s : State), tampered s = true → exec .tamper s = .next s) ∧
  (∀ (s : State), s.arc.tampering = true → s.arc.tamperLeft = 0 →
    ∃ t, exec .vaultZeroEnd s = .next t ∧ t.bit .ARC_STATUS F.ARC_STATUS_VAULT_ZEROED = true ∧ t.arc = { s.arc with tampering := false } ∧
      regsBut s t [.ARC_STATUS] ∧ t = { s with regs := t.regs, arc := t.arc }) ∧
  (∀ (s : State), s.arc.tampering = false → exec .vaultZeroEnd s = .next s) ∧
  (∀ (who : Agent) (v : Word) (s : State),
    (s.isHouse who = true → v.getLsbD 1 = false → exec (.arcInjectVault who v) s =
      .next (s.put .ARC_INJECT F.ARC_INJECT_VAULT (F.ARC_INJECT_VAULT.get v))) ∧
    (s.isHouse who = true → v.getLsbD 1 = true → tampered s = false → ∃ t, exec (.arcInjectTamper who v) s = .next t ∧
      tampered t = true ∧ t.arc.tampering = true) ∧
    (s.isHouse who = false → exec (.arcInjectVault who v) s = .next s ∧ exec (.arcInjectTamper who v) s = .next s))

/-- Counters and sampling (R453, R454 to R459): a counter that passes its largest value returns to zero in every slot that shows it and sets
the slots' overflow bits, and a block's source 576 + b arrives; one that the model counts and that has not passed it does nothing (which
events it counts is the model's own, log entry 127); a write of CTR_BLK sets the count that its slot shows; a valid enable in M-mode sets EN, one that is not valid sets BADBUF; a sample is a store of one line at
mjsbase + mjshead, and the head moves on by 64; with less than 64 bytes left EN clears and FULL sets. -/
def Obligations.Counters : Prop :=
  (∀ (c : Fin 384) (e : BitVec 16) (s : State), e ≠ 0 → slotsShowing s (.core c) e.toNat ≠ [] →
    wraps s (.core c) e.toNat = true → ∃ t, exec (.counterWrap (.core c) e) s = .next (if t.rd (.CTR_CORE_OVF c) = s.rd (.CTR_CORE_OVF c) ∨ s.ledgerCore c = true then t
        else notify (setMip t c 13 true) c) ∧
      (∀ k, k ∈ slotsShowing s (.core c) e.toNat → t.rd (.CTR_CORE c k) = 0 ∧ (t.rd (.CTR_CORE_OVF c)).getLsbD k = true) ∧
      (∀ k, k < 32 → k ∉ slotsShowing s (.core c) e.toNat →
        (t.rd (.CTR_CORE_OVF c)).getLsbD k = (s.rd (.CTR_CORE_OVF c)).getLsbD k) ∧
      (counted (.core c) e.toNat = true → t.eventCount c e.toNat + 2 ^ 64 = s.eventCount c e.toNat) ∧
      eventsBut s t [(c.val, e.toNat)] ∧ t = { s with regs := t.regs, events := t.events }) ∧
  (∀ (c : Fin 384) (s : State), s.ledgerCore c = false → s.runs c = false → s.csr c 0x304 = 0 → (s.core c).asleep = false →
    (((notify (setMip s c 13 true) c).csr c 0x344).getLsbD 13 = true)) ∧
  (∀ (b : Fin 57) (e : BitVec 16) (s : State), e ≠ 0 → slotsShowing s (.block b) e.toNat ≠ [] →
    wraps s (.block b) e.toNat = true → ∃ t, exec (.counterWrap (.block b) e) s = .next t ∧
      (∀ k, k ∈ slotsShowing s (.block b) e.toNat → t.rd (.CTR_BLK b k) = 0 ∧ (t.rd (.CTR_BLK_OVF b)).getLsbD k = true) ∧
      (s.tally (576 + b.val) < 255 → t.tally (576 + b.val) = s.tally (576 + b.val) + 1) ∧
      (counted (.block b) e.toNat = true → t.eventCount (0x1000 + b.val) e.toNat + 2 ^ 48 = s.eventCount (0x1000 + b.val) e.toNat) ∧
      eventsBut s t [(0x1000 + b.val, e.toNat)] ∧ t = { s with regs := t.regs, flips := t.flips, events := t.events }) ∧
  (∀ (u : CtrUnit) (e : BitVec 16) (s : State), e = 0 ∨ slotsShowing s u e.toNat = [] ∨ wraps s u e.toNat = false →
    exec (.counterWrap u e) s = .next s) ∧
  (∀ (b : Fin 57) (k : Fin 8) (who : Agent) (v : Word) (s : State), s.isHouse who = true → blockEvent s b k ≠ 0 →
    counted (.block b) (blockFull s b k) = true →
    (blockCount (blockWrite s who b k v) b k).1.toNat = v.toNat % 2 ^ 48) ∧
  (∀ (b : Fin 57) (k : Fin 8) (who : Agent) (v : Word) (s : State), s.isHouse who = false → blockWrite s who b k v = s) ∧
  (∀ (c : Fin 384) (w : BitVec 32) (v : Word) (s : State), s.ready c = true → (s.core c).priv = 3 →
    exec (.mjsctlEnable c ⟨w, v⟩) s = .next ((writeSampling s c 0x7C8 v).retire c 4) ∧
    (maySample s c = false → writeSampling s c 0x7C8 v = s) ∧
    (maySample s c = true → v.getLsbD 0 = false →
      writeSampling s c 0x7C8 v = s.setCsr c 0x7C8 (v &&& 0xFFFFFFFF00FF0006))) ∧
  (∀ (c : Fin 384) (w : BitVec 32) (v : Word) (s : State), s.ready c = true → (s.core c).priv = 3 → s.ledgerCore c = false →
    maySample s c = true → v.getLsbD 0 = true →
    (jsValid s c v = true → ∃ t, exec (.mjsctlEnable c ⟨w, v⟩) s = .next t ∧ t.csr c 0x7C8 = (v &&& 0xFFFFFFFF00FF0006) ||| 1 ∧
      retiredBut s t c 4 (s.core c) [.CSR c 0x7C8] ∧ t = { s with regs := t.regs, cores := t.cores }) ∧
    (jsValid s c v = false → ∃ t, exec (.mjsctlEnable c ⟨w, v⟩) s = .next t ∧ t.csr c 0x7C8 = (v &&& 0xFFFFFFFF00FF0006) ||| 4 ∧
      retiredBut s t c 4 (s.core c) [.CSR c 0x7C8] ∧ t = { s with regs := t.regs, cores := t.cores })) ∧
  (∀ (c : Fin 384) (w : BitVec 32) (v : Word) (s : State),
    (s.ready c = true → (s.core c).priv ≠ 3 → exec (.mjsctlEnable c ⟨w, v⟩) s = .next (illegal s c (w.zeroExtend 64))) ∧
    (s.ready c = false → exec (.mjsctlEnable c ⟨w, v⟩) s = .next s)) ∧
  (∀ (c : Fin 384) (m : SampleInfo) (s : State), s.runs c = true → maySample s c = true → (s.csr c 0x7C8).getLsbD 0 = true →
    ((s.csr c 0x7CB).toNat + 64 ≤ (s.csr c 0x7CA).toNat →
      (let d := lineFrom 0 (sampleBytes s c m)
       exec (.sampleRecord c m) s = .next ((putStore s c ⟨((s.csr c 0x7C9).toNat + (s.csr c 0x7CB).toNat) / 64, d.1, d.2, false, false, false⟩).setCsr c
         0x7CB (BitVec.ofNat 64 ((s.csr c 0x7CB).toNat + 64) &&& 0xFFFFFFC0)))) ∧
    ((s.csr c 0x7CA).toNat < (s.csr c 0x7CB).toNat + 64 → exec (.sampleRecord c m) s =
      .next (notify (setMip (s.setCsr c 0x7C8 ((s.csr c 0x7C8 &&& ~~~ 1) ||| 2)) c 13 true) c))) ∧
  (∀ (c : Fin 384) (m : SampleInfo) (s : State), s.runs c = true → maySample s c = true → (s.csr c 0x7C8).getLsbD 0 = true →
    ((s.csr c 0x7CB).toNat + 64 ≤ (s.csr c 0x7CA).toNat → (s.csr c 0x7CA).toNat < 2 ^ 32 → (s.csr c 0x7CB).toNat % 64 = 0 →
      s.ledgerCore c = false → (s.core c).mb = [] → (s.core c).stores = [] →
      ∃ t, exec (.sampleRecord c m) s = .next t ∧ t.csr c 0x7CB = BitVec.ofNat 64 ((s.csr c 0x7CB).toNat + 64) &&& 0xFFFFFFC0 ∧
        t.csr c 0x7C8 = s.csr c 0x7C8 ∧
        (∃ x, (t.core c).mb = [x] ∧ x.line = ((s.csr c 0x7C9).toNat + (s.csr c 0x7CB).toNat) / 64 ∧ x.mask = BitVec.allOnes 64 ∧
          x.data.extractLsb' 64 32 = m.insn ∧ x.data.extractLsb' 256 64 = BitVec.ofNat 64 s.mtime) ∧
        coresBut s t [c.val] ∧ t.dram = s.dram) ∧
    ((s.csr c 0x7CA).toNat < (s.csr c 0x7CB).toNat + 64 → s.csr c 0x304 = 0 → s.ledgerCore c = false →
      ∃ t, exec (.sampleRecord c m) s = .next t ∧ (t.csr c 0x7C8).getLsbD 0 = false ∧ (t.csr c 0x7C8).getLsbD 1 = true ∧
        (t.csr c 0x344).getLsbD 13 = true ∧ t.cores = s.cores ∧ regsBut s t [.CSR c 0x7C8, .CSR c 0x344])) ∧
  (∀ (c : Fin 384) (m : SampleInfo) (s : State), maySample s c = false ∨ s.runs c = false ∨ (s.csr c 0x7C8).getLsbD 0 = false →
    exec (.sampleRecord c m) s = .next s)

/-- The management port (R473 to R475): once it answers, a private write sets its register pointer and stores the registers that it covers whole, a
private read returns as many bytes as asked for and moves the pointer on, SETDASA gives it an address, and ENTDAA one where it has none;
before that it does not acknowledge. Image commands are accepted for the slots that the state allows, and end with BUSY clear. -/
def Obligations.ManagementPort : Prop :=
  (∀ (lo hi : Byte) (s : State), i3cReady s = true →
    exec (.i3cPrivateWrite [lo, hi]) s =
      .next { s with mgmt := { s.mgmt with ptr := lo.toNat + 256 * hi.toNat } } ∧
    (∀ bs : List Byte, bs.length = 8 → (lo.toNat + 256 * hi.toNat) % 8 = 0 → exec (.i3cPrivateWrite (lo :: hi :: bs)) s =
      .next (mgmtWrite { s with mgmt := { s.mgmt with ptr := (lo.toNat + 256 * hi.toNat + 8) % 2 ^ 16 } }
        (lo.toNat + 256 * hi.toNat) (BitVec.ofNat 64 (ofBytes bs))))) ∧
  (∀ (n : Nat) (s : State), i3cReady s = true → ∃ t bs, exec (.i3cPrivateRead n) s = .next t ∧ bs.length = n ∧
    t.out = s.out ++ [.i3c bs] ∧ t.mgmt = { s.mgmt with ptr := (s.mgmt.ptr + n) % 2 ^ 16 } ∧
    (∀ i, i < n → bs[i]? = some (mgmtByte s ((s.mgmt.ptr + i) % 2 ^ 16))) ∧ t = { s with mgmt := t.mgmt, out := t.out }) ∧
  (∀ (a : BitVec 7) (s : State), i3cReady s = true →
    exec (.setdasa a) s = .next { s with mgmt := { s.mgmt with addr := some a } } ∧
    (s.mgmt.addr = none → exec (.entdaa a) s = .next { s with mgmt := { s.mgmt with addr := some a } })) ∧
  (∀ (a : BitVec 7) (n : Nat) (bs : List Byte) (s : State), i3cReady s = false → s.mgmt.stby = true →
    ∀ i ∈ [Instr.i3cPrivateWrite bs, .i3cPrivateRead n, .setdasa a, .entdaa a], exec i s = .next (s.emit .nack)) ∧
  (∀ (v : Word) (s : State), i3cReady s = true → s.bit .ARC_IMG_CMD F.ARC_IMG_CMD_BUSY = false →
    (let slot := F.ARC_IMG_CMD_SLOT.get v
     let off := F.ARC_IMG_CMD_OFFSET.get v
     imgAllowed s slot = true → ∀ e ∈ [(1, Instr.arcImgBegin v), (2, Instr.arcImgWrite v), (3, Instr.arcImgFinish v)],
       F.ARC_IMG_CMD_OP.get v = e.1 → (e.1 = 2 → off % 256 = 0 ∧ off + 256 ≤ imgSize slot) →
       ∃ t, exec e.2 s = .next t ∧ t.bit .ARC_IMG_CMD F.ARC_IMG_CMD_BUSY = true ∧ t.arc = { s.arc with imgOp := some (e.1, slot, off) } ∧
         regsBut s t [.ARC_IMG_CMD] ∧ t = { s with regs := t.regs, arc := t.arc })) ∧
  (∀ (op slot off : Nat) (s : State), s.arc.imgOp = some (op, slot, off) →
    ∃ t, exec .imageOpComplete s = .next t ∧ t.bit .ARC_IMG_CMD F.ARC_IMG_CMD_BUSY = false ∧ t.arc.imgOp = none ∧
      (op = 1 → flashSlot t slot = [] ∧ t.get .ARC_IMG_CMD F.ARC_IMG_CMD_STATUS = 0) ∧
      (op = 2 → flashSlot t slot = programSlot (flashSlot s slot) (imgBytes s) off ∧
        t.get .ARC_IMG_CMD F.ARC_IMG_CMD_STATUS = 0) ∧
      (op = 3 → flashSlot t slot = flashSlot s slot) ∧ (∀ j, j ≠ slot → flashSlot t j = flashSlot s j) ∧
      regsBut s t [.ARC_IMG_CMD] ∧ t = { s with regs := t.regs, arc := t.arc }) ∧
  (∀ (s : State), s.arc.imgOp = none → exec .imageOpComplete s = .next s)

/-- The test-access port (R476 to R478): with standby power each of its commands loads its instruction code, IDCODE shifts out the
identification, SAMPLE/PRELOAD the captured cells while it takes the preloaded ones; without it nothing happens. EXTEST, CLAMP and HIGHZ take
effect in package reset with the main supply good and at no other time, when they act as BYPASS; a land of the memory channels floats without
the main supply, and with it follows the state of its channel (R479), as the switch of a die's rail follows that of the die; no command changes anything but the port and what it shifts out. -/
def Obligations.TestAccess : Prop :=
  (∀ (s : State), s.mgmt.stby = true → ∀ e ∈ [(0xFF, Instr.bypass), (0, .extest), (4, .clamp), (5, .highz), (1, .tapReset)],
    exec e.2 s = .next { s with tap := { s.tap with ir := e.1 } }) ∧
  (∀ (s : State), s.mgmt.stby = true → exec .idcode s = .next { s with tap := { s.tap with ir := 1 }, out := s.out ++ [.tdo idBits] }) ∧
  (∀ (a b : List Bool) (s : State), s.mgmt.stby = true →
    exec (.samplePreload a b) s = .next { s with tap := ⟨2, cells b⟩, out := s.out ++ [.tdo (cells a)] }) ∧
  (∀ (a b : List Bool) (s : State), s.mgmt.stby = false →
    ∀ i ∈ [Instr.bypass, .extest, .clamp, .highz, .tapReset, .idcode, .samplePreload a b], exec i s = .next s) ∧
  idBits.length = 32 ∧ (∀ i : Fin 32, idBits[i.val]? = some ((0x10384DEB : BitVec 32).getLsbD i)) ∧
  (∀ (s : State), scanAllowed s = false → s.tap.ir = 0 ∨ s.tap.ir = 4 ∨ s.tap.ir = 5 → tapEffect s = 0xFF) ∧
  (∀ (s : State), s.mgmt.inReset = false ∨ s.mgmt.main = false → scanAllowed s = false) ∧
  (∀ (s : State), scanAllowed s = true → s.tap.ir = 0 ∨ s.tap.ir = 4 ∨ s.tap.ir = 5 → tapEffect s = s.tap.ir) ∧
  (∀ (s : State) (i : Nat), s.mgmt.main = false → i < 2704 → landLevel s i = .float) ∧
  (∀ (s : State) (n : Fin 16) (k : Nat), s.mgmt.stby = true → s.mgmt.main = true → s.mgmt.inReset = false → k < 166 →
    landLevel s (169 * n + k) = (if blockState s n = 3 then .float else if blockState s n = 2 then .held else .driven)) ∧
  (∀ (s : State) (d : Fin 16), s.mgmt.stby = true → s.mgmt.inReset = false →
    landLevel s (landCdPwr d) = (if s.get (.SCK_DIE d) F.SCK_DIE_STATE = 3 ∧ (s.die d).wake = none then .low else .high))

/-- What a write leaves in the fields of a register (R14): an RW or RW-S field takes the value written; a W1S field gains the ones, a W1C
field loses them; RO, WO and RW-F fields keep what they hold. -/
def Obligations.RegisterFields : Prop :=
  ∀ (r : Reg) (old v : Word), ∀ f ∈ r.fields,
    (f.access = .rw ∨ f.access = .rws → f.bits.get (r.written old v) = f.bits.get v) ∧
    (f.access = .w1s → f.bits.get (r.written old v) = f.bits.get (old ||| v)) ∧
    (f.access = .w1c → f.bits.get (r.written old v) = f.bits.get (old &&& ~~~v)) ∧
    (f.access = .ro ∨ f.access = .wo ∨ f.access = .rwf → f.bits.get (r.written old v) = f.bits.get old)

/-- REGISTER_WRITE (R11, R12, R14, R17): an aligned write of a register by an agent that reaches it is the write of that register; a misaligned
one, one of a reserved offset and one by a core that does not reach it change nothing, and one that R249 bars raises LEDGER_ACCESS. A write of HP_WIN_SIZE by the house supervisor
stores the size, by a core of another hand it changes nothing. A function that does not exist, is being reset or is in D3hot takes no write. A CSR
instruction, or one that sets vtype and vl, acts for a core that is ready. -/
def Obligations.RegisterWrite : Prop :=
  (∀ (who : Agent) (a : Nat) (r : Reg) (v : Word) (s : State), a % 8 = 0 → Reg.ofAddr a = some r → notLedger s who →
    (match who with | .core c => ∃ h, s.handOf c = some h ∧ ctrlOk s h a = true | _ => True) →
    exec (.registerWrite who (.ctrl a) v) s = .next (writeReg s who r v)) ∧
  (∀ (c : Fin 384) (a : Nat) (r : Reg) (h : Nat) (v : Word) (s : State), a % 8 = 0 → Reg.ofAddr a = some r → s.handOf c = some h →
    (ctrlOk s h a = true → bars s c r → exec (.registerWrite (.core c) (.ctrl a) v) s = barredWrite s c r) ∧
    (ctrlOk s h a = true → s.ledgerCore c = true → ledgerMay s c r = true →
      exec (.registerWrite (.core c) (.ctrl a) v) s = .next (writeReg s (.core c) r v)) ∧
    (ctrlOk s h a = false → exec (.registerWrite (.core c) (.ctrl a) v) s = .next s)) ∧
  (∀ (who : Agent) (a : Nat) (v : Word) (s : State), a % 8 ≠ 0 ∨ Reg.ofAddr a = none →
    exec (.registerWrite who (.ctrl a) v) s = .next s) ∧
  (∀ (c : Fin 384) (a : Nat) (v : Word) (s : State), s.handOf c = none → exec (.registerWrite (.core c) (.ctrl a) v) s = .next s) ∧
  (∀ (who : Agent) (p : Fin 8) (w : Fin 16) (v : Word) (s : State),
    (s.isHouse who = true → (writeReg s who (.HP_WIN_SIZE p w) v).get (.HP_WIN_SIZE p w) F.HP_WIN_SIZE_VALUE = F.HP_WIN_SIZE_VALUE.get v ∧
      regsBut s (writeReg s who (.HP_WIN_SIZE p w) v) [.HP_WIN_SIZE p w]) ∧
    (s.isHouse who = false → who ≠ .archivist → writeReg s who (.HP_WIN_SIZE p w) v = s)) ∧
  (∀ (who : Agent) (f : FnId) (off n : Nat) (v : Word) (s : State),
    (fnExists s f = true → (s.fn f).flr = false → inD3 s f = false →
      exec (.registerWrite who (.bar f off n) v) s = .next (barStore s f off (leBytes n v.toNat) [])) ∧
    (fnExists s f = false ∨ (s.fn f).flr = true ∨ inD3 s f = true → exec (.registerWrite who (.bar f off n) v) s = .next s)) ∧
  (∀ (who : Agent) (c : Fin 384) (w : BitVec 32) (v : Word) (s : State),
    (who = .core c → s.ready c = true → exec (.registerWrite who (.csr c w) v) s = .next (writeCsr s c w v) ∧
      exec (.registerWrite who (.vset c w) v) s = .next (vsetInsn s c w)) ∧
    (who ≠ .core c ∨ s.ready c = false → exec (.registerWrite who (.csr c w) v) s = .next s ∧
      exec (.registerWrite who (.vset c w) v) s = .next s)) ∧
  (∀ (c : Fin 384) (w : BitVec 32) (v : Word) (s : State),
    (∀ e, csrTrap s c (w.toNat / 2 ^ 20) true = some e → writeCsr s c w v = trap s c e (w.zeroExtend 64)) ∧
    (vsOff s c = true → vsetInsn s c w = illegal s c (w.zeroExtend 64)) ∧
    (vsOff s c = false → s.ledgerCore c = false → w.getLsbD 31 = false → vlmaxOf (wbits w 30 20) ≠ 0 → wbits w 19 15 ≠ 0 →
      (let t := vsetInsn s c w
       let vl := BitVec.ofNat 64 (vlFor (s.xreg c (wbits w 19 15)).toNat (vlmaxOf (wbits w 30 20)))
       t.csr c 0xC21 = BitVec.ofNat 64 (wbits w 30 20) ∧ t.csr c 0xC20 = vl ∧ t.csr c 0x008 = 0 ∧
         t.xreg c (wbits w 11 7) = (if wbits w 11 7 = 0 then 0 else vl) ∧ (t.core c).pc = (s.core c).pc + 4)))

/-- One step (the model's own: log entry 1): the command at the front of the queue runs on the state with the rest of the queue, whichever command
it is; on an empty queue one IOD fabric cycle passes, and in package reset nothing. -/
def Obligations.StepFront : Prop :=
  (∀ (c : Instr) (s : State), step { s with pending := c :: s.pending } = exec c s) ∧
  (∀ (s : State), s.pending = [] → s.mgmt.inReset = false → step s = .next { s with cycle := s.cycle + 1 }) ∧
  (∀ (s : State), s.pending = [] → s.mgmt.inReset = true → step s = .next s)

/-- Every step completes: no command in any state stops the package with a fault or a refusal. -/
def Obligations.StepCompletes : Prop :=
  ∀ (s : State), ∃ t, step s = .next t

/-- The queue is served first in, first out (the model's own form): a step takes the command at the front and leaves the rest as it stands, in its
order; no command adds a command or drops one. -/
def Obligations.StepQueueOrder : Prop :=
  ∀ (s t : State), step s = .next t → t.pending = s.pending.tail

/-- The invariant of every step: where the memory is in its canonical form, it is so after the step. -/
def Obligations.StepKeepsInv : Prop :=
  ∀ (s t : State), Inv s → step s = .next t → Inv t

/-- The state after reset (R124, R468): the memory is canonical, no command waits, the package is in package reset with its timer at zero,
no tally and no error bit is up, every core is OFF and every register holds the value of its table. -/
def Obligations.ResetState : Prop :=
  Inv State.reset ∧ State.reset.pending = [] ∧ State.reset.mgmt.inReset = true ∧ State.reset.mtime = 0 ∧
  (∀ r : Reg, State.reset.rd r = r.reset) ∧ (∀ n, n < 8192 → State.reset.tally n = 0) ∧
  (∀ c, c < 384 → State.reset.coreState c = 0) ∧ (∀ d, linkState State.reset d = 0) ∧
  State.reset.get .FLT_STATUS F.FLT_STATUS_WAITING = 0
end

