-- ==== Sys2Proof/Laws/State.lean ====
section
/-! SUPPORT. What one update of the state leaves in every field and every unit: one lemma a field and update, true by rfl, and
the laws of a read after a write. -/

namespace Sys2Proof.Machine

/-! ### Sparse tables -/

namespace NMap

@[simp] theorem get?_nil {α : Type} (n : Nat) : get? ([] : NMap α) n = none := rfl

@[simp] theorem get?_set_self {α : Type} (m : NMap α) (n : Nat) (v : α) : (m.set n v).get? n = some v := by
  induction m with
  | nil => simp [set, get?]
  | cons e t ih =>
    obtain ⟨k, w⟩ := e
    simp only [set]
    split
    · simp [get?]
    · split
      · simp [get?]
      · rename_i h1 h2
        simp [get?, h1, h2, ih]

theorem get?_set_ne {α : Type} (m : NMap α) (n k : Nat) (v : α) (h : k ≠ n) : (m.set n v).get? k = m.get? k := by
  induction m with
  | nil => simp [set, get?, h]
  | cons e t ih =>
    obtain ⟨j, w⟩ := e
    simp only [set]
    split
    · simp [get?, h]
    · split
      · rename_i h1 h2
        subst h2
        simp [get?, h]
      · simp only [get?, ih]

theorem get?_erase_ne {α : Type} (m : NMap α) (n k : Nat) (h : k ≠ n) : (m.erase n).get? k = m.get? k := by
  induction m with
  | nil => rfl
  | cons e t ih =>
    obtain ⟨j, w⟩ := e
    simp only [erase, List.filter] at ih ⊢
    split
    · simp only [get?, ih]
    · rename_i h1
      have : j = n := by simpa using h1
      subst this
      simp [get?, h, ih]

@[simp] theorem get?_erase_self {α : Type} (m : NMap α) (n : Nat) : (m.erase n).get? n = none := by
  induction m with
  | nil => rfl
  | cons e t ih =>
    obtain ⟨j, w⟩ := e
    simp only [erase, List.filter] at ih ⊢
    split
    · rename_i h1
      have : n ≠ j := by rintro rfl; simp at h1
      simp [get?, this, ih]
    · exact ih

@[simp] theorem getD_nil {α : Type} (n : Nat) (d : α) : getD ([] : NMap α) n d = d := rfl

@[simp] theorem getD_set_self {α : Type} (m : NMap α) (n : Nat) (v d : α) : (m.set n v).getD n d = v := by
  simp [getD]

theorem getD_erase_ne {α : Type} (m : NMap α) (n k : Nat) (d : α) (h : k ≠ n) : (m.erase n).getD k d = m.getD k d := by
  simp [getD, get?_erase_ne _ _ _ h]

theorem getD_set_ne {α : Type} (m : NMap α) (n k : Nat) (v d : α) (h : k ≠ n) : (m.set n v).getD k d = m.getD k d := by
  simp [getD, get?_set_ne _ _ _ _ h]

end NMap

namespace State

/-! ### Fields -/

@[simp] theorem wr_cycle (s : State) (r : Reg) (w : Word) : (s.wr r w).cycle = s.cycle := rfl
@[simp] theorem wr_free (s : State) (r : Reg) (w : Word) : (s.wr r w).free = s.free := rfl
@[simp] theorem wr_folio (s : State) (r : Reg) (w : Word) : (s.wr r w).folio = s.folio := rfl
@[simp] theorem wr_links (s : State) (r : Reg) (w : Word) : (s.wr r w).links = s.links := rfl
@[simp] theorem wr_points (s : State) (r : Reg) (w : Word) : (s.wr r w).points = s.points := rfl
@[simp] theorem wr_slices (s : State) (r : Reg) (w : Word) : (s.wr r w).slices = s.slices := rfl
@[simp] theorem wr_dies (s : State) (r : Reg) (w : Word) : (s.wr r w).dies = s.dies := rfl
@[simp] theorem wr_cores (s : State) (r : Reg) (w : Word) : (s.wr r w).cores = s.cores := rfl
@[simp] theorem wr_chans (s : State) (r : Reg) (w : Word) : (s.wr r w).chans = s.chans := rfl
@[simp] theorem wr_ports (s : State) (r : Reg) (w : Word) : (s.wr r w).ports = s.ports := rfl
@[simp] theorem wr_fns (s : State) (r : Reg) (w : Word) : (s.wr r w).fns = s.fns := rfl
@[simp] theorem wr_queues (s : State) (r : Reg) (w : Word) : (s.wr r w).queues = s.queues := rfl
@[simp] theorem wr_ledgers (s : State) (r : Reg) (w : Word) : (s.wr r w).ledgers = s.ledgers := rfl
@[simp] theorem wr_dram (s : State) (r : Reg) (w : Word) : (s.wr r w).dram = s.dram := rfl
@[simp] theorem wr_iod (s : State) (r : Reg) (w : Word) : (s.wr r w).iod = s.iod := rfl
@[simp] theorem wr_outbox (s : State) (r : Reg) (w : Word) : (s.wr r w).outbox = s.outbox := rfl
@[simp] theorem wr_flips (s : State) (r : Reg) (w : Word) : (s.wr r w).flips = s.flips := rfl
@[simp] theorem wr_arc (s : State) (r : Reg) (w : Word) : (s.wr r w).arc = s.arc := rfl
@[simp] theorem wr_mgmt (s : State) (r : Reg) (w : Word) : (s.wr r w).mgmt = s.mgmt := rfl
@[simp] theorem wr_tap (s : State) (r : Reg) (w : Word) : (s.wr r w).tap = s.tap := rfl
@[simp] theorem wr_power (s : State) (r : Reg) (w : Word) : (s.wr r w).power = s.power := rfl
@[simp] theorem wr_heat (s : State) (r : Reg) (w : Word) : (s.wr r w).heat = s.heat := rfl
@[simp] theorem wr_events (s : State) (r : Reg) (w : Word) : (s.wr r w).events = s.events := rfl
@[simp] theorem wr_out (s : State) (r : Reg) (w : Word) : (s.wr r w).out = s.out := rfl
@[simp] theorem wr_pending (s : State) (r : Reg) (w : Word) : (s.wr r w).pending = s.pending := rfl

@[simp] theorem clr_cycle (s : State) (r : Reg) : (s.clr r).cycle = s.cycle := rfl
@[simp] theorem clr_free (s : State) (r : Reg) : (s.clr r).free = s.free := rfl
@[simp] theorem clr_folio (s : State) (r : Reg) : (s.clr r).folio = s.folio := rfl
@[simp] theorem clr_links (s : State) (r : Reg) : (s.clr r).links = s.links := rfl
@[simp] theorem clr_points (s : State) (r : Reg) : (s.clr r).points = s.points := rfl
@[simp] theorem clr_slices (s : State) (r : Reg) : (s.clr r).slices = s.slices := rfl
@[simp] theorem clr_dies (s : State) (r : Reg) : (s.clr r).dies = s.dies := rfl
@[simp] theorem clr_cores (s : State) (r : Reg) : (s.clr r).cores = s.cores := rfl
@[simp] theorem clr_chans (s : State) (r : Reg) : (s.clr r).chans = s.chans := rfl
@[simp] theorem clr_ports (s : State) (r : Reg) : (s.clr r).ports = s.ports := rfl
@[simp] theorem clr_fns (s : State) (r : Reg) : (s.clr r).fns = s.fns := rfl
@[simp] theorem clr_queues (s : State) (r : Reg) : (s.clr r).queues = s.queues := rfl
@[simp] theorem clr_ledgers (s : State) (r : Reg) : (s.clr r).ledgers = s.ledgers := rfl
@[simp] theorem clr_dram (s : State) (r : Reg) : (s.clr r).dram = s.dram := rfl
@[simp] theorem clr_iod (s : State) (r : Reg) : (s.clr r).iod = s.iod := rfl
@[simp] theorem clr_outbox (s : State) (r : Reg) : (s.clr r).outbox = s.outbox := rfl
@[simp] theorem clr_flips (s : State) (r : Reg) : (s.clr r).flips = s.flips := rfl
@[simp] theorem clr_arc (s : State) (r : Reg) : (s.clr r).arc = s.arc := rfl
@[simp] theorem clr_mgmt (s : State) (r : Reg) : (s.clr r).mgmt = s.mgmt := rfl
@[simp] theorem clr_tap (s : State) (r : Reg) : (s.clr r).tap = s.tap := rfl
@[simp] theorem clr_power (s : State) (r : Reg) : (s.clr r).power = s.power := rfl
@[simp] theorem clr_heat (s : State) (r : Reg) : (s.clr r).heat = s.heat := rfl
@[simp] theorem clr_events (s : State) (r : Reg) : (s.clr r).events = s.events := rfl
@[simp] theorem clr_out (s : State) (r : Reg) : (s.clr r).out = s.out := rfl
@[simp] theorem clr_pending (s : State) (r : Reg) : (s.clr r).pending = s.pending := rfl

@[simp] theorem setLink_cycle (s : State) (d : Nat) (r : Dir) (l : Link) : (s.setLink d r l).cycle = s.cycle := rfl
@[simp] theorem setLink_free (s : State) (d : Nat) (r : Dir) (l : Link) : (s.setLink d r l).free = s.free := rfl
@[simp] theorem setLink_regs (s : State) (d : Nat) (r : Dir) (l : Link) : (s.setLink d r l).regs = s.regs := rfl
@[simp] theorem setLink_folio (s : State) (d : Nat) (r : Dir) (l : Link) : (s.setLink d r l).folio = s.folio := rfl
@[simp] theorem setLink_points (s : State) (d : Nat) (r : Dir) (l : Link) : (s.setLink d r l).points = s.points := rfl
@[simp] theorem setLink_slices (s : State) (d : Nat) (r : Dir) (l : Link) : (s.setLink d r l).slices = s.slices := rfl
@[simp] theorem setLink_dies (s : State) (d : Nat) (r : Dir) (l : Link) : (s.setLink d r l).dies = s.dies := rfl
@[simp] theorem setLink_cores (s : State) (d : Nat) (r : Dir) (l : Link) : (s.setLink d r l).cores = s.cores := rfl
@[simp] theorem setLink_chans (s : State) (d : Nat) (r : Dir) (l : Link) : (s.setLink d r l).chans = s.chans := rfl
@[simp] theorem setLink_ports (s : State) (d : Nat) (r : Dir) (l : Link) : (s.setLink d r l).ports = s.ports := rfl
@[simp] theorem setLink_fns (s : State) (d : Nat) (r : Dir) (l : Link) : (s.setLink d r l).fns = s.fns := rfl
@[simp] theorem setLink_queues (s : State) (d : Nat) (r : Dir) (l : Link) : (s.setLink d r l).queues = s.queues := rfl
@[simp] theorem setLink_ledgers (s : State) (d : Nat) (r : Dir) (l : Link) : (s.setLink d r l).ledgers = s.ledgers := rfl
@[simp] theorem setLink_dram (s : State) (d : Nat) (r : Dir) (l : Link) : (s.setLink d r l).dram = s.dram := rfl
@[simp] theorem setLink_iod (s : State) (d : Nat) (r : Dir) (l : Link) : (s.setLink d r l).iod = s.iod := rfl
@[simp] theorem setLink_outbox (s : State) (d : Nat) (r : Dir) (l : Link) : (s.setLink d r l).outbox = s.outbox := rfl
@[simp] theorem setLink_flips (s : State) (d : Nat) (r : Dir) (l : Link) : (s.setLink d r l).flips = s.flips := rfl
@[simp] theorem setLink_arc (s : State) (d : Nat) (r : Dir) (l : Link) : (s.setLink d r l).arc = s.arc := rfl
@[simp] theorem setLink_mgmt (s : State) (d : Nat) (r : Dir) (l : Link) : (s.setLink d r l).mgmt = s.mgmt := rfl
@[simp] theorem setLink_tap (s : State) (d : Nat) (r : Dir) (l : Link) : (s.setLink d r l).tap = s.tap := rfl
@[simp] theorem setLink_power (s : State) (d : Nat) (r : Dir) (l : Link) : (s.setLink d r l).power = s.power := rfl
@[simp] theorem setLink_heat (s : State) (d : Nat) (r : Dir) (l : Link) : (s.setLink d r l).heat = s.heat := rfl
@[simp] theorem setLink_events (s : State) (d : Nat) (r : Dir) (l : Link) : (s.setLink d r l).events = s.events := rfl
@[simp] theorem setLink_out (s : State) (d : Nat) (r : Dir) (l : Link) : (s.setLink d r l).out = s.out := rfl
@[simp] theorem setLink_pending (s : State) (d : Nat) (r : Dir) (l : Link) : (s.setLink d r l).pending = s.pending := rfl

@[simp] theorem setPoint_cycle (s : State) (p : Nat) (x : Point) : (s.setPoint p x).cycle = s.cycle := rfl
@[simp] theorem setPoint_free (s : State) (p : Nat) (x : Point) : (s.setPoint p x).free = s.free := rfl
@[simp] theorem setPoint_regs (s : State) (p : Nat) (x : Point) : (s.setPoint p x).regs = s.regs := rfl
@[simp] theorem setPoint_folio (s : State) (p : Nat) (x : Point) : (s.setPoint p x).folio = s.folio := rfl
@[simp] theorem setPoint_links (s : State) (p : Nat) (x : Point) : (s.setPoint p x).links = s.links := rfl
@[simp] theorem setPoint_slices (s : State) (p : Nat) (x : Point) : (s.setPoint p x).slices = s.slices := rfl
@[simp] theorem setPoint_dies (s : State) (p : Nat) (x : Point) : (s.setPoint p x).dies = s.dies := rfl
@[simp] theorem setPoint_cores (s : State) (p : Nat) (x : Point) : (s.setPoint p x).cores = s.cores := rfl
@[simp] theorem setPoint_chans (s : State) (p : Nat) (x : Point) : (s.setPoint p x).chans = s.chans := rfl
@[simp] theorem setPoint_ports (s : State) (p : Nat) (x : Point) : (s.setPoint p x).ports = s.ports := rfl
@[simp] theorem setPoint_fns (s : State) (p : Nat) (x : Point) : (s.setPoint p x).fns = s.fns := rfl
@[simp] theorem setPoint_queues (s : State) (p : Nat) (x : Point) : (s.setPoint p x).queues = s.queues := rfl
@[simp] theorem setPoint_ledgers (s : State) (p : Nat) (x : Point) : (s.setPoint p x).ledgers = s.ledgers := rfl
@[simp] theorem setPoint_dram (s : State) (p : Nat) (x : Point) : (s.setPoint p x).dram = s.dram := rfl
@[simp] theorem setPoint_iod (s : State) (p : Nat) (x : Point) : (s.setPoint p x).iod = s.iod := rfl
@[simp] theorem setPoint_outbox (s : State) (p : Nat) (x : Point) : (s.setPoint p x).outbox = s.outbox := rfl
@[simp] theorem setPoint_flips (s : State) (p : Nat) (x : Point) : (s.setPoint p x).flips = s.flips := rfl
@[simp] theorem setPoint_arc (s : State) (p : Nat) (x : Point) : (s.setPoint p x).arc = s.arc := rfl
@[simp] theorem setPoint_mgmt (s : State) (p : Nat) (x : Point) : (s.setPoint p x).mgmt = s.mgmt := rfl
@[simp] theorem setPoint_tap (s : State) (p : Nat) (x : Point) : (s.setPoint p x).tap = s.tap := rfl
@[simp] theorem setPoint_power (s : State) (p : Nat) (x : Point) : (s.setPoint p x).power = s.power := rfl
@[simp] theorem setPoint_heat (s : State) (p : Nat) (x : Point) : (s.setPoint p x).heat = s.heat := rfl
@[simp] theorem setPoint_events (s : State) (p : Nat) (x : Point) : (s.setPoint p x).events = s.events := rfl
@[simp] theorem setPoint_out (s : State) (p : Nat) (x : Point) : (s.setPoint p x).out = s.out := rfl
@[simp] theorem setPoint_pending (s : State) (p : Nat) (x : Point) : (s.setPoint p x).pending = s.pending := rfl

@[simp] theorem setSlice_cycle (s : State) (n : Nat) (x : Slice) : (s.setSlice n x).cycle = s.cycle := rfl
@[simp] theorem setSlice_free (s : State) (n : Nat) (x : Slice) : (s.setSlice n x).free = s.free := rfl
@[simp] theorem setSlice_regs (s : State) (n : Nat) (x : Slice) : (s.setSlice n x).regs = s.regs := rfl
@[simp] theorem setSlice_folio (s : State) (n : Nat) (x : Slice) : (s.setSlice n x).folio = s.folio := rfl
@[simp] theorem setSlice_links (s : State) (n : Nat) (x : Slice) : (s.setSlice n x).links = s.links := rfl
@[simp] theorem setSlice_points (s : State) (n : Nat) (x : Slice) : (s.setSlice n x).points = s.points := rfl
@[simp] theorem setSlice_dies (s : State) (n : Nat) (x : Slice) : (s.setSlice n x).dies = s.dies := rfl
@[simp] theorem setSlice_cores (s : State) (n : Nat) (x : Slice) : (s.setSlice n x).cores = s.cores := rfl
@[simp] theorem setSlice_chans (s : State) (n : Nat) (x : Slice) : (s.setSlice n x).chans = s.chans := rfl
@[simp] theorem setSlice_ports (s : State) (n : Nat) (x : Slice) : (s.setSlice n x).ports = s.ports := rfl
@[simp] theorem setSlice_fns (s : State) (n : Nat) (x : Slice) : (s.setSlice n x).fns = s.fns := rfl
@[simp] theorem setSlice_queues (s : State) (n : Nat) (x : Slice) : (s.setSlice n x).queues = s.queues := rfl
@[simp] theorem setSlice_ledgers (s : State) (n : Nat) (x : Slice) : (s.setSlice n x).ledgers = s.ledgers := rfl
@[simp] theorem setSlice_dram (s : State) (n : Nat) (x : Slice) : (s.setSlice n x).dram = s.dram := rfl
@[simp] theorem setSlice_iod (s : State) (n : Nat) (x : Slice) : (s.setSlice n x).iod = s.iod := rfl
@[simp] theorem setSlice_outbox (s : State) (n : Nat) (x : Slice) : (s.setSlice n x).outbox = s.outbox := rfl
@[simp] theorem setSlice_flips (s : State) (n : Nat) (x : Slice) : (s.setSlice n x).flips = s.flips := rfl
@[simp] theorem setSlice_arc (s : State) (n : Nat) (x : Slice) : (s.setSlice n x).arc = s.arc := rfl
@[simp] theorem setSlice_mgmt (s : State) (n : Nat) (x : Slice) : (s.setSlice n x).mgmt = s.mgmt := rfl
@[simp] theorem setSlice_tap (s : State) (n : Nat) (x : Slice) : (s.setSlice n x).tap = s.tap := rfl
@[simp] theorem setSlice_power (s : State) (n : Nat) (x : Slice) : (s.setSlice n x).power = s.power := rfl
@[simp] theorem setSlice_heat (s : State) (n : Nat) (x : Slice) : (s.setSlice n x).heat = s.heat := rfl
@[simp] theorem setSlice_events (s : State) (n : Nat) (x : Slice) : (s.setSlice n x).events = s.events := rfl
@[simp] theorem setSlice_out (s : State) (n : Nat) (x : Slice) : (s.setSlice n x).out = s.out := rfl
@[simp] theorem setSlice_pending (s : State) (n : Nat) (x : Slice) : (s.setSlice n x).pending = s.pending := rfl

@[simp] theorem setDie_cycle (s : State) (d : Nat) (x : Die) : (s.setDie d x).cycle = s.cycle := rfl
@[simp] theorem setDie_free (s : State) (d : Nat) (x : Die) : (s.setDie d x).free = s.free := rfl
@[simp] theorem setDie_regs (s : State) (d : Nat) (x : Die) : (s.setDie d x).regs = s.regs := rfl
@[simp] theorem setDie_folio (s : State) (d : Nat) (x : Die) : (s.setDie d x).folio = s.folio := rfl
@[simp] theorem setDie_links (s : State) (d : Nat) (x : Die) : (s.setDie d x).links = s.links := rfl
@[simp] theorem setDie_points (s : State) (d : Nat) (x : Die) : (s.setDie d x).points = s.points := rfl
@[simp] theorem setDie_slices (s : State) (d : Nat) (x : Die) : (s.setDie d x).slices = s.slices := rfl
@[simp] theorem setDie_cores (s : State) (d : Nat) (x : Die) : (s.setDie d x).cores = s.cores := rfl
@[simp] theorem setDie_chans (s : State) (d : Nat) (x : Die) : (s.setDie d x).chans = s.chans := rfl
@[simp] theorem setDie_ports (s : State) (d : Nat) (x : Die) : (s.setDie d x).ports = s.ports := rfl
@[simp] theorem setDie_fns (s : State) (d : Nat) (x : Die) : (s.setDie d x).fns = s.fns := rfl
@[simp] theorem setDie_queues (s : State) (d : Nat) (x : Die) : (s.setDie d x).queues = s.queues := rfl
@[simp] theorem setDie_ledgers (s : State) (d : Nat) (x : Die) : (s.setDie d x).ledgers = s.ledgers := rfl
@[simp] theorem setDie_dram (s : State) (d : Nat) (x : Die) : (s.setDie d x).dram = s.dram := rfl
@[simp] theorem setDie_iod (s : State) (d : Nat) (x : Die) : (s.setDie d x).iod = s.iod := rfl
@[simp] theorem setDie_outbox (s : State) (d : Nat) (x : Die) : (s.setDie d x).outbox = s.outbox := rfl
@[simp] theorem setDie_flips (s : State) (d : Nat) (x : Die) : (s.setDie d x).flips = s.flips := rfl
@[simp] theorem setDie_arc (s : State) (d : Nat) (x : Die) : (s.setDie d x).arc = s.arc := rfl
@[simp] theorem setDie_mgmt (s : State) (d : Nat) (x : Die) : (s.setDie d x).mgmt = s.mgmt := rfl
@[simp] theorem setDie_tap (s : State) (d : Nat) (x : Die) : (s.setDie d x).tap = s.tap := rfl
@[simp] theorem setDie_power (s : State) (d : Nat) (x : Die) : (s.setDie d x).power = s.power := rfl
@[simp] theorem setDie_heat (s : State) (d : Nat) (x : Die) : (s.setDie d x).heat = s.heat := rfl
@[simp] theorem setDie_events (s : State) (d : Nat) (x : Die) : (s.setDie d x).events = s.events := rfl
@[simp] theorem setDie_out (s : State) (d : Nat) (x : Die) : (s.setDie d x).out = s.out := rfl
@[simp] theorem setDie_pending (s : State) (d : Nat) (x : Die) : (s.setDie d x).pending = s.pending := rfl

@[simp] theorem setCore_cycle (s : State) (c : Nat) (x : Core) : (s.setCore c x).cycle = s.cycle := rfl
@[simp] theorem setCore_free (s : State) (c : Nat) (x : Core) : (s.setCore c x).free = s.free := rfl
@[simp] theorem setCore_regs (s : State) (c : Nat) (x : Core) : (s.setCore c x).regs = s.regs := rfl
@[simp] theorem setCore_folio (s : State) (c : Nat) (x : Core) : (s.setCore c x).folio = s.folio := rfl
@[simp] theorem setCore_links (s : State) (c : Nat) (x : Core) : (s.setCore c x).links = s.links := rfl
@[simp] theorem setCore_points (s : State) (c : Nat) (x : Core) : (s.setCore c x).points = s.points := rfl
@[simp] theorem setCore_slices (s : State) (c : Nat) (x : Core) : (s.setCore c x).slices = s.slices := rfl
@[simp] theorem setCore_dies (s : State) (c : Nat) (x : Core) : (s.setCore c x).dies = s.dies := rfl
@[simp] theorem setCore_chans (s : State) (c : Nat) (x : Core) : (s.setCore c x).chans = s.chans := rfl
@[simp] theorem setCore_ports (s : State) (c : Nat) (x : Core) : (s.setCore c x).ports = s.ports := rfl
@[simp] theorem setCore_fns (s : State) (c : Nat) (x : Core) : (s.setCore c x).fns = s.fns := rfl
@[simp] theorem setCore_queues (s : State) (c : Nat) (x : Core) : (s.setCore c x).queues = s.queues := rfl
@[simp] theorem setCore_ledgers (s : State) (c : Nat) (x : Core) : (s.setCore c x).ledgers = s.ledgers := rfl
@[simp] theorem setCore_dram (s : State) (c : Nat) (x : Core) : (s.setCore c x).dram = s.dram := rfl
@[simp] theorem setCore_iod (s : State) (c : Nat) (x : Core) : (s.setCore c x).iod = s.iod := rfl
@[simp] theorem setCore_outbox (s : State) (c : Nat) (x : Core) : (s.setCore c x).outbox = s.outbox := rfl
@[simp] theorem setCore_flips (s : State) (c : Nat) (x : Core) : (s.setCore c x).flips = s.flips := rfl
@[simp] theorem setCore_arc (s : State) (c : Nat) (x : Core) : (s.setCore c x).arc = s.arc := rfl
@[simp] theorem setCore_mgmt (s : State) (c : Nat) (x : Core) : (s.setCore c x).mgmt = s.mgmt := rfl
@[simp] theorem setCore_tap (s : State) (c : Nat) (x : Core) : (s.setCore c x).tap = s.tap := rfl
@[simp] theorem setCore_power (s : State) (c : Nat) (x : Core) : (s.setCore c x).power = s.power := rfl
@[simp] theorem setCore_heat (s : State) (c : Nat) (x : Core) : (s.setCore c x).heat = s.heat := rfl
@[simp] theorem setCore_events (s : State) (c : Nat) (x : Core) : (s.setCore c x).events = s.events := rfl
@[simp] theorem setCore_out (s : State) (c : Nat) (x : Core) : (s.setCore c x).out = s.out := rfl
@[simp] theorem setCore_pending (s : State) (c : Nat) (x : Core) : (s.setCore c x).pending = s.pending := rfl

@[simp] theorem setChan_cycle (s : State) (n : Nat) (x : Chan) : (s.setChan n x).cycle = s.cycle := rfl
@[simp] theorem setChan_free (s : State) (n : Nat) (x : Chan) : (s.setChan n x).free = s.free := rfl
@[simp] theorem setChan_regs (s : State) (n : Nat) (x : Chan) : (s.setChan n x).regs = s.regs := rfl
@[simp] theorem setChan_folio (s : State) (n : Nat) (x : Chan) : (s.setChan n x).folio = s.folio := rfl
@[simp] theorem setChan_links (s : State) (n : Nat) (x : Chan) : (s.setChan n x).links = s.links := rfl
@[simp] theorem setChan_points (s : State) (n : Nat) (x : Chan) : (s.setChan n x).points = s.points := rfl
@[simp] theorem setChan_slices (s : State) (n : Nat) (x : Chan) : (s.setChan n x).slices = s.slices := rfl
@[simp] theorem setChan_dies (s : State) (n : Nat) (x : Chan) : (s.setChan n x).dies = s.dies := rfl
@[simp] theorem setChan_cores (s : State) (n : Nat) (x : Chan) : (s.setChan n x).cores = s.cores := rfl
@[simp] theorem setChan_ports (s : State) (n : Nat) (x : Chan) : (s.setChan n x).ports = s.ports := rfl
@[simp] theorem setChan_fns (s : State) (n : Nat) (x : Chan) : (s.setChan n x).fns = s.fns := rfl
@[simp] theorem setChan_queues (s : State) (n : Nat) (x : Chan) : (s.setChan n x).queues = s.queues := rfl
@[simp] theorem setChan_ledgers (s : State) (n : Nat) (x : Chan) : (s.setChan n x).ledgers = s.ledgers := rfl
@[simp] theorem setChan_dram (s : State) (n : Nat) (x : Chan) : (s.setChan n x).dram = s.dram := rfl
@[simp] theorem setChan_iod (s : State) (n : Nat) (x : Chan) : (s.setChan n x).iod = s.iod := rfl
@[simp] theorem setChan_outbox (s : State) (n : Nat) (x : Chan) : (s.setChan n x).outbox = s.outbox := rfl
@[simp] theorem setChan_flips (s : State) (n : Nat) (x : Chan) : (s.setChan n x).flips = s.flips := rfl
@[simp] theorem setChan_arc (s : State) (n : Nat) (x : Chan) : (s.setChan n x).arc = s.arc := rfl
@[simp] theorem setChan_mgmt (s : State) (n : Nat) (x : Chan) : (s.setChan n x).mgmt = s.mgmt := rfl
@[simp] theorem setChan_tap (s : State) (n : Nat) (x : Chan) : (s.setChan n x).tap = s.tap := rfl
@[simp] theorem setChan_power (s : State) (n : Nat) (x : Chan) : (s.setChan n x).power = s.power := rfl
@[simp] theorem setChan_heat (s : State) (n : Nat) (x : Chan) : (s.setChan n x).heat = s.heat := rfl
@[simp] theorem setChan_events (s : State) (n : Nat) (x : Chan) : (s.setChan n x).events = s.events := rfl
@[simp] theorem setChan_out (s : State) (n : Nat) (x : Chan) : (s.setChan n x).out = s.out := rfl
@[simp] theorem setChan_pending (s : State) (n : Nat) (x : Chan) : (s.setChan n x).pending = s.pending := rfl

@[simp] theorem setPort_cycle (s : State) (p : Nat) (x : Port) : (s.setPort p x).cycle = s.cycle := rfl
@[simp] theorem setPort_free (s : State) (p : Nat) (x : Port) : (s.setPort p x).free = s.free := rfl
@[simp] theorem setPort_regs (s : State) (p : Nat) (x : Port) : (s.setPort p x).regs = s.regs := rfl
@[simp] theorem setPort_folio (s : State) (p : Nat) (x : Port) : (s.setPort p x).folio = s.folio := rfl
@[simp] theorem setPort_links (s : State) (p : Nat) (x : Port) : (s.setPort p x).links = s.links := rfl
@[simp] theorem setPort_points (s : State) (p : Nat) (x : Port) : (s.setPort p x).points = s.points := rfl
@[simp] theorem setPort_slices (s : State) (p : Nat) (x : Port) : (s.setPort p x).slices = s.slices := rfl
@[simp] theorem setPort_dies (s : State) (p : Nat) (x : Port) : (s.setPort p x).dies = s.dies := rfl
@[simp] theorem setPort_cores (s : State) (p : Nat) (x : Port) : (s.setPort p x).cores = s.cores := rfl
@[simp] theorem setPort_chans (s : State) (p : Nat) (x : Port) : (s.setPort p x).chans = s.chans := rfl
@[simp] theorem setPort_fns (s : State) (p : Nat) (x : Port) : (s.setPort p x).fns = s.fns := rfl
@[simp] theorem setPort_queues (s : State) (p : Nat) (x : Port) : (s.setPort p x).queues = s.queues := rfl
@[simp] theorem setPort_ledgers (s : State) (p : Nat) (x : Port) : (s.setPort p x).ledgers = s.ledgers := rfl
@[simp] theorem setPort_dram (s : State) (p : Nat) (x : Port) : (s.setPort p x).dram = s.dram := rfl
@[simp] theorem setPort_iod (s : State) (p : Nat) (x : Port) : (s.setPort p x).iod = s.iod := rfl
@[simp] theorem setPort_outbox (s : State) (p : Nat) (x : Port) : (s.setPort p x).outbox = s.outbox := rfl
@[simp] theorem setPort_flips (s : State) (p : Nat) (x : Port) : (s.setPort p x).flips = s.flips := rfl
@[simp] theorem setPort_arc (s : State) (p : Nat) (x : Port) : (s.setPort p x).arc = s.arc := rfl
@[simp] theorem setPort_mgmt (s : State) (p : Nat) (x : Port) : (s.setPort p x).mgmt = s.mgmt := rfl
@[simp] theorem setPort_tap (s : State) (p : Nat) (x : Port) : (s.setPort p x).tap = s.tap := rfl
@[simp] theorem setPort_power (s : State) (p : Nat) (x : Port) : (s.setPort p x).power = s.power := rfl
@[simp] theorem setPort_heat (s : State) (p : Nat) (x : Port) : (s.setPort p x).heat = s.heat := rfl
@[simp] theorem setPort_events (s : State) (p : Nat) (x : Port) : (s.setPort p x).events = s.events := rfl
@[simp] theorem setPort_out (s : State) (p : Nat) (x : Port) : (s.setPort p x).out = s.out := rfl
@[simp] theorem setPort_pending (s : State) (p : Nat) (x : Port) : (s.setPort p x).pending = s.pending := rfl

@[simp] theorem setFn_cycle (s : State) (f : FnId) (x : Fn) : (s.setFn f x).cycle = s.cycle := rfl
@[simp] theorem setFn_free (s : State) (f : FnId) (x : Fn) : (s.setFn f x).free = s.free := rfl
@[simp] theorem setFn_regs (s : State) (f : FnId) (x : Fn) : (s.setFn f x).regs = s.regs := rfl
@[simp] theorem setFn_folio (s : State) (f : FnId) (x : Fn) : (s.setFn f x).folio = s.folio := rfl
@[simp] theorem setFn_links (s : State) (f : FnId) (x : Fn) : (s.setFn f x).links = s.links := rfl
@[simp] theorem setFn_points (s : State) (f : FnId) (x : Fn) : (s.setFn f x).points = s.points := rfl
@[simp] theorem setFn_slices (s : State) (f : FnId) (x : Fn) : (s.setFn f x).slices = s.slices := rfl
@[simp] theorem setFn_dies (s : State) (f : FnId) (x : Fn) : (s.setFn f x).dies = s.dies := rfl
@[simp] theorem setFn_cores (s : State) (f : FnId) (x : Fn) : (s.setFn f x).cores = s.cores := rfl
@[simp] theorem setFn_chans (s : State) (f : FnId) (x : Fn) : (s.setFn f x).chans = s.chans := rfl
@[simp] theorem setFn_ports (s : State) (f : FnId) (x : Fn) : (s.setFn f x).ports = s.ports := rfl
@[simp] theorem setFn_queues (s : State) (f : FnId) (x : Fn) : (s.setFn f x).queues = s.queues := rfl
@[simp] theorem setFn_ledgers (s : State) (f : FnId) (x : Fn) : (s.setFn f x).ledgers = s.ledgers := rfl
@[simp] theorem setFn_dram (s : State) (f : FnId) (x : Fn) : (s.setFn f x).dram = s.dram := rfl
@[simp] theorem setFn_iod (s : State) (f : FnId) (x : Fn) : (s.setFn f x).iod = s.iod := rfl
@[simp] theorem setFn_outbox (s : State) (f : FnId) (x : Fn) : (s.setFn f x).outbox = s.outbox := rfl
@[simp] theorem setFn_flips (s : State) (f : FnId) (x : Fn) : (s.setFn f x).flips = s.flips := rfl
@[simp] theorem setFn_arc (s : State) (f : FnId) (x : Fn) : (s.setFn f x).arc = s.arc := rfl
@[simp] theorem setFn_mgmt (s : State) (f : FnId) (x : Fn) : (s.setFn f x).mgmt = s.mgmt := rfl
@[simp] theorem setFn_tap (s : State) (f : FnId) (x : Fn) : (s.setFn f x).tap = s.tap := rfl
@[simp] theorem setFn_power (s : State) (f : FnId) (x : Fn) : (s.setFn f x).power = s.power := rfl
@[simp] theorem setFn_heat (s : State) (f : FnId) (x : Fn) : (s.setFn f x).heat = s.heat := rfl
@[simp] theorem setFn_events (s : State) (f : FnId) (x : Fn) : (s.setFn f x).events = s.events := rfl
@[simp] theorem setFn_out (s : State) (f : FnId) (x : Fn) : (s.setFn f x).out = s.out := rfl
@[simp] theorem setFn_pending (s : State) (f : FnId) (x : Fn) : (s.setFn f x).pending = s.pending := rfl

@[simp] theorem setQueue_cycle (s : State) (f : FnId) (q : Nat) (x : Queue) : (s.setQueue f q x).cycle = s.cycle := rfl
@[simp] theorem setQueue_free (s : State) (f : FnId) (q : Nat) (x : Queue) : (s.setQueue f q x).free = s.free := rfl
@[simp] theorem setQueue_regs (s : State) (f : FnId) (q : Nat) (x : Queue) : (s.setQueue f q x).regs = s.regs := rfl
@[simp] theorem setQueue_folio (s : State) (f : FnId) (q : Nat) (x : Queue) : (s.setQueue f q x).folio = s.folio := rfl
@[simp] theorem setQueue_links (s : State) (f : FnId) (q : Nat) (x : Queue) : (s.setQueue f q x).links = s.links := rfl
@[simp] theorem setQueue_points (s : State) (f : FnId) (q : Nat) (x : Queue) : (s.setQueue f q x).points = s.points := rfl
@[simp] theorem setQueue_slices (s : State) (f : FnId) (q : Nat) (x : Queue) : (s.setQueue f q x).slices = s.slices := rfl
@[simp] theorem setQueue_dies (s : State) (f : FnId) (q : Nat) (x : Queue) : (s.setQueue f q x).dies = s.dies := rfl
@[simp] theorem setQueue_cores (s : State) (f : FnId) (q : Nat) (x : Queue) : (s.setQueue f q x).cores = s.cores := rfl
@[simp] theorem setQueue_chans (s : State) (f : FnId) (q : Nat) (x : Queue) : (s.setQueue f q x).chans = s.chans := rfl
@[simp] theorem setQueue_ports (s : State) (f : FnId) (q : Nat) (x : Queue) : (s.setQueue f q x).ports = s.ports := rfl
@[simp] theorem setQueue_fns (s : State) (f : FnId) (q : Nat) (x : Queue) : (s.setQueue f q x).fns = s.fns := rfl
@[simp] theorem setQueue_ledgers (s : State) (f : FnId) (q : Nat) (x : Queue) : (s.setQueue f q x).ledgers = s.ledgers := rfl
@[simp] theorem setQueue_dram (s : State) (f : FnId) (q : Nat) (x : Queue) : (s.setQueue f q x).dram = s.dram := rfl
@[simp] theorem setQueue_iod (s : State) (f : FnId) (q : Nat) (x : Queue) : (s.setQueue f q x).iod = s.iod := rfl
@[simp] theorem setQueue_outbox (s : State) (f : FnId) (q : Nat) (x : Queue) : (s.setQueue f q x).outbox = s.outbox := rfl
@[simp] theorem setQueue_flips (s : State) (f : FnId) (q : Nat) (x : Queue) : (s.setQueue f q x).flips = s.flips := rfl
@[simp] theorem setQueue_arc (s : State) (f : FnId) (q : Nat) (x : Queue) : (s.setQueue f q x).arc = s.arc := rfl
@[simp] theorem setQueue_mgmt (s : State) (f : FnId) (q : Nat) (x : Queue) : (s.setQueue f q x).mgmt = s.mgmt := rfl
@[simp] theorem setQueue_tap (s : State) (f : FnId) (q : Nat) (x : Queue) : (s.setQueue f q x).tap = s.tap := rfl
@[simp] theorem setQueue_power (s : State) (f : FnId) (q : Nat) (x : Queue) : (s.setQueue f q x).power = s.power := rfl
@[simp] theorem setQueue_heat (s : State) (f : FnId) (q : Nat) (x : Queue) : (s.setQueue f q x).heat = s.heat := rfl
@[simp] theorem setQueue_events (s : State) (f : FnId) (q : Nat) (x : Queue) : (s.setQueue f q x).events = s.events := rfl
@[simp] theorem setQueue_out (s : State) (f : FnId) (q : Nat) (x : Queue) : (s.setQueue f q x).out = s.out := rfl
@[simp] theorem setQueue_pending (s : State) (f : FnId) (q : Nat) (x : Queue) : (s.setQueue f q x).pending = s.pending := rfl

@[simp] theorem setLedger_cycle (s : State) (h : Nat) (x : Ledger) : (s.setLedger h x).cycle = s.cycle := rfl
@[simp] theorem setLedger_free (s : State) (h : Nat) (x : Ledger) : (s.setLedger h x).free = s.free := rfl
@[simp] theorem setLedger_regs (s : State) (h : Nat) (x : Ledger) : (s.setLedger h x).regs = s.regs := rfl
@[simp] theorem setLedger_folio (s : State) (h : Nat) (x : Ledger) : (s.setLedger h x).folio = s.folio := rfl
@[simp] theorem setLedger_links (s : State) (h : Nat) (x : Ledger) : (s.setLedger h x).links = s.links := rfl
@[simp] theorem setLedger_points (s : State) (h : Nat) (x : Ledger) : (s.setLedger h x).points = s.points := rfl
@[simp] theorem setLedger_slices (s : State) (h : Nat) (x : Ledger) : (s.setLedger h x).slices = s.slices := rfl
@[simp] theorem setLedger_dies (s : State) (h : Nat) (x : Ledger) : (s.setLedger h x).dies = s.dies := rfl
@[simp] theorem setLedger_cores (s : State) (h : Nat) (x : Ledger) : (s.setLedger h x).cores = s.cores := rfl
@[simp] theorem setLedger_chans (s : State) (h : Nat) (x : Ledger) : (s.setLedger h x).chans = s.chans := rfl
@[simp] theorem setLedger_ports (s : State) (h : Nat) (x : Ledger) : (s.setLedger h x).ports = s.ports := rfl
@[simp] theorem setLedger_fns (s : State) (h : Nat) (x : Ledger) : (s.setLedger h x).fns = s.fns := rfl
@[simp] theorem setLedger_queues (s : State) (h : Nat) (x : Ledger) : (s.setLedger h x).queues = s.queues := rfl
@[simp] theorem setLedger_dram (s : State) (h : Nat) (x : Ledger) : (s.setLedger h x).dram = s.dram := rfl
@[simp] theorem setLedger_iod (s : State) (h : Nat) (x : Ledger) : (s.setLedger h x).iod = s.iod := rfl
@[simp] theorem setLedger_outbox (s : State) (h : Nat) (x : Ledger) : (s.setLedger h x).outbox = s.outbox := rfl
@[simp] theorem setLedger_flips (s : State) (h : Nat) (x : Ledger) : (s.setLedger h x).flips = s.flips := rfl
@[simp] theorem setLedger_arc (s : State) (h : Nat) (x : Ledger) : (s.setLedger h x).arc = s.arc := rfl
@[simp] theorem setLedger_mgmt (s : State) (h : Nat) (x : Ledger) : (s.setLedger h x).mgmt = s.mgmt := rfl
@[simp] theorem setLedger_tap (s : State) (h : Nat) (x : Ledger) : (s.setLedger h x).tap = s.tap := rfl
@[simp] theorem setLedger_power (s : State) (h : Nat) (x : Ledger) : (s.setLedger h x).power = s.power := rfl
@[simp] theorem setLedger_heat (s : State) (h : Nat) (x : Ledger) : (s.setLedger h x).heat = s.heat := rfl
@[simp] theorem setLedger_events (s : State) (h : Nat) (x : Ledger) : (s.setLedger h x).events = s.events := rfl
@[simp] theorem setLedger_out (s : State) (h : Nat) (x : Ledger) : (s.setLedger h x).out = s.out := rfl
@[simp] theorem setLedger_pending (s : State) (h : Nat) (x : Ledger) : (s.setLedger h x).pending = s.pending := rfl

@[simp] theorem emit_cycle (s : State) (o : Outward) : (s.emit o).cycle = s.cycle := rfl
@[simp] theorem emit_free (s : State) (o : Outward) : (s.emit o).free = s.free := rfl
@[simp] theorem emit_regs (s : State) (o : Outward) : (s.emit o).regs = s.regs := rfl
@[simp] theorem emit_folio (s : State) (o : Outward) : (s.emit o).folio = s.folio := rfl
@[simp] theorem emit_links (s : State) (o : Outward) : (s.emit o).links = s.links := rfl
@[simp] theorem emit_points (s : State) (o : Outward) : (s.emit o).points = s.points := rfl
@[simp] theorem emit_slices (s : State) (o : Outward) : (s.emit o).slices = s.slices := rfl
@[simp] theorem emit_dies (s : State) (o : Outward) : (s.emit o).dies = s.dies := rfl
@[simp] theorem emit_cores (s : State) (o : Outward) : (s.emit o).cores = s.cores := rfl
@[simp] theorem emit_chans (s : State) (o : Outward) : (s.emit o).chans = s.chans := rfl
@[simp] theorem emit_ports (s : State) (o : Outward) : (s.emit o).ports = s.ports := rfl
@[simp] theorem emit_fns (s : State) (o : Outward) : (s.emit o).fns = s.fns := rfl
@[simp] theorem emit_queues (s : State) (o : Outward) : (s.emit o).queues = s.queues := rfl
@[simp] theorem emit_ledgers (s : State) (o : Outward) : (s.emit o).ledgers = s.ledgers := rfl
@[simp] theorem emit_dram (s : State) (o : Outward) : (s.emit o).dram = s.dram := rfl
@[simp] theorem emit_iod (s : State) (o : Outward) : (s.emit o).iod = s.iod := rfl
@[simp] theorem emit_outbox (s : State) (o : Outward) : (s.emit o).outbox = s.outbox := rfl
@[simp] theorem emit_flips (s : State) (o : Outward) : (s.emit o).flips = s.flips := rfl
@[simp] theorem emit_arc (s : State) (o : Outward) : (s.emit o).arc = s.arc := rfl
@[simp] theorem emit_mgmt (s : State) (o : Outward) : (s.emit o).mgmt = s.mgmt := rfl
@[simp] theorem emit_tap (s : State) (o : Outward) : (s.emit o).tap = s.tap := rfl
@[simp] theorem emit_power (s : State) (o : Outward) : (s.emit o).power = s.power := rfl
@[simp] theorem emit_heat (s : State) (o : Outward) : (s.emit o).heat = s.heat := rfl
@[simp] theorem emit_events (s : State) (o : Outward) : (s.emit o).events = s.events := rfl
@[simp] theorem emit_pending (s : State) (o : Outward) : (s.emit o).pending = s.pending := rfl

@[simp] theorem countEv_cycle (s : State) (u e n : Nat) : (s.countEv u e n).cycle = s.cycle := rfl
@[simp] theorem countEv_free (s : State) (u e n : Nat) : (s.countEv u e n).free = s.free := rfl
@[simp] theorem countEv_regs (s : State) (u e n : Nat) : (s.countEv u e n).regs = s.regs := rfl
@[simp] theorem countEv_folio (s : State) (u e n : Nat) : (s.countEv u e n).folio = s.folio := rfl
@[simp] theorem countEv_links (s : State) (u e n : Nat) : (s.countEv u e n).links = s.links := rfl
@[simp] theorem countEv_points (s : State) (u e n : Nat) : (s.countEv u e n).points = s.points := rfl
@[simp] theorem countEv_slices (s : State) (u e n : Nat) : (s.countEv u e n).slices = s.slices := rfl
@[simp] theorem countEv_dies (s : State) (u e n : Nat) : (s.countEv u e n).dies = s.dies := rfl
@[simp] theorem countEv_cores (s : State) (u e n : Nat) : (s.countEv u e n).cores = s.cores := rfl
@[simp] theorem countEv_chans (s : State) (u e n : Nat) : (s.countEv u e n).chans = s.chans := rfl
@[simp] theorem countEv_ports (s : State) (u e n : Nat) : (s.countEv u e n).ports = s.ports := rfl
@[simp] theorem countEv_fns (s : State) (u e n : Nat) : (s.countEv u e n).fns = s.fns := rfl
@[simp] theorem countEv_queues (s : State) (u e n : Nat) : (s.countEv u e n).queues = s.queues := rfl
@[simp] theorem countEv_ledgers (s : State) (u e n : Nat) : (s.countEv u e n).ledgers = s.ledgers := rfl
@[simp] theorem countEv_dram (s : State) (u e n : Nat) : (s.countEv u e n).dram = s.dram := rfl
@[simp] theorem countEv_iod (s : State) (u e n : Nat) : (s.countEv u e n).iod = s.iod := rfl
@[simp] theorem countEv_outbox (s : State) (u e n : Nat) : (s.countEv u e n).outbox = s.outbox := rfl
@[simp] theorem countEv_flips (s : State) (u e n : Nat) : (s.countEv u e n).flips = s.flips := rfl
@[simp] theorem countEv_arc (s : State) (u e n : Nat) : (s.countEv u e n).arc = s.arc := rfl
@[simp] theorem countEv_mgmt (s : State) (u e n : Nat) : (s.countEv u e n).mgmt = s.mgmt := rfl
@[simp] theorem countEv_tap (s : State) (u e n : Nat) : (s.countEv u e n).tap = s.tap := rfl
@[simp] theorem countEv_power (s : State) (u e n : Nat) : (s.countEv u e n).power = s.power := rfl
@[simp] theorem countEv_heat (s : State) (u e n : Nat) : (s.countEv u e n).heat = s.heat := rfl
@[simp] theorem countEv_out (s : State) (u e n : Nat) : (s.countEv u e n).out = s.out := rfl
@[simp] theorem countEv_pending (s : State) (u e n : Nat) : (s.countEv u e n).pending = s.pending := rfl

/-! ### Reads of other units -/

@[simp] theorem link_wr (s : State) (r : Reg) (w : Word) (y : Nat) (z : Dir) : (s.wr r w).link y z = s.link y z := rfl
@[simp] theorem point_wr (s : State) (r : Reg) (w : Word) (y : Nat) : (s.wr r w).point y = s.point y := rfl
@[simp] theorem slice_wr (s : State) (r : Reg) (w : Word) (y : Nat) : (s.wr r w).slice y = s.slice y := rfl
@[simp] theorem die_wr (s : State) (r : Reg) (w : Word) (y : Nat) : (s.wr r w).die y = s.die y := rfl
@[simp] theorem core_wr (s : State) (r : Reg) (w : Word) (y : Nat) : (s.wr r w).core y = s.core y := rfl
@[simp] theorem chan_wr (s : State) (r : Reg) (w : Word) (y : Nat) : (s.wr r w).chan y = s.chan y := rfl
@[simp] theorem port_wr (s : State) (r : Reg) (w : Word) (y : Nat) : (s.wr r w).port y = s.port y := rfl
@[simp] theorem fn_wr (s : State) (r : Reg) (w : Word) (y : FnId) : (s.wr r w).fn y = s.fn y := rfl
@[simp] theorem queue_wr (s : State) (r : Reg) (w : Word) (y : FnId) (z : Nat) : (s.wr r w).queue y z = s.queue y z := rfl
@[simp] theorem ledger_wr (s : State) (r : Reg) (w : Word) (y : Nat) : (s.wr r w).ledger y = s.ledger y := rfl
@[simp] theorem eventCount_wr (s : State) (r : Reg) (w : Word) (y : Nat) (z : Nat) : (s.wr r w).eventCount y z = s.eventCount y z := rfl

@[simp] theorem link_clr (s : State) (r : Reg) (y : Nat) (z : Dir) : (s.clr r).link y z = s.link y z := rfl
@[simp] theorem point_clr (s : State) (r : Reg) (y : Nat) : (s.clr r).point y = s.point y := rfl
@[simp] theorem slice_clr (s : State) (r : Reg) (y : Nat) : (s.clr r).slice y = s.slice y := rfl
@[simp] theorem die_clr (s : State) (r : Reg) (y : Nat) : (s.clr r).die y = s.die y := rfl
@[simp] theorem core_clr (s : State) (r : Reg) (y : Nat) : (s.clr r).core y = s.core y := rfl
@[simp] theorem chan_clr (s : State) (r : Reg) (y : Nat) : (s.clr r).chan y = s.chan y := rfl
@[simp] theorem port_clr (s : State) (r : Reg) (y : Nat) : (s.clr r).port y = s.port y := rfl
@[simp] theorem fn_clr (s : State) (r : Reg) (y : FnId) : (s.clr r).fn y = s.fn y := rfl
@[simp] theorem queue_clr (s : State) (r : Reg) (y : FnId) (z : Nat) : (s.clr r).queue y z = s.queue y z := rfl
@[simp] theorem ledger_clr (s : State) (r : Reg) (y : Nat) : (s.clr r).ledger y = s.ledger y := rfl
@[simp] theorem eventCount_clr (s : State) (r : Reg) (y : Nat) (z : Nat) : (s.clr r).eventCount y z = s.eventCount y z := rfl

@[simp] theorem rd_setLink (s : State) (d : Nat) (r : Dir) (l : Link) (y : Reg) : (s.setLink d r l).rd y = s.rd y := rfl
@[simp] theorem point_setLink (s : State) (d : Nat) (r : Dir) (l : Link) (y : Nat) : (s.setLink d r l).point y = s.point y := rfl
@[simp] theorem slice_setLink (s : State) (d : Nat) (r : Dir) (l : Link) (y : Nat) : (s.setLink d r l).slice y = s.slice y := rfl
@[simp] theorem die_setLink (s : State) (d : Nat) (r : Dir) (l : Link) (y : Nat) : (s.setLink d r l).die y = s.die y := rfl
@[simp] theorem core_setLink (s : State) (d : Nat) (r : Dir) (l : Link) (y : Nat) : (s.setLink d r l).core y = s.core y := rfl
@[simp] theorem chan_setLink (s : State) (d : Nat) (r : Dir) (l : Link) (y : Nat) : (s.setLink d r l).chan y = s.chan y := rfl
@[simp] theorem port_setLink (s : State) (d : Nat) (r : Dir) (l : Link) (y : Nat) : (s.setLink d r l).port y = s.port y := rfl
@[simp] theorem fn_setLink (s : State) (d : Nat) (r : Dir) (l : Link) (y : FnId) : (s.setLink d r l).fn y = s.fn y := rfl
@[simp] theorem queue_setLink (s : State) (d : Nat) (r : Dir) (l : Link) (y : FnId) (z : Nat) : (s.setLink d r l).queue y z = s.queue y z := rfl
@[simp] theorem ledger_setLink (s : State) (d : Nat) (r : Dir) (l : Link) (y : Nat) : (s.setLink d r l).ledger y = s.ledger y := rfl
@[simp] theorem eventCount_setLink (s : State) (d : Nat) (r : Dir) (l : Link) (y : Nat) (z : Nat) : (s.setLink d r l).eventCount y z = s.eventCount y z := rfl

@[simp] theorem rd_setPoint (s : State) (p : Nat) (x : Point) (y : Reg) : (s.setPoint p x).rd y = s.rd y := rfl
@[simp] theorem link_setPoint (s : State) (p : Nat) (x : Point) (y : Nat) (z : Dir) : (s.setPoint p x).link y z = s.link y z := rfl
@[simp] theorem slice_setPoint (s : State) (p : Nat) (x : Point) (y : Nat) : (s.setPoint p x).slice y = s.slice y := rfl
@[simp] theorem die_setPoint (s : State) (p : Nat) (x : Point) (y : Nat) : (s.setPoint p x).die y = s.die y := rfl
@[simp] theorem core_setPoint (s : State) (p : Nat) (x : Point) (y : Nat) : (s.setPoint p x).core y = s.core y := rfl
@[simp] theorem chan_setPoint (s : State) (p : Nat) (x : Point) (y : Nat) : (s.setPoint p x).chan y = s.chan y := rfl
@[simp] theorem port_setPoint (s : State) (p : Nat) (x : Point) (y : Nat) : (s.setPoint p x).port y = s.port y := rfl
@[simp] theorem fn_setPoint (s : State) (p : Nat) (x : Point) (y : FnId) : (s.setPoint p x).fn y = s.fn y := rfl
@[simp] theorem queue_setPoint (s : State) (p : Nat) (x : Point) (y : FnId) (z : Nat) : (s.setPoint p x).queue y z = s.queue y z := rfl
@[simp] theorem ledger_setPoint (s : State) (p : Nat) (x : Point) (y : Nat) : (s.setPoint p x).ledger y = s.ledger y := rfl
@[simp] theorem eventCount_setPoint (s : State) (p : Nat) (x : Point) (y : Nat) (z : Nat) : (s.setPoint p x).eventCount y z = s.eventCount y z := rfl

@[simp] theorem rd_setSlice (s : State) (n : Nat) (x : Slice) (y : Reg) : (s.setSlice n x).rd y = s.rd y := rfl
@[simp] theorem link_setSlice (s : State) (n : Nat) (x : Slice) (y : Nat) (z : Dir) : (s.setSlice n x).link y z = s.link y z := rfl
@[simp] theorem point_setSlice (s : State) (n : Nat) (x : Slice) (y : Nat) : (s.setSlice n x).point y = s.point y := rfl
@[simp] theorem die_setSlice (s : State) (n : Nat) (x : Slice) (y : Nat) : (s.setSlice n x).die y = s.die y := rfl
@[simp] theorem core_setSlice (s : State) (n : Nat) (x : Slice) (y : Nat) : (s.setSlice n x).core y = s.core y := rfl
@[simp] theorem chan_setSlice (s : State) (n : Nat) (x : Slice) (y : Nat) : (s.setSlice n x).chan y = s.chan y := rfl
@[simp] theorem port_setSlice (s : State) (n : Nat) (x : Slice) (y : Nat) : (s.setSlice n x).port y = s.port y := rfl
@[simp] theorem fn_setSlice (s : State) (n : Nat) (x : Slice) (y : FnId) : (s.setSlice n x).fn y = s.fn y := rfl
@[simp] theorem queue_setSlice (s : State) (n : Nat) (x : Slice) (y : FnId) (z : Nat) : (s.setSlice n x).queue y z = s.queue y z := rfl
@[simp] theorem ledger_setSlice (s : State) (n : Nat) (x : Slice) (y : Nat) : (s.setSlice n x).ledger y = s.ledger y := rfl
@[simp] theorem eventCount_setSlice (s : State) (n : Nat) (x : Slice) (y : Nat) (z : Nat) : (s.setSlice n x).eventCount y z = s.eventCount y z := rfl

@[simp] theorem rd_setDie (s : State) (d : Nat) (x : Die) (y : Reg) : (s.setDie d x).rd y = s.rd y := rfl
@[simp] theorem link_setDie (s : State) (d : Nat) (x : Die) (y : Nat) (z : Dir) : (s.setDie d x).link y z = s.link y z := rfl
@[simp] theorem point_setDie (s : State) (d : Nat) (x : Die) (y : Nat) : (s.setDie d x).point y = s.point y := rfl
@[simp] theorem slice_setDie (s : State) (d : Nat) (x : Die) (y : Nat) : (s.setDie d x).slice y = s.slice y := rfl
@[simp] theorem core_setDie (s : State) (d : Nat) (x : Die) (y : Nat) : (s.setDie d x).core y = s.core y := rfl
@[simp] theorem chan_setDie (s : State) (d : Nat) (x : Die) (y : Nat) : (s.setDie d x).chan y = s.chan y := rfl
@[simp] theorem port_setDie (s : State) (d : Nat) (x : Die) (y : Nat) : (s.setDie d x).port y = s.port y := rfl
@[simp] theorem fn_setDie (s : State) (d : Nat) (x : Die) (y : FnId) : (s.setDie d x).fn y = s.fn y := rfl
@[simp] theorem queue_setDie (s : State) (d : Nat) (x : Die) (y : FnId) (z : Nat) : (s.setDie d x).queue y z = s.queue y z := rfl
@[simp] theorem ledger_setDie (s : State) (d : Nat) (x : Die) (y : Nat) : (s.setDie d x).ledger y = s.ledger y := rfl
@[simp] theorem eventCount_setDie (s : State) (d : Nat) (x : Die) (y : Nat) (z : Nat) : (s.setDie d x).eventCount y z = s.eventCount y z := rfl

@[simp] theorem rd_setCore (s : State) (c : Nat) (x : Core) (y : Reg) : (s.setCore c x).rd y = s.rd y := rfl
@[simp] theorem link_setCore (s : State) (c : Nat) (x : Core) (y : Nat) (z : Dir) : (s.setCore c x).link y z = s.link y z := rfl
@[simp] theorem point_setCore (s : State) (c : Nat) (x : Core) (y : Nat) : (s.setCore c x).point y = s.point y := rfl
@[simp] theorem slice_setCore (s : State) (c : Nat) (x : Core) (y : Nat) : (s.setCore c x).slice y = s.slice y := rfl
@[simp] theorem die_setCore (s : State) (c : Nat) (x : Core) (y : Nat) : (s.setCore c x).die y = s.die y := rfl
@[simp] theorem chan_setCore (s : State) (c : Nat) (x : Core) (y : Nat) : (s.setCore c x).chan y = s.chan y := rfl
@[simp] theorem port_setCore (s : State) (c : Nat) (x : Core) (y : Nat) : (s.setCore c x).port y = s.port y := rfl
@[simp] theorem fn_setCore (s : State) (c : Nat) (x : Core) (y : FnId) : (s.setCore c x).fn y = s.fn y := rfl
@[simp] theorem queue_setCore (s : State) (c : Nat) (x : Core) (y : FnId) (z : Nat) : (s.setCore c x).queue y z = s.queue y z := rfl
@[simp] theorem ledger_setCore (s : State) (c : Nat) (x : Core) (y : Nat) : (s.setCore c x).ledger y = s.ledger y := rfl
@[simp] theorem eventCount_setCore (s : State) (c : Nat) (x : Core) (y : Nat) (z : Nat) : (s.setCore c x).eventCount y z = s.eventCount y z := rfl

@[simp] theorem rd_setChan (s : State) (n : Nat) (x : Chan) (y : Reg) : (s.setChan n x).rd y = s.rd y := rfl
@[simp] theorem link_setChan (s : State) (n : Nat) (x : Chan) (y : Nat) (z : Dir) : (s.setChan n x).link y z = s.link y z := rfl
@[simp] theorem point_setChan (s : State) (n : Nat) (x : Chan) (y : Nat) : (s.setChan n x).point y = s.point y := rfl
@[simp] theorem slice_setChan (s : State) (n : Nat) (x : Chan) (y : Nat) : (s.setChan n x).slice y = s.slice y := rfl
@[simp] theorem die_setChan (s : State) (n : Nat) (x : Chan) (y : Nat) : (s.setChan n x).die y = s.die y := rfl
@[simp] theorem core_setChan (s : State) (n : Nat) (x : Chan) (y : Nat) : (s.setChan n x).core y = s.core y := rfl
@[simp] theorem port_setChan (s : State) (n : Nat) (x : Chan) (y : Nat) : (s.setChan n x).port y = s.port y := rfl
@[simp] theorem fn_setChan (s : State) (n : Nat) (x : Chan) (y : FnId) : (s.setChan n x).fn y = s.fn y := rfl
@[simp] theorem queue_setChan (s : State) (n : Nat) (x : Chan) (y : FnId) (z : Nat) : (s.setChan n x).queue y z = s.queue y z := rfl
@[simp] theorem ledger_setChan (s : State) (n : Nat) (x : Chan) (y : Nat) : (s.setChan n x).ledger y = s.ledger y := rfl
@[simp] theorem eventCount_setChan (s : State) (n : Nat) (x : Chan) (y : Nat) (z : Nat) : (s.setChan n x).eventCount y z = s.eventCount y z := rfl

@[simp] theorem rd_setPort (s : State) (p : Nat) (x : Port) (y : Reg) : (s.setPort p x).rd y = s.rd y := rfl
@[simp] theorem link_setPort (s : State) (p : Nat) (x : Port) (y : Nat) (z : Dir) : (s.setPort p x).link y z = s.link y z := rfl
@[simp] theorem point_setPort (s : State) (p : Nat) (x : Port) (y : Nat) : (s.setPort p x).point y = s.point y := rfl
@[simp] theorem slice_setPort (s : State) (p : Nat) (x : Port) (y : Nat) : (s.setPort p x).slice y = s.slice y := rfl
@[simp] theorem die_setPort (s : State) (p : Nat) (x : Port) (y : Nat) : (s.setPort p x).die y = s.die y := rfl
@[simp] theorem core_setPort (s : State) (p : Nat) (x : Port) (y : Nat) : (s.setPort p x).core y = s.core y := rfl
@[simp] theorem chan_setPort (s : State) (p : Nat) (x : Port) (y : Nat) : (s.setPort p x).chan y = s.chan y := rfl
@[simp] theorem fn_setPort (s : State) (p : Nat) (x : Port) (y : FnId) : (s.setPort p x).fn y = s.fn y := rfl
@[simp] theorem queue_setPort (s : State) (p : Nat) (x : Port) (y : FnId) (z : Nat) : (s.setPort p x).queue y z = s.queue y z := rfl
@[simp] theorem ledger_setPort (s : State) (p : Nat) (x : Port) (y : Nat) : (s.setPort p x).ledger y = s.ledger y := rfl
@[simp] theorem eventCount_setPort (s : State) (p : Nat) (x : Port) (y : Nat) (z : Nat) : (s.setPort p x).eventCount y z = s.eventCount y z := rfl

@[simp] theorem rd_setFn (s : State) (f : FnId) (x : Fn) (y : Reg) : (s.setFn f x).rd y = s.rd y := rfl
@[simp] theorem link_setFn (s : State) (f : FnId) (x : Fn) (y : Nat) (z : Dir) : (s.setFn f x).link y z = s.link y z := rfl
@[simp] theorem point_setFn (s : State) (f : FnId) (x : Fn) (y : Nat) : (s.setFn f x).point y = s.point y := rfl
@[simp] theorem slice_setFn (s : State) (f : FnId) (x : Fn) (y : Nat) : (s.setFn f x).slice y = s.slice y := rfl
@[simp] theorem die_setFn (s : State) (f : FnId) (x : Fn) (y : Nat) : (s.setFn f x).die y = s.die y := rfl
@[simp] theorem core_setFn (s : State) (f : FnId) (x : Fn) (y : Nat) : (s.setFn f x).core y = s.core y := rfl
@[simp] theorem chan_setFn (s : State) (f : FnId) (x : Fn) (y : Nat) : (s.setFn f x).chan y = s.chan y := rfl
@[simp] theorem port_setFn (s : State) (f : FnId) (x : Fn) (y : Nat) : (s.setFn f x).port y = s.port y := rfl
@[simp] theorem queue_setFn (s : State) (f : FnId) (x : Fn) (y : FnId) (z : Nat) : (s.setFn f x).queue y z = s.queue y z := rfl
@[simp] theorem ledger_setFn (s : State) (f : FnId) (x : Fn) (y : Nat) : (s.setFn f x).ledger y = s.ledger y := rfl
@[simp] theorem eventCount_setFn (s : State) (f : FnId) (x : Fn) (y : Nat) (z : Nat) : (s.setFn f x).eventCount y z = s.eventCount y z := rfl

@[simp] theorem rd_setQueue (s : State) (f : FnId) (q : Nat) (x : Queue) (y : Reg) : (s.setQueue f q x).rd y = s.rd y := rfl
@[simp] theorem link_setQueue (s : State) (f : FnId) (q : Nat) (x : Queue) (y : Nat) (z : Dir) : (s.setQueue f q x).link y z = s.link y z := rfl
@[simp] theorem point_setQueue (s : State) (f : FnId) (q : Nat) (x : Queue) (y : Nat) : (s.setQueue f q x).point y = s.point y := rfl
@[simp] theorem slice_setQueue (s : State) (f : FnId) (q : Nat) (x : Queue) (y : Nat) : (s.setQueue f q x).slice y = s.slice y := rfl
@[simp] theorem die_setQueue (s : State) (f : FnId) (q : Nat) (x : Queue) (y : Nat) : (s.setQueue f q x).die y = s.die y := rfl
@[simp] theorem core_setQueue (s : State) (f : FnId) (q : Nat) (x : Queue) (y : Nat) : (s.setQueue f q x).core y = s.core y := rfl
@[simp] theorem chan_setQueue (s : State) (f : FnId) (q : Nat) (x : Queue) (y : Nat) : (s.setQueue f q x).chan y = s.chan y := rfl
@[simp] theorem port_setQueue (s : State) (f : FnId) (q : Nat) (x : Queue) (y : Nat) : (s.setQueue f q x).port y = s.port y := rfl
@[simp] theorem fn_setQueue (s : State) (f : FnId) (q : Nat) (x : Queue) (y : FnId) : (s.setQueue f q x).fn y = s.fn y := rfl
@[simp] theorem ledger_setQueue (s : State) (f : FnId) (q : Nat) (x : Queue) (y : Nat) : (s.setQueue f q x).ledger y = s.ledger y := rfl
@[simp] theorem eventCount_setQueue (s : State) (f : FnId) (q : Nat) (x : Queue) (y : Nat) (z : Nat) : (s.setQueue f q x).eventCount y z = s.eventCount y z := rfl

@[simp] theorem rd_setLedger (s : State) (h : Nat) (x : Ledger) (y : Reg) : (s.setLedger h x).rd y = s.rd y := rfl
@[simp] theorem link_setLedger (s : State) (h : Nat) (x : Ledger) (y : Nat) (z : Dir) : (s.setLedger h x).link y z = s.link y z := rfl
@[simp] theorem point_setLedger (s : State) (h : Nat) (x : Ledger) (y : Nat) : (s.setLedger h x).point y = s.point y := rfl
@[simp] theorem slice_setLedger (s : State) (h : Nat) (x : Ledger) (y : Nat) : (s.setLedger h x).slice y = s.slice y := rfl
@[simp] theorem die_setLedger (s : State) (h : Nat) (x : Ledger) (y : Nat) : (s.setLedger h x).die y = s.die y := rfl
@[simp] theorem core_setLedger (s : State) (h : Nat) (x : Ledger) (y : Nat) : (s.setLedger h x).core y = s.core y := rfl
@[simp] theorem chan_setLedger (s : State) (h : Nat) (x : Ledger) (y : Nat) : (s.setLedger h x).chan y = s.chan y := rfl
@[simp] theorem port_setLedger (s : State) (h : Nat) (x : Ledger) (y : Nat) : (s.setLedger h x).port y = s.port y := rfl
@[simp] theorem fn_setLedger (s : State) (h : Nat) (x : Ledger) (y : FnId) : (s.setLedger h x).fn y = s.fn y := rfl
@[simp] theorem queue_setLedger (s : State) (h : Nat) (x : Ledger) (y : FnId) (z : Nat) : (s.setLedger h x).queue y z = s.queue y z := rfl
@[simp] theorem eventCount_setLedger (s : State) (h : Nat) (x : Ledger) (y : Nat) (z : Nat) : (s.setLedger h x).eventCount y z = s.eventCount y z := rfl

@[simp] theorem rd_emit (s : State) (o : Outward) (y : Reg) : (s.emit o).rd y = s.rd y := rfl
@[simp] theorem link_emit (s : State) (o : Outward) (y : Nat) (z : Dir) : (s.emit o).link y z = s.link y z := rfl
@[simp] theorem point_emit (s : State) (o : Outward) (y : Nat) : (s.emit o).point y = s.point y := rfl
@[simp] theorem slice_emit (s : State) (o : Outward) (y : Nat) : (s.emit o).slice y = s.slice y := rfl
@[simp] theorem die_emit (s : State) (o : Outward) (y : Nat) : (s.emit o).die y = s.die y := rfl
@[simp] theorem core_emit (s : State) (o : Outward) (y : Nat) : (s.emit o).core y = s.core y := rfl
@[simp] theorem chan_emit (s : State) (o : Outward) (y : Nat) : (s.emit o).chan y = s.chan y := rfl
@[simp] theorem port_emit (s : State) (o : Outward) (y : Nat) : (s.emit o).port y = s.port y := rfl
@[simp] theorem fn_emit (s : State) (o : Outward) (y : FnId) : (s.emit o).fn y = s.fn y := rfl
@[simp] theorem queue_emit (s : State) (o : Outward) (y : FnId) (z : Nat) : (s.emit o).queue y z = s.queue y z := rfl
@[simp] theorem ledger_emit (s : State) (o : Outward) (y : Nat) : (s.emit o).ledger y = s.ledger y := rfl
@[simp] theorem eventCount_emit (s : State) (o : Outward) (y : Nat) (z : Nat) : (s.emit o).eventCount y z = s.eventCount y z := rfl

@[simp] theorem rd_countEv (s : State) (u e n : Nat) (y : Reg) : (s.countEv u e n).rd y = s.rd y := rfl
@[simp] theorem link_countEv (s : State) (u e n : Nat) (y : Nat) (z : Dir) : (s.countEv u e n).link y z = s.link y z := rfl
@[simp] theorem point_countEv (s : State) (u e n : Nat) (y : Nat) : (s.countEv u e n).point y = s.point y := rfl
@[simp] theorem slice_countEv (s : State) (u e n : Nat) (y : Nat) : (s.countEv u e n).slice y = s.slice y := rfl
@[simp] theorem die_countEv (s : State) (u e n : Nat) (y : Nat) : (s.countEv u e n).die y = s.die y := rfl
@[simp] theorem core_countEv (s : State) (u e n : Nat) (y : Nat) : (s.countEv u e n).core y = s.core y := rfl
@[simp] theorem chan_countEv (s : State) (u e n : Nat) (y : Nat) : (s.countEv u e n).chan y = s.chan y := rfl
@[simp] theorem port_countEv (s : State) (u e n : Nat) (y : Nat) : (s.countEv u e n).port y = s.port y := rfl
@[simp] theorem fn_countEv (s : State) (u e n : Nat) (y : FnId) : (s.countEv u e n).fn y = s.fn y := rfl
@[simp] theorem queue_countEv (s : State) (u e n : Nat) (y : FnId) (z : Nat) : (s.countEv u e n).queue y z = s.queue y z := rfl
@[simp] theorem ledger_countEv (s : State) (u e n : Nat) (y : Nat) : (s.countEv u e n).ledger y = s.ledger y := rfl

/-! ### Read after write -/

@[simp] theorem rd_wr_self (s : State) (r : Reg) (w : Word) : (s.wr r w).rd r = w := by simp [rd, wr]

@[simp] theorem rd_clr_self (s : State) (r : Reg) : (s.clr r).rd r = r.reset := by simp [rd, clr]

theorem rd_clr_ne (s : State) (r q : Reg) (h : q.key ≠ r.key) : (s.clr r).rd q = s.rd q := by
  simp [rd, clr, NMap.get?_erase_ne _ _ _ h]

theorem rd_wr_ne (s : State) (r q : Reg) (w : Word) (h : q.key ≠ r.key) : (s.wr r w).rd q = s.rd q := by
  simp [rd, wr, NMap.get?_set_ne _ _ _ _ h]

@[simp] theorem point_setPoint_self (s : State) (p : Nat) (x : Point) : (s.setPoint p x).point p = x := by simp [point, setPoint]
theorem point_setPoint_ne (s : State) (p : Nat) (x : Point) (k : Nat) (hne : k ≠ p) : (s.setPoint p x).point k = s.point k := by
  simp [point, setPoint, NMap.getD_set_ne _ _ _ _ _ hne]

@[simp] theorem slice_setSlice_self (s : State) (n : Nat) (x : Slice) : (s.setSlice n x).slice n = x := by simp [slice, setSlice]
theorem slice_setSlice_ne (s : State) (n : Nat) (x : Slice) (k : Nat) (hne : k ≠ n) : (s.setSlice n x).slice k = s.slice k := by
  simp [slice, setSlice, NMap.getD_set_ne _ _ _ _ _ hne]

@[simp] theorem die_setDie_self (s : State) (d : Nat) (x : Die) : (s.setDie d x).die d = x := by simp [die, setDie]
theorem die_setDie_ne (s : State) (d : Nat) (x : Die) (k : Nat) (hne : k ≠ d) : (s.setDie d x).die k = s.die k := by
  simp [die, setDie, NMap.getD_set_ne _ _ _ _ _ hne]

@[simp] theorem core_setCore_self (s : State) (c : Nat) (x : Core) : (s.setCore c x).core c = x := by simp [core, setCore]
theorem core_setCore_ne (s : State) (c : Nat) (x : Core) (k : Nat) (hne : k ≠ c) : (s.setCore c x).core k = s.core k := by
  simp [core, setCore, NMap.getD_set_ne _ _ _ _ _ hne]

@[simp] theorem chan_setChan_self (s : State) (n : Nat) (x : Chan) : (s.setChan n x).chan n = x := by simp [chan, setChan]
theorem chan_setChan_ne (s : State) (n : Nat) (x : Chan) (k : Nat) (hne : k ≠ n) : (s.setChan n x).chan k = s.chan k := by
  simp [chan, setChan, NMap.getD_set_ne _ _ _ _ _ hne]

@[simp] theorem port_setPort_self (s : State) (p : Nat) (x : Port) : (s.setPort p x).port p = x := by simp [port, setPort]
theorem port_setPort_ne (s : State) (p : Nat) (x : Port) (k : Nat) (hne : k ≠ p) : (s.setPort p x).port k = s.port k := by
  simp [port, setPort, NMap.getD_set_ne _ _ _ _ _ hne]

@[simp] theorem ledger_setLedger_self (s : State) (h : Nat) (x : Ledger) : (s.setLedger h x).ledger h = x := by simp [ledger, setLedger]
theorem ledger_setLedger_ne (s : State) (h : Nat) (x : Ledger) (k : Nat) (hne : k ≠ h) : (s.setLedger h x).ledger k = s.ledger k := by
  simp [ledger, setLedger, NMap.getD_set_ne _ _ _ _ _ hne]

@[simp] theorem link_setLink_self (s : State) (d : Nat) (r : Dir) (l : Link) : (s.setLink d r l).link d r = l := by
  simp [link, setLink]
theorem link_setLink_ne (s : State) (d e : Nat) (r q : Dir) (l : Link) (h : linkKey e q ≠ linkKey d r) :
    (s.setLink d r l).link e q = s.link e q := by
  simp [link, setLink, NMap.getD_set_ne _ _ _ _ _ h]

@[simp] theorem fn_setFn_self (s : State) (f : FnId) (x : Fn) : (s.setFn f x).fn f = x := by simp [fn, setFn]
theorem fn_setFn_ne (s : State) (f g : FnId) (x : Fn) (h : g.key ≠ f.key) : (s.setFn f x).fn g = s.fn g := by
  simp [fn, setFn, NMap.getD_set_ne _ _ _ _ _ h]

@[simp] theorem queue_setQueue_self (s : State) (f : FnId) (q : Nat) (x : Queue) : (s.setQueue f q x).queue f q = x := by
  simp [queue, setQueue]
theorem queue_setQueue_ne (s : State) (f g : FnId) (q k : Nat) (x : Queue) (h : g.key * 16 + k ≠ f.key * 16 + q) :
    (s.setQueue f q x).queue g k = s.queue g k := by
  simp [queue, setQueue, NMap.getD_set_ne _ _ _ _ _ h]

theorem countBlk_eq (s : State) (b e n : Nat) : s.countBlk b e n = s.countEv (0x1000 + b) e n := rfl

@[simp] theorem countEv_zero (s : State) (u e : Nat) : s.countEv u e 0 = s := rfl

@[simp] theorem eventCount_countEv_self (s : State) (u e n : Nat) : (s.countEv u e n).eventCount u e = s.eventCount u e + n := by
  by_cases h : n = 0 <;> simp [eventCount, countEv, h]

theorem eventCount_countEv_ne (s : State) (u e n v k : Nat) (h : v * 2 ^ 16 + k ≠ u * 2 ^ 16 + e) :
    (s.countEv u e n).eventCount v k = s.eventCount v k := by
  by_cases hn : n = 0
  · simp [eventCount, countEv, hn]
  · simp only [eventCount, countEv, hn, if_false]
    exact NMap.getD_set_ne _ _ _ _ _ h

end State

/-! ### Fields of words -/

/-- What a field reads after it was put: the value cut to its width. -/
theorem Fld.get_put_le (f : Fld) (w : Word) (n : Nat) (hl : f.lo ≤ f.hi) (hh : f.hi < 64) :
    f.get (f.put w n) = n % 2 ^ (f.hi - f.lo + 1) := by
  apply Nat.eq_of_testBit_eq
  intro i
  have hi : f.hi - f.lo + 1 + f.lo = f.hi + 1 := by omega
  simp only [Fld.get, Nat.testBit_mod_two_pow, Nat.testBit_shiftRight]
  by_cases h : i < f.hi - f.lo + 1
  · have h64 : f.lo + i < 64 := by omega
    have hm : f.mask.getLsbD (f.lo + i) = true := by
      simp only [Fld.mask, BitVec.getLsbD_ofNat, Nat.testBit_shiftLeft, Nat.testBit_two_pow_sub_one]
      simp [h64, h]
    have hv : (f.put w n).toNat.testBit (f.lo + i) = n.testBit i := by
      rw [BitVec.testBit_toNat]
      simp only [Fld.put, BitVec.getLsbD_or, BitVec.getLsbD_and, BitVec.getLsbD_not, hm]
      simp only [BitVec.getLsbD_ofNat, Nat.testBit_shiftLeft, h64]
      simp
    simp [h, hv]
  · simp [h]

end Sys2Proof.Machine
end

