-- ==== Sys2Proof/Laws/Memory.lean ====
section
/-! SUPPORT. The canonical form of the memory: what it means as a property of every cell and pair of cells, and that each operation on the
memory keeps it. -/

namespace Sys2Proof.Machine

/-- The canonical form: the addresses rise, and no cell holds what an unlisted one reads as. -/
theorem Memory.wf_iff (m : Dram) :
    Memory.wf m = true ↔ m.Pairwise (fun a b => a.1 < b.1) ∧ ∀ c ∈ m, c.2 ≠ cellDefault c.1 := by
  induction m with
  | nil => simp [Memory.wf]
  | cons c t ih =>
    cases t with
    | nil => simp [Memory.wf]
    | cons d u =>
      simp only [Memory.wf, Bool.and_eq_true, bne_iff_ne, decide_eq_true_eq, ih]
      constructor
      · rintro ⟨⟨hc, hcd⟩, hp, hv⟩
        refine ⟨List.pairwise_cons.mpr ⟨fun x hx => ?_, hp⟩, ?_⟩
        · rcases List.mem_cons.mp hx with rfl | hx
          · exact hcd
          · exact hcd.trans ((List.pairwise_cons.mp hp).1 x hx)
        · intro x hx
          rcases List.mem_cons.mp hx with rfl | hx
          · exact hc
          · exact hv x hx
      · rintro ⟨hp, hv⟩
        exact ⟨⟨hv c (by simp), (List.pairwise_cons.mp hp).1 d (by simp)⟩, (List.pairwise_cons.mp hp).2,
          fun x hx => hv x (List.mem_cons_of_mem _ hx)⟩

/-- The empty memory, that of reset, is canonical. -/
@[simp] theorem Memory.wf_nil : Memory.wf [] = true := rfl

/-- Forgetting cells keeps the form. -/
theorem Memory.wf_filter (p : Host.Cell → Bool) {m : Dram} (h : Memory.wf m = true) : Memory.wf (m.filter p) = true := by
  rw [Memory.wf_iff] at h ⊢
  exact ⟨h.1.filter p, fun c hc => h.2 c (List.mem_filter.mp hc).1⟩

/-- The cells of one stored line lie in its 80 addresses. -/
theorem runOf_range {key : Nat} {raw : BitVec 640} {c : Host.Cell} (hc : c ∈ runOf key raw) :
    80 * key ≤ c.1 ∧ c.1 < 80 * key + 80 := by
  obtain ⟨i, hi, rfl⟩ := List.mem_map.mp (List.mem_filter.mp hc).1
  have := List.mem_range.mp hi
  exact ⟨by simp, by simpa using this⟩

/-- The cells of one stored line are in canonical form. -/
theorem Memory.wf_runOf (key : Nat) (raw : BitVec 640) : Memory.wf (runOf key raw) = true := by
  rw [Memory.wf_iff]
  refine ⟨List.Pairwise.filter _ (List.pairwise_map.mpr ?_), fun c hc => by simpa using (List.mem_filter.mp hc).2⟩
  exact List.pairwise_lt_range.imp (fun h => by simpa using h)

/-- Storing a line keeps the form. -/
theorem Memory.wf_setRaw {m : Dram} (key : Nat) (raw : BitVec 640) (h : Memory.wf m = true) :
    Memory.wf (setRaw m key raw) = true := by
  have h1 := (Memory.wf_iff _).mp (Memory.wf_filter (fun c => decide (c.1 < 80 * key)) h)
  have h2 := (Memory.wf_iff _).mp (Memory.wf_runOf key raw)
  have h3 := (Memory.wf_iff _).mp (Memory.wf_filter (fun c => decide (80 * key + 80 ≤ c.1)) h)
  have lo : ∀ c ∈ m.filter (fun c => decide (c.1 < 80 * key)), c.1 < 80 * key := fun c hc => by
    simpa using (List.mem_filter.mp hc).2
  have hi : ∀ c ∈ m.filter (fun c => decide (80 * key + 80 ≤ c.1)), 80 * key + 80 ≤ c.1 := fun c hc => by
    simpa using (List.mem_filter.mp hc).2
  rw [setRaw, Memory.wf_iff]
  constructor
  · refine List.pairwise_append.mpr ⟨List.pairwise_append.mpr ⟨h1.1, h2.1, ?_⟩, h3.1, ?_⟩
    · intro a ha b hb
      have := lo a ha
      have := (runOf_range hb).1
      omega
    · intro a ha b hb
      have hb' := hi b hb
      rcases List.mem_append.mp ha with ha | ha
      · have := lo a ha
        omega
      · have := (runOf_range ha).2
        omega
  · intro c hc
    rcases List.mem_append.mp hc with hc | hc
    · rcases List.mem_append.mp hc with hc | hc
      · exact h1.2 c hc
      · exact h2.2 c hc
    · exact h3.2 c hc

/-- The memory of the state after reset is canonical. -/
theorem Memory.wf_reset : Memory.wf State.reset.dram = true := rfl

end Sys2Proof.Machine
end

