-- ==== Sys2Proof/WellFormed.lean ====
section
/-! DEFINITION. Well-formed commands: the ranges of the operands that their types do not fix already. A meaning is total and does
not ask for them; they say which commands the hardware can be given. -/

namespace Sys2Proof

/-- A message whose fields fit its header: 64 hands, 46-bit line numbers, requesters 0 to 26 of a point, 16 dies (R96, R215). -/
def Msg.wf (m : Msg) : Bool :=
  decide (m.hand < 64) && decide (m.line < 2 ^ 46) && decide (m.agent < 27) && decide (m.die < 16)

/-- A line number of the physical address space (R16). -/
def lineWf (l : Nat) : Bool := decide (l < 2 ^ 46)

/-- A scalar access of 1, 2, 4 or 8 bytes; a floating-point register takes no single byte; a vector element lies in a group of
at most eight registers of 64 bytes (R120). -/
def accessWf (r : DataReg) (n : Nat) : Bool :=
  match r with
  | .x _ => n == 1 || n == 2 || n == 4 || n == 8
  | .f _ => n == 2 || n == 4 || n == 8
  | .v e => (n == 1 || n == 2 || n == 4 || n == 8) && decide ((e.idx + 1) * n ≤ 512)

/-- An atomic of 4 or 8 bytes (R121). -/
def AmoOp.wf (op : AmoOp) : Bool := op.bytes == 4 || op.bytes == 8

/-- The encoding of a CSR instruction: opcode SYSTEM, function 1 to 3 or 5 to 7. -/
def csrInsnWf (w : BitVec 32) : Bool :=
  w.extractLsb' 0 7 == 0x73 && w.extractLsb' 12 2 != 0

/-- The encoding of vsetvli, vsetivli or vsetvl: opcode OP-V, function 7, and the fixed bits of each. -/
def vsetInsnWf (w : BitVec 32) : Bool :=
  w.extractLsb' 0 7 == 0x57 && w.extractLsb' 12 3 == 7 &&
  (!w.getLsbD 31 || w.getLsbD 30 || w.extractLsb' 25 7 == 0x40)

/-- The size of a BAR 0 access (R322), and the encodings that write a core's own registers. -/
def RegTarget.wf : RegTarget → Bool
  | .bar _ off n => (n == 4 || n == 8) && off % n == 0
  | .ctrl a => decide (a < 2 ^ 52)
  | .csr _ w => csrInsnWf w
  | .vset _ w => vsetInsnWf w

/-- An inbound request of at most 4 KiB (R331). -/
def Tlp.wf (t : Tlp) : Bool :=
  decide (t.len ≤ 4096) && decide (t.bytes.length ≤ 4096) && decide (t.addr < 2 ^ 64) &&
  (t.enables.isEmpty || t.enables.length == t.bytes.length)

/-- The command is one the hardware can be given. -/
def Instr.wf : Instr → Bool
  | .registerWrite _ t _ => t.wf
  | .parcelReceive _ _ fill _ => decide (fill ≤ 8)
  | .bootTrain offers => decide (offers.length ≤ 16)
  | .bootDimmTraining chans => decide (chans.length ≤ 16)
  | .coreLoad _ op => accessWf op.rd op.bytes
  | .coreStore _ op => accessWf op.rs2 op.bytes
  | .amo _ op => op.wf
  | .loadReserved _ op => op.wf
  | .storeConditional _ op => op.wf
  | .mbIdleDrain _ l => lineWf l
  | .mbEntryDrained _ l => lineWf l
  | .l3AllocationRetry _ l => lineWf l
  | .wbAck _ l => lineWf l
  | .wbAckStale _ l => lineWf l
  | .lineWaitAdmit _ l => lineWf l
  | .stagingEntryFree _ l => lineWf l
  | .mcReadData _ l => lineWf l
  | .rdShared m => m.wf
  | .rdOwn m => m.wf
  | .upgrade m => m.wf
  | .claim m => m.wf
  | .rdOnce m => m.wf
  | .wrFull m => m.wf
  | .wrPartial m => m.wf
  | .cboClean m => m.wf
  | .cboFlush m => m.wf
  | .wbData m => m.wf
  | .wbKeep m => m.wf
  | .evictClean m => m.wf
  | .discard m => m.wf
  | .snpShared _ m => m.wf
  | .snpInv _ m => m.wf
  | .snpBinv _ m => m.wf
  | .snpRspI m => m.wf
  | .snpRspS m => m.wf
  | .snpDataI m => m.wf
  | .snpDataS m => m.wf
  | .cmp m => m.wf
  | .cmpPartial m => m.wf
  | .dataS m => m.wf
  | .dataE m => m.wf
  | .dataM m => m.wf
  | .dataNc m => m.wf
  | .setWaitAdmit _ k => decide (k < 10922)
  | .inboundTlp _ t => t.wf
  | .readTimeout _ tag => decide (tag < 1024)
  | .readCompletion _ c => decide (c.tag < 1024) && decide (c.bytes.length ≤ 4096)
  | .slipFetchDone _ _ slips => decide (slips.length ≤ 8)
  | .setStateMailboxLoad _ bytes => decide (bytes.length ≤ 2 ^ 20)
  | .mjsctlEnable _ o => csrInsnWf o.insn && o.insn.extractLsb' 20 12 == 0x7C8
  | .samplePreload capture preload => capture.length == preload.length
  | _ => true

end Sys2Proof
end

