-- ==== Sys2Proof/Tests/Slice0.lean ====
section
/-! SUPPORT. The model's own tests. First what well-formedness refuses; then figures of the spec's worked examples; then, for each
statement of the certificates, states and operands that meet its hypotheses, one for each clause that has some. -/

set_option Elab.async false
set_option maxRecDepth 20000

/-! ### Well-formedness -/

namespace Sys2Proof

/-- A message within its header, and one past each of its ranges. -/
theorem test_wf_message : (⟨.cmp, 63, 0, 26, 0, false, 0, 2 ^ 46 - 1, 0, 0, .die 1, 15⟩ : Msg).wf = true ∧
    (⟨.cmp, 64, 0, 0, 0, false, 0, 5, 0, 0, .die 1, 1⟩ : Msg).wf = false ∧ (⟨.cmp, 1, 0, 27, 0, false, 0, 5, 0, 0, .die 1, 1⟩ : Msg).wf = false ∧
    (⟨.cmp, 1, 0, 0, 0, false, 0, 2 ^ 46, 0, 0, .die 1, 1⟩ : Msg).wf = false ∧ (⟨.cmp, 1, 0, 0, 0, false, 0, 5, 0, 0, .die 1, 16⟩ : Msg).wf = false ∧
    Instr.wf (.cmp ⟨.cmp, 64, 0, 0, 0, false, 0, 5, 0, 0, .die 1, 1⟩) = false := by decide +kernel

/-- Line numbers, register targets and access sizes out of range. -/
theorem test_wf_addresses : Instr.wf (.mcReadData 3 (2 ^ 46)) = false ∧ Instr.wf (.mcReadData 3 (2 ^ 46 - 1)) = true ∧
    Instr.wf (.registerWrite .bmc (.ctrl (2 ^ 52)) 0) = false ∧ Instr.wf (.registerWrite .bmc (.bar (.pf 0) 8 2) 0) = false ∧
    Instr.wf (.registerWrite .bmc (.bar (.pf 0) 4 8) 0) = false ∧ Instr.wf (.coreLoad 0 ⟨.x 5, 6, 0, 3, true, true⟩) = false ∧
    Instr.wf (.coreStore 0 ⟨.f 5, 6, 0, 1, true⟩) = false ∧ Instr.wf (.registerWrite (.core 0) (.csr 0 0x34029057) 0) = false ∧
    Instr.wf (.registerWrite (.core 0) (.vset 0 0x0D92E057) 0) = false ∧ Instr.wf (.amo 0 ⟨.add, 7, 5, 6, 2, true, true⟩) = false := by decide +kernel

/-- Counts and lengths out of range. -/
theorem test_wf_counts : Instr.wf (.parcelReceive 0 .up 9 ⟨0, 0, 0, 0⟩) = false ∧
    Instr.wf (.setWaitAdmit 0 10922) = false ∧ Instr.wf (.readTimeout 0 1024) = false ∧ Instr.wf (.readCompletion 0 ⟨1024, .ok, true, []⟩) = false ∧
    Instr.wf (.readCompletion 0 ⟨0, .ok, true, List.replicate 4097 0⟩) = false ∧ Instr.wf (.slipFetchDone (.pf 0) 0 (List.replicate 9 0)) = false ∧
    Instr.wf (.inboundTlp 0 ⟨.memRead, 0, 2 ^ 64, 4, [], false, []⟩) = false ∧ Instr.wf (.inboundTlp 0 ⟨.memRead, 0, 0, 4097, [], false, []⟩) = false ∧
    Instr.wf (.inboundTlp 0 ⟨.memWrite, 0, 0, 0, [1, 2], false, [true]⟩) = false ∧ Instr.wf (.mjsctlEnable 24 ⟨0x7C929073, 0⟩) = false ∧
    Instr.wf (.samplePreload [true] []) = false := by decide +kernel

end Sys2Proof

open Sys2Proof Sys2Proof.Machine

/-! ### Small states -/

namespace Sys2Proof.W

/-- Registers stored. -/
def wr (s : State) (l : List (Reg × Nat)) : State := l.foldl (fun s e => s.wr e.1 (BitVec.ofNat 64 e.2)) s

/-- Fields stored. -/
def pt (s : State) (l : List (Reg × Fld × Nat)) : State := l.foldl (fun s e => s.put e.1 e.2.1 e.2.2) s

/-- Cores 0 and 1 in H[0], 24 and 25 in the open hand 1, 48 and 49 in the ledger hand 2; they run, on dies 0 to 2 in service, with
their links up. The IOD is in Play. -/
def base : State :=
  let s := { State.reset with
    cycle := 40000
    folio := { Folio.empty with
      hands := [⟨0, false, 0, 1, 0, 2, 0x40000000, []⟩, ⟨32, false, 1, 1, 0, 2, 0x50000000, []⟩, ⟨64, false, 2, 2, 0, 2, 0x60000000, []⟩]
      dies := [⟨0, 0, true, 3, []⟩, ⟨8, 1, true, 3, []⟩, ⟨16, 2, true, 3, []⟩] }
    mgmt := { State.reset.mgmt with inReset := false, low := false }
    power := { State.reset.power with fabric := 0 } }
  let s := wr s [(.FAB_HAND_CORES 0 0, 3), (.FAB_HAND_CORES 1 0, 3 * 2 ^ 24), (.FAB_HAND_CORES 2 0, 3 * 2 ^ 48), (.SCK_IOD_STATE, 0)]
  let s := pt s ([0, 1, 24, 25, 48, 49].map (fun c => (.CORE_STATE c, F.CORE_STATE_STATE, 3)))
  pt s ([0, 1, 2].flatMap (fun d => [(.DL_STATUS d, F.DL_STATUS_STATE, 2), (.DL_STATUS d, F.DL_STATUS_HB_OK, 1),
    (.FLT_DIE d, F.FLT_DIE_STATE, 1), (.SCK_DIE d, F.SCK_DIE_STATE, 0), (.SCK_DIE d, F.SCK_DIE_TARGET, 0), (.FOL_STATE, F.FOL_STATE_STATE, 5)]))

/-- A message of hand 1 from die 1 for a line. -/
def msg (op : Opc) (line : Nat) : Msg := ⟨op, 1, 0, 24, 0, false, 0, line, 7, BitVec.allOnes 64, .die 1, 1⟩

end Sys2Proof.W

open Sys2Proof.W

namespace Sys2Proof.W
/-- A parcel of one control message: an UPGRADE of line 5. -/
def parcel (seq : Nat) (good : Bool) : Parcel :=
  let bits := parcelOf none [msgHeader (msg .upgrade 5)]
  let crc : BitVec 128 := (List.range 8).foldl (fun a g => a ||| ((groupCrc false bits (BitVec.ofNat 8 seq) g).zeroExtend 128 <<< (16 * g))) 0
  ⟨bits, if good then crc else crc ^^^ 1, BitVec.ofNat 8 seq, 0⟩
/-- Link 1, direction up, changed. -/
def lk (f : Link → Link) (s : State := base) : State := s.setLink 1 .up (f (s.link 1 .up))
/-- Link 1 with spare-lane repair. -/
def spares : State := pt base [(.DL_FEAT_EFF 1, ⟨63, 0⟩, 2 ^ 63 + 64), (.DL_REPAIR_CFG 1, F.DL_REPAIR_CFG_AUTO, 1)]
/-- Die 5 leaves Fold (2) or Out (3) with its link in training. -/
def tr (n : Nat) : State := pt base [(.DL_STATUS 5, F.DL_STATUS_STATE, 1), (.SCK_DIE 5, F.SCK_DIE_STATE, n)]
end Sys2Proof.W

theorem witness_LinkParcelReceive :
    (∃ (d : Fin 16) (dir : Dir) (fill : Nat) (p : Parcel) (s : State) (q : List SentParcel) (out : List SentParcel), linkUp s d = true ∧
    (s.link d dir).remap = none ∧ s.rd (.DL_INJECT d) = 0 ∧ 2 ≤ fill ∧ fill ≤ 6 ∧ (p.seq &&& 0x1F).toNat = (s.link d dir).expSeq ∧
    parcelGood (crcSeq s d) p = true ∧ (parcelMsgs d dir p.bits).isSome = true ∧ (s.link d dir).kept = none ∧ q = (s.link d dir).fifo ++
    [⟨(s.link d dir).expSeq, p.bits, (((s.link d dir).replay.find? (fun x => x.seq == (s.link d dir).expSeq)).getD
    SentParcel.idle).mgmt⟩] ∧ out = q.take (q.length - fill)) ∧
    (∃ (d : Fin 16) (dir : Dir) (fill : Nat) (p : Parcel) (s : State) (q : List SentParcel) (out : List SentParcel), linkUp s d = true ∧
    (s.link d dir).remap = none ∧ s.rd (.DL_INJECT d) = 0 ∧ 2 ≤ fill ∧ fill ≤ 6 ∧ (p.seq &&& 0x1F).toNat = (s.link d dir).expSeq ∧
    parcelGood (crcSeq s d) p = true ∧ (parcelMsgs d dir p.bits).isSome = true ∧ (s.link d dir).kept = none ∧ q = (s.link d dir).fifo ++
    [⟨(s.link d dir).expSeq, p.bits, (((s.link d dir).replay.find? (fun x => x.seq == (s.link d dir).expSeq)).getD
    SentParcel.idle).mgmt⟩] ∧ out = q.take (q.length - fill)) ∧
    (∃ (d : Fin 16) (dir : Dir) (fill : Nat) (p : Parcel) (s : State), linkUp s d = true ∧ (s.link d dir).remap = none ∧ s.rd
    (.DL_INJECT d) = 0 ∧ 2 ≤ fill ∧ fill ≤ 6 ∧ ((p.seq &&& 0x1F).toNat = (s.link d dir).expSeq ∨ (s.link d dir).kept = none) ∧
    parcelGood (crcSeq s d) p = false) ∧
    (∃ (d : Fin 16) (dir : Dir) (fill : Nat) (p : Parcel) (s : State), linkUp s d = true ∧ (s.link d dir).remap = none ∧ s.rd
    (.DL_INJECT d) = 0 ∧ 2 ≤ fill ∧ fill ≤ 6 ∧ (p.seq &&& 0x1F).toNat ≠ (s.link d dir).expSeq ∧ ((parcelGood (crcSeq s d) p = true ∧
    (parcelMsgs d dir p.bits).isSome = true) ∨ (s.link d dir).kept ≠ none)) :=
  ⟨⟨1,
    .up,
    2,
    parcel 31 true,
    lk (fun l => { l with expSeq := 31, fifo := [⟨29, (parcel 29 true).bits, []⟩, ⟨30, (parcel 30 true).bits, [[(5, 7)], []]⟩], replay := [⟨31, 1, []⟩] }),
    (((lk (fun l => { l with expSeq := 31, fifo := [⟨29, (parcel 29 true).bits, []⟩, ⟨30, (parcel 30 true).bits, [[(5, 7)], []]⟩], replay := [⟨31, 1, []⟩] })).link 1 (.up : Dir)).fifo ++ [(⟨31, (parcel 31 true).bits, []⟩ : SentParcel)]),
    (((lk (fun l => { l with expSeq := 31, fifo := [⟨29, (parcel 29 true).bits, []⟩, ⟨30, (parcel 30 true).bits, [[(5, 7)], []]⟩], replay := [⟨31, 1, []⟩] })).link 1 (.up : Dir)).fifo ++ [(⟨31, (parcel 31 true).bits, []⟩ : SentParcel)]).take 1,
    by decide +kernel⟩,
   ⟨1,
    .dn,
    2,
    ({ parcel 31 true with bits := 0, crc := (List.range 8).foldl (fun a g => a ||| ((groupCrc false 0 31 g).zeroExtend 128 <<< (16 * g))) 0 } : Parcel),
    base.setLink 1 .dn ((fun l => { l with expSeq := 31, fifo := [⟨29, 0, [[(5, 7)], []]⟩, ⟨30, (parcel 30 true).bits, [[(5, 7)], []]⟩], replay := [⟨31, 1, []⟩] }) (base.link 1 .dn)),
    (((base.setLink 1 .dn ((fun l => { l with expSeq := 31, fifo := [⟨29, 0, [[(5, 7)], []]⟩, ⟨30, (parcel 30 true).bits, [[(5, 7)], []]⟩], replay := [⟨31, 1, []⟩] }) (base.link 1 .dn))).link 1 (.dn : Dir)).fifo ++ [(⟨31, ({ parcel 31 true with bits := 0, crc := (List.range 8).foldl (fun a g => a ||| ((groupCrc false 0 31 g).zeroExtend 128 <<< (16 * g))) 0 } : Parcel).bits, []⟩ : SentParcel)]),
    (((base.setLink 1 .dn ((fun l => { l with expSeq := 31, fifo := [⟨29, 0, [[(5, 7)], []]⟩, ⟨30, (parcel 30 true).bits, [[(5, 7)], []]⟩], replay := [⟨31, 1, []⟩] }) (base.link 1 .dn))).link 1 (.dn : Dir)).fifo ++ [(⟨31, ({ parcel 31 true with bits := 0, crc := (List.range 8).foldl (fun a g => a ||| ((groupCrc false 0 31 g).zeroExtend 128 <<< (16 * g))) 0 } : Parcel).bits, []⟩ : SentParcel)]).take 1,
    by decide +kernel⟩,
   ⟨1, .up, 2, parcel 32 false, lk (fun l => { l with fifo := [⟨29, (parcel 29 true).bits, []⟩, ⟨30, 5, []⟩] }), by decide +kernel⟩,
   ⟨1, .up, 6, parcel 31 true, W.base, by decide +kernel⟩⟩

theorem witness_LinkStatus :
    (∃ (b : Byte), statusValid b = true ∧ b.getLsbD 5 = true) ∧
    (∃ (d : Fin 16) (dir : Dir) (b : Byte) (s : State), statusValid b = true ∧ b.getLsbD 5 = false ∧ (s.link d dir).replay.any (fun x =>
    x.seq == (b &&& 0x1F).toNat) = true ∧ (s.link d dir).resend = []) ∧
    (∃ (b : Byte), statusValid b = false) ∧
    (∃ (d : Fin 16) (dir : Dir) (q : BitVec 5) (s : State), (s.link d dir).replay.any (fun x => x.seq == q.toNat) = true) :=
  ⟨⟨statusByte 31 true, by decide +kernel⟩,
   ⟨1, .up, statusByte 31 false, lk (fun l => { l with replay := [⟨30, 5, []⟩, ⟨31, 5, []⟩], status := [0] }), by decide +kernel⟩,
   ⟨0x60, by decide +kernel⟩,
   ⟨1, .up, 31, lk (fun l => { l with replay := [⟨31, 5, []⟩], status := [0] }), by decide +kernel⟩⟩

theorem witness_LinkLoss :
    (∃ (d : Fin 16) (s : State), watched s d = true) ∧
    (∃ (d : Fin 16) (dir : Dir) (s : State), 8 ≤ (s.link d dir).rejects ∧ linkUp s d = true) ∧
    (∃ (who : Agent) (s : State), s.isHouse who = true) :=
  ⟨⟨1, W.base, by decide +kernel⟩,
   ⟨1, .up, lk (fun l => { l with rejects := 8 }), by decide +kernel⟩,
   ⟨.core 0, W.base, by decide +kernel⟩⟩

theorem witness_LinkRepair :
    (∃ (d : Fin 16) (dir : Dir) (g : Fin 8) (lane : BitVec 6) (s : State), linkUp s d = true ∧ s.bit (.DL_REPAIR_CFG d)
    F.DL_REPAIR_CFG_AUTO = true ∧ dlSpare s d = true ∧ laneCode g lane.toNat = true ∧ laneDue s d dir g (lane.toNat - 1) = true ∧
    spareOf s d dir g = 0 ∧ remapping s d = false) ∧
    (∃ (d : Fin 16) (dir : Dir) (g : Fin 8) (lane : BitVec 6) (s : State), linkUp s d = true ∧ s.bit (.DL_REPAIR_CFG d)
    F.DL_REPAIR_CFG_AUTO = true ∧ dlSpare s d = true ∧ laneCode g lane.toNat = true ∧ laneDue s d dir g (lane.toNat - 1) = true ∧
    spareOf s d dir g = 0 ∧ remapping s d = true) ∧
    (∃ (d : Fin 16) (dir : Dir) (g : Fin 8) (lane : BitVec 6) (s : State), linkUp s d = true ∧ s.bit (.DL_REPAIR_CFG d)
    F.DL_REPAIR_CFG_AUTO = true ∧ dlSpare s d = true ∧ laneCode g lane.toNat = true ∧ laneDue s d dir g (lane.toNat - 1) = true ∧
    spareOf s d dir g ≠ 0) ∧
    (∃ (d : Fin 16) (dir : Dir) (g : Fin 8) (lane : BitVec 6) (s : State), (s.bit (.DL_REPAIR_CFG d) F.DL_REPAIR_CFG_AUTO = false ∨
    laneDue s d dir g (lane.toNat - 1) = false)) ∧
    (∃ (d : Fin 16) (dir : Dir) (s : State) (g : Nat) (code : Nat), (s.link d dir).remap = some (g, code) ∧ (s.die d).remaps = [] ∧
    (s.link d (otherDir dir)).remap = none ∧ (s.link d dir).fifo.length ≤ 4) ∧
    (∃ (who : Agent) (d : Fin 16) (v : Word) (s : State) (dir : Dir), s.isHouse who = true ∧ F.DL_REPAIR_CMD_GO.get v = 1 ∧ dir = (if
    F.DL_REPAIR_CMD_DIR.get v = 0 then .up else .dn) ∧ linkState s d = 2 ∧ (s.link d dir).remap = none ∧ spareOf s d dir
    (F.DL_REPAIR_CMD_GROUP.get v) = 0 ∧ laneCode (F.DL_REPAIR_CMD_GROUP.get v) (F.DL_REPAIR_CMD_LANE.get v) = true ∧ dlSpare s d = true) ∧
    (∃ (who : Agent) (d : Fin 16) (s : State), (s.isHouse who = false ∨ linkState s d = 3)) :=
  ⟨⟨1,
    .up,
    0,
    40,
    lk (fun l => { l with rises := [(0, 39, 39999)] }) (pt spares [(.DL_REPAIR_CFG 1, F.DL_REPAIR_CFG_THRESH, 1), (.DL_REPAIR_CFG 1, F.DL_REPAIR_CFG_WINDOW_US, 1)]),
    by decide +kernel⟩,
   ⟨1,
    .up,
    1,
    36,
    (fun s => s.setLink 1 .dn { s.link 1 .dn with remap := some (0, 1) }) (lk (fun l => { l with rises := [(1, 35, 39999)] }) (pt spares [(.DL_REPAIR_CFG 1, F.DL_REPAIR_CFG_THRESH, 1), (.DL_REPAIR_CFG 1, F.DL_REPAIR_CFG_WINDOW_US, 1)])),
    by decide +kernel⟩,
   ⟨1,
    .up,
    0,
    1,
    pt (lk (fun l => { l with rises := [(0, 0, 39999)] }) (pt spares [(.DL_REPAIR_CFG 1, F.DL_REPAIR_CFG_THRESH, 1), (.DL_REPAIR_CFG 1, F.DL_REPAIR_CFG_WINDOW_US, 1)])) [(.DL_REPAIR_UP 1, F.DL_REPAIR_UP_SPARE 0, 3)],
    by decide +kernel⟩,
   ⟨1,
    .up,
    0,
    2,
    lk (fun l => { l with rises := [(0, 0, 39999)] }) (pt spares [(.DL_REPAIR_CFG 1, F.DL_REPAIR_CFG_THRESH, 1), (.DL_REPAIR_CFG 1, F.DL_REPAIR_CFG_WINDOW_US, 1)]),
    by decide +kernel⟩,
   ⟨1, .up, lk (fun l => { l with remap := some (0, 40), replay := [⟨3, 1, []⟩] }) spares, 0, 40, by decide +kernel⟩,
   ⟨.core 0, 1, 0x8000000000000240, spares, .up, by decide +kernel⟩,
   ⟨.bmc, 1, spares, by decide +kernel⟩⟩

theorem witness_LinkTraining :
    (∃ (d : Fin 16) (o : DieOffer) (s : State), trainsFromOut s d = true ∧ 2 ≤ o.rev.toNat / 16 ∧ (s.die d).capOld = none) ∧
    (∃ (d : Fin 16) (step : Fin 6) (s : State), linkState s d = 1 ∧ step ≠ 0 ∧ (s.get (.SCK_DIE d) F.SCK_DIE_STATE ≠ 2 ∨ (step ≠ 2 ∧
    step ≠ 3)) ∧ s.get (.FLT_DIE d) F.FLT_DIE_STATE ≠ 3 ∧ (s.die d).capOld = none) ∧
    (∃ (d : Fin 16) (step : Fin 6) (s : State), (linkState s d ≠ 1 ∨ (s.get (.SCK_DIE d) F.SCK_DIE_STATE = 2 ∧ (step = 2 ∨ step = 3)))) ∧
    (∃ (d : Fin 16) (s : State), trainsFromOut s d = false) ∧
    (∃ (d : Fin 16) (s : State), linkState s d = 1 ∧ s.get (.SCK_DIE d) F.SCK_DIE_STATE = 2) ∧
    (∃ (d : Fin 16) (s : State), (linkState s d ≠ 1 ∨ s.get (.SCK_DIE d) F.SCK_DIE_STATE ≠ 2)) :=
  ⟨⟨5, ⟨0x2F, 0xFFFFFF, 0xFF⟩, tr 3, by decide +kernel⟩,
   ⟨5, 5, tr 2, by decide +kernel⟩,
   ⟨5, 3, tr 2, by decide +kernel⟩,
   ⟨1, W.base, by decide +kernel⟩,
   ⟨5, tr 2, by decide +kernel⟩,
   ⟨1, W.base, by decide +kernel⟩⟩

theorem witness_LinkInject :
    (∃ (who : Agent) (s : State), s.isHouse who = false) ∧
    (∃ (who : Agent) (v : Word) (s : State), s.isHouse who = true ∧ v.getLsbD 3 = false ∧ v &&& 0xFF000000 ≠ 0) :=
  ⟨⟨.bmc, W.base, by decide +kernel⟩,
   ⟨.core 0, 0xFF0F3F37, W.base, by decide +kernel⟩⟩

namespace Sys2Proof.W
/-- The package in a step of boot. -/
def atPhase (n : Nat) : State := { base with arc := { base.arc with phase := n } }
/-- A folio image that holds one thing: a CHANNELS leaf that enables channel 3. -/
def folioBytes : List Byte := (List.range 0x500).map (fun i => if i = 0x0C then 1 else if i = 0x80 then 6 else if i = 0x84 then 0x90 else if i = 0x283 then 1 else 0)
/-- A DIMM. -/
def dimmOk : DimmInfo := ⟨2, 1, 0, 0⟩
end Sys2Proof.W

theorem witness_ResetPackage :
    ∃ (s : State), s.mgmt.inReset = false :=
  ⟨W.base, by decide +kernel⟩

theorem witness_ResetRelease :
    (∃ (s : State), s.mgmt.inReset = true ∧ s.mgmt.low = true ∧ s.mgmt.main = true ∧ s.mgmt.clock = true ∧ s.mgmt.stby = true ∧ s.get
    .FOL_STATE F.FOL_STATE_STATE = 0) ∧
    (∃ (s : State), (s.mgmt.inReset = false ∨ s.mgmt.low = false ∨ s.mgmt.main = false ∨ s.mgmt.clock = false ∨ s.mgmt.stby = false)) :=
  ⟨⟨State.reset, by decide +kernel⟩,
   ⟨W.base, by decide +kernel⟩⟩

theorem witness_BootFirmware :
    (∃ (s : State), s.arc.phase = 1) ∧
    (∃ (s : State), s.arc.phase = 1) :=
  ⟨⟨atPhase 1, by decide +kernel⟩,
   ⟨{ atPhase 1 with mgmt := { base.mgmt with straps := 4 } }, by decide +kernel⟩⟩

theorem witness_BootFolio :
    ∃ (s : State), s.arc.phase = 2 :=
  ⟨{ atPhase 2 with arc := { (atPhase 2).arc with flash := [(2, List.replicate 0x200 0), (3, List.replicate 0x200 0)] } },
   by decide +kernel⟩

theorem witness_BootSteps :
    (∃ (s : State), s.arc.phase = 3) ∧
    (∃ (s : State), s.arc.phase = 4) ∧
    (∃ (s : State), s.arc.phase = 5) ∧
    (∃ (s : State), s.arc.phase = 6) ∧
    (∃ (s : State), s.arc.phase = 7) ∧
    (∃ (s : State), s.arc.phase = 8) ∧
    (∃ (s : State) (c : Nat), s.arc.phase = 9 ∧ (s.coresOf 0).head? = some c) ∧
    (∃ (s : State), s.get .FOL_STATE F.FOL_STATE_STATE = 6) ∧
    (∃ (s : State) (c : Nat), s.get .FOL_STATE F.FOL_STATE_STATE ≠ 6 ∧ s.handLost 0 = true ∧ (s.coresOf 0).all (fun c => s.coreState c
    == 1 || s.coreState c == 5 || s.coreState c == 0) = true ∧ houseCore s = some c) :=
  ⟨⟨atPhase 3, by decide +kernel⟩,
   ⟨atPhase 4, by decide +kernel⟩,
   ⟨atPhase 5, by decide +kernel⟩,
   ⟨atPhase 6, by decide +kernel⟩,
   ⟨{ atPhase 7 with dram := [⟨5, 1⟩] }, by decide +kernel⟩,
   ⟨atPhase 8, by decide +kernel⟩,
   ⟨atPhase 9, 0, by decide +kernel⟩,
   ⟨pt base [(.FOL_STATE, F.FOL_STATE_STATE, 6)], by decide +kernel⟩,
   ⟨pt (wr base [(.FAB_HAND 0, 0)]) [(.FAB_HAND 0, F.FAB_HAND_STATE, 3), (.CORE_STATE 0, F.CORE_STATE_STATE, 1), (.CORE_STATE 1,
   F.CORE_STATE_STATE, 1)], 0, by decide +kernel⟩⟩

theorem witness_Addendum :
    (∃ (who : Agent) (s : State), s.isHouse who = false) ∧
    (∃ (who : Agent) (v : Word) (s : State), s.isHouse who = true ∧ v.getLsbD 0 = true ∧ s.get .FOL_ADD_STATE F.FOL_ADD_STATE_STATE = 0
    ∧ 0x90 ≤ (s.rd .FOL_ADD_LEN).toNat ∧ (s.rd .FOL_ADD_LEN).toNat ≤ 0x100000 ∧ inHousePrivate s (s.rd .FOL_ADD_ADDR).toNat (s.rd
    .FOL_ADD_LEN).toNat = true) ∧
    (∃ (who : Agent) (v : Word) (s : State), s.isHouse who = true ∧ v.getLsbD 0 = true ∧ s.get .FOL_ADD_STATE F.FOL_ADD_STATE_STATE ≠ 0
    ∧ s.tally 2 < 255) ∧
    (∃ (s : State) (v : Serving), s.arc.serving.get? 66 = some v ∧ v.due = [] ∧ s.get .FOL_ADD_STATE F.FOL_ADD_STATE_STATE = 1) :=
  ⟨⟨.bmc, W.base, by decide +kernel⟩,
   ⟨.core 0,
    1,
    wr { base with folio := { base.folio with map := { base.folio.map with windows := [⟨0, 0x40000000, 0x40000000, 1, 0, []⟩] } } } [(.FOL_ADD_LEN, 0x90), (.FOL_ADD_ADDR, 0x7FFFFF70)],
    by decide +kernel⟩,
   ⟨.core 0, 1, pt base [(.FOL_ADD_STATE, F.FOL_ADD_STATE_STATE, 3), (.TIC_TALLY 0, F.TIC_TALLY_TALLY 2, 254)], by decide +kernel⟩,
   ⟨wr (pt { base with arc := { base.arc with serving := [(66, ⟨[(0, (0, false)), (1, (0, false)), (2, (0, false))], [], true, false, none, false⟩)] } } [(.FOL_ADD_STATE, F.FOL_ADD_STATE_STATE, 1)]) [(.FOL_ADD_LEN, 0x90)],
    ⟨[(0, (0, false)), (1, (0, false)), (2, (0, false))], [], true, false, none, false⟩,
    by decide +kernel⟩⟩

theorem witness_BootDimm :
    ∃ (c : ChanTrain) (m : DimmInfo) (s : State), s.arc.phase = 5 ∧ (readFolio (slotFolio s) false).chanEnabled c.chan.val = true ∧ c.ok
    = true ∧ c.slot0 = some m ∧ c.slot1 = none ∧ m.height.toNat ≤ 2 :=
  ⟨⟨3, some dimmOk, none, true, 40, 40, 40, 0x100, 32000⟩,
   dimmOk,
   { atPhase 5 with arc := { (atPhase 5).arc with flash := [(2, folioBytes)] } },
   by decide +kernel⟩

namespace Sys2Proof.W
/-- Point p changed. -/
def pnt (p : Nat) (f : Point → Point) (s : State := base) : State := s.setPoint p (f (s.point p))
/-- A message of hand 1 from die 1, ready. -/
def rdy : Ready := ⟨1, msg .rdShared 5, 0⟩
/-- Every trick of the first word of slice 1 dealt to hand 1. -/
def dealt : State := wr base [(.FAB_DEAL_ACT 0x21 0, 0x0101010101010101), (.FAB_DEAL_ACT 0x21 127, 0x0101010101010101)]
/-- Class D requester 16 of slice 1 with a grant whose burst stands at n. -/
def grant (n : Nat) : State := pnt 0x21 (fun x => { x with holder := some 16, burst := n, ready := [⟨16, msg .wrFull 5, 0⟩], staging := [(16, [msg .wrFull 4])] })
end Sys2Proof.W
namespace Sys2Proof.W
/-- The shadow deal of a point with a trick for every hand. -/
def dealtAll (p : Nat) : State := wr base ((List.range 128).map (fun k => (Reg.FAB_DEAL p k, 0x0201000201000201)))
end Sys2Proof.W

theorem witness_FabricTrickOne :
    (∃ (n : Fin 16) (p : Fin 64) (s : State) (r : Ready), p.val = 0x20 + n.val ∧ pointFolded s p = false ∧ (s.point p).next ≤ s.cycle ∧
    (s.point p).holder = none ∧ (s.point p).ready = [r] ∧ classD p r.q = false ∧ sramBits s 10 (0x2500 + p.val) (trickOf s p / 8) = 0 ∧
    r.msg.hand ≤ 0x3F ∧ trickOwner s p (trickOf s p) = r.msg.hand) ∧
    (∃ (n : Fin 16) (p : Fin 64) (s : State) (r : Ready), p.val = 0x20 + n.val ∧ pointFolded s p = false ∧ (s.point p).next ≤ s.cycle ∧
    (s.point p).holder = none ∧ (s.point p).ready = [r] ∧ classD p r.q = false ∧ opTrump r.msg.op = false ∧ sramBits s 10 (0x2500 +
    p.val) (trickOf s p / 8) = 0 ∧ trickOwner s p (trickOf s p) = 0xFF ∧ sramBits s 10 (0x2500 + p.val) (0x100 + r.q) = 0 ∧ isCut s p
    r.q = false ∧ 1 < s.get (.FAB_BURST_ACT p) F.FAB_BURST_BURST_LIMIT) ∧
    (∃ (n : Fin 16) (p : Fin 64) (s : State), p.val = 0x20 + n.val ∧ pointFolded s p = false ∧ s.cycle < (s.point p).next) ∧
    (∃ (k : PointKind) (n : Fin 16) (s : State), pointFolded s (pointNo k n) = true) :=
  ⟨⟨1, 0x21, { pnt 0x21 (fun x => { x with ready := [rdy], next := 2047 }) dealt with cycle := 2047 }, rdy, by decide +kernel⟩,
   ⟨1, 0x21, pnt 0x21 (fun x => { x with ready := [rdy] }) (wr base [(.FAB_BURST_ACT 0x21, 2)]), rdy, by decide +kernel⟩,
   ⟨1, 0x21, pnt 0x21 (fun x => { x with ready := [rdy], next := 40001 }) dealt, by decide +kernel⟩,
   ⟨.slice, 1, pt base [(.SCK_IOD_STATE, F.SCK_IOD_STATE_SLICE 1, 2)], by decide +kernel⟩⟩

theorem witness_FabricDealt :
    (∃ (n : Fin 16) (p : Fin 64) (s : State) (h : Nat), p.val = 0x20 + n.val ∧ pointFolded s p = false ∧ (s.point p).next ≤ s.cycle ∧
    (s.point p).holder = none ∧ sramBits s 10 (0x2500 + p.val) (trickOf s p / 8) = 0 ∧ h ≤ 0x3F ∧ trickOwner s p (trickOf s p) = h ∧ (∃
    r ∈ (s.point p).ready, r.msg.hand = h)) ∧
    (∃ (n : Fin 16) (p : Fin 64) (s : State) (h : Nat), p.val = 0x20 + n.val ∧ pointFolded s p = false ∧ (s.point p).next ≤ s.cycle ∧
    (s.point p).holder = none ∧ sramBits s 10 (0x2500 + p.val) (trickOf s p / 8) = 0 ∧ h ≤ 0x3F ∧ trickOwner s p (trickOf s p) = h ∧ (∃
    r ∈ (s.point p).ready, r.msg.hand = h)) :=
  ⟨⟨1,
    0x21,
    { pnt 0x21 (fun x => { x with ready := [⟨2, { msg .rdShared 8 with hand := 0, src := .die 2, die := 2 }, 0⟩, rdy, rdy] }) dealt with cycle := 4096 },
    1,
    by decide +kernel⟩,
   ⟨1,
    0x21,
    { pnt 0x21 (fun x => { x with ready := [⟨16, { msg .rdShared 8 with hand := 1, src := .die 2, die := 2 }, 0⟩, rdy, rdy] }) dealt with cycle := 4096 },
    1,
    by decide +kernel⟩⟩

theorem witness_FabricGrant :
    (∃ (p : Fin 64) (s : State) (q : Nat), (s.point p).holder = some q ∧ s.get (.FAB_BURST_ACT p) F.FAB_BURST_BURST_LIMIT ≤ (s.point
    p).burst ∧ (classD p q = false ∨ unfinished (s.point p) q = false)) ∧
    (∃ (p : Fin 64) (s : State) (q : Nat), (s.point p).holder = some q ∧ ((s.point p).burst < s.get (.FAB_BURST_ACT p)
    F.FAB_BURST_BURST_LIMIT ∨ (classD p q = true ∧ unfinished (s.point p) q = true))) ∧
    (∃ (p : Fin 64) (s : State) (q : Nat), (s.point p).holder = some q ∧ q < 64 ∧ classD p q = true ∧ unfinished (s.point p) q = true ∧
    s.get (.FAB_BURST_ACT p) F.FAB_BURST_BURST_LIMIT + 64 ≤ (s.point p).burst) ∧
    (∃ (p : Fin 64) (s : State), (s.point p).holder = none) :=
  ⟨⟨0x21, pnt 0x21 (fun x => { x with holder := some 1, burst := 64 }), 1, by decide +kernel⟩,
   ⟨0x21, grant 64, 16, by decide +kernel⟩,
   ⟨0x21, grant 128, 16, by decide +kernel⟩,
   ⟨0x21, W.base, by decide +kernel⟩⟩

theorem witness_FabricWrites :
    (∃ (p : Fin 64) (k : Fin 128) (v : Word) (s : State), (isChanPoint p.val = true → k.val < 32) ∧ (∀ j < 8, (F.FAB_DEAL_TRICK j).get v
    = 0xFF ∨ ((F.FAB_DEAL_TRICK j).get v ≤ 0x3F ∧ (s.folio.hand? ((F.FAB_DEAL_TRICK j).get v)).isSome = true) ∨ ((F.FAB_DEAL_TRICK
    j).get v = 0xFE ∧ isChanPoint p.val = true))) ∧
    (∃ (who : Agent) (p : Fin 64) (k : Fin 128) (s : State), who ≠ .archivist ∧ notLedger s who ∧ (isChanPoint p.val = true → k.val <
    32) ∧ addendumPoint s p = false) ∧
    (∃ (v : Word), 1 ≤ v.toNat ∧ v.toNat ≤ 1024) ∧
    (∃ (who : Agent) (p : Fin 64) (k : Fin 128) (s : State), who ≠ .archivist ∧ notLedger s who ∧ (isChanPoint p.val = true → k.val <
    32) ∧ addendumPoint s p = true) ∧
    (∃ (who : Agent) (p : Fin 64) (v : Word) (s : State), notLedger s who ∧ addendumPoint s p = false ∧ (who ≠ .archivist ∨ v = 0 ∨ 1024
    < v.toNat)) ∧
    (∃ (who : Agent) (p : Fin 64) (s : State), fabWriter s who = true ∧ (who = .archivist ∨ addendumPoint s p = false)) ∧
    (∃ (who : Agent) (s : State), fabWriter s who = true) ∧
    (∃ (who : Agent) (s : State), fabWriter s who = false ∧ notLedger s who) ∧
    (∃ (c : Fin 384) (s : State), s.ledgerCore c = true) :=
  ⟨⟨0x3F,
    31,
    0xFEFF000120FF00FE,
    { base with folio := { base.folio with hands := ⟨0, false, 32, 1, 0, 0, 0, []⟩ :: base.folio.hands } },
    by decide +kernel⟩,
   ⟨.core 0, 0x3F, 31, W.base, by decide +kernel⟩,
   ⟨1024, by decide +kernel⟩,
   ⟨.core 0,
    0x3F,
    31,
    { pt base [(.FOL_ADD_STATE, F.FOL_ADD_STATE_STATE, 3)] with arc := { base.arc with affected := 2 ^ 63 } },
    by decide +kernel⟩,
   ⟨.archivist, 0, 1025, W.base, by decide +kernel⟩,
   ⟨.core 0, 1, W.base, by decide +kernel⟩,
   ⟨.core 0, wr base [(.FAB_CUTOFF 1 1, 12)], by decide +kernel⟩,
   ⟨.core 24, W.base, by decide +kernel⟩,
   ⟨48, W.base, by decide +kernel⟩⟩

theorem witness_FabricCommit :
    (∃ (who : Agent) (p : Fin 64) (s : State), fabWriter s who = true ∧ (who = .archivist ∨ addendumPoint s p = false) ∧ (s.rd
    .FAB_COMMIT_PEND).getLsbD p = false ∧ 0x20 ≤ p.val ∧ dealPasses s p = true) ∧
    (∃ (who : Agent) (p : Fin 64) (s : State), fabWriter s who = true ∧ (who = .archivist ∨ addendumPoint s p = false) ∧ (s.rd
    .FAB_COMMIT_PEND).getLsbD p = false ∧ p.val < 0x10 ∧ s.get (.DL_STATUS p) F.DL_STATUS_STATE ≠ 4 ∧ dealPasses s p = true) ∧
    (∃ (who : Agent) (p : Fin 64) (s : State), fabWriter s who = true ∧ (who = .archivist ∨ addendumPoint s p = false) ∧ (s.rd
    .FAB_COMMIT_PEND).getLsbD p = false ∧ 0x20 ≤ p.val ∧ dealPasses s p = false) ∧
    (∃ (who : Agent) (s : State), fabWriter s who = false ∧ notLedger s who) ∧
    (∃ (d : Fin 16) (s : State), (s.rd .FAB_COMMIT_PEND).getLsbD d = true ∧ (s.point d).commit = none ∧ (s.point d).commitIn = true) ∧
    (∃ (d : Fin 16) (s : State), (s.point d).commitIn = false) ∧
    (∃ (who : Agent) (h : Fin 64) (v : Word) (s : State), s.isHouse who = true ∧ v.getLsbD 63 = true ∧ s.handLost h = true ∧ (∀ c ∈
    s.coresOf h, s.coreState c = 5 ∨ s.coreState c ≤ 1)) ∧
    (∃ (who : Agent) (h : Fin 64) (v : Word) (s : State), (s.isHouse who = false ∨ v.getLsbD 63 = false ∨ s.handLost h = false)) :=
  ⟨⟨.core 0, 0x21, dealtAll 0x21, by decide +kernel⟩,
   ⟨.core 0, 1, dealtAll 1, by decide +kernel⟩,
   ⟨.core 0, 0x21, pt base [(.CORE_STATE 24, F.CORE_STATE_STATE, 3)], by decide +kernel⟩,
   ⟨.core 24, W.base, by decide +kernel⟩,
   ⟨1, pnt 1 (fun x => { x with commitIn := true }) (wr base [(.FAB_COMMIT_PEND, 2)]), by decide +kernel⟩,
   ⟨1, W.base, by decide +kernel⟩,
   ⟨.core 0, 1, 0x8000000000000000, pt base [(.FAB_HAND 1, F.FAB_HAND_STATE, 3), (.CORE_STATE 24, F.CORE_STATE_STATE, 5), (.CORE_STATE
   25, F.CORE_STATE_STATE, 1)], by decide +kernel⟩,
   ⟨.core 0, 1, 1, W.base, by decide +kernel⟩⟩

theorem witness_FabricSwitch :
    (∃ (p : Fin 64) (s : State), 0x10 ≤ p.val ∧ atSwitch s p = true ∧ addendumPoint s p = false) ∧
    (∃ (p : Fin 64) (s : State), ((s.point p).commit = none ∨ trickOf s p ≠ 0)) ∧
    (∃ (p : Fin 64) (k : Fin 384) (s : State), k.val < 128 ∧ k.val ∈ (s.point p).lostWord ∧ (s.point p).reload ≤ roundOf s p ∧ trickOf s
    p = 0) ∧
    (∃ (p : Fin 64) (q : Fin 128) (k : Fin 384) (s : State), k.val = 0x100 + q.val ∧ k.val ∈ (s.point p).lostWord ∧ (s.point p).reload ≤
    roundOf s p ∧ trickOf s p = 0) ∧
    (∃ (p : Fin 64) (q : Fin 128) (k : Fin 384) (s : State), k.val = 0x100 + q.val ∧ k.val ∈ (s.point p).lostWord ∧ (s.point p).reload ≤
    roundOf s p ∧ trickOf s p = 0) :=
  ⟨⟨0x21,
    pnt 0x21 (fun x => { x with commit := some (1, 5) }) (wr { base with cycle := 2048 } [(.FAB_COMMIT_PEND, 2 ^ 0x21), (.FAB_DEAL 0x21 127, 3), (.FAB_PRIO 0x21 25, 4), (.FAB_BURST 0x21, 9)]),
    by decide +kernel⟩,
   ⟨0x21, W.base, by decide +kernel⟩,
   ⟨0x21, 127, pnt 0x21 (fun x => { x with lostWord := [126, 127], reload := 4 }) { base with cycle := 4096 }, by decide +kernel⟩,
   ⟨0x21,
    0,
    256,
    pnt 0x21 (fun x => { x with lostWord := [126, 256], reload := 4 }) (wr { base with cycle := 4096 } [(.FAB_PRIO_ACT 0x21 0, 15)]),
    by decide +kernel⟩,
   ⟨0x21,
    25,
    281,
    pnt 0x21 (fun x => { x with lostWord := [126, 281], reload := 4 }) (wr { base with cycle := 4096 } [(.FAB_PRIO_ACT 0x21 25, 15)]),
    by decide +kernel⟩⟩

namespace Sys2Proof.W
/-- The package with 32 GiB of DRAM and a private window of each hand; the ledger hand has a quantum of 100. -/
def mem : State :=
  pt { base with folio := { base.folio with
        map := { base.folio.map with windows := [⟨0, 0x40000000, 0x40000000, 1, 0, []⟩, ⟨0, 0x80000000, 0x40000000, 2, 0, []⟩, ⟨0, 0xC0000000, 0x40000000, 4, 0, []⟩] }
        ledgers := [⟨0, 2, 0, 100, 1, 1, [], []⟩] } }
    [(.MC_CFG 0, F.MC_CFG_ENABLE, 1), (.MC_CFG 0, F.MC_CFG_RANKS, 2), (.MC_DIMM 0 0, F.MC_DIMM_WIDTH, 1)]
/-- A core changed. -/
def cor (c : Nat) (f : Core → Core) (s : State := mem) : State := s.setCore c (f (s.core c))
/-- CSRs stored. -/
def csrs (c : Nat) (l : List (Nat × Nat)) (s : State := mem) : State := wr s (l.map (fun e => (Reg.CSR c e.1, e.2)))
/-- Core 24 with vector state on, SEW 16, LMUL 8 and vl as given. -/
def vec (vl : Nat) (f : Core → Core := id) : State := csrs 24 [(0x300, 0x200), (0xC21, 0x0B), (0xC20, vl)] (cor 24 f)
/-- A line whose byte k is k, with the top bit of each byte of the upper half set. -/
def ramp : LineData := (List.range 64).foldl (fun a k => a ||| (BitVec.ofNat 512 (k + (if 32 ≤ k then 128 else 0)) <<< (8 * k))) 0
/-- Core 24 with the same three entries in each of its TLBs. -/
def ents : List TlbEnt := [⟨0, 0, 0, false, 12, 5, 9, 7, 0, true⟩, ⟨0, 0, 0, false, 12, 6, 9, 7, 0, true⟩, ⟨1, 0, 0, true, 12, 5, 9, 7, 0, true⟩]
def tlbs : State := cor 24 (fun k => { k with x := [(5, 0x5000)], itlb := ents, dtlb := ents, l2tlb := ents })
def mb24 : State := cor 24 (fun k => { k with mb := [⟨0x2000000, 5, 1, false, false, false⟩], l2 := [⟨0x2000000, 3, 0, false⟩] })
def virtM : State := cor 24 (fun k => { k with virt := true, priv := 1 }) tlbs
/-- The state that an outcome goes on in. -/
def nextOf : Host.Outcome State Fault Refusal → State | .next t => t | _ => State.reset
end Sys2Proof.W

theorem witness_CoreStart :
    (∃ (who : Agent) (c : Fin 384) (v : Word) (s : State) (h : Nat), s.isHouse who = true ∧ v.getLsbD 0 = true ∧ v.getLsbD 1 = false ∧
    s.handOf c = some h ∧ s.coreState c = 1 ∧ s.dieInService (c.val / 24) = true ∧ s.get (.SCK_DIE (c.val / 24)) F.SCK_DIE_TARGET ≤ 1 ∧
    s.get .FOL_STATE F.FOL_STATE_STATE ≠ 6 ∧ (s.handState h = 1 ∨ s.handState h = 2 ∨ s.handState h = 4)) ∧
    (∃ (who : Agent) (c : Fin 384) (v : Word) (s : State) (h : Nat), s.isHouse who = true ∧ v.getLsbD 0 = true ∧ v.getLsbD 1 = false ∧
    s.handOf c = some h ∧ s.coreState c = 1 ∧ s.dieInService (c.val / 24) = true ∧ s.get (.SCK_DIE (c.val / 24)) F.SCK_DIE_TARGET ≤ 1 ∧
    s.get .FOL_STATE F.FOL_STATE_STATE ≠ 6 ∧ (s.handState h = 1 ∨ s.handState h = 2 ∨ s.handState h = 4)) ∧
    (∃ (who : Agent) (v : Word) (s : State), (s.isHouse who = false ∨ v.getLsbD 0 = v.getLsbD 1)) ∧
    (∃ (c : Fin 384) (v : Word) (s : State), v.getLsbD 1 = false ∧ (s.coreState c ≠ 1 ∨ s.get .FOL_STATE F.FOL_STATE_STATE = 6 ∨ 1 <
    s.get (.SCK_DIE (c.val / 24)) F.SCK_DIE_TARGET)) ∧
    (∃ (c : Fin 384) (s : State) (h : Nat), s.handOf c = some h ∧ s.folio.isLedger h = false ∧ s.coreState c = 2 ∧ s.dieInService (c.val
    / 24) = true) :=
  ⟨⟨.core 0, 24, 1, pt mem [(.CORE_STATE 24, F.CORE_STATE_STATE, 1)], 1, by decide +kernel⟩,
   ⟨.core 0, 48, 5, pt mem [(.CORE_STATE 48, F.CORE_STATE_STATE, 1), (.CORE_STATE 49, F.CORE_STATE_STATE, 2)], 2, by decide +kernel⟩,
   ⟨.core 24, 2, W.base, by decide +kernel⟩,
   ⟨24, 1, W.base, by decide +kernel⟩,
   ⟨24, pt mem [(.CORE_STATE 24, F.CORE_STATE_STATE, 2)], 1, by decide +kernel⟩⟩

theorem witness_CoreStop :
    (∃ (who : Agent) (c : Fin 384) (v : Word) (s : State) (h : Nat), s.isHouse who = true ∧ v.getLsbD 0 = false ∧ v.getLsbD 1 = true ∧
    s.handOf c = some h ∧ s.folio.isLedger h = false ∧ (s.coreState c = 2 ∨ s.coreState c = 3)) ∧
    (∃ (who : Agent) (c : Fin 384) (v : Word) (s : State) (h : Nat), s.isHouse who = true ∧ v.getLsbD 0 = false ∧ v.getLsbD 1 = true ∧
    s.handOf c = some h ∧ s.folio.isLedger h = true ∧ s.coreState c = 3 ∧ (∀ x ∈ s.coresOf h, s.coreState x ≠ 4) ∧ 1 < s.get
    (.CSQ_LDG_PHASE h) F.CSQ_LDG_PHASE_PHASE) ∧
    (∃ (c : Fin 384) (s : State), s.ledgerCore c = false ∧ s.coreState c = 4 ∧ (s.core c).mb = [] ∧ (s.core c).stores = [] ∧ (s.core
    c).l2 = [] ∧ (s.core c).defer = none) ∧
    (∃ (c : Fin 384) (s : State), s.coreState c ≠ 4) :=
  ⟨⟨.core 0, 24, 6, cor 24 (fun k => { k with mb := [⟨5, 0, 1, false, false, false⟩] }), 1, by decide +kernel⟩,
   ⟨.core 0, 49, 2, pt mem [(.CSQ_LDG_PHASE 2, F.CSQ_LDG_PHASE_PHASE, 2)], 2, by decide +kernel⟩,
   ⟨24, pt mem [(.CORE_STATE 24, F.CORE_STATE_STATE, 4)], by decide +kernel⟩,
   ⟨24, mem, by decide +kernel⟩⟩

theorem witness_CoreInterrupts :
    (∃ (who : Agent) (c : Fin 384) (s : State) (h : Nat), s.isHouse who = true ∧ s.handOf c = some h ∧ s.folio.isLedger h = false ∧
    s.coreState c = 3 ∧ s.csr c 0x304 = 0 ∧ (s.core c).asleep = false) ∧
    (∃ (c : Fin 384) (s : State), s.coreState c = 3 ∧ s.ledgerCore c = false ∧ timerDue s c .machine = true ∧ s.csr c 0x304 = 0 ∧
    (s.core c).asleep = false) ∧
    (∃ (c : Fin 384) (tm : Timer) (s : State), (s.coreState c ≠ 3 ∨ s.ledgerCore c = true ∨ timerDue s c tm = false)) ∧
    (∃ (c : Fin 384) (tm : Timer) (s : State), s.coreState c = 3 ∧ s.ledgerCore c = false ∧ timerDue s c tm = true) ∧
    (∃ (who : Agent) (c : Fin 384) (s : State), coreRegWriter s who c = true ∧ holder s who c = none) ∧
    (∃ (who : Agent) (c : Fin 384) (s : State), coreRegWriter s who c = true ∧ holder s who c = none) ∧
    (∃ (who : Agent) (c : Fin 384) (s : State), coreRegWriter s who c = false ∧ holder s who c = none) :=
  ⟨⟨.core 0, 24, W.base, 1, by decide +kernel⟩,
   ⟨24, wr mem [(.CORE_MTIMECMP 24, 2000)], by decide +kernel⟩,
   ⟨48, .supervisor, W.base, by decide +kernel⟩,
   ⟨24, .machine, csrs 24 [(0x304, 0x80), (0x300, 8)] (wr mem [(.CORE_MTIMECMP 24, 2000)]), by decide +kernel⟩,
   ⟨.core 0, 24, csrs 24 [(0x304, 8), (0x300, 8)], by decide +kernel⟩,
   ⟨.core 0, 24, W.base, by decide +kernel⟩,
   ⟨.core 24, 0, W.base, by decide +kernel⟩⟩

theorem witness_CoreFences :
    (∃ (c : Fin 384) (p : BitVec 4) (s : State), s.ready c = true ∧ s.ledgerCore c = false ∧ (p.getLsbD 2 = false ∨ ioOut s c = false) ∧
    p.getLsbD 0 = false) ∧
    (∃ (c : Fin 384) (p : BitVec 4) (s : State), s.ready c = true ∧ s.ledgerCore c = false ∧ (p.getLsbD 2 = false ∨ ioOut s c = false) ∧
    drained (drainAll s c) c = true) ∧
    (∃ (c : Fin 384) (p : BitVec 4) (s : State), s.ready c = true ∧ s.ledgerCore c = false ∧ p.getLsbD 2 = true ∧ ioOut s c = true) ∧
    (∃ (c : Fin 384) (s : State) (u : State), s.ready c = true ∧ s.ledgerCore c = false ∧ u = drainAll s c ∧ drained u c = true) ∧
    (∃ (c : Fin 384) (s : State) (u : State), s.ready c = true ∧ s.ledgerCore c = false ∧ u = drainAll s c ∧ drained u c = true ∧
    fenceTrap s c false true = none ∧ (s.core c).virt = false) ∧
    (∃ (c : Fin 384) (s : State) (u : State), s.ready c = true ∧ s.ledgerCore c = false ∧ u = drainAll s c ∧ drained u c = true ∧
    fenceTrap s c false true = none ∧ (s.core c).virt = true) ∧
    (∃ (c : Fin 384) (s : State) (u : State), s.ready c = true ∧ s.ledgerCore c = false ∧ u = drainAll s c ∧ drained u c = true ∧
    fenceTrap s c true false = none) ∧
    (∃ (c : Fin 384) (s : State) (u : State), s.ready c = true ∧ s.ledgerCore c = false ∧ u = drainAll s c ∧ drained u c = true ∧
    fenceTrap s c true true = none) ∧
    (∃ (c : Fin 384) (s : State) (u : State), s.ready c = true ∧ s.ledgerCore c = false ∧ u = drainAll s c ∧ drained u c = true ∧
    fenceTrap s c false false = none) ∧
    (∃ (c : Fin 384) (s : State), s.ready c = true ∧ s.ledgerCore c = false ∧ fenceTrap s c false true = none ∧ (s.core c).virt = false) ∧
    (∃ (c : Fin 384) (s : State), s.ready c = true ∧ s.ledgerCore c = false ∧ fenceTrap s c false true = none ∧ (s.core c).virt = true) ∧
    (∃ (c : Fin 384) (s : State), s.ready c = true ∧ s.ledgerCore c = false ∧ fenceTrap s c true false = none) ∧
    (∃ (c : Fin 384) (s : State), s.ready c = true ∧ s.ledgerCore c = false ∧ fenceTrap s c true true = none) ∧
    (∃ (c : Fin 384) (s : State), s.ready c = true ∧ s.ledgerCore c = false ∧ fenceTrap s c false false = none) ∧
    (∃ (c : Fin 384) (s : State) (u : State), s.ready c = true ∧ s.ledgerCore c = true ∧ u = drainAll s c) ∧
    (∃ (c : Fin 384) (s : State) (u : State), s.ready c = true ∧ s.ledgerCore c = true ∧ u = drainAll s c ∧ fenceTrap s c false true =
    none) ∧
    (∃ (c : Fin 384) (s : State) (u : State), s.ready c = true ∧ s.ledgerCore c = true ∧ u = drainAll s c ∧ fenceTrap s c false false =
    none) ∧
    (∃ (c : Fin 384) (s : State) (n : Nat), s.ready c = true ∧ fenceTrap s c false true = some n) ∧
    (∃ (c : Fin 384) (s : State) (n : Nat), s.ready c = true ∧ fenceTrap s c true false = some n) ∧
    (∃ (c : Fin 384) (s : State) (n : Nat), s.ready c = true ∧ fenceTrap s c true true = some n) ∧
    (∃ (c : Fin 384) (s : State) (n : Nat), s.ready c = true ∧ fenceTrap s c false false = some n) :=
  ⟨⟨24, 6, mb24, by decide +kernel⟩,
   ⟨24, 5, mb24, by decide +kernel⟩,
   ⟨24, 4, mem.setDie 1 { mem.die 1 with partials := [{ msg .wrPartial 5 with txn := ioTxn + 24 }] }, by decide +kernel⟩,
   ⟨24, tlbs, drainAll tlbs 24, by decide +kernel⟩,
   ⟨24, tlbs, drainAll tlbs 24, by decide +kernel⟩,
   ⟨24, virtM, drainAll virtM 24, by decide +kernel⟩,
   ⟨24, tlbs, drainAll tlbs 24, by decide +kernel⟩,
   ⟨24, tlbs, drainAll tlbs 24, by decide +kernel⟩,
   ⟨24, tlbs, drainAll tlbs 24, by decide +kernel⟩,
   ⟨24, tlbs, by decide +kernel⟩,
   ⟨24, virtM, by decide +kernel⟩,
   ⟨24, tlbs, by decide +kernel⟩,
   ⟨24, tlbs, by decide +kernel⟩,
   ⟨24, tlbs, by decide +kernel⟩,
   ⟨48,
    cor 48 (fun k => { k with mb := [⟨0x3000000, 0, 1, false, false, false⟩] }),
    drainAll (cor 48 (fun k => { k with mb := [⟨0x3000000, 0, 1, false, false, false⟩] })) 48,
    by decide +kernel⟩,
   ⟨48,
    cor 48 (fun k => { k with mb := [⟨0x3000000, 0, 1, false, false, false⟩] }),
    drainAll (cor 48 (fun k => { k with mb := [⟨0x3000000, 0, 1, false, false, false⟩] })) 48,
    by decide +kernel⟩,
   ⟨48,
    cor 48 (fun k => { k with mb := [⟨0x3000000, 0, 1, false, false, false⟩] }),
    drainAll (cor 48 (fun k => { k with mb := [⟨0x3000000, 0, 1, false, false, false⟩] })) 48,
    by decide +kernel⟩,
   ⟨24, cor 24 (fun k => { k with priv := 0 }), 2, by decide +kernel⟩,
   ⟨24, cor 24 (fun k => { k with priv := 0 }), 2, by decide +kernel⟩,
   ⟨24, cor 24 (fun k => { k with priv := 0 }), 2, by decide +kernel⟩,
   ⟨24, cor 24 (fun k => { k with priv := 0 }), 2, by decide +kernel⟩⟩

theorem witness_FenceSelects :
    (∃ (c : Fin 384) (rs1 : Fin 32) (rs2 : Fin 32) (s : State) (t : State), s.ready c = true ∧ s.ledgerCore c = false ∧ (s.core c).mb =
    [] ∧ fenceTrap s c false true = none ∧ (s.core c).virt = false ∧ exec (.sfenceVma c rs1 rs2) s = .next t) ∧
    (∃ (c : Fin 384) (rs1 : Fin 32) (rs2 : Fin 32) (s : State) (t : State), s.ready c = true ∧ s.ledgerCore c = false ∧ (s.core c).mb =
    [] ∧ fenceTrap s c false true = none ∧ (s.core c).virt = false ∧ exec (.sfenceVma c rs1 rs2) s = .next t ∧ rs1 = 0 ∧ rs2 = 0) :=
  ⟨⟨24, 5, 6, tlbs, nextOf (exec (.sfenceVma 24 5 6) tlbs), by decide +kernel, by decide +kernel, by decide +kernel, by decide +kernel,
   by decide +kernel, rfl⟩,
   ⟨24, 0, 0, tlbs, nextOf (exec (.sfenceVma 24 0 0) tlbs), by decide +kernel, by decide +kernel, by decide +kernel, by decide +kernel,
   by decide +kernel, rfl, by decide +kernel, by decide +kernel⟩⟩

theorem witness_CoreWaits :
    (∃ (c : Fin 384) (s : State) (u : State), s.ready c = true ∧ s.ledgerCore c = false ∧ u = drainAll s c ∧ drained u c = true ∧
    wfiTrap s c = none ∧ pendingInts u c = [] ∧ u.wake c = false) ∧
    (∃ (c : Fin 384) (s : State) (u : State), s.ready c = true ∧ s.ledgerCore c = false ∧ u = drainAll s c ∧ drained u c = true ∧
    wfiTrap s c = none ∧ (pendingInts u c ≠ [] ∨ u.wake c = true)) ∧
    (∃ (c : Fin 384) (s : State) (u : State), s.ready c = true ∧ s.ledgerCore c = false ∧ u = drainAll s c ∧ drained u c = true) ∧
    (∃ (c : Fin 384) (s : State) (u : State), s.ready c = true ∧ s.ledgerCore c = true ∧ u = drainAll s c ∧ wfiTrap s c = none) ∧
    (∃ (c : Fin 384) (s : State) (u : State), s.ready c = true ∧ s.ledgerCore c = true ∧ u = drainAll s c) ∧
    (∃ (c : Fin 384) (s : State) (n : Nat), s.ready c = true ∧ wfiTrap s c = some n) ∧
    (∃ (c : Fin 384) (s : State), s.ready c = true ∧ s.ledgerCore c = false) ∧
    (∃ (c : Fin 384) (s : State), s.ready c = true ∧ s.ledgerCore c = false ∧ (s.core c).priv = 3 ∧ (s.core c).virt = false) :=
  ⟨⟨24, mem, drainAll mem 24, by decide +kernel⟩,
   ⟨24, csrs 24 [(0x344, 8), (0x304, 8)], drainAll (csrs 24 [(0x344, 8), (0x304, 8)]) 24, by decide +kernel⟩,
   ⟨24, mem, drainAll mem 24, by decide +kernel⟩,
   ⟨48, mem, drainAll mem 48, by decide +kernel⟩,
   ⟨48, mem, drainAll mem 48, by decide +kernel⟩,
   ⟨24, cor 24 (fun k => { k with priv := 0, virt := true }), 22, by decide +kernel⟩,
   ⟨24, cor 24 (fun k => { k with priv := 1, virt := true }), by decide +kernel⟩,
   ⟨24, mem, by decide +kernel⟩⟩

theorem witness_LedgerQuantum :
    (∃ (c : Fin 384) (w : BitVec 32) (s : State) (h : Nat), s.ready c = true ∧ s.handOf c = some h ∧ s.folio.isLedger h = true ∧ (s.core
    c).mb = [] ∧ (s.core c).count + 1 < s.quantumOf c ∧ jlForm w 0 false = true) ∧
    (∃ (c : Fin 384) (w : BitVec 32) (s : State) (h : Nat), s.ready c = true ∧ s.handOf c = some h ∧ s.folio.isLedger h = true ∧ (s.core
    c).mb = [] ∧ (s.core c).count + 1 < s.quantumOf c ∧ jlForm w 1 true = true ∧ (s.xreg c (w.toNat / 32768 % 32)).toNat ≤ epochOf s c) ∧
    (∃ (c : Fin 384) (w : BitVec 32) (s : State) (h : Nat), s.ready c = true ∧ s.handOf c = some h ∧ s.folio.isLedger h = true ∧ (s.core
    c).mb = [] ∧ (s.core c).count + 1 < s.quantumOf c ∧ jlForm w 1 true = true ∧ epochOf s c < (s.xreg c (w.toNat / 32768 % 32)).toNat) ∧
    (∃ (c : Fin 384) (w : BitVec 32) (s : State) (h : Nat), s.ready c = true ∧ s.handOf c = some h ∧ s.folio.isLedger h = true ∧ (s.core
    c).mb = [] ∧ (s.core c).count + 1 < s.quantumOf c ∧ jlForm w 2 false = true) ∧
    (∃ (c : Fin 384) (s : State) (h : Nat), s.ready c = true ∧ s.handOf c = some h ∧ s.folio.isLedger h = true ∧ (s.core c).mb = [] ∧
    (s.core c).count + 1 < s.quantumOf c) ∧
    (∃ (c : Fin 384) (s : State), s.ready c = true ∧ s.ledgerCore c = false) :=
  ⟨⟨48, 0x0000002B, cor 48 (fun k => { k with count := 98 }), 2, by decide +kernel⟩,
   ⟨48, 0x0002902B, cor 48 (fun k => { k with x := [(5, 7)] }) (wr mem [(.CSQ_LDG_EPOCH 2, 7)]), 2, by decide +kernel⟩,
   ⟨48, 0x0002902B, cor 48 (fun k => { k with x := [(5, 8)] }) (wr mem [(.CSQ_LDG_EPOCH 2, 7)]), 2, by decide +kernel⟩,
   ⟨48, 0x0000202B, cor 48 (fun k => { k with mail := [⟨1, 2, 3, 4⟩] }), 2, by decide +kernel⟩,
   ⟨48, mem, 2, by decide +kernel⟩,
   ⟨24, mem, by decide +kernel⟩⟩

theorem witness_WalkPrefetch :
    (∃ (c : Fin 384) (va : Word) (acc : Acc) (why : WalkWhy) (s : State) (u : State) (pa : Nat) (pb : Nat), s.runs c = true ∧ (why ≠
    .prefetch ∨ (s.csr c 0x7C0).getLsbD 0 = false) ∧ translate s c va acc = (.ok pa pb, u)) ∧
    (∃ (c : Fin 384) (va : Word) (acc : Acc) (s : State) (u : State) (n : Nat) (g : Nat), s.runs c = true ∧ translate s c va acc =
    (.fault n g, u)) ∧
    (∃ (c : Fin 384) (va : Word) (acc : Acc) (s : State) (u : State) (n : Nat) (g : Nat), s.runs c = true ∧ translate s c va acc =
    (.fault n g, u) ∧ (s.csr c 0x7C0).getLsbD 0 = false) ∧
    (∃ (c : Fin 384) (s : State), s.runs c = false) ∧
    (∃ (c : Fin 384) (va : Word) (s : State) (u : State) (pa : Nat), s.runs c = true ∧ (s.csr c 0x7C0).getLsbD 0 = false ∧ translate s c
    va .load = (.ok pa 0, u) ∧ pmpOk u c (accMode u c .load).1 (64 * (pa / 64)) 64 .load = true ∧ reach u c (64 * (pa / 64)) 64 .load =
    .dram ∧ l2Find u c (pa / 64) = none ∧ l3Find u (c.val / 24) (pa / 64) = none ∧ (u.die (c.val / 24)).misses.any (fun x => x.line ==
    pa / 64) = false ∧ (u.die (c.val / 24)).misses.length < 512 ∧ wbHolds u (c.val / 24) (pa / 64) = false ∧ wbFits u (c.val / 24) =
    true) ∧
    (∃ (c : Fin 384) (va : Word) (s : State) (u : State) (pa : Nat) (pb : Nat), s.runs c = true ∧ translate s c va .load = (.ok pa pb,
    u) ∧ (s.csr c 0x7C0).getLsbD 0 = false ∧ (pb ≠ 0 ∨ pmpOk u c (accMode u c .load).1 (64 * (pa / 64)) 64 .load = false)) ∧
    (∃ (c : Fin 384) (s : State), (s.csr c 0x7C0).getLsbD 0 = true) :=
  ⟨⟨24, 0x80000000, .load, .speculative, mem, (translate mem 24 0x80000000 .load).2, 0x80000000, 0, by decide +kernel⟩,
   ⟨24,
    0x123456789000,
    .load,
    csrs 24 [(0x180, 8 * 2 ^ 60)] (cor 24 (fun k => { k with priv := 1 })),
    (translate (csrs 24 [(0x180, 8 * 2 ^ 60)] (cor 24 (fun k => { k with priv := 1 }))) 24 0x123456789000 .load).2,
    13,
    0,
    by decide +kernel⟩,
   ⟨24,
    0x123456789000,
    .load,
    csrs 24 [(0x180, 8 * 2 ^ 60)] (cor 24 (fun k => { k with priv := 1 })),
    (translate (csrs 24 [(0x180, 8 * 2 ^ 60)] (cor 24 (fun k => { k with priv := 1 }))) 24 0x123456789000 .load).2,
    13,
    0,
    by decide +kernel⟩,
   ⟨30, mem, by decide +kernel⟩,
   ⟨24, 0x80000001, mem, (translate mem 24 0x80000001 .load).2, 0x80000001, by decide +kernel⟩,
   ⟨24,
    0x80000001,
    cor 24 (fun k => { k with priv := 1 }) (csrs 24 [(0x3A0, 0)]),
    (translate (cor 24 (fun k => { k with priv := 1 }) (csrs 24 [(0x3A0, 0)])) 24 0x80000001 .load).2,
    0x80000001,
    0,
    by decide +kernel⟩,
   ⟨24, csrs 24 [(0x7C0, 1)], by decide +kernel⟩⟩

namespace Sys2Proof.W
/-- Core 24 with x5 at a line of its window and that line in its L1D and, in M, in its L2. -/
def hit (f : Core → Core := id) : State :=
  cor 24 (fun k => f { k with x := [(5, 0x80000038), (6, 0xFFFFFFFF00000001)], l1d := [(0x2000000, ramp)], l2 := [⟨0x2000000, 3, ramp, false⟩] })
end Sys2Proof.W

theorem witness_CoreLoadHit :
    (∃ (c : Fin 384) (op : LoadOp) (s : State) (s0 : State) (u : State) (u1 : State) (pa : Nat) (v : Nat), s.ready c = true ∧ widthOk s
    c op.rd op.bytes = true ∧ s0 = atElement s c op.rd ∧ (accessVa s0 c .load op.rd op.base op.imm).toNat % 4096 + op.bytes ≤ 4096 ∧
    locate s0 c (accessVa s0 c .load op.rd op.base op.imm) op.bytes .load .load false = (.at_ pa 0 .dram, u) ∧ u.ledgerCore c = false ∧
    (u.core c).mb = [] ∧ gather c (parts [(pa, op.bytes)]) u 0 0 = (.inr (v, none), u1)) ∧
    (∃ (c : Fin 384) (op : LoadOp) (s : State) (s0 : State) (u : State) (u1 : State) (pa : Nat) (v : Nat), s.ready c = true ∧ widthOk s
    c op.rd op.bytes = true ∧ s0 = atElement s c op.rd ∧ (accessVa s0 c .load op.rd op.base op.imm).toNat % 4096 + op.bytes ≤ 4096 ∧
    locate s0 c (accessVa s0 c .load op.rd op.base op.imm) op.bytes .load .load false = (.at_ pa 0 .dram, u) ∧ u.ledgerCore c = false ∧
    (u.core c).mb = [] ∧ gather c (parts [(pa, op.bytes)]) u 0 0 = (.inr (v, none), u1)) ∧
    (∃ (c : Fin 384) (op : LoadOp) (s : State) (s0 : State) (u : State) (u1 : State) (pa : Nat) (v : Nat), s.ready c = true ∧ widthOk s
    c op.rd op.bytes = true ∧ s0 = atElement s c op.rd ∧ (accessVa s0 c .load op.rd op.base op.imm).toNat % 4096 + op.bytes ≤ 4096 ∧
    locate s0 c (accessVa s0 c .load op.rd op.base op.imm) op.bytes .load .load false = (.at_ pa 0 .dram, u) ∧ u.ledgerCore c = false ∧
    (u.core c).mb = [] ∧ gather c (parts [(pa, op.bytes)]) u 0 0 = (.inr (v, none), u1)) ∧
    (∃ (n : Nat) (v : Nat), (n = 2 ∨ n = 4 ∨ n = 8) ∧ v < 2 ^ (8 * n)) ∧
    (∃ (c : Fin 384) (op : LoadOp) (r : Fin 32) (s : State) (u : State) (pa : Nat) (data : LineData), 
    let va := maskVa s c .load (s.xreg c op.base + op.imm.signExtend 64)
    s.ready c = true ∧ op.rd = .x r ∧ (op.bytes = 1 ∨ op.bytes = 2 ∨ op.bytes = 4 ∨ op.bytes = 8) ∧ va.toNat % 4096 + op.bytes ≤ 4096 ∧
    translate s c va .load = (.ok pa 0, u) ∧ pa % 64 + op.bytes ≤ 64 ∧ pmpOk u c (accMode u c .load).1 pa op.bytes .load = true ∧ reach
    u c pa op.bytes .load = .dram ∧ u.ledgerCore c = false ∧ (u.core c).mb = [] ∧ sramBits u 1 c (pa / 64 * 64) = 0 ∧ (u.core
    c).l1d.get? (pa / 64) = some data) :=
  ⟨⟨24, ⟨.f 3, 5, 0, 8, true, true⟩, csrs 24 [(0x300, 0x2200)] (hit), atElement (csrs 24 [(0x300, 0x2200)] (hit)) 24 (⟨.f 3, 5, 0, 8,
   true, true⟩ : LoadOp).rd, (locate (atElement (csrs 24 [(0x300, 0x2200)] (hit)) 24 (⟨.f 3, 5, 0, 8, true, true⟩ : LoadOp).rd) 24
   (accessVa (atElement (csrs 24 [(0x300, 0x2200)] (hit)) 24 (⟨.f 3, 5, 0, 8, true, true⟩ : LoadOp).rd) 24 .load (⟨.f 3, 5, 0, 8, true,
   true⟩ : LoadOp).rd (⟨.f 3, 5, 0, 8, true, true⟩ : LoadOp).base (⟨.f 3, 5, 0, 8, true, true⟩ : LoadOp).imm) (⟨.f 3, 5, 0, 8, true,
   true⟩ : LoadOp).bytes .load .load false).2, (gather 24 (parts [(0x80000038, (⟨.f 3, 5, 0, 8, true, true⟩ : LoadOp).bytes)]) ((locate
   (atElement (csrs 24 [(0x300, 0x2200)] (hit)) 24 (⟨.f 3, 5, 0, 8, true, true⟩ : LoadOp).rd) 24 (accessVa (atElement (csrs 24 [(0x300,
   0x2200)] (hit)) 24 (⟨.f 3, 5, 0, 8, true, true⟩ : LoadOp).rd) 24 .load (⟨.f 3, 5, 0, 8, true, true⟩ : LoadOp).rd (⟨.f 3, 5, 0, 8,
   true, true⟩ : LoadOp).base (⟨.f 3, 5, 0, 8, true, true⟩ : LoadOp).imm) (⟨.f 3, 5, 0, 8, true, true⟩ : LoadOp).bytes .load .load
   false).2) 0 0).2, 0x80000038, (lineGet ramp 0x38 8), by decide +kernel⟩,
   ⟨24, ⟨.v ⟨8, 3, 0, true, 7⟩, 5, 0, 8, true, true⟩, csrs 24 [(0x300, 0x2200)] (hit), atElement (csrs 24 [(0x300, 0x2200)] (hit)) 24
   (⟨.v ⟨8, 3, 0, true, 7⟩, 5, 0, 8, true, true⟩ : LoadOp).rd, (locate (atElement (csrs 24 [(0x300, 0x2200)] (hit)) 24 (⟨.v ⟨8, 3, 0,
   true, 7⟩, 5, 0, 8, true, true⟩ : LoadOp).rd) 24 (accessVa (atElement (csrs 24 [(0x300, 0x2200)] (hit)) 24 (⟨.v ⟨8, 3, 0, true, 7⟩, 5,
   0, 8, true, true⟩ : LoadOp).rd) 24 .load (⟨.v ⟨8, 3, 0, true, 7⟩, 5, 0, 8, true, true⟩ : LoadOp).rd (⟨.v ⟨8, 3, 0, true, 7⟩, 5, 0, 8,
   true, true⟩ : LoadOp).base (⟨.v ⟨8, 3, 0, true, 7⟩, 5, 0, 8, true, true⟩ : LoadOp).imm) (⟨.v ⟨8, 3, 0, true, 7⟩, 5, 0, 8, true, true⟩
   : LoadOp).bytes .load .load false).2, (gather 24 (parts [(0x80000038, (⟨.v ⟨8, 3, 0, true, 7⟩, 5, 0, 8, true, true⟩ :
   LoadOp).bytes)]) ((locate (atElement (csrs 24 [(0x300, 0x2200)] (hit)) 24 (⟨.v ⟨8, 3, 0, true, 7⟩, 5, 0, 8, true, true⟩ : LoadOp).rd)
   24 (accessVa (atElement (csrs 24 [(0x300, 0x2200)] (hit)) 24 (⟨.v ⟨8, 3, 0, true, 7⟩, 5, 0, 8, true, true⟩ : LoadOp).rd) 24 .load
   (⟨.v ⟨8, 3, 0, true, 7⟩, 5, 0, 8, true, true⟩ : LoadOp).rd (⟨.v ⟨8, 3, 0, true, 7⟩, 5, 0, 8, true, true⟩ : LoadOp).base (⟨.v ⟨8, 3,
   0, true, 7⟩, 5, 0, 8, true, true⟩ : LoadOp).imm) (⟨.v ⟨8, 3, 0, true, 7⟩, 5, 0, 8, true, true⟩ : LoadOp).bytes .load .load false).2)
   0 0).2, 0x80000038, (lineGet ramp 0x38 8), by decide +kernel⟩,
   ⟨24, ⟨.x 4, 5, 0, 8, true, true⟩, csrs 24 [(0x300, 0x2200)] (hit), atElement (csrs 24 [(0x300, 0x2200)] (hit)) 24 (⟨.x 4, 5, 0, 8,
   true, true⟩ : LoadOp).rd, (locate (atElement (csrs 24 [(0x300, 0x2200)] (hit)) 24 (⟨.x 4, 5, 0, 8, true, true⟩ : LoadOp).rd) 24
   (accessVa (atElement (csrs 24 [(0x300, 0x2200)] (hit)) 24 (⟨.x 4, 5, 0, 8, true, true⟩ : LoadOp).rd) 24 .load (⟨.x 4, 5, 0, 8, true,
   true⟩ : LoadOp).rd (⟨.x 4, 5, 0, 8, true, true⟩ : LoadOp).base (⟨.x 4, 5, 0, 8, true, true⟩ : LoadOp).imm) (⟨.x 4, 5, 0, 8, true,
   true⟩ : LoadOp).bytes .load .load false).2, (gather 24 (parts [(0x80000038, (⟨.x 4, 5, 0, 8, true, true⟩ : LoadOp).bytes)]) ((locate
   (atElement (csrs 24 [(0x300, 0x2200)] (hit)) 24 (⟨.x 4, 5, 0, 8, true, true⟩ : LoadOp).rd) 24 (accessVa (atElement (csrs 24 [(0x300,
   0x2200)] (hit)) 24 (⟨.x 4, 5, 0, 8, true, true⟩ : LoadOp).rd) 24 .load (⟨.x 4, 5, 0, 8, true, true⟩ : LoadOp).rd (⟨.x 4, 5, 0, 8,
   true, true⟩ : LoadOp).base (⟨.x 4, 5, 0, 8, true, true⟩ : LoadOp).imm) (⟨.x 4, 5, 0, 8, true, true⟩ : LoadOp).bytes .load .load
   false).2) 0 0).2, 0x80000038, (lineGet ramp 0x38 8), by decide +kernel⟩,
   ⟨4, 7, by decide +kernel⟩,
   ⟨24, ⟨.x 7, 5, 0, 8, true, true⟩, 7, hit, (translate hit 24 (maskVa hit 24 .load (hit.xreg 24 (⟨.x 7, 5, 0, 8, true, true⟩ :
   LoadOp).base + (⟨.x 7, 5, 0, 8, true, true⟩ : LoadOp).imm.signExtend 64)) .load).2, 0x80000038, ramp, by decide +kernel⟩⟩

theorem witness_CoreStoreEntry :
    (∃ (c : Fin 384) (op : StoreOp) (s : State) (s0 : State) (u : State) (u1 : State) (pa : Nat) (pb : Nat), s.ready c = true ∧ widthOk
    s c op.rs2 op.bytes = true ∧ s0 = atElement s c op.rs2 ∧ (accessVa s0 c .store op.rs2 op.base op.imm).toNat % 4096 + op.bytes ≤ 4096
    ∧ locate s0 c (accessVa s0 c .store op.rs2 op.base op.imm) op.bytes .store .store false = (.at_ pa pb .dram, u) ∧ doStore u c
    (storeParts (dataReg s0 c op.bytes op.rs2).toNat (pieceParts [⟨pa, op.bytes, pb, false⟩]) 0) = (true, u1)) ∧
    (∃ (c : Fin 384) (op : StoreOp) (s : State) (s0 : State) (u : State) (u1 : State) (pa : Nat) (pb : Nat), s.ready c = true ∧ widthOk
    s c op.rs2 op.bytes = true ∧ s0 = atElement s c op.rs2 ∧ (accessVa s0 c .store op.rs2 op.base op.imm).toNat % 4096 + op.bytes ≤ 4096
    ∧ locate s0 c (accessVa s0 c .store op.rs2 op.base op.imm) op.bytes .store .store false = (.at_ pa pb .dram, u) ∧ doStore u c
    (storeParts (dataReg s0 c op.bytes op.rs2).toNat (pieceParts [⟨pa, op.bytes, pb, false⟩]) 0) = (true, u1)) ∧
    (∃ (c : Fin 384) (op : StoreOp) (s : State) (s0 : State) (u : State) (u1 : State) (pa : Nat) (pb : Nat), s.ready c = true ∧ widthOk
    s c op.rs2 op.bytes = true ∧ s0 = atElement s c op.rs2 ∧ (accessVa s0 c .store op.rs2 op.base op.imm).toNat % 4096 + op.bytes ≤ 4096
    ∧ locate s0 c (accessVa s0 c .store op.rs2 op.base op.imm) op.bytes .store .store false = (.at_ pa pb .dram, u) ∧ doStore u c
    (storeParts (dataReg s0 c op.bytes op.rs2).toNat (pieceParts [⟨pa, op.bytes, pb, false⟩]) 0) = (true, u1)) ∧
    (∃ (c : Fin 384) (op : StoreOp) (r : Fin 32) (s : State) (u : State) (pa : Nat), 
    let va := maskVa s c .store (s.xreg c op.base + op.imm.signExtend 64)
    s.ready c = true ∧ op.rs2 = .x r ∧ (op.bytes = 1 ∨ op.bytes = 2 ∨ op.bytes = 4 ∨ op.bytes = 8) ∧ va.toNat % 4096 + op.bytes ≤ 4096 ∧
    translate s c va .store = (.ok pa 0, u) ∧ pa % 64 + op.bytes ≤ 64 ∧ pmpOk u c (accMode u c .store).1 pa op.bytes .store = true ∧
    reach u c pa op.bytes .store = .dram ∧ u.ledgerCore c = false ∧ (u.core c).mb.length < 11 ∧ (u.core c).stores = [] ∧ (u.core
    c).mb.any (fun e => e.line == pa / 64) = false ∧ u.bit .FLT_INJECT F.FLT_INJECT_ARM = false) :=
  ⟨⟨24, ⟨.f 3, 5, 0, 8, true⟩, csrs 24 [(0x300, 0x2200)] (hit), atElement (csrs 24 [(0x300, 0x2200)] (hit)) 24 (⟨.f 3, 5, 0, 8, true⟩ :
   StoreOp).rs2, (locate (atElement (csrs 24 [(0x300, 0x2200)] (hit)) 24 (⟨.f 3, 5, 0, 8, true⟩ : StoreOp).rs2) 24 (accessVa (atElement
   (csrs 24 [(0x300, 0x2200)] (hit)) 24 (⟨.f 3, 5, 0, 8, true⟩ : StoreOp).rs2) 24 .store (⟨.f 3, 5, 0, 8, true⟩ : StoreOp).rs2 (⟨.f 3,
   5, 0, 8, true⟩ : StoreOp).base (⟨.f 3, 5, 0, 8, true⟩ : StoreOp).imm) (⟨.f 3, 5, 0, 8, true⟩ : StoreOp).bytes .store .store false).2,
   (doStore ((locate (atElement (csrs 24 [(0x300, 0x2200)] (hit)) 24 (⟨.f 3, 5, 0, 8, true⟩ : StoreOp).rs2) 24 (accessVa (atElement
   (csrs 24 [(0x300, 0x2200)] (hit)) 24 (⟨.f 3, 5, 0, 8, true⟩ : StoreOp).rs2) 24 .store (⟨.f 3, 5, 0, 8, true⟩ : StoreOp).rs2 (⟨.f 3,
   5, 0, 8, true⟩ : StoreOp).base (⟨.f 3, 5, 0, 8, true⟩ : StoreOp).imm) (⟨.f 3, 5, 0, 8, true⟩ : StoreOp).bytes .store .store false).2)
   24 (storeParts (dataReg (atElement (csrs 24 [(0x300, 0x2200)] (hit)) 24 (⟨.f 3, 5, 0, 8, true⟩ : StoreOp).rs2) 24 (⟨.f 3, 5, 0, 8,
   true⟩ : StoreOp).bytes (⟨.f 3, 5, 0, 8, true⟩ : StoreOp).rs2).toNat (pieceParts [⟨0x80000038, (⟨.f 3, 5, 0, 8, true⟩ :
   StoreOp).bytes, 0, false⟩]) 0)).2, 0x80000038, 0, by decide +kernel⟩,
   ⟨24, ⟨.v ⟨8, 3, 0, true, 7⟩, 5, 0, 8, true⟩, csrs 24 [(0x300, 0x2200)] (hit), atElement (csrs 24 [(0x300, 0x2200)] (hit)) 24 (⟨.v ⟨8,
   3, 0, true, 7⟩, 5, 0, 8, true⟩ : StoreOp).rs2, (locate (atElement (csrs 24 [(0x300, 0x2200)] (hit)) 24 (⟨.v ⟨8, 3, 0, true, 7⟩, 5, 0,
   8, true⟩ : StoreOp).rs2) 24 (accessVa (atElement (csrs 24 [(0x300, 0x2200)] (hit)) 24 (⟨.v ⟨8, 3, 0, true, 7⟩, 5, 0, 8, true⟩ :
   StoreOp).rs2) 24 .store (⟨.v ⟨8, 3, 0, true, 7⟩, 5, 0, 8, true⟩ : StoreOp).rs2 (⟨.v ⟨8, 3, 0, true, 7⟩, 5, 0, 8, true⟩ :
   StoreOp).base (⟨.v ⟨8, 3, 0, true, 7⟩, 5, 0, 8, true⟩ : StoreOp).imm) (⟨.v ⟨8, 3, 0, true, 7⟩, 5, 0, 8, true⟩ : StoreOp).bytes .store
   .store false).2, (doStore ((locate (atElement (csrs 24 [(0x300, 0x2200)] (hit)) 24 (⟨.v ⟨8, 3, 0, true, 7⟩, 5, 0, 8, true⟩ :
   StoreOp).rs2) 24 (accessVa (atElement (csrs 24 [(0x300, 0x2200)] (hit)) 24 (⟨.v ⟨8, 3, 0, true, 7⟩, 5, 0, 8, true⟩ : StoreOp).rs2) 24
   .store (⟨.v ⟨8, 3, 0, true, 7⟩, 5, 0, 8, true⟩ : StoreOp).rs2 (⟨.v ⟨8, 3, 0, true, 7⟩, 5, 0, 8, true⟩ : StoreOp).base (⟨.v ⟨8, 3, 0,
   true, 7⟩, 5, 0, 8, true⟩ : StoreOp).imm) (⟨.v ⟨8, 3, 0, true, 7⟩, 5, 0, 8, true⟩ : StoreOp).bytes .store .store false).2) 24
   (storeParts (dataReg (atElement (csrs 24 [(0x300, 0x2200)] (hit)) 24 (⟨.v ⟨8, 3, 0, true, 7⟩, 5, 0, 8, true⟩ : StoreOp).rs2) 24 (⟨.v
   ⟨8, 3, 0, true, 7⟩, 5, 0, 8, true⟩ : StoreOp).bytes (⟨.v ⟨8, 3, 0, true, 7⟩, 5, 0, 8, true⟩ : StoreOp).rs2).toNat (pieceParts
   [⟨0x80000038, (⟨.v ⟨8, 3, 0, true, 7⟩, 5, 0, 8, true⟩ : StoreOp).bytes, 0, false⟩]) 0)).2, 0x80000038, 0, by decide +kernel⟩,
   ⟨24, ⟨.x 4, 5, 0, 8, true⟩, csrs 24 [(0x300, 0x2200)] (hit), atElement (csrs 24 [(0x300, 0x2200)] (hit)) 24 (⟨.x 4, 5, 0, 8, true⟩ :
   StoreOp).rs2, (locate (atElement (csrs 24 [(0x300, 0x2200)] (hit)) 24 (⟨.x 4, 5, 0, 8, true⟩ : StoreOp).rs2) 24 (accessVa (atElement
   (csrs 24 [(0x300, 0x2200)] (hit)) 24 (⟨.x 4, 5, 0, 8, true⟩ : StoreOp).rs2) 24 .store (⟨.x 4, 5, 0, 8, true⟩ : StoreOp).rs2 (⟨.x 4,
   5, 0, 8, true⟩ : StoreOp).base (⟨.x 4, 5, 0, 8, true⟩ : StoreOp).imm) (⟨.x 4, 5, 0, 8, true⟩ : StoreOp).bytes .store .store false).2,
   (doStore ((locate (atElement (csrs 24 [(0x300, 0x2200)] (hit)) 24 (⟨.x 4, 5, 0, 8, true⟩ : StoreOp).rs2) 24 (accessVa (atElement
   (csrs 24 [(0x300, 0x2200)] (hit)) 24 (⟨.x 4, 5, 0, 8, true⟩ : StoreOp).rs2) 24 .store (⟨.x 4, 5, 0, 8, true⟩ : StoreOp).rs2 (⟨.x 4,
   5, 0, 8, true⟩ : StoreOp).base (⟨.x 4, 5, 0, 8, true⟩ : StoreOp).imm) (⟨.x 4, 5, 0, 8, true⟩ : StoreOp).bytes .store .store false).2)
   24 (storeParts (dataReg (atElement (csrs 24 [(0x300, 0x2200)] (hit)) 24 (⟨.x 4, 5, 0, 8, true⟩ : StoreOp).rs2) 24 (⟨.x 4, 5, 0, 8,
   true⟩ : StoreOp).bytes (⟨.x 4, 5, 0, 8, true⟩ : StoreOp).rs2).toNat (pieceParts [⟨0x80000038, (⟨.x 4, 5, 0, 8, true⟩ :
   StoreOp).bytes, 0, false⟩]) 0)).2, 0x80000038, 0, by decide +kernel⟩,
   ⟨24,
    ⟨.x 6, 5, 0, 8, true⟩,
    6,
    hit (fun k => { k with mb := (List.range 10).map (fun i => ⟨i, 0, 1, false, false, false⟩) }),
    (translate (hit (fun k => { k with mb := (List.range 10).map (fun i => ⟨i, 0, 1, false, false, false⟩) })) 24 (maskVa (hit (fun k => { k with mb := (List.range 10).map (fun i => ⟨i, 0, 1, false, false, false⟩) })) 24 .store ((hit (fun k => { k with mb := (List.range 10).map (fun i => ⟨i, 0, 1, false, false, false⟩) })).xreg 24 (⟨.x 6, 5, 0, 8, true⟩ : StoreOp).base + (⟨.x 6, 5, 0, 8, true⟩ : StoreOp).imm.signExtend 64)) .store).2,
    0x80000038,
    by decide +kernel⟩⟩

theorem witness_CoreAtomics :
    (∃ (c : Fin 384) (op : AmoOp) (s : State) (u : State) (pa : Nat) (l : L2Line), 
    let va := maskVa s c .store (s.xreg c op.rs1)
    s.ready c = true ∧ (op.bytes = 4 ∨ op.bytes = 8) ∧ (s.core c).mb = [] ∧ u.ledgerCore c = false ∧ (u.core c).mb = [] ∧ (u.core
    c).stores = [] ∧ l2Find u c (pa / 64) = some l ∧ l.st = 3 ∧ l.poison = false ∧ (u.core c).defer = none ∧ sramBits u 2 c (pa / 64 *
    64) = 0 ∧ pa % 64 + op.bytes ≤ 64 ∧ va.toNat % op.bytes = 0 ∧ locate s c va op.bytes .store .atomic false = (.at_ pa 0 .dram, u)) ∧
    (∃ (c : Fin 384) (op : AmoOp) (s : State) (u : State) (pa : Nat) (l : L2Line), 
    let va := maskVa s c .store (s.xreg c op.rs1)
    s.ready c = true ∧ (op.bytes = 4 ∨ op.bytes = 8) ∧ (s.core c).mb = [] ∧ u.ledgerCore c = false ∧ (u.core c).mb = [] ∧ (u.core
    c).stores = [] ∧ l2Find u c (pa / 64) = some l ∧ l.st = 3 ∧ l.poison = false ∧ (u.core c).defer = none ∧ sramBits u 2 c (pa / 64 *
    64) = 0 ∧ pa % 64 + op.bytes ≤ 64 ∧ va.toNat % op.bytes = 0 ∧ locate s c va op.bytes .store .atomic false = (.at_ pa 0 .dram, u) ∧
    (u.core c).resv = some (pa, op.bytes)) ∧
    (∃ (c : Fin 384) (op : AmoOp) (s : State) (u : State) (pa : Nat) (l : L2Line), 
    let va := maskVa s c .store (s.xreg c op.rs1)
    s.ready c = true ∧ (op.bytes = 4 ∨ op.bytes = 8) ∧ (s.core c).mb = [] ∧ u.ledgerCore c = false ∧ (u.core c).mb = [] ∧ (u.core
    c).stores = [] ∧ l2Find u c (pa / 64) = some l ∧ l.st = 3 ∧ l.poison = false ∧ (u.core c).defer = none ∧ sramBits u 2 c (pa / 64 *
    64) = 0 ∧ pa % 64 + op.bytes ≤ 64 ∧ va.toNat % op.bytes = 0 ∧ locate s c va op.bytes .store .atomic false = (.at_ pa 0 .dram, u) ∧
    (u.core c).resv ≠ some (pa, op.bytes)) ∧
    (∃ (c : Fin 384) (op : AmoOp) (s : State) (u : State) (pa : Nat) (l : L2Line), 
    let va := maskVa s c .load (s.xreg c op.rs1)
    s.ready c = true ∧ (op.bytes = 4 ∨ op.bytes = 8) ∧ (s.core c).mb = [] ∧ u.ledgerCore c = false ∧ (u.core c).mb = [] ∧ (u.core
    c).stores = [] ∧ l2Find u c (pa / 64) = some l ∧ l.st = 3 ∧ l.poison = false ∧ (u.core c).defer = none ∧ sramBits u 2 c (pa / 64 *
    64) = 0 ∧ pa % 64 + op.bytes ≤ 64 ∧ va.toNat % op.bytes = 0 ∧ locate s c va op.bytes .load .reserve false = (.at_ pa 0 .dram, u)) :=
  ⟨⟨24,
    ⟨.minu, 7, 5, 6, 8, true, true⟩,
    hit (fun k => { k with resv := some (0x80000038, 8) }),
    (locate (hit (fun k => { k with resv := some (0x80000038, 8) })) 24 (maskVa (hit (fun k => { k with resv := some (0x80000038, 8) })) 24 .store ((hit (fun k => { k with resv := some (0x80000038, 8) })).xreg 24 (⟨.minu, 7, 5, 6, 8, true, true⟩ : AmoOp).rs1)) (⟨.minu, 7, 5, 6, 8, true, true⟩ : AmoOp).bytes .store .atomic false).2,
    0x80000038,
    ⟨0x2000000, 3, ramp, false⟩,
    by decide +kernel⟩,
   ⟨24,
    ⟨.minu, 7, 5, 6, 8, true, true⟩,
    hit (fun k => { k with resv := some (0x80000038, 8) }),
    (locate (hit (fun k => { k with resv := some (0x80000038, 8) })) 24 (maskVa (hit (fun k => { k with resv := some (0x80000038, 8) })) 24 .store ((hit (fun k => { k with resv := some (0x80000038, 8) })).xreg 24 (⟨.minu, 7, 5, 6, 8, true, true⟩ : AmoOp).rs1)) (⟨.minu, 7, 5, 6, 8, true, true⟩ : AmoOp).bytes .store .atomic false).2,
    0x80000038,
    ⟨0x2000000, 3, ramp, false⟩,
    by decide +kernel⟩,
   ⟨24,
    ⟨.minu, 7, 5, 6, 4, true, true⟩,
    hit (fun k => { k with resv := some (0x80000038, 8) }),
    (locate (hit (fun k => { k with resv := some (0x80000038, 8) })) 24 (maskVa (hit (fun k => { k with resv := some (0x80000038, 8) })) 24 .store ((hit (fun k => { k with resv := some (0x80000038, 8) })).xreg 24 (⟨.minu, 7, 5, 6, 4, true, true⟩ : AmoOp).rs1)) (⟨.minu, 7, 5, 6, 4, true, true⟩ : AmoOp).bytes .store .atomic false).2,
    0x80000038,
    ⟨0x2000000, 3, ramp, false⟩,
    by decide +kernel⟩,
   ⟨24,
    ⟨.minu, 7, 5, 6, 8, true, true⟩,
    hit (fun k => { k with resv := some (0x80000038, 8) }),
    (locate (hit (fun k => { k with resv := some (0x80000038, 8) })) 24 (maskVa (hit (fun k => { k with resv := some (0x80000038, 8) })) 24 .load ((hit (fun k => { k with resv := some (0x80000038, 8) })).xreg 24 (⟨.minu, 7, 5, 6, 8, true, true⟩ : AmoOp).rs1)) (⟨.minu, 7, 5, 6, 8, true, true⟩ : AmoOp).bytes .load .reserve false).2,
    0x80000038,
    ⟨0x2000000, 3, ramp, false⟩,
    by decide +kernel⟩⟩

theorem witness_CoreCacheBlock :
    (∃ (c : Fin 384) (rs1 : Fin 32) (s : State) (u : State) (pa : Nat) (pb : Nat), s.ready c = true ∧ s.ledgerCore c = false ∧ locate s
    c (maskVa s c .load (s.xreg c rs1) &&& ~~~ (63 : Word)) 64 .load .load true = (.at_ pa pb .dram, u) ∧ (u.core c).mb = [] ∧ (u.core
    c).waits = [] ∧ wbHolds u (c.val / 24) (pa / 64) = false ∧ cboTrap s c ⟨6, 6⟩ = none) ∧
    (∃ (c : Fin 384) (rs1 : Fin 32) (inval : Bool) (s : State) (u : State) (pa : Nat) (pb : Nat), s.ready c = true ∧ s.ledgerCore c =
    false ∧ locate s c (maskVa s c .load (s.xreg c rs1) &&& ~~~ (63 : Word)) 64 .load .load true = (.at_ pa pb .dram, u) ∧ (u.core c).mb
    = [] ∧ (u.core c).waits = [] ∧ wbHolds u (c.val / 24) (pa / 64) = false ∧ cboTrap s c (if inval then ⟨5, 4⟩ else ⟨6, 6⟩) = none) ∧
    (∃ (c : Fin 384) (rs1 : Fin 32) (inval : Bool) (s : State) (u : State) (pa : Nat) (pb : Nat), s.ready c = true ∧ s.ledgerCore c =
    false ∧ locate s c (maskVa s c .load (s.xreg c rs1) &&& ~~~ (63 : Word)) 64 .load .load true = (.at_ pa pb .dram, u) ∧ (u.core c).mb
    = [] ∧ (u.core c).waits = [] ∧ wbHolds u (c.val / 24) (pa / 64) = false ∧ cboTrap s c (if inval then ⟨5, 4⟩ else ⟨6, 6⟩) = none) ∧
    (∃ (c : Fin 384) (rs1 : Fin 32) (s : State) (u : State) (pa : Nat) (e : L3Line), s.ready c = true ∧ cboTrap s c ⟨7, 7⟩ = none ∧
    s.ledgerCore c = false ∧ locate s c (maskVa s c .store (s.xreg c rs1) &&& ~~~ (63 : Word)) 64 .store .store false = (.at_ pa 0
    .dram, u) ∧ u.ledgerCore c = false ∧ (u.core c).mb = [] ∧ (u.core c).l2 = [] ∧ (u.core c).l1d = [] ∧ l3Find u (c.val / 24) (pa / 64)
    = some e ∧ 2 ≤ e.st ∧ e.valid = 0 ∧ deferredFor u c (pa / 64) = false ∧ wbFits u (c.val / 24) = true) ∧
    (∃ (c : Fin 384) (rs1 : Fin 32) (s : State) (u : State) (u1 : State) (pa : Nat) (pb : Nat), s.ready c = true ∧ cboTrap s c ⟨7, 7⟩ =
    none ∧ locate s c (maskVa s c .store (s.xreg c rs1) &&& ~~~ (63 : Word)) 64 .store .store false = (.at_ pa pb .dram, u) ∧
    (u.ledgerCore c = true ∨ pb ≠ 0) ∧ doStore u c [(⟨pa / 64, 0, BitVec.allOnes 64, pb == 1, false, false⟩, pb)] = (true, u1)) ∧
    (∃ (c : Fin 384) (s : State), s.ready c = true ∧ s.ledgerCore c = true ∧ cboTrap s c ⟨6, 6⟩ = none) ∧
    (∃ (c : Fin 384) (inval : Bool) (s : State), s.ready c = true ∧ s.ledgerCore c = true ∧ cboTrap s c (if inval then ⟨5, 4⟩ else ⟨6,
    6⟩) = none) ∧
    (∃ (c : Fin 384) (s : State), s.ready c = true ∧ s.ledgerCore c = true ∧ (s.core c).count + 1 < s.quantumOf c ∧ cboTrap s c ⟨6, 6⟩ =
    none) ∧
    (∃ (c : Fin 384) (s : State) (n : Nat), s.ready c = true ∧ cboTrap s c ⟨6, 6⟩ = some n) ∧
    (∃ (c : Fin 384) (s : State) (n : Nat), s.ready c = true ∧ cboTrap s c ⟨5, 4⟩ = some n) ∧
    (∃ (c : Fin 384) (s : State) (n : Nat), s.ready c = true ∧ cboTrap s c ⟨7, 7⟩ = some n) :=
  ⟨⟨24, 5, hit, (locate hit 24 (maskVa hit 24 .load (hit.xreg 24 5) &&& ~~~ (63 : Word)) 64 .load .load true).2, 0x80000000, 0,
   by decide +kernel⟩,
   ⟨24, 5, true, hit, (locate hit 24 (maskVa hit 24 .load (hit.xreg 24 5) &&& ~~~ (63 : Word)) 64 .load .load true).2, 0x80000000, 0,
   by decide +kernel⟩,
   ⟨24, 5, false, hit, (locate hit 24 (maskVa hit 24 .load (hit.xreg 24 5) &&& ~~~ (63 : Word)) 64 .load .load true).2, 0x80000000, 0,
   by decide +kernel⟩,
   ⟨24,
    5,
    (cor 24 (fun k => { k with x := [(5, 0x80000038)] })).setDie 1 { Die.init with l3 := [⟨0x2000000, 2, 3, 0, 1, 1, ramp, true⟩] },
    (locate ((cor 24 (fun k => { k with x := [(5, 0x80000038)] })).setDie 1 { Die.init with l3 := [⟨0x2000000, 2, 3, 0, 1, 1, ramp, true⟩] }) 24 (maskVa ((cor 24 (fun k => { k with x := [(5, 0x80000038)] })).setDie 1 { Die.init with l3 := [⟨0x2000000, 2, 3, 0, 1, 1, ramp, true⟩] }) 24 .store (((cor 24 (fun k => { k with x := [(5, 0x80000038)] })).setDie 1 { Die.init with l3 := [⟨0x2000000, 2, 3, 0, 1, 1, ramp, true⟩] }).xreg 24 5) &&& ~~~ (63 : Word)) 64 .store .store false).2,
    0x80000000,
    ⟨0x2000000, 2, 3, 0, 1, 1, ramp, true⟩,
    by decide +kernel⟩,
   ⟨48,
    5,
    cor 48 (fun k => { k with x := [(5, 0xC0000038)] }),
    (locate (cor 48 (fun k => { k with x := [(5, 0xC0000038)] })) 48 (maskVa (cor 48 (fun k => { k with x := [(5, 0xC0000038)] })) 48 .store ((cor 48 (fun k => { k with x := [(5, 0xC0000038)] })).xreg 48 5) &&& ~~~ (63 : Word)) 64 .store .store false).2,
    (doStore ((locate (cor 48 (fun k => { k with x := [(5, 0xC0000038)] })) 48 (maskVa (cor 48 (fun k => { k with x := [(5, 0xC0000038)] })) 48 .store ((cor 48 (fun k => { k with x := [(5, 0xC0000038)] })).xreg 48 5) &&& ~~~ (63 : Word)) 64 .store .store false).2) 48 [(⟨0x3000000, 0, BitVec.allOnes 64, false, false, false⟩, 0)]).2,
    0xC0000000,
    0,
    by decide +kernel⟩,
   ⟨48, cor 48 (fun k => { k with count := 98 }), by decide +kernel⟩,
   ⟨48, true, cor 48 (fun k => { k with count := 98 }), by decide +kernel⟩,
   ⟨48, cor 48 (fun k => { k with count := 98 }), by decide +kernel⟩,
   ⟨24, cor 24 (fun k => { k with priv := 1 }), 2, by decide +kernel⟩,
   ⟨24, cor 24 (fun k => { k with priv := 1 }), 2, by decide +kernel⟩,
   ⟨24, cor 24 (fun k => { k with priv := 1 }), 2, by decide +kernel⟩⟩

theorem witness_MergingBuffer :
    (∃ (c : Fin 384) (line : Nat) (s : State) (e : MbEnt) (l : L2Line), s.ledgerCore c = false ∧ (s.core c).mb = [e] ∧ (s.core c).stores
    = [] ∧ e.line = line ∧ e.draining = true ∧ e.nc = false ∧ sramBits s 7 c (line * 64) = 0 ∧ sramBits s 2 c (line * 64) = 0 ∧ l2Find s
    c line = some l ∧ l.st = 3 ∧ (s.core c).l1d.get? line = none) ∧
    (∃ (c : Fin 384) (line : Nat) (s : State), (s.core c).defer = some line ∧ (s.die (c.val / 24)).snoopWait.filter (fun m => m.line ==
    line) = [] ∧ (∀ k ∈ coresOnDie (c.val / 24), (s.core k).waits = [])) ∧
    (∃ (c : Fin 384) (s : State), (s.core c).defer = none) :=
  ⟨⟨24,
    0x2000000,
    hit (fun k => { k with l1d := [], l2 := [⟨0x2000000, 3, ramp, true⟩], mb := [⟨0x2000000, 0, 0x8000000000000001, false, true, false⟩] }),
    ⟨0x2000000, 0, 0x8000000000000001, false, true, false⟩,
    ⟨0x2000000, 3, ramp, true⟩,
    by decide +kernel⟩,
   ⟨24, 5, hit (fun k => { k with defer := some 5 }), by decide +kernel⟩,
   ⟨24, mem, by decide +kernel⟩⟩

theorem witness_SaccMoves :
    (∃ (c : Fin 384) (w : BitVec 32) (s : State), s.ready c = true ∧ vsOff s c = false ∧ (vtypeOf s c).getLsbD 63 = false ∧ s.ledgerCore
    c = false ∧ xjForm w 3 0 (some 1) false false false = true) ∧
    (∃ (c : Fin 384) (w : BitVec 32) (s : State), s.ready c = true ∧ vsOff s c = false ∧ (vtypeOf s c).getLsbD 63 = false ∧ s.ledgerCore
    c = false ∧ xjForm w 3 1 (some 1) true false true = true ∧ wbits w 24 23 = 0) ∧
    (∃ (c : Fin 384) (w : BitVec 32) (s : State), s.ready c = true ∧ vsOff s c = false ∧ (vtypeOf s c).getLsbD 63 = false ∧ s.ledgerCore
    c = false ∧ xjForm w 3 2 (some 1) true true false = true ∧ wbits w 24 23 = 0) ∧
    (∃ (c : Fin 384) (w : BitVec 32) (s : State), s.ready c = true ∧ vsOff s c = false ∧ (vtypeOf s c).getLsbD 63 = false ∧ s.ledgerCore
    c = false ∧ xjForm w 3 3 (some 1) false false true = true) ∧
    (∃ (c : Fin 384) (s : State), s.ready c = true ∧ vsOff s c = true) :=
  ⟨⟨24,
    0x0200300B,
    vec 9 (fun k => { k with x := [(5, 0x80000010)], sacc := [(0, 5), (3, 7), (63, 9)], v := [(8, ramp), (9, ramp), (16, ramp)] }),
    by decide +kernel⟩,
   ⟨24,
    0x0670318B,
    vec 9 (fun k => { k with x := [(5, 0x80000010)], sacc := [(0, 5), (3, 7), (63, 9)], v := [(8, ramp), (9, ramp), (16, ramp)] }),
    by decide +kernel⟩,
   ⟨24,
    0x0A74300B,
    vec 9 (fun k => { k with x := [(5, 0x80000010)], sacc := [(0, 5), (3, 7), (63, 9)], v := [(8, ramp), (9, ramp), (16, ramp)] }),
    by decide +kernel⟩,
   ⟨24,
    0x0E00338B,
    vec 9 (fun k => { k with x := [(5, 0x80000010)], sacc := [(0, 5), (3, 7), (63, 9)], v := [(8, ramp), (9, ramp), (16, ramp)] }),
    by decide +kernel⟩,
   ⟨24, mem, by decide +kernel⟩⟩

theorem witness_SaccMultiply :
    ∃ (c : Fin 384) (w : BitVec 32) (s : State), s.ready c = true ∧ vsOff s c = false ∧ (vtypeOf s c).getLsbD 63 = false ∧ s.ledgerCore
    c = false ∧ xjForm w 2 0 (some 1) true true false = true ∧ sew16 s c = true ∧ groupOk s c (wbits w 19 15) = true ∧ groupOk s c
    (wbits w 24 20) = true ∧ vlOf s c ≤ 64 ∧ vstartOf s c = 0 :=
  ⟨24,
   0x0308200B,
   vec 64 (fun k => { k with sacc := [(0, 5), (3, 7), (63, 9)], v := [(8, ramp), (9, ramp), (16, ramp), (17, ramp)] }),
   by decide +kernel⟩

theorem witness_SampleCells :
    (∃ (c : Fin 384) (w : BitVec 32) (s : State) (u : State) (pa : Nat) (data : LineData), 
    let base := maskVa s c .load (s.xreg c (wbits w 19 15))
    s.ready c = true ∧ vsOff s c = false ∧ (vtypeOf s c).getLsbD 63 = false ∧ xjForm w 0 0 (some 1) false true true = true ∧ sew16 s c =
    true ∧ groupOk s c (wbits w 11 7) = true ∧ vlOf s c = 9 ∧ vstartOf s c = 0 ∧ base.toNat % 16 = 0 ∧ locate (setVstart s c 0) c base
    16 .load .load false = (.at_ pa 0 .dram, u) ∧ pa % 16 = 0 ∧ u.ledgerCore c = false ∧ (u.core c).mb = [] ∧ sramBits u 1 c (pa / 64 *
    64) = 0 ∧ (u.core c).l1d.get? (pa / 64) = some data) ∧
    (∃ (c : Fin 384) (w : BitVec 32) (s : State) (u : State) (pa : Nat), 
    let base := maskVa s c .store (s.xreg c (wbits w 19 15))
    let cell := packCell s c (wbits w 11 7) 0
    s.ready c = true ∧ vsOff s c = false ∧ (vtypeOf s c).getLsbD 63 = false ∧ xjForm w 1 0 (some 1) false true true = true ∧ sew16 s c =
    true ∧ groupOk s c (wbits w 11 7) = true ∧ vlOf s c = 9 ∧ vstartOf s c = 0 ∧ base.toNat % 16 = 0 ∧ locate (noteSat (setVstart s c 0)
    c cell.2) c base 16 .store .store false = (.at_ pa 0 .dram, u) ∧ pa % 16 = 0 ∧ (u.core c).stores = [] ∧ u.ledgerCore c = false ∧
    (u.core c).mb = [] ∧ (u.core c).l1d = []) ∧
    (∃ (c : Fin 384) (w : BitVec 32) (s : State) (u : State), 
    let base := maskVa s c .store (s.xreg c (wbits w 19 15))
    let cell := packCell s c (wbits w 11 7) 0
    s.ready c = true ∧ vsOff s c = false ∧ (vtypeOf s c).getLsbD 63 = false ∧ xjForm w 1 0 (some 1) false true true = true ∧ sew16 s c =
    true ∧ groupOk s c (wbits w 11 7) = true ∧ vlOf s c = 9 ∧ vstartOf s c = 0 ∧ (s.core c).stores = [] ∧ base.toNat % 16 = 0 ∧ locate
    (noteSat (setVstart s c 0) c cell.2) c base 16 .store .store false = (.trapped, u)) ∧
    (∃ (c : Fin 384) (w : BitVec 32) (s : State) (u : State), 
    let base := maskVa s c .store (s.xreg c (wbits w 19 15))
    let cell := packCell s c (wbits w 11 7) 0
    s.ready c = true ∧ vsOff s c = false ∧ (vtypeOf s c).getLsbD 63 = false ∧ xjForm w 1 0 (some 1) false true true = true ∧ sew16 s c =
    true ∧ groupOk s c (wbits w 11 7) = true ∧ vlOf s c = 9 ∧ vstartOf s c = 0 ∧ (s.core c).stores = [] ∧ base.toNat % 16 = 0 ∧ locate
    (noteSat (setVstart s c 0) c cell.2) c base 16 .store .store false = (.trapped, u) ∧ cell.2 = true) ∧
    (∃ (c : Fin 384) (w : BitVec 32) (s : State), s.ready c = true ∧ vsOff s c = false ∧ (vtypeOf s c).getLsbD 63 = false ∧ xjForm w 0 0
    (some 1) false true true = true ∧ sew16 s c = true ∧ groupOk s c (wbits w 11 7) = true ∧ (maskVa s c .load (s.xreg c (wbits w 19
    15))).toNat % 16 ≠ 0) :=
  ⟨⟨24,
    0x0202840B,
    vec 9 (fun k => { k with x := [(5, 0x80000010)], l1d := [(0x2000000, ramp)] }),
    (locate (setVstart (vec 9 (fun k => { k with x := [(5, 0x80000010)], l1d := [(0x2000000, ramp)] })) 24 0) 24 (maskVa (vec 9 (fun k => { k with x := [(5, 0x80000010)], l1d := [(0x2000000, ramp)] })) 24 .load ((vec 9 (fun k => { k with x := [(5, 0x80000010)], l1d := [(0x2000000, ramp)] })).xreg 24 (wbits 0x0202840B 19 15))) 16 .load .load false).2,
    0x80000010,
    ramp,
    by decide +kernel⟩,
   ⟨24,
    0x0202940B,
    vec 9 (fun k => { k with x := [(5, 0x80000010)], sacc := [(0, 5), (3, 7), (63, 9)], v := [(8, ramp), (9, ramp), (16, ramp)] }),
    (locate (noteSat (setVstart (vec 9 (fun k => { k with x := [(5, 0x80000010)], sacc := [(0, 5), (3, 7), (63, 9)], v := [(8, ramp), (9, ramp), (16, ramp)] })) 24 0) 24 (packCell (vec 9 (fun k => { k with x := [(5, 0x80000010)], sacc := [(0, 5), (3, 7), (63, 9)], v := [(8, ramp), (9, ramp), (16, ramp)] })) 24 8 0).2) 24 (maskVa (vec 9 (fun k => { k with x := [(5, 0x80000010)], sacc := [(0, 5), (3, 7), (63, 9)], v := [(8, ramp), (9, ramp), (16, ramp)] })) 24 .store ((vec 9 (fun k => { k with x := [(5, 0x80000010)], sacc := [(0, 5), (3, 7), (63, 9)], v := [(8, ramp), (9, ramp), (16, ramp)] })).xreg 24 (wbits 0x0202940B 19 15))) 16 .store .store false).2,
    0x80000010,
    by decide +kernel⟩,
   ⟨24,
    0x0202940B,
    vec 9 (fun k => { k with x := [(5, 0x70000010)], v := [(8, 0x7FFF)] }),
    (locate (noteSat (setVstart (vec 9 (fun k => { k with x := [(5, 0x70000010)], v := [(8, 0x7FFF)] })) 24 0) 24 (packCell (vec 9 (fun k => { k with x := [(5, 0x70000010)], v := [(8, 0x7FFF)] })) 24 8 0).2) 24 (maskVa (vec 9 (fun k => { k with x := [(5, 0x70000010)], v := [(8, 0x7FFF)] })) 24 .store ((vec 9 (fun k => { k with x := [(5, 0x70000010)], v := [(8, 0x7FFF)] })).xreg 24 (wbits 0x0202940B 19 15))) 16 .store .store false).2,
    by decide +kernel⟩,
   ⟨24,
    0x0202940B,
    vec 9 (fun k => { k with x := [(5, 0x70000010)], v := [(8, 0x7FFF)] }),
    (locate (noteSat (setVstart (vec 9 (fun k => { k with x := [(5, 0x70000010)], v := [(8, 0x7FFF)] })) 24 0) 24 (packCell (vec 9 (fun k => { k with x := [(5, 0x70000010)], v := [(8, 0x7FFF)] })) 24 8 0).2) 24 (maskVa (vec 9 (fun k => { k with x := [(5, 0x70000010)], v := [(8, 0x7FFF)] })) 24 .store ((vec 9 (fun k => { k with x := [(5, 0x70000010)], v := [(8, 0x7FFF)] })).xreg 24 (wbits 0x0202940B 19 15))) 16 .store .store false).2,
    by decide +kernel⟩,
   ⟨24, 0x0202840B, vec 9 (fun k => { k with x := [(5, 0x80000018)] }), by decide +kernel⟩⟩

namespace Sys2Proof.W
/-- Lines spread over the sixteen slices. -/
def hs : State := wr mem ((List.range 4).map (fun k => (Reg.HOME_SLICE_MASK k, 2 ^ (6 + k))))
/-- Line 5 of slice 5 with a directory entry. -/
def own (st pres o gen : Nat) : State := hs.setSlice 5 { Slice.init with dir := [(60, ⟨5, st, pres, o, gen, [], []⟩)] }
/-- A full line of die 1. -/
def m5 : Msg := { msg .rdShared 5 with gen := 2, data := ramp, poison := true }
end Sys2Proof.W

theorem witness_HomeEnter :
    (∃ (m : Msg) (n : Nat) (s : State), entersSlice s m n) ∧
    (∃ (m : Msg) (n : Nat) (s : State), sliceOf s m.line = n ∧ (s.slice n).suspend = true) :=
  ⟨⟨m5, 5, hs, by unfold entersSlice; decide +kernel⟩,
   ⟨m5, 5, hs.setSlice 5 { Slice.init with suspend := true, held := [msg .cboClean 5] }, by decide +kernel⟩⟩

theorem witness_HomeReadMiss :
    (∃ (m : Msg) (n : Nat) (key : Nat) (s : State) (i : _), n < 16 ∧ entersSlice s m n ∧ inStaging s n m.line = false ∧ findEnt s n
    m.line = none ∧ findWay s n m.line m.hand = some (key, s) ∧ (s.slice n).lineWait = [] ∧ (s.slice n).setWait = [] ∧ s.bit
    (.HOME_INJECT n) F.HOME_INJECT_ARM = false ∧ i ∈ [Instr.rdShared m, Instr.rdOwn m]) ∧
    (∃ (m : Msg) (n : Nat) (key : Nat) (s : State) (i : _), n < 16 ∧ entersSlice s m n ∧ inStaging s n m.line = false ∧ findEnt s n
    m.line = none ∧ findWay s n m.line m.hand = some (key, s) ∧ (s.slice n).lineWait = [] ∧ (s.slice n).setWait = [] ∧ s.bit
    (.HOME_INJECT n) F.HOME_INJECT_ARM = false ∧ i ∈ [Instr.rdShared m, Instr.rdOwn m]) :=
  ⟨⟨m5, 5, 60, hs, Instr.rdShared m5, by unfold entersSlice; decide +kernel⟩,
   ⟨m5, 5, 60, hs, Instr.rdOwn m5, by unfold entersSlice; decide +kernel⟩⟩

theorem witness_HomeSnoopOwner :
    ∃ (m : Msg) (n : Nat) (key : Nat) (d : Fin 16) (o : Fin 16) (e : DirEnt) (s : State), n < 16 ∧ entersSlice s m n ∧ m.src = .die d ∧
    d ≠ o ∧ inStaging s n m.line = false ∧ findEnt s n m.line = some (key, e) ∧ e.line = m.line ∧ e.e0 = [] ∧ e.e1 = [] ∧ (e.st = 2 ∨
    e.st = 3) ∧ e.own = o.val ∧ dieMasked s o = false ∧ (s.slice n).lineWait = [] ∧ (s.slice n).setWait = [] ∧ (s.slice n).txns = [] ∧
    s.bit (.HOME_INJECT n) F.HOME_INJECT_ARM = false :=
  ⟨m5, 5, 60, 1, 2, ⟨5, 3, 4, 2, 1, [], []⟩, own 3 4 2 1, by unfold entersSlice; decide +kernel⟩

theorem witness_HomeWriteFull :
    ∃ (m : Msg) (n : Nat) (key : Nat) (d : Fin 16) (s : State), n < 16 ∧ entersSlice s m n ∧ m.src = .die d ∧ dieMasked s d = false ∧
    inStaging s n m.line = false ∧ findEnt s n m.line = none ∧ findWay s n m.line m.hand = some (key, s) ∧ (s.slice n).lineWait = [] ∧
    (s.slice n).setWait = [] ∧ (s.slice n).txns = [] ∧ s.bit (.HOME_INJECT n) F.HOME_INJECT_ARM = false ∧ (s.chan (placeOf s
    m.line).chan).writes.any (fun w => w.line == m.line) = false ∧ (s.chan (placeOf s m.line).chan).waitQ = [] ∧ (entryFor s (placeOf s
    m.line).chan false m.hand).isSome = true :=
  ⟨m5, 5, 60, 1, hs, by unfold entersSlice; decide +kernel⟩

theorem witness_HomeWriteback :
    (∃ (m : Msg) (n : Nat) (key : Nat) (d : Fin 16) (e : DirEnt) (s : State), entersSlice s m n ∧ m.src = .die d ∧ pins s n m.line = 0 ∧
    inStaging s n m.line = false ∧ findEnt s n m.line = some (key, e) ∧ e.e0 = [] ∧ e.e1 = [] ∧ dieMasked s d = false ∧ (e.st = 2 ∨ e.st
    = 3) ∧ e.own = d.val) ∧
    (∃ (m : Msg) (n : Nat) (key : Nat) (d : Fin 16) (e : DirEnt) (s : State), entersSlice s m n ∧ m.src = .die d ∧ pins s n m.line = 0 ∧
    inStaging s n m.line = false ∧ findEnt s n m.line = some (key, e) ∧ e.e0 = [] ∧ e.e1 = [] ∧ dieMasked s d = false ∧ m.gen.toNat =
    e.gen ∧ presOf s e = [d.val]) ∧
    (∃ (m : Msg) (n : Nat) (key : Nat) (d : Fin 16) (e : DirEnt) (s : State), entersSlice s m n ∧ m.src = .die d ∧ pins s n m.line = 0 ∧
    inStaging s n m.line = false ∧ findEnt s n m.line = some (key, e) ∧ e.e0 = [] ∧ e.e1 = [] ∧ dieMasked s d = false ∧ m.gen.toNat ≠
    e.gen ∧ (s.rd (.DL_FEAT_EFF d)).getLsbD 5 = true) ∧
    (∃ (m : Msg) (n : Nat) (key : Nat) (d : Fin 16) (e : DirEnt) (s : State), entersSlice s m n ∧ m.src = .die d ∧ pins s n m.line = 0 ∧
    inStaging s n m.line = false ∧ findEnt s n m.line = some (key, e) ∧ e.e0 = [] ∧ e.e1 = [] ∧ dieMasked s d = false ∧ e.own ≠ d.val) ∧
    (∃ (m : Msg) (n : Nat) (s : State), entersSlice s m n ∧ pins s n m.line = 0 ∧ inStaging s n m.line = false ∧ findEnt s n m.line =
    none) :=
  ⟨⟨m5, 5, 60, 1, ⟨5, 3, 2, 1, 2, [], []⟩, own 3 2 1 2, by unfold entersSlice; decide +kernel⟩,
   ⟨m5, 5, 60, 1, ⟨5, 1, 2, 0, 2, [], []⟩, own 1 2 0 2, by unfold entersSlice; decide +kernel⟩,
   ⟨m5, 5, 60, 1, ⟨5, 1, 2, 0, 3, [], []⟩, wr (own 1 2 0 3) [(.DL_FEAT_EFF 1, 0x20)], by unfold entersSlice; decide +kernel⟩,
   ⟨m5, 5, 60, 1, ⟨5, 3, 4, 2, 2, [], []⟩, own 3 4 2 2, by unfold entersSlice; decide +kernel⟩,
   ⟨m5, 5, hs, by unfold entersSlice; decide +kernel⟩⟩

theorem witness_HomeVault :
    ∃ (m : Msg) (n : Nat) (d : Fin 16) (s : State), n < 16 ∧ sliceOf s m.line = n ∧ (s.slice n).suspend = false ∧ sliceFolded s n =
    false ∧ s.bit .ARC_INJECT F.ARC_INJECT_VAULT = false ∧ inVault s m.line = true ∧ m.src = .die d ∧ dieMasked s d = false :=
  ⟨{ m5 with line := 0xFFFFF5 }, 5, 1, pt hs [(.ARC_VAULT, F.ARC_VAULT_WATERMARK, 1)], by decide +kernel⟩

theorem witness_HomeSnoopAnswer :
    (∃ (m : Msg) (n : Nat) (d : Fin 16) (e : StageEnt) (s : State), sliceOf s m.line = n ∧ m.src = .die d ∧ (s.slice n).recover = [] ∧
    (s.slice n).txns = [] ∧ (s.slice n).staged = [e] ∧ e.ent.line = m.line ∧ d.val ∈ e.await) ∧
    (∃ (n : Fin 16) (e : StageEnt) (data : LineData) (p : Bool) (s : State), (s.slice n).staged = [e] ∧ e.await = [] ∧ e.data = some
    (data, p) ∧ (s.slice n).wbWait = []) ∧
    (∃ (n : Fin 16) (s : State), (s.slice n).staged = []) :=
  ⟨⟨m5,
    5,
    1,
    ⟨⟨5, 3, 4, 2, 0, [], []⟩, [1, 2], none, 1⟩,
    hs.setSlice 5 { Slice.init with staged := [⟨⟨5, 3, 4, 2, 0, [], []⟩, [1, 2], none, 1⟩] },
    by decide +kernel⟩,
   ⟨5,
    ⟨⟨5, 3, 4, 2, 0, [], []⟩, [], some (7, true), 1⟩,
    7,
    true,
    hs.setSlice 5 { Slice.init with staged := [⟨⟨5, 3, 4, 2, 0, [], []⟩, [], some (7, true), 1⟩] },
    by decide +kernel⟩,
   ⟨5, W.base, by decide +kernel⟩⟩

theorem witness_HomeQueues :
    (∃ (n : Fin 16) (m : Msg) (s : State), (s.slice n).lineWait = [m] ∧ inStaging s n m.line = false ∧ mayShare s n m = true) ∧
    (∃ (n : Fin 16) (m : Msg) (s : State), m ∈ (s.slice n).lineWait ∧ (∀ w ∈ (s.slice n).lineWait, w.line = m.line → w = m) ∧ inStaging
    s n m.line = true) ∧
    (∃ (n : Fin 16) (m : Msg) (s : State), (s.slice n).setWait = [m] ∧ ((admitReq (s.setSlice n { s.slice n with setWait := [] }) n
    m).slice n).setWait = []) ∧
    (∃ (n : Fin 16) (line : Nat) (s : State), (∀ m ∈ (s.slice n).lineWait, m.line ≠ line)) ∧
    (∃ (n : Fin 16) (set : Nat) (s : State), (∀ m ∈ (s.slice n).setWait, dirSet m.line ≠ set)) ∧
    (∃ (n : Fin 16) (s : State), ((s.slice n).suspend = false ∨ (s.slice n).txns.any (·.old) = true)) ∧
    (∃ (n : Fin 16) (s : State), ((s.slice n).suspend = false ∨ (s.slice n).txns.any (·.old) = true)) ∧
    (∃ (n : Fin 16) (s : State), (s.slice n).suspend = true ∧ sliceFolded s n = false ∧ (s.slice n).txns.any (·.old) = false) :=
  ⟨⟨5, m5, hs.setSlice 5 { Slice.init with lineWait := [m5] }, by decide +kernel⟩,
   ⟨5,
    m5,
    hs.setSlice 5 { Slice.init with lineWait := [m5], staged := [⟨⟨5, 3, 4, 2, 0, [], []⟩, [1, 2], none, 1⟩] },
    by decide +kernel⟩,
   ⟨5, m5, hs.setSlice 5 { Slice.init with setWait := [m5] }, by decide +kernel⟩,
   ⟨5, 9, hs.setSlice 5 { Slice.init with lineWait := [m5] }, by decide +kernel⟩,
   ⟨5, 77, hs.setSlice 5 { Slice.init with setWait := [m5] }, by decide +kernel⟩,
   ⟨5, hs, by decide +kernel⟩,
   ⟨5,
    hs.setSlice 5 { Slice.init with suspend := true, txns := [⟨m5, false, 0, [1], none, false, false, false, false, true⟩] },
    by decide +kernel⟩,
   ⟨5, hs.setSlice 5 { Slice.init with suspend := true, held := [m5, { m5 with line := 21, op := .wrFull }] }, by decide +kernel⟩⟩

theorem witness_HomeScrubProbe :
    (∃ (n : Fin 16) (s : State), s.get .HOME_SCRUB F.HOME_SCRUB_BUSY = 1 ∧ (s.get .HOME_SCRUB F.HOME_SCRUB_DONE).testBit n = false ∧
    (s.slice n).scrub = 10929 ∧ (s.slice n).staged = []) ∧
    (∃ (d : Fin 16) (s : State), s.get .HOME_SCRUB F.HOME_SCRUB_BUSY = 1 ∧ s.get .HOME_SCRUB F.HOME_SCRUB_DIE = d.val ∧ s.get
    .HOME_SCRUB F.HOME_SCRUB_DONE = 0xFFFF ∧ (∀ e < 16, (s.die e).rejoin ≠ 4)) ∧
    (∃ (d : Fin 16) (x : Fin 16) (s : State), s.get .HOME_SCRUB F.HOME_SCRUB_BUSY = 1 ∧ s.get .HOME_SCRUB F.HOME_SCRUB_DIE = d.val ∧
    s.get .HOME_SCRUB F.HOME_SCRUB_DONE = 0xFFFF ∧ (s.die x).rejoin = 4 ∧ (∀ e < x.val, (s.die e).rejoin ≠ 4)) ∧
    (∃ (who : Agent) (s : State), s.isHouse who = true) ∧
    (∃ (s : State) (e : DirEnt) (n : Nat) (key : Nat) (line : Nat), s.bit .HOME_PROBE_ADDR F.HOME_PROBE_ADDR_DONE = false ∧ s.get
    .HOME_PROBE_ADDR F.HOME_PROBE_ADDR_LINE = line ∧ sliceOf s line = n ∧ findEnt s n line = some (key, e)) ∧
    (∃ (who : Agent) (s : State), s.isHouse who = false) :=
  ⟨⟨15,
    pt (hs.setSlice 15 { Slice.init with scrub := 10929 }) [(.HOME_SCRUB, F.HOME_SCRUB_BUSY, 1), (.HOME_SCRUB, F.HOME_SCRUB_DONE, 0x7FFF)],
    by decide +kernel⟩,
   ⟨2, pt (wr hs [(.HOME_DIE_MASK, 12)]) [(.HOME_SCRUB, F.HOME_SCRUB_BUSY, 1), (.HOME_SCRUB, F.HOME_SCRUB_DIE, 2), (.HOME_SCRUB,
   F.HOME_SCRUB_DONE, 0xFFFF)], by decide +kernel⟩,
   ⟨2,
    7,
    (pt (wr hs [(.HOME_DIE_MASK, 12)]) [(.HOME_SCRUB, F.HOME_SCRUB_BUSY, 1), (.HOME_SCRUB, F.HOME_SCRUB_DIE, 2), (.HOME_SCRUB, F.HOME_SCRUB_DONE, 0xFFFF)]).setDie 7 { Die.init with rejoin := 4 },
    by decide +kernel⟩,
   ⟨.core 0, W.base, by decide +kernel⟩,
   ⟨pt (own 3 4 2 1) [(.HOME_PROBE_ADDR, F.HOME_PROBE_ADDR_LINE, 5)], ⟨5, 3, 4, 2, 1, [], []⟩, 5, 60, 5, by decide +kernel⟩,
   ⟨.core 24, W.base, by decide +kernel⟩⟩

theorem witness_ClassD :
    (∃ (n : Fin 16) (q : Fin 10) (ms : List Msg) (s : State), (s.point (0x20 + n.val)).staging.getD (16 + q.val) [] = ms ∧ ms ≠ [] ∧
    unfinished (s.point (0x20 + n.val)) (16 + q.val) = false ∧ s.flips = [] ∧ (∀ m ∈ ms, m.op = .rdOnce)) ∧
    (∃ (n : Fin 16) (q : Fin 10) (s : State), ((s.point (0x20 + n.val)).staging.getD (16 + q.val) [] = [] ∨ unfinished (s.point (0x20 +
    n.val)) (16 + q.val) = true) ∧ s.outbox.getD (16 + q.val) [] = []) :=
  ⟨⟨5,
    9,
    [{ m5 with op := .rdOnce, src := .arc true }],
    hs.setPoint 0x25 { Point.init 0x25 with staging := [(25, [{ m5 with op := .rdOnce, src := .arc true }])], holder := some 25, burst := 70, owners := [(25, some 1)] },
    by decide +kernel⟩,
   ⟨5, 9, hs, by decide +kernel⟩⟩

namespace Sys2Proof.W
/-- Die 1 changed. -/
def d1 (f : Die → Die) (s : State := hs) : State := s.setDie 1 (f (s.die 1))
/-- A dirty line of die 1. -/
def l3m : L3Line := ⟨5, 3, 3, 0, 1, 1, ramp, true⟩
end Sys2Proof.W

theorem witness_DieSnoopMiss :
    ∃ (d : Fin 16) (m : Msg) (s : State), deferred s d m.line = false ∧ l3Find s d m.line = none ∧ wbHolds s d m.line = false ∧ (s.die
    d).misses.any (fun x => x.line == m.line) = false :=
  ⟨1, m5, hs, by decide +kernel⟩

theorem witness_DieSnoopHit :
    (∃ (d : Fin 16) (m : Msg) (s : State) (e : L3Line), (∀ c ∈ coresOnDie d, (s.core c).defer = none ∧ (s.core c).resv = none) ∧ l3Find
    s d m.line = some e ∧ e.line = m.line ∧ e.valid = 0 ∧ e.st = 3 ∧ (s.die d).wb = [] ∧ locked s d e = false ∧ sramBits s 3 (0x2100 +
    d.val) (m.line * 64) = 0) ∧
    (∃ (d : Fin 16) (m : Msg) (s : State), deferred s d m.line = true) :=
  ⟨⟨1, m5, d1 (fun x => { x with l3 := [l3m] }), l3m, by decide +kernel⟩,
   ⟨1, m5, cor 24 (fun k => { k with defer := some 5 }) hs, by decide +kernel⟩⟩

theorem witness_DieFill :
    ∃ (m : Msg) (s : State) (x : Miss), m.die < 16 ∧ (s.die m.die).misses = [x] ∧ x.line = m.line ∧ x.sent = true ∧ x.cancel = false ∧
    x.snoops = [] ∧ x.core / 24 = m.die ∧ (s.die m.die).l3 = [] ∧ (∀ c ∈ coresOnDie m.die, (s.core c).waits = []) ∧ (s.core x.core).l2 =
    [] ∧ inLockRange s m.die x.hand m.line = false ∧ wayOwner s m.die 0 = 0xFF ∧ sramBits s 4 (0x2100 + m.die) (m.line * 64) = 0 ∧
    sramBits s 5 (0x2100 + m.die) (m.line * 64) = 0 :=
  ⟨{ m5 with die := 1 },
   d1 (fun x => { x with misses := [⟨5, .rdOwn, 25, 1, false, true, 0, []⟩] }),
   ⟨5, .rdOwn, 25, 1, false, true, 0, []⟩,
   by decide +kernel⟩

theorem witness_DieRetry :
    (∃ (d : Fin 16) (m : Msg) (s : State) (x : Miss), (s.die d).retry = [m] ∧ (s.die d).misses = [x] ∧ x.line = m.line) ∧
    (∃ (d : Fin 16) (s : State), (s.die d).retry = []) :=
  ⟨⟨1,
    { m5 with op := .dataE },
    d1 (fun x => { x with misses := [⟨5, .rdOwn, 25, 1, false, true, 0, []⟩], retry := [{ m5 with op := .dataE }] }),
    ⟨5, .rdOwn, 25, 1, false, true, 0, []⟩,
    by decide +kernel⟩,
   ⟨1, W.base, by decide +kernel⟩⟩

theorem witness_DieAnswers :
    (∃ (d : Fin 16) (e : WbEnt) (s : State), (s.die d).wb = [e] ∧ (s.die d).misses = [] ∧ (s.die d).shv = none ∧ (∀ c ∈ coresOnDie d,
    (s.core c).waits = [])) ∧
    (∃ (d : Fin 16) (m : Msg) (x : Msg) (s : State), m.src = .die d ∧ (s.die d).partials = [x] ∧ x.line = m.line) ∧
    (∃ (d : Fin 16) (m : Msg) (o : Msg) (s : State), m.src = .die d ∧ (s.die d).misses = [] ∧ (s.die d).ops = [o] ∧ o.op = .cboFlush ∧
    o.line = m.line ∧ s.ledgerCore o.txn = false ∧ (s.core o.txn).waits = [⟨o.line, .cbo⟩]) ∧
    (∃ (d : Fin 16) (m : Msg) (o : Msg) (s : State) (r : Fin 32) (va : Word) (pa : Nat) (n : Nat) (len : Nat), m.src = .die d ∧ (s.die
    d).ops = [o] ∧ o.op = .rdOnce ∧ o.line = m.line ∧ s.ledgerCore o.txn = false ∧ m.poison = false ∧ pa / 64 = m.line ∧ 0 < n ∧ pa % 64
    + n ≤ 64 ∧ n ≤ 8 ∧ r ≠ 0 ∧ (s.core o.txn).waits = [⟨m.line, .load (.x r) va [(pa, n)] false len (some (0, 0))⟩]) :=
  ⟨⟨1, ⟨m5, true⟩, d1 (fun x => { x with wb := [⟨m5, true⟩] }), by decide +kernel⟩,
   ⟨1, m5, { m5 with txn := ioTxn + 24 }, d1 (fun y => { y with partials := [{ m5 with txn := ioTxn + 24 }] }), by decide +kernel⟩,
   ⟨1,
    m5,
    { m5 with op := .cboFlush, txn := 24 },
    cor 24 (fun k => { k with waits := [⟨5, .cbo⟩] }) (d1 (fun x => { x with ops := [{ m5 with op := .cboFlush, txn := 24 }] })),
    by decide +kernel⟩,
   ⟨1,
    { m5 with poison := false },
    { m5 with op := .rdOnce, txn := 24 },
    cor 24 (fun k => { k with waits := [⟨5, .load (.x 31) 0x80000178 [(0x178, 8)] false 2 (some (0, 0))⟩] }) (d1 (fun x => { x with ops := [{ m5 with op := .rdOnce, txn := 24 }] })),
    31,
    0x80000178,
    0x178,
    8,
    2,
    by decide +kernel⟩⟩

theorem witness_ShelverStart :
    (∃ (who : Agent) (d : Fin 16) (v : Word) (s : State) (e : _), notLedger s who ∧ e ∈ [(1, Instr.shvClean who d v), (2,
    Instr.shvInvalidate who d v), (3, Instr.shvCleanInv who d v)] ∧ shvWriter s who d = true ∧ F.SHV_CMD_GO.get v = 1 ∧ F.SHV_CMD_OP.get
    v = e.1 ∧ shvCode s who d v = 0) ∧
    (∃ (who : Agent) (d : Fin 16) (v : Word) (s : State) (e : _), notLedger s who ∧ e ∈ [(1, Instr.shvClean who d v), (2,
    Instr.shvInvalidate who d v), (3, Instr.shvCleanInv who d v)] ∧ shvWriter s who d = true ∧ F.SHV_CMD_GO.get v = 1 ∧ F.SHV_CMD_OP.get
    v = e.1 ∧ shvCode s who d v ≠ 0) ∧
    (∃ (who : Agent) (d : Fin 16) (v : Word) (s : State) (e : _), notLedger s who ∧ e ∈ [(1, Instr.shvClean who d v), (2,
    Instr.shvInvalidate who d v), (3, Instr.shvCleanInv who d v)] ∧ (shvWriter s who d = false ∨ F.SHV_CMD_GO.get v = 0 ∨
    F.SHV_CMD_OP.get v ≠ e.1)) ∧
    (∃ (who : Agent) (d : Fin 16) (v : Word) (s : State) (e : _), notLedger s who ∧ e ∈ [(1, Instr.shvClean who d v), (2,
    Instr.shvInvalidate who d v), (3, Instr.shvCleanInv who d v)] ∧ (shvWriter s who d = false ∨ F.SHV_CMD_GO.get v = 0 ∨
    F.SHV_CMD_OP.get v ≠ e.1)) ∧
    (∃ (who : Agent) (d : Fin 16) (v : Word) (s : State) (e : _), notLedger s who ∧ e ∈ [(1, Instr.shvClean who d v), (2,
    Instr.shvInvalidate who d v), (3, Instr.shvCleanInv who d v)] ∧ (shvWriter s who d = false ∨ F.SHV_CMD_GO.get v = 0 ∨
    F.SHV_CMD_OP.get v ≠ e.1)) ∧
    (∃ (c : Fin 384) (d : Fin 16) (s : State), bars s c (.SHV_CMD d)) :=
  ⟨⟨.core 0, 1, 0x107, wr hs [(.SHV_BASE 1, 0x80000000), (.SHV_SIZE 1, 128)], (3, Instr.shvCleanInv (.core 0 : Agent) 1 0x107),
   by decide +kernel⟩,
   ⟨.core 0, 1, 0xF07, hs, (3, Instr.shvCleanInv (.core 0 : Agent) 1 0xF07), by decide +kernel⟩,
   ⟨.bmc, 1, 0x17, hs, (3, Instr.shvCleanInv (.bmc : Agent) 1 0x17), by decide +kernel⟩,
   ⟨.core 0, 1, 0x3, hs, (3, Instr.shvCleanInv (.core 0 : Agent) 1 0x3), by decide +kernel⟩,
   ⟨.core 0, 1, 0x6, hs, (3, Instr.shvCleanInv (.core 0 : Agent) 1 0x6), by decide +kernel⟩,
   ⟨48, 1, base, by decide +kernel⟩⟩

theorem witness_ShelverWalk :
    (∃ (d : Fin 16) (o : ShvOp) (found : List L3Line) (s : State), (s.die d).shv = some o ∧ s.get (.SHV_PROGRESS d)
    F.SHV_PROGRESS_DONE_COUNT < s.get (.SHV_PROGRESS d) F.SHV_PROGRESS_TOTAL ∧ found = shvFound s d o ∧ (o.op = 1 ∨ found.any (fun e =>
    deferred s d e.line) = false)) ∧
    (∃ (d : Fin 16) (o : ShvOp) (found : List L3Line) (s : State), (s.die d).shv = some o ∧ s.get (.SHV_PROGRESS d)
    F.SHV_PROGRESS_DONE_COUNT < s.get (.SHV_PROGRESS d) F.SHV_PROGRESS_TOTAL ∧ found = shvFound s d o ∧ (o.op = 1 ∨ found.any (fun e =>
    deferred s d e.line) = false)) ∧
    (∃ (d : Fin 16) (o : ShvOp) (found : List L3Line) (s : State), (s.die d).shv = some o ∧ s.get (.SHV_PROGRESS d)
    F.SHV_PROGRESS_DONE_COUNT < s.get (.SHV_PROGRESS d) F.SHV_PROGRESS_TOTAL ∧ found = shvFound s d o ∧ o.op ≠ 1 ∧ found.any (fun e =>
    deferred s d e.line) = true) ∧
    (∃ (d : Fin 16) (o : ShvOp) (s : State), (s.die d).shv = some o ∧ o.waits = [] ∧ s.get (.SHV_PROGRESS d) F.SHV_PROGRESS_DONE_COUNT =
    s.get (.SHV_PROGRESS d) F.SHV_PROGRESS_TOTAL) ∧
    (∃ (d : Fin 16) (s : State), (s.die d).shv = none) ∧
    (∃ (c : Fin 384) (d : Fin 16) (k : Fin 16) (s : State), bars s c (.SHV_LOCK_SIZE d k)) ∧
    (∃ (who : Agent) (d : Fin 16) (k : Fin 16) (s : State), notLedger s who ∧ lockWriter s who d k = false) ∧
    (∃ (who : Agent) (d : Fin 16) (k : Fin 16) (v : Word) (s : State), 
    let r := (Reg.SHV_LOCK_SIZE d k).written (s.rd (.SHV_LOCK_SIZE d k)) v
    let w := if s.isHouse who then r else F.SHV_LOCK_SIZE_HAND.put r (s.get (.SHV_LOCK_SIZE d k) F.SHV_LOCK_SIZE_HAND)
    notLedger s who ∧ lockWriter s who d k = true ∧ (F.SHV_LOCK_SIZE_VALID.get w = 0 ∨ lockFits s d k w = true)) ∧
    (∃ (who : Agent) (d : Fin 16) (k : Fin 16) (v : Word) (s : State), 
    let r := (Reg.SHV_LOCK_SIZE d k).written (s.rd (.SHV_LOCK_SIZE d k)) v
    let w := if s.isHouse who then r else F.SHV_LOCK_SIZE_HAND.put r (s.get (.SHV_LOCK_SIZE d k) F.SHV_LOCK_SIZE_HAND)
    notLedger s who ∧ lockWriter s who d k = true ∧ F.SHV_LOCK_SIZE_VALID.get w = 1 ∧ lockFits s d k w = false) :=
  ⟨⟨1,
    ⟨1, false, 1, false, 0, 1, true, []⟩,
    [],
    pt (d1 (fun x => { x with shv := some ⟨1, false, 1, false, 0, 1, true, []⟩ })) [(.SHV_PROGRESS 1, F.SHV_PROGRESS_TOTAL, 9)],
    by decide +kernel⟩,
   ⟨1,
    ⟨3, false, 1, false, 5, 1, true, []⟩,
    [l3m],
    pt (d1 (fun x => { x with l3 := [l3m], shv := some ⟨3, false, 1, false, 5, 1, true, []⟩ })) [(.SHV_PROGRESS 1, F.SHV_PROGRESS_TOTAL, 1)],
    by decide +kernel⟩,
   ⟨1,
    ⟨3, false, 1, false, 5, 1, true, []⟩,
    [l3m],
    cor 24 (fun k => { k with defer := some 5 }) (pt (d1 (fun x => { x with l3 := [l3m], shv := some ⟨3, false, 1, false, 5, 1, true, []⟩ })) [(.SHV_PROGRESS 1, F.SHV_PROGRESS_TOTAL, 1)]),
    by decide +kernel⟩,
   ⟨1,
    ⟨1, false, 1, false, 0, 1, true, []⟩,
    pt (d1 (fun x => { x with shv := some ⟨1, false, 1, false, 0, 1, true, []⟩ })) [(.SHV_PROGRESS 1, F.SHV_PROGRESS_TOTAL, 9), (.SHV_PROGRESS 1, F.SHV_PROGRESS_DONE_COUNT, 9), (.SHV_STATUS 1, F.SHV_STATUS_BUSY, 1)],
    by decide +kernel⟩,
   ⟨1, W.base, by decide +kernel⟩,
   ⟨48, 1, 15, base, by decide +kernel⟩,
   ⟨.core 24, 1, 15, W.base, by decide +kernel⟩,
   ⟨.core 0, 1, 15, 0x40, W.base, by decide +kernel⟩,
   ⟨.core 0, 1, 15, 0x8000000000000000, W.base, by decide +kernel⟩⟩

theorem witness_FaultStop :
    (∃ (d : Fin 16) (s : State) (e : _), dieState s d = 1 ∧ s.get .FOL_ADD_STATE F.FOL_ADD_STATE_STATE = 0 ∧ (∀ n, (s.slice n).txns = []
    ∧ (s.slice n).staged = [] ∧ (s.slice n).recover = []) ∧ e ∈ [((1 : Fin 6), s.bit (.DL_ERR d) F.DL_ERR_REPLAY_FAIL), (2, s.bit
    (.DL_ERR d) F.DL_ERR_HB_LOST), (3, s.bit (.DL_ERR d) F.DL_ERR_CLK_LOST), (4, true)] ∧ e.2 = true) ∧
    (∃ (d : Fin 16) (s : State) (e : _), dieState s d = 1 ∧ s.get .FOL_ADD_STATE F.FOL_ADD_STATE_STATE = 0 ∧ (∀ n, (s.slice n).txns = []
    ∧ (s.slice n).staged = [] ∧ (s.slice n).recover = []) ∧ e ∈ [((1 : Fin 6), s.bit (.DL_ERR d) F.DL_ERR_REPLAY_FAIL), (2, s.bit
    (.DL_ERR d) F.DL_ERR_HB_LOST), (3, s.bit (.DL_ERR d) F.DL_ERR_CLK_LOST), (4, true)] ∧ e.2 = true) ∧
    (∃ (d : Fin 16) (s : State) (who : Agent) (v : Word), dieState s d = 1 ∧ s.get .FOL_ADD_STATE F.FOL_ADD_STATE_STATE = 0 ∧ (∀ n,
    (s.slice n).txns = [] ∧ (s.slice n).staged = [] ∧ (s.slice n).recover = []) ∧ s.isHouse who = true ∧ F.FLT_DIE_CMD_OP.get v = 1 ∧
    F.FLT_DIE_CMD_DIE.get v = d.val) ∧
    (∃ (d : Fin 16) (s : State), dieState s d ≠ 1 ∧ dieState s d ≠ 3) ∧
    (∃ (d : Fin 16) (s : State), s.bit (.DL_ERR d) F.DL_ERR_REPLAY_FAIL = false) ∧
    (∃ (d : Fin 16) (s : State), s.bit (.DL_ERR d) F.DL_ERR_HB_LOST = false) ∧
    (∃ (d : Fin 16) (s : State), s.bit (.DL_ERR d) F.DL_ERR_CLK_LOST = false) ∧
    (∃ (who : Agent) (v : Word) (s : State), (s.isHouse who = false ∨ F.FLT_DIE_CMD_OP.get v ≠ 1)) ∧
    (∃ (who : Agent) (v : Word) (s : State), (s.isHouse who = false ∨ F.FLT_DIE_CMD_OP.get v ≠ 1)) :=
  ⟨⟨1, hs, (4, true), by decide +kernel, by decide +kernel, fun _ => ⟨rfl, rfl, rfl⟩, by decide +kernel, by decide +kernel⟩,
   ⟨1, pt hs [(.DL_ERR 1, F.DL_ERR_HB_LOST, 1)], (2, (pt hs [(.DL_ERR 1, F.DL_ERR_HB_LOST, 1)]).bit (.DL_ERR 1) F.DL_ERR_HB_LOST),
   by decide +kernel, by decide +kernel, fun _ => ⟨rfl, rfl, rfl⟩, by decide +kernel, by decide +kernel⟩,
   ⟨1, hs, .core 0, 0x11, by decide +kernel, by decide +kernel, fun _ => ⟨rfl, rfl, rfl⟩, by decide +kernel, by decide +kernel,
   by decide +kernel⟩,
   ⟨7, W.base, by decide +kernel⟩,
   ⟨1, W.base, by decide +kernel⟩,
   ⟨1, W.base, by decide +kernel⟩,
   ⟨1, W.base, by decide +kernel⟩,
   ⟨.core 24, 0x11, W.base, by decide +kernel⟩,
   ⟨.core 0, 0x12, W.base, by decide +kernel⟩⟩

theorem witness_FaultRejoin :
    (∃ (who : Agent) (v : Word) (d : Fin 16) (s : State), s.isHouse who = true ∧ F.FLT_DIE_CMD_OP.get v = 2 ∧ F.FLT_DIE_CMD_DIE.get v =
    d.val ∧ (dieState s d = 2 ∨ dieState s d = 4)) ∧
    (∃ (d : Fin 16) (s : State), dieState s d = 2 ∧ s.get (.FLT_DIE d) F.FLT_DIE_AUTO_HELD = 0 ∧ (s.folio.faults.rejoin = 1 ∨ houseless
    s = true)) ∧
    (∃ (d : Fin 16) (s : State), s.get (.FLT_DIE d) F.FLT_DIE_AUTO_HELD = 1) ∧
    (∃ (d : Fin 16) (s : State), dieState s d = 3 ∧ (s.die d).rejoin = 1) ∧
    (∃ (d : Fin 16) (s : State), dieState s d = 3 ∧ (s.die d).rejoin = 3 ∧ s.get .FOL_ADD_STATE F.FOL_ADD_STATE_STATE = 0 ∧ (dieFits s
    s.folio d && levelsMatch s s.folio d) = false) ∧
    (∃ (d : Fin 16) (s : State), dieState s d = 3 ∧ (s.die d).rejoin = 3 ∧ s.get .FOL_ADD_STATE F.FOL_ADD_STATE_STATE = 0 ∧ dieFits s
    s.folio d = true ∧ levelsMatch s s.folio d = true ∧ s.get .HOME_SCRUB F.HOME_SCRUB_BUSY = 0) ∧
    (∃ (d : Fin 16) (s : State), dieState s d = 3 ∧ (s.die d).rejoin = 3 ∧ s.get .FOL_ADD_STATE F.FOL_ADD_STATE_STATE = 0 ∧ dieFits s
    s.folio d = true ∧ levelsMatch s s.folio d = true ∧ s.get .HOME_SCRUB F.HOME_SCRUB_BUSY = 1) ∧
    (∃ (d : Fin 16) (s : State), dieState s d = 3 ∧ (s.die d).rejoin = 5 ∧ dieMasked s d = false) :=
  ⟨⟨.core 0, 0x12, 1, pt hs [(.FLT_DIE 1, F.FLT_DIE_STATE, 2)], by decide +kernel⟩,
   ⟨1,
    pt { hs with folio := { hs.folio with faults := { hs.folio.faults with rejoin := 1 } } } [(.FLT_DIE 1, F.FLT_DIE_STATE, 2)],
    by decide +kernel⟩,
   ⟨1, pt hs [(.FLT_DIE 1, F.FLT_DIE_AUTO_HELD, 1)], by decide +kernel⟩,
   ⟨1, pt (d1 (fun x => { x with rejoin := 1 })) [(.FLT_DIE 1, F.FLT_DIE_STATE, 3)], by decide +kernel⟩,
   ⟨1,
    pt (d1 (fun x => { x with rejoin := 3 }) { hs with folio := { hs.folio with cdMin := 0x30 } }) [(.FLT_DIE 1, F.FLT_DIE_STATE, 3)],
    by decide +kernel⟩,
   ⟨1,
    pt (d1 (fun x => { x with rejoin := 3 })) [(.FLT_DIE 1, F.FLT_DIE_STATE, 3), (.DL_CAP_DIE 1, F.DL_CAP_DIE_REV, 0), (.DL_CAP_DIE 1, F.DL_CAP_DIE_CORE_GOOD, 0xFFFFFF), (.DL_FEAT_EFF 1, ⟨63, 0⟩, 0x80000000000000FF)],
    by decide +kernel⟩,
   ⟨1,
    pt (d1 (fun x => { x with rejoin := 3 })) [(.FLT_DIE 1, F.FLT_DIE_STATE, 3), (.HOME_SCRUB, F.HOME_SCRUB_BUSY, 1), (.HOME_SCRUB, F.HOME_SCRUB_DIE, 2), (.DL_CAP_DIE 1, F.DL_CAP_DIE_REV, 0), (.DL_CAP_DIE 1, F.DL_CAP_DIE_CORE_GOOD, 0xFFFFFF), (.DL_FEAT_EFF 1, ⟨63, 0⟩, 0x80000000000000FF)],
    by decide +kernel⟩,
   ⟨1,
    pt (d1 (fun x => { x with rejoin := 5 })) [(.FLT_DIE 1, F.FLT_DIE_STATE, 3), (.CORE_STATE 24, F.CORE_STATE_STATE, 5)],
    by decide +kernel⟩⟩

theorem witness_FaultRecord :
    (∃ (s : State), s.get .FLT_STATUS F.FLT_STATUS_WAITING < 256) ∧
    (∃ (s : State) (j : _) (k : _), 
    let i := s.get .FLT_TAIL F.FLT_HEAD_INDEX
    s.get .FLT_STATUS F.FLT_STATUS_WAITING < 256 ∧ j < 256 ∧ k < 4 ∧ j ≠ i) ∧
    (∃ (s : State), s.get .FLT_STATUS F.FLT_STATUS_WAITING = 256) ∧
    (∃ (s : State) (j : _) (k : _), s.get .FLT_STATUS F.FLT_STATUS_WAITING = 256 ∧ j < 256 ∧ k < 4) :=
  ⟨⟨pt base [(.FLT_STATUS, F.FLT_STATUS_WAITING, 255), (.FLT_TAIL, F.FLT_HEAD_INDEX, 255), (.FLT_REC 254 3, ⟨63, 0⟩, 0xFFFFFFFF)],
   by decide +kernel⟩,
   ⟨pt base [(.FLT_STATUS, F.FLT_STATUS_WAITING, 255), (.FLT_TAIL, F.FLT_HEAD_INDEX, 255), (.FLT_REC 254 3, ⟨63, 0⟩, 0xFFFFFFFF)], 7, 3,
   by decide +kernel⟩,
   ⟨pt base [(.FLT_STATUS, F.FLT_STATUS_WAITING, 256), (.FLT_TAIL, F.FLT_HEAD_INDEX, 255)], by decide +kernel⟩,
   ⟨pt base [(.FLT_STATUS, F.FLT_STATUS_WAITING, 256), (.FLT_TAIL, F.FLT_HEAD_INDEX, 255)], 7, 3, by decide +kernel⟩⟩

theorem witness_FaultHandLoss :
    (∃ (h : Fin 64) (s : State), s.handLost h = false ∧ s.folio.isLedger h = false) ∧
    (∃ (h : Fin 64) (s : State), s.handLost h = false ∧ s.folio.isLedger h = false ∧ s.tally (128 + h.val) < 255) ∧
    (∃ (h : Nat) (s : State), s.handLost h = true) :=
  ⟨⟨1, W.base, by decide +kernel⟩,
   ⟨1, W.base, by decide +kernel⟩,
   ⟨1, pt base [(.FAB_HAND 1, F.FAB_HAND_STATE, 3)], by decide +kernel⟩⟩

theorem witness_FaultRegisters :
    (∃ (who : Agent) (v : Word) (s : State), s.isHouse who = true ∧ F.FLT_HEAD_INDEX.get v = s.get .FLT_TAIL F.FLT_HEAD_INDEX) ∧
    (∃ (who : Agent) (s : State), s.isHouse who = true) ∧
    (∃ (who : Agent) (s : State), s.isHouse who = false) ∧
    (∃ (s : State), s.bit .FLT_INJECT F.FLT_INJECT_ARM = true) ∧
    (∃ (s : State) (st' : _) (unit' : _) (idx' : _), 
    let st := s.get .FLT_INJECT F.FLT_INJECT_STRUCT
    let unit := s.get .FLT_INJECT F.FLT_INJECT_UNIT
    let idx := s.get .FLT_INJECT_ADDR F.FLT_INJECT_ADDR_ADDR
    s.bit .FLT_INJECT F.FLT_INJECT_ARM = true ∧ unit' < 2 ^ 16 ∧ idx' < 2 ^ 56 ∧ unit < 2 ^ 16 ∧ idx < 2 ^ 56 ∧ (st', unit', idx') ≠
    (st, unit, idx)) :=
  ⟨⟨.core 0, 9, pt base [(.FLT_TAIL, F.FLT_HEAD_INDEX, 9), (.FLT_STATUS, F.FLT_STATUS_WAITING, 6)], by decide +kernel⟩,
   ⟨.core 0, W.base, by decide +kernel⟩,
   ⟨.core 24, W.base, by decide +kernel⟩,
   ⟨pt base [(.FLT_INJECT, ⟨63, 0⟩, 0x2700_0C01_0001_0201), (.FLT_INJECT_ADDR, ⟨63, 0⟩, 7)], by decide +kernel⟩,
   ⟨pt base [(.FLT_INJECT, ⟨63, 0⟩, 0x2700_0C01_0001_0201), (.FLT_INJECT_ADDR, ⟨63, 0⟩, 7)], 12, 3, 7, by decide +kernel⟩⟩

namespace Sys2Proof.W
/-- The ledger hand in a phase, its quanta ended. -/
def ldg (ph : Nat) (f : Ledger → Ledger := id) (g : Core → Core := id) : State :=
  let s := pt mem [(.CSQ_LDG_PHASE 2, F.CSQ_LDG_PHASE_PHASE, ph)]
  let s := (s.setLedger 2 (f Ledger.init)).setCore 49 { Core.init with ended := true, rank := 1 }
  s.setCore 48 (g { Core.init with ended := true })
/-- An intake of 2 bytes with both staged. -/
def intake1 (st : Nat) : Intake := ⟨3, 0, 2, 0, 0, 0, 0xFFFF, none, none, st, 0, 2, [(0, 1), (1, 2)], [], false, 0⟩
end Sys2Proof.W

theorem witness_LedgerPhases :
    (∃ (h : Fin 64) (s : State), phaseOf s h = 2 ∧ s.handLost h = false ∧ (∀ c ∈ s.coresOf h, (s.core c).ended = true ∧ (s.core c).mb =
    [] ∧ (s.core c).stores = [])) ∧
    (∃ (c : Fin 384) (h : Nat) (s : State), h < 64 ∧ s.handOf c = some h ∧ s.folio.isLedger h = true ∧ phaseOf s h = 3 ∧ s.handLost h =
    false ∧ (s.ledger h).token = (s.core c).rank ∧ (s.core c).lbuf = [] ∧ (s.core c).later = none ∧ (s.core c).held = []) ∧
    (∃ (h : Fin 64) (s : State), phaseOf s h = 3 ∧ (s.coresOf h).length ≤ (s.ledger h).token ∧ (s.ledger h).stop = true) ∧
    (∃ (h : Fin 64) (s : State), phaseOf s h = 3 ∧ (s.coresOf h).length ≤ (s.ledger h).token ∧ (s.ledger h).stop = false ∧ s.handLost h
    = false ∧ (s.ledger h).intakes = []) ∧
    (∃ (h : Fin 64) (s : State), phaseOf s h = 0) :=
  ⟨⟨2, ldg 2, by decide +kernel⟩,
   ⟨48, 2, ldg 3, by decide +kernel⟩,
   ⟨2, ldg 3 (fun l => { l with token := 2, stop := true }), by decide +kernel⟩,
   ⟨2, ldg 3 (fun l => { l with token := 2 }), by decide +kernel⟩,
   ⟨2, mem, by decide +kernel⟩⟩

theorem witness_LedgerPublish :
    ∃ (c : Fin 384) (h : Nat) (e : MbEnt) (l : L2Line) (s : State), h < 64 ∧ s.handOf c = some h ∧ s.folio.isLedger h = true ∧ phaseOf s
    h = 3 ∧ s.handLost h = false ∧ (s.ledger h).token = (s.core c).rank ∧ (s.core c).lbuf = [e] ∧ (s.core c).later = none ∧ (s.core
    c).held = [] ∧ l2Find s c e.line = some l ∧ l.st = 3 ∧ (s.core c).l1d.get? e.line = none ∧ wbFits s (c.val / 24) = true ∧ sramBits s
    8 c (e.line * 64) = 0 ∧ sramBits s 2 c (e.line * 64) = 0 :=
  ⟨48,
   2,
   ⟨0x3000000, ramp, 0x8000000000000001, false, false, true⟩,
   ⟨0x3000000, 3, 0, false⟩,
   ldg 3 id (fun k => { k with lbuf := [⟨0x3000000, ramp, 0x8000000000000001, false, false, true⟩], l2 := [⟨0x3000000, 3, 0, false⟩], resv := some (0xC0000008, 8) }),
   by decide +kernel⟩

theorem witness_LedgerBoundary :
    (∃ (h : Fin 64) (s : State), phaseOf s h = 4 ∧ (s.ledger h).placed = true ∧ (s.ledger h).waits = [] ∧ (s.ledger h).intakes = [] ∧
    (s.ledger h).stop = false ∧ s.folio.isLedger h = true ∧ s.handLost h = false ∧ (∀ c ∈ s.coresOf h, s.handOf c = some h.val ∧ (s.core
    c).endCode ≠ 4 ∧ (s.core c).lateErr = none ∧ (s.core c).skip = none ∧ s.csr c 0x304 = 0 ∧ (s.core c).mail.length ≤ 64)) ∧
    (∃ (h : Fin 64) (s : State), phaseOf s h = 1 ∧ (s.ledger h).placed = false ∧ (s.ledger h).waits = [] ∧ (s.ledger h).intakes = [] ∧
    (s.ledger h).held = none ∧ s.handLost h = false ∧ (∀ c ∈ s.coresOf h, s.coreState c = 2)) :=
  ⟨⟨2, ldg 4 (fun l => { l with placed := true }) (fun k => { k with mail := [⟨1, 2, 3, 0⟩] }), by decide +kernel⟩,
   ⟨2, pt (ldg 1) [(.CORE_STATE 48, F.CORE_STATE_STATE, 2), (.CORE_STATE 49, F.CORE_STATE_STATE, 2)], by decide +kernel⟩⟩

theorem witness_LedgerIntake :
    (∃ (h : Fin 64) (id : Nat) (i : Intake) (s : State), findIntake s h id = some i ∧ i.state = 1 ∧ i.data.length = i.length ∧ outMsgs s
    24 (fun m => m.txn == txnOf 2 (intakeKey h id)) = []) ∧
    (∃ (h : Fin 64) (id : Nat) (i : Intake) (s : State), findIntake s h id = some i ∧ i.state = 1) ∧
    (∃ (h : Fin 64) (id : Nat) (s : State), findIntake s h id = none) :=
  ⟨⟨2, 3, intake1 1, ldg 2 (fun l => { l with intakes := [intake1 1] }), by decide +kernel⟩,
   ⟨2, 3, intake1 1, ldg 2 (fun l => { l with intakes := [intake1 1] }), by decide +kernel⟩,
   ⟨2, 9, ldg 2, by decide +kernel⟩⟩

namespace Sys2Proof.W
/-- Port 3 the authority, its host awake; vote and command registers as given. -/
def pw (l : List (Reg × Fld × Nat)) : State :=
  pt { base with folio := { base.folio with
        ports := (List.range 8).map (fun p => ⟨0, p != 5, 16, 8, 0x100000, 0x100000, 16, []⟩)
        power := { base.folio.power with limit := 2000 } } }
    ([(.SCK_PKG, F.SCK_PKG_AUTH_PORT, 3), (.SCK_PKG, F.SCK_PKG_STATE, 0), (.SCK_PKG, F.SCK_PKG_TARGET, 0)] ++
      ((List.range 8).map (fun p => (.HP_LINK p, F.HP_LINK_STATE, 3))) ++ l)
/-- Die 1 on its ladder. -/
def ladder (k : Nat) (l : List (Reg × Fld × Nat) := []) : State := pt (base.setDie 1 { Die.init with wake := some k }) l
end Sys2Proof.W

theorem witness_PowerCommands :
    (∃ (p : Fin 8) (s : State), s.folio.portEnabled p = true ∧ s.get .SCK_PKG F.SCK_PKG_STATE ≠ 3) ∧
    (∃ (p : Fin 8) (s : State), s.folio.portEnabled p = true ∧ p.val = authPort s ∧ s.get .SCK_PKG F.SCK_PKG_STATE ≠ 3) ∧
    (∃ (p : Fin 8) (s : State), (s.folio.portEnabled p = false ∨ p.val ≠ authPort s)) ∧
    (∃ (p : Fin 8) (s : State), s.folio.portEnabled p = false) :=
  ⟨⟨7, pw [], by decide +kernel⟩,
   ⟨3, pw [], by decide +kernel⟩,
   ⟨7, pw [], by decide +kernel⟩,
   ⟨5, pw [], by decide +kernel⟩⟩

theorem witness_PowerTargets :
    (∃ (s : State), s.get .SCK_PKG F.SCK_PKG_STATE ≠ 3) ∧
    (∃ (s : State), s.get .SCK_PKG F.SCK_PKG_STATE ≠ 3) ∧
    (∃ (s : State) (d : Fin 16), s.get .SCK_PKG F.SCK_PKG_STATE ≠ 3 ∧ dieRefused s d = true) ∧
    (∃ (s : State) (d : Fin 16), s.get .SCK_PKG F.SCK_PKG_STATE ≠ 3 ∧ s.folio.dieEnabled d = false) :=
  ⟨⟨pw [(.PWR_PKG 3, F.PWR_PKG_TARGET, 2)], by decide +kernel⟩,
   ⟨pw [(.PWR_PKG 3, F.PWR_PKG_TARGET, 2), (.PWR_DIE 3, ⟨3, 2⟩, 3)], by decide +kernel⟩,
   ⟨pw ([(.PWR_PKG 3, F.PWR_PKG_TARGET, 2), (.PWR_DIE 3, ⟨3, 2⟩, 3)] ++ [0, 1, 2, 4, 5, 6, 7].map (fun p => (.PWR_PKG p,
   F.PWR_PKG_TARGET, 3))), 1, by decide +kernel⟩,
   ⟨pw [], 7, by decide +kernel⟩⟩

theorem witness_PowerDown :
    (∃ (d : Fin 16) (s : State), dieState s d = 1 ∧ s.get (.SCK_DIE d) F.SCK_DIE_STATE = 0 ∧ 1 ≤ s.get (.SCK_DIE d) F.SCK_DIE_TARGET ∧
    (s.die d).misses = []) ∧
    (∃ (d : Fin 16) (s : State), dieState s d = 1 ∧ (s.die d).wake = none ∧ s.get (.SCK_DIE d) F.SCK_DIE_STATE = 1 ∧ s.get (.SCK_DIE d)
    F.SCK_DIE_TARGET = 2 ∧ (s.die d).shv = none ∧ s.get .FOL_ADD_STATE F.FOL_ADD_STATE_STATE = 0 ∧ foldDone s d = true ∧ (∀ c ∈
    coresOnDie d, (s.core c).defer = none)) ∧
    (∃ (d : Fin 16) (s : State), dieState s d = 1 ∧ (s.die d).wake = none ∧ s.get (.SCK_DIE d) F.SCK_DIE_STATE = 2 ∧ s.get (.SCK_DIE d)
    F.SCK_DIE_TARGET = 3) :=
  ⟨⟨1, pt base [(.SCK_DIE 1, F.SCK_DIE_TARGET, 1)], by decide +kernel⟩,
   ⟨1, pt base [(.SCK_DIE 1, F.SCK_DIE_STATE, 1), (.SCK_DIE 1, F.SCK_DIE_TARGET, 2), (.FOL_ADD_STATE, F.FOL_ADD_STATE_STATE, 0)],
   by decide +kernel⟩,
   ⟨1, pt base [(.SCK_DIE 1, F.SCK_DIE_STATE, 2), (.SCK_DIE 1, F.SCK_DIE_TARGET, 3)], by decide +kernel⟩⟩

theorem witness_PowerWake :
    (∃ (d : Fin 16) (k : Nat) (s : State), (s.die d).wake = some k ∧ stepReady s d k = true ∧ lowered s d k = false ∧ k ≠ 2 ∧ k < 10) ∧
    (∃ (d : Fin 16) (s : State), (s.die d).wake = some 10 ∧ s.get (.SCK_DIE d) F.SCK_DIE_TARGET = 0) ∧
    (∃ (d : Fin 16) (k : Nat) (s : State), (s.die d).wake = some k ∧ stepReady s d k = true ∧ (s.die d).rejoin = 0 ∧ k < 4 ∧ 2 ≤ s.get
    (.SCK_DIE d) F.SCK_DIE_TARGET) ∧
    (∃ (d : Fin 16) (k : Nat) (s : State), (s.die d).wake = some k ∧ stepReady s d k = true ∧ (s.die d).rejoin = 0 ∧ 4 ≤ k ∧ 1 ≤ s.get
    (.SCK_DIE d) F.SCK_DIE_TARGET) ∧
    (∃ (d : Fin 16) (k : Nat) (s : State), (s.die d).wake = some k ∧ stepReady s d k = true) ∧
    (∃ (d : Fin 16) (k : Nat) (s : State), (s.die d).wake = some k ∧ stepReady s d k = true) ∧
    (∃ (b : Fin 33) (s : State), blockState s b = 2 ∧ (blockTarget s b = 0 ∨ (isHeld s b = true ∧ iodForced s = false)) ∧ (∀ n, b.val =
    16 + n → n < 16 → (s.slice n).held = [])) ∧
    (∃ (b : Fin 33) (s : State), blockState s b = 2 ∧ (blockTarget s b = 0 ∨ (isHeld s b = true ∧ iodForced s = false)) ∧ (∀ n, b.val =
    16 + n → n < 16 → (s.slice n).held = [])) :=
  ⟨⟨1, 8, ladder 8, by decide +kernel⟩,
   ⟨1, ladder 10 [(.SCK_DIE 1, F.SCK_DIE_STATE, 1)], by decide +kernel⟩,
   ⟨1, 3, ladder 3 [(.SCK_DIE 1, F.SCK_DIE_TARGET, 2), (.SCK_DIE 1, F.SCK_DIE_STATE, 3)], by decide +kernel⟩,
   ⟨1, 4, ladder 4 [(.SCK_DIE 1, F.SCK_DIE_TARGET, 1), (.SCK_DIE 1, F.SCK_DIE_STATE, 3)], by decide +kernel⟩,
   ⟨1, 2, ladder 2, by decide +kernel⟩,
   ⟨1, 10, ladder 10, by decide +kernel⟩,
   ⟨16, pt (wr base [(.ARC_HOLD, 2 ^ 16)]) [(.SCK_IOD_STATE, F.SCK_IOD_STATE_SLICE 0, 2), (.SCK_PKG, F.SCK_PKG_TARGET, 2)],
   by decide +kernel, by decide +kernel, fun _ _ _ => rfl⟩,
   ⟨31, pt base [(.SCK_IOD_STATE, F.SCK_IOD_STATE_SLICE 15, 2), (.SCK_PKG, F.SCK_PKG_TARGET, 1)], by decide +kernel, by decide +kernel,
   fun _ _ _ => rfl⟩⟩

theorem witness_PowerHolds :
    ∃ (s : State) (at_ : Nat), s.power.preempt = some at_ ∧ at_ + 5000 ≤ s.mtime ∧ (∃ b : Fin 33, isPreempted s b = true) :=
  ⟨{ wr base [(.ARC_PREEMPT, 5)] with power := { base.power with preempt := some 2 }, cycle := 20 * 5002 }, 2, by decide +kernel⟩

theorem witness_OperatingPoints :
    (∃ (d : Fin 16) (g : BitVec 2) (s : State), s.bit (.CORE_DIE_OP d) F.CORE_DIE_OP_PINNED = false ∧ g.toNat = pointOf s d ∧ s.get
    (.CORE_DIE_OP d) F.CORE_DIE_OP_TARGET = s.get (.CORE_DIE_OP d) F.CORE_DIE_OP_CUR ∧ (s.die d).wake = none ∧ s.get (.SCK_DIE d)
    F.SCK_DIE_STATE ≤ 1 ∧ s.get (.CORE_DIE_OP d) F.CORE_DIE_OP_CUR < g.toNat) ∧
    (∃ (d : Fin 16) (g : BitVec 2) (s : State), s.bit (.CORE_DIE_OP d) F.CORE_DIE_OP_PINNED = false ∧ g.toNat = pointOf s d ∧ s.get
    (.CORE_DIE_OP d) F.CORE_DIE_OP_TARGET = s.get (.CORE_DIE_OP d) F.CORE_DIE_OP_CUR ∧ (s.die d).wake = none ∧ s.get (.SCK_DIE d)
    F.SCK_DIE_STATE ≤ 1 ∧ g.toNat < s.get (.CORE_DIE_OP d) F.CORE_DIE_OP_CUR) ∧
    (∃ (d : Fin 16) (s : State), s.bit (.CORE_DIE_OP d) F.CORE_DIE_OP_PINNED = true) ∧
    (∃ (d : Fin 16) (g : BitVec 2) (s : State), s.bit (.CORE_DIE_OP d) F.CORE_DIE_OP_PINNED = false ∧ g.toNat = pointOf s d ∧ g.toNat ≠
    s.get (.CORE_DIE_OP d) F.CORE_DIE_OP_CUR ∧ s.get (.CORE_DIE_OP d) F.CORE_DIE_OP_TARGET = s.get (.CORE_DIE_OP d) F.CORE_DIE_OP_CUR ∧
    (s.die d).wake = none ∧ s.get (.SCK_DIE d) F.SCK_DIE_STATE ≤ 1) ∧
    (∃ (d : Fin 16) (g : BitVec 2) (s : State), s.bit (.CORE_DIE_OP d) F.CORE_DIE_OP_PINNED = false ∧ g.toNat = pointOf s d ∧ g.toNat ≠
    s.get (.CORE_DIE_OP d) F.CORE_DIE_OP_CUR ∧ s.get (.CORE_DIE_OP d) F.CORE_DIE_OP_TARGET = s.get (.CORE_DIE_OP d) F.CORE_DIE_OP_CUR ∧
    (s.die d).wake = none ∧ s.get (.SCK_DIE d) F.SCK_DIE_STATE ≤ 1) ∧
    (∃ (d : Fin 16) (s : State), 1 ≤ s.get (.CORE_DIE_OP d) F.CORE_DIE_OP_STEP) ∧
    (∃ (d : Fin 16) (s : State), 1 ≤ s.get (.CORE_DIE_OP d) F.CORE_DIE_OP_STEP) ∧
    (∃ (d : Fin 16) (s : State), (s.die d).settling = false) ∧
    (∃ (d : Fin 16) (s : State), ((s.die d).settling = false ∨ (s.die d).wake ≠ some 0)) ∧
    (∃ (d : Fin 16) (s : State), s.get (.CORE_DIE_OP d) F.CORE_DIE_OP_STEP = 0) ∧
    (∃ (d : Fin 16) (s : State), (s.die d).settling = true ∧ (s.die d).wake = none ∧ s.get (.CORE_DIE_OP d) F.CORE_DIE_OP_STEP = 0 ∧
    s.get (.CORE_DIE_OP d) F.CORE_DIE_OP_CUR < s.get (.CORE_DIE_OP d) F.CORE_DIE_OP_TARGET) ∧
    (∃ (d : Fin 16) (s : State), 1 ≤ s.get (.CORE_DIE_OP d) F.CORE_DIE_OP_STEP ∧ s.get (.CORE_DIE_OP d) F.CORE_DIE_OP_STEP < 16) ∧
    (∃ (d : Fin 16) (s : State), s.get (.CORE_DIE_OP d) F.CORE_DIE_OP_STEP = 16) ∧
    (∃ (who : Agent) (d : Fin 16) (s : State), s.isHouse who = true ∧ s.bit (.SCK_DIE d) F.SCK_DIE_PINNED = false) ∧
    (∃ (who : Agent) (d : Fin 16) (s : State), (s.isHouse who = false ∨ s.bit (.SCK_DIE d) F.SCK_DIE_PINNED = true)) ∧
    (∃ (d : Fin 16) (s : State), s.get (.SCK_DIE d) F.SCK_DIE_OP_CAP + 1 < s.get (.SCK_DIE d) F.SCK_DIE_OP_REQ ∧ s.get .SCK_LIMIT
    F.SCK_LIMIT_POWER_W * 100 ≤ effLimit s * 95 ∧ s.folio.power.outlet = 0 ∧ dieTemp s d ≤ 980 ∧ (s.die d).riseAt + 1000000 ≤ s.mtime +
    1) ∧
    (∃ (c : Fin 384) (s : State), s.runs c = true ∧ (s.core c).level < 7) ∧
    (∃ (d : Fin 16) (s : State), (s.die d).wake = some 0 ∧ (s.die d).settling = true ∧ (s.die d).capOld = none ∧ s.get (.FLT_DIE d)
    F.FLT_DIE_STATE ≠ 3) :=
  ⟨⟨1,
    2,
    pt (base.setDie 1 { Die.init with wake := none, settling := false, vsel := 1 }) [(.CORE_DIE_OP 1, F.CORE_DIE_OP_CUR, 1), (.CORE_DIE_OP 1, F.CORE_DIE_OP_TARGET, 1), (.CORE_DIE_OP 1, F.CORE_DIE_OP_STEP, 0), (.SCK_DIE 1, F.SCK_DIE_OP_REQ, 2), (.SCK_DIE 1, F.SCK_DIE_OP_CAP, 3)],
    by decide +kernel⟩,
   ⟨1,
    0,
    pt (base.setDie 1 { Die.init with wake := none, settling := false, vsel := 1 }) [(.CORE_DIE_OP 1, F.CORE_DIE_OP_CUR, 1), (.CORE_DIE_OP 1, F.CORE_DIE_OP_TARGET, 1), (.CORE_DIE_OP 1, F.CORE_DIE_OP_STEP, 0), (.SCK_DIE 1, F.SCK_DIE_OP_REQ, 2), (.SCK_DIE 1, F.SCK_DIE_OP_CAP, 0)],
    by decide +kernel⟩,
   ⟨1, pt base [(.CORE_DIE_OP 1, F.CORE_DIE_OP_PINNED, 1)], by decide +kernel⟩,
   ⟨1,
    2,
    pt (base.setDie 1 { Die.init with wake := none, settling := false, vsel := 1 }) [(.CORE_DIE_OP 1, F.CORE_DIE_OP_CUR, 1), (.CORE_DIE_OP 1, F.CORE_DIE_OP_TARGET, 1), (.CORE_DIE_OP 1, F.CORE_DIE_OP_STEP, 0), (.SCK_DIE 1, F.SCK_DIE_OP_REQ, 2), (.SCK_DIE 1, F.SCK_DIE_OP_CAP, 3)],
    by decide +kernel⟩,
   ⟨1,
    0,
    pt (base.setDie 1 { Die.init with wake := none, settling := false, vsel := 1 }) [(.CORE_DIE_OP 1, F.CORE_DIE_OP_CUR, 1), (.CORE_DIE_OP 1, F.CORE_DIE_OP_TARGET, 1), (.CORE_DIE_OP 1, F.CORE_DIE_OP_STEP, 0), (.SCK_DIE 1, F.SCK_DIE_OP_REQ, 2), (.SCK_DIE 1, F.SCK_DIE_OP_CAP, 0)],
    by decide +kernel⟩,
   ⟨1,
    pt (base.setDie 1 { Die.init with wake := none, settling := false, vsel := 1 }) [(.CORE_DIE_OP 1, F.CORE_DIE_OP_CUR, 1), (.CORE_DIE_OP 1, F.CORE_DIE_OP_TARGET, 2), (.CORE_DIE_OP 1, F.CORE_DIE_OP_STEP, 1)],
    by decide +kernel⟩,
   ⟨1,
    pt (base.setDie 1 { Die.init with wake := none, settling := false, vsel := 1 }) [(.CORE_DIE_OP 1, F.CORE_DIE_OP_CUR, 1), (.CORE_DIE_OP 1, F.CORE_DIE_OP_TARGET, 2), (.CORE_DIE_OP 1, F.CORE_DIE_OP_STEP, 16)],
    by decide +kernel⟩,
   ⟨1, W.base, by decide +kernel⟩,
   ⟨1, W.base, by decide +kernel⟩,
   ⟨1, W.base, by decide +kernel⟩,
   ⟨1,
    pt (base.setDie 1 { Die.init with wake := none, settling := true, vsel := 1 }) [(.CORE_DIE_OP 1, F.CORE_DIE_OP_CUR, 1), (.CORE_DIE_OP 1, F.CORE_DIE_OP_TARGET, 2), (.CORE_DIE_OP 1, F.CORE_DIE_OP_STEP, 0)],
    by decide +kernel⟩,
   ⟨1,
    pt (base.setDie 1 { Die.init with wake := none, settling := false, vsel := 1 }) [(.CORE_DIE_OP 1, F.CORE_DIE_OP_CUR, 1), (.CORE_DIE_OP 1, F.CORE_DIE_OP_TARGET, 2), (.CORE_DIE_OP 1, F.CORE_DIE_OP_STEP, 15)],
    by decide +kernel⟩,
   ⟨1,
    pt (base.setDie 1 { Die.init with wake := none, settling := false, vsel := 1 }) [(.CORE_DIE_OP 1, F.CORE_DIE_OP_CUR, 1), (.CORE_DIE_OP 1, F.CORE_DIE_OP_TARGET, 2), (.CORE_DIE_OP 1, F.CORE_DIE_OP_STEP, 16)],
    by decide +kernel⟩,
   ⟨.core 0, 1, base, by decide +kernel⟩,
   ⟨.core 0, 1, pt base [(.SCK_DIE 1, F.SCK_DIE_PINNED, 1)], by decide +kernel⟩,
   ⟨1,
    { pt (pw []) [(.SCK_DIE 1, F.SCK_DIE_OP_REQ, 3), (.SCK_DIE 1, F.SCK_DIE_OP_CAP, 0)] with cycle := 20 * 1000000 },
    by decide +kernel⟩,
   ⟨24, W.base, by decide +kernel⟩,
   ⟨1,
    pt (base.setDie 1 { Die.init with wake := some 0, settling := true, vsel := 1 }) [(.CORE_DIE_OP 1, F.CORE_DIE_OP_CUR, 0), (.CORE_DIE_OP 1, F.CORE_DIE_OP_TARGET, 0), (.CORE_DIE_OP 1, F.CORE_DIE_OP_STEP, 0)],
    by decide +kernel⟩⟩

theorem witness_ThermalTrips :
    (∃ (d : Fin 16) (s : State), 1 < s.get (.SCK_DIE d) F.SCK_DIE_STATE) ∧
    (∃ (d : Fin 16) (s : State), s.get (.SCK_DIE d) F.SCK_DIE_STATE ≤ 1 ∧ s.bit .SCK_INJECT F.SCK_INJECT_TELEM = true ∧ s.get
    .SCK_INJECT F.SCK_INJECT_DIE = d.val) ∧
    (∃ (d : Fin 16) (s : State), s.get (.SCK_DIE d) F.SCK_DIE_STATE ≤ 1 ∧ (s.bit .SCK_INJECT F.SCK_INJECT_TELEM = false ∨ s.get
    .SCK_INJECT F.SCK_INJECT_DIE ≠ d.val)) ∧
    (∃ (d : Fin 16) (s : State), s.get (.SCK_DIE d) F.SCK_DIE_STATE ≤ 1 ∧ (s.bit .SCK_INJECT F.SCK_INJECT_TELEM = false ∨ s.get
    .SCK_INJECT F.SCK_INJECT_DIE ≠ d.val)) ∧
    (∃ (d : Fin 16) (s : State), (s.die d).telAt + 3000 < s.mtime ∧ s.get (.SCK_DIE d) F.SCK_DIE_STATE ≤ 1 ∧ (s.die d).telLost = false) ∧
    (∃ (d : Fin 16) (s : State), openDie s d = true ∧ 1000 ≤ dieTemp s d ∧ s.get (.SCK_DIE d) F.SCK_DIE_STATE ≤ 1) ∧
    (∃ (d : Fin 16) (s : State), 1050 ≤ s.get (.SCK_DIE_TEL d) F.SCK_DIE_TEL_TJ ∧ s.bit (.SCK_DIE d) F.SCK_DIE_TRIP = false ∧ s.get
    .SCK_PKG F.SCK_PKG_STATE ≠ 3) ∧
    (∃ (d : Fin 16) (s : State), s.bit (.SCK_DIE d) F.SCK_DIE_TRIP = true ∧ s.get (.SCK_DIE_TEL d) F.SCK_DIE_TEL_TJ ≤ 950) ∧
    (∃ (d : Fin 16) (s : State), (s.bit (.SCK_DIE d) F.SCK_DIE_TRIP = false ∨ 950 < s.get (.SCK_DIE_TEL d) F.SCK_DIE_TEL_TJ)) ∧
    (∃ (d : Fin 16) (s : State), (s.bit (.SCK_DIE d) F.SCK_DIE_TRIP = false ∨ 950 < s.get (.SCK_DIE_TEL d) F.SCK_DIE_TEL_TJ)) ∧
    (∃ (s : State), s.get .SCK_COOLANT F.SCK_COOLANT_INLET ≤ 750) ∧
    (∃ (s : State), 750 < s.get .SCK_COOLANT F.SCK_COOLANT_INLET) ∧
    (∃ (s : State), s.bit .SCK_ERR F.SCK_ERR_THERMTRIP = true) ∧
    (∃ (s : State), s.get .SCK_COOLANT F.SCK_COOLANT_INLET < 800) ∧
    (∃ (cause : TripCause) (s : State), s.get .SCK_PKG F.SCK_PKG_STATE ≠ 3 ∧ (cause = .inlet → 800 ≤ s.get .SCK_COOLANT
    F.SCK_COOLANT_INLET)) ∧
    (∃ (cause : TripCause) (s : State), s.get .SCK_PKG F.SCK_PKG_STATE ≠ 3 ∧ (cause = .inlet → 800 ≤ s.get .SCK_COOLANT
    F.SCK_COOLANT_INLET)) ∧
    (∃ (s : State), s.bit .SCK_ERR F.SCK_ERR_THERMTRIP = false) :=
  ⟨⟨1, pt base [(.SCK_DIE 1, F.SCK_DIE_STATE, 2)], by decide +kernel⟩,
   ⟨1,
    pt { base with power := { base.power with telemDrop := 4 } } [(.SCK_INJECT, F.SCK_INJECT_TELEM, 1), (.SCK_INJECT, F.SCK_INJECT_DIE, 1)],
    by decide +kernel⟩,
   ⟨1, base, by decide +kernel⟩,
   ⟨1, pt base [(.SCK_INJECT, F.SCK_INJECT_TRIP, 1), (.SCK_INJECT, F.SCK_INJECT_DIE, 1)], by decide +kernel⟩,
   ⟨1, { base with cycle := 3001 * 20 }, by decide +kernel⟩,
   ⟨1,
    pt (base.setDie 1 { Die.init with telLost := true }) [(.SCK_DIE 1, F.SCK_DIE_OP_CAP, 2), (.SCK_DIE 1, F.SCK_DIE_OP_REQ, 2)],
    by decide +kernel⟩,
   ⟨1, pw [(.SCK_DIE_TEL 1, F.SCK_DIE_TEL_TJ, 1050)], by decide +kernel⟩,
   ⟨1, pt base [(.SCK_DIE 1, F.SCK_DIE_TRIP, 1), (.SCK_DIE_TEL 1, F.SCK_DIE_TEL_TJ, 950)], by decide +kernel⟩,
   ⟨1, W.base, by decide +kernel⟩,
   ⟨1, pt base [(.SCK_DIE 1, F.SCK_DIE_TRIP, 1), (.SCK_DIE_TEL 1, F.SCK_DIE_TEL_TJ, 951)], by decide +kernel⟩,
   ⟨pt (pw []) [(.SCK_COOLANT, F.SCK_COOLANT_INLET, 750)], by decide +kernel⟩,
   ⟨pt (pw []) [(.SCK_COOLANT, F.SCK_COOLANT_INLET, 751)], by decide +kernel⟩,
   ⟨pt base [(.SCK_ERR, F.SCK_ERR_THERMTRIP, 1)], by decide +kernel⟩,
   ⟨pt (pw []) [(.SCK_COOLANT, F.SCK_COOLANT_INLET, 799)], by decide +kernel⟩,
   ⟨.inlet, pt (pw []) [(.SCK_COOLANT, F.SCK_COOLANT_INLET, 800)], by decide +kernel⟩,
   ⟨.iodSensor, pw [], by decide +kernel⟩,
   ⟨W.base, by decide +kernel⟩⟩

theorem witness_PowerHeat :
    (∃ (m : PowerSample) (s : State), m.watts ≤ effLimit s ∧ m.watts < 2 ^ 16 ∧ s.folio.power.outlet = 0) ∧
    (∃ (m : PowerSample) (s : State), effLimit s < m.watts ∧ lowerable s m.dies = none) ∧
    (∃ (m : PowerSample) (d : Nat) (s : State), effLimit s < m.watts ∧ lowerable s m.dies = some d ∧ s.power.lowerAt + 10000 ≤ s.mtime +
    1 ∧ s.folio.power.outlet = 0) ∧
    (∃ (s : State), s.rd .SCK_INJECT = 0 ∧ s.get .SCK_COOLANT F.SCK_COOLANT_FLOW ≠ 0) ∧
    (∃ (s : State), s.get .SCK_COOLANT F.SCK_COOLANT_FLOW = 0 ∧ anyPlay s = true) ∧
    (∃ (who : Agent) (s : State), s.isHouse who = false) ∧
    (∃ (who : Agent) (v : Word) (s : State), s.isHouse who = true ∧ v &&& 0xF = 2) ∧
    (∃ (who : Agent) (v : Word) (s : State), s.isHouse who = true ∧ v &&& 0xF = 1) ∧
    (∃ (who : Agent) (v : Word) (s : State), s.isHouse who = true ∧ v &&& 0xF = 8) ∧
    (∃ (who : Agent) (v : Word) (s : State), s.isHouse who = true ∧ v &&& 0xF = 4 ∧ s.get .SCK_PKG F.SCK_PKG_STATE ≠ 3) :=
  ⟨⟨⟨2000, [1, 2, 3, 4], [0, 5, 9], 1234⟩, pw [], by decide +kernel⟩,
   ⟨⟨2001, [1, 2, 3, 4], [0, 5, 9], 1234⟩, pw [], by decide +kernel⟩,
   ⟨⟨2001, [1, 2, 3, 4], [0, 5, 9], 1234⟩,
    1,
    { pw [(.SCK_DIE 1, F.SCK_DIE_OP_CAP, 2), (.SCK_DIE 1, F.SCK_DIE_OP_REQ, 2)] with cycle := 20 * 10000 },
    by decide +kernel⟩,
   ⟨pw [(.SCK_COOLANT, F.SCK_COOLANT_FLOW, 100)], by decide +kernel⟩,
   ⟨pw [], by decide +kernel⟩,
   ⟨.core 24, W.base, by decide +kernel⟩,
   ⟨.core 0, 0x302, pw [], by decide +kernel⟩,
   ⟨.core 0, 1, pw [], by decide +kernel⟩,
   ⟨.core 0, 8, pw [], by decide +kernel⟩,
   ⟨.core 0, 4, pw [], by decide +kernel⟩⟩

namespace Sys2Proof.W
/-- Channel 3 changed. -/
def ch3 (f : Chan → Chan := id) (l : List (Reg × Fld × Nat) := []) : State :=
  pt (mem.setChan 3 (f Chan.init)) ([(.MC_CFG 3, F.MC_CFG_ENABLE, 1), (.MC_CFG 3, F.MC_CFG_RANKS, 4), (.MC_CFG 3, F.MC_CFG_SPARE, 3),
    (.MC_RANK 3 3, F.MC_RANK_STATE, 2), (.MC_RANK 3 1, F.MC_RANK_STATE, 1), (.MC_RANK 3 1, F.MC_RANK_INDEX, 1), (.MC_ACT 3, F.MC_ACT_THRESH, 9)] ++ l)
/-- An open read of line 5 at slice 0. -/
def rdTxn : Txn := ⟨{ m5 with op := .rdShared }, false, 0, [], none, false, false, true, false, false⟩
/-- A full table whose least count, 3, stands first at 99. -/
def full : List (Nat × Nat) := (List.range 4096).map (fun a => (a, if a % 100 = 99 then 3 else 5))
theorem full_least (a : Nat) (e : Nat × Nat) (ha : a < 99) (he : full[a]? = some e) : 3 < e.2 := by
  have h : ∀ a, a < 99 → (full[a]?).all (fun e => decide (3 < e.2)) = true := by decide +kernel
  have := h a ha
  rw [he] at this
  simpa using this
end Sys2Proof.W

theorem witness_MemoryReadBack :
    ∃ (key : Nat) (k : _), k ≠ key :=
  ⟨5, 4, by decide +kernel⟩

theorem witness_MemoryEcc :
    ∃ (i : Fin 72) (j : Fin 72), j ≠ i :=
  ⟨71, 0, by decide +kernel⟩

theorem witness_ChannelReadData :
    (∃ (n : Fin 16) (q : MemRd) (data : LineData) (poison : Bool) (u : Txn) (s : State), (s.chan n).reads = [q] ∧ q.raw = some (rawLine
    data (backing poison 0 0 true)) ∧ q.again = false ∧ sramBits s 14 (0x2300 + n.val) (q.line * 64) = 0 ∧ s.get .SCK_IOD_STATE
    (F.SCK_IOD_STATE_CHANNEL n) ≠ 2 ∧ (s.slice (q.q / 2)).txns = [u] ∧ u.req.line = q.line ∧ u.reading = true) ∧
    (∃ (n : Fin 16) (line : Nat) (s : State), ((∀ q ∈ (s.chan n).reads, q.line = line → q.raw = none ∨ q.again = true) ∨ s.get
    .SCK_IOD_STATE (F.SCK_IOD_STATE_CHANNEL n) = 2)) :=
  ⟨⟨3,
    ⟨0, 1, 5, 9, 0, true, some (rawLine ramp (backing true 0 0 true)), 0, false⟩,
    ramp,
    true,
    rdTxn,
    (ch3 (fun c => { c with reads := [⟨0, 1, 5, 9, 0, true, some (rawLine ramp (backing true 0 0 true)), 0, false⟩] })).setSlice 0 { Slice.init with txns := [rdTxn], dir := [(60, ⟨5, 0, 0, 0, 0, [], []⟩)] },
    by decide +kernel⟩,
   ⟨3, 5, ch3 (fun c => { c with reads := [⟨0, 1, 5, 9, 0, true, none, 0, false⟩] }), by decide +kernel⟩⟩

theorem witness_ChannelRefresh :
    (∃ (n : Fin 16) (r : Fin 8) (s : State), s.bit (.MC_CFG n) F.MC_CFG_ENABLE = true ∧ r.val < s.get (.MC_CFG n) F.MC_CFG_RANKS) ∧
    (∃ (n : Fin 16) (r : Fin 8) (s : State), (s.bit (.MC_CFG n) F.MC_CFG_ENABLE = false ∨ s.get (.MC_CFG n) F.MC_CFG_RANKS ≤ r.val)) ∧
    (∃ (n : Fin 16) (k : Nat) (m : Nat) (s : State), (s.chan n).act = [(k, m)] ∧ s.get (.MC_ACT n) F.MC_ACT_THRESH ≤ m ∧ (s.chan
    n).neigh.length < 32) ∧
    (∃ (n : Fin 16) (k : Nat) (m : Nat) (s : State), (s.chan n).act = [(k, m)] ∧ s.get (.MC_ACT n) F.MC_ACT_THRESH ≤ m ∧ 32 ≤ (s.chan
    n).neigh.length) ∧
    (∃ (n : Fin 16) (k : Nat) (s : State), (∀ e ∈ (s.chan n).act, e.1 = k → e.2 < s.get (.MC_ACT n) F.MC_ACT_THRESH)) :=
  ⟨⟨3, 3, ch3, by decide +kernel⟩,
   ⟨3, 3, W.base, by decide +kernel⟩,
   ⟨3,
    rowKey 1 ⟨3, 1, 2, 3, 0xFFFF, 0, 0⟩,
    9,
    ch3 (fun c => { c with act := [(rowKey 1 ⟨3, 1, 2, 3, 0xFFFF, 0, 0⟩, 9)], neigh := List.replicate 31 (0, []) }),
    by decide +kernel⟩,
   ⟨3, 0, 9, ch3 (fun c => { c with act := [(0, 9)], neigh := List.replicate 32 (0, []) }), by decide +kernel⟩,
   ⟨3, 0, ch3 (fun c => { c with act := [(0, 8)] }), by decide +kernel⟩⟩

theorem witness_RankRetirement :
    (∃ (n : Fin 16) (r : Fin 8) (s : State), (s.chan n).retire.contains r.val = true ∧ rankState s n r = 1 ∧ r.val ≠ spareRank s n ∧
    spareFree s n = true) ∧
    (∃ (n : Fin 16) (r : Fin 8) (s : State), (s.chan n).retire.contains r.val = true ∧ rankState s n r = 1 ∧ spareFree s n = false ∧
    s.bit (.MC_MIGRATE n) F.MC_MIGRATE_ACTIVE = false) ∧
    (∃ (n : Fin 16) (r : Fin 8) (s : State), (s.chan n).retire.contains r.val = false) :=
  ⟨⟨3, 1, ch3 (fun c => { c with retire := [0, 1] }), by decide +kernel⟩,
   ⟨3, 1, ch3 (fun c => { c with retire := [1] }) [(.MC_RANK 3 3, F.MC_RANK_STATE, 1)], by decide +kernel⟩,
   ⟨3, 1, W.base, by decide +kernel⟩⟩

theorem witness_CommandRetry :
    (∃ (n : Fin 16) (slot : Fin 2) (s : State), (s.chan n).retry.get? slot.val = none) ∧
    (∃ (n : Fin 16) (slot : Fin 2) (y : MemRetry) (s : State), (s.chan n).retry.get? slot.val = some y) ∧
    (∃ (n : Fin 16) (slot : Fin 2) (y : MemRetry) (s : State), (s.chan n).retry.get? slot.val = some y ∧ y.recur = none ∧ y.redo = []) ∧
    (∃ (n : Fin 16) (slot : Fin 2) (y : MemRetry) (s : State), (s.chan n).retry.get? slot.val = some y ∧ y.recur = none ∧ y.redo ≠ []) ∧
    (∃ (n : Fin 16) (slot : Fin 2) (y : MemRetry) (s : State) (m : _), (s.chan n).retry.get? slot.val = some y ∧ y.recur = some m ∧
    m.rank < 8 ∧ rankState s n m.rank = 1 ∧ spareFree s n = false ∧ s.bit (.MC_MIGRATE n) F.MC_MIGRATE_ACTIVE = false) ∧
    (∃ (n : Fin 16) (slot : Fin 2) (s : State), (s.chan n).retry.get? slot.val = none) :=
  ⟨⟨3,
    0,
    ch3 (fun c => { c with reads := [⟨0, 1, 5, 9, 0, true, some 7, 0, false⟩, ⟨0, 1, 6, 10, 0, true, some 8, 1, false⟩], hist := [⟨0, 0, 0, 0, true, 5, .read 9⟩, ⟨1, 0, 2, 0, false, 0, .activate⟩] }),
    by decide +kernel⟩,
   ⟨3,
    1,
    ⟨[], some (⟨1, 0, 1, rowKey 1 ⟨3, 1, 2, 3, 7, 0, 0⟩, true, 5, .read 9⟩ : MemCmd), none⟩,
    ch3 (fun c => { c with retry := [(1, ⟨[], some (⟨1, 0, 1, rowKey 1 ⟨3, 1, 2, 3, 7, 0, 0⟩, true, 5, .read 9⟩ : MemCmd), none⟩)] }),
    by decide +kernel⟩,
   ⟨3,
    1,
    ⟨[], some (⟨1, 0, 1, rowKey 1 ⟨3, 1, 2, 3, 7, 0, 0⟩, true, 5, .read 9⟩ : MemCmd), none⟩,
    ch3 (fun c => { c with retry := [(1, ⟨[], some (⟨1, 0, 1, rowKey 1 ⟨3, 1, 2, 3, 7, 0, 0⟩, true, 5, .read 9⟩ : MemCmd), none⟩)] }),
    by decide +kernel⟩,
   ⟨3,
    1,
    ⟨[(⟨1, 0, 1, rowKey 1 ⟨3, 1, 2, 3, 7, 0, 0⟩, true, 5, .read 9⟩ : MemCmd)], none, none⟩,
    ch3 (fun c => { c with retry := [(1, ⟨[(⟨1, 0, 1, rowKey 1 ⟨3, 1, 2, 3, 7, 0, 0⟩, true, 5, .read 9⟩ : MemCmd)], none, none⟩)] }),
    by decide +kernel⟩,
   ⟨3,
    1,
    ⟨[], some (⟨1, 0, 1, rowKey 1 ⟨3, 1, 2, 3, 7, 0, 0⟩, true, 5, .read 9⟩ : MemCmd), some (⟨1, 0, 1, rowKey 1 ⟨3, 1, 2, 3, 7, 0, 0⟩, true, 5, .read 9⟩ : MemCmd)⟩,
    ch3 (fun c => { c with retry := [(1, ⟨[], some (⟨1, 0, 1, rowKey 1 ⟨3, 1, 2, 3, 7, 0, 0⟩, true, 5, .read 9⟩ : MemCmd), some (⟨1, 0, 1, rowKey 1 ⟨3, 1, 2, 3, 7, 0, 0⟩, true, 5, .read 9⟩ : MemCmd)⟩)], reads := [⟨0, 1, 5, 9, 0, true, some 7, 2, true⟩, ⟨0, 1, 6, 10, 0, true, some 8, 0, true⟩] }) [(.MC_RANK 3 3, F.MC_RANK_STATE, 1)],
    (⟨1, 0, 1, rowKey 1 ⟨3, 1, 2, 3, 7, 0, 0⟩, true, 5, .read 9⟩ : MemCmd),
    by decide +kernel⟩,
   ⟨3, 1, W.base, by decide +kernel⟩⟩

theorem witness_RankCommands :
    (∃ (who : Agent) (s : State), s.isHouse who = false) ∧
    (∃ (v : Word), F.MC_RANK_CMD_OP.get v ≠ 1) ∧
    (∃ (v : Word), F.MC_RANK_CMD_OP.get v ≠ 2) ∧
    (∃ (who : Agent) (n : Fin 16) (v : Word) (r : Fin 8) (s : State), s.isHouse who = true ∧ F.MC_RANK_CMD_OP.get v = 1 ∧
    F.MC_RANK_CMD_RANK.get v = r.val ∧ rankResult s n 1 r = 0) ∧
    (∃ (who : Agent) (n : Fin 16) (v : Word) (r : Fin 8) (s : State), s.isHouse who = true ∧ F.MC_RANK_CMD_OP.get v = 1 ∧
    F.MC_RANK_CMD_RANK.get v = r.val ∧ rankResult s n 1 r ≠ 0) ∧
    (∃ (n : Fin 16) (r : Nat) (s : State), rankState s n r ≠ 4 ∧ rankState s n r ≠ 5) ∧
    (∃ (n : Fin 16) (op : Nat) (r : Nat) (s : State), (rankState s n r = 4 ∨ rankState s n r = 5) ∧ op = 2 ∧ (s.bit (.MC_RANK n r)
    F.MC_RANK_TESTED = false ∨ s.bit (.MC_RANK n r) F.MC_RANK_PASS = false)) ∧
    (∃ (n : Fin 16) (op : Nat) (r : Nat) (s : State), (rankState s n r = 4 ∨ rankState s n r = 5) ∧ (op ≠ 2 ∨ s.bit (.MC_RANK n r)
    F.MC_RANK_TESTED = true ∧ s.bit (.MC_RANK n r) F.MC_RANK_PASS = true)) ∧
    (∃ (who : Agent) (n : Fin 16) (v : Word) (r : Fin 8) (s : State), s.isHouse who = true ∧ F.MC_RANK_CMD_OP.get v = 2 ∧
    F.MC_RANK_CMD_RANK.get v = r.val ∧ rankResult s n 2 r ≠ 0) ∧
    (∃ (who : Agent) (n : Fin 16) (v : Word) (r : Fin 8) (s : State), s.isHouse who = true ∧ F.MC_RANK_CMD_OP.get v = 2 ∧
    F.MC_RANK_CMD_RANK.get v = r.val ∧ rankResult s n 2 r = 0 ∧ s.get (.MC_MIGRATE n) F.MC_MIGRATE_SOURCE = r.val) ∧
    (∃ (who : Agent) (n : Fin 16) (v : Word) (r : Fin 8) (s : State), s.isHouse who = true ∧ F.MC_RANK_CMD_OP.get v = 2 ∧
    F.MC_RANK_CMD_RANK.get v = r.val ∧ rankResult s n 2 r = 0 ∧ s.get (.MC_MIGRATE n) F.MC_MIGRATE_SOURCE ≠ r.val) ∧
    (∃ (n : Fin 16) (r : Fin 8) (x : RankTest) (s : State), (s.chan n).test = some x ∧ x.rank = r.val ∧ (x.prior = 4 ∨ x.prior = 5) ∧
    testSteps s ≤ x.step) ∧
    (∃ (n : Fin 16) (s : State), ((s.chan n).test = none ∨ (∃ x, (s.chan n).test = some x ∧ x.step < testSteps s))) ∧
    (∃ (who : Agent) (s : State), s.isHouse who = true) :=
  ⟨⟨.core 24, W.base, by decide +kernel⟩,
   ⟨2, by decide +kernel⟩,
   ⟨1, by decide +kernel⟩,
   ⟨.core 0, 3, 0x11, 1, ch3 id [(.MC_RANK 3 1, F.MC_RANK_STATE, 5)], by decide +kernel⟩,
   ⟨.core 0, 3, 0x11, 1, ch3, by decide +kernel⟩,
   ⟨3, 1, ch3, by decide +kernel⟩,
   ⟨3, 2, 1, ch3 id [(.MC_RANK 3 1, F.MC_RANK_STATE, 5)], by decide +kernel⟩,
   ⟨3, 1, 1, ch3 id [(.MC_RANK 3 1, F.MC_RANK_STATE, 4)], by decide +kernel⟩,
   ⟨.core 0, 3, 0x12, 1, ch3, by decide +kernel⟩,
   ⟨.core 0, 3, 0x12, 1, ch3 id [(.MC_RANK 3 1, F.MC_RANK_STATE, 4), (.MC_RANK 3 1, F.MC_RANK_TESTED, 1), (.MC_RANK 3 1, F.MC_RANK_PASS,
   1), (.MC_MIGRATE 3, F.MC_MIGRATE_SOURCE, 1)], by decide +kernel⟩,
   ⟨.core 0, 3, 0x12, 1, ch3 id [(.MC_RANK 3 1, F.MC_RANK_STATE, 5), (.MC_RANK 3 1, F.MC_RANK_TESTED, 1), (.MC_RANK 3 1, F.MC_RANK_PASS,
   1), (.MC_MIGRATE 3, F.MC_MIGRATE_SOURCE, 15)], by decide +kernel⟩,
   ⟨3,
    1,
    ⟨1, 2 ^ 40, 5, false⟩,
    { ch3 (fun c => { c with test := some ⟨1, 2 ^ 40, 5, false⟩ }) [(.MC_RANK 3 1, F.MC_RANK_STATE, 6)] with dram := setRaw [] (lineKey mem 3 1 9) 5 },
    by decide +kernel⟩,
   ⟨3, W.base, by decide +kernel⟩,
   ⟨.core 0, W.base, by decide +kernel⟩⟩

theorem witness_ActivationTable :
    (∃ (t : List (Nat × Nat)) (k : Nat) (m : Nat), (k, m) ∈ t ∧ m < 0xFFFF) ∧
    (∃ (t : List (Nat × Nat)) (k : Nat), (∀ e ∈ t, e.1 ≠ k) ∧ t.length < 4096) ∧
    (∃ (t : List (Nat × Nat)) (k : Nat) (i : Nat) (j : Nat) (m : Nat), (∀ e ∈ t, e.1 ≠ k) ∧ 4096 ≤ t.length ∧ t[i]? = some (j, m) ∧ m <
    0xFFFF ∧ (∀ e ∈ t, m ≤ e.2) ∧ (∀ a e, a < i → t[a]? = some e → m < e.2)) ∧
    (∃ (l : List Nat) (k : Nat) (m : Nat), (∀ e ∈ l.foldl countAct [], e.2 < 0xFFFF) ∧ (k, m) ∈ l.foldl countAct []) :=
  ⟨⟨[(1, 2), (5, 9)], 5, 9, by decide +kernel⟩,
   ⟨[(1, 2), (5, 9)], 7, by decide +kernel⟩,
   ⟨full, 5000, 99, 99, 3, by decide +kernel, by decide +kernel, by decide +kernel, by decide +kernel, by decide +kernel, full_least⟩,
   ⟨[5, 6, 5], 5, 2, by decide +kernel⟩⟩

namespace Sys2Proof.W
/-- Ports 0 to 4, 6 and 7 enabled, port 3 with the two VFs 9 and 20; the folio is in service. -/
def hp (l : List (Reg × Fld × Nat)) (s : State := base) : State :=
  pt { s with folio := { s.folio with
        ports := (List.range 8).map (fun p => ⟨0, p != 5, 16, 2, 24, 20, 16, []⟩)
        vfs := [⟨0, 9, 3, 4, 8, 1, 0, []⟩, ⟨8, 20, 3, 2, 8, 1, 0, []⟩]
        map := { s.folio.map with windows := [⟨0, 0x40000000, 0x400000, 1, 1, []⟩] } } } l
/-- Port 3 up. -/
def up3 (l : List (Reg × Fld × Nat) := []) (s : State := base) : State := hp ([(.HP_LINK 3, F.HP_LINK_STATE, 3)] ++ l) s
/-- Configuration dwords written in a function. -/
def cf (f : FnId) (l : List (Nat × Nat)) (s : State := up3) : State := l.foldl (fun s e => setCfg s f e.1 (BitVec.ofNat 64 e.2)) s
/-- Port 3 changed. -/
def prt (g : Port → Port) (s : State := up3) : State := s.setPort 3 (g (s.port 3))
/-- VF Enable and VF Memory Space Enable set, two VFs, BAR 0 of the PF at 0x10000000 and of the VFs at 0x20000000. -/
def vfs3 : State := cf (.pf 3) [(0x160, 9), (0x168, 2), (4, 6), (0x10, 0x10000000), (0x17C, 0x20000000)]
/-- A read of 64 bytes for a slip of queue 0. -/
def or3 : OutRead := ⟨5, .pf 3, 0x1000, 64, [], .slips 0, 7⟩
def l2 : State := cf (.pf 2) [(0x98, 0x400)] (hp [(.HP_LINK 2, F.HP_LINK_STATE, 3)])
/-- Bounds on what every function has, from the VF records. -/
theorem fn_bounds (s : State) (h : ∀ r ∈ s.folio.vfs, r.qpairs ≤ 16 ∧ r.hand < 64) (g : FnId) : fnQueues s g ≤ 16 ∧ fnHand s g < 64 := by
  cases g with
  | pf p => simp only [fnQueues, fnHand]; split <;> omega
  | vf v =>
    simp only [fnQueues, fnHand]
    cases hv : s.folio.vf? v with
    | none => simp
    | some r => simpa using h r (List.mem_of_find?_eq_some hv)
end Sys2Proof.W

theorem witness_PortLinks :
    (∃ (p : Fin 8) (s : State), s.folio.portEnabled p = true ∧ counts s p = false) ∧
    (∃ (p : Fin 8) (s : State), s.folio.portEnabled p = true ∧ counts s p = false) ∧
    (∃ (p : Fin 8) (s : State), s.folio.portEnabled p = true ∧ counts s p = false) ∧
    (∃ (p : Fin 8) (s : State), s.folio.portEnabled p = true ∧ counts s p = true) ∧
    (∃ (p : Fin 8) (s : State), s.folio.portEnabled p = true ∧ counts s p = true) ∧
    (∃ (p : Fin 8) (speed : Nat) (width : Nat) (s : State), mayTrain s p = true ∧ counts s p = false ∧ ratesOk s p speed width = true) ∧
    (∃ (p : Fin 8) (speed : Nat) (width : Nat) (s : State), mayTrain s p = true ∧ counts s p = false ∧ ratesOk s p speed width = true) ∧
    (∃ (p : Fin 8) (speed : Nat) (width : Nat) (s : State), mayTrain s p = true ∧ counts s p = false ∧ ratesOk s p speed width = true) ∧
    (∃ (p : Fin 8) (speed : Nat) (width : Nat) (s : State), (mayTrain s p = false ∨ counts s p = true ∨ ratesOk s p speed width =
    false)) ∧
    (∃ (p : Fin 8) (speed : Nat) (width : Nat) (s : State), (mayTrain s p = false ∨ counts s p = true ∨ ratesOk s p speed width =
    false)) ∧
    (∃ (p : Fin 8) (s : State), linkIsUp s p = true ∧ (s.port p).l1 = false) ∧
    (∃ (p : Fin 8) (speed : Nat) (width : Nat) (s : State), counts s p = true ∧ (s.port p).l1 = false ∧ ratesOk s p speed width = true) ∧
    (∃ (p : Fin 8) (speed : Nat) (width : Nat) (s : State), counts s p = true ∧ (s.port p).l1 = false ∧ ratesOk s p speed width = true) ∧
    (∃ (p : Fin 8) (s : State), counts s p = true ∧ s.folio.portEnabled p = true) ∧
    (∃ (p : Fin 8) (s : State), counts s p = true ∧ s.folio.portEnabled p = true) ∧
    (∃ (p : Fin 8) (s : State), counts s p = false) ∧
    (∃ (p : Fin 8) (s : State), linkIsUp s p = true ∧ (cfg s (.pf p) 0x80).getLsbD 1 = true ∧ (s.port p).reads = [] ∧ (s.port p).txq =
    [] ∧ (s.port p).l1 = false) ∧
    (∃ (p : Fin 8) (s : State), (s.port p).l1 = true) ∧
    (∃ (p : Fin 8) (n : Nat) (s : State), linkIsUp s p = true ∧ (cfg s (.pf p) 0x98).getLsbD 10 = true ∧ (s.port p).l1 = false ∧ n =
    (portFns s p).foldl (fun m f => min m (tolerance s f)) 1048576 ∧ ((s.port p).ltr = none ∨ ((s.port p).ltr ≠ some n ∧ (s.port
    p).ltrAt + 20000 ≤ s.cycle))) ∧
    (∃ (who : Agent) (s : State), s.isHouse who = false) ∧
    (∃ (who : Agent) (v : Word) (s : State), s.isHouse who = true ∧ v &&& 0xA = 0) ∧
    (∃ (who : Agent) (p : Fin 8) (v : Word) (s : State), s.isHouse who = true ∧ v &&& 0xA = 2 ∧ (s.port p).reads = []) ∧
    (∃ (who : Agent) (p : Fin 8) (v : Word) (s : State), s.isHouse who = true ∧ v &&& 0xA = 8 ∧ counts s p = true) :=
  ⟨⟨3, hp [], by decide +kernel⟩,
   ⟨3, { hp [] with mgmt := { base.mgmt with perst := 8 } }, by decide +kernel⟩,
   ⟨3,
    { hp [(.HP_LINK 3, F.HP_LINK_STATE, 5), (.FOL_STATE, F.FOL_STATE_STATE, 3)] with mgmt := { base.mgmt with perst := 8 } },
    by decide +kernel⟩,
   ⟨3, prt (fun x => { x with reads := [or3], txq := [.ltr 3 9 9], l1 := true }) up3, by decide +kernel⟩,
   ⟨3, { up3 with mgmt := { base.mgmt with perst := 8 } }, by decide +kernel⟩,
   ⟨3, 6, 8, { hp [] with mgmt := { base.mgmt with perst := 0 } }, by decide +kernel⟩,
   ⟨3, 6, 16, { hp [] with mgmt := { base.mgmt with perst := 0 } }, by decide +kernel⟩,
   ⟨3, 4, 16, { hp [] with mgmt := { base.mgmt with perst := 0 } }, by decide +kernel⟩,
   ⟨3, 6, 16, up3, by decide +kernel⟩,
   ⟨3, 7, 16, { hp [] with mgmt := { base.mgmt with perst := 0 } }, by decide +kernel⟩,
   ⟨3, up3, by decide +kernel⟩,
   ⟨3, 6, 16, up3, by decide +kernel⟩,
   ⟨3, 5, 8, prt (fun x => { x with txq := [.ltr 3 9 9] }) (up3 [(.HP_LINK 3, F.HP_LINK_STATE, 4)]), by decide +kernel⟩,
   ⟨3,
    prt (fun x => { x with reads := [or3], txq := [.ltr 3 9 9], l1 := true }) (pt up3 [(.QP_STATE (FnId.key (.pf 3)) 2, F.QP_STATE_STATE, 1), (.PWR_PKG 3, F.PWR_PKG_TARGET, 2)]),
    by decide +kernel⟩,
   ⟨3, { up3 with mgmt := { base.mgmt with perst := 8 } }, by decide +kernel⟩,
   ⟨3, hp [], by decide +kernel⟩,
   ⟨3, cf (.pf 3) [(0x80, 2)], by decide +kernel⟩,
   ⟨3, prt (fun x => { x with l1 := true, txq := [.ltr 3 9 9] }), by decide +kernel⟩,
   ⟨2, (portFns W.l2 2).foldl (fun m f => min m (tolerance W.l2 f)) 1048576, l2, by decide +kernel⟩,
   ⟨.core 24, W.base, by decide +kernel⟩,
   ⟨.core 0, 4, W.base, by decide +kernel⟩,
   ⟨.core 0, 3, 2, W.base, by decide +kernel⟩,
   ⟨.core 0, 3, 8, up3, by decide +kernel⟩⟩

theorem witness_PortRequests :
    (∃ (p : Fin 8) (s : State), linkIsUp s p = false) ∧
    (∃ (p : Fin 8) (s : State), linkIsUp s p = true ∧ s.bit (.HP_INJECT p) F.HP_INJECT_LCRC = true) ∧
    (∃ (p : Fin 8) (m : Tlp) (posted : Bool) (s : State), linkIsUp s p = true ∧ s.bit (.HP_INJECT p) F.HP_INJECT_LCRC = false ∧ m.kind =
    .other posted) ∧
    (∃ (p : Fin 8) (m : Tlp) (f : FnId) (s : State), linkIsUp s p = true ∧ s.bit (.HP_INJECT p) F.HP_INJECT_LCRC = false ∧ fnByNum s p
    m.fn = some f ∧ m.kind = .cfgRead) ∧
    (∃ (p : Fin 8) (m : Tlp) (f : FnId) (s : State), linkIsUp s p = true ∧ s.bit (.HP_INJECT p) F.HP_INJECT_LCRC = false ∧ fnByNum s p
    m.fn = some f ∧ m.kind = .cfgRead) ∧
    (∃ (p : Fin 8) (m : Tlp) (f : FnId) (s : State), linkIsUp s p = true ∧ s.bit (.HP_INJECT p) F.HP_INJECT_LCRC = false ∧ fnByNum s p
    m.fn = some f ∧ m.kind = .cfgWrite) ∧
    (∃ (p : Fin 8) (m : Tlp) (f : FnId) (s : State), linkIsUp s p = true ∧ s.bit (.HP_INJECT p) F.HP_INJECT_LCRC = false ∧ fnByNum s p
    m.fn = some f ∧ m.kind = .cfgWrite) ∧
    (∃ (p : Fin 8) (m : Tlp) (f : FnId) (off : Nat) (s : State), linkIsUp s p = true ∧ s.bit (.HP_INJECT p) F.HP_INJECT_LCRC = false ∧
    m.kind = .memRead ∧ barOf s p m.addr m.len = some (f, off) ∧ (s.fn f).flr = false ∧ inD3 s f = false ∧ off < 0x100000) ∧
    (∃ (p : Fin 8) (m : Tlp) (f : FnId) (off : Nat) (s : State), linkIsUp s p = true ∧ s.bit (.HP_INJECT p) F.HP_INJECT_LCRC = false ∧
    m.kind = .memRead ∧ barOf s p m.addr m.len = some (f, off) ∧ (s.fn f).flr = false ∧ inD3 s f = false ∧ off < 0x100000) ∧
    (∃ (p : Fin 8) (m : Tlp) (f : FnId) (off : Nat) (s : State), linkIsUp s p = true ∧ s.bit (.HP_INJECT p) F.HP_INJECT_LCRC = false ∧
    m.kind = .memWrite ∧ barOf s p m.addr m.bytes.length = some (f, off) ∧ (s.fn f).flr = false ∧ inD3 s f = false ∧ off < 0x100000) ∧
    (∃ (p : Fin 8) (m : Tlp) (f : FnId) (off : Nat) (s : State), linkIsUp s p = true ∧ s.bit (.HP_INJECT p) F.HP_INJECT_LCRC = false ∧
    m.kind = .memWrite ∧ barOf s p m.addr m.bytes.length = some (f, off) ∧ (s.fn f).flr = false ∧ inD3 s f = false ∧ off < 0x100000) ∧
    (∃ (p : Fin 8) (m : Tlp) (f : FnId) (off : Nat) (s : State), linkIsUp s p = true ∧ s.bit (.HP_INJECT p) F.HP_INJECT_LCRC = false ∧
    m.kind = .memWrite ∧ barOf s p m.addr m.bytes.length = some (f, off) ∧ (s.fn f).flr = false ∧ inD3 s f = false ∧ off < 0x100000) ∧
    (∃ (p : Fin 8) (m : Tlp) (off : Nat) (s : State), linkIsUp s p = true ∧ s.bit (.HP_INJECT p) F.HP_INJECT_LCRC = false ∧ m.kind =
    .memRead ∧ barOf s p m.addr m.len = some (.pf p, off) ∧ (s.fn (.pf p)).flr = false ∧ inD3 s (.pf p) = false ∧ 0x100000 ≤ off) ∧
    (∃ (p : Fin 8) (m : Tlp) (e : LinkError) (s : State), linkIsUp s p = true ∧ s.bit (.HP_INJECT p) F.HP_INJECT_LCRC = false ∧ m.kind =
    .fatal e) ∧
    (∃ (p : Fin 8) (m : Tlp) (e : LinkError) (s : State), linkIsUp s p = true ∧ s.bit (.HP_INJECT p) F.HP_INJECT_LCRC = false ∧ m.kind =
    .fatal e) ∧
    (∃ (p : Fin 8) (m : Tlp) (e : LinkError) (s : State), linkIsUp s p = true ∧ s.bit (.HP_INJECT p) F.HP_INJECT_LCRC = false ∧ m.kind =
    .fatal e) ∧
    (∃ (p : Fin 8) (m : Tlp) (e : LinkError) (s : State), linkIsUp s p = true ∧ s.bit (.HP_INJECT p) F.HP_INJECT_LCRC = false ∧ m.kind =
    .fatal e) ∧
    (∃ (p : Fin 8) (m : Tlp) (s : State), linkIsUp s p = true ∧ s.bit (.HP_INJECT p) F.HP_INJECT_LCRC = false ∧ m.kind = .damaged) :=
  ⟨⟨3, W.base, by decide +kernel⟩,
   ⟨3, up3 [(.HP_INJECT 3, F.HP_INJECT_LCRC, 1)], by decide +kernel⟩,
   ⟨3, ⟨.other false, 0, 0, 4, [], false, []⟩, false, up3, by decide +kernel⟩,
   ⟨3, ⟨.cfgRead, 0, 0, 4, [], false, []⟩, .pf 3, up3, by decide +kernel⟩,
   ⟨3, ⟨.cfgRead, 2, 0, 4, [], false, []⟩, .vf 20, vfs3.setFn (.vf 20) { (vfs3.fn (.vf 20)) with flr := true }, by decide +kernel⟩,
   ⟨3, ⟨.cfgWrite, 0, 4, 4, leBytes 4 6, false, []⟩, .pf 3, up3, by decide +kernel⟩,
   ⟨3, ⟨.cfgWrite, 0, 5, 4, [1], true, []⟩, .pf 3, up3, by decide +kernel⟩,
   ⟨3, ⟨.memRead, 0, 0x20100008, 8, [], false, []⟩, .vf 20, 8, vfs3, by decide +kernel⟩,
   ⟨3, ⟨.memRead, 0, 0x20100006, 4, [], false, []⟩, .vf 20, 6, vfs3, by decide +kernel⟩,
   ⟨3, ⟨.memWrite, 0, 0x20100008, 4, leBytes 4 7, false, []⟩, .vf 20, 8, vfs3, by decide +kernel⟩,
   ⟨3, ⟨.memWrite, 0, 0x20100008, 4, leBytes 8 7, false, [true, false, true, true, true, true, true, true]⟩, .vf 20, 8, vfs3,
   by decide +kernel⟩,
   ⟨3, ⟨.memWrite, 0, 0x20100008, 4, leBytes 4 7, true, []⟩, .vf 20, 8, vfs3, by decide +kernel⟩,
   ⟨3, ⟨.memRead, 0, 0x10100008, 8, [], false, []⟩, 0x100008, vfs3, by decide +kernel⟩,
   ⟨3, ⟨.fatal .malformed, 0, 0, 4, [], false, []⟩, .malformed, up3, by decide +kernel⟩,
   ⟨3, ⟨.fatal .flowControl, 0, 0, 4, [], false, []⟩, .flowControl, up3, by decide +kernel⟩,
   ⟨3, ⟨.fatal .overflow, 0, 0, 4, [], false, []⟩, .overflow, up3, by decide +kernel⟩,
   ⟨3, ⟨.fatal .dataLink, 0, 0, 4, [], false, []⟩, .dataLink, up3, by decide +kernel⟩,
   ⟨3, ⟨.damaged, 0, 0, 4, [], false, []⟩, up3, by decide +kernel⟩⟩

theorem witness_PortCompletions :
    (∃ (p : Fin 8) (c : Cpl) (r : OutRead) (s : State), s.bit (.HP_INJECT p) F.HP_INJECT_LCRC = false ∧ s.bit (.HP_INJECT p)
    F.HP_INJECT_POISON = false ∧ (s.port p).reads = [r] ∧ r.tag = c.tag ∧ c.last = true ∧ c.status = .ok) ∧
    (∃ (p : Fin 8) (c : Cpl) (r : OutRead) (s : State), s.bit (.HP_INJECT p) F.HP_INJECT_LCRC = false ∧ s.bit (.HP_INJECT p)
    F.HP_INJECT_POISON = false ∧ (s.port p).reads = [r] ∧ r.tag = c.tag ∧ c.last = true ∧ c.status = .ep) ∧
    (∃ (p : Fin 8) (c : Cpl) (r : OutRead) (s : State), s.bit (.HP_INJECT p) F.HP_INJECT_LCRC = false ∧ s.bit (.HP_INJECT p)
    F.HP_INJECT_POISON = false ∧ (s.port p).reads = [r] ∧ r.tag = c.tag ∧ c.last = true ∧ c.status = .ca) ∧
    (∃ (p : Fin 8) (c : Cpl) (r : OutRead) (s : State), s.bit (.HP_INJECT p) F.HP_INJECT_LCRC = false ∧ s.bit (.HP_INJECT p)
    F.HP_INJECT_POISON = false ∧ (s.port p).reads = [r] ∧ r.tag = c.tag ∧ c.last = true ∧ c.status = .ur) ∧
    (∃ (p : Fin 8) (c : Cpl) (r : OutRead) (s : State), s.bit (.HP_INJECT p) F.HP_INJECT_LCRC = false ∧ s.bit (.HP_INJECT p)
    F.HP_INJECT_POISON = false ∧ (s.port p).reads = [r] ∧ r.tag = c.tag ∧ c.last = false ∧ c.status = .ok) ∧
    (∃ (p : Fin 8) (c : Cpl) (s : State), s.bit (.HP_INJECT p) F.HP_INJECT_LCRC = false ∧ (∀ r ∈ (s.port p).reads, r.tag ≠ c.tag) ∧
    (s.port p).timedOut = []) ∧
    (∃ (p : Fin 8) (c : Cpl) (s : State) (f : _), s.bit (.HP_INJECT p) F.HP_INJECT_LCRC = false ∧ (∀ r ∈ (s.port p).reads, r.tag ≠
    c.tag) ∧ (s.port p).timedOut = [(c.tag, f)]) ∧
    (∃ (p : Fin 8) (c : Cpl) (s : State), s.bit (.HP_INJECT p) F.HP_INJECT_LCRC = false ∧ (∀ r ∈ (s.port p).reads, r.tag ≠ c.tag)) ∧
    (∃ (p : Fin 8) (c : Cpl) (s : State) (f : _), s.bit (.HP_INJECT p) F.HP_INJECT_LCRC = false ∧ (∀ r ∈ (s.port p).reads, r.tag ≠
    c.tag) ∧ portReady s (fnPort8 s f) = true) ∧
    (∃ (p : Fin 8) (r : OutRead) (s : State), (s.port p).reads = [r] ∧ s.bit (.HP_INJECT p) F.HP_INJECT_TIMEOUT = true) ∧
    (∃ (p : Fin 8) (r : OutRead) (s : State), (s.port p).reads = [r] ∧ s.bit (.HP_INJECT p) F.HP_INJECT_TIMEOUT = false ∧ r.at_ +
    5000000 ≤ s.mtime) ∧
    (∃ (p : Fin 8) (r : OutRead) (s : State), (s.port p).reads = [r] ∧ s.bit (.HP_INJECT p) F.HP_INJECT_TIMEOUT = false ∧ s.mtime <
    r.at_ + 5000000) ∧
    (∃ (p : Fin 8) (tag : Nat) (s : State), (∀ r ∈ (s.port p).reads, r.tag ≠ tag)) :=
  ⟨⟨3, ⟨5, .ok, true, List.replicate 64 9⟩, or3, prt (fun x => { x with reads := [or3] }), by decide +kernel⟩,
   ⟨3, ⟨5, .ep, true, List.replicate 64 9⟩, or3, prt (fun x => { x with reads := [or3] }), by decide +kernel⟩,
   ⟨3, ⟨5, .ca, true, List.replicate 64 9⟩, or3, prt (fun x => { x with reads := [or3] }), by decide +kernel⟩,
   ⟨3, ⟨5, .ur, true, List.replicate 64 9⟩, or3, prt (fun x => { x with reads := [or3] }), by decide +kernel⟩,
   ⟨3, ⟨5, .ok, false, List.replicate 32 9⟩, or3, prt (fun x => { x with reads := [or3] }), by decide +kernel⟩,
   ⟨3, ⟨6, .ok, true, List.replicate 64 9⟩, prt (fun x => { x with reads := [or3] }), by decide +kernel⟩,
   ⟨3,
    ⟨6, .ok, true, List.replicate 64 9⟩,
    prt (fun x => { x with reads := [or3], timedOut := [(6, .vf 20)] }),
    .vf 20,
    by decide +kernel⟩,
   ⟨3, ⟨6, .ok, true, List.replicate 64 9⟩, prt (fun x => { x with reads := [or3] }), by decide +kernel⟩,
   ⟨3, ⟨6, .ok, true, List.replicate 64 9⟩, prt (fun x => { x with reads := [or3] }), .vf 20, by decide +kernel⟩,
   ⟨3,
    or3,
    prt (fun x => { x with reads := [or3] }) { up3 [(.HP_INJECT 3, F.HP_INJECT_TIMEOUT, 1)] with cycle := 20 },
    by decide +kernel⟩,
   ⟨3, or3, prt (fun x => { x with reads := [or3] }) { up3 with cycle := 20 * 5000007 }, by decide +kernel⟩,
   ⟨3, or3, prt (fun x => { x with reads := [or3] }) { up3 with cycle := 20 * 5000006 }, by decide +kernel⟩,
   ⟨3, 4, prt (fun x => { x with reads := [or3] }), by decide +kernel⟩⟩

theorem witness_PortFunctions :
    (∃ (f : FnId) (s : State), bme s f = true) ∧
    (∃ (f : FnId) (s : State), bme s f = false) ∧
    (∃ (o : _), o ≠ 4) ∧
    (∃ (f : FnId) (s : State), fnExists s f = true ∧ (s.fn f).flr = false ∧ (∀ g, fnQueues s g ≤ 16 ∧ fnHand s g < 64)) ∧
    (∃ (f : FnId) (s : State), fnExists s f = true ∧ (s.fn f).flr = false ∧ (∀ g, fnQueues s g ≤ 16 ∧ fnHand s g < 64)) ∧
    (∃ (f : FnId) (s : State), (fnExists s f = false ∨ (s.fn f).flr = true)) ∧
    (∃ (p : Fin 8) (s : State), vfEnable s p = true) ∧
    (∃ (p : Fin 8) (s : State), vfEnable s p = false) ∧
    (∃ (f : FnId) (s : State), inD3 s f = false) ∧
    (∃ (f : FnId) (s : State), inD3 s f = true) ∧
    (∃ (f : FnId) (s : State), inD3 s f = false) :=
  ⟨⟨.pf 3, vfs3, by decide +kernel⟩,
   ⟨.pf 3, up3, by decide +kernel⟩,
   ⟨8, by decide +kernel⟩,
   ⟨.vf 20, pt vfs3 [(.QP_STATE 20 1, F.QP_STATE_STATE, 1), (.QP_SQ_BASE 20 1, ⟨63, 0⟩, 64), (.QP_STATE (FnId.key (.pf 3)) 0,
   F.QP_STATE_STATE, 1)], by decide +kernel, by decide +kernel, fn_bounds _ (by decide +kernel)⟩,
   ⟨.pf 3, pt vfs3 [(.QP_STATE 20 1, F.QP_STATE_STATE, 1), (.QP_SQ_BASE 20 1, ⟨63, 0⟩, 64), (.QP_STATE (FnId.key (.pf 3)) 0,
   F.QP_STATE_STATE, 1)], by decide +kernel, by decide +kernel, fn_bounds _ (by decide +kernel)⟩,
   ⟨.vf 30, vfs3, by decide +kernel⟩,
   ⟨3, vfs3, by decide +kernel⟩,
   ⟨3, up3, by decide +kernel⟩,
   ⟨.vf 20, vfs3, by decide +kernel⟩,
   ⟨.vf 20, cf (.vf 20) [(0x44, 3)] vfs3, by decide +kernel⟩,
   ⟨.pf 3, vfs3, by decide +kernel⟩⟩

theorem witness_PortWindows :
    (∃ (who : Agent) (p : Fin 8) (v : Word) (s : State), s.isHouse who = true ∧ F.HP_WIN_COMMIT_GO.get v = 1 ∧
    F.HP_WIN_COMMIT_WIN_REFUSED.get v = 0 ∧ winsOk s p (shadowWins s p) = true) ∧
    (∃ (who : Agent) (p : Fin 8) (v : Word) (s : State), s.isHouse who = true ∧ F.HP_WIN_COMMIT_GO.get v = 1 ∧
    F.HP_WIN_COMMIT_WIN_REFUSED.get v = 0 ∧ winsOk s p (shadowWins s p) = false) ∧
    (∃ (who : Agent) (v : Word) (s : State), s.isHouse who = true ∧ F.HP_WIN_COMMIT_WIN_REFUSED.get v = 1 ∧ F.HP_WIN_COMMIT_GO.get v =
    1) ∧
    (∃ (who : Agent) (v : Word) (s : State), s.isHouse who = true ∧ F.HP_WIN_COMMIT_GO.get v = 0) ∧
    (∃ (who : Agent) (s : State), s.isHouse who = false) ∧
    (∃ (p : Fin 8) (s : State) (u : State), s.bit (.HP_WIN_COMMIT p) F.HP_WIN_COMMIT_WIN_PEND = true ∧ (s.port p).winPend = (List.range
    16).flatMap (fun w => (winRegs p w).map (fun e => u.rd e.1))) ∧
    (∃ (p : Fin 8) (s : State), s.bit (.HP_WIN_COMMIT p) F.HP_WIN_COMMIT_WIN_PEND = false) :=
  ⟨⟨.core 0, 3, 1, pt up3 [(.HP_WIN_APT 3 2, ⟨63, 0⟩, 0x100000), (.HP_WIN_SIZE 3 2, ⟨63, 0⟩, 0x200000), (.HP_WIN_TARGET 3 2, ⟨63, 0⟩,
   0x40000000), (.HP_WIN_ATTR 3 2, F.HP_WIN_ATTR_VALID, 1)], by decide +kernel⟩,
   ⟨.core 0, 3, 1, pt up3 [(.HP_WIN_APT 3 2, ⟨63, 0⟩, 0x100000), (.HP_WIN_SIZE 3 2, ⟨63, 0⟩, 0x200000), (.HP_WIN_TARGET 3 2, ⟨63, 0⟩,
   0x40300000), (.HP_WIN_ATTR 3 2, F.HP_WIN_ATTR_VALID, 1)], by decide +kernel⟩,
   ⟨.core 0, F.HP_WIN_COMMIT_WIN_REFUSED.put 1 1, pt up3 [(.HP_WIN_COMMIT 3, F.HP_WIN_COMMIT_WIN_REFUSED, 1)], by decide +kernel⟩,
   ⟨.core 0, F.HP_WIN_COMMIT_WIN_REFUSED.put 0 1, pt up3 [(.HP_WIN_COMMIT 3, F.HP_WIN_COMMIT_WIN_REFUSED, 1)], by decide +kernel⟩,
   ⟨.core 24, W.base, by decide +kernel⟩,
   ⟨3,
    prt (fun x => { x with winPend := (List.range 16).flatMap (fun w => (winRegs 3 w).map (fun e => (pt base [(.HP_WIN_APT 3 2, ⟨63, 0⟩, 0x100000)]).rd e.1)) }) (pt up3 [(.HP_WIN_COMMIT 3, F.HP_WIN_COMMIT_WIN_PEND, 1)]),
    pt base [(.HP_WIN_APT 3 2, ⟨63, 0⟩, 0x100000)],
    by decide +kernel⟩,
   ⟨3, W.base, by decide +kernel⟩⟩

namespace Sys2Proof.W
/-- The bytes of a slip. -/
def slip (op : Nat) (tag : Nat := 7) (host pkg len arg epoch : Nat := 0) : LineData :=
  BitVec.ofNat 512 (op + tag * 2 ^ 16 + host * 2 ^ 64 + pkg * 2 ^ 128 + len * 2 ^ 192 + arg * 2 ^ 224 + epoch * 2 ^ 256)
/-- Queues of the PF of port 3 and of VF 9, which acts for the ledger hand 2: depth 8, compact mode or extended, its buckets full. -/
def qs (f : FnId) (g : Queue → Queue := id) (l : List (Reg × Fld × Nat) := []) (mode : Nat := 0) : State :=
  let s := { up3 with folio := { up3.folio with
      map := { up3.folio.map with windows := [⟨0, 0x40000000, 0x400000, 1, 0, []⟩, ⟨0, 0x50000000, 0x400000, 4, 1, []⟩, ⟨0, 0x60000000, 0x400000, 4, 3, []⟩] }
      vfs := [⟨0, 9, 3, 4, 8, 2, 1, []⟩, ⟨8, 20, 3, 2, 8, 1, 0, []⟩]
      queues := [⟨0, false, 0xFFFF, 3, mode, 3, 1, 100, 1, 100000, []⟩, ⟨0, false, 9, 3, mode, 3, 1, 100, 1, 100000, []⟩] } }
  let s := setCfg (s.setFn f { s.fn f with slipLv := 10 ^ 12, byteLv := 10 ^ 15 }) f 4 4
  let s := pt s [(.QP_STATE f.key 3, F.QP_STATE_STATE, 1), (.QP_CTL f.key 3, F.QP_CTL_ENABLE, 1),
    (.MC_CFG 0, F.MC_CFG_ENABLE, 1), (.MC_CFG 0, F.MC_CFG_RANKS, 2), (.MC_DIMM 0 0, F.MC_DIMM_WIDTH, 1)]
  pt (s.setQueue f 3 (g Queue.init)) l
/-- A slip fetched. -/
def fetched (f : FnId) (b : LineData) : State := qs f (fun x => { x with fetched := [b] }) [(.CSQ_SS_BUF 3, F.CSQ_SS_BUF_VALID, 1)]
/-- A slip in progress. -/
def running (op : Nat) (len : Nat := 0) : Slip := ⟨0, slip op 7 0 0 len, false, 0, [], [], [], 0, [], 1⟩
end Sys2Proof.W

theorem witness_SlipRefusal :
    (∃ (f : FnId) (q : Fin 16) (b : LineData) (s : State) (e : _) (n : _), e ∈ [(0, Instr.nop f q), (1, Instr.copyIn f q), (2,
    Instr.copyOut f q), (3, Instr.post f q), (4, Instr.fenceSlip f q), (5, Instr.abort f q), (6, Instr.readLog f q), (7, Instr.setState
    f q), (8, Instr.queryBound f q)] ∧ qState s f q = 1 ∧ (s.queue f q).fetched = [b] ∧ (State.slipOpcode b = e.1 ∨ 8 < State.slipOpcode
    b) ∧ admission ((refill s f).setQueue f q { s.queue f q with fetched := [] }) f q b = some n) ∧
    (∃ (f : FnId) (q : Fin 16) (b : LineData) (s : State) (e : _) (n : _), e ∈ [(0, Instr.nop f q), (1, Instr.copyIn f q), (2,
    Instr.copyOut f q), (3, Instr.post f q), (4, Instr.fenceSlip f q), (5, Instr.abort f q), (6, Instr.readLog f q), (7, Instr.setState
    f q), (8, Instr.queryBound f q)] ∧ qState s f q = 1 ∧ (s.queue f q).fetched = [b] ∧ (State.slipOpcode b = e.1 ∨ 8 < State.slipOpcode
    b) ∧ admission ((refill s f).setQueue f q { s.queue f q with fetched := [] }) f q b = some n) ∧
    (∃ (f : FnId) (q : Fin 16) (b : LineData) (s : State) (e : _) (n : _), e ∈ [(0, Instr.nop f q), (1, Instr.copyIn f q), (2,
    Instr.copyOut f q), (3, Instr.post f q), (4, Instr.fenceSlip f q), (5, Instr.abort f q), (6, Instr.readLog f q), (7, Instr.setState
    f q), (8, Instr.queryBound f q)] ∧ qState s f q = 1 ∧ (s.queue f q).fetched = [b] ∧ (State.slipOpcode b = e.1 ∨ 8 < State.slipOpcode
    b) ∧ admission ((refill s f).setQueue f q { s.queue f q with fetched := [] }) f q b = some n) ∧
    (∃ (f : FnId) (q : Fin 16) (b : LineData) (s : State) (e : _) (n : _), e ∈ [(0, Instr.nop f q), (1, Instr.copyIn f q), (2,
    Instr.copyOut f q), (3, Instr.post f q), (4, Instr.fenceSlip f q), (5, Instr.abort f q), (6, Instr.readLog f q), (7, Instr.setState
    f q), (8, Instr.queryBound f q)] ∧ qState s f q = 1 ∧ (s.queue f q).fetched = [b] ∧ (State.slipOpcode b = e.1 ∨ 8 < State.slipOpcode
    b) ∧ admission ((refill s f).setQueue f q { s.queue f q with fetched := [] }) f q b = some n) ∧
    (∃ (f : FnId) (q : Fin 16) (b : LineData) (s : State) (e : _) (n : _), e ∈ [(0, Instr.nop f q), (1, Instr.copyIn f q), (2,
    Instr.copyOut f q), (3, Instr.post f q), (4, Instr.fenceSlip f q), (5, Instr.abort f q), (6, Instr.readLog f q), (7, Instr.setState
    f q), (8, Instr.queryBound f q)] ∧ qState s f q = 1 ∧ (s.queue f q).fetched = [b] ∧ (State.slipOpcode b = e.1 ∨ 8 < State.slipOpcode
    b) ∧ admission ((refill s f).setQueue f q { s.queue f q with fetched := [] }) f q b = some n) ∧
    (∃ (f : FnId) (q : Fin 16) (b : LineData) (s : State) (e : _) (n : _), e ∈ [(0, Instr.nop f q), (1, Instr.copyIn f q), (2,
    Instr.copyOut f q), (3, Instr.post f q), (4, Instr.fenceSlip f q), (5, Instr.abort f q), (6, Instr.readLog f q), (7, Instr.setState
    f q), (8, Instr.queryBound f q)] ∧ qState s f q = 1 ∧ (s.queue f q).fetched = [b] ∧ (State.slipOpcode b = e.1 ∨ 8 < State.slipOpcode
    b) ∧ admission ((refill s f).setQueue f q { s.queue f q with fetched := [] }) f q b = some n) ∧
    (∃ (f : FnId) (q : Fin 16) (s : State) (e : _), e ∈ [(0, Instr.nop f q), (1, Instr.copyIn f q), (2, Instr.copyOut f q), (3,
    Instr.post f q), (4, Instr.fenceSlip f q), (5, Instr.abort f q), (6, Instr.readLog f q), (7, Instr.setState f q), (8,
    Instr.queryBound f q)] ∧ ((s.queue f q).fetched = [] ∨ qState s f q ≠ 1)) ∧
    (∃ (f : FnId) (q : Fin 16) (s : State) (e : _), e ∈ [(0, Instr.nop f q), (1, Instr.copyIn f q), (2, Instr.copyOut f q), (3,
    Instr.post f q), (4, Instr.fenceSlip f q), (5, Instr.abort f q), (6, Instr.readLog f q), (7, Instr.setState f q), (8,
    Instr.queryBound f q)] ∧ ((s.queue f q).fetched = [] ∨ qState s f q ≠ 1)) :=
  ⟨⟨.pf 3, 3, slip 0 7 1, fetched (.pf 3) (slip 0 7 1), (0, Instr.nop (.pf 3 : FnId) 3), 3, by decide +kernel⟩,
   ⟨.pf 3, 3, slip 1 7 0x1000 0x80000000 256, fetched (.pf 3) (slip 1 7 0x1000 0x80000000 256), (1, Instr.copyIn (.pf 3 : FnId) 3), 3,
   by decide +kernel⟩,
   ⟨.vf 9, 3, slip 7, fetched (.vf 9) (slip 7), (7, Instr.setState (.vf 9 : FnId) 3), 2, by decide +kernel⟩,
   ⟨.pf 3, 3, slip 9, fetched (.pf 3) (slip 9), (3, Instr.post (.pf 3 : FnId) 3), 2, by decide +kernel⟩,
   ⟨.pf 3, 3, slip 3 7 0 0 64, fetched (.pf 3) (slip 3 7 0 0 64), (3, Instr.post (.pf 3 : FnId) 3), 5, by decide +kernel⟩,
   ⟨.pf 3,
    3,
    slip 2 7 0x1000 0x40000000 256,
    let s := fetched (.pf 3 : FnId) (slip 2 7 0x1000 0x40000000 256); s.setFn (.pf 3 : FnId) { s.fn (.pf 3 : FnId) with slipLv := 0, byteLv := 0, lastAt := 40000 },
    (2, Instr.copyOut (.pf 3 : FnId) 3),
    1,
    by decide +kernel⟩,
   ⟨.pf 3, 3, qs (.pf 3 : FnId), (0, Instr.nop (.pf 3 : FnId) 3), by decide +kernel⟩,
   ⟨.pf 3, 3, pt (fetched (.pf 3 : FnId) (slip 8)) [(.QP_STATE (.pf 3 : FnId).key 3, F.QP_STATE_STATE, 2)], (8, Instr.queryBound (.pf 3
   : FnId) 3), by decide +kernel⟩⟩

theorem witness_SlipAccepted :
    (∃ (f : FnId) (q : Fin 16) (b : LineData) (s : State) (e : _), e ∈ [(1, Instr.copyIn f q), (2, Instr.copyOut f q), (3, Instr.post f
    q), (7, Instr.setState f q)] ∧ admits s f q e.1 b) ∧
    (∃ (f : FnId) (q : Fin 16) (b : LineData) (s : State) (e : _), e ∈ [(1, Instr.copyIn f q), (2, Instr.copyOut f q), (3, Instr.post f
    q), (7, Instr.setState f q)] ∧ admits s f q e.1 b) ∧
    (∃ (f : FnId) (q : Fin 16) (b : LineData) (s : State) (e : _), e ∈ [(1, Instr.copyIn f q), (2, Instr.copyOut f q), (3, Instr.post f
    q), (7, Instr.setState f q)] ∧ admits s f q e.1 b) ∧
    (∃ (f : FnId) (q : Fin 16) (b : LineData) (s : State) (e : _), e ∈ [(1, Instr.copyIn f q), (2, Instr.copyOut f q), (3, Instr.post f
    q), (7, Instr.setState f q)] ∧ admits s f q e.1 b) ∧
    (∃ (f : FnId) (q : Fin 16) (b : LineData) (s : State) (e : _), e ∈ [(0, 0, 0, Instr.nop f q), (4, 0, 0, Instr.fenceSlip f q), (5,
    0x12, 0, Instr.abort f q), (6, 0, ((List.range 16).filter (fun k => (slipArg b).testBit k)).length, Instr.readLog f q)] ∧ admits s f
    q e.1 b ∧ (e.1 = 6 → portReady s (fnPort s f) = true)) ∧
    (∃ (f : FnId) (q : Fin 16) (b : LineData) (s : State) (e : _), e ∈ [(0, 0, 0, Instr.nop f q), (4, 0, 0, Instr.fenceSlip f q), (5,
    0x12, 0, Instr.abort f q), (6, 0, ((List.range 16).filter (fun k => (slipArg b).testBit k)).length, Instr.readLog f q)] ∧ admits s f
    q e.1 b ∧ (e.1 = 6 → portReady s (fnPort s f) = true)) ∧
    (∃ (f : FnId) (q : Fin 16) (b : LineData) (s : State) (e : _), e ∈ [(0, 0, 0, Instr.nop f q), (4, 0, 0, Instr.fenceSlip f q), (5,
    0x12, 0, Instr.abort f q), (6, 0, ((List.range 16).filter (fun k => (slipArg b).testBit k)).length, Instr.readLog f q)] ∧ admits s f
    q e.1 b ∧ (e.1 = 6 → portReady s (fnPort s f) = true)) ∧
    (∃ (f : FnId) (q : Fin 16) (b : LineData) (s : State) (e : _), e ∈ [(0, 0, 0, Instr.nop f q), (4, 0, 0, Instr.fenceSlip f q), (5,
    0x12, 0, Instr.abort f q), (6, 0, ((List.range 16).filter (fun k => (slipArg b).testBit k)).length, Instr.readLog f q)] ∧ admits s f
    q e.1 b ∧ (e.1 = 6 → portReady s (fnPort s f) = true)) ∧
    (∃ (f : FnId) (q : Fin 16) (b : LineData) (s : State), admits s f q 8 b) ∧
    (∃ (f : FnId) (q : Fin 16) (b : LineData) (s : State), admits s f q 8 b) :=
  ⟨⟨.pf 3, 3, slip 1 7 0x1000 0x40000000 256, fetched (.pf 3) (slip 1 7 0x1000 0x40000000 256), (1, Instr.copyIn (.pf 3 : FnId) 3),
   by unfold admits; decide +kernel⟩,
   ⟨.pf 3, 3, slip 2 7 0x1000 0x40000000 256, fetched (.pf 3) (slip 2 7 0x1000 0x40000000 256), (2, Instr.copyOut (.pf 3 : FnId) 3),
   by unfold admits; decide +kernel⟩,
   ⟨.vf 9, 3, slip 3 7 0 64 64 0 5, fetched (.vf 9) (slip 3 7 0 64 64 0 5), (3, Instr.post (.vf 9 : FnId) 3),
   by unfold admits; decide +kernel⟩,
   ⟨.pf 3, 3, slip 7 7 0x1000 0 100 5, fetched (.pf 3) (slip 7 7 0x1000 0 100 5), (7, Instr.setState (.pf 3 : FnId) 3),
   by unfold admits; decide +kernel⟩,
   ⟨.pf 3, 3, slip 0, fetched (.pf 3) (slip 0), (0, 0, 0, Instr.nop (.pf 3 : FnId) 3), by unfold admits; decide +kernel⟩,
   ⟨.pf 3, 3, slip 4 7 0 0 0 0xFFFF, fetched (.pf 3) (slip 4 7 0 0 0 0xFFFF), (4, 0, 0, Instr.fenceSlip (.pf 3 : FnId) 3),
   by unfold admits; decide +kernel⟩,
   ⟨.pf 3, 3, slip 5 7 0 0 0 9, fetched (.pf 3) (slip 5 7 0 0 0 9), (5, 0x12, 0, Instr.abort (.pf 3 : FnId) 3),
   by unfold admits; decide +kernel⟩,
   ⟨.pf 3, 3, slip 6 7 0x1000 0 0 0x8001, fetched (.pf 3) (slip 6 7 0x1000 0 0 0x8001), (6, 0, ((List.range 16).filter (fun k =>
   (slipArg (slip 6 7 0x1000 0 0 0x8001)).testBit k)).length, Instr.readLog (.pf 3 : FnId) 3), by unfold admits; decide +kernel⟩,
   ⟨.pf 3, 3, slip 8 7 0 0 0 2, fetched (.pf 3 : FnId) (slip 8 7 0 0 0 2), by unfold admits; decide +kernel⟩,
   ⟨.vf 9, 3, slip 8 7 0 0 0 1, fetched (.vf 9 : FnId) (slip 8 7 0 0 0 1), by unfold admits; decide +kernel⟩⟩

theorem witness_SlipReturns :
    (∃ (f : FnId) (q : Fin 16) (r : RetSlip) (l : List RetSlip) (s : State), (s.queue f q).ended = r :: l ∧ fnMayIssue s f = true ∧ (∀ w
    ∈ r.after, ∀ x ∈ (s.queue f w.1).ended, x.seq ≠ some w.2) ∧ linkIsUp s (fnPort s f) = true ∧ (s.port (fnPort s f)).l1 = false ∧
    fnPort s f < 8 ∧ fnQueues s f ≤ 16 ∧ (∀ k, k < 16 → (s.queue f k).running = []) ∧ s.bit (.QP_CTL f.key q) F.QP_CTL_INT_OFF = true ∧
    s.rd .CSQ_INJECT = 0 ∧ (s.queue f q).deferred = [] ∧ (s.queue f q).defLost = false ∧ qState s f q = 2) ∧
    (∃ (f : FnId) (q : Fin 16) (s : State), (s.queue f q).ended = [] ∧ (s.queue f q).running = [] ∧ fnQueues s f ≤ 16 ∧ (∀ k, k < 16 →
    (s.queue f k).running = [])) ∧
    (∃ (f : FnId) (q : Fin 16) (r : RetSlip) (x : RetSlip) (l : List RetSlip) (w : Nat × Nat) (s : State), (s.queue f q).ended = r :: l
    ∧ w ∈ r.after ∧ x ∈ (s.queue f w.1).ended ∧ x.seq = some w.2 ∧ fnQueues s f ≤ 16 ∧ (∀ k, k < 16 → (s.queue f k).running = [])) ∧
    (∃ (f : FnId) (q : Fin 16) (tag : BitVec 16) (e : LineData × Nat) (s : State), (s.queue f q).past.get? tag.toNat = some e ∧ qState s
    f q = 1 ∧ extended s f = false) ∧
    (∃ (f : FnId) (q : Fin 16) (tag : BitVec 16) (e : LineData × Nat) (s : State), (s.queue f q).past.get? tag.toNat = some e ∧ qState s
    f q = 1 ∧ extended s f = true ∧ (s.queue f q).deferred.length < 8) ∧
    (∃ (f : FnId) (q : Fin 16) (tag : BitVec 16) (s : State), (s.queue f q).past.get? tag.toNat = none) ∧
    (∃ (f : FnId) (q : Fin 16) (l : List LineData) (s : State), (s.queue f q).fetching = l.length ∧ l ≠ [] ∧ qState s f q = 1 ∧ (s.queue
    f q).fetched = [] ∧ (s.port (fnPort s f)).reads = []) :=
  ⟨⟨.pf 3,
    3,
    ⟨slip 1, 2, 0, 5, 0, some 4, []⟩,
    [⟨slip 2, 3, 0, 5, 0, some 4, []⟩],
    qs (.pf 3 : FnId) (fun x => { x with ended := [⟨slip 1, 2, 0, 5, 0, some 4, []⟩, ⟨slip 2, 3, 0, 5, 0, some 4, []⟩] }) [(.QP_STATE (.pf 3 : FnId).key 3, F.QP_STATE_STATE, 2), (.QP_CTL (.pf 3 : FnId).key 3, F.QP_CTL_INT_OFF, 1), (.QP_STATE (.pf 3 : FnId).key 3, F.QP_STATE_CQ_TAIL, 7)],
    by decide +kernel⟩,
   ⟨.pf 3, 3, qs (.pf 3 : FnId), by decide +kernel⟩,
   ⟨.pf 3,
    3,
    ⟨slip 4, 2, 0, 0, 0, some 3, [(3, 4), (1, 6)]⟩,
    ⟨slip 0, 2, 0, 0, 0, some 6, []⟩,
    [],
    (1, 6),
    (qs (.pf 3 : FnId) (fun y => { y with ended := [⟨slip 4, 2, 0, 0, 0, some 3, [(3, 4), (1, 6)]⟩] })).setQueue (.pf 3 : FnId) 1 { Queue.init with ended := [⟨slip 0, 2, 0, 0, 0, some 6, []⟩] },
    by decide +kernel⟩,
   ⟨.pf 3, 3, 7, (slip 1, 2), qs (.pf 3 : FnId) (fun x => { x with past := [(7, slip 1, 2)] }), by decide +kernel⟩,
   ⟨.pf 3, 3, 7, (slip 1, 2), qs (.pf 3 : FnId) (fun x => { x with past := [(7, slip 1, 2)] }) [] 1, by decide +kernel⟩,
   ⟨.pf 3, 3, 7, qs (.pf 3 : FnId), by decide +kernel⟩,
   ⟨.pf 3,
    3,
    [slip 0 1, slip 0 2],
    qs (.pf 3 : FnId) (fun x => { x with fetching := 2 }) [(.QP_STATE (.pf 3 : FnId).key 3, F.QP_STATE_SQ_HEAD, 7)],
    by decide +kernel⟩⟩

theorem witness_QueueControl :
    (∃ (f : FnId) (q : Fin 16) (v : BitVec 32) (s : State), hasQueue s f q = true ∧ v.getLsbD 0 = true ∧ qState s f q = 0) ∧
    (∃ (f : FnId) (q : Fin 16) (v : BitVec 32) (s : State), hasQueue s f q = true ∧ v.getLsbD 0 = false ∧ s.bit (.QP_CTL f.key q)
    F.QP_CTL_ENABLE = true ∧ qState s f q = 1 ∧ (s.queue f q).ended = []) ∧
    (∃ (f : FnId) (q : Fin 16) (v : BitVec 32) (s : State), hasQueue s f q = true ∧ v.getLsbD 0 = false ∧ s.bit (.QP_CTL f.key q)
    F.QP_CTL_ENABLE = true ∧ qState s f q = 1 ∧ (s.queue f q).ended = []) ∧
    (∃ (f : FnId) (q : Fin 16) (v : BitVec 32) (s : State), hasQueue s f q = true ∧ v.getLsbD 0 = false ∧ s.bit (.QP_CTL f.key q)
    F.QP_CTL_ENABLE = true ∧ qState s f q = 2) ∧
    (∃ (f : FnId) (q : Fin 16) (v : BitVec 32) (s : State), hasQueue s f q = true ∧ v.getLsbD 0 = false ∧ s.bit (.QP_CTL f.key q)
    F.QP_CTL_ENABLE = true ∧ qState s f q = 2) ∧
    (∃ (f : FnId) (q : Fin 16) (v : BitVec 32) (s : State), hasQueue s f q = true ∧ v.getLsbD 1 = true ∧ v.getLsbD 0 = true ∧ s.bit
    (.QP_CTL f.key q) F.QP_CTL_ENABLE = true ∧ qState s f q = 2 ∧ (s.queue f q).running = []) ∧
    (∃ (f : FnId) (q : Fin 16) (s : State), hasQueue s f q = false) ∧
    (∃ (f : FnId) (q : Fin 16) (v : BitVec 32) (s : State), hasQueue s f q = true ∧ qState s f q = 1 ∧ depthOf s f ≤ 2 ^ 12 ∧ v.toNat <
    depthOf s f ∧ (sqTail s f q + depthOf s f - sqHead s f q) % depthOf s f + (v.toNat + depthOf s f - sqTail s f q) % depthOf s f ≤
    depthOf s f - 1) ∧
    (∃ (f : FnId) (q : Fin 16) (v : BitVec 32) (s : State), hasQueue s f q = true ∧ qState s f q = 1 ∧ depthOf s f ≤ 2 ^ 12 ∧ v.toNat <
    depthOf s f ∧ (v.toNat + depthOf s f - cqHead s f q) % depthOf s f ≤ (cqTail s f q + depthOf s f - cqHead s f q) % depthOf s f ∧
    v.toNat ≠ cqTail s f q) ∧
    (∃ (f : FnId) (q : Fin 16) (v : BitVec 32) (s : State) (i : _), hasQueue s f q = true ∧ qState s f q = 1 ∧ depthOf s f ≤ 2 ^ 12 ∧
    depthOf s f ≤ v.toNat ∧ i ∈ [Instr.sqTailDoorbell f q v, Instr.cqHeadDoorbell f q v]) ∧
    (∃ (f : FnId) (q : Fin 16) (v : BitVec 32) (s : State) (i : _), hasQueue s f q = true ∧ qState s f q = 1 ∧ depthOf s f ≤ 2 ^ 12 ∧
    depthOf s f ≤ v.toNat ∧ i ∈ [Instr.sqTailDoorbell f q v, Instr.cqHeadDoorbell f q v]) ∧
    (∃ (f : FnId) (q : Fin 16) (s : State), mayIdle s f q 1 = true) ∧
    (∃ (f : FnId) (q : Fin 16) (s : State), mayIdle s f q 2 = true) ∧
    (∃ (f : FnId) (q : Fin 16) (s : State), mayIdle s f q 1 = false) ∧
    (∃ (f : FnId) (q : Fin 16) (s : State), mayIdle s f q 2 = false) ∧
    (∃ (f : FnId) (q : Fin 16) (s : State), (s.queue f q).running ≠ []) ∧
    (∃ (f : FnId) (q : Fin 16) (s : State), (s.queue f q).running = []) :=
  ⟨⟨.pf 3,
    3,
    1,
    pt (qs (.pf 3 : FnId) (fun x => { x with seq := 3, past := [(7, slip 1, 2)] })) [(.QP_STATE (.pf 3 : FnId).key 3, ⟨63, 0⟩, 0), (.QP_LOG (.pf 3 : FnId).key 3 5, ⟨63, 0⟩, 3)],
    by decide +kernel⟩,
   ⟨.pf 3, 3, 0, qs (.pf 3 : FnId) (fun x => { x with fetched := [slip 0] }), by decide +kernel⟩,
   ⟨.pf 3, 3, 0, qs (.pf 3 : FnId) (fun x => { x with running := [running 7 3] }), by decide +kernel⟩,
   ⟨.pf 3,
    3,
    0,
    qs (.pf 3 : FnId) (fun x => { x with ended := [⟨slip 1, 2, 0, 5, 0, some 4, []⟩] }) [(.QP_STATE (.pf 3 : FnId).key 3, F.QP_STATE_STATE, 2)],
    by decide +kernel⟩,
   ⟨.pf 3,
    3,
    0,
    qs (.pf 3 : FnId) (fun x => { x with running := [running 7 3] }) [(.QP_STATE (.pf 3 : FnId).key 3, F.QP_STATE_STATE, 2)],
    by decide +kernel⟩,
   ⟨.pf 3, 3, 7, qs (.pf 3 : FnId) id [(.QP_STATE (.pf 3 : FnId).key 3, F.QP_STATE_STATE, 2), (.QP_STATE (.pf 3 : FnId).key 3,
   F.QP_STATE_SQ_HEAD, 5)], by decide +kernel⟩,
   ⟨.vf 30, 3, qs (.pf 3), by decide +kernel⟩,
   ⟨.pf 3, 3, 7, qs (.pf 3 : FnId), by decide +kernel⟩,
   ⟨.pf 3, 3, 2, qs (.pf 3 : FnId) id [(.QP_STATE (.pf 3 : FnId).key 3, F.QP_STATE_CQ_TAIL, 5)], by decide +kernel⟩,
   ⟨.pf 3, 3, 8, qs (.pf 3 : FnId), Instr.sqTailDoorbell (.pf 3 : FnId) 3 8, by decide +kernel⟩,
   ⟨.pf 3, 3, 0xFFFFFFFF, qs (.pf 3 : FnId), Instr.cqHeadDoorbell (.pf 3 : FnId) 3 0xFFFFFFFF, by decide +kernel⟩,
   ⟨.pf 3, 3, qs (.pf 3 : FnId) id [(.QP_CTL (.pf 3 : FnId).key 3, F.QP_CTL_IDLE_MAX, 2)], by decide +kernel⟩,
   ⟨.pf 3, 3, qs (.pf 3 : FnId) id [(.QP_CTL (.pf 3 : FnId).key 3, F.QP_CTL_IDLE_MAX, 2), (.QP_STATE (.pf 3 : FnId).key 3,
   F.QP_STATE_IDLE, 1)], by decide +kernel⟩,
   ⟨.pf 3, 3, qs (.pf 3 : FnId) id [(.QP_CTL (.pf 3 : FnId).key 3, F.QP_CTL_IDLE_MAX, 0)], by decide +kernel⟩,
   ⟨.pf 3, 3, qs (.pf 3 : FnId), by decide +kernel⟩,
   ⟨.pf 3,
    3,
    qs (.pf 3 : FnId) (fun x => { x with running := [running 7 3] }) [(.QP_STATE (.pf 3 : FnId).key 3, F.QP_STATE_IDLE, 1)],
    by decide +kernel⟩,
   ⟨.pf 3, 3, qs (.pf 3 : FnId), by decide +kernel⟩⟩

theorem witness_SetStateMailbox :
    (∃ (p : Fin 8) (bs : List Byte) (x : Slip) (s : State), bs ≠ [] ∧ (s.queue (.pf p) 0).running = [x] ∧ (∀ k, 1 ≤ k → k < 16 →
    (s.queue (.pf p) k).running = []) ∧ State.slipOpcode x.bits = 7 ∧ x.started = false ∧ mayStart s (.pf p) 0 x = true ∧ slipLen x.bits
    = bs.length ∧ s.bit (.CSQ_SS_STATE p) F.CSQ_SS_STATE_BUSY = false ∧ (s.port p).mailbox = none) ∧
    (∃ (p : Fin 8) (bs : List Byte) (x : Slip) (s : State), bs = [] ∧ (s.queue (.pf p) 0).running = [x] ∧ (∀ k, 1 ≤ k → k < 16 →
    (s.queue (.pf p) k).running = []) ∧ State.slipOpcode x.bits = 7 ∧ x.started = false ∧ mayStart s (.pf p) 0 x = true ∧ slipLen x.bits
    = bs.length ∧ s.bit (.CSQ_SS_STATE p) F.CSQ_SS_STATE_BUSY = false ∧ (s.port p).mailbox = none) ∧
    (∃ (p : Fin 8) (q : Nat) (x : Slip) (s : State), q < 16 ∧ (s.port p).mailbox = some (.pf p, q, x.seq) ∧ s.bit (.CSQ_SS_STATE p)
    F.CSQ_SS_STATE_BUSY = false ∧ outMsgs s 24 (fun m => m.txn == txnOf 4 p) = [] ∧ findSlip s (.pf p) q x.seq = some x) ∧
    (∃ (p : Fin 8) (q : Nat) (x : Slip) (s : State), q < 16 ∧ (s.port p).mailbox = some (.pf p, q, x.seq) ∧ s.bit (.CSQ_SS_STATE p)
    F.CSQ_SS_STATE_BUSY = false ∧ outMsgs s 24 (fun m => m.txn == txnOf 4 p) = [] ∧ findSlip s (.pf p) q x.seq = some x ∧ s.tally (32 +
    p.val) < 255) ∧
    (∃ (p : Fin 8) (s : State), s.bit (.CSQ_SS_STATE p) F.CSQ_SS_STATE_BUSY = true) ∧
    (∃ (who : Agent) (p : Fin 8) (s : State), s.isHouse who = true ∧ s.bit (.CSQ_SS_STATE p) F.CSQ_SS_STATE_BUSY = true ∧ (s.port
    p).mailbox = none) ∧
    (∃ (who : Agent) (p : Fin 8) (v : Word) (x : Slip) (s : State), s.isHouse who = true ∧ s.bit (.CSQ_SS_STATE p) F.CSQ_SS_STATE_BUSY =
    true ∧ (s.port p).mailbox = some (.pf p, 0, x.seq) ∧ (s.queue (.pf p) 0).running = [x] ∧ (∀ k, 1 ≤ k → k < 16 → (s.queue (.pf p)
    k).running = []) ∧ F.CSQ_SS_DONE_STATUS.get v = 0) ∧
    (∃ (who : Agent) (s : State), s.isHouse who = true) ∧
    (∃ (who : Agent) (s : State), s.isHouse who = false) ∧
    (∃ (who : Agent) (s : State), s.isHouse who = true) :=
  ⟨⟨3,
    [1, 2, 3],
    running 7 3,
    (fun s => s.setQueue (.pf 3) 0 { Queue.init with running := [running 7 3] }) (qs (.pf 3)),
    by decide +kernel⟩,
   ⟨3,
    [],
    running 7 0,
    (fun s => s.setQueue (.pf 3) 0 { Queue.init with running := [running 7 0] }) (qs (.pf 3)),
    by decide +kernel⟩,
   ⟨3,
    0,
    running 7 3,
    prt (fun y => { y with mailbox := some (.pf 3, 0, 0) }) ((fun s => s.setQueue (.pf 3) 0 { Queue.init with running := [running 7 3] }) (qs (.pf 3))),
    by decide +kernel⟩,
   ⟨3,
    0,
    running 7 3,
    prt (fun y => { y with mailbox := some (.pf 3, 0, 0) }) ((fun s => s.setQueue (.pf 3) 0 { Queue.init with running := [running 7 3] }) (qs (.pf 3))),
    by decide +kernel⟩,
   ⟨3, pt up3 [(.CSQ_SS_STATE 3, F.CSQ_SS_STATE_BUSY, 1)], by decide +kernel⟩,
   ⟨.core 0, 3, pt up3 [(.CSQ_SS_STATE 3, F.CSQ_SS_STATE_BUSY, 1)], by decide +kernel⟩,
   ⟨.core 0,
    3,
    0x500000000,
    running 7 3,
    prt (fun y => { y with mailbox := some (.pf 3, 0, 0) }) ((fun s => s.setQueue (.pf 3) 0 { Queue.init with running := [running 7 3] }) (qs (.pf 3) id [(.CSQ_SS_STATE 3, F.CSQ_SS_STATE_BUSY, 1)])),
    by decide +kernel⟩,
   ⟨.core 0, qs (.pf 3), by decide +kernel⟩,
   ⟨.core 24, W.base, by decide +kernel⟩,
   ⟨.core 0, W.base, by decide +kernel⟩⟩

namespace Sys2Proof.W
/-- Source 1030 is routed to core 24 with priority 9 and enabled, core 24 runs at 4 with 3 claims; source 1031 likewise with 4. -/
def tic (l : List (Reg × Fld × Nat) := []) (s : State := base) : State :=
  pt (((s.arrive 1030).arrive 1031).arrive 1030) ([(.TIC_ROUTE_ACT 1030, F.TIC_ROUTE_PRIORITY, 9), (.TIC_ROUTE_ACT 1030, F.TIC_ROUTE_TARGET, 24),
    (.TIC_ROUTE_ACT 1031, F.TIC_ROUTE_PRIORITY, 4), (.TIC_ROUTE_ACT 1031, F.TIC_ROUTE_TARGET, 24), (.TIC_EN_SET 16, ⟨63, 0⟩, 0xC0),
    (.TIC_CORE_STATE 24, F.TIC_CORE_STATE_DEPTH, 3), (.TIC_CORE_STATE 24, F.TIC_CORE_STATE_RUNNING, 4), (.TIC_STACK 24 1, F.TIC_STACK_SOURCE 0, 1031),
    (.TIC_STACK 24 1, F.TIC_STACK_SAVED 0, 2), (.TIC_STACK 24 1, F.TIC_STACK_VALID 0, 1)] ++ l)
end Sys2Proof.W

theorem witness_TallyRegisters :
    (∃ (who : Agent) (s : State), notLedger s who) ∧
    (∃ (who : Agent) (s : State), notLedger s who) ∧
    (∃ (who : Agent) (s : State), notLedger s who) ∧
    (∃ (c : Fin 384) (s : State), s.ledgerCore c = true) ∧
    (∃ (s : State) (c : Fin 384), s.isHouse (.core c) = true) ∧
    (∃ (who : Agent), who = .archivist) ∧
    (∃ (who : Agent) (s : State), who ≠ .archivist ∧ notLedger s who) ∧
    (∃ (who : Agent) (s : State), who ≠ .archivist ∧ notLedger s who) :=
  ⟨⟨.core 0, tic, by decide +kernel⟩,
   ⟨.archivist, base, by decide +kernel⟩,
   ⟨.core 24, base, by decide +kernel⟩,
   ⟨48, W.base, by decide +kernel⟩,
   ⟨base, 1, by decide +kernel⟩,
   ⟨.archivist, by decide +kernel⟩,
   ⟨.core 0, W.base, by decide +kernel⟩,
   ⟨.core 0,
    { pt base [(.FOL_ADD_STATE, F.FOL_ADD_STATE_STATE, 3)] with arc := { base.arc with affected := 2 ^ 32 } },
    by decide +kernel⟩⟩

theorem witness_TallyClaims :
    (∃ (n : Nat) (s : State), sourceExists n = true ∧ s.tally n < 255) ∧
    (∃ (n : Nat) (s : State), sourceExists n = true ∧ s.tally n = 255) ∧
    (∃ (n : Nat) (m : _), sourceExists n = true ∧ m < 8192 ∧ m ≠ n) ∧
    (∃ (c : Fin 384) (s : State) (n : Nat), s.runs c = true ∧ s.ledgerCore c = false ∧ s.best c = some n ∧ n < 8192 ∧ sramBits s 12
    0x2600 (n / 8) = 0 ∧ s.runningPrio c < s.srcPrio n ∧ s.get (.TIC_CORE_STATE c) F.TIC_CORE_STATE_DEPTH < 16) ∧
    (∃ (c : Fin 384) (s : State), s.runs c = true ∧ s.ledgerCore c = true) ∧
    (∃ (c : Fin 384) (s : State), s.runs c = true ∧ s.ledgerCore c = false ∧ (∀ n, s.best c = some n → sramBits s 12 0x2600 (n / 8) = 0
    ∧ s.srcPrio n ≤ s.runningPrio c)) ∧
    (∃ (c : Fin 384) (s : State), s.runs c = true ∧ s.ledgerCore c = false ∧ (∀ n, s.best c = some n → sramBits s 12 0x2600 (n / 8) = 0
    ∧ s.srcPrio n ≤ s.runningPrio c)) ∧
    (∃ (who : Fin 384) (c : Fin 384) (s : State), who ≠ c ∧ s.runs who = true ∧ s.ledgerCore who = false) ∧
    (∃ (who : Fin 384) (c : Fin 384) (s : State), who ≠ c ∧ s.runs who = true ∧ s.ledgerCore who = true) ∧
    (∃ (who : Fin 384) (c : Fin 384) (s : State), who ≠ c ∧ s.runs who = false) ∧
    (∃ (c : Fin 384) (s : State), s.ledgerCore c = false) ∧
    (∃ (c : Fin 384) (s : State), s.ledgerCore c = false) ∧
    (∃ (c : Fin 384) (s : State), s.ledgerCore c = false) ∧
    (∃ (c : Fin 384) (s : State), s.ledgerCore c = false) ∧
    (∃ (c : Fin 384) (s : State), s.ledgerCore c = false) ∧
    (∃ (c : Fin 384) (s : State), s.ledgerCore c = true) :=
  ⟨⟨1030, tic, by decide +kernel⟩,
   ⟨600, (List.range 255).foldl (fun s _ => s.arrive 600) base, by decide +kernel⟩,
   ⟨600, 1030, by decide +kernel⟩,
   ⟨24, tic, 1030, by decide +kernel⟩,
   ⟨48, W.base, by decide +kernel⟩,
   ⟨24, tic [(.TIC_CORE_STATE 24, F.TIC_CORE_STATE_RUNNING, 9)], by decide +kernel⟩,
   ⟨24, base, by decide +kernel⟩,
   ⟨25, 24, tic, by decide +kernel⟩,
   ⟨48, 24, tic, by decide +kernel⟩,
   ⟨26, 24, tic, by decide +kernel⟩,
   ⟨24, tic [(.CORE_STATE 24, F.CORE_STATE_STATE, 2)], by decide +kernel⟩,
   ⟨24, tic [(.CORE_STATE 24, F.CORE_STATE_STATE, 2), (.TIC_CORE_CFG 24, F.TIC_CORE_CFG_LEVEL, 1)], by decide +kernel⟩,
   ⟨24, tic, by decide +kernel⟩,
   ⟨24, wr tic [(.CSR 24 0x304, 0x800), (.CSR 24 0x300, 8)], by decide +kernel⟩,
   ⟨24, let u := wr tic [(.CSR 24 0x304, 0x800)]; u.setCore 24 { u.core 24 with asleep := true }, by decide +kernel⟩,
   ⟨48, tic, by decide +kernel⟩⟩

theorem witness_TallyEnd :
    (∃ (c : Fin 384) (v : Word) (s : State), 
    let d := s.get (.TIC_CORE_STATE c) F.TIC_CORE_STATE_DEPTH - 1
    s.get (.TIC_CORE_STATE c) F.TIC_CORE_STATE_DEPTH ≠ 0 ∧ d < 16 ∧ s.get (.TIC_STACK c (d / 2)) (F.TIC_STACK_SOURCE (d % 2)) =
    F.TIC_EOI_SOURCE.get v) ∧
    (∃ (c : Fin 384) (v : Word) (s : State), 
    let d := s.get (.TIC_CORE_STATE c) F.TIC_CORE_STATE_DEPTH - 1
    s.get (.TIC_CORE_STATE c) F.TIC_CORE_STATE_DEPTH ≠ 0 ∧ s.get (.TIC_STACK c (d / 2)) (F.TIC_STACK_SOURCE (d % 2)) ≠
    F.TIC_EOI_SOURCE.get v) ∧
    (∃ (c : Fin 384) (s : State), s.get (.TIC_CORE_STATE c) F.TIC_CORE_STATE_DEPTH = 0) ∧
    (∃ (who : Agent) (c : Fin 384) (s : State), who ≠ .core c ∧ notLedger s who) ∧
    (∃ (who : Agent) (c : Fin 384) (s : State), who ≠ .core c ∧ notLedger s who) ∧
    (∃ (w : Fin 384) (c : Fin 384) (s : State), bars s w (.TIC_EOI c)) :=
  ⟨⟨24, 1031, tic, by decide +kernel⟩,
   ⟨24, 1030, tic, by decide +kernel⟩,
   ⟨24, base, by decide +kernel⟩,
   ⟨.core 0, 24, tic, by decide +kernel⟩,
   ⟨.archivist, 24, tic, by decide +kernel⟩,
   ⟨48, 24, tic, by decide +kernel⟩⟩

namespace Sys2Proof.W
/-- Carrel 5 belongs to H[0] and calls service `svc`, taken with the argument words given. -/
def car (svc : Nat) (v : Serving) (a : List Nat := []) (f : Arc → Arc := id) : State :=
  let s := pt mem ([(.ARC_CTL 5, F.ARC_CTL_STATE, 2), (.ARC_CTL 5, F.ARC_CTL_SERVICE, svc), (.ARC_STATUS, F.ARC_STATUS_STAGE, 2)] ++
    a.zipIdx.map (fun e => (.ARC_DATA 5 (e.2 + 2), ⟨63, 0⟩, e.1)))
  { s with arc := f { s.arc with serving := [(5, v)] } }
/-- Nothing asked for; a line at 0x40000000 read. -/
def srv0 : Serving := ⟨[], [], false, false, none, false⟩
def srvLine : Serving := ⟨[(0x1000000, ramp, false)], [], true, false, none, false⟩
/-- Carrel 5 in a state. -/
def cst (n : Nat) (l : List (Reg × Fld × Nat) := []) : State := pt mem ([(.ARC_CTL 5, F.ARC_CTL_STATE, n), (.ARC_STATUS, F.ARC_STATUS_STAGE, 2), (.ARC_DATA 5 3, ⟨63, 0⟩, 77), (.ARC_DATA 5 4, ⟨63, 0⟩, 78)] ++ l)
end Sys2Proof.W

theorem witness_CarrelCalls :
    (∃ (who : Agent) (k : Fin 64) (v : Word) (s : State), carrelOwner s who k = true ∧ carrelState s k = 0 ∧ v.getLsbD 0 = true ∧
    v.getLsbD 1 = false) ∧
    (∃ (who : Agent) (k : Fin 64) (v : Word) (s : State), carrelOwner s who k = true ∧ carrelState s k = 3 ∧ v.getLsbD 0 = false ∧
    v.getLsbD 1 = true) ∧
    (∃ (who : Agent) (k : Fin 64) (s : State), carrelOwner s who k = true ∧ (carrelState s k = 1 ∨ carrelState s k = 2)) ∧
    (∃ (who : Agent) (k : Fin 64) (s : State), carrelOwner s who k = true ∧ (carrelState s k = 1 ∨ carrelState s k = 2)) ∧
    (∃ (who : Agent) (k : Fin 64) (s : State), carrelOwner s who k = false ∧ notLedger s who) ∧
    (∃ (c : Fin 384) (s : State), s.ledgerCore c = true) ∧
    (∃ (k : Fin 64) (s : State), s.arc.serving = [] ∧ 2 ≤ s.get .ARC_STATUS F.ARC_STATUS_STAGE ∧ carrelState s k = 1 ∧ (∀ j : Fin 64, j
    < k → carrelState s j ≠ 1)) ∧
    (∃ (k : Fin 64) (s : State), s.arc.serving = [] ∧ 2 ≤ s.get .ARC_STATUS F.ARC_STATUS_STAGE ∧ carrelState s k = 1 ∧ (∀ j : Fin 64, j
    < k → carrelState s j ≠ 1)) ∧
    (∃ (k : Fin 64) (s : State), s.arc.serving = [] ∧ 2 ≤ s.get .ARC_STATUS F.ARC_STATUS_STAGE ∧ carrelState s k = 1 ∧ (∀ j : Fin 64, j
    < k → carrelState s j ≠ 1)) ∧
    (∃ (s : State), (∀ k : Fin 64, carrelState s k ≠ 1)) ∧
    (∃ (k : Fin 64) (v : Serving) (status : Nat) (keep : Nat) (x : Word) (s : State), serving s k = some v ∧ v.result = some ⟨status,
    keep, [(2, x)]⟩ ∧ v.returned = false ∧ carrelState s k = 2 ∧ sramBits s 15 0x2700 k = 0) ∧
    (∃ (k : Fin 64) (v : Serving) (s : State), serving s k = some v ∧ v.returned = true) ∧
    (∃ (k : Fin 64) (v : Serving) (s : State), serving s k = some v ∧ v.returned = true) ∧
    (∃ (who : Agent) (k : Fin 64) (s : State), s.isHouse who = true ∧ carrelState s k = 0) ∧
    (∃ (who : Agent) (k : Fin 64) (s : State), s.isHouse who = true ∧ carrelState s k ≠ 0) ∧
    (∃ (who : Agent) (s : State), s.isHouse who = false) :=
  ⟨⟨.core 0, 5, 0x1101, cst 0, by decide +kernel⟩,
   ⟨.core 0, 5, 2, cst 3, by decide +kernel⟩,
   ⟨.core 0, 5, cst 1, by decide +kernel⟩,
   ⟨.core 0, 5, cst 2, by decide +kernel⟩,
   ⟨.core 24, 5, cst 0, by decide +kernel⟩,
   ⟨48, cst 0, by decide +kernel⟩,
   ⟨5, cst 1 [(.ARC_CTL 5, F.ARC_CTL_SERVICE, 0x22)], by decide +kernel⟩,
   ⟨5, cst 1 [(.ARC_CTL 5, F.ARC_CTL_SERVICE, 0x12)], by decide +kernel⟩,
   ⟨5, cst 1 [(.ARC_STATUS, F.ARC_STATUS_TAMPER, 1)], by decide +kernel⟩,
   ⟨cst 2, by decide +kernel⟩,
   ⟨5, ⟨[], [], true, false, some ⟨7, 1, [(2, 9)]⟩, false⟩, 7, 1, 9, car 3 ⟨[], [], true, false, some ⟨7, 1, [(2, 9)]⟩, false⟩,
   by decide +kernel⟩,
   ⟨5, ⟨[], [], true, false, some ⟨7, 1, [(2, 9)]⟩, true⟩, pt (car 3 ⟨[], [], true, false, some ⟨7, 1, [(2, 9)]⟩, true⟩) [(.ARC_RESULT
   5, F.ARC_RESULT_KEEP, 2), (.ARC_DATA 5 3, ⟨63, 0⟩, 77), (.ARC_DATA 5 4, ⟨63, 0⟩, 78)], by decide +kernel⟩,
   ⟨63,
    ⟨[], [], true, false, some ⟨7, 1, [(2, 9)]⟩, true⟩,
    let s := car 3 ⟨[], [], true, false, some ⟨7, 1, [(2, 9)]⟩, true⟩; { s with arc := { s.arc with serving := [(63, ⟨[], [], true, false, some ⟨7, 1, [(2, 9)]⟩, true⟩)] } },
    by decide +kernel⟩,
   ⟨.core 0, 5, cst 0, by decide +kernel⟩,
   ⟨.core 0, 5, cst 1, by decide +kernel⟩,
   ⟨.core 24, cst 0, by decide +kernel⟩⟩

theorem witness_CarrelServices :
    (∃ (k : Fin 64) (v : Serving) (s : State), active s k 1 = some v) ∧
    (∃ (k : Fin 64) (v : Serving) (s : State), active s k 2 = some v ∧ 1 ≤ arg s k 2 ∧ arg s k 2 ≤ 29) ∧
    (∃ (k : Fin 64) (v : Serving) (s : State), active s k 2 = some v ∧ (arg s k 2 = 0 ∨ 29 < arg s k 2)) ∧
    (∃ (k : Fin 64) (v : Serving) (s : State), active s k 2 = some v ∧ (arg s k 2 = 0 ∨ 29 < arg s k 2)) ∧
    (∃ (k : Fin 64) (v : Serving) (s : State), active s k 3 = some v ∧ arg s k 2 % 64 = 0 ∧ arg s k 3 % 64 = 0 ∧ arg s k 3 ≤ 0x1000000 ∧
    callerRange s k (arg s k 2) (arg s k 3) false = true ∧ v.asked = true ∧ v.due = [] ∧ v.lines.any (fun e => e.2.2) = false) ∧
    (∃ (k : Fin 64) (v : Serving) (s : State), active s k 3 = some v ∧ arg s k 2 % 64 = 0 ∧ arg s k 3 % 64 = 0 ∧ arg s k 3 ≤ 0x1000000 ∧
    callerRange s k (arg s k 2) (arg s k 3) false = true ∧ v.asked = false) ∧
    (∃ (k : Fin 64) (v : Serving) (s : State), active s k 4 = some v) ∧
    (∃ (k : Fin 64) (v : Serving) (s : State), active s k 0x10 = some v ∧ 64 ≤ arg s k 4 ∧ arg s k 4 ≤ 0x10000 ∧ arg s k 4 % 64 = 0 ∧
    callerRange s k (arg s k 3) (arg s k 4) false = true ∧ v.asked = true ∧ v.due = [] ∧ v.lines.any (fun e => e.2.2) = false) ∧
    (∃ (k : Fin 64) (v : Serving) (s : State) (r : _), active s k 0x11 = some v ∧ (caller s k).bind (fun h => vaultRec s h (arg s k 2))
    = some r ∧ r.data.length ≤ arg s k 4 ∧ callerRange s k (arg s k 3) r.data.length true = true ∧ v.asked = true ∧ v.due = []) ∧
    (∃ (k : Fin 64) (v : Serving) (s : State), active s k 0x11 = some v ∧ (caller s k).bind (fun h => vaultRec s h (arg s k 2)) = none) ∧
    (∃ (k : Fin 64) (v : Serving) (s : State), active s k 0x20 = some v ∧ houseCall s k = true ∧ floorOf s.arc.floors < arg s k 2 ∧ arg
    s k 2 ≤ (s.rd .FOL_SERIAL).toNat ∧ s.bit .ARC_STATUS F.ARC_STATUS_VPP = true ∧ s.arc.floors.length < 8) ∧
    (∃ (k : Fin 64) (v : Serving) (s : State), active s k 0x20 = some v ∧ houseCall s k = false) ∧
    (∃ (k : Fin 64) (v : Serving) (s : State), active s k 0x22 = some v ∧ houseCall s k = true ∧ callerRange s k (arg s k 2) (arg s k 3)
    false = true ∧ v.asked = true ∧ v.due = [] ∧ v.lines.any (fun e => e.2.2) = false) ∧
    (∃ (k : Fin 64) (v : Serving) (s : State), active s k 0x21 = some v ∧ v.asked = false ∧ (houseCall s k = false ∨ s.bit .ARC_VAULT
    F.ARC_VAULT_LOCK = true)) ∧
    (∃ (k : Fin 64) (v : Serving) (s : State), active s k 0x21 = some v ∧ v.asked = false ∧ (houseCall s k = false ∨ s.bit .ARC_VAULT
    F.ARC_VAULT_LOCK = true)) ∧
    (∃ (k : Fin 64) (s : State), serving s k = none) :=
  ⟨⟨5, srv0, car 1 srv0, by decide +kernel⟩,
   ⟨5, srv0, car 2 srv0 [29], by decide +kernel⟩,
   ⟨5, srv0, car 2 srv0 [0], by decide +kernel⟩,
   ⟨5, srv0, car 2 srv0 [30], by decide +kernel⟩,
   ⟨5, srvLine, car 3 srvLine [0x40000000, 64], by decide +kernel⟩,
   ⟨5, srv0, car 3 srv0 [0x40000000, 128], by decide +kernel⟩,
   ⟨5, srv0, pt (car 4 srv0 [1, 2, 3]) [(.FOL_DIGEST 2, ⟨63, 0⟩, 99)], by decide +kernel⟩,
   ⟨5, srvLine, car 0x10 srvLine [9, 0x40000000, 64] (fun a => { a with vault := [⟨1, 9, [1]⟩, ⟨0, 9, [2]⟩] }), by decide +kernel⟩,
   ⟨5,
    { srvLine with lines := [] },
    car 0x11 { srvLine with lines := [] } [9, 0x40000000, 64] (fun a => { a with vault := [⟨1, 9, [1]⟩, ⟨0, 9, [2, 3]⟩] }),
    ⟨0, 9, [2, 3]⟩,
    by decide +kernel⟩,
   ⟨5, srv0, car 0x11 srv0 [9, 0x40000000, 64] (fun a => { a with vault := [⟨1, 9, [1]⟩] }), by decide +kernel⟩,
   ⟨5,
    srv0,
    pt (car 0x20 srv0 [9] (fun a => { a with floors := [3] })) [(.FOL_SERIAL, ⟨63, 0⟩, 9), (.ARC_STATUS, F.ARC_STATUS_VPP, 1)],
    by decide +kernel⟩,
   ⟨5, srv0, pt (car 0x20 srv0 [9]) [(.ARC_OWNER 5, F.ARC_OWNER_HAND, 1)], by decide +kernel⟩,
   ⟨5,
    { srvLine with lines := [(0x1000000, 0, false)] },
    car 0x22 { srvLine with lines := [(0x1000000, 0, false)] } [0x40000000, 64],
    by decide +kernel⟩,
   ⟨5, srv0, pt (car 0x21 srv0 [0]) [(.ARC_OWNER 5, F.ARC_OWNER_HAND, 1)], by decide +kernel⟩,
   ⟨5, srv0, pt (car 0x21 srv0 [0]) [(.ARC_VAULT, F.ARC_VAULT_LOCK, 1)], by decide +kernel⟩,
   ⟨5, cst 2, by decide +kernel⟩⟩

theorem witness_VaultTamper :
    (∃ (k : Fin 64) (v : Serving) (s : State), active s k 0x21 = some v ∧ v.asked = false ∧ houseCall s k = true ∧ s.bit .ARC_VAULT
    F.ARC_VAULT_LOCK = false ∧ watermarkOk s (arg s k 2) = true ∧ s.arc.wmPend = none) ∧
    (∃ (k : Fin 64) (v : Serving) (w : Nat) (s : State), s.arc.wmPend = some w ∧ w < 2 ^ 16 ∧ s.arc.zeroLeft = 0 ∧ trickOf s 0x20 = 0 ∧
    active s k 0x21 = some v ∧ v.asked = true) ∧
    (∃ (s : State), s.arc.wmPend = none) ∧
    (∃ (s : State), tampered s = false) ∧
    (∃ (s : State), tampered s = true) ∧
    (∃ (s : State), s.arc.tampering = true ∧ s.arc.tamperLeft = 0) ∧
    (∃ (s : State), s.arc.tampering = false) ∧
    (∃ (who : Agent) (v : Word) (s : State), s.isHouse who = true ∧ v.getLsbD 1 = false) ∧
    (∃ (who : Agent) (v : Word) (s : State), s.isHouse who = true ∧ v.getLsbD 1 = true ∧ tampered s = false) ∧
    (∃ (who : Agent) (s : State), s.isHouse who = false) :=
  ⟨⟨5, srv0, car 0x21 srv0 [0], by decide +kernel⟩,
   ⟨5,
    { srv0 with asked := true },
    1,
    { car 0x21 { srv0 with asked := true } [1] (fun a => { a with wmPend := some 1 }) with cycle := 0 },
    by decide +kernel⟩,
   ⟨mem, by decide +kernel⟩,
   ⟨pt (cst 1) [(.ARC_CTL 7, F.ARC_CTL_STATE, 1)], by decide +kernel⟩,
   ⟨cst 1 [(.ARC_STATUS, F.ARC_STATUS_TAMPER, 1)], by decide +kernel⟩,
   ⟨{ mem with arc := { mem.arc with tampering := true } }, by decide +kernel⟩,
   ⟨mem, by decide +kernel⟩,
   ⟨.core 0, 0xA5, mem, by decide +kernel⟩,
   ⟨.core 0, 2, mem, by decide +kernel⟩,
   ⟨.core 24, W.base, by decide +kernel⟩⟩

namespace Sys2Proof.W
/-- Hand 1 may sample; core 24's buffer is 256 bytes at 0x80000000. -/
def smpl (head size ctl : Nat) (f : Core → Core := id) : State :=
  let s := csrs 24 [(0x7C9, 0x80000000), (0x7CA, size), (0x7CB, head), (0x7C8, ctl)] (cor 24 f)
  { s with folio := { s.folio with counters := some ⟨0, 2, 0, [], []⟩ } }
def info : SampleInfo := ⟨0x12345678, 1, 2, 3, 4, 5, [6], 7⟩
/-- The management port answers. -/
def ready3 (g : Mgmt → Mgmt := id) : State := { base with cycle := 2040000, mgmt := g { base.mgmt with since := 40000, stby := true } }
/-- The test-access port. -/
def tapS (r m b : Bool) (ir : BitVec 8) : State := { base with mgmt := { base.mgmt with inReset := r, main := m, stby := b }, tap := { base.tap with ir := ir } }
/-- Hand 2 reaches the tally block. -/
def w6 : State := { base with folio := { base.folio with map := { base.folio.map with ctrl := [0, 0, 64] } } }
end Sys2Proof.W

theorem witness_Counters :
    (∃ (c : Fin 384) (e : BitVec 16) (s : State), e ≠ 0 ∧ slotsShowing s (.core c) e.toNat ≠ [] ∧ wraps s (.core c) e.toNat = true) ∧
    (∃ (c : Fin 384) (e : BitVec 16) (s : State), e ≠ 0 ∧ slotsShowing s (.core c) e.toNat ≠ [] ∧ wraps s (.core c) e.toNat = true) ∧
    (∃ (c : Fin 384) (e : BitVec 16) (s : State), e ≠ 0 ∧ slotsShowing s (.core c) e.toNat ≠ [] ∧ wraps s (.core c) e.toNat = true) ∧
    (∃ (c : Fin 384) (s : State), s.ledgerCore c = false ∧ s.runs c = false ∧ s.csr c 0x304 = 0 ∧ (s.core c).asleep = false) ∧
    (∃ (b : Fin 57) (e : BitVec 16) (s : State), e ≠ 0 ∧ slotsShowing s (.block b) e.toNat ≠ [] ∧ wraps s (.block b) e.toNat = true) ∧
    (∃ (b : Fin 57) (e : BitVec 16) (s : State), e ≠ 0 ∧ slotsShowing s (.block b) e.toNat ≠ [] ∧ wraps s (.block b) e.toNat = true) ∧
    (∃ (u : CtrUnit) (e : BitVec 16) (s : State), (e = 0 ∨ slotsShowing s u e.toNat = [] ∨ wraps s u e.toNat = false)) ∧
    (∃ (u : CtrUnit) (e : BitVec 16) (s : State), (e = 0 ∨ slotsShowing s u e.toNat = [] ∨ wraps s u e.toNat = false)) ∧
    (∃ (b : Fin 57) (k : Fin 8) (who : Agent) (s : State), s.isHouse who = true ∧ blockEvent s b k ≠ 0 ∧ counted (.block b) (blockFull s
    b k) = true) ∧
    (∃ (who : Agent) (s : State), s.isHouse who = false) ∧
    (∃ (c : Fin 384) (s : State), s.ready c = true ∧ (s.core c).priv = 3) ∧
    (∃ (c : Fin 384) (s : State), s.ready c = true ∧ (s.core c).priv = 3) ∧
    (∃ (c : Fin 384) (s : State), s.ready c = true ∧ (s.core c).priv = 3 ∧ maySample s c = false) ∧
    (∃ (c : Fin 384) (v : Word) (s : State), s.ready c = true ∧ (s.core c).priv = 3 ∧ maySample s c = true ∧ v.getLsbD 0 = false) ∧
    (∃ (c : Fin 384) (v : Word) (s : State), s.ready c = true ∧ (s.core c).priv = 3 ∧ s.ledgerCore c = false ∧ maySample s c = true ∧
    v.getLsbD 0 = true ∧ jsValid s c v = true) ∧
    (∃ (c : Fin 384) (v : Word) (s : State), s.ready c = true ∧ (s.core c).priv = 3 ∧ s.ledgerCore c = false ∧ maySample s c = true ∧
    v.getLsbD 0 = true ∧ jsValid s c v = false) ∧
    (∃ (c : Fin 384) (s : State), s.ready c = true ∧ (s.core c).priv ≠ 3) ∧
    (∃ (c : Fin 384) (s : State), s.ready c = false) ∧
    (∃ (c : Fin 384) (s : State), s.runs c = true ∧ maySample s c = true ∧ (s.csr c 0x7C8).getLsbD 0 = true ∧ (s.csr c 0x7CB).toNat + 64
    ≤ (s.csr c 0x7CA).toNat) ∧
    (∃ (c : Fin 384) (s : State), s.runs c = true ∧ maySample s c = true ∧ (s.csr c 0x7C8).getLsbD 0 = true ∧ (s.csr c 0x7CB).toNat + 64
    ≤ (s.csr c 0x7CA).toNat) ∧
    (∃ (c : Fin 384) (s : State), s.runs c = true ∧ maySample s c = true ∧ (s.csr c 0x7C8).getLsbD 0 = true ∧ (s.csr c 0x7CA).toNat <
    (s.csr c 0x7CB).toNat + 64) ∧
    (∃ (c : Fin 384) (s : State), s.runs c = true ∧ maySample s c = true ∧ (s.csr c 0x7C8).getLsbD 0 = true ∧ (s.csr c 0x7CB).toNat + 64
    ≤ (s.csr c 0x7CA).toNat ∧ (s.csr c 0x7CA).toNat < 2 ^ 32 ∧ (s.csr c 0x7CB).toNat % 64 = 0 ∧ s.ledgerCore c = false ∧ (s.core c).mb =
    [] ∧ (s.core c).stores = []) ∧
    (∃ (c : Fin 384) (s : State), s.runs c = true ∧ maySample s c = true ∧ (s.csr c 0x7C8).getLsbD 0 = true ∧ (s.csr c 0x7CB).toNat + 64
    ≤ (s.csr c 0x7CA).toNat ∧ (s.csr c 0x7CA).toNat < 2 ^ 32 ∧ (s.csr c 0x7CB).toNat % 64 = 0 ∧ s.ledgerCore c = false ∧ (s.core c).mb =
    [] ∧ (s.core c).stores = []) ∧
    (∃ (c : Fin 384) (s : State), s.runs c = true ∧ maySample s c = true ∧ (s.csr c 0x7C8).getLsbD 0 = true ∧ (s.csr c 0x7CA).toNat <
    (s.csr c 0x7CB).toNat + 64 ∧ s.csr c 0x304 = 0 ∧ s.ledgerCore c = false) ∧
    (∃ (c : Fin 384) (s : State), (maySample s c = false ∨ s.runs c = false ∨ (s.csr c 0x7C8).getLsbD 0 = false)) ∧
    (∃ (c : Fin 384) (s : State), (maySample s c = false ∨ s.runs c = false ∨ (s.csr c 0x7C8).getLsbD 0 = false)) :=
  ⟨⟨24, 17, pt mem [(.CTR_CORE_SEL 24 1, F.CTR_CORE_SEL_SEL 2, 17), (.CTR_CORE 24 10, ⟨63, 0⟩, 5)], by decide +kernel⟩,
   ⟨24, 17, pt mem [(.CTR_CORE_SEL 24 1, F.CTR_CORE_SEL_SEL 2, 17), (.CTR_CORE_OVF 24, ⟨63, 0⟩, 1024)], by decide +kernel⟩,
   ⟨24,
    11,
    { pt mem [(.CTR_CORE_SEL 24 1, F.CTR_CORE_SEL_SEL 2, 11), (.CTR_CORE_SEL 24 1, F.CTR_CORE_SEL_SEL 3, 0)] with events := [(24 * 65536 + 11, 2 ^ 64 + 5), (24 * 65536 + 12, 9)] },
    by decide +kernel⟩,
   ⟨24, pt mem [(.CORE_STATE 24, F.CORE_STATE_STATE, 2)], by decide +kernel⟩,
   ⟨56, 0x503, { base with events := [(0x1038 * 65536 + 0x503, 2 ^ 48 + 7)] }, by decide +kernel⟩,
   ⟨3, 0x101, base, by decide +kernel⟩,
   ⟨.core 24, 0, mem, by decide +kernel⟩,
   ⟨.block 56, 0x503, { base with events := [(0x1038 * 65536 + 0x503, 2 ^ 48 - 1)] }, by decide +kernel⟩,
   ⟨56, 2, .core 0, { base with events := [(0x1038 * 65536 + 0x503, 2 ^ 48 + 7)] }, by decide +kernel⟩,
   ⟨.core 24, mem, by decide +kernel⟩,
   ⟨24, smpl 0 256 0, by decide +kernel⟩,
   ⟨24, mem, by decide +kernel⟩,
   ⟨24, mem, by decide +kernel⟩,
   ⟨24, 4, smpl 0 256 0, by decide +kernel⟩,
   ⟨24, 0x100070001, smpl 0 256 0, by decide +kernel⟩,
   ⟨24, 0x100090001, smpl 0 256 0, by decide +kernel⟩,
   ⟨24, cor 24 (fun k => { k with priv := 0 }), by decide +kernel⟩,
   ⟨24, pt mem [(.CORE_STATE 24, F.CORE_STATE_STATE, 2)], by decide +kernel⟩,
   ⟨24, smpl 64 128 1, by decide +kernel⟩,
   ⟨24, smpl 0 256 1, by decide +kernel⟩,
   ⟨24, smpl 128 128 1, by decide +kernel⟩,
   ⟨24, smpl 64 128 1, by decide +kernel⟩,
   ⟨24, smpl 0 256 1, by decide +kernel⟩,
   ⟨24, smpl 128 128 1, by decide +kernel⟩,
   ⟨24, mem, by decide +kernel⟩,
   ⟨24, smpl 0 256 0, by decide +kernel⟩⟩

theorem witness_ManagementPort :
    (∃ (s : State), i3cReady s = true) ∧
    (∃ (lo : Byte) (hi : Byte) (s : State) (bs : List Byte), i3cReady s = true ∧ bs.length = 8 ∧ (lo.toNat + 256 * hi.toNat) % 8 = 0) ∧
    (∃ (s : State), i3cReady s = true) ∧
    (∃ (s : State), i3cReady s = true ∧ s.mgmt.addr = none) ∧
    (∃ (s : State), i3cReady s = false ∧ s.mgmt.stby = true) ∧
    (∃ (v : Word) (s : State) (e : _), 
    let slot := F.ARC_IMG_CMD_SLOT.get v
    let off := F.ARC_IMG_CMD_OFFSET.get v
    i3cReady s = true ∧ s.bit .ARC_IMG_CMD F.ARC_IMG_CMD_BUSY = false ∧ imgAllowed s slot = true ∧ e ∈ [(1, Instr.arcImgBegin v), (2,
    Instr.arcImgWrite v), (3, Instr.arcImgFinish v)] ∧ F.ARC_IMG_CMD_OP.get v = e.1 ∧ (e.1 = 2 → off % 256 = 0 ∧ off + 256 ≤ imgSize
    slot)) ∧
    (∃ (v : Word) (s : State) (e : _), 
    let slot := F.ARC_IMG_CMD_SLOT.get v
    let off := F.ARC_IMG_CMD_OFFSET.get v
    i3cReady s = true ∧ s.bit .ARC_IMG_CMD F.ARC_IMG_CMD_BUSY = false ∧ imgAllowed s slot = true ∧ e ∈ [(1, Instr.arcImgBegin v), (2,
    Instr.arcImgWrite v), (3, Instr.arcImgFinish v)] ∧ F.ARC_IMG_CMD_OP.get v = e.1 ∧ (e.1 = 2 → off % 256 = 0 ∧ off + 256 ≤ imgSize
    slot)) ∧
    (∃ (op : Nat) (slot : Nat) (off : Nat) (s : State), s.arc.imgOp = some (op, slot, off)) ∧
    (∃ (op : Nat) (slot : Nat) (off : Nat) (s : State), s.arc.imgOp = some (op, slot, off)) ∧
    (∃ (s : State), s.arc.imgOp = none) :=
  ⟨⟨ready3, by decide +kernel⟩,
   ⟨0x40, 0, ready3, [1, 2, 3, 4, 5, 6, 7, 8], by decide +kernel⟩,
   ⟨ready3 (fun m => { m with ptr := 0xFFFE }), by decide +kernel⟩,
   ⟨ready3, by decide +kernel⟩,
   ⟨{ base with mgmt := { base.mgmt with stby := true } }, by decide +kernel⟩,
   ⟨0x21, pt (ready3) [(.FOL_STATE, F.FOL_STATE_STATE, 6)], (1, Instr.arcImgBegin 0x21), by decide +kernel⟩,
   ⟨0x10022, pt (ready3) [(.FOL_STATE, F.FOL_STATE_STATE, 6)], (2, Instr.arcImgWrite 0x10022), by decide +kernel⟩,
   ⟨2, 3, 256, { base with arc := { base.arc with imgOp := some (2, 3, 256), imgBuf := [(5, 7)] } }, by decide +kernel⟩,
   ⟨1, 2, 0, { base with arc := { base.arc with imgOp := some (1, 2, 0) } }, by decide +kernel⟩,
   ⟨base, by decide +kernel⟩⟩

theorem witness_TestAccess :
    (∃ (s : State), s.mgmt.stby = true) ∧
    (∃ (s : State), s.mgmt.stby = true) ∧
    (∃ (s : State), s.mgmt.stby = false) ∧
    (∃ (s : State), scanAllowed s = false ∧ (s.tap.ir = 0 ∨ s.tap.ir = 4 ∨ s.tap.ir = 5)) ∧
    (∃ (s : State), (s.mgmt.inReset = false ∨ s.mgmt.main = false)) ∧
    (∃ (s : State), (s.mgmt.inReset = false ∨ s.mgmt.main = false)) ∧
    (∃ (s : State), scanAllowed s = true ∧ (s.tap.ir = 0 ∨ s.tap.ir = 4 ∨ s.tap.ir = 5)) ∧
    (∃ (s : State) (i : Nat), s.mgmt.main = false ∧ i < 2704) ∧
    (∃ (s : State) (k : Nat), s.mgmt.stby = true ∧ s.mgmt.main = true ∧ s.mgmt.inReset = false ∧ k < 166) ∧
    (∃ (s : State) (k : Nat), s.mgmt.stby = true ∧ s.mgmt.main = true ∧ s.mgmt.inReset = false ∧ k < 166) ∧
    (∃ (s : State) (k : Nat), s.mgmt.stby = true ∧ s.mgmt.main = true ∧ s.mgmt.inReset = false ∧ k < 166) ∧
    (∃ (s : State), s.mgmt.stby = true ∧ s.mgmt.inReset = false) ∧
    (∃ (s : State), s.mgmt.stby = true ∧ s.mgmt.inReset = false) ∧
    (∃ (s : State), s.mgmt.stby = true ∧ s.mgmt.inReset = false) :=
  ⟨⟨tapS true true true 1, by decide +kernel⟩,
   ⟨tapS false false true 0, by decide +kernel⟩,
   ⟨tapS true true false 1, by decide +kernel⟩,
   ⟨tapS true false true 0, by decide +kernel⟩,
   ⟨tapS false true true 0, by decide +kernel⟩,
   ⟨tapS true false true 0, by decide +kernel⟩,
   ⟨tapS true true true 4, by decide +kernel⟩,
   ⟨tapS true false true 0, 2703, by decide +kernel⟩,
   ⟨pt (tapS false true true 0xFF) [(.SCK_IOD_STATE, F.SCK_IOD_STATE_CHANNEL 15, 0)], 165, by decide +kernel⟩,
   ⟨pt (tapS false true true 0xFF) [(.SCK_IOD_STATE, F.SCK_IOD_STATE_CHANNEL 15, 2)], 165, by decide +kernel⟩,
   ⟨pt (tapS false true true 0xFF) [(.SCK_IOD_STATE, F.SCK_IOD_STATE_CHANNEL 15, 3)], 165, by decide +kernel⟩,
   ⟨tapS false true true 0xFF, by decide +kernel⟩,
   ⟨pt (tapS false true true 0xFF) [(.SCK_DIE 1, F.SCK_DIE_STATE, 3)], by decide +kernel⟩,
   ⟨(pt (tapS false true true 0xFF) [(.SCK_DIE 1, F.SCK_DIE_STATE, 3)]).setDie 1 { Die.init with wake := some 0 },
    by decide +kernel⟩⟩

theorem witness_RegisterFields :
    (∃ (r : Reg) (f : _), f ∈ r.fields ∧ (f.access = .rw ∨ f.access = .rws)) ∧
    (∃ (r : Reg) (f : _), f ∈ r.fields ∧ f.access = .w1s) ∧
    (∃ (r : Reg) (f : _), f ∈ r.fields ∧ f.access = .w1c) ∧
    (∃ (r : Reg) (f : _), f ∈ r.fields ∧ (f.access = .ro ∨ f.access = .wo ∨ f.access = .rwf)) :=
  ⟨⟨.HP_INJECT 3, (⟨⟨1, 1⟩, .rw, 0⟩ : FldRow), by decide +kernel⟩,
   ⟨.TIC_EN_SET 3, (⟨⟨63, 0⟩, .w1s, 0⟩ : FldRow), by decide +kernel⟩,
   ⟨.DL_ERR 3, (⟨⟨2, 2⟩, .w1c, 0⟩ : FldRow), by decide +kernel⟩,
   ⟨.DL_REPAIR_CFG 3, (⟨⟨15, 0⟩, .rwf, 16⟩ : FldRow), by decide +kernel⟩⟩

theorem witness_RegisterWrite :
    (∃ (who : Agent) (a : Nat) (r : Reg) (s : State), a % 8 = 0 ∧ Reg.ofAddr a = some r ∧ notLedger s who ∧ (match who with | .core c => ∃ h, s.handOf c = some h ∧ ctrlOk s h a = true | _ => True)) ∧
    (∃ (c : Fin 384) (a : Nat) (r : Reg) (h : Nat) (s : State), a % 8 = 0 ∧ Reg.ofAddr a = some r ∧ s.handOf c = some h ∧ ctrlOk s h a =
    true ∧ bars s c r) ∧
    (∃ (c : Fin 384) (a : Nat) (r : Reg) (h : Nat) (s : State), a % 8 = 0 ∧ Reg.ofAddr a = some r ∧ s.handOf c = some h ∧ ctrlOk s h a =
    true ∧ s.ledgerCore c = true ∧ ledgerMay s c r = true) ∧
    (∃ (c : Fin 384) (a : Nat) (r : Reg) (h : Nat) (s : State), a % 8 = 0 ∧ Reg.ofAddr a = some r ∧ s.handOf c = some h ∧ ctrlOk s h a =
    false) ∧
    (∃ (a : Nat), (a % 8 ≠ 0 ∨ Reg.ofAddr a = none)) ∧
    (∃ (a : Nat), (a % 8 ≠ 0 ∨ Reg.ofAddr a = none)) ∧
    (∃ (c : Fin 384) (s : State), s.handOf c = none) ∧
    (∃ (who : Agent) (s : State), s.isHouse who = true) ∧
    (∃ (who : Agent) (s : State), s.isHouse who = false ∧ who ≠ .archivist) ∧
    (∃ (f : FnId) (s : State), fnExists s f = true ∧ (s.fn f).flr = false ∧ inD3 s f = false) ∧
    (∃ (f : FnId) (s : State), (fnExists s f = false ∨ (s.fn f).flr = true ∨ inD3 s f = true)) ∧
    (∃ (who : Agent) (c : Fin 384) (s : State), who = .core c ∧ s.ready c = true) ∧
    (∃ (who : Agent) (c : Fin 384) (s : State), (who ≠ .core c ∨ s.ready c = false)) ∧
    (∃ (who : Agent) (c : Fin 384) (s : State), (who ≠ .core c ∨ s.ready c = false)) ∧
    (∃ (c : Fin 384) (w : BitVec 32) (s : State) (e : _), csrTrap s c (w.toNat / 2 ^ 20) true = some e) ∧
    (∃ (c : Fin 384) (s : State), vsOff s c = true) ∧
    (∃ (c : Fin 384) (w : BitVec 32) (s : State), vsOff s c = false ∧ s.ledgerCore c = false ∧ w.getLsbD 31 = false ∧ vlmaxOf (wbits w
    30 20) ≠ 0 ∧ wbits w 19 15 ≠ 0) ∧
    (∃ (c : Fin 384) (w : BitVec 32) (s : State), vsOff s c = false ∧ s.ledgerCore c = false ∧ w.getLsbD 31 = false ∧ vlmaxOf (wbits w
    30 20) ≠ 0 ∧ wbits w 19 15 ≠ 0) :=
  ⟨⟨.core 0, Reg.key (.DL_REPAIR_CFG 3), .DL_REPAIR_CFG 3, mem, by decide +kernel, by decide +kernel, by decide +kernel, 0,
   by decide +kernel, by decide +kernel⟩,
   ⟨48, Reg.key (.TIC_EOI 24), .TIC_EOI 24, 2, w6, by decide +kernel⟩,
   ⟨48, Reg.key (.TIC_EOI 48), .TIC_EOI 48, 2, w6, by decide +kernel⟩,
   ⟨24, Reg.key .SCK_COOLANT, .SCK_COOLANT, 1, base, by decide +kernel⟩,
   ⟨0xF00006000001, by decide +kernel⟩,
   ⟨0x40000000, by decide +kernel⟩,
   ⟨5, W.base, by decide +kernel⟩,
   ⟨.core 0, W.base, by decide +kernel⟩,
   ⟨.core 24, W.base, by decide +kernel⟩,
   ⟨.vf 20, vfs3, by decide +kernel⟩,
   ⟨.vf 30, vfs3, by decide +kernel⟩,
   ⟨.core 24, 24, mem, by decide +kernel⟩,
   ⟨.core 25, 24, mem, by decide +kernel⟩,
   ⟨.core 24, 24, pt mem [(.CORE_STATE 24, F.CORE_STATE_STATE, 2)], by decide +kernel⟩,
   ⟨24, 0xF1129073, mem, 2, by decide +kernel⟩,
   ⟨24, mem, by decide +kernel⟩,
   ⟨24,
    0x0C92F357,
    csrs 24 [(0x300, 0x600), (8, 3)] (cor 24 (fun k => { k with x := k.x.set 5 (BitVec.ofNat 64 40) })),
    by decide +kernel⟩,
   ⟨24,
    0x0C12F057,
    csrs 24 [(0x300, 0x600), (8, 3)] (cor 24 (fun k => { k with x := k.x.set 5 (BitVec.ofNat 64 40) })),
    by decide +kernel⟩⟩

theorem witness_StepFront :
    (∃ (s : State), s.pending = [] ∧ s.mgmt.inReset = false) ∧
    (∃ (s : State), s.pending = [] ∧ s.mgmt.inReset = true) :=
  ⟨⟨base, by decide +kernel⟩,
   ⟨State.reset, by decide +kernel⟩⟩

theorem witness_StepQueueOrder :
    ∃ (s : State) (t : State), step s = .next t :=
  ⟨{ State.reset with pending := [.tapReset, .extest] },
   nextOf (step ({ State.reset with pending := [.tapReset, .extest] } : State)),
   rfl⟩

theorem witness_StepKeepsInv :
    ∃ (s : State) (t : State), Inv s ∧ step s = .next t :=
  ⟨{ State.reset with pending := [.tapReset, .extest] },
   nextOf (step ({ State.reset with pending := [.tapReset, .extest] } : State)),
   rfl, rfl⟩

theorem witness_ResetState :
    (∃ (n : _), n < 8192) ∧
    (∃ (c : _), c < 384) :=
  ⟨⟨8191, by decide +kernel⟩,
   ⟨383, by decide +kernel⟩⟩

/-! ### Figures of the spec's worked examples -/

/-- The masks of the worked example of 07_coherence.md and of the worked hash of 09_memory_channels.md, in a package of sixteen channels with
one 16 Gb x4 RDIMM of two ranks each. -/
def hashed : State :=
  wr (pt mem ((List.range 16).flatMap (fun n => [(.MC_CFG n, F.MC_CFG_ENABLE, 1), (.MC_CFG n, F.MC_CFG_RANKS, 2),
      (.MC_CFG n, F.MC_CFG_SPARE, 15), (.MC_CFG n, F.MC_CFG_CH_BITS, 4), (.MC_CFG n, F.MC_CFG_ROW_BITS, 17), (.MC_DIMM n 0, F.MC_DIMM_WIDTH, 1)])))
    ([(.HOME_SLICE_MASK 0, 0x40101040), (.HOME_SLICE_MASK 1, 0x80202080), (.HOME_SLICE_MASK 2, 0x100404100), (.HOME_SLICE_MASK 3, 0x200808200)] ++
      (List.range 16).flatMap (fun n => [(.MC_CH_MASK n 0, 0x100100), (.MC_CH_MASK n 1, 0x200200), (.MC_CH_MASK n 2, 0x400400),
        (.MC_CH_MASK n 3, 0x800800), (.MC_MASK n 0, 0x1000040), (.MC_MASK n 1, 0x2000080), (.MC_MASK n 2, 0x4001000),
        (.MC_MASK n 3, 0x8002000), (.MC_MASK n 4, 0x10004000), (.MC_MASK n 5, 0x20008000)]))

/-- 07_coherence.md, worked example: the home of the line at 0x2_4020_7040 is slice 13, its set 9,667. -/
theorem test_home_of_line : sliceOf hashed 0x90081C1 = 13 ∧ dirSet 0x90081C1 = 9667 := by decide +kernel

/-- 09_memory_channels.md, worked hash: the same line is on channel 2, subchannel 1, rank index 0, bank group 6, bank 1, row 0x907, column 1. -/
theorem test_place_of_line : placeOf hashed 0x90081C1 = ⟨2, 1, 6, 1, 0x907, 1, 0⟩ := by decide +kernel

/-- The search for the line of a place finds the line of the worked hash again. -/
theorem test_line_of_place : lineOf hashed 2 0 (placeOf hashed 0x90081C1).local_ = 0x90081C1 := by decide +kernel

/-- 06_caches_and_shelver.md, worked example: the line at 0x2_4010_5040 is in set 321 of slice 8. -/
theorem test_l3_set : l3Set 0x9004141 = 8 * 2048 + 321 := by decide +kernel

/-- 06_caches_and_shelver.md, worked example: H[2] with two ways and H[5] with four on CD[5] give the way map. -/
theorem test_way_map :
    (let s := { base with folio := { base.folio with hands := [⟨0, false, 0, 1, 0, 2, 0, []⟩, ⟨0, false, 2, 1, 2, 2, 0, []⟩, ⟨0, false, 5, 1, 4, 2, 0, []⟩] } }
     let s := wr s [(.FAB_HAND_CORES 2 1, 0xFF * 2 ^ 56), (.FAB_HAND_CORES 5 2, 0xFF * 2 ^ 8)]
     ((setWaymap s 5).rd (.SHV_WAYMAP 5 0), (setWaymap s 5).rd (.SHV_WAYMAP 5 1))) = (0xFFFFFFFFFFFFFFFF, 0x020205050505FFFF) := by decide +kernel

/-- 03_hands_and_deals.md, worked example: the gaps of the three hands of home slice 9. -/
theorem test_gaps_of_deal : (let deal := (List.range 1024).map (fun t => [0xFF, 1, 0xFF, 2, 0xFF, 1, 0xFF, 0].getD (t % 8) 0)
    (Bounds.gapOf deal 1, Bounds.gapOf deal 2, Bounds.gapOf deal 0)) = (some 4, some 8, some 8) := by decide +kernel

/-- 04_cores.md, worked example: the samples of the cell, and an element of 9,000 saturates. -/
theorem test_samples : (List.range 9).map (sample 0x3FFF000000000000000000000E001000) = [0x1000, 0xF800, 0, 0, 0, 0, 0, 0, 0xFFFF] ∧
    toS14 9000 = (8191, true) := by decide +kernel

/-- 04_cores.md, worked example: SMAC.VV of the nine elements with themselves. -/
theorem test_smac :
    (let v4 : LineData := BitVec.ofNat 512 (0xF8001000 + 0xFFFF * 2 ^ 128)
     let s := csrs 24 [(0x300, 0x200), (0xC21, 0x08), (0xC20, 9)] (cor 24 (fun k => { k with v := [(4, v4)] }))
     let t := nextOf (execSmacVv 24 0x0242200B s)
     (List.range 10).map (fun k => ((t.core 24).sacc.getD k 0).toInt)) = [16777216, 4194304, 0, 0, 0, 0, 0, 0, 1, 0] := by decide +kernel

/-- 13_tally_interrupts.md, worked example, steps 3, 7 and 8: a claim returns source 1,100 with priority 5 and tally 1; with 260 on top, the end of
1,100 is a mismatch, and the end of 260 returns the running priority to 5. -/
theorem test_claims :
    (let s := pt ((base.arrive 1100).arrive 1100)
       [(.TIC_ROUTE_ACT 1100, F.TIC_ROUTE_PRIORITY, 5), (.TIC_ROUTE_ACT 1100, F.TIC_ROUTE_TARGET, 0), (.TIC_EN_SET 17, ⟨63, 0⟩, 0x1000)]
     let t := nextOf (execTicClaim 0 0 ⟨10, 0⟩ s)
     let u := pt (t.arrive 260)
       [(.TIC_ROUTE_ACT 260, F.TIC_ROUTE_PRIORITY, 9), (.TIC_ROUTE_ACT 260, F.TIC_ROUTE_TARGET, 0), (.TIC_EN_SET 4, ⟨63, 0⟩, 0x10)]
     let v := nextOf (execTicClaim 0 0 ⟨11, 0⟩ u)
     (t.xreg 0 10, t.runningPrio 0, t.line 0, u.line 0, v.runningPrio 0,
      (nextOf (execTicEoi (.core 0) 0 1100 v)).bit .TIC_ERR F.TIC_ERR_EOI_MISMATCH, (nextOf (execTicEoi (.core 0) 0 260 v)).runningPrio 0)) =
    (BitVec.ofNat 64 (2 ^ 24 + 5 * 2 ^ 16 + 1100), 5, false, true, 9, true, 5) := by decide +kernel

/-- 14_archivist.md, worked example: MEASURE keeps words 2 to 7. -/
theorem test_measure_keep : keepRange 2 7 = 0x3F := by decide +kernel

/-- 18_pins_clocks_reset.md, worked example: straps of 2 give the management port the address 0x5A. -/
theorem test_static_address : staticAddr { base with mgmt := { base.mgmt with straps := 2 } } = 0x5A := by decide +kernel

/-- 00_scope.md: local core 5 on CD[11] is core 269; the block of die 15 begins at 0xF000_1F00_0000. -/
theorem test_addresses : (Reg.DL_STATUS 15).key / 0x1000000 = 0xF0001F ∧ (269 : Nat) / 24 = 11 ∧ (269 : Nat) % 24 = 5 := by decide +kernel

/-- R454, R459: a block's counter at its largest value wraps when one more event is counted: it reads zero, the sticky bit sets, and source 632
arrives; H[0] sets a count by a write. -/
theorem test_counter_wraps :
    (let s := ({ base with events := [(0x1038 * 65536 + 0x503, 2 ^ 48 - 1)] }).countBlk 56 0x0503 1
     let t := nextOf (execCounterWrap (.block 56) 0x503 s)
     ((nextOf (execCounterWrap (.block 56) 0x503 base)).bit (.CTR_BLK_OVF 56) ⟨2, 2⟩, (blockCount s 56 2).1, (blockCount t 56 2).1,
      t.bit (.CTR_BLK_OVF 56) ⟨2, 2⟩, t.tally 632, (blockCount (blockWrite t (.core 0) 56 2 9) 56 2).1)) =
    (false, 0, 0, true, 1, 9) := by decide +kernel
end

section
/-! SUPPORT. The activation table (R283): what counting one activation makes of it, the bound that it keeps, and that the steps of neighbour
refresh, copy and test leave it alone (O35). -/

namespace Sys2Proof.Machine

/-! ### Counting one activation -/

/-- The entry that a full table gives up: entry `i`, of row `j` and count `m`, is the first of smallest count. -/
structure ActVictim (t : List (Nat × Nat)) (i j m : Nat) : Prop where
  entry : t[i]? = some (j, m)
  least : ∀ e ∈ t, m ≤ e.2
  first : ∀ a e, a < i → t[a]? = some e → m < e.2

/-- The entry as it stands after one more activation of a listed row. -/
def actRise (k : Nat) (e : Nat × Nat) : Nat × Nat := if e.1 = k then (k, min (e.2 + 1) 0xFFFF) else e

theorem any_key_iff {t : List (Nat × Nat)} {k : Nat} : t.any (fun e => e.1 == k) = true ↔ ∃ e ∈ t, e.1 = k := by
  simp only [List.any_eq_true, beq_iff_eq]

theorem any_key_eq_false {t : List (Nat × Nat)} {k : Nat} (h : ∀ e ∈ t, e.1 ≠ k) : t.any (fun e => e.1 == k) = false := by
  simpa using h

theorem countAct_of_listed {t : List (Nat × Nat)} {k : Nat} (h : ∃ e ∈ t, e.1 = k) : countAct t k = t.map (actRise k) :=
  if_pos (any_key_iff.mpr h)

theorem mem_countAct_of_mem {t : List (Nat × Nat)} {k m : Nat} (h : (k, m) ∈ t) (hm : m < 0xFFFF) : (k, m + 1) ∈ countAct t k := by
  rw [countAct_of_listed ⟨_, h, rfl⟩]
  exact List.mem_map.mpr ⟨(k, m), h, by simp [actRise]; omega⟩

theorem length_countAct_of_listed {t : List (Nat × Nat)} {k : Nat} (h : ∃ e ∈ t, e.1 = k) : (countAct t k).length = t.length := by
  rw [countAct_of_listed h, List.length_map]

theorem countAct_of_free {t : List (Nat × Nat)} {k : Nat} (h : ∀ e ∈ t, e.1 ≠ k) (hlen : t.length < 4096) :
    countAct t k = t ++ [(k, 1)] := by
  simp only [countAct, any_key_eq_false h, hlen, if_true, Bool.false_eq_true, if_false]

/-- The fold of `countAct` finds the smallest count. -/
theorem foldl_min_eq {t : List (Nat × Nat)} {m a : Nat} (hle : ∀ e ∈ t, m ≤ e.2) (ha : m ≤ a)
    (hm : a = m ∨ ∃ e ∈ t, e.2 = m) : t.foldl (fun x e => min x e.2) a = m := by
  induction t generalizing a with
  | nil => simpa using hm
  | cons e t ih =>
    have he : m ≤ e.2 := hle e (by simp)
    have hstep : min a e.2 = m ∨ ∃ x ∈ t, x.2 = m := by
      rcases hm with rfl | ⟨x, hx, rfl⟩
      · exact .inl (min_eq_left he)
      · rcases List.mem_cons.mp hx with rfl | hx
        · exact .inl (min_eq_right ha)
        · exact .inr ⟨x, hx, rfl⟩
    exact ih (fun x hx => hle x (by simp [hx])) (le_min ha he) hstep

namespace ActVictim

variable {t : List (Nat × Nat)} {i j m : Nat}

theorem mem (v : ActVictim t i j m) : (j, m) ∈ t := List.mem_of_getElem? v.entry

theorem foldl_min (v : ActVictim t i j m) (hm : m ≤ 0xFFFF) : t.foldl (fun x e => min x e.2) 0xFFFF = m :=
  foldl_min_eq v.least hm (.inr ⟨(j, m), v.mem, rfl⟩)

theorem findIdx_eq (v : ActVictim t i j m) : t.findIdx (fun e => e.2 == m) = i := by
  obtain ⟨hi, hentry⟩ := List.getElem?_eq_some_iff.mp v.entry
  refine (List.findIdx_eq hi).mpr ⟨by simp [hentry], fun a ha => ?_⟩
  have hlt : m < t[a].2 := v.first a t[a] ha (by simp)
  simpa using hlt.ne'

theorem countAct_eq {k : Nat} (v : ActVictim t i j m) (h : ∀ e ∈ t, e.1 ≠ k) (hlen : 4096 ≤ t.length) (hm : m ≤ 0xFFFF) :
    countAct t k = t.set i (k, min (m + 1) 0xFFFF) := by
  simp only [countAct, any_key_eq_false h, hlen.not_gt, Bool.false_eq_true, if_false, v.foldl_min hm, v.findIdx_eq]

/-- Only the victim leaves the table when its place is taken. -/
theorem mem_set_of_ne {e y : Nat × Nat} (v : ActVictim t i j m) (he : e ∈ t) (hne : e ≠ (j, m)) : e ∈ t.set i y := by
  obtain ⟨a, ha⟩ := List.getElem?_of_mem he
  have hai : i ≠ a := by
    rintro rfl
    exact hne (Option.some.inj (ha.symm.trans v.entry))
  exact List.mem_of_getElem? ((List.getElem?_set_ne hai).trans ha)

/-- Every table with an entry has such an entry. -/
theorem exists_of_ne_nil (h : t ≠ []) : ∃ i j m, ActVictim t i j m := by
  classical
  obtain ⟨e, he, hleast⟩ := Set.exists_min_image {e | e ∈ t} Prod.snd (List.finite_toSet t) (List.exists_mem_of_ne_nil t h)
  have hpos : ∃ i j, t[i]? = some (j, e.2) := (List.getElem?_of_mem he).imp fun i hi => ⟨e.1, hi⟩
  obtain ⟨j, hj⟩ := Nat.find_spec hpos
  refine ⟨Nat.find hpos, j, e.2, hj, hleast, fun a x ha hx => (hleast x (List.mem_of_getElem? hx)).lt_of_ne fun heq => ?_⟩
  exact Nat.find_min hpos ha ⟨x.1, by rw [hx, heq]⟩

end ActVictim

/-! ### A row's count is never too low -/

/-- The bound on the activations of a row that a table carries: an entry is not below the activations `l` of its own row, nor below those
of a row without an entry, which has had none while an entry is free. Counts stop at 0xFFFF, so the bound does too. -/
structure ActBound (l : List Nat) (t : List (Nat × Nat)) : Prop where
  capped   : ∀ e ∈ t, e.2 ≤ 0xFFFF
  listed   : ∀ e ∈ t, min (l.count e.1) 0xFFFF ≤ e.2
  unlisted : ∀ k, (∀ e ∈ t, e.1 ≠ k) → ∀ e ∈ t, min (l.count k) 0xFFFF ≤ e.2
  unseen   : t.length < 4096 → ∀ k, (∀ e ∈ t, e.1 ≠ k) → l.count k = 0

theorem count_concat_self (l : List Nat) (k : Nat) : (l ++ [k]).count k = l.count k + 1 := by simp

theorem count_concat_of_ne {l : List Nat} {k x : Nat} (h : x ≠ k) : (l ++ [k]).count x = l.count x := by
  simp [List.count_append, h.symm]

namespace ActBound

theorem nil : ActBound [] [] := ⟨by simp, by simp, by simp, by simp⟩

variable {l : List Nat} {t : List (Nat × Nat)} {k : Nat}

theorem actRise_fst (e : Nat × Nat) : (actRise k e).1 = e.1 := by
  unfold actRise
  split <;> simp_all

theorem le_actRise_snd {e : Nat × Nat} (he : e.2 ≤ 0xFFFF) : e.2 ≤ (actRise k e).2 := by
  unfold actRise
  split
  · simp; omega
  · rfl

/-- A listed row rises. -/
theorem rise (b : ActBound l t) (h : ∃ e ∈ t, e.1 = k) : ActBound (l ++ [k]) (t.map (actRise k)) := by
  have hne : ∀ x, (∀ e ∈ t.map (actRise k), e.1 ≠ x) → (∀ e ∈ t, e.1 ≠ x) ∧ x ≠ k := by
    simp only [List.forall_mem_map, actRise_fst]
    intro x hx
    obtain ⟨e, he, rfl⟩ := h
    exact ⟨hx, (hx e he).symm⟩
  constructor
  · simp only [List.forall_mem_map]
    intro e he
    have := b.capped e he
    unfold actRise
    split <;> simp; omega
  · simp only [List.forall_mem_map, actRise_fst]
    intro e he
    by_cases hk : e.1 = k
    · have := b.listed e he
      simp only [actRise, hk, count_concat_self, if_true] at this ⊢
      omega
    · simpa [actRise, hk, count_concat_of_ne hk] using b.listed e he
  · intro x hx
    obtain ⟨hx, hxk⟩ := hne x hx
    simp only [List.forall_mem_map, count_concat_of_ne hxk]
    exact fun e he => (b.unlisted x hx e he).trans (le_actRise_snd (b.capped e he))
  · intro hlen x hx
    obtain ⟨hx, hxk⟩ := hne x hx
    rw [count_concat_of_ne hxk]
    exact b.unseen (by simpa using hlen) x hx

/-- A row takes a free entry: every row without one has had no activation. -/
theorem enter (b : ActBound l t) (h : ∀ e ∈ t, e.1 ≠ k) (hlen : t.length < 4096) : ActBound (l ++ [k]) (t ++ [(k, 1)]) := by
  have hzero : ∀ x, (∀ e ∈ t, e.1 ≠ x) → l.count x = 0 := b.unseen hlen
  have hne : ∀ x, (∀ e ∈ t ++ [(k, 1)], e.1 ≠ x) → (l ++ [k]).count x = 0 := by
    intro x hx
    have hxk : x ≠ k := (hx (k, 1) (by simp)).symm
    rw [count_concat_of_ne hxk]
    exact hzero x fun e he => hx e (by simp [he])
  constructor
  · rw [List.forall_mem_append]
    exact ⟨b.capped, by simp⟩
  · rw [List.forall_mem_append]
    refine ⟨fun e he => ?_, ?_⟩
    · rw [count_concat_of_ne (h e he)]
      exact b.listed e he
    · simp [hzero k h]
  · intro x hx e he
    simp [hne x hx]
  · exact fun _ => hne

/-- A row without an entry once row `k` has taken the victim's place is bounded by the victim's count. -/
theorem min_count_le_victim {i j m x : Nat} {y : Nat × Nat} (b : ActBound l t) (v : ActVictim t i j m)
    (hx : ∀ e ∈ t.set i y, e.1 ≠ x) : min (l.count x) 0xFFFF ≤ m := by
  by_cases hold : ∀ e ∈ t, e.1 ≠ x
  · exact b.unlisted x hold _ v.mem
  · push Not at hold
    obtain ⟨e, he, rfl⟩ := hold
    have hvictim : e = (j, m) := by
      by_contra hne
      exact hx e (v.mem_set_of_ne he hne) rfl
    simpa [hvictim] using b.listed e he

/-- A row takes the victim's place: it and the victim's row had at most the victim's count of activations. -/
theorem replace {i j m : Nat} (b : ActBound l t) (h : ∀ e ∈ t, e.1 ≠ k) (hlen : 4096 ≤ t.length) (v : ActVictim t i j m) :
    ActBound (l ++ [k]) (t.set i (k, min (m + 1) 0xFFFF)) := by
  have hm : m ≤ 0xFFFF := b.capped _ v.mem
  have hk : min (l.count k) 0xFFFF ≤ m := b.unlisted k h _ v.mem
  have hnew : (k, min (m + 1) 0xFFFF) ∈ t.set i (k, min (m + 1) 0xFFFF) :=
    List.mem_set (List.getElem?_eq_some_iff.mp v.entry).1 _
  have hset {P : Nat × Nat → Prop} (ht : ∀ e ∈ t, P e) (hP : P (k, min (m + 1) 0xFFFF)) :
      ∀ e ∈ t.set i (k, min (m + 1) 0xFFFF), P e := fun e he =>
    (List.mem_or_eq_of_mem_set he).elim (ht e) (fun heq => heq ▸ hP)
  constructor
  · exact hset b.capped (min_le_right ..)
  · refine hset (fun e he => ?_) ?_
    · rw [count_concat_of_ne (h e he)]
      exact b.listed e he
    · simp only [count_concat_self]
      omega
  · intro x hx
    have hxm := b.min_count_le_victim v hx
    rw [count_concat_of_ne (hx _ hnew).symm]
    exact hset (fun e he => hxm.trans (v.least e he)) (by dsimp only; omega)
  · intro hlt
    rw [List.length_set] at hlt
    exact absurd hlt hlen.not_gt

/-- Counting one activation keeps the bound. -/
theorem concat (b : ActBound l t) (k : Nat) : ActBound (l ++ [k]) (countAct t k) := by
  by_cases h : ∃ e ∈ t, e.1 = k
  · rw [countAct_of_listed h]
    exact b.rise h
  · push Not at h
    by_cases hlen : t.length < 4096
    · rw [countAct_of_free h hlen]
      exact b.enter h hlen
    · have hfull : 4096 ≤ t.length := Nat.le_of_not_lt hlen
      have hne : t ≠ [] := List.ne_nil_of_length_pos (by omega)
      obtain ⟨i, j, m, v⟩ := ActVictim.exists_of_ne_nil hne
      rw [v.countAct_eq h hfull (b.capped _ v.mem)]
      exact b.replace h hfull v

/-- From the empty table on, the bound holds after any activations. -/
theorem foldl_countAct (l : List Nat) : ActBound l (l.foldl countAct []) := by
  induction l using List.reverseRecOn with
  | nil => exact nil
  | append_singleton l k ih =>
    rw [List.foldl_concat]
    exact ih.concat k

/-- A count that has not reached its largest value is not too low. -/
theorem count_le_of_mem {m : Nat} (b : ActBound l t) (h : (k, m) ∈ t) (hm : m < 0xFFFF) : l.count k ≤ m := by
  have hmin : min (l.count k) 0xFFFF ≤ m := b.listed _ h
  omega

end ActBound

/-! ### What leaves the channels alone -/

/-- What every update of a repetition keeps, the repetition keeps. -/
theorem overAll_keeps {α β : Type} (g : State → β) {f : State → α → State} (h : ∀ s a, g (f s a) = g s) (l : List α) (s : State) :
    g (overAll l f s) = g s := by
  induction l generalizing s with
  | nil => rfl
  | cons a l ih => exact (ih (f s a)).trans (h s a)

namespace State

@[simp] theorem put_chans (s : State) (r : Reg) (f : Fld) (n : Nat) : (s.put r f n).chans = s.chans := rfl
@[simp] theorem inc_chans (s : State) (r : Reg) (f : Fld) : (s.inc r f).chans = s.chans := rfl
@[simp] theorem addSat_chans (s : State) (r : Reg) (f : Fld) (n : Nat) : (s.addSat r f n).chans = s.chans := rfl

@[simp] theorem sramWrite_chans (s : State) (st u i : Nat) : (sramWrite s st u i).chans = s.chans := by
  unfold sramWrite
  split <;> rfl

@[simp] theorem setTally_chans (s : State) (n v : Nat) : (s.setTally n v).chans = s.chans := by simp [setTally]

@[simp] theorem arrive_chans (s : State) (n : Nat) : (s.arrive n).chans = s.chans := by
  unfold arrive
  split_ifs <;> simp

@[simp] theorem overflowClass_chans (s : State) : s.overflowClass.chans = s.chans := by
  unfold overflowClass
  dsimp only
  split_ifs <;> simp

@[simp] theorem writeRecord_chans (s : State) (e : FaultEv) (v : Nat) : (s.writeRecord e v).chans = s.chans := by
  unfold writeRecord
  split_ifs <;> simp

@[simp] theorem noteFault_chans (s : State) (e : FaultEv) (v : Nat) : (s.noteFault e v).chans = s.chans := by
  unfold noteFault
  dsimp only
  split_ifs <;> simp

@[simp] theorem endSlip_chans (s : State) (f : FnId) (q n st r fl : Nat) : (s.endSlip f q n st r fl).chans = s.chans := by
  unfold endSlip
  dsimp only
  split
  · rfl
  · split_ifs <;> simp

@[simp] theorem abortIntakes_chans (s : State) (h : Nat) : (s.abortIntakes h).chans = s.chans := by
  refine overAll_keeps State.chans (fun s i => ?_) _ s
  split <;> simp

@[simp] theorem enterStopping_chans (s : State) (c : Nat) : (s.enterStopping c).chans = s.chans := rfl

@[simp] theorem handLoss_chans (s : State) (h : Nat) : (s.handLoss h).chans = s.chans := by
  unfold handLoss
  split
  · rfl
  · refine (overAll_keeps State.chans (fun s c => ?_) _ _).trans ?_
    · split <;> simp
    · dsimp only
      split
      · refine (overAll_keeps State.chans (fun s c => ?_) _ _).trans ?_
        · rfl
        · simp
      · simp

@[simp] theorem fault_chans (s : State) (e : FaultEv) : (s.fault e).chans = s.chans := by
  unfold fault
  split
  · split_ifs <;> simp
  · simp

@[simp] theorem raise_chans (s : State) (r : Reg) (b cls u : Nat) (hand : Option Nat) (sev addr : Nat) :
    (s.raise r b cls u hand sev addr).chans = s.chans := by simp [raise]

end State

/-! ### The steps that count no activation -/

namespace State

theorem chan_eq_of_chans {s t : State} (h : t.chans = s.chans) (n : Nat) : t.chan n = s.chan n := by rw [chan, h, chan]

@[simp] theorem chan_put (s : State) (r : Reg) (f : Fld) (v n : Nat) : (s.put r f v).chan n = s.chan n := rfl
@[simp] theorem chan_inc (s : State) (r : Reg) (f : Fld) (n : Nat) : (s.inc r f).chan n = s.chan n := rfl
@[simp] theorem chan_addSat (s : State) (r : Reg) (f : Fld) (v n : Nat) : (s.addSat r f v).chan n = s.chan n := rfl
@[simp] theorem chan_countBlk (s : State) (b e v n : Nat) : (s.countBlk b e v).chan n = s.chan n := rfl
@[simp] theorem chan_setDram (s : State) (d : Dram) (n : Nat) : State.chan { s with dram := d } n = s.chan n := rfl

end State

@[simp] theorem chan_setRankState (s : State) (m r v n : Nat) : (setRankState s m r v).chan n = s.chan n := rfl
@[simp] theorem chan_injectRaw (s : State) (m : Nat) (raw : BitVec 640) (n : Nat) : (injectRaw s m raw).2.chan n = s.chan n := rfl
@[simp] theorem chan_mcErr (s : State) (m b cls sev : Nat) (hand : Option Nat) (line n : Nat) :
    (mcErr s m b cls sev hand line).chan n = s.chan n := State.chan_eq_of_chans (State.raise_chans ..) n

@[simp] theorem act_keepBusy (s : State) (n b till : Nat) : ((keepBusy s n b till).chan n).act = (s.chan n).act := by
  simp [keepBusy]

/-- A command that is not a request's activation is not counted (R283). -/
theorem act_issued {m : MemCmd} (h : m.req = false) (s : State) (n : Nat) : ((issued s n m).chan n).act = (s.chan n).act := by
  cases hop : m.op with
  | refresh b => 
    simp only [issued, hop, h, Bool.false_eq_true, if_false, State.chan_put, State.chan_setChan_self]
    exact overAll_keeps (fun s => (s.chan n).act) (fun s g => act_keepBusy ..) _ s
  | _ => simp [issued, hop, h]

@[simp] theorem act_issued_rowCmd (s t : State) (n r loc : Nat) (op : MemOp) :
    ((issued t n (rowCmd s n r loc op)).chan n).act = (t.chan n).act := act_issued rfl t n

@[simp] theorem act_failRank (s : State) (n r : Nat) : ((failRank s n r).chan n).act = (s.chan n).act := by
  unfold failRank
  dsimp only
  rw [chan_mcErr, State.chan_put, chan_setRankState, State.chan_setChan_self]
  split_ifs <;> simp

@[simp] theorem act_mustRetire (s : State) (n r : Nat) : ((mustRetire s n r).chan n).act = (s.chan n).act := by
  unfold mustRetire
  dsimp only
  split_ifs <;> simp

@[simp] theorem act_noteRead (s : State) (n r line : Nat) (x : LineRead) : ((noteRead s n r line x).chan n).act = (s.chan n).act := by
  unfold noteRead
  dsimp only
  split_ifs <;> simp

@[simp] theorem chan_endCopy (s : State) (m n : Nat) : (endCopy s m).chan n = s.chan n := by
  unfold endCopy
  dsimp only
  split <;> rfl

theorem act_neighbourStep (s : State) (n sc : Nat) : ((neighbourStep s n sc).chan n).act = (s.chan n).act := by
  unfold neighbourStep
  dsimp only
  split
  · rfl
  · split_ifs
    · rw [State.chan_countBlk, State.chan_inc, act_issued rfl, State.chan_put, State.chan_setChan_self]
    · rw [act_issued rfl, State.chan_put, State.chan_setChan_self]

theorem act_copyStep (s : State) (n : Nat) : ((copyStep s n).chan n).act = (s.chan n).act := by
  unfold copyStep
  dsimp only
  split
  · simp
  · split_ifs <;> simp

theorem act_testStep (s : State) (n : Nat) (x : RankTest) : ((testStep s n x).chan n).act = (s.chan n).act := by
  unfold testStep
  dsimp only
  split <;> simp

theorem actTableClear_empties (n : Fin 16) (s : State) : ∃ t, exec (.actTableClear n) s = .next t ∧ (t.chan n).act = [] :=
  ⟨_, rfl, by simp⟩

/-- Settles O35: what `countAct` makes of a listed row, of a row that finds a free entry and of one that takes the victim's place; the bound
that these three cases keep; and the steps that count nothing. -/
theorem activationTable : Obligations.ActivationTable := by
  refine ⟨fun t k m h hm => ⟨mem_countAct_of_mem h hm, length_countAct_of_listed ⟨_, h, rfl⟩⟩, fun t k => countAct_of_free,
    fun t k i j m h hlen hentry hm hleast hfirst => ?_, fun l k m hcap h => ?_, fun n sc s => ?_, actTableClear_empties⟩
  · have v : ActVictim t i j m := ⟨hentry, hleast, hfirst⟩
    rw [v.countAct_eq h hlen hm.le, min_eq_left hm]
  · exact (ActBound.foldl_countAct l).count_le_of_mem h (hcap _ h)
  · exact ⟨act_neighbourStep s n sc, act_copyStep s n, act_testStep s n⟩

end Sys2Proof.Machine
end

section
/-! SUPPORT. The end of a claim (R380, R387): which registers a fault event leaves as they are, what a write of TIC_EOI does in each of its
cases, and that the statement O47 fails, for it speaks of every number of a stack register and not of the eight that there are. -/

namespace Sys2Proof.Machine

/-! ### Reads of fields and registers -/

theorem Fld.testBit_get (f : Fld) (w : Word) (i : Nat) :
    (f.get w).testBit i = (decide (i < f.hi - f.lo + 1) && w.getLsbD (f.lo + i)) := by
  rw [Fld.get, Nat.testBit_mod_two_pow, Nat.testBit_shiftRight, BitVec.testBit_toNat]

theorem Fld.get_lt (f : Fld) (w : Word) : f.get w < 2 ^ (f.hi - f.lo + 1) := Nat.mod_lt _ (Nat.two_pow_pos _)

theorem Fld.getLsbD_mask (f : Fld) (i : Nat) (hl : f.lo ≤ f.hi) :
    f.mask.getLsbD i = decide (i < 64 ∧ f.lo ≤ i ∧ i ≤ f.hi) := by
  rw [Fld.mask, BitVec.getLsbD_ofNat, Nat.testBit_shiftLeft, Nat.testBit_two_pow_sub_one]
  simp only [← Bool.decide_and, decide_eq_decide]
  omega

/-- A field reads as before after another field was put. -/
theorem Fld.get_put_of_disjoint (f g : Fld) (w : Word) (n : Nat) (hl : f.lo ≤ f.hi) (hd : g.hi < f.lo ∨ f.hi < g.lo)
    (hg : g.lo ≤ g.hi) : g.get (f.put w n) = g.get w := by
  refine Nat.eq_of_testBit_eq fun i => ?_
  rw [Fld.testBit_get, Fld.testBit_get]
  by_cases hi : i < g.hi - g.lo + 1
  · have hm : f.mask.getLsbD (g.lo + i) = false := by
      rw [f.getLsbD_mask _ hl, decide_eq_false_iff_not]
      omega
    rw [Fld.put, BitVec.getLsbD_or, BitVec.getLsbD_and, BitVec.getLsbD_and, BitVec.getLsbD_not, hm]
    by_cases h64 : g.lo + i < 64
    · simp [h64]
    · simp [BitVec.getLsbD_of_ge w _ (not_lt.mp h64)]
  · simp [hi]

/-- A field that lies above bit `b` reads as before after the bit was set. -/
theorem Fld.get_or_of_lt_lo (g : Fld) (w : Word) (b : Nat) (h : b < g.lo) :
    g.get (w ||| BitVec.ofNat 64 (2 ^ b)) = g.get w := by
  refine Nat.eq_of_testBit_eq fun i => ?_
  have hb : (2 ^ b).testBit (g.lo + i) = false := Nat.testBit_two_pow_of_ne (by omega)
  rw [Fld.testBit_get, Fld.testBit_get, BitVec.getLsbD_or, BitVec.getLsbD_ofNat, hb, Bool.and_false, Bool.or_false]

/-- A one-bit field reads one after its bit was set. -/
theorem Fld.get_or_self (w : Word) (b : Nat) (h : b < 64) : Fld.get ⟨b, b⟩ (w ||| BitVec.ofNat 64 (2 ^ b)) = 1 := by
  refine Nat.eq_of_testBit_eq fun i => ?_
  rw [Fld.testBit_get, BitVec.getLsbD_or, BitVec.getLsbD_ofNat]
  cases i with
  | zero => simp [h, Nat.testBit_two_pow_self]
  | succ i => simp [Nat.testBit_succ]

namespace State

@[simp] theorem rd_put_self (s : State) (r : Reg) (f : Fld) (n : Nat) : (s.put r f n).rd r = f.put (s.rd r) n := rd_wr_self ..

theorem rd_put_ne {r q : Reg} (h : q.key ≠ r.key) (s : State) (f : Fld) (n : Nat) : (s.put r f n).rd q = s.rd q :=
  rd_wr_ne _ _ _ _ h

theorem rd_inc_ne {r q : Reg} (h : q.key ≠ r.key) (s : State) (f : Fld) : (s.inc r f).rd q = s.rd q := rd_put_ne h ..

end State

/-! ### What a fault event leaves alone (R435, R437) -/

/-- A register that no fault event reaches by itself: it lies below the fault block and outside TIC_SAT and TIC_TALLY. -/
structure FaultKept (r : Reg) : Prop where
  below : r.key < 0xF00009000000
  tally : r.key < 0xF00006101000 ∨ 0xF00006112000 ≤ r.key

namespace FaultKept

variable {r : Reg} (h : FaultKept r)
include h

theorem ne_of_le {q : Reg} (hq : 0xF00009000000 ≤ q.key) : r.key ≠ q.key := (h.below.trans_le hq).ne

theorem ne_ticTally {k : Nat} (hk : k < 1024) : r.key ≠ (Reg.TIC_TALLY k).key := by
  have hkey : (Reg.TIC_TALLY k).key = 0xF00006110000 + k * 8 := rfl
  have := h.tally
  omega

theorem ne_ticSat {k : Nat} (hk : k < 128) : r.key ≠ (Reg.TIC_SAT k).key := by
  have hkey : (Reg.TIC_SAT k).key = 0xF00006101000 + k * 8 := rfl
  have := h.tally
  omega

theorem ne_fltClassCnt (k : Nat) : r.key ≠ (Reg.FLT_CLASS_CNT k).key := h.ne_of_le (by simp only [Reg.key]; omega)

theorem ne_fltRec (i j : Nat) : r.key ≠ (Reg.FLT_REC i j).key := h.ne_of_le (by simp only [Reg.key]; omega)

theorem rd_sramWrite (s : State) (st u i : Nat) : (sramWrite s st u i).rd r = s.rd r := by
  unfold sramWrite
  split
  · exact State.rd_put_ne (h.ne_of_le (by decide)) ..
  · rfl

theorem rd_setTally {n : Nat} (hn : n < 8192) (s : State) (v : Nat) : (s.setTally n v).rd r = s.rd r := by
  rw [State.setTally, h.rd_sramWrite, State.rd_put_ne (h.ne_ticTally (by omega))]

theorem rd_arrive (s : State) (n : Nat) : (s.arrive n).rd r = s.rd r := by
  by_cases hex : sourceExists n = true
  · have hn : n < 8192 := by
      rw [sourceExists, Bool.and_eq_true] at hex
      exact of_decide_eq_true hex.1
    unfold State.arrive
    rw [if_neg (by simp [hex])]
    split_ifs
    · exact h.rd_setTally hn ..
    · exact State.rd_wr_ne _ _ _ _ (h.ne_ticSat (by omega))
  · simp [State.arrive, hex]

theorem rd_overflowClass (s : State) : s.overflowClass.rd r = s.rd r := by
  unfold State.overflowClass
  dsimp only
  split_ifs
  · exact State.rd_inc_ne (h.ne_fltClassCnt _) ..
  · rw [h.rd_arrive, State.rd_inc_ne (h.ne_fltClassCnt _)]

theorem rd_writeRecord (s : State) (e : FaultEv) (v : Nat) : (s.writeRecord e v).rd r = s.rd r := by
  have hst : r.key ≠ Reg.FLT_STATUS.key := h.ne_of_le (by decide)
  have htl : r.key ≠ Reg.FLT_TAIL.key := h.ne_of_le (by decide)
  unfold State.writeRecord
  split_ifs
  · rw [h.rd_overflowClass, State.rd_put_ne hst, State.rd_inc_ne hst]
  · simp only [State.rd_put_ne hst, State.rd_put_ne htl, State.rd_wr_ne _ _ _ _ (h.ne_fltRec _ _)]

theorem rd_noteFault (s : State) (e : FaultEv) (v : Nat) : (s.noteFault e v).rd r = s.rd r := by
  unfold State.noteFault
  dsimp only
  split_ifs
  · rw [h.rd_writeRecord, State.rd_inc_ne (h.ne_fltClassCnt _)]
  · rw [h.rd_arrive, h.rd_writeRecord, State.rd_inc_ne (h.ne_fltClassCnt _)]

/-- A status bit set for no hand: the registers that a fault event keeps read as they do with the bit set. -/
theorem rd_raise (s : State) (q : Reg) (b cls u sev addr : Nat) :
    (s.raise q b cls u none sev addr).rd r = (s.wr q (s.rd q ||| BitVec.ofNat 64 (2 ^ b))).rd r := h.rd_noteFault ..

end FaultKept

theorem faultKept_ticErr : FaultKept .TIC_ERR := ⟨by decide, by decide⟩

theorem faultKept_ticCoreState (c : Fin 384) : FaultKept (.TIC_CORE_STATE c) := by
  constructor <;> simp only [Reg.key] <;> omega

theorem faultKept_ticStack (c : Fin 384) {k : Nat} (hk : k < 8) : FaultKept (.TIC_STACK c k) := by
  constructor <;> simp only [Reg.key] <;> omega

/-! ### Who may end a claim (R249, R380, R387) -/

theorem barred_of_notLedger {s : State} {who : Agent} (h : notLedger s who) (r : Reg) (act : Out) : barred s who r act = act := by
  cases who with
  | core c => simp [barred, h c rfl]
  | _ => rfl

theorem barred_of_bars {s : State} {w : Fin 384} {r : Reg} (h : bars s w r) (act : Out) :
    barred s (.core w) r act = barredWrite s w r := by
  obtain ⟨hledger, hmay⟩ := h
  simp [barred, hledger, hmay]

theorem barred_own_ticEoi (s : State) (c : Fin 384) (act : Out) : barred s (.core c) (.TIC_EOI c) act = act := by
  simp [barred, ledgerMay]

theorem exec_ticEoi_of_ne {who : Agent} {c : Fin 384} {s : State} (hne : who ≠ .core c) (hl : notLedger s who) (v : Word) :
    exec (.ticEoi who c v) s = .next s :=
  (barred_of_notLedger hl _ _).trans (if_pos hne)

theorem exec_ticEoi_of_bars {w c : Fin 384} {s : State} (h : bars s w (.TIC_EOI c)) (v : Word) :
    exec (.ticEoi (.core w) c v) s = barredWrite s w (.TIC_EOI c) :=
  barred_of_bars h _

/-! ### A write that ends no claim (R380) -/

/-- Bit `b` of TIC_ERR set for core `c`, with its class. -/
def ticEoiError (s : State) (c b : Nat) : State := (s.put .TIC_ERR F.TIC_ERR_CORE c).raise .TIC_ERR b 21 0x2600 none 1 0

theorem rd_ticErr_ticEoiError (s : State) (c b : Nat) :
    (ticEoiError s c b).rd .TIC_ERR = F.TIC_ERR_CORE.put (s.rd .TIC_ERR) c ||| BitVec.ofNat 64 (2 ^ b) := by
  rw [ticEoiError, faultKept_ticErr.rd_raise, State.rd_wr_self, State.rd_put_self]

theorem bit_ticEoiError (s : State) (c : Nat) {b : Nat} (hb : b < 64) : (ticEoiError s c b).bit .TIC_ERR ⟨b, b⟩ = true := by
  rw [State.bit, State.get, rd_ticErr_ticEoiError, Fld.get_or_self _ _ hb]
  rfl

theorem core_ticEoiError (s : State) (c : Fin 384) {b : Nat} (hb : b < 16) :
    (ticEoiError s c b).get .TIC_ERR F.TIC_ERR_CORE = c.val := by
  rw [State.get, rd_ticErr_ticEoiError, Fld.get_or_of_lt_lo _ _ _ hb, Fld.get_put_le _ _ _ (by decide) (by decide)]
  exact Nat.mod_eq_of_lt (c.isLt.trans (by decide))

theorem rd_ticEoiError_of_ne {r : Reg} (hk : FaultKept r) (hne : r.key ≠ Reg.TIC_ERR.key) (s : State) (c b : Nat) :
    (ticEoiError s c b).rd r = s.rd r := by
  rw [ticEoiError, hk.rd_raise, State.rd_wr_ne _ _ _ _ hne, State.rd_put_ne hne]

theorem ticCoreState_ne_ticErr (c : Fin 384) : (Reg.TIC_CORE_STATE c).key ≠ Reg.TIC_ERR.key := by
  simp only [Reg.key]
  omega

theorem ticStack_ne_ticErr (c : Fin 384) {k : Nat} (hk : k < 8) : (Reg.TIC_STACK c k).key ≠ Reg.TIC_ERR.key := by
  simp only [Reg.key]
  omega

theorem exec_ticEoi_of_empty {c : Fin 384} {s : State} (h : s.get (.TIC_CORE_STATE c) F.TIC_CORE_STATE_DEPTH = 0) (v : Word) :
    exec (.ticEoi (.core c) c v) s = .next (ticEoiError s c 0) := by
  refine (barred_own_ticEoi s c _).trans ?_
  simp [h, ticEoiError]

/-- What a write that ends no claim leaves: bit `b` of TIC_ERR set, CORE naming the core, and the context as it was. -/
structure EoiIgnored (s t : State) (c : Fin 384) (b : Nat) : Prop where
  bit : t.bit .TIC_ERR ⟨b, b⟩ = true
  core : t.get .TIC_ERR F.TIC_ERR_CORE = c.val
  stack : ∀ k < 8, t.rd (.TIC_STACK c k) = s.rd (.TIC_STACK c k)
  context : t.rd (.TIC_CORE_STATE c) = s.rd (.TIC_CORE_STATE c)

theorem eoiIgnored_ticEoiError (s : State) (c : Fin 384) {b : Nat} (hb : b < 16) : EoiIgnored s (ticEoiError s c b) c b where
  bit := bit_ticEoiError s c (hb.trans (by decide))
  core := core_ticEoiError s c hb
  stack _ hk := rd_ticEoiError_of_ne (faultKept_ticStack c hk) (ticStack_ne_ticErr c hk) ..
  context := rd_ticEoiError_of_ne (faultKept_ticCoreState c) (ticCoreState_ne_ticErr c) ..

/-! ### The end of a claim (R380) -/

section
variable {s : State} {c : Fin 384} {v : Word} {d : Nat}

theorem exec_ticEoi_of_mismatch (hd : s.get (.TIC_CORE_STATE c) F.TIC_CORE_STATE_DEPTH = d + 1)
    (hs : s.get (.TIC_STACK c (d / 2)) (F.TIC_STACK_SOURCE (d % 2)) ≠ F.TIC_EOI_SOURCE.get v) :
    exec (.ticEoi (.core c) c v) s = .next (ticEoiError s c 1) := by
  refine (barred_own_ticEoi s c _).trans ?_
  simp [hd, hs, ticEoiError]

/-- Entry `d` of the stack freed, the depth `d` and the running priority the saved one. -/
def ticEoiPopped (s : State) (c d : Nat) : State :=
  ((ticPop s c d).put (.TIC_CORE_STATE c) F.TIC_CORE_STATE_DEPTH d).put (.TIC_CORE_STATE c) F.TIC_CORE_STATE_RUNNING
    (s.get (.TIC_STACK c (d / 2)) (F.TIC_STACK_SAVED (d % 2)))

theorem exec_ticEoi_of_match (hd : s.get (.TIC_CORE_STATE c) F.TIC_CORE_STATE_DEPTH = d + 1)
    (hs : s.get (.TIC_STACK c (d / 2)) (F.TIC_STACK_SOURCE (d % 2)) = F.TIC_EOI_SOURCE.get v) :
    exec (.ticEoi (.core c) c v) s = .next (ticEoiPopped s c d) := by
  refine (barred_own_ticEoi s c _).trans ?_
  simp [hd, hs, ticEoiPopped]

end

theorem depth_ticEoiPopped (s : State) (c : Nat) {d : Nat} (hd : d < 32) :
    (ticEoiPopped s c d).get (.TIC_CORE_STATE c) F.TIC_CORE_STATE_DEPTH = d := by
  rw [ticEoiPopped, State.get, State.rd_put_self, Fld.get_put_of_disjoint _ _ _ _ (by decide) (by decide) (by decide),
    State.rd_put_self, Fld.get_put_le _ _ _ (by decide) (by decide)]
  exact Nat.mod_eq_of_lt hd

theorem runningPrio_ticEoiPopped (s : State) (c d : Nat) :
    (ticEoiPopped s c d).runningPrio c = s.get (.TIC_STACK c (d / 2)) (F.TIC_STACK_SAVED (d % 2)) := by
  have hwidth : 32 * (d % 2) + 19 - (32 * (d % 2) + 16) + 1 = 4 := by omega
  have hlt := (F.TIC_STACK_SAVED (d % 2)).get_lt (s.rd (.TIC_STACK c (d / 2)))
  rw [hwidth] at hlt
  rw [ticEoiPopped, State.runningPrio, State.get, State.rd_put_self, Fld.get_put_le _ _ _ (by decide) (by decide)]
  exact Nat.mod_eq_of_lt hlt

theorem valid_ticEoiPopped (s : State) (c d : Nat) :
    (ticEoiPopped s c d).get (.TIC_STACK c (d / 2)) (F.TIC_STACK_VALID (d % 2)) = 0 := by
  have hne : (Reg.TIC_STACK c (d / 2)).key ≠ (Reg.TIC_CORE_STATE c).key := by
    simp only [Reg.key]
    omega
  rw [ticEoiPopped, State.get, State.rd_put_ne hne, State.rd_put_ne hne, ticPop, State.rd_put_self,
    Fld.get_put_of_disjoint, State.rd_put_self, Fld.get_put_of_disjoint, State.rd_put_self, Fld.get_put_le, Nat.zero_mod]
  all_goals dsimp only; omega

theorem regsBut_ticEoiPopped (s : State) (c d : Nat) :
    regsBut s (ticEoiPopped s c d) [.TIC_STACK c (d / 2), .TIC_CORE_STATE c] := by
  intro r hr
  have hstack := hr (.TIC_STACK c (d / 2)) (by simp)
  have hcore := hr (.TIC_CORE_STATE c) (by simp)
  simp only [ticEoiPopped, ticPop, State.rd_put_ne hstack, State.rd_put_ne hcore]

/-- What the end of a claim leaves: entry `d` free, the stack of depth `d`, the saved priority running, and all else as it was. -/
structure EoiPopped (s t : State) (c : Fin 384) (d : Nat) : Prop where
  depth : t.get (.TIC_CORE_STATE c) F.TIC_CORE_STATE_DEPTH = d
  running : t.runningPrio c = s.get (.TIC_STACK c (d / 2)) (F.TIC_STACK_SAVED (d % 2))
  valid : t.get (.TIC_STACK c (d / 2)) (F.TIC_STACK_VALID (d % 2)) = 0
  regs : regsBut s t [.TIC_STACK c (d / 2), .TIC_CORE_STATE c]
  rest : t = { s with regs := t.regs }

theorem eoiPopped_ticEoiPopped (s : State) (c : Fin 384) {d : Nat} (hd : d < 32) : EoiPopped s (ticEoiPopped s c d) c d where
  depth := depth_ticEoiPopped s c hd
  running := runningPrio_ticEoiPopped s c d
  valid := valid_ticEoiPopped s c d
  regs := regsBut_ticEoiPopped s c d
  rest := rfl

/-- The three outcomes of R380 for core `c`: an empty stack, another source on top, and the source on top. -/
theorem exec_ticEoi_own_cases (c : Fin 384) (v : Word) (s : State) :
    ∃ t, exec (.ticEoi (.core c) c v) s = .next t ∧
      ((s.get (.TIC_CORE_STATE c) F.TIC_CORE_STATE_DEPTH = 0 ∧ EoiIgnored s t c 0) ∨
       ∃ d, s.get (.TIC_CORE_STATE c) F.TIC_CORE_STATE_DEPTH = d + 1 ∧
        ((s.get (.TIC_STACK c (d / 2)) (F.TIC_STACK_SOURCE (d % 2)) ≠ F.TIC_EOI_SOURCE.get v ∧ EoiIgnored s t c 1) ∨
         (s.get (.TIC_STACK c (d / 2)) (F.TIC_STACK_SOURCE (d % 2)) = F.TIC_EOI_SOURCE.get v ∧ EoiPopped s t c d))) := by
  cases hdepth : s.get (.TIC_CORE_STATE c) F.TIC_CORE_STATE_DEPTH with
  | zero => exact ⟨_, exec_ticEoi_of_empty hdepth v, .inl ⟨rfl, eoiIgnored_ticEoiError s c (by decide)⟩⟩
  | succ d =>
    by_cases hs : s.get (.TIC_STACK c (d / 2)) (F.TIC_STACK_SOURCE (d % 2)) = F.TIC_EOI_SOURCE.get v
    · have hd : d < 32 := by
        have hlt : d + 1 < 2 ^ 5 := hdepth ▸ Fld.get_lt F.TIC_CORE_STATE_DEPTH _
        omega
      exact ⟨_, exec_ticEoi_of_match hdepth hs, .inr ⟨d, rfl, .inr ⟨hs, eoiPopped_ticEoiPopped s c hd⟩⟩⟩
    · exact ⟨_, exec_ticEoi_of_mismatch hdepth hs, .inr ⟨d, rfl, .inl ⟨hs, eoiIgnored_ticEoiError s c (by decide)⟩⟩⟩

/-! ### The statement O47 -/

/-- Number 0x1FFF8 of core 0's stack registers, far past its eight, has the address of TIC_ERR. -/
theorem rd_ticStack_far_eq (s : State) : s.rd (.TIC_STACK 0 0x1FFF8) = s.rd .TIC_ERR := by
  have hkey : (Reg.TIC_STACK 0 0x1FFF8).key = Reg.TIC_ERR.key := rfl
  have hreset : (Reg.TIC_STACK 0 0x1FFF8).reset = Reg.TIC_ERR.reset := by decide
  rw [State.rd, State.rd, hkey, hreset]

/-- Refutes O47: after reset the stack of core 0 is empty, and a write of its TIC_EOI sets EOI_EMPTY. The statement also says that no
TIC_STACK register of core 0 changes, whatever its number `k`; but number 0x1FFF8 is at the address of TIC_ERR.
Of the eight registers that there are it holds: `exec_ticEoi_own_cases`. -/
theorem not_tallyEnd : ¬ Obligations.TallyEnd := by
  unfold Obligations.TallyEnd
  rintro ⟨-, hempty, -⟩
  obtain ⟨t, -, hbit, -, hstack, -⟩ := hempty 0 0 State.reset (by decide)
  have herr : t.rd .TIC_ERR = State.reset.rd .TIC_ERR := by
    rw [← rd_ticStack_far_eq, ← rd_ticStack_far_eq]
    exact hstack 0x1FFF8
  rw [State.bit, State.get, herr] at hbit
  exact absurd hbit (by decide)

end Sys2Proof.Machine
end

section
/-! SUPPORT. The test-access port (R476 to R478) and the lands that boundary scan drives (R479): what each command of the port loads, which
instruction is then in effect, and what a land shows where boundary scan does not drive it. The lands of a channel stand together in the
model's order (log entry 69). -/

namespace Sys2Proof.Machine

/-! ### The commands of the port (R476) -/

@[simp] theorem exec_tapReset (s : State) : exec .tapReset s = .next (loadIr s 1) := rfl
@[simp] theorem exec_extest (s : State) : exec .extest s = .next (loadIr s 0) := rfl
@[simp] theorem exec_clamp (s : State) : exec .clamp s = .next (loadIr s 4) := rfl
@[simp] theorem exec_highz (s : State) : exec .highz s = .next (loadIr s 5) := rfl
@[simp] theorem exec_bypass (s : State) : exec .bypass s = .next (loadIr s 0xFF) := rfl

theorem loadIr_of_stby {s : State} (h : s.mgmt.stby = true) (code : BitVec 8) :
    loadIr s code = { s with tap := { s.tap with ir := code } } := if_pos h

theorem loadIr_of_not_stby {s : State} (h : s.mgmt.stby = false) (code : BitVec 8) : loadIr s code = s :=
  if_neg (by simp [h])

theorem exec_idcode_of_stby {s : State} (h : s.mgmt.stby = true) : exec .idcode s = .next ((loadIr s 1).emit (.tdo idBits)) :=
  congrArg Host.Outcome.next (if_pos h)

theorem exec_idcode_of_not_stby {s : State} (h : s.mgmt.stby = false) : exec .idcode s = .next s :=
  congrArg Host.Outcome.next (if_neg (by simp [h]))

theorem exec_samplePreload_of_stby {s : State} (h : s.mgmt.stby = true) (a b : List Bool) :
    exec (.samplePreload a b) s = .next ({ s with tap := ⟨2, cells b⟩ }.emit (.tdo (cells a))) := by
  change execSamplePreload a b s = _
  simp [execSamplePreload, h, loadIr_of_stby h]

theorem exec_samplePreload_of_not_stby {s : State} (h : s.mgmt.stby = false) (a b : List Bool) :
    exec (.samplePreload a b) s = .next s := if_pos (by simp [h])

theorem length_idBits : idBits.length = 32 := by simp [idBits]

theorem getElem?_idBits {i : Nat} (h : i < 32) : idBits[i]? = some ((0x10384DEB : BitVec 32).getLsbD i) := by
  simp [idBits, h]

/-! ### The instruction in effect (R478) -/

theorem scanAllowed_eq_false {s : State} (h : s.mgmt.inReset = false ∨ s.mgmt.main = false) : scanAllowed s = false := by
  rw [scanAllowed, Bool.and_eq_false_iff]
  exact h

/-- EXTEST, CLAMP and HIGHZ: in effect where scan is allowed, otherwise BYPASS. -/
theorem tapEffect_of_scan {s : State} (h : s.tap.ir = 0 ∨ s.tap.ir = 4 ∨ s.tap.ir = 5) :
    tapEffect s = if scanAllowed s then s.tap.ir else 0xFF := if_pos h

/-- Where scan is not allowed, the instruction in effect drives no land. -/
theorem tapEffect_ne_of_not_scanAllowed {s : State} (h : scanAllowed s = false) :
    tapEffect s ≠ 5 ∧ ¬ (tapEffect s = 0 ∨ tapEffect s = 4) := by
  unfold tapEffect
  dsimp only
  split_ifs with hscan hallowed hread
  · simp [h] at hallowed
  · decide
  · rcases hread with hir | hir <;> rw [hir] <;> decide
  · decide

/-! ### The lands (R478, R479) -/

theorem landLevel_of_not_stby {s : State} (h : s.mgmt.stby = false) (i : Nat) : landLevel s i = .float := if_pos (by simp [h])

/-- With standby power, and where scan is not allowed, a land shows what the S384 itself gives it. -/
theorem landLevel_eq_ownLevel {s : State} (hs : s.mgmt.stby = true) (h : scanAllowed s = false) (i : Nat) :
    landLevel s i = ownLevel s i := by
  obtain ⟨hhighz, hdrive⟩ := tapEffect_ne_of_not_scanAllowed h
  simp only [landLevel, hs, not_true, hhighz, hdrive, if_false]

theorem memLevel_of_not_main {s : State} (h : s.mgmt.main = false) (n : Nat) : memLevel s n = .float := if_pos (by simp [h])

theorem memLevel_of_main {s : State} (hm : s.mgmt.main = true) (hr : s.mgmt.inReset = false) (n : Nat) :
    memLevel s n = if blockState s n = 3 then .float else if blockState s n = 2 then .held else .driven := by
  rw [memLevel, if_neg (by simp [hm, hr])]
  split
  case h_1 h => rw [if_pos h]
  case h_2 h => simp [h]
  case h_3 h3 h2 => rw [if_neg h3, if_neg h2]

theorem ownLevel_of_channel (s : State) {i : Nat} (h : i < 2704) :
    ownLevel s i = if i % 169 < 166 then memLevel s (i / 169) else .float := if_pos h

/-- The MEM_* lands of channel `n`: the first 166 of its 169. -/
theorem ownLevel_mem (s : State) {n k : Nat} (hn : n < 16) (hk : k < 166) : ownLevel s (169 * n + k) = memLevel s n := by
  have hdiv : (169 * n + k) / 169 = n := by omega
  rw [ownLevel_of_channel s (by omega), if_pos (by omega), hdiv]

theorem ownLevel_landCdPwr (s : State) {d : Nat} (hd : d < 16) :
    ownLevel s (landCdPwr d) = Level.of (!s.mgmt.inReset && railOn s d) := by
  have hsub : 2748 + d - 2748 = d := Nat.add_sub_cancel_left ..
  rw [landCdPwr, ownLevel, if_neg (by omega), if_neg (by omega), if_neg (by omega), if_neg (by omega), if_pos (by omega), hsub]

theorem railOn_eq_false_iff (s : State) (d : Nat) :
    railOn s d = false ↔ s.get (.SCK_DIE d) F.SCK_DIE_STATE = 3 ∧ (s.die d).wake = none := by
  simp [railOn]

/-! ### The statement O53 -/

theorem landLevel_channel_of_not_main {s : State} (h : s.mgmt.main = false) {i : Nat} (hi : i < 2704) : landLevel s i = .float := by
  cases hs : s.mgmt.stby with
  | false => exact landLevel_of_not_stby hs i
  | true =>
    rw [landLevel_eq_ownLevel hs (scanAllowed_eq_false (.inr h)), ownLevel_of_channel s hi, memLevel_of_not_main h, ite_self]

theorem landLevel_landCdPwr {s : State} (hs : s.mgmt.stby = true) (hr : s.mgmt.inReset = false) {d : Nat} (hd : d < 16) :
    landLevel s (landCdPwr d) =
      if s.get (.SCK_DIE d) F.SCK_DIE_STATE = 3 ∧ (s.die d).wake = none then .low else .high := by
  rw [landLevel_eq_ownLevel hs (scanAllowed_eq_false (.inl hr)), ownLevel_landCdPwr s hd, hr]
  simp only [← railOn_eq_false_iff]
  cases railOn s d <;> rfl

/-- Settles O53: what each command loads and shifts out, the instruction in effect where scan is allowed and where it is not, and the
lands, which show the S384's own levels where scan is not allowed. -/
theorem testAccess : Obligations.TestAccess := by
  refine ⟨fun s h e he => ?_, fun s h => ?_, fun a b s h => exec_samplePreload_of_stby h a b, fun a b s h i hi => ?_, length_idBits,
    fun i => getElem?_idBits i.isLt, fun s h hir => ?_, fun s => scanAllowed_eq_false, fun s h hir => ?_,
    fun s i h hi => landLevel_channel_of_not_main h hi, fun s n k hs hm hr hk => ?_, fun s d hs hr => landLevel_landCdPwr hs hr d.isLt⟩
  · rw [← loadIr_of_stby h]
    simp only [List.mem_cons, List.not_mem_nil, or_false] at he
    rcases he with rfl | rfl | rfl | rfl | rfl <;> simp
  · rw [exec_idcode_of_stby h, loadIr_of_stby h, State.emit]
  · simp only [List.mem_cons, List.not_mem_nil, or_false] at hi
    rcases hi with rfl | rfl | rfl | rfl | rfl | rfl | rfl <;>
      simp [loadIr_of_not_stby h, exec_idcode_of_not_stby h, exec_samplePreload_of_not_stby h]
  · simp [tapEffect_of_scan hir, h]
  · simp [tapEffect_of_scan hir, h]
  · rw [landLevel_eq_ownLevel hs (scanAllowed_eq_false (.inl hr)), ownLevel_mem s n.isLt hk, memLevel_of_main hm hr]

end Sys2Proof.Machine
end

section
/-! SUPPORT. Most commands store no line of memory: one lemma per function of the model says that it leaves the queue of commands and the
stored lines as they are (O57, O58, O59). -/

namespace Sys2Proof.Machine

/-- What a command that stores no line of memory leaves as it was: the queue of commands and the memory. -/
def State.kept (s : State) : List Instr × Dram := (s.pending, s.dram)

@[simp] theorem pending_dram_eq (s : State) : (s.pending, s.dram) = s.kept := rfl

@[simp] theorem kept_mk (c fr rg fo lk po sl di co ch pt fn q le dr io ob fl ar mg tp pw ht ev ou pe) :
    State.kept (State.mk c fr rg fo lk po sl di co ch pt fn q le dr io ob fl ar mg tp pw ht ev ou pe) = (pe, dr) := rfl

@[simp] theorem kept_ite (c : Prop) [Decidable c] (s t : State) : (if c then s else t).kept = if c then s.kept else t.kept :=
  apply_ite ..

@[simp] theorem kept_ite_snd {α : Type} (c : Prop) [Decidable c] (p q : α × State) :
    (if c then p else q).2.kept = if c then p.2.kept else q.2.kept := by split <;> rfl

/-- The answer to a command is a next state with the commands and the memory of `s`. -/
def keeps (s : State) (o : Out) : Prop := ∃ t, o = .next t ∧ t.kept = s.kept

@[simp] theorem keeps_next (s t : State) : keeps s (.next t) ↔ t.kept = s.kept := by simp [keeps]

@[simp] theorem keeps_ite (s : State) (c : Prop) [Decidable c] (o p : Out) :
    keeps s (if c then o else p) ↔ if c then keeps s o else keeps s p := by split <;> rfl

/-! ### Machine/Ops -/

@[simp] theorem kept_overAll {α : Type} (l : List α) (f : State → α → State) (s : State) (h : ∀ s a, (f s a).kept = s.kept) :
    (overAll l f s).kept = s.kept := by
  induction l generalizing s with
  | nil => rfl
  | cons a l ih => exact (ih _).trans (h s a)

theorem kept_foldl_snd {α β : Type} (l : List α) (f : β × State → α → β × State) (r : β × State)
    (h : ∀ r a, (f r a).2.kept = r.2.kept) : (l.foldl f r).2.kept = r.2.kept := by
  induction l generalizing r with
  | nil => rfl
  | cons a l ih => exact (ih _).trans (h r a)

theorem kept_snd {α : Type} {p : α × State} {a : α} {t : State} (h : p = (a, t)) : t.kept = p.2.kept := by rw [h]

@[simp] theorem kept_foldl {α : Type} (l : List α) (f : State → α → State) (s : State) (h : ∀ s a, (f s a).kept = s.kept) :
    (l.foldl f s).kept = s.kept := kept_overAll l f s h

@[simp] theorem kept_wr (s : State) (r : Reg) (w : Word) : (State.wr s r w).kept = s.kept := by simp [State.wr]

@[simp] theorem kept_clr (s : State) (r : Reg) : (State.clr s r).kept = s.kept := by simp [State.clr]

@[simp] theorem kept_put (s : State) (r : Reg) (f : Fld) (n : ℕ) : (State.put s r f n).kept = s.kept := by simp [State.put]

@[simp] theorem kept_addSat (s : State) (r : Reg) (f : Fld) (n : ℕ) : (State.addSat s r f n).kept = s.kept := by simp [State.addSat]

@[simp] theorem kept_inc (s : State) (r : Reg) (f : Fld) : (State.inc s r f).kept = s.kept := by simp [State.inc]

@[simp] theorem kept_fresh (s : State) : (State.fresh s).2.kept = s.kept := by simp [State.fresh]

@[simp] theorem kept_countEv (s : State) (u : ℕ) (ev : ℕ) (n : ℕ) : (State.countEv s u ev n).kept = s.kept := by simp [State.countEv]

@[simp] theorem kept_countBlk (s : State) (b : ℕ) (ev : ℕ) (n : ℕ) : (State.countBlk s b ev n).kept = s.kept := by simp [State.countBlk]

@[simp] theorem kept_setLink (s : State) (d : ℕ) (r : Dir) (l : Link) : (State.setLink s d r l).kept = s.kept := by simp [State.setLink]

@[simp] theorem kept_setPoint (s : State) (p : ℕ) (x : Point) : (State.setPoint s p x).kept = s.kept := by simp [State.setPoint]

@[simp] theorem kept_setSlice (s : State) (n : ℕ) (x : Slice) : (State.setSlice s n x).kept = s.kept := by simp [State.setSlice]

@[simp] theorem kept_setDie (s : State) (d : ℕ) (x : Die) : (State.setDie s d x).kept = s.kept := by simp [State.setDie]

@[simp] theorem kept_setCore (s : State) (c : ℕ) (x : Core) : (State.setCore s c x).kept = s.kept := by simp [State.setCore]

@[simp] theorem kept_setChan (s : State) (n : ℕ) (x : Chan) : (State.setChan s n x).kept = s.kept := by simp [State.setChan]

@[simp] theorem kept_setPort (s : State) (p : ℕ) (x : Port) : (State.setPort s p x).kept = s.kept := by simp [State.setPort]

@[simp] theorem kept_setFn (s : State) (f : FnId) (x : Fn) : (State.setFn s f x).kept = s.kept := by simp [State.setFn]

@[simp] theorem kept_setQueue (s : State) (f : FnId) (q : ℕ) (x : Queue) :
    (State.setQueue s f q x).kept = s.kept := by simp [State.setQueue]

@[simp] theorem kept_setLedger (s : State) (h : ℕ) (x : Ledger) : (State.setLedger s h x).kept = s.kept := by simp [State.setLedger]

@[simp] theorem kept_emit (s : State) (o : Outward) : (State.emit s o).kept = s.kept := by simp [State.emit]

@[simp] theorem kept_sramWrite (s : State) (st : ℕ) (unit : ℕ) (idx : ℕ) : (sramWrite s st unit idx).kept = s.kept := by simp [sramWrite]

@[simp] theorem kept_sramClear (s : State) (st : ℕ) (unit : ℕ) (idx : ℕ) : (sramClear s st unit idx).kept = s.kept := by simp [sramClear]

@[simp] theorem kept_setCoreState (s : State) (c : ℕ) (n : ℕ) : (State.setCoreState s c n).kept = s.kept := by simp [State.setCoreState]

@[simp] theorem kept_setTally (s : State) (n : ℕ) (v : ℕ) : (State.setTally s n v).kept = s.kept := by simp [State.setTally]

@[simp] theorem kept_arrive (s : State) (n : ℕ) : (State.arrive s n).kept = s.kept := by simp [State.arrive]

@[simp] theorem kept_overflowClass (s : State) : (State.overflowClass s).kept = s.kept := by simp [State.overflowClass]

@[simp] theorem kept_writeRecord (s : State) (e : FaultEv) (sev : ℕ) :
    (State.writeRecord s e sev).kept = s.kept := by simp [State.writeRecord]

@[simp] theorem kept_noteFault (s : State) (e : FaultEv) (sev : ℕ) : (State.noteFault s e sev).kept = s.kept := by simp [State.noteFault]

@[simp] theorem kept_endSlip (s : State) (f : FnId) (q : ℕ) (seq : ℕ) (status : ℕ) (result : ℕ) (flags : ℕ) :
    (State.endSlip s f q seq status result flags).kept = s.kept := by
  unfold State.endSlip
  dsimp only
  split <;> simp

theorem kept_abortIntakes_post (s : State) (i : Intake) : (match i.posted with
    | some (f, q, seq, _) => s.endSlip f q seq 0x10 i.seq 0
    | none => s).kept = s.kept := by
  split <;> simp

@[simp] theorem kept_abortIntakes (s : State) (h : Nat) : (s.abortIntakes h).kept = s.kept :=
  kept_overAll _ _ _ kept_abortIntakes_post

@[simp] theorem kept_enterStopping (s : State) (c : ℕ) : (State.enterStopping s c).kept = s.kept := by simp [State.enterStopping]

@[simp] theorem kept_handLoss (s : State) (h : ℕ) : (State.handLoss s h).kept = s.kept := by simp [State.handLoss]

@[simp] theorem kept_fault (s : State) (e : FaultEv) : (State.fault s e).kept = s.kept := by
  unfold State.fault
  split <;> simp

@[simp] theorem kept_raise (s : State) (r : Reg) (b : ℕ) (cls : ℕ) (unit : ℕ) (hand : Option ℕ) (sev : ℕ) (addr : ℕ) :
    (State.raise s r b cls unit hand sev addr).kept = s.kept := by simp [State.raise]

@[simp] theorem kept_iodSram (s : State) (st : ℕ) (unit : ℕ) (idx : ℕ) : (State.iodSram s st unit idx).2.kept = s.kept := by
  unfold State.iodSram
  split <;> simp

@[simp] theorem kept_send (s : State) (p : ℕ) (q : ℕ) (m : Msg) : (State.send s p q m).kept = s.kept := by simp [State.send]

@[simp] theorem kept_setCsr (s : State) (c : ℕ) (n : ℕ) (w : Word) : (State.setCsr s c n w).kept = s.kept := by simp [State.setCsr]

@[simp] theorem kept_setX (s : State) (c : ℕ) (r : ℕ) (w : Word) : (State.setX s c r w).kept = s.kept := by simp [State.setX]

@[simp] theorem kept_endQuantum (s : State) (c : ℕ) (code : ℕ) : (State.endQuantum s c code).kept = s.kept := by simp [State.endQuantum]

@[simp] theorem kept_retire (s : State) (c : ℕ) (len : ℕ) : (State.retire s c len).kept = s.kept := by simp [State.retire]

/-! ### Machine/Message -/

@[simp] theorem kept_mgmtSend (s : State) (p : ℕ) (q : ℕ) : (mgmtSend s p q).kept = s.kept := by simp [mgmtSend]

/-! ### Machine/Trap -/

@[simp] theorem kept_trapM (s : State) (c : ℕ) (isInt : Bool) (cause : ℕ) (tval : Word) :
    (trapM s c isInt cause tval).kept = s.kept := by simp [trapM]

@[simp] theorem kept_trapS (s : State) (c : ℕ) (isInt : Bool) (cause : ℕ) (tval : Word) :
    (trapS s c isInt cause tval).kept = s.kept := by simp [trapS]

@[simp] theorem kept_trapVs (s : State) (c : ℕ) (isInt : Bool) (cause : ℕ) (tval : Word) :
    (trapVs s c isInt cause tval).kept = s.kept := by simp [trapVs]

@[simp] theorem kept_trap (s : State) (c : ℕ) (cause : ℕ) (tval : Word) : (trap s c cause tval).kept = s.kept := by simp [trap]

@[simp] theorem kept_illegal (s : State) (c : ℕ) (w : Word) : (illegal s c w).kept = s.kept := by simp [illegal]

@[simp] theorem kept_takeInterrupt (s : State) (c : ℕ) : (takeInterrupt s c).kept = s.kept := by
  unfold takeInterrupt
  split <;> simp

@[simp] theorem kept_setMip (s : State) (c : ℕ) (i : ℕ) (b : Bool) : (setMip s c i b).kept = s.kept := by simp [setMip]

@[simp] theorem kept_ledgerAccess (s : State) (c : ℕ) (va : Word) : (ledgerAccess s c va).kept = s.kept := by simp [ledgerAccess]

theorem keeps_barred {s : State} {act : Out} (who : Agent) (r : Reg) (h : keeps s act) : keeps s (barred s who r act) := by
  unfold barred
  split
  · split
    · simp
    · exact h
  · exact h

@[simp] theorem kept_dirtyField (s : State) (c : ℕ) (f : Fld) : (dirtyField s c f).kept = s.kept := by simp [dirtyField]

@[simp] theorem kept_dirtyFs (s : State) (c : ℕ) : (dirtyFs s c).kept = s.kept := by simp [dirtyFs]

@[simp] theorem kept_dirtyVs (s : State) (c : ℕ) : (dirtyVs s c).kept = s.kept := by simp [dirtyVs]

@[simp] theorem kept_setVreg (s : State) (c : ℕ) (r : ℕ) (v : LineData) : (setVreg s c r v).kept = s.kept := by simp [setVreg]

/-! ### Machine/Tally -/

@[simp] theorem keeps_execTicEnSetWrite (who : Agent) (k : Fin 128) (v : Word) (s : State) : keeps s (execTicEnSetWrite who k v s) :=
  keeps_barred _ _ (by simp)

@[simp] theorem keeps_execTicEnClrWrite (who : Agent) (k : Fin 128) (v : Word) (s : State) : keeps s (execTicEnClrWrite who k v s) :=
  keeps_barred _ _ (by simp)

@[simp] theorem keeps_execTicPendSetWrite (who : Agent) (k : Fin 128) (v : Word) (s : State) : keeps s (execTicPendSetWrite who k v s) :=
  keeps_barred _ _ (by simp)

@[simp] theorem keeps_execTicPendClrWrite (who : Agent) (k : Fin 128) (v : Word) (s : State) : keeps s (execTicPendClrWrite who k v s) :=
  keeps_barred _ _ (by simp)

@[simp] theorem kept_ticPush (s : State) (c : ℕ) (e : ℕ) (saved : ℕ) (src : ℕ) :
    (ticPush s c e saved src).kept = s.kept := by simp [ticPush]

@[simp] theorem kept_ticPop (s : State) (c : ℕ) (e : ℕ) : (ticPop s c e).kept = s.kept := by simp [ticPop]

@[simp] theorem kept_tallyCheck (s : State) (n : ℕ) : (tallyCheck s n).kept = s.kept := by simp [tallyCheck]

@[simp] theorem kept_claim (s : State) (c : ℕ) : (claim s c).2.kept = s.kept := by
  unfold claim
  dsimp only
  repeat' split
  all_goals simp

@[simp] theorem kept_voidInt (s : State) (c : ℕ) : (voidInt s c).kept = s.kept := by
  unfold voidInt
  split <;> simp

@[simp] theorem keeps_execTicClaim (who : Fin 384) (c : Fin 384) (o : ClaimOp) (s : State) :
    keeps s (execTicClaim who c o s) := by simp [execTicClaim]

@[simp] theorem keeps_execTicEoi (who : Agent) (c : Fin 384) (v : Word) (s : State) : keeps s (execTicEoi who c v s) :=
  keeps_barred _ _ (by simp)

@[simp] theorem kept_shadowDenied (s : State) : (shadowDenied s).kept = s.kept := by simp [shadowDenied]

@[simp] theorem keeps_execTicRouteWrite (who : Agent) (src : Fin 8192) (v : Word) (s : State) : keeps s (execTicRouteWrite who src v s) :=
  keeps_barred _ _ (by simp)

@[simp] theorem keeps_execTallyLineDeliver (c : Fin 384) (s : State) : keeps s (execTallyLineDeliver c s) := by simp [execTallyLineDeliver]

/-! ### Machine/Fabric -/

@[simp] theorem kept_preempt (s : State) (p : ℕ) (q : ℕ) : (preempt s p q).kept = s.kept := by simp [preempt]

@[simp] theorem kept_expireGrant (s : State) (p : ℕ) : (expireGrant s p).kept = s.kept := by
  unfold expireGrant
  dsimp only
  split <;> simp

@[simp] theorem kept_cutOff (s : State) (p : ℕ) : (cutOff s p).kept = s.kept := by
  unfold cutOff
  dsimp only
  split <;> simp

@[simp] theorem kept_countPick (s : State) (p : ℕ) (pk : Pick) : (countPick s p pk).kept = s.kept := by
  unfold countPick
  repeat' split
  all_goals simp

@[simp] theorem kept_applyPick (s : State) (p : ℕ) (pk : Pick) : (applyPick s p pk).kept = s.kept := by
  unfold applyPick
  dsimp only
  repeat' split
  all_goals simp

@[simp] theorem kept_nextTrick (s : State) (p : ℕ) : (nextTrick s p).kept = s.kept := by simp [nextTrick]

@[simp] theorem kept_startTrick (s : State) (p : ℕ) : (startTrick s p).kept = s.kept := by simp [startTrick]

@[simp] theorem kept_wordCheck (p : ℕ) (s : State) (k : ℕ) : (wordCheck p s k).kept = s.kept := by simp [wordCheck]

@[simp] theorem kept_dealCheck (s : State) (p : ℕ) : (dealCheck s p).kept = s.kept := by simp [dealCheck]

@[simp] theorem kept_decideChecked (s : State) (p : ℕ) (l : List Cand) (decide : State → Pick) :
    (decideChecked s p l decide).1.kept = s.kept := by
  unfold decideChecked
  dsimp only
  split <;> simp

@[simp] theorem kept_takeCredit (s : State) (d : ℕ) (m : Msg) (q : ℕ) : (takeCredit s d m q).kept = s.kept := by
  unfold takeCredit
  dsimp only
  split <;> simp

@[simp] theorem kept_fillSlots (d n : Nat) (s : State) (l : List Ready) : (fillSlots d n s l).2.1.kept = s.kept := by
  induction n generalizing s l with
  | zero => rfl
  | succ n ih =>
    unfold fillSlots
    split
    · rfl
    · simp [ih]

@[simp] theorem kept_launch (s : State) (d : Nat) (dir : Dir) (wr : Option Ready) : (launch s d dir wr).kept = s.kept := by
  cases dir <;> cases wr <;> simp [launch]

@[simp] theorem kept_setLinkState (s : State) (d : ℕ) (n : ℕ) : (setLinkState s d n).kept = s.kept := by simp [setLinkState]

@[simp] theorem kept_resendParcel (s : State) (d : ℕ) (dir : Dir) : (resendParcel s d dir).kept = s.kept := by
  unfold resendParcel
  dsimp only
  split <;> simp

@[simp] theorem kept_stageMsg (s : State) (p : ℕ) (pk : Pick) (r : Ready) : (stageMsg s p pk r).kept = s.kept := by simp [stageMsg]

@[simp] theorem kept_playTrick (s : State) (p : ℕ) : (playTrick s p).kept = s.kept := by
  unfold playTrick
  dsimp only
  repeat' split
  all_goals simp

@[simp] theorem kept_fabricTrick (s : State) (p : ℕ) : (fabricTrick s p).kept = s.kept := by simp [fabricTrick]

@[simp] theorem keeps_execFallbackGrantExpire (p : Fin 64) (s : State) :
    keeps s (execFallbackGrantExpire p s) := by simp [execFallbackGrantExpire]

@[simp] theorem keeps_execClassDCutoff (p : Fin 64) (s : State) : keeps s (execClassDCutoff p s) := by simp [execClassDCutoff]

@[simp] theorem kept_commitPoint (s : State) (p : ℕ) : (commitPoint s p).kept = s.kept := by simp [commitPoint]

@[simp] theorem keeps_execFabCommit (who : Agent) (v : Word) (s : State) : keeps s (execFabCommit who v s) :=
  keeps_barred _ _ (by simp)

@[simp] theorem keeps_execCommitArriveUp (d : Fin 16) (s : State) : keeps s (execCommitArriveUp d s) := by simp [execCommitArriveUp]

@[simp] theorem kept_switchReg (rcvd : NMap Word) (up : Bool) (s : State) (e : Reg × Reg) : (switchReg rcvd up s e).kept = s.kept := by
  unfold switchReg
  repeat' split
  all_goals simp

@[simp] theorem kept_boundaryPreempt (s : State) (p : ℕ) (changed : Bool) :
    (boundaryPreempt s p changed).kept = s.kept := by simp [boundaryPreempt]

@[simp] theorem kept_switchPoint (s : State) (p : ℕ) : (switchPoint s p).kept = s.kept := by simp [switchPoint]

@[simp] theorem kept_lateShadow (s : State) (p : ℕ) (r : Reg) : (lateShadow s p r).kept = s.kept := by simp [lateShadow]

@[simp] theorem kept_resendShadow (s : State) (p : ℕ) : (resendShadow s p).kept = s.kept := by simp [resendShadow]

@[simp] theorem kept_badWrite (s : State) (who : Agent) (p : ℕ) : (badWrite s who p).kept = s.kept := by simp [badWrite]

@[simp] theorem keeps_execFabDealWrite (who : Agent) (p : Fin 64) (k : Fin 128) (v : Word) (s : State) : keeps s (execFabDealWrite who p k v s) :=
  keeps_barred _ _ (by simp)

@[simp] theorem keeps_execFabBurstWrite (who : Agent) (p : Fin 64) (v : Word) (s : State) : keeps s (execFabBurstWrite who p v s) :=
  keeps_barred _ _ (by simp)

@[simp] theorem keeps_execFabPrioWrite (who : Agent) (p : Fin 64) (q : Fin 128) (v : Word) (s : State) : keeps s (execFabPrioWrite who p q v s) :=
  keeps_barred _ _ (by simp)

@[simp] theorem keeps_execFabCutoffClear (who : Agent) (p : Fin 64) (k : Fin 2) (v : Word) (s : State) : keeps s (execFabCutoffClear who p k v s) :=
  keeps_barred _ _ (by simp)

@[simp] theorem keeps_execClearLost (who : Agent) (h : Fin 64) (v : Word) (s : State) :
    keeps s (execClearLost who h v s) := by simp [execClearLost]

/-! ### Machine/Memory -/

@[simp] theorem kept_setRankState (s : State) (n : ℕ) (r : ℕ) (v : ℕ) : (setRankState s n r v).kept = s.kept := by simp [setRankState]

@[simp] theorem kept_injectRaw (s : State) (n : ℕ) (raw : BitVec 640) : (injectRaw s n raw).2.kept = s.kept := by simp [injectRaw]

/-! ### Machine/MemQueue -/

@[simp] theorem kept_enter (s : State) (n : ℕ) (r : MemReq) (own : Bool) : (enter s n r own).kept = s.kept := by
  unfold enter
  dsimp only
  repeat' split
  all_goals simp

@[simp] theorem kept_admitOne (n : Nat) (st : State × List MemReq) (r : MemReq) : (admitOne n st r).1.kept = st.1.kept := by
  unfold admitOne
  dsimp only
  split
  · split <;> simp
  · rfl

@[simp] theorem kept_admitWaiting (s : State) (n : Nat) : (admitWaiting s n).kept = s.kept := by
  have hfold (l : List MemReq) (st : State × List MemReq) : (l.foldl (admitOne n) st).1.kept = st.1.kept := by
    induction l generalizing st with
    | nil => rfl
    | cons r l ih => rw [List.foldl_cons, ih, kept_admitOne]
  simp [admitWaiting, hfold]

@[simp] theorem kept_sendReq (s : State) (r : MemReq) : (sendReq s r).kept = s.kept := by simp [sendReq]

@[simp] theorem kept_sendRead (s : State) (n : ℕ) (line : ℕ) (hand : ℕ) : (sendRead s n line hand).kept = s.kept := by simp [sendRead]

@[simp] theorem kept_homeWrite (s : State) (n : ℕ) (line : ℕ) (hand : ℕ) (data : LineData) (b : ℕ) :
    (homeWrite s n line hand data b).kept = s.kept := by simp [homeWrite]

@[simp] theorem kept_homeData (s : State) (n : ℕ) (line : ℕ) (hand : ℕ) (data : LineData) (poison : Bool) :
    (homeData s n line hand data poison).kept = s.kept := by simp [homeData]

/-! ### Machine/Home -/

@[simp] theorem kept_writeEnt (s : State) (n : ℕ) (key : ℕ) (e : DirEnt) : (writeEnt s n key e).kept = s.kept := by simp [writeEnt]

@[simp] theorem kept_dropEnt (s : State) (n : ℕ) (key : ℕ) : (dropEnt s n key).kept = s.kept := by
  unfold dropEnt
  dsimp only
  split <;> simp

@[simp] theorem kept_poisonLine (s : State) (n : ℕ) (line : ℕ) (hand : ℕ) : (poisonLine s n line hand).kept = s.kept := by simp [poisonLine]

@[simp] theorem kept_answer (s : State) (n : ℕ) (m : Msg) (op : Opc) (gen : BitVec 2) (data : LineData) (poison : Bool) :
    (answer s n m op gen data poison).kept = s.kept := by
  unfold answer
  split <;> simp

@[simp] theorem kept_snoop (s : State) (n : ℕ) (op : Opc) (hand : ℕ) (line : ℕ) (d : ℕ) :
    (snoop s n op hand line d).kept = s.kept := by simp [snoop]

@[simp] theorem kept_reopen (s : State) (n : ℕ) (line : ℕ) : (reopen s n line).2.kept = s.kept := by simp [reopen]

@[simp] theorem kept_checkEnt (s : State) (n : ℕ) (key : ℕ) (hand : ℕ) (e : DirEnt) : (checkEnt s n key hand e).2.kept = s.kept := by
  unfold checkEnt
  dsimp only
  repeat' split
  all_goals simp

@[simp] theorem kept_finishTxn (s : State) (n : ℕ) (t : Txn) (mem : Option (LineData × Bool)) : (finishTxn s n t mem).kept = s.kept := by
  unfold finishTxn
  dsimp only
  repeat' split
  all_goals simp

@[simp] theorem kept_advanceTxn (s : State) (n : ℕ) (t : Txn) : (advanceTxn s n t).kept = s.kept := by
  unfold advanceTxn
  repeat' split
  all_goals simp

@[simp] theorem kept_openTxn (s : State) (n : ℕ) (m : Msg) (key : ℕ) (e : DirEnt) : (openTxn s n m key e).kept = s.kept := by simp [openTxn]

@[simp] theorem kept_evictEnt (s : State) (n : ℕ) (key : ℕ) (hand : ℕ) (e : DirEnt) :
    (evictEnt s n key hand e).kept = s.kept := by simp [evictEnt]

@[simp] theorem kept_evict (s : State) (n key hand : Nat) (e : DirEnt) : (evict s n key hand e).kept = s.kept := by
  unfold evict
  split
  next hc => simp [kept_snd hc]
  next hc => split <;> simp [kept_snd hc]

@[simp] theorem kept_findWay (s : State) (n : ℕ) (line : ℕ) (hand : ℕ) : ∀ t ∈ findWay s n line hand, t.2.kept = s.kept := by
  unfold findWay
  dsimp only
  repeat' split
  all_goals simp

@[simp] theorem kept_admitReq (s : State) (n : Nat) (m : Msg) : (admitReq s n m).kept = s.kept := by
  have hway {key : Nat} {t : State} (h : findWay s n m.line m.hand = some (key, t)) : t.kept = s.kept :=
    kept_findWay _ _ _ _ _ (Option.mem_def.mpr h)
  unfold admitReq
  dsimp only
  split
  · simp
  · split
    · simp
    · split
      next key e _ =>
        split
        next hc => simp [kept_snd hc]
        next hc =>
          split
          · simp [kept_snd hc]
          · split <;> simp [kept_snd hc]
      next =>
        split
        · simp
        · split
          · simp
          · split
            next hw => simp [hway hw]
            next => simp

@[simp] theorem kept_reportDenied (s : State) (n : ℕ) (m : Msg) : (reportDenied s n m).kept = s.kept := by simp [reportDenied]

@[simp] theorem kept_injectDenied (s : State) (n : ℕ) (m : Msg) : (injectDenied s n m).kept = s.kept := by simp [injectDenied]

@[simp] theorem kept_staleWb (s : State) (n : ℕ) (m : Msg) : (staleWb s n m).kept = s.kept := by simp [staleWb]

@[simp] theorem kept_vaultDeny (s : State) (n : ℕ) (m : Msg) : (vaultDeny s n m).kept = s.kept := by
  unfold vaultDeny
  split <;> simp

@[simp] theorem kept_holdWb (s : State) (n : ℕ) (m : Msg) : (holdWb s n m).kept = s.kept := by simp [holdWb]

@[simp] theorem kept_wbAction (s : State) (n : ℕ) (m : Msg) (key : ℕ) (e : DirEnt) : (wbAction s n m key e).kept = s.kept := by
  unfold wbAction
  split <;> simp

@[simp] theorem kept_handleWb (s : State) (n : Nat) (m : Msg) : (handleWb s n m).kept = s.kept := by
  unfold handleWb
  split
  · simp
  · split
    next hc => simp [kept_snd hc]
    next hc => split <;> simp [kept_snd hc]

@[simp] theorem kept_takeWb (s : State) (n : ℕ) (m : Msg) : (takeWb s n m).kept = s.kept := by simp [takeWb]

@[simp] theorem kept_enterSlice (s : State) (m : Msg) : (enterSlice s m).kept = s.kept := by simp [enterSlice]

@[simp] theorem kept_releaseWb (s : State) (n : ℕ) (line : ℕ) : (releaseWb s n line).kept = s.kept := by simp [releaseWb]

@[simp] theorem kept_snoopAnswer (s : State) (n : ℕ) (d : ℕ) (line : ℕ) (keeps : Bool) (data : Option (LineData × Bool)) :
    (snoopAnswer s n d line keeps data).kept = s.kept := by
  unfold snoopAnswer
  dsimp only
  repeat' split
  all_goals simp

@[simp] theorem keeps_execRdShared (m : Msg) (s : State) : keeps s (execRdShared m s) := by simp [execRdShared]

@[simp] theorem keeps_execRdOwn (m : Msg) (s : State) : keeps s (execRdOwn m s) := by simp [execRdOwn]

@[simp] theorem keeps_execUpgrade (m : Msg) (s : State) : keeps s (execUpgrade m s) := by simp [execUpgrade]

@[simp] theorem keeps_execClaim (m : Msg) (s : State) : keeps s (execClaim m s) := by simp [execClaim]

@[simp] theorem keeps_execRdOnce (m : Msg) (s : State) : keeps s (execRdOnce m s) := by simp [execRdOnce]

@[simp] theorem keeps_execWrFull (m : Msg) (s : State) : keeps s (execWrFull m s) := by simp [execWrFull]

@[simp] theorem keeps_execWrPartial (m : Msg) (s : State) : keeps s (execWrPartial m s) := by simp [execWrPartial]

@[simp] theorem keeps_execCboClean (m : Msg) (s : State) : keeps s (execCboClean m s) := by simp [execCboClean]

@[simp] theorem keeps_execCboFlush (m : Msg) (s : State) : keeps s (execCboFlush m s) := by simp [execCboFlush]

@[simp] theorem keeps_execWbData (m : Msg) (s : State) : keeps s (execWbData m s) := by simp [execWbData]

@[simp] theorem keeps_execWbKeep (m : Msg) (s : State) : keeps s (execWbKeep m s) := by simp [execWbKeep]

@[simp] theorem keeps_execEvictClean (m : Msg) (s : State) : keeps s (execEvictClean m s) := by simp [execEvictClean]

@[simp] theorem keeps_execDiscard (m : Msg) (s : State) : keeps s (execDiscard m s) := by simp [execDiscard]

@[simp] theorem keeps_execSnpRspI (m : Msg) (s : State) : keeps s (execSnpRspI m s) := by simp [execSnpRspI]

@[simp] theorem keeps_execSnpRspS (m : Msg) (s : State) : keeps s (execSnpRspS m s) := by simp [execSnpRspS]

@[simp] theorem keeps_execSnpDataI (m : Msg) (s : State) : keeps s (execSnpDataI m s) := by simp [execSnpDataI]

@[simp] theorem keeps_execSnpDataS (m : Msg) (s : State) : keeps s (execSnpDataS m s) := by simp [execSnpDataS]

@[simp] theorem keeps_execCreditReturn (d : Fin 16) (n : Fin 16) (cls : CreditClass) (hand : Fin 64) (s : State) :
    keeps s (execCreditReturn d n cls hand s) := by simp [execCreditReturn]

@[simp] theorem keeps_execLineWaitAdmit (n : Fin 16) (line : ℕ) (s : State) : keeps s (execLineWaitAdmit n line s) := by
  unfold execLineWaitAdmit
  dsimp only
  split <;> simp

@[simp] theorem keeps_execSetWaitAdmit (n : Fin 16) (set : ℕ) (s : State) : keeps s (execSetWaitAdmit n set s) := by
  unfold execSetWaitAdmit
  dsimp only
  split <;> simp

@[simp] theorem keeps_execStagingEntryFree (n : Fin 16) (line : ℕ) (s : State) : keeps s (execStagingEntryFree n line s) := by
  unfold execStagingEntryFree
  dsimp only
  repeat' split
  all_goals simp

@[simp] theorem kept_enterTransfer (s : State) (n q : Nat) : (enterTransfer s n q).2.kept = s.kept := by
  have hread (l : List Msg) : (l.foldl (fun (r : Bool × State) m =>
      let e := r.2.iodSram 13 (0x2200 + n) (m.line * 64)
      (r.1 || e.1, e.2)) (false, s)).2.kept = s.kept := kept_foldl_snd _ _ _ fun r m => kept_iodSram ..
  unfold enterTransfer
  dsimp only at hread ⊢
  split_ifs <;> simp [hread]

@[simp] theorem keeps_execSliceSuspensionEnd (n : Fin 16) (s : State) :
    keeps s (execSliceSuspensionEnd n s) := by simp [execSliceSuspensionEnd]

@[simp] theorem kept_scrubBit (s : State) (n : ℕ) (d : ℕ) (key : ℕ) (e : DirEnt) :
    (scrubBit s n d key e).kept = s.kept := by simp [scrubBit]

@[simp] theorem kept_scrubEnt (s : State) (n d key : Nat) : (scrubEnt s n d key).kept = s.kept := by
  unfold scrubEnt
  split
  · rfl
  · split
    next hc => simp [kept_snd hc]
    next hc => split <;> simp [kept_snd hc]

@[simp] theorem keeps_execDirectoryScrubVisit (n : Fin 16) (s : State) :
    keeps s (execDirectoryScrubVisit n s) := by simp [execDirectoryScrubVisit]

@[simp] theorem kept_startScrub (s : State) (d : ℕ) : (startScrub s d).kept = s.kept := by simp [startScrub]

@[simp] theorem kept_nextScrub (s : State) : (nextScrub s).kept = s.kept := by
  unfold nextScrub
  split <;> simp

@[simp] theorem keeps_execDirectoryScrubEnd (d : Fin 16) (s : State) :
    keeps s (execDirectoryScrubEnd d s) := by simp [execDirectoryScrubEnd]

@[simp] theorem keeps_execHomeProbe (who : Agent) (v : Word) (s : State) : keeps s (execHomeProbe who v s) := by simp [execHomeProbe]

@[simp] theorem keeps_execHomeProbeDone (s : State) : keeps s (execHomeProbeDone s) := by simp [execHomeProbeDone]

@[simp] theorem keeps_execHomeInjectBacking (who : Agent) (n : Fin 16) (v : Word) (s : State) :
    keeps s (execHomeInjectBacking who n v s) := by simp [execHomeInjectBacking]

@[simp] theorem keeps_execHomeInjectArm (who : Agent) (n : Fin 16) (v : Word) (s : State) :
    keeps s (execHomeInjectArm who n v s) := by simp [execHomeInjectArm]

/-! ### Machine/Channels -/

@[simp] theorem kept_mcErr (s : State) (n : ℕ) (b : ℕ) (cls : ℕ) (sev : ℕ) (hand : Option ℕ) (line : ℕ) :
    (mcErr s n b cls sev hand line).kept = s.kept := by simp [mcErr]

@[simp] theorem kept_keepBusy (s : State) (n : ℕ) (b : ℕ) (till : ℕ) : (keepBusy s n b till).kept = s.kept := by simp [keepBusy]

@[simp] theorem kept_issued (s : State) (n : ℕ) (m : MemCmd) : (issued s n m).kept = s.kept := by
  unfold issued
  split <;> simp

@[simp] theorem kept_failRank (s : State) (n : ℕ) (r : ℕ) : (failRank s n r).kept = s.kept := by simp [failRank]

@[simp] theorem kept_mustRetire (s : State) (n : ℕ) (r : ℕ) : (mustRetire s n r).kept = s.kept := by simp [mustRetire]

@[simp] theorem kept_noteRead (s : State) (n : ℕ) (r : ℕ) (line : ℕ) (x : LineRead) :
    (noteRead s n r line x).kept = s.kept := by simp [noteRead]

@[simp] theorem kept_issueRead (s : State) (n : ℕ) (q : MemRd) : (issueRead s n q).kept = s.kept := by simp [issueRead]

@[simp] theorem kept_claimBanks (s : State) (n : ℕ) (sc : ℕ) (h : ℕ) : (claimBanks s n sc h).kept = s.kept := by simp [claimBanks]

@[simp] theorem kept_endCopy (s : State) (n : ℕ) : (endCopy s n).kept = s.kept := by simp [endCopy]

@[simp] theorem kept_neighbourStep (s : State) (n : ℕ) (sc : ℕ) : (neighbourStep s n sc).kept = s.kept := by
  unfold neighbourStep
  dsimp only
  split <;> simp

@[simp] theorem keeps_execMcReadData (n : Fin 16) (line : ℕ) (s : State) : keeps s (execMcReadData n line s) := by
  unfold execMcReadData
  dsimp only
  repeat' split
  all_goals simp

@[simp] theorem keeps_execRefsbDue (n : Fin 16) (sc : Fin 2) (rank : Fin 8) (s : State) :
    keeps s (execRefsbDue n sc rank s) := by simp [execRefsbDue]

@[simp] theorem keeps_execDimmThermalPoll (n : Fin 16) (hot : Bool) (s : State) :
    keeps s (execDimmThermalPoll n hot s) := by simp [execDimmThermalPoll]

@[simp] theorem keeps_execNeighbourRefreshQueue (n : Fin 16) (key : ℕ) (s : State) : keeps s (execNeighbourRefreshQueue n key s) := by
  unfold execNeighbourRefreshQueue
  dsimp only
  split <;> simp

@[simp] theorem keeps_execActTableClear (n : Fin 16) (s : State) : keeps s (execActTableClear n s) := by simp [execActTableClear]

@[simp] theorem keeps_execCeHourWindow (s : State) : keeps s (execCeHourWindow s) := by simp [execCeHourWindow]

@[simp] theorem keeps_execSwitchoverEnd (n : Fin 16) (s : State) : keeps s (execSwitchoverEnd n s) := by simp [execSwitchoverEnd]

@[simp] theorem keeps_execAlertN (n : Fin 16) (slot : Fin 2) (s : State) : keeps s (execAlertN n slot s) := by
  unfold execAlertN
  dsimp only
  split <;> simp

@[simp] theorem keeps_execCmdRetryEnd (n : Fin 16) (slot : Fin 2) (s : State) : keeps s (execCmdRetryEnd n slot s) := by
  unfold execCmdRetryEnd
  dsimp only
  repeat' split
  all_goals simp

@[simp] theorem keeps_execMcRankCmdTest (who : Agent) (n : Fin 16) (v : Word) (s : State) :
    keeps s (execMcRankCmdTest who n v s) := by simp [execMcRankCmdTest]

@[simp] theorem kept_mcInject (who : Agent) (n : ℕ) (v : Word) (s : State) : (mcInject who n v s).kept = s.kept := by simp [mcInject]

@[simp] theorem keeps_execMcInjectCaParity (who : Agent) (n : Fin 16) (v : Word) (s : State) :
    keeps s (execMcInjectCaParity who n v s) := by simp [execMcInjectCaParity]

@[simp] theorem keeps_execMcInjectBacking (who : Agent) (n : Fin 16) (v : Word) (s : State) :
    keeps s (execMcInjectBacking who n v s) := by simp [execMcInjectBacking]

@[simp] theorem keeps_execMcInjectArm (who : Agent) (n : Fin 16) (v : Word) (s : State) :
    keeps s (execMcInjectArm who n v s) := by simp [execMcInjectArm]

/-! ### Machine/Amend -/

@[simp] theorem kept_setWaymap (s : State) (d : ℕ) : (setWaymap s d).kept = s.kept := by simp [setWaymap]

@[simp] theorem kept_setHandCount (s : State) (h : ℕ) : (setHandCount s h).kept = s.kept := by simp [setHandCount]

@[simp] theorem kept_setMember (s : State) (h : ℕ) (c : ℕ) (b : Bool) : (setMember s h c b).kept = s.kept := by simp [setMember]

@[simp] theorem kept_moveCore (s : State) (c : ℕ) (new : ℕ) (old : ℕ) : (moveCore s c new old).kept = s.kept := by simp [moveCore]

@[simp] theorem kept_refillTo (s : State) (f : FnId) (c : ℕ) : (refillTo s f c).kept = s.kept := by simp [refillTo]

@[simp] theorem kept_refill (s : State) (f : FnId) : (refill s f).kept = s.kept := by simp [refill]

@[simp] theorem kept_switchBudgets (s : State) (recs : List QueueRec) : (switchBudgets s recs).kept = s.kept := by simp [switchBudgets]

@[simp] theorem kept_finishAddendum (s : State) : (finishAddendum s).kept = s.kept := by simp [finishAddendum]

@[simp] theorem kept_dropPoints (s : State) (ps : List ℕ) : (dropPoints s ps).kept = s.kept := by simp [dropPoints]

@[simp] theorem kept_amendAt (s : State) (p : ℕ) : (amendAt s p).kept = s.kept := by simp [amendAt]

@[simp] theorem keeps_execPointSwitch (p : Fin 64) (s : State) : keeps s (execPointSwitch p s) := by simp [execPointSwitch]

/-! ### Machine/Links -/

@[simp] theorem kept_setFill (s : State) (d : ℕ) (dir : Dir) (n : ℕ) : (setFill s d dir n).kept = s.kept := by
  unfold setFill
  split <;> simp

@[simp] theorem kept_linkErr (s : State) (d : ℕ) (b : ℕ) (cls : ℕ) (sev : ℕ) : (linkErr s d b cls sev).kept = s.kept := by simp [linkErr]

@[simp] theorem kept_flipStatus (s : State) (d : ℕ) (dir : Dir) (g : ℕ) (code : ℕ) :
    (flipStatus s d dir g code).kept = s.kept := by simp [flipStatus]

@[simp] theorem kept_injectParcel (s : State) (d : ℕ) (dir : Dir) (p : Parcel) : (injectParcel s d dir p).2.kept = s.kept := by
  unfold injectParcel
  dsimp only
  repeat' split
  all_goals simp

@[simp] theorem kept_countLane (s : State) (d : ℕ) (dir : Dir) (g : ℕ) (pos : ℕ) :
    (countLane s d dir g pos).kept = s.kept := by simp [countLane]

@[simp] theorem kept_countLanes (s : State) (d : ℕ) (dir : Dir) (old : Parcel) (new : Parcel) :
    (countLanes s d dir old new).kept = s.kept := by simp [countLanes]

@[simp] theorem kept_returnStatus (s : State) (d : ℕ) (dir : Dir) (seq : ℕ) (good : Bool) :
    (returnStatus s d dir seq good).kept = s.kept := by simp [returnStatus]

@[simp] theorem kept_deliver (s : State) (d : ℕ) (dir : Dir) (e : SentParcel) : (deliver s d dir e).kept = s.kept := by
  unfold deliver
  split <;> simp

@[simp] theorem kept_throughFifo (s : State) (d : ℕ) (dir : Dir) (fill : ℕ) (e : SentParcel) :
    (throughFifo s d dir fill e).kept = s.kept := by simp [throughFifo]

@[simp] theorem keeps_execParcelReceive (d : Fin 16) (dir : Dir) (fill : ℕ) (p : Parcel) (s : State) :
    keeps s (execParcelReceive d dir fill p s) := by
  unfold execParcelReceive
  dsimp only
  repeat' split
  all_goals simp

@[simp] theorem kept_startReplay (s : State) (d : ℕ) (dir : Dir) (seq : ℕ) : (startReplay s d dir seq).kept = s.kept := by
  unfold startReplay
  split <;> simp

@[simp] theorem keeps_execStatusByteReceive (d : Fin 16) (dir : Dir) (b : Byte) (s : State) :
    keeps s (execStatusByteReceive d dir b s) := by simp [execStatusByteReceive]

@[simp] theorem keeps_execStatusTimeout (d : Fin 16) (dir : Dir) (seq : BitVec 5) (s : State) :
    keeps s (execStatusTimeout d dir seq s) := by simp [execStatusTimeout]

@[simp] theorem keeps_execHbLost (d : Fin 16) (s : State) : keeps s (execHbLost d s) := by simp [execHbLost]

@[simp] theorem keeps_execClkLost (d : Fin 16) (s : State) : keeps s (execClkLost d s) := by simp [execClkLost]

@[simp] theorem kept_beginRemap (s : State) (d : ℕ) (dir : Dir) (g : ℕ) (code : ℕ) :
    (beginRemap s d dir g code).kept = s.kept := by simp [beginRemap]

@[simp] theorem kept_remapLane (s : State) (d : ℕ) (dir : Dir) (g : ℕ) (code : ℕ) :
    (remapLane s d dir g code).kept = s.kept := by simp [remapLane]

@[simp] theorem keeps_execLaneRemapStart (d : Fin 16) (dir : Dir) (group : Fin 8) (lane : BitVec 6) (s : State) :
    keeps s (execLaneRemapStart d dir group lane s) := by simp [execLaneRemapStart]

@[simp] theorem keeps_execRemapComplete (d : Fin 16) (dir : Dir) (s : State) : keeps s (execRemapComplete d dir s) := by
  unfold execRemapComplete
  dsimp only
  repeat' split
  all_goals simp

@[simp] theorem keeps_execDlRepairCmdGo (who : Agent) (d : Fin 16) (v : Word) (s : State) :
    keeps s (execDlRepairCmdGo who d v s) := by simp [execDlRepairCmdGo]

@[simp] theorem kept_freshLink (s : State) (d : Nat) : (freshLink s d).kept = s.kept := by
  simp only [freshLink]
  rw [kept_overAll _ _ _ fun s r => kept_overAll _ _ _ fun s g => kept_overAll _ _ _ fun s k => kept_clr ..,
    kept_overAll _ _ _ fun s k => by simp]
  simp

@[simp] theorem kept_refuseDie (s : State) (d : ℕ) : (refuseDie s d).kept = s.kept := by simp [refuseDie]

@[simp] theorem kept_mapFaults (s : State) (d : Nat) (l : List (Dir × Fin 8 × BitVec 6)) : (mapFaults s d l).2.kept = s.kept := by
  induction l generalizing s with
  | nil => rfl
  | cons e l ih =>
    unfold mapFaults
    split <;> simp [ih]

@[simp] theorem kept_exchange (s : State) (d : ℕ) (o : DieOffer) : (exchange s d o).kept = s.kept := by simp [exchange]

@[simp] theorem kept_trainLink (s : State) (d : Nat) (offer : DieOffer) (faults : List (Dir × Fin 8 × BitVec 6)) : (trainLink s d offer faults).kept = s.kept := by
  unfold trainLink
  dsimp only
  split
  next hm => simp [kept_snd hm]
  next hm => simp [kept_snd hm]

@[simp] theorem keeps_execLinkTraining (d : Fin 16) (offer : DieOffer) (faults : List (Dir × Fin 8 × BitVec 6)) (s : State) :
    keeps s (execLinkTraining d offer faults s) := by simp [execLinkTraining]

@[simp] theorem keeps_execTrainingStepTimeout (d : Fin 16) (step : Fin 6) (s : State) : keeps s (execTrainingStepTimeout d step s) := by
  unfold execTrainingStepTimeout
  dsimp only
  repeat' split
  all_goals simp

@[simp] theorem kept_dlInject (who : Agent) (d : Fin 16) (v : Word) (s : State) : (dlInject who d v s).kept = s.kept := by simp [dlInject]

@[simp] theorem keeps_execDlInjectLaneFlip (who : Agent) (d : Fin 16) (v : Word) (s : State) :
    keeps s (execDlInjectLaneFlip who d v s) := by simp [execDlInjectLaneFlip]

@[simp] theorem keeps_execDlInjectFifo (who : Agent) (d : Fin 16) (v : Word) (s : State) :
    keeps s (execDlInjectFifo who d v s) := by simp [execDlInjectFifo]

@[simp] theorem keeps_execDlInjectHb (who : Agent) (d : Fin 16) (v : Word) (s : State) :
    keeps s (execDlInjectHb who d v s) := by simp [execDlInjectHb]

@[simp] theorem keeps_execDlInjectStatus (who : Agent) (d : Fin 16) (v : Word) (s : State) :
    keeps s (execDlInjectStatus who d v s) := by simp [execDlInjectStatus]

@[simp] theorem keeps_execDlInjectCrcDn (who : Agent) (d : Fin 16) (v : Word) (s : State) :
    keeps s (execDlInjectCrcDn who d v s) := by simp [execDlInjectCrcDn]

@[simp] theorem keeps_execDlInjectCrcUp (who : Agent) (d : Fin 16) (v : Word) (s : State) :
    keeps s (execDlInjectCrcUp who d v s) := by simp [execDlInjectCrcUp]

/-! ### Machine/Contain -/

@[simp] theorem kept_setDiePower (s : State) (d : ℕ) (n : ℕ) : (setDiePower s d n).kept = s.kept := by simp [setDiePower]

@[simp] theorem kept_setDieState (s : State) (d : ℕ) (n : ℕ) : (setDieState s d n).kept = s.kept := by simp [setDieState]

@[simp] theorem kept_fencePoint (s : State) (p : ℕ) : (fencePoint s p).kept = s.kept := by simp [fencePoint]

@[simp] theorem kept_fenceDie (s : State) (d : ℕ) : (fenceDie s d).kept = s.kept := by simp [fenceDie]

@[simp] theorem kept_answerFor (s : State) (n : ℕ) (d : ℕ) : (answerFor s n d).kept = s.kept := by simp [answerFor]

@[simp] theorem kept_dropReqs (s : State) (n : ℕ) (d : ℕ) : (dropReqs s n d).kept = s.kept := by simp [dropReqs]

@[simp] theorem kept_loseDie (s : State) (d : ℕ) : (loseDie s d).kept = s.kept := by simp [loseDie]

@[simp] theorem kept_abandonScrub (s : State) (d : ℕ) : (abandonScrub s d).kept = s.kept := by simp [abandonScrub]

@[simp] theorem kept_dieStop (s : State) (d : ℕ) (cause : ℕ) : (dieStop s d cause).kept = s.kept := by simp [dieStop]

@[simp] theorem keeps_execReplayFail (d : Fin 16) (dir : Dir) (s : State) : keeps s (execReplayFail d dir s) := by simp [execReplayFail]

@[simp] theorem keeps_execDieStopDeclare (d : Fin 16) (cause : Fin 6) (s : State) :
    keeps s (execDieStopDeclare d cause s) := by simp [execDieStopDeclare]

@[simp] theorem keeps_execFltDieCmdStop (who : Agent) (v : Word) (s : State) :
    keeps s (execFltDieCmdStop who v s) := by simp [execFltDieCmdStop]

@[simp] theorem kept_beginRejoin (s : State) (d : ℕ) (auto : Bool) : (beginRejoin s d auto).kept = s.kept := by simp [beginRejoin]

@[simp] theorem keeps_execFltDieCmdRejoin (who : Agent) (v : Word) (s : State) :
    keeps s (execFltDieCmdRejoin who v s) := by simp [execFltDieCmdRejoin]

@[simp] theorem keeps_execAutoRejoin (d : Fin 16) (s : State) : keeps s (execAutoRejoin d s) := by simp [execAutoRejoin]

@[simp] theorem keeps_execRejoinRailHoldEnd (d : Fin 16) (s : State) :
    keeps s (execRejoinRailHoldEnd d s) := by simp [execRejoinRailHoldEnd]

@[simp] theorem kept_loadDeal (s : State) (f : Folio) (p : ℕ) : (loadDeal s f p).kept = s.kept := by simp [loadDeal]

@[simp] theorem kept_applyDie (s : State) (f : Folio) (d : ℕ) : (applyDie s f d).kept = s.kept := by simp [applyDie]

@[simp] theorem kept_clearShelver (s : State) (d : ℕ) : (clearShelver s d).kept = s.kept := by simp [clearShelver]

@[simp] theorem keeps_execRejoinFolioReapply (d : Fin 16) (s : State) : keeps s (execRejoinFolioReapply d s) := by
  unfold execRejoinFolioReapply
  dsimp only
  repeat' split
  all_goals simp

@[simp] theorem keeps_execDieEnterService (d : Fin 16) (s : State) : keeps s (execDieEnterService d s) := by simp [execDieEnterService]

@[simp] theorem keeps_execFltHeadWrite (who : Agent) (v : Word) (s : State) :
    keeps s (execFltHeadWrite who v s) := by simp [execFltHeadWrite]

@[simp] theorem keeps_execFltInjectArm (who : Agent) (v : Word) (s : State) :
    keeps s (execFltInjectArm who v s) := by simp [execFltInjectArm]

@[simp] theorem keeps_execDealWordReload (p : Fin 64) (k : Fin 384) (s : State) :
    keeps s (execDealWordReload p k s) := by simp [execDealWordReload]

/-! ### Machine/Caches -/

@[simp] theorem kept_putL3 (s : State) (d : ℕ) (e : L3Line) : (putL3 s d e).kept = s.kept := by simp [putL3]

@[simp] theorem kept_dropL3 (s : State) (d : ℕ) (line : ℕ) : (dropL3 s d line).kept = s.kept := by simp [dropL3]

@[simp] theorem kept_putL2 (s : State) (c : ℕ) (e : L2Line) : (putL2 s c e).kept = s.kept := by simp [putL2]

@[simp] theorem kept_dropL2 (s : State) (c : ℕ) (line : ℕ) : (dropL2 s c line).kept = s.kept := by simp [dropL2]

@[simp] theorem kept_fillL1 (s : State) (c : ℕ) (line : ℕ) (data : LineData) : (fillL1 s c line data).kept = s.kept := by simp [fillL1]

@[simp] theorem kept_choose {α : Type} (s : State) (l : List α) : (choose s l).2.kept = s.kept := by simp [choose]

@[simp] theorem kept_bufSram (s : State) (st : ℕ) (unit : ℕ) (line : ℕ) (hand : Option ℕ) :
    (bufSram s st unit line hand).2.kept = s.kept := by
  unfold bufSram
  split <;> simp

@[simp] theorem kept_sendWb (s : State) (d : ℕ) (q : ℕ) (m : Msg) : (sendWb s d q m).kept = s.kept := by simp [sendWb]

theorem kept_ifRoom {α : Type} (s : State) (d : Nat) (wait : α) {r : α × State} (h : r.2.kept = s.kept) :
    (ifRoom s d wait r).2.kept = s.kept := by
  unfold ifRoom
  split
  · exact h
  · rfl

@[simp] theorem kept_request (s : State) (d : ℕ) (line : ℕ) (core : ℕ) (op : Opc) (chunk : ℕ) :
    (request s d line core op chunk).kept = s.kept := by simp [request]

@[simp] theorem kept_backSnoop (s : State) (e : L3Line) (c : ℕ) (keep : Bool) : (backSnoop s e c keep).2.kept = s.kept := by
  unfold backSnoop
  repeat' split
  all_goals simp

@[simp] theorem kept_backSnoopAll (s : State) (d : Nat) (e : L3Line) (keep : Bool) (skip : Option Nat) : (backSnoopAll s d e keep skip).2.kept = s.kept := by
  exact kept_foldl_snd _ _ _ fun r c => kept_backSnoop ..

@[simp] theorem kept_takeLine (s : State) (d : ℕ) (e : L3Line) (keep : Bool) : (takeLine s d e keep).2.kept = s.kept := by
  unfold takeLine
  dsimp only
  split <;> simp

@[simp] theorem kept_evictL3 (s : State) (d : ℕ) (q : ℕ) (e : L3Line) : (evictL3 s d q e).kept = s.kept := by simp [evictL3]

@[simp] theorem kept_victim (s : State) (d : ℕ) (line : ℕ) (h : ℕ) : (victim s d line h).2.kept = s.kept := by
  unfold victim
  dsimp only
  split <;> simp

@[simp] theorem kept_allocate (s : State) (d line h : Nat) : (allocate s d line h).2.kept = s.kept := by
  unfold allocate
  split
  next hv => simp [kept_snd hv]
  next hv => simp [kept_snd hv]
  next hv => split <;> simp [kept_snd hv]

@[simp] theorem kept_offer (s : State) (c : Nat) (l : L2Line) : (offer s c l).kept = s.kept := by
  unfold offer
  dsimp only
  split
  · simp
  · by_cases hm : l.st = 3
    all_goals
      simp only [hm, if_true, if_false]
      split
      · simp
      · split
        · simp
        · split
          · split
            · simp
            · split
              next hc => simp [kept_snd hc]
              next hc => simp [kept_snd hc]
          · simp

theorem kept_choose_offer (s : State) (c : Nat) (l : List L2Line) : (match choose s l with
    | (some v, s) => offer s c v
    | (none, s) => s).kept = s.kept := by
  split
  next hc => simp [kept_snd hc]
  next hc => simp [kept_snd hc]

@[simp] theorem kept_installL2 (s : State) (c : Nat) (l : L2Line) : (installL2 s c l).kept = s.kept := by
  have hroom (p : Prop) [Decidable p] {t : State} (h : t.kept = s.kept) : (if p then s else t).kept = s.kept := by
    rw [kept_ite, h, ite_self]
  unfold installL2
  dsimp only
  split
  · rw [kept_putL3, kept_putL2]
    exact hroom _ (kept_choose_offer ..)
  · rw [kept_putL2]
    exact hroom _ (kept_choose_offer ..)

@[simp] theorem kept_cacheSram (s : State) (st : ℕ) (unit : ℕ) (d : ℕ) (line : ℕ) : (cacheSram s st unit d line).2.kept = s.kept := by
  unfold cacheSram
  dsimp only
  repeat' split
  all_goals simp

@[simp] theorem kept_tagSram (s : State) (d : ℕ) (line : ℕ) : (tagSram s d line).kept = s.kept := by
  unfold tagSram
  dsimp only
  repeat' split
  all_goals simp

@[simp] theorem kept_coreRead (s : State) (c line chunk : Nat) : (coreRead s c line chunk).2.kept = s.kept := by
  refine kept_ifRoom _ _ _ ?_
  split
  · rfl
  · split
    · simp
    · split_ifs <;> simp

@[simp] theorem kept_checkOwn (s : State) (c : ℕ) (line : ℕ) : (checkOwn s c line).kept = s.kept := by simp [checkOwn]

@[simp] theorem kept_coreOwn (s : State) (c line chunk : Nat) : (coreOwn s c line chunk).2.kept = s.kept := by
  refine kept_ifRoom _ _ _ ?_
  dsimp only
  split
  · split
    · simp
    · split
      · split <;> simp
      · simp
  · split
    · simp
    · split_ifs <;> simp

@[simp] theorem kept_hwError (s : State) (c : ℕ) (va : Word) (kind : ℕ) (line : ℕ) : (hwError s c va kind line).kept = s.kept := by
  unfold hwError
  dsimp only
  split <;> simp

@[simp] theorem kept_startDrain (s : State) (c : ℕ) (sel : MbEnt → Bool) : (startDrain s c sel).kept = s.kept := by simp [startDrain]

@[simp] theorem kept_addWait (s : State) (c : ℕ) (line : ℕ) (w : Waiter) : (addWait s c line w).kept = s.kept := by simp [addWait]

@[simp] theorem kept_drainOldest (s : State) (c : ℕ) : (drainOldest s c).kept = s.kept := by
  unfold drainOldest
  dsimp only
  repeat' split
  all_goals simp

@[simp] theorem kept_admitStores (s : State) (c : ℕ) : (admitStores s c).kept = s.kept := by
  unfold admitStores
  dsimp only
  repeat' split
  all_goals simp

@[simp] theorem kept_dropMb (s : State) (c : ℕ) (line : ℕ) : (dropMb s c line).kept = s.kept := by simp [dropMb]

@[simp] theorem kept_toLedger (s : State) (c : ℕ) (e : MbEnt) : (toLedger s c e).kept = s.kept := by
  unfold toLedger
  dsimp only
  split <;> simp

@[simp] theorem kept_drainNc (s : State) (c : ℕ) (e : MbEnt) : (drainNc s c e).kept = s.kept := by simp [drainNc]

@[simp] theorem kept_storeL2 (s : State) (c : ℕ) (l : L2Line) : (storeL2 s c l).kept = s.kept := by simp [storeL2]

@[simp] theorem kept_tryDrain (s : State) (c line : Nat) : (tryDrain s c line).kept = s.kept := by
  unfold tryDrain
  dsimp only
  split
  · rfl
  · split
    all_goals
      split
      · simp
      · split
        · simp
        · split
          next ho => simp [kept_snd ho]
          next ho => simp [kept_snd ho]

@[simp] theorem kept_drain (s : State) (c : ℕ) (sel : MbEnt → Bool) : (drain s c sel).kept = s.kept := by simp [drain]

@[simp] theorem kept_checkedRead (s : State) (c line chunk : Nat) : (checkedRead s c line chunk).2.kept = s.kept := by
  refine kept_ifRoom _ _ _ ?_
  extract_lets e2 e3
  have h2 : e2.2.kept = s.kept := by simp [e2]
  have h3 : e3.2.kept = s.kept := by simp [e3, h2]
  split
  · exact h3
  · split
    next h => rw [kept_snd h, kept_coreRead, kept_tagSram, h3]
    next h => rw [kept_snd h, kept_coreRead, kept_tagSram, h3]

@[simp] theorem kept_checkL1 (s : State) (c : ℕ) (line : ℕ) : (checkL1 s c line).kept = s.kept := by
  unfold checkL1
  split <;> simp

@[simp] theorem kept_loadLine (s : State) (c line : Nat) (need : Word) : (loadLine s c line need).2.kept = s.kept := by
  unfold loadLine
  dsimp only
  split
  next =>
    split
    · rfl
    · split
      next hr => simp [kept_snd hr]
      next => simp
  next =>
    split
    · rfl
    · split
      all_goals
        split
        · simp
        · split
          · simp
          · split
            next hr => simp [kept_snd hr]
            next => simp

@[simp] theorem kept_gather (c : Nat) (l : List (Nat × Nat × Nat)) (s : State) (acc w : Nat) : (gather c l s acc w).2.kept = s.kept := by
  induction l generalizing s acc w with
  | nil => rfl
  | cons e l ih =>
    unfold gather
    split
    next hl => simp [kept_snd hl]
    next hl => split_ifs <;> simp [kept_snd hl, ih]

@[simp] theorem kept_writeLoaded (s : State) (c : ℕ) (rd : DataReg) (n : ℕ) (v : ℕ) (signed : Bool) :
    (writeLoaded s c rd n v signed).kept = s.kept := by
  unfold writeLoaded
  split <;> simp

@[simp] theorem kept_endAccess (s : State) (c : ℕ) (r : DataReg) (len : ℕ) : (endAccess s c r len).kept = s.kept := by
  unfold endAccess
  split <;> simp

@[simp] theorem kept_tryLoad_finish (c : Nat) (rd : DataReg) (va : Word) (pieces : List (Nat × Nat)) (signed : Bool) (len : Nat) (s : State) :
    (tryLoad.finish c rd va pieces signed len s).kept = s.kept := by
  unfold tryLoad.finish
  split
  next hg => simp [kept_snd hg]
  next hg => simp [kept_snd hg]
  next hg => simp [kept_snd hg]

@[simp] theorem kept_tryLoad (s : State) (c : Nat) (rd : DataReg) (va : Word) (pieces : List (Nat × Nat)) (signed : Bool) (len : Nat) :
    (tryLoad s c rd va pieces signed len).kept = s.kept := by
  unfold tryLoad
  dsimp only
  split
  · split <;> simp
  · split
    · split
      all_goals split <;> simp
    · split <;> simp

@[simp] theorem kept_snoopReply (s : State) (d : ℕ) (m : Msg) (op : Opc) (data : LineData) (poison : Bool) :
    (snoopReply s d m op data poison).kept = s.kept := by simp [snoopReply]

@[simp] theorem kept_snoopCaches (s : State) (d : ℕ) (line : ℕ) (inv : Bool) : (snoopCaches s d line inv).2.2.2.kept = s.kept := by
  unfold snoopCaches
  split <;> simp

@[simp] theorem kept_answerSnoop (s : State) (d : Nat) (m : Msg) : (answerSnoop s d m).kept = s.kept := by
  have hsn {n : Nat} {x : LineData} {p : Bool} {t : State} {inv : Bool} (h : snoopCaches s d m.line inv = (n, x, p, t)) :
      t.kept = s.kept := by
    rw [← kept_snoopCaches s d m.line inv, h]
  unfold answerSnoop
  dsimp only
  split
  · split <;> simp
  · split
    next h => simp [hsn h]
    next h => simp [hsn h]
    next h => simp [hsn h]

@[simp] theorem kept_dieSnoop (s : State) (d : ℕ) (m : Msg) : (dieSnoop s d m).kept = s.kept := by simp [dieSnoop]

@[simp] theorem keeps_execSnpShared (d : Fin 16) (m : Msg) (s : State) : keeps s (execSnpShared d m s) := by simp [execSnpShared]

@[simp] theorem keeps_execSnpInv (d : Fin 16) (m : Msg) (s : State) : keeps s (execSnpInv d m s) := by simp [execSnpInv]

@[simp] theorem keeps_execSnpBinv (d : Fin 16) (m : Msg) (s : State) : keeps s (execSnpBinv d m s) := by simp [execSnpBinv]

@[simp] theorem kept_releaseDefer (s : State) (c : ℕ) : (releaseDefer s c).kept = s.kept := by
  unfold releaseDefer
  dsimp only
  split <;> simp

@[simp] theorem kept_amoRd (s : State) (c : ℕ) (op : AmoOp) (v : ℕ) : (amoRd s c op v).kept = s.kept := by simp [amoRd]

@[simp] theorem kept_doAmo (s : State) (c : ℕ) (op : AmoOp) (va : Word) (pa : ℕ) (l : L2Line) :
    (doAmo s c op va pa l).kept = s.kept := by simp [doAmo]

@[simp] theorem kept_doLr (s : State) (c : ℕ) (op : AmoOp) (va : Word) (pa : ℕ) (l : L2Line) :
    (doLr s c op va pa l).kept = s.kept := by simp [doLr]

@[simp] theorem kept_doSc (s : State) (c : ℕ) (op : AmoOp) (pa : ℕ) (l : L2Line) : (doSc s c op pa l).kept = s.kept := by simp [doSc]

@[simp] theorem kept_doZero (s : State) (c : ℕ) (line : ℕ) : (doZero s c line).kept = s.kept := by simp [doZero]

@[simp] theorem kept_claimLine (s : State) (c line : Nat) : (claimLine s c line).2.kept = s.kept := by
  refine kept_ifRoom _ _ _ ?_
  split
  · split_ifs <;> simp
  · simp

@[simp] theorem kept_ncRead (s : State) (c : ℕ) (line : ℕ) : (ncRead s c line).kept = s.kept := by simp [ncRead]

@[simp] theorem kept_ncAsk (s : State) (c : ℕ) (line : ℕ) : (ncAsk s c line).kept = s.kept := by simp [ncAsk]

@[simp] theorem kept_retryWait (s : State) (c : Nat) (w : WaitEnt) : (retryWait s c w).kept = s.kept := by
  unfold retryWait
  dsimp only
  split
  · rfl
  · split
    case h_1 => simp
    case h_2 => simp
    case h_3 => simp
    case h_7 =>
      split
      next h => simp [kept_snd h]
      next h => simp [kept_snd h]
    case h_8 => simp
    case h_10 => simp
    all_goals
      split
      next h => simp [kept_snd h]
      next h => simp [kept_snd h]

@[simp] theorem kept_wakeLine (s : State) (d : ℕ) (line : ℕ) (first : ℕ) : (wakeLine s d line first).kept = s.kept := by simp [wakeLine]

@[simp] theorem kept_wakeIdle (s : State) (d : ℕ) : (wakeIdle s d).kept = s.kept := by simp [wakeIdle]

@[simp] theorem kept_serveLoads (s : State) (d : ℕ) (line : ℕ) : (serveLoads s d line).kept = s.kept := by simp [serveLoads]

@[simp] theorem kept_wakeFreed (s0 s : State) (c : Nat) : (wakeFreed s0 s c).kept = s.kept := by
  unfold wakeFreed
  split <;> simp

@[simp] theorem kept_endMiss (s : State) (d : Nat) (x : Miss) : (endMiss s d x).kept = s.kept := by
  simp [endMiss]

@[simp] theorem kept_placeFill (s : State) (d : ℕ) (x : Miss) (m : Msg) (st : ℕ) (way : ℕ) : (placeFill s d x m st way).kept = s.kept := by
  unfold placeFill
  split <;> simp

@[simp] theorem kept_keepFill (s : State) (d : ℕ) (x : Miss) (m : Msg) (st : ℕ) (way : ℕ) :
    (keepFill s d x m st way).kept = s.kept := by simp [keepFill]

@[simp] theorem kept_endPass (s : State) (d : ℕ) (line : ℕ) (notice : Bool) : (endPass s d line notice).kept = s.kept := by
  unfold endPass
  split <;> simp

@[simp] theorem kept_cancelFill (s : State) (d : ℕ) (x : Miss) (m : Msg) (st : ℕ) :
    (cancelFill s d x m st).kept = s.kept := by simp [cancelFill]

@[simp] theorem kept_stallFill (s : State) (d : ℕ) (m : Msg) (hand : ℕ) : (stallFill s d m hand).kept = s.kept := by simp [stallFill]

@[simp] theorem kept_installFill (s : State) (d : Nat) (x : Miss) (m : Msg) (st : Nat) : (installFill s d x m st).kept = s.kept := by
  unfold installFill
  split
  · simp
  · split
    · simp
    · split
      next ha => simp [kept_snd ha]
      next ha => simp [kept_snd ha]

@[simp] theorem kept_fill (s : State) (m : Msg) (st : ℕ) : (fill s m st).kept = s.kept := by
  unfold fill
  dsimp only
  split <;> simp

@[simp] theorem keeps_execDataS (m : Msg) (s : State) : keeps s (execDataS m s) := by simp [execDataS]

@[simp] theorem keeps_execDataE (m : Msg) (s : State) : keeps s (execDataE m s) := by simp [execDataE]

@[simp] theorem keeps_execDataM (m : Msg) (s : State) : keeps s (execDataM m s) := by simp [execDataM]

@[simp] theorem kept_deniedFill (s : State) (d : ℕ) (x : Miss) (m : Msg) : (deniedFill s d x m).kept = s.kept := by simp [deniedFill]

@[simp] theorem keeps_execL3AllocationRetry (d : Fin 16) (line : ℕ) (s : State) : keeps s (execL3AllocationRetry d line s) := by
  unfold execL3AllocationRetry
  dsimp only
  repeat' split
  all_goals simp

@[simp] theorem kept_ncTake (s : State) (c : ℕ) (rd : DataReg) (va : Word) (pieces : List (ℕ × ℕ)) (signed : Bool) (len : ℕ) (acc : ℕ) (w : ℕ) (m : Msg) :
    (ncTake s c rd va pieces signed len acc w m).kept = s.kept := by
  unfold ncTake
  dsimp only
  repeat' split
  all_goals simp

@[simp] theorem kept_dieDataNc (s : State) (d : ℕ) (m : Msg) : (dieDataNc s d m).kept = s.kept := by
  unfold dieDataNc
  dsimp only
  repeat' split
  all_goals simp

@[simp] theorem kept_endOp (s : State) (d : ℕ) (o : Msg) : (endOp s d o).kept = s.kept := by simp [endOp]

@[simp] theorem kept_dieCmp (s : State) (d : ℕ) (m : Msg) : (dieCmp s d m).kept = s.kept := by
  unfold dieCmp
  dsimp only
  repeat' split
  all_goals simp

@[simp] theorem kept_dieCmpPartial (s : State) (d : ℕ) (m : Msg) : (dieCmpPartial s d m).kept = s.kept := by
  unfold dieCmpPartial
  dsimp only
  split <;> simp

@[simp] theorem kept_sendHeld (s : State) (d : ℕ) (line : ℕ) : (sendHeld s d line).kept = s.kept := by
  unfold sendHeld
  dsimp only
  split <;> simp

@[simp] theorem kept_askHeld (s : State) (d : ℕ) (line : ℕ) : (askHeld s d line).kept = s.kept := by simp [askHeld]

@[simp] theorem kept_ackWb (s : State) (d : ℕ) (line : ℕ) : (ackWb s d line).kept = s.kept := by simp [ackWb]

@[simp] theorem keeps_execWbAck (d : Fin 16) (line : ℕ) (s : State) : keeps s (execWbAck d line s) := by simp [execWbAck]

@[simp] theorem keeps_execWbAckStale (d : Fin 16) (line : ℕ) (s : State) : keeps s (execWbAckStale d line s) := by simp [execWbAckStale]

@[simp] theorem keeps_execMbIdleDrain (c : Fin 384) (line : ℕ) (s : State) : keeps s (execMbIdleDrain c line s) := by simp [execMbIdleDrain]

@[simp] theorem keeps_execMbEntryDrained (c : Fin 384) (line : ℕ) (s : State) :
    keeps s (execMbEntryDrained c line s) := by simp [execMbEntryDrained]

@[simp] theorem keeps_execAtomicDeferralEnd (c : Fin 384) (s : State) :
    keeps s (execAtomicDeferralEnd c s) := by simp [execAtomicDeferralEnd]

/-! ### Machine/Shelver -/

@[simp] theorem kept_shvStart (who : Agent) (d : ℕ) (v : Word) (op : ℕ) (s : State) :
    (shvStart who d v op s).kept = s.kept := by simp [shvStart]

@[simp] theorem keeps_execShvClean (who : Agent) (d : Fin 16) (v : Word) (s : State) : keeps s (execShvClean who d v s) :=
  keeps_barred _ _ (by simp)

@[simp] theorem keeps_execShvInvalidate (who : Agent) (d : Fin 16) (v : Word) (s : State) : keeps s (execShvInvalidate who d v s) :=
  keeps_barred _ _ (by simp)

@[simp] theorem keeps_execShvCleanInv (who : Agent) (d : Fin 16) (v : Word) (s : State) : keeps s (execShvCleanInv who d v s) :=
  keeps_barred _ _ (by simp)

@[simp] theorem kept_shvSend (s : State) (d : ℕ) (o : ShvOp) (m : Msg) : (shvSend s d o m).kept = s.kept := by simp [shvSend]

@[simp] theorem kept_shvInvalidateLine (s : State) (d : ℕ) (o : ShvOp) (e : L3Line) (dirty : Bool) (discard : Bool) :
    (shvInvalidateLine s d o e dirty discard).kept = s.kept := by simp [shvInvalidateLine]

@[simp] theorem kept_shvKeepLine (s : State) (d : Nat) (o : ShvOp) (e : L3Line) : (shvKeepLine s d o e).kept = s.kept := by
  have hcores (l : List Nat) (f : L3Line × State → Nat → L3Line × State) (h : ∀ r c, (f r c).2.kept = r.2.kept) :
      (l.foldl f (e, s)).2.kept = s.kept := kept_foldl_snd _ _ _ h
  unfold shvKeepLine
  dsimp only
  rw [kept_inc, kept_shvSend, kept_putL3]
  split
  · rw [hcores]
    intro r c
    split
    · split <;> simp
    · rfl
  · rw [kept_bufSram, hcores]
    intro r c
    split
    · split <;> simp
    · rfl

@[simp] theorem kept_shvLine (s : State) (d : ℕ) (o : ShvOp) (e : L3Line) : (shvLine s d o e).kept = s.kept := by
  unfold shvLine
  dsimp only
  split <;> simp

@[simp] theorem keeps_execShvVisit (d : Fin 16) (s : State) : keeps s (execShvVisit d s) := by
  unfold execShvVisit
  split <;> simp

@[simp] theorem keeps_execShvComplete (d : Fin 16) (s : State) : keeps s (execShvComplete d s) := by
  unfold execShvComplete
  split <;> simp

@[simp] theorem keeps_execShvLockSizeWrite (who : Agent) (d k : Fin 16) (v : Word) (s : State) : keeps s (execShvLockSizeWrite who d k v s) :=
  keeps_barred _ _ (by simp)

/-! ### Machine/Translate -/

@[simp] theorem kept_putFull {α : Type} (s : State) (l : List α) (n : ℕ) (e : α) : (putFull s l n e).2.kept = s.kept := by
  unfold putFull
  split <;> simp

@[simp] theorem kept_tlbInstall (s : State) (c : ℕ) (acc : Acc) (e : TlbEnt) : (tlbInstall s c acc e).kept = s.kept := by
  unfold tlbInstall
  split <;> simp

@[simp] theorem kept_tlbRemove (s : State) (c : ℕ) (regime : ℕ) (asid : ℕ) (vmid : ℕ) (va : ℕ) :
    (tlbRemove s c regime asid vmid va).kept = s.kept := by simp [tlbRemove]

@[simp] theorem kept_checkTlb (s : State) (c : ℕ) (regime : ℕ) (asid : ℕ) (vmid : ℕ) (va : ℕ) (e : TlbEnt) :
    (checkTlb s c regime asid vmid va e).2.kept = s.kept := by
  unfold checkTlb
  split <;> simp

@[simp] theorem kept_walkRead (s : State) (c : Nat) (acc : Acc) (pa : Nat) : (walkRead s c acc pa).2.kept = s.kept := by
  unfold walkRead
  dsimp only
  split
  · rfl
  · split
    · rfl
    · split
      · rfl
      · rfl
      · rfl
      · split
        next =>
          split
          next h => simp [kept_snd h]
          next h => split_ifs <;> simp [kept_snd h]
        next =>
          split
          next h => simp [kept_snd h]
          next h => split_ifs <;> simp [kept_snd h]

theorem kept_walkDown (pbmt : Bool) {rd : State → Nat → Except WalkFail Word × State} {note : State → Nat → Word → State}
    (hrd : ∀ s a, (rd s a).2.kept = s.kept) (hnote : ∀ s n p, (note s n p).kept = s.kept) (va top lvl : Nat) (s : State) (base : Nat) :
    (walkDown pbmt rd note va top lvl s base).2.kept = s.kept := by
  induction lvl generalizing s base with
  | zero =>
    unfold walkDown
    dsimp only
    split
    next h => simp [kept_snd h, hrd]
    next h => split_ifs <;> simp [kept_snd h, hrd]
  | succ n ih =>
    unfold walkDown
    dsimp only
    split
    next h => simp [kept_snd h, hrd]
    next h => split_ifs <;> simp [kept_snd h, hrd, ih, hnote]

theorem kept_walkG_error (gpa : Nat) (r : Except WalkFail Leaf × State) : (match r with
    | (.ok l, s) => if l.pte.getLsbD 4 then ((.ok l, s) : Except WalkFail Leaf × State) else (.error (.guest gpa false), s)
    | (.error (.page a), s) => (.error (.guest gpa a), s)
    | r => r).2.kept = r.2.kept := by
  split
  · split <;> rfl
  · rfl
  · rfl

@[simp] theorem kept_walkG (s : State) (c : Nat) (acc : Acc) (gpa : Nat) : (walkG s c acc gpa).2.kept = s.kept := by
  unfold walkG
  dsimp only
  split
  · rfl
  · split
    · rfl
    · exact (kept_walkG_error _ _).trans (kept_walkDown _ (fun s a => kept_walkRead ..) (fun s n p => by simp) ..)

@[simp] theorem kept_walkS (s : State) (c : Nat) (acc : Acc) (regime va : Nat) : (walkS s c acc regime va).2.kept = s.kept := by
  unfold walkS
  dsimp only
  rw [kept_walkDown _ (fun s a => ?_) fun s n p => by simp]
  split
  · split
    next h => split <;> simp [kept_snd h]
    next h => simp [kept_snd h]
  · simp

@[simp] theorem kept_walkLeaves (s : State) (c : Nat) (m : Nat × Bool) (acc : Acc) (regime va : Nat) : (walkLeaves s c m acc regime va).2.kept = s.kept := by
  unfold walkLeaves
  dsimp only
  split
  · split
    next h => simp [kept_snd h]
    next h => split <;> simp [kept_snd h]
  · generalize (if regime = 0 then 0 else vmidOf s c) = vmid
    split
    next h => simp [kept_snd h]
    next h =>
      split
      · simp [kept_snd h]
      · split
        · simp [kept_snd h]
        · split
          next hg => simp [kept_snd hg, kept_snd h]
          next hg => split <;> simp [kept_snd hg, kept_snd h]

@[simp] theorem kept_walk (s : State) (c : Nat) (m : Nat × Bool) (acc : Acc) (regime va : Nat) : (walk s c m acc regime va).2.kept = s.kept := by
  unfold walk
  split
  next h => split <;> simp [kept_snd h]
  next => simp

@[simp] theorem kept_translate (s : State) (c : Nat) (va : Word) (acc : Acc) : (translate s c va acc).2.kept = s.kept := by
  unfold translate
  dsimp only
  split
  · split <;> rfl
  · generalize s.csr c _ = w
    split
    · rfl
    · split
      next =>
        split
        next => simp
        next =>
          split
          next h => simp [kept_snd h]
          next h => split <;> simp [kept_snd h]
      next =>
        split
        next h => simp [kept_snd h]
        next h => split <;> simp [kept_snd h]

@[simp] theorem kept_trapGpa (s : State) (c : ℕ) (cause : ℕ) (va : Word) (gpa : ℕ) :
    (trapGpa s c cause va gpa).kept = s.kept := by simp [trapGpa]

@[simp] theorem kept_trapTr (s : State) (c : Nat) (va : Word) (t : Tr) : (trapTr s c va t).kept = s.kept := by
  cases t <;> simp [trapTr]

@[simp] theorem keeps_execPageWalk (c : Fin 384) (va : Word) (acc : Acc) (why : WalkWhy) (s : State) :
    keeps s (execPageWalk c va acc why s) := by simp [execPageWalk]

@[simp] theorem kept_fenceVma (s : State) (c : ℕ) (regime : ℕ) (vmid : Option ℕ) (va : Option ℕ) (asid : Option ℕ) :
    (fenceVma s c regime vmid va asid).kept = s.kept := by simp [fenceVma]

@[simp] theorem kept_fenceGvma (s : State) (c : ℕ) (vmid : Option ℕ) (gpa : Option ℕ) :
    (fenceGvma s c vmid gpa).kept = s.kept := by simp [fenceGvma]

/-! ### Machine/Cores -/

@[simp] theorem kept_clearContext (s : State) (c : ℕ) : (clearContext s c).kept = s.kept := by simp [clearContext]

@[simp] theorem kept_ledgerStarting (s : State) (h : ℕ) : (ledgerStarting s h).kept = s.kept := by simp [ledgerStarting]

@[simp] theorem kept_startCore (s : State) (c : ℕ) : (startCore s c).kept = s.kept := by
  unfold startCore
  split <;> simp

@[simp] theorem kept_stopHand (s : State) (h : ℕ) : (stopHand s h).kept = s.kept := by simp [stopHand]

@[simp] theorem kept_stopLedger (s : State) (h : ℕ) (next : ℕ) : (stopLedger s h next).kept = s.kept := by simp [stopLedger]

@[simp] theorem kept_stopCore (s : State) (c : ℕ) : (stopCore s c).kept = s.kept := by
  unfold stopCore
  repeat' split
  all_goals simp

@[simp] theorem kept_coreCtl (s : State) (who : Agent) (c : ℕ) (v : Word) : (coreCtl s who c v).kept = s.kept := by
  unfold coreCtl
  repeat' split
  all_goals simp

@[simp] theorem keeps_execCoreCtlStop (who : Agent) (c : Fin 384) (v : Word) (s : State) :
    keeps s (execCoreCtlStop who c v s) := by simp [execCoreCtlStop]

@[simp] theorem kept_clearCsrs (s : State) (c : ℕ) : (clearCsrs s c).kept = s.kept := by simp [clearCsrs]

@[simp] theorem kept_refreshMip (s : State) (c : ℕ) : (refreshMip s c).kept = s.kept := by simp [refreshMip]

@[simp] theorem kept_resume (s : State) (c : ℕ) : (resume s c).kept = s.kept := by simp [resume]

@[simp] theorem kept_notify (s : State) (c : ℕ) : (notify s c).kept = s.kept := by simp [notify]

@[simp] theorem kept_beginCore (s : State) (c : ℕ) (h : ℕ) : (beginCore s c h).kept = s.kept := by simp [beginCore]

@[simp] theorem keeps_execCoreRunBegin (c : Fin 384) (s : State) : keeps s (execCoreRunBegin c s) := by
  unfold execCoreRunBegin
  split <;> simp

@[simp] theorem keeps_execCoreStopComplete (c : Fin 384) (s : State) : keeps s (execCoreStopComplete c s) := by simp [execCoreStopComplete]

@[simp] theorem keeps_execMtimecmpExpire (c : Fin 384) (t : Timer) (s : State) :
    keeps s (execMtimecmpExpire c t s) := by simp [execMtimecmpExpire]

@[simp] theorem kept_setCoreReg (s : State) (r : Reg) (c : ℕ) (v : Word) : (setCoreReg s r c v).kept = s.kept := by simp [setCoreReg]

@[simp] theorem kept_holdStore (s : State) (w : ℕ) (r : Reg) (v : Word) : (holdStore s w r v).2.kept = s.kept := by
  unfold holdStore
  dsimp only
  split <;> simp

@[simp] theorem kept_coreRegWrite (s : State) (who : Agent) (r : Reg) (c : ℕ) (v : Word) : (coreRegWrite s who r c v).kept = s.kept := by
  unfold coreRegWrite
  split <;> simp

@[simp] theorem keeps_execCoreMsipWrite (who : Agent) (c : Fin 384) (v : Word) (s : State) :
    keeps s (execCoreMsipWrite who c v s) := by simp [execCoreMsipWrite]

@[simp] theorem keeps_execCoreMtimecmpWrite (who : Agent) (c : Fin 384) (v : Word) (s : State) :
    keeps s (execCoreMtimecmpWrite who c v s) := by simp [execCoreMtimecmpWrite]

@[simp] theorem kept_drainAll (s : State) (c : ℕ) : (drainAll s c).kept = s.kept := by simp [drainAll]

@[simp] theorem kept_afterDrain (s : State) (c : Nat) {act : State → State} (h : ∀ s, (act s).kept = s.kept) : (afterDrain s c act).kept = s.kept := by
  simp [afterDrain, h]

@[simp] theorem kept_endAndRetire (s : State) (c : ℕ) (code : ℕ) (len : ℕ) :
    (endAndRetire s c code len).kept = s.kept := by simp [endAndRetire]

@[simp] theorem keeps_execFence (c : Fin 384) (pred : BitVec 4) (succ : BitVec 4) (s : State) :
    keeps s (execFence c pred succ s) := by simp [execFence]

@[simp] theorem keeps_execFenceI (c : Fin 384) (s : State) : keeps s (execFenceI c s) := by simp [execFenceI]

@[simp] theorem kept_fenceInsn (s : State) (c : Nat) (w : Word) (trapTo : Option Nat) (drains : Bool) {act : State → State} (h : ∀ s, (act s).kept = s.kept) :
    (fenceInsn s c w trapTo drains act).kept = s.kept := by
  unfold fenceInsn
  dsimp only
  split
  · rfl
  · split <;> simp [h]

@[simp] theorem kept_vmaAct (c : ℕ) (rs1 : Fin 32) (rs2 : Fin 32) (s : State) : (vmaAct c rs1 rs2 s).kept = s.kept := by simp [vmaAct]

@[simp] theorem kept_noteSinval (s : State) (c : ℕ) (b : Bool) : (noteSinval s c b).kept = s.kept := by simp [noteSinval]

@[simp] theorem keeps_execSfenceVma (c : Fin 384) (rs1 : Fin 32) (rs2 : Fin 32) (s : State) :
    keeps s (execSfenceVma c rs1 rs2 s) := by simp [execSfenceVma]

@[simp] theorem keeps_execSinvalVma (c : Fin 384) (rs1 : Fin 32) (rs2 : Fin 32) (s : State) :
    keeps s (execSinvalVma c rs1 rs2 s) := by simp [execSinvalVma]

@[simp] theorem keeps_execHfenceVvma (c : Fin 384) (rs1 : Fin 32) (rs2 : Fin 32) (inval : Bool) (s : State) :
    keeps s (execHfenceVvma c rs1 rs2 inval s) := by simp [execHfenceVvma]

@[simp] theorem keeps_execHfenceGvma (c : Fin 384) (rs1 : Fin 32) (rs2 : Fin 32) (inval : Bool) (s : State) :
    keeps s (execHfenceGvma c rs1 rs2 inval s) := by simp [execHfenceGvma]

@[simp] theorem keeps_execSfenceWInval (c : Fin 384) (s : State) : keeps s (execSfenceWInval c s) := by simp [execSfenceWInval]

@[simp] theorem keeps_execSfenceInvalIr (c : Fin 384) (s : State) : keeps s (execSfenceInvalIr c s) := by simp [execSfenceInvalIr]

@[simp] theorem keeps_execWfi (c : Fin 384) (s : State) : keeps s (execWfi c s) := by
  unfold execWfi
  repeat' split
  all_goals simp

@[simp] theorem kept_wrs (s : State) (c : ℕ) : (wrs s c).kept = s.kept := by simp [wrs]

@[simp] theorem keeps_execWrsNto (c : Fin 384) (s : State) : keeps s (execWrsNto c s) := by simp [execWrsNto]

@[simp] theorem keeps_execWrsSto (c : Fin 384) (s : State) : keeps s (execWrsSto c s) := by simp [execWrsSto]

@[simp] theorem keeps_execEcall (c : Fin 384) (s : State) : keeps s (execEcall c s) := by simp [execEcall]

@[simp] theorem kept_jlInsn (s : State) (c : Nat) (w : BitVec 32) (fn : Nat) (rs1 : Bool) {act : State → State} (h : ∀ s, (act s).kept = s.kept) :
    (jlInsn s c w fn rs1 act).kept = s.kept := by
  simp [jlInsn, h]

@[simp] theorem keeps_execJlYield (c : Fin 384) (w : BitVec 32) (s : State) : keeps s (execJlYield c w s) := by simp [execJlYield]

@[simp] theorem keeps_execJlSkip (c : Fin 384) (w : BitVec 32) (s : State) : keeps s (execJlSkip c w s) := by simp [execJlSkip]

@[simp] theorem keeps_execJlNext (c : Fin 384) (w : BitVec 32) (s : State) : keeps s (execJlNext c w s) := by simp [execJlNext]

@[simp] theorem keeps_execQuantumEndCount (c : Fin 384) (s : State) : keeps s (execQuantumEndCount c s) := by simp [execQuantumEndCount]

@[simp] theorem keeps_execHwPrefetch (c : Fin 384) (va : Word) (s : State) : keeps s (execHwPrefetch c va s) := by
  unfold execHwPrefetch
  split
  · simp
  · split
    next h =>
      dsimp only
      split <;> simp [kept_snd h]
    next h => simp [kept_snd h]

@[simp] theorem kept_locate (s : State) (c : Nat) (va : Word) (n : Nat) (acc : Acc) (k : Kind) (trs : Bool) : (locate s c va n acc k trs).2.kept = s.kept := by
  unfold locate
  dsimp only
  split
  next h =>
    split
    · simp [kept_snd h]
    · split <;> simp [kept_snd h]
  next h => simp [kept_snd h]
  next h => simp [kept_snd h]
  next h => simp [kept_snd h]

@[simp] theorem kept_putStore (s : State) (c : ℕ) (e : MbEnt) : (putStore s c e).kept = s.kept := by
  unfold putStore
  dsimp only
  repeat' split
  all_goals simp

@[simp] theorem kept_storeL1 (s : State) (c : ℕ) (e : MbEnt) : (storeL1 s c e).kept = s.kept := by
  unfold storeL1
  dsimp only
  split <;> simp

@[simp] theorem kept_ioStore (s : State) (c : ℕ) (e : MbEnt) : (ioStore s c e).kept = s.kept := by simp [ioStore]

@[simp] theorem kept_storePart (c : ℕ) (s : State) (p : MbEnt × ℕ) : (storePart c s p).kept = s.kept := by simp [storePart]

@[simp] theorem kept_doStore (s : State) (c : ℕ) (ps : List (MbEnt × ℕ)) : (doStore s c ps).2.kept = s.kept := by
  unfold doStore
  repeat' split
  all_goals simp

@[simp] theorem keeps_execCboZero (c : Fin 384) (rs1 : Fin 32) (s : State) : keeps s (execCboZero c rs1 s) := by
  unfold execCboZero
  dsimp only
  split
  · simp
  · split
    · simp
    · split
      next h => simp [kept_snd h]
      next h => simp [kept_snd h]
      next h =>
        split
        · simp [kept_snd h]
        · split
          · split
            next hd => simp [kept_snd hd, kept_snd h]
            next hd => simp [kept_snd hd, kept_snd h]
          · split
            · simp [kept_snd h]
            · split
              next hc => simp [kept_snd hc, kept_snd h]
              next hc => simp [kept_snd hc, kept_snd h]

@[simp] theorem kept_cboInsn (s : State) (c : Nat) (rs1 : Fin 32) (fn : Nat) (op : Opc) : (cboInsn s c rs1 fn op).kept = s.kept := by
  unfold cboInsn
  dsimp only
  split
  · rfl
  · split
    · simp
    · split
      · simp
      · split
        next h => simp [kept_snd h]
        next h => simp [kept_snd h]
        next h => split_ifs <;> simp [kept_snd h]

@[simp] theorem keeps_execCboCleanInsn (c : Fin 384) (rs1 : Fin 32) (s : State) :
    keeps s (execCboCleanInsn c rs1 s) := by simp [execCboCleanInsn]

@[simp] theorem keeps_execCboFlushInsn (c : Fin 384) (o : FlushOp) (s : State) :
    keeps s (execCboFlushInsn c o s) := by simp [execCboFlushInsn]

/-! ### Machine/Engine -/

@[simp] theorem kept_setCfg (s : State) (f : FnId) (off : ℕ) (w : Word) : (setCfg s f off w).kept = s.kept := by simp [setCfg]

@[simp] theorem kept_outTlp (p : ℕ) (s : State) (o : Outward) : (outTlp p s o).kept = s.kept := by simp [outTlp]

@[simp] theorem kept_sendTlp (s : State) (p : ℕ) (o : Outward) : (sendTlp s p o).kept = s.kept := by simp [sendTlp]

@[simp] theorem kept_orCfg (s : State) (f : FnId) (off : ℕ) (m : Word) : (orCfg s f off m).kept = s.kept := by simp [orCfg]

@[simp] theorem kept_aerLog (s : State) (f : FnId) (kind : ErrKind) (k : ℕ) : (aerLog s f kind k).2.kept = s.kept := by
  unfold aerLog
  dsimp only
  repeat' split
  all_goals simp

@[simp] theorem kept_fnErr (s : State) (f : FnId) (b : ℕ) : (fnErr s f b).kept = s.kept := by
  unfold fnErr
  split <;> simp

@[simp] theorem kept_portErr (s : State) (p : ℕ) (b : ℕ) (sev : ℕ) : (portErr s p b sev).kept = s.kept := by simp [portErr]

@[simp] theorem kept_linkFatal (s : State) (p : Fin 8) (e : LinkError) : (linkFatal s p e).kept = s.kept := by simp [linkFatal]

@[simp] theorem kept_linkCorrected (s : State) (p : Fin 8) : (linkCorrected s p).kept = s.kept := by simp [linkCorrected]

@[simp] theorem kept_withIntx (s : State) (p : Fin 8) {act : State → State} (h : ∀ s, (act s).kept = s.kept) : (withIntx s p act).kept = s.kept := by
  simp [withIntx, h]

@[simp] theorem kept_signal (s : State) (f : FnId) (v : ℕ) : (signal s f v).kept = s.kept := by simp [signal]

@[simp] theorem kept_sendPending (s : State) (f : FnId) : (sendPending s f).kept = s.kept := by simp [sendPending]

@[simp] theorem kept_unsignal (s : State) (f : FnId) (v : ℕ) : (unsignal s f v).kept = s.kept := by simp [unsignal]

@[simp] theorem kept_signalError (s : State) (f : FnId) : (signalError s f).kept = s.kept := by simp [signalError]

@[simp] theorem kept_issueRead1 (s : State) (f : FnId) (addr : ℕ) (len : ℕ) (use : ReadFor) :
    (issueRead1 s f addr len use).2.kept = s.kept := by
  unfold issueRead1
  dsimp only
  repeat' split
  all_goals simp

@[simp] theorem kept_issueReads (f : FnId) (base len : Nat) (mk : Nat → ReadFor) (n : Nat) (s : State) (off : Nat) :
    (issueReads f base len mk n s off).2.kept = s.kept := by
  induction n generalizing s off with
  | zero => rfl
  | succ n ih =>
    unfold issueReads
    split
    next h => simp [kept_snd h]
    next h => simp [kept_snd h, ih]

@[simp] theorem kept_pumpEngine (s : State) (q : Nat) : (pumpEngine s q).kept = s.kept := by
  refine kept_overAll _ _ _ fun s n => ?_
  dsimp only
  split
  · rfl
  · split <;> simp

@[simp] theorem kept_putTransfers (s : State) (q : ℕ) (ms : List Msg) : (putTransfers s q ms).kept = s.kept := by simp [putTransfers]

@[simp] theorem kept_dropTransfers (s : State) (q : ℕ) (sel : Msg → Bool) : (dropTransfers s q sel).kept = s.kept := by simp [dropTransfers]

/-! ### Machine/Slips -/

@[simp] theorem kept_setQState (s : State) (f : FnId) (q : ℕ) (n : ℕ) : (setQState s f q n).kept = s.kept := by simp [setQState]

@[simp] theorem kept_moveHead (s : State) (f : FnId) (q : ℕ) (n : ℕ) (back : Bool) :
    (moveHead s f q n back).kept = s.kept := by simp [moveHead]

@[simp] theorem kept_discardFetched (s : State) (f : FnId) (q : ℕ) : (discardFetched s f q).kept = s.kept := by simp [discardFetched]

@[simp] theorem kept_fillBuckets (s : State) (f : FnId) : (fillBuckets s f).kept = s.kept := by simp [fillBuckets]

@[simp] theorem kept_clearCount (s : State) (f : FnId) (q : ℕ) : (clearCount s f q).kept = s.kept := by simp [clearCount]

@[simp] theorem kept_logError (s : State) (f : FnId) (q : ℕ) (status : ℕ) (kind : ℕ) (bits : LineData) (index : ℕ) (pkg : ℕ) (done : ℕ) :
    (logError s f q status kind bits index pkg done).kept = s.kept := by simp [logError]

@[simp] theorem kept_freeze (s : State) (f : FnId) (q : ℕ) : (freeze s f q).kept = s.kept := by simp [freeze]

@[simp] theorem kept_compactFreeze (s : State) (f : FnId) (q : ℕ) : (compactFreeze s f q).2.kept = s.kept := by
  unfold compactFreeze
  split <;> simp

@[simp] theorem kept_dropWork (s : State) (f : FnId) (q : ℕ) (seq : ℕ) (drain : Bool) :
    (dropWork s f q seq drain).kept = s.kept := by simp [dropWork]

@[simp] theorem kept_endError (s : State) (f : FnId) (q : ℕ) (e : Slip) (status : ℕ) (result : ℕ) :
    (endError s f q e status result).kept = s.kept := by simp [endError]

@[simp] theorem kept_startFetch (s : State) (f : FnId) (q : Nat) : (startFetch s f q).kept = s.kept := by
  unfold startFetch
  dsimp only
  split
  · rfl
  · split
    next h => simp [kept_snd h]
    next h => simp [kept_snd h]

@[simp] theorem kept_slipsArrive (s : State) (f : FnId) (q : ℕ) (slips : List LineData) :
    (slipsArrive s f q slips).kept = s.kept := by simp [slipsArrive]

@[simp] theorem kept_fetchFail (s : State) (f : FnId) (q : ℕ) (status : ℕ) : (fetchFail s f q status).kept = s.kept := by simp [fetchFail]

@[simp] theorem kept_setSlip (s : State) (f : FnId) (q : ℕ) (e : Slip) : (setSlip s f q e).kept = s.kept := by simp [setSlip]

@[simp] theorem kept_sendReady (s : State) (f : FnId) (q seq : Nat) : (sendReady s f q seq).kept = s.kept := by
  unfold sendReady
  split
  · rfl
  · refine kept_overAll _ _ _ fun s t => ?_
    split
    · rfl
    · split_ifs <;> simp

@[simp] theorem kept_copyInBytes (s : State) (f : FnId) (q : ℕ) (seq : ℕ) (off : ℕ) (bs : List Byte) (ep : Bool) :
    (copyInBytes s f q seq off bs ep).kept = s.kept := by
  unfold copyInBytes
  split <;> simp

@[simp] theorem kept_outWrite (s : State) (f : FnId) (q : ℕ) (seq : ℕ) : (outWrite s f q seq).kept = s.kept := by
  unfold outWrite
  split <;> simp

@[simp] theorem kept_pushOut (s : State) (f : FnId) (q : ℕ) (seq : ℕ) : (pushOut s f q seq).kept = s.kept := by
  unfold pushOut
  split <;> simp

@[simp] theorem kept_copyOutLine (s : State) (f : FnId) (q : ℕ) (seq : ℕ) (line : ℕ) (data : LineData) (poison : Bool) :
    (copyOutLine s f q seq line data poison).kept = s.kept := by
  unfold copyOutLine
  split <;> simp

@[simp] theorem kept_copyInEntered (s : State) (f : FnId) (q : ℕ) (seq : ℕ) (lines : List ℕ) :
    (copyInEntered s f q seq lines).kept = s.kept := by
  unfold copyInEntered
  split <;> simp

@[simp] theorem kept_moreReads (s : State) (f : FnId) (q seq : Nat) : (moreReads s f q seq).kept = s.kept := by
  unfold moreReads
  dsimp only
  split
  · rfl
  · split
    · rfl
    · split <;> simp

@[simp] theorem kept_readLogWrites (s : State) (f : FnId) (b : LineData) : (readLogWrites s f b).2.kept = s.kept := by simp [readLogWrites]

@[simp] theorem kept_startSlip (s : State) (f : FnId) (q : ℕ) (seq : ℕ) : (startSlip s f q seq).kept = s.kept := by
  unfold startSlip
  repeat' split
  all_goals simp

@[simp] theorem kept_endWaits (s : State) (f : FnId) (q : ℕ) (seq : ℕ) : (endWaits s f q seq).kept = s.kept := by
  unfold endWaits
  split <;> simp

@[simp] theorem kept_settlePass (s : State) (f : FnId) : (settlePass s f).kept = s.kept := by simp [settlePass]

@[simp] theorem kept_settle (s : State) (f : FnId) : (settle s f).kept = s.kept := by simp [settle]

@[simp] theorem kept_setIntake (s : State) (h : ℕ) (i : Intake) : (setIntake s h i).kept = s.kept := by simp [setIntake]

@[simp] theorem kept_stageReads (s : State) (h id : Nat) : (stageReads s h id).kept = s.kept := by
  unfold stageReads
  dsimp only
  split
  · rfl
  · split <;> simp

@[simp] theorem kept_stageSend (s : State) (h id : Nat) : (stageSend s h id).kept = s.kept := by
  unfold stageSend
  split
  · rfl
  · refine kept_overAll _ _ _ fun s t => ?_
    split
    · rfl
    · dsimp only
      split_ifs <;> simp

@[simp] theorem kept_intakeBytes (s : State) (h : ℕ) (id : ℕ) (off : ℕ) (bs : List Byte) : (intakeBytes s h id off bs).kept = s.kept := by
  unfold intakeBytes
  split <;> simp

@[simp] theorem kept_failIntake (s : State) (h : ℕ) (id : ℕ) (status : ℕ) : (failIntake s h id status).kept = s.kept := by
  unfold failIntake
  split <;> simp

@[simp] theorem kept_failIntakes (s : State) (f : FnId) (status : ℕ) : (failIntakes s f status).kept = s.kept := by simp [failIntakes]

@[simp] theorem kept_kick (s : State) (f : FnId) : (kick s f).kept = s.kept := by simp [kick]

@[simp] theorem kept_kickPort (s : State) (p : Fin 8) : (kickPort s p).kept = s.kept := by simp [kickPort]

@[simp] theorem kept_postIntake (s : State) (f : FnId) (q : ℕ) (seq : ℕ) (b : LineData) :
    (postIntake s f q seq b).kept = s.kept := by simp [postIntake]

@[simp] theorem kept_abortSlip (s : State) (f : FnId) (q : ℕ) (seq : ℕ) (target : ℕ) : (abortSlip s f q seq target).kept = s.kept := by
  unfold abortSlip
  repeat' split
  all_goals simp

@[simp] theorem kept_refuseSlip (s : State) (f : FnId) (q : ℕ) (b : LineData) (index : ℕ) (status : ℕ) :
    (refuseSlip s f q b index status).kept = s.kept := by simp [refuseSlip]

@[simp] theorem kept_admitSlip (s : State) (f : FnId) (q : ℕ) (op : ℕ) : (admitSlip s f q op).kept = s.kept := by
  unfold admitSlip
  dsimp only
  repeat' split
  all_goals simp

@[simp] theorem keeps_execNop (f : FnId) (q : Fin 16) (s : State) : keeps s (execNop f q s) := by simp [execNop]

@[simp] theorem keeps_execCopyIn (f : FnId) (q : Fin 16) (s : State) : keeps s (execCopyIn f q s) := by simp [execCopyIn]

@[simp] theorem keeps_execCopyOut (f : FnId) (q : Fin 16) (s : State) : keeps s (execCopyOut f q s) := by simp [execCopyOut]

@[simp] theorem keeps_execPost (f : FnId) (q : Fin 16) (s : State) : keeps s (execPost f q s) := by simp [execPost]

@[simp] theorem keeps_execFenceSlip (f : FnId) (q : Fin 16) (s : State) : keeps s (execFenceSlip f q s) := by simp [execFenceSlip]

@[simp] theorem keeps_execAbort (f : FnId) (q : Fin 16) (s : State) : keeps s (execAbort f q s) := by simp [execAbort]

@[simp] theorem keeps_execReadLog (f : FnId) (q : Fin 16) (s : State) : keeps s (execReadLog f q s) := by simp [execReadLog]

@[simp] theorem keeps_execSetState (f : FnId) (q : Fin 16) (s : State) : keeps s (execSetState f q s) := by simp [execSetState]

@[simp] theorem keeps_execQueryBound (f : FnId) (q : Fin 16) (s : State) : keeps s (execQueryBound f q s) := by simp [execQueryBound]

@[simp] theorem keeps_execSlipFetchDone (f : FnId) (q : Fin 16) (slips : List LineData) (s : State) :
    keeps s (execSlipFetchDone f q slips s) := by simp [execSlipFetchDone]

@[simp] theorem kept_badDoorbell (s : State) (f : FnId) (q : ℕ) (v : ℕ) : (badDoorbell s f q v).kept = s.kept := by simp [badDoorbell]

@[simp] theorem keeps_execSqTailDoorbell (f : FnId) (q : Fin 16) (v : BitVec 32) (s : State) :
    keeps s (execSqTailDoorbell f q v s) := by simp [execSqTailDoorbell]

@[simp] theorem keeps_execCqHeadDoorbell (f : FnId) (q : Fin 16) (v : BitVec 32) (s : State) :
    keeps s (execCqHeadDoorbell f q v s) := by simp [execCqHeadDoorbell]

@[simp] theorem kept_ringReset (s : State) (f : FnId) (q : ℕ) : (ringReset s f q).kept = s.kept := by simp [ringReset]

@[simp] theorem kept_disableQueue (s : State) (f : FnId) (q : ℕ) : (disableQueue s f q).kept = s.kept := by simp [disableQueue]

@[simp] theorem kept_qpCtl (s : State) (f : FnId) (q : ℕ) (v : BitVec 32) : (qpCtl s f q v).kept = s.kept := by simp [qpCtl]

@[simp] theorem keeps_execQueueEnable (f : FnId) (q : Fin 16) (v : BitVec 32) (s : State) :
    keeps s (execQueueEnable f q v s) := by simp [execQueueEnable]

@[simp] theorem keeps_execQueueDisable (f : FnId) (q : Fin 16) (v : BitVec 32) (s : State) :
    keeps s (execQueueDisable f q v s) := by simp [execQueueDisable]

@[simp] theorem keeps_execQueueRestart (f : FnId) (q : Fin 16) (v : BitVec 32) (s : State) :
    keeps s (execQueueRestart f q v s) := by simp [execQueueRestart]

@[simp] theorem kept_setIdle (s : State) (f : FnId) (q : ℕ) (n : ℕ) : (setIdle s f q n).kept = s.kept := by simp [setIdle]

@[simp] theorem keeps_execQueueIdleState1 (f : FnId) (q : Fin 16) (s : State) :
    keeps s (execQueueIdleState1 f q s) := by simp [execQueueIdleState1]

@[simp] theorem keeps_execQueueIdleState2 (f : FnId) (q : Fin 16) (s : State) :
    keeps s (execQueueIdleState2 f q s) := by simp [execQueueIdleState2]

@[simp] theorem keeps_execQueueIdleExit (f : FnId) (q : Fin 16) (s : State) :
    keeps s (execQueueIdleExit f q s) := by simp [execQueueIdleExit]

@[simp] theorem kept_deferredError (s : State) (f : FnId) (q : ℕ) (tag : ℕ) (poisoned : Bool) (line : ℕ) :
    (deferredError s f q tag poisoned line).kept = s.kept := by
  unfold deferredError
  repeat' split
  all_goals simp

@[simp] theorem keeps_execDeferredError (f : FnId) (q : Fin 16) (tag : BitVec 16) (poisoned : Bool) (line : ℕ) (s : State) :
    keeps s (execDeferredError f q tag poisoned line s) := by simp [execDeferredError]

@[simp] theorem kept_injectDeferred (s : State) (f : FnId) (q : ℕ) (r : RetSlip) :
    (injectDeferred s f q r).kept = s.kept := by simp [injectDeferred]

@[simp] theorem kept_postOne (f : FnId) (q : ℕ) (s : State) : (postOne f q s).kept = s.kept := by
  unfold postOne
  dsimp only
  split <;> simp

@[simp] theorem kept_postReturn (f : FnId) (q : ℕ) (s : State) : (postReturn f q s).kept = s.kept := by simp [postReturn]

@[simp] theorem kept_wakeFn (s : State) (f : FnId) : (wakeFn s f).kept = s.kept := by
  simp only [wakeFn]
  rw [kept_settle, kept_kick, kept_sendPending,
    kept_overAll _ _ _ fun s _ => kept_overAll _ _ _ fun s q => kept_overAll _ _ _ fun s _ => kept_postOne ..]

@[simp] theorem keeps_execReturnSlipPost (f : FnId) (q : Fin 16) (s : State) :
    keeps s (execReturnSlipPost f q s) := by simp [execReturnSlipPost]

@[simp] theorem kept_mailboxLoaded (s : State) (p : ℕ) (q : ℕ) (b : LineData) :
    (mailboxLoaded s p q b).kept = s.kept := by simp [mailboxLoaded]

@[simp] theorem kept_payloadEntered (s : State) (p : ℕ) : (payloadEntered s p).kept = s.kept := by
  unfold payloadEntered
  repeat' split
  all_goals simp

@[simp] theorem keeps_execSetStateMailboxLoad (p : Fin 8) (payload : List Byte) (s : State) :
    keeps s (execSetStateMailboxLoad p payload s) := by
  unfold execSetStateMailboxLoad
  dsimp only
  split <;> simp

@[simp] theorem keeps_execCsqSsDoneWrite (who : Agent) (p : Fin 8) (v : Word) (s : State) : keeps s (execCsqSsDoneWrite who p v s) := by
  unfold execCsqSsDoneWrite
  dsimp only
  repeat' split
  all_goals simp

@[simp] theorem keeps_execCsqSsBufWrite (who : Agent) (p : Fin 8) (v : Word) (s : State) :
    keeps s (execCsqSsBufWrite who p v s) := by simp [execCsqSsBufWrite]

@[simp] theorem kept_csqInject (s : State) (who : Agent) (v : Word) : (csqInject s who v).kept = s.kept := by simp [csqInject]

@[simp] theorem keeps_execCsqInjectPoison (who : Agent) (v : Word) (s : State) :
    keeps s (execCsqInjectPoison who v s) := by simp [execCsqInjectPoison]

@[simp] theorem keeps_execCsqInjectLost (who : Agent) (v : Word) (s : State) :
    keeps s (execCsqInjectLost who v s) := by simp [execCsqInjectLost]

/-! ### Machine/Power -/

@[simp] theorem kept_setBlockState (s : State) (b : ℕ) (n : ℕ) : (setBlockState s b n).kept = s.kept := by simp [setBlockState]

@[simp] theorem kept_sckErr (s : State) (b : ℕ) (sev : ℕ) : (sckErr s b sev).kept = s.kept := by simp [sckErr]

@[simp] theorem kept_lowerBlocks (s : State) : (lowerBlocks s).kept = s.kept := by simp [lowerBlocks]

@[simp] theorem kept_updatePkg (s : State) : (updatePkg s).kept = s.kept := by simp [updatePkg]

@[simp] theorem kept_beginStep (s : State) (d : ℕ) (k : ℕ) : (beginStep s d k).kept = s.kept := by simp [beginStep]

@[simp] theorem kept_endLadder (s : State) (d : ℕ) : (endLadder s d).kept = s.kept := by simp [endLadder]

@[simp] theorem kept_steerDie (s : State) (d : ℕ) : (steerDie s d).kept = s.kept := by simp [steerDie]

@[simp] theorem kept_setVote (s : State) (p : ℕ) : (setVote s p).kept = s.kept := by simp [setVote]

@[simp] theorem kept_retarget (s : State) : (retarget s).kept = s.kept := by simp [retarget]

@[simp] theorem keeps_execPwrPkgWrite (p : Fin 8) (v : Word) (s : State) : keeps s (execPwrPkgWrite p v s) := by simp [execPwrPkgWrite]

@[simp] theorem keeps_execPwrDieWrite (p : Fin 8) (v : Word) (s : State) : keeps s (execPwrDieWrite p v s) := by simp [execPwrDieWrite]

@[simp] theorem keeps_execDiePassReached (d : Fin 16) (s : State) : keeps s (execDiePassReached d s) := by simp [execDiePassReached]

@[simp] theorem kept_foldWork (s : State) (d : Nat) : (foldWork s d).kept = s.kept := by
  unfold foldWork
  rw [kept_overAll _ _ _ fun s e => ?_]
  · simp
  · split
    · split <;> simp
    · rfl

@[simp] theorem kept_enterOut (s : State) (d : ℕ) : (enterOut s d).kept = s.kept := by simp [enterOut]

@[simp] theorem keeps_execDieFoldReached (d : Fin 16) (s : State) : keeps s (execDieFoldReached d s) := by simp [execDieFoldReached]

@[simp] theorem kept_fallBack (s : State) (d : ℕ) (k : ℕ) : (fallBack s d k).kept = s.kept := by simp [fallBack]

@[simp] theorem kept_governed (s : State) (delayed : Bool) : (governed s delayed).kept = s.kept := by simp [governed]

@[simp] theorem keeps_execWakeStepEnd (o : GovStep) (s : State) : keeps s (execWakeStepEnd o s) := by
  unfold execWakeStepEnd
  dsimp only
  split <;> simp

@[simp] theorem keeps_execIodBlockPlay (b : Fin 33) (s : State) : keeps s (execIodBlockPlay b s) := by simp [execIodBlockPlay]

@[simp] theorem keeps_execVoltageSettled (d : Fin 16) (s : State) : keeps s (execVoltageSettled d s) := by simp [execVoltageSettled]

@[simp] theorem keeps_execCdPgTimeout (d : Fin 16) (s : State) : keeps s (execCdPgTimeout d s) := by simp [execCdPgTimeout]

@[simp] theorem keeps_execDieLinkUp (d : Fin 16) (s : State) : keeps s (execDieLinkUp d s) := by simp [execDieLinkUp]

@[simp] theorem keeps_execOpChangeStart (o : GovStep) (target : BitVec 2) (s : State) :
    keeps s (execOpChangeStart o target s) := by simp [execOpChangeStart]

@[simp] theorem keeps_execOpRampStep (o : GovStep) (s : State) : keeps s (execOpRampStep o s) := by simp [execOpRampStep]

@[simp] theorem keeps_execOpReqWrite (who : Agent) (d : Fin 16) (v : Word) (s : State) :
    keeps s (execOpReqWrite who d v s) := by simp [execOpReqWrite]

@[simp] theorem keeps_execIssueLevelGrant (c : Fin 384) (s : State) : keeps s (execIssueLevelGrant c s) := by simp [execIssueLevelGrant]

@[simp] theorem keeps_execIssueLevelReset (c : Fin 384) (s : State) : keeps s (execIssueLevelReset c s) := by simp [execIssueLevelReset]

@[simp] theorem keeps_execTelemetryRecord (d : Fin 16) (t : Telem) (s : State) :
    keeps s (execTelemetryRecord d t s) := by simp [execTelemetryRecord]

@[simp] theorem keeps_execTelemetryLost (d : Fin 16) (s : State) : keeps s (execTelemetryLost d s) := by simp [execTelemetryLost]

@[simp] theorem kept_lowerDie (s : State) (d : ℕ) : (lowerDie s d).kept = s.kept := by simp [lowerDie]

@[simp] theorem keeps_execThermalThrottle (d : Fin 16) (s : State) : keeps s (execThermalThrottle d s) := by simp [execThermalThrottle]

@[simp] theorem kept_forcePass (s : State) (d : ℕ) : (forcePass s d).kept = s.kept := by simp [forcePass]

@[simp] theorem keeps_execDieTrip (d : Fin 16) (s : State) : keeps s (execDieTrip d s) := by simp [execDieTrip]

@[simp] theorem kept_iodTrip (s : State) (cause : TripCause) : (iodTrip s cause).kept = s.kept := by simp [iodTrip]

@[simp] theorem keeps_execIodTrip (cause : TripCause) (s : State) : keeps s (execIodTrip cause s) := by simp [execIodTrip]

@[simp] theorem keeps_execTripRelease (u : TripUnit) (s : State) : keeps s (execTripRelease u s) := by
  unfold execTripRelease
  split <;> simp

@[simp] theorem keeps_execThermtrip (s : State) : keeps s (execThermtrip s) := by simp [execThermtrip]

@[simp] theorem kept_setInlet (s : State) (t : ℕ) : (setInlet s t).kept = s.kept := by simp [setInlet]

@[simp] theorem kept_lowerOne (s : State) (d : ℕ) : (lowerOne s d).kept = s.kept := by simp [lowerOne]

@[simp] theorem keeps_execPowerLimitCheck (m : PowerSample) (s : State) : keeps s (execPowerLimitCheck m s) := by
  unfold execPowerLimitCheck
  dsimp only
  split <;> simp

@[simp] theorem keeps_execOpRiseCheck (d : Fin 16) (s : State) : keeps s (execOpRiseCheck d s) := by simp [execOpRiseCheck]

@[simp] theorem keeps_execHeatAccount (inlet : BitVec 16) (outlet : BitVec 16) (s : State) :
    keeps s (execHeatAccount inlet outlet s) := by simp [execHeatAccount]

@[simp] theorem kept_sckInject (s : State) (who : Agent) (v : Word) : (sckInject s who v).kept = s.kept := by simp [sckInject]

@[simp] theorem keeps_execSckInjectInlet (who : Agent) (v : Word) (s : State) :
    keeps s (execSckInjectInlet who v s) := by simp [execSckInjectInlet]

@[simp] theorem keeps_execSckInjectIodTrip (who : Agent) (v : Word) (s : State) :
    keeps s (execSckInjectIodTrip who v s) := by simp [execSckInjectIodTrip]

@[simp] theorem keeps_execSckInjectTrip (who : Agent) (v : Word) (s : State) :
    keeps s (execSckInjectTrip who v s) := by simp [execSckInjectTrip]

@[simp] theorem keeps_execSckInjectTelem (who : Agent) (v : Word) (s : State) :
    keeps s (execSckInjectTelem who v s) := by simp [execSckInjectTelem]

@[simp] theorem keeps_execSecureHoldSet (b : Fin 35) (s : State) : keeps s (execSecureHoldSet b s) := by simp [execSecureHoldSet]

@[simp] theorem keeps_execSecureHoldClear (b : Fin 35) (s : State) : keeps s (execSecureHoldClear b s) := by simp [execSecureHoldClear]

@[simp] theorem keeps_execSecurePreemptExpire (s : State) : keeps s (execSecurePreemptExpire s) := by
  unfold execSecurePreemptExpire
  split <;> simp

/-! ### Machine/Ports -/

@[simp] theorem kept_setPortLink (s : State) (p : ℕ) (n : ℕ) : (setPortLink s p n).kept = s.kept := by simp [setPortLink]

@[simp] theorem kept_trainPort (s : State) (p : ℕ) : (trainPort s p).kept = s.kept := by simp [trainPort]

@[simp] theorem kept_noteNarrow (s : State) (p : ℕ) (speed : ℕ) (width : ℕ) :
    (noteNarrow s p speed width).kept = s.kept := by simp [noteNarrow]

@[simp] theorem kept_setRates (s : State) (p : ℕ) (speed : ℕ) (width : ℕ) (flit : Bool) :
    (setRates s p speed width flit).kept = s.kept := by simp [setRates]

@[simp] theorem keeps_execPcieLinkUp (p : Fin 8) (speed : ℕ) (width : ℕ) (flit : Bool) (s : State) :
    keeps s (execPcieLinkUp p speed width flit s) := by simp [execPcieLinkUp]

@[simp] theorem kept_wakePort (s : State) (p : Fin 8) : (wakePort s p).kept = s.kept := by simp [wakePort]

@[simp] theorem keeps_execPcieRetrain (p : Fin 8) (rate : Option (ℕ × Bool)) (width : ℕ) (s : State) :
    keeps s (execPcieRetrain p rate width s) := by
  unfold execPcieRetrain
  split <;> simp

@[simp] theorem keeps_execPortL1Entry (p : Fin 8) (s : State) : keeps s (execPortL1Entry p s) := by simp [execPortL1Entry]

@[simp] theorem keeps_execPortL1Exit (p : Fin 8) (s : State) : keeps s (execPortL1Exit p s) := by simp [execPortL1Exit]

@[simp] theorem kept_dropReads (s : State) (f : FnId) : (dropReads s f).kept = s.kept := by simp [dropReads]

@[simp] theorem kept_orphan (s : State) (f : FnId) : (orphan s f).kept = s.kept := by
  unfold orphan
  dsimp only
  split <;> simp

@[simp] theorem kept_masterOff (s : State) (f : FnId) : (masterOff s f).kept = s.kept := by simp [masterOff]

@[simp] theorem kept_setBme (s : State) (f : FnId) (b : Bool) : (setBme s f b).kept = s.kept := by simp [setBme]

@[simp] theorem kept_busMasterOff (s : State) (f : FnId) : (busMasterOff s f).kept = s.kept := by simp [busMasterOff]

@[simp] theorem kept_busMasterOn (s : State) (f : FnId) : (busMasterOn s f).kept = s.kept := by simp [busMasterOn]

@[simp] theorem keeps_execBusMasterDisable (f : FnId) (s : State) : keeps s (execBusMasterDisable f s) := by simp [execBusMasterDisable]

@[simp] theorem keeps_execBusMasterEnable (f : FnId) (s : State) : keeps s (execBusMasterEnable f s) := by simp [execBusMasterEnable]

@[simp] theorem kept_clearCfg (s : State) (f : FnId) : (clearCfg s f).kept = s.kept := by simp [clearCfg]

@[simp] theorem kept_clearQueueRegs (s : State) (f : FnId) (q : ℕ) : (clearQueueRegs s f q).kept = s.kept := by simp [clearQueueRegs]

@[simp] theorem kept_clearPower (s : State) (p : ℕ) : (clearPower s p).kept = s.kept := by simp [clearPower]

@[simp] theorem kept_resetFn (s : State) (f : FnId) : (resetFn s f).kept = s.kept := by simp [resetFn]

@[simp] theorem kept_resetWithVfs (s : State) (f : FnId) : (resetWithVfs s f).kept = s.kept := by
  unfold resetWithVfs
  split <;> simp

@[simp] theorem kept_startFlr (s : State) (f : FnId) : (startFlr s f).kept = s.kept := by simp [startFlr]

@[simp] theorem keeps_execFunctionLevelReset (f : FnId) (s : State) :
    keeps s (execFunctionLevelReset f s) := by simp [execFunctionLevelReset]

@[simp] theorem keeps_execFlrComplete (f : FnId) (s : State) : keeps s (execFlrComplete f s) := by simp [execFlrComplete]

@[simp] theorem kept_vfEnableOff (s : State) (p : Fin 8) : (vfEnableOff s p).kept = s.kept := by simp [vfEnableOff]

@[simp] theorem keeps_execVfEnableClear (p : Fin 8) (s : State) : keeps s (execVfEnableClear p s) := by simp [execVfEnableClear]

@[simp] theorem kept_toD0 (s : State) (f : FnId) : (toD0 s f).kept = s.kept := by simp [toD0]

@[simp] theorem kept_toD3 (s : State) (f : FnId) : (toD3 s f).kept = s.kept := by simp [toD3]

@[simp] theorem keeps_execD3hotToD0 (f : FnId) (s : State) : keeps s (execD3hotToD0 f s) := by simp [execD3hotToD0]

@[simp] theorem keeps_execD0ToD3hot (f : FnId) (s : State) : keeps s (execD0ToD3hot f s) := by simp [execD0ToD3hot]

@[simp] theorem kept_downQueues (s : State) (f : FnId) : (downQueues s f).kept = s.kept := by simp [downQueues]

@[simp] theorem kept_downFn (s : State) (f : FnId) : (downFn s f).kept = s.kept := by simp [downFn]

@[simp] theorem kept_linkDown (s : State) (p : Fin 8) : (linkDown s p).kept = s.kept := by simp [linkDown]

@[simp] theorem keeps_execPcieLinkDown (p : Fin 8) (s : State) : keeps s (execPcieLinkDown p s) := by simp [execPcieLinkDown]

@[simp] theorem keeps_execHpPerst (p : Fin 8) (asserted : Bool) (s : State) : keeps s (execHpPerst p asserted s) := by simp [execHpPerst]

@[simp] theorem keeps_execLtrSend (p : Fin 8) (s : State) : keeps s (execLtrSend p s) := by simp [execLtrSend]

@[simp] theorem kept_readFailed (s : State) (f : FnId) (use : ReadFor) (status : ℕ) : (readFailed s f use status).kept = s.kept := by
  unfold readFailed
  repeat' split
  all_goals simp

@[simp] theorem kept_readData (s : State) (r : OutRead) (bs : List Byte) (ep : Bool) (last : Bool) :
    (readData s r bs ep last).kept = s.kept := by
  unfold readData
  split <;> simp

@[simp] theorem kept_replayed (s : State) (p : Fin 8) : (replayed s p).kept = s.kept := by simp [replayed]

@[simp] theorem kept_lcrcReplay (s : State) (p : Fin 8) : (lcrcReplay s p).kept = s.kept := by simp [lcrcReplay]

@[simp] theorem kept_tookTlp (s : State) (p : Fin 8) : (tookTlp s p).kept = s.kept := by simp [tookTlp]

@[simp] theorem kept_unexpectedCpl (s : State) (p : Fin 8) (tag : ℕ) : (unexpectedCpl s p tag).kept = s.kept := by
  unfold unexpectedCpl
  split <;> simp

@[simp] theorem keeps_execReadCompletion (p : Fin 8) (c : Cpl) (s : State) : keeps s (execReadCompletion p c s) := by
  unfold execReadCompletion
  dsimp only
  repeat' split
  all_goals simp

@[simp] theorem kept_timeOut (s : State) (p : Fin 8) (r : OutRead) : (timeOut s p r).kept = s.kept := by simp [timeOut]

@[simp] theorem keeps_execReadTimeout (p : Fin 8) (tag : ℕ) (s : State) : keeps s (execReadTimeout p tag s) := by
  unfold execReadTimeout
  split <;> simp

@[simp] theorem kept_queueSram (s : State) (f : FnId) (q : ℕ) : (queueSram s f q).2.kept = s.kept := by
  unfold queueSram
  dsimp only
  split <;> simp

@[simp] theorem kept_queueWrite (s : State) (f : FnId) (q : Nat) {act : State → State} (h : ∀ s, (act s).kept = s.kept) : (queueWrite s f q act).kept = s.kept := by
  unfold queueWrite
  split
  next hq => simp [kept_snd hq]
  next hq => simp [kept_snd hq, h]

@[simp] theorem kept_barWrite (s : State) (f : FnId) (r : Reg) (v : Word) : (barWrite s f r v).kept = s.kept := by
  have hout {s t : State} {o : Out} (h : keeps s o) : (match o with | .next t => t | _ => t).kept = s.kept := by
    obtain ⟨t, rfl, ht⟩ := h
    exact ht
  unfold barWrite
  dsimp only
  split
  · exact kept_queueWrite _ _ _ fun s => hout (keeps_execSqTailDoorbell ..)
  · exact kept_queueWrite _ _ _ fun s => hout (keeps_execCqHeadDoorbell ..)
  · exact kept_queueWrite _ _ _ fun s => kept_qpCtl ..
  · exact kept_queueWrite _ _ _ fun s => by simp
  · exact kept_queueWrite _ _ _ fun s => by simp
  · exact hout (keeps_execPwrPkgWrite ..)
  · exact hout (keeps_execPwrDieWrite ..)
  · rfl

@[simp] theorem kept_tableWrite (s : State) (f : FnId) (off : ℕ) (bs : List Byte) :
    (tableWrite s f off bs).kept = s.kept := by simp [tableWrite]

@[simp] theorem kept_barStore (s : State) (f : FnId) (off : ℕ) (bs : List Byte) (en : List Bool) :
    (barStore s f off bs en).kept = s.kept := by
  unfold barStore
  repeat' split
  all_goals simp

@[simp] theorem kept_complete (s : State) (p : Fin 8) (fn : ℕ) (st : CplStatus) (bs : List Byte) :
    (complete s p fn st bs).kept = s.kept := by simp [complete]

@[simp] theorem kept_unsupported (s : State) (p : Fin 8) (posted : Bool) : (unsupported s p posted).kept = s.kept := by simp [unsupported]

@[simp] theorem kept_cfgWriteEffect (s : State) (f : FnId) (off : ℕ) (v : BitVec 32) (m : BitVec 32) :
    (cfgWriteEffect s f off v m).kept = s.kept := by
  unfold cfgWriteEffect
  split <;> simp

@[simp] theorem kept_cfgRequest (s : State) (p : Fin 8) (t : Tlp) (write : Bool) : (cfgRequest s p t write).kept = s.kept := by
  unfold cfgRequest
  split <;> simp

@[simp] theorem kept_finishPeers (p : Fin 8) (n : Nat) (s : State) : (finishPeers p n s).kept = s.kept := by
  induction n generalizing s with
  | zero => rfl
  | succ n ih =>
    unfold finishPeers
    dsimp only
    split
    · rfl
    · split_ifs <;> simp [ih]

@[simp] theorem kept_peerRequest (s : State) (p : Fin 8) (t : Tlp) (w : ℕ) (addr : ℕ) (n : ℕ) (write : Bool) :
    (peerRequest s p t w addr n write).kept = s.kept := by
  unfold peerRequest
  dsimp only
  repeat' split
  all_goals simp_all

@[simp] theorem kept_memRequest (s : State) (p : Fin 8) (t : Tlp) (write : Bool) : (memRequest s p t write).kept = s.kept := by
  unfold memRequest
  dsimp only
  repeat' split
  all_goals simp

@[simp] theorem keeps_execInboundTlp (p : Fin 8) (t : Tlp) (s : State) : keeps s (execInboundTlp p t s) := by
  unfold execInboundTlp
  repeat' split
  all_goals simp

@[simp] theorem kept_peerLine (s : State) (p : Fin 8) (id : ℕ) (line : ℕ) (data : Option (LineData × Bool)) :
    (peerLine s p id line data).kept = s.kept := by
  unfold peerLine
  dsimp only
  repeat' split
  all_goals simp

@[simp] theorem keeps_execHpWinCommitGo (who : Agent) (p : Fin 8) (v : Word) (s : State) :
    keeps s (execHpWinCommitGo who p v s) := by simp [execHpWinCommitGo]

@[simp] theorem keeps_execWindowSetSwitch (p : Fin 8) (s : State) : keeps s (execWindowSetSwitch p s) := by simp [execWindowSetSwitch]

@[simp] theorem kept_hpInject (s : State) (who : Agent) (p : Fin 8) (v : Word) : (hpInject s who p v).kept = s.kept := by
  unfold hpInject
  dsimp only
  repeat' split
  all_goals simp

@[simp] theorem keeps_execHpInjectLinkDown (who : Agent) (p : Fin 8) (v : Word) (s : State) :
    keeps s (execHpInjectLinkDown who p v s) := by simp [execHpInjectLinkDown]

@[simp] theorem keeps_execHpInjectPoison (who : Agent) (p : Fin 8) (v : Word) (s : State) :
    keeps s (execHpInjectPoison who p v s) := by simp [execHpInjectPoison]

@[simp] theorem keeps_execHpInjectTimeout (who : Agent) (p : Fin 8) (v : Word) (s : State) :
    keeps s (execHpInjectTimeout who p v s) := by simp [execHpInjectTimeout]

@[simp] theorem keeps_execHpInjectLcrc (who : Agent) (p : Fin 8) (v : Word) (s : State) :
    keeps s (execHpInjectLcrc who p v s) := by simp [execHpInjectLcrc]

/-! ### Machine/Answers -/

@[simp] theorem kept_arcAnswer (s : State) (id : ℕ) (line : ℕ) (data : Option (LineData × Bool)) :
    (arcAnswer s id line data).kept = s.kept := by
  unfold arcAnswer
  repeat' split
  all_goals simp

@[simp] theorem kept_deliveryLine (s : State) (h : ℕ) (m : Msg) (data : Option (LineData × Bool)) :
    (deliveryLine s h m data).kept = s.kept := by
  unfold deliveryLine
  split <;> simp

@[simp] theorem kept_iodAnswer (s : State) (m : Msg) : (iodAnswer s m).kept = s.kept := by
  unfold iodAnswer
  repeat' split
  all_goals simp

@[simp] theorem kept_receive (s : State) (m : Msg) {other : Nat → State} (h : ∀ d, (other d).kept = s.kept) : (receive s m other).kept = s.kept := by
  unfold receive
  split
  · exact h _
  · split <;> simp

@[simp] theorem keeps_execCmp (m : Msg) (s : State) : keeps s (execCmp m s) := by simp [execCmp]

@[simp] theorem keeps_execCmpPartial (m : Msg) (s : State) : keeps s (execCmpPartial m s) := by simp [execCmpPartial]

@[simp] theorem keeps_execDataNc (m : Msg) (s : State) : keeps s (execDataNc m s) := by simp [execDataNc]

@[simp] theorem kept_workEntered (s : State) (txn : ℕ) (q : ℕ) (lines : List ℕ) : (workEntered s txn q lines).kept = s.kept := by
  unfold workEntered
  split <;> simp

@[simp] theorem keeps_execClassDTransferEnter (n : Fin 16) (q : Fin 10) (s : State) :
    keeps s (execClassDTransferEnter n q s) := by simp [execClassDTransferEnter]

/-! ### Machine/Ledger -/

@[simp] theorem kept_setPhase (s : State) (h : ℕ) (n : ℕ) (ended : ℕ) : (setPhase s h n ended).kept = s.kept := by simp [setPhase]

@[simp] theorem kept_stageAll (s : State) (h : ℕ) : (stageAll s h).kept = s.kept := by simp [stageAll]

@[simp] theorem kept_unlessLost (s : State) (h : Nat) {f : State → State} (hf : ∀ s, (f s).kept = s.kept) : (unlessLost s h f).kept = s.kept := by
  simp [unlessLost, hf]

@[simp] theorem keeps_execLedgerRunEnd (h : Fin 64) (s : State) : keeps s (execLedgerRunEnd h s) := by simp [execLedgerRunEnd]

@[simp] theorem kept_loseReservations (s : State) (h line : Nat) : (loseReservations s h line).kept = s.kept := by
  refine kept_overAll _ _ _ fun s c => ?_
  dsimp only
  split
  · split <;> simp
  · rfl

@[simp] theorem kept_publishLines (h c : Nat) (l : List MbEnt) (s : State) : (publishLines h c l s).kept = s.kept := by
  induction l generalizing s with
  | nil => rfl
  | cons e t ih =>
    unfold publishLines
    split
    next hc => simp [kept_snd hc]
    next hc =>
      dsimp only
      split <;> simp [kept_snd hc, ih]

@[simp] theorem kept_lateError (s : State) (c : ℕ) (va : Word) (line : ℕ) : (lateError s c va line).kept = s.kept := by simp [lateError]

@[simp] theorem kept_lateDone (s : State) (c : ℕ) : (lateDone s c).kept = s.kept := by simp [lateDone]

@[simp] theorem kept_performLater (s : State) (h c : Nat) : (performLater s h c).kept = s.kept := by
  unfold performLater
  dsimp only
  split
  · rfl
  all_goals
    split
    next hc => simp [kept_snd hc]
    next hc => simp [kept_snd hc]

@[simp] theorem kept_performHeld (s : State) (e : MbEnt) : (performHeld s e).kept = s.kept := by
  unfold performHeld
  dsimp only
  split <;> simp

@[simp] theorem kept_publish (s : State) (h : ℕ) (c : ℕ) : (publish s h c).kept = s.kept := by
  unfold publish
  dsimp only
  repeat' split
  all_goals simp

@[simp] theorem keeps_execLedgerTokenArrive (c : Fin 384) (s : State) : keeps s (execLedgerTokenArrive c s) := by
  unfold execLedgerTokenArrive
  split <;> simp

@[simp] theorem kept_noteIntake (s : State) (h : ℕ) (i : Intake) : (noteIntake s h i).kept = s.kept := by simp [noteIntake]

@[simp] theorem kept_sendDelivery (s : State) (h : ℕ) (i : Intake) : (sendDelivery s h i).kept = s.kept := by simp [sendDelivery]

@[simp] theorem kept_endHold (s : State) (h : ℕ) : (endHold s h).kept = s.kept := by
  unfold endHold
  split <;> simp

@[simp] theorem kept_deliverDue (s : State) (h : Nat) : (deliverDue s h).kept = s.kept := by
  unfold deliverDue
  dsimp only
  split
  · rfl
  · rw [kept_unlessLost _ _ fun s => kept_setLedger .., kept_overAll _ _ _ fun s i => kept_unlessLost _ _ fun s => ?_, kept_endHold]
    rw [kept_unlessLost _ _ fun s => kept_sendDelivery .., kept_noteIntake]

@[simp] theorem kept_holdDeliver (s : State) (h : ℕ) : (holdDeliver s h).kept = s.kept := by simp [holdDeliver]

@[simp] theorem keeps_execCoreCtlStart (who : Agent) (c : Fin 384) (v : Word) (s : State) : keeps s (execCoreCtlStart who c v s) := by
  unfold execCoreCtlStart
  split <;> simp

@[simp] theorem keeps_execLedgerPublishEnd (h : Fin 64) (s : State) : keeps s (execLedgerPublishEnd h s) := by simp [execLedgerPublishEnd]

@[simp] theorem keeps_execIntakeStagingDone (h : Fin 64) (id : ℕ) (ok : Bool) (s : State) : keeps s (execIntakeStagingDone h id ok s) := by
  unfold execIntakeStagingDone
  split <;> simp

@[simp] theorem kept_endPost (s : State) (i : Intake) : (endPost s i).kept = s.kept := by
  unfold endPost
  repeat' split
  all_goals simp

@[simp] theorem kept_endPosts (s : State) (h : ℕ) : (endPosts s h).kept = s.kept := by simp [endPosts]

@[simp] theorem kept_appendMail (s : State) (h : ℕ) : (appendMail s h).kept = s.kept := by simp [appendMail]

@[simp] theorem kept_nextIntakes (s : State) (h : ℕ) : (nextIntakes s h).kept = s.kept := by simp [nextIntakes]

@[simp] theorem kept_boundaryInt (s : State) (c : ℕ) : (boundaryInt s c).kept = s.kept := by
  unfold boundaryInt
  split <;> simp

@[simp] theorem kept_boundaryCore (s : State) (c : ℕ) : (boundaryCore s c).kept = s.kept := by
  unfold boundaryCore
  dsimp only
  repeat' split
  all_goals simp

@[simp] theorem kept_boundary (s : State) (h : ℕ) : (boundary s h).kept = s.kept := by simp [boundary]

@[simp] theorem keeps_execEpochBoundary (h : Fin 64) (s : State) : keeps s (execEpochBoundary h s) := by simp [execEpochBoundary]

@[simp] theorem keeps_execLedgerEpoch0Start (h : Fin 64) (s : State) :
    keeps s (execLedgerEpoch0Start h s) := by simp [execLedgerEpoch0Start]

/-! ### Machine/Verify -/

@[simp] theorem kept_setCount (s : State) (u : CtrUnit) (ev : ℕ) (v : ℕ) : (setCount s u ev v).kept = s.kept := by simp [setCount]

/-! ### Machine/Boot -/

@[simp] theorem kept_setFolState (s : State) (n : ℕ) : (setFolState s n).kept = s.kept := by simp [setFolState]

@[simp] theorem kept_setFolStatus (s : State) (b : Bad) : (setFolStatus s b).kept = s.kept := by simp [setFolStatus]

@[simp] theorem kept_bootNext (s : State) (n : ℕ) : (bootNext s n).kept = s.kept := by simp [bootNext]

@[simp] theorem kept_inert (s : State) (b : Bad) : (inert s b).kept = s.kept := by simp [inert]

@[simp] theorem keeps_execPackageResetRelease (straps : BitVec 4) (s : State) :
    keeps s (execPackageResetRelease straps s) := by simp [execPackageResetRelease]

@[simp] theorem kept_openFlash (s : State) : (openFlash s).kept = s.kept := by simp [openFlash]

@[simp] theorem keeps_execBootFirmwareCheck (s : State) : keeps s (execBootFirmwareCheck s) := by simp [execBootFirmwareCheck]

@[simp] theorem keeps_execBootFolioVerify (s : State) : keeps s (execBootFolioVerify s) := by
  unfold execBootFolioVerify
  dsimp only
  repeat' split
  all_goals simp

@[simp] theorem kept_bootDie (offers : List (Fin 16 × DieOffer × List (Dir × Fin 8 × BitVec 6))) (s : State) (d : ℕ) :
    (bootDie offers s d).kept = s.kept := by
  unfold bootDie
  split <;> simp

@[simp] theorem keeps_execBootTrain (offers : List (Fin 16 × DieOffer × List (Dir × Fin 8 × BitVec 6))) (s : State) :
    keeps s (execBootTrain offers s) := by simp [execBootTrain]

@[simp] theorem keeps_execBootRevsetCheck (s : State) : keeps s (execBootRevsetCheck s) := by
  unfold execBootRevsetCheck
  dsimp only
  repeat' split
  all_goals simp

@[simp] theorem kept_trainChan (s : State) (t : ChanTrain) : (trainChan s t).kept = s.kept := by simp [trainChan]

@[simp] theorem keeps_execBootDimmTraining (chans : List ChanTrain) (s : State) :
    keeps s (execBootDimmTraining chans s) := by simp [execBootDimmTraining]

@[simp] theorem kept_setWatermark (s : State) (wm : ℕ) : (setWatermark s wm).kept = s.kept := by simp [setWatermark]

@[simp] theorem kept_applyHome (s : State) (h : HomeLeaf) : (applyHome s h).kept = s.kept := by simp [applyHome]

@[simp] theorem kept_applyRanks (s : State) (n : ℕ) (spare : ℕ) : (applyRanks s n spare).kept = s.kept := by simp [applyRanks]

@[simp] theorem kept_applyChan (l : ChanLeaf) (s : State) (e : ChanRec × ℕ) : (applyChan l s e).kept = s.kept := by simp [applyChan]

@[simp] theorem kept_applyPort (s : State) (e : PortRec × ℕ) : (applyPort s e).kept = s.kept := by simp [applyPort]

@[simp] theorem kept_applySource (s : State) (r : TallyRec) : (applySource s r).kept = s.kept := by simp [applySource]

@[simp] theorem kept_applyCounter (s : State) (r : CounterRec) : (applyCounter s r).kept = s.kept := by simp [applyCounter]

@[simp] theorem kept_placeDie (f : Folio) (s : State) (d : ℕ) : (placeDie f s d).kept = s.kept := by simp [placeDie]

@[simp] theorem kept_applyFolio (s : State) (f : Folio) (im : List Byte) : (applyFolio s f im).kept = s.kept := by simp [applyFolio]

@[simp] theorem keeps_execBootApply (s : State) : keeps s (execBootApply s) := by
  unfold execBootApply
  dsimp only
  repeat' split
  all_goals simp

@[simp] theorem kept_purgeLine (s : State) (line : ℕ) : (purgeLine s line).kept = s.kept := by
  unfold purgeLine
  dsimp only
  split <;> simp

@[simp] theorem keeps_execBootRun (s : State) : keeps s (execBootRun s) := by
  unfold execBootRun
  dsimp only
  repeat' split
  all_goals simp

@[simp] theorem kept_refuseAddendum (s : State) (b : Bad) : (refuseAddendum s b).kept = s.kept := by simp [refuseAddendum]

@[simp] theorem keeps_execAddendumGo (who : Agent) (v : Word) (s : State) : keeps s (execAddendumGo who v s) := by simp [execAddendumGo]

@[simp] theorem kept_pendAddendum (s : State) (im : List Byte) (a : Folio) (g : Folio) :
    (pendAddendum s im a g).kept = s.kept := by simp [pendAddendum]

@[simp] theorem keeps_execAddendumCopyDone (s : State) : keeps s (execAddendumCopyDone s) := by
  unfold execAddendumCopyDone
  dsimp only
  repeat' split
  all_goals simp

/-! ### Machine/Archivist -/

@[simp] theorem kept_carrelIgnored (s : State) (k : ℕ) : (carrelIgnored s k).kept = s.kept := by simp [carrelIgnored]

@[simp] theorem kept_releaseCarrel (s : State) (k : ℕ) : (releaseCarrel s k).kept = s.kept := by simp [releaseCarrel]

@[simp] theorem kept_clearIgnored (s : State) (k : ℕ) (v : Word) : (clearIgnored s k v).kept = s.kept := by simp [clearIgnored]

@[simp] theorem kept_arcCtl (s : State) (who : Agent) (k : ℕ) (v : Word) : (arcCtl s who k v).kept = s.kept := by simp [arcCtl]

@[simp] theorem keeps_execArcCtlCall (who : Agent) (k : Fin 64) (v : Word) (s : State) : keeps s (execArcCtlCall who k v s) :=
  keeps_barred _ _ (by simp)

@[simp] theorem keeps_execArcCtlRelease (who : Agent) (k : Fin 64) (v : Word) (s : State) : keeps s (execArcCtlRelease who k v s) :=
  keeps_barred _ _ (by simp)

@[simp] theorem kept_carrelData (s : State) (who : Agent) (k : ℕ) (w : ℕ) (v : Word) :
    (carrelData s who k w v).kept = s.kept := by simp [carrelData]

@[simp] theorem keeps_execArcOwnerWrite (who : Agent) (k : Fin 64) (v : Word) (s : State) :
    keeps s (execArcOwnerWrite who k v s) := by simp [execArcOwnerWrite]

@[simp] theorem kept_setServing (s : State) (k : ℕ) (v : Serving) : (setServing s k v).kept = s.kept := by simp [setServing]

@[simp] theorem kept_beginServing (s : State) (k : ℕ) (r : Option SrvResult) : (beginServing s k r).kept = s.kept := by simp [beginServing]

@[simp] theorem kept_finishCall (s : State) (k : ℕ) (status : ℕ) (keep : ℕ) (words : List (ℕ × Word)) :
    (finishCall s k status keep words).kept = s.kept := by
  unfold finishCall
  split <;> simp

@[simp] theorem kept_endCall (s : State) (k : ℕ) (status : ℕ) : (endCall s k status).kept = s.kept := by simp [endCall]

@[simp] theorem keeps_execCarrelTake (s : State) : keeps s (execCarrelTake s) := by
  unfold execCarrelTake
  split <;> simp

@[simp] theorem kept_askLines (s : State) (k : ℕ) (v : Serving) (addr : ℕ) (len : ℕ) :
    (askLines s k v addr len).kept = s.kept := by simp [askLines]

@[simp] theorem kept_withRange (s : State) (k : Nat) (v : Serving) (addr len : Nat) {f : State → List Byte → State} (h : ∀ s l, (f s l).kept = s.kept) :
    (withRange s k v addr len f).kept = s.kept := by
  simp [withRange, h]

@[simp] theorem keeps_execInfo (k : Fin 64) (s : State) : keeps s (execInfo k s) := by
  unfold execInfo
  split <;> simp

@[simp] theorem kept_randomWords (n w : Nat) (s : State) : (randomWords n w s).2.kept = s.kept := by
  induction n generalizing w s with
  | zero => rfl
  | succ n ih => simp [randomWords, ih]

@[simp] theorem keeps_execEntropy (k : Fin 64) (s : State) : keeps s (execEntropy k s) := by
  unfold execEntropy
  split <;> simp

@[simp] theorem keeps_execMeasure (k : Fin 64) (s : State) : keeps s (execMeasure k s) := by
  unfold execMeasure
  split <;> simp

@[simp] theorem keeps_execAttest (k : Fin 64) (s : State) : keeps s (execAttest k s) := by
  unfold execAttest
  split <;> simp

@[simp] theorem keeps_execVaultPut (k : Fin 64) (s : State) : keeps s (execVaultPut k s) := by
  unfold execVaultPut
  split <;> simp

@[simp] theorem keeps_execVaultGet (k : Fin 64) (s : State) : keeps s (execVaultGet k s) := by
  unfold execVaultGet
  repeat' split
  all_goals simp

@[simp] theorem keeps_execFloorRaise (k : Fin 64) (s : State) : keeps s (execFloorRaise k s) := by
  unfold execFloorRaise
  split <;> simp

@[simp] theorem kept_zeroGiB (s : State) (a : ℕ) (b : ℕ) (id : ℕ) : (zeroGiB s a b id).kept = s.kept := by simp [zeroGiB]

@[simp] theorem keeps_execWatermark (k : Fin 64) (s : State) : keeps s (execWatermark k s) := by
  unfold execWatermark
  split <;> simp

@[simp] theorem keeps_execWatermarkSwitch (s : State) : keeps s (execWatermarkSwitch s) := by
  unfold execWatermarkSwitch
  split
  · simp
  · split
    · simp
    · rw [keeps_next, kept_overAll _ _ _ fun s k => ?_]
      · simp
      · split
        · split <;> simp
        · rfl

@[simp] theorem keeps_execSlotWrite (k : Fin 64) (s : State) : keeps s (execSlotWrite k s) := by
  unfold execSlotWrite
  split <;> simp

@[simp] theorem kept_servingCheck (s : State) (k : Nat) : (servingCheck s k).kept = s.kept := by
  unfold servingCheck
  dsimp only
  split
  · simp
  · rw [kept_overAll _ _ _ fun s j => ?_, kept_iodSram]
    split
    · split <;> simp
    · rfl

@[simp] theorem keeps_execCarrelReturn (k : Fin 64) (s : State) : keeps s (execCarrelReturn k s) := by
  unfold execCarrelReturn
  dsimp only
  repeat' split
  all_goals simp

@[simp] theorem keeps_execCarrelScrubEnd (k : Fin 64) (s : State) : keeps s (execCarrelScrubEnd k s) := by
  unfold execCarrelScrubEnd
  split <;> simp

@[simp] theorem kept_tamperEvent (s : State) : (tamperEvent s).kept = s.kept := by
  unfold tamperEvent
  dsimp only
  split
  · rfl
  · rw [kept_zeroGiB, kept_mk, pending_dram_eq, kept_raise, kept_put, kept_put, kept_overAll _ _ _ fun s k => ?_]
    split
    · simp
    · split
      · simp
      · split
        · split <;> simp
        · rfl

@[simp] theorem keeps_execTamper (s : State) : keeps s (execTamper s) := by simp [execTamper]

@[simp] theorem keeps_execVaultZeroEnd (s : State) : keeps s (execVaultZeroEnd s) := by simp [execVaultZeroEnd]

@[simp] theorem kept_arcInject (s : State) (who : Agent) (v : Word) : (arcInject s who v).kept = s.kept := by simp [arcInject]

@[simp] theorem keeps_execArcInjectTamper (who : Agent) (v : Word) (s : State) :
    keeps s (execArcInjectTamper who v s) := by simp [execArcInjectTamper]

@[simp] theorem keeps_execArcInjectVault (who : Agent) (v : Word) (s : State) :
    keeps s (execArcInjectVault who v s) := by simp [execArcInjectVault]

/-! ### Machine/Counters -/

@[simp] theorem keeps_execCounterWrap (u : CtrUnit) (event : BitVec 16) (s : State) : keeps s (execCounterWrap u event s) := by
  unfold execCounterWrap
  split <;> simp

@[simp] theorem kept_writeJsctl (s : State) (c : ℕ) (v : Word) : (writeJsctl s c v).kept = s.kept := by simp [writeJsctl]

@[simp] theorem kept_writeSampling (s : State) (c : ℕ) (n : ℕ) (v : Word) : (writeSampling s c n v).kept = s.kept := by simp [writeSampling]

@[simp] theorem keeps_execMjsctlEnable (c : Fin 384) (o : CsrOp) (s : State) :
    keeps s (execMjsctlEnable c o s) := by simp [execMjsctlEnable]

@[simp] theorem keeps_execSampleRecord (c : Fin 384) (m : SampleInfo) (s : State) :
    keeps s (execSampleRecord c m s) := by simp [execSampleRecord]

/-! ### Machine/Csr -/

@[simp] theorem kept_putMasked (s : State) (c : ℕ) (n : ℕ) (m : Word) (v : Word) :
    (putMasked s c n m v).kept = s.kept := by simp [putMasked]

@[simp] theorem kept_writeMstatus (s : State) (c : ℕ) (m : Word) (v : Word) : (writeMstatus s c m v).kept = s.kept := by simp [writeMstatus]

@[simp] theorem kept_writeAtp (s : State) (c : ℕ) (n : ℕ) (v : Word) : (writeAtp s c n v).kept = s.kept := by simp [writeAtp]

@[simp] theorem kept_writePmpCfg (s : State) (c : ℕ) (n : ℕ) (v : Word) : (writePmpCfg s c n v).kept = s.kept := by simp [writePmpCfg]

@[simp] theorem kept_writePmpAddr (s : State) (c : ℕ) (n : ℕ) (v : Word) : (writePmpAddr s c n v).kept = s.kept := by simp [writePmpAddr]

@[simp] theorem kept_writeMseccfg (s : State) (c : ℕ) (v : Word) : (writeMseccfg s c v).kept = s.kept := by simp [writeMseccfg]

@[simp] theorem kept_writeMip (s : State) (c : ℕ) (m : Word) (v : Word) : (writeMip s c m v).kept = s.kept := by simp [writeMip]

@[simp] theorem kept_writeHvip (s : State) (c : ℕ) (v : Word) : (writeHvip s c v).kept = s.kept := by simp [writeHvip]

@[simp] theorem kept_writeOf (s : State) (c : ℕ) (k : ℕ) (b : Bool) : (writeOf s c k b).kept = s.kept := by simp [writeOf]

@[simp] theorem kept_putCsr (s : State) (c : ℕ) (n : ℕ) (v : Word) : (putCsr s c n v).kept = s.kept := by simp [putCsr]

@[simp] theorem kept_writeCsr (s : State) (c : ℕ) (w : BitVec 32) (v : Word) : (writeCsr s c w v).kept = s.kept := by
  unfold writeCsr
  dsimp only
  split <;> simp

@[simp] theorem kept_vsetInsn (s : State) (c : ℕ) (w : BitVec 32) : (vsetInsn s c w).kept = s.kept := by simp [vsetInsn]

@[simp] theorem kept_countOf (s : State) (shown : Bool) : (countOf s shown).2.kept = s.kept := by
  unfold countOf
  split <;> simp

@[simp] theorem kept_counterView (s : State) (c : ℕ) (k : ℕ) : (counterView s c k).2.kept = s.kept := by
  unfold counterView
  repeat' split
  all_goals simp

@[simp] theorem kept_csrView (s : State) (c n : Nat) : (csrView s c n).2.kept = s.kept := by
  simp [csrView, apply_ite Prod.snd]

/-! ### Machine/RegRead -/

@[simp] theorem kept_blockCount (s : State) (b : ℕ) (k : ℕ) : (blockCount s b k).2.kept = s.kept := by
  unfold blockCount
  dsimp only
  repeat' split
  all_goals simp

@[simp] theorem kept_readReg (s : State) (who : Agent) (r : Reg) : (readReg s who r).2.kept = s.kept := by
  unfold readReg
  repeat' split
  all_goals simp

@[simp] theorem kept_readCtrl (s : State) (who : Agent) (addr : ℕ) : (readCtrl s who addr).2.kept = s.kept := by
  unfold readCtrl
  split <;> simp

/-! ### Machine/RegWrite -/

theorem kept_outState {s : State} {o : Out} (h : keeps s o) : (outState s o).kept = s.kept := by
  obtain ⟨t, rfl, ht⟩ := h
  exact ht

@[simp] theorem kept_plainWrite (s : State) (r : Reg) (v : Word) : (plainWrite s r v).kept = s.kept := by simp [plainWrite]

@[simp] theorem kept_clearPortErr (s : State) (p : ℕ) (v : Word) : (clearPortErr s p v).kept = s.kept := by simp [clearPortErr]

@[simp] theorem kept_addendumBuffer (s : State) (r : Reg) (v : Word) : (addendumBuffer s r v).kept = s.kept := by simp [addendumBuffer]

@[simp] theorem kept_dieCommandWrite (s : State) (who : Agent) (v : Word) : (dieCommandWrite s who v).kept = s.kept := by
  unfold dieCommandWrite
  split
  · exact kept_outState (keeps_execFltDieCmdStop ..)
  · exact kept_outState (keeps_execFltDieCmdRejoin ..)

@[simp] theorem kept_ticConfig (s : State) (who : Agent) (c : ℕ) (v : Word) : (ticConfig s who c v).kept = s.kept := by simp [ticConfig]

@[simp] theorem kept_shelverWrite (s : State) (who : Agent) (r : Reg) (d : ℕ) (v : Word) : (shelverWrite s who r d v).kept = s.kept := by
  unfold shelverWrite
  repeat' split
  all_goals simp

@[simp] theorem kept_blockWrite (s : State) (who : Agent) (b : ℕ) (k : ℕ) (v : Word) :
    (blockWrite s who b k v).kept = s.kept := by simp [blockWrite]

/-! ### Machine/Pins -/

@[simp] theorem kept_showPerst (s : State) : (showPerst s).kept = s.kept := by simp [showPerst]

@[simp] theorem keeps_execStbyPwrokLoss (s : State) : keeps s (execStbyPwrokLoss s) := by simp [execStbyPwrokLoss]

@[simp] theorem kept_imgStatus (s : State) (n : ℕ) : (imgStatus s n).kept = s.kept := by simp [imgStatus]

@[simp] theorem kept_imgCommand (s : State) (v : Word) : (imgCommand s v).kept = s.kept := by simp [imgCommand]

@[simp] theorem kept_imgRow (s : State) (op : ℕ) (v : Word) : (imgRow s op v).kept = s.kept := by simp [imgRow]

@[simp] theorem keeps_execArcImgBegin (v : Word) (s : State) : keeps s (execArcImgBegin v s) := by simp [execArcImgBegin]

@[simp] theorem keeps_execArcImgWrite (v : Word) (s : State) : keeps s (execArcImgWrite v s) := by simp [execArcImgWrite]

@[simp] theorem keeps_execArcImgFinish (v : Word) (s : State) : keeps s (execArcImgFinish v s) := by simp [execArcImgFinish]

@[simp] theorem keeps_execImageOpComplete (s : State) : keeps s (execImageOpComplete s) := by
  unfold execImageOpComplete
  split <;> simp

@[simp] theorem keeps_execI3cPrivateRead (n : ℕ) (s : State) : keeps s (execI3cPrivateRead n s) := by simp [execI3cPrivateRead]

@[simp] theorem keeps_execSetdasa (addr : BitVec 7) (s : State) : keeps s (execSetdasa addr s) := by simp [execSetdasa]

@[simp] theorem keeps_execEntdaa (addr : BitVec 7) (s : State) : keeps s (execEntdaa addr s) := by simp [execEntdaa]

@[simp] theorem kept_loadIr (s : State) (code : BitVec 8) : (loadIr s code).kept = s.kept := by simp [loadIr]

@[simp] theorem keeps_execTapReset (s : State) : keeps s (execTapReset s) := by simp [execTapReset]

@[simp] theorem keeps_execExtest (s : State) : keeps s (execExtest s) := by simp [execExtest]

@[simp] theorem keeps_execIdcode (s : State) : keeps s (execIdcode s) := by simp [execIdcode]

@[simp] theorem keeps_execClamp (s : State) : keeps s (execClamp s) := by simp [execClamp]

@[simp] theorem keeps_execHighz (s : State) : keeps s (execHighz s) := by simp [execHighz]

@[simp] theorem keeps_execBypass (s : State) : keeps s (execBypass s) := by simp [execBypass]

@[simp] theorem keeps_execSamplePreload (capture : List Bool) (preload : List Bool) (s : State) :
    keeps s (execSamplePreload capture preload s) := by simp [execSamplePreload]

/-! ### Machine/Operands -/

@[simp] theorem kept_atElement (s : State) (c : ℕ) (r : DataReg) : (atElement s c r).kept = s.kept := by
  unfold atElement
  split <;> simp

@[simp] theorem kept_locateAll (c : Nat) (acc : Acc) (k : Kind) (l : List (Word × Nat)) (s : State) : (locateAll c acc k l s).2.kept = s.kept := by
  induction l generalizing s with
  | nil => rfl
  | cons e t ih =>
    unfold locateAll
    split
    next h =>
      split
      next ht => rw [kept_snd ht, ih, kept_snd h, kept_locate]
      next ht => rw [kept_snd ht, ih, kept_snd h, kept_locate]
    next h => rw [kept_snd h, kept_locate]

@[simp] theorem kept_setVelem (s : State) (c : ℕ) (r : ℕ) (i : ℕ) (v : BitVec 16) : (setVelem s c r i v).kept = s.kept := by simp [setVelem]

@[simp] theorem kept_setLane (s : State) (c : ℕ) (j : ℕ) (v : Word) : (setLane s c j v).kept = s.kept := by simp [setLane]

/-! ### Machine/Flags -/

@[simp] theorem kept_noteSat (s : State) (c : ℕ) (sat : Bool) : (noteSat s c sat).kept = s.kept := by simp [noteSat]

/-! ### Machine/LoadStore -/

@[simp] theorem kept_ctlLoad (s : State) (c : Fin 384) (rd : DataReg) (va : Word) (pa : ℕ) (signed : Bool) (len : ℕ) :
    (ctlLoad s c rd va pa signed len).kept = s.kept := by
  unfold ctlLoad
  repeat' split
  all_goals simp

@[simp] theorem kept_heldStore (s : State) (c : Nat) (src : DataReg) (r : Reg) (v : Word) (len : Nat) : (heldStore s c src r v len).kept = s.kept := by
  unfold heldStore
  split
  next h => simp [kept_snd h]
  next h => simp [kept_snd h]

@[simp] theorem kept_ncLoad (s : State) (c : ℕ) (rd : DataReg) (va : Word) (l : List Piece) (signed : Bool) (len : ℕ) :
    (ncLoad s c rd va l signed len).kept = s.kept := by
  unfold ncLoad
  dsimp only
  repeat' split
  all_goals simp

@[simp] theorem keeps_execCoreLoad (c : Fin 384) (op : LoadOp) (s : State) : keeps s (execCoreLoad c op s) := by
  unfold execCoreLoad
  dsimp only
  split
  · simp
  · split
    · simp
    · split
      next h => simp [kept_snd h]
      next h =>
        split
        · split <;> simp [kept_snd h]
        · split <;> simp [kept_snd h]

@[simp] theorem kept_atomicInsn (s : State) (c : Nat) (op : AmoOp) (cm ca : Nat) (later : Word → Nat → LedgerOp) {act : State → Word → Nat → State}
    (hact : ∀ s va pa, (act s va pa).kept = s.kept) : (atomicInsn s c op cm ca later act).kept = s.kept := by
  unfold atomicInsn
  dsimp only
  generalize (if ca = 5 then Acc.load else Acc.store) = acc
  generalize (if ca = 5 then Kind.reserve else Kind.atomic) = k
  split
  · rfl
  · split
    · simp
    · split
      · simp
      · split
        next h => simp [kept_snd h]
        next h => simp [kept_snd h]
        next h =>
          split
          · simp [kept_snd h]
          · split
            · simp [kept_snd h]
            · split
              · simp [kept_snd h]
              · split
                all_goals split <;> simp [kept_snd h, hact]

@[simp] theorem keeps_execAmo (c : Fin 384) (op : AmoOp) (s : State) : keeps s (execAmo c op s) := by
  refine (keeps_next ..).mpr (kept_atomicInsn _ _ _ _ _ _ fun s va pa => ?_)
  split
  next h => simp [kept_snd h]
  next h => simp [kept_snd h]

@[simp] theorem keeps_execLoadReserved (c : Fin 384) (op : AmoOp) (s : State) : keeps s (execLoadReserved c op s) := by
  refine (keeps_next ..).mpr (kept_atomicInsn _ _ _ _ _ _ fun s va pa => ?_)
  split
  next h => simp [kept_snd h]
  next h => simp [kept_snd h]

@[simp] theorem keeps_execStoreConditional (c : Fin 384) (op : AmoOp) (s : State) : keeps s (execStoreConditional c op s) := by
  refine (keeps_next ..).mpr (kept_atomicInsn _ _ _ _ _ _ fun s va pa => ?_)
  split
  next h => simp [kept_snd h]
  next h => simp [kept_snd h]

@[simp] theorem kept_xjInsn (s : State) (c : Nat) (w : BitVec 32) (ok : Bool) {act : State → State} (h : ∀ s, (act s).kept = s.kept) :
    (xjInsn s c w ok act).kept = s.kept := by
  simp [xjInsn, h]

@[simp] theorem kept_setVstart (s : State) (c : ℕ) (n : ℕ) : (setVstart s c n).kept = s.kept := by simp [setVstart]

@[simp] theorem kept_xjEnd (s : State) (c : ℕ) : (xjEnd s c).kept = s.kept := by simp [xjEnd]

@[simp] theorem kept_ncCellRead (s : State) (c : ℕ) (va : Word) (line : ℕ) (off : ℕ) : (ncCellRead s c va line off).2.kept = s.kept := by
  unfold ncCellRead
  dsimp only
  repeat' split
  all_goals simp

@[simp] theorem kept_loadCell (s : State) (c : Nat) (va : Word) : (loadCell s c va).2.kept = s.kept := by
  unfold loadCell
  dsimp only
  split
  next h => simp [kept_snd h]
  next h => simp [kept_snd h]
  next h =>
    split
    · simp [kept_snd h]
    · split
      · simp [kept_snd h]
      · split
        next hl => simp [kept_snd hl, kept_snd h]
        next hl => split_ifs <;> simp [kept_snd hl, kept_snd h]

@[simp] theorem kept_agnostic (s : State) (c : ℕ) (w : BitVec 32) (v0 : ℕ) (n : ℕ) (is : List ℕ) :
    (agnostic s c w v0 n is).kept = s.kept := by simp [agnostic]

@[simp] theorem kept_maskedOut (s : State) (c : ℕ) (w : BitVec 32) (v0 : ℕ) (n : ℕ) (lo : ℕ) (hi : ℕ) :
    (maskedOut s c w v0 n lo hi).kept = s.kept := by simp [maskedOut]

@[simp] theorem kept_tailOut (s : State) (c : ℕ) (w : BitVec 32) (v0 : ℕ) (n : ℕ) : (tailOut s c w v0 n).kept = s.kept := by simp [tailOut]

@[simp] theorem kept_spkLdCells (c : Nat) (w : BitVec 32) (base : Word) (v0 n : Nat) (l : List Nat) (s : State) : (spkLdCells c w base v0 n l s).kept = s.kept := by
  induction l generalizing s with
  | nil => simp [spkLdCells]
  | cons j t ih =>
    unfold spkLdCells
    dsimp only
    split
    · simp [ih]
    · split
      next h => simp [kept_snd h]
      next h => simp [kept_snd h]
      next h => simp [kept_snd h, ih]

@[simp] theorem keeps_execSpkLd (c : Fin 384) (w : BitVec 32) (s : State) : keeps s (execSpkLd c w s) := by simp [execSpkLd]

/-- One cell of SPK.ST and the rest (R137 to R139). The elaborator does not find this equation of the definition by itself. -/
theorem spkStCells_cons (c : Nat) (w : BitVec 32) (base : Word) (j : Nat) (t : List Nat) (s : State) : spkStCells c w base (j :: t) s = (
    let s := setVstart s c (9 * j)
    if (s.core c).stores ≠ [] then s
    else
      let va := base + BitVec.ofNat 64 (16 * j)
      let cell := packCell s c (wbits w 11 7) j
      match locate (noteSat s c cell.2) c va 16 .store .store false with
      | (.trapped, s) | (.waits, s) => s
      | (.at_ pa pb r, s) =>
        if r = .control then trap s c 7 va
        else
          match doStore s c (storeParts cell.1 [((pa / 64, pa % 64, 16), pb)] 0) with
          | (false, s) => s
          | (true, s) => spkStCells c w base t s) := by
  delta spkStCells List.brecOn List.brecOn.go spkStCells._f
  refine eq_of_heq ?_
  dsimp only
  refine heq_of_eq ?_
  generalize locate _ c _ 16 .store .store false = l
  generalize storeParts (packCell _ c _ j).1 = parts
  obtain ⟨⟨pa, pb, r⟩ | _ | _, s1⟩ := l
  · generalize doStore s1 c (parts [((pa / 64, pa % 64, 16), pb)] 0) = d
    obtain ⟨_ | _, s2⟩ := d <;> rfl
  · rfl
  · rfl

@[simp] theorem kept_spkStCells (c : Nat) (w : BitVec 32) (base : Word) (l : List Nat) (s : State) : (spkStCells c w base l s).kept = s.kept := by
  induction l generalizing s with
  | nil => exact kept_xjEnd ..
  | cons j t ih =>
    rw [spkStCells_cons]
    have hs1 := kept_setVstart s c (9 * j)
    dsimp only
    generalize setVstart s c (9 * j) = s1 at hs1 ⊢
    split
    · exact hs1
    · have hcell : (noteSat s1 c (packCell s1 c (wbits w 11 7) j).2).kept = s.kept := (kept_noteSat ..).trans hs1
      generalize noteSat s1 c (packCell s1 c (wbits w 11 7) j).2 = s2 at hcell ⊢
      generalize (packCell s1 c (wbits w 11 7) j).1 = cell
      split
      next h => rw [kept_snd h, kept_locate, hcell]
      next h => rw [kept_snd h, kept_locate, hcell]
      next h =>
        have hat := (kept_snd h).trans ((kept_locate ..).trans hcell)
        split
        · exact (kept_trap ..).trans hat
        · generalize storeParts cell _ 0 = ps
          split
          next hd => exact (kept_snd hd).trans ((kept_doStore ..).trans hat)
          next hd => exact (ih _).trans ((kept_snd hd).trans ((kept_doStore ..).trans hat))

@[simp] theorem keeps_execSpkSt (c : Fin 384) (w : BitVec 32) (s : State) : keeps s (execSpkSt c w s) := by simp [execSpkSt]

@[simp] theorem keeps_execSmacVv (c : Fin 384) (w : BitVec 32) (s : State) : keeps s (execSmacVv c w s) := by simp [execSmacVv]

@[simp] theorem keeps_execSaccClr (c : Fin 384) (w : BitVec 32) (s : State) : keeps s (execSaccClr c w s) := by simp [execSaccClr]

@[simp] theorem keeps_execSaccRdv (c : Fin 384) (w : BitVec 32) (s : State) : keeps s (execSaccRdv c w s) := by simp [execSaccRdv]

@[simp] theorem keeps_execSaccWrv (c : Fin 384) (w : BitVec 32) (s : State) : keeps s (execSaccWrv c w s) := by simp [execSaccWrv]

@[simp] theorem keeps_execSaccSum (c : Fin 384) (w : BitVec 32) (s : State) : keeps s (execSaccSum c w s) := by simp [execSaccSum]

end Sys2Proof.Machine
end

section
/-! SUPPORT. The commands that store lines keep the queue of commands and the canonical form of the memory; every step does (O56 to O60). -/

namespace Sys2Proof.Machine

/-! ### Commands that store lines -/

/-- What every command keeps, one that stores lines too: the commands that wait, and the canonical form of the memory. -/
structure Stored (s t : State) : Prop where
  pending : t.pending = s.pending
  inv : Inv s → Inv t

namespace Stored

variable {s t u : State}

theorem of_kept (h : t.kept = s.kept) : Stored s t := by
  obtain ⟨hp, hd⟩ := Prod.ext_iff.mp h
  exact ⟨hp, fun hs => by rw [Inv, show t.dram = s.dram from hd]; exact hs⟩

theorem trans (h : Stored s t) (h' : Stored t u) : Stored s u :=
  ⟨h'.pending.trans h.pending, fun hs => h'.inv (h.inv hs)⟩

/-- What comes after it keeps the commands and the memory. -/
theorem next (h : Stored s t) (hk : u.kept = t.kept) : Stored s u := h.trans (of_kept hk)

theorem setRaw (k : Nat) (raw : BitVec 640) (h : t.kept = s.kept) : Stored s { t with dram := Machine.setRaw t.dram k raw } :=
  (of_kept h).trans ⟨rfl, Memory.wf_setRaw k raw⟩

theorem overAll {α : Type} (l : List α) {f : State → α → State} (h : ∀ s a, Stored s (f s a)) (s : State) :
    Stored s (Machine.overAll l f s) := by
  induction l generalizing s with
  | nil => exact of_kept rfl
  | cons a l ih => exact (h s a).trans (ih _)

end Stored

/-- The answer to a command is a next state, which keeps what every command keeps. -/
def stores (s : State) (o : Out) : Prop := ∃ t, o = .next t ∧ Stored s t

theorem stores_next {s t : State} (h : Stored s t) : stores s (.next t) := ⟨t, rfl, h⟩

theorem stores_of_keeps {s : State} {o : Out} : keeps s o → stores s o := fun ⟨t, ho, ht⟩ => ⟨t, ho, .of_kept ht⟩

theorem stored_outState {s : State} {o : Out} : stores s o → Stored s (outState s o) := by
  rintro ⟨t, rfl, ht⟩
  exact ht

theorem stored_storeRaw (s : State) (line : Nat) (data : LineData) (b : Nat) (flip : Bool) :
    Stored s (storeRaw s line data b flip) := by
  unfold storeRaw
  dsimp only
  split
  · exact .of_kept (by simp)
  · exact .setRaw _ _ (by simp)

theorem stored_issueWrite (s : State) (n : Nat) (q : MemWr) : Stored s (issueWrite s n q) := by
  unfold issueWrite
  extract_lets s1 c s2 e s3
  have he : e.2.kept = s.kept := by simp [e, s2, s1, State.countBlk]
  have h3 : Stored s s3 := (Stored.of_kept he).trans (stored_storeRaw ..)
  exact h3.next (by simp)

theorem stored_drainRank (s : State) (n r : Nat) : Stored s (drainRank s n r) := by
  refine .overAll _ (fun s w => ?_) s
  split
  · exact stored_issueWrite ..
  · exact .of_kept rfl

theorem stored_beginRetire (s : State) (n r : Nat) : Stored s (beginRetire s n r) :=
  (stored_drainRank s n r).next (by simp [beginRetire])

theorem stored_serve (s : State) (n seq : Nat) : Stored s (serve s n seq) := by
  unfold serve
  dsimp only
  split
  · split
    · exact stored_issueWrite ..
    · exact .of_kept (by simp)
  · split
    · exact stored_issueWrite ..
    · exact .of_kept rfl

theorem stored_testStep (s : State) (n : Nat) (t : RankTest) : Stored s (testStep s n t) := by
  unfold testStep
  extract_lets lines loc pat k want i s1 s2 x2 s3
  split
  · exact (Stored.setRaw (t := i.2) k i.1 (by simp [i])).next (by simp [s2, s1])
  · exact .of_kept (by simp [s3])

theorem stored_copyStep (s : State) (n : Nat) : Stored s (copyStep s n) := by
  unfold copyStep
  extract_lets m loc src dst x lost b s1 s2 i k s3 s4 s5
  have h2 : s2.kept = s.kept := by simp [s2, s1]
  have h4 : Stored s s4 :=
    (Stored.setRaw (t := i.2) k i.1 (by simp [i, h2])).next (by simp [s4, s3])
  split
  · exact .of_kept h2
  · split
    · exact h4.next (by simp [s5])
    · exact h4.next (by simp [s5])

theorem stored_redoStep (s : State) (n slot : Nat) (y : MemRetry) (m : MemCmd) : Stored s (redoStep s n slot y m) := by
  unfold redoStep
  dsimp only
  split
  · exact .setRaw _ _ (by simp)
  all_goals exact .of_kept (by simp)

theorem stored_upkeep {s t : State} {n sc : Nat} (h : upkeep s n sc = some t) : Stored s t := by
  unfold upkeep at h
  split at h
  · exact Option.some.inj h ▸ stored_issueWrite ..
  · split at h
    · exact Option.some.inj h ▸ .of_kept (by simp)
    · split at h
      · exact Option.some.inj h ▸ stored_copyStep ..
      · split at h
        · split at h
          · exact Option.some.inj h ▸ stored_testStep ..
          · cases h
        · cases h

theorem stored_reserveUse {s t : State} {n sc : Nat} (h : reserveUse s n sc = some t) : Stored s t := by
  unfold reserveUse at h
  dsimp only at h
  split at h
  · exact Option.some.inj h ▸ .of_kept (by simp)
  · exact stored_upkeep h

theorem stored_getD {s : State} {o : Option State} (h : ∀ t, o = some t → Stored s t) : Stored s (o.getD s) := by
  cases o with
  | none => exact .of_kept rfl
  | some t => exact h t rfl

theorem stored_playChan (s : State) (n sc : Nat) : Stored s (playChan s n sc) := by
  unfold playChan
  extract_lets p own s1 e s2 pk x2 s3 s4
  have h3 : s3.kept = s.kept := by simp [s3, s2, e, s1]
  have h4 : Stored s3 s4 := by
    unfold s4
    clear_value s3 pk
    split
    · exact stored_getD fun t => stored_reserveUse
    · exact .of_kept (by simp)
    · exact stored_getD fun t => stored_upkeep
    · exact .of_kept rfl
    all_goals exact stored_serve ..
  exact ((Stored.of_kept h3).trans h4).next (by simp)

theorem stored_channelTrick (s : State) (n sc : Nat) : Stored s (channelTrick s n sc) := by
  unfold channelTrick
  extract_lets p s1 s2
  have h2 : Stored s s2 := by
    unfold s2
    split
    · exact (Stored.of_kept (by simp [s1])).trans (stored_redoStep ..)
    · exact (Stored.of_kept (by simp [s1])).trans (stored_playChan ..)
  split
  · exact h2.next (by simp)
  · exact h2

theorem stored_blankRank (s : State) (n r : Nat) : Stored s (blankRank s n r) := ⟨rfl, Memory.wf_filter _⟩

theorem stored_placeBytes (s : State) (addr : Nat) (bs : List Byte) : Stored s (placeBytes s addr bs) :=
  .overAll _ (fun _ _ => (Stored.of_kept (kept_purgeLine ..)).trans (stored_storeRaw ..)) s

theorem stored_houseImage (s : State) : Stored s (houseImage s).2 := by
  unfold houseImage
  dsimp only
  split
  · exact .of_kept rfl
  · split <;> exact stored_placeBytes ..

theorem stored_resetUnits (s : State) : Stored s (resetUnits s) := by
  have hshow (t : State) : (showPerst t).kept = t.kept := kept_overAll _ _ _ fun s p => by simp
  obtain ⟨hp, hd⟩ := Prod.ext_iff.mp (hshow { State.reset with
    arc := resetArc s.arc, tap := s.tap, free := s.free, out := s.out, pending := s.pending
    mgmt := { Mgmt.init with low := false, main := s.mgmt.main, clock := s.mgmt.clock, stby := s.mgmt.stby, perst := s.mgmt.perst } })
  exact ⟨hp, fun _ => by rw [Inv, resetUnits, show (showPerst _).dram = [] from hd]; rfl⟩

theorem stores_execMcRankCmdReturn (who : Agent) (n : Fin 16) (v : Word) (s : State) : stores s (execMcRankCmdReturn who n v s) := by
  unfold execMcRankCmdReturn
  extract_lets r m c s1 s2 ch s3
  have h2 : Stored s s2 := (Stored.of_kept (kept_put ..)).trans (stored_drainRank ..)
  split
  · exact stores_next (.of_kept rfl)
  · split
    · exact stores_next (.of_kept (by simp [s1]))
    · split
      · exact stores_next (h2.next (by simp [s3, ch]))
      · exact stores_next (.of_kept (by simp [s1]))

theorem stored_writeReg (s : State) (who : Agent) (r : Reg) (v : Word) : Stored s (writeReg s who r v) := by
  unfold writeReg
  split
  case h_27 =>
    split
    · exact stored_outState (stores_execMcRankCmdReturn ..)
    · exact .of_kept (by simp [kept_outState])
  all_goals exact .of_kept (by simp [kept_outState])

theorem stored_writeCtrl (s : State) (who : Agent) (addr : Nat) (v : Word) : Stored s (writeCtrl s who addr v) := by
  unfold writeCtrl
  extract_lets ok
  split
  · exact .of_kept rfl
  · split
    · refine stored_outState ?_
      unfold barred
      split
      · split
        · exact stores_next (.of_kept (by simp))
        · exact stores_next (stored_writeReg ..)
      · exact stores_next (stored_writeReg ..)
    · exact .of_kept rfl

theorem stored_ctlStore (s : State) (c : Fin 384) (src : DataReg) (va : Word) (pa : Nat) (v : Word) (len : Nat) :
    Stored s (ctlStore s c src va pa v len) := by
  have hwrite : Stored s (writeCtrl (endAccess s c src len) (.core c) pa v) :=
    (Stored.of_kept (kept_endAccess ..)).trans (stored_writeCtrl ..)
  unfold ctlStore
  split
  · exact hwrite
  · split
    · split
      · exact hwrite
      · exact .of_kept (by simp)
    · split
      · exact hwrite
      · exact .of_kept (by simp)
    all_goals exact .of_kept (by simp)

theorem stored_mgmtWrite (s : State) (a : Nat) (v : Word) : Stored s (mgmtWrite s a v) := by
  unfold mgmtWrite
  split
  · exact .of_kept rfl
  · split
    case h_1 => exact .of_kept (by simp)
    case h_2 => exact .of_kept rfl
    case h_7 => exact .of_kept rfl
    all_goals exact stored_writeReg ..

theorem stores_execRankTestEnd (n : Fin 16) (pass : Bool) (s : State) : stores s (execRankTestEnd n pass s) := by
  unfold execRankTestEnd
  dsimp only
  split
  · exact stores_next (.of_kept rfl)
  · split
    · exact stores_next (.of_kept rfl)
    · split
      · exact stores_next (.of_kept (by simp))
      · split
        · exact stores_next (Stored.trans (.of_kept (by simp)) (stored_blankRank ..))
        · exact stores_next (.of_kept (by simp))

theorem stores_execRankRetireStart (n : Fin 16) (rank : Fin 8) (s : State) : stores s (execRankRetireStart n rank s) := by
  unfold execRankRetireStart
  dsimp only
  split
  · split
    · exact stores_next (Stored.trans (.of_kept (by simp)) (stored_beginRetire ..))
    · split <;> exact stores_next (.of_kept (by simp))
  · exact stores_next (.of_kept rfl)

theorem stores_execRegisterWrite (who : Agent) (t : RegTarget) (v : Word) (s : State) : stores s (execRegisterWrite who t v s) := by
  cases t with
  | ctrl a => exact stores_next (stored_writeCtrl ..)
  | bar f off n =>
    unfold execRegisterWrite
    dsimp only
    split <;> exact stores_next (.of_kept (by simp))
  | csr c w =>
    unfold execRegisterWrite
    dsimp only
    split <;> exact stores_next (.of_kept (by simp))
  | vset c w =>
    unfold execRegisterWrite
    dsimp only
    split <;> exact stores_next (.of_kept (by simp))

theorem stores_execI3cPrivateWrite (bytes : List Byte) (s : State) : stores s (execI3cPrivateWrite bytes s) := by
  unfold execI3cPrivateWrite
  split
  · exact stores_next (.of_kept (by simp))
  · split
    · refine stores_next (.trans (.of_kept ?_) (.overAll _ (fun s (e : Nat × Word) => stored_mgmtWrite s e.1 e.2) _))
      rfl
    · exact stores_next (.of_kept rfl)

theorem stores_execArbitrateTrick (k : PointKind) (n : Fin 16) (sc : Fin 2) (s : State) : stores s (execArbitrateTrick k n sc s) := by
  unfold execArbitrateTrick
  dsimp only
  split
  · exact stores_next (.of_kept rfl)
  · split
    · exact stores_next (stored_channelTrick ..)
    · exact stores_next (.of_kept (by simp))

/-- The house image, and what comes after it. -/
theorem stored_of_houseImage {s t u : State} {b : Option Bad} (h : houseImage s = (b, t)) (hu : u.kept = t.kept) : Stored s u :=
  Stored.next (by simpa [h] using stored_houseImage s) hu

theorem stores_execBootHouseImage (s : State) : stores s (execBootHouseImage s) := by
  unfold execBootHouseImage
  split
  · exact stores_next (.of_kept rfl)
  · split
    next h => exact stores_next (stored_of_houseImage h (by simp))
    next h => exact stores_next (stored_of_houseImage h (by simp))

theorem stores_execHouseRestart (s : State) : stores s (execHouseRestart s) := by
  unfold execHouseRestart
  split
  · split
    · exact stores_next (.of_kept rfl)
    · dsimp only
      have hput : Stored s (s.put (.FAB_HAND 0) F.FAB_HAND_STATE 1) := .of_kept (by simp)
      split
      next h => exact stores_next (hput.trans (stored_of_houseImage h (by simp)))
      next h => exact stores_next (hput.trans (stored_of_houseImage h (by simp)))
  · exact stores_next (.of_kept rfl)

theorem stores_execBootMeminit (s : State) : stores s (execBootMeminit s) := by
  unfold execBootMeminit
  extract_lets s1
  split
  · exact stores_next (.of_kept rfl)
  · have h1 : s1.kept = s.kept := kept_overAll _ _ _ fun s n => kept_setChan ..
    have h2 : Stored s { s1 with dram := [] } := ⟨congrArg Prod.fst h1, fun _ => Memory.wf_nil⟩
    exact stores_next (h2.next (kept_bootNext ..))

theorem stores_execPackageReset (s : State) : stores s (execPackageReset s) :=
  stores_next ((stored_resetUnits s).next (by dsimp only; split <;> simp))

theorem stored_resetUnits_unless (s : State) (p : Prop) [Decidable p] : Stored s (if p then s else resetUnits s) := by
  split
  · exact .of_kept rfl
  · exact stored_resetUnits s

theorem stores_execMainPwrokLoss (s : State) : stores s (execMainPwrokLoss s) :=
  stores_next ((stored_resetUnits_unless s _).next rfl)

theorem stores_execRefclkLost (s : State) : stores s (execRefclkLost s) :=
  stores_next ((stored_resetUnits_unless s _).next rfl)

theorem stores_execCoreStore (c : Fin 384) (op : StoreOp) (s : State) : stores s (execCoreStore c op s) := by
  unfold execCoreStore
  dsimp only
  split
  · exact stores_next (.of_kept rfl)
  · split
    · exact stores_next (.of_kept (by simp))
    · split
      next h => exact stores_next (.of_kept (by simp [kept_snd h]))
      next h =>
        split
        · split
          · exact stores_next (Stored.trans (.of_kept (by simp [kept_snd h])) (stored_ctlStore ..))
          · exact stores_next (.of_kept (by simp [kept_snd h]))
        · split
          next hd => exact stores_next (.of_kept (by simp [kept_snd hd, kept_snd h]))
          next hd => exact stores_next (.of_kept (by simp [kept_snd hd, kept_snd h]))

theorem stores_exec (c : Instr) (s : State) : stores s (exec c s) := by
  cases c with
  | registerWrite => exact stores_execRegisterWrite ..
  | i3cPrivateWrite => exact stores_execI3cPrivateWrite ..
  | arbitrateTrick => exact stores_execArbitrateTrick ..
  | coreStore => exact stores_execCoreStore ..
  | rankTestEnd => exact stores_execRankTestEnd ..
  | rankRetireStart => exact stores_execRankRetireStart ..
  | mcRankCmdReturn => exact stores_execMcRankCmdReturn ..
  | bootHouseImage => exact stores_execBootHouseImage ..
  | bootMeminit => exact stores_execBootMeminit ..
  | houseRestart => exact stores_execHouseRestart ..
  | packageReset => exact stores_execPackageReset ..
  | mainPwrokLoss => exact stores_execMainPwrokLoss ..
  | refclkLost => exact stores_execRefclkLost ..
  | _ => exact stores_of_keeps (by simp [exec])

/-- A step is a next state whose commands are the rest of the queue and whose memory is canonical where it was. -/
theorem step_next (s : State) : ∃ t, step s = .next t ∧ t.pending = s.pending.tail ∧ (Inv s → Inv t) := by
  unfold step
  split
  next h => refine ⟨_, rfl, ?_⟩; split <;> simp [h, Inv]
  next c rest h =>
    obtain ⟨t, ht, hp, hi⟩ := stores_exec c { s with pending := rest }
    exact ⟨t, ht, by rw [hp, h]; rfl, hi⟩

/-- Settles O57: every command answers with a next state. -/
theorem stepCompletes : Obligations.StepCompletes := fun s =>
  let ⟨t, ht, _⟩ := step_next s
  ⟨t, ht⟩

/-- What a step that answers `t` keeps. -/
theorem step_keeps {s t : State} (h : step s = .next t) : t.pending = s.pending.tail ∧ (Inv s → Inv t) := by
  obtain ⟨u, hu, hq⟩ := step_next s
  obtain rfl : u = t := Host.Outcome.next.inj (hu.symm.trans h)
  exact hq

/-- Settles O58: no command writes the queue that it runs with. -/
theorem stepQueueOrder : Obligations.StepQueueOrder := fun _ _ h => (step_keeps h).1

/-- Settles O59: a command stores its lines by `setRaw`, which keeps the memory canonical, or drops lines. -/
theorem stepKeepsInv : Obligations.StepKeepsInv := fun _ _ hs h => (step_keeps h).2 hs

/-- Settles O56: the two branches of `step`. -/
theorem stepFront : Obligations.StepFront := by
  refine ⟨fun c s => rfl, fun s hp hr => ?_, fun s hp hr => ?_⟩ <;> simp [step, hp, hr]

@[simp] theorem Fld.get_zero (f : Fld) : f.get 0 = 0 := by simp [Fld.get]

/-- A field of a register whose table's reset value is zero reads zero after reset. -/
theorem get_reset {r : Reg} (h : r.reset = 0) (f : Fld) : State.reset.get r f = 0 := by
  rw [State.get, show State.reset.rd r = 0 from h, Fld.get_zero]

/-- Settles O60: after reset no register has been written, and the memory holds no line. -/
theorem resetState : Obligations.ResetState :=
  ⟨rfl, rfl, rfl, rfl, fun _ => rfl, fun _ _ => get_reset rfl _, fun _ _ => get_reset rfl _, fun _ => get_reset rfl _, get_reset rfl _⟩

end Sys2Proof.Machine
end

section
/-! SUPPORT. The fields of a register do not overlap, so a write leaves in each what its access code says (O54). -/

namespace Sys2Proof.Machine

/-- Whether the rows of a register's table lie within the 64 bits and do not overlap. -/
def rowsApart : List FldRow → Bool
  | [] => true
  | x :: l => decide (x.bits.lo ≤ x.bits.hi) && decide (x.bits.hi < 64) &&
      l.all (fun y => decide (x.bits.hi < y.bits.lo) || decide (y.bits.hi < x.bits.lo)) && rowsApart l

/-- The number that a write leaves in a field: `none` where it leaves the field alone. -/
def FldRow.taken (x : FldRow) (old v : Word) : Option Nat :=
  match x.access with
  | .rw | .rws => some (x.bits.get v)
  | .w1s => some (x.bits.get (old ||| v))
  | .w1c => some (x.bits.get (old &&& ~~~v))
  | .ro | .wo | .rwf => none

/-- A word after the write of one field. -/
def FldRow.write (old v w : Word) (x : FldRow) : Word :=
  match x.taken old v with
  | some n => x.bits.put w n
  | none => w

theorem Reg.written_eq_foldl (r : Reg) (old v : Word) : r.written old v = r.fields.foldl (FldRow.write old v) old := by
  unfold Reg.written
  congr
  funext w x
  unfold FldRow.write FldRow.taken
  cases x.access <;> rfl

theorem rowsApart_fields (r : Reg) : rowsApart r.fields = true := by
  cases r <;> rfl

theorem rowsApart_cons {x : FldRow} {l : List FldRow} (h : rowsApart (x :: l) = true) :
    (x.bits.lo ≤ x.bits.hi ∧ x.bits.hi < 64) ∧ (∀ y ∈ l, x.bits.hi < y.bits.lo ∨ y.bits.hi < x.bits.lo) ∧ rowsApart l = true := by
  simpa [rowsApart, and_assoc] using h

theorem rowsApart_mem {l : List FldRow} (h : rowsApart l = true) {x : FldRow} (hx : x ∈ l) : x.bits.lo ≤ x.bits.hi ∧ x.bits.hi < 64 := by
  induction l with
  | nil => cases hx
  | cons y l ih =>
    obtain ⟨hy, -, hl⟩ := rowsApart_cons h
    rcases List.mem_cons.mp hx with rfl | hx
    · exact hy
    · exact ih hl hx

theorem FldRow.get_write_of_apart {x : FldRow} {g : Fld} (hx : x.bits.lo ≤ x.bits.hi) (hg : g.lo ≤ g.hi)
    (hd : x.bits.hi < g.lo ∨ g.hi < x.bits.lo) (old v w : Word) : g.get (x.write old v w) = g.get w := by
  unfold FldRow.write
  split
  · exact Fld.get_put_of_disjoint _ _ _ _ hx hd.symm hg
  · rfl

theorem FldRow.taken_lt {x : FldRow} {old v : Word} {n : Nat} (h : x.taken old v = some n) : n < 2 ^ (x.bits.hi - x.bits.lo + 1) := by
  unfold FldRow.taken at h
  cases hx : x.access <;> simp only [hx, Option.some.injEq, reduceCtorEq] at h <;> exact h ▸ Fld.get_lt ..

theorem FldRow.get_write_self {x : FldRow} (hx : x.bits.lo ≤ x.bits.hi ∧ x.bits.hi < 64) (old v w : Word) :
    x.bits.get (x.write old v w) = (x.taken old v).getD (x.bits.get w) := by
  unfold FldRow.write
  split
  next n h => rw [Fld.get_put_le _ _ _ hx.1 hx.2, h, Nat.mod_eq_of_lt (FldRow.taken_lt h), Option.getD_some]
  next h => rw [h, Option.getD_none]

/-- Rows that a field does not meet leave it alone. -/
theorem get_foldl_write_of_apart {l : List FldRow} (hl : rowsApart l = true) {g : Fld} (hg : g.lo ≤ g.hi)
    (hd : ∀ y ∈ l, g.hi < y.bits.lo ∨ y.bits.hi < g.lo) (old v w : Word) : g.get (l.foldl (FldRow.write old v) w) = g.get w := by
  induction l generalizing w with
  | nil => rfl
  | cons y l ih =>
    obtain ⟨⟨hy, -⟩, -, hl⟩ := rowsApart_cons hl
    rw [List.foldl_cons, ih hl fun z hz => hd z (List.mem_cons_of_mem _ hz),
      FldRow.get_write_of_apart hy hg (hd y List.mem_cons_self).symm]

theorem get_foldl_write {l : List FldRow} (hl : rowsApart l = true) {x : FldRow} (hx : x ∈ l) (old v w : Word) :
    x.bits.get (l.foldl (FldRow.write old v) w) = (x.taken old v).getD (x.bits.get w) := by
  induction l generalizing w with
  | nil => cases hx
  | cons y l ih =>
    have hxr := rowsApart_mem hl hx
    obtain ⟨hy, hd, ht⟩ := rowsApart_cons hl
    rw [List.foldl_cons]
    rcases List.mem_cons.mp hx with rfl | hx
    · rw [get_foldl_write_of_apart ht hxr.1 hd, FldRow.get_write_self hxr]
    · rw [ih ht hx, FldRow.get_write_of_apart hy.1 hxr.1 (hd x hx)]

/-- What a write leaves in a field: the number that its access code takes, or what it held. -/
theorem Reg.get_written {r : Reg} {x : FldRow} (hx : x ∈ r.fields) (old v : Word) :
    x.bits.get (r.written old v) = (x.taken old v).getD (x.bits.get old) := by
  rw [Reg.written_eq_foldl, get_foldl_write (rowsApart_fields r) hx]

/-- Settles O54, from what one row's write does, since the rows of a table do not overlap. -/
theorem registerFields : Obligations.RegisterFields := by
  intro r old v x hx
  rw [Reg.get_written hx, FldRow.taken]
  cases x.access <;> simp

end Sys2Proof.Machine
end

section
/-! SUPPORT. Check bits and stored lines: the syndromes of a word are linear in its bits, and a stored line is found again cell by cell
(R275 to R277, O34). -/

namespace Sys2Proof.Machine

/-- The parity of the low 64 bits as a truth value. -/
def oddBits (n : Nat) : Bool := (List.range 64).foldl (fun b i => b ^^ n.testBit i) false

theorem foldl_parity (l : List Nat) (n : Nat) (b : Bool) :
    l.foldl (fun p i => if n.testBit i then 1 - p else p) b.toNat = (l.foldl (fun b i => b ^^ n.testBit i) b).toNat := by
  induction l generalizing b with
  | nil => rfl
  | cons i l ih =>
    have hstep : (if n.testBit i = true then 1 - b.toNat else b.toNat) = (b ^^ n.testBit i).toNat := by
      cases n.testBit i <;> cases b <;> rfl
    rw [List.foldl_cons, List.foldl_cons, hstep, ih]

theorem parity_eq (n : Nat) : parity n = (oddBits n).toNat := foldl_parity _ n false

theorem foldl_testBit_xor (l : List Nat) (a b : Nat) (c d : Bool) :
    l.foldl (fun x i => x ^^ (a ^^^ b).testBit i) (c ^^ d) =
      (l.foldl (fun x i => x ^^ a.testBit i) c ^^ l.foldl (fun x i => x ^^ b.testBit i) d) := by
  induction l generalizing c d with
  | nil => rfl
  | cons i l ih =>
    simp only [List.foldl_cons]
    rw [← ih]
    congr 1
    rw [Nat.testBit_xor]
    cases c <;> cases d <;> cases a.testBit i <;> cases b.testBit i <;> rfl

theorem oddBits_xor (a b : Nat) : oddBits (a ^^^ b) = (oddBits a ^^ oddBits b) := foldl_testBit_xor _ a b false false

theorem oddBits_two_pow : ∀ k < 64, oddBits (2 ^ k) = true := by decide +kernel

theorem odd_parity (a b : Nat) : (parity a + parity b) % 2 = 1 ↔ (oddBits a ^^ oddBits b) = true := by
  rw [parity_eq, parity_eq]
  cases oddBits a <;> cases oddBits b <;> decide

/-- The position checks of a word. -/
def posChecks (k n data : Nat) : Nat :=
  ((dataPositions.take n).zipIdx.filter (fun e => data.testBit e.2)).foldl (fun acc e => acc ^^^ e.1) 0 % 2 ^ k

theorem posChecks_lt (k n data : Nat) : posChecks k n data < 2 ^ k := Nat.mod_lt _ (Nat.two_pow_pos _)

/-- A value taken on the exclusive or of two conditions, accumulated. -/
theorem xor_step (p q : Bool) (x y v : Nat) :
    (if (p ^^ q) = true then x ^^^ y ^^^ v else x ^^^ y) = (if p = true then x ^^^ v else x) ^^^ (if q = true then y ^^^ v else y) := by
  cases p <;> cases q <;> simp [Nat.xor_assoc, Nat.xor_comm y]

theorem foldl_filter_xor (l : List (Nat × Nat)) (a b x y : Nat) :
    (l.filter (fun e => (a ^^^ b).testBit e.2)).foldl (fun acc e => acc ^^^ e.1) (x ^^^ y) =
      (l.filter (fun e => a.testBit e.2)).foldl (fun acc e => acc ^^^ e.1) x ^^^
        (l.filter (fun e => b.testBit e.2)).foldl (fun acc e => acc ^^^ e.1) y := by
  simp only [List.foldl_filter]
  induction l generalizing x y with
  | nil => rfl
  | cons e l ih =>
    rw [List.foldl_cons, List.foldl_cons, List.foldl_cons, ← ih, Nat.testBit_xor, xor_step]

theorem posChecks_xor (k n a b : Nat) : posChecks k n (a ^^^ b) = posChecks k n a ^^^ posChecks k n b := by
  rw [posChecks, posChecks, posChecks, ← Nat.xor_mod_two_pow, ← foldl_filter_xor, Nat.xor_self]

theorem add_two_pow_eq_xor {x k : Nat} (h : x < 2 ^ k) : x + 2 ^ k = x ^^^ 2 ^ k := by
  have hor : x + 2 ^ k = 2 ^ k ||| x := by simpa [Nat.add_comm] using Nat.two_pow_add_eq_or_of_lt h 1
  rw [hor]
  refine Nat.eq_of_testBit_eq fun i => ?_
  rw [Nat.testBit_or, Nat.testBit_xor, Nat.testBit_two_pow]
  by_cases hi : k = i
  · subst hi
    simp [Nat.testBit_lt_two_pow h]
  · simp [hi]

theorem hamming_eq (k n data : Nat) :
    hamming k n data = posChecks k n data ^^^ (if oddBits data ^^ oddBits (posChecks k n data) then 2 ^ k else 0) := by
  have h : hamming k n data = posChecks k n data + if (parity data + parity (posChecks k n data)) % 2 = 1 then 2 ^ k else 0 := rfl
  rw [h]
  simp only [odd_parity]
  split
  · exact add_two_pow_eq_xor (posChecks_lt ..)
  · rw [Nat.add_zero, Nat.xor_zero]

theorem hamming_mod (k n data : Nat) : hamming k n data % 2 ^ k = posChecks k n data := by
  rw [hamming_eq, Nat.xor_mod_two_pow, Nat.mod_eq_of_lt (posChecks_lt ..)]
  split <;> simp

theorem oddBits_hamming {k : Nat} (hk : k < 64) (n data : Nat) : oddBits (hamming k n data) = oddBits data := by
  have hif (b : Bool) : oddBits (if b = true then 2 ^ k else 0) = b := by
    cases b
    · exact (by decide +kernel : oddBits 0 = false)
    · exact oddBits_two_pow k hk
  rw [hamming_eq, oddBits_xor, hif]
  cases oddBits data <;> cases oddBits (posChecks k n data) <;> rfl

/-- What a check of a word says of its two syndromes, the position checks `y` and the overall parity `odd`. -/
def eccOf (n data k y : Nat) (odd : Bool) : Ecc :=
  if y = 0 then (if odd then .corrected data (2 ^ k) else .good data)
  else if odd then
    if y &&& (y - 1) = 0 then .corrected data y
    else
      match (dataPositions.take n).zipIdx.find? (fun e => e.1 == y) with
      | some e => .corrected (data ^^^ 2 ^ e.2) y
      | none => .bad y
  else .bad y

/-- A stored word with the bits `ed` of its data and `ec` of its check byte inverted: its syndromes are those of the inverted bits. -/
theorem eccCheck_flip {k : Nat} (hk : k < 64) (n d ed ec : Nat) :
    eccCheck k n (d ^^^ ed) (hamming k n d ^^^ ec) =
      eccOf n (d ^^^ ed) k (posChecks k n ed ^^^ ec % 2 ^ k) (oddBits ed ^^ oddBits ec) := by
  have hs : hamming k n (d ^^^ ed) % 2 ^ k ^^^ (hamming k n d ^^^ ec) % 2 ^ k = posChecks k n ed ^^^ ec % 2 ^ k := by
    rw [hamming_mod, Nat.xor_mod_two_pow, hamming_mod, posChecks_xor, Nat.xor_comm (posChecks k n d), Nat.xor_assoc,
      Nat.xor_xor_cancel_left]
  have ho : (oddBits (d ^^^ ed) ^^ oddBits (hamming k n d ^^^ ec)) = (oddBits ed ^^ oddBits ec) := by
    rw [oddBits_xor, oddBits_xor, oddBits_hamming hk]
    cases oddBits d <;> simp
  unfold eccCheck eccOf
  simp only [odd_parity, hs, ho] <;> rfl

theorem eccCheck_hamming {k : Nat} (hk : k < 64) (n d : Nat) : eccCheck k n d (hamming k n d) = .good d := by
  have h := eccCheck_flip hk n d 0 0
  rw [Nat.xor_zero, Nat.xor_zero] at h
  simpa [eccOf, posChecks] using h

/-- The inverted bit `i` of a protected word: in the data, or from 64 on in the check byte. -/
def dataFlip (i : Nat) : Nat := if i < 64 then 2 ^ i else 0
def checkFlip (i : Nat) : Nat := if i < 64 then 0 else 2 ^ (i - 64)

/-- The position checks that an inverted bit changes. -/
def flipSynd (i : Nat) : Nat := posChecks 7 64 (dataFlip i) ^^^ checkFlip i % 2 ^ 7

theorem oddBits_flip : ∀ i < 72, (oddBits (dataFlip i) ^^ oddBits (checkFlip i)) = true := by decide +kernel

theorem flipSynd_nodup : ((List.range 72).map flipSynd).Nodup := by decide +kernel

theorem flip_data : ∀ i < 64, flipSynd i ≠ 0 ∧ flipSynd i &&& (flipSynd i - 1) ≠ 0 ∧
    ((dataPositions.take 64).zipIdx.find? (fun e => e.1 == flipSynd i)).map Prod.snd = some i := by decide +kernel

theorem flip_check : ∀ i < 8, flipSynd (64 + i) &&& (flipSynd (64 + i) - 1) = 0 := by decide +kernel

/-- The stored word with bit `i` inverted. -/
theorem eccCheck_one (d : Nat) {i : Nat} (hi : i < 72) :
    ∃ y, eccCheck 7 64 (d ^^^ dataFlip i) (hamming 7 64 d ^^^ checkFlip i) = .corrected d y := by
  rw [eccCheck_flip (by decide), oddBits_flip i hi, ← flipSynd, eccOf]
  by_cases h64 : i < 64
  · obtain ⟨h0, h1, h2⟩ := flip_data i h64
    obtain ⟨e, he, hei⟩ := Option.map_eq_some_iff.mp h2
    rw [if_neg h0, if_pos rfl, if_neg h1, he]
    refine ⟨flipSynd i, ?_⟩
    simp [hei, dataFlip, h64]
  · have hd : dataFlip i = 0 := if_neg h64
    have h1 := flip_check (i - 64) (by omega)
    rw [show 64 + (i - 64) = i by omega] at h1
    rw [hd, Nat.xor_zero, if_pos rfl, if_pos rfl, if_pos h1]
    split <;> exact ⟨_, rfl⟩

/-- The stored word with the bits `i` and `j` inverted. -/
theorem eccCheck_two (d : Nat) {i j : Nat} (hi : i < 72) (hj : j < 72) (hij : i ≠ j) :
    ∃ y, eccCheck 7 64 (d ^^^ (dataFlip i ^^^ dataFlip j)) (hamming 7 64 d ^^^ (checkFlip i ^^^ checkFlip j)) = .bad y := by
  have hy : posChecks 7 64 (dataFlip i ^^^ dataFlip j) ^^^ (checkFlip i ^^^ checkFlip j) % 2 ^ 7 = flipSynd i ^^^ flipSynd j := by
    rw [posChecks_xor, Nat.xor_mod_two_pow, flipSynd, flipSynd]
    ac_rfl
  have hne : flipSynd i ^^^ flipSynd j ≠ 0 := fun h => hij <| by
    have := List.inj_on_of_nodup_map flipSynd_nodup (List.mem_range.mpr hi) (List.mem_range.mpr hj)
    exact this (Nat.xor_eq_zero_iff.mp h)
  have ho : (oddBits (dataFlip i ^^^ dataFlip j) ^^ oddBits (checkFlip i ^^^ checkFlip j)) = false := by
    have h1 := oddBits_flip i hi
    have h2 := oddBits_flip j hj
    rw [oddBits_xor, oddBits_xor]
    revert h1 h2
    cases oddBits (dataFlip i) <;> cases oddBits (checkFlip i) <;> simp
  rw [eccCheck_flip (by decide), hy, ho, eccOf, if_neg hne]
  exact ⟨_, rfl⟩

/-! ### The parts of a stored line -/

/-- Data word, check byte and backing word of a stored line. -/
def lineWord (raw : BitVec 640) (w : Nat) : Nat := (raw.extractLsb' (64 * w) 64).toNat
def lineCheck (raw : BitVec 640) (w : Nat) : Nat := (raw.extractLsb' (512 + 8 * w) 8).toNat
def lineBack (raw : BitVec 640) : Nat := (raw.extractLsb' 576 64).toNat

theorem hamming_lt (k n data : Nat) : hamming k n data < 2 ^ (k + 1) := by
  have h := posChecks_lt k n data
  have he : hamming k n data = posChecks k n data + if (parity data + parity (posChecks k n data)) % 2 = 1 then 2 ^ k else 0 := rfl
  rw [he, pow_succ]
  split <;> omega

/-- Eight-bit digits `c 0`, `c 1`, … put together, `n` of them. -/
def digits (c : Nat → Nat) (n : Nat) : Nat := (List.range n).foldl (fun acc w => acc + c w * 2 ^ (8 * w)) 0

theorem digits_succ (c : Nat → Nat) (n : Nat) : digits c (n + 1) = digits c n + c n * 2 ^ (8 * n) := by
  rw [digits, List.range_succ, List.foldl_append, List.foldl_cons, List.foldl_nil, digits]

theorem digits_lt {c : Nat → Nat} (hc : ∀ w, c w < 2 ^ 8) (n : Nat) : digits c n < 2 ^ (8 * n) := by
  induction n with
  | zero => exact Nat.one_pos
  | succ n ih =>
    have hn : c n * 2 ^ (8 * n) ≤ 255 * 2 ^ (8 * n) := Nat.mul_le_mul_right _ (Nat.le_of_lt_succ (hc n))
    rw [digits_succ, show 8 * (n + 1) = 8 * n + 8 from rfl, pow_add]
    omega

theorem digits_digit {c : Nat → Nat} (hc : ∀ w, c w < 2 ^ 8) {n w : Nat} (hw : w < n) :
    (digits c n >>> (8 * w)) % 2 ^ 8 = c w := by
  rw [Nat.shiftRight_eq_div_pow]
  induction n with
  | zero => cases hw
  | succ n ih =>
    rw [digits_succ]
    rcases Nat.lt_succ_iff_lt_or_eq.mp hw with h | rfl
    · obtain ⟨k, rfl⟩ := Nat.exists_eq_add_of_lt h
      have hp : c (w + k + 1) * 2 ^ (8 * (w + k + 1)) = 2 ^ (8 * w) * (2 ^ 8 * (c (w + k + 1) * 2 ^ (8 * k))) := by
        rw [show 8 * (w + k + 1) = 8 * w + 8 + 8 * k by omega, pow_add, pow_add]
        ring
      rw [hp, Nat.add_mul_div_left _ _ (Nat.two_pow_pos _), Nat.add_mul_mod_self_left]
      exact ih h
    · rw [Nat.add_mul_div_right _ _ (Nat.two_pow_pos _), Nat.div_eq_of_lt (digits_lt hc w), Nat.zero_add, Nat.mod_eq_of_lt (hc w)]

/-- The check bytes of a line as one number. -/
def checkBytes (data : LineData) : Nat := digits (fun w => hamming 7 64 (data.extractLsb' (64 * w) 64).toNat) 8

theorem rawLine_eq (data : LineData) (b : Nat) : rawLine data b =
    data.zeroExtend 640 ||| (BitVec.ofNat 640 (checkBytes data) <<< 512) ||| (BitVec.ofNat 640 (backingWord b) <<< 576) := rfl

theorem checkBytes_lt (data : LineData) : checkBytes data < 2 ^ 64 := digits_lt (fun _ => hamming_lt ..) 8

theorem lineWord_rawLine (data : LineData) (b : Nat) {w : Nat} (hw : w < 8) :
    lineWord (rawLine data b) w = (data.extractLsb' (64 * w) 64).toNat := by
  rw [lineWord, rawLine_eq]
  refine congrArg BitVec.toNat ?_
  refine BitVec.eq_of_getLsbD_eq fun i hi => ?_
  have h1 : 64 * w + i < 512 := by omega
  have h2 : 64 * w + i < 576 := by omega
  have h3 : 64 * w + i < 640 := by omega
  rw [BitVec.getLsbD_extractLsb', BitVec.getLsbD_extractLsb', BitVec.getLsbD_or, BitVec.getLsbD_or, BitVec.getLsbD_shiftLeft,
    BitVec.getLsbD_shiftLeft, BitVec.getLsbD_setWidth]
  rw [decide_eq_true h1, decide_eq_true h2, decide_eq_true h3, Bool.not_true, Bool.and_false, Bool.false_and, Bool.false_and, Bool.or_false,
    Bool.or_false, Bool.true_and]

theorem lineCheck_rawLine (data : LineData) (b : Nat) {w : Nat} (hw : w < 8) :
    lineCheck (rawLine data b) w = hamming 7 64 (data.extractLsb' (64 * w) 64).toNat := by
  have hd : (checkBytes data >>> (8 * w)) % 2 ^ 8 = _ := digits_digit (fun _ => hamming_lt 7 64 _) hw
  rw [← hd, lineCheck, rawLine_eq]
  refine Nat.eq_of_testBit_eq fun i => ?_
  rw [BitVec.testBit_toNat, BitVec.getLsbD_extractLsb', Nat.testBit_mod_two_pow, Nat.testBit_shiftRight]
  by_cases hi : i < 8
  · have h1 : 512 + 8 * w + i < 576 := by omega
    have h2 : 512 + 8 * w + i < 640 := by omega
    have h3 : ¬ 512 + 8 * w + i < 512 := by omega
    have h4 : 512 + 8 * w + i - 512 = 8 * w + i := by omega
    have h5 : 8 * w + i < 640 := by omega
    have h6 : data.getLsbD (512 + 8 * w + i) = false := BitVec.getLsbD_of_ge _ _ (by omega)
    simp only [BitVec.getLsbD_or, BitVec.getLsbD_shiftLeft, BitVec.getLsbD_setWidth, BitVec.getLsbD_ofNat, h1, h2, h3, h4, h5, h6, hi,
      decide_true, decide_false, Bool.not_true, Bool.not_false, Bool.and_false, Bool.false_and, Bool.or_false, Bool.true_and,
      Bool.false_or]
  · simp only [hi, decide_false, Bool.false_and]

theorem backingWord_lt (b : Nat) : backingWord b < 2 ^ 63 := by
  have h := hamming_lt 6 56 (b % 2 ^ 56)
  have hb := Nat.mod_lt b (Nat.two_pow_pos 56)
  rw [backingWord]
  omega

theorem lineBack_rawLine (data : LineData) (b : Nat) : lineBack (rawLine data b) = backingWord b := by
  rw [lineBack, rawLine_eq]
  refine Nat.eq_of_testBit_eq fun i => ?_
  rw [BitVec.testBit_toNat, BitVec.getLsbD_extractLsb']
  by_cases hi : i < 64
  · have h1 : ¬ 576 + i < 576 := by omega
    have h2 : 576 + i < 640 := by omega
    have h3 : ¬ 576 + i < 512 := by omega
    have h4 : 576 + i - 576 = i := by omega
    have h5 : i < 640 := by omega
    have h6 : data.getLsbD (576 + i) = false := BitVec.getLsbD_of_ge _ _ (by omega)
    have h7 : (checkBytes data).testBit (576 + i - 512) = false :=
      Nat.testBit_lt_two_pow ((checkBytes_lt data).trans_le (Nat.pow_le_pow_right (by decide) (by omega)))
    simp only [BitVec.getLsbD_or, BitVec.getLsbD_shiftLeft, BitVec.getLsbD_setWidth, BitVec.getLsbD_ofNat, h1, h2, h3, h4, h5, h6, h7,
      hi, decide_true, decide_false, Bool.not_false, Bool.and_false, Bool.or_false, Bool.true_and, Bool.false_or]
  · have hlt : (backingWord b).testBit i = false :=
      Nat.testBit_lt_two_pow ((backingWord_lt b).trans_le (Nat.pow_le_pow_right (by decide) (by omega)))
    simp only [hi, decide_false, Bool.false_and, hlt]

/-- The place of bit `i` of the protected word `w` in a stored line. -/
def bitAt (w i : Nat) : Nat := if i < 64 then 64 * w + i else 512 + 8 * w + (i - 64)

theorem flip_parts : ∀ w < 8, ∀ i < 72,
    lineBack ((1 : BitVec 640) <<< bitAt w i) = 0 ∧
    ∀ v < 8, lineWord ((1 : BitVec 640) <<< bitAt w i) v = (if v = w then dataFlip i else 0) ∧
      lineCheck ((1 : BitVec 640) <<< bitAt w i) v = if v = w then checkFlip i else 0 := by decide +kernel

theorem lineWord_xor (x y : BitVec 640) (w : Nat) : lineWord (x ^^^ y) w = lineWord x w ^^^ lineWord y w := by
  rw [lineWord, BitVec.extractLsb'_xor, BitVec.toNat_xor, lineWord, lineWord]
theorem lineCheck_xor (x y : BitVec 640) (w : Nat) : lineCheck (x ^^^ y) w = lineCheck x w ^^^ lineCheck y w := by
  rw [lineCheck, BitVec.extractLsb'_xor, BitVec.toNat_xor, lineCheck, lineCheck]
theorem lineBack_xor (x y : BitVec 640) : lineBack (x ^^^ y) = lineBack x ^^^ lineBack y := by
  rw [lineBack, BitVec.extractLsb'_xor, BitVec.toNat_xor, lineBack, lineBack]

/-! ### The check of a line -/

/-- What the check of a data word adds to what a read has found. -/
def wordStep (raw : BitVec 640) (r : LineRead) (w : Nat) : LineRead :=
  match eccCheck 7 64 (lineWord raw w) (lineCheck raw w) with
  | .good n => { r with data := r.data ||| (BitVec.ofNat 512 n <<< (64 * w)) }
  | .corrected n y => { r with data := r.data ||| (BitVec.ofNat 512 n <<< (64 * w)), fixed := r.fixed + 1, word := w, synd := y }
  | .bad y => { r with data := r.data ||| (BitVec.ofNat 512 (lineWord raw w) <<< (64 * w)), ue := r.ue + 1, word := w, synd := y }

/-- What a read has found before its data words: the backing word. -/
def backRead (raw : BitVec 640) : LineRead :=
  let e := eccCheck 6 56 (lineBack raw % 2 ^ 56) (lineBack raw / 2 ^ 56 % 2 ^ 7)
  let b := match e with | .good d => d | .corrected d _ => d | .bad _ => backing true 2 0 true
  ⟨0, b % 2 == 1, b / 2 % 8, b / 16 % 64, b / 1024 % 2 == 1, (match e with | .corrected _ _ => 1 | _ => 0), 0,
    (match e with | .bad _ => true | _ => false), 0, (match e with | .good _ => 0 | .corrected _ y => y | .bad y => y)⟩

theorem checkLine_eq (raw : BitVec 640) :
    checkLine raw =
      let r := (List.range 8).foldl (wordStep raw) (backRead raw)
      if r.ue > 0 then { r with poison := true, cause := if r.poison then r.cause else 2 } else r := rfl

theorem backRead_good {raw : BitVec 640} {b : Nat} (hb : b < 2 ^ 56) (h : lineBack raw = backingWord b) :
    backRead raw = ⟨0, b % 2 == 1, b / 2 % 8, b / 16 % 64, b / 1024 % 2 == 1, 0, 0, false, 0, 0⟩ := by
  have hh := hamming_lt 6 56 b
  have h1 : lineBack raw % 2 ^ 56 = b := by rw [h, backingWord, Nat.mod_eq_of_lt hb]; omega
  have h2 : lineBack raw / 2 ^ 56 % 2 ^ 7 = hamming 6 56 b := by rw [h, backingWord, Nat.mod_eq_of_lt hb]; omega
  rw [backRead, h1, h2, eccCheck_hamming (by decide)]

theorem wordStep_good {raw : BitVec 640} {w n : Nat} (h : eccCheck 7 64 (lineWord raw w) (lineCheck raw w) = .good n) (r : LineRead) :
    wordStep raw r w = { r with data := r.data ||| (BitVec.ofNat 512 n <<< (64 * w)) } := by
  rw [wordStep, h]

/-- The words of `data` below `n`, in their places. -/
def wordsBelow (data : LineData) (n : Nat) : LineData :=
  (List.range n).foldl (fun d w => d ||| (BitVec.ofNat 512 (data.extractLsb' (64 * w) 64).toNat <<< (64 * w))) 0

theorem wordsBelow_succ (data : LineData) (n : Nat) :
    wordsBelow data (n + 1) = wordsBelow data n ||| (BitVec.ofNat 512 (data.extractLsb' (64 * n) 64).toNat <<< (64 * n)) := by
  rw [wordsBelow, List.range_succ, List.foldl_append, List.foldl_cons, List.foldl_nil, wordsBelow]

theorem getLsbD_wordsBelow (data : LineData) (n i : Nat) :
    (wordsBelow data n).getLsbD i = (decide (i < 64 * n) && data.getLsbD i) := by
  induction n with
  | zero => simp [wordsBelow]
  | succ n ih =>
    rw [wordsBelow_succ, BitVec.getLsbD_or, ih, BitVec.getLsbD_shiftLeft, BitVec.getLsbD_ofNat, BitVec.testBit_toNat,
      BitVec.getLsbD_extractLsb']
    by_cases h5 : i < 512
    · by_cases h1 : i < 64 * n
      · have h2 : i < 64 * (n + 1) := by omega
        simp [h1, h2]
      · have h3 : 64 * n + (i - 64 * n) = i := by omega
        by_cases h2 : i < 64 * (n + 1)
        · have h4 : i - 64 * n < 64 := by omega
          have h6 : i - 64 * n < 512 := by omega
          simp [h1, h2, h3, h4, h5, h6]
        · have h4 : ¬ i - 64 * n < 64 := by omega
          simp [h1, h2, h4]
    · simp [BitVec.getLsbD_of_ge data i (not_lt.mp h5), h5]

theorem wordsBelow_eight (data : LineData) : wordsBelow data 8 = data := by
  refine BitVec.eq_of_getLsbD_eq fun i hi => ?_
  rw [getLsbD_wordsBelow, decide_eq_true (by omega : i < 64 * 8), Bool.true_and]

/-- What the first `n` words add to a read where only word `w`, with one bit wrong, is not as it was stored. -/
def readFixed (r : LineRead) (data : LineData) (w y n : Nat) : LineRead :=
  { r with data := wordsBelow data n, fixed := if w < n then 1 else r.fixed, word := if w < n then w else r.word,
           synd := if w < n then y else r.synd }

theorem foldl_wordStep_fixed {raw : BitVec 640} {data : LineData} {r : LineRead} (hr : r.data = 0) (hf : r.fixed = 0) {w y : Nat}
    (hgood : ∀ v < 8, v ≠ w → eccCheck 7 64 (lineWord raw v) (lineCheck raw v) = .good (data.extractLsb' (64 * v) 64).toNat)
    (hw : w < 8 → eccCheck 7 64 (lineWord raw w) (lineCheck raw w) = .corrected (data.extractLsb' (64 * w) 64).toNat y)
    {n : Nat} (hn : n ≤ 8) : (List.range n).foldl (wordStep raw) r = readFixed r data w y n := by
  induction n with
  | zero => cases r; simp_all [readFixed, wordsBelow]
  | succ n ih =>
    rw [List.range_succ, List.foldl_append, ih (by omega), List.foldl_cons, List.foldl_nil]
    by_cases hnw : n = w
    · subst hnw
      rw [wordStep, hw (by omega)]
      simp [readFixed, wordsBelow_succ, hf]
    · have hlt : w < n + 1 ↔ w < n := by omega
      rw [wordStep_good (hgood n (by omega) hnw)]
      simp only [readFixed, wordsBelow_succ, hlt]

/-- The words beside word `w`, which is uncorrectable, add no error to what a read has found. -/
structure ReadLost (r : LineRead) (w n : Nat) : Prop where
  fixed : r.fixed = 0
  ue : r.ue = if w < n then 1 else 0
  word : w < n → r.word = w

theorem foldl_wordStep_lost {raw : BitVec 640} {r : LineRead} (hf : r.fixed = 0) (hu : r.ue = 0) {w y : Nat}
    (hgood : ∀ v < 8, v ≠ w → ∃ d, eccCheck 7 64 (lineWord raw v) (lineCheck raw v) = .good d)
    (hw : eccCheck 7 64 (lineWord raw w) (lineCheck raw w) = .bad y)
    {n : Nat} (hn : n ≤ 8) : ReadLost ((List.range n).foldl (wordStep raw) r) w n := by
  induction n with
  | zero => exact ⟨hf, by simpa using hu, by simp⟩
  | succ n ih =>
    obtain ⟨h1, h2, h3⟩ := ih (by omega)
    rw [List.range_succ, List.foldl_append, List.foldl_cons, List.foldl_nil]
    by_cases hnw : n = w
    · subst hnw
      rw [wordStep, hw]
      exact ⟨h1, by simp [h2], fun _ => rfl⟩
    · have hlt : w < n + 1 ↔ w < n := by omega
      obtain ⟨d, hd⟩ := hgood n (by omega) hnw
      rw [wordStep_good hd]
      exact ⟨h1, by simp only [h2, hlt], fun h => h3 (hlt.mp h)⟩

/-! ### Stored lines with inverted bits -/

theorem backing_lt (poison nohand : Bool) {cause hand : Nat} : backing poison cause hand nohand < 2 ^ 56 := by
  rw [backing]
  split <;> split <;> omega

/-- What a read of a stored line has found before its data words, where its backing word is as it was stored. -/
theorem backRead_backing {raw : BitVec 640} (poison nohand : Bool) (cause : Fin 8) (hand : Fin 64)
    (h : lineBack raw = backingWord (backing poison cause hand nohand)) :
    backRead raw = ⟨0, poison, cause, hand, nohand, 0, 0, false, 0, 0⟩ := by
  rw [backRead_good (backing_lt poison nohand) h, backing]
  have hc : cause.val % 8 = cause := Nat.mod_eq_of_lt cause.isLt
  have hh : hand.val % 64 = hand := Nat.mod_eq_of_lt hand.isLt
  have := cause.isLt
  have := hand.isLt
  rw [hc, hh]
  cases poison <;> cases nohand <;> simp <;> omega

/-- A stored line whose word `w` has the bits `ed` of its data and `ec` of its check byte inverted. -/
structure FlippedWord (raw : BitVec 640) (data : LineData) (b w ed ec : Nat) : Prop where
  back : lineBack raw = backingWord b
  word : ∀ v < 8, lineWord raw v = (data.extractLsb' (64 * v) 64).toNat ^^^ if v = w then ed else 0
  check : ∀ v < 8, lineCheck raw v = hamming 7 64 (data.extractLsb' (64 * v) 64).toNat ^^^ if v = w then ec else 0

theorem flippedWord_rawLine (data : LineData) (b w : Nat) : FlippedWord (rawLine data b) data b w 0 0 where
  back := lineBack_rawLine data b
  word v hv := by rw [lineWord_rawLine data b hv, ite_self, Nat.xor_zero]
  check v hv := by rw [lineCheck_rawLine data b hv, ite_self, Nat.xor_zero]

theorem FlippedWord.flip {raw : BitVec 640} {data : LineData} {b w ed ec : Nat} (h : FlippedWord raw data b w ed ec) (hw : w < 8)
    {i : Nat} (hi : i < 72) : FlippedWord (raw ^^^ ((1 : BitVec 640) <<< bitAt w i)) data b w (ed ^^^ dataFlip i) (ec ^^^ checkFlip i) := by
  obtain ⟨hb, hp⟩ := flip_parts w hw i hi
  refine ⟨by rw [lineBack_xor, hb, Nat.xor_zero, h.back], fun v hv => ?_, fun v hv => ?_⟩
  · rw [lineWord_xor, h.word v hv, (hp v hv).1]
    split
    · rw [Nat.xor_assoc]
    · rw [Nat.xor_zero]
  · rw [lineCheck_xor, h.check v hv, (hp v hv).2]
    split
    · rw [Nat.xor_assoc]
    · rw [Nat.xor_zero]

theorem FlippedWord.good {raw : BitVec 640} {data : LineData} {b w ed ec : Nat} (h : FlippedWord raw data b w ed ec) {v : Nat}
    (hv : v < 8) (hne : v ≠ w) :
    eccCheck 7 64 (lineWord raw v) (lineCheck raw v) = .good (data.extractLsb' (64 * v) 64).toNat := by
  rw [h.word v hv, h.check v hv, if_neg hne, Nat.xor_zero, if_neg hne, Nat.xor_zero, eccCheck_hamming (by decide)]

theorem FlippedWord.checkAt {raw : BitVec 640} {data : LineData} {b w ed ec : Nat} (h : FlippedWord raw data b w ed ec) (hw : w < 8) :
    eccCheck 7 64 (lineWord raw w) (lineCheck raw w) =
      eccCheck 7 64 ((data.extractLsb' (64 * w) 64).toNat ^^^ ed) (hamming 7 64 (data.extractLsb' (64 * w) 64).toNat ^^^ ec) := by
  rw [h.word w hw, h.check w hw, if_pos rfl, if_pos rfl]

/-! ### Lines of the memory -/

/-- Whether a cell is one of the line's. -/
def cellOf (key : Nat) (c : Host.Cell) : Bool := decide (80 * key ≤ c.1) && decide (c.1 < 80 * key + 80)

theorem cellOf_iff (key : Nat) (c : Host.Cell) : cellOf key c = true ↔ 80 * key ≤ c.1 ∧ c.1 < 80 * key + 80 := by
  simp [cellOf]

/-- A line with the byte of one cell put in. -/
def putCell (key : Nat) (r : BitVec 640) (c : Host.Cell) : BitVec 640 :=
  (r &&& ~~~ (BitVec.ofNat 640 0xFF <<< (8 * (c.1 - 80 * key)))) ||| ((c.2.zeroExtend 640) <<< (8 * (c.1 - 80 * key)))

theorem rawAt_eq (m : Dram) (key : Nat) : rawAt m key = (m.filter (cellOf key)).foldl (putCell key) (blankRaw key) := rfl

theorem getLsbD_putCell (key : Nat) (r : BitVec 640) (n : Nat) (b : Byte) {i : Nat} (hi : i < 640) :
    (putCell key r (80 * key + n, b)).getLsbD i = if 8 * n ≤ i ∧ i < 8 * n + 8 then b.getLsbD (i - 8 * n) else r.getLsbD i := by
  have hn : 80 * key + n - 80 * key = n := by omega
  have hff (j : Nat) : Nat.testBit 0xFF j = decide (j < 8) := Nat.testBit_two_pow_sub_one 8 j
  rw [putCell, BitVec.getLsbD_or, BitVec.getLsbD_and, BitVec.getLsbD_not, BitVec.getLsbD_shiftLeft, BitVec.getLsbD_shiftLeft,
    BitVec.getLsbD_ofNat, BitVec.getLsbD_setWidth, hn, hff, decide_eq_true hi]
  by_cases h1 : 8 * n ≤ i
  · have h0 : ¬ i < 8 * n := by omega
    have h2 : i - 8 * n < 640 := by omega
    by_cases h3 : i < 8 * n + 8
    · have h4 : i - 8 * n < 8 := by omega
      simp [h0, h1, h2, h3, h4]
    · have h4 : ¬ i - 8 * n < 8 := by omega
      have h5 : b.getLsbD (i - 8 * n) = false := BitVec.getLsbD_of_ge _ _ (by omega)
      simp [h2, h3, h4, h5]
  · simp [h1, show i < 8 * n by omega]

/-- The cell of byte `i` of a line. -/
def byteCell (key : Nat) (raw : BitVec 640) (i : Nat) : Host.Cell := (80 * key + i, raw.extractLsb' (8 * i) 8)

/-- The first `n` bytes that `runOf` lists, put in, are those of the line; the others are those of an unlisted line. -/
theorem getLsbD_foldl_byteCells (key : Nat) (raw : BitVec 640) {n : Nat} (hn : n ≤ 80) {i : Nat} (hi : i < 640) :
    ((((List.range n).map (byteCell key raw)).filter (fun c => c.2 != cellDefault c.1)).foldl (putCell key) (blankRaw key)).getLsbD i =
      if i < 8 * n then raw.getLsbD i else (blankRaw key).getLsbD i := by
  induction n with
  | zero => simp
  | succ n ih =>
    have hd : cellDefault (80 * key + n) = (blankRaw key).extractLsb' (8 * n) 8 := by
      rw [cellDefault, show (80 * key + n) / 80 = key by omega, show (80 * key + n) % 80 = n by omega]
    have hbit (r : BitVec 640) (h1 : 8 * n ≤ i) (h2 : i < 8 * n + 8) : (r.extractLsb' (8 * n) 8 : Byte).getLsbD (i - 8 * n) = r.getLsbD i := by
      rw [BitVec.getLsbD_extractLsb', decide_eq_true (by omega : i - 8 * n < 8), Bool.true_and, show 8 * n + (i - 8 * n) = i by omega]
    specialize ih (by omega)
    rw [List.range_succ, List.map_append, List.filter_append, List.foldl_append, List.map_singleton, List.filter_singleton]
    have hlt : i < 8 * (n + 1) ↔ i < 8 * n ∨ (8 * n ≤ i ∧ i < 8 * n + 8) := by omega
    cases hc : (byteCell key raw n).2 != cellDefault (byteCell key raw n).1
    · have he : (raw.extractLsb' (8 * n) 8 : Byte) = (blankRaw key).extractLsb' (8 * n) 8 := (bne_eq_false_iff_eq.mp hc).trans hd
      simp only [cond_false, List.foldl_nil, ih, hlt]
      by_cases h0 : i < 8 * n
      · simp [h0]
      · by_cases h1 : 8 * n ≤ i ∧ i < 8 * n + 8
        · have := congrArg (fun b : Byte => b.getLsbD (i - 8 * n)) he
          simp only [hbit _ h1.1 h1.2] at this
          rw [if_neg h0, if_pos (.inr h1), this]
        · rw [if_neg h0, if_neg (by tauto)]
    · simp only [cond_true, List.foldl_cons, List.foldl_nil, byteCell, getLsbD_putCell key _ n _ hi, ih, hlt]
      by_cases h1 : 8 * n ≤ i ∧ i < 8 * n + 8
      · rw [if_pos h1, if_pos (.inr h1), hbit _ h1.1 h1.2]
      · simp only [h1, or_false, if_false]

theorem foldl_runOf (key : Nat) (raw : BitVec 640) : (runOf key raw).foldl (putCell key) (blankRaw key) = raw :=
  BitVec.eq_of_getLsbD_eq fun _ hi => (getLsbD_foldl_byteCells key raw (le_refl 80) hi).trans (if_pos hi)

theorem filter_setRaw (m : Dram) (key k : Nat) (raw : BitVec 640) :
    (setRaw m key raw).filter (cellOf k) = if k = key then runOf key raw else m.filter (cellOf k) := by
  have hrun (c) (hc : c ∈ runOf key raw) := runOf_range hc
  have outside (q : Host.Cell → Bool) (h : ∀ c ∈ m, q c = true → ¬(80 * k ≤ c.1 ∧ c.1 < 80 * k + 80)) :
      m.filter (fun c => cellOf k c && q c) = [] :=
    List.filter_eq_nil_iff.mpr fun c hc hq => h c hc (Bool.and_eq_true_iff.mp hq).2 ((cellOf_iff k c).mp (Bool.and_eq_true_iff.mp hq).1)
  rw [setRaw, List.filter_append, List.filter_append, List.filter_filter, List.filter_filter]
  split
  next h =>
    subst h
    rw [List.filter_eq_self.mpr fun c hc => (cellOf_iff k c).mpr (hrun c hc), outside (fun c => decide (c.1 < 80 * k)) fun c _ h => ?_,
      outside (fun c => decide (80 * k + 80 ≤ c.1)) fun c _ h => ?_, List.nil_append, List.append_nil]
    all_goals simp only [decide_eq_true_eq] at h; omega
  next h =>
    have hnone : (runOf key raw).filter (cellOf k) = [] :=
      List.filter_eq_nil_iff.mpr fun c hc => by rw [cellOf_iff]; have := hrun c hc; omega
    rw [hnone, List.append_nil]
    rcases Nat.lt_or_gt_of_ne h with h | h
    · rw [outside (fun c => decide (80 * key + 80 ≤ c.1)) fun c _ h => by simp only [decide_eq_true_eq] at h; omega, List.append_nil]
      refine List.filter_congr fun c _ => ?_
      rw [Bool.eq_iff_iff, Bool.and_eq_true, cellOf_iff, decide_eq_true_iff]
      omega
    · rw [outside (fun c => decide (c.1 < 80 * key)) fun c _ h => by simp only [decide_eq_true_eq] at h; omega, List.nil_append]
      refine List.filter_congr fun c _ => ?_
      rw [Bool.eq_iff_iff, Bool.and_eq_true, cellOf_iff, decide_eq_true_iff]
      omega

/-- The stored lines read back, each by its own key. -/
theorem memoryReadBack : Claim.MemoryReadBack := by
  intro m key raw
  refine ⟨?_, fun k hk => ?_⟩
  · rw [rawAt_eq, filter_setRaw, if_pos rfl, foldl_runOf]
  · rw [rawAt_eq, filter_setRaw, if_neg hk, rawAt_eq]

theorem memoryEcc : Claim.MemoryEcc := by
  intro data poison nohand cause hand
  dsimp only
  have hraw (w : Nat) := flippedWord_rawLine data (backing poison cause hand nohand) w
  generalize rawLine data (backing poison cause hand nohand) = raw at hraw
  refine ⟨?_, fun w i => ⟨?_, fun j hij => ?_⟩⟩
  · have hb := backRead_backing poison nohand cause hand (hraw 8).back
    have hf := foldl_wordStep_fixed (raw := raw) (data := data) (r := backRead raw) (w := 8) (y := 0) (by rw [hb]) (by rw [hb])
      (fun v hv hne => (hraw 8).good hv hne) (fun h => absurd h (by decide)) (le_refl 8)
    rw [checkLine_eq, hf, hb]
    simp [readFixed, wordsBelow_eight]
  · have h1 := (hraw w).flip w.isLt i.isLt
    rw [Nat.zero_xor, Nat.zero_xor] at h1
    have hb := backRead_backing poison nohand cause hand h1.back
    obtain ⟨y, hy⟩ := eccCheck_one (data.extractLsb' (64 * w) 64).toNat i.isLt
    have hf := foldl_wordStep_fixed (r := backRead (raw ^^^ ((1 : BitVec 640) <<< bitAt w i))) (by rw [hb]) (by rw [hb])
      (fun v hv hne => h1.good hv hne) (fun hw => (h1.checkAt hw).trans hy) (le_refl 8)
    have hw := w.isLt
    rw [← bitAt, checkLine_eq, hf, hb]
    simp [readFixed, wordsBelow_eight]
  · have h2 := ((hraw w).flip w.isLt i.isLt).flip w.isLt j.isLt
    rw [Nat.zero_xor, Nat.zero_xor] at h2
    have hb := backRead_backing poison nohand cause hand h2.back
    obtain ⟨y, hy⟩ := eccCheck_two (data.extractLsb' (64 * w) 64).toNat i.isLt j.isLt (fun h => hij (Fin.ext h.symm))
    obtain ⟨hf, hu, hword⟩ := foldl_wordStep_lost (r := backRead (raw ^^^ ((1 : BitVec 640) <<< bitAt w i) ^^^ ((1 : BitVec 640) <<< bitAt w j))) (by rw [hb])
      (by rw [hb]) (fun v hv hne => ⟨_, h2.good hv hne⟩) ((h2.checkAt w.isLt).trans hy) (le_refl 8)
    rw [if_pos w.isLt] at hu
    rw [← bitAt, ← bitAt, checkLine_eq]
    simp only [hu, gt_iff_lt, Nat.one_pos, if_true, true_and]
    exact ⟨hf, hword w.isLt⟩

/-- Settles O34: a stored line is found again cell by cell, and the two syndromes of a word name its one wrong bit, or that there are two. -/
theorem storedLines : Obligations.StoredLines := ⟨memoryReadBack, memoryEcc⟩

end Sys2Proof.Machine
end

section
/-! SUPPORT. What a register reads after the writes of other fields and registers, and which registers an arrival or a record of a fault event
leaves as they are (R375, R433, R435, R437). -/

namespace Sys2Proof.Machine

/-! ### Fields of registers -/

namespace State

theorem get_wr_self (s : State) (r : Reg) (w : Word) (f : Fld) : (s.wr r w).get r f = f.get w := by rw [get, rd_wr_self]

theorem get_wr_ne {r q : Reg} (h : q.key ≠ r.key) (s : State) (w : Word) (f : Fld) : (s.wr r w).get q f = s.get q f := by
  rw [get, rd_wr_ne _ _ _ _ h, get]

/-- A field put and read back. -/
theorem get_put_self {f : Fld} (hl : f.lo ≤ f.hi) (hh : f.hi < 64) (s : State) (r : Reg) (n : Nat) :
    (s.put r f n).get r f = n % 2 ^ (f.hi - f.lo + 1) := by
  rw [get, rd_put_self, Fld.get_put_le f _ n hl hh]

/-- Another field of the register that was put. -/
theorem get_put_apart {f g : Fld} (hl : f.lo ≤ f.hi) (hg : g.lo ≤ g.hi) (hd : g.hi < f.lo ∨ f.hi < g.lo) (s : State) (r : Reg) (n : Nat) :
    (s.put r f n).get r g = s.get r g := by
  rw [get, rd_put_self, Fld.get_put_of_disjoint f g _ n hl hd hg, get]

theorem get_put_ne {r q : Reg} (h : q.key ≠ r.key) (s : State) (f : Fld) (n : Nat) (g : Fld) : (s.put r f n).get q g = s.get q g := by
  rw [get, rd_put_ne h, get]

theorem get_lt (s : State) (r : Reg) (f : Fld) : s.get r f < 2 ^ (f.hi - f.lo + 1) := Fld.get_lt ..

end State

/-! ### What an arrival changes -/

/-- A state that differs from another one in registers and SRAM errors alone. -/
def sameUnits (s t : State) : Prop := t = { s with regs := t.regs, flips := t.flips }

theorem sameUnits_refl (s : State) : sameUnits s s := rfl

theorem sameUnits.trans {s t u : State} (h : sameUnits s t) (h' : sameUnits t u) : sameUnits s u := by
  rw [sameUnits, h', h]

theorem sameUnits_wr (s : State) (r : Reg) (w : Word) : sameUnits s (s.wr r w) := rfl

theorem sameUnits_put (s : State) (r : Reg) (f : Fld) (n : Nat) : sameUnits s (s.put r f n) := rfl

theorem sameUnits_inc (s : State) (r : Reg) (f : Fld) : sameUnits s (s.inc r f) := rfl

theorem sameUnits_sramWrite (s : State) (st u i : Nat) : sameUnits s (sramWrite s st u i) := by
  unfold sramWrite
  split <;> rfl

theorem sameUnits_sramClear (s : State) (st u i : Nat) : sameUnits s (sramClear s st u i) := rfl

theorem sameUnits_setTally (s : State) (n v : Nat) : sameUnits s (s.setTally n v) :=
  (sameUnits_put ..).trans (sameUnits_sramWrite ..)

theorem sameUnits_arrive (s : State) (n : Nat) : sameUnits s (s.arrive n) := by
  unfold State.arrive
  split
  · rfl
  · split
    · exact sameUnits_setTally ..
    · rfl

theorem sameUnits_overflowClass (s : State) : sameUnits s s.overflowClass := by
  unfold State.overflowClass
  dsimp only
  split
  · rfl
  · exact (sameUnits_inc ..).trans (sameUnits_arrive ..)

theorem sameUnits_writeRecord (s : State) (e : FaultEv) (v : Nat) : sameUnits s (s.writeRecord e v) := by
  unfold State.writeRecord
  split
  · exact (sameUnits_inc ..).trans ((sameUnits_put ..).trans (sameUnits_overflowClass _))
  · exact (sameUnits_wr ..).trans ((sameUnits_wr ..).trans ((sameUnits_wr ..).trans ((sameUnits_wr ..).trans
      ((sameUnits_put ..).trans (sameUnits_put ..)))))

theorem sameUnits_noteFault (s : State) (e : FaultEv) (v : Nat) : sameUnits s (s.noteFault e v) := by
  unfold State.noteFault
  dsimp only
  split
  · exact (sameUnits_inc ..).trans (sameUnits_writeRecord ..)
  · exact ((sameUnits_inc ..).trans (sameUnits_writeRecord ..)).trans (sameUnits_arrive ..)

theorem sameUnits_raise (s : State) (r : Reg) (b cls u sev addr : Nat) : sameUnits s (s.raise r b cls u none sev addr) :=
  (sameUnits_wr ..).trans (sameUnits_noteFault ..)

/-- A register that no arrival touches: neither a tally, nor a TIC_SAT word, nor the injection that a tally's write may disarm. -/
def arriveKept (r : Reg) : Prop := (r.key < 0xF00006101000 ∨ 0xF00006112000 ≤ r.key) ∧ r.key ≠ 0xF00009000500

/-- A register that no record of a fault event touches: beside those of the arrivals, FLT_STATUS, FLT_TAIL, the class counts and the
records. -/
def noteKept (r : Reg) : Prop :=
  (r.key < 0xF00006101000 ∨ 0xF00006112000 ≤ r.key) ∧
    (r.key < 0xF00009000000 ∨ (0xF00009000200 ≤ r.key ∧ r.key < 0xF00009000500) ∨ 0xF00009012000 ≤ r.key)

theorem noteKept.arrive {r : Reg} (h : noteKept r) : arriveKept r := by
  obtain ⟨h1, h2⟩ := h
  exact ⟨h1, by omega⟩

theorem rd_sramWrite_of_ne {r : Reg} (h : r.key ≠ 0xF00009000500) (s : State) (st u i : Nat) : (sramWrite s st u i).rd r = s.rd r := by
  unfold sramWrite
  split
  · exact State.rd_put_ne (r := .FLT_INJECT) h ..
  · rfl

theorem sourceExists_lt {n : Nat} (h : sourceExists n = true) : n < 8192 :=
  of_decide_eq_true (Bool.and_eq_true_iff.mp h).1

theorem rd_arrive {r : Reg} (h : arriveKept r) (s : State) (n : Nat) : (s.arrive n).rd r = s.rd r := by
  obtain ⟨h1, h2⟩ := h
  unfold State.arrive
  split
  · rfl
  next hex =>
    have hn := sourceExists_lt (by simpa using hex)
    split
    · rw [State.setTally, rd_sramWrite_of_ne h2, State.rd_put_ne (by simp only [Reg.key] at h1 ⊢; omega)]
    · exact State.rd_wr_ne _ _ _ _ (by simp only [Reg.key] at h1 ⊢; omega)

theorem rd_overflowClass {r : Reg} (h : noteKept r) (s : State) : s.overflowClass.rd r = s.rd r := by
  have hne : r.key ≠ (Reg.FLT_CLASS_CNT 29).key := by simp only [Reg.key, noteKept] at h ⊢; omega
  unfold State.overflowClass
  dsimp only
  split
  · exact State.rd_inc_ne hne ..
  · rw [rd_arrive h.arrive, State.rd_inc_ne hne]

theorem rd_writeRecord {r : Reg} (h : noteKept r) (s : State) (e : FaultEv) (v : Nat) : (s.writeRecord e v).rd r = s.rd r := by
  have hst : r.key ≠ Reg.FLT_STATUS.key := by simp only [Reg.key, noteKept] at h ⊢; omega
  have htl : r.key ≠ Reg.FLT_TAIL.key := by simp only [Reg.key, noteKept] at h ⊢; omega
  have hrec (k : Nat) (hk : k < 4) : r.key ≠ (Reg.FLT_REC (s.get .FLT_TAIL F.FLT_HEAD_INDEX) k).key := by
    have hi : s.get .FLT_TAIL F.FLT_HEAD_INDEX < 256 := s.get_lt ..
    simp only [Reg.key, noteKept] at h ⊢
    omega
  unfold State.writeRecord
  split
  · rw [rd_overflowClass h, State.rd_put_ne hst, State.rd_inc_ne hst]
  · simp only [State.rd_put_ne hst, State.rd_put_ne htl]
    rw [State.rd_wr_ne _ _ _ _ (hrec 3 (by decide)), State.rd_wr_ne _ _ _ _ (hrec 2 (by decide)),
      State.rd_wr_ne _ _ _ _ (hrec 1 (by decide)), State.rd_wr_ne _ _ _ _ (hrec 0 (by decide))]

theorem rd_noteFault {r : Reg} (h : noteKept r) (s : State) {e : FaultEv} (he : e.cls < 32) (v : Nat) : (s.noteFault e v).rd r = s.rd r := by
  have hne : r.key ≠ (Reg.FLT_CLASS_CNT e.cls).key := by simp only [Reg.key, noteKept] at h ⊢; omega
  unfold State.noteFault
  dsimp only
  split
  · rw [rd_writeRecord h, State.rd_inc_ne hne]
  · rw [rd_arrive h.arrive, rd_writeRecord h, State.rd_inc_ne hne]

/-- A status bit set for no hand: what a record leaves alone reads as it does with the bit set. -/
theorem rd_raise {r : Reg} (h : noteKept r) (s : State) (q : Reg) (b : Nat) {cls : Nat} (hc : cls < 32) (u sev addr : Nat) :
    (s.raise q b cls u none sev addr).rd r = (s.wr q (s.rd q ||| BitVec.ofNat 64 (2 ^ b))).rd r := rd_noteFault h _ hc _

theorem rd_raise_ne {r q : Reg} (h : noteKept r) (hne : r.key ≠ q.key) (s : State) (b : Nat) {cls : Nat} (hc : cls < 32) (u sev addr : Nat) :
    (s.raise q b cls u none sev addr).rd r = s.rd r := by
  rw [rd_raise h _ _ _ hc, State.rd_wr_ne _ _ _ _ hne]

/-- What an arrival adds to a tally that is not full. -/
theorem tally_arrive {s : State} {n : Nat} (hex : sourceExists n = true) (h : s.tally n < 255) : (s.arrive n).tally n = s.tally n + 1 := by
  have hn := sourceExists_lt hex
  have hne : (Reg.TIC_TALLY (n / 8)).key ≠ 0xF00009000500 := by simp only [Reg.key]; omega
  rw [State.arrive, if_neg (by simp [hex]), if_pos h, State.setTally, State.tally, State.get, rd_sramWrite_of_ne hne, ← State.get,
    State.get_put_self (by dsimp only; omega) (by dsimp only; omega)]
  refine Nat.mod_eq_of_lt ?_
  have hw : (F.TIC_TALLY_TALLY (n % 8)).hi - (F.TIC_TALLY_TALLY (n % 8)).lo + 1 = 8 := by dsimp only; omega
  rw [hw]
  change _ + 1 < 256
  omega

end Sys2Proof.Machine
end

section
/-! SUPPORT. The record ring, full and not, and the loss of a hand core by core (R91, R437, R438, O26). -/

namespace Sys2Proof.Machine

/-! ### The record ring (R437) -/

/-- The four words of the record of an event. -/
def recordWord (s : State) (e : FaultEv) (sev k : Nat) : Word :=
  match k with
  | 0 => e.word0 sev
  | 1 => BitVec.ofNat 64 ((e.synd % 256) * 2 ^ 56 + e.addr % 2 ^ 52)
  | 2 => BitVec.ofNat 64 s.mtime
  | _ + 3 => BitVec.ofNat 64 ((s.recSeq + 1) % 2 ^ 32)

/-- The state with a record written in ring entry `i`. -/
def putRecord (s : State) (e : FaultEv) (sev i : Nat) : State :=
  (((s.wr (.FLT_REC i 0) (recordWord s e sev 0)).wr (.FLT_REC i 1) (recordWord s e sev 1)).wr (.FLT_REC i 2) (recordWord s e sev 2)).wr
    (.FLT_REC i 3) (recordWord s e sev 3)

theorem writeRecord_of_room {s : State} (h : s.get .FLT_STATUS F.FLT_STATUS_WAITING < 256) (e : FaultEv) (sev : Nat) :
    s.writeRecord e sev =
      (let i := s.get .FLT_TAIL F.FLT_HEAD_INDEX
       let t := (putRecord s e sev i).put .FLT_TAIL F.FLT_HEAD_INDEX ((i + 1) % 256)
       t.put .FLT_STATUS F.FLT_STATUS_WAITING (t.get .FLT_STATUS F.FLT_STATUS_WAITING + 1)) := by
  rw [State.writeRecord, if_neg (by omega)]
  rfl

theorem key_fltRec (i k : Nat) : (Reg.FLT_REC i k).key = 0xF00009010000 + i * 32 + k * 8 := by
  simp only [Reg.key]

theorem fltRec_ne {i j k l : Nat} (hk : k < 4) (hl : l < 4) (h : i ≠ j ∨ k ≠ l) : (Reg.FLT_REC i k).key ≠ (Reg.FLT_REC j l).key := by
  rw [key_fltRec, key_fltRec]
  omega

theorem rd_putRecord_self (s : State) (e : FaultEv) (sev i : Nat) {k : Nat} (hk : k < 4) :
    (putRecord s e sev i).rd (.FLT_REC i k) = recordWord s e sev k := by
  unfold putRecord
  interval_cases k <;> simp (disch := simp only [key_fltRec]; omega) only [State.rd_wr_ne, State.rd_wr_self]

theorem rd_putRecord_ne {s : State} {e : FaultEv} {sev i : Nat} {r : Reg} (h : ∀ k < 4, r.key ≠ (Reg.FLT_REC i k).key) :
    (putRecord s e sev i).rd r = s.rd r := by
  unfold putRecord
  rw [State.rd_wr_ne _ _ _ _ (h 3 (by decide)), State.rd_wr_ne _ _ _ _ (h 2 (by decide)), State.rd_wr_ne _ _ _ _ (h 1 (by decide)),
    State.rd_wr_ne _ _ _ _ (h 0 (by decide))]

/-- A record word reads as the ring holds it: FLT_TAIL and FLT_STATUS lie elsewhere. -/
theorem rd_writeRecord_fltRec {s : State} (h : s.get .FLT_STATUS F.FLT_STATUS_WAITING < 256) (e : FaultEv) (sev : Nat) (j : Nat) (k : Nat) :
    (s.writeRecord e sev).rd (.FLT_REC j k) = (putRecord s e sev (s.get .FLT_TAIL F.FLT_HEAD_INDEX)).rd (.FLT_REC j k) := by
  rw [writeRecord_of_room h]
  rw [State.rd_put_ne (by rw [key_fltRec]; simp only [Reg.key]; omega), State.rd_put_ne (by rw [key_fltRec]; simp only [Reg.key]; omega)]

theorem get_putRecord_ne {s : State} {e : FaultEv} {sev i : Nat} {r : Reg} (h : r.key < 0xF00009010000) (f : Fld) :
    (putRecord s e sev i).get r f = s.get r f := by
  rw [State.get, rd_putRecord_ne fun k _ => by rw [key_fltRec]; omega, State.get]

theorem get_fltTail_writeRecord {s : State} (h : s.get .FLT_STATUS F.FLT_STATUS_WAITING < 256) (e : FaultEv) (sev : Nat) :
    (s.writeRecord e sev).get .FLT_TAIL F.FLT_HEAD_INDEX = (s.get .FLT_TAIL F.FLT_HEAD_INDEX + 1) % 256 := by
  rw [writeRecord_of_room h]
  dsimp only
  rw [State.get_put_ne (by decide), State.get_put_self (by decide) (by decide)]
  exact Nat.mod_mod _ 256

theorem get_waiting_writeRecord {s : State} (h : s.get .FLT_STATUS F.FLT_STATUS_WAITING < 256) (e : FaultEv) (sev : Nat) :
    (s.writeRecord e sev).get .FLT_STATUS F.FLT_STATUS_WAITING = s.get .FLT_STATUS F.FLT_STATUS_WAITING + 1 := by
  rw [writeRecord_of_room h]
  dsimp only
  rw [State.get_put_self (by decide) (by decide), State.get_put_ne (by decide), get_putRecord_ne (by decide)]
  exact Nat.mod_eq_of_lt (lt_of_le_of_lt h (by decide))

theorem recSeq_writeRecord {s : State} (h : s.get .FLT_STATUS F.FLT_STATUS_WAITING < 256) (e : FaultEv) (sev : Nat) :
    (s.writeRecord e sev).recSeq = (s.recSeq + 1) % 2 ^ 32 := by
  have hi : s.get .FLT_TAIL F.FLT_HEAD_INDEX < 256 := s.get_lt ..
  have hlast : ((s.get .FLT_TAIL F.FLT_HEAD_INDEX + 1) % 256 + 255) % 256 = s.get .FLT_TAIL F.FLT_HEAD_INDEX := by omega
  rw [State.recSeq, get_fltTail_writeRecord h, hlast, rd_writeRecord_fltRec h, rd_putRecord_self _ _ _ _ (by decide), recordWord, BitVec.toNat_ofNat]
  omega

/-! ### Records that are dropped (R437) -/

theorem rd_overflowClass_of_fltRec (s : State) {r : Reg} (h : 0xF00009010000 ≤ r.key ∨ r.key = 0xF00009000000) : s.overflowClass.rd r = s.rd r := by
  have hne : r.key ≠ (Reg.FLT_CLASS_CNT 29).key := by
    rw [show (Reg.FLT_CLASS_CNT 29).key = 0xF000090001E8 from rfl]
    omega
  have hk : arriveKept r := ⟨.inr (by omega), by omega⟩
  unfold State.overflowClass
  dsimp only
  split
  · exact State.rd_inc_ne hne ..
  · rw [rd_arrive hk, State.rd_inc_ne hne]

theorem writeRecord_of_full {s : State} (h : s.get .FLT_STATUS F.FLT_STATUS_WAITING = 256) (e : FaultEv) (sev : Nat) :
    s.writeRecord e sev = ((s.inc .FLT_STATUS F.FLT_STATUS_DROPPED).put .FLT_STATUS F.FLT_STATUS_OVERFLOW 1).overflowClass := by
  rw [State.writeRecord, if_pos h]

theorem get_fltStatus_writeRecord_of_full {s : State} (h : s.get .FLT_STATUS F.FLT_STATUS_WAITING = 256) (e : FaultEv) (sev : Nat) (f : Fld) :
    (s.writeRecord e sev).get .FLT_STATUS f = ((s.inc .FLT_STATUS F.FLT_STATUS_DROPPED).put .FLT_STATUS F.FLT_STATUS_OVERFLOW 1).get .FLT_STATUS f := by
  rw [writeRecord_of_full h, State.get, rd_overflowClass_of_fltRec _ (by decide), State.get]

theorem State.get_inc_self (s : State) {r : Reg} {f : Fld} (hl : f.lo ≤ f.hi) (hh : f.hi < 64) : (s.inc r f).get r f = min (s.get r f + 1) f.top := by
  rw [State.inc, State.addSat, State.get_put_self hl hh, Nat.mod_eq_of_lt]
  have := Nat.two_pow_pos (f.hi - f.lo + 1)
  rw [Fld.top]
  omega

theorem faultRecord : Claim.FaultRecord := by
  refine ⟨fun s e sev h => ?_, fun s e sev h => ?_⟩
  · have hrd (k : Nat) (hk : k < 4) := (rd_writeRecord_fltRec h e sev _ k).trans (rd_putRecord_self s e sev _ hk)
    refine ⟨hrd 0 (by decide), hrd 1 (by decide), hrd 2 (by decide), hrd 3 (by decide), recSeq_writeRecord h e sev,
      get_fltTail_writeRecord h e sev, get_waiting_writeRecord h e sev, fun j k _ hk hne => ?_, ?_⟩
    · rw [rd_writeRecord_fltRec h, rd_putRecord_ne fun l hl => fltRec_ne hk hl (.inl hne)]
    · rw [writeRecord_of_room h]
      rfl
  · have hget := get_fltStatus_writeRecord_of_full h e sev
    refine ⟨?_, ?_, ?_, fun j k _ _ => ?_⟩
    · rw [State.bit, hget, State.get_put_self (by decide) (by decide)]
      rfl
    · rw [hget, State.get_put_apart (by decide) (by decide) (by decide), State.get_inc_self _ (by decide) (by decide)]
    · rw [hget, State.get_put_apart (by decide) (by decide) (by decide), State.inc, State.addSat,
        State.get_put_apart (by decide) (by decide) (by decide), h]
    · rw [writeRecord_of_full h, rd_overflowClass_of_fltRec _ (.inl (by rw [key_fltRec]; omega)),
        State.rd_put_ne (by rw [key_fltRec]; simp only [Reg.key]; omega), State.rd_inc_ne (by rw [key_fltRec]; simp only [Reg.key]; omega)]

/-! ### The loss of a hand (R91, R438) -/

theorem key_coreState (c : Nat) : (Reg.CORE_STATE c).key = 0xF00010200008 + c / 24 * 0x1000000 + c % 24 * 0x40 := by
  simp only [Reg.key]
  omega

theorem coreState_ne {c d : Nat} (h : c ≠ d) : (Reg.CORE_STATE c).key ≠ (Reg.CORE_STATE d).key := by
  rw [key_coreState, key_coreState]
  omega

theorem rd_enterStopping_of_ne {s : State} {c : Nat} {r : Reg} (h : r.key ≠ (Reg.CORE_STATE c).key) : (s.enterStopping c).rd r = s.rd r := by
  rw [State.enterStopping, State.setCoreState, State.rd_put_ne h, State.rd_setCore]

theorem coreState_enterStopping_self (s : State) (c : Nat) : (s.enterStopping c).coreState c = 4 :=
  State.get_put_self (by decide) (by decide) ..

theorem coreState_enterStopping_of_ne {s : State} {c d : Nat} (h : d ≠ c) : (s.enterStopping c).coreState d = s.coreState d := by
  rw [State.coreState, State.get, rd_enterStopping_of_ne (coreState_ne h), State.coreState, State.get]

theorem core_enterStopping_of_ne {s : State} {c d : Nat} (h : d ≠ c) : (s.enterStopping c).core d = s.core d := by
  rw [State.enterStopping, State.setCoreState, State.put, State.core_wr, State.core_setCore_ne _ _ _ _ h]

/-- What the loss of its hand does to a core. -/
def lossStop (s : State) (c : Nat) : State :=
  if (s.coreState c = 2 ∨ s.coreState c = 3) ∧ s.get (.FLT_DIE (c / 24)) F.FLT_DIE_STATE = 1 then s.enterStopping c else s

/-- The state that the loss of its hand leaves a core in. -/
def lossCoreState (s : State) (c : Nat) : Nat :=
  if (s.coreState c = 2 ∨ s.coreState c = 3) ∧ s.get (.FLT_DIE (c / 24)) F.FLT_DIE_STATE = 1 then 4 else s.coreState c

theorem coreState_lossStop_self (s : State) (c : Nat) : (lossStop s c).coreState c = lossCoreState s c := by
  unfold lossStop lossCoreState
  split
  · exact coreState_enterStopping_self s c
  · rfl

theorem rd_lossStop_of_ne {s : State} {c : Nat} {r : Reg} (h : r.key ≠ (Reg.CORE_STATE c).key) : (lossStop s c).rd r = s.rd r := by
  unfold lossStop
  split
  · exact rd_enterStopping_of_ne h
  · rfl

theorem coreState_lossStop_of_ne {s : State} {c d : Nat} (h : d ≠ c) : (lossStop s c).coreState d = s.coreState d := by
  rw [State.coreState, State.get, rd_lossStop_of_ne (coreState_ne h), State.coreState, State.get]

theorem core_lossStop_of_ne {s : State} {c d : Nat} (h : d ≠ c) : (lossStop s c).core d = s.core d := by
  unfold lossStop
  split
  · exact core_enterStopping_of_ne h
  · rfl

theorem key_fltDie_lt {d : Nat} (h : d < 384) : (Reg.FLT_DIE (d / 24)).key < 0xF00009000500 := by
  simp only [Reg.key]
  omega

theorem key_coreState_ge (c : Nat) : 0xF00010200008 ≤ (Reg.CORE_STATE c).key := by
  rw [key_coreState]
  omega

theorem lossCoreState_lossStop_of_ne {s : State} {c d : Nat} (h : d ≠ c) (hd : d < 384) :
    lossCoreState (lossStop s c) d = lossCoreState s d := by
  have hkey : (Reg.FLT_DIE (d / 24)).key ≠ (Reg.CORE_STATE c).key := by
    have := key_fltDie_lt hd
    have := key_coreState_ge c
    omega
  rw [lossCoreState, lossCoreState, coreState_lossStop_of_ne h, State.get, rd_lossStop_of_ne hkey, State.get]

/-- An update of each unit of a list once: each is as the update of it alone leaves it. -/
theorem overAll_each {α β : Type} {step : State → α → State} {read val : State → α → β} {l : List α} (hl : l.Nodup)
    (hself : ∀ s, ∀ a ∈ l, read (step s a) a = val s a) (hread : ∀ s, ∀ a ∈ l, ∀ b ∈ l, b ≠ a → read (step s a) b = read s b)
    (hval : ∀ s, ∀ a ∈ l, ∀ b ∈ l, b ≠ a → val (step s a) b = val s b) (s : State) {a : α} (ha : a ∈ l) :
    read (overAll l step s) a = val s a := by
  have hkeep (m : List α) (hm : ∀ x ∈ m, x ∈ l ∧ x ≠ a) (s : State) : read (overAll m step s) a = read s a := by
    induction m generalizing s with
    | nil => rfl
    | cons x m ih =>
      obtain ⟨hx, hxa⟩ := hm x List.mem_cons_self
      exact (ih (fun y hy => hm y (List.mem_cons_of_mem _ hy)) _).trans (hread s x hx a ha hxa.symm)
  obtain ⟨m, n, rfl⟩ := List.append_of_mem ha
  obtain ⟨-, hn, hd⟩ := List.nodup_append.mp hl
  have hval' (k : List α) (hk : ∀ x ∈ k, x ∈ m) (s : State) : val (overAll k step s) a = val s a := by
    induction k generalizing s with
    | nil => rfl
    | cons x k ih =>
      have hx := hk x List.mem_cons_self
      exact (ih (fun y hy => hk y (List.mem_cons_of_mem _ hy)) _).trans
        (hval s x (List.mem_append_left _ hx) a ha (hd x hx a List.mem_cons_self).symm)
  rw [overAll, List.foldl_append, List.foldl_cons]
  refine (hkeep n (fun x hx => ⟨List.mem_append_right _ (List.mem_cons_of_mem _ hx), ?_⟩) _).trans ((hself _ a ha).trans (hval' m (fun _ h => h) s))
  rintro rfl
  exact (List.nodup_cons.mp hn).1 hx

/-- What every update of a listed unit leaves alone, all of them do. -/
theorem overAll_keeps_mem {α β : Type} {g : State → β} {f : State → α → State} {l : List α} (h : ∀ s, ∀ a ∈ l, g (f s a) = g s) (s : State) :
    g (overAll l f s) = g s := by
  induction l generalizing s with
  | nil => rfl
  | cons a l ih => exact (ih (fun s b hb => h s b (List.mem_cons_of_mem _ hb)) _).trans (h s a List.mem_cons_self)

/-- What every update does to the state as a whole, all of them do. -/
theorem overAll_rel {α : Type} {R : State → State → Prop} (hrefl : ∀ s, R s s) (htrans : ∀ {s t u}, R s t → R t u → R s u)
    {f : State → α → State} (h : ∀ s a, R s (f s a)) (l : List α) (s : State) : R s (overAll l f s) := by
  induction l generalizing s with
  | nil => exact hrefl s
  | cons a l ih => exact htrans (h s a) (ih _)

/-- A state that differs from another one in registers, SRAM errors and cores alone. -/
def sameBesideCores (s t : State) : Prop := t = { s with regs := t.regs, flips := t.flips, cores := t.cores }

theorem sameBesideCores_refl (s : State) : sameBesideCores s s := rfl

theorem sameBesideCores.trans {s t u : State} (h : sameBesideCores s t) (h' : sameBesideCores t u) : sameBesideCores s u := by
  rw [sameBesideCores, h', h]

theorem sameUnits.besideCores {s t : State} (h : sameUnits s t) : sameBesideCores s t := by
  rw [sameBesideCores, h]

theorem sameBesideCores_lossStop (s : State) (c : Nat) : sameBesideCores s (lossStop s c) := by
  unfold lossStop
  split <;> rfl

theorem nodup_coresOf (s : State) (h : Nat) : (s.coresOf h).Nodup := List.nodup_range.filter _

theorem lt_of_mem_coresOf {s : State} {h c : Nat} (hc : c ∈ s.coresOf h) : c < 384 := List.mem_range.mp (List.mem_filter.mp hc).1

theorem handLoss_of_lost {s : State} {h : Nat} (hl : s.handLost h = true) : s.handLoss h = s := by
  rw [State.handLoss, if_pos hl]

/-- A hand's loss before its cores: it reads LOST, and its source has arrived. -/
def lossNoted (s : State) (h : Nat) : State := (s.put (.FAB_HAND h) F.FAB_HAND_STATE 3).arrive (128 + h)

theorem handLoss_of_open {s : State} {h : Nat} (hl : s.handLost h = false) (ho : s.folio.isLedger h = false) :
    s.handLoss h = overAll ((lossNoted s h).coresOf h) lossStop (lossNoted s h) := by
  have hf : (lossNoted s h).folio.isLedger h = false := by rw [lossNoted, sameUnits_arrive]; exact ho
  rw [State.handLoss, if_neg (by simp [hl])]
  dsimp only
  rw [← lossNoted, if_neg (by simp [hf])]
  rfl

theorem sameUnits_lossNoted (s : State) (h : Nat) : sameUnits s (lossNoted s h) := (sameUnits_put ..).trans (sameUnits_arrive ..)

theorem rd_lossNoted {r : Reg} {h : Nat} (hk : arriveKept r) (hne : r.key ≠ (Reg.FAB_HAND h).key) (s : State) : (lossNoted s h).rd r = s.rd r := by
  rw [lossNoted, rd_arrive hk, State.rd_put_ne hne]

theorem coresOf_congr {s t : State} {h : Nat} (hr : ∀ k < 6, t.rd (.FAB_HAND_CORES h k) = s.rd (.FAB_HAND_CORES h k)) :
    t.coresOf h = s.coresOf h := by
  refine List.filter_congr fun c hc => ?_
  rw [State.inHand, hr _ (by have := List.mem_range.mp hc; omega), State.inHand]

theorem faultHandLoss : Claim.FaultHandLoss := by
  refine ⟨fun h s hl ho => ?_, fun h s hl => handLoss_of_lost hl⟩
  have hh := h.isLt
  have hcores : (lossNoted s h).coresOf h = s.coresOf h := coresOf_congr fun k hk =>
    rd_lossNoted ⟨.inl (by simp only [Reg.key]; omega), by simp only [Reg.key]; omega⟩ (by simp only [Reg.key]; omega) s
  have hrd {r : Reg} (hr : r.key < 0xF00010200008) : (overAll (s.coresOf h) lossStop (lossNoted s h)).rd r = (lossNoted s h).rd r :=
    overAll_keeps_mem (g := fun s => s.rd r) (fun s c _ => rd_lossStop_of_ne (hr.trans_le (key_coreState_ge c)).ne) _
  have hnoted (c : Nat) (hc : c < 384) : lossCoreState (lossNoted s h) c = lossCoreState s c := by
    have h1 : arriveKept (.CORE_STATE c) := ⟨.inr (by rw [key_coreState]; omega), by rw [key_coreState]; omega⟩
    have h2 : arriveKept (.FLT_DIE (c / 24)) := ⟨.inr (by simp only [Reg.key]; omega), (key_fltDie_lt hc).ne⟩
    rw [lossCoreState, lossCoreState, State.coreState, State.get, State.get, rd_lossNoted h1 (by rw [key_coreState]; simp only [Reg.key]; omega),
      rd_lossNoted h2 (by simp only [Reg.key]; omega), ← State.get, ← State.get, ← State.coreState]
  rw [handLoss_of_open hl ho, hcores]
  refine ⟨?_, fun ht => ?_, fun c hc => ?_, fun c hc => ?_, ?_⟩
  · have hk : arriveKept (.FAB_HAND h) := ⟨.inl (by simp only [Reg.key]; omega), by simp only [Reg.key]; omega⟩
    rw [State.handLost, State.get, hrd (by simp only [Reg.key]; omega), lossNoted, rd_arrive hk, ← State.get,
      State.get_put_self (by decide) (by decide)]
    rfl
  · have hex : sourceExists (128 + h.val) = true := by simp [sourceExists]; omega
    have htally : (s.put (.FAB_HAND h) F.FAB_HAND_STATE 3).tally (128 + h.val) = s.tally (128 + h.val) := by
      rw [State.tally, State.get_put_ne (by simp only [Reg.key]; omega), State.tally]
    rw [State.tally, State.get, hrd (by simp only [Reg.key]; omega), ← State.get, ← State.tally, lossNoted,
      tally_arrive hex (htally ▸ ht), htally]
  · refine (overAll_each (read := fun s c => s.coreState c) (val := lossCoreState) (nodup_coresOf s h) (fun s a _ => coreState_lossStop_self s a)
      (fun s a _ b _ hb => coreState_lossStop_of_ne hb) (fun s a _ b hb hne => lossCoreState_lossStop_of_ne hne (lt_of_mem_coresOf hb))
      _ hc).trans (hnoted c (lt_of_mem_coresOf hc))
  · refine (overAll_keeps_mem (g := fun s => s.core c) (fun s a ha => core_lossStop_of_ne fun e => hc (e ▸ ha)) _).trans ?_
    rw [sameUnits_lossNoted s h]
    rfl
  · exact (sameUnits_lossNoted s h).besideCores.trans (overAll_rel sameBesideCores_refl .trans sameBesideCores_lossStop _ _)

/-- Settles O26: the record ring, full and not, and the loss of a hand core by core. -/
theorem faultRecords : Obligations.FaultRecords := ⟨faultRecord, faultHandLoss⟩

end Sys2Proof.Machine
end

section
/-! SUPPORT. Publication of a line and the epoch boundaries of a hand without intakes (R125, R239 to R257, O29). -/

namespace Sys2Proof.Machine

/-! ### The pending bits of a core (R152, R251) -/

/-- A state that differs from another one in mip of core `c` alone. -/
structure MipOnly (c : Nat) (s t : State) : Prop where
  same : t = { s with regs := t.regs }
  rd : ∀ r : Reg, r.key ≠ (Reg.CSR c 0x344).key → t.rd r = s.rd r

theorem MipOnly.refl (c : Nat) (s : State) : MipOnly c s s := ⟨rfl, fun _ _ => rfl⟩

theorem MipOnly.trans {c : Nat} {s t u : State} (h : MipOnly c s t) (h' : MipOnly c t u) : MipOnly c s u :=
  ⟨by rw [h'.same, h.same], fun r hr => (h'.rd r hr).trans (h.rd r hr)⟩

theorem mipOnly_setMip (s : State) (c i : Nat) (b : Bool) : MipOnly c s (setMip s c i b) :=
  ⟨rfl, fun _ hr => State.rd_wr_ne _ _ _ _ hr⟩

theorem mipOnly_refreshMip (s : State) (c : Nat) : MipOnly c s (refreshMip s c) := by
  unfold refreshMip
  extract_lets s1 s2 s3 s4 lvl
  have h2 : MipOnly c s s2 := (mipOnly_setMip ..).trans (mipOnly_setMip ..)
  have h3 : MipOnly c s s3 := by
    unfold s3
    split
    · exact h2.trans (mipOnly_setMip ..)
    · exact h2
  exact ((h3.trans (mipOnly_setMip ..)).trans (mipOnly_setMip ..)).trans (mipOnly_setMip ..)

theorem key_csr (c n : Nat) : (Reg.CSR c n).key = 0x400000000000000 + c * 0x1000 + n := by
  simp only [Reg.key]

/-- With no interrupt enabled none is chosen. -/
theorem chosenInt_of_mie {s : State} {c : Nat} (h : s.csr c 0x304 = 0) : chosenInt s c = none := by
  have hp : pendingInts s c = [] := by simp [pendingInts, h]
  simp [chosenInt, hp]

/-! ### The boundary of a core (R241, R247, R251) -/

/-- A core at the boundary with nothing to trap, to retire or to interrupt. -/
structure QuietCore (s : State) (c : Nat) : Prop where
  endCode : (s.core c).endCode ≠ 4
  lateErr : (s.core c).lateErr = none
  skip : (s.core c).skip = none
  mie : s.csr c 0x304 = 0

/-- A core at the start of a quantum. -/
def newQuantum (k : Core) : Core := { k with count := 0, ended := false, published := false }

theorem boundaryCore_of_quiet {s : State} {c : Nat} (h : QuietCore s c) :
    boundaryCore s c = (refreshMip s c).setCore c (newQuantum (s.core c)) := by
  obtain ⟨hsame, hrd⟩ := mipOnly_refreshMip s c
  have hcore : (refreshMip s c).core c = s.core c := by rw [hsame]; rfl
  have hmie : (refreshMip s c).csr c 0x304 = 0 := by
    rw [State.csr, hrd _ (by rw [key_csr, key_csr]; omega)]
    exact h.mie
  simp only [boundaryCore, h.endCode, h.lateErr, h.skip, false_and, if_false, boundaryInt, chosenInt_of_mie hmie, hcore,
    Option.isSome_none, newQuantum]

/-- A state that differs from another one in mip and the fields of listed cores, each of which is as `f` makes it. -/
structure CoresDone (f : Core → Core) (l : List Nat) (s t : State) : Prop where
  same : t = { s with regs := t.regs, cores := t.cores }
  rd : ∀ r : Reg, (∀ c ∈ l, r.key ≠ (Reg.CSR c 0x344).key) → t.rd r = s.rd r
  core : ∀ c ∈ l, t.core c = f (s.core c)
  other : ∀ c, c ∉ l → t.core c = s.core c

theorem coresDone_boundary {h : Nat} (_ : h < 64) {l : List Nat} (hl : l.Nodup) {s : State} (hlost : s.handLost h = false)
    (hq : ∀ c ∈ l, QuietCore s c) :
    CoresDone newQuantum l s (overAll l (fun s c => unlessLost s h (fun s => boundaryCore s c)) s) := by
  induction l generalizing s with
  | nil => exact ⟨rfl, fun _ _ => rfl, by simp, fun _ _ => rfl⟩
  | cons c l ih =>
    obtain ⟨hc, hl⟩ := List.nodup_cons.mp hl
    obtain ⟨hsame, hrd⟩ := mipOnly_refreshMip s c
    have hstep : unlessLost s h (fun s => boundaryCore s c) = (refreshMip s c).setCore c (newQuantum (s.core c)) := by
      rw [unlessLost, if_neg (by simp [hlost]), boundaryCore_of_quiet (hq c List.mem_cons_self)]
    have hcore (d : Nat) (hd : d ≠ c) : ((refreshMip s c).setCore c (newQuantum (s.core c))).core d = s.core d := by
      rw [State.core_setCore_ne _ _ _ _ hd, hsame]
      rfl
    have hread (r : Reg) (hr : r.key ≠ (Reg.CSR c 0x344).key) :
        ((refreshMip s c).setCore c (newQuantum (s.core c))).rd r = s.rd r := by
      rw [State.rd_setCore, hrd r hr]
    have hlost' : ((refreshMip s c).setCore c (newQuantum (s.core c))).handLost h = false := by
      rw [State.handLost, State.get, hread _ (by rw [key_csr]; simp only [Reg.key]; omega), ← State.get, ← State.handLost, hlost]
    have hq' (d : Nat) (hd : d ∈ l) : QuietCore ((refreshMip s c).setCore c (newQuantum (s.core c))) d := by
      have hdc : d ≠ c := fun e => hc (e ▸ hd)
      obtain ⟨h1, h2, h3, h4⟩ := hq d (List.mem_cons_of_mem _ hd)
      refine ⟨by rwa [hcore d hdc], by rwa [hcore d hdc], by rwa [hcore d hdc], ?_⟩
      rw [State.csr, hread _ (by rw [key_csr, key_csr]; omega)]
      exact h4
    rw [show overAll (c :: l) _ s = overAll l _ _ from rfl, hstep]
    obtain ⟨h1, h2, h3, h4⟩ := ih hl hlost' hq'
    refine ⟨?_, fun r hr => ?_, fun d hd => ?_, fun d hd => ?_⟩
    · rw [h1, hsame]
      rfl
    · rw [h2 r fun d hd => hr d (List.mem_cons_of_mem _ hd), hread r (hr c List.mem_cons_self)]
    · rcases List.mem_cons.mp hd with rfl | hd
      · rw [h4 d hc, State.core_setCore_self]
      · rw [h3 d hd, hcore d fun e => hc (e ▸ hd)]
    · rw [List.mem_cons, not_or] at hd
      rw [h4 d hd.2, hcore d hd.1]

theorem CoresDone.trans {f g : Core → Core} {l : List Nat} {s t u : State} (h : CoresDone f l s t) (h' : CoresDone g l t u) :
    CoresDone (g ∘ f) l s u := by
  refine ⟨?_, fun r hr => (h'.rd r hr).trans (h.rd r hr), fun c hc => ?_, fun c hc => (h'.other c hc).trans (h.other c hc)⟩
  · rw [h'.same, h.same]
  · rw [h'.core c hc, h.core c hc, Function.comp_apply]

/-- An update of the fields of each listed core. -/
theorem coresDone_setCore (f : Core → Core) {l : List Nat} (hl : l.Nodup) (s : State) :
    CoresDone f l s (overAll l (fun s c => s.setCore c (f (s.core c))) s) := by
  refine ⟨overAll_rel (R := fun s t => t = { s with regs := t.regs, cores := t.cores }) (fun _ => rfl) (fun {s t u} h h' => by rw [h', h])
    (fun _ _ => rfl) l s, fun r _ => overAll_keeps_mem (g := fun s => s.rd r) (fun s c _ => State.rd_setCore ..) s, fun c hc => ?_, fun c hc => ?_⟩
  · exact overAll_each (read := fun s c => s.core c) (val := fun s c => f (s.core c)) hl (fun s c _ => State.core_setCore_self ..)
      (fun s a _ b _ hb => State.core_setCore_ne _ _ _ _ hb)
      (fun s a _ b _ hb => congrArg f (State.core_setCore_ne s a (f (s.core a)) b hb)) s hc
  · exact overAll_keeps_mem (g := fun s => s.core c) (fun s a ha => State.core_setCore_ne _ _ _ _ fun e => hc (e ▸ ha)) s

/-! ### A hand without intakes (R251 to R254) -/

variable {s : State} {h : Nat}

theorem dueIntakes_of_nil (hi : (s.ledger h).intakes = []) : dueIntakes s h = [] := by simp [dueIntakes, hi]

theorem deliverDue_of_placed (hp : (s.ledger h).placed = true) : deliverDue s h = s := by rw [deliverDue, if_pos (.inl hp)]

theorem deliverDue_of_nil (hp : (s.ledger h).placed = false) (hi : (s.ledger h).intakes = []) (hh : (s.ledger h).held = none)
    (hl : s.handLost h = false) : deliverDue s h = s.setLedger h { s.ledger h with placed := true } := by
  have hd := dueIntakes_of_nil hi
  have he : endHold s h = s := by rw [endHold, hh]
  rw [deliverDue, if_neg (by simp [hp, hd])]
  simp only [he, hd, overAll, List.foldl_nil, unlessLost, hl, Bool.false_eq_true, if_false]

theorem stageAll_of_nil (hi : (s.ledger h).intakes = []) : stageAll s h = s := by
  rw [stageAll, hi]
  rfl

theorem endPosts_of_nil (hi : (s.ledger h).intakes = []) : endPosts s h = s := by
  rw [endPosts, dueIntakes_of_nil hi]
  rfl

/-- The oldest entries of a mailbox go where it holds more than 64 (R147). -/
def trimMail (k : Core) : Core := { k with mail := k.mail.drop (k.mail.length - 64) }

theorem appendMail_of_nil (hi : (s.ledger h).intakes = []) :
    appendMail s h = overAll (s.coresOf h) (fun s c => s.setCore c (trimMail (s.core c))) s := by
  simp only [appendMail, dueIntakes_of_nil hi, List.map_nil, List.append_nil, trimMail]

theorem trimMail_of_short {k : Core} (hk : k.mail.length ≤ 64) : trimMail k = k := by
  rw [trimMail, Nat.sub_eq_zero_of_le hk, List.drop_zero]

/-- The ledger of a hand after a boundary at which no intake stood. -/
def clearedLedger (l : Ledger) : Ledger := { l with intakes := [], waits := [], placed := false, held := none, token := 0 }

theorem nextIntakes_of_nil (hi : (s.ledger h).intakes = []) : nextIntakes s h = s.setLedger h (clearedLedger (s.ledger h)) := by
  rw [nextIntakes, hi, clearedLedger]
  exact stageAll_of_nil (by rw [State.ledger_setLedger_self]; rfl)

theorem rd_setPhase_of_ne {r : Reg} (hr : r.key ≠ (Reg.CSQ_LDG_PHASE h).key) (n e : Nat) : (setPhase s h n e).rd r = s.rd r := by
  rw [setPhase, State.rd_put_ne hr, State.rd_put_ne hr, State.rd_put_ne hr]

theorem phaseOf_setPhase {n e : Nat} (hn : n < 8) : phaseOf (setPhase s h n e) h = n := by
  rw [phaseOf, setPhase, State.get_put_apart (by decide) (by decide) (by decide), State.get_put_apart (by decide) (by decide) (by decide),
    State.get_put_self (by decide) (by decide)]
  exact Nat.mod_eq_of_lt hn

theorem get_ended_setPhase {n e : Nat} (he : e < 512) : (setPhase s h n e).get (.CSQ_LDG_PHASE h) F.CSQ_LDG_PHASE_ENDED = e := by
  rw [setPhase, State.get_put_apart (by decide) (by decide) (by decide), State.get_put_self (by decide) (by decide)]
  exact Nat.mod_eq_of_lt he

theorem execEpochBoundary_of_placed {h : Fin 64} (hp : phaseOf s h = 4) (hpl : (s.ledger h).placed = true) (hw : (s.ledger h).waits = []) :
    exec (.epochBoundary h) s = .next (boundary s h) := by
  change execEpochBoundary h s = _
  rw [execEpochBoundary, if_neg (by simp [hp]), deliverDue_of_placed hpl]
  exact if_pos ⟨hpl, hw⟩

/-- The boundary of a hand that has no intake, of which no core traps, waits or takes an interrupt. -/
theorem boundary_of_quiet {h : Nat} (hh : h < 64) {s : State} (hi : (s.ledger h).intakes = []) (hst : (s.ledger h).stop = false)
    (hlost : s.handLost h = false) (hq : ∀ c ∈ s.coresOf h, QuietCore s c) :
    ∃ u, boundary s h = (setPhase u h 2 0).setLedger h (clearedLedger (s.ledger h)) ∧
      CoresDone (newQuantum ∘ trimMail) (s.coresOf h) (s.wr (.CSQ_LDG_EPOCH h) (s.rd (.CSQ_LDG_EPOCH h) + 1)) u := by
  let s1 := s.wr (.CSQ_LDG_EPOCH h) (s.rd (.CSQ_LDG_EPOCH h) + 1)
  have hnodup := nodup_coresOf s h
  have hcores1 : s1.coresOf h = s.coresOf h :=
    coresOf_congr fun k hk => State.rd_wr_ne _ _ _ _ (by simp only [Reg.key]; omega)
  let s2 := appendMail s1 h
  have h2 : CoresDone trimMail (s.coresOf h) s1 s2 := by
    have : s2 = _ := appendMail_of_nil (s := s1) hi
    rw [this, hcores1]
    exact coresDone_setCore trimMail hnodup s1
  have hrd2 (r : Reg) (hr : r.key ≠ (Reg.CSQ_LDG_EPOCH h).key) (hc : r.key < 0x400000000000000) : s2.rd r = s.rd r :=
    (h2.rd r fun c _ => by rw [key_csr]; omega).trans (State.rd_wr_ne _ _ _ _ hr)
  have hlost2 : s2.handLost h = false := by
    rw [State.handLost, State.get, hrd2 _ (by simp only [Reg.key]; omega) (by simp only [Reg.key]; omega), ← State.get, ← State.handLost, hlost]
  have hcores2 : s2.coresOf h = s.coresOf h :=
    coresOf_congr fun k hk => hrd2 _ (by simp only [Reg.key]; omega) (by simp only [Reg.key]; omega)
  have hq2 (c : Nat) (hc : c ∈ s.coresOf h) : QuietCore s2 c := by
    obtain ⟨q1, q2, q3, q4⟩ := hq c hc
    have hcore : s2.core c = trimMail (s.core c) := h2.core c hc
    refine ⟨by rw [hcore]; exact q1, by rw [hcore]; exact q2, by rw [hcore]; exact q3, ?_⟩
    rw [State.csr, h2.rd _ fun d _ => by rw [key_csr, key_csr]; have := lt_of_mem_coresOf hc; omega,
      State.rd_wr_ne _ _ _ _ (by rw [key_csr]; simp only [Reg.key]; omega)]
    exact q4
  let u := overAll (s.coresOf h) (fun s c => unlessLost s h (fun s => boundaryCore s c)) s2
  have hu : CoresDone newQuantum (s.coresOf h) s2 u := coresDone_boundary hh hnodup hlost2 hq2
  have hrdu (r : Reg) (hr : r.key ≠ (Reg.CSQ_LDG_EPOCH h).key) (hc : r.key < 0x400000000000000) : u.rd r = s.rd r :=
    (hu.rd r fun c _ => by rw [key_csr]; omega).trans (hrd2 r hr hc)
  have hlostu : u.handLost h = false := by
    rw [State.handLost, State.get, hrdu _ (by simp only [Reg.key]; omega) (by simp only [Reg.key]; omega), ← State.get, ← State.handLost, hlost]
  have hcoresu : u.coresOf h = s.coresOf h :=
    coresOf_congr fun k hk => hrdu _ (by simp only [Reg.key]; omega) (by simp only [Reg.key]; omega)
  have hended : ((s.coresOf h).filter (fun c => (u.core c).ended)).length = 0 := by
    rw [List.length_eq_zero_iff, List.filter_eq_nil_iff]
    intro c hc
    rw [hu.core c hc]
    exact Bool.false_ne_true
  have hledger : (setPhase u h 2 0).ledger h = s.ledger h := by
    have : u.ledger h = s.ledger h := by rw [hu.same, h2.same]; rfl
    exact this
  refine ⟨u, ?_, h2.trans hu⟩
  rw [boundary, endPosts_of_nil hi]
  dsimp only
  rw [if_neg (by simp [hlost]), if_neg (by simp [hst])]
  change unlessLost (overAll (s2.coresOf h) (fun s c => unlessLost s h (fun s => boundaryCore s c)) s2) h _ = _
  rw [hcores2, unlessLost, if_neg (by rw [show overAll _ _ _ = u from rfl, hlostu]; exact Bool.false_ne_true)]
  change nextIntakes (setPhase u h 2 ((u.coresOf h).filter (fun c => (u.core c).ended)).length) h = _
  rw [hcoresu, hended, nextIntakes_of_nil (by rw [hledger, hi]), hledger]

/-! ### The start of epoch 0 (R125, R127, R257) -/

/-- A core of hand `h` that stands at its hand's ENTRY. -/
structure AtEntry (s : State) (h : Nat) (k : Core) : Prop where
  pc : k.pc = BitVec.ofNat 64 ((s.folio.hand? h).elim 0 (·.entry))
  count : k.count = 0
  mail : k.mail = []

/-- What the start of the listed cores changes: their fields, their state registers and CSRs. -/
structure CoresBegun (h : Nat) (l : List Nat) (s t : State) : Prop where
  same : t = { s with regs := t.regs, cores := t.cores }
  rd : ∀ r : Reg, (∀ c ∈ l, r.key ≠ (Reg.CORE_STATE c).key) → r.key < 0x400000000000000 → t.rd r = s.rd r
  state : ∀ c ∈ l, t.coreState c = 3
  core : ∀ c ∈ l, AtEntry s h (t.core c)
  other : ∀ c, c ∉ l → t.core c = s.core c

theorem get?_filter_of_keep {p : Nat × α → Bool} {n : Nat} (hp : ∀ v, p (n, v) = true) (m : NMap α) :
    NMap.get? (m.filter p) n = NMap.get? m n := by
  induction m with
  | nil => rfl
  | cons e m ih =>
    obtain ⟨k, v⟩ := e
    by_cases hk : n = k
    · subst hk
      rw [List.filter_cons_of_pos (hp v), NMap.get?, if_pos rfl, NMap.get?, if_pos rfl]
    · rw [NMap.get?, if_neg hk, ← ih]
      by_cases hv : p (k, v) = true
      · rw [List.filter_cons_of_pos hv, NMap.get?, if_neg hk]
      · rw [List.filter_cons_of_neg hv]

theorem rd_clearCsrs {s : State} {c : Nat} {r : Reg} (h : r.key < 0x400000000000000) : (clearCsrs s c).rd r = s.rd r := by
  have hk : ∀ v : Word, (decide (r.key < (Reg.CSR c 0).key) || decide ((Reg.CSR c 0).key + 0x1000 ≤ r.key)) = true := fun _ => by
    rw [key_csr, decide_eq_true (by omega), Bool.true_or]
  rw [State.rd, clearCsrs]
  dsimp only
  rw [get?_filter_of_keep hk, State.rd]

theorem coresBegun_beginCore (s : State) {c : Nat} (hc : c < 384) (h : Nat) : CoresBegun h [c] s (beginCore s c h) := by
  unfold beginCore
  extract_lets s1 entry k s2
  obtain ⟨hsame, hrd⟩ := mipOnly_refreshMip (s2.setCoreState c 3) c
  have hcore (d : Nat) : (refreshMip (s2.setCoreState c 3) c).core d = s2.core d := by
    rw [hsame]
    rfl
  refine ⟨?_, fun r hr hlt => ?_, fun d hd => ?_, fun d hd => ?_, fun d hd => ?_⟩
  · rw [hsame]
    rfl
  · rw [hrd r (by rw [key_csr]; omega), State.setCoreState, State.rd_put_ne (hr c List.mem_cons_self), State.rd_setCore, rd_clearCsrs hlt]
  · obtain rfl := List.mem_singleton.mp hd
    rw [State.coreState, State.get, hrd _ (by rw [key_csr, key_coreState]; omega), State.setCoreState]
    exact State.get_put_self (by decide) (by decide) ..
  · obtain rfl := List.mem_singleton.mp hd
    rw [hcore, State.core_setCore_self]
    exact ⟨rfl, rfl, rfl⟩
  · rw [hcore, State.core_setCore_ne _ _ _ _ (by simpa using hd)]
    rfl

theorem coresBegun_all (h : Nat) {l : List Nat} (hl : l.Nodup) (hlt : ∀ c ∈ l, c < 384) (s : State) :
    CoresBegun h l s (overAll l (fun s c => beginCore s c h) s) := by
  induction l generalizing s with
  | nil => exact ⟨rfl, fun _ _ _ => rfl, by simp, by simp, fun _ _ => rfl⟩
  | cons c l ih =>
    obtain ⟨hc, hl⟩ := List.nodup_cons.mp hl
    have hlt' (d : Nat) (hd : d ∈ l) : d < 384 := hlt d (List.mem_cons_of_mem _ hd)
    have hclt := hlt c List.mem_cons_self
    obtain ⟨a1, a2, a3, a4, a5⟩ := coresBegun_beginCore s hclt h
    obtain ⟨b1, b2, b3, b4, b5⟩ := ih hl hlt' (beginCore s c h)
    rw [show overAll (c :: l) (fun s c => beginCore s c h) s = overAll l (fun s c => beginCore s c h) (beginCore s c h) from rfl]
    have hfolio : (beginCore s c h).folio = s.folio := by rw [a1]
    have hstate (d : Nat) (hd : d < 384) : (Reg.CORE_STATE d).key < 0x400000000000000 := by rw [key_coreState]; omega
    refine ⟨by rw [b1, a1], fun r hr hk => ?_, fun d hd => ?_, fun d hd => ?_, fun d hd => ?_⟩
    · rw [b2 r (fun d hd => hr d (List.mem_cons_of_mem _ hd)) hk, a2 r (fun d hd => hr d (by simpa using .inl (List.mem_singleton.mp hd))) hk]
    · rcases List.mem_cons.mp hd with rfl | hd
      · rw [State.coreState, State.get, b2 _ (fun e he => coreState_ne (by rintro rfl; exact hc he)) (hstate _ hclt)]
        exact a3 _ List.mem_cons_self
      · exact b3 d hd
    · rcases List.mem_cons.mp hd with rfl | hd
      · rw [b5 _ hc]
        exact a4 _ List.mem_cons_self
      · obtain ⟨hpc, hn, hm⟩ := b4 d hd
        exact ⟨by rw [hpc, hfolio], hn, hm⟩
    · rw [List.mem_cons, not_or] at hd
      rw [b5 d hd.2, a5 d (by simpa using hd.1)]

/-- The start of epoch 0 of a hand that has no intake. -/
theorem epoch0Start_of_nil {h : Fin 64} (hp : phaseOf s h = 1) (hpl : (s.ledger h).placed = false) (hw : (s.ledger h).waits = [])
    (hi : (s.ledger h).intakes = []) (hh : (s.ledger h).held = none) (hlost : s.handLost h = false)
    (hcs : ∀ c ∈ s.coresOf h, s.coreState c = 2) :
    let v := s.setLedger h { s.ledger h with placed := true }
    ∃ u w, exec (.ledgerEpoch0Start h) s = .next ((setPhase w h 2 0).setLedger h (clearedLedger (w.ledger h))) ∧
      CoresBegun h (s.coresOf h) v u ∧ CoresDone trimMail (s.coresOf h) u w := by
  intro v
  have hh64 := h.isLt
  have hvi : (v.ledger h).intakes = [] := by rw [State.ledger_setLedger_self]; exact hi
  have hvw : (v.ledger h).waits = [] := by rw [State.ledger_setLedger_self]; exact hw
  have hvp : (v.ledger h).placed = true := by rw [State.ledger_setLedger_self]
  let u := overAll (s.coresOf h) (fun s c => beginCore s c h) v
  have hu : CoresBegun h (s.coresOf h) v u := coresBegun_all h (nodup_coresOf s h) (fun c hc => lt_of_mem_coresOf hc) v
  have hui : (u.ledger h).intakes = [] := by rw [show u.ledger h = v.ledger h by rw [hu.same]; rfl, hvi]
  have hcoresu : u.coresOf h = s.coresOf h := coresOf_congr fun k hk =>
    hu.rd _ (fun c _ => by rw [key_coreState]; simp only [Reg.key]; omega) (by simp only [Reg.key]; omega)
  let w := appendMail u h
  have hw' : CoresDone trimMail (s.coresOf h) u w := by
    have : w = _ := appendMail_of_nil hui
    rw [this, hcoresu]
    exact coresDone_setCore trimMail (nodup_coresOf s h) u
  have hwi : ((setPhase w h 2 0).ledger h).intakes = [] := by
    rw [show (setPhase w h 2 0).ledger h = u.ledger h by rw [hw'.same]; rfl, hui]
  refine ⟨u, w, ?_, hu, hw'⟩
  have hall : (s.coresOf h).all (fun c => s.coreState c == 2) = true := List.all_eq_true.mpr fun c hc => by rw [hcs c hc]; rfl
  change execLedgerEpoch0Start h s = _
  rw [execLedgerEpoch0Start, if_neg (by rw [hp, hall]; decide), stageAll_of_nil hi, deliverDue_of_nil hpl hi hh hlost]
  change (if (v.ledger h).placed = true ∧ (v.ledger h).waits = [] then
    Host.Outcome.next (nextIntakes (setPhase (appendMail (overAll ((endPosts v h).coresOf h) (fun s c => beginCore s c h) (endPosts v h)) h) h 2 0) h)
    else .next v) = _
  rw [if_pos ⟨hvp, hvw⟩, endPosts_of_nil hvi]
  exact congrArg Host.Outcome.next (nextIntakes_of_nil hwi)

theorem ledgerBoundary : Claim.LedgerBoundary := by
  refine ⟨fun h s hp hpl hw hi hst _ hlost hcs => ?_, fun h s hp hpl hw hi hh hlost hcs => ?_⟩
  · have hh := h.isLt
    obtain ⟨u, ht, hu⟩ := boundary_of_quiet hh hi hst hlost fun c hc =>
      have ⟨_, h1, h2, h3, h4, _⟩ := hcs c hc
      ⟨h1, h2, h3, h4⟩
    have hcore (c : Nat) (hc : c ∈ s.coresOf h) : u.core c = { s.core c with count := 0, ended := false, published := false } := by
      obtain ⟨-, -, -, -, -, hm⟩ := hcs c hc
      rw [hu.core c hc, State.core_wr, Function.comp_apply, trimMail_of_short hm, newQuantum]
    have hsame : (setPhase u h 2 0).ledgers = s.ledgers ∧ (setPhase u h 2 0).dies = s.dies ∧ (setPhase u h 2 0).points = s.points ∧
        (setPhase u h 2 0).dram = s.dram := by
      rw [hu.same]
      exact ⟨rfl, rfl, rfl, rfl⟩
    obtain ⟨hl, hd, hpt, hdr⟩ := hsame
    refine ⟨_, (execEpochBoundary_of_placed hp hpl hw).trans (congrArg _ ht), phaseOf_setPhase (by decide), ?_, get_ended_setPhase (by decide),
      hcore, fun c hc => ?_, ?_, ?_, fun k hk => ?_, hd, hpt, hdr⟩
    · rw [State.rd_setLedger, rd_setPhase_of_ne (by simp only [Reg.key]; omega), hu.rd _ fun c _ => by rw [key_csr]; simp only [Reg.key]; omega,
        State.rd_wr_self]
    · exact hu.other c hc
    · rw [State.ledger_setLedger_self, clearedLedger]
    · rw [State.ledger_setLedger_self, clearedLedger]
    · rw [State.ledger_setLedger_ne _ _ _ _ (by simpa using hk), State.ledger, hl, State.ledger]
  · obtain ⟨u, w, ht, hu, hw'⟩ := epoch0Start_of_nil hp hpl hw hi hh hlost hcs
    have hsame : (setPhase w h 2 0).dies = s.dies ∧ (setPhase w h 2 0).points = s.points := by
      rw [setPhase, hw'.same, hu.same]
      exact ⟨rfl, rfl⟩
    refine ⟨_, ht, phaseOf_setPhase (by decide), fun c hc => ?_, fun c hc => ?_, hsame⟩
    · have hclt := lt_of_mem_coresOf hc
      obtain ⟨hpc, hn, hm⟩ := hu.core c hc
      have hk : w.core c = u.core c := (hw'.core c hc).trans (trimMail_of_short (by rw [hm]; decide))
      have hst : w.coreState c = 3 := by
        rw [State.coreState, State.get, hw'.rd _ fun d _ => by rw [key_csr, key_coreState]; omega]
        exact hu.state c hc
      refine ⟨?_, ?_, ?_, ?_⟩
      · rw [State.coreState, State.get, State.rd_setLedger, rd_setPhase_of_ne (by rw [key_coreState]; simp only [Reg.key]; omega)]
        exact hst
      · exact (congrArg Core.pc hk).trans hpc
      · exact (congrArg Core.count hk).trans hn
      · exact (congrArg Core.mail hk).trans hm
    · exact (hw'.other c hc).trans (hu.other c hc)

/-! ### Publication of a line (R246, R247) -/

theorem cacheSram_of_clean {s : State} {st c d line : Nat} (h : sramBits s st c (line * 64) = 0) : (cacheSram s st c d line).2 = s := by
  simp only [cacheSram, h]

theorem checkOwn_of_clean {s : State} {c line : Nat} {l : L2Line} (hl : l2Find s c line = some l) (h : sramBits s 2 c (line * 64) = 0) :
    checkOwn s c line = s := by
  rw [checkOwn, hl]
  simp only [Option.isSome_some, if_true, Option.isNone_some, Bool.false_eq_true, false_and, if_false, cacheSram_of_clean h, hl]

/-- The line of a core put into its L2. -/
structure L2Put (c : Nat) (l : L2Line) (s t : State) : Prop where
  units : t = { s with regs := t.regs, flips := t.flips, cores := t.cores }
  rd : ∀ r : Reg, r.key ≠ 0xF00009000500 → t.rd r = s.rd r
  core : t.core c = { s.core c with l2 := l :: (s.core c).l2.filter (fun x => x.line != l.line) }
  other : ∀ x, x ≠ c → t.core x = s.core x

theorem l2Put_putL2 (s : State) (c : Nat) (l : L2Line) : L2Put c l s (putL2 s c l) := by
  have hs := sameUnits_sramWrite (s.setCore c { s.core c with l2 := l :: (s.core c).l2.filter (fun x => x.line != l.line) }) 2 c (l.line * 64)
  refine ⟨?_, fun r hr => ?_, ?_, fun x hx => ?_⟩
  · rw [putL2, hs]
    rfl
  · rw [putL2, rd_sramWrite_of_ne hr, State.rd_setCore]
  · rw [putL2, hs]
    exact State.core_setCore_self ..
  · rw [putL2, hs]
    exact State.core_setCore_ne _ _ _ _ hx

theorem coreOwn_of_owned {s : State} {c line chunk : Nat} {l : L2Line} (hl : l2Find s c line = some l) (hst : l.st = 3)
    (h : sramBits s 2 c (line * 64) = 0) (hw : wbFits s (c / 24) = true) : coreOwn s c line chunk = (some l, putL2 s c l) := by
  have hl' : ({ l with st := 3 } : L2Line) = l := by rw [← hst]
  have hfit : wbFits (putL2 s c l) (c / 24) = true := by
    have hd : (putL2 s c l).dies = s.dies := by rw [(l2Put_putL2 s c l).units]
    rw [wbFits, State.die, hd]
    exact hw
  rw [coreOwn, checkOwn_of_clean hl h]
  simp only [hl, hst, hl', show (2 : Nat) ≤ 3 from by decide, if_true, ifRoom, hfit]

theorem sramBits_sramWrite_of_ne {st u i st' u' i' : Nat} (h : flipKey st' u' i' ≠ flipKey st u i) (s : State) :
    sramBits (sramWrite s st u i) st' u' i' = sramBits s st' u' i' := by
  unfold sramBits sramWrite
  split
  · simp only [NMap.get?_set_ne _ _ _ _ h, State.put, State.wr]
  · simp only [NMap.get?_erase_ne _ _ _ h]

theorem bufSram_of_clean {s : State} {st u line : Nat} {hand : Option Nat} (h : sramBits s st u (line * 64) = 0) :
    bufSram s st u line hand = (false, s) := by
  simp only [bufSram, h]

theorem l2Find_of_l2Put {c : Nat} {l : L2Line} {s t : State} (h : L2Put c l s t) : l2Find t c l.line = some l := by
  rw [l2Find, h.core]
  exact List.find?_cons_of_pos (by simp)

theorem line_of_l2Find {s : State} {c line : Nat} {l : L2Line} (h : l2Find s c line = some l) : l.line = line := by
  simpa using List.find?_some h

theorem storeL2_of_no_copy {s : State} {c : Nat} {l : L2Line} (h : (s.core c).l1d.get? l.line = none) : storeL2 s c l = putL2 s c l := by
  have hk : ((putL2 s c l).core c).l1d.get? l.line = none := by rw [(l2Put_putL2 s c l).core]; exact h
  rw [storeL2]
  simp only [hk, Option.isNone_none, if_true]

/-- A core without the reservation that a write of the line ends. -/
def withoutResv (line : Nat) (k : Core) : Core :=
  match k.resv with
  | some r => if r.1 / 64 = line then { k with resv := none } else k
  | none => k

theorem resv_withoutResv {line : Nat} {k : Core} {r : Nat × Nat} :
    (withoutResv line k).resv = some r ↔ k.resv = some r ∧ r.1 / 64 ≠ line := by
  unfold withoutResv
  split
  next q hq =>
    split
    next h =>
      rw [hq, Option.some.injEq]
      refine ⟨fun h => (by cases h), ?_⟩
      rintro ⟨rfl, hne⟩
      exact absurd h hne
    next h =>
      rw [hq, Option.some.injEq]
      refine ⟨?_, fun h => h.1⟩
      rintro rfl
      exact ⟨rfl, h⟩
  next hq => rw [hq]; simp

theorem withoutResv_eq (line : Nat) (k : Core) : ∃ r, withoutResv line k = { k with resv := r } := by
  unfold withoutResv
  split
  · split
    · exact ⟨_, rfl⟩
    · exact ⟨_, rfl⟩
  · exact ⟨_, rfl⟩

/-- The update of one core by `loseReservations`. -/
def loseStep (line : Nat) (s : State) (c : Nat) : State :=
  match (s.core c).resv with
  | some r => if r.1 / 64 = line then s.setCore c { s.core c with resv := none } else s
  | none => s

theorem loseReservations_eq (s : State) (h line : Nat) : loseReservations s h line = overAll (s.coresOf h) (loseStep line) s := rfl

theorem core_loseStep_self (line : Nat) (s : State) (c : Nat) : (loseStep line s c).core c = withoutResv line (s.core c) := by
  unfold loseStep withoutResv
  cases hr : (s.core c).resv with
  | none => rfl
  | some r =>
    dsimp only
    split
    · exact State.core_setCore_self ..
    · rfl

theorem core_loseStep_of_ne {line : Nat} {s : State} {c d : Nat} (h : d ≠ c) : (loseStep line s c).core d = s.core d := by
  unfold loseStep
  split
  · split
    · exact State.core_setCore_ne _ _ _ _ h
    · rfl
  · rfl

theorem loseStep_eq (line : Nat) (s : State) (c : Nat) : loseStep line s c = { s with cores := (loseStep line s c).cores } := by
  unfold loseStep
  split
  · split <;> rfl
  · rfl

/-- Only cores change. -/
def onlyCores (s t : State) : Prop := t = { s with cores := t.cores }

theorem onlyCores.trans {s t u : State} (h : onlyCores s t) (h' : onlyCores t u) : onlyCores s u := by
  rw [onlyCores, h', h]

theorem onlyCores_loseReservations (s : State) (h line : Nat) : onlyCores s (loseReservations s h line) :=
  overAll_rel (R := onlyCores) (fun _ => rfl) .trans (loseStep_eq line) _ _

theorem core_loseReservations_of_mem {s : State} {h c : Nat} (hc : c ∈ s.coresOf h) (line : Nat) :
    (loseReservations s h line).core c = withoutResv line (s.core c) :=
  overAll_each (read := fun s c => s.core c) (val := fun s c => withoutResv line (s.core c)) (nodup_coresOf s h)
    (fun s a _ => core_loseStep_self line s a) (fun _ _ _ _ _ hb => core_loseStep_of_ne hb)
    (fun _ _ _ _ _ hb => congrArg (withoutResv line) (core_loseStep_of_ne hb)) s hc

theorem core_loseReservations_of_not_mem {s : State} {h c : Nat} (hc : c ∉ s.coresOf h) (line : Nat) :
    (loseReservations s h line).core c = s.core c :=
  overAll_keeps_mem (g := fun s => s.core c) (fun _ _ ha => core_loseStep_of_ne fun e => hc (e ▸ ha)) s

/-- The line as the entry leaves it. -/
def overlaid (e : MbEnt) (l : L2Line) : L2Line :=
  { l with data := mergeLine e.mask e.data l.data, poison := e.poison || (l.poison && e.mask != BitVec.allOnes 64) }

/-- The core's state once the line of the entry is in its L2 and out of its ledger buffer. -/
def lineOut (s : State) (c : Nat) (e : MbEnt) (l : L2Line) : State :=
  let t := putL2 (putL2 s c l) c (overlaid e l)
  t.setCore c { t.core c with lbuf := (t.core c).lbuf.filter (fun x => x.line != e.line) }

theorem publishLines_of_owned {s : State} {h c : Nat} {e : MbEnt} {l : L2Line} (hl : l2Find s c e.line = some l) (hst : l.st = 3)
    (hcopy : (s.core c).l1d.get? e.line = none) (hw : wbFits s (c / 24) = true) (h8 : sramBits s 8 c (e.line * 64) = 0)
    (h2 : sramBits s 2 c (e.line * 64) = 0) (hlost : s.handLost h = false) (hh : h < 64) :
    publishLines h c [e] s = loseReservations (lineOut s c e l) h e.line := by
  have hline := line_of_l2Find hl
  have hput := l2Put_putL2 s c l
  have h8' : sramBits (putL2 s c l) 8 c (e.line * 64) = 0 := by
    rw [putL2, sramBits_sramWrite_of_ne (by simp only [flipKey]; omega)]
    exact h8
  have hlost' : (putL2 s c l).handLost h = false := by
    rw [State.handLost, State.get, hput.rd _ (by simp only [Reg.key]; omega), ← State.get, ← State.handLost, hlost]
  have hcopy' : ((putL2 s c l).core c).l1d.get? (overlaid e l).line = none := by
    rw [hput.core, overlaid, hline]
    exact hcopy
  rw [publishLines]
  simp only [coreOwn_of_owned hl hst h2 hw, bufSram_of_clean h8', hlost', Bool.false_eq_true, if_false, overlay]
  have hstore : storeL2 (putL2 s c l) c ⟨l.line, l.st, mergeLine e.mask e.data l.data, e.poison || (l.poison && e.mask != BitVec.allOnes 64)⟩ =
      putL2 (putL2 s c l) c (overlaid e l) := storeL2_of_no_copy hcopy'
  simp only [hstore, publishLines, lineOut]

/-- What a core that has published all its lines does with the token. -/
def tokenPassed (s : State) (h c : Nat) : State :=
  let s := s.setCore c { s.core c with held := [], published := true }
  let l := s.ledger h
  let s := s.setLedger h { l with token := l.token + 1 }
  if l.token + 1 < (s.coresOf h).length then s.put (.CSQ_LDG_PHASE h) F.CSQ_LDG_PHASE_TOKEN (l.token + 1) else s

/-- What the token passing keeps. -/
theorem tokenPassed_spec (s : State) (h c : Nat) :
    (tokenPassed s h c).cores = (s.setCore c { s.core c with held := [], published := true }).cores ∧
      (tokenPassed s h c).dies = s.dies ∧ (tokenPassed s h c).points = s.points := by
  unfold tokenPassed
  dsimp only
  split <;> exact ⟨rfl, rfl, rfl⟩

theorem publish_of_line {s u : State} {h c : Nat} {e : MbEnt} (hb : (s.core c).lbuf = [e]) (hu : publishLines h c [e] s = u)
    (hlb : (u.core c).lbuf = []) (hlost : u.handLost h = false) (hlater : (u.core c).later = none) (hheld : (u.core c).held = []) :
    publish s h c = tokenPassed u h c := by
  have hby : byLine (s.core c).lbuf = [e] := by rw [hb]; rfl
  have hperf : performLater u h c = u := by simp only [performLater, hlater]
  rw [publish, hby, hu]
  dsimp only
  rw [if_neg (by simp [hlb, hlost]), hperf, if_neg (by simp [hlater, hlost]), hheld]
  rfl

/-- The state with the line out keeps the registers that matter and the cores beside `c`. -/
theorem lineOut_spec {s : State} {c : Nat} {e : MbEnt} {l : L2Line} (hl : l.line = e.line) (hb : (s.core c).lbuf = [e]) :
    let t := lineOut s c e l
    (∀ r : Reg, r.key ≠ 0xF00009000500 → t.rd r = s.rd r) ∧ t.dies = s.dies ∧ t.points = s.points ∧ t.ledgers = s.ledgers ∧
      (∀ x, x ≠ c → t.core x = s.core x) ∧ (t.core c).lbuf = [] ∧ (t.core c).later = (s.core c).later ∧ (t.core c).held = (s.core c).held ∧
      (t.core c).resv = (s.core c).resv ∧ l2Find t c e.line = some (overlaid e l) := by
  intro t
  have h1 := l2Put_putL2 s c l
  have h2 := l2Put_putL2 (putL2 s c l) c (overlaid e l)
  have hcore : t.core c = { (putL2 (putL2 s c l) c (overlaid e l)).core c with lbuf := [] } := by
    refine (State.core_setCore_self ..).trans ?_
    rw [h2.core, h1.core]
    simp [hb]
  refine ⟨fun r hr => ?_, ?_, ?_, ?_, fun x hx => ?_, ?_, ?_, ?_, ?_, ?_⟩
  · exact (State.rd_setCore ..).trans ((h2.rd r hr).trans (h1.rd r hr))
  · rw [show t.dies = (putL2 (putL2 s c l) c (overlaid e l)).dies from rfl, h2.units, h1.units]
  · rw [show t.points = (putL2 (putL2 s c l) c (overlaid e l)).points from rfl, h2.units, h1.units]
  · rw [show t.ledgers = (putL2 (putL2 s c l) c (overlaid e l)).ledgers from rfl, h2.units, h1.units]
  · exact (State.core_setCore_ne _ _ _ _ hx).trans ((h2.other x hx).trans (h1.other x hx))
  · rw [hcore]
  · rw [hcore, h2.core, h1.core]
  · rw [hcore, h2.core, h1.core]
  · rw [hcore, h2.core, h1.core]
  · have hf : l2Find (putL2 (putL2 s c l) c (overlaid e l)) c (overlaid e l).line = _ := l2Find_of_l2Put h2
    rw [l2Find, hcore, ← hf, l2Find, ← hl]
    rfl

theorem mem_coresOf_of_handOf {s : State} {c h : Nat} (hc : c < 384) (hh : s.handOf c = some h) : c ∈ s.coresOf h :=
  List.mem_filter.mpr ⟨List.mem_range.mpr hc, List.find?_some (p := fun h => s.inHand h c) hh⟩

theorem ledgerPublish : Claim.LedgerPublish := by
  intro c h e l s hh hof hled hp hlost htok hb hlater hheld hl hst hcopy hw h8 h2
  obtain ⟨hrd, hdies, hpoints, hledgers, hother, hlb, hlat, hhld, hresv, hfind⟩ := lineOut_spec (c := c) (line_of_l2Find hl) hb
  have hmem := mem_coresOf_of_handOf c.isLt hof
  let v := lineOut s c e l
  let u := loseReservations v h e.line
  have hcoresv : v.coresOf h = s.coresOf h := coresOf_congr fun k hk => hrd _ (by simp only [Reg.key]; omega)
  have hu : publishLines h c [e] s = u := publishLines_of_owned hl hst hcopy hw h8 h2 hlost hh
  have hsame : u = { v with cores := u.cores } := onlyCores_loseReservations v h e.line
  have hcore (x : Nat) (hx : x ∈ s.coresOf h) : u.core x = withoutResv e.line (v.core x) :=
    core_loseReservations_of_mem (hcoresv ▸ hx) e.line
  obtain ⟨r, hr⟩ := withoutResv_eq e.line (v.core c)
  have huc : u.core c = { v.core c with resv := r } := (hcore c hmem).trans hr
  have hlostu : u.handLost h = false := by
    rw [hsame]
    change (v.get (.FAB_HAND h) F.FAB_HAND_STATE == 3) = false
    rw [State.get, hrd _ (by simp only [Reg.key]; omega)]
    exact hlost
  have hpub : publish s h c = tokenPassed u h c := publish_of_line hb hu (by rw [huc]; exact hlb) hlostu
    (by rw [huc]; exact hlat.trans hlater) (by rw [huc]; exact hhld.trans hheld)
  obtain ⟨htc, htd, htp⟩ := tokenPassed_spec u h c
  have htcore (x : Nat) : (tokenPassed u h c).core x = (u.setCore c { u.core c with held := [], published := true }).core x :=
    congrArg (fun m => NMap.getD m x Core.init) htc
  have hself : (tokenPassed u h c).core c = { u.core c with held := [], published := true } := (htcore c).trans (State.core_setCore_self ..)
  have hne (x : Nat) (hx : x ≠ c) : (tokenPassed u h c).core x = u.core x := (htcore x).trans (State.core_setCore_ne _ _ _ _ hx)
  refine ⟨tokenPassed u h c, ?_, ?_, ?_, ?_, fun x hx q => ?_, fun x hx hxc => ?_, ?_, ?_⟩
  · change execLedgerTokenArrive c s = _
    simp only [execLedgerTokenArrive, hof]
    rw [if_pos ⟨hled, hp, htok⟩, hpub]
  · rw [hself, huc]
    exact hlb
  · rw [hself]
  · rw [l2Find, hself, huc]
    exact hfind
  · have hresx : (v.core x).resv = (s.core x).resv := by
      by_cases hxc : x = c
      · subst hxc; exact hresv
      · rw [hother x hxc]
    have : ((tokenPassed u h c).core x).resv = (u.core x).resv := by
      by_cases hxc : x = c
      · subst hxc; rw [hself]
      · rw [hne x hxc]
    rw [this, hcore x hx, resv_withoutResv, hresx]
  · rw [hne x hxc, core_loseReservations_of_not_mem (hcoresv ▸ hx), hother x hxc]
  · rw [htd, show u.dies = v.dies by rw [hsame], hdies]
  · rw [htp, show u.points = v.points by rw [hsame], hpoints]

/-- Settles O29: the line of one entry is published, and the two boundaries core by core. -/
theorem ledgerEpochs : Obligations.LedgerEpochs := ⟨ledgerPublish, ledgerBoundary⟩

end Sys2Proof.Machine
end

section
/-! SUPPORT. The targets of the power control: what they depend on, and the recomputation as a chain of steps that leave it. -/

namespace Sys2Proof.Machine

/-! ### What the targets depend on (R412, R413, R420) -/

theorem authPort_lt (s : State) : authPort s < 8 := s.get_lt ..

/-- A register of commands, votes, links and cores, which the recomputation of the targets only reads. -/
structure PowerInput (r : Reg) : Prop where
  note : noteKept r
  sck : r.key < 0xF00008000000 ∨ 0xF00009000000 ≤ r.key
  arc : r.key ≠ 0xF00007005030
  link : r.key % 0x1000000 ≠ 0x20
  op : r.key % 0x1000000 ≠ 0x200800

theorem powerInput_pwrPkg {p : Nat} (hp : p < 8) : PowerInput (.PWR_PKG p) := by
  constructor <;> simp only [noteKept, Reg.key] <;> omega

theorem powerInput_pwrDie {p : Nat} (hp : p < 8) : PowerInput (.PWR_DIE p) := by
  constructor <;> simp only [noteKept, Reg.key] <;> omega

theorem powerInput_hpLink {p : Nat} (hp : p < 8) : PowerInput (.HP_LINK p) := by
  constructor <;> simp only [noteKept, Reg.key] <;> omega

theorem powerInput_coreState {c : Nat} (hc : c < 384) : PowerInput (.CORE_STATE c) := by
  constructor <;> simp only [noteKept, Reg.key] <;> omega

/-- Two states in which the same targets follow. -/
structure VoteSame (s t : State) : Prop where
  input : ∀ r, PowerInput r → t.rd r = s.rd r
  auth : t.get .SCK_PKG F.SCK_PKG_AUTH_PORT = s.get .SCK_PKG F.SCK_PKG_AUTH_PORT
  trip : ∀ d < 16, t.get (.SCK_DIE d) F.SCK_DIE_TRIP = s.get (.SCK_DIE d) F.SCK_DIE_TRIP
  folio : t.folio = s.folio
  forced : iodForced t = iodForced s

namespace VoteSame

variable {s t u : State}

theorem refl (s : State) : VoteSame s s := ⟨fun _ _ => rfl, rfl, fun _ _ => rfl, rfl, rfl⟩

theorem trans (h : VoteSame s t) (h' : VoteSame t u) : VoteSame s u :=
  ⟨fun r hr => (h'.input r hr).trans (h.input r hr), h'.auth.trans h.auth, fun d hd => (h'.trip d hd).trans (h.trip d hd),
    h'.folio.trans h.folio, h'.forced.trans h.forced⟩

/-- Registers that are no inputs, neither SCK_PKG nor SCK_DIE, may change. -/
theorem of_units (hu : sameUnits s t) (hr : ∀ r, PowerInput r → t.rd r = s.rd r) (hp : t.rd .SCK_PKG = s.rd .SCK_PKG)
    (hd : ∀ d < 16, t.rd (.SCK_DIE d) = s.rd (.SCK_DIE d)) : VoteSame s t :=
  ⟨hr, by rw [State.get, hp, State.get], fun d h => by rw [State.get, hd d h, State.get], by rw [hu], by rw [hu]; rfl⟩

variable (h : VoteSame s t)
include h

theorem authPort_eq : authPort t = authPort s := h.auth

theorem counts_eq {p : Nat} (hp : p < 8) : counts t p = counts s p := by
  simp only [counts, State.get, h.input _ (powerInput_hpLink hp)]

theorem pwrPkg_eq {p : Nat} (hp : p < 8) (f : Fld) : t.get (.PWR_PKG p) f = s.get (.PWR_PKG p) f := by
  rw [State.get, h.input _ (powerInput_pwrPkg hp), State.get]

theorem voteMin_eq : voteMin t = voteMin s := by
  have hf : (List.range 8).filter (fun p => p != authPort t && counts t p) = (List.range 8).filter (fun p => p != authPort s && counts s p) :=
    List.filter_congr fun p hp => by rw [h.authPort_eq, h.counts_eq (List.mem_range.mp hp)]
  rw [voteMin, hf, voteMin]
  refine List.foldl_ext _ _ _ fun v p hp => ?_
  rw [h.pwrPkg_eq (List.mem_range.mp (List.mem_filter.mp hp).1)]

theorem pkgCommand_eq : pkgCommand t = pkgCommand s := by
  rw [pkgCommand, h.authPort_eq, h.pwrPkg_eq (authPort_lt s), pkgCommand]

theorem pkgTarget_eq : pkgTarget t = pkgTarget s := by
  rw [pkgTarget, h.authPort_eq, h.counts_eq (authPort_lt s), h.pkgCommand_eq, h.voteMin_eq, pkgTarget]

theorem dieCommand_eq (d : Nat) : dieCommand t d = dieCommand s d := by
  rw [dieCommand, h.pkgCommand_eq, h.authPort_eq, State.get, h.input _ (powerInput_pwrDie (authPort_lt s)), ← State.get, dieCommand]

theorem dieWish_eq (d : Nat) : dieWish t d = dieWish s d := by
  rw [dieWish, h.authPort_eq, h.counts_eq (authPort_lt s), h.dieCommand_eq, h.voteMin_eq, dieWish]

theorem dieBusy_eq {d : Nat} (hd : d < 16) : dieBusy t d = dieBusy s d := by
  have hc (c : Nat) (hc : c ∈ coresOnDie d) : t.coreState c = s.coreState c := by
    obtain ⟨i, hi, rfl⟩ := List.mem_map.mp hc
    have := List.mem_range.mp hi
    rw [State.coreState, State.get, h.input _ (powerInput_coreState (by omega)), State.coreState, State.get]
  rw [dieBusy, dieBusy, Bool.eq_iff_iff, List.any_eq_true, List.any_eq_true]
  refine exists_congr fun c => and_congr_right fun hm => ?_
  rw [hc c hm]

theorem dieRefused_eq {d : Nat} (hd : d < 16) : dieRefused t d = dieRefused s d := by
  rw [dieRefused, h.folio, h.dieWish_eq, h.pkgTarget_eq, h.dieBusy_eq hd, dieRefused]

theorem dieTarget_eq {d : Nat} (hd : d < 16) : dieTarget t d = dieTarget s d := by
  rw [dieTarget, h.folio, h.pkgTarget_eq, h.dieRefused_eq hd, h.dieWish_eq, State.bit, h.trip d hd, h.forced, ← State.bit, dieTarget]

end VoteSame

/-! ### The steps of the recomputation -/

theorem key_sckDie (d : Nat) : (Reg.SCK_DIE d).key = 0xF00008000200 + d * 0x10 := by simp only [Reg.key]

theorem key_sckPkg : Reg.SCK_PKG.key = 0xF00008000000 := rfl

theorem key_dlStatus (d : Nat) : (Reg.DL_STATUS d).key = 0xF00010000020 + d * 0x1000000 := by
  simp only [Reg.key]
  omega

theorem key_coreDieOp (d : Nat) : (Reg.CORE_DIE_OP d).key = 0xF00010200800 + d * 0x1000000 := by
  simp only [Reg.key]
  omega

theorem noteKept_sck {r : Reg} (h : 0xF00008000000 ≤ r.key) (h' : r.key < 0xF00009000000) : noteKept r := ⟨.inr (by omega), .inl h'⟩

theorem noteKept_sckPkg : noteKept .SCK_PKG := noteKept_sck (by decide) (by decide)

theorem noteKept_sckDie {d : Nat} (hd : d < 16) : noteKept (.SCK_DIE d) :=
  noteKept_sck (by rw [key_sckDie]; omega) (by rw [key_sckDie]; omega)

/-- An update of registers of the Scorekeeper that leaves SCK_PKG and SCK_DIE alone. -/
theorem rd_setVote {r : Reg} (h : arriveKept r) {p : Nat} (hp : r.key ≠ (Reg.SCK_VOTE p).key) (s : State) : (setVote s p).rd r = s.rd r := by
  unfold setVote
  extract_lets q auth c pkg die was s1 s2
  have h2 : s2.rd r = s.rd r := by
    rw [State.rd_put_ne hp, State.rd_put_ne hp, State.rd_put_ne hp, State.rd_put_ne hp]
  by_cases hw : was = if c = true then some (pkg, die) else none
  · rwa [if_pos hw]
  · rwa [if_neg hw, rd_arrive h]

theorem sameUnits_setVote (s : State) (p : Nat) : sameUnits s (setVote s p) := by
  unfold setVote
  extract_lets q auth c pkg die was s1 s2
  have h2 : sameUnits s s2 := rfl
  by_cases hw : was = if c = true then some (pkg, die) else none
  · rwa [if_pos hw]
  · rw [if_neg hw]
    exact h2.trans (sameUnits_arrive ..)

theorem voteSame_setVote (s : State) {p : Nat} (hp : p < 8) : VoteSame s (setVote s p) := by
  have hk : (Reg.SCK_VOTE p).key = 0xF00008000100 + p * 8 := by simp only [Reg.key]
  refine .of_units (sameUnits_setVote s p) (fun r hr => rd_setVote hr.note.arrive ?_ s) (rd_setVote noteKept_sckPkg.arrive ?_ s)
    fun d hd => rd_setVote (noteKept_sckDie hd).arrive ?_ s
  · have := hr.sck
    omega
  · rw [hk]
    simp only [Reg.key]
    omega
  · rw [hk, key_sckDie]
    omega

/-- A field of SCK_PKG beside the authority port. -/
theorem voteSame_putPkg (s : State) {f : Fld} (hl : f.lo ≤ f.hi) (hd : f.hi < 8 ∨ 10 < f.lo) (n : Nat) : VoteSame s (s.put .SCK_PKG f n) := by
  refine ⟨fun r hr => State.rd_put_ne ?_ .., State.get_put_apart hl (by decide) (by dsimp only; omega) .., fun d hd => State.get_put_ne ?_ .., rfl, rfl⟩
  · have := hr.sck
    rw [key_sckPkg]
    omega
  · rw [key_sckDie, key_sckPkg]
    omega

/-- A field of SCK_DIE beside TRIP. -/
theorem voteSame_putDie (s : State) {d : Nat} {f : Fld} (hl : f.lo ≤ f.hi) (hd : f.hi < 18 ∨ 18 < f.lo) (n : Nat) (hd16 : d < 16) :
    VoteSame s (s.put (.SCK_DIE d) f n) := by
  have hk := key_sckDie d
  refine ⟨fun r hr => State.rd_put_ne ?_ .., State.get_put_ne ?_ .., fun e he => ?_, rfl, rfl⟩
  · have := hr.sck
    omega
  · rw [hk]
    simp only [Reg.key]
    omega
  · by_cases hed : e = d
    · subst hed
      exact State.get_put_apart hl (by decide) (by dsimp only; omega) ..
    · exact State.get_put_ne (by rw [key_sckDie, key_sckDie]; omega) ..

theorem voteSame_arrive (s : State) (n : Nat) : VoteSame s (s.arrive n) :=
  .of_units (sameUnits_arrive s n) (fun _ hr => rd_arrive hr.note.arrive s n) (rd_arrive noteKept_sckPkg.arrive s n)
    fun _ hd => rd_arrive (noteKept_sckDie hd).arrive s n

/-- A status bit of a register that is none of the targets' inputs. -/
theorem voteSame_raise (s : State) {q : Reg} (hq : q.key = 0xF00008000030 ∨ q.key = 0xF00007005030) (b : Nat) {cls : Nat} (hc : cls < 32) (u sev addr : Nat) :
    VoteSame s (s.raise q b cls u none sev addr) := by
  refine .of_units (sameUnits_raise ..) (fun r hr => rd_raise_ne hr.note ?_ s b hc ..) (rd_raise_ne noteKept_sckPkg ?_ s b hc ..)
    fun d hd => rd_raise_ne (noteKept_sckDie hd) ?_ s b hc ..
  · have := hr.sck
    have := hr.arc
    omega
  · rw [key_sckPkg]
    omega
  · rw [key_sckDie]
    omega

/-! ### The ladder of a die (R418) -/

/-- What the start of a ladder step leaves: everything but dies, cores and three registers of its die. -/
structure LadderStep (d : Nat) (s t : State) : Prop where
  same : t = { s with regs := t.regs, dies := t.dies, cores := t.cores }
  rd : ∀ r : Reg, r.key ≠ (Reg.SCK_DIE d).key → r.key ≠ (Reg.DL_STATUS d).key → r.key ≠ (Reg.CORE_DIE_OP d).key → t.rd r = s.rd r
  die : ∀ f : Fld, f.lo ≤ f.hi → f.hi < 20 → t.get (.SCK_DIE d) f = s.get (.SCK_DIE d) f

theorem ladderStep_refl (d : Nat) (s : State) : LadderStep d s s := ⟨rfl, fun _ _ _ _ => rfl, fun _ _ _ => rfl⟩

theorem LadderStep.trans {d : Nat} {s t u : State} (h : LadderStep d s t) (h' : LadderStep d t u) : LadderStep d s u :=
  ⟨by rw [h'.same, h.same], fun r h1 h2 h3 => (h'.rd r h1 h2 h3).trans (h.rd r h1 h2 h3), fun f hl hf => (h'.die f hl hf).trans (h.die f hl hf)⟩

theorem ladderStep_beginStep (s : State) (d k : Nat) : LadderStep d s (beginStep s d k) := by
  unfold beginStep
  extract_lets x s1 s2 y v s3
  have h2 : LadderStep d s s2 := ⟨rfl, fun r h1 _ _ => State.rd_put_ne h1 .., fun f hl hf => State.get_put_apart (by decide) hl (by dsimp only; omega) ..⟩
  split
  · exact h2.trans ⟨rfl, fun _ _ _ _ => rfl, fun _ _ _ => rfl⟩
  · split
    · exact h2.trans ⟨rfl, fun _ _ _ _ => rfl, fun _ _ _ => rfl⟩
    · split
      · refine h2.trans ⟨rfl, fun r _ h _ => State.rd_put_ne h .., fun f hl hf => State.get_put_ne ?_ ..⟩
        simp only [Reg.key]
        omega
      · split
        · exact h2.trans (overAll_rel (R := LadderStep d) (f := fun s c => s.setCore c { s.core c with level := 0 }) (ladderStep_refl d) .trans
            (fun s c => ⟨rfl, fun _ _ _ _ => rfl, fun _ _ _ => rfl⟩) _ _)
        · split
          · have hne : (Reg.SCK_DIE d).key ≠ (Reg.CORE_DIE_OP d).key := by
              simp only [Reg.key]
              omega
            have hput (t : State) (f : Fld) (n : Nat) : LadderStep d t (t.put (.CORE_DIE_OP d) f n) :=
              ⟨rfl, fun r _ _ h => State.rd_put_ne h .., fun g _ _ => State.get_put_ne hne ..⟩
            exact ((h2.trans (hput ..)).trans (hput ..)).trans (hput ..)
          · exact h2

theorem ladderStep_steerDie (s : State) (d : Nat) : LadderStep d s (steerDie s d) := by
  unfold steerDie
  dsimp only
  split
  · exact ladderStep_refl d s
  · split
    · exact ladderStep_beginStep ..
    · split
      · exact ladderStep_beginStep ..
      · split
        · exact ladderStep_beginStep ..
        · exact ladderStep_refl d s

theorem LadderStep.get_of_ne {d : Nat} {s t : State} (h : LadderStep d s t) {e : Nat} (he : e < 16) (hne : e ≠ d) (f : Fld) :
    t.get (.SCK_DIE e) f = s.get (.SCK_DIE e) f := by
  rw [State.get, h.rd _ (by rw [key_sckDie, key_sckDie]; omega) (by rw [key_sckDie]; simp only [Reg.key]; omega)
    (by rw [key_sckDie]; simp only [Reg.key]; omega), State.get]

theorem LadderStep.voteSame {d : Nat} (hd : d < 16) {s t : State} (h : LadderStep d s t) : VoteSame s t := by
  refine ⟨fun r hr => h.rd r ?_ ?_ ?_, ?_, fun e he => ?_, by rw [h.same], by rw [h.same]; rfl⟩
  · have := hr.sck
    rw [key_sckDie]
    omega
  · have := hr.link
    rw [key_dlStatus]
    omega
  · have := hr.op
    rw [key_coreDieOp]
    omega
  · rw [State.get, h.rd _ (by rw [key_sckDie]; simp only [Reg.key]; omega) (by simp only [Reg.key]; omega)
      (by simp only [Reg.key]; omega), State.get]
  · by_cases hed : e = d
    · subst hed
      exact h.die _ (by decide) (by decide)
    · exact h.get_of_ne he hed _

/-! ### The recomputation as a chain of steps -/

/-- The step of the recomputation that one die takes: refused or not, its command, its target, and its first movement. -/
def aimDie (up : Bool) (s : State) (d : Nat) : State :=
  let ref := dieRefused s d
  let s := if ref ∧ ¬ s.bit (.SCK_DIE d) F.SCK_DIE_REFUSED then s.raise .SCK_ERR 8 27 0x2800 none 1 0 else s
  let s := s.put (.SCK_DIE d) F.SCK_DIE_REFUSED (if ref then 1 else 0)
  let s := s.put (.SCK_DIE d) F.SCK_DIE_CMD (if up then dieCommand s d else 0)
  let s := s.put (.SCK_DIE d) F.SCK_DIE_TARGET (dieTarget s d)
  steerDie s d

/-- A block whose request returns HELD is reported. -/
def noteHeld (old : List Nat) (s : State) (b : Nat) : State :=
  if returnsHeld s b ∧ old.getD b 0 ≠ blockTarget s b ∧ ¬ iodForced s then
    (sckErr s 1 0).raise .ARC_ERR 0 24 0x2700 none 0 0
  else s

/-- The counting ports and the most awake vote. -/
def putMin (s : State) (n : Nat) : State := (s.put .SCK_PKG F.SCK_PKG_COUNTING n).put .SCK_PKG F.SCK_PKG_VOTE_MIN (voteMin s)

/-- The command of the authority port, and whether a trip forces a unit down. -/
def putCommand (s : State) : State :=
  let up := counts s (authPort s)
  let s := (s.put .SCK_PKG F.SCK_PKG_AUTH_UP (if up then 1 else 0)).put .SCK_PKG F.SCK_PKG_COMMAND (if up then pkgCommand s else 0)
  let forced := iodForced s || (List.range 16).any (fun d => s.bit (.SCK_DIE d) F.SCK_DIE_TRIP)
  s.put .SCK_PKG F.SCK_PKG_FORCED (if forced then 1 else 0)

/-- The package target put, with the arrival of a change. -/
def putTarget (s : State) : State :=
  if s.get .SCK_PKG F.SCK_PKG_TARGET = pkgTarget s then s else (s.put .SCK_PKG F.SCK_PKG_TARGET (pkgTarget s)).arrive 65

theorem retarget_eq (s : State) (h : (overAll (List.range 8) setVote s).get .SCK_PKG F.SCK_PKG_STATE ≠ 3) :
    ∃ n up old, retarget s = updatePkg (lowerBlocks (overAll (List.range 33) (noteHeld old)
      (overAll (List.range 16) (aimDie up) (putCommand (putMin (putTarget (overAll (List.range 8) setVote s)) n))))) := by
  rw [retarget]
  extract_lets _ old _ n _ up
  exact ⟨n, up, old, if_neg h⟩

theorem voteSame_setVotes (s : State) : VoteSame s (overAll (List.range 8) setVote s) := by
  have h (l : List Nat) (hl : ∀ p ∈ l, p < 8) (s : State) : VoteSame s (overAll l setVote s) := by
    induction l generalizing s with
    | nil => exact .refl s
    | cons p l ih => exact (voteSame_setVote s (hl p List.mem_cons_self)).trans (ih (fun q hq => hl q (List.mem_cons_of_mem _ hq)) _)
  exact h _ (fun p hp => List.mem_range.mp hp) s

theorem get_pkgState_setVotes (s : State) (f : Fld) : (overAll (List.range 8) setVote s).get .SCK_PKG f = s.get .SCK_PKG f :=
  overAll_keeps_mem (g := fun s => s.get .SCK_PKG f) (fun s p _ => by
    rw [State.get, rd_setVote noteKept_sckPkg.arrive (by rw [key_sckPkg]; simp only [Reg.key]; omega), State.get]) s

theorem voteSame_putTarget (s : State) : VoteSame s (putTarget s) := by
  unfold putTarget
  split
  · exact .refl s
  · exact (voteSame_putPkg s (by decide) (by decide) _).trans (voteSame_arrive ..)

theorem voteSame_putMin (s : State) (n : Nat) : VoteSame s (putMin s n) :=
  (voteSame_putPkg s (by decide) (by decide) _).trans (voteSame_putPkg _ (by decide) (by decide) _)

theorem voteSame_putCommand (s : State) : VoteSame s (putCommand s) :=
  ((voteSame_putPkg s (by decide) (by decide) _).trans (voteSame_putPkg _ (by decide) (by decide) _)).trans
    (voteSame_putPkg _ (by decide) (by decide) _)

/-- A die's step before it moves. -/
def aimed (up : Bool) (s : State) (d : Nat) : State :=
  let ref := dieRefused s d
  let s := if ref ∧ ¬ s.bit (.SCK_DIE d) F.SCK_DIE_REFUSED then s.raise .SCK_ERR 8 27 0x2800 none 1 0 else s
  let s := s.put (.SCK_DIE d) F.SCK_DIE_REFUSED (if ref then 1 else 0)
  let s := s.put (.SCK_DIE d) F.SCK_DIE_CMD (if up then dieCommand s d else 0)
  s.put (.SCK_DIE d) F.SCK_DIE_TARGET (dieTarget s d)

theorem aimDie_eq (up : Bool) (s : State) (d : Nat) : aimDie up s d = steerDie (aimed up s d) d := rfl

/-- The error of a refusal that is new. -/
def noteRefused (s : State) (d : Nat) : State :=
  if dieRefused s d ∧ ¬ s.bit (.SCK_DIE d) F.SCK_DIE_REFUSED then s.raise .SCK_ERR 8 27 0x2800 none 1 0 else s

theorem voteSame_noteRefused (s : State) (d : Nat) : VoteSame s (noteRefused s d) := by
  unfold noteRefused
  split
  · exact voteSame_raise s (.inl rfl) _ (by decide) ..
  · exact .refl s

theorem rd_noteRefused {r : Reg} (h : noteKept r) (hr : r.key ≠ 0xF00008000030) (s : State) (d : Nat) : (noteRefused s d).rd r = s.rd r := by
  unfold noteRefused
  split
  · exact rd_raise_ne (q := .SCK_ERR) h hr s _ (by decide) ..
  · rfl

theorem aimed_eq (up : Bool) (s : State) (d : Nat) :
    aimed up s d =
      (let t := (noteRefused s d).put (.SCK_DIE d) F.SCK_DIE_REFUSED (if dieRefused s d then 1 else 0)
       let t := t.put (.SCK_DIE d) F.SCK_DIE_CMD (if up then dieCommand t d else 0)
       t.put (.SCK_DIE d) F.SCK_DIE_TARGET (dieTarget t d)) := rfl

theorem voteSame_aimed (up : Bool) (s : State) {d : Nat} (hd : d < 16) : VoteSame s (aimed up s d) := by
  rw [aimed_eq]
  exact (((voteSame_noteRefused s d).trans (voteSame_putDie _ (by decide) (by decide) _ hd)).trans
    (voteSame_putDie _ (by decide) (by decide) _ hd)).trans (voteSame_putDie _ (by decide) (by decide) _ hd)

theorem voteSame_aimDie (up : Bool) (s : State) {d : Nat} (hd : d < 16) : VoteSame s (aimDie up s d) := by
  rw [aimDie_eq]
  exact (voteSame_aimed up s hd).trans ((ladderStep_steerDie ..).voteSame hd)

/-- Registers that a die's step leaves alone. -/
theorem rd_aimDie {r : Reg} (h : noteKept r) (he : r.key ≠ 0xF00008000030) {d : Nat} (h1 : r.key ≠ (Reg.SCK_DIE d).key)
    (h2 : r.key ≠ (Reg.DL_STATUS d).key) (h3 : r.key ≠ (Reg.CORE_DIE_OP d).key) (up : Bool) (s : State) : (aimDie up s d).rd r = s.rd r := by
  rw [aimDie_eq, (ladderStep_steerDie ..).rd r h1 h2 h3, aimed_eq]
  rw [State.rd_put_ne h1, State.rd_put_ne h1, State.rd_put_ne h1, rd_noteRefused h he]

theorem voteMin_le (s : State) : voteMin s ≤ 3 := by
  have h (l : List Nat) (v : Nat) (hv : v ≤ 3) : l.foldl (fun v p => min v (s.get (.PWR_PKG p) F.PWR_PKG_TARGET)) v ≤ 3 := by
    induction l generalizing v with
    | nil => exact hv
    | cons p l ih => exact ih _ ((Nat.min_le_left ..).trans hv)
  exact h _ _ (le_refl 3)

theorem pkgCommand_le (s : State) : pkgCommand s ≤ 3 := Nat.le_of_lt_succ (s.get_lt ..)

theorem pkgTarget_lt (s : State) : pkgTarget s < 4 := by
  have := pkgCommand_le s
  unfold pkgTarget
  split <;> omega

theorem dieWish_le (s : State) (d : Nat) : dieWish s d ≤ 3 := by
  have := voteMin_le s
  unfold dieWish
  split <;> omega

theorem dieTarget_lt (s : State) (d : Nat) : dieTarget s d < 4 := by
  have := dieWish_le s d
  unfold dieTarget
  dsimp only
  split
  · decide
  · split <;> split <;> omega

/-- What one die's step leaves in its SCK_DIE. -/
theorem get_aimDie_self (up : Bool) (s : State) {d : Nat} (hd : d < 16) :
    (aimDie up s d).get (.SCK_DIE d) F.SCK_DIE_TARGET = dieTarget s d ∧
      (aimDie up s d).get (.SCK_DIE d) F.SCK_DIE_REFUSED = if dieRefused s d then 1 else 0 := by
  have hstep := ladderStep_steerDie (aimed up s d) d
  have h1 : VoteSame s ((noteRefused s d).put (.SCK_DIE d) F.SCK_DIE_REFUSED (if dieRefused s d then 1 else 0)) :=
    (voteSame_noteRefused s d).trans (voteSame_putDie _ (by decide) (by decide) _ hd)
  have h2 (n : Nat) := h1.trans (voteSame_putDie _ (f := F.SCK_DIE_CMD) (by decide) (by decide) n hd)
  rw [aimDie_eq, hstep.die _ (by decide) (by decide), hstep.die _ (by decide) (by decide), aimed_eq]
  dsimp only
  rw [State.get_put_self (by decide) (by decide), State.get_put_apart (by decide) (by decide) (by decide),
    State.get_put_apart (by decide) (by decide) (by decide), State.get_put_self (by decide) (by decide), (h2 _).dieTarget_eq hd]
  refine ⟨Nat.mod_eq_of_lt (dieTarget_lt s d), ?_⟩
  split <;> rfl

theorem get_aimDie_of_ne (up : Bool) (s : State) {d e : Nat} (hd : d < 16) (he : e < 16) (hne : e ≠ d) (f : Fld) :
    (aimDie up s d).get (.SCK_DIE e) f = s.get (.SCK_DIE e) f := by
  rw [State.get, rd_aimDie (noteKept_sckDie he) (by rw [key_sckDie]; omega) (by rw [key_sckDie, key_sckDie]; omega)
    (by rw [key_sckDie, key_dlStatus]; omega) (by rw [key_sckDie, key_coreDieOp]; omega), State.get]

/-! ### After the dies -/

/-- A register of the Scorekeeper that the blocks leave alone. -/
theorem rd_noteHeld {r : Reg} (h : noteKept r) (h1 : r.key ≠ 0xF00008000030) (h2 : r.key ≠ 0xF00007005030) (old : List Nat) (s : State) (b : Nat) :
    (noteHeld old s b).rd r = s.rd r := by
  unfold noteHeld sckErr
  split
  · rw [rd_raise_ne (q := .ARC_ERR) h h2 _ _ (by decide)]
    split
    · rfl
    · exact rd_raise_ne (q := .SCK_ERR) h h1 _ _ (by split <;> decide) ..
  · rfl

theorem sameUnits_noteHeld (old : List Nat) (s : State) (b : Nat) : sameUnits s (noteHeld old s b) := by
  unfold noteHeld sckErr
  split
  · split
    · exact sameUnits_raise ..
    · exact (sameUnits_raise ..).trans (sameUnits_raise ..)
  · rfl

theorem rd_setBlockState {r : Reg} (h : r.key ≠ Reg.SCK_IOD_STATE.key) (s : State) (b n : Nat) : (setBlockState s b n).rd r = s.rd r := by
  unfold setBlockState
  dsimp only
  split
  · rw [State.rd_put_ne h]
    split <;> rfl
  · split
    · rw [State.rd_put_ne h]
      split <;> rfl
    · rfl

theorem iodForced_setBlockState (s : State) (b n : Nat) : iodForced (setBlockState s b n) = iodForced s ∧ (setBlockState s b n).folio = s.folio := by
  unfold setBlockState
  dsimp only
  split
  · split <;> exact ⟨rfl, rfl⟩
  · split
    · split <;> exact ⟨rfl, rfl⟩
    · exact ⟨rfl, rfl⟩

theorem rd_lowerBlocks {r : Reg} (h : r.key ≠ Reg.SCK_IOD_STATE.key) (s : State) : (lowerBlocks s).rd r = s.rd r := by
  unfold lowerBlocks
  dsimp only
  refine overAll_keeps (fun s => s.rd r) (fun s b => ?_) _ s
  split
  · rfl
  · split
    · exact rd_setBlockState h ..
    · split
      · exact rd_setBlockState h ..
      · rfl

theorem forced_lowerBlocks (s : State) : (iodForced (lowerBlocks s), (lowerBlocks s).folio) = (iodForced s, s.folio) := by
  have hset (s : State) (b n : Nat) : (iodForced (setBlockState s b n), (setBlockState s b n).folio) = (iodForced s, s.folio) :=
    Prod.ext (iodForced_setBlockState s b n).1 (iodForced_setBlockState s b n).2
  unfold lowerBlocks
  dsimp only
  refine overAll_keeps (fun s => (iodForced s, s.folio)) (fun s b => ?_) _ s
  split
  · rfl
  · split
    · exact hset ..
    · split
      · exact hset ..
      · rfl

/-- Both branches of a choice leave the same. -/
theorem ite_keeps {α : Type} {g : State → α} {a : α} {p : Prop} [Decidable p] {t u : State} (ht : g t = a) (hu : g u = a) :
    g (if p then t else u) = a := by
  split
  · exact ht
  · exact hu

/-- A register of the Scorekeeper beside SCK_PKG that the last steps leave alone. -/
theorem rd_updatePkg {r : Reg} (h : arriveKept r) (hr : r.key ≠ 0xF00008000000) (s : State) : (updatePkg s).rd r = s.rd r := by
  have hp : r.key ≠ Reg.SCK_PKG.key := hr
  refine ite_keeps (g := fun s => s.rd r) ?_ (State.rd_put_ne hp ..)
  rw [rd_arrive h, State.rd_put_ne hp, State.rd_put_ne hp]

theorem get_pkg_updatePkg {f : Fld} (hl : f.lo ≤ f.hi) (h1 : 1 < f.lo) (h2 : f.hi < 12 ∨ 12 < f.lo) (s : State) :
    (updatePkg s).get .SCK_PKG f = s.get .SCK_PKG f := by
  have hheld (n : Nat) : (s.put .SCK_PKG F.SCK_PKG_HELD n).get .SCK_PKG f = s.get .SCK_PKG f :=
    State.get_put_apart (by decide) hl (by dsimp only; omega) ..
  refine ite_keeps (g := fun s => s.get .SCK_PKG f) ?_ (hheld _)
  rw [State.get, rd_arrive noteKept_sckPkg.arrive, ← State.get, State.get_put_apart (by decide) hl (by dsimp only; omega), hheld]

theorem forced_updatePkg (s : State) : (iodForced (updatePkg s), (updatePkg s).folio) = (iodForced s, s.folio) := by
  refine ite_keeps (g := fun s => (iodForced s, s.folio)) ?_ rfl
  rw [sameUnits_arrive]
  rfl

/-- What follows the dies keeps the targets' inputs and what was put. -/
structure Settled (s t : State) : Prop where
  votes : VoteSame s t
  pkg : ∀ f : Fld, f.lo ≤ f.hi → 1 < f.lo → (f.hi < 12 ∨ 12 < f.lo) → t.get .SCK_PKG f = s.get .SCK_PKG f
  die : ∀ d < 16, t.rd (.SCK_DIE d) = s.rd (.SCK_DIE d)

theorem settled_last (old : List Nat) (s : State) : Settled s (updatePkg (lowerBlocks (overAll (List.range 33) (noteHeld old) s))) := by
  have hblocks {r : Reg} (h : noteKept r) (h1 : r.key ≠ 0xF00008000030) (h2 : r.key ≠ 0xF00007005030) :
      (overAll (List.range 33) (noteHeld old) s).rd r = s.rd r :=
    overAll_keeps (fun s => s.rd r) (fun s b => rd_noteHeld h h1 h2 old s b) _ s
  have hunits : sameUnits s (overAll (List.range 33) (noteHeld old) s) := overAll_rel sameUnits_refl .trans (sameUnits_noteHeld old) _ s
  have hrd {r : Reg} (h : noteKept r) (h1 : r.key ≠ 0xF00008000030) (h2 : r.key ≠ 0xF00007005030) (h3 : r.key ≠ 0xF00008000028)
      (h4 : r.key ≠ 0xF00008000000) : (updatePkg (lowerBlocks (overAll (List.range 33) (noteHeld old) s))).rd r = s.rd r := by
    rw [rd_updatePkg h.arrive h4, rd_lowerBlocks h3, hblocks h h1 h2]
  have hpkg (f : Fld) (hl : f.lo ≤ f.hi) (h1 : 1 < f.lo) (h2 : f.hi < 12 ∨ 12 < f.lo) :
      (updatePkg (lowerBlocks (overAll (List.range 33) (noteHeld old) s))).get .SCK_PKG f = s.get .SCK_PKG f := by
    rw [get_pkg_updatePkg hl h1 h2, State.get, rd_lowerBlocks (by decide), hblocks noteKept_sckPkg (by decide) (by decide), State.get]
  have hdie (d : Nat) (hd : d < 16) : (updatePkg (lowerBlocks (overAll (List.range 33) (noteHeld old) s))).rd (.SCK_DIE d) = s.rd (.SCK_DIE d) :=
    hrd (noteKept_sckDie hd) (by rw [key_sckDie]; omega) (by rw [key_sckDie]; omega) (by rw [key_sckDie]; omega) (by rw [key_sckDie]; omega)
  obtain ⟨hf, hfo⟩ := Prod.ext_iff.mp ((forced_updatePkg _).trans (forced_lowerBlocks (overAll (List.range 33) (noteHeld old) s)))
  refine ⟨⟨fun r hr => ?_, hpkg _ (by decide) (by decide) (by decide), fun d hd => ?_, ?_, ?_⟩, hpkg, hdie⟩
  · have := hr.sck
    exact hrd hr.note (by omega) hr.arc (by omega) (by omega)
  · rw [State.get, hdie d hd, State.get]
  · exact hfo.trans (by rw [hunits])
  · exact hf.trans (by rw [hunits]; rfl)

/-! ### The recomputation as a whole (R413) -/

theorem voteSame_aimDies (up : Bool) (s : State) : VoteSame s (overAll (List.range 16) (aimDie up) s) := by
  have h (l : List Nat) (hl : ∀ d ∈ l, d < 16) (s : State) : VoteSame s (overAll l (aimDie up) s) := by
    induction l generalizing s with
    | nil => exact .refl s
    | cons d l ih => exact (voteSame_aimDie up s (hl d List.mem_cons_self)).trans (ih (fun q hq => hl q (List.mem_cons_of_mem _ hq)) _)
  exact h _ (fun d hd => List.mem_range.mp hd) s

theorem get_pkg_aimDies (up : Bool) (s : State) (f : Fld) : (overAll (List.range 16) (aimDie up) s).get .SCK_PKG f = s.get .SCK_PKG f :=
  overAll_keeps_mem (g := fun s => s.get .SCK_PKG f) (fun s d _ => by
    rw [State.get, rd_aimDie noteKept_sckPkg (by decide) (by rw [key_sckDie, key_sckPkg]; omega) (by rw [key_dlStatus, key_sckPkg]; omega)
      (by rw [key_coreDieOp, key_sckPkg]; omega), State.get]) s

theorem get_die_aimDies (up : Bool) (s : State) {d : Nat} (hd : d < 16) :
    ((overAll (List.range 16) (aimDie up) s).get (.SCK_DIE d) F.SCK_DIE_TARGET,
      (overAll (List.range 16) (aimDie up) s).get (.SCK_DIE d) F.SCK_DIE_REFUSED) = (dieTarget s d, if dieRefused s d then 1 else 0) := by
  refine overAll_each (read := fun s d => (s.get (.SCK_DIE d) F.SCK_DIE_TARGET, s.get (.SCK_DIE d) F.SCK_DIE_REFUSED))
    (val := fun s d => (dieTarget s d, if dieRefused s d then 1 else 0)) List.nodup_range ?_ ?_ ?_ s (List.mem_range.mpr hd)
  · exact fun s d hd => Prod.ext (get_aimDie_self up s (List.mem_range.mp hd)).1 (get_aimDie_self up s (List.mem_range.mp hd)).2
  · exact fun s d hd e he hne => Prod.ext (get_aimDie_of_ne up s (List.mem_range.mp hd) (List.mem_range.mp he) hne _)
      (get_aimDie_of_ne up s (List.mem_range.mp hd) (List.mem_range.mp he) hne _)
  · intro s d hd e he _
    have h := voteSame_aimDie up s (List.mem_range.mp hd)
    rw [h.dieTarget_eq (List.mem_range.mp he), h.dieRefused_eq (List.mem_range.mp he)]

theorem get_target_putTarget (s : State) : (putTarget s).get .SCK_PKG F.SCK_PKG_TARGET = pkgTarget s := by
  unfold putTarget
  split
  next h => exact h
  next h =>
    rw [State.get, rd_arrive noteKept_sckPkg.arrive, ← State.get, State.get_put_self (by decide) (by decide)]
    exact Nat.mod_eq_of_lt (pkgTarget_lt s)

theorem get_target_putMin (s : State) (n : Nat) : (putMin s n).get .SCK_PKG F.SCK_PKG_TARGET = s.get .SCK_PKG F.SCK_PKG_TARGET := by
  rw [putMin, State.get_put_apart (by decide) (by decide) (by decide), State.get_put_apart (by decide) (by decide) (by decide)]

theorem get_voteMin_putMin (s : State) (n : Nat) : (putMin s n).get .SCK_PKG F.SCK_PKG_VOTE_MIN = voteMin s := by
  rw [putMin, State.get_put_self (by decide) (by decide)]
  exact Nat.mod_eq_of_lt (Nat.lt_succ_of_le (voteMin_le s))

theorem get_pkg_putCommand (s : State) {f : Fld} (hl : f.lo ≤ f.hi) (h : f.hi < 4 ∨ (5 < f.lo ∧ f.hi < 11)) :
    (putCommand s).get .SCK_PKG f = s.get .SCK_PKG f := by
  unfold putCommand
  dsimp only
  rw [State.get_put_apart (by decide) hl (by dsimp only; omega), State.get_put_apart (by decide) hl (by dsimp only; omega),
    State.get_put_apart (by decide) hl (by dsimp only; omega)]

/-- What the recomputation leaves: the inputs as they were, and the targets that follow from them. -/
structure Retargeted (s t : State) : Prop where
  votes : VoteSame s t
  target : t.get .SCK_PKG F.SCK_PKG_TARGET = pkgTarget s
  voteMin : t.get .SCK_PKG F.SCK_PKG_VOTE_MIN = voteMin s
  die : ∀ d < 16, t.get (.SCK_DIE d) F.SCK_DIE_TARGET = dieTarget s d
  refused : ∀ d < 16, t.get (.SCK_DIE d) F.SCK_DIE_REFUSED = if dieRefused s d then 1 else 0

theorem retargeted {s : State} (h : s.get .SCK_PKG F.SCK_PKG_STATE ≠ 3) : Retargeted s (retarget s) := by
  obtain ⟨n, up, old, ht⟩ := retarget_eq s (by rwa [get_pkgState_setVotes])
  let s1 := overAll (List.range 8) setVote s
  let s2 := putTarget s1
  let s3 := putMin s2 n
  let s4 := putCommand s3
  let s5 := overAll (List.range 16) (aimDie up) s4
  have v1 : VoteSame s s1 := voteSame_setVotes s
  have v2 : VoteSame s s2 := v1.trans (voteSame_putTarget s1)
  have v3 : VoteSame s s3 := v2.trans (voteSame_putMin s2 n)
  have v4 : VoteSame s s4 := v3.trans (voteSame_putCommand s3)
  have v5 : VoteSame s s5 := v4.trans (voteSame_aimDies up s4)
  have hlast := settled_last old s5
  rw [ht]
  refine ⟨v5.trans hlast.votes, ?_, ?_, fun d hd => ?_, fun d hd => ?_⟩
  · rw [hlast.pkg _ (by decide) (by decide) (by decide), get_pkg_aimDies, ← v1.pkgTarget_eq, ← get_target_putTarget s1]
    exact (get_pkg_putCommand s3 (by decide) (by decide)).trans (get_target_putMin s2 n)
  · rw [hlast.pkg _ (by decide) (by decide) (by decide), get_pkg_aimDies, ← v2.voteMin_eq]
    exact (get_pkg_putCommand s3 (by decide) (by decide)).trans (get_voteMin_putMin s2 n)
  · obtain ⟨hd1, -⟩ := Prod.mk.inj (get_die_aimDies up s4 hd)
    rw [State.get, hlast.die d hd, ← State.get, hd1, v4.dieTarget_eq hd]
  · obtain ⟨-, hd2⟩ := Prod.mk.inj (get_die_aimDies up s4 hd)
    rw [State.get, hlast.die d hd, ← State.get, hd2, v4.dieRefused_eq hd]

theorem dieTarget_of_refused {s : State} {d : Nat} (h : dieRefused s d = true) : dieTarget s d = 2 := by
  have hp : pkgTarget s < 3 ∧ s.folio.dieEnabled d = true := by
    simp only [dieRefused, Bool.and_eq_true, decide_eq_true_eq] at h
    exact ⟨h.1.2, h.1.1.1⟩
  rw [dieTarget, if_neg (by simp only [hp.2, not_true, false_or]; omega)]
  simp only [h, if_true]
  split <;> rfl

theorem powerTargets_claim : Claim.PowerTargets := by
  intro s h
  have hr := retargeted h
  refine ⟨hr.target, fun d => ⟨hr.die d d.isLt, ?_⟩, fun d => dieTarget_of_refused, fun d hd => ?_⟩
  · rw [State.bit, hr.refused d d.isLt]
    cases dieRefused s d <;> rfl
  · rw [dieTarget, if_pos (.inl (by simp [hd]))]

theorem powerCommands_claim : Claim.PowerCommands := by
  refine ⟨fun p v s he h => ?_, fun p v s he ha h => ?_, fun p v s h => ?_, fun p v s h => ?_⟩
  · have hr := retargeted (s := s.put (.PWR_PKG p) F.PWR_PKG_TARGET (F.PWR_PKG_TARGET.get v))
      (by rwa [State.get_put_ne (by rw [key_sckPkg]; simp only [Reg.key]; omega)])
    refine ⟨retarget (s.put (.PWR_PKG p) F.PWR_PKG_TARGET (F.PWR_PKG_TARGET.get v)), if_pos he, ?_, ?_, ?_, fun q hq => ?_, fun q => ?_, ?_⟩
    · rw [hr.votes.pwrPkg_eq p.isLt, State.get_put_self (by decide) (by decide)]
      exact Nat.mod_eq_of_lt (Fld.get_lt ..)
    · rw [hr.target, hr.votes.pkgTarget_eq]
    · rw [hr.voteMin, hr.votes.voteMin_eq]
    · rw [hr.votes.input _ (powerInput_pwrPkg q.isLt), State.rd_put_ne]
      have : q.val ≠ p.val := fun e => hq (Fin.ext e)
      simp only [Reg.key]
      omega
    · rw [hr.votes.input _ (powerInput_pwrDie q.isLt), State.rd_put_ne (by simp only [Reg.key]; omega)]
    · exact congrArg Prod.snd (kept_retarget _)
  · have hr := retargeted (s := s.wr (.PWR_DIE p) (v &&& 0xFFFFFFFF))
      (by rwa [State.get_wr_ne (by rw [key_sckPkg]; simp only [Reg.key]; omega)])
    refine ⟨retarget (s.wr (.PWR_DIE p) (v &&& 0xFFFFFFFF)), if_pos ⟨he, ha⟩, ?_, ?_, fun q => ?_, ?_⟩
    · rw [hr.votes.input _ (powerInput_pwrDie p.isLt), State.rd_wr_self]
    · rw [hr.target, hr.votes.pkgTarget_eq]
    · rw [hr.votes.input _ (powerInput_pwrPkg q.isLt), State.rd_wr_ne _ _ _ _ (by simp only [Reg.key]; omega)]
    · exact congrArg Prod.snd (kept_retarget _)
  · exact if_neg fun ⟨h1, h2⟩ => by rcases h with h | h <;> simp_all
  · exact if_neg (by simp [h])

/-- Settles O30: the recomputation as a chain of steps, none of which changes what the targets depend on. -/
theorem powerTargets : Obligations.PowerTargets := ⟨powerCommands_claim, powerTargets_claim⟩

end Sys2Proof.Machine
end

section
/-! SUPPORT. Lines by their bits and bytes: what `linePut` puts where, and what `lineGet` reads of it. -/

namespace Sys2Proof.Machine

theorem getLsbD_needMask {off n j : Nat} (h : off + n ≤ 64) : (needMask off n).getLsbD j = decide (off ≤ j ∧ j < off + n) := by
  rw [needMask, BitVec.getLsbD_ofNat, Nat.mul_comm, Nat.testBit_two_pow_mul, Nat.testBit_two_pow_sub_one]
  grind

theorem getLsbD_ff (i : Nat) : (0xFF : LineData).getLsbD i = decide (i < 8) := by
  have h : (0xFF : LineData) = BitVec.ofNat 512 (2 ^ 8 - 1) := rfl
  rw [h, BitVec.getLsbD_ofNat, Nat.testBit_two_pow_sub_one]
  grind

theorem getLsbD_spread (m : Word) (i : Nat) (n a : Nat) :
    ((List.range' a n).foldr (fun i (acc : LineData) => (acc <<< 8) ||| (if m.getLsbD i then 0xFF else 0)) 0).getLsbD i =
      decide (i < 512 ∧ i / 8 < n ∧ m.getLsbD (a + i / 8) = true) := by
  induction n generalizing a i with
  | zero => simp
  | succ n ih =>
    have hb : (if m.getLsbD a then (0xFF : LineData) else 0).getLsbD i = (m.getLsbD a && decide (i < 8)) := by
      cases h : m.getLsbD a
      · exact BitVec.getLsbD_zero
      · exact getLsbD_ff i
    rw [List.range'_succ, List.foldr_cons, BitVec.getLsbD_or, BitVec.getLsbD_shiftLeft, ih, hb]
    rcases Nat.lt_or_ge i 8 with hi | hi
    · rw [show i / 8 = 0 by omega, Nat.add_zero]
      simp [hi]
      omega
    · rw [show i / 8 = (i - 8) / 8 + 1 by omega, show a + ((i - 8) / 8 + 1) = a + 1 + (i - 8) / 8 by omega]
      grind

theorem getLsbD_spreadMask {m : Word} {i : Nat} : (spreadMask m).getLsbD i = (decide (i < 512) && m.getLsbD (i / 8)) := by
  rw [spreadMask, List.range_eq_range', getLsbD_spread]
  grind

theorem getLsbD_mergeLine {m : Word} {new old : LineData} {i : Nat} :
    (mergeLine m new old).getLsbD i = if m.getLsbD (i / 8) then new.getLsbD i else old.getLsbD i := by
  rw [mergeLine, BitVec.getLsbD_or, BitVec.getLsbD_and, BitVec.getLsbD_and, BitVec.getLsbD_not, getLsbD_spreadMask]
  rcases Nat.lt_or_ge i 512 with hi | hi
  · split <;> simp_all
  · simp [BitVec.getLsbD_of_ge _ i hi]

theorem getLsbD_linePut {l : LineData} {off n v i : Nat} (h : off + n ≤ 64) :
    (linePut l off n v).getLsbD i = if 8 * off ≤ i ∧ i < 8 * (off + n) then v.testBit (i - 8 * off) else l.getLsbD i := by
  rw [linePut, getLsbD_mergeLine, getLsbD_needMask h]
  by_cases hi : 8 * off ≤ i ∧ i < 8 * (off + n)
  · rw [if_pos hi, if_pos (by simp; omega), BitVec.getLsbD_shiftLeft, BitVec.getLsbD_ofNat, Nat.testBit_mod_two_pow]
    grind
  · rw [if_neg hi, if_neg (by simp; omega)]

theorem testBit_lineGet {l : LineData} {off n i : Nat} (hi : i < 8 * n) : (lineGet l off n).testBit i = l.getLsbD (8 * off + i) := by
  rw [lineGet, BitVec.testBit_toNat, BitVec.getLsbD_extractLsb']
  simp [hi]

theorem lineGet_lt (l : LineData) (off n : Nat) : lineGet l off n < 2 ^ (8 * n) := BitVec.isLt _

theorem lineGet_linePut_self {l : LineData} {off n v : Nat} (h : off + n ≤ 64) (hv : v < 2 ^ (8 * n)) : lineGet (linePut l off n v) off n = v := by
  refine Nat.eq_of_testBit_eq fun i => ?_
  rcases Nat.lt_or_ge i (8 * n) with hi | hi
  · rw [testBit_lineGet hi, getLsbD_linePut h, if_pos (by omega), Nat.add_sub_cancel_left]
  · rw [Nat.testBit_lt_two_pow ((lineGet_lt ..).trans_le (Nat.pow_le_pow_right (by decide) hi)),
      Nat.testBit_lt_two_pow (hv.trans_le (Nat.pow_le_pow_right (by decide) hi))]

theorem lineGet_linePut_apart {l : LineData} {off n v off' n' : Nat} (h : off + n ≤ 64) (hd : off + n ≤ off' ∨ off' + n' ≤ off) :
    lineGet (linePut l off n v) off' n' = lineGet l off' n' := by
  refine Nat.eq_of_testBit_eq fun i => ?_
  rcases Nat.lt_or_ge i (8 * n') with hi | hi
  · rw [testBit_lineGet hi, testBit_lineGet hi, getLsbD_linePut h, if_neg (by omega)]
  · rw [Nat.testBit_lt_two_pow ((lineGet_lt ..).trans_le (Nat.pow_le_pow_right (by decide) hi)),
      Nat.testBit_lt_two_pow ((lineGet_lt ..).trans_le (Nat.pow_le_pow_right (by decide) hi))]

end Sys2Proof.Machine
end

section
/-! SUPPORT. What an instruction of an open hand does before it retires, and its retirement. -/

namespace Sys2Proof.Machine

/-! ### An instruction of an open hand, up to its end (R132, R235) -/

theorem key_fabHandCores (h k : Nat) : (Reg.FAB_HAND_CORES h k).key = 0xF00001110008 + h * 0x40 + k * 8 := by
  simp only [Reg.key]

theorem handOf_congr {s t : State} {c : Nat} (hr : ∀ h < 64, t.rd (.FAB_HAND_CORES h (c / 64)) = s.rd (.FAB_HAND_CORES h (c / 64))) :
    t.handOf c = s.handOf c :=
  List.find?_congr fun h hh => by rw [State.inHand, State.inHand, hr h (List.mem_range.mp hh)]

theorem ledgerCore_congr {s t : State} {c : Nat} (hr : ∀ h < 64, t.rd (.FAB_HAND_CORES h (c / 64)) = s.rd (.FAB_HAND_CORES h (c / 64)))
    (hf : t.folio = s.folio) : t.ledgerCore c = s.ledgerCore c := by
  simp only [State.ledgerCore, handOf_congr hr, hf]

theorem csr_ne {c m n : Nat} (h : m ≠ n) : (Reg.CSR c m).key ≠ (Reg.CSR c n).key := by
  rw [key_csr, key_csr]; omega

theorem csr_setCsr_self (s : State) (c n : Nat) (w : Word) : (s.setCsr c n w).csr c n = w := by
  rw [State.csr, State.setCsr, State.rd_wr_self]

theorem csr_setCsr_ne {c m n : Nat} (h : m ≠ n) (s : State) (w : Word) : (s.setCsr c n w).csr c m = s.csr c m := by
  rw [State.csr, State.setCsr, State.rd_wr_ne _ _ _ _ (csr_ne h), State.csr]

/-- Nothing but registers and cores differs. -/
def onlyRegsCores (s t : State) : Prop := t = { s with regs := t.regs, cores := t.cores }

theorem onlyRegsCores.trans {s t u : State} (h : onlyRegsCores s t) (h' : onlyRegsCores t u) : onlyRegsCores s u := by
  rw [onlyRegsCores] at *; rw [h', h]

theorem onlyRegsCores_wr (s : State) (r : Reg) (w : Word) : onlyRegsCores s (s.wr r w) := rfl

theorem onlyRegsCores_setCore (s : State) (c : Nat) (k : Core) : onlyRegsCores s (s.setCore c k) := rfl

/-- What an instruction of core `c` has done before it retires: the core is `k`, the CSRs of the list may differ, and no other core or
register does. -/
structure Acted (s : State) (c : Nat) (l : List Nat) (k : Core) (t : State) : Prop where
  core : t.core c = k
  cores : coresBut s t [c]
  regs : regsBut s t (l.map (Reg.CSR c))
  rest : onlyRegsCores s t

namespace Acted
variable {s t : State} {c : Nat} {l : List Nat} {k : Core}

theorem refl (s : State) (c : Nat) (l : List Nat) : Acted s c l (s.core c) s := ⟨rfl, fun _ _ => rfl, fun _ _ => rfl, rfl⟩

theorem setCore (h : Acted s c l k t) (k' : Core) : Acted s c l k' (t.setCore c k') :=
  ⟨State.core_setCore_self .., fun d hd => (State.core_setCore_ne _ _ _ _ (by simpa using hd)).trans (h.cores d hd),
    fun r hr => (State.rd_setCore ..).trans (h.regs r hr), h.rest.trans (onlyRegsCores_setCore ..)⟩

theorem setCsr (h : Acted s c l k t) {n : Nat} (hn : n ∈ l) (w : Word) : Acted s c l k (t.setCsr c n w) :=
  ⟨(State.core_wr ..).trans h.core, fun d hd => (State.core_wr ..).trans (h.cores d hd),
    fun r hr => (State.rd_wr_ne _ _ _ _ (hr _ (List.mem_map_of_mem hn))).trans (h.regs r hr), h.rest.trans (onlyRegsCores_wr ..)⟩

theorem csr_eq (h : Acted s c l k t) {n : Nat} (hn : n ∉ l) : t.csr c n = s.csr c n :=
  h.regs _ fun q hq => by
    obtain ⟨m, hm, rfl⟩ := List.mem_map.mp hq
    exact csr_ne fun e => hn (e ▸ hm)

theorem rd_eq (h : Acted s c l k t) {r : Reg} (hr : r.key < 0x400000000000000) : t.rd r = s.rd r :=
  h.regs _ fun q hq => by
    obtain ⟨m, hm, rfl⟩ := List.mem_map.mp hq
    rw [key_csr]; omega

theorem ledgerCore_eq (h : Acted s c l k t) (hc : c < 384) : t.ledgerCore c = s.ledgerCore c :=
  ledgerCore_congr (fun g hg => h.rd_eq (by rw [key_fabHandCores]; omega)) (by rw [h.rest])

theorem dirtyVs (h : Acted s c l k t) (h1 : 0x300 ∈ l) (h2 : 0x200 ∈ l) : Acted s c l k (dirtyVs t c) := by
  rw [Machine.dirtyVs, dirtyField]
  split
  · exact (h.setCsr h1 _).setCsr h2 _
  · exact h.setCsr h1 _

theorem weaken {l' : List Nat} (h : Acted s c l k t) (hl : l ⊆ l') : Acted s c l' k t :=
  ⟨h.core, h.cores, fun r hr => h.regs r fun q hq => hr q (List.map_subset _ hl hq), h.rest⟩

end Acted

/-- A core with the pc moved on and one more instruction stepped. -/
def stepped (k : Core) (len : Nat) : Core := { k with pc := k.pc + BitVec.ofNat 64 len, count := k.count + 1 }

/-- An instruction's last step where the hand is open: the pc and the two counts. -/
def movedOn (s : State) (c len : Nat) : State :=
  let t := s.setCore c (stepped (s.core c) len)
  if (s.csr c 0x320).getLsbD 2 then t else t.setCsr c 0xB02 (s.csr c 0xB02 + 1)

theorem ledgerCore_setCore (s : State) (c : Nat) (k : Core) (d : Nat) : (s.setCore c k).ledgerCore d = s.ledgerCore d := rfl

theorem ledgerCore_setCsr (s : State) (c n : Nat) (w : Word) {d : Nat} (hd : d < 384) : (s.setCsr c n w).ledgerCore d = s.ledgerCore d :=
  ledgerCore_congr (fun h hh => State.rd_wr_ne _ _ _ _ (by rw [key_fabHandCores, key_csr]; omega)) rfl

theorem retire_of_open {s : State} {c : Nat} (hc : c < 384) (ho : s.ledgerCore c = false) (len : Nat) : s.retire c len = movedOn s c len := by
  have hl : (movedOn s c len).ledgerCore c = false := by
    rw [movedOn]
    have ht : (s.setCore c (stepped (s.core c) len)).ledgerCore c = false := ho
    split
    · exact ht
    · rw [ledgerCore_setCsr _ _ _ _ hc, ht]
  have he : s.retire c len = if (movedOn s c len).ledgerCore c ∧ (movedOn s c len).quantumOf c ≤ (s.core c).count + 1
      then (movedOn s c len).endQuantum c 0 else movedOn s c len := rfl
  rw [he, if_neg (by simp [hl])]

theorem csr_movedOn_of_ne {n : Nat} (h : n ≠ 0xB02) (s : State) (c len : Nat) : (movedOn s c len).csr c n = s.csr c n := by
  rw [movedOn]
  split
  · rfl
  · exact csr_setCsr_ne h ..

theorem core_movedOn (s : State) (c len : Nat) : (movedOn s c len).core c = stepped (s.core c) len := by
  rw [movedOn]
  split
  · exact State.core_setCore_self ..
  · exact (State.core_wr ..).trans (State.core_setCore_self ..)

theorem onlyRegsCores_movedOn (s : State) (c len : Nat) : onlyRegsCores s (movedOn s c len) := by
  rw [movedOn]
  split <;> rfl

theorem Acted.retiredBut {s t : State} {c : Nat} {l : List Nat} {k : Core} (h : Acted s c l k t) (hl : 0xB02 ∉ l) (hl' : 0x320 ∉ l)
    (len : Nat) : retiredBut s (movedOn t c len) c len k (l.map (Reg.CSR c)) := by
  have h1 := (h.setCore (stepped (t.core c) len)).weaken (List.subset_cons_self 0xB02 l)
  have ha : Acted s c (0xB02 :: l) (stepped k len) (movedOn t c len) := by
    rw [movedOn, ← h.core]
    split
    · exact h1
    · exact h1.setCsr List.mem_cons_self _
  refine ⟨ha.core, ?_, ha.cores, ha.regs⟩
  rw [movedOn, ← h.csr_eq hl, ← h.csr_eq hl']
  split
  · rfl
  · exact csr_setCsr_self ..

end Sys2Proof.Machine
end

section
/-! SUPPORT. The accumulators of the s14 samples. -/

namespace Sys2Proof.Machine

/-! ### The accumulators (R135, R136, R140, R142) -/

section Legal
variable {s : State} {c : Nat} {w : BitVec 32} {act : State → State}

theorem xjInsn_of_legal (hr : s.ready c = true) (hv : vsOff s c = false) (ht : (vtypeOf s c).getLsbD 63 = false) :
    xjInsn s c w true act = act s := by
  rw [xjInsn, hr, hv, ht]; rfl

theorem xjInsn_of_vsOff (hr : s.ready c = true) (hv : vsOff s c = true) (ok : Bool) : xjInsn s c w ok act = illegal s c (w.zeroExtend 64) := by
  rw [xjInsn, hr, hv, Bool.and_comm ok]; rfl

end Legal

/-- The CSRs that an Xjsample instruction may change: the two VS fields and vstart. -/
def xjCsrs : List Nat := [0x300, 0x200, 0x008]

section
variable {s t : State} {c : Nat} {k : Core}

theorem Acted.setVstart {l : List Nat} (h : Acted s c l k t) (hl : 0x008 ∈ l) (n : Nat) : Acted s c l k (setVstart t c n) := h.setCsr hl _

theorem vstartOf_setVstart_zero (s : State) (c : Nat) : vstartOf (setVstart s c 0) c = 0 := by
  rw [vstartOf, Machine.setVstart, csr_setCsr_self]; rfl

/-- `t` is `s` at the end of an Xjsample instruction whose core was `k` before it. -/
structure XjEnded (s : State) (c : Nat) (l : List Nat) (k : Core) (u t : State) : Prop where
  acted : u.core c = k
  core : t.core c = stepped k 4
  vstart : vstartOf t c = 0
  retired : retiredBut s t c 4 k (l.map (Reg.CSR c))
  rest : onlyRegsCores u t

theorem XjEnded.lane {l : List Nat} {u : State} (h : XjEnded s c l k u t) (j : Nat) : lane t c j = lane u c j := by
  rw [Machine.lane, h.core, ← h.acted, stepped, Machine.lane]

theorem XjEnded.sacc {l : List Nat} {u : State} (h : XjEnded s c l k u t) : (t.core c).sacc = (u.core c).sacc := by
  rw [h.core, ← h.acted, stepped]

theorem xjEnd_spec {l : List Nat} (h : Acted s c l k t) (hc : c < 384) (ho : s.ledgerCore c = false) (h8 : 0x008 ∈ l) (hl : 0xB02 ∉ l)
    (hl' : 0x320 ∉ l) : XjEnded s c l k t (xjEnd t c) := by
  have hv := h.setVstart h8 0
  have he : xjEnd t c = movedOn (setVstart t c 0) c 4 := retire_of_open hc ((hv.ledgerCore_eq hc).trans ho) 4
  rw [he]
  refine ⟨h.core, ?_, ?_, hv.retiredBut hl hl' 4, (onlyRegsCores_wr ..).trans (onlyRegsCores_movedOn ..)⟩
  · rw [core_movedOn, hv.core]
  · rw [vstartOf, csr_movedOn_of_ne (by decide)]
    exact vstartOf_setVstart_zero t c

end

theorem acted_setVreg (s : State) (c r : Nat) (v : LineData) : Acted s c xjCsrs { s.core c with v := (s.core c).v.set r v } (setVreg s c r v) :=
  ((Acted.refl s c xjCsrs).setCore _).dirtyVs (by decide) (by decide)

theorem acted_setX (s : State) (c : Nat) (l : List Nat) (r : Nat) (v : Word) :
    Acted s c l { s.core c with x := if r = 0 then (s.core c).x else (s.core c).x.set r v } (s.setX c r v) := by
  rw [State.setX]
  split
  · exact Acted.refl ..
  · exact (Acted.refl s c l).setCore _

/-- Nothing but the accumulator lanes of a core and its VS fields has changed. -/
def LanesOnly (c : Nat) (s t : State) : Prop := Acted s c xjCsrs { s.core c with sacc := (t.core c).sacc } t

theorem LanesOnly.refl (c : Nat) (s : State) : LanesOnly c s s := Acted.refl s c xjCsrs

theorem LanesOnly.trans {c : Nat} {s t u : State} (h : LanesOnly c s t) (h' : LanesOnly c t u) : LanesOnly c s u := by
  refine ⟨?_, fun d hd => (h'.cores d hd).trans (h.cores d hd), fun r hr => (h'.regs r hr).trans (h.regs r hr), h.rest.trans h'.rest⟩
  have h1 := h'.core
  rw [h.core] at h1
  exact h1

theorem acted_setLane (s : State) (c j : Nat) (v : Word) : Acted s c xjCsrs { s.core c with sacc := (s.core c).sacc.set j v } (setLane s c j v) :=
  ((Acted.refl s c xjCsrs).setCore _).dirtyVs (by decide) (by decide)

theorem lanesOnly_setLane (s : State) (c j : Nat) (v : Word) : LanesOnly c s (setLane s c j v) := by
  have h := acted_setLane s c j v
  rw [LanesOnly, h.core]
  exact h

theorem lane_setLane_self (s : State) (c j : Nat) (v : Word) : lane (setLane s c j v) c j = v := by
  rw [lane, (acted_setLane s c j v).core]
  exact NMap.getD_set_self ..

theorem lane_setLane_ne {i j : Nat} (h : i ≠ j) (s : State) (c : Nat) (v : Word) : lane (setLane s c j v) c i = lane s c i := by
  rw [lane, (acted_setLane s c j v).core]
  exact NMap.getD_set_ne _ _ _ _ _ h

section Moves
variable {c : Fin 384} {w : BitVec 32} {s : State}

theorem exec_saccClr (hr : s.ready c = true) (hv : vsOff s c = false) (ht : (vtypeOf s c).getLsbD 63 = false)
    (hw : xjForm w 3 0 (some 1) false false false = true) :
    exec (.saccClr c w) s = .next (xjEnd (dirtyVs (s.setCore c { s.core c with sacc := [] }) c) c) := by
  refine congrArg Host.Outcome.next ?_
  rw [hw]
  exact xjInsn_of_legal hr hv ht

theorem saccClr_spec (ho : s.ledgerCore c = false) (hr : s.ready c = true) (hv : vsOff s c = false) (ht : (vtypeOf s c).getLsbD 63 = false)
    (hw : xjForm w 3 0 (some 1) false false false = true) : ∃ t, exec (.saccClr c w) s = .next t ∧
      retiredBut s t c 4 { s.core c with sacc := [] } [.CSR c 0x300, .CSR c 0x200, .CSR c 0x008] ∧
      (∀ j, lane t c j = 0) ∧ vstartOf t c = 0 ∧ t = { s with regs := t.regs, cores := t.cores } := by
  have ha : Acted s c xjCsrs { s.core c with sacc := [] } (dirtyVs (s.setCore c { s.core c with sacc := [] }) c) :=
    ((Acted.refl s c xjCsrs).setCore _).dirtyVs (by decide) (by decide)
  have he := xjEnd_spec ha c.isLt ho (by decide) (by decide) (by decide)
  refine ⟨_, exec_saccClr hr hv ht hw, he.retired, fun j => ?_, he.vstart, ha.rest.trans he.rest⟩
  rw [lane, he.core]; rfl

/-- Eight lanes laid out as a register. -/
def lanesLine (f : Nat → Nat) (n : Nat) : LineData := (List.range n).foldl (fun l j => linePut l (8 * j) 8 (f j)) 0

theorem lineGet_lanesLine {f : Nat → Nat} (hf : ∀ j, f j < 2 ^ 64) {n j : Nat} (hn : n ≤ 8) (hj : j < n) : lineGet (lanesLine f n) (8 * j) 8 = f j := by
  induction n with
  | zero => omega
  | succ n ih =>
    rw [lanesLine, List.range_succ, List.foldl_append]
    rcases Nat.lt_succ_iff_lt_or_eq.mp hj with h | rfl
    · exact (lineGet_linePut_apart (by omega) (by omega)).trans (ih (by omega) h)
    · exact lineGet_linePut_self (by omega) (hf j)

theorem saccRdv_spec (ho : s.ledgerCore c = false) (hr : s.ready c = true) (hv : vsOff s c = false) (ht : (vtypeOf s c).getLsbD 63 = false)
    (hw : xjForm w 3 1 (some 1) true false true = true) (h0 : wbits w 24 23 = 0) : ∃ t, exec (.saccRdv c w) s = .next t ∧
      (∀ j < 8, lineGet (vreg t c (wbits w 11 7)) (8 * j) 8 = (lane s c (8 * wbits w 22 20 + j)).toNat) ∧
      (∀ r, r ≠ wbits w 11 7 → vreg t c r = vreg s c r) ∧ (t.core c).sacc = (s.core c).sacc ∧ vstartOf t c = 0 ∧
      retiredBut s t c 4 { s.core c with v := (t.core c).v } [.CSR c 0x300, .CSR c 0x200, .CSR c 0x008] := by
  have hx : exec (.saccRdv c w) s =
      .next (xjEnd (setVreg s c (wbits w 11 7) (lanesLine (fun j => (lane s c (laneBase w + j)).toNat) 8)) c) := by
    refine congrArg Host.Outcome.next ?_
    rw [hw, h0]
    exact xjInsn_of_legal hr hv ht
  have ha := acted_setVreg s c (wbits w 11 7) (lanesLine (fun j => (lane s c (laneBase w + j)).toNat) 8)
  have he := xjEnd_spec ha c.isLt ho (by decide) (by decide) (by decide)
  refine ⟨_, hx, fun j hj => ?_, fun r hne => ?_, ?_, he.vstart, ?_⟩
  · rw [vreg, he.core]
    exact (congrArg (lineGet · (8 * j) 8) (NMap.getD_set_self ..)).trans (lineGet_lanesLine (fun _ => BitVec.isLt _) (le_refl 8) hj)
  · rw [vreg, he.core]
    exact NMap.getD_set_ne _ _ _ _ _ hne
  · rw [he.core]; rfl
  · rw [he.core]; exact he.retired

theorem saccSum_spec (ho : s.ledgerCore c = false) (hr : s.ready c = true) (hv : vsOff s c = false) (ht : (vtypeOf s c).getLsbD 63 = false)
    (hw : xjForm w 3 3 (some 1) false false true = true) : ∃ t, exec (.saccSum c w) s = .next t ∧
      t.xreg c (wbits w 11 7) = (if wbits w 11 7 = 0 then 0 else ((List.range 64).map (lane s c)).sum) ∧
      (t.core c).sacc = (s.core c).sacc ∧ vstartOf t c = 0 ∧ retiredBut s t c 4 { s.core c with x := (t.core c).x } [.CSR c 0x008] := by
  have hx : exec (.saccSum c w) s = .next (xjEnd (s.setX c (wbits w 11 7) ((List.range 64).map (lane s c)).sum) c) := by
    refine congrArg Host.Outcome.next ?_
    rw [hw, List.sum_eq_foldl, List.foldl_map]
    exact xjInsn_of_legal hr hv ht
  have ha := acted_setX s c [0x008] (wbits w 11 7) ((List.range 64).map (lane s c)).sum
  have he := xjEnd_spec ha c.isLt ho (by decide) (by decide) (by decide)
  refine ⟨_, hx, ?_, ?_, he.vstart, ?_⟩
  · rw [State.xreg, he.core]
    exact ite_congr rfl (fun _ => rfl) fun h0 => (congrArg (NMap.getD · _ _) (if_neg h0)).trans (NMap.getD_set_self ..)
  · rw [he.core]; rfl
  · rw [he.core]; exact he.retired

/-- One lane written from an element of a register. -/
def laneFrom (c base : Nat) (v : LineData) (s : State) (j : Nat) : State := setLane s c (base + j) (BitVec.ofNat 64 (lineGet v (8 * j) 8))

theorem lanesOnly_lanesFrom (c base : Nat) (v : LineData) (l : List Nat) (s : State) : LanesOnly c s (overAll l (laneFrom c base v) s) :=
  overAll_rel (LanesOnly.refl c) LanesOnly.trans (fun _ _ => lanesOnly_setLane ..) l s

theorem lane_lanesFrom (c base : Nat) (v : LineData) (s : State) {j n : Nat} (hj : j < n) :
    lane (overAll (List.range n) (laneFrom c base v) s) c (base + j) = BitVec.ofNat 64 (lineGet v (8 * j) 8) :=
  overAll_each (step := laneFrom c base v) (read := fun t j => lane t c (base + j)) (val := fun _ j => BitVec.ofNat 64 (lineGet v (8 * j) 8))
    List.nodup_range (fun _ _ _ => lane_setLane_self ..) (fun _ _ _ _ _ hne => lane_setLane_ne (by omega) ..) (fun _ _ _ _ _ _ => rfl) s
    (List.mem_range.mpr hj)

theorem lane_lanesFrom_of_out (c base : Nat) (v : LineData) (s : State) {j n : Nat} (hj : j < base ∨ base + n ≤ j) :
    lane (overAll (List.range n) (laneFrom c base v) s) c j = lane s c j :=
  overAll_keeps_mem (g := (lane · c j)) (fun _ i hi => lane_setLane_ne (by have := List.mem_range.mp hi; omega) ..) s

theorem saccWrv_spec (ho : s.ledgerCore c = false) (hr : s.ready c = true) (hv : vsOff s c = false) (ht : (vtypeOf s c).getLsbD 63 = false)
    (hw : xjForm w 3 2 (some 1) true true false = true) (h0 : wbits w 24 23 = 0) : ∃ t, exec (.saccWrv c w) s = .next t ∧
      (∀ j < 8, lane t c (8 * wbits w 22 20 + j) = BitVec.ofNat 64 (lineGet (vreg s c (wbits w 19 15)) (8 * j) 8)) ∧
      (∀ j, j < 8 * wbits w 22 20 ∨ 8 * wbits w 22 20 + 8 ≤ j → lane t c j = lane s c j) ∧ (t.core c).v = (s.core c).v ∧
      retiredBut s t c 4 { s.core c with sacc := (t.core c).sacc } [.CSR c 0x300, .CSR c 0x200, .CSR c 0x008] := by
  have hx : exec (.saccWrv c w) s =
      .next (xjEnd (overAll (List.range 8) (laneFrom c (8 * wbits w 22 20) (vreg s c (wbits w 19 15))) s) c) := by
    refine congrArg Host.Outcome.next ?_
    rw [hw, h0]
    exact xjInsn_of_legal hr hv ht
  have he := xjEnd_spec (lanesOnly_lanesFrom c (8 * wbits w 22 20) (vreg s c (wbits w 19 15)) (List.range 8) s) c.isLt ho (by decide) (by decide) (by decide)
  refine ⟨_, hx, ?_, ?_, ?_, ?_⟩
  · intro j hj
    rw [he.lane]
    exact lane_lanesFrom _ _ _ s hj
  · intro j hj
    rw [he.lane]
    exact lane_lanesFrom_of_out _ _ _ s hj
  · rw [he.core]; rfl
  · rw [he.sacc]; exact he.retired

end Moves

/-- One element's product added to its lane. -/
def multiplyAdd (c vs2 vs1 : Nat) (s : State) (i : Nat) : State :=
  setLane s c (i % 64) (lane s c (i % 64) + (velem s c vs2 i).signExtend 64 * (velem s c vs1 i).signExtend 64)

theorem v_setLane (s : State) (c j : Nat) (v : Word) : ((setLane s c j v).core c).v = (s.core c).v := by
  rw [(acted_setLane s c j v).core]

theorem velem_setLane (s : State) (c j : Nat) (v : Word) (r i : Nat) : velem (setLane s c j v) c r i = velem s c r i := by
  rw [velem, vreg, v_setLane, velem, vreg]

section Multiply
variable (c vs2 vs1 : Nat) (s : State) {n i : Nat}

theorem lanesOnly_multiply (l : List Nat) : LanesOnly c s (overAll l (multiplyAdd c vs2 vs1) s) :=
  overAll_rel (LanesOnly.refl c) LanesOnly.trans (fun _ _ => lanesOnly_setLane ..) l s

theorem lane_multiply (hn : n ≤ 64) (hi : i < n) : lane (overAll (List.range n) (multiplyAdd c vs2 vs1) s) c i =
    lane s c i + (velem s c vs2 i).signExtend 64 * (velem s c vs1 i).signExtend 64 := by
  refine overAll_each (step := multiplyAdd c vs2 vs1) (read := fun t i => lane t c i)
    (val := fun t i => lane t c i + (velem t c vs2 i).signExtend 64 * (velem t c vs1 i).signExtend 64)
    List.nodup_range (fun t a ha => ?_) (fun t a ha b hb hne => ?_) (fun t a ha b hb hne => ?_) s (List.mem_range.mpr hi)
  all_goals have h64 : a % 64 = a := Nat.mod_eq_of_lt (by have := List.mem_range.mp ha; omega)
  · rw [multiplyAdd, h64, lane_setLane_self]
  · rw [multiplyAdd, h64, lane_setLane_ne hne]
  · rw [multiplyAdd, h64, lane_setLane_ne hne, velem_setLane, velem_setLane]

theorem lane_multiply_of_le (hn : n ≤ 64) (hi : n ≤ i) : lane (overAll (List.range n) (multiplyAdd c vs2 vs1) s) c i = lane s c i :=
  overAll_keeps_mem (g := (lane · c i)) (fun _ a ha => lane_setLane_ne (by
    have := List.mem_range.mp ha
    omega) ..) s

end Multiply

theorem events_of_onlyRegsCores {s t : State} (h : onlyRegsCores s t) (u ev : Nat) : t.eventCount u ev = s.eventCount u ev := by
  rw [h, State.eventCount, State.eventCount]

theorem eventCount_countEv_self (s : State) (u ev n : Nat) : (s.countEv u ev n).eventCount u ev = s.eventCount u ev + n := by
  generalize hk : u * 2 ^ 16 + ev = k
  unfold State.eventCount State.countEv
  rw [hk]
  split
  · next h => rw [h, Nat.add_zero]
  · rw [NMap.getD_set_self]
    unfold State.eventCount
    rw [hk]

theorem eventsBut_countEv (s : State) (u ev n : Nat) : eventsBut s (s.countEv u ev n) [(u, ev)] := by
  intro u' e' h
  have hne := h (u, ev) List.mem_cons_self
  dsimp only at hne
  unfold State.eventCount State.countEv
  split
  · rfl
  · rw [NMap.getD_set_ne _ _ _ _ _ hne]

/-- Unmasked and from element 0, every element is active. -/
theorem activeElements {s : State} {c : Nat} {w : BitVec 32} (h : wbits w 25 25 = 1) (h0 : vstartOf s c = 0) :
    ((List.range (vlOf s c - vstartOf s c)).map (· + vstartOf s c)).filter (vactive s c w) = List.range (vlOf s c) := by
  have hid : (fun x : Nat => x + 0) = id := rfl
  rw [h0, hid, List.map_id, List.filter_eq_self.mpr fun i _ => by rw [vactive, h]; rfl, Nat.sub_zero]

theorem xjForm_unmasked {w : BitVec 32} {fn top6 b : Nat} {f2420 f1915 f117 : Bool} (h : xjForm w fn top6 (some b) f2420 f1915 f117 = true) :
    xjForm w fn top6 none f2420 f1915 f117 = true ∧ wbits w 25 25 = b := by
  simp only [xjForm, Bool.and_eq_true, beq_iff_eq] at h ⊢
  obtain ⟨⟨⟨⟨⟨⟨ho, hf⟩, ht⟩, hm⟩, h1⟩, h2⟩, h3⟩ := h
  exact ⟨⟨⟨⟨⟨⟨⟨ho, hf⟩, ht⟩, trivial⟩, h1⟩, h2⟩, h3⟩, hm⟩

theorem saccMultiply : Claim.SaccMultiply := by
  intro c w s hr hv ht ho hw hs h1 h2 hl h0
  obtain ⟨hw', hm⟩ := xjForm_unmasked hw
  let u := s.countEv c 0x000F (vlOf s c)
  have hx : exec (.smacVv c w) s = .next (xjEnd (overAll (List.range (vlOf s c)) (multiplyAdd c (wbits w 24 20) (wbits w 19 15)) u) c) := by
    refine congrArg Host.Outcome.next ?_
    rw [hw', hs, h1, h2]
    refine (xjInsn_of_legal hr hv ht).trans ?_
    rw [activeElements hm h0]
    dsimp only
    rw [List.length_range]
    rfl
  have he := xjEnd_spec (lanesOnly_multiply c (wbits w 24 20) (wbits w 19 15) u (List.range (vlOf s c))) c.isLt ho (by decide) (by decide) (by decide)
  have hrest := (lanesOnly_multiply c (wbits w 24 20) (wbits w 19 15) u (List.range (vlOf s c))).rest.trans he.rest
  refine ⟨_, hx, ?_, ?_, he.vstart, ?_, ?_, ?_⟩
  · intro i hi
    rw [he.lane]
    exact lane_multiply c _ _ u hl hi
  · intro i hi
    rw [he.lane]
    exact lane_multiply_of_le c _ _ u hl hi
  · rw [events_of_onlyRegsCores hrest]
    exact eventCount_countEv_self ..
  · intro u' e' h
    rw [events_of_onlyRegsCores hrest]
    exact eventsBut_countEv s c 0x000F _ u' e' h
  · rw [he.sacc]
    exact he.retired

theorem saccMoves : Claim.SaccMoves :=
  ⟨fun _ _ _ hr hv ht ho => ⟨saccClr_spec ho hr hv ht, saccRdv_spec ho hr hv ht, saccWrv_spec ho hr hv ht, saccSum_spec ho hr hv ht⟩,
    fun _ _ _ hr hv => ⟨congrArg _ (xjInsn_of_vsOff hr hv _), congrArg _ (xjInsn_of_vsOff hr hv _), congrArg _ (xjInsn_of_vsOff hr hv _),
      congrArg _ (xjInsn_of_vsOff hr hv _), congrArg _ (xjInsn_of_vsOff hr hv _)⟩⟩

/-- Settles O15, by what the instruction does to the core before its common end. -/
theorem saccUnit : Obligations.SaccUnit := ⟨saccMoves, saccMultiply⟩

end Sys2Proof.Machine
end

section
/-! SUPPORT. The switch of an arbitration point: shadow registers copied, transfers judged, lost words reloaded. -/

namespace Sys2Proof.Machine

/-! ### The copy of the shadow registers (R15, R108, R113) -/

/-- Where the shadow registers of a point lie, and their active copies with them. -/
structure ShadowPair (p : Nat) (e : Reg × Reg) : Prop where
  gap : e.2.key = e.1.key + 0x80000
  place : (0xF00001000000 + p * 0x2000 ≤ e.1.key ∧ e.1.key < 0xF00001000000 + p * 0x2000 + 0x2000) ∨
    (0xF00006000000 ≤ e.1.key ∧ e.1.key < 0xF00006010000)

theorem dealLen_le (p : Nat) : dealLen p ≤ 1024 := by rw [dealLen]; split <;> omega

theorem lastRequester_le (p : Nat) : lastRequester p ≤ 31 := by
  rw [lastRequester]; split_ifs <;> omega

theorem shadowPair_of_mem {s : State} {p : Nat} {e : Reg × Reg} (he : e ∈ shadowPairs s p) : ShadowPair p e := by
  simp only [shadowPairs, List.mem_append, List.mem_map, List.mem_range, List.mem_singleton] at he
  rcases he with ((⟨k, hk, rfl⟩ | rfl) | ⟨q, hq, rfl⟩) | h
  · have := dealLen_le p
    exact ⟨by simp only [Reg.key]; omega, .inl (by simp only [Reg.key]; omega)⟩
  · exact ⟨by simp only [Reg.key]; omega, .inl (by simp only [Reg.key]; omega)⟩
  · have := lastRequester_le p
    exact ⟨by simp only [Reg.key]; omega, .inl (by simp only [Reg.key]; omega)⟩
  · split at h
    · obtain ⟨x, -, hx⟩ := List.mem_filterMap.mp h
      split at hx
      · next hr =>
        cases hx
        exact ⟨by simp only [Reg.key]; omega, .inr (by simp only [Reg.key]; omega)⟩
      · cases hx
    · cases h

theorem rd_switchReg_of_ne {r : Reg} {e : Reg × Reg} (h : r.key ≠ 0xF00009000500) (hne : r.key ≠ e.2.key) (rcvd : NMap Word) (s : State) :
    (switchReg rcvd false s e).rd r = s.rd r := by
  unfold switchReg
  refine (State.rd_wr_ne _ _ _ _ hne).trans ?_
  split
  · exact rd_sramWrite_of_ne h ..
  · rfl

theorem rd_switchReg_self {e : Reg × Reg} (h : e.1.key ≠ 0xF00009000500) (rcvd : NMap Word) (s : State) :
    (switchReg rcvd false s e).rd e.2 = s.rd e.1 := by
  unfold switchReg
  refine (State.rd_wr_self ..).trans ?_
  split
  · exact rd_sramWrite_of_ne h ..
  · rfl

theorem sameUnits_switchReg (rcvd : NMap Word) (s : State) (e : Reg × Reg) : sameUnits s (switchReg rcvd false s e) := by
  unfold switchReg
  refine sameUnits.trans ?_ (sameUnits_wr ..)
  split
  · exact sameUnits_sramWrite ..
  · exact sameUnits_refl s

/-- Every register of the list is copied where no copy is a source, and one key is written from one source. -/
theorem rd_copied {p : Nat} (hp : p < 64) (rcvd : NMap Word) {l : List (Reg × Reg)} (hl : ∀ a ∈ l, ShadowPair p a) {e : Reg × Reg}
    (hs : ShadowPair p e) (hone : ∀ a ∈ l, a.1.key = e.1.key → a = e) (s : State) (h : e ∈ l ∨ s.rd e.2 = s.rd e.1) :
    (overAll l (switchReg rcvd false) s).rd e.2 = s.rd e.1 := by
  induction l generalizing s with
  | nil => exact h.resolve_left List.not_mem_nil
  | cons a l ih =>
    have ha := hl a List.mem_cons_self
    have hsrc : (switchReg rcvd false s a).rd e.1 = s.rd e.1 := by
      obtain ⟨hg, hpl⟩ := ha
      obtain ⟨hg', hpl'⟩ := hs
      exact rd_switchReg_of_ne (by omega) (by omega) ..
    refine (ih (fun b hb => hl b (List.mem_cons_of_mem _ hb)) (fun b hb => hone b (List.mem_cons_of_mem _ hb)) _ ?_).trans hsrc
    by_cases hk : a.1.key = e.1.key
    · obtain rfl := hone a List.mem_cons_self hk
      exact .inr ((rd_switchReg_self (by have := hs.place; omega) ..).trans hsrc.symm)
    · refine h.imp (fun he => (List.mem_cons.mp he).resolve_left fun e => hk (by rw [e])) fun he => ?_
      obtain ⟨hg, hpl⟩ := ha
      obtain ⟨hg', hpl'⟩ := hs
      rw [rd_switchReg_of_ne (by omega) (by omega), he, hsrc]

theorem rd_copied_of_out {p : Nat} (rcvd : NMap Word) {l : List (Reg × Reg)} (hl : ∀ a ∈ l, ShadowPair p a) {r : Reg}
    (h : r.key ≠ 0xF00009000500) (hr : ∀ a ∈ l, r.key ≠ a.2.key) (s : State) : (overAll l (switchReg rcvd false) s).rd r = s.rd r :=
  overAll_keeps_mem (g := (·.rd r)) (fun _ a ha => rd_switchReg_of_ne h (hr a ha) ..) s

theorem eq_of_shadowPair_key {s : State} {p : Nat} (hp : p < 64) {a e : Reg × Reg} (ha : a ∈ shadowPairs s p)
    (he : (∃ k < 128, e = (.FAB_DEAL p k, .FAB_DEAL_ACT p k)) ∨ e = (.FAB_BURST p, .FAB_BURST_ACT p) ∨
      ∃ q < 32, e = (.FAB_PRIO p q, .FAB_PRIO_ACT p q)) (h : a.1.key = e.1.key) : a = e := by
  have hd := dealLen_le p
  have hq := lastRequester_le p
  have hlow : e.1.key < 0xF00006000000 := by
    rcases he with ⟨k, hk, rfl⟩ | rfl | ⟨q, hk, rfl⟩ <;> simp only [Reg.key] <;> omega
  simp only [shadowPairs, List.mem_append, List.mem_map, List.mem_range, List.mem_singleton] at ha
  rcases ha with ((⟨j, hj, rfl⟩ | rfl) | ⟨j, hj, rfl⟩) | ha
  · rcases he with ⟨k, hk, rfl⟩ | rfl | ⟨q, hk, rfl⟩ <;> simp only [Reg.key] at h
    · rw [show j = k by omega]
    · omega
    · omega
  · rcases he with ⟨k, hk, rfl⟩ | rfl | ⟨q, hk, rfl⟩ <;> simp only [Reg.key] at h
    · omega
    · rfl
    · omega
  · rcases he with ⟨k, hk, rfl⟩ | rfl | ⟨q, hk, rfl⟩ <;> simp only [Reg.key] at h
    · omega
    · omega
    · rw [show j = q by omega]
  · split at ha
    · obtain ⟨x, -, hx⟩ := List.mem_filterMap.mp ha
      split at hx
      · cases hx
        simp only [Reg.key] at h hlow
        omega
      · cases hx
    · cases ha

/-! ### The transfers at the boundary (R113) -/

/-- Nothing but registers, fault injection and arbitration points differs. -/
def onlyPoints (s t : State) : Prop := t = { s with regs := t.regs, points := t.points, flips := t.flips }

theorem onlyPoints.trans {s t u : State} (h : onlyPoints s t) (h' : onlyPoints t u) : onlyPoints s u := by
  rw [onlyPoints] at *; rw [h', h]

theorem sameUnits.onlyPoints {s t : State} (h : sameUnits s t) : onlyPoints s t := by
  rw [sameUnits] at h; rw [Machine.onlyPoints, h]

theorem onlyPoints_setPoint (s : State) (p : Nat) (x : Point) : onlyPoints s (s.setPoint p x) := rfl

/-- Nothing but one point, its count of preemptions and no commit or trick of it has changed. -/
structure PreemptOnly (p : Nat) (s t : State) : Prop where
  commit : (t.point p).commit = (s.point p).commit
  trick : (t.point p).trick = (s.point p).trick
  points : pointsBut s t [p]
  regs : regsBut s t [.FAB_PREEMPTS p]
  rest : onlyPoints s t

theorem PreemptOnly.refl (p : Nat) (s : State) : PreemptOnly p s s := ⟨rfl, rfl, fun _ _ => rfl, fun _ _ => rfl, rfl⟩

theorem PreemptOnly.trans {p : Nat} {s t u : State} (h : PreemptOnly p s t) (h' : PreemptOnly p t u) : PreemptOnly p s u :=
  ⟨h'.commit.trans h.commit, h'.trick.trans h.trick, fun q hq => (h'.points q hq).trans (h.points q hq),
    fun r hr => (h'.regs r hr).trans (h.regs r hr), h.rest.trans h'.rest⟩

theorem preemptOnly_restart (s : State) (p : Nat) {y : Point} (hc : y.commit = (s.point p).commit) (ht : y.trick = (s.point p).trick) (f : Fld) :
    PreemptOnly p s ((s.setPoint p y).inc (.FAB_PREEMPTS p) f) := by
  have hpt : ((s.setPoint p y).inc (.FAB_PREEMPTS p) f).point p = y := State.point_setPoint_self ..
  refine ⟨by rw [hpt, hc], by rw [hpt, ht], fun q hq => ?_, fun r hr => ?_, rfl⟩
  · exact State.point_setPoint_ne _ _ _ _ (by simpa using hq)
  · exact State.rd_put_ne (hr _ List.mem_cons_self) ..

theorem preemptOnly_boundary (s : State) (p : Nat) (changed : Bool) : PreemptOnly p s (boundaryPreempt s p changed) := by
  unfold boundaryPreempt
  extract_lets new
  refine overAll_rel (R := PreemptOnly p) (PreemptOnly.refl p) PreemptOnly.trans (fun t e => ?_) _ s
  extract_lets x cont y y'
  split
  · exact preemptOnly_restart t p (by dsimp only [y']; split <;> rfl) (by dsimp only [y']; split <;> rfl) _
  · exact PreemptOnly.refl p t

/-- The copy of the shadow registers, and the point without its COMMIT. -/
def shadowCopied (s : State) (p : Nat) : State :=
  let t := overAll (shadowPairs s p) (switchReg (s.point p).rcvd false) s
  t.setPoint p { t.point p with commit := none, commitIn := false, rcvd := [], lostWord := [] }

theorem key_fabPreempts (p : Nat) : (Reg.FAB_PREEMPTS p).key = 0xF00001101010 + p * 0x40 := by simp only [Reg.key]

theorem switchPoint_eq (s : State) {p : Nat} (hp : 0x10 ≤ p) : ∃ changed, switchPoint s p =
    (boundaryPreempt (shadowCopied s p) p changed).wr .FAB_COMMIT_PEND
      ((boundaryPreempt (shadowCopied s p) p changed).rd .FAB_COMMIT_PEND &&& ~~~ BitVec.ofNat 64 (2 ^ p)) := by
  have hd : decide (p < 0x10) = false := decide_eq_false (by omega)
  unfold switchPoint
  rw [hd]
  exact ⟨_, rfl⟩

section Switch
variable {s : State} {p : Nat} (hp : 0x10 ≤ p) (hp' : p < 64)
include hp hp'

theorem rd_switchPoint_active {e : Reg × Reg} (hm : e ∈ shadowPairs s p)
    (he : (∃ k < 128, e = (.FAB_DEAL p k, .FAB_DEAL_ACT p k)) ∨ e = (.FAB_BURST p, .FAB_BURST_ACT p) ∨
      ∃ q < 32, e = (.FAB_PRIO p q, .FAB_PRIO_ACT p q)) : (switchPoint s p).rd e.2 = s.rd e.1 := by
  have hpair := shadowPair_of_mem hm
  have hlow : e.1.key < 0xF00001080000 := by
    rcases he with ⟨k, hk, rfl⟩ | rfl | ⟨q, hk, rfl⟩ <;> simp only [Reg.key] <;> omega
  obtain ⟨hg, -⟩ := id hpair
  obtain ⟨changed, hx⟩ := switchPoint_eq s hp
  rw [hx, State.rd_wr_ne _ _ _ _ (by rw [show Reg.FAB_COMMIT_PEND.key = 0xF00001100008 from rfl]; omega),
    (preemptOnly_boundary ..).regs _ (by simp only [List.mem_singleton, forall_eq, key_fabPreempts]; omega)]
  exact rd_copied hp' _ (fun a ha => shadowPair_of_mem ha) hpair (fun a ha h => eq_of_shadowPair_key hp' ha he h) s (.inl hm)

theorem rd_switchPoint_pend : (switchPoint s p).rd .FAB_COMMIT_PEND = s.rd .FAB_COMMIT_PEND &&& ~~~ BitVec.ofNat 64 (2 ^ p) := by
  have hk : Reg.FAB_COMMIT_PEND.key = 0xF00001100008 := rfl
  obtain ⟨changed, hx⟩ := switchPoint_eq s hp
  rw [hx, State.rd_wr_self, (preemptOnly_boundary ..).regs _ (by simp only [List.mem_singleton, forall_eq, key_fabPreempts, hk]; omega)]
  congr 1
  refine rd_copied_of_out (p := p) _ (fun a ha => shadowPair_of_mem ha) (by rw [hk]; decide) (fun a ha => ?_) s
  obtain ⟨hg, hpl⟩ := shadowPair_of_mem ha
  rw [hk]; omega

theorem switchPoint_points : ((switchPoint s p).point p).commit = none ∧ ((switchPoint s p).point p).trick = (s.point p).trick ∧
    pointsBut s (switchPoint s p) [p] ∧
    switchPoint s p = { s with regs := (switchPoint s p).regs, points := (switchPoint s p).points, flips := (switchPoint s p).flips } := by
  obtain ⟨changed, hx⟩ := switchPoint_eq s hp
  have hu : sameUnits s (overAll (shadowPairs s p) (switchReg (s.point p).rcvd false) s) :=
    overAll_rel sameUnits_refl sameUnits.trans (fun t e => sameUnits_switchReg _ t e) _ s
  have hpt : ∀ q, (overAll (shadowPairs s p) (switchReg (s.point p).rcvd false) s).point q = s.point q := fun q => by rw [hu]; rfl
  have hb := preemptOnly_boundary (shadowCopied s p) p changed
  have hself : (shadowCopied s p).point p = { s.point p with commit := none, commitIn := false, rcvd := [], lostWord := [] } :=
    (State.point_setPoint_self ..).trans (by rw [hpt])
  rw [hx]
  refine ⟨hb.commit.trans (by rw [hself]), hb.trick.trans (by rw [hself]), fun q hq => ?_, ?_⟩
  · exact (hb.points q hq).trans ((State.point_setPoint_ne _ _ _ _ (by simpa using hq)).trans (hpt q))
  · exact ((hu.onlyPoints.trans (onlyPoints_setPoint ..)).trans hb.rest).trans (sameUnits_wr ..).onlyPoints

end Switch

theorem atSwitch_of_none {s : State} {p : Nat} (h : (s.point p).commit = none) : atSwitch s p = false := by
  unfold atSwitch; dsimp only; rw [h]

theorem atSwitch_of_trick {s : State} {p : Nat} (h : trickOf s p ≠ 0) : atSwitch s p = false := by
  unfold atSwitch
  dsimp only
  split
  · simp [h]
  · rfl

/-! ### A lost word comes back (R447) -/

section Reload
variable {p : Fin 64} {k : Fin 384} {s : State} (hk : k.val ∈ (s.point p).lostWord) (hr : (s.point p).reload ≤ roundOf s p) (ht : trickOf s p = 0)
include hk hr ht

/-- The state with the lost word's mark taken off. -/
def wordFound (s : State) (p k : Nat) : State := s.setPoint p { s.point p with lostWord := (s.point p).lostWord.filter (fun j => j != k) }

theorem exec_dealWordReload : exec (.dealWordReload p k) s = .next (if 0x100 ≤ k.val then
      (wordFound s p k).wr (.FAB_PRIO_ACT p (k.val - 0x100)) (Reg.FAB_PRIO_ACT p (k.val - 0x100)).reset
    else ((wordFound s p k).wr (.FAB_DEAL p k) (dealWord s.folio p k)).wr (.FAB_DEAL_ACT p k) (dealWord s.folio p k)) := by
  refine (if_pos ⟨List.contains_iff_mem.mpr hk, hr, ht⟩).trans ?_
  exact (apply_ite Host.Outcome.next _ _ _).symm

end Reload

theorem get_prioReset (p q : Nat) : F.FAB_PRIO_PRIO.get (Reg.FAB_PRIO_ACT p q).reset = prioReset p q := by
  have h : (Reg.FAB_PRIO_ACT p q).reset = Fld.put ⟨3, 0⟩ 0 (prioReset p q) := rfl
  rw [h, prioReset]
  split <;> rfl

theorem activePrio_of_lost {s : State} {p q : Nat} (h : prioWord q ∈ (s.point p).lostWord) : activePrio s p q = prioReset p q := by
  rw [activePrio, List.contains_iff_mem.mpr h, if_pos rfl, get_prioReset]

theorem mem_shadowPairs_deal (s : State) {p k : Nat} (h : k < dealLen p / 8) : (Reg.FAB_DEAL p k, Reg.FAB_DEAL_ACT p k) ∈ shadowPairs s p := by
  simp only [shadowPairs, List.mem_append, List.mem_map, List.mem_range]
  exact .inl (.inl (.inl ⟨k, h, rfl⟩))

theorem mem_shadowPairs_burst (s : State) (p : Nat) : (Reg.FAB_BURST p, Reg.FAB_BURST_ACT p) ∈ shadowPairs s p := by
  simp only [shadowPairs, List.mem_append]
  exact .inl (.inl (.inr List.mem_cons_self))

theorem mem_shadowPairs_prio (s : State) {p q : Nat} (h : q ≤ lastRequester p) : (Reg.FAB_PRIO p q, Reg.FAB_PRIO_ACT p q) ∈ shadowPairs s p := by
  simp only [shadowPairs, List.mem_append, List.mem_map, List.mem_range]
  exact .inl (.inr ⟨q, by omega, rfl⟩)

theorem pointSwitch_of_not {p : Fin 64} {s : State} (h : atSwitch s p = false) : exec (.pointSwitch p) s = .next s :=
  if_neg (by simp [h])

theorem point_wordFound_self (s : State) (p k : Nat) :
    (wordFound s p k).point p = { s.point p with lostWord := (s.point p).lostWord.filter (fun j => j != k) } := State.point_setPoint_self ..

theorem pointsBut_wordFound (s : State) (p k : Nat) : pointsBut s (wordFound s p k) [p] :=
  fun q hq => State.point_setPoint_ne _ _ _ _ (by simpa using hq)

/-- Settles O8, by the copy of each shadow register and by the point's other fields. -/
theorem fabricSwitch : Obligations.FabricSwitch := by
  refine ⟨fun p s hp hsw hadd => ?_, fun p s h => ?_, fun p k s hk hm hr ht => ?_, fun p q k s hk hm hr ht => ?_⟩
  · have hx : exec (.pointSwitch p) s = .next (switchPoint s p) := by
      refine (if_pos hsw).trans ?_
      rw [hadd]; rfl
    obtain ⟨hc, htr, hpt, hrest⟩ := switchPoint_points (s := s) hp p.isLt
    have hd := dealLen_le p
    have hq' := lastRequester_le p
    refine ⟨_, hx, fun k hk => ?_, ?_, fun q hq => ?_, rd_switchPoint_pend hp p.isLt, hc, htr, hpt, hrest⟩
    · exact rd_switchPoint_active hp p.isLt (mem_shadowPairs_deal s hk) (.inl ⟨k, by omega, rfl⟩)
    · exact rd_switchPoint_active hp p.isLt (mem_shadowPairs_burst s p) (.inr (.inl rfl))
    · exact rd_switchPoint_active hp p.isLt (mem_shadowPairs_prio s hq) (.inr (.inr ⟨q, by omega, rfl⟩))
  · exact pointSwitch_of_not (h.elim atSwitch_of_none atSwitch_of_trick)
  · have hx := exec_dealWordReload hm hr ht
    rw [if_neg (by omega)] at hx
    refine ⟨_, hx, State.rd_wr_self .., ?_, ?_, fun p' hp' => ?_, fun r hreg => ?_, rfl⟩
    · exact (State.rd_wr_ne _ _ _ _ (by simp only [Reg.key]; omega)).trans (State.rd_wr_self ..)
    · exact point_wordFound_self ..
    · exact pointsBut_wordFound s p k p' hp'
    · exact (State.rd_wr_ne _ _ _ _ (hreg _ (List.mem_cons_of_mem _ List.mem_cons_self))).trans (State.rd_wr_ne _ _ _ _ (hreg _ List.mem_cons_self))
  · have hx := exec_dealWordReload hm hr ht
    have hq : k.val - 0x100 = q := by omega
    rw [if_pos (by omega), hq] at hx
    refine ⟨activePrio_of_lost (by rwa [prioWord, ← hk]), _, hx, ?_, ?_, fun p' hp' => ?_, fun r hreg => ?_, rfl⟩
    · rw [activePrio, if_neg]
      · rw [State.get_wr_self, get_prioReset]
      · rw [State.point_wr, point_wordFound_self, List.contains_iff_mem, List.mem_filter, prioWord, hk]
        simp
    · exact point_wordFound_self ..
    · exact pointsBut_wordFound s p k p' hp'
    · exact State.rd_wr_ne _ _ _ _ (hreg _ List.mem_cons_self)

end Sys2Proof.Machine
end

section
/-! SUPPORT. The decision of a trick at a home slice, and the end of grants. -/

namespace Sys2Proof.Machine

/-! ### The candidates of a home slice, and the choice among those of a hand (R99, R100) -/

/-- The candidate that a waiting message is, by its place. -/
def candOf (e : Ready × Nat) : Cand := ⟨e.1.q, e.1.msg.hand, opRank e.1.msg.op, opTrump e.1.msg.op, 0, e.2⟩

theorem candsOf_of_slice (s : State) {p : Nat} (hp : 0x20 ≤ p) (l : List Ready) : candsOf s p l = l.zipIdx.map candOf := by
  unfold candsOf
  rw [List.filter_eq_self.mpr fun e _ => by rw [decide_eq_true hp, Bool.true_or]]
  rfl

theorem mem_candsOf {s : State} {p : Nat} (hp : 0x20 ≤ p) {l : List Ready} {c : Cand} :
    c ∈ candsOf s p l ↔ ∃ r, l[c.idx]? = some r ∧ c = candOf (r, c.idx) := by
  rw [candsOf_of_slice s hp, List.mem_map]
  constructor
  · rintro ⟨⟨r, i⟩, he, rfl⟩
    exact ⟨r, List.mem_zipIdx_iff_getElem?.mp he, rfl⟩
  · rintro ⟨r, hr, hc⟩
    exact ⟨(r, c.idx), List.mem_zipIdx_iff_getElem?.mpr hr, hc.symm⟩

/-- The better of the candidate found so far and the next. -/
def betterCand (b : Option Cand) (c : Cand) : Option Cand :=
  match b with
  | none => some c
  | some d => if c.rank < d.rank then some c else b

theorem betterCand_mem (l : List Cand) (d : Cand) : ∃ c ∈ d :: l, l.foldl betterCand (some d) = some c := by
  induction l generalizing d with
  | nil => exact ⟨d, List.mem_cons_self, rfl⟩
  | cons e l ih =>
    have he : betterCand (some d) e = some (if e.rank < d.rank then e else d) := (apply_ite some _ _ _).symm
    rw [List.foldl_cons, he]
    obtain ⟨c, hc, h⟩ := ih (if e.rank < d.rank then e else d)
    refine ⟨c, ?_, h⟩
    rcases List.mem_cons.mp hc with rfl | hc
    · split
      · exact List.mem_cons_of_mem _ List.mem_cons_self
      · exact List.mem_cons_self
    · exact List.mem_cons_of_mem _ (List.mem_cons_of_mem _ hc)

theorem selectInHand_mem {l : List Cand} (h : l ≠ []) : ∃ c ∈ l, selectInHand l = some c := by
  obtain ⟨d, l, rfl⟩ := List.exists_cons_of_ne_nil h
  exact betterCand_mem l d

theorem length_dropAt {α : Type} {l : List α} {i : Nat} (h : i < l.length) : (dropAt l i).length + 1 = l.length := by
  rw [dropAt, List.length_append, List.length_take, List.length_drop]
  omega

/-! ### A trick of a home slice, step by step -/

section Trick
variable {s : State} {p : Nat}

theorem iodSram_of_clean {st u i : Nat} (h : sramBits s st u i = 0) : s.iodSram st u i = (false, s) := by
  unfold State.iodSram; rw [h]; rfl

theorem wordCheck_of_clean {k : Nat} (h : sramBits s 10 (0x2500 + p) k = 0) : wordCheck p s k = s := by
  unfold wordCheck; rw [iodSram_of_clean h]; rfl

theorem expireGrant_of_none (h : (s.point p).holder = none) : expireGrant s p = s := by
  unfold expireGrant; dsimp only; rw [h]

theorem cutOff_of_none (h : (s.point p).holder = none) : cutOff s p = s := by
  unfold cutOff; dsimp only; rw [h]

theorem startTrick_of_due (h : (s.point p).next ≤ s.cycle) : startTrick s p = s := if_neg (by omega)

theorem iodPoint_of_slice {n : Nat} (hn : n < 16) : iodPoint (0x20 + n) = true := by simp [iodPoint]; omega

theorem nextTrick_of_slice (h : iodPoint p = true) : nextTrick s p = s.setPoint p { s.point p with next := s.cycle + 1 } := if_pos h

end Trick

theorem exec_arbitrateSlice {n : Fin 16} {p : Fin 64} (hp : p.val = 0x20 + n.val) {s : State} (hf : pointFolded s p = false) (sc : Fin 2) :
    exec (.arbitrateTrick .slice n sc) s = .next (nextTrick (playTrick (startTrick s p) p) p) := by
  have he : pointNo .slice n = p := Fin.ext hp.symm
  have h : exec (.arbitrateTrick .slice n sc) s =
      if pointFolded s (pointNo .slice n) then .next s else .next (fabricTrick s (pointNo .slice n)) := rfl
  rw [h, he, hf, if_neg Bool.false_ne_true, fabricTrick]
  exact congrArg _ (if_pos (by omega))

section Decision
variable {s : State} {p : Nat}

/-- A trick dealt to a hand with a candidate goes to one of its candidates, where no grant is in force (R99). -/
theorem decidePoint_dealt (hp : 0x20 ≤ p) {h : Nat} (hh : h ≤ 0x3F) (ho : trickOwner s p (trickOf s p) = h)
    (hr : ∃ r ∈ (s.point p).ready, r.msg.hand = h) :
    ∃ c r, (s.point p).ready[c.idx]? = some r ∧ c = candOf (r, c.idx) ∧ r.msg.hand = h ∧ decidePoint p s = .dealt c := by
  obtain ⟨r0, hr0, hh0⟩ := hr
  obtain ⟨i, hi, hri⟩ := List.getElem_of_mem hr0
  have hne : (candsOf s p (s.point p).ready).filter (fun c => c.hand == h) ≠ [] := by
    have hm : candOf (r0, i) ∈ candsOf s p (s.point p).ready :=
      (mem_candsOf hp).mpr ⟨r0, (List.getElem?_eq_getElem hi).trans (congrArg _ hri), rfl⟩
    exact List.ne_nil_of_mem (List.mem_filter.mpr ⟨hm, beq_iff_eq.mpr hh0⟩)
  obtain ⟨c, hc, hsel⟩ := selectInHand_mem hne
  obtain ⟨hc, hch⟩ := List.mem_filter.mp hc
  obtain ⟨r, hr, hcr⟩ := (mem_candsOf hp).mp hc
  refine ⟨c, r, hr, hcr, ?_, ?_⟩
  · rw [hcr] at hch; exact beq_iff_eq.mp hch
  · unfold decidePoint decideTrick
    dsimp only
    rw [ho, if_pos hh, hsel]

theorem decideChecked_dealt {l : List Cand} {d : State → Pick} {c : Cand} (hd : sramBits s 10 (0x2500 + p) (trickOf s p / 8) = 0) (h : d s = .dealt c) :
    decideChecked s p l d = (s, .dealt c) := by
  unfold decideChecked dealCheck
  rw [wordCheck_of_clean hd]
  dsimp only
  rw [h]
  rfl

/-- The point after the message of a candidate has won. -/
def won (x : Point) (c : Cand) : Point := { x with ready := dropAt x.ready c.idx, winner := x.ready[c.idx]? }

/-- A trick of a home slice that a candidate wins: its message leaves, the pick acts on the grant, a class D message is staged, and a
grant that is used up ends. -/
theorem playTrick_of_won (hp : 0x20 ≤ p) {pk : Pick} {c : Cand} {r : Ready} (hr : (s.point p).ready[c.idx]? = some r) (hs : pk.sent = some c)
    (hd : decideChecked s p (candsOf s p (s.point p).ready) (decidePoint p) = (s, pk)) :
    playTrick s p =
      let u := applyPick (s.setPoint p (won (s.point p) c)) p pk
      let v := if classD p r.q then stageMsg u p pk r else u
      cutOff (expireGrant v p) p := by
  unfold playTrick
  rw [hd]
  dsimp only
  rw [hs, if_neg (by omega), Option.bind_some, hr]
  rw [won, hr]

end Decision

section Dealt
variable {s : State} {p : Nat} (hp : 0x20 ≤ p) (hp' : p < 0x30)
include hp hp'

theorem countPick_dealt (c : Cand) : countPick s p (.dealt c) = s.countBlk (p - 0x10) 0x0202 1 := if_neg (by omega)

theorem countPick_granted (c : Cand) : countPick s p (.granted c) = s.countBlk (p - 0x10) 0x0203 1 := if_neg (by omega)

theorem applyPick_dealt (hh : (s.point p).holder = none) (c : Cand) : applyPick s p (.dealt c) = s.countBlk (p - 0x10) 0x0202 1 := by
  have hh' : ((s.countBlk (p - 0x10) 0x0202 1).point p).holder = none := hh
  unfold applyPick
  rw [countPick_dealt hp hp']
  dsimp only
  rw [hh']

theorem applyPick_granted (hh : (s.point p).holder = none) (c : Cand) : applyPick s p (.granted c) =
    (s.countBlk (p - 0x10) 0x0203 1).setPoint p { s.point p with holder := some c.q, burst := 1, last := some c.q } := by
  have hh' : ((s.countBlk (p - 0x10) 0x0203 1).point p).holder = none := hh
  unfold applyPick
  rw [countPick_granted hp hp']
  dsimp only
  rw [hh']
  exact if_neg (by simp)

end Dealt

/-! ### One message alone at a home slice (R95, R99, R101, R103) -/

section Alone
variable {s : State} {p : Nat} {r : Ready} (hp : 0x20 ≤ p) (hp' : p < 0x30) (hr : (s.point p).ready = [r])
include hp hr

theorem candsOf_alone : candsOf s p (s.point p).ready = [candOf (r, 0)] := by
  rw [hr, candsOf_of_slice s hp]; rfl

theorem decidePoint_granted (hh : (s.point p).holder = none) (ht : opTrump r.msg.op = false) (ho : trickOwner s p (trickOf s p) = 0xFF)
    (hc : isCut s p r.q = false) : decidePoint p s = .granted (candOf (r, 0)) := by
  have hsel : fallbackPick (lastRequester p + 1) ((s.point p).last.getD (lastRequester p)) (activePrio s p) (isCut s p) [candOf (r, 0)] =
      some (candOf (r, 0)) := by
    unfold fallbackPick
    rw [List.filter_cons_of_pos (by simp [candOf, hc])]
    rfl
  have htr : [candOf (r, 0)].filter (fun c => c.trump) = [] := List.filter_cons_of_neg (by simp [candOf, ht])
  unfold decidePoint decideTrick
  dsimp only
  rw [candsOf_alone hp hr, hsel, ho, hh, htr]
  rfl

theorem decideChecked_granted {c : Cand} (hh : (s.point p).holder = none) (hd : sramBits s 10 (0x2500 + p) (trickOf s p / 8) = 0)
    (hq : sramBits s 10 (0x2500 + p) (0x100 + r.q) = 0) (h : decidePoint p s = .granted c) :
    decideChecked s p (candsOf s p (s.point p).ready) (decidePoint p) = (s, .granted c) := by
  have hw : overAll ([candOf (r, 0)].map (fun c => prioWord c.q)) (wordCheck p) s = s := wordCheck_of_clean hq
  unfold decideChecked dealCheck
  rw [wordCheck_of_clean hd]
  dsimp only
  rw [h, hh, candsOf_alone hp hr, hw, h]
  rfl

end Alone

section Ends
variable {s : State} {p : Nat}

/-- A class A message wins a dealt trick with no grant in force. -/
theorem playTrick_dealt (hp : 0x20 ≤ p) (hp' : p < 0x30) (hh : (s.point p).holder = none) {c : Cand} {r : Ready} (hr : (s.point p).ready[c.idx]? = some r)
    (hd : decideChecked s p (candsOf s p (s.point p).ready) (decidePoint p) = (s, .dealt c)) (hc : classD p r.q = false) :
    playTrick s p = (s.setPoint p (won (s.point p) c)).countBlk (p - 0x10) 0x0202 1 := by
  have hpt : (s.setPoint p (won (s.point p) c)).point p = won (s.point p) c := State.point_setPoint_self ..
  rw [playTrick_of_won hp hr rfl hd, applyPick_dealt hp hp' (by rw [hpt]; exact hh), hc]
  have hh' : (((s.setPoint p (won (s.point p) c)).countBlk (p - 0x10) 0x0202 1).point p).holder = none := (congrArg _ hpt).trans hh
  dsimp only
  rw [if_neg Bool.false_ne_true, expireGrant_of_none hh', cutOff_of_none hh']

theorem expireGrant_of_short {q : Nat} (hq : (s.point p).holder = some q)
    (h : (s.point p).burst < s.get (.FAB_BURST_ACT p) F.FAB_BURST_BURST_LIMIT ∨ (classD p q = true ∧ unfinished (s.point p) q = true)) :
    expireGrant s p = s := by
  unfold expireGrant
  dsimp only
  rw [hq]
  exact if_neg fun ⟨hb, hc⟩ => h.elim (fun h => by omega) hc

theorem cutOff_of_classA {q : Nat} (hq : (s.point p).holder = some q) (hc : classD p q = false) : cutOff s p = s := by
  unfold cutOff
  dsimp only
  rw [hq]
  exact if_neg fun ⟨h, _⟩ => by simp [hc] at h

end Ends

/-- A trick decided and counted: point `p` is `x`, the event has happened once more, and nothing else has changed. -/
structure TrickDone (s : State) (p u ev : Nat) (x : Point) (t : State) : Prop where
  point : t.point p = x
  count : t.eventCount u ev = s.eventCount u ev + 1
  events : eventsBut s t [(u, ev)]
  points : pointsBut s t [p]
  rest : t = { s with points := t.points, events := t.events }

theorem TrickDone.start (s : State) (p u ev : Nat) (x : Point) : TrickDone s p u ev x ((s.setPoint p x).countEv u ev 1) :=
  ⟨State.point_setPoint_self .., eventCount_countEv_self .., eventsBut_countEv (s.setPoint p x) u ev 1,
    fun q hq => State.point_setPoint_ne _ _ _ _ (by simpa using hq), rfl⟩

theorem TrickDone.setPoint {s t : State} {p u ev : Nat} {x : Point} (h : TrickDone s p u ev x t) (y : Point) : TrickDone s p u ev y (t.setPoint p y) :=
  ⟨State.point_setPoint_self .., h.count, h.events, fun q hq => (State.point_setPoint_ne _ _ _ _ (by simpa using hq)).trans (h.points q hq),
    by rw [State.setPoint, h.rest]⟩

theorem TrickDone.nextTrick {s t : State} {p u ev : Nat} {x : Point} (h : TrickDone s p u ev x t) (hp : iodPoint p = true) :
    TrickDone s p u ev { x with next := s.cycle + 1 } (nextTrick t p) := by
  have hc : t.cycle = s.cycle := by rw [h.rest]
  rw [nextTrick_of_slice hp, h.point, hc]
  exact h.setPoint _

theorem trickDealtAlone {n : Fin 16} {p : Fin 64} {sc : Fin 2} {s : State} {r : Ready} (hp : p.val = 0x20 + n.val) (hf : pointFolded s p = false)
    (hn : (s.point p).next ≤ s.cycle) (hh : (s.point p).holder = none) (hr : (s.point p).ready = [r]) (hc : classD p r.q = false)
    (hd : sramBits s 10 (0x2500 + p.val) (trickOf s p / 8) = 0) (hhand : r.msg.hand ≤ 0x3F) (ho : trickOwner s p (trickOf s p) = r.msg.hand) :
    ∃ t, exec (.arbitrateTrick .slice n sc) s = .next t ∧
      t.point p = { s.point p with ready := [], winner := some r, next := s.cycle + 1 } ∧
      t.eventCount (0x1010 + n.val) 0x0202 = s.eventCount (0x1010 + n.val) 0x0202 + 1 ∧
      eventsBut s t [(0x1010 + n.val, 0x0202)] ∧
      pointsBut s t [p.val] ∧ t = { s with points := t.points, events := t.events } := by
  have h20 : 0x20 ≤ p.val := by omega
  have hio : iodPoint p = true := hp ▸ iodPoint_of_slice n.isLt
  obtain ⟨c, r', hr', hcr, -, hdec⟩ := decidePoint_dealt h20 hhand ho ⟨r, by rw [hr]; exact List.mem_cons_self, rfl⟩
  have hi : c.idx = 0 := by
    rw [hr] at hr'
    exact Nat.lt_one_iff.mp (List.getElem?_eq_some_iff.mp hr').1
  obtain rfl : r = r' := by
    rw [hr, hi] at hr'
    exact Option.some.inj hr'
  have hx := playTrick_dealt h20 (by omega) hh hr' (decideChecked_dealt hd hdec) hc
  have hw : won (s.point p) c = { s.point p with ready := [], winner := some r } := by
    rw [won, hi, hr]; rfl
  have hu : 0x1000 + (p.val - 0x10) = 0x1010 + n.val := by omega
  rw [hw, State.countBlk, hu] at hx
  have ht := (TrickDone.start s p (0x1010 + n.val) 0x0202 { s.point p with ready := [], winner := some r }).nextTrick hio
  exact ⟨_, (exec_arbitrateSlice hp hf sc).trans (by rw [startTrick_of_due hn, hx]), ht.point, ht.count, ht.events, ht.points, ht.rest⟩

theorem trickGrantedAlone {n : Fin 16} {p : Fin 64} {sc : Fin 2} {s : State} {r : Ready} (hp : p.val = 0x20 + n.val) (hf : pointFolded s p = false)
    (hn : (s.point p).next ≤ s.cycle) (hh : (s.point p).holder = none) (hr : (s.point p).ready = [r]) (hc : classD p r.q = false)
    (ht : opTrump r.msg.op = false) (hd : sramBits s 10 (0x2500 + p.val) (trickOf s p / 8) = 0) (ho : trickOwner s p (trickOf s p) = 0xFF)
    (hq : sramBits s 10 (0x2500 + p.val) (0x100 + r.q) = 0) (hcut : isCut s p r.q = false)
    (hb : 1 < s.get (.FAB_BURST_ACT p) F.FAB_BURST_BURST_LIMIT) :
    ∃ t, exec (.arbitrateTrick .slice n sc) s = .next t ∧
      t.point p = { s.point p with
        ready := [], winner := some r, holder := some r.q, burst := 1, last := some r.q, next := s.cycle + 1 } ∧
      t.eventCount (0x1010 + n.val) 0x0203 = s.eventCount (0x1010 + n.val) 0x0203 + 1 ∧
      eventsBut s t [(0x1010 + n.val, 0x0203)] ∧
      pointsBut s t [p.val] ∧ t = { s with points := t.points, events := t.events } := by
  have h20 : 0x20 ≤ p.val := by omega
  have hio : iodPoint p = true := hp ▸ iodPoint_of_slice n.isLt
  have hch := decideChecked_granted h20 hr hh hd hq (decidePoint_granted h20 hr hh ht ho hcut)
  have hw : won (s.point p) (candOf (r, 0)) = { s.point p with ready := [], winner := some r } := by
    rw [won, hr]; rfl
  have hu : 0x1000 + (p.val - 0x10) = 0x1010 + n.val := by omega
  have hpt : (s.setPoint p (won (s.point p) (candOf (r, 0)))).point p = won (s.point p) (candOf (r, 0)) := State.point_setPoint_self ..
  have hg := (TrickDone.start s p (0x1010 + n.val) 0x0203 { s.point p with ready := [], winner := some r }).setPoint
    { s.point p with ready := [], winner := some r, holder := some r.q, burst := 1, last := some r.q }
  have hx : playTrick s p = ((s.setPoint p { s.point p with ready := [], winner := some r }).countEv (0x1010 + n.val) 0x0203 1).setPoint p
      { s.point p with ready := [], winner := some r, holder := some r.q, burst := 1, last := some r.q } := by
    rw [playTrick_of_won h20 (by rw [hr]; rfl) rfl hch, applyPick_granted h20 (by omega) (by rw [hpt]; exact hh), hpt, hw, State.countBlk, hu]
    dsimp only [candOf]
    rw [hc, if_neg Bool.false_ne_true]
    rw [expireGrant_of_short (q := r.q) (by rw [hg.point]) (.inl ?_), cutOff_of_classA (q := r.q) (by rw [hg.point]) hc]
    rw [hg.point]
    exact hb
  have ht := hg.nextTrick hio
  exact ⟨_, (exec_arbitrateSlice hp hf sc).trans (by rw [startTrick_of_due hn, hx]), ht.point, ht.count, ht.events, ht.points, ht.rest⟩

theorem fabricTrickOne : Claim.FabricTrickOne := by
  refine ⟨fun n p sc s r hp hf hn hh hr hc hd hhand ho => trickDealtAlone hp hf hn hh hr hc hd hhand ho,
    fun n p sc s r hp hf hn hh hr hc ht hd ho hq hcut hb => trickGrantedAlone hp hf hn hh hr hc ht hd ho hq hcut hb,
    fun n p sc s hp hf hn => ?_, fun k n sc s hf => ?_⟩
  · rw [exec_arbitrateSlice hp hf, exec_arbitrateSlice hp (s := { s with cycle := (s.point p).next }) hf]
    have hio : iodPoint p = true := hp ▸ iodPoint_of_slice n.isLt
    rw [startTrick, if_pos ⟨hio, hn⟩]
    exact congrArg (fun u => Host.Outcome.next (nextTrick (playTrick u p) p)) (startTrick_of_due (s := { s with cycle := (s.point p).next }) (le_refl _)).symm
  · exact if_pos hf

/-! ### A dealt trick (R99, R113) -/

/-- The point after a dealt trick with no grant in force, whatever the class of the winner. -/
theorem playTrick_dealt_point {s : State} {p : Nat} (hp : 0x20 ≤ p) (hp' : p < 0x30) (hh : (s.point p).holder = none) {c : Cand} {r : Ready}
    (hr : (s.point p).ready[c.idx]? = some r)
    (hd : decideChecked s p (candsOf s p (s.point p).ready) (decidePoint p) = (s, .dealt c)) :
    ((playTrick s p).point p).winner = some r ∧ (classD p r.q = true → ((playTrick s p).point p).owners.get? r.q = some (some c.hand)) ∧
    ((playTrick s p).point p).holder = none ∧ ((playTrick s p).point p).ready.length + 1 = (s.point p).ready.length := by
  have hlen : (won (s.point p) c).ready.length + 1 = (s.point p).ready.length := length_dropAt (List.getElem?_eq_some_iff.mp hr).1
  have hpt : (s.setPoint p (won (s.point p) c)).point p = won (s.point p) c := State.point_setPoint_self ..
  cases hc : classD p r.q with
  | false =>
    have hx : (playTrick s p).point p = won (s.point p) c := by
      rw [playTrick_dealt hp hp' hh hr hd hc]
      exact hpt
    rw [hx]
    exact ⟨hr, fun h => by simp at h, hh, hlen⟩
  | true =>
    let u := (s.setPoint p (won (s.point p) c)).countBlk (p - 0x10) 0x0202 1
    have hu : u.point p = won (s.point p) c := hpt
    have hx : (stageMsg u p (.dealt c) r).point p = { won (s.point p) c with
        staging := (won (s.point p) c).staging.set r.q ((won (s.point p) c).staging.getD r.q [] ++ [r.msg])
        owners := (won (s.point p) c).owners.set r.q (some c.hand) } := by
      unfold stageMsg
      dsimp only
      rw [sameUnits_sramWrite, hu]
      exact State.point_setPoint_self ..
    have hh' : ((stageMsg u p (.dealt c) r).point p).holder = none := by rw [hx]; exact hh
    have hplay : playTrick s p = stageMsg u p (.dealt c) r := by
      rw [playTrick_of_won hp hr rfl hd, applyPick_dealt hp hp' (by rw [hpt]; exact hh), hc]
      dsimp only
      rw [if_pos rfl, expireGrant_of_none hh', cutOff_of_none hh']
    rw [hplay, hx]
    exact ⟨hr, fun _ => NMap.get?_set_self .., hh, hlen⟩

theorem fabricDealt : Claim.FabricDealt := by
  intro n p sc s h hp hf hn hh hd hle ho hex
  have h20 : 0x20 ≤ p.val := by omega
  have h30 : p.val < 0x30 := by omega
  obtain ⟨c, r, hr, hcr, hrh, hdec⟩ := decidePoint_dealt h20 hle ho hex
  have hch : decideChecked s p (candsOf s p (s.point p).ready) (decidePoint p) = (s, .dealt c) := decideChecked_dealt hd hdec
  obtain ⟨hwin, hown, hhold, hlen⟩ := playTrick_dealt_point h20 h30 hh hr hch
  refine ⟨_, r, exec_arbitrateSlice hp hf sc, List.mem_of_getElem? hr, hrh, ?_⟩
  rw [startTrick_of_due hn, nextTrick_of_slice (hp ▸ iodPoint_of_slice n.isLt), State.point_setPoint_self]
  refine ⟨hwin, fun hc => ?_, hhold, hlen⟩
  rw [hown hc, hcr]
  exact congrArg (fun x => some (some x)) hrh

/-! ### Grants that end (R103, R106) -/

theorem key_classCnt (k : Nat) : (Reg.FLT_CLASS_CNT k).key = 0xF00009000100 + k * 8 := by simp only [Reg.key]

theorem classCnt_arriveKept {k : Nat} (hk : k < 32) : arriveKept (.FLT_CLASS_CNT k) := by
  rw [arriveKept, key_classCnt]; omega

theorem rd_classCnt_overflowClass {k : Nat} (hk : k < 29) (s : State) : s.overflowClass.rd (.FLT_CLASS_CNT k) = s.rd (.FLT_CLASS_CNT k) := by
  have hne : (Reg.FLT_CLASS_CNT k).key ≠ (Reg.FLT_CLASS_CNT 29).key := by rw [key_classCnt, key_classCnt]; omega
  unfold State.overflowClass
  dsimp only
  split
  · exact State.rd_inc_ne hne ..
  · rw [rd_arrive (classCnt_arriveKept (by omega)), State.rd_inc_ne hne]

theorem rd_classCnt_writeRecord {k : Nat} (hk : k < 29) (s : State) (e : FaultEv) (v : Nat) :
    (s.writeRecord e v).rd (.FLT_CLASS_CNT k) = s.rd (.FLT_CLASS_CNT k) := by
  have hst : (Reg.FLT_CLASS_CNT k).key ≠ Reg.FLT_STATUS.key := by simp only [Reg.key]; omega
  have htl : (Reg.FLT_CLASS_CNT k).key ≠ Reg.FLT_TAIL.key := by simp only [Reg.key]; omega
  have hrec (i j : Nat) : (Reg.FLT_CLASS_CNT k).key ≠ (Reg.FLT_REC i j).key := by simp only [Reg.key]; omega
  unfold State.writeRecord
  split
  · rw [rd_classCnt_overflowClass hk, State.rd_put_ne hst, State.rd_inc_ne hst]
  · simp only [State.rd_put_ne hst, State.rd_put_ne htl, State.rd_wr_ne _ _ _ _ (hrec _ _)]

theorem get_classCnt_noteFault {e : FaultEv} (he : e.cls < 29) (s : State) (v : Nat) :
    (s.noteFault e v).get (.FLT_CLASS_CNT e.cls) F.FLT_CLASS_CNT_COUNT =
      min (s.get (.FLT_CLASS_CNT e.cls) F.FLT_CLASS_CNT_COUNT + 1) F.FLT_CLASS_CNT_COUNT.top := by
  have hinc := State.get_inc_self s (r := .FLT_CLASS_CNT e.cls) (f := F.FLT_CLASS_CNT_COUNT) (by decide) (by decide)
  unfold State.noteFault
  dsimp only
  split
  · rw [State.get, rd_classCnt_writeRecord he]
    exact hinc
  · rw [State.get, rd_arrive (classCnt_arriveKept (by omega)), rd_classCnt_writeRecord he]
    exact hinc

theorem key_fabCutoff (p k : Nat) : (Reg.FAB_CUTOFF p k).key = 0xF00001101000 + p * 0x40 + k * 8 := by simp only [Reg.key]

/-- A class D holder that has used up its limit by 64 is cut off (R106). -/
theorem cutOff_spec {s : State} {p q : Nat} (hp : p < 64) (hq : (s.point p).holder = some q) (hlt : q < 64) (hc : classD p q = true)
    (hu : unfinished (s.point p) q = true) (hb : s.get (.FAB_BURST_ACT p) F.FAB_BURST_BURST_LIMIT + 64 ≤ (s.point p).burst) :
    ((cutOff s p).rd (.FAB_CUTOFF p 0)).getLsbD q = true ∧
      (cutOff s p).point p = { restartTransfer s.cycle (s.point p) q with holder := none, burst := 0 } ∧ pointsBut s (cutOff s p) [p] ∧
      (cutOff s p).get (.FLT_CLASS_CNT 20) F.FLT_CLASS_CNT_COUNT = min (s.get (.FLT_CLASS_CNT 20) F.FLT_CLASS_CNT_COUNT + 1)
        F.FLT_CLASS_CNT_COUNT.top ∧ onlyPoints s (cutOff s p) := by
  let u := s.setPoint p { restartTransfer s.cycle (s.point p) q with holder := none, burst := 0 }
  let v := u.wr (.FAB_CUTOFF p 0) (u.rd (.FAB_CUTOFF p 0) ||| BitVec.ofNat 64 (2 ^ q))
  have hx : cutOff s p = v.noteFault ⟨20, 0x2500 + p, none, q, 1, 0, 0⟩ 1 := by
    have h0 : q / 64 = 0 := by omega
    have h1 : q % 64 = q := by omega
    unfold cutOff
    dsimp only
    rw [hq]
    refine (if_pos ⟨hc, hu, hb⟩).trans ?_
    rw [h0, h1]
    rfl
  have hn : sameUnits v (v.noteFault ⟨20, 0x2500 + p, none, q, 1, 0, 0⟩ 1) := sameUnits_noteFault ..
  have hpt : ∀ p', (v.noteFault ⟨20, 0x2500 + p, none, q, 1, 0, 0⟩ 1).point p' = u.point p' := fun p' => by rw [hn]; rfl
  rw [hx]
  refine ⟨?_, ?_, fun p' hp' => ?_, ?_, ?_⟩
  · rw [rd_noteFault (by rw [noteKept, key_fabCutoff]; omega) _ (show 20 < 32 by decide), State.rd_wr_self, BitVec.getLsbD_or, BitVec.getLsbD_ofNat,
      Nat.testBit_two_pow_self]
    simp [hlt]
  · exact (hpt p).trans (State.point_setPoint_self ..)
  · exact (hpt p').trans (State.point_setPoint_ne _ _ _ _ (by simpa using hp'))
  · refine (get_classCnt_noteFault (e := ⟨20, 0x2500 + p, none, q, 1, 0, 0⟩) (show 20 < 29 by decide) v 1).trans ?_
    have hne : (Reg.FLT_CLASS_CNT 20).key ≠ (Reg.FAB_CUTOFF p 0).key := by rw [key_classCnt, key_fabCutoff]; omega
    rw [State.get_wr_ne hne]
    rfl
  · exact ((onlyPoints_setPoint ..).trans (sameUnits_wr ..).onlyPoints).trans hn.onlyPoints

theorem fabricGrant : Claim.FabricGrant := by
  refine ⟨fun p s q hq hb hc => ?_, fun p s q hq hb => ?_, fun p s q hq hlt hc hu hb => ?_, fun p s hh => ?_⟩
  · have hx : exec (.fallbackGrantExpire p) s = .next (expireGrant s p) := rfl
    rw [hx]
    unfold expireGrant
    dsimp only
    rw [hq]
    exact congrArg _ (if_pos ⟨hb, fun ⟨h1, h2⟩ => by simp [h1, h2] at hc⟩)
  · exact congrArg _ (expireGrant_of_short hq hb)
  · obtain ⟨h1, h2, h3, h4, h5⟩ := cutOff_spec p.isLt hq hlt hc hu hb
    exact ⟨_, rfl, h1, h2, h3, h4, h5⟩
  · exact congrArg _ (cutOff_of_none hh)

/-- Settles O6, by the decision of the trick and what its pick does to the point. -/
theorem fabricTricks : Obligations.FabricTricks := ⟨fabricTrickOne, fabricDealt, fabricGrant⟩

end Sys2Proof.Machine
end

section
/-! SUPPORT. What a drain of a core's store path leaves as it was: the folio, the cores' registers and translations, and most registers. -/

namespace Sys2Proof.Machine

/-! ### What a drain leaves as it was -/

/-- The registers that no drain writes: those below the call slips but FAB_HAND, and most CSRs (a hand number is not bounded, so the
registers of hands count by their place in 64 bytes). -/
def drainKey (k : Nat) : Bool :=
  decide (k < 0xF00001110000 ∨ (k < 0xF00005000000 ∧ k % 64 ≠ 0) ∨
    (0x400000000000000 ≤ k ∧ k % 64 ≠ 0 ∧ k % 64 ≠ 8 ∧ k % 64 ≠ 32 ∧ k % 64 ≠ 40))

/-- A core without its caches, its store path, its waits and its reservation, which a drain may change. -/
def bare (k : Core) : Core := { k with l1i := [], l1d := [], l2 := [], mb := [], waits := [], stores := [], resv := none, lbuf := [], held := [] }

/-- What a drain leaves as it was. -/
def State.held (s : State) : Folio × (Nat → Option Word) × (Nat → Core) :=
  (s.folio, fun k => if drainKey k then s.regs.get? k else none, fun c => bare (s.core c))

theorem drainKey_fltTail : drainKey Reg.FLT_TAIL.key = false := by decide
theorem drainKey_fltStatus : drainKey Reg.FLT_STATUS.key = false := by decide
theorem drainKey_fltClassCnt {k : Nat} (h : k < 32) : drainKey (Reg.FLT_CLASS_CNT k).key = false :=
  decide_eq_false (by simp only [Reg.key]; omega)
theorem drainKey_qpState (f q : Nat) : drainKey (Reg.QP_STATE f q).key = false :=
  decide_eq_false (by simp only [Reg.key]; omega)
theorem drainKey_coreState (c : Nat) : drainKey (Reg.CORE_STATE c).key = false :=
  decide_eq_false (by simp only [Reg.key]; omega)
theorem drainKey_fabHand (h : Nat) : drainKey (Reg.FAB_HAND h).key = false :=
  decide_eq_false (by simp only [Reg.key]; omega)
theorem drainKey_ldgErr (h : Nat) : drainKey (Reg.CSQ_LDG_ERR h).key = false :=
  decide_eq_false (by simp only [Reg.key]; omega)
theorem drainKey_ldgPhase (h : Nat) : drainKey (Reg.CSQ_LDG_PHASE h).key = false :=
  decide_eq_false (by simp only [Reg.key]; omega)
theorem drainKey_ticSat {n : Nat} (h : n < 8192) : drainKey (Reg.TIC_SAT (n / 64)).key = false :=
  decide_eq_false (by simp only [Reg.key]; omega)
theorem drainKey_ticTally {n : Nat} (h : n < 8192) : drainKey (Reg.TIC_TALLY (n / 8)).key = false :=
  decide_eq_false (by simp only [Reg.key]; omega)

@[simp] theorem held_ite (c : Prop) [Decidable c] (s t : State) : (if c then s else t).held = if c then s.held else t.held := apply_ite ..

@[simp] theorem held_ite_snd {α : Type} (c : Prop) [Decidable c] (p q : α × State) :
    (if c then p else q).2.held = if c then p.2.held else q.2.held := by split <;> rfl

@[simp] theorem held_overAll {α : Type} (l : List α) (f : State → α → State) (s : State) (h : ∀ s a, (f s a).held = s.held) :
    (overAll l f s).held = s.held := overAll_keeps_mem (fun s a _ => h s a) s

theorem held_foldl_snd {α β : Type} (l : List α) (f : β × State → α → β × State) (r : β × State)
    (h : ∀ r a, (f r a).2.held = r.2.held) : (l.foldl f r).2.held = r.2.held := by
  induction l generalizing r with
  | nil => rfl
  | cons a l ih => exact (ih _).trans (h r a)

theorem held_snd {α : Type} {p : α × State} {a : α} {t : State} (h : p = (a, t)) : t.held = p.2.held := by rw [h]

@[simp] theorem held_wr (s : State) {r : Reg} (h : drainKey r.key = false) (w : Word) : (s.wr r w).held = s.held := by
  have hk : ∀ k, drainKey k = true → k ≠ r.key := fun k hk e => by rw [e, h] at hk; cases hk
  unfold State.held
  refine Prod.ext rfl (Prod.ext (funext fun k => ?_) rfl)
  exact if_ctx_congr Iff.rfl (fun h' => NMap.get?_set_ne _ _ _ _ (hk k h')) fun _ => rfl

@[simp] theorem held_put (s : State) {r : Reg} (h : drainKey r.key = false) (f : Fld) (n : Nat) : (s.put r f n).held = s.held := held_wr s h _

@[simp] theorem held_inc (s : State) {r : Reg} (h : drainKey r.key = false) (f : Fld) : (s.inc r f).held = s.held := held_wr s h _

theorem held_setCore (s : State) {c : Nat} {k : Core} (h : bare k = bare (s.core c)) : (s.setCore c k).held = s.held := by
  unfold State.held
  refine Prod.ext rfl (Prod.ext rfl (funext fun d => ?_))
  by_cases hd : d = c
  · subst hd
    exact (congrArg bare (State.core_setCore_self ..)).trans h
  · exact congrArg bare (State.core_setCore_ne _ _ _ _ hd)

@[simp] theorem held_setCore_bare (s : State) (c : Nat) (i1 : List Nat) (d1 : NMap LineData) (l2 : List L2Line) (mb st lb hd : List MbEnt) (ws : List WaitEnt)
    (rv : Option (Nat × Nat)) : (s.setCore c { s.core c with
      l1i := i1, l1d := d1, l2 := l2, mb := mb, waits := ws, stores := st, resv := rv, lbuf := lb, held := hd }).held = s.held :=
  held_setCore s rfl

@[simp] theorem held_fresh (s : State) : s.fresh.2.held = s.held := rfl
@[simp] theorem held_countEv (s : State) (u ev n : Nat) : (s.countEv u ev n).held = s.held := rfl
@[simp] theorem held_countBlk (s : State) (b ev n : Nat) : (s.countBlk b ev n).held = s.held := rfl
@[simp] theorem held_setPoint (s : State) (p : Nat) (x : Point) : (s.setPoint p x).held = s.held := rfl
@[simp] theorem held_setDie (s : State) (d : Nat) (x : Die) : (s.setDie d x).held = s.held := rfl
@[simp] theorem held_setQueue (s : State) (f : FnId) (q : Nat) (x : Queue) : (s.setQueue f q x).held = s.held := rfl
@[simp] theorem held_setLedger (s : State) (h : Nat) (x : Ledger) : (s.setLedger h x).held = s.held := rfl
@[simp] theorem held_sramClear (s : State) (st u i : Nat) : (sramClear s st u i).held = s.held := rfl

@[simp] theorem held_sramWrite (s : State) (st u i : Nat) : (sramWrite s st u i).held = s.held := by
  unfold sramWrite
  split
  · exact held_put s (r := .FLT_INJECT) (by decide) _ _
  · rfl

@[simp] theorem held_arrive (s : State) (n : Nat) : (s.arrive n).held = s.held := by
  unfold State.arrive
  split
  · rfl
  · next h =>
    have hn : n < 8192 := sourceExists_lt (by simpa using h)
    split
    · exact (held_sramWrite ..).trans (held_put s (drainKey_ticTally hn) _ _)
    · exact held_wr s (drainKey_ticSat hn) _

@[simp] theorem held_overflowClass (s : State) : (State.overflowClass s).held = s.held := by
  simp [State.overflowClass, drainKey, Reg.key]

@[simp] theorem held_writeRecord (s : State) (e : FaultEv) (sev : ℕ) :
    (State.writeRecord s e sev).held = s.held := by
  have hi : s.get .FLT_TAIL F.FLT_HEAD_INDEX < 256 := s.get_lt ..
  have hrec (k : Nat) (hk : k < 4) : drainKey (Reg.FLT_REC (s.get .FLT_TAIL F.FLT_HEAD_INDEX) k).key = false := 
    decide_eq_false (by simp only [Reg.key]; omega)
  unfold State.writeRecord
  split
  · simp [drainKey, Reg.key]
  · simp [hrec, drainKey_fltTail, drainKey_fltStatus]

@[simp] theorem held_noteFault (s : State) {e : FaultEv} (he : e.cls < 32) (sev : ℕ) : (State.noteFault s e sev).held = s.held := by
  simp [State.noteFault, drainKey_fltClassCnt he]

@[simp] theorem held_endSlip (s : State) (f : FnId) (q : ℕ) (seq : ℕ) (status : ℕ) (result : ℕ) (flags : ℕ) :
    (State.endSlip s f q seq status result flags).held = s.held := by
  unfold State.endSlip
  dsimp only
  split <;> simp [drainKey_qpState]

@[simp] theorem held_abortIntakes (s : State) (h : Nat) : (s.abortIntakes h).held = s.held := by
  refine held_overAll _ _ _ fun s i => ?_
  split
  · exact held_endSlip ..
  · rfl

@[simp] theorem held_enterStopping (s : State) (c : ℕ) : (State.enterStopping s c).held = s.held := by
  simp [State.enterStopping, State.setCoreState, drainKey_coreState]

@[simp] theorem held_handLoss (s : State) (h : ℕ) : (State.handLoss s h).held = s.held := by
  simp [State.handLoss, drainKey_fabHand, drainKey_ldgErr, drainKey_ldgPhase]

@[simp] theorem held_fault (s : State) {e : FaultEv} (he : e.cls < 32) : (State.fault s e).held = s.held := by
  unfold State.fault
  split <;> simp [he]

@[simp] theorem held_send (s : State) (p : ℕ) (q : ℕ) (m : Msg) : (State.send s p q m).held = s.held := by simp [State.send]

@[simp] theorem held_putL3 (s : State) (d : ℕ) (e : L3Line) : (putL3 s d e).held = s.held := by simp [putL3]

@[simp] theorem held_dropL3 (s : State) (d : ℕ) (line : ℕ) : (dropL3 s d line).held = s.held := by simp [dropL3]

@[simp] theorem held_putL2 (s : State) (c : ℕ) (e : L2Line) : (putL2 s c e).held = s.held := by simp [putL2]

@[simp] theorem held_dropL2 (s : State) (c : ℕ) (line : ℕ) : (dropL2 s c line).held = s.held := by simp [dropL2]

@[simp] theorem held_choose {α : Type} (s : State) (l : List α) : (choose s l).2.held = s.held := by simp [choose]

@[simp] theorem held_bufSram (s : State) (st : ℕ) (unit : ℕ) (line : ℕ) (hand : Option ℕ) :
    (bufSram s st unit line hand).2.held = s.held := by
  unfold bufSram
  split <;> simp

@[simp] theorem held_sendWb (s : State) (d : ℕ) (q : ℕ) (m : Msg) : (sendWb s d q m).held = s.held := by simp [sendWb]

theorem held_ifRoom {α : Type} (s : State) (d : Nat) (wait : α) {r : α × State} (h : r.2.held = s.held) :
    (ifRoom s d wait r).2.held = s.held := by
  unfold ifRoom
  split
  · exact h
  · rfl

@[simp] theorem held_request (s : State) (d : ℕ) (line : ℕ) (core : ℕ) (op : Opc) (chunk : ℕ) :
    (request s d line core op chunk).held = s.held := by simp [request]

@[simp] theorem held_backSnoop (s : State) (e : L3Line) (c : ℕ) (keep : Bool) : (backSnoop s e c keep).2.held = s.held := by
  unfold backSnoop
  repeat' split
  all_goals simp

@[simp] theorem held_backSnoopAll (s : State) (d : Nat) (e : L3Line) (keep : Bool) (skip : Option Nat) : (backSnoopAll s d e keep skip).2.held = s.held := by
  exact held_foldl_snd _ _ _ fun r c => held_backSnoop ..

@[simp] theorem held_takeLine (s : State) (d : ℕ) (e : L3Line) (keep : Bool) : (takeLine s d e keep).2.held = s.held := by
  unfold takeLine
  dsimp only
  split <;> simp

@[simp] theorem held_evictL3 (s : State) (d : ℕ) (q : ℕ) (e : L3Line) : (evictL3 s d q e).held = s.held := by simp [evictL3]

@[simp] theorem held_offer (s : State) (c : Nat) (l : L2Line) : (offer s c l).held = s.held := by
  unfold offer
  dsimp only
  split
  · simp
  · by_cases hm : l.st = 3
    all_goals
      simp only [hm, if_true, if_false]
      split
      · simp
      · split
        · simp
        · split
          · split
            · simp
            · split
              next hc => simp [held_snd hc]
              next hc => simp [held_snd hc]
          · simp

theorem held_choose_offer (s : State) (c : Nat) (l : List L2Line) : (match choose s l with
    | (some v, s) => offer s c v
    | (none, s) => s).held = s.held := by
  split
  next hc => simp [held_snd hc]
  next hc => simp [held_snd hc]

@[simp] theorem held_installL2 (s : State) (c : Nat) (l : L2Line) : (installL2 s c l).held = s.held := by
  have hroom (p : Prop) [Decidable p] {t : State} (h : t.held = s.held) : (if p then s else t).held = s.held := by
    rw [held_ite, h, ite_self]
  unfold installL2
  dsimp only
  split
  · rw [held_putL3, held_putL2]
    exact hroom _ (held_choose_offer ..)
  · rw [held_putL2]
    exact hroom _ (held_choose_offer ..)

@[simp] theorem held_cacheSram (s : State) (st : ℕ) (unit : ℕ) (d : ℕ) (line : ℕ) : (cacheSram s st unit d line).2.held = s.held := by
  unfold cacheSram
  dsimp only
  repeat' split
  all_goals simp

@[simp] theorem held_checkOwn (s : State) (c : ℕ) (line : ℕ) : (checkOwn s c line).held = s.held := by simp [checkOwn]

@[simp] theorem held_coreOwn (s : State) (c line chunk : Nat) : (coreOwn s c line chunk).2.held = s.held := by
  refine held_ifRoom _ _ _ ?_
  dsimp only
  split
  · split
    · simp
    · split
      · split <;> simp
      · simp
  · split
    · simp
    · split_ifs <;> simp

@[simp] theorem held_startDrain (s : State) (c : ℕ) (sel : MbEnt → Bool) : (startDrain s c sel).held = s.held := by simp [startDrain]

@[simp] theorem held_addWait (s : State) (c : ℕ) (line : ℕ) (w : Waiter) : (addWait s c line w).held = s.held := by simp [addWait]

@[simp] theorem held_drainOldest (s : State) (c : ℕ) : (drainOldest s c).held = s.held := by
  unfold drainOldest
  dsimp only
  repeat' split
  all_goals simp

@[simp] theorem held_admitStores (s : State) (c : ℕ) : (admitStores s c).held = s.held := by
  unfold admitStores
  dsimp only
  repeat' split
  all_goals simp

@[simp] theorem held_dropMb (s : State) (c : ℕ) (line : ℕ) : (dropMb s c line).held = s.held := by simp [dropMb]

@[simp] theorem held_toLedger (s : State) (c : ℕ) (e : MbEnt) : (toLedger s c e).held = s.held := by
  unfold toLedger
  dsimp only
  split <;> simp

@[simp] theorem held_drainNc (s : State) (c : ℕ) (e : MbEnt) : (drainNc s c e).held = s.held := by simp [drainNc]

@[simp] theorem held_storeL2 (s : State) (c : ℕ) (l : L2Line) : (storeL2 s c l).held = s.held := by simp [storeL2]

@[simp] theorem held_tryDrain (s : State) (c line : Nat) : (tryDrain s c line).held = s.held := by
  unfold tryDrain
  dsimp only
  split
  · rfl
  · split
    all_goals
      split
      · simp
      · split
        · simp
        · split
          next ho => simp [held_snd ho]
          next ho => simp [held_snd ho]

@[simp] theorem held_drain (s : State) (c : ℕ) (sel : MbEnt → Bool) : (drain s c sel).held = s.held := by simp [drain]

@[simp] theorem held_drainAll (s : State) (c : ℕ) : (drainAll s c).held = s.held := by simp [drainAll]

section
variable {s t : State} (h : t.held = s.held)
include h

theorem rd_of_held {r : Reg} (hr : drainKey r.key = true) : t.rd r = s.rd r := by
  have h1 := congrFun (congrArg (·.2.1) h) r.key
  dsimp only [State.held] at h1
  rw [if_pos hr, if_pos hr] at h1
  rw [State.rd, State.rd, h1]

theorem bare_of_held (c : Nat) : bare (t.core c) = bare (s.core c) := congrFun (congrArg (·.2.2) h) c

theorem virt_of_held (c : Nat) : (t.core c).virt = (s.core c).virt := (congrArg Core.virt (bare_of_held h c) :)

theorem ledgerCore_of_held {c : Nat} (hc : c < 384) : t.ledgerCore c = s.ledgerCore c :=
  ledgerCore_congr (fun g hg => rd_of_held h (decide_eq_true (by rw [key_fabHandCores]; omega))) (congrArg (·.1) h)

end

theorem ledgerCore_drainAll (s : State) {c : Nat} (hc : c < 384) (d : Nat) : (drainAll s d).ledgerCore c = s.ledgerCore c :=
  ledgerCore_of_held (held_drainAll ..) hc

end Sys2Proof.Machine
end

section
/-! SUPPORT. The fences, and what SFENCE.VMA leaves in the translation structures. -/

namespace Sys2Proof.Machine

/-! ### Fences (R144, R165 to R167, R174, R180) -/

theorem endQuantum_of_open {s : State} {c : Nat} (h : s.ledgerCore c = false) (code : Nat) : s.endQuantum c code = s := if_pos (.inr (by simp [h]))

theorem endAndRetire_of_open {s : State} {c : Nat} (h : s.ledgerCore c = false) (code len : Nat) : endAndRetire s c code len = s.retire c len := by
  rw [endAndRetire, endQuantum_of_open h]

section Retiring
variable {s t : State} {c : Nat} {k : Core} (hc : c < 384) (ho : s.ledgerCore c = false)
include hc ho

theorem retired_of_acted (h : Acted s c [] k t) (len : Nat) : retired s (t.retire c len) c len k := by
  rw [retire_of_open hc ((h.ledgerCore_eq hc).trans ho)]
  exact ⟨h.retiredBut List.not_mem_nil List.not_mem_nil len, h.rest.trans (onlyRegsCores_movedOn ..)⟩

theorem retired_endAndRetire (h : Acted s c [] k t) : retired s (endAndRetire t c 3 4) c 4 k := by
  rw [endAndRetire_of_open ((h.ledgerCore_eq hc).trans ho)]
  exact retired_of_acted hc ho h 4

end Retiring

section Insn
variable {s u : State} {c : Nat} {w : Word} {act : State → State} (hr : s.ready c = true)
include hr

theorem fenceInsn_of_trap (n : Nat) (b : Bool) : fenceInsn s c w (some n) b act = trap s c n w := by
  unfold fenceInsn; rw [hr]; rfl

theorem fenceInsn_of_ledger (hl : s.ledgerCore c = true) (b : Bool) : fenceInsn s c w none b act = endAndRetire (act (drainAll s c)) c 3 4 := by
  unfold fenceInsn; rw [hr, hl]; rfl

theorem fenceInsn_of_drained (hl : s.ledgerCore c = false) (hd : drained (drainAll s c) c = true) :
    fenceInsn s c w none true act = endAndRetire (act (drainAll s c)) c 3 4 := by
  unfold fenceInsn; rw [hr, hl]; exact if_pos hd

theorem fenceInsn_at_once (hl : s.ledgerCore c = false) : fenceInsn s c w none false act = endAndRetire (act s) c 3 4 := by
  unfold fenceInsn; rw [hr, hl]; rfl

end Insn

/-- The invalidations change the core that executes them, and nothing else. -/
theorem acted_fenceVma (s : State) (c regime : Nat) (vmid va asid : Option Nat) :
    Acted s c [] ((fenceVma s c regime vmid va asid).core c) (fenceVma s c regime vmid va asid) := by
  rw [fenceVma, State.core_setCore_self]
  exact (Acted.refl s c []).setCore _

theorem acted_fenceGvma (s : State) (c : Nat) (vmid gpa : Option Nat) : Acted s c [] ((fenceGvma s c vmid gpa).core c) (fenceGvma s c vmid gpa) := by
  rw [fenceGvma, State.core_setCore_self]
  exact (Acted.refl s c []).setCore _

theorem Acted.noteSinval {s t : State} {c : Nat} {k : Core} (h : Acted s c [] k t) (b : Bool) : Acted s c [] { k with sinval := b } (noteSinval t c b) := by
  rw [Machine.noteSinval, h.core]
  exact h.setCore _

theorem vmaAct_of_plain {s : State} {c : Nat} (h : (s.core c).virt = false) (rs1 rs2 : Fin 32) :
    vmaAct c rs1 rs2 s = fenceVma s c 0 none (fenceOp s c rs1) (fenceAsid s c rs2) := by
  rw [vmaAct, h]; rfl

theorem vmaAct_of_virt {s : State} {c : Nat} (h : (s.core c).virt = true) (rs1 rs2 : Fin 32) :
    vmaAct c rs1 rs2 s = fenceVma s c 1 (curVmid s c) (fenceOp s c rs1) (fenceAsid s c rs2) := by
  rw [vmaAct, h]; rfl

section Drained
variable {c : Fin 384} {rs1 rs2 : Fin 32} {s u : State} (hr : s.ready c = true) (hl : s.ledgerCore c = false) (hu : u = drainAll s c)
  (hd : drained u c = true)
include hr hl hu hd

/-- A fence that has drained acts, and retires. -/
theorem fenceInsn_retires {w : Word} {act : State → State} {k : Core} (h : Acted u c [] k (act u)) :
    retired u (fenceInsn s c w none true act) c 4 k := by
  rw [fenceInsn_of_drained hr hl (hu ▸ hd), ← hu]
  exact retired_endAndRetire c.isLt (hu ▸ (ledgerCore_drainAll s c.isLt c).trans hl) h

theorem fenceI_retires : ∃ t, exec (.fenceI c) s = .next t ∧ retired u t c 4 { u.core c with l1i := [] } := by
  have hx : exec (.fenceI c) s = .next (endAndRetire (u.setCore c { u.core c with l1i := [] }) c 3 4) := by
    subst hu
    have he : exec (.fenceI c) s = execFenceI c s := rfl
    rw [he]
    unfold execFenceI
    rw [hr, hl]
    refine Eq.trans (b := .next (afterDrain s c (fun s => endAndRetire (s.setCore c { s.core c with l1i := [] }) c 3 4))) rfl ?_
    exact congrArg _ (if_pos hd)
  exact ⟨_, hx, retired_endAndRetire c.isLt (hu ▸ (ledgerCore_drainAll s c.isLt c).trans hl) ((Acted.refl u c []).setCore _)⟩

end Drained

theorem fence_retires {c : Fin 384} {p q : BitVec 4} {s : State} (hr : s.ready c = true) (hl : s.ledgerCore c = false)
    (hp : p.getLsbD 2 = false ∨ ioOut s c = false) :
    (p.getLsbD 0 = false → ∃ t, exec (.fence c p q) s = .next t ∧ retired s t c 4 (s.core c)) ∧
    (drained (drainAll s c) c = true →
      ∃ t, exec (.fence c p q) s = .next t ∧ (p.getLsbD 0 = true → retired (drainAll s c) t c 4 ((drainAll s c).core c))) := by
  have hio : (p.getLsbD 2 && ioOut s c) = false := by simpa [or_iff_not_imp_left] using hp
  have hx : exec (.fence c p q) s = if p.getLsbD 0 then .next (afterDrain s c (fun s => s.retire c 4)) else .next (s.retire c 4) := by
    have he : exec (.fence c p q) s = execFence c p q s := rfl
    rw [he]
    unfold execFence
    rw [hr, hl, hio]
    rfl
  refine ⟨fun h0 => ⟨_, hx.trans (if_neg (h0 ▸ Bool.false_ne_true)), retired_of_acted c.isLt hl (Acted.refl ..) 4⟩, fun hd => ?_⟩
  cases h0 : p.getLsbD 0 with
  | false => exact ⟨_, hx.trans (if_neg (h0 ▸ Bool.false_ne_true)), fun h => by cases h⟩
  | true =>
    refine ⟨_, hx.trans ((if_pos h0).trans (congrArg _ (if_pos hd))), fun _ => ?_⟩
    exact retired_of_acted c.isLt ((ledgerCore_drainAll s c.isLt c).trans hl) (Acted.refl ..) 4

theorem coreFences_claim : Claim.CoreFences := by
  refine ⟨fun c p q s hr hl hp => fence_retires hr hl hp, fun c p q s hr hl hp hio => ?_, fun c rs1 rs2 s u hr hl hu hd => ?_,
    fun c rs1 rs2 s hr hl => ?_, fun c p q rs1 rs2 s u hr hl hu => ?_, fun c rs1 rs2 inval s n hr => ?_⟩
  · have he : exec (.fence c p q) s = execFence c p q s := rfl
    rw [he]
    unfold execFence
    rw [hr, hl, hp, hio]
    rfl
  · have hv : (u.core c).virt = (s.core c).virt := hu ▸ virt_of_held (held_drainAll s c) c
    refine ⟨fenceI_retires hr hl hu hd, fun ht hv0 => ?_, fun ht hv1 => ?_, fun ht => ?_, fun ht => ?_, fun ht => ?_⟩
    · refine ⟨_, rfl, ?_⟩
      rw [ht]
      refine fenceInsn_retires hr hl hu hd ?_
      rw [vmaAct_of_plain (hv.trans hv0)]
      exact acted_fenceVma ..
    · refine ⟨_, rfl, ?_⟩
      rw [ht]
      refine fenceInsn_retires hr hl hu hd ?_
      rw [vmaAct_of_virt (hv.trans hv1)]
      exact acted_fenceVma ..
    · refine ⟨_, rfl, ?_⟩
      rw [ht]
      exact fenceInsn_retires hr hl hu hd (acted_fenceVma ..)
    · refine ⟨_, rfl, ?_⟩
      rw [ht]
      exact fenceInsn_retires hr hl hu hd (acted_fenceGvma ..)
    · refine ⟨_, rfl, ?_⟩
      rw [ht]
      exact fenceInsn_retires hr hl hu hd (Acted.refl ..)
  · refine ⟨fun ht hv => ⟨_, rfl, ?_⟩, fun ht hv => ⟨_, rfl, ?_⟩, fun ht => ⟨_, rfl, ?_⟩, fun ht => ⟨_, rfl, ?_⟩, fun ht => ⟨_, rfl, ?_⟩⟩
    · rw [ht, fenceInsn_at_once hr hl, vmaAct_of_plain hv]
      exact retired_endAndRetire c.isLt hl ((acted_fenceVma ..).noteSinval true)
    · rw [ht, fenceInsn_at_once hr hl, vmaAct_of_virt hv]
      exact retired_endAndRetire c.isLt hl ((acted_fenceVma ..).noteSinval true)
    · rw [ht]
      refine (fenceInsn_at_once hr hl) ▸ ?_
      exact retired_endAndRetire c.isLt hl ((acted_fenceVma ..).noteSinval true)
    · rw [ht]
      refine (fenceInsn_at_once hr hl) ▸ ?_
      exact retired_endAndRetire c.isLt hl ((acted_fenceGvma ..).noteSinval true)
    · rw [ht, fenceInsn_at_once hr hl]
      exact retired_endAndRetire c.isLt hl ((Acted.refl ..).noteSinval false)
  · subst hu
    have hf : exec (.fence c p q) s = execFence c p q s := rfl
    have hi : exec (.fenceI c) s = execFenceI c s := rfl
    refine ⟨?_, ?_, fun ht => ⟨congrArg Host.Outcome.next ?_, congrArg Host.Outcome.next ?_⟩, fun ht => ⟨congrArg Host.Outcome.next ?_, congrArg Host.Outcome.next ?_⟩⟩
    · rw [hf]
      unfold execFence
      rw [hr, hl]; rfl
    · rw [hi]
      unfold execFenceI
      rw [hr, hl]; rfl
    all_goals
      rw [ht, fenceInsn_of_ledger hr hl]
      rfl
  · refine ⟨fun ht => ⟨congrArg Host.Outcome.next ?_, congrArg Host.Outcome.next ?_⟩, fun ht => congrArg Host.Outcome.next ?_, fun ht => congrArg Host.Outcome.next ?_,
      fun ht => ⟨congrArg Host.Outcome.next ?_, congrArg Host.Outcome.next ?_⟩⟩
    all_goals rw [ht, fenceInsn_of_trap hr]

/-! ### What SFENCE.VMA leaves (R165) -/

theorem drain_of_empty {s : State} {c : Nat} (h : (s.core c).mb = []) (sel : MbEnt → Bool) : drain s c sel = s.setCore c (s.core c) := by
  have hk : ({ s.core c with mb := [] } : Core) = s.core c := (congrArg (fun l => ({ s.core c with mb := l } : Core)) h.symm :)
  have hs : startDrain s c sel = s.setCore c (s.core c) := by
    unfold startDrain
    dsimp only
    rw [h, List.map_nil, hk]
  unfold drain
  rw [hs]
  dsimp only
  rw [State.core_setCore_self, h]
  rfl

theorem core_drainAll_of_empty {s : State} {c : Nat} (h : (s.core c).mb = []) : (drainAll s c).core c = s.core c := by
  rw [drainAll, drain_of_empty h, drain_of_empty (by rw [State.core_setCore_self, h]), State.core_setCore_self, State.core_setCore_self]

theorem keepEnt_s {va asid : Option Nat} {e : TlbEnt} : keepEnt 0 none va asid e = true ↔
    e.regime ≠ 0 ∨ (∃ a, va = some a ∧ e.vpn ≠ a / 2 ^ e.size) ∨ ∃ x, asid = some x ∧ (e.asid ≠ x ∨ e.glob = true) := by
  unfold keepEnt
  cases va <;> cases asid <;> simp [or_iff_not_imp_left]

theorem fenceOp_eq_some {s : State} {c a : Nat} {r : Fin 32} : fenceOp s c r = some a ↔ r ≠ 0 ∧ (s.xreg c r).toNat = a := by
  rw [fenceOp]
  split <;> simp_all

theorem fenceAsid_eq_some {s : State} {c a : Nat} {r : Fin 32} : fenceAsid s c r = some a ↔ r ≠ 0 ∧ (s.xreg c r).toNat % 2 ^ 16 = a := by
  rw [fenceAsid, Option.map_eq_some_iff]
  simp only [fenceOp_eq_some]
  grind

theorem fenceSelects : Claim.FenceSelects := by
  intro c rs1 rs2 s t hr hl hmb ht hv hx
  let u := drainAll s c
  have hu : u.core c = s.core c := core_drainAll_of_empty hmb
  have hstores : (s.core c).stores = [] := by
    have h := hr
    simp only [State.ready, Bool.and_eq_true, List.isEmpty_iff] at h
    exact h.1.2
  have hd : drained u c = true := by rw [drained, hu, hmb, hstores]; rfl
  have hlu : u.ledgerCore c = false := (ledgerCore_drainAll s c.isLt c).trans hl
  have hret : retired u t c 4 ((fenceVma u c 0 none (fenceOp u c rs1) (fenceAsid u c rs2)).core c) := by
    have he : t = fenceInsn s c (sysWord 0x09 rs1 rs2) none true (vmaAct c rs1 rs2) := by
      rw [← ht]; exact (Host.Outcome.next.inj hx).symm
    rw [he]
    refine fenceInsn_retires hr hl rfl hd ?_
    rw [vmaAct_of_plain ((congrArg Core.virt hu).trans hv)]
    exact acted_fenceVma ..
  have hop : ∀ r, fenceOp u c r = fenceOp s c r := fun r => by rw [fenceOp, fenceOp, State.xreg, State.xreg, hu]
  have has : fenceAsid u c rs2 = fenceAsid s c rs2 := by rw [fenceAsid, fenceAsid, hop]
  have hcore := hret.1.1
  rw [hop, has, fenceVma, State.core_setCore_self, hu] at hcore
  refine ⟨fun e => ?_, fun h1 h2 e he => ?_⟩
  · rw [hcore]
    refine List.mem_filter.trans (and_congr_right fun _ => ?_)
    rw [keepEnt_s]
    simp only [fenceOp_eq_some, fenceAsid_eq_some]
    grind
  · have hn1 : fenceOp s c rs1 = none := if_pos h1
    have hn2 : fenceAsid s c rs2 = none := by rw [fenceAsid, fenceOp, if_pos h2]; rfl
    rw [hcore, hn1, hn2] at he
    have hk : keepEnt 0 none none none e = true := by
      rcases List.mem_append.mp he with he | he
      · rcases List.mem_append.mp he with he | he
        · exact (List.mem_filter.mp he).2
        · exact (List.mem_filter.mp he).2
      · exact (List.mem_filter.mp he).2
    simpa using keepEnt_s.mp hk

/-- Settles O11, by what each fence does to the core before it retires. -/
theorem coreFences : Obligations.CoreFences := ⟨coreFences_claim, fenceSelects⟩

end Sys2Proof.Machine
end

section
/-! SUPPORT. A DATA_NC answer that waits at a die is no grant. -/

namespace Sys2Proof.Machine

/-! ### A denied answer that waits for a victim (R188, R198) -/

/-- A DATA_NC answer of line 0 that waits at die 0. -/
def deniedMsg : Msg := { dieMsg 0 .dataNc 0 0 0 with txn := 0 }

/-- The miss that it answers. -/
def deniedMiss : Miss := ⟨0, .rdShared, 0, 0, false, true, 0, []⟩

/-- Die 0 with that answer waiting, its miss, and a full write-back buffer. -/
def deniedState : State :=
  State.reset.setDie 0 { Die.init with retry := [deniedMsg], misses := [deniedMiss], wb := List.replicate 32 ⟨deniedMsg, false⟩ }

theorem misses_denied : ((deniedFill (deniedState.setDie 0 { deniedState.die 0 with retry := [] }) 0 deniedMiss deniedMsg).die 0).misses = [deniedMiss] := by
  decide

theorem misses_installed : ((installFill (deniedState.setDie 0 { deniedState.die 0 with retry := [] }) 0 deniedMiss deniedMsg 3).die 0).misses = [] := by
  decide

/-- Refutes O23: a DATA_NC answer that waits is carried out as a denial, which with a full write-back buffer waits on; the statement says
that a grant in M is installed, which ends the miss. -/
theorem not_dieFills : ¬ Obligations.DieFills := by
  rintro ⟨-, ⟨h, -⟩, -⟩
  have hx := h 0 deniedMsg deniedState deniedMiss rfl rfl rfl
  have he : exec (.l3AllocationRetry 0 deniedMsg.line) deniedState =
      .next (deniedFill (deniedState.setDie 0 { deniedState.die 0 with retry := [] }) 0 deniedMiss deniedMsg) := rfl
  have hm := congrArg (fun t : State => (t.die 0).misses) (Host.Outcome.next.inj (he.symm.trans hx))
  cases misses_denied.symm.trans (hm.trans misses_installed)

end Sys2Proof.Machine
end

section
/-! SUPPORT. The stop of a compute die: what it leaves in the registers, core by core (R233, R440, R442). A register outside those that an arrival, a record or the loss of a hand writes is read as before. -/

namespace Sys2Proof.Machine

/-! ### Registers through the loss of a hand -/

/-- A register that the loss of a hand leaves: no record, count or arrival, no slip state, and none of the hand's own. -/
structure LossKept (h : Nat) (r : Reg) : Prop where
  note : noteKept r
  slip : r.key < 0x100000000000000
  hand : r.key ≠ (Reg.FAB_HAND h).key
  err : r.key ≠ (Reg.CSQ_LDG_ERR h).key
  phase : r.key ≠ (Reg.CSQ_LDG_PHASE h).key

theorem overAll_inv {α : Type} {P : State → Prop} {f : State → α → State} {l : List α} (h : ∀ s, ∀ a ∈ l, P s → P (f s a)) {s : State} (hs : P s) :
    P (overAll l f s) := by
  induction l generalizing s with
  | nil => exact hs
  | cons a l ih => exact ih (fun s b hb => h s b (List.mem_cons_of_mem _ hb)) (h s a List.mem_cons_self hs)

theorem key_qpState (f q : Nat) : (Reg.QP_STATE f q).key = 0x100000000000000 + f * 0x10000 + q * 0x200 + 32 := by simp only [Reg.key]

theorem rd_endSlip {r : Reg} (hr : r.key < 0x100000000000000) (s : State) (f : FnId) (q seq status result flags : Nat) :
    (s.endSlip f q seq status result flags).rd r = s.rd r := by
  have hne : r.key ≠ (Reg.QP_STATE f.key q).key := by rw [key_qpState]; omega
  unfold State.endSlip
  dsimp only
  split
  · rfl
  · split
    · exact State.rd_put_ne hne ..
    · rfl

theorem rd_abortIntakes {r : Reg} (hr : r.key < 0x100000000000000) (s : State) (h : Nat) : (s.abortIntakes h).rd r = s.rd r := by
  unfold State.abortIntakes
  refine overAll_keeps_mem (g := (·.rd r)) (fun t i _ => ?_) s
  split
  · exact rd_endSlip hr ..
  · rfl

/-- A core of a lost ledger hand discards its stores. -/
def dropStores (s : State) (c : Nat) : State := s.setCore c { s.core c with lbuf := [], held := [], mb := [], stores := [] }

/-- The ledger hand's own part of its loss. -/
def ledgerLost (s : State) (h : Nat) : State :=
  let s := s.put (.CSQ_LDG_ERR h) F.CSQ_LDG_ERR_VOID_LOSS 1
  let s := s.noteFault ⟨22, 0x2900, some h, 5, 4, 0, 0⟩ 4
  let s := (s.abortIntakes h).wr (.CSQ_LDG_PHASE h) 0
  overAll (s.coresOf h) dropStores s

theorem handLoss_eq {s : State} {h : Nat} (hl : s.handLost h = false) : s.handLoss h =
    overAll ((if (lossNoted s h).folio.isLedger h then ledgerLost (lossNoted s h) h else lossNoted s h).coresOf h) lossStop
      (if (lossNoted s h).folio.isLedger h then ledgerLost (lossNoted s h) h else lossNoted s h) := by
  unfold State.handLoss
  rw [hl]
  rfl

theorem rd_ledgerLost {h : Nat} {r : Reg} (hr : LossKept h r) (s : State) : (ledgerLost s h).rd r = s.rd r := by
  unfold ledgerLost
  dsimp only
  refine (overAll_keeps_mem (g := (·.rd r)) (f := dropStores) (fun _ _ _ => rfl) _).trans ?_
  rw [State.rd_wr_ne _ _ _ _ hr.phase, rd_abortIntakes hr.slip, rd_noteFault hr.note _ (show 22 < 32 by decide), State.rd_put_ne hr.err]

theorem rd_handLoss {h : Nat} {r : Reg} (hr : LossKept h r) (hc : ∀ c < 384, r.key ≠ (Reg.CORE_STATE c).key) (s : State) :
    (s.handLoss h).rd r = s.rd r := by
  cases hl : s.handLost h with
  | true => rw [handLoss_of_lost hl]
  | false =>
    rw [handLoss_eq hl]
    refine (overAll_keeps_mem (g := (·.rd r)) (fun t c hm => rd_lossStop_of_ne (hc c (lt_of_mem_coresOf hm))) _).trans ?_
    have h0 : (lossNoted s h).rd r = s.rd r := rd_lossNoted hr.note.arrive hr.hand s
    split
    · rw [rd_ledgerLost hr, h0]
    · exact h0

/-- A core that neither runs nor starts keeps its state through the loss of a hand. -/
theorem coreState_handLoss {s : State} {h c : Nat} (hr : LossKept h (.CORE_STATE c)) (h2 : s.coreState c ≠ 2) (h3 : s.coreState c ≠ 3) :
    (s.handLoss h).coreState c = s.coreState c := by
  cases hl : s.handLost h with
  | true => rw [handLoss_of_lost hl]
  | false =>
    rw [handLoss_eq hl]
    have h0 : (lossNoted s h).coreState c = s.coreState c := by
      rw [State.coreState, State.coreState, State.get, State.get, rd_lossNoted hr.note.arrive hr.hand]
    have h1 : (if (lossNoted s h).folio.isLedger h then ledgerLost (lossNoted s h) h else lossNoted s h).coreState c = s.coreState c := by
      split
      · rw [State.coreState, State.get, rd_ledgerLost hr]
        exact h0
      · exact h0
    refine overAll_inv (P := fun t => t.coreState c = s.coreState c) (fun t d _ ht => ?_) h1
    by_cases hd : c = d
    · subst hd
      rw [lossStop, if_neg (by rw [ht]; rintro ⟨h | h, -⟩ <;> contradiction), ht]
    · rw [coreState_lossStop_of_ne hd, ht]

/-! ### The stop of a die in service (R233, R440, R442) -/

theorem key_fltDie (d : Nat) : (Reg.FLT_DIE d).key = 0xF00009000400 + d * 8 := by simp only [Reg.key]

theorem key_homeDieMask : Reg.HOME_DIE_MASK.key = 0xF00002000028 := rfl

theorem key_folAddState : Reg.FOL_ADD_STATE.key = 0xF00000000098 := rfl

theorem key_fabCommitPend : Reg.FAB_COMMIT_PEND.key = 0xF00001100008 := rfl

theorem key_fabHand (h : Nat) : (Reg.FAB_HAND h).key = 0xF00001110000 + h * 0x40 := by simp only [Reg.key]

theorem key_csqLdgErr (h : Nat) : (Reg.CSQ_LDG_ERR h).key = 0xF00005F00028 + h * 0x40 := by simp only [Reg.key]; omega

theorem key_csqLdgPhase (h : Nat) : (Reg.CSQ_LDG_PHASE h).key = 0xF00005F00008 + h * 0x40 := by simp only [Reg.key]; omega

/-- A register below those of the hands, or of the die registers and above, or FLT_DIE. -/
theorem lossKept_of_key {h : Nat} (hh : h < 64) {r : Reg} (hk : r.key < 0xF00001110000 ∨ (0xF00002000000 ≤ r.key ∧ r.key < 0xF00005000000) ∨
    (0xF00009000200 ≤ r.key ∧ r.key < 0xF00009000500) ∨ (0xF00010000000 ≤ r.key ∧ r.key < 0x100000000000000)) : LossKept h r := by
  refine ⟨?_, ?_, ?_, ?_, ?_⟩
  · rw [noteKept]; omega
  · omega
  · rw [key_fabHand]; omega
  · rw [key_csqLdgErr]; omega
  · rw [key_csqLdgPhase]; omega

/-- The open transactions of a slice marked as older than the stop. -/
def markOld (s : State) (n : Nat) : State :=
  s.setSlice n { s.slice n with txns := (s.slice n).txns.map (fun t => { t with old := true }) }

/-- The die's link fenced, and the slices without its requests. -/
def quiesced (s : State) (d : Nat) : State :=
  let s := fenceDie s d
  let s := overAll (List.range 16) markOld s
  let s := overAll (List.range 16) (fun s n => answerFor s n d) s
  overAll (List.range 16) (fun s n => dropReqs s n d) s

/-- The stop written into FLT_DIE. -/
def stopMarked (s : State) (d cause : Nat) : State :=
  let k := s.die d
  let s := setDieState (quiesced s d) d 2
  let s := (s.inc (.FLT_DIE d) F.FLT_DIE_STOPS).put (.FLT_DIE d) F.FLT_DIE_CAUSE cause
  if 1 = 1 ∧ k.since ≠ 0 ∧ s.mtime < k.since - 1 + 100000000 then s.put (.FLT_DIE d) F.FLT_DIE_AUTO_HELD 1 else s

/-- The die's content lost, its parts of a pending addendum dropped, and the record written. -/
def stopLost (s : State) (d cause : Nat) : State :=
  let s := loseDie (stopMarked s d cause) d
  (dropPoints { s with arc := { s.arc with members := s.arc.members.filter (fun m => m.1 / 24 != d) } } [d, 0x10 + d]).noteFault
    ⟨3, 0x2100 + d, none, cause, 3, 0, 0⟩ 3

theorem dieStop_of_service {s : State} {d : Nat} (h : dieState s d = 1) (cause : Nat) :
    dieStop s d cause = overAll (handsOnDie (stopLost s d cause) d) State.handLoss (stopLost s d cause) := by
  unfold dieStop stopLost stopMarked quiesced markOld
  dsimp only [State.fault]
  rw [h, if_neg (by decide), if_neg (by decide)]

/-- No transaction is open at a slice. -/
def quietSlice (s : State) (n : Nat) : Prop := (s.slice n).txns = [] ∧ (s.slice n).staged = [] ∧ (s.slice n).recover = []

theorem answerFor_of_quiet {s : State} {n : Nat} (h : quietSlice s n) (d : Nat) : answerFor s n d = s := by
  obtain ⟨h1, h2, h3⟩ := h
  unfold answerFor
  dsimp only
  rw [h1, h2, h3]
  rfl

section Quiesce
variable {s : State} {d : Nat} (hq : ∀ n, quietSlice s n)
include hq

theorem markOld_quiet (r : Reg) (l : List Nat) : (∀ n, quietSlice (overAll l markOld s) n) ∧ (overAll l markOld s).rd r = s.rd r := by
  refine overAll_inv (f := markOld) (P := fun t => (∀ n, quietSlice t n) ∧ t.rd r = s.rd r) (fun t n _ ⟨ht, hr⟩ => ⟨fun m => ?_, hr⟩) ⟨hq, rfl⟩
  by_cases hm : m = n
  · subst hm
    obtain ⟨h1, h2, h3⟩ := ht m
    rw [quietSlice, markOld, State.slice_setSlice_self]
    exact ⟨by rw [h1]; rfl, h2, h3⟩
  · rw [quietSlice, markOld, State.slice_setSlice_ne _ _ _ _ hm]
    exact ht m

theorem answers_quiet (l : List Nat) : overAll l (fun s n => answerFor s n d) s = s := by
  induction l with
  | nil => rfl
  | cons n l ih => rw [overAll, List.foldl_cons, answerFor_of_quiet (hq n)]; exact ih

end Quiesce

theorem rd_quiesced {s : State} (hq : ∀ n, quietSlice s n) (d : Nat) (r : Reg) : (quiesced s d).rd r = (fenceDie s d).rd r := by
  have hm := markOld_quiet (s := fenceDie s d) hq r (List.range 16)
  unfold quiesced
  dsimp only
  refine (overAll_keeps_mem (g := (·.rd r)) (f := fun s n => dropReqs s n d) (fun _ _ _ => rfl) _).trans ?_
  rw [answers_quiet hm.1, hm.2]


theorem rd_fencePoint_of_ne {r : Reg} (h : r.key ≠ 0xF00001100008) (s : State) (p : Nat) : (fencePoint s p).rd r = s.rd r :=
  State.rd_wr_ne _ .FAB_COMMIT_PEND _ _ h

/-- The two registers that the fencing of a die's link writes last, and those it leaves. -/
theorem rd_fenceDie_link {r : Reg} (h2 : r.key ≠ 0xF00001100008) (h3 : r.key ≠ 0xF00002000028) (s : State) (d : Nat) :
    (fenceDie s d).rd r = (setLinkState s d 4).rd r := by
  unfold fenceDie
  dsimp only
  rw [State.rd_wr_ne _ .HOME_DIE_MASK _ _ h3, rd_fencePoint_of_ne h2, rd_fencePoint_of_ne h2]
  rfl

theorem linkState_fenceDie (s : State) (d : Nat) : linkState (fenceDie s d) d = 4 := by
  have hk := key_dlStatus d
  rw [linkState, State.get, rd_fenceDie_link (by omega) (by omega)]
  exact State.get_put_self (by decide) (by decide) s _ 4

theorem dieMasked_fenceDie (s : State) {d : Nat} (hd : d < 64) : dieMasked (fenceDie s d) d = true := by
  unfold dieMasked fenceDie
  dsimp only
  rw [State.rd_wr_self, BitVec.getLsbD_or, BitVec.getLsbD_ofNat, Nat.testBit_two_pow_self]
  simp [hd]

theorem rd_fenceDie_of_ne {r : Reg} {d : Nat} (h1 : r.key ≠ (Reg.DL_STATUS d).key) (h2 : r.key ≠ 0xF00001100008) (h3 : r.key ≠ 0xF00002000028)
    (s : State) : (fenceDie s d).rd r = s.rd r := by
  rw [rd_fenceDie_link h2 h3]
  exact State.rd_put_ne h1 ..

/-! ### What the stop leaves behind in the registers -/

theorem rd_stopMarked {s : State} (hq : ∀ n, quietSlice s n) {d : Nat} {r : Reg} (h : r.key ≠ (Reg.FLT_DIE d).key) (cause : Nat) :
    (stopMarked s d cause).rd r = (fenceDie s d).rd r := by
  have h0 : (((setDieState (quiesced s d) d 2).inc (.FLT_DIE d) F.FLT_DIE_STOPS).put (.FLT_DIE d) F.FLT_DIE_CAUSE cause).rd r =
      (fenceDie s d).rd r := by
    rw [State.rd_put_ne h, State.rd_inc_ne h, setDieState, State.rd_put_ne h, rd_quiesced hq]
  unfold stopMarked
  dsimp only
  split
  · rw [State.rd_put_ne h, h0]
  · exact h0

theorem get_stopMarked (s : State) (d : Nat) {cause : Nat} (hc : cause < 16) :
    dieState (stopMarked s d cause) d = 2 ∧ (stopMarked s d cause).get (.FLT_DIE d) F.FLT_DIE_CAUSE = cause := by
  let u := ((setDieState (quiesced s d) d 2).inc (.FLT_DIE d) F.FLT_DIE_STOPS).put (.FLT_DIE d) F.FLT_DIE_CAUSE cause
  have hs : u.get (.FLT_DIE d) F.FLT_DIE_STATE = 2 := by
    rw [State.get_put_apart (by decide) (by decide) (by decide), State.inc, State.addSat, State.get_put_apart (by decide) (by decide) (by decide)]
    exact State.get_put_self (by decide) (by decide) _ _ 2
  have hca : u.get (.FLT_DIE d) F.FLT_DIE_CAUSE = cause := (State.get_put_self (by decide) (by decide) _ _ cause).trans (Nat.mod_eq_of_lt hc)
  unfold stopMarked dieState
  dsimp only
  split
  · exact ⟨(State.get_put_apart (by decide) (by decide) (by decide) _ _ _).trans hs,
      (State.get_put_apart (by decide) (by decide) (by decide) _ _ _).trans hca⟩
  · exact ⟨hs, hca⟩

theorem mem_coresOnDie {d c : Nat} : c ∈ coresOnDie d ↔ c / 24 = d := by
  simp only [coresOnDie, List.mem_map, List.mem_range]
  constructor
  · rintro ⟨i, hi, rfl⟩; omega
  · rintro rfl; exact ⟨c % 24, by omega, by omega⟩

theorem nodup_coresOnDie (d : Nat) : (coresOnDie d).Nodup := List.nodup_range.map fun _ _ h => by simpa using h

/-- One core of a stopped die. -/
def loseCore (s : State) (c : Nat) : State := if s.coreState c = 0 then s else (s.setCore c Core.init).setCoreState c 5

theorem rd_loseCore_of_ne {c : Nat} {r : Reg} (h : r.key ≠ (Reg.CORE_STATE c).key) (s : State) : (loseCore s c).rd r = s.rd r := by
  unfold loseCore
  split
  · rfl
  · exact State.rd_put_ne h ..

theorem loseDie_eq (s : State) (d : Nat) : ∃ k, loseDie s d = overAll (coresOnDie d) loseCore (s.setDie d k) := ⟨_, rfl⟩

theorem rd_loseDie_of_ne {d : Nat} {r : Reg} (h : ∀ c ∈ coresOnDie d, r.key ≠ (Reg.CORE_STATE c).key) (s : State) : (loseDie s d).rd r = s.rd r := by
  obtain ⟨k, hk⟩ := loseDie_eq s d
  rw [hk]
  exact overAll_keeps_mem (g := (·.rd r)) (fun t c hc => rd_loseCore_of_ne (h c hc) t) _

theorem coreState_loseDie (s : State) {d c : Nat} (hc : c ∈ coresOnDie d) : (loseDie s d).coreState c = if s.coreState c = 0 then 0 else 5 := by
  obtain ⟨k, hk⟩ := loseDie_eq s d
  have hne : ∀ (t : State) (a b : Nat), b ≠ a → (loseCore t a).coreState b = t.coreState b := fun t a b h => by
    rw [State.coreState, State.get, rd_loseCore_of_ne (coreState_ne h)]
    rfl
  rw [hk]
  refine overAll_each (step := loseCore) (read := fun t c => t.coreState c) (val := fun t c => if t.coreState c = 0 then 0 else 5)
    (nodup_coresOnDie d) (fun t a _ => ?_) (fun t a _ b _ h => hne t a b h) (fun t a _ b _ h => by rw [hne t a b h]) _ hc
  unfold loseCore
  split
  · next h => exact h
  · exact State.get_put_self (by decide) (by decide) _ _ 5

/-- With no addendum pending, parts dropped from it change only its count. -/
theorem rd_dropPoints {s : State} (h : s.get .FOL_ADD_STATE F.FOL_ADD_STATE_STATE ≠ 3) {r : Reg} (hr : r.key ≠ 0xF00000000098) (ps : List Nat) :
    (dropPoints s ps).rd r = s.rd r := by
  unfold dropPoints finishAddendum
  dsimp only
  rw [if_neg]
  · exact State.rd_put_ne (r := .FOL_ADD_STATE) hr ..
  · rw [State.get_put_apart (by decide) (by decide) (by decide)]
    exact fun h' => h h'.1

theorem lt_of_mem_handsOnDie {s : State} {d h : Nat} (hm : h ∈ handsOnDie s d) : h < 64 := by
  rw [handsOnDie, List.mem_filter, List.mem_range] at hm
  exact hm.1

section Stopped
variable {s : State} {d : Nat} (hd : d < 16) (hq : ∀ n, quietSlice s n) (ha : s.get .FOL_ADD_STATE F.FOL_ADD_STATE_STATE = 0)
include hd hq ha

theorem addState_loseDie (cause : Nat) : (loseDie (stopMarked s d cause) d).get .FOL_ADD_STATE F.FOL_ADD_STATE_STATE = 0 := by
  have hk := key_folAddState
  rw [State.get, rd_loseDie_of_ne (fun c _ => by rw [hk, key_coreState]; omega), rd_stopMarked hq (by rw [hk, key_fltDie]; omega),
    rd_fenceDie_of_ne (by rw [hk, key_dlStatus]; omega) (by rw [hk]; decide) (by rw [hk]; decide)]
  exact ha

/-- A register outside the records and the addendum's state, after the record of the stop. -/
theorem rd_stopLost {r : Reg} (hn : noteKept r) (hr : r.key ≠ 0xF00000000098) (cause : Nat) :
    (stopLost s d cause).rd r = (loseDie (stopMarked s d cause) d).rd r := by
  unfold stopLost
  generalize hL : loseDie (stopMarked s d cause) d = u
  have h0 : u.get .FOL_ADD_STATE F.FOL_ADD_STATE_STATE = 0 := hL ▸ addState_loseDie hd hq ha cause
  refine (rd_noteFault hn _ (e := ⟨3, 0x2100 + d, none, cause, 3, 0, 0⟩) (Nat.lt_of_sub_eq_succ rfl) 3).trans ?_
  exact rd_dropPoints (s := { u with arc := { u.arc with members := u.arc.members.filter fun m => m.1 / 24 != d } }) (h0.trans_ne (by decide)) hr _

/-- What is left of the stop in registers that no core state is. -/
theorem rd_dieStop {r : Reg} (h1 : dieState s d = 1) (hn : noteKept r)
    (hl : ∀ h < 64, LossKept h r) (hcs : ∀ c, r.key ≠ (Reg.CORE_STATE c).key) (hr : r.key ≠ 0xF00000000098) (cause : Nat) :
    (dieStop s d cause).rd r = (stopMarked s d cause).rd r := by
  rw [dieStop_of_service h1]
  refine (overAll_keeps_mem (g := (·.rd r)) (fun t h hm => ?_) _).trans ?_
  · have hh : h < 64 := lt_of_mem_handsOnDie hm
    exact rd_handLoss (hl h hh) (fun c _ => hcs c) t
  · rw [rd_stopLost hd hq ha hn hr, rd_loseDie_of_ne fun c _ => hcs c]

omit ha in
theorem coreState_stopMarked (cause : Nat) {c : Nat} (hc : c ∈ coresOnDie d) : (stopMarked s d cause).coreState c = s.coreState c := by
  have hc' := mem_coresOnDie.mp hc
  have hkey := key_coreState c
  have hge := key_coreState_ge c
  have h1 := rd_stopMarked (r := .CORE_STATE c) (d := d) hq (by rw [key_fltDie]; clear hkey; omega) cause
  have h2 := rd_fenceDie_of_ne (r := .CORE_STATE c) (d := d) (by rw [key_dlStatus]; omega) (by omega) (by omega) s
  exact congrArg F.CORE_STATE_STATE.get (h1.trans h2)

theorem coreState_stopLost (cause : Nat) {c : Nat} (hc : c ∈ coresOnDie d) :
    (stopLost s d cause).coreState c = if s.coreState c = 0 then 0 else 5 := by
  have hkey := key_coreState c
  have h1 := rd_stopLost (r := .CORE_STATE c) hd hq ha (by rw [noteKept]; omega) (by omega) cause
  have h2 := coreState_loseDie (stopMarked s d cause) hc
  rw [coreState_stopMarked hd hq cause hc] at h2
  exact (congrArg F.CORE_STATE_STATE.get h1).trans h2

theorem coreState_dieStop (h1 : dieState s d = 1) (cause : Nat) {c : Nat} (hc : c ∈ coresOnDie d) :
    (dieStop s d cause).coreState c = if s.coreState c = 0 then 0 else 5 := by
  have hc' := mem_coresOnDie.mp hc
  have hkey := key_coreState c
  rw [dieStop_of_service h1]
  refine overAll_inv (P := fun t => t.coreState c = if s.coreState c = 0 then 0 else 5) (fun t h hm ht => ?_)
    (coreState_stopLost hd hq ha cause hc)
  rw [coreState_handLoss (lossKept_of_key (lt_of_mem_handsOnDie hm) (by omega)) (by rw [ht]; split <;> decide) (by rw [ht]; split <;> decide), ht]

theorem dieStop_spec (h1 : dieState s d = 1) {cause : Nat} (hc : cause < 16) :
    dieState (dieStop s d cause) d = 2 ∧ (dieStop s d cause).get (.FLT_DIE d) F.FLT_DIE_CAUSE = cause ∧ linkState (dieStop s d cause) d = 4 ∧
      dieMasked (dieStop s d cause) d = true := by
  obtain ⟨hs, hca⟩ := get_stopMarked s d hc
  have hkf := key_fltDie d
  have hkl := key_dlStatus d
  have hkm := key_homeDieMask
  have hside : ∀ r : Reg, 0xF00002000000 ≤ r.key ∧ r.key < 0xF00005000000 ∨ 0xF00009000200 ≤ r.key ∧ r.key < 0xF00009000500 ∨ 0xF00010000000 ≤ r.key ∧ r.key < 0x100000000000000 →
      r.key < 0xF00001110000 ∨ (0xF00002000000 ≤ r.key ∧ r.key < 0xF00005000000) ∨ (0xF00009000200 ≤ r.key ∧ r.key < 0xF00009000500) ∨
        (0xF00010000000 ≤ r.key ∧ r.key < 0x100000000000000) := fun _ h => .inr h
  have hcore : ∀ r : Reg, r.key < 0xF00010000000 → ∀ c, r.key ≠ (Reg.CORE_STATE c).key := fun r hr c => by rw [key_coreState]; omega
  have hf : (dieStop s d cause).rd (.FLT_DIE d) = (stopMarked s d cause).rd (.FLT_DIE d) := rd_dieStop hd hq ha h1 (by rw [noteKept]; omega)
    (fun h hh => lossKept_of_key hh (hside _ (by omega))) (hcore _ (by omega)) (by omega) cause
  have hl : (dieStop s d cause).rd (.DL_STATUS d) = (stopMarked s d cause).rd (.DL_STATUS d) := rd_dieStop hd hq ha h1 (by rw [noteKept]; omega)
    (fun h hh => lossKept_of_key hh (hside _ (by omega))) (fun c => by rw [key_coreState]; omega) (by omega) cause
  have hm : (dieStop s d cause).rd .HOME_DIE_MASK = (stopMarked s d cause).rd .HOME_DIE_MASK := rd_dieStop hd hq ha h1 (by rw [noteKept]; omega)
    (fun h hh => lossKept_of_key hh (hside _ (by omega))) (hcore _ (by omega)) (by omega) cause
  refine ⟨?_, ?_, ?_, ?_⟩
  · rw [dieState, State.get, hf]; exact hs
  · rw [State.get, hf]; exact hca
  · rw [linkState, State.get, hl, rd_stopMarked hq (by rw [key_fltDie, key_dlStatus]; omega)]
    exact linkState_fenceDie s d
  · rw [dieMasked, hm, rd_stopMarked hq (by rw [key_fltDie, key_homeDieMask]; omega)]
    exact dieMasked_fenceDie s (by omega)

end Stopped

theorem faultStop : Claim.FaultStop := by
  refine ⟨fun d s h1 ha hq => ⟨fun e he hok => ?_, fun who v hw ho hd => ?_⟩, fun d cause s h1 h3 => ?_, fun d s => ⟨fun h => ?_, fun h => ?_, fun h => ?_⟩,
    fun who v s h => ?_⟩
  · have hx : exec (.dieStopDeclare d e.1) s = .next (dieStop s d e.1) := by
      simp only [List.mem_cons, List.not_mem_nil, or_false] at he
      have hif : (if e.2 then Host.Outcome.next (dieStop s d e.1) else .next s : Out) = .next (dieStop s d e.1) := if_pos hok
      rcases he with rfl | rfl | rfl | rfl <;> exact hif
    obtain ⟨hs, hc, hl, hm⟩ := dieStop_spec d.isLt hq ha h1 (cause := e.1.val) (by omega)
    exact ⟨_, hx, hs, hc, hl, hm, fun c hc => coreState_dieStop d.isLt hq ha h1 _ hc⟩
  · have hx : exec (.fltDieCmdStop who v) s = .next (dieStop s d 5) := (if_pos ⟨hw, ho⟩).trans (by rw [hd])
    exact ⟨_, hx, dieStop_spec d.isLt hq ha h1 (by decide)⟩
  · have hx : dieStop s d cause = s := by
      unfold dieStop
      exact if_pos ⟨h1, h3⟩
    have he : ∀ ok : Bool, (if ok then Host.Outcome.next (dieStop s d cause) else .next s : Out) = .next s := fun ok => by rw [hx, ite_self]
    exact he _
  · exact if_neg (by simp [h])
  · exact if_neg (by simp [h])
  · exact if_neg (by simp [h])
  · exact if_neg fun ⟨hw, ho⟩ => h.elim (fun h => by simp [hw] at h) fun h => h ho

end Sys2Proof.Machine
end

section
/-! SUPPORT. A stopped die rejoins: what each step of R441 leaves in its registers, its own record and the scrub. -/

namespace Sys2Proof.Machine

/-! ### A rejoin begins -/

theorem key_homeScrub : Reg.HOME_SCRUB.key = 0xF00002000030 := rfl

theorem sameUnits_setDiePower (s : State) (d n : Nat) : sameUnits s (setDiePower s d n) := by
  unfold setDiePower
  split
  · rfl
  · exact (sameUnits_put ..).trans (sameUnits_arrive ..)

theorem rd_setDiePower {r : Reg} (h : arriveKept r) {d : Nat} (hr : r.key ≠ (Reg.SCK_DIE d).key) (s : State) (n : Nat) :
    (setDiePower s d n).rd r = s.rd r := by
  unfold setDiePower
  split
  · rfl
  · rw [rd_arrive h, State.rd_put_ne hr]

theorem get_setDiePower_self (s : State) {d : Nat} (hd : d < 16) {n : Nat} (hn : n < 4) : (setDiePower s d n).get (.SCK_DIE d) F.SCK_DIE_STATE = n := by
  have hk := key_sckDie d
  unfold setDiePower
  split
  · assumption
  · rw [State.get, rd_arrive ⟨by omega, by omega⟩]
    exact (State.get_put_self (by decide) (by decide) s _ n).trans (Nat.mod_eq_of_lt hn)

theorem fltDie_setDiePower (s : State) {d : Nat} (hd : d < 16) (n : Nat) : (setDiePower s d n).rd (.FLT_DIE d) = s.rd (.FLT_DIE d) := by
  have hk := key_fltDie d
  have hk' := key_sckDie d
  exact rd_setDiePower ⟨by omega, by omega⟩ (by omega) s n

/-- What every rejoin begins with: STATE reads REJOINING, the rail is gone, and only the die's own record changes among the dies. -/
theorem beginRejoin_spec (s : State) (d : Fin 16) (auto : Bool) :
    dieState (beginRejoin s d auto) d = 3 ∧ (beginRejoin s d auto).get (.SCK_DIE d) F.SCK_DIE_STATE = 3 ∧
      (beginRejoin s d auto).get (.FLT_DIE d) F.FLT_DIE_AUTO_HELD = s.get (.FLT_DIE d) F.FLT_DIE_AUTO_HELD ∧
      (beginRejoin s d auto).die d = { s.die d with rejoin := 1, auto := auto, wake := none } ∧ diesBut s (beginRejoin s d auto) [d.val] ∧
      beginRejoin s d auto = { s with regs := (beginRejoin s d auto).regs, dies := (beginRejoin s d auto).dies, flips := (beginRejoin s d auto).flips } := by
  let u := s.setDie d { s.die d with rejoin := 1, auto := auto, wake := none }
  have hx : beginRejoin s d auto = setDiePower (setDieState u d 3) d 3 := rfl
  have hu : sameUnits u (setDiePower (setDieState u d 3) d 3) := (sameUnits_put ..).trans (sameUnits_setDiePower ..)
  have hf := fltDie_setDiePower (setDieState u d 3) d.isLt 3
  have hdies : ∀ k, (setDiePower (setDieState u d 3) d 3).die k = u.die k := fun k => by rw [hu]; rfl
  rw [hx]
  refine ⟨?_, get_setDiePower_self _ d.isLt (by decide), ?_, ?_, fun k hk => ?_, ?_⟩
  · rw [dieState, State.get, hf]
    exact State.get_put_self (by decide) (by decide) u _ 3
  · rw [State.get, hf]
    exact State.get_put_apart (by decide) (by decide) (by decide) u _ 3
  · rw [hdies]
    exact State.die_setDie_self ..
  · rw [hdies]
    exact State.die_setDie_ne _ _ _ _ (by simpa using hk)
  · rw [hu]
    rfl

/-- The refusal of a die that does not fit the folio. -/
theorem refused_spec (s : State) (d : Fin 16)
    (hx : exec (.rejoinFolioReapply d) s = .next (setDiePower (setDieState
      ((s.fault ⟨4, 0x2100 + d.val, none, 0, 3, 0, 0⟩).setDie d { s.die d with rejoin := 0, wake := none }) d 4) d 3)) :
    ∃ t, exec (.rejoinFolioReapply d) s = .next t ∧ dieState t d = 4 ∧ t.get (.SCK_DIE d) F.SCK_DIE_STATE = 3 ∧
      (t.die d).rejoin = 0 ∧ diesBut s t [d.val] := by
  let v := s.fault ⟨4, 0x2100 + d.val, none, 0, 3, 0, 0⟩
  have hv : sameUnits s v := sameUnits_noteFault ..
  let u := v.setDie d { s.die d with rejoin := 0, wake := none }
  have hu : sameUnits u (setDiePower (setDieState u d 4) d 3) := (sameUnits_put ..).trans (sameUnits_setDiePower ..)
  have hdies : ∀ k, (setDiePower (setDieState u d 4) d 3).die k = u.die k := fun k => by rw [hu]; rfl
  refine ⟨_, hx, ?_, get_setDiePower_self _ d.isLt (by decide), ?_, fun k hk => ?_⟩
  · rw [dieState, State.get, fltDie_setDiePower _ d.isLt]
    exact State.get_put_self (by decide) (by decide) u _ 4
  · rw [hdies, State.die_setDie_self]
  · rw [hdies, State.die_setDie_ne _ _ _ _ (by simpa using hk), hv]
    rfl

/-! ### The folio content of a die in Play again -/

/-- Steps that keep the dies and HOME_SCRUB. -/
structure ScrubKept (s t : State) : Prop where
  dies : t.dies = s.dies
  scrub : t.rd .HOME_SCRUB = s.rd .HOME_SCRUB

theorem ScrubKept.refl (s : State) : ScrubKept s s := ⟨rfl, rfl⟩

theorem ScrubKept.trans {s t u : State} (h : ScrubKept s t) (h' : ScrubKept t u) : ScrubKept s u :=
  ⟨h'.dies.trans h.dies, h'.scrub.trans h.scrub⟩

theorem ScrubKept.of_wr {s : State} {r : Reg} (h : r.key ≠ 0xF00002000030) (w : Word) : ScrubKept s (s.wr r w) :=
  ⟨rfl, State.rd_wr_ne _ _ _ _ (Ne.symm h)⟩

theorem ScrubKept.of_put {s : State} {r : Reg} (h : r.key ≠ 0xF00002000030) (f : Fld) (n : Nat) : ScrubKept s (s.put r f n) :=
  ⟨rfl, State.rd_put_ne (Ne.symm h) ..⟩

theorem ScrubKept.of_clr {s : State} {r : Reg} (h : r.key ≠ 0xF00002000030) : ScrubKept s (s.clr r) :=
  ⟨rfl, State.rd_clr_ne _ _ _ (Ne.symm h)⟩

theorem ScrubKept.overAll {α : Type} {f : State → α → State} {l : List α} (h : ∀ s, ∀ a ∈ l, ScrubKept s (f s a)) (s : State) :
    ScrubKept s (overAll l f s) :=
  overAll_inv (P := ScrubKept s) (fun t a ha ht => ht.trans (h t a ha)) (.refl s)

theorem scrubKept_clearShelver (s : State) (d : Nat) : ScrubKept s (clearShelver s d) := by
  refine ((ScrubKept.overAll (fun t r hr => .of_clr ?_) s).trans (.overAll (fun t k _ => .of_clr ?_) _)).trans
    (.overAll (fun t k _ => (ScrubKept.of_clr ?_).trans (.of_clr ?_)) _)
  · simp only [List.mem_cons, List.not_mem_nil, or_false] at hr
    rcases hr with rfl | rfl | rfl | rfl | rfl | rfl | rfl | rfl <;> simp only [Reg.key] <;> omega
  all_goals simp only [Reg.key]; omega

theorem scrubKept_ite {s t : State} {p : Prop} [Decidable p] (h : ScrubKept s t) : ScrubKept s (if p then s else t) := by
  split
  · exact .refl s
  · exact h

theorem scrubKept_setMember (s : State) {h c : Nat} (hh : h < 64) (hc : c < 384) (b : Bool) : ScrubKept s (setMember s h c b) := by
  refine (ScrubKept.of_wr ?_ _).trans (.of_put ?_ ..)
  · rw [key_fabHandCores]; omega
  · rw [key_fabHand]; omega

theorem scrubKept_applyDie (s : State) (f : Folio) {d : Nat} (hd : d < 16) : ScrubKept s (applyDie s f d) := by
  have h1 : (Reg.SCK_DIE d).key ≠ 0xF00002000030 := by rw [key_sckDie]; omega
  have h2 : (Reg.CORE_DIE_OP d).key ≠ 0xF00002000030 := by simp only [Reg.key]; omega
  have h3 : (Reg.DL_REPAIR_CFG d).key ≠ 0xF00002000030 := by simp only [Reg.key]; omega
  refine (ScrubKept.overAll (fun t c hc => .overAll (fun u h hh => ?_) t) s).trans (ScrubKept.trans (.overAll (fun t e _ => .of_put ?_ ..) _)
    ((((((ScrubKept.of_put h1 ..).trans (.of_put h1 ..)).trans (.of_put h2 ..)).trans (.of_put h3 ..)).trans (.of_put h3 ..)).trans (.of_put h3 ..)))
  · have hc' := mem_coresOnDie.mp hc
    exact scrubKept_ite (scrubKept_setMember u (List.mem_range.mp hh) (c := c) (by omega) _)
  · simp only [Reg.key]; omega

theorem scrubKept_loadDeal (s : State) (f : Folio) {p : Nat} (hp : p < 32) : ScrubKept s (loadDeal s f p) := by
  have hl := dealLen_le p
  refine (ScrubKept.overAll (fun t k hk => ?_) s).trans ((ScrubKept.of_wr ?_ _).trans (.of_wr ?_ _))
  · have hk' := List.mem_range.mp hk
    refine (ScrubKept.of_wr ?_ _).trans (.of_wr ?_ _) <;> simp only [Reg.key] <;> omega
  all_goals simp only [Reg.key]; omega

/-- The folio content of a die that fits, with its points as after reset. -/
def reapplied (s : State) (d : Nat) : State :=
  let s := clearShelver s d
  let s := applyDie s s.folio d
  let s := loadDeal (loadDeal s s.folio d) s.folio (0x10 + d)
  (s.setPoint d (Point.init d)).setPoint (0x10 + d) (Point.init (0x10 + d))

theorem reapplied_spec (s : State) (d : Fin 16) :
    ScrubKept s (reapplied s d) ∧ (reapplied s d).point d = Point.init d := by
  have h1 (f : Folio) := (scrubKept_clearShelver s d).trans (scrubKept_applyDie _ f d.isLt)
  have h2 (f g : Folio) := (h1 f).trans (scrubKept_loadDeal _ g (Nat.lt_trans d.isLt (show 16 < 32 by decide)))
  have h3 (f g h : Folio) := (h2 f g).trans (scrubKept_loadDeal _ h (show 0x10 + d.val < 32 by omega))
  refine ⟨⟨(h3 _ _ _).dies, (h3 _ _ _).scrub⟩, ?_⟩
  unfold reapplied
  dsimp only
  rw [State.point_setPoint_ne _ _ _ _ (by omega), State.point_setPoint_self]

/-- The die's record moves on to the scrub. -/
def scrubDue (s : State) (d : Nat) : State := (reapplied s d).setDie d { (reapplied s d).die d with rejoin := 4, capOld := none }

theorem reapply_of_fits {s : State} {d : Fin 16} (h3 : dieState s d = 3) (hr : (s.die d).rejoin = 3)
    (ha : s.get .FOL_ADD_STATE F.FOL_ADD_STATE_STATE = 0) (hf : dieFits s s.folio d = true) (hl : levelsMatch s s.folio d = true) :
    exec (.rejoinFolioReapply d) s =
      .next (if (scrubDue s d).get .HOME_SCRUB F.HOME_SCRUB_BUSY = 0 then startScrub (scrubDue s d) d else scrubDue s d) := by
  have hn : ¬ (dieState s d ≠ 3 ∨ (s.die d).rejoin ≠ 3 ∨ s.get .FOL_ADD_STATE F.FOL_ADD_STATE_STATE ≠ 0) := by
    rintro (h | h | h)
    · exact h h3
    · exact h hr
    · exact h ha
  refine (if_neg hn).trans (if_neg ?_)
  rw [hf, hl]
  decide

theorem scrubDue_spec (s : State) (d : Fin 16) :
    (scrubDue s d).rd .HOME_SCRUB = s.rd .HOME_SCRUB ∧ ((scrubDue s d).die d).rejoin = 4 ∧ ((scrubDue s d).die d).capOld = none ∧
      (scrubDue s d).point d = Point.init d ∧ diesBut s (scrubDue s d) [d.val] := by
  obtain ⟨hk, hp⟩ := reapplied_spec s d
  refine ⟨hk.scrub, ?_, ?_, hp, fun k hk' => ?_⟩
  · rw [scrubDue, State.die_setDie_self]
  · rw [scrubDue, State.die_setDie_self]
  · rw [scrubDue, State.die_setDie_ne _ _ _ _ (by simpa using hk'), State.die, State.die, hk.dies]

/-- A slice's scrub back at its first set. -/
def rescan (s : State) (n : Nat) : State := s.setSlice n { s.slice n with scrub := 0 }

/-- The scrub of a die begins in every slice, and nothing else of a die changes. -/
theorem startScrub_spec (s : State) (d : Fin 16) :
    (startScrub s d).die d = { s.die d with rejoin := 5 } ∧ (startScrub s d).points = s.points ∧
      (startScrub s d).get .HOME_SCRUB F.HOME_SCRUB_BUSY = 1 ∧ (startScrub s d).get .HOME_SCRUB F.HOME_SCRUB_DIE = d.val ∧
      (startScrub s d).get .HOME_SCRUB F.HOME_SCRUB_DONE = 0 ∧ diesBut s (startScrub s d) [d.val] := by
  let u := s.setDie d { s.die d with rejoin := 5 }
  have hx : startScrub s d = (((overAll (List.range 16) rescan u).put .HOME_SCRUB F.HOME_SCRUB_BUSY 1).put .HOME_SCRUB F.HOME_SCRUB_DIE d).put
    .HOME_SCRUB F.HOME_SCRUB_DONE 0 := rfl
  have hd : (startScrub s d).dies = u.dies := by
    simp only [hx, State.put, State.wr_dies]
    exact overAll_keeps_mem (g := State.dies) (fun t n _ => State.setSlice_dies t n _) u
  have hp : (startScrub s d).points = s.points := by
    simp only [hx, State.put, State.wr_points]
    exact overAll_keeps_mem (g := State.points) (fun t n _ => State.setSlice_points t n _) u
  refine ⟨?_, hp, ?_, ?_, ?_, fun k hk => ?_⟩
  · rw [State.die, hd]
    exact State.die_setDie_self ..
  · rw [hx, State.get_put_apart (by decide) (by decide) (by decide), State.get_put_apart (by decide) (by decide) (by decide)]
    exact State.get_put_self (by decide) (by decide) ..
  · rw [hx, State.get_put_apart (by decide) (by decide) (by decide)]
    exact (State.get_put_self (by decide) (by decide) ..).trans (Nat.mod_eq_of_lt d.isLt)
  · rw [hx]
    exact State.get_put_self (by decide) (by decide) ..
  · rw [State.die, hd]
    exact State.die_setDie_ne _ _ _ _ (by simpa using hk)

/-! ### A die enters service -/

/-- A LOST core becomes STOPPED. -/
def regainCore (s : State) (c : Nat) : State := if s.coreState c = 5 then s.setCoreState c 1 else s

theorem rd_regainCore_of_ne {c : Nat} {r : Reg} (h : r.key ≠ (Reg.CORE_STATE c).key) (s : State) : (regainCore s c).rd r = s.rd r := by
  unfold regainCore
  split
  · exact State.rd_put_ne h ..
  · rfl

theorem coreState_regainCore_self (s : State) (c : Nat) : (regainCore s c).coreState c = if s.coreState c = 5 then 1 else s.coreState c := by
  unfold regainCore
  split
  · exact State.get_put_self (by decide) (by decide) _ _ 1
  · rfl

theorem coreState_regainCore_ne {a b : Nat} (h : b ≠ a) (s : State) : (regainCore s a).coreState b = s.coreState b := by
  rw [State.coreState, State.get, rd_regainCore_of_ne (coreState_ne h)]
  rfl

theorem coreState_regained (s : State) {d c : Nat} (hc : c ∈ coresOnDie d) :
    (overAll (coresOnDie d) regainCore s).coreState c = if s.coreState c = 5 then 1 else s.coreState c :=
  overAll_each (step := regainCore) (read := State.coreState) (val := fun t c => if t.coreState c = 5 then 1 else t.coreState c)
    (nodup_coresOnDie d) (fun t a _ => coreState_regainCore_self t a) (fun t _ _ _ _ h => coreState_regainCore_ne h t)
    (fun t _ _ _ _ h => by rw [coreState_regainCore_ne h]) s hc

theorem regainCore_eq (s : State) (c : Nat) : regainCore s c = { s with regs := (regainCore s c).regs } := by
  unfold regainCore
  split <;> rfl

theorem regained_eq (l : List Nat) (s : State) : overAll l regainCore s = { s with regs := (overAll l regainCore s).regs } :=
  overAll_rel (R := fun s t => t = { s with regs := t.regs }) (fun _ => rfl) (fun {s t u} h h' => by rw [h', h]) regainCore_eq l s

theorem regained_dies (l : List Nat) (s : State) : (overAll l regainCore s).dies = s.dies :=
  overAll_keeps_mem (g := State.dies) (fun t c _ => by rw [regainCore_eq]) s

theorem setDieState_eq_of_regs {s v : State} {d : Nat} {x : Die} (h : v = { s.setDie d x with regs := v.regs }) (e n : Nat) :
    setDieState v e n = { s with regs := (setDieState v e n).regs, dies := (setDieState v e n).dies } := by
  have hs : setDieState v e n = { v with regs := (setDieState v e n).regs } := rfl
  rw [hs]
  cases v
  cases h
  rfl

theorem enterService_spec {s : State} {d : Fin 16} (h3 : dieState s d = 3) (hr : (s.die d).rejoin = 5) (hm : dieMasked s d = false) :
    ∃ t, exec (.dieEnterService d) s = .next t ∧ dieState t d = 1 ∧ (t.die d).rejoin = 0 ∧
      (∀ c ∈ coresOnDie d, t.coreState c = if s.coreState c = 5 then 1 else s.coreState c) ∧ diesBut s t [d.val] ∧
      regsBut s t (.FLT_DIE d :: (coresOnDie d).map Reg.CORE_STATE) ∧ t = { s with regs := t.regs, dies := t.dies } := by
  let u := s.setDie d { s.die d with rejoin := 0, since := if (s.die d).auto then s.mtime + 1 else 0, auto := false }
  have hx : exec (.dieEnterService d) s = .next (setDieState (overAll (coresOnDie d) regainCore u) d 1) := if_pos ⟨h3, hr, by rw [hm]; decide⟩
  have he := regained_eq (coresOnDie d) u
  have hdie : ∀ k, (setDieState (overAll (coresOnDie d) regainCore u) d 1).die k = u.die k := fun k => by
    rw [setDieState, State.put, State.die_wr, State.die, State.die, regained_dies]
  refine ⟨_, hx, State.get_put_self (by decide) (by decide) _ _ 1, ?_, fun c hc => ?_, fun k hk => ?_, fun r hr => ?_, ?_⟩
  · rw [hdie, State.die_setDie_self]
  · have hne : (Reg.CORE_STATE c).key ≠ (Reg.FLT_DIE d).key := by
      have := key_coreState_ge c
      rw [key_fltDie]
      omega
    have hc' : (overAll (coresOnDie d) regainCore u).coreState c = if s.coreState c = 5 then 1 else s.coreState c := coreState_regained u hc
    rw [← hc']
    exact State.get_put_ne hne ..
  · rw [hdie]
    exact State.die_setDie_ne _ _ _ _ (by simpa using hk)
  · rw [setDieState, State.rd_put_ne (hr _ List.mem_cons_self)]
    exact overAll_keeps_mem (g := (·.rd r)) (fun t c hc => rd_regainCore_of_ne (hr _ (List.mem_cons_of_mem _ (List.mem_map_of_mem hc))) t) u
  · exact setDieState_eq_of_regs he d 1

/-! ### The obligation -/

theorem faultRejoin : Claim.FaultRejoin := by
  refine ⟨fun who v d s hw ho hd h => ?_, fun d s h2 hh hj => ?_, fun d s hh => if_neg fun h => ?_, fun d s h3 hr => ?_, fun d s h3 hr ha hf => ?_,
    fun d s h3 hr ha hf hl hb => ?_, fun d s h3 hr ha hf hl hb => ?_, fun d s => enterService_spec⟩
  · let u := s.put (.FLT_DIE d) F.FLT_DIE_AUTO_HELD 0
    have hx : exec (.fltDieCmdRejoin who v) s = .next (beginRejoin u d false) := by
      refine (if_pos ⟨hw, ho, by rw [hd]; exact h⟩).trans ?_
      rw [hd]
    obtain ⟨hs, hp, hh, hk, hb, he⟩ := beginRejoin_spec u d false
    refine ⟨_, hx, hs, hp, hh.trans (State.get_put_self (by decide) (by decide) ..), hk, hb, ?_⟩
    rw [he]
    rfl
  · obtain ⟨hs, hp, -, hk, hb, -⟩ := beginRejoin_spec s d true
    exact ⟨_, if_pos ⟨h2, hh, hj⟩, hs, hp, hk, hb⟩
  · obtain ⟨-, h0, -⟩ := h
    exact absurd (hh.symm.trans h0) (by decide)
  · refine ⟨_, if_pos ⟨h3, hr⟩, State.die_setDie_self .., fun k hk => State.die_setDie_ne _ _ _ _ (by simpa using hk), fun r hne => ?_, rfl⟩
    exact State.rd_put_ne (hne _ List.mem_cons_self) ..
  · have hn : ¬ (dieState s d ≠ 3 ∨ (s.die d).rejoin ≠ 3 ∨ s.get .FOL_ADD_STATE F.FOL_ADD_STATE_STATE ≠ 0) := by
      rintro (h | h | h)
      · exact h h3
      · exact h hr
      · exact h ha
    exact refused_spec s d ((if_neg hn).trans (if_pos (by rw [hf]; rfl)))
  · obtain ⟨hr', -, hc, hp, hb'⟩ := scrubDue_spec s d
    obtain ⟨hk, hps, h1, h2, h0, hd⟩ := startScrub_spec (scrubDue s d) d
    have hz : (scrubDue s d).get .HOME_SCRUB F.HOME_SCRUB_BUSY = 0 := (congrArg F.HOME_SCRUB_BUSY.get hr').trans hb
    refine ⟨_, (reapply_of_fits h3 hr ha hf hl).trans (by rw [if_pos hz]), by rw [hk], by rw [hk]; exact hc, ?_, h1, h2, h0,
      fun k hk' => (hd k hk').trans (hb' k hk')⟩
    rw [State.point, hps]
    exact hp
  · obtain ⟨hr', h4, hc, hp, hb'⟩ := scrubDue_spec s d
    have hz : ¬ (scrubDue s d).get .HOME_SCRUB F.HOME_SCRUB_BUSY = 0 := fun h => by
      have h' := (congrArg F.HOME_SCRUB_BUSY.get hr').symm.trans h
      exact absurd (hb.symm.trans h') (by decide)
    exact ⟨_, (reapply_of_fits h3 hr ha hf hl).trans (by rw [if_neg hz]), h4, hc, hp, hr', hb'⟩

/-- Settles O25: the stop by what is left in FLT_DIE, the link, the mask and the core states; the rejoin step by step. -/
theorem faultDies : Obligations.FaultDies := ⟨faultStop, faultRejoin⟩

end Sys2Proof.Machine
end

section
/-! SUPPORT. The translation of an address, its traps and all that a cache or tag error can set off leave vxsat and vtype of every core as they are: one lemma per function of the model (R135, R136). -/

namespace Sys2Proof.Machine

/-! ### The two CSRs that no translation and no trap writes -/

/-- A register that is neither vxsat nor vtype of a core (CSRs 0x009 and 0xC21), as its key shows modulo 64. -/
def Reg.vfree (r : Reg) : Prop := r.key % 64 ≠ 9 ∧ r.key % 64 ≠ 33

/-- Every other register than a CSR stands at a multiple of four. -/
theorem vfree_of_ne {r : Reg} (h : ∀ c n, r ≠ .CSR c n) : r.vfree := by
  cases r with
  | CSR c n => exact absurd rfl (h c n)
  | _ => simp only [Reg.vfree, Reg.key]; omega

theorem vfree_csr {c n : Nat} (h : n % 64 ≠ 9 ∧ n % 64 ≠ 33) : (Reg.CSR c n).vfree := by
  simp only [Reg.vfree, Reg.key]
  omega

@[simp] theorem vfree_coreState (a : Nat) : (Reg.CORE_STATE a).vfree := vfree_of_ne nofun
@[simp] theorem vfree_fltInject : (Reg.FLT_INJECT).vfree := vfree_of_ne nofun
@[simp] theorem vfree_ticTally (a : Nat) : (Reg.TIC_TALLY a).vfree := vfree_of_ne nofun
@[simp] theorem vfree_ticSat (a : Nat) : (Reg.TIC_SAT a).vfree := vfree_of_ne nofun
@[simp] theorem vfree_fltClassCnt (a : Nat) : (Reg.FLT_CLASS_CNT a).vfree := vfree_of_ne nofun
@[simp] theorem vfree_fltStatus : (Reg.FLT_STATUS).vfree := vfree_of_ne nofun
@[simp] theorem vfree_fltTail : (Reg.FLT_TAIL).vfree := vfree_of_ne nofun
@[simp] theorem vfree_fltRec (a b : Nat) : (Reg.FLT_REC a b).vfree := vfree_of_ne nofun
@[simp] theorem vfree_qpState (a b : Nat) : (Reg.QP_STATE a b).vfree := vfree_of_ne nofun
@[simp] theorem vfree_fabHand (a : Nat) : (Reg.FAB_HAND a).vfree := vfree_of_ne nofun
@[simp] theorem vfree_csqLdgErr (a : Nat) : (Reg.CSQ_LDG_ERR a).vfree := vfree_of_ne nofun
@[simp] theorem vfree_csqLdgPhase (a : Nat) : (Reg.CSQ_LDG_PHASE a).vfree := vfree_of_ne nofun
@[simp] theorem vfree_dlStatus (a : Nat) : (Reg.DL_STATUS a).vfree := vfree_of_ne nofun
@[simp] theorem vfree_homeInject (a : Nat) : (Reg.HOME_INJECT a).vfree := vfree_of_ne nofun
@[simp] theorem vfree_homePoisoned (a : Nat) : (Reg.HOME_POISONED a).vfree := vfree_of_ne nofun
@[simp] theorem vfree_homeErr (a : Nat) : (Reg.HOME_ERR a).vfree := vfree_of_ne nofun
@[simp] theorem vfree_homeStale (a : Nat) : (Reg.HOME_STALE a).vfree := vfree_of_ne nofun
@[simp] theorem vfree_homeScrub : (Reg.HOME_SCRUB).vfree := vfree_of_ne nofun
@[simp] theorem vfree_homeDieMask : (Reg.HOME_DIE_MASK).vfree := vfree_of_ne nofun
@[simp] theorem vfree_folAddState : (Reg.FOL_ADD_STATE).vfree := vfree_of_ne nofun
@[simp] theorem vfree_folErr : (Reg.FOL_ERR).vfree := vfree_of_ne nofun
@[simp] theorem vfree_sckDie (a : Nat) : (Reg.SCK_DIE a).vfree := vfree_of_ne nofun
@[simp] theorem vfree_fltDie (a : Nat) : (Reg.FLT_DIE a).vfree := vfree_of_ne nofun
@[simp] theorem vfree_fabCommitPend : (Reg.FAB_COMMIT_PEND).vfree := vfree_of_ne nofun

/-- The words of vxsat and vtype of every core. -/
def State.vcsr (s : State) : Nat → Option Word := fun k => if k % 64 = 9 ∨ k % 64 = 33 then s.regs.get? k else none

theorem vcsr_of_regs {s t : State} (h : t.regs = s.regs) : t.vcsr = s.vcsr := by unfold State.vcsr; rw [h]

@[simp] theorem vcsr_ite (c : Prop) [Decidable c] (s t : State) : (if c then s else t).vcsr = if c then s.vcsr else t.vcsr := apply_ite ..

@[simp] theorem vcsr_ite_snd {α : Type} (c : Prop) [Decidable c] (p q : α × State) :
    (if c then p else q).2.vcsr = if c then p.2.vcsr else q.2.vcsr := by split <;> rfl

@[simp] theorem vcsr_overAll {α : Type} (l : List α) (f : State → α → State) (s : State) (h : ∀ s a, (f s a).vcsr = s.vcsr) :
    (overAll l f s).vcsr = s.vcsr := overAll_keeps_mem (fun s a _ => h s a) s

theorem vcsr_foldl_snd {α β : Type} (l : List α) (f : β × State → α → β × State) (r : β × State)
    (h : ∀ r a, (f r a).2.vcsr = r.2.vcsr) : (l.foldl f r).2.vcsr = r.2.vcsr := by
  induction l generalizing r with
  | nil => rfl
  | cons a l ih => exact (ih _).trans (h r a)

@[simp] theorem vcsr_foldl {α : Type} (l : List α) (f : State → α → State) (s : State) (h : ∀ s a, (f s a).vcsr = s.vcsr) :
    (l.foldl f s).vcsr = s.vcsr := vcsr_overAll l f s h

theorem vcsr_snd {α : Type} {p : α × State} {a : α} {t : State} (h : p = (a, t)) : t.vcsr = p.2.vcsr := by rw [h]

@[simp] theorem vcsr_wr (s : State) {r : Reg} (h : r.vfree) (w : Word) : (s.wr r w).vcsr = s.vcsr := by
  refine funext fun k => if_ctx_congr Iff.rfl (fun h' => NMap.get?_set_ne _ _ _ _ ?_) fun _ => rfl
  rintro rfl
  exact h'.elim h.1 h.2

@[simp] theorem vcsr_put (s : State) {r : Reg} (h : r.vfree) (f : Fld) (n : Nat) : (s.put r f n).vcsr = s.vcsr := vcsr_wr s h _

@[simp] theorem vcsr_addSat (s : State) {r : Reg} (h : r.vfree) (f : Fld) (n : Nat) : (s.addSat r f n).vcsr = s.vcsr := vcsr_wr s h _

@[simp] theorem vcsr_inc (s : State) {r : Reg} (h : r.vfree) (f : Fld) : (s.inc r f).vcsr = s.vcsr := vcsr_wr s h _

@[simp] theorem vcsr_mk (c fr rg fo lk po sl di co ch pt fn q le dr io ob fl ar mg tp pw ht ev ou pe) :
    State.vcsr (State.mk c fr rg fo lk po sl di co ch pt fn q le dr io ob fl ar mg tp pw ht ev ou pe) =
      fun k => if k % 64 = 9 ∨ k % 64 = 33 then rg.get? k else none := rfl

@[simp] theorem vcsr_eq (s : State) : (fun k => if k % 64 = 9 ∨ k % 64 = 33 then s.regs.get? k else none) = s.vcsr := rfl

@[simp] theorem vcsr_fresh (s : State) : (State.fresh s).2.vcsr = s.vcsr := by simp [State.fresh]

@[simp] theorem vcsr_countEv (s : State) (u : ℕ) (ev : ℕ) (n : ℕ) : (State.countEv s u ev n).vcsr = s.vcsr := by simp [State.countEv]

@[simp] theorem vcsr_countBlk (s : State) (b : ℕ) (ev : ℕ) (n : ℕ) : (State.countBlk s b ev n).vcsr = s.vcsr := by simp [State.countBlk]

@[simp] theorem vcsr_setLink (s : State) (d : ℕ) (r : Dir) (l : Link) : (State.setLink s d r l).vcsr = s.vcsr := by simp [State.setLink]

@[simp] theorem vcsr_setPoint (s : State) (p : ℕ) (x : Point) : (State.setPoint s p x).vcsr = s.vcsr := by simp [State.setPoint]

@[simp] theorem vcsr_setSlice (s : State) (n : ℕ) (x : Slice) : (State.setSlice s n x).vcsr = s.vcsr := by simp [State.setSlice]

@[simp] theorem vcsr_setDie (s : State) (d : ℕ) (x : Die) : (State.setDie s d x).vcsr = s.vcsr := by simp [State.setDie]

@[simp] theorem vcsr_setCore (s : State) (c : ℕ) (x : Core) : (State.setCore s c x).vcsr = s.vcsr := by simp [State.setCore]

@[simp] theorem vcsr_setChan (s : State) (n : ℕ) (x : Chan) : (State.setChan s n x).vcsr = s.vcsr := by simp [State.setChan]

@[simp] theorem vcsr_setQueue (s : State) (f : FnId) (q : ℕ) (x : Queue) :
    (State.setQueue s f q x).vcsr = s.vcsr := by simp [State.setQueue]

@[simp] theorem vcsr_setLedger (s : State) (h : ℕ) (x : Ledger) : (State.setLedger s h x).vcsr = s.vcsr := by simp [State.setLedger]

@[simp] theorem vcsr_sramWrite (s : State) (st : ℕ) (unit : ℕ) (idx : ℕ) : (sramWrite s st unit idx).vcsr = s.vcsr := by simp [sramWrite]

@[simp] theorem vcsr_sramClear (s : State) (st : ℕ) (unit : ℕ) (idx : ℕ) : (sramClear s st unit idx).vcsr = s.vcsr := by simp [sramClear]

@[simp] theorem vcsr_setCoreState (s : State) (c : ℕ) (n : ℕ) : (State.setCoreState s c n).vcsr = s.vcsr := by simp [State.setCoreState]

@[simp] theorem vcsr_setTally (s : State) (n : ℕ) (v : ℕ) : (State.setTally s n v).vcsr = s.vcsr := by simp [State.setTally]

@[simp] theorem vcsr_arrive (s : State) (n : ℕ) : (State.arrive s n).vcsr = s.vcsr := by simp [State.arrive]

@[simp] theorem vcsr_overflowClass (s : State) : (State.overflowClass s).vcsr = s.vcsr := by simp [State.overflowClass]

@[simp] theorem vcsr_writeRecord (s : State) (e : FaultEv) (sev : ℕ) :
    (State.writeRecord s e sev).vcsr = s.vcsr := by simp [State.writeRecord]

@[simp] theorem vcsr_noteFault (s : State) (e : FaultEv) (sev : ℕ) : (State.noteFault s e sev).vcsr = s.vcsr := by simp [State.noteFault]

@[simp] theorem vcsr_endSlip (s : State) (f : FnId) (q : ℕ) (seq : ℕ) (status : ℕ) (result : ℕ) (flags : ℕ) :
    (State.endSlip s f q seq status result flags).vcsr = s.vcsr := by
  unfold State.endSlip
  dsimp only
  split <;> simp

theorem vcsr_abortIntakes_post (s : State) (i : Intake) : (match i.posted with
    | some (f, q, seq, _) => s.endSlip f q seq 0x10 i.seq 0
    | none => s).vcsr = s.vcsr := by
  split <;> simp

@[simp] theorem vcsr_abortIntakes (s : State) (h : Nat) : (s.abortIntakes h).vcsr = s.vcsr :=
  vcsr_overAll _ _ _ vcsr_abortIntakes_post

@[simp] theorem vcsr_enterStopping (s : State) (c : ℕ) : (State.enterStopping s c).vcsr = s.vcsr := by simp [State.enterStopping]

@[simp] theorem vcsr_handLoss (s : State) (h : ℕ) : (State.handLoss s h).vcsr = s.vcsr := by simp [State.handLoss]

@[simp] theorem vcsr_fault (s : State) (e : FaultEv) : (State.fault s e).vcsr = s.vcsr := by
  unfold State.fault
  split <;> simp

@[simp] theorem vcsr_raise (s : State) {r : Reg} (h : r.vfree) (b : ℕ) (cls : ℕ) (unit : ℕ) (hand : Option ℕ) (sev : ℕ) (addr : ℕ) :
    (State.raise s r b cls unit hand sev addr).vcsr = s.vcsr := by simp [State.raise, h]

@[simp] theorem vcsr_send (s : State) (p : ℕ) (q : ℕ) (m : Msg) : (State.send s p q m).vcsr = s.vcsr := by simp [State.send]

@[simp] theorem vcsr_setCsr (s : State) (c : ℕ) {n : ℕ} (h : n % 64 ≠ 9 ∧ n % 64 ≠ 33) (w : Word) : (State.setCsr s c n w).vcsr = s.vcsr := by simp [State.setCsr, vfree_csr h]

@[simp] theorem vcsr_trapM (s : State) (c : ℕ) (isInt : Bool) (cause : ℕ) (tval : Word) :
    (trapM s c isInt cause tval).vcsr = s.vcsr := by simp [trapM]

@[simp] theorem vcsr_trapS (s : State) (c : ℕ) (isInt : Bool) (cause : ℕ) (tval : Word) :
    (trapS s c isInt cause tval).vcsr = s.vcsr := by simp [trapS]

@[simp] theorem vcsr_trapVs (s : State) (c : ℕ) (isInt : Bool) (cause : ℕ) (tval : Word) :
    (trapVs s c isInt cause tval).vcsr = s.vcsr := by simp [trapVs]

@[simp] theorem vcsr_trap (s : State) (c : ℕ) (cause : ℕ) (tval : Word) : (trap s c cause tval).vcsr = s.vcsr := by simp [trap]

@[simp] theorem vcsr_ledgerAccess (s : State) (c : ℕ) (va : Word) : (ledgerAccess s c va).vcsr = s.vcsr := by simp [ledgerAccess]

@[simp] theorem vcsr_setLinkState (s : State) (d : ℕ) (n : ℕ) : (setLinkState s d n).vcsr = s.vcsr := by simp [setLinkState]

@[simp] theorem vcsr_enter (s : State) (n : ℕ) (r : MemReq) (own : Bool) : (enter s n r own).vcsr = s.vcsr := by
  unfold enter
  dsimp only
  repeat' split
  all_goals simp

@[simp] theorem vcsr_admitOne (n : Nat) (st : State × List MemReq) (r : MemReq) : (admitOne n st r).1.vcsr = st.1.vcsr := by
  unfold admitOne
  dsimp only
  split
  · split <;> simp
  · rfl

@[simp] theorem vcsr_admitWaiting (s : State) (n : Nat) : (admitWaiting s n).vcsr = s.vcsr := by
  have hfold (l : List MemReq) (st : State × List MemReq) : (l.foldl (admitOne n) st).1.vcsr = st.1.vcsr := by
    induction l generalizing st with
    | nil => rfl
    | cons r l ih => rw [List.foldl_cons, ih, vcsr_admitOne]
  simp [admitWaiting, hfold]

@[simp] theorem vcsr_sendReq (s : State) (r : MemReq) : (sendReq s r).vcsr = s.vcsr := by simp [sendReq]

@[simp] theorem vcsr_sendRead (s : State) (n : ℕ) (line : ℕ) (hand : ℕ) : (sendRead s n line hand).vcsr = s.vcsr := by simp [sendRead]

@[simp] theorem vcsr_homeWrite (s : State) (n : ℕ) (line : ℕ) (hand : ℕ) (data : LineData) (b : ℕ) :
    (homeWrite s n line hand data b).vcsr = s.vcsr := by simp [homeWrite]

@[simp] theorem vcsr_homeData (s : State) (n : ℕ) (line : ℕ) (hand : ℕ) (data : LineData) (poison : Bool) :
    (homeData s n line hand data poison).vcsr = s.vcsr := by simp [homeData]

@[simp] theorem vcsr_writeEnt (s : State) (n : ℕ) (key : ℕ) (e : DirEnt) : (writeEnt s n key e).vcsr = s.vcsr := by simp [writeEnt]

@[simp] theorem vcsr_dropEnt (s : State) (n : ℕ) (key : ℕ) : (dropEnt s n key).vcsr = s.vcsr := by
  unfold dropEnt
  dsimp only
  split <;> simp

@[simp] theorem vcsr_poisonLine (s : State) (n : ℕ) (line : ℕ) (hand : ℕ) : (poisonLine s n line hand).vcsr = s.vcsr := by simp [poisonLine]

@[simp] theorem vcsr_answer (s : State) (n : ℕ) (m : Msg) (op : Opc) (gen : BitVec 2) (data : LineData) (poison : Bool) :
    (answer s n m op gen data poison).vcsr = s.vcsr := by
  unfold answer
  split <;> simp

@[simp] theorem vcsr_snoop (s : State) (n : ℕ) (op : Opc) (hand : ℕ) (line : ℕ) (d : ℕ) :
    (snoop s n op hand line d).vcsr = s.vcsr := by simp [snoop]

@[simp] theorem vcsr_reopen (s : State) (n : ℕ) (line : ℕ) : (reopen s n line).2.vcsr = s.vcsr := by simp [reopen]

@[simp] theorem vcsr_checkEnt (s : State) (n : ℕ) (key : ℕ) (hand : ℕ) (e : DirEnt) : (checkEnt s n key hand e).2.vcsr = s.vcsr := by
  unfold checkEnt
  dsimp only
  repeat' split
  all_goals simp

@[simp] theorem vcsr_finishTxn (s : State) (n : ℕ) (t : Txn) (mem : Option (LineData × Bool)) : (finishTxn s n t mem).vcsr = s.vcsr := by
  unfold finishTxn
  dsimp only
  repeat' split
  all_goals simp

@[simp] theorem vcsr_advanceTxn (s : State) (n : ℕ) (t : Txn) : (advanceTxn s n t).vcsr = s.vcsr := by
  unfold advanceTxn
  repeat' split
  all_goals simp

@[simp] theorem vcsr_staleWb (s : State) (n : ℕ) (m : Msg) : (staleWb s n m).vcsr = s.vcsr := by simp [staleWb]

@[simp] theorem vcsr_holdWb (s : State) (n : ℕ) (m : Msg) : (holdWb s n m).vcsr = s.vcsr := by simp [holdWb]

@[simp] theorem vcsr_wbAction (s : State) (n : ℕ) (m : Msg) (key : ℕ) (e : DirEnt) : (wbAction s n m key e).vcsr = s.vcsr := by
  unfold wbAction
  split <;> simp

@[simp] theorem vcsr_handleWb (s : State) (n : Nat) (m : Msg) : (handleWb s n m).vcsr = s.vcsr := by
  unfold handleWb
  split
  · simp
  · split
    next hc => simp [vcsr_snd hc]
    next hc => split <;> simp [vcsr_snd hc]

@[simp] theorem vcsr_releaseWb (s : State) (n : ℕ) (line : ℕ) : (releaseWb s n line).vcsr = s.vcsr := by simp [releaseWb]

@[simp] theorem vcsr_snoopAnswer (s : State) (n : ℕ) (d : ℕ) (line : ℕ) (keeps : Bool) (data : Option (LineData × Bool)) :
    (snoopAnswer s n d line keeps data).vcsr = s.vcsr := by
  unfold snoopAnswer
  dsimp only
  repeat' split
  all_goals simp

@[simp] theorem vcsr_startScrub (s : State) (d : ℕ) : (startScrub s d).vcsr = s.vcsr := by simp [startScrub]

@[simp] theorem vcsr_nextScrub (s : State) : (nextScrub s).vcsr = s.vcsr := by
  unfold nextScrub
  split <;> simp

@[simp] theorem vcsr_finishAddendum (s : State) : (finishAddendum s).vcsr = s.vcsr := by simp [finishAddendum]

@[simp] theorem vcsr_dropPoints (s : State) (ps : List ℕ) : (dropPoints s ps).vcsr = s.vcsr := by simp [dropPoints]

@[simp] theorem vcsr_setDiePower (s : State) (d : ℕ) (n : ℕ) : (setDiePower s d n).vcsr = s.vcsr := by simp [setDiePower]

@[simp] theorem vcsr_setDieState (s : State) (d : ℕ) (n : ℕ) : (setDieState s d n).vcsr = s.vcsr := by simp [setDieState]

@[simp] theorem vcsr_fencePoint (s : State) (p : ℕ) : (fencePoint s p).vcsr = s.vcsr := by simp [fencePoint]

@[simp] theorem vcsr_fenceDie (s : State) (d : ℕ) : (fenceDie s d).vcsr = s.vcsr := by simp [fenceDie]

@[simp] theorem vcsr_answerFor (s : State) (n : ℕ) (d : ℕ) : (answerFor s n d).vcsr = s.vcsr := by simp [answerFor]

@[simp] theorem vcsr_dropReqs (s : State) (n : ℕ) (d : ℕ) : (dropReqs s n d).vcsr = s.vcsr := by simp [dropReqs]

@[simp] theorem vcsr_loseDie (s : State) (d : ℕ) : (loseDie s d).vcsr = s.vcsr := by simp [loseDie]

@[simp] theorem vcsr_abandonScrub (s : State) (d : ℕ) : (abandonScrub s d).vcsr = s.vcsr := by simp [abandonScrub]

@[simp] theorem vcsr_dieStop (s : State) (d : ℕ) (cause : ℕ) : (dieStop s d cause).vcsr = s.vcsr := by simp [dieStop]

@[simp] theorem vcsr_putL3 (s : State) (d : ℕ) (e : L3Line) : (putL3 s d e).vcsr = s.vcsr := by simp [putL3]

@[simp] theorem vcsr_dropL3 (s : State) (d : ℕ) (line : ℕ) : (dropL3 s d line).vcsr = s.vcsr := by simp [dropL3]

@[simp] theorem vcsr_putL2 (s : State) (c : ℕ) (e : L2Line) : (putL2 s c e).vcsr = s.vcsr := by simp [putL2]

@[simp] theorem vcsr_dropL2 (s : State) (c : ℕ) (line : ℕ) : (dropL2 s c line).vcsr = s.vcsr := by simp [dropL2]

@[simp] theorem vcsr_fillL1 (s : State) (c : ℕ) (line : ℕ) (data : LineData) : (fillL1 s c line data).vcsr = s.vcsr := by simp [fillL1]

@[simp] theorem vcsr_choose {α : Type} (s : State) (l : List α) : (choose s l).2.vcsr = s.vcsr := by simp [choose]

@[simp] theorem vcsr_bufSram (s : State) (st : ℕ) (unit : ℕ) (line : ℕ) (hand : Option ℕ) :
    (bufSram s st unit line hand).2.vcsr = s.vcsr := by
  unfold bufSram
  split <;> simp

@[simp] theorem vcsr_sendWb (s : State) (d : ℕ) (q : ℕ) (m : Msg) : (sendWb s d q m).vcsr = s.vcsr := by simp [sendWb]

theorem vcsr_ifRoom {α : Type} (s : State) (d : Nat) (wait : α) {r : α × State} (h : r.2.vcsr = s.vcsr) :
    (ifRoom s d wait r).2.vcsr = s.vcsr := by
  unfold ifRoom
  split
  · exact h
  · rfl

@[simp] theorem vcsr_request (s : State) (d : ℕ) (line : ℕ) (core : ℕ) (op : Opc) (chunk : ℕ) :
    (request s d line core op chunk).vcsr = s.vcsr := by simp [request]

@[simp] theorem vcsr_backSnoop (s : State) (e : L3Line) (c : ℕ) (keep : Bool) : (backSnoop s e c keep).2.vcsr = s.vcsr := by
  unfold backSnoop
  repeat' split
  all_goals simp

@[simp] theorem vcsr_backSnoopAll (s : State) (d : Nat) (e : L3Line) (keep : Bool) (skip : Option Nat) : (backSnoopAll s d e keep skip).2.vcsr = s.vcsr := by
  exact vcsr_foldl_snd _ _ _ fun r c => vcsr_backSnoop ..

@[simp] theorem vcsr_takeLine (s : State) (d : ℕ) (e : L3Line) (keep : Bool) : (takeLine s d e keep).2.vcsr = s.vcsr := by
  unfold takeLine
  dsimp only
  split <;> simp

@[simp] theorem vcsr_evictL3 (s : State) (d : ℕ) (q : ℕ) (e : L3Line) : (evictL3 s d q e).vcsr = s.vcsr := by simp [evictL3]

@[simp] theorem vcsr_offer (s : State) (c : Nat) (l : L2Line) : (offer s c l).vcsr = s.vcsr := by
  unfold offer
  dsimp only
  split
  · simp
  · by_cases hm : l.st = 3
    all_goals
      simp only [hm, if_true, if_false]
      split
      · simp
      · split
        · simp
        · split
          · split
            · simp
            · split
              next hc => simp [vcsr_snd hc]
              next hc => simp [vcsr_snd hc]
          · simp

theorem vcsr_choose_offer (s : State) (c : Nat) (l : List L2Line) : (match choose s l with
    | (some v, s) => offer s c v
    | (none, s) => s).vcsr = s.vcsr := by
  split
  next hc => simp [vcsr_snd hc]
  next hc => simp [vcsr_snd hc]

@[simp] theorem vcsr_installL2 (s : State) (c : Nat) (l : L2Line) : (installL2 s c l).vcsr = s.vcsr := by
  have hroom (p : Prop) [Decidable p] {t : State} (h : t.vcsr = s.vcsr) : (if p then s else t).vcsr = s.vcsr := by
    rw [vcsr_ite, h, ite_self]
  unfold installL2
  dsimp only
  split
  · rw [vcsr_putL3, vcsr_putL2]
    exact hroom _ (vcsr_choose_offer ..)
  · rw [vcsr_putL2]
    exact hroom _ (vcsr_choose_offer ..)

@[simp] theorem vcsr_cacheSram (s : State) (st : ℕ) (unit : ℕ) (d : ℕ) (line : ℕ) : (cacheSram s st unit d line).2.vcsr = s.vcsr := by
  unfold cacheSram
  dsimp only
  repeat' split
  all_goals simp

@[simp] theorem vcsr_tagSram (s : State) (d : ℕ) (line : ℕ) : (tagSram s d line).vcsr = s.vcsr := by
  unfold tagSram
  dsimp only
  repeat' split
  all_goals simp

@[simp] theorem vcsr_coreRead (s : State) (c line chunk : Nat) : (coreRead s c line chunk).2.vcsr = s.vcsr := by
  refine vcsr_ifRoom _ _ _ ?_
  split
  · rfl
  · split
    · simp
    · split_ifs <;> simp

@[simp] theorem vcsr_checkOwn (s : State) (c : ℕ) (line : ℕ) : (checkOwn s c line).vcsr = s.vcsr := by simp [checkOwn]

@[simp] theorem vcsr_coreOwn (s : State) (c line chunk : Nat) : (coreOwn s c line chunk).2.vcsr = s.vcsr := by
  refine vcsr_ifRoom _ _ _ ?_
  dsimp only
  split
  · split
    · simp
    · split
      · split <;> simp
      · simp
  · split
    · simp
    · split_ifs <;> simp

@[simp] theorem vcsr_hwError (s : State) (c : ℕ) (va : Word) (kind : ℕ) (line : ℕ) : (hwError s c va kind line).vcsr = s.vcsr := by
  unfold hwError
  dsimp only
  split <;> simp

@[simp] theorem vcsr_startDrain (s : State) (c : ℕ) (sel : MbEnt → Bool) : (startDrain s c sel).vcsr = s.vcsr := by simp [startDrain]

@[simp] theorem vcsr_addWait (s : State) (c : ℕ) (line : ℕ) (w : Waiter) : (addWait s c line w).vcsr = s.vcsr := by simp [addWait]

@[simp] theorem vcsr_drainOldest (s : State) (c : ℕ) : (drainOldest s c).vcsr = s.vcsr := by
  unfold drainOldest
  dsimp only
  repeat' split
  all_goals simp

@[simp] theorem vcsr_admitStores (s : State) (c : ℕ) : (admitStores s c).vcsr = s.vcsr := by
  unfold admitStores
  dsimp only
  repeat' split
  all_goals simp

@[simp] theorem vcsr_dropMb (s : State) (c : ℕ) (line : ℕ) : (dropMb s c line).vcsr = s.vcsr := by simp [dropMb]

@[simp] theorem vcsr_toLedger (s : State) (c : ℕ) (e : MbEnt) : (toLedger s c e).vcsr = s.vcsr := by
  unfold toLedger
  dsimp only
  split <;> simp

@[simp] theorem vcsr_drainNc (s : State) (c : ℕ) (e : MbEnt) : (drainNc s c e).vcsr = s.vcsr := by simp [drainNc]

@[simp] theorem vcsr_storeL2 (s : State) (c : ℕ) (l : L2Line) : (storeL2 s c l).vcsr = s.vcsr := by simp [storeL2]

@[simp] theorem vcsr_tryDrain (s : State) (c line : Nat) : (tryDrain s c line).vcsr = s.vcsr := by
  unfold tryDrain
  dsimp only
  split
  · rfl
  · split
    all_goals
      split
      · simp
      · split
        · simp
        · split
          next ho => simp [vcsr_snd ho]
          next ho => simp [vcsr_snd ho]

@[simp] theorem vcsr_drain (s : State) (c : ℕ) (sel : MbEnt → Bool) : (drain s c sel).vcsr = s.vcsr := by simp [drain]

@[simp] theorem vcsr_checkedRead (s : State) (c line chunk : Nat) : (checkedRead s c line chunk).2.vcsr = s.vcsr := by
  refine vcsr_ifRoom _ _ _ ?_
  extract_lets e2 e3
  have h2 : e2.2.vcsr = s.vcsr := by simp [e2]
  have h3 : e3.2.vcsr = s.vcsr := by simp [e3, h2]
  split
  · exact h3
  · split
    next h => rw [vcsr_snd h, vcsr_coreRead, vcsr_tagSram, h3]
    next h => rw [vcsr_snd h, vcsr_coreRead, vcsr_tagSram, h3]

@[simp] theorem vcsr_checkL1 (s : State) (c : ℕ) (line : ℕ) : (checkL1 s c line).vcsr = s.vcsr := by
  unfold checkL1
  split <;> simp

@[simp] theorem vcsr_loadLine (s : State) (c line : Nat) (need : Word) : (loadLine s c line need).2.vcsr = s.vcsr := by
  unfold loadLine
  dsimp only
  split
  next =>
    split
    · rfl
    · split
      next hr => simp [vcsr_snd hr]
      next => simp
  next =>
    split
    · rfl
    · split
      all_goals
        split
        · simp
        · split
          · simp
          · split
            next hr => simp [vcsr_snd hr]
            next => simp

@[simp] theorem vcsr_putFull {α : Type} (s : State) (l : List α) (n : ℕ) (e : α) : (putFull s l n e).2.vcsr = s.vcsr := by
  unfold putFull
  split <;> simp

@[simp] theorem vcsr_tlbInstall (s : State) (c : ℕ) (acc : Acc) (e : TlbEnt) : (tlbInstall s c acc e).vcsr = s.vcsr := by
  unfold tlbInstall
  split <;> simp

@[simp] theorem vcsr_tlbRemove (s : State) (c : ℕ) (regime : ℕ) (asid : ℕ) (vmid : ℕ) (va : ℕ) :
    (tlbRemove s c regime asid vmid va).vcsr = s.vcsr := by simp [tlbRemove]

@[simp] theorem vcsr_checkTlb (s : State) (c : ℕ) (regime : ℕ) (asid : ℕ) (vmid : ℕ) (va : ℕ) (e : TlbEnt) :
    (checkTlb s c regime asid vmid va e).2.vcsr = s.vcsr := by
  unfold checkTlb
  split <;> simp

@[simp] theorem vcsr_walkRead (s : State) (c : Nat) (acc : Acc) (pa : Nat) : (walkRead s c acc pa).2.vcsr = s.vcsr := by
  unfold walkRead
  dsimp only
  split
  · rfl
  · split
    · rfl
    · split
      · rfl
      · rfl
      · rfl
      · split
        next =>
          split
          next h => simp [vcsr_snd h]
          next h => split_ifs <;> simp [vcsr_snd h]
        next =>
          split
          next h => simp [vcsr_snd h]
          next h => split_ifs <;> simp [vcsr_snd h]

theorem vcsr_walkDown (pbmt : Bool) {rd : State → Nat → Except WalkFail Word × State} {note : State → Nat → Word → State}
    (hrd : ∀ s a, (rd s a).2.vcsr = s.vcsr) (hnote : ∀ s n p, (note s n p).vcsr = s.vcsr) (va top lvl : Nat) (s : State) (base : Nat) :
    (walkDown pbmt rd note va top lvl s base).2.vcsr = s.vcsr := by
  induction lvl generalizing s base with
  | zero =>
    unfold walkDown
    dsimp only
    split
    next h => simp [vcsr_snd h, hrd]
    next h => split_ifs <;> simp [vcsr_snd h, hrd]
  | succ n ih =>
    unfold walkDown
    dsimp only
    split
    next h => simp [vcsr_snd h, hrd]
    next h => split_ifs <;> simp [vcsr_snd h, hrd, ih, hnote]

theorem vcsr_walkG_error (gpa : Nat) (r : Except WalkFail Leaf × State) : (match r with
    | (.ok l, s) => if l.pte.getLsbD 4 then ((.ok l, s) : Except WalkFail Leaf × State) else (.error (.guest gpa false), s)
    | (.error (.page a), s) => (.error (.guest gpa a), s)
    | r => r).2.vcsr = r.2.vcsr := by
  split
  · split <;> rfl
  · rfl
  · rfl

@[simp] theorem vcsr_walkG (s : State) (c : Nat) (acc : Acc) (gpa : Nat) : (walkG s c acc gpa).2.vcsr = s.vcsr := by
  unfold walkG
  dsimp only
  split
  · rfl
  · split
    · rfl
    · exact (vcsr_walkG_error _ _).trans (vcsr_walkDown _ (fun s a => vcsr_walkRead ..) (fun s n p => by simp) ..)

@[simp] theorem vcsr_walkS (s : State) (c : Nat) (acc : Acc) (regime va : Nat) : (walkS s c acc regime va).2.vcsr = s.vcsr := by
  unfold walkS
  dsimp only
  rw [vcsr_walkDown _ (fun s a => ?_) fun s n p => by simp]
  split
  · split
    next h => split <;> simp [vcsr_snd h]
    next h => simp [vcsr_snd h]
  · simp

@[simp] theorem vcsr_walkLeaves (s : State) (c : Nat) (m : Nat × Bool) (acc : Acc) (regime va : Nat) : (walkLeaves s c m acc regime va).2.vcsr = s.vcsr := by
  unfold walkLeaves
  dsimp only
  split
  · split
    next h => simp [vcsr_snd h]
    next h => split <;> simp [vcsr_snd h]
  · generalize (if regime = 0 then 0 else vmidOf s c) = vmid
    split
    next h => simp [vcsr_snd h]
    next h =>
      split
      · simp [vcsr_snd h]
      · split
        · simp [vcsr_snd h]
        · split
          next hg => simp [vcsr_snd hg, vcsr_snd h]
          next hg => split <;> simp [vcsr_snd hg, vcsr_snd h]

@[simp] theorem vcsr_walk (s : State) (c : Nat) (m : Nat × Bool) (acc : Acc) (regime va : Nat) : (walk s c m acc regime va).2.vcsr = s.vcsr := by
  unfold walk
  split
  next h => split <;> simp [vcsr_snd h]
  next => simp

@[simp] theorem vcsr_translate (s : State) (c : Nat) (va : Word) (acc : Acc) : (translate s c va acc).2.vcsr = s.vcsr := by
  unfold translate
  dsimp only
  split
  · split <;> rfl
  · generalize s.csr c _ = w
    split
    · rfl
    · split
      next =>
        split
        next => simp
        next =>
          split
          next h => simp [vcsr_snd h]
          next h => split <;> simp [vcsr_snd h]
      next =>
        split
        next h => simp [vcsr_snd h]
        next h => split <;> simp [vcsr_snd h]

@[simp] theorem vcsr_trapGpa (s : State) (c : ℕ) (cause : ℕ) (va : Word) (gpa : ℕ) :
    (trapGpa s c cause va gpa).vcsr = s.vcsr := by simp [trapGpa]

@[simp] theorem vcsr_trapTr (s : State) (c : Nat) (va : Word) (t : Tr) : (trapTr s c va t).vcsr = s.vcsr := by
  cases t <;> simp [trapTr]

@[simp] theorem vcsr_locate (s : State) (c : Nat) (va : Word) (n : Nat) (acc : Acc) (k : Kind) (trs : Bool) : (locate s c va n acc k trs).2.vcsr = s.vcsr := by
  unfold locate
  dsimp only
  split
  next h =>
    split
    · simp [vcsr_snd h]
    · split <;> simp [vcsr_snd h]
  next h => simp [vcsr_snd h]
  next h => simp [vcsr_snd h]
  next h => simp [vcsr_snd h]

end Sys2Proof.Machine
end

section
/-! SUPPORT. SPK.LD and SPK.ST of one cell: the elements of the group that is loaded, and the merging-buffer entry that is stored (R133, R134, R138, R139). -/

namespace Sys2Proof.Machine

/-! ### vxsat and vtype through a translation -/

theorem csr_of_vcsr {s t : State} (h : t.vcsr = s.vcsr) (c : Nat) {n : Nat} (hn : n % 64 = 9 ∨ n % 64 = 33) : t.csr c n = s.csr c n := by
  have hk := congrFun h (Reg.CSR c n).key
  have hm : (Reg.CSR c n).key % 64 = 9 ∨ (Reg.CSR c n).key % 64 = 33 := by
    rw [key_csr]
    omega
  simp only [State.vcsr, if_pos hm] at hk
  simp only [State.csr, State.rd, hk]

theorem vtypeOf_of_vcsr {s t : State} (h : t.vcsr = s.vcsr) (c : Nat) : vtypeOf t c = vtypeOf s c := csr_of_vcsr h c (.inr rfl)

theorem vcsr_of_locate {s u : State} {c : Nat} {va : Word} {n : Nat} {acc : Acc} {k : Kind} {trs : Bool} {p : Place1}
    (h : locate s c va n acc k trs = (p, u)) : u.vcsr = s.vcsr := by
  rw [← vcsr_locate s c va n acc k trs, h]

/-! ### One cell read from the L1D -/

theorem needMask_ne_zero {off : Nat} (h : off ≤ 48) : needMask off 16 ≠ 0 := fun h0 => by
  have hb := congrArg (BitVec.getLsbD · off) h0
  simp only [getLsbD_needMask (show off + 16 ≤ 64 by omega)] at hb
  simp at hb

theorem loadLine_of_hit {u : State} {c line : Nat} {need : Word} {data : LineData} (ho : u.ledgerCore c = false) (hm : (u.core c).mb = [])
    (hn : need ≠ 0) (hs : sramBits u 1 c (line * 64) = 0) (hd : (u.core c).l1d.get? line = some data) :
    loadLine u c line need = (.bytes data false false, u) := by
  have hc : checkL1 u c line = u := by
    unfold checkL1
    split
    · rfl
    · next h => exact absurd hs h
  have hb : bufLine (u.core c).mb line = (0, 0) := by rw [hm]; rfl
  have hn' : ¬ need &&& ~~~ (0 : Word) = 0 := by
    rw [show ~~~ (0 : Word) = BitVec.allOnes 64 from rfl, BitVec.and_allOnes]
    exact hn
  have hz : need &&& (0 : Word) = 0 := BitVec.and_zero
  unfold loadLine
  dsimp only
  rw [ho, if_neg (by decide), hb, if_neg hn', if_pos hz, if_neg (by rw [hm]; exact Bool.false_ne_true), hc, hd]

theorem loadCell_of_hit {s u : State} {c : Nat} {va : Word} {pa : Nat} {data : LineData}
    (hl : locate s c va 16 .load .load false = (.at_ pa 0 .dram, u)) (ha : pa % 16 = 0) (ho : u.ledgerCore c = false) (hm : (u.core c).mb = [])
    (hs : sramBits u 1 c (pa / 64 * 64) = 0) (hd : (u.core c).l1d.get? (pa / 64) = some data) :
    loadCell s c va = (.got (lineGet data (pa % 64) 16), u) := by
  have hn : needMask (pa % 64) 16 ≠ 0 := needMask_ne_zero (by omega)
  unfold loadCell
  rw [hl]
  simp [loadLine_of_hit ho hm hn hs hd]

theorem sample_lineGet (data : LineData) (off : Nat) {k : Nat} (hk : k < 9) :
    sample (lineGet data off 16) k = (data.extractLsb' (8 * off + 14 * k) 14).signExtend 16 := by
  rw [sample]
  congr 1
  refine BitVec.eq_of_getLsbD_eq fun i hi => ?_
  rw [BitVec.getLsbD_ofNat, Nat.testBit_div_two_pow, testBit_lineGet (by omega), BitVec.getLsbD_extractLsb']
  congr 2
  omega

/-! ### Elements of a register group -/

/-- Nothing but the vector registers of a core and its VS fields has changed; the free choices may be further. -/
def VregsOnly (c : Nat) (s t : State) : Prop := Acted { s with free := t.free } c xjCsrs { s.core c with v := (t.core c).v } t

theorem VregsOnly.refl (c : Nat) (s : State) : VregsOnly c s s := Acted.refl s c xjCsrs

theorem VregsOnly.trans {c : Nat} {s t u : State} (h : VregsOnly c s t) (h' : VregsOnly c t u) : VregsOnly c s u := by
  refine ⟨?_, fun d hd => (h'.cores d hd).trans (h.cores d hd), fun r hr => (h'.regs r hr).trans (h.regs r hr), ?_⟩
  · have h1 := h'.core
    rw [h.core] at h1
    exact h1
  · have h1 := h.rest
    have h2 := h'.rest
    rw [onlyRegsCores] at h1 h2 ⊢
    rw [h2, h1]

theorem vregsOnly_setVreg (c : Nat) (s : State) (r : Nat) (v : LineData) : VregsOnly c s (setVreg s c r v) := by
  have h := acted_setVreg s c r v
  have hf : (setVreg s c r v).free = s.free := by rw [h.rest]
  rw [VregsOnly, hf, h.core]
  exact h

theorem vregsOnly_fresh (c : Nat) (s : State) : VregsOnly c s s.fresh.2 := Acted.refl ..

theorem VregsOnly.vtypeOf {c : Nat} {s t : State} (h : VregsOnly c s t) : vtypeOf t c = vtypeOf s c := h.csr_eq (by decide)

theorem vreg_setVreg_self (s : State) (c r : Nat) (v : LineData) : vreg (setVreg s c r v) c r = v := by
  rw [vreg, (acted_setVreg s c r v).core]
  exact NMap.getD_set_self ..

theorem vreg_setVreg_ne {r q : Nat} (h : q ≠ r) (s : State) (c : Nat) (v : LineData) : vreg (setVreg s c r v) c q = vreg s c q := by
  rw [vreg, (acted_setVreg s c r v).core]
  exact NMap.getD_set_ne _ _ _ _ _ h

theorem vregsOnly_setVelem (c : Nat) (s : State) (r i : Nat) (v : BitVec 16) : VregsOnly c s (setVelem s c r i v) := vregsOnly_setVreg ..

theorem velem_eq_lineGet (s : State) (c r i : Nat) : velem s c r i = BitVec.ofNat 16 (lineGet (vreg s c ((r + i / 32) % 32)) (2 * (i % 32)) 2) := by
  refine BitVec.eq_of_getLsbD_eq fun j hj => ?_
  rw [velem, BitVec.getLsbD_extractLsb', BitVec.getLsbD_ofNat, testBit_lineGet (by omega)]
  congr 2
  omega

theorem velem_setVelem_self (s : State) (c r i : Nat) (v : BitVec 16) : velem (setVelem s c r i v) c r i = v := by
  rw [velem_eq_lineGet, setVelem, vreg_setVreg_self, lineGet_linePut_self (by omega) v.isLt, BitVec.ofNat_toNat, BitVec.setWidth_eq]

/-- Elements of a group of at most 32 registers do not overlap. -/
theorem velem_setVelem_ne {i j : Nat} (h : j ≠ i) (hi : i < 1024) (hj : j < 1024) (s : State) (c r : Nat) (v : BitVec 16) :
    velem (setVelem s c r i v) c r j = velem s c r j := by
  rw [velem_eq_lineGet, velem_eq_lineGet, setVelem]
  by_cases hq : (r + j / 32) % 32 = (r + i / 32) % 32
  · rw [hq, vreg_setVreg_self, lineGet_linePut_apart (by omega) (by omega)]
  · rw [vreg_setVreg_ne hq]

theorem vreg_setVelem_ne {r i q : Nat} (h : q ≠ (r + i / 32) % 32) (s : State) (c : Nat) (v : BitVec 16) :
    vreg (setVelem s c r i v) c q = vreg s c q := vreg_setVreg_ne h ..

theorem groupSize_eq (s : State) (c : Nat) : groupSize s c = 1 ∨ groupSize s c = 2 ∨ groupSize s c = 4 ∨ groupSize s c = 8 := by
  unfold groupSize
  split <;> decide

/-- A register of a group stays in it. -/
theorem groupReg {s : State} {c r i : Nat} (hr : r < 32) (hg : groupOk s c r = true) (hi : i < 32 * groupSize s c) :
    r ≤ (r + i / 32) % 32 ∧ (r + i / 32) % 32 < r + groupSize s c := by
  rw [groupOk, beq_iff_eq] at hg
  rcases groupSize_eq s c with h | h | h | h <;> rw [h] at hg hi ⊢ <;> omega

/-! ### The elements of one loaded cell -/

/-- Element values written at the first indices of a group. -/
def elemFrom (c vd : Nat) (f : Nat → BitVec 16) (s : State) (k : Nat) : State := setVelem s c vd k (f k)

/-- What SPK.LD of one cell has done to its group: the nine elements are written, and a tail element keeps its value or, where vtype says
so, is all ones. -/
structure CellLoaded (c vd gs : Nat) (vta : Bool) (f : Nat → BitVec 16) (u t : State) : Prop where
  only : VregsOnly c u t
  head : ∀ k < 9, velem t c vd k = f k
  tail : ∀ i, 9 ≤ i → i < 32 * gs → velem t c vd i = velem u c vd i ∨ vta = true ∧ velem t c vd i = 0xFFFF
  out : ∀ r, r < vd ∨ vd + gs ≤ r → vreg t c r = vreg u c r

section Cell
variable {s u : State} {c vd : Nat} (hv : vd < 32) (hg : groupOk s c vd = true) (f : Nat → BitVec 16)
include hv hg

theorem cellLoaded_elems (vta : Bool) : CellLoaded c vd (groupSize s c) vta f u (overAll (List.range 9) (elemFrom c vd f) u) := by
  have h8 : 1 ≤ groupSize s c ∧ groupSize s c ≤ 8 := by rcases groupSize_eq s c with h | h | h | h <;> omega
  refine ⟨overAll_rel (VregsOnly.refl c) .trans (fun _ _ => vregsOnly_setVelem ..) _ u, fun k hk => ?_, fun i h9 hi => .inl ?_, fun r hr => ?_⟩
  · exact overAll_each (step := elemFrom c vd f) (read := fun t k => velem t c vd k) (val := fun _ k => f k) List.nodup_range
      (fun _ _ _ => velem_setVelem_self ..)
      (fun _ a ha b hb h => velem_setVelem_ne h (by have := List.mem_range.mp ha; omega) (by have := List.mem_range.mp hb; omega) ..)
      (fun _ _ _ _ _ _ => rfl) u (List.mem_range.mpr hk)
  · exact overAll_keeps_mem (g := fun t => velem t c vd i)
      (fun _ a ha => by have := List.mem_range.mp ha; exact velem_setVelem_ne (by omega) (by omega) (by omega) ..) u
  · refine overAll_keeps_mem (g := fun t => vreg t c r) (fun _ a ha => vreg_setVelem_ne ?_ ..) u
    have := groupReg (i := a) hv hg (by have := List.mem_range.mp ha; omega)
    omega

omit hv hg in
theorem CellLoaded.fresh {gs : Nat} {vta : Bool} {t : State} (h : CellLoaded c vd gs vta f u t) : CellLoaded c vd gs vta f u t.fresh.2 :=
  ⟨h.only.trans (vregsOnly_fresh c t), h.head, h.tail, h.out⟩

theorem CellLoaded.ones {t : State} (h : CellLoaded c vd (groupSize s c) true f u t) {i : Nat} (h9 : 9 ≤ i) (hi : i < 32 * groupSize s c) :
    CellLoaded c vd (groupSize s c) true f u (setVelem t c vd i 0xFFFF) := by
  have h8 : groupSize s c ≤ 8 := by rcases groupSize_eq s c with h | h | h | h <;> omega
  refine ⟨h.only.trans (vregsOnly_setVelem ..), fun k hk => ?_, fun j hj9 hj => ?_, fun r hr => ?_⟩
  · rw [velem_setVelem_ne (by omega) (by omega) (by omega)]
    exact h.head k hk
  · by_cases e : j = i
    · subst e
      exact .inr ⟨rfl, velem_setVelem_self ..⟩
    · rw [velem_setVelem_ne e (by omega) (by omega)]
      exact h.tail j hj9 hj
  · have := groupReg hv hg hi
    rw [vreg_setVelem_ne (by omega)]
    exact h.out r hr

theorem CellLoaded.agnostic {w : BitVec 32} (hw : wbits w 11 7 = vd) {t : State} (h : CellLoaded c vd (groupSize s c) true f u t) (v0 n : Nat)
    {is : List Nat} (his : ∀ i ∈ is, 9 ≤ i ∧ i < 32 * groupSize s c) : CellLoaded c vd (groupSize s c) true f u (agnostic t c w v0 n is) := by
  subst hw
  refine overAll_inv (P := CellLoaded c (wbits w 11 7) (groupSize s c) true f u) (fun v i hi hv' => ?_) h
  obtain ⟨h9, hi'⟩ := his i hi
  split
  · split
    · exact hv'.ones hv hg f h9 hi'
    · exact hv'
  · split
    · exact hv'.fresh.ones hv hg f h9 hi'
    · exact hv'.fresh

theorem CellLoaded.tailOut {w : BitVec 32} (hw : wbits w 11 7 = vd) {t : State} (ht : vtypeOf u c = vtypeOf s c)
    (h : CellLoaded c vd (groupSize s c) ((vtypeOf s c).getLsbD 6) f u t) :
    CellLoaded c vd (groupSize s c) ((vtypeOf s c).getLsbD 6) f u (tailOut t c w 0 9) := by
  have hvt : vtypeOf t c = vtypeOf s c := h.only.vtypeOf.trans ht
  have hgs : groupSize t c = groupSize s c := by rw [groupSize, groupSize, hvt]
  unfold Machine.tailOut
  split
  next h6 =>
    rw [hvt] at h6
    rw [h6.1] at h ⊢
    refine h.agnostic hv hg f hw 0 9 fun i hi => ?_
    obtain ⟨j, hj, rfl⟩ := List.mem_map.mp hi
    have := List.mem_range.mp hj
    rw [hgs] at this
    omega
  · exact h

end Cell

section Load
variable {s u : State} {c : Nat} {w : BitVec 32} {base : Word}

/-- The nine elements of one cell, unmasked and from element 0. -/
theorem cellElements (h : wbits w 25 25 = 1) : ((List.range 9).map (· + 9 * 0)).filter
    (fun i => decide (max 0 (9 * 0) ≤ i) && decide (i < min 9 (9 * 0 + 9)) && vactive s c w i) = List.range 9 := by
  have ha : ∀ i, vactive s c w i = true := fun i => by rw [vactive, h]; rfl
  simp only [ha, Bool.and_true]
  decide

theorem maskedOut_of_unmasked (h : wbits w 25 25 = 1) (v0 n lo hi : Nat) : maskedOut s c w v0 n lo hi = s := by
  have ha : ∀ i, (!vactive s c w i) = false := fun i => by rw [vactive, h]; rfl
  unfold maskedOut agnostic
  split
  · simp only [ha, List.filter_false]
    rfl
  · rfl

/-- SPK.LD of one cell whose bytes are there. -/
theorem spkLdCells_one (h : wbits w 25 25 = 1) {cell : Nat} (hl : loadCell (setVstart s c 0) c base = (.got cell, u)) :
    spkLdCells c w base 0 9 [0] s =
      xjEnd (tailOut (overAll (List.range 9) (elemFrom c (wbits w 11 7) (fun k => sample cell k)) u) c w 0 9) c := by
  have hb : base + BitVec.ofNat 64 (16 * 0) = base := BitVec.add_zero base
  have hl' : loadCell (setVstart s c (9 * 0)) c (base + BitVec.ofNat 64 (16 * 0)) = (.got cell, u) := by rw [hb]; exact hl
  rw [spkLdCells]
  dsimp only
  rw [cellElements h, if_neg (by decide), hl']
  dsimp only
  rw [maskedOut_of_unmasked h, spkLdCells]
  rfl

end Load

theorem spkLd_spec {c : Fin 384} {w : BitVec 32} {s u : State} {pa : Nat} {data : LineData} (hr : s.ready c = true) (hv : vsOff s c = false)
    (ht : (vtypeOf s c).getLsbD 63 = false) (hw : xjForm w 0 0 (some 1) false true true = true) (hs : sew16 s c = true)
    (hg : groupOk s c (wbits w 11 7) = true) (hn : vlOf s c = 9) (h0 : vstartOf s c = 0)
    (ha : (maskVa s c .load (s.xreg c (wbits w 19 15))).toNat % 16 = 0)
    (hl : locate (setVstart s c 0) c (maskVa s c .load (s.xreg c (wbits w 19 15))) 16 .load .load false = (.at_ pa 0 .dram, u)) (hp : pa % 16 = 0)
    (ho : u.ledgerCore c = false) (hm : (u.core c).mb = []) (hsr : sramBits u 1 c (pa / 64 * 64) = 0) (hd : (u.core c).l1d.get? (pa / 64) = some data) :
    ∃ t, exec (.spkLd c w) s = .next t ∧
       (∀ k < 9, velem t c (wbits w 11 7) k = (data.extractLsb' (8 * (pa % 64) + 14 * k) 14).signExtend 16) ∧
       (∀ i, 9 ≤ i → i < 32 * groupSize s c → velem t c (wbits w 11 7) i = velem u c (wbits w 11 7) i ∨
         (vtypeOf s c).getLsbD 6 = true ∧ velem t c (wbits w 11 7) i = 0xFFFF) ∧
       (∀ r, r < wbits w 11 7 ∨ wbits w 11 7 + groupSize s c ≤ r → vreg t c r = vreg u c r) ∧
       vstartOf t c = 0 ∧ (t.core c).pc = (u.core c).pc + 4 ∧
       coresBut u t [c.val] ∧ t = { u with regs := t.regs, cores := t.cores, free := t.free } := by
  obtain ⟨hw', hmask⟩ := xjForm_unmasked hw
  have hvd : wbits w 11 7 < 32 := Nat.mod_lt _ (by decide)
  let f : Nat → BitVec 16 := fun k => sample (lineGet data (pa % 64) 16) k
  let v := tailOut (overAll (List.range 9) (elemFrom c (wbits w 11 7) f) u) c w 0 9
  have hx : exec (.spkLd c w) s = .next (xjEnd v c) := by
    refine congrArg Host.Outcome.next ?_
    rw [hw', hs, hg, hmask]
    refine (xjInsn_of_legal hr hv ht).trans ?_
    dsimp only
    rw [if_neg (not_not_intro ha), hn, h0]
    exact spkLdCells_one hmask (loadCell_of_hit hl hp ho hm hsr hd)
  have hvt : vtypeOf u c = vtypeOf s c :=
    (vtypeOf_of_vcsr (vcsr_of_locate hl) c).trans (csr_setCsr_ne (by decide) ..)
  have hc : CellLoaded c (wbits w 11 7) (groupSize s c) ((vtypeOf s c).getLsbD 6) f u v :=
    (cellLoaded_elems hvd hg f _).tailOut hvd hg f rfl hvt
  have he := xjEnd_spec hc.only c.isLt ho (by decide) (by decide) (by decide)
  have hvr : ∀ r, vreg (xjEnd v c) c r = vreg v c r := fun r => by rw [vreg, he.core]; rfl
  have hve : ∀ i, velem (xjEnd v c) c (wbits w 11 7) i = velem v c (wbits w 11 7) i := fun i => by rw [velem, hvr]; rfl
  refine ⟨_, hx, fun k hk => ?_, fun i h9 hi => ?_, fun r hr => (hvr r).trans (hc.out r hr), he.vstart, by rw [he.core]; rfl, ?_, ?_⟩
  · rw [hve, hc.head k hk]
    exact sample_lineGet data _ hk
  · rw [hve]
    exact hc.tail i h9 hi
  · obtain ⟨-, -, hcores, -⟩ := he.retired
    exact hcores
  · have h1 := hc.only.rest
    have h2 := he.rest
    rw [onlyRegsCores] at h1 h2
    rw [h2, h1]

/-! ### One cell stored -/

theorem vxsat_noteSat {s : State} {c : Nat} (sat : Bool) : (noteSat s c sat).csr c 0x009 = if sat then 1 else s.csr c 0x009 := by
  unfold noteSat
  split
  · have h : (dirtyVs (s.setCsr c 0x009 1) c).csr c 0x009 = (s.setCsr c 0x009 1).csr c 0x009 :=
      ((Acted.refl (s.setCsr c 0x009 1) c xjCsrs).dirtyVs (by decide) (by decide)).csr_eq (by decide)
    rw [h, csr_setCsr_self]
  · rfl

theorem packCell_setVstart (s : State) (c vs n j : Nat) : packCell (setVstart s c n) c vs j = packCell s c vs j := rfl

theorem core_noteSat (s : State) (c : Nat) (sat : Bool) : (noteSat s c sat).core = s.core := by
  unfold noteSat dirtyVs dirtyField
  dsimp only
  split_ifs <;> rfl

/-- The merging-buffer entry of one cell. -/
def cellEntry (cell pa : Nat) : MbEnt := ⟨pa / 64, linePut 0 (pa % 64) 16 cell, needMask (pa % 64) 16, false, false, false⟩

/-- The state with one cell put into an empty merging buffer. -/
def cellStored (u : State) (c cell pa : Nat) : State :=
  sramWrite (u.setCore c { u.core c with mb := [cellEntry cell pa] }) 7 c (pa / 64 * 64)

theorem core_cellStored (u : State) (c cell pa : Nat) : (cellStored u c cell pa).core c = { u.core c with mb := [cellEntry cell pa] } := by
  rw [cellStored, sameUnits_sramWrite]
  exact State.core_setCore_self ..

theorem cores_cellStored (u : State) (c cell pa : Nat) : coresBut u (cellStored u c cell pa) [c] := fun d hd => by
  rw [cellStored, sameUnits_sramWrite]
  exact State.core_setCore_ne _ _ _ _ (by simpa using hd)

theorem ledgerCore_cellStored {u : State} {c : Nat} (ho : u.ledgerCore c = false) (hc : c < 384) (cell pa : Nat) :
    (cellStored u c cell pa).ledgerCore c = false := by
  refine Eq.trans (ledgerCore_congr (fun h hh => ?_) ?_) ho
  · exact rd_sramWrite_of_ne (by rw [key_fabHandCores]; omega) ..
  · rw [cellStored, sameUnits_sramWrite]
    rfl

theorem cellStored_eq (u : State) (c cell pa : Nat) : cellStored u c cell pa =
    { u with regs := (cellStored u c cell pa).regs, cores := (cellStored u c cell pa).cores, flips := (cellStored u c cell pa).flips } := by
  have h := sameUnits_sramWrite (u.setCore c { u.core c with mb := [cellEntry cell pa] }) 7 c (pa / 64 * 64)
  rw [sameUnits] at h
  rw [cellStored, h]
  rfl

theorem eq_of_stored {s t u : State} (h : t = { s with regs := t.regs, cores := t.cores, flips := t.flips }) (h' : onlyRegsCores t u) :
    u = { s with regs := u.regs, cores := u.cores, flips := u.flips } := by
  rw [onlyRegsCores] at h'
  rw [h', h]

theorem doStore_cell {u : State} {c pa cell : Nat} (hc : c < 384) (ho : u.ledgerCore c = false) (hst : (u.core c).stores = [])
    (hm : (u.core c).mb = []) (hd : (u.core c).l1d = []) :
    doStore u c (storeParts cell [((pa / 64, pa % 64, 16), 0)] 0) = (true, cellStored u c cell pa) := by
  have hp : storeParts cell [((pa / 64, pa % 64, 16), 0)] 0 = [(cellEntry cell pa, 0)] := by
    simp [storeParts, cellEntry]
  have h1 : storeL1 u c (cellEntry cell pa) = u := by
    unfold storeL1
    dsimp only
    rw [hd]
    rfl
  have h2 : putStore u c (cellEntry cell pa) = cellStored u c cell pa := by
    have hb : bufStore (u.core c).mb 16 (cellEntry cell pa) = some [cellEntry cell pa] := by rw [hm]; rfl
    have hk := core_cellStored u c cell pa
    have hd' : drainOldest (cellStored u c cell pa) c = cellStored u c cell pa := by
      unfold drainOldest
      dsimp only
      rw [hk]
      rfl
    unfold putStore
    dsimp only
    rw [if_neg (not_not_intro hst), hb]
    have hn (p : Prop) : ¬ ((cellStored u c cell pa).ledgerCore c = true ∧ p) := fun h =>
      Bool.false_ne_true ((ledgerCore_cellStored ho hc cell pa).symm.trans h.1)
    exact (congrArg (drainOldest · c) (if_neg (hn _))).trans hd'
  rw [hp]
  unfold doStore
  rw [if_neg (by simp [partBusy]), if_neg (by rw [ho]; simp)]
  simp [storePart, ho, h1, h2]

section Store
variable {s u : State} {c : Fin 384} {w : BitVec 32}

/-- What SPK.ST does with a packed cell once its place is known. -/
def cellPlaced (c : Nat) (va : Word) (cell : Nat) (u : State) : Place1 → State
  | .trapped | .waits => u
  | .at_ pa pb r =>
    if r = .control then trap u c 7 va
    else
      match doStore u c (storeParts cell [((pa / 64, pa % 64, 16), pb)] 0) with
      | (false, s) => s
      | (true, s) => xjEnd s c

/-- The steps of SPK.ST of one cell up to the address of the cell. -/
theorem exec_spkSt {p : Place1} (hr : s.ready c = true) (hv : vsOff s c = false) (ht : (vtypeOf s c).getLsbD 63 = false)
    (hw : xjForm w 1 0 (some 1) false true true = true) (hs : sew16 s c = true) (hg : groupOk s c (wbits w 11 7) = true) (hn : vlOf s c = 9)
    (h0 : vstartOf s c = 0) (hst : (s.core c).stores = []) (ha : (maskVa s c .store (s.xreg c (wbits w 19 15))).toNat % 16 = 0)
    (hl : locate (noteSat (setVstart s c 0) c (packCell s c (wbits w 11 7) 0).2) c (maskVa s c .store (s.xreg c (wbits w 19 15))) 16 .store .store false =
      (p, u)) :
    exec (.spkSt c w) s = .next (cellPlaced c (maskVa s c .store (s.xreg c (wbits w 19 15))) (packCell s c (wbits w 11 7) 0).1 u p) := by
  refine congrArg Host.Outcome.next ?_
  rw [hw, hs, hg, hn]
  refine (xjInsn_of_legal hr hv ht).trans ?_
  dsimp only
  rw [if_neg (by decide), if_neg (not_not_intro ha), h0]
  have hb : maskVa s c .store (s.xreg c (wbits w 19 15)) + BitVec.ofNat 64 (16 * 0) = maskVa s c .store (s.xreg c (wbits w 19 15)) := BitVec.add_zero _
  have hstores : ((setVstart s c (9 * 0)).core c).stores = [] := hst
  show spkStCells c w _ [0] s = _
  rw [spkStCells_cons]
  dsimp only
  rw [if_neg (not_not_intro hstores), hb]
  generalize hq : locate _ c _ 16 .store .store false = q
  have hq' : q = (p, u) := hq.symm.trans hl
  subst hq'
  cases p <;> rfl

end Store

theorem spkSt_spec {c : Fin 384} {w : BitVec 32} {s u : State} {pa : Nat} (hr : s.ready c = true) (hv : vsOff s c = false)
    (ht : (vtypeOf s c).getLsbD 63 = false) (hw : xjForm w 1 0 (some 1) false true true = true) (hs : sew16 s c = true)
    (hg : groupOk s c (wbits w 11 7) = true) (hn : vlOf s c = 9) (h0 : vstartOf s c = 0)
    (ha : (maskVa s c .store (s.xreg c (wbits w 19 15))).toNat % 16 = 0)
    (hl : locate (noteSat (setVstart s c 0) c (packCell s c (wbits w 11 7) 0).2) c (maskVa s c .store (s.xreg c (wbits w 19 15))) 16 .store .store
      false = (.at_ pa 0 .dram, u))
    (hst : (u.core c).stores = []) (ho : u.ledgerCore c = false) (hm : (u.core c).mb = []) (hd : (u.core c).l1d = []) :
    ∃ t, exec (.spkSt c w) s = .next t ∧
       (t.core c).mb = [⟨pa / 64, linePut 0 (pa % 64) 16 (packCell s c (wbits w 11 7) 0).1, needMask (pa % 64) 16, false, false, false⟩] ∧
       (t.csr c 0x009 = if (packCell s c (wbits w 11 7) 0).2 then 1 else s.csr c 0x009) ∧
       vstartOf t c = 0 ∧ (t.core c).pc = (u.core c).pc + 4 ∧ coresBut u t [c.val] ∧
       t = { u with regs := t.regs, cores := t.cores, flips := t.flips } := by
  obtain ⟨-, hst0, -⟩ : s.runs c = true ∧ (s.core c).stores = [] ∧ True := by
    rw [State.ready, Bool.and_eq_true, Bool.and_eq_true, List.isEmpty_iff] at hr
    exact ⟨hr.1.1, hr.1.2, trivial⟩
  let cell := packCell s c (wbits w 11 7) 0
  let v := cellStored u c cell.1 pa
  have hx : exec (.spkSt c w) s = .next (xjEnd v c) := by
    rw [exec_spkSt hr hv ht hw hs hg hn h0 hst0 ha hl, cellPlaced]
    rw [if_neg (by decide), doStore_cell c.isLt ho hst hm hd]
  have he := xjEnd_spec (Acted.refl v c [0x008]) c.isLt (ledgerCore_cellStored ho c.isLt _ _) (by decide) (by decide) (by decide)
  obtain ⟨-, -, hcores, hregs⟩ := he.retired
  have hmb := core_cellStored u c cell.1 pa
  refine ⟨_, hx, by rw [he.core, stepped, hmb]; rfl, ?_, he.vstart, by rw [he.core, stepped, hmb]; rfl,
    fun d hd' => (hcores d hd').trans (cores_cellStored u c cell.1 pa d hd'), ?_⟩
  · have h1 : (xjEnd v c).csr c 0x009 = v.csr c 0x009 := hregs _ fun q hq => by
      simp only [List.map_cons, List.map_nil, List.mem_cons, List.not_mem_nil, or_false] at hq
      rcases hq with rfl | rfl <;> exact csr_ne (by decide)
    have h2 : v.csr c 0x009 = u.csr c 0x009 := rd_sramWrite_of_ne (by rw [key_csr]; omega) ..
    have h3 := csr_of_vcsr (vcsr_of_locate hl) c (n := 0x009) (.inl rfl)
    rw [h1, h2, h3, vxsat_noteSat, setVstart, csr_setCsr_ne (by decide)]
  · exact eq_of_stored (cellStored_eq u c cell.1 pa) he.rest

/-- Settles O16: the cell read from the L1D is spread over the group, and the packed cell is the merging buffer's one entry; vxsat and vtype
come through the translation. -/
theorem sampleCells : Obligations.SampleCells := by
  refine ⟨fun c w s u pa data hr hv ht hw hs hg hn h0 ha hl hp ho hm hsr hd => spkLd_spec hr hv ht hw hs hg hn h0 ha hl hp ho hm hsr hd,
    fun c w s u pa hr hv ht hw hs hg hn h0 ha hl _ hst ho hm hd => spkSt_spec hr hv ht hw hs hg hn h0 ha hl hst ho hm hd,
    fun c w s u hr hv ht hw hs hg hn h0 hst ha hl => ⟨exec_spkSt hr hv ht hw hs hg hn h0 hst ha hl, fun hsat => ?_⟩,
    fun c w s hr hv ht hw hs hg ha => congrArg Host.Outcome.next ?_⟩
  · have h := csr_of_vcsr (vcsr_of_locate hl) c (n := 0x009) (.inl rfl)
    rw [h, vxsat_noteSat, hsat]
    rfl
  · obtain ⟨hw', hmask⟩ := xjForm_unmasked hw
    rw [hw', hs, hg, hmask]
    refine (xjInsn_of_legal hr hv ht).trans ?_
    exact if_pos ha

end Sys2Proof.Machine
end

section
/-! SUPPORT. The fault log's head and injection, entry into a home slice, the scrub and the probe, and the phases of a ledger epoch. -/

namespace Sys2Proof.Machine

/-! ### Status bits -/

namespace State

theorem bit_put_self {f : Fld} (hl : f.lo ≤ f.hi) (hh : f.hi < 64) (s : State) (r : Reg) (n : Nat) :
    (s.put r f n).bit r f = (n % 2 ^ (f.hi - f.lo + 1) != 0) := by rw [bit, get_put_self hl hh]

theorem bit_put_apart {f g : Fld} (hl : f.lo ≤ f.hi) (hg : g.lo ≤ g.hi) (hd : g.hi < f.lo ∨ f.hi < g.lo) (s : State) (r : Reg) (n : Nat) :
    (s.put r f n).bit r g = s.bit r g := by rw [bit, get_put_apart hl hg hd, bit]

theorem bit_put_ne {r q : Reg} (h : q.key ≠ r.key) (s : State) (f : Fld) (n : Nat) (g : Fld) : (s.put r f n).bit q g = s.bit q g := by
  rw [bit, get_put_ne h, bit]

end State

/-! ### FLT_HEAD and FLT_INJECT (R433, R437, R450) -/

theorem flipKey_inj {a b i a' b' i' : Nat} (hb : b < 2 ^ 16) (hb' : b' < 2 ^ 16) (hi : i < 2 ^ 56) (hi' : i' < 2 ^ 56)
    (h : flipKey a b i = flipKey a' b' i') : (a, b, i) = (a', b', i') := by
  unfold flipKey at h
  obtain rfl : a = a' := by omega
  obtain rfl : b = b' := by omega
  obtain rfl : i = i' := by omega
  rfl

theorem sramBits_of_flips {s t : State} {st unit idx : Nat} (h : t.flips.get? (flipKey st unit idx) = s.flips.get? (flipKey st unit idx)) :
    sramBits t st unit idx = sramBits s st unit idx := by rw [sramBits, sramBits, h]

/-- The flips that an armed injection leaves. -/
def injected (s : State) : List Nat :=
  let b := s.get .FLT_INJECT F.FLT_INJECT_BIT
  if s.bit .FLT_INJECT F.FLT_INJECT_DOUBLE then [b, b + 1] else [b]

/-- The write that an armed injection waits for. -/
theorem sramWrite_of_armed {s : State} (h : s.bit .FLT_INJECT F.FLT_INJECT_ARM = true) :
    sramWrite s (s.get .FLT_INJECT F.FLT_INJECT_STRUCT) (s.get .FLT_INJECT F.FLT_INJECT_UNIT) (s.get .FLT_INJECT_ADDR F.FLT_INJECT_ADDR_ADDR) =
      { s.put .FLT_INJECT F.FLT_INJECT_ARM 0 with
        flips := s.flips.set (flipKey (s.get .FLT_INJECT F.FLT_INJECT_STRUCT) (s.get .FLT_INJECT F.FLT_INJECT_UNIT)
          (s.get .FLT_INJECT_ADDR F.FLT_INJECT_ADDR_ADDR)) (injected s) } := if_pos ⟨h, rfl, rfl, rfl⟩

theorem faultHead {who : Agent} {v : Word} {s : State} (hw : s.isHouse who = true)
    (hi : F.FLT_HEAD_INDEX.get v = s.get .FLT_TAIL F.FLT_HEAD_INDEX) :
    ∃ t, exec (.fltHeadWrite who v) s = .next t ∧ t.get .FLT_HEAD F.FLT_HEAD_INDEX = F.FLT_HEAD_INDEX.get v ∧
      t.get .FLT_STATUS F.FLT_STATUS_WAITING = 0 ∧
      t.get .FLT_STATUS F.FLT_STATUS_DROPPED = s.get .FLT_STATUS F.FLT_STATUS_DROPPED ∧
      regsBut s t [.FLT_HEAD, .FLT_STATUS] ∧ t = { s with regs := t.regs } := by
  have hx : exec (.fltHeadWrite who v) s =
      .next ((s.put .FLT_HEAD F.FLT_HEAD_INDEX (F.FLT_HEAD_INDEX.get v)).put .FLT_STATUS F.FLT_STATUS_WAITING 0) :=
    (if_neg (by rw [hw]; decide)).trans (if_pos hi)
  have hlt : F.FLT_HEAD_INDEX.get v < 2 ^ (F.FLT_HEAD_INDEX.hi - F.FLT_HEAD_INDEX.lo + 1) := Fld.get_lt ..
  refine ⟨_, hx, ?_, State.get_put_self (by decide) (by decide) _ _ 0, ?_, fun r hr => ?_, rfl⟩
  · rw [State.get_put_ne (by decide), State.get_put_self (by decide) (by decide), Nat.mod_eq_of_lt hlt]
  · rw [State.get_put_apart (by decide) (by decide) (by decide), State.get_put_ne (by decide)]
  · rw [State.rd_put_ne (hr _ (by simp)), State.rd_put_ne (hr _ (by simp))]

/-- Settles O27: the head write by its case, and the write that the armed injection waits for. -/
theorem faultRegisters : Obligations.FaultRegisters := by
  refine ⟨fun who v s hw hi => faultHead hw hi, fun who v s hw => if_pos hw, fun who v s hw => ⟨if_neg (by simp [hw]), if_pos (by simp [hw])⟩,
    fun s ha => ?_⟩
  dsimp only
  rw [sramWrite_of_armed ha]
  refine ⟨?_, ?_, fun st' unit' idx' hu' hi' hu hi hne => sramBits_of_flips (NMap.get?_set_ne _ _ _ _ fun h => hne (flipKey_inj hu' hu hi' hi h))⟩
  · exact State.bit_put_self (by decide) (by decide) s .FLT_INJECT 0
  · rw [sramBits, NMap.get?_set_self, injected]
    split <;> rfl

/-! ### Messages enter a home slice (R206) -/

theorem enterSlice_of_enters {s : State} {n : Nat} {m : Msg} (o : Opc) (h : entersSlice s m n) :
    enterSlice s { m with op := o } = if opClass o = 1 then takeWb s n { m with op := o } else admitReq s n { m with op := o } := by
  obtain ⟨rfl, hs, hf, hi, hv⟩ := h
  have hd : injectDenied s (sliceOf s m.line) { m with op := o } = s := if_neg fun h => by rw [hi] at h; exact Bool.false_ne_true h.1
  unfold enterSlice
  dsimp only
  rw [hs, hf, if_neg (by decide), hd]
  refine if_neg ?_
  rintro ⟨h1, h2⟩
  rcases hv with h | h
  · rw [h] at h1; exact Bool.false_ne_true h1
  · exact h2 h

theorem enterSlice_of_suspended {s : State} {n : Nat} {m : Msg} (o : Opc) (hn : sliceOf s m.line = n) (h : (s.slice n).suspend = true) :
    enterSlice s { m with op := o } = s.setSlice n { s.slice n with held := (s.slice n).held ++ [{ m with op := o }] } := by
  subst hn
  exact if_pos (by rw [h]; rfl)

/-- Settles O17, by the operation's class. -/
theorem homeEnter : Obligations.HomeEnter := fun m n s => by
  have ha (o : Opc) (ho : opClass o ≠ 1) (h : entersSlice s m n) : (Host.Outcome.next (enterSlice s { m with op := o }) : Out) =
      .next (admitReq s n { m with op := o }) := congrArg _ ((enterSlice_of_enters o h).trans (if_neg ho))
  have ht (o : Opc) (ho : opClass o = 1) (h : entersSlice s m n) : (Host.Outcome.next (enterSlice s { m with op := o }) : Out) =
      .next (takeWb s n { m with op := o }) := congrArg _ ((enterSlice_of_enters o h).trans (if_pos ho))
  exact ⟨fun h => ⟨ha _ (by decide) h, ha _ (by decide) h, ha _ (by decide) h, ha _ (by decide) h, ha _ (by decide) h, ha _ (by decide) h,
      ha _ (by decide) h, ha _ (by decide) h, ha _ (by decide) h, ht _ (by decide) h, ht _ (by decide) h, ht _ (by decide) h, ht _ (by decide) h⟩,
    fun hn h => ⟨congrArg _ (enterSlice_of_suspended _ hn h), congrArg _ (enterSlice_of_suspended _ hn h)⟩⟩

/-! ### Scrub, probe and injection of the home slices (R236, R238) -/

/-- The last visit of a slice. -/
theorem lastVisit {n : Fin 16} {s : State} (hb : s.get .HOME_SCRUB F.HOME_SCRUB_BUSY = 1)
    (hd : (s.get .HOME_SCRUB F.HOME_SCRUB_DONE).testBit n = false) (hv : (s.slice n).scrub = 10929) (hs : (s.slice n).staged = []) :
    ∃ t, exec (.directoryScrubVisit n) s = .next t ∧ (t.slice n).scrub = 0 ∧
      t.get .HOME_SCRUB F.HOME_SCRUB_DONE = s.get .HOME_SCRUB F.HOME_SCRUB_DONE ||| 2 ^ n.val ∧ slicesBut s t [n.val] ∧
      regsBut s t [.HOME_SCRUB] ∧ t = { s with regs := t.regs, slices := t.slices } := by
  have hn : ¬ (s.get .HOME_SCRUB F.HOME_SCRUB_BUSY = 0 ∨ (s.get .HOME_SCRUB F.HOME_SCRUB_DONE).testBit n = true) := by
    rw [hb, hd]
    decide
  let x := { s.slice n with staged := [], scrub := 0 }
  have hx : exec (.directoryScrubVisit n) s =
      .next (((s.setSlice n { s.slice n with staged := [] }).setSlice n x).put .HOME_SCRUB F.HOME_SCRUB_DONE (s.get .HOME_SCRUB F.HOME_SCRUB_DONE ||| 2 ^ n.val)) := by
    refine (if_neg hn).trans ?_
    dsimp only
    rw [hv, hs, if_neg (by decide), if_neg (by decide), State.slice_setSlice_self]
    rfl
  refine ⟨_, hx, ?_, ?_, fun k hk => ?_, fun r hr => State.rd_put_ne (hr _ (by simp)) .., rfl⟩
  · exact congrArg Slice.scrub (State.slice_setSlice_self ..)
  · rw [State.get_put_self (by decide) (by decide)]
    refine Nat.mod_eq_of_lt (Nat.or_lt_two_pow (State.get_lt ..) (Nat.pow_lt_pow_right (by decide) n.isLt))
  · have hk' : k ≠ n.val := by simpa using hk
    exact (State.slice_setSlice_ne _ _ _ _ hk').trans (State.slice_setSlice_ne _ _ _ _ hk')

/-- The state in which a finished scrub has cleared its die's mask bit. -/
def unmasked (s : State) (d : Nat) : State :=
  (s.put .HOME_SCRUB F.HOME_SCRUB_BUSY 0).wr .HOME_DIE_MASK (s.rd .HOME_DIE_MASK &&& ~~~ BitVec.ofNat 64 (2 ^ d))

theorem dieMasked_unmasked (s : State) (d e : Fin 16) : dieMasked (unmasked s d) e = (dieMasked s e && decide (e ≠ d)) := by
  rw [dieMasked, unmasked, State.rd_wr_self, BitVec.getLsbD_and, BitVec.getLsbD_not, BitVec.getLsbD_ofNat, Nat.testBit_two_pow, dieMasked]
  have he : e.val < 64 := Nat.lt_trans e.isLt (by decide)
  rw [decide_eq_true he, Bool.true_and, Bool.true_and]
  by_cases h : e = d
  · simp [h]
  · have hv : d.val ≠ e.val := fun h' => h (Fin.ext h'.symm)
    simp [h, hv]

theorem exec_scrubEnd {d : Fin 16} {s : State} (hb : s.get .HOME_SCRUB F.HOME_SCRUB_BUSY = 1) (hd : s.get .HOME_SCRUB F.HOME_SCRUB_DIE = d.val)
    (ho : s.get .HOME_SCRUB F.HOME_SCRUB_DONE = 0xFFFF) : exec (.directoryScrubEnd d) s = .next (nextScrub (unmasked s d)) := if_pos ⟨hb, hd, ho⟩

theorem regsBut_unmasked (s : State) (d : Nat) : regsBut s (unmasked s d) [.HOME_SCRUB, .HOME_DIE_MASK] := fun r hr => by
  rw [unmasked, State.rd_wr_ne _ _ _ _ (hr _ (by simp)), State.rd_put_ne (hr _ (by simp))]

theorem scrubEnd_none {d : Fin 16} {s : State} (hb : s.get .HOME_SCRUB F.HOME_SCRUB_BUSY = 1) (hd : s.get .HOME_SCRUB F.HOME_SCRUB_DIE = d.val)
    (ho : s.get .HOME_SCRUB F.HOME_SCRUB_DONE = 0xFFFF) (hw : ∀ e < 16, (s.die e).rejoin ≠ 4) :
    ∃ t, exec (.directoryScrubEnd d) s = .next t ∧ t.get .HOME_SCRUB F.HOME_SCRUB_BUSY = 0 ∧ dieMasked t d = false ∧
      (∀ e : Fin 16, e ≠ d → dieMasked t e = dieMasked s e) ∧ regsBut s t [.HOME_SCRUB, .HOME_DIE_MASK] ∧ t = { s with regs := t.regs } := by
  have hn : nextScrub (unmasked s d) = unmasked s d := by
    have hf : (List.range 16).find? (fun d' => ((unmasked s d).die d').rejoin == 4) = none :=
      List.find?_eq_none.mpr fun e he h => hw e (List.mem_range.mp he) (beq_iff_eq.mp h)
    rw [nextScrub, hf]
  refine ⟨_, (exec_scrubEnd hb hd ho).trans (congrArg _ hn), ?_, ?_, fun e he => ?_, regsBut_unmasked s d, rfl⟩
  · rw [unmasked, State.get_wr_ne (by decide)]
    exact State.get_put_self (by decide) (by decide) s _ 0
  · rw [dieMasked_unmasked]
    simp
  · rw [dieMasked_unmasked]
    simp [he]

theorem find_first {p : Nat → Bool} {n : Nat} {x : Fin n} (hx : p x = true) (hlt : ∀ e < x.val, p e = false) : (List.range n).find? p = some x.val := by
  rw [List.find?_range_eq_some]
  exact ⟨hx, List.mem_range.mpr x.isLt, fun j hj => by simp [hlt j hj]⟩

theorem rescanned (s : State) : (∀ n < 16, ((overAll (List.range 16) rescan s).slice n).scrub = 0) ∧
    overAll (List.range 16) rescan s = { s with slices := (overAll (List.range 16) rescan s).slices } := by
  refine ⟨fun n hn => ?_, overAll_rel (R := fun s t => t = { s with slices := t.slices }) (fun _ => rfl) (fun {s t u} h h' => by rw [h', h])
    (fun _ _ => rfl) _ s⟩
  exact overAll_each (step := rescan) (read := fun t n => (t.slice n).scrub) (val := fun _ _ => 0) List.nodup_range
    (fun _ _ _ => congrArg Slice.scrub (State.slice_setSlice_self ..))
    (fun _ _ _ _ _ h => congrArg Slice.scrub (State.slice_setSlice_ne _ _ _ _ h)) (fun _ _ _ _ _ _ => rfl) s (List.mem_range.mpr hn)

theorem startScrub_rest (s : State) (d : Nat) : (∀ n < 16, ((startScrub s d).slice n).scrub = 0) ∧ regsBut s (startScrub s d) [.HOME_SCRUB] ∧
    startScrub s d = { s with regs := (startScrub s d).regs, dies := (startScrub s d).dies, slices := (startScrub s d).slices } := by
  obtain ⟨h0, he⟩ := rescanned (s.setDie d { s.die d with rejoin := 5 })
  have hx : startScrub s d = (((overAll (List.range 16) rescan (s.setDie d { s.die d with rejoin := 5 })).put .HOME_SCRUB F.HOME_SCRUB_BUSY 1).put
    .HOME_SCRUB F.HOME_SCRUB_DIE d).put .HOME_SCRUB F.HOME_SCRUB_DONE 0 := rfl
  generalize overAll (List.range 16) rescan (s.setDie d { s.die d with rejoin := 5 }) = v at h0 he hx
  rw [hx]
  refine ⟨h0, fun r hr => ?_, ?_⟩
  · have hr' := hr _ List.mem_cons_self
    rw [State.rd_put_ne hr', State.rd_put_ne hr', State.rd_put_ne hr', he]
    rfl
  · rw [he]
    rfl

theorem scrubEnd_next {d x : Fin 16} {s : State} (hb : s.get .HOME_SCRUB F.HOME_SCRUB_BUSY = 1) (hd : s.get .HOME_SCRUB F.HOME_SCRUB_DIE = d.val)
    (ho : s.get .HOME_SCRUB F.HOME_SCRUB_DONE = 0xFFFF) (hx : (s.die x).rejoin = 4) (hlt : ∀ e < x.val, (s.die e).rejoin ≠ 4) :
    ∃ t, exec (.directoryScrubEnd d) s = .next t ∧ t.get .HOME_SCRUB F.HOME_SCRUB_BUSY = 1 ∧
      t.get .HOME_SCRUB F.HOME_SCRUB_DIE = x.val ∧ t.get .HOME_SCRUB F.HOME_SCRUB_DONE = 0 ∧ dieMasked t d = false ∧
      t.die x = { s.die x with rejoin := 5 } ∧ (∀ n < 16, (t.slice n).scrub = 0) ∧ diesBut s t [x.val] ∧
      regsBut s t [.HOME_SCRUB, .HOME_DIE_MASK] ∧ t = { s with regs := t.regs, dies := t.dies, slices := t.slices } := by
  have hn : nextScrub (unmasked s d) = startScrub (unmasked s d) x := by
    have hf : (List.range 16).find? (fun d' => ((unmasked s d).die d').rejoin == 4) = some x.val :=
      find_first (x := x) (beq_iff_eq.mpr hx) fun e he => beq_eq_false_iff_ne.mpr (hlt e he)
    rw [nextScrub, hf]
  obtain ⟨hk, -, h1, h2, h3, hdies⟩ := startScrub_spec (unmasked s d) x
  obtain ⟨h0, hregs, he⟩ := startScrub_rest (unmasked s d) x
  refine ⟨_, (exec_scrubEnd hb hd ho).trans (congrArg _ hn), h1, h2, h3, ?_, hk, h0, hdies, fun r hr => ?_, ?_⟩
  · rw [dieMasked, hregs _ (by decide)]
    exact (dieMasked_unmasked s d d).trans (by simp)
  · rw [hregs _ fun q hq => hr q (List.mem_cons.mpr (.inl (List.mem_singleton.mp hq)))]
    exact regsBut_unmasked s d r hr
  · rw [he]
    rfl

theorem probe_spec {who : Agent} {v : Word} {s : State} (hw : s.isHouse who = true) : ∃ t, exec (.homeProbe who v) s = .next t ∧
    t.get .HOME_PROBE_ADDR F.HOME_PROBE_ADDR_LINE = F.HOME_PROBE_ADDR_LINE.get v ∧
    t.bit .HOME_PROBE_ADDR F.HOME_PROBE_ADDR_DONE = false ∧ regsBut s t [.HOME_PROBE_ADDR] ∧ t = { s with regs := t.regs } := by
  have hlt : F.HOME_PROBE_ADDR_LINE.get v < 2 ^ (F.HOME_PROBE_ADDR_LINE.hi - F.HOME_PROBE_ADDR_LINE.lo + 1) := Fld.get_lt ..
  refine ⟨_, if_pos hw, ?_, State.bit_put_self (by decide) (by decide) _ _ 0, fun r hr => ?_, rfl⟩
  · rw [State.get_put_apart (by decide) (by decide) (by decide), State.get_put_self (by decide) (by decide), Nat.mod_eq_of_lt hlt]
  · rw [State.rd_put_ne (hr _ (by simp)), State.rd_put_ne (hr _ (by simp))]

theorem probeDone_spec {s : State} {e : DirEnt} {n key line : Nat} (hd : s.bit .HOME_PROBE_ADDR F.HOME_PROBE_ADDR_DONE = false)
    (hl : s.get .HOME_PROBE_ADDR F.HOME_PROBE_ADDR_LINE = line) (hn : sliceOf s line = n) (he : findEnt s n line = some (key, e)) :
    ∃ t, exec .homeProbeDone s = .next t ∧ t.rd .HOME_PROBE_W0 = BitVec.ofNat 64 (entWord0 e) ∧
      t.rd .HOME_PROBE_W1 = BitVec.ofNat 64 (2 ^ 63 + entWord1 e (pins s n line)) ∧
      t.bit .HOME_PROBE_ADDR F.HOME_PROBE_ADDR_DONE = true ∧
      regsBut s t [.HOME_PROBE_W0, .HOME_PROBE_W1, .HOME_PROBE_ADDR] ∧ t = { s with regs := t.regs } := by
  subst hl hn
  generalize ha : BitVec.ofNat 64 (entWord0 e) = w0
  generalize hb : BitVec.ofNat 64 (2 ^ 63 + entWord1 e (pins s (sliceOf s (s.get .HOME_PROBE_ADDR F.HOME_PROBE_ADDR_LINE))
    (s.get .HOME_PROBE_ADDR F.HOME_PROBE_ADDR_LINE))) = w1
  have hx : exec .homeProbeDone s =
      .next (((s.wr .HOME_PROBE_W0 w0).wr .HOME_PROBE_W1 w1).put .HOME_PROBE_ADDR F.HOME_PROBE_ADDR_DONE 1) := by
    refine (if_neg (by rw [hd]; decide)).trans ?_
    rw [he]
    dsimp only
    rw [ha, hb]
  refine ⟨_, hx, ?_, ?_, State.bit_put_self (by decide) (by decide) _ _ 1, fun r hr => ?_, rfl⟩
  · rw [State.rd_put_ne (by decide), State.rd_wr_ne _ _ _ _ (by decide), State.rd_wr_self]
  · rw [State.rd_put_ne (by decide), State.rd_wr_self]
  · rw [State.rd_put_ne (hr _ (by simp)), State.rd_wr_ne _ _ _ _ (hr _ (by simp)), State.rd_wr_ne _ _ _ _ (hr _ (by simp))]

/-- Settles O21: the visits and the end of a scrub, then the probe and the injection. -/
theorem homeScrubProbe : Obligations.HomeScrubProbe :=
  ⟨fun _ _ hb hd hv hs => lastVisit hb hd hv hs, fun _ _ hb hd ho hw => scrubEnd_none hb hd ho hw,
    fun _ _ _ hb hd ho hx hlt => scrubEnd_next hb hd ho hx hlt, fun _ _ _ hw => probe_spec hw, fun _ _ _ _ _ hd hl hn he => probeDone_spec hd hl hn he,
    fun _ _ _ _ hw => ⟨if_pos hw, if_pos hw⟩,
    fun _ _ _ _ hw => ⟨if_neg (by simp [hw]), if_neg (by simp [hw]), if_neg (by simp [hw])⟩⟩

/-! ### Intake staging (R253 to R255) -/

theorem ledgerIntake : Claim.LedgerIntake := by
  refine ⟨fun h id i s hf hi hl ho => ?_, fun h id i s hf hi => ?_, fun h id ok s hf => ?_⟩
  · have hc : i.data.length = i.length ∧ (outMsgs s 24 (fun m => m.txn == txnOf 2 (intakeKey h id))).isEmpty = true := ⟨hl, by rw [ho]; rfl⟩
    show execIntakeStagingDone h id true s = _
    unfold execIntakeStagingDone
    rw [hf]
    dsimp only
    rw [if_neg (not_not_intro hi), if_neg (show ¬ ¬ true = true by decide), if_pos hc]
  · show execIntakeStagingDone h id false s = _
    unfold execIntakeStagingDone
    rw [hf]
    dsimp only
    rw [if_neg (not_not_intro hi), if_pos (show ¬ false = true by decide)]
  · show execIntakeStagingDone h id ok s = _
    unfold execIntakeStagingDone
    rw [hf]

/-! ### The phases of an epoch (R239, R246, R254, R258) -/

theorem phaseOf_put {s : State} {h n : Nat} (hn : n < 8) : phaseOf (s.put (.CSQ_LDG_PHASE h) F.CSQ_LDG_PHASE_PHASE n) h = n :=
  (State.get_put_self (by decide) (by decide) s _ n).trans (Nat.mod_eq_of_lt hn)

theorem handLost_put_phase (s : State) {h : Nat} (hh : h < 64) (f : Fld) (n g : Nat) (hg : g < 64) :
    (s.put (.CSQ_LDG_PHASE h) f n).handLost g = s.handLost g := by
  rw [State.handLost, State.get_put_ne (by rw [key_fabHand, key_csqLdgPhase]; omega), State.handLost]

/-- What drains of cores with nothing to drain leave: everything but the representation of the cores. -/
def sameCores (s t : State) : Prop := (∀ c, t.core c = s.core c) ∧ t = { s with cores := t.cores }

theorem sameCores.trans {s t u : State} (h : sameCores s t) (h' : sameCores t u) : sameCores s u :=
  ⟨fun c => (h'.1 c).trans (h.1 c), by rw [h'.2, h.2]⟩

theorem sameCores_setCore (s : State) (c : Nat) : sameCores s (s.setCore c (s.core c)) := by
  refine ⟨fun d => ?_, rfl⟩
  by_cases h : d = c
  · rw [h, State.core_setCore_self]
  · exact State.core_setCore_ne _ _ _ _ h

theorem sameCores_drainAll {s : State} {c : Nat} (h : (s.core c).mb = []) : sameCores s (drainAll s c) := by
  have h' : ((s.setCore c (s.core c)).core c).mb = [] := by rw [State.core_setCore_self, h]
  rw [drainAll, drain_of_empty h, drain_of_empty h']
  exact (sameCores_setCore s c).trans (sameCores_setCore _ c)

theorem runEnd_spec {h : Fin 64} {s : State} (hp : phaseOf s h = 2) (hl : s.handLost h = false)
    (hc : ∀ c ∈ s.coresOf h, (s.core c).ended = true ∧ (s.core c).mb = [] ∧ (s.core c).stores = []) :
    ∃ t, exec (.ledgerRunEnd h) s = .next t ∧ phaseOf t h = 3 ∧ (t.ledger h) = { s.ledger h with token := 0 } ∧
      (∀ c, t.core c = s.core c) ∧ ledgersBut s t [h.val] ∧ regsBut s t [.CSQ_LDG_PHASE h] ∧
      t = { s with regs := t.regs, cores := t.cores, ledgers := t.ledgers } := by
  let u := overAll (s.coresOf h) drainAll s
  obtain ⟨hcu, hu⟩ : sameCores s u := overAll_inv (P := sameCores s) (fun t c hm ht => ht.trans (sameCores_drainAll (by rw [ht.1]; exact (hc c hm).2.1)))
    ⟨fun _ => rfl, rfl⟩
  have hd : ∀ c ∈ s.coresOf h, drained u c = true := fun c hm => by
    obtain ⟨-, h1, h2⟩ := hc c hm
    rw [drained, hcu, h1, h2]
    rfl
  have hlu : u.handLost h = false := by rw [hu]; exact hl
  have hx : exec (.ledgerRunEnd h) s = .next ((u.setLedger h { u.ledger h with token := 0 }).put (.CSQ_LDG_PHASE h) F.CSQ_LDG_PHASE_PHASE 3) := by
    refine (if_neg ?_).trans (if_neg ?_)
    · rintro (h' | h')
      · exact h' hp
      · exact h' (List.all_eq_true.mpr fun c hm => (hc c hm).1)
    · rintro (h' | h')
      · exact h' (List.all_eq_true.mpr hd)
      · exact Bool.false_ne_true (hlu.symm.trans h')
  have hlg : u.ledger h = s.ledger h := by rw [hu]; rfl
  have hlk : ∀ g, u.ledger g = s.ledger g := fun g => by rw [hu]; rfl
  refine ⟨_, hx, phaseOf_put (by decide), ?_, hcu, fun g hg => ?_, fun r hr => ?_, ?_⟩
  · rw [← hlg]
    exact State.ledger_setLedger_self ..
  · exact (State.ledger_setLedger_ne _ _ _ _ (by simpa using hg)).trans (hlk g)
  · rw [State.rd_put_ne (hr _ (by simp))]
    show u.rd r = _
    rw [hu]
    rfl
  · rw [hu]
    rfl

theorem tokenArrive_spec {c : Fin 384} {h : Nat} {s : State} (hh : h < 64) (ho : s.handOf c = some h) (hf : s.folio.isLedger h = true)
    (hp : phaseOf s h = 3) (hl : s.handLost h = false) (ht : (s.ledger h).token = (s.core c).rank) (hb : (s.core c).lbuf = [])
    (hla : (s.core c).later = none) (hhe : (s.core c).held = []) :
    ∃ t, exec (.ledgerTokenArrive c) s = .next t ∧ t.core c = { s.core c with held := [], published := true } ∧
      (t.ledger h) = { s.ledger h with token := (s.ledger h).token + 1 } ∧ coresBut s t [c.val] ∧ ledgersBut s t [h] ∧
      regsBut s t [.CSQ_LDG_PHASE h] ∧ t = { s with regs := t.regs, cores := t.cores, ledgers := t.ledgers } := by
  let u := (s.setCore c { s.core c with held := [], published := true }).setLedger h { s.ledger h with token := (s.ledger h).token + 1 }
  have hn : ∀ a, ¬ (a ∨ s.handLost h = true) ↔ ¬ a := fun a => by rw [hl]; simp
  have hpub : publish s h c = if (s.ledger h).token + 1 < (u.coresOf h).length then
      u.put (.CSQ_LDG_PHASE h) F.CSQ_LDG_PHASE_TOKEN ((s.ledger h).token + 1) else u := by
    have h1 : publishLines h c (byLine (s.core c).lbuf) s = s := by rw [hb]; rfl
    have h2 : performLater s h c = s := by rw [performLater, hla]
    unfold publish
    dsimp only
    rw [h1, if_neg ((hn _).mpr (not_not_intro hb)), h2, if_neg ((hn _).mpr (not_not_intro hla)), hhe]
    rfl
  have hx : exec (.ledgerTokenArrive c) s = .next (publish s h c) := by
    show execLedgerTokenArrive c s = _
    unfold execLedgerTokenArrive
    rw [ho]
    exact if_pos ⟨hf, hp, ht⟩
  have hu : u.core c = { s.core c with held := [], published := true } := State.core_setCore_self ..
  have hul : u.ledger h = { s.ledger h with token := (s.ledger h).token + 1 } := State.ledger_setLedger_self ..
  have hcu : coresBut s u [c.val] := fun d hd => State.core_setCore_ne _ _ _ _ (by simpa using hd)
  have hlu : ledgersBut s u [h] := fun g hg => State.ledger_setLedger_ne _ _ _ _ (by simpa using hg)
  rw [hpub] at hx
  refine ⟨_, hx, ?_⟩
  split
  · exact ⟨hu, hul, hcu, hlu, fun r hr => State.rd_put_ne (hr _ (by simp)) .., rfl⟩
  · exact ⟨hu, hul, hcu, hlu, fun r hr => rfl, rfl⟩

theorem unlessLost_of_not {s : State} {h : Nat} (hl : s.handLost h = false) (f : State → State) : unlessLost s h f = f s := by
  rw [unlessLost, hl]
  rfl

/-- A Deliver phase with nothing to deliver is placed at once. -/
theorem deliverDue_of_none {s : State} {h : Nat} (hp : (s.ledger h).placed = false) (hh : (s.ledger h).held = none) (hd : dueIntakes s h = [])
    (hl : s.handLost h = false) : deliverDue s h = s.setLedger h { s.ledger h with placed := true } := by
  have he : endHold s h = s := by rw [endHold, hh]
  unfold deliverDue
  rw [if_neg (by rw [hp, hd]; simp), he]
  dsimp only
  rw [hd]
  exact unlessLost_of_not hl _

theorem publishEnd_spec {h : Fin 64} {s : State} (hp : phaseOf s h = 3) (ht : (s.coresOf h).length ≤ (s.ledger h).token)
    (hs : (s.ledger h).stop = false) (hl : s.handLost h = false) (hi : (s.ledger h).intakes = []) :
    ∃ t, exec (.ledgerPublishEnd h) s = .next t ∧ phaseOf t h = 4 ∧ (t.ledger h).placed = true ∧ (t.ledger h).waits = [] ∧
      (t.ledger h).held = none ∧ ledgersBut s t [h.val] ∧ regsBut s t [.CSQ_LDG_PHASE h] ∧
      t = { s with regs := t.regs, ledgers := t.ledgers } := by
  let k := cutoff (s.ledger h) ((s.rd (.CSQ_LDG_EPOCH h)).toNat + 1)
  let u := ((s.setLedger h k).put (.CSQ_LDG_PHASE h) F.CSQ_LDG_PHASE_PHASE 4).put (.CSQ_LDG_PHASE h) F.CSQ_LDG_PHASE_TOKEN 0
  have hk : u.ledger h = k := State.ledger_setLedger_self ..
  have hlu : u.handLost h = false := by
    rw [handLost_put_phase _ h.isLt _ _ _ h.isLt, handLost_put_phase _ h.isLt _ _ _ h.isLt]
    exact hl
  have hdue : dueIntakes u h = [] := by
    have hki : k.intakes = [] := by
      show numberDue _ ((s.ledger h).intakes.map _) = []
      rw [hi]
      rfl
    rw [dueIntakes, hk, hki]
    rfl
  have hd := deliverDue_of_none (s := u) (h := h) (by rw [hk]; rfl) (by rw [hk]; rfl) hdue hlu
  have hx : exec (.ledgerPublishEnd h) s = .next (u.setLedger h { u.ledger h with placed := true }) := by
    refine (if_neg ?_).trans ((if_neg (by rw [hs]; decide)).trans (congrArg Host.Outcome.next ?_))
    · rintro (h' | h')
      · exact h' hp
      · exact absurd h' (Nat.not_lt.mpr ht)
    · show holdDeliver (deliverDue u h) h = _
      rw [hd, holdDeliver, if_pos (.inl (by rw [State.ledger_setLedger_self]))]
  have hph : phaseOf u h = 4 := (State.get_put_apart (by decide) (by decide) (by decide) ..).trans (phaseOf_put (by decide))
  have hlg : (u.setLedger h { u.ledger h with placed := true }).ledger h = { k with placed := true } := by
    rw [State.ledger_setLedger_self, hk]
  refine ⟨_, hx, hph, by rw [hlg], by rw [hlg]; rfl, by rw [hlg]; rfl, fun g hg => ?_, fun r hr => ?_, rfl⟩
  · have hg' : g ≠ h.val := by simpa using hg
    exact (State.ledger_setLedger_ne _ _ _ _ hg').trans (State.ledger_setLedger_ne _ _ _ _ hg')
  · have hr' := hr _ List.mem_cons_self
    show u.rd r = s.rd r
    rw [State.rd_put_ne hr', State.rd_put_ne hr']
    rfl

theorem ledgerPhasesClaim : Claim.LedgerPhases := by
  refine ⟨fun h s hp hl hc => runEnd_spec hp hl hc, fun c h s hh ho hf hp hl ht hb hla hhe => tokenArrive_spec hh ho hf hp hl ht hb hla hhe,
    fun h s hp ht hs => (if_neg ?_).trans (if_pos hs), fun h s hp ht hs hl hi => publishEnd_spec hp ht hs hl hi, fun h s hp => ?_⟩
  · rintro (h' | h')
    · exact h' hp
    · exact absurd h' (Nat.not_lt.mpr ht)
  · have hn : ∀ n, n ≠ 0 → phaseOf s h ≠ n := fun n h0 h' => h0 (h'.symm.trans hp)
    exact ⟨if_pos (.inl (hn 2 (by decide))), if_pos (.inl (hn 3 (by decide))), if_pos (hn 4 (by decide)), if_pos (.inl (hn 1 (by decide)))⟩

/-- Settles O28: each phase's end by what it leaves in the ledger, and the staging by its cases. -/
theorem ledgerPhases : Obligations.LedgerPhases := ⟨ledgerPhasesClaim, ledgerIntake⟩

end Sys2Proof.Machine
end

section
/-! SUPPORT. Tallies: what an arrival and a set tally leave in every other one, and the registers that write them. -/

namespace Sys2Proof.Machine

/-! ### Tallies (R374, R375) -/

theorem tallyFld (j : Nat) : (F.TIC_TALLY_TALLY j).lo ≤ (F.TIC_TALLY_TALLY j).hi ∧ (F.TIC_TALLY_TALLY j).hi - (F.TIC_TALLY_TALLY j).lo + 1 = 8 :=
  ⟨by dsimp only; omega, by dsimp only; omega⟩

theorem tallyFld_lt {j : Nat} (h : j < 8) : (F.TIC_TALLY_TALLY j).hi < 64 := by dsimp only; omega

theorem key_ticTally (k : Nat) : (Reg.TIC_TALLY k).key = 0xF00006110000 + k * 8 := by simp only [Reg.key]

theorem tally_lt (s : State) (n : Nat) : s.tally n < 256 := by
  have h := s.get_lt (.TIC_TALLY (n / 8)) (F.TIC_TALLY_TALLY (n % 8))
  rw [(tallyFld _).2] at h
  exact h

theorem tally_sramWrite {n : Nat} (hn : n < 8192) (s : State) (st u i : Nat) : (sramWrite s st u i).tally n = s.tally n := by
  rw [State.tally, State.get, rd_sramWrite_of_ne (by rw [key_ticTally]; omega)]
  rfl

theorem tally_setTally_self {n v : Nat} (hn : n < 8192) (hv : v < 256) (s : State) : (s.setTally n v).tally n = v := by
  obtain ⟨hl, h8⟩ := tallyFld (n % 8)
  rw [State.setTally, tally_sramWrite hn, State.tally, State.get_put_self hl (tallyFld_lt (Nat.mod_lt _ (by decide))), h8]
  exact Nat.mod_eq_of_lt hv

theorem tally_setTally_ne {n m : Nat} (hm : m < 8192) (hne : m ≠ n) (s : State) (v : Nat) : (s.setTally n v).tally m = s.tally m := by
  rw [State.setTally, tally_sramWrite hm, State.tally, State.tally]
  by_cases hq : m / 8 = n / 8
  · rw [hq]
    exact State.get_put_apart (tallyFld _).1 (tallyFld _).1 (by dsimp only; omega) ..
  · exact State.get_put_ne (by rw [key_ticTally, key_ticTally]; omega) ..

theorem tally_wr_sat {m : Nat} (hm : m < 8192) {k : Nat} (hk : k < 128) (s : State) (w : Word) : (s.wr (.TIC_SAT k) w).tally m = s.tally m :=
  State.get_wr_ne (by simp only [Reg.key]; omega) ..

theorem tally_arrive_self {n : Nat} (hex : sourceExists n = true) (s : State) : (s.arrive n).tally n = min (s.tally n + 1) 255 := by
  have hlt := tally_lt s n
  by_cases h : s.tally n < 255
  · rw [tally_arrive hex h]
    omega
  · rw [State.arrive, if_neg (by simp [hex]), if_neg h, tally_wr_sat (sourceExists_lt hex) (by have := sourceExists_lt hex; omega)]
    omega

theorem tally_arrive_ne {n m : Nat} (hm : m < 8192) (hne : m ≠ n) (s : State) : (s.arrive n).tally m = s.tally m := by
  unfold State.arrive
  split
  · rfl
  next hex =>
    have hn := sourceExists_lt (by simpa using hex)
    split
    · exact tally_setTally_ne hm hne ..
    · exact tally_wr_sat hm (by omega) ..

/-! ### The writes of the controller's registers (R374, R376) -/

/-- Bits set one by one. -/
theorem getLsbD_foldl_setBits (p : Nat → Bool) {n i : Nat} (hi : i < 64) :
    ((List.range n).foldl (fun (w : Word) m => if p m then w ||| BitVec.ofNat 64 (2 ^ m) else w) 0).getLsbD i = (decide (i < n) && p i) := by
  induction n with
  | zero => simp
  | succ n ih =>
    rw [List.range_succ, List.foldl_append, List.foldl_cons, List.foldl_nil]
    have hb : (BitVec.ofNat 64 (2 ^ n)).getLsbD i = decide (n = i) := by
      rw [BitVec.getLsbD_ofNat, Nat.testBit_two_pow]
      simp [hi]
    generalize (List.range n).foldl (fun (w : Word) m => if p m then w ||| BitVec.ofNat 64 (2 ^ m) else w) 0 = w at ih ⊢
    have hstep : (if p n then w ||| BitVec.ofNat 64 (2 ^ n) else w).getLsbD i = (w.getLsbD i || (p n && decide (n = i))) := by
      split
      next hp => rw [BitVec.getLsbD_or, hb, hp, Bool.true_and]
      next hp => rw [Bool.eq_false_iff.mpr hp, Bool.false_and, Bool.or_false]
    rw [hstep, ih]
    by_cases hin : n = i
    · subst hin
      simp
    · have hlt : decide (i < n + 1) = decide (i < n) := decide_eq_decide.mpr ⟨fun h => by omega, fun h => by omega⟩
      rw [hlt, decide_eq_false hin, Bool.and_false, Bool.or_false]

/-- Whether an agent may change the bit of a source. -/
def mayChange (s : State) (who : Agent) (soft : Bool) (n : Nat) : Bool :=
  sourceExists n &&
    match who with
    | .archivist => true
    | .bmc => false
    | .core c =>
      match s.handOf c.val with
      | none => false
      | some h => h == 0 || (s.folio.ctrlAccess h 6 &&
          ((soft && decide (1024 ≤ n)) || s.handOf (s.srcTarget n) == some h && decide (s.srcTarget n < 384)))

theorem sourceExists_of_mayChange {s : State} {who : Agent} {soft : Bool} {n : Nat} (h : mayChange s who soft n = true) : sourceExists n = true :=
  (Bool.and_eq_true_iff.mp h).1

theorem getLsbD_ticBits (s : State) (who : Agent) (k : Nat) (soft : Bool) {m : Nat} (hm : m < 64) :
    (ticBits s who k soft).getLsbD m = mayChange s who soft (64 * k + m) := by
  refine (getLsbD_foldl_setBits (fun m => mayChange s who soft (64 * k + m)) hm).trans ?_
  rw [decide_eq_true hm, Bool.true_and]

theorem tally_overBits {f : State → Nat → State} {g : Nat → Nat} {k : Nat} (w : Word)
    (hself : ∀ t m, m < 64 → w.getLsbD m = true → (f t m).tally (64 * k + m) = g (t.tally (64 * k + m)))
    (hne : ∀ t m j, m < 64 → j < 64 → j ≠ m → (f t m).tally (64 * k + j) = t.tally (64 * k + j)) (s : State) (m : Fin 64) :
    (overAll (List.range 64) (fun s m => if w.getLsbD m then f s m else s) s).tally (64 * k + m) =
      if w.getLsbD m then g (s.tally (64 * k + m)) else s.tally (64 * k + m) := by
  have hother : ∀ t, ∀ a ∈ List.range 64, ∀ b ∈ List.range 64, b ≠ a →
      (if w.getLsbD a then f t a else t).tally (64 * k + b) = t.tally (64 * k + b) := fun t a ha b hb h => by
    split
    · exact hne t a b (List.mem_range.mp ha) (List.mem_range.mp hb) h
    · rfl
  refine overAll_each (step := fun s m => if w.getLsbD m then f s m else s) (read := fun t m => t.tally (64 * k + m))
    (val := fun t m => if w.getLsbD m then g (t.tally (64 * k + m)) else t.tally (64 * k + m)) List.nodup_range (fun t a ha => ?_)
    hother (fun t a ha b hb h => by rw [hother t a ha b hb h]) s (List.mem_range.mpr m.isLt)
  split
  next hw => exact hself t a (List.mem_range.mp ha) hw
  next => rfl

theorem sameUnits_overBits {f : State → Nat → State} (hf : ∀ t m, sameUnits t (f t m)) (w : Word) (l : List Nat) (s : State) :
    sameUnits s (overAll l (fun s m => if w.getLsbD m then f s m else s) s) := by
  refine overAll_rel sameUnits_refl .trans (fun t m => ?_) l s
  split
  · exact hf t m
  · exact sameUnits_refl t

theorem tallyRegisterBits {who : Agent} {k : Fin 128} {v : Word} {s : State} (hw : notLedger s who) :
    (∃ t, exec (.ticEnSetWrite who k v) s = .next t ∧ t.rd (.TIC_EN_SET k) = s.rd (.TIC_EN_SET k) ||| (v &&& ticBits s who k false) ∧
      regsBut s t [.TIC_EN_SET k] ∧ t = { s with regs := t.regs }) ∧
    (∃ t, exec (.ticEnClrWrite who k v) s = .next t ∧
      t.rd (.TIC_EN_SET k) = s.rd (.TIC_EN_SET k) &&& ~~~ (v &&& ticBits s who k false) ∧
      regsBut s t [.TIC_EN_SET k] ∧ t = { s with regs := t.regs }) ∧
    (∃ t, exec (.ticPendSetWrite who k v) s = .next t ∧
      (∀ m : Fin 64, t.tally (64 * k.val + m) = (if (v &&& ticBits s who k true).getLsbD m then
        min (s.tally (64 * k.val + m) + 1) 255 else s.tally (64 * k.val + m))) ∧
      t = { s with regs := t.regs, flips := t.flips }) ∧
    (∃ t, exec (.ticPendClrWrite who k v) s = .next t ∧
      (∀ m : Fin 64, t.tally (64 * k.val + m) = (if (v &&& ticBits s who k false).getLsbD m then 0
        else s.tally (64 * k.val + m))) ∧
      t = { s with regs := t.regs, flips := t.flips }) := by
  refine ⟨⟨_, barred_of_notLedger hw .., State.rd_wr_self .., fun r hr => State.rd_wr_ne _ _ _ _ (hr _ (by simp)), rfl⟩,
    ⟨_, barred_of_notLedger hw .., State.rd_wr_self .., fun r hr => State.rd_wr_ne _ _ _ _ (hr _ (by simp)), rfl⟩,
    ⟨_, barred_of_notLedger hw .., ?_, ?_⟩, ⟨_, barred_of_notLedger hw .., ?_, ?_⟩⟩
  · refine tally_overBits (g := fun n => min (n + 1) 255) _ (fun t m hm hb => tally_arrive_self ?_ t)
      (fun t m j hm hj h => tally_arrive_ne (by omega) (by omega) t) s
    rw [BitVec.getLsbD_and, getLsbD_ticBits _ _ _ _ hm, Bool.and_eq_true] at hb
    exact sourceExists_of_mayChange hb.2
  · exact sameUnits_overBits (fun t m => sameUnits_arrive ..) _ _ s
  · exact tally_overBits (g := fun _ => 0) _ (fun t m hm hb => tally_setTally_self (by omega) (by decide) t)
      (fun t m j hm hj h => tally_setTally_ne (by omega) (by omega) t 0) s
  · exact sameUnits_overBits (fun t m => sameUnits_setTally ..) _ _ s

/-- A route write by another agent than the Archivist. -/
theorem tallyRouteDenied {who : Agent} {n : Fin 8192} {v : Word} {s : State} (ha : who ≠ .archivist) (hw : notLedger s who) :
    ∃ t, exec (.ticRouteWrite who n v) s = .next t ∧ t.bit .TIC_ERR F.TIC_ERR_ROUTE_DENIED = true ∧
      t.rd (.TIC_ROUTE n) = s.rd (.TIC_ROUTE n) ∧
      t.rd .FOL_ERR = (if addendumPoint s 0x20 then F.FOL_ERR_SHADOW_DENIED.put (s.rd .FOL_ERR) 1 else s.rd .FOL_ERR) ∧
      t = { s with regs := t.regs, flips := t.flips } := by
  let u := if addendumPoint s 0x20 then shadowDenied s else s
  have hu : sameUnits s u := by
    dsimp only [u]
    split
    · exact (sameUnits_put ..).trans (sameUnits_arrive ..)
    · exact sameUnits_refl s
  have hrd {r : Reg} (hr : arriveKept r) : u.rd r = if addendumPoint s 0x20 then (s.put .FOL_ERR F.FOL_ERR_SHADOW_DENIED 1).rd r else s.rd r := by
    dsimp only [u]
    split
    · exact rd_arrive hr ..
    · rfl
  have hkr : (Reg.TIC_ROUTE n).key = 0xF00006000000 + n * 8 := by simp only [Reg.key]
  have hx : exec (.ticRouteWrite who n v) s = .next (u.raise .TIC_ERR 2 21 0x2600 none 1 0) := (barred_of_notLedger hw ..).trans (if_neg ha)
  refine ⟨_, hx, ?_, ?_, ?_, hu.trans (sameUnits_raise ..)⟩
  · rw [State.bit, State.get, rd_raise ⟨by decide, by decide⟩ _ _ _ (by decide), State.rd_wr_self, Fld.get_or_self _ 2 (by decide)]
    rfl
  · rw [rd_raise_ne ⟨by omega, by omega⟩ (by rw [hkr]; simp only [Reg.key]; omega) _ _ (by decide), hrd ⟨by omega, by omega⟩]
    split
    · exact State.rd_put_ne (by rw [hkr]; simp only [Reg.key]; omega) ..
    · rfl
  · rw [rd_raise_ne ⟨by decide, by decide⟩ (by decide) _ _ (by decide), hrd ⟨by decide, by decide⟩, State.put, State.rd_wr_self]

/-- Settles O45: each register's write by what it changes, and the bits that an agent may change. -/
theorem tallyRegisters : Obligations.TallyRegisters := by
  refine ⟨fun who k v s hw => tallyRegisterBits hw, fun c k n v s hl => ⟨barred_of_bars ⟨hl, rfl⟩ _, barred_of_bars ⟨hl, rfl⟩ _,
    barred_of_bars ⟨hl, rfl⟩ _, barred_of_bars ⟨hl, rfl⟩ _, barred_of_bars ⟨hl, rfl⟩ _⟩, fun k soft m s => ?_,
    fun who n v s => ⟨fun h => ?_, fun ha hw => tallyRouteDenied ha hw⟩⟩
  · refine ⟨?_, ?_, fun c hc => ?_⟩
    · rw [getLsbD_ticBits _ _ _ _ m.isLt, mayChange, Bool.and_true]
    · rw [getLsbD_ticBits _ _ _ _ m.isLt, mayChange, Bool.and_false]
    · have hh : s.handOf c = some 0 := beq_iff_eq.mp hc
      rw [getLsbD_ticBits _ _ _ _ m.isLt, mayChange, hh]
      exact Bool.and_true _
  · subst h
    rfl

end Sys2Proof.Machine
end

section
/-! SUPPORT. Claims of the tally controller and the line that reaches mip (R377, R379, R382, R385, R386). -/

namespace Sys2Proof.Machine

/-! ### A claim (R377, R379, R385, R386) -/

theorem voidInt_of_open {s : State} {c : Nat} (h : s.ledgerCore c = false) : voidInt s c = s := by
  unfold voidInt
  unfold State.ledgerCore at h
  split
  next g hg =>
    rw [hg] at h
    exact if_neg (by rw [show s.folio.isLedger g = false from h]; exact Bool.false_ne_true)
  next => rfl

theorem tallyCheck_of_clean {s : State} {n : Nat} (h : sramBits s 12 0x2600 (n / 8) = 0) : tallyCheck s n = s := by
  unfold tallyCheck
  dsimp only
  rw [iodSram_of_clean h]
  rfl

theorem claim_of_none {s : State} {c : Nat} (h : s.best c = none) : claim s c = (0, s) := by
  unfold claim
  simp only [h]

/-- The state after a claim of source `n` at depth `d`. -/
def claimed (s : State) (c n d : Nat) : State :=
  (((ticPush s c d (s.runningPrio c) n).put (.TIC_CORE_STATE c) F.TIC_CORE_STATE_DEPTH (d + 1)).put (.TIC_CORE_STATE c)
    F.TIC_CORE_STATE_RUNNING (s.srcPrio n)).setTally n (s.tally n - 1)

theorem claim_of_best {s : State} {c n : Nat} (hb : s.best c = some n) (hs : sramBits s 12 0x2600 (n / 8) = 0) : claim s c =
    if s.runningPrio c < s.srcPrio n then
      (BitVec.ofNat 64 ((s.tally n - 1) * 2 ^ 24 + s.srcPrio n * 2 ^ 16 + n), claimed s c n (s.get (.TIC_CORE_STATE c) F.TIC_CORE_STATE_DEPTH))
    else (0, s) := by
  unfold claim
  simp only [hb, tallyCheck_of_clean hs]
  rfl

theorem exec_ticClaim_own {s : State} {c : Fin 384} (hr : s.runs c = true) (o : ClaimOp) :
    exec (.ticClaim c c o) s =
      .next (mgmtSend ((claim (voidInt s c) c).2.setX c o.rd (claim (voidInt s c) c).1) (0x10 + c / 24) 17) :=
  (if_neg (by rw [hr]; decide)).trans (if_pos rfl)

theorem exec_ticClaim_other {s : State} {who c : Fin 384} (hr : s.runs who = true) (hne : who ≠ c) (o : ClaimOp) :
    exec (.ticClaim who c o) s = if s.ledgerCore who then .next (ledgerAccess s who o.va)
      else .next (mgmtSend (s.setX who o.rd 0) (0x10 + who / 24) 17) :=
  (if_neg (by rw [hr]; decide)).trans (if_neg hne)

theorem key_ticCoreState (c : Nat) : (Reg.TIC_CORE_STATE c).key = 0xF00006200018 + c * 0x100 := by simp only [Reg.key]

theorem key_ticStack (c k : Nat) : (Reg.TIC_STACK c k).key = 0xF00006200040 + c * 0x100 + k * 8 := by simp only [Reg.key]

/-- A register beside the tallies and FLT_INJECT keeps its fields when a tally is set. -/
theorem get_setTally {r : Reg} {n : Nat} (h : r.key < 0xF00006110000 ∨ 0xF00006112000 ≤ r.key) (h2 : r.key ≠ 0xF00009000500) (hn : n < 8192) (s : State)
    (v : Nat) (f : Fld) : (s.setTally n v).get r f = s.get r f := by
  rw [State.setTally, State.get, rd_sramWrite_of_ne h2, ← State.get, State.get_put_ne (by rw [key_ticTally]; omega)]

section Claimed
variable (s : State) (c : Fin 384) {n d : Nat} (hn : n < 8192)

theorem sameUnits_claimed (n d : Nat) : sameUnits s (claimed s c n d) :=
  (((sameUnits_put ..).trans ((sameUnits_put ..).trans (sameUnits_put ..))).trans ((sameUnits_put ..).trans (sameUnits_put ..))).trans
    (sameUnits_setTally ..)

include hn

theorem tally_claimed : (claimed s c n d).tally n = s.tally n - 1 := by
  have h := tally_lt s n
  exact tally_setTally_self hn (by omega) _

theorem running_claimed : (claimed s c n d).runningPrio c = s.srcPrio n := by
  have hk := key_ticCoreState c
  have hp : s.srcPrio n < 16 := s.get_lt (.TIC_ROUTE_ACT n) F.TIC_ROUTE_PRIORITY
  rw [State.runningPrio, claimed, get_setTally (by omega) (by omega) hn, State.get_put_self (by decide) (by decide)]
  exact Nat.mod_eq_of_lt hp

theorem depth_claimed (hd : d < 16) : (claimed s c n d).get (.TIC_CORE_STATE c) F.TIC_CORE_STATE_DEPTH = d + 1 := by
  have hk := key_ticCoreState c
  rw [claimed, get_setTally (by omega) (by omega) hn, State.get_put_apart (by decide) (by decide) (by decide),
    State.get_put_self (by decide) (by decide)]
  exact Nat.mod_eq_of_lt (show d + 1 < 2 ^ 5 by omega)

theorem stack_claimed (hd : d < 16) (f : Fld) :
    (claimed s c n d).get (.TIC_STACK c (d / 2)) f = (ticPush s c d (s.runningPrio c) n).get (.TIC_STACK c (d / 2)) f := by
  have hk := key_ticStack c (d / 2)
  have hne : (Reg.TIC_STACK c (d / 2)).key ≠ (Reg.TIC_CORE_STATE c).key := by
    rw [key_ticCoreState]
    omega
  rw [claimed, get_setTally (by omega) (by omega) hn, State.get_put_ne hne, State.get_put_ne hne]

theorem source_claimed (hd : d < 16) : (claimed s c n d).get (.TIC_STACK c (d / 2)) (F.TIC_STACK_SOURCE (d % 2)) = n := by
  have hw : (F.TIC_STACK_SOURCE (d % 2)).hi - (F.TIC_STACK_SOURCE (d % 2)).lo + 1 = 13 := by dsimp only; omega
  rw [stack_claimed s c hn hd, ticPush, State.get_put_self (by dsimp only; omega) (by dsimp only; omega), hw]
  exact Nat.mod_eq_of_lt hn

theorem saved_claimed (hd : d < 16) : (claimed s c n d).get (.TIC_STACK c (d / 2)) (F.TIC_STACK_SAVED (d % 2)) = s.runningPrio c := by
  have hw : (F.TIC_STACK_SAVED (d % 2)).hi - (F.TIC_STACK_SAVED (d % 2)).lo + 1 = 4 := by dsimp only; omega
  have hp : s.runningPrio c < 16 := s.get_lt (.TIC_CORE_STATE c) F.TIC_CORE_STATE_RUNNING
  rw [stack_claimed s c hn hd, ticPush, State.get_put_apart (by dsimp only; omega) (by dsimp only; omega) (by dsimp only; omega),
    State.get_put_self (by dsimp only; omega) (by dsimp only; omega), hw]
  exact Nat.mod_eq_of_lt hp

end Claimed

/-! ### The registers and the points after an X register and a management message -/

theorem onlyCore_setX (s : State) (c r : Nat) (w : Word) : s.setX c r w = { s with cores := (s.setX c r w).cores } := by
  unfold State.setX
  split <;> rfl

theorem xreg_setX_self (s : State) (c r : Nat) (w : Word) : (s.setX c r w).xreg c r = if r = 0 then 0 else w := by
  unfold State.xreg
  refine ite_congr rfl (fun _ => rfl) fun h => ?_
  rw [State.setX, if_neg h, State.core_setCore_self]
  exact NMap.getD_set_self ..

theorem pc_setX (s : State) (c r : Nat) (w : Word) : ((s.setX c r w).core c).pc = (s.core c).pc := by
  unfold State.setX
  split
  · rfl
  · rw [State.core_setCore_self]

theorem coresBut_setX (s : State) (c r : Nat) (w : Word) : coresBut s (s.setX c r w) [c] := fun d hd => by
  unfold State.setX
  split
  · rfl
  · exact State.core_setCore_ne _ _ _ _ (by simpa using hd)

theorem mgmtSend_eq (s : State) (p q : Nat) : mgmtSend s p q = { s with points := (mgmtSend s p q).points } := rfl

/-- The points after a management message depend on the points and the cycle alone. -/
theorem points_mgmtSend {s t : State} (hp : t.points = s.points) (hc : t.cycle = s.cycle) (p q : Nat) :
    (mgmtSend t p q).points = (mgmtSend s p q).points := by
  unfold mgmtSend State.send State.setPoint State.point
  dsimp only
  rw [hp, hc]

theorem ticClaim_spec {c : Fin 384} {rd : Fin 32} {va : Word} {s : State} {n : Nat} (hr : s.runs c = true) (ho : s.ledgerCore c = false)
    (hb : s.best c = some n) (hn : n < 8192) (hs : sramBits s 12 0x2600 (n / 8) = 0) (hp : s.runningPrio c < s.srcPrio n)
    (hd : s.get (.TIC_CORE_STATE c) F.TIC_CORE_STATE_DEPTH < 16) :
    ∃ t, exec (.ticClaim c c ⟨rd, va⟩) s = .next t ∧
      t.xreg c rd = (if rd = 0 then 0 else BitVec.ofNat 64 ((s.tally n - 1) * 2 ^ 24 + s.srcPrio n * 2 ^ 16 + n)) ∧ t.tally n = s.tally n - 1 ∧
      t.runningPrio c = s.srcPrio n ∧
      t.get (.TIC_CORE_STATE c) F.TIC_CORE_STATE_DEPTH = s.get (.TIC_CORE_STATE c) F.TIC_CORE_STATE_DEPTH + 1 ∧
      (let d := s.get (.TIC_CORE_STATE c) F.TIC_CORE_STATE_DEPTH
       t.get (.TIC_STACK c (d / 2)) (F.TIC_STACK_SOURCE (d % 2)) = n ∧
       t.get (.TIC_STACK c (d / 2)) (F.TIC_STACK_SAVED (d % 2)) = s.runningPrio c) ∧
      (t.core c).pc = (s.core c).pc ∧ coresBut s t [c.val] ∧ t.points = (mgmtSend s (0x10 + c / 24) 17).points ∧
      t = { s with regs := t.regs, cores := t.cores, flips := t.flips, points := t.points } := by
  generalize hD : s.get (.TIC_CORE_STATE c) F.TIC_CORE_STATE_DEPTH = d at hd ⊢
  generalize hw : BitVec.ofNat 64 ((s.tally n - 1) * 2 ^ 24 + s.srcPrio n * 2 ^ 16 + n) = w
  have hcl : claim s c = (w, claimed s c n d) := by rw [claim_of_best hb hs, if_pos hp, hw, hD]
  have hx : exec (.ticClaim c c ⟨rd, va⟩) s = .next (mgmtSend ((claimed s c n d).setX c rd w) (0x10 + c / 24) 17) := by
    rw [exec_ticClaim_own hr, voidInt_of_open ho, hcl]
  have hu := sameUnits_claimed s c n d
  have hX := onlyCore_setX (claimed s c n d) c rd w
  have hrd : ∀ r, (mgmtSend ((claimed s c n d).setX c rd w) (0x10 + c / 24) 17).rd r = (claimed s c n d).rd r := fun r => by
    rw [mgmtSend_eq, hX]
    rfl
  have hget : ∀ r f, (mgmtSend ((claimed s c n d).setX c rd w) (0x10 + c / 24) 17).get r f = (claimed s c n d).get r f := fun r f =>
    congrArg f.get (hrd r)
  refine ⟨_, hx, ?_, (hget _ _).trans (tally_claimed s c hn), (hget _ _).trans (running_claimed s c hn), (hget _ _).trans (depth_claimed s c hn hd),
    ⟨(hget _ _).trans (source_claimed s c hn hd), (hget _ _).trans (saved_claimed s c hn hd)⟩, ?_, fun e he => ?_, ?_, ?_⟩
  · refine (xreg_setX_self (claimed s c n d) c rd w).trans ?_
    simp only [Fin.val_eq_zero_iff]
  · refine (pc_setX (claimed s c n d) c rd w).trans ?_
    rw [hu]
    rfl
  · refine (coresBut_setX (claimed s c n d) c rd w e he).trans ?_
    rw [hu]
    rfl
  · exact points_mgmtSend (by rw [hX, hu]) (by rw [hX, hu]) ..
  · rw [mgmtSend_eq, hX, hu]

/-! ### The line reaches mip (R377, R382) -/

/-- mip with both bits of the external interrupt set from the line. -/
def lined (s : State) (c : Nat) : State :=
  setMip (setMip s c 11 (s.get (.TIC_CORE_CFG c) F.TIC_CORE_CFG_LEVEL == 0 && s.line c)) c 9
    ((s.get (.TIC_CORE_CFG c) F.TIC_CORE_CFG_LEVEL == 1 && s.line c) || (s.core c).seip)

/-- The core woken by its wake signal. -/
def woken (s u : State) (c : Nat) : State :=
  if s.wake c ∧ (u.core c).asleep then u.setCore c { u.core c with asleep := false } else u

theorem getLsbD_setBit_self (w : Word) {i : Nat} (hi : i < 64) (b : Bool) : (setBit w i b).getLsbD i = b := by
  have h2 : (BitVec.ofNat 64 (2 ^ i)).getLsbD i = true := by rw [BitVec.getLsbD_ofNat, Nat.testBit_two_pow_self, decide_eq_true hi]; rfl
  unfold setBit
  cases b with
  | true => rw [if_pos rfl, BitVec.getLsbD_or, h2, Bool.or_true]
  | false => rw [if_neg (by decide), BitVec.getLsbD_and, BitVec.getLsbD_not, h2]; simp

theorem getLsbD_setBit_ne (w : Word) {i j : Nat} (h : j ≠ i) (hj : j < 64) (b : Bool) : (setBit w i b).getLsbD j = w.getLsbD j := by
  have h2 : (BitVec.ofNat 64 (2 ^ i)).getLsbD j = false := by
    rw [BitVec.getLsbD_ofNat, Nat.testBit_two_pow, decide_eq_false (Ne.symm h), Bool.and_false]
  unfold setBit
  cases b with
  | true => rw [if_pos rfl, BitVec.getLsbD_or, h2, Bool.or_false]
  | false => rw [if_neg (by decide), BitVec.getLsbD_and, BitVec.getLsbD_not, h2]; simp [hj]

theorem mip_lined (s : State) (c : Nat) :
    ((lined s c).csr c 0x344).getLsbD 11 = (s.get (.TIC_CORE_CFG c) F.TIC_CORE_CFG_LEVEL == 0 && s.line c) ∧
      ((lined s c).csr c 0x344).getLsbD 9 = ((s.get (.TIC_CORE_CFG c) F.TIC_CORE_CFG_LEVEL == 1 && s.line c) || (s.core c).seip) := by
  unfold lined setMip
  rw [csr_setCsr_self, csr_setCsr_self]
  exact ⟨(getLsbD_setBit_ne _ (by decide) (by decide) _).trans (getLsbD_setBit_self _ (by decide) _), getLsbD_setBit_self _ (by decide) _⟩

theorem woken_spec (s : State) {u : State} {c : Nat} (hu : u.core c = s.core c) :
    (woken s u c).core c = { s.core c with asleep := (s.core c).asleep && !s.wake c } ∧ coresBut u (woken s u c) [c] ∧
      woken s u c = { u with cores := (woken s u c).cores } := by
  unfold woken
  split
  next h =>
    refine ⟨?_, fun d hd => State.core_setCore_ne _ _ _ _ (by simpa using hd), rfl⟩
    rw [State.core_setCore_self, hu, h.1]
    simp
  next h =>
    refine ⟨?_, fun _ _ => rfl, rfl⟩
    rw [hu] at h ⊢
    have ha : ((s.core c).asleep && !s.wake c) = (s.core c).asleep := by
      cases hw : s.wake c <;> cases hk : (s.core c).asleep <;> simp_all
    rw [ha]

theorem lineDeliver_spec {c : Fin 384} {s : State} (ho : s.ledgerCore c = false) :
    ∃ t, exec (.tallyLineDeliver c) s = .next (if t.runs c then takeInterrupt t c else t) ∧
      (t.csr c 0x344).getLsbD 11 = (s.get (.TIC_CORE_CFG c) F.TIC_CORE_CFG_LEVEL == 0 && s.line c) ∧
      (t.csr c 0x344).getLsbD 9 = ((s.get (.TIC_CORE_CFG c) F.TIC_CORE_CFG_LEVEL == 1 && s.line c) || (s.core c).seip) ∧
      t.core c = { s.core c with asleep := (s.core c).asleep && !s.wake c } ∧ coresBut s t [c.val] ∧
      t.points = (mgmtSend s (0x10 + c / 24) 16).points ∧ regsBut s t [.CSR c 0x344] ∧
      t = { s with regs := t.regs, cores := t.cores, points := t.points } := by
  obtain ⟨hk, hc, he⟩ := woken_spec s (u := lined s c) (c := c) rfl
  obtain ⟨h11, h9⟩ := mip_lined s c
  have hregs : regsBut s (lined s c) [.CSR c 0x344] := fun r hr => by
    have hr' := hr _ List.mem_cons_self
    exact (State.rd_wr_ne _ _ _ _ hr').trans (State.rd_wr_ne _ _ _ _ hr')
  have hx : exec (.tallyLineDeliver c) s = .next (if (mgmtSend (woken s (lined s c) c) (0x10 + c / 24) 16).runs c then
      takeInterrupt (mgmtSend (woken s (lined s c) c) (0x10 + c / 24) 16) c else mgmtSend (woken s (lined s c) c) (0x10 + c / 24) 16) :=
    if_neg (by rw [ho]; decide)
  generalize woken s (lined s c) c = v at hk hc he hx
  have hrd : ∀ r, (mgmtSend v (0x10 + c / 24) 16).rd r = (lined s c).rd r := fun r => by
    rw [mgmtSend_eq, he]
    rfl
  have hcsr : (mgmtSend v (0x10 + c / 24) 16).csr c 0x344 = (lined s c).csr c 0x344 := hrd _
  refine ⟨_, hx, by rw [hcsr]; exact h11, by rw [hcsr]; exact h9, hk, hc, ?_, fun r hr => (hrd r).trans (hregs r hr), ?_⟩
  · exact points_mgmtSend (by rw [he]; rfl) (by rw [he]; rfl) ..
  · rw [mgmtSend_eq, he]
    rfl

/-- Settles O46: arrivals by the tally they raise, claims by their cases, and the line by the bits of mip that it sets. -/
theorem tallyClaims : Obligations.TallyClaims := by
  refine ⟨fun n s hex => ⟨tally_arrive hex, fun h => ⟨?_, ?_⟩, fun m hm hne => tally_arrive_ne hm hne s⟩,
    fun c rd va s n hr ho hb hn hs hp hd => ticClaim_spec hr ho hb hn hs hp hd, fun c rd va s hr => ⟨fun _ => exec_ticClaim_own hr _, fun ho hn => ?_⟩,
    fun who c rd va s hne => ⟨fun hr ho => ?_, fun hr ho => ?_, fun hr => if_pos (by rw [hr]; rfl)⟩,
    fun c s ho => lineDeliver_spec ho, fun c s ho => if_pos ho⟩
  · rw [tally_arrive_self hex, h]
    rfl
  · rw [State.arrive, if_neg (by simp [hex]), if_neg (by rw [h]; decide), State.rd_wr_self, BitVec.getLsbD_or, BitVec.getLsbD_ofNat,
      Nat.testBit_two_pow_self]
    simp [Nat.mod_lt]
  · rw [exec_ticClaim_own hr, voidInt_of_open ho]
    cases hb : s.best c with
    | none => rw [claim_of_none hb]
    | some n =>
      obtain ⟨hs, hp⟩ := hn n hb
      rw [claim_of_best hb hs, if_neg (Nat.not_lt.mpr hp)]
  · rw [exec_ticClaim_other hr hne, ho]
    rfl
  · rw [exec_ticClaim_other hr hne, ho]
    rfl

end Sys2Proof.Machine
end

section
/-! SUPPORT. Queues of call slips: the write of QP_CTL, doorbells, and idle states (R343, R344, R359, R360, R367 to R371). -/

namespace Sys2Proof.Machine

/-! ### The registers of a queue -/

theorem key_qpSqTail (f q : Nat) : (Reg.QP_SQ_TAIL f q).key = 0x100000000000000 + f * 0x10000 + q * 0x200 + 16 := by simp only [Reg.key]

theorem key_qpCqHead (f q : Nat) : (Reg.QP_CQ_HEAD f q).key = 0x100000000000000 + f * 0x10000 + q * 0x200 + 20 := by simp only [Reg.key]

theorem key_qpCtl (f q : Nat) : (Reg.QP_CTL f q).key = 0x100000000000000 + f * 0x10000 + q * 0x200 + 24 := by simp only [Reg.key]

theorem key_qpLog (f q k : Nat) : (Reg.QP_LOG f q k).key = 0x100000000000000 + f * 0x10000 + q * 0x200 + 0x100 + k * 8 := by simp only [Reg.key]

theorem qState_lt (s : State) (f : FnId) (q : Nat) : qState s f q < 4 := State.get_lt ..

/-- The state after the write of QP_CTL itself. -/
def ctlWritten (s : State) (f : FnId) (q : Nat) (v : BitVec 32) : State :=
  s.wr (.QP_CTL f.key q) ((Reg.QP_CTL f.key q).written (s.rd (.QP_CTL f.key q)) (v.zeroExtend 64))

section Rings
variable (s : State) (f : FnId) (q : Nat)

theorem qState_setQState {n : Nat} (hn : n < 4) : qState (setQState s f q n) f q = n :=
  (State.get_put_self (by decide) (by decide) ..).trans (Nat.mod_eq_of_lt hn)

theorem sqHead_setQState (n : Nat) : sqHead (setQState s f q n) f q = sqHead s f q :=
  State.get_put_apart (by decide) (by decide) (by decide) ..

theorem cqTail_setQState (n : Nat) : cqTail (setQState s f q n) f q = cqTail s f q :=
  State.get_put_apart (by decide) (by decide) (by decide) ..

/-- A register beside QP_STATE keeps its word when the state of a queue is set. -/
theorem rd_setQState {r : Reg} (h : r.key ≠ (Reg.QP_STATE f.key q).key) (n : Nat) : (setQState s f q n).rd r = s.rd r :=
  State.rd_put_ne h ..

theorem sqTail_setQState (n : Nat) : sqTail (setQState s f q n) f q = sqTail s f q :=
  State.get_put_ne (by rw [key_qpSqTail, key_qpState]; omega) ..

theorem cqHead_setQState (n : Nat) : cqHead (setQState s f q n) f q = cqHead s f q :=
  State.get_put_ne (by rw [key_qpCqHead, key_qpState]; omega) ..

theorem logCount_setQState (n : Nat) : logCount (setQState s f q n) f q = logCount s f q :=
  congrArg (fun w : Word => w.toNat % 2 ^ 32) (rd_setQState s f q (by rw [key_qpLog, key_qpState]; omega) n)

theorem queue_setQState (n : Nat) (g : FnId) (k : Nat) : (setQState s f q n).queue g k = s.queue g k := rfl

theorem queue_clearCount (g : FnId) (k : Nat) : (clearCount s f q).queue g k = s.queue g k := rfl

theorem queue_ctlWritten (v : BitVec 32) (g : FnId) (k : Nat) : (ctlWritten s f q v).queue g k = s.queue g k := rfl

theorem rd_clearCount {r : Reg} (h : r.key ≠ (Reg.QP_LOG f.key q 5).key) : (clearCount s f q).rd r = s.rd r :=
  State.rd_wr_ne _ _ _ _ h

theorem logCount_clearCount : logCount (clearCount s f q) f q = 0 :=
  congrArg (fun w : Word => w.toNat % 2 ^ 32) (State.rd_wr_self ..)

theorem sqHead_clearCount : sqHead (clearCount s f q) f q = sqHead s f q :=
  State.get_wr_ne (by rw [key_qpState, key_qpLog]; omega) ..

theorem cqTail_clearCount : cqTail (clearCount s f q) f q = cqTail s f q :=
  State.get_wr_ne (by rw [key_qpState, key_qpLog]; omega) ..

theorem sqTail_clearCount : sqTail (clearCount s f q) f q = sqTail s f q :=
  State.get_wr_ne (by rw [key_qpSqTail, key_qpLog]; omega) ..

theorem cqHead_clearCount : cqHead (clearCount s f q) f q = cqHead s f q :=
  State.get_wr_ne (by rw [key_qpCqHead, key_qpLog]; omega) ..

end Rings

/-- A reset of a ring puts its four indices to zero and changes registers and the queue alone. -/
theorem ringReset_spec (s : State) (f : FnId) (q : Nat) :
    sqHead (ringReset s f q) f q = 0 ∧ cqTail (ringReset s f q) f q = 0 ∧ sqTail (ringReset s f q) f q = 0 ∧ cqHead (ringReset s f q) f q = 0 ∧
      ringReset s f q = ({ s with regs := (ringReset s f q).regs }).setQueue f q { s.queue f q with phase := true } := by
  have hst : (Reg.QP_STATE f.key q).key ≠ (Reg.QP_SQ_TAIL f.key q).key := by rw [key_qpState, key_qpSqTail]; omega
  have hsc : (Reg.QP_STATE f.key q).key ≠ (Reg.QP_CQ_HEAD f.key q).key := by rw [key_qpState, key_qpCqHead]; omega
  have htc : (Reg.QP_SQ_TAIL f.key q).key ≠ (Reg.QP_CQ_HEAD f.key q).key := by rw [key_qpSqTail, key_qpCqHead]; omega
  refine ⟨?_, ?_, ?_, ?_, rfl⟩
  · refine (State.get_put_ne hsc ..).trans ((State.get_put_ne hst ..).trans ((State.get_put_apart (by decide) (by decide) (by decide) ..).trans ?_))
    exact State.get_put_self (by decide) (by decide) ..
  · refine (State.get_put_ne hsc ..).trans ((State.get_put_ne hst ..).trans ?_)
    exact State.get_put_self (by decide) (by decide) ..
  · exact (State.get_put_ne htc ..).trans (State.get_put_self (by decide) (by decide) ..)
  · exact State.get_put_self (by decide) (by decide) ..

/-! ### Reads and vectors of a function -/

/-- A state that differs from another one in what ports, functions and messages out hold alone. -/
def portsOnly (s t : State) : Prop := t = { s with ports := t.ports, fns := t.fns, out := t.out, events := t.events }

theorem portsOnly_refl (s : State) : portsOnly s s := rfl

theorem portsOnly.trans {s t u : State} (h : portsOnly s t) (h' : portsOnly t u) : portsOnly s u := by
  rw [portsOnly] at *; rw [h', h]

theorem portsOnly.rd {s t : State} (h : portsOnly s t) (r : Reg) : t.rd r = s.rd r := by rw [h]; rfl

theorem portsOnly.queue {s t : State} (h : portsOnly s t) (f : FnId) (q : Nat) : t.queue f q = s.queue f q := by rw [h]; rfl

theorem portsOnly_setPort (s : State) (p : Nat) (x : Port) : portsOnly s (s.setPort p x) := rfl

theorem portsOnly_setFn (s : State) (f : FnId) (x : Fn) : portsOnly s (s.setFn f x) := rfl

theorem portsOnly_sendTlp (s : State) (p : Nat) (o : Outward) : portsOnly s (sendTlp s p o) := by
  unfold sendTlp
  dsimp only
  split
  · rfl
  · split <;> rfl

theorem portsOnly_withIntx {s : State} {p : Fin 8} {act : State → State} (h : portsOnly s (act s)) : portsOnly s (withIntx s p act) := by
  unfold withIntx
  dsimp only
  split
  · exact h
  · exact h.trans (portsOnly_sendTlp ..)

theorem portsOnly_signal (s : State) (f : FnId) (v : Nat) : portsOnly s (signal s f v) := by
  unfold signal
  dsimp only
  split
  · exact portsOnly_sendTlp ..
  · exact portsOnly_withIntx (portsOnly_setFn ..)

theorem portsOnly_signalError (s : State) (f : FnId) : portsOnly s (signalError s f) := portsOnly_signal ..

theorem portsOnly_issueRead1 (s : State) (f : FnId) (addr len : Nat) (use : ReadFor) : portsOnly s (issueRead1 s f addr len use).2 := by
  unfold issueRead1
  dsimp only
  split
  · rfl
  · split
    · rfl
    · exact (portsOnly_setPort ..).trans (portsOnly_sendTlp ..)

theorem portsOnly_of_issueRead1 {s u : State} {f : FnId} {addr len k : Nat} {use : ReadFor} (h : issueRead1 s f addr len use = (k, u)) :
    portsOnly s u := by
  have hp := portsOnly_issueRead1 s f addr len use
  rwa [h] at hp

theorem issueRead1_empty (s : State) (f : FnId) (addr : Nat) (use : ReadFor) : issueRead1 s f addr 0 use = (0, s) :=
  if_pos (Or.inr (Or.inr (Nat.zero_min _)))

/-- A fetch leaves every register, and of the queues the number of slips asked for alone. -/
theorem startFetch_spec (s : State) (f : FnId) (q : Nat) :
    (∀ r, (startFetch s f q).rd r = s.rd r) ∧ ∃ n, (startFetch s f q).queue f q = { s.queue f q with fetching := n } := by
  unfold startFetch
  dsimp only
  split
  · exact ⟨fun _ => rfl, _, rfl⟩
  · split
    next u hu =>
      have h : portsOnly s u := portsOnly_of_issueRead1 hu
      exact ⟨h.rd, _, h.queue f q⟩
    next k u _ hu =>
      have h : portsOnly s u := portsOnly_of_issueRead1 hu
      exact ⟨fun r => (State.rd_setQueue ..).trans (h.rd r), k / 64, by rw [State.queue_setQueue_self, h.queue]⟩

/-- With an empty ring nothing is fetched. -/
theorem startFetch_of_empty {s : State} {f : FnId} {q : Nat} (ht : sqTail s f q = 0) (hh : sqHead s f q = 0) : startFetch s f q = s := by
  unfold startFetch
  dsimp only
  split
  · rfl
  · have hn : (sqTail s f q + depthOf s f - sqHead s f q) % depthOf s f = 0 := by rw [ht, hh]; simp
    simp only [hn, Nat.min_zero, Nat.zero_min, Nat.mul_zero, issueRead1_empty]

/-! ### Discarding what was fetched -/

theorem sameUnits_moveHead (s : State) (f : FnId) (q n : Nat) (b : Bool) : sameUnits s (moveHead s f q n b) :=
  (sameUnits_put ..).trans (sameUnits_sramWrite ..)

theorem qpKey_ne_inject {r : Reg} (h : 0x100000000000000 ≤ r.key) : r.key ≠ 0xF00009000500 := by omega

section Discard
variable (s : State) (f : FnId) (q : Nat)

theorem rd_moveHead {r : Reg} (hr : 0x100000000000000 ≤ r.key) (h : r.key ≠ (Reg.QP_STATE f.key q).key) (n : Nat) (b : Bool) :
    (moveHead s f q n b).rd r = s.rd r :=
  (rd_sramWrite_of_ne (qpKey_ne_inject hr) ..).trans (State.rd_put_ne h ..)

theorem qState_moveHead (n : Nat) (b : Bool) : qState (moveHead s f q n b) f q = qState s f q := by
  rw [qState, State.get, moveHead, rd_sramWrite_of_ne (by rw [key_qpState]; omega)]
  exact State.get_put_apart (by decide) (by decide) (by decide) ..

theorem rd_discardFetched {r : Reg} (hr : 0x100000000000000 ≤ r.key) (h : r.key ≠ (Reg.QP_STATE f.key q).key) :
    (discardFetched s f q).rd r = s.rd r :=
  rd_moveHead s f q hr h _ true

theorem qState_discardFetched : qState (discardFetched s f q) f q = qState s f q := qState_moveHead ..

theorem queue_discardFetched : (discardFetched s f q).queue f q = { s.queue f q with fetched := [], fetching := 0 } :=
  State.queue_setQueue_self ..

theorem out_discardFetched : (discardFetched s f q).out = s.out := by
  show (moveHead s f q _ true).out = s.out
  rw [sameUnits_moveHead]

theorem queuesBut_discardFetched : queuesBut s (discardFetched s f q) [(f, q)] := by
  intro g k h
  refine (State.queue_setQueue_ne _ _ _ _ _ _ (h _ (List.mem_singleton_self _))).trans ?_
  rw [sameUnits_moveHead]
  rfl

end Discard

/-! ### Enabling, disabling and restarting -/

section Control
variable {f : FnId} {q : Fin 16} {v : BitVec 32} {s : State} (hq : hasQueue s f q = true)
include hq

omit hq in
theorem qState_ctlWritten : qState (ctlWritten s f q v) f q = qState s f q :=
  State.get_wr_ne (by rw [key_qpState, key_qpCtl]; omega) ..

theorem qpCtl_enable (hv : v.getLsbD 0 = true) (h0 : qState s f q = 0) : ∃ u, (u = ringReset (ctlWritten s f q v) f q) ∧ qpCtl s f q v =
    startFetch (setQState (clearCount (u.setQueue f q
      { Queue.init with seq := (u.queue f q).seq, past := (u.queue f q).past, ended := (u.queue f q).ended }) f q) f q 1) f q := by
  refine ⟨_, rfl, ?_⟩
  exact (if_neg (by rw [hq]; decide)).trans (if_pos ⟨hv, h0⟩)

theorem qpCtl_disable_running (hv : v.getLsbD 0 = false) (he : s.bit (.QP_CTL f.key q) F.QP_CTL_ENABLE = true) (h1 : qState s f q = 1) :
    qpCtl s f q v = if spent (discardFetched (ctlWritten s f q v) f q) f q then disableQueue (discardFetched (ctlWritten s f q v) f q) f q
      else setQState (discardFetched (ctlWritten s f q v) f q) f q 3 := by
  have hv' : ¬ v.getLsbD 0 = true := by rw [hv]; decide
  exact (if_neg (by rw [hq]; decide)).trans ((if_neg fun h => hv' h.1).trans (if_pos ⟨hv', he, h1⟩))

theorem qpCtl_disable_frozen (hv : v.getLsbD 0 = false) (he : s.bit (.QP_CTL f.key q) F.QP_CTL_ENABLE = true) (h2 : qState s f q = 2) :
    qpCtl s f q v = if queueBusy s f q then
        setQState ((ctlWritten s f q v).setQueue f q { s.queue f q with froze := true }) f q 3
      else disableQueue (ctlWritten s f q v) f q := by
  have hv' : ¬ v.getLsbD 0 = true := by rw [hv]; decide
  refine (if_neg (by rw [hq]; decide)).trans ((if_neg fun h => hv' h.1).trans ((if_neg fun h => ?_).trans (if_pos ⟨hv', he, h2⟩)))
  have := h.2.2
  omega

theorem qpCtl_restart (hv0 : v.getLsbD 0 = true) (hv1 : v.getLsbD 1 = true) (h2 : qState s f q = 2) (hb : (s.queue f q).running = []) :
    qpCtl s f q v = startFetch (setQState (clearCount
      (if v.getLsbD 2 then ringReset (ctlWritten s f q v) f q else ctlWritten s f q v) f q) f q 1) f q := by
  refine (if_neg (by rw [hq]; decide)).trans ((if_neg fun h => ?_).trans ((if_neg fun h => h.1 hv0).trans ((if_neg fun h => h.1 hv0).trans
    (if_pos ⟨hv1, h2, ?_⟩))))
  · have := h.2
    omega
  · show ¬ (!((s.queue f q).running).isEmpty) = true
    rw [hb]
    decide

theorem queueEnable_spec (hv : v.getLsbD 0 = true) (h0 : qState s f q = 0) : ∃ t, exec (.queueEnable f q v) s = .next t ∧ qState t f q = 1 ∧
    sqHead t f q = 0 ∧ cqTail t f q = 0 ∧ sqTail t f q = 0 ∧ cqHead t f q = 0 ∧ logCount t f q = 0 ∧
      t.queue f q = { Queue.init with seq := (s.queue f q).seq, past := (s.queue f q).past, ended := (s.queue f q).ended } ∧
      queuesBut s t [(f, q)] ∧ t = { s with regs := t.regs, queues := t.queues } := by
  obtain ⟨u, hu, he⟩ := qpCtl_enable hq hv h0
  obtain ⟨hh, hc, ht, hd, hs⟩ := ringReset_spec (ctlWritten s f q v) f q
  rw [← hu] at hh hc ht hd hs
  refine ⟨_, rfl, ?_⟩
  rw [he]
  have hqs : ∀ r, (u.setQueue f q { Queue.init with seq := (u.queue f q).seq, past := (u.queue f q).past, ended := (u.queue f q).ended }).rd r =
    u.rd r := fun _ => State.rd_setQueue ..
  have hx : u.queue f q = { s.queue f q with phase := true } := by rw [hs, State.queue_setQueue_self]; rfl
  generalize hw : u.setQueue f q { Queue.init with seq := (u.queue f q).seq, past := (u.queue f q).past, ended := (u.queue f q).ended } = w at hqs
  have hwh : sqHead w f q = 0 := (congrArg _ (hqs _)).trans hh
  have hwc : cqTail w f q = 0 := (congrArg _ (hqs _)).trans hc
  have hwt : sqTail w f q = 0 := (congrArg _ (hqs _)).trans ht
  have hwd : cqHead w f q = 0 := (congrArg _ (hqs _)).trans hd
  rw [startFetch_of_empty (by rw [sqTail_setQState, sqTail_clearCount, hwt]) (by rw [sqHead_setQState, sqHead_clearCount, hwh])]
  refine ⟨qState_setQState _ _ _ (by decide), by rw [sqHead_setQState, sqHead_clearCount, hwh], by rw [cqTail_setQState, cqTail_clearCount, hwc],
    by rw [sqTail_setQState, sqTail_clearCount, hwt], by rw [cqHead_setQState, cqHead_clearCount, hwd],
    by rw [logCount_setQState, logCount_clearCount], ?_, ?_, ?_⟩
  · show w.queue f q = _
    rw [← hw, State.queue_setQueue_self, hx]
  · intro g k hne
    show w.queue g k = _
    have hne := hne _ (List.mem_singleton_self _)
    rw [← hw, State.queue_setQueue_ne _ _ _ _ _ _ hne, hs, State.queue_setQueue_ne _ _ _ _ _ _ hne]
    rfl
  · rw [← hw, hs]
    rfl

omit hq in
theorem spent_iff : spent s f q = true ↔ (s.queue f q).running = [] ∧ (s.queue f q).ended = [] := by
  rw [spent, Bool.and_eq_true, List.isEmpty_iff, List.isEmpty_iff]

omit hq in
/-- A disabled queue keeps its slips. -/
theorem disableQueue_spec (s : State) : qState (disableQueue s f q) f q = 0 ∧
    (disableQueue s f q).queue f q = { s.queue f q with deferred := [], defLost := false } ∧ queuesBut s (disableQueue s f q) [(f, q)] ∧
      disableQueue s f q = { s with regs := (disableQueue s f q).regs, queues := (disableQueue s f q).queues } := by
  have hd : disableQueue s f q = setQState (s.setQueue f q { s.queue f q with deferred := [], defLost := false }) f q 0 := rfl
  generalize hw : s.setQueue f q { s.queue f q with deferred := [], defLost := false } = w at hd
  refine ⟨by rw [hd, qState_setQState _ _ _ (by decide)], ?_, fun g k h => ?_, by rw [hd, ← hw]; rfl⟩
  · rw [hd, queue_setQState, ← hw, State.queue_setQueue_self]
  · rw [hd, queue_setQState, ← hw, State.queue_setQueue_ne _ _ _ _ _ _ (h _ (List.mem_singleton_self _))]

theorem queueDisable_running (hv : v.getLsbD 0 = false) (he : s.bit (.QP_CTL f.key q) F.QP_CTL_ENABLE = true) (h1 : qState s f q = 1)
    (hn : (s.queue f q).ended = []) : ∃ t, exec (.queueDisable f q v) s = .next t ∧ (t.queue f q).fetched = [] ∧
      qState t f q = (if (s.queue f q).running = [] then 0 else 3) ∧ (t.queue f q).running = (s.queue f q).running ∧ t.out = s.out ∧
      queuesBut s t [(f, q)] := by
  refine ⟨_, rfl, ?_⟩
  rw [qpCtl_disable_running hq hv he h1]
  have hx := queue_discardFetched (ctlWritten s f q v) f q
  have ho := out_discardFetched (ctlWritten s f q v) f q
  have hb : queuesBut s _ _ := queuesBut_discardFetched (ctlWritten s f q v) f q
  generalize discardFetched (ctlWritten s f q v) f q = u at hx ho hb
  have hr : (u.queue f q).running = (s.queue f q).running := by rw [hx]; rfl
  by_cases h : (s.queue f q).running = []
  · have hs : spent u f q = true := spent_iff.mpr ⟨hr.trans h, by rw [hx]; exact hn⟩
    obtain ⟨d0, dq, db, ds⟩ := disableQueue_spec (f := f) (q := q) u
    rw [if_pos hs, if_pos h]
    refine ⟨by rw [dq, hx], d0, by rw [dq, hx]; rfl, by rw [ds]; exact ho, fun g k hg => (db g k hg).trans (hb g k hg)⟩
  · have hs : ¬ spent u f q = true := fun hc => h (hr ▸ (spent_iff.mp hc).1)
    rw [if_neg hs, if_neg h]
    exact ⟨by rw [show (setQState u f q 3).queue f q = u.queue f q from rfl, hx], qState_setQState _ _ _ (by decide), hr, ho, hb⟩

theorem queueDisable_frozen (hv : v.getLsbD 0 = false) (he : s.bit (.QP_CTL f.key q) F.QP_CTL_ENABLE = true) (h2 : qState s f q = 2) :
    ∃ t, exec (.queueDisable f q v) s = .next t ∧ qState t f q = (if (s.queue f q).running = [] then 0 else 3) ∧
      (t.queue f q).running = (s.queue f q).running ∧ (t.queue f q).ended = (s.queue f q).ended ∧ queuesBut s t [(f, q)] ∧
      t = { s with regs := t.regs, queues := t.queues } := by
  refine ⟨_, rfl, ?_⟩
  rw [qpCtl_disable_frozen hq hv he h2]
  by_cases h : (s.queue f q).running = []
  · have hb : ¬ queueBusy s f q = true := by rw [queueBusy, h]; decide
    obtain ⟨d0, dq, db, ds⟩ := disableQueue_spec (f := f) (q := q) (ctlWritten s f q v)
    rw [if_neg hb, if_pos h]
    exact ⟨d0, by rw [dq]; rfl, by rw [dq]; rfl, db, by rw [ds]; rfl⟩
  · have hb : queueBusy s f q = true := by
      rw [queueBusy, Bool.not_eq_true', List.isEmpty_eq_false_iff]
      exact h
    rw [if_pos hb, if_neg h]
    generalize hw : (ctlWritten s f q v).setQueue f q { s.queue f q with froze := true } = w
    have hwq : w.queue f q = { s.queue f q with froze := true } := by rw [← hw, State.queue_setQueue_self]
    refine ⟨qState_setQState _ _ _ (by decide), ?_, ?_, ?_, by rw [← hw]; rfl⟩
    · show (w.queue f q).running = _
      rw [hwq]
    · show (w.queue f q).ended = _
      rw [hwq]
    · intro g k hg
      show w.queue g k = _
      rw [← hw]
      exact (State.queue_setQueue_ne _ _ _ _ _ _ (hg _ (List.mem_singleton_self _))).trans (queue_ctlWritten ..)

theorem queueRestart_spec (hv1 : v.getLsbD 1 = true) (hv0 : v.getLsbD 0 = true) (h2 : qState s f q = 2) (hb : (s.queue f q).running = []) :
    ∃ t, exec (.queueRestart f q v) s = .next t ∧ qState t f q = 1 ∧ logCount t f q = 0 ∧
      (v.getLsbD 2 = true → sqHead t f q = 0 ∧ cqTail t f q = 0) ∧ (t.queue f q).running = [] := by
  refine ⟨_, rfl, ?_⟩
  rw [qpCtl_restart hq hv0 hv1 h2 hb]
  obtain ⟨hh, hc, -, -, hs⟩ := ringReset_spec (ctlWritten s f q v) f q
  generalize hu : (if v.getLsbD 2 then ringReset (ctlWritten s f q v) f q else ctlWritten s f q v) = u
  have hur : (u.queue f q).running = [] := by
    rw [← hu]
    split
    · rw [hs, State.queue_setQueue_self]
      exact hb
    · exact hb
  obtain ⟨hr, n, hn⟩ := startFetch_spec (setQState (clearCount u f q) f q 1) f q
  generalize startFetch (setQState (clearCount u f q) f q 1) f q = t at hr hn
  have hg : ∀ r g, t.get r g = (setQState (clearCount u f q) f q 1).get r g := fun r g => congrArg g.get (hr r)
  refine ⟨(hg ..).trans (qState_setQState _ _ _ (by decide)), ?_, fun h => ?_, ?_⟩
  · rw [logCount, hr]
    exact (logCount_setQState ..).trans (logCount_clearCount ..)
  · rw [if_pos h] at hu
    rw [hu] at hh hc
    refine ⟨(hg ..).trans ?_, (hg ..).trans ?_⟩
    · exact (sqHead_setQState ..).trans ((sqHead_clearCount ..).trans hh)
    · exact (cqTail_setQState ..).trans ((cqTail_clearCount ..).trans hc)
  · rw [hn]
    exact hur

end Control

/-! ### Doorbells -/

theorem qp_of_no_queue {f : FnId} {q : Fin 16} {s : State} (v : BitVec 32) (h : hasQueue s f q = false) :
    exec (.queueEnable f q v) s = .next s ∧ exec (.queueDisable f q v) s = .next s ∧ exec (.queueRestart f q v) s = .next s ∧
    exec (.sqTailDoorbell f q v) s = .next s ∧ exec (.cqHeadDoorbell f q v) s = .next s := by
  have hn : ¬ hasQueue s f q = true := by rw [h]; decide
  have hc : qpCtl s f q v = s := if_pos hn
  exact ⟨congrArg Host.Outcome.next hc, congrArg Host.Outcome.next hc, congrArg Host.Outcome.next hc, if_pos (Or.inl hn), if_pos (Or.inl hn)⟩

theorem slipTag_zero : State.slipTag 0 = 0 := by simp [State.slipTag]

theorem slipOpcode_zero : State.slipOpcode 0 = 0 := by simp [State.slipOpcode]

/-- An error that a queue logs: COUNT rises, the first one leaves its status, and of the queue's other registers none changes. -/
theorem logError_spec (s : State) (f : FnId) (q st kind : Nat) (bits : LineData) (index pkg done : Nat) :
    let t := logError s f q st kind bits index pkg done
    logCount t f q = min (logCount s f q + 1) 0xFFFFFFFF ∧
      (logCount s f q = 0 → (t.rd (.QP_LOG f.key q 0)) =
        BitVec.ofNat 64 (st + State.slipTag bits * 2 ^ 16 + State.slipOpcode bits * 2 ^ 32 + kind * 2 ^ 40 + index * 2 ^ 48)) ∧
      (∀ r : Reg, 0x100000000000000 ≤ r.key → (∀ k < 6, r.key ≠ (Reg.QP_LOG f.key q k).key) → t.rd r = s.rd r) := by
  have hk : ∀ j k, j ≠ k → (Reg.QP_LOG f.key q j).key ≠ (Reg.QP_LOG f.key q k).key := fun j k h => by
    rw [key_qpLog, key_qpLog]
    omega
  have hi : ∀ k, (Reg.QP_LOG f.key q k).key ≠ 0xF00009000500 := fun k => by rw [key_qpLog]; omega
  refine ⟨?_, fun h0 => ?_, fun r hr hne => ?_⟩
  · rw [logCount, logError, rd_sramWrite_of_ne (hi 5), State.rd_wr_self, BitVec.toNat_ofNat]
    omega
  · rw [logError, rd_sramWrite_of_ne (hi 0), State.rd_wr_ne _ _ _ _ (hk 0 5 (by decide)), if_pos (Or.inl h0)]
    dsimp only
    rw [State.rd_wr_ne _ _ _ _ (hk 0 4 (by decide)), State.rd_wr_ne _ _ _ _ (hk 0 3 (by decide)), State.rd_wr_ne _ _ _ _ (hk 0 2 (by decide)),
      State.rd_wr_ne _ _ _ _ (hk 0 1 (by decide)), State.rd_wr_self]
  · rw [logError, rd_sramWrite_of_ne (qpKey_ne_inject hr), State.rd_wr_ne _ _ _ _ (hne 5 (by decide))]
    split
    · dsimp only
      rw [State.rd_wr_ne _ _ _ _ (hne 4 (by decide)), State.rd_wr_ne _ _ _ _ (hne 3 (by decide)), State.rd_wr_ne _ _ _ _ (hne 2 (by decide)),
        State.rd_wr_ne _ _ _ _ (hne 1 (by decide)), State.rd_wr_ne _ _ _ _ (hne 0 (by decide))]
    · rfl

/-- A doorbell out of its range: the queue freezes with nothing fetched, and the error is logged. -/
theorem badDoorbell_spec {s : State} {f : FnId} {q : Nat} (h1 : qState s f q = 1) (v : Nat) :
    qState (badDoorbell s f q v) f q = 2 ∧ ((badDoorbell s f q v).queue f q).fetched = [] ∧
      logCount (badDoorbell s f q v) f q = min (logCount s f q + 1) 0xFFFFFFFF ∧
      sqTail (badDoorbell s f q v) f q = sqTail s f q ∧ cqHead (badDoorbell s f q v) f q = cqHead s f q ∧
      (logCount s f q = 0 → ((badDoorbell s f q v).rd (.QP_LOG f.key q 0)).toNat % 2 ^ 16 = 0x27) := by
  obtain ⟨hc, h0, hr⟩ := logError_spec s f q 0x27 3 0 (v % 2 ^ 16) 0 0
  have hb : badDoorbell s f q v = signalError (if qState (logError s f q 0x27 3 0 (v % 2 ^ 16) 0 0) f q = 1 then
    freeze (logError s f q 0x27 3 0 (v % 2 ^ 16) 0 0) f q else logError s f q 0x27 3 0 (v % 2 ^ 16) 0 0) f := rfl
  generalize logError s f q 0x27 3 0 (v % 2 ^ 16) 0 0 = u at hc h0 hr hb
  have hs : ∀ k, (Reg.QP_STATE f.key q).key ≠ (Reg.QP_LOG f.key q k).key := fun k => by rw [key_qpState, key_qpLog]; omega
  have ht : ∀ k, (Reg.QP_SQ_TAIL f.key q).key ≠ (Reg.QP_LOG f.key q k).key := fun k => by rw [key_qpSqTail, key_qpLog]; omega
  have hd : ∀ k, (Reg.QP_CQ_HEAD f.key q).key ≠ (Reg.QP_LOG f.key q k).key := fun k => by rw [key_qpCqHead, key_qpLog]; omega
  have hu1 : qState u f q = 1 := (congrArg _ (hr _ (by rw [key_qpState]; omega) fun k _ => hs k)).trans h1
  rw [if_pos hu1] at hb
  have hp : portsOnly (freeze u f q) (badDoorbell s f q v) := hb ▸ portsOnly_signalError ..
  have hf : ∀ r : Reg, 0x100000000000000 ≤ r.key → r.key ≠ (Reg.QP_STATE f.key q).key → (badDoorbell s f q v).rd r = u.rd r := fun r hr hne =>
    (hp.rd r).trans ((rd_setQState _ f q hne 2).trans (rd_discardFetched u f q hr hne))
  have hlog : ∀ k, (badDoorbell s f q v).rd (.QP_LOG f.key q k) = u.rd (.QP_LOG f.key q k) := fun k =>
    hf _ (by rw [key_qpLog]; omega) (hs k).symm
  refine ⟨?_, ?_, ?_, ?_, ?_, fun h => ?_⟩
  · exact (congrArg _ (hp.rd _)).trans (qState_setQState _ _ _ (by decide))
  · rw [hp.queue]
    exact congrArg Queue.fetched (queue_discardFetched u f q)
  · rw [logCount, hlog]
    exact hc
  · rw [sqTail, State.get, hf _ (by rw [key_qpSqTail]; omega) (by rw [key_qpSqTail, key_qpState]; omega),
      hr _ (by rw [key_qpSqTail]; omega) fun k _ => ht k]
    rfl
  · rw [cqHead, State.get, hf _ (by rw [key_qpCqHead]; omega) (by rw [key_qpCqHead, key_qpState]; omega),
      hr _ (by rw [key_qpCqHead]; omega) fun k _ => hd k]
    rfl
  · rw [hlog, h0 h, BitVec.toNat_ofNat, slipTag_zero, slipOpcode_zero]
    omega

section Doorbells
variable {f : FnId} {q : Fin 16} {v : BitVec 32} {s : State} (hq : hasQueue s f q = true) (h1 : qState s f q = 1)
include hq h1

theorem not_barred : ¬ (¬ hasQueue s f q = true ∨ qState s f q = 0 ∨ qState s f q = 3) := by
  rintro (h | h | h)
  · exact h hq
  all_goals omega

theorem sqTailDoorbell_in (hv : v.toNat < depthOf s f) (hr : (sqTail s f q + depthOf s f - sqHead s f q) % depthOf s f +
    (v.toNat + depthOf s f - sqTail s f q) % depthOf s f ≤ depthOf s f - 1) :
    exec (.sqTailDoorbell f q v) s = .next (startFetch (s.put (.QP_SQ_TAIL f.key q) F.QP_SQ_TAIL_INDEX v.toNat) f q) :=
  (if_neg (not_barred hq h1)).trans (if_neg fun h => h.elim (fun h => by omega) fun h => by omega)

theorem cqHeadDoorbell_in (hv : v.toNat < depthOf s f) (hr : (v.toNat + depthOf s f - cqHead s f q) % depthOf s f ≤
    (cqTail s f q + depthOf s f - cqHead s f q) % depthOf s f) (hne : v.toNat ≠ cqTail s f q) :
    exec (.cqHeadDoorbell f q v) s = .next (startFetch (s.put (.QP_CQ_HEAD f.key q) F.QP_CQ_HEAD_INDEX v.toNat) f q) := by
  refine (if_neg (not_barred hq h1)).trans ((if_neg fun h => h.elim (fun h => by omega) fun h => by omega).trans ?_)
  have ht : cqTail (s.put (.QP_CQ_HEAD f.key q) F.QP_CQ_HEAD_INDEX v.toNat) f q = cqTail s f q :=
    State.get_put_ne (by rw [key_qpState, key_qpCqHead]; omega) ..
  refine congrArg (fun u => Host.Outcome.next (startFetch u f q)) (if_neg ?_)
  rw [ht]
  exact hne

theorem doorbell_out (hv : depthOf s f ≤ v.toNat) : exec (.sqTailDoorbell f q v) s = .next (badDoorbell s f q v.toNat) ∧
    exec (.cqHeadDoorbell f q v) s = .next (badDoorbell s f q v.toNat) :=
  ⟨(if_neg (not_barred hq h1)).trans (if_pos (Or.inl hv)), (if_neg (not_barred hq h1)).trans (if_pos (Or.inl hv))⟩

end Doorbells

/-! ### Idle states -/

theorem idleState1_eq (f : FnId) (q : Fin 16) (s : State) :
    exec (.queueIdleState1 f q) s = .next (if mayIdle s f q 1 then s.put (.QP_STATE f.key q) F.QP_STATE_IDLE 1 else s) := rfl

theorem idleState2_eq (f : FnId) (q : Fin 16) (s : State) :
    exec (.queueIdleState2 f q) s = .next (if mayIdle s f q 2 then s.put (.QP_STATE f.key q) F.QP_STATE_IDLE 2 else s) := rfl

theorem idleExit_busy {f : FnId} {q : Fin 16} {s : State} (h : (s.queue f q).running ≠ []) :
    exec (.queueIdleExit f q) s = .next (settle (s.put (.QP_STATE f.key q) F.QP_STATE_IDLE 0) f) :=
  if_neg (by rw [List.isEmpty_iff]; exact h)

theorem idleExit_empty {f : FnId} {q : Fin 16} {s : State} (h : (s.queue f q).running = []) : exec (.queueIdleExit f q) s = .next s :=
  if_pos (by rw [List.isEmpty_iff]; exact h)

/-- Settles O43, by the write of QP_CTL in each state of its queue, by a doorbell in and out of its range, and by the idle states. -/
theorem queueControl : Obligations.QueueControl := by
  unfold Obligations.QueueControl
  refine ⟨fun f q v s hq => ⟨queueEnable_spec hq, queueDisable_running hq, queueDisable_frozen hq,
    fun h1 h0 _ => queueRestart_spec hq h1 h0⟩, fun f q v s h => qp_of_no_queue v h, fun f q v s hq h1 _ => ⟨sqTailDoorbell_in hq h1,
    cqHeadDoorbell_in hq h1, fun hv i hi => ?_⟩, fun f q s => ⟨fun h => ?_, fun h => ?_, fun h => ?_, fun h => ?_, idleExit_busy, idleExit_empty⟩⟩
  · obtain ⟨hs, hc⟩ := doorbell_out hq h1 hv
    have he : exec i s = .next (badDoorbell s f q v.toNat) := by
      rcases List.mem_cons.mp hi with rfl | hi
      · exact hs
      · obtain rfl := List.mem_singleton.mp hi
        exact hc
    exact ⟨_, he, badDoorbell_spec h1 _⟩
  · rw [idleState1_eq, if_pos h]
  · rw [idleState2_eq, if_pos h]
  · rw [idleState1_eq, if_neg (by rw [h]; decide)]
  · rw [idleState2_eq, if_neg (by rw [h]; decide)]

end Sys2Proof.Machine
end

section
/-! SUPPORT. Carrels: their calls, releases, returns and owners (R400 to R403, R408). -/

namespace Sys2Proof.Machine

/-! ### The words of a carrel -/

theorem key_arcCtl (k : Nat) : (Reg.ARC_CTL k).key = 0xF00007000000 + k * 0x100 := by simp only [Reg.key]

theorem key_arcResult (k : Nat) : (Reg.ARC_RESULT k).key = 0xF00007000008 + k * 0x100 := by simp only [Reg.key]; omega

theorem key_arcData (k w : Nat) : (Reg.ARC_DATA k w).key = 0xF00007000000 + k * 0x100 + w * 8 := by simp only [Reg.key]

theorem key_arcOwner (k : Nat) : (Reg.ARC_OWNER k).key = 0xF00007004000 + k * 8 := by simp only [Reg.key]

/-- The data words of a carrel of which `p` does not hold, zeroed. -/
def wiped (p : Nat → Bool) (s : State) (k : Nat) : State :=
  overAll (List.range 30) (fun s i => if p i then s else s.wr (.ARC_DATA k (i + 2)) 0) s

section Wiped
variable (p : Nat → Bool) (s : State) (k : Nat)

theorem wiped_rest : wiped p s k = { s with regs := (wiped p s k).regs } := by
  refine overAll_rel (R := fun s t => t = { s with regs := t.regs }) (fun _ => rfl) (fun {s t u} h h' => by rw [h', h]) (fun s i => ?_) _ s
  split <;> rfl

theorem rd_wiped_ne {r : Reg} (h : ∀ i < 30, r.key ≠ (Reg.ARC_DATA k (i + 2)).key) : (wiped p s k).rd r = s.rd r := by
  refine overAll_keeps_mem (g := fun t => t.rd r) (fun t i hi => ?_) s
  split
  · rfl
  · exact State.rd_wr_ne _ _ _ _ (h i (List.mem_range.mp hi))

theorem rd_wiped {i : Nat} (hi : i < 30) : (wiped p s k).rd (.ARC_DATA k (i + 2)) = if p i then s.rd (.ARC_DATA k (i + 2)) else 0 := by
  have hne : ∀ a b : Nat, b ≠ a → (Reg.ARC_DATA k (b + 2)).key ≠ (Reg.ARC_DATA k (a + 2)).key := fun a b h => by
    rw [key_arcData, key_arcData]
    omega
  have hkeep : ∀ t : State, ∀ a b : Nat, b ≠ a →
      (if p a then t else t.wr (.ARC_DATA k (a + 2)) 0).rd (.ARC_DATA k (b + 2)) = t.rd (.ARC_DATA k (b + 2)) := fun t a b h => by
    split
    · rfl
    · exact State.rd_wr_ne _ _ _ _ (hne a b h)
  refine overAll_each (read := fun t i => t.rd (.ARC_DATA k (i + 2))) (val := fun t i => if p i then t.rd (.ARC_DATA k (i + 2)) else 0)
    List.nodup_range (fun t a _ => ?_) (fun t a _ b _ h => hkeep t a b h) (fun t a _ b _ h => ?_) s (List.mem_range.mpr hi)
  · by_cases h : p a = true
    · rw [if_pos h, if_pos h]
    · rw [if_neg h, if_neg h, State.rd_wr_self]
  · rw [hkeep t a b h]

end Wiped

theorem regsBut_put (s : State) (r : Reg) (f : Fld) (n : Nat) : regsBut s (s.put r f n) [r] :=
  fun _ h => State.rd_put_ne (h _ (List.mem_singleton_self _)) ..

theorem regsBut_wr (s : State) (r : Reg) (w : Word) : regsBut s (s.wr r w) [r] :=
  fun _ h => State.rd_wr_ne _ _ _ _ (h _ (List.mem_singleton_self _))

theorem regsBut.trans {s t u : State} {l : List Reg} (h : regsBut s t l) (h' : regsBut t u l) : regsBut s u l :=
  fun r hr => (h' r hr).trans (h r hr)

/-! ### Calls and releases (R400, R401) -/

section Owner
variable {who : Agent} {k : Fin 64} {v : Word} {s : State}

theorem not_ledger_of_carrelOwner (h : carrelOwner s who k = true) : notLedger s who := by
  rintro c rfl
  unfold State.ledgerCore
  unfold carrelOwner at h
  dsimp only at h
  split at h
  · exact absurd h (by decide)
  next g hg =>
    rw [hg]
    simp only [Bool.and_eq_true, Bool.not_eq_true'] at h
    exact h.1.1.2

theorem carrel_writes (h : notLedger s who) : exec (.arcCtlCall who k v) s = .next (arcCtl s who k v) ∧
    exec (.arcCtlRelease who k v) s = .next (arcCtl s who k v) :=
  ⟨barred_of_notLedger h _ _, barred_of_notLedger h _ _⟩

theorem arcCtl_of_stranger (h : carrelOwner s who k = false) : arcCtl s who k v = s := if_pos (by rw [h]; decide)

variable (ho : carrelOwner s who k = true)
include ho

theorem arcCtl_of_owner (hb : (v.getLsbD 0 && v.getLsbD 1) = false) : arcCtl s who k v =
    if carrelState s k = 0 then
      let u := (clearIgnored s k v).put (.ARC_CTL k) F.ARC_CTL_SERVICE (F.ARC_CTL_SERVICE.get v)
      if v.getLsbD 0 then u.put (.ARC_CTL k) F.ARC_CTL_STATE 1 else u
    else if carrelState s k = 3 ∧ v.getLsbD 1 then releaseCarrel (clearIgnored s k v) k
    else carrelIgnored s k :=
  (if_neg (by rw [ho]; decide)).trans (if_neg (by rw [hb]; decide))

theorem arcCtl_of_busy (hst : carrelState s k = 1 ∨ carrelState s k = 2) : arcCtl s who k v = s.put (.ARC_CTL k) F.ARC_CTL_WRITE_IGNORED 1 := by
  by_cases hb : (v.getLsbD 0 && v.getLsbD 1) = true
  · exact (if_neg (by rw [ho]; decide)).trans (if_pos hb)
  · rw [arcCtl_of_owner ho (Bool.eq_false_iff.mpr hb), if_neg (by omega), if_neg (by omega), carrelIgnored]

omit ho in
theorem clearIgnored_spec (s : State) (k : Nat) (v : Word) :
    regsBut s (clearIgnored s k v) [.ARC_CTL k] ∧ clearIgnored s k v = { s with regs := (clearIgnored s k v).regs } := by
  unfold clearIgnored
  split
  · exact ⟨regsBut_put _ _ _ _, rfl⟩
  · exact ⟨fun _ _ => rfl, rfl⟩

theorem arcCtlCall_spec (h0 : carrelState s k = 0) (hc : v.getLsbD 0 = true) (hr : v.getLsbD 1 = false) :
    ∃ t, exec (.arcCtlCall who k v) s = .next t ∧ carrelState t k = 1 ∧ t.get (.ARC_CTL k) F.ARC_CTL_SERVICE = F.ARC_CTL_SERVICE.get v ∧
      regsBut s t [.ARC_CTL k] ∧ t = { s with regs := t.regs } := by
  refine ⟨_, (carrel_writes (not_ledger_of_carrelOwner ho)).1, ?_⟩
  rw [arcCtl_of_owner ho (by rw [hc, hr]; rfl), if_pos h0]
  obtain ⟨hb, hs⟩ := clearIgnored_spec s k v
  generalize clearIgnored s k v = u at hb hs
  rw [if_pos hc]
  refine ⟨State.get_put_self (by decide) (by decide) .., ?_, hb.trans ((regsBut_put _ _ _ _).trans (regsBut_put _ _ _ _)), ?_⟩
  · refine (State.get_put_apart (by decide) (by decide) (by decide) ..).trans ((State.get_put_self (by decide) (by decide) ..).trans ?_)
    exact Nat.mod_eq_of_lt (Fld.get_lt ..)
  · rw [hs]
    rfl

omit ho in
theorem releaseCarrel_eq (s : State) (k : Nat) : releaseCarrel s k =
    ((wiped (fun _ => false) (s.wr (.ARC_RESULT k) 0) k).put (.ARC_CTL k) F.ARC_CTL_SERVICE 0).put (.ARC_CTL k) F.ARC_CTL_STATE 0 := rfl

theorem arcCtlRelease_spec (h3 : carrelState s k = 3) (hc : v.getLsbD 0 = false) (hr : v.getLsbD 1 = true) :
    ∃ t, exec (.arcCtlRelease who k v) s = .next t ∧ carrelState t k = 0 ∧ t.get (.ARC_CTL k) F.ARC_CTL_SERVICE = 0 ∧
      t.rd (.ARC_RESULT k) = 0 ∧ (∀ w, 2 ≤ w → w < 32 → t.rd (.ARC_DATA k w) = 0) ∧
      regsBut s t (.ARC_CTL k :: .ARC_RESULT k :: (List.range 30).map (fun i => Reg.ARC_DATA k (i + 2))) ∧ t = { s with regs := t.regs } := by
  refine ⟨_, (carrel_writes (not_ledger_of_carrelOwner ho)).2, ?_⟩
  rw [arcCtl_of_owner ho (by rw [hc]; rfl), if_neg (by omega), if_pos ⟨h3, hr⟩, releaseCarrel_eq]
  obtain ⟨hb, hs⟩ := clearIgnored_spec s k v
  generalize clearIgnored s k v = u at hb hs
  have hw := wiped_rest (fun _ => false) (u.wr (.ARC_RESULT k) 0) k
  have hd := fun {i : Nat} (hi : i < 30) => rd_wiped (fun _ => false) (u.wr (.ARC_RESULT k) 0) k hi
  have hne := fun {r : Reg} h => rd_wiped_ne (fun _ => false) (u.wr (.ARC_RESULT k) 0) k (r := r) h
  generalize wiped (fun _ => false) (u.wr (.ARC_RESULT k) 0) k = x at hw hd hne
  have hput : ∀ r : Reg, r.key ≠ (Reg.ARC_CTL k).key →
      ((x.put (.ARC_CTL k) F.ARC_CTL_SERVICE 0).put (.ARC_CTL k) F.ARC_CTL_STATE 0).rd r = x.rd r := fun r h =>
    (State.rd_put_ne h ..).trans (State.rd_put_ne h ..)
  refine ⟨State.get_put_self (by decide) (by decide) .., ?_, ?_, fun w h2 h32 => ?_, fun r h => ?_, by rw [hw, hs]; rfl⟩
  · exact (State.get_put_apart (by decide) (by decide) (by decide) ..).trans (State.get_put_self (by decide) (by decide) ..)
  · rw [hput _ (by rw [key_arcResult, key_arcCtl]; omega), hne fun i _ => by rw [key_arcResult, key_arcData]; omega, State.rd_wr_self]
  · rw [hput _ (by rw [key_arcData, key_arcCtl]; omega), show w = w - 2 + 2 by omega, hd (by omega)]
    rfl
  · rw [hput _ (h _ List.mem_cons_self), hne fun i hi => h _ (List.mem_cons_of_mem _ (List.mem_cons_of_mem _
      (List.mem_map_of_mem (List.mem_range.mpr hi)))), State.rd_wr_ne _ _ _ _ (h _ (List.mem_cons_of_mem _ List.mem_cons_self))]
    exact hb r fun q hq => List.mem_singleton.mp hq ▸ h _ List.mem_cons_self

end Owner

/-! ### Taking, returning and scrubbing (R402, R403) -/

theorem serving_setServing (s : State) (k : Nat) (v : Serving) : serving (setServing s k v) k = some v := NMap.get?_set_self ..

/-- The result that a call has at once when it is taken. -/
def atOnce (s : State) (k : Nat) : Option SrvResult :=
  if tampered s then some ⟨6, 0, []⟩ else if services.contains (s.get (.ARC_CTL k) F.ARC_CTL_SERVICE) then none else some ⟨1, 0, []⟩

theorem carrelTake_idle {s : State} (h : ∀ k : Fin 64, carrelState s k ≠ 1) : exec .carrelTake s = .next s := by
  have hf : (List.range 64).find? (fun k => carrelState s k == 1) = none := by
    rw [List.find?_eq_none]
    intro k hk
    have := h ⟨k, List.mem_range.mp hk⟩
    simpa using this
  show execCarrelTake s = _
  unfold execCarrelTake
  dsimp only
  rw [hf]
  exact ite_self _

theorem carrelTake_first {s : State} {k : Fin 64} (hs : s.arc.serving = []) (hg : 2 ≤ s.get .ARC_STATUS F.ARC_STATUS_STAGE)
    (h1 : carrelState s k = 1) (hlt : ∀ j : Fin 64, j < k → carrelState s j ≠ 1) :
    exec .carrelTake s = .next (beginServing s k (atOnce s k)) := by
  have hf : (List.range 64).find? (fun k => carrelState s k == 1) = some k.val :=
    find_first (by simpa using h1) fun e he => by simpa using hlt ⟨e, by omega⟩ he
  show execCarrelTake s = _
  unfold execCarrelTake
  dsimp only
  rw [hf, if_neg (by rw [hs]; simp; omega)]
  rfl

theorem beginServing_spec (s : State) (k : Fin 64) (r : Option SrvResult) : carrelState (beginServing s k r) k = 2 ∧
    serving (beginServing s k r) k = some ⟨[], [], false, false, r, false⟩ ∧ regsBut s (beginServing s k r) [.ARC_CTL k, .FLT_INJECT] ∧
      beginServing s k r = { s with regs := (beginServing s k r).regs, arc := (beginServing s k r).arc, flips := (beginServing s k r).flips } := by
  unfold beginServing
  have hu := sameUnits_sramWrite (setServing (s.put (.ARC_CTL k) F.ARC_CTL_STATE 2) k ⟨[], [], false, false, r, false⟩) 15 0x2700 k
  have hr := fun {q : Reg} h => rd_sramWrite_of_ne (r := q) h (setServing (s.put (.ARC_CTL k) F.ARC_CTL_STATE 2) k ⟨[], [], false, false, r, false⟩) 15 0x2700 k
  have hserv : serving (setServing (s.put (.ARC_CTL k) F.ARC_CTL_STATE 2) k ⟨[], [], false, false, r, false⟩) k = _ := serving_setServing ..
  generalize sramWrite (setServing (s.put (.ARC_CTL k) F.ARC_CTL_STATE 2) k ⟨[], [], false, false, r, false⟩) 15 0x2700 k = t at hu hr
  refine ⟨?_, ?_, fun q h => ?_, by rw [hu]; rfl⟩
  · rw [carrelState, State.get, hr (q := .ARC_CTL k) (by rw [key_arcCtl]; omega)]
    exact State.get_put_self (by decide) (by decide) ..
  · rw [hu]
    exact hserv
  · rw [hr (h _ (List.mem_cons_of_mem _ (List.mem_singleton_self _)))]
    exact State.rd_put_ne (h _ List.mem_cons_self) ..

theorem servingCheck_of_clean {s : State} {k : Nat} (h : sramBits s 15 0x2700 k = 0) : servingCheck s k = s := by
  unfold servingCheck
  dsimp only
  rw [iodSram_of_clean h]
  rfl

theorem carrelReturn_spec {k : Fin 64} {v : Serving} {status keep : Nat} {x : Word} {s : State} (hv : serving s k = some v)
    (hr : v.result = some ⟨status, keep, [(2, x)]⟩) (hn : v.returned = false) (h2 : carrelState s k = 2) (hc : sramBits s 15 0x2700 k = 0) :
    ∃ t, exec (.carrelReturn k) s = .next t ∧ t.get (.ARC_RESULT k) F.ARC_RESULT_STATUS = status % 2 ^ 16 ∧
      t.get (.ARC_RESULT k) F.ARC_RESULT_KEEP = keep % 2 ^ 30 ∧ t.rd (.ARC_DATA k 2) = x ∧ serving t k = some { v with returned := true } ∧
      carrelState t k = 2 ∧ regsBut s t [.ARC_RESULT k, .ARC_DATA k 2] ∧ t = { s with regs := t.regs, arc := t.arc } := by
  refine ⟨setServing (((s.wr (.ARC_DATA k 2) x).put (.ARC_RESULT k) F.ARC_RESULT_STATUS status).put (.ARC_RESULT k) F.ARC_RESULT_KEEP keep) k
    { v with returned := true }, ?_, ?_, ?_, ?_, serving_setServing .., ?_, fun r h => ?_, rfl⟩
  · show execCarrelReturn k s = _
    unfold execCarrelReturn
    dsimp only
    rw [servingCheck_of_clean hc]
    simp only [hv, hr]
    exact if_neg (by rw [hn]; simpa using h2)
  · exact (State.get_put_apart (by decide) (by decide) (by decide) ..).trans (State.get_put_self (by decide) (by decide) ..)
  · exact State.get_put_self (by decide) (by decide) ..
  · have hne : (Reg.ARC_DATA k 2).key ≠ (Reg.ARC_RESULT k).key := by rw [key_arcData, key_arcResult]; omega
    exact (State.rd_put_ne hne ..).trans ((State.rd_put_ne hne ..).trans (State.rd_wr_self ..))
  · have hne : (Reg.ARC_CTL k).key ≠ (Reg.ARC_RESULT k).key := by rw [key_arcCtl, key_arcResult]; omega
    have hne' : (Reg.ARC_CTL k).key ≠ (Reg.ARC_DATA k 2).key := by rw [key_arcCtl, key_arcData]; omega
    exact (State.get_put_ne hne ..).trans ((State.get_put_ne hne ..).trans ((State.get_wr_ne hne' ..).trans h2))
  · have hne := h _ List.mem_cons_self
    exact (State.rd_put_ne hne ..).trans ((State.rd_put_ne hne ..).trans
      (State.rd_wr_ne _ _ _ _ (h _ (List.mem_cons_of_mem _ (List.mem_singleton_self _)))))

/-- The state after the scrub of a carrel, beside the entry of its call. -/
def scrubbed (s : State) (k : Nat) : State :=
  ((wiped (fun i => (s.get (.ARC_RESULT k) F.ARC_RESULT_KEEP).testBit i) s k).put (.ARC_CTL k) F.ARC_CTL_STATE 3).arrive (512 + k)

theorem carrelScrubEnd_eq {k : Fin 64} {v : Serving} {s : State} (hv : serving s k = some v) (hr : v.returned = true) :
    exec (.carrelScrubEnd k) s = .next
      (let t := { scrubbed s k with arc := { (scrubbed s k).arc with serving := (scrubbed s k).arc.serving.erase k.val } }
       if k.val = 63 then t.emit (.ibi 2) else t) := by
  show execCarrelScrubEnd k s = _
  unfold execCarrelScrubEnd
  simp only [hv]
  exact if_neg (by rw [hr]; decide)

theorem sourceExists_carrel (k : Fin 64) : sourceExists (512 + k.val) = true := by revert k; decide

theorem scrubbed_spec (s : State) (k : Fin 64) : carrelState (scrubbed s k) k = 3 ∧
    (∀ i : Fin 30, (scrubbed s k).rd (.ARC_DATA k (i.val + 2)) =
      if (s.get (.ARC_RESULT k) F.ARC_RESULT_KEEP).testBit i then s.rd (.ARC_DATA k (i.val + 2)) else 0) ∧
    (s.tally (512 + k.val) < 255 → (scrubbed s k).tally (512 + k.val) = s.tally (512 + k.val) + 1) ∧ sameUnits s (scrubbed s k) := by
  have hw := wiped_rest (fun i => (s.get (.ARC_RESULT k) F.ARC_RESULT_KEEP).testBit i) s k
  have hd := fun {i : Nat} (hi : i < 30) => rd_wiped (fun i => (s.get (.ARC_RESULT k) F.ARC_RESULT_KEEP).testBit i) s k hi
  have hne := fun {r : Reg} h => rd_wiped_ne (fun i => (s.get (.ARC_RESULT k) F.ARC_RESULT_KEEP).testBit i) s k (r := r) h
  have hs : scrubbed s k = (((wiped (fun i => (s.get (.ARC_RESULT k) F.ARC_RESULT_KEEP).testBit i) s k)).put (.ARC_CTL k)
    F.ARC_CTL_STATE 3).arrive (512 + k) := rfl
  generalize wiped (fun i => (s.get (.ARC_RESULT k) F.ARC_RESULT_KEEP).testBit i) s k = x at hw hd hne hs
  rw [hs]
  refine ⟨?_, fun i => ?_, fun h => ?_, ?_⟩
  · rw [carrelState, State.get, rd_arrive (r := .ARC_CTL k) ⟨by rw [key_arcCtl]; omega, by rw [key_arcCtl]; omega⟩]
    exact State.get_put_self (by decide) (by decide) ..
  · rw [rd_arrive (r := .ARC_DATA k (i.val + 2)) ⟨by rw [key_arcData]; omega, by rw [key_arcData]; omega⟩,
      State.rd_put_ne (by rw [key_arcData, key_arcCtl]; omega), hd i.isLt]
  · have ht : (x.put (.ARC_CTL k) F.ARC_CTL_STATE 3).tally (512 + k) = s.tally (512 + k) := by
      rw [State.tally, State.get_put_ne (by rw [key_ticTally, key_arcCtl]; omega), State.get,
        hne fun i _ => by rw [key_ticTally, key_arcData]; omega]
      rfl
    rw [tally_arrive_self (sourceExists_carrel k), ht]
    omega
  · refine sameUnits.trans ?_ (sameUnits_arrive ..)
    rw [hw]
    rfl

theorem carrelScrubEnd_spec {k : Fin 64} {v : Serving} {s : State} (hv : serving s k = some v) (hr : v.returned = true) :
    ∃ t, exec (.carrelScrubEnd k) s = .next t ∧ carrelState t k = 3 ∧ serving t k = none ∧
      (∀ i : Fin 30, t.rd (.ARC_DATA k (i.val + 2)) =
        if (s.get (.ARC_RESULT k) F.ARC_RESULT_KEEP).testBit i then s.rd (.ARC_DATA k (i.val + 2)) else 0) ∧
      (s.tally (512 + k.val) < 255 → t.tally (512 + k.val) = s.tally (512 + k.val) + 1) ∧
      t.out = (if k.val = 63 then s.out ++ [.ibi 2] else s.out) ∧
      t = { s with regs := t.regs, arc := t.arc, flips := t.flips, out := t.out } := by
  refine ⟨_, carrelScrubEnd_eq hv hr, ?_⟩
  obtain ⟨hst, hd, ht, hu⟩ := scrubbed_spec s k
  generalize scrubbed s k = x at hst hd ht hu
  have hn : (x.arc.serving.erase k.val).get? k.val = none := NMap.get?_erase_self ..
  have ho : x.out = s.out := by rw [hu]
  dsimp only
  split
  · exact ⟨hst, hn, hd, ht, congrArg (· ++ [Outward.ibi 2]) ho, by rw [hu]; rfl⟩
  · exact ⟨hst, hn, hd, ht, ho, by rw [hu]⟩

/-! ### Owners (R408) -/

theorem arcOwnerWrite_idle {who : Agent} {k : Fin 64} {v : Word} {s : State} (hh : s.isHouse who = true) (h : carrelState s k = 0) :
    exec (.arcOwnerWrite who k v) s = .next (s.put (.ARC_OWNER k) F.ARC_OWNER_HAND (F.ARC_OWNER_HAND.get v)) :=
  (if_neg (by rw [hh]; decide)).trans (if_pos h)

theorem arcOwnerWrite_busy {who : Agent} {k : Fin 64} {v : Word} {s : State} (hh : s.isHouse who = true) (h : carrelState s k ≠ 0) :
    ∃ t, exec (.arcOwnerWrite who k v) s = .next t ∧ (t.rd .ARC_ERR).getLsbD 2 = true ∧ t.rd (.ARC_OWNER k) = s.rd (.ARC_OWNER k) := by
  refine ⟨_, (if_neg (by rw [hh]; decide)).trans (if_neg h), ?_, ?_⟩
  · rw [rd_raise (r := .ARC_ERR) ⟨by decide, by decide⟩ _ _ _ (by decide), State.rd_wr_self, BitVec.getLsbD_or]
    simp
  · exact rd_raise_ne (r := .ARC_OWNER k) ⟨by rw [key_arcOwner]; omega, by rw [key_arcOwner]; omega⟩
      (by rw [key_arcOwner, show Reg.ARC_ERR.key = 0xF00007005030 from rfl]; omega) _ _ (by decide) ..

/-- Settles O48, by the write of ARC_CTL in each state of its carrel, and by what taking, returning and scrubbing a call leave. -/
theorem carrelCalls : Obligations.CarrelCalls := by
  unfold Obligations.CarrelCalls
  refine ⟨fun who k v s ho => ⟨arcCtlCall_spec ho, arcCtlRelease_spec ho, fun h i hi => ?_⟩, fun who k v s ho hl => ?_,
    fun c k v s hl => ⟨barred_of_bars ⟨hl, rfl⟩ _, barred_of_bars ⟨hl, rfl⟩ _⟩, fun k s hs hg h1 hlt => ?_, fun s h => carrelTake_idle h,
    fun k v st kp x s => carrelReturn_spec, fun k v s => carrelScrubEnd_spec,
    fun who k v s hh => ⟨arcOwnerWrite_idle hh, arcOwnerWrite_busy hh⟩, fun who k v s hh => if_pos (by rw [hh]; decide)⟩
  · obtain ⟨hc, hr⟩ := carrel_writes (k := k) (v := v) (not_ledger_of_carrelOwner ho)
    rw [arcCtl_of_busy ho h] at hc hr
    rcases List.mem_cons.mp hi with rfl | hi
    · exact hc
    · obtain rfl := List.mem_singleton.mp hi
      exact hr
  · have h := carrel_writes (k := k) (v := v) hl
    rwa [arcCtl_of_stranger ho] at h
  · exact ⟨_, carrelTake_first hs hg h1 hlt, beginServing_spec ..⟩

end Sys2Proof.Machine
end

section
/-! SUPPORT. The mailbox of SET_STATE and the engine's injection (R365, R372). -/

namespace Sys2Proof.Machine

/-! ### Transfers that an engine puts behind those that wait -/

/-- A state that differs from another one in what waits at the points and in the outboxes alone. -/
def pointsOnly (s t : State) : Prop := t = { s with points := t.points, outbox := t.outbox }

theorem pointsOnly.trans {s t u : State} (h : pointsOnly s t) (h' : pointsOnly t u) : pointsOnly s u := by
  rw [pointsOnly] at *; rw [h', h]

theorem pointsOnly.rd {s t : State} (h : pointsOnly s t) (r : Reg) : t.rd r = s.rd r := by rw [h]; rfl

theorem pointsOnly.port {s t : State} (h : pointsOnly s t) (p : Nat) : t.port p = s.port p := by rw [h]; rfl

theorem pointsOnly.queue {s t : State} (h : pointsOnly s t) (f : FnId) (q : Nat) : t.queue f q = s.queue f q := by rw [h]; rfl

theorem pointsOnly.dram {s t : State} (h : pointsOnly s t) : t.dram = s.dram := by rw [h]

theorem pointsOnly_overAll {α : Type} {f : State → α → State} (h : ∀ s a, pointsOnly s (f s a)) (l : List α) (s : State) :
    pointsOnly s (overAll l f s) :=
  overAll_rel (R := pointsOnly) (fun _ => rfl) (fun h h' => h.trans h') h l s

theorem pointsOnly_send (s : State) (p q : Nat) (m : Msg) : pointsOnly s (s.send p q m) := rfl

theorem pointsOnly_pumpEngine (s : State) (q : Nat) : pointsOnly s (pumpEngine s q) := by
  refine pointsOnly_overAll (fun t n => ?_) _ s
  dsimp only
  split
  · rfl
  · split
    · rfl
    · generalize hu : { t with outbox := t.outbox.set q _ } = u
      have h : pointsOnly t u := hu ▸ rfl
      exact h.trans (pointsOnly_overAll (fun v m => pointsOnly_send ..) _ u)

theorem pointsOnly_putTransfers (s : State) (q : Nat) (ms : List Msg) : pointsOnly s (putTransfers s q ms) := by
  unfold putTransfers
  dsimp only
  generalize hu : { s with outbox := s.outbox.set q _ } = u
  have h : pointsOnly s u := hu ▸ rfl
  exact h.trans (pointsOnly_pumpEngine ..)

/-! ### The mailbox of a port (R365, R372) -/

theorem key_ssState (p : Nat) : (Reg.CSQ_SS_STATE p).key = 0xF00005000008 + p * 0x100 := by simp only [Reg.key]; omega

theorem key_ssSlip (p k : Nat) : (Reg.CSQ_SS_SLIP p k).key = 0xF00005000040 + p * 0x100 + k * 8 := by simp only [Reg.key]; omega

theorem sourceExists_mailbox (p : Fin 8) : sourceExists (32 + p.val) = true := by revert p; decide

/-- The words of a slip copied to CSQ_SS_SLIP. -/
def slipCopied (s : State) (p : Nat) (b : LineData) : State :=
  overAll (List.range 8) (fun s k => s.wr (.CSQ_SS_SLIP p k) (BitVec.ofNat 64 (slipFld b (8 * k) 8))) s

section Copied
variable (s : State) (p : Nat) (b : LineData)

theorem slipCopied_rest : slipCopied s p b = { s with regs := (slipCopied s p b).regs } :=
  overAll_rel (R := fun s t => t = { s with regs := t.regs }) (fun _ => rfl) (fun {s t u} h h' => by rw [h', h]) (fun _ _ => rfl) _ s

theorem rd_slipCopied (k : Fin 8) : (slipCopied s p b).rd (.CSQ_SS_SLIP p k) = BitVec.ofNat 64 (slipFld b (8 * k) 8) :=
  overAll_each (read := fun t k => t.rd (.CSQ_SS_SLIP p k)) (val := fun _ k => BitVec.ofNat 64 (slipFld b (8 * k) 8)) List.nodup_range
    (fun _ _ _ => State.rd_wr_self ..) (fun _ _ _ _ _ h => State.rd_wr_ne _ _ _ _ (by rw [key_ssSlip, key_ssSlip]; omega))
    (fun _ _ _ _ _ _ => rfl) s (List.mem_range.mpr k.isLt)

theorem rd_slipCopied_ne {r : Reg} (h : ∀ k < 8, r.key ≠ (Reg.CSQ_SS_SLIP p k).key) : (slipCopied s p b).rd r = s.rd r :=
  overAll_keeps_mem (g := fun t => t.rd r) (fun _ k hk => State.rd_wr_ne _ _ _ _ (h k (List.mem_range.mp hk))) s

end Copied

/-- The mailbox that is loaded: BUSY, the queue, the words of the slip, and one arrival of the port's source. -/
theorem mailboxLoaded_spec (s : State) (p : Fin 8) {q : Nat} (hq : q < 16) (b : LineData) :
    (mailboxLoaded s p q b).bit (.CSQ_SS_STATE p) F.CSQ_SS_STATE_BUSY = true ∧
      (mailboxLoaded s p q b).get (.CSQ_SS_STATE p) F.CSQ_SS_STATE_QUEUE = q ∧
      (∀ k : Fin 8, (mailboxLoaded s p q b).rd (.CSQ_SS_SLIP p k) = BitVec.ofNat 64 (slipFld b (8 * k) 8)) ∧
      (s.tally (32 + p.val) < 255 → (mailboxLoaded s p q b).tally (32 + p.val) = s.tally (32 + p.val) + 1) ∧
      sameUnits s (mailboxLoaded s p q b) := by
  have hm : mailboxLoaded s p q b = (((((slipCopied s p b).wr (.CSQ_SS_STATE p) 0).put (.CSQ_SS_STATE p) F.CSQ_SS_STATE_BUSY 1).put (.CSQ_SS_STATE p)
    F.CSQ_SS_STATE_VF 0xFFF).put (.CSQ_SS_STATE p) F.CSQ_SS_STATE_QUEUE q).arrive (32 + p) := rfl
  have hs := slipCopied_rest s p b
  have hw := rd_slipCopied s p b
  have hn := fun {r : Reg} => rd_slipCopied_ne s p b (r := r)
  generalize slipCopied s p b = u at hm hs hw hn
  generalize hv : (((u.wr (.CSQ_SS_STATE p) 0).put (.CSQ_SS_STATE p) F.CSQ_SS_STATE_BUSY 1).put (.CSQ_SS_STATE p)
    F.CSQ_SS_STATE_VF 0xFFF).put (.CSQ_SS_STATE p) F.CSQ_SS_STATE_QUEUE q = v at hm
  have hvr : ∀ r : Reg, r.key ≠ (Reg.CSQ_SS_STATE p).key → v.rd r = u.rd r := fun r h => by
    rw [← hv, State.rd_put_ne h, State.rd_put_ne h, State.rd_put_ne h, State.rd_wr_ne _ _ _ _ h]
  have hvq : v.get (.CSQ_SS_STATE p) F.CSQ_SS_STATE_QUEUE = q := by
    rw [← hv, State.get_put_self (by decide) (by decide)]
    exact Nat.mod_eq_of_lt hq
  have hvb : v.get (.CSQ_SS_STATE p) F.CSQ_SS_STATE_BUSY = 1 := by
    rw [← hv, State.get_put_apart (by decide) (by decide) (by decide), State.get_put_apart (by decide) (by decide) (by decide),
      State.get_put_self (by decide) (by decide)]
    rfl
  have hg : ∀ f, (v.arrive (32 + p)).get (.CSQ_SS_STATE p) f = v.get (.CSQ_SS_STATE p) f := fun f =>
    congrArg f.get (rd_arrive ⟨by rw [key_ssState]; omega, by rw [key_ssState]; omega⟩ ..)
  rw [hm]
  refine ⟨?_, (hg _).trans hvq, fun k => ?_, fun h => ?_, ?_⟩
  · rw [State.bit, hg, hvb]
    rfl
  · rw [rd_arrive ⟨by rw [key_ssSlip]; omega, by rw [key_ssSlip]; omega⟩, hvr _ (by rw [key_ssSlip, key_ssState]; omega), hw]
  · have ht : v.tally (32 + p) = s.tally (32 + p) := by
      rw [State.tally, State.get, hvr _ (by rw [key_ticTally, key_ssState]; omega), hn fun k _ => by rw [key_ticTally, key_ssSlip]; omega]
      rfl
    rw [tally_arrive_self (sourceExists_mailbox p), ht]
    omega
  · refine sameUnits.trans ?_ (sameUnits_arrive ..)
    rw [← hv, hs]
    rfl

/-- The slip that waits in the mailbox of a port, its payload in the slices. -/
theorem payloadEntered_spec {p : Fin 8} {q : Nat} {x : Slip} {s : State} (hm : (s.port p).mailbox = some (.pf p, q, x.seq))
    (hb : s.bit (.CSQ_SS_STATE p) F.CSQ_SS_STATE_BUSY = false) (ho : outMsgs s 24 (fun m => m.txn == txnOf 4 p) = [])
    (hf : findSlip s (.pf p) q x.seq = some x) : payloadEntered s p = mailboxLoaded s p q x.bits := by
  unfold payloadEntered
  simp only [hm, hf]
  exact if_neg (by rw [hb, ho]; simp)

/-! ### The slip that enters the mailbox -/

/-- What the mailbox holds once the slip is in it. -/
def inMailbox (s : State) (p : Fin 8) (x : Slip) : State :=
  (setSlip s (.pf p) 0 { x with started := true }).setPort p { s.port p with mailbox := some (.pf p, 0, x.seq) }

/-- A list of the queues' slips of which only queue 0 has some. -/
theorem flatMap_first {β : Type} {g : Nat → List β} (h : ∀ k, 1 ≤ k → k < 16 → g k = []) : (List.range 16).flatMap g = g 0 := by
  rw [List.range_succ_eq_map, List.flatMap_cons, List.flatMap_map]
  refine (congrArg (g 0 ++ ·) (List.flatMap_eq_nil_iff.mpr fun k hk => ?_)).trans (List.append_nil _)
  have := List.mem_range.mp hk
  exact h (k + 1) (by omega) (by omega)

section Load
variable {p : Fin 8} {bs : List Byte} {x : Slip} {s : State} (hx : (s.queue (.pf p) 0).running = [x])
  (hk : ∀ k, 1 ≤ k → k < 16 → (s.queue (.pf p) k).running = []) (ho : State.slipOpcode x.bits = 7) (hst : x.started = false)
  (hmay : mayStart s (.pf p) 0 x = true) (hlen : slipLen x.bits = bs.length)
include hx hk ho hst hmay hlen
theorem mailboxLoad_eq (hb : s.bit (.CSQ_SS_STATE p) F.CSQ_SS_STATE_BUSY = false) (hm : (s.port p).mailbox = none) :
    exec (.setStateMailboxLoad p bs) s = if bs.isEmpty then .next (mailboxLoaded (inMailbox s p x) p 0 x.bits)
      else .next (putTransfers (inMailbox s p x) 24
        (wrBytes 24 0 (txnOf 4 p) ((inMailbox s p x).get (.CSQ_SS_BUF p) F.CSQ_SS_BUF_BASE * 64) bs)) := by
  have hc : (List.range 16).flatMap (fun q => ((s.queue (.pf p) q).running.filter (fun e =>
      State.slipOpcode e.bits == 7 && !e.started && mayStart s (.pf p) q e)).map (fun e => (q, e))) = [(0, x)] := by
    refine (flatMap_first fun k h1 h16 => ?_).trans ?_
    · rw [hk k h1 h16]
      rfl
    · rw [hx]
      simp [ho, hst, hmay]
  show execSetStateMailboxLoad p bs s = _
  unfold execSetStateMailboxLoad
  dsimp only
  rw [hc, List.find?_cons_of_pos (by simpa using hlen)]
  exact if_neg (by rw [hb, hm]; simp)

end Load

theorem inMailbox_spec {p : Fin 8} {x : Slip} {s : State} (hx : (s.queue (.pf p) 0).running = [x]) :
    ((inMailbox s p x).port p).mailbox = some (.pf p, 0, x.seq) ∧ (∀ r, (inMailbox s p x).rd r = s.rd r) ∧
      ((inMailbox s p x).queue (.pf p) 0).running = [{ x with started := true }] ∧ portsBut s (inMailbox s p x) [p.val] ∧
      (inMailbox s p x).dram = s.dram := by
  have hi : inMailbox s p x = (setSlip s (.pf p) 0 { x with started := true }).setPort p
    { s.port p with mailbox := some (.pf p, 0, x.seq) } := rfl
  generalize hu : setSlip s (.pf p) 0 { x with started := true } = u at hi
  rw [hi]
  refine ⟨by rw [State.port_setPort_self], fun r => by rw [State.rd_setPort, ← hu]; rfl, ?_, fun k hk => ?_, by rw [← hu]; rfl⟩
  · rw [State.queue_setPort, ← hu, setSlip, State.queue_setQueue_self, hx]
    simp
  · rw [State.port_setPort_ne _ _ _ _ (by simpa using hk), ← hu]
    rfl

/-! ### The end of the slip -/

theorem overAll_fix {α : Type} {f : State → α → State} {l : List α} {s : State} (h : ∀ a ∈ l, f s a = s) : overAll l f s = s := by
  induction l with
  | nil => rfl
  | cons a l ih =>
    show overAll l f (f s a) = s
    rw [h a List.mem_cons_self]
    exact ih fun b hb => h b (List.mem_cons_of_mem _ hb)

/-- With no slip in progress nothing ends and nothing starts. -/
theorem settle_of_none {s : State} {f : FnId} (h : ∀ k < fnQueues s f, (s.queue f k).running = []) : settle s f = s := by
  refine overAll_fix fun _ _ => overAll_fix fun k hk => ?_
  rw [h k (List.mem_range.mp hk)]
  rfl

theorem fnQueues_pf_le (s : State) (p : Fin 8) : fnQueues s (.pf p) ≤ 16 := by
  unfold fnQueues
  dsimp only
  split <;> decide

theorem mailboxLoad_busy {p : Fin 8} {bs : List Byte} {s : State} (hb : s.bit (.CSQ_SS_STATE p) F.CSQ_SS_STATE_BUSY = true) :
    exec (.setStateMailboxLoad p bs) s = .next s := by
  show execSetStateMailboxLoad p bs s = _
  unfold execSetStateMailboxLoad
  dsimp only
  split
  · rfl
  · exact if_pos (Or.inl hb)

/-- Queue 0 of a PF has ended with the slip `e` and no queue of it has a slip in progress; memory, the ports and every register but the state of
the queue are as before. -/
structure Ended (s : State) (p : Fin 8) (e : RetSlip) (t : State) : Prop where
  running : ∀ k < 16, (t.queue (.pf p) k).running = []
  ended : (t.queue (.pf p) 0).ended = (s.queue (.pf p) 0).ended ++ [e]
  dram : t.dram = s.dram
  rd : ∀ r : Reg, r.key ≠ (Reg.QP_STATE (FnId.pf p).key 0).key → t.rd r = s.rd r
  port : ∀ k, t.port k = s.port k

theorem Ended.setQueue {s : State} {p : Fin 8} {e : RetSlip} (hk : ∀ k, 1 ≤ k → k < 16 → (s.queue (.pf p) k).running = []) {y : Queue}
    (hr : y.running = []) (he : y.ended = (s.queue (.pf p) 0).ended ++ [e]) : Ended s p e (s.setQueue (.pf p) 0 y) where
  running k h := by
    by_cases h0 : k = 0
    · rw [h0, State.queue_setQueue_self, hr]
    · rw [State.queue_setQueue_ne _ _ _ _ _ _ (by omega), hk k (by omega) h]
  ended := by rw [State.queue_setQueue_self, he]
  dram := rfl
  rd r _ := State.rd_setQueue ..
  port k := State.port_setQueue ..

theorem Ended.put {s t : State} {p : Fin 8} {e : RetSlip} (h : Ended s p e t) (f : Fld) (n : Nat) :
    Ended s p e (t.put (.QP_STATE (FnId.pf p).key 0) f n) where
  running := h.running
  ended := h.ended
  dram := h.dram
  rd r hr := (State.rd_put_ne hr ..).trans (h.rd r hr)
  port := h.port

/-- The one slip in progress of queue 0 ends. -/
theorem endSlip_only {s : State} {p : Fin 8} {x : Slip} (hx : (s.queue (.pf p) 0).running = [x])
    (hk : ∀ k, 1 ≤ k → k < 16 → (s.queue (.pf p) k).running = []) (st res fl : Nat) :
    Ended s p ⟨x.bits, x.index, st, res, fl, some x.seq, x.waits⟩ (s.endSlip (.pf p) 0 x.seq st res fl) := by
  have hl : [x].filter (fun y => y.seq != x.seq) = [] := by simp
  have hf : [x].find? (fun e => e.seq == x.seq) = some x := by simp
  unfold State.endSlip
  dsimp only
  rw [hx, hf]
  dsimp only
  rw [hl]
  split
  · exact (Ended.setQueue hk rfl rfl).put ..
  · exact .setQueue hk rfl rfl

/-- The state after CSQ_SS_DONE has freed the registers of a port. -/
def ssFreed (s : State) (p : Fin 8) : State := (s.put (.CSQ_SS_STATE p) F.CSQ_SS_STATE_BUSY 0).put (.CSQ_SS_STATE p) F.CSQ_SS_STATE_ORPHAN 0

theorem ssFreed_spec (s : State) (p : Fin 8) : (ssFreed s p).bit (.CSQ_SS_STATE p) F.CSQ_SS_STATE_BUSY = false ∧
    (ssFreed s p).bit (.CSQ_SS_STATE p) F.CSQ_SS_STATE_ORPHAN = false ∧ regsBut s (ssFreed s p) [.CSQ_SS_STATE p] := by
  refine ⟨?_, State.bit_put_self (by decide) (by decide) .., (regsBut_put _ _ _ _).trans (regsBut_put _ _ _ _)⟩
  rw [ssFreed, State.bit_put_apart (by decide) (by decide) (by decide), State.bit_put_self (by decide) (by decide)]
  rfl

theorem port_ssFreed (s : State) (p : Fin 8) : ((s.put (.CSQ_SS_STATE p) F.CSQ_SS_STATE_BUSY 0).put (.CSQ_SS_STATE p) F.CSQ_SS_STATE_ORPHAN 0).port p =
    s.port p := rfl

section Done
variable {who : Agent} {p : Fin 8} {v : Word} {s : State} (hw : s.isHouse who = true) (hb : s.bit (.CSQ_SS_STATE p) F.CSQ_SS_STATE_BUSY = true)
include hw hb

theorem not_idle_mailbox : ¬ (¬ s.isHouse who = true ∨ ¬ s.bit (.CSQ_SS_STATE p) F.CSQ_SS_STATE_BUSY = true) := by
  rw [hw, hb]
  decide

theorem ssDone_of_none (hm : (s.port p).mailbox = none) : exec (.csqSsDoneWrite who p v) s = .next (ssFreed s p) := by
  refine (if_neg (not_idle_mailbox hw hb)).trans ?_
  rw [port_ssFreed, hm]
  rfl

theorem ssDone_of_some {x : Slip} (hm : (s.port p).mailbox = some (.pf p, 0, x.seq)) (h0 : F.CSQ_SS_DONE_STATUS.get v = 0) :
    exec (.csqSsDoneWrite who p v) s = .next (settle (((ssFreed s p).setPort p { (ssFreed s p).port p with mailbox := none }).endSlip (.pf p) 0
      x.seq 0 (F.CSQ_SS_DONE_RESULT.get v) 0) (.pf p)) := by
  refine (if_neg (not_idle_mailbox hw hb)).trans ?_
  rw [port_ssFreed, hm, h0]
  rfl

theorem csqSsDone_some {x : Slip} (hm : (s.port p).mailbox = some (.pf p, 0, x.seq)) (hx : (s.queue (.pf p) 0).running = [x])
    (hk : ∀ k, 1 ≤ k → k < 16 → (s.queue (.pf p) k).running = []) (h0 : F.CSQ_SS_DONE_STATUS.get v = 0) :
    ∃ t, exec (.csqSsDoneWrite who p v) s = .next t ∧ t.bit (.CSQ_SS_STATE p) F.CSQ_SS_STATE_BUSY = false ∧ (t.port p).mailbox = none ∧
      (t.queue (.pf p) 0).running = [] ∧
      (t.queue (.pf p) 0).ended = (s.queue (.pf p) 0).ended ++ [⟨x.bits, x.index, 0, F.CSQ_SS_DONE_RESULT.get v, 0, some x.seq, x.waits⟩] ∧
      t.dram = s.dram := by
  refine ⟨_, ssDone_of_some hw hb hm h0, ?_⟩
  have hf := (ssFreed_spec s p).1
  have hqu : ∀ k, (ssFreed s p).queue (.pf p) k = s.queue (.pf p) k := fun _ => rfl
  have hd : (ssFreed s p).dram = s.dram := rfl
  generalize ssFreed s p = u at hf hqu hd
  generalize hy : u.setPort p { u.port p with mailbox := none } = y
  have hyq : ∀ k, y.queue (.pf p) k = s.queue (.pf p) k := fun k => by rw [← hy, State.queue_setPort, hqu]
  have he := endSlip_only (s := y) (by rw [hyq, hx]) (fun k h1 h2 => by rw [hyq, hk k h1 h2]) 0 (F.CSQ_SS_DONE_RESULT.get v) 0
  rw [settle_of_none fun k h => he.running k (Nat.lt_of_lt_of_le h (fnQueues_pf_le _ p))]
  refine ⟨?_, ?_, he.running 0 (by decide), by rw [he.ended, hyq], by rw [he.dram, ← hy]; exact hd⟩
  · rw [State.bit, State.get, he.rd _ (by rw [key_ssState, key_qpState]; omega), ← hy, State.rd_setPort]
    exact hf
  · rw [he.port, ← hy, State.port_setPort_self]

end Done

/-! ### The buffer and the injection (R372) -/

theorem csqSsBuf_spec {who : Agent} (p : Fin 8) (v : Word) {s : State} (hw : s.isHouse who = true) :
    ∃ t, exec (.csqSsBufWrite who p v) s = .next t ∧ t.get (.CSQ_SS_BUF p) F.CSQ_SS_BUF_BASE = F.CSQ_SS_BUF_BASE.get v ∧
      (t.bit (.CSQ_SS_BUF p) F.CSQ_SS_BUF_VALID = true ↔ ∃ w, windowAt s (64 * F.CSQ_SS_BUF_BASE.get v) = some w ∧ w.kind = 0 ∧
        w.mask.testBit 0 = true ∧ 64 * F.CSQ_SS_BUF_BASE.get v + 2 ^ 20 ≤ w.base + w.size) ∧
      regsBut s t [.CSQ_SS_BUF p] ∧ t = { s with regs := t.regs } := by
  refine ⟨_, if_neg (by rw [hw]; decide), ?_, ?_, (regsBut_put _ _ _ _).trans (regsBut_put _ _ _ _), rfl⟩
  · rw [State.get_put_apart (by decide) (by decide) (by decide), State.get_put_self (by decide) (by decide)]
    exact Nat.mod_eq_of_lt (Fld.get_lt ..)
  · rw [State.bit_put_self (by decide) (by decide)]
    cases windowAt s (64 * F.CSQ_SS_BUF_BASE.get v) with
    | none => simp
    | some w =>
      have hone (c : Prop) [Decidable c] : (if c then 1 else 0) % 2 = 1 ↔ c := by split <;> simp [*]
      simpa [and_assoc] using hone _

theorem csq_of_stranger {who : Agent} (p : Fin 8) (v : Word) {s : State} (hw : s.isHouse who = false) :
    exec (.csqSsBufWrite who p v) s = .next s ∧ exec (.csqSsDoneWrite who p v) s = .next s ∧
    exec (.csqInjectPoison who v) s = .next s ∧ exec (.csqInjectLost who v) s = .next s := by
  have hn : ¬ s.isHouse who = true := by rw [hw]; decide
  have hi : csqInject s who v = s := if_neg hn
  exact ⟨if_pos hn, if_pos (Or.inl hn), congrArg Host.Outcome.next hi, congrArg Host.Outcome.next hi⟩

theorem csqInject_of_house {who : Agent} (v : Word) {s : State} (hw : s.isHouse who = true) :
    exec (.csqInjectPoison who v) s = .next (s.wr .CSQ_INJECT (Reg.CSQ_INJECT.written (s.rd .CSQ_INJECT) v)) ∧
    exec (.csqInjectLost who v) s = .next (s.wr .CSQ_INJECT (Reg.CSQ_INJECT.written (s.rd .CSQ_INJECT) v)) :=
  have hi : csqInject s who v = s.wr .CSQ_INJECT (Reg.CSQ_INJECT.written (s.rd .CSQ_INJECT) v) := if_pos hw
  ⟨congrArg Host.Outcome.next hi, congrArg Host.Outcome.next hi⟩

/-- Settles O44, by the slip that enters the mailbox with and without a payload, and by the writes of the mailbox's registers. -/
theorem setStateMailbox : Obligations.SetStateMailbox := by
  unfold Obligations.SetStateMailbox
  refine ⟨fun p bs x s hbs hx hk ho hst hmay hlen hb hm => ?_, fun p bs x s hbs hx hk ho hst hmay hlen hb hm => ?_,
    fun p q x s hq hm hb ho hf => ?_, fun p bs s hb => mailboxLoad_busy hb, fun who p v s hw hb hm => ?_,
    fun who p v x s hw hb hm hx hk h0 => csqSsDone_some hw hb hm hx hk h0, fun who p v s hw => csqSsBuf_spec p v hw,
    fun who p v s hw => csq_of_stranger p v hw, fun who v s hw => csqInject_of_house v hw⟩
  · have he := mailboxLoad_eq hx hk ho hst hmay hlen hb hm
    rw [if_neg (by simpa using hbs)] at he
    obtain ⟨im, ir, iq, ip, id⟩ := inMailbox_spec hx
    have ht := pointsOnly_putTransfers (inMailbox s p x) 24
      (wrBytes 24 0 (txnOf 4 p) ((inMailbox s p x).get (.CSQ_SS_BUF p) F.CSQ_SS_BUF_BASE * 64) bs)
    refine ⟨_, he, ?_, ?_, ?_, fun k hk => (ht.port k).trans (ip k hk), ht.dram.trans id⟩
    · rw [ht.port, im]
    · rw [State.bit, State.get, ht.rd, ir]
      exact hb
    · rw [ht.queue, iq]
  · have he := mailboxLoad_eq hx hk ho hst hmay hlen hb hm
    rw [if_pos (by simpa using hbs)] at he
    obtain ⟨im, ir, iq, ip, id⟩ := inMailbox_spec hx
    obtain ⟨lb, lq, ls, lt, lr⟩ := mailboxLoaded_spec (inMailbox s p x) p (q := 0) (by decide) x.bits
    have htl : (inMailbox s p x).tally (32 + p.val) = s.tally (32 + p.val) := congrArg (Fld.get _) (ir _)
    rw [htl] at lt
    refine ⟨_, he, lb, lq, ls, lt, ?_⟩
    rw [lr]
    exact ⟨im, ip, id⟩
  · rw [payloadEntered_spec hm hb ho hf]
    exact mailboxLoaded_spec s p hq x.bits
  · obtain ⟨hf, ho, hr⟩ := ssFreed_spec s p
    exact ⟨_, ssDone_of_none hw hb hm, hf, ho, hr, rfl⟩

end Sys2Proof.Machine
end

section
/-! SUPPORT. The Archivist's services (R399). -/

namespace Sys2Proof.Machine

/-! ### Results of calls (R399, R402) -/

/-- A word that a list names once is the word that the table built from it holds. -/
theorem get?_foldl_set {l : List (Nat × Word)} (hn : (l.map Prod.fst).Nodup) {k : Nat} {v : Word} (h : (k, v) ∈ l) (m : NMap Word) :
    (l.foldl (fun m e => m.set e.1 e.2) m).get? k = some v := by
  have hkeep : ∀ (l : List (Nat × Word)) (m : NMap Word), k ∉ l.map Prod.fst →
      (l.foldl (fun m e => m.set e.1 e.2) m).get? k = m.get? k := by
    intro l
    induction l with
    | nil => exact fun _ _ => rfl
    | cons e l ih =>
      intro m hk
      rw [List.map_cons, List.mem_cons, not_or] at hk
      exact (ih _ hk.2).trans (NMap.get?_set_ne _ _ _ _ hk.1)
  induction l generalizing m with
  | nil => exact absurd h List.not_mem_nil
  | cons e l ih =>
    rw [List.map_cons, List.nodup_cons] at hn
    rcases List.mem_cons.mp h with rfl | h
    · exact (hkeep l _ hn.1).trans (NMap.get?_set_self ..)
    · exact ih hn.2 h _

/-- The table of the words that a call's result lists. -/
def wordTable (l : List (Nat × Word)) : NMap Word := l.foldl (fun m e => m.set e.1 e.2) []

theorem get?_wordTable {l : List (Nat × Word)} (hn : (l.map Prod.fst).Nodup) {k : Nat} {v : Word} (h : (k, v) ∈ l) :
    (wordTable l).get? k = some v := get?_foldl_set hn h _

theorem finishCall_of_serving {s : State} {k : Nat} {v : Serving} (h : serving s k = some v) (st keep : Nat) (ws : List (Nat × Word)) :
    finishCall s k st keep ws = setServing s k { v with
      lines := [], due := [], result := some ⟨st, keep, wordTable ws⟩ } := by
  unfold finishCall
  simp only [h]
  rfl

theorem finishCall_of_none {s : State} {k : Nat} (h : serving s k = none) (st keep : Nat) (ws : List (Nat × Word)) :
    finishCall s k st keep ws = s := by
  unfold finishCall
  simp only [h]

theorem serving_finishCall {s : State} {k : Nat} {v : Serving} (h : serving s k = some v) (st keep : Nat) (ws : List (Nat × Word)) :
    serving (finishCall s k st keep ws) k = some { v with
      lines := [], due := [], result := some ⟨st, keep, wordTable ws⟩ } := by
  rw [finishCall_of_serving h, serving_setServing]

theorem serving_finishCall_ne {j k : Nat} (h : j ≠ k) (s : State) (st keep : Nat) (ws : List (Nat × Word)) :
    serving (finishCall s k st keep ws) j = serving s j := by
  unfold finishCall
  split
  · rfl
  · exact NMap.get?_set_ne _ _ _ _ h

/-- Of the Archivist's state a result changes the calls alone. -/
theorem finishCall_rest (s : State) (k st keep : Nat) (ws : List (Nat × Word)) :
    finishCall s k st keep ws = { s with arc := { s.arc with serving := (finishCall s k st keep ws).arc.serving } } := by
  unfold finishCall
  split <;> rfl

theorem serving_of_active {s : State} {k svc : Nat} {v : Serving} (h : active s k svc = some v) : serving s k = some v ∧ v.result = none ∧
    carrelState s k = 2 ∧ s.get (.ARC_CTL k) F.ARC_CTL_SERVICE = svc := by
  unfold active at h
  split at h
  next w hw =>
    split at h
    next hc =>
      obtain rfl := Option.some.inj h
      exact ⟨hw, Option.isNone_iff_eq_none.mp hc.1, hc.2⟩
    next => exact absurd h (by simp)
  next => exact absurd h (by simp)

theorem active_of_serving {s : State} {k svc : Nat} {v : Serving} (h : serving s k = some v) (hr : v.result = none) (hc : carrelState s k = 2)
    (hs : s.get (.ARC_CTL k) F.ARC_CTL_SERVICE = svc) : active s k svc = some v := by
  unfold active
  simp only [h]
  exact if_pos ⟨by rw [hr]; rfl, hc, hs⟩

theorem active_of_none {s : State} {k : Nat} (h : serving s k = none) (svc : Nat) : active s k svc = none := by
  unfold active
  simp only [h]

section Ranges
variable {s : State} {k addr len : Nat} {v : Serving} {f : State → List Byte → State}

theorem withRange_ask (h : v.asked = false) : withRange s k v addr len f = askLines s k v addr len := if_pos (by rw [h]; rfl)

theorem withRange_read (h : v.asked = true) (hd : v.due = []) (hp : v.lines.any (fun e => e.2.2) = false) :
    withRange s k v addr len f = f s (readBytes v.lines addr len) :=
  (if_neg (by rw [h]; decide)).trans ((if_neg fun hn => hn hd).trans (if_neg (by rw [hp]; decide)))

end Ranges

theorem pointsOnly.arc {s t : State} (h : pointsOnly s t) : t.arc = s.arc := by rw [h]

theorem askLines_spec (s : State) (k : Nat) (v : Serving) (addr len : Nat) :
    serving (askLines s k v addr len) k = some { v with asked := true, due := (lineParts addr len).map (·.1) } ∧
      (askLines s k v addr len).regs = s.regs ∧ (askLines s k v addr len).dram = s.dram := by
  have h := pointsOnly_putTransfers (setServing s k { v with asked := true, due := (lineParts addr len).map (·.1) }) 25
    (((lineParts addr len).map (·.1)).map (fun l => engMsg 25 .rdOnce 0 l (txnOf 5 k)))
  have ha : askLines s k v addr len = putTransfers (setServing s k { v with asked := true, due := (lineParts addr len).map (·.1) }) 25
    (((lineParts addr len).map (·.1)).map (fun l => engMsg 25 .rdOnce 0 l (txnOf 5 k))) := rfl
  rw [← ha] at h
  refine ⟨?_, by rw [h]; rfl, by rw [h.dram]; rfl⟩
  rw [serving, h.arc]
  exact serving_setServing s k _

/-! ### The services (R399) -/

theorem randomWords_eq (n w : Nat) (s : State) : randomWords n w s =
    ((List.range n).map (fun i => (w + i, Config.freeWord (s.free + i))), { s with free := s.free + n }) := by
  induction n generalizing w s with
  | zero => rfl
  | succ n ih =>
    rw [randomWords, ih]
    simp only [List.range_succ_eq_map, List.map_cons, List.map_map, Prod.mk.injEq, List.cons.injEq]
    refine ⟨⟨⟨rfl, rfl⟩, List.map_congr_left fun i _ => ?_⟩, ?_⟩
    · simp only [State.fresh, Function.comp, Nat.succ_eq_add_one, Prod.mk.injEq]
      exact ⟨by omega, by congr 1; omega⟩
    · simp only [State.fresh]
      congr 1
      omega

section Services
variable {k : Fin 64} {v : Serving} {s : State}

theorem info_spec (h : active s k 1 = some v) :
    ∃ t r, exec (.info k) s = .next t ∧ serving t k = some { v with lines := [], due := [], result := some r } ∧ r.status = 0 ∧
      r.keep = keepRange 2 17 ∧ r.words.get? 2 = some s.arc.version ∧ r.words.get? 4 = some (BitVec.ofNat 64 (floorOf s.arc.floors)) ∧
      r.words.get? 5 = some (BitVec.ofNat 64 (floorOf s.arc.fwFloors)) ∧
      (∀ i, i < 6 → r.words.get? (6 + i) = some (digestWord Config.attestPublic.1 i) ∧
        r.words.get? (12 + i) = some (digestWord Config.attestPublic.2 i)) ∧ t = { s with arc := t.arc } := by
  generalize hl : [(2, s.arc.version), (3, BitVec.ofNat 64 (s.arc.rootRevoke % 16 + s.arc.fwRevoke % 4 * 2 ^ 8)),
      (4, BitVec.ofNat 64 (floorOf s.arc.floors)), (5, BitVec.ofNat 64 (floorOf s.arc.fwFloors))]
    ++ (List.range 6).map (fun i => (6 + i, digestWord Config.attestPublic.1 i)) ++
      (List.range 6).map (fun i => (12 + i, digestWord Config.attestPublic.2 i)) = l
  have hx : exec (.info k) s = .next (finishCall s k 0 (keepRange 2 17) l) := by
    show execInfo k s = _
    unfold execInfo
    simp only [h, ← hl]
  have hn : (l.map Prod.fst).Nodup := by
    rw [← hl, show List.map Prod.fst _ = [2, 3, 4, 5, 6, 7, 8, 9, 10, 11, 12, 13, 14, 15, 16, 17] from rfl]
    decide
  have hw : ∀ {k v}, (k, v) ∈ l → (wordTable l).get? k = some v := fun h => get?_wordTable hn h
  have hi : ∀ i < 6, i ∈ List.range 6 := fun i hi => List.mem_range.mpr hi
  refine ⟨_, _, hx, serving_finishCall (serving_of_active h).1 .., rfl, rfl, hw ?_, hw ?_, hw ?_, fun i h6 => ⟨hw ?_, hw ?_⟩, ?_⟩
  · rw [← hl]
    simp
  · rw [← hl]
    simp
  · rw [← hl]
    simp
  · rw [← hl]
    exact List.mem_append_left _ (List.mem_append_right _ (List.mem_map_of_mem (hi i h6)))
  · rw [← hl]
    exact List.mem_append_right _ (List.mem_map_of_mem (hi i h6))
  · rw [finishCall_rest]

theorem entropy_spec (h : active s k 2 = some v) (h1 : 1 ≤ arg s k 2) (h29 : arg s k 2 ≤ 29) : ∃ t r, exec (.entropy k) s = .next t ∧
    serving t k = some { v with lines := [], due := [], result := some r } ∧ r.status = 0 ∧
    (∀ i, i < arg s k 2 → r.words.get? (3 + i) = some (Config.freeWord (s.free + i))) ∧ t.free = s.free + arg s k 2 ∧
    t = { s with arc := t.arc, free := t.free } := by
  generalize hl : (2, BitVec.ofNat 64 (arg s k 2)) :: (List.range (arg s k 2)).map (fun i => (3 + i, Config.freeWord (s.free + i))) = l
  have hx : exec (.entropy k) s = .next (finishCall { s with free := s.free + arg s k 2 } k 0 (keepRange 2 (2 + arg s k 2)) l) := by
    show execEntropy k s = _
    unfold execEntropy
    simp only [h, randomWords_eq, hl]
    exact if_neg (by omega)
  have hn : (l.map Prod.fst).Nodup := by
    rw [← hl, List.map_cons, List.map_map, List.nodup_cons]
    refine ⟨?_, List.nodup_range.map fun a b hab => by simpa using hab⟩
    rw [List.mem_map]
    rintro ⟨i, -, hi⟩
    simp only [Function.comp] at hi
    omega
  have hs : serving { s with free := s.free + arg s k 2 } k = some v := (serving_of_active h).1
  refine ⟨_, _, hx, serving_finishCall hs .., rfl, fun i hi => get?_wordTable hn ?_, by rw [finishCall_rest], by rw [finishCall_rest]⟩
  rw [← hl]
  exact List.mem_cons_of_mem _ (List.mem_map_of_mem (List.mem_range.mpr hi))

theorem entropy_bad (h : active s k 2 = some v) (hn : arg s k 2 = 0 ∨ 29 < arg s k 2) : exec (.entropy k) s = .next (endCall s k 3) := by
  show execEntropy k s = _
  unfold execEntropy
  simp only [h]
  exact if_pos hn

theorem measure_eq (h : active s k 3 = some v) (hb : arg s k 2 % 64 = 0) (hn : arg s k 3 % 64 = 0) (hm : arg s k 3 ≤ 0x1000000)
    (hc : callerRange s k (arg s k 2) (arg s k 3) false = true) : exec (.measure k) s =
      .next (withRange s k v (arg s k 2) (arg s k 3) (fun s bs =>
        finishCall s k 0 (keepRange 2 7) ((List.range 6).map (fun i => (2 + i, digestWord (Config.sha384 bs) i))))) := by
  show execMeasure k s = _
  unfold execMeasure
  simp only [h]
  exact if_neg (by rw [hc]; simp; omega)

theorem attest_spec (h : active s k 4 = some v) :
    ∃ t r, exec (.attest k) s = .next t ∧ serving t k = some { v with lines := [], due := [], result := some r } ∧ r.status = 0 ∧
      (∀ i, i < 6 → r.words.get? (2 + i) = some (s.rd (.ARC_DATA k (2 + i))) ∧ r.words.get? (8 + i) = some (s.rd (.FOL_DIGEST i))) ∧
      r.words.get? 15 = some s.arc.version ∧ t = { s with arc := t.arc } := by
  generalize hg : Config.ecdsaSign (Config.sha384 ((attestWords s k).flatMap (fun e => leBytes 8 e.2.toNat))) = sig
  generalize hl : attestWords s k ++ (List.range 6).map (fun i => (16 + i, digestWord sig.1 i)) ++
    (List.range 6).map (fun i => (22 + i, digestWord sig.2 i)) = l
  have hx : exec (.attest k) s = .next (finishCall s k 0 (keepRange 2 27) l) := by
    show execAttest k s = _
    unfold execAttest
    simp only [h, hg, hl]
  have hn : (l.map Prod.fst).Nodup := by
    rw [← hl, show List.map Prod.fst _ = [2, 3, 4, 5, 6, 7, 8, 9, 10, 11, 12, 13, 14, 15, 16, 17, 18, 19, 20, 21, 22, 23, 24, 25, 26, 27] from rfl]
    decide
  have hw : ∀ {j w}, (j, w) ∈ attestWords s k → (wordTable l).get? j = some w := fun h =>
    get?_wordTable hn (hl ▸ List.mem_append_left _ (List.mem_append_left _ h))
  have hi : ∀ i < 6, i ∈ List.range 6 := fun i hi => List.mem_range.mpr hi
  refine ⟨_, _, hx, serving_finishCall (serving_of_active h).1 .., rfl, fun i h6 => ⟨hw ?_, hw ?_⟩, hw ?_, by rw [finishCall_rest]⟩
  · exact List.mem_append_left _ (List.mem_append_left _ (List.mem_map_of_mem (hi i h6)))
  · exact List.mem_append_left _ (List.mem_append_right _ (List.mem_map_of_mem (hi i h6)))
  · exact List.mem_append_right _ (List.mem_cons_of_mem _ List.mem_cons_self)

/-- The vault with a record in the place of the one of its owner and slot. -/
def vaultStored (s : State) (r : VaultRec) : State :=
  { s with arc := { s.arc with vault := s.arc.vault.filter (fun x => !(x.owner == r.owner && x.slot == r.slot)) ++ [r] } }

theorem vaultRec_replaced (l : List VaultRec) (r : VaultRec) :
    (l.filter (fun x => !(x.owner == r.owner && x.slot == r.slot)) ++ [r]).find? (fun x => x.owner == r.owner && x.slot == r.slot) = some r := by
  rw [List.find?_append, List.find?_eq_none.mpr fun x hx => by
    have h := (List.mem_filter.mp hx).2
    rw [Bool.not_eq_true'] at h
    rw [h]
    decide]
  simp

theorem vaultRec_others (l : List VaultRec) (r : VaultRec) {h id : Nat} (hne : (h, id) ≠ (r.owner, r.slot)) :
    (l.filter (fun x => !(x.owner == r.owner && x.slot == r.slot)) ++ [r]).find? (fun x => x.owner == h && x.slot == id) =
      l.find? (fun x => x.owner == h && x.slot == id) := by
  have hr : ¬ (r.owner = h ∧ r.slot = id) := fun hc => hne (Prod.ext hc.1.symm hc.2.symm)
  have hone : [r].find? (fun x => x.owner == h && x.slot == id) = none := by simpa using hr
  rw [List.find?_append, List.find?_filter, hone, Option.or_none]
  congr 1
  funext x
  by_cases hx : x.owner = h ∧ x.slot = id
  · have hxr : ¬ (x.owner = r.owner ∧ x.slot = r.slot) := fun hc => hr ⟨hc.1.symm.trans hx.1, hc.2.symm.trans hx.2⟩
    simpa [hx.1, hx.2] using not_and_or.mp hxr
  · have h0 : (x.owner == h && x.slot == id) = false := by simpa [not_and_or] using hx
    rw [h0]
    simp

theorem vaultPut_spec (h : active s k 0x10 = some v) (h64 : 64 ≤ arg s k 4) (hm : arg s k 4 ≤ 0x10000) (hn : arg s k 4 % 64 = 0)
    (hc : callerRange s k (arg s k 3) (arg s k 4) false = true) (ha : v.asked = true) (hd : v.due = [])
    (hp : v.lines.any (fun e => e.2.2) = false) :
    ∃ t, exec (.vaultPut k) s = .next t ∧ serving t k = some { v with lines := [], due := [], result := some ⟨0, 0, []⟩ } ∧
      vaultRec t ((caller s k).getD 0) (arg s k 2) =
        some ⟨(caller s k).getD 0, arg s k 2, readBytes v.lines (arg s k 3) (arg s k 4)⟩ ∧
      (∀ h id, (h, id) ≠ ((caller s k).getD 0, arg s k 2) → vaultRec t h id = vaultRec s h id) ∧ t = { s with arc := t.arc } := by
  have hx : exec (.vaultPut k) s = .next (endCall (vaultStored s ⟨(caller s k).getD 0, arg s k 2, readBytes v.lines (arg s k 3) (arg s k 4)⟩) k 0) := by
    show execVaultPut k s = _
    unfold execVaultPut
    simp only [h]
    refine (if_neg (by rw [hc]; simp; omega)).trans ?_
    rw [withRange_read ha hd hp]
    rfl
  generalize hr : VaultRec.mk ((caller s k).getD 0) (arg s k 2) (readBytes v.lines (arg s k 3) (arg s k 4)) = r at hx
  have ho : (caller s k).getD 0 = r.owner := by rw [← hr]
  have hi : arg s k 2 = r.slot := by rw [← hr]
  have hv : ∀ h id, vaultRec (endCall (vaultStored s r) k 0) h id = vaultRec (vaultStored s r) h id := fun h id => by
    rw [vaultRec, endCall, finishCall_rest, vaultRec]
  have hs : serving (vaultStored s r) k = some v := (serving_of_active h).1
  refine ⟨_, hx, serving_finishCall hs .., ?_, fun h id hne => ?_, by rw [endCall, finishCall_rest]; rfl⟩
  · rw [hv, ho, hi]
    exact vaultRec_replaced ..
  · rw [hv]
    exact vaultRec_others _ r (by rw [← ho, ← hi]; exact hne)

theorem vaultGet_none (h : active s k 0x11 = some v) (hr : (caller s k).bind (fun h => vaultRec s h (arg s k 2)) = none) :
    exec (.vaultGet k) s = .next (endCall s k 3) := by
  show execVaultGet k s = _
  unfold execVaultGet
  simp only [h, hr]

theorem vaultGet_spec {r : VaultRec} (h : active s k 0x11 = some v) (hr : (caller s k).bind (fun h => vaultRec s h (arg s k 2)) = some r)
    (hl : r.data.length ≤ arg s k 4) (hc : callerRange s k (arg s k 3) r.data.length true = true) (ha : v.asked = true) (hd : v.due = []) :
    exec (.vaultGet k) s = .next (finishCall s k 0 (keepRange 2 2) [(2, BitVec.ofNat 64 r.data.length)]) := by
  show execVaultGet k s = _
  unfold execVaultGet
  simp only [h, hr]
  exact (if_neg (by rw [hc]; simp; omega)).trans ((if_neg (by rw [ha]; decide)).trans (if_neg fun hn => hn hd))

theorem floorRaise_spec (h : active s k 0x20 = some v) (hh : houseCall s k = true) (hf : floorOf s.arc.floors < arg s k 2)
    (hs : arg s k 2 ≤ (s.rd .FOL_SERIAL).toNat) (hv : s.bit .ARC_STATUS F.ARC_STATUS_VPP = true) (hl : s.arc.floors.length < 8) :
    exec (.floorRaise k) s = .next (endCall { s with arc := { s.arc with floors := s.arc.floors ++ [arg s k 2] } } k 0) := by
  show execFloorRaise k s = _
  unfold execFloorRaise
  simp only [h]
  refine (if_neg (by rw [hh]; decide)).trans ((if_neg (by omega)).trans ((if_neg (by rw [hv]; simp)).trans (if_neg (by omega))))

theorem floorRaise_denied (h : active s k 0x20 = some v) (hh : houseCall s k = false) : exec (.floorRaise k) s = .next (endCall s k 2) := by
  show execFloorRaise k s = _
  unfold execFloorRaise
  simp only [h]
  exact if_pos (by rw [hh]; rfl)

theorem slotWrite_eq (h : active s k 0x22 = some v) (hh : houseCall s k = true) (hc : callerRange s k (arg s k 2) (arg s k 3) false = true)
    (ha : v.asked = true) (hd : v.due = []) (hp : v.lines.any (fun e => e.2.2) = false) :
    let bs := readBytes v.lines (arg s k 2) (arg s k 3)
    let code := codeOf (imageBad s bs false (arg s k 3))
    exec (.slotWrite k) s = .next (finishCall
      (if code = 0 then { s with arc := { s.arc with flash := s.arc.flash.set (3 - s.get .FOL_STATE F.FOL_STATE_SLOT) bs } } else s)
      k 0 (keepRange 2 2) [(2, BitVec.ofNat 64 code)]) := by
  show execSlotWrite k s = _
  unfold execSlotWrite
  simp only [h]
  refine (if_neg (by rw [hh]; decide)).trans ((if_neg (by rw [hc]; simp)).trans ?_)
  rw [withRange_read ha hd hp]

theorem slotWrite_spec (h : active s k 0x22 = some v) (hh : houseCall s k = true) (hc : callerRange s k (arg s k 2) (arg s k 3) false = true)
    (ha : v.asked = true) (hd : v.due = []) (hp : v.lines.any (fun e => e.2.2) = false) :
    ∃ t, exec (.slotWrite k) s = .next t ∧
      (let bs := readBytes v.lines (arg s k 2) (arg s k 3)
       let code := codeOf (imageBad s bs false (arg s k 3))
       serving t k = some { v with lines := [], due := [], result := some ⟨0, 1, [(2, BitVec.ofNat 64 code)]⟩ } ∧
       t.arc.flash = (if code = 0 then s.arc.flash.set (3 - s.get .FOL_STATE F.FOL_STATE_SLOT) bs else s.arc.flash)) ∧
      t = { s with arc := t.arc } := by
  refine ⟨_, slotWrite_eq h hh hc ha hd hp, ?_⟩
  dsimp only
  generalize readBytes v.lines (arg s k 2) (arg s k 3) = bs
  generalize hk : codeOf (imageBad s bs false (arg s k 3)) = code
  have hs := (serving_of_active h).1
  by_cases h0 : code = 0
  · rw [if_pos h0, if_pos h0]
    generalize hu : { s with arc := { s.arc with flash := s.arc.flash.set (3 - s.get .FOL_STATE F.FOL_STATE_SLOT) bs } } = u
    have hus : serving u k = some v := hu ▸ hs
    exact ⟨⟨serving_finishCall hus .., by rw [finishCall_rest, ← hu]⟩, by rw [finishCall_rest, ← hu]⟩
  · rw [if_neg h0, if_neg h0]
    exact ⟨⟨serving_finishCall hs .., by rw [finishCall_rest]⟩, by rw [finishCall_rest]⟩

theorem watermark_denied (h : active s k 0x21 = some v) (ha : v.asked = false)
    (hd : houseCall s k = false ∨ s.bit .ARC_VAULT F.ARC_VAULT_LOCK = true) : exec (.watermark k) s = .next (endCall s k 2) := by
  show execWatermark k s = _
  unfold execWatermark
  simp only [h]
  exact (if_neg (by rw [ha]; decide)).trans (if_pos (by rcases hd with hd | hd <;> simp [hd]))

end Services

/-- A call that nothing serves is left alone by every service. -/
theorem service_of_none {k : Fin 64} {s : State} (h : serving s k = none) : ∀ i ∈ [Instr.info k, .entropy k, .measure k, .attest k, .vaultPut k,
    .vaultGet k, .floorRaise k, .watermark k, .slotWrite k], exec i s = .next s := by
  have hi : execInfo k s = .next s := by unfold execInfo; simp only [active_of_none h]
  have he : execEntropy k s = .next s := by unfold execEntropy; simp only [active_of_none h]
  have hm : execMeasure k s = .next s := by unfold execMeasure; simp only [active_of_none h]
  have ha : execAttest k s = .next s := by unfold execAttest; simp only [active_of_none h]
  have hp : execVaultPut k s = .next s := by unfold execVaultPut; simp only [active_of_none h]
  have hg : execVaultGet k s = .next s := by unfold execVaultGet; simp only [active_of_none h]
  have hf : execFloorRaise k s = .next s := by unfold execFloorRaise; simp only [active_of_none h]
  have hw : execWatermark k s = .next s := by unfold execWatermark; simp only [active_of_none h]
  have hs : execSlotWrite k s = .next s := by unfold execSlotWrite; simp only [active_of_none h]
  simp only [List.forall_mem_cons]
  exact ⟨hi, he, hm, ha, hp, hg, hf, hw, hs, fun _ h => absurd h List.not_mem_nil⟩

/-- Settles O49, by the words that each service leaves in the result of its call. -/
theorem carrelServices : Obligations.CarrelServices := by
  unfold Obligations.CarrelServices
  refine ⟨fun k v s => info_spec, fun k v s h => ⟨entropy_spec h, entropy_bad h⟩,
    fun k v s h hb hn hm hc => ⟨fun ha hd hp => ?_, fun ha => ?_⟩, fun k v s => attest_spec, fun k v s => vaultPut_spec,
    fun k v s h => ⟨fun r hr hl hc ha hd => ?_, vaultGet_none h⟩, fun k v s h => ⟨fun hh hf hs hv hl => ?_, floorRaise_denied h⟩,
    fun k v s => slotWrite_spec, fun k v s => watermark_denied, fun k s => service_of_none⟩
  · refine ⟨_, _, (measure_eq h hb hn hm hc).trans (congrArg _ (withRange_read ha hd hp)), serving_finishCall (serving_of_active h).1 .., rfl,
      fun i hi => get?_wordTable ?_ (List.mem_map_of_mem (List.mem_range.mpr hi)), by rw [finishCall_rest]⟩
    rw [show List.map Prod.fst _ = [2, 3, 4, 5, 6, 7] from rfl]
    decide
  · exact ⟨_, (measure_eq h hb hn hm hc).trans (congrArg _ (withRange_ask ha)), askLines_spec ..⟩
  · exact ⟨_, vaultGet_spec h hr hl hc ha hd, serving_finishCall (serving_of_active h).1 .., by rw [finishCall_rest]⟩
  · have hs' : serving { s with arc := { s.arc with floors := s.arc.floors ++ [arg s k 2] } } k = some v := (serving_of_active h).1
    exact ⟨_, floorRaise_spec h hh hf hs hv hl, by rw [endCall, finishCall_rest], serving_finishCall hs' .., by rw [endCall, finishCall_rest]⟩

end Sys2Proof.Machine
end

section
/-! SUPPORT. The watermark's call and switch, and the tamper event (R395 to R397, R406). -/

namespace Sys2Proof.Machine

/-! ### The watermark (R395 to R397) -/

theorem key_arcVault : Reg.ARC_VAULT.key = 0xF00007005010 := rfl

theorem rd_finishCall (s : State) (k st keep : Nat) (ws : List (Nat × Word)) (r : Reg) : (finishCall s k st keep ws).rd r = s.rd r := by
  rw [finishCall_rest]
  rfl

/-- The lines of a range of GiB that are zeroed leave every register, the Archivist and memory as they are. -/
theorem pointsOnly_zeroGiB (s : State) (a b id : Nat) : pointsOnly s (zeroGiB s a b id) := pointsOnly_putTransfers ..

theorem watermark_spec {k : Fin 64} {v : Serving} {s : State} (h : active s k 0x21 = some v) (ha : v.asked = false) (hh : houseCall s k = true)
    (hl : s.bit .ARC_VAULT F.ARC_VAULT_LOCK = false) (hw : watermarkOk s (arg s k 2) = true) (hp : s.arc.wmPend = none) :
    ∃ t, exec (.watermark k) s = .next t ∧ t.arc.wmPend = some (arg s k 2) ∧
      t.arc.zeroLeft = (max (watermarkNow s) (arg s k 2) - min (watermarkNow s) (arg s k 2)) * 2 ^ 24 ∧
      serving t k = some { v with asked := true } ∧ watermarkNow t = watermarkNow s ∧ t.regs = s.regs ∧ t.dram = s.dram := by
  generalize hu : { setServing s k { v with asked := true } with arc := { (setServing s k { v with asked := true }).arc with
    wmPend := some (arg s k 2), zeroLeft := (max (watermarkNow s) (arg s k 2) - min (watermarkNow s) (arg s k 2)) * 2 ^ 24 } } = u
  have hx : exec (.watermark k) s = .next (zeroGiB u (min (watermarkNow s) (arg s k 2)) (max (watermarkNow s) (arg s k 2)) 64) := by
    show execWatermark k s = _
    unfold execWatermark
    simp only [h]
    refine (if_neg (by rw [ha]; decide)).trans ((if_neg (by rw [hh, hl]; decide)).trans ((if_neg (by rw [hw]; decide)).trans
      ((if_neg (by rw [hp]; decide)).trans ?_)))
    rw [← hu]
  have hz := pointsOnly_zeroGiB u (min (watermarkNow s) (arg s k 2)) (max (watermarkNow s) (arg s k 2)) 64
  generalize zeroGiB u (min (watermarkNow s) (arg s k 2)) (max (watermarkNow s) (arg s k 2)) 64 = t at hx hz
  have hs : serving u k = some { v with asked := true } := hu ▸ serving_setServing s k _
  have hur : u.regs = s.regs := hu ▸ rfl
  have htr : t.regs = u.regs := by rw [hz]
  refine ⟨t, hx, ?_, ?_, ?_, ?_, htr.trans hur, hz.dram.trans (hu ▸ rfl)⟩
  · rw [hz.arc, ← hu]
  · rw [hz.arc, ← hu]
  · rw [serving, hz.arc]
    exact hs
  · rw [watermarkNow, State.get, State.rd, htr, hur]
    rfl

/-- What is read of one unit after an update of each: the update of it alone makes it, of a state in which it reads as before. -/
theorem overAll_at {α β : Type} {f : State → α → State} {read : State → β} {l : List α} {k : α} (hn : l.Nodup) (hk : k ∈ l)
    (h : ∀ t, ∀ j ∈ l, j ≠ k → read (f t j) = read t) (s : State) : ∃ u, read u = read s ∧ read (overAll l f s) = read (f u k) := by
  obtain ⟨m, n, rfl⟩ := List.append_of_mem hk
  obtain ⟨-, hn, hd⟩ := List.nodup_append.mp hn
  refine ⟨overAll m f s, overAll_keeps_mem (fun t j hj => h t j (List.mem_append_left _ hj) (hd j hj k List.mem_cons_self)) s, ?_⟩
  rw [overAll, List.foldl_append, List.foldl_cons]
  refine overAll_keeps_mem (fun t j hj => h t j (List.mem_append_right _ (List.mem_cons_of_mem _ hj)) ?_) _
  rintro rfl
  exact (List.nodup_cons.mp hn).1 hj

/-- The registers and the entry that say how a call stands. -/
def callOf (k : Nat) (s : State) : Word × Option Serving := (s.rd (.ARC_CTL k), serving s k)

/-- A call of WATERMARK that waits ends OK. -/
def wmEnded (s : State) (k : Nat) : State :=
  match active s k 0x21 with
  | some v => if v.asked then endCall s k 0 else s
  | none => s

theorem wmEnded_of_asked {s : State} {k : Nat} {v : Serving} (h : active s k 0x21 = some v) (ha : v.asked = true) :
    serving (wmEnded s k) k = some { v with lines := [], due := [], result := some ⟨0, 0, []⟩ } := by
  unfold wmEnded
  simp only [h]
  rw [if_pos ha]
  exact serving_finishCall (serving_of_active h).1 ..

theorem serving_wmEnded_ne {j k : Nat} (h : j ≠ k) (s : State) : serving (wmEnded s k) j = serving s j := by
  unfold wmEnded
  split
  · split
    · exact serving_finishCall_ne h ..
    · rfl
  · rfl

theorem wmEnded_rest (s : State) (k : Nat) : wmEnded s k = { s with arc := { s.arc with serving := (wmEnded s k).arc.serving } } := by
  unfold wmEnded
  split
  · split
    · exact finishCall_rest ..
    · rfl
  · rfl

theorem active_congr {s t : State} {k svc : Nat} (hs : serving t k = serving s k) (hr : t.rd (.ARC_CTL k) = s.rd (.ARC_CTL k)) :
    active t k svc = active s k svc := by
  unfold active carrelState State.get
  rw [hs, hr]

/-- Every call of WATERMARK that waits ends OK. -/
def wmEnds (s : State) : State := overAll (List.range 64) wmEnded s

/-- A state that differs from another one in the calls alone. -/
def servingOnly (s t : State) : Prop := t = { s with arc := { s.arc with serving := t.arc.serving } }

theorem servingOnly.trans {s t u : State} (h : servingOnly s t) (h' : servingOnly t u) : servingOnly s u := by
  rw [servingOnly] at *; rw [h', h]

theorem servingOnly.rd {s t : State} (h : servingOnly s t) (r : Reg) : t.rd r = s.rd r := by rw [h]; rfl

theorem servingOnly_wmEnds (s : State) : servingOnly s (wmEnds s) :=
  overAll_rel (R := servingOnly) (fun _ => rfl) (fun h h' => h.trans h') wmEnded_rest _ s

theorem serving_wmEnds {s : State} {k : Fin 64} {v : Serving} (h : active s k 0x21 = some v) (ha : v.asked = true) :
    serving (wmEnds s) k = some { v with lines := [], due := [], result := some ⟨0, 0, []⟩ } := by
  obtain ⟨u, hu, he⟩ := overAll_at (read := callOf k) (f := wmEnded) List.nodup_range (List.mem_range.mpr k.isLt)
    (fun t j _ hj => Prod.ext (by rw [wmEnded_rest]; rfl) (serving_wmEnded_ne hj.symm t)) s
  obtain ⟨hc, hs⟩ := Prod.ext_iff.mp hu
  obtain ⟨-, he⟩ := Prod.ext_iff.mp he
  simp only [callOf] at he
  rw [wmEnds, he]
  exact (wmEnded_of_asked ((active_congr hs hc).trans h) ha)

/-- The state with a new watermark in force. -/
def wmTaken (s : State) (w : Nat) : State :=
  { setWatermark s w with
    folio := { (setWatermark s w).folio with map := { (setWatermark s w).folio.map with watermark := w } }
    arc := { (setWatermark s w).arc with wmPend := none } }

theorem watermarkSwitch_none {s : State} (h : s.arc.wmPend = none) : exec .watermarkSwitch s = .next s := by
  show execWatermarkSwitch s = _
  unfold execWatermarkSwitch
  simp only [h]

theorem watermarkSwitch_eq {s : State} {w : Nat} (hp : s.arc.wmPend = some w) (hz : s.arc.zeroLeft = 0) (ht : trickOf s 0x20 = 0) :
    exec .watermarkSwitch s = .next (wmEnds (wmTaken s w)) := by
  show execWatermarkSwitch s = _
  unfold execWatermarkSwitch
  simp only [hp]
  exact if_neg (by rw [hz, ht]; decide)

theorem setWatermark_spec {w : Nat} (hw : w < 2 ^ 16) (s : State) : watermarkNow (setWatermark s w) = w ∧ regsBut s (setWatermark s w) [.ARC_VAULT] ∧
    setWatermark s w = { s with regs := (setWatermark s w).regs } := by
  refine ⟨?_, (regsBut_put _ _ _ _).trans (regsBut_put _ _ _ _), rfl⟩
  refine (State.get_put_apart (by decide) (by decide) (by decide) ..).trans ((State.get_put_self (by decide) (by decide) ..).trans ?_)
  exact Nat.mod_eq_of_lt hw

theorem watermarkSwitch_spec {k : Fin 64} {v : Serving} {w : Nat} {s : State} (hp : s.arc.wmPend = some w) (hw : w < 2 ^ 16)
    (hz : s.arc.zeroLeft = 0) (ht : trickOf s 0x20 = 0) (h : active s k 0x21 = some v) (ha : v.asked = true) :
    ∃ t, exec .watermarkSwitch s = .next t ∧ watermarkNow t = w ∧ t.folio.map.watermark = w ∧ t.arc.wmPend = none ∧
      serving t k = some { v with lines := [], due := [], result := some ⟨0, 0, []⟩ } ∧ regsBut s t [.ARC_VAULT] ∧ t.dram = s.dram := by
  refine ⟨_, watermarkSwitch_eq hp hz ht, ?_⟩
  obtain ⟨hn, hb, hs⟩ := setWatermark_spec hw s
  have he := servingOnly_wmEnds (wmTaken s w)
  have hr : ∀ r, (wmEnds (wmTaken s w)).rd r = (setWatermark s w).rd r := he.rd
  have hac : active (wmTaken s w) k 0x21 = some v := by
    refine (active_congr (s := s) ?_ ?_).trans h
    · unfold wmTaken
      rw [hs]
      rfl
    · refine hb _ fun q hq => ?_
      rw [List.mem_singleton.mp hq, key_arcCtl, key_arcVault]
      omega
  have hsv := serving_wmEnds hac ha
  generalize wmEnds (wmTaken s w) = t at he hr hsv
  refine ⟨(congrArg (Fld.get _) (hr _)).trans hn, by rw [he]; rfl, by rw [he]; rfl, hsv, fun r h => (hr r).trans (hb r h), ?_⟩
  rw [he]
  unfold wmTaken
  rw [hs]

/-! ### Tamper (R406) -/

/-- What tamper makes of a call: a CALLED one is served TAMPERED, one without a result or without its return ends TAMPERED. -/
def tamperedCall (s : State) (k : Nat) : State :=
  if carrelState s k = 1 then beginServing s k (some ⟨6, 0, []⟩)
  else if (active s k (s.get (.ARC_CTL k) F.ARC_CTL_SERVICE)).isSome then endCall s k 6
  else
    match serving s k with
    | some v => if v.returned then s else endCall s k 6
    | none => s

/-- A register beside that of the call and the injection is as before. -/
theorem rd_tamperedCall {r : Reg} {k : Nat} (h : r.key ≠ (Reg.ARC_CTL k).key) (hi : r.key ≠ 0xF00009000500) (s : State) :
    (tamperedCall s k).rd r = s.rd r := by
  unfold tamperedCall
  split
  · exact (rd_sramWrite_of_ne hi ..).trans (State.rd_put_ne h ..)
  · split
    · exact rd_finishCall ..
    · split
      · split
        · rfl
        · exact rd_finishCall ..
      · rfl

/-- What tamper changes: registers, SRAM errors and the calls. -/
def callsOnly (s t : State) : Prop := t = { s with regs := t.regs, flips := t.flips, arc := { s.arc with serving := t.arc.serving } }

theorem callsOnly.trans {s t u : State} (h : callsOnly s t) (h' : callsOnly t u) : callsOnly s u := by
  rw [callsOnly] at *; rw [h', h]

theorem callsOnly_finishCall (s : State) (k st keep : Nat) (ws : List (Nat × Word)) : callsOnly s (finishCall s k st keep ws) := by
  rw [callsOnly, finishCall_rest]

theorem callsOnly_of_sameUnits {s t : State} (h : sameUnits s t) : callsOnly s t := by
  rw [callsOnly, h]

theorem callsOnly_tamperedCall (s : State) (k : Nat) : callsOnly s (tamperedCall s k) := by
  unfold tamperedCall
  split
  · exact callsOnly.trans (t := setServing (s.put (.ARC_CTL k) F.ARC_CTL_STATE 2) k ⟨[], [], false, false, some ⟨6, 0, []⟩, false⟩) rfl
      (callsOnly_of_sameUnits (sameUnits_sramWrite ..))
  · split
    · exact callsOnly_finishCall ..
    · split
      · split
        · rfl
        · exact callsOnly_finishCall ..
      · rfl

theorem serving_tamperedCall_ne {j k : Nat} (h : j ≠ k) (s : State) : serving (tamperedCall s k) j = serving s j := by
  unfold tamperedCall
  split
  · rw [beginServing, sameUnits_sramWrite]
    exact NMap.get?_set_ne _ _ _ _ h
  · split
    · exact serving_finishCall_ne h ..
    · split
      · split
        · rfl
        · exact serving_finishCall_ne h ..
      · rfl

theorem rd_ctl_tamperedCall_ne {j k : Fin 64} (h : j ≠ k) (s : State) : (tamperedCall s k).rd (.ARC_CTL j) = s.rd (.ARC_CTL j) :=
  rd_tamperedCall (by rw [key_arcCtl, key_arcCtl]; have := Fin.val_ne_of_ne h; omega) (by rw [key_arcCtl]; omega) s

/-- Every call has ended TAMPERED. -/
def tamperedCalls (s : State) : State := overAll (List.range 64) tamperedCall s

theorem callsOnly_tamperedCalls (s : State) : callsOnly s (tamperedCalls s) :=
  overAll_rel (R := callsOnly) (fun _ => rfl) (fun h h' => h.trans h') (fun _ _ => callsOnly_tamperedCall ..) _ s

theorem rd_tamperedCalls {r : Reg} (h : ∀ k : Fin 64, r.key ≠ (Reg.ARC_CTL k).key) (hi : r.key ≠ 0xF00009000500) (s : State) :
    (tamperedCalls s).rd r = s.rd r :=
  overAll_keeps_mem (g := fun t => t.rd r) (fun t k hk => rd_tamperedCall (h ⟨k, List.mem_range.mp hk⟩) hi t) s

/-- A CALLED carrel among all that tamper ends: nothing that happens to another one changes it. -/
theorem tamperedCalls_called {s : State} {k : Fin 64} (h : carrelState s k = 1) : carrelState (tamperedCalls s) k = 2 ∧
    serving (tamperedCalls s) k = some ⟨[], [], false, false, some ⟨6, 0, []⟩, false⟩ := by
  obtain ⟨u, hu, he⟩ := overAll_at (read := callOf k) (f := tamperedCall) List.nodup_range (List.mem_range.mpr k.isLt)
    (fun t j hj hne => Prod.ext (rd_ctl_tamperedCall_ne (j := k) (k := ⟨j, List.mem_range.mp hj⟩) (fun h => hne (Fin.val_eq_of_eq h).symm) t)
      (serving_tamperedCall_ne hne.symm t)) s
  have hu1 : carrelState u k = 1 := (congrArg (Fld.get _) (Prod.ext_iff.mp hu).1).trans h
  obtain ⟨hc, hs⟩ := Prod.ext_iff.mp he
  have hb : tamperedCall u k = beginServing u k (some ⟨6, 0, []⟩) := if_pos hu1
  obtain ⟨bc, bs, -, -⟩ := beginServing_spec u k (some ⟨6, 0, []⟩)
  rw [← hb] at bc bs
  exact ⟨(congrArg (Fld.get _) hc).trans bc, hs.trans bs⟩

/-- The latch of tamper and its error. -/
def tamperLatched (s : State) : State :=
  ((s.put .ARC_STATUS F.ARC_STATUS_TAMPER 1).put .ARC_STATUS F.ARC_STATUS_STAGE 3).raise .ARC_ERR 4 25 0x2700 none 2 0

theorem tamperEvent_eq {s : State} (h : tampered s = false) : tamperEvent s =
    zeroGiB { tamperLatched (tamperedCalls s) with arc := { (tamperLatched (tamperedCalls s)).arc with
      tampering := true, tamperLeft := watermarkNow (tamperLatched (tamperedCalls s)) * 2 ^ 24 } } 0
      (watermarkNow (tamperLatched (tamperedCalls s))) 65 := by
  exact if_neg (by rw [h]; decide)

theorem tamperEvent_latched {s : State} (h : tampered s = true) : tamperEvent s = s := if_pos h

theorem tamperLatched_spec (s : State) : (∀ r : Reg, noteKept r → r.key ≠ Reg.ARC_STATUS.key → r.key ≠ Reg.ARC_ERR.key →
      (tamperLatched s).rd r = s.rd r) ∧ tampered (tamperLatched s) = true ∧
    (tamperLatched s).get .ARC_STATUS F.ARC_STATUS_STAGE = 3 ∧ ((tamperLatched s).rd .ARC_ERR).getLsbD 4 = true ∧ sameUnits s (tamperLatched s) := by
  have hst : (tamperLatched s).rd .ARC_STATUS = ((s.put .ARC_STATUS F.ARC_STATUS_TAMPER 1).put .ARC_STATUS F.ARC_STATUS_STAGE 3).rd .ARC_STATUS :=
    rd_raise_ne (r := .ARC_STATUS) ⟨by decide, by decide⟩ (by decide) _ _ (by decide) ..
  refine ⟨fun r hn hs he => ?_, ?_, ?_, ?_, ?_⟩
  · rw [tamperLatched, rd_raise_ne hn he _ _ (by decide), State.rd_put_ne hs, State.rd_put_ne hs]
  · rw [tampered, State.bit, State.get, hst, ← State.get, ← State.bit, State.bit_put_apart (by decide) (by decide) (by decide),
      State.bit_put_self (by decide) (by decide)]
    rfl
  · rw [State.get, hst]
    exact State.get_put_self (by decide) (by decide) ..
  · rw [tamperLatched, rd_raise (r := .ARC_ERR) ⟨by decide, by decide⟩ _ _ _ (by decide), State.rd_wr_self, BitVec.getLsbD_or]
    simp
  · exact ((sameUnits_put ..).trans (sameUnits_put ..)).trans (sameUnits_raise ..)

theorem tamper_spec {s : State} (h : tampered s = false) : ∃ t, exec .tamper s = .next t ∧ tampered t = true ∧
    t.get .ARC_STATUS F.ARC_STATUS_STAGE = 3 ∧ (t.rd .ARC_ERR).getLsbD 4 = true ∧ t.arc.tampering = true ∧
    t.arc.tamperLeft = watermarkNow s * 2 ^ 24 ∧
    (∀ k : Fin 64, carrelState s k = 1 → carrelState t k = 2 ∧
      serving t k = some ⟨[], [], false, false, some ⟨6, 0, []⟩, false⟩) ∧ t.dram = s.dram := by
  refine ⟨tamperEvent s, rfl, ?_⟩
  have he := tamperEvent_eq h
  have hcalls := fun {k : Fin 64} (hk : carrelState s k = 1) => tamperedCalls_called hk
  have hrd := fun {r : Reg} (hk : ∀ k : Fin 64, r.key ≠ (Reg.ARC_CTL k).key) (hi : r.key ≠ 0xF00009000500) => rd_tamperedCalls hk hi s
  have hco := callsOnly_tamperedCalls s
  generalize tamperedCalls s = c at he hcalls hrd hco
  obtain ⟨lr, lt, ls, le, lu⟩ := tamperLatched_spec c
  generalize tamperLatched c = l at he lr lt ls le lu
  generalize hy : { l with arc := { l.arc with tampering := true, tamperLeft := watermarkNow l * 2 ^ 24 } } = y at he
  have hz : pointsOnly y (tamperEvent s) := he ▸ pointsOnly_zeroGiB ..
  generalize tamperEvent s = t at hz
  have ht : ∀ r, t.rd r = l.rd r := fun r => (hz.rd r).trans (hy ▸ rfl)
  have hwm : watermarkNow l = watermarkNow s := by
    refine congrArg (Fld.get _) ((lr .ARC_VAULT ⟨by decide, by decide⟩ (by decide) (by decide)).trans (hrd (fun k => ?_) (by decide)))
    rw [key_arcCtl, key_arcVault]
    omega
  refine ⟨?_, ?_, ?_, by rw [hz.arc, ← hy], by rw [hz.arc, ← hy, hwm], fun k hk => ?_, ?_⟩
  · rw [tampered, State.bit, State.get, ht]
    exact lt
  · rw [State.get, ht]
    exact ls
  · rw [ht]
    exact le
  · obtain ⟨hcs, hsv⟩ := hcalls hk
    refine ⟨?_, ?_⟩
    · rw [carrelState, State.get, ht, lr (.ARC_CTL k) ⟨by rw [key_arcCtl]; omega, by rw [key_arcCtl]; omega⟩
        (by rw [key_arcCtl, show Reg.ARC_STATUS.key = 0xF00007005000 from rfl]; omega)
        (by rw [key_arcCtl, show Reg.ARC_ERR.key = 0xF00007005030 from rfl]; omega)]
      exact hcs
    · rw [serving, hz.arc, ← hy]
      show l.arc.serving.get? k = _
      rw [lu]
      exact hsv
  · rw [hz.dram, ← hy]
    show l.dram = _
    rw [lu]
    show c.dram = _
    rw [hco]

theorem vaultZeroEnd_spec {s : State} (ht : s.arc.tampering = true) (h0 : s.arc.tamperLeft = 0) :
    ∃ t, exec .vaultZeroEnd s = .next t ∧ t.bit .ARC_STATUS F.ARC_STATUS_VAULT_ZEROED = true ∧ t.arc = { s.arc with tampering := false } ∧
      regsBut s t [.ARC_STATUS] ∧ t = { s with regs := t.regs, arc := t.arc } := by
  refine ⟨_, if_pos ⟨ht, h0⟩, ?_, rfl, fun r h => State.rd_put_ne (h _ (List.mem_singleton_self _)) .., rfl⟩
  rw [State.bit_put_self (by decide) (by decide)]
  rfl

theorem arcInject_of_house {who : Agent} {s : State} (h : s.isHouse who = true) (v : Word) : arcInject s who v =
    if F.ARC_INJECT_TAMPER.get v = 1 then tamperEvent (s.put .ARC_INJECT F.ARC_INJECT_VAULT (F.ARC_INJECT_VAULT.get v))
    else s.put .ARC_INJECT F.ARC_INJECT_VAULT (F.ARC_INJECT_VAULT.get v) := if_neg (by rw [h]; decide)

theorem injectTamper_get (v : Word) : F.ARC_INJECT_TAMPER.get v = if v.getLsbD 1 then 1 else 0 := by
  have h : v.toNat >>> 1 % 2 = (v.toNat.testBit 1).toNat := by
    rw [Nat.shiftRight_eq_div_pow, Nat.toNat_testBit]
  rw [BitVec.getLsbD]
  refine h.trans ?_
  cases v.toNat.testBit 1 <;> rfl

/-- Settles O50, by the call that moves the watermark, its switch, and the tamper event over every call. -/
theorem vaultTamper : Obligations.VaultTamper := by
  unfold Obligations.VaultTamper
  refine ⟨fun k v s => watermark_spec, fun k v w s => watermarkSwitch_spec, fun s => watermarkSwitch_none, fun s => tamper_spec,
    fun s h => congrArg Host.Outcome.next (tamperEvent_latched h), fun s => vaultZeroEnd_spec, fun s h => if_neg (by rw [h]; simp),
    fun who v s => ⟨fun hh h1 => ?_, fun hh h1 ht => ?_, fun hh => ?_⟩⟩
  · exact congrArg Host.Outcome.next ((arcInject_of_house hh v).trans (if_neg (by rw [injectTamper_get, h1]; decide)))
  · have htp : tampered (s.put .ARC_INJECT F.ARC_INJECT_VAULT (F.ARC_INJECT_VAULT.get v)) = false :=
      (State.bit_put_ne (by decide) ..).trans ht
    obtain ⟨t, hx, h1', -, -, h2, -⟩ := tamper_spec htp
    refine ⟨t, Eq.trans ?_ hx, h1', h2⟩
    exact congrArg Host.Outcome.next ((arcInject_of_house hh v).trans (if_pos (by rw [injectTamper_get, h1]; rfl)))
  · have hi : arcInject s who v = s := if_pos (by rw [hh]; rfl)
    exact ⟨congrArg Host.Outcome.next hi, congrArg Host.Outcome.next hi⟩

end Sys2Proof.Machine
end

section
/-! SUPPORT. The management port and image operations (R473 to R475). -/

namespace Sys2Proof.Machine

/-! ### Private transfers and addresses (R473, R474) -/

section Port
variable {s : State} (hr : i3cReady s = true)
include hr

theorem i3c_ready : ¬ ¬ i3cReady s = true := fun h => h hr

theorem i3cWrite_eq (lo hi : Byte) (bs : List Byte) : exec (.i3cPrivateWrite (lo :: hi :: bs)) s =
    .next (overAll (wholeWords (lo.toNat + 256 * hi.toNat) bs) (fun s e => mgmtWrite s e.1 e.2)
      { s with mgmt := { s.mgmt with ptr := (lo.toNat + 256 * hi.toNat + bs.length) % 2 ^ 16 } }) :=
  if_neg (i3c_ready hr)

omit hr in
theorem wholeWords_nil (a : Nat) : wholeWords a [] = [] := by
  unfold wholeWords
  dsimp only
  rw [show (a + ([] : List Byte).length - (a + 7) / 8 * 8) / 8 = 0 by simp; omega]
  rfl

omit hr in
theorem wholeWords_one {a : Nat} {bs : List Byte} (h8 : bs.length = 8) (ha : a % 8 = 0) :
    wholeWords a bs = [(a, BitVec.ofNat 64 (ofBytes bs))] := by
  unfold wholeWords
  dsimp only
  rw [show (a + 7) / 8 * 8 = a by omega, show (a + bs.length - a) / 8 = 1 by omega]
  simp [List.take_of_length_le (Nat.le_of_eq h8)]

theorem i3cWrite_pointer (lo hi : Byte) : exec (.i3cPrivateWrite [lo, hi]) s =
    .next { s with mgmt := { s.mgmt with ptr := lo.toNat + 256 * hi.toNat } } := by
  have hp : (lo.toNat + 256 * hi.toNat + ([] : List Byte).length) % 2 ^ 16 = lo.toNat + 256 * hi.toNat := by
    have := lo.isLt
    have := hi.isLt
    simp only [List.length_nil]
    omega
  rw [i3cWrite_eq hr, wholeWords_nil, hp]
  rfl

theorem i3cWrite_word {lo hi : Byte} {bs : List Byte} (h8 : bs.length = 8) (ha : (lo.toNat + 256 * hi.toNat) % 8 = 0) :
    exec (.i3cPrivateWrite (lo :: hi :: bs)) s =
      .next (mgmtWrite { s with mgmt := { s.mgmt with ptr := (lo.toNat + 256 * hi.toNat + 8) % 2 ^ 16 } }
        (lo.toNat + 256 * hi.toNat) (BitVec.ofNat 64 (ofBytes bs))) := by
  rw [i3cWrite_eq hr, wholeWords_one h8 ha, h8]
  rfl

theorem i3cRead_spec (n : Nat) : ∃ t bs, exec (.i3cPrivateRead n) s = .next t ∧ bs.length = n ∧
    t.out = s.out ++ [.i3c bs] ∧ t.mgmt = { s.mgmt with ptr := (s.mgmt.ptr + n) % 2 ^ 16 } ∧
    (∀ i, i < n → bs[i]? = some (mgmtByte s ((s.mgmt.ptr + i) % 2 ^ 16))) ∧ t = { s with mgmt := t.mgmt, out := t.out } := by
  refine ⟨_, (List.range n).map (fun i => mgmtByte s ((s.mgmt.ptr + i) % 2 ^ 16)), if_neg (i3c_ready hr), by simp, rfl, rfl, fun i hi => ?_, rfl⟩
  rw [List.getElem?_map, List.getElem?_range hi]
  rfl

theorem setdasa_ready (a : BitVec 7) : exec (.setdasa a) s = .next { s with mgmt := { s.mgmt with addr := some a } } := if_pos hr

theorem entdaa_ready (a : BitVec 7) (h : s.mgmt.addr = none) :
    exec (.entdaa a) s = .next { s with mgmt := { s.mgmt with addr := some a } } :=
  (if_neg (i3c_ready hr)).trans (if_neg (by rw [h]; decide))

end Port

theorem i3c_nack {s : State} (hr : i3cReady s = false) (hst : s.mgmt.stby = true) (a : BitVec 7) (n : Nat) (bs : List Byte) :
    ∀ i ∈ [Instr.i3cPrivateWrite bs, .i3cPrivateRead n, .setdasa a, .entdaa a], exec i s = .next (s.emit .nack) := by
  have hn : ¬ i3cReady s = true := by rw [hr]; decide
  have hs : Host.Outcome.next (if s.mgmt.stby then s.emit .nack else s) = (.next (s.emit .nack) : Out) := by rw [if_pos hst]
  simp only [List.forall_mem_cons]
  exact ⟨(if_pos hn).trans hs, (if_pos hn).trans hs, (if_neg hn).trans hs, (if_pos hn).trans hs, fun _ h => absurd h List.not_mem_nil⟩

/-! ### Image operations (R475) -/

theorem imgCommand_taken {s : State} {v : Word} (hb : s.bit .ARC_IMG_CMD F.ARC_IMG_CMD_BUSY = false)
    (ha : imgAllowed s (F.ARC_IMG_CMD_SLOT.get v) = true) (h1 : 1 ≤ F.ARC_IMG_CMD_OP.get v) (h3 : F.ARC_IMG_CMD_OP.get v ≤ 3)
    (ho : F.ARC_IMG_CMD_OP.get v = 2 → F.ARC_IMG_CMD_OFFSET.get v % 256 = 0 ∧
      F.ARC_IMG_CMD_OFFSET.get v + 256 ≤ imgSize (F.ARC_IMG_CMD_SLOT.get v)) :
    ∃ t, imgCommand s v = t ∧ t.bit .ARC_IMG_CMD F.ARC_IMG_CMD_BUSY = true ∧
      t.arc = { s.arc with imgOp := some (F.ARC_IMG_CMD_OP.get v, F.ARC_IMG_CMD_SLOT.get v, F.ARC_IMG_CMD_OFFSET.get v) } ∧
      regsBut s t [.ARC_IMG_CMD] ∧ t = { s with regs := t.regs, arc := t.arc } := by
  generalize hu : s.wr .ARC_IMG_CMD (Reg.ARC_IMG_CMD.written (s.rd .ARC_IMG_CMD) v) = u
  have hua : imgAllowed u (F.ARC_IMG_CMD_SLOT.get v) = true := by
    rw [← hu]
    unfold imgAllowed romRecovery
    rw [State.get_wr_ne (by decide), State.get_wr_ne (by decide)]
    exact ha
  have hur : regsBut s u [.ARC_IMG_CMD] := hu ▸ regsBut_wr _ _ _
  have hus : u = { s with regs := u.regs } := hu ▸ rfl
  have hi : imgCommand s v = ({ u with arc := { u.arc with
      imgOp := some (F.ARC_IMG_CMD_OP.get v, F.ARC_IMG_CMD_SLOT.get v, F.ARC_IMG_CMD_OFFSET.get v) } }).put .ARC_IMG_CMD F.ARC_IMG_CMD_BUSY 1 := by
    unfold imgCommand
    rw [if_neg (by rw [hb]; decide)]
    dsimp only
    rw [hu, if_neg (by omega), if_neg (by rw [hua]; decide), if_neg fun h => by have := ho h.1; have := h.2; omega]
  refine ⟨_, hi, ?_, ?_, hur.trans (regsBut_put _ _ _ _), ?_⟩
  · rw [State.bit_put_self (by decide) (by decide)]
    rfl
  · rw [hus]
    rfl
  · rw [hus]
    rfl

theorem img_spec {s : State} {v : Word} (hr : i3cReady s = true) (hb : s.bit .ARC_IMG_CMD F.ARC_IMG_CMD_BUSY = false)
    (ha : imgAllowed s (F.ARC_IMG_CMD_SLOT.get v) = true) : ∀ e ∈ [(1, Instr.arcImgBegin v), (2, Instr.arcImgWrite v), (3, Instr.arcImgFinish v)],
      F.ARC_IMG_CMD_OP.get v = e.1 →
      (e.1 = 2 → F.ARC_IMG_CMD_OFFSET.get v % 256 = 0 ∧ F.ARC_IMG_CMD_OFFSET.get v + 256 ≤ imgSize (F.ARC_IMG_CMD_SLOT.get v)) →
      ∃ t, exec e.2 s = .next t ∧ t.bit .ARC_IMG_CMD F.ARC_IMG_CMD_BUSY = true ∧
        t.arc = { s.arc with imgOp := some (e.1, F.ARC_IMG_CMD_SLOT.get v, F.ARC_IMG_CMD_OFFSET.get v) } ∧
        regsBut s t [.ARC_IMG_CMD] ∧ t = { s with regs := t.regs, arc := t.arc } := by
  have hrow : ∀ op, F.ARC_IMG_CMD_OP.get v = op → imgRow s op v = imgCommand s v := fun op h => if_pos ⟨hr, h⟩
  have key : ∀ e ∈ [(1, Instr.arcImgBegin v), (2, Instr.arcImgWrite v), (3, Instr.arcImgFinish v)],
      (1 ≤ e.1 ∧ e.1 ≤ 3) ∧ exec e.2 s = .next (imgRow s e.1 v) := by
    simp only [List.forall_mem_cons]
    exact ⟨⟨by decide, rfl⟩, ⟨by decide, rfl⟩, ⟨by decide, rfl⟩, fun _ h => absurd h List.not_mem_nil⟩
  intro e he hop ho
  obtain ⟨⟨h1, h3⟩, hx⟩ := key e he
  obtain ⟨t, ht, hrest⟩ := imgCommand_taken hb ha (by omega) (by omega) (fun h => ho (hop.symm.trans h))
  rw [hrow _ hop, ht] at hx
  rw [← hop]
  exact ⟨t, hx, hrest⟩

/-- What an image operation leaves in its slot, with its status. -/
def imgResult (s : State) (op slot off : Nat) : Nat × List Byte :=
  if op = 1 then (0, [])
  else if op = 2 then (0, programSlot (flashSlot s slot) (imgBytes s) off)
  else if slot < 2 then (codeOf (firmwareBad s (flashSlot s slot)), flashSlot s slot)
  else (codeOf (imageBad s (flashSlot s slot) false 0x400000), flashSlot s slot)

theorem imgResult_finish (s : State) (slot off : Nat) : (imgResult s 3 slot off).2 = flashSlot s slot := by
  unfold imgResult
  rw [if_neg (by decide), if_neg (by decide)]
  split <;> rfl

/-- The state in which an image operation has put its slot. -/
def imgStored (s : State) (slot : Nat) (bs : List Byte) : State :=
  { s with arc := { s.arc with flash := s.arc.flash.set slot bs, imgOp := none } }

theorem imageOpComplete_eq {op slot off : Nat} {s : State} (h : s.arc.imgOp = some (op, slot, off)) :
    exec .imageOpComplete s = .next (imgStatus ((imgStored s slot (imgResult s op slot off).2).put .ARC_IMG_CMD F.ARC_IMG_CMD_BUSY 0)
      (imgResult s op slot off).1) := by
  show execImageOpComplete s = _
  unfold execImageOpComplete
  simp only [h]
  rfl

theorem imageOpComplete_spec {op slot off : Nat} {s : State} (h : s.arc.imgOp = some (op, slot, off)) :
    ∃ t, exec .imageOpComplete s = .next t ∧ t.bit .ARC_IMG_CMD F.ARC_IMG_CMD_BUSY = false ∧ t.arc.imgOp = none ∧
      (op = 1 → flashSlot t slot = [] ∧ t.get .ARC_IMG_CMD F.ARC_IMG_CMD_STATUS = 0) ∧
      (op = 2 → flashSlot t slot = programSlot (flashSlot s slot) (imgBytes s) off ∧ t.get .ARC_IMG_CMD F.ARC_IMG_CMD_STATUS = 0) ∧
      (op = 3 → flashSlot t slot = flashSlot s slot) ∧ (∀ j, j ≠ slot → flashSlot t j = flashSlot s j) ∧
      regsBut s t [.ARC_IMG_CMD] ∧ t = { s with regs := t.regs, arc := t.arc } := by
  refine ⟨_, imageOpComplete_eq h, ?_⟩
  generalize hr : imgResult s op slot off = r
  have hf : ∀ n, flashSlot (imgStatus ((imgStored s slot r.2).put .ARC_IMG_CMD F.ARC_IMG_CMD_BUSY 0) n) slot = r.2 := fun n =>
    NMap.getD_set_self ..
  have hst : ∀ n, (imgStatus ((imgStored s slot r.2).put .ARC_IMG_CMD F.ARC_IMG_CMD_BUSY 0) n).get .ARC_IMG_CMD F.ARC_IMG_CMD_STATUS = n % 2 ^ 16 :=
    fun n => State.get_put_self (by decide) (by decide) ..
  refine ⟨?_, rfl, fun h1 => ?_, fun h2 => ?_, fun h3 => ?_, fun j hj => NMap.getD_set_ne _ _ _ _ _ hj,
    (regsBut_put (imgStored s slot r.2) _ _ _).trans (regsBut_put _ _ _ _), rfl⟩
  · rw [imgStatus, State.bit_put_apart (by decide) (by decide) (by decide), State.bit_put_self (by decide) (by decide)]
    rfl
  · have hr1 : r = (0, []) := hr ▸ if_pos h1
    exact ⟨(hf _).trans (by rw [hr1]), (hst _).trans (by rw [hr1]; rfl)⟩
  · have hr2 : r = (0, programSlot (flashSlot s slot) (imgBytes s) off) := hr ▸ (if_neg (by omega)).trans (if_pos h2)
    exact ⟨(hf _).trans (by rw [hr2]), (hst _).trans (by rw [hr2]; rfl)⟩
  · rw [hf, ← hr, h3, imgResult_finish]

/-- Settles O52, by the transfers of the port, the addresses, and what an image operation does at its start and at its end. -/
theorem managementPort : Obligations.ManagementPort := by
  unfold Obligations.ManagementPort
  refine ⟨fun lo hi s hr => ⟨i3cWrite_pointer hr lo hi, fun bs => i3cWrite_word hr⟩, fun n s hr => i3cRead_spec hr n,
    fun a s hr => ⟨setdasa_ready hr a, entdaa_ready hr a⟩, fun a n bs s hr hst => i3c_nack hr hst a n bs, fun v s hr hb ha => img_spec hr hb ha,
    fun op slot off s => imageOpComplete_spec, fun s h => ?_⟩
  show execImageOpComplete s = _
  unfold execImageOpComplete
  simp only [h]

end Sys2Proof.Machine
end

section
/-! SUPPORT. Counters that wrap, the sampling CSRs, and the sampled record (R451 to R459). -/

namespace Sys2Proof.Machine

/-! ### A pending bit while no interrupt is enabled -/

theorem pendingInts_of_masked {s : State} {c : Nat} (h : s.csr c 0x304 = 0) : pendingInts s c = [] := by
  unfold pendingInts
  simp [h]

theorem takeInterrupt_of_masked {s : State} {c : Nat} (h : s.csr c 0x304 = 0) : takeInterrupt s c = s := by
  have hn : chosenInt s c = none := by
    unfold chosenInt
    simp [pendingInts_of_masked h]
  unfold takeInterrupt
  simp only [hn]

/-- A core that is awake and enables no interrupt is left as it is. -/
theorem notify_of_masked {s : State} {c : Nat} (h : s.csr c 0x304 = 0) (ha : (s.core c).asleep = false) : notify s c = s := by
  have hr : resume s c = s := if_neg (by rw [ha]; simp)
  unfold notify
  simp only [hr, takeInterrupt_of_masked h, ite_self]

theorem csr_setMip_self (s : State) (c : Nat) {i : Nat} (hi : i < 64) (b : Bool) : ((setMip s c i b).csr c 0x344).getLsbD i = b := by
  rw [setMip, csr_setCsr_self, getLsbD_setBit_self _ hi]

theorem csr_setMip_ne {n : Nat} (h : n ≠ 0x344) (s : State) (c i : Nat) (b : Bool) : (setMip s c i b).csr c n = s.csr c n := csr_setCsr_ne h ..

theorem core_setMip (s : State) (c i : Nat) (b : Bool) (d : Nat) : (setMip s c i b).core d = s.core d := rfl

/-! ### Counters that wrap (R454, R455) -/

/-- The overflow bits of the slots below `n` of which `p` holds. -/
def slotBits (p : Nat → Bool) (n : Nat) : Nat := ((List.range n).filter p).foldl (fun n k => n + 2 ^ k) 0

theorem slotBits_succ (p : Nat → Bool) (n : Nat) : slotBits p (n + 1) = if p n then slotBits p n + 2 ^ n else slotBits p n := by
  unfold slotBits
  rw [List.range_succ, List.filter_append, List.foldl_append]
  cases h : p n <;> simp [h]

theorem slotBits_lt (p : Nat → Bool) (n : Nat) : slotBits p n < 2 ^ n := by
  induction n with
  | zero => exact Nat.one_pos
  | succ n ih =>
    rw [slotBits_succ, Nat.pow_succ]
    split <;> omega

theorem testBit_slotBits (p : Nat → Bool) (n j : Nat) : (slotBits p n).testBit j = (decide (j < n) && p j) := by
  induction n with
  | zero => simp [slotBits]
  | succ n ih =>
    have hlt := slotBits_lt p n
    rw [slotBits_succ]
    rcases Nat.lt_trichotomy j n with h | h | h
    · rw [decide_eq_true (by omega : j < n + 1), ← decide_eq_true h, ← ih]
      split
      · rw [Nat.add_comm, Nat.testBit_two_pow_add_gt h]
      · rfl
    · subst h
      rw [decide_eq_false (Nat.lt_irrefl j), Bool.false_and] at ih
      cases hp : p j
      · simpa using ih
      · rw [if_pos rfl, Nat.add_comm, Nat.testBit_two_pow_add_eq, ih]
        simp
    · rw [decide_eq_false (by omega : ¬ j < n + 1), Bool.false_and]
      refine Nat.testBit_lt_two_pow (Nat.lt_of_lt_of_le ?_ (Nat.pow_le_pow_right (by decide) h : 2 ^ (n + 1) ≤ 2 ^ j))
      rw [Nat.pow_succ]
      split <;> omega

theorem getLsbD_slotBits (p : Nat → Bool) {n j : Nat} (hn : n ≤ 64) : (BitVec.ofNat 64 (slotBits p n)).getLsbD j = (decide (j < n) && p j) := by
  rw [BitVec.getLsbD_ofNat, testBit_slotBits]
  by_cases h : j < n
  · rw [decide_eq_true (by omega : j < 64), Bool.true_and]
  · rw [decide_eq_false h]
    simp

theorem slotsShowing_core (s : State) (c : Fin 384) (e : Nat) : ∃ p, slotsShowing s (.core c) e = (List.range 32).filter p :=
  ⟨fun k => decide (3 ≤ k) && s.get (.CTR_CORE_SEL c (k / 8)) (F.CTR_CORE_SEL_SEL (k % 8)) == e, rfl⟩

theorem slotsShowing_block (s : State) (b : Fin 57) (e : Nat) : ∃ p, slotsShowing s (.block b) e = (List.range 8).filter p := by
  unfold slotsShowing
  dsimp only
  split
  · exact ⟨_, rfl⟩
  · exact ⟨fun _ => false, by simp⟩

theorem key_ctrCore (c k : Nat) : (Reg.CTR_CORE c k).key = 0xF0000A000000 + c * 0x100 + k * 8 := by simp only [Reg.key]

theorem key_ctrCoreOvf (c : Nat) : (Reg.CTR_CORE_OVF c).key = 0xF0000A020000 + c * 8 := by simp only [Reg.key]

theorem key_ctrBlk (b k : Nat) : (Reg.CTR_BLK b k).key = 0xF0000A100000 + b * 0x100 + k * 8 := by simp only [Reg.key]

theorem key_ctrBlkOvf (b : Nat) : (Reg.CTR_BLK_OVF b).key = 0xF0000A100048 + b * 0x100 := by simp only [Reg.key]; omega

theorem key_ctrBlkSel (b : Nat) : (Reg.CTR_BLK_SEL b).key = 0xF0000A100040 + b * 0x100 := by simp only [Reg.key]; omega

/-- Counters zeroed. -/
def zeroed (s : State) (r : Nat → Reg) (ks : List Nat) : State := overAll ks (fun s k => s.wr (r k) 0) s

theorem zeroed_rest (s : State) (r : Nat → Reg) (ks : List Nat) : zeroed s r ks = { s with regs := (zeroed s r ks).regs } :=
  overAll_rel (R := fun s t => t = { s with regs := t.regs }) (fun _ => rfl) (fun {s t u} h h' => by rw [h', h]) (fun _ _ => rfl) ks s

theorem rd_zeroed_ne {r : Nat → Reg} {ks : List Nat} {q : Reg} (h : ∀ k ∈ ks, q.key ≠ (r k).key) (s : State) : (zeroed s r ks).rd q = s.rd q :=
  overAll_keeps_mem (g := fun t => t.rd q) (fun _ k hk => State.rd_wr_ne _ _ _ _ (h k hk)) s

theorem rd_zeroed {r : Nat → Reg} {ks : List Nat} (hn : ks.Nodup) (hr : ∀ j k, j ≠ k → (r j).key ≠ (r k).key) {k : Nat} (hk : k ∈ ks) (s : State) :
    (zeroed s r ks).rd (r k) = 0 :=
  overAll_each (read := fun t k => t.rd (r k)) (val := fun _ _ => 0) hn (fun _ _ _ => State.rd_wr_self ..)
    (fun _ _ _ _ _ h => State.rd_wr_ne _ _ _ _ (hr _ _ h)) (fun _ _ _ _ _ _ => rfl) s hk

/-- The state in which the count of a counter has lost what it passed. -/
def unwrapped (s : State) (u : CtrUnit) (e : Nat) : State :=
  if counted u e then { s with events := s.events.set (unitNo u * 2 ^ 16 + e) (s.eventCount (unitNo u) e - wrapAt u) } else s

theorem unwrapped_rest (s : State) (u : CtrUnit) (e : Nat) : unwrapped s u e = { s with events := (unwrapped s u e).events } := by
  unfold unwrapped
  split <;> rfl

theorem rd_unwrapped (s : State) (u : CtrUnit) (e : Nat) (r : Reg) : (unwrapped s u e).rd r = s.rd r := by
  rw [unwrapped_rest]
  rfl

theorem count_unwrapped {s : State} {u : CtrUnit} {e : Nat} (hw : wraps s u e = true) (hc : counted u e = true) :
    (unwrapped s u e).eventCount (unitNo u) e + wrapAt u = s.eventCount (unitNo u) e := by
  have hle : wrapAt u ≤ s.eventCount (unitNo u) e := by
    unfold wraps at hw
    simpa [hc] using hw
  unfold unwrapped
  rw [if_pos hc, State.eventCount, NMap.getD_set_self]
  omega

theorem eventsBut_unwrapped (s : State) (u : CtrUnit) (e : Nat) : eventsBut s (unwrapped s u e) [(unitNo u, e)] := by
  intro v k h
  have hne : v * 2 ^ 16 + k ≠ unitNo u * 2 ^ 16 + e := h (unitNo u, e) (List.mem_singleton_self _)
  unfold unwrapped
  split
  · rw [State.eventCount, NMap.getD_set_ne _ _ _ _ _ hne, State.eventCount]
  · rfl

/-- The state after a wrap of a core's counter, before its interrupt. -/
def coreWrapped (s : State) (c : Fin 384) (e : Nat) : State :=
  (zeroed (unwrapped s (.core c) e) (.CTR_CORE c) (slotsShowing s (.core c) e)).wr (.CTR_CORE_OVF c)
    (s.rd (.CTR_CORE_OVF c) ||| BitVec.ofNat 64 ((slotsShowing s (.core c) e).foldl (fun n k => n + 2 ^ k) 0))

/-- The state after a wrap of a block's counter, before its arrival. -/
def blockWrapped (s : State) (b : Fin 57) (e : Nat) : State :=
  let t := zeroed (unwrapped s (.block b) e) (.CTR_BLK b) (slotsShowing s (.block b) e)
  t.wr (.CTR_BLK_OVF b) (t.rd (.CTR_BLK_OVF b) ||| BitVec.ofNat 64 ((slotsShowing s (.block b) e).foldl (fun n k => n + 2 ^ k) 0))

theorem event_ne_zero {e : BitVec 16} (h : e ≠ 0) : e.toNat ≠ 0 := fun h0 => h (BitVec.eq_of_toNat_eq h0)

theorem counterWrap_idle {u : CtrUnit} {e : BitVec 16} {s : State} (h : e = 0 ∨ slotsShowing s u e.toNat = [] ∨ wraps s u e.toNat = false) :
    exec (.counterWrap u e) s = .next s := by
  refine if_pos ?_
  rcases h with rfl | h | h
  · exact Or.inl (if_pos rfl)
  · left
    rw [h, ite_self]
  · exact Or.inr (by rw [h]; decide)

section Wrap
variable {e : BitVec 16} {s : State} (he : e ≠ 0)
include he

theorem wrap_acts {u : CtrUnit} (hs : slotsShowing s u e.toNat ≠ []) (hw : wraps s u e.toNat = true) :
    ¬ ((if e.toNat = 0 then [] else slotsShowing s u e.toNat) = [] ∨ ¬ wraps s u e.toNat = true) := by
  rw [if_neg (event_ne_zero he), hw]
  simpa using hs

theorem counterWrap_core {c : Fin 384} (hs : slotsShowing s (.core c) e.toNat ≠ []) (hw : wraps s (.core c) e.toNat = true) :
    exec (.counterWrap (.core c) e) s = .next (if (coreWrapped s c e.toNat).rd (.CTR_CORE_OVF c) = s.rd (.CTR_CORE_OVF c) ∨
      (coreWrapped s c e.toNat).ledgerCore c = true then coreWrapped s c e.toNat
      else notify (setMip (coreWrapped s c e.toNat) c 13 true) c) := by
  refine (if_neg (wrap_acts he hs hw)).trans ?_
  rw [if_neg (event_ne_zero he)]
  have hu : (unwrapped s (.core c) e.toNat).rd (.CTR_CORE_OVF c) = s.rd (.CTR_CORE_OVF c) := rd_unwrapped ..
  rw [coreWrapped, State.rd_wr_self, apply_ite Host.Outcome.next, ← hu]
  rfl

theorem counterWrap_block {b : Fin 57} (hs : slotsShowing s (.block b) e.toNat ≠ []) (hw : wraps s (.block b) e.toNat = true) :
    exec (.counterWrap (.block b) e) s = .next ((blockWrapped s b e.toNat).arrive (576 + b.val)) := by
  refine (if_neg (wrap_acts he hs hw)).trans ?_
  rw [if_neg (event_ne_zero he)]
  rfl

end Wrap

theorem coreWrapped_spec {s : State} {c : Fin 384} {e : Nat} (hw : wraps s (.core c) e = true) :
    (∀ k, k ∈ slotsShowing s (.core c) e → (coreWrapped s c e).rd (.CTR_CORE c k) = 0 ∧ ((coreWrapped s c e).rd (.CTR_CORE_OVF c)).getLsbD k = true) ∧
      (∀ k, k < 32 → k ∉ slotsShowing s (.core c) e →
        ((coreWrapped s c e).rd (.CTR_CORE_OVF c)).getLsbD k = (s.rd (.CTR_CORE_OVF c)).getLsbD k) ∧
      (counted (.core c) e = true → (coreWrapped s c e).eventCount c e + 2 ^ 64 = s.eventCount c e) ∧
      eventsBut s (coreWrapped s c e) [(c.val, e)] ∧ coreWrapped s c e = { s with regs := (coreWrapped s c e).regs, events := (coreWrapped s c e).events } := by
  obtain ⟨p, hp⟩ := slotsShowing_core s c e
  have hz := zeroed_rest (unwrapped s (.core c) e) (.CTR_CORE c) (slotsShowing s (.core c) e)
  have hr := fun {k : Nat} hk => rd_zeroed (r := .CTR_CORE c) (ks := slotsShowing s (.core c) e) (by rw [hp]; exact List.nodup_range.filter _)
    (fun j k h => by rw [key_ctrCore, key_ctrCore]; omega) (k := k) hk (unwrapped s (.core c) e)
  have hcw : coreWrapped s c e = (zeroed (unwrapped s (.core c) e) (.CTR_CORE c) (slotsShowing s (.core c) e)).wr (.CTR_CORE_OVF c)
    (s.rd (.CTR_CORE_OVF c) ||| BitVec.ofNat 64 (slotBits p 32)) := by rw [coreWrapped, hp]; rfl
  generalize zeroed (unwrapped s (.core c) e) (.CTR_CORE c) (slotsShowing s (.core c) e) = z at hz hr hcw
  have hb : ∀ k, ((coreWrapped s c e).rd (.CTR_CORE_OVF c)).getLsbD k = ((s.rd (.CTR_CORE_OVF c)).getLsbD k || (decide (k < 32) && p k)) := fun k => by
    rw [hcw, State.rd_wr_self, BitVec.getLsbD_or, getLsbD_slotBits p (by decide)]
  have hm : ∀ k, k ∈ slotsShowing s (.core c) e ↔ k < 32 ∧ p k = true := fun k => by rw [hp, List.mem_filter, List.mem_range]
  have hev : (coreWrapped s c e).events = (unwrapped s (.core c) e).events := by rw [hcw, hz]; rfl
  refine ⟨fun k hk => ⟨?_, ?_⟩, fun k h32 hk => ?_, fun hc => ?_, fun u v h => ?_, ?_⟩
  · have hk32 := ((hm k).mp hk).1
    rw [hcw, State.rd_wr_ne _ _ _ _ (by rw [key_ctrCore, key_ctrCoreOvf]; omega)]
    exact hr hk
  · rw [hb, decide_eq_true ((hm k).mp hk).1, ((hm k).mp hk).2]
    simp
  · rw [hb, decide_eq_true h32]
    have : p k = false := Bool.eq_false_iff.mpr fun h => hk ((hm k).mpr ⟨h32, h⟩)
    rw [this]
    simp
  · rw [State.eventCount, hev]
    exact count_unwrapped hw hc
  · rw [State.eventCount, hev]
    exact eventsBut_unwrapped s (.core c) e u v h
  · rw [hcw, hz, unwrapped_rest]
    rfl

theorem ledgerCore_coreWrapped (s : State) (c : Fin 384) (e : Nat) : (coreWrapped s c e).ledgerCore c = s.ledgerCore c := by
  refine ledgerCore_congr (fun h hh => ?_) ?_
  · rw [coreWrapped, State.rd_wr_ne _ _ _ _ (by rw [key_fabHandCores, key_ctrCoreOvf]; omega),
      rd_zeroed_ne (fun k _ => by rw [key_fabHandCores, key_ctrCore]; omega), rd_unwrapped]
  · show (zeroed _ _ _).folio = _
    rw [zeroed_rest, unwrapped_rest]

theorem sourceExists_block (b : Fin 57) : sourceExists (576 + b.val) = true := by revert b; decide

theorem blockWrapped_spec {s : State} {b : Fin 57} {e : Nat} (hw : wraps s (.block b) e = true) :
    let t := (blockWrapped s b e).arrive (576 + b.val)
    (∀ k, k ∈ slotsShowing s (.block b) e → t.rd (.CTR_BLK b k) = 0 ∧ (t.rd (.CTR_BLK_OVF b)).getLsbD k = true) ∧
      (s.tally (576 + b.val) < 255 → t.tally (576 + b.val) = s.tally (576 + b.val) + 1) ∧
      (counted (.block b) e = true → t.eventCount (0x1000 + b.val) e + 2 ^ 48 = s.eventCount (0x1000 + b.val) e) ∧
      eventsBut s t [(0x1000 + b.val, e)] ∧ t = { s with regs := t.regs, flips := t.flips, events := t.events } := by
  obtain ⟨p, hp⟩ := slotsShowing_block s b e
  have hz := zeroed_rest (unwrapped s (.block b) e) (.CTR_BLK b) (slotsShowing s (.block b) e)
  have hm : ∀ k, k ∈ slotsShowing s (.block b) e ↔ k < 8 ∧ p k = true := fun k => by rw [hp, List.mem_filter, List.mem_range]
  have hr := fun {k : Nat} hk => rd_zeroed (r := .CTR_BLK b) (ks := slotsShowing s (.block b) e) (by rw [hp]; exact List.nodup_range.filter _)
    (fun j k h => by rw [key_ctrBlk, key_ctrBlk]; omega) (k := k) hk (unwrapped s (.block b) e)
  have hk8 : ∀ k ∈ slotsShowing s (.block b) e, k < 8 := fun k hk => ((hm k).mp hk).1
  have hne := fun {q : Reg} h => (rd_zeroed_ne (r := .CTR_BLK b) (ks := slotsShowing s (.block b) e) (q := q) h (unwrapped s (.block b) e)).trans (rd_unwrapped ..)
  have hcw : blockWrapped s b e = (zeroed (unwrapped s (.block b) e) (.CTR_BLK b) (slotsShowing s (.block b) e)).wr (.CTR_BLK_OVF b)
    ((zeroed (unwrapped s (.block b) e) (.CTR_BLK b) (slotsShowing s (.block b) e)).rd (.CTR_BLK_OVF b) ||| BitVec.ofNat 64 (slotBits p 8)) := by
    rw [blockWrapped, hp]; rfl
  generalize zeroed (unwrapped s (.block b) e) (.CTR_BLK b) (slotsShowing s (.block b) e) = z at hz hr hcw hne
  have hu := sameUnits_arrive (blockWrapped s b e) (576 + b.val)
  have hev : ((blockWrapped s b e).arrive (576 + b.val)).events = (unwrapped s (.block b) e).events := by
    rw [hu, hcw, hz]
    rfl
  refine ⟨fun k hk => ⟨?_, ?_⟩, fun h => ?_, fun hc => ?_, fun u v h => ?_, ?_⟩
  · have := hk8 k hk
    rw [rd_arrive ⟨by rw [key_ctrBlk]; omega, by rw [key_ctrBlk]; omega⟩, hcw,
      State.rd_wr_ne _ _ _ _ (by rw [key_ctrBlk, key_ctrBlkOvf]; omega)]
    exact hr hk
  · rw [rd_arrive ⟨by rw [key_ctrBlkOvf]; omega, by rw [key_ctrBlkOvf]; omega⟩, hcw, State.rd_wr_self, BitVec.getLsbD_or,
      getLsbD_slotBits p (by decide), decide_eq_true ((hm k).mp hk).1, ((hm k).mp hk).2]
    simp
  · have ht : (blockWrapped s b e).tally (576 + b.val) = s.tally (576 + b.val) := by
      rw [State.tally, hcw, State.get_wr_ne (by rw [key_ticTally, key_ctrBlkOvf]; omega), State.get,
        hne fun k _ => by rw [key_ticTally, key_ctrBlk]; omega]
      rfl
    rw [tally_arrive_self (sourceExists_block b), ht]
    omega
  · rw [State.eventCount, hev]
    exact count_unwrapped hw hc
  · rw [State.eventCount, hev]
    exact eventsBut_unwrapped s (.block b) e u v h
  · rw [hu, hcw, hz, unwrapped_rest]
    rfl

/-! ### Writes of a block's counters (R453) -/

/-- A state with a count of an event set. -/
def withCount (s : State) (i n : Nat) : State := { s with events := s.events.set i n }

theorem blockCount_blockWrite {b : Fin 57} {k : Fin 8} {who : Agent} {s : State} (hw : s.isHouse who = true) (he : blockEvent s b k ≠ 0)
    (hc : counted (.block b) (blockFull s b k) = true) (v : Word) : (blockCount (blockWrite s who b k v) b k).1.toNat = v.toNat % 2 ^ 48 := by
  have hfin : Fin.ofNat 57 b.val = b := Fin.ext (Nat.mod_eq_of_lt b.isLt)
  have hp : ∀ r : Reg, r.key ≠ (Reg.CTR_BLK b k).key → (plainWrite s (.CTR_BLK b k) v).rd r = s.rd r := fun r h => State.rd_wr_ne _ _ _ _ h
  have hsel : (Reg.CTR_BLK_SEL b).key ≠ (Reg.CTR_BLK b k).key := by rw [key_ctrBlkSel, key_ctrBlk]; omega
  have hbw : blockWrite s who b k v = setCount (plainWrite s (.CTR_BLK b k) v) (.block b) (blockFull s b k) v.toNat := by
    unfold blockWrite
    rw [if_neg (by rw [hw]; decide)]
    dsimp only
    rw [if_neg he, hfin]
  have hset : setCount (plainWrite s (.CTR_BLK b k) v) (.block b) (blockFull s b k) v.toNat =
      withCount (plainWrite s (.CTR_BLK b k) v) ((0x1000 + b) * 2 ^ 16 + blockFull s b k)
        (s.eventCount (0x1000 + b) (blockFull s b k) / 2 ^ 48 * 2 ^ 48 + v.toNat % 2 ^ 48) := if_pos hc
  rw [hbw, hset]
  generalize ht : withCount (plainWrite s (.CTR_BLK b k) v) ((0x1000 + b) * 2 ^ 16 + blockFull s b k)
        (s.eventCount (0x1000 + b) (blockFull s b k) / 2 ^ 48 * 2 ^ 48 + v.toNat % 2 ^ 48) = t
  have hte : blockEvent t b k = blockEvent s b k := by
    rw [← ht]
    exact congrArg (Fld.get _) (hp _ hsel)
  have htf : blockFull t b k = blockFull s b k := by rw [blockFull, blockFull, hte]
  have htc : t.eventCount (0x1000 + b) (blockFull s b k) = s.eventCount (0x1000 + b) (blockFull s b k) / 2 ^ 48 * 2 ^ 48 + v.toNat % 2 ^ 48 := by
    rw [← ht]
    exact NMap.getD_set_self ..
  have h56 : ¬ (b.val = 56 ∧ 5 ≤ blockEvent s b k) := by
    rintro ⟨h56, h5⟩
    have hlt : blockEvent s b k < 256 := Nat.lt_of_lt_of_eq (State.get_lt ..) (by
      have h8 : 8 * k.val + 7 - 8 * k.val + 1 = 8 := by omega
      show 2 ^ (8 * k.val + 7 - 8 * k.val + 1) = 256
      rw [h8]
      rfl)
    have hk : unitKind (0x1000 + b) = 5 := by rw [h56]; decide
    unfold counted at hc
    simp only [blockFull, hk, List.any_cons, List.any_nil, Bool.or_false, Bool.or_eq_true, Bool.and_eq_true, decide_eq_true_eq] at hc
    omega
  unfold blockCount
  dsimp only
  rw [hte, if_neg he, if_neg h56, htf, hfin, if_pos hc, htc, BitVec.toNat_ofNat]
  omega

/-! ### The sampling CSRs (R456, R457) -/

section Sampling
variable {c : Fin 384} {w : BitVec 32} {v : Word} {s : State}

theorem mjsctlEnable_eq (hr : s.ready c = true) (hp : (s.core c).priv = 3) :
    exec (.mjsctlEnable c ⟨w, v⟩) s = .next ((writeSampling s c 0x7C8 v).retire c 4) :=
  (if_neg (by rw [hr]; decide)).trans (if_neg (not_not_intro hp))

theorem writeSampling_ctl (hm : maySample s c = true) : writeSampling s c 0x7C8 v = writeJsctl s c v :=
  (if_neg (by rw [hm]; decide)).trans (if_pos rfl)

/-- mjsctl written in an open hand: the CSR holds the value, and the instruction retires. -/
theorem mjsctlEnable_spec {x : Word} (hr : s.ready c = true) (hp : (s.core c).priv = 3) (ho : s.ledgerCore c = false)
    (hx : writeSampling s c 0x7C8 v = s.setCsr c 0x7C8 x) : ∃ t, exec (.mjsctlEnable c ⟨w, v⟩) s = .next t ∧ t.csr c 0x7C8 = x ∧
      retiredBut s t c 4 (s.core c) [.CSR c 0x7C8] ∧ t = { s with regs := t.regs, cores := t.cores } := by
  have ha := (Acted.refl s c [0x7C8]).setCsr (List.mem_singleton_self _) x
  refine ⟨movedOn (s.setCsr c 0x7C8 x) c 4, ?_, ?_, ha.retiredBut (by decide) (by decide) 4, ha.rest.trans (onlyRegsCores_movedOn ..)⟩
  · rw [mjsctlEnable_eq hr hp, hx, retire_of_open c.isLt (by rw [ledgerCore_setCsr _ _ _ _ c.isLt, ho])]
  · rw [csr_movedOn_of_ne (by decide), csr_setCsr_self]

end Sampling

/-! ### The record (R458) -/

theorem length_leBytes (n v : Nat) : (leBytes n v).length = n := by rw [leBytes, List.length_map, List.length_range]

theorem getElem?_leBytes {n i : Nat} (h : i < n) (v : Nat) : (leBytes n v)[i]? = some (BitVec.ofNat 8 (v / 256 ^ i)) := by
  rw [leBytes, List.getElem?_map, List.getElem?_range h]
  rfl

/-- A bit of bytes laid side by side. -/
theorem getLsbD_foldl_bytes (l : List (Byte × Nat)) (acc : LineData) {m : Nat} (hm : m < 512) :
    (l.foldl (fun (l : LineData) (e : Byte × Nat) => l ||| (e.1.setWidth 512 : LineData) <<< (8 * (0 + e.2))) acc).getLsbD m =
      (acc.getLsbD m || l.any (fun e => decide (8 * e.2 ≤ m) && e.1.getLsbD (m - 8 * e.2))) := by
  induction l generalizing acc with
  | nil => simp
  | cons e l ih =>
    rw [List.foldl_cons, ih, BitVec.getLsbD_or, BitVec.getLsbD_shiftLeft, BitVec.getLsbD_setWidth, List.any_cons, Nat.zero_add,
      decide_eq_true hm, decide_eq_true (by omega : m - 8 * e.2 < 512)]
    by_cases h : m < 8 * e.2
    · rw [decide_eq_true h, decide_eq_false (by omega : ¬ 8 * e.2 ≤ m)]
      simp
    · rw [decide_eq_false h, decide_eq_true (by omega : 8 * e.2 ≤ m)]
      simp [Bool.or_assoc]

theorem getLsbD_lineFrom (bs : List Byte) {m : Nat} (hm : m < 512) {b : Byte} (hb : bs[m / 8]? = some b) :
    (lineFrom 0 bs).1.getLsbD m = b.getLsbD (m % 8) := by
  unfold lineFrom
  dsimp only
  rw [getLsbD_foldl_bytes _ _ hm, show (0 : LineData).getLsbD m = false from BitVec.getLsbD_zero, Bool.false_or, Bool.eq_iff_iff, List.any_eq_true]
  constructor
  · rintro ⟨⟨x, i⟩, hx, h⟩
    rw [Bool.and_eq_true, decide_eq_true_eq] at h
    obtain ⟨hle, hbit⟩ := h
    have h8 : m - 8 * i < 8 := BitVec.lt_of_getLsbD hbit
    have hi : i = m / 8 := by omega
    obtain ⟨j, hj⟩ := List.mem_iff_getElem?.mp hx
    rw [List.getElem?_zip_eq_some] at hj
    have hjr := hj.2
    have hjl : j < bs.length := by
      by_contra hc
      rw [List.getElem?_eq_none (by simpa using hc)] at hjr
      exact absurd hjr (by simp)
    rw [List.getElem?_range hjl] at hjr
    have hji : j = i := Option.some.inj hjr
    rw [hji, hi, hb] at hj
    obtain rfl := Option.some.inj hj.1
    rwa [show m - 8 * i = m % 8 by omega] at hbit
  · intro h
    have hl : m / 8 < bs.length := by
      by_contra hc
      rw [List.getElem?_eq_none (by omega)] at hb
      exact absurd hb (by simp)
    refine ⟨(b, m / 8), List.mem_iff_getElem?.mpr ⟨m / 8, List.getElem?_zip_eq_some.mpr ⟨hb, List.getElem?_range hl⟩⟩, ?_⟩
    rw [Bool.and_eq_true, decide_eq_true_eq, show m - 8 * (m / 8) = m % 8 by omega]
    exact ⟨by omega, h⟩

/-- The number that `n` bytes of a line hold from byte `a` on. -/
theorem extract_lineFrom {bs : List Byte} {pre post : List Byte} {n v : Nat} (hbs : bs = pre ++ (leBytes n v ++ post))
    (hn : pre.length + n ≤ 64) : (lineFrom 0 bs).1.extractLsb' (8 * pre.length) (8 * n) = BitVec.ofNat (8 * n) v := by
  refine BitVec.eq_of_getLsbD_eq fun j hj => ?_
  have hb : bs[(8 * pre.length + j) / 8]? = some (BitVec.ofNat 8 (v / 256 ^ (j / 8))) := by
    rw [hbs, List.getElem?_append_right (by omega), List.getElem?_append_left (by rw [length_leBytes]; omega),
      getElem?_leBytes (by omega), show (8 * pre.length + j) / 8 - pre.length = j / 8 by omega]
  rw [BitVec.getLsbD_extractLsb', decide_eq_true hj, Bool.true_and, getLsbD_lineFrom bs (by omega) hb, BitVec.getLsbD_ofNat, BitVec.getLsbD_ofNat,
    show (8 * pre.length + j) % 8 = j % 8 by omega, decide_eq_true (by omega : j % 8 < 8), decide_eq_true hj,
    show (256 : Nat) = 2 ^ 8 from rfl, ← Nat.pow_mul, Nat.testBit_div_two_pow, show j % 8 + 8 * (j / 8) = j by omega]

theorem length_sampleBytes (s : State) (c : Nat) (m : SampleInfo) : (sampleBytes s c m).length = 64 := by
  unfold sampleBytes
  simp only [List.length_append, length_leBytes, List.length_cons, List.length_nil]
  rfl

theorem sample_insn (s : State) (c : Nat) (m : SampleInfo) : (lineFrom 0 (sampleBytes s c m)).1.extractLsb' 64 32 = m.insn := by
  obtain ⟨pre, post, hp, hb⟩ : ∃ pre post, pre.length = 8 ∧ sampleBytes s c m = pre ++ (leBytes 4 m.insn.toNat ++ post) := by
    simp only [sampleBytes, List.append_assoc]
    exact ⟨_, _, length_leBytes .., rfl⟩
  have h := extract_lineFrom hb (by omega)
  rw [hp] at h
  exact h.trans (BitVec.eq_of_toNat_eq (by rw [BitVec.toNat_ofNat]; exact Nat.mod_eq_of_lt m.insn.isLt))

theorem sample_time (s : State) (c : Nat) (m : SampleInfo) :
    (lineFrom 0 (sampleBytes s c m)).1.extractLsb' 256 64 = BitVec.ofNat 64 s.mtime := by
  obtain ⟨pre, post, hp, hb⟩ : ∃ pre post, pre.length = 32 ∧ sampleBytes s c m = pre ++ (leBytes 8 s.mtime ++ post) := by
    unfold sampleBytes
    dsimp only
    rw [List.append_assoc, List.append_assoc, List.append_assoc, List.append_assoc]
    exact ⟨_, _, by simp only [List.length_append, length_leBytes, List.length_cons, List.length_nil], rfl⟩
  have h := extract_lineFrom hb (by omega)
  rwa [hp] at h

section Record
variable {c : Fin 384} {m : SampleInfo} {s : State} (hr : s.runs c = true) (hm : maySample s c = true) (he : (s.csr c 0x7C8).getLsbD 0 = true)
include hr hm he

theorem sample_acts : ¬ ¬ (s.runs c = true ∧ maySample s c = true ∧ (s.csr c 0x7C8).getLsbD 0 = true) := not_not_intro ⟨hr, hm, he⟩

theorem sampleRecord_room (h : (s.csr c 0x7CB).toNat + 64 ≤ (s.csr c 0x7CA).toNat) :
    let d := lineFrom 0 (sampleBytes s c m)
    exec (.sampleRecord c m) s = .next ((putStore s c ⟨((s.csr c 0x7C9).toNat + (s.csr c 0x7CB).toNat) / 64, d.1, d.2, false, false, false⟩).setCsr c
      0x7CB (BitVec.ofNat 64 ((s.csr c 0x7CB).toNat + 64) &&& 0xFFFFFFC0)) :=
  (if_neg (sample_acts hr hm he)).trans (if_neg (Nat.not_lt.mpr h))

theorem sampleRecord_full (h : (s.csr c 0x7CA).toNat < (s.csr c 0x7CB).toNat + 64) : exec (.sampleRecord c m) s =
    .next (notify (setMip (s.setCsr c 0x7C8 ((s.csr c 0x7C8 &&& ~~~ 1) ||| 2)) c 13 true) c) :=
  (if_neg (sample_acts hr hm he)).trans (if_pos h)

end Record

/-- One store of an open hand into an empty merging buffer takes one entry. -/
theorem putStore_empty {s : State} {c : Nat} (hc : c < 384) (ho : s.ledgerCore c = false) (hm : (s.core c).mb = []) (hst : (s.core c).stores = [])
    (e : MbEnt) : putStore s c e = sramWrite (s.setCore c { s.core c with mb := [e] }) 7 c (e.line * 64) := by
  generalize ht : sramWrite (s.setCore c { s.core c with mb := [e] }) 7 c (e.line * 64) = t
  have hu : sameUnits (s.setCore c { s.core c with mb := [e] }) t := ht ▸ sameUnits_sramWrite ..
  have hk : t.core c = { s.core c with mb := [e] } := by
    rw [hu]
    exact State.core_setCore_self ..
  have hl : t.ledgerCore c = false := by
    refine Eq.trans (ledgerCore_congr (fun h hh => ?_) ?_) ho
    · rw [← ht, rd_sramWrite_of_ne (by rw [key_fabHandCores]; omega)]
      rfl
    · rw [hu]
      rfl
  have hb : bufStore (s.core c).mb 16 e = some [e] := by rw [hm]; rfl
  unfold putStore
  dsimp only
  rw [if_neg (not_not_intro hst), hb]
  have hd : drainOldest t c = t := by
    unfold drainOldest
    dsimp only
    rw [hk]
    rfl
  subst ht
  exact (congrArg (drainOldest · c) (if_neg fun h => Bool.false_ne_true (hl.symm.trans h.1))).trans hd

theorem sampleRecord_stores {c : Fin 384} {m : SampleInfo} {s : State} (hr : s.runs c = true) (hm : maySample s c = true)
    (he : (s.csr c 0x7C8).getLsbD 0 = true) (h : (s.csr c 0x7CB).toNat + 64 ≤ (s.csr c 0x7CA).toNat) (ho : s.ledgerCore c = false)
    (hmb : (s.core c).mb = []) (hst : (s.core c).stores = []) :
    ∃ t, exec (.sampleRecord c m) s = .next t ∧ t.csr c 0x7CB = BitVec.ofNat 64 ((s.csr c 0x7CB).toNat + 64) &&& 0xFFFFFFC0 ∧
      t.csr c 0x7C8 = s.csr c 0x7C8 ∧
      (∃ x, (t.core c).mb = [x] ∧ x.line = ((s.csr c 0x7C9).toNat + (s.csr c 0x7CB).toNat) / 64 ∧ x.mask = BitVec.allOnes 64 ∧
        x.data.extractLsb' 64 32 = m.insn ∧ x.data.extractLsb' 256 64 = BitVec.ofNat 64 s.mtime) ∧
      coresBut s t [c.val] ∧ t.dram = s.dram := by
  refine ⟨_, sampleRecord_room hr hm he h, csr_setCsr_self .., ?_⟩
  have hmask : (lineFrom 0 (sampleBytes s c m)).2 = BitVec.allOnes 64 := by
    show needMask 0 (sampleBytes s c m).length = _
    rw [length_sampleBytes]
    decide
  have hin := sample_insn s c m
  have htm := sample_time s c m
  generalize lineFrom 0 (sampleBytes s c m) = d at hmask hin htm
  rw [putStore_empty c.isLt ho hmb hst]
  generalize hx : MbEnt.mk (((s.csr c 0x7C9).toNat + (s.csr c 0x7CB).toNat) / 64) d.1 d.2 false false false = x
  have hu := sameUnits_sramWrite (s.setCore c { s.core c with mb := [x] }) 7 c (x.line * 64)
  have hrd := rd_sramWrite_of_ne (r := .CSR c 0x7C8) (by rw [key_csr]; omega) (s.setCore c { s.core c with mb := [x] }) 7 c (x.line * 64)
  generalize sramWrite (s.setCore c { s.core c with mb := [x] }) 7 c (x.line * 64) = t at hu hrd
  refine ⟨(csr_setCsr_ne (by decide) ..).trans hrd, ⟨x, ?_, by rw [← hx], by rw [← hx]; exact hmask, by rw [← hx]; exact hin, by rw [← hx]; exact htm⟩,
    fun k hk => ?_, ?_⟩
  · show (t.core c).mb = _
    rw [hu]
    exact congrArg Core.mb (State.core_setCore_self ..)
  · show t.core k = _
    rw [hu]
    exact State.core_setCore_ne _ _ _ _ (by simpa using hk)
  · show t.dram = _
    rw [hu]
    rfl

theorem sampleRecord_drops {c : Fin 384} {m : SampleInfo} {s : State} (hr : s.runs c = true) (hm : maySample s c = true)
    (he : (s.csr c 0x7C8).getLsbD 0 = true) (h : (s.csr c 0x7CA).toNat < (s.csr c 0x7CB).toNat + 64) (h0 : s.csr c 0x304 = 0) :
    ∃ t, exec (.sampleRecord c m) s = .next t ∧ (t.csr c 0x7C8).getLsbD 0 = false ∧ (t.csr c 0x7C8).getLsbD 1 = true ∧
      (t.csr c 0x344).getLsbD 13 = true ∧ t.cores = s.cores ∧ regsBut s t [.CSR c 0x7C8, .CSR c 0x344] := by
  have ha : (s.core c).asleep = false := by
    unfold State.runs at hr
    simp only [Bool.and_eq_true, Bool.not_eq_true'] at hr
    exact hr.1.1.2
  refine ⟨_, sampleRecord_full hr hm he h, ?_⟩
  generalize hu : s.setCsr c 0x7C8 ((s.csr c 0x7C8 &&& ~~~ 1) ||| 2) = u
  have hu0 : u.csr c 0x304 = 0 := by rw [← hu, csr_setCsr_ne (by decide), h0]
  have huc : u.cores = s.cores := by rw [← hu]; rfl
  have hua : (u.core c).asleep = false := by rw [State.core, huc]; exact ha
  have hu8 : u.csr c 0x7C8 = (s.csr c 0x7C8 &&& ~~~ 1) ||| 2 := by rw [← hu, csr_setCsr_self]
  rw [notify_of_masked (by rw [csr_setMip_ne (by decide), hu0]) (by rw [core_setMip, hua])]
  refine ⟨?_, ?_, csr_setMip_self u c (by decide) true, huc, fun r hr => ?_⟩
  · rw [csr_setMip_ne (by decide), hu8, BitVec.getLsbD_or, BitVec.getLsbD_and]
    simp
  · rw [csr_setMip_ne (by decide), hu8, BitVec.getLsbD_or]
    simp
  · rw [(mipOnly_setMip u c 13 true).rd r (hr _ (List.mem_cons_of_mem _ (List.mem_singleton_self _))), ← hu]
    exact State.rd_wr_ne _ _ _ _ (hr _ List.mem_cons_self)

/-- Settles O51, by the wrap of a core's and of a block's counter, the writes of mjsctl, and the record that is stored or dropped. -/
theorem counters : Obligations.Counters := by
  unfold Obligations.Counters
  refine ⟨fun c e s he hs hw => ?_, fun c s _ _ h0 ha => ?_, fun b e s he hs hw => ⟨_, counterWrap_block he hs hw, blockWrapped_spec hw⟩,
    fun u e s => counterWrap_idle, fun b k who v s hw he hc => blockCount_blockWrite hw he hc v, fun b k who v s hw => if_pos (by rw [hw]; decide),
    fun c w v s hr hp => ⟨mjsctlEnable_eq hr hp, fun hm => if_pos (by rw [hm]; rfl), fun hm h0 => ?_⟩,
    fun c w v s hr hp ho hm hv => ⟨fun hj => ?_, fun hj => ?_⟩, fun c w v s => ⟨fun hr hp => ?_, fun hr => if_pos (by rw [hr]; rfl)⟩,
    fun c m s hr hm he => ⟨sampleRecord_room hr hm he, sampleRecord_full hr hm he⟩, fun c m s hr hm he =>
    ⟨fun h _ _ ho hmb hst => sampleRecord_stores hr hm he h ho hmb hst, fun h h0 _ => sampleRecord_drops hr hm he h h0⟩, fun c m s h => ?_⟩
  · obtain ⟨h1, h2, h3, h4, h5⟩ := coreWrapped_spec hw
    exact ⟨_, (counterWrap_core he hs hw).trans (by rw [ledgerCore_coreWrapped]), h1, h2, h3, h4, h5⟩
  · rw [notify_of_masked (by rw [csr_setMip_ne (by decide), h0]) (by rw [core_setMip, ha])]
    exact csr_setMip_self s c (by decide) true
  · exact (writeSampling_ctl hm).trans (if_pos (by rw [h0]; rfl))
  · exact mjsctlEnable_spec hr hp ho ((writeSampling_ctl hm).trans ((if_neg (by rw [hv]; decide)).trans (if_pos hj)))
  · exact mjsctlEnable_spec hr hp ho ((writeSampling_ctl hm).trans ((if_neg (by rw [hv]; decide)).trans (if_neg (by rw [hj]; decide))))
  · exact (if_neg (by rw [hr]; decide)).trans (if_pos hp)
  · refine if_pos fun hn => ?_
    obtain ⟨h1, h2, h3⟩ := hn
    rcases h with h | h | h
    · exact absurd h2 (by rw [h]; decide)
    · exact absurd h1 (by rw [h]; decide)
    · exact absurd h3 (by
        show ¬ (s.csr c 0x7C8).getLsbD 0 = true
        rw [h]; decide)

end Sys2Proof.Machine
end

section
/-! SUPPORT. Which register writes take effect, and the instructions that set vtype and vl (R11, R12, R14, R17, R135). -/

namespace Sys2Proof.Machine

/-! ### Writes of the control space (R11, R12, R17, R249) -/

theorem outState_next (s t : State) : outState s (.next t) = t := rfl

theorem registerWrite_reaches {who : Agent} {a : Nat} {r : Reg} {s : State} (h8 : a % 8 = 0) (hr : Reg.ofAddr a = some r)
    (hk : match who with | .core c => ∃ h, s.handOf c = some h ∧ ctrlOk s h a = true | _ => True) (v : Word) :
    exec (.registerWrite who (.ctrl a) v) s = .next (outState s (barred s who r (.next (writeReg s who r v)))) := by
  have hx : exec (.registerWrite who (.ctrl a) v) s = .next (writeCtrl s who a v) := rfl
  rw [hx]
  unfold writeCtrl
  rw [hr]
  cases who with
  | core c =>
    obtain ⟨h, hh, hc⟩ := hk
    simp [h8, hh, hc]
  | archivist => simp [h8]
  | bmc => simp [h8]

theorem registerWrite_misses {who : Agent} {a : Nat} {s : State} (h : a % 8 ≠ 0 ∨ Reg.ofAddr a = none) (v : Word) :
    exec (.registerWrite who (.ctrl a) v) s = .next s := by
  have hx : exec (.registerWrite who (.ctrl a) v) s = .next (writeCtrl s who a v) := rfl
  rw [hx]
  unfold writeCtrl
  rcases h with h | h
  · simp [h]
  · rw [h]
    simp

theorem registerWrite_unreached {c : Fin 384} {a : Nat} {s : State} (h : ∀ g, s.handOf c = some g → ctrlOk s g a = false) (v : Word) :
    exec (.registerWrite (.core c) (.ctrl a) v) s = .next s := by
  have hx : exec (.registerWrite (.core c) (.ctrl a) v) s = .next (writeCtrl s (.core c) a v) := rfl
  rw [hx]
  have hk : (match s.handOf c.val with | some g => ctrlOk s g a | none => false) = false := by
    cases hg : s.handOf c.val with
    | none => rfl
    | some g => exact h g hg
  exact congrArg Host.Outcome.next (if_pos (by rw [Bool.not_eq_true', Bool.and_eq_false_iff]; exact .inr hk))

theorem winSize_of_house {who : Agent} {s : State} (h : s.isHouse who = true) (p : Fin 8) (w : Fin 16) (v : Word) :
    writeReg s who (.HP_WIN_SIZE p w) v = plainWrite s (.HP_WIN_SIZE p w) v := by
  have hna : ¬ (who = .archivist ∧ inBoot s = true) := by
    rintro ⟨rfl, -⟩
    exact Bool.false_ne_true h
  exact (if_neg hna).trans (if_pos h)

theorem winSize_of_stranger {who : Agent} {s : State} (h : s.isHouse who = false) (ha : who ≠ .archivist) (p : Fin 8) (w : Fin 16) (v : Word) :
    writeReg s who (.HP_WIN_SIZE p w) v = s :=
  (if_neg fun hc => ha hc.1).trans (if_neg (by rw [h]; decide))

/-! ### The instructions that set vtype and vl (R135, R137) -/

theorem vsetInsn_eq {s : State} {c : Nat} {w : BitVec 32} (hv : vsOff s c = false) (h31 : w.getLsbD 31 = false)
    (hm : vlmaxOf (wbits w 30 20) ≠ 0) (hs : wbits w 19 15 ≠ 0) : vsetInsn s c w =
      ((dirtyVs (((s.setCsr c 0xC21 (BitVec.ofNat 64 (wbits w 30 20))).setCsr c 0xC20
        (BitVec.ofNat 64 (vlFor (s.xreg c (wbits w 19 15)).toNat (vlmaxOf (wbits w 30 20))))).setCsr c 0x008 0) c).setX c (wbits w 11 7)
        (BitVec.ofNat 64 (vlFor (s.xreg c (wbits w 19 15)).toNat (vlmaxOf (wbits w 30 20))))).retire c 4 := by
  unfold vsetInsn
  rw [if_neg (by rw [hv]; decide)]
  rw [BitVec.getLsbD_eq_getElem (by decide)] at h31
  simp [h31, hm, hs]

theorem vsetInsn_spec {s : State} {c : Fin 384} {w : BitVec 32} (hv : vsOff s c = false) (ho : s.ledgerCore c = false)
    (h31 : w.getLsbD 31 = false) (hm : vlmaxOf (wbits w 30 20) ≠ 0) (hs : wbits w 19 15 ≠ 0) :
    let t := vsetInsn s c w
    let vl := BitVec.ofNat 64 (vlFor (s.xreg c (wbits w 19 15)).toNat (vlmaxOf (wbits w 30 20)))
    t.csr c 0xC21 = BitVec.ofNat 64 (wbits w 30 20) ∧ t.csr c 0xC20 = vl ∧ t.csr c 0x008 = 0 ∧
      t.xreg c (wbits w 11 7) = (if wbits w 11 7 = 0 then 0 else vl) ∧ (t.core c).pc = (s.core c).pc + 4 := by
  intro t vl
  have ht : t = ((dirtyVs (((s.setCsr c 0xC21 (BitVec.ofNat 64 (wbits w 30 20))).setCsr c 0xC20 vl).setCsr c 0x008 0) c).setX c
    (wbits w 11 7) vl).retire c 4 := vsetInsn_eq hv h31 hm hs
  clear_value t
  generalize vl = x at ht ⊢
  have ha : Acted s c [0xC21, 0xC20, 0x008, 0x300, 0x200] (s.core c)
      (dirtyVs (((s.setCsr c 0xC21 (BitVec.ofNat 64 (wbits w 30 20))).setCsr c 0xC20 x).setCsr c 0x008 0) c) :=
    ((((Acted.refl s c _).setCsr (by decide) _).setCsr (by decide) _).setCsr (by decide) _).dirtyVs (by decide) (by decide)
  have hd : ∀ u : State, ∀ n, n ≠ 0x300 → n ≠ 0x200 → (dirtyVs u c).csr c n = u.csr c n := fun u n h3 h2 => by
    rw [dirtyVs, dirtyField]
    split
    · rw [csr_setCsr_ne h2, csr_setCsr_ne h3]
    · exact csr_setCsr_ne h3 ..
  have h1 : (dirtyVs (((s.setCsr c 0xC21 (BitVec.ofNat 64 (wbits w 30 20))).setCsr c 0xC20 x).setCsr c 0x008 0) c).csr c 0xC21 =
      BitVec.ofNat 64 (wbits w 30 20) := by
    rw [hd _ _ (by decide) (by decide), csr_setCsr_ne (by decide), csr_setCsr_ne (by decide), csr_setCsr_self]
  have h2 : (dirtyVs (((s.setCsr c 0xC21 (BitVec.ofNat 64 (wbits w 30 20))).setCsr c 0xC20 x).setCsr c 0x008 0) c).csr c 0xC20 = x := by
    rw [hd _ _ (by decide) (by decide), csr_setCsr_ne (by decide), csr_setCsr_self]
  have h3 : (dirtyVs (((s.setCsr c 0xC21 (BitVec.ofNat 64 (wbits w 30 20))).setCsr c 0xC20 x).setCsr c 0x008 0) c).csr c 0x008 = 0 := by
    rw [hd _ _ (by decide) (by decide), csr_setCsr_self]
  generalize dirtyVs (((s.setCsr c 0xC21 (BitVec.ofNat 64 (wbits w 30 20))).setCsr c 0xC20 x).setCsr c 0x008 0) c = u at ht ha h1 h2 h3
  have hX := onlyCore_setX u c (wbits w 11 7) x
  have hxr : (u.setX c (wbits w 11 7) x).xreg c (wbits w 11 7) = if wbits w 11 7 = 0 then 0 else x := xreg_setX_self ..
  have hpc : ((u.setX c (wbits w 11 7) x).core c).pc = (s.core c).pc := (pc_setX ..).trans (by rw [ha.core])
  have hc : ∀ n, (u.setX c (wbits w 11 7) x).csr c n = u.csr c n := fun n => by rw [hX]; rfl
  have hl : (u.setX c (wbits w 11 7) x).ledgerCore c = false := by
    rw [hX]
    exact (ha.ledgerCore_eq c.isLt).trans ho
  generalize u.setX c (wbits w 11 7) x = y at ht hxr hpc hc hl
  rw [ht, retire_of_open c.isLt hl]
  refine ⟨?_, ?_, ?_, ?_, ?_⟩
  · rw [csr_movedOn_of_ne (by decide), hc, h1]
  · rw [csr_movedOn_of_ne (by decide), hc, h2]
  · rw [csr_movedOn_of_ne (by decide), hc, h3]
  · rw [← hxr, State.xreg, core_movedOn]
    rfl
  · rw [core_movedOn, stepped, hpc]
    rfl

/-- Settles O55, by the writes that an agent's address reaches and those that it does not, and by the instructions that write CSRs. -/
theorem registerWrite : Obligations.RegisterWrite := by
  unfold Obligations.RegisterWrite
  refine ⟨fun who a r v s h8 hr hl hk => ?_, fun c a r h v s h8 hr hh => ⟨fun hk hb => ?_, fun hk hl hm => ?_, fun hk => ?_⟩,
    fun who a v s h => registerWrite_misses h v, fun c a v s h => registerWrite_unreached (fun g hg => by rw [h] at hg; exact absurd hg (by simp)) v,
    fun who p w v s => ⟨fun hw => ?_, fun hw ha => winSize_of_stranger hw ha p w v⟩, fun who f off n v s => ⟨fun he hf hd => ?_, fun h => ?_⟩,
    fun who c w v s => ⟨fun hw hr => ?_, fun h => ?_⟩, fun c w v s => ⟨fun e he => ?_, fun hv => if_pos hv, fun hv ho h31 hm hs =>
    vsetInsn_spec hv ho h31 hm hs⟩⟩
  · rw [registerWrite_reaches h8 hr hk, barred_of_notLedger hl, outState_next]
  · rw [registerWrite_reaches (who := .core c) h8 hr ⟨h, hh, hk⟩, barred_of_bars hb]
    rfl
  · have hn : barred s (.core c) r (.next (writeReg s (.core c) r v)) = .next (writeReg s (.core c) r v) := by simp [barred, hm]
    rw [registerWrite_reaches (who := .core c) h8 hr ⟨h, hh, hk⟩, hn, outState_next]
  · exact registerWrite_unreached (fun g hg => by rw [hh] at hg; exact (Option.some.inj hg) ▸ hk) v
  · rw [winSize_of_house hw]
    refine ⟨?_, regsBut_wr _ _ _⟩
    rw [plainWrite, State.get_wr_self]
    exact (registerFields (.HP_WIN_SIZE p w) _ v _ (List.mem_singleton_self _)).1 (.inr rfl)
  · exact if_pos ⟨he, by rw [hf]; decide, by rw [hd]; decide⟩
  · refine if_neg fun hc => ?_
    obtain ⟨h1, h2, h3⟩ := hc
    rcases h with h | h | h
    · exact absurd h1 (by rw [h]; decide)
    · exact h2 h
    · exact h3 h
  · exact ⟨if_pos ⟨hw, hr⟩, if_pos ⟨hw, hr⟩⟩
  · have hn : ¬ (who = .core c ∧ s.ready c = true) := fun hc => h.elim (fun h => h hc.1) fun h => Bool.false_ne_true (h.symm.trans hc.2)
    exact ⟨if_neg hn, if_neg hn⟩
  · unfold writeCsr
    simp only [he]

end Sys2Proof.Machine
end

section
/-! SUPPORT. The start of a ledger hand whose intake is not staged in time (R126, R254, R435). -/

namespace Sys2Proof.Machine

/-! ### A ledger hand whose intake is not staged at its start -/

/-- The folio of a hand 0 in open mode and a hand 1 in ledger mode, where a fault of class 23 stops its hand. -/
def strictFolio : Folio :=
  { Folio.empty with
    hands := [⟨0, false, 0, 1, 0, 1, 0, []⟩, ⟨0, false, 1, 2, 0, 1, 0, []⟩]
    faults := { Folio.empty.faults with policy := List.replicate 24 ⟨2, 128⟩ } }

/-- A POST due at epoch 0, in staging, of a port whose link is down. -/
def unstaged : Intake := ⟨0, 0, 64, 0, 0, 0, 0xFFFF, none, none, 1, 0, 0, [], [], false, 0⟩

/-- H[0] with core 0, and the ledger hand 1 with core 1, STOPPED on a die in Play, and an intake that is not staged. -/
def unstagedState : State :=
  { ((((((State.reset.wr (.FAB_HAND_CORES 0 0) 1).wr (.FAB_HAND_CORES 1 0) 2).wr (.CORE_STATE 1) 1).put (.FLT_DIE 0) F.FLT_DIE_STATE 1).put
      (.SCK_DIE 0) F.SCK_DIE_STATE 0).put (.SCK_DIE 0) F.SCK_DIE_TARGET 0) with
    folio := strictFolio
    ledgers := [(1, { Ledger.init with intakes := [unstaged], nextId := 1 })] }

theorem handState_unstaged : unstagedState.handState 1 = 1 := by decide

theorem coreState_unstaged : (outState unstagedState (exec (.coreCtlStart (.core 0) 1 1) unstagedState)).coreState 1 = 4 := by decide +kernel

/-- Refutes O9: START of the last core of a ledger hand whose intake is not staged yet holds the Deliver phase before epoch 0, which is a fault of
class 23; where the folio answers that class with the loss of the hand, the core is STOPPING after its START, and not STARTING. -/
theorem not_coreLife : ¬ Obligations.CoreLife := by
  rintro ⟨⟨h, -⟩, -⟩
  obtain ⟨t, ht, h2, -⟩ := h (.core 0) 1 1 unstagedState 1 (by decide) (by decide) (by decide) (by decide) (by decide) (by decide) (by decide) (by decide)
    (.inl handState_unstaged)
  have h4 := coreState_unstaged
  rw [ht] at h4
  cases h4.symm.trans h2

end Sys2Proof.Machine
end

section
/-! SUPPORT. Timer and software interrupts, the instructions that wait, and ECALL (R124, R144, R146, R152, R180, R250, R382). -/

namespace Sys2Proof.Machine

/-! ### Timer and software interrupts (R124, R152, R250) -/

theorem holder_of_open {s : State} {c h : Nat} (hh : s.handOf c = some h) (ho : s.folio.isLedger h = false) (who : Agent) : holder s who c = none := by
  unfold holder
  cases who <;> simp [hh, ho]

theorem coreRegWriter_of_house {s : State} {who : Agent} {c h : Nat} (hw : s.isHouse who = true) (hh : s.handOf c = some h)
    (ho : s.folio.isLedger h = false) : coreRegWriter s who c = true := by
  cases who with
  | core w => simp [coreRegWriter, hh, ledgerLive, ho, hw]
  | _ => cases hw

theorem coreRegWrite_of_writer {s : State} {who : Agent} {c : Nat} (hw : coreRegWriter s who c = true) (hh : holder s who c = none) (r : Reg)
    (v : Word) : coreRegWrite s who r c v = setCoreReg s r c v := by
  unfold coreRegWrite
  rw [hh]
  exact if_pos hw

theorem coreRegWrite_of_stranger {s : State} {who : Agent} {c : Nat} (hw : coreRegWriter s who c = false) (hh : holder s who c = none) (r : Reg)
    (v : Word) : coreRegWrite s who r c v = s := by
  unfold coreRegWrite
  rw [hh]
  exact if_neg (by rw [hw]; decide)

theorem key_coreMsip (c : Nat) : (Reg.CORE_MSIP c).key = 0xF00010200018 + c / 24 * 0x1000000 + c % 24 * 0x40 := by
  simp only [Reg.key]
  omega

theorem key_coreMtimecmp (c : Nat) : (Reg.CORE_MTIMECMP c).key = 0xF00010200010 + c / 24 * 0x1000000 + c % 24 * 0x40 := by
  simp only [Reg.key]
  omega

/-- What one bit of mip shows after the others of `refreshMip` are written. -/
theorem mip_setMip_ne (s : State) (c : Nat) {i j : Nat} (h : j ≠ i) (hj : j < 64) (b : Bool) :
    ((setMip s c i b).csr c 0x344).getLsbD j = (s.csr c 0x344).getLsbD j := by
  rw [setMip, csr_setCsr_self, getLsbD_setBit_ne _ h hj]

theorem ledgerCore_of_handOf {s : State} {c h : Nat} (hh : s.handOf c = some h) (ho : s.folio.isLedger h = false) : s.ledgerCore c = false := by
  unfold State.ledgerCore
  rw [hh]
  exact ho

theorem timeOf_of_open {s : State} {c : Nat} (ho : s.ledgerCore c = false) : timeOf s c = s.mtime := by
  unfold State.ledgerCore at ho
  unfold timeOf
  cases hh : s.handOf c with
  | none => rfl
  | some h =>
    rw [hh] at ho
    exact if_neg (by rw [show s.folio.isLedger h = false from ho]; decide)

theorem machineDue_of_open {s : State} {c : Nat} (ho : s.ledgerCore c = false) :
    timerDue s c .machine = decide ((s.rd (.CORE_MTIMECMP c)).toNat ≤ s.mtime) := by
  rw [timerDue, timeOf_of_open ho]

/-- mip after the software interrupt and the machine timer are written. -/
def timed (s : State) (c : Nat) : State :=
  let s := setMip s c 3 (s.bit (.CORE_MSIP c) F.CORE_MSIP_MSIP)
  setMip s c 7 (timerDue s c .machine)

theorem mip_refreshMip_of_timed (s : State) (c : Nat) {j : Nat} (h : j = 3 ∨ j = 7) :
    ((refreshMip s c).csr c 0x344).getLsbD j = ((timed s c).csr c 0x344).getLsbD j := by
  have hj : j < 64 := by omega
  unfold refreshMip
  extract_lets s1 s2 s3 s4 lvl
  rw [mip_setMip_ne _ _ (by omega) hj, mip_setMip_ne _ _ (by omega) hj, mip_setMip_ne _ _ (by omega) hj]
  unfold s3
  split
  · rw [mip_setMip_ne _ _ (by omega) hj]
    rfl
  · rfl

theorem msip_refreshMip (s : State) (c : Nat) : ((refreshMip s c).csr c 0x344).getLsbD 3 = s.bit (.CORE_MSIP c) F.CORE_MSIP_MSIP := by
  rw [mip_refreshMip_of_timed s c (.inl rfl), timed, mip_setMip_ne _ _ (by decide) (by decide), csr_setMip_self _ _ (by decide)]

theorem mtip_refreshMip {s : State} {c : Nat} (hc : c < 384) (ho : s.ledgerCore c = false) :
    ((refreshMip s c).csr c 0x344).getLsbD 7 = decide ((s.rd (.CORE_MTIMECMP c)).toNat ≤ s.mtime) := by
  have hk : (Reg.CORE_MTIMECMP c).key ≠ (Reg.CSR c 0x344).key := by
    rw [key_coreMtimecmp, key_csr]
    omega
  rw [mip_refreshMip_of_timed s c (.inr rfl), timed, csr_setMip_self _ _ (by decide), machineDue_of_open (s := setMip s c 3 _) ((ledgerCore_setCsr _ _ _ _ hc).trans ho), (mipOnly_setMip ..).rd _ hk]
  rfl

/-- A register of a core's interrupts written at a RUNNING core that enables none. -/
theorem setCoreReg_of_masked {s : State} {c h : Nat} (hc : c < 384) (hh : s.handOf c = some h) (ho : s.folio.isLedger h = false) (h3 : s.coreState c = 3)
    (hm : s.csr c 0x304 = 0) (ha : (s.core c).asleep = false) {r : Reg} (hr : r.key < (Reg.CORE_STATE c).key + 0x20)
    (hs : (Reg.CORE_STATE c).key < r.key) (v : Word) :
    setCoreReg s r c v = refreshMip (s.wr r (r.written (s.rd r) v)) c ∧ (s.wr r (r.written (s.rd r) v)).ledgerCore c = false := by
  have hb := key_coreState_ge c
  have hlt : (Reg.CORE_STATE c).key < 0xF00100000000 := by
    rw [key_coreState]
    omega
  have hl : (s.wr r (r.written (s.rd r) v)).ledgerCore c = false :=
    (ledgerCore_congr (s := s) (fun g hg => State.rd_wr_ne _ _ _ _ (by rw [key_fabHandCores]; omega)) rfl).trans (ledgerCore_of_handOf hh ho)
  have hst : (s.wr r (r.written (s.rd r) v)).coreState c = 3 := (State.get_wr_ne (by omega) ..).trans h3
  have hmip := mipOnly_refreshMip (s.wr r (r.written (s.rd r) v)) c
  refine ⟨?_, hl⟩
  unfold setCoreReg
  dsimp only
  rw [if_pos hst, if_neg (by rw [hl]; decide)]
  refine notify_of_masked ?_ ?_
  · refine (hmip.rd _ (by rw [key_csr, key_csr]; omega)).trans ((State.rd_wr_ne _ _ _ _ ?_).trans hm)
    rw [key_csr]
    omega
  · rw [hmip.same]
    exact ha

theorem Fld.get_bit (w : Word) (i : Nat) : (Fld.get ⟨i, i⟩ w != 0) = w.getLsbD i := by
  rw [Fld.get, Nat.sub_self, BitVec.getLsbD, Nat.testBit_eq_decide_div_mod_eq, Nat.shiftRight_eq_div_pow]
  rcases Nat.mod_two_eq_zero_or_one (w.toNat / 2 ^ i) with h | h <;> simp [h]

theorem Fld.get_whole (w : Word) : Fld.get ⟨63, 0⟩ w = w.toNat := Nat.mod_eq_of_lt w.isLt

theorem written_whole {r : Reg} {x : FldRow} (hx : x ∈ r.fields) (hb : x.bits = ⟨63, 0⟩) (ha : x.access = .rw) (old v : Word) :
    r.written old v = v := by
  have h := (registerFields r old v x hx).1 (.inl ha)
  rw [hb, Fld.get_whole, Fld.get_whole] at h
  exact BitVec.eq_of_toNat_eq h

theorem regsBut.mono {s t : State} {l l' : List Reg} (h : regsBut s t l) (hl : l ⊆ l') : regsBut s t l' := fun r hr => h r fun q hq => hr q (hl hq)

theorem MipOnly.regs {c : Nat} {s t : State} (h : MipOnly c s t) : regsBut s t [.CSR c 0x344] := fun r hr => h.rd r (hr _ (List.mem_singleton_self _))

/-- A register written, and mip after it. -/
theorem regsBut_wr_mip {s t : State} {r : Reg} {w : Word} {c : Nat} (h : MipOnly c (s.wr r w) t) : regsBut s t [r, .CSR c 0x344] :=
  regsBut.trans (regsBut.mono (regsBut_wr s r w) (by simp)) (regsBut.mono h.regs (by simp))

theorem coreMsipWrite_spec {who : Agent} {c : Fin 384} {s : State} {h : Nat} (hw : s.isHouse who = true) (hh : s.handOf c = some h)
    (ho : s.folio.isLedger h = false) (h3 : s.coreState c = 3) (hm : s.csr c 0x304 = 0) (ha : (s.core c).asleep = false) (v : Word) :
    ∃ t, exec (.coreMsipWrite who c v) s = .next t ∧ t.bit (.CORE_MSIP c) F.CORE_MSIP_MSIP = v.getLsbD 0 ∧
      (t.csr c 0x344).getLsbD 3 = v.getLsbD 0 ∧ regsBut s t [.CORE_MSIP c, .CSR c 0x344] ∧ t = { s with regs := t.regs } := by
  have hx : exec (.coreMsipWrite who c v) s = .next (coreRegWrite s who (.CORE_MSIP c) c v) := rfl
  rw [hx, coreRegWrite_of_writer (coreRegWriter_of_house hw hh ho) (holder_of_open hh ho who), (setCoreReg_of_masked c.isLt hh ho h3 hm ha
    (r := .CORE_MSIP c) (by rw [key_coreMsip, key_coreState]; omega) (by rw [key_coreMsip, key_coreState]; omega) v).1]
  have hbit : Fld.get F.CORE_MSIP_MSIP ((Reg.CORE_MSIP c).written (s.rd (.CORE_MSIP c)) v) = Fld.get F.CORE_MSIP_MSIP v :=
    (registerFields (.CORE_MSIP c) (s.rd (.CORE_MSIP c)) v ⟨⟨0, 0⟩, .rw, 0⟩ (List.mem_singleton_self _)).1 (.inl rfl)
  generalize (Reg.CORE_MSIP c).written (s.rd (.CORE_MSIP c)) v = w at hbit ⊢
  have hmip := mipOnly_refreshMip (s.wr (.CORE_MSIP c) w) c
  have hk : (Reg.CORE_MSIP c).key ≠ (Reg.CSR c 0x344).key := by
    rw [key_coreMsip, key_csr]
    omega
  have hb : (s.wr (.CORE_MSIP c) w).bit (.CORE_MSIP c) F.CORE_MSIP_MSIP = v.getLsbD 0 := by
    rw [State.bit, State.get_wr_self, hbit]
    exact Fld.get_bit v 0
  refine ⟨_, rfl, ?_, (msip_refreshMip ..).trans hb, regsBut_wr_mip hmip, ?_⟩
  · rw [State.bit, State.get, hmip.rd _ hk]
    exact hb
  · rw [hmip.same]
    rfl

theorem coreMtimecmpWrite_spec {who : Agent} {c : Fin 384} {s : State} {h : Nat} (hw : s.isHouse who = true) (hh : s.handOf c = some h)
    (ho : s.folio.isLedger h = false) (h3 : s.coreState c = 3) (hm : s.csr c 0x304 = 0) (ha : (s.core c).asleep = false) (v : Word) :
    ∃ t, exec (.coreMtimecmpWrite who c v) s = .next t ∧ t.rd (.CORE_MTIMECMP c) = v ∧
      (t.csr c 0x344).getLsbD 7 = decide (v.toNat ≤ s.mtime) ∧ regsBut s t [.CORE_MTIMECMP c, .CSR c 0x344] ∧ t = { s with regs := t.regs } := by
  have hx : exec (.coreMtimecmpWrite who c v) s = .next (coreRegWrite s who (.CORE_MTIMECMP c) c v) := rfl
  obtain ⟨hset, hl⟩ := setCoreReg_of_masked c.isLt hh ho h3 hm ha (r := .CORE_MTIMECMP c) (by rw [key_coreMtimecmp, key_coreState]; omega)
    (by rw [key_coreMtimecmp, key_coreState]; omega) v
  rw [hx, coreRegWrite_of_writer (coreRegWriter_of_house hw hh ho) (holder_of_open hh ho who), hset]
  rw [written_whole (List.mem_singleton_self _) rfl rfl] at hl ⊢
  have hmip := mipOnly_refreshMip (s.wr (.CORE_MTIMECMP c) v) c
  have hk : (Reg.CORE_MTIMECMP c).key ≠ (Reg.CSR c 0x344).key := by
    rw [key_coreMtimecmp, key_csr]
    omega
  refine ⟨_, rfl, (hmip.rd _ hk).trans (State.rd_wr_self ..), ?_, regsBut_wr_mip hmip, ?_⟩
  · rw [mtip_refreshMip c.isLt hl, State.rd_wr_self]
    rfl
  · rw [hmip.same]
    rfl

theorem exec_mtimecmpExpire_due {c : Fin 384} {tm : Timer} {s : State} (h3 : s.coreState c = 3) (ho : s.ledgerCore c = false)
    (hd : timerDue s c tm = true) : exec (.mtimecmpExpire c tm) s = .next (notify (setMip s c (timerBit tm) true) c) :=
  if_neg (by simp [h3, ho, hd])

theorem coreInterrupts : Claim.CoreInterrupts := by
  refine ⟨fun who c v s h hw hh ho h3 hm ha => coreMsipWrite_spec hw hh ho h3 hm ha v,
    fun who c v s h hw hh ho h3 hm ha => coreMtimecmpWrite_spec hw hh ho h3 hm ha v, fun c s h3 ho hd hm ha => ?_, fun c tm s h => ?_,
    fun c tm s h3 ho hd => exec_mtimecmpExpire_due h3 ho hd,
    fun who c v s hw hh => ⟨congrArg Host.Outcome.next (coreRegWrite_of_writer hw hh _ v), congrArg Host.Outcome.next (coreRegWrite_of_writer hw hh _ v)⟩,
    fun who c v s hw hh => ⟨congrArg Host.Outcome.next (coreRegWrite_of_stranger hw hh _ v), congrArg Host.Outcome.next (coreRegWrite_of_stranger hw hh _ v)⟩⟩
  · have hn : notify (setMip s c 7 true) c = setMip s c 7 true := notify_of_masked ((csr_setMip_ne (by decide) ..).trans hm) ha
    exact ⟨_, (exec_mtimecmpExpire_due h3 ho hd).trans (congrArg Host.Outcome.next hn), csr_setMip_self _ _ (by decide) _, (mipOnly_setMip ..).regs, rfl⟩
  · refine if_pos ?_
    rcases h with h | h | h
    · exact .inl h
    · exact .inr (.inl h)
    · exact .inr (.inr (by rw [h]; decide))

/-! ### The instructions that wait, and ECALL (R144, R146, R180, R382) -/

theorem NMap.filterMap_set {α β : Type} {g : Nat × α → Option β} {n : Nat} (hg : ∀ v, g (n, v) = none) (m : NMap α) (v : α) :
    (m.set n v).filterMap g = m.filterMap g := by
  induction m with
  | nil => simp [NMap.set, hg]
  | cons e m ih =>
    obtain ⟨k, w⟩ := e
    rw [NMap.set]
    split
    · simp [hg]
    · split
      · next hk => subst hk; simp [hg]
      · simp [List.filterMap_cons, ih]

/-- What wakes a core is no CSR. -/
theorem wake_setCsr (s : State) {c : Nat} (hc : c < 384) (d n : Nat) (w : Word) : (s.setCsr d n w).wake c = s.wake c := by
  have hrd (r : Reg) (hr : r.key < 0x400000000000000) : (s.setCsr d n w).rd r = s.rd r := State.rd_wr_ne _ _ _ _ (by rw [key_csr]; omega)
  have hlive : (s.setCsr d n w).ticLive c = s.ticLive c := by
    unfold State.ticLive State.coreState State.get
    rw [hrd _ (by rw [key_coreState]; omega)]
  have hwords : (s.setCsr d n w).tallyWords = s.tallyWords := NMap.filterMap_set (fun v => if_neg (by rw [key_csr]; omega)) _ _
  have hpend : (s.setCsr d n w).pendingOf c = s.pendingOf c := by
    unfold State.pendingOf
    rw [hwords]
    refine List.filter_congr fun i hi => ?_
    obtain ⟨k, hk, hj⟩ := List.mem_flatMap.mp hi
    obtain ⟨j, hr, rfl⟩ := List.mem_map.mp hj
    have hk : k < 1024 := by
      obtain ⟨e, -, he⟩ := List.mem_filterMap.mp hk
      split at he
      · have := Option.some.inj he
        omega
      · cases he
    have hj := List.mem_range.mp hr
    have ht : (s.setCsr d n w).tally (8 * k + j) = s.tally (8 * k + j) := congrArg (Fld.get _) (hrd _ (by rw [key_ticTally]; omega))
    have he : (s.setCsr d n w).srcEnabled (8 * k + j) = s.srcEnabled (8 * k + j) := by
      unfold State.srcEnabled
      rw [hrd _ (by simp only [Reg.key]; omega)]
    have hr : (s.setCsr d n w).srcTarget (8 * k + j) = s.srcTarget (8 * k + j) :=
      congrArg (Fld.get _) (hrd (.TIC_ROUTE_ACT (8 * k + j)) (by simp only [Reg.key]; omega))
    rw [ht, he, hr]
  rw [State.wake, State.wake, hlive, hpend]

theorem wake_movedOn (s : State) {c : Nat} (hc : c < 384) (len : Nat) : (movedOn s c len).wake c = s.wake c := by
  rw [movedOn]
  split
  · rfl
  · rw [wake_setCsr _ hc]
    rfl

theorem pendingInts_movedOn (s : State) (c len : Nat) : pendingInts (movedOn s c len) c = pendingInts s c := by
  unfold pendingInts
  rw [csr_movedOn_of_ne (by decide), csr_movedOn_of_ne (by decide)]

theorem afterDrain_of_drained {s u : State} {c : Nat} (hu : u = drainAll s c) (hd : drained u c = true) (act : State → State) :
    afterDrain s c act = act u := by
  subst hu
  exact if_pos hd

/-- What WFI does once the merging buffer has drained. -/
def slept (s : State) (c : Nat) : State :=
  let s := s.retire c 4
  if s.wake c ∨ pendingInts s c ≠ [] then s else (s.setCore c { s.core c with asleep := true })

theorem exec_wfi_drained {c : Fin 384} {s u : State} (hr : s.ready c = true) (hl : s.ledgerCore c = false) (hu : u = drainAll s c)
    (hd : drained u c = true) (ht : wfiTrap s c = none) : exec (.wfi c) s = .next (slept u c) := by
  have hx : exec (.wfi c) s = execWfi c s := rfl
  rw [hx]
  unfold execWfi
  rw [hr, ht, hl]
  exact congrArg Host.Outcome.next (afterDrain_of_drained hu hd _)

theorem wrs_drained {c : Nat} {s u : State} (hr : s.ready c = true) (hl : s.ledgerCore c = false) (hu : u = drainAll s c)
    (hd : drained u c = true) : wrs s c = u.retire c 4 := by
  unfold wrs
  rw [hr, hl]
  exact afterDrain_of_drained hu hd (fun s => s.retire c 4)

section Sleeping
variable {s : State} {c : Nat} (hc : c < 384) (ho : s.ledgerCore c = false)
include hc ho

theorem slept_of_quiet (hp : pendingInts s c = []) (hw : s.wake c = false) :
    slept s c = (s.retire c 4).setCore c { (s.retire c 4).core c with asleep := true } := by
  unfold slept
  rw [retire_of_open hc ho]
  exact if_neg (by rw [wake_movedOn s hc, pendingInts_movedOn, hp, hw]; decide)

theorem slept_of_wake (h : pendingInts s c ≠ [] ∨ s.wake c = true) : slept s c = s.retire c 4 := by
  unfold slept
  rw [retire_of_open hc ho]
  exact if_pos (by rw [wake_movedOn s hc, pendingInts_movedOn]; exact h.symm)

theorem retired_asleep : retired s ((s.retire c 4).setCore c { (s.retire c 4).core c with asleep := true }) c 4 { s.core c with asleep := true } := by
  obtain ⟨⟨hk, hi, hcs, hrg⟩, hs⟩ := retired_of_acted hc ho (Acted.refl s c []) 4
  refine ⟨⟨?_, hi, fun d hd => ?_, hrg⟩, ?_⟩
  · rw [State.core_setCore_self, hk]
  · rw [State.core_setCore_ne _ _ _ _ (by simpa using hd), hcs d hd]
  · rw [hs]
    rfl

end Sleeping

/-! ### ECALL from M-mode -/

/-- The CSRs that a trap into M-mode writes. -/
def trapMCsrs : List Nat := [0x300, 0x341, 0x342, 0x343, 0x34B]

/-- mstatus after a trap into M-mode. -/
def trappedStatus (st : Word) (k : Core) (isInt : Bool) (tval : Word) : Word :=
  setBit (setBit (Fld.put ⟨12, 11⟩ (setBit (setBit st 7 (st.getLsbD 3)) 3 false) k.priv.toNat) 39 k.virt) 38 (k.virt && !isInt && tval != 0)

/-- A core that has entered M-mode at `pc`. -/
def trapped (k : Core) (pc : Word) : Core :=
  { k with priv := 3, virt := false, pc := pc, asleep := false, waits := stillWaits k, ncCell := none }

theorem acted_trapM (s : State) (c : Nat) (isInt : Bool) (cause : Nat) (tval : Word) :
    Acted s c trapMCsrs (trapped (s.core c) (trapPc (s.csr c 0x305) isInt cause)) (trapM s c isInt cause tval) := by
  have h := (((((Acted.refl s c trapMCsrs).setCsr (n := 0x300) (by decide) (trappedStatus (s.csr c 0x300) (s.core c) isInt tval)).setCsr (n := 0x341) (by decide)
    (s.core c).pc).setCsr (n := 0x342) (by decide) (causeWord isInt cause)).setCsr (n := 0x343) (by decide) tval).setCsr (n := 0x34B) (by decide) 0
  have hv := h.csr_eq (n := 0x305) (by decide)
  rw [← hv]
  exact h.setCore _

theorem Fld.get_congr {f : Fld} {v w : Word} (hf : f.lo ≤ f.hi) (h : ∀ i, i ≤ f.hi → v.getLsbD i = w.getLsbD i) : f.get v = f.get w := by
  refine Nat.eq_of_testBit_eq fun i => ?_
  rw [Fld.testBit_get, Fld.testBit_get]
  by_cases hi : i < f.hi - f.lo + 1
  · rw [h (f.lo + i) (by omega)]
  · rw [decide_eq_false hi, Bool.false_and, Bool.false_and]

theorem getLsbD_put_of_apart {f : Fld} (hf : f.lo ≤ f.hi) {i : Nat} (h : i < f.lo ∨ f.hi < i) (w : Word) (n : Nat) :
    (f.put w n).getLsbD i = w.getLsbD i := by
  rw [← Fld.get_bit, ← Fld.get_bit, Fld.get_put_of_disjoint _ _ _ _ hf h (Nat.le_refl _)]

theorem getLsbD_trappedStatus (st : Word) (k : Core) (isInt : Bool) (tval : Word) : (trappedStatus st k isInt tval).getLsbD 7 = st.getLsbD 3 ∧
    (trappedStatus st k isInt tval).getLsbD 3 = false ∧ Fld.get ⟨12, 11⟩ (trappedStatus st k isInt tval) = k.priv.toNat := by
  have hb {i : Nat} (hi : i < 38) (w : Word) (a b : Bool) : (setBit (setBit w 39 a) 38 b).getLsbD i = w.getLsbD i := by
    rw [getLsbD_setBit_ne _ (by omega) (by omega), getLsbD_setBit_ne _ (by omega) (by omega)]
  refine ⟨?_, ?_, ?_⟩
  · rw [trappedStatus, hb (by decide), getLsbD_put_of_apart (by decide) (by decide), getLsbD_setBit_ne _ (by decide) (by decide),
      getLsbD_setBit_self _ (by decide)]
  · rw [trappedStatus, hb (by decide), getLsbD_put_of_apart (by decide) (by decide), getLsbD_setBit_self _ (by decide)]
  · rw [trappedStatus, Fld.get_congr (by decide) fun i hi => hb (Nat.lt_of_le_of_lt hi (by decide)) _ _ _]
    exact (Fld.get_put_le ⟨12, 11⟩ _ _ (by decide) (by decide)).trans (Nat.mod_eq_of_lt k.priv.isLt)

theorem csr_trapM (s : State) (c : Nat) (isInt : Bool) (cause : Nat) (tval : Word) :
    (trapM s c isInt cause tval).csr c 0x300 = trappedStatus (s.csr c 0x300) (s.core c) isInt tval ∧
    (trapM s c isInt cause tval).csr c 0x341 = (s.core c).pc ∧ (trapM s c isInt cause tval).csr c 0x342 = causeWord isInt cause ∧
    (trapM s c isInt cause tval).csr c 0x343 = tval := by
  unfold trapM
  dsimp only
  refine ⟨?_, ?_, ?_, ?_⟩
  · rw [State.csr, State.rd_setCore, ← State.csr, csr_setCsr_ne (by decide), csr_setCsr_ne (by decide), csr_setCsr_ne (by decide),
      csr_setCsr_ne (by decide), csr_setCsr_self]
    rfl
  · rw [State.csr, State.rd_setCore, ← State.csr, csr_setCsr_ne (by decide), csr_setCsr_ne (by decide), csr_setCsr_ne (by decide), csr_setCsr_self]
  · rw [State.csr, State.rd_setCore, ← State.csr, csr_setCsr_ne (by decide), csr_setCsr_ne (by decide), csr_setCsr_self]
  · rw [State.csr, State.rd_setCore, ← State.csr, csr_setCsr_ne (by decide), csr_setCsr_self]

theorem trap_of_machine {s : State} {c : Nat} (hp : (s.core c).priv = 3) {cause : Nat} (hc : cause ≠ 19) (tval : Word) :
    trap s c cause tval = trapM s c false cause tval := by
  unfold trap
  dsimp only
  rw [if_neg hc, if_neg fun h => h.1 hp]

theorem exec_ecall {c : Fin 384} {s : State} (hr : s.ready c = true) (hl : s.ledgerCore c = false) :
    exec (.ecall c) s = .next (trap s c (ecallCause s c) 0) := by
  have hx : exec (.ecall c) s = execEcall c s := rfl
  rw [hx]
  unfold execEcall
  rw [hr, hl]
  rfl

theorem ecall_machine {c : Fin 384} {s : State} (hr : s.ready c = true) (hl : s.ledgerCore c = false) (hp : (s.core c).priv = 3) :
    ∃ t, exec (.ecall c) s = .next t ∧ t.csr c 0x341 = (s.core c).pc ∧ t.csr c 0x342 = 11 ∧ t.csr c 0x343 = 0 ∧
      (t.csr c 0x300).getLsbD 7 = (s.csr c 0x300).getLsbD 3 ∧ (t.csr c 0x300).getLsbD 3 = false ∧
      Fld.get ⟨12, 11⟩ (t.csr c 0x300) = 3 ∧ (t.core c).pc = s.csr c 0x305 &&& ~~~ (3 : Word) ∧ (t.core c).priv = 3 ∧
      (t.core c).virt = false ∧ (t.core c).x = (s.core c).x ∧ coresBut s t [c.val] ∧
      regsBut s t [.CSR c 0x300, .CSR c 0x341, .CSR c 0x342, .CSR c 0x343, .CSR c 0x34B] ∧
      t = { s with regs := t.regs, cores := t.cores } := by
  have hcause : ecallCause s c = 11 := if_pos hp
  have hact := acted_trapM s c false 11 0
  obtain ⟨hst, hepc, hmc, htv⟩ := csr_trapM s c false 11 0
  obtain ⟨h7, h3, hpp⟩ := getLsbD_trappedStatus (s.csr c 0x300) (s.core c) false 0
  refine ⟨_, (exec_ecall hr hl).trans (congrArg Host.Outcome.next (by rw [hcause, trap_of_machine hp (by decide)])), hepc, hmc, htv, ?_, ?_, ?_, ?_, ?_, ?_, ?_,
    hact.cores, hact.regs, hact.rest⟩
  · rw [hst, h7]
  · rw [hst, h3]
  · rw [hst, hpp, hp]
    rfl
  all_goals
    rw [hact.core]
    rfl

/-- Settles O10, by what a write of a core's interrupt registers leaves in mip, by the retirement after the drain, and by the trap into M-mode. -/
theorem coreEvents : Obligations.CoreEvents := by
  refine ⟨coreInterrupts, fun c s u hr ho hu hd => ?_, fun c s u hr hl hu => ?_, fun c s n hr ht => ?_, fun c s hr hl => exec_ecall hr hl,
    fun c s hr hl hp _ => ecall_machine hr hl hp⟩
  · have hou : u.ledgerCore c = false := by rw [hu, ledgerCore_drainAll s c.isLt, ho]
    have hret := retired_of_acted c.isLt hou (Acted.refl u c []) 4
    refine ⟨fun ht hp hw => ⟨_, (exec_wfi_drained hr ho hu hd ht).trans (congrArg Host.Outcome.next (slept_of_quiet c.isLt hou hp hw)), retired_asleep c.isLt hou⟩,
      fun ht h => ⟨_, (exec_wfi_drained hr ho hu hd ht).trans (congrArg Host.Outcome.next (slept_of_wake c.isLt hou h)), hret⟩,
      ⟨_, congrArg Host.Outcome.next (wrs_drained hr ho hu hd), hret⟩, ⟨_, congrArg Host.Outcome.next (wrs_drained hr ho hu hd), hret⟩⟩
  · subst hu
    have hx : exec (.wfi c) s = execWfi c s := rfl
    have hwrs : wrs s c = endAndRetire (drainAll s c) c 5 4 := by
      unfold wrs
      rw [hr, hl]
      rfl
    refine ⟨fun ht => ?_, congrArg Host.Outcome.next hwrs, congrArg Host.Outcome.next hwrs⟩
    rw [hx]
    unfold execWfi
    rw [hr, ht, hl]
    rfl
  · have hx : exec (.wfi c) s = execWfi c s := rfl
    rw [hx]
    unfold execWfi
    rw [hr, ht]
    rfl

end Sys2Proof.Machine
end

section
/-! SUPPORT. The end of a quantum, and the instructions that end it (R144 to R147, R241). -/

namespace Sys2Proof.Machine

/-! ### The end of a quantum (R144, R241) -/

theorem drainAll_of_empty {s : State} {c : Nat} (h : (s.core c).mb = []) : drainAll s c = (s.setCore c (s.core c)).setCore c (s.core c) := by
  rw [drainAll, drain_of_empty h, drain_of_empty (by rw [State.core_setCore_self, h]), State.core_setCore_self]

theorem acted_drainAll {s : State} {c : Nat} (h : (s.core c).mb = []) : Acted s c [] (s.core c) (drainAll s c) := by
  rw [drainAll_of_empty h]
  exact ((Acted.refl s c []).setCore _).setCore _

/-- A quantum of core `c` of hand `h` has ended: the core is `k`, the end is counted once, and nothing else differs. -/
structure QuantumOver (s : State) (c h : Nat) (k : Core) (t : State) : Prop where
  core : t.core c = k
  cores : coresBut s t [c]
  regs : regsBut s t [.CSQ_LDG_PHASE h]
  phase : t.rd (.CSQ_LDG_PHASE h) =
    (s.put (.CSQ_LDG_PHASE h) F.CSQ_LDG_PHASE_ENDED (s.get (.CSQ_LDG_PHASE h) F.CSQ_LDG_PHASE_ENDED + 1)).rd (.CSQ_LDG_PHASE h)
  count : t.eventCount c 0x000C = s.eventCount c 0x000C + 1
  events : eventsBut s t [(c, 0x000C)]
  rest : t = { s with regs := t.regs, cores := t.cores, events := t.events }

theorem key_ldgPhase_lt {h : Nat} (hh : h < 64) : (Reg.CSQ_LDG_PHASE h).key < 0x400000000000000 := by
  simp only [Reg.key]
  omega

section Ends
variable {s t : State} {c h : Nat} {k : Core} (hc : c < 384) (hh : s.handOf c = some h) (hl : s.folio.isLedger h = true) (ha : Acted s c [] k t)
include hc hh hl ha

theorem Acted.handOf_eq : t.handOf c = some h :=
  (handOf_congr fun g hg => ha.rd_eq (by rw [key_fabHandCores]; omega)).trans hh

theorem Acted.ledger : t.ledgerCore c = true := by
  unfold State.ledgerCore
  rw [Acted.handOf_eq hc hh hl ha, ha.rest]
  exact hl

theorem Acted.quantumOf_eq : t.quantumOf c = s.quantumOf c := by
  unfold State.quantumOf
  rw [Acted.handOf_eq hc hh hl ha, hh, ha.rest]

/-- The end of a quantum, of a core that has not ended it yet. -/
theorem quantumOver_endQuantum (he : k.ended = false) {code : Nat} (hcode : code ≠ 1) :
    QuantumOver s c h { k with ended := true, endCode := code } (t.endQuantum c code) := by
  have hlt := key_ldgPhase_lt (List.mem_range.mp (List.mem_of_find?_eq_some hh))
  have hrd : t.rd (.CSQ_LDG_PHASE h) = s.rd (.CSQ_LDG_PHASE h) := ha.rd_eq hlt
  have hx : t.endQuantum c code = ((t.setCore c { k with ended := true, endCode := code }).countEv c 0x000C 1).put (.CSQ_LDG_PHASE h)
      F.CSQ_LDG_PHASE_ENDED (t.get (.CSQ_LDG_PHASE h) F.CSQ_LDG_PHASE_ENDED + 1) := by
    have hg : (t.handOf c).getD 0 = h := by rw [Acted.handOf_eq hc hh hl ha]; rfl
    unfold State.endQuantum
    rw [if_neg (by rw [ha.core, he, Acted.ledger hc hh hl ha]; decide)]
    dsimp only
    rw [if_neg hcode, ha.core]
    have hg2 : (((t.setCore c { k with ended := true, endCode := code }).countEv c 0x000C 1).handOf c).getD 0 = h := hg
    rw [hg2]
    rfl
  rw [hx]
  refine ⟨State.core_setCore_self .., fun d hd => ?_, fun r hr => ?_, ?_, ?_, ?_, ?_⟩
  · exact (State.core_setCore_ne _ _ _ _ (by simpa using hd)).trans (ha.cores d hd)
  · exact (State.rd_put_ne (hr _ (List.mem_singleton_self _)) ..).trans (ha.regs r (fun q hq => by cases hq))
  · have hput : ∀ u v : State, u.rd (.CSQ_LDG_PHASE h) = v.rd (.CSQ_LDG_PHASE h) →
        (u.put (.CSQ_LDG_PHASE h) F.CSQ_LDG_PHASE_ENDED (v.get (.CSQ_LDG_PHASE h) F.CSQ_LDG_PHASE_ENDED + 1)).rd (.CSQ_LDG_PHASE h) =
          (v.put (.CSQ_LDG_PHASE h) F.CSQ_LDG_PHASE_ENDED (v.get (.CSQ_LDG_PHASE h) F.CSQ_LDG_PHASE_ENDED + 1)).rd (.CSQ_LDG_PHASE h) := fun u v huv => by
      rw [State.put, State.put, State.rd_wr_self, State.rd_wr_self, huv]
    have hget : t.get (.CSQ_LDG_PHASE h) F.CSQ_LDG_PHASE_ENDED = s.get (.CSQ_LDG_PHASE h) F.CSQ_LDG_PHASE_ENDED := congrArg (Fld.get _) hrd
    rw [hget]
    exact hput _ s hrd
  · refine (eventCount_countEv_self (t.setCore c { k with ended := true, endCode := code }) c 0x000C 1).trans ?_
    rw [ha.rest]
    rfl
  · refine fun u e hu => (eventsBut_countEv (t.setCore c { k with ended := true, endCode := code }) c 0x000C 1 u e hu).trans ?_
    rw [ha.rest]
    rfl
  · rw [ha.rest]
    rfl

end Ends

theorem quantumOf_congr {s t : State} {c : Nat} (hr : ∀ g < 64, t.rd (.FAB_HAND_CORES g (c / 64)) = s.rd (.FAB_HAND_CORES g (c / 64)))
    (hf : t.folio = s.folio) : t.quantumOf c = s.quantumOf c := by
  unfold State.quantumOf
  rw [handOf_congr hr, hf]

/-- An instruction that retires short of the quantum's end ends nothing. -/
theorem retire_of_below {s : State} {c : Nat} (hc : c < 384) (hq : (s.core c).count + 1 < s.quantumOf c) (len : Nat) :
    s.retire c len = movedOn s c len := by
  obtain ⟨-, -, -, hrg⟩ := (Acted.refl s c []).retiredBut List.not_mem_nil List.not_mem_nil len
  have hqm : (movedOn s c len).quantumOf c = s.quantumOf c := by
    refine quantumOf_congr (fun g hg => hrg _ fun q hq => ?_) (by rw [onlyRegsCores_movedOn s c len])
    rw [List.mem_singleton.mp hq, key_fabHandCores, key_csr]
    omega
  have he : s.retire c len = if (movedOn s c len).ledgerCore c ∧ (movedOn s c len).quantumOf c ≤ (s.core c).count + 1
      then (movedOn s c len).endQuantum c 0 else movedOn s c len := rfl
  rw [he, hqm]
  exact if_neg fun h => absurd h.2 (by omega)

theorem retired_of_below {s t : State} {c : Nat} {k : Core} (hc : c < 384) (ha : Acted s c [] k t) (hq : k.count + 1 < s.quantumOf c) (len : Nat) :
    retired s (t.retire c len) c len k := by
  have hqt : t.quantumOf c = s.quantumOf c := quantumOf_congr (fun g _ => ha.rd_eq (by rw [key_fabHandCores]; omega)) (by rw [ha.rest])
  rw [retire_of_below hc (by rw [ha.core, hqt]; exact hq)]
  exact ⟨ha.retiredBut List.not_mem_nil List.not_mem_nil len, ha.rest.trans (onlyRegsCores_movedOn ..)⟩

theorem csr_ne_ldgPhase {h : Nat} (hh : h < 64) (c n : Nat) : (Reg.CSR c n).key ≠ (Reg.CSQ_LDG_PHASE h).key := by
  have := key_ldgPhase_lt hh
  rw [key_csr]
  omega

/-- An instruction that has ended the quantum retires. -/
theorem QuantumOver.retire {s t : State} {c h : Nat} {k : Core} (hc : c < 384) (hh : h < 64) (ho : QuantumOver s c h k t)
    (hq : k.count + 1 < s.quantumOf c) (len : Nat) :
    retiredBut s (t.retire c len) c len k [.CSQ_LDG_PHASE h] ∧
    (t.retire c len).rd (.CSQ_LDG_PHASE h) =
      (s.put (.CSQ_LDG_PHASE h) F.CSQ_LDG_PHASE_ENDED (s.get (.CSQ_LDG_PHASE h) F.CSQ_LDG_PHASE_ENDED + 1)).rd (.CSQ_LDG_PHASE h) ∧
    (t.retire c len).eventCount c 0x000C = s.eventCount c 0x000C + 1 ∧ eventsBut s (t.retire c len) [(c, 0x000C)] ∧
    t.retire c len = { s with regs := (t.retire c len).regs, cores := (t.retire c len).cores, events := (t.retire c len).events } := by
  have hfar (g : Nat) (hg : g < 64) : (Reg.FAB_HAND_CORES g (c / 64)).key ≠ (Reg.CSQ_LDG_PHASE h).key := by
    rw [key_fabHandCores]
    simp only [Reg.key]
    omega
  have hqt : t.quantumOf c = s.quantumOf c := by
    refine quantumOf_congr (fun g hg => ho.regs _ fun q hq => ?_) (by rw [ho.rest])
    rw [List.mem_singleton.mp hq]
    exact hfar g hg
  have hcsr (n : Nat) : t.csr c n = s.csr c n := ho.regs _ fun q hq => by
    rw [List.mem_singleton.mp hq]
    exact csr_ne_ldgPhase hh c n
  rw [retire_of_below hc (by rw [ho.core, hqt]; exact hq)]
  obtain ⟨hk, hi, hcs, hrg⟩ := (Acted.refl t c []).retiredBut List.not_mem_nil List.not_mem_nil len
  have hphase : (movedOn t c len).rd (.CSQ_LDG_PHASE h) = t.rd (.CSQ_LDG_PHASE h) := hrg _ fun q hq => by
    rw [List.mem_singleton.mp hq]
    exact (csr_ne_ldgPhase hh c _).symm
  have hevents : (movedOn t c len).events = t.events := by rw [onlyRegsCores_movedOn t c len]
  rw [ho.core] at hk
  refine ⟨⟨hk, ?_, fun d hd => (hcs d hd).trans (ho.cores d hd), fun r hr => ?_⟩, hphase.trans ho.phase, ?_, ?_, ?_⟩
  · rw [hi, hcsr, hcsr]
  · exact (hrg r fun q hq => hr q (List.mem_cons.mpr (.inl (List.mem_singleton.mp hq)))).trans (ho.regs r fun q hq => hr q (List.mem_cons_of_mem _ hq))
  · exact (congrArg (fun m : NMap Nat => m.getD (c * 2 ^ 16 + 0x000C) 0) hevents).trans ho.count
  · exact fun u e hu => (congrArg (fun m : NMap Nat => m.getD (u * 2 ^ 16 + e) 0) hevents).trans (ho.events u e hu)
  · rw [onlyRegsCores_movedOn t c len, ho.rest]

/-! ### The instructions that end it (R144 to R147) -/

theorem jlInsn_of_ledger {s : State} {c : Nat} {w : BitVec 32} {fn : Nat} {rs1 : Bool} (hr : s.ready c = true) (hl : s.ledgerCore c = true)
    (hw : jlForm w fn rs1 = true) (act : State → State) : jlInsn s c w fn rs1 act = act s := by
  unfold jlInsn
  rw [hr, hl, hw]
  rfl

theorem jlInsn_of_open {s : State} {c : Nat} (hr : s.ready c = true) (hl : s.ledgerCore c = false) (w : BitVec 32) (fn : Nat) (rs1 : Bool)
    (act : State → State) : jlInsn s c w fn rs1 act = illegal s c (w.zeroExtend 64) := by
  unfold jlInsn
  rw [hr, hl]
  rfl

theorem runs_of_ready {s : State} {c : Nat} (hr : s.ready c = true) : s.runs c = true := by
  unfold State.ready at hr
  rw [Bool.and_eq_true, Bool.and_eq_true] at hr
  exact hr.1.1

theorem ended_of_ready {s : State} {c : Nat} (hr : s.ready c = true) : (s.core c).ended = false := by
  have h := runs_of_ready hr
  unfold State.runs at h
  simp only [Bool.and_eq_true, Bool.not_eq_true'] at h
  exact h.1.1.1.2

theorem ledgerCore_of_ledger {s : State} {c h : Nat} (hh : s.handOf c = some h) (hl : s.folio.isLedger h = true) : s.ledgerCore c = true := by
  unfold State.ledgerCore
  rw [hh]
  exact hl

section Quantum
variable {c : Fin 384} {s : State} {h : Nat} (hr : s.ready c = true) (hh : s.handOf c = some h) (hl : s.folio.isLedger h = true)
  (hm : (s.core c).mb = [])
include hr hh hl hm

theorem epochOf_drainAll : epochOf (drainAll s c) c = epochOf s c := by
  have hh2 : (drainAll s c).handOf c = some h := Acted.handOf_eq c.isLt hh hl (acted_drainAll hm)
  have hlt : (Reg.CSQ_LDG_EPOCH h).key < 0x400000000000000 := by
    have : h < 64 := List.mem_range.mp (List.mem_of_find?_eq_some hh)
    simp only [Reg.key]
    omega
  unfold epochOf handOr0
  rw [hh2, hh]
  exact congrArg BitVec.toNat ((acted_drainAll hm).rd_eq hlt)

theorem quantumOver_drained {code : Nat} (hcode : code ≠ 1) :
    QuantumOver s c h { s.core c with ended := true, endCode := code } ((drainAll s c).endQuantum c code) :=
  quantumOver_endQuantum c.isLt hh hl (acted_drainAll hm) (ended_of_ready hr) hcode

theorem retire_drained (hq : (s.core c).count + 1 < s.quantumOf c) {code : Nat} (hcode : code ≠ 1) :
    let t := endAndRetire (drainAll s c) c code 4
    retiredBut s t c 4 { s.core c with ended := true, endCode := code } [.CSQ_LDG_PHASE h] ∧
    t.rd (.CSQ_LDG_PHASE h) =
      (s.put (.CSQ_LDG_PHASE h) F.CSQ_LDG_PHASE_ENDED (s.get (.CSQ_LDG_PHASE h) F.CSQ_LDG_PHASE_ENDED + 1)).rd (.CSQ_LDG_PHASE h) ∧
    t.eventCount c 0x000C = s.eventCount c 0x000C + 1 ∧ eventsBut s t [(c.val, 0x000C)] ∧
    t = { s with regs := t.regs, cores := t.cores, events := t.events } :=
  (quantumOver_drained hr hh hl hm hcode).retire c.isLt (List.mem_range.mp (List.mem_of_find?_eq_some hh)) hq 4

theorem exec_jlSkip {w : BitVec 32} (hw : jlForm w 1 true = true) :
    exec (.jlSkip c w) s = .next (if (s.xreg c (w.toNat / 32768 % 32)).toNat ≤ epochOf s c then endAndRetire (drainAll s c) c 6 4
      else ((drainAll s c).setCore c { (drainAll s c).core c with skip := some (s.xreg c (w.toNat / 32768 % 32)).toNat }).endQuantum c 6) := by
  rw [← epochOf_drainAll hr hh hl hm]
  exact congrArg Host.Outcome.next (jlInsn_of_ledger hr (ledgerCore_of_ledger hh hl) hw _)

theorem skipLater_spec (n : Nat) : QuantumOver s c h { s.core c with skip := some n, ended := true, endCode := 6 }
    (((drainAll s c).setCore c { (drainAll s c).core c with skip := some n }).endQuantum c 6) := by
  have ha := (acted_drainAll hm).setCore { (drainAll s c).core c with skip := some n }
  rw [(acted_drainAll hm).core] at ha ⊢
  exact quantumOver_endQuantum c.isLt hh hl ha (ended_of_ready hr) (by decide)

theorem exec_ecall_ledger : exec (.ecall c) s = .next ((drainAll s c).endQuantum c 4) := by
  have hx : exec (.ecall c) s = execEcall c s := rfl
  rw [hx]
  unfold execEcall
  rw [hr, ledgerCore_of_ledger hh hl]
  rfl

theorem quantumEndCount_spec : ∃ t, exec (.quantumEndCount c) s = .next t ∧
    QuantumOver s c h { s.core c with count := s.quantumOf c, ended := true, endCode := 0 } t := by
  have hx : exec (.quantumEndCount c) s = execQuantumEndCount c s := rfl
  have ho := quantumOver_endQuantum c.isLt hh hl ((Acted.refl s c []).setCore { s.core c with count := s.quantumOf c }) (ended_of_ready hr)
    (code := 0) (by decide)
  refine ⟨drainAll ((s.setCore c { s.core c with count := s.quantumOf c }).endQuantum c 0) c, ?_, ?_⟩
  · rw [hx]
    exact if_pos ⟨runs_of_ready hr, ledgerCore_of_ledger hh hl⟩
  · generalize (s.setCore c { s.core c with count := s.quantumOf c }).endQuantum c 0 = t at ho ⊢
    have hd := acted_drainAll (s := t) (c := c) (by rw [ho.core]; exact hm)
    have hev : (drainAll t c).events = t.events := by rw [hd.rest]
    refine ⟨hd.core.trans ho.core, fun d hd' => (hd.cores d hd').trans (ho.cores d hd'),
      fun r hr => (hd.regs r fun q hq => by cases hq).trans (ho.regs r hr), (hd.regs _ fun q hq => by cases hq).trans ho.phase, ?_, ?_, ?_⟩
    · exact (congrArg (fun m : NMap Nat => m.getD (c * 2 ^ 16 + 0x000C) 0) hev).trans ho.count
    · exact fun u e hu => (congrArg (fun m : NMap Nat => m.getD (u * 2 ^ 16 + e) 0) hev).trans (ho.events u e hu)
    · rw [hd.rest, ho.rest]

end Quantum

/-- Settles O12, by one account of the end of a quantum and of a retirement short of its length. -/
theorem ledgerQuantum : Obligations.LedgerQuantum := by
  refine ⟨fun c w s h hr hh hl hm hq => ⟨fun hw => ?_, fun hw he => ?_, fun hw he => ?_, fun hw => ?_, ?_, ?_⟩, fun c w s hr hl => ?_⟩
  · exact ⟨_, congrArg Host.Outcome.next (jlInsn_of_ledger hr (ledgerCore_of_ledger hh hl) hw _), retire_drained hr hh hl hm hq (by decide)⟩
  · obtain ⟨hret, -, hc, hev, hs⟩ := retire_drained hr hh hl hm hq (code := 6) (by decide)
    exact ⟨_, (exec_jlSkip hr hh hl hm hw).trans (congrArg Host.Outcome.next (if_pos he)), hret, hc, hev, hs⟩
  · have ho := skipLater_spec hr hh hl hm (s.xreg c (w.toNat / 32768 % 32)).toNat
    exact ⟨_, (exec_jlSkip hr hh hl hm hw).trans (congrArg Host.Outcome.next (if_neg (Nat.not_le.mpr he))), ho.core, ho.cores, ho.regs, ho.count, ho.events, ho.rest⟩
  · exact ⟨_, congrArg Host.Outcome.next (jlInsn_of_ledger hr (ledgerCore_of_ledger hh hl) hw _),
      retired_of_below c.isLt ((Acted.refl s c []).setCore { s.core c with mail := (s.core c).mail.drop 1 }) hq 4⟩
  · have ho := quantumOver_drained hr hh hl hm (code := 4) (by decide)
    exact ⟨_, exec_ecall_ledger hr hh hl hm, ho.core, ho.cores, ho.regs, ho.count, ho.events, ho.rest⟩
  · obtain ⟨t, ht, ho⟩ := quantumEndCount_spec hr hh hl hm
    exact ⟨t, ht, ho.core, ho.cores, ho.regs, ho.count, ho.events, ho.rest⟩
  · exact ⟨congrArg Host.Outcome.next (jlInsn_of_open hr hl w 0 false _), congrArg Host.Outcome.next (jlInsn_of_open hr hl w 1 true _),
      congrArg Host.Outcome.next (jlInsn_of_open hr hl w 2 false _)⟩

end Sys2Proof.Machine
end

section
/-! SUPPORT. A function whose record names a port that does not exist (R350, R363). -/

namespace Sys2Proof.Machine

/-! ### A function whose record names a port that does not exist -/

/-- A folio with VF 1 on port 3856, whose HP_LINK would stand where CSQ_FN_STAT of VF 1 stands, with one queue pair. -/
def farFolio : Folio :=
  { Folio.empty with vfs := [⟨0, 1, 3856, 1, 0, 0, 0, []⟩], queues := [⟨0, false, 1, 0, 0, 1, 0, 1, 0, 64, []⟩] }

/-- A READ_LOG of no queue. -/
def emptyLog : LineData := 6

/-- VF 1 with this slip fetched, and three slips accepted so far. -/
def farState : State :=
  { ((State.reset.put (.QP_STATE 1 0) F.QP_STATE_STATE 1).wr (.CSQ_FN_STAT 1) 3) with
    folio := farFolio
    fns := [(1, { Fn.init with cfg := [(4, 4)], slipLv := bucketUnit })]
    queues := [(16, { Queue.init with fetched := [emptyLog] })] }

theorem admits_far : admits farState (.vf 1) (0 : Fin 16) 6 emptyLog := by
  unfold admits
  decide +kernel

theorem portReady_far : portReady farState (fnPort farState (.vf 1)) = true := by decide

theorem running_far : ((outState farState (exec (.readLog (.vf 1) 0) farState)).queue (.vf 1) 0).running ≠ [] := by decide +kernel

/-- Refutes O41: the record of VF 1 names port 3856, a number that no port has; the word that says whether this port can send is then
CSQ_FN_STAT of VF 1, whose ACCEPTED rises as the READ_LOG is accepted, so that the slip waits and does not end. -/
theorem not_slipAdmission : ¬ Obligations.SlipAdmission := by
  rintro ⟨-, -, h⟩
  obtain ⟨t, ht, hr, -⟩ := (h (.vf 1) 0 emptyLog farState).1 (6, 0, ((List.range 16).filter (fun k => (slipArg emptyLog).testBit k)).length,
    Instr.readLog (.vf 1) 0) (by simp) admits_far fun _ => portReady_far
  have hn := running_far
  rw [show exec (.readLog (.vf 1) 0) farState = .next t from ht] at hn
  exact hn hr

end Sys2Proof.Machine
end

section
/-! SUPPORT. What the recomputation of the power targets leaves alone (R412, R413). -/

namespace Sys2Proof.Machine

/-! ### What the recomputation of the targets leaves alone (R412, R413) -/

/-- What the Scorekeeper's registers, the fault log, the tally controller and the dies' links leave out: registers below the tally
controller, and those of functions and cores. -/
def apartFromPower (r : Reg) : Prop := r.key < 0xF00006101000 ∨ 0x100000000000000 ≤ r.key

/-- Registers apart from these, queues, functions, ports and memory are as before. -/
structure PowerStep (s t : State) : Prop where
  same : t = { s with regs := t.regs, flips := t.flips, dies := t.dies, cores := t.cores, chans := t.chans, slices := t.slices, power := t.power }
  rd : ∀ r, apartFromPower r → t.rd r = s.rd r

namespace PowerStep
variable {s t u : State}

theorem refl (s : State) : PowerStep s s := ⟨rfl, fun _ _ => rfl⟩

theorem trans (h : PowerStep s t) (h' : PowerStep t u) : PowerStep s u :=
  ⟨by rw [h'.same, h.same], fun r hr => (h'.rd r hr).trans (h.rd r hr)⟩

theorem of_sameUnits (h : sameUnits s t) (hr : ∀ r, apartFromPower r → t.rd r = s.rd r) : PowerStep s t :=
  ⟨by rw [h], hr⟩

theorem put (s : State) {r : Reg} (hr : ¬ apartFromPower r) (f : Fld) (n : Nat) : PowerStep s (s.put r f n) :=
  ⟨rfl, fun q hq => State.rd_put_ne (fun he => hr (by rw [apartFromPower] at hq ⊢; rwa [← he])) ..⟩

theorem overAll {α : Type} {g : State → α → State} (l : List α) (h : ∀ s, ∀ a ∈ l, PowerStep s (g s a)) (s : State) : PowerStep s (overAll l g s) :=
  overAll_inv (P := PowerStep s) (fun t a ha ht => ht.trans (h t a ha)) (.refl s)

end PowerStep

theorem arriveKept_of_apart {r : Reg} (h : apartFromPower r) : arriveKept r := by
  unfold apartFromPower at h
  exact ⟨by omega, by omega⟩

theorem noteKept_of_apart {r : Reg} (h : apartFromPower r) : noteKept r := by
  unfold apartFromPower at h
  exact ⟨by omega, by omega⟩

theorem powerStep_arrive (s : State) (n : Nat) : PowerStep s (s.arrive n) :=
  .of_sameUnits (sameUnits_arrive ..) fun _ hr => rd_arrive (arriveKept_of_apart hr) ..

theorem powerStep_raise (s : State) {q : Reg} (hq : ¬ apartFromPower q) (b : Nat) {cls : Nat} (hc : cls < 32) (u sev addr : Nat) :
    PowerStep s (s.raise q b cls u none sev addr) :=
  .of_sameUnits (sameUnits_raise ..) fun _ hr => rd_raise_ne (noteKept_of_apart hr)
    (fun he => hq (by rw [apartFromPower] at hr ⊢; rwa [← he])) _ _ hc ..

theorem not_apart_sckVote {p : Nat} (hp : p < 8) : ¬ apartFromPower (.SCK_VOTE p) := by
  simp only [apartFromPower, Reg.key]
  omega

theorem not_apart_sckPkg : ¬ apartFromPower .SCK_PKG := by
  rw [apartFromPower, key_sckPkg]
  omega

theorem not_apart_sckDie {d : Nat} (hd : d < 16) : ¬ apartFromPower (.SCK_DIE d) := by
  rw [apartFromPower, key_sckDie]
  omega

theorem powerStep_setVote (s : State) {p : Nat} (hp : p < 8) : PowerStep s (setVote s p) :=
  .of_sameUnits (sameUnits_setVote s p) fun r hr => rd_setVote (arriveKept_of_apart hr)
    (fun he => not_apart_sckVote hp (by rw [apartFromPower] at hr ⊢; rwa [← he])) s

theorem powerStep_putTarget (s : State) : PowerStep s (putTarget s) := by
  unfold putTarget
  split
  · exact .refl s
  · exact (PowerStep.put s not_apart_sckPkg _ _).trans (powerStep_arrive ..)

theorem powerStep_putMin (s : State) (n : Nat) : PowerStep s (putMin s n) :=
  (PowerStep.put s not_apart_sckPkg _ _).trans (.put _ not_apart_sckPkg _ _)

theorem powerStep_putCommand (s : State) : PowerStep s (putCommand s) :=
  ((PowerStep.put s not_apart_sckPkg _ _).trans (.put _ not_apart_sckPkg _ _)).trans (.put _ not_apart_sckPkg _ _)

theorem powerStep_steerDie (s : State) {d : Nat} (hd : d < 16) : PowerStep s (steerDie s d) := by
  have h := ladderStep_steerDie s d
  refine ⟨by rw [h.same], fun r hr => h.rd r ?_ ?_ ?_⟩
  · rw [key_sckDie]
    unfold apartFromPower at hr
    omega
  · rw [key_dlStatus]
    unfold apartFromPower at hr
    omega
  · rw [key_coreDieOp]
    unfold apartFromPower at hr
    omega

theorem powerStep_aimDie (up : Bool) (s : State) {d : Nat} (hd : d < 16) : PowerStep s (aimDie up s d) := by
  have hr : PowerStep s (noteRefused s d) := by
    unfold noteRefused
    split
    · exact powerStep_raise s (q := .SCK_ERR) (by simp only [apartFromPower, Reg.key]; omega) _ (by decide) ..
    · exact .refl s
  rw [aimDie_eq]
  refine PowerStep.trans ?_ (powerStep_steerDie _ hd)
  exact ((hr.trans (.put _ (not_apart_sckDie hd) _ _)).trans (.put _ (not_apart_sckDie hd) _ _)).trans (.put _ (not_apart_sckDie hd) _ _)

theorem powerStep_noteHeld (old : List Nat) (s : State) (b : Nat) : PowerStep s (noteHeld old s b) := by
  refine .of_sameUnits (sameUnits_noteHeld old s b) fun r hr => rd_noteHeld (noteKept_of_apart hr) ?_ ?_ old s b
  all_goals
    unfold apartFromPower at hr
    omega

theorem powerStep_setBlockState (s : State) (b n : Nat) : PowerStep s (setBlockState s b n) := by
  refine ⟨?_, fun r hr => rd_setBlockState (fun he => ?_) s b n⟩
  · unfold setBlockState
    dsimp only
    split
    · split <;> rfl
    · split
      · split <;> rfl
      · rfl
  · rw [apartFromPower, he] at hr
    revert hr
    decide

theorem powerStep_lowerBlocks (s : State) : PowerStep s (lowerBlocks s) := by
  unfold lowerBlocks
  dsimp only
  refine .overAll _ (fun t b _ => ?_) s
  split
  · exact .refl t
  · split
    · exact powerStep_setBlockState ..
    · split
      · exact powerStep_setBlockState ..
      · exact .refl t

theorem PowerStep.ite {s t u : State} {p : Prop} [Decidable p] (ht : PowerStep s t) (hu : PowerStep s u) : PowerStep s (if p then t else u) := by
  split
  · exact ht
  · exact hu

theorem powerStep_updatePkg (s : State) : PowerStep s (updatePkg s) := by
  unfold updatePkg
  extract_lets t held s1 done
  have h1 : PowerStep s s1 := .put s not_apart_sckPkg _ _
  exact .ite ((h1.trans (.put _ not_apart_sckPkg _ _)).trans (powerStep_arrive ..)) h1

theorem powerStep_retarget (s : State) : PowerStep s (retarget s) := by
  have h1 : PowerStep s (overAll (List.range 8) setVote s) := .overAll _ (fun t p hp => powerStep_setVote t (List.mem_range.mp hp)) s
  by_cases h3 : (overAll (List.range 8) setVote s).get .SCK_PKG F.SCK_PKG_STATE = 3
  · have ht : retarget s = overAll (List.range 8) setVote s := by
      rw [retarget]
      exact if_pos h3
    rw [ht]
    exact h1
  · obtain ⟨n, up, old, ht⟩ := retarget_eq s h3
    rw [ht]
    refine (((((h1.trans (powerStep_putTarget _)).trans (powerStep_putMin _ n)).trans (powerStep_putCommand _)).trans
      (.overAll _ (fun t d hd => powerStep_aimDie up t (List.mem_range.mp hd)) _)).trans
      (.overAll _ (fun t b _ => powerStep_noteHeld old t b) _)).trans ((powerStep_lowerBlocks _).trans (powerStep_updatePkg _))

end Sys2Proof.Machine
end

section
/-! SUPPORT. Functions of the host ports: Bus Master Enable, resets, VF Enable and D3hot (R335 to R337). -/

namespace Sys2Proof.Machine

/-! ### Configuration dwords and Bus Master Enable (R335) -/

theorem fn_setFn_ne (s : State) {f g : FnId} (x : Fn) (h : g.key ≠ f.key) : (s.setFn f x).fn g = s.fn g := State.fn_setFn_ne _ _ _ _ h

theorem cfg_setCfg (s : State) (f : FnId) (a : Nat) (w : Word) (b : Nat) : cfg (setCfg s f a w) f b = if b = a then w else cfg s f b := by
  unfold cfg setCfg
  dsimp only
  rw [State.fn_setFn_self]
  split
  · next h => rw [h, NMap.getD_set_self]
  · next h => rw [NMap.getD_set_ne _ _ _ _ _ h]
            
theorem bme_setBme (s : State) (f : FnId) (b : Bool) : bme (setBme s f b) f = b := by
  unfold bme setBme
  rw [cfg_setCfg, if_pos rfl]
  cases b <;> simp

theorem cfg_setBme (s : State) (f : FnId) (b : Bool) {o : Nat} (h : o ≠ 4) : cfg (setBme s f b) f o = cfg s f o := by
  unfold setBme
  rw [cfg_setCfg, if_neg h]

/-! ### What a reset of a function leaves alone (R336) -/

/-- The queues, the functions and the folio. -/
def fnView (s : State) : NMap Queue × NMap Fn × Folio := (s.queues, s.fns, s.folio)

theorem folio_of_fnView {s t : State} (h : fnView t = fnView s) : t.folio = s.folio := congrArg (fun v => v.2.2) h

theorem queue_of_fnView {s t : State} (h : fnView t = fnView s) (f : FnId) (q : Nat) : t.queue f q = s.queue f q :=
  congrArg (fun v : NMap Queue × NMap Fn × Folio => v.1.getD (f.key * 16 + q) Queue.init) h

theorem fnView_overAll {α : Type} {g : State → α → State} (h : ∀ s a, fnView (g s a) = fnView s) (l : List α) (s : State) :
    fnView (overAll l g s) = fnView s := overAll_keeps fnView h l s

theorem fnView_sendTlp (s : State) (p : Nat) (o : Outward) : fnView (sendTlp s p o) = fnView s := by
  unfold sendTlp
  dsimp only
  split
  · rfl
  · split <;> rfl

theorem fnView_dropTransfers (s : State) (q : Nat) (sel : Msg → Bool) : fnView (dropTransfers s q sel) = fnView s := by
  unfold dropTransfers
  dsimp only
  refine (fnView_overAll (fun t n => ?_) _ _).trans ?_
  · rfl
  · rfl

theorem fnView_failIntake (s : State) (h id status : Nat) : fnView (failIntake s h id status) = fnView s := by
  unfold failIntake
  split
  · rfl
  · split
    · rfl
    · have hd := fnView_dropTransfers s 24 (fun m => m.txn == txnOf 2 (intakeKey h id))
      dsimp only
      generalize dropTransfers s 24 (fun m => m.txn == txnOf 2 (intakeKey h id)) = u at hd ⊢
      exact hd

theorem fnView_failIntakes (s : State) (f : FnId) (status : Nat) : fnView (failIntakes s f status) = fnView s :=
  fnView_overAll (fun _ _ => fnView_overAll (fun _ _ => fnView_failIntake ..) _ _) _ s

theorem fnView_orphan (s : State) (f : FnId) : fnView (orphan s f) = fnView s := by
  unfold orphan
  dsimp only
  split
  · split
    · split <;> rfl
    · rfl
  · rfl


theorem fnView_dropReads (s : State) (f : FnId) : fnView (dropReads s f) = fnView s := rfl

theorem fnView_stopped (s : State) (f : FnId) (n : Nat) : fnView (orphan (dropReads (failIntakes s f n) f) f) = fnView s := by
  rw [fnView_orphan, fnView_dropReads, fnView_failIntakes]

theorem fnView_retarget (s : State) : fnView (retarget s) = fnView s := by
  rw [(powerStep_retarget s).same]
  rfl

theorem fnView_clearPower (s : State) (p : Nat) : fnView (clearPower s p) = fnView s := fnView_retarget _

/-- Functions and folio through the loss of a hand, and the number of slips that a queue has accepted. -/
def slipSeqs (s : State) : NMap Fn × Folio × (FnId → Nat → Nat) := (s.fns, s.folio, fun f q => (s.queue f q).seq)

theorem slipSeqs_of_fnView {s t : State} (h : fnView t = fnView s) : slipSeqs t = slipSeqs s := by
  obtain ⟨hq, hrest⟩ := Prod.mk.inj h
  obtain ⟨hf, ho⟩ := Prod.mk.inj hrest
  unfold slipSeqs State.queue
  rw [hq, hf, ho]

theorem slipSeqs_overAll {α : Type} {g : State → α → State} (h : ∀ s a, slipSeqs (g s a) = slipSeqs s) (l : List α) (s : State) :
    slipSeqs (overAll l g s) = slipSeqs s := overAll_keeps slipSeqs h l s

theorem seq_setQueue {s : State} {f : FnId} {q : Nat} {x : Queue} (hx : x.seq = (s.queue f q).seq) : slipSeqs (s.setQueue f q x) = slipSeqs s := by
  have hs : (fun g k => ((s.setQueue f q x).queue g k).seq) = fun g k => (s.queue g k).seq := by
    funext g k
    by_cases h : g.key * 16 + k = f.key * 16 + q
    · have hl : (s.setQueue f q x).queue g k = x := by unfold State.queue State.setQueue; rw [h, NMap.getD_set_self]
      have hr : s.queue g k = s.queue f q := by unfold State.queue; rw [h]
      rw [hl, hr, hx]
    · rw [State.queue_setQueue_ne _ _ _ _ _ _ h]
  exact congrArg (fun z => (s.fns, s.folio, z)) hs

theorem slipSeqs_put (s : State) (r : Reg) (f : Fld) (n : Nat) : slipSeqs (s.put r f n) = slipSeqs s := rfl

theorem slipSeqs_endSlip (s : State) (f : FnId) (q seq st res fl : Nat) : slipSeqs (s.endSlip f q seq st res fl) = slipSeqs s := by
  unfold State.endSlip
  dsimp only
  split
  · rfl
  · split
    · rw [slipSeqs_put]
      exact seq_setQueue rfl
    · exact seq_setQueue rfl

theorem slipSeqs_abortIntakes (s : State) (h : Nat) : slipSeqs (s.abortIntakes h) = slipSeqs s := by
  unfold State.abortIntakes
  refine Eq.trans (b := slipSeqs (overAll (s.ledger h).intakes (fun s i =>
    match i.posted with
    | some (f, q, seq, _) => s.endSlip f q seq 0x10 i.seq 0
    | none => s) s)) rfl (slipSeqs_overAll (fun t i => ?_) _ _)
  split
  · exact slipSeqs_endSlip ..
  · rfl


theorem slipSeqs_of_sameUnits {s t : State} (h : sameUnits s t) : slipSeqs t = slipSeqs s := by
  rw [h]
  rfl

theorem slipSeqs_ledgerLost (s : State) (h : Nat) : slipSeqs (ledgerLost s h) = slipSeqs s := by
  unfold ledgerLost
  dsimp only
  refine (slipSeqs_overAll (g := dropStores) (fun _ _ => rfl) _ _).trans ?_
  refine (slipSeqs_abortIntakes ..).trans ?_
  exact slipSeqs_of_sameUnits ((sameUnits_put ..).trans (sameUnits_noteFault ..))

theorem slipSeqs_handLoss (s : State) (h : Nat) : slipSeqs (s.handLoss h) = slipSeqs s := by
  cases hl : s.handLost h with
  | true => rw [handLoss_of_lost hl]
  | false =>
    have h0 : slipSeqs (lossNoted s h) = slipSeqs s := slipSeqs_of_sameUnits (sameUnits_lossNoted ..)
    rw [handLoss_eq hl]
    refine (slipSeqs_overAll (fun t c => ?_) _ _).trans ?_
    · rw [sameBesideCores_lossStop t c]
      rfl
    · split
      · exact (slipSeqs_ledgerLost ..).trans h0
      · exact h0

theorem slipSeqs_fault (s : State) (e : FaultEv) : slipSeqs (s.fault e) = slipSeqs s := by
  have hn (v : Nat) : slipSeqs (s.noteFault e v) = slipSeqs s := slipSeqs_of_sameUnits (sameUnits_noteFault ..)
  unfold State.fault
  split
  · split
    · exact (slipSeqs_handLoss ..).trans (hn 4)
    · exact hn _
  · exact hn _

theorem fnErr_reset (s : State) (f : FnId) : fnErr s f 5 = s.raise (.HP_FN_ERR f.key) 5 18 f.unit (some (fnHand s f)) 1 0 := rfl

theorem slipSeqs_fnErr (s : State) (f : FnId) : slipSeqs (fnErr s f 5) = slipSeqs s := by
  rw [fnErr_reset]
  exact slipSeqs_fault ..

/-! ### A function after its reset (R336) -/

/-- A function after its reset: addressed as it was, at its reset values, with its buckets full. -/
def afterReset (s : State) (f : FnId) (x : Fn) : Fn :=
  { Fn.init with
    slipLv := (queueRec s f).burstSlips * bucketUnit
    byteLv := (queueRec s f).burstBytes * bucketUnit
    lastAt := s.cycle, flr := true, oldCfg := if x.flr then x.oldCfg else x.cfg }

/-- A queue of a function at its reset values. -/
def resetQueue (f : FnId) (s : State) (q : Nat) : State := clearQueueRegs (s.setQueue f q { Queue.init with seq := (s.queue f q).seq }) f q

/-- The queues of a function at their reset values. -/
def resetQueues (s : State) (f : FnId) : State := overAll (List.range (fnQueues s f)) (resetQueue f) s

theorem clearQueueRegs_eq (s : State) (f : FnId) (q : Nat) : clearQueueRegs s f q = { s with regs := (clearQueueRegs s f q).regs } := by
  unfold clearQueueRegs
  exact overAll_inv (P := fun t => t = { s with regs := t.regs }) (fun t _ _ ht => by rw [ht]; rfl)
    (overAll_inv (P := fun t => t = { s with regs := t.regs }) (fun t _ _ ht => by rw [ht]; rfl) rfl)

theorem slipSeqs_clearQueueRegs (s : State) (f : FnId) (q : Nat) : slipSeqs (clearQueueRegs s f q) = slipSeqs s := by
  rw [clearQueueRegs_eq]
  generalize (clearQueueRegs s f q).regs = m
  rfl

theorem queue_clearQueueRegs (s : State) (f : FnId) (q : Nat) (g : FnId) (k : Nat) : (clearQueueRegs s f q).queue g k = s.queue g k := by
  rw [clearQueueRegs_eq]
  generalize (clearQueueRegs s f q).regs = m
  rfl

theorem slipSeqs_resetQueue (f : FnId) (s : State) (q : Nat) : slipSeqs (resetQueue f s q) = slipSeqs s := by
  have hx : ({ Queue.init with seq := (s.queue f q).seq } : Queue).seq = (s.queue f q).seq := rfl
  generalize hy : ({ Queue.init with seq := (s.queue f q).seq } : Queue) = y at hx
  have hr : resetQueue f s q = clearQueueRegs (s.setQueue f q y) f q := by rw [← hy, resetQueue]
  rw [hr, slipSeqs_clearQueueRegs, seq_setQueue hx]

theorem slipSeqs_resetQueues (s : State) (f : FnId) : slipSeqs (resetQueues s f) = slipSeqs s := slipSeqs_overAll (slipSeqs_resetQueue f) _ _

/-- The reset of a function up to its queues. -/
def resetEngines (s : State) (f : FnId) : State := resetQueues (orphan (dropReads (failIntakes s f 0x25) f) f) f

/-- The reset of a function up to the power page and the record. -/
def resetSpace (s : State) (f : FnId) : State :=
  let was := if (s.fn f).flr then (s.fn f).oldCfg else (s.fn f).cfg
  let u := clearCfg (resetEngines s f) f
  fillBuckets (u.setFn f { u.fn f with flr := true, oldCfg := was }) f

theorem resetFn_eq (s : State) (f : FnId) :
    resetFn s f = fnErr (if isPf f then clearPower (resetSpace s f) (fnPort s f) else resetSpace s f) f 5 := rfl

theorem slipSeqs_resetEngines (s : State) (f : FnId) : slipSeqs (resetEngines s f) = slipSeqs s :=
  (slipSeqs_resetQueues ..).trans (slipSeqs_of_fnView ((fnView_orphan ..).trans ((fnView_dropReads ..).trans (fnView_failIntakes ..))))

/-- The configuration space of a function cleared. -/
def cleared (s : State) (f : FnId) : State := s.setFn f { s.fn f with cfg := [], msix := [], pba := 0 }

theorem fnView_clearCfg (s : State) (f : FnId) : fnView (clearCfg s f) = fnView (cleared s f) := by
  unfold clearCfg withIntx
  dsimp only
  split
  · rfl
  · exact fnView_sendTlp ..

theorem slipSeqs_resetSpace (s : State) (f : FnId) : (slipSeqs (resetSpace s f)).2 = (slipSeqs s).2 := by
  have h1 : slipSeqs (clearCfg (resetEngines s f) f) = slipSeqs (cleared (resetEngines s f) f) := slipSeqs_of_fnView (fnView_clearCfg ..)
  have h2 : (slipSeqs (cleared (resetEngines s f) f)).2 = (slipSeqs (resetEngines s f)).2 := rfl
  have h3 : (slipSeqs (resetSpace s f)).2 = (slipSeqs (clearCfg (resetEngines s f) f)).2 := rfl
  rw [h3, h1, h2, slipSeqs_resetEngines]

/-- The function that a reset leaves, and the others as they were. -/
theorem fn_resetSpace (s : State) (f : FnId) : ((resetSpace s f).fn f).flr = true ∧ ((resetSpace s f).fn f).cfg = [] ∧
    ((resetSpace s f).fn f).msix = [] ∧ ((resetSpace s f).fn f).pba = 0 ∧ ∀ g : FnId, g.key ≠ f.key → (resetSpace s f).fn g = s.fn g := by
  have hcl : (clearCfg (resetEngines s f) f).fns = (cleared (resetEngines s f) f).fns := congrArg (fun v => v.2.1) (fnView_clearCfg ..)
  have hen : (resetEngines s f).fns = s.fns := congrArg (fun v => v.1) (slipSeqs_resetEngines s f)
  have hself : (clearCfg (resetEngines s f) f).fn f = { (resetEngines s f).fn f with cfg := [], msix := [], pba := 0 } := by
    rw [State.fn, hcl]
    exact State.fn_setFn_self ..
  have hne (g : FnId) (h : g.key ≠ f.key) : (clearCfg (resetEngines s f) f).fn g = s.fn g := by
    rw [State.fn, hcl]
    refine (State.fn_setFn_ne _ _ _ _ h).trans ?_
    rw [State.fn, hen]
    rfl
  unfold resetSpace fillBuckets
  dsimp only
  rw [State.fn_setFn_self, State.fn_setFn_self, hself]
  refine ⟨rfl, rfl, rfl, rfl, fun g h => ?_⟩
  rw [State.fn_setFn_ne _ _ _ _ h, State.fn_setFn_ne _ _ _ _ h, hne g h]

/-- What every reset of a function leaves in the functions and the queues' counts. -/
theorem fn_resetFn (s : State) (f : FnId) : ((resetFn s f).fn f).flr = true ∧ ((resetFn s f).fn f).cfg = [] ∧
    ((resetFn s f).fn f).msix = [] ∧ ((resetFn s f).fn f).pba = 0 ∧ (∀ g : FnId, g.key ≠ f.key → (resetFn s f).fn g = s.fn g) ∧
    (slipSeqs (resetFn s f)).2 = (slipSeqs s).2 := by
  have h : slipSeqs (resetFn s f) = slipSeqs (resetSpace s f) := by
    rw [resetFn_eq, slipSeqs_fnErr]
    split
    · exact slipSeqs_of_fnView (fnView_clearPower ..)
    · rfl
  have hf (g : FnId) : (resetFn s f).fn g = (resetSpace s f).fn g := congrArg (fun v : NMap Fn × Folio × (FnId → Nat → Nat) => v.1.getD g.key Fn.init) h
  obtain ⟨h1, h2, h3, h4, h5⟩ := fn_resetSpace s f
  rw [hf f]
  exact ⟨h1, h2, h3, h4, fun g hg => (hf g).trans (h5 g hg), (congrArg (fun v => v.2) h).trans (slipSeqs_resetSpace s f)⟩


/-! ### A queue after the reset of its function (R336) -/

theorem key_qpSqBase (f q : Nat) : (Reg.QP_SQ_BASE f q).key = 0x100000000000000 + f * 0x10000 + q * 0x200 := by simp only [Reg.key]; omega

theorem key_qpCqBase (f q : Nat) : (Reg.QP_CQ_BASE f q).key = 0x100000000000000 + f * 0x10000 + q * 0x200 + 8 := by simp only [Reg.key]

/-- A queue at its reset values, `n` slips accepted so far. -/
structure Emptied (f : FnId) (q n : Nat) (t : State) : Prop where
  queue : t.queue f q = { Queue.init with seq := n }
  state : qState t f q = 0
  sqBase : t.rd (.QP_SQ_BASE f.key q) = 0
  cqBase : t.rd (.QP_CQ_BASE f.key q) = 0

theorem Emptied.of_same {f : FnId} {q n : Nat} {s t : State} (h : Emptied f q n s) (hq : t.queue f q = s.queue f q)
    (hr : ∀ r : Reg, 0x100000000000000 ≤ r.key → t.rd r = s.rd r) : Emptied f q n t :=
  ⟨hq.trans h.queue, (congrArg (Fld.get _) (hr _ (by rw [key_qpState]; omega))).trans h.state,
    (hr _ (by rw [key_qpSqBase]; omega)).trans h.sqBase, (hr _ (by rw [key_qpCqBase]; omega)).trans h.cqBase⟩

theorem key_pwrPkg (p : Nat) : (Reg.PWR_PKG p).key = 0x200000000000000 + p * 0x100 := by simp only [Reg.key]

theorem key_pwrDie (p : Nat) : (Reg.PWR_DIE p).key = 0x200000000000000 + p * 0x100 + 0x08 := by simp only [Reg.key]

theorem fnKey_lt (f : FnId) : f.key < 0x1008 := by
  cases f with
  | vf v => exact Nat.lt_trans v.isLt (by decide)
  | pf p => exact Nat.add_lt_add_left p.isLt 0x1000

/-- The registers of the functions alone matter to a queue that a folio may name. -/
theorem Emptied.of_low {f : FnId} {q n : Nat} {s t : State} (h : Emptied f q n s) (h16 : q < 16) (hq : t.queue f q = s.queue f q)
    (hr : ∀ r : Reg, 0x100000000000000 ≤ r.key → r.key < 0x200000000000000 → t.rd r = s.rd r) : Emptied f q n t := by
  have hf := fnKey_lt f
  exact ⟨hq.trans h.queue, (congrArg (Fld.get _) (hr _ (by rw [key_qpState]; omega) (by rw [key_qpState]; omega))).trans h.state,
    (hr _ (by rw [key_qpSqBase]; omega) (by rw [key_qpSqBase]; omega)).trans h.sqBase,
    (hr _ (by rw [key_qpCqBase]; omega) (by rw [key_qpCqBase]; omega)).trans h.cqBase⟩

/-- The registers that a reset clears of a queue. -/
def queueRegs (k q : Nat) : List Reg := [Reg.QP_SQ_BASE k q, .QP_CQ_BASE k q, .QP_SQ_TAIL k q, .QP_CQ_HEAD k q, .QP_CTL k q, .QP_STATE k q]

theorem rd_clearQueueRegs_ne {r : Reg} {f : FnId} {q : Nat} (h : ∀ x ∈ queueRegs f.key q, r.key ≠ x.key) (hl : ∀ i < 8, r.key ≠ (Reg.QP_LOG f.key q i).key)
    (s : State) : (clearQueueRegs s f q).rd r = s.rd r := by
  unfold clearQueueRegs
  dsimp only
  rw [overAll_keeps_mem (g := fun t : State => t.rd r) fun t i hi => State.rd_clr_ne _ _ _ (hl i (List.mem_range.mp hi))]
  exact overAll_keeps_mem (g := fun t : State => t.rd r) (fun t x hx => State.rd_clr_ne _ _ _ (h x hx)) s

theorem queueRegs_apart {k q x : Nat} (hx : x < q * 0x200 ∨ q * 0x200 + 0x200 ≤ x) {r : Reg} (hr : r.key = 0x100000000000000 + k * 0x10000 + x) :
    (∀ y ∈ queueRegs k q, r.key ≠ y.key) ∧ ∀ i < 8, r.key ≠ (Reg.QP_LOG k q i).key := by
  refine ⟨fun y hy => ?_, fun i hi => ?_⟩
  · rw [hr]
    simp only [queueRegs, List.mem_cons, List.not_mem_nil, or_false] at hy
    rcases hy with rfl | rfl | rfl | rfl | rfl | rfl
    · rw [key_qpSqBase]; omega
    · rw [key_qpCqBase]; omega
    · rw [key_qpSqTail]; omega
    · rw [key_qpCqHead]; omega
    · rw [key_qpCtl]; omega
    · rw [key_qpState]; omega
  · rw [hr, key_qpLog]
    omega

/-- Three registers that the clearing of a queue puts to their reset values. -/
theorem rd_clearQueueRegs (s : State) (f : FnId) (q : Nat) {r : Reg} (hr : r = .QP_SQ_BASE f.key q ∨ r = .QP_CQ_BASE f.key q ∨ r = .QP_STATE f.key q) :
    (clearQueueRegs s f q).rd r = r.reset := by
  have hlog : ∀ i < 8, r.key ≠ (Reg.QP_LOG f.key q i).key := fun i hi => by
    rw [key_qpLog]
    rcases hr with rfl | rfl | rfl
    · rw [key_qpSqBase]; omega
    · rw [key_qpCqBase]; omega
    · rw [key_qpState]; omega
  unfold clearQueueRegs
  dsimp only
  rw [overAll_keeps_mem (g := fun t : State => t.rd r) fun t i hi => State.rd_clr_ne _ _ _ (hlog i (List.mem_range.mp hi))]
  have h1 : ∀ a b : Reg, a.key ≠ b.key → ∀ t : State, (t.clr b).rd a = t.rd a := fun a b h t => State.rd_clr_ne _ _ _ h
  simp only [overAll, List.foldl_cons, List.foldl_nil]
  rcases hr with rfl | rfl | rfl
  · rw [h1 _ _ (by rw [key_qpSqBase, key_qpState]; omega), h1 _ _ (by rw [key_qpSqBase, key_qpCtl]; omega), h1 _ _ (by rw [key_qpSqBase, key_qpCqHead]; omega),
      h1 _ _ (by rw [key_qpSqBase, key_qpSqTail]; omega), h1 _ _ (by rw [key_qpSqBase, key_qpCqBase]; omega), State.rd_clr_self]
  · rw [h1 _ _ (by rw [key_qpCqBase, key_qpState]; omega), h1 _ _ (by rw [key_qpCqBase, key_qpCtl]; omega), h1 _ _ (by rw [key_qpCqBase, key_qpCqHead]; omega),
      h1 _ _ (by rw [key_qpCqBase, key_qpSqTail]; omega), State.rd_clr_self]
  · rw [State.rd_clr_self]

theorem emptied_resetQueue (s : State) (f : FnId) (q : Nat) : Emptied f q (s.queue f q).seq (resetQueue f s q) := by
  have hq : (resetQueue f s q).queue f q = { Queue.init with seq := (s.queue f q).seq } := by
    rw [resetQueue, queue_clearQueueRegs, State.queue_setQueue_self]
  refine ⟨hq, ?_, ?_, ?_⟩
  · exact (congrArg (Fld.get _) (rd_clearQueueRegs _ f q (.inr (.inr rfl)))).trans rfl
  · exact (rd_clearQueueRegs _ f q (.inl rfl)).trans rfl
  · exact (rd_clearQueueRegs _ f q (.inr (.inl rfl))).trans rfl

theorem emptied_resetQueue_ne {s : State} {f : FnId} {q n j : Nat} (h : Emptied f q n s) (hj : j ≠ q) : Emptied f q n (resetQueue f s j) := by
  have hr {r : Reg} {x : Nat} (hx : q * 0x200 ≤ x ∧ x < q * 0x200 + 0x200) (hk : r.key = 0x100000000000000 + f.key * 0x10000 + x) :
      (resetQueue f s j).rd r = s.rd r := by
    obtain ⟨ha, hb⟩ := queueRegs_apart (k := f.key) (q := j) (x := x) (by omega) hk
    exact (rd_clearQueueRegs_ne ha hb _).trans (State.rd_setQueue ..)
  refine ⟨?_, ?_, ?_, ?_⟩
  · rw [resetQueue, queue_clearQueueRegs, State.queue_setQueue_ne _ _ _ _ _ _ (by omega), h.queue]
  · exact (congrArg (Fld.get _) (hr (x := q * 0x200 + 32) ⟨by omega, by omega⟩ (by rw [key_qpState]; omega))).trans h.state
  · exact (hr (x := q * 0x200) ⟨by omega, by omega⟩ (by rw [key_qpSqBase])).trans h.sqBase
  · exact (hr (x := q * 0x200 + 8) ⟨by omega, by omega⟩ (by rw [key_qpCqBase]; omega)).trans h.cqBase

theorem emptied_resetQueues {s : State} {f : FnId} {q : Nat} (hq : q < fnQueues s f) : ∃ n, Emptied f q n (resetQueues s f) := by
  obtain ⟨m, n, hm⟩ := List.append_of_mem (List.mem_range.mpr hq)
  obtain ⟨-, hn, -⟩ := List.nodup_append.mp (hm ▸ List.nodup_range (n := fnQueues s f))
  unfold resetQueues
  rw [hm, overAll, List.foldl_append, List.foldl_cons]
  exact ⟨_, overAll_inv (P := Emptied f q _) (fun t j hj ht => emptied_resetQueue_ne ht (fun e => (List.nodup_cons.mp hn).1 (e ▸ hj)))
    (emptied_resetQueue (overAll m (resetQueue f) s) f q)⟩


/-! ### The record of a reset and the loss of a hand -/

theorem key_hpFnErr (f : Nat) : (Reg.HP_FN_ERR f).key = 0xF00004200008 + f * 0x10 := by
  simp only [Reg.key]
  omega

namespace Emptied
variable {f : FnId} {q n : Nat} {s : State}

theorem endSlip (h : Emptied f q n s) (g : FnId) (k seq st res fl : Nat) : Emptied f q n (s.endSlip g k seq st res fl) := by
  have hput {t : State} (ht : Emptied f q n t) : Emptied f q n (t.put (.QP_STATE g.key k) F.QP_STATE_STATE 0) := by
    refine ⟨ht.queue, ?_, ?_, ?_⟩
    · by_cases hk : (Reg.QP_STATE f.key q).key = (Reg.QP_STATE g.key k).key
      · have he : qState (t.put (.QP_STATE g.key k) F.QP_STATE_STATE 0) f q =
            (t.put (.QP_STATE g.key k) F.QP_STATE_STATE 0).get (.QP_STATE g.key k) F.QP_STATE_STATE := by
          unfold qState State.get State.rd State.put State.wr
          dsimp only
          rw [hk, NMap.get?_set_self]
        rw [he]
        exact State.get_put_self (by decide) (by decide) ..
      · exact (State.get_put_ne hk ..).trans ht.state
    · exact (State.rd_put_ne (by rw [key_qpSqBase, key_qpState]; omega) ..).trans ht.sqBase
    · exact (State.rd_put_ne (by rw [key_qpCqBase, key_qpState]; omega) ..).trans ht.cqBase
  have hset {y : Queue} {e : Slip} (hf : (s.queue g k).running.find? (fun e => e.seq == seq) = some e) : Emptied f q n (s.setQueue g k y) := by
    by_cases hk : f.key * 16 + q = g.key * 16 + k
    · have hs : s.queue g k = s.queue f q := by unfold State.queue; rw [hk]
      rw [hs, h.queue] at hf
      cases hf
    · exact h.of_same (State.queue_setQueue_ne _ _ _ _ _ _ hk) fun r _ => State.rd_setQueue ..
  unfold State.endSlip
  dsimp only
  split
  · exact h
  · next e he =>
    split
    · exact hput (hset he)
    · exact hset he

theorem abortIntakes (h : Emptied f q n s) (g : Nat) : Emptied f q n (s.abortIntakes g) := by
  have h1 : Emptied f q n (overAll (s.ledger g).intakes (fun s i =>
      match i.posted with
      | some (f, q, seq, _) => s.endSlip f q seq 0x10 i.seq 0
      | none => s) s) := by
    refine overAll_inv (P := Emptied f q n) (fun t i _ ht => ?_) h
    split
    · exact ht.endSlip ..
    · exact ht
  unfold State.abortIntakes
  exact h1.of_same rfl fun _ _ => rfl

theorem ofRegs (h : Emptied f q n s) {t : State} (hu : sameUnits s t) (hr : ∀ r, 0x100000000000000 ≤ r.key → t.rd r = s.rd r) : Emptied f q n t :=
  h.of_same (by rw [hu]; rfl) hr

theorem noteFault (h : Emptied f q n s) {e : FaultEv} (he : e.cls < 32) (v : Nat) : Emptied f q n (s.noteFault e v) :=
  h.ofRegs (sameUnits_noteFault ..) fun r hr => rd_noteFault ⟨by omega, by omega⟩ _ he v

theorem put (h : Emptied f q n s) {r : Reg} (hr : r.key < 0x100000000000000) (fl : Fld) (v : Nat) : Emptied f q n (s.put r fl v) :=
  h.ofRegs (sameUnits_put ..) fun x hx => State.rd_put_ne (by omega) ..

theorem ledgerLost (h : Emptied f q n s) {g : Nat} (hg : g < 64) : Emptied f q n (ledgerLost s g) := by
  have h1 := (h.put (r := .CSQ_LDG_ERR g) (by rw [key_csqLdgErr]; omega) F.CSQ_LDG_ERR_VOID_LOSS 1).noteFault
    (e := ⟨22, 0x2900, some g, 5, 4, 0, 0⟩) (show 22 < 32 by decide) 4
  have h2 := (h1.abortIntakes g).of_same (t := ((((s.put (.CSQ_LDG_ERR g) F.CSQ_LDG_ERR_VOID_LOSS 1).noteFault ⟨22, 0x2900, some g, 5, 4, 0, 0⟩ 4).abortIntakes g).wr
    (.CSQ_LDG_PHASE g) 0)) rfl fun r hr => State.rd_wr_ne _ _ _ _ (by rw [key_csqLdgPhase]; omega)
  exact overAll_inv (P := Emptied f q n) (f := dropStores) (fun t c _ ht => ht.of_same rfl fun _ _ => rfl) h2

theorem handLoss (h : Emptied f q n s) {g : Nat} (hg : g < 64) : Emptied f q n (s.handLoss g) := by
  cases hl : s.handLost g with
  | true => rwa [handLoss_of_lost hl]
  | false =>
    have h0 : Emptied f q n (lossNoted s g) := h.ofRegs (sameUnits_lossNoted ..) fun r hr => rd_lossNoted ⟨by omega, by omega⟩ (by rw [key_fabHand]; omega) s
    have h1 : Emptied f q n (if (lossNoted s g).folio.isLedger g then Machine.ledgerLost (lossNoted s g) g else lossNoted s g) := by
      split
      · exact h0.ledgerLost hg
      · exact h0
    rw [handLoss_eq hl]
    refine overAll_inv (P := Emptied f q n) (fun t c hc ht => ht.of_same ?_ fun r hr => rd_lossStop_of_ne ?_) h1
    · rw [sameBesideCores_lossStop t c]
      rfl
    · have hlt := lt_of_mem_coresOf hc
      rw [key_coreState]
      omega

theorem fnErr (h : Emptied f q n s) (hh : fnHand s f < 64) : Emptied f q n (fnErr s f 5) := by
  have hw : Emptied f q n (s.wr (.HP_FN_ERR f.key) (s.rd (.HP_FN_ERR f.key) ||| BitVec.ofNat 64 (2 ^ 5))) :=
    h.ofRegs rfl fun r hr => State.rd_wr_ne _ _ _ _ (by have := fnKey_lt f; rw [key_hpFnErr]; omega)
  rw [fnErr_reset]
  unfold State.raise State.fault
  dsimp only
  split
  · exact (hw.noteFault (show 18 < 32 by decide) 4).handLoss hh
  · exact hw.noteFault (show 18 < 32 by decide) _

end Emptied

/-- HP_FN_ERR.FLR after its record. -/
theorem bit_fnErr (s : State) {f : FnId} (hh : fnHand s f < 64) : ((fnErr s f 5).rd (.HP_FN_ERR f.key)).getLsbD 5 = true := by
  have hk : (Reg.HP_FN_ERR f.key).key < 0xF00004300000 ∧ 0xF00004200000 < (Reg.HP_FN_ERR f.key).key := by
    have := fnKey_lt f
    simp only [Reg.key]
    omega
  have hn : noteKept (.HP_FN_ERR f.key) := ⟨.inl (by omega), .inl (by omega)⟩
  have hl : LossKept (fnHand s f) (.HP_FN_ERR f.key) :=
    ⟨hn, by omega, by rw [key_fabHand]; omega, by rw [key_csqLdgErr]; omega, by rw [key_csqLdgPhase]; omega⟩
  have hw : ((s.wr (.HP_FN_ERR f.key) (s.rd (.HP_FN_ERR f.key) ||| BitVec.ofNat 64 (2 ^ 5))).rd (.HP_FN_ERR f.key)).getLsbD 5 = true := by
    rw [State.rd_wr_self, BitVec.getLsbD_or, show (BitVec.ofNat 64 (2 ^ 5)).getLsbD 5 = true from rfl, Bool.or_true]
  rw [fnErr_reset]
  unfold State.raise State.fault
  dsimp only
  split
  · rw [rd_handLoss hl (fun c _ => by have := key_coreState_ge c; omega), rd_noteFault hn _ (show 18 < 32 by decide)]
    exact hw
  · rw [rd_noteFault hn _ (show 18 < 32 by decide)]
    exact hw


/-! ### The resets of a function and of its VFs (R336, R337) -/

theorem folio_beforeRecord (s : State) (f : FnId) :
    (if isPf f then clearPower (resetSpace s f) (fnPort s f) else resetSpace s f).folio = s.folio := by
  have hfolio : (resetSpace s f).folio = s.folio := congrArg (fun v : Folio × (FnId → Nat → Nat) => v.1) (slipSeqs_resetSpace s f)
  split
  · exact (folio_of_fnView (fnView_clearPower ..)).trans hfolio
  · exact hfolio

theorem emptied_resetFn {s : State} {f : FnId} {q : Nat} (h16 : q < 16) (hq : q < fnQueues s f) (hh : fnHand s f < 64) :
    Emptied f q (s.queue f q).seq (resetFn s f) := by
  obtain ⟨h1, -, -, -, -, hseq⟩ := fn_resetFn s f
  have hn : (orphan (dropReads (failIntakes s f 0x25) f) f).folio = s.folio := folio_of_fnView (fnView_stopped s f _)
  have hq2 : q < fnQueues (orphan (dropReads (failIntakes s f 0x25) f) f) f := by
    unfold fnQueues
    rw [hn]
    exact hq
  obtain ⟨n, hn1⟩ := emptied_resetQueues hq2
  have hcfg : Emptied f q n (clearCfg (resetEngines s f) f) := by
    have hp : portsOnly (resetEngines s f) (clearCfg (resetEngines s f) f) := portsOnly_withIntx (portsOnly_setFn ..)
    exact hn1.of_same (hp.queue f q) fun r _ => hp.rd r
  have hspace : Emptied f q n (resetSpace s f) := hcfg.of_same rfl fun _ _ => rfl
  have hpow : Emptied f q n (if isPf f then clearPower (resetSpace s f) (fnPort s f) else resetSpace s f) := by
    split
    · refine hspace.of_low h16 (queue_of_fnView (fnView_clearPower ..) _ _) fun r hr hr2 => ?_
      refine ((powerStep_retarget _).rd r (.inr hr)).trans ((State.rd_clr_ne _ _ _ ?_).trans (State.rd_clr_ne _ _ _ ?_))
      · rw [key_pwrDie]
        omega
      · rw [key_pwrPkg]
        omega
    · exact hspace
  have hfin : Emptied f q n (resetFn s f) := by
    rw [resetFn_eq]
    refine hpow.fnErr ?_
    unfold fnHand
    rw [folio_beforeRecord]
    exact hh
  have hs : (s.queue f q).seq = n := by
    have := congrFun (congrFun (congrArg (fun v => v.2) hseq) f) q
    exact this.symm.trans (congrArg Queue.seq hfin.queue)
  rw [hs]
  exact hfin


/-- The VFs of a port reset in turn. -/
def resetVfs (s : State) (l : List Nat) : State := overAll l (fun s v => resetFn s (.vf (Fin.ofNat 4096 v))) s

theorem vfKey {v : Nat} (h : v < 4096) : (FnId.vf (Fin.ofNat 4096 v)).key = v := Nat.mod_eq_of_lt h

theorem lt_of_mem_portVfs {s : State} {p v : Nat} (h : v ∈ portVfs s p) : v < 4096 := List.mem_range.mp (List.mem_filter.mp h).1

theorem resetVfs_slipSeqs (s : State) (l : List Nat) : (slipSeqs (resetVfs s l)).2 = (slipSeqs s).2 :=
  overAll_keeps (fun t => (slipSeqs t).2) (fun t v => (fn_resetFn t (.vf (Fin.ofNat 4096 v))).2.2.2.2.2) l s

/-- The PF of a port is no VF. -/
theorem fn_pf_resetVfs (s : State) (p : Fin 8) (l : List Nat) : (resetVfs s l).fn (.pf p) = s.fn (.pf p) := by
  refine overAll_keeps (fun t => t.fn (.pf p)) (fun t v => ?_) l s
  obtain ⟨-, -, -, -, h, -⟩ := fn_resetFn t (.vf (Fin.ofNat 4096 v))
  refine h (.pf p) ?_
  have : (FnId.vf (Fin.ofNat 4096 v)).key < 4096 := Nat.mod_lt _ (by decide)
  have hp : (FnId.pf p).key = 0x1000 + p.val := rfl
  omega

/-- Each of the VFs is at its reset values. -/
theorem fn_resetVfs (s : State) {l : List Nat} (hn : l.Nodup) (hl : ∀ v ∈ l, v < 4096) {v : Fin 4096} (hv : v.val ∈ l) :
    ((resetVfs s l).fn (.vf v)).flr = true ∧ ((resetVfs s l).fn (.vf v)).cfg = [] := by
  have he : Fin.ofNat 4096 v.val = v := Fin.ext (Nat.mod_eq_of_lt v.isLt)
  obtain ⟨u, -, hu⟩ := overAll_at (f := fun s v => resetFn s (.vf (Fin.ofNat 4096 v))) (read := fun t : State => t.fn (.vf v)) hn hv
    (fun t j hj hne => by
      obtain ⟨-, -, -, -, h, -⟩ := fn_resetFn t (.vf (Fin.ofNat 4096 j))
      refine h (.vf v) ?_
      rw [vfKey (hl j hj)]
      exact Ne.symm hne) s
  have hr : (resetVfs s l).fn (.vf v) = (resetFn u (.vf v)).fn (.vf v) := by
    rw [resetVfs, hu, he]
  obtain ⟨h1, h2, -⟩ := fn_resetFn u (.vf v)
  rw [hr]
  exact ⟨h1, h2⟩

/-- What stands before the last reset of a function: the VFs of a PF have been reset. -/
def vfsReset (s : State) : FnId → State
  | .vf _ => s
  | .pf p => resetVfs s (portVfs s p)

theorem resetWithVfs_eq (s : State) (f : FnId) : resetWithVfs s f = resetFn (vfsReset s f) f := by
  cases f <;> rfl

theorem slipSeqs_vfsReset (s : State) (f : FnId) : (slipSeqs (vfsReset s f)).2 = (slipSeqs s).2 := by
  cases f with
  | vf v => rfl
  | pf p => exact resetVfs_slipSeqs ..

theorem kept_vfsReset (s : State) (f : FnId) : (vfsReset s f).kept = s.kept := by
  cases f with
  | vf v => rfl
  | pf p => exact kept_overAll _ _ _ fun t v => kept_resetFn t (.vf (Fin.ofNat 4096 v))

theorem startFlr_spec {s : State} {f : FnId} (hx : fnExists s f = true) (hf : (s.fn f).flr = false) (hb : ∀ g, fnQueues s g ≤ 16 ∧ fnHand s g < 64) :
    ∃ t, exec (.functionLevelReset f) s = .next t ∧ (t.fn f).flr = true ∧ (t.fn f).cfg = [] ∧ (t.fn f).msix = [] ∧ (t.fn f).pba = 0 ∧
      (∀ q : Fin 16, q.val < fnQueues s f → t.queue f q = { Queue.init with seq := (s.queue f q).seq } ∧
        qState t f q = 0 ∧ t.rd (.QP_SQ_BASE f.key q) = 0 ∧ t.rd (.QP_CQ_BASE f.key q) = 0) ∧
      (t.rd (.HP_FN_ERR f.key)).getLsbD 5 = true ∧ t.dram = s.dram := by
  have hx : exec (.functionLevelReset f) s = .next (resetFn (vfsReset s f) f) := by
    rw [← resetWithVfs_eq]
    exact congrArg Host.Outcome.next (if_pos ⟨hx, by rw [hf]; decide⟩)
  have hv := slipSeqs_vfsReset s f
  have hfolio : (vfsReset s f).folio = s.folio := congrArg (fun v : Folio × (FnId → Nat → Nat) => v.1) hv
  have hq : fnQueues (vfsReset s f) f = fnQueues s f := by unfold fnQueues; rw [hfolio]
  have hh : fnHand (vfsReset s f) f = fnHand s f := by unfold fnHand; rw [hfolio]
  obtain ⟨h1, h2, h3, h4, -, h6⟩ := fn_resetFn (vfsReset s f) f
  refine ⟨_, hx, h1, h2, h3, h4, fun q hlt => ?_, ?_, ?_⟩
  · have he := emptied_resetFn (s := vfsReset s f) q.isLt (by rw [hq]; exact hlt) (by rw [hh]; exact (hb f).2)
    have hs : ((vfsReset s f).queue f q).seq = (s.queue f q).seq := congrFun (congrFun (congrArg (fun v : Folio × (FnId → Nat → Nat) => v.2) hv) f) q
    rw [hs] at he
    exact ⟨he.queue, he.state, he.sqBase, he.cqBase⟩
  · rw [resetFn_eq]
    refine bit_fnErr _ ?_
    unfold fnHand
    rw [folio_beforeRecord]
    unfold fnHand at hh
    rw [hh]
    exact (hb f).2
  · exact congrArg Prod.snd ((kept_resetFn ..).trans (kept_vfsReset s f))

theorem vfEnableOff_of_set {p : Fin 8} {s : State} (hv : vfEnable s p = true) : vfEnableOff s p =
    resetVfs (setCfg s (.pf p) 0x160 (cfg s (.pf p) 0x160 &&& ~~~ 1)) (portVfs (setCfg s (.pf p) 0x160 (cfg s (.pf p) 0x160 &&& ~~~ 1)) p) := by
  unfold vfEnableOff resetVfs
  rw [if_neg (by rw [hv]; decide)]

theorem nodup_portVfs (s : State) (p : Nat) : (portVfs s p).Nodup := List.nodup_range.filter _

theorem portVfs_congr {s t : State} (h : t.folio = s.folio) (p : Nat) : portVfs t p = portVfs s p := by
  unfold portVfs
  rw [h]

theorem vfEnableClear_spec {p : Fin 8} {s : State} (hv : vfEnable s p = true) : ∃ t, exec (.vfEnableClear p) s = .next t ∧ vfEnable t p = false ∧
    (∀ v : Fin 4096, v.val ∈ portVfs s p → (t.fn (.vf v)).flr = true ∧ (t.fn (.vf v)).cfg = []) := by
  let u := setCfg s (.pf p) 0x160 (cfg s (.pf p) 0x160 &&& ~~~ 1)
  have hx : exec (.vfEnableClear p) s = .next (resetVfs u (portVfs u p)) := congrArg Host.Outcome.next (vfEnableOff_of_set hv)
  refine ⟨_, hx, ?_, fun v hm => fn_resetVfs u (nodup_portVfs u p) (fun v h => lt_of_mem_portVfs h)
    (by rw [portVfs_congr (show u.folio = s.folio from rfl)]; exact hm)⟩
  have hc : cfg (resetVfs u (portVfs u p)) (.pf p) 0x160 = cfg u (.pf p) 0x160 := by
    unfold cfg
    rw [fn_pf_resetVfs]
  unfold vfEnable
  rw [hc, show cfg u (.pf p) 0x160 = cfg s (.pf p) 0x160 &&& ~~~ 1 from (cfg_setCfg ..).trans (if_pos rfl)]
  simp

theorem d3hotToD0_spec {f : FnId} {s : State} (h : inD3 s f = true) : ∃ t, exec (.d3hotToD0 f) s = .next t ∧ inD3 t f = false ∧ (t.fn f).flr = true := by
  have hx : exec (.d3hotToD0 f) s = .next (resetFn (vfsReset s f) f) := by
    rw [← resetWithVfs_eq]
    exact congrArg Host.Outcome.next (if_pos h)
  obtain ⟨h1, h2, -⟩ := fn_resetFn (vfsReset s f) f
  refine ⟨_, hx, ?_, h1⟩
  unfold inD3 cfg
  rw [h2]
  decide

theorem d0ToD3hot_spec {f : FnId} {s : State} (h : inD3 s f = false) :
    ∃ t, exec (.d0ToD3hot f) s = .next (if bme s f then masterOff t f else t) ∧ inD3 t f = true ∧
      (∀ o, o ≠ 0x44 → cfg t f o = cfg s f o) ∧ fnsBut s t [f] ∧ t = { s with fns := t.fns } := by
  have hb : bme (setCfg s f 0x44 (cfg s f 0x44 ||| 3)) f = bme s f := by
    unfold bme
    rw [cfg_setCfg, if_neg (by decide)]
  refine ⟨setCfg s f 0x44 (cfg s f 0x44 ||| 3), ?_, ?_, fun o ho => ?_, fun g hg => ?_, rfl⟩
  · rw [← hb]
    exact congrArg Host.Outcome.next (if_neg (by rw [h]; decide))
  · unfold inD3
    rw [cfg_setCfg, if_pos rfl, Fld.get_congr (w := 3) (by decide) fun i hi => ?_]
    · decide
    · have hi : i = 0 ∨ i = 1 := by
        have : i ≤ 1 := hi
        omega
      rcases hi with rfl | rfl <;> simp
  · rw [cfg_setCfg, if_neg ho]
  · exact State.fn_setFn_ne _ _ _ _ (hg f (List.mem_singleton_self _))

theorem portFunctions_claim : Claim.PortFunctions := by
  refine ⟨fun f s => ⟨fun h => congrArg Host.Outcome.next (if_pos h), fun h => congrArg Host.Outcome.next (if_neg (by rw [h]; decide)),
      fun h => congrArg Host.Outcome.next (if_pos h), fun h => congrArg Host.Outcome.next (if_neg (by rw [h]; decide)),
      fun b => ⟨bme_setBme s f b, fun o ho => cfg_setBme s f b ho⟩⟩,
    fun f s hx hf hb => startFlr_spec hx hf hb, fun f s h => congrArg Host.Outcome.next (if_neg ?_), fun f s => rfl, fun p s h => vfEnableClear_spec h,
    fun p s h => congrArg Host.Outcome.next (if_pos (by rw [h]; decide)), fun f s h => congrArg Host.Outcome.next (if_neg (by rw [h]; decide)),
    fun f s h => d3hotToD0_spec h, fun f s h => congrArg Host.Outcome.next (if_pos h), fun f s h => d0ToD3hot_spec h⟩
  rintro ⟨h1, h2⟩
  rcases h with h | h
  · rw [h] at h1
    cases h1
  · exact h2 h

end Sys2Proof.Machine
end

section
/-! SUPPORT. Peer windows: commits and the switch (R332, R334). -/

namespace Sys2Proof.Machine

/-! ### The registers of the peer windows (R332) -/

theorem key_winCommit (p : Nat) : (Reg.HP_WIN_COMMIT p).key = 0xF00004100018 + p * 0x1000 := by
  simp only [Reg.key]
  omega

theorem key_hpErr (p : Nat) : (Reg.HP_ERR p).key = 0xF00004100020 + p * 0x1000 := by
  simp only [Reg.key]
  omega

/-- Where the shadow and the active registers of the windows of a port stand. -/
theorem key_winRegs {p w : Nat} {e : Reg × Reg} (h : e ∈ winRegs p w) : ∃ i < 4, e.1.key = 0xF00004000000 + p * 0x1000 + w * 0x20 + i * 8 ∧
    e.2.key = 0xF00004080000 + p * 0x1000 + w * 0x20 + i * 8 := by
  simp only [winRegs, List.mem_cons, List.not_mem_nil, or_false] at h
  rcases h with rfl | rfl | rfl | rfl
  · exact ⟨0, by decide, by simp only [Reg.key], by simp only [Reg.key]⟩
  · exact ⟨1, by decide, by simp only [Reg.key], by simp only [Reg.key]⟩
  · exact ⟨2, by decide, by simp only [Reg.key], by simp only [Reg.key]⟩
  · exact ⟨3, by decide, by simp only [Reg.key], by simp only [Reg.key]⟩

/-- Every window's registers of a port, shadow and active, in their order. -/
def allWinRegs (p : Nat) : List (Reg × Reg) := (List.range 16).flatMap (winRegs p)

theorem mem_allWinRegs {p w : Nat} (hw : w < 16) {e : Reg × Reg} (h : e ∈ winRegs p w) : e ∈ allWinRegs p :=
  List.mem_flatMap.mpr ⟨w, List.mem_range.mpr hw, h⟩

theorem flatMap_map_winRegs {α : Type} (p : Nat) (g : Reg × Reg → α) :
    (List.range 16).flatMap (fun w => (winRegs p w).map g) = (allWinRegs p).map g := by
  rw [allWinRegs, List.map_flatMap]

/-- Each register of a list written with the value of its partner. -/
theorem overAll_zip_wr (l : List (Reg × Reg)) (g : Reg → Word) (s : State) :
    overAll ((l.map (·.2)).zip (l.map fun e => g e.1)) (fun s e => s.wr e.1 e.2) s = overAll l (fun s e => s.wr e.2 (g e.1)) s := by
  induction l generalizing s with
  | nil => rfl
  | cons e l ih => exact ih _

/-- The active registers of the listed windows take what `g` says; the others stay. -/
theorem rd_overAll_wr (l : List (Reg × Reg)) (g : Reg → Word) (hn : (l.map fun e => e.2.key).Nodup) (s : State) :
    (∀ e ∈ l, (overAll l (fun s e => s.wr e.2 (g e.1)) s).rd e.2 = g e.1) ∧
    (∀ r : Reg, (∀ e ∈ l, r.key ≠ e.2.key) → (overAll l (fun s e => s.wr e.2 (g e.1)) s).rd r = s.rd r) := by
  have hkeep (l : List (Reg × Reg)) (s : State) (r : Reg) (h : ∀ e ∈ l, r.key ≠ e.2.key) : (overAll l (fun s e => s.wr e.2 (g e.1)) s).rd r = s.rd r :=
    overAll_keeps_mem (g := fun t : State => t.rd r) (fun t e he => State.rd_wr_ne _ _ _ _ (h e he)) s
  refine ⟨?_, fun r h => hkeep l s r h⟩
  induction l generalizing s with
  | nil => exact fun _ h => nomatch h
  | cons a l ih =>
    obtain ⟨ha, hl⟩ := List.nodup_cons.mp hn
    intro e he
    rcases List.mem_cons.mp he with rfl | he
    · refine (hkeep l _ _ fun b hb hk => ha ?_).trans (State.rd_wr_self ..)
      exact List.mem_map.mpr ⟨b, hb, hk.symm⟩
    · exact ih hl _ e he

theorem nodup_allWinRegs (p : Fin 8) : ((allWinRegs p).map fun e => e.2.key).Nodup := by
  revert p
  decide +kernel

/-- Where every register of the windows of a port stands. -/
theorem key_allWinRegs {p : Fin 8} {e : Reg × Reg} (h : e ∈ allWinRegs p) : 0xF00004000000 ≤ e.1.key ∧ e.1.key < 0xF00004010000 ∧
    0xF00004080000 ≤ e.2.key ∧ e.2.key < 0xF00004090000 := by
  obtain ⟨w, hw, he⟩ := List.mem_flatMap.mp h
  have hw := List.mem_range.mp hw
  obtain ⟨i, hi, h1, h2⟩ := key_winRegs he
  omega

/-! ### Commits and the switch (R332, R334) -/

section Commit
variable {who : Agent} {p : Fin 8} {v : Word} {s : State} (hw : s.isHouse who = true)
include hw

/-- WIN_REFUSED and its mirror cleared. -/
def refusedCleared (s : State) (p : Nat) : State := (s.put (.HP_WIN_COMMIT p) F.HP_WIN_COMMIT_WIN_REFUSED 0).put (.HP_ERR p) F.HP_ERR_WIN_REFUSED 0

/-- What a commit of the shadow windows does. -/
def winCommit (s : State) (p : Nat) : State :=
  if winsOk s p (shadowWins s p) then
    (s.setPort p { s.port p with winPend := (List.range 16).flatMap (fun w => (winRegs p w).map (fun e => s.rd e.1)) }).put (.HP_WIN_COMMIT p)
      F.HP_WIN_COMMIT_WIN_PEND 1
  else portErr (s.put (.HP_WIN_COMMIT p) F.HP_WIN_COMMIT_WIN_REFUSED 1) p 5 0

theorem exec_winCommit : exec (.hpWinCommitGo who p v) s = .next (
    let u := if F.HP_WIN_COMMIT_WIN_REFUSED.get v = 1 then refusedCleared s p else s
    if F.HP_WIN_COMMIT_GO.get v = 0 then u else winCommit u p) := by
  have hx : exec (.hpWinCommitGo who p v) s = execHpWinCommitGo who p v s := rfl
  rw [hx]
  unfold execHpWinCommitGo winCommit refusedCleared
  rw [if_neg (by rw [hw]; decide)]
  dsimp only
  split
  · rfl
  · split
    · exact (apply_ite Host.Outcome.next ..).symm
    · exact (apply_ite Host.Outcome.next ..).symm

end Commit

theorem winCommit_of_ok {p : Fin 8} {s : State} (ho : winsOk s p (shadowWins s p) = true) :
    (winCommit s p).bit (.HP_WIN_COMMIT p) F.HP_WIN_COMMIT_WIN_PEND = true ∧
      ((winCommit s p).port p).winPend = (List.range 16).flatMap (fun w => (winRegs p w).map (fun e => s.rd e.1)) ∧
      (∀ w : Fin 16, ∀ e ∈ winRegs p w, (winCommit s p).rd e.2 = s.rd e.2) ∧ portsBut s (winCommit s p) [p.val] ∧
      regsBut s (winCommit s p) [.HP_WIN_COMMIT p] ∧ winCommit s p = { s with regs := (winCommit s p).regs, ports := (winCommit s p).ports } := by
  unfold winCommit
  rw [if_pos ho]
  generalize (List.range 16).flatMap (fun w => (winRegs p w).map (fun e => s.rd e.1)) = ws
  refine ⟨State.bit_put_self (by decide) (by decide) .., ?_, fun w e he => ?_, fun q hq => ?_, regsBut_put (s.setPort p _) _ _ _, rfl⟩
  · exact congrArg Port.winPend (State.port_setPort_self s p { s.port p with winPend := ws })
  · obtain ⟨-, -, h3, h4⟩ := key_allWinRegs (mem_allWinRegs w.isLt he)
    exact State.rd_put_ne (by rw [key_winCommit]; omega) ..
  · exact State.port_setPort_ne _ _ _ _ (by simpa using hq)

theorem winCommit_of_refused {p : Fin 8} {s : State} (ho : winsOk s p (shadowWins s p) = false) :
    (winCommit s p).bit (.HP_WIN_COMMIT p) F.HP_WIN_COMMIT_WIN_REFUSED = true ∧ ((winCommit s p).rd (.HP_ERR p)).getLsbD 5 = true ∧
      (winCommit s p).ports = s.ports ∧ (∀ w : Fin 16, ∀ e ∈ winRegs p w, (winCommit s p).rd e.2 = s.rd e.2) := by
  unfold winCommit
  rw [if_neg (by rw [ho]; decide)]
  have hp := p.isLt
  have hr : portErr (s.put (.HP_WIN_COMMIT p) F.HP_WIN_COMMIT_WIN_REFUSED 1) p 5 0 =
      (s.put (.HP_WIN_COMMIT p) F.HP_WIN_COMMIT_WIN_REFUSED 1).raise (.HP_ERR p) 5 17 (0x2400 + p) none 0 0 := rfl
  have hkept {r : Reg} (h : r.key < 0xF00004200000) : noteKept r := ⟨.inl (by omega), .inl (by omega)⟩
  rw [hr]
  refine ⟨?_, ?_, ?_, fun w e he => ?_⟩
  · unfold State.bit State.get
    rw [rd_raise_ne (hkept (by rw [key_winCommit]; omega)) (by rw [key_winCommit, key_hpErr]; omega) _ _ (by decide)]
    exact State.bit_put_self (by decide) (by decide) ..
  · rw [rd_raise (hkept (by rw [key_hpErr]; omega)) _ _ _ (by decide), State.rd_wr_self, BitVec.getLsbD_or,
      show (BitVec.ofNat 64 (2 ^ 5)).getLsbD 5 = true from rfl, Bool.or_true]
  · rw [sameUnits_raise]
    rfl
  · obtain ⟨-, -, h3, h4⟩ := key_allWinRegs (mem_allWinRegs w.isLt he)
    rw [rd_raise_ne (hkept (by omega)) (by rw [key_hpErr]; omega) _ _ (by decide)]
    exact State.rd_put_ne (by rw [key_winCommit]; omega) ..

theorem isHouse_refusedCleared (s : State) (p : Fin 8) (who : Agent) : (refusedCleared s p).isHouse who = s.isHouse who := by
  have hp := p.isLt
  unfold State.isHouse
  split
  · next c =>
    rw [handOf_congr fun h hh => ?_]
    refine (State.rd_put_ne ?_ ..).trans (State.rd_put_ne ?_ ..)
    · rw [key_hpErr, key_fabHandCores]; omega
    · rw [key_winCommit, key_fabHandCores]; omega
  · rfl

theorem windowSetSwitch_spec {p : Fin 8} {s u : State} (hb : s.bit (.HP_WIN_COMMIT p) F.HP_WIN_COMMIT_WIN_PEND = true)
    (hp : (s.port p).winPend = (List.range 16).flatMap (fun w => (winRegs p w).map (fun e => u.rd e.1))) :
    ∃ t, exec (.windowSetSwitch p) s = .next t ∧ (∀ w : Fin 16, ∀ e ∈ winRegs p w, t.rd e.2 = u.rd e.1 ∧ t.rd e.1 = s.rd e.1) ∧
      t.bit (.HP_WIN_COMMIT p) F.HP_WIN_COMMIT_WIN_PEND = false ∧ (t.port p).winPend = [] ∧ portsBut s t [p.val] ∧
      t = { s with regs := t.regs, ports := t.ports } := by
  have hlt := p.isLt
  obtain ⟨h2, h1⟩ := rd_overAll_wr (allWinRegs p) u.rd (nodup_allWinRegs p) s
  have hsame : overAll (allWinRegs p) (fun s e => s.wr e.2 (u.rd e.1)) s =
      { s with regs := (overAll (allWinRegs p) (fun s e => s.wr e.2 (u.rd e.1)) s).regs } :=
    overAll_inv (P := fun t => t = { s with regs := t.regs }) (fun t _ _ ht => by rw [ht]; rfl) rfl
  have hx : exec (.windowSetSwitch p) s = .next (
      let a := overAll (allWinRegs p) (fun s e => s.wr e.2 (u.rd e.1)) s
      (a.setPort p { a.port p with winPend := [] }).put (.HP_WIN_COMMIT p) F.HP_WIN_COMMIT_WIN_PEND 0) := by
    have hx : exec (.windowSetSwitch p) s = execWindowSetSwitch p s := rfl
    rw [hx]
    unfold execWindowSetSwitch
    rw [if_neg (by rw [hb]; decide), hp, flatMap_map_winRegs, flatMap_map_winRegs p fun e => u.rd e.1]
    dsimp only
    rw [overAll_zip_wr]
  generalize overAll (allWinRegs p) (fun s e => s.wr e.2 (u.rd e.1)) s = a at h1 h2 hsame hx
  refine ⟨_, hx, fun w e he => ⟨?_, ?_⟩, ?_, ?_, fun q hq => ?_, ?_⟩
  · have hm := mem_allWinRegs w.isLt he
    obtain ⟨-, -, h3, h4⟩ := key_allWinRegs hm
    exact (State.rd_put_ne (by rw [key_winCommit]; omega) ..).trans (h2 e hm)
  · have hm := mem_allWinRegs w.isLt he
    obtain ⟨h3, h4, -, -⟩ := key_allWinRegs hm
    refine (State.rd_put_ne (by rw [key_winCommit]; omega) ..).trans (h1 e.1 fun b hb => ?_)
    obtain ⟨-, -, h5, h6⟩ := key_allWinRegs hb
    omega
  · exact State.bit_put_self (by decide) (by decide) ..
  · exact congrArg Port.winPend (State.port_setPort_self a p { a.port p with winPend := [] })
  · refine (State.port_setPort_ne _ _ _ _ (by simpa using hq)).trans ?_
    rw [hsame]
    rfl
  · rw [hsame]
    rfl

theorem portWindows_claim : Claim.PortWindows := by
  refine ⟨fun who p v s hw hg hr => ⟨fun ho => ?_, fun ho => ?_⟩, fun who p v s hw => ⟨fun hr hg => ?_, fun hg => ?_⟩, fun who p v s hw => if_pos (by rw [hw]; decide),
    fun p s u hb hp => windowSetSwitch_spec hb hp, fun p s hb => if_pos (by rw [hb]; decide)⟩
  · refine ⟨winCommit s p, ?_, winCommit_of_ok ho⟩
    rw [exec_winCommit hw, hg, hr]
    rfl
  · refine ⟨winCommit s p, ?_, winCommit_of_refused ho⟩
    rw [exec_winCommit hw, hg, hr]
    rfl
  · have hone := exec_winCommit (p := p) (v := 1) ((isHouse_refusedCleared s p who).trans hw)
    rw [exec_winCommit hw, hg, hr]
    exact hone.symm
  · rw [exec_winCommit hw, hg]
    rfl

/-- Settles O40, by what a reset leaves of a function and of its queues, and by the registers that a commit and a switch of the windows write. -/
theorem portFunctions : Obligations.PortFunctions := ⟨portFunctions_claim, portWindows_claim⟩

end Sys2Proof.Machine
end

section
/-! SUPPORT. The queues of a memory channel: data of a read, refresh, and neighbour refresh (R270, R277, R282 to R286). -/

namespace Sys2Proof.Machine

/-! ### What the queues of a channel change -/

/-- A command counted as an activation and noted, as `issued` does once its bank is timed. -/
def logCmd (s : State) (n : Nat) (m : MemCmd) : State :=
  let s := if m.req then
      let t := countAct (s.chan n).act m.row
      (s.setChan n { s.chan n with act := t }).put (.MC_ACT n) F.MC_ACT_USED t.length
    else s
  let c := s.chan n
  let same := (c.hist.filter (fun h => h.slot == m.slot)).take 63
  let s := s.setChan n { c with hist := m :: (same ++ c.hist.filter (fun h => h.slot != m.slot)) }
  s.put (.MC_INJECT n) F.MC_INJECT_CA_PARITY 0

/-- A step of the queues of channel `n`: beside registers, SRAM errors, counted events and stored lines, only that channel changes. -/
def ChanStep (n : Nat) (s t : State) : Prop :=
  t = { s with regs := t.regs, flips := t.flips, events := t.events, chans := t.chans, dram := t.dram } ∧ chansBut s t [n]

namespace ChanStep

theorem refl (n : Nat) (s : State) : ChanStep n s s := ⟨rfl, fun _ _ => rfl⟩

theorem trans {n : Nat} {s t u : State} (h : ChanStep n s t) (h' : ChanStep n t u) : ChanStep n s u := by
  obtain ⟨h1, h2⟩ := h
  obtain ⟨h1', h2'⟩ := h'
  refine ⟨?_, fun k hk => (h2' k hk).trans (h2 k hk)⟩
  rw [h1', h1]

theorem of_sameUnits {n : Nat} {s t : State} (h : sameUnits s t) : ChanStep n s t := by
  rw [sameUnits] at h
  rw [h]
  exact ⟨rfl, fun _ _ => rfl⟩

theorem put {n : Nat} (s : State) (r : Reg) (f : Fld) (v : Nat) : ChanStep n s (s.put r f v) := of_sameUnits (sameUnits_put ..)

theorem setChan (s : State) (n : Nat) (x : Chan) : ChanStep n s (s.setChan n x) :=
  ⟨rfl, fun k hk => State.chan_setChan_ne _ _ _ _ (by simpa using hk)⟩

theorem countBlk {n : Nat} (s : State) (b ev v : Nat) : ChanStep n s (s.countBlk b ev v) := ⟨rfl, fun _ _ => rfl⟩

theorem setDram {n : Nat} (s : State) (m : Dram) : ChanStep n s { s with dram := m } := ⟨rfl, fun _ _ => rfl⟩

theorem overAll {α : Type} {n : Nat} {f : State → α → State} (h : ∀ s a, ChanStep n s (f s a)) (l : List α) (s : State) :
    ChanStep n s (overAll l f s) := overAll_rel (refl n) trans h l s

theorem iodSram {n : Nat} (s : State) (st u i : Nat) : ChanStep n s (s.iodSram st u i).2 := by
  unfold State.iodSram
  split
  · exact refl n s
  · exact of_sameUnits ((sameUnits_sramClear ..).trans (sameUnits_noteFault ..))
  · exact of_sameUnits ((sameUnits_sramClear ..).trans (sameUnits_noteFault ..))

theorem enter (s : State) (n : Nat) (r : MemReq) (own : Bool) : ChanStep n s (Machine.enter s n r own) := by
  unfold Machine.enter
  split
  · exact (countBlk ..).trans (setChan ..)
  · next w =>
    refine (of_sameUnits (sameUnits_sramWrite s 14 (0x2300 + n) (w.line * 64))).trans ?_
    dsimp only
    split
    · split
      · exact setChan ..
      · exact setChan ..
    · exact setChan ..

theorem admitOne (n : Nat) (st : State × List MemReq) (r : MemReq) : ChanStep n st.1 (Machine.admitOne n st r).1 := by
  unfold Machine.admitOne
  dsimp only
  split
  · split
    · exact refl ..
    · exact enter ..
  · exact refl ..

theorem foldl_admitOne (n : Nat) (l : List MemReq) (st : State × List MemReq) : ChanStep n st.1 (l.foldl (Machine.admitOne n) st).1 := by
  induction l generalizing st with
  | nil => exact refl ..
  | cons r l ih => exact (admitOne n st r).trans (ih _)

theorem admitWaiting (s : State) (n : Nat) : ChanStep n s (Machine.admitWaiting s n) :=
  ((setChan ..).trans (foldl_admitOne n _ (s.setChan n { s.chan n with waitQ := [] }, []))).trans (setChan ..)

theorem logCmd (s : State) (n : Nat) (m : MemCmd) : ChanStep n s (Machine.logCmd s n m) := by
  unfold Machine.logCmd
  dsimp only
  split
  · exact ((setChan ..).trans (put ..)).trans ((setChan ..).trans (put ..))
  · exact (setChan ..).trans (put ..)

theorem keepBusy (s : State) (n b till : Nat) : ChanStep n s (Machine.keepBusy s n b till) := setChan ..

theorem issued (s : State) (n : Nat) (m : MemCmd) : ChanStep n s (Machine.issued s n m) := by
  obtain ⟨slot, sc, rank, row, req, line, op⟩ := m
  cases op with
  | refresh b => exact (overAll (fun s _ => keepBusy s n _ _) _ s).trans (logCmd _ n ⟨slot, sc, rank, row, req, line, .refresh b⟩)
  | read q => exact (keepBusy ..).trans (logCmd _ n ⟨slot, sc, rank, row, req, line, .read q⟩)
  | write k raw => exact (keepBusy ..).trans (logCmd _ n ⟨slot, sc, rank, row, req, line, .write k raw⟩)
  | activate => exact (keepBusy ..).trans (logCmd _ n ⟨slot, sc, rank, row, req, line, .activate⟩)

theorem storeRaw {n : Nat} (s : State) (line : Nat) (data : LineData) (b : Nat) (flip : Bool) : ChanStep n s (Machine.storeRaw s line data b flip) := by
  unfold Machine.storeRaw
  dsimp only
  split
  · exact of_sameUnits (sameUnits_inc ..)
  · exact ((put _ _ _ _).trans (put _ _ _ _)).trans (setDram ..)

theorem issueWrite (s : State) (n : Nat) (q : MemWr) : ChanStep n s (Machine.issueWrite s n q) := by
  unfold Machine.issueWrite
  exact ((((countBlk ..).trans (setChan ..)).trans (iodSram _ 14 (0x2300 + n) (q.line * 64))).trans (storeRaw ..)).trans
    ((issued ..).trans (admitWaiting ..))

theorem drainRank (s : State) (n r : Nat) : ChanStep n s (Machine.drainRank s n r) :=
  overAll (fun s w => by
    split
    · exact issueWrite ..
    · exact refl ..) _ s

theorem slice {n : Nat} {s t : State} (h : ChanStep n s t) (k : Nat) : t.slice k = s.slice k := by
  rw [h.1]
  rfl

end ChanStep

/-! ### Data of a read (R270, R277) -/

theorem checkLine_rawLine (data : LineData) (poison : Bool) : (checkLine (rawLine data (backing poison 0 0 true))).data = data ∧
    (checkLine (rawLine data (backing poison 0 0 true))).poison = poison ∧ (checkLine (rawLine data (backing poison 0 0 true))).fixed = 0 ∧
    (checkLine (rawLine data (backing poison 0 0 true))).ue = 0 ∧ (checkLine (rawLine data (backing poison 0 0 true))).backUe = false := by
  obtain ⟨⟨h1, h2, -, -, -, h3, h4, h5⟩, -⟩ := memoryEcc data poison true 0 0
  exact ⟨h1, h2, h3, h4, h5⟩

theorem noteRead_of_good {x : LineRead} (hf : x.fixed = 0) (hu : x.ue = 0) (hb : x.backUe = false) (s : State) (n r line : Nat) :
    noteRead s n r line x = s := if_pos ⟨hf, hu, by rw [hb]; decide⟩

theorem channelReadData : Claim.ChannelReadData := by
  refine ⟨fun n q data poison u s hr hq ha hs hf ht hl hg => ?_, fun n line s h => ?_⟩
  · obtain ⟨h1, h2, h3, h4, h5⟩ := checkLine_rawLine data poison
    have hx : exec (.mcReadData n q.line) s = execMcReadData n q.line s := rfl
    have hfind : (s.chan n).reads.find? (fun r => r.line == q.line && r.raw.isSome && !r.again &&
        !(s.get .SCK_IOD_STATE (F.SCK_IOD_STATE_CHANNEL n) == 2)) = some q := by
      rw [hr, List.find?_cons_of_pos]
      simp [hq, ha, hf]
    have htxn : ((admitWaiting (s.setChan n { s.chan n with reads := [] }) n).slice (q.q / 2)).txns.find? (fun t => t.req.line == q.line && t.reading) = some u := by
      rw [(ChanStep.admitWaiting ..).slice, State.slice_setChan, ht, List.find?_cons_of_pos]
      simp [hl, hg]
    rw [hx]
    unfold execMcReadData
    dsimp only
    rw [hfind]
    dsimp only
    rw [iodSram_of_clean hs, hq]
    dsimp only
    have hreads : (s.chan n).reads.filter (fun y => y.seq != q.seq) = [] := by simp [hr]
    rw [hreads, Option.getD_some, if_neg Bool.false_ne_true]
    generalize checkLine (rawLine data (backing poison 0 0 true)) = x at h1 h2 h3 h4 h5
    rw [noteRead_of_good h3 h4 h5, if_neg (show ¬ x.backUe = true by rw [h5]; decide),
      if_neg (show ¬ (x.fixed ≠ 0 ∧ x.ue = 0 ∧ ¬ x.backUe = true) from fun h => h.1 h3), htxn, h1, h2]
  · have hx : exec (.mcReadData n line) s = execMcReadData n line s := rfl
    rw [hx]
    unfold execMcReadData
    dsimp only
    rw [List.find?_eq_none.mpr fun q hq hc => ?_]
    simp only [Bool.and_eq_true, Bool.not_eq_true', beq_iff_eq, beq_eq_false_iff_ne] at hc
    obtain ⟨⟨⟨hl, hraw⟩, ha⟩, hf⟩ := hc
    rcases h with h | h
    · rcases h q hq hl with h | h
      · rw [h] at hraw
        exact nomatch hraw
      · rw [h] at ha
        exact nomatch ha
    · exact hf h

/-! ### Refresh and activation counting (R282 to R286) -/

theorem key_mcRank (n r : Nat) : (Reg.MC_RANK n r).key = 0xF00003000100 + n * 0x100000 + r * 8 := by
  simp only [Reg.key]
  omega

theorem key_mcErr (n : Nat) : (Reg.MC_ERR n).key = 0xF00003000150 + n * 0x100000 := by
  simp only [Reg.key]
  omega

theorem key_mcAct (n : Nat) : (Reg.MC_ACT n).key = 0xF000030000B0 + n * 0x100000 := by
  simp only [Reg.key]
  omega

theorem key_mcRefresh (n : Nat) : (Reg.MC_REFRESH n).key = 0xF000030000B8 + n * 0x100000 := by
  simp only [Reg.key]
  omega

theorem key_mcTiming (n : Nat) : (Reg.MC_TIMING n).key = 0xF00003000058 + n * 0x100000 := by
  simp only [Reg.key]
  omega

/-- A register of the memory channels is none that a record of a fault writes. -/
theorem noteKept_of_channel {r : Reg} (h : r.key < 0xF00004200000) : noteKept r := ⟨.inl (by omega), .inl (by omega)⟩

theorem mcErr_eq (s : State) (n b cls sev line : Nat) : mcErr s n b cls sev none line = s.raise (.MC_ERR n) b cls (0x2300 + n) none sev (line * 64) := rfl

theorem rd_mcErr_self {n : Nat} (hn : n < 16) (s : State) {b cls : Nat} (hc : cls < 32) (hb : b < 64) (sev line : Nat) :
    ((mcErr s n b cls sev none line).rd (.MC_ERR n)).getLsbD b = true := by
  rw [mcErr_eq, rd_raise (noteKept_of_channel (by rw [key_mcErr]; omega)) _ _ _ hc, State.rd_wr_self, BitVec.getLsbD_or, BitVec.getLsbD_ofNat,
    Nat.testBit_two_pow_self, Bool.and_true, decide_eq_true hb, Bool.or_true]

theorem rd_mcErr_ne {n : Nat} {r : Reg} (hr : r.key < 0xF00004200000) (hne : r.key ≠ (Reg.MC_ERR n).key) (s : State) (b : Nat) {cls : Nat}
    (hc : cls < 32) (sev line : Nat) : (mcErr s n b cls sev none line).rd r = s.rd r := rd_raise_ne (noteKept_of_channel hr) hne _ _ hc ..

/-- The corrected errors of the hour, the state and the index of a rank. -/
def hourFields (s : State) (n r : Nat) : Nat × Nat × Nat :=
  (s.get (.MC_RANK n r) F.MC_RANK_CE_HOUR, s.get (.MC_RANK n r) F.MC_RANK_STATE, s.get (.MC_RANK n r) F.MC_RANK_INDEX)

/-- A channel's counts of the hour cleared. -/
def hourCleared (s : State) (n : Nat) : State := overAll (List.range 8) (fun s r => s.put (.MC_RANK n r) F.MC_RANK_CE_HOUR 0) s

theorem hourFields_put_self (s : State) (n r : Nat) : hourFields (s.put (.MC_RANK n r) F.MC_RANK_CE_HOUR 0) n r = (0, (hourFields s n r).2) := by
  unfold hourFields
  rw [State.get_put_self (by decide) (by decide), State.get_put_apart (by decide) (by decide) (by decide),
    State.get_put_apart (by decide) (by decide) (by decide)]
  rfl

theorem hourFields_put_ne {n r m k : Nat} (hr : r < 8) (hk : k < 8) (hne : n ≠ m ∨ r ≠ k) (s : State) (f : Fld) (v : Nat) :
    hourFields (s.put (.MC_RANK m k) f v) n r = hourFields s n r := by
  have hkey : (Reg.MC_RANK n r).key ≠ (Reg.MC_RANK m k).key := by
    rw [key_mcRank, key_mcRank]
    omega
  unfold hourFields
  rw [State.get_put_ne hkey, State.get_put_ne hkey, State.get_put_ne hkey]

theorem hourFields_hourCleared_self (s : State) (n : Nat) {r : Nat} (hr : r < 8) : hourFields (hourCleared s n) n r = (0, (hourFields s n r).2) :=
  overAll_each (read := fun t k => hourFields t n k) (val := fun t k => (0, (hourFields t n k).2)) List.nodup_range
    (fun t k _ => hourFields_put_self t n k)
    (fun t k hk j hj hne => hourFields_put_ne (List.mem_range.mp hj) (List.mem_range.mp hk) (.inr hne) t _ _)
    (fun t k hk j hj hne => by rw [hourFields_put_ne (List.mem_range.mp hj) (List.mem_range.mp hk) (.inr hne)]) s (List.mem_range.mpr hr)

theorem hourFields_hourCleared_ne (s : State) {n m r : Nat} (hr : r < 8) (hne : n ≠ m) : hourFields (hourCleared s m) n r = hourFields s n r :=
  overAll_keeps_mem (g := fun t : State => hourFields t n r) (fun t k hk => hourFields_put_ne hr (List.mem_range.mp hk) (.inl hne) t _ _) s

theorem hourFields_window (s : State) {n r : Nat} (hn : n < 16) (hr : r < 8) :
    hourFields (overAll (List.range 16) hourCleared s) n r = (0, (hourFields s n r).2) :=
  overAll_each (read := fun t m => hourFields t m r) (val := fun t m => (0, (hourFields t m r).2)) List.nodup_range
    (fun t m _ => hourFields_hourCleared_self t m hr) (fun t m _ k _ hne => hourFields_hourCleared_ne t hr hne)
    (fun t m _ k _ hne => by rw [hourFields_hourCleared_ne t hr hne]) s (List.mem_range.mpr hn)

theorem ceHourWindow_spec (s : State) : ∃ t, exec .ceHourWindow s = .next t ∧
    (∀ (n : Fin 16) (r : Fin 8), t.get (.MC_RANK n r) F.MC_RANK_CE_HOUR = 0 ∧ rankState t n r = rankState s n r ∧
      t.get (.MC_RANK n r) F.MC_RANK_INDEX = s.get (.MC_RANK n r) F.MC_RANK_INDEX) ∧ t = { s with regs := t.regs } := by
  refine ⟨overAll (List.range 16) hourCleared s, rfl, fun n r => ?_, ?_⟩
  · have h := hourFields_window s n.isLt r.isLt
    exact ⟨congrArg (·.1) h, congrArg (·.2.1) h, congrArg (·.2.2) h⟩
  · refine overAll_rel (R := fun s t => t = { s with regs := t.regs }) (fun _ => rfl) (fun h h' => by rw [h', h]) (fun s n => ?_) _ s
    exact overAll_rel (R := fun s t => t = { s with regs := t.regs }) (fun _ => rfl) (fun h h' => by rw [h', h]) (fun _ _ => rfl) _ s

section Neighbour
variable {n : Fin 16} {k m : Nat} {s : State} (ha : (s.chan n).act = [(k, m)]) (hm : s.get (.MC_ACT n) F.MC_ACT_THRESH ≤ m)
include ha hm

theorem neighbourQueued (hl : (s.chan n).neigh.length < 32) : ∃ t, exec (.neighbourRefreshQueue n k) s = .next t ∧
      t.chan n = { s.chan n with
        neigh := (s.chan n).neigh ++ [(k, (if keyRow k = 0 then [] else [keyRow k - 1]) ++
          (if keyRow k + 1 < 2 ^ rowBits s then [keyRow k + 1] else []))]
        act := [(k, 0)] } ∧
      t.get (.MC_ACT n) F.MC_ACT_QUEUED = (s.chan n).neigh.length + 1 ∧ chansBut s t [n.val] ∧ regsBut s t [.MC_ACT n] ∧
      t = { s with regs := t.regs, chans := t.chans } := by
  have hx : exec (.neighbourRefreshQueue n k) s = execNeighbourRefreshQueue n k s := rfl
  rw [hx]
  unfold execNeighbourRefreshQueue
  dsimp only
  rw [ha, List.find?_cons_of_pos (by simp)]
  dsimp only
  rw [if_neg (by omega), if_neg (by omega)]
  refine ⟨_, rfl, ?_, ?_, fun q hq => ?_, regsBut_put _ _ _ _, rfl⟩
  · rw [State.put, State.chan_wr, State.chan_setChan_self]
    simp
  · rw [State.get_put_self (by decide) (by decide)]
    exact Nat.mod_eq_of_lt (show (s.chan n).neigh.length + 1 < 256 by omega)
  · exact State.chan_setChan_ne _ _ _ _ (by simpa using hq)

theorem neighbourOverflow (hl : 32 ≤ (s.chan n).neigh.length) : ∃ t, exec (.neighbourRefreshQueue n k) s = .next t ∧
    (t.rd (.MC_ERR n)).getLsbD 5 = true ∧ t.chans = s.chans ∧ t.dram = s.dram := by
  have hx : exec (.neighbourRefreshQueue n k) s = execNeighbourRefreshQueue n k s := rfl
  rw [hx]
  unfold execNeighbourRefreshQueue
  dsimp only
  rw [ha, List.find?_cons_of_pos (by simp)]
  dsimp only
  rw [if_neg (by omega), if_pos hl]
  refine ⟨_, rfl, rd_mcErr_self n.isLt _ (by decide) (by decide) .., ?_, ?_⟩
  · rw [mcErr_eq, sameUnits_raise]
    rfl
  · rw [mcErr_eq, sameUnits_raise]
    rfl

end Neighbour

theorem channelRefresh : Claim.ChannelRefresh := by
  refine ⟨fun n sc r s he hr => if_pos ⟨he, hr⟩, fun n sc r s h => if_neg fun hc => ?_, fun n hot s => ⟨_, rfl, ?_, ?_, ?_, rfl⟩,
    fun n k m s ha hm hl => neighbourQueued ha hm hl, fun n k m s ha hm hl => neighbourOverflow ha hm hl, fun n k s h => ?_,
    fun n s => ⟨_, rfl, ?_, ?_, fun q hq => ?_, regsBut_put _ _ _ _, rfl⟩, ceHourWindow_spec⟩
  · obtain ⟨h1, h2⟩ := hc
    rcases h with h | h
    · exact absurd h1 (by rw [h]; decide)
    · omega
  · unfold State.bit
    rw [State.get_put_ne (by rw [key_mcRefresh, key_mcTiming]; omega), State.get_put_self (by decide) (by decide)]
    cases hot <;> rfl
  · rw [State.get_put_self (by decide) (by decide)]
    cases hot <;> rfl
  · exact ((regsBut_put _ _ _ _).mono (by simp)).trans ((regsBut_put _ _ _ _).mono (by simp))
  · have hx : exec (.neighbourRefreshQueue n k) s = execNeighbourRefreshQueue n k s := rfl
    rw [hx]
    unfold execNeighbourRefreshQueue
    dsimp only
    split
    · rfl
    · next e he =>
      exact if_pos (h e (List.mem_of_find?_eq_some he) (by simpa using List.find?_some he))
  · exact State.chan_setChan_self ..
  · exact State.get_put_self (by decide) (by decide) ..
  · exact State.chan_setChan_ne _ _ _ _ (by simpa using hq)

/-- Settles O36, by what the burst of a clean line and the step of the queues leave, and by the fields that refresh writes. -/
theorem channelService : Obligations.ChannelService := ⟨channelReadData, channelRefresh⟩

end Sys2Proof.Machine
end

section
/-! SUPPORT. What a fault leaves alone; ranks retired, tested and returned, and command retries (R286 to R292, R435 to R438). -/

namespace Sys2Proof.Machine

/-! ### What a fault event leaves alone (R435 to R438) -/

/-- What a record of a fault and the loss of a hand may change: registers, SRAM errors, cores, slips, ledgers and messages that wait. -/
def FaultStep (s t : State) : Prop :=
  t = { s with regs := t.regs, flips := t.flips, cores := t.cores, queues := t.queues, ledgers := t.ledgers, outbox := t.outbox }

namespace FaultStep

theorem refl (s : State) : FaultStep s s := rfl

theorem trans {s t u : State} (h : FaultStep s t) (h' : FaultStep t u) : FaultStep s u := by
  rw [FaultStep, h', h]

theorem of_sameUnits {s t : State} (h : sameUnits s t) : FaultStep s t := by
  rw [sameUnits] at h
  rw [h]
  rfl

theorem of_besideCores {s t : State} (h : sameBesideCores s t) : FaultStep s t := by
  rw [sameBesideCores] at h
  rw [h]
  rfl

theorem endSlip (s : State) (f : FnId) (q seq st res fl : Nat) : FaultStep s (s.endSlip f q seq st res fl) := by
  unfold State.endSlip
  dsimp only
  split
  · rfl
  · split
    · rfl
    · rfl

theorem abortIntakes (s : State) (h : Nat) : FaultStep s (s.abortIntakes h) := by
  unfold State.abortIntakes
  refine FaultStep.trans (t := overAll (s.ledger h).intakes (fun s i =>
    match i.posted with
    | some (f, q, seq, _) => s.endSlip f q seq 0x10 i.seq 0
    | none => s) s) (overAll_rel refl trans (fun t i => ?_) _ s) rfl
  split
  · exact endSlip ..
  · exact refl t

theorem ledgerLost (s : State) (h : Nat) : FaultStep s (Machine.ledgerLost s h) := by
  have h1 : FaultStep s ((s.put (.CSQ_LDG_ERR h) F.CSQ_LDG_ERR_VOID_LOSS 1).noteFault ⟨22, 0x2900, some h, 5, 4, 0, 0⟩ 4) :=
    of_sameUnits ((sameUnits_put ..).trans (sameUnits_noteFault ..))
  have h2 := h1.trans (abortIntakes _ h)
  unfold Machine.ledgerLost
  exact (h2.trans (of_sameUnits (sameUnits_wr ..))).trans (overAll_rel (f := dropStores) refl trans (fun _ _ => rfl) _ _)

theorem handLoss (s : State) (h : Nat) : FaultStep s (s.handLoss h) := by
  cases hl : s.handLost h with
  | true => rw [handLoss_of_lost hl]; exact refl s
  | false =>
    have h0 : FaultStep s (lossNoted s h) := of_sameUnits (sameUnits_lossNoted ..)
    rw [handLoss_eq hl]
    refine FaultStep.trans ?_ (overAll_rel refl trans (fun t c => of_besideCores (sameBesideCores_lossStop t c)) _ _)
    split
    · exact h0.trans (ledgerLost ..)
    · exact h0

theorem fault (s : State) (e : FaultEv) : FaultStep s (s.fault e) := by
  unfold State.fault
  split
  · split
    · exact (of_sameUnits (sameUnits_noteFault ..)).trans (handLoss ..)
    · exact of_sameUnits (sameUnits_noteFault ..)
  · exact of_sameUnits (sameUnits_noteFault ..)

theorem raise (s : State) (r : Reg) (b cls u : Nat) (h : Option Nat) (sev addr : Nat) : FaultStep s (s.raise r b cls u h sev addr) :=
  (of_sameUnits (sameUnits_wr ..)).trans (fault ..)

theorem chans {s t : State} (h : FaultStep s t) : t.chans = s.chans := by rw [h]

theorem dram {s t : State} (h : FaultStep s t) : t.dram = s.dram := by rw [h]

end FaultStep

/-- A register that no loss of a hand writes is read as before a fault of such a hand. -/
theorem rd_fault {r : Reg} {e : FaultEv} (hn : noteKept r) (he : e.cls < 32) (hl : ∀ h, e.hand = some h → LossKept h r)
    (hc : ∀ c < 384, r.key ≠ (Reg.CORE_STATE c).key) (s : State) : (s.fault e).rd r = s.rd r := by
  unfold State.fault
  split
  · next h hh =>
    split
    · exact (rd_handLoss (hl h hh) hc _).trans (rd_noteFault hn _ he _)
    · exact rd_noteFault hn _ he _
  · exact rd_noteFault hn _ he _

theorem State.get_setChan (s : State) (n : Nat) (x : Chan) (r : Reg) (f : Fld) : (s.setChan n x).get r f = s.get r f := rfl

/-! ### Errors of a memory channel (R287, R289) -/

theorem key_mcMigrate (n : Nat) : (Reg.MC_MIGRATE n).key = 0xF00003000148 + n * 0x100000 := by
  simp only [Reg.key]
  omega

theorem key_mcRankCmd (n : Nat) : (Reg.MC_RANK_CMD n).key = 0xF00003000140 + n * 0x100000 := by
  simp only [Reg.key]
  omega

theorem key_mcCfg (n : Nat) : (Reg.MC_CFG n).key = 0xF00003000000 + n * 0x100000 := by
  simp only [Reg.key]

theorem mcErr_hand (s : State) (n b cls sev : Nat) (hand : Option Nat) (line : Nat) :
    mcErr s n b cls sev hand line = s.raise (.MC_ERR n) b cls (0x2300 + n) hand sev (line * 64) := rfl

theorem faultStep_mcErr (s : State) (n b cls sev : Nat) (hand : Option Nat) (line : Nat) : FaultStep s (mcErr s n b cls sev hand line) :=
  FaultStep.raise ..

theorem chanStep_mcErr (s : State) (n b cls sev line : Nat) : ChanStep n s (mcErr s n b cls sev none line) := ChanStep.of_sameUnits (sameUnits_raise ..)

/-- A register of the channels, beside MC_ERR itself, through an error of a channel. -/
theorem rd_mcErr_of_ne {n : Nat} {r : Reg} (h1 : 0xF00002000000 ≤ r.key) (h2 : r.key < 0xF00004200000) (hne : r.key ≠ (Reg.MC_ERR n).key)
    (s : State) (b : Nat) {cls : Nat} (hc : cls < 32) (sev : Nat) {hand : Option Nat} (hh : ∀ h, hand = some h → h < 64) (line : Nat) :
    (mcErr s n b cls sev hand line).rd r = s.rd r := by
  rw [mcErr_hand, State.raise, rd_fault (noteKept_of_channel h2) hc (fun h he => lossKept_of_key (hh h he) (.inr (.inl ⟨h1, by omega⟩)))
    (fun c _ => by have := key_coreState_ge c; omega)]
  exact State.rd_wr_ne _ _ _ _ hne

theorem rd_mcErr {n : Nat} (hn : n < 16) (s : State) {b cls : Nat} (hc : cls < 32) (hb : b < 64) (sev : Nat) {hand : Option Nat}
    (hh : ∀ h, hand = some h → h < 64) (line : Nat) : ((mcErr s n b cls sev hand line).rd (.MC_ERR n)).getLsbD b = true := by
  have hk := key_mcErr n
  rw [mcErr_hand, State.raise, rd_fault (noteKept_of_channel (by omega)) hc (fun h he => lossKept_of_key (hh h he) (.inr (.inl ⟨by omega, by omega⟩)))
    (fun c _ => by have := key_coreState_ge c; omega), State.rd_wr_self, BitVec.getLsbD_or, BitVec.getLsbD_ofNat,
    Nat.testBit_two_pow_self, Bool.and_true, decide_eq_true hb, Bool.or_true]

theorem rankState_mcErr {n r : Nat} (hn : n < 16) (hr : r < 8) (s : State) (b : Nat) {cls : Nat} (hc : cls < 32) (sev : Nat) {hand : Option Nat}
    (hh : ∀ h, hand = some h → h < 64) (line : Nat) : rankState (mcErr s n b cls sev hand line) n r = rankState s n r := by
  have hk := key_mcErr n
  have hk2 := key_mcRank n r
  unfold rankState State.get
  rw [rd_mcErr_of_ne (by omega) (by omega) (by omega) s b hc sev hh]

theorem rankState_setRankState_self (s : State) (n r : Nat) {v : Nat} (hv : v < 8) : rankState (setRankState s n r v) n r = v := by
  unfold rankState setRankState
  rw [State.get_put_self (by decide) (by decide)]
  exact Nat.mod_eq_of_lt hv

/-! ### A rank that is FAILED (R289) -/

/-- What `failRank` does of a channel where no migration runs. -/
theorem failRank_of_idle {s : State} {n : Nat} (ha : s.bit (.MC_MIGRATE n) F.MC_MIGRATE_ACTIVE = false) (r : Nat) : failRank s n r =
    mcErr ((setRankState (s.setChan n { s.chan n with switch_ := none }) n r 5).put (.MC_RANK n r) F.MC_RANK_TESTED 0) n 7 13 3 none 0 := by
  unfold failRank
  dsimp only
  rw [if_neg (by rw [ha]; simp), if_neg (by rw [ha]; simp)]

theorem failRank_spec {s : State} {n : Nat} (hn : n < 16) (ha : s.bit (.MC_MIGRATE n) F.MC_MIGRATE_ACTIVE = false) {r : Nat} (hr : r < 8) :
    rankState (failRank s n r) n r = 5 ∧ ((failRank s n r).rd (.MC_ERR n)).getLsbD 7 = true ∧
      (failRank s n r).chan n = { s.chan n with switch_ := none } ∧ chansBut s (failRank s n r) [n] ∧ (failRank s n r).dram = s.dram := by
  rw [failRank_of_idle ha]
  refine ⟨?_, rd_mcErr_self hn _ (by decide) (by decide) .., ?_, fun k hk => ?_, (faultStep_mcErr ..).dram⟩
  · rw [rankState_mcErr hn hr _ _ (by decide) _ (fun _ h => (Option.some_ne_none _ h.symm).elim), rankState,
      State.get_put_apart (by decide) (by decide) (by decide)]
    exact rankState_setRankState_self _ n r (by decide)
  · rw [chan_mcErr]
    exact State.chan_setChan_self ..
  · rw [chan_mcErr]
    exact State.chan_setChan_ne _ _ _ _ (by simpa using hk)

theorem rd_failRank_mcErr {s : State} {n : Nat} (hn : n < 16) (ha : s.bit (.MC_MIGRATE n) F.MC_MIGRATE_ACTIVE = false) {r : Nat} (hr : r < 8)
    {b : Nat} (hb : (s.rd (.MC_ERR n)).getLsbD b = true) : ((failRank s n r).rd (.MC_ERR n)).getLsbD b = true := by
  have hk := key_mcErr n
  have hne : (Reg.MC_ERR n).key ≠ (Reg.MC_RANK n r).key := by
    rw [key_mcRank]
    omega
  rw [failRank_of_idle ha, mcErr_eq, rd_raise (noteKept_of_channel (by omega)) _ _ _ (by decide), State.rd_wr_self, State.rd_put_ne hne, setRankState,
    State.rd_put_ne hne, BitVec.getLsbD_or]
  exact Bool.or_eq_true_iff.mpr (.inl hb)

/-! ### Retirement (R286 to R289) -/

section Retire
variable {n : Fin 16} {r : Fin 8} {s : State} (hd : (s.chan n).retire.contains r.val = true) (h1 : rankState s n r = 1)
include hd h1

theorem rankRetire_begins (hs : r.val ≠ spareRank s n) (hf : spareFree s n = true) :
    let u := drainRank (s.setChan n { s.chan n with retire := (s.chan n).retire.filter (fun x => x != r.val) }) n r;
    ∃ t, exec (.rankRetireStart n r) s = .next t ∧ rankState t n r = 3 ∧ t.bit (.MC_MIGRATE n) F.MC_MIGRATE_ACTIVE = true ∧
      t.get (.MC_MIGRATE n) F.MC_MIGRATE_DIR = 0 ∧ t.get (.MC_MIGRATE n) F.MC_MIGRATE_SOURCE = r.val ∧
      t.get (.MC_MIGRATE n) F.MC_MIGRATE_POINTER = 0 ∧
      t.chan n = { u.chan n with switch_ := some (r.val, false) } ∧ (t.rd (.MC_ERR n)).getLsbD 6 = true ∧
      chansBut s t [n.val] ∧ t.dram = u.dram := by
  intro u
  have hu : ChanStep n s u := (ChanStep.setChan ..).trans (ChanStep.drainRank ..)
  have hx : exec (.rankRetireStart n r) s = .next (beginRetire (s.setChan n { s.chan n with retire := (s.chan n).retire.filter (fun x => x != r.val) }) n r) := by
    have hx : exec (.rankRetireStart n r) s = execRankRetireStart n r s := rfl
    rw [hx]
    unfold execRankRetireStart
    dsimp only
    rw [if_pos hd]
    exact if_pos ⟨h1, hs, hf⟩
  have hn := n.isLt
  have hr := r.isLt
  have hke := key_mcErr n
  have hkm := key_mcMigrate n
  have hkr := key_mcRank n r
  refine ⟨_, hx, ?_⟩
  unfold beginRetire
  dsimp only
  rw [show drainRank (s.setChan n { s.chan n with retire := (s.chan n).retire.filter (fun x => x != r.val) }) n r = u from rfl]
  clear_value u
  have hrd {q : Reg} (hl : 0xF00002000000 ≤ q.key) (hh : q.key < 0xF00004200000) (hne : q.key ≠ (Reg.MC_ERR n).key) (v : State) (f : Fld) :
      (mcErr v n 6 13 1 none 0).get q f = v.get q f := congrArg (Fld.get f) (rd_mcErr_ne hh hne v 6 (by decide) 1 0)
  have hm (v : State) (f : Fld) : (mcErr v n 6 13 1 none 0).get (.MC_MIGRATE n) f = v.get (.MC_MIGRATE n) f := hrd (by omega) (by omega) (by omega) v f
  refine ⟨?_, ?_, ?_, ?_, ?_, ?_, rd_mcErr_self hn _ (by decide) (by decide) .., fun k hk => ?_, (faultStep_mcErr ..).dram⟩
  · have hne : (Reg.MC_RANK n r).key ≠ (Reg.MC_MIGRATE n).key := by omega
    refine (hrd (by omega) (by omega) (by omega) _ _).trans ?_
    rw [State.get_setChan, State.get_put_ne hne, State.get_put_ne hne, State.get_put_ne hne, State.get_put_ne hne,
      State.get_put_apart (by decide) (by decide) (by decide)]
    exact rankState_setRankState_self _ n r (by decide)
  · unfold State.bit
    rw [hm, State.get_setChan, State.get_put_apart (by decide) (by decide) (by decide), State.get_put_apart (by decide) (by decide) (by decide),
      State.get_put_apart (by decide) (by decide) (by decide), State.get_put_self (by decide) (by decide)]
    rfl
  · rw [hm, State.get_setChan, State.get_put_apart (by decide) (by decide) (by decide), State.get_put_apart (by decide) (by decide) (by decide),
      State.get_put_self (by decide) (by decide)]
    rfl
  · rw [hm, State.get_setChan, State.get_put_apart (by decide) (by decide) (by decide), State.get_put_self (by decide) (by decide)]
    exact Nat.mod_eq_of_lt (show r.val < 16 by omega)
  · rw [hm, State.get_setChan, State.get_put_self (by decide) (by decide)]
    rfl
  · rw [chan_mcErr]
    exact State.chan_setChan_self ..
  · rw [chan_mcErr, State.chan_setChan_ne _ _ _ _ (by simpa using hk)]
    exact hu.2 k hk

theorem rankRetire_fails (hf : spareFree s n = false) (ha : s.bit (.MC_MIGRATE n) F.MC_MIGRATE_ACTIVE = false) :
    ∃ t, exec (.rankRetireStart n r) s = .next t ∧ rankState t n r = 5 ∧ (t.rd (.MC_ERR n)).getLsbD 7 = true ∧
      t.chan n = { s.chan n with retire := (s.chan n).retire.filter (fun x => x != r.val), switch_ := none } ∧
      chansBut s t [n.val] ∧ t.dram = s.dram := by
  have hx : exec (.rankRetireStart n r) s = .next (failRank (s.setChan n { s.chan n with retire := (s.chan n).retire.filter (fun x => x != r.val) }) n r) := by
    have hx : exec (.rankRetireStart n r) s = execRankRetireStart n r s := rfl
    rw [hx]
    unfold execRankRetireStart
    dsimp only
    rw [if_pos hd, if_neg fun h => ?_]
    · exact if_pos h1
    · exact Bool.false_ne_true (hf.symm.trans h.2.2)
  obtain ⟨h2, h3, h4, h5, h6⟩ := failRank_spec (s := s.setChan n { s.chan n with retire := (s.chan n).retire.filter (fun x => x != r.val) })
    n.isLt ha r.isLt
  refine ⟨_, hx, h2, h3, ?_, fun k hk => ?_, h6⟩
  · rw [h4, State.chan_setChan_self]
  · rw [h5 k hk]
    exact State.chan_setChan_ne _ _ _ _ (by simpa using hk)

end Retire

theorem rankRetirement : Claim.RankRetirement :=
  ⟨fun n r s hd h1 hs hf => rankRetire_begins hd h1 hs hf, fun n r s hd h1 hf ha => rankRetire_fails hd h1 hf ha,
    fun n r s hd => if_neg (by rw [hd]; decide), fun n s => rfl⟩

/-! ### Command errors (R287) -/

theorem hand_wordStep (raw : BitVec 640) (r : LineRead) (w : Nat) : (wordStep raw r w).hand = r.hand := by
  unfold wordStep
  split
  · rfl
  · rfl
  · rfl

theorem hand_checkLine_lt (raw : BitVec 640) : (checkLine raw).hand < 64 := by
  have hf (l : List Nat) (r : LineRead) : (l.foldl (wordStep raw) r).hand = r.hand := by
    induction l generalizing r with
    | nil => rfl
    | cons w l ih => exact (ih _).trans (hand_wordStep ..)
  have hb : (backRead raw).hand < 64 := Nat.mod_lt _ (by decide)
  rw [checkLine_eq]
  dsimp only
  split
  · exact (hf ..).trans_lt hb
  · exact (hf ..).trans_lt hb

/-- A field that lies below bit `b` reads as before after the bit was set. -/
theorem Fld.get_or_of_hi_lt (g : Fld) (w : Word) {b : Nat} (hl : g.lo ≤ g.hi) (h : g.hi < b) : g.get (w ||| BitVec.ofNat 64 (2 ^ b)) = g.get w := by
  refine Nat.eq_of_testBit_eq fun i => ?_
  rw [Fld.testBit_get, Fld.testBit_get]
  by_cases hi : i < g.hi - g.lo + 1
  · have hb : (2 ^ b).testBit (g.lo + i) = false := Nat.testBit_two_pow_of_ne (by omega)
    rw [BitVec.getLsbD_or, BitVec.getLsbD_ofNat, hb, Bool.and_false, Bool.or_false]
  · rw [decide_eq_false hi, Bool.false_and, Bool.false_and]

/-- What two registers of one address read, beside their reset values. -/
theorem get_of_key_eq {s : State} {r q : Reg} (h : r.key = q.key) {f : Fld} (h0 : f.get r.reset = f.get q.reset) : s.get r f = s.get q f := by
  unfold State.get State.rd
  rw [h]
  split
  · rfl
  · exact h0

/-- Whether a spare is free says nothing of the error that has just been noted: a spare's record beyond the eight ranks would be MC_ERR, whose low
bits the error leaves. -/
theorem spareFree_mcErr {n : Nat} (hn : n < 16) (s : State) {b cls : Nat} (hb : 2 < b) (hb6 : b < 64) (hc : cls < 32) (sev : Nat) {hand : Option Nat}
    (hh : ∀ h, hand = some h → h < 64) (line : Nat) : spareFree (mcErr s n b cls sev hand line) n = spareFree s n := by
  have hk1 := key_mcErr n
  have hk2 := key_mcMigrate n
  have hk3 := key_mcCfg n
  have hkeep {q : Reg} (h1 : 0xF00002000000 ≤ q.key) (h2 : q.key < 0xF00004200000) (hne : q.key ≠ (Reg.MC_ERR n).key) (f : Fld) :
      (mcErr s n b cls sev hand line).get q f = s.get q f := congrArg (Fld.get f) (rd_mcErr_of_ne h1 h2 hne s b hc sev hh line)
  have hsp : spareRank (mcErr s n b cls sev hand line) n = spareRank s n := hkeep (by omega) (by omega) (by omega) _
  have hlt : spareRank s n < 16 := State.get_lt ..
  unfold spareFree
  rw [hsp, hkeep (by omega) (by omega) (by omega)]
  have hr : rankState (mcErr s n b cls sev hand line) n (spareRank s n) = rankState s n (spareRank s n) := by
    have hk4 := key_mcRank n (spareRank s n)
    by_cases he : (Reg.MC_RANK n (spareRank s n)).key = (Reg.MC_ERR n).key
    · have h0 : F.MC_RANK_STATE.get (Reg.MC_RANK n (spareRank s n)).reset = F.MC_RANK_STATE.get (Reg.MC_ERR n).reset := by
        rw [show (Reg.MC_RANK n (spareRank s n)).reset = 0xF0 from rfl, show (Reg.MC_ERR n).reset = 0 from rfl]
        decide
      unfold rankState
      rw [get_of_key_eq he h0, get_of_key_eq he h0, State.get, mcErr_hand, State.raise,
        rd_fault (noteKept_of_channel (by omega)) hc (fun h e => lossKept_of_key (hh h e) (.inr (.inl ⟨by omega, by omega⟩)))
          (fun c _ => by have := key_coreState_ge c; omega), State.rd_wr_self]
      exact Fld.get_or_of_hi_lt _ _ (by decide) hb
    · exact hkeep (by omega) (by omega) he _
  rw [hr]

section Alert
variable {n : Fin 16} {slot : Fin 2} {s : State}

/-- The reads of a DIMM whose data has not returned. -/
def alertMine (s : State) (n slot : Nat) (r : MemRd) : Bool := r.raw.isSome && slotOf s n r.rank == slot

/-- The commands of a DIMM's last tricks in their order. -/
def alertCmds (s : State) (n slot : Nat) : List MemCmd := ((s.chan n).hist.filter (fun h => h.slot == slot)).reverse

/-- The reads that none of these commands reads. -/
def alertMore (s : State) (n slot : Nat) : List MemCmd :=
  ((s.chan n).reads.filter (fun r => alertMine s n slot r && !(alertCmds s n slot).any (fun m => m.op == .read r.seq))).map (fun r =>
    { reqCmd s n r.line (.read r.seq) with slot := slot, rank := r.rank })

/-- The channel that an ALERT_N leaves. -/
def alerted (s : State) (n slot : Nat) : Chan :=
  { s.chan n with
    retry := (s.chan n).retry.set slot ⟨alertCmds s n slot ++ alertMore s n slot, none, none⟩
    hist := (s.chan n).hist.filter (fun h => h.slot != slot)
    reads := (s.chan n).reads.map (fun r => if alertMine s n slot r then { r with again := true } else r) }

theorem exec_alertN (h : (s.chan n).retry.get? slot.val = none) : exec (.alertN n slot) s = .next (s.setChan n (alerted s n slot)) := by
  have hx : exec (.alertN n slot) s = execAlertN n slot s := rfl
  rw [hx]
  unfold execAlertN
  dsimp only
  rw [h]
  rfl

theorem exec_alertN_held {y : MemRetry} (h : (s.chan n).retry.get? slot.val = some y) : exec (.alertN n slot) s = .next (s.setChan n { s.chan n with
    retry := (s.chan n).retry.set slot.val { y with recur := y.last.or y.redo.head? } }) := by
  have hx : exec (.alertN n slot) s = execAlertN n slot s := rfl
  rw [hx]
  unfold execAlertN
  dsimp only
  rw [h]

/-- Every read of the DIMM that waits for its data is re-issued. -/
theorem alert_rereads {r : MemRd} (hr : r ∈ (s.chan n).reads) (hm : alertMine s n slot r = true) :
    ∃ m ∈ alertCmds s n slot ++ alertMore s n slot, m.op = .read r.seq := by
  by_cases hc : (alertCmds s n slot).any (fun m => m.op == .read r.seq) = true
  · obtain ⟨m, hm, he⟩ := List.any_eq_true.mp hc
    exact ⟨m, List.mem_append_left _ hm, by simpa using he⟩
  · refine ⟨{ reqCmd s n r.line (.read r.seq) with slot := slot, rank := r.rank }, List.mem_append_right _ (List.mem_map.mpr ⟨r, ?_, rfl⟩), rfl⟩
    refine List.mem_filter.mpr ⟨hr, ?_⟩
    rw [hm, Bool.eq_false_iff.mpr hc]
    rfl

theorem alert_spec (h : (s.chan n).retry.get? slot.val = none) :
    let c := s.chan n;
    let mine := fun r : MemRd => r.raw.isSome && slotOf s n r.rank == slot.val;
    ∃ t, exec (.alertN n slot) s = .next t ∧
      (∃ more, (t.chan n).retry.get? slot.val = some ⟨(c.hist.filter (fun h => h.slot == slot.val)).reverse ++ more, none, none⟩ ∧
        (∀ r ∈ c.reads, mine r = true → ∃ m ∈ (c.hist.filter (fun h => h.slot == slot.val)).reverse ++ more, m.op = .read r.seq)) ∧
      t.chan n = { c with
        retry := (t.chan n).retry, hist := c.hist.filter (fun h => h.slot != slot.val),
        reads := c.reads.map (fun r => if mine r then { r with again := true } else r) } ∧
      (∀ k, k ≠ slot.val → (t.chan n).retry.get? k = c.retry.get? k) ∧ chansBut s t [n.val] ∧ t = { s with chans := t.chans } := by
  intro c mine
  have hc : (s.setChan n (alerted s n slot)).chan n = alerted s n slot := State.chan_setChan_self ..
  refine ⟨_, exec_alertN h, ⟨alertMore s n slot, ?_, fun r hr hm => alert_rereads hr hm⟩, ?_, fun k hk => ?_, fun k hk => ?_, rfl⟩
  · rw [hc]
    exact NMap.get?_set_self ..
  · rw [hc]
    rfl
  · rw [hc]
    exact NMap.get?_set_ne _ _ _ _ hk
  · exact State.chan_setChan_ne _ _ _ _ (by simpa using hk)

end Alert

section RetryEnd
variable {n : Fin 16} {slot : Fin 2} {y : MemRetry} {s : State} (hy : (s.chan n).retry.get? slot.val = some y)
include hy

/-- The channel after a retry whose ALERT_N recurred. -/
def recurred (s : State) (n slot : Nat) : State :=
  s.setChan n { s.chan n with
    retry := (s.chan n).retry.erase slot
    reads := (s.chan n).reads.map (fun q => if q.again ∧ slotOf s n q.rank = slot then { q with raw := none, again := false } else q) }

/-- The hand that a command which fails twice is charged to. -/
def recurHand (s : State) (m : MemCmd) : Option Nat :=
  let x := checkLine (storedRaw s m.line)
  if !m.req ∨ x.nohand ∨ x.backUe then none else some x.hand

theorem exec_cmdRetryEnd_recur {m : MemCmd} (hm : y.recur = some m) : exec (.cmdRetryEnd n slot) s =
    .next (mustRetire (mcErr (recurred s n slot) n 4 12 3 (recurHand (recurred s n slot) m) m.line) n m.rank) := by
  have hx : exec (.cmdRetryEnd n slot) s = execCmdRetryEnd n slot s := rfl
  rw [hx]
  unfold execCmdRetryEnd
  dsimp only
  rw [hy]
  dsimp only
  rw [hm]
  rfl

theorem exec_cmdRetryEnd_done (hr : y.recur = none) : exec (.cmdRetryEnd n slot) s = if y.redo = [] then
    .next (mcErr (s.setChan n { s.chan n with retry := (s.chan n).retry.erase slot.val }) n 3 11 0 none 0) else .next s := by
  have hx : exec (.cmdRetryEnd n slot) s = execCmdRetryEnd n slot s := rfl
  rw [hx]
  unfold execCmdRetryEnd
  dsimp only
  rw [hy]
  dsimp only
  rw [hr]

theorem retryEnd_corrected (hr : y.recur = none) (hd : y.redo = []) :
    ∃ t, exec (.cmdRetryEnd n slot) s = .next t ∧ t.chan n = { s.chan n with retry := (s.chan n).retry.erase slot.val } ∧
      (t.rd (.MC_ERR n)).getLsbD 3 = true ∧ chansBut s t [n.val] ∧ t.dram = s.dram := by
  refine ⟨_, (exec_cmdRetryEnd_done hy hr).trans (if_pos hd), ?_, rd_mcErr_self n.isLt _ (by decide) (by decide) .., fun k hk => ?_, (faultStep_mcErr ..).dram⟩
  · rw [chan_mcErr]
    exact State.chan_setChan_self ..
  · rw [chan_mcErr]
    exact State.chan_setChan_ne _ _ _ _ (by simpa using hk)

omit hy in
theorem lt_of_recurHand {m : MemCmd} {h : Nat} (hh : recurHand s m = some h) : h < 64 := by
  unfold recurHand at hh
  dsimp only at hh
  split at hh
  · exact (Option.some_ne_none _ hh.symm).elim
  · exact Option.some.inj hh ▸ hand_checkLine_lt _

theorem retryEnd_recurred {m : MemCmd} (hm : y.recur = some m) (hr : m.rank < 8) (h1 : rankState s n m.rank = 1) (hf : spareFree s n = false)
    (ha : s.bit (.MC_MIGRATE n) F.MC_MIGRATE_ACTIVE = false) :
    ∃ t, exec (.cmdRetryEnd n slot) s = .next t ∧ (t.chan n).retry = (s.chan n).retry.erase slot.val ∧
      rankState t n m.rank = 5 ∧ (t.rd (.MC_ERR n)).getLsbD 4 = true ∧
      (t.chan n).reads = (s.chan n).reads.map (fun q => if q.again ∧ slotOf s n q.rank = slot.val
        then { q with raw := none, again := false } else q) ∧ t.dram = s.dram := by
  have hn := n.isLt
  refine ⟨_, exec_cmdRetryEnd_recur hy hm, ?_⟩
  have hv : rankState (recurred s n slot) n m.rank = 1 ∧ spareFree (recurred s n slot) n = false ∧
      (recurred s n slot).bit (.MC_MIGRATE n) F.MC_MIGRATE_ACTIVE = false ∧ (recurred s n slot).dram = s.dram := ⟨h1, hf, ha, rfl⟩
  have hc : (recurred s n slot).chan n = { s.chan n with
      retry := (s.chan n).retry.erase slot.val
      reads := (s.chan n).reads.map (fun q => if q.again ∧ slotOf s n q.rank = slot.val then { q with raw := none, again := false } else q) } :=
    State.chan_setChan_self ..
  generalize recurred s n slot = v at hv hc
  obtain ⟨hv1, hv2, hv3, hv4⟩ := hv
  have hh : ∀ h, recurHand v m = some h → h < 64 := fun h hh => lt_of_recurHand hh
  generalize recurHand v m = hand at hh
  have hw4 := rd_mcErr hn v (b := 4) (cls := 12) (by decide) (by decide) 3 hh m.line
  have hw1 : rankState (mcErr v n 4 12 3 hand m.line) n m.rank = 1 := (rankState_mcErr hn hr v 4 (by decide) 3 hh m.line).trans hv1
  have hwd : (mcErr v n 4 12 3 hand m.line).dram = s.dram := (faultStep_mcErr ..).dram.trans hv4
  have hkeep {q : Reg} (h1 : 0xF00002000000 ≤ q.key) (h2 : q.key < 0xF00004200000) (hne : q.key ≠ (Reg.MC_ERR n).key) (f : Fld) :
      (mcErr v n 4 12 3 hand m.line).get q f = v.get q f := congrArg (Fld.get f) (rd_mcErr_of_ne h1 h2 hne v 4 (by decide) 3 hh m.line)
  have hk1 := key_mcErr n
  have hk2 := key_mcMigrate n
  have hk3 := key_mcCfg n
  have hwc := chan_mcErr v n 4 12 3 hand m.line n
  have hwa : (mcErr v n 4 12 3 hand m.line).bit (.MC_MIGRATE n) F.MC_MIGRATE_ACTIVE = false := by
    unfold State.bit
    rw [hkeep (by omega) (by omega) (by omega)]
    exact hv3
  have hwf : spareFree (mcErr v n 4 12 3 hand m.line) n = false :=
    (spareFree_mcErr hn v (by decide) (by decide) (by decide) 3 hh m.line).trans hv2
  generalize mcErr v n 4 12 3 hand m.line = w at *
  have hx : mustRetire w n m.rank = failRank w n m.rank := by
    unfold mustRetire
    dsimp only
    rw [if_pos (.inl hw1), if_neg fun h => Bool.false_ne_true (hwf.symm.trans h.2.2)]
  obtain ⟨h5, -, h6, -, h7⟩ := failRank_spec hn hwa hr
  rw [hx]
  refine ⟨?_, h5, rd_failRank_mcErr hn hwa hr hw4, ?_, h7.trans hwd⟩
  · rw [h6, hwc, hc]
  · rw [h6, hwc, hc]

end RetryEnd

theorem commandRetry : Claim.CommandRetry := by
  refine ⟨fun n slot s h => alert_spec h, fun n slot y s h => exec_alertN_held h, fun n slot y s hy => ⟨fun hr hd => retryEnd_corrected hy hr hd,
    fun hr hd => (exec_cmdRetryEnd_done hy hr).trans (if_neg hd), fun m hm hr h1 hf ha => retryEnd_recurred hy hm hr h1 hf ha⟩, fun n slot s h => ?_⟩
  have hx : exec (.cmdRetryEnd n slot) s = execCmdRetryEnd n slot s := rfl
  rw [hx]
  unfold execCmdRetryEnd
  dsimp only
  rw [h]

/-! ### MC_RANK_CMD, the rank test and MC_INJECT (R290 to R292) -/

/-- RESULT written. -/
def rankSaid (s : State) (n c : Nat) : State := s.put (.MC_RANK_CMD n) F.MC_RANK_CMD_RESULT c

theorem rankState_rankSaid (s : State) (n c : Nat) (r : Fin 8) : rankState (rankSaid s n c) n r = rankState s n r := by
  have hr := r.isLt
  exact State.get_put_ne (by rw [key_mcRank, key_mcRankCmd]; omega) ..

section RankCommand
variable {who : Agent} {n : Fin 16} {v : Word} {r : Fin 8} {s : State} (hw : s.isHouse who = true) (hr : F.MC_RANK_CMD_RANK.get v = r.val)
include hw hr

theorem exec_rankTest (ho : F.MC_RANK_CMD_OP.get v = 1) : exec (.mcRankCmdTest who n v) s =
    if rankResult s n 1 r ≠ 0 then .next (rankSaid s n (rankResult s n 1 r))
    else .next (setRankState ((rankSaid s n (rankResult s n 1 r)).setChan n { s.chan n with
      test := some ⟨r, 0, rankState (rankSaid s n (rankResult s n 1 r)) n r, false⟩ }) n r 6) := by
  have hx : exec (.mcRankCmdTest who n v) s = execMcRankCmdTest who n v s := rfl
  rw [hx]
  unfold execMcRankCmdTest
  rw [if_neg (by rw [hw, ho]; decide), hr]
  rfl

theorem rankTest_begins (ho : F.MC_RANK_CMD_OP.get v = 1) (h0 : rankResult s n 1 r = 0) :
    ∃ t, exec (.mcRankCmdTest who n v) s = .next t ∧ t.get (.MC_RANK_CMD n) F.MC_RANK_CMD_RESULT = 0 ∧ rankState t n r = 6 ∧
      t.chan n = { s.chan n with test := some ⟨r.val, 0, rankState s n r, false⟩ } ∧ chansBut s t [n.val] ∧
      regsBut s t [.MC_RANK_CMD n, .MC_RANK n r] ∧ t = { s with regs := t.regs, chans := t.chans } := by
  have hlt := r.isLt
  have hx := exec_rankTest (n := n) (s := s) hw hr ho
  rw [h0, if_neg (by decide), rankState_rankSaid] at hx
  have hne : (Reg.MC_RANK_CMD n).key ≠ (Reg.MC_RANK n r).key := by rw [key_mcRank, key_mcRankCmd]; omega
  refine ⟨_, hx, ?_, rankState_setRankState_self _ _ _ (by decide), ?_, fun k hk => ?_, ?_, rfl⟩
  · unfold setRankState rankSaid
    rw [State.get_put_ne hne, State.get_setChan, State.get_put_self (by decide) (by decide)]
    rfl
  · exact State.chan_setChan_self ..
  · exact State.chan_setChan_ne (rankSaid s n 0) _ _ _ (by simpa using hk)
  · exact ((regsBut_put s (.MC_RANK_CMD n) _ _).mono (by simp)).trans ((regsBut_put ((rankSaid s n 0).setChan n _) (.MC_RANK n r) _ _).mono (by simp))

/-- The copy-back of a rank begins, once the spare's writes are drained. -/
def copyBack (u : State) (n r : Nat) : State :=
  ((((setRankState u n r 7).setChan n { u.chan n with switch_ := some (r, true) }).put (.MC_MIGRATE n) F.MC_MIGRATE_ACTIVE 1).put
    (.MC_MIGRATE n) F.MC_MIGRATE_DIR 1).put (.MC_MIGRATE n) F.MC_MIGRATE_POINTER 0

theorem exec_rankReturn (ho : F.MC_RANK_CMD_OP.get v = 2) : exec (.mcRankCmdReturn who n v) s =
    if rankResult s n 2 r ≠ 0 then .next (rankSaid s n (rankResult s n 2 r))
    else if (rankSaid s n (rankResult s n 2 r)).get (.MC_MIGRATE n) F.MC_MIGRATE_SOURCE = r then
      .next (copyBack (drainRank (rankSaid s n (rankResult s n 2 r)) n (spareRank (rankSaid s n (rankResult s n 2 r)) n)) n r)
    else .next (setRankState (rankSaid s n (rankResult s n 2 r)) n r 1) := by
  have hx : exec (.mcRankCmdReturn who n v) s = execMcRankCmdReturn who n v s := rfl
  rw [hx]
  unfold execMcRankCmdReturn
  rw [if_neg (by rw [hw, ho]; decide), hr]
  rfl

theorem rankReturn_copies (ho : F.MC_RANK_CMD_OP.get v = 2) (h0 : rankResult s n 2 r = 0) (hs : s.get (.MC_MIGRATE n) F.MC_MIGRATE_SOURCE = r.val) :
    let u := drainRank (s.put (.MC_RANK_CMD n) F.MC_RANK_CMD_RESULT 0) n (spareRank s n)
    ∃ t, exec (.mcRankCmdReturn who n v) s = .next t ∧ rankState t n r = 7 ∧ t.bit (.MC_MIGRATE n) F.MC_MIGRATE_ACTIVE = true ∧
      t.get (.MC_MIGRATE n) F.MC_MIGRATE_DIR = 1 ∧ t.get (.MC_MIGRATE n) F.MC_MIGRATE_POINTER = 0 ∧
      t.chan n = { u.chan n with switch_ := some (r.val, true) } ∧ chansBut s t [n.val] ∧ t.dram = u.dram ∧
      regsBut u t [.MC_RANK n r, .MC_MIGRATE n] ∧ t = { u with regs := t.regs, chans := t.chans } := by
  intro u
  have hlt := r.isLt
  have hk1 := key_mcMigrate n
  have hk2 := key_mcRankCmd n
  have hk3 := key_mcRank n r
  have hsp : spareRank (rankSaid s n 0) n = spareRank s n := State.get_put_ne (by rw [key_mcCfg]; omega) ..
  have hsrc : (rankSaid s n 0).get (.MC_MIGRATE n) F.MC_MIGRATE_SOURCE = s.get (.MC_MIGRATE n) F.MC_MIGRATE_SOURCE := State.get_put_ne (by omega) ..
  have hx := exec_rankReturn (n := n) (s := s) hw hr ho
  rw [h0, if_neg (by decide), if_pos (hsrc.trans hs), hsp] at hx
  have hu : ChanStep n s u := (ChanStep.put ..).trans (ChanStep.drainRank ..)
  have hne : (Reg.MC_RANK n r).key ≠ (Reg.MC_MIGRATE n).key := by omega
  rw [show drainRank (rankSaid s n 0) n (spareRank s n) = u from rfl] at hx
  clear_value u
  refine ⟨_, hx, ?_, ?_, ?_, ?_, ?_, fun k hk => ?_, rfl, ?_, rfl⟩
  · unfold copyBack rankState
    rw [State.get_put_ne hne, State.get_put_ne hne, State.get_put_ne hne]
    exact rankState_setRankState_self u n r (by decide)
  · unfold copyBack State.bit
    rw [State.get_put_apart (by decide) (by decide) (by decide), State.get_put_apart (by decide) (by decide) (by decide),
      State.get_put_self (by decide) (by decide)]
    rfl
  · unfold copyBack
    rw [State.get_put_apart (by decide) (by decide) (by decide), State.get_put_self (by decide) (by decide)]
    rfl
  · exact State.get_put_self (by decide) (by decide) ..
  · exact State.chan_setChan_self ..
  · exact (State.chan_setChan_ne (setRankState u n r 7) _ _ _ (by simpa using hk)).trans (hu.2 k hk)
  · have hm (x : State) (f : Fld) (w : Nat) : regsBut x (x.put (.MC_MIGRATE n) f w) [.MC_RANK n r, .MC_MIGRATE n] := (regsBut_put _ _ _ _).mono (by simp)
    have h7 : regsBut u ((setRankState u n r 7).setChan n { u.chan n with switch_ := some (r.val, true) }) [.MC_RANK n r, .MC_MIGRATE n] :=
      (regsBut_put u (.MC_RANK n r) F.MC_RANK_STATE 7).mono (by simp)
    exact ((h7.trans (hm _ _ _)).trans (hm _ _ _)).trans (hm _ _ _)

theorem rankReturn_active (ho : F.MC_RANK_CMD_OP.get v = 2) (h0 : rankResult s n 2 r = 0) (hs : s.get (.MC_MIGRATE n) F.MC_MIGRATE_SOURCE ≠ r.val) :
    ∃ t, exec (.mcRankCmdReturn who n v) s = .next t ∧ rankState t n r = 1 ∧
      regsBut s t [.MC_RANK_CMD n, .MC_RANK n r] ∧ t = { s with regs := t.regs } := by
  have hlt := r.isLt
  have hsrc : (rankSaid s n 0).get (.MC_MIGRATE n) F.MC_MIGRATE_SOURCE = s.get (.MC_MIGRATE n) F.MC_MIGRATE_SOURCE :=
    State.get_put_ne (by rw [key_mcMigrate, key_mcRankCmd]; omega) ..
  have hx := exec_rankReturn (n := n) (s := s) hw hr ho
  rw [h0, if_neg (by decide), if_neg fun h => hs (hsrc.symm.trans h)] at hx
  exact ⟨_, hx, rankState_setRankState_self _ _ _ (by decide),
    ((regsBut_put s (.MC_RANK_CMD n) _ _).mono (by simp)).trans ((regsBut_put (rankSaid s n 0) (.MC_RANK n r) _ _).mono (by simp)), rfl⟩

end RankCommand

theorem rankResult_spec (n : Fin 16) (op r : Nat) (s : State) :
    (rankState s n r ≠ 4 → rankState s n r ≠ 5 → rankResult s n op r = 1) ∧
    (rankState s n r = 4 ∨ rankState s n r = 5 →
      (op = 2 → s.bit (.MC_RANK n r) F.MC_RANK_TESTED = false ∨ s.bit (.MC_RANK n r) F.MC_RANK_PASS = false → rankResult s n op r = 2) ∧
      (op ≠ 2 ∨ s.bit (.MC_RANK n r) F.MC_RANK_TESTED = true ∧ s.bit (.MC_RANK n r) F.MC_RANK_PASS = true →
        rankResult s n op r = if s.bit (.MC_MIGRATE n) F.MC_MIGRATE_ACTIVE || (s.chan n).test.isSome then 3 else 0)) := by
  unfold rankResult
  dsimp only
  refine ⟨fun h4 h5 => if_pos ⟨h4, h5⟩, fun h => ?_⟩
  rw [if_neg (by omega)]
  constructor
  · intro ho hb
    refine if_pos ⟨ho, fun ⟨h1, h2⟩ => ?_⟩
    rcases hb with hb | hb
    · exact Bool.false_ne_true (hb.symm.trans h1)
    · exact Bool.false_ne_true (hb.symm.trans h2)
  · intro ho
    have hno : ¬ (op = 2 ∧ ¬ (s.bit (.MC_RANK n r) F.MC_RANK_TESTED = true ∧ s.bit (.MC_RANK n r) F.MC_RANK_PASS = true)) := fun ⟨h1, h2⟩ =>
      ho.elim (fun ho => ho h1) h2
    rw [if_neg hno]
    simp

/-! ### The end of a rank test (R290) -/

theorem blankRaw_of_far {key : Nat} (h : 2 ^ 37 ≤ key) : blankRaw key = failRaw := if_neg (Nat.not_lt.mpr h)

theorem lineKey_of_blank {s : State} {n r : Nat} (h : (s.chan n).blank.contains r = true) (loc : Nat) :
    lineKey s n r loc = 2 ^ 37 + (n * 8 + r) * 2 ^ 30 + loc := by
  unfold lineKey
  rw [if_pos h]

/-- Where a blanked rank's lines stand: no cell of them is stored. -/
theorem not_mem_blankRank {s : State} {n r : Nat} {c : Host.Cell} (hc : c ∈ (blankRank s n r).dram) :
    ¬ (80 * 2 ^ 37 + 80 * ((n * 8 + r) * 2 ^ 30) ≤ c.1 ∧ c.1 < 80 * 2 ^ 37 + 80 * ((n * 8 + r) * 2 ^ 30) + 80 * 2 ^ 30) := by
  have hf := (List.mem_filter.mp hc).2
  intro ⟨h1, h2⟩
  rw [decide_eq_true h1, decide_eq_true h2, Bool.and_self, Bool.or_true] at hf
  exact Bool.false_ne_true hf

theorem blank_blankRank (s : State) (n r : Nat) : ((blankRank s n r).chan n).blank.contains r = true := by
  have hc : (blankRank s n r).chan n = { s.chan n with blank := r :: (s.chan n).blank.filter (fun x => x != r) } := State.chan_setChan_self ..
  rw [hc]
  simp

/-- The cells of a line of a blanked rank that begins at line `b`. -/
theorem cells_of_line {b loc a : Nat} (hl : loc < 2 ^ 30) (h : 80 * (2 ^ 37 + b + loc) ≤ a ∧ a < 80 * (2 ^ 37 + b + loc) + 80) :
    80 * 2 ^ 37 + 80 * b ≤ a ∧ a < 80 * 2 ^ 37 + 80 * b + 80 * 2 ^ 30 := by omega

/-- No cell of a blanked rank is stored: it reads as poisoned zeros. -/
theorem rawAt_blankRank (s : State) (n r : Nat) {loc : Nat} (hl : loc < 2 ^ 30) :
    rawAt (blankRank s n r).dram (lineKey (blankRank s n r) n r loc) = failRaw := by
  rw [lineKey_of_blank (blank_blankRank s n r), rawAt_eq,
    List.filter_eq_nil_iff.mpr fun c hc hcell => not_mem_blankRank hc (cells_of_line hl ((cellOf_iff _ _).mp hcell)), List.foldl_nil]
  exact blankRaw_of_far (by rw [Nat.add_assoc]; exact Nat.le_add_right _ _)

/-- A rank back in the state that it had, tested. -/
def testNoted (s : State) (n r prior : Nat) (ok : Bool) : State :=
  ((setRankState (s.setChan n { s.chan n with test := none }) n r prior).put (.MC_RANK n r) F.MC_RANK_TESTED 1).put (.MC_RANK n r) F.MC_RANK_PASS
    (if ok then 1 else 0)

section TestEnd
variable {n : Fin 16} {r : Fin 8} {x : RankTest} {s : State}

theorem exec_rankTestEnd (ht : (s.chan n).test = some x) (hs : testSteps s ≤ x.step) (pass : Bool) : exec (.rankTestEnd n pass) s = .next (
    if !(pass && !x.bad) then mcErr (testNoted s n x.rank x.prior (pass && !x.bad)) n 8 13 3 none 0
    else if x.prior = 5 then blankRank (testNoted s n x.rank x.prior (pass && !x.bad)) n x.rank
    else testNoted s n x.rank x.prior (pass && !x.bad)) := by
  have hx : exec (.rankTestEnd n pass) s = execRankTestEnd n pass s := rfl
  rw [hx]
  unfold execRankTestEnd
  dsimp only
  rw [ht]
  dsimp only
  rw [if_neg (by omega), apply_ite Host.Outcome.next, apply_ite Host.Outcome.next]
  rfl

/-- What the end of a test leaves of its rank, however it ends. -/
structure TestOver (n r : Nat) (prior : Nat) (ok : Bool) (s t : State) : Prop where
  state : rankState t n r = prior
  tested : t.bit (.MC_RANK n r) F.MC_RANK_TESTED = true
  pass : t.bit (.MC_RANK n r) F.MC_RANK_PASS = ok
  ended : (t.chan n).test = none
  others : chansBut s t [n]

theorem testOver_testNoted (s : State) (n r : Nat) {prior : Nat} (hp : prior < 8) (ok : Bool) : TestOver n r prior ok s (testNoted s n r prior ok) where
  state := by
    unfold testNoted rankState
    rw [State.get_put_apart (by decide) (by decide) (by decide), State.get_put_apart (by decide) (by decide) (by decide)]
    exact rankState_setRankState_self _ n r hp
  tested := by
    unfold testNoted State.bit
    rw [State.get_put_apart (by decide) (by decide) (by decide), State.get_put_self (by decide) (by decide)]
    rfl
  pass := by
    unfold testNoted State.bit
    rw [State.get_put_self (by decide) (by decide)]
    cases ok <;> rfl
  ended := congrArg Chan.test (State.chan_setChan_self s n { s.chan n with test := none })
  others := fun k hk => State.chan_setChan_ne _ _ _ _ (by simpa using hk)

theorem TestOver.blankRank {n r prior : Nat} {ok : Bool} {s t : State} (h : TestOver n r prior ok s t) : TestOver n r prior ok s (blankRank t n r) where
  state := h.state
  tested := h.tested
  pass := h.pass
  ended := by
    refine Eq.trans (congrArg Chan.test (?_ : _ = { t.chan n with blank := r :: (t.chan n).blank.filter (fun x => x != r) })) h.ended
    exact State.chan_setChan_self ..
  others := fun k hk => (State.chan_setChan_ne t _ _ _ (by simpa using hk)).trans (h.others k hk)

theorem TestOver.mcErr {n r prior : Nat} {ok : Bool} {s t : State} (hn : n < 16) (hr : r < 8) (h : TestOver n r prior ok s t) :
    TestOver n r prior ok s (mcErr t n 8 13 3 none 0) := by
  have hk : (Machine.mcErr t n 8 13 3 none 0).rd (.MC_RANK n r) = t.rd (.MC_RANK n r) := by
    have hk1 := key_mcErr n
    have hk2 := key_mcRank n r
    exact rd_mcErr_ne (by omega) (by omega) t 8 (by decide) 3 0
  refine ⟨?_, ?_, ?_, ?_, fun k hj => ?_⟩
  · rw [rankState, State.get, hk]
    exact h.state
  · rw [State.bit, State.get, hk]
    exact h.tested
  · rw [State.bit, State.get, hk]
    exact h.pass
  · rw [chan_mcErr]
    exact h.ended
  · rw [chan_mcErr]
    exact h.others k hj

theorem rankTest_ends (ht : (s.chan n).test = some x) (hr : x.rank = r.val) (hp : x.prior = 4 ∨ x.prior = 5) (hs : testSteps s ≤ x.step) (pass : Bool) :
    ∃ t, exec (.rankTestEnd n pass) s = .next t ∧ rankState t n r = x.prior ∧ t.bit (.MC_RANK n r) F.MC_RANK_TESTED = true ∧
      t.bit (.MC_RANK n r) F.MC_RANK_PASS = (pass && !x.bad) ∧ (t.chan n).test = none ∧
      ((pass && !x.bad) = true → x.prior = 5 → ∀ loc, loc < 2 ^ 30 → rawAt t.dram (lineKey t n r loc) = failRaw) ∧
      ((pass && !x.bad) = false ∨ x.prior = 4 → t.dram = s.dram) ∧ chansBut s t [n.val] := by
  refine ⟨_, exec_rankTestEnd ht hs pass, ?_⟩
  have h := testOver_testNoted s n x.rank (show x.prior < 8 by omega) (pass && !x.bad)
  have hd : (testNoted s n x.rank x.prior (pass && !x.bad)).dram = s.dram := rfl
  rw [hr] at h hd ⊢
  generalize testNoted s n r x.prior (pass && !x.bad) = u at h hd
  cases hok : (pass && !x.bad) with
  | false =>
    rw [hok] at h
    obtain ⟨h1, h2, h3, h4, h5⟩ := h.mcErr n.isLt r.isLt
    exact ⟨h1, h2, h3, h4, fun h => (Bool.false_ne_true h).elim, fun _ => (faultStep_mcErr ..).dram.trans hd, h5⟩
  | true =>
    rw [hok] at h
    rw [if_neg (by decide)]
    rcases hp with hp | hp
    · rw [if_neg (by omega)]
      obtain ⟨h1, h2, h3, h4, h5⟩ := h
      exact ⟨h1, h2, h3, h4, fun _ h => absurd h (by omega), fun _ => hd, h5⟩
    · rw [if_pos hp]
      obtain ⟨h1, h2, h3, h4, h5⟩ := h.blankRank
      exact ⟨h1, h2, h3, h4, fun _ _ loc hl => rawAt_blankRank u n r hl, fun h => absurd h (by simp [hp]), h5⟩

theorem rankTestEnd_waits (h : (s.chan n).test = none ∨ (∃ x, (s.chan n).test = some x ∧ x.step < testSteps s)) (pass : Bool) :
    exec (.rankTestEnd n pass) s = .next s := by
  have hx : exec (.rankTestEnd n pass) s = execRankTestEnd n pass s := rfl
  rw [hx]
  unfold execRankTestEnd
  dsimp only
  rcases h with h | ⟨x, h, hl⟩
  · rw [h]
  · rw [h]
    exact if_pos hl

end TestEnd

theorem rankCommands : Claim.RankCommands := by
  refine ⟨fun who n v s hw => ⟨?_, ?_, ?_, ?_, ?_⟩, fun who n v s => ⟨fun ho => ?_, fun ho => ?_⟩,
    fun who n v r s hw ho hr => ⟨fun h0 => rankTest_begins hw hr ho h0, fun h0 => (exec_rankTest hw hr ho).trans (if_pos h0)⟩,
    fun n op r s => rankResult_spec n op r s,
    fun who n v r s hw ho hr => ⟨fun h0 => (exec_rankReturn hw hr ho).trans (if_pos h0), fun h0 hs => rankReturn_copies hw hr ho h0 hs,
      fun h0 hs => rankReturn_active hw hr ho h0 hs⟩,
    fun n pass r x s ht hr hp hs => rankTest_ends ht hr hp hs pass, fun n pass s h => rankTestEnd_waits h pass, fun who n v s hw => ⟨?_, ?_, ?_⟩⟩
  · exact if_pos (by rw [hw]; simp)
  · exact if_pos (by rw [hw]; simp)
  · exact congrArg Host.Outcome.next (if_neg (by rw [hw]; decide))
  · exact congrArg Host.Outcome.next (if_neg (by rw [hw]; decide))
  · exact congrArg Host.Outcome.next (if_neg (by rw [hw]; decide))
  · exact if_pos (.inr ho)
  · exact if_pos (.inr ho)
  · exact congrArg Host.Outcome.next (if_pos hw)
  · exact congrArg Host.Outcome.next (if_pos hw)
  · exact congrArg Host.Outcome.next (if_pos hw)

/-- Settles O37, by the fields of a rank's record and by what a drained rank, a retry and a test leave in their channel. -/
theorem ranks : Obligations.Ranks := ⟨rankRetirement, commandRetry, rankCommands⟩

end Sys2Proof.Machine
end

section
/-! SUPPORT. Power states: dies that fold, go out and wake, blocks of the IOD, and secure holds (R404, R405, R410, R415 to R419, R425). -/

namespace Sys2Proof.Machine

/-! ### What the settling of the package leaves alone (R415) -/

/-- What the lowering of the blocks and the package's state change: registers, channels, slices and the power record. -/
def SettleStep (s t : State) : Prop :=
  t = { s with regs := t.regs, chans := t.chans, slices := t.slices, power := t.power, flips := t.flips }

namespace SettleStep

theorem refl (s : State) : SettleStep s s := rfl

theorem trans {s t u : State} (h : SettleStep s t) (h' : SettleStep t u) : SettleStep s u := by
  rw [SettleStep, h', h]

theorem of_sameUnits {s t : State} (h : sameUnits s t) : SettleStep s t := by
  rw [sameUnits] at h
  rw [h]
  rfl

theorem setBlockState (s : State) (b n : Nat) : SettleStep s (Machine.setBlockState s b n) := by
  unfold Machine.setBlockState
  dsimp only
  split
  · split <;> rfl
  · split
    · split <;> rfl
    · rfl

theorem lowerBlocks (s : State) : SettleStep s (Machine.lowerBlocks s) := by
  unfold Machine.lowerBlocks
  dsimp only
  refine overAll_rel refl trans (fun t b => ?_) _ s
  split
  · exact refl t
  · split
    · exact setBlockState ..
    · split
      · exact setBlockState ..
      · exact refl t

end SettleStep

theorem key_iodState : Reg.SCK_IOD_STATE.key = 0xF00008000028 := rfl

theorem sameUnits_updatePkg (s : State) : sameUnits s (updatePkg s) := by
  unfold updatePkg
  extract_lets t held s1 done
  have h1 : sameUnits s s1 := sameUnits_put ..
  split
  · exact (h1.trans (sameUnits_put ..)).trans (sameUnits_arrive ..)
  · exact h1

/-- The blocks lowered and the package's state noted. -/
def pkgSettled (s : State) : State := updatePkg (lowerBlocks s)

theorem settleStep_pkgSettled (s : State) : SettleStep s (pkgSettled s) := (SettleStep.lowerBlocks s).trans (.of_sameUnits (sameUnits_updatePkg _))

theorem rd_pkgSettled {r : Reg} (h : arriveKept r) (h1 : r.key ≠ 0xF00008000000) (h2 : r.key ≠ Reg.SCK_IOD_STATE.key) (s : State) :
    (pkgSettled s).rd r = s.rd r := (rd_updatePkg h h1 _).trans (rd_lowerBlocks h2 s)

theorem get_sckDie_pkgSettled (s : State) (d : Fin 16) (f : Fld) : (pkgSettled s).get (.SCK_DIE d) f = s.get (.SCK_DIE d) f := by
  have hk := key_sckDie d
  exact congrArg (Fld.get f) (rd_pkgSettled (noteKept_sckDie d.isLt).arrive (by omega) (by rw [hk, key_iodState]; omega) s)

/-! ### A die's power state (R410) -/

theorem setDiePower_of_ne {s : State} {d n : Nat} (h : s.get (.SCK_DIE d) F.SCK_DIE_STATE ≠ n) :
    setDiePower s d n = (s.put (.SCK_DIE d) F.SCK_DIE_STATE n).arrive (80 + d) := if_neg h

theorem get_setDiePower_apart (s : State) (d : Fin 16) (n : Nat) {f : Fld} (hl : f.lo ≤ f.hi) (hf : 1 < f.lo) :
    (setDiePower s d n).get (.SCK_DIE d) f = s.get (.SCK_DIE d) f := by
  unfold setDiePower
  split
  · rfl
  · rw [State.get, rd_arrive (noteKept_sckDie d.isLt).arrive]
    exact State.get_put_apart (by decide) hl (.inr hf) ..

theorem tally_put_sckDie (s : State) (d : Fin 16) (f : Fld) (n : Nat) {m : Nat} (hm : m < 8192) : (s.put (.SCK_DIE d) f n).tally m = s.tally m :=
  State.get_put_ne (by rw [key_sckDie, key_ticTally]; omega) ..

theorem tally_setBlockState (s : State) (b n : Nat) {m : Nat} (hm : m < 8192) : (setBlockState s b n).tally m = s.tally m :=
  congrArg (Fld.get _) (rd_setBlockState (by rw [key_ticTally, key_iodState]; omega) s b n)

theorem tally_pkgSettled (s : State) {m : Nat} (hm : m < 8192) (hne : m ≠ 64) : (pkgSettled s).tally m = s.tally m := by
  have h1 : (lowerBlocks s).tally m = s.tally m :=
    congrArg (Fld.get _) (rd_lowerBlocks (r := .TIC_TALLY (m / 8)) (by rw [key_ticTally, key_iodState]; omega) s)
  have hk (t : State) (f : Fld) (v : Nat) : (t.put .SCK_PKG f v).tally m = t.tally m :=
    State.get_put_ne (by rw [key_sckPkg, key_ticTally]; omega) ..
  unfold pkgSettled updatePkg
  extract_lets p held s1 done
  have h2 : s1.tally m = s.tally m := (hk ..).trans h1
  split
  · rw [tally_arrive_ne hm hne, hk, h2]
  · exact h2

/-! ### Going down (R410, R415, R416) -/

section Down
variable {d : Fin 16} {s : State} (hd : dieState s d = 1)
include hd

theorem diePass_spec (h0 : s.get (.SCK_DIE d) F.SCK_DIE_STATE = 0) (ht : 1 ≤ s.get (.SCK_DIE d) F.SCK_DIE_TARGET) (hm : (s.die d).misses = []) :
    ∃ t, exec (.diePassReached d) s = .next t ∧ t.get (.SCK_DIE d) F.SCK_DIE_STATE = 1 ∧
      (s.tally (80 + d.val) < 255 → t.tally (80 + d.val) = s.tally (80 + d.val) + 1) ∧
      t = { s with regs := t.regs, chans := t.chans, slices := t.slices, power := t.power, flips := t.flips } := by
  have hlt := d.isLt
  refine ⟨pkgSettled (setDiePower s d 1), if_pos ⟨h0, ht, hm, hd⟩, ?_, fun hs => ?_, ?_⟩
  · rw [get_sckDie_pkgSettled, get_setDiePower_self s d.isLt (by decide)]
  · have hx : sourceExists (80 + d.val) = true := by
      have h : ∀ d : Fin 16, sourceExists (80 + d.val) = true := by decide
      exact h d
    have hput := tally_put_sckDie s d F.SCK_DIE_STATE 1 (show 80 + d.val < 8192 by omega)
    rw [tally_pkgSettled _ (by omega) (by omega), setDiePower_of_ne (by omega), tally_arrive hx (by rw [hput]; exact hs), hput]
  · exact (SettleStep.of_sameUnits (sameUnits_setDiePower s d 1)).trans (settleStep_pkgSettled _)

end Down

/-- Every core reads as before, though the table of cores was written. -/
def CoresRead (s t : State) : Prop := t = { s with cores := t.cores } ∧ ∀ c, t.core c = s.core c

theorem coresRead_setCore (s : State) (c : Nat) : CoresRead s (s.setCore c (s.core c)) := by
  refine ⟨rfl, fun k => ?_⟩
  by_cases h : k = c
  · rw [h, State.core_setCore_self]
  · exact State.core_setCore_ne _ _ _ _ h

theorem CoresRead.trans {s t u : State} (h : CoresRead s t) (h' : CoresRead t u) : CoresRead s u :=
  ⟨by rw [h'.1, h.1], fun k => (h'.2 k).trans (h.2 k)⟩

theorem coresRead_drainAll {s : State} {c : Nat} (h : (s.core c).mb = []) : CoresRead s (drainAll s c) := by
  rw [drainAll_of_empty h]
  have h1 := coresRead_setCore s c
  have h2 := coresRead_setCore (s.setCore c (s.core c)) c
  rw [h1.2 c] at h2
  exact h1.trans h2

theorem mb_of_drained {s : State} {c : Nat} (h : drained s c = true) : (s.core c).mb = [] :=
  List.isEmpty_iff.mp (Bool.and_eq_true_iff.mp h).1

/-- One line written back by a die that folds. -/
def foldEvict (d : Nat) (s : State) (e : L3Line) : State :=
  match l3Find s d e.line with
  | some x => if (s.die d).wb.length < 32 ∧ ¬ (s.die d).misses.any (fun m => m.line == e.line) then evictL3 s d 24 x else s
  | none => s

/-- A die with nothing left to write back has no work before it folds. -/
theorem coresRead_foldWork {s : State} {d : Nat} (h : foldDone s d = true) : CoresRead s (foldWork s d) := by
  unfold foldDone at h
  simp only [Bool.and_eq_true, List.all_eq_true] at h
  obtain ⟨⟨⟨⟨⟨⟨h3, -⟩, -⟩, -⟩, -⟩, -⟩, hc⟩ := h
  have hstep (t : State) (c : Nat) (hm : c ∈ coresOnDie d) (ht : CoresRead s t) : CoresRead s (drainAll t c) :=
    ht.trans (coresRead_drainAll ((congrArg Core.mb (ht.2 c)).trans (mb_of_drained (hc c hm))))
  have hdr : CoresRead s (overAll (coresOnDie d) drainAll s) := overAll_inv (P := CoresRead s) hstep ⟨rfl, fun _ => rfl⟩
  have hx : foldWork s d = overAll ((overAll (coresOnDie d) drainAll s).die d).l3 (foldEvict d) (overAll (coresOnDie d) drainAll s) := rfl
  rw [hx]
  generalize overAll (coresOnDie d) drainAll s = t at hdr
  have hl3 : (t.die d).l3 = [] := by
    rw [hdr.1]
    exact List.isEmpty_iff.mp h3
  rw [hl3]
  exact hdr

theorem foldDone_congr {s t : State} (h : CoresRead s t) (d : Nat) : foldDone t d = foldDone s d := by
  have hc : ∀ c, drained t c = drained s c := fun c => by unfold drained; rw [h.2 c]
  unfold foldDone
  rw [funext hc, h.1]
  rfl

/-- The cores of a die as Fold keeps them. -/
def coresFolded (s : State) (d : Nat) : State := overAll (coresOnDie d) (fun s c => s.setCore c (foldCore (s.core c))) s

theorem coresFolded_spec (s : State) (d : Nat) : (∀ c ∈ coresOnDie d, (coresFolded s d).core c = foldCore (s.core c)) ∧
    coresBut s (coresFolded s d) (coresOnDie d) ∧ coresFolded s d = { s with cores := (coresFolded s d).cores } := by
  refine ⟨fun c hc => ?_, fun c hc => ?_, ?_⟩
  · exact overAll_each (read := fun t k => t.core k) (val := fun t k => foldCore (t.core k)) (nodup_coresOnDie d) (fun _ _ _ => State.core_setCore_self ..)
      (fun _ _ _ _ _ hne => State.core_setCore_ne _ _ _ _ hne) (fun _ _ _ _ _ hne => by rw [State.core_setCore_ne _ _ _ _ hne]) s hc
  · refine overAll_keeps_mem (g := fun t : State => t.core c) (fun t k hk => State.core_setCore_ne _ _ _ _ ?_) s
    rintro rfl
    exact hc hk
  · exact overAll_rel (R := fun s t => t = { s with cores := t.cores }) (fun _ => rfl) (fun h h' => by rw [h', h]) (fun _ _ => rfl) _ s

/-- The links of a die in Fold. -/
def dieLinkDown (s : State) (d : Nat) : State :=
  (setLinkState ((s.setLink d .up Link.init).setLink d .dn Link.init) d 0).put (.DL_STATUS d) F.DL_STATUS_HB_OK 0

theorem dieLinkDown_spec (s : State) (d : Nat) : linkState (dieLinkDown s d) d = 0 ∧ (dieLinkDown s d).link d .up = Link.init ∧
    (dieLinkDown s d).link d .dn = Link.init ∧ linksBut s (dieLinkDown s d) [(d, .up), (d, .dn)] ∧
    (∀ r : Reg, r.key ≠ (Reg.DL_STATUS d).key → (dieLinkDown s d).rd r = s.rd r) ∧
    dieLinkDown s d = { s with regs := (dieLinkDown s d).regs, links := (dieLinkDown s d).links } := by
  refine ⟨?_, ?_, ?_, fun e dir h => ?_, fun r hr => ?_, rfl⟩
  · unfold dieLinkDown linkState setLinkState
    rw [State.get_put_apart (by decide) (by decide) (by decide), State.get_put_self (by decide) (by decide)]
    rfl
  · exact (State.link_setLink_ne _ _ _ _ _ _ (by simp only [linkKey]; omega)).trans (State.link_setLink_self ..)
  · exact State.link_setLink_self ..
  · refine (State.link_setLink_ne _ _ _ _ _ _ (h (d, .dn) (by simp))).trans (State.link_setLink_ne _ _ _ _ _ _ (h (d, .up) (by simp)))
  · exact (State.rd_put_ne hr ..).trans (State.rd_put_ne hr ..)

section Fold
variable {d : Fin 16} {s : State} (hd : dieState s d = 1) (hw : (s.die d).wake = none)
include hd hw

theorem dieFold_spec (h1 : s.get (.SCK_DIE d) F.SCK_DIE_STATE = 1) (ht : s.get (.SCK_DIE d) F.SCK_DIE_TARGET = 2) (hs : (s.die d).shv = none)
    (ha : s.get .FOL_ADD_STATE F.FOL_ADD_STATE_STATE = 0) (hf : foldDone s d = true) :
    ∃ t, exec (.dieFoldReached d) s = .next t ∧ t.get (.SCK_DIE d) F.SCK_DIE_STATE = 2 ∧ linkState t d = 0 ∧
      (∀ c ∈ coresOnDie d, t.core c = foldCore (s.core c)) ∧ t.link d .up = Link.init ∧ t.link d .dn = Link.init ∧
      coresBut s t (coresOnDie d) ∧ linksBut s t [(d.val, .up), (d.val, .dn)] ∧ t.dram = s.dram := by
  have hlt := d.isLt
  have hr := coresRead_foldWork hf
  have hx : exec (.dieFoldReached d) s = .next (pkgSettled (enterOut (setDiePower (dieLinkDown (coresFolded (foldWork s d) d) d) d 2) d)) := by
    have hx : exec (.dieFoldReached d) s = execDieFoldReached d s := rfl
    rw [hx]
    unfold execDieFoldReached
    dsimp only
    rw [ht, hd, hw, h1, hs, ha, if_neg (by decide), if_neg (by decide), if_neg (by decide), foldDone_congr hr, hf, if_neg (by decide)]
    rfl
  obtain ⟨hc1, hc2, hc3⟩ := coresFolded_spec (foldWork s d) d
  obtain ⟨hl1, hl2, hl3, hl4, hl5, hl6⟩ := dieLinkDown_spec (coresFolded (foldWork s d) d) d
  generalize foldWork s d = w at *
  generalize coresFolded w d = v at *
  have hv : v = { s with cores := v.cores } := by rw [hc3, hr.1]
  have hrd (r : Reg) : v.rd r = s.rd r := by
    rw [hv]
    rfl
  have hlink (e : Nat) (dir : Dir) : v.link e dir = s.link e dir := by
    rw [hv]
    rfl
  generalize dieLinkDown v d = u at *
  have hout : enterOut (setDiePower u d 2) d = setDiePower u d 2 := by
    refine if_pos ?_
    rw [get_setDiePower_apart u d 2 (by decide) (by decide), State.get, hl5 _ (by rw [key_sckDie, key_dlStatus]; omega), hrd]
    exact fun h => absurd (ht.symm.trans h) (by decide)
  rw [hout] at hx
  have hst := settleStep_pkgSettled (setDiePower u d 2)
  have hsd := sameUnits_setDiePower u d 2
  have hend : SettleStep u (pkgSettled (setDiePower u d 2)) := (SettleStep.of_sameUnits hsd).trans hst
  have hcore (c : Nat) : (pkgSettled (setDiePower u d 2)).core c = v.core c := by
    rw [hend, hl6]
    rfl
  have hlinks (e : Nat) (dir : Dir) : (pkgSettled (setDiePower u d 2)).link e dir = u.link e dir := by
    rw [hend]
    rfl
  refine ⟨_, hx, ?_, ?_, fun c hc => ?_, ?_, ?_, fun c hc => ?_, fun e dir he => ?_, ?_⟩
  · rw [get_sckDie_pkgSettled, get_setDiePower_self u d.isLt (by decide)]
  · have hk := key_dlStatus d
    have hn : arriveKept (.DL_STATUS d) := ⟨by omega, by omega⟩
    rw [linkState, State.get, rd_pkgSettled hn (by omega) (by rw [hk, key_iodState]; omega), rd_setDiePower hn (by rw [hk, key_sckDie]; omega)]
    exact hl1
  · rw [hcore, hc1 c hc, hr.2]
  · rw [hlinks, hl2]
  · rw [hlinks, hl3]
  · rw [hcore, hc2 c hc, hr.2]
  · rw [hlinks, hl4 e dir he, hlink]
  · rw [hend, hl6, hv]

/-- A die's state lost: its caches and buffers, and its cores. -/
def dieEmptied (s : State) (d : Nat) : State :=
  overAll (coresOnDie d) (fun s c => s.setCore c Core.init) (s.setDie d { Die.init with
    capOld := some (s.rd (.DL_FEAT_EFF d), BitVec.ofNat 64 (s.get (.DL_CAP_DIE d) F.DL_CAP_DIE_CORE_GOOD)), since := (s.die d).since })

omit hd hw in
theorem dieEmptied_spec (s : State) (d : Nat) : (∀ c ∈ coresOnDie d, (dieEmptied s d).core c = Core.init) ∧
    coresBut s (dieEmptied s d) (coresOnDie d) ∧ (dieEmptied s d).die d = { Die.init with
      capOld := some (s.rd (.DL_FEAT_EFF d), BitVec.ofNat 64 (s.get (.DL_CAP_DIE d) F.DL_CAP_DIE_CORE_GOOD)), since := (s.die d).since } ∧
    diesBut s (dieEmptied s d) [d] ∧ dieEmptied s d = { s with cores := (dieEmptied s d).cores, dies := (dieEmptied s d).dies } := by
  unfold dieEmptied
  generalize hk : ({ Die.init with
      capOld := some (s.rd (.DL_FEAT_EFF d), BitVec.ofNat 64 (s.get (.DL_CAP_DIE d) F.DL_CAP_DIE_CORE_GOOD)), since := (s.die d).since } : Die) = k
  have hsame : overAll (coresOnDie d) (fun s c => s.setCore c Core.init) (s.setDie d k) =
      { s.setDie d k with cores := (overAll (coresOnDie d) (fun s c => s.setCore c Core.init) (s.setDie d k)).cores } :=
    overAll_rel (R := fun s t => t = { s with cores := t.cores }) (fun _ => rfl) (fun h h' => by rw [h', h]) (fun _ _ => rfl) _ _
  have h1 : ∀ c ∈ coresOnDie d, (overAll (coresOnDie d) (fun s c => s.setCore c Core.init) (s.setDie d k)).core c = Core.init := fun c hc =>
    overAll_each (read := fun t k => t.core k) (val := fun _ _ => Core.init) (nodup_coresOnDie d) (fun _ _ _ => State.core_setCore_self ..)
      (fun _ _ _ _ _ hne => State.core_setCore_ne _ _ _ _ hne) (fun _ _ _ _ _ _ => rfl) _ hc
  have h2 : coresBut (s.setDie d k) (overAll (coresOnDie d) (fun s c => s.setCore c Core.init) (s.setDie d k)) (coresOnDie d) := fun c hc =>
    overAll_keeps_mem (g := fun t : State => t.core c) (fun t j hj => State.core_setCore_ne _ _ _ _ fun he => hc (he ▸ hj)) _
  generalize overAll (coresOnDie d) (fun s c => s.setCore c Core.init) (s.setDie d k) = v at *
  refine ⟨h1, h2, ?_, fun e he => ?_, ?_⟩
  · rw [hsame]
    exact State.die_setDie_self ..
  · rw [hsame]
    exact State.die_setDie_ne _ _ _ _ (by simpa using he)
  · rw [hsame]
    rfl

theorem dieOut_spec (h2 : s.get (.SCK_DIE d) F.SCK_DIE_STATE = 2) (ht : s.get (.SCK_DIE d) F.SCK_DIE_TARGET = 3) :
    ∃ t, exec (.dieFoldReached d) s = .next t ∧ t.get (.SCK_DIE d) F.SCK_DIE_STATE = 3 ∧
      t.die d = { Die.init with
        capOld := some (s.rd (.DL_FEAT_EFF d), BitVec.ofNat 64 (s.get (.DL_CAP_DIE d) F.DL_CAP_DIE_CORE_GOOD)), since := (s.die d).since } ∧
      (∀ c ∈ coresOnDie d, t.core c = Core.init) ∧ coresBut s t (coresOnDie d) ∧ diesBut s t [d.val] ∧ t.dram = s.dram := by
  let u := ((dieEmptied s d).put (.CORE_DIE_OP d) F.CORE_DIE_OP_CUR 0).put (.CORE_DIE_OP d) F.CORE_DIE_OP_TARGET 0
  have hx : exec (.dieFoldReached d) s = .next (pkgSettled (setDiePower u d 3)) := by
    have hx : exec (.dieFoldReached d) s = execDieFoldReached d s := rfl
    rw [hx]
    unfold execDieFoldReached enterOut
    dsimp only
    rw [ht, hd, hw, h2, if_neg (by decide), if_pos rfl, if_neg (by decide)]
    rfl
  obtain ⟨hc1, hc2, hc3, hc4, hc5⟩ := dieEmptied_spec s d
  have hst : SettleStep (dieEmptied s d) (pkgSettled (setDiePower u d 3)) :=
    (((SettleStep.of_sameUnits (sameUnits_put ..)).trans (.of_sameUnits (sameUnits_put ..))).trans (.of_sameUnits (sameUnits_setDiePower u d 3))).trans
      (settleStep_pkgSettled _)
  have hstate : (pkgSettled (setDiePower u d 3)).get (.SCK_DIE d) F.SCK_DIE_STATE = 3 := by
    rw [get_sckDie_pkgSettled, get_setDiePower_self u d.isLt (by decide)]
  generalize pkgSettled (setDiePower u d 3) = w at *
  generalize dieEmptied s d = v at *
  have hcore (c : Nat) : w.core c = v.core c := by
    rw [hst]
    rfl
  have hdie (e : Nat) : w.die e = v.die e := by
    rw [hst]
    rfl
  refine ⟨_, hx, hstate, ?_, fun c hc => ?_, fun c hc => ?_, fun e he => ?_, ?_⟩
  · rw [hdie, hc3]
  · rw [hcore, hc1 c hc]
  · rw [hcore, hc2 c hc]
  · rw [hdie, hc4 e he]
  · rw [hst, hc5]

end Fold

theorem powerDown : Claim.PowerDown :=
  ⟨fun d s hd h0 ht hm => diePass_spec hd h0 ht hm, fun d s hd hw h1 ht hs ha hf _ => dieFold_spec hd hw h1 ht hs ha hf,
    fun d s hd hw h2 ht => dieOut_spec hd hw h2 ht⟩

/-! ### Coming up (R418, R419, R425) -/

/-- The end of a step whose condition holds. -/
def wakeOn (s : State) (d k : Nat) : Out :=
  if lowered s d k then .next (pkgSettled (fallBack s d k))
  else if k = 2 ∧ (List.range 33).any (fun b => blockTarget s b == 0 && blockState s b != 0) then .next s
  else if k = 10 then
    let s := setDiePower (endLadder s d) d 0
    let x := s.die d
    .next (updatePkg (s.setDie d { x with
      rejoin := if x.rejoin = 2 then 3 else x.rejoin, capOld := if x.rejoin = 0 then none else x.capOld }))
  else .next (beginStep s d (nextStep s d k))

section Wake
variable {d : Fin 16} {k : Nat} {s : State} (hw : (s.die d).wake = some k) (hr : stepReady s d k = true)
include hw hr

theorem exec_wakeStepEnd (delayed : Bool) : exec (.wakeStepEnd ⟨d, delayed⟩) s = wakeOn (governed s delayed) d k := by
  have hx : exec (.wakeStepEnd ⟨d, delayed⟩) s = execWakeStepEnd ⟨d, delayed⟩ s := rfl
  rw [hx]
  unfold execWakeStepEnd
  dsimp only
  rw [hw]
  exact if_neg (by rw [hr]; decide)

theorem exec_wakeStepEnd_onTime : exec (.wakeStepEnd ⟨d, false⟩) s = wakeOn s d k := exec_wakeStepEnd hw hr false

theorem wakeStep_next (hl : lowered s d k = false) (h2 : k ≠ 2) (h10 : k < 10) :
    exec (.wakeStepEnd ⟨d, false⟩) s = .next (beginStep s d (nextStep s d k)) := by
  rw [exec_wakeStepEnd_onTime hw hr, wakeOn, if_neg (by rw [hl]; decide), if_neg fun h => h2 h.1, if_neg (by omega)]

omit hw hr in
theorem endLadder_spec (s : State) (d : Nat) : (endLadder s d).get (.SCK_DIE d) F.SCK_DIE_LADDER = 0 ∧
    (endLadder s d).get (.SCK_DIE d) F.SCK_DIE_STATE = s.get (.SCK_DIE d) F.SCK_DIE_STATE ∧
    (endLadder s d).die d = { s.die d with wake := none } ∧ diesBut s (endLadder s d) [d] ∧ (endLadder s d).cores = s.cores :=
  ⟨State.get_put_self (by decide) (by decide) .., State.get_put_apart (by decide) (by decide) (by decide) .., State.die_setDie_self ..,
    fun e he => State.die_setDie_ne _ _ _ _ (by simpa using he), rfl⟩

omit hw hr in
theorem dies_of_settle {s t : State} (h : SettleStep s t) (e : Nat) : t.die e = s.die e := by
  rw [h]
  rfl

omit hw hr in
theorem cores_of_settle {s t : State} (h : SettleStep s t) : t.cores = s.cores := by
  rw [h]

omit hw hr in
theorem wakeStep_play {s : State} (hw : (s.die d).wake = some 10) (ht : s.get (.SCK_DIE d) F.SCK_DIE_TARGET = 0) :
    ∃ t, exec (.wakeStepEnd ⟨d, false⟩) s = .next t ∧ t.get (.SCK_DIE d) F.SCK_DIE_STATE = 0 ∧ t.get (.SCK_DIE d) F.SCK_DIE_LADDER = 0 ∧
      (t.die d).wake = none ∧ diesBut s t [d.val] ∧ t.cores = s.cores := by
  have hl : lowered s d 10 = false := by
    unfold lowered
    rw [ht]
    simp
  have hx := exec_wakeStepEnd_onTime hw rfl
  rw [wakeOn, if_neg (by rw [hl]; decide), if_neg (by simp), if_pos rfl] at hx
  obtain ⟨h1, -, h3, h4, h5⟩ := endLadder_spec s d
  generalize endLadder s d = u at *
  have hs : SettleStep u (setDiePower u d 0) := .of_sameUnits (sameUnits_setDiePower u d 0)
  have h6 := get_setDiePower_self u d.isLt (show 0 < 4 by decide)
  have h7 : (setDiePower u d 0).get (.SCK_DIE d) F.SCK_DIE_LADDER = 0 := (get_setDiePower_apart u d 0 (by decide) (by decide)).trans h1
  have h8 := dies_of_settle hs
  have h9 := cores_of_settle hs
  generalize setDiePower u d 0 = v at *
  dsimp only at hx
  generalize hq : ({ v.die d with
      rejoin := if (v.die d).rejoin = 2 then 3 else (v.die d).rejoin
      capOld := if (v.die d).rejoin = 0 then none else (v.die d).capOld } : Die) = q at hx
  have hqw : q.wake = none := by
    rw [← hq]
    exact congrArg Die.wake ((h8 d).trans h3)
  have hu := sameUnits_updatePkg (v.setDie d q)
  have hget (f : Fld) : (updatePkg (v.setDie d q)).get (.SCK_DIE d) f = v.get (.SCK_DIE d) f :=
    congrArg (Fld.get f) (rd_updatePkg (noteKept_sckDie d.isLt).arrive (by rw [key_sckDie]; omega) _)
  have hdie (e : Nat) : (updatePkg (v.setDie d q)).die e = (v.setDie d q).die e := dies_of_settle (.of_sameUnits hu) e
  refine ⟨_, hx, (hget _).trans h6, (hget _).trans h7, ?_, fun e he => ?_, ?_⟩
  · rw [hdie, State.die_setDie_self, hqw]
  · rw [hdie, State.die_setDie_ne _ _ _ _ (by simpa using he), h8, h4 e he]
  · exact (cores_of_settle (.of_sameUnits hu)).trans (h9.trans h5)

theorem exec_wakeStepEnd_lowered (hl : lowered s d k = true) : exec (.wakeStepEnd ⟨d, false⟩) s = .next (pkgSettled (fallBack s d k)) := by
  rw [exec_wakeStepEnd_onTime hw hr, wakeOn, if_pos hl]

/-- A die that leaves the ladder in its state `n`. -/
structure LeftLadder (s t : State) (d : Fin 16) (n : Nat) : Prop where
  state : t.get (.SCK_DIE d) F.SCK_DIE_STATE = n
  ladder : t.get (.SCK_DIE d) F.SCK_DIE_LADDER = 0
  wake : (t.die d).wake = none
  others : diesBut s t [d.val]
  cores : t.cores = s.cores

omit hw hr in
theorem LeftLadder.settled {s t : State} {d : Fin 16} {n : Nat} (h : LeftLadder s t d n) : LeftLadder s (pkgSettled t) d n := by
  have hst := settleStep_pkgSettled t
  obtain ⟨h1, h2, h3, h4, h5⟩ := h
  refine ⟨?_, ?_, ?_, fun e he => ?_, ?_⟩
  · rw [get_sckDie_pkgSettled, h1]
  · rw [get_sckDie_pkgSettled, h2]
  · rw [dies_of_settle hst, h3]
  · rw [dies_of_settle hst, h4 e he]
  · rw [cores_of_settle hst, h5]

omit hw hr in
theorem leftLadder_endLadder (s : State) (d : Fin 16) : LeftLadder s (endLadder s d) d (s.get (.SCK_DIE d) F.SCK_DIE_STATE) := by
  obtain ⟨h1, h2, h3, h4, h5⟩ := endLadder_spec s d
  exact ⟨h2, h1, by rw [h3], h4, h5⟩

omit hw hr in
theorem leftLadder_early (s : State) (d : Fin 16) {k : Nat} (hk : k < 4) : LeftLadder s (fallBack s d k) d (s.get (.SCK_DIE d) F.SCK_DIE_STATE) := by
  have h0 := leftLadder_endLadder s d
  have h1 : LeftLadder s (if k = 3 then setLinkState (endLadder s d) d 0 else endLadder s d) d (s.get (.SCK_DIE d) F.SCK_DIE_STATE) := by
    have hne : (Reg.SCK_DIE d).key ≠ (Reg.DL_STATUS d).key := by rw [key_sckDie, key_dlStatus]; omega
    split
    · exact ⟨(State.get_put_ne hne ..).trans h0.state, (State.get_put_ne hne ..).trans h0.ladder, h0.wake, h0.others, h0.cores⟩
    · exact h0
  unfold fallBack
  dsimp only
  rw [if_pos hk]
  generalize (if k = 3 then setLinkState (endLadder s d) d 0 else endLadder s d) = u at h1 ⊢
  obtain ⟨h1, h2, h3, h4, h5⟩ := h1
  refine ⟨h1, h2, ?_, fun e he => ?_, h5⟩
  · rw [State.die_setDie_self]
    exact h3
  · rw [State.die_setDie_ne _ _ _ _ (by simpa using he)]
    exact h4 e he

omit hw hr in
theorem leftLadder_late (s : State) (d : Fin 16) {k : Nat} (hk : 4 ≤ k) : LeftLadder s (fallBack s d k) d 1 := by
  obtain ⟨-, h2, h3, h4, h5⟩ := leftLadder_endLadder s d
  unfold fallBack
  dsimp only
  rw [if_neg (by omega)]
  have hs : SettleStep (endLadder s d) (setDiePower (endLadder s d) d 1) := .of_sameUnits (sameUnits_setDiePower _ d 1)
  refine ⟨get_setDiePower_self _ d.isLt (by decide), (get_setDiePower_apart _ d 1 (by decide) (by decide)).trans h2, ?_, fun e he => ?_, ?_⟩
  · rw [dies_of_settle hs, h3]
  · rw [dies_of_settle hs, h4 e he]
  · rw [cores_of_settle hs, h5]

omit hw hr in
theorem sameUnits_sckErr (s : State) (b sev : Nat) : sameUnits s (sckErr s b sev) := by
  unfold sckErr
  split
  · exact sameUnits_refl s
  · exact sameUnits_raise ..

omit hw hr in
theorem rd_sckErr {r : Reg} (h : noteKept r) (he : r.key ≠ Reg.SCK_ERR.key) (s : State) (b sev : Nat) : (sckErr s b sev).rd r = s.rd r := by
  unfold sckErr
  split
  · rfl
  · exact rd_raise_ne h he _ _ (by split <;> decide) ..

theorem wakeStep_delayed : exec (.wakeStepEnd ⟨d, true⟩) s = exec (.wakeStepEnd ⟨d, false⟩) (sckErr s 10 0) := by
  have hu := sameUnits_sckErr s 10 0
  have hdie : (sckErr s 10 0).die d = s.die d := dies_of_settle (.of_sameUnits hu) d
  have hk1 := key_dlStatus d
  have hk2 := key_coreDieOp d
  have hke : Reg.SCK_ERR.key = 0xF00008000030 := rfl
  have hlink : linkState (sckErr s 10 0) d = linkState s d := congrArg (Fld.get _) (rd_sckErr ⟨by omega, by omega⟩ (by omega) s 10 0)
  have hstep : (sckErr s 10 0).get (.CORE_DIE_OP d) F.CORE_DIE_OP_STEP = s.get (.CORE_DIE_OP d) F.CORE_DIE_OP_STEP :=
    congrArg (Fld.get _) (rd_sckErr ⟨by omega, by omega⟩ (by omega) s 10 0)
  have hready : stepReady (sckErr s 10 0) d k = true := by
    rw [← hr]
    unfold stepReady
    rw [hdie, hlink, hstep]
  rw [exec_wakeStepEnd hw hr true, exec_wakeStepEnd_onTime (by rw [hdie]; exact hw) hready]
  rfl

end Wake

/-! ### The blocks of the IOD (R404, R415) -/

theorem getLsbD_one_shift {b : Nat} (hb : b < 64) (j : Nat) : (BitVec.ofNat 64 (2 ^ b)).getLsbD j = decide (j = b) := by
  rw [BitVec.getLsbD_ofNat, Nat.testBit_two_pow]
  by_cases h : b = j
  · subst h
    simp [hb]
  · have h' : ¬ j = b := fun he => h he.symm
    simp [h, h']

/-- The word of SCK_IOD_STATE that a block's state stands in, for a block with one. -/
def blockFld (b : Nat) : Fld := if b < 16 then F.SCK_IOD_STATE_CHANNEL b else F.SCK_IOD_STATE_SLICE (b - 16)

theorem blockFld_bits {b : Nat} (hb : b < 32) : (blockFld b).lo ≤ (blockFld b).hi ∧ (blockFld b).hi < 64 ∧ (blockFld b).hi - (blockFld b).lo + 1 = 2 := by
  unfold blockFld
  split
  · dsimp only
    omega
  · dsimp only
    omega

theorem blockFld_apart {a b : Nat} (ha : a < 32) (hb : b < 32) (hne : a ≠ b) :
    (blockFld a).hi < (blockFld b).lo ∨ (blockFld b).hi < (blockFld a).lo := by
  unfold blockFld
  split
  · split
    · dsimp only
      omega
    · dsimp only
      omega
  · split
    · dsimp only
      omega
    · dsimp only
      omega

theorem blockState_of_lt (s : State) {b : Nat} (hb : b < 32) : blockState s b = s.get .SCK_IOD_STATE (blockFld b) := by
  unfold blockState blockFld
  split
  · rfl
  · rfl

theorem rd_setBlockState_self (s : State) {b : Nat} (hb : b < 32) (n : Nat) :
    (setBlockState s b n).rd .SCK_IOD_STATE = (s.put .SCK_IOD_STATE (blockFld b) n).rd .SCK_IOD_STATE := by
  unfold setBlockState blockFld
  dsimp only
  split
  · split
    · rfl
    · rfl
  · split
    · rfl
    · rfl

theorem fabric_setBlockState (s : State) {b : Nat} (hb : b < 32) (n : Nat) : (setBlockState s b n).power = s.power := by
  unfold setBlockState
  dsimp only
  split
  · split
    · rfl
    · rfl
  · split
    · rfl
    · rfl

theorem blockState_setBlockState_self (s : State) {b n : Nat} (hb : b < 33) (hn : n < 4) : blockState (setBlockState s b n) b = n := by
  by_cases h : b < 32
  · obtain ⟨h1, h2, h3⟩ := blockFld_bits h
    rw [blockState_of_lt _ h, State.get, rd_setBlockState_self s h]
    refine (State.get_put_self h1 h2 ..).trans ?_
    rw [h3]
    exact Nat.mod_eq_of_lt hn
  · obtain rfl : b = 32 := by omega
    rfl

theorem blockState_setBlockState_ne (s : State) {a b : Nat} (ha : a < 33) (hb : b < 33) (hne : a ≠ b) (n : Nat) :
    blockState (setBlockState s b n) a = blockState s a := by
  by_cases h : a < 32
  · rw [blockState_of_lt _ h, blockState_of_lt _ h]
    by_cases h' : b < 32
    · rw [State.get, rd_setBlockState_self s h']
      exact State.get_put_apart (blockFld_bits h').1 (blockFld_bits h).1 (blockFld_apart h h' hne) ..
    · obtain rfl : b = 32 := by omega
      rfl
  · obtain rfl : a = 32 := by omega
    exact congrArg Power.fabric (fabric_setBlockState s (by omega) n)

theorem blockState_congr {s t : State} (h : t.rd .SCK_IOD_STATE = s.rd .SCK_IOD_STATE) (hp : t.power = s.power) (b : Nat) : blockState t b = blockState s b := by
  unfold blockState State.get
  rw [h, hp]

theorem blockState_updatePkg (s : State) (b : Nat) : blockState (updatePkg s) b = blockState s b := by
  refine blockState_congr (rd_updatePkg ⟨?_, ?_⟩ ?_ s) ?_ b
  · rw [key_iodState]; omega
  · rw [key_iodState]; omega
  · rw [key_iodState]; omega
  · rw [sameUnits_updatePkg s]

theorem key_arcHold : Reg.ARC_HOLD.key = 0xF00007005018 := rfl

theorem key_arcHoldAck : Reg.ARC_HOLD_ACK.key = 0xF00007005020 := rfl

theorem key_arcPreempt : Reg.ARC_PREEMPT.key = 0xF00007005028 := rfl

theorem key_arcErr : Reg.ARC_ERR.key = 0xF00007005030 := rfl

/-- The Archivist's registers through the settling of the package. -/
theorem rd_pkgSettled_arc {r : Reg} (h : 0xF00007000000 ≤ r.key) (h' : r.key < 0xF00007006000) (s : State) : (pkgSettled s).rd r = s.rd r :=
  rd_pkgSettled ⟨by omega, by omega⟩ (by omega) (by rw [key_iodState]; omega) s

theorem rd_updatePkg_arc {r : Reg} (h : 0xF00007000000 ≤ r.key) (h' : r.key < 0xF00007006000) (s : State) : (updatePkg s).rd r = s.rd r :=
  rd_updatePkg ⟨by omega, by omega⟩ (by omega) s

/-- A block's hold acknowledged, where it is held. -/
def ackHold (s : State) (b : Nat) : State :=
  if isHeld s b then s.wr .ARC_HOLD_ACK (s.rd .ARC_HOLD_ACK ||| BitVec.ofNat 64 (2 ^ b)) else s

/-- A home slice that rises takes the messages held back. -/
def sliceWoken (s : State) (b : Nat) : State :=
  if 16 ≤ b ∧ b < 32 then
    let x := s.slice (b - 16)
    if x.suspend then s else overAll x.held enterSlice (s.setSlice (b - 16) { x with held := [] })
  else s

/-- With no message held back the registers and the power record are as before. -/
theorem sliceWoken_of_empty {s : State} {b : Nat} (h : 16 ≤ b → b < 32 → (s.slice (b - 16)).held = []) :
    sliceWoken s b = { s with slices := (sliceWoken s b).slices } := by
  unfold sliceWoken
  dsimp only
  split
  · next hb =>
    split
    · rfl
    · rw [h hb.1 hb.2]
      rfl
  · rfl

section Block
variable {b : Fin 33} {s : State}

theorem slice_setBlockState (s : State) (b n : Nat) {v : Nat} (hv : v ≠ 3) : (setBlockState s b v).slice n = s.slice n := by
  unfold setBlockState
  dsimp only
  split
  · rw [if_neg fun h => hv h.1]
    rfl
  · split
    · rw [if_neg fun h => hv h.1]
      rfl
    · rfl

theorem iodBlockPlay_spec (h2 : blockState s b = 2) (h : blockTarget s b = 0 ∨ (isHeld s b = true ∧ iodForced s = false))
    (hh : ∀ n, b.val = 16 + n → n < 16 → (s.slice n).held = []) :
    ∃ t, exec (.iodBlockPlay b) s = .next t ∧ blockState t b = 0 ∧ (isHeld s b = true → (t.rd .ARC_HOLD_ACK).getLsbD b = true) ∧
      (∀ a : Fin 33, a ≠ b → blockState t a = blockState s a) := by
  have hlt := b.isLt
  have hx : exec (.iodBlockPlay b) s = .next (updatePkg (sliceWoken (ackHold (setBlockState s b 0) b) b)) := by
    refine if_pos ⟨h2, h.imp id fun ⟨h1, h3⟩ => ⟨h1, ?_⟩⟩
    rw [h3]
    decide
  have hheld : isHeld (setBlockState s b 0) b = isHeld s b :=
    congrArg (fun w : Word => w.getLsbD b) (rd_setBlockState (r := .ARC_HOLD) (by rw [key_arcHold, key_iodState]; omega) s b 0)
  have hself := blockState_setBlockState_self s hlt (show 0 < 4 by decide)
  have hne (a : Fin 33) (ha : a ≠ b) := blockState_setBlockState_ne s a.isLt hlt (fun he => ha (Fin.ext he)) 0
  have hsl (n : Nat) := slice_setBlockState s b n (show 0 ≠ 3 by decide)
  generalize setBlockState s b 0 = u at *
  have hack : ∀ a, blockState (ackHold u b) a = blockState u a := fun a => by
    unfold ackHold
    split
    · exact blockState_congr (State.rd_wr_ne _ _ _ _ (by rw [key_arcHoldAck, key_iodState]; omega)) rfl a
    · rfl
  have hbit : isHeld s b = true → ((ackHold u b).rd .ARC_HOLD_ACK).getLsbD b = true := fun hs => by
    unfold ackHold
    rw [if_pos (hheld.trans hs), State.rd_wr_self, BitVec.getLsbD_or, getLsbD_one_shift (by omega), decide_eq_true rfl, Bool.or_true]
  have hslices : ∀ n, (ackHold u b).slice n = u.slice n := fun n => by
    unfold ackHold
    split
    · rfl
    · rfl
  generalize ackHold u b = v at *
  have hv : sliceWoken v b = { v with slices := (sliceWoken v b).slices } := sliceWoken_of_empty fun h16 h32 => by
    rw [hslices, hsl]
    exact hh (b.val - 16) (by omega) (by omega)
  generalize sliceWoken v b = w at *
  have hw (a : Nat) : blockState (updatePkg w) a = blockState v a := by
    rw [blockState_updatePkg, hv]
    rfl
  refine ⟨_, hx, ?_, fun hs => ?_, fun a ha => ?_⟩
  · rw [hw, hack, hself]
  · rw [rd_updatePkg_arc (by rw [key_arcHoldAck]; omega) (by rw [key_arcHoldAck]; omega), hv]
    exact hbit hs
  · rw [hw, hack, hne a ha]

end Block

theorem powerWake : Claim.PowerWake := by
  refine ⟨fun d k s hw hr hl h2 h10 => wakeStep_next hw hr hl h2 h10, fun d s hw ht => wakeStep_play hw ht, fun d k s hw hr hj hk ht => ?_,
    fun d k s hw hr hj hk ht => ?_, fun d k s hw hr => wakeStep_delayed hw hr, fun b s h2 h hh => iodBlockPlay_spec h2 h hh⟩
  · have hl : lowered s d k = true := by
      unfold lowered
      dsimp only
      rw [hj, if_pos hk, decide_eq_true ht]
      rfl
    obtain ⟨h1, h2, h3, h4, h5⟩ := (leftLadder_early s d hk).settled
    exact ⟨_, exec_wakeStepEnd_lowered hw hr hl, h1, h2, h3, h4, h5⟩
  · have hl : lowered s d k = true := by
      unfold lowered
      dsimp only
      rw [hj, if_neg (by omega), decide_eq_true ht]
      rfl
    obtain ⟨h1, h2, h3, h4, h5⟩ := (leftLadder_late s d hk).settled
    exact ⟨_, exec_wakeStepEnd_lowered hw hr hl, h1, h2, h3, h4, h5⟩

/-! ### Secure holds (R404, R405) -/

theorem getLsbD_not_one_shift {b j : Nat} (hb : b < 64) (hj : j < 64) : (~~~ BitVec.ofNat 64 (2 ^ b)).getLsbD j = decide (j ≠ b) := by
  rw [BitVec.getLsbD_not, getLsbD_one_shift hb, decide_eq_true hj, Bool.true_and, decide_not]

theorem holdSet_spec (b : Fin 35) (s : State) : ∃ t, exec (.secureHoldSet b) s = .next t ∧
    (∀ j : Fin 64, (t.rd .ARC_HOLD).getLsbD j = ((s.rd .ARC_HOLD).getLsbD j || decide (j.val = b.val)) ∧
      (t.rd .ARC_HOLD_ACK).getLsbD j = ((s.rd .ARC_HOLD_ACK).getLsbD j ||
        (decide (j.val = b.val) && (decide (33 ≤ b.val) || blockState s b == 0)))) ∧ t.dram = s.dram := by
  have hlt := b.isLt
  let u := s.wr .ARC_HOLD (s.rd .ARC_HOLD ||| BitVec.ofNat 64 (2 ^ b.val))
  have hne : Reg.ARC_HOLD.key ≠ Reg.ARC_HOLD_ACK.key := by decide
  have hb : blockState u b = blockState s b := blockState_congr (State.rd_wr_ne _ _ _ _ (by decide)) rfl b
  have hx : exec (.secureHoldSet b) s =
      if 33 ≤ b.val ∨ blockState u b = 0 then .next (updatePkg (u.wr .ARC_HOLD_ACK (u.rd .ARC_HOLD_ACK ||| BitVec.ofNat 64 (2 ^ b.val))))
      else .next (updatePkg u) := rfl
  have hhold (v : State) : (updatePkg v).rd .ARC_HOLD = v.rd .ARC_HOLD := rd_updatePkg_arc (by decide) (by decide) v
  have hack (v : State) : (updatePkg v).rd .ARC_HOLD_ACK = v.rd .ARC_HOLD_ACK := rd_updatePkg_arc (by decide) (by decide) v
  have hset (j : Fin 64) : (u.rd .ARC_HOLD).getLsbD j = ((s.rd .ARC_HOLD).getLsbD j || decide (j.val = b.val)) := by
    rw [State.rd_wr_self, BitVec.getLsbD_or, getLsbD_one_shift (by omega)]
  have hold : u.rd .ARC_HOLD_ACK = s.rd .ARC_HOLD_ACK := State.rd_wr_ne _ _ _ _ hne.symm
  have hdram (v : State) : (updatePkg v).dram = v.dram := by rw [sameUnits_updatePkg v]
  have hu : u.dram = s.dram := rfl
  rw [hb] at hx
  clear_value u
  by_cases hc : 33 ≤ b.val ∨ blockState s b = 0
  · rw [if_pos hc] at hx
    refine ⟨_, hx, fun j => ⟨?_, ?_⟩, (hdram _).trans hu⟩
    · rw [hhold, State.rd_wr_ne _ _ _ _ hne, hset]
    · have hc' : (decide (33 ≤ b.val) || blockState s b == 0) = true := by simpa using hc
      rw [hack, State.rd_wr_self, BitVec.getLsbD_or, getLsbD_one_shift (by omega), hold, hc', Bool.and_true]
  · rw [if_neg hc] at hx
    refine ⟨_, hx, fun j => ⟨?_, ?_⟩, (hdram _).trans hu⟩
    · rw [hhold, hset]
    · have hc' : (decide (33 ≤ b.val) || blockState s b == 0) = false := by simpa using hc
      rw [hack, hold, hc', Bool.and_false, Bool.or_false]

theorem holdClear_spec (b : Fin 35) (s : State) : ∃ t, exec (.secureHoldClear b) s = .next t ∧
    (∀ j : Fin 64, (t.rd .ARC_HOLD).getLsbD j = ((s.rd .ARC_HOLD).getLsbD j && decide (j.val ≠ b.val)) ∧
      (t.rd .ARC_HOLD_ACK).getLsbD j = ((s.rd .ARC_HOLD_ACK).getLsbD j && decide (j.val ≠ b.val)) ∧
      (t.rd .ARC_PREEMPT).getLsbD j = ((s.rd .ARC_PREEMPT).getLsbD j && decide (j.val ≠ b.val))) ∧ t.dram = s.dram := by
  have hlt := b.isLt
  let m : Word := ~~~ BitVec.ofNat 64 (2 ^ b.val)
  let u := (s.wr .ARC_HOLD (s.rd .ARC_HOLD &&& m)).wr .ARC_HOLD_ACK (s.rd .ARC_HOLD_ACK &&& m)
  let v := u.wr .ARC_PREEMPT (u.rd .ARC_PREEMPT &&& m)
  have hx : exec (.secureHoldClear b) s = .next (pkgSettled v) := rfl
  have hm (w : Word) (j : Fin 64) : (w &&& m).getLsbD j = (w.getLsbD j && decide (j.val ≠ b.val)) := by
    rw [BitVec.getLsbD_and, getLsbD_not_one_shift (by omega) j.isLt]
  have h12 : Reg.ARC_HOLD.key ≠ Reg.ARC_HOLD_ACK.key := by decide
  have h13 : Reg.ARC_HOLD.key ≠ Reg.ARC_PREEMPT.key := by decide
  have h23 : Reg.ARC_HOLD_ACK.key ≠ Reg.ARC_PREEMPT.key := by decide
  have h1 : v.rd .ARC_HOLD = s.rd .ARC_HOLD &&& m := (State.rd_wr_ne _ _ _ _ h13).trans ((State.rd_wr_ne _ _ _ _ h12).trans (State.rd_wr_self ..))
  have h2 : v.rd .ARC_HOLD_ACK = s.rd .ARC_HOLD_ACK &&& m := (State.rd_wr_ne _ _ _ _ h23).trans (State.rd_wr_self ..)
  have h3 : v.rd .ARC_PREEMPT = s.rd .ARC_PREEMPT &&& m := by
    have hu : u.rd .ARC_PREEMPT = s.rd .ARC_PREEMPT := (State.rd_wr_ne _ _ _ _ h23.symm).trans (State.rd_wr_ne _ _ _ _ h13.symm)
    exact (State.rd_wr_self ..).trans (by rw [hu])
  have hd : v.dram = s.dram := rfl
  clear_value v u
  refine ⟨_, hx, fun j => ⟨?_, ?_, ?_⟩, ?_⟩
  · rw [rd_pkgSettled_arc (by decide) (by decide), h1, hm]
  · rw [rd_pkgSettled_arc (by decide) (by decide), h2, hm]
  · rw [rd_pkgSettled_arc (by decide) (by decide), h3, hm]
  · rw [settleStep_pkgSettled v, hd]

theorem blockTarget_lt (s : State) (b : Nat) : blockTarget s b < 4 := by
  have ht : s.get .SCK_PKG F.SCK_PKG_TARGET < 4 := s.get_lt ..
  unfold blockTarget
  dsimp only
  split
  · decide
  · split
    · omega
    · split
      · split
        · omega
        · omega
      · split
        · omega
        · omega

theorem blockTarget_setBlockState (s : State) (a b n : Nat) : blockTarget (setBlockState s b n) a = blockTarget s a := by
  obtain ⟨h1, h2⟩ := iodForced_setBlockState s b n
  have hp : (setBlockState s b n).rd .SCK_PKG = s.rd .SCK_PKG := rd_setBlockState (by decide) s b n
  have hv : (setBlockState s b n).rd .ARC_VAULT = s.rd .ARC_VAULT := rd_setBlockState (by decide) s b n
  unfold blockTarget vaultChan State.get
  rw [h1, h2, hp, hv]

/-- A block whose hold is preempted goes where it may. -/
def blockSunk (s : State) (b : Nat) : State := setBlockState s b (max (blockState s b) (blockTarget s b))

theorem blockState_lt_of_lt (s : State) {b : Nat} (hb : b < 32) : blockState s b < 4 := by
  have h := s.get_lt .SCK_IOD_STATE (blockFld b)
  rw [(blockFld_bits hb).2.2] at h
  rw [blockState_of_lt s hb]
  exact h

theorem blockState_blockSunk_self (s : State) {b : Nat} (hb : b < 33) : blockState (blockSunk s b) b = max (blockState s b) (blockTarget s b) := by
  by_cases h : b < 32
  · have h1 := blockState_lt_of_lt s h
    have h2 := blockTarget_lt s b
    exact blockState_setBlockState_self s hb (by omega)
  · obtain rfl : b = 32 := by omega
    rfl

/-- The blocks that SECURE_PREEMPT named. -/
def blocksNamed (s : State) : List Nat := (List.range 33).filter (isPreempted s)

theorem blocksSunk_spec (s : State) : (∀ b : Fin 33, blockState (overAll (blocksNamed s) blockSunk s) b =
      if isPreempted s b then max (blockState s b) (blockTarget s b) else blockState s b) ∧
    (∀ r : Reg, r.key ≠ Reg.SCK_IOD_STATE.key → (overAll (blocksNamed s) blockSunk s).rd r = s.rd r) ∧
    (overAll (blocksNamed s) blockSunk s).dram = s.dram := by
  have hlt {a : Nat} (ha : a ∈ blocksNamed s) : a < 33 := List.mem_range.mp (List.mem_filter.mp ha).1
  refine ⟨fun b => ?_, fun r hr => overAll_keeps_mem (g := fun t : State => t.rd r) (fun t b _ => rd_setBlockState hr t b _) s, ?_⟩
  · by_cases hp : isPreempted s b = true
    · rw [if_pos hp]
      have hm : b.val ∈ blocksNamed s := List.mem_filter.mpr ⟨List.mem_range.mpr b.isLt, hp⟩
      exact overAll_each (read := fun t a => blockState t a) (val := fun t a => max (blockState t a) (blockTarget t a)) (List.nodup_range.filter _)
        (fun t a ha => blockState_blockSunk_self t (hlt ha)) (fun t a ha c hc hne => blockState_setBlockState_ne t (hlt hc) (hlt ha) hne _)
        (fun t a ha c hc hne => by
          rw [blockSunk, blockState_setBlockState_ne t (hlt hc) (hlt ha) hne, blockTarget_setBlockState]) s hm
    · rw [if_neg hp]
      refine overAll_keeps_mem (g := fun t : State => blockState t b) (fun t a ha => blockState_setBlockState_ne t b.isLt (hlt ha) (fun he => hp ?_) _) s
      rw [he]
      exact (List.mem_filter.mp ha).2
  · have h : SettleStep s (overAll (blocksNamed s) blockSunk s) := overAll_rel SettleStep.refl SettleStep.trans (fun t b => SettleStep.setBlockState t b _) _ s
    rw [h]

/-- The grace over: the named holds lose their acknowledgement, and a call that waits is answered. -/
def preemptOver (s : State) (m : Word) : State :=
  let s := s.wr .ARC_HOLD_ACK (s.rd .ARC_HOLD_ACK &&& m)
  let s := s.wr .ARC_PREEMPT (s.rd .ARC_PREEMPT &&& m)
  let sv := s.arc.serving.map (fun e =>
    (e.1, if e.2.result.isNone then { e.2 with result := some ⟨5, 0, []⟩ } else e.2))
  { s with arc := { s.arc with serving := sv }, power := { s.power with preempt := none } }

theorem preemptExpire_spec {s : State} {at_ : Nat} (hp : s.power.preempt = some at_) (ht : at_ + 5000 ≤ s.mtime) (hb : ∃ b : Fin 33, isPreempted s b = true) :
    ∃ t, exec .securePreemptExpire s = .next t ∧ t.power.preempt = none ∧
      (∀ b : Fin 33, (t.rd .ARC_PREEMPT).getLsbD b = false ∧
        (t.rd .ARC_HOLD_ACK).getLsbD b = ((s.rd .ARC_HOLD_ACK).getLsbD b && !isPreempted s b) ∧
        blockState t b = if isPreempted s b then max (blockState s b) (blockTarget s b) else blockState s b) ∧ t.dram = s.dram := by
  let m : Word := ~~~ BitVec.ofNat 64 (slotBits (isPreempted s) 33)
  have hx : exec .securePreemptExpire s = .next (updatePkg ((preemptOver (overAll (blocksNamed s) blockSunk s) m).raise .ARC_ERR 1 24 0x2700 none 1 0)) := by
    have hx : exec .securePreemptExpire s = execSecurePreemptExpire s := rfl
    rw [hx]
    unfold execSecurePreemptExpire
    dsimp only
    rw [hp]
    refine if_neg fun h => h.elim (fun h => by omega) fun h => ?_
    obtain ⟨b, hb⟩ := hb
    have hmem : b.val ∈ blocksNamed s := List.mem_filter.mpr ⟨List.mem_range.mpr b.isLt, hb⟩
    exact List.not_mem_nil ((show blocksNamed s = [] from h) ▸ hmem)
  obtain ⟨hst, hrd, hdram⟩ := blocksSunk_spec s
  generalize overAll (blocksNamed s) blockSunk s = u at *
  have hm (b : Fin 33) : m.getLsbD b = !isPreempted s b := by
    have hb := b.isLt
    rw [BitVec.getLsbD_not, getLsbD_slotBits _ (by decide), decide_eq_true (show b.val < 64 by omega), decide_eq_true hb, Bool.true_and, Bool.true_and]
  have h23 : Reg.ARC_HOLD_ACK.key ≠ Reg.ARC_PREEMPT.key := by decide
  have hack : (preemptOver u m).rd .ARC_HOLD_ACK = s.rd .ARC_HOLD_ACK &&& m :=
    (State.rd_wr_ne _ _ _ _ h23).trans ((State.rd_wr_self ..).trans (by rw [hrd _ (by decide)]))
  have hpre : (preemptOver u m).rd .ARC_PREEMPT = s.rd .ARC_PREEMPT &&& m := by
    refine (State.rd_wr_self ..).trans ?_
    rw [State.rd_wr_ne _ _ _ _ h23.symm, hrd _ (by decide)]
  have hblock (b : Nat) : blockState (preemptOver u m) b = blockState u b :=
    blockState_congr ((State.rd_wr_ne _ _ _ _ (by decide)).trans (State.rd_wr_ne _ _ _ _ (by decide))) rfl b
  have hnone : (preemptOver u m).power.preempt = none := rfl
  have hdr : (preemptOver u m).dram = u.dram := rfl
  generalize preemptOver u m = v at *
  have hk {r : Reg} (h : 0xF00007000000 ≤ r.key) (h' : r.key < 0xF00008000030) (hne : r.key ≠ Reg.ARC_ERR.key) :
      (v.raise .ARC_ERR 1 24 0x2700 none 1 0).rd r = v.rd r := rd_raise_ne ⟨by omega, by omega⟩ hne _ _ (by decide) ..
  have hsame : sameUnits v (updatePkg (v.raise .ARC_ERR 1 24 0x2700 none 1 0)) := (sameUnits_raise ..).trans (sameUnits_updatePkg _)
  have hraise : sameUnits v (v.raise .ARC_ERR 1 24 0x2700 none 1 0) := sameUnits_raise ..
  refine ⟨_, hx, ?_, fun b => ⟨?_, ?_, ?_⟩, ?_⟩
  · rw [hsame]
    exact hnone
  · rw [rd_updatePkg_arc (by decide) (by decide), hk (by decide) (by decide) (by decide), hpre, BitVec.getLsbD_and, hm]
    exact Bool.and_not_self _
  · rw [rd_updatePkg_arc (by decide) (by decide), hk (by decide) (by decide) (by decide), hack, BitVec.getLsbD_and, hm]
  · rw [blockState_updatePkg, blockState_congr (hk (by decide) (by decide) (by decide)) (by rw [hraise]), hblock, hst]
  · rw [hsame]
    exact hdr.trans hdram

theorem powerHolds : Claim.PowerHolds := ⟨holdSet_spec, holdClear_spec, fun _ _ hp ht hb => preemptExpire_spec hp ht hb⟩

/-- Settles O31, by the registers that each step down, up or of a hold writes, and by what the settling of the package leaves. -/
theorem powerStates : Obligations.PowerStates := ⟨powerDown, powerWake, powerHolds⟩

end Sys2Proof.Machine
end

section
/-! SUPPORT. Operating points and issue levels (R131, R132, R418, R422 to R425). -/

namespace Sys2Proof.Machine

/-! ### Changes of the operating point (R423 to R425) -/

theorem points_mgmtSend_of_regs {s t : State} (hp : t.points = s.points) (hc : t.cycle = s.cycle) (p q : Nat) :
    (mgmtSend t p q).points = (mgmtSend s p q).points := by
  unfold mgmtSend State.send State.setPoint State.point
  rw [hp, hc]

theorem get_coreDieOp_sckErr (s : State) (d : Fin 16) (b : Nat) (f : Fld) : (sckErr s b 0).get (.CORE_DIE_OP d) f = s.get (.CORE_DIE_OP d) f := by
  have hk := key_coreDieOp d
  have he : Reg.SCK_ERR.key = 0xF00008000030 := rfl
  exact congrArg (Fld.get f) (rd_sckErr ⟨by omega, by omega⟩ (by omega) s b 0)

theorem get_sckDie_sckErr (s : State) (d : Fin 16) (b : Nat) (f : Fld) : (sckErr s b 0).get (.SCK_DIE d) f = s.get (.SCK_DIE d) f := by
  have hk := key_sckDie d
  have he : Reg.SCK_ERR.key = 0xF00008000030 := rfl
  exact congrArg (Fld.get f) (rd_sckErr (noteKept_sckDie d.isLt) (by omega) s b 0)

theorem die_sckErr (s : State) (b d : Nat) : (sckErr s b 0).die d = s.die d := dies_of_settle (.of_sameUnits (sameUnits_sckErr s b 0)) d

theorem pointOf_sckErr (s : State) (d : Fin 16) (b : Nat) : pointOf (sckErr s b 0) d = pointOf s d := by
  unfold pointOf State.bit
  dsimp only
  rw [get_sckDie_sckErr, get_sckDie_sckErr, get_sckDie_sckErr]

/-- The change to point `t`, once it has been told to the die. -/
def opChanged (s : State) (d : Fin 16) (t : Nat) : State :=
  mgmtSend (s.put (.CORE_DIE_OP d) F.CORE_DIE_OP_TARGET t) (0x10 + d) 18

section Change
variable {d : Fin 16} {g : BitVec 2} {s : State} (hp : s.bit (.CORE_DIE_OP d) F.CORE_DIE_OP_PINNED = false) (hg : g.toNat = pointOf s d)
  (hne : g.toNat ≠ s.get (.CORE_DIE_OP d) F.CORE_DIE_OP_CUR)
  (hc : s.get (.CORE_DIE_OP d) F.CORE_DIE_OP_TARGET = s.get (.CORE_DIE_OP d) F.CORE_DIE_OP_CUR) (hw : (s.die d).wake = none)
  (hst : s.get (.SCK_DIE d) F.SCK_DIE_STATE ≤ 1)
include hp hg hne hc hw hst

theorem exec_opChangeStart (delayed : Bool) : exec (.opChangeStart ⟨d, delayed⟩ g) s =
    if s.get (.CORE_DIE_OP d) F.CORE_DIE_OP_CUR < g.toNat then
      .next ((opChanged (governed s delayed) d g.toNat).setDie d { s.die d with vsel := g.toNat, settling := true })
    else .next ((opChanged (governed s delayed) d g.toNat).put (.CORE_DIE_OP d) F.CORE_DIE_OP_STEP 1) := by
  have hx : exec (.opChangeStart ⟨d, delayed⟩ g) s = execOpChangeStart ⟨d, delayed⟩ g s := rfl
  rw [hx]
  unfold execOpChangeStart
  dsimp only
  rw [if_neg]
  · rfl
  · rw [hp, hw]
    rintro (h | h | h | h | h | h)
    · exact Bool.false_ne_true h
    · exact h hg
    · exact hne h
    · exact h hc
    · exact Bool.false_ne_true h
    · omega

theorem opChange_raises (hlt : s.get (.CORE_DIE_OP d) F.CORE_DIE_OP_CUR < g.toNat) : ∃ t, exec (.opChangeStart ⟨d, false⟩ g) s = .next t ∧
      t.get (.CORE_DIE_OP d) F.CORE_DIE_OP_TARGET = g.toNat ∧ t.die d = { s.die d with vsel := g.toNat, settling := true } ∧
      t.get (.CORE_DIE_OP d) F.CORE_DIE_OP_STEP = s.get (.CORE_DIE_OP d) F.CORE_DIE_OP_STEP ∧
      regsBut s t [.CORE_DIE_OP d] ∧ diesBut s t [d.val] ∧ t.points = (mgmtSend s (0x10 + d) 18).points ∧
      t = { s with regs := t.regs, dies := t.dies, points := t.points } := by
  have hx := exec_opChangeStart hp hg hne hc hw hst false
  rw [if_pos hlt] at hx
  refine ⟨_, hx, ?_, State.die_setDie_self .., ?_, ?_, fun e he => ?_, rfl, rfl⟩
  · exact (State.get_put_self (by decide) (by decide) s _ _).trans (Nat.mod_eq_of_lt g.isLt)
  · exact State.get_put_apart (by decide) (by decide) (by decide) s _ _
  · exact regsBut_put s _ _ _
  · exact State.die_setDie_ne _ _ _ _ (by simpa using he)

theorem opChange_ramps (hlt : g.toNat < s.get (.CORE_DIE_OP d) F.CORE_DIE_OP_CUR) : ∃ t, exec (.opChangeStart ⟨d, false⟩ g) s = .next t ∧
      t.get (.CORE_DIE_OP d) F.CORE_DIE_OP_TARGET = g.toNat ∧ t.get (.CORE_DIE_OP d) F.CORE_DIE_OP_STEP = 1 ∧
      regsBut s t [.CORE_DIE_OP d] ∧ t.points = (mgmtSend s (0x10 + d) 18).points ∧
      t = { s with regs := t.regs, points := t.points } := by
  have hx := exec_opChangeStart hp hg hne hc hw hst false
  rw [if_neg (by omega)] at hx
  refine ⟨_, hx, ?_, State.get_put_self (by decide) (by decide) .., ?_, rfl, rfl⟩
  · refine (State.get_put_apart (by decide) (by decide) (by decide) ..).trans ?_
    exact (State.get_put_self (by decide) (by decide) s _ _).trans (Nat.mod_eq_of_lt g.isLt)
  · exact (regsBut_put s (.CORE_DIE_OP d) F.CORE_DIE_OP_TARGET g.toNat).trans (regsBut_put (opChanged s d g.toNat) _ _ _)

theorem opChange_delayed : exec (.opChangeStart ⟨d, true⟩ g) s = exec (.opChangeStart ⟨d, false⟩ g) (sckErr s 10 0) := by
  have h1 := exec_opChangeStart hp hg hne hc hw hst true
  have h2 := exec_opChangeStart (d := d) (g := g) (s := sckErr s 10 0) (by unfold State.bit; rw [get_coreDieOp_sckErr]; exact hp)
    (by rw [pointOf_sckErr]; exact hg) (by rw [get_coreDieOp_sckErr]; exact hne) (by rw [get_coreDieOp_sckErr, get_coreDieOp_sckErr]; exact hc)
    (by rw [die_sckErr]; exact hw) (by rw [get_sckDie_sckErr]; exact hst) false
  rw [h1, h2, get_coreDieOp_sckErr, die_sckErr]
  rfl

end Change

/-! ### The ramp (R424) -/

section Ramp
variable {d : Fin 16} {s : State}

/-- The last step of a ramp. -/
def rampOver (s : State) (d : Fin 16) : State :=
  let t := s.get (.CORE_DIE_OP d) F.CORE_DIE_OP_TARGET
  let down := decide (t < s.get (.CORE_DIE_OP d) F.CORE_DIE_OP_CUR)
  let s := (s.put (.CORE_DIE_OP d) F.CORE_DIE_OP_STEP 0).put (.CORE_DIE_OP d) F.CORE_DIE_OP_CUR t
  if down then s.setDie d { s.die d with vsel := t, settling := true } else s

theorem exec_opRampStep (h : 1 ≤ s.get (.CORE_DIE_OP d) F.CORE_DIE_OP_STEP) (delayed : Bool) : exec (.opRampStep ⟨d, delayed⟩) s = .next (
    if s.get (.CORE_DIE_OP d) F.CORE_DIE_OP_STEP < 16 then
      (governed s delayed).put (.CORE_DIE_OP d) F.CORE_DIE_OP_STEP (s.get (.CORE_DIE_OP d) F.CORE_DIE_OP_STEP + 1)
    else rampOver (governed s delayed) d) := by
  have hx : exec (.opRampStep ⟨d, delayed⟩) s = execOpRampStep ⟨d, delayed⟩ s := rfl
  rw [hx]
  unfold execOpRampStep rampOver
  dsimp only
  rw [if_neg (by omega)]
  split
  · rfl
  · exact (apply_ite Host.Outcome.next ..).symm

theorem opRamp_delayed (h : 1 ≤ s.get (.CORE_DIE_OP d) F.CORE_DIE_OP_STEP) :
    exec (.opRampStep ⟨d, true⟩) s = exec (.opRampStep ⟨d, false⟩) (sckErr s 10 0) := by
  have h2 := exec_opRampStep (d := d) (s := sckErr s 10 0) (by rw [get_coreDieOp_sckErr]; exact h) false
  rw [exec_opRampStep h, h2, get_coreDieOp_sckErr]
  rfl

theorem opRamp_ends (h : s.get (.CORE_DIE_OP d) F.CORE_DIE_OP_STEP = 16) :
    ∃ t, exec (.opRampStep ⟨d, false⟩) s = .next t ∧ t.get (.CORE_DIE_OP d) F.CORE_DIE_OP_STEP = 0 ∧
      t.get (.CORE_DIE_OP d) F.CORE_DIE_OP_CUR = s.get (.CORE_DIE_OP d) F.CORE_DIE_OP_TARGET ∧
      regsBut s t [.CORE_DIE_OP d] ∧ diesBut s t [d.val] ∧ t = { s with regs := t.regs, dies := t.dies } := by
  have hx := exec_opRampStep (d := d) (s := s) (by omega) false
  rw [if_neg (by omega)] at hx
  refine ⟨_, hx, ?_⟩
  have hlt := s.get_lt (.CORE_DIE_OP d) F.CORE_DIE_OP_TARGET
  let u := (s.put (.CORE_DIE_OP d) F.CORE_DIE_OP_STEP 0).put (.CORE_DIE_OP d) F.CORE_DIE_OP_CUR (s.get (.CORE_DIE_OP d) F.CORE_DIE_OP_TARGET)
  have h1 : u.get (.CORE_DIE_OP d) F.CORE_DIE_OP_STEP = 0 :=
    (State.get_put_apart (by decide) (by decide) (by decide) ..).trans (State.get_put_self (by decide) (by decide) ..)
  have h2 : u.get (.CORE_DIE_OP d) F.CORE_DIE_OP_CUR = s.get (.CORE_DIE_OP d) F.CORE_DIE_OP_TARGET :=
    (State.get_put_self (by decide) (by decide) ..).trans (Nat.mod_eq_of_lt hlt)
  have h3 : regsBut s u [.CORE_DIE_OP d] := (regsBut_put _ _ _ _).trans (regsBut_put _ _ _ _)
  unfold rampOver
  dsimp only
  split
  · exact ⟨h1, h2, h3, fun e he => State.die_setDie_ne _ _ _ _ (by simpa using he), rfl⟩
  · exact ⟨h1, h2, h3, fun _ _ => rfl, rfl⟩

theorem voltageSettled_spec (hs : (s.die d).settling = true) (hw : (s.die d).wake = none) (h0 : s.get (.CORE_DIE_OP d) F.CORE_DIE_OP_STEP = 0)
    (hlt : s.get (.CORE_DIE_OP d) F.CORE_DIE_OP_CUR < s.get (.CORE_DIE_OP d) F.CORE_DIE_OP_TARGET) :
    ∃ t, exec (.voltageSettled d) s = .next t ∧ t.die d = { s.die d with settling := false } ∧
      t.get (.CORE_DIE_OP d) F.CORE_DIE_OP_STEP = 1 ∧ regsBut s t [.CORE_DIE_OP d] ∧ diesBut s t [d.val] ∧
      t = { s with regs := t.regs, dies := t.dies } := by
  have hx : exec (.voltageSettled d) s = execVoltageSettled d s := rfl
  refine ⟨(s.setDie d { s.die d with settling := false }).put (.CORE_DIE_OP d) F.CORE_DIE_OP_STEP 1, ?_, State.die_setDie_self ..,
    State.get_put_self (by decide) (by decide) .., regsBut_put (s.setDie d _) _ _ _, fun e he => State.die_setDie_ne _ _ _ _ (by simpa using he), rfl⟩
  rw [hx]
  unfold execVoltageSettled
  dsimp only
  rw [if_neg (by rw [hs]; decide)]
  exact if_pos ⟨hw, h0, hlt⟩

/-! ### Points that rise again, and rails that never settle (R418, R422) -/

theorem opRise_spec (hcap : s.get (.SCK_DIE d) F.SCK_DIE_OP_CAP + 1 < s.get (.SCK_DIE d) F.SCK_DIE_OP_REQ)
    (hl : s.get .SCK_LIMIT F.SCK_LIMIT_POWER_W * 100 ≤ effLimit s * 95) (ho : s.folio.power.outlet = 0) (ht : dieTemp s d ≤ 980)
    (hr : (s.die d).riseAt + 1000000 ≤ s.mtime + 1) :
    ∃ t, exec (.opRiseCheck d) s = .next t ∧ t.get (.SCK_DIE d) F.SCK_DIE_OP_CAP = s.get (.SCK_DIE d) F.SCK_DIE_OP_CAP + 1 ∧
      t.get (.SCK_DIE d) F.SCK_DIE_OP_REQ = s.get (.SCK_DIE d) F.SCK_DIE_OP_REQ ∧
      t.die d = { s.die d with riseAt := s.mtime + 1 } ∧ diesBut s t [d.val] ∧
      t = { s with regs := t.regs, dies := t.dies, flips := t.flips } := by
  have hreq := s.get_lt (.SCK_DIE d) F.SCK_DIE_OP_REQ
  let u := (s.setDie d { s.die d with riseAt := s.mtime + 1 }).put (.SCK_DIE d) F.SCK_DIE_OP_CAP (s.get (.SCK_DIE d) F.SCK_DIE_OP_CAP + 1)
  have hx : exec (.opRiseCheck d) s = .next (u.arrive 66) := by
    have hx : exec (.opRiseCheck d) s = execOpRiseCheck d s := rfl
    rw [hx]
    unfold execOpRiseCheck
    dsimp only
    rw [if_pos ⟨by omega, hl, .inl ho, ht, by omega⟩, if_neg (by omega)]
  have hk (f : Fld) : (u.arrive 66).get (.SCK_DIE d) f = u.get (.SCK_DIE d) f := congrArg (Fld.get f) (rd_arrive (noteKept_sckDie d.isLt).arrive ..)
  have hs : sameUnits u (u.arrive 66) := sameUnits_arrive ..
  have hdie (e : Nat) : (u.arrive 66).die e = u.die e := dies_of_settle (.of_sameUnits hs) e
  refine ⟨_, hx, ?_, ?_, ?_, fun e he => ?_, ?_⟩
  · rw [hk]
    exact (State.get_put_self (by decide) (by decide) ..).trans
      (Nat.mod_eq_of_lt (show s.get (.SCK_DIE d) F.SCK_DIE_OP_CAP + 1 < 4 by have : s.get (.SCK_DIE d) F.SCK_DIE_OP_REQ < 4 := hreq; omega))
  · rw [hk]
    exact State.get_put_apart (by decide) (by decide) (by decide) ..
  · rw [hdie]
    exact State.die_setDie_self ..
  · rw [hdie]
    exact State.die_setDie_ne _ _ _ _ (by simpa using he)
  · rw [hs]
    rfl

/-- A die whose rail does not settle, before its link's error. -/
def railGivenUp (s : State) (d : Fin 16) : State := setLinkState (endLadder (s.setDie d { s.die d with settling := false }) d) d 0

theorem refuseDie_of_new {s : State} {d : Nat} (hf : s.get (.FLT_DIE d) F.FLT_DIE_STATE ≠ 3) (hc : (s.die d).capOld = none) : refuseDie s d = s := by
  refine if_neg fun h => h.elim hf fun h => ?_
  rw [hc] at h
  exact Bool.false_ne_true h

theorem key_dlErr (d : Nat) : (Reg.DL_ERR d).key = 0xF00010000028 + d * 0x1000000 := by
  simp only [Reg.key]
  omega

theorem cdPg_spec (hw : (s.die d).wake = some 0) (hs : (s.die d).settling = true) (hc : (s.die d).capOld = none)
    (hf : s.get (.FLT_DIE d) F.FLT_DIE_STATE ≠ 3) :
    ∃ t, exec (.cdPgTimeout d) s = .next t ∧ t.die d = { s.die d with settling := false, wake := none } ∧ linkState t d = 0 ∧
      (t.rd (.DL_ERR d)).getLsbD 8 = true ∧ t.get (.SCK_DIE d) F.SCK_DIE_LADDER = 0 ∧
      t.get (.SCK_DIE d) F.SCK_DIE_STATE = s.get (.SCK_DIE d) F.SCK_DIE_STATE ∧ diesBut s t [d.val] := by
  have hlt := d.isLt
  have hk1 := key_dlStatus d
  have hk2 := key_dlErr d
  have hk3 := key_sckDie d
  have hk4 := key_fltDie d
  have hx : exec (.cdPgTimeout d) s = .next (refuseDie (linkErr (railGivenUp s d) d 8 3 3) d) := if_pos ⟨hw, hs⟩
  have hd : (railGivenUp s d).die d = { s.die d with settling := false, wake := none } := by
    refine (State.die_setDie_self ..).trans ?_
    rw [State.die_setDie_self]
  have hde : diesBut s (railGivenUp s d) [d.val] := fun e he =>
    (State.die_setDie_ne _ _ _ _ (by simpa using he)).trans (State.die_setDie_ne _ _ _ _ (by simpa using he))
  have hl : linkState (railGivenUp s d) d = 0 := State.get_put_self (by decide) (by decide) ..
  have hlad : (railGivenUp s d).get (.SCK_DIE d) F.SCK_DIE_LADDER = 0 :=
    (State.get_put_ne (by omega) ..).trans (State.get_put_self (by decide) (by decide) ..)
  have hst : (railGivenUp s d).get (.SCK_DIE d) F.SCK_DIE_STATE = s.get (.SCK_DIE d) F.SCK_DIE_STATE :=
    (State.get_put_ne (by omega) ..).trans (State.get_put_apart (by decide) (by decide) (by decide) ..)
  have hflt : (railGivenUp s d).get (.FLT_DIE d) F.FLT_DIE_STATE = s.get (.FLT_DIE d) F.FLT_DIE_STATE :=
    (State.get_put_ne (by omega) ..).trans (State.get_put_ne (by omega) ..)
  generalize railGivenUp s d = u at *
  have hu : sameUnits u (linkErr u d 8 3 3) := sameUnits_raise ..
  have hdie (e : Nat) : (linkErr u d 8 3 3).die e = u.die e := dies_of_settle (.of_sameUnits hu) e
  have hrd {r : Reg} (h : noteKept r) (hne : r.key ≠ (Reg.DL_ERR d).key) (f : Fld) : (linkErr u d 8 3 3).get r f = u.get r f :=
    congrArg (Fld.get f) (rd_raise_ne h hne _ _ (by decide) ..)
  have href : refuseDie (linkErr u d 8 3 3) d = linkErr u d 8 3 3 := by
    refine refuseDie_of_new ?_ ?_
    · rw [hrd ⟨by omega, by omega⟩ (by omega), hflt]
      exact hf
    · rw [hdie, hd]
      exact hc
  rw [href] at hx
  refine ⟨_, hx, ?_, ?_, ?_, ?_, ?_, fun e he => ?_⟩
  · rw [hdie, hd]
  · rw [linkState, hrd ⟨by omega, by omega⟩ (by omega)]
    exact hl
  · rw [linkErr, rd_raise ⟨by omega, by omega⟩ _ _ _ (by decide), State.rd_wr_self, BitVec.getLsbD_or, getLsbD_one_shift (by decide),
      decide_eq_true rfl, Bool.or_true]
  · rw [hrd (noteKept_sckDie d.isLt) (by omega), hlad]
  · rw [hrd (noteKept_sckDie d.isLt) (by omega), hst]
  · rw [hdie, hde e he]

theorem cdPg_waits (h : (s.die d).settling = false ∨ (s.die d).wake ≠ some 0) : exec (.cdPgTimeout d) s = .next s :=
  if_neg fun hc => h.elim (fun h => Bool.false_ne_true (h.symm.trans hc.2)) fun h => h hc.1

theorem opReqWrite_denied {who : Agent} {v : Word} (h : s.isHouse who = false ∨ s.bit (.SCK_DIE d) F.SCK_DIE_PINNED = true) :
    exec (.opReqWrite who d v) s = .next s :=
  if_neg fun hc => h.elim (fun h => Bool.false_ne_true (h.symm.trans hc.1)) fun h => hc.2 h

end Ramp

/-- Settles O32, by the fields of CORE_DIE_OP and SCK_DIE that each step writes. -/
theorem operatingPoints : Obligations.OperatingPoints :=
  ⟨fun _ _ _ hp hg hc hw hst => ⟨fun hlt => opChange_raises hp hg (by omega) hc hw hst hlt, fun hlt => opChange_ramps hp hg (by omega) hc hw hst hlt⟩,
    fun _ _ _ hp _ => if_pos (.inl hp), fun _ _ _ hp hg hne hc hw hst => opChange_delayed hp hg hne hc hw hst, fun _ _ h => opRamp_delayed h,
    fun _ _ => ⟨fun h => if_pos (by rw [h]; decide), fun h => cdPg_waits h, fun h _ => if_pos h⟩,
    fun _ _ hs hw h0 hlt => voltageSettled_spec hs hw h0 hlt, fun _ _ h1 h2 => (exec_opRampStep h1 false).trans (congrArg Host.Outcome.next (if_pos h2)),
    fun _ _ h => opRamp_ends h, fun _ _ _ _ hw hp => if_pos ⟨hw, by rw [hp]; decide⟩, fun _ _ _ _ h => opReqWrite_denied h,
    fun _ _ hcap hl ho ht hr => opRise_spec hcap hl ho ht hr, fun _ _ hr hl => if_pos ⟨hr, hl⟩, fun _ _ => rfl,
    fun _ _ hw hs hc hf => cdPg_spec hw hs hc hf⟩

end Sys2Proof.Machine
end

section
/-! SUPPORT. Telemetry, trips, the power limit and heat (O33) -/

namespace Sys2Proof.Machine

/-! ### What the recomputation of the targets keeps of trips and states -/

theorem key_sckErr : Reg.SCK_ERR.key = 0xF00008000030 := rfl

theorem key_sckInject : Reg.SCK_INJECT.key = 0xF00008000038 := rfl

/-- The trips of the package, the states and trips of the dies, the errors noted and the injection register, kept. -/
structure TripsKept (s t : State) : Prop where
  iod : t.power.iodTrip = s.power.iodTrip
  inlet : t.power.inletTrip = s.power.inletTrip
  state : ∀ d < 16, t.get (.SCK_DIE d) F.SCK_DIE_STATE = s.get (.SCK_DIE d) F.SCK_DIE_STATE
  trip : ∀ d < 16, t.get (.SCK_DIE d) F.SCK_DIE_TRIP = s.get (.SCK_DIE d) F.SCK_DIE_TRIP
  err : ∀ b, (s.rd .SCK_ERR).getLsbD b = true → (t.rd .SCK_ERR).getLsbD b = true
  inject : t.rd .SCK_INJECT = s.rd .SCK_INJECT

namespace TripsKept
variable {s t u : State}

theorem refl (s : State) : TripsKept s s := ⟨rfl, rfl, fun _ _ => rfl, fun _ _ => rfl, fun _ h => h, rfl⟩

theorem trans (h : TripsKept s t) (h' : TripsKept t u) : TripsKept s u :=
  ⟨h'.iod.trans h.iod, h'.inlet.trans h.inlet, fun d hd => (h'.state d hd).trans (h.state d hd), fun d hd => (h'.trip d hd).trans (h.trip d hd),
    fun b hb => h'.err b (h.err b hb), h'.inject.trans h.inject⟩

theorem of_units (hu : sameUnits s t) (hd : ∀ d < 16, t.rd (.SCK_DIE d) = s.rd (.SCK_DIE d))
    (he : ∀ b, (s.rd .SCK_ERR).getLsbD b = true → (t.rd .SCK_ERR).getLsbD b = true) (hi : t.rd .SCK_INJECT = s.rd .SCK_INJECT) : TripsKept s t :=
  ⟨by rw [hu], by rw [hu], fun d h => congrArg (Fld.get _) (hd d h), fun d h => congrArg (Fld.get _) (hd d h), he, hi⟩

theorem of_same (hu : sameUnits s t) (hd : ∀ d < 16, t.rd (.SCK_DIE d) = s.rd (.SCK_DIE d)) (he : t.rd .SCK_ERR = s.rd .SCK_ERR)
    (hi : t.rd .SCK_INJECT = s.rd .SCK_INJECT) : TripsKept s t := of_units hu hd (fun b hb => by rw [he]; exact hb) hi

theorem put (s : State) {r : Reg} (hd : ∀ d < 16, (Reg.SCK_DIE d).key ≠ r.key) (he : Reg.SCK_ERR.key ≠ r.key) (hi : Reg.SCK_INJECT.key ≠ r.key)
    (f : Fld) (n : Nat) : TripsKept s (s.put r f n) :=
  of_same (sameUnits_put ..) (fun d h => State.rd_put_ne (hd d h) ..) (State.rd_put_ne he ..) (State.rd_put_ne hi ..)

theorem putPkg (s : State) (f : Fld) (n : Nat) : TripsKept s (s.put .SCK_PKG f n) :=
  put s (fun d _ => by rw [key_sckDie, key_sckPkg]; omega) (by decide) (by decide) f n

theorem arrive (s : State) (n : Nat) : TripsKept s (s.arrive n) :=
  of_same (sameUnits_arrive ..) (fun d hd => rd_arrive (noteKept_sckDie hd).arrive ..) (rd_arrive ⟨by rw [key_sckErr]; omega, by rw [key_sckErr]; omega⟩ ..)
    (rd_arrive ⟨by rw [key_sckInject]; omega, by rw [key_sckInject]; omega⟩ ..)

theorem raise (s : State) {q : Reg} (hq : q = .SCK_ERR ∨ q = .ARC_ERR) (b : Nat) {cls : Nat} (hc : cls < 32) (u sev addr : Nat) :
    TripsKept s (s.raise q b cls u none sev addr) := by
  have hn : noteKept .SCK_ERR := noteKept_sck (by decide) (by decide)
  refine of_units (sameUnits_raise ..) (fun d hd => rd_raise_ne (noteKept_sckDie hd) ?_ _ _ hc ..) (fun i hi => ?_) ?_
  · rcases hq with rfl | rfl
    · rw [key_sckDie, key_sckErr]; omega
    · rw [key_sckDie, key_arcErr]; omega
  · rw [rd_raise hn _ _ _ hc]
    rcases hq with rfl | rfl
    · rw [State.rd_wr_self, BitVec.getLsbD_or, hi, Bool.true_or]
    · rw [State.rd_wr_ne _ _ _ _ (by decide)]
      exact hi
  · refine rd_raise_ne (noteKept_sck (by decide) (by decide)) ?_ _ _ hc ..
    rcases hq with rfl | rfl
    · decide
    · decide

theorem sckErr (s : State) (b sev : Nat) : TripsKept s (Machine.sckErr s b sev) := by
  unfold Machine.sckErr
  split
  · exact refl s
  · exact raise s (.inl rfl) _ (by split <;> decide) ..

theorem setVote (s : State) {p : Nat} (hp : p < 8) : TripsKept s (Machine.setVote s p) := by
  have hk : (Reg.SCK_VOTE p).key = 0xF00008000100 + p * 8 := by simp only [Reg.key]
  refine of_same (sameUnits_setVote s p) (fun d hd => rd_setVote (noteKept_sckDie hd).arrive ?_ s)
    (rd_setVote ⟨by rw [key_sckErr]; omega, by rw [key_sckErr]; omega⟩ ?_ s)
    (rd_setVote ⟨by rw [key_sckInject]; omega, by rw [key_sckInject]; omega⟩ (by rw [hk, key_sckInject]; omega) s)
  · rw [hk, key_sckDie]; omega
  · rw [hk, key_sckErr]; omega

theorem putTarget (s : State) : TripsKept s (Machine.putTarget s) := by
  unfold Machine.putTarget
  split
  · exact refl s
  · exact (putPkg ..).trans (arrive ..)

/-- A field of a die's record that neither its state nor its trip stands in. -/
theorem putDie (s : State) (d : Nat) {f : Fld} (hl : f.lo ≤ f.hi) (h1 : 1 < f.lo) (h2 : f.hi < 18) (n : Nat) : TripsKept s (s.put (.SCK_DIE d) f n) := by
  have hk {g : Fld} (hg : g.lo ≤ g.hi) (ha : g.hi < f.lo ∨ f.hi < g.lo) (e : Nat) : (s.put (.SCK_DIE d) f n).get (.SCK_DIE e) g = s.get (.SCK_DIE e) g := by
    by_cases he : e = d
    · subst he
      exact State.get_put_apart hl hg ha ..
    · exact State.get_put_ne (by rw [key_sckDie, key_sckDie]; omega) ..
  refine ⟨rfl, rfl, fun e _ => hk (by decide) (.inl (by omega)) e, fun e _ => hk (by decide) (.inr h2) e, fun b hb => ?_,
    State.rd_put_ne (by rw [key_sckInject, key_sckDie]; omega) ..⟩
  rw [State.rd_put_ne (by rw [key_sckErr, key_sckDie]; omega)]
  exact hb

theorem steerDie (s : State) {d : Nat} (hd : d < 16) : TripsKept s (Machine.steerDie s d) := by
  have h := ladderStep_steerDie s d
  refine ⟨by rw [h.same], by rw [h.same], fun e he => ?_, fun e he => ?_, fun b hb => ?_,
    h.rd _ (by rw [key_sckInject, key_sckDie]; omega) (by rw [key_sckInject, key_dlStatus]; omega) (by rw [key_sckInject, key_coreDieOp]; omega)⟩
  · by_cases hne : e = d
    · subst hne
      exact h.die _ (by decide) (by decide)
    · exact h.get_of_ne he hne _
  · by_cases hne : e = d
    · subst hne
      exact h.die _ (by decide) (by decide)
    · exact h.get_of_ne he hne _
  · rw [h.rd _ (by rw [key_sckErr, key_sckDie]; omega) (by rw [key_sckErr, key_dlStatus]; omega) (by rw [key_sckErr, key_coreDieOp]; omega)]
    exact hb

theorem aimDie (up : Bool) (s : State) {d : Nat} (hd : d < 16) : TripsKept s (Machine.aimDie up s d) := by
  have hr : TripsKept s (noteRefused s d) := by
    unfold noteRefused
    split
    · exact raise s (.inl rfl) _ (by decide) ..
    · exact refl s
  rw [aimDie_eq]
  refine TripsKept.trans ?_ (steerDie _ hd)
  exact ((hr.trans (putDie _ d (f := F.SCK_DIE_REFUSED) (by decide) (by decide) (by decide) _)).trans
    (putDie _ d (f := F.SCK_DIE_CMD) (by decide) (by decide) (by decide) _)).trans (putDie _ d (f := F.SCK_DIE_TARGET) (by decide) (by decide) (by decide) _)

theorem noteHeld (old : List Nat) (s : State) (b : Nat) : TripsKept s (Machine.noteHeld old s b) := by
  unfold Machine.noteHeld
  split
  · exact (sckErr ..).trans (raise _ (.inr rfl) _ (by decide) ..)
  · exact refl s

theorem setBlockState (s : State) (b n : Nat) : TripsKept s (Machine.setBlockState s b n) := by
  have hp : (Machine.setBlockState s b n).power.iodTrip = s.power.iodTrip ∧ (Machine.setBlockState s b n).power.inletTrip = s.power.inletTrip := by
    unfold Machine.setBlockState
    dsimp only
    split
    · split
      · exact ⟨rfl, rfl⟩
      · exact ⟨rfl, rfl⟩
    · split
      · split
        · exact ⟨rfl, rfl⟩
        · exact ⟨rfl, rfl⟩
      · exact ⟨rfl, rfl⟩
  have hr {r : Reg} (h : r.key ≠ Reg.SCK_IOD_STATE.key) : (Machine.setBlockState s b n).rd r = s.rd r := rd_setBlockState h s b n
  have hd (d : Nat) (_ : d < 16) := hr (r := .SCK_DIE d) (by rw [key_sckDie, key_iodState]; omega)
  refine ⟨hp.1, hp.2, fun d h => congrArg (Fld.get _) (hd d h), fun d h => congrArg (Fld.get _) (hd d h), fun i hi => ?_,
    hr (by decide)⟩
  rw [hr (by decide)]
  exact hi

theorem overAll {α : Type} {g : State → α → State} (l : List α) (h : ∀ s, ∀ a ∈ l, TripsKept s (g s a)) (s : State) : TripsKept s (overAll l g s) :=
  overAll_inv (P := TripsKept s) (fun t a ha ht => ht.trans (h t a ha)) (refl s)

theorem lowerBlocks (s : State) : TripsKept s (Machine.lowerBlocks s) := by
  unfold Machine.lowerBlocks
  dsimp only
  refine overAll _ (fun t b _ => ?_) s
  split
  · exact refl t
  · split
    · exact setBlockState ..
    · split
      · exact setBlockState ..
      · exact refl t

theorem updatePkg (s : State) : TripsKept s (Machine.updatePkg s) :=
  of_same (sameUnits_updatePkg s) (fun d hd => rd_updatePkg (noteKept_sckDie hd).arrive (by rw [key_sckDie]; omega) s)
    (rd_updatePkg ⟨by rw [key_sckErr]; omega, by rw [key_sckErr]; omega⟩ (by rw [key_sckErr]; omega) s)
    (rd_updatePkg ⟨by rw [key_sckInject]; omega, by rw [key_sckInject]; omega⟩ (by rw [key_sckInject]; omega) s)

theorem retarget (s : State) : TripsKept s (Machine.retarget s) := by
  have h1 : TripsKept s (Machine.overAll (List.range 8) Machine.setVote s) := overAll _ (fun t p hp => setVote t (List.mem_range.mp hp)) s
  by_cases h3 : (Machine.overAll (List.range 8) Machine.setVote s).get .SCK_PKG F.SCK_PKG_STATE = 3
  · have ht : Machine.retarget s = Machine.overAll (List.range 8) Machine.setVote s := by
      rw [Machine.retarget]
      exact if_pos h3
    rw [ht]
    exact h1
  · obtain ⟨n, up, old, ht⟩ := retarget_eq s h3
    rw [ht]
    refine (((((h1.trans (putTarget _)).trans ((putPkg ..).trans (putPkg ..))).trans (((putPkg ..).trans (putPkg ..)).trans (putPkg ..))).trans
      (overAll _ (fun t d hd => aimDie up t (List.mem_range.mp hd)) _)).trans
      (overAll _ (fun t b _ => noteHeld old t b) _)).trans ((lowerBlocks _).trans (updatePkg _))

end TripsKept

/-! ### Telemetry (R409, R432) -/

theorem key_sckDieTel (d : Nat) : (Reg.SCK_DIE_TEL d).key = 0xF00008000208 + d * 0x10 := by simp only [Reg.key]

theorem key_sckSuit (k : Nat) : (Reg.SCK_SUIT k).key = 0xF00008000040 + k * 8 := by simp only [Reg.key]

section Telemetry
variable {d : Fin 16} {r : Telem} {s : State} (hst : s.get (.SCK_DIE d) F.SCK_DIE_STATE ≤ 1)
include hst

/-- Whether the next record of the die is discarded. -/
def telemDropped (s : State) (d : Nat) : Prop := s.bit .SCK_INJECT F.SCK_INJECT_TELEM = true ∧ s.get .SCK_INJECT F.SCK_INJECT_DIE = d

/-- Whether the die's record is read as 105.0 °C. -/
def telemTrips (s : State) (d : Nat) : Bool := s.bit .SCK_INJECT F.SCK_INJECT_TRIP && decide (s.get .SCK_INJECT F.SCK_INJECT_DIE = d)

/-- A record stored, read as `tj`. -/
def telemStored (s : State) (d : Nat) (r : Telem) (tj : Nat) : State :=
  let s := ((s.put (.SCK_DIE_TEL d) F.SCK_DIE_TEL_VOLT r.volt.toNat).put (.SCK_DIE_TEL d) F.SCK_DIE_TEL_CURRENT r.current.toNat).put (.SCK_DIE_TEL d) F.SCK_DIE_TEL_TJ tj
  let s := s.setDie d { s.die d with telAt := s.mtime, telLost := false }
  s.put (.SCK_SUIT (d / 4)) F.SCK_SUIT_TJ_MAX (suitTemp s (d / 4))

/-- A record discarded. -/
def telemSkipped (s : State) (d : Nat) : State :=
  let s := mgmtSend s d 26
  let n := s.power.telemDrop - 1
  let s := { s with power := { s.power with telemDrop := n } }
  if n = 0 then s.put .SCK_INJECT F.SCK_INJECT_TELEM 0 else s

theorem telem_dropped (hi : telemDropped s d) : ∃ t, exec (.telemetryRecord d r) s = .next t ∧ t.power = { s.power with telemDrop := s.power.telemDrop - 1 } ∧
      t.points = (mgmtSend s d 26).points ∧ regsBut s t [.SCK_INJECT] ∧ t = { s with regs := t.regs, power := t.power, points := t.points } := by
  have hx : exec (.telemetryRecord d r) s = execTelemetryRecord d r s := rfl
  rw [hx]
  unfold execTelemetryRecord
  dsimp only
  rw [if_neg (by omega)]
  refine ⟨telemSkipped s d, if_pos hi, ?_⟩
  unfold telemSkipped
  dsimp only
  split
  · exact ⟨rfl, rfl, regsBut_put s _ _ _, rfl⟩
  · exact ⟨rfl, rfl, fun _ _ => rfl, rfl⟩

theorem exec_telemetryRecord (hi : ¬ telemDropped s d) : exec (.telemetryRecord d r) s = .next (
    telemStored (if telemTrips s d then (mgmtSend s d 26).put .SCK_INJECT F.SCK_INJECT_TRIP 0 else mgmtSend s d 26) d r
      (if telemTrips s d then 1050 else r.tj.toNat)) := by
  have hx : exec (.telemetryRecord d r) s = execTelemetryRecord d r s := rfl
  rw [hx]
  unfold execTelemetryRecord
  dsimp only
  rw [if_neg (by omega)]
  exact if_neg hi

omit hst in
theorem telemStored_spec (s : State) (d : Fin 16) (r : Telem) {tj : Nat} (ht : tj < 2 ^ 16) :
    (telemStored s d r tj).get (.SCK_DIE_TEL d) F.SCK_DIE_TEL_TJ = tj ∧ (telemStored s d r tj).get (.SCK_DIE_TEL d) F.SCK_DIE_TEL_CURRENT = r.current.toNat ∧
    (telemStored s d r tj).get (.SCK_DIE_TEL d) F.SCK_DIE_TEL_VOLT = r.volt.toNat ∧
    (telemStored s d r tj).die d = { s.die d with telAt := s.mtime, telLost := false } ∧ diesBut s (telemStored s d r tj) [d.val] ∧
    regsBut s (telemStored s d r tj) [.SCK_DIE_TEL d, .SCK_SUIT (d.val / 4)] ∧
    telemStored s d r tj = { s with regs := (telemStored s d r tj).regs, dies := (telemStored s d r tj).dies } := by
  have hne : (Reg.SCK_DIE_TEL d).key ≠ (Reg.SCK_SUIT (d / 4)).key := by rw [key_sckDieTel, key_sckSuit]; omega
  have hv := r.volt.isLt
  have hc := r.current.isLt
  let a := ((s.put (.SCK_DIE_TEL d) F.SCK_DIE_TEL_VOLT r.volt.toNat).put (.SCK_DIE_TEL d) F.SCK_DIE_TEL_CURRENT r.current.toNat).put
    (.SCK_DIE_TEL d) F.SCK_DIE_TEL_TJ tj
  have h1 : a.get (.SCK_DIE_TEL d) F.SCK_DIE_TEL_TJ = tj := (State.get_put_self (by decide) (by decide) ..).trans (Nat.mod_eq_of_lt ht)
  have h2 : a.get (.SCK_DIE_TEL d) F.SCK_DIE_TEL_CURRENT = r.current.toNat :=
    (State.get_put_apart (by decide) (by decide) (by decide) ..).trans ((State.get_put_self (by decide) (by decide) ..).trans (Nat.mod_eq_of_lt hc))
  have h3 : a.get (.SCK_DIE_TEL d) F.SCK_DIE_TEL_VOLT = r.volt.toNat :=
    (State.get_put_apart (by decide) (by decide) (by decide) ..).trans ((State.get_put_apart (by decide) (by decide) (by decide) ..).trans
      ((State.get_put_self (by decide) (by decide) ..).trans (Nat.mod_eq_of_lt hv)))
  have h4 : regsBut s a [.SCK_DIE_TEL d, .SCK_SUIT (d.val / 4)] :=
    (((regsBut_put _ _ _ _).trans (regsBut_put _ _ _ _)).trans (regsBut_put _ _ _ _)).mono (l' := [.SCK_DIE_TEL d, .SCK_SUIT (d.val / 4)]) (by simp)
  have hx : telemStored s d r tj = (a.setDie d { s.die d with telAt := s.mtime, telLost := false }).put (.SCK_SUIT (d / 4)) F.SCK_SUIT_TJ_MAX
      (suitTemp (a.setDie d { s.die d with telAt := s.mtime, telLost := false }) (d / 4)) := rfl
  have ha : a = { s with regs := a.regs } := rfl
  rw [hx]
  clear_value a
  refine ⟨(State.get_put_ne hne ..).trans h1, (State.get_put_ne hne ..).trans h2, (State.get_put_ne hne ..).trans h3, State.die_setDie_self .., fun e he => ?_, ?_, ?_⟩
  · refine (State.die_setDie_ne _ _ _ _ (by simpa using he)).trans ?_
    rw [ha]
    rfl
  · exact h4.trans ((regsBut_put (a.setDie d _) (.SCK_SUIT (d / 4)) _ _).mono (by simp))
  · rw [ha]
    rfl

theorem telem_stored (hi : s.bit .SCK_INJECT F.SCK_INJECT_TELEM = false ∨ s.get .SCK_INJECT F.SCK_INJECT_DIE ≠ d.val) :
    ∃ t, exec (.telemetryRecord d r) s = .next t ∧
      t.get (.SCK_DIE_TEL d) F.SCK_DIE_TEL_TJ = (if s.bit .SCK_INJECT F.SCK_INJECT_TRIP && s.get .SCK_INJECT F.SCK_INJECT_DIE == d.val
        then 1050 else r.tj.toNat) ∧
      t.get (.SCK_DIE_TEL d) F.SCK_DIE_TEL_CURRENT = r.current.toNat ∧ t.get (.SCK_DIE_TEL d) F.SCK_DIE_TEL_VOLT = r.volt.toNat ∧
      t.die d = { s.die d with telAt := s.mtime, telLost := false } ∧ diesBut s t [d.val] ∧
      regsBut s t [.SCK_DIE_TEL d, .SCK_SUIT (d.val / 4), .SCK_INJECT] ∧ t.points = (mgmtSend s d 26).points ∧
      t = { s with regs := t.regs, dies := t.dies, points := t.points } := by
  have hno : ¬ telemDropped s d := fun ⟨h1, h2⟩ => hi.elim (fun h => Bool.false_ne_true (h.symm.trans h1)) fun h => h h2
  have hx := exec_telemetryRecord (r := r) hst hno
  have hb : telemTrips s d = (s.bit .SCK_INJECT F.SCK_INJECT_TRIP && s.get .SCK_INJECT F.SCK_INJECT_DIE == d.val) := rfl
  let u := if telemTrips s d then (mgmtSend s d 26).put .SCK_INJECT F.SCK_INJECT_TRIP 0 else mgmtSend s d 26
  have hu : u = { s with regs := u.regs, points := (mgmtSend s d 26).points } := by
    unfold u
    split
    · rfl
    · rfl
  have hur : regsBut s u [.SCK_INJECT] := by
    unfold u
    split
    · exact regsBut_put s _ _ _
    · exact fun _ _ => rfl
  have htj : (if telemTrips s d then 1050 else r.tj.toNat) < 2 ^ 16 := by
    split
    · decide
    · exact r.tj.isLt
  obtain ⟨h1, h2, h3, h4, h5, h6, h7⟩ := telemStored_spec u d r htj
  rw [show (if telemTrips s d then (mgmtSend s d 26).put .SCK_INJECT F.SCK_INJECT_TRIP 0 else mgmtSend s d 26) = u from rfl] at hx
  clear_value u
  have hdie (e : Nat) : u.die e = s.die e := by
    rw [hu]
    rfl
  have hm : u.mtime = s.mtime := by
    rw [hu]
    rfl
  refine ⟨_, hx, ?_, h2, h3, ?_, fun e he => ?_, ?_, ?_, ?_⟩
  · rw [h1, hb]
  · rw [h4, hdie, hm]
  · rw [h5 e he, hdie]
  · exact (hur.mono (by simp)).trans (h6.mono (by simp))
  · rw [h7, hu]
  · rw [h7, hu]

end Telemetry

/-! ### Trips (R410, R420) -/

theorem err_raise (s : State) {b cls : Nat} (hb : b < 64) (hc : cls < 32) (u sev addr : Nat) :
    ((s.raise .SCK_ERR b cls u none sev addr).rd .SCK_ERR).getLsbD b = true := by
  rw [rd_raise (noteKept_sck (by decide) (by decide)) _ _ _ hc, State.rd_wr_self, BitVec.getLsbD_or, getLsbD_one_shift hb, decide_eq_true rfl, Bool.or_true]

theorem get_sckDie_raise (s : State) (d : Fin 16) (f : Fld) (b : Nat) {cls : Nat} (hc : cls < 32) (u sev addr : Nat) :
    (s.raise .SCK_ERR b cls u none sev addr).get (.SCK_DIE d) f = s.get (.SCK_DIE d) f :=
  congrArg (Fld.get f) (rd_raise_ne (noteKept_sckDie d.isLt) (by rw [key_sckDie, key_sckErr]; omega) _ _ hc ..)

section Trips
variable {d : Fin 16} {s : State}

theorem telemetryLost_spec (ht : (s.die d).telAt + 3000 < s.mtime) (hst : s.get (.SCK_DIE d) F.SCK_DIE_STATE ≤ 1) (hl : (s.die d).telLost = false) :
    ∃ t, exec (.telemetryLost d) s = .next t ∧ t.die d = { s.die d with telLost := true } ∧ dieTemp t d = 1000 ∧
      (t.rd .SCK_ERR).getLsbD 7 = true ∧ diesBut s t [d.val] ∧ t = { s with regs := t.regs, dies := t.dies, flips := t.flips } := by
  let u := s.setDie d { s.die d with telLost := true }
  have hu : sameUnits u (u.raise .SCK_ERR 7 27 0x2800 none 1 0) := sameUnits_raise ..
  have hdie (e : Nat) : (u.raise .SCK_ERR 7 27 0x2800 none 1 0).die e = u.die e := dies_of_settle (.of_sameUnits hu) e
  have hself : u.die d = { s.die d with telLost := true } := State.die_setDie_self ..
  refine ⟨u.raise .SCK_ERR 7 27 0x2800 none 1 0, if_pos ⟨ht, hst, by rw [hl]; decide⟩, ?_, ?_, err_raise _ (by decide) (by decide) .., fun e he => ?_, ?_⟩
  · rw [hdie, hself]
  · unfold dieTemp
    rw [hdie, hself]
    exact if_pos rfl
  · rw [hdie]
    exact State.die_setDie_ne _ _ _ _ (by simpa using he)
  · rw [hu]
    rfl

/-- A die marked as throttled, and the error noted. -/
def throttled (s : State) (d : Nat) : State := (s.put (.SCK_DIE d) F.SCK_DIE_THROTTLE 1).raise .SCK_ERR 3 26 0x2800 none 1 0

theorem throttled_spec (s : State) (d : Fin 16) : (throttled s d).bit (.SCK_DIE d) F.SCK_DIE_THROTTLE = true ∧
    ((throttled s d).rd .SCK_ERR).getLsbD 3 = true ∧ (throttled s d).get (.SCK_DIE d) F.SCK_DIE_OP_CAP = s.get (.SCK_DIE d) F.SCK_DIE_OP_CAP ∧
    pointOf (throttled s d) d = pointOf s d ∧ sameUnits s (throttled s d) := by
  have hk (f : Fld) : (throttled s d).get (.SCK_DIE d) f = (s.put (.SCK_DIE d) F.SCK_DIE_THROTTLE 1).get (.SCK_DIE d) f :=
    get_sckDie_raise _ d f 3 (by decide) ..
  have ha {f : Fld} (hl : f.lo ≤ f.hi) (h : f.hi < 19) : (throttled s d).get (.SCK_DIE d) f = s.get (.SCK_DIE d) f :=
    (hk f).trans (State.get_put_apart (by decide) hl (.inl h) ..)
  refine ⟨?_, err_raise _ (by decide) (by decide) .., ha (by decide) (by decide), ?_, (sameUnits_put ..).trans (sameUnits_raise ..)⟩
  · unfold State.bit
    rw [hk, State.get_put_self (by decide) (by decide)]
    rfl
  · unfold pointOf State.bit
    dsimp only
    rw [ha (by decide) (by decide), ha (by decide) (by decide), ha (by decide) (by decide)]

theorem lowerDie_spec (s : State) (d : Fin 16) : (lowerDie s d).get (.SCK_DIE d) F.SCK_DIE_OP_CAP = pointOf s d - 1 ∧
    (∀ f : Fld, f.lo ≤ f.hi → f.hi < 10 ∨ 11 < f.lo → (lowerDie s d).get (.SCK_DIE d) f = s.get (.SCK_DIE d) f) ∧
    (∀ r : Reg, arriveKept r → r.key ≠ (Reg.SCK_DIE d).key → (lowerDie s d).rd r = s.rd r) ∧ sameUnits s (lowerDie s d) := by
  have hk (f : Fld) : (lowerDie s d).get (.SCK_DIE d) f = (s.put (.SCK_DIE d) F.SCK_DIE_OP_CAP (pointOf s d - 1)).get (.SCK_DIE d) f :=
    congrArg (Fld.get f) (rd_arrive (noteKept_sckDie d.isLt).arrive ..)
  have hp : pointOf s d < 4 := by
    have h1 := s.get_lt (.SCK_DIE d) F.SCK_DIE_OP_REQ
    have h2 := s.get_lt (.SCK_DIE d) F.SCK_DIE_OP_CAP
    unfold pointOf
    dsimp only
    split
    · exact h1
    · exact lt_of_le_of_lt (Nat.min_le_left ..) h1
  refine ⟨?_, fun f hl h => ?_, fun r hr hne => ?_, (sameUnits_put ..).trans (sameUnits_arrive ..)⟩
  · rw [hk, State.get_put_self (by decide) (by decide)]
    exact Nat.mod_eq_of_lt (show pointOf s d - 1 < 4 by omega)
  · rw [hk]
    exact State.get_put_apart (by decide) hl h ..
  · exact (rd_arrive hr ..).trans (State.rd_put_ne hne ..)

theorem thermalThrottle_spec (ho : openDie s d = true) (ht : 1000 ≤ dieTemp s d) (hst : s.get (.SCK_DIE d) F.SCK_DIE_STATE ≤ 1) :
    ∃ t, exec (.thermalThrottle d) s = .next t ∧ t.bit (.SCK_DIE d) F.SCK_DIE_THROTTLE = true ∧ (t.rd .SCK_ERR).getLsbD 3 = true ∧
      t.get (.SCK_DIE d) F.SCK_DIE_OP_CAP = (if 0 < pointOf s d then pointOf s d - 1 else s.get (.SCK_DIE d) F.SCK_DIE_OP_CAP) ∧
      t = { s with regs := t.regs, flips := t.flips } := by
  obtain ⟨h1, h2, h3, h4, h5⟩ := throttled_spec s d
  have hx : exec (.thermalThrottle d) s = .next (if 0 < pointOf (throttled s d) d then lowerDie (throttled s d) d else throttled s d) := if_pos ⟨ho, ht, hst⟩
  rw [h4] at hx
  refine ⟨_, hx, ?_⟩
  generalize throttled s d = u at *
  obtain ⟨l1, l2, l3, l4⟩ := lowerDie_spec u d
  split
  · refine ⟨?_, ?_, l1.trans (by rw [h4]), h5.trans l4⟩
    · unfold State.bit
      rw [l2 _ (by decide) (by decide)]
      exact h1
    · rw [l3 _ ⟨by rw [key_sckErr]; omega, by rw [key_sckErr]; omega⟩ (by rw [key_sckErr, key_sckDie]; omega)]
      exact h2
  · exact ⟨h1, h2, h3, h5⟩

theorem forcePass_spec (s : State) {d : Nat} (hd : d < 16) : (forcePass s d).get (.SCK_DIE d) F.SCK_DIE_STATE = max 1 (s.get (.SCK_DIE d) F.SCK_DIE_STATE) ∧
    (∀ f : Fld, f.lo ≤ f.hi → 1 < f.lo → (forcePass s d).get (.SCK_DIE d) f = s.get (.SCK_DIE d) f) ∧
    (∀ r : Reg, arriveKept r → r.key ≠ (Reg.SCK_DIE d).key → (forcePass s d).rd r = s.rd r) ∧ sameUnits s (forcePass s d) := by
  unfold forcePass
  split
  · next h =>
    refine ⟨?_, fun f hl h => get_setDiePower_apart s ⟨d, hd⟩ 1 hl h, fun r hr hne => rd_setDiePower hr hne s 1, sameUnits_setDiePower ..⟩
    rw [h]
    exact get_setDiePower_self s hd (by decide)
  · next h => exact ⟨(Nat.max_eq_right (by omega)).symm, fun _ _ _ => rfl, fun _ _ _ => rfl, sameUnits_refl s⟩

/-- With the package not in Out the recomputation leaves a target of Pass or deeper for a die that is tripped, or under a trip of the package. -/
theorem target_retarget {s : State} (h3 : s.get .SCK_PKG F.SCK_PKG_STATE ≠ 3) (d : Fin 16)
    (ht : s.bit (.SCK_DIE d) F.SCK_DIE_TRIP = true ∨ iodForced s = true) : 1 ≤ (retarget s).get (.SCK_DIE d) F.SCK_DIE_TARGET := by
  rw [(retargeted h3).die d d.isLt]
  unfold dieTarget
  split
  · decide
  · simp only [ht, if_true]
    exact Nat.le_max_right ..

/-- A die marked as tripped, and the error noted. -/
def tripNoted (s : State) (d : Nat) : State := (s.put (.SCK_DIE d) F.SCK_DIE_TRIP 1).raise .SCK_ERR 2 26 0x2800 none 1 0

theorem get_sckPkg_raise (s : State) (f : Fld) (b : Nat) {cls : Nat} (hc : cls < 32) (u sev addr : Nat) :
    (s.raise .SCK_ERR b cls u none sev addr).get .SCK_PKG f = s.get .SCK_PKG f :=
  congrArg (Fld.get f) (rd_raise_ne noteKept_sckPkg (by decide) _ _ hc ..)

theorem dieTrip_spec (ht : 1050 ≤ s.get (.SCK_DIE_TEL d) F.SCK_DIE_TEL_TJ) (hn : s.bit (.SCK_DIE d) F.SCK_DIE_TRIP = false)
    (h3 : s.get .SCK_PKG F.SCK_PKG_STATE ≠ 3) :
    ∃ t, exec (.dieTrip d) s = .next t ∧ t.bit (.SCK_DIE d) F.SCK_DIE_TRIP = true ∧ (t.rd .SCK_ERR).getLsbD 2 = true ∧
      t.get (.SCK_DIE d) F.SCK_DIE_STATE = max 1 (s.get (.SCK_DIE d) F.SCK_DIE_STATE) ∧ 1 ≤ t.get (.SCK_DIE d) F.SCK_DIE_TARGET := by
  have hlt := d.isLt
  have hx : exec (.dieTrip d) s = .next (retarget (forcePass (tripNoted s d) d)) := if_pos ⟨ht, by rw [hn]; decide⟩
  have hk (f : Fld) : (tripNoted s d).get (.SCK_DIE d) f = (s.put (.SCK_DIE d) F.SCK_DIE_TRIP 1).get (.SCK_DIE d) f := get_sckDie_raise _ d f 2 (by decide) ..
  have ht1 : (tripNoted s d).get (.SCK_DIE d) F.SCK_DIE_TRIP = 1 := (hk _).trans (State.get_put_self (by decide) (by decide) ..)
  have hs1 : (tripNoted s d).get (.SCK_DIE d) F.SCK_DIE_STATE = s.get (.SCK_DIE d) F.SCK_DIE_STATE :=
    (hk _).trans (State.get_put_apart (by decide) (by decide) (by decide) ..)
  have he1 : ((tripNoted s d).rd .SCK_ERR).getLsbD 2 = true := err_raise _ (by decide) (by decide) ..
  have hp1 : (tripNoted s d).get .SCK_PKG F.SCK_PKG_STATE = s.get .SCK_PKG F.SCK_PKG_STATE :=
    (get_sckPkg_raise _ _ 2 (by decide) ..).trans (State.get_put_ne (by rw [key_sckPkg, key_sckDie]; omega) ..)
  generalize tripNoted s d = u at *
  obtain ⟨f1, f2, f3, -⟩ := forcePass_spec u hlt
  have hp2 : (forcePass u d).get .SCK_PKG F.SCK_PKG_STATE ≠ 3 := by
    rw [State.get, f3 _ noteKept_sckPkg.arrive (by rw [key_sckPkg, key_sckDie]; omega)]
    exact fun h => h3 (hp1.symm.trans h)
  have ht2 : (forcePass u d).get (.SCK_DIE d) F.SCK_DIE_TRIP = 1 := (f2 _ (by decide) (by decide)).trans ht1
  have he2 : ((forcePass u d).rd .SCK_ERR).getLsbD 2 = true := by
    rw [f3 _ ⟨by rw [key_sckErr]; omega, by rw [key_sckErr]; omega⟩ (by rw [key_sckErr, key_sckDie]; omega)]
    exact he1
  have hr := TripsKept.retarget (forcePass u d)
  have hbit {v : State} (h : v.get (.SCK_DIE d) F.SCK_DIE_TRIP = 1) : v.bit (.SCK_DIE d) F.SCK_DIE_TRIP = true := by
    unfold State.bit
    rw [h]
    rfl
  exact ⟨_, hx, hbit ((hr.trip d hlt).trans ht2), hr.err 2 he2, (hr.state d hlt).trans (f1.trans (by rw [hs1])), target_retarget hp2 d (.inl (hbit ht2))⟩

theorem dieRelease_spec (ht : s.bit (.SCK_DIE d) F.SCK_DIE_TRIP = true) (hc : s.get (.SCK_DIE_TEL d) F.SCK_DIE_TEL_TJ ≤ 950) :
    ∃ t, exec (.tripRelease (.die d)) s = .next t ∧ t.bit (.SCK_DIE d) F.SCK_DIE_TRIP = false := by
  refine ⟨retarget (s.put (.SCK_DIE d) F.SCK_DIE_TRIP 0), if_pos ⟨ht, hc⟩, ?_⟩
  unfold State.bit
  rw [(TripsKept.retarget _).trip d d.isLt, State.get_put_self (by decide) (by decide)]
  rfl

theorem dieRelease_waits (h : s.bit (.SCK_DIE d) F.SCK_DIE_TRIP = false ∨ 950 < s.get (.SCK_DIE_TEL d) F.SCK_DIE_TEL_TJ) :
    exec (.tripRelease (.die d)) s = .next s :=
  if_neg fun hc => h.elim (fun h => Bool.false_ne_true (h.symm.trans hc.1)) fun h => absurd hc.2 (by omega)

end Trips

/-- Every die that was in Play is in Pass. -/
def allPassed (s : State) : State := overAll (List.range 16) forcePass s

theorem allPassed_spec (s : State) : (∀ d : Fin 16, 1 ≤ (allPassed s).get (.SCK_DIE d) F.SCK_DIE_STATE) ∧
    (∀ r : Reg, arriveKept r → (∀ d < 16, r.key ≠ (Reg.SCK_DIE d).key) → (allPassed s).rd r = s.rd r) ∧ sameUnits s (allPassed s) := by
  have hf (t : State) (e : Nat) (he : e ∈ List.range 16) := forcePass_spec t (List.mem_range.mp he)
  refine ⟨fun d => ?_, fun r hr hne => overAll_keeps_mem (g := fun t : State => t.rd r) (fun t e he => (hf t e he).2.2.1 r hr (hne e (List.mem_range.mp he))) s, ?_⟩
  · have h := overAll_each (l := List.range 16) (step := forcePass) (read := fun t e => t.get (.SCK_DIE e) F.SCK_DIE_STATE)
      (val := fun t e => max 1 (t.get (.SCK_DIE e) F.SCK_DIE_STATE)) List.nodup_range (fun t e he => (hf t e he).1)
      (fun t e he b hb hne => congrArg (Fld.get _) ((hf t e he).2.2.1 _ (noteKept_sckDie (List.mem_range.mp hb)).arrive
        (by rw [key_sckDie, key_sckDie]; omega)))
      (fun t e he b hb hne => congrArg (fun w => max 1 (Fld.get _ w)) ((hf t e he).2.2.1 _ (noteKept_sckDie (List.mem_range.mp hb)).arrive
        (by rw [key_sckDie, key_sckDie]; omega))) s (List.mem_range.mpr d.isLt)
    have h' : (allPassed s).get (.SCK_DIE d) F.SCK_DIE_STATE = max 1 (s.get (.SCK_DIE d) F.SCK_DIE_STATE) := h
    rw [h']
    exact Nat.le_max_left ..
  · exact overAll_inv (P := sameUnits s) (fun t e he ht => ht.trans (hf t e he).2.2.2) (sameUnits_refl s)

/-- The package's trip noted, and the holds that it preempts. -/
def iodTripNoted (s : State) (cause : TripCause) : State :=
  let p := s.power
  let s := { s with power := (match cause with
    | .iodSensor => { p with iodTrip := true }
    | .inlet => { p with inletTrip := true }) }
  let s := s.raise .SCK_ERR 2 26 0x2800 none 1 0
  let held := (List.range 33).filter (fun b => isHeld s b && blockState s b == 0)
  if held = [] then s
  else
    let m := held.foldl (fun n b => n + 2 ^ b) 0
    let s := s.wr .ARC_PREEMPT (s.rd .ARC_PREEMPT ||| BitVec.ofNat 64 m)
    { s with power := { s.power with preempt := some s.mtime } }

theorem iodTrip_eq (s : State) (cause : TripCause) : iodTrip s cause = retarget (allPassed (iodTripNoted s cause)) := rfl

/-- The package's trip and its error. -/
def iodTripped (s : State) (cause : TripCause) : State :=
  let p := s.power
  let s := { s with power := (match cause with
    | .iodSensor => { p with iodTrip := true }
    | .inlet => { p with inletTrip := true }) }
  s.raise .SCK_ERR 2 26 0x2800 none 1 0

/-- What the trip of the package notes, beside registers apart from it. -/
structure TripNoted (s t : State) (cause : TripCause) : Prop where
  iod : cause = .iodSensor → t.power.iodTrip = true
  inlet : cause = .inlet → t.power.inletTrip = true
  err : (t.rd .SCK_ERR).getLsbD 2 = true
  rd : ∀ r : Reg, noteKept r → r.key ≠ Reg.SCK_ERR.key → r.key ≠ Reg.ARC_PREEMPT.key → t.rd r = s.rd r

theorem tripNoted_iodTripped (s : State) (cause : TripCause) : TripNoted s (iodTripped s cause) cause := by
  unfold iodTripped
  dsimp only
  generalize hu : ({ s with power := (match cause with
    | .iodSensor => { s.power with iodTrip := true }
    | .inlet => { s.power with inletTrip := true }) } : State) = u
  have hr : u.regs = s.regs := by rw [← hu]
  have hs : sameUnits u (u.raise .SCK_ERR 2 26 0x2800 none 1 0) := sameUnits_raise ..
  refine ⟨fun h => ?_, fun h => ?_, err_raise _ (by decide) (by decide) .., fun r hn h1 _ => ?_⟩
  · rw [hs, ← hu, h]
  · rw [hs, ← hu, h]
  · rw [rd_raise_ne hn h1 _ _ (by decide)]
    unfold State.rd
    rw [hr]

theorem tripNoted_iodTripNoted (s : State) (cause : TripCause) : TripNoted s (iodTripNoted s cause) cause := by
  have h := tripNoted_iodTripped s cause
  have hx : iodTripNoted s cause = (
      let s := iodTripped s cause
      let held := (List.range 33).filter (fun b => isHeld s b && blockState s b == 0)
      if held = [] then s
      else
        let m := held.foldl (fun n b => n + 2 ^ b) 0
        let s := s.wr .ARC_PREEMPT (s.rd .ARC_PREEMPT ||| BitVec.ofNat 64 m)
        { s with power := { s.power with preempt := some s.mtime } }) := rfl
  rw [hx]
  generalize iodTripped s cause = u at h
  dsimp only
  split
  · exact h
  · obtain ⟨h1, h2, h3, h4⟩ := h
    refine ⟨h1, h2, ?_, fun r hn hr hp => ?_⟩
    · refine Eq.trans (congrArg (fun w : Word => w.getLsbD 2) (State.rd_wr_ne u .ARC_PREEMPT .SCK_ERR _ (by decide))) h3
    · exact (State.rd_wr_ne u _ _ _ hp).trans (h4 r hn hr hp)

/-- What a trip of the package leaves of its dies, with the package not in Out. -/
theorem iodTrip_spec {s : State} (cause : TripCause) (h3 : s.get .SCK_PKG F.SCK_PKG_STATE ≠ 3) :
    (cause = .iodSensor → (iodTrip s cause).power.iodTrip = true) ∧ iodForced (iodTrip s cause) = true ∧ ((iodTrip s cause).rd .SCK_ERR).getLsbD 2 = true ∧
      (∀ d : Fin 16, 1 ≤ (iodTrip s cause).get (.SCK_DIE d) F.SCK_DIE_STATE ∧ 1 ≤ (iodTrip s cause).get (.SCK_DIE d) F.SCK_DIE_TARGET) ∧
      (iodTrip s cause).rd .SCK_INJECT = s.rd .SCK_INJECT := by
  obtain ⟨h1, h2, he, hr⟩ := tripNoted_iodTripNoted s cause
  rw [iodTrip_eq]
  have hp : (iodTripNoted s cause).get .SCK_PKG F.SCK_PKG_STATE ≠ 3 := by
    rw [State.get, hr _ noteKept_sckPkg (by decide) (by decide)]
    exact h3
  generalize iodTripNoted s cause = u at *
  obtain ⟨a1, a2, a3⟩ := allPassed_spec u
  have hf : iodForced u = true := by
    unfold iodForced
    cases cause with
    | iodSensor => rw [h1 rfl, Bool.true_or]
    | inlet => rw [h2 rfl, Bool.or_true]
  have hpow : (allPassed u).power = u.power := by rw [a3]
  have hp2 : (allPassed u).get .SCK_PKG F.SCK_PKG_STATE ≠ 3 := by
    rw [State.get, a2 _ noteKept_sckPkg.arrive fun d _ => by rw [key_sckPkg, key_sckDie]; omega]
    exact hp
  have he2 : ((allPassed u).rd .SCK_ERR).getLsbD 2 = true := by
    rw [a2 _ ⟨by rw [key_sckErr]; omega, by rw [key_sckErr]; omega⟩ fun d _ => by rw [key_sckErr, key_sckDie]; omega]
    exact he
  have hf2 : iodForced (allPassed u) = true := by
    unfold iodForced
    rw [hpow]
    exact hf
  have hk := TripsKept.retarget (allPassed u)
  have hi : noteKept .SCK_INJECT := noteKept_sck (by decide) (by decide)
  have hj : (retarget (allPassed u)).rd .SCK_INJECT = s.rd .SCK_INJECT :=
    hk.inject.trans ((a2 _ hi.arrive fun d _ => by rw [key_sckInject, key_sckDie]; omega).trans (hr _ hi (by decide) (by decide)))
  refine ⟨fun hc => ?_, ?_, hk.err 2 he2, fun d => ⟨?_, target_retarget hp2 d (.inr hf2)⟩, hj⟩
  · rw [hk.iod, hpow]
    exact h1 hc
  · unfold iodForced
    rw [hk.iod, hk.inlet]
    exact hf2
  · rw [hk.state d d.isLt]
    exact a1 d

theorem thermtrip_spec {s : State} (h : s.bit .SCK_ERR F.SCK_ERR_THERMTRIP = false) :
    ∃ t, exec .thermtrip s = .next t ∧ t.bit .SCK_ERR F.SCK_ERR_THERMTRIP = true ∧ t.out = s.out ++ [.ibi 3] ∧
      t = { s with regs := t.regs, flips := t.flips, out := t.out } := by
  have hs : sameUnits s (s.raise .SCK_ERR 0 26 0x2800 none 3 0) := sameUnits_raise ..
  have hx : exec .thermtrip s = .next ((s.raise .SCK_ERR 0 26 0x2800 none 3 0).emit (.ibi 3)) := if_neg (by rw [h]; decide)
  have he := err_raise s (b := 0) (cls := 26) (by decide) (by decide) 0x2800 3 0
  generalize s.raise .SCK_ERR 0 26 0x2800 none 3 0 = u at *
  refine ⟨_, hx, (Fld.get_bit (u.rd .SCK_ERR) 0).trans he, ?_, ?_⟩
  · rw [State.emit, hs]
  · rw [State.emit, hs]

theorem packageRelease_spec (s : State) : (∃ t, exec (.tripRelease .iod) s = .next t ∧ t.power.iodTrip = false ∧ t.power.inletTrip = s.power.inletTrip) ∧
    (s.get .SCK_COOLANT F.SCK_COOLANT_INLET ≤ 750 →
      ∃ t, exec (.tripRelease .inlet) s = .next t ∧ t.power.inletTrip = false ∧ t.power.iodTrip = s.power.iodTrip) ∧
    (750 < s.get .SCK_COOLANT F.SCK_COOLANT_INLET → exec (.tripRelease .inlet) s = .next s) ∧
    (s.bit .SCK_ERR F.SCK_ERR_THERMTRIP = true → exec .thermtrip s = .next s) := by
  refine ⟨?_, fun h => ?_, fun h => if_neg (by omega), fun h => if_pos h⟩
  · have hk := TripsKept.retarget { s with power := { s.power with iodTrip := false } }
    exact ⟨_, rfl, hk.iod, hk.inlet⟩
  · have hk := TripsKept.retarget { s with power := { s.power with inletTrip := false } }
    exact ⟨_, if_pos h, hk.inlet, hk.iod⟩

theorem thermalTrips : Claim.ThermalTrips :=
  ⟨fun _ _ _ h => if_pos h, fun _ _ _ hst h1 h2 => telem_dropped hst ⟨h1, h2⟩, fun _ _ _ hst hi => telem_stored hst hi,
    fun _ _ ht hst hl => telemetryLost_spec ht hst hl, fun _ _ ho ht hst => thermalThrottle_spec ho ht hst, fun _ _ ht hn h3 => dieTrip_spec ht hn h3,
    fun _ _ ht hc => dieRelease_spec ht hc, fun _ _ h => dieRelease_waits h, packageRelease_spec, fun _ h => if_pos ⟨rfl, h⟩,
    fun cause s h3 hc => ⟨_, if_neg fun h => absurd (hc h.1) (by omega), ⟨(iodTrip_spec cause h3).2.1, (iodTrip_spec cause h3).2.2.1, (iodTrip_spec cause h3).2.2.2.1⟩⟩, fun _ h => thermtrip_spec h⟩

/-! ### The power limit (R421, R428) -/

theorem key_sckLimit : Reg.SCK_LIMIT.key = 0xF00008000008 := rfl

theorem key_sckCoolant : Reg.SCK_COOLANT.key = 0xF00008000010 := rfl

theorem key_sckEnergy : Reg.SCK_ENERGY.key = 0xF00008000018 := rfl

theorem key_sckHeat : Reg.SCK_HEAT.key = 0xF00008000020 := rfl

/-- What the inlet's temperature and the limit that follows from it change. -/
structure InletSet (s t : State) (n : Nat) : Prop where
  same : sameUnits s t
  inlet : t.get .SCK_COOLANT F.SCK_COOLANT_INLET = n
  coolant : ∀ f : Fld, f.lo ≤ f.hi → 15 < f.lo → t.get .SCK_COOLANT f = s.get .SCK_COOLANT f
  limit : ∀ f : Fld, f.lo ≤ f.hi → 15 < f.lo → f.hi < 33 ∨ 33 < f.lo → t.get .SCK_LIMIT f = s.get .SCK_LIMIT f
  rd : ∀ r : Reg, noteKept r → r.key ≠ 0xF00008000008 → r.key ≠ 0xF00008000010 → r.key ≠ 0xF00008000030 → t.rd r = s.rd r
  err : ∀ b, (s.rd .SCK_ERR).getLsbD b = true → (t.rd .SCK_ERR).getLsbD b = true

theorem err_sckErr_kept (s : State) (b sev i : Nat) (h : (s.rd .SCK_ERR).getLsbD i = true) : ((sckErr s b sev).rd .SCK_ERR).getLsbD i = true :=
  (TripsKept.sckErr s b sev).err i h

theorem err_sckErr_self (s : State) {b : Nat} (hb : b < 64) (sev : Nat) : ((sckErr s b sev).rd .SCK_ERR).getLsbD b = true := by
  unfold sckErr
  split
  · next h => exact h
  · exact err_raise s hb (by split <;> decide) ..

theorem inletSet_setInlet (s : State) {n : Nat} (hn : n < 2 ^ 16) : InletSet s (setInlet s n) n := by
  let a := s.put .SCK_COOLANT F.SCK_COOLANT_INLET n
  let b := a.put .SCK_LIMIT F.SCK_LIMIT_DERATED (if 650 < n then 1 else 0)
  let c := if 650 < n then sckErr b 5 0 else b
  let e := c.put .SCK_LIMIT F.SCK_LIMIT_LIMIT_W (effLimit c)
  have hx : setInlet s n = if e.get .SCK_LIMIT F.SCK_LIMIT_LIMIT_W = s.get .SCK_LIMIT F.SCK_LIMIT_LIMIT_W then e else e.arrive 66 := rfl
  have hcs : sameUnits b c := by
    unfold c
    split
    · exact sameUnits_sckErr ..
    · exact sameUnits_refl b
  have hcr {r : Reg} (h : noteKept r) (hne : r.key ≠ Reg.SCK_ERR.key) : c.rd r = b.rd r := by
    unfold c
    split
    · exact rd_sckErr h hne ..
    · rfl
  have hce (i : Nat) (h : (b.rd .SCK_ERR).getLsbD i = true) : (c.rd .SCK_ERR).getLsbD i = true := by
    unfold c
    split
    · exact err_sckErr_kept _ _ _ _ h
    · exact h
  have hl : noteKept .SCK_LIMIT := noteKept_sck (by decide) (by decide)
  have hw : noteKept .SCK_COOLANT := noteKept_sck (by decide) (by decide)
  have hcool (f : Fld) : e.get .SCK_COOLANT f = a.get .SCK_COOLANT f := by
    refine (State.get_put_ne (by decide) ..).trans ?_
    rw [State.get, hcr hw (by decide)]
    exact State.get_put_ne (by decide) ..
  have he : InletSet s e n := by
    refine ⟨(((sameUnits_put ..).trans (sameUnits_put ..)).trans hcs).trans (sameUnits_put ..), ?_, fun f hf h => ?_, fun f hf h h' => ?_, fun r hr h1 h2 h3 => ?_, fun i hi => ?_⟩
    · rw [hcool]
      exact (State.get_put_self (by decide) (by decide) ..).trans (Nat.mod_eq_of_lt hn)
    · rw [hcool]
      exact State.get_put_apart (by decide) hf (.inr h) ..
    · refine (State.get_put_apart (by decide) hf (.inr h) ..).trans ?_
      rw [State.get, hcr hl (by decide)]
      exact (State.get_put_apart (by decide) hf h' ..).trans (State.get_put_ne (by decide) ..)
    · exact (State.rd_put_ne h1 ..).trans ((hcr hr h3).trans ((State.rd_put_ne h1 ..).trans (State.rd_put_ne h2 ..)))
    · rw [State.rd_put_ne (by decide)]
      refine hce i ?_
      rw [State.rd_put_ne (by decide), State.rd_put_ne (by decide)]
      exact hi
  rw [hx]
  clear_value a b c e
  split
  · exact he
  · have hk {r : Reg} (h : arriveKept r) : (e.arrive 66).rd r = e.rd r := rd_arrive h ..
    refine ⟨he.same.trans (sameUnits_arrive ..), ?_, fun f hf h => ?_, fun f hf h h' => ?_, fun r hr h1 h2 h3 => ?_, fun i hi => ?_⟩
    · rw [State.get, hk hw.arrive]
      exact he.inlet
    · rw [State.get, hk hw.arrive]
      exact he.coolant f hf h
    · rw [State.get, hk hl.arrive]
      exact he.limit f hf h h'
    · rw [hk hr.arrive, he.rd r hr h1 h2 h3]
    · rw [hk (noteKept_sck (by decide) (by decide)).arrive]
      exact he.err i hi

theorem effLimit_congr {s t : State} (hf : t.folio = s.folio) (hi : t.get .SCK_COOLANT F.SCK_COOLANT_INLET = s.get .SCK_COOLANT F.SCK_COOLANT_INLET) :
    effLimit t = effLimit s := by
  unfold effLimit
  rw [hf, hi]

/-- The powers of a check stored, and the limit computed anew. -/
def powerTaken (s : State) (m : PowerSample) : State :=
  let s := s.wr .SCK_ENERGY (s.rd .SCK_ENERGY + BitVec.ofNat 64 m.energyMj)
  let s := s.put .SCK_LIMIT F.SCK_LIMIT_POWER_W (min m.watts 0xFFFF)
  let s := overAll (List.range 4) (fun s k => s.put (.SCK_SUIT k) F.SCK_SUIT_POWER_W (min (m.suits.getD k 0) 0xFFFF)) s
  setInlet s (s.get .SCK_COOLANT F.SCK_COOLANT_INLET)

structure PowerTaken (s t : State) (m : PowerSample) : Prop where
  same : sameUnits s t
  energy : t.rd .SCK_ENERGY = s.rd .SCK_ENERGY + BitVec.ofNat 64 m.energyMj
  power : t.get .SCK_LIMIT F.SCK_LIMIT_POWER_W = min m.watts 0xFFFF
  inlet : t.get .SCK_COOLANT F.SCK_COOLANT_INLET = s.get .SCK_COOLANT F.SCK_COOLANT_INLET
  rd : ∀ r : Reg, noteKept r → 0xF00008000200 ≤ r.key → t.rd r = s.rd r

theorem powerTaken_spec (s : State) (m : PowerSample) : PowerTaken s (powerTaken s m) m := by
  let a := (s.wr .SCK_ENERGY (s.rd .SCK_ENERGY + BitVec.ofNat 64 m.energyMj)).put .SCK_LIMIT F.SCK_LIMIT_POWER_W (min m.watts 0xFFFF)
  let b := overAll (List.range 4) (fun s k => s.put (.SCK_SUIT k) F.SCK_SUIT_POWER_W (min (m.suits.getD k 0) 0xFFFF)) a
  have hx : powerTaken s m = setInlet b (b.get .SCK_COOLANT F.SCK_COOLANT_INLET) := rfl
  have hb {r : Reg} (h : r.key < 0xF00008000040 ∨ 0xF00008000060 ≤ r.key) : b.rd r = a.rd r :=
    overAll_keeps_mem (g := fun t : State => t.rd r) (fun t k hk => State.rd_put_ne (by rw [key_sckSuit]; have := List.mem_range.mp hk; omega) ..) a
  have hbs : sameUnits a b := overAll_rel sameUnits_refl sameUnits.trans (fun _ _ => sameUnits_put ..) _ a
  have has : sameUnits s a := (sameUnits_wr ..).trans (sameUnits_put ..)
  have hc : b.get .SCK_COOLANT F.SCK_COOLANT_INLET = s.get .SCK_COOLANT F.SCK_COOLANT_INLET := by
    rw [State.get, hb (.inl (by decide))]
    exact (State.get_put_ne (by decide) ..).trans (State.get_wr_ne (by decide) ..)
  have h := inletSet_setInlet b (b.get_lt .SCK_COOLANT F.SCK_COOLANT_INLET)
  rw [hx]
  refine ⟨(has.trans hbs).trans h.same, ?_, ?_, h.inlet.trans hc, fun r hr hk => ?_⟩
  · rw [h.rd _ (noteKept_sck (by decide) (by decide)) (by decide) (by decide) (by decide), hb (.inl (by decide))]
    exact (State.rd_put_ne (by decide) ..).trans (State.rd_wr_self ..)
  · rw [h.limit _ (by decide) (by decide) (.inl (by decide)), State.get, hb (.inl (by decide))]
    exact (State.get_put_self (by decide) (by decide) ..).trans (Nat.mod_eq_of_lt (show min m.watts 0xFFFF < 65536 by omega))
  · rw [h.rd _ hr (by omega) (by omega) (by omega), hb (.inr (by omega))]
    exact (State.rd_put_ne (by rw [key_sckLimit]; omega) ..).trans (State.rd_wr_ne _ _ _ _ (by rw [key_sckEnergy]; omega))

theorem pointOf_congr {s t : State} {d : Nat} (h : t.rd (.SCK_DIE d) = s.rd (.SCK_DIE d)) : pointOf t d = pointOf s d := by
  unfold pointOf State.bit State.get
  dsimp only
  rw [h]

theorem lowerable_congr {s t : State} (h : ∀ d < 16, t.rd (.SCK_DIE d) = s.rd (.SCK_DIE d)) (ho : ∀ d < 16, t.rd (.CORE_DIE_OP d) = s.rd (.CORE_DIE_OP d))
    (l : List Nat) : lowerable t l = lowerable s l := by
  unfold lowerable
  rw [List.filter_congr fun d hd => ?_]
  have hd := List.mem_range.mp hd
  rw [pointOf_congr (h d hd)]
  unfold openDie State.bit State.get
  rw [h d hd, ho d hd]

/-- The choice keeps to the dies that it is made among. -/
theorem lowerable_lt {s : State} {l : List Nat} {d : Nat} (h : lowerable s l = some d) : d < 16 := by
  have hin : ∀ (ds : List Nat) (b : Option Nat), (∀ e ∈ ds, e < 16) → (∀ e, b = some e → e < 16) → ∀ e,
      ds.foldl (fun b d =>
        match b with
        | none => some d
        | some e => if l.getD e 0 < l.getD d 0 then some d else some e) b = some e → e < 16 := by
    intro ds
    induction ds with
    | nil => exact fun b _ hb e he => hb e he
    | cons a ds ih =>
      intro b hds hb
      refine ih _ (fun e he => hds e (List.mem_cons_of_mem _ he)) fun e he => ?_
      have ha := hds a List.mem_cons_self
      cases b with
      | none =>
        cases he
        exact ha
      | some c =>
        have hc := hb c rfl
        dsimp only at he
        split at he
        · cases he
          exact ha
        · cases he
          exact hc
  exact hin _ none (fun e he => List.mem_range.mp (List.mem_filter.mp he).1) (fun _ h => nomatch h) d h

section Limit
variable {m : PowerSample} {s : State}

theorem powerTaken_die (s : State) (m : PowerSample) (d : Fin 16) : (powerTaken s m).rd (.SCK_DIE d) = s.rd (.SCK_DIE d) :=
  (powerTaken_spec s m).rd _ (noteKept_sckDie d.isLt) (by rw [key_sckDie]; omega)

theorem lowerable_powerTaken (s : State) (m : PowerSample) (l : List Nat) : lowerable (powerTaken s m) l = lowerable s l := by
  have h := (powerTaken_spec s m).rd
  refine lowerable_congr (fun d hd => powerTaken_die s m ⟨d, hd⟩) (fun d hd => h _ ⟨?_, ?_⟩ ?_) l
  · rw [key_coreDieOp]; omega
  · rw [key_coreDieOp]; omega
  · rw [key_coreDieOp]; omega

theorem effLimit_powerTaken (s : State) (m : PowerSample) : effLimit (powerTaken s m) = effLimit s :=
  effLimit_congr (by rw [(powerTaken_spec s m).same]) (powerTaken_spec s m).inlet

theorem power_below (hw : m.watts ≤ effLimit s) (hm : m.watts < 2 ^ 16) (ho : s.folio.power.outlet = 0) :
    ∃ t, exec (.powerLimitCheck m) s = .next t ∧ t.rd .SCK_ENERGY = s.rd .SCK_ENERGY + BitVec.ofNat 64 m.energyMj ∧
      t.get .SCK_LIMIT F.SCK_LIMIT_POWER_W = m.watts ∧ t.get .SCK_LIMIT F.SCK_LIMIT_OVER_LIMIT = 0 ∧
      (∀ d : Fin 16, t.rd (.SCK_DIE d) = s.rd (.SCK_DIE d)) ∧ t = { s with regs := t.regs, flips := t.flips } := by
  obtain ⟨hs, he, hp, -, -⟩ := powerTaken_spec s m
  have hd := powerTaken_die s m
  have hl := effLimit_powerTaken s m
  have hf : (powerTaken s m).folio = s.folio := by rw [hs]
  have hx : exec (.powerLimitCheck m) s = execPowerLimitCheck m s := rfl
  have hu : execPowerLimitCheck m s = .next ((powerTaken s m).put .SCK_LIMIT F.SCK_LIMIT_OVER_LIMIT 0) := by
    unfold execPowerLimitCheck
    dsimp only
    rw [show setInlet _ _ = powerTaken s m from rfl]
    generalize powerTaken s m = u at *
    have ha : decide (effLimit u < m.watts) = false := decide_eq_false (by omega)
    have hh : (decide (u.folio.power.outlet ≠ 0) && decide (u.folio.power.outlet < u.get .SCK_COOLANT F.SCK_COOLANT_OUTLET)) = false := by
      rw [hf, ho]
      rfl
    rw [ha, hh]
    cases lowerable u m.dies <;> simp
  refine ⟨_, hx.trans hu, ?_⟩
  generalize powerTaken s m = u at *
  refine ⟨(State.rd_put_ne (by decide) ..).trans he, ?_, State.get_put_self (by decide) (by decide) .., fun d => ?_, hs.trans (sameUnits_put ..)⟩
  · rw [State.get_put_apart (by decide) (by decide) (.inl (by decide)), hp]
    omega
  · exact (State.rd_put_ne (by rw [key_sckDie, key_sckLimit]; omega) ..).trans (hd d)

theorem power_noneToLower (hw : effLimit s < m.watts) (hn : lowerable s m.dies = none) :
    ∃ t, exec (.powerLimitCheck m) s = .next t ∧ t.get .SCK_LIMIT F.SCK_LIMIT_OVER_LIMIT = 1 ∧ (t.rd .SCK_ERR).getLsbD 4 = true ∧
      t = { s with regs := t.regs, flips := t.flips } := by
  obtain ⟨hs, -, -, -, -⟩ := powerTaken_spec s m
  have hl := effLimit_powerTaken s m
  have hv := lowerable_powerTaken s m m.dies
  have hx : exec (.powerLimitCheck m) s = execPowerLimitCheck m s := rfl
  let n := (powerTaken s m).put .SCK_LIMIT F.SCK_LIMIT_OVER_LIMIT 1
  have hu : ∃ hot : Bool, execPowerLimitCheck m s = .next (if hot then sckErr (sckErr n 4 0) 6 0 else sckErr n 4 0) := by
    unfold execPowerLimitCheck n
    dsimp only
    rw [show setInlet _ _ = powerTaken s m from rfl]
    generalize powerTaken s m = u at *
    have ha : decide (effLimit u < m.watts) = true := decide_eq_true (by omega)
    rw [ha, hv, hn]
    exact ⟨_, by simp only [and_self, and_true, if_true]; rfl⟩
  obtain ⟨hot, hu⟩ := hu
  refine ⟨_, hx.trans hu, ?_⟩
  have hlim : n.get .SCK_LIMIT F.SCK_LIMIT_OVER_LIMIT = 1 := State.get_put_self (by decide) (by decide) ..
  have hns : sameUnits s n := hs.trans (sameUnits_put ..)
  have hk (t : State) (b : Nat) : (sckErr t b 0).get .SCK_LIMIT F.SCK_LIMIT_OVER_LIMIT = t.get .SCK_LIMIT F.SCK_LIMIT_OVER_LIMIT :=
    congrArg (Fld.get _) (rd_sckErr (noteKept_sck (by decide) (by decide)) (by decide) ..)
  clear_value n
  cases hot with
  | false => exact ⟨(hk n 4).trans hlim, err_sckErr_self n (by decide) 0, hns.trans (sameUnits_sckErr ..)⟩
  | true =>
    exact ⟨(hk _ 6).trans ((hk n 4).trans hlim), err_sckErr_kept _ 6 0 4 (err_sckErr_self n (by decide) 0),
      (hns.trans (sameUnits_sckErr ..)).trans (sameUnits_sckErr ..)⟩

theorem power_lowered {d : Nat} (hw : effLimit s < m.watts) (hv : lowerable s m.dies = some d) (hat : s.power.lowerAt + 10000 ≤ s.mtime + 1)
    (ho : s.folio.power.outlet = 0) : ∃ t, exec (.powerLimitCheck m) s = .next t ∧ t.get (.SCK_DIE d) F.SCK_DIE_OP_CAP = pointOf s d - 1 ∧
      (∀ e : Fin 16, e.val ≠ d → t.rd (.SCK_DIE e) = s.rd (.SCK_DIE e)) := by
  obtain ⟨hs, -, -, -, -⟩ := powerTaken_spec s m
  have hd := powerTaken_die s m
  have hl := effLimit_powerTaken s m
  have hv' := lowerable_powerTaken s m m.dies
  have hdl := lowerable_lt hv
  have hx : exec (.powerLimitCheck m) s = execPowerLimitCheck m s := rfl
  have hu : execPowerLimitCheck m s = .next (lowerOne ((powerTaken s m).put .SCK_LIMIT F.SCK_LIMIT_OVER_LIMIT 0) d) := by
    unfold execPowerLimitCheck
    dsimp only
    rw [show setInlet _ _ = powerTaken s m from rfl]
    generalize powerTaken s m = u at *
    have ha : decide (effLimit u < m.watts) = true := decide_eq_true (by omega)
    have hh : (decide (u.folio.power.outlet ≠ 0) && decide (u.folio.power.outlet < u.get .SCK_COOLANT F.SCK_COOLANT_OUTLET)) = false := by
      rw [show u.folio = s.folio by rw [hs], ho]
      rfl
    rw [ha, hh, hv', hv]
    simp
  have hk (e : Fin 16) : ((powerTaken s m).put .SCK_LIMIT F.SCK_LIMIT_OVER_LIMIT 0).rd (.SCK_DIE e) = s.rd (.SCK_DIE e) :=
    (State.rd_put_ne (by rw [key_sckDie, key_sckLimit]; omega) ..).trans (hd e)
  have hn : sameUnits s ((powerTaken s m).put .SCK_LIMIT F.SCK_LIMIT_OVER_LIMIT 0) := hs.trans (sameUnits_put ..)
  refine ⟨_, hx.trans hu, ?_⟩
  generalize (powerTaken s m).put .SCK_LIMIT F.SCK_LIMIT_OVER_LIMIT 0 = u at *
  have hlo : lowerOne u d = lowerDie { u with power := { u.power with lowerAt := u.mtime + 1 } } d := if_neg (by
    rw [show u.mtime = s.mtime by unfold State.mtime; rw [hn], show u.power = s.power by rw [hn]]
    omega)
  rw [hlo]
  obtain ⟨l1, -, l3, -⟩ := lowerDie_spec { u with power := { u.power with lowerAt := u.mtime + 1 } } ⟨d, hdl⟩
  refine ⟨l1.trans ?_, fun e he => (l3 _ (noteKept_sckDie e.isLt).arrive ?_).trans (hk e)⟩
  · exact congrArg (· - 1) (pointOf_congr (hk ⟨d, hdl⟩))
  · rw [key_sckDie, key_sckDie]
    dsimp only
    omega

end Limit

/-! ### The heat exported (R413, R428) -/

/-- The coolant's readings stored: the injected inlet temperature where one is in force. -/
def coolantRead (s : State) (inlet outlet : BitVec 16) : State :=
  let inj := s.bit .SCK_INJECT F.SCK_INJECT_INLET && decide (s.mtime < s.power.inletTo)
  let s := if inj then s else s.put .SCK_INJECT F.SCK_INJECT_INLET 0
  let s := setInlet s (if inj then 660 else inlet.toNat)
  s.put .SCK_COOLANT F.SCK_COOLANT_OUTLET outlet.toNat

/-- What the stored readings change, the inlet's temperature being `n`. -/
structure CoolantRead (s t : State) (outlet : BitVec 16) (n : Nat) : Prop where
  same : sameUnits s t
  inlet : t.get .SCK_COOLANT F.SCK_COOLANT_INLET = n
  outlet : t.get .SCK_COOLANT F.SCK_COOLANT_OUTLET = outlet.toNat
  coolant : ∀ f : Fld, f.lo ≤ f.hi → 31 < f.lo → t.get .SCK_COOLANT f = s.get .SCK_COOLANT f
  rd : ∀ r : Reg, noteKept r → r.key ≠ 0xF00008000008 → r.key ≠ 0xF00008000010 → r.key ≠ 0xF00008000030 → r.key ≠ 0xF00008000038 → t.rd r = s.rd r

theorem coolantRead_spec (s : State) (i o : BitVec 16) :
    ∃ n, CoolantRead s (coolantRead s i o) o n ∧ (s.bit .SCK_INJECT F.SCK_INJECT_INLET = false → n = i.toNat) := by
  obtain ⟨inj, hinj⟩ : ∃ b, b = (s.bit .SCK_INJECT F.SCK_INJECT_INLET && decide (s.mtime < s.power.inletTo)) := ⟨_, rfl⟩
  let u := if inj then s else s.put .SCK_INJECT F.SCK_INJECT_INLET 0
  let n := if inj then 660 else i.toNat
  have hx : coolantRead s i o = (setInlet u n).put .SCK_COOLANT F.SCK_COOLANT_OUTLET o.toNat := by
    unfold coolantRead u n
    rw [hinj]
  have hu : sameUnits s u := by
    unfold u
    split
    · exact sameUnits_refl s
    · exact sameUnits_put ..
  have hr {r : Reg} (h : r.key ≠ 0xF00008000038) : u.rd r = s.rd r := by
    unfold u
    split
    · rfl
    · exact State.rd_put_ne h ..
  have hn : n < 2 ^ 16 := by
    unfold n
    split
    · decide
    · exact i.isLt
  have hc : s.bit .SCK_INJECT F.SCK_INJECT_INLET = false → n = i.toNat := fun h => if_neg (by rw [hinj, h]; simp)
  clear_value u n
  obtain ⟨h1, h2, h3, -, h5, -⟩ := inletSet_setInlet u hn
  rw [hx]
  generalize setInlet u n = w at *
  refine ⟨n, ⟨(hu.trans h1).trans (sameUnits_put ..), ?_, ?_, fun f hf h => ?_, fun r hk a b c e => ?_⟩, hc⟩
  · exact (State.get_put_apart (by decide) (by decide) (.inl (by decide)) ..).trans h2
  · exact (State.get_put_self (by decide) (by decide) ..).trans (Nat.mod_eq_of_lt o.isLt)
  · rw [State.get_put_apart (by decide) hf (.inr h), h3 f hf (by omega), State.get, hr (by decide)]
    rfl
  · exact (State.rd_put_ne b ..).trans ((h5 r hk a b c).trans (hr e))

/-- The heat that the coolant's flow takes away, in the units of the account's remainder. -/
def heatSum (s : State) : Int := s.heat + s.get .SCK_COOLANT F.SCK_COOLANT_FLOW * s.get .SCK_COOLANT F.SCK_COOLANT_HEAT_CAP *
  (((s.get .SCK_COOLANT F.SCK_COOLANT_OUTLET : Nat) : Int) - ((s.get .SCK_COOLANT F.SCK_COOLANT_INLET : Nat) : Int))

theorem exec_heatAccount (i o : BitVec 16) (s : State) : exec (.heatAccount i o) s =
    let u := coolantRead s i o
    if u.get .SCK_COOLANT F.SCK_COOLANT_FLOW = 0 then .next (if anyPlay u then sckErr u 9 0 else u)
    else .next { u.wr .SCK_HEAT (u.rd .SCK_HEAT + BitVec.ofInt 64 ((heatSum u).fdiv heatUnit)) with heat := ((heatSum u).fmod heatUnit).toNat } := rfl

theorem heat_accounted (i o : BitVec 16) {s : State} (hi : s.rd .SCK_INJECT = 0) (hf : s.get .SCK_COOLANT F.SCK_COOLANT_FLOW ≠ 0) :
    ∃ t, exec (.heatAccount i o) s = .next t ∧ t.get .SCK_COOLANT F.SCK_COOLANT_INLET = i.toNat ∧
      t.get .SCK_COOLANT F.SCK_COOLANT_OUTLET = o.toNat ∧ t.heat < 600000000 ∧
      (∃ w : Int, t.rd .SCK_HEAT = s.rd .SCK_HEAT + BitVec.ofInt 64 w ∧
        600000000 * w + t.heat = s.heat + s.get .SCK_COOLANT F.SCK_COOLANT_FLOW * s.get .SCK_COOLANT F.SCK_COOLANT_HEAT_CAP *
          ((o.toNat : Int) - i.toNat)) ∧
      t = { s with regs := t.regs, heat := t.heat, flips := t.flips } := by
  obtain ⟨n, ⟨h1, h2, h3, h4, h5⟩, hn⟩ := coolantRead_spec s i o
  have hn := hn (by unfold State.bit State.get; rw [hi]; decide)
  have hx := exec_heatAccount i o s
  dsimp only at hx
  generalize coolantRead s i o = u at *
  rw [if_neg (by rw [h4 _ (by decide) (by decide)]; exact hf)] at hx
  have hsum : heatSum u = s.heat + s.get .SCK_COOLANT F.SCK_COOLANT_FLOW * s.get .SCK_COOLANT F.SCK_COOLANT_HEAT_CAP * ((o.toNat : Int) - i.toNat) := by
    unfold heatSum
    rw [h2, h3, h4 F.SCK_COOLANT_FLOW (by decide) (by decide), h4 F.SCK_COOLANT_HEAT_CAP (by decide) (by decide), hn, show u.heat = s.heat by rw [h1]]
  have hpos : 0 ≤ (heatSum u).fmod heatUnit := Int.fmod_nonneg_of_pos _ (by decide)
  have hlt : (heatSum u).fmod heatUnit < 600000000 := Int.fmod_lt_of_pos _ (by decide)
  have hdm : 600000000 * (heatSum u).fdiv heatUnit + (heatSum u).fmod heatUnit = heatSum u := Int.mul_fdiv_add_fmod ..
  have hrd : u.rd .SCK_HEAT = s.rd .SCK_HEAT := h5 _ (noteKept_sck (by decide) (by decide)) (by decide) (by decide) (by decide) (by decide)
  refine ⟨_, hx, ?_, ?_, by dsimp only; omega, ⟨(heatSum u).fdiv heatUnit, ?_, ?_⟩, ?_⟩
  · exact (State.get_wr_ne (by decide) ..).trans (h2.trans hn)
  · exact (State.get_wr_ne (by decide) ..).trans h3
  · rw [← hrd]
    exact State.rd_wr_self ..
  · dsimp only
    rw [← hsum]
    omega
  · rw [State.wr, h1]

theorem heat_noFlow (i o : BitVec 16) {s : State} (hf : s.get .SCK_COOLANT F.SCK_COOLANT_FLOW = 0) (hp : anyPlay s = true) :
    ∃ t, exec (.heatAccount i o) s = .next t ∧ (t.rd .SCK_ERR).getLsbD 9 = true ∧ t.rd .SCK_HEAT = s.rd .SCK_HEAT ∧ t.heat = s.heat := by
  obtain ⟨n, ⟨h1, -, -, h4, h5⟩, -⟩ := coolantRead_spec s i o
  have hx := exec_heatAccount i o s
  dsimp only at hx
  generalize coolantRead s i o = u at *
  have hkept {r : Reg} (h : noteKept r) (hk : 0xF00008000040 ≤ r.key) : u.rd r = s.rd r := h5 r h (by omega) (by omega) (by omega) (by omega)
  have hd (d : Nat) (hd : d < 16) : u.rd (.SCK_DIE d) = s.rd (.SCK_DIE d) := hkept (noteKept_sckDie hd) (by rw [key_sckDie]; omega)
  have hb (b : Nat) : blockState u b = blockState s b :=
    blockState_congr (h5 _ (noteKept_sck (by decide) (by decide)) (by decide) (by decide) (by decide) (by decide)) (by rw [h1]) b
  have hplay : anyPlay u = true := by
    unfold anyPlay at hp ⊢
    rw [Bool.or_eq_true, List.any_eq_true, List.any_eq_true] at hp ⊢
    exact hp.imp (fun ⟨d, hm, h⟩ => ⟨d, hm, by rw [State.get, hd d (List.mem_range.mp hm)]; exact h⟩) fun ⟨b, hm, h⟩ => ⟨b, hm, by rw [hb]; exact h⟩
  rw [if_pos (by rw [h4 _ (by decide) (by decide)]; exact hf), if_pos hplay] at hx
  have hh : noteKept .SCK_HEAT := noteKept_sck (by decide) (by decide)
  have hs : sameUnits u (sckErr u 9 0) := sameUnits_sckErr ..
  refine ⟨_, hx, err_sckErr_self u (by decide) 0, (rd_sckErr hh (by decide) ..).trans (h5 _ hh (by decide) (by decide) (by decide) (by decide)), ?_⟩
  rw [hs, h1]

/-! ### The injection register (R432) -/

theorem Fld.get_eq_one_iff (w : Word) (i : Nat) : Fld.get ⟨i, i⟩ w = 1 ↔ w.getLsbD i = true := by
  have h := Fld.get_bit w i
  have hl : Fld.get ⟨i, i⟩ w < 2 ^ (i - i + 1) := Fld.get_lt ..
  rw [Nat.sub_self] at hl
  rw [← h, bne_iff_ne]
  omega

/-- The low four bits of a word, of which the rest is masked. -/
theorem getLsbD_of_nibble {v c : Word} (h : v &&& 0xF = c) {i : Nat} (hi : (0xF : Word).getLsbD i = true) : v.getLsbD i = c.getLsbD i := by
  rw [← h, BitVec.getLsbD_and, hi, Bool.and_true]

/-- Which of the injections a write of `v` makes, in the order of the bits. -/
theorem sckInject_eq {who : Agent} {s : State} (hw : s.isHouse who = true) {v c : Word} (hv : v &&& 0xF = c) : sckInject s who v =
    let was := s.rd .SCK_INJECT
    let s := s.wr .SCK_INJECT (Reg.SCK_INJECT.written was v)
    let s := if c.getLsbD 0 then { s with power := { s.power with telemDrop := 4 } } else s
    let s := if c.getLsbD 3 then setInlet { s with power := { s.power with inletTo := s.mtime + 1000000 } } 660 else s
    if c.getLsbD 2 then iodTrip (s.put .SCK_INJECT F.SCK_INJECT_IOD_TRIP 0) .iodSensor else s := by
  unfold sckInject
  rw [if_neg (by rw [hw]; decide)]
  dsimp only
  rw [← getLsbD_of_nibble hv (i := 0) (by decide), ← getLsbD_of_nibble hv (i := 2) (by decide), ← getLsbD_of_nibble hv (i := 3) (by decide)]
  simp only [Fld.get_eq_one_iff]

theorem sckInject_writes {who : Agent} {v : Word} {s : State} (hw : s.isHouse who = true) :
    (v &&& 0xF = 2 → exec (.sckInjectTrip who v) s = .next (s.wr .SCK_INJECT (Reg.SCK_INJECT.written (s.rd .SCK_INJECT) v))) ∧
    (v &&& 0xF = 1 → ∃ t, exec (.sckInjectTelem who v) s = .next t ∧ t.power = { s.power with telemDrop := 4 } ∧
      t.rd .SCK_INJECT = Reg.SCK_INJECT.written (s.rd .SCK_INJECT) v ∧ regsBut s t [.SCK_INJECT] ∧
      t = { s with regs := t.regs, power := t.power }) ∧
    (v &&& 0xF = 8 → ∃ t, exec (.sckInjectInlet who v) s = .next t ∧ t.get .SCK_COOLANT F.SCK_COOLANT_INLET = 660 ∧
      t.power = { s.power with inletTo := s.mtime + 1000000 } ∧ t.bit .SCK_INJECT F.SCK_INJECT_INLET = true) ∧
    (v &&& 0xF = 4 → s.get .SCK_PKG F.SCK_PKG_STATE ≠ 3 → ∃ t, exec (.sckInjectIodTrip who v) s = .next t ∧ t.power.iodTrip = true ∧
      t.bit .SCK_INJECT F.SCK_INJECT_IOD_TRIP = false ∧ (∀ d : Fin 16, 1 ≤ t.get (.SCK_DIE d) F.SCK_DIE_STATE)) := by
  refine ⟨fun h => congrArg Host.Outcome.next (sckInject_eq hw h), fun h => ?_, fun h => ?_, fun h h3 => ?_⟩
  · exact ⟨_, congrArg Host.Outcome.next (sckInject_eq hw h), rfl, State.rd_wr_self .., regsBut_wr s _ _, rfl⟩
  · refine ⟨_, congrArg Host.Outcome.next (sckInject_eq hw h), ?_⟩
    let u := s.wr .SCK_INJECT (Reg.SCK_INJECT.written (s.rd .SCK_INJECT) v)
    show (setInlet { u with power := { s.power with inletTo := s.mtime + 1000000 } } 660).get _ _ = _ ∧
      (setInlet { u with power := { s.power with inletTo := s.mtime + 1000000 } } 660).power = _ ∧
      (setInlet { u with power := { s.power with inletTo := s.mtime + 1000000 } } 660).bit _ _ = _
    have hu : u.rd .SCK_INJECT = Reg.SCK_INJECT.written (s.rd .SCK_INJECT) v := State.rd_wr_self ..
    obtain ⟨h1, h2, -, -, h5, -⟩ := inletSet_setInlet { u with power := { s.power with inletTo := s.mtime + 1000000 } } (n := 660) (by decide)
    refine ⟨h2, by rw [h1], ?_⟩
    have hr := (h5 .SCK_INJECT (noteKept_sck (by decide) (by decide)) (by decide) (by decide) (by decide)).trans hu
    unfold State.bit State.get
    rw [hr, (registerFields .SCK_INJECT _ v ⟨F.SCK_INJECT_INLET, .rw, 0⟩ (by decide)).1 (.inl rfl), Fld.get_bit, getLsbD_of_nibble h (by decide)]
    rfl
  · refine ⟨_, congrArg Host.Outcome.next (sckInject_eq hw h), ?_⟩
    let u := (s.wr .SCK_INJECT (Reg.SCK_INJECT.written (s.rd .SCK_INJECT) v)).put .SCK_INJECT F.SCK_INJECT_IOD_TRIP 0
    show (iodTrip u .iodSensor).power.iodTrip = true ∧ (iodTrip u .iodSensor).bit _ _ = _ ∧
      ∀ d : Fin 16, 1 ≤ (iodTrip u .iodSensor).get (.SCK_DIE d) F.SCK_DIE_STATE
    have hu : u.get .SCK_INJECT F.SCK_INJECT_IOD_TRIP = 0 := State.get_put_self (by decide) (by decide) ..
    have hp : u.get .SCK_PKG F.SCK_PKG_STATE ≠ 3 := by
      rw [show u.get .SCK_PKG F.SCK_PKG_STATE = s.get .SCK_PKG F.SCK_PKG_STATE from (State.get_put_ne (by decide) ..).trans (State.get_wr_ne (by decide) ..)]
      exact h3
    clear_value u
    obtain ⟨h1, -, -, h4, h5⟩ := iodTrip_spec .iodSensor hp
    refine ⟨h1 rfl, ?_, fun d => (h4 d).1⟩
    unfold State.bit State.get
    rw [h5]
    exact congrArg (· != 0) hu

theorem powerHeat : Claim.PowerHeat :=
  ⟨fun _ _ hw hm ho => power_below hw hm ho, fun _ _ hw hn => power_noneToLower hw hn, fun _ _ _ hw hv hat ho => power_lowered hw hv hat ho,
    fun i o _ hi hf => heat_accounted i o hi hf, fun i o _ hf hp => heat_noFlow i o hf hp,
    fun who v s h =>
      have hx : Host.Outcome.next (sckInject s who v) = .next s := congrArg Host.Outcome.next (if_pos (by rw [h]; decide))
      ⟨hx, hx, hx, hx⟩,
    fun _ _ _ hw => sckInject_writes hw⟩

/-- Settles O33, from what the recomputation of the targets keeps, the powers stored by a check, and the injections a write makes. -/
theorem thermal : Obligations.Thermal := ⟨thermalTrips, powerHeat⟩

end Sys2Proof.Machine
end

section
/-! SUPPORT. The links of the host ports (O38) -/

namespace Sys2Proof.Machine

/-! ### What a link down changes outside the functions of its port (R338) -/

theorem key_folState : Reg.FOL_STATE.key = 0xF00000000000 := rfl

theorem key_hpLink (p : Nat) : (Reg.HP_LINK p).key = 0xF00004100008 + p * 0x1000 := by
  simp only [Reg.key]
  omega

theorem key_hpLtr (p : Nat) : (Reg.HP_LTR p).key = 0xF00004100028 + p * 0x1000 := by
  simp only [Reg.key]
  omega

theorem key_hpInject (p : Nat) : (Reg.HP_INJECT p).key = 0xF00004100030 + p * 0x1000 := by
  simp only [Reg.key]
  omega

theorem key_csqSsState (p : Nat) : (Reg.CSQ_SS_STATE p).key = 0xF00005000008 + p * 0x100 := by
  simp only [Reg.key]
  omega

/-- A register apart from those of the queues that `n` names of a function and from the engine's. -/
def outsideQueues (f : FnId) (n : Nat → Prop) (r : Reg) : Prop :=
  r.key < 0xF00005000000 ∨
    0x100000000000000 ≤ r.key ∧ ∀ q, n q → r.key < 0x100000000000000 + f.key * 0x10000 + q * 0x200 ∨ 0x100000000000200 + f.key * 0x10000 + q * 0x200 ≤ r.key

/-- What a function's part of a link down leaves alone. -/
structure DownStep (f : FnId) (n : Nat → Prop) (s t : State) : Prop where
  folio : t.folio = s.folio
  mgmt : t.mgmt = s.mgmt
  dram : t.dram = s.dram
  rd : ∀ r, outsideQueues f n r → t.rd r = s.rd r

namespace DownStep
variable {s t u : State} {f : FnId} {n : Nat → Prop}

theorem of_regs (hf : t.folio = s.folio) (hm : t.mgmt = s.mgmt) (hd : t.dram = s.dram) (hr : t.regs = s.regs) : DownStep f n s t :=
  ⟨hf, hm, hd, fun r _ => by unfold State.rd; rw [hr]⟩

theorem refl (s : State) : DownStep f n s s := of_regs rfl rfl rfl rfl

theorem trans (h : DownStep f n s t) (h' : DownStep f n t u) : DownStep f n s u :=
  ⟨h'.folio.trans h.folio, h'.mgmt.trans h.mgmt, h'.dram.trans h.dram, fun r hr => (h'.rd r hr).trans (h.rd r hr)⟩

theorem mono {n' : Nat → Prop} (h : DownStep f n s t) (hn : ∀ q, n q → n' q) : DownStep f n' s t :=
  ⟨h.folio, h.mgmt, h.dram, fun r hr => h.rd r (hr.imp_right fun ⟨ha, hb⟩ => ⟨ha, fun q hq => hb q (hn q hq)⟩)⟩

theorem of_sameUnits (h : sameUnits s t) (hr : ∀ r, outsideQueues f n r → t.rd r = s.rd r) : DownStep f n s t :=
  ⟨by rw [h], by rw [h], by rw [h], hr⟩

theorem overAll {α : Type} {g : State → α → State} (l : List α) (h : ∀ s, ∀ a ∈ l, DownStep f n s (g s a)) (s : State) : DownStep f n s (overAll l g s) :=
  overAll_inv (P := DownStep f n s) (fun t a ha ht => ht.trans (h t a ha)) (refl s)

theorem put (s : State) {r : Reg} (hr : ∀ r' : Reg, outsideQueues f n r' → r'.key ≠ r.key) (x : Fld) (v : Nat) : DownStep f n s (s.put r x v) :=
  of_sameUnits (sameUnits_put ..) fun _ h => State.rd_put_ne (hr _ h) ..

theorem wr (s : State) {r : Reg} (hr : ∀ r' : Reg, outsideQueues f n r' → r'.key ≠ r.key) (w : Word) : DownStep f n s (s.wr r w) :=
  of_sameUnits (sameUnits_wr ..) fun _ h => State.rd_wr_ne _ _ _ _ (hr _ h)

theorem sramWrite (s : State) (st unit idx : Nat) : DownStep f n s (Machine.sramWrite s st unit idx) :=
  of_sameUnits (sameUnits_sramWrite ..) fun r h => rd_sramWrite_of_ne (by rcases h with h | h <;> omega) ..

theorem sendTlp (s : State) (p : Nat) (o : Outward) : DownStep f n s (Machine.sendTlp s p o) := by
  unfold Machine.sendTlp
  dsimp only
  split
  · exact refl s
  · split
    · exact of_regs rfl rfl rfl rfl
    · exact of_regs rfl rfl rfl rfl

theorem withIntx {act : State → State} (s : State) (p : Fin 8) (h : DownStep f n s (act s)) : DownStep f n s (Machine.withIntx s p act) := by
  unfold Machine.withIntx
  dsimp only
  split
  · exact h
  · exact h.trans (sendTlp ..)

theorem setPoint (s : State) (p : Nat) (x : Point) : DownStep f n s (s.setPoint p x) := of_regs rfl rfl rfl rfl

theorem setFn (s : State) (g : FnId) (x : Fn) : DownStep f n s (s.setFn g x) := of_regs rfl rfl rfl rfl

theorem setQueue (s : State) (g : FnId) (q : Nat) (x : Queue) : DownStep f n s (s.setQueue g q x) := of_regs rfl rfl rfl rfl

theorem dropTransfers (s : State) (q : Nat) (sel : Msg → Bool) : DownStep f n s (Machine.dropTransfers s q sel) := by
  unfold Machine.dropTransfers
  dsimp only
  refine trans (t := { s with outbox := s.outbox.set q ((s.outbox.getD q []).filter (fun e => !e.2.any sel)) }) (of_regs rfl rfl rfl rfl) ?_
  refine overAll _ (fun t k _ => ?_) _
  exact setPoint ..

theorem failIntake (s : State) (h id status : Nat) : DownStep f n s (Machine.failIntake s h id status) := by
  unfold Machine.failIntake
  split
  · exact refl s
  · split
    · exact refl s
    · have hd : DownStep f n s (Machine.dropTransfers s 24 (fun m => m.txn == txnOf 2 (intakeKey h id))) := dropTransfers ..
      dsimp only
      generalize Machine.dropTransfers s 24 (fun m => m.txn == txnOf 2 (intakeKey h id)) = u at hd ⊢
      exact hd.trans (of_regs rfl rfl rfl rfl)

theorem failIntakes (s : State) (g : FnId) (status : Nat) : DownStep f n s (Machine.failIntakes s g status) :=
  overAll _ (fun t _ _ => overAll _ (fun u _ _ => failIntake ..) t) s

theorem orphan (s : State) {g : FnId} (hg : fnPort s g < 8) : DownStep f n s (Machine.orphan s g) := by
  unfold Machine.orphan
  dsimp only
  split
  · split
    · have hp : DownStep f n s (s.setPort (fnPort s g) { s.port (fnPort s g) with mailbox := none }) := of_regs rfl rfl rfl rfl
      split
      · refine hp.trans (put _ (fun r h => ?_) ..)
        rw [key_csqSsState]
        rcases h with h | h <;> omega
      · exact hp
    · exact refl s
  · exact refl s

theorem clearCfg (s : State) (g : FnId) : DownStep f n s (Machine.clearCfg s g) :=
  withIntx s _ (of_regs rfl rfl rfl rfl)

/-- A queue's own registers. -/
theorem own {q : Nat} (hq : n q) {r : Reg} (hl : 0x100000000000000 + f.key * 0x10000 + q * 0x200 ≤ r.key)
    (hh : r.key < 0x100000000000200 + f.key * 0x10000 + q * 0x200) (r' : Reg) (h : outsideQueues f n r') : r'.key ≠ r.key := by
  rcases h with h | ⟨-, h⟩
  · omega
  · have := h q hq
    omega

theorem discardFetched (s : State) {q : Nat} (hq : n q) : DownStep f n s (Machine.discardFetched s f q) := by
  have hm : DownStep f n s (moveHead s f q (s.queue f q).fetched.length true) :=
    (put s (own (r := .QP_STATE f.key q) hq (by rw [key_qpState]; omega) (by rw [key_qpState]; omega)) ..).trans (sramWrite ..)
  exact hm.trans (of_regs rfl rfl rfl rfl)

theorem logError (s : State) {q : Nat} (hq : n q) (st kind : Nat) (bits : LineData) (index pkg done : Nat) :
    DownStep f n s (Machine.logError s f q st kind bits index pkg done) := by
  have hw (t : State) {k : Nat} (hk : k < 6) (w : Word) : DownStep f n t (t.wr (.QP_LOG f.key q k) w) :=
    wr t (own (r := .QP_LOG f.key q k) hq (by rw [key_qpLog]; omega) (by rw [key_qpLog]; omega)) w
  unfold Machine.logError
  dsimp only
  refine (trans ?_ (hw _ (k := 5) (by decide) _)).trans (sramWrite ..)
  split
  · exact ((((hw _ (k := 0) (by decide) _).trans (hw _ (k := 1) (by decide) _)).trans (hw _ (k := 2) (by decide) _)).trans (hw _ (k := 3) (by decide) _)).trans
      (hw _ (k := 4) (by decide) _)
  · exact refl s

end DownStep

/-- One queue of a function at a link down. -/
def downQueue (f : FnId) (s : State) (q : Nat) : State :=
  let s := overAll (s.queue f q).running (fun s e =>
    logError s f q 0x26 2 e.bits e.index (slipPkg e.bits) (bytesDone s f e)) s
  let s := discardFetched s f q
  let x := s.queue f q
  let s := s.setQueue f q { x with running := [], ended := [] }
  setQState s f q 2

theorem downQueues_eq (s : State) (f : FnId) : downQueues s f = overAll (List.range (fnQueues s f)) (downQueue f) s := rfl

theorem downStep_downQueue {f : FnId} {n : Nat → Prop} {q : Nat} (hq : n q) (s : State) : DownStep f n s (downQueue f s q) := by
  unfold downQueue
  dsimp only
  refine ((DownStep.overAll _ (fun t e _ => DownStep.logError t hq ..) s).trans ((DownStep.discardFetched _ hq).trans (.setQueue ..))).trans
    (DownStep.put _ (DownStep.own (f := f) (r := .QP_STATE f.key q) hq (by rw [key_qpState]; omega) (by rw [key_qpState]; omega)) ..)

theorem qState_downQueue (s : State) (f : FnId) (q : Nat) : qState (downQueue f s q) f q = 2 := State.get_put_self (by decide) (by decide) ..

theorem fnQueues_congr {s t : State} (h : t.folio = s.folio) (f : FnId) : fnQueues t f = fnQueues s f := by
  cases f <;> unfold fnQueues <;> rw [h]

theorem fnPort_congr {s t : State} (h : t.folio = s.folio) (f : FnId) : fnPort t f = fnPort s f := by
  cases f <;> unfold fnPort <;> rw [h]

theorem downStep_downQueues (s : State) (f : FnId) : DownStep f (· < fnQueues s f) s (downQueues s f) := by
  rw [downQueues_eq]
  exact DownStep.overAll _ (fun t q hq => downStep_downQueue (n := fun k => k < fnQueues s f) (List.mem_range.mp hq) t) s

theorem downStep_downFn {s : State} {f : FnId} (hp : fnPort s f < 8) : DownStep f (· < fnQueues s f) s (downFn s f) := by
  have hi : DownStep f (· < fnQueues s f) s (failIntakes s f 0x25) := .failIntakes ..
  have hq := downStep_downQueues (failIntakes s f 0x25) f
  rw [fnQueues_congr hi.folio] at hq
  refine (((hi.trans hq).trans (.orphan _ ?_)).trans (.clearCfg ..)).trans (.of_regs rfl rfl rfl rfl)
  rw [fnPort_congr (hq.folio.trans hi.folio)]
  exact hp

/-- Every queue of a function freezes at a link down. -/
theorem qState_downQueues {s : State} {f : FnId} (h16 : fnQueues s f ≤ 16) {q : Nat} (hq : q < fnQueues s f) : qState (downQueues s f) f q = 2 := by
  refine overAll_each (l := List.range (fnQueues s f)) (step := downQueue f) (read := fun t k => qState t f k) (val := fun _ _ => 2) List.nodup_range
    (fun t k _ => qState_downQueue t f k) (fun t k hk j hj hne => ?_) (fun _ _ _ _ _ _ => rfl) s (List.mem_range.mpr hq)
  have hk := List.mem_range.mp hk
  have hj := List.mem_range.mp hj
  have hs := downStep_downQueue (f := f) (n := (· = k)) rfl t
  refine congrArg (Fld.get _) (hs.rd _ (.inr ⟨?_, fun i hi => ?_⟩))
  · rw [key_qpState]
    omega
  · subst hi
    rw [key_qpState]
    omega

theorem qState_downFn {s : State} {f : FnId} (hp : fnPort s f < 8) (h16 : fnQueues s f ≤ 16) {q : Nat} (hq : q < fnQueues s f) :
    qState (downFn s f) f q = 2 := by
  have hi : DownStep f (· < fnQueues s f) s (failIntakes s f 0x25) := .failIntakes ..
  have hn := fnQueues_congr hi.folio f
  have hd := qState_downQueues (s := failIntakes s f 0x25) (by rw [hn]; exact h16) (by rw [hn]; exact hq)
  have hj := downStep_downQueues (failIntakes s f 0x25) f
  have ho : DownStep f (fun _ => False) (downQueues (failIntakes s f 0x25) f) (orphan (downQueues (failIntakes s f 0x25) f) f) :=
    .orphan _ (by rw [fnPort_congr (hj.folio.trans hi.folio)]; exact hp)
  have hc : DownStep f (fun _ => False) (downQueues (failIntakes s f 0x25) f) (downFn s f) := (ho.trans (.clearCfg ..)).trans (.setFn ..)
  refine (congrArg (Fld.get _) (hc.rd _ (.inr ⟨?_, fun _ h => h.elim⟩))).trans hd
  rw [key_qpState]
  omega

/-- What a link down changes of a port, once its link is DOWN. -/
structure FnsDown (p : Fin 8) (s t : State) : Prop where
  folio : t.folio = s.folio
  mgmt : t.mgmt = s.mgmt
  dram : t.dram = s.dram
  rd : ∀ r : Reg, r.key < 0xF00005000000 → t.rd r = s.rd r
  queue : (∀ v, fnQueues s (.vf v) ≤ 16) → ∀ q : Fin 16, q.val < fnQueues s (.pf p) → qState t (.pf p) q = 2

theorem portVfs_port {s : State} {p : Fin 8} {v : Nat} (h : v ∈ portVfs s p) : fnPort s (.vf (Fin.ofNat 4096 v)) = p := by
  have hlt := lt_of_mem_portVfs h
  have he : (Fin.ofNat 4096 v).val = v := Nat.mod_eq_of_lt hlt
  have hr := (List.mem_filter.mp h).2
  unfold fnPort
  dsimp only at hr ⊢
  rw [he]
  split at hr
  · next r hf =>
    rw [hf]
    exact eq_of_beq hr
  · exact absurd hr (by decide)

theorem fnPort_lt_of_mem {s : State} {p : Fin 8} {f : FnId} (h : f ∈ portFns s p) : fnPort s f < 8 := by
  rcases List.mem_cons.mp h with rfl | h
  · exact p.isLt
  · obtain ⟨v, hv, rfl⟩ := List.mem_map.mp h
    rw [portVfs_port hv]
    exact p.isLt

/-- Functions of a port at a link down, of which the physical one is past. -/
theorem fnsDown (p : Fin 8) (s : State) : FnsDown p s (overAll (portFns s p) downFn s) := by
  have hstep (t : State) (ht : t.folio = s.folio) (f : FnId) (hf : f ∈ portFns s p) : DownStep f (· < fnQueues s f) t (downFn t f) := by
    rw [← fnQueues_congr ht]
    exact downStep_downFn (by rw [fnPort_congr ht]; exact fnPort_lt_of_mem hf)
  have hall (l : List FnId) (hl : ∀ f ∈ l, f ∈ portFns s p) (u : State) (hu : u.folio = s.folio) :
      (overAll l downFn u).folio = u.folio ∧ (overAll l downFn u).mgmt = u.mgmt ∧ (overAll l downFn u).dram = u.dram ∧
        ∀ r : Reg, (∀ f ∈ l, outsideQueues f (· < fnQueues s f) r) → (overAll l downFn u).rd r = u.rd r := by
    have h := overAll_inv (P := fun t => t.folio = u.folio ∧ t.mgmt = u.mgmt ∧ t.dram = u.dram ∧
        ∀ r : Reg, (∀ f ∈ l, outsideQueues f (· < fnQueues s f) r) → t.rd r = u.rd r) (l := l) (f := downFn) (fun t f hf ⟨h1, h2, h3, h4⟩ => ?_)
      (s := u) ⟨rfl, rfl, rfl, fun _ _ => rfl⟩
    · exact h
    · have hd := hstep t (h1.trans hu) f (hl f hf)
      exact ⟨hd.folio.trans h1, hd.mgmt.trans h2, hd.dram.trans h3, fun r hr => (hd.rd r (hr f hf)).trans (h4 r hr)⟩
  obtain ⟨h1, h2, h3, h4⟩ := hall _ (fun _ h => h) s rfl
  refine ⟨h1, h2, h3, fun r hr => h4 r fun _ _ => .inl hr, fun h16 q hq => ?_⟩
  have hpf : DownStep (.pf p) (· < fnQueues s (.pf p)) s (downFn s (.pf p)) := hstep s rfl _ List.mem_cons_self
  obtain ⟨-, -, -, h5⟩ := hall ((portVfs s p).map (fun v => .vf (Fin.ofNat 4096 v))) (fun f hf => List.mem_cons_of_mem _ hf) (downFn s (.pf p)) hpf.folio
  have hn : fnQueues s (.pf p) ≤ 16 := by
    show (if s.folio.portEnabled p then 16 else 0) ≤ 16
    split <;> omega
  have hx (l : List FnId) : overAll (.pf p :: l) downFn s = overAll l downFn (downFn s (.pf p)) := List.foldl_cons ..
  rw [portFns, hx]
  refine (congrArg (Fld.get _) (h5 _ fun f hf => .inr ⟨?_, fun i hi => ?_⟩)).trans (qState_downFn (s := s) (f := .pf p) p.isLt hn hq)
  · rw [key_qpState]
    omega
  · obtain ⟨v, -, rfl⟩ := List.mem_map.mp hf
    have hv := h16 (Fin.ofNat 4096 v)
    have hlt : (FnId.vf (Fin.ofNat 4096 v)).key < 4096 := (Fin.ofNat 4096 v).isLt
    have hpk : (FnId.pf p).key = 0x1000 + p.val := rfl
    rw [key_qpState, hpk]
    omega

/-! ### The link of a port (R316, R317, R338, R339) -/

theorem counts_congr {s t : State} {p : Nat} (h : t.get (.HP_LINK p) F.HP_LINK_STATE = s.get (.HP_LINK p) F.HP_LINK_STATE) : counts t p = counts s p := by
  unfold counts
  rw [h]

theorem mayTrain_congr {s t : State} {p : Nat} (hf : t.folio = s.folio) (hr : t.rd .FOL_STATE = s.rd .FOL_STATE) (hm : t.mgmt = s.mgmt) :
    mayTrain t p = mayTrain s p := by
  unfold mayTrain State.get
  rw [hf, hr, hm]

theorem noteKept_hp {r : Reg} (h : r.key < 0xF00005000000) : noteKept r := ⟨.inl (by omega), .inl (by omega)⟩

theorem apartFromPower_hp {r : Reg} (h : r.key < 0xF00005000000) : apartFromPower r := .inl (by omega)

section Train
variable {s : State} {p : Fin 8}

/-- What training asks of a port that is enabled and not up. -/
theorem trainPort_of_down (he : s.folio.portEnabled p = true) (hc : counts s p = false) :
    trainPort s p = if mayTrain s p then setPortLink s p 2 else if s.get (.HP_LINK p) F.HP_LINK_STATE = 5 then s else setPortLink s p 1 := by
  unfold trainPort
  rw [if_neg (by rw [he]; decide), if_neg (by rw [hc]; decide)]

theorem trainPort_of_up (he : s.folio.portEnabled p = true) (hc : counts s p = true) : trainPort s p = s := by
  unfold trainPort
  rw [if_neg (by rw [he]; decide), if_pos hc]

theorem sameUnits_trainPort (s : State) (p : Nat) : sameUnits s (trainPort s p) := by
  unfold trainPort setPortLink
  split
  · exact sameUnits_put ..
  · split
    · exact sameUnits_refl s
    · split
      · exact sameUnits_put ..
      · split
        · exact sameUnits_refl s
        · exact sameUnits_put ..

theorem get_trainPort {x : Fld} (hl : x.lo ≤ x.hi) (hx : 2 < x.lo) : (trainPort s p).get (.HP_LINK p) x = s.get (.HP_LINK p) x := by
  have h (n : Nat) : (setPortLink s p n).get (.HP_LINK p) x = s.get (.HP_LINK p) x := State.get_put_apart (by decide) hl (.inr hx) ..
  unfold trainPort
  split
  · exact h 0
  · split
    · rfl
    · split
      · exact h 2
      · split
        · rfl
        · exact h 1

theorem rd_trainPort {r : Reg} (h : r.key ≠ (Reg.HP_LINK p).key) : (trainPort s p).rd r = s.rd r := by
  have h (n : Nat) : (setPortLink s p n).rd r = s.rd r := State.rd_put_ne h ..
  unfold trainPort
  split
  · exact h 0
  · split
    · rfl
    · split
      · exact h 2
      · split
        · rfl
        · exact h 1

/-- An enabled port whose link is not up trains, stays DOWN, or waits. -/
theorem state_trainPort (he : s.folio.portEnabled p = true) (hc : counts s p = false) : (trainPort s p).get (.HP_LINK p) F.HP_LINK_STATE =
    if mayTrain s p then 2 else if s.get (.HP_LINK p) F.HP_LINK_STATE = 5 then 5 else 1 := by
  have h {n : Nat} (hn : n < 8) : (setPortLink s p n).get (.HP_LINK p) F.HP_LINK_STATE = n :=
    (State.get_put_self (by decide) (by decide) ..).trans (Nat.mod_eq_of_lt hn)
  rw [trainPort_of_down he hc]
  split
  · exact h (by decide)
  · split
    · next h5 => exact h5
    · exact h (by decide)

end Train

/-- The registers of a port whose link has just gone down, and the fault noted. -/
def linkCleared (s : State) (p : Fin 8) : State :=
  let s := s.setPort p { s.port p with reads := [], timedOut := [], txq := [], peers := [], l1 := false, ltr := none }
  let r := Reg.HP_LINK p
  let s := (((s.put r F.HP_LINK_L1 0).put r F.HP_LINK_SPEED 0).put r F.HP_LINK_WIDTH 0).put r F.HP_LINK_FLIT 0
  portErr (s.inc r F.HP_LINK_DOWNS) p 4 3

/-- What a port's registers and work are after a link down, before it trains again. -/
structure LinkDown (p : Fin 8) (s t : State) : Prop where
  folio : t.folio = s.folio
  mgmt : t.mgmt = s.mgmt
  dram : t.dram = s.dram
  folState : t.rd .FOL_STATE = s.rd .FOL_STATE
  port : t.port p = { t.port p with reads := [], txq := [], peers := [], l1 := false }
  state : t.get (.HP_LINK p) F.HP_LINK_STATE = 5
  perst : t.get (.HP_LINK p) F.HP_LINK_PERST = s.get (.HP_LINK p) F.HP_LINK_PERST
  speed : t.get (.HP_LINK p) F.HP_LINK_SPEED = 0
  width : t.get (.HP_LINK p) F.HP_LINK_WIDTH = 0
  err : (t.rd (.HP_ERR p)).getLsbD 4 = true
  queue : (∀ v, fnQueues s (.vf v) ≤ 16) → ∀ q : Fin 16, q.val < fnQueues s (.pf p) → qState t (.pf p) q = 2

theorem linkDown_eq {s : State} {p : Fin 8} (hc : counts s p = true) :
    linkDown s p = trainPort (clearPower (linkCleared (overAll (portFns (setPortLink s p 5) p) downFn (setPortLink s p 5)) p) p) p :=
  if_neg (by rw [hc]; decide)

theorem rd_portErr_ne {s : State} {p : Nat} {r : Reg} (h : noteKept r) (hne : r.key ≠ (Reg.HP_ERR p).key) (b sev : Nat) : (portErr s p b sev).rd r = s.rd r :=
  rd_raise_ne h hne _ _ (by split; · decide
                            · split <;> decide) ..

theorem err_portErr (s : State) (p : Fin 8) {b : Nat} (hb : b < 64) (sev : Nat) : ((portErr s p b sev).rd (.HP_ERR p)).getLsbD b = true := by
  have hn : noteKept (.HP_ERR p) := noteKept_hp (by rw [key_hpErr]; omega)
  unfold portErr
  dsimp only
  rw [rd_raise hn _ _ _ (by split; · decide
                            · split <;> decide), State.rd_wr_self, BitVec.getLsbD_or, getLsbD_one_shift hb, decide_eq_true rfl, Bool.or_true]

section Cleared
variable (s : State) (p : Fin 8)

/-- The port itself, with the reads and the TLPs that it held discarded. -/
def portEmptied (s : State) (p : Fin 8) : State :=
  s.setPort p { s.port p with reads := [], timedOut := [], txq := [], peers := [], l1 := false, ltr := none }

/-- HP_LINK of a link that is DOWN, beside STATE and PERST. -/
def linkZeroed (s : State) (p : Fin 8) : State :=
  ((((s.put (.HP_LINK p) F.HP_LINK_L1 0).put (.HP_LINK p) F.HP_LINK_SPEED 0).put (.HP_LINK p) F.HP_LINK_WIDTH 0).put (.HP_LINK p) F.HP_LINK_FLIT 0).inc
    (.HP_LINK p) F.HP_LINK_DOWNS

theorem linkCleared_eq : linkCleared s p = portErr (linkZeroed (portEmptied s p) p) p 4 3 := rfl

theorem sameUnits_linkZeroed : sameUnits s (linkZeroed s p) :=
  ((((sameUnits_put ..).trans (sameUnits_put ..)).trans (sameUnits_put ..)).trans (sameUnits_put ..)).trans (sameUnits_inc ..)

theorem rd_linkZeroed {r : Reg} (h : r.key ≠ (Reg.HP_LINK p).key) : (linkZeroed s p).rd r = s.rd r :=
  (State.rd_put_ne h ..).trans ((State.rd_put_ne h ..).trans ((State.rd_put_ne h ..).trans ((State.rd_put_ne h ..).trans (State.rd_put_ne h ..))))

theorem get_linkZeroed {x : Fld} (hl : x.lo ≤ x.hi) (h : x.hi < 4 ∨ 14 < x.lo ∧ x.hi < 32) :
    (linkZeroed s p).get (.HP_LINK p) x = s.get (.HP_LINK p) x := by
  have hk {f : Fld} (hf : f.lo ≤ f.hi) (ha : f.hi < x.lo ∨ x.hi < f.lo) (t : State) (n : Nat) : (t.put (.HP_LINK p) f n).get (.HP_LINK p) x = t.get (.HP_LINK p) x :=
    State.get_put_apart hf hl (by omega) ..
  exact (hk (f := F.HP_LINK_DOWNS) (by decide) (by dsimp only; omega) _ _).trans ((hk (f := F.HP_LINK_FLIT) (by decide) (by dsimp only; omega) _ _).trans
    ((hk (f := F.HP_LINK_WIDTH) (by decide) (by dsimp only; omega) _ _).trans ((hk (f := F.HP_LINK_SPEED) (by decide) (by dsimp only; omega) _ _).trans
      (hk (f := F.HP_LINK_L1) (by decide) (by dsimp only; omega) _ _))))

theorem speed_linkZeroed : (linkZeroed s p).get (.HP_LINK p) F.HP_LINK_SPEED = 0 :=
  (State.get_put_apart (by decide) (by decide) (by decide) ..).trans ((State.get_put_apart (by decide) (by decide) (by decide) ..).trans
    ((State.get_put_apart (by decide) (by decide) (by decide) ..).trans (State.get_put_self (by decide) (by decide) ..)))

theorem width_linkZeroed : (linkZeroed s p).get (.HP_LINK p) F.HP_LINK_WIDTH = 0 :=
  (State.get_put_apart (by decide) (by decide) (by decide) ..).trans ((State.get_put_apart (by decide) (by decide) (by decide) ..).trans
    (State.get_put_self (by decide) (by decide) ..))

end Cleared

theorem linkDown_cleared (s : State) (p : Fin 8) :
    LinkDown p s (linkCleared (overAll (portFns (setPortLink s p 5) p) downFn (setPortLink s p 5)) p) := by
  have h5 : (setPortLink s p 5).get (.HP_LINK p) F.HP_LINK_STATE = 5 := State.get_put_self (by decide) (by decide) ..
  have hp : (setPortLink s p 5).get (.HP_LINK p) F.HP_LINK_PERST = s.get (.HP_LINK p) F.HP_LINK_PERST :=
    State.get_put_apart (by decide) (by decide) (by decide) ..
  have hs : sameUnits s (setPortLink s p 5) := sameUnits_put ..
  have hfol : (setPortLink s p 5).rd .FOL_STATE = s.rd .FOL_STATE := State.rd_put_ne (by rw [key_folState, key_hpLink]; omega) ..
  have hlink : (Reg.HP_LINK p).key < 0xF00005000000 := by rw [key_hpLink]; omega
  generalize setPortLink s p 5 = a at *
  obtain ⟨f1, f2, f3, f4, f5⟩ := fnsDown p a
  generalize overAll (portFns a p) downFn a = b at *
  have he (r : Reg) : (portEmptied b p).rd r = b.rd r := rfl
  have hz := sameUnits_linkZeroed (portEmptied b p) p
  have hzr {r : Reg} (h : r.key ≠ (Reg.HP_LINK p).key) := rd_linkZeroed (portEmptied b p) p h
  have hkeep {x : Fld} (hl : x.lo ≤ x.hi) (h : x.hi < 4 ∨ 14 < x.lo ∧ x.hi < 32) : (linkZeroed (portEmptied b p) p).get (.HP_LINK p) x = a.get (.HP_LINK p) x :=
    (get_linkZeroed _ p hl h).trans (congrArg (Fld.get x) (f4 _ hlink))
  have hsp := speed_linkZeroed (portEmptied b p) p
  have hw := width_linkZeroed (portEmptied b p) p
  have hport : (portEmptied b p).port p = { b.port p with reads := [], timedOut := [], txq := [], peers := [], l1 := false, ltr := none } := State.port_setPort_self ..
  have hb : (portEmptied b p).folio = b.folio ∧ (portEmptied b p).mgmt = b.mgmt ∧ (portEmptied b p).dram = b.dram := ⟨rfl, rfl, rfl⟩
  rw [linkCleared_eq]
  generalize portEmptied b p = c at *
  generalize linkZeroed c p = d at *
  have hn : noteKept (.HP_LINK p) := noteKept_hp hlink
  have hpe : sameUnits d (portErr d p 4 3) := sameUnits_raise ..
  have hg (x : Fld) : (portErr d p 4 3).get (.HP_LINK p) x = d.get (.HP_LINK p) x :=
    congrArg (Fld.get x) (rd_portErr_ne hn (by rw [key_hpLink, key_hpErr]; omega) ..)
  refine ⟨?_, ?_, ?_, ?_, ?_, ?_, ?_, ?_, ?_, err_portErr d p (by decide) 3, fun h16 q hq => ?_⟩
  · rw [hpe, hz, hb.1, f1, hs]
  · rw [hpe, hz, hb.2.1, f2, hs]
  · rw [hpe, hz, hb.2.2, f3, hs]
  · rw [rd_portErr_ne (noteKept_hp (by rw [key_folState]; omega)) (by rw [key_folState, key_hpErr]; omega), hzr (by rw [key_folState, key_hpLink]; omega), he,
      f4 _ (by rw [key_folState]; omega), hfol]
  · have hq : (portErr d p 4 3).port p = c.port p := by
      rw [hpe, hz]
      rfl
    rw [hq, hport]
  · rw [hg, hkeep (by decide) (by decide), h5]
  · rw [hg, hkeep (by decide) (by decide), hp]
  · rw [hg, hsp]
  · rw [hg, hw]
  · have hfol : a.folio = s.folio := by rw [hs]
    have hq2 := f5 (fun v => by rw [fnQueues_congr hfol]; exact h16 v) q (by rw [fnQueues_congr hfol]; exact hq)
    have hr : (portErr d p 4 3).rd (.QP_STATE (FnId.pf p).key q) = b.rd (.QP_STATE (FnId.pf p).key q) := by
      rw [rd_portErr_ne ⟨by rw [key_qpState]; omega, by rw [key_qpState]; omega⟩ (by rw [key_qpState, key_hpErr]; omega),
        hzr (by rw [key_qpState, key_hpLink]; omega), he]
    exact (congrArg (Fld.get _) hr).trans hq2

/-- A link down of an enabled port that is up. -/
theorem linkDown_spec {s : State} {p : Fin 8} (hc : counts s p = true) :
    let t := linkDown s p
    (s.folio.portEnabled p = true → t.get (.HP_LINK p) F.HP_LINK_STATE = (if mayTrain s p then 2 else 5)) ∧
      t.get (.HP_LINK p) F.HP_LINK_PERST = s.get (.HP_LINK p) F.HP_LINK_PERST ∧ t.get (.HP_LINK p) F.HP_LINK_SPEED = 0 ∧ t.get (.HP_LINK p) F.HP_LINK_WIDTH = 0 ∧
      (t.port p).reads = [] ∧ (t.port p).txq = [] ∧ (t.port p).peers = [] ∧ (t.port p).l1 = false ∧
      (t.rd (.HP_ERR p)).getLsbD 4 = true ∧ t.rd (.PWR_PKG p) = (Reg.PWR_PKG p).reset ∧ t.rd (.PWR_DIE p) = (Reg.PWR_DIE p).reset ∧
      ((∀ v, fnQueues s (.vf v) ≤ 16) → ∀ q : Fin 16, q.val < fnQueues s (.pf p) → qState t (.pf p) q = 2) ∧
      t.dram = s.dram ∧ t.folio = s.folio ∧ t.mgmt = s.mgmt ∧ t.rd .FOL_STATE = s.rd .FOL_STATE := by
  have h := linkDown_cleared s p
  rw [linkDown_eq hc]
  generalize linkCleared (overAll (portFns (setPortLink s p 5) p) downFn (setPortLink s p 5)) p = a at h
  obtain ⟨h1, h2, h3, h4, h5, h6, h7, h8, h9, h10, h11⟩ := h
  have hw := powerStep_retarget ((a.clr (.PWR_PKG p)).clr (.PWR_DIE p))
  have hcr {r : Reg} (hk : r.key < 0x200000000000000) : ((a.clr (.PWR_PKG p)).clr (.PWR_DIE p)).rd r = a.rd r :=
    (State.rd_clr_ne _ _ _ (by rw [key_pwrDie]; omega)).trans (State.rd_clr_ne _ _ _ (by rw [key_pwrPkg]; omega))
  have hx : clearPower a p = retarget ((a.clr (.PWR_PKG p)).clr (.PWR_DIE p)) := rfl
  rw [hx]
  have hpk : ((a.clr (.PWR_PKG p)).clr (.PWR_DIE p)).rd (.PWR_PKG p) = (Reg.PWR_PKG p).reset :=
    (State.rd_clr_ne _ _ _ (by rw [key_pwrDie, key_pwrPkg]; omega)).trans (State.rd_clr_self ..)
  have hpd : ((a.clr (.PWR_PKG p)).clr (.PWR_DIE p)).rd (.PWR_DIE p) = (Reg.PWR_DIE p).reset := State.rd_clr_self ..
  have hcu : ((a.clr (.PWR_PKG p)).clr (.PWR_DIE p)).folio = a.folio ∧ ((a.clr (.PWR_PKG p)).clr (.PWR_DIE p)).mgmt = a.mgmt ∧
      ((a.clr (.PWR_PKG p)).clr (.PWR_DIE p)).dram = a.dram ∧ ((a.clr (.PWR_PKG p)).clr (.PWR_DIE p)).ports = a.ports := ⟨rfl, rfl, rfl, rfl⟩
  generalize (a.clr (.PWR_PKG p)).clr (.PWR_DIE p) = b at *
  obtain ⟨hws, hwr⟩ := hw
  generalize retarget b = c at *
  have hlow {r : Reg} (hk : r.key < 0xF00005000000) : c.rd r = a.rd r := (hwr r (apartFromPower_hp hk)).trans (hcr (by omega))
  have hlink (x : Fld) : c.get (.HP_LINK p) x = a.get (.HP_LINK p) x := congrArg (Fld.get x) (hlow (by rw [key_hpLink]; omega))
  have hport : c.port p = a.port p := by
    unfold State.port
    rw [hws, hcu.2.2.2]
  have hfol : c.folio = s.folio := by rw [hws, hcu.1, h1]
  have hm : c.mgmt = s.mgmt := by rw [hws, hcu.2.1, h2]
  have hrf : c.rd .FOL_STATE = s.rd .FOL_STATE := (hlow (by rw [key_folState]; omega)).trans h4
  have hcc : counts c p = false := by
    unfold counts
    rw [hlink, h6]
    rfl
  have ht := sameUnits_trainPort c p
  have htp : (trainPort c p).port p = c.port p := by
    unfold State.port
    rw [ht]
  have hrd {r : Reg} (h : r.key ≠ (Reg.HP_LINK p).key) := rd_trainPort (s := c) h
  refine ⟨fun he => ?_, ?_, ?_, ?_, ?_, ?_, ?_, ?_, ?_, ?_, ?_, fun h16 q hq => ?_, ?_, ?_, ?_, ?_⟩
  · rw [state_trainPort (by rw [hfol]; exact he) hcc, mayTrain_congr hfol hrf hm, hlink, h6]
    rfl
  · rw [get_trainPort (by decide) (by decide), hlink, h7]
  · rw [get_trainPort (by decide) (by decide), hlink, h8]
  · rw [get_trainPort (by decide) (by decide), hlink, h9]
  · rw [htp, hport, h5]
  · rw [htp, hport, h5]
  · rw [htp, hport, h5]
  · rw [htp, hport, h5]
  · rw [hrd (by rw [key_hpErr, key_hpLink]; omega), hlow (by rw [key_hpErr]; omega), h10]
  · rw [hrd (by rw [key_pwrPkg, key_hpLink]; omega), hwr _ (.inr (by rw [key_pwrPkg]; omega)), hpk]
  · rw [hrd (by rw [key_pwrDie, key_hpLink]; omega), hwr _ (.inr (by rw [key_pwrDie]; omega)), hpd]
  · have hr : (trainPort c p).rd (.QP_STATE (FnId.pf p).key q) = a.rd (.QP_STATE (FnId.pf p).key q) := by
      have hpk : (FnId.pf p).key = 0x1000 + p.val := rfl
      rw [hrd (by rw [key_qpState, key_hpLink]; omega), hwr _ (.inr (by rw [key_qpState]; omega)), hcr (by rw [key_qpState, hpk]; omega)]
    exact (congrArg (Fld.get _) hr).trans (h11 h16 q hq)
  · rw [ht, hws, hcu.2.2.1, h3]
  · rw [ht, hfol]
  · rw [ht, hm]
  · rw [hrd (by rw [key_folState, key_hpLink]; omega), hrf]

/-! ### HP_PERST_L (R317, R480) -/

/-- The pin and its mirror in HP_LINK. -/
def perstSet (s : State) (p : Fin 8) (asserted : Bool) : State :=
  let m := s.mgmt.perst
  let m := if asserted then (if m.testBit p then m else m + 2 ^ p.val) else (if m.testBit p then m - 2 ^ p.val else m)
  { s with mgmt := { s.mgmt with perst := m } }.put (.HP_LINK p) F.HP_LINK_PERST (if asserted then 1 else 0)

theorem testBit_raised (m i : Nat) : (if m.testBit i then m else m + 2 ^ i).testBit i = true := by
  split
  · next h => exact h
  · next h =>
    rw [Nat.add_comm, Nat.testBit_two_pow_add_eq]
    simp [h]

theorem testBit_lowered (m i : Nat) : (if m.testBit i then m - 2 ^ i else m).testBit i = false := by
  split
  · next h =>
    have hb := Nat.testBit_two_pow_add_eq (m - 2 ^ i) i
    rw [Nat.add_sub_of_le (Nat.ge_two_pow_of_testBit h), h] at hb
    simpa using hb.symm
  · next h => simpa using h

section Perst
variable {s : State} {p : Fin 8}

theorem perstSet_spec (s : State) (p : Fin 8) (a : Bool) : (perstSet s p a).mgmt.perst.testBit p = a ∧
    (perstSet s p a).get (.HP_LINK p) F.HP_LINK_PERST = (if a then 1 else 0) ∧
    (perstSet s p a).get (.HP_LINK p) F.HP_LINK_STATE = s.get (.HP_LINK p) F.HP_LINK_STATE ∧ regsBut s (perstSet s p a) [.HP_LINK p] ∧
    perstSet s p a = { s with regs := (perstSet s p a).regs, mgmt := { s.mgmt with perst := (perstSet s p a).mgmt.perst } } := by
  refine ⟨?_, ?_, ?_, ?_, rfl⟩
  · cases a
    · exact testBit_lowered ..
    · exact testBit_raised ..
  · refine (State.get_put_self (by decide) (by decide) ..).trans ?_
    cases a <;> rfl
  · exact State.get_put_apart (by decide) (by decide) (by decide) ..
  · exact regsBut_put { s with mgmt := _ } _ _ _

theorem exec_hpPerst (p : Fin 8) (a : Bool) (s : State) :
    exec (.hpPerst p a) s = .next (trainPort (if a then linkDown (perstSet s p a) p else perstSet s p a) p) := rfl

theorem mayTrain_of_asserted (h : s.mgmt.perst.testBit p = true) : mayTrain s p = false := by
  unfold mayTrain
  rw [h]
  simp

theorem perst_down (he : s.folio.portEnabled p = true) (hc : counts s p = false) :
    (∃ t, exec (.hpPerst p true) s = .next t ∧ t.mgmt.perst.testBit p = true ∧ t.get (.HP_LINK p) F.HP_LINK_PERST = 1 ∧
      t.get (.HP_LINK p) F.HP_LINK_STATE = (if s.get (.HP_LINK p) F.HP_LINK_STATE = 5 then 5 else 1) ∧ regsBut s t [.HP_LINK p] ∧
      t = { s with regs := t.regs, mgmt := { s.mgmt with perst := t.mgmt.perst } }) ∧
    (∃ t, exec (.hpPerst p false) s = .next t ∧ t.mgmt.perst.testBit p = false ∧ t.get (.HP_LINK p) F.HP_LINK_PERST = 0 ∧
      t.get (.HP_LINK p) F.HP_LINK_STATE = (if s.get .FOL_STATE F.FOL_STATE_STATE = 5 then 2
        else if s.get (.HP_LINK p) F.HP_LINK_STATE = 5 then 5 else 1) ∧ regsBut s t [.HP_LINK p] ∧
      t = { s with regs := t.regs, mgmt := { s.mgmt with perst := t.mgmt.perst } }) := by
  have hall (a : Bool) : ∃ t, exec (.hpPerst p a) s = .next t ∧ t.mgmt.perst.testBit p = a ∧ t.get (.HP_LINK p) F.HP_LINK_PERST = (if a then 1 else 0) ∧
      t.get (.HP_LINK p) F.HP_LINK_STATE = (if mayTrain (perstSet s p a) p then 2 else if s.get (.HP_LINK p) F.HP_LINK_STATE = 5 then 5 else 1) ∧
      regsBut s t [.HP_LINK p] ∧ t = { s with regs := t.regs, mgmt := { s.mgmt with perst := t.mgmt.perst } } := by
    obtain ⟨h1, h2, h3, h4, h5⟩ := perstSet_spec s p a
    have hx := exec_hpPerst p a s
    have hcc := (counts_congr h3).trans hc
    rw [show linkDown (perstSet s p a) p = perstSet s p a from if_pos (by rw [hcc]; decide), ite_self] at hx
    have hee : (perstSet s p a).folio.portEnabled p = true := he
    refine ⟨_, hx, ?_⟩
    generalize perstSet s p a = u at *
    have ht := sameUnits_trainPort u p
    have hst := state_trainPort hee hcc
    have hr : regsBut u (trainPort u p) [.HP_LINK p] := fun r hr => rd_trainPort (hr _ (List.mem_singleton_self _))
    have hper := get_trainPort (s := u) (p := p) (x := F.HP_LINK_PERST) (by decide) (by decide)
    have hfl : (trainPort u p).flips = u.flips := by
      unfold trainPort setPortLink
      split
      · rfl
      · split
        · rfl
        · split
          · rfl
          · split <;> rfl
    generalize trainPort u p = v at *
    refine ⟨by rw [ht]; exact h1, hper.trans h2, by rw [hst, h3], (regsBut.trans h4 hr).mono (by simp), ?_⟩
    rw [ht, hfl, h5]
  refine ⟨?_, ?_⟩
  · obtain ⟨t, h1, h2, h3, h4, h5, h6⟩ := hall true
    rw [mayTrain_of_asserted (perstSet_spec s p true).1] at h4
    exact ⟨t, h1, h2, h3, h4, h5, h6⟩
  · obtain ⟨t, h1, h2, h3, h4, h5, h6⟩ := hall false
    have hm : mayTrain (perstSet s p false) p = (s.get .FOL_STATE F.FOL_STATE_STATE == 5) := by
      have hf : (perstSet s p false).get .FOL_STATE F.FOL_STATE_STATE = s.get .FOL_STATE F.FOL_STATE_STATE :=
        congrArg (Fld.get _) ((perstSet_spec s p false).2.2.2.1 _ (by simp only [List.mem_singleton]; rintro _ rfl; rw [key_folState, key_hpLink]; omega))
      unfold mayTrain
      rw [(perstSet_spec s p false).1, hf, show (perstSet s p false).folio = s.folio from rfl, he]
      simp
    rw [hm] at h4
    refine ⟨t, h1, h2, h3, h4.trans ?_, h5, h6⟩
    by_cases hf : s.get .FOL_STATE F.FOL_STATE_STATE = 5
    · rw [if_pos hf, if_pos (by rw [hf]; rfl)]
    · rw [if_neg hf, if_neg (by simpa using hf)]

theorem perst_up (he : s.folio.portEnabled p = true) (hc : counts s p = true) :
    (∃ t, exec (.hpPerst p true) s = .next t ∧ t.mgmt.perst.testBit p = true ∧ t.get (.HP_LINK p) F.HP_LINK_PERST = 1 ∧
      t.get (.HP_LINK p) F.HP_LINK_STATE = 5 ∧ (t.port p).reads = [] ∧ (t.port p).txq = [] ∧ (t.rd (.HP_ERR p)).getLsbD 4 = true) ∧
    (∃ t, exec (.hpPerst p false) s = .next t ∧ t.mgmt.perst.testBit p = false ∧ t.get (.HP_LINK p) F.HP_LINK_PERST = 0 ∧
      t.get (.HP_LINK p) F.HP_LINK_STATE = s.get (.HP_LINK p) F.HP_LINK_STATE ∧ regsBut s t [.HP_LINK p] ∧
      t = { s with regs := t.regs, mgmt := { s.mgmt with perst := t.mgmt.perst } }) := by
  refine ⟨?_, ?_⟩
  · obtain ⟨h1, h2, h3, -, -⟩ := perstSet_spec s p true
    have hx := exec_hpPerst p true s
    rw [if_pos rfl] at hx
    have hee : (perstSet s p true).folio.portEnabled p = true := he
    generalize perstSet s p true = u at *
    obtain ⟨d1, d2, -, -, d3, d4, -, -, d5, -, -, -, -, d6, d7, d8⟩ := linkDown_spec ((counts_congr h3).trans hc)
    have hm := mayTrain_of_asserted (p := p) h1
    have hm' := mayTrain_congr (p := p) d6 d8 d7
    generalize linkDown u p = v at *
    have d1 := d1 hee
    rw [hm] at d1 hm'
    have hcv : counts v p = false := by
      unfold counts
      rw [d1]
      rfl
    have ht := sameUnits_trainPort v p
    have hport : (trainPort v p).port p = v.port p := by
      unfold State.port
      rw [ht]
    refine ⟨_, hx, by rw [ht, d7]; exact h1, ?_, ?_, by rw [hport, d3], by rw [hport, d4], ?_⟩
    · rw [get_trainPort (by decide) (by decide), d2, h2]
      rfl
    · rw [state_trainPort (by rw [d6]; exact hee) hcv, hm', d1]
      rfl
    · rw [rd_trainPort (by rw [key_hpErr, key_hpLink]; omega), d5]
  · obtain ⟨h1, h2, h3, h4, h5⟩ := perstSet_spec s p false
    have hx := exec_hpPerst p false s
    rw [if_neg (by decide), trainPort_of_up (s := perstSet s p false) he ((counts_congr h3).trans hc)] at hx
    exact ⟨_, hx, h1, h2, h3, h4, h5⟩

end Perst

/-! ### Training and retraining (R315, R316, R326) -/

section Rates
variable {s : State} {p : Fin 8}

theorem ratesOk_iff (p : Fin 8) (speed width : Nat) (s : State) : ratesOk s p speed width = true ↔
    (1 ≤ speed ∧ speed ≤ 6 ∧ (width = 4 ∨ width = 8 ∨ width = 16) ∧ width ≤ (s.folio.port? p).elim 0 (·.width)) := by
  simp only [ratesOk, Bool.and_eq_true, decide_eq_true_eq, Bool.or_eq_true, beq_iff_eq]
  tauto

/-- A port that has trained to a speed and a width, with NARROW noted. -/
def ratesNoted (s : State) (p : Fin 8) (speed width : Nat) (flit : Bool) : State :=
  noteNarrow (setPortLink (setRates s p speed width flit) p 3) p speed width

theorem ratesNoted_spec {speed width : Nat} (flit : Bool) (h : ratesOk s p speed width = true) :
    let t := ratesNoted s p speed width flit
    t.get (.HP_LINK p) F.HP_LINK_STATE = 3 ∧ t.get (.HP_LINK p) F.HP_LINK_SPEED = speed ∧ t.get (.HP_LINK p) F.HP_LINK_WIDTH = width ∧
      t.get (.HP_LINK p) F.HP_LINK_FLIT = (if flit = true ∨ speed = 6 then 1 else 0) ∧
      (speed < 6 ∨ width < (s.folio.port? p).elim 0 (·.width) → (t.rd (.HP_ERR p)).getLsbD 1 = true) ∧ sameUnits s t := by
  obtain ⟨-, h6, hw, -⟩ := (ratesOk_iff p speed width s).mp h
  let u := setPortLink (setRates s p speed width flit) p 3
  have hu : sameUnits s u := (((sameUnits_put ..).trans (sameUnits_put ..)).trans (sameUnits_put ..)).trans (sameUnits_put ..)
  have ha (t : State) {f x : Fld} (hf : f.lo ≤ f.hi) (hx : x.lo ≤ x.hi) (hd : x.hi < f.lo ∨ f.hi < x.lo) (n : Nat) :
      (t.put (.HP_LINK p) f n).get (.HP_LINK p) x = t.get (.HP_LINK p) x := State.get_put_apart hf hx hd ..
  have h1 : u.get (.HP_LINK p) F.HP_LINK_STATE = 3 := State.get_put_self (by decide) (by decide) ..
  have h2 : u.get (.HP_LINK p) F.HP_LINK_SPEED = speed :=
    (ha _ (by decide) (by decide) (by decide) _).trans ((ha _ (by decide) (by decide) (by decide) _).trans ((ha _ (by decide) (by decide) (by decide) _).trans
      ((State.get_put_self (by decide) (by decide) ..).trans (Nat.mod_eq_of_lt (show speed < 16 by omega)))))
  have h3 : u.get (.HP_LINK p) F.HP_LINK_WIDTH = width :=
    (ha _ (by decide) (by decide) (by decide) _).trans ((ha _ (by decide) (by decide) (by decide) _).trans
      ((State.get_put_self (by decide) (by decide) ..).trans (Nat.mod_eq_of_lt (show width < 32 by omega))))
  have h4 : u.get (.HP_LINK p) F.HP_LINK_FLIT = (if flit = true ∨ speed = 6 then 1 else 0) :=
    (ha _ (by decide) (by decide) (by decide) _).trans ((State.get_put_self (by decide) (by decide) ..).trans (Nat.mod_eq_of_lt (show _ < 2 by split <;> decide)))
  have hfol : u.folio = s.folio := rfl
  have hx : ratesNoted s p speed width flit = if speed < 6 ∨ width < (u.folio.port? p).elim 0 (·.width) then portErr u p 1 1 else u := rfl
  rw [hx, hfol]
  clear_value u
  dsimp only
  split
  · have hg (x : Fld) : (portErr u p 1 1).get (.HP_LINK p) x = u.get (.HP_LINK p) x :=
      congrArg (Fld.get x) (rd_portErr_ne (noteKept_hp (by rw [key_hpLink]; omega)) (by rw [key_hpLink, key_hpErr]; omega) ..)
    exact ⟨(hg _).trans h1, (hg _).trans h2, (hg _).trans h3, (hg _).trans h4, fun _ => err_portErr u p (by decide) 1, hu.trans (sameUnits_raise ..)⟩
  · next hn => exact ⟨h1, h2, h3, h4, fun h => absurd h hn, hu⟩

theorem linkUp_spec {speed width : Nat} {flit : Bool} (hm : mayTrain s p = true) (hc : counts s p = false) (hr : ratesOk s p speed width = true) :
    ∃ t, exec (.pcieLinkUp p speed width flit) s = .next t ∧ t.get (.HP_LINK p) F.HP_LINK_STATE = 3 ∧
      t.get (.HP_LINK p) F.HP_LINK_SPEED = speed ∧ t.get (.HP_LINK p) F.HP_LINK_WIDTH = width ∧
      t.get (.HP_LINK p) F.HP_LINK_FLIT = (if flit = true ∨ speed = 6 then 1 else 0) ∧ counts t p = true ∧ t.ports = s.ports ∧
      (speed < 6 ∨ width < (s.folio.port? p).elim 0 (·.width) → (t.rd (.HP_ERR p)).getLsbD 1 = true) := by
  obtain ⟨h1, h2, h3, h4, h5, h6⟩ := ratesNoted_spec flit hr
  have hx : exec (.pcieLinkUp p speed width flit) s = .next (retarget (ratesNoted s p speed width flit)) :=
    if_neg (by rw [hm, hc, hr]; decide)
  refine ⟨_, hx, ?_⟩
  generalize ratesNoted s p speed width flit = u at *
  obtain ⟨hs, hk⟩ := powerStep_retarget u
  have hg (x : Fld) : (retarget u).get (.HP_LINK p) x = u.get (.HP_LINK p) x := congrArg (Fld.get x) (hk _ (apartFromPower_hp (by rw [key_hpLink]; omega)))
  refine ⟨(hg _).trans h1, (hg _).trans h2, (hg _).trans h3, (hg _).trans h4, ?_, by rw [hs, h6], fun h => ?_⟩
  · unfold counts
    rw [hg, h1]
    rfl
  · rw [hk _ (apartFromPower_hp (by rw [key_hpErr]; omega))]
    exact h5 h

theorem linkUp_none {speed width : Nat} {flit : Bool} (h : mayTrain s p = false ∨ counts s p = true ∨ ratesOk s p speed width = false) :
    exec (.pcieLinkUp p speed width flit) s = .next s :=
  if_pos (by rcases h with h | h | h <;> simp [h])

theorem retrain_spec {speed width : Nat} {flit : Bool} (hc : counts s p = true) (hl : (s.port p).l1 = false) (hr : ratesOk s p speed width = true) :
    ∃ t, exec (.pcieRetrain p (some (speed, flit)) width) s = .next (wakePort t p) ∧ t.get (.HP_LINK p) F.HP_LINK_STATE = 3 ∧
      t.get (.HP_LINK p) F.HP_LINK_SPEED = speed ∧ t.get (.HP_LINK p) F.HP_LINK_WIDTH = width ∧
      t.get (.HP_LINK p) F.HP_LINK_FLIT = (if flit = true ∨ speed = 6 then 1 else 0) ∧
      (speed < 6 ∨ width < (s.folio.port? p).elim 0 (·.width) → (t.rd (.HP_ERR p)).getLsbD 1 = true) ∧
      t = { s with regs := t.regs, flips := t.flips } :=
  ⟨ratesNoted s p speed width flit, if_neg (by rw [hc, hl, hr]; decide), ratesNoted_spec flit hr⟩

end Rates

/-! ### What waited in a port, L1 and LTR (R325, R326, R335, R340) -/

theorem countBlk_port (s : State) (p ev n : Nat) : s.countBlk (48 + p) ev n = s.countEv (0x1030 + p) ev n := by
  rw [State.countBlk, show 0x1000 + (48 + p) = 0x1030 + p by omega]

/-- TLPs that leave a port in order, each counted. -/
structure TlpsOut (p : Fin 8) (q : List Outward) (s t : State) : Prop where
  out : t.out = s.out ++ q
  events : eventsBut s t [(0x1030 + p.val, 0x0402)]
  same : t = { s with out := t.out, events := t.events }

theorem tlpsOut_outTlp (p : Fin 8) (s : State) (o : Outward) : TlpsOut p [o] s (outTlp p s o) := by
  unfold outTlp
  rw [countBlk_port]
  exact ⟨rfl, eventsBut_countEv s _ _ 1, rfl⟩

theorem tlpsOut_overAll (p : Fin 8) (q : List Outward) (s : State) : TlpsOut p q s (overAll q (outTlp p) s) := by
  induction q generalizing s with
  | nil => exact ⟨(List.append_nil _).symm, fun _ _ _ => rfl, rfl⟩
  | cons o q ih =>
    obtain ⟨h1, h2, h3⟩ := tlpsOut_outTlp p s o
    obtain ⟨i1, i2, i3⟩ := ih (outTlp p s o)
    have hx : overAll (o :: q) (outTlp p) s = overAll q (outTlp p) (outTlp p s o) := List.foldl_cons ..
    rw [hx]
    refine ⟨by rw [i1, h1, List.append_assoc]; rfl, fun u e h => (i2 u e h).trans (h2 u e h), ?_⟩
    generalize overAll q (outTlp p) (outTlp p s o) = v at *
    rw [i3, h3]

theorem wakePort_spec (p : Fin 8) (s : State) : ∃ v, wakePort s p = overAll (portFns s p) wakeFn v ∧ v.out = s.out ++ (s.port p).txq ∧
    v.port p = { s.port p with txq := [] } ∧ portsBut s v [p.val] ∧ eventsBut s v [(0x1030 + p.val, 0x0402)] ∧
    v = { s with ports := v.ports, out := v.out, events := v.events } := by
  obtain ⟨h1, h2, h3⟩ := tlpsOut_overAll p (s.port p).txq (s.setPort p { s.port p with txq := [] })
  have hself : (s.setPort p { s.port p with txq := [] }).port p = { s.port p with txq := [] } := State.port_setPort_self ..
  have hne (i : Nat) (h : i ∉ [p.val]) : (s.setPort p { s.port p with txq := [] }).port i = s.port i :=
    State.port_setPort_ne _ _ _ _ (by simpa using h)
  have hx : wakePort s p = overAll (portFns (overAll (s.port p).txq (outTlp p) (s.setPort p { s.port p with txq := [] })) p) wakeFn
      (overAll (s.port p).txq (outTlp p) (s.setPort p { s.port p with txq := [] })) := rfl
  rw [hx]
  generalize overAll (s.port p).txq (outTlp p) (s.setPort p { s.port p with txq := [] }) = v at *
  have hpo : v.ports = (s.setPort p { s.port p with txq := [] }).ports := (congrArg State.ports h3).trans rfl
  have hp (i : Nat) : v.port i = (s.setPort p { s.port p with txq := [] }).port i := congrArg (fun m => NMap.getD m i Port.init) hpo
  have hfo : v.folio = s.folio := (congrArg State.folio h3).trans rfl
  have hf : portFns v p = portFns s p := congrArg (fun l : List Nat => FnId.pf p :: l.map (fun v => FnId.vf (Fin.ofNat 4096 v))) (portVfs_congr hfo p)
  refine ⟨v, by rw [hf], h1, (hp _).trans hself, fun i hi => (hp i).trans (hne i hi), h2, ?_⟩
  rw [h3]
  rfl

section Idle
variable {s : State} {p : Fin 8}

theorem l1Entry_spec (hu : linkIsUp s p = true) (hc : (cfg s (.pf p) 0x80).getLsbD 1 = true) (hr : (s.port p).reads = [])
    (hq : (s.port p).txq = []) (hl : (s.port p).l1 = false) :
    ∃ t, exec (.portL1Entry p) s = .next t ∧ t.port p = { s.port p with l1 := true } ∧ t.get (.HP_LINK p) F.HP_LINK_L1 = 1 ∧
      portsBut s t [p.val] ∧ regsBut s t [.HP_LINK p] ∧
      t.eventCount (0x1030 + p.val) 0x0406 = s.eventCount (0x1030 + p.val) 0x0406 + 1 ∧
      eventsBut s t [(0x1030 + p.val, 0x0406)] ∧
      t = { s with regs := t.regs, ports := t.ports, events := t.events } := by
  let u := (s.setPort p { s.port p with l1 := true }).put (.HP_LINK p) F.HP_LINK_L1 1
  have hx : exec (.portL1Entry p) s = .next (u.countBlk (48 + p) 0x0406 1) := if_pos ⟨hu, hc, hr, hq, by rw [hl]; decide⟩
  rw [countBlk_port] at hx
  have h1 : u.port p = { s.port p with l1 := true } := State.port_setPort_self ..
  have h2 : u.get (.HP_LINK p) F.HP_LINK_L1 = 1 := State.get_put_self (by decide) (by decide) ..
  have h3 : portsBut s u [p.val] := fun i h => State.port_setPort_ne _ _ _ _ (by simpa using h)
  have h4 : regsBut s u [.HP_LINK p] := regsBut_put (s.setPort p { s.port p with l1 := true }) _ _ _
  exact ⟨_, hx, h1, h2, h3, h4, eventCount_countEv_self u _ _ 1, eventsBut_countEv u _ _ 1, rfl⟩

theorem l1Exit_spec (hl : (s.port p).l1 = true) :
    ∃ t, exec (.portL1Exit p) s = .next (wakePort t p) ∧ t.port p = { s.port p with l1 := false } ∧
      t.get (.HP_LINK p) F.HP_LINK_L1 = 0 ∧ portsBut s t [p.val] ∧ regsBut s t [.HP_LINK p] ∧
      t = { s with regs := t.regs, ports := t.ports } := by
  refine ⟨(s.setPort p { s.port p with l1 := false }).put (.HP_LINK p) F.HP_LINK_L1 0, if_neg (by rw [hl]; decide), State.port_setPort_self ..,
    State.get_put_self (by decide) (by decide) .., fun i h => State.port_setPort_ne _ _ _ _ (by simpa using h), ?_, rfl⟩
  exact regsBut_put (s.setPort p { s.port p with l1 := false }) _ _ _

/-- The least tolerance of a list of functions is no more than the bound that it starts from. -/
theorem foldl_min_le (s : State) (l : List FnId) (m : Nat) : l.foldl (fun m f => min m (tolerance s f)) m ≤ m := by
  induction l generalizing m with
  | nil => exact Nat.le_refl m
  | cons f l ih => exact (ih _).trans (Nat.min_le_left ..)

/-- A port with a tolerance that it has told of. -/
def ltrTold (s : State) (p : Fin 8) (n : Nat) : State :=
  ((s.setPort p { s.port p with ltr := some n, ltrAt := s.cycle }).inc (.HP_LTR p) F.HP_LTR_SENT).put (.HP_LTR p) F.HP_LTR_LAST_NS n

theorem sendTlp_of_up (hu : linkIsUp s p = true) (hl : (s.port p).l1 = false) (o : Outward) : sendTlp s p o = outTlp p s o := by
  have hst : s.get (.HP_LINK p) F.HP_LINK_STATE = 3 := eq_of_beq hu
  unfold sendTlp
  dsimp only
  rw [if_neg (by omega), if_neg (by rw [hl, hst]; decide)]

theorem ltrSend_spec {n : Nat} (hu : linkIsUp s p = true) (hc : (cfg s (.pf p) 0x98).getLsbD 10 = true) (hl : (s.port p).l1 = false)
    (hn : n = (portFns s p).foldl (fun m f => min m (tolerance s f)) 1048576)
    (ht : (s.port p).ltr = none ∨ ((s.port p).ltr ≠ some n ∧ (s.port p).ltrAt + 20000 ≤ s.cycle)) :
    ∃ t, exec (.ltrSend p) s = .next t ∧ t.out = s.out ++ [.ltr p (ltrField n) (ltrField n)] ∧
      t.get (.HP_LTR p) F.HP_LTR_LAST_NS = n ∧ t.port p = { s.port p with ltr := some n, ltrAt := s.cycle } ∧
      portsBut s t [p.val] ∧ regsBut s t [.HP_LTR p] ∧
      t.eventCount (0x1030 + p.val) 0x0402 = s.eventCount (0x1030 + p.val) 0x0402 + 1 ∧ eventsBut s t [(0x1030 + p.val, 0x0402)] ∧
      t = { s with regs := t.regs, ports := t.ports, out := t.out, events := t.events } := by
  have hlt : n < 2 ^ 32 := by
    have := foldl_min_le s (portFns s p) 1048576
    omega
  have hcond : ¬ (¬ linkIsUp s p = true ∨ ¬ (cfg s (.pf p) 0x98).getLsbD 10 = true ∨ (s.port p).ltr = some n ∨
      ((s.port p).ltr.isSome = true ∧ s.cycle < (s.port p).ltrAt + 20000)) := by
    rintro (h | h | h | ⟨h, h'⟩)
    · exact h hu
    · exact h hc
    · rcases ht with ht | ht
      · rw [ht] at h
        exact nomatch h
      · exact ht.1 h
    · rcases ht with ht | ht
      · rw [ht] at h
        exact Bool.false_ne_true h
      · omega
  have hx : exec (.ltrSend p) s = .next (sendTlp (ltrTold s p n) p (.ltr p (ltrField n) (ltrField n))) := by
    rw [hn] at hcond ⊢
    exact if_neg hcond
  have h1 : (ltrTold s p n).port p = { s.port p with ltr := some n, ltrAt := s.cycle } := State.port_setPort_self ..
  have h2 : (ltrTold s p n).get (.HP_LTR p) F.HP_LTR_LAST_NS = n := (State.get_put_self (by decide) (by decide) ..).trans (Nat.mod_eq_of_lt hlt)
  have h3 : portsBut s (ltrTold s p n) [p.val] := fun i h => State.port_setPort_ne _ _ _ _ (by simpa using h)
  have h4 : regsBut s (ltrTold s p n) [.HP_LTR p] := fun r hr =>
    (State.rd_put_ne (hr _ (List.mem_singleton_self _)) ..).trans (State.rd_put_ne (hr _ (List.mem_singleton_self _)) ..)
  have h5 : linkIsUp (ltrTold s p n) p = true := by
    have hg : (ltrTold s p n).get (.HP_LINK p) F.HP_LINK_STATE = s.get (.HP_LINK p) F.HP_LINK_STATE :=
      congrArg (Fld.get _) (h4 _ (by simp only [List.mem_singleton]; rintro _ rfl; rw [key_hpLink, key_hpLtr]; omega))
    unfold linkIsUp
    rw [hg]
    exact hu
  have h6 : ltrTold s p n = { s with regs := (ltrTold s p n).regs, ports := (ltrTold s p n).ports } := rfl
  rw [sendTlp_of_up h5 (by rw [h1]; exact hl), outTlp, countBlk_port] at hx
  refine ⟨_, hx, ?_⟩
  generalize ltrTold s p n = u at *
  refine ⟨?_, h2, h1, h3, h4, ?_, ?_, ?_⟩
  · show u.out ++ _ = s.out ++ _
    rw [h6]
  · refine (eventCount_countEv_self u _ _ 1).trans ?_
    rw [h6]
    rfl
  · intro a e h
    refine (eventsBut_countEv u _ _ 1 a e h).trans ?_
    rw [h6]
    rfl
  · rw [h6]
    rfl

end Idle

/-! ### HP_INJECT (R341) -/

section Inject
variable {s : State} {p : Fin 8} {who : Agent} {v : Word}

/-- A bit of HP_INJECT after a write, of a value whose bits 1 and 3 are named. -/
theorem bit_hpInject_written {c : Word} (hv : v &&& 0xA = c) (old : Word) {i : Nat} (hi : (0xA : Word).getLsbD i = true)
    (hx : (⟨⟨i, i⟩, .rw, 0⟩ : FldRow) ∈ (Reg.HP_INJECT p).fields) : (Fld.get ⟨i, i⟩ ((Reg.HP_INJECT p).written old v) != 0) = c.getLsbD i := by
  rw [(registerFields (.HP_INJECT p) old v ⟨⟨i, i⟩, .rw, 0⟩ hx).1 (.inl rfl), Fld.get_bit, ← hv, BitVec.getLsbD_and, hi, Bool.and_true]

/-- A write of HP_INJECT by H[0] that has no read to time out. -/
theorem hpInject_quiet {c : Word} (hw : s.isHouse who = true) (hv : v &&& 0xA = c) (h1 : c.getLsbD 1 = true → (s.port p).reads = []) : hpInject s who p v =
    let u := s.wr (.HP_INJECT p) ((Reg.HP_INJECT p).written (s.rd (.HP_INJECT p)) v)
    if c.getLsbD 3 then linkDown (u.put (.HP_INJECT p) F.HP_INJECT_LINK_DOWN 0) p else u := by
  have hb := bit_hpInject_written (p := p) hv (s.rd (.HP_INJECT p)) (i := 3) (by decide) (by simp [Reg.fields])
  have hrd : (s.wr (.HP_INJECT p) ((Reg.HP_INJECT p).written (s.rd (.HP_INJECT p)) v)).bit (.HP_INJECT p) F.HP_INJECT_LINK_DOWN = c.getLsbD 3 := by
    rw [← hb]
    unfold State.bit State.get
    rw [State.rd_wr_self]
  have hb' := bit_hpInject_written (p := p) hv (s.rd (.HP_INJECT p)) (i := 1) (by decide) (by simp [Reg.fields])
  have hrd' : (s.wr (.HP_INJECT p) ((Reg.HP_INJECT p).written (s.rd (.HP_INJECT p)) v)).bit (.HP_INJECT p) F.HP_INJECT_TIMEOUT = c.getLsbD 1 := by
    rw [← hb']
    unfold State.bit State.get
    rw [State.rd_wr_self]
  have hp : ((s.wr (.HP_INJECT p) ((Reg.HP_INJECT p).written (s.rd (.HP_INJECT p)) v)).port p).reads = (s.port p).reads := rfl
  unfold hpInject
  rw [if_neg (by rw [hw]; decide)]
  dsimp only
  rw [hrd', hp]
  by_cases h : c.getLsbD 1 = true
  · rw [if_pos h, h1 h]
    dsimp only
    rw [hrd]
  · rw [if_neg h, hrd]

theorem hpInject_linkDown (hw : s.isHouse who = true) (hv : v &&& 0xA = 8) (hc : counts s p = true) :
    ∃ t, exec (.hpInjectLinkDown who p v) s = .next t ∧
      (s.folio.portEnabled p = true → t.get (.HP_LINK p) F.HP_LINK_STATE = (if mayTrain s p then 2 else 5)) ∧ (t.port p).reads = [] := by
  let u := (s.wr (.HP_INJECT p) ((Reg.HP_INJECT p).written (s.rd (.HP_INJECT p)) v)).put (.HP_INJECT p) F.HP_INJECT_LINK_DOWN 0
  have hx : exec (.hpInjectLinkDown who p v) s = .next (linkDown u p) := congrArg Host.Outcome.next (hpInject_quiet hw hv (fun h => absurd h (by decide)))
  have hr {r : Reg} (h : r.key ≠ (Reg.HP_INJECT p).key) : u.rd r = s.rd r := (State.rd_put_ne h ..).trans (State.rd_wr_ne _ _ _ _ h)
  have hl : u.get (.HP_LINK p) F.HP_LINK_STATE = s.get (.HP_LINK p) F.HP_LINK_STATE :=
    congrArg (Fld.get _) (hr (by rw [key_hpLink, key_hpInject]; omega))
  have hm : mayTrain u p = mayTrain s p := mayTrain_congr rfl (hr (by rw [key_folState, key_hpInject]; omega)) rfl
  have hf : u.folio = s.folio := rfl
  clear_value u
  obtain ⟨h1, -, -, -, h2, -⟩ := linkDown_spec ((counts_congr hl).trans hc)
  rw [hm, hf] at h1
  exact ⟨_, hx, h1, h2⟩

theorem portInjections (who : Agent) (p : Fin 8) (v : Word) (s : State) :
    (s.isHouse who = false → exec (.hpInjectLinkDown who p v) s = .next s ∧ exec (.hpInjectPoison who p v) s = .next s ∧
      exec (.hpInjectTimeout who p v) s = .next s ∧ exec (.hpInjectLcrc who p v) s = .next s) ∧
    (s.isHouse who = true → v &&& 0xA = 0 →
      exec (.hpInjectPoison who p v) s = .next (s.wr (.HP_INJECT p) ((Reg.HP_INJECT p).written (s.rd (.HP_INJECT p)) v)) ∧
      exec (.hpInjectLcrc who p v) s = .next (s.wr (.HP_INJECT p) ((Reg.HP_INJECT p).written (s.rd (.HP_INJECT p)) v))) ∧
    (s.isHouse who = true → v &&& 0xA = 2 → (s.port p).reads = [] →
      exec (.hpInjectTimeout who p v) s = .next (s.wr (.HP_INJECT p) ((Reg.HP_INJECT p).written (s.rd (.HP_INJECT p)) v))) ∧
    (s.isHouse who = true → v &&& 0xA = 8 → counts s p = true →
      ∃ t, exec (.hpInjectLinkDown who p v) s = .next t ∧
        (s.folio.portEnabled p = true → t.get (.HP_LINK p) F.HP_LINK_STATE = (if mayTrain s p then 2 else 5)) ∧ (t.port p).reads = []) := by
  refine ⟨fun h => ?_, fun hw hv => ?_, fun hw hv hr => ?_, fun hw hv hc => hpInject_linkDown hw hv hc⟩
  · have hx : (Host.Outcome.next (hpInject s who p v) : Out) = .next s := congrArg Host.Outcome.next (if_pos (by rw [h]; decide))
    exact ⟨hx, hx, hx, hx⟩
  · have hq := hpInject_quiet (p := p) hw hv (fun h => absurd h (by decide))
    exact ⟨congrArg Host.Outcome.next hq, congrArg Host.Outcome.next hq⟩
  · exact congrArg Host.Outcome.next (hpInject_quiet hw hv (fun _ => hr))

end Inject

/-- Settles O38, from what a link down leaves of its port and of the functions, what the port's pin and its training do to HP_LINK, and
what leaves a port when it wakes. -/
theorem portLinks : Obligations.PortLinks :=
  ⟨fun _ _ he hc => perst_down he hc, fun _ _ he hc => perst_up he hc, fun _ _ _ _ _ hm hc hr => linkUp_spec hm hc hr,
    fun _ _ _ _ _ h => linkUp_none h, fun p speed width s => ratesOk_iff p speed width s, fun _ _ _ hu hl => if_pos ⟨hu, by rw [hl]; decide⟩,
    fun _ _ _ _ _ hc hl hr => retrain_spec hc hl hr, wakePort_spec,
    fun p s hc he => by
      obtain ⟨h1, -, h3, h4, h5, h6, h7, h8, h9, h10, h11, h12, h13, -⟩ := linkDown_spec hc
      have hst := h1 he
      refine ⟨_, rfl, hst, ?_, h3, h4, h5, h6, h7, h8, h9, h10, h11, h12, h13⟩
      unfold counts
      rw [hst]
      split <;> rfl,
    fun _ _ hc => congrArg Host.Outcome.next (if_pos (by rw [hc]; decide)), fun _ _ hu hc hr hq hl => l1Entry_spec hu hc hr hq hl,
    fun _ _ hl => l1Exit_spec hl, fun _ _ _ hu hc hl hn ht => ltrSend_spec hu hc hl hn ht, portInjections⟩

end Sys2Proof.Machine
end

section
/-! SUPPORT. Requests and completions at the host ports (O39) -/

namespace Sys2Proof.Machine

/-! ### Errors of functions and of the link (R340) -/

/-- What an error that a function logs may change, and a TLP that reports it. -/
structure AerStep (p : Fin 8) (s t : State) : Prop where
  same : t = { s with fns := t.fns, ports := t.ports, out := t.out, events := t.events }
  ports : portReady s p = true → t.ports = s.ports
  events : eventsBut s t [(0x1030 + p.val, 0x0402)]

namespace AerStep
variable {p : Fin 8} {s t u : State}

theorem refl (s : State) : AerStep p s s := ⟨rfl, fun _ => rfl, fun _ _ _ => rfl⟩

theorem rd (h : AerStep p s t) (r : Reg) : t.rd r = s.rd r := by
  rw [h.same]
  rfl

theorem ready (h : AerStep p s t) (hr : portReady s p = true) : portReady t p = true := by
  have hp := h.ports hr
  rw [← hr]
  unfold portReady linkIsUp State.get State.port
  rw [h.rd, hp]

theorem trans (h : AerStep p s t) (h' : AerStep p t u) : AerStep p s u :=
  ⟨by rw [h'.same, h.same], fun hr => (h'.ports (h.ready hr)).trans (h.ports hr), fun a e he => (h'.events a e he).trans (h.events a e he)⟩

theorem orCfg (s : State) (f : FnId) (o : Nat) (m : Word) : AerStep p s (Machine.orCfg s f o m) := ⟨rfl, fun _ => rfl, fun _ _ _ => rfl⟩

theorem sendTlp (s : State) (o : Outward) : AerStep p s (Machine.sendTlp s p o) := by
  unfold Machine.sendTlp
  dsimp only
  split
  · exact refl s
  · next hst =>
    split
    · next hl =>
      refine ⟨rfl, fun hr => ?_, fun _ _ _ => rfl⟩
      unfold portReady linkIsUp at hr
      rw [Bool.and_eq_true, beq_iff_eq, Bool.not_eq_true'] at hr
      rcases hl with hl | hl
      · rw [hr.2] at hl
        exact absurd hl (by decide)
      · omega
    · unfold outTlp
      rw [countBlk_port]
      exact ⟨rfl, fun _ => rfl, eventsBut_countEv s _ _ 1⟩

theorem ite {c : Prop} [Decidable c] (ht : AerStep p s t) (hu : AerStep p s u) : AerStep p s (if c then t else u) := by
  split
  · exact ht
  · exact hu

end AerStep

/-- The message of an error, where it is enabled. -/
theorem aerStep_say {p : Fin 8} {s : State} (c : Bool) (o : Outward) : AerStep p s (if c = true then sendTlp s p o else s) :=
  .ite (.sendTlp ..) (.refl s)

theorem aerStep_aerLog (s : State) (f : FnId) (kind : ErrKind) (k : Nat) : AerStep (fnPort8 s f) s (aerLog s f kind k).2 := by
  unfold aerLog
  dsimp only
  split
  · exact ((AerStep.orCfg ..).trans (.orCfg ..)).trans (aerStep_say ..)
  · split
    · exact ((AerStep.orCfg ..).trans (.orCfg ..)).trans (aerStep_say ..)
    · split
      · exact (((AerStep.orCfg ..).trans (.orCfg ..)).trans (.orCfg ..)).trans (aerStep_say ..)
      · exact ((AerStep.orCfg ..).trans (.orCfg ..)).trans (aerStep_say ..)

/-- The part of an error that stands in the configuration space. -/
def fnLogged (s : State) (f : FnId) (b : Nat) : State :=
  match aerBit b with
  | some k =>
    let s := if b = 0 then orCfg s f 0x78 0x80000 else s
    (aerLog s f (if b < 3 then .advisory else .nonFatal) k).2
  | none => s

theorem fnErr_eq (s : State) (f : FnId) (b : Nat) :
    fnErr s f b = (fnLogged s f b).raise (.HP_FN_ERR f.key) b 18 f.unit (some (fnHand (fnLogged s f b) f)) 1 0 := rfl

theorem fnPort8_congr {s t : State} (h : t.folio = s.folio) (f : FnId) : fnPort8 t f = fnPort8 s f := congrArg (Fin.ofNat 8) (fnPort_congr h f)

theorem aerStep_fnLogged (s : State) (f : FnId) (b : Nat) : AerStep (fnPort8 s f) s (fnLogged s f b) := by
  unfold fnLogged
  split
  · dsimp only
    split
    · exact (AerStep.orCfg ..).trans (aerStep_aerLog (orCfg s f 0x78 0x80000) ..)
    · exact aerStep_aerLog ..
  · exact .refl s

/-- What a function's error may change. -/
structure ErrStep (p : Fin 8) (s t : State) : Prop where
  same : t = { s with regs := t.regs, flips := t.flips, cores := t.cores, queues := t.queues, ledgers := t.ledgers, outbox := t.outbox,
                      fns := t.fns, ports := t.ports, out := t.out, events := t.events }
  ports : portReady s p = true → t.ports = s.ports
  events : eventsBut s t [(0x1030 + p.val, 0x0402)]

theorem FaultStep.errStep {p : Fin 8} {s t : State} (h : FaultStep s t) : ErrStep p s t := by
  rw [FaultStep] at h
  refine ⟨?_, fun _ => ?_, fun _ _ _ => ?_⟩
  · rw [h]
  · rw [h]
  · rw [h]
    rfl

theorem AerStep.fault {p : Fin 8} {s t u : State} (h : AerStep p s t) (h' : FaultStep t u) : ErrStep p s u := by
  rw [FaultStep] at h'
  refine ⟨?_, fun hr => ?_, fun a e he => ?_⟩
  · rw [h', h.same]
  · rw [h']
    exact h.ports hr
  · rw [h']
    exact h.events a e he

theorem errStep_fnErr (s : State) (f : FnId) (b : Nat) : ErrStep (fnPort8 s f) s (fnErr s f b) := by
  rw [fnErr_eq]
  exact (aerStep_fnLogged s f b).fault (.raise ..)

/-- No loss of a hand, of whatever number, writes a function's error register. -/
theorem lossKept_hpFnErr (h : Nat) {f : Nat} (hf : f < 0x2000) : LossKept h (.HP_FN_ERR f) := by
  refine ⟨⟨?_, ?_⟩, ?_, ?_, ?_, ?_⟩
  · rw [key_hpFnErr]; omega
  · rw [key_hpFnErr]; omega
  · rw [key_hpFnErr]; omega
  · rw [key_hpFnErr, key_fabHand]; omega
  · rw [key_hpFnErr, key_csqLdgErr]; omega
  · rw [key_hpFnErr, key_csqLdgPhase]; omega

theorem bit_fnErr_set (s : State) (f : FnId) {b : Nat} (hb : b < 64) : ((fnErr s f b).rd (.HP_FN_ERR f.key)).getLsbD b = true := by
  have hl (h : Nat) := lossKept_hpFnErr h (f := f.key) (by have := fnKey_lt f; omega)
  rw [fnErr_eq, State.raise, rd_fault (hl 0).note (show 18 < 32 by decide) (fun h _ => hl h) (fun c _ => by have := key_coreState_ge c; have := fnKey_lt f; rw [key_hpFnErr]; omega),
    State.rd_wr_self, BitVec.getLsbD_or, getLsbD_one_shift hb, decide_eq_true rfl, Bool.or_true]

/-! ### What a logged error leaves in the configuration space -/

theorem cfg_of_fns {s t : State} (h : t.fns = s.fns) (f : FnId) (o : Nat) : cfg t f o = cfg s f o := by
  unfold cfg State.fn
  rw [h]

theorem fns_sendTlp (s : State) (p : Nat) (o : Outward) : (sendTlp s p o).fns = s.fns := congrArg (fun v => v.2.1) (fnView_sendTlp s p o)

theorem fns_say (s : State) (p : Nat) (o : Outward) (c : Bool) : (if c = true then sendTlp s p o else s).fns = s.fns := by
  split
  · exact fns_sendTlp ..
  · rfl

theorem cfg_orCfg_self (s : State) (f : FnId) (o : Nat) (m : Word) : cfg (orCfg s f o m) f o = cfg s f o ||| m := by
  unfold orCfg
  rw [cfg_setCfg, if_pos rfl]

theorem cfg_orCfg_ne (s : State) (f : FnId) {o a : Nat} (h : a ≠ o) (m : Word) : cfg (orCfg s f o m) f a = cfg s f a := by
  unfold orCfg
  rw [cfg_setCfg, if_neg h]

/-- The status bit of an error in the AER capability. -/
theorem cfg_aerLog (s : State) (f : FnId) {k : Nat} (hk : k < 64) : (cfg (aerLog s f .advisory k).2 f 0x104).getLsbD k = true := by
  have hb : (cfg (orCfg s f 0x104 (BitVec.ofNat 64 (2 ^ k))) f 0x104).getLsbD k = true := by
    rw [cfg_orCfg_self, BitVec.getLsbD_or, getLsbD_one_shift hk, decide_eq_true rfl, Bool.or_true]
  unfold aerLog
  dsimp only
  rw [if_neg (by decide)]
  split
  · rw [cfg_of_fns (fns_say ..), cfg_orCfg_ne _ _ (by decide)]
    exact hb
  · rw [if_pos rfl, cfg_of_fns (fns_say ..), cfg_orCfg_ne _ _ (by decide), cfg_orCfg_ne _ _ (by decide)]
    exact hb

theorem cfg_fnErr_unsupported (s : State) (f : FnId) : (cfg (fnErr s f 0) f 0x104).getLsbD 20 = true := by
  have hf : FaultStep (fnLogged s f 0) (fnErr s f 0) := by
    rw [fnErr_eq]
    exact .raise ..
  have hfns : (fnErr s f 0).fns = (fnLogged s f 0).fns := by rw [hf]
  rw [cfg_of_fns hfns]
  exact cfg_aerLog (orCfg s f 0x78 0x80000) f (by decide)

/-! ### Requests that come in (R322, R331, R340) -/

section Requests
variable {p : Fin 8} {m : Tlp} {s : State}

theorem lcrcReplay_of_clear (h : s.bit (.HP_INJECT p) F.HP_INJECT_LCRC = false) : lcrcReplay s p = s := if_neg (by rw [h]; decide)

/-- What a TLP that is taken does, where no LCRC error is injected. -/
def tlpTaken (p : Fin 8) (m : Tlp) (s : State) : State :=
  match m.kind with
  | .cfgRead => cfgRequest (tookTlp s p) p m false
  | .cfgWrite => cfgRequest (tookTlp s p) p m true
  | .memRead => memRequest (tookTlp s p) p m false
  | .memWrite => memRequest (tookTlp s p) p m true
  | .other posted => unsupported (tookTlp s p) p posted
  | .fatal e => linkFatal (tookTlp s p) p e
  | .damaged => replayed s p

theorem exec_inboundTlp (hu : linkIsUp s p = true) : exec (.inboundTlp p m) s = .next (tlpTaken p m (lcrcReplay s p)) := by
  refine (if_neg (by rw [hu]; decide)).trans ?_
  unfold tlpTaken
  cases m.kind <;> rfl

theorem exec_inboundTlp_clean (hu : linkIsUp s p = true) (hl : s.bit (.HP_INJECT p) F.HP_INJECT_LCRC = false) :
    exec (.inboundTlp p m) s = .next (tlpTaken p m s) := by
  rw [exec_inboundTlp hu, lcrcReplay_of_clear hl]

/-- The registers of a port through a replay: only HP_ERR. -/
theorem rd_replayed (s : State) (p : Fin 8) {r : Reg} (hn : noteKept r) (hne : r.key ≠ (Reg.HP_ERR p).key) : (replayed s p).rd r = s.rd r := by
  have ha : AerStep (fnPort8 (s.countBlk (48 + p) 0x0407 1) (.pf p)) (s.countBlk (48 + p) 0x0407 1) (aerLog (s.countBlk (48 + p) 0x0407 1) (.pf p) .correctable 6).2 :=
    aerStep_aerLog ..
  exact (rd_portErr_ne hn hne ..).trans (ha.rd r)

theorem inbound_replayed (hu : linkIsUp s p = true) (hl : s.bit (.HP_INJECT p) F.HP_INJECT_LCRC = true) :
    exec (.inboundTlp p m) s = exec (.inboundTlp p m) (replayed (s.put (.HP_INJECT p) F.HP_INJECT_LCRC 0) p) := by
  have hx : lcrcReplay s p = replayed (s.put (.HP_INJECT p) F.HP_INJECT_LCRC 0) p := if_pos hl
  have hi : (s.put (.HP_INJECT p) F.HP_INJECT_LCRC 0).get (.HP_INJECT p) F.HP_INJECT_LCRC = 0 := State.get_put_self (by decide) (by decide) ..
  have hst : (s.put (.HP_INJECT p) F.HP_INJECT_LCRC 0).get (.HP_LINK p) F.HP_LINK_STATE = s.get (.HP_LINK p) F.HP_LINK_STATE :=
    State.get_put_ne (by rw [key_hpLink, key_hpInject]; omega) ..
  rw [exec_inboundTlp hu, hx]
  generalize s.put (.HP_INJECT p) F.HP_INJECT_LCRC 0 = u at *
  have hr {r : Reg} (hn : noteKept r) (hne : r.key ≠ (Reg.HP_ERR p).key) := rd_replayed u p hn hne
  refine (exec_inboundTlp_clean ?_ ?_).symm
  · unfold linkIsUp State.get
    rw [hr (noteKept_hp (by rw [key_hpLink]; omega)) (by rw [key_hpLink, key_hpErr]; omega)]
    unfold linkIsUp at hu
    rw [← hst] at hu
    exact hu
  · unfold State.bit State.get
    rw [hr (noteKept_hp (by rw [key_hpInject]; omega)) (by rw [key_hpInject, key_hpErr]; omega)]
    exact congrArg (· != 0) hi

theorem tookTlp_eq (s : State) (p : Fin 8) : tookTlp s p = s.countEv (0x1030 + p.val) 0x0401 1 := countBlk_port ..

theorem inbound_unsupported {posted : Bool} (hu : linkIsUp s p = true) (hl : s.bit (.HP_INJECT p) F.HP_INJECT_LCRC = false) (hm : m.kind = .other posted) :
    ∃ t, exec (.inboundTlp p m) s = .next (if posted then t else complete t p 0 .ur []) ∧
      t.eventCount (0x1030 + p.val) 0x0401 = s.eventCount (0x1030 + p.val) 0x0401 + 1 ∧
      eventsBut s t [(0x1030 + p.val, 0x0401), (0x1030 + p.val, 0x0402)] ∧
      (t.rd (.HP_FN_ERR (0x1000 + p.val))).getLsbD 0 = true ∧ (cfg t (.pf p) 0x104).getLsbD 20 = true ∧
      (portReady s p = true → t.ports = s.ports) ∧ t.dram = s.dram := by
  have hx : exec (.inboundTlp p m) s = .next (if posted then fnErr (tookTlp s p) (.pf p) 0 else complete (fnErr (tookTlp s p) (.pf p) 0) p 0 .ur []) := by
    rw [exec_inboundTlp_clean hu hl]
    unfold tlpTaken
    rw [hm]
    rfl
  have hport : fnPort8 (tookTlp s p) (.pf p) = p := Fin.ext (Nat.mod_eq_of_lt p.isLt)
  obtain ⟨h1, h2, h3⟩ := errStep_fnErr (tookTlp s p) (.pf p) 0
  rw [hport] at h2 h3
  refine ⟨_, hx, ?_, fun a e he => ?_, bit_fnErr_set _ (.pf p) (by decide), cfg_fnErr_unsupported .., fun hr => h2 hr, ?_⟩
  · rw [h3 _ _ (by simp), tookTlp_eq]
    exact eventCount_countEv_self ..
  · rw [h3 a e (fun k hk => he k (List.mem_cons_of_mem _ hk)), tookTlp_eq]
    exact eventsBut_countEv s _ _ 1 a e (fun k hk => he k (by rw [List.mem_singleton.mp hk]; exact List.mem_cons_self))
  · rw [h1]
    rfl

theorem fnExists_of_events (s : State) (e : NMap Nat) (f : FnId) : fnExists { s with events := e } f = fnExists s f := by
  cases f with
  | pf p => rfl
  | vf v =>
    have hv : portVfs { s with events := e } (fnPort s (.vf v)) = portVfs s (fnPort s (.vf v)) := portVfs_congr rfl _
    have hn : fnNum { s with events := e } (.vf v) = fnNum s (.vf v) := congrArg (fun l : List Nat => l.findIdx (fun x => x == v.val) + 1) hv
    unfold fnExists
    dsimp only
    rw [hn]
    generalize fnNum s (.vf v) = n
    rfl

theorem fnByNum_of_events (s : State) (e : NMap Nat) (p : Fin 8) (n : Nat) : fnByNum { s with events := e } p n = fnByNum s p n := by
  have hv : portVfs { s with events := e } p = portVfs s p := portVfs_congr rfl p
  unfold fnByNum
  rw [hv]
  simp only [fnExists_of_events]

theorem barOf_of_events (s : State) (e : NMap Nat) (p : Fin 8) (a n : Nat) : barOf { s with events := e } p a n = barOf s p a n := by
  have hv : portVfs { s with events := e } p = portVfs s p := portVfs_congr rfl p
  unfold barOf
  rw [hv]
  generalize portVfs s p = l
  rfl

theorem tookTlp_events (s : State) (p : Fin 8) : ∃ e, tookTlp s p = { s with events := e } := ⟨_, rfl⟩

theorem inbound_cfg {f : FnId} (hu : linkIsUp s p = true) (hl : s.bit (.HP_INJECT p) F.HP_INJECT_LCRC = false) (hf : fnByNum s p m.fn = some f) :
    let u := tookTlp s p;
    (m.kind = .cfgRead → exec (.inboundTlp p m) s = .next (if (u.fn f).flr then complete u p m.fn .crs []
      else complete u p m.fn .ok (leBytes 4 (cfgRead u f (m.addr / 4 * 4)).toNat))) ∧
    (m.kind = .cfgWrite → exec (.inboundTlp p m) s = .next (if (u.fn f).flr then complete u p m.fn .crs []
      else if m.ep then complete (fnErr u f 2) p m.fn .ok []
      else complete (cfgWriteEffect u f (m.addr / 4 * 4) (BitVec.ofNat 32 (ofBytes m.bytes * 2 ^ (8 * (m.addr % 4))))
        (dwMask m.addr m.bytes.length m.enables)) p m.fn .ok [])) := by
  have hb : fnByNum (tookTlp s p) p m.fn = some f := by
    obtain ⟨e, he⟩ := tookTlp_events s p
    rw [he, fnByNum_of_events, hf]
  rw [exec_inboundTlp_clean hu hl]
  unfold tlpTaken
  generalize tookTlp s p = u at *
  refine ⟨fun h => ?_, fun h => ?_⟩
  · rw [h]
    unfold cfgRequest
    rw [hb]
    rfl
  · rw [h]
    unfold cfgRequest
    rw [hb]
    rfl

theorem inbound_mem {f : FnId} {off : Nat} (hu : linkIsUp s p = true) (hl : s.bit (.HP_INJECT p) F.HP_INJECT_LCRC = false) {write : Bool}
    (hm : m.kind = if write then .memWrite else .memRead) (hb : barOf s p m.addr (if write then m.bytes.length else m.len) = some (f, off))
    (hr : (s.fn f).flr = false) (hd : inD3 s f = false) : exec (.inboundTlp p m) s = .next (
      let u := tookTlp s p
      if isPf f ∧ 0x100000 ≤ off then
        match peerWindow u p off (if write then m.bytes.length else m.len) with
        | none => portErr (unsupported u p write) p 0 1
        | some w => peerRequest u p m w ((u.rd (.HP_WIN_TARGET_ACT p w)).toNat + off - (u.rd (.HP_WIN_APT_ACT p w)).toNat)
            (if write then m.bytes.length else m.len) write
      else if write then (if m.ep then fnErr u f 2 else barStore u f off m.bytes m.enables)
      else
        match barBytes u f off (if write then m.bytes.length else m.len) with
        | some bs => complete u p (fnNum u f) .ok bs
        | none => complete (fnErr u f 1) p (fnNum u f) .ca []) := by
  have hb' : barOf (tookTlp s p) p m.addr (if write then m.bytes.length else m.len) = some (f, off) := by
    obtain ⟨e, he⟩ := tookTlp_events s p
    rw [he, barOf_of_events, hb]
  have hr' : ((tookTlp s p).fn f).flr = false := hr
  have hd' : inD3 (tookTlp s p) f = false := hd
  have hx : tlpTaken p m s = memRequest (tookTlp s p) p m write := by
    unfold tlpTaken
    rw [hm]
    cases write <;> rfl
  rw [exec_inboundTlp_clean hu hl, hx]
  generalize tookTlp s p = u at *
  unfold memRequest
  dsimp only
  rw [hb']
  dsimp only
  rw [if_neg (by rw [hr']; decide), if_neg (by rw [hd']; decide)] <;> rfl

theorem portRequests : Claim.PortRequests := by
  refine ⟨fun _ _ _ h => if_pos (by rw [h]; decide), fun _ _ _ hu hl => inbound_replayed hu hl, fun _ _ _ _ hu hl hm => inbound_unsupported hu hl hm,
    fun _ _ _ _ hu hl hf => inbound_cfg hu hl hf, fun p m f off s hu hl hm hb hr hd ho => ?_, fun p m f off s hu hl hm hb hr hd ho => ?_,
    fun p m off s hu hl hm hb hr hd ho => ?_, fun p m e s hu hl => ⟨fun hm => ?_, fun hm => ?_⟩⟩
  · refine (inbound_mem hu hl (write := false) hm hb hr hd).trans (congrArg Host.Outcome.next ?_)
    exact (if_neg fun h => absurd h.2 (by omega)).trans rfl
  · refine (inbound_mem hu hl (write := true) hm hb hr hd).trans (congrArg Host.Outcome.next ?_)
    exact (if_neg fun h => absurd h.2 (by omega)).trans rfl
  · refine (inbound_mem hu hl (write := false) hm hb hr hd).trans (congrArg Host.Outcome.next ?_)
    exact (if_pos ⟨rfl, ho⟩).trans rfl
  · rw [exec_inboundTlp_clean hu hl]
    unfold tlpTaken
    rw [hm]
  · rw [exec_inboundTlp_clean hu hl]
    unfold tlpTaken
    rw [hm]

end Requests

/-! ### Completions and timeouts (R327 to R330) -/

section Completions
variable {p : Fin 8} {c : Cpl} {r : OutRead} {s : State}

theorem find_only (h : (s.port p).reads = [r]) {tag : Nat} (ht : r.tag = tag) : (s.port p).reads.find? (fun r => r.tag == tag) = some r := by
  rw [h, List.find?_cons_of_pos (by rw [ht]; exact beq_self_eq_true tag)]

theorem find_none {tag : Nat} (h : ∀ r ∈ (s.port p).reads, r.tag ≠ tag) : (s.port p).reads.find? (fun r => r.tag == tag) = none :=
  List.find?_eq_none.mpr fun r hr => by simpa using h r hr

/-- A completion of a port's one read, of which no injection stands. -/
theorem exec_readCompletion (hl : s.bit (.HP_INJECT p) F.HP_INJECT_LCRC = false) (hp : s.bit (.HP_INJECT p) F.HP_INJECT_POISON = false)
    (hr : (s.port p).reads = [r]) (ht : r.tag = c.tag) : exec (.readCompletion p c) s = .next (
      let u := (tookTlp s p).setPort p { s.port p with reads := if c.last then [] else [{ r with got := r.got ++ c.bytes }] }
      let u := match c.status with
        | .ok => readData u r c.bytes false c.last
        | .ep => readData (fnErr u r.fn 2) r c.bytes true c.last
        | .ca => readFailed (fnErr u r.fn 1) r.fn r.use 0x22
        | .ur | .crs => readFailed (fnErr u r.fn 0) r.fn r.use 0x22
      if c.last then kickPort u p else u) := by
  have hf := find_only hr ht
  have hx : exec (.readCompletion p c) s = execReadCompletion p c s := rfl
  rw [hx]
  unfold execReadCompletion
  dsimp only
  rw [lcrcReplay_of_clear hl]
  have hport : (tookTlp s p).port p = s.port p := rfl
  have hpoison : (tookTlp s p).bit (.HP_INJECT p) F.HP_INJECT_POISON = false := hp
  generalize tookTlp s p = u at *
  rw [hport, hf]
  dsimp only
  rw [hpoison]
  simp only [Bool.false_eq_true, if_false]
  have hrs : (if c.last = true then (u.port p).reads.filter (fun y => y.tag != c.tag)
      else (u.port p).reads.map (fun y => if y.tag = c.tag then { y with got := y.got ++ c.bytes } else y)) =
      if c.last then [] else [{ r with got := r.got ++ c.bytes }] := by
    rw [hport, hr]
    simp [ht]
  rw [hrs, hport] <;> cases c.status <;> rfl

theorem readCompletion_one (hl : s.bit (.HP_INJECT p) F.HP_INJECT_LCRC = false) (hp : s.bit (.HP_INJECT p) F.HP_INJECT_POISON = false)
    (hr : (s.port p).reads = [r]) (ht : r.tag = c.tag) :
    let u := (tookTlp s p).setPort p { s.port p with reads := [] };
    (c.last = true →
      (c.status = .ok → exec (.readCompletion p c) s = .next (kickPort (readData u r c.bytes false true) p)) ∧
      (c.status = .ep → exec (.readCompletion p c) s = .next (kickPort (readData (fnErr u r.fn 2) r c.bytes true true) p)) ∧
      (c.status = .ca → exec (.readCompletion p c) s = .next (kickPort (readFailed (fnErr u r.fn 1) r.fn r.use 0x22) p)) ∧
      (c.status = .ur → exec (.readCompletion p c) s = .next (kickPort (readFailed (fnErr u r.fn 0) r.fn r.use 0x22) p))) ∧
    (c.last = false → c.status = .ok → exec (.readCompletion p c) s = .next
      (readData ((tookTlp s p).setPort p { s.port p with reads := [{ r with got := r.got ++ c.bytes }] }) r c.bytes false false)) := by
  rw [exec_readCompletion hl hp hr ht]
  dsimp only
  refine ⟨fun h => ⟨fun h' => ?_, fun h' => ?_, fun h' => ?_, fun h' => ?_⟩, fun h h' => ?_⟩
  · rw [h, h']; rfl
  · rw [h, h']; rfl
  · rw [h, h']; rfl
  · rw [h, h']; rfl
  · rw [h, h']; rfl

theorem readCompletion_none (hl : s.bit (.HP_INJECT p) F.HP_INJECT_LCRC = false) (h : ∀ r ∈ (s.port p).reads, r.tag ≠ c.tag) :
    ((s.port p).timedOut = [] → exec (.readCompletion p c) s = .next (fnErr (tookTlp s p) (.pf p) 4)) ∧
    (∀ f, (s.port p).timedOut = [(c.tag, f)] → exec (.readCompletion p c) s = .next (fnErr (tookTlp s p) f 4)) ∧
    (∀ f, ((fnErr s f 4).rd (.HP_FN_ERR f.key)).getLsbD 4 = true ∧ (portReady s (fnPort8 s f) = true → (fnErr s f 4).ports = s.ports) ∧ (fnErr s f 4).dram = s.dram) := by
  have hf := find_none h
  have hx : exec (.readCompletion p c) s = .next (unexpectedCpl (tookTlp s p) p c.tag) := by
    have he : exec (.readCompletion p c) s = execReadCompletion p c s := rfl
    rw [he]
    unfold execReadCompletion
    dsimp only
    rw [lcrcReplay_of_clear hl]
    have hport : (tookTlp s p).port p = s.port p := rfl
    generalize tookTlp s p = u at *
    rw [hport, hf]
  have hto : ((tookTlp s p).port p).timedOut = (s.port p).timedOut := rfl
  rw [hx]
  generalize tookTlp s p = u at *
  refine ⟨fun ht => ?_, fun f ht => ?_, fun f => ⟨bit_fnErr_set s f (by decide), (errStep_fnErr s f 4).ports, ?_⟩⟩
  · unfold unexpectedCpl
    rw [hto, ht]
    rfl
  · unfold unexpectedCpl
    rw [hto, ht, List.find?_cons_of_pos (by exact beq_self_eq_true c.tag)]
  · rw [(errStep_fnErr s f 4).same]

theorem readTimeout_one (hr : (s.port p).reads = [r]) :
    (s.bit (.HP_INJECT p) F.HP_INJECT_TIMEOUT = true →
      exec (.readTimeout p r.tag) s = .next (timeOut (s.put (.HP_INJECT p) F.HP_INJECT_TIMEOUT 0) p r)) ∧
    (s.bit (.HP_INJECT p) F.HP_INJECT_TIMEOUT = false → r.at_ + 5000000 ≤ s.mtime →
      exec (.readTimeout p r.tag) s = .next (timeOut s p r)) ∧
    (s.bit (.HP_INJECT p) F.HP_INJECT_TIMEOUT = false → s.mtime < r.at_ + 5000000 → exec (.readTimeout p r.tag) s = .next s) := by
  have hx : exec (.readTimeout p r.tag) s = execReadTimeout p r.tag s := rfl
  rw [hx]
  unfold execReadTimeout
  rw [find_only hr rfl]
  dsimp only
  refine ⟨fun h => if_pos h, fun h ht => ?_, fun h ht => ?_⟩
  · rw [if_neg (by rw [h]; decide), if_pos ht]
  · rw [if_neg (by rw [h]; decide), if_neg (by omega)]

theorem readTimeout_none {tag : Nat} (h : ∀ r ∈ (s.port p).reads, r.tag ≠ tag) : exec (.readTimeout p tag) s = .next s := by
  have hx : exec (.readTimeout p tag) s = execReadTimeout p tag s := rfl
  rw [hx]
  unfold execReadTimeout
  rw [find_none h]

end Completions

theorem portCompletions : Claim.PortCompletions :=
  ⟨fun _ _ _ _ hl hp hr ht => readCompletion_one hl hp hr ht, fun _ _ _ hl h => readCompletion_none hl h, fun _ _ _ hr => readTimeout_one hr,
    fun _ _ _ h => readTimeout_none h⟩

/-- Settles O39, by the kind of the TLP, what an error of a function changes, and the read that a completion names. -/
theorem portTraffic : Obligations.PortTraffic := ⟨portRequests, portCompletions⟩

end Sys2Proof.Machine
end

section
/-! SUPPORT. Writes of the deal registers and their commit (O7) -/

namespace Sys2Proof.Machine

/-! ### Who may write the fabric's registers (R111, R249) -/

section Writers
variable {s : State} {who : Agent} {r : Reg} {act : Out}

theorem barred_of_ledger {c : Fin 384} (h : s.ledgerCore c = true) (hm : ledgerMay s c r = false) :
    barred s (.core c) r act = .next (ledgerAccess s c (BitVec.ofNat 64 r.key)) := by
  unfold barred
  dsimp only
  rw [h, hm]
  rfl

theorem notLedger_archivist (s : State) : notLedger s .archivist := fun _ h => nomatch h

/-- Who reaches a block of registers runs no ledger hand. -/
theorem notLedger_of_reaches {b : Nat} (h : s.reaches b who = true) : notLedger s who := by
  rintro c rfl
  have hr : (match s.handOf c.val with
    | some h => s.folio.ctrlAccess h b && !s.folio.isLedger h
    | none => false) = true := h
  unfold State.ledgerCore
  cases hh : s.handOf c.val with
  | none => rfl
  | some g =>
    rw [hh] at hr
    have hb := (Bool.and_eq_true_iff.mp hr).2
    rw [Bool.not_eq_true'] at hb
    exact hb

theorem notLedger_of_fabWriter (h : fabWriter s who = true) : notLedger s who := by
  unfold fabWriter at h
  rcases Bool.or_eq_true_iff.mp h with h | h
  · rw [eq_of_beq h]
    exact notLedger_archivist s
  · exact notLedger_of_reaches h

end Writers

/-! ### Deals, burst limits, priorities and cut-offs (R85, R106, R111, R112) -/

section Writes
variable {p : Fin 64} {s : State} {who : Agent} {v : Word}

theorem lateShadow_spec (s : State) (p : Nat) (r : Reg) : (∀ q, (lateShadow s p r).rd q = s.rd q) ∧ (0x10 ≤ p → (lateShadow s p r).points = s.points) ∧
    lateShadow s p r = { s with points := (lateShadow s p r).points } := by
  unfold lateShadow
  split
  · next h => exact ⟨fun _ => rfl, fun hp => absurd h.1 (by omega), rfl⟩
  · exact ⟨fun _ => rfl, fun _ => rfl, rfl⟩

/-- A write of a shadow register that is taken. -/
theorem shadow_written (s : State) (p : Nat) (r : Reg) (w : Word) : let t := lateShadow (s.wr r w) p r
    t.rd r = w ∧ regsBut s t [r] ∧ (0x10 ≤ p → t.points = s.points) ∧ t = { s with regs := t.regs, points := t.points } := by
  obtain ⟨h1, h2, h3⟩ := lateShadow_spec (s.wr r w) p r
  refine ⟨(h1 r).trans (State.rd_wr_self ..), fun q hq => (h1 q).trans (regsBut_wr s r w q hq), h2, ?_⟩
  rw [h3]
  rfl

theorem deal_taken {k : Fin 128} (hk : isChanPoint p.val = true → k.val < 32)
    (hv : ∀ j < 8, (F.FAB_DEAL_TRICK j).get v = 0xFF ∨
      ((F.FAB_DEAL_TRICK j).get v ≤ 0x3F ∧ (s.folio.hand? ((F.FAB_DEAL_TRICK j).get v)).isSome = true) ∨
      ((F.FAB_DEAL_TRICK j).get v = 0xFE ∧ isChanPoint p.val = true)) :
    ∃ t, exec (.fabDealWrite .archivist p k v) s = .next t ∧ t.rd (.FAB_DEAL p k) = v ∧ regsBut s t [.FAB_DEAL p k] ∧
      (0x10 ≤ p.val → t.points = s.points) ∧ t = { s with regs := t.regs, points := t.points } := by
  have hok : (List.range 8).all (fun j =>
      let o := (F.FAB_DEAL_TRICK j).get v
      if o ≤ 0x3F then (s.folio.hand? o).isSome else o == 0xFF || (o == 0xFE && isChanPoint p.val)) = true := by
    rw [List.all_eq_true]
    intro j hj
    have h := hv j (List.mem_range.mp hj)
    generalize (F.FAB_DEAL_TRICK j).get v = o at h
    dsimp only
    rcases h with h | ⟨h, h'⟩ | ⟨h, h'⟩
    · rw [if_neg (by omega), h]
      rfl
    · rw [if_pos h, h']
    · rw [if_neg (by omega), h, h']
      rfl
  have hx : exec (.fabDealWrite .archivist p k v) s = .next (lateShadow (s.wr (.FAB_DEAL p k) v) p (.FAB_DEAL p k)) :=
    if_pos ⟨rfl, hok, hk⟩
  exact ⟨_, hx, shadow_written s p _ v⟩

theorem deal_ignored {k : Fin 128} (hw : who ≠ .archivist) (hl : notLedger s who) (hk : isChanPoint p.val = true → k.val < 32) :
    exec (.fabDealWrite who p k v) s = .next (badWrite s who p) :=
  (barred_of_notLedger hl _ _).trans ((if_neg fun h => hw h.1).trans (if_neg fun h => absurd (hk h.1) (by omega)))

theorem badWrite_of_free (h : addendumPoint s p = false) : badWrite s who p =
    (s.wr .FAB_BAD_WRITE (s.rd .FAB_BAD_WRITE ||| BitVec.ofNat 64 (2 ^ p.val))).fault ⟨19, 0x2500 + p.val, none, p.val, 1, 0, 0⟩ := by
  unfold badWrite
  rw [if_neg (by rw [h]; exact fun h => Bool.false_ne_true h.2)]

theorem badWrite_of_denied (hw : who ≠ .archivist) (h : addendumPoint s p = true) : badWrite s who p =
    ((shadowDenied s).wr .FAB_BAD_WRITE ((shadowDenied s).rd .FAB_BAD_WRITE ||| BitVec.ofNat 64 (2 ^ p.val))).fault
      ⟨19, 0x2500 + p.val, none, p.val, 1, 0, 0⟩ := by
  unfold badWrite
  rw [if_pos ⟨hw, h⟩]

theorem burst_taken (h1 : 1 ≤ v.toNat) (h2 : v.toNat ≤ 1024) :
    ∃ t, exec (.fabBurstWrite .archivist p v) s = .next t ∧ t.get (.FAB_BURST p) F.FAB_BURST_BURST_LIMIT = v.toNat ∧
      regsBut s t [.FAB_BURST p] ∧ (0x10 ≤ p.val → t.points = s.points) ∧ t = { s with regs := t.regs, points := t.points } := by
  have hx : exec (.fabBurstWrite .archivist p v) s = .next (lateShadow (s.put (.FAB_BURST p) F.FAB_BURST_BURST_LIMIT v.toNat) p (.FAB_BURST p)) :=
    if_pos ⟨rfl, h1, h2⟩
  obtain ⟨l1, l2, l3, l4⟩ := shadow_written s p (.FAB_BURST p) (F.FAB_BURST_BURST_LIMIT.put (s.rd (.FAB_BURST p)) v.toNat)
  have hg : (s.put (.FAB_BURST p) F.FAB_BURST_BURST_LIMIT v.toNat).get (.FAB_BURST p) F.FAB_BURST_BURST_LIMIT = v.toNat :=
    (State.get_put_self (by decide) (by decide) ..).trans (Nat.mod_eq_of_lt (show v.toNat < 2048 by omega))
  refine ⟨_, hx, ?_, l2, l3, l4⟩
  exact (congrArg (Fld.get F.FAB_BURST_BURST_LIMIT) ((lateShadow_spec _ _ _).1 (.FAB_BURST p))).trans hg

theorem burst_ignored (hl : notLedger s who) (h : who ≠ .archivist ∨ v = 0 ∨ 1024 < v.toNat) :
    exec (.fabBurstWrite who p v) s = .next (badWrite s who p) := by
  refine (barred_of_notLedger hl _ _).trans (if_neg fun hc => ?_)
  rcases h with h | h | h
  · exact h hc.1
  · have h1 := hc.2.1
    rw [h] at h1
    exact absurd h1 (by decide)
  · exact absurd hc.2.2 (by omega)

theorem prio_taken {q : Fin 128} (hw : fabWriter s who = true) (ha : who = .archivist ∨ addendumPoint s p = false) :
    ∃ t, exec (.fabPrioWrite who p q v) s = .next t ∧ t.get (.FAB_PRIO p q) F.FAB_PRIO_PRIO = F.FAB_PRIO_PRIO.get v ∧
      regsBut s t [.FAB_PRIO p q] ∧ (0x10 ≤ p.val → t.points = s.points) ∧ t = { s with regs := t.regs, points := t.points } := by
  have hx : exec (.fabPrioWrite who p q v) s = .next (lateShadow (s.put (.FAB_PRIO p q) F.FAB_PRIO_PRIO (F.FAB_PRIO_PRIO.get v)) p (.FAB_PRIO p q)) :=
    (barred_of_notLedger (notLedger_of_fabWriter hw) _ _).trans ((if_neg (by rw [hw]; decide)).trans (if_neg fun h =>
      ha.elim h.1 fun ha => Bool.false_ne_true (ha.symm.trans h.2)))
  obtain ⟨-, l2, l3, l4⟩ := shadow_written s p (.FAB_PRIO p q) (F.FAB_PRIO_PRIO.put (s.rd (.FAB_PRIO p q)) (F.FAB_PRIO_PRIO.get v))
  have hg : (s.put (.FAB_PRIO p q) F.FAB_PRIO_PRIO (F.FAB_PRIO_PRIO.get v)).get (.FAB_PRIO p q) F.FAB_PRIO_PRIO = F.FAB_PRIO_PRIO.get v :=
    (State.get_put_self (by decide) (by decide) ..).trans (Nat.mod_eq_of_lt (Fld.get_lt ..))
  refine ⟨_, hx, ?_, l2, l3, l4⟩
  exact (congrArg (Fld.get F.FAB_PRIO_PRIO) ((lateShadow_spec _ _ _).1 (.FAB_PRIO p q))).trans hg

theorem fabricWrites : Claim.FabricWrites := by
  refine ⟨fun p k v s hk hv => deal_taken hk hv, fun who p k v s hw hl hk ha => ?_, fun p v s h1 h2 => burst_taken h1 h2,
    fun who p k v s hw hl hk ha => ?_, fun who p v s hl ha h => ?_, fun who p q v s hw ha => prio_taken hw ha, fun who p k v s hw => ?_,
    fun who p q k v s hw hl => ⟨?_, ?_⟩, fun c p k q h v s hl => ⟨?_, ?_, ?_, ?_, ?_⟩⟩
  · exact (deal_ignored hw hl hk).trans (congrArg Host.Outcome.next (badWrite_of_free ha))
  · exact (deal_ignored hw hl hk).trans (congrArg Host.Outcome.next (badWrite_of_denied hw ha))
  · exact (burst_ignored hl h).trans (congrArg Host.Outcome.next (badWrite_of_free ha))
  · exact (barred_of_notLedger (notLedger_of_fabWriter hw) _ _).trans (if_neg (by rw [hw]; decide))
  · exact (barred_of_notLedger hl _ _).trans (if_pos (by rw [hw]; decide))
  · exact (barred_of_notLedger hl _ _).trans (if_pos (by rw [hw]; decide))
  · exact barred_of_ledger hl rfl
  · exact barred_of_ledger hl rfl
  · exact barred_of_ledger hl rfl
  · exact barred_of_ledger hl rfl
  · exact barred_of_ledger hl rfl

end Writes

/-! ### FAB_COMMIT (R108 to R111, R482) -/

section Commit
variable {s : State} {who : Agent}

theorem getLsbD_two_pow {i j : Nat} (hj : j < 64) : (BitVec.ofNat 64 (2 ^ i)).getLsbD j = decide (j = i) := by
  rw [BitVec.getLsbD_ofNat, Nat.testBit_two_pow, decide_eq_true hj, Bool.true_and]
  exact decide_eq_decide.mpr eq_comm

/-- An update that only one element of a list makes. -/
theorem overAll_only_one {α : Type} {f : State → α → State} {l : List α} (hn : l.Nodup) {k : α} (hk : k ∈ l)
    (h : ∀ t, ∀ a ∈ l, a ≠ k → f t a = t) (s : State) : overAll l f s = f s k := by
  induction l generalizing s with
  | nil => exact absurd hk List.not_mem_nil
  | cons a l ih =>
    have hx : overAll (a :: l) f s = overAll l f (f s a) := List.foldl_cons ..
    obtain ⟨ha, hn⟩ := List.nodup_cons.mp hn
    rw [hx]
    rcases List.mem_cons.mp hk with rfl | hk
    · exact overAll_fix fun b hb => h _ b (List.mem_cons_of_mem _ hb) fun he => ha (he ▸ hb)
    · rw [h s a List.mem_cons_self fun he => ha (he ▸ hk)]
      exact ih hn hk (fun t b hb => h t b (List.mem_cons_of_mem _ hb)) s

/-- A FAB_COMMIT that names one point commits it. -/
theorem exec_fabCommit_one {p : Fin 64} (hw : fabWriter s who = true) (ha : who = .archivist ∨ addendumPoint s p = false) :
    exec (.fabCommit who (BitVec.ofNat 64 (2 ^ p.val))) s = .next (commitPoint s p) := by
  have hx : exec (.fabCommit who (BitVec.ofNat 64 (2 ^ p.val))) s = .next (overAll (List.range 64) (fun s q =>
      if !(BitVec.ofNat 64 (2 ^ p.val)).getLsbD q then s
      else if who ≠ .archivist ∧ addendumPoint s q then shadowDenied s
      else commitPoint s q) s) :=
    (barred_of_notLedger (notLedger_of_fabWriter hw) _ _).trans (if_neg (by rw [hw]; decide))
  refine hx.trans (congrArg Host.Outcome.next ?_)
  refine (overAll_only_one List.nodup_range (List.mem_range.mpr p.isLt) (fun t a ha hne => if_pos ?_) s).trans ?_
  · rw [getLsbD_two_pow (List.mem_range.mp ha), decide_eq_false hne]
    rfl
  · rw [getLsbD_two_pow p.isLt, decide_eq_true rfl, if_neg (by decide)]
    exact if_neg fun h => ha.elim h.1 fun ha => Bool.false_ne_true (ha.symm.trans h.2)

theorem roundOf_wr (s : State) (r : Reg) (w : Word) (p : Nat) : roundOf (s.wr r w) p = roundOf s p := rfl

theorem trickOf_wr (s : State) (r : Reg) (w : Word) (p : Nat) : trickOf (s.wr r w) p = trickOf s p := rfl

theorem key_fabDeal (p k : Nat) : (Reg.FAB_DEAL p k).key = 0xF00001000000 + p * 0x2000 + k * 8 := by simp only [Reg.key]

/-- The shadow content of a point stands outside the registers of the commits. -/
theorem commitMsgs_wr_pend (s : State) {p : Nat} (hp : p < 0x10) (w : Word) : commitMsgs (s.wr .FAB_COMMIT_PEND w) p = commitMsgs s p := by
  have hr {r : Reg} (h : r.key < 0xF00001100008 ∨ 0xF00001101000 ≤ r.key) : (s.wr .FAB_COMMIT_PEND w).rd r = s.rd r :=
    State.rd_wr_ne _ _ _ _ (by rw [key_fabCommitPend]; omega)
  have hdeal {k : Nat} (hk : k < 128) : (s.wr .FAB_COMMIT_PEND w).rd (.FAB_DEAL p k) = s.rd (.FAB_DEAL p k) := hr (.inl (by rw [key_fabDeal]; omega))
  have hburst : (s.wr .FAB_COMMIT_PEND w).rd (.FAB_BURST p) = s.rd (.FAB_BURST p) := hr (.inl (by simp only [Reg.key]; omega))
  have hprio {q : Nat} (hq : q < 128) : (s.wr .FAB_COMMIT_PEND w).rd (.FAB_PRIO p q) = s.rd (.FAB_PRIO p q) := hr (by simp only [Reg.key]; omega)
  unfold commitMsgs
  rw [List.map_congr_left (l := List.range 128) (g := fun k => [((Reg.FAB_DEAL p k).key, s.rd (.FAB_DEAL p k))]) (fun k hk => by rw [hdeal (List.mem_range.mp hk)]), hburst,
    List.map_congr_left (l := List.range 14) (g := fun q => ((Reg.FAB_PRIO p q).key, s.rd (.FAB_PRIO p q)))
      (fun q hq => by rw [hprio (Nat.lt_trans (List.mem_range.mp hq) (by decide))]),
    List.map_congr_left (l := List.range 13) (g := fun q => ((Reg.FAB_PRIO p (q + 14)).key, s.rd (.FAB_PRIO p (q + 14))))
      (fun q hq => by rw [hprio (by have := List.mem_range.mp hq; omega)])]

theorem commit_pending {p : Fin 64} (hw : fabWriter s who = true) (ha : who = .archivist ∨ addendumPoint s p = false)
    (hn : (s.rd .FAB_COMMIT_PEND).getLsbD p = false) (hd : p.val < 0x20 → s.get (.DL_STATUS (p % 16)) F.DL_STATUS_STATE ≠ 4)
    (hp : dealPasses s p = true) : exec (.fabCommit who (BitVec.ofNat 64 (2 ^ p.val))) s = .next (
      let u := s.wr .FAB_COMMIT_PEND (s.rd .FAB_COMMIT_PEND ||| BitVec.ofNat 64 (2 ^ p.val))
      if p.val < 0x10 then u.setPoint p { s.point p with mgmt := (s.point p).mgmt ++ commitMsgs u p, commit := none, commitIn := false }
      else u.setPoint p { s.point p with commit := some (roundOf s p, trickOf s p) }) := by
  rw [exec_fabCommit_one hw ha]
  unfold commitPoint
  rw [if_neg (by rw [hn]; decide), if_neg fun h => hd h.1 h.2, if_neg (by rw [hp]; decide)]
  rfl

theorem commit_here {p : Fin 64} (hw : fabWriter s who = true) (ha : who = .archivist ∨ addendumPoint s p = false)
    (hn : (s.rd .FAB_COMMIT_PEND).getLsbD p = false) (h2 : 0x20 ≤ p.val) (hp : dealPasses s p = true) :
    ∃ t, exec (.fabCommit who (BitVec.ofNat 64 (2 ^ p.val))) s = .next t ∧
      t.rd .FAB_COMMIT_PEND = s.rd .FAB_COMMIT_PEND ||| BitVec.ofNat 64 (2 ^ p.val) ∧
      t.point p = { s.point p with commit := some (roundOf s p, trickOf s p) } ∧
      pointsBut s t [p.val] ∧ regsBut s t [.FAB_COMMIT_PEND] ∧ t = { s with regs := t.regs, points := t.points } := by
  have hx := (commit_pending hw ha hn (fun h => absurd h (by omega)) hp).trans (congrArg Host.Outcome.next (if_neg (by omega)))
  exact ⟨_, hx, State.rd_wr_self .., State.point_setPoint_self .., fun q hq => State.point_setPoint_ne _ _ _ _ (by simpa using hq), regsBut_wr s _ _, rfl⟩

theorem commit_sent {p : Fin 64} (hw : fabWriter s who = true) (ha : who = .archivist ∨ addendumPoint s p = false)
    (hn : (s.rd .FAB_COMMIT_PEND).getLsbD p = false) (h1 : p.val < 0x10) (hd : s.get (.DL_STATUS p) F.DL_STATUS_STATE ≠ 4)
    (hp : dealPasses s p = true) :
    ∃ t, exec (.fabCommit who (BitVec.ofNat 64 (2 ^ p.val))) s = .next t ∧
      t.rd .FAB_COMMIT_PEND = s.rd .FAB_COMMIT_PEND ||| BitVec.ofNat 64 (2 ^ p.val) ∧
      t.point p = { s.point p with mgmt := (s.point p).mgmt ++ commitMsgs s p, commit := none, commitIn := false } ∧
      pointsBut s t [p.val] ∧ regsBut s t [.FAB_COMMIT_PEND] ∧ t = { s with regs := t.regs, points := t.points } := by
  have hx := (commit_pending hw ha hn (fun _ => by rw [Nat.mod_eq_of_lt h1]; exact hd) hp).trans (congrArg Host.Outcome.next (if_pos h1))
  rw [commitMsgs_wr_pend s h1] at hx
  exact ⟨_, hx, State.rd_wr_self .., State.point_setPoint_self .., fun q hq => State.point_setPoint_ne _ _ _ _ (by simpa using hq), regsBut_wr s _ _, rfl⟩

theorem commit_refused {p : Fin 64} (hw : fabWriter s who = true) (ha : who = .archivist ∨ addendumPoint s p = false)
    (hn : (s.rd .FAB_COMMIT_PEND).getLsbD p = false) (h2 : 0x20 ≤ p.val) (hp : dealPasses s p = false) :
    exec (.fabCommit who (BitVec.ofNat 64 (2 ^ p.val))) s = .next
      ((s.wr .FAB_COMMIT_REFUSED (s.rd .FAB_COMMIT_REFUSED ||| BitVec.ofNat 64 (2 ^ p.val))).fault
        ⟨19, 0x2500 + p.val, none, p.val, 1, 0, 0⟩) := by
  rw [exec_fabCommit_one hw ha]
  unfold commitPoint
  rw [if_neg (by rw [hn]; decide), if_neg fun h => absurd h.1 (by omega), if_pos (by rw [hp]; decide)]

/-! ### CLEAR_LOST (R91, R130) -/

theorem key_coreState_ne {b c : Nat} (h : b ≠ c) (hb : b < 384) (hc : c < 384) : (Reg.CORE_STATE b).key ≠ (Reg.CORE_STATE c).key := by
  rw [key_coreState, key_coreState]
  omega

/-- A core of a hand whose loss is cleared. -/
def unlost (s : State) (c : Nat) : State :=
  if s.coreState c = 5 ∧ s.get (.FLT_DIE (c / 24)) F.FLT_DIE_STATE ≠ 3 then s.setCoreState c 1 else s

theorem unlost_rd (s : State) {c : Nat} {r : Reg} (h : r.key ≠ (Reg.CORE_STATE c).key) : (unlost s c).rd r = s.rd r := by
  unfold unlost
  split
  · exact State.rd_put_ne h ..
  · rfl

theorem clearLost_spec {h : Fin 64} {v : Word} (hw : s.isHouse who = true) (hv : v.getLsbD 63 = true) (hl : s.handLost h = true)
    (hc : ∀ c ∈ s.coresOf h, s.coreState c = 5 ∨ s.coreState c ≤ 1) :
    ∃ t, exec (.clearLost who h v) s = .next t ∧ t.get (.FAB_HAND h) F.FAB_HAND_STATE = 1 ∧
      (∀ c ∈ s.coresOf h, s.coreState c = 5 → s.get (.FLT_DIE (c / 24)) F.FLT_DIE_STATE ≠ 3 → t.coreState c = 1) ∧
      regsBut s t (.FAB_HAND h :: (s.coresOf h).map Reg.CORE_STATE) ∧ t = { s with regs := t.regs } := by
  have hany : (s.coresOf h).any (fun c => s.coreState c == 2 || s.coreState c == 3 || s.coreState c == 4) = false := by
    rw [List.any_eq_false]
    intro c hm
    rcases hc c hm with h | h
    · rw [h]
      decide
    · simp only [Bool.or_eq_true, beq_iff_eq]
      omega
  have hlt {c : Nat} (hm : c ∈ s.coresOf h) : c < 384 := List.mem_range.mp (List.mem_filter.mp hm).1
  have hx : exec (.clearLost who h v) s = .next (overAll (s.coresOf h) unlost (s.put (.FAB_HAND h) F.FAB_HAND_STATE 1)) :=
    if_pos ⟨hw, hv, hl, by rw [hany]; decide⟩
  have hput {r : Reg} (hr : r.key ≠ (Reg.FAB_HAND h).key) : (s.put (.FAB_HAND h) F.FAB_HAND_STATE 1).rd r = s.rd r := State.rd_put_ne hr ..
  refine ⟨_, hx, ?_, fun c hm h5 h3 => ?_, fun r hr => ?_, ?_⟩
  · refine (congrArg (Fld.get _) (overAll_keeps_mem (g := fun t : State => t.rd (.FAB_HAND h)) (fun t c hm => unlost_rd t ?_) _)).trans
      (State.get_put_self (by decide) (by decide) ..)
    have := key_coreState_ge c
    rw [key_fabHand]
    omega
  · refine (overAll_each (l := s.coresOf h) (step := unlost) (read := fun t c => t.coreState c) (val := fun t c =>
      if t.coreState c = 5 ∧ t.get (.FLT_DIE (c / 24)) F.FLT_DIE_STATE ≠ 3 then 1 else t.coreState c) (List.nodup_range.filter _)
      (fun t c _ => ?_) (fun t c hc b hb hne => ?_) (fun t c hc b hb hne => ?_) _ hm).trans ?_
    · unfold unlost
      split
      · exact State.get_put_self (by decide) (by decide) ..
      · rfl
    · exact congrArg (Fld.get _) (unlost_rd t (key_coreState_ne hne (hlt hb) (hlt hc)))
    · rw [State.coreState, State.get, unlost_rd t (key_coreState_ne hne (hlt hb) (hlt hc)), State.get, unlost_rd t (by
        have := key_coreState_ge c
        have := hlt hb
        rw [key_fltDie]
        omega)]
      rfl
    · have hk : (s.put (.FAB_HAND h) F.FAB_HAND_STATE 1).coreState c = 5 := by
        rw [State.coreState, State.get, hput (by have := key_coreState_ge c; rw [key_fabHand]; omega)]
        exact h5
      have hd : (s.put (.FAB_HAND h) F.FAB_HAND_STATE 1).get (.FLT_DIE (c / 24)) F.FLT_DIE_STATE ≠ 3 := by
        rw [State.get, hput (by rw [key_fltDie, key_fabHand]; omega)]
        exact h3
      exact if_pos ⟨hk, hd⟩
  · rw [overAll_keeps_mem (g := fun t : State => t.rd r) (fun t c hm => unlost_rd t (hr _ (List.mem_cons_of_mem _ (List.mem_map_of_mem hm))))]
    exact hput (hr _ List.mem_cons_self)
  · refine overAll_inv (P := fun t => t = { s with regs := t.regs }) (fun t c _ ht => ?_) rfl
    unfold unlost
    split
    · rw [State.setCoreState, State.put, State.wr, ht]
    · exact ht

theorem clearLost_none {h : Fin 64} {v : Word} (hc : s.isHouse who = false ∨ v.getLsbD 63 = false ∨ s.handLost h = false) :
    exec (.clearLost who h v) s = .next s := by
  refine if_neg fun hx => ?_
  obtain ⟨h1, h2, h3, -⟩ := hx
  rcases hc with hc | hc | hc
  · exact Bool.false_ne_true (hc.symm.trans h1)
  · exact Bool.false_ne_true (hc.symm.trans h2)
  · exact Bool.false_ne_true (hc.symm.trans h3)

theorem fabricCommit : Claim.FabricCommit :=
  ⟨fun _ _ _ hw ha hn h2 hp => commit_here hw ha hn h2 hp, fun _ _ _ hw ha hn h1 hd hp => commit_sent hw ha hn h1 hd hp,
    fun _ _ _ hw ha hn h2 hp => commit_refused hw ha hn h2 hp,
    fun _ _ _ hw hl => (barred_of_notLedger hl _ _).trans (if_pos (by rw [hw]; decide)),
    fun _ _ hp hc hi => if_pos ⟨hp, hc, hi⟩, fun _ _ hi => if_neg fun h => Bool.false_ne_true (hi.symm.trans h.2.2),
    fun _ _ _ _ hw hv hl hc => clearLost_spec hw hv hl hc, fun _ _ _ _ h => clearLost_none h⟩

end Commit

/-- Settles O7, by who may write a register, what a shadow write leaves, and the commit of the one point that is named. -/
theorem fabricControl : Obligations.FabricControl := ⟨fabricWrites, fabricCommit⟩

end Sys2Proof.Machine
end

section
/-! SUPPORT. Requests of a home slice that meet waiting writes or the loss of a hand (O18, O19) -/

namespace Sys2Proof.Machine

/-! ### A write that waits at the channel of a read (R270, R447) -/

/-- A write of line 1 that waits for an entry of its channel's queue. -/
def waitingWrite : MemWr := ⟨1, 0, 1, 0, 0, false, 0, 0, false, false⟩

/-- The channel of line 0 with that write waiting, though entries are free, and a soft error in the word of the write queue that the write takes. -/
def waitingState : State :=
  { State.reset.setChan 0 { State.reset.chan 0 with waitQ := [.write waitingWrite] } with flips := [(flipKey 14 0x2300 64, [0])] }

/-- A read of line 0 by die 0. -/
def readMsg : Msg := dieMsg 0 .rdShared 0 0 0

theorem findWay_waiting : findWay waitingState 0 readMsg.line readMsg.hand = some (0, waitingState) := by
  have h1 : ¬ waitingState.get .HOME_CFG F.HOME_CFG_OPEN_PER_SET ≤ pinnedInSet waitingState 0 (dirSet readMsg.line) := by decide +kernel
  have h2 : (List.range 12).find? (fun w => wayFree waitingState 0 (dirSet readMsg.line * 12 + w)) = some 0 := by decide +kernel
  unfold findWay
  dsimp only
  rw [if_neg h1, h2]
  rfl

theorem flips_waiting : (outState waitingState (exec (.rdShared readMsg) waitingState)).flips ≠ waitingState.flips := by decide +kernel

/-- Refutes O18: a read of a line that no entry holds sends its channel the read, and the writes that waited there before it enter their queue
with it where entries are free; one of them takes a word of the queue that had a soft error, which the write of the word ends. -/
theorem not_homeTransactions : ¬ Obligations.HomeTransactions := by
  rintro ⟨h, -, -⟩
  obtain ⟨t, ht, -, -, -, -, -, -, -, hs⟩ := h readMsg 0 0 waitingState (by decide) ⟨by decide, by decide, by decide, by decide, .inl (by decide)⟩ (by decide)
    (by decide +kernel) findWay_waiting (by decide) (by decide) (by decide) (.rdShared readMsg) List.mem_cons_self
  have hf := flips_waiting
  rw [ht] at hf
  refine hf ?_
  show t.flips = waitingState.flips
  rw [hs]

/-! ### A denied request of a hand that its fault stops (R395, R435) -/

/-- The folio of a hand 0 and a hand 1 in open mode, where a fault of class 24 stops its hand. -/
def vaultFolio : Folio :=
  { Folio.empty with
    hands := [⟨0, false, 0, 1, 0, 1, 0, []⟩, ⟨0, false, 1, 1, 0, 1, 0, []⟩]
    faults := { Folio.empty.faults with policy := List.replicate 25 ⟨2, 128⟩ } }

/-- A read of line 0 by hand 1. -/
def vaultRead : Msg := dieMsg 0 .rdShared 1 0 0

/-- The vault of 1 GiB, and core 0 of hand 1 RUNNING with a store in its merging buffer. -/
def vaultState : State :=
  { (((State.reset.put .ARC_VAULT F.ARC_VAULT_WATERMARK 1).wr (.FAB_HAND_CORES 1 0) 1).wr (.CORE_STATE 0) 3).put (.FLT_DIE 0) F.FLT_DIE_STATE 1 with
    folio := vaultFolio
    cores := [(0, { Core.init with mb := [⟨5, 0, 0, false, false, false⟩] })] }

theorem mb_vault : ((outState vaultState (exec (.rdShared vaultRead) vaultState)).core 0).mb ≠ (vaultState.core 0).mb := by decide +kernel

/-- Refutes O19: the denial of a request for a vault line is a fault of class 24 of the request's hand; where the folio answers that class with the
loss of the hand, the hand's cores are stopped, and their merging buffers begin to drain. -/
theorem not_homeWritebackVault : ¬ Obligations.HomeWritebackVault := by
  rintro ⟨-, h⟩
  obtain ⟨t, a, ht, -, -, -, -, -, -, -, -, -, hs⟩ := h vaultRead 0 0 vaultState (by decide) (by decide) (by decide) (by decide) (by decide) (by decide) (by decide)
    (by decide) (.rdShared vaultRead, .dataNc, true) List.mem_cons_self
  have hf := mb_vault
  dsimp only at ht
  rw [ht] at hf
  refine hf (congrArg Core.mb ?_)
  show t.core 0 = vaultState.core 0
  rw [hs]
  rfl

end Sys2Proof.Machine
end

section
/-! SUPPORT. Snoop answers, queues and transfers at a home slice (O20) -/

namespace Sys2Proof.Machine

/-! ### Snoop answers and staging entries (R213, R214, R229) -/

section Answers
variable {n : Nat} {s : State} {m : Msg} {d : Fin 16} {e : StageEnt}

/-- A staging entry with one answer fewer due. -/
def StageEnt.answered (e : StageEnt) (d : Nat) (data : Option (LineData × Bool)) : StageEnt :=
  { e with await := e.await.filter (fun y => y != d), data := data.orElse fun _ => e.data }

theorem snoopAnswer_staged (keeps : Bool) (data : Option (LineData × Bool)) (hr : (s.slice n).recover = []) (ht : (s.slice n).txns = [])
    (hs : (s.slice n).staged = [e]) (hl : e.ent.line = m.line) (hd : d.val ∈ e.await) :
    snoopAnswer s n d m.line keeps data = s.setSlice n { s.slice n with staged := [e.answered d data] } := by
  unfold snoopAnswer
  dsimp only
  rw [hr, ht, hs]
  simp only [List.find?_nil, List.map_cons, List.map_nil, List.contains_iff_mem]
  rw [if_pos ⟨hl, hd⟩]
  unfold StageEnt.answered
  cases data <;> rfl

theorem snoopAnswers_spec (hn : sliceOf s m.line = n) (hm : m.src = .die d) (hr : (s.slice n).recover = []) (ht : (s.slice n).txns = [])
    (hs : (s.slice n).staged = [e]) (hl : e.ent.line = m.line) (hd : d.val ∈ e.await) :
    let left := e.await.filter (fun y => y != d.val)
    exec (.snpRspI m) s = .next (s.setSlice n { s.slice n with staged := [{ e with await := left }] }) ∧
      exec (.snpRspS m) s = .next (s.setSlice n { s.slice n with staged := [{ e with await := left }] }) ∧
      exec (.snpDataI m) s =
        .next (s.setSlice n { s.slice n with staged := [{ e with await := left, data := some (m.data, m.poison) }] }) ∧
      exec (.snpDataS m) s =
        .next (s.setSlice n { s.slice n with staged := [{ e with await := left, data := some (m.data, m.poison) }] }) := by
  have hq : (reqDie m).getD 16 = d.val := by
    unfold reqDie
    rw [hm]
    rfl
  have hx (keeps : Bool) (data : Option (LineData × Bool)) : snoopAnswer s (sliceOf s m.line) ((reqDie m).getD 16) m.line keeps data =
      s.setSlice n { s.slice n with staged := [e.answered d data] } := by
    rw [hq, hn]
    exact snoopAnswer_staged keeps data hr ht hs hl hd
  exact ⟨congrArg Host.Outcome.next (hx false none), congrArg Host.Outcome.next (hx true none),
    congrArg Host.Outcome.next (hx false (some (m.data, m.poison))), congrArg Host.Outcome.next (hx true (some (m.data, m.poison)))⟩

end Answers

section Free
variable {n : Fin 16} {s : State}

/-- A message of a home slice to the channel of a line. -/
theorem chanStep_sendReq (s : State) (r : MemReq) : ChanStep (placeOf s r.line).chan s (sendReq s r) :=
  (ChanStep.setChan ..).trans (ChanStep.admitWaiting ..)

theorem chanStep_homeData (s : State) (n line hand : Nat) (data : LineData) (p : Bool) : ∃ k, ChanStep k s (homeData s n line hand data p) :=
  ⟨_, (ChanStep.put s (.HOME_INJECT n) F.HOME_INJECT_BACKING 0).trans (chanStep_sendReq ..)⟩

theorem releaseWb_of_none (line : Nat) (h : (s.slice n).wbWait = []) : (releaseWb s n line).chans = s.chans ∧ (releaseWb s n line).points = s.points ∧
    ∀ k, (releaseWb s n line).slice k = s.slice k := by
  unfold releaseWb
  split
  · exact ⟨rfl, rfl, fun _ => rfl⟩
  · dsimp only
    rw [h]
    refine ⟨rfl, rfl, fun k => ?_⟩
    by_cases hk : k = n.val
    · subst hk
      refine (State.slice_setSlice_self ..).trans ?_
      rw [List.filter_nil, ← h]
    · exact State.slice_setSlice_ne _ _ _ _ hk

theorem stagingFree_spec {e : StageEnt} {data : LineData} {p : Bool} (hs : (s.slice n).staged = [e]) (ha : e.await = []) (hd : e.data = some (data, p))
    (hw : (s.slice n).wbWait = []) :
    ∃ t, exec (.stagingEntryFree n e.ent.line) s = .next t ∧ (t.slice n).staged = [] ∧
      t.chans = (homeData (s.setSlice n { s.slice n with staged := [] }) n e.ent.line e.hand data p).chans ∧
      slicesBut s t [n.val] ∧ t.points = s.points := by
  let u := s.setSlice n { s.slice n with staged := [] }
  have hx : exec (.stagingEntryFree n e.ent.line) s = .next (releaseWb (homeData u n e.ent.line e.hand data p) n e.ent.line) := by
    have he : exec (.stagingEntryFree n e.ent.line) s = execStagingEntryFree n e.ent.line s := rfl
    have hf : (s.slice n).staged.find? (fun y => y.ent.line == e.ent.line && y.await.isEmpty) = some e := by
      rw [hs, List.find?_cons_of_pos (by rw [ha]; simp)]
    rw [he]
    unfold execStagingEntryFree
    dsimp only
    rw [hf]
    dsimp only
    rw [hd, hs]
    simp only [List.filter_cons, List.filter_nil, bne_self_eq_false, Bool.false_eq_true, if_false]
    rfl
  have hself : u.slice n = { s.slice n with staged := [] } := State.slice_setSlice_self ..
  have hne (k : Nat) (h : k ∉ [n.val]) : u.slice k = s.slice k := State.slice_setSlice_ne _ _ _ _ (by simpa using h)
  have hp : u.points = s.points := rfl
  obtain ⟨k, hk, -⟩ := chanStep_homeData u n e.ent.line e.hand data p
  show ∃ t, _ ∧ (t.slice n).staged = [] ∧ t.chans = (homeData u n e.ent.line e.hand data p).chans ∧ slicesBut s t [n.val] ∧ t.points = s.points
  refine ⟨_, hx, ?_⟩
  clear_value u
  generalize homeData u n e.ent.line e.hand data p = v at *
  have hv (k : Nat) : v.slice k = u.slice k := by
    rw [hk]
    rfl
  obtain ⟨r1, r2, r3⟩ := releaseWb_of_none (s := v) (n := n) e.ent.line (by rw [hv, hself]; exact hw)
  refine ⟨by rw [r3, hv, hself], r1, fun k h => by rw [r3, hv, hne k h], by rw [r2, hk, hp]⟩

end Free

theorem homeSnoopAnswer : Claim.HomeSnoopAnswer :=
  ⟨fun _ _ _ _ _ hn hm hr ht hs hl hd => snoopAnswers_spec hn hm hr ht hs hl hd, fun _ _ _ _ _ hs ha hd hw => stagingFree_spec hs ha hd hw,
    fun n line s hs => by
      have he : exec (.stagingEntryFree n line) s = execStagingEntryFree n line s := rfl
      rw [he]
      unfold execStagingEntryFree
      dsimp only
      rw [hs, List.find?_nil]⟩

/-! ### The queues of a slice and the credits of a die (R219, R226, R228, R233) -/

section Queues
variable {n : Fin 16} {s : State} {m : Msg}

theorem find_line (h : (s.slice n).lineWait = [m]) : (s.slice n).lineWait.find? (fun w => w.line == m.line) = some m := by
  rw [h, List.find?_cons_of_pos (by exact beq_self_eq_true m.line)]

theorem lineWait_admits (hl : (s.slice n).lineWait = [m]) (hi : inStaging s n m.line = false) (hm : mayShare s n m = true) :
    ∃ t, exec (.lineWaitAdmit n m.line) s = .next t ∧
      t = (admitReq (s.setSlice n { s.slice n with lineWait := [] }) n m).setSlice n
        ((admitReq (s.setSlice n { s.slice n with lineWait := [] }) n m).slice n) := by
  refine ⟨_, ?_, rfl⟩
  have he : exec (.lineWaitAdmit n m.line) s = execLineWaitAdmit n m.line s := rfl
  have hf := find_line hl
  rw [he]
  unfold execLineWaitAdmit
  dsimp only
  rw [hf]
  dsimp only
  rw [if_neg (by rw [hi, hm]; decide), hl]
  simp only [List.findIdx_cons, beq_self_eq_true, cond_true, dropAt, List.take_zero, List.drop_succ_cons, List.drop_nil, List.append_nil, List.filter_nil]

theorem lineWait_waits {line : Nat} (hi : inStaging s n line = true) : exec (.lineWaitAdmit n line) s = .next s := by
  have he : exec (.lineWaitAdmit n line) s = execLineWaitAdmit n line s := rfl
  rw [he]
  unfold execLineWaitAdmit
  dsimp only
  split
  · rfl
  · exact if_pos (.inl hi)

theorem setWait_admits (hl : (s.slice n).setWait = [m]) (h0 : ((admitReq (s.setSlice n { s.slice n with setWait := [] }) n m).slice n).setWait = []) :
    ∃ t, exec (.setWaitAdmit n (dirSet m.line)) s = .next t ∧
      t = ((admitReq (s.setSlice n { s.slice n with setWait := [] }) n m).countBlk (16 + n.val) 0x0205 1).setSlice n
        ((admitReq (s.setSlice n { s.slice n with setWait := [] }) n m).slice n) := by
  refine ⟨_, ?_, rfl⟩
  have he : exec (.setWaitAdmit n (dirSet m.line)) s = execSetWaitAdmit n (dirSet m.line) s := rfl
  have hf : (s.slice n).setWait.find? (fun w => dirSet w.line == dirSet m.line) = some m := by
    rw [hl, List.find?_cons_of_pos (by exact beq_self_eq_true (dirSet m.line))]
  rw [he]
  unfold execSetWaitAdmit
  dsimp only
  rw [hf]
  dsimp only
  rw [hl]
  simp only [List.findIdx_cons, beq_self_eq_true, cond_true, dropAt, List.take_zero, List.drop_succ_cons, List.drop_nil, List.append_nil, List.filter_nil]
  generalize admitReq (s.setSlice n { s.slice n with setWait := [] }) n m = u at *
  rw [h0, if_neg (by simp), ← h0]

theorem queues_idle (n : Fin 16) (line set : Nat) (s : State) :
    ((∀ m ∈ (s.slice n).lineWait, m.line ≠ line) → exec (.lineWaitAdmit n line) s = .next s) ∧
    ((∀ m ∈ (s.slice n).setWait, dirSet m.line ≠ set) → exec (.setWaitAdmit n set) s = .next s) ∧
    ((s.slice n).suspend = false ∨ (s.slice n).txns.any (·.old) = true → exec (.sliceSuspensionEnd n) s = .next s) := by
  refine ⟨fun h => ?_, fun h => ?_, fun h => if_neg ?_⟩
  · have he : exec (.lineWaitAdmit n line) s = execLineWaitAdmit n line s := rfl
    rw [he]
    unfold execLineWaitAdmit
    dsimp only
    rw [List.find?_eq_none.mpr fun m hm => by simpa using h m hm]
  · have he : exec (.setWaitAdmit n set) s = execSetWaitAdmit n set s := rfl
    rw [he]
    unfold execSetWaitAdmit
    dsimp only
    rw [List.find?_eq_none.mpr fun m hm => by simpa using h m hm]
  · rintro ⟨h1, -, h3⟩
    exact h.elim (fun h => Bool.false_ne_true (h.symm.trans h1)) h3

/-- A credit given back to a die. -/
theorem credit_back (d : Fin 16) (k : Nat) (s : State) :
    let t := s.setDie d { s.die d with credits := (s.die d).credits.set k ((s.die d).credits.getD k 0 - 1) }
    diesBut s t [d.val] ∧ t = { s with dies := t.dies } ∧ (t.die d).credits.getD k 0 = (s.die d).credits.getD k 0 - 1 := by
  refine ⟨fun e he => State.die_setDie_ne _ _ _ _ (by simpa using he), rfl, ?_⟩
  dsimp only
  rw [State.die_setDie_self]
  exact NMap.getD_set_self ..

theorem homeQueues : Claim.HomeQueues :=
  ⟨fun _ _ _ hl hi hm => lineWait_admits hl hi hm, fun _ _ _ _ _ hi => lineWait_waits hi, fun _ _ _ hl h0 => setWait_admits hl h0, queues_idle,
    fun _ _ h1 h2 h3 => if_pos ⟨h1, by rw [h2]; decide, by rw [h3]; decide⟩,
    fun d n hand s => ⟨⟨_, rfl, credit_back d (creditKey n 0 hand) s⟩, ⟨_, rfl, credit_back d (creditKey n 1 hand) s⟩,
      ⟨_, rfl, credit_back d (creditKey n 2 0) s⟩⟩⟩

end Queues

/-! ### Class D transfers (R97, R328) -/

section ClassD
variable {n : Fin 16} {q : Fin 10} {s : State}

theorem sramBits_of_clean (h : s.flips = []) (st u i : Nat) : sramBits s st u i = 0 := by
  unfold sramBits
  rw [h]
  rfl

/-- Staged lines without an SRAM error are read as they stand. -/
theorem staging_clean (h : s.flips = []) (u : Nat) (ms : List Msg) (b : Bool) : ms.foldl (fun (r : Bool × State) m =>
      let e := r.2.iodSram 13 u (m.line * 64)
      (r.1 || e.1, e.2)) (b, s) = (b, s) := by
  induction ms with
  | nil => rfl
  | cons m ms ih =>
    rw [List.foldl_cons]
    dsimp only
    rw [iodSram_of_clean (sramBits_of_clean h ..), Bool.or_false]
    exact ih

theorem enterTransfer_of_whole {q : Nat} (h1 : (s.point (0x20 + n.val)).staging.getD q [] ≠ []) (h2 : unfinished (s.point (0x20 + n.val)) q = false)
    (hf : s.flips = []) : enterTransfer s n q = ((s.point (0x20 + n.val)).staging.getD q [],
      expireGrant (overAll ((s.point (0x20 + n.val)).staging.getD q []) enterSlice (s.setPoint (0x20 + n.val)
        { s.point (0x20 + n.val) with staging := (s.point (0x20 + n.val)).staging.erase q, owners := (s.point (0x20 + n.val)).owners.erase q }))
        (0x20 + n.val)) := by
  unfold enterTransfer
  dsimp only
  rw [if_neg (by rw [h2]; exact fun h => h.elim h1 Bool.false_ne_true), staging_clean hf]
  rfl

theorem enterTransfer_none {q : Nat} (h : (s.point (0x20 + n.val)).staging.getD q [] = [] ∨ unfinished (s.point (0x20 + n.val)) q = true) :
    enterTransfer s n q = ([], s) := if_pos h

theorem pumpEngine_of_empty {q : Nat} (h : s.outbox.getD q [] = []) : pumpEngine s q = s := by
  refine overAll_fix fun n _ => ?_
  dsimp only
  rw [h]
  rfl

theorem classD_enters {ms : List Msg} (hs : (s.point (0x20 + n.val)).staging.getD (16 + q.val) [] = ms) (h1 : ms ≠ [])
    (h2 : unfinished (s.point (0x20 + n.val)) (16 + q.val) = false) (hf : s.flips = []) (ho : ∀ m ∈ ms, m.op = .rdOnce) :
    exec (.classDTransferEnter n q) s = .next (pumpEngine (expireGrant (overAll ms enterSlice (s.setPoint (0x20 + n.val)
      { s.point (0x20 + n.val) with staging := (s.point (0x20 + n.val)).staging.erase (16 + q.val),
                                    owners := (s.point (0x20 + n.val)).owners.erase (16 + q.val) })) (0x20 + n.val))
      (16 + q.val)) := by
  have he : exec (.classDTransferEnter n q) s = execClassDTransferEnter n q s := rfl
  have hw : ms.filter (fun m => m.op == .wrFull || m.op == .wrPartial) = [] := List.filter_eq_nil_iff.mpr fun m hm => by
    rw [ho m hm]
    decide
  rw [he]
  unfold execClassDTransferEnter
  dsimp only
  rw [enterTransfer_of_whole (by rw [hs]; exact h1) h2 hf, hs]
  dsimp only
  rw [hw]
  rfl

theorem classD_waits (h : (s.point (0x20 + n.val)).staging.getD (16 + q.val) [] = [] ∨ unfinished (s.point (0x20 + n.val)) (16 + q.val) = true)
    (ho : s.outbox.getD (16 + q.val) [] = []) : exec (.classDTransferEnter n q) s = .next s := by
  have he : exec (.classDTransferEnter n q) s = execClassDTransferEnter n q s := rfl
  rw [he]
  unfold execClassDTransferEnter
  dsimp only
  rw [enterTransfer_none h]
  exact congrArg Host.Outcome.next (pumpEngine_of_empty ho)

theorem classDTransfers : Claim.ClassD := ⟨fun _ _ _ _ hs h1 h2 hf ho => classD_enters hs h1 h2 hf ho, fun _ _ _ h ho => classD_waits h ho⟩

end ClassD

/-- Settles O20, by what an answer, a freed staging entry, a waiting request and a staged transfer each change. -/
theorem homeAnswers : Obligations.HomeAnswers := ⟨homeSnoopAnswer, homeQueues, classDTransfers⟩

end Sys2Proof.Machine
end

section
/-! SUPPORT. Snoop answers of a compute die (O22) -/

namespace Sys2Proof.Machine

/-! ### Lines of a die's L3 and its write-back buffer -/

section Die
variable {u : State} {d : Fin 16} {m : Msg} {e : L3Line}

@[simp] theorem l3Find_putL3_self (u : State) (d : Nat) (e : L3Line) : l3Find (putL3 u d e) d e.line = some e := by
  simp [l3Find, putL3]

@[simp] theorem l3Find_dropL3_self (u : State) (d line : Nat) : l3Find (dropL3 u d line) d line = none := by
  simp [l3Find, dropL3]

theorem wbHit_of_not_held (h : wbHolds u d m.line = false) : wbHit u d m.line = none := by
  have hf : (u.die d).wb.filter (fun w => w.msg.line == m.line) = [] := by
    simpa [wbHolds] using h
  simp [wbHit, hf]

theorem deferred_of_none {line : Nat} (h : ∀ c ∈ coresOnDie d, (u.core c).defer = none) : deferred u d line = false := by
  simp only [deferred, List.any_eq_false]
  intro c hc
  simp [h c hc]

/-! ### The caches of a snooped die (R212, R213, R231) -/

/-- A line of which no core has a copy is taken as the L3 holds it, where its SRAM word is good. -/
theorem takeLine_of_alone {keep : Bool} (hv : e.valid = 0) (hb : sramBits u 3 (0x2100 + d.val) (e.line * 64) = 0) :
    takeLine u d e keep = (e, u) := by
  have hs : backSnoopAll u d e keep none = (e, u) := by
    simp [backSnoopAll, hv]
  simp [takeLine, hs, bufSram, hb]

theorem snoopCaches_of_none {line : Nat} {inv : Bool} (h : l3Find u d line = none) :
    snoopCaches u d line inv = (0, 0, false, u) := by
  rw [snoopCaches, h]

/-- A snoop of a dirty, unlocked line that the L3 alone holds finds its data; the line stays in S or goes. -/
theorem snoopCaches_of_dirty {inv : Bool} (hr : ∀ c ∈ coresOnDie d, (u.core c).resv = none) (hf : l3Find u d m.line = some e)
    (hl : e.line = m.line) (hv : e.valid = 0) (hst : e.st = 3) (hk : locked u d e = false)
    (hb : sramBits u 3 (0x2100 + d.val) (m.line * 64) = 0) :
    snoopCaches u d m.line inv =
      (2, e.data, e.poison, if inv then dropL3 u d m.line else putL3 u d { e with st := 1 }) := by
  have hd : locked (dropL3 u d m.line) d e = false := hk
  have ht (keep : Bool) : takeLine u d e keep = (e, u) := takeLine_of_alone hv (hl ▸ hb)
  rw [snoopCaches, hf]
  dsimp only
  rw [overAll_fix (fun c hc => by rw [hr c hc, Bool.and_false]; rfl), ht]
  cases inv <;> simp [hst, hd]

/-! ### The answer (R213) -/

theorem snoopReply_point (data : LineData) (p : Bool) (op : Opc) :
    (snoopReply u d m op data p).point d = { u.point d with ready := (u.point d).ready ++
      [⟨24, { dieMsg d op m.hand m.line 24 with data := data, poison := p, txn := m.txn }, u.cycle⟩] } :=
  State.point_setPoint_self ..

theorem snoopReply_pointsBut (data : LineData) (p : Bool) (op : Opc) : pointsBut u (snoopReply u d m op data p) [d.val] :=
  fun q hq => State.point_setPoint_ne _ _ _ _ (by simpa using hq)

theorem answerSnoop_of_none (hf : l3Find u d m.line = none) (hw : wbHolds u d m.line = false) :
    answerSnoop u d m = snoopReply u d m .snpRspI 0 false := by
  rw [answerSnoop, wbHit_of_not_held hw]
  dsimp only
  rw [snoopCaches_of_none hf]
  rfl

theorem dieSnoop_of_nothing (hd : deferred u d m.line = false) (hf : l3Find u d m.line = none) (hw : wbHolds u d m.line = false)
    (hm : (u.die d).misses.any (fun x => x.line == m.line) = false) : dieSnoop u d m = snoopReply u d m .snpRspI 0 false := by
  have hs : (u.die d).misses.any (fun x => x.line == m.line && x.sent) = false := by
    rw [List.any_eq_false] at hm ⊢
    intro x hx
    simp [hm x hx]
  simp only [dieSnoop, hd, hf, hw, hs]
  exact answerSnoop_of_none hf hw

theorem dieSnoop_of_deferred (hd : deferred u d m.line = true) :
    dieSnoop u d m = u.setDie d { u.die d with snoopWait := (u.die d).snoopWait ++ [m] } := if_pos hd

theorem dieSnoop_of_dirty (hc : ∀ c ∈ coresOnDie d, (u.core c).defer = none ∧ (u.core c).resv = none)
    (hf : l3Find u d m.line = some e) (hl : e.line = m.line) (hv : e.valid = 0) (hst : e.st = 3) (hw : (u.die d).wb = [])
    (hk : locked u d e = false) (hb : sramBits u 3 (0x2100 + d.val) (m.line * 64) = 0) :
    (m.op = .snpShared → dieSnoop u d m = snoopReply (putL3 u d { e with st := 1 }) d m .snpDataS e.data e.poison) ∧
    (m.op = .snpInv → dieSnoop u d m = snoopReply (dropL3 u d m.line) d m .snpDataI e.data e.poison) := by
  have hd : deferred u d m.line = false := deferred_of_none (fun c h => (hc c h).1)
  have hs := snoopCaches_of_dirty (inv := m.op != .snpShared) (fun c h => (hc c h).2) hf hl hv hst hk hb
  have hwb : wbHit u d m.line = none := wbHit_of_not_held (by simp [wbHolds, hw])
  simp only [dieSnoop, hd, hf, answerSnoop, hwb, hs]
  exact ⟨fun ho => by rw [ho]; rfl, fun ho => by rw [ho]; rfl⟩

theorem diesBut_setDie (u : State) (d : Nat) (k : Die) : diesBut u (u.setDie d k) [d] :=
  fun x hx => State.die_setDie_ne _ _ _ _ (by simpa using hx)

end Die

theorem dieSnoopMiss : Claim.DieSnoopMiss := by
  intro d m s hd hf hw hm i hi
  have key (op : Opc) : dieSnoop (s.countBlk d 0x0107 1) d { m with op := op } =
      snoopReply (s.countBlk d 0x0107 1) d { m with op := op } .snpRspI 0 false :=
    dieSnoop_of_nothing (m := { m with op := op }) hd hf hw hm
  have done (op : Opc) (h : exec i s = .next (dieSnoop (s.countBlk d 0x0107 1) d { m with op := op })) :
      ∃ t, exec i s = .next t ∧
        t.point d = { s.point d with ready := (s.point d).ready ++
          [⟨24, { dieMsg d .snpRspI m.hand m.line 24 with txn := m.txn }, s.cycle⟩] } ∧
        pointsBut s t [d.val] ∧ t = { s.countBlk d 0x0107 1 with points := t.points } :=
    ⟨_, h.trans (congrArg Host.Outcome.next (key op)), snoopReply_point .., snoopReply_pointsBut (u := s.countBlk d 0x0107 1) _ _ _, rfl⟩
  simp only [List.mem_cons, List.not_mem_nil, or_false] at hi
  obtain rfl | rfl | rfl := hi
  · exact done .snpShared rfl
  · exact done .snpInv rfl
  · exact done .snpBinv rfl

theorem dieSnoopHit : Claim.DieSnoopHit := by
  refine ⟨fun d m s e hc hf hl hv hst hw hk hb => ?_, fun d m s hd => ?_⟩
  · have key (op : Opc) := dieSnoop_of_dirty (u := s.countBlk d 0x0107 1) (m := { m with op := op }) hc hf hl hv hst hw hk hb
    refine ⟨⟨_, congrArg Host.Outcome.next ((key .snpShared).1 rfl), ?_, snoopReply_point .., diesBut_setDie (s.countBlk d 0x0107 1) _ _, snoopReply_pointsBut (u := putL3 (s.countBlk d 0x0107 1) _ _) _ _ _, rfl⟩,
      ⟨_, congrArg Host.Outcome.next ((key .snpInv).2 rfl), ?_, snoopReply_point .., diesBut_setDie (s.countBlk d 0x0107 1) _ _, snoopReply_pointsBut (u := dropL3 (s.countBlk d 0x0107 1) _ _) _ _ _, rfl⟩⟩
    · exact hl ▸ l3Find_putL3_self (s.countBlk d 0x0107 1) d { e with st := 1 }
    · exact l3Find_dropL3_self (s.countBlk d 0x0107 1) d m.line
  · exact congrArg Host.Outcome.next (dieSnoop_of_deferred (u := s.countBlk d 0x0107 1) (m := { m with op := .snpInv }) hd)

/-- Settles O22, by the three ways of `dieSnoop`: a snoop waits for a deferral, finds nothing, or takes a line that the L3 alone holds. -/
theorem dieSnoops : Obligations.DieSnoops := ⟨dieSnoopMiss, dieSnoopHit⟩

end Sys2Proof.Machine
end

section
/-! SUPPORT. The Shelver's commands, walk and lock ranges (O24) -/

namespace Sys2Proof.Machine

/-! ### Registers of the Shelver -/

theorem key_shvStatus (d : Nat) : (Reg.SHV_STATUS d).key = 0xF00010300018 + d * 0x1000000 := by simp only [Reg.key]; omega

theorem key_shvSkipped (d : Nat) : (Reg.SHV_SKIPPED d).key = 0xF00010300020 + d * 0x1000000 := by simp only [Reg.key]; omega

theorem key_shvWritten (d : Nat) : (Reg.SHV_WRITTEN d).key = 0xF00010300028 + d * 0x1000000 := by simp only [Reg.key]; omega

theorem key_shvProgress (d : Nat) : (Reg.SHV_PROGRESS d).key = 0xF00010300030 + d * 0x1000000 := by simp only [Reg.key]; omega

theorem key_shvLockSize (d k : Nat) : (Reg.SHV_LOCK_SIZE d k).key = 0xF00010300208 + d * 0x1000000 + k * 0x10 := by
  simp only [Reg.key]; omega

theorem key_shvLockSize_ne (d k : Fin 16) : (Reg.SHV_LOCK_SIZE d k).key ≠ (Reg.SHV_STATUS d).key := by
  rw [key_shvLockSize, key_shvStatus]; omega

theorem arriveKept_shv {d : Nat} {r : Reg} (h : 0xF00010300000 + d * 0x1000000 ≤ r.key) : arriveKept r :=
  ⟨by omega, by omega⟩

/-! ### A status bit of the Shelver with its interrupt (R197, R200, R203) -/

section Status
variable (s : State) (d : Fin 16)

theorem shvSource_exists : ∀ d : Fin 16, sourceExists (16 + d.val) = true := by decide

/-- Source 16 + d counts one arrival after a write of SHV_STATUS. -/
theorem tally_shvArrive {t : State} (ht : t.tally (16 + d.val) = s.tally (16 + d.val)) (h : s.tally (16 + d.val) < 255) :
    (t.arrive (16 + d.val)).tally (16 + d.val) = s.tally (16 + d.val) + 1 := by
  rw [tally_arrive (shvSource_exists d) (ht ▸ h), ht]

theorem tally_put_shvStatus (f : Fld) (n : Nat) {m : Nat} (hm : m < 8192) : (s.put (.SHV_STATUS d) f n).tally m = s.tally m :=
  State.get_put_ne (by rw [key_shvStatus, key_ticTally]; omega) ..

theorem get_shvStatus_arrive (t : State) (n : Nat) (f : Fld) : (t.arrive n).get (.SHV_STATUS d) f = t.get (.SHV_STATUS d) f :=
  congrArg f.get (rd_arrive (arriveKept_shv (d := d.val) (by rw [key_shvStatus]; omega)) ..)

theorem bit_shvStatus_arrive (t : State) (n : Nat) (f : Fld) : (t.arrive n).bit (.SHV_STATUS d) f = t.bit (.SHV_STATUS d) f := by
  rw [State.bit, get_shvStatus_arrive, State.bit]

end Status

/-! ### States that differ in registers alone -/

def regsOnly (s t : State) : Prop := t = { s with regs := t.regs }

theorem regsOnly.trans {s t u : State} (h : regsOnly s t) (h' : regsOnly t u) : regsOnly s u := by
  rw [regsOnly, h', h]

theorem regsOnly_wr (s : State) (r : Reg) (w : Word) : regsOnly s (s.wr r w) := rfl

theorem regsOnly_put (s : State) (r : Reg) (f : Fld) (n : Nat) : regsOnly s (s.put r f n) := rfl

theorem regsOnly.dies {s t : State} (h : regsOnly s t) : t.dies = s.dies := (congrArg State.dies (show _ = _ from h)).trans rfl

theorem regsOnly.setDie {s t : State} (h : regsOnly s t) (d : Nat) (k : Die) :
    t.setDie d k = { s with regs := (t.setDie d k).regs, dies := (t.setDie d k).dies } := by
  rw [regsOnly] at h
  rw [h]
  rfl

/-! ### Commands (R197, R198) -/

section Commands
variable {s : State} {who : Agent} {d : Fin 16} {v : Word} {op : Nat}

/-- The operation that an accepted command starts. -/
def shvOp (s : State) (who : Agent) (d : Nat) (v : Word) (op : Nat) : ShvOp :=
  ⟨op, F.SHV_CMD_SCOPE.get v == 1, F.SHV_CMD_HAND.get v, F.SHV_CMD_FORCE_LOCKED.get v == 1, s.get (.SHV_BASE d) F.SHV_BASE_VALUE,
    s.get (.SHV_SIZE d) F.SHV_BASE_VALUE, s.agentHand who == some (F.SHV_CMD_HAND.get v), []⟩

/-- Whether an accepted command walks by index (R193). -/
def shvByIndex (s : State) (d : Nat) (v : Word) : Bool :=
  F.SHV_CMD_SCOPE.get v == 1 || decide (4096 < s.get (.SHV_SIZE d) F.SHV_BASE_VALUE)

/-- SHV_STATUS written by an accepted command. -/
def shvStatus (s : State) (d : Nat) (v : Word) (op : Nat) : State :=
  (((((s.put (.SHV_STATUS d) F.SHV_STATUS_BUSY 1).put (.SHV_STATUS d) F.SHV_STATUS_HAND (F.SHV_CMD_HAND.get v)).put (.SHV_STATUS d)
    F.SHV_STATUS_INDEX_MODE (if shvByIndex s d v then 1 else 0)).put (.SHV_STATUS d) F.SHV_STATUS_FORCE_LOCKED
    (F.SHV_CMD_FORCE_LOCKED.get v)).put (.SHV_STATUS d) F.SHV_STATUS_SCOPE (F.SHV_CMD_SCOPE.get v)).put (.SHV_STATUS d) F.SHV_STATUS_OP op

/-- The registers after an accepted command. -/
def shvAccepted (s : State) (d : Nat) (v : Word) (op : Nat) : State :=
  (((shvStatus s d v op).wr (.SHV_SKIPPED d) 0).wr (.SHV_WRITTEN d) 0).wr (.SHV_PROGRESS d)
    (BitVec.ofNat 64 ((if shvByIndex s d v then 49152 else s.get (.SHV_SIZE d) F.SHV_BASE_VALUE) * 2 ^ 32))

/-- The die after an accepted command: the misses that it covers are cancelled (R198). -/
def shvDie (s : State) (d : Nat) (o : ShvOp) : Die :=
  { s.die d with
    shv := some o
    misses := if o.op = 1 then (s.die d).misses else
      (s.die d).misses.map (fun x => if shvCovers o x.line x.hand then { x with cancel := true } else x) }

theorem shvStart_of_ignored (h : shvWriter s who d = false ∨ F.SHV_CMD_GO.get v = 0 ∨ F.SHV_CMD_OP.get v ≠ op) :
    shvStart who d v op s = s := by
  refine if_pos ?_
  obtain h | h | h := h <;> simp [h]

theorem shvStart_of_refused (hw : shvWriter s who d = true) (hg : F.SHV_CMD_GO.get v = 1) (ho : F.SHV_CMD_OP.get v = op)
    (hc : shvCode s who d v ≠ 0) : shvStart who d v op s =
      (((s.put (.SHV_STATUS d) F.SHV_STATUS_REFUSED 1).put (.SHV_STATUS d) F.SHV_STATUS_CODE (shvCode s who d v)).arrive (16 + d)) := by
  unfold shvStart
  rw [if_neg (by simp [hw, hg, ho])]
  exact if_pos hc

theorem regsOnly_shvAccepted : regsOnly s (shvAccepted s d v op) :=
  ((((((((((regsOnly_put ..).trans (regsOnly_put ..)).trans (regsOnly_put ..)).trans (regsOnly_put ..)).trans (regsOnly_put ..)).trans
    (regsOnly_put ..)).trans (regsOnly_wr ..)).trans (regsOnly_wr ..)).trans (regsOnly_wr ..)))

theorem die_shvAccepted : (shvAccepted s d v op).die d = s.die d := by
  rw [State.die, regsOnly_shvAccepted.dies, State.die]

theorem shvStart_of_accepted (hw : shvWriter s who d = true) (hg : F.SHV_CMD_GO.get v = 1) (ho : F.SHV_CMD_OP.get v = op)
    (hc : shvCode s who d v = 0) : shvStart who d v op s =
      (shvAccepted s d v op).setDie d (shvDie s d (shvOp s who d v op)) := by
  unfold shvStart
  rw [if_neg (by simp [hw, hg, ho])]
  dsimp only
  rw [if_neg (not_not.mpr hc), shvDie, ← die_shvAccepted (s := s) (d := d) (v := v) (op := op)]
  rfl

theorem shvCode_lt (s : State) (who : Agent) (d : Nat) (v : Word) : shvCode s who d v < 256 := by
  unfold shvCode
  dsimp only
  split_ifs <;> decide

theorem rd_shvAccepted_status : (shvAccepted s d v op).rd (.SHV_STATUS d) = (shvStatus s d v op).rd (.SHV_STATUS d) := by
  rw [shvAccepted, State.rd_wr_ne _ _ _ _ (by rw [key_shvStatus, key_shvProgress]; omega),
    State.rd_wr_ne _ _ _ _ (by rw [key_shvStatus, key_shvWritten]; omega),
    State.rd_wr_ne _ _ _ _ (by rw [key_shvStatus, key_shvSkipped]; omega)]

theorem shvStatus_fields (hop : op < 4) :
    (shvStatus s d v op).get (.SHV_STATUS d) F.SHV_STATUS_BUSY = 1 ∧ (shvStatus s d v op).get (.SHV_STATUS d) F.SHV_STATUS_OP = op ∧
    (shvStatus s d v op).get (.SHV_STATUS d) F.SHV_STATUS_HAND = F.SHV_CMD_HAND.get v := by
  have hh : F.SHV_CMD_HAND.get v < 64 := Fld.get_lt ..
  refine ⟨?_, ?_, ?_⟩
  · rw [shvStatus]
    repeat rw [State.get_put_apart (by decide) (by decide) (by decide)]
    exact State.get_put_self (by decide) (by decide) ..
  · rw [shvStatus, State.get_put_self (by decide) (by decide)]
    exact Nat.mod_eq_of_lt hop
  · rw [shvStatus, State.get_put_apart (by decide) (by decide) (by decide), State.get_put_apart (by decide) (by decide) (by decide),
      State.get_put_apart (by decide) (by decide) (by decide), State.get_put_apart (by decide) (by decide) (by decide),
      State.get_put_self (by decide) (by decide)]
    exact Nat.mod_eq_of_lt hh

theorem rd_shvAccepted_skipped : (shvAccepted s d v op).rd (.SHV_SKIPPED d) = 0 := by
  rw [shvAccepted, State.rd_wr_ne _ _ _ _ (by rw [key_shvSkipped, key_shvProgress]; omega),
    State.rd_wr_ne _ _ _ _ (by rw [key_shvSkipped, key_shvWritten]; omega), State.rd_wr_self]

theorem rd_shvAccepted_written : (shvAccepted s d v op).rd (.SHV_WRITTEN d) = 0 := by
  rw [shvAccepted, State.rd_wr_ne _ _ _ _ (by rw [key_shvWritten, key_shvProgress]; omega), State.rd_wr_self]

/-- A walk begins at its first visit: the count is the lower half of SHV_PROGRESS. -/
theorem progress_shvAccepted : (shvAccepted s d v op).get (.SHV_PROGRESS d) F.SHV_PROGRESS_DONE_COUNT = 0 := by
  rw [shvAccepted, State.get_wr_self]
  generalize (if shvByIndex s d v then 49152 else s.get (.SHV_SIZE d) F.SHV_BASE_VALUE) = n
  rw [Fld.get]
  simp only [BitVec.toNat_ofNat]
  omega

theorem regsBut_shvAccepted :
    regsBut s (shvAccepted s d v op) [.SHV_STATUS d, .SHV_SKIPPED d, .SHV_WRITTEN d, .SHV_PROGRESS d] := by
  intro r hr
  have h1 := hr (.SHV_STATUS d) (by simp)
  rw [shvAccepted, State.rd_wr_ne _ _ _ _ (hr (.SHV_PROGRESS d) (by simp)), State.rd_wr_ne _ _ _ _ (hr (.SHV_WRITTEN d) (by simp)),
    State.rd_wr_ne _ _ _ _ (hr (.SHV_SKIPPED d) (by simp)), shvStatus]
  simp only [State.rd_put_ne h1]

end Commands

section Claims
variable {s : State} {who : Agent} {d : Fin 16} {v : Word} {op : Nat}

theorem shvStart_accepted (hop : op < 4) (hw : shvWriter s who d = true) (hg : F.SHV_CMD_GO.get v = 1) (ho : F.SHV_CMD_OP.get v = op)
    (hc : shvCode s who d v = 0) :
    ∃ t o, shvStart who d v op s = t ∧ (t.die d).shv = some o ∧ o.op = op ∧ o.hand = F.SHV_CMD_HAND.get v ∧
      o.base = s.get (.SHV_BASE d) F.SHV_BASE_VALUE ∧ o.size = s.get (.SHV_SIZE d) F.SHV_BASE_VALUE ∧ o.waits = [] ∧
      t.bit (.SHV_STATUS d) F.SHV_STATUS_BUSY = true ∧ t.get (.SHV_STATUS d) F.SHV_STATUS_OP = op ∧
      t.get (.SHV_STATUS d) F.SHV_STATUS_HAND = F.SHV_CMD_HAND.get v ∧ t.rd (.SHV_SKIPPED d) = 0 ∧ t.rd (.SHV_WRITTEN d) = 0 ∧
      t.get (.SHV_PROGRESS d) F.SHV_PROGRESS_DONE_COUNT = 0 ∧ diesBut s t [d.val] ∧
      regsBut s t [.SHV_STATUS d, .SHV_SKIPPED d, .SHV_WRITTEN d, .SHV_PROGRESS d] ∧
      t = { s with regs := t.regs, dies := t.dies } := by
  obtain ⟨hbusy, hopv, hhand⟩ := shvStatus_fields (s := s) (d := d) (v := v) hop
  have hst (f : Fld) : (shvAccepted s d v op).get (.SHV_STATUS d) f = (shvStatus s d v op).get (.SHV_STATUS d) f :=
    congrArg f.get rd_shvAccepted_status
  have hskip := rd_shvAccepted_skipped (s := s) (d := d) (v := v) (op := op)
  have hwrit := rd_shvAccepted_written (s := s) (d := d) (v := v) (op := op)
  have hprog := progress_shvAccepted (s := s) (d := d) (v := v) (op := op)
  have hregs := regsBut_shvAccepted (s := s) (d := d) (v := v) (op := op)
  have honly := regsOnly_shvAccepted (s := s) (d := d) (v := v) (op := op)
  refine ⟨_, shvOp s who d v op, shvStart_of_accepted hw hg ho hc, ?_⟩
  generalize shvAccepted s d v op = a at *
  have hdie : diesBut s (a.setDie d (shvDie s d (shvOp s who d v op))) [d.val] := fun x hx =>
    (diesBut_setDie a _ _ x hx).trans (by rw [State.die, honly.dies, State.die])
  have hget (r : Reg) (f : Fld) : (a.setDie d (shvDie s d (shvOp s who d v op))).get r f = a.get r f := by
    rw [State.get, State.rd_setDie, State.get]
  refine ⟨?_, rfl, rfl, rfl, rfl, rfl, ?_, ?_, ?_, ?_, ?_, ?_, hdie, fun r hr => ?_, honly.setDie d _⟩
  · rw [State.die_setDie_self, shvDie]
  · rw [State.bit, hget, hst, hbusy]
    rfl
  · rw [hget, hst, hopv]
  · rw [hget, hst, hhand]
  · rw [State.rd_setDie, hskip]
  · rw [State.rd_setDie, hwrit]
  · rw [hget, hprog]
  · rw [State.rd_setDie, hregs r hr]

theorem shvStart_refused (hw : shvWriter s who d = true) (hg : F.SHV_CMD_GO.get v = 1) (ho : F.SHV_CMD_OP.get v = op)
    (hc : shvCode s who d v ≠ 0) :
    ∃ t, shvStart who d v op s = t ∧ t.bit (.SHV_STATUS d) F.SHV_STATUS_REFUSED = true ∧
      t.get (.SHV_STATUS d) F.SHV_STATUS_CODE = shvCode s who d v ∧ t.dies = s.dies ∧
      (s.tally (16 + d.val) < 255 → t.tally (16 + d.val) = s.tally (16 + d.val) + 1) := by
  refine ⟨_, shvStart_of_refused hw hg ho hc, ?_, ?_, ?_, tally_shvArrive s d ?_⟩
  · rw [bit_shvStatus_arrive, State.bit_put_apart (by decide) (by decide) (by decide), State.bit_put_self (by decide) (by decide)]
    rfl
  · rw [get_shvStatus_arrive, State.get_put_self (by decide) (by decide)]
    exact Nat.mod_eq_of_lt (shvCode_lt ..)
  · exact (congrArg State.dies (show _ = _ from sameUnits_arrive ..)).trans rfl
  · rw [tally_put_shvStatus _ _ _ _ (by omega), tally_put_shvStatus _ _ _ _ (by omega)]

end Claims

/-- The three commands are writes of SHV_CMD that start an operation of their kind. -/
theorem exec_shvCommand {s : State} {who : Agent} (h : notLedger s who) (d : Fin 16) (v : Word) :
    ∀ e ∈ [(1, Instr.shvClean who d v), (2, Instr.shvInvalidate who d v), (3, Instr.shvCleanInv who d v)],
      e.1 < 4 ∧ exec e.2 s = .next (shvStart who d v e.1 s) := by
  intro e he
  simp only [List.mem_cons, List.not_mem_nil, or_false] at he
  obtain rfl | rfl | rfl := he
  · exact ⟨(show _ < 4 by norm_num), barred_of_notLedger h ..⟩
  · exact ⟨(show _ < 4 by norm_num), barred_of_notLedger h ..⟩
  · exact ⟨(show _ < 4 by norm_num), barred_of_notLedger h ..⟩

theorem shelverStart : Claim.ShelverStart := by
  refine ⟨fun who d v s hn e he => ?_, fun c d v s hb i hi => ?_⟩
  · obtain ⟨hop, hx⟩ := exec_shvCommand hn d v e he
    refine ⟨fun hw hg ho hc => ?_, fun hw hg ho hc => ?_, fun h => hx.trans (congrArg Host.Outcome.next (shvStart_of_ignored h))⟩
    · obtain ⟨t, o, rfl, h⟩ := shvStart_accepted hop hw hg ho hc
      exact ⟨_, o, hx, h⟩
    · obtain ⟨t, rfl, h⟩ := shvStart_refused hw hg ho hc
      exact ⟨_, hx, h⟩
  · simp only [List.mem_cons, List.not_mem_nil, or_false] at hi
    obtain rfl | rfl | rfl := hi
    · exact barred_of_ledger hb.1 hb.2
    · exact barred_of_ledger hb.1 hb.2
    · exact barred_of_ledger hb.1 hb.2

/-! ### The walk (R193, R200, R220, R231) -/

section Walk
variable {s : State} {d : Fin 16} {o : ShvOp}

/-- The state in which a visit has acted on each line it found. -/
def shvVisited (s : State) (d : Nat) (o : ShvOp) : State :=
  (overAll (shvFound s d o) (fun s e => shvLine s d o e) s).countBlk d 0x0108 (shvFound s d o).length

theorem shvVisit_spec (hs : (s.die d).shv = some o)
    (hp : s.get (.SHV_PROGRESS d) F.SHV_PROGRESS_DONE_COUNT < s.get (.SHV_PROGRESS d) F.SHV_PROGRESS_TOTAL) :
    exec (.shvVisit d) s = if o.op ≠ 1 ∧ (shvFound s d o).any (fun e => deferred s d e.line) then .next s else
      .next (if wbFits (shvVisited s d o) d then
        (shvVisited s d o).put (.SHV_PROGRESS d) F.SHV_PROGRESS_DONE_COUNT (s.get (.SHV_PROGRESS d) F.SHV_PROGRESS_DONE_COUNT + 1) else s) := by
  have hx : exec (.shvVisit d) s = execShvVisit d s := rfl
  rw [hx]
  unfold execShvVisit
  rw [hs]
  exact if_neg (Nat.not_le.mpr hp)

theorem shvComplete_spec (hs : (s.die d).shv = some o) (hw : o.waits = [])
    (hp : s.get (.SHV_PROGRESS d) F.SHV_PROGRESS_DONE_COUNT = s.get (.SHV_PROGRESS d) F.SHV_PROGRESS_TOTAL) :
    exec (.shvComplete d) s = .next ((((s.setDie d { s.die d with shv := none }).put (.SHV_STATUS d) F.SHV_STATUS_BUSY 0).put
      (.SHV_STATUS d) F.SHV_STATUS_DONE 1).arrive (16 + d.val)) := by
  have hx : exec (.shvComplete d) s = execShvComplete d s := rfl
  rw [hx]
  unfold execShvComplete
  rw [hs]
  exact if_pos ⟨hp, hw⟩

theorem shvWalk_idle (hs : (s.die d).shv = none) : exec (.shvVisit d) s = .next s ∧ exec (.shvComplete d) s = .next s := by
  refine ⟨?_, ?_⟩
  · show execShvVisit d s = _
    rw [execShvVisit, hs]
  · show execShvComplete d s = _
    rw [execShvComplete, hs]

theorem shvComplete_done (hs : (s.die d).shv = some o) (hw : o.waits = [])
    (hp : s.get (.SHV_PROGRESS d) F.SHV_PROGRESS_DONE_COUNT = s.get (.SHV_PROGRESS d) F.SHV_PROGRESS_TOTAL) :
    ∃ t, exec (.shvComplete d) s = .next t ∧ (t.die d) = { s.die d with shv := none } ∧
      t.bit (.SHV_STATUS d) F.SHV_STATUS_BUSY = false ∧ t.bit (.SHV_STATUS d) F.SHV_STATUS_DONE = true ∧
      (s.tally (16 + d.val) < 255 → t.tally (16 + d.val) = s.tally (16 + d.val) + 1) ∧ diesBut s t [d.val] ∧
      t = { s with regs := t.regs, dies := t.dies, flips := t.flips } := by
  refine ⟨_, shvComplete_spec hs hw hp, ?_⟩
  generalize hv : ((s.setDie d { s.die d with shv := none }).put (.SHV_STATUS d) F.SHV_STATUS_BUSY 0).put
    (.SHV_STATUS d) F.SHV_STATUS_DONE 1 = v
  have ha : sameUnits v (v.arrive (16 + d.val)) := sameUnits_arrive ..
  have hdies : (v.arrive (16 + d.val)).dies = v.dies := (congrArg State.dies (show _ = _ from ha)).trans rfl
  have hdie (x : Nat) : (v.arrive (16 + d.val)).die x = (s.setDie d { s.die d with shv := none }).die x := by
    rw [State.die, hdies, ← hv]
    rfl
  refine ⟨?_, ?_, ?_, tally_shvArrive s d ?_, fun x hx => (hdie x).trans (diesBut_setDie s _ _ x hx), ?_⟩
  · rw [hdie, State.die_setDie_self]
  · rw [bit_shvStatus_arrive, ← hv, State.bit_put_apart (by decide) (by decide) (by decide), State.bit_put_self (by decide) (by decide)]
    rfl
  · rw [bit_shvStatus_arrive, ← hv, State.bit_put_self (by decide) (by decide)]
    rfl
  · rw [← hv, tally_put_shvStatus _ _ _ _ (by omega), tally_put_shvStatus _ _ _ _ (by omega)]
    rfl
  · rw [ha, ← hv]
    rfl

end Walk

/-! ### Lock ranges (R202, R203) -/

section Lock
variable {s : State} {who : Agent} {d k : Fin 16} {v : Word}

/-- The word that a permitted write of a lock range leaves: H[0] alone changes HAND. -/
def lockWord (s : State) (who : Agent) (d k : Nat) (v : Word) : Word :=
  let w := (Reg.SHV_LOCK_SIZE d k).written (s.rd (.SHV_LOCK_SIZE d k)) v
  if s.isHouse who then w else F.SHV_LOCK_SIZE_HAND.put w (s.get (.SHV_LOCK_SIZE d k) F.SHV_LOCK_SIZE_HAND)

theorem lockRefused_iff (w : Word) :
    (F.SHV_LOCK_SIZE_SIZE.get w * 64 = 0 ∨ ¬ covered s (F.SHV_LOCK_SIZE_HAND.get w)
      (s.get (.SHV_LOCK_BASE d k) F.SHV_LOCK_BASE_BASE * 64) (F.SHV_LOCK_SIZE_SIZE.get w * 64)) ↔ lockFits s d k w = false := by
  rw [lockFits, Bool.and_eq_false_iff, bne_eq_false_iff_eq, Bool.not_eq_true]
  simp

theorem shvLockSizeWrite_spec (hn : notLedger s who) (hw : lockWriter s who d k = true) :
    exec (.shvLockSizeWrite who d k v) s =
      if F.SHV_LOCK_SIZE_VALID.get (lockWord s who d k v) = 1 ∧ lockFits s d k (lockWord s who d k v) = false then
        .next ((s.put (.SHV_STATUS d) F.SHV_STATUS_LOCK_REFUSED 1).arrive (16 + d.val))
      else .next (s.wr (.SHV_LOCK_SIZE d k) (lockWord s who d k v)) := by
  refine (barred_of_notLedger hn ..).trans ((if_neg (by simp [hw])).trans ?_)
  simp only [← lockRefused_iff]
  rfl

theorem shvLockSizeWrite_refused (hn : notLedger s who) (hw : lockWriter s who d k = true)
    (hv : F.SHV_LOCK_SIZE_VALID.get (lockWord s who d k v) = 1) (hf : lockFits s d k (lockWord s who d k v) = false) :
    ∃ t, exec (.shvLockSizeWrite who d k v) s = .next t ∧ t.bit (.SHV_STATUS d) F.SHV_STATUS_LOCK_REFUSED = true ∧
      t.rd (.SHV_LOCK_SIZE d k) = s.rd (.SHV_LOCK_SIZE d k) ∧ t.dies = s.dies ∧
      (s.tally (16 + d.val) < 255 → t.tally (16 + d.val) = s.tally (16 + d.val) + 1) := by
  refine ⟨_, (shvLockSizeWrite_spec hn hw).trans (if_pos ⟨hv, hf⟩), ?_, ?_, (congrArg State.dies (show _ = _ from sameUnits_arrive ..)).trans rfl, tally_shvArrive s d ?_⟩
  · rw [bit_shvStatus_arrive, State.bit_put_self (by decide) (by decide)]
    rfl
  · rw [rd_arrive (arriveKept_shv (d := d.val) (by rw [key_shvLockSize]; omega)), State.rd_put_ne (key_shvLockSize_ne d k)]
  · exact tally_put_shvStatus _ _ _ _ (by omega)

end Lock

theorem shelverWalk : Claim.ShelverWalk := by
  refine ⟨?_, fun d o s hs hw hp => shvComplete_done hs hw hp, fun d s hs => shvWalk_idle hs,
    fun c d k v s hb => barred_of_ledger hb.1 hb.2,
    fun who d k v s hn hw => (barred_of_notLedger hn ..).trans (if_pos (by rw [hw]; rfl)), fun who d k v s hn hw => ?_⟩
  · rintro d o found s hs hp rfl
    refine ⟨fun h => (shvVisit_spec hs hp).trans (if_neg ?_), fun h1 h2 => (shvVisit_spec hs hp).trans (if_pos ⟨h1, h2⟩)⟩
    rintro ⟨h1, h2⟩
    exact h.elim h1 (fun h => absurd (h2.symm.trans h) (by decide))
  · refine ⟨fun h => (shvLockSizeWrite_spec hn hw).trans (if_neg ?_), fun hv hf => shvLockSizeWrite_refused hn hw hv hf⟩
    rintro ⟨h1, h2⟩
    obtain h | h := h
    · exact absurd (h1.symm.trans h) (by decide)
    · exact absurd (h2.symm.trans h) (by decide)

/-- Settles O24, by the one start of every command, the end of the walk, and the word that a write of a lock range leaves. -/
theorem shelver : Obligations.Shelver := ⟨shelverStart, shelverWalk⟩

end Sys2Proof.Machine
end

section
/-! SUPPORT. Parcels at a link's receiver (O1) -/

namespace Sys2Proof.Machine

/-! ### Parcels on their way out of a FIFO (R24, R25, R32, R34) -/

section Fifo
variable {s u w : State} {d : Fin 16} {dir : Dir} {fill : Nat} {e : SentParcel} {l : List SentParcel}

/-- States in which a message for a home slice takes the same way: the points, the cycle and the slices agree. -/
structure SameFabric (u w : State) : Prop where
  points : u.points = w.points
  cycle : u.cycle = w.cycle
  slice : ∀ line, sliceOf u line = sliceOf w line

theorem SameFabric.send (h : SameFabric u w) (p q : Nat) (m : Msg) : SameFabric (u.send p q m) (w.send p q m) := by
  refine ⟨?_, h.cycle, h.slice⟩
  simp only [State.send, State.setPoint, State.point, h.points, h.cycle]

theorem SameFabric.setLink (h : SameFabric u w) (k k' : Nat) (r r' : Dir) (x y : Link) : SameFabric (u.setLink k r x) (w.setLink k' r' y) :=
  ⟨h.points, h.cycle, h.slice⟩

theorem SameFabric.overAll {α : Type} {f : State → α → State} {g : State → α → State} (hf : ∀ u w a, SameFabric u w → SameFabric (f u a) (g w a))
    (l : List α) (h : SameFabric u w) : SameFabric (overAll l f u) (overAll l g w) := by
  induction l generalizing u w with
  | nil => exact h
  | cons a l ih => exact ih (hf u w a h)

/-- The messages of a list sent to their home slices, as the slices stand in a state `s`. -/
def sendUp (s : State) (d : Nat) (u : State) (m : Msg) : State := u.send (0x20 + sliceOf s m.line) d m

/-- A state that differs in the links and the points alone. -/
def fabricOnly (s t : State) : Prop := t = { s with links := t.links, points := t.points }

theorem fabricOnly.trans {s t u : State} (h : fabricOnly s t) (h' : fabricOnly t u) : fabricOnly s u := by
  rw [fabricOnly, h', h]

theorem fabricOnly_setLink (s : State) (k : Nat) (r : Dir) (x : Link) : fabricOnly s (s.setLink k r x) := rfl

theorem fabricOnly_setPoint (s : State) (k : Nat) (x : Point) : fabricOnly s (s.setPoint k x) := rfl

theorem fabricOnly_send (s : State) (p q : Nat) (m : Msg) : fabricOnly s (s.send p q m) := rfl

theorem fabricOnly.regs (h : fabricOnly s u) : u.regs = s.regs := (congrArg State.regs (show _ = _ from h)).trans rfl

theorem fabricOnly.cycle (h : fabricOnly s u) : u.cycle = s.cycle := (congrArg State.cycle (show _ = _ from h)).trans rfl

theorem sliceOf_congr (h : u.regs = w.regs) (line : Nat) : sliceOf u line = sliceOf w line := by
  simp only [sliceOf, State.rd, h]

theorem fabricOnly_overAll {α : Type} {f : State → α → State} (hf : ∀ s a, fabricOnly s (f s a)) (l : List α) (s : State) :
    fabricOnly s (overAll l f s) := by
  induction l generalizing s with
  | nil => rfl
  | cons a l ih => exact (hf s a).trans (ih _)

theorem links_overAll {α : Type} {f : State → α → State} (hf : ∀ s a, (f s a).links = s.links) (l : List α) (s : State) :
    (overAll l f s).links = s.links := by
  induction l generalizing s with
  | nil => rfl
  | cons a l ih => exact (ih _).trans (hf s a)

/-! ### One parcel delivered -/

/-- The link of a direction after a parcel has left its FIFO. -/
def delivered (u : State) (d : Nat) (dir : Dir) (e : SentParcel) : State :=
  u.setLink d dir { u.link d dir with freg := (u.link d dir).freg ++ [e] }

theorem deliver_up (u : State) (d : Nat) (e : SentParcel) : deliver u d .up e =
    overAll ((parcelMsgs d .up e.bits).getD []) (fun s m => s.send (0x20 + sliceOf s m.line) d m) (delivered u d .up e) := rfl

theorem deliver_dn (u : State) (d : Nat) (e : SentParcel) : deliver u d .dn e =
    if e.mgmt.isEmpty then delivered u d .dn e else (delivered u d .dn e).setPoint d { u.point d with
      rcvd := receiveWords (u.point d).rcvd e.mgmt, commitIn := (u.point d).commitIn || e.mgmt.contains [] } := rfl

theorem fabricOnly_deliver (u : State) (e : SentParcel) : fabricOnly u (deliver u d dir e) := by
  cases dir with
  | up =>
    rw [deliver_up]
    exact (fabricOnly_setLink ..).trans (fabricOnly_overAll (fun _ _ => fabricOnly_send ..) _ _)
  | dn =>
    rw [deliver_dn]
    split
    · exact fabricOnly_setLink ..
    · exact (fabricOnly_setLink ..).trans (fabricOnly_setPoint ..)

theorem links_deliver (u : State) (e : SentParcel) : (deliver u d dir e).links = (delivered u d dir e).links := by
  cases dir with
  | up =>
    rw [deliver_up]
    generalize delivered u d .up e = x
    apply links_overAll
    exact fun _ _ => rfl
  | dn =>
    rw [deliver_dn]
    split <;> rfl

theorem SameFabric.deliver (h : SameFabric u w) (e : SentParcel) : SameFabric (deliver u d dir e) (deliver w d dir e) := by
  cases dir with
  | up =>
    refine SameFabric.overAll (fun u w m h => ?_) _ (h.setLink ..)
    rw [h.slice]
    exact h.send ..
  | dn =>
    rw [deliver_dn, deliver_dn]
    split
    · exact h.setLink ..
    · refine ⟨?_, h.cycle, h.slice⟩
      have hp : u.point d = w.point d := by rw [State.point, h.points, State.point]
      show NMap.set u.points _ _ = NMap.set w.points _ _
      rw [hp, h.points]

/-! ### The parcels that leave a FIFO together -/

/-- Parcels that leave the FIFO, the oldest first. -/
def deliverAll (u : State) (d : Nat) (dir : Dir) (l : List SentParcel) : State := overAll l (fun s x => deliver s d dir x) u

theorem fabricOnly_deliverAll (u : State) (l : List SentParcel) : fabricOnly u (deliverAll u d dir l) :=
  fabricOnly_overAll (fun u e => fabricOnly_deliver u e) l u

theorem SameFabric.deliverAll (h : SameFabric u w) (l : List SentParcel) : SameFabric (deliverAll u d dir l) (deliverAll w d dir l) :=
  SameFabric.overAll (fun _ _ e h => h.deliver e) l h

theorem link_deliver_self (u : State) (e : SentParcel) :
    (deliver u d dir e).link d dir = { u.link d dir with freg := (u.link d dir).freg ++ [e] } := by
  rw [State.link, links_deliver, ← State.link, delivered, State.link_setLink_self]

theorem link_deliverAll_self (u : State) (l : List SentParcel) :
    (deliverAll u d dir l).link d dir = { u.link d dir with freg := (u.link d dir).freg ++ l } := by
  induction l generalizing u with
  | nil => simp [deliverAll, overAll]
  | cons e l ih =>
    refine (ih _).trans ?_
    rw [link_deliver_self]
    simp

theorem linksBut_setLink (u : State) (d : Nat) (dir : Dir) (x : Link) : linksBut u (u.setLink d dir x) [(d, dir)] :=
  fun _ _ h => State.link_setLink_ne _ _ _ _ _ _ (h _ (List.mem_singleton_self _))

theorem linksBut.trans {s t u : State} {l : List (Nat × Dir)} (h : linksBut s t l) (h' : linksBut t u l) : linksBut s u l :=
  fun k r hk => (h' k r hk).trans (h k r hk)

theorem linksBut_deliver (u : State) (e : SentParcel) : linksBut u (deliver u d dir e) [(d.val, dir)] := fun k r hk => by
  rw [State.link, links_deliver, ← State.link]
  exact linksBut_setLink u d dir _ k r hk

theorem linksBut_deliverAll (u : State) (l : List SentParcel) : linksBut u (deliverAll u d dir l) [(d.val, dir)] := by
  induction l generalizing u with
  | nil => exact fun _ _ _ => rfl
  | cons e l ih => exact (linksBut_deliver u e).trans (ih _)

/-- What came up stands at its home slices. -/
theorem points_deliverAll_up (hu : u.points = w.points) (hc : u.cycle = w.cycle) (hs : ∀ line, sliceOf u line = sliceOf s line) :
    (deliverAll u d .up l).points = ((l.flatMap (fun x => (parcelMsgs d .up x.bits).getD [])).foldl (sendUp s d) w).points := by
  induction l generalizing u w with
  | nil => exact hu
  | cons e l ih =>
    rw [List.flatMap_cons, List.foldl_append]
    have key (ms : List Msg) (a b : State) (hp : a.points = b.points) (hy : a.cycle = b.cycle) (hl : ∀ line, sliceOf a line = sliceOf s line) :
        (overAll ms (fun s m => s.send (0x20 + sliceOf s m.line) d m) a).points = (ms.foldl (sendUp s d) b).points ∧
          (ms.foldl (sendUp s d) b).cycle = b.cycle := by
      induction ms generalizing a b with
      | nil => exact ⟨hp, rfl⟩
      | cons m ms ih =>
        refine ih _ _ ?_ hy hl
        simp only [sendUp, State.send, State.setPoint, State.point, hp, hy, hl]
    obtain ⟨h1, h2⟩ := key ((parcelMsgs d .up e.bits).getD []) (delivered u d .up e) w hu hc hs
    exact ih h1 (((fabricOnly_deliver (dir := .up) u e).cycle.trans hc).trans h2.symm)
      (fun line => (sliceOf_congr (fabricOnly_deliver (dir := .up) u e).regs line).trans (hs line))

theorem receiveWords_append (m : NMap Word) (a b : List MgmtMsg) : receiveWords m (a ++ b) = receiveWords (receiveWords m a) b := by
  simp [receiveWords]

theorem point_deliver_dn (u : State) (e : SentParcel) : (deliver u d .dn e).point d = { u.point d with
    rcvd := receiveWords (u.point d).rcvd e.mgmt, commitIn := (u.point d).commitIn || e.mgmt.contains [] } := by
  rw [deliver_dn]
  split
  next h =>
    rw [List.isEmpty_iff.mp h]
    simp [receiveWords, delivered]
  · rw [State.point_setPoint_self]

theorem pointsBut_deliver_dn (u : State) (e : SentParcel) : pointsBut u (deliver u d .dn e) [d.val] := by
  intro k hk
  rw [deliver_dn]
  split
  · rfl
  · rw [State.point_setPoint_ne _ _ _ _ (by simpa using hk)]
    rfl

/-- Shadow words and COMMIT that went down are at the die. -/
theorem point_deliverAll_dn (u : State) (l : List SentParcel) : (deliverAll u d .dn l).point d = { u.point d with
    rcvd := receiveWords (u.point d).rcvd (l.flatMap (·.mgmt)), commitIn := (u.point d).commitIn || (l.flatMap (·.mgmt)).contains [] } := by
  induction l generalizing u with
  | nil => simp [deliverAll, overAll, receiveWords]
  | cons e l ih =>
    refine (ih _).trans ?_
    rw [point_deliver_dn, List.flatMap_cons, receiveWords_append]
    simp [Bool.or_assoc]

theorem pointsBut_deliverAll_dn (u : State) (l : List SentParcel) : pointsBut u (deliverAll u d .dn l) [d.val] := by
  induction l generalizing u with
  | nil => exact fun _ _ => rfl
  | cons e l ih => exact fun k hk => (ih _ k hk).trans (pointsBut_deliver_dn u e k hk)

/-! ### Through the FIFO -/

/-- The link of a direction whose FIFO has taken a parcel and holds its fill. -/
def Link.through (l : Link) (fill : Nat) (e : SentParcel) : Link :=
  { l with
    fifo := List.replicate (fill - (l.fifo ++ [e]).length) SentParcel.idle ++ (l.fifo ++ [e]).drop ((l.fifo ++ [e]).length - fill)
    freg := [] }

/-- The parcels that leave a FIFO for the one that enters it. -/
def Link.leaves (l : Link) (fill : Nat) (e : SentParcel) : List SentParcel := (l.fifo ++ [e]).take ((l.fifo ++ [e]).length - fill)

theorem throughFifo_eq (u : State) (d : Nat) (dir : Dir) (fill : Nat) (e : SentParcel) : throughFifo u d dir fill e =
    deliverAll (u.setLink d dir ((u.link d dir).through fill e)) d dir ((u.link d dir).leaves fill e) := rfl

theorem link_throughFifo (u : State) (fill : Nat) (e : SentParcel) : (throughFifo u d dir fill e).link d dir =
    { (u.link d dir).through fill e with freg := (u.link d dir).leaves fill e } := by
  rw [throughFifo_eq, link_deliverAll_self, State.link_setLink_self]
  rfl

theorem fabricOnly_throughFifo (u : State) (fill : Nat) (e : SentParcel) : fabricOnly u (throughFifo u d dir fill e) :=
  (fabricOnly_setLink ..).trans (fabricOnly_deliverAll ..)

theorem linksBut_throughFifo (u : State) (fill : Nat) (e : SentParcel) : linksBut u (throughFifo u d dir fill e) [(d.val, dir)] :=
  linksBut.trans (linksBut_setLink _ _ _ _) (linksBut_deliverAll _ _)

theorem SameFabric.throughFifo (h : SameFabric u w) (hl : (u.link d dir).fifo = (w.link d dir).fifo) (fill : Nat) (e : SentParcel) :
    (throughFifo u d dir fill e).points = (throughFifo w d dir fill e).points := by
  rw [throughFifo_eq, throughFifo_eq, Link.leaves, hl]
  exact ((h.setLink ..).deliverAll _).points

end Fifo

/-! ### A parcel that no injection touches (R24, R25, R48) -/

section Receive
variable {s : State} {d : Fin 16} {dir : Dir} {fill : Nat} {p : Parcel}

theorem regsOnly.links {s t : State} (h : regsOnly s t) : t.links = s.links := (congrArg State.links (show _ = _ from h)).trans rfl

theorem key_dlInject (d : Nat) : (Reg.DL_INJECT d).key = 0xF00010000058 + d * 0x1000000 := by simp only [Reg.key]; omega

theorem bit_of_rd_zero {r : Reg} (h : s.rd r = 0) (f : Fld) : s.bit r f = false := by
  simp [State.bit, State.get, h, Fld.get]

theorem injectParcel_of_none (h : s.rd (.DL_INJECT d) = 0) : injectParcel s d dir p = (p, s) := by
  simp [injectParcel, bit_of_rd_zero h]

theorem returnStatus_of_none (h : s.rd (.DL_INJECT d) = 0) (seq : Nat) (good : Bool) : returnStatus s d dir seq good =
    s.setLink d dir { s.link d dir with status := (s.link d dir).status ++ [statusByte seq good] } := by
  simp [returnStatus, bit_of_rd_zero h]

theorem rd_setFill_ne {r : Reg} (h : r.key ≠ (Reg.DL_STATUS d).key) (n : Nat) : (setFill s d dir n).rd r = s.rd r := by
  cases dir <;> exact State.rd_put_ne h ..

theorem crcSeq_setFill (n : Nat) : crcSeq (setFill s d dir n) d = crcSeq s d := by
  rw [crcSeq, rd_setFill_ne (by simp only [Reg.key]; omega), crcSeq]

theorem regsOnly_setFill (n : Nat) : regsOnly s (setFill s d dir n) := by
  cases dir <;> exact regsOnly_put ..

theorem link_setFill (n k : Nat) (r : Dir) : (setFill s d dir n).link k r = s.link k r := by
  cases dir <;> rfl

theorem regsBut_setFill (n : Nat) : regsBut s (setFill s d dir n) [.DL_STATUS d] := by
  cases dir <;> exact regsBut_put _ _ _ _

/-- The receiver after a parcel has gone into its FIFO and its status byte back. -/
def received (b : State) (d : Nat) (dir : Dir) (fill : Nat) (e : SentParcel) (seq : Nat) (good : Bool) : State :=
  returnStatus (throughFifo b d dir fill e) d dir seq good

/-- The bits of DL_ERR that count a rejected parcel (R29). -/
def crcErr : Dir → Word
  | .up => 1
  | .dn => 2

/-- What is received with a fill that needs no recentring and without injection: the three answers of R29 and R30. -/
theorem parcelReceive_spec (hu : linkUp s d = true) (hr : (s.link d dir).remap = none) (hi : s.rd (.DL_INJECT d) = 0) (h2 : 2 ≤ fill)
    (h6 : fill ≤ 6) {good : Bool} (hg : (parcelGood (crcSeq s d) p && (parcelMsgs d dir p.bits).isSome) = good) :
    let b := setFill s d dir fill
    let l := s.link d dir
    let seq := (p.seq &&& 0x1F).toNat
    exec (.parcelReceive d dir fill p) s =
      if (seq = l.expSeq ∧ ¬ good) ∨ (¬ good ∧ l.kept.isNone) then
        .next (received ((if good then b else b.wr (.DL_ERR d) (b.rd (.DL_ERR d) ||| crcErr dir)).setLink d dir
          { l with rejects := if p.seq.getLsbD 5 then l.rejects + 1 else 0, kept := some p }) d dir fill SentParcel.idle l.expSeq false)
      else if seq ≠ l.expSeq then .next (received b d dir fill SentParcel.idle seq false)
      else
        let c := match l.kept with
          | some old => countLanes b d dir old p
          | none => b
        .next (received (c.setLink d dir { c.link d dir with expSeq := ((c.link d dir).expSeq + 1) % 32, rejects := 0, kept := none }) d dir fill
          ⟨seq, p.bits, (((c.link d dir).replay.find? (fun x => x.seq == seq)).getD SentParcel.idle).mgmt⟩ seq true) := by
  have hx : exec (.parcelReceive d dir fill p) s = execParcelReceive d dir fill p s := rfl
  have h1 : decide (fill ≤ 1) = false := by simp; omega
  have h7 : decide (7 ≤ fill) = false := by simp; omega
  intro b l seq
  rw [hx]
  unfold execParcelReceive
  rw [if_neg (by simp [hu, hr]), injectParcel_of_none hi]
  dsimp only
  simp only [bit_of_rd_zero hi, h1, h7, Bool.or_false, Bool.and_false, Bool.false_eq_true, if_false, false_or, crcSeq_setFill, hg]
  rfl

section Received
variable {b : State} {e : SentParcel} {seq : Nat} {good : Bool}

theorem rd_throughFifo (b : State) (fill : Nat) (e : SentParcel) (r : Reg) : (throughFifo b d dir fill e).rd r = b.rd r := by
  rw [State.rd, (fabricOnly_throughFifo b fill e).regs, State.rd]

variable (hi : b.rd (.DL_INJECT d) = 0)
include hi

theorem received_eq : received b d dir fill e seq good = (throughFifo b d dir fill e).setLink d dir
    { (b.link d dir).through fill e with
      freg := (b.link d dir).leaves fill e, status := (b.link d dir).status ++ [statusByte seq good] } := by
  rw [received, returnStatus_of_none ((rd_throughFifo ..).trans hi), link_throughFifo]
  rfl

theorem link_received : (received b d dir fill e seq good).link d dir =
    { (b.link d dir).through fill e with
      freg := (b.link d dir).leaves fill e, status := (b.link d dir).status ++ [statusByte seq good] } := by
  rw [received_eq hi, State.link_setLink_self]

theorem points_received : (received b d dir fill e seq good).points = (throughFifo b d dir fill e).points := by
  rw [received_eq hi]
  rfl

theorem linksBut_received : linksBut b (received b d dir fill e seq good) [(d.val, dir)] := by
  rw [received_eq hi]
  exact linksBut.trans (linksBut_throughFifo _ _ _) (linksBut_setLink _ _ _ _)

theorem fabricOnly_received : fabricOnly b (received b d dir fill e seq good) := by
  rw [received_eq hi]
  exact (fabricOnly_throughFifo _ _ _).trans (fabricOnly_setLink ..)

theorem received_frame {a : State} (ha : regsOnly s a) (hb : fabricOnly a b) (hl : linksBut a b [(d.val, dir)]) {l : List Reg}
    (hr : regsBut s a l) :
    linksBut s (received b d dir fill e seq good) [(d.val, dir)] ∧ regsBut s (received b d dir fill e seq good) l ∧
      received b d dir fill e seq good = { s with
        regs := (received b d dir fill e seq good).regs, links := (received b d dir fill e seq good).links,
        points := (received b d dir fill e seq good).points } := by
  have hf : fabricOnly a (received b d dir fill e seq good) := hb.trans (fabricOnly_received hi)
  have hlk : linksBut a (received b d dir fill e seq good) [(d.val, dir)] := linksBut.trans hl (linksBut_received hi)
  generalize received b d dir fill e seq good = t at *
  refine ⟨fun k r hk => (hlk k r hk).trans ?_, fun r h => ?_, ?_⟩
  · rw [State.link, ha.links, State.link]
  · rw [State.rd, hf.regs]
    exact hr r h
  · rw [fabricOnly] at hf
    rw [regsOnly] at ha
    rw [hf, ha]

end Received

/-! ### The three answers (R29, R30) -/

theorem setFill_inject (hi : s.rd (.DL_INJECT d) = 0) (n : Nat) : (setFill s d dir n).rd (.DL_INJECT d) = 0 :=
  (rd_setFill_ne (by rw [key_dlInject, key_dlStatus]; omega) _).trans hi

section Answer
variable (hu : linkUp s d = true) (hr : (s.link d dir).remap = none) (hi : s.rd (.DL_INJECT d) = 0) (h2 : 2 ≤ fill) (h6 : fill ≤ 6)
include hu hr hi h2 h6

theorem parcelReceive_accepted (hs : (p.seq &&& 0x1F).toNat = (s.link d dir).expSeq) (hg : parcelGood (crcSeq s d) p = true)
    (hm : (parcelMsgs d dir p.bits).isSome = true) (hk : (s.link d dir).kept = none) :
    exec (.parcelReceive d dir fill p) s = .next (received ((setFill s d dir fill).setLink d dir
      { s.link d dir with expSeq := ((s.link d dir).expSeq + 1) % 32, rejects := 0, kept := none }) d dir fill
      ⟨(s.link d dir).expSeq, p.bits, (((s.link d dir).replay.find? (fun x => x.seq == (s.link d dir).expSeq)).getD SentParcel.idle).mgmt⟩
      (s.link d dir).expSeq true) := by
  rw [parcelReceive_spec hu hr hi h2 h6 (good := true) (by rw [hg, hm]; rfl), if_neg (by simp), if_neg (not_not.mpr hs), hk, hs]
  dsimp only
  rw [link_setFill]

theorem parcelReceive_rejected (hs : (p.seq &&& 0x1F).toNat = (s.link d dir).expSeq ∨ (s.link d dir).kept = none)
    (hg : parcelGood (crcSeq s d) p = false) :
    exec (.parcelReceive d dir fill p) s = .next (received (((setFill s d dir fill).wr (.DL_ERR d)
      ((setFill s d dir fill).rd (.DL_ERR d) ||| crcErr dir)).setLink d dir { s.link d dir with
        rejects := if p.seq.getLsbD 5 then (s.link d dir).rejects + 1 else 0, kept := some p }) d dir fill SentParcel.idle
      (s.link d dir).expSeq false) := by
  have hc : ((p.seq &&& 0x1F).toNat = (s.link d dir).expSeq ∧ ¬ false = true) ∨ (¬ false = true ∧ (s.link d dir).kept.isNone = true) :=
    hs.imp (fun h => ⟨h, by decide⟩) (fun h => ⟨by decide, by rw [h]; rfl⟩)
  rw [parcelReceive_spec hu hr hi h2 h6 (good := false) (by rw [hg]; rfl), if_pos hc]
  rfl

theorem parcelReceive_discarded (hs : (p.seq &&& 0x1F).toNat ≠ (s.link d dir).expSeq)
    (hg : (parcelGood (crcSeq s d) p = true ∧ (parcelMsgs d dir p.bits).isSome = true) ∨ (s.link d dir).kept ≠ none) :
    exec (.parcelReceive d dir fill p) s = .next (received (setFill s d dir fill) d dir fill SentParcel.idle (p.seq &&& 0x1F).toNat false) := by
  rw [parcelReceive_spec hu hr hi h2 h6 rfl, if_neg, if_pos hs]
  rintro (⟨h, -⟩ | ⟨h, hn⟩)
  · exact hs h
  · obtain ⟨h1, h2⟩ | h1 := hg
    · exact h (by rw [h1, h2]; rfl)
    · exact h1 (Option.isNone_iff_eq_none.mp hn)

end Answer

/-- Registers of the link stand apart from those that choose the home slice. -/
theorem sliceOf_of_regsBut {a : State} {l : List Reg} (h : regsBut s a l) (hl : ∀ r ∈ l, 0xF00010000000 ≤ r.key) (line : Nat) :
    sliceOf a line = sliceOf s line := by
  have hm (k : Nat) (hk : k < 4) : a.rd (.HOME_SLICE_MASK k) = s.rd (.HOME_SLICE_MASK k) := h _ fun q hq => by
    have h1 := hl q hq
    have h2 : (Reg.HOME_SLICE_MASK k).key = 0xF00002000000 + k * 8 := by simp only [Reg.key]
    omega
  simp only [sliceOf, List.range_succ, List.range_zero, List.nil_append, List.cons_append, List.foldl_cons, List.foldl_nil,
    hm 0 (by decide), hm 1 (by decide), hm 2 (by decide), hm 3 (by decide)]

theorem sameFabric_of_regsOnly {a : State} {l : List Reg} (ha : regsOnly s a) (h : regsBut s a l) (hl : ∀ r ∈ l, 0xF00010000000 ≤ r.key) :
    SameFabric a s :=
  ⟨(congrArg State.points (show _ = _ from ha)).trans rfl, (congrArg State.cycle (show _ = _ from ha)).trans rfl, sliceOf_of_regsBut h hl⟩

end Receive

theorem linkParcelReceive_accepted (d : Fin 16) (dir : Dir) (fill : Nat) (p : Parcel) (s : State) (q out : List SentParcel)
    (hu : linkUp s d = true) (hr : (s.link d dir).remap = none) (hi : s.rd (.DL_INJECT d) = 0) (h2 : 2 ≤ fill) (h6 : fill ≤ 6)
    (hs : (p.seq &&& 0x1F).toNat = (s.link d dir).expSeq) (hg : parcelGood (crcSeq s d) p = true)
    (hm : (parcelMsgs d dir p.bits).isSome = true) (hk : (s.link d dir).kept = none)
    (hq : q = (s.link d dir).fifo ++ [⟨(s.link d dir).expSeq, p.bits,
      (((s.link d dir).replay.find? (fun x => x.seq == (s.link d dir).expSeq)).getD SentParcel.idle).mgmt⟩])
    (ho : out = q.take (q.length - fill)) :
    ∃ t, exec (.parcelReceive d dir fill p) s = .next t ∧
      t.link d dir = { s.link d dir with
        expSeq := ((s.link d dir).expSeq + 1) % 32, rejects := 0, kept := none,
        fifo := List.replicate (fill - q.length) SentParcel.idle ++ q.drop (q.length - fill), freg := out,
        status := (s.link d dir).status ++ [statusByte (s.link d dir).expSeq true] } ∧
      (dir = .up → t.points = ((out.flatMap (fun x => (parcelMsgs d dir x.bits).getD [])).foldl
        (fun (u : State) m => u.send (0x20 + sliceOf s m.line) d m) s).points) ∧
      (dir = .dn → (∀ k, k ≠ d.val → t.point k = s.point k) ∧ t.point d = { s.point d with
        rcvd := receiveWords (s.point d).rcvd (out.flatMap (·.mgmt)),
        commitIn := (s.point d).commitIn || (out.flatMap (·.mgmt)).contains [] }) ∧
      linksBut s t [(d.val, dir)] ∧ regsBut s t [.DL_STATUS d] ∧
      t = { s with regs := t.regs, links := t.links, points := t.points } := by
  generalize hx : ({ s.link d dir with expSeq := ((s.link d dir).expSeq + 1) % 32, rejects := 0, kept := none } : Link) = x
  generalize he : (⟨(s.link d dir).expSeq, p.bits,
    (((s.link d dir).replay.find? (fun x => x.seq == (s.link d dir).expSeq)).getD SentParcel.idle).mgmt⟩ : SentParcel) = e at hq
  have hexec := parcelReceive_accepted hu hr hi h2 h6 hs hg hm hk
  rw [hx, he] at hexec
  have hfab : SameFabric (setFill s d dir fill) s := sameFabric_of_regsOnly (regsOnly_setFill fill) (regsBut_setFill fill)
    (by simp only [List.mem_singleton, forall_eq, key_dlStatus]; omega)
  have hb : ((setFill s d dir fill).setLink d dir x).rd (.DL_INJECT d) = 0 := setFill_inject hi fill
  have hlink := State.link_setLink_self (setFill s d dir fill) d dir x
  have hfifo : x.fifo = (s.link d dir).fifo := by rw [← hx]
  have hout : (((setFill s d dir fill).setLink d dir x).link d dir).leaves fill e = out := by rw [hlink, ho, hq, Link.leaves, hfifo]
  refine ⟨_, hexec, ?_, ?_, ?_,
    received_frame hb (regsOnly_setFill fill) (fabricOnly_setLink ..) (linksBut_setLink _ _ _ _) (regsBut_setFill fill)⟩
  · rw [link_received hb, hout, hlink, Link.through, hfifo, ← hq, ← hx]
  · rintro rfl
    rw [points_received hb, throughFifo_eq, hout]
    exact points_deliverAll_up hfab.points hfab.cycle hfab.slice
  · rintro rfl
    have hp (k : Nat) : (received ((setFill s d .dn fill).setLink d .dn x) d .dn fill e (s.link d .dn).expSeq true).point k =
        (deliverAll (((setFill s d .dn fill).setLink d .dn x).setLink d .dn
          ((((setFill s d .dn fill).setLink d .dn x).link d .dn).through fill e)) d .dn out).point k := by
      rw [State.point, points_received hb, throughFifo_eq, hout, State.point]
    have h0 (k : Nat) : (((setFill s d .dn fill).setLink d .dn x).setLink d .dn
          ((((setFill s d .dn fill).setLink d .dn x).link d .dn).through fill e)).point k = s.point k := rfl
    refine ⟨fun k hk => (hp k).trans ((pointsBut_deliverAll_dn _ _ k (by simpa using hk)).trans (h0 k)), (hp d).trans ?_⟩
    rw [point_deliverAll_dn, h0]

/-- The FIFO of a receiver that does not accept a parcel, its link `x` in a state with the registers of `a`, runs as that of `s`. -/
theorem received_idle {a s : State} {d : Fin 16} {dir : Dir} {fill seq : Nat} {x : Link} {l : List Reg} (ha : regsOnly s a)
    (hr : regsBut s a l) (hl : ∀ r ∈ l, 0xF00010000000 ≤ r.key) (hi : a.rd (.DL_INJECT d) = 0) {b : State} (hba : fabricOnly a b)
    (hbl : linksBut a b [(d.val, dir)]) (hbp : b.points = a.points) (hx : b.link d dir = x) (hf : x.fifo = (s.link d dir).fifo) :
    (received b d dir fill SentParcel.idle seq false).link d dir = { x with
      fifo := ((throughFifo s d dir fill SentParcel.idle).link d dir).fifo
      freg := ((throughFifo s d dir fill SentParcel.idle).link d dir).freg
      status := x.status ++ [statusByte seq false] } ∧
    (received b d dir fill SentParcel.idle seq false).points = (throughFifo s d dir fill SentParcel.idle).points := by
  have hib : b.rd (.DL_INJECT d) = 0 := by rw [State.rd, hba.regs, ← State.rd, hi]
  have h0 := sameFabric_of_regsOnly ha hr hl
  have hfab : SameFabric b s :=
    ⟨hbp.trans h0.points, hba.cycle.trans h0.cycle, fun line => (sliceOf_congr hba.regs line).trans (h0.slice line)⟩
  refine ⟨?_, (points_received hib).trans (hfab.throughFifo (by rw [hx, hf]) ..)⟩
  rw [link_received hib, link_throughFifo, hx, Link.through, Link.leaves, Link.leaves, hf]
  rfl

theorem linkParcelReceive_rejected (d : Fin 16) (dir : Dir) (fill : Nat) (p : Parcel) (s : State)
    (hu : linkUp s d = true) (hr : (s.link d dir).remap = none) (hi : s.rd (.DL_INJECT d) = 0) (h2 : 2 ≤ fill) (h6 : fill ≤ 6)
    (hs : (p.seq &&& 0x1F).toNat = (s.link d dir).expSeq ∨ (s.link d dir).kept = none) (hg : parcelGood (crcSeq s d) p = false) :
    ∃ t, exec (.parcelReceive d dir fill p) s = .next t ∧
      t.link d dir = { s.link d dir with
        rejects := if p.seq.getLsbD 5 then (s.link d dir).rejects + 1 else 0, kept := some p,
        fifo := ((throughFifo s d dir fill SentParcel.idle).link d dir).fifo,
        freg := ((throughFifo s d dir fill SentParcel.idle).link d dir).freg,
        status := (s.link d dir).status ++ [statusByte (s.link d dir).expSeq false] } ∧
      t.points = (throughFifo s d dir fill SentParcel.idle).points ∧
      t.rd (.DL_ERR d) = s.rd (.DL_ERR d) ||| crcErr dir ∧
      linksBut s t [(d.val, dir)] ∧ regsBut s t [.DL_STATUS d, .DL_ERR d] ∧
      t = { s with regs := t.regs, links := t.links, points := t.points } := by
  have hexec := parcelReceive_rejected hu hr hi h2 h6 hs hg
  have hne : (Reg.DL_ERR d).key ≠ (Reg.DL_STATUS d).key := by rw [key_dlErr, key_dlStatus]; omega
  rw [rd_setFill_ne hne] at hexec
  generalize ha : (setFill s d dir fill).wr (.DL_ERR d) (s.rd (.DL_ERR d) ||| crcErr dir) = a at hexec
  have hra : regsOnly s a := ha ▸ (regsOnly_setFill fill).trans (regsOnly_wr ..)
  have hba : regsBut s a [.DL_STATUS d, .DL_ERR d] := ha ▸
    regsBut.trans (regsBut.mono (regsBut_setFill fill) (by simp)) (regsBut.mono (regsBut_wr _ _ _) (by simp))
  have hia : a.rd (.DL_INJECT d) = 0 := (hba _ (by simp [key_dlInject, key_dlStatus, key_dlErr])).trans hi
  have herr : a.rd (.DL_ERR d) = s.rd (.DL_ERR d) ||| crcErr dir := by rw [← ha, State.rd_wr_self]
  generalize hx : ({ s.link d dir with rejects := if p.seq.getLsbD 5 then (s.link d dir).rejects + 1 else 0, kept := some p } : Link) = x
    at hexec
  obtain ⟨hl, hp⟩ := received_idle (d := d) (dir := dir) (fill := fill) (seq := (s.link d dir).expSeq) (x := x) hra hba
    (by simp [key_dlStatus, key_dlErr]; omega) hia (fabricOnly_setLink a d dir x) (linksBut_setLink _ _ _ _) rfl
    (State.link_setLink_self ..) (by rw [← hx])
  have hfr := received_frame (b := a.setLink d dir x) (e := SentParcel.idle) (seq := (s.link d dir).expSeq) (good := false) (fill := fill)
    hia hra (fabricOnly_setLink ..) (linksBut_setLink _ _ _ _) hba
  refine ⟨_, hexec, ?_, hp, ?_, hfr⟩
  · rw [hl, ← hx]
  · rw [State.rd, (fabricOnly_received (b := a.setLink d dir x) hia).regs]
    exact herr

theorem linkParcelReceive_discarded (d : Fin 16) (dir : Dir) (fill : Nat) (p : Parcel) (s : State)
    (hu : linkUp s d = true) (hr : (s.link d dir).remap = none) (hi : s.rd (.DL_INJECT d) = 0) (h2 : 2 ≤ fill) (h6 : fill ≤ 6)
    (hs : (p.seq &&& 0x1F).toNat ≠ (s.link d dir).expSeq)
    (hg : (parcelGood (crcSeq s d) p = true ∧ (parcelMsgs d dir p.bits).isSome = true) ∨ (s.link d dir).kept ≠ none) :
    ∃ t, exec (.parcelReceive d dir fill p) s = .next t ∧
      t.link d dir = { s.link d dir with
        fifo := ((throughFifo s d dir fill SentParcel.idle).link d dir).fifo,
        freg := ((throughFifo s d dir fill SentParcel.idle).link d dir).freg,
        status := (s.link d dir).status ++ [statusByte (p.seq &&& 0x1F).toNat false] } ∧
      t.points = (throughFifo s d dir fill SentParcel.idle).points ∧
      linksBut s t [(d.val, dir)] ∧ regsBut s t [.DL_STATUS d] ∧
      t = { s with regs := t.regs, links := t.links, points := t.points } := by
  have hexec := parcelReceive_discarded hu hr hi h2 h6 hs hg
  have hia := setFill_inject (dir := dir) hi fill
  have hra : regsOnly s (setFill s d dir fill) := regsOnly_setFill fill
  have hba : regsBut s (setFill s d dir fill) [.DL_STATUS d] := regsBut_setFill fill
  have hlk := link_setFill (s := s) (d := d) (dir := dir) fill d dir
  generalize setFill s d dir fill = a at *
  obtain ⟨hl, hp⟩ := received_idle (b := a) (d := d) (dir := dir) (fill := fill) (seq := (p.seq &&& 0x1F).toNat) hra hba
    (by simp [key_dlStatus]; omega) hia rfl (fun _ _ _ => rfl) rfl hlk rfl
  exact ⟨_, hexec, hl, hp, received_frame hia hra rfl (fun _ _ _ => rfl) hba⟩

/-- Settles O1, by the three answers of a receiver and what its FIFO hands on: messages to their home slices, words to the die. -/
theorem linkParcelReceive : Obligations.LinkParcelReceive := by
  refine ⟨linkParcelReceive_accepted, fun d dir fill p s hu hr hi h2 h6 hs hg => ?_, linkParcelReceive_discarded⟩
  cases dir with
  | up => exact linkParcelReceive_rejected d .up fill p s hu hr hi h2 h6 hs hg
  | dn => exact linkParcelReceive_rejected d .dn fill p s hu hr hi h2 h6 hs hg

end Sys2Proof.Machine
end

section
/-! SUPPORT. Status bytes, training, loss, repair and injection of a link (O2) -/

namespace Sys2Proof.Machine

/-! ### Registers of a link -/

theorem key_dlReplays (d : Nat) : (Reg.DL_REPLAYS d).key = 0xF00010000030 + d * 0x1000000 := by simp only [Reg.key]; omega

theorem key_dlRepairCfg (d : Nat) : (Reg.DL_REPAIR_CFG d).key = 0xF00010000048 + d * 0x1000000 := by simp only [Reg.key]; omega

theorem key_dlCapDie (d : Nat) : (Reg.DL_CAP_DIE d).key = 0xF00010000000 + d * 0x1000000 := by simp only [Reg.key]

theorem key_dlFeatDie (d : Nat) : (Reg.DL_FEAT_DIE d).key = 0xF00010000008 + d * 0x1000000 := by simp only [Reg.key]; omega

theorem key_dlFeatIod (d : Nat) : (Reg.DL_FEAT_IOD d).key = 0xF00010000010 + d * 0x1000000 := by simp only [Reg.key]; omega

theorem key_dlFeatEff (d : Nat) : (Reg.DL_FEAT_EFF d).key = 0xF00010000018 + d * 0x1000000 := by simp only [Reg.key]; omega

/-- A bit set in a register. -/
theorem Fld.put_one (b : Nat) (w : Word) : Fld.put ⟨b, b⟩ w 1 = w ||| BitVec.ofNat 64 (2 ^ b) := by
  have hm : Fld.mask ⟨b, b⟩ = BitVec.ofNat 64 (2 ^ b) := by simp [Fld.mask, Nat.one_shiftLeft]
  have hn : (1 <<< b : Nat) = 2 ^ b := Nat.one_shiftLeft b
  rw [Fld.put, hm]
  dsimp only
  rw [hn]
  generalize BitVec.ofNat 64 (2 ^ b) = m
  ext i hi
  simp only [BitVec.getElem_or, BitVec.getElem_and, BitVec.getElem_not, Bool.and_self]
  cases m[i] <;> simp

theorem regsOnly.clr (s : State) (r : Reg) : regsOnly s (s.clr r) := rfl

/-- States that differ in the registers and the links alone. -/
def linkOnly (s t : State) : Prop := t = { s with regs := t.regs, links := t.links }

theorem linkOnly.trans {s t u : State} (h : linkOnly s t) (h' : linkOnly t u) : linkOnly s u := by
  rw [linkOnly, h', h]

theorem regsOnly.linkOnly {s t : State} (h : regsOnly s t) : linkOnly s t := by
  rw [Machine.linkOnly]
  rw [regsOnly] at h
  rw [h]

theorem linkOnly_setLink (s : State) (d : Nat) (r : Dir) (x : Link) : linkOnly s (s.setLink d r x) := rfl

theorem regsOnly.link {s t : State} (h : regsOnly s t) (d : Nat) (r : Dir) : t.link d r = s.link d r := by
  rw [State.link, h.links, State.link]

theorem linksBut_of_regsOnly {s t : State} (h : regsOnly s t) (l : List (Nat × Dir)) : linksBut s t l := fun _ _ _ => h.link ..

theorem regsBut_of_regs {s t : State} (h : t.regs = s.regs) (l : List Reg) : regsBut s t l := fun _ _ => by
  rw [State.rd, h, State.rd]

/-! ### Status bytes and replays (R30, R31) -/

section Status
variable {s : State} {d : Fin 16} {dir : Dir} {b : Byte} {x : Link}

/-- The counter of the replays of a direction. -/
def replayFld : Dir → Fld
  | .up => F.DL_REPLAYS_REPLAY_UP
  | .dn => F.DL_REPLAYS_REPLAY_DN

theorem startReplay_eq (seq : Nat) : startReplay s d dir seq = (s.setLink d dir { s.link d dir with
    resend := ((s.link d dir).replay.map (·.seq)).dropWhile (fun q => q != seq) }).inc (.DL_REPLAYS d) (replayFld dir) := by
  cases dir <;> rfl

/-- The link of a status byte that has come. -/
def heard (s : State) (d : Nat) (dir : Dir) : State := s.setLink d dir { s.link d dir with status := (s.link d dir).status.tail }

theorem link_heard : (heard s d dir).link d dir = { s.link d dir with status := (s.link d dir).status.tail } := State.link_setLink_self ..

theorem statusByteReceive_good (hv : statusValid b = true) (hb : b.getLsbD 5 = true) : exec (.statusByteReceive d dir b) s =
    .next ((heard s d dir).setLink d dir { (heard s d dir).link d dir with
      replay := ((heard s d dir).link d dir).replay.filter (fun x => x.seq != (b &&& 0x1F).toNat)
      resend := ((heard s d dir).link d dir).resend.filter (fun q => q != (b &&& 0x1F).toNat) }) :=
  (if_neg (by rw [hv]; decide)).trans (if_pos hb)

theorem statusByteReceive_bad (hv : statusValid b = true) (hb : b.getLsbD 5 = false)
    (hr : ((heard s d dir).link d dir).replay.any (fun x => x.seq == (b &&& 0x1F).toNat) = true)
    (hn : ((heard s d dir).link d dir).resend = []) : exec (.statusByteReceive d dir b) s =
    .next (startReplay (heard s d dir) d dir (b &&& 0x1F).toNat) :=
  ((if_neg (by rw [hv]; decide)).trans (if_neg (by rw [hb]; decide))).trans (if_pos ⟨hr, .inl hn⟩)

theorem statusByteReceive_invalid (hv : statusValid b = false) : exec (.statusByteReceive d dir b) s = .next (heard s d dir) :=
  if_pos (by rw [hv]; decide)

theorem rd_startReplay_ne {r : Reg} (h : r.key ≠ (Reg.DL_REPLAYS d).key) (seq : Nat) : (startReplay s d dir seq).rd r = s.rd r := by
  rw [startReplay_eq, State.rd_inc_ne h]
  rfl

theorem linkOnly_startReplay (seq : Nat) : linkOnly s (startReplay s d dir seq) := by
  rw [startReplay_eq]
  exact (linkOnly_setLink ..).trans (regsOnly_put ..).linkOnly

theorem linksBut_startReplay (seq : Nat) : linksBut s (startReplay s d dir seq) [(d.val, dir)] := by
  rw [startReplay_eq]
  exact linksBut.trans (linksBut_setLink _ _ _ _) (linksBut_of_regsOnly (regsOnly_put ..) _)

theorem link_startReplay (seq : Nat) : (startReplay s d dir seq).link d dir = { s.link d dir with
    resend := ((s.link d dir).replay.map (·.seq)).dropWhile (fun q => q != seq) } := by
  rw [startReplay_eq]
  exact State.link_setLink_self ..

theorem rd_startReplay (seq : Nat) : (startReplay s d dir seq).rd (.DL_REPLAYS d) = (s.inc (.DL_REPLAYS d) (replayFld dir)).rd (.DL_REPLAYS d) := by
  rw [startReplay_eq]
  simp only [State.inc, State.rd_put_self]
  rfl

end Status

theorem linkStatus : Claim.LinkStatus := by
  refine ⟨fun d dir b s hv hb => ⟨_, statusByteReceive_good hv hb, ?_, ?_, rfl⟩,
    fun d dir b s hv hb hr hn => ⟨_, statusByteReceive_bad hv hb (by rw [link_heard]; exact hr) (by rw [link_heard]; exact hn), ?_, ?_, ?_, ?_, ?_⟩,
    fun d dir b s hv => ⟨_, statusByteReceive_invalid hv, link_heard, linksBut_setLink _ _ _ _, rfl⟩,
    fun d dir q s hr => ⟨_, if_pos hr, ?_, ?_, ?_, ?_, ?_⟩⟩
  · rw [State.link_setLink_self, link_heard]
  · exact linksBut.trans (linksBut_setLink _ _ _ _) (linksBut_setLink _ _ _ _)
  · rw [link_startReplay, link_heard]
  · cases dir <;> exact rd_startReplay _
  · exact linksBut.trans (linksBut_setLink _ _ _ _) (linksBut_startReplay _)
  · exact fun r h => rd_startReplay_ne (h _ (by simp)) _
  · exact (linkOnly_setLink ..).trans (linkOnly_startReplay _)
  · exact link_startReplay _
  · rw [rd_startReplay_ne (by rw [key_dlErr, key_dlReplays]; omega), State.rd_wr_self]
  · exact linksBut_startReplay _
  · exact fun r h => (rd_startReplay_ne (h _ (by simp)) _).trans (State.rd_wr_ne _ _ _ _ (h _ (by simp)))
  · exact (regsOnly_wr ..).linkOnly.trans (linkOnly_startReplay _)

/-! ### A link that has come up (R41, R43, R418) -/

section Training
variable {s u : State} {d : Fin 16} {o : DieOffer}

/-- DL_STATUS of a link whose training has ended. -/
def linkReady (u : State) (d : Nat) : State :=
  setLinkState ((setFill (setFill u d .up 4) d .dn 4).put (.DL_STATUS d) F.DL_STATUS_HB_OK 1) d 2

theorem linkReady_fields (u : State) (d : Nat) :
    (linkReady u d).get (.DL_STATUS d) F.DL_STATUS_STATE = 2 ∧ (linkReady u d).get (.DL_STATUS d) F.DL_STATUS_HB_OK = 1 ∧
    (linkReady u d).get (.DL_STATUS d) F.DL_STATUS_FILL_UP = 4 ∧ (linkReady u d).get (.DL_STATUS d) F.DL_STATUS_FILL_DN = 4 := by
  refine ⟨?_, ?_, ?_, ?_⟩
  · rw [linkReady, setLinkState, State.get_put_self (by decide) (by decide)]
    rfl
  · rw [linkReady, setLinkState, State.get_put_apart (by decide) (by decide) (by decide), State.get_put_self (by decide) (by decide)]
    rfl
  · rw [linkReady, setLinkState, State.get_put_apart (by decide) (by decide) (by decide),
      State.get_put_apart (by decide) (by decide) (by decide)]
    refine (State.get_put_apart (by decide) (by decide) (by decide) ..).trans ?_
    refine (State.get_put_self (by decide) (by decide) ..).trans ?_
    rfl
  · rw [linkReady, setLinkState, State.get_put_apart (by decide) (by decide) (by decide),
      State.get_put_apart (by decide) (by decide) (by decide)]
    refine (State.get_put_self (by decide) (by decide) ..).trans ?_
    rfl

theorem regsOnly_linkReady (u : State) (d : Nat) : regsOnly u (linkReady u d) :=
  (((regsOnly_put ..).trans (regsOnly_put ..)).trans (regsOnly_put ..)).trans (regsOnly_put ..)

theorem regsBut_linkReady (u : State) (d : Nat) : regsBut u (linkReady u d) [.DL_STATUS d] :=
  regsBut.trans (regsBut.trans (regsBut.trans (regsBut_put _ _ _ _) (regsBut_put _ _ _ _)) (regsBut_put _ _ _ _)) (regsBut_put _ _ _ _)

/-- Both directions of a link set together. -/
def setBoth (s : State) (d : Nat) (x y : Link) : State := (s.setLink d .up x).setLink d .dn y

theorem linkKey_ne (d e : Nat) (r q : Dir) (h : r ≠ q) : linkKey d r ≠ linkKey e q := by
  cases r <;> cases q <;> simp only [linkKey, ne_eq, not_true_eq_false] at h ⊢ <;> omega

theorem setBoth_links (s : State) (d : Nat) (x y : Link) : (setBoth s d x y).link d .up = x ∧ (setBoth s d x y).link d .dn = y ∧
    linksBut s (setBoth s d x y) [(d, .up), (d, .dn)] := by
  refine ⟨?_, State.link_setLink_self .., fun k r h => ?_⟩
  · rw [setBoth, State.link_setLink_ne _ _ _ _ _ _ (linkKey_ne _ _ _ _ (by decide)), State.link_setLink_self]
  · rw [setBoth, State.link_setLink_ne _ _ _ _ _ _ (h (d, .dn) (by simp)), State.link_setLink_ne _ _ _ _ _ _ (h (d, .up) (by simp))]

/-! ### From Fold (R418) -/

theorem dieLinkUp_spec (hl : linkState s d = 1) (hd : s.get (.SCK_DIE d) F.SCK_DIE_STATE = 2) : exec (.dieLinkUp d) s =
    .next (linkReady (setBoth s d { Link.trained with rises := (s.link d .up).rises } { Link.trained with rises := (s.link d .dn).rises }) d) :=
  if_neg (by rw [hl, hd]; decide)

theorem dieLinkUp_up (hl : linkState s d = 1) (hd : s.get (.SCK_DIE d) F.SCK_DIE_STATE = 2) :
    ∃ t, exec (.dieLinkUp d) s = .next t ∧ t.get (.DL_STATUS d) F.DL_STATUS_STATE = 2 ∧
      t.get (.DL_STATUS d) F.DL_STATUS_HB_OK = 1 ∧ t.get (.DL_STATUS d) F.DL_STATUS_FILL_UP = 4 ∧
      t.get (.DL_STATUS d) F.DL_STATUS_FILL_DN = 4 ∧ t.link d .up = { Link.trained with rises := (s.link d .up).rises } ∧
      t.link d .dn = { Link.trained with rises := (s.link d .dn).rises } ∧
      linksBut s t [(d.val, .up), (d.val, .dn)] ∧ regsBut s t [.DL_STATUS d] ∧ t = { s with regs := t.regs, links := t.links } := by
  have h := dieLinkUp_spec hl hd
  generalize hb : setBoth s d { Link.trained with rises := (s.link d .up).rises } { Link.trained with rises := (s.link d .dn).rises } = b at h
  obtain ⟨h1, h2, h3⟩ := setBoth_links s d { Link.trained with rises := (s.link d .up).rises } { Link.trained with rises := (s.link d .dn).rises }
  obtain ⟨f1, f2, f3, f4⟩ := linkReady_fields b d
  rw [hb] at h1 h2 h3
  have hbs : linkOnly s b := hb ▸ (linkOnly_setLink ..).trans (linkOnly_setLink ..)
  have hbr : regsBut s b [.DL_STATUS d] := hb ▸ fun _ _ => rfl
  have ho := regsOnly_linkReady b d
  exact ⟨_, h, f1, f2, f3, f4, (ho.link ..).trans h1, (ho.link ..).trans h2, linksBut.trans h3 (linksBut_of_regsOnly ho _),
    regsBut.trans hbr (regsBut_linkReady b d), hbs.trans ho.linkOnly⟩

theorem dieLinkUp_none (h : linkState s d ≠ 1 ∨ s.get (.SCK_DIE d) F.SCK_DIE_STATE ≠ 2) : exec (.dieLinkUp d) s = .next s := if_pos h

/-! ### From Out (R40, R41, R43) -/

theorem regsOnly_refl (s : State) : regsOnly s s := rfl

theorem regsOnly_overAll {α : Type} {f : State → α → State} (hf : ∀ s a, regsOnly s (f s a)) (l : List α) (s : State) :
    regsOnly s (overAll l f s) := by
  induction l generalizing s with
  | nil => exact regsOnly_refl s
  | cons a l ih => exact (hf s a).trans (ih _)

/-- A die whose link starts afresh has no remap that waits. -/
def freshDie (s : State) (d : Nat) : State := s.setDie d { s.die d with remaps := [] }

theorem regsOnly_freshLink (s : State) (d : Nat) : regsOnly (freshDie (setBoth s d Link.trained Link.trained) d) (freshLink s d) := by
  have h1 (t : State) : regsOnly t ((t.clr (.DL_REPAIR_UP d)).clr (.DL_REPAIR_DN d)) := (regsOnly.clr ..).trans (regsOnly.clr ..)
  have h2 (t : State) : regsOnly t (overAll (List.range 5) (fun s k => (s.clr (.DL_LANE_ERR_UP d k)).clr (.DL_LANE_ERR_DN d k)) t) :=
    regsOnly_overAll (fun _ _ => (regsOnly.clr ..).trans (regsOnly.clr ..)) ..
  have h3 (t : State) : regsOnly t (overAll (List.range 2) (fun s r => overAll (List.range 7) (fun s g =>
      overAll (List.range 5) (fun s k => s.clr (.FLT_LANE d r (g + 1) k)) s) s) t) :=
    regsOnly_overAll (fun _ _ => regsOnly_overAll (fun _ _ => regsOnly_overAll (fun _ _ => regsOnly.clr ..) ..) ..) ..
  exact ((h1 _).trans (h2 _)).trans (h3 _)

/-- A link of which the deskew has begun. -/
def trainStart (s : State) (d : Nat) : State := setLinkState ((freshLink s d).put (.DL_STATUS d) F.DL_STATUS_HB_OK 0) d 1

theorem regsOnly_trainStart (s : State) (d : Nat) : regsOnly (freshDie (setBoth s d Link.trained Link.trained) d) (trainStart s d) :=
  ((regsOnly_freshLink s d).trans (regsOnly_put ..)).trans (regsOnly_put ..)

theorem regsOnly_exchange (u : State) (d : Nat) (o : DieOffer) : regsOnly u (exchange u d o) :=
  (((regsOnly_wr ..).trans (regsOnly_wr ..)).trans (regsOnly_wr ..)).trans (regsOnly_wr ..)

/-- What the IOD records of a capability exchange (R43). -/
theorem exchange_regs (u : State) (d : Nat) (o : DieOffer) :
    (exchange u d o).rd (.DL_CAP_DIE d) = BitVec.ofNat 64 (o.coreGood.toNat * 2 ^ 16 + o.rev.toNat) ∧
    (exchange u d o).rd (.DL_FEAT_DIE d) = BitVec.ofNat 64 o.feat.toNat ∧
    (exchange u d o).rd (.DL_FEAT_EFF d) = BitVec.ofNat 64 (2 ^ 63 + (o.feat &&& 0xFF).toNat) := by
  have h1 : (Reg.DL_CAP_DIE d).key ≠ (Reg.DL_FEAT_EFF d).key := by rw [key_dlCapDie, key_dlFeatEff]; omega
  have h2 : (Reg.DL_CAP_DIE d).key ≠ (Reg.DL_FEAT_IOD d).key := by rw [key_dlCapDie, key_dlFeatIod]; omega
  have h3 : (Reg.DL_CAP_DIE d).key ≠ (Reg.DL_FEAT_DIE d).key := by rw [key_dlCapDie, key_dlFeatDie]; omega
  have h4 : (Reg.DL_FEAT_DIE d).key ≠ (Reg.DL_FEAT_EFF d).key := by rw [key_dlFeatDie, key_dlFeatEff]; omega
  have h5 : (Reg.DL_FEAT_DIE d).key ≠ (Reg.DL_FEAT_IOD d).key := by rw [key_dlFeatDie, key_dlFeatIod]; omega
  refine ⟨?_, ?_, State.rd_wr_self ..⟩
  · rw [exchange, State.rd_wr_ne _ _ _ _ h1, State.rd_wr_ne _ _ _ _ h2, State.rd_wr_ne _ _ _ _ h3, State.rd_wr_self]
  · rw [exchange, State.rd_wr_ne _ _ _ _ h4, State.rd_wr_ne _ _ _ _ h5, State.rd_wr_self]

theorem regsOnly.die {s t : State} (h : regsOnly s t) (d : Nat) : t.die d = s.die d := by rw [State.die, h.dies, State.die]

theorem linkTraining_spec (ht : trainsFromOut s d = true) (hr : 2 ≤ o.rev.toNat / 16) (hc : (s.die d).capOld = none) :
    exec (.linkTraining d o []) s = .next (linkReady (exchange (trainStart s d) d o) d) := by
  refine (if_pos ht).trans (congrArg Host.Outcome.next ?_)
  have hdie : ((exchange (trainStart s d) d o).die d).capOld = none := by
    rw [(regsOnly_exchange ..).die, (regsOnly_trainStart s d).die, freshDie, State.die_setDie_self]
    exact hc
  unfold trainLink mapFaults
  dsimp only
  rw [if_neg (Nat.not_lt.mpr hr), ← trainStart, hdie]
  rfl

theorem linkTraining_up (ht : trainsFromOut s d = true) (hr : 2 ≤ o.rev.toNat / 16) (hc : (s.die d).capOld = none) :
    ∃ t, exec (.linkTraining d o []) s = .next t ∧
      t.get (.DL_STATUS d) F.DL_STATUS_STATE = 2 ∧ t.get (.DL_STATUS d) F.DL_STATUS_HB_OK = 1 ∧
      t.get (.DL_STATUS d) F.DL_STATUS_FILL_UP = 4 ∧ t.get (.DL_STATUS d) F.DL_STATUS_FILL_DN = 4 ∧
      t.link d .up = Link.trained ∧ t.link d .dn = Link.trained ∧ t.die d = { s.die d with remaps := [] } ∧
      t.rd (.DL_CAP_DIE d) = BitVec.ofNat 64 (o.coreGood.toNat * 2 ^ 16 + o.rev.toNat) ∧
      t.rd (.DL_FEAT_DIE d) = BitVec.ofNat 64 o.feat.toNat ∧
      t.rd (.DL_FEAT_EFF d) = BitVec.ofNat 64 (2 ^ 63 + (o.feat &&& 0xFF).toNat) ∧
      linksBut s t [(d.val, .up), (d.val, .dn)] ∧ diesBut s t [d.val] ∧
      t = { s with regs := t.regs, links := t.links, dies := t.dies } := by
  have hx := linkTraining_spec ht hr hc
  obtain ⟨f1, f2, f3, f4⟩ := linkReady_fields (exchange (trainStart s d) d o) d
  obtain ⟨e1, e2, e3⟩ := exchange_regs (trainStart s d) d o
  have hrb := regsBut_linkReady (exchange (trainStart s d) d o) d
  have ho : regsOnly (freshDie (setBoth s d Link.trained Link.trained) d) (linkReady (exchange (trainStart s d) d o) d) :=
    ((regsOnly_trainStart s d).trans (regsOnly_exchange ..)).trans (regsOnly_linkReady ..)
  generalize linkReady (exchange (trainStart s d) d o) d = t at *
  obtain ⟨h1, h2, h3⟩ := setBoth_links s d Link.trained Link.trained
  refine ⟨t, hx, f1, f2, f3, f4, (ho.link ..).trans h1, (ho.link ..).trans h2, ?_, ?_, ?_, ?_, fun k r h => (ho.link ..).trans (h3 k r h),
    fun k h => (ho.die k).trans (diesBut_setDie (setBoth s d Link.trained Link.trained) d _ k h), ?_⟩
  · rw [ho.die, freshDie, State.die_setDie_self]
    rfl
  · rw [hrb _ (by simp [key_dlCapDie, key_dlStatus]), e1]
  · rw [hrb _ (by simp [key_dlFeatDie, key_dlStatus]), e2]
  · rw [hrb _ (by simp [key_dlFeatEff, key_dlStatus]), e3]
  · rw [regsOnly] at ho
    rw [ho]
    rfl

theorem linkTraining_none (h : trainsFromOut s d = false) : exec (.linkTraining d o []) s = .next s := if_neg (by rw [h]; decide)

/-! ### A step that does not end in time (R41) -/

theorem refuseDie_of_serving (hf : s.get (.FLT_DIE d) F.FLT_DIE_STATE ≠ 3) (hc : (s.die d).capOld = none) : refuseDie s d = s :=
  if_neg (by rw [hc]; simpa using hf)

theorem trainingStepTimeout_none {step : Fin 6} (h : linkState s d ≠ 1 ∨ (s.get (.SCK_DIE d) F.SCK_DIE_STATE = 2 ∧ (step = 2 ∨ step = 3))) :
    exec (.trainingStepTimeout d step) s = .next s := if_pos (h.imp_right .inr)

/-- A class of an error bit that concerns no rejoin leaves the die as it is. -/
theorem refuseDie_linkErr (hf : s.get (.FLT_DIE d) F.FLT_DIE_STATE ≠ 3) (hc : (s.die d).capOld = none) (b : Nat) {cls : Nat} (hcls : cls < 32)
    (sev : Nat) : refuseDie (linkErr (setLinkState s d 0) d b cls sev) d = linkErr (setLinkState s d 0) d b cls sev := by
  refine refuseDie_of_serving ?_ ?_
  · rw [linkErr, State.get, rd_raise_ne ⟨by rw [key_fltDie]; omega, by rw [key_fltDie]; omega⟩ (by rw [key_fltDie, key_dlErr]; omega) _ _ hcls,
      setLinkState, State.rd_put_ne (by rw [key_fltDie, key_dlStatus]; omega)]
    exact hf
  · have h : sameUnits (setLinkState s d 0) (linkErr (setLinkState s d 0) d b cls sev) := sameUnits_raise ..
    rw [sameUnits] at h
    rw [h]
    exact hc

theorem trainingStepTimeout_spec {step : Fin 6} (hl : linkState s d = 1) (h0 : step ≠ 0)
    (hd : s.get (.SCK_DIE d) F.SCK_DIE_STATE ≠ 2 ∨ (step ≠ 2 ∧ step ≠ 3)) (hf : s.get (.FLT_DIE d) F.FLT_DIE_STATE ≠ 3)
    (hc : (s.die d).capOld = none) : exec (.trainingStepTimeout d step) s = .next
      ((setLinkState s d 0).raise (.DL_ERR d)
        ([0, 8, 6, 9, 2, 7].getD step.val 0) ([0, 3, 2, 4, 0, 3].getD step.val 0) (0x2100 + d.val) none
        ([0, 3, 1, 3, 1, 3].getD step.val 0) 0) := by
  have hx : exec (.trainingStepTimeout d step) s = execTrainingStepTimeout d step s := rfl
  have hn : ¬ (linkState s d ≠ 1 ∨ step = 0 ∨ (s.get (.SCK_DIE d) F.SCK_DIE_STATE = 2 ∧ (step = 2 ∨ step = 3))) := by
    rintro (h | h | ⟨h, h'⟩)
    · exact h hl
    · exact h0 h
    · exact hd.elim (fun n => n h) (fun n => h'.elim n.1 n.2)
  rw [hx]
  unfold execTrainingStepTimeout
  rw [if_neg hn]
  dsimp only
  rw [if_neg (by rintro ⟨h, -⟩; exact hf h)]
  have key (b : Nat) {cls : Nat} (hcls : cls < 32) (sev : Nat) := refuseDie_linkErr (s := s) (d := d) hf hc b hcls sev
  match step, h0 with
  | 1, _ => exact congrArg Host.Outcome.next (key 8 (cls := 3) (by decide) 3)
  | 2, _ => exact congrArg Host.Outcome.next (key 6 (cls := 2) (by decide) 1)
  | 3, _ => exact congrArg Host.Outcome.next (key 9 (cls := 4) (by decide) 3)
  | 4, _ => exact congrArg Host.Outcome.next (key 2 (cls := 0) (by decide) 1)
  | 5, _ => exact congrArg Host.Outcome.next (key 7 (cls := 3) (by decide) 3)

end Training

theorem linkTraining : Claim.LinkTraining :=
  ⟨fun _ _ _ ht hr hc => linkTraining_up ht hr hc, fun _ _ _ hl h0 hd hf hc => trainingStepTimeout_spec hl h0 hd hf hc,
    fun _ _ _ h => trainingStepTimeout_none h, fun _ _ _ h => linkTraining_none h, fun _ _ hl hd => dieLinkUp_up hl hd,
    fun _ _ h => dieLinkUp_none h⟩

/-! ### Loss of the heartbeat and of the clock (R33, R35, R48) -/

section Loss
variable {s : State} {d : Fin 16}

/-- A lost heartbeat. -/
def hbGone (s : State) (d : Nat) : State := (s.put (.DL_STATUS d) F.DL_STATUS_HB_OK 0).put (.DL_ERR d) F.DL_ERR_HB_LOST 1

theorem key_dlStatus_ne_dlErr (d : Nat) : (Reg.DL_STATUS d).key ≠ (Reg.DL_ERR d).key := by rw [key_dlErr, key_dlStatus]; omega

theorem hbGone_hb (s : State) (d : Nat) : (hbGone s d).get (.DL_STATUS d) F.DL_STATUS_HB_OK = 0 := by
  rw [hbGone, State.get_put_ne (key_dlStatus_ne_dlErr d), State.get_put_self (by decide) (by decide)]
  rfl

theorem hbGone_state (s : State) (d : Nat) : (hbGone s d).get (.DL_STATUS d) F.DL_STATUS_STATE = s.get (.DL_STATUS d) F.DL_STATUS_STATE := by
  rw [hbGone, State.get_put_ne (key_dlStatus_ne_dlErr d), State.get_put_apart (by decide) (by decide) (by decide)]

theorem hbGone_err (s : State) (d : Nat) : (hbGone s d).rd (.DL_ERR d) = s.rd (.DL_ERR d) ||| 0x80 := by
  rw [hbGone, State.rd_put_self, State.rd_put_ne (key_dlStatus_ne_dlErr d).symm, Fld.put_one]
  rfl

theorem regsBut_hbGone (s : State) (d : Nat) : regsBut s (hbGone s d) [.DL_STATUS d, .DL_ERR d] :=
  regsBut.trans (regsBut.mono (regsBut_put _ _ _ _) (by simp)) (regsBut.mono (regsBut_put _ _ _ _) (by simp))

theorem regsOnly_hbGone (s : State) (d : Nat) : regsOnly s (hbGone s d) := (regsOnly_put ..).trans (regsOnly_put ..)

/-! ### Writes of DL_INJECT (R48) -/

variable {who : Agent} {v : Word}

/-- DL_INJECT as a write by the house supervisor stores it. -/
def injectStored (s : State) (d : Nat) (v : Word) : State :=
  s.wr (.DL_INJECT d) ((Reg.DL_INJECT d).written (s.rd (.DL_INJECT d)) v)

theorem injectStored_get {x : FldRow} (hx : x ∈ (Reg.DL_INJECT d).fields) (ha : x.access = .rw) (s : State) (v : Word) :
    (injectStored s d v).get (.DL_INJECT d) x.bits = x.bits.get v := by
  rw [injectStored, State.get_wr_self, Reg.get_written hx, FldRow.taken, ha]
  rfl

theorem injectStored_count : (injectStored s d v).get (.DL_INJECT d) F.DL_INJECT_COUNT = F.DL_INJECT_COUNT.get v :=
  injectStored_get (x := ⟨F.DL_INJECT_COUNT, .rw, 0⟩) (by simp [Reg.fields]) rfl s v

theorem injectStored_hb : (injectStored s d v).get (.DL_INJECT d) F.DL_INJECT_HB = F.DL_INJECT_HB.get v :=
  injectStored_get (x := ⟨F.DL_INJECT_HB, .rw, 0⟩) (by simp [Reg.fields]) rfl s v

theorem dlInject_of_stranger (h : s.isHouse who = false) : dlInject who d v s = s := if_pos (by rw [h]; rfl)

theorem dlInject_of_house (h : s.isHouse who = true) : dlInject who d v s =
    (let u := if (injectStored s d v).get (.DL_INJECT d) F.DL_INJECT_COUNT = 0 then (injectStored s d v).put (.DL_INJECT d) F.DL_INJECT_LANE_FLIP 0
      else injectStored s d v
     if u.bit (.DL_INJECT d) F.DL_INJECT_HB then hbGone (u.put (.DL_INJECT d) F.DL_INJECT_HB 0) d else u) := if_neg (by rw [h]; decide)

theorem count_of_masked (hc : v &&& 0xFF000000 ≠ 0) : F.DL_INJECT_COUNT.get v ≠ 0 := by
  intro h0
  refine hc (BitVec.eq_of_getLsbD_eq fun i _ => ?_)
  rw [show (0xFF000000 : Word) = F.DL_INJECT_COUNT.mask from rfl, BitVec.getLsbD_and, Fld.getLsbD_mask _ _ (by decide)]
  show _ = (0#64).getLsbD i
  rw [BitVec.getLsbD_zero]
  have ht := Fld.testBit_get F.DL_INJECT_COUNT v (i - 24)
  rw [h0, Nat.zero_testBit] at ht
  by_cases hr : 24 ≤ i ∧ i ≤ 31
  · have hv : v.getLsbD (24 + (i - 24)) = false := by simpa [show i - 24 < 8 by omega] using ht.symm
    rw [show i = 24 + (i - 24) by omega, hv, Bool.false_and]
  · rw [decide_eq_false (fun h => hr h.2), Bool.and_false]

theorem dlInject_stored (h : s.isHouse who = true) (hb : v.getLsbD 3 = false) (hc : v &&& 0xFF000000 ≠ 0) :
    dlInject who d v s = injectStored s d v := by
  have hu : dlInject who d v s = if (injectStored s d v).bit (.DL_INJECT d) F.DL_INJECT_HB then
      hbGone ((injectStored s d v).put (.DL_INJECT d) F.DL_INJECT_HB 0) d else injectStored s d v := by
    rw [dlInject_of_house h, if_neg (injectStored_count.trans_ne (count_of_masked hc))]
  rw [hu, State.bit, injectStored_hb, Fld.get_bit, hb]
  rfl

/-- A write of DL_INJECT that sets HB alone. -/
theorem dlInject_hb (h : s.isHouse who = true) : dlInject who d 8 s =
    hbGone (((injectStored s d 8).put (.DL_INJECT d) F.DL_INJECT_LANE_FLIP 0).put (.DL_INJECT d) F.DL_INJECT_HB 0) d := by
  rw [dlInject_of_house h, if_pos (injectStored_count.trans (by decide))]
  refine if_pos ?_
  rw [State.bit_put_apart (by decide) (by decide) (by decide), State.bit, injectStored_hb]
  decide

theorem hbLost_spec (hw : watched s d = true) : exec (.hbLost d) s = .next (hbGone s d) := if_pos hw

theorem clkLost_spec (hw : watched s d = true) : exec (.clkLost d) s = .next (s.put (.DL_ERR d) F.DL_ERR_CLK_LOST 1) := if_pos hw

theorem dlInjectHb_spec (h : s.isHouse who = true) :
    ∃ t, exec (.dlInjectHb who d 8) s = .next t ∧ t.get (.DL_STATUS d) F.DL_STATUS_HB_OK = 0 ∧
      t.rd (.DL_ERR d) = s.rd (.DL_ERR d) ||| 0x80 ∧ t.bit (.DL_INJECT d) F.DL_INJECT_HB = false ∧
      regsBut s t [.DL_INJECT d, .DL_STATUS d, .DL_ERR d] ∧ t = { s with regs := t.regs } := by
  have hx : exec (.dlInjectHb who d 8) s = _ := congrArg Host.Outcome.next (dlInject_hb h)
  have ha : regsOnly s (injectStored s d 8) := regsOnly_wr ..
  have hr : regsBut s (injectStored s d 8) [.DL_INJECT d] := regsBut_wr _ _ _
  generalize injectStored s d 8 = a at *
  have hne : (Reg.DL_INJECT d).key ≠ (Reg.DL_STATUS d).key := by rw [key_dlInject, key_dlStatus]; omega
  have hne' : (Reg.DL_INJECT d).key ≠ (Reg.DL_ERR d).key := by rw [key_dlInject, key_dlErr]; omega
  have hu : regsBut s ((a.put (.DL_INJECT d) F.DL_INJECT_LANE_FLIP 0).put (.DL_INJECT d) F.DL_INJECT_HB 0) [.DL_INJECT d] :=
    regsBut.trans hr (regsBut.trans (regsBut_put _ _ _ _) (regsBut_put _ _ _ _))
  refine ⟨_, hx, hbGone_hb .., ?_, ?_, regsBut.trans (regsBut.mono hu (by simp)) (regsBut.mono (regsBut_hbGone _ _) (by simp)),
    ((ha.trans (regsOnly_put ..)).trans (regsOnly_put ..)).trans (regsOnly_hbGone ..)⟩
  · rw [hbGone_err, hu _ (by simpa using hne'.symm)]
  · rw [hbGone, State.bit_put_ne hne', State.bit_put_ne hne, State.bit_put_self (by decide) (by decide)]
    rfl

end Loss

theorem linkLoss : Claim.LinkLoss := by
  refine ⟨fun d s hw => ⟨_, hbLost_spec hw, hbGone_hb .., hbGone_state .., hbGone_err .., regsBut_hbGone _ _, regsOnly_hbGone ..⟩,
    fun d s hw => ⟨_, clkLost_spec hw, ?_, regsBut_put _ _ _ _, rfl⟩, fun d dir s hr hl => if_pos ⟨hr, hl⟩, fun who d s h => dlInjectHb_spec h⟩
  rw [State.rd_put_self, Fld.put_one]
  rfl

theorem linkInject : Claim.LinkInject := by
  intro who d v s
  have hx (i : Instr) (hi : exec i s = .next (dlInject who d v s)) :
      (s.isHouse who = false → exec i s = .next s) ∧
      (s.isHouse who = true → v.getLsbD 3 = false → v &&& 0xFF000000 ≠ 0 → exec i s = .next (injectStored s d v)) :=
    ⟨fun h => hi.trans (congrArg Host.Outcome.next (dlInject_of_stranger h)),
      fun h hb hc => hi.trans (congrArg Host.Outcome.next (dlInject_stored h hb hc))⟩
  have h1 := hx (.dlInjectLaneFlip who d v) rfl
  have h2 := hx (.dlInjectFifo who d v) rfl
  have h3 := hx (.dlInjectStatus who d v) rfl
  have h4 := hx (.dlInjectCrcDn who d v) rfl
  have h5 := hx (.dlInjectCrcUp who d v) rfl
  exact ⟨fun h => ⟨h1.1 h, h2.1 h, h3.1 h, h4.1 h, h5.1 h, (hx (.dlInjectHb who d v) rfl).1 h⟩,
    fun h hb hc => ⟨h1.2 h hb hc, h2.2 h hb hc, h3.2 h hb hc, h4.2 h hb hc, h5.2 h hb hc⟩⟩

/-! ### Spare-lane repair (R37, R38, R39) -/

section Repair
variable {s : State} {d : Fin 16} {dir : Dir}

/-- The rises that led to a remap count no further. -/
def risesSpent (s : State) (d : Nat) (dir : Dir) (g pos : Nat) : State :=
  s.setLink d dir { s.link d dir with rises := (s.link d dir).rises.filter (fun e => !(e.1 == g && e.2.1 == pos)) }

theorem remapping_setLink (u : State) (d : Nat) (dir : Dir) (x : Link) :
    remapping (u.setLink d dir x) d = (x.remap.isSome || (u.link d (otherDir dir)).remap.isSome) := by
  cases dir with
  | up => rw [remapping, State.link_setLink_self, State.link_setLink_ne _ _ _ _ _ _ (linkKey_ne d d _ _ (by decide)), otherDir]
  | dn => rw [remapping, State.link_setLink_self, State.link_setLink_ne _ _ _ _ _ _ (linkKey_ne d d _ _ (by decide)), otherDir, Bool.or_comm]

theorem remapping_eq (u : State) (d : Nat) (dir : Dir) :
    remapping u d = ((u.link d dir).remap.isSome || (u.link d (otherDir dir)).remap.isSome) := by
  cases dir with
  | up => rfl
  | dn => exact Bool.or_comm ..

theorem remapping_risesSpent (s : State) (d : Nat) (dir : Dir) (g pos : Nat) : remapping (risesSpent s d dir g pos) d = remapping s d := by
  rw [risesSpent, remapping_setLink, remapping_eq s d dir]

theorem spareOf_risesSpent (s : State) (d : Nat) (dir : Dir) (g pos k : Nat) : spareOf (risesSpent s d dir g pos) d dir k = spareOf s d dir k := rfl

section Due
variable {g : Fin 8} {lane : BitVec 6} (hu : linkUp s d = true) (ha : s.bit (.DL_REPAIR_CFG d) F.DL_REPAIR_CFG_AUTO = true)
  (hs : dlSpare s d = true) (hc : laneCode g lane.toNat = true) (hd : laneDue s d dir g (lane.toNat - 1) = true)
include hu ha hs hc hd

theorem laneRemapStart_spec : exec (.laneRemapStart d dir g lane) s =
    .next (remapLane (risesSpent s d dir g (lane.toNat - 1)) d dir g lane.toNat) := if_pos ⟨hu, ha, hs, hc, hd⟩

theorem laneRemapStart_begins (hf : spareOf s d dir g = 0) (hr : remapping s d = false) : exec (.laneRemapStart d dir g lane) s =
    .next (beginRemap (risesSpent s d dir g (lane.toNat - 1)) d dir g lane.toNat) := by
  rw [laneRemapStart_spec hu ha hs hc hd, remapLane, spareOf_risesSpent, if_neg (not_not.mpr hf), if_neg (by rw [remapping_risesSpent, hr]; decide)]

theorem laneRemapStart_waits (hf : spareOf s d dir g = 0) (hr : remapping s d = true) : exec (.laneRemapStart d dir g lane) s =
    .next ((risesSpent s d dir g (lane.toNat - 1)).setDie d { s.die d with remaps := (s.die d).remaps ++ [(dir, g.val, lane.toNat)] }) := by
  rw [laneRemapStart_spec hu ha hs hc hd, remapLane, spareOf_risesSpent, if_neg (not_not.mpr hf), if_pos (by rw [remapping_risesSpent, hr])]
  rfl

theorem laneRemapStart_exhausted (hf : spareOf s d dir g ≠ 0) : exec (.laneRemapStart d dir g lane) s =
    .next ((risesSpent s d dir g (lane.toNat - 1)).raise (.DL_ERR d) 6 2 (0x2100 + d.val) none 1 0) := by
  rw [laneRemapStart_spec hu ha hs hc hd, remapLane, spareOf_risesSpent, if_pos hf]
  rfl

end Due

theorem laneRemapStart_none {g : Fin 8} {lane : BitVec 6}
    (h : s.bit (.DL_REPAIR_CFG d) F.DL_REPAIR_CFG_AUTO = false ∨ laneDue s d dir g (lane.toNat - 1) = false) :
    exec (.laneRemapStart d dir g lane) s = .next s := by
  refine if_neg ?_
  rintro ⟨-, h1, -, -, h2⟩
  exact h.elim (fun h => absurd (h.symm.trans h1) (by decide)) (fun h => absurd (h.symm.trans h2) (by decide))

theorem beginRemap_spec (u : State) (d : Fin 16) (dir : Dir) (g code : Nat) :
    (beginRemap u d dir g code).link d dir = { u.link d dir with remap := some (g, code) } ∧
    (beginRemap u d dir g code).get (.DL_STATUS d) F.DL_STATUS_STATE = 3 ∧ linksBut u (beginRemap u d dir g code) [(d.val, dir)] ∧
    regsBut u (beginRemap u d dir g code) [.DL_STATUS d] ∧ linkOnly u (beginRemap u d dir g code) := by
  refine ⟨State.link_setLink_self .., ?_, linksBut_setLink u _ _ _, ?_, rfl⟩
  · rw [beginRemap, setLinkState, State.get_put_self (by decide) (by decide)]
    rfl
  · exact regsBut_put (u.setLink ..) _ _ _

/-- The state after the end of a remap that nothing follows. -/
def remapDone (s : State) (d : Fin 16) (dir : Dir) (g code : Nat) : State :=
  setLinkState ((setFill (s.put (repairReg d dir) (F.DL_REPAIR_UP_SPARE g) code) d dir 4).setLink d dir
    { s.link d dir with
      remap := none, resend := (s.link d dir).replay.map (·.seq), freg := [],
      fifo := List.replicate (4 - (s.link d dir).fifo.length) SentParcel.idle ++ (s.link d dir).fifo }) d 2

theorem remapComplete_spec {g code : Nat} (hr : (s.link d dir).remap = some (g, code)) (hw : (s.die d).remaps = [])
    (ho : (s.link d (otherDir dir)).remap = none) (hl : (s.link d dir).fifo.length ≤ 4) :
    exec (.remapComplete d dir) s = .next ((remapDone s d dir g code).raise (.DL_ERR d) 5 1 (0x2100 + d.val) none 1 0) := by
  have hx : exec (.remapComplete d dir) s = execRemapComplete d dir s := rfl
  rw [hx]
  unfold execRemapComplete
  dsimp only
  rw [hr, show (s.link d dir).fifo.length - 4 = 0 by omega]
  dsimp only
  rw [List.take_zero, List.drop_zero]
  have ho' : ((setFill (s.put (repairReg d dir) (F.DL_REPAIR_UP_SPARE g) code) d dir 4).link d (otherDir dir)).remap = none := by
    rw [((regsOnly_put s ..).trans (regsOnly_setFill 4)).link, ho]
  have hdie := ((regsOnly_put s (repairReg d dir) (F.DL_REPAIR_UP_SPARE g) code).trans (regsOnly_setFill (d := d) (dir := dir) 4)).die d
  unfold remapDone
  generalize setFill (s.put (repairReg d dir) (F.DL_REPAIR_UP_SPARE g) code) d dir 4 = u at *
  generalize hb : u.setLink d dir _ = b
  have hm : remapping b d = false := by rw [← hb, remapping_setLink, ho']; rfl
  have hd : (linkErr (setLinkState b d 2) d 5 1 1).die d = s.die d := by
    have hs : sameUnits (setLinkState b d 2) (linkErr (setLinkState b d 2) d 5 1 1) := sameUnits_raise ..
    rw [sameUnits] at hs
    rw [hs, ← hdie, ← hb]
    rfl
  rw [show overAll [] (fun s x => deliver s d dir x) b = b from rfl, hm, if_neg (by decide), hd, hw]
  rfl

theorem dlRepairCmdGo_none {who : Agent} {v : Word} (h : s.isHouse who = false ∨ linkState s d = 3) :
    exec (.dlRepairCmdGo who d v) s = .next s := by
  refine if_neg ?_
  rintro ⟨h1, -, h2, -⟩
  exact h.elim (fun h => absurd (h.symm.trans h1) (by decide)) (fun h => absurd (h.symm.trans h2) (by decide))

end Repair

theorem linkRepair : Claim.LinkRepair := by
  refine ⟨fun d dir g lane s hu ha hs hc hd hf hr => ⟨_, laneRemapStart_begins hu ha hs hc hd hf hr, ?_⟩,
    fun d dir g lane s hu ha hs hc hd hf hr => ⟨_, laneRemapStart_waits hu ha hs hc hd hf hr, State.die_setDie_self .., ?_,
      diesBut_setDie (risesSpent s d dir g (lane.toNat - 1)) _ _, linksBut_setLink s _ _ _, rfl⟩,
    fun d dir g lane s hu ha hs hc hd hf => laneRemapStart_exhausted hu ha hs hc hd hf,
    fun d dir g lane s h => laneRemapStart_none h,
    fun d dir s g code hr hw ho hl => remapComplete_spec hr hw ho hl,
    fun who d v s dir hh hg hdir hl hr hf hc hs => ⟨_, if_pos ⟨hh, hg, hl, hdir ▸ hr, hdir ▸ hf, hc, hs⟩, ?_⟩,
    fun who d v s h => dlRepairCmdGo_none h⟩
  · obtain ⟨h1, h2, h3, h4, h5⟩ := beginRemap_spec (risesSpent s d dir g (lane.toNat - 1)) d dir g lane.toNat
    refine ⟨?_, h2, linksBut.trans (linksBut_setLink s _ _ _) h3, h4, (linkOnly_setLink ..).trans h5⟩
    rw [h1, risesSpent, State.link_setLink_self]
  · show ((risesSpent s d dir g (lane.toNat - 1)).link d dir).remap = _
    rw [risesSpent, State.link_setLink_self]
  · obtain ⟨h1, h2, h3, h4, h5⟩ := beginRemap_spec s d dir (F.DL_REPAIR_CMD_GROUP.get v) (F.DL_REPAIR_CMD_LANE.get v)
    rw [← hdir]
    exact ⟨by rw [h1], h2, h3, h4, h5⟩

/-- Settles O2, by what each status byte, training step, loss and repair of a link leaves in its register file and its two directions. -/
theorem linkControl : Obligations.LinkControl := ⟨linkStatus, linkTraining, linkLoss, linkRepair, linkInject⟩

end Sys2Proof.Machine
end

section
/-! SUPPORT. Package reset and its release (O3) -/

namespace Sys2Proof.Machine

/-! ### The units after a reset (R468) -/

section Reset
variable {s : State}

/-- The units in their reset state, before the pins show in HP_LINK. -/
def clearedUnits (s : State) : State :=
  { State.reset with
    arc := resetArc s.arc, tap := s.tap, free := s.free, out := s.out, pending := s.pending
    mgmt := { Mgmt.init with low := false, main := s.mgmt.main, clock := s.mgmt.clock, stby := s.mgmt.stby, perst := s.mgmt.perst } }

theorem showPerst_spec (u : State) : regsOnly u (showPerst u) ∧ regsBut u (showPerst u) ((List.range 8).map Reg.HP_LINK) := by
  have key (l : List Nat) (hl : l ⊆ List.range 8) (t : State) : regsOnly t (overAll l (fun s p => if s.mgmt.perst.testBit p then
      s.put (.HP_LINK p) F.HP_LINK_PERST 1 else s) t) ∧ regsBut t (overAll l (fun s p => if s.mgmt.perst.testBit p then
      s.put (.HP_LINK p) F.HP_LINK_PERST 1 else s) t) ((List.range 8).map Reg.HP_LINK) := by
    induction l generalizing t with
    | nil => exact ⟨rfl, fun _ _ => rfl⟩
    | cons p l ih =>
      obtain ⟨hp, hl⟩ := List.cons_subset.mp hl
      obtain ⟨h1, h2⟩ := ih hl (if t.mgmt.perst.testBit p then t.put (.HP_LINK p) F.HP_LINK_PERST 1 else t)
      refine ⟨regsOnly.trans ?_ h1, regsBut.trans ?_ h2⟩
      · split
        · exact regsOnly_put ..
        · exact regsOnly_refl _
      · split
        · exact regsBut.mono (regsBut_put _ _ _ _) (by simpa using List.mem_range.mp hp)
        · exact fun _ _ => rfl
  exact key _ (List.Subset.refl _) u

theorem resetUnits_eq (s : State) : resetUnits s = showPerst (clearedUnits s) := rfl

theorem regsOnly_resetUnits (s : State) : regsOnly (clearedUnits s) (resetUnits s) := (showPerst_spec _).1

theorem regsBut_resetUnits (s : State) : regsBut State.reset (resetUnits s) ((List.range 8).map Reg.HP_LINK) := (showPerst_spec _).2

theorem mgmt_resetUnits (s : State) : (resetUnits s).mgmt = (clearedUnits s).mgmt :=
  (congrArg State.mgmt (show _ = _ from regsOnly_resetUnits s)).trans rfl

theorem mtime_resetUnits (s : State) : (resetUnits s).mtime = 0 := by
  have h : (resetUnits s).cycle = 0 := (congrArg State.cycle (show _ = _ from regsOnly_resetUnits s)).trans rfl
  rw [State.mtime, h]

theorem tally_resetUnits (s : State) (n : Fin 8192) : (resetUnits s).tally n = 0 := by
  have h : (resetUnits s).rd (.TIC_TALLY (n / 8)) = State.reset.rd (.TIC_TALLY (n / 8)) := regsBut_resetUnits s _ fun q hq => by
    obtain ⟨p, hp, rfl⟩ := List.mem_map.mp hq
    rw [key_ticTally, key_hpLink]
    have := List.mem_range.mp hp
    omega
  rw [State.tally, State.get, h, ← State.get]
  exact get_reset rfl _

theorem arc_resetUnits (s : State) : (resetUnits s).arc = resetArc s.arc :=
  (congrArg State.arc (show _ = _ from regsOnly_resetUnits s)).trans rfl

/-- The units after a reset with the pins and the test-access port as given. -/
theorem resetUnits_units (s : State) (m : Mgmt) (x : Tap) : { resetUnits s with tap := x, mgmt := m } =
    { State.reset with
      regs := (resetUnits s).regs, arc := (resetUnits s).arc, mgmt := m, tap := x, free := s.free, out := s.out, pending := s.pending } := by
  have h := regsOnly_resetUnits s
  rw [regsOnly] at h
  rw [h]
  rfl

theorem packageReset_spec (s : State) : exec .packageReset s = .next { resetUnits s with
    tap := if s.mgmt.stby then (resetUnits s).tap else Tap.init
    mgmt := { (resetUnits s).mgmt with low := true, main := true, clock := true, stby := true } } := by
  show execPackageReset s = _
  unfold execPackageReset
  dsimp only
  cases s.mgmt.stby <;> rfl

theorem mainPwrokLoss_spec (h : s.mgmt.inReset = false) : exec .mainPwrokLoss s =
    .next { resetUnits s with mgmt := { (resetUnits s).mgmt with main := false, low := false } } := by
  show execMainPwrokLoss s = _
  unfold execMainPwrokLoss
  dsimp only
  rw [h]
  rfl

theorem refclkLost_spec (h : s.mgmt.inReset = false) : exec .refclkLost s =
    .next { resetUnits s with mgmt := { (resetUnits s).mgmt with clock := false, low := false } } := by
  show execRefclkLost s = _
  unfold execRefclkLost
  dsimp only
  rw [h]
  rfl

end Reset

theorem resetPackage : Claim.ResetPackage := by
  refine ⟨fun s => ⟨_, packageReset_spec s, regsBut_resetUnits s, mtime_resetUnits s, tally_resetUnits s, arc_resetUnits s, ?_, ?_, ?_, ?_, ?_, rfl,
      resetUnits_units s _ _⟩,
    fun s h => ⟨_, mainPwrokLoss_spec h, rfl, ?_, tally_resetUnits s, mtime_resetUnits s⟩,
    fun s h => ⟨_, refclkLost_spec h, rfl, ?_, tally_resetUnits s, mtime_resetUnits s⟩, fun _ => rfl⟩
  · rw [arc_resetUnits]; rfl
  · rw [arc_resetUnits]; rfl
  · rw [arc_resetUnits]; rfl
  · rw [arc_resetUnits]; rfl
  · rw [mgmt_resetUnits]; rfl
  · rw [mgmt_resetUnits]; rfl
  · rw [mgmt_resetUnits]; rfl

/-! ### The release (R468, R471) -/

/-- FOL_STATE goes to another state, with the interrupt of the management port. -/
theorem setFolState_ne {s : State} {n : Nat} (h : s.get .FOL_STATE F.FOL_STATE_STATE ≠ n) :
    setFolState s n = (s.put .FOL_STATE F.FOL_STATE_STATE n).emit (.ibi 1) := if_neg h

/-- The state of a package whose reset is released. -/
def released (s : State) (straps : BitVec 4) : State :=
  { s with cycle := 0, mgmt := { s.mgmt with inReset := false, low := false, straps := straps, since := 0 } }.wr .ARC_STRAPS (straps.setWidth 64)

theorem packageResetRelease_spec {straps : BitVec 4} {s : State} (h1 : s.mgmt.inReset = true) (h2 : s.mgmt.low = true)
    (h3 : s.mgmt.main = true) (h4 : s.mgmt.clock = true) (h5 : s.mgmt.stby = true) (hf : s.get .FOL_STATE F.FOL_STATE_STATE = 0) :
    exec (.packageResetRelease straps) s =
      .next (bootNext (((released s straps).put .FOL_STATE F.FOL_STATE_STATE 1).emit (.ibi 1)) 1) := by
  have hg : (released s straps).get .FOL_STATE F.FOL_STATE_STATE ≠ 1 := by
    rw [released, State.get_wr_ne (by decide)]
    exact fun h => absurd (hf.symm.trans h) (by decide)
  rw [← setFolState_ne hg]
  exact if_pos ⟨h1, h2, h3, h4, h5⟩

theorem resetRelease : Claim.ResetRelease := by
  refine ⟨fun straps s h1 h2 h3 h4 h5 hf => ⟨_, packageResetRelease_spec h1 h2 h3 h4 h5 hf, ?_, ?_, ?_, rfl⟩, fun straps s h => if_neg ?_⟩
  · exact State.get_put_self (by decide) (by decide) (released s straps) ..
  · refine (State.rd_put_ne (by decide) (released s straps) ..).trans ?_
    exact State.rd_wr_self ..
  · exact regsBut.trans (regsBut.mono (regsBut_wr _ _ _) (by simp)) (regsBut.mono (regsBut_put (released s straps) _ _ _) (by simp))
  · rintro ⟨h1, h2, h3, h4, h5⟩
    obtain h | h | h | h | h := h
    · exact absurd (h.symm.trans h1) (by decide)
    · exact absurd (h.symm.trans h2) (by decide)
    · exact absurd (h.symm.trans h3) (by decide)
    · exact absurd (h.symm.trans h4) (by decide)
    · exact absurd (h.symm.trans h5) (by decide)

/-- Settles O3, since a reset leaves every unit as `State.reset` has it but for what the pins, the flash and the fuses hold. -/
theorem packageReset : Obligations.PackageReset := ⟨resetPackage, resetRelease⟩

end Sys2Proof.Machine
end

section
/-! SUPPORT. The firmware and the folio slots at boot (O4) -/

namespace Sys2Proof.Machine

/-! ### The firmware slots (R392, R472) -/

section Firmware
variable {s : State}

/-- The flash as the ROM leaves it. -/
def openMgmt (m : Mgmt) : Mgmt := { m with afReset := false, afMode := .octal }

/-- What the ROM's first accesses of the flash are. -/
def flashModes (s : State) : List Outward :=
  if s.mgmt.straps.getLsbD 2 then [.flash true 200] else [.flash false 25, .flash true 200]

theorem openFlash_eq (s : State) : openFlash s = { s with mgmt := openMgmt s.mgmt, out := s.out ++ flashModes s } := by
  unfold openFlash flashModes
  dsimp only
  split
  · rfl
  · simp [State.emit, openMgmt]

theorem firmwareBad_openFlash (s : State) (im : List Byte) : firmwareBad (openFlash s) im = firmwareBad s im := by
  rw [openFlash_eq]
  rfl

theorem flashSlot_openFlash (s : State) (k : Nat) : flashSlot (openFlash s) k = flashSlot s k := by
  rw [openFlash_eq]
  rfl

/-- The codes of the two firmware slots, and the word of ARC_BOOT with them. -/
def fwCode (s : State) (k : Nat) : Nat := codeOf (firmwareBad s (flashSlot s k))

def fwWord (s : State) : Word := F.ARC_BOOT_FW_B_CODE.put (F.ARC_BOOT_FW_A_CODE.put (s.rd .ARC_BOOT) (fwCode s 0)) (fwCode s 1)

/-- Whether slot B runs. -/
def fwSecond (s : State) : Bool :=
  decide (fwCode s 0 ≠ 0) || (decide (fwCode s 1 = 0) && decide (imVersion (flashSlot s 0) < imVersion (flashSlot s 1)))

/-- The state in which both firmware slots have been checked. -/
def fwChecked (s : State) : State :=
  (((openFlash s).put .ARC_BOOT F.ARC_BOOT_FW_A_CODE (fwCode s 0)).put .ARC_BOOT F.ARC_BOOT_FW_B_CODE (fwCode s 1)).put .ARC_STATUS
    F.ARC_STATUS_ROOT_REVOKED s.arc.rootRevoke

/-- The VERSION of the image that runs. -/
def fwVersion (s : State) : Nat := imVersion (if fwSecond s then flashSlot s 1 else flashSlot s 0)

/-- The state in which a firmware image runs. -/
def fwRuns (s : State) : State :=
  (((fwChecked s).put .ARC_STATUS F.ARC_STATUS_STAGE 2).put .ARC_STATUS F.ARC_STATUS_FW_SLOT (if fwSecond s then 1 else 0)).put .ARC_STATUS
    F.ARC_STATUS_FW_VERSION (fwVersion s % 2 ^ 32)

theorem bootFirmwareCheck_spec (h : s.arc.phase = 1) : exec .bootFirmwareCheck s =
    if fwCode s 0 ≠ 0 ∧ fwCode s 1 ≠ 0 then .next (bootNext ((fwChecked s).put .ARC_STATUS F.ARC_STATUS_STAGE 1) 0)
    else .next { fwRuns s with arc := { (fwRuns s).arc with version := BitVec.ofNat 64 (fwVersion s), phase := 2 } } := by
  refine (if_neg (not_not.mpr h)).trans ?_
  dsimp only
  simp only [flashSlot_openFlash, firmwareBad_openFlash]
  have ha (r : Reg) (f : Fld) (n m : Nat) (q : Reg) (g : Fld) : (((openFlash s).put r f n).put q g m).arc = s.arc := by
    rw [openFlash_eq]
    rfl
  rw [ha]
  rfl

/-- Where not both slots fail, slot B runs when it passes and slot A fails or is older. -/
theorem fwSecond_iff (h : ¬ (fwCode s 0 ≠ 0 ∧ fwCode s 1 ≠ 0)) : fwSecond s = true ↔
    fwCode s 1 = 0 ∧ (fwCode s 0 ≠ 0 ∨ imVersion (flashSlot s 0) < imVersion (flashSlot s 1)) := by
  simp only [fwSecond, Bool.or_eq_true, Bool.and_eq_true, decide_eq_true_eq]
  tauto

theorem fwChecked_boot : (fwChecked s).rd .ARC_BOOT = fwWord s := by
  rw [fwChecked, State.rd_put_ne (by decide), State.rd_put_self, State.rd_put_self, openFlash_eq]
  rfl

theorem regsBut_fwChecked : regsBut s (fwChecked s) [.ARC_BOOT, .ARC_STATUS] := by
  have h : regsBut s (openFlash s) [.ARC_BOOT, .ARC_STATUS] := regsBut_of_regs (by rw [openFlash_eq]) _
  exact regsBut.trans (regsBut.trans (regsBut.trans h (regsBut.mono (regsBut_put _ _ _ _) (by simp)))
    (regsBut.mono (regsBut_put _ _ _ _) (by simp))) (regsBut.mono (regsBut_put _ _ _ _) (by simp))

theorem regsOnly_fwChecked : regsOnly (openFlash s) (fwChecked s) := ((regsOnly_put ..).trans (regsOnly_put ..)).trans (regsOnly_put ..)

/-- A state that differs from the one with the flash opened in registers and in the Archivist alone. -/
theorem opened_eq {u : State} (h : regsOnly (openFlash s) u) (a : Arc) : { u with arc := a } =
    { s with regs := u.regs, mgmt := openMgmt s.mgmt, out := s.out ++ flashModes s, arc := a } := by
  rw [regsOnly, openFlash_eq] at h
  rw [h]

theorem regsOnly_fwRuns : regsOnly (openFlash s) (fwRuns s) :=
  ((regsOnly_fwChecked.trans (regsOnly_put ..)).trans (regsOnly_put ..)).trans (regsOnly_put ..)

theorem regsBut_status (u : State) (f : Fld) (n : Nat) : regsBut u (u.put .ARC_STATUS f n) [.ARC_BOOT, .ARC_STATUS] :=
  regsBut.mono (regsBut_put _ _ _ _) (by simp)

theorem regsBut_fwRuns : regsBut s (fwRuns s) [.ARC_BOOT, .ARC_STATUS] :=
  regsBut.trans (regsBut.trans (regsBut.trans regsBut_fwChecked (regsBut_status _ _ _)) (regsBut_status _ _ _)) (regsBut_status _ _ _)

theorem fwRuns_boot : (fwRuns s).rd .ARC_BOOT = fwWord s := by
  rw [fwRuns, State.rd_put_ne (by decide), State.rd_put_ne (by decide), State.rd_put_ne (by decide), fwChecked_boot]

theorem fwRuns_status : (fwRuns s).get .ARC_STATUS F.ARC_STATUS_STAGE = 2 ∧
    (fwRuns s).get .ARC_STATUS F.ARC_STATUS_FW_SLOT = (if fwSecond s then 1 else 0) ∧
    (fwRuns s).get .ARC_STATUS F.ARC_STATUS_FW_VERSION = fwVersion s % 2 ^ 32 := by
  refine ⟨?_, ?_, ?_⟩
  · rw [fwRuns, State.get_put_apart (by decide) (by decide) (by decide), State.get_put_apart (by decide) (by decide) (by decide),
      State.get_put_self (by decide) (by decide)]
    rfl
  · rw [fwRuns, State.get_put_apart (by decide) (by decide) (by decide), State.get_put_self (by decide) (by decide)]
    cases fwSecond s <;> rfl
  · rw [fwRuns, State.get_put_self (by decide) (by decide)]
    exact Nat.mod_mod _ _

/-- Neither slot passes: ROM_RECOVERY. -/
theorem bootFirmwareCheck_recovery (h : s.arc.phase = 1) (hb : fwCode s 0 ≠ 0 ∧ fwCode s 1 ≠ 0) :
    ∃ t, exec .bootFirmwareCheck s = .next t ∧ t.rd .ARC_BOOT = fwWord s ∧ regsBut s t [.ARC_BOOT, .ARC_STATUS] ∧
      t.mgmt = openMgmt s.mgmt ∧ t.out = s.out ++ flashModes s ∧ t.get .ARC_STATUS F.ARC_STATUS_STAGE = 1 ∧
      t = { s with regs := t.regs, mgmt := t.mgmt, out := t.out, arc := { s.arc with phase := 0 } } := by
  have hx := (bootFirmwareCheck_spec h).trans (if_pos hb)
  have hu : regsOnly (openFlash s) ((fwChecked s).put .ARC_STATUS F.ARC_STATUS_STAGE 1) := regsOnly_fwChecked.trans (regsOnly_put ..)
  have hr : regsBut s ((fwChecked s).put .ARC_STATUS F.ARC_STATUS_STAGE 1) [.ARC_BOOT, .ARC_STATUS] :=
    regsBut.trans regsBut_fwChecked (regsBut_status _ _ _)
  have hw : ((fwChecked s).put .ARC_STATUS F.ARC_STATUS_STAGE 1).rd .ARC_BOOT = fwWord s := by rw [State.rd_put_ne (by decide), fwChecked_boot]
  have hst : ((fwChecked s).put .ARC_STATUS F.ARC_STATUS_STAGE 1).get .ARC_STATUS F.ARC_STATUS_STAGE = 1 := by
    rw [State.get_put_self (by decide) (by decide)]
    rfl
  generalize (fwChecked s).put .ARC_STATUS F.ARC_STATUS_STAGE 1 = u at *
  have harc : u.arc = s.arc := (congrArg State.arc (show _ = _ from hu)).trans (by rw [openFlash_eq])
  have hn : bootNext u 0 = { s with regs := u.regs, mgmt := openMgmt s.mgmt, out := s.out ++ flashModes s, arc := { s.arc with phase := 0 } } := by
    rw [bootNext, opened_eq hu, harc]
  exact ⟨_, hx, hw, hr, by rw [hn], by rw [hn], hst, by rw [hn]⟩

/-- A slot passes: its image runs. -/
theorem bootFirmwareCheck_runs (h : s.arc.phase = 1) (hb : ¬ (fwCode s 0 ≠ 0 ∧ fwCode s 1 ≠ 0)) :
    ∃ t, exec .bootFirmwareCheck s = .next t ∧ t.rd .ARC_BOOT = fwWord s ∧ regsBut s t [.ARC_BOOT, .ARC_STATUS] ∧
      t.mgmt = openMgmt s.mgmt ∧ t.out = s.out ++ flashModes s ∧ t.get .ARC_STATUS F.ARC_STATUS_STAGE = 2 ∧
      t.get .ARC_STATUS F.ARC_STATUS_FW_SLOT = (if fwSecond s then 1 else 0) ∧
      t.get .ARC_STATUS F.ARC_STATUS_FW_VERSION = fwVersion s % 2 ^ 32 ∧
      t = { s with regs := t.regs, mgmt := t.mgmt, out := t.out, arc := { s.arc with version := BitVec.ofNat 64 (fwVersion s), phase := 2 } } := by
  have hx := (bootFirmwareCheck_spec h).trans (if_neg hb)
  have hu := regsOnly_fwRuns (s := s)
  have hr := regsBut_fwRuns (s := s)
  have hw := fwRuns_boot (s := s)
  obtain ⟨h1, h2, h3⟩ := fwRuns_status (s := s)
  generalize fwRuns s = u at *
  have harc : u.arc = s.arc := (congrArg State.arc (show _ = _ from hu)).trans (by rw [openFlash_eq])
  have hn : { u with arc := { u.arc with version := BitVec.ofNat 64 (fwVersion s), phase := 2 } } = { s with
      regs := u.regs, mgmt := openMgmt s.mgmt, out := s.out ++ flashModes s,
      arc := { s.arc with version := BitVec.ofNat 64 (fwVersion s), phase := 2 } } := by
    rw [opened_eq hu, harc]
  exact ⟨_, hx, hw, hr, by rw [hn], by rw [hn], h1, h2, h3, by rw [hn]⟩

end Firmware

theorem bootFirmware : Claim.BootFirmware := by
  intro s h a b words second v
  by_cases hb : fwCode s 0 ≠ 0 ∧ fwCode s 1 ≠ 0
  · obtain ⟨t, hx, hw, hr, hm, ho, hst, ht⟩ := bootFirmwareCheck_recovery h hb
    refine ⟨t, hx, hw, hr, hm, ho, ?_⟩
    rw [if_pos (show codeOf a ≠ 0 ∧ codeOf b ≠ 0 from hb)]
    exact ⟨hst, ht⟩
  · obtain ⟨t, hx, hw, hr, hm, ho, hst, hsl, hv, ht⟩ := bootFirmwareCheck_runs h hb
    have hs : fwSecond s = true ↔ second := fwSecond_iff hb
    have hv' : fwVersion s = v := by
      show imVersion _ = imVersion (flashSlot s (if second then 1 else 0))
      by_cases hq : second
      · rw [if_pos hq, if_pos (hs.mpr hq)]
      · rw [if_neg hq, if_neg (mt hs.mp hq)]
    refine ⟨t, hx, hw, hr, hm, ho, ?_⟩
    rw [if_neg (show ¬ (codeOf a ≠ 0 ∧ codeOf b ≠ 0) from hb)]
    exact ⟨hst, hsl.trans (if_congr hs rfl rfl), hv' ▸ hv, hv' ▸ ht⟩

/-! ### The folio slots (R74, R75) -/

section FolioSlots
variable {s : State}

/-- FOL_STATUS holds a failure's code, leaf and offset. -/
theorem setFolStatus_fields (u : State) (b : Bad) :
    (setFolStatus u b).get .FOL_STATUS F.FOL_STATUS_CODE = b.code % 2 ^ 16 ∧ (setFolStatus u b).get .FOL_STATUS F.FOL_STATUS_LEAF = b.leaf % 2 ^ 8 ∧
    (setFolStatus u b).get .FOL_STATUS F.FOL_STATUS_OFFSET = b.off % 2 ^ 32 := by
  simp only [setFolStatus, State.get_wr_self, Fld.get, BitVec.toNat_ofNat, Nat.shiftRight_eq_div_pow]
  refine ⟨?_, ?_, ?_⟩ <;> omega

theorem get_setFolState (u : State) {n : Nat} (hn : n < 8) : (setFolState u n).get .FOL_STATE F.FOL_STATE_STATE = n := by
  unfold setFolState
  split
  · assumption
  · refine (State.get_put_self (by decide) (by decide) u ..).trans (Nat.mod_eq_of_lt hn)

theorem get_setFolState_apart (u : State) (n : Nat) {g : Fld} (hg : g.lo ≤ g.hi) (hd : 2 < g.lo) :
    (setFolState u n).get .FOL_STATE g = u.get .FOL_STATE g := by
  unfold setFolState
  split
  · rfl
  · exact State.get_put_apart (by decide) hg (.inr hd) u ..

theorem regsBut_setFolState (u : State) (n : Nat) : regsBut u (setFolState u n) [.FOL_STATE] := by
  unfold setFolState
  split
  · exact fun _ _ => rfl
  · exact regsBut_put u _ _ _

/-- A state that differs in registers, in the outputs and in the Archivist. -/
def bootOnly (s t : State) : Prop := t = { s with regs := t.regs, arc := t.arc, out := t.out }

theorem bootOnly.trans {s t u : State} (h : bootOnly s t) (h' : bootOnly t u) : bootOnly s u := by
  rw [bootOnly, h', h]

theorem bootOnly_put (u : State) (r : Reg) (f : Fld) (n : Nat) : bootOnly u (u.put r f n) := rfl

theorem bootOnly_setFolStatus (u : State) (b : Bad) : bootOnly u (setFolStatus u b) := rfl

theorem bootOnly_setFolState (u : State) (n : Nat) : bootOnly u (setFolState u n) := by
  unfold setFolState
  split <;> rfl

theorem bootOnly_arc (u : State) (a : Arc) : bootOnly u { u with arc := a } := rfl

theorem arc_setFolState (u : State) (n : Nat) : (setFolState u n).arc = u.arc := by
  unfold setFolState
  split <;> rfl

/-- Neither folio slot passes. -/
theorem bootFolioVerify_inert (h : s.arc.phase = 2) {x y : Bad} (ha : imageBad s (flashSlot s 2) false 0x400000 = some x)
    (hb : imageBad s (flashSlot s 3) false 0x400000 = some y) :
    exec .bootFolioVerify s = .next (inert (s.put .FOL_STATE F.FOL_STATE_ALT_CODE y.code) x) := by
  refine (if_neg (not_not.mpr h)).trans ?_
  dsimp only
  rw [ha, hb]

/-- Whether slot B is selected. -/
def folSecond (s : State) : Bool :=
  (imageBad s (flashSlot s 2) false 0x400000).isSome || ((imageBad s (flashSlot s 3) false 0x400000).isNone &&
    decide (imLe (flashSlot s 2) 0x18 8 < imLe (flashSlot s 3) 0x18 8))

/-- The registers of a folio slot that is selected. -/
def folSelected (s : State) : State :=
  setFolState (setFolStatus ((s.put .FOL_STATE F.FOL_STATE_SLOT (if folSecond s then 1 else 0)).put .FOL_STATE F.FOL_STATE_ALT_CODE
    (codeOf (if folSecond s then imageBad s (flashSlot s 2) false 0x400000 else imageBad s (flashSlot s 3) false 0x400000))) accepted) 2

theorem bootFolioVerify_selects (h : s.arc.phase = 2)
    (hb : ¬ (imageBad s (flashSlot s 2) false 0x400000 ≠ none ∧ imageBad s (flashSlot s 3) false 0x400000 ≠ none)) :
    exec .bootFolioVerify s = .next { folSelected s with arc := { (folSelected s).arc with
      digest1 := imageDigest (if folSecond s then flashSlot s 3 else flashSlot s 2), phase := 3 } } := by
  refine (if_neg (not_not.mpr h)).trans ?_
  unfold folSelected folSecond
  dsimp only
  cases ha : imageBad s (flashSlot s 2) false 0x400000 with
  | none => rfl
  | some x =>
    cases hc : imageBad s (flashSlot s 3) false 0x400000 with
    | none => rfl
    | some y => exact absurd ⟨by rw [ha]; exact Option.some_ne_none x, by rw [hc]; exact Option.some_ne_none y⟩ hb

theorem folSecond_iff (hb : ¬ (imageBad s (flashSlot s 2) false 0x400000 ≠ none ∧ imageBad s (flashSlot s 3) false 0x400000 ≠ none)) :
    folSecond s = true ↔ imageBad s (flashSlot s 3) false 0x400000 = none ∧ (imageBad s (flashSlot s 2) false 0x400000 ≠ none ∨
      imLe (flashSlot s 2) 0x18 8 < imLe (flashSlot s 3) 0x18 8) := by
  simp only [folSecond, Bool.or_eq_true, Bool.and_eq_true, decide_eq_true_eq, Option.isSome_iff_ne_none, Option.isNone_iff_eq_none]
  tauto

theorem folSelected_fields : (folSelected s).get .FOL_STATE F.FOL_STATE_STATE = 2 ∧
    (folSelected s).get .FOL_STATE F.FOL_STATE_SLOT = (if folSecond s then 1 else 0) ∧
    (folSelected s).get .FOL_STATE F.FOL_STATE_ALT_CODE =
      codeOf (if folSecond s then imageBad s (flashSlot s 2) false 0x400000 else imageBad s (flashSlot s 3) false 0x400000) % 2 ^ 16 ∧
    (folSelected s).rd .FOL_STATUS = 0 := by
  refine ⟨get_setFolState _ (by decide), ?_, ?_, ?_⟩
  · rw [folSelected, get_setFolState_apart _ _ (by decide) (by decide), setFolStatus, State.get_wr_ne (by decide),
      State.get_put_apart (by decide) (by decide) (by decide), State.get_put_self (by decide) (by decide)]
    cases folSecond s <;> rfl
  · rw [folSelected, get_setFolState_apart _ _ (by decide) (by decide), setFolStatus, State.get_wr_ne (by decide),
      State.get_put_self (by decide) (by decide)]
    rfl
  · rw [folSelected, regsBut_setFolState _ _ _ (by simp [Reg.key]), setFolStatus, State.rd_wr_self]
    rfl

theorem regsBut_folSelected : regsBut s (folSelected s) [.FOL_STATE, .FOL_STATUS] :=
  regsBut.trans (regsBut.trans (regsBut.trans (regsBut.mono (regsBut_put s _ _ _) (by simp)) (regsBut.mono (regsBut_put _ _ _ _) (by simp)))
    (regsBut.mono (regsBut_wr _ _ _) (by simp))) (regsBut.mono (regsBut_setFolState _ _) (by simp))

theorem bootOnly_folSelected : bootOnly s (folSelected s) :=
  (((bootOnly_put ..).trans (bootOnly_put ..)).trans (bootOnly_setFolStatus ..)).trans (bootOnly_setFolState ..)

theorem arc_folSelected : (folSelected s).arc = s.arc := arc_setFolState ..

end FolioSlots

theorem bootFolio : Claim.BootFolio := by
  intro s h ba bb second
  by_cases hb : ba ≠ none ∧ bb ≠ none
  · obtain ⟨x, hx⟩ := Option.ne_none_iff_exists'.mp hb.1
    obtain ⟨y, hy⟩ := Option.ne_none_iff_exists'.mp hb.2
    have hexec := bootFolioVerify_inert h hx hy
    obtain ⟨f1, f2, f3⟩ := setFolStatus_fields (s.put .FOL_STATE F.FOL_STATE_ALT_CODE y.code) x
    have hst (f : Fld) : (setFolState (setFolStatus (s.put .FOL_STATE F.FOL_STATE_ALT_CODE y.code) x) 6).get .FOL_STATUS f =
        (setFolStatus (s.put .FOL_STATE F.FOL_STATE_ALT_CODE y.code) x).get .FOL_STATUS f :=
      congrArg f.get (regsBut_setFolState _ _ _ (by simp [Reg.key]))
    refine ⟨_, hexec, ?_, ?_, ?_⟩
    · exact regsBut.trans (regsBut.trans (regsBut.mono (regsBut_put s _ _ _) (by simp)) (regsBut.mono (regsBut_wr _ _ _) (by simp)))
        (regsBut.mono (regsBut_setFolState _ _) (by simp))
    · exact (((bootOnly_put s ..).trans (bootOnly_setFolStatus ..)).trans (bootOnly_setFolState ..)).trans (bootOnly_arc ..)
    · rw [if_pos hb]
      refine ⟨get_setFolState _ (by decide), ?_, ?_, ?_, ?_, ?_⟩
      · refine (get_setFolState_apart _ _ (by decide) (by decide)).trans ?_
        rw [setFolStatus, State.get_wr_ne (by decide), State.get_put_self (by decide) (by decide), hy]
        rfl
      · rw [hx]; exact (hst _).trans f1
      · rw [hx]; exact (hst _).trans f2
      · rw [hx]; exact (hst _).trans f3
      · exact congrArg (fun a : Arc => { a with phase := 0 }) (arc_setFolState ..)
  · obtain ⟨f1, f2, f3, f4⟩ := folSelected_fields (s := s)
    have hs : folSecond s = true ↔ second := folSecond_iff hb
    refine ⟨_, bootFolioVerify_selects h hb, regsBut_folSelected, bootOnly_folSelected.trans (bootOnly_arc ..), ?_⟩
    rw [if_neg hb]
    refine ⟨f1, f2.trans (if_congr hs rfl rfl), f3.trans ?_, f4, ?_⟩
    · rw [if_congr hs rfl rfl]
    · refine (congrArg (fun x : Arc => { x with
        digest1 := imageDigest (if folSecond s then flashSlot s 3 else flashSlot s 2), phase := 3 }) arc_folSelected).trans ?_
      dsimp only
      by_cases hq : second
      · rw [if_pos hq, if_pos (hs.mpr hq)]
      · rw [if_neg hq, if_neg (mt hs.mp hq)]

/-- Settles O4, by the four outcomes of the two checks: recovery or an image that runs, INERT or a folio that is selected. -/
theorem bootStart : Obligations.BootStart := ⟨bootFirmware, bootFolio⟩

end Sys2Proof.Machine
end

section
/-! SUPPORT. The later steps of boot, and addenda (O5) -/

namespace Sys2Proof.Machine

/-! ### The folio as the later phases load it (R76 phase 5) -/

section FolioKept

/-- The folio in force. -/
def State.inForce (s : State) : Folio := s.folio

@[simp] theorem inForce_mk (c fr rg fo lk po sl di co ch pt fn q le dr io ob fl ar mg tp pw ht ev ou pe) :
    State.inForce (State.mk c fr rg fo lk po sl di co ch pt fn q le dr io ob fl ar mg tp pw ht ev ou pe) = fo := rfl

@[simp] theorem inForce_overAll {α : Type} (l : List α) (f : State → α → State) (s : State) (h : ∀ s a, (f s a).inForce = s.inForce) :
    (overAll l f s).inForce = s.inForce := overAll_keeps_mem (g := State.inForce) (fun s a _ => h s a) s

@[simp] theorem inForce_ite (c : Prop) [Decidable c] (s t : State) : (if c then s else t).inForce = if c then s.inForce else t.inForce :=
  apply_ite ..

@[simp] theorem inForce_wr (s : State) (r : Reg) (w : Word) : (s.wr r w).inForce = s.inForce := by simp [State.wr, State.inForce]

@[simp] theorem inForce_put (s : State) (r : Reg) (f : Fld) (n : Nat) : (s.put r f n).inForce = s.inForce := by simp [State.put]

@[simp] theorem inForce_setDie (s : State) (d : Nat) (k : Die) : (s.setDie d k).inForce = s.inForce := by simp [State.setDie, State.inForce]

@[simp] theorem inForce_setFn (s : State) (f : FnId) (x : Fn) : (s.setFn f x).inForce = s.inForce := by simp [State.setFn, State.inForce]

@[simp] theorem inForce_loadDeal (s : State) (f : Folio) (p : Nat) : (loadDeal s f p).inForce = s.inForce := by simp [loadDeal]

@[simp] theorem inForce_applyHome (s : State) (h : HomeLeaf) : (applyHome s h).inForce = s.inForce := by simp [applyHome]

@[simp] theorem inForce_applyRanks (s : State) (n spare : Nat) : (applyRanks s n spare).inForce = s.inForce := by simp [applyRanks]

@[simp] theorem inForce_applyChan (l : ChanLeaf) (s : State) (e : ChanRec × Nat) : (applyChan l s e).inForce = s.inForce := by simp [applyChan]

@[simp] theorem inForce_setWatermark (s : State) (wm : Nat) : (setWatermark s wm).inForce = s.inForce := by simp [setWatermark]

@[simp] theorem inForce_applyPort (s : State) (e : PortRec × Nat) : (applyPort s e).inForce = s.inForce := by simp [applyPort]

@[simp] theorem inForce_applySource (s : State) (r : TallyRec) : (applySource s r).inForce = s.inForce := by simp [applySource]

@[simp] theorem inForce_applyCounter (s : State) (r : CounterRec) : (applyCounter s r).inForce = s.inForce := by simp [applyCounter]

@[simp] theorem inForce_setMember (s : State) (h c : Nat) (b : Bool) : (setMember s h c b).inForce = s.inForce := by simp [setMember, setHandCount]

@[simp] theorem inForce_setWaymap (s : State) (d : Nat) : (setWaymap s d).inForce = s.inForce := by simp [setWaymap]

@[simp] theorem inForce_applyDie (s : State) (f : Folio) (d : Nat) : (applyDie s f d).inForce = s.inForce := by simp [applyDie]

@[simp] theorem inForce_placeDie (f : Folio) (s : State) (d : Nat) : (placeDie f s d).inForce = s.inForce := by
  simp [placeDie, setDieState, State.setCoreState]

@[simp] theorem inForce_fillBuckets (s : State) (f : FnId) : (fillBuckets s f).inForce = s.inForce := by simp [fillBuckets]

@[simp] theorem inForce_retarget (s : State) : (retarget s).inForce = s.inForce :=
  (congrArg State.folio (powerStep_retarget s).same).trans rfl

theorem inForce_applyFolio (s : State) (f : Folio) (im : List Byte) : (applyFolio s f im).inForce = f := by simp [applyFolio]

end FolioKept

theorem regsBut_bootDimm (s : State) : regsBut s (bootNext (setFolState s 3) 6) [.FOL_STATE] := regsBut_setFolState s 3

/-! ### The steps one by one (R76, R77, R439) -/

section Steps
variable {s : State}

theorem bootRevsetCheck_spec (h : s.arc.phase = 4) :
    match diesBad { s with arc := { s.arc with trained := upDies s } } (readFolio (slotFolio s) false) with
    | none => exec .bootRevsetCheck s = .next { s with arc := { s.arc with trained := upDies s, phase := 5 } }
    | some b => exec .bootRevsetCheck s = .next (inert { s with arc := { s.arc with trained := upDies s } } b) := by
  have hx : exec .bootRevsetCheck s = execBootRevsetCheck s := rfl
  rw [hx]
  unfold execBootRevsetCheck
  rw [if_neg (not_not.mpr h)]
  dsimp only
  have hf : slotFolio { s with arc := { s.arc with trained := upDies s } } = slotFolio s := rfl
  rw [hf]
  cases diesBad { s with arc := { s.arc with trained := upDies s } } (readFolio (slotFolio s) false) <;> rfl

/-- The checks of a folio that is to be applied. -/
def applyBad (s : State) : Option Bad :=
  firstBad [foliosBad s (readFolio (slotFolio s) false) (slotFolio s) (readFolio (slotFolio s) false) false (fun _ => none),
    badIf (imageDigest (slotFolio s) ≠ s.arc.digest1) 0x411 0 0]

theorem bootApply_inert (h : s.arc.phase = 6) {b : Bad} (hb : applyBad s = some b) : exec .bootApply s = .next (inert s b) := by
  have hx : exec .bootApply s = execBootApply s := rfl
  rw [hx]
  unfold execBootApply
  rw [if_neg (not_not.mpr h)]
  dsimp only
  rw [← applyBad, hb]

theorem bootApply_loads (h : s.arc.phase = 6) (hb : applyBad s = none) : exec .bootApply s = .next (bootNext (setFolState
    (applyFolio s (readFolio (slotFolio s) false) (imBytes (slotFolio s) 0 (imLe (slotFolio s) 8 4))) 4) 7) := by
  have hx : exec .bootApply s = execBootApply s := rfl
  rw [hx]
  unfold execBootApply
  rw [if_neg (not_not.mpr h)]
  dsimp only
  rw [← applyBad, hb]

theorem inForce_setFolState (u : State) (n : Nat) : (setFolState u n).inForce = u.inForce := by
  unfold setFolState
  split <;> rfl

theorem bootApply_folio (h : s.arc.phase = 6) (hb : applyBad s = none) : ∃ t, exec .bootApply s = .next t ∧ t.arc.phase = 7 ∧
    t.get .FOL_STATE F.FOL_STATE_STATE = 4 ∧ t.folio = readFolio (slotFolio s) false := by
  have hx := bootApply_loads h hb
  have hf := inForce_applyFolio s (readFolio (slotFolio s) false) (imBytes (slotFolio s) 0 (imLe (slotFolio s) 8 4))
  generalize applyFolio s (readFolio (slotFolio s) false) (imBytes (slotFolio s) 0 (imLe (slotFolio s) 8 4)) = u at *
  exact ⟨_, hx, rfl, get_setFolState u (by decide), (inForce_setFolState u 4).trans hf⟩

theorem bootMeminit_spec (h : s.arc.phase = 7) : ∃ t, exec .bootMeminit s = .next t ∧ t.dram = [] ∧ t.arc.phase = 8 ∧
    t = { s with dram := [], arc := { s.arc with phase := 8 }, chans := t.chans } := by
  have hx : exec .bootMeminit s = .next (bootNext { overAll (enabledChans s) (fun s n => s.setChan n { s.chan n with blank := [] }) s with
    dram := [] } 8) := if_neg (not_not.mpr h)
  have hc : overAll (enabledChans s) (fun s n => s.setChan n { s.chan n with blank := [] }) s = { s with
      chans := (overAll (enabledChans s) (fun s n => s.setChan n { s.chan n with blank := [] }) s).chans } :=
    overAll_rel (R := fun s t : State => t = { s with chans := t.chans }) (fun _ => rfl) (fun h h' => by rw [h', h]) (fun _ _ => rfl) _ s
  generalize overAll (enabledChans s) (fun s n => s.setChan n { s.chan n with blank := [] }) s = u at *
  refine ⟨_, hx, rfl, rfl, ?_⟩
  rw [hc]
  rfl

theorem bootHouseImage_spec (h : s.arc.phase = 8) :
    match houseImage s with
    | (none, u) => exec .bootHouseImage s = .next (bootNext (u.put .ARC_BOOT F.ARC_BOOT_HS_CODE 0) 9)
    | (some b, u) => exec .bootHouseImage s = .next (inert (u.put .ARC_BOOT F.ARC_BOOT_HS_CODE b.code) b) := by
  have hx : exec .bootHouseImage s = execBootHouseImage s := rfl
  rw [hx]
  unfold execBootHouseImage
  rw [if_neg (not_not.mpr h)]
  rcases houseImage s with ⟨_ | b, u⟩ <;> rfl

theorem coresOf_setFolState (u : State) (n k : Nat) : (bootNext (setFolState u n) k).coresOf 0 = u.coresOf 0 := by
  have hr (i : Nat) : (setFolState u n).rd (.FAB_HAND_CORES 0 i) = u.rd (.FAB_HAND_CORES 0 i) := regsBut_setFolState u n _ (by
    intro q hq
    rw [List.mem_singleton.mp hq, key_fabHandCores, key_folState]
    omega)
  have hr' (i : Nat) : (bootNext (setFolState u n) k).rd (.FAB_HAND_CORES 0 i) = u.rd (.FAB_HAND_CORES 0 i) := hr i
  unfold State.coresOf State.inHand
  simp only [hr']

theorem bootRun_spec (h : s.arc.phase = 9) {c : Nat} (hc : (s.coresOf 0).head? = some c) :
    exec .bootRun s = .next (overAll (List.range 8) trainPort (startCore (bootNext (setFolState s 5) 10) c)) := by
  have hx : exec .bootRun s = execBootRun s := rfl
  rw [hx]
  unfold execBootRun
  rw [if_neg (not_not.mpr h)]
  dsimp only
  rw [coresOf_setFolState, hc]

theorem houseRestart_inert (h : s.get .FOL_STATE F.FOL_STATE_STATE = 6) : exec .houseRestart s = .next s := if_neg fun hn => hn.1 h

theorem houseRestart_spec {c : Nat} (h6 : s.get .FOL_STATE F.FOL_STATE_STATE ≠ 6) (hl : s.handLost 0 = true)
    (ha : (s.coresOf 0).all (fun c => s.coreState c == 1 || s.coreState c == 5 || s.coreState c == 0) = true) (hc : houseCore s = some c) :
    match houseImage (s.put (.FAB_HAND 0) F.FAB_HAND_STATE 1) with
    | (none, u) => exec .houseRestart s = .next
        (startCore ((u.put .ARC_BOOT F.ARC_BOOT_HS_CODE 0).put .FLT_STATUS F.FLT_STATUS_HOUSE_RESTART 1) c)
    | (some b, u) => exec .houseRestart s = .next (u.put .ARC_BOOT F.ARC_BOOT_HS_CODE b.code) := by
  have hx : exec .houseRestart s = execHouseRestart s := rfl
  rw [hx]
  unfold execHouseRestart
  rw [if_pos ⟨h6, hl, ha⟩, hc]
  dsimp only
  rcases houseImage (s.put (.FAB_HAND 0) F.FAB_HAND_STATE 1) with ⟨_ | b, u⟩ <;> rfl

end Steps

/-! ### Training of the DIMMs (R264, R266) -/

section Dimms
variable {s : State} {c : ChanTrain}

theorem bootDimmTraining_spec (chans : List ChanTrain) (h : s.arc.phase = 5) : exec (.bootDimmTraining chans) s =
    .next (bootNext (setFolState (overAll (chans.filter (fun t => (readFolio (slotFolio s) false).chanEnabled t.chan.val)) trainChan s) 3) 6) :=
  if_neg (not_not.mpr h)

theorem key_mcDimm (n k : Nat) : (Reg.MC_DIMM n k).key = 0xF00003000060 + n * 0x100000 + k * 8 := by simp only [Reg.key]; omega

/-- The records of a channel that has found one DIMM. -/
def oneDimm (s : State) (c : ChanTrain) (m : DimmInfo) : State :=
  ((s.wr (.MC_DIMM c.chan 0) (dimmWord m)).wr (.MC_DIMM c.chan 1) 0).wr (.MC_TIMING c.chan) (BitVec.ofNat 64 (3900 * 2 ^ 36 +
    c.trfcsb.toNat * 2 ^ 24 + c.cl.toNat * 2 ^ 16 + c.trcd.toNat * 2 ^ 8 + c.trp.toNat))

/-- MC_CFG of a channel that has found one DIMM. -/
def oneDimmCfg (u : State) (n : Nat) : State :=
  let v := u.put (.MC_CFG n) F.MC_CFG_RANKS (ranksOf u n)
  ((v.put (.MC_CFG n) F.MC_CFG_ROW_BITS (dimmRowBits (v.get (.MC_DIMM n 0) F.MC_DIMM_DENSITY) (v.get (.MC_DIMM n 0) F.MC_DIMM_WIDTH))).put
    (.MC_CFG n) F.MC_CFG_SPEED 0).put (.MC_CFG n) F.MC_CFG_DPC 1

theorem trainChan_of_one {m : DimmInfo} (hok : c.ok = true) (h0 : c.slot0 = some m) (h1 : c.slot1 = none) (hh : m.height.toNat ≤ 2) :
    trainChan s c = ((oneDimmCfg (oneDimm s c m) c.chan).setChan c.chan { (oneDimmCfg (oneDimm s c m) c.chan).chan c.chan with
      tras := c.tras }).put .SCK_IOD_STATE (F.SCK_IOD_STATE_CHANNEL c.chan) 0 := by
  unfold trainChan
  dsimp only
  rw [h0, h1, if_pos ⟨hok, decide_eq_true hh, rfl⟩]
  unfold setBlockState
  rw [if_pos c.chan.isLt, if_neg (fun h => absurd h.1 (by decide))]
  rfl

theorem regsOnly_oneDimm (s : State) (c : ChanTrain) (m : DimmInfo) : regsOnly s (oneDimmCfg (oneDimm s c m) c.chan) :=
  ((((((regsOnly_wr ..).trans (regsOnly_wr ..)).trans (regsOnly_wr ..)).trans (regsOnly_put ..)).trans (regsOnly_put ..)).trans
    (regsOnly_put ..)).trans (regsOnly_put ..)

theorem regsBut_oneDimmCfg (u : State) (n : Nat) : regsBut u (oneDimmCfg u n) [.MC_CFG n] :=
  regsBut.trans (regsBut.trans (regsBut.trans (regsBut_put _ _ _ _) (regsBut_put _ _ _ _)) (regsBut_put _ _ _ _)) (regsBut_put _ _ _ _)

theorem oneDimmCfg_fields (u : State) (n : Nat) : (oneDimmCfg u n).get (.MC_CFG n) F.MC_CFG_SPEED = 0 ∧
    (oneDimmCfg u n).get (.MC_CFG n) F.MC_CFG_DPC = 1 ∧
    (oneDimmCfg u n).get (.MC_CFG n) F.MC_CFG_ENABLE = u.get (.MC_CFG n) F.MC_CFG_ENABLE := by
  refine ⟨?_, ?_, ?_⟩
  · rw [oneDimmCfg, State.get_put_apart (by decide) (by decide) (by decide), State.get_put_self (by decide) (by decide)]
    rfl
  · rw [oneDimmCfg, State.get_put_self (by decide) (by decide)]
    rfl
  · unfold oneDimmCfg
    dsimp only
    rw [State.get_put_apart (by decide) (by decide) (by decide), State.get_put_apart (by decide) (by decide) (by decide),
      State.get_put_apart (by decide) (by decide) (by decide), State.get_put_apart (by decide) (by decide) (by decide)]

theorem oneDimm_regs (s : State) (c : ChanTrain) (m : DimmInfo) : (oneDimm s c m).rd (.MC_DIMM c.chan 0) = dimmWord m ∧
    (oneDimm s c m).rd (.MC_DIMM c.chan 1) = 0 ∧ (oneDimm s c m).rd (.MC_CFG c.chan) = s.rd (.MC_CFG c.chan) := by
  have h1 (k : Nat) (hk : k < 2) : (Reg.MC_DIMM c.chan k).key ≠ (Reg.MC_TIMING c.chan).key := by rw [key_mcDimm, key_mcTiming]; omega
  have h2 : (Reg.MC_DIMM c.chan 0).key ≠ (Reg.MC_DIMM c.chan 1).key := by rw [key_mcDimm, key_mcDimm]; omega
  have h3 (k : Nat) : (Reg.MC_CFG c.chan).key ≠ (Reg.MC_DIMM c.chan k).key := by rw [key_mcDimm, key_mcCfg]; omega
  have h4 : (Reg.MC_CFG c.chan).key ≠ (Reg.MC_TIMING c.chan).key := by rw [key_mcTiming, key_mcCfg]; omega
  refine ⟨?_, ?_, ?_⟩
  · rw [oneDimm, State.rd_wr_ne _ _ _ _ (h1 0 (by decide)), State.rd_wr_ne _ _ _ _ h2, State.rd_wr_self]
  · rw [oneDimm, State.rd_wr_ne _ _ _ _ (h1 1 (by decide)), State.rd_wr_self]
  · rw [oneDimm, State.rd_wr_ne _ _ _ _ h4, State.rd_wr_ne _ _ _ _ (h3 1), State.rd_wr_ne _ _ _ _ (h3 0)]

/-- What `setFolState` leaves of the units. -/
theorem units_setFolState (u : State) (n : Nat) : (setFolState u n).chans = u.chans ∧ (setFolState u n).dram = u.dram ∧
    (setFolState u n).folio = u.folio ∧ (setFolState u n).links = u.links ∧ (setFolState u n).cores = u.cores := by
  unfold setFolState
  split
  · exact ⟨rfl, rfl, rfl, rfl, rfl⟩
  · exact ⟨rfl, rfl, rfl, rfl, rfl⟩

theorem bootDimm_one {m : DimmInfo} (h : s.arc.phase = 5) (he : (readFolio (slotFolio s) false).chanEnabled c.chan.val = true)
    (hok : c.ok = true) (h0 : c.slot0 = some m) (h1 : c.slot1 = none) (hh : m.height.toNat ≤ 2) :
    ∃ t, exec (.bootDimmTraining [c]) s = .next t ∧ t.rd (.MC_DIMM c.chan 0) = dimmWord m ∧ t.rd (.MC_DIMM c.chan 1) = 0 ∧
      t.get (.MC_CFG c.chan) F.MC_CFG_SPEED = 0 ∧ t.get (.MC_CFG c.chan) F.MC_CFG_DPC = 1 ∧
      t.get (.MC_CFG c.chan) F.MC_CFG_ENABLE = s.get (.MC_CFG c.chan) F.MC_CFG_ENABLE ∧ chansBut s t [c.chan.val] ∧
      t.dram = s.dram ∧ t.folio = s.folio ∧ t.links = s.links ∧ t.cores = s.cores := by
  have hx := bootDimmTraining_spec [c] h
  rw [List.filter_cons_of_pos (by exact he), List.filter_nil, show overAll [c] trainChan s = trainChan s c from rfl,
    trainChan_of_one hok h0 h1 hh] at hx
  obtain ⟨d0, d1, d2⟩ := oneDimm_regs s c m
  obtain ⟨f1, f2, f3⟩ := oneDimmCfg_fields (oneDimm s c m) c.chan
  have hr := regsBut_oneDimmCfg (oneDimm s c m) c.chan
  have ho := regsOnly_oneDimm s c m
  rw [State.get, State.get, d2, ← State.get, ← State.get] at f3
  generalize oneDimm s c m = w at *
  generalize oneDimmCfg w c.chan = a at *
  have hk (k : Nat) : (Reg.MC_DIMM c.chan k).key ≠ (Reg.MC_CFG c.chan).key := by rw [key_mcDimm, key_mcCfg]; omega
  generalize hu : (a.setChan c.chan { a.chan c.chan with tras := c.tras }).put .SCK_IOD_STATE (F.SCK_IOD_STATE_CHANNEL c.chan) 0 = u at hx
  have hrd (r : Reg) (hr : r.key < 0xF00004000000) (hr' : 0xF00003000000 ≤ r.key) : (bootNext (setFolState u 3) 6).rd r = a.rd r := by
    refine (regsBut_setFolState u 3 r (by simpa [key_folState] using by omega)).trans ?_
    rw [← hu, State.rd_put_ne (by rw [key_iodState]; omega), State.rd_setChan]
  have hdimm (k : Nat) (hk : k < 2) : (bootNext (setFolState u 3) 6).rd (.MC_DIMM c.chan k) = a.rd (.MC_DIMM c.chan k) :=
    hrd _ (by rw [key_mcDimm]; omega) (by rw [key_mcDimm]; omega)
  have hcfg (f : Fld) : (bootNext (setFolState u 3) 6).get (.MC_CFG c.chan) f = a.get (.MC_CFG c.chan) f :=
    congrArg f.get (hrd _ (by rw [key_mcCfg]; omega) (by rw [key_mcCfg]; omega))
  obtain ⟨g1, g2, g3, g4, g5⟩ := units_setFolState u 3
  rw [regsOnly] at ho
  refine ⟨_, hx, ?_, ?_, (hcfg _).trans f1, (hcfg _).trans f2, (hcfg _).trans f3, fun n hn => ?_, g2.trans ?_, g3.trans ?_, g4.trans ?_, g5.trans ?_⟩
  · rw [hdimm 0 (by decide), hr _ (by simpa using hk 0), d0]
  · rw [hdimm 1 (by decide), hr _ (by simpa using hk 1), d1]
  · have hn' : (a.setChan c.chan { a.chan c.chan with tras := c.tras }).chan n = a.chan n := State.chan_setChan_ne _ _ _ _ (by simpa using hn)
    have ha : a.chan n = s.chan n := by rw [ho]; rfl
    rw [← ha, ← hn']
    show (setFolState u 3).chan n = _
    rw [State.chan, g1, ← hu]
    rfl
  · rw [← hu, ho]; rfl
  · rw [← hu, ho]; rfl
  · rw [← hu, ho]; rfl
  · rw [← hu, ho]; rfl

theorem bootDimmTraining_any (chans : List ChanTrain) (h : s.arc.phase = 5) : ∃ t, exec (.bootDimmTraining chans) s = .next t ∧
    t.arc.phase = 6 ∧ t.get .FOL_STATE F.FOL_STATE_STATE = 3 ∧
    (chans.filter (fun t => (readFolio (slotFolio s) false).chanEnabled t.chan.val) = [] →
      regsBut s t [.FOL_STATE] ∧ t = { s with regs := t.regs, arc := t.arc, out := t.out }) := by
  refine ⟨_, bootDimmTraining_spec chans h, rfl, get_setFolState _ (by decide), fun he => ?_⟩
  rw [he]
  exact ⟨regsBut_bootDimm s, (bootOnly_setFolState s 3).trans (bootOnly_arc ..)⟩

end Dimms

theorem bootSteps : Claim.BootSteps := by
  refine ⟨fun offers s h => ⟨_, if_neg (not_not.mpr h), rfl⟩, fun s h => bootRevsetCheck_spec h, fun chans s h => bootDimmTraining_any chans h,
    fun s h => ?_, fun s h => bootMeminit_spec h, fun s h => bootHouseImage_spec h, fun s c h hc => bootRun_spec h hc,
    fun s h => houseRestart_inert h, fun s c h6 hl ha hc => houseRestart_spec h6 hl ha hc⟩
  show match applyBad s with | none => _ | some b => _
  cases hb : applyBad s with
  | none => exact bootApply_folio h hb
  | some b => exact bootApply_inert h hb

theorem bootDimm : Claim.BootDimm := fun _ _ _ h he hok h0 h1 hh => bootDimm_one h he hok h0 h1 hh

/-! ### Addenda (R80, R81, R481) -/

section Addenda
variable {s : State} {who : Agent} {v : Word}

theorem key_folStatus : Reg.FOL_STATUS.key = 0xF00000000008 := rfl

theorem key_folErr : Reg.FOL_ERR.key = 0xF000000000A0 := rfl

/-- An arrival at a tally that is not full changes its register, and FLT_INJECT where it injects. -/
theorem regsBut_arrive {n : Nat} (hex : sourceExists n = true) (h : s.tally n < 255) :
    regsBut s (s.arrive n) [.TIC_TALLY (n / 8), .FLT_INJECT] := by
  intro r hr
  rw [State.arrive, if_neg (by simp [hex]), if_pos h, State.setTally,
    rd_sramWrite_of_ne (hr .FLT_INJECT (by simp)), State.rd_put_ne (hr _ (by simp))]

/-- The registers of a refusal, before its arrival. -/
def refusalSaid (s : State) (b : Bad) : State :=
  (setFolStatus (s.put .FOL_ADD_STATE F.FOL_ADD_STATE_CODE b.code) b).put .FOL_ERR F.FOL_ERR_ADD_REFUSED 1

theorem refuseAddendum_eq (s : State) (b : Bad) : refuseAddendum s b = (refusalSaid s b).arrive 2 := rfl

theorem tally_refusalSaid (s : State) (b : Bad) : (refusalSaid s b).tally 2 = s.tally 2 := by
  have h (r : Reg) (hr : r.key < 0xF00000001000) : (Reg.TIC_TALLY (2 / 8)).key ≠ r.key := by rw [key_ticTally]; omega
  rw [refusalSaid, State.tally, State.get_put_ne (h _ (by rw [key_folErr]; decide)), setFolStatus,
    State.get_wr_ne (h _ (by rw [key_folStatus]; decide)), State.get_put_ne (h _ (by rw [key_folAddState]; decide)), State.tally]

theorem regsBut_refusalSaid (s : State) (b : Bad) : regsBut s (refusalSaid s b) [.FOL_ADD_STATE, .FOL_STATUS, .FOL_ERR] :=
  regsBut.trans (regsBut.trans (regsBut.mono (regsBut_put s _ _ _) (by simp)) (regsBut.mono (regsBut_wr _ _ _) (by simp)))
    (regsBut.mono (regsBut_put _ _ _ _) (by simp))

theorem refusalSaid_fields (s : State) (b : Bad) :
    (refusalSaid s b).get .FOL_ADD_STATE F.FOL_ADD_STATE_CODE = b.code % 2 ^ 16 ∧
    (refusalSaid s b).get .FOL_ADD_STATE F.FOL_ADD_STATE_STATE = s.get .FOL_ADD_STATE F.FOL_ADD_STATE_STATE ∧
    (refusalSaid s b).rd .FOL_STATUS = (setFolStatus s b).rd .FOL_STATUS ∧ (refusalSaid s b).get .FOL_ERR F.FOL_ERR_ADD_REFUSED = 1 := by
  refine ⟨?_, ?_, ?_, ?_⟩
  · rw [refusalSaid, State.get_put_ne (by decide), setFolStatus, State.get_wr_ne (by decide), State.get_put_self (by decide) (by decide)]
    rfl
  · rw [refusalSaid, State.get_put_ne (by decide), setFolStatus, State.get_wr_ne (by decide), State.get_put_apart (by decide) (by decide) (by decide)]
  · rw [refusalSaid, State.rd_put_ne (by decide), setFolStatus, State.rd_wr_self, setFolStatus, State.rd_wr_self]
  · rw [refusalSaid, State.get_put_self (by decide) (by decide)]
    rfl

theorem addendumGo_stranger (h : s.isHouse who = false) : exec (.addendumGo who v) s = .next s := if_pos (by rw [h]; rfl)

theorem addendumGo_busy (hh : s.isHouse who = true) (hv : v.getLsbD 0 = true) (hp : s.get .FOL_ADD_STATE F.FOL_ADD_STATE_STATE ≠ 0) :
    exec (.addendumGo who v) s = .next ((refusalSaid s ⟨0x504, 0, 0⟩).arrive 2) := by
  refine (if_neg (by rw [hh, hv]; decide)).trans ?_
  exact if_pos hp

theorem addendumGo_refused (hh : s.isHouse who = true) (hv : v.getLsbD 0 = true) (hp : s.get .FOL_ADD_STATE F.FOL_ADD_STATE_STATE ≠ 0)
    (ht : s.tally 2 < 255) :
    ∃ t, exec (.addendumGo who v) s = .next t ∧ t.get .FOL_ADD_STATE F.FOL_ADD_STATE_CODE = 0x504 ∧
      t.get .FOL_ADD_STATE F.FOL_ADD_STATE_STATE = s.get .FOL_ADD_STATE F.FOL_ADD_STATE_STATE ∧
      t.rd .FOL_STATUS = 0x504 ∧ t.get .FOL_ERR F.FOL_ERR_ADD_REFUSED = 1 ∧ t.tally 2 = s.tally 2 + 1 ∧
      regsBut s t [.FOL_ADD_STATE, .FOL_STATUS, .FOL_ERR, .TIC_TALLY 0, .FLT_INJECT] ∧
      t = { s with regs := t.regs, flips := t.flips } := by
  have hx := addendumGo_busy hh hv hp
  obtain ⟨f1, f2, f3, f4⟩ := refusalSaid_fields s ⟨0x504, 0, 0⟩
  have htl := tally_refusalSaid s ⟨0x504, 0, 0⟩
  have hrb := regsBut_refusalSaid s ⟨0x504, 0, 0⟩
  have hs : sameUnits s (refusalSaid s ⟨0x504, 0, 0⟩) := ((sameUnits_put s ..).trans (sameUnits_wr ..)).trans (sameUnits_put ..)
  generalize refusalSaid s ⟨0x504, 0, 0⟩ = u at *
  have hex : sourceExists 2 = true := by decide
  have hlt : u.tally 2 < 255 := htl ▸ ht
  have hrd {r : Reg} (hr : r.key < 0xF00000001000) : (u.arrive 2).rd r = u.rd r := rd_arrive ⟨by omega, by omega⟩ ..
  refine ⟨_, hx, (congrArg _ (hrd (by decide))).trans f1, (congrArg _ (hrd (by decide))).trans f2, (hrd (by decide)).trans (f3.trans ?_),
    (congrArg _ (hrd (by decide))).trans f4, (tally_arrive hex hlt).trans (by rw [htl]), ?_, hs.trans (sameUnits_arrive ..)⟩
  · rw [setFolStatus, State.rd_wr_self]
    rfl
  · exact regsBut.trans (regsBut.mono hrb (by simp)) (regsBut.mono (regsBut_arrive hex hlt) (by simp))

/-- A GO that starts the copy. -/
theorem addendumGo_starts (hh : s.isHouse who = true) (hv : v.getLsbD 0 = true) (hp : s.get .FOL_ADD_STATE F.FOL_ADD_STATE_STATE = 0)
    (hl : 0x90 ≤ (s.rd .FOL_ADD_LEN).toNat) (hm : (s.rd .FOL_ADD_LEN).toNat ≤ 0x100000)
    (hi : inHousePrivate s (s.rd .FOL_ADD_ADDR).toNat (s.rd .FOL_ADD_LEN).toNat = true) :
    ∃ ms, exec (.addendumGo who v) s = .next (putTransfers { s.put .FOL_ADD_STATE F.FOL_ADD_STATE_STATE 1 with
      arc := { s.arc with serving := s.arc.serving.set 66 ⟨[], (lineParts (s.rd .FOL_ADD_ADDR).toNat (s.rd .FOL_ADD_LEN).toNat).map (·.1),
        true, false, none, false⟩ } } 25 ms) := by
  have hx : exec (.addendumGo who v) s = execAddendumGo who v s := rfl
  rw [hx]
  unfold execAddendumGo
  dsimp only
  rw [if_neg (by rw [hh, hv]; decide), if_neg (not_not.mpr hp), if_neg (by omega), if_neg (by rw [hi]; decide)]
  exact ⟨_, rfl⟩

/-- A state with new registers and transfers, of which the Archivist is known. -/
theorem copying_eq {u t : State} {a : Arc} (hu : regsOnly s u) (h : pointsOnly { u with arc := a } t) :
    t = { s with regs := t.regs, arc := t.arc, outbox := t.outbox, points := t.points } ∧ (∀ r, t.rd r = u.rd r) ∧ t.arc = a := by
  refine ⟨?_, fun r => h.rd r, (congrArg State.arc h).trans rfl⟩
  rw [regsOnly] at hu
  rw [h, hu]

theorem addendumGo_copies (hh : s.isHouse who = true) (hv : v.getLsbD 0 = true) (hp : s.get .FOL_ADD_STATE F.FOL_ADD_STATE_STATE = 0)
    (hl : 0x90 ≤ (s.rd .FOL_ADD_LEN).toNat) (hm : (s.rd .FOL_ADD_LEN).toNat ≤ 0x100000)
    (hi : inHousePrivate s (s.rd .FOL_ADD_ADDR).toNat (s.rd .FOL_ADD_LEN).toNat = true) :
    ∃ t, exec (.addendumGo who v) s = .next t ∧ t.get .FOL_ADD_STATE F.FOL_ADD_STATE_STATE = 1 ∧
      t.arc.serving.get? 66 = some ⟨[], (lineParts (s.rd .FOL_ADD_ADDR).toNat (s.rd .FOL_ADD_LEN).toNat).map (·.1), true, false,
        none, false⟩ ∧
      regsBut s t [.FOL_ADD_STATE] ∧
      t = { s with regs := t.regs, arc := { s.arc with serving := t.arc.serving }, outbox := t.outbox, points := t.points } := by
  obtain ⟨ms, hx⟩ := addendumGo_starts hh hv hp hl hm hi
  generalize ha : ({ s.arc with serving := s.arc.serving.set 66 ⟨[], (lineParts (s.rd .FOL_ADD_ADDR).toNat
    (s.rd .FOL_ADD_LEN).toNat).map (·.1), true, false, none, false⟩ } : Arc) = a at hx
  have ho := pointsOnly_putTransfers { s.put .FOL_ADD_STATE F.FOL_ADD_STATE_STATE 1 with arc := a } 25 ms
  generalize putTransfers { s.put .FOL_ADD_STATE F.FOL_ADD_STATE_STATE 1 with arc := a } 25 ms = t at *
  obtain ⟨heq, hrd, harc⟩ := copying_eq (regsOnly_put ..) ho
  refine ⟨t, hx, ?_, ?_, fun r hr => (hrd r).trans (regsBut_put s _ _ _ r hr), ?_⟩
  · rw [State.get, hrd, ← State.get, State.get_put_self (by decide) (by decide)]
    rfl
  · rw [harc, ← ha]
    exact NMap.get?_set_self ..
  · have h2 : ({ s.arc with serving := t.arc.serving } : Arc) = t.arc := by rw [harc, ← ha]
    rw [h2]
    exact heq

end Addenda

/-- The checks of an addendum whose copy is whole (R481 steps 3 to 6). -/
def copyBad (u : State) (buf : List Byte) (a : Folio) (len : Nat) : Option Bad :=
  firstBad [imageBad u buf true len, addendumBad u buf a, diesBad u (amended u.folio a.marked),
    foliosBad u (amended u.folio a.marked) buf a true (disorderBad (amended u.folio a.marked) a.marked), stateBad u (amended u.folio a)]

/-- The state after the transfers of an addendum's copy have been dropped. -/
def copyOver (s : State) : State := { s with arc := { s.arc with serving := s.arc.serving.erase 66 } }

theorem addendumCopyDone_spec {s : State} {v : Serving} (hs : s.arc.serving.get? 66 = some v) (hd : v.due = [])
    (hp : s.get .FOL_ADD_STATE F.FOL_ADD_STATE_STATE = 1) {buf : List Byte}
    (hb : readBytes v.lines (s.rd .FOL_ADD_ADDR).toNat (s.rd .FOL_ADD_LEN).toNat = buf) :
    exec .addendumCopyDone s = .next ((copyBad (copyOver s) buf (readFolio buf true) (s.rd .FOL_ADD_LEN).toNat).elim
      (pendAddendum (setFolStatus (copyOver s) accepted) (imBytes buf 0 (imLe buf 8 4)) (readFolio buf true)
        (amended s.folio (readFolio buf true)))
      (fun b => refuseAddendum ((copyOver s).put .FOL_ADD_STATE F.FOL_ADD_STATE_STATE 0) b)) := by
  have hx : exec .addendumCopyDone s = execAddendumCopyDone s := rfl
  rw [hx]
  unfold execAddendumCopyDone
  rw [show s.arc.serving.get? copyId = some v from hs]
  dsimp only
  rw [if_neg (by rintro (h | h); exacts [h hp, h hd]), hb, copyId, ← copyOver]
  have hf : s.folio = (copyOver s).folio := rfl
  rw [hf, ← copyBad]
  cases copyBad (copyOver s) buf (readFolio buf true) (s.rd .FOL_ADD_LEN).toNat <;> rfl

theorem addendum : Claim.Addendum := by
  refine ⟨fun who v s h => addendumGo_stranger h, fun who v s hh hv hp hl hm hi => addendumGo_copies hh hv hp hl hm hi,
    fun who v s hh hv hp ht => addendumGo_refused hh hv hp ht, fun s v hs hd hp => ?_⟩
  have hx := addendumCopyDone_spec hs hd hp rfl
  intro buf u a g m
  show match copyBad (copyOver s) buf a (s.rd .FOL_ADD_LEN).toNat with | some b => _ | none => _
  cases hb : copyBad (copyOver s) buf a (s.rd .FOL_ADD_LEN).toNat with
  | none => rw [hx, hb]; rfl
  | some b => rw [hx, hb]; rfl

/-- Settles O5, by the outcome of each boot step, of the training of one channel, and of each GO and end of an addendum's copy. -/
theorem bootRun : Obligations.BootRun := ⟨bootSteps, bootDimm, addendum⟩

end Sys2Proof.Machine
end

section
/-! SUPPORT. Accesses of a core whose die holds more write-backs than its buffer has entries (R220) -/

namespace Sys2Proof.Machine

/-! ### A core whose die's write-back buffer holds more than its 32 entries (R220) -/

/-- The notice of a clean line 9 that die 0 has sent away. -/
def sentNotice : WbEnt := ⟨dieMsg 0 .evictClean 0 9 24, false⟩

/-- A line 0 that a core's L2 holds in M. -/
def ownedLine : L2Line := ⟨0, 3, 0, false⟩

/-- A draining entry of line 0 of a merging buffer, of its first byte. -/
def drainingEntry : MbEnt := ⟨0, 0xFF, 1, false, true, false⟩

/-- The folio of the hand 0 in open mode, with a window of 1 MiB at address 0. -/
def windowFolio : Folio :=
  { Folio.empty with
    hands := [⟨0, false, 0, 1, 0, 1, 0, []⟩]
    map := { Folio.empty.map with windows := [⟨0, 0, 0x100000, 1, 3, []⟩] } }

/-- Core 0 of hand 0, RUNNING on a die in Play, with memory installed, line 0 in M in its L2, the entries `mb` in its merging buffer, and 33 entries in the
write-back buffer of its die. -/
def overfullState (mb : List MbEnt) : State :=
  { (((((State.reset.wr (.FAB_HAND_CORES 0 0) 1).wr (.CORE_STATE 0) 3).put (.SCK_DIE 0) F.SCK_DIE_STATE 0).put (.SCK_DIE 0) F.SCK_DIE_TARGET 0).put
      (.MC_CFG 0) F.MC_CFG_ENABLE 1).put (.MC_CFG 0) F.MC_CFG_RANKS 2 with
    folio := windowFolio
    cores := [(0, { Core.init with l2 := [ownedLine], mb := mb })]
    dies := [(0, { Die.init with wb := List.replicate 33 sentNotice })] }

theorem mb_overfull : ((outState (overfullState [drainingEntry]) (exec (.mbEntryDrained 0 0) (overfullState [drainingEntry]))).core 0).mb ≠ [] := by
  decide +kernel

/-- Refutes O13: where the write-back buffer of the die holds more than its 32 entries, an access of a line by a core waits, whatever line it
is; so a draining entry whose line the L2 holds in M stays in the merging buffer. -/
theorem not_coreMemory : ¬ Obligations.CoreMemory := by
  rintro ⟨-, -, ⟨-, h, -⟩, -⟩
  obtain ⟨t, ht, hm, -⟩ := h 0 0 (overfullState [drainingEntry]) drainingEntry ownedLine (by decide +kernel) rfl rfl rfl rfl rfl (by decide) (by decide) rfl rfl rfl
  have hn := mb_overfull
  rw [ht] at hn
  exact hn hm

/-- An AMOADD.D of x2 to the address in x1. -/
def amoAdd : AmoOp := ⟨.add, 3, 1, 2, 8, false, false⟩

/-- What the access of that atomic finds. -/
def amoPlace : Place1 × State := locate (overfullState []) 0 (maskVa (overfullState []) 0 .store ((overfullState []).xreg 0 1)) 8 .store .atomic false

theorem amoPlace_dram : amoPlace = (.at_ 0 0 .dram, amoPlace.2) := Prod.ext (by decide +kernel) rfl

theorem pc_overfull : ((outState (overfullState []) (exec (.amo 0 amoAdd) (overfullState []))).core 0).pc ≠ (amoPlace.2.core 0).pc + 4 := by decide +kernel

/-- Refutes O14: an AMO on a line that the core's L2 holds in M waits, and does not retire, where the write-back buffer of the die holds more
than its 32 entries; the statement does not ask for room in it, as it does for CBO.ZERO. -/
theorem not_coreAtomicsCbo : ¬ Obligations.CoreAtomicsCbo := by
  rintro ⟨h, -⟩
  obtain ⟨ha, -⟩ := h 0 amoAdd (overfullState []) amoPlace.2 0 ownedLine (by decide +kernel) (.inr rfl) rfl (by decide +kernel) (by decide +kernel) (by decide +kernel)
    (by decide +kernel) rfl rfl (by decide +kernel) (by decide +kernel) (by decide)
  obtain ⟨⟨t, ht, -, -, -, hpc, -⟩, -⟩ := ha (by decide +kernel) amoPlace_dram
  have hn := pc_overfull
  rw [ht] at hn
  exact hn hpc

end Sys2Proof.Machine
end
